-- ==== Sys2Proof/Word.lean ====
section
/-!
DEFINITION. The word types of the model and nothing else: a byte, a 32-bit register word, a 64-bit word.
Bit 0 is the least significant bit and every multi-byte field is little-endian (R4).
-/

namespace Sys2Proof

/-- One byte. -/
abbrev Byte := BitVec 8

/-- One BAR0 register word (32 bits, R5). -/
abbrev Word := BitVec 32

/-- One 64-bit word: a frame word, an event argument, a key half. -/
abbrev DWord := BitVec 64

end Sys2Proof
end

