-- ==== Sys2Proof/Machine/Store.lean ====
section
/-!
DEFINITION. Sparse tables as plain data: a list of (key, value) pairs with a default for an unlisted key, and the
bit-field and byte-order helpers that every other file uses (R4). A write keeps ONE canonical form: keys strictly
rising, and no entry equal to the default.
-/

namespace Sys2Proof.Machine

/-- A sparse table: pairs of key and value, keys strictly rising, no value equal to the table's default. -/
abbrev Store (α : Type) := List (Nat × α)

/-- The value at key `k`; an unlisted key reads as the default `d`. -/
def Store.get {α : Type} (d : α) : Store α → Nat → α
  | [], _ => d
  | (a, v) :: t, k => if a = k then v else Store.get d t k

/-- Insert a pair into its place, replacing an entry of the same key. -/
def Store.ins {α : Type} (k : Nat) (v : α) : Store α → Store α
  | [] => [(k, v)]
  | (a, w) :: t =>
    if k < a then (k, v) :: (a, w) :: t
    else if k = a then (k, v) :: t
    else (a, w) :: Store.ins k v t

/-- Write `v` at key `k`; writing the default removes the entry. -/
def Store.put {α : Type} [DecidableEq α] (d : α) (l : Store α) (k : Nat) (v : α) : Store α :=
  if v = d then l.filter (fun p => p.1 ≠ k) else Store.ins k v l

/-- The canonical form as a Boolean: keys strictly rising and no entry at the default. -/
def Store.wf {α : Type} [DecidableEq α] (d : α) : Store α → Bool
  | [] => true
  | (a, v) :: t => decide (v ≠ d) && t.all (fun p => decide (a < p.1)) && Store.wf d t

/-- Apply `f` to the value at key `k`. -/
def Store.modify {α : Type} [DecidableEq α] (d : α) (l : Store α) (k : Nat) (f : α → α) : Store α :=
  Store.put d l k (f (Store.get d l k))

/-- Bits `[lo+w-1 : lo]` of a number. -/
def bits (x lo w : Nat) : Nat := x / 2 ^ lo % 2 ^ w

/-- One bit of a number as a Boolean. -/
def bitAt (x i : Nat) : Bool := x / 2 ^ i % 2 = 1

/-- A number with bits `[lo+w-1 : lo]` replaced by `v`. -/
def setBits (x lo w v : Nat) : Nat := x - bits x lo w * 2 ^ lo + v % 2 ^ w * 2 ^ lo

/-- A number with bit `i` set. -/
def setBit (x i : Nat) : Nat := if bitAt x i then x else x + 2 ^ i

/-- A number with bit `i` cleared. -/
def clrBit (x i : Nat) : Nat := if bitAt x i then x - 2 ^ i else x

/-- How many of the low `n` bits of `x` are one. -/
def popCount (n x : Nat) : Nat := (List.range n).countP (fun i => bitAt x i)

/-- The positions, rising, of the ones among the low `n` bits of `x`. -/
def onesOf (n x : Nat) : List Nat := (List.range n).filter (fun i => bitAt x i)

/-- A Boolean as the number 0 or 1. -/
def b2n (b : Bool) : Nat := if b then 1 else 0

/-- The signed value of the low `w` bits of `x`, two's complement. -/
def toSigned (w x : Nat) : Int :=
  let y := x % 2 ^ w
  if y < 2 ^ (w - 1) then (y : Int) else (y : Int) - (2 ^ w : Nat)

/-- The `w`-bit two's complement pattern of an integer. -/
def ofSigned (w : Nat) (x : Int) : Nat := (x % ((2 ^ w : Nat) : Int)).toNat

/-- The little-endian bytes of a number, `n` of them (R4). -/
def leBytes : Nat → Nat → List Byte
  | 0, _ => []
  | n + 1, x => BitVec.ofNat 8 x :: leBytes n (x / 256)

/-- The number that little-endian bytes spell (R4). -/
def ofLe : List Byte → Nat
  | [] => 0
  | b :: t => b.toNat + 256 * ofLe t

/-- Bytes `[off, off + n)` of a byte list as a little-endian number; bytes past the end count as 0. -/
def leAt (bs : List Byte) (off n : Nat) : Nat := ofLe ((bs.drop off).take n)

/-- `⌈a ÷ b⌉`. -/
def ceilDiv (a b : Nat) : Nat := (a + b - 1) / b

/-- An integer held between two limits. -/
def clampInt (lo hi x : Int) : Int := if x < lo then lo else if x > hi then hi else x

/-- Cut a byte list into pieces of `n` bytes, the last one possibly shorter; `fuel` bounds the number of pieces. -/
def chunks (n : Nat) : Nat → List Byte → List (List Byte)
  | 0, _ => []
  | fuel + 1, l => if l.isEmpty then [] else l.take n :: chunks n fuel (l.drop n)

/-- A byte list padded with zero bytes to `n` bytes. -/
def padTo (n : Nat) (l : List Byte) : List Byte := l ++ List.replicate (n - l.length) 0#8

end Sys2Proof.Machine
end

