-- ==== Sys2Proof/Machine/Operands.lean ====
section
/-!
DEFINITION. The operand forms of the commands: who asks, which command is meant, what a DMA fault was, and the
records that outside parties deliver.
-/

namespace Sys2Proof.Machine

/-- How a command reached the device: by the task slot of a stream, as a tag of a tagged queue (R74), or as the
member-local part of a lead's command in a MGMT packet with its TAG (R340). -/
inductive Src where
  | slot (stream : BitVec 20)
  | tag (queue : BitVec 6) (tag : BitVec 5)
  | mgmt (tag : BitVec 16)
  deriving DecidableEq, Repr

/-- A requester of register reads: host port A, host port B or the management path (R453). -/
inductive Req where
  | portA | portB | mgmt
  deriving DecidableEq, Repr

/-- Which device-issued DMA read is meant: a tag's entry, a descriptor list, or host data (R53). -/
inductive DmaWhat where
  | entry | list | data
  deriving DecidableEq, Repr

/-- How a device-issued DMA read failed (R53). -/
inductive DmaFault where
  | poisoned | unsupported | aborted | timeout
  deriving DecidableEq, Repr

/-- The registers of a queue or ring that TQ_CFG_WRITE and CR_CFG_WRITE write (Tables 04-12, 04-13). -/
inductive CfgPart where
  | baseLo | baseHi | cfg
  deriving DecidableEq, Repr

/-- What a codeword on a medium is: a copy on tape read while writing, named by its frame slot; a codeword of a data
set; a position of a zone; a position of a landing ring. -/
inductive CwTarget where
  | verify (slot : BitVec 64)
  | tape (part : Bool) (ds : BitVec 32) (cw : BitVec 8)
  | zone (zone : BitVec 20) (pos : BitVec 17)
  | landing (surface : BitVec 5) (pos : BitVec 32)
  deriving DecidableEq, Repr

/-- For whom a codeword is read (Table 10-8); a verify codeword's class follows from its target. -/
inductive CwUse where
  | read | readback | background
  deriving DecidableEq, Repr

/-- What a lane's analogue side and its slicer deliver for a codeword: the VGA code found in the gain phase (none in a
re-sync field, where it is held), the NCO phase that the phase estimate gives, the timing error of each bit after it in
2^-16 of a bit, the bit at which the mark was found, the digital gain at the end, the sum over the locked bits of error
times sample for each equalizer tap, and the bit at which the equalizer error exceeded 4 times its value at the mark (R238
to R240). -/
structure LaneRun where
  vga : Option (BitVec 7)
  phase : BitVec 32
  terr : List (BitVec 16)
  mark : BitVec 16
  gain : BitVec 16
  grad : List (BitVec 48)
  eqDrop : Option (BitVec 16)
  deriving DecidableEq, Repr

/-- The sliced bits of the search windows of a codeword, each from its window's first position on: the tape's sync mark or
mark A, mark B, and the fragment mark of a sector that has a continuation; with the outcome of a replay from mark B. -/
structure MarkScan where
  a : List Bool
  b : List Bool
  frag : Option (List Bool)
  replayed : Bool
  deriving DecidableEq, Repr

/-- The identity that a decoded codeword shows: the CWID copies A and B of a tape frame, or the unit header of a disk
sector (R155, R212). -/
inductive CwIdent where
  | cwid (a b : BitVec 192)
  | header (bytes : BitVec 512)
  deriving DecidableEq, Repr

/-- The marks a lane found (Tables 09-7 and 10-4): both with the counted A–B distance less 17,968 and whether each lies
within 4 bits of its predicted position; only mark A, or the one mark of a tape frame; only mark B, with the outcome of
the replay; none. -/
inductive Framing where
  | both (delta : BitVec 16) (aNear bNear : Bool)
  | aOnly
  | bOnly (replayed : Bool)
  | neither
  deriving DecidableEq, Repr

/-- What a servo lane sees of a servo frame (Table 10-6): its mark in the window, more than half of the samples at full
scale, the VGA code at its limit, the burst sums with the nominal sum, and the lateral error in nm. -/
structure ServoIn where
  found : Bool
  half : Bool
  vga : Bool
  sums : List (BitVec 16)
  nominal : BitVec 18
  error : BitVec 16
  deriving DecidableEq, Repr

/-- How a cell's work ended (R255, R256, R259): a decode with its verdicts, framing probes with their W0 in candidate
order, or a self-check; a memory parity error ends any of them. -/
inductive CellRes where
  | decode (converged syndromeZero tagOk : Bool) (ident : CwIdent) (w0 : BitVec 12) (iters : BitVec 6)
  | probes (w0 : List (BitVec 12))
  | selfCheck (ok : Bool)
  | parity
  deriving DecidableEq, Repr

/-- What one channel does in a data field (R269, R270): its head and track, the sector positions of the track that its
write owns (the first and how many), the zone position or landing position that the first of them is, and whether its
write begins and ends in the field. -/
structure FieldWrite where
  head : BitVec 5
  track : BitVec 24
  first : BitVec 12
  count : BitVec 12
  zone : Option (BitVec 20)
  pos : BitVec 32
  start : Bool
  stop : Bool
  deriving DecidableEq, Repr

/-- What a temperature sensor's conversion sees (R389 to R391): an open or a short at the pin, a missed status read, the
reading of an internal sensor or a preamp in 0.0625 °C, the voltage difference of a diode in nV, or the resistance of a
thermistor in Ω. -/
inductive SensorIn where
  | openPin | shortPin | missed
  | internal (reading : BitVec 16)
  | diode (nv : BitVec 32)
  | thermistor (ohms : BitVec 32)
  deriving DecidableEq, Repr

/-- What a read of a memory serves, so whose work a bus error ends (R14, R24, Tables 06-5 and 16-5): the memory controller
itself; a host command whose not yet accepted data, queue entries or descriptors the unit holds; accepted data, with the
command that reads it and the bytes that its owner re-fetches; a compression context; a stream context; the samples of a
codeword in a lane's ring or in the overflow region, by its order number in Sorrel; a detector cell's memory; the formatter's
assembly buffer, with whether the gather buffer still holds the unit; a completion holding place; a table of a Speedwell slot
(0 friction, 1 cogging, 2 offset) at an index; a trace entry; a lifetime counter by its offset in Table 05-13; the shutdown
marker; a record kept in two copies; anything else. -/
inductive MemUser where
  | other
  | controller
  | command (src : Src)
  | accepted (reader : Option Src) (data : List (BitVec 8))
  | context (stream : BitVec 20)
  | streamContext
  | ring (job : BitVec 64)
  | cell (cell : BitVec 5)
  | assembly (src : Src) (held : Bool)
  | completion
  | slotTable (slot : BitVec 4) (table : BitVec 2) (index : BitVec 8)
  | trace (chan : BitVec 4) (index : BitVec 16)
  | counter (offset : BitVec 12)
  | marker
  | twoCopies
  deriving DecidableEq, Repr

/-- Bits of an HBM block that a disturbance inverts: slice number and the bits of its 36 bytes, data first. -/
abbrev SliceFlips := List (BitVec 3 × BitVec 288)

/-- What the surface scan of a format finds on one head (R204, R206, R207, R229): the head passes, the first track of each
of its zones, the positions of its landing ring, the primary defects as zone of the surface and position, and those of
the ring. -/
structure HeadScan where
  ok : Bool
  tracks : List (BitVec 24)
  ring : BitVec 32
  primary : List (BitVec 20 × BitVec 17)
  ringBad : List (BitVec 32)
  deriving DecidableEq, Repr

/-- How a packet arrived: the peer port, its source, the EPOCH_LO and the end-to-end SEQ it carries (Table 13-3). -/
structure Env where
  port : BitVec 2
  src : BitVec 8
  epoch : BitVec 32
  seq : BitVec 32
  deriving DecidableEq, Repr

/-- The strip packet payload header of Table 14-6 without its OP. -/
structure StripHdr where
  slot : BitVec 8
  gen : BitVec 16
  status : BitVec 32
  id : BitVec 64
  offset : BitVec 32
  count : BitVec 32
  posMs : BitVec 32
  last : Bool
  erased : Bool
  deriving DecidableEq, Repr

/-- An operation of the JTAG TAP (R428, R481): a scan of the identification or the bypass register, a sample of the
covered pins, EXTEST with the value shifted in and the pins captured, the programming of fuses (a key hash, revocation
bits, the minimum SVN, the UNIQUE_ID), or TRST_N. -/
inductive JtagOp where
  | idcode
  | bypass (tdi : BitVec 32)
  | sample (levels : BitVec 32)
  | extest (value levels : BitVec 32)
  | keyHash (index : BitVec 2) (value : BitVec 384)
  | revoke (value : BitVec 4)
  | minSvn (value : BitVec 6)
  | uniqueId (value : BitVec 64)
  | trst
  deriving DecidableEq, Repr

/-- The 64 B command frame of Table 04-1 as fields (R74). -/
structure Frame where
  key : Nat
  offset : Nat
  length : Nat
  opcode : Nat
  flags : Nat
  dcount : Nat
  rsv31 : Nat
  dlist : Nat
  inline0 : Nat
  inline1 : Nat
  seq : Nat
  stream : Nat
  cring : Nat
  prio : Nat
  rsvRoute : Nat
  deriving DecidableEq, Repr

/-- Read the fields of a 512-bit frame (Table 04-1). -/
def Frame.ofBits (x : Nat) : Frame :=
  { key := bits x 0 128, offset := bits x 128 64, length := bits x 192 32, opcode := bits x 224 8,
    flags := bits x 232 8, dcount := bits x 240 8, rsv31 := bits x 248 8, dlist := bits x 256 64,
    inline0 := bits x 320 64, inline1 := bits x 384 64, seq := bits x 448 32, stream := bits x 480 20,
    cring := bits x 500 6, prio := bits x 506 2, rsvRoute := bits x 508 4 }

/-- The requester a host port stands for. -/
def Req.ofPort (port : Bool) : Req := if port then .portB else .portA

end Sys2Proof.Machine
end

