-- ==== Sys2Proof/Syntax.lean ====
section
/-!
DEFINITION. The commands of the block: one constructor per row of spec/opcode_table.json, in the table's order, with
the operands the spec gives the row's event (an address, a value, what an outside party delivers). What an outside
party decides (a sample, a verdict of the analogue front end, a time that has passed) is an operand.
-/

namespace Sys2Proof

open Sys2Proof.Machine

/-- The commands of the device, one per row of the operation table. -/
inductive Instr where
  /-- `ALWAYS_ON_SUPPLY_UP` (R9): The always-on supply comes up; all reset domains are reset and start-up follows. -/
  | alwaysOnSupplyUp
  /-- `POWER_ON_RESET` (R470): Core rail monitors assert power-on reset; POR and WARM domains reset, and any MRAM write in progress completes. -/
  | powerOnReset
  /-- `PERST_N_ASSERTED` (R9): PERST_N asserted resets the WARM domain and ends commands without posted completion. -/
  | perstNAsserted
  /-- `WARM_RESET` (R457): A write of GLB.RESET_CTL.WARM with key 0xC3A5 begins a warm reset; a wrong key sets RESET_KEY. -/
  | warmReset (port : Bool) (value : Word)
  /-- `WATCHDOG_EXPIRY` (R439): The watchdog period passes without a restart and the device takes the watchdog reset. -/
  | watchdogExpiry
  /-- `WDT_KICK` (R439): Firmware writes 0x5A17 to BOOT.WDT_KICK and restarts the watchdog; host writes are ignored. -/
  | wdtKick (byHost : Bool) (value : Word)
  /-- `START_UP` (R436): The boot sequencer runs start-up: OTP, MRAM, slot choice, memory initialization, image verification, records, gating and the lock point. -/
  | startUp (otpOk pllOk hbmOk : Bool) (badCase : BitVec 5) (unread : BitVec 2) (reachLock : Bool) (ms : BitVec 16)
  /-- `RCV_ERASE` (R441): Recovery command ERASE erases a slot and sets it WRITING with TRIES 0. -/
  | rcvErase (port slot : Bool)
  /-- `RCV_PROGRAM` (R441): Recovery command PROGRAM writes 256 B from RCV_DATA at RCV_ADDR and reads it back. -/
  | rcvProgram (port slot : Bool)
  /-- `RCV_READ` (R441): Recovery command READ loads 256 B from the slot offset into RCV_DATA. -/
  | rcvRead (port slot : Bool)
  /-- `RCV_SELECT` (R441): Recovery command SELECT checks a slot and marks it VALID and PENDING, or INVALID with ERROR. -/
  | rcvSelect (port slot : Bool)
  /-- `CONFIG_REQUEST` (R51): A PCIe configuration request is answered with retry status until the link configuration and BARs are set. -/
  | configRequest (port : Bool) (write : Bool) (reg : BitVec 10) (value : Word)
  /-- `DATA_LINK_DOWN` (R52): A port's data link goes down; single-port it is a warm reset, dual-port only that port's commands end. -/
  | dataLinkDown (port : Bool)
  /-- `LINK_UP` (R484): A PCIe link trains up and the device raises the link up event. -/
  | linkUp (port : Bool) (width : BitVec 4) (speed : BitVec 4)
  /-- `BAR0_BAD_ACCESS` (R5): A BAR0 access of unsupported size or alignment is ignored or returns all ones and sets ACCESS_ERR.SIZE. -/
  | bar0BadAccess (port : Bool) (write : Bool) (offset : BitVec 26)
  /-- `REG_WRITE` (R6): A host write to a register without its own row takes effect under its fields' access codes, lock and ordering checks. -/
  | regWrite (port : Bool) (offset : BitVec 26) (value : Word)
  /-- `LATCHED_PAIR_LO_READ` (R8): A read of the _LO half of a latched pair latches the whole value for the requester. -/
  | latchedPairLoRead (req : Req) (offset : BitVec 26)
  /-- `RC_COUNTER_READ` (R452): A read of an RC counter returns its value and clears it. -/
  | rcCounterRead (req : Req) (offset : BitVec 26)
  /-- `EVT_DATA0_READ` (R71): A read of HIF.EVT_DATA0 pops the oldest event item into the holding register, or loads the idle item. -/
  | evtData0Read (port : Bool)
  /-- `ING_WM_WRITE` (R64): A write to HIF.ING_WM is ignored with WM_INVALID when LOW would not be below HIGH. -/
  | ingWmWrite (port : Bool) (value : Word)
  /-- `ARB_CONFIG_WRITE` (R86): A write to the arbiter weights, cap or burst outside range is ignored with CFG_INVALID. -/
  | arbConfigWrite (port : Bool) (urgent : Bool) (value : Word)
  /-- `TQ_CFG_WRITE` (R83): A write to a tagged queue's base or configuration is checked for busy tags and its ring. -/
  | tqCfgWrite (port : Bool) (queue : BitVec 6) (part : CfgPart) (value : Word)
  /-- `CR_CFG_WRITE` (R95): A write to a completion ring's base or configuration; enabling sets tail 0, head 0, phase 1. -/
  | crCfgWrite (port : Bool) (ring : BitVec 6) (part : CfgPart) (value : Word)
  /-- `SLOT_WORD_WRITE` (R77): A BAR2 write of words 0 to 6 of a task slot is stored or discarded by slot state. -/
  | slotWordWrite (port : Bool) (addr : BitVec 26) (bytes : List Byte)
  /-- `GO_WRITE` (R79): A write covering the GO word forms a command, checks ring, stream, opcode and readiness, and enters arbitration. -/
  | goWrite (port : Bool) (addr : BitVec 26) (bytes : List Byte)
  /-- `TQ_DOORBELL` (R81): A doorbell mask to a tagged queue makes free tags busy and starts their fetch. -/
  | tqDoorbell (port : Bool) (queue : BitVec 6) (mask : Word)
  /-- `BAR4_BAD_ACCESS` (R57): An unsupported BAR4 access is ignored or returns all ones and sets BAR4_ACCESS. -/
  | bar4BadAccess (port : Bool) (write : Bool)
  /-- `TAG_ENTRY_FETCHED` (R81): A tag's 64 B entry arrives by DMA, is checked and enters arbitration in the queue's class. -/
  | tagEntryFetched (queue : BitVec 6) (tag : BitVec 5) (entry : BitVec 512)
  /-- `DESC_LIST_FETCHED` (R75): A command's descriptor list arrives and is checked for zero lengths, reserved bytes and the length sum. -/
  | descListFetched (src : Src) (entries : List (BitVec 128))
  /-- `DMA_READ_FAILED` (R53): A device DMA read returns poisoned, UR, CA or times out; the command fails and an AER event is raised. -/
  | dmaReadFailed (src : Src) (what : DmaWhat) (how : DmaFault)
  /-- `DMA_DATA_ARRIVAL` (R61): Host data completions enter the ingest FIFO in reserved entries. -/
  | dmaDataArrival (src : Src) (bytes : List Byte)
  /-- `CR_HEAD_DOORBELL` (R90): The host writes a ring's new head index; invalid writes set HEAD_INVALID, and held completions may post. -/
  | crHeadDoorbell (port : Bool) (ring : BitVec 6) (value : Word)
  /-- `ARB_DISPATCH_SLOT` (R85): Every 16 CLK_FAB cycles the arbiter admits one eligible command by urgent credit and weighted classes. -/
  | arbDispatchSlot
  /-- `THROTTLE_WINDOW` (R87): A 100 µs admission window ends and the next begins with its full allowance. -/
  | throttleWindow
  /-- `COAL_TIMER_EXPIRY` (R94): The coalescing time passes since the first unsignalled entry and the ring's vector is sent. -/
  | coalTimerExpiry (ring : BitVec 6)
  /-- `LOG_COPY` (R127): Staged log entries are copied to the medium's log area within 1 s, or after the medium becomes READY. -/
  | logCopy
  /-- `ACCEPTANCE_POINT_REACHED` (R35): A sequenced command reaches its acceptance point; the stream sequence entry is written and the success completion sent. -/
  | acceptancePointReached (src : Src)
  /-- `OPEN` (R107): OPEN binds the stream to a new object with its key slot and initial data. -/
  | openCmd (src : Src)
  /-- `APPEND` (R109): APPEND adds data to the stream's bound object at its committed length. -/
  | appendCmd (src : Src)
  /-- `SEAL` (R110): SEAL closes the bound object, stores its CRC-64 and returns the stream to IDLE. -/
  | sealCmd (src : Src)
  /-- `GET` (R113): GET delivers object bytes from an offset, checking the full-object CRC. -/
  | getCmd (src : Src) (hit held : Bool) (room : BitVec 32)
  /-- `STAT` (R112): STAT returns object or stream state. -/
  | statCmd (src : Src) (hit : Bool)
  /-- `DELETE` (R114): DELETE removes a SEALED or ABANDONED object's map entry. -/
  | deleteCmd (src : Src)
  /-- `LIST` (R115): LIST writes matching keys in ascending order from a cursor. -/
  | listCmd (src : Src) (hit : Bool)
  /-- `BARRIER` (R41): BARRIER completes when every earlier admitted command has committed or failed, holding later sequenced commands. -/
  | barrierCmd (src : Src)
  /-- `FLUSH` (R98): FLUSH ends unstarted commands in scope with FLUSHED and completes when started ones finish. -/
  | flushCmd (src : Src)
  /-- `ABORT` (R96): ABORT names a target and is decided at the target's commit point. -/
  | abortCmd (src : Src)
  /-- `MEDIA_START` (R118): MEDIA START loads or spins up the medium and reads its index or zone table. -/
  | mediaStart (src : Src)
  /-- `MEDIA_STOP` (R118): MEDIA STOP writes end-of-session state and unloads or spins down the medium. -/
  | mediaStop (src : Src)
  /-- `MEDIA_FORMAT` (R118): MEDIA FORMAT formats an empty medium and reports its capacity. -/
  | mediaFormat (src : Src) (scan : List HeadScan) (outer : BitVec 20)
  /-- `ZONE_CLEAN` (R119): MEDIA ZONE_CLEAN starts or joins cleaning of a zone. -/
  | zoneClean (src : Src)
  /-- `MEDIA_INFO` (R118): MEDIA INFO returns the medium state and remaining capacity. -/
  | mediaInfo (src : Src)
  /-- `ZONE_INFO` (R118): MEDIA ZONE_INFO returns a zone's state and write pointer. -/
  | zoneInfo (src : Src)
  /-- `FORM` (R121): GROUP_ADMIN FORM forms a group from DISCOVERED devices and commits epoch 1. -/
  | formCmd (src : Src) (holding : BitVec 64)
  /-- `ADD` (R121): GROUP_ADMIN ADD adds a DISCOVERED member under a pending layout. -/
  | addCmd (src : Src) (holding : BitVec 64)
  /-- `REMOVE` (R121): GROUP_ADMIN REMOVE makes a member LEAVING and drains it. -/
  | removeCmd (src : Src)
  /-- `FENCE` (R120): GROUP_ADMIN FENCE fences an ACTIVE member. -/
  | fenceCmd (src : Src)
  /-- `UNFENCE` (R120): GROUP_ADMIN UNFENCE returns a FENCED member to ACTIVE. -/
  | unfenceCmd (src : Src)
  /-- `FAIL` (R120): GROUP_ADMIN FAIL marks a member FAILED and starts rebuild. -/
  | failCmd (src : Src)
  /-- `SET_DEPUTY` (R332): GROUP_ADMIN SET_DEPUTY names a new deputy after copying state to it. -/
  | setDeputyCmd (src : Src)
  /-- `RESHAPE` (R374): GROUP_ADMIN RESHAPE creates a pending layout with a new k. -/
  | reshapeCmd (src : Src)
  /-- `QUERY` (R120): GROUP_ADMIN QUERY returns the epoch and ACTIVE bitmap. -/
  | queryCmd (src : Src)
  /-- `KEY_LOAD_LOAD` (R123): KEY_LOAD LOAD stores key material and KEY_ID in an empty key slot. -/
  | keyLoadLoad (src : Src)
  /-- `KEY_LOAD_CLEAR` (R123): KEY_LOAD CLEAR empties a key slot not used by an OPEN object. -/
  | keyLoadClear (src : Src)
  /-- `IMAGE_WRITE` (R124): IMAGE_WRITE programs the inactive image slot and reads it back. -/
  | imageWrite (src : Src)
  /-- `IMAGE_ACTIVATE_DEFER` (R443): IMAGE_ACTIVATE DEFER checks the inactive slot and marks it PENDING. -/
  | imageActivateDefer (src : Src)
  /-- `IMAGE_ACTIVATE_NOW` (R444): IMAGE_ACTIVATE NOW checks the inactive slot and starts configuration activation. -/
  | imageActivateNow (src : Src)
  /-- `IMAGE_CHECK_DONE` (R125): The check of the inactive slot completes; failure gives IMAGE_INVALID, NOW proceeds to quiesce. -/
  | imageCheckDone (src : Src) (readBad : Bool)
  /-- `ACTIVATION_APPLY` (R444): When started commands have finished, activation applies WHEN 1 records, commits the slot and resumes. -/
  | activationApply (src : Src)
  /-- `HEALTH` (R126): HEALTH writes the 256 B health record. -/
  | healthCmd (src : Src)
  /-- `LOG_READ` (R127): LOG_READ returns log entries from a LOG_SEQ with an optional type filter. -/
  | logRead (src : Src)
  /-- `TANSY_RESUME` (R139): Gather buffer space frees and Tansy resumes writing at the byte where it stopped. -/
  | tansyResume (src : Src) (hostTagsOk : Bool)
  /-- `DECOMPRESS_RESUME` (R141): Output space toward HIF frees and the decompressor resumes at the next byte. -/
  | decompressResume (src : Src) (room : BitVec 32) (hostTagsOk : Bool)
  /-- `DATA_SET_CLOSE_TIMEOUT` (R151): CLOSE_MS passes since an open data set's first unit and the formatter closes it. -/
  | dataSetCloseTimeout
  /-- `DATA_SET_BEGIN` (R165): Before a new data set the formatter runs the rewrite procedure, writing rewrite frames and re-issues. -/
  | dataSetBegin
  /-- `FRAME_SLOT_START` (R266): WRA starts a frame slot on all 64 tracks at the instant the formatter names. -/
  | frameSlotStart
  /-- `VERIFY_DEADLINE` (R252): A VERIFY codeword's 400 µs deadline passes; it is stopped or never started and counted late. -/
  | verifyDeadline (track : BitVec 6) (slot : BitVec 64)
  /-- `LATERAL_WRITE_INHIBIT` (R195): Lateral error exceeds the write-inhibit limit while writing and WRA squelches all outputs. -/
  | lateralWriteInhibit
  /-- `WRITE_RESUME_SETTLED` (R171): After repositioning the device is settled and writes re-issues then new data sets. -/
  | writeResumeSettled
  /-- `WRAP_TURN` (R177): The formatter turns to the next wrap when nothing awaits decision or the end limit is reached. -/
  | wrapTurn (endLimit : Bool)
  /-- `STEP_DECISION` (R186): Every 100 ms the speed-step procedure chooses and may request a step change. -/
  | stepDecision
  /-- `QUIET_POINT_DRAINED` (R184): Every written codeword has its decision and the ramp to the new step begins. -/
  | quietPointDrained
  /-- `SPEED_SETTLED` (R184): Velocity and lateral error stay within limits for 32 servo frames and writing resumes. -/
  | speedSettled (gapFrames : BitVec 16)
  /-- `TAPE_HOLD_STOP` (R187): P has been 0 for HOLD_MS with no open data set, and the tape stops. -/
  | tapeHoldStop
  /-- `TAPE_RESTART` (R187): P reaches RESUME_DS, a pending data set waits RESUME_MS, or STOP needs EOD, and the tape restarts. -/
  | tapeRestart
  /-- `SERVO_FRAME_RECORD` (R192): S-lanes deliver a servo frame and Speedwell combines the statuses, lateral error and LPOS. -/
  | servoFrameRecord (a b c d : ServoIn) (dt : Word) (bit : Bool)
  /-- `VELOCITY_FOLLOWING_ERROR` (R197): Velocity error above 2 % for 20 ms causes a controlled stop and reacquisition. -/
  | velocityFollowingError
  /-- `TENSION_ERROR` (R197): Tension outside ±30 % for 20 ms causes a controlled stop and FAULTED. -/
  | tensionError
  /-- `TENSION_COLLAPSE` (R197): Tension below 0.1 N while moving causes an emergency stop and FAULTED. -/
  | tensionCollapse
  /-- `THREAD_TIMEOUT` (R197): Threading does not complete in 20 s and the medium becomes FAULTED. -/
  | threadTimeout
  /-- `REACQUISITION_DONE` (R197): A reacquisition attempt ends in success, a further attempt, or FAULTED. -/
  | reacquisitionDone (success : Bool)
  /-- `LOAD_STAGE_DONE` (R199): A stage of the load sequence completes and the next begins, ending at READY or UNFORMATTED. -/
  | loadStageDone
  /-- `UNLOAD_DONE` (R200): The unload completes and the medium becomes EMPTY. -/
  | unloadDone
  /-- `LANDING_COPY_WRITTEN` (R218): A landing copy's last fragment is laid down without write fault. -/
  | landingCopyWritten (src : Src) (surface : BitVec 5) (fault : BitVec 3)
  /-- `LANDING_SPACE_FREED` (R220): Landing positions are released and a command waiting for landing space starts its landing write. -/
  | landingSpaceFreed (src : Src)
  /-- `DESTAGE_TRACK_WRITTEN` (R221): A zone track is written by destage and the previous track becomes due for read-back. -/
  | destageTrackWritten (surface : BitVec 5) (fault : BitVec 3) (written : BitVec 12)
  /-- `ZONE_TABLE_PERIODIC` (R226): Every 60 s the zone table records FILLING zones' write pointers and LIFE. -/
  | zoneTablePeriodic
  /-- `ZONE_RESET` (R231): Once all live data is relocated and earlier GETs complete, the zone is reset to EMPTY. -/
  | zoneReset (zone : BitVec 20)
  /-- `CODEWORD_COMPLETE` (R245): A codeword's last bit enters the lane ring and it is queued for Sorrel. -/
  | codewordComplete (lane : BitVec 7) (target : CwTarget) (use : CwUse) (marks : MarkScan) (run : LaneRun) (asperity : Bool) (now : BitVec 64)
  /-- `CELL_FREE_DISPATCH` (R253): A cell becomes free and Sorrel promotes aged codewords and starts the next one. -/
  | cellFreeDispatch (cell : BitVec 5) (now : BitVec 64) (poison : Bool)
  /-- `CELL_CODEWORD_END` (R255): A cell ends a codeword by convergence, limit or stall, and the exit checks decide good or failed. -/
  | cellCodewordEnd (cell : BitVec 5) (now : BitVec 64) (res : CellRes)
  /-- `CELL_SELF_CHECK_DUE` (R259): A cell's self-check interval passes and it runs the ROM test codeword. -/
  | cellSelfCheckDue (cell : BitVec 5)
  /-- `WEDGE_RECORD` (R247): A D-lane delivers a wedge record with PES and status to Speedwell. -/
  | wedgeRecord (lane : BitVec 7) (found half vga : Bool) (sums : List (BitVec 16)) (nominal : BitVec 18) (index : BitVec 10) (track : BitVec 24) (pes : BitVec 16) (sam : Word) (now : BitVec 64)
  /-- `RETRY_REREAD_DONE` (R262): A retry ladder re-read completes and the step's decode runs. -/
  | retryRereadDone (target : CwTarget) (run : LaneRun) (marks : MarkScan) (now : BitVec 64)
  /-- `TAPE_REREAD_DONE` (R258): A T-mode data set re-read completes and L2 runs again. -/
  | tapeRereadDone (part : Bool) (ds : BitVec 32) (good : BitVec 192)
  /-- `FIELD_WRITE_START` (R268): At the AGa assertion instant of a field, WRA asserts the gates if the permit is present. -/
  | fieldWriteStart (act : Bool) (field : BitVec 10) (w0 w1 : Option FieldWrite)
  /-- `FIELD_WRITE_END` (R268): WGa and AGa are released together after the field's last written bit. -/
  | fieldWriteEnd (act : Bool)
  /-- `PAC_RESPONSE` (R272): A preamp response frame arrives; CRC failures lead to repeat, reset or bus failure. -/
  | pacResponse (act : Bool) (frame : BitVec 32)
  /-- `PAC_FAULT_FALL` (R274): PACa_FLT_N falls and WRA releases the gates and squelches the actuator's channels within 100 ns. -/
  | pacFaultFall (act : Bool)
  /-- `ASSIST_LOOP_SAMPLE` (R276): A MONITOR_READ response updates the head's assist write level. -/
  | assistLoopSample (head : BitVec 5) (monitor : BitVec 15)
  /-- `ASSIST_LEVEL_SAVE` (R276): Every hour and at MEDIA STOP converged assist levels are copied to MRAM. -/
  | assistLevelSave
  /-- `SYNTH_UNLOCK` (R265): A write-data synthesizer loses lock and its outputs are squelched as a write fault. -/
  | synthUnlock (which : BitVec 3)
  /-- `SLOT_SAMPLE` (R285): A Speedwell slot takes a sample, runs the ramp and law, and outputs 480 ns later. -/
  | slotSample (slot : BitVec 4) (now : BitVec 64) (feedback : BitVec 48) (angle : Word)
  /-- `SAMPLE_TIMEOUT` (R283): No record arrives within 1.5 periods and a MISSING sample is synthesized. -/
  | sampleTimeout (slot : BitVec 4) (now : BitVec 64)
  /-- `RAMP_TARGET_COMMIT` (R290): A write of CTL.RAMP_TGT_HI commits a new ramp target for the next sample. -/
  | rampTargetCommit (port : Bool) (slot : BitVec 4) (value : Word)
  /-- `FOLLOWING_ERROR_TIMEOUT` (R292): The following-error timer reaches FERR_TIME; FERR is set and the sequencer acts. -/
  | followingErrorTimeout (slot : BitVec 4)
  /-- `LOOP_LOSS_ACTION` (R294): The third consecutive non-VALID sample triggers the loop-loss action. -/
  | loopLossAction (slot : BitVec 4) (now : BitVec 64)
  /-- `RETRACT_ACTION` (R294): The eighth consecutive non-VALID sample retracts the actuator and disables its slots. -/
  | retractAction (act : Bool) (now : BitVec 64)
  /-- `RELOAD_ATTEMPT` (R295): WAIT_MS after a retract the voice coil leaves the ramp and seeks servo. -/
  | reloadAttempt (act : Bool)
  /-- `RELOAD_WINDOW_EXPIRY` (R295): The reload window ends in success or a failed attempt; three failures fail the actuator. -/
  | reloadWindowExpiry (act : Bool)
  /-- `SEEK_START` (R298): A granted seek moves the voice coil at the granted acceleration. -/
  | seekStart (act : Bool) (head : BitVec 5) (track : BitVec 24) (prio : BitVec 3)
  /-- `SPINDLE_AT_SPEED` (R299): The spindle stays within tolerance for 1 s and is at speed. -/
  | spindleAtSpeed (ok0 ok1 : Bool)
  /-- `SPINDLE_FAULT` (R299): Spin-up timeout, speed loss or driver fault retracts both actuators and makes the medium FAULTED. -/
  | spindleFault (cause : BitVec 2)
  /-- `MDRV_FAULT_FALL` (R289): MDRV_FLT_N falls; STATUS is sent on every lane and faulted lanes are handled. -/
  | mdrvFaultFall
  /-- `MDRV_RESPONSE` (R288): A motor driver response arrives; a bad CRC is counted and the previous current used. -/
  | mdrvResponse (lane : BitVec 3) (frame : Word)
  /-- `TRC_ARM` (R301): A write of TRC.CTL.ARM clears the channels and enters ARMED. -/
  | trcArm (port : Bool)
  /-- `TRC_FORCE` (R302): A write of TRC.CTL.FORCE triggers a capture in ARMED. -/
  | trcForce (port : Bool)
  /-- `TRC_ABORT` (R301): A write of TRC.CTL.ABORT returns the trace unit to IDLE. -/
  | trcAbort (port : Bool)
  /-- `TRACE_DONE` (R301): Every channel is full or POST_MS passes and the unit enters DONE. -/
  | traceDone (postMs : Bool)
  /-- `TRC_RD_DATA_READ` (R303): A read of TRC.RD_DATA returns an entry, latches its time and advances INDEX. -/
  | trcRdDataRead (req : Req)
  /-- `HELLO` (R307): A HELLO arrives at link-up; wiring is checked, ids assigned or rejoin started. -/
  | hello (env : Env) (uid : BitVec 64) (code id : BitVec 8) (epoch : BitVec 64) (group : BitVec 128)
  /-- `LANE_BLOCK_LOCK` (R308): A lane gains or loses block lock from its sync headers. -/
  | laneBlockLock (port : BitVec 2) (lane : Bool) (headers : List Bool)
  /-- `LANE_DEGRADE_TIMEOUT` (R309): A lane fails to regain block lock within 1 ms and the port runs degraded. -/
  | laneDegradeTimeout (port : BitVec 2)
  /-- `LINK_FRAME` (R311): A link frame is received; in order it is taken and ACKed, otherwise discarded and NAKed. -/
  | linkFrame (port : BitVec 2) (lseq : BitVec 12) (cls : Bool) (invalid : Bool) (bytes : List Byte)
  /-- `LINK_ACK` (R311): An ACK block releases acknowledged frames from the replay buffer. -/
  | linkAck (port : BitVec 2) (lseq : BitVec 12)
  /-- `LINK_NAK` (R311): A NAK block starts retransmission from the named LSEQ. -/
  | linkNak (port : BitVec 2) (lseq : BitVec 12)
  /-- `REPLAY_TIMEOUT` (R311): The oldest unacknowledged frame waits 1,000 ns without ACK and is retransmitted. -/
  | replayTimeout (port : BitVec 2)
  /-- `LINK_CREDIT` (R313): A CREDIT block returns buffer credits per VC and class. -/
  | linkCredit (port : BitVec 2) (credits : BitVec 48)
  /-- `LINK_INIT` (R312): An INIT block with the ready bit brings a training port up. -/
  | linkInit (port code : BitVec 2) (ready : Bool)
  /-- `PORT_DOWN` (R312): Lock lost for 10 µs or 8 retransmissions take the port down and drop its replay buffer. -/
  | portDown (port : BitVec 2) (retries : Bool)
  /-- `E2E_RESEND_TIMEOUT` (R318): A sequenced packet waits 20 µs unacknowledged and it and later packets are resent. -/
  | e2eResendTimeout (member : BitVec 6) (vc : BitVec 2)
  /-- `ROUTE_WAIT_TIMEOUT` (R320): A packet without a route waits 1 ms and is discarded. -/
  | routeWaitTimeout (member : BitVec 6)
  /-- `STRIP_WRITE_DATA` (R355): STRIP_WRITE DATA delivers strip bytes to the slot's member for writing. -/
  | stripWriteData (env : Env) (h : StripHdr) (data : List Byte)
  /-- `STRIP_WRITE_ABORT` (R358): STRIP_WRITE ABORT drops strips of the stripe at or below a generation. -/
  | stripWriteAbort (env : Env) (h : StripHdr)
  /-- `STRIP_READ` (R361): STRIP_READ requests bytes of a strip from its member. -/
  | stripRead (env : Env) (h : StripHdr)
  /-- `STRIP_DATA` (R361): STRIP_DATA DATA returns strip bytes, possibly ERASED. -/
  | stripData (env : Env) (h : StripHdr) (data : List Byte)
  /-- `STRIP_DONE` (R355): STRIP_DATA DONE reports a strip written and passed; the owner sets SLOT_DONE. -/
  | stripDone (env : Env) (h : StripHdr)
  /-- `STRIP_ESTIMATE` (R362): STRIP_DATA ESTIMATE declares a member's position time for the deadline. -/
  | stripEstimate (env : Env) (h : StripHdr)
  /-- `STRIP_FAIL` (R360): STRIP_DATA FAIL reports a strip write failure. -/
  | stripFail (env : Env) (h : StripHdr)
  /-- `STRIP_REQUEST_DEADLINE` (R362): A strip request passes its deadline; the member is slow and reads are reconstructed. -/
  | stripRequestDeadline (member : BitVec 6) (stripe : BitVec 64) (slot : BitVec 8)
  /-- `LANDING_DATA` (R352): LANDING DATA delivers landing copy bytes to a member. -/
  | landingData (env : Env) (h : StripHdr) (data : List Byte)
  /-- `LANDING_WRITTEN` (R352): LANDING WRITTEN reports a remote landing copy written. -/
  | landingWritten (env : Env) (h : StripHdr)
  /-- `LANDING_RELEASE` (R352): LANDING RELEASE frees a member's landing copy once its stripes are COMMITTED. -/
  | landingRelease (env : Env) (h : StripHdr)
  /-- `LANDING_FAIL` (R352): LANDING FAIL reports a landing copy write failure. -/
  | landingFail (env : Env) (h : StripHdr)
  /-- `JOURNAL_RECORD` (R354): JOURNAL RECORD writes a mirror journal record to MRAM and is acknowledged. -/
  | journalRecord (env : Env) (h : StripHdr) (data : List Byte)
  /-- `JOURNAL_TAKE` (R358): JOURNAL TAKE requests a predecessor's own region from a successor. -/
  | journalTake (env : Env) (h : StripHdr)
  /-- `JOURNAL_RECORDS` (R358): JOURNAL RECORDS returns journal records and the lead resumes them. -/
  | journalRecords (env : Env) (h : StripHdr) (data : List Byte)
  /-- `JOURNAL_DIRECTORY` (R355): JOURNAL DIRECTORY delivers a stripe directory entry to the home member. -/
  | journalDirectory (env : Env) (h : StripHdr) (data : List Byte)
  /-- `JOURNAL_ROWS` (R346): JOURNAL ROWS delivers changed row table entries to a member. -/
  | journalRows (env : Env) (h : StripHdr) (data : List Byte)
  /-- `REBUILD_LIST` (R365): REBUILD LIST requests a row's stripe ids from its home member. -/
  | rebuildList (env : Env) (h : StripHdr)
  /-- `REBUILD_LIST_DATA` (R365): REBUILD LIST_DATA returns stripe ids and the owner queues lost slots. -/
  | rebuildListData (env : Env) (h : StripHdr) (data : List Byte)
  /-- `REBUILD_READ` (R366): REBUILD READ requests source strip bytes for reconstruction. -/
  | rebuildRead (env : Env) (h : StripHdr)
  /-- `REBUILD_DATA` (R366): REBUILD DATA returns source bytes or reconstructed bytes for reallocation. -/
  | rebuildData (env : Env) (h : StripHdr) (data : List Byte)
  /-- `SEQ_MIRROR` (R325): A SEQ_MIRROR packet writes a stream sequence entry into the deputy's MRAM. -/
  | seqMirror (env : Env) (stream : BitVec 32) (entry : BitVec 64)
  /-- `MAP_LOOKUP` (R320): A MAP lookup asks the home member for a key's entry. -/
  | mapLookup (env : Env) (key : BitVec 128) (data : List Byte)
  /-- `MAP_INSERT` (R108): A MAP insert records a new key at the home member, serialized by key. -/
  | mapInsert (env : Env) (key : BitVec 128) (data : List Byte)
  /-- `MAP_UPDATE` (R320): A MAP update changes a key's entry at the home member. -/
  | mapUpdate (env : Env) (key : BitVec 128) (data : List Byte)
  /-- `MAP_DELETE` (R320): A MAP delete removes a key's entry at the home member. -/
  | mapDelete (env : Env) (key : BitVec 128)
  /-- `DISCOVER_PROBE` (R326): A DISCOVER probe is forwarded or dropped, and closes the ring at its origin. -/
  | discoverProbe (env : Env) (uid : BitVec 64) (count : BitVec 8)
  /-- `DISCOVER_ASSIGN` (R326): A DISCOVER ASSIGN gives each device its id from the count. -/
  | discoverAssign (env : Env) (uid : BitVec 64) (count : BitVec 8)
  /-- `DISCOVER_STABLE_TIMER` (R326): Ports stable for 100 ms with no id known, and the device sends a probe. -/
  | discoverStableTimer
  /-- `LINK_STATE` (R320): A newer LINK_STATE updates the view, is flooded and routes are recomputed. -/
  | linkState (env : Env) (origin : BitVec 8) (version : BitVec 32) (ports : BitVec 8)
  /-- `LEAD_BEAT_TIMER` (R329): Every BEAT_MS the lead sends LEAD_BEAT to every member. -/
  | leadBeatTimer
  /-- `LEAD_BEAT` (R329): A LEAD_BEAT arrives and the member answers with MEMBER_BEAT. -/
  | leadBeat (env : Env) (epoch : BitVec 64)
  /-- `MEMBER_BEAT` (R329): A MEMBER_BEAT arrives at the lead with the member's medium, state and host link. -/
  | memberBeat (env : Env) (medium state : BitVec 8) (hostUp : Bool)
  /-- `MEMBER_UNREACHABLE_TIMEOUT` (R329): LEAD_MS passes with no MEMBER_BEAT and the member is unreachable. -/
  | memberUnreachableTimeout (member : BitVec 6)
  /-- `LEAD_QUORUM_LOST` (R330): The lead lacks its quorum for LEAD_MS and demotes itself. -/
  | leadQuorumLost
  /-- `DEPUTY_REPLACE` (R330): The deputy is unreachable for LEAD_MS and the lead replaces and fences it. -/
  | deputyReplace
  /-- `DEPUTY_LEAD_LOSS_TIMEOUT` (R331): The deputy has no LEAD_BEAT for LEAD_MS and sends LEAD_QUERY. -/
  | deputyLeadLossTimeout
  /-- `LEAD_QUERY` (R331): A LEAD_QUERY arrives and the member answers lost or seen. -/
  | leadQuery (env : Env)
  /-- `LEAD_QUERY_RESP` (R331): LEAD_QUERY_RESP answers are counted and the deputy takes over on a majority. -/
  | leadQueryResp (env : Env) (lost : Bool)
  /-- `DEPUTY_COPY_DONE` (R332): The copy of sequence table, key slots and nonces to a new deputy completes. -/
  | deputyCopyDone
  /-- `EPOCH` (R323): An EPOCH packet with a newer valid record is adopted and acknowledged. -/
  | epochCmd (env : Env) (bytes : List Byte)
  /-- `EPOCH_REQ` (R323): An EPOCH_REQ asks the lead to send its membership record. -/
  | epochReq (env : Env)
  /-- `REJECT` (R317): A REJECT packet reports a stale epoch or a non-member. -/
  | rejectCmd (env : Env) (reason : BitVec 8) (epoch : BitVec 64) (seq : BitVec 32) (type : BitVec 8)
  /-- `E2E_ACK` (R318): An E2E_ACK releases acknowledged sequenced packets. -/
  | e2eAck (env : Env) (vc : BitVec 8) (seq : BitVec 32)
  /-- `SLOW_FENCE_TIMEOUT` (R363): A member slow without a break for FENCE_MS is fenced. -/
  | slowFenceTimeout (member : BitVec 6)
  /-- `SLOW_FAIL_TIMEOUT` (R363): A member slow without a break for FAIL_S is failed. -/
  | slowFailTimeout (member : BitVec 6)
  /-- `MGMT_GET_MEMBERSHIP` (R339): Management GET_MEMBERSHIP returns the device's own record. -/
  | mgmtGetMembership (tag : BitVec 8) (base : BitVec 64)
  /-- `MGMT_READ_EVENT` (R337): Management READ_EVENT pops one event item. -/
  | mgmtReadEvent (tag : BitVec 8) (base : BitVec 64)
  /-- `MGMT_HEALTH` (R337): Management HEALTH returns the health record. -/
  | mgmtHealth (tag : BitVec 8) (base : BitVec 64)
  /-- `MGMT_REG_READ` (R337): Management REG_READ returns a BAR0 register value. -/
  | mgmtRegRead (tag : BitVec 8) (base : BitVec 64) (offset : Word)
  /-- `MGMT_ADMIN` (R338): Management ADMIN runs a GROUP_ADMIN function at the lead with an epoch check. -/
  | mgmtAdmin (tag : BitVec 8) (base : BitVec 64) (fn : BitVec 8) (key offset holding : BitVec 64)
  /-- `MGMT_LOG_READ` (R337): Management LOG_READ returns up to 16 log entries. -/
  | mgmtLogRead (tag : BitVec 8) (base first : BitVec 64) (count : BitVec 8)
  /-- `MGMT_CMD` (R340): A MGMT CMD packet carries a member-local command and its data from the lead. -/
  | mgmtCmd (env : Env) (part : BitVec 8) (tag : BitVec 16) (dataOffset : BitVec 32) (frame : BitVec 512) (data : List Byte)
  /-- `MGMT_CMD_DONE` (R340): A MGMT CMD_DONE returns a member command's completion to the lead. -/
  | mgmtCmdDone (env : Env) (tag : BitVec 16) (entry : BitVec 256)
  /-- `MGMT_OP_ADMIN` (R339): A MGMT ADMIN packet forwards a management ADMIN request to the lead. -/
  | mgmtOpAdmin (env : Env) (tag : BitVec 16) (base : BitVec 64) (fn : BitVec 8) (key offset holding : BitVec 64)
  /-- `MGMT_ADMIN_DONE` (R339): A MGMT ADMIN_DONE returns the lead's answer to the forwarding member. -/
  | mgmtAdminDone (env : Env) (tag : BitVec 16) (rc : BitVec 8) (status : BitVec 16) (result aux : BitVec 64)
  /-- `STRIPE_CLOSE_TIMEOUT` (R351): CLOSE_MS passes since a stripe's first unit and the lead closes it early. -/
  | stripeCloseTimeout
  /-- `REBUILD_SHARE_UPDATE` (R368): Every 100 ms a member with rebuild work sets its share and port weights. -/
  | rebuildShareUpdate (busyPct : BitVec 7)
  /-- `RESHAPE_FLIP` (R374): Every old stripe is relocated and the lead commits the layout flip. -/
  | reshapeFlip
  /-- `DROOP_TRIP` (R378): A core droop trip halves CLK_FAB, CLK_DET and CLK_CPU within 2 cycles. -/
  | droopTrip
  /-- `DROOP_RESTORE` (R379): No trip for HOLD cycles and the clocks are restored. -/
  | droopRestore (us : BitVec 10)
  /-- `SLOWING_WINDOW_END` (R380): A 100 ms window with a slowing ends and one supply event is enqueued. -/
  | slowingWindowEnd
  /-- `SAG_WARN_CROSSING` (R383): SAG_SENSE falls below the warning level after the lock point and the brace procedure begins. -/
  | sagWarnCrossing (mv : BitVec 10)
  /-- `SAG_WARN_CLEAR` (R381): SAG_SENSE stays above WARN_MV plus hysteresis and the warning clears. -/
  | sagWarnClear
  /-- `BRACE_RETRACT_TIMER` (R383): RETRACT_MS after the warning, D-mode actuators retract and the spindle coasts. -/
  | braceRetractTimer
  /-- `BRACE_DONE` (R383): All brace steps complete; the marker is written BRACED and BRACE_DONE set. -/
  | braceDone
  /-- `BRACE_RECOVER` (R386): The warning stays clear for RECOVER_MS and the brace ends without reset. -/
  | braceRecover
  /-- `SAG_RESET_CROSSING` (R385): SAG_SENSE falls below the reset level; MRAM writes complete and the device resets. -/
  | sagResetCrossing (mv : BitVec 10)
  /-- `SENSOR_CONVERSION` (R389): A temperature sensor converts a reading, checked for faults and thresholds. -/
  | sensorConversion (sensor : BitVec 4) (inp : SensorIn)
  /-- `THRESHOLD_DWELL_EXPIRY` (R392): A sensor's dwell completes and it enters or leaves a threshold. -/
  | thresholdDwellExpiry (sensor : BitVec 4) (thr : BitVec 2)
  /-- `RISE_DWELL_EXPIRY` (R393): A sensor's rate stays over or under its limit for DWELL_MS and its rising state changes. -/
  | riseDwellExpiry (sensor : BitVec 4)
  /-- `SENSOR_FAULT_CLEAR` (R391): After 10 s of valid readings a sensor fault clears. -/
  | sensorFaultClear (sensor : BitVec 4)
  /-- `THROTTLE_GRACE_EXPIRY` (R395): GRACE_MS passes with a cause set in advisory and the throttle is enforced. -/
  | throttleGraceExpiry
  /-- `THROTTLE_ADJUST` (R396): Every 1 s under enforcement Betony lowers, raises or keeps UNITS by the hottest sensor. -/
  | throttleAdjust
  /-- `THERMAL_RELEASE` (R398): Always-on sensors read below THROTTLE for 10 s and the POR domain is released. -/
  | thermalRelease
  /-- `BETONY_LOOP` (R400): Every 1 ms Betony computes available power, grants waiting requests and recomputes caps. -/
  | betonyLoop (i0 i1 i2 i3 : BitVec 16)
  /-- `SHED_RAISE` (R403): M exceeds B for OVER_MS and the shed level rises by one. -/
  | shedRaise
  /-- `SHED_LOWER` (R403): M stays at or below 0.9 B for 1 s and the shed level falls by one. -/
  | shedLower
  /-- `FABRIC_HBM_READ` (R408): A fabric read decodes an HBM block; uncorrectable data is poisoned and a bus error returned. -/
  | fabricHbmRead (block : BitVec 26) (upset stuck : SliceFlips) (user : MemUser)
  /-- `FABRIC_HBM_WRITE` (R410): A fabric write writes a whole block or merges a narrower write by read-modify-write. -/
  | fabricHbmWrite (block : BitVec 26) (off : BitVec 8) (bytes : List Byte) (stuck : SliceFlips) (user : MemUser)
  /-- `SRAM_MRAM_READ` (R417): An SRAM or MRAM word is decoded; an uncorrectable word returns a bus error and its owner acts. -/
  | sramMramRead (mram : Bool) (addr : BitVec 24) (upset stuck : BitVec 144) (user : MemUser)
  /-- `DIE_FAILURE_DECLARED` (R409): One slice reaches 1,024 corrections in a 1 s window and its die is declared failed. -/
  | dieFailureDeclared (slice : BitVec 3)
  /-- `CORRECTION_WINDOW_END` (R409): A 1 s correction window ends; counts restart and one correction event may be raised. -/
  | correctionWindowEnd
  /-- `SCRUB_READ` (R419): Campion reads the next unit at pace, writing back and verifying corrected units. -/
  | scrubRead (memory : BitVec 2) (upset stuck : SliceFlips) (user : MemUser)
  /-- `SCRUB_PASS_START` (R420): A pass window starts and the correction table is cleared. -/
  | scrubPassStart (memory : BitVec 2)
  /-- `HARD_FAULT_REMAP` (R421): A unit's correction count reaches 3 and its row or word is remapped to a spare. -/
  | hardFaultRemap (memory : BitVec 2) (unit : BitVec 26)
  /-- `MEM_SELFTEST_RUN` (R423): A write of MEM.SELFTEST.RUN runs the checker self-test cases. -/
  | memSelftestRun (failed : List (BitVec 4))
  /-- `NOR_OPERATION_DONE` (R124): A flash erase or page program completes and is read back. -/
  | norOperationDone (flips : List Byte)
  /-- `PERST_N_DEASSERTED` (R469): PERST_N deasserts; link training starts and the 100 ms configuration bound of R51 begins. -/
  | perstNDeasserted
  /-- `PAC_FAULT_RELEASE` (R274): PACa_FLT_N returns high after FAULT_CLEAR, ending the gate hold so that the actuator may write again. -/
  | pacFaultRelease (act : Bool)
  /-- `MDRV_FAULT_RELEASE` (R289): MDRV_FLT_N returns high and CTL.MDRV_STATUS.FLT_N follows the line. -/
  | mdrvFaultRelease
  /-- `WRITE_SYNTHESIZER_LOCKED` (R265): A write-data synthesizer regains lock after a rate change or unlock, and writing through it may resume. -/
  | writeSynthesizerLocked (which : BitVec 3)
  /-- `MSIX_VECTOR_UNMASK` (R59): A host write clears an MSI-X vector mask whose pending bit is set, and the device sends the held message. -/
  | msixVectorUnmask (port write wide : Bool) (offset : BitVec 20) (value : BitVec 64)
  /-- `RECEIVED_TLP_ERROR` (R49): A received TLP fails ECRC or another AER check; the device logs it in AER and raises event 0x004 of type 0x1. -/
  | receivedTlpError (port : Bool) (uncorrectable : Bool) (bit : BitVec 5)
  /-- `MGMT_BUS_TIMEOUT` (R480): MGMT_SCL stays low for 25 ms and the device releases the management bus. -/
  | mgmtBusTimeout
  /-- `MGMT_ADDRESS_ASSIGNMENT` (R480): An I3C dynamic address assignment, an RSTDAA or an SMBus ARP transaction sets or clears the device's management address. -/
  | mgmtAddressAssignment (clear : Bool) (addr : BitVec 7)
  /-- `MCTP_CONTROL_MESSAGE` (R337): An MCTP base control message under DSP0236 arrives on the management path and is answered. -/
  | mctpControlMessage (inst : BitVec 5) (cmd eid : BitVec 8)
  /-- `JTAG_TAP_OPERATION` (R481): A JTAG TAP operation, such as IDCODE, EXTEST or fuse programming, acts through the boundary register or the OTP. -/
  | jtagTapOperation (op : JtagOp)
  deriving DecidableEq, Repr

end Sys2Proof
end

