-- ==== Sys2Proof/Decode.lean ====
section
/-!
DEFINITION. The decoder over the rows of the operation table that give bits. No row of this block's table gives any:
its commands are events outside the device, so no word spells one (log entry 1).
-/

namespace Sys2Proof

/-- The command that a word of `nbits` bits spells by the table's bits: none, because no row of the table gives bits. -/
def decodeTableWord (_nbits _w : Nat) : Option Instr := none

end Sys2Proof
end

