-- ==== Sys2Proof/Config.lean ====
section
/-!
DEFINITION. The free values: constants without a body, so that no proof can see a value of one. Each is applied to the
operands it depends on, or to the model's counter `State.free` for a fresh value (log entry 2).
-/

namespace Sys2Proof.Config

/-- The GROUP_ID that FORM draws (Table 13-6), by counter value. -/
opaque groupId : Nat → BitVec 128

/-- One choice of Tansy's match search: for the bytes of a run so far and the bytes still to encode, the tokens it
takes, each a literal run, a match length and a match distance (R135; the spec fixes the format, not the search). -/
opaque tokens : List Byte → List Byte → List (Nat × Nat × Nat)

/-- The code lengths Tansy gives the symbols of a Huffman-coded block (R136; the spec fixes only their limits). -/
opaque codeLengths : List Byte → List Nat

/-- The member a landing copy goes to among several that report no free landing position count (R352). -/
opaque landingMember : Nat → BitVec 6

/-- The reset content of a configuration space word the spec gives no value for, by register number (R484). -/
opaque cfgWord : Nat → BitVec 32

/-- The writable bits of such a word. -/
opaque cfgWritable : Nat → BitVec 32

/-- Where in configuration space the capabilities begin (R49). -/
opaque capReg : BitVec 6

/-- Where in the extended configuration space the AER capability begins (R49). -/
opaque aerReg : BitVec 10

/-- Tracks across the stroke of an actuator, over which the 64 points of the head-offset table lie (R297). -/
opaque strokeTracks : BitVec 24

/-- Bytes of the sample overflow region; the spec gives only its sum with two other areas (Table 01-2, R246). -/
opaque overflowBytes : BitVec 32

/-- The write current of a head and its overshoot as a WRITE_CURRENT argument, and its reader bias code: values of the Llyn
image for which Table 17-3 names no place (R274, Table 11-3). -/
opaque writeCurrent : Nat → BitVec 12
opaque readBias : Nat → BitVec 8

/-- The servo position of a wrap of the cartridge in nm, 16 fraction bits (R196): the spec gives no table of them. -/
opaque wrapPosition : Nat → BitVec 48

/-- The tension in mN, 16 fraction bits, that the currents of the two reel motors and the radii of the reels spell (R191):
the motor constants are the board's. -/
opaque tensionOf : Int → Int → Nat → Nat → BitVec 48

/-- Bytes that a cartridge holds, by the WRAPS, LPOS_BEGIN and LPOS_END of its header; the spec gives no formula
(Table 05-10). -/
opaque tapeCapacity : Nat → Nat → Nat → BitVec 64

/-- The map area of the medium has room for a further entry beside so many (R111): the spec gives no size of it. -/
opaque mapRoom : Nat → Bool

/-- The pitch of the tape's tracks in nm: the spec gives offsets in percent of it and no value (R258). -/
opaque trackPitchNm : BitVec 32

/-- A head's radial offset from its actuator's first head at one of the 64 points of the stroke, in tracks with 16 fraction
bits, as a measurement at MEDIA START finds it: head, point, and which measurement (R297). -/
opaque headOffset : Nat → Nat → Nat → BitVec 32

/-- A value the spec leaves open, by its place in the model and the counter value. -/
opaque value : Nat → Nat → BitVec 64

end Sys2Proof.Config
end

