-- ==== Sys2Proof/Machine/FieldMap.lean ====
section
/-!
DEFINITION. The register map: one definition for every register field the spec's field maps list, with its BAR0
offset, strides, place, access code (R6), reset domain (R9), reset value and accepted range. A field of a repeated
register takes one or two indices. Reset values "from MRAM", "from OTP" and "per personality" read 0 at the reset
of their domain (Table 18-3) and are written by START_UP.
-/

namespace Sys2Proof.Machine

/-- The access codes of Table 00-5 (R6). -/
inductive Access where
  | ro | rw | rwl | w1c | w1s | rc | wo
  deriving DecidableEq, Repr

/-- The reset domains of Table 00-6 (R9). -/
inductive Domain where
  | aon | por | warm
  deriving DecidableEq, Repr

/-- One field of a register: the offset of its register, the strides and counts of the register's indices, its place,
its access code and domain, its reset value with the exceptions `(i, j, value)` by index (9999 stands for every
index), and the least and greatest value a write is accepted with. -/
structure Field where
  off : Nat
  s1 : Nat
  c1 : Nat
  s2 : Nat
  c2 : Nat
  lo : Nat
  w : Nat
  acc : Access
  dom : Domain
  reset : Nat
  min : Nat
  max : Nat
  exc : List (Nat × Nat × Nat)
  deriving DecidableEq, Repr

/-- The offset of the register that holds field `f` at indices `i` and `j`. -/
def Field.regOff (f : Field) (i j : Nat) : Nat := f.off + f.s1 * i + f.s2 * j

/-- The place of field `f` in the map: the offset of its (first) register and its lowest bit there. -/
def Field.place (f : Field) : Nat := f.off * 32 + f.lo % 32

/-- The key of field `f` at indices `i` and `j` in the register file: its place and its indices, which are below 2^16. -/
def Field.key (f : Field) (i j : Nat) : Nat := (f.place * 2 ^ 16 + i % 2 ^ 16) * 2 ^ 16 + j % 2 ^ 16

/-- The block of registers that holds field `f`, by the upper bits of its BAR0 offset. -/
def Field.block (f : Field) : Nat := f.off / 2 ^ 16

/-- The reset value of field `f` at indices `i` and `j`. -/
def Field.resetAt (f : Field) (i j : Nat) : Nat :=
  match f.exc.find? (fun e => (e.1 = i || e.1 = 9999) && (e.2.1 = j || e.2.1 = 9999)) with
  | some e => e.2.2
  | none => f.reset

/-- The indices at which field `f` lies in the register at `off`, if it does. -/
def Field.indexAt (f : Field) (off : Nat) : Option (Nat × Nat) :=
  if off < f.off then none
  else
    let d := off - f.off
    let i := if f.s1 = 0 then 0 else d / f.s1
    let r := d - f.s1 * i
    let j := if f.s2 = 0 then 0 else r / f.s2
    if i < f.c1 && j < f.c2 && r = f.s2 * j then some (i, j) else none

namespace F

/-! Fields of block HIF: Tables 03-10 to 03-14. -/

/-- `HIF.LINK_STATUS.A_WIDTH`. -/
def HIF_LINK_STATUS_A_WIDTH : Field := ⟨0x0040000, 0, 1, 0, 1, 0, 4, .ro, .por, 0, 0, 15, []⟩
/-- `HIF.LINK_STATUS.A_SPEED`. -/
def HIF_LINK_STATUS_A_SPEED : Field := ⟨0x0040000, 0, 1, 0, 1, 4, 4, .ro, .por, 0, 0, 15, []⟩
/-- `HIF.LINK_STATUS.B_WIDTH`. -/
def HIF_LINK_STATUS_B_WIDTH : Field := ⟨0x0040000, 0, 1, 0, 1, 8, 4, .ro, .por, 0, 0, 15, []⟩
/-- `HIF.LINK_STATUS.B_SPEED`. -/
def HIF_LINK_STATUS_B_SPEED : Field := ⟨0x0040000, 0, 1, 0, 1, 12, 4, .ro, .por, 0, 0, 15, []⟩
/-- `HIF.LINK_CFG.PORTS`. -/
def HIF_LINK_CFG_PORTS : Field := ⟨0x0040004, 0, 1, 0, 1, 0, 2, .ro, .por, 0, 0, 3, []⟩
/-- `HIF.LINK_CFG.HDR_BAD`. -/
def HIF_LINK_CFG_HDR_BAD : Field := ⟨0x0040004, 0, 1, 0, 1, 2, 1, .ro, .por, 0, 0, 1, []⟩
/-- `HIF.LINK_CFG.EVT_PORT`. -/
def HIF_LINK_CFG_EVT_PORT : Field := ⟨0x0040004, 0, 1, 0, 1, 3, 1, .rw, .warm, 0, 0, 1, []⟩
/-- `HIF.STATUS.READY`. -/
def HIF_STATUS_READY : Field := ⟨0x0040010, 0, 1, 0, 1, 0, 1, .ro, .warm, 0, 0, 1, []⟩
/-- `HIF.STATUS.HRDY`. -/
def HIF_STATUS_HRDY : Field := ⟨0x0040010, 0, 1, 0, 1, 1, 1, .ro, .warm, 0, 0, 1, []⟩
/-- `HIF.STATUS.BRACE`. -/
def HIF_STATUS_BRACE : Field := ⟨0x0040010, 0, 1, 0, 1, 2, 1, .ro, .warm, 0, 0, 1, []⟩
/-- `HIF.STATUS.QUIESCE`. -/
def HIF_STATUS_QUIESCE : Field := ⟨0x0040010, 0, 1, 0, 1, 3, 1, .ro, .warm, 0, 0, 1, []⟩
/-- `HIF.STATUS.BOOT_FAIL`. -/
def HIF_STATUS_BOOT_FAIL : Field := ⟨0x0040010, 0, 1, 0, 1, 4, 1, .ro, .warm, 0, 0, 1, []⟩
/-- `HIF.ING_LEVEL.ENTRIES`. -/
def HIF_ING_LEVEL_ENTRIES : Field := ⟨0x0040020, 0, 1, 0, 1, 0, 17, .ro, .warm, 0, 0, 131071, []⟩
/-- `HIF.ING_LEVEL.HIGH_STATE`. -/
def HIF_ING_LEVEL_HIGH_STATE : Field := ⟨0x0040020, 0, 1, 0, 1, 17, 1, .ro, .warm, 0, 0, 1, []⟩
/-- `HIF.ING_LEVEL.FULL`. -/
def HIF_ING_LEVEL_FULL : Field := ⟨0x0040020, 0, 1, 0, 1, 18, 1, .ro, .warm, 0, 0, 1, []⟩
/-- `HIF.ING_WM.HIGH`. -/
def HIF_ING_WM_HIGH : Field := ⟨0x0040024, 0, 1, 0, 1, 0, 16, .rw, .warm, 49152, 0, 65535, []⟩
/-- `HIF.ING_WM.LOW`. -/
def HIF_ING_WM_LOW : Field := ⟨0x0040024, 0, 1, 0, 1, 16, 16, .rw, .warm, 32768, 0, 65535, []⟩
/-- `HIF.ING_EVENT.CROSS_HIGH`. -/
def HIF_ING_EVENT_CROSS_HIGH : Field := ⟨0x0040028, 0, 1, 0, 1, 0, 1, .w1c, .warm, 0, 0, 1, []⟩
/-- `HIF.ING_EVENT.CROSS_LOW`. -/
def HIF_ING_EVENT_CROSS_LOW : Field := ⟨0x0040028, 0, 1, 0, 1, 1, 1, .w1c, .warm, 0, 0, 1, []⟩
/-- `HIF.ING_EVENT.FULL_HIT`. -/
def HIF_ING_EVENT_FULL_HIT : Field := ⟨0x0040028, 0, 1, 0, 1, 2, 1, .w1c, .warm, 0, 0, 1, []⟩
/-- `HIF.EVT_DATA0.WORD0`. -/
def HIF_EVT_DATA0_WORD0 : Field := ⟨0x0040040, 0, 1, 0, 1, 0, 32, .rc, .warm, 0, 0, 4294967295, []⟩
/-- `HIF.EVT_DATA1.WORD1`. -/
def HIF_EVT_DATA1_WORD1 : Field := ⟨0x0040044, 0, 1, 0, 1, 0, 32, .ro, .warm, 0, 0, 4294967295, []⟩
/-- `HIF.EVT_DATA2.WORD2`. -/
def HIF_EVT_DATA2_WORD2 : Field := ⟨0x0040048, 0, 1, 0, 1, 0, 32, .ro, .warm, 0, 0, 4294967295, []⟩
/-- `HIF.EVT_DATA3.WORD3`. -/
def HIF_EVT_DATA3_WORD3 : Field := ⟨0x004004c, 0, 1, 0, 1, 0, 32, .ro, .warm, 0, 0, 4294967295, []⟩
/-- `HIF.EVT_STATUS.COUNT`. -/
def HIF_EVT_STATUS_COUNT : Field := ⟨0x0040050, 0, 1, 0, 1, 0, 13, .ro, .warm, 0, 0, 8191, []⟩
/-- `HIF.EVT_STATUS.OVERFLOW`. -/
def HIF_EVT_STATUS_OVERFLOW : Field := ⟨0x0040050, 0, 1, 0, 1, 16, 1, .w1c, .warm, 0, 0, 1, []⟩
/-- `HIF.EVT_STATUS.NONEMPTY`. -/
def HIF_EVT_STATUS_NONEMPTY : Field := ⟨0x0040050, 0, 1, 0, 1, 17, 1, .ro, .warm, 0, 0, 1, []⟩
/-- `HIF.EVT_LOST.COUNT`. -/
def HIF_EVT_LOST_COUNT : Field := ⟨0x0040054, 0, 1, 0, 1, 0, 32, .rc, .warm, 0, 0, 4294967295, []⟩
/-- `HIF.ALERT_CTL.EN`. -/
def HIF_ALERT_CTL_EN : Field := ⟨0x0040058, 0, 1, 0, 1, 0, 1, .rw, .warm, 1, 0, 1, []⟩
/-- `HIF.ALERT_CTL.PIN`. -/
def HIF_ALERT_CTL_PIN : Field := ⟨0x0040058, 0, 1, 0, 1, 1, 1, .ro, .warm, 0, 0, 1, []⟩
/-- `HIF.ERR_STATUS.EARLY_DOORBELL`. -/
def HIF_ERR_STATUS_EARLY_DOORBELL : Field := ⟨0x0040060, 0, 1, 0, 1, 0, 1, .w1c, .warm, 0, 0, 1, []⟩
/-- `HIF.ERR_STATUS.SLOT_SPAN`. -/
def HIF_ERR_STATUS_SLOT_SPAN : Field := ⟨0x0040060, 0, 1, 0, 1, 1, 1, .w1c, .warm, 0, 0, 1, []⟩
/-- `HIF.ERR_STATUS.WM_INVALID`. -/
def HIF_ERR_STATUS_WM_INVALID : Field := ⟨0x0040060, 0, 1, 0, 1, 2, 1, .w1c, .warm, 0, 0, 1, []⟩
/-- `HIF.ERR_STATUS.BAR4_ACCESS`. -/
def HIF_ERR_STATUS_BAR4_ACCESS : Field := ⟨0x0040060, 0, 1, 0, 1, 3, 1, .w1c, .warm, 0, 0, 1, []⟩

/-- Fields of block HIF, part 0. -/
def listHIF0 : List Field :=
  [HIF_LINK_STATUS_A_WIDTH, HIF_LINK_STATUS_A_SPEED, HIF_LINK_STATUS_B_WIDTH, HIF_LINK_STATUS_B_SPEED,
   HIF_LINK_CFG_PORTS, HIF_LINK_CFG_HDR_BAD, HIF_LINK_CFG_EVT_PORT, HIF_STATUS_READY,
   HIF_STATUS_HRDY, HIF_STATUS_BRACE, HIF_STATUS_QUIESCE, HIF_STATUS_BOOT_FAIL,
   HIF_ING_LEVEL_ENTRIES, HIF_ING_LEVEL_HIGH_STATE, HIF_ING_LEVEL_FULL, HIF_ING_WM_HIGH,
   HIF_ING_WM_LOW, HIF_ING_EVENT_CROSS_HIGH, HIF_ING_EVENT_CROSS_LOW, HIF_ING_EVENT_FULL_HIT,
   HIF_EVT_DATA0_WORD0, HIF_EVT_DATA1_WORD1, HIF_EVT_DATA2_WORD2, HIF_EVT_DATA3_WORD3,
   HIF_EVT_STATUS_COUNT, HIF_EVT_STATUS_OVERFLOW, HIF_EVT_STATUS_NONEMPTY, HIF_EVT_LOST_COUNT,
   HIF_ALERT_CTL_EN, HIF_ALERT_CTL_PIN, HIF_ERR_STATUS_EARLY_DOORBELL, HIF_ERR_STATUS_SLOT_SPAN,
   HIF_ERR_STATUS_WM_INVALID, HIF_ERR_STATUS_BAR4_ACCESS]

/-! Fields of block SQ: Tables 04-8 to 04-14. -/

/-- `SQ.STATUS.OUTSTANDING`. -/
def SQ_STATUS_OUTSTANDING : Field := ⟨0x0080000, 0, 1, 0, 1, 0, 21, .ro, .warm, 0, 0, 2097151, []⟩
/-- `SQ.STATUS.DISCARDING`. -/
def SQ_STATUS_DISCARDING : Field := ⟨0x0080000, 0, 1, 0, 1, 21, 1, .ro, .warm, 0, 0, 1, []⟩
/-- `SQ.THROTTLE.STATE`. -/
def SQ_THROTTLE_STATE : Field := ⟨0x008000c, 0, 1, 0, 1, 0, 2, .ro, .warm, 0, 0, 3, []⟩
/-- `SQ.THROTTLE.ADVISORY_SEEN`. -/
def SQ_THROTTLE_ADVISORY_SEEN : Field := ⟨0x008000c, 0, 1, 0, 1, 2, 1, .w1c, .warm, 0, 0, 1, []⟩
/-- `SQ.THROTTLE.ENFORCE_SEEN`. -/
def SQ_THROTTLE_ENFORCE_SEEN : Field := ⟨0x008000c, 0, 1, 0, 1, 3, 1, .w1c, .warm, 0, 0, 1, []⟩
/-- `SQ.ADMIT_LIMIT.UNITS`. -/
def SQ_ADMIT_LIMIT_UNITS : Field := ⟨0x0080010, 0, 1, 0, 1, 0, 24, .ro, .warm, 16777215, 0, 16777215, []⟩
/-- `SQ.ARB_WEIGHT.HIGH`. -/
def SQ_ARB_WEIGHT_HIGH : Field := ⟨0x0080004, 0, 1, 0, 1, 0, 8, .rw, .warm, 8, 1, 255, []⟩
/-- `SQ.ARB_WEIGHT.NORMAL`. -/
def SQ_ARB_WEIGHT_NORMAL : Field := ⟨0x0080004, 0, 1, 0, 1, 8, 8, .rw, .warm, 4, 1, 255, []⟩
/-- `SQ.ARB_WEIGHT.BACKGROUND`. -/
def SQ_ARB_WEIGHT_BACKGROUND : Field := ⟨0x0080004, 0, 1, 0, 1, 16, 8, .rw, .warm, 1, 1, 255, []⟩
/-- `SQ.ARB_URGENT.CAP`. -/
def SQ_ARB_URGENT_CAP : Field := ⟨0x0080008, 0, 1, 0, 1, 0, 8, .rw, .warm, 10, 1, 50, []⟩
/-- `SQ.ARB_URGENT.BURST`. -/
def SQ_ARB_URGENT_BURST : Field := ⟨0x0080008, 0, 1, 0, 1, 8, 8, .rw, .warm, 8, 1, 64, []⟩
/-- `SQ.ARB_URGENT.CREDIT`. -/
def SQ_ARB_URGENT_CREDIT : Field := ⟨0x0080008, 0, 1, 0, 1, 16, 13, .ro, .warm, 800, 0, 8191, []⟩
/-- `SQ.ERR_STATUS.GO_PARTIAL`. -/
def SQ_ERR_STATUS_GO_PARTIAL : Field := ⟨0x0080020, 0, 1, 0, 1, 0, 1, .w1c, .warm, 0, 0, 1, []⟩
/-- `SQ.ERR_STATUS.SLOT_BUSY`. -/
def SQ_ERR_STATUS_SLOT_BUSY : Field := ⟨0x0080020, 0, 1, 0, 1, 1, 1, .w1c, .warm, 0, 0, 1, []⟩
/-- `SQ.ERR_STATUS.NO_RING`. -/
def SQ_ERR_STATUS_NO_RING : Field := ⟨0x0080020, 0, 1, 0, 1, 2, 1, .w1c, .warm, 0, 0, 1, []⟩
/-- `SQ.ERR_STATUS.TAG_BUSY`. -/
def SQ_ERR_STATUS_TAG_BUSY : Field := ⟨0x0080020, 0, 1, 0, 1, 3, 1, .w1c, .warm, 0, 0, 1, []⟩
/-- `SQ.ERR_STATUS.TQ_INVALID`. -/
def SQ_ERR_STATUS_TQ_INVALID : Field := ⟨0x0080020, 0, 1, 0, 1, 4, 1, .w1c, .warm, 0, 0, 1, []⟩
/-- `SQ.ERR_STATUS.HEAD_INVALID`. -/
def SQ_ERR_STATUS_HEAD_INVALID : Field := ⟨0x0080020, 0, 1, 0, 1, 5, 1, .w1c, .warm, 0, 0, 1, []⟩
/-- `SQ.ERR_STATUS.CFG_INVALID`. -/
def SQ_ERR_STATUS_CFG_INVALID : Field := ⟨0x0080020, 0, 1, 0, 1, 6, 1, .w1c, .warm, 0, 0, 1, []⟩
/-- `SQ.ERR_SOURCE.ID`. -/
def SQ_ERR_SOURCE_ID : Field := ⟨0x0080024, 0, 1, 0, 1, 0, 20, .ro, .warm, 0, 0, 1048575, []⟩
/-- `SQ.ERR_SOURCE.BIT`. -/
def SQ_ERR_SOURCE_BIT : Field := ⟨0x0080024, 0, 1, 0, 1, 20, 3, .ro, .warm, 0, 0, 7, []⟩
/-- `SQ.ERR_SOURCE.KIND`. -/
def SQ_ERR_SOURCE_KIND : Field := ⟨0x0080024, 0, 1, 0, 1, 23, 2, .ro, .warm, 0, 0, 3, []⟩
/-- `SQ.TQ_BASE_LO.ADDR_LO`. -/
def SQ_TQ_BASE_LO_ADDR_LO : Field := ⟨0x0081000, 16, 64, 0, 1, 11, 21, .rw, .warm, 0, 0, 2097151, []⟩
/-- `SQ.TQ_BASE_HI.ADDR_HI`. -/
def SQ_TQ_BASE_HI_ADDR_HI : Field := ⟨0x0081004, 16, 64, 0, 1, 0, 32, .rw, .warm, 0, 0, 4294967295, []⟩
/-- `SQ.TQ_CFG.EN`. -/
def SQ_TQ_CFG_EN : Field := ⟨0x0081008, 16, 64, 0, 1, 0, 1, .rw, .warm, 0, 0, 1, []⟩
/-- `SQ.TQ_CFG.CLASS`. -/
def SQ_TQ_CFG_CLASS : Field := ⟨0x0081008, 16, 64, 0, 1, 1, 2, .rw, .warm, 0, 0, 3, []⟩
/-- `SQ.TQ_CFG.CRING`. -/
def SQ_TQ_CFG_CRING : Field := ⟨0x0081008, 16, 64, 0, 1, 8, 6, .rw, .warm, 0, 0, 63, []⟩
/-- `SQ.TQ_CFG.PORT`. -/
def SQ_TQ_CFG_PORT : Field := ⟨0x0081008, 16, 64, 0, 1, 16, 1, .rw, .warm, 0, 0, 1, []⟩
/-- `SQ.TQ_BUSY.TAGS`. -/
def SQ_TQ_BUSY_TAGS : Field := ⟨0x008100c, 16, 64, 0, 1, 0, 32, .ro, .warm, 0, 0, 4294967295, []⟩
/-- `SQ.CR_BASE_LO.ADDR_LO`. -/
def SQ_CR_BASE_LO_ADDR_LO : Field := ⟨0x0082000, 32, 64, 0, 1, 12, 20, .rw, .warm, 0, 0, 1048575, []⟩
/-- `SQ.CR_BASE_HI.ADDR_HI`. -/
def SQ_CR_BASE_HI_ADDR_HI : Field := ⟨0x0082004, 32, 64, 0, 1, 0, 32, .rw, .warm, 0, 0, 4294967295, []⟩
/-- `SQ.CR_CFG.EN`. -/
def SQ_CR_CFG_EN : Field := ⟨0x0082008, 32, 64, 0, 1, 0, 1, .rw, .warm, 0, 0, 1, []⟩
/-- `SQ.CR_CFG.SIZE_LOG2`. -/
def SQ_CR_CFG_SIZE_LOG2 : Field := ⟨0x0082008, 32, 64, 0, 1, 4, 5, .rw, .warm, 4, 4, 16, []⟩
/-- `SQ.CR_CFG.PORT`. -/
def SQ_CR_CFG_PORT : Field := ⟨0x0082008, 32, 64, 0, 1, 12, 1, .rw, .warm, 0, 0, 1, []⟩
/-- `SQ.CR_COAL.TIME`. -/
def SQ_CR_COAL_TIME : Field := ⟨0x008200c, 32, 64, 0, 1, 0, 16, .rw, .warm, 0, 0, 65535, []⟩
/-- `SQ.CR_COAL.COUNT`. -/
def SQ_CR_COAL_COUNT : Field := ⟨0x008200c, 32, 64, 0, 1, 16, 8, .rw, .warm, 1, 0, 255, []⟩
/-- `SQ.CR_STATE.TAIL`. -/
def SQ_CR_STATE_TAIL : Field := ⟨0x0082010, 32, 64, 0, 1, 0, 16, .ro, .warm, 0, 0, 65535, []⟩
/-- `SQ.CR_STATE.HEAD`. -/
def SQ_CR_STATE_HEAD : Field := ⟨0x0082010, 32, 64, 0, 1, 16, 16, .ro, .warm, 0, 0, 65535, []⟩
/-- `SQ.CR_HELD.COUNT`. -/
def SQ_CR_HELD_COUNT : Field := ⟨0x0082014, 32, 64, 0, 1, 0, 21, .ro, .warm, 0, 0, 2097151, []⟩
/-- `SQ.CR_HELD.PHASE`. -/
def SQ_CR_HELD_PHASE : Field := ⟨0x0082014, 32, 64, 0, 1, 31, 1, .ro, .warm, 1, 0, 1, []⟩

/-- Fields of block SQ, part 0. -/
def listSQ0 : List Field :=
  [SQ_STATUS_OUTSTANDING, SQ_STATUS_DISCARDING, SQ_THROTTLE_STATE, SQ_THROTTLE_ADVISORY_SEEN,
   SQ_THROTTLE_ENFORCE_SEEN, SQ_ADMIT_LIMIT_UNITS, SQ_ARB_WEIGHT_HIGH, SQ_ARB_WEIGHT_NORMAL,
   SQ_ARB_WEIGHT_BACKGROUND, SQ_ARB_URGENT_CAP, SQ_ARB_URGENT_BURST, SQ_ARB_URGENT_CREDIT,
   SQ_ERR_STATUS_GO_PARTIAL, SQ_ERR_STATUS_SLOT_BUSY, SQ_ERR_STATUS_NO_RING, SQ_ERR_STATUS_TAG_BUSY,
   SQ_ERR_STATUS_TQ_INVALID, SQ_ERR_STATUS_HEAD_INVALID, SQ_ERR_STATUS_CFG_INVALID, SQ_ERR_SOURCE_ID,
   SQ_ERR_SOURCE_BIT, SQ_ERR_SOURCE_KIND, SQ_TQ_BASE_LO_ADDR_LO, SQ_TQ_BASE_HI_ADDR_HI,
   SQ_TQ_CFG_EN, SQ_TQ_CFG_CLASS, SQ_TQ_CFG_CRING, SQ_TQ_CFG_PORT,
   SQ_TQ_BUSY_TAGS, SQ_CR_BASE_LO_ADDR_LO, SQ_CR_BASE_HI_ADDR_HI, SQ_CR_CFG_EN,
   SQ_CR_CFG_SIZE_LOG2, SQ_CR_CFG_PORT, SQ_CR_COAL_TIME, SQ_CR_COAL_COUNT,
   SQ_CR_STATE_TAIL, SQ_CR_STATE_HEAD, SQ_CR_HELD_COUNT, SQ_CR_HELD_PHASE]

/-! Fields of block OMAP: Tables 05-16, 05-17. -/

/-- `OMAP.STATUS.READY`. -/
def OMAP_STATUS_READY : Field := ⟨0x00a0000, 0, 1, 0, 1, 0, 1, .ro, .warm, 0, 0, 1, []⟩
/-- `OMAP.STATUS.REFILL`. -/
def OMAP_STATUS_REFILL : Field := ⟨0x00a0000, 0, 1, 0, 1, 1, 1, .ro, .warm, 0, 0, 1, []⟩
/-- `OMAP.OBJ_COUNT_LO.COUNT`. -/
def OMAP_OBJ_COUNT_LO_COUNT : Field := ⟨0x00a0004, 0, 1, 0, 1, 0, 32, .ro, .warm, 0, 0, 4294967295, []⟩
/-- `OMAP.OBJ_COUNT_HI.COUNT`. -/
def OMAP_OBJ_COUNT_HI_COUNT : Field := ⟨0x00a0008, 0, 1, 0, 1, 0, 32, .ro, .warm, 0, 0, 4294967295, []⟩
/-- `OMAP.CACHE_HIT.COUNT`. -/
def OMAP_CACHE_HIT_COUNT : Field := ⟨0x00a0010, 0, 1, 0, 1, 0, 32, .rc, .warm, 0, 0, 4294967295, []⟩
/-- `OMAP.CACHE_MISS.COUNT`. -/
def OMAP_CACHE_MISS_COUNT : Field := ⟨0x00a0014, 0, 1, 0, 1, 0, 32, .rc, .warm, 0, 0, 4294967295, []⟩

/-- Fields of block OMAP, part 0. -/
def listOMAP0 : List Field :=
  [OMAP_STATUS_READY, OMAP_STATUS_REFILL, OMAP_OBJ_COUNT_LO_COUNT, OMAP_OBJ_COUNT_HI_COUNT,
   OMAP_CACHE_HIT_COUNT, OMAP_CACHE_MISS_COUNT]

/-! Fields of block TNS: Tables 06-8, 06-9. -/

/-- `TNS.CFG.BLOCK_SIZE`. -/
def TNS_CFG_BLOCK_SIZE : Field := ⟨0x00c0000, 0, 1, 0, 1, 0, 2, .rwl, .warm, 2, 0, 3, []⟩
/-- `TNS.CFG.RESTART`. -/
def TNS_CFG_RESTART : Field := ⟨0x00c0000, 0, 1, 0, 1, 4, 3, .rwl, .warm, 4, 0, 4, []⟩
/-- `TNS.CFG.HUFF`. -/
def TNS_CFG_HUFF : Field := ⟨0x00c0000, 0, 1, 0, 1, 8, 1, .rwl, .warm, 1, 0, 1, []⟩
/-- `TNS.STATUS.CTX_USED`. -/
def TNS_STATUS_CTX_USED : Field := ⟨0x00c0004, 0, 1, 0, 1, 0, 13, .ro, .warm, 0, 0, 8191, []⟩
/-- `TNS.STATUS.ENG_C`. -/
def TNS_STATUS_ENG_C : Field := ⟨0x00c0004, 0, 1, 0, 1, 16, 5, .ro, .warm, 0, 0, 31, []⟩
/-- `TNS.STATUS.ENG_D`. -/
def TNS_STATUS_ENG_D : Field := ⟨0x00c0004, 0, 1, 0, 1, 24, 4, .ro, .warm, 0, 0, 15, []⟩
/-- `TNS.IN_BYTES_LO.COUNT`. -/
def TNS_IN_BYTES_LO_COUNT : Field := ⟨0x00c0010, 0, 1, 0, 1, 0, 32, .ro, .warm, 0, 0, 4294967295, []⟩
/-- `TNS.OUT_BYTES_LO.COUNT`. -/
def TNS_OUT_BYTES_LO_COUNT : Field := ⟨0x00c0018, 0, 1, 0, 1, 0, 32, .ro, .warm, 0, 0, 4294967295, []⟩
/-- `TNS.IN_BYTES_HI.COUNT`. -/
def TNS_IN_BYTES_HI_COUNT : Field := ⟨0x00c0014, 0, 1, 0, 1, 0, 32, .ro, .warm, 0, 0, 4294967295, []⟩
/-- `TNS.OUT_BYTES_HI.COUNT`. -/
def TNS_OUT_BYTES_HI_COUNT : Field := ⟨0x00c001c, 0, 1, 0, 1, 0, 32, .ro, .warm, 0, 0, 4294967295, []⟩
/-- `TNS.RAW_BLOCKS.COUNT`. -/
def TNS_RAW_BLOCKS_COUNT : Field := ⟨0x00c0020, 0, 1, 0, 1, 0, 32, .rc, .warm, 0, 0, 4294967295, []⟩
/-- `TNS.CTX_EVICT.COUNT`. -/
def TNS_CTX_EVICT_COUNT : Field := ⟨0x00c0024, 0, 1, 0, 1, 0, 32, .rc, .warm, 0, 0, 4294967295, []⟩
/-- `TNS.FMT_ERR.COUNT`. -/
def TNS_FMT_ERR_COUNT : Field := ⟨0x00c0028, 0, 1, 0, 1, 0, 32, .rc, .warm, 0, 0, 4294967295, []⟩
/-- `TNS.ERR_STATUS.HOST_TAG`. -/
def TNS_ERR_STATUS_HOST_TAG : Field := ⟨0x00c0030, 0, 1, 0, 1, 0, 1, .w1c, .warm, 0, 0, 1, []⟩
/-- `TNS.ERR_STATUS.MEDIA_TAG`. -/
def TNS_ERR_STATUS_MEDIA_TAG : Field := ⟨0x00c0030, 0, 1, 0, 1, 1, 1, .w1c, .warm, 0, 0, 1, []⟩
/-- `TNS.ERR_STATUS.FORMAT`. -/
def TNS_ERR_STATUS_FORMAT : Field := ⟨0x00c0030, 0, 1, 0, 1, 2, 1, .w1c, .warm, 0, 0, 1, []⟩
/-- `TNS.ERR_STATUS.CTX_POISON`. -/
def TNS_ERR_STATUS_CTX_POISON : Field := ⟨0x00c0030, 0, 1, 0, 1, 3, 1, .w1c, .warm, 0, 0, 1, []⟩
/-- `TNS.KEY_LOADED.SLOTS`. -/
def TNS_KEY_LOADED_SLOTS : Field := ⟨0x00c0040, 4, 8, 0, 1, 0, 32, .ro, .warm, 0, 0, 4294967295, []⟩

/-- Fields of block TNS, part 0. -/
def listTNS0 : List Field :=
  [TNS_CFG_BLOCK_SIZE, TNS_CFG_RESTART, TNS_CFG_HUFF, TNS_STATUS_CTX_USED,
   TNS_STATUS_ENG_C, TNS_STATUS_ENG_D, TNS_IN_BYTES_LO_COUNT, TNS_OUT_BYTES_LO_COUNT,
   TNS_IN_BYTES_HI_COUNT, TNS_OUT_BYTES_HI_COUNT, TNS_RAW_BLOCKS_COUNT, TNS_CTX_EVICT_COUNT,
   TNS_FMT_ERR_COUNT, TNS_ERR_STATUS_HOST_TAG, TNS_ERR_STATUS_MEDIA_TAG, TNS_ERR_STATUS_FORMAT,
   TNS_ERR_STATUS_CTX_POISON, TNS_KEY_LOADED_SLOTS]

/-! Fields of block FMT: Tables 07-14, 07-15, 09-12, 09-13. -/

/-- `FMT.TDS_CFG.CLOSE_MS`. -/
def FMT_TDS_CFG_CLOSE_MS : Field := ⟨0x0101000, 0, 1, 0, 1, 0, 14, .rw, .warm, 50, 1, 10000, []⟩
/-- `FMT.RWW_CFG.MAX_REWRITE`. -/
def FMT_RWW_CFG_MAX_REWRITE : Field := ⟨0x0101004, 0, 1, 0, 1, 0, 3, .rwl, .warm, 3, 1, 7, []⟩
/-- `FMT.RWW_CFG.MAX_REISSUE`. -/
def FMT_RWW_CFG_MAX_REISSUE : Field := ⟨0x0101004, 0, 1, 0, 1, 4, 2, .rwl, .warm, 2, 0, 3, []⟩
/-- `FMT.RWW_CFG.DISTURB_TRACKS`. -/
def FMT_RWW_CFG_DISTURB_TRACKS : Field := ⟨0x0101004, 0, 1, 0, 1, 8, 7, .rwl, .warm, 8, 1, 64, []⟩
/-- `FMT.RWW_CFG.MAX_DEAD`. -/
def FMT_RWW_CFG_MAX_DEAD : Field := ⟨0x0101004, 0, 1, 0, 1, 16, 4, .rwl, .warm, 2, 0, 5, []⟩
/-- `FMT.RWW_GAP.GAP_UM`. -/
def FMT_RWW_GAP_GAP_UM : Field := ⟨0x0101008, 0, 1, 0, 1, 0, 13, .rwl, .warm, 3200, 1000, 6000, []⟩
/-- `FMT.RWW_MARGIN.THRESHOLD`. -/
def FMT_RWW_MARGIN_THRESHOLD : Field := ⟨0x010100c, 0, 1, 0, 1, 0, 8, .rw, .warm, 200, 0, 255, []⟩
/-- `FMT.TSTATUS.WSTATE`. -/
def FMT_TSTATUS_WSTATE : Field := ⟨0x0101010, 0, 1, 0, 1, 0, 2, .ro, .warm, 0, 0, 3, []⟩
/-- `FMT.TSTATUS.WRAP_END`. -/
def FMT_TSTATUS_WRAP_END : Field := ⟨0x0101010, 0, 1, 0, 1, 2, 1, .ro, .warm, 0, 0, 1, []⟩
/-- `FMT.TSTATUS.PARTITION`. -/
def FMT_TSTATUS_PARTITION : Field := ⟨0x0101010, 0, 1, 0, 1, 3, 1, .ro, .warm, 0, 0, 1, []⟩
/-- `FMT.TSTATUS.WRAP`. -/
def FMT_TSTATUS_WRAP : Field := ⟨0x0101010, 0, 1, 0, 1, 4, 9, .ro, .warm, 0, 0, 511, []⟩
/-- `FMT.RWQ_LEVEL.ENTRIES`. -/
def FMT_RWQ_LEVEL_ENTRIES : Field := ⟨0x0101014, 0, 1, 0, 1, 0, 11, .ro, .warm, 0, 0, 2047, []⟩
/-- `FMT.FRONTIER.DS_NUM`. -/
def FMT_FRONTIER_DS_NUM : Field := ⟨0x0101018, 0, 1, 0, 1, 0, 32, .ro, .warm, 0, 0, 4294967295, []⟩
/-- `FMT.DS_NEXT.DS_NUM`. -/
def FMT_DS_NEXT_DS_NUM : Field := ⟨0x010101c, 0, 1, 0, 1, 0, 32, .ro, .warm, 0, 0, 4294967295, []⟩
/-- `FMT.CW_WRITTEN_LO.COUNT`. -/
def FMT_CW_WRITTEN_LO_COUNT : Field := ⟨0x0101020, 0, 1, 0, 1, 0, 32, .ro, .warm, 0, 0, 4294967295, []⟩
/-- `FMT.CW_WRITTEN_HI.COUNT`. -/
def FMT_CW_WRITTEN_HI_COUNT : Field := ⟨0x0101024, 0, 1, 0, 1, 0, 32, .ro, .warm, 0, 0, 4294967295, []⟩
/-- `FMT.CW_REWRITTEN.COUNT`. -/
def FMT_CW_REWRITTEN_COUNT : Field := ⟨0x0101028, 0, 1, 0, 1, 0, 32, .rc, .warm, 0, 0, 4294967295, []⟩
/-- `FMT.DS_REISSUED.COUNT`. -/
def FMT_DS_REISSUED_COUNT : Field := ⟨0x010102c, 0, 1, 0, 1, 0, 32, .rc, .warm, 0, 0, 4294967295, []⟩
/-- `FMT.DISTURBS.COUNT`. -/
def FMT_DISTURBS_COUNT : Field := ⟨0x0101030, 0, 1, 0, 1, 0, 32, .rc, .warm, 0, 0, 4294967295, []⟩
/-- `FMT.TRACK_SUSPECT_LO.TRACKS`. -/
def FMT_TRACK_SUSPECT_LO_TRACKS : Field := ⟨0x0101040, 0, 1, 0, 1, 0, 32, .ro, .warm, 0, 0, 4294967295, []⟩
/-- `FMT.TRACK_SUSPECT_HI.TRACKS`. -/
def FMT_TRACK_SUSPECT_HI_TRACKS : Field := ⟨0x0101044, 0, 1, 0, 1, 0, 32, .ro, .warm, 0, 0, 4294967295, []⟩
/-- `FMT.TRACK_DEAD_LO.TRACKS`. -/
def FMT_TRACK_DEAD_LO_TRACKS : Field := ⟨0x0101048, 0, 1, 0, 1, 0, 32, .ro, .warm, 0, 0, 4294967295, []⟩
/-- `FMT.TRACK_DEAD_HI.TRACKS`. -/
def FMT_TRACK_DEAD_HI_TRACKS : Field := ⟨0x010104c, 0, 1, 0, 1, 0, 32, .ro, .warm, 0, 0, 4294967295, []⟩
/-- `FMT.T_ERR_STATUS.DISTURB`. -/
def FMT_T_ERR_STATUS_DISTURB : Field := ⟨0x0101060, 0, 1, 0, 1, 0, 1, .w1c, .warm, 0, 0, 1, []⟩
/-- `FMT.T_ERR_STATUS.REISSUE`. -/
def FMT_T_ERR_STATUS_REISSUE : Field := ⟨0x0101060, 0, 1, 0, 1, 1, 1, .w1c, .warm, 0, 0, 1, []⟩
/-- `FMT.T_ERR_STATUS.DEAD_TRACK`. -/
def FMT_T_ERR_STATUS_DEAD_TRACK : Field := ⟨0x0101060, 0, 1, 0, 1, 2, 1, .w1c, .warm, 0, 0, 1, []⟩
/-- `FMT.T_ERR_STATUS.WRITE_FAILED`. -/
def FMT_T_ERR_STATUS_WRITE_FAILED : Field := ⟨0x0101060, 0, 1, 0, 1, 3, 1, .w1c, .warm, 0, 0, 1, []⟩
/-- `FMT.T_ERR_STATUS.DEADLINE`. -/
def FMT_T_ERR_STATUS_DEADLINE : Field := ⟨0x0101060, 0, 1, 0, 1, 4, 1, .w1c, .warm, 0, 0, 1, []⟩
/-- `FMT.T_ERR_STATUS.RWQ_FULL`. -/
def FMT_T_ERR_STATUS_RWQ_FULL : Field := ⟨0x0101060, 0, 1, 0, 1, 5, 1, .w1c, .warm, 0, 0, 1, []⟩
/-- `FMT.DZ_CFG.VERIFY_ITER`. -/
def FMT_DZ_CFG_VERIFY_ITER : Field := ⟨0x0102000, 0, 1, 0, 1, 0, 4, .rwl, .warm, 6, 3, 12, []⟩
/-- `FMT.DZ_CFG.REALLOC_STEP`. -/
def FMT_DZ_CFG_REALLOC_STEP : Field := ⟨0x0102000, 0, 1, 0, 1, 4, 4, .rwl, .warm, 3, 1, 15, []⟩
/-- `FMT.DZ_CFG.MARGIN`. -/
def FMT_DZ_CFG_MARGIN : Field := ⟨0x0102000, 0, 1, 0, 1, 8, 8, .rw, .warm, 200, 0, 255, []⟩
/-- `FMT.DZ_CLEAN.LOW_PCT`. -/
def FMT_DZ_CLEAN_LOW_PCT : Field := ⟨0x0102004, 0, 1, 0, 1, 0, 8, .rwl, .warm, 2, 1, 50, []⟩
/-- `FMT.DZ_CLEAN.HIGH_PCT`. -/
def FMT_DZ_CLEAN_HIGH_PCT : Field := ⟨0x0102004, 0, 1, 0, 1, 8, 8, .rwl, .warm, 4, 2, 60, []⟩
/-- `FMT.DZ_LAND.LOW_PCT`. -/
def FMT_DZ_LAND_LOW_PCT : Field := ⟨0x0102008, 0, 1, 0, 1, 0, 8, .rwl, .warm, 20, 1, 90, []⟩
/-- `FMT.DSTATUS.LAND_FREE`. -/
def FMT_DSTATUS_LAND_FREE : Field := ⟨0x010200c, 0, 1, 0, 1, 0, 7, .ro, .warm, 0, 0, 127, []⟩
/-- `FMT.DSTATUS.CLEANING`. -/
def FMT_DSTATUS_CLEANING : Field := ⟨0x010200c, 0, 1, 0, 1, 7, 1, .ro, .warm, 0, 0, 1, []⟩
/-- `FMT.DSTATUS.DESTAGING`. -/
def FMT_DSTATUS_DESTAGING : Field := ⟨0x010200c, 0, 1, 0, 1, 8, 1, .ro, .warm, 0, 0, 1, []⟩
/-- `FMT.DSTATUS.WAIT_LANDING`. -/
def FMT_DSTATUS_WAIT_LANDING : Field := ⟨0x010200c, 0, 1, 0, 1, 9, 1, .ro, .warm, 0, 0, 1, []⟩
/-- `FMT.ZONES_FREE.COUNT`. -/
def FMT_ZONES_FREE_COUNT : Field := ⟨0x0102010, 0, 1, 0, 1, 0, 20, .ro, .warm, 0, 0, 1048575, []⟩
/-- `FMT.LAND_HELD.COUNT`. -/
def FMT_LAND_HELD_COUNT : Field := ⟨0x0102014, 0, 1, 0, 1, 0, 32, .ro, .warm, 0, 0, 4294967295, []⟩
/-- `FMT.HEAD_FAILED.HEADS`. -/
def FMT_HEAD_FAILED_HEADS : Field := ⟨0x0102018, 0, 1, 0, 1, 0, 24, .ro, .warm, 0, 0, 16777215, []⟩
/-- `FMT.HEAD_FAILED.ACTUATORS`. -/
def FMT_HEAD_FAILED_ACTUATORS : Field := ⟨0x0102018, 0, 1, 0, 1, 24, 2, .ro, .warm, 0, 0, 3, []⟩
/-- `FMT.REALLOCS.COUNT`. -/
def FMT_REALLOCS_COUNT : Field := ⟨0x010201c, 0, 1, 0, 1, 0, 32, .rc, .warm, 0, 0, 4294967295, []⟩
/-- `FMT.WFAULTS.COUNT`. -/
def FMT_WFAULTS_COUNT : Field := ⟨0x0102020, 0, 1, 0, 1, 0, 32, .rc, .warm, 0, 0, 4294967295, []⟩
/-- `FMT.READBACK_FAIL.COUNT`. -/
def FMT_READBACK_FAIL_COUNT : Field := ⟨0x0102024, 0, 1, 0, 1, 0, 32, .rc, .warm, 0, 0, 4294967295, []⟩
/-- `FMT.ZONES_CLEANED.COUNT`. -/
def FMT_ZONES_CLEANED_COUNT : Field := ⟨0x0102028, 0, 1, 0, 1, 0, 32, .rc, .warm, 0, 0, 4294967295, []⟩
/-- `FMT.FRAG_MISS.COUNT`. -/
def FMT_FRAG_MISS_COUNT : Field := ⟨0x010202c, 0, 1, 0, 1, 0, 32, .rc, .warm, 0, 0, 4294967295, []⟩
/-- `FMT.D_ERR_STATUS.HEAD_FAIL`. -/
def FMT_D_ERR_STATUS_HEAD_FAIL : Field := ⟨0x0102040, 0, 1, 0, 1, 0, 1, .w1c, .warm, 0, 0, 1, []⟩
/-- `FMT.D_ERR_STATUS.WRITE_FAULT`. -/
def FMT_D_ERR_STATUS_WRITE_FAULT : Field := ⟨0x0102040, 0, 1, 0, 1, 1, 1, .w1c, .warm, 0, 0, 1, []⟩
/-- `FMT.D_ERR_STATUS.READBACK`. -/
def FMT_D_ERR_STATUS_READBACK : Field := ⟨0x0102040, 0, 1, 0, 1, 2, 1, .w1c, .warm, 0, 0, 1, []⟩
/-- `FMT.D_ERR_STATUS.ZONE_RETIRED`. -/
def FMT_D_ERR_STATUS_ZONE_RETIRED : Field := ⟨0x0102040, 0, 1, 0, 1, 3, 1, .w1c, .warm, 0, 0, 1, []⟩
/-- `FMT.D_ERR_STATUS.LANDING_LOW`. -/
def FMT_D_ERR_STATUS_LANDING_LOW : Field := ⟨0x0102040, 0, 1, 0, 1, 4, 1, .w1c, .warm, 0, 0, 1, []⟩
/-- `FMT.D_ERR_STATUS.ZT_INVALID`. -/
def FMT_D_ERR_STATUS_ZT_INVALID : Field := ⟨0x0102040, 0, 1, 0, 1, 5, 1, .w1c, .warm, 0, 0, 1, []⟩

/-- Fields of block FMT, part 0. -/
def listFMT0 : List Field :=
  [FMT_TDS_CFG_CLOSE_MS, FMT_RWW_CFG_MAX_REWRITE, FMT_RWW_CFG_MAX_REISSUE, FMT_RWW_CFG_DISTURB_TRACKS,
   FMT_RWW_CFG_MAX_DEAD, FMT_RWW_GAP_GAP_UM, FMT_RWW_MARGIN_THRESHOLD, FMT_TSTATUS_WSTATE,
   FMT_TSTATUS_WRAP_END, FMT_TSTATUS_PARTITION, FMT_TSTATUS_WRAP, FMT_RWQ_LEVEL_ENTRIES,
   FMT_FRONTIER_DS_NUM, FMT_DS_NEXT_DS_NUM, FMT_CW_WRITTEN_LO_COUNT, FMT_CW_WRITTEN_HI_COUNT,
   FMT_CW_REWRITTEN_COUNT, FMT_DS_REISSUED_COUNT, FMT_DISTURBS_COUNT, FMT_TRACK_SUSPECT_LO_TRACKS,
   FMT_TRACK_SUSPECT_HI_TRACKS, FMT_TRACK_DEAD_LO_TRACKS, FMT_TRACK_DEAD_HI_TRACKS, FMT_T_ERR_STATUS_DISTURB,
   FMT_T_ERR_STATUS_REISSUE, FMT_T_ERR_STATUS_DEAD_TRACK, FMT_T_ERR_STATUS_WRITE_FAILED, FMT_T_ERR_STATUS_DEADLINE,
   FMT_T_ERR_STATUS_RWQ_FULL, FMT_DZ_CFG_VERIFY_ITER, FMT_DZ_CFG_REALLOC_STEP, FMT_DZ_CFG_MARGIN,
   FMT_DZ_CLEAN_LOW_PCT, FMT_DZ_CLEAN_HIGH_PCT, FMT_DZ_LAND_LOW_PCT, FMT_DSTATUS_LAND_FREE,
   FMT_DSTATUS_CLEANING, FMT_DSTATUS_DESTAGING, FMT_DSTATUS_WAIT_LANDING, FMT_ZONES_FREE_COUNT]


/-- Fields of block FMT, part 1. -/
def listFMT1 : List Field :=
  [FMT_LAND_HELD_COUNT, FMT_HEAD_FAILED_HEADS, FMT_HEAD_FAILED_ACTUATORS, FMT_REALLOCS_COUNT,
   FMT_WFAULTS_COUNT, FMT_READBACK_FAIL_COUNT, FMT_ZONES_CLEANED_COUNT, FMT_FRAG_MISS_COUNT,
   FMT_D_ERR_STATUS_HEAD_FAIL, FMT_D_ERR_STATUS_WRITE_FAULT, FMT_D_ERR_STATUS_READBACK, FMT_D_ERR_STATUS_ZONE_RETIRED,
   FMT_D_ERR_STATUS_LANDING_LOW, FMT_D_ERR_STATUS_ZT_INVALID]

/-! Fields of block CTL: Tables 12-11 to 12-13, 08-9, 08-10, 18-10. -/

/-- `CTL.TM_STATUS.MODE`. -/
def CTL_TM_STATUS_MODE : Field := ⟨0x0208000, 0, 1, 0, 1, 0, 3, .ro, .warm, 0, 0, 7, []⟩
/-- `CTL.TM_STATUS.STEP`. -/
def CTL_TM_STATUS_STEP : Field := ⟨0x0208000, 0, 1, 0, 1, 3, 4, .ro, .warm, 0, 0, 15, []⟩
/-- `CTL.TM_STATUS.TARGET`. -/
def CTL_TM_STATUS_TARGET : Field := ⟨0x0208000, 0, 1, 0, 1, 7, 4, .ro, .warm, 0, 0, 15, []⟩
/-- `CTL.TM_STATUS.CAP`. -/
def CTL_TM_STATUS_CAP : Field := ⟨0x0208000, 0, 1, 0, 1, 11, 4, .ro, .warm, 15, 0, 15, []⟩
/-- `CTL.TM_STATUS.SETTLED`. -/
def CTL_TM_STATUS_SETTLED : Field := ⟨0x0208000, 0, 1, 0, 1, 15, 1, .ro, .warm, 0, 0, 1, []⟩
/-- `CTL.TM_STATUS.WRITE_INHIBIT`. -/
def CTL_TM_STATUS_WRITE_INHIBIT : Field := ⟨0x0208000, 0, 1, 0, 1, 16, 1, .ro, .warm, 0, 0, 1, []⟩
/-- `CTL.TM_STATUS.SERVO_VALID`. -/
def CTL_TM_STATUS_SERVO_VALID : Field := ⟨0x0208000, 0, 1, 0, 1, 17, 1, .ro, .warm, 0, 0, 1, []⟩
/-- `CTL.TM_CFG.ACCEL`. -/
def CTL_TM_CFG_ACCEL : Field := ⟨0x0208004, 0, 1, 0, 1, 0, 8, .rwl, .warm, 80, 20, 150, []⟩
/-- `CTL.TM_CFG.TENSION`. -/
def CTL_TM_CFG_TENSION : Field := ⟨0x0208004, 0, 1, 0, 1, 8, 10, .rwl, .warm, 700, 400, 1000, []⟩
/-- `CTL.TM_LIMIT.WI_NM`. -/
def CTL_TM_LIMIT_WI_NM : Field := ⟨0x0208008, 0, 1, 0, 1, 0, 10, .rwl, .warm, 180, 50, 1000, []⟩
/-- `CTL.TM_BUF.HIGH`. -/
def CTL_TM_BUF_HIGH : Field := ⟨0x020800c, 0, 1, 0, 1, 0, 8, .rwl, .warm, 75, 2, 100, []⟩
/-- `CTL.TM_BUF.LOW`. -/
def CTL_TM_BUF_LOW : Field := ⟨0x020800c, 0, 1, 0, 1, 8, 8, .rwl, .warm, 25, 1, 99, []⟩
/-- `CTL.TM_BUF.RESUME_DS`. -/
def CTL_TM_BUF_RESUME_DS : Field := ⟨0x020800c, 0, 1, 0, 1, 16, 12, .rwl, .warm, 64, 1, 4095, []⟩
/-- `CTL.TM_HOLD.HOLD_MS`. -/
def CTL_TM_HOLD_HOLD_MS : Field := ⟨0x0208010, 0, 1, 0, 1, 0, 16, .rwl, .warm, 200, 0, 65535, []⟩
/-- `CTL.TM_HOLD.RESUME_MS`. -/
def CTL_TM_HOLD_RESUME_MS : Field := ⟨0x0208010, 0, 1, 0, 1, 16, 16, .rwl, .warm, 500, 0, 65535, []⟩
/-- `CTL.TM_LEVEL.P`. -/
def CTL_TM_LEVEL_P : Field := ⟨0x0208014, 0, 1, 0, 1, 0, 13, .ro, .warm, 0, 0, 8191, []⟩
/-- `CTL.TM_LPOS.LPOS`. -/
def CTL_TM_LPOS_LPOS : Field := ⟨0x0208018, 0, 1, 0, 1, 0, 32, .ro, .warm, 0, 0, 4294967295, []⟩
/-- `CTL.TM_REPOS.COUNT`. -/
def CTL_TM_REPOS_COUNT : Field := ⟨0x020801c, 0, 1, 0, 1, 0, 32, .rc, .warm, 0, 0, 4294967295, []⟩
/-- `CTL.TM_STEPCHG.COUNT`. -/
def CTL_TM_STEPCHG_COUNT : Field := ⟨0x0208020, 0, 1, 0, 1, 0, 32, .rc, .warm, 0, 0, 4294967295, []⟩
/-- `CTL.TM_FAULT.CAUSE`. -/
def CTL_TM_FAULT_CAUSE : Field := ⟨0x0208024, 0, 1, 0, 1, 0, 7, .w1c, .warm, 0, 0, 127, []⟩
/-- `CTL.SLOT_CFG.ROLE`. -/
def CTL_SLOT_CFG_ROLE : Field := ⟨0x0200000, 256, 12, 0, 1, 0, 4, .ro, .warm, 0, 0, 15, []⟩
/-- `CTL.SLOT_CFG.EN`. -/
def CTL_SLOT_CFG_EN : Field := ⟨0x0200000, 256, 12, 0, 1, 4, 1, .ro, .warm, 0, 0, 1, []⟩
/-- `CTL.SLOT_CFG.BANK`. -/
def CTL_SLOT_CFG_BANK : Field := ⟨0x0200000, 256, 12, 0, 1, 5, 1, .rw, .warm, 0, 0, 1, []⟩
/-- `CTL.SLOT_CFG.FRIC_EN`. -/
def CTL_SLOT_CFG_FRIC_EN : Field := ⟨0x0200000, 256, 12, 0, 1, 6, 1, .rwl, .warm, 0, 0, 1, []⟩
/-- `CTL.SLOT_CFG.COG_EN`. -/
def CTL_SLOT_CFG_COG_EN : Field := ⟨0x0200000, 256, 12, 0, 1, 7, 1, .rwl, .warm, 0, 0, 1, []⟩
/-- `CTL.SLOT_CFG.LANE`. -/
def CTL_SLOT_CFG_LANE : Field := ⟨0x0200000, 256, 12, 0, 1, 8, 3, .ro, .warm, 0, 0, 7, []⟩
/-- `CTL.SLOT_STATUS.STATE`. -/
def CTL_SLOT_STATUS_STATE : Field := ⟨0x0200004, 256, 12, 0, 1, 0, 2, .ro, .warm, 0, 0, 3, []⟩
/-- `CTL.SLOT_STATUS.COUNT`. -/
def CTL_SLOT_STATUS_COUNT : Field := ⟨0x0200004, 256, 12, 0, 1, 2, 4, .ro, .warm, 0, 0, 15, []⟩
/-- `CTL.SLOT_STATUS.RETRACTED`. -/
def CTL_SLOT_STATUS_RETRACTED : Field := ⟨0x0200004, 256, 12, 0, 1, 6, 1, .ro, .warm, 0, 0, 1, []⟩
/-- `CTL.SLOT_FLAGS.ACC_SAT`. -/
def CTL_SLOT_FLAGS_ACC_SAT : Field := ⟨0x0200008, 256, 12, 0, 1, 0, 1, .w1c, .warm, 0, 0, 1, []⟩
/-- `CTL.SLOT_FLAGS.Q_SAT`. -/
def CTL_SLOT_FLAGS_Q_SAT : Field := ⟨0x0200008, 256, 12, 0, 1, 1, 1, .w1c, .warm, 0, 0, 1, []⟩
/-- `CTL.SLOT_FLAGS.INT_CLAMP`. -/
def CTL_SLOT_FLAGS_INT_CLAMP : Field := ⟨0x0200008, 256, 12, 0, 1, 2, 1, .w1c, .warm, 0, 0, 1, []⟩
/-- `CTL.SLOT_FLAGS.OUT_LIMIT`. -/
def CTL_SLOT_FLAGS_OUT_LIMIT : Field := ⟨0x0200008, 256, 12, 0, 1, 3, 1, .w1c, .warm, 0, 0, 1, []⟩
/-- `CTL.SLOT_FLAGS.OVERRUN`. -/
def CTL_SLOT_FLAGS_OVERRUN : Field := ⟨0x0200008, 256, 12, 0, 1, 4, 1, .w1c, .warm, 0, 0, 1, []⟩
/-- `CTL.SLOT_FLAGS.TIMEOUT`. -/
def CTL_SLOT_FLAGS_TIMEOUT : Field := ⟨0x0200008, 256, 12, 0, 1, 5, 1, .w1c, .warm, 0, 0, 1, []⟩
/-- `CTL.SLOT_FLAGS.BUMP_CLAMP`. -/
def CTL_SLOT_FLAGS_BUMP_CLAMP : Field := ⟨0x0200008, 256, 12, 0, 1, 6, 1, .w1c, .warm, 0, 0, 1, []⟩
/-- `CTL.SLOT_FLAGS.FERR`. -/
def CTL_SLOT_FLAGS_FERR : Field := ⟨0x0200008, 256, 12, 0, 1, 7, 1, .w1c, .warm, 0, 0, 1, []⟩
/-- `CTL.SLOT_FLAGS.LOSS`. -/
def CTL_SLOT_FLAGS_LOSS : Field := ⟨0x0200008, 256, 12, 0, 1, 8, 1, .w1c, .warm, 0, 0, 1, []⟩
/-- `CTL.SLOT_FLAGS.ACTIVE_BANK_WRITE`. -/
def CTL_SLOT_FLAGS_ACTIVE_BANK_WRITE : Field := ⟨0x0200008, 256, 12, 0, 1, 9, 1, .w1c, .warm, 0, 0, 1, []⟩
/-- `CTL.SLOT_FERR_LIM.LIMIT`. -/
def CTL_SLOT_FERR_LIM_LIMIT : Field := ⟨0x020000c, 256, 12, 0, 1, 0, 32, .rwl, .warm, 2147483647, 0, 4294967295, []⟩
/-- `CTL.SLOT_FERR_TIME.TIME_US`. -/
def CTL_SLOT_FERR_TIME_TIME_US : Field := ⟨0x0200010, 256, 12, 0, 1, 0, 24, .rwl, .warm, 0, 0, 16777215, []⟩
/-- `CTL.SLOT_OUT.OUT`. -/
def CTL_SLOT_OUT_OUT : Field := ⟨0x0200014, 256, 12, 0, 1, 0, 32, .ro, .warm, 0, 0, 4294967295, []⟩
/-- `CTL.SLOT_INTEG.I`. -/
def CTL_SLOT_INTEG_I : Field := ⟨0x0200018, 256, 12, 0, 1, 0, 32, .ro, .warm, 0, 0, 4294967295, []⟩
/-- `CTL.SLOT_SP_LO.SP`. -/
def CTL_SLOT_SP_LO_SP : Field := ⟨0x020001c, 256, 12, 0, 1, 0, 32, .rw, .warm, 0, 0, 4294967295, []⟩
/-- `CTL.SLOT_SP_HI.SP`. -/
def CTL_SLOT_SP_HI_SP : Field := ⟨0x0200020, 256, 12, 0, 1, 0, 16, .rw, .warm, 0, 0, 65535, []⟩
/-- `CTL.SLOT_PERIOD.PERIOD_NS`. -/
def CTL_SLOT_PERIOD_PERIOD_NS : Field := ⟨0x0200024, 256, 12, 0, 1, 0, 20, .rwl, .warm, 0, 0, 1048575, []⟩
/-- `CTL.RAMP_CTL.MODE`. -/
def CTL_RAMP_CTL_MODE : Field := ⟨0x0200028, 256, 12, 0, 1, 0, 2, .rw, .warm, 0, 0, 2, []⟩
/-- `CTL.RAMP_CTL.DONE`. -/
def CTL_RAMP_CTL_DONE : Field := ⟨0x0200028, 256, 12, 0, 1, 2, 1, .ro, .warm, 0, 0, 1, []⟩
/-- `CTL.RAMP_VMAX.LIMIT`. -/
def CTL_RAMP_VMAX_LIMIT : Field := ⟨0x020002c, 256, 12, 0, 1, 0, 32, .rw, .warm, 0, 0, 4294967295, []⟩
/-- `CTL.RAMP_AMAX.LIMIT`. -/
def CTL_RAMP_AMAX_LIMIT : Field := ⟨0x0200030, 256, 12, 0, 1, 0, 32, .rw, .warm, 0, 0, 4294967295, []⟩
/-- `CTL.RAMP_TGT_LO.TGT`. -/
def CTL_RAMP_TGT_LO_TGT : Field := ⟨0x0200034, 256, 12, 0, 1, 0, 32, .rw, .warm, 0, 0, 4294967295, []⟩
/-- `CTL.RAMP_TGT_HI.TGT`. -/
def CTL_RAMP_TGT_HI_TGT : Field := ⟨0x0200038, 256, 12, 0, 1, 0, 16, .rw, .warm, 0, 0, 65535, []⟩
/-- `CTL.FRIC_SCALE.SCALE`. -/
def CTL_FRIC_SCALE_SCALE : Field := ⟨0x020003c, 256, 12, 0, 1, 0, 32, .rwl, .warm, 0, 0, 4294967295, []⟩
/-- `CTL.COG_SCALE.SCALE`. -/
def CTL_COG_SCALE_SCALE : Field := ⟨0x020009c, 256, 12, 0, 1, 0, 32, .rwl, .warm, 0, 0, 4294967295, []⟩
/-- `CTL.COEF_A.COEF`. -/
def CTL_COEF_A_COEF : Field := ⟨0x0200040, 256, 12, 4, 23, 0, 32, .rwl, .warm, 0, 0, 4294967295, [(9999, 0, 1073741824), (9999, 5, 1073741824), (9999, 10, 1073741824)]⟩
/-- `CTL.COEF_B.COEF`. -/
def CTL_COEF_B_COEF : Field := ⟨0x02000a0, 256, 12, 4, 23, 0, 32, .rwl, .warm, 0, 0, 4294967295, [(9999, 0, 1073741824), (9999, 5, 1073741824), (9999, 10, 1073741824)]⟩
/-- `CTL.RAMP_VEL.V`. -/
def CTL_RAMP_VEL_V : Field := ⟨0x02000fc, 256, 12, 0, 1, 0, 32, .ro, .warm, 0, 0, 4294967295, []⟩
/-- `CTL.FRIC_TBL.ENTRY`. -/
def CTL_FRIC_TBL_ENTRY : Field := ⟨0x0210000, 2048, 12, 4, 256, 0, 32, .rw, .warm, 0, 0, 4294967295, []⟩
/-- `CTL.COG_TBL.ENTRY`. -/
def CTL_COG_TBL_ENTRY : Field := ⟨0x0210400, 2048, 12, 4, 256, 0, 32, .rw, .warm, 0, 0, 4294967295, []⟩
/-- `CTL.HEAD_OFS.ENTRY`. -/
def CTL_HEAD_OFS_ENTRY : Field := ⟨0x0218000, 256, 24, 4, 64, 0, 32, .rw, .warm, 0, 0, 4294967295, []⟩
/-- `CTL.STATUS.EN`. -/
def CTL_STATUS_EN : Field := ⟨0x0201000, 0, 1, 0, 1, 0, 12, .ro, .warm, 0, 0, 4095, []⟩
/-- `CTL.STATUS.LOST`. -/
def CTL_STATUS_LOST : Field := ⟨0x0201000, 0, 1, 0, 1, 12, 12, .ro, .warm, 0, 0, 4095, []⟩
/-- `CTL.OVERRUNS.COUNT`. -/
def CTL_OVERRUNS_COUNT : Field := ⟨0x0201004, 0, 1, 0, 1, 0, 32, .rc, .warm, 0, 0, 4294967295, []⟩
/-- `CTL.MDRV_STATUS.FAULT_LANES`. -/
def CTL_MDRV_STATUS_FAULT_LANES : Field := ⟨0x0201008, 0, 1, 0, 1, 0, 5, .w1c, .warm, 0, 0, 31, []⟩
/-- `CTL.MDRV_STATUS.FLT_N`. -/
def CTL_MDRV_STATUS_FLT_N : Field := ⟨0x0201008, 0, 1, 0, 1, 5, 1, .ro, .warm, 1, 0, 1, []⟩
/-- `CTL.MDRV_CRC.COUNT`. -/
def CTL_MDRV_CRC_COUNT : Field := ⟨0x020100c, 0, 1, 0, 1, 0, 32, .rc, .warm, 0, 0, 4294967295, []⟩
/-- `CTL.ERR_STATUS.DRIVER_FAULT`. -/
def CTL_ERR_STATUS_DRIVER_FAULT : Field := ⟨0x0201010, 0, 1, 0, 1, 0, 1, .w1c, .warm, 0, 0, 1, []⟩
/-- `CTL.ERR_STATUS.RETRACT`. -/
def CTL_ERR_STATUS_RETRACT : Field := ⟨0x0201010, 0, 1, 0, 1, 1, 1, .w1c, .warm, 0, 0, 1, []⟩
/-- `CTL.ERR_STATUS.SPINDLE`. -/
def CTL_ERR_STATUS_SPINDLE : Field := ⟨0x0201010, 0, 1, 0, 1, 2, 1, .w1c, .warm, 0, 0, 1, []⟩
/-- `CTL.ERR_STATUS.ANY_SLOT`. -/
def CTL_ERR_STATUS_ANY_SLOT : Field := ⟨0x0201010, 0, 1, 0, 1, 3, 1, .w1c, .warm, 0, 0, 1, []⟩
/-- `CTL.DK_STATUS.SERVO0`. -/
def CTL_DK_STATUS_SERVO0 : Field := ⟨0x0209000, 0, 1, 0, 1, 0, 5, .ro, .warm, 0, 0, 31, []⟩
/-- `CTL.DK_STATUS.SERVO1`. -/
def CTL_DK_STATUS_SERVO1 : Field := ⟨0x0209000, 0, 1, 0, 1, 5, 5, .ro, .warm, 0, 0, 31, []⟩
/-- `CTL.DK_STATUS.RETRACTED`. -/
def CTL_DK_STATUS_RETRACTED : Field := ⟨0x0209000, 0, 1, 0, 1, 10, 2, .ro, .warm, 3, 0, 3, []⟩
/-- `CTL.DK_STATUS.SETTLED`. -/
def CTL_DK_STATUS_SETTLED : Field := ⟨0x0209000, 0, 1, 0, 1, 12, 2, .ro, .warm, 0, 0, 3, []⟩
/-- `CTL.DK_STATUS.PERMIT`. -/
def CTL_DK_STATUS_PERMIT : Field := ⟨0x0209000, 0, 1, 0, 1, 14, 2, .ro, .warm, 0, 0, 3, []⟩
/-- `CTL.DK_STATUS.AT_SPEED`. -/
def CTL_DK_STATUS_AT_SPEED : Field := ⟨0x0209000, 0, 1, 0, 1, 16, 1, .ro, .warm, 0, 0, 1, []⟩
/-- `CTL.DK_LIMIT.WI_PCT`. -/
def CTL_DK_LIMIT_WI_PCT : Field := ⟨0x0209004, 0, 1, 0, 1, 0, 8, .rwl, .warm, 12, 1, 50, []⟩
/-- `CTL.DK_LIMIT.SETTLE_WEDGES`. -/
def CTL_DK_LIMIT_SETTLE_WEDGES : Field := ⟨0x0209004, 0, 1, 0, 1, 8, 8, .rwl, .warm, 8, 1, 255, []⟩
/-- `CTL.DK_SPIN.RPM`. -/
def CTL_DK_SPIN_RPM : Field := ⟨0x0209008, 0, 1, 0, 1, 0, 14, .rwl, .warm, 7200, 3600, 15000, []⟩
/-- `CTL.DK_SPIN.TOL`. -/
def CTL_DK_SPIN_TOL : Field := ⟨0x0209008, 0, 1, 0, 1, 16, 8, .rwl, .warm, 5, 1, 50, []⟩
/-- `CTL.DK_SPIN.SPINUP_S`. -/
def CTL_DK_SPIN_SPINUP_S : Field := ⟨0x0209008, 0, 1, 0, 1, 24, 8, .rwl, .warm, 30, 5, 120, []⟩
/-- `CTL.DK_RELOAD.WAIT_MS`. -/
def CTL_DK_RELOAD_WAIT_MS : Field := ⟨0x020900c, 0, 1, 0, 1, 0, 16, .rwl, .warm, 100, 0, 65535, []⟩
/-- `CTL.DK_RELOAD.WINDOW_MS`. -/
def CTL_DK_RELOAD_WINDOW_MS : Field := ⟨0x020900c, 0, 1, 0, 1, 16, 16, .rwl, .warm, 500, 0, 65535, []⟩
/-- `CTL.DK_RETRACTS.COUNT`. -/
def CTL_DK_RETRACTS_COUNT : Field := ⟨0x0209010, 0, 1, 0, 1, 0, 32, .rc, .warm, 0, 0, 4294967295, []⟩

/-- Fields of block CTL, part 0. -/
def listCTL0 : List Field :=
  [CTL_TM_STATUS_MODE, CTL_TM_STATUS_STEP, CTL_TM_STATUS_TARGET, CTL_TM_STATUS_CAP,
   CTL_TM_STATUS_SETTLED, CTL_TM_STATUS_WRITE_INHIBIT, CTL_TM_STATUS_SERVO_VALID, CTL_TM_CFG_ACCEL,
   CTL_TM_CFG_TENSION, CTL_TM_LIMIT_WI_NM, CTL_TM_BUF_HIGH, CTL_TM_BUF_LOW,
   CTL_TM_BUF_RESUME_DS, CTL_TM_HOLD_HOLD_MS, CTL_TM_HOLD_RESUME_MS, CTL_TM_LEVEL_P,
   CTL_TM_LPOS_LPOS, CTL_TM_REPOS_COUNT, CTL_TM_STEPCHG_COUNT, CTL_TM_FAULT_CAUSE,
   CTL_SLOT_CFG_ROLE, CTL_SLOT_CFG_EN, CTL_SLOT_CFG_BANK, CTL_SLOT_CFG_FRIC_EN,
   CTL_SLOT_CFG_COG_EN, CTL_SLOT_CFG_LANE, CTL_SLOT_STATUS_STATE, CTL_SLOT_STATUS_COUNT,
   CTL_SLOT_STATUS_RETRACTED, CTL_SLOT_FLAGS_ACC_SAT, CTL_SLOT_FLAGS_Q_SAT, CTL_SLOT_FLAGS_INT_CLAMP,
   CTL_SLOT_FLAGS_OUT_LIMIT, CTL_SLOT_FLAGS_OVERRUN, CTL_SLOT_FLAGS_TIMEOUT, CTL_SLOT_FLAGS_BUMP_CLAMP,
   CTL_SLOT_FLAGS_FERR, CTL_SLOT_FLAGS_LOSS, CTL_SLOT_FLAGS_ACTIVE_BANK_WRITE, CTL_SLOT_FERR_LIM_LIMIT]


/-- Fields of block CTL, part 1. -/
def listCTL1 : List Field :=
  [CTL_SLOT_FERR_TIME_TIME_US, CTL_SLOT_OUT_OUT, CTL_SLOT_INTEG_I, CTL_SLOT_SP_LO_SP,
   CTL_SLOT_SP_HI_SP, CTL_SLOT_PERIOD_PERIOD_NS, CTL_RAMP_CTL_MODE, CTL_RAMP_CTL_DONE,
   CTL_RAMP_VMAX_LIMIT, CTL_RAMP_AMAX_LIMIT, CTL_RAMP_TGT_LO_TGT, CTL_RAMP_TGT_HI_TGT,
   CTL_FRIC_SCALE_SCALE, CTL_COG_SCALE_SCALE, CTL_COEF_A_COEF, CTL_COEF_B_COEF,
   CTL_RAMP_VEL_V, CTL_FRIC_TBL_ENTRY, CTL_COG_TBL_ENTRY, CTL_HEAD_OFS_ENTRY,
   CTL_STATUS_EN, CTL_STATUS_LOST, CTL_OVERRUNS_COUNT, CTL_MDRV_STATUS_FAULT_LANES,
   CTL_MDRV_STATUS_FLT_N, CTL_MDRV_CRC_COUNT, CTL_ERR_STATUS_DRIVER_FAULT, CTL_ERR_STATUS_RETRACT,
   CTL_ERR_STATUS_SPINDLE, CTL_ERR_STATUS_ANY_SLOT, CTL_DK_STATUS_SERVO0, CTL_DK_STATUS_SERVO1,
   CTL_DK_STATUS_RETRACTED, CTL_DK_STATUS_SETTLED, CTL_DK_STATUS_PERMIT, CTL_DK_STATUS_AT_SPEED,
   CTL_DK_LIMIT_WI_PCT, CTL_DK_LIMIT_SETTLE_WEDGES, CTL_DK_SPIN_RPM, CTL_DK_SPIN_TOL]


/-- Fields of block CTL, part 2. -/
def listCTL2 : List Field :=
  [CTL_DK_SPIN_SPINUP_S, CTL_DK_RELOAD_WAIT_MS, CTL_DK_RELOAD_WINDOW_MS, CTL_DK_RETRACTS_COUNT]

/-! Fields of block LANE: Tables 10-11, 10-12. -/

/-- `LANE.CFG.CTF_BOOST`. -/
def LANE_CFG_CTF_BOOST : Field := ⟨0x0140000, 64, 76, 0, 1, 0, 5, .rwl, .warm, 12, 0, 24, []⟩
/-- `LANE.CFG.FIR_MU`. -/
def LANE_CFG_FIR_MU : Field := ⟨0x0140000, 64, 76, 0, 1, 8, 5, .rw, .warm, 12, 6, 20, []⟩
/-- `LANE.CFG.ADAPT_EN`. -/
def LANE_CFG_ADAPT_EN : Field := ⟨0x0140000, 64, 76, 0, 1, 13, 1, .rw, .warm, 1, 0, 1, []⟩
/-- `LANE.CFG.COMBINE`. -/
def LANE_CFG_COMBINE : Field := ⟨0x0140000, 64, 76, 0, 1, 16, 8, .rwl, .warm, 64, 0, 128, []⟩
/-- `LANE.LOOP.ACQ_KP`. -/
def LANE_LOOP_ACQ_KP : Field := ⟨0x0140004, 64, 76, 0, 1, 0, 4, .rwl, .warm, 4, 0, 15, []⟩
/-- `LANE.LOOP.ACQ_KI`. -/
def LANE_LOOP_ACQ_KI : Field := ⟨0x0140004, 64, 76, 0, 1, 4, 5, .rwl, .warm, 10, 0, 31, []⟩
/-- `LANE.LOOP.TRK_KP`. -/
def LANE_LOOP_TRK_KP : Field := ⟨0x0140004, 64, 76, 0, 1, 9, 4, .rwl, .warm, 7, 0, 15, []⟩
/-- `LANE.LOOP.TRK_KI`. -/
def LANE_LOOP_TRK_KI : Field := ⟨0x0140004, 64, 76, 0, 1, 13, 5, .rwl, .warm, 16, 0, 31, []⟩
/-- `LANE.STATUS.LOCKED`. -/
def LANE_STATUS_LOCKED : Field := ⟨0x0140008, 64, 76, 0, 1, 0, 1, .ro, .warm, 0, 0, 1, []⟩
/-- `LANE.STATUS.SERVO_VALID`. -/
def LANE_STATUS_SERVO_VALID : Field := ⟨0x0140008, 64, 76, 0, 1, 1, 1, .ro, .warm, 0, 0, 1, []⟩
/-- `LANE.STATUS.VGA`. -/
def LANE_STATUS_VGA : Field := ⟨0x0140008, 64, 76, 0, 1, 2, 7, .ro, .warm, 0, 0, 127, []⟩
/-- `LANE.STATUS.FREQ_OFS`. -/
def LANE_STATUS_FREQ_OFS : Field := ⟨0x0140008, 64, 76, 0, 1, 16, 16, .ro, .warm, 0, 0, 65535, []⟩
/-- `LANE.RING.LEVEL_KIB`. -/
def LANE_RING_LEVEL_KIB : Field := ⟨0x014000c, 64, 76, 0, 1, 0, 11, .ro, .warm, 0, 0, 2047, []⟩
/-- `LANE.SYNC_MISS.COUNT`. -/
def LANE_SYNC_MISS_COUNT : Field := ⟨0x0140010, 64, 76, 0, 1, 0, 32, .rc, .warm, 0, 0, 4294967295, []⟩
/-- `LANE.SPILLS.COUNT`. -/
def LANE_SPILLS_COUNT : Field := ⟨0x0140014, 64, 76, 0, 1, 0, 32, .rc, .warm, 0, 0, 4294967295, []⟩
/-- `LANE.WEDGE_BAD.COUNT`. -/
def LANE_WEDGE_BAD_COUNT : Field := ⟨0x0140018, 64, 76, 0, 1, 0, 32, .rc, .warm, 0, 0, 4294967295, []⟩
/-- `LANE.SYNC_CFG.WIN_D`. -/
def LANE_SYNC_CFG_WIN_D : Field := ⟨0x0142000, 0, 1, 0, 1, 0, 6, .rwl, .warm, 16, 4, 63, []⟩
/-- `LANE.SYNC_CFG.WIN_T`. -/
def LANE_SYNC_CFG_WIN_T : Field := ⟨0x0142000, 0, 1, 0, 1, 6, 6, .rwl, .warm, 32, 4, 63, []⟩
/-- `LANE.SYNC_CFG.TOL_D`. -/
def LANE_SYNC_CFG_TOL_D : Field := ⟨0x0142000, 0, 1, 0, 1, 12, 4, .rwl, .warm, 4, 0, 8, []⟩
/-- `LANE.SYNC_CFG.TOL_T`. -/
def LANE_SYNC_CFG_TOL_T : Field := ⟨0x0142000, 0, 1, 0, 1, 16, 4, .rwl, .warm, 6, 0, 10, []⟩
/-- `LANE.SYNC_CFG.TOL_F`. -/
def LANE_SYNC_CFG_TOL_F : Field := ⟨0x0142000, 0, 1, 0, 1, 20, 2, .rwl, .warm, 2, 0, 3, []⟩
/-- `LANE.RETRY_CFG.RETRY_ITER`. -/
def LANE_RETRY_CFG_RETRY_ITER : Field := ⟨0x0142004, 0, 1, 0, 1, 0, 6, .rwl, .warm, 20, 10, 50, []⟩
/-- `LANE.RETRY_CFG.LADDER_DECODES`. -/
def LANE_RETRY_CFG_LADDER_DECODES : Field := ⟨0x0142004, 0, 1, 0, 1, 6, 4, .rwl, .warm, 2, 1, 9, []⟩
/-- `LANE.RETRY_CFG.OFFSET_PCT`. -/
def LANE_RETRY_CFG_OFFSET_PCT : Field := ⟨0x0142004, 0, 1, 0, 1, 10, 5, .rwl, .warm, 6, 1, 25, []⟩
/-- `LANE.RETRY_CFG.TREAD`. -/
def LANE_RETRY_CFG_TREAD : Field := ⟨0x0142004, 0, 1, 0, 1, 15, 4, .rwl, .warm, 4, 0, 8, []⟩
/-- `LANE.RETRY_CFG.LAST_STEP`. -/
def LANE_RETRY_CFG_LAST_STEP : Field := ⟨0x0142004, 0, 1, 0, 1, 19, 4, .rwl, .warm, 15, 4, 15, []⟩
/-- `LANE.SERVO_CFG.SAM_WIN`. -/
def LANE_SERVO_CFG_SAM_WIN : Field := ⟨0x0142008, 0, 1, 0, 1, 0, 6, .rwl, .warm, 12, 2, 63, []⟩
/-- `LANE.SERVO_CFG.AMP_MIN`. -/
def LANE_SERVO_CFG_AMP_MIN : Field := ⟨0x0142008, 0, 1, 0, 1, 8, 7, .rwl, .warm, 25, 5, 90, []⟩
/-- `LANE.SERVO_CFG.TA_LEVEL`. -/
def LANE_SERVO_CFG_TA_LEVEL : Field := ⟨0x0142008, 0, 1, 0, 1, 16, 7, .rwl, .warm, 70, 30, 100, []⟩
/-- `LANE.ERR_STATUS.SPILL_DROP`. -/
def LANE_ERR_STATUS_SPILL_DROP : Field := ⟨0x0142010, 0, 1, 0, 1, 0, 1, .w1c, .warm, 0, 0, 1, []⟩
/-- `LANE.ERR_STATUS.SPILL_POISON`. -/
def LANE_ERR_STATUS_SPILL_POISON : Field := ⟨0x0142010, 0, 1, 0, 1, 1, 1, .w1c, .warm, 0, 0, 1, []⟩
/-- `LANE.ERR_STATUS.REPLAY_FAIL`. -/
def LANE_ERR_STATUS_REPLAY_FAIL : Field := ⟨0x0142010, 0, 1, 0, 1, 2, 1, .w1c, .warm, 0, 0, 1, []⟩

/-- Fields of block LANE, part 0. -/
def listLANE0 : List Field :=
  [LANE_CFG_CTF_BOOST, LANE_CFG_FIR_MU, LANE_CFG_ADAPT_EN, LANE_CFG_COMBINE,
   LANE_LOOP_ACQ_KP, LANE_LOOP_ACQ_KI, LANE_LOOP_TRK_KP, LANE_LOOP_TRK_KI,
   LANE_STATUS_LOCKED, LANE_STATUS_SERVO_VALID, LANE_STATUS_VGA, LANE_STATUS_FREQ_OFS,
   LANE_RING_LEVEL_KIB, LANE_SYNC_MISS_COUNT, LANE_SPILLS_COUNT, LANE_WEDGE_BAD_COUNT,
   LANE_SYNC_CFG_WIN_D, LANE_SYNC_CFG_WIN_T, LANE_SYNC_CFG_TOL_D, LANE_SYNC_CFG_TOL_T,
   LANE_SYNC_CFG_TOL_F, LANE_RETRY_CFG_RETRY_ITER, LANE_RETRY_CFG_LADDER_DECODES, LANE_RETRY_CFG_OFFSET_PCT,
   LANE_RETRY_CFG_TREAD, LANE_RETRY_CFG_LAST_STEP, LANE_SERVO_CFG_SAM_WIN, LANE_SERVO_CFG_AMP_MIN,
   LANE_SERVO_CFG_TA_LEVEL, LANE_ERR_STATUS_SPILL_DROP, LANE_ERR_STATUS_SPILL_POISON, LANE_ERR_STATUS_REPLAY_FAIL]

/-! Fields of block DET: Tables 10-13, 10-14. -/

/-- `DET.CFG.READ_ITER`. -/
def DET_CFG_READ_ITER : Field := ⟨0x0180000, 0, 1, 0, 1, 0, 5, .rwl, .warm, 10, 4, 20, []⟩
/-- `DET.CFG.CONGEST`. -/
def DET_CFG_CONGEST : Field := ⟨0x0180000, 0, 1, 0, 1, 6, 10, .rwl, .warm, 256, 16, 1023, []⟩
/-- `DET.CFG.AGE_US`. -/
def DET_CFG_AGE_US : Field := ⟨0x0180000, 0, 1, 0, 1, 16, 16, .rwl, .warm, 2000, 100, 65535, []⟩
/-- `DET.KAT_CFG.KAT_MS`. -/
def DET_KAT_CFG_KAT_MS : Field := ⟨0x0180004, 0, 1, 0, 1, 0, 16, .rwl, .warm, 100, 10, 10000, []⟩
/-- `DET.KAT_CFG.KAT_CW`. -/
def DET_KAT_CFG_KAT_CW : Field := ⟨0x0180004, 0, 1, 0, 1, 16, 16, .rwl, .warm, 64, 1, 65535, []⟩
/-- `DET.STATUS.ACTIVE`. -/
def DET_STATUS_ACTIVE : Field := ⟨0x0180008, 0, 1, 0, 1, 0, 5, .ro, .warm, 0, 0, 31, []⟩
/-- `DET.STATUS.SPARES`. -/
def DET_STATUS_SPARES : Field := ⟨0x0180008, 0, 1, 0, 1, 5, 2, .ro, .warm, 0, 0, 3, []⟩
/-- `DET.STATUS.DEGRADED`. -/
def DET_STATUS_DEGRADED : Field := ⟨0x0180008, 0, 1, 0, 1, 7, 1, .ro, .warm, 0, 0, 1, []⟩
/-- `DET.STATUS.CONGESTED`. -/
def DET_STATUS_CONGESTED : Field := ⟨0x0180008, 0, 1, 0, 1, 8, 1, .ro, .warm, 0, 0, 1, []⟩
/-- `DET.CELL_MAP.IN_SERVICE`. -/
def DET_CELL_MAP_IN_SERVICE : Field := ⟨0x018000c, 0, 1, 0, 1, 0, 26, .ro, .warm, 0, 0, 67108863, []⟩
/-- `DET.CELL_RETIRED.RETIRED`. -/
def DET_CELL_RETIRED_RETIRED : Field := ⟨0x0180010, 0, 1, 0, 1, 0, 26, .ro, .por, 0, 0, 67108863, []⟩
/-- `DET.WAIT.FOREGROUND`. -/
def DET_WAIT_FOREGROUND : Field := ⟨0x0180014, 0, 1, 0, 1, 0, 16, .ro, .warm, 0, 0, 65535, []⟩
/-- `DET.WAIT.OTHER`. -/
def DET_WAIT_OTHER : Field := ⟨0x0180014, 0, 1, 0, 1, 16, 16, .ro, .warm, 0, 0, 65535, []⟩
/-- `DET.CW_GOOD_LO.COUNT`. -/
def DET_CW_GOOD_LO_COUNT : Field := ⟨0x0180020, 0, 1, 0, 1, 0, 32, .ro, .warm, 0, 0, 4294967295, []⟩
/-- `DET.ITER_LO.COUNT`. -/
def DET_ITER_LO_COUNT : Field := ⟨0x0180028, 0, 1, 0, 1, 0, 32, .ro, .warm, 0, 0, 4294967295, []⟩
/-- `DET.CW_GOOD_HI.COUNT`. -/
def DET_CW_GOOD_HI_COUNT : Field := ⟨0x0180024, 0, 1, 0, 1, 0, 32, .ro, .warm, 0, 0, 4294967295, []⟩
/-- `DET.ITER_HI.COUNT`. -/
def DET_ITER_HI_COUNT : Field := ⟨0x018002c, 0, 1, 0, 1, 0, 32, .ro, .warm, 0, 0, 4294967295, []⟩
/-- `DET.CW_FAIL.COUNT`. -/
def DET_CW_FAIL_COUNT : Field := ⟨0x0180030, 0, 1, 0, 1, 0, 32, .rc, .warm, 0, 0, 4294967295, []⟩
/-- `DET.MISCORR.COUNT`. -/
def DET_MISCORR_COUNT : Field := ⟨0x0180034, 0, 1, 0, 1, 0, 32, .rc, .warm, 0, 0, 4294967295, []⟩
/-- `DET.ERR_STATUS.CELL_RETIRED`. -/
def DET_ERR_STATUS_CELL_RETIRED : Field := ⟨0x0180040, 0, 1, 0, 1, 0, 1, .w1c, .warm, 0, 0, 1, []⟩
/-- `DET.ERR_STATUS.SPARES_OUT`. -/
def DET_ERR_STATUS_SPARES_OUT : Field := ⟨0x0180040, 0, 1, 0, 1, 1, 1, .w1c, .warm, 0, 0, 1, []⟩
/-- `DET.ERR_STATUS.MISCORRECT`. -/
def DET_ERR_STATUS_MISCORRECT : Field := ⟨0x0180040, 0, 1, 0, 1, 2, 1, .w1c, .warm, 0, 0, 1, []⟩

/-- Fields of block DET, part 0. -/
def listDET0 : List Field :=
  [DET_CFG_READ_ITER, DET_CFG_CONGEST, DET_CFG_AGE_US, DET_KAT_CFG_KAT_MS,
   DET_KAT_CFG_KAT_CW, DET_STATUS_ACTIVE, DET_STATUS_SPARES, DET_STATUS_DEGRADED,
   DET_STATUS_CONGESTED, DET_CELL_MAP_IN_SERVICE, DET_CELL_RETIRED_RETIRED, DET_WAIT_FOREGROUND,
   DET_WAIT_OTHER, DET_CW_GOOD_LO_COUNT, DET_ITER_LO_COUNT, DET_CW_GOOD_HI_COUNT,
   DET_ITER_HI_COUNT, DET_CW_FAIL_COUNT, DET_MISCORR_COUNT, DET_ERR_STATUS_CELL_RETIRED,
   DET_ERR_STATUS_SPARES_OUT, DET_ERR_STATUS_MISCORRECT]

/-! Fields of block WRA: Tables 11-7, 11-8. -/

/-- `WRA.STATUS.TSYNTH_LOCK`. -/
def WRA_STATUS_TSYNTH_LOCK : Field := ⟨0x01c0000, 0, 1, 0, 1, 0, 1, .ro, .warm, 0, 0, 1, []⟩
/-- `WRA.STATUS.DSYNTH_LOCK`. -/
def WRA_STATUS_DSYNTH_LOCK : Field := ⟨0x01c0000, 0, 1, 0, 1, 1, 4, .ro, .warm, 0, 0, 15, []⟩
/-- `WRA.STATUS.CH_ARMED`. -/
def WRA_STATUS_CH_ARMED : Field := ⟨0x01c0000, 0, 1, 0, 1, 5, 4, .ro, .warm, 0, 0, 15, []⟩
/-- `WRA.STATUS.AG`. -/
def WRA_STATUS_AG : Field := ⟨0x01c0000, 0, 1, 0, 1, 9, 2, .ro, .warm, 0, 0, 3, []⟩
/-- `WRA.STATUS.WG`. -/
def WRA_STATUS_WG : Field := ⟨0x01c0000, 0, 1, 0, 1, 11, 2, .ro, .warm, 0, 0, 3, []⟩
/-- `WRA.STATUS.FLT`. -/
def WRA_STATUS_FLT : Field := ⟨0x01c0000, 0, 1, 0, 1, 13, 2, .ro, .warm, 0, 0, 3, []⟩
/-- `WRA.STATUS.TAPE_SQUELCH`. -/
def WRA_STATUS_TAPE_SQUELCH : Field := ⟨0x01c0000, 0, 1, 0, 1, 15, 1, .ro, .warm, 1, 0, 1, []⟩
/-- `WRA.TW_CFG.VEL_TRACK`. -/
def WRA_TW_CFG_VEL_TRACK : Field := ⟨0x01c0004, 0, 1, 0, 1, 0, 1, .rwl, .warm, 1, 0, 1, []⟩
/-- `WRA.TW_SKEW.TRACK0`. -/
def WRA_TW_SKEW_TRACK0 : Field := ⟨0x01c0010, 4, 16, 0, 1, 0, 8, .rwl, .warm, 0, 0, 255, []⟩
/-- `WRA.TW_SKEW.TRACK1`. -/
def WRA_TW_SKEW_TRACK1 : Field := ⟨0x01c0010, 4, 16, 0, 1, 8, 8, .rwl, .warm, 0, 0, 255, []⟩
/-- `WRA.TW_SKEW.TRACK2`. -/
def WRA_TW_SKEW_TRACK2 : Field := ⟨0x01c0010, 4, 16, 0, 1, 16, 8, .rwl, .warm, 0, 0, 255, []⟩
/-- `WRA.TW_SKEW.TRACK3`. -/
def WRA_TW_SKEW_TRACK3 : Field := ⟨0x01c0010, 4, 16, 0, 1, 24, 8, .rwl, .warm, 0, 0, 255, []⟩
/-- `WRA.DW_TIME.PREHEAT_NS`. -/
def WRA_DW_TIME_PREHEAT_NS : Field := ⟨0x01c0100, 0, 1, 0, 1, 0, 8, .rwl, .warm, 40, 0, 255, []⟩
/-- `WRA.DW_TIME.WG_LEAD_NS`. -/
def WRA_DW_TIME_WG_LEAD_NS : Field := ⟨0x01c0100, 0, 1, 0, 1, 8, 5, .rwl, .warm, 8, 2, 31, []⟩
/-- `WRA.DW_TIME.TAIL_NS`. -/
def WRA_DW_TIME_TAIL_NS : Field := ⟨0x01c0100, 0, 1, 0, 1, 16, 4, .rwl, .warm, 2, 1, 15, []⟩
/-- `WRA.DW_FIELD.FIELD_OFS`. -/
def WRA_DW_FIELD_FIELD_OFS : Field := ⟨0x01c0104, 0, 1, 0, 1, 0, 13, .rwl, .warm, 850, 0, 8191, []⟩
/-- `WRA.D_CFG.BIAS_STEP`. -/
def WRA_D_CFG_BIAS_STEP : Field := ⟨0x01c0108, 0, 1, 0, 1, 0, 8, .rwl, .warm, 8, 0, 255, []⟩
/-- `WRA.D_CFG.PAC_RETRY`. -/
def WRA_D_CFG_PAC_RETRY : Field := ⟨0x01c0108, 0, 1, 0, 1, 8, 2, .rwl, .warm, 2, 0, 3, []⟩
/-- `WRA.DW_PRECOMP.PRECOMP`. -/
def WRA_DW_PRECOMP_PRECOMP : Field := ⟨0x01c0110, 4, 4, 0, 1, 0, 4, .rwl, .warm, 4, 0, 15, []⟩
/-- `WRA.PROF_A.KIND`. -/
def WRA_PROF_A_KIND : Field := ⟨0x01c0200, 8, 16, 0, 1, 0, 2, .rwl, .warm, 0, 0, 3, []⟩
/-- `WRA.PROF_A.PREHEAT_LVL`. -/
def WRA_PROF_A_PREHEAT_LVL : Field := ⟨0x01c0200, 8, 16, 0, 1, 2, 10, .rwl, .warm, 0, 0, 1023, []⟩
/-- `WRA.PROF_A.BOOST_LVL`. -/
def WRA_PROF_A_BOOST_LVL : Field := ⟨0x01c0200, 8, 16, 0, 1, 12, 10, .rwl, .warm, 0, 0, 1023, []⟩
/-- `WRA.PROF_A.MAX_LVL`. -/
def WRA_PROF_A_MAX_LVL : Field := ⟨0x01c0200, 8, 16, 0, 1, 22, 10, .rwl, .warm, 0, 0, 1023, []⟩
/-- `WRA.PROF_B.BOOST_NS`. -/
def WRA_PROF_B_BOOST_NS : Field := ⟨0x01c0204, 8, 16, 0, 1, 0, 8, .rwl, .warm, 0, 0, 255, []⟩
/-- `WRA.PROF_B.TARGET`. -/
def WRA_PROF_B_TARGET : Field := ⟨0x01c0204, 8, 16, 0, 1, 8, 15, .rwl, .warm, 0, 0, 32767, []⟩
/-- `WRA.HEAD_ASSIST.PROF`. -/
def WRA_HEAD_ASSIST_PROF : Field := ⟨0x01c0300, 4, 24, 0, 1, 0, 4, .rwl, .warm, 0, 0, 15, []⟩
/-- `WRA.HEAD_ASSIST.LEVEL`. -/
def WRA_HEAD_ASSIST_LEVEL : Field := ⟨0x01c0300, 4, 24, 0, 1, 4, 10, .ro, .por, 0, 0, 1023, []⟩
/-- `WRA.ASSIST_LOOP.KI`. -/
def WRA_ASSIST_LOOP_KI : Field := ⟨0x01c0400, 0, 1, 0, 1, 0, 4, .rwl, .warm, 4, 0, 15, []⟩
/-- `WRA.ASSIST_LOOP.SAT_FIELDS`. -/
def WRA_ASSIST_LOOP_SAT_FIELDS : Field := ⟨0x01c0400, 0, 1, 0, 1, 4, 4, .rwl, .warm, 8, 1, 15, []⟩
/-- `WRA.ASSIST_LOOP.ERR_PCT`. -/
def WRA_ASSIST_LOOP_ERR_PCT : Field := ⟨0x01c0400, 0, 1, 0, 1, 8, 7, .rwl, .warm, 15, 1, 50, []⟩
/-- `WRA.ASSIST_LOOP.ERR_FIELDS`. -/
def WRA_ASSIST_LOOP_ERR_FIELDS : Field := ⟨0x01c0400, 0, 1, 0, 1, 16, 4, .rwl, .warm, 4, 1, 15, []⟩
/-- `WRA.ASSIST_LOOP.DERATE_PCT`. -/
def WRA_ASSIST_LOOP_DERATE_PCT : Field := ⟨0x01c0400, 0, 1, 0, 1, 20, 7, .rwl, .warm, 90, 50, 100, []⟩
/-- `WRA.PAC_STATUS.ACT0`. -/
def WRA_PAC_STATUS_ACT0 : Field := ⟨0x01c0410, 0, 1, 0, 1, 0, 15, .ro, .warm, 0, 0, 32767, []⟩
/-- `WRA.PAC_STATUS.ACT1`. -/
def WRA_PAC_STATUS_ACT1 : Field := ⟨0x01c0410, 0, 1, 0, 1, 16, 15, .ro, .warm, 0, 0, 32767, []⟩
/-- `WRA.POWER_CLASS.CH`. -/
def WRA_POWER_CLASS_CH : Field := ⟨0x01c0420, 0, 1, 0, 1, 0, 16, .ro, .warm, 0, 0, 65535, []⟩
/-- `WRA.POWER_CLASS.TAPE`. -/
def WRA_POWER_CLASS_TAPE : Field := ⟨0x01c0420, 0, 1, 0, 1, 16, 4, .ro, .warm, 0, 0, 15, []⟩
/-- `WRA.FAULTS.PREAMP`. -/
def WRA_FAULTS_PREAMP : Field := ⟨0x01c0430, 0, 1, 0, 1, 0, 16, .rc, .warm, 0, 0, 65535, []⟩
/-- `WRA.FAULTS.ASSIST`. -/
def WRA_FAULTS_ASSIST : Field := ⟨0x01c0430, 0, 1, 0, 1, 16, 16, .rc, .warm, 0, 0, 65535, []⟩
/-- `WRA.ERR_STATUS.PREAMP_FAULT`. -/
def WRA_ERR_STATUS_PREAMP_FAULT : Field := ⟨0x01c0440, 0, 1, 0, 1, 0, 1, .w1c, .warm, 0, 0, 1, []⟩
/-- `WRA.ERR_STATUS.ASSIST_FAULT`. -/
def WRA_ERR_STATUS_ASSIST_FAULT : Field := ⟨0x01c0440, 0, 1, 0, 1, 1, 1, .w1c, .warm, 0, 0, 1, []⟩
/-- `WRA.ERR_STATUS.SYNTH_UNLOCK`. -/
def WRA_ERR_STATUS_SYNTH_UNLOCK : Field := ⟨0x01c0440, 0, 1, 0, 1, 2, 1, .w1c, .warm, 0, 0, 1, []⟩
/-- `WRA.ERR_STATUS.PAC_BUS`. -/
def WRA_ERR_STATUS_PAC_BUS : Field := ⟨0x01c0440, 0, 1, 0, 1, 3, 1, .w1c, .warm, 0, 0, 1, []⟩
/-- `WRA.ERR_STATUS.ASSIST_DERATE`. -/
def WRA_ERR_STATUS_ASSIST_DERATE : Field := ⟨0x01c0440, 0, 1, 0, 1, 4, 1, .w1c, .warm, 0, 0, 1, []⟩

/-- Fields of block WRA, part 0. -/
def listWRA0 : List Field :=
  [WRA_STATUS_TSYNTH_LOCK, WRA_STATUS_DSYNTH_LOCK, WRA_STATUS_CH_ARMED, WRA_STATUS_AG,
   WRA_STATUS_WG, WRA_STATUS_FLT, WRA_STATUS_TAPE_SQUELCH, WRA_TW_CFG_VEL_TRACK,
   WRA_TW_SKEW_TRACK0, WRA_TW_SKEW_TRACK1, WRA_TW_SKEW_TRACK2, WRA_TW_SKEW_TRACK3,
   WRA_DW_TIME_PREHEAT_NS, WRA_DW_TIME_WG_LEAD_NS, WRA_DW_TIME_TAIL_NS, WRA_DW_FIELD_FIELD_OFS,
   WRA_D_CFG_BIAS_STEP, WRA_D_CFG_PAC_RETRY, WRA_DW_PRECOMP_PRECOMP, WRA_PROF_A_KIND,
   WRA_PROF_A_PREHEAT_LVL, WRA_PROF_A_BOOST_LVL, WRA_PROF_A_MAX_LVL, WRA_PROF_B_BOOST_NS,
   WRA_PROF_B_TARGET, WRA_HEAD_ASSIST_PROF, WRA_HEAD_ASSIST_LEVEL, WRA_ASSIST_LOOP_KI,
   WRA_ASSIST_LOOP_SAT_FIELDS, WRA_ASSIST_LOOP_ERR_PCT, WRA_ASSIST_LOOP_ERR_FIELDS, WRA_ASSIST_LOOP_DERATE_PCT,
   WRA_PAC_STATUS_ACT0, WRA_PAC_STATUS_ACT1, WRA_POWER_CLASS_CH, WRA_POWER_CLASS_TAPE,
   WRA_FAULTS_PREAMP, WRA_FAULTS_ASSIST, WRA_ERR_STATUS_PREAMP_FAULT, WRA_ERR_STATUS_ASSIST_FAULT]


/-- Fields of block WRA, part 1. -/
def listWRA1 : List Field :=
  [WRA_ERR_STATUS_SYNTH_UNLOCK, WRA_ERR_STATUS_PAC_BUS, WRA_ERR_STATUS_ASSIST_DERATE]

/-! Fields of block TRC: Tables 12-14, 12-15. -/

/-- `TRC.CTL.ARM`. -/
def TRC_CTL_ARM : Field := ⟨0x0310000, 0, 1, 0, 1, 0, 1, .wo, .warm, 0, 0, 1, []⟩
/-- `TRC.CTL.FORCE`. -/
def TRC_CTL_FORCE : Field := ⟨0x0310000, 0, 1, 0, 1, 1, 1, .wo, .warm, 0, 0, 1, []⟩
/-- `TRC.CTL.ABORT`. -/
def TRC_CTL_ABORT : Field := ⟨0x0310000, 0, 1, 0, 1, 2, 1, .wo, .warm, 0, 0, 1, []⟩
/-- `TRC.STATUS.STATE`. -/
def TRC_STATUS_STATE : Field := ⟨0x0310004, 0, 1, 0, 1, 0, 2, .ro, .warm, 0, 0, 3, []⟩
/-- `TRC.TRIG_CFG.KIND`. -/
def TRC_TRIG_CFG_KIND : Field := ⟨0x0310008, 0, 1, 0, 1, 0, 3, .rw, .warm, 0, 0, 4, []⟩
/-- `TRC.TRIG_CFG.SLOT`. -/
def TRC_TRIG_CFG_SLOT : Field := ⟨0x0310008, 0, 1, 0, 1, 3, 4, .rw, .warm, 0, 0, 15, []⟩
/-- `TRC.TRIG_CFG.SIGNAL`. -/
def TRC_TRIG_CFG_SIGNAL : Field := ⟨0x0310008, 0, 1, 0, 1, 7, 4, .rw, .warm, 0, 0, 15, []⟩
/-- `TRC.TRIG_CFG.CODE`. -/
def TRC_TRIG_CFG_CODE : Field := ⟨0x0310008, 0, 1, 0, 1, 12, 12, .rw, .warm, 0, 0, 4095, []⟩
/-- `TRC.TRIG_LEVEL.LEVEL`. -/
def TRC_TRIG_LEVEL_LEVEL : Field := ⟨0x031000c, 0, 1, 0, 1, 0, 32, .rw, .warm, 0, 0, 4294967295, []⟩
/-- `TRC.PRE.COUNT`. -/
def TRC_PRE_COUNT : Field := ⟨0x0310010, 0, 1, 0, 1, 0, 16, .rw, .warm, 32768, 0, 65535, []⟩
/-- `TRC.POST_MS.MS`. -/
def TRC_POST_MS_MS : Field := ⟨0x0310014, 0, 1, 0, 1, 0, 16, .rw, .warm, 10000, 1, 65535, []⟩
/-- `TRC.RD_ADDR.INDEX`. -/
def TRC_RD_ADDR_INDEX : Field := ⟨0x0310018, 0, 1, 0, 1, 0, 16, .rw, .warm, 0, 0, 65535, []⟩
/-- `TRC.RD_ADDR.CHANNEL`. -/
def TRC_RD_ADDR_CHANNEL : Field := ⟨0x0310018, 0, 1, 0, 1, 16, 4, .rw, .warm, 0, 0, 15, []⟩
/-- `TRC.RD_DATA.VALUE`. -/
def TRC_RD_DATA_VALUE : Field := ⟨0x031001c, 0, 1, 0, 1, 0, 32, .rc, .warm, 0, 0, 4294967295, []⟩
/-- `TRC.RD_TIME.TIME`. -/
def TRC_RD_TIME_TIME : Field := ⟨0x0310020, 0, 1, 0, 1, 0, 32, .ro, .warm, 0, 0, 4294967295, []⟩
/-- `TRC.CH_SRC.EN`. -/
def TRC_CH_SRC_EN : Field := ⟨0x0310040, 4, 16, 0, 1, 0, 1, .rw, .warm, 0, 0, 1, []⟩
/-- `TRC.CH_SRC.SLOT`. -/
def TRC_CH_SRC_SLOT : Field := ⟨0x0310040, 4, 16, 0, 1, 1, 4, .rw, .warm, 0, 0, 15, []⟩
/-- `TRC.CH_SRC.SIGNAL`. -/
def TRC_CH_SRC_SIGNAL : Field := ⟨0x0310040, 4, 16, 0, 1, 5, 4, .rw, .warm, 0, 0, 15, []⟩
/-- `TRC.CH_COUNT.COUNT`. -/
def TRC_CH_COUNT_COUNT : Field := ⟨0x0310080, 4, 16, 0, 1, 0, 17, .ro, .warm, 0, 0, 131071, []⟩
/-- `TRC.CH_TRIG.INDEX`. -/
def TRC_CH_TRIG_INDEX : Field := ⟨0x03100c0, 4, 16, 0, 1, 0, 16, .ro, .warm, 0, 0, 65535, []⟩

/-- Fields of block TRC, part 0. -/
def listTRC0 : List Field :=
  [TRC_CTL_ARM, TRC_CTL_FORCE, TRC_CTL_ABORT, TRC_STATUS_STATE,
   TRC_TRIG_CFG_KIND, TRC_TRIG_CFG_SLOT, TRC_TRIG_CFG_SIGNAL, TRC_TRIG_CFG_CODE,
   TRC_TRIG_LEVEL_LEVEL, TRC_PRE_COUNT, TRC_POST_MS_MS, TRC_RD_ADDR_INDEX,
   TRC_RD_ADDR_CHANNEL, TRC_RD_DATA_VALUE, TRC_RD_TIME_TIME, TRC_CH_SRC_EN,
   TRC_CH_SRC_SLOT, TRC_CH_SRC_SIGNAL, TRC_CH_COUNT_COUNT, TRC_CH_TRIG_INDEX]

/-! Fields of block GRP: Tables 13-12, 13-13. -/

/-- `GRP.STATUS.ROLE`. -/
def GRP_STATUS_ROLE : Field := ⟨0x0240000, 0, 1, 0, 1, 0, 2, .ro, .warm, 0, 0, 3, []⟩
/-- `GRP.STATUS.ID`. -/
def GRP_STATUS_ID : Field := ⟨0x0240000, 0, 1, 0, 1, 2, 6, .ro, .warm, 0, 0, 63, []⟩
/-- `GRP.STATUS.HAS_ID`. -/
def GRP_STATUS_HAS_ID : Field := ⟨0x0240000, 0, 1, 0, 1, 8, 1, .ro, .warm, 0, 0, 1, []⟩
/-- `GRP.STATUS.STATE`. -/
def GRP_STATUS_STATE : Field := ⟨0x0240000, 0, 1, 0, 1, 9, 4, .ro, .warm, 0, 0, 15, []⟩
/-- `GRP.STATUS.ISOLATED`. -/
def GRP_STATUS_ISOLATED : Field := ⟨0x0240000, 0, 1, 0, 1, 13, 1, .ro, .warm, 0, 0, 1, []⟩
/-- `GRP.EPOCH_LO.EPOCH`. -/
def GRP_EPOCH_LO_EPOCH : Field := ⟨0x0240004, 0, 1, 0, 1, 0, 32, .ro, .warm, 0, 0, 4294967295, []⟩
/-- `GRP.EPOCH_HI.EPOCH`. -/
def GRP_EPOCH_HI_EPOCH : Field := ⟨0x0240008, 0, 1, 0, 1, 0, 32, .ro, .warm, 0, 0, 4294967295, []⟩
/-- `GRP.UNIQUE_ID_LO.UID`. -/
def GRP_UNIQUE_ID_LO_UID : Field := ⟨0x024000c, 0, 1, 0, 1, 0, 32, .ro, .aon, 0, 0, 4294967295, []⟩
/-- `GRP.UNIQUE_ID_HI.UID`. -/
def GRP_UNIQUE_ID_HI_UID : Field := ⟨0x0240010, 0, 1, 0, 1, 0, 32, .ro, .aon, 0, 0, 4294967295, []⟩
/-- `GRP.ACTIVE_LO.MEMBERS`. -/
def GRP_ACTIVE_LO_MEMBERS : Field := ⟨0x0240014, 0, 1, 0, 1, 0, 32, .ro, .warm, 0, 0, 4294967295, []⟩
/-- `GRP.ACTIVE_HI.MEMBERS`. -/
def GRP_ACTIVE_HI_MEMBERS : Field := ⟨0x0240018, 0, 1, 0, 1, 0, 32, .ro, .warm, 0, 0, 4294967295, []⟩
/-- `GRP.REACH_LO.MEMBERS`. -/
def GRP_REACH_LO_MEMBERS : Field := ⟨0x024001c, 0, 1, 0, 1, 0, 32, .ro, .warm, 0, 0, 4294967295, []⟩
/-- `GRP.REACH_HI.MEMBERS`. -/
def GRP_REACH_HI_MEMBERS : Field := ⟨0x0240020, 0, 1, 0, 1, 0, 32, .ro, .warm, 0, 0, 4294967295, []⟩
/-- `GRP.FAILOVER.BEAT_MS`. -/
def GRP_FAILOVER_BEAT_MS : Field := ⟨0x0240030, 0, 1, 0, 1, 0, 8, .rwl, .warm, 10, 1, 100, []⟩
/-- `GRP.FAILOVER.LEAD_MS`. -/
def GRP_FAILOVER_LEAD_MS : Field := ⟨0x0240030, 0, 1, 0, 1, 8, 10, .rwl, .warm, 50, 10, 1000, []⟩
/-- `GRP.PORT_ARB.DATA_W`. -/
def GRP_PORT_ARB_DATA_W : Field := ⟨0x0240034, 0, 1, 0, 1, 0, 8, .ro, .warm, 3, 0, 255, []⟩
/-- `GRP.PORT_ARB.BULK_W`. -/
def GRP_PORT_ARB_BULK_W : Field := ⟨0x0240034, 0, 1, 0, 1, 8, 8, .ro, .warm, 1, 0, 255, []⟩
/-- `GRP.MG_VENDOR.VENDOR`. -/
def GRP_MG_VENDOR_VENDOR : Field := ⟨0x0240038, 0, 1, 0, 1, 0, 32, .rwl, .warm, 0, 0, 4294967295, []⟩
/-- `GRP.PORT_STATUS.STATE`. -/
def GRP_PORT_STATUS_STATE : Field := ⟨0x0240040, 16, 4, 0, 1, 0, 3, .ro, .warm, 0, 0, 7, []⟩
/-- `GRP.PORT_STATUS.PEER_ID`. -/
def GRP_PORT_STATUS_PEER_ID : Field := ⟨0x0240040, 16, 4, 0, 1, 8, 8, .ro, .warm, 255, 0, 255, []⟩
/-- `GRP.PORT_STATUS.PEER_PORT`. -/
def GRP_PORT_STATUS_PEER_PORT : Field := ⟨0x0240040, 16, 4, 0, 1, 16, 2, .ro, .warm, 0, 0, 3, []⟩
/-- `GRP.PORT_RETRY.COUNT`. -/
def GRP_PORT_RETRY_COUNT : Field := ⟨0x0240044, 16, 4, 0, 1, 0, 32, .rc, .warm, 0, 0, 4294967295, []⟩
/-- `GRP.PORT_DOWN.COUNT`. -/
def GRP_PORT_DOWN_COUNT : Field := ⟨0x0240048, 16, 4, 0, 1, 0, 32, .rc, .warm, 0, 0, 4294967295, []⟩
/-- `GRP.ROUTE.PORT`. -/
def GRP_ROUTE_PORT : Field := ⟨0x0240100, 4, 64, 0, 1, 0, 3, .ro, .warm, 7, 0, 7, []⟩
/-- `GRP.ROUTE.HOPS`. -/
def GRP_ROUTE_HOPS : Field := ⟨0x0240100, 4, 64, 0, 1, 3, 5, .ro, .warm, 0, 0, 31, []⟩
/-- `GRP.E2E_RESEND.COUNT`. -/
def GRP_E2E_RESEND_COUNT : Field := ⟨0x0240200, 0, 1, 0, 1, 0, 32, .rc, .warm, 0, 0, 4294967295, []⟩
/-- `GRP.REJECTS.COUNT`. -/
def GRP_REJECTS_COUNT : Field := ⟨0x0240204, 0, 1, 0, 1, 0, 32, .rc, .warm, 0, 0, 4294967295, []⟩
/-- `GRP.HOPS_DROP.COUNT`. -/
def GRP_HOPS_DROP_COUNT : Field := ⟨0x0240208, 0, 1, 0, 1, 0, 32, .rc, .warm, 0, 0, 4294967295, []⟩
/-- `GRP.ERR_STATUS.WIRING`. -/
def GRP_ERR_STATUS_WIRING : Field := ⟨0x0240210, 0, 1, 0, 1, 0, 1, .w1c, .warm, 0, 0, 1, []⟩
/-- `GRP.ERR_STATUS.PORT_DOWN`. -/
def GRP_ERR_STATUS_PORT_DOWN : Field := ⟨0x0240210, 0, 1, 0, 1, 1, 1, .w1c, .warm, 0, 0, 1, []⟩
/-- `GRP.ERR_STATUS.DEGRADED`. -/
def GRP_ERR_STATUS_DEGRADED : Field := ⟨0x0240210, 0, 1, 0, 1, 2, 1, .w1c, .warm, 0, 0, 1, []⟩
/-- `GRP.ERR_STATUS.STALE`. -/
def GRP_ERR_STATUS_STALE : Field := ⟨0x0240210, 0, 1, 0, 1, 3, 1, .w1c, .warm, 0, 0, 1, []⟩
/-- `GRP.ERR_STATUS.HOPS`. -/
def GRP_ERR_STATUS_HOPS : Field := ⟨0x0240210, 0, 1, 0, 1, 4, 1, .w1c, .warm, 0, 0, 1, []⟩
/-- `GRP.ERR_STATUS.NO_DEPUTY`. -/
def GRP_ERR_STATUS_NO_DEPUTY : Field := ⟨0x0240210, 0, 1, 0, 1, 5, 1, .w1c, .warm, 0, 0, 1, []⟩
/-- `GRP.ERR_STATUS.ISOLATED`. -/
def GRP_ERR_STATUS_ISOLATED : Field := ⟨0x0240210, 0, 1, 0, 1, 6, 1, .w1c, .warm, 0, 0, 1, []⟩

/-- Fields of block GRP, part 0. -/
def listGRP0 : List Field :=
  [GRP_STATUS_ROLE, GRP_STATUS_ID, GRP_STATUS_HAS_ID, GRP_STATUS_STATE,
   GRP_STATUS_ISOLATED, GRP_EPOCH_LO_EPOCH, GRP_EPOCH_HI_EPOCH, GRP_UNIQUE_ID_LO_UID,
   GRP_UNIQUE_ID_HI_UID, GRP_ACTIVE_LO_MEMBERS, GRP_ACTIVE_HI_MEMBERS, GRP_REACH_LO_MEMBERS,
   GRP_REACH_HI_MEMBERS, GRP_FAILOVER_BEAT_MS, GRP_FAILOVER_LEAD_MS, GRP_PORT_ARB_DATA_W,
   GRP_PORT_ARB_BULK_W, GRP_MG_VENDOR_VENDOR, GRP_PORT_STATUS_STATE, GRP_PORT_STATUS_PEER_ID,
   GRP_PORT_STATUS_PEER_PORT, GRP_PORT_RETRY_COUNT, GRP_PORT_DOWN_COUNT, GRP_ROUTE_PORT,
   GRP_ROUTE_HOPS, GRP_E2E_RESEND_COUNT, GRP_REJECTS_COUNT, GRP_HOPS_DROP_COUNT,
   GRP_ERR_STATUS_WIRING, GRP_ERR_STATUS_PORT_DOWN, GRP_ERR_STATUS_DEGRADED, GRP_ERR_STATUS_STALE,
   GRP_ERR_STATUS_HOPS, GRP_ERR_STATUS_NO_DEPUTY, GRP_ERR_STATUS_ISOLATED]

/-! Fields of block RED: Tables 14-9, 14-10. -/

/-- `RED.STATUS.REBUILD`. -/
def RED_STATUS_REBUILD : Field := ⟨0x0280000, 0, 1, 0, 1, 0, 1, .ro, .warm, 0, 0, 1, []⟩
/-- `RED.STATUS.RESHAPE`. -/
def RED_STATUS_RESHAPE : Field := ⟨0x0280000, 0, 1, 0, 1, 1, 1, .ro, .warm, 0, 0, 1, []⟩
/-- `RED.STATUS.TAKEOVER`. -/
def RED_STATUS_TAKEOVER : Field := ⟨0x0280000, 0, 1, 0, 1, 2, 1, .ro, .warm, 0, 0, 1, []⟩
/-- `RED.STATUS.JRNL_FULL`. -/
def RED_STATUS_JRNL_FULL : Field := ⟨0x0280000, 0, 1, 0, 1, 3, 1, .ro, .warm, 0, 0, 1, []⟩
/-- `RED.STATUS.SPARE_OUT`. -/
def RED_STATUS_SPARE_OUT : Field := ⟨0x0280000, 0, 1, 0, 1, 4, 1, .ro, .warm, 0, 0, 1, []⟩
/-- `RED.STATUS.MIRROR_COPY`. -/
def RED_STATUS_MIRROR_COPY : Field := ⟨0x0280000, 0, 1, 0, 1, 5, 1, .ro, .warm, 0, 0, 1, []⟩
/-- `RED.LAYOUT.CURRENT`. -/
def RED_LAYOUT_CURRENT : Field := ⟨0x0280004, 0, 1, 0, 1, 0, 8, .ro, .warm, 0, 0, 255, []⟩
/-- `RED.LAYOUT.PENDING`. -/
def RED_LAYOUT_PENDING : Field := ⟨0x0280004, 0, 1, 0, 1, 8, 8, .ro, .warm, 0, 0, 255, []⟩
/-- `RED.LAYOUT.K`. -/
def RED_LAYOUT_K : Field := ⟨0x0280004, 0, 1, 0, 1, 16, 5, .ro, .warm, 0, 0, 31, []⟩
/-- `RED.LAYOUT.K_PENDING`. -/
def RED_LAYOUT_K_PENDING : Field := ⟨0x0280004, 0, 1, 0, 1, 21, 5, .ro, .warm, 0, 0, 31, []⟩
/-- `RED.GATHER.CLOSE_MS`. -/
def RED_GATHER_CLOSE_MS : Field := ⟨0x0280008, 0, 1, 0, 1, 0, 16, .rwl, .warm, 0, 10, 60000, []⟩
/-- `RED.SPARE.SPARE_PCT`. -/
def RED_SPARE_SPARE_PCT : Field := ⟨0x028000c, 0, 1, 0, 1, 0, 5, .rwl, .warm, 4, 0, 20, []⟩
/-- `RED.RATE.FLOOR_PCT`. -/
def RED_RATE_FLOOR_PCT : Field := ⟨0x0280010, 0, 1, 0, 1, 0, 7, .rwl, .warm, 20, 1, 100, []⟩
/-- `RED.RATE.CRIT_PCT`. -/
def RED_RATE_CRIT_PCT : Field := ⟨0x0280010, 0, 1, 0, 1, 8, 7, .rwl, .warm, 50, 0, 100, []⟩
/-- `RED.RATE.CEIL_PCT`. -/
def RED_RATE_CEIL_PCT : Field := ⟨0x0280010, 0, 1, 0, 1, 16, 7, .rwl, .warm, 80, 0, 100, []⟩
/-- `RED.SLOW.LAT_MS`. -/
def RED_SLOW_LAT_MS : Field := ⟨0x0280014, 0, 1, 0, 1, 0, 12, .rwl, .warm, 100, 10, 4000, []⟩
/-- `RED.SLOW.FENCE_MS`. -/
def RED_SLOW_FENCE_MS : Field := ⟨0x0280014, 0, 1, 0, 1, 12, 12, .rwl, .warm, 250, 50, 4000, []⟩
/-- `RED.SLOW.FAIL_S`. -/
def RED_SLOW_FAIL_S : Field := ⟨0x0280014, 0, 1, 0, 1, 24, 8, .rwl, .warm, 0, 5, 255, []⟩
/-- `RED.SHARE.CURRENT`. -/
def RED_SHARE_CURRENT : Field := ⟨0x0280018, 0, 1, 0, 1, 0, 7, .ro, .warm, 0, 0, 127, []⟩
/-- `RED.SHARE.TARGET`. -/
def RED_SHARE_TARGET : Field := ⟨0x0280018, 0, 1, 0, 1, 8, 7, .ro, .warm, 0, 0, 127, []⟩
/-- `RED.JRNL.USED`. -/
def RED_JRNL_USED : Field := ⟨0x028001c, 0, 1, 0, 1, 0, 16, .ro, .warm, 0, 0, 65535, []⟩
/-- `RED.REBUILD_LEFT_LO.COUNT`. -/
def RED_REBUILD_LEFT_LO_COUNT : Field := ⟨0x0280020, 0, 1, 0, 1, 0, 32, .ro, .warm, 0, 0, 4294967295, []⟩
/-- `RED.PQ_BYTES_LO.COUNT`. -/
def RED_PQ_BYTES_LO_COUNT : Field := ⟨0x0280030, 0, 1, 0, 1, 0, 32, .ro, .warm, 0, 0, 4294967295, []⟩
/-- `RED.REBUILD_LEFT_HI.COUNT`. -/
def RED_REBUILD_LEFT_HI_COUNT : Field := ⟨0x0280024, 0, 1, 0, 1, 0, 32, .ro, .warm, 0, 0, 4294967295, []⟩
/-- `RED.PQ_BYTES_HI.COUNT`. -/
def RED_PQ_BYTES_HI_COUNT : Field := ⟨0x0280034, 0, 1, 0, 1, 0, 32, .ro, .warm, 0, 0, 4294967295, []⟩
/-- `RED.CRITICAL.COUNT`. -/
def RED_CRITICAL_COUNT : Field := ⟨0x0280028, 0, 1, 0, 1, 0, 32, .ro, .warm, 0, 0, 4294967295, []⟩
/-- `RED.STRIPES_LOST.COUNT`. -/
def RED_STRIPES_LOST_COUNT : Field := ⟨0x028002c, 0, 1, 0, 1, 0, 32, .rc, .warm, 0, 0, 4294967295, []⟩
/-- `RED.ERR_STATUS.DATA_LOSS`. -/
def RED_ERR_STATUS_DATA_LOSS : Field := ⟨0x0280040, 0, 1, 0, 1, 0, 1, .w1c, .warm, 0, 0, 1, []⟩
/-- `RED.ERR_STATUS.SPARE_OUT`. -/
def RED_ERR_STATUS_SPARE_OUT : Field := ⟨0x0280040, 0, 1, 0, 1, 1, 1, .w1c, .warm, 0, 0, 1, []⟩
/-- `RED.ERR_STATUS.JRNL_FULL`. -/
def RED_ERR_STATUS_JRNL_FULL : Field := ⟨0x0280040, 0, 1, 0, 1, 2, 1, .w1c, .warm, 0, 0, 1, []⟩
/-- `RED.ERR_STATUS.TAKEOVER`. -/
def RED_ERR_STATUS_TAKEOVER : Field := ⟨0x0280040, 0, 1, 0, 1, 3, 1, .w1c, .warm, 0, 0, 1, []⟩
/-- `RED.ERR_STATUS.SLOW`. -/
def RED_ERR_STATUS_SLOW : Field := ⟨0x0280040, 0, 1, 0, 1, 4, 1, .w1c, .warm, 0, 0, 1, []⟩

/-- Fields of block RED, part 0. -/
def listRED0 : List Field :=
  [RED_STATUS_REBUILD, RED_STATUS_RESHAPE, RED_STATUS_TAKEOVER, RED_STATUS_JRNL_FULL,
   RED_STATUS_SPARE_OUT, RED_STATUS_MIRROR_COPY, RED_LAYOUT_CURRENT, RED_LAYOUT_PENDING,
   RED_LAYOUT_K, RED_LAYOUT_K_PENDING, RED_GATHER_CLOSE_MS, RED_SPARE_SPARE_PCT,
   RED_RATE_FLOOR_PCT, RED_RATE_CRIT_PCT, RED_RATE_CEIL_PCT, RED_SLOW_LAT_MS,
   RED_SLOW_FENCE_MS, RED_SLOW_FAIL_S, RED_SHARE_CURRENT, RED_SHARE_TARGET,
   RED_JRNL_USED, RED_REBUILD_LEFT_LO_COUNT, RED_PQ_BYTES_LO_COUNT, RED_REBUILD_LEFT_HI_COUNT,
   RED_PQ_BYTES_HI_COUNT, RED_CRITICAL_COUNT, RED_STRIPES_LOST_COUNT, RED_ERR_STATUS_DATA_LOSS,
   RED_ERR_STATUS_SPARE_OUT, RED_ERR_STATUS_JRNL_FULL, RED_ERR_STATUS_TAKEOVER, RED_ERR_STATUS_SLOW]

/-! Fields of block CLK: Tables 15-10, 15-11. -/

/-- `CLK.STATUS.ROOT_LOCK`. -/
def CLK_STATUS_ROOT_LOCK : Field := ⟨0x0010000, 0, 1, 0, 1, 0, 1, .ro, .aon, 0, 0, 1, []⟩
/-- `CLK.STATUS.HALVED`. -/
def CLK_STATUS_HALVED : Field := ⟨0x0010000, 0, 1, 0, 1, 1, 1, .ro, .aon, 0, 0, 1, []⟩
/-- `CLK.STATUS.PCIE_LOCK`. -/
def CLK_STATUS_PCIE_LOCK : Field := ⟨0x0010000, 0, 1, 0, 1, 2, 1, .ro, .aon, 0, 0, 1, []⟩
/-- `CLK.STATUS.EPL_LOCK`. -/
def CLK_STATUS_EPL_LOCK : Field := ⟨0x0010000, 0, 1, 0, 1, 3, 1, .ro, .aon, 0, 0, 1, []⟩
/-- `CLK.STATUS.HALVE_SEEN`. -/
def CLK_STATUS_HALVE_SEEN : Field := ⟨0x0010000, 0, 1, 0, 1, 4, 1, .w1c, .warm, 0, 0, 1, []⟩
/-- `CLK.HALVE_COUNT.COUNT`. -/
def CLK_HALVE_COUNT_COUNT : Field := ⟨0x0010004, 0, 1, 0, 1, 0, 32, .rc, .warm, 0, 0, 4294967295, []⟩
/-- `CLK.HALVE_US.COUNT`. -/
def CLK_HALVE_US_COUNT : Field := ⟨0x0010008, 0, 1, 0, 1, 0, 32, .rc, .warm, 0, 0, 4294967295, []⟩

/-- Fields of block CLK, part 0. -/
def listCLK0 : List Field :=
  [CLK_STATUS_ROOT_LOCK, CLK_STATUS_HALVED, CLK_STATUS_PCIE_LOCK, CLK_STATUS_EPL_LOCK,
   CLK_STATUS_HALVE_SEEN, CLK_HALVE_COUNT_COUNT, CLK_HALVE_US_COUNT]

/-! Fields of block PWR: Tables 15-10, 15-11. -/

/-- `PWR.STATUS.SAG_WARN`. -/
def PWR_STATUS_SAG_WARN : Field := ⟨0x0020000, 0, 1, 0, 1, 0, 1, .ro, .aon, 0, 0, 1, []⟩
/-- `PWR.STATUS.BRACE`. -/
def PWR_STATUS_BRACE : Field := ⟨0x0020000, 0, 1, 0, 1, 1, 1, .ro, .warm, 0, 0, 1, []⟩
/-- `PWR.STATUS.BRACE_DONE`. -/
def PWR_STATUS_BRACE_DONE : Field := ⟨0x0020000, 0, 1, 0, 1, 2, 1, .ro, .warm, 0, 0, 1, []⟩
/-- `PWR.STATUS.SHED`. -/
def PWR_STATUS_SHED : Field := ⟨0x0020000, 0, 1, 0, 1, 3, 3, .ro, .warm, 0, 0, 7, []⟩
/-- `PWR.SAG_CFG.WARN_MV`. -/
def PWR_SAG_CFG_WARN_MV : Field := ⟨0x0020004, 0, 1, 0, 1, 0, 10, .rwl, .aon, 850, 100, 1000, []⟩
/-- `PWR.SAG_CFG.RESET_MV`. -/
def PWR_SAG_CFG_RESET_MV : Field := ⟨0x0020004, 0, 1, 0, 1, 10, 10, .rwl, .aon, 750, 50, 950, []⟩
/-- `PWR.SAG_CFG.HYST_MV`. -/
def PWR_SAG_CFG_HYST_MV : Field := ⟨0x0020004, 0, 1, 0, 1, 20, 6, .rwl, .aon, 20, 5, 63, []⟩
/-- `PWR.BRACE_CFG.RECOVER_MS`. -/
def PWR_BRACE_CFG_RECOVER_MS : Field := ⟨0x0020008, 0, 1, 0, 1, 0, 12, .rwl, .aon, 100, 10, 4000, []⟩
/-- `PWR.BRACE_CFG.RETRACT_MS`. -/
def PWR_BRACE_CFG_RETRACT_MS : Field := ⟨0x0020008, 0, 1, 0, 1, 12, 8, .rwl, .aon, 20, 1, 30, []⟩
/-- `PWR.BRACE_CFG.DECEL`. -/
def PWR_BRACE_CFG_DECEL : Field := ⟨0x0020008, 0, 1, 0, 1, 20, 9, .rwl, .aon, 250, 100, 400, []⟩
/-- `PWR.DROOP_CFG.TRIP_MV`. -/
def PWR_DROOP_CFG_TRIP_MV : Field := ⟨0x002000c, 0, 1, 0, 1, 0, 8, .rwl, .aon, 60, 10, 150, []⟩
/-- `PWR.DROOP_CFG.HOLD`. -/
def PWR_DROOP_CFG_HOLD : Field := ⟨0x002000c, 0, 1, 0, 1, 8, 14, .rwl, .aon, 100, 10, 10000, []⟩
/-- `PWR.DROOP_CFG.DERATE_PCT`. -/
def PWR_DROOP_CFG_DERATE_PCT : Field := ⟨0x002000c, 0, 1, 0, 1, 22, 7, .rwl, .aon, 10, 0, 50, []⟩
/-- `PWR.BUDGET.BUDGET_MW`. -/
def PWR_BUDGET_BUDGET_MW : Field := ⟨0x0020010, 0, 1, 0, 1, 0, 17, .rwl, .warm, 40000, 0, 131071, []⟩
/-- `PWR.RESERVE.RESERVE_MW`. -/
def PWR_RESERVE_RESERVE_MW : Field := ⟨0x0020014, 0, 1, 0, 1, 0, 16, .rwl, .warm, 1000, 0, 65535, []⟩
/-- `PWR.RESERVE.DERATE_MS`. -/
def PWR_RESERVE_DERATE_MS : Field := ⟨0x0020014, 0, 1, 0, 1, 16, 16, .rwl, .warm, 1000, 0, 65535, []⟩
/-- `PWR.BETONY_CFG.AGE_MS`. -/
def PWR_BETONY_CFG_AGE_MS : Field := ⟨0x0020018, 0, 1, 0, 1, 0, 10, .rwl, .warm, 500, 10, 1000, []⟩
/-- `PWR.BETONY_CFG.OVER_MS`. -/
def PWR_BETONY_CFG_OVER_MS : Field := ⟨0x0020018, 0, 1, 0, 1, 10, 10, .rwl, .warm, 50, 5, 1000, []⟩
/-- `PWR.BETONY_CFG.STEP_PCT`. -/
def PWR_BETONY_CFG_STEP_PCT : Field := ⟨0x0020018, 0, 1, 0, 1, 20, 7, .rwl, .warm, 10, 1, 50, []⟩
/-- `PWR.THROTTLE_CFG.GRACE_MS`. -/
def PWR_THROTTLE_CFG_GRACE_MS : Field := ⟨0x002001c, 0, 1, 0, 1, 0, 16, .rwl, .warm, 2000, 100, 60000, []⟩
/-- `PWR.THROTTLE_CFG.MIN_UNITS`. -/
def PWR_THROTTLE_CFG_MIN_UNITS : Field := ⟨0x002001c, 0, 1, 0, 1, 16, 12, .rwl, .warm, 8, 1, 4095, []⟩
/-- `PWR.BETONY_STATUS.HEAT`. -/
def PWR_BETONY_STATUS_HEAT : Field := ⟨0x0020020, 0, 1, 0, 1, 0, 9, .ro, .warm, 256, 0, 511, []⟩
/-- `PWR.BETONY_STATUS.WRITES`. -/
def PWR_BETONY_STATUS_WRITES : Field := ⟨0x0020020, 0, 1, 0, 1, 9, 3, .ro, .warm, 4, 0, 7, []⟩
/-- `PWR.BETONY_STATUS.CAP_POWER`. -/
def PWR_BETONY_STATUS_CAP_POWER : Field := ⟨0x0020020, 0, 1, 0, 1, 12, 4, .ro, .warm, 15, 0, 15, []⟩
/-- `PWR.BETONY_STATUS.CAP_CELLS`. -/
def PWR_BETONY_STATUS_CAP_CELLS : Field := ⟨0x0020020, 0, 1, 0, 1, 16, 4, .ro, .warm, 15, 0, 15, []⟩
/-- `PWR.BETONY_STATUS.DERATED`. -/
def PWR_BETONY_STATUS_DERATED : Field := ⟨0x0020020, 0, 1, 0, 1, 20, 1, .ro, .warm, 0, 0, 1, []⟩
/-- `PWR.MEASURED.MW`. -/
def PWR_MEASURED_MW : Field := ⟨0x0020024, 0, 1, 0, 1, 0, 17, .ro, .warm, 0, 0, 131071, []⟩
/-- `PWR.COMMITTED.MW`. -/
def PWR_COMMITTED_MW : Field := ⟨0x0020028, 0, 1, 0, 1, 0, 17, .ro, .warm, 0, 0, 131071, []⟩
/-- `PWR.CORRECTION.C`. -/
def PWR_CORRECTION_C : Field := ⟨0x002002c, 0, 1, 0, 1, 0, 11, .ro, .warm, 1024, 0, 2047, []⟩
/-- `PWR.GRANTS.COUNT`. -/
def PWR_GRANTS_COUNT : Field := ⟨0x0020030, 0, 1, 0, 1, 0, 32, .rc, .warm, 0, 0, 4294967295, []⟩
/-- `PWR.WITHHELD.COUNT`. -/
def PWR_WITHHELD_COUNT : Field := ⟨0x0020034, 0, 1, 0, 1, 0, 32, .rc, .warm, 0, 0, 4294967295, []⟩
/-- `PWR.ISENSE_CFG.GAIN`. -/
def PWR_ISENSE_CFG_GAIN : Field := ⟨0x0020040, 8, 4, 0, 1, 0, 16, .rwl, .warm, 0, 0, 65535, []⟩
/-- `PWR.ISENSE_CFG.RAIL_MV`. -/
def PWR_ISENSE_CFG_RAIL_MV : Field := ⟨0x0020040, 8, 4, 0, 1, 16, 16, .rwl, .warm, 0, 0, 65535, []⟩
/-- `PWR.ISENSE.MA`. -/
def PWR_ISENSE_MA : Field := ⟨0x0020044, 8, 4, 0, 1, 0, 20, .ro, .warm, 0, 0, 1048575, []⟩
/-- `PWR.MARKER.STATE`. -/
def PWR_MARKER_STATE : Field := ⟨0x0020080, 0, 1, 0, 1, 0, 2, .ro, .por, 0, 0, 3, []⟩
/-- `PWR.MARKER.SENSOR`. -/
def PWR_MARKER_SENSOR : Field := ⟨0x0020080, 0, 1, 0, 1, 4, 4, .ro, .por, 0, 0, 15, []⟩
/-- `PWR.ERR_STATUS.BRACE`. -/
def PWR_ERR_STATUS_BRACE : Field := ⟨0x0020090, 0, 1, 0, 1, 0, 1, .w1c, .warm, 0, 0, 1, []⟩
/-- `PWR.ERR_STATUS.UNCLEAN`. -/
def PWR_ERR_STATUS_UNCLEAN : Field := ⟨0x0020090, 0, 1, 0, 1, 1, 1, .w1c, .warm, 0, 0, 1, []⟩
/-- `PWR.ERR_STATUS.SHED`. -/
def PWR_ERR_STATUS_SHED : Field := ⟨0x0020090, 0, 1, 0, 1, 2, 1, .w1c, .warm, 0, 0, 1, []⟩
/-- `PWR.COST.VALUE`. -/
def PWR_COST_VALUE : Field := ⟨0x0020100, 4, 32, 0, 1, 0, 16, .rwl, .warm, 0, 0, 65535, []⟩

/-- Fields of block PWR, part 0. -/
def listPWR0 : List Field :=
  [PWR_STATUS_SAG_WARN, PWR_STATUS_BRACE, PWR_STATUS_BRACE_DONE, PWR_STATUS_SHED,
   PWR_SAG_CFG_WARN_MV, PWR_SAG_CFG_RESET_MV, PWR_SAG_CFG_HYST_MV, PWR_BRACE_CFG_RECOVER_MS,
   PWR_BRACE_CFG_RETRACT_MS, PWR_BRACE_CFG_DECEL, PWR_DROOP_CFG_TRIP_MV, PWR_DROOP_CFG_HOLD,
   PWR_DROOP_CFG_DERATE_PCT, PWR_BUDGET_BUDGET_MW, PWR_RESERVE_RESERVE_MW, PWR_RESERVE_DERATE_MS,
   PWR_BETONY_CFG_AGE_MS, PWR_BETONY_CFG_OVER_MS, PWR_BETONY_CFG_STEP_PCT, PWR_THROTTLE_CFG_GRACE_MS,
   PWR_THROTTLE_CFG_MIN_UNITS, PWR_BETONY_STATUS_HEAT, PWR_BETONY_STATUS_WRITES, PWR_BETONY_STATUS_CAP_POWER,
   PWR_BETONY_STATUS_CAP_CELLS, PWR_BETONY_STATUS_DERATED, PWR_MEASURED_MW, PWR_COMMITTED_MW,
   PWR_CORRECTION_C, PWR_GRANTS_COUNT, PWR_WITHHELD_COUNT, PWR_ISENSE_CFG_GAIN,
   PWR_ISENSE_CFG_RAIL_MV, PWR_ISENSE_MA, PWR_MARKER_STATE, PWR_MARKER_SENSOR,
   PWR_ERR_STATUS_BRACE, PWR_ERR_STATUS_UNCLEAN, PWR_ERR_STATUS_SHED, PWR_COST_VALUE]

/-! Fields of block THM: Tables 15-10, 15-12. -/

/-- `THM.TEMP.READING`. -/
def THM_TEMP_READING : Field := ⟨0x0030000, 4, 12, 0, 1, 0, 16, .ro, .aon, 0, 0, 65535, []⟩
/-- `THM.TEMP.VALID`. -/
def THM_TEMP_VALID : Field := ⟨0x0030000, 4, 12, 0, 1, 16, 1, .ro, .aon, 0, 0, 1, []⟩
/-- `THM.TEMP.LEVEL`. -/
def THM_TEMP_LEVEL : Field := ⟨0x0030000, 4, 12, 0, 1, 17, 2, .ro, .aon, 0, 0, 3, []⟩
/-- `THM.TEMP.RISE`. -/
def THM_TEMP_RISE : Field := ⟨0x0030000, 4, 12, 0, 1, 19, 1, .ro, .aon, 0, 0, 1, []⟩
/-- `THM.TEMP.FAULT`. -/
def THM_TEMP_FAULT : Field := ⟨0x0030000, 4, 12, 0, 1, 20, 1, .ro, .aon, 0, 0, 1, []⟩
/-- `THM.CH_CFG.MODE`. -/
def THM_CH_CFG_MODE : Field := ⟨0x0030100, 32, 12, 0, 1, 0, 2, .rwl, .aon, 0, 0, 3, [(0, 9999, 3), (1, 9999, 3), (10, 9999, 3), (11, 9999, 3)]⟩
/-- `THM.CH_CFG.ROLE`. -/
def THM_CH_CFG_ROLE : Field := ⟨0x0030100, 32, 12, 0, 1, 2, 3, .rwl, .aon, 5, 0, 7, [(0, 9999, 0), (1, 9999, 1), (10, 9999, 6), (11, 9999, 6)]⟩
/-- `THM.CH_CFG.OFFSET`. -/
def THM_CH_CFG_OFFSET : Field := ⟨0x0030100, 32, 12, 0, 1, 16, 16, .rwl, .aon, 0, 0, 65535, []⟩
/-- `THM.CH_LIM.WARN`. -/
def THM_CH_LIM_WARN : Field := ⟨0x0030104, 32, 12, 0, 1, 0, 16, .rwl, .aon, 32767, 0, 65535, [(0, 9999, 1520), (1, 9999, 1360)]⟩
/-- `THM.CH_LIM.THROTTLE`. -/
def THM_CH_LIM_THROTTLE : Field := ⟨0x0030104, 32, 12, 0, 1, 16, 16, .rwl, .aon, 32767, 0, 65535, [(0, 9999, 1600), (1, 9999, 1440)]⟩
/-- `THM.CH_SHUT.SHUTDOWN`. -/
def THM_CH_SHUT_SHUTDOWN : Field := ⟨0x0030108, 32, 12, 0, 1, 0, 16, .rwl, .aon, 32767, 0, 65535, [(0, 9999, 1760), (1, 9999, 1600)]⟩
/-- `THM.CH_RISE.RISE`. -/
def THM_CH_RISE_RISE : Field := ⟨0x003010c, 32, 12, 0, 1, 0, 12, .rwl, .aon, 0, 0, 4095, [(0, 9999, 32), (1, 9999, 32)]⟩
/-- `THM.CH_RISE.WIN_MS`. -/
def THM_CH_RISE_WIN_MS : Field := ⟨0x003010c, 32, 12, 0, 1, 12, 14, .rwl, .aon, 1000, 100, 10000, []⟩
/-- `THM.CH_CAL0.CAL0`. -/
def THM_CH_CAL0_CAL0 : Field := ⟨0x0030110, 32, 12, 0, 1, 0, 32, .rwl, .aon, 0, 0, 4294967295, []⟩
/-- `THM.CH_CAL1.CAL1`. -/
def THM_CH_CAL1_CAL1 : Field := ⟨0x0030114, 32, 12, 0, 1, 0, 32, .rwl, .aon, 0, 0, 4294967295, []⟩
/-- `THM.DWELL.DWELL_MS`. -/
def THM_DWELL_DWELL_MS : Field := ⟨0x0030300, 0, 1, 0, 1, 0, 12, .rwl, .aon, 250, 10, 4000, []⟩
/-- `THM.DWELL.HYST`. -/
def THM_DWELL_HYST : Field := ⟨0x0030300, 0, 1, 0, 1, 12, 8, .rwl, .aon, 32, 0, 255, []⟩
/-- `THM.STATUS.CAUSES`. -/
def THM_STATUS_CAUSES : Field := ⟨0x0030304, 0, 1, 0, 1, 0, 4, .ro, .warm, 0, 0, 15, []⟩
/-- `THM.STATUS.HOTTEST`. -/
def THM_STATUS_HOTTEST : Field := ⟨0x0030304, 0, 1, 0, 1, 4, 4, .ro, .warm, 0, 0, 15, []⟩
/-- `THM.ERR_STATUS.WARN`. -/
def THM_ERR_STATUS_WARN : Field := ⟨0x0030308, 0, 1, 0, 1, 0, 1, .w1c, .warm, 0, 0, 1, []⟩
/-- `THM.ERR_STATUS.THROTTLE`. -/
def THM_ERR_STATUS_THROTTLE : Field := ⟨0x0030308, 0, 1, 0, 1, 1, 1, .w1c, .warm, 0, 0, 1, []⟩
/-- `THM.ERR_STATUS.RISE`. -/
def THM_ERR_STATUS_RISE : Field := ⟨0x0030308, 0, 1, 0, 1, 2, 1, .w1c, .warm, 0, 0, 1, []⟩
/-- `THM.ERR_STATUS.SENSOR_FAULT`. -/
def THM_ERR_STATUS_SENSOR_FAULT : Field := ⟨0x0030308, 0, 1, 0, 1, 3, 1, .w1c, .warm, 0, 0, 1, []⟩
/-- `THM.ERR_STATUS.THERMAL_RESTART`. -/
def THM_ERR_STATUS_THERMAL_RESTART : Field := ⟨0x0030308, 0, 1, 0, 1, 4, 1, .w1c, .warm, 0, 0, 1, []⟩

/-- Fields of block THM, part 0. -/
def listTHM0 : List Field :=
  [THM_TEMP_READING, THM_TEMP_VALID, THM_TEMP_LEVEL, THM_TEMP_RISE,
   THM_TEMP_FAULT, THM_CH_CFG_MODE, THM_CH_CFG_ROLE, THM_CH_CFG_OFFSET,
   THM_CH_LIM_WARN, THM_CH_LIM_THROTTLE, THM_CH_SHUT_SHUTDOWN, THM_CH_RISE_RISE,
   THM_CH_RISE_WIN_MS, THM_CH_CAL0_CAL0, THM_CH_CAL1_CAL1, THM_DWELL_DWELL_MS,
   THM_DWELL_HYST, THM_STATUS_CAUSES, THM_STATUS_HOTTEST, THM_ERR_STATUS_WARN,
   THM_ERR_STATUS_THROTTLE, THM_ERR_STATUS_RISE, THM_ERR_STATUS_SENSOR_FAULT, THM_ERR_STATUS_THERMAL_RESTART]

/-! Fields of block MEM: Tables 16-8, 16-9. -/

/-- `MEM.STATUS.INIT_DONE`. -/
def MEM_STATUS_INIT_DONE : Field := ⟨0x02c0000, 0, 1, 0, 1, 0, 1, .ro, .warm, 0, 0, 1, []⟩
/-- `MEM.STATUS.SELFTEST_PASS`. -/
def MEM_STATUS_SELFTEST_PASS : Field := ⟨0x02c0000, 0, 1, 0, 1, 1, 1, .ro, .warm, 0, 0, 1, []⟩
/-- `MEM.STATUS.DIE_FAILED`. -/
def MEM_STATUS_DIE_FAILED : Field := ⟨0x02c0000, 0, 1, 0, 1, 2, 1, .ro, .por, 0, 0, 1, []⟩
/-- `MEM.STATUS.FAILED_SLICE`. -/
def MEM_STATUS_FAILED_SLICE : Field := ⟨0x02c0000, 0, 1, 0, 1, 3, 3, .ro, .por, 0, 0, 7, []⟩
/-- `MEM.STATUS.INIT_EPOCH`. -/
def MEM_STATUS_INIT_EPOCH : Field := ⟨0x02c0000, 0, 1, 0, 1, 6, 4, .ro, .por, 0, 0, 15, []⟩
/-- `MEM.SCRUB_HBM.PERIOD_MIN`. -/
def MEM_SCRUB_HBM_PERIOD_MIN : Field := ⟨0x02c0008, 0, 1, 0, 1, 0, 14, .rwl, .warm, 720, 1, 10080, []⟩
/-- `MEM.SCRUB_SRAM.PERIOD_MIN`. -/
def MEM_SCRUB_SRAM_PERIOD_MIN : Field := ⟨0x02c000c, 0, 1, 0, 1, 0, 11, .rwl, .warm, 60, 1, 1440, []⟩
/-- `MEM.SCRUB_MRAM.PERIOD_MIN`. -/
def MEM_SCRUB_MRAM_PERIOD_MIN : Field := ⟨0x02c0010, 0, 1, 0, 1, 0, 14, .rwl, .warm, 1440, 60, 10080, []⟩
/-- `MEM.SCRUB_POS.BLOCK`. -/
def MEM_SCRUB_POS_BLOCK : Field := ⟨0x02c0014, 0, 1, 0, 1, 0, 26, .ro, .warm, 0, 0, 67108863, []⟩
/-- `MEM.HBM_CORR.COUNT`. -/
def MEM_HBM_CORR_COUNT : Field := ⟨0x02c0020, 0, 1, 0, 1, 0, 32, .rc, .warm, 0, 0, 4294967295, []⟩
/-- `MEM.HBM_UNCORR.COUNT`. -/
def MEM_HBM_UNCORR_COUNT : Field := ⟨0x02c0024, 0, 1, 0, 1, 0, 32, .rc, .warm, 0, 0, 4294967295, []⟩
/-- `MEM.SRAM_CORR.COUNT`. -/
def MEM_SRAM_CORR_COUNT : Field := ⟨0x02c0028, 0, 1, 0, 1, 0, 32, .rc, .warm, 0, 0, 4294967295, []⟩
/-- `MEM.SRAM_UNCORR.COUNT`. -/
def MEM_SRAM_UNCORR_COUNT : Field := ⟨0x02c002c, 0, 1, 0, 1, 0, 32, .rc, .warm, 0, 0, 4294967295, []⟩
/-- `MEM.MRAM_CORR.COUNT`. -/
def MEM_MRAM_CORR_COUNT : Field := ⟨0x02c0030, 0, 1, 0, 1, 0, 32, .rc, .warm, 0, 0, 4294967295, []⟩
/-- `MEM.MRAM_UNCORR.COUNT`. -/
def MEM_MRAM_UNCORR_COUNT : Field := ⟨0x02c0034, 0, 1, 0, 1, 0, 32, .rc, .warm, 0, 0, 4294967295, []⟩
/-- `MEM.REMAP_USED.HBM`. -/
def MEM_REMAP_USED_HBM : Field := ⟨0x02c0040, 0, 1, 0, 1, 0, 5, .ro, .por, 0, 0, 31, []⟩
/-- `MEM.REMAP_USED.SRAM`. -/
def MEM_REMAP_USED_SRAM : Field := ⟨0x02c0040, 0, 1, 0, 1, 8, 5, .ro, .por, 0, 0, 31, []⟩
/-- `MEM.REMAP_USED.MRAM`. -/
def MEM_REMAP_USED_MRAM : Field := ⟨0x02c0040, 0, 1, 0, 1, 16, 5, .ro, .por, 0, 0, 31, []⟩
/-- `MEM.LAST_ERR_ADDR.ADDR`. -/
def MEM_LAST_ERR_ADDR_ADDR : Field := ⟨0x02c0044, 0, 1, 0, 1, 0, 32, .ro, .warm, 0, 0, 4294967295, []⟩
/-- `MEM.LAST_ERR_INFO.MEMORY`. -/
def MEM_LAST_ERR_INFO_MEMORY : Field := ⟨0x02c0048, 0, 1, 0, 1, 0, 2, .ro, .warm, 0, 0, 3, []⟩
/-- `MEM.LAST_ERR_INFO.KIND`. -/
def MEM_LAST_ERR_INFO_KIND : Field := ⟨0x02c0048, 0, 1, 0, 1, 2, 3, .ro, .warm, 0, 0, 7, []⟩
/-- `MEM.LAST_ERR_INFO.SCRUB`. -/
def MEM_LAST_ERR_INFO_SCRUB : Field := ⟨0x02c0048, 0, 1, 0, 1, 5, 1, .ro, .warm, 0, 0, 1, []⟩
/-- `MEM.LAST_ERR_INFO.SLICES`. -/
def MEM_LAST_ERR_INFO_SLICES : Field := ⟨0x02c0048, 0, 1, 0, 1, 8, 8, .ro, .warm, 0, 0, 255, []⟩
/-- `MEM.SELFTEST.RUN`. -/
def MEM_SELFTEST_RUN : Field := ⟨0x02c0050, 0, 1, 0, 1, 0, 1, .wo, .warm, 0, 0, 1, []⟩
/-- `MEM.SELFTEST.DONE`. -/
def MEM_SELFTEST_DONE : Field := ⟨0x02c0050, 0, 1, 0, 1, 1, 1, .ro, .warm, 0, 0, 1, []⟩
/-- `MEM.SELFTEST.PASS`. -/
def MEM_SELFTEST_PASS : Field := ⟨0x02c0050, 0, 1, 0, 1, 2, 1, .ro, .warm, 0, 0, 1, []⟩
/-- `MEM.SELFTEST.FAIL_CASE`. -/
def MEM_SELFTEST_FAIL_CASE : Field := ⟨0x02c0050, 0, 1, 0, 1, 3, 5, .ro, .warm, 0, 0, 31, []⟩
/-- `MEM.ERR_STATUS.HBM_UNCORR`. -/
def MEM_ERR_STATUS_HBM_UNCORR : Field := ⟨0x02c0060, 0, 1, 0, 1, 0, 1, .w1c, .warm, 0, 0, 1, []⟩
/-- `MEM.ERR_STATUS.SRAM_UNCORR`. -/
def MEM_ERR_STATUS_SRAM_UNCORR : Field := ⟨0x02c0060, 0, 1, 0, 1, 1, 1, .w1c, .warm, 0, 0, 1, []⟩
/-- `MEM.ERR_STATUS.MRAM_UNCORR`. -/
def MEM_ERR_STATUS_MRAM_UNCORR : Field := ⟨0x02c0060, 0, 1, 0, 1, 2, 1, .w1c, .warm, 0, 0, 1, []⟩
/-- `MEM.ERR_STATUS.REMAP_FULL`. -/
def MEM_ERR_STATUS_REMAP_FULL : Field := ⟨0x02c0060, 0, 1, 0, 1, 3, 1, .w1c, .warm, 0, 0, 1, []⟩
/-- `MEM.ERR_STATUS.DIE_FAILED`. -/
def MEM_ERR_STATUS_DIE_FAILED : Field := ⟨0x02c0060, 0, 1, 0, 1, 4, 1, .w1c, .warm, 0, 0, 1, []⟩
/-- `MEM.ERR_STATUS.UNINIT`. -/
def MEM_ERR_STATUS_UNINIT : Field := ⟨0x02c0060, 0, 1, 0, 1, 5, 1, .w1c, .warm, 0, 0, 1, []⟩
/-- `MEM.ERR_STATUS.SELFTEST_FAIL`. -/
def MEM_ERR_STATUS_SELFTEST_FAIL : Field := ⟨0x02c0060, 0, 1, 0, 1, 6, 1, .w1c, .warm, 0, 0, 1, []⟩
/-- `MEM.HBM_REMAP.ROW`. -/
def MEM_HBM_REMAP_ROW : Field := ⟨0x02c0100, 4, 16, 0, 1, 0, 21, .ro, .por, 0, 0, 2097151, []⟩
/-- `MEM.SRAM_REMAP.ROW`. -/
def MEM_SRAM_REMAP_ROW : Field := ⟨0x02c0140, 4, 16, 0, 1, 0, 16, .ro, .por, 0, 0, 65535, []⟩
/-- `MEM.MRAM_REMAP.WORD`. -/
def MEM_MRAM_REMAP_WORD : Field := ⟨0x02c0180, 4, 16, 0, 1, 0, 21, .ro, .por, 0, 0, 2097151, []⟩
/-- `MEM.HBM_REMAP.VALID`. -/
def MEM_HBM_REMAP_VALID : Field := ⟨0x02c0100, 4, 16, 0, 1, 31, 1, .ro, .por, 0, 0, 1, []⟩
/-- `MEM.SRAM_REMAP.VALID`. -/
def MEM_SRAM_REMAP_VALID : Field := ⟨0x02c0140, 4, 16, 0, 1, 31, 1, .ro, .por, 0, 0, 1, []⟩
/-- `MEM.MRAM_REMAP.VALID`. -/
def MEM_MRAM_REMAP_VALID : Field := ⟨0x02c0180, 4, 16, 0, 1, 31, 1, .ro, .por, 0, 0, 1, []⟩

/-- Fields of block MEM, part 0. -/
def listMEM0 : List Field :=
  [MEM_STATUS_INIT_DONE, MEM_STATUS_SELFTEST_PASS, MEM_STATUS_DIE_FAILED, MEM_STATUS_FAILED_SLICE,
   MEM_STATUS_INIT_EPOCH, MEM_SCRUB_HBM_PERIOD_MIN, MEM_SCRUB_SRAM_PERIOD_MIN, MEM_SCRUB_MRAM_PERIOD_MIN,
   MEM_SCRUB_POS_BLOCK, MEM_HBM_CORR_COUNT, MEM_HBM_UNCORR_COUNT, MEM_SRAM_CORR_COUNT,
   MEM_SRAM_UNCORR_COUNT, MEM_MRAM_CORR_COUNT, MEM_MRAM_UNCORR_COUNT, MEM_REMAP_USED_HBM,
   MEM_REMAP_USED_SRAM, MEM_REMAP_USED_MRAM, MEM_LAST_ERR_ADDR_ADDR, MEM_LAST_ERR_INFO_MEMORY,
   MEM_LAST_ERR_INFO_KIND, MEM_LAST_ERR_INFO_SCRUB, MEM_LAST_ERR_INFO_SLICES, MEM_SELFTEST_RUN,
   MEM_SELFTEST_DONE, MEM_SELFTEST_PASS, MEM_SELFTEST_FAIL_CASE, MEM_ERR_STATUS_HBM_UNCORR,
   MEM_ERR_STATUS_SRAM_UNCORR, MEM_ERR_STATUS_MRAM_UNCORR, MEM_ERR_STATUS_REMAP_FULL, MEM_ERR_STATUS_DIE_FAILED,
   MEM_ERR_STATUS_UNINIT, MEM_ERR_STATUS_SELFTEST_FAIL, MEM_HBM_REMAP_ROW, MEM_SRAM_REMAP_ROW,
   MEM_MRAM_REMAP_WORD, MEM_HBM_REMAP_VALID, MEM_SRAM_REMAP_VALID, MEM_MRAM_REMAP_VALID]

/-! Fields of block BOOT: Tables 17-12, 17-13. -/

/-- `BOOT.STATUS.STAGE`. -/
def BOOT_STATUS_STAGE : Field := ⟨0x0300000, 0, 1, 0, 1, 0, 4, .ro, .warm, 0, 0, 15, []⟩
/-- `BOOT.STATUS.LOCKED`. -/
def BOOT_STATUS_LOCKED : Field := ⟨0x0300000, 0, 1, 0, 1, 4, 1, .ro, .warm, 0, 0, 1, []⟩
/-- `BOOT.STATUS.RECOVERY`. -/
def BOOT_STATUS_RECOVERY : Field := ⟨0x0300000, 0, 1, 0, 1, 5, 1, .ro, .warm, 0, 0, 1, []⟩
/-- `BOOT.STATUS.PATCHED`. -/
def BOOT_STATUS_PATCHED : Field := ⟨0x0300000, 0, 1, 0, 1, 6, 1, .ro, .warm, 0, 0, 1, []⟩
/-- `BOOT.FAIL_CAUSE.CAUSE`. -/
def BOOT_FAIL_CAUSE_CAUSE : Field := ⟨0x0300004, 0, 1, 0, 1, 0, 4, .ro, .warm, 0, 0, 15, []⟩
/-- `BOOT.FAIL_CAUSE.A_CHECK`. -/
def BOOT_FAIL_CAUSE_A_CHECK : Field := ⟨0x0300004, 0, 1, 0, 1, 4, 4, .ro, .warm, 0, 0, 15, []⟩
/-- `BOOT.FAIL_CAUSE.B_CHECK`. -/
def BOOT_FAIL_CAUSE_B_CHECK : Field := ⟨0x0300004, 0, 1, 0, 1, 8, 4, .ro, .warm, 0, 0, 15, []⟩
/-- `BOOT.SLOT.ACTIVE`. -/
def BOOT_SLOT_ACTIVE : Field := ⟨0x0300008, 0, 1, 0, 1, 0, 1, .ro, .warm, 0, 0, 1, []⟩
/-- `BOOT.SLOT.STARTED`. -/
def BOOT_SLOT_STARTED : Field := ⟨0x0300008, 0, 1, 0, 1, 1, 1, .ro, .warm, 0, 0, 1, []⟩
/-- `BOOT.SLOT.PENDING`. -/
def BOOT_SLOT_PENDING : Field := ⟨0x0300008, 0, 1, 0, 1, 2, 2, .ro, .warm, 0, 0, 3, []⟩
/-- `BOOT.SLOT.STATE_A`. -/
def BOOT_SLOT_STATE_A : Field := ⟨0x0300008, 0, 1, 0, 1, 4, 2, .ro, .warm, 0, 0, 3, []⟩
/-- `BOOT.SLOT.STATE_B`. -/
def BOOT_SLOT_STATE_B : Field := ⟨0x0300008, 0, 1, 0, 1, 6, 2, .ro, .warm, 0, 0, 3, []⟩
/-- `BOOT.SLOT.TRIES_A`. -/
def BOOT_SLOT_TRIES_A : Field := ⟨0x0300008, 0, 1, 0, 1, 8, 4, .ro, .warm, 0, 0, 15, []⟩
/-- `BOOT.SLOT.TRIES_B`. -/
def BOOT_SLOT_TRIES_B : Field := ⟨0x0300008, 0, 1, 0, 1, 12, 4, .ro, .warm, 0, 0, 15, []⟩
/-- `BOOT.SLOT.LINK_DIFFERS`. -/
def BOOT_SLOT_LINK_DIFFERS : Field := ⟨0x0300008, 0, 1, 0, 1, 16, 1, .ro, .warm, 0, 0, 1, []⟩
/-- `BOOT.VERSION_A.VERSION`. -/
def BOOT_VERSION_A_VERSION : Field := ⟨0x030000c, 0, 1, 0, 1, 0, 32, .ro, .warm, 0, 0, 4294967295, []⟩
/-- `BOOT.VERSION_B.VERSION`. -/
def BOOT_VERSION_B_VERSION : Field := ⟨0x0300010, 0, 1, 0, 1, 0, 32, .ro, .warm, 0, 0, 4294967295, []⟩
/-- `BOOT.ROM_ID.ID`. -/
def BOOT_ROM_ID_ID : Field := ⟨0x0300014, 0, 1, 0, 1, 0, 32, .ro, .aon, 2170818560, 0, 4294967295, []⟩
/-- `BOOT.OTP.REVOKED`. -/
def BOOT_OTP_REVOKED : Field := ⟨0x0300018, 0, 1, 0, 1, 0, 4, .ro, .aon, 0, 0, 15, []⟩
/-- `BOOT.OTP.MIN_SVN`. -/
def BOOT_OTP_MIN_SVN : Field := ⟨0x0300018, 0, 1, 0, 1, 4, 6, .ro, .aon, 0, 0, 63, []⟩
/-- `BOOT.START_MS.MS`. -/
def BOOT_START_MS_MS : Field := ⟨0x030001c, 0, 1, 0, 1, 0, 16, .ro, .warm, 0, 0, 65535, []⟩
/-- `BOOT.WDT_CFG.PERIOD_MS`. -/
def BOOT_WDT_CFG_PERIOD_MS : Field := ⟨0x0300020, 0, 1, 0, 1, 0, 16, .rwl, .warm, 2000, 100, 60000, []⟩
/-- `BOOT.WDT_KICK.KEY`. -/
def BOOT_WDT_KICK_KEY : Field := ⟨0x0300024, 0, 1, 0, 1, 0, 16, .wo, .warm, 0, 0, 65535, []⟩
/-- `BOOT.START_CFG.AUTO_START`. -/
def BOOT_START_CFG_AUTO_START : Field := ⟨0x0300028, 0, 1, 0, 1, 0, 1, .rwl, .warm, 0, 0, 1, []⟩
/-- `BOOT.START_CFG.PEER_EN`. -/
def BOOT_START_CFG_PEER_EN : Field := ⟨0x0300028, 0, 1, 0, 1, 1, 1, .rwl, .warm, 1, 0, 1, []⟩
/-- `BOOT.START_CFG.K_DEFAULT`. -/
def BOOT_START_CFG_K_DEFAULT : Field := ⟨0x0300028, 0, 1, 0, 1, 2, 5, .rwl, .warm, 14, 4, 30, []⟩
/-- `BOOT.WEAR_LIMIT.REPAIRED`. -/
def BOOT_WEAR_LIMIT_REPAIRED : Field := ⟨0x030002c, 0, 1, 0, 1, 0, 32, .rwl, .warm, 4294967295, 0, 4294967295, []⟩
/-- `BOOT.PATCH_EN.SLOTS`. -/
def BOOT_PATCH_EN_SLOTS : Field := ⟨0x0300030, 0, 1, 0, 1, 0, 16, .ro, .warm, 0, 0, 65535, []⟩
/-- `BOOT.PATCH_ADDR.LINE`. -/
def BOOT_PATCH_ADDR_LINE : Field := ⟨0x0300040, 4, 16, 0, 1, 5, 15, .ro, .warm, 0, 0, 32767, []⟩
/-- `BOOT.HEALTH_THR_LO.COUNT`. -/
def BOOT_HEALTH_THR_LO_COUNT : Field := ⟨0x0300100, 8, 10, 0, 1, 0, 32, .rwl, .warm, 4294967295, 0, 4294967295, []⟩
/-- `BOOT.HEALTH_THR_HI.COUNT`. -/
def BOOT_HEALTH_THR_HI_COUNT : Field := ⟨0x0300104, 8, 10, 0, 1, 0, 32, .rwl, .warm, 4294967295, 0, 4294967295, []⟩
/-- `BOOT.RCV_CMD.CMD`. -/
def BOOT_RCV_CMD_CMD : Field := ⟨0x0300200, 0, 1, 0, 1, 0, 3, .wo, .warm, 0, 0, 7, []⟩
/-- `BOOT.RCV_CMD.SLOT`. -/
def BOOT_RCV_CMD_SLOT : Field := ⟨0x0300200, 0, 1, 0, 1, 8, 1, .wo, .warm, 0, 0, 1, []⟩
/-- `BOOT.RCV_ADDR.PAGE`. -/
def BOOT_RCV_ADDR_PAGE : Field := ⟨0x0300204, 0, 1, 0, 1, 8, 17, .rw, .warm, 0, 0, 98303, []⟩
/-- `BOOT.RCV_STATUS.BUSY`. -/
def BOOT_RCV_STATUS_BUSY : Field := ⟨0x0300208, 0, 1, 0, 1, 0, 1, .ro, .warm, 0, 0, 1, []⟩
/-- `BOOT.RCV_STATUS.ERROR`. -/
def BOOT_RCV_STATUS_ERROR : Field := ⟨0x0300208, 0, 1, 0, 1, 1, 1, .w1c, .warm, 0, 0, 1, []⟩
/-- `BOOT.RCV_DATA.WORD`. -/
def BOOT_RCV_DATA_WORD : Field := ⟨0x0300300, 4, 64, 0, 1, 0, 32, .rw, .warm, 0, 0, 4294967295, []⟩

/-- Fields of block BOOT, part 0. -/
def listBOOT0 : List Field :=
  [BOOT_STATUS_STAGE, BOOT_STATUS_LOCKED, BOOT_STATUS_RECOVERY, BOOT_STATUS_PATCHED,
   BOOT_FAIL_CAUSE_CAUSE, BOOT_FAIL_CAUSE_A_CHECK, BOOT_FAIL_CAUSE_B_CHECK, BOOT_SLOT_ACTIVE,
   BOOT_SLOT_STARTED, BOOT_SLOT_PENDING, BOOT_SLOT_STATE_A, BOOT_SLOT_STATE_B,
   BOOT_SLOT_TRIES_A, BOOT_SLOT_TRIES_B, BOOT_SLOT_LINK_DIFFERS, BOOT_VERSION_A_VERSION,
   BOOT_VERSION_B_VERSION, BOOT_ROM_ID_ID, BOOT_OTP_REVOKED, BOOT_OTP_MIN_SVN,
   BOOT_START_MS_MS, BOOT_WDT_CFG_PERIOD_MS, BOOT_WDT_KICK_KEY, BOOT_START_CFG_AUTO_START,
   BOOT_START_CFG_PEER_EN, BOOT_START_CFG_K_DEFAULT, BOOT_WEAR_LIMIT_REPAIRED, BOOT_PATCH_EN_SLOTS,
   BOOT_PATCH_ADDR_LINE, BOOT_HEALTH_THR_LO_COUNT, BOOT_HEALTH_THR_HI_COUNT, BOOT_RCV_CMD_CMD,
   BOOT_RCV_CMD_SLOT, BOOT_RCV_ADDR_PAGE, BOOT_RCV_STATUS_BUSY, BOOT_RCV_STATUS_ERROR,
   BOOT_RCV_DATA_WORD]

/-! Fields of block GLB: Tables 18-4, 18-5. -/

/-- `GLB.ID.DEVICE`. -/
def GLB_ID_DEVICE : Field := ⟨0x0000000, 0, 1, 0, 1, 0, 16, .ro, .aon, 33124, 0, 65535, []⟩
/-- `GLB.ID.STEPPING`. -/
def GLB_ID_STEPPING : Field := ⟨0x0000000, 0, 1, 0, 1, 16, 8, .ro, .aon, 16, 0, 255, []⟩
/-- `GLB.CONFIG.MODE`. -/
def GLB_CONFIG_MODE : Field := ⟨0x0000008, 0, 1, 0, 1, 0, 2, .ro, .warm, 0, 0, 3, []⟩
/-- `GLB.CONFIG.GROUP`. -/
def GLB_CONFIG_GROUP : Field := ⟨0x0000008, 0, 1, 0, 1, 2, 1, .ro, .warm, 0, 0, 1, []⟩
/-- `GLB.CONFIG.PORTS`. -/
def GLB_CONFIG_PORTS : Field := ⟨0x0000008, 0, 1, 0, 1, 3, 2, .ro, .por, 0, 0, 3, []⟩
/-- `GLB.CONFIG.PEER_EN`. -/
def GLB_CONFIG_PEER_EN : Field := ⟨0x0000008, 0, 1, 0, 1, 5, 1, .ro, .warm, 0, 0, 1, []⟩
/-- `GLB.STATUS.READY`. -/
def GLB_STATUS_READY : Field := ⟨0x000000c, 0, 1, 0, 1, 0, 1, .ro, .warm, 0, 0, 1, []⟩
/-- `GLB.STATUS.BRACE`. -/
def GLB_STATUS_BRACE : Field := ⟨0x000000c, 0, 1, 0, 1, 1, 1, .ro, .warm, 0, 0, 1, []⟩
/-- `GLB.STATUS.QUIESCE`. -/
def GLB_STATUS_QUIESCE : Field := ⟨0x000000c, 0, 1, 0, 1, 2, 1, .ro, .warm, 0, 0, 1, []⟩
/-- `GLB.STATUS.RECOVERY`. -/
def GLB_STATUS_RECOVERY : Field := ⟨0x000000c, 0, 1, 0, 1, 3, 1, .ro, .warm, 0, 0, 1, []⟩
/-- `GLB.STATUS.HALVED`. -/
def GLB_STATUS_HALVED : Field := ⟨0x000000c, 0, 1, 0, 1, 4, 1, .ro, .warm, 0, 0, 1, []⟩
/-- `GLB.STATUS.THROTTLE`. -/
def GLB_STATUS_THROTTLE : Field := ⟨0x000000c, 0, 1, 0, 1, 5, 2, .ro, .warm, 0, 0, 3, []⟩
/-- `GLB.STATUS.DEGRADED`. -/
def GLB_STATUS_DEGRADED : Field := ⟨0x000000c, 0, 1, 0, 1, 7, 1, .ro, .warm, 0, 0, 1, []⟩
/-- `GLB.STATUS.MEDIUM`. -/
def GLB_STATUS_MEDIUM : Field := ⟨0x000000c, 0, 1, 0, 1, 8, 3, .ro, .warm, 0, 0, 7, []⟩
/-- `GLB.RESET_CTL.WARM`. -/
def GLB_RESET_CTL_WARM : Field := ⟨0x0000010, 0, 1, 0, 1, 0, 1, .wo, .warm, 0, 0, 1, []⟩
/-- `GLB.RESET_CTL.KEY`. -/
def GLB_RESET_CTL_KEY : Field := ⟨0x0000010, 0, 1, 0, 1, 16, 16, .wo, .warm, 0, 0, 65535, []⟩
/-- `GLB.RESET_CAUSE.CAUSE`. -/
def GLB_RESET_CAUSE_CAUSE : Field := ⟨0x0000014, 0, 1, 0, 1, 0, 4, .ro, .aon, 1, 0, 15, []⟩
/-- `GLB.RESET_CAUSE.MULTIPLE`. -/
def GLB_RESET_CAUSE_MULTIPLE : Field := ⟨0x0000014, 0, 1, 0, 1, 4, 1, .ro, .aon, 0, 0, 1, []⟩
/-- `GLB.ACCESS_ERR.SIZE`. -/
def GLB_ACCESS_ERR_SIZE : Field := ⟨0x0000018, 0, 1, 0, 1, 0, 1, .w1c, .warm, 0, 0, 1, []⟩
/-- `GLB.ACCESS_ERR.LOCKED_WRITE`. -/
def GLB_ACCESS_ERR_LOCKED_WRITE : Field := ⟨0x0000018, 0, 1, 0, 1, 1, 1, .w1c, .warm, 0, 0, 1, []⟩
/-- `GLB.ACCESS_ERR.RESET_KEY`. -/
def GLB_ACCESS_ERR_RESET_KEY : Field := ⟨0x0000018, 0, 1, 0, 1, 2, 1, .w1c, .warm, 0, 0, 1, []⟩
/-- `GLB.ACCESS_ADDR.OFFSET`. -/
def GLB_ACCESS_ADDR_OFFSET : Field := ⟨0x000001c, 0, 1, 0, 1, 0, 26, .ro, .warm, 0, 0, 67108863, []⟩
/-- `GLB.ACCESS_ADDR.PORT`. -/
def GLB_ACCESS_ADDR_PORT : Field := ⟨0x000001c, 0, 1, 0, 1, 26, 1, .ro, .warm, 0, 0, 1, []⟩
/-- `GLB.ERR_SUMMARY.BLOCKS`. -/
def GLB_ERR_SUMMARY_BLOCKS : Field := ⟨0x0000020, 0, 1, 0, 1, 0, 15, .ro, .warm, 0, 0, 32767, []⟩
/-- `GLB.EVT_SEEN.TYPES`. -/
def GLB_EVT_SEEN_TYPES : Field := ⟨0x0000024, 0, 1, 0, 1, 1, 15, .w1c, .warm, 0, 0, 32767, []⟩
/-- `GLB.UPTIME_LO.MS`. -/
def GLB_UPTIME_LO_MS : Field := ⟨0x0000028, 0, 1, 0, 1, 0, 32, .ro, .por, 0, 0, 4294967295, []⟩
/-- `GLB.UPTIME_HI.MS`. -/
def GLB_UPTIME_HI_MS : Field := ⟨0x000002c, 0, 1, 0, 1, 0, 32, .ro, .por, 0, 0, 4294967295, []⟩
/-- `GLB.SCRATCH.VALUE`. -/
def GLB_SCRATCH_VALUE : Field := ⟨0x0000030, 0, 1, 0, 1, 0, 32, .rw, .por, 0, 0, 4294967295, []⟩
/-- `GLB.EVT_COUNT.COUNT`. -/
def GLB_EVT_COUNT_COUNT : Field := ⟨0x0000044, 4, 15, 0, 1, 0, 32, .rc, .warm, 0, 0, 4294967295, []⟩

/-- Fields of block GLB, part 0. -/
def listGLB0 : List Field :=
  [GLB_ID_DEVICE, GLB_ID_STEPPING, GLB_CONFIG_MODE, GLB_CONFIG_GROUP,
   GLB_CONFIG_PORTS, GLB_CONFIG_PEER_EN, GLB_STATUS_READY, GLB_STATUS_BRACE,
   GLB_STATUS_QUIESCE, GLB_STATUS_RECOVERY, GLB_STATUS_HALVED, GLB_STATUS_THROTTLE,
   GLB_STATUS_DEGRADED, GLB_STATUS_MEDIUM, GLB_RESET_CTL_WARM, GLB_RESET_CTL_KEY,
   GLB_RESET_CAUSE_CAUSE, GLB_RESET_CAUSE_MULTIPLE, GLB_ACCESS_ERR_SIZE, GLB_ACCESS_ERR_LOCKED_WRITE,
   GLB_ACCESS_ERR_RESET_KEY, GLB_ACCESS_ADDR_OFFSET, GLB_ACCESS_ADDR_PORT, GLB_ERR_SUMMARY_BLOCKS,
   GLB_EVT_SEEN_TYPES, GLB_UPTIME_LO_MS, GLB_UPTIME_HI_MS, GLB_SCRATCH_VALUE,
   GLB_EVT_COUNT_COUNT]

end F

/-- The blocks of Table 18-1 with their offset ranges and fields (R448). -/
def blockMap : List (Nat × Nat × List Field) :=
  [(0x0000000, 0x0010000, F.listGLB0),
   (0x0010000, 0x0020000, F.listCLK0),
   (0x0020000, 0x0030000, F.listPWR0),
   (0x0030000, 0x0040000, F.listTHM0),
   (0x0040000, 0x0080000, F.listHIF0),
   (0x0080000, 0x00a0000, F.listSQ0),
   (0x00a0000, 0x00c0000, F.listOMAP0),
   (0x00c0000, 0x0100000, F.listTNS0),
   (0x0100000, 0x0140000, F.listFMT0 ++ F.listFMT1),
   (0x0140000, 0x0180000, F.listLANE0),
   (0x0180000, 0x01c0000, F.listDET0),
   (0x01c0000, 0x0200000, F.listWRA0 ++ F.listWRA1),
   (0x0200000, 0x0240000, F.listCTL0 ++ F.listCTL1 ++ F.listCTL2),
   (0x0240000, 0x0280000, F.listGRP0),
   (0x0280000, 0x02c0000, F.listRED0),
   (0x02c0000, 0x0300000, F.listMEM0),
   (0x0300000, 0x0310000, F.listBOOT0),
   (0x0310000, 0x0320000, F.listTRC0)]

/-- Every field of the map. -/
def allFields : List Field := blockMap.flatMap (fun b => b.2.2)

/-- The fields of the block that holds offset `off`. -/
def blockFields (off : Nat) : List Field :=
  match blockMap.find? (fun b => b.1 ≤ off && off < b.2.1) with
  | some b => b.2.2
  | none => []

/-- The fields of the register at BAR0 offset `off`, each with its indices; none where no register lies (R7). -/
def fieldsAt (off : Nat) : List (Field × Nat × Nat) :=
  (blockFields off).filterMap (fun f => (f.indexAt off).map (fun ij => (f, ij)))

end Sys2Proof.Machine
end

