-- ==== Sys2Proof/Machine/StateHost.lean ====
section
/-!
DEFINITION. The state of the host side: the register file, what leaves the device, events and the log, streams,
queues, rings and commands, objects, Tansy, and start-up. Plain data throughout.
-/

namespace Sys2Proof.Machine

/-- The register file: one sparse table per reset domain (R9); an unlisted field holds its reset value. -/
structure Regs where
  aon : Store Nat
  por : Store Nat
  warm : Store Nat
  deriving DecidableEq, Repr

/-- What leaves the device by a link, a bus or a pin, as a record of the interface. -/
inductive Output where
  /-- data returned for a register or BAR4 read -/
  | readData (req : Req) (value : Nat)
  /-- a completion entry of 32 B written to a ring: its index and the host address of the posted write (R88, Table 04-4) -/
  | completion (port : Bool) (ring index addr entry : Nat)
  /-- bytes written to host memory by DMA -/
  | dmaWrite (port : Bool) (addr : Nat) (bytes : List Byte)
  /-- a DMA read request the device issues -/
  | dmaRead (port : Bool) (addr len : Nat)
  /-- an MSI-X message of a vector: the address and data of its table entry (R59) -/
  | msix (port : Bool) (vector addr data : Nat)
  /-- the answer to a configuration request (R51); `none` is Configuration Request Retry Status -/
  | cfgReply (port : Bool) (value : Option Nat)
  /-- a packet handed to a peer port's transmit side (R314) -/
  | packet (port : Nat) (bytes : List Byte)
  /-- a link control block on a peer port: its kind and value -/
  | linkBlock (port kind value : Nat)
  /-- a 32-bit frame on a preamp control bus (R271) -/
  | pac (actuator frame : Nat)
  /-- a frame on a motor driver lane (R287) -/
  | mdrv (lane frame : Nat)
  /-- a reply on the management path (R337) -/
  | mgmt (bytes : List Byte)
  /-- the management bus released after MGMT_SCL stayed low (R480) -/
  | mgmtRelease
  /-- bits shifted out of the JTAG TAP (R481) -/
  | jtag (value : Nat)
  /-- the covered pins driven from the boundary register during EXTEST (R481) -/
  | pins (value : Nat)
  /-- the channel bits that a track's write element records in a frame slot, with the delay of its track in eighths of a
  channel bit (R154, R266) -/
  | tapeFrame (slot track skew : Nat) (bits : List Bool)
  /-- the channel bits that a disk channel records in a data field, from bit 0 of the field on; a position without a bit is
  squelched. The transitions at the listed positions are delayed by `precomp` sixty-fourths of a bit (R210, R213, R270) -/
  | diskField (channel field precomp : Nat) (delayed : List Nat) (bits : List (Option Bool))
  /-- a write to the configuration flash: 0 erase, 1 program; address and length (R425); 2 is its reset (R476) -/
  | nor (kind addr len : Nat)
  deriving DecidableEq, Repr

/-- One item of the event FIFO (Table 03-7). -/
structure EvtItem where
  type : Nat
  source : Nat
  code : Nat
  seq : Nat
  arg : Nat
  deriving DecidableEq, Repr

/-- One log entry (Table 05-14). -/
structure LogEntry where
  seq : Nat
  time : Nat
  type : Nat
  source : Nat
  code : Nat
  arg : Nat
  key : Nat
  epoch : Nat
  detail : Nat
  deriving DecidableEq, Repr

/-- One MSI-X vector of one port (R59). -/
structure Msix where
  addr : Nat
  data : Nat
  masked : Bool
  pend : Bool
  deriving DecidableEq, Repr

/-- The state of the host link, the FIFOs of HIF and the attention signals that no register field holds. -/
structure HostSt where
  /-- the event FIFO, oldest item first (R70) -/
  evtFifo : List EvtItem
  /-- SEQ of the next event item (R70) -/
  evtSeq : Nat
  /-- READY has been set since the last reset (R58, R68) -/
  readyOnce : Bool
  /-- PERST_N is held asserted -/
  perst : Bool
  /-- the link configuration and the BARs are set up (R51) -/
  cfgDone : Bool
  /-- MSI-X vectors, key port × 128 + vector (R59) -/
  msix : Store Msix
  /-- configuration space words the host wrote, key port × 1024 + register number (R484) -/
  cfgSpace : Store Nat
  /-- AER uncorrectable error status, port A and port B -/
  aerUncA : Nat
  aerUncB : Nat
  /-- AER correctable error status, port A and port B -/
  aerCorA : Nat
  aerCorB : Nat
  /-- latched upper halves, key requester × 2^26 + offset of the _LO register (R8, R453) -/
  latch : Store Nat
  /-- SUBSYS of the header in force (R50) -/
  subsys : Nat
  deriving DecidableEq, Repr

/-- The slot states of Table 04-2. -/
inductive SlotState where
  | idle | loading | outstanding | discard
  deriving DecidableEq, Repr

/-- One task slot: its state, its slot buffer (words 0 to 6, 448 bits) and, in DISCARD, whether activation caused it
(R77, R99). -/
structure Slot where
  state : SlotState
  buf : Nat
  byActivation : Bool
  deriving DecidableEq, Repr

/-- The arbitration classes (R84). -/
inductive Cls where
  | urgent | high | normal | background
  deriving DecidableEq, Repr

/-- How far a command has come: submitted as a tag and not fetched, ready, admitted and waiting for its descriptor
list, admitted, or started (R84). -/
inductive Stage where
  | fetching | ready | listWait | admitted | started
  deriving DecidableEq, Repr

/-- A landing copy of a command's data: the surface or member that holds it, its first ring position, and whether its
last fragment has been laid down (R217, R218, R352). -/
structure Landing where
  place : Nat
  pos : Nat
  len : Nat
  written : Bool
  deriving DecidableEq, Repr

/-- One compression context: the run's history newest byte first, the run's length and the order of its last save
(R143, R144). -/
structure Ctx where
  stream : Nat
  hist : List Byte
  run : Nat
  saved : Nat
  deriving DecidableEq, Repr

/-- The units a compression engine builds from a record: finished units newest first, the bytes of the open unit newest
first, the restart points found as object offset and unit number within the record, the history and the run, whether the next
block begins a new run, and the blocks abandoned to RAW (R131, R132, R138). -/
structure Packing where
  done : List (List Byte)
  cur : List Byte
  restarts : List (Nat × Nat)
  hist : List Byte
  run : Nat
  fresh : Bool
  raws : Nat
  deriving DecidableEq, Repr

/-- A command the device holds. -/
structure Cmd where
  uid : Nat
  src : Src
  port : Bool
  ring : Nat
  cls : Cls
  frame : Frame
  stage : Stage
  /-- order of admission (R41) -/
  admitNo : Nat
  /-- buffers in R75 order: address and length -/
  bufs : List (Nat × Nat)
  /-- bytes of host data for which DMA reads have been issued (R61) -/
  asked : Nat
  /-- host data that has arrived, and how many bytes of it stand in the ingest FIFO -/
  data : List Byte
  fifo : Nat
  /-- the host tags of the data that has arrived, one for each 4 KiB counted from object offset 0 (R16) -/
  tags : List Nat
  /-- what the compression engine that took the record has built, and the bytes it has taken (R139, R149) -/
  pack : Option Packing
  taken : Nat
  /-- Tansy has encoded all of the data -/
  encoded : Bool
  /-- output units (ids) made for the command's data or map delta -/
  units : List Nat
  /-- the OBJ_NONCE drawn for an OPEN (R147) -/
  nonce : Nat
  /-- landing copies (D-mode) -/
  copies : List Landing
  /-- the command waits: 0 no, 1 for the medium, 2 for landing space, 3 for gather space, 4 for others to finish,
  5 for the target's completion, 6 for an image check, 7 for quiesce, 8 for members, 9 for the flash, 10 for room toward the
  host, 11 for tape data sets to be read, 12 for a decompression engine, 13 for the deputy's MRAM -/
  waits : Nat
  /-- uids of the started commands a FLUSH waits for (R98) -/
  waitFor : List Nat
  /-- RESULT and AUX kept until the command finishes -/
  res : Nat
  aux : Nat
  /-- a GET: bytes of its range gone through, the CRC-64 of what it has read, and the first requested byte that it could
  not deliver. A command that runs on members: in `prog` the first status that was not success, in `missing` that the
  part on this device has ended or does not exist -/
  prog : Nat
  crc : Nat
  missing : Option Nat
  /-- a GET that began on a SEALED object and covers all of it: the CRC-64 to compare at its end; whether its data has to come
  from the medium (R40, R113, R118) -/
  check : Option Nat
  fromMedium : Bool
  deriving DecidableEq, Repr

/-- A completion on its way to a ring (Table 04-4). -/
structure Completion where
  src : Src
  /-- the stream id it shows; the slot's own, or the GO word's under R99 -/
  sid : Nat
  port : Bool
  ring : Nat
  status : Nat
  seq : Nat
  result : Nat
  aux : Nat
  replayed : Bool
  /-- zero the slot buffer when it is written (R99) -/
  zeroSlot : Bool
  deriving DecidableEq, Repr

/-- The stream and queue engine. -/
structure SqSt where
  slots : Store Slot
  /-- commands in the order they arrived -/
  cmds : List Cmd
  /-- completions held for a full ring, in the order they became ready (R92) -/
  held : List Completion
  /-- per ring: entries posted since the last vector (R94) -/
  coal : Store Nat
  /-- per ring: head and tail are register fields; the weighted arbiter's `cur` values (R85) -/
  curH : Int
  curN : Int
  curB : Int
  /-- units left in the admission window, whether any command was admitted in it, and whether it is closed (R87) -/
  winLeft : Nat
  winFresh : Bool
  winShut : Bool
  nextUid : Nat
  nextAdmit : Nat
  /-- ABORTs that wait for their target's ABORTED completion: aborter and target (R97) -/
  abortWaits : List (Src × Src)
  deriving DecidableEq, Repr

/-- One entry of the stream sequence table (Table 02-2). -/
structure SeqEntry where
  lastSeq : Nat
  gen : Nat
  state : Nat
  unknown : Bool
  deriving DecidableEq, Repr

/-- Where a unit lies: nowhere yet, in a tape data set, in a landing ring, in a zone, in a stripe. -/
inductive Place where
  | none
  | tape (part ds cw : Nat)
  | landing (surface pos : Nat)
  | zone (zone pos : Nat)
  | stripe (stripe slot pos : Nat)
  deriving DecidableEq, Repr

/-- One unit: a 64 B unit header's fields and a 4,096 B user field with its media tag (Tables 07-1, 07-2). -/
structure UnitRec where
  utype : Nat
  flags : Nat
  stream : Nat
  seq : Nat
  gen : Nat
  index : Nat
  key : Nat
  recOffset : Nat
  recLength : Nat
  nonce : Nat
  user : List Byte
  tag : Nat
  place : Place
  /-- no copy of the unit can be read (R48) -/
  lost : Bool
  /-- the block of HBM that holds it was found poisoned (R14, R24) -/
  poison : Bool
  deriving DecidableEq, Repr

/-- One object's map entry (R100, R107). -/
structure Obj where
  state : Nat
  length : Nat
  kslot : Nat
  keyId : Nat
  nocomp : Bool
  nonce : Nat
  crc : Nat
  /-- CRC-64 of the committed bytes so far (R101) -/
  crcRun : Nat
  stream : Nat
  gen : Nat
  /-- stream sequence of the command whose map delta the entry holds last (R32) -/
  seq : Nat
  /-- unit ids in unit order -/
  units : List Nat
  /-- restart points: object offset and unit number (R132) -/
  restarts : List (Nat × Nat)
  /-- lost ranges: object offset and length (R48) -/
  lost : List (Nat × Nat)
  deriving DecidableEq, Repr

/-- One key slot (R123). -/
structure KeySlot where
  loaded : Bool
  keyId : Nat
  material : List Byte
  deriving DecidableEq, Repr

/-- A DELETE past its commit point: its key, its command and the first order of admission that no longer finds the
object (R114). -/
structure DelRec where
  key : Nat
  src : Src
  mark : Nat
  deriving DecidableEq, Repr

/-- A deleted object whose space is still in use by GETs admitted before the commit point (R114). -/
structure GoneObj where
  key : Nat
  obj : Obj
  mark : Nat
  deriving DecidableEq, Repr

/-- The object map, the stream sequence table, the key slots and Tansy. -/
structure ObjSt where
  seqTab : Store SeqEntry
  /-- bound key of each stream, 0 when none is kept (R112) -/
  bound : Store Nat
  objs : Store Obj
  units : Store UnitRec
  nextUnit : Nat
  keys : Store KeySlot
  /-- LIST cursors issued since the last reset: cursor and last key written (R115) -/
  cursors : List (Nat × Nat)
  /-- next OBJ_NONCE, and the end of the batch reserved in MRAM (R147) -/
  nonce : Nat
  nonceEnd : Nat
  ctxs : List Ctx
  ctxClock : Nat
  /-- space of the gather buffer in units (R139) -/
  gatherFree : Nat
  /-- units of committed map deltas that no object names (R32 to R34) -/
  deltas : List Nat
  /-- entries recorded at their home member whose commands are not known to have committed (R32, R108, R320) -/
  props : Store Obj
  /-- members whose entries a new lead has not been told yet, one bit each (R320) -/
  awaitMaps : Nat
  deleting : List DelRec
  gone : List GoneObj
  deriving DecidableEq, Repr

/-- The lifetime counters and the log (R126, R127). -/
structure LifeSt where
  /-- counters by their offset in Table 05-13 -/
  count : Store Nat
  /-- lifetime powered time in ms -/
  ms : Nat
  staging : List LogEntry
  medium : List LogEntry
  nextLog : Nat
  deriving DecidableEq, Repr

/-- One copy of the image state record (Table 17-6). -/
structure ImgRec where
  seq : Nat
  active : Nat
  pending : Nat
  stateA : Nat
  stateB : Nat
  triesA : Nat
  triesB : Nat
  versionA : Nat
  versionB : Nat
  lastFail : Nat
  deriving DecidableEq, Repr

/-- One parameter record: offset, WHEN, mask and value (R429). -/
structure ParamRec where
  offset : Nat
  when : Nat
  mask : Nat
  value : Nat
  deriving DecidableEq, Repr

/-- What the fuses hold (R428, Table 18-3). -/
structure Fuses where
  keyHash : List Nat
  revoked : Nat
  minSvn : Nat
  uid : Nat
  /-- the OTP has been read since the last power-on reset (R436, R437) -/
  otpRead : Bool
  deriving DecidableEq, Repr

/-- Start-up, the flash, the image in force and activation. -/
structure BootSt where
  /-- the configuration flash; an unlisted byte is erased, 0xFF -/
  nor : Store Byte
  /-- the two copies of the image state record; `none` fails its CRC (R433) -/
  recA : Option ImgRec
  recB : Option ImgRec
  fuses : Fuses
  /-- the records of the image in force -/
  records : List ParamRec
  /-- WHEN 2 records kept for the next MEDIA START (R430, R444) -/
  when2 : List ParamRec
  /-- the SERVO and FORMAT sections of the image in force -/
  servo : List Byte
  format : List Byte
  version : Nat
  /-- replacement words of the patch slots, 32 B each, and the patch code (R431) -/
  patchWords : List (List Byte)
  patchCode : List Byte
  /-- write pointer of the inactive slot (R124) -/
  writePtr : Nat
  /-- the activation in progress: 0 none, 1 check running, 2 quiescing, 3 applied here and awaited from members
  (R444, R445) -/
  activation : Nat
  /-- ms since the watchdog was restarted, and whether it is armed (R439) -/
  wdtMs : Nat
  wdtArmed : Bool
  /-- causes of the reset in progress, as codes of Table 18-6 (R458) -/
  causes : List Nat
  /-- a flash operation runs: 0 none, 1 erase, 2 program, 3 abandoned; address and bytes -/
  norOp : Nat
  norAddr : Nat
  norBytes : List Byte
  deriving DecidableEq, Repr

end Sys2Proof.Machine
end

