-- ==== Sys2Proof/Machine/StateMedia.lean ====
section
/-!
DEFINITION. The state of the media side: tape data sets and verify, tape motion, disk zones and landing rings, the
lanes and the Sorrel detector pool. Plain data throughout.
-/

namespace Sys2Proof.Machine

/-- One copy of a codeword on tape, or a rewrite entry for it: data set, codeword index, track, frame slot, kind
(0 original, 1 rewrite, 2 FILL, 3 re-issue), rewrites so far and the set of tracks it has failed on (R164, R165). -/
structure Copy where
  part : Nat
  ds : Nat
  cw : Nat
  track : Nat
  slot : Nat
  kind : Nat
  rewrites : Nat
  failed : Nat
  deriving DecidableEq, Repr

/-- One tape data set (R150 to R152): its kind is 0 data, 1 EOD, 2 cartridge header, 3 index. -/
structure DataSet where
  part : Nat
  num : Nat
  kind : Nat
  /-- ids of the units placed, in codeword order; the rest is EMPTY -/
  units : List Nat
  closed : Bool
  begun : Bool
  /-- first frame slot of the original -/
  slot : Nat
  wrap : Nat
  pass : Nat
  /-- bit c is set when codeword c has passed verify in some copy (R162) -/
  passed : Nat
  /-- re-issues of every cause, and those verify failures caused (R159, R166) -/
  reissues : Nat
  verReissues : Nat
  reissueDue : Bool
  /-- marked unverified at a shutdown (R173) -/
  interrupted : Bool
  /-- the units that the formatter made itself: EOD, INDEX (R151, R178, R179); they come before `units` -/
  own : List UnitRec
  /-- the 192 payloads, from the closing on: 176 units and the L2 parity (R151, R157) -/
  image : List (List Byte)
  /-- codeword and slot of every copy that passed verify (R162, R171) -/
  okAt : List (Nat × Nat)
  /-- per codeword the set of tracks on which it has failed (R164) -/
  fails : Store Nat
  /-- LPOS of the original's first frame (Table 07-11) -/
  lpos : Nat
  deriving DecidableEq, Repr

/-- One frame slot recorded on tape: partition, slot number, wrap, LPOS, WRITE_PASS and the 64 copies, FILL among them
(Tables 07-3, 07-4). -/
structure SlotRec where
  part : Nat
  slot : Nat
  wrap : Nat
  lpos : Nat
  pass : Nat
  copies : List Copy
  deriving DecidableEq, Repr

/-- The cartridge header in use (Table 07-9). -/
structure CartHeader where
  wraps : Nat
  lposBegin : Nat
  lposEnd : Nat
  cartId : Nat
  gapUm : Nat
  deriving DecidableEq, Repr

/-- The tape formatter and the cartridge. -/
structure TapeSt where
  /-- a cartridge is in the drive; it is write-protected -/
  present : Bool
  protect : Bool
  header : Option CartHeader
  /-- data sets in the buffer or above the frontier, ascending; the open one is last -/
  sets : List DataSet
  /-- data sets at or below the frontier that lie on the cartridge -/
  onTape : List DataSet
  /-- units released by Tansy that wait in the gather buffer for a data set (R139, R183) -/
  gather : List Nat
  /-- number of the next frame slot to build (R185) -/
  slot : Nat
  /-- frames built and not yet written, oldest first, 64 copies each -/
  frames : List (List Copy)
  rwq : List Copy
  /-- copies written whose verify decision is open -/
  awaiting : List Copy
  /-- per track: outcomes of the last 16 non-FILL codewords, newest in bit 0, 1 for a failure (R168) -/
  last16 : Store Nat
  /-- verify failures per frame slot (Table 07-6) -/
  slotFails : Store Nat
  /-- DS_NUMs of the write disturbances (R172) -/
  disturbs : List Nat
  writePass : Nat
  /-- a write session has written its first frame (R179) -/
  session : Bool
  indexSeq : Nat
  indexNext : Nat
  /-- the latest session wrote no EOD data set; start at the recovered end (R152, R180) -/
  stale : Bool
  /-- data sets read ahead and not yet consumed by Tansy, as partition × 2^32 + DS_NUM, oldest first (R183) -/
  readAhead : List Nat
  /-- codewords of a data set being read that have left Sorrel as good, by the same key (R174) -/
  readGood : Store Nat
  /-- the frame slots that lie recorded on the cartridge, in the order they were written -/
  written : List SlotRec
  /-- the number of the next frame slot of the partition that is not being written -/
  otherSlot : Nat
  /-- MEDIA STOP needs the EOD data set, then the index data set, written: 0 none, 1 EOD, 2 index, 3 done -/
  stopStage : Nat
  /-- per 100 ms, newest first: data sets closed, frame slots, frame slots with new originals (R186) -/
  closedHist : List Nat
  slotHist : List Nat
  newHist : List Nat
  /-- data set re-reads in progress: data set, tries, missing codewords (R258) -/
  rereads : List (Nat × Nat × Nat)
  deriving DecidableEq, Repr

/-- What a reposition, a locate, a reacquisition or an unload has the tape do (R189, R197, R199, R200). -/
inductive TapePhase where
  /-- none of these -/
  | none
  /-- decelerating to a stop -/
  | stop
  /-- reversing past the target of a reposition, or by 64 mm -/
  | reverse
  /-- running up to the target, or forward at step 0 in a reacquisition -/
  | forward
  /-- running to a data set to be read -/
  | locate
  /-- rewinding to LPOS_BEGIN − 2,800 -/
  | rewind
  /-- threading the leader back -/
  | unthread
  deriving DecidableEq, Repr

/-- Tape motion (R182 to R200), beyond what `CTL.TM_*` holds. -/
structure MotSt where
  moving : Bool
  /-- consecutive servo frames not VALID, and consecutive frames within the settle limits -/
  nonValid : Nat
  settled : Nat
  /-- servo frames since the last LPOS, and the bits decoded (R193) -/
  lposFrames : Nat
  lposBits : Nat
  reverse : Bool
  /-- last lateral error in nm and the upper-lower difference of the bands (R192) -/
  lateral : Int
  widthCorr : Int
  /-- the quiet-point procedure runs toward this step (R184); 16 stands for a stop -/
  quiet : Option Nat
  /-- the tape is stopped under R187 -/
  stopped : Bool
  /-- repositioning after a disturbance (R171) -/
  repos : Bool
  /-- 100 ms periods since the last step change -/
  sinceChange : Nat
  /-- the ramp of a step change runs (R184 step 4) -/
  ramping : Bool
  /-- ms the tape has been stopped under R187, and data sets closed in that time -/
  stopMs : Nat
  stopClosed : Nat
  /-- load stage 0 to 6 of Table 08-7, and the unload in progress: 0 none, 1 ordinary, 2 from FAULTED, 3 collapsed -/
  loadStage : Nat
  unload : Nat
  /-- reacquisition attempts used, and whether one runs (R197) -/
  reacqTries : Nat
  reacq : Bool
  /-- tension set-point in force in µN, for the ramp of R191, and radii of the reels in µm -/
  tension : Nat
  radii : Nat × Nat
  /-- the fault that made the medium FAULTED was a tension collapse (R200) -/
  collapsed : Bool
  /-- what the tape does beyond running at its step, and the servo frames of it that are left (R189, R197, R200) -/
  phase : TapePhase
  phaseFrames : Nat
  /-- the cartridge is seated, the leader threaded, LPOS decoded since the load began (Table 08-7) -/
  seated : Bool
  threaded : Bool
  lposKnown : Bool
  /-- a wrap turn is not complete yet (R196) -/
  turning : Bool
  /-- the lateral error of the frame before the last, for the prediction of R194 -/
  lateral1 : Int
  /-- VALID servo frames in a row while reacquisition runs forward (R197) -/
  validRun : Nat
  /-- the LPOS that a locate runs to, and whether the tape reads (R187, R189) -/
  locate : Option Nat
  reading : Bool
  /-- the velocity in µm/s that the last servo frame interval gives, and the status of the last frame (R190 to R192) -/
  vel : Nat
  frame : Nat
  deriving DecidableEq, Repr

/-- One zone (R207, Table 05-11). -/
structure Zone where
  state : Nat
  track : Nat
  wp : Nat
  life : Nat
  /-- unit ids by position -/
  content : Store Nat
  primary : List Nat
  grown : List Nat
  /-- tracks written in this fill: first and last position of each, oldest first -/
  tracks : List (Nat × Nat)
  /-- tracks that have been read back or queued for it -/
  readBack : Nat
  /-- to be retired when cleaned (R229) -/
  retire : Bool
  deriving DecidableEq, Repr

/-- One position of a landing ring that is held: position, unit, the command's source uid, released. -/
structure LandPos where
  pos : Nat
  unit : Nat
  uid : Nat
  released : Bool
  deriving DecidableEq, Repr

/-- The landing ring of a surface (R217). -/
structure Ring where
  size : Nat
  next : Nat
  life : Nat
  held : List LandPos
  /-- all its defective positions, and those that the surface scan found (R229) -/
  defects : List Nat
  primary : List Nat
  deriving DecidableEq, Repr

/-- One recording band (Table 09-10). -/
structure Band where
  surface : Nat
  band : Nat
  firstTrack : Nat
  rate : Nat
  d : Nat
  deriving DecidableEq, Repr

/-- A read-back that is due or in progress: zone, position, unit. -/
structure ReadBack where
  zone : Nat
  pos : Nat
  unit : Nat
  deriving DecidableEq, Repr

/-- A zone being cleaned: the bytes relocated from it, and the admission number at the last map move out of it (R230,
R231). -/
structure Clean where
  zone : Nat
  relocated : Nat
  lastMove : Nat
  deriving DecidableEq, Repr

/-- The disk: heads, zones, landing rings, destage and cleaning. -/
structure DiskSt where
  heads : Nat
  /-- a valid zone table lies on the medium -/
  formatted : Bool
  /-- zones by index, and how many there are -/
  zones : Store Zone
  zoneCount : Nat
  zonesPerSurface : Nat
  outerZones : Nat
  bands : List Band
  rings : Store Ring
  mediumId : Nat
  ztSeq : Nat
  /-- what the zone table last recorded: heads and actuators failed; per zone write pointer, LIFE and state -/
  ztFailed : Nat
  ztZones : Store (Nat × Nat × Nat)
  /-- the same of the zone table last read (R233, Table 05-9) -/
  ztSeen : Store (Nat × Nat × Nat)
  /-- a zone table has been read since start-up -/
  ztRead : Bool
  /-- units to destage, oldest first -/
  destage : List Nat
  /-- positions due for read-back -/
  readBacks : List ReadBack
  /-- reallocations in progress: unit, old zone and old position (R224, R228) -/
  redo : List (Nat × Nat × Nat)
  /-- the zones being cleaned, and whether free zones have fallen below LOW_PCT (R230) -/
  cleaning : List Clean
  cleanOn : Bool
  /-- per head: consecutive sector reads that ended the ladder without recovery, and their tracks (R204) -/
  badReads : Store (List Nat)
  /-- per head: servo acquisitions that failed in a row (R204) -/
  acqFails : Store Nat
  /-- write faults of the copy a command is writing: command uid and surface (R219) -/
  copyFaults : List (Nat × Nat)
  /-- surfaces below LOW_PCT whose event has been raised (R220) -/
  lowRings : Nat
  deriving DecidableEq, Repr

/-- What a codeword in Sorrel is for. -/
inductive Target where
  /-- a copy on tape, read while writing -/
  | verify (c : Copy)
  /-- a codeword of a tape data set read back -/
  | tapeRead (part ds cw : Nat)
  /-- a position of a zone -/
  | zone (zone pos : Nat)
  /-- a position of a landing ring -/
  | landing (surface pos : Nat)
  deriving DecidableEq, Repr

/-- The Sorrel classes of Table 10-8. -/
inductive SClass where
  | verify | read | readback | retry | background
  deriving DecidableEq, Repr

/-- A complete codeword with its samples: lane, class, target, the time in µs at which it became complete, whether its
samples were spilled, and the framing candidates of the shift ladder still to decode (R243, R245, R251). -/
structure Job where
  id : Nat
  lane : Nat
  cls : SClass
  target : Target
  since : Nat
  spilled : Bool
  /-- counted A–B deviation that the shift ladder must settle, 0 for none -/
  delta : Int
  /-- lock drop position, and thermal asperity flags present (R240, R257) -/
  drop : Option Nat
  asperity : Bool
  /-- retry ladder step in progress, 0 for none (R262) -/
  step : Nat
  /-- promoted to the tail of READ by age (R253) -/
  promoted : Bool
  /-- shift ladder (R243): framings still to decode, as the positions of the two halves counted from mark A, and whether
  the framing probes are still to run -/
  cands : List (Int × Int)
  probing : Bool
  /-- weight of reader 0 in 1/128 with which Sorrel forms the samples; reader 1 has the rest (R250) -/
  weight : Nat
  /-- how many reads its samples are averaged over, and whether its flagged samples have zero reliability (Table 10-9) -/
  average : Nat
  erase : Bool
  deriving DecidableEq, Repr

/-- One cell: the codeword it holds with the limit it started with, codewords since its last self-check, whether a
self-check is due, and whether it runs. -/
structure Cell where
  job : Option Job
  limit : Nat
  sinceKat : Nat
  katDue : Bool
  /-- a miscorrection calls for the self-check before the cell takes another codeword (R256) -/
  katFirst : Bool
  kat : Bool
  deriving DecidableEq, Repr

/-- One lane's state (R237 to R247). -/
structure LaneSt where
  /-- samples retained: bytes of the equalized ring in use -/
  ring : Nat
  /-- last wedge's burst sums, wedge index and track for Table 10-6 -/
  lastSums : List Nat
  lastIndex : Nat
  lastTrack : Nat
  /-- the NCO, its nominal increment, and the integral branch of the timing loop in 2^-48 of full scale (R237, R238) -/
  nco : Nat
  inc : Nat
  integ : Int
  /-- the VGA code fixed at the end of the gain phase (R239) -/
  vga : Nat
  /-- the digital gain (R239) -/
  gain : Nat
  /-- what adaptation has added to the image's values of the equalizer taps, in 2^-32; none for a tap counts as 0 (R240) -/
  taps : List Int
  /-- what ladder step 8 or 9 adds to the CTF boost, in 0.5 dB (Table 10-9) -/
  ctf : Int
  deriving DecidableEq, Repr

/-- The lanes and the detector pool. -/
structure DetSt where
  lanes : Store LaneSt
  waiting : List Job
  /-- codewords to restart ahead of every other (R260) -/
  restart : List Job
  cells : Store Cell
  nextJob : Nat
  /-- bytes of the sample overflow region in use (R246) -/
  overflow : Nat
  /-- retry ladders in progress -/
  ladders : List Job
  /-- lifetime record of retired cells in MRAM (R260) -/
  retiredRec : Nat
  deriving DecidableEq, Repr

/-- The medium state shared by both personalities (Table 05-8): commands waiting on it and the function in progress. -/
structure MediumSt where
  state : Nat
  /-- MEDIA functions in progress: 0 none, 1 START, 2 STOP, 3 FORMAT -/
  func : Nat
  /-- writing on the cartridge failed (R169) -/
  writeFailed : Bool
  /-- STOP was admitted while a start runs; the medium starts again once a stop whose STOP was aborted has ended (R96) -/
  stopAfter : Bool
  startAfter : Bool
  /-- the state in which STOP or FORMAT found the medium, to which it returns when that is aborted (R96) -/
  prior : Nat
  deriving DecidableEq, Repr

end Sys2Proof.Machine
end

