-- ==== Sys2Proof/Machine/StateServo.lean ====
section
/-!
DEFINITION. The state of the write path (WRA), of the control engine (Speedwell) and of the trace unit, beyond what
their registers hold. Plain data throughout.
-/

namespace Sys2Proof.Machine

/-- One actuator's preamp bus and gates (R268 to R274). -/
structure ActWra where
  /-- writing waits for FAULT_CLEAR to release the line and for a status with no fault bit (R274) -/
  barred : Bool
  /-- the data field whose gates are asserted (R268) -/
  field : Option Nat
  /-- the last command frame sent, the repeats of it and the RESETs in a row (R273) -/
  lastFrame : Nat
  repeats : Nat
  resets : Nat
  /-- treated as reporting every head open (R273) -/
  allOpen : Bool
  /-- a status read is under way after PACa_FLT_N fell -/
  wantStatus : Bool
  /-- heads disarmed at the release of AGa that follows the current fragment (Table 15-1, R397) -/
  stopAtRelease : Bool
  deriving DecidableEq, Repr

/-- One disk write channel (R203, R269, R275). -/
structure ChanWra where
  /-- the head the channel serves, 24 when none -/
  head : Nat
  /-- the channel writes in the field in progress, and stops at its end -/
  writing : Bool
  stopping : Bool
  /-- Betony has granted the channel a further concurrent write (R22, R278) -/
  granted : Bool
  deriving DecidableEq, Repr

/-- The assist loop of one head (R276, R277). -/
structure HeadLoop where
  level : Nat
  /-- consecutive fields with the error within 2 % of TARGET, at MAX_LVL, and over ERR_PCT -/
  conv : Nat
  sat : Nat
  wide : Nat
  /-- the derate event has been raised -/
  derated : Bool
  /-- powered times in ms of its assist faults -/
  faults : List Nat
  deriving DecidableEq, Repr

/-- The write and assist block. -/
structure WraSt where
  acts : Store ActWra
  chans : Store ChanWra
  loops : Store HeadLoop
  /-- converged levels as MRAM holds them, by head (R276) -/
  savedLevels : Store Nat
  /-- the tape outputs are to be squelched at the end of the frame slot in progress (R267) -/
  squelchDue : Bool
  /-- the channel rate each synthesizer is set to: 0 to 3 disk channels as their band has it, 4 tape in kb/s
  (R265) -/
  rates : Store Nat
  deriving DecidableEq, Repr

/-- The state of one Speedwell slot beyond its registers (R281 to R294). Values in native units carry 16 fraction
bits; Q2.30 values are integers in units of 2^-30. -/
structure SlotSt where
  fb1 : Int
  fb2 : Int
  /-- ramp position, velocity and acceleration; target in force -/
  x : Int
  v : Int
  a : Int
  tgt : Int
  /-- delay lines of notch, BQ1 and BQ2: x1, x2, y1, y2 each -/
  notch : Int × Int × Int × Int
  bq1 : Int × Int × Int × Int
  bq2 : Int × Int × Int × Int
  b2Prev : Int
  /-- CLK_CTL count of the previous sample instant; `none` before the first -/
  last : Option Nat
  /-- the integrator is preset on the next sample (R291) -/
  preset : Bool
  /-- following-error timer in ns -/
  ferrNs : Nat
  /-- samples of the microactuator's ramp to 0 already run (Table 12-7) and the output it began at -/
  fade : Nat
  fadeFrom : Int
  /-- measured current of the lane's latest good response -/
  current : Int
  /-- stages of the latest sample for the trace: e, notch, BQ1, BQ2, p, I, d, ff -/
  stages : List Int
  /-- set-point and feedback of the latest sample, and its status -/
  sp : Int
  fb : Int
  status : Nat
  lastValid : Int
  deriving DecidableEq, Repr

/-- A wedge record as the lane delivered it (R247): status 0 VALID, 1 MISSING, 2 FROZEN; the track, the PES in 1/1024 of
the pitch, the SAM interval in CLK_CTL cycles with 16 fraction bits, the CLK_CTL count at which it reached Speedwell, and
the slots that have taken it. -/
structure WedgeRec where
  status : Nat
  track : Int
  pes : Int
  sam : Int
  time : Nat
  taken : Nat
  deriving DecidableEq, Repr

/-- The servo of one disk actuator (R294 to R298). -/
structure ActSt where
  /-- track of the servo head, and the last PES in 1/1024 of the pitch -/
  track : Int
  pes : Int
  /-- consecutive VALID wedges within the write-inhibit limit, and consecutive VALID wedges -/
  inLimit : Nat
  validRun : Nat
  /-- the wedge record last delivered -/
  wrec : Option WedgeRec
  /-- a seek runs toward this track; a following-error fault has come and no settling since -/
  seek : Option Int
  seekRepeated : Bool
  /-- a seek waits for its grant: head and track -/
  seekWaits : Option (Nat × Int)
  /-- reload: 0 none, 1 waiting WAIT_MS, 2 acquiring; attempts made for this retract -/
  reload : Nat
  attempts : Nat
  failed : Bool
  /-- the second head and its residual r in 1/1024 of the pitch (R297) -/
  second : Option Nat
  residual : Int
  deriving DecidableEq, Repr

/-- The control engine. -/
structure CtlSt where
  slots : Store SlotSt
  acts : Store ActSt
  /-- spindle: 0 stopped, 1 spinning up, 2 on wedges, 3 at speed, 4 faulted, 5 coasting -/
  spindle : Nat
  /-- non-VALID wedges in a row at the spindle slot (R293) -/
  spinLost : Nat
  /-- lanes 0 to 4: enabled, the DATA of the last STATUS response, the last SPEED_READ DATA, and the last command frame -/
  laneOn : Store Bool
  laneStatus : Store Nat
  speed : Store Int
  laneFrame : Store Nat
  deriving DecidableEq, Repr

/-- One trace entry: value and CLK_CTL time (R301). -/
structure TraceEntry where
  value : Nat
  time : Nat
  deriving DecidableEq, Repr

/-- The trace unit. -/
structure TrcSt where
  /-- entries of each channel, newest first -/
  chans : Store (List TraceEntry)
  /-- signal of the trigger slot on its previous sample -/
  prev : Option Int
  deriving DecidableEq, Repr

end Sys2Proof.Machine
end

