-- ==== Sys2Proof/Machine/StateGroup.lean ====
section
/-!
DEFINITION. The state of the group side: peer links, packets in flight, the membership record, lead and deputy, and
the redundancy engine with its journal. Plain data throughout.
-/

namespace Sys2Proof.Machine

/-- A packet as its fields (Table 13-3), with the class it travels in (R313). -/
structure Packet where
  type : Nat
  src : Nat
  dst : Nat
  hops : Nat
  epochLo : Nat
  seq : Nat
  vc : Nat
  cls : Nat
  /-- forwarded, not sourced here (R314) -/
  fwd : Bool
  payload : List Byte
  deriving DecidableEq, Repr

/-- A frame in a replay buffer: its LSEQ, its packet and how often it has been retransmitted in succession (R311). -/
structure LinkFrame where
  lseq : Nat
  packet : Packet
  tries : Nat
  deriving DecidableEq, Repr

/-- One peer port beyond its registers (R308 to R314). -/
structure PortSt where
  /-- block lock of lanes 0 and 1 -/
  lock0 : Bool
  lock1 : Bool
  /-- valid sync headers in a row per lane, and invalid ones among the last 64 (as a bit history) -/
  run0 : Nat
  run1 : Nat
  hist0 : Nat
  hist1 : Nat
  /-- INIT with the ready bit has arrived -/
  peerReady : Bool
  nextTx : Nat
  replay : List LinkFrame
  nextRx : Nat
  /-- a NAK has been sent for the gap in progress -/
  nakSent : Bool
  /-- credits held for VC × 2 + class (R313) -/
  credits : List Nat
  /-- packets waiting for the port, oldest first -/
  queue : List Packet
  /-- the weighted round robin's counts for DATA and BULK, and whose turn it is within a VC (R314) -/
  curD : Int
  curB : Int
  turn : Bool
  /-- HELLO received since the port came up -/
  hello : Bool
  deriving DecidableEq, Repr

/-- The membership record of Table 13-6. -/
structure MemRec where
  epoch : Nat
  lead : Nat
  deputy : Nat
  k : Nat
  ring : Nat
  groupId : Nat
  /-- states, 4 bits per id -/
  states : Nat
  /-- UNIQUE_ID by id, unlisted ids 0 -/
  uids : Store Nat
  deriving DecidableEq, Repr

/-- A change the lead is committing (R324): the new record, who still has to answer, and for whom it runs. -/
structure Change where
  mrec : MemRec
  /-- waits for the copy to the new deputy (R332) -/
  copying : Bool
  /-- the deputy's write has been acknowledged -/
  stored : Bool
  /-- the GROUP_ADMIN command that asked, when a host command did -/
  src : Option Src
  /-- the management request that asked: origin member (64 for this device) and tag -/
  mgmt : Option (Nat × Nat)
  deriving DecidableEq, Repr

/-- One link-state view entry (R320). -/
structure View where
  version : Nat
  ports : Nat
  deriving DecidableEq, Repr

/-- A MEMBER_BEAT as last received (R329). -/
structure BeatInfo where
  medium : Nat
  state : Nat
  hostUp : Bool
  ageMs : Nat
  deriving DecidableEq, Repr

/-- One unacknowledged or waiting sequenced packet of a triple (R318). -/
structure Sent where
  packet : Packet
  /-- who is told when it is acknowledged or dropped: a command's source for SEQ_MIRROR, none otherwise -/
  owner : Option Src
  /-- the stripe whose record, directory entry or map update it carries, plus 1; 0 for any other packet -/
  stripe : Nat
  deriving DecidableEq, Repr

/-- A MGMT command a member executes or has executed for the lead (R340). -/
structure MgmtCmd where
  /-- the lead that sent it, and whether it has been told the outcome -/
  lead : Nat
  told : Bool
  tag : Nat
  frame : Frame
  part : Nat
  data : List Byte
  done : Bool
  entry : Nat
  deriving DecidableEq, Repr

/-- A MGMT CMD the lead has sent and that is not done (R340). -/
structure MgmtOut where
  tag : Nat
  target : Nat
  src : Option Src
  frame : List Byte
  part : Nat
  data : List Byte
  deriving DecidableEq, Repr

/-- Groups and peer links. -/
structure GrpSt where
  /-- the four ports by their code, unlisted ones as after reset -/
  ports : Store PortSt
  /-- the two MRAM copies of the record, and which is current -/
  recA : Option MemRec
  recB : Option MemRec
  /-- the record in force -/
  mrec : Option MemRec
  views : Store View
  myVersion : Nat
  /-- packets without a route -/
  routeWait : List Packet
  /-- last SEQ used and unacknowledged packets of each destination × 4 + VC -/
  txSeq : Store Nat
  unacked : Store (List Sent)
  /-- last SEQ taken of each source × 4 + VC -/
  rxSeq : Store Nat
  /-- packets of a newer epoch held back, with the port whose credits they keep, 4 for none (R323) -/
  heldNew : List (Nat × Packet)
  /-- members that have acknowledged the record in force -/
  acked : Nat
  change : Option Change
  /-- changes that wait for the one in progress, oldest first (R122) -/
  changes : List Change
  beats : Store BeatInfo
  /-- ms since the last LEAD_BEAT taken -/
  sinceBeat : Nat
  /-- ids that answered "lost" to the LEAD_QUERY in progress -/
  lostAnswers : Nat
  querying : Bool
  /-- FORM in progress: the command, the named members and the ids that answered -/
  forming : Option (Src × Nat × Nat)
  /-- replies that pass an id assignment on: discovery count seen -/
  probeSent : Bool
  ringSize : Nat
  /-- the lead's copy to a new deputy: the id -/
  copyTo : Option Nat
  /-- management: address (0x1D static), ARP address, tags of forwarded ADMINs and the last 16 MGMT commands -/
  mgmtAddr : Nat
  /-- the MCTP endpoint id, 0 for none -/
  mgmtEid : Nat
  mgmtCmds : List MgmtCmd
  mgmtTag : Nat
  /-- MGMT CMD requests outstanding: tag, target, the host command they serve, the frame, PART and data -/
  mgmtOut : List MgmtOut
  /-- ADMIN requests forwarded to the lead: MGMT tag and the tag of the management request -/
  adminOut : List (Nat × Nat)
  /-- ADMIN requests that wait for the changes ahead of them: origin, tag, BASE_EPOCH and body (R338, R339) -/
  adminQ : List (Nat × Nat × Nat × List Byte)
  deriving DecidableEq, Repr

/-- A journal record (Table 14-4). -/
structure JRec where
  stripe : Nat
  gen : Nat
  state : Nat
  kind : Nat
  k : Nat
  fill : Nat
  target : Nat
  owner : Nat
  members : List Nat
  epochLo : Nat
  slotDone : Nat
  deriving DecidableEq, Repr

/-- A stripe the device owns and has in flight: its record, what it still waits for and its strips (R355). -/
structure StripeSt where
  jrec : JRec
  /-- the strips, or the reads of a rebuild, have been sent -/
  sent : Bool
  /-- the directory entry and the map updates have been sent -/
  told : Bool
  /-- unit ids by data slot -/
  slots : List (List Nat)
  /-- KIND 2: the old stripe that it relocates -/
  old : Option Nat
  /-- slots whose new member gets its strip once the updated record is in force (R357) -/
  resend : List Nat
  deriving DecidableEq, Repr

/-- A strip this device holds: strip index entry (R348), its string and whether it is written and passed. -/
structure Strip where
  stripe : Nat
  gen : Nat
  slot : Nat
  bytes : List Byte
  whole : Bool
  passed : Bool
  /-- the owner that is told when it is passed, and whether it has been told -/
  owner : Nat
  told : Bool
  /-- the units that hold the strip on this device's medium -/
  units : List Nat
  /-- byte ranges that cannot be recovered -/
  erased : List (Nat × Nat)
  deriving DecidableEq, Repr

/-- A stripe directory entry (Table 14-3), or an entry of the owner's copy of it. -/
structure DirEntry where
  stripe : Nat
  gen : Nat
  k : Nat
  fill : Nat
  lost : Nat
  members : List Nat
  deriving DecidableEq, Repr

/-- A landing copy held for the lead (R352). -/
structure RemoteCopy where
  stream : Nat
  seq : Nat
  bytes : List Byte
  /-- all bytes have arrived; the surface it is written on and its units; written; the lead has been told -/
  whole : Bool
  surface : Option Nat
  units : List Nat
  written : Bool
  failed : Bool
  told : Bool
  deriving DecidableEq, Repr

/-- A strip request that waits for its answer (R362). -/
structure StripReq where
  type : Nat
  member : Nat
  stripe : Nat
  slot : Nat
  offset : Nat
  count : Nat
  posMs : Nat
  late : Bool
  /-- the slot that a reconstruction wants, when the request serves one, and what has come for it -/
  want : Option Nat
  got : Option (List Byte × Bool)
  deriving DecidableEq, Repr

/-- A slot that rebuild restores (R365 to R369). -/
structure RebuildItem where
  entry : DirEntry
  slot : Nat
  started : Bool
  /-- per source slot: the bytes so far, the ranges of them that are erased, and whether all have come -/
  sources : List (Nat × List Byte × List (Nat × Nat) × Bool)
  deriving DecidableEq, Repr

/-- The redundancy engine. -/
structure RedSt where
  /-- row entries that differ from the base rows, for the current and the pending layout (R346) -/
  rows : Store (List Nat)
  rowsPending : Store (List Nat)
  eligible : Nat
  eligiblePending : Nat
  /-- layouts as MRAM holds them: current, pending and their k -/
  layout : Nat
  layoutPending : Nat
  k : Nat
  kPending : Nat
  serial : Nat
  own : List JRec
  mirror1 : List JRec
  mirror2 : List JRec
  stripes : List StripeSt
  /-- rows received that the next record puts in force, keyed layout × 4096 + row, and whether it flips the layout -/
  rowsNew : Store (List Nat)
  flipNew : Bool
  /-- the units that wait to be gathered, in commit order, and those of a relocation with their old stripe -/
  gather : List Nat
  /-- holders of each command's landing copies: stream, SEQ and members (R352) -/
  landed : List (Nat × Nat × List Nat)
  /-- landing copies sent whose command has not ended: stream, sequence and member (R43, R352) -/
  copied : List (Nat × Nat × Nat)
  strips : List Strip
  directory : List DirEntry
  remote : List RemoteCopy
  requests : List StripReq
  /-- per member: ms for which it has been slow without a break -/
  slowMs : Store Nat
  rebuild : List RebuildItem
  rebuildTotal : Nat
  rebuildSteps : Nat
  /-- relocation entries: a unit and its place in its new stripe: stripe, slot, position -/
  reloc : List (Nat × Nat × Nat × Nat)
  /-- the admission number at the last flip, while space of the old layout is still held -/
  flipMark : Option Nat
  /-- old stripes left to relocate -/
  relocLeft : List Nat
  /-- members that gave way since the flip, e.g. LEAVING ids waiting -/
  takeover : List Nat
  /-- records of failed owners that have come, and per owner the successors that have not answered yet (R358) -/
  taken : List JRec
  takeWait : Store Nat
  /-- rows in which a device that has come back checks its strip index, with the stripes named so far (R364) -/
  recheck : Store (List Nat)
  /-- successors in force -/
  succ : List Nat
  /-- a successor copy is in progress: the new successor -/
  copyTo : Option Nat
  spareUsed : Nat
  /-- the distributed spare of the layout in force, in percent (R349) -/
  spare : Nat
  shareFloor : Bool
  /-- keys that their home member has answered to be ABSENT -/
  absent : List Nat
  deriving DecidableEq, Repr

end Sys2Proof.Machine
end

