-- ==== Sys2Proof/Machine/StatePower.lean ====
section
/-!
DEFINITION. The state of clocks, supply, thermal sensors, Betony, the memories, management and JTAG beyond their
registers. Plain data throughout.
-/

namespace Sys2Proof.Machine

/-- A request that waits for a grant of Betony (R401). -/
structure Request where
  id : Nat
  prio : Nat
  /-- 0 concurrent write, 1 seek, 2 tape reposition or restart, 3 tape step, 4 admission increase, 5 rebuild share -/
  kind : Nat
  what : Nat
  ageMs : Nat
  deriving DecidableEq, Repr

/-- One temperature sensor beyond its register (R391 to R393). -/
structure Sensor where
  /-- readings of the last 14 s, of sensor 0 of the last 60 s, newest first: time in ms and reading -/
  hist : List (Nat × Int)
  /-- thresholds entered and not left: bit 0 WARN, 1 THROTTLE, 2 SHUTDOWN -/
  entered : Nat
  /-- missed preamp status reads in a row -/
  misses : Nat
  deriving DecidableEq, Repr

/-- Clocks, supply, sensors and Betony. -/
structure PwrSt where
  /-- a 100 ms window: slowings that began in it and halved µs of it -/
  winSlow : Nat
  winHalvedUs : Nat
  /-- halved µs in each of the last 10 ms, newest first (R380) -/
  halved10 : List Nat
  /-- ms since the last slowing began -/
  sinceSlow : Nat
  /-- SAG_SENSE at the last crossing, in mV; ms since the warning crossing -/
  sagMv : Nat
  braceMs : Nat
  /-- the D-mode retract of Table 15-1 is still to come, and the spindle ran when it came -/
  retractDue : Bool
  spinAgain : Bool
  /-- a thermal shutdown holds the POR domain (R398): the sensor -/
  thermalHold : Option Nat
  sensors : Store Sensor
  /-- units admitted in the last ten whole windows, newest first (R396) -/
  admitted : List Nat
  admitNow : Nat
  /-- ms since the throttle last moved from 2 to 0 -/
  sinceRelease : Nat
  requests : List Request
  /-- the correction c of R400 in units of 2^-30 -/
  corr : Nat
  /-- ms for which M has exceeded B and stayed at or below 0.9 B -/
  overMs : Nat
  underMs : Nat
  nextReq : Nat
  /-- the shutdown marker as MRAM holds it (R387) -/
  markState : Nat
  markSensor : Nat
  markDs : Nat
  /-- motor currents by slot as reported to Betony (R300) -/
  currents : Store Nat
  /-- acceleration granted to the actuators' seeks in percent -/
  granted : Store Nat
  deriving DecidableEq, Repr

/-- One stored HBM block: the 36 bytes of each of its eight slices (R405, R406). -/
structure HbmBlock where
  slices : List (List Byte)
  deriving DecidableEq, Repr

/-- One stored SRAM word: 64 data bits, 8 check bits, the address parity bit (R412). -/
structure SramWord where
  data : Nat
  check : Nat
  ap : Bool
  deriving DecidableEq, Repr

/-- A correction table entry: unit, count and the order of its entry (R420). -/
structure CorrEntry where
  unit : Nat
  count : Nat
  born : Nat
  deriving DecidableEq, Repr

/-- The memories. -/
structure MemSt where
  /-- HBM blocks that differ from the initialized block, by block address; whether the memory has been initialized -/
  hbm : Store (Option HbmBlock)
  hbmInit : Bool
  /-- SRAM words that differ from the initialized word, by word address -/
  sram : Store (Option SramWord)
  /-- MRAM words by word address as 144 stored bits; an unlisted word holds zero data -/
  mram : Store Nat
  initEpoch : Nat
  dieFailed : Option Nat
  /-- remap entries as MRAM holds them: HBM block rows, SRAM rows, MRAM words -/
  hbmRemap : List Nat
  sramRemap : List Nat
  mramRemap : List Nat
  /-- correction tables of the three memories -/
  corr : List (List CorrEntry)
  corrClock : Nat
  /-- corrections by slice in the 1 s window, and by memory -/
  winSlices : List Nat
  winCorr : List Nat
  winMask : Nat
  /-- the event of a full remap table has been raised, by memory -/
  fullTold : List Bool
  /-- next scrub unit of SRAM and MRAM, and by memory whether the pass has read every unit -/
  posSram : Nat
  posMram : Nat
  scrubDone : List Bool
  /-- the controller refreshes the stack at the doubled rate (R472) -/
  fastRefresh : Bool
  deriving DecidableEq, Repr

/-- JTAG and the pins that no register shows. -/
structure PinSt where
  /-- the JTAG instruction in force: 0 BYPASS, 1 IDCODE, 2 EXTEST, 3 SAMPLE, 4 fuse programming -/
  jtagInstr : Nat
  /-- the boundary register: the 32 pins of standard 1.8 V CMOS in the order of Table 19-2 (R481) -/
  boundary : Nat
  deriving DecidableEq, Repr

end Sys2Proof.Machine
end

