-- ==== Sys2Proof/Machine/State.lean ====
section
/-!
DEFINITION. The state of the block: the queue of waiting commands, the register file and one record per unit, as plain
data; the fault and refusal types; and the state right after reset.
-/

namespace Sys2Proof.Machine

/-- Why a command stops the block with a fault. No command of this block does: the spec gives every row an effect. -/
inductive Fault where
  /-- raised by nothing; kept so that the type is a closed inductive with a name (safe) -/
  | none
  deriving DecidableEq, Repr

/-- Why a command is refused. -/
inductive Refusal where
  /-- raised by the arms of `exec` that have no meaning yet; no arm does once the model is whole (safe) -/
  | notModelled (mnemonic : String)
  deriving DecidableEq, Repr

/-- `KeySlot` as it is before anything has happened. -/
def KeySlot.init : KeySlot :=
  { loaded := false, keyId := 0, material := [] }

/-- `Regs` as it is before anything has happened. -/
def Regs.init : Regs :=
  { aon := [], por := [], warm := [] }

/-- `HostSt` as it is before anything has happened. -/
def HostSt.init : HostSt :=
  { evtFifo := [], evtSeq := 1, readyOnce := false, perst := false, cfgDone := false, msix := [], cfgSpace := [],
    aerUncA := 0, aerUncB := 0, aerCorA := 0, aerCorB := 0, latch := [], subsys := 0 }

/-- `SqSt` as it is before anything has happened. -/
def SqSt.init : SqSt :=
  { slots := [], cmds := [], held := [], coal := [], curH := 0, curN := 0, curB := 0, winLeft := 0,
    winFresh := false, winShut := false, nextUid := 0, nextAdmit := 0, abortWaits := [] }

/-- `ObjSt` as it is before anything has happened. -/
def ObjSt.init : ObjSt :=
  { seqTab := [], bound := [], objs := [], units := [], nextUnit := 0, keys := [], cursors := [], nonce := 0,
    nonceEnd := 0, ctxs := [], ctxClock := 0, gatherFree := 0, deltas := [], props := [], awaitMaps := 0, deleting := [],
    gone := [] }

/-- `LifeSt` as it is before anything has happened. -/
def LifeSt.init : LifeSt :=
  { count := [], ms := 0, staging := [], medium := [], nextLog := 0 }

/-- `Fuses` as it is before anything has happened. -/
def Fuses.init : Fuses :=
  { keyHash := [], revoked := 0, minSvn := 0, uid := 0, otpRead := false }

/-- `BootSt` as it is before anything has happened. -/
def BootSt.init : BootSt :=
  { nor := [], recA := none, recB := none, fuses := Fuses.init, records := [], when2 := [], servo := [],
    format := [], version := 0, patchWords := [], patchCode := [], writePtr := 0, activation := 0, wdtMs := 0,
    wdtArmed := false, causes := [], norOp := 0, norAddr := 0, norBytes := [] }

/-- `TapeSt` as it is before anything has happened. -/
def TapeSt.init : TapeSt :=
  { present := true, protect := false, header := none, sets := [], onTape := [], gather := [], slot := 0,
    frames := [], rwq := [], awaiting := [], last16 := [], slotFails := [], disturbs := [], writePass := 0,
    session := false, indexSeq := 0, indexNext := 0, stale := false, readAhead := [], readGood := [], written := [], otherSlot := 0, stopStage := 0,
    closedHist := [], slotHist := [], newHist := [], rereads := [] }

/-- `MotSt` as it is before anything has happened. -/
def MotSt.init : MotSt :=
  { moving := false, nonValid := 0, settled := 0, lposFrames := 0, lposBits := 0, reverse := false, lateral := 0,
    widthCorr := 0, quiet := none, stopped := false, repos := false, sinceChange := 0, ramping := false,
    stopMs := 0, stopClosed := 0, loadStage := 0, unload := 0, reacqTries := 0, reacq := false, tension := 0,
    radii := (0, 0), collapsed := false, phase := .none, phaseFrames := 0, seated := false, threaded := false,
    lposKnown := false, turning := false, lateral1 := 0, validRun := 0, locate := none, reading := false,
    vel := 0, frame := 1 }

/-- `DiskSt` as it is before anything has happened. -/
def DiskSt.init : DiskSt :=
  { heads := 0, formatted := false, zones := [], zoneCount := 0, zonesPerSurface := 0, outerZones := 0,
    bands := [], rings := [], mediumId := 0, ztSeq := 0, ztFailed := 0, ztZones := [], ztSeen := [],
    ztRead := false, destage := [], readBacks := [], redo := [], cleaning := [],
    cleanOn := false, badReads := [], acqFails := [], copyFaults := [], lowRings := 0 }

/-- `DetSt` as it is before anything has happened. -/
def DetSt.init : DetSt :=
  { lanes := [], waiting := [], restart := [], cells := [], nextJob := 0, overflow := 0, ladders := [],
    retiredRec := 0 }

/-- `MediumSt` as it is before anything has happened. -/
def MediumSt.init : MediumSt :=
  { state := 0, func := 0, writeFailed := false, stopAfter := false, startAfter := false, prior := 0 }

/-- `ActWra` as it is before anything has happened. -/
def ActWra.init : ActWra :=
  { barred := false, field := none, lastFrame := 0, repeats := 0, resets := 0, allOpen := false,
    wantStatus := false, stopAtRelease := false }

/-- `ChanWra` as it is before anything has happened. -/
def ChanWra.init : ChanWra :=
  { head := 24, writing := false, stopping := false, granted := false }

/-- `HeadLoop` as it is before anything has happened. -/
def HeadLoop.init : HeadLoop :=
  { level := 0, conv := 0, sat := 0, wide := 0, derated := false, faults := [] }

/-- `WraSt` as it is before anything has happened. -/
def WraSt.init : WraSt :=
  { acts := [], chans := [], loops := [], savedLevels := [],
    squelchDue := false, rates := [] }

/-- `SlotSt` as it is before anything has happened. -/
def SlotSt.init : SlotSt :=
  { fb1 := 0, fb2 := 0, x := 0, v := 0, a := 0, tgt := 0, notch := (0, 0, 0, 0), bq1 := (0, 0, 0, 0),
    bq2 := (0, 0, 0, 0), b2Prev := 0, last := none, preset := true, ferrNs := 0, fade := 0, fadeFrom := 0,
    current := 0, stages := List.replicate 8 0, sp := 0, fb := 0, status := 0, lastValid := 0 }

/-- `ActSt` as it is before anything has happened. -/
def ActSt.init : ActSt :=
  { track := 0, pes := 0, inLimit := 0, validRun := 0, wrec := none, seek := none, seekRepeated := false,
    seekWaits := none, reload := 0, attempts := 0, failed := false, second := none, residual := 0 }

/-- `CtlSt` as it is before anything has happened. -/
def CtlSt.init : CtlSt :=
  { slots := [], acts := [], spindle := 0, spinLost := 0,
    laneOn := [], laneStatus := [], speed := [],
    laneFrame := [] }

/-- `TrcSt` as it is before anything has happened. -/
def TrcSt.init : TrcSt :=
  { chans := [], prev := none }

/-- `PortSt` as it is before anything has happened. -/
def PortSt.init : PortSt :=
  { lock0 := false, lock1 := false, run0 := 0, run1 := 0, hist0 := 0, hist1 := 0, peerReady := false, nextTx := 0,
    replay := [], nextRx := 0, nakSent := false, credits := [32, 32, 256, 256, 128, 128], queue := [], curD := 0,
    curB := 0, turn := false, hello := false }

/-- `GrpSt` as it is before anything has happened. -/
def GrpSt.init : GrpSt :=
  { ports := [], recA := none, recB := none, mrec := none, views := [], myVersion := 0,
    routeWait := [], txSeq := [], unacked := [], rxSeq := [], heldNew := [], acked := 0, change := none,
    changes := [], beats := [], sinceBeat := 0, lostAnswers := 0, querying := false, forming := none,
    probeSent := false, ringSize := 0, copyTo := none, mgmtAddr := 0x1D, mgmtEid := 0, mgmtCmds := [],
    mgmtTag := 0, mgmtOut := [], adminOut := [], adminQ := [] }

/-- `RedSt` as it is before anything has happened. -/
def RedSt.init : RedSt :=
  { rows := [], rowsPending := [], eligible := 0, eligiblePending := 0, layout := 0, layoutPending := 0, k := 0,
    kPending := 0, serial := 0, own := [], mirror1 := [], mirror2 := [], stripes := [], rowsNew := [],
    flipNew := false, gather := [], landed := [], copied := [], strips := [], directory := [], remote := [], requests := [],
    slowMs := [], rebuild := [], rebuildTotal := 0, rebuildSteps := 0, reloc := [], flipMark := none,
    relocLeft := [], takeover := [], taken := [], takeWait := [], recheck := [], succ := [], copyTo := none, spareUsed := 0, spare := 0, shareFloor := false,
    absent := [] }

/-- `Sensor` as it is before anything has happened. -/
def Sensor.init : Sensor :=
  { hist := [], entered := 0, misses := 0 }

/-- `PwrSt` as it is before anything has happened. -/
def PwrSt.init : PwrSt :=
  { winSlow := 0, winHalvedUs := 0, halved10 := List.replicate 10 0, sinceSlow := 0xFFFFFFFF, sagMv := 0,
    braceMs := 0, retractDue := false, spinAgain := false, thermalHold := none, sensors := [], admitted := [],
    admitNow := 0, sinceRelease := 0xFFFFFFFF, requests := [], corr := 2 ^ 30, overMs := 0, underMs := 0,
    nextReq := 0, markState := 0, markSensor := 0, markDs := 0, currents := [], granted := [] }

/-- `MemSt` as it is before anything has happened. -/
def MemSt.init : MemSt :=
  { hbm := [], hbmInit := false, sram := [], mram := [], initEpoch := 0, dieFailed := none, hbmRemap := [],
    sramRemap := [], mramRemap := [], corr := [[], [], []], corrClock := 0, winSlices := List.replicate 8 0,
    winCorr := [0, 0, 0], winMask := 0, fullTold := [false, false, false], posSram := 0, posMram := 0,
    scrubDone := [false, false, false], fastRefresh := false }

/-- `PinSt` as it is before anything has happened. -/
def PinSt.init : PinSt :=
  { jtagInstr := 1, boundary := 0 }

/-- `LaneSt` as it is before anything has happened. -/
def LaneSt.init : LaneSt :=
  { ring := 0, lastSums := [], lastIndex := 0, lastTrack := 0, nco := 0, inc := 0, integ := 0, vga := 0, gain := 0, taps := [],
    ctf := 0 }

/-- `Ring` as it is before anything has happened. -/
def Ring.init : Ring :=
  { size := 0, next := 0, life := 0, held := [], defects := [], primary := [] }

/-- `Zone` as it is before anything has happened. -/
def Zone.init : Zone :=
  { state := 0, track := 0, wp := 0, life := 0, content := [], primary := [], grown := [], tracks := [],
    readBack := 0, retire := false }

/-- `SeqEntry` as it is before anything has happened. -/
def SeqEntry.init : SeqEntry :=
  { lastSeq := 0, gen := 0, state := 0, unknown := false }

/-- `Msix` as it is before anything has happened. -/
def Msix.init : Msix :=
  { addr := 0, data := 0, masked := true, pend := false }

/-- A task slot in IDLE. -/
def Slot.init : Slot := { state := .idle, buf := 0, byActivation := false }

/-- The whole state. -/
structure State where
  /-- commands that wait, first in, first out -/
  pending : List Instr
  /-- what has left the device, newest first -/
  out : List Output
  /-- the model's own counter for free values (log entry 2) -/
  free : Nat
  /-- the register file -/
  regs : Regs
  /-- host link and event FIFO -/
  host : HostSt
  /-- stream and queue engine -/
  sq : SqSt
  /-- object map, sequence table, keys and Tansy -/
  obj : ObjSt
  /-- lifetime counters and log -/
  life : LifeSt
  /-- start-up, flash and images -/
  boot : BootSt
  /-- tape formatter and cartridge -/
  tape : TapeSt
  /-- tape motion -/
  mot : MotSt
  /-- disk zones and landing rings -/
  disk : DiskSt
  /-- lanes and Sorrel -/
  det : DetSt
  /-- medium state -/
  medium : MediumSt
  /-- write path and assist -/
  wra : WraSt
  /-- Speedwell -/
  ctl : CtlSt
  /-- trace unit -/
  trc : TrcSt
  /-- groups and peer links -/
  grp : GrpSt
  /-- redundancy engine and journal -/
  red : RedSt
  /-- clocks, supply, sensors and Betony -/
  pwr : PwrSt
  /-- memories -/
  mem : MemSt
  /-- JTAG and pins -/
  pins : PinSt
  deriving DecidableEq, Repr

/-- The machine right after reset: the always-on supply has come up, every register field holds its reset value, and
start-up has not run (R9, R10; log entry 3). -/
def State.reset : State :=
  { pending := [], out := [], free := 0, regs := Regs.init,
    host := HostSt.init, sq := SqSt.init, obj := ObjSt.init, life := LifeSt.init, boot := BootSt.init, tape := TapeSt.init,
    mot := MotSt.init, disk := DiskSt.init, det := DetSt.init, medium := MediumSt.init, wra := WraSt.init, ctl := CtlSt.init,
    trc := TrcSt.init, grp := GrpSt.init, red := RedSt.init, pwr := PwrSt.init, mem := MemSt.init, pins := PinSt.init }

end Sys2Proof.Machine
end

