-- ==== Sys2Proof/Machine/Ops.lean ====
section
/-!
DEFINITION. The named operations over the state: register fields, what leaves the device, MSI-X, the event FIFO, the
log and the lifetime counters. Every meaning is written over these.
-/

namespace Sys2Proof.Machine

/-! ## Register fields (R6, R9) -/

/-- The table of a reset domain. -/
def Regs.dom (r : Regs) : Domain → Store Nat
  | .aon => r.aon
  | .por => r.por
  | .warm => r.warm

/-- The register file with the table of a domain replaced. -/
def Regs.setDom (r : Regs) (d : Domain) (t : Store Nat) : Regs :=
  match d with
  | .aon => { r with aon := t }
  | .por => { r with por := t }
  | .warm => { r with warm := t }

/-- The stored value of field `f` at indices `i`, `j`. -/
def State.fget (s : State) (f : Field) (i j : Nat) : Nat :=
  Store.get (f.resetAt i j) (s.regs.dom f.dom) (f.key i j)

/-- Field `f` at indices `i`, `j` set to `v`, cut to the field's width, which no register makes wider than 32 bits. -/
def State.fset (s : State) (f : Field) (i j v : Nat) : State :=
  let t := Store.put (f.resetAt i j) (s.regs.dom f.dom) (f.key i j) (v % 2 ^ Nat.min f.w 32)
  { s with regs := s.regs.setDom f.dom t }

/-- The value of an unindexed field. -/
abbrev State.rd (s : State) (f : Field) : Nat := s.fget f 0 0

/-- The value of a field at one index. -/
abbrev State.rdi (s : State) (f : Field) (i : Nat) : Nat := s.fget f i 0

/-- An unindexed field written by the device. -/
abbrev State.wr (s : State) (f : Field) (v : Nat) : State := s.fset f 0 0 v

/-- A field at one index written by the device. -/
abbrev State.wri (s : State) (f : Field) (i v : Nat) : State := s.fset f i 0 v

/-- A one-bit field as a Boolean. -/
abbrev State.on (s : State) (f : Field) : Bool := s.rd f != 0

/-- A counter field advanced by `n`; it saturates at its maximum (R452). -/
def State.addi (s : State) (f : Field) (i n : Nat) : State :=
  s.wri f i (Nat.min (s.rdi f i + n) (2 ^ f.w - 1))

/-- A counter field advanced by 1. -/
abbrev State.inc (s : State) (f : Field) : State := s.addi f 0 1

/-- A counter field at one index advanced by 1. -/
abbrev State.inci (s : State) (f : Field) (i : Nat) : State := s.addi f i 1

/-- Bit `b` of an unindexed field set. -/
abbrev State.raiseBit (s : State) (f : Field) (b : Nat) : State := s.wr f (setBit (s.rd f) b)

/-- Bit `b` of an unindexed field set to a level. -/
def State.putBit (s : State) (f : Field) (b : Nat) (v : Bool) : State :=
  s.wr f (if v then setBit (s.rd f) b else clrBit (s.rd f) b)

/-- A 64-bit count held in a latched pair, advanced by `n` modulo 2^64. -/
def State.add64 (s : State) (lo hi : Field) (n : Nat) : State :=
  let v := s.rd lo + s.rd hi * 2 ^ 32 + n
  (s.wr lo (v % 2 ^ 32)).wr hi (v / 2 ^ 32 % 2 ^ 32)

/-! ## What leaves the device -/

/-- Record something that leaves the device. -/
def State.emit (s : State) (o : Output) : State := { s with out := o :: s.out }

/-- A fresh value of the free counter. -/
def State.tickFree (s : State) : State := { s with free := s.free + 1 }

/-- The key of a configuration word in the table of written words. -/
def cfgKey (port : Bool) (reg : Nat) : Nat := b2n port * 1024 + reg

/-- Where the power management, MSI-X and PCIe capabilities begin in configuration space: one after the other from a
place that the spec does not give (R49; log entry 21). -/
def pmReg : Nat := 16 + Config.capReg.toNat % 28
def msixReg : Nat := pmReg + 2
def pcieReg : Nat := pmReg + 5

/-- Function Mask and Enable of a port's MSI-X Message Control, bits 0 and 1. -/
def State.msixCtl (s : State) (port : Bool) : Nat := Store.get 0 s.host.cfgSpace (cfgKey port msixReg) / 2 ^ 30

/-- Signal a vector of a port: the message leaves, or its pending bit is set while the vector or the function is masked;
nothing leaves while MSI-X is not enabled (R59; log entry 67). -/
def State.signal (s : State) (port : Bool) (v : Nat) : State :=
  let k := b2n port * 128 + v
  let m := Store.get Msix.init s.host.msix k
  if s.msixCtl port < 2 then s
  else if m.masked || s.msixCtl port != 2 then
    { s with host := { s.host with msix := Store.put Msix.init s.host.msix k { m with pend := true } } }
  else s.emit (.msix port v m.addr m.data)

/-! ## The log (R127) -/

/-- Events of these types produce a log entry (R72, R127). The spec names no other type that does: DESIGN CHOICE (log
entry 68). -/
def loggedType (t : Nat) : Bool := t = 3 || t = 8 || t = 9

/-- Drop the first entry that `p` holds for. -/
def dropFirst {α : Type} (p : α → Bool) : List α → List α
  | [] => []
  | a :: t => if p a then t else a :: dropFirst p t

/-- Room in the staging ring for one more entry: at 4,096 uncopied entries the oldest of an unlogged type goes, or
the oldest of all. -/
def stagingRoom (l : List LogEntry) : List LogEntry :=
  if l.length < 4096 then l
  else if l.any (fun e => !loggedType e.type) then dropFirst (fun e => !loggedType e.type) l
  else l.drop 1

/-- The epoch in force; 0 in solo (R44). -/
def State.epoch (s : State) : Nat := (s.grp.mrec.map (·.epoch)).getD 0

/-- Write a log entry to the staging ring. -/
def State.log (s : State) (type source code arg key detail : Nat) : State :=
  let e : LogEntry :=
    { seq := s.life.nextLog + 1, time := s.life.ms, type := type, source := source, code := code,
      arg := arg, key := key, epoch := s.epoch, detail := detail }
  { s with life := { s.life with staging := stagingRoom s.life.staging ++ [e], nextLog := s.life.nextLog + 1 } }

/-! ## The trace trigger (R301, R302) -/

/-- The trace unit enters TRIGGERED; each enabled channel keeps its last PRE entries. A trigger outside ARMED is
ignored. -/
def State.trcTrigger (s : State) : State :=
  if s.rd F.TRC_STATUS_STATE = 1 then
    let pre := s.rd F.TRC_PRE_COUNT
    let chans := s.trc.chans.filterMap (fun p => let l := p.2.take pre; if l.isEmpty then none else some (p.1, l))
    let s := { s with trc := { s.trc with chans := chans } }
    let s := (List.range 16).foldl (fun s c =>
      let n := (Store.get [] s.trc.chans c).length
      (s.wri F.TRC_CH_COUNT_COUNT c n).wri F.TRC_CH_TRIG_INDEX c n) s
    s.wr F.TRC_STATUS_STATE 2
  else s

/-! ## The event FIFO (R70 to R72, R460) -/

/-- The dual-port configuration is in force (Table 03-2). -/
def State.dual (s : State) : Bool := s.rd F.HIF_LINK_CFG_PORTS = 3

/-- The port through which the event FIFO is read; in single-port configurations always port A (R54). -/
def State.evtPort (s : State) : Bool := s.dual && s.on F.HIF_LINK_CFG_EVT_PORT

/-- The SEQ after `n` (R70). -/
def nextEvtSeq (n : Nat) : Nat := if n = 0xFFFFFFFF then 1 else n + 1

/-- Put an item in the last place of the event FIFO; an empty FIFO signals vector 64 through EVT_PORT (R60). -/
def State.pushEvt (s : State) (type source code arg : Nat) : State :=
  let it : EvtItem := { type := type, source := source, code := code, seq := s.host.evtSeq, arg := arg }
  let first := s.host.evtFifo.isEmpty
  let s := { s with host := { s.host with evtFifo := s.host.evtFifo ++ [it], evtSeq := nextEvtSeq s.host.evtSeq } }
  if first then s.signal s.evtPort 64 else s

/-- Count an event of type `t` (R460). -/
def State.countEvt (s : State) (t : Nat) : State :=
  (s.inci F.GLB_EVT_COUNT_COUNT (t - 1)).raiseBit F.GLB_EVT_SEEN_TYPES (t - 1)

/-- Enqueue the item of an event, or the overflow item in the last place, or count the event as lost (R72). The overflow
item's SOURCE and CODE are 0: DESIGN CHOICE, the spec gives its TYPE and ARG only (log entry 68). -/
def State.enqueueEvt (s : State) (type source code arg : Nat) : State :=
  if s.host.evtFifo.length < 4095 then s.pushEvt type source code arg
  else if s.host.evtFifo.length = 4095 then
    ((s.pushEvt 15 0 0 0).wr F.HIF_EVT_STATUS_OVERFLOW 1).countEvt 15
  else s.inc F.HIF_EVT_LOST_COUNT

/-- The device raises an event: the log entry first where its type has one, the counts, the item, and a trace trigger
of kind 3 (R72, R127, R302, R460). -/
def State.raiseFor (s : State) (type source code arg key detail : Nat) : State :=
  let s := if loggedType type then s.log type source code arg key detail else s
  let s := (s.countEvt type).enqueueEvt type source code arg
  if type = 7 && s.rd F.TRC_TRIG_CFG_KIND = 3 && s.rd F.TRC_TRIG_CFG_CODE = code then s.trcTrigger else s

/-- An event with no object key and no detail. -/
abbrev State.raise (s : State) (type source code arg : Nat) : State := s.raiseFor type source code arg 0 0

/-! ## Lifetime counters (R126, R128) -/

/-- The threshold of the counter at `off` of Table 05-13. -/
def State.healthThr (s : State) (off : Nat) : Nat :=
  let n := (off - 24) / 8
  s.rdi F.BOOT_HEALTH_THR_LO_COUNT n + s.rdi F.BOOT_HEALTH_THR_HI_COUNT n * 2 ^ 32

/-- The events of Table 05-15 for a lifetime counter that goes from `old` to `new` (R128). -/
def State.lifeStep (s : State) (off old new : Nat) : State :=
  let thr := s.healthThr off
  let s := if thr != 2 ^ 64 - 1 && old < thr && thr ≤ new then s.raise 0xB 0 0x001 off else s
  let s := if off = 80 && old < s.rd F.BOOT_WEAR_LIMIT_REPAIRED && s.rd F.BOOT_WEAR_LIMIT_REPAIRED ≤ new then
      s.raise 0xB 0 0x002 new else s
  if old < 2 ^ 64 - 1 && new = 2 ^ 64 - 1 then s.raise 0xB 0 0x003 off else s

/-- A lifetime counter advanced by `n`: it saturates, and its events are raised. -/
def State.lifeAdd (s : State) (off n : Nat) : State :=
  let old := Store.get 0 s.life.count off
  let new := Nat.min (old + n) (2 ^ 64 - 1)
  ({ s with life := { s.life with count := Store.put 0 s.life.count off new } } : State).lifeStep off old new

/-! ## Personality and roles -/

/-- T-mode is in force (R28). -/
def State.tMode (s : State) : Bool := s.rd F.GLB_CONFIG_MODE = 1

/-- D-mode is in force (R28). -/
def State.dMode (s : State) : Bool := s.rd F.GLB_CONFIG_MODE = 2

/-- The device belongs to a group: it holds a record that names it present (R322). -/
def State.inGroup (s : State) : Bool := s.grp.mrec.isSome

/-- The member id; 0 in solo. -/
def State.myId (s : State) : Nat := s.rd F.GRP_STATUS_ID

/-- The device is the lead of its group. -/
def State.isLead (s : State) : Bool :=
  match s.grp.mrec with
  | some r => r.lead = s.myId && !s.on F.GRP_STATUS_ISOLATED
  | none => false

/-- The device is the deputy of its group. -/
def State.isDeputy (s : State) : Bool :=
  match s.grp.mrec with
  | some r => r.deputy = s.myId
  | none => false

/-! ## Requests for grants (R22, R401) -/

/-- A request of the same kind for the same thing waits already. -/
def State.asked (s : State) (kind what : Nat) : Bool :=
  s.pwr.requests.any (fun r => r.kind = kind && r.what = what)

/-- Enter a request for a grant, once for each kind and thing. Kinds and things: 0 a write, channel + 4 × head; 1 a seek,
the actuator; 2 the tape, 0 reposition after a disturbance and 1 restart; 3 a higher tape step; 4 admission; 5 rebuild
share. -/
def State.ask (s : State) (kind what prio : Nat) : State :=
  if s.asked kind what then s
  else
    let r : Request := { id := s.pwr.nextReq, prio := prio, kind := kind, what := what, ageMs := 0 }
    { s with pwr := { s.pwr with requests := s.pwr.requests ++ [r], nextReq := s.pwr.nextReq + 1 } }

/-- Withdraw a request whose cause has ended. -/
def State.unask (s : State) (kind what : Nat) : State :=
  { s with pwr := { s.pwr with requests := s.pwr.requests.filter (fun r => !(r.kind = kind && r.what = what)) } }

/-! ## Landing rings (R217) -/

/-- Release the held positions that `p` holds for; a position is free for reuse once every position before it in ring
order has been released. -/
def Ring.release (r : Ring) (p : LandPos → Bool) : Ring :=
  { r with held := (r.held.map (fun h => if p h then { h with released := true } else h)).dropWhile (fun h => h.released) }

/-- The positions a ring holds when every one is free, its defects excluded (R220). -/
def Ring.usable (r : Ring) : Nat := r.size - r.defects.length

/-- Free landing positions of a ring. -/
def Ring.free (r : Ring) : Nat := r.usable - r.held.length

/-- The free share of a ring in percent. -/
def Ring.freePct (r : Ring) : Nat := if r.usable = 0 then 0 else r.free * 100 / r.usable

/-- Positions of a ring not yet released. -/
def Ring.heldNow (r : Ring) : Nat := r.held.countP (fun h => !h.released)

/-! ## HRDY (R66) and the ingest FIFO level (R62, R63) -/

/-- The level driven on HRDY. -/
def State.hrdy (s : State) : Bool :=
  s.on F.HIF_STATUS_READY && !s.on F.HIF_ING_LEVEL_HIGH_STATE && !s.host.perst

/-- Set the ingest occupancy and follow the hysteresis of R62: a sticky bit that goes from 0 to 1 enqueues an item. -/
def State.setIngest (s : State) (n : Nat) : State :=
  let s := s.wr F.HIF_ING_LEVEL_ENTRIES n
  let s := if n = 65536 then s.wr F.HIF_ING_EVENT_FULL_HIT 1 else s
  if !s.on F.HIF_ING_LEVEL_HIGH_STATE && n > s.rd F.HIF_ING_WM_HIGH then
    let s := s.wr F.HIF_ING_LEVEL_HIGH_STATE 1
    if s.on F.HIF_ING_EVENT_CROSS_HIGH then s else (s.wr F.HIF_ING_EVENT_CROSS_HIGH 1).raise 2 0 0x001 0
  else if s.on F.HIF_ING_LEVEL_HIGH_STATE && n < s.rd F.HIF_ING_WM_LOW then
    let s := s.wr F.HIF_ING_LEVEL_HIGH_STATE 0
    if s.on F.HIF_ING_EVENT_CROSS_LOW then s else (s.wr F.HIF_ING_EVENT_CROSS_LOW 1).raise 2 0 0x002 0
  else s

/-- A command whose record is in one of the 16 compression engines, and a GET that has one of the 8 decompression engines
(R149). -/
def Cmd.compresses (c : Cmd) : Bool := c.pack.isSome && !c.encoded
def Cmd.decompresses (c : Cmd) : Bool := c.stage = .started && c.frame.opcode = 0x10

end Sys2Proof.Machine
end

