-- ==== Sys2Proof/Machine/Complete.lean ====
section
/-!
DEFINITION. Submission errors, completion rings, held completions and the end of a command (R88 to R94, R97, R485).
-/

namespace Sys2Proof.Machine

/-- Status codes of Table 05-4. -/
def stSuccess : Nat := 0x0000
def stOpcodePath : Nat := 0x1001
def stStreamMismatch : Nat := 0x1002
def stSeqGap : Nat := 0x1003
def stDescLength : Nat := 0x1004
def stInvalidField : Nat := 0x1005
def stLengthRange : Nat := 0x1006
def stBadOffset : Nat := 0x1007
def stWrongKey : Nat := 0x1008
def stCrcMismatch : Nat := 0x1009
def stKeyInvalid : Nat := 0x100A
def stImageInvalid : Nat := 0x100B
def stDmaPoisoned : Nat := 0x100C
def stDmaRejected : Nat := 0x100D
def stDmaTimeout : Nat := 0x100E
def stStateConflict : Nat := 0x2001
def stNotFound : Nat := 0x2002
def stFlushed : Nat := 0x2003
def stRequeue : Nat := 0x2004
def stAborted : Nat := 0x2005
def stAbortTooLate : Nat := 0x2006
def stObjectLost : Nat := 0x3001
def stObjectCrc : Nat := 0x3002
def stWriteFailed : Nat := 0x3003
def stMotionFault : Nat := 0x3004
def stNoPlacement : Nat := 0x4001
def stMemberUnreachable : Nat := 0x4002
def stGroupSize : Nat := 0x4003
def stEpochStale : Nat := 0x4004
def stMediaFull : Nat := 0x5001
def stMapFull : Nat := 0x5002
def stIntegrity : Nat := 0x5003

/-- SQ sets the error bit of field `f` and records the entity in `SQ.ERR_SOURCE` (R485, Table 04-14). -/
def State.sqErr (s : State) (f : Field) (kind id : Nat) : State :=
  (((s.wr f 1).wr F.SQ_ERR_SOURCE_ID (if kind = 3 then 0 else id)).wr F.SQ_ERR_SOURCE_BIT f.lo).wr
    F.SQ_ERR_SOURCE_KIND kind

/-- The port a bound ring or queue field names; in single-port configurations always port A. -/
def State.boundPort (s : State) (v : Nat) : Bool := s.dual && v != 0

/-- The number of entries of ring `r`. -/
def State.ringSize (s : State) (r : Nat) : Nat := 2 ^ s.rdi F.SQ_CR_CFG_SIZE_LOG2 r

/-- Ring `r` is full (R91). -/
def State.ringFull (s : State) (r : Nat) : Bool :=
  (s.rdi F.SQ_CR_STATE_TAIL r + 1) % s.ringSize r = s.rdi F.SQ_CR_STATE_HEAD r

/-- The base address of ring `r`. -/
def State.ringBase (s : State) (r : Nat) : Nat :=
  s.rdi F.SQ_CR_BASE_LO_ADDR_LO r * 2 ^ 12 + s.rdi F.SQ_CR_BASE_HI_ADDR_HI r * 2 ^ 32

/-- How many completions ring `r` holds under R92. -/
def State.heldCount (s : State) (r : Nat) : Nat := s.sq.held.countP (fun c => c.ring = r)

/-- The SOURCE field and the SRC flag of a completion that shows stream id `sid` (Table 04-4). -/
def Src.field (sid : Nat) : Src → Nat × Bool
  | .slot _ => (sid, false)
  | .tag q t => (t.toNat + q.toNat * 256, true)
  | .mgmt _ => (0, false)

/-- The stream of a task slot; 0 for a tag. -/
def Src.stream : Src → Nat
  | .slot st => st.toNat
  | .tag _ _ => 0
  | .mgmt _ => 0

/-- The 32 B of a completion entry as a number (Table 04-4). -/
def Completion.entry (c : Completion) (phase advisory held : Bool) : Nat :=
  let flags := b2n phase + b2n c.replayed * 2 + b2n advisory * 4 + b2n (c.src.field c.sid).2 * 8 + b2n held * 16
  c.result % 2 ^ 64 + c.seq * 2 ^ 64 + (c.src.field c.sid).1 * 2 ^ 96 + c.status * 2 ^ 128 + flags * 2 ^ 144 +
    c.aux % 2 ^ 64 * 2 ^ 192

/-- The command came from a host. -/
def Src.host : Src → Bool
  | .mgmt _ => false
  | _ => true

/-- The slot of stream `n`. -/
def State.slot (s : State) (n : Nat) : Slot := Store.get Slot.init s.sq.slots n

/-- The slot of stream `n` replaced. -/
def State.setSlot (s : State) (n : Nat) (v : Slot) : State :=
  { s with sq := { s.sq with slots := Store.put Slot.init s.sq.slots n v } }

/-- The slot or tag of a source is free again once its completion is written (R77, R81, R99). -/
def State.release (s : State) (src : Src) (zero : Bool) : State :=
  match src with
  | .slot st =>
    let sl := s.slot st.toNat
    s.setSlot st.toNat { state := .idle, buf := if zero then 0 else sl.buf, byActivation := false }
  | .tag q t => s.wri F.SQ_TQ_BUSY_TAGS q.toNat (clrBit (s.rdi F.SQ_TQ_BUSY_TAGS q.toNat) t.toNat)
  | .mgmt _ => s

/-- The member-local part of a lead's command is done: the member keeps its completion entry, SOURCE and FLAGS 0, and
sends it (R340). -/
def State.mgmtDone (s : State) (tag : Nat) (c : Completion) : State :=
  let e := c.result % 2 ^ 64 + c.seq * 2 ^ 64 + c.status * 2 ^ 128 + c.aux % 2 ^ 64 * 2 ^ 192
  { s with grp := { s.grp with mgmtCmds := s.grp.mgmtCmds.map (fun m =>
    if m.tag = tag && !m.done then { m with done := true, entry := e } else m) } }

/-- Count an entry posted to ring `r`; at COUNT entries the vector leaves (R94). -/
def State.coalesce (s : State) (r : Nat) : State :=
  let n := Store.get 0 s.sq.coal r + 1
  if n ≥ Nat.max 1 (s.rdi F.SQ_CR_COAL_COUNT r) then
    let s := { s with sq := { s.sq with coal := Store.put 0 s.sq.coal r 0 } }
    s.signal (s.boundPort (s.rdi F.SQ_CR_CFG_PORT r)) r
  else { s with sq := { s.sq with coal := Store.put 0 s.sq.coal r n } }

/-- Write a completion into the tail entry of its ring by one posted write to host memory, advance the tail and release
the slot or tag (R88, R89). -/
def State.writeEntry (s : State) (c : Completion) (held : Bool) : State :=
  let r := c.ring
  let tail := s.rdi F.SQ_CR_STATE_TAIL r
  let phase := s.rdi F.SQ_CR_HELD_PHASE r
  let port := s.boundPort (s.rdi F.SQ_CR_CFG_PORT r)
  let s := s.emit (.completion port r tail (s.ringBase r + 32 * tail)
    (c.entry (phase != 0) (s.rd F.SQ_THROTTLE_STATE != 0) held))
  let s := if tail + 1 = s.ringSize r then
      (s.wri F.SQ_CR_STATE_TAIL r 0).wri F.SQ_CR_HELD_PHASE r (1 - phase)
    else s.wri F.SQ_CR_STATE_TAIL r (tail + 1)
  (s.release c.src c.zeroSlot).coalesce r

/-- A completion that has become ready is posted, or held while its ring is full or holds another (R91, R92). -/
def State.postRaw (s : State) (c : Completion) : State :=
  match c.src with
  | .mgmt tag => s.mgmtDone tag.toNat c
  | _ =>
    if s.ringFull c.ring || s.heldCount c.ring > 0 then { s with sq := { s.sq with held := s.sq.held ++ [c] } }
    else s.writeEntry c false

/-- The completion of a command. -/
def Cmd.completion (c : Cmd) (status result aux : Nat) (replayed : Bool) : Completion :=
  { src := c.src, sid := c.src.stream, port := c.port, ring := c.ring, status := status, seq := c.frame.seq, result := result, aux := aux,
    replayed := replayed, zeroSlot := false }

/-- Remove a command from the commands the device holds. -/
def State.dropCmd (s : State) (uid : Nat) : State :=
  { s with sq := { s.sq with cmds := s.sq.cmds.filter (fun c => c.uid ≠ uid) } }

/-- The commands the device holds for a source: one at most. -/
def State.cmdOf (s : State) (src : Src) : Option Cmd := s.sq.cmds.find? (fun c => c.src = src)

/-- The command with a given uid. -/
def State.cmdByUid (s : State) (uid : Nat) : Option Cmd := s.sq.cmds.find? (fun c => c.uid = uid)

/-- A command replaced by its new version. -/
def State.setCmd (s : State) (c : Cmd) : State :=
  { s with sq := { s.sq with cmds := s.sq.cmds.map (fun d => if d.uid = c.uid then c else d) } }

/-- Once the ABORTED completion of `src` has been written, each ABORT that waited for it completes with success
(R97). -/
def State.resolveAborts (s : State) (src : Src) : State :=
  let due := s.sq.abortWaits.filter (fun p => p.2 = src)
  let s := { s with sq := { s.sq with abortWaits := s.sq.abortWaits.filter (fun p => p.2 ≠ src) } }
  due.foldl (fun s p =>
    match s.cmdOf p.1 with
    | some a => (s.dropCmd a.uid).postRaw (a.completion stSuccess 0 0 false)
    | none => s) s

/-- Post a completion and let the ABORTs that waited for it complete. -/
def State.post (s : State) (c : Completion) : State :=
  let before := s.sq.held.length
  let s := s.postRaw c
  if s.sq.held.length = before then s.resolveAborts c.src else s

/-- A stage at or past admission. -/
def Stage.isAdmitted : Stage → Bool
  | .fetching => false
  | .ready => false
  | _ => true

/-- A BARRIER that waits can complete: nothing admitted before it is left (R41). -/
def State.barrierDone (s : State) (b : Cmd) : Bool :=
  !s.sq.cmds.any (fun c => c.stage.isAdmitted && c.admitNo < b.admitNo)

/-- A FLUSH that waits can complete: none of the commands it found started is left (R98). -/
def State.flushDone (s : State) (f : Cmd) : Bool := !s.sq.cmds.any (fun c => f.waitFor.contains c.uid)

/-- A waiting BARRIER or FLUSH that can complete. -/
def State.settleable (s : State) (c : Cmd) : Bool :=
  c.stage = .started && ((c.frame.opcode = 0x20 && s.barrierDone c) || (c.frame.opcode = 0x21 && s.flushDone c))

/-- Complete every waiting BARRIER and FLUSH that can complete, in order of admission; `fuel` bounds their number. -/
def State.settle : Nat → State → State
  | 0, s => s
  | fuel + 1, s =>
    match s.sq.cmds.find? (fun c => s.settleable c) with
    | some c => State.settle fuel ((s.dropCmd c.uid).post (c.completion stSuccess c.res 0 false))
    | none => s

/-- The occupancy of the ingest FIFO follows the data that stands in it (R61, R62). -/
def State.syncIngest (s : State) : State :=
  s.setIngest (s.sq.cmds.map (fun c => ceilDiv c.fifo 32)).sum

/-- End a command: it leaves the device's hands, its completion becomes ready, and what waited for it goes on. -/
def State.finishWith (s : State) (c : Cmd) (status result aux : Nat) (replayed : Bool) : State :=
  let s := ((s.dropCmd c.uid).syncIngest).post (c.completion status result aux replayed)
  State.settle s.sq.cmds.length s

/-- End a command with a status, RESULT and AUX. -/
abbrev State.finish (s : State) (c : Cmd) (status result aux : Nat) : State := s.finishWith c status result aux false

/-- End a command with a status alone. -/
abbrev State.fail (s : State) (c : Cmd) (status : Nat) : State := s.finishWith c status 0 0 false

/-- End a command with STATE_CONFLICT: the state code in RESULT, the entity kind and its state in AUX (R106). -/
abbrev State.conflict (s : State) (c : Cmd) (code kind st : Nat) : State :=
  s.finishWith c stStateConflict code (kind * 256 + st) false

/-- Held completions of ring `r` are posted, oldest first, while it has room (R92). -/
def State.drainHeld : Nat → Nat → State → State
  | 0, _, s => s
  | fuel + 1, r, s =>
    if s.ringFull r then s
    else
      match s.sq.held.find? (fun c => c.ring = r) with
      | none => s
      | some c =>
        let s := { s with sq := { s.sq with held := dropFirst (fun d => d.ring = r) s.sq.held } }
        let s := (s.writeEntry c true).resolveAborts c.src
        State.drainHeld fuel r s

end Sys2Proof.Machine
end

