-- ==== Sys2Proof/Machine/Codes.lean ====
section
/-!
DEFINITION. The check codes of the spec as plain functions: CRC-64 (R16, R101), CRC-32C, CRC-24, CRC-16 and CRC-8,
the field GF(2^8) of polynomial 0x11D, the P and Q of a stripe (R343, R344), and the outer code RS(192,176) of a tape
data set (R157, R158).
-/

namespace Sys2Proof.Machine

/-- One bit step of a most-significant-bit-first CRC register of width `w`. -/
def crcStep (w poly c : Nat) : Nat :=
  let sh := c * 2 % 2 ^ w
  if bitAt c (w - 1) then Nat.xor sh poly else sh

/-- `n` bit steps. -/
def crcSteps (w poly : Nat) : Nat → Nat → Nat
  | 0, c => c
  | n + 1, c => crcSteps w poly n (crcStep w poly c)

/-- A most-significant-bit-first CRC over bytes, from the register value `c`, no reflection. -/
def crcMsb (w poly : Nat) : Nat → List Byte → Nat
  | c, [] => c
  | c, b :: t => crcMsb w poly (crcSteps w poly 8 (Nat.xor c (b.toNat * 2 ^ (w - 8)))) t

/-- One bit step of a reflected CRC register. -/
def crcRefStep (poly c : Nat) : Nat := if c % 2 = 1 then Nat.xor (c / 2) poly else c / 2

/-- `n` reflected bit steps. -/
def crcRefSteps (poly : Nat) : Nat → Nat → Nat
  | 0, c => c
  | n + 1, c => crcRefSteps poly n (crcRefStep poly c)

/-- A reflected CRC over bytes, from the register value `c`. -/
def crcRef (poly : Nat) : Nat → List Byte → Nat
  | c, [] => c
  | c, b :: t => crcRef poly (crcRefSteps poly 8 (Nat.xor c b.toNat)) t

/-- CRC-64 with the ECMA-182 polynomial, initial value 0, no reflection, no final inversion (R16, R101). -/
def crc64 (bs : List Byte) : Nat := crcMsb 64 0x42F0E1EBA9EA3693 0 bs

/-- CRC-64 continued from an earlier value, for an object that grows (R101). -/
def crc64From (c : Nat) (bs : List Byte) : Nat := crcMsb 64 0x42F0E1EBA9EA3693 c bs

/-- CRC-32C (Castagnoli), reflected, initial and final value all ones. -/
def crc32c (bs : List Byte) : Nat := Nat.xor (crcRef 0x82F63B78 0xFFFFFFFF bs) 0xFFFFFFFF

/-- CRC-24 with polynomial 0x864CFB and initial value 0xB704CE (the HBM block's detection code). -/
def crc24 (bs : List Byte) : Nat := crcMsb 24 0x864CFB 0xB704CE bs

/-- CRC-16 with polynomial 0x1021 and initial value 0xFFFF. -/
def crc16 (bs : List Byte) : Nat := crcMsb 16 0x1021 0xFFFF bs

/-- CRC-8 with polynomial 0x07 and initial value 0 (preamp and motor driver frames, R271, R287). -/
def crc8 (bs : List Byte) : Nat := crcMsb 8 0x07 0 bs

/-! The field GF(2^8) with polynomial 0x11D. -/

/-- Multiplication by x in GF(2^8). -/
def gfDouble (a : Nat) : Nat := if a * 2 ≥ 256 then Nat.xor (a * 2) 0x11D else a * 2

/-- Multiplication in GF(2^8): `n` bits of `b` remain. -/
def gfMulLoop : Nat → Nat → Nat → Nat
  | 0, _, _ => 0
  | n + 1, a, b => Nat.xor (if b % 2 = 1 then a else 0) (gfMulLoop n (gfDouble a) (b / 2))

/-- Multiplication in GF(2^8). -/
def gfMul (a b : Nat) : Nat := gfMulLoop 8 a b

/-- A power in GF(2^8). -/
def gfPow (a : Nat) : Nat → Nat
  | 0 => 1
  | n + 1 => gfMul a (gfPow a n)

/-- The inverse in GF(2^8) (0 for 0): a^254. -/
def gfInv (a : Nat) : Nat := if a = 0 then 0 else gfPow a 254

/-- Bytewise exclusive or; the shorter list counts as padded with zeros. -/
def xorBytes : List Byte → List Byte → List Byte
  | [], b => b
  | a, [] => a
  | x :: a, y :: b => (x ^^^ y) :: xorBytes a b

/-- A byte list times a field element. -/
def gfScale (c : Nat) (bs : List Byte) : List Byte := bs.map (fun b => BitVec.ofNat 8 (gfMul c b.toNat))

/-- The P strip: the exclusive or of the data strips (R343). -/
def stripP (strips : List (List Byte)) : List Byte := strips.foldl xorBytes []

/-- The Q strip from data strip `i` on: the sum of g^i · D_i with g = 2 (R343). -/
def stripQFrom : Nat → List (List Byte) → List Byte
  | _, [] => []
  | i, d :: t => xorBytes (gfScale (gfPow 2 i) d) (stripQFrom (i + 1) t)

/-- The Q strip (R343). -/
def stripQ (strips : List (List Byte)) : List Byte := stripQFrom 0 strips

/-! ## The outer code RS(192,176) (R157, R158) -/

/-- A polynomial, highest power first, times `x + a`. -/
def polyTimesRoot (p : List Nat) (a : Nat) : List Nat :=
  List.zipWith Nat.xor (p ++ [0]) (0 :: p.map (gfMul a))

/-- The generator g(x) of R157: the 17 coefficients, highest power first. -/
def rsGen : List Nat := (List.range 16).foldl (fun p i => polyTimesRoot p (gfPow 2 i)) [1]

/-- One codeword enters the division by g(x), in every column at once: the 16 rows of the remainder, highest power
first. -/
def rsStep (rem : List (List Byte)) (cw : List Byte) : List (List Byte) :=
  let f := xorBytes cw ((rem[0]?).getD [])
  (List.range 16).map (fun k => xorBytes ((rem[k + 1]?).getD []) (gfScale ((rsGen[k + 1]?).getD 0) f))

/-- The L2 parity of the payloads of codewords 0 to 175: the payloads of codewords 176 to 191 (R157). -/
def l2Parity (data : List (List Byte)) : List (List Byte) := data.foldl rsStep (List.replicate 16 [])

/-- The field element of codeword `c`, whose byte is the coefficient of x^(191 − c). -/
def rsLocator (c : Nat) : Nat := gfPow 2 (191 - c)

/-- The Lagrange polynomial over the points `xs` that is 1 at `x` and 0 at the others: its coefficients, lowest power
first. -/
def lagrange (xs : List Nat) (x : Nat) : List Nat :=
  ((xs.filter (fun y => y != x)).foldl (fun p y =>
    (polyTimesRoot p y).map (gfMul (gfInv (Nat.xor x y)))) [1]).reverse

/-- Syndrome `j` of the received codewords, in every column at once. -/
def rsSyndrome (cws : List (Nat × List Byte)) (j : Nat) : List Byte :=
  cws.foldl (fun a p => xorBytes a (gfScale (gfPow (rsLocator p.1) j) p.2)) []

/-- Erasure decoding of every column: the payloads of the codewords `miss`, 16 at most, from the others (R158). -/
def l2Recover (miss : List Nat) (cws : List (Nat × List Byte)) : List (Nat × List Byte) :=
  let xs := miss.map rsLocator
  let syn := (List.range miss.length).map (rsSyndrome cws)
  miss.map (fun c => (c, (List.zipWith (fun k s => gfScale k s) (lagrange xs (rsLocator c)) syn).foldl xorBytes []))

end Sys2Proof.Machine
end

