-- ==== Sys2Proof/Machine/Crypto.lean ====
section
/-!
DEFINITION. The two standards the spec names: AES-256-XTS of IEEE 1619 (media encryption, R145, R146) and the
SHA-384 digest with ECDSA P-384 verification of FIPS 186 (image authentication, R428). The standards' own tables
and formulas are taken from those standards (PRESUMED, log entry 12).
-/

namespace Sys2Proof.Machine

/-! AES-256 (FIPS 197). -/

/-- Multiplication by x in the AES field (polynomial 0x11B). -/
def aesDouble (a : Nat) : Nat := if a * 2 ≥ 256 then Nat.xor (a * 2) 0x11B else a * 2

/-- Multiplication in the AES field: `n` bits remain. -/
def aesMulLoop : Nat → Nat → Nat → Nat
  | 0, _, _ => 0
  | n + 1, a, b => Nat.xor (if b % 2 = 1 then a else 0) (aesMulLoop n (aesDouble a) (b / 2))

/-- Multiplication in the AES field. -/
def aesMul (a b : Nat) : Nat := aesMulLoop 8 a b

/-- A power in the AES field. -/
def aesPow (a : Nat) : Nat → Nat
  | 0 => 1
  | n + 1 => aesMul a (aesPow a n)

/-- Rotate a byte left by `k`. -/
def rotl8 (x k : Nat) : Nat := (x * 2 ^ k) % 256 + x / 2 ^ (8 - k)

/-- The S-box: the field inverse followed by the affine map. -/
def aesSbox (a : Nat) : Nat :=
  let b := if a = 0 then 0 else aesPow a 254
  Nat.xor (Nat.xor (Nat.xor (Nat.xor (Nat.xor b (rotl8 b 1)) (rotl8 b 2)) (rotl8 b 3)) (rotl8 b 4)) 0x63

/-- The S-box of FIPS 197 as a table: `aesSbox` of every byte in turn. -/
def aesSboxTable : List Nat :=
  [99, 124, 119, 123, 242, 107, 111, 197, 48, 1, 103, 43, 254, 215, 171, 118] ++
  [202, 130, 201, 125, 250, 89, 71, 240, 173, 212, 162, 175, 156, 164, 114, 192] ++
  [183, 253, 147, 38, 54, 63, 247, 204, 52, 165, 229, 241, 113, 216, 49, 21] ++
  [4, 199, 35, 195, 24, 150, 5, 154, 7, 18, 128, 226, 235, 39, 178, 117] ++
  [9, 131, 44, 26, 27, 110, 90, 160, 82, 59, 214, 179, 41, 227, 47, 132] ++
  [83, 209, 0, 237, 32, 252, 177, 91, 106, 203, 190, 57, 74, 76, 88, 207] ++
  [208, 239, 170, 251, 67, 77, 51, 133, 69, 249, 2, 127, 80, 60, 159, 168] ++
  [81, 163, 64, 143, 146, 157, 56, 245, 188, 182, 218, 33, 16, 255, 243, 210] ++
  [205, 12, 19, 236, 95, 151, 68, 23, 196, 167, 126, 61, 100, 93, 25, 115] ++
  [96, 129, 79, 220, 34, 42, 144, 136, 70, 238, 184, 20, 222, 94, 11, 219] ++
  [224, 50, 58, 10, 73, 6, 36, 92, 194, 211, 172, 98, 145, 149, 228, 121] ++
  [231, 200, 55, 109, 141, 213, 78, 169, 108, 86, 244, 234, 101, 122, 174, 8] ++
  [186, 120, 37, 46, 28, 166, 180, 198, 232, 221, 116, 31, 75, 189, 139, 138] ++
  [112, 62, 181, 102, 72, 3, 246, 14, 97, 53, 87, 185, 134, 193, 29, 158] ++
  [225, 248, 152, 17, 105, 217, 142, 148, 155, 30, 135, 233, 206, 85, 40, 223] ++
  [140, 161, 137, 13, 191, 230, 66, 104, 65, 153, 45, 15, 176, 84, 187, 22]

/-- One S-box look-up. -/
def subByte (a : Nat) : Nat := aesSboxTable.getD a 0

/-- One look-up in the inverse S-box. -/
def invSubByte (a : Nat) : Nat := aesSboxTable.idxOf a

/-- The round-constant power of key-schedule step `i` (from 1). -/
def aesRcon (i : Nat) : Nat := aesPow 2 (i - 1)

/-- The next four-byte word of the AES-256 key schedule; `ws` holds the words so far, oldest first. -/
def aesNextWord (ws : List (List Nat)) : List Nat :=
  let i := ws.length
  let prev := ws.getD (i - 1) []
  let t :=
    if i % 8 = 0 then
      let r := (prev.drop 1 ++ prev.take 1).map subByte
      (Nat.xor (r.getD 0 0) (aesRcon (i / 8))) :: r.drop 1
    else if i % 8 = 4 then prev.map subByte
    else prev
  List.zipWith Nat.xor (ws.getD (i - 8) []) t

/-- Extend the key schedule by `n` words. -/
def aesExtend : Nat → List (List Nat) → List (List Nat)
  | 0, ws => ws
  | n + 1, ws => aesExtend n (ws ++ [aesNextWord ws])

/-- Cut a list into groups of four. -/
def fours : Nat → List Nat → List (List Nat)
  | 0, _ => []
  | n + 1, l => l.take 4 :: fours n (l.drop 4)

/-- The 15 round keys of 16 bytes of a 32-byte key. -/
def aesRoundKeys (key : List Nat) : List (List Nat) :=
  let ws := aesExtend 52 (fours 8 key)
  (List.range 15).map (fun r => (ws.drop (4 * r)).take 4 |>.flatten)

/-- ShiftRows on a column-major state of 16 bytes. -/
def shiftRows (st : List Nat) : List Nat :=
  (List.range 16).map (fun k => st.getD ((k + 4 * (k % 4)) % 16) 0)

/-- The inverse of ShiftRows. -/
def invShiftRows (st : List Nat) : List Nat :=
  (List.range 16).map (fun k => st.getD ((k + 16 - 4 * (k % 4)) % 16) 0)

/-- One output byte of a column times the circulant matrix whose first row is `m`. -/
def mixByte (m st : List Nat) (k : Nat) : Nat :=
  let c := k / 4 * 4
  let r := k % 4
  (List.range 4).foldl (fun a j => Nat.xor a (aesMul (m.getD ((j + 4 - r) % 4) 0) (st.getD (c + j) 0))) 0

/-- MixColumns with the matrix of first row `m`. -/
def mixColumns (m st : List Nat) : List Nat := (List.range 16).map (mixByte m st)

/-- AES-256 encryption of one 16-byte block. -/
def aesEncrypt (rk : List (List Nat)) (pt : List Nat) : List Nat :=
  let s0 := List.zipWith Nat.xor pt (rk.getD 0 [])
  let mid := (List.range 13).foldl (fun st r =>
    List.zipWith Nat.xor (mixColumns [2, 3, 1, 1] (shiftRows (st.map subByte))) (rk.getD (r + 1) [])) s0
  List.zipWith Nat.xor (shiftRows (mid.map subByte)) (rk.getD 14 [])

/-- AES-256 decryption of one 16-byte block. -/
def aesDecrypt (rk : List (List Nat)) (ct : List Nat) : List Nat :=
  let s0 := List.zipWith Nat.xor ct (rk.getD 14 [])
  let mid := (List.range 13).foldl (fun st r =>
    mixColumns [14, 11, 13, 9]
      (List.zipWith Nat.xor ((invShiftRows st).map invSubByte) (rk.getD (13 - r) []))) s0
  List.zipWith Nat.xor ((invShiftRows mid).map invSubByte) (rk.getD 0 [])

/-! XTS (IEEE 1619). -/

/-- Multiply a tweak by x: 16 little-endian bytes, reduction 0x87. -/
def xtsNext (t : Nat) : Nat :=
  let d := t * 2
  if d ≥ 2 ^ 128 then Nat.xor (d - 2 ^ 128) 0x87 else d

/-- Bytes as numbers. -/
def natsOf (bs : List Byte) : List Nat := bs.map (fun b => b.toNat)

/-- Numbers as bytes. -/
def bytesOf (ns : List Nat) : List Byte := ns.map (fun n => BitVec.ofNat 8 n)

/-- XTS over `n` blocks with the block function `f`, from tweak `t`. -/
def xtsLoop (f : List Nat → List Nat) : Nat → Nat → List Byte → List Byte
  | 0, _, _ => []
  | n + 1, t, bs =>
    let tw := natsOf (leBytes 16 t)
    let x := List.zipWith Nat.xor (f (List.zipWith Nat.xor (natsOf (bs.take 16)) tw)) tw
    bytesOf x ++ xtsLoop f n (xtsNext t) (bs.drop 16)

/-- The initial tweak of data unit number `dun` under the tweak key. -/
def xtsTweak (tweakKey : List Byte) (dun : Nat) : Nat :=
  ofLe (bytesOf (aesEncrypt (aesRoundKeys (natsOf tweakKey)) (natsOf (leBytes 16 dun))))

/-- AES-256-XTS encryption of one data unit (R145, R146): bytes 0 to 31 of the material are the data key and bytes
32 to 63 the tweak key. -/
def xtsEncrypt (material : List Byte) (dun : Nat) (unit : List Byte) : List Byte :=
  xtsLoop (aesEncrypt (aesRoundKeys (natsOf (material.take 32)))) (unit.length / 16)
    (xtsTweak (material.drop 32) dun) unit

/-- AES-256-XTS decryption of one data unit. -/
def xtsDecrypt (material : List Byte) (dun : Nat) (unit : List Byte) : List Byte :=
  xtsLoop (aesDecrypt (aesRoundKeys (natsOf (material.take 32)))) (unit.length / 16)
    (xtsTweak (material.drop 32) dun) unit

/-! SHA-384 (FIPS 180-4). -/

/-- Whether `n` has no divisor in `[2, k]`. -/
def noDivisor (n : Nat) : Nat → Bool
  | 0 => true
  | 1 => true
  | k + 2 => n % (k + 2) ≠ 0 && noDivisor n (k + 1)

/-- The first primes among `n` candidates from `c` on. -/
def primesFrom : Nat → Nat → List Nat
  | 0, _ => []
  | n + 1, c => if noDivisor c (Nat.sqrt c) then c :: primesFrom n (c + 1) else primesFrom n (c + 1)

/-- The primes below 411: the first 80 of them. -/
def shaPrimes : List Nat := primesFrom 409 2

/-- One bisection towards the integer cube root of `n`: `k` bits below the current root `r` remain. -/
def cubeRootBits (n : Nat) : Nat → Nat → Nat
  | 0, r => r
  | k + 1, r =>
    let c := r + 2 ^ k
    cubeRootBits n k (if c * c * c ≤ n then c else r)

/-- The first 64 fraction bits of the cube root of `p`. -/
def cubeRootFrac (p : Nat) : Nat := cubeRootBits (p * 2 ^ 192) 70 0 % 2 ^ 64

/-- The first 64 fraction bits of the square root of `p`. -/
def sqrtFrac (p : Nat) : Nat := Nat.sqrt (p * 2 ^ 128) % 2 ^ 64

/-- The 80 round constants of SHA-384. -/
def shaK : List Nat := shaPrimes.map cubeRootFrac

/-- The initial hash value of SHA-384: fractions of the roots of the 9th to the 16th primes. -/
def sha384Init : List Nat := ((shaPrimes.drop 8).take 8).map sqrtFrac

/-- Rotate a 64-bit word right. -/
def rotr64 (x k : Nat) : Nat := x / 2 ^ k + x % 2 ^ k * 2 ^ (64 - k)

/-- Addition modulo 2^64. -/
def add64 (a b : Nat) : Nat := (a + b) % 2 ^ 64

/-- A big-endian number from bytes. -/
def ofBe (bs : List Byte) : Nat := bs.foldl (fun a b => a * 256 + b.toNat) 0

/-- Cut bytes into 64-bit big-endian words. -/
def beWords : Nat → List Byte → List Nat
  | 0, _ => []
  | n + 1, l => ofBe (l.take 8) :: beWords n (l.drop 8)

/-- Extend the message schedule by `n` words. -/
def shaSchedule : Nat → List Nat → List Nat
  | 0, w => w
  | n + 1, w =>
    let t := w.length
    let g := fun k => w.getD (t - k) 0
    let s0 := Nat.xor (Nat.xor (rotr64 (g 15) 1) (rotr64 (g 15) 8)) (g 15 / 2 ^ 7)
    let s1 := Nat.xor (Nat.xor (rotr64 (g 2) 19) (rotr64 (g 2) 61)) (g 2 / 2 ^ 6)
    shaSchedule n (w ++ [add64 (add64 s1 (g 7)) (add64 s0 (g 16))])

/-- One round on the working variables a to h. -/
def shaRound (v : List Nat) (kw : Nat × Nat) : List Nat :=
  let g := fun k => v.getD k 0
  let e1 := Nat.xor (Nat.xor (rotr64 (g 4) 14) (rotr64 (g 4) 18)) (rotr64 (g 4) 41)
  let ch := Nat.xor (Nat.land (g 4) (g 5)) (Nat.land (Nat.xor (g 4) (2 ^ 64 - 1)) (g 6))
  let t1 := add64 (add64 (add64 (g 7) e1) ch) (add64 kw.1 kw.2)
  let e0 := Nat.xor (Nat.xor (rotr64 (g 0) 28) (rotr64 (g 0) 34)) (rotr64 (g 0) 39)
  let mj := Nat.xor (Nat.xor (Nat.land (g 0) (g 1)) (Nat.land (g 0) (g 2))) (Nat.land (g 1) (g 2))
  [add64 t1 (add64 e0 mj), g 0, g 1, g 2, add64 (g 3) t1, g 4, g 5, g 6]

/-- The compression function on one 128-byte block. -/
def shaBlock (h : List Nat) (blk : List Byte) : List Nat :=
  let w := shaSchedule 64 (beWords 16 blk)
  let v := (List.zip shaK w).foldl shaRound h
  List.zipWith add64 h v

/-- The compression function over `n` blocks. -/
def shaBlocks : Nat → List Nat → List Byte → List Nat
  | 0, h, _ => h
  | n + 1, h, bs => shaBlocks n (shaBlock h (bs.take 128)) (bs.drop 128)

/-- The padding of FIPS 180-4 for 128-byte blocks. -/
def shaPad (bs : List Byte) : List Byte :=
  let n := bs.length
  let z := (239 - n % 128) % 128
  bs ++ [0x80#8] ++ List.replicate z 0#8 ++ (leBytes 16 (n * 8)).reverse

/-- The SHA-384 digest as a number, most significant bit first. -/
def sha384 (bs : List Byte) : Nat :=
  let p := shaPad bs
  ((shaBlocks (p.length / 128) sha384Init p).take 6).foldl (fun a x => a * 2 ^ 64 + x) 0

/-! ECDSA over P-384 (FIPS 186). -/

/-- The prime of P-384. -/
def p384P : Nat := 2 ^ 384 - 2 ^ 128 - 2 ^ 96 + 2 ^ 32 - 1

/-- The order of P-384. -/
def p384N : Nat :=
  0xffffffffffffffffffffffffffffffffffffffffffffffffc7634d81f4372ddf581a0db248b0a77aecec196accc52973

/-- The coefficient b of P-384. -/
def p384B : Nat :=
  0xb3312fa7e23ee7e4988e056be3f82d19181d9c6efe8141120314088f5013875ac656398d8a2ed19d2a85c8edd3ec2aef

/-- The base point of P-384. -/
def p384G : Nat × Nat :=
  (0xaa87ca22be8b05378eb1c71ef320ad746e1d3b628ba79b9859f741e082542a385502f25dbf55296c3a545e3872760ab7,
   0x3617de4a96262c6f5d9e98bf9292dc29f8f41dbd289a147ce9da3113b5f0b8c00a60b1ce1d7e819d7a431d7c90ea0e5f)

/-- Modular power, `k` bits of the exponent remaining. -/
def powModLoop (m : Nat) : Nat → Nat → Nat → Nat → Nat
  | 0, _, _, acc => acc
  | k + 1, b, e, acc => powModLoop m k (b * b % m) (e / 2) (if e % 2 = 1 then acc * b % m else acc)

/-- The inverse modulo a prime of at most 384 bits. -/
def invMod (m a : Nat) : Nat := powModLoop m 384 (a % m) (m - 2) 1

/-- Subtraction modulo the prime of P-384. -/
def subP (a b : Nat) : Nat := (a + p384P - b % p384P) % p384P

/-- Addition of points of P-384; `none` is the point at infinity. -/
def p384Add (p q : Option (Nat × Nat)) : Option (Nat × Nat) :=
  match p, q with
  | none, q => q
  | p, none => p
  | some (x1, y1), some (x2, y2) =>
    if x1 = x2 && (y1 + y2) % p384P = 0 then none
    else
      let l :=
        if x1 = x2 then subP (3 * x1 * x1) 3 * invMod p384P (2 * y1) % p384P
        else subP y2 y1 * invMod p384P (subP x2 x1) % p384P
      let x3 := subP (subP (l * l) x1) x2
      some (x3, subP (l * subP x1 x3) y1)

/-- Scalar multiplication on P-384, `k` bits of the scalar remaining. -/
def p384MulLoop : Nat → Option (Nat × Nat) → Nat → Option (Nat × Nat) → Option (Nat × Nat)
  | 0, _, _, acc => acc
  | k + 1, p, e, acc => p384MulLoop k (p384Add p p) (e / 2) (if e % 2 = 1 then p384Add acc p else acc)

/-- Scalar multiplication on P-384. -/
def p384Mul (e : Nat) (p : Nat × Nat) : Option (Nat × Nat) := p384MulLoop 384 (some p) e none

/-- Whether a point lies on P-384. -/
def p384On (x y : Nat) : Bool :=
  decide (x < p384P) && decide (y < p384P) && y * y % p384P = (subP (x * x * x) (3 * x) + p384B) % p384P

/-- Whether `(r, s)` is a valid ECDSA signature of digest `z` by the public key `(x, y)` (R428, FIPS 186). -/
def ecdsaVerify (x y r s z : Nat) : Bool :=
  p384On x y && decide (0 < r) && decide (r < p384N) && decide (0 < s) && decide (s < p384N) &&
    (let w := invMod p384N s
     match p384Add (p384Mul (z * w % p384N) p384G) (p384Mul (r * w % p384N) (x, y)) with
     | none => false
     | some (px, _) => px % p384N = r)

end Sys2Proof.Machine
end

