-- ==== Sys2Proof/Machine/Image.lean ====
section
/-!
DEFINITION. The Llyn image: its header, sections, records, patches and signature as they lie in the flash, the image
checks, and the image state record (R425 to R435).
-/

namespace Sys2Proof.Machine

/-- Bytes `[a, a + n)` of the configuration flash; an erased byte is 0xFF. -/
def State.norBytes (s : State) (a n : Nat) : List Byte := (List.range n).map (fun i => Store.get 0xFF#8 s.boot.nor (a + i))

/-- The bytes of a list laid over the flash from address `a`. -/
def norPut (m : Store Byte) (a : Nat) : List Byte → Store Byte
  | [] => m
  | b :: t => norPut (Store.put 0xFF#8 m a b) (a + 1) t

/-- Bytes of a slot: 24 MiB. -/
def slotSize : Nat := 0x1800000

/-- The flash address of a slot (Table 17-1). -/
def slotBase (slot : Bool) : Nat := if slot then slotSize else 0

/-- A section table entry (Table 17-2). -/
structure Section where
  type : Nat
  off : Nat
  len : Nat
  deriving DecidableEq, Repr

/-- The header of an image (Table 17-2). -/
structure ImgHeader where
  magic : Nat
  format : Nat
  personality : Nat
  keyIndex : Nat
  length : Nat
  version : Nat
  svn : Nat
  nsect : Nat
  linkCfg : Nat
  romId : Nat
  subsys : Nat
  sections : List Section
  /-- every reserved byte is 0 and unused table entries are 0 -/
  clean : Bool
  /-- the header's own CRC-32C checks -/
  crcOk : Bool
  deriving DecidableEq, Repr

/-- Every byte of a list is 0. -/
def allZero (l : List Byte) : Bool := l.all (fun b => b = 0#8)

/-- Read an image header from its 256 B. -/
def ImgHeader.ofBytes (b : List Byte) : ImgHeader :=
  let n := leAt b 17 1
  let entry := fun i => (b.drop (32 + 12 * i)).take 12
  { magic := leAt b 0 4, format := leAt b 4 2, personality := leAt b 6 1, keyIndex := leAt b 7 1,
    length := leAt b 8 4, version := leAt b 12 4, svn := leAt b 16 1, nsect := n, linkCfg := leAt b 20 4,
    romId := leAt b 24 4, subsys := leAt b 28 4,
    sections := (List.range (Nat.min n 16)).map (fun i =>
      let e := entry i
      { type := leAt e 0 1, off := leAt e 4 4, len := leAt e 8 4 }),
    clean := leAt b 18 2 = 0 && allZero ((b.drop 224).take 28) && bits (leAt b 20 4) 5 27 = 0 &&
      (List.range 16).all (fun i =>
        let e := entry i
        if i < n then leAt e 1 3 = 0 else allZero e),
    crcOk := leAt b 252 4 = crc32c (b.take 252) }

/-- The header of a slot. -/
def State.header (s : State) (slot : Bool) : ImgHeader := ImgHeader.ofBytes (s.norBytes (slotBase slot) 256)

/-- The bytes of the section of a type; empty when the image has none. -/
def sectionBytes (h : ImgHeader) (img : List Byte) (t : Nat) : List Byte :=
  match h.sections.find? (fun e => e.type = t) with
  | some e => (img.drop e.off).take e.len
  | none => []

/-- The parameter records of a PARAMS section (R429). -/
def paramRecs (b : List Byte) : List ParamRec :=
  (chunks 12 (b.length / 12) b).map (fun r =>
    let t := leAt r 0 4
    { offset := bits t 0 26, when := bits t 28 2, mask := leAt r 4 4, value := leAt r 8 4 })

/-- The new value of a field under a masked write: (old and not MASK) or (VALUE and MASK) (R429). -/
def maskedValue (f : Field) (old mask value : Nat) : Nat :=
  let m := bits mask f.lo f.w
  let v := bits value f.lo f.w
  (old ^^^ (old &&& m)) ||| (v &&& m)

/-- Apply one record to the register file: RW and RWL fields alike, locked or not (R429, R430). -/
def State.applyRec (s : State) (r : ParamRec) : State :=
  (fieldsAt r.offset).foldl (fun s p =>
    let f := p.1
    if (f.acc = .rw || f.acc = .rwl) && bits r.mask f.lo f.w != 0 then
      s.fset f p.2.1 p.2.2 (maskedValue f (s.fget f p.2.1 p.2.2) r.mask r.value)
    else s) s

/-- The value that an image's records give a field, from its reset value. -/
def imageValue (recs : List ParamRec) (f : Field) (i j : Nat) : Nat :=
  recs.foldl (fun v r => if r.offset = f.regOff i j then maskedValue f v r.mask r.value else v) (f.resetAt i j)

/-- A register offset is absent in a personality (Table 18-2): 1 T-mode, 2 D-mode. -/
def absentIn (mode off : Nat) : Bool :=
  let inR := fun lo hi => decide (lo ≤ off) && decide (off < hi)
  if mode = 2 then
    inR 0x0101000 0x0102000 || inR 0x0140000 0x0141100 || inR 0x01C0004 0x01C0008 || inR 0x01C0010 0x01C0050 ||
      inR 0x0208000 0x0208100
  else if mode = 1 then
    inR 0x0102000 0x0103000 || inR 0x0141100 0x0141300 || inR 0x01C0100 0x01C0414 || inR 0x0209000 0x020A000 ||
      inR 0x0218000 0x0219800
  else false

/-- Records stand in ascending order of (WHEN, offset), no two alike. -/
def recsAscend : List ParamRec → Bool
  | a :: b :: t => (a.when < b.when || (a.when = b.when && a.offset < b.offset)) && recsAscend (b :: t)
  | _ => true

/-- A record with WHEN 1 addresses one of the blocks that serve running loops and lanes (R430). -/
def liveBlock (off : Nat) : Bool :=
  (0x0200000 ≤ off && off < 0x0240000) || (0x0310000 ≤ off && off < 0x0320000) ||
    (0x0140000 ≤ off && off < 0x0180000) || (0x01C0000 ≤ off && off < 0x0200000)

/-- One record meets its row of Table 17-5, given the raw TARGET word. -/
def recOk (mode : Nat) (recs : List ParamRec) (raw : Nat) (r : ParamRec) : Bool :=
  let fs := fieldsAt r.offset
  let cover := fs.foldl (fun m p =>
    if p.1.acc = .rw || p.1.acc = .rwl then m ||| ((2 ^ p.1.w - 1) * 2 ^ p.1.lo) else m) 0
  r.offset % 4 = 0 && bits raw 26 2 = 0 && bits raw 30 2 = 0 && r.when != 3 &&
    !(r.when = 1 && liveBlock r.offset) && blockMap.any (fun b => b.1 ≤ r.offset && r.offset < b.2.1) &&
    !absentIn mode r.offset && (r.mask &&& cover) = r.mask &&
    fs.all (fun p =>
      bits r.mask p.1.lo p.1.w = 0 ||
        (let v := imageValue recs p.1 p.2.1 p.2.2
         decide (p.1.min ≤ v) && decide (v ≤ p.1.max)))

/-- The bands of a D-mode FORMAT section (Table 09-10). -/
def formatBands (b : List Byte) : List Band :=
  (chunks 16 (b.length / 16) b).map (fun e =>
    { surface := leAt e 0 1, band := leAt e 1 1, firstTrack := leAt e 2 4, rate := leAt e 6 4, d := leAt e 10 4 })

/-- The head count that a D-mode SERVO section gives: 1,040 B for each head and 4 B of servo field length (R202,
Table 17-3; log entry 13). -/
def servoHeads (b : List Byte) : Nat := (b.length - 4) / 1040

/-- The placement and order of a section list within an image (R427). -/
def sectionsOk (h : ImgHeader) : Bool :=
  h.sections.all (fun e => e.off % 256 = 0 && 256 ≤ e.off && e.off + e.len ≤ h.length - 256 &&
      1 ≤ e.type && e.type ≤ 4) &&
    (List.range h.sections.length).all (fun i => (List.range h.sections.length).all (fun j =>
      match h.sections[i]?, h.sections[j]? with
      | some a, some b => i = j || (a.type != b.type && (a.off + a.len ≤ b.off || b.off + b.len ≤ a.off))
      | _, _ => true))

/-- The PATCH section meets its row of Table 17-5 (R431). -/
def patchOk (h : ImgHeader) (p : List Byte) : Bool :=
  if h.sections.any (fun e => e.type = 2) then
    let n := leAt p 0 4
    let es := (List.range (Nat.min n 16)).map (fun i => (p.drop (4 + 40 * i)).take 40)
    let as := es.map (fun e => leAt e 0 4)
    n ≤ 16 && h.romId = F.BOOT_ROM_ID_ID.reset && 4 + 40 * n ≤ p.length && p.length ≤ 4 + 40 * n + 65536 &&
      es.all (fun e => leAt e 0 4 % 32 = 0 && leAt e 0 4 < 0x100000 && leAt e 4 4 = 0) && decide as.Nodup
  else h.romId = 0

/-- The SERVO and FORMAT sections fit the personality (Table 17-3, R206 to R208). -/
def mediaSectionsOk (mode : Nat) (servo format : List Byte) : Bool :=
  if mode = 2 then
    let H := servoHeads servo
    servo.length = H * 1040 + 4 && 4 ≤ H && H ≤ 24 && H % 2 = 0 && format.length % 16 = 0 &&
      (formatBands format).all (fun b => decide (b.surface < H) && decide (b.band < 64))
  else servo.length = 4160 && leAt format 0 4 = 0x31545645 && leAt format 16 16 = 0

/-- The timing, supply and ordering rows of Table 17-5, over the values the records give. -/
def valuesOk (mode : Nat) (recs : List ParamRec) (servo format : List Byte) : Bool :=
  let v := fun f => imageValue recs f 0 0
  let supply := v F.PWR_SAG_CFG_RESET_MV + 50 ≤ v F.PWR_SAG_CFG_WARN_MV && 247 ≤ v F.PWR_BRACE_CFG_DECEL
  let orders := v F.HIF_ING_WM_LOW < v F.HIF_ING_WM_HIGH &&
    (mode = 2 || v F.CTL_TM_BUF_LOW < v F.CTL_TM_BUF_HIGH) &&
    (mode = 1 || v F.FMT_DZ_CLEAN_LOW_PCT < v F.FMT_DZ_CLEAN_HIGH_PCT) &&
    v F.RED_RATE_FLOOR_PCT ≤ v F.RED_RATE_CRIT_PCT && v F.RED_RATE_CRIT_PCT ≤ v F.RED_RATE_CEIL_PCT &&
    3 * v F.GRP_FAILOVER_BEAT_MS ≤ v F.GRP_FAILOVER_LEAD_MS
  let assist := (List.range 16).any (fun p => imageValue recs F.WRA_PROF_A_KIND p 0 != 0)
  let periodPs := 60000000000000 / (v F.CTL_DK_SPIN_RPM * 640)
  let disk := mode = 1 ||
    (let servoNs := leAt servo (servo.length - 4) 4
     servoNs + v F.WRA_DW_TIME_PREHEAT_NS + 160 ≤ v F.WRA_DW_FIELD_FIELD_OFS &&
      (!assist || v F.WRA_DW_TIME_WG_LEAD_NS ≤ v F.WRA_DW_TIME_PREHEAT_NS) &&
      (formatBands format).all (fun b =>
        decide (0 < b.rate) && decide (b.rate ≤ 4200000) && decide (36320 ≤ b.d) &&
          decide (b.d + 2048 ≤ periodPs * b.rate / 1000000000) &&
          decide ((v F.WRA_DW_FIELD_FIELD_OFS + v F.WRA_DW_TIME_TAIL_NS) * 1000 + b.d * 1000000000 / b.rate
            < periodPs)))
  supply && orders && disk

/-- The check of an image's bytes: 0 when it passes, else the code of event 0x002 (Table 17-11), with the record
index for code 6 (R428, R432). -/
def checkBytes (fuses : Fuses) (h : ImgHeader) (img : List Byte) : Nat × Nat :=
  let sig := (img.drop (h.length - 256)).take 256
  let servo := sectionBytes h img 4
  let format := sectionBytes h img 3
  let params := sectionBytes h img 1
  let recs := paramRecs params
  if !h.crcOk then (1, 0)
  else if h.magic != 0x4E594C4C || h.format != 1 || (h.personality != 1 && h.personality != 2) || !h.clean ||
      h.length % 256 != 0 || h.length < 768 || h.length > slotSize || h.nsect < 1 || h.nsect > 16 then (2, 0)
  else if h.keyIndex > 3 || bitAt fuses.revoked h.keyIndex || h.svn < fuses.minSvn then (3, 0)
  else if !(fuses.keyHash[h.keyIndex]?).any (fun k => k = sha384 (sig.take 96)) then (4, 0)
  else if !ecdsaVerify (leAt sig 0 48) (leAt sig 48 48) (leAt sig 96 48) (leAt sig 144 48)
      (sha384 (img.take (h.length - 256))) || !allZero (sig.drop 192) then (5, 0)
  else if !sectionsOk h || !h.sections.any (fun e => e.type = 1) || params.length % 12 != 0 ||
      !mediaSectionsOk h.personality servo format || !patchOk h (sectionBytes h img 2) || !recsAscend recs ||
      !valuesOk h.personality recs servo format then (6, 0)
  else
    match (List.range recs.length).find? (fun i =>
        match recs[i]? with
        | some r => !recOk h.personality recs (leAt params (12 * i) 4) r
        | none => false) with
    | some i => (6, i)
    | none => (0, 0)

/-- The fuses as a check sees them: revocations and the minimum SVN from `BOOT.OTP` (R428). -/
def State.checkFuses (s : State) : Fuses :=
  { s.boot.fuses with revoked := s.rd F.BOOT_OTP_REVOKED, minSvn := s.rd F.BOOT_OTP_MIN_SVN }

/-- The check of a slot (R432). -/
def State.checkSlot (s : State) (slot : Bool) : Nat × Nat :=
  let h := s.header slot
  checkBytes s.checkFuses h (s.norBytes (slotBase slot) (Nat.min h.length slotSize))

/-- The current image state record: the valid copy with the higher SEQ (R433). -/
def BootSt.imgRec (b : BootSt) : Option ImgRec :=
  match b.recA, b.recB with
  | some x, some y => if y.seq > x.seq then some y else some x
  | some x, none => some x
  | none, r => r

/-- An image state record before anything has been written: nothing pending, both slots UNKNOWN. -/
def ImgRec.blank : ImgRec :=
  { seq := 0, active := 0, pending := 0xFF, stateA := 0, stateB := 0, triesA := 0, triesB := 0, versionA := 0,
    versionB := 0, lastFail := 0 }

/-- The state, tries and version of a slot in a record. -/
def ImgRec.state (r : ImgRec) (slot : Bool) : Nat := if slot then r.stateB else r.stateA
def ImgRec.tries (r : ImgRec) (slot : Bool) : Nat := if slot then r.triesB else r.triesA
def ImgRec.setState (r : ImgRec) (slot : Bool) (v : Nat) : ImgRec :=
  if slot then { r with stateB := v } else { r with stateA := v }
def ImgRec.setTries (r : ImgRec) (slot : Bool) (v : Nat) : ImgRec :=
  if slot then { r with triesB := v } else { r with triesA := v }
def ImgRec.setVersion (r : ImgRec) (slot : Bool) (v : Nat) : ImgRec :=
  if slot then { r with versionB := v } else { r with versionA := v }

/-- The registers that show the image state record follow it (Table 17-13). -/
def State.showImgRec (s : State) : State :=
  let r := (s.boot.imgRec).getD ImgRec.blank
  let s := (s.wr F.BOOT_SLOT_ACTIVE r.active).wr F.BOOT_SLOT_PENDING (if r.pending = 0xFF then 3 else r.pending)
  let s := (s.wr F.BOOT_SLOT_STATE_A r.stateA).wr F.BOOT_SLOT_STATE_B r.stateB
  let s := (s.wr F.BOOT_SLOT_TRIES_A r.triesA).wr F.BOOT_SLOT_TRIES_B r.triesB
  (s.wr F.BOOT_VERSION_A_VERSION r.versionA).wr F.BOOT_VERSION_B_VERSION r.versionB

/-- Write a new image state record over the copy that does not hold the current one (R433). -/
def State.writeImgRec (s : State) (r : ImgRec) : State :=
  let cur := (s.boot.imgRec).getD ImgRec.blank
  let r := { r with seq := cur.seq + 1 }
  let b := match s.boot.recA with
    | some x => if s.boot.imgRec = some x then { s.boot with recB := some r } else { s.boot with recA := some r }
    | none => { s.boot with recA := some r }
  { s with boot := b }.showImgRec

/-- The record in force, or the blank one. -/
def State.imgRec (s : State) : ImgRec := (s.boot.imgRec).getD ImgRec.blank

/-- The inactive slot: the one other than ACTIVE (R442). -/
def State.inactive (s : State) : Bool := s.imgRec.active = 0

end Sys2Proof.Machine
end

