-- ==== Sys2Proof/Machine/Layout.lean ====
section
/-!
DEFINITION. The placement rows of the layouts and the home of a key (R320, R345, R346).
-/

namespace Sys2Proof.Machine

/-! ## Scores and rows (R345, R346) -/

/-- The score of a member for a row of a layout. -/
def rowScore (row i layout : Nat) : Nat :=
  crc32c [BitVec.ofNat 8 row, BitVec.ofNat 8 (row / 256), BitVec.ofNat 8 i, BitVec.ofNat 8 layout]

/-- Put a scored id into a list in descending order of score; on a tie it stands behind the ids already there. -/
def insertScore (p : Nat × Nat) : List (Nat × Nat) → List (Nat × Nat)
  | [] => [p]
  | q :: t => if q.1 < p.1 then p :: q :: t else q :: insertScore p t

/-- Ids, given in ascending order, in descending order of their score for a row. -/
def byScore (row layout : Nat) (ids : List Nat) : List Nat :=
  (ids.foldl (fun l i => insertScore (rowScore row i layout, i) l) []).map (fun p => p.2)

/-- The base row: the k + 2 eligible members with the highest scores. -/
def baseRow (row layout k eligible : Nat) : List Nat := (byScore row layout (onesOf 64 eligible)).take (k + 2)

/-- A row of the current and of the pending layout. -/
def RedSt.row (r : RedSt) (row : Nat) : List Nat :=
  match Store.get [] r.rows row with
  | [] => baseRow row r.layout r.k r.eligible
  | l => l
def RedSt.rowPending (r : RedSt) (row : Nat) : List Nat :=
  match Store.get [] r.rowsPending row with
  | [] => baseRow row r.layoutPending r.kPending r.eligiblePending
  | l => l

/-- A pending layout is in force (R374). -/
def RedSt.hasPending (r : RedSt) : Bool := r.layoutPending != r.layout

/-- The row, the layout and the k that a new stripe takes: those of the pending layout from its epoch on (R374). -/
def RedSt.openRow (r : RedSt) (row : Nat) : List Nat := if r.hasPending then r.rowPending row else r.row row
def RedSt.openLayout (r : RedSt) : Nat := if r.hasPending then r.layoutPending else r.layout
def RedSt.openK (r : RedSt) : Nat := if r.hasPending then r.kPending else r.k

/-- The row of a key, and its home member (R320, R346). -/
def keyRow (key : Nat) : Nat := crc32c (leBytes 16 key) % 4096
def State.homeOf (s : State) (key : Nat) : Nat := ((s.red.row (keyRow key))[0]?).getD s.myId

/-- The device is the home of a key: in solo of every key. -/
def State.isHome (s : State) (key : Nat) : Bool := !s.inGroup || s.homeOf key = s.myId

end Sys2Proof.Machine
end

