-- ==== Sys2Proof/Machine/Flags.lean ====
section
/-!
DEFINITION. The computed register fields (live levels, counts of queues, copies and summaries), what a read of a BAR0
register returns and does (R5 to R8, R449, R452, R453), and the ALERT_N level (R73).
-/

namespace Sys2Proof.Machine

/-- The level of ALERT_N: true while the device asserts it (R73). -/
def State.alert (s : State) : Bool :=
  s.on F.HIF_STATUS_BOOT_FAIL || (s.on F.HIF_ALERT_CTL_EN && !s.host.evtFifo.isEmpty && !s.host.perst)

/-- The Speedwell slot whose registers lie at an offset. -/
def slotAt (off : Nat) : Option Nat :=
  if 0x0200000 ≤ off && off < 0x0200C00 then some ((off - 0x0200000) / 256) else none

/-- A register offset is absent (R2, R449, Table 18-2). -/
def State.absent (s : State) (off : Nat) : Bool :=
  absentIn (s.rd F.GLB_CONFIG_MODE) off || (!s.on F.BOOT_START_CFG_PEER_EN && 0x0240000 ≤ off && off < 0x02C0000)

/-- The registers of an unassigned Speedwell slot read 0; they are present and take writes (R449; 12_speedwell.md). -/
def State.readsZero (s : State) (off : Nat) : Bool :=
  match slotAt off with
  | some n => s.rdi F.CTL_SLOT_CFG_ROLE n = 0
  | none => false

/-- One of the error bits of the register at `off` is set; an absent register counts as clear. -/
def State.errBits (s : State) (off : Nat) : Bool :=
  !s.absent off && (fieldsAt off).any (fun p => p.1.acc = .w1c && s.fget p.1 p.2.1 p.2.2 != 0)

/-- The sources of `GLB.ERR_SUMMARY` in bit order (Table 18-7). -/
def errSources : List (List Nat) :=
  [[0x0040060], [0x0080020], [0x00C0030], [0x0101060, 0x0102040], [0x0142010], [0x0180040], [0x01C0440], [0x0201010],
   [0x0240210], [0x0280040], [0x02C0060], [0x0020090], [0x0030308], [0x0300208], [0x0000018]]

/-- `GLB.ERR_SUMMARY.BLOCKS` (R459). -/
def State.errSummary (s : State) : Nat :=
  ((List.range 15).filter (fun n => ((errSources[n]?).getD []).any (fun o => s.errBits o))).foldl setBit 0

/-- A field of a register that is absent counts as 0. -/
def State.rdPresent (s : State) (f : Field) : Nat := if s.absent f.off then 0 else s.rd f

/-- `GLB.STATUS.DEGRADED` (R456). -/
def State.degraded (s : State) : Bool :=
  s.on F.MEM_STATUS_DIE_FAILED || s.on F.DET_STATUS_DEGRADED || s.rdPresent F.FMT_HEAD_FAILED_HEADS != 0 ||
    s.rdPresent F.FMT_HEAD_FAILED_ACTUATORS != 0 || s.rdPresent F.FMT_TRACK_DEAD_LO_TRACKS != 0 ||
    s.rdPresent F.FMT_TRACK_DEAD_HI_TRACKS != 0 || s.rdPresent F.RED_STATUS_SPARE_OUT != 0 ||
    s.rdPresent F.GRP_STATUS_ISOLATED != 0

/-- The state of member `id` in a record, Table 05-12 (Table 13-6). -/
def MemRec.state (r : MemRec) (id : Nat) : Nat := bits r.states (4 * id) 4

/-- The ids of the members of a record whose state `p` holds for, as a bitmap. -/
def MemRec.bitmap (r : MemRec) (p : Nat → Bool) : Nat :=
  ((List.range 64).filter (fun i => p (r.state i))).foldl setBit 0

/-- How many slots of a stripe hold no valid strip: those the directory entry names and those of FAILED members. -/
def State.lostSlots (s : State) (e : DirEntry) : Nat :=
  (List.range (e.k + 2)).countP (fun j => bitAt e.lost j ||
    (s.grp.mrec.map (fun r => decide (r.state ((e.members[j]?).getD 0xFF) = 5))).getD false)

/-- The device's role: 0 solo, 1 lead, 2 deputy, 3 member (Table 13-13). -/
def State.role (s : State) : Nat :=
  if !s.inGroup then 0 else if s.isLead then 1 else if s.isDeputy then 2 else 3

/-- The list of R253 a codeword stands in: its class's, or READ once it has been promoted. -/
def Job.list (j : Job) : SClass := if j.promoted then .read else j.cls

/-- Codewords waiting in the classes `p` holds for. -/
def State.waitingIn (s : State) (p : SClass → Bool) : Nat := Nat.min 0xFFFF (s.det.waiting.countP (fun j => p j.list))

/-- The key slots 32n to 32n + 31 that are loaded, as a bitmap. -/
def State.keyBits (s : State) (n : Nat) : Nat :=
  ((List.range 32).filter (fun b => (Store.get KeySlot.init s.obj.keys (32 * n + b)).loaded)).foldl setBit 0

/-- A head has not failed. -/
def State.headOk (s : State) (h : Nat) : Bool := !bitAt (s.rd F.FMT_HEAD_FAILED_HEADS) h

/-- The assist profile number of a head, and its kind: 0 NONE, 1 LASER, 2 MICROWAVE (R275). -/
def State.profOf (s : State) (h : Nat) : Nat := s.rdi F.WRA_HEAD_ASSIST_PROF h
def State.kindOf (s : State) (h : Nat) : Nat := s.rdi F.WRA_PROF_A_KIND (s.profOf h)

/-- The write power class of a disk channel (Table 11-4). -/
def State.chanClass (s : State) (c : Nat) : Nat :=
  let ch := Store.get ChanWra.init s.wra.chans c
  if ch.writing then 3 + Nat.min 2 (s.kindOf ch.head)
  else if bitAt (s.rd F.WRA_STATUS_CH_ARMED) c then 2
  else if ch.head < 24 then 1
  else 0

/-- The write power class of the tape outputs (Table 11-4). -/
def State.tapeClass (s : State) : Nat :=
  if !s.tMode || !s.on F.WRA_STATUS_TSYNTH_LOCK then 0 else if s.on F.WRA_STATUS_TAPE_SQUELCH then 6 else 7

/-- The recording band of a track of a surface: the one with the highest first track that is not above it; a band of rate
and length 0 where there is none (R208). -/
def State.bandAt (s : State) (h : Nat) (t : Int) : Band :=
  (s.disk.bands.filter (fun b => b.surface = h && b.firstTrack ≤ t)).foldl (fun m b =>
    if m.firstTrack ≤ b.firstTrack then b else m) { surface := h, band := 0, firstTrack := 0, rate := 0, d := 0 }

/-- The band under the head of a disk channel. -/
def State.bandUnder (s : State) (c : Nat) : Band :=
  s.bandAt (Store.get ChanWra.init s.wra.chans c).head (Store.get ActSt.init s.ctl.acts (c / 2)).track

/-- A value that lies in MRAM as a field shows it: 0 until the MRAM step of start-up (Table 18-3). -/
def State.pastMram (s : State) (v : Nat) : Nat := if s.rd F.BOOT_STATUS_STAGE = 0 then 0 else v

/-- The fields whose value is computed, each with its computation. -/
def liveTable : List (Nat × (State → Nat → Nat)) :=
  [(F.HIF_STATUS_HRDY.key 0 0, fun s _ => b2n s.hrdy),
   (F.HIF_STATUS_BRACE.key 0 0, fun s _ => s.rd F.PWR_STATUS_BRACE),
   (F.HIF_ING_LEVEL_FULL.key 0 0, fun s _ => b2n (s.rd F.HIF_ING_LEVEL_ENTRIES = 65536)),
   (F.HIF_EVT_STATUS_COUNT.key 0 0, fun s _ => s.host.evtFifo.length),
   (F.HIF_EVT_STATUS_NONEMPTY.key 0 0, fun s _ => b2n (!s.host.evtFifo.isEmpty)),
   (F.HIF_ALERT_CTL_PIN.key 0 0, fun s _ => b2n s.alert),
   (F.SQ_STATUS_OUTSTANDING.key 0 0, fun s _ => s.sq.cmds.countP (fun c => c.src.host) + s.sq.held.length),
   (F.SQ_STATUS_DISCARDING.key 0 0, fun s _ => b2n (s.sq.slots.any (fun p => p.2.state = .discard))),
   (F.OMAP_OBJ_COUNT_LO_COUNT.key 0 0, fun s _ =>
     s.pastMram (s.obj.objs.countP (fun p => s.isHome p.1)) % 2 ^ 32),
   (F.OMAP_OBJ_COUNT_HI_COUNT.key 0 0, fun s _ =>
     s.pastMram (s.obj.objs.countP (fun p => s.isHome p.1)) / 2 ^ 32),
   (F.TNS_STATUS_CTX_USED.key 0 0, fun s _ => s.obj.ctxs.length),
   (F.TNS_STATUS_ENG_C.key 0 0, fun s _ => s.sq.cmds.countP Cmd.compresses),
   (F.TNS_STATUS_ENG_D.key 0 0, fun s _ => s.sq.cmds.countP Cmd.decompresses),
   (F.FMT_RWQ_LEVEL_ENTRIES.key 0 0, fun s _ => s.tape.rwq.length),
   (F.FMT_DSTATUS_DESTAGING.key 0 0, fun s _ => b2n (!s.disk.destage.isEmpty)),
   (F.FMT_DSTATUS_CLEANING.key 0 0, fun s _ => b2n (!s.disk.cleaning.isEmpty)),
   (F.FMT_DSTATUS_WAIT_LANDING.key 0 0, fun s _ => b2n (s.sq.cmds.any (fun c => c.waits = 2))),
   (F.FMT_DSTATUS_LAND_FREE.key 0 0, fun s _ => if !s.disk.ztRead then 0 else
     (s.disk.rings.filter (fun p => s.headOk p.1)).foldl (fun m p => Nat.min m p.2.freePct) 100),
   (F.FMT_LAND_HELD_COUNT.key 0 0, fun s _ =>
     if !s.disk.ztRead then 0 else (s.disk.rings.map (fun p => p.2.heldNow)).sum),
   (F.FMT_ZONES_FREE_COUNT.key 0 0, fun s _ => if !s.disk.ztRead then 0 else
     s.disk.zoneCount - s.disk.zones.countP (fun p => p.1 < s.disk.zoneCount && p.2.state != 0)),
   (F.DET_WAIT_FOREGROUND.key 0 0, fun s _ => s.waitingIn (fun c => c = .verify || c = .read)),
   (F.DET_WAIT_OTHER.key 0 0, fun s _ => s.waitingIn (fun c => c = .readback || c = .retry || c = .background)),
   (F.WRA_POWER_CLASS_CH.key 0 0, fun s _ =>
     s.chanClass 0 + s.chanClass 1 * 16 + s.chanClass 2 * 256 + s.chanClass 3 * 4096),
   (F.WRA_POWER_CLASS_TAPE.key 0 0, fun s _ => s.tapeClass),
   (F.DET_STATUS_CONGESTED.key 0 0, fun s _ =>
     b2n (s.rd F.DET_CFG_CONGEST < s.det.waiting.countP (fun j => j.list = .verify || j.list = .read))),
   (F.GRP_STATUS_ROLE.key 0 0, fun s _ => s.role),
   (F.GRP_STATUS_STATE.key 0 0, fun s _ => (s.grp.mrec.map (fun r => r.state s.myId)).getD (s.rd F.GRP_STATUS_HAS_ID)),
   (F.GRP_EPOCH_LO_EPOCH.key 0 0, fun s _ => s.epoch % 2 ^ 32),
   (F.GRP_EPOCH_HI_EPOCH.key 0 0, fun s _ => s.epoch / 2 ^ 32),
   (F.GRP_ACTIVE_LO_MEMBERS.key 0 0, fun s _ =>
     (s.grp.mrec.map (fun r => r.bitmap (fun st => st = 3))).getD 0 % 2 ^ 32),
   (F.GRP_ACTIVE_HI_MEMBERS.key 0 0, fun s _ =>
     (s.grp.mrec.map (fun r => r.bitmap (fun st => st = 3))).getD 0 / 2 ^ 32),
   (F.RED_JRNL_USED.key 0 0, fun s _ => s.pastMram s.red.own.length),
   (F.RED_STATUS_REBUILD.key 0 0, fun s _ => b2n (!s.red.rebuild.isEmpty)),
   (F.RED_LAYOUT_CURRENT.key 0 0, fun s _ => s.pastMram s.red.layout),
   (F.RED_LAYOUT_PENDING.key 0 0, fun s _ => s.pastMram s.red.layoutPending),
   (F.RED_LAYOUT_K.key 0 0, fun s _ => s.pastMram s.red.k),
   (F.RED_LAYOUT_K_PENDING.key 0 0, fun s _ => s.pastMram s.red.kPending),
   (F.RED_STATUS_RESHAPE.key 0 0, fun s _ => b2n (s.red.layoutPending != s.red.layout)),
   (F.RED_STATUS_TAKEOVER.key 0 0, fun s _ => b2n (!s.red.takeover.isEmpty)),
   (F.RED_STATUS_MIRROR_COPY.key 0 0, fun s _ => b2n s.red.copyTo.isSome),
   (F.RED_STATUS_JRNL_FULL.key 0 0, fun s _ => b2n (43008 ≤ s.red.own.length)),
   (F.RED_REBUILD_LEFT_LO_COUNT.key 0 0, fun s _ => s.red.rebuild.length % 2 ^ 32),
   (F.RED_REBUILD_LEFT_HI_COUNT.key 0 0, fun s _ => s.red.rebuild.length / 2 ^ 32),
   (F.RED_CRITICAL_COUNT.key 0 0, fun s _ => s.red.rebuild.countP (fun i => decide (2 ≤ s.lostSlots i.entry))),
   (F.GLB_CONFIG_GROUP.key 0 0, fun s _ => b2n s.inGroup),
   (F.GLB_CONFIG_PORTS.key 0 0, fun s _ => s.rd F.HIF_LINK_CFG_PORTS),
   (F.GLB_STATUS_READY.key 0 0, fun s _ => s.rd F.HIF_STATUS_READY),
   (F.GLB_STATUS_BRACE.key 0 0, fun s _ => s.rd F.PWR_STATUS_BRACE),
   (F.GLB_STATUS_QUIESCE.key 0 0, fun s _ => s.rd F.HIF_STATUS_QUIESCE),
   (F.GLB_STATUS_RECOVERY.key 0 0, fun s _ => s.rd F.BOOT_STATUS_RECOVERY),
   (F.GLB_STATUS_HALVED.key 0 0, fun s _ => s.rd F.CLK_STATUS_HALVED),
   (F.GLB_STATUS_THROTTLE.key 0 0, fun s _ => s.rd F.SQ_THROTTLE_STATE),
   (F.GLB_STATUS_DEGRADED.key 0 0, fun s _ => b2n s.degraded),
   (F.GLB_STATUS_MEDIUM.key 0 0, fun s _ => if s.host.readyOnce then s.medium.state else 0),
   (F.GLB_ERR_SUMMARY_BLOCKS.key 0 0, fun s _ => s.errSummary),
   (F.CTL_STATUS_EN.key 0 0, fun s _ =>
     ((List.range 12).filter (fun i => s.rdi F.CTL_SLOT_CFG_EN i != 0)).foldl setBit 0),
   (F.CTL_STATUS_LOST.key 0 0, fun s _ =>
     ((List.range 12).filter (fun i => s.rdi F.CTL_SLOT_STATUS_STATE i = 3)).foldl setBit 0)]

/-- The value a field shows: the computed one where it has one, else the stored one. -/
def State.shown (s : State) (f : Field) (i j : Nat) : Nat :=
  if f.off = F.SQ_CR_HELD_COUNT.off && f.lo = F.SQ_CR_HELD_COUNT.lo then s.heldCount i
  else if f.off = F.TNS_KEY_LOADED_SLOTS.off then s.keyBits i
  else
    match liveTable.find? (fun p => p.1 = f.key i j) with
    | some p => p.2 s i % 2 ^ f.w
    | none => s.fget f i j

/-- The 32-bit word a register shows: WO fields and reserved bits read 0, and so does an absent register or an offset
that no register occupies (R2, R6, R7). -/
def State.word (s : State) (off : Nat) : Nat :=
  if s.absent off || s.readsZero off then 0
  else (fieldsAt off).foldl (fun v p => if p.1.acc = .wo then v else v + s.shown p.1 p.2.1 p.2.2 * 2 ^ p.1.lo) 0

/-! ## Reads (R8, R71, R303, R452, R453) -/

/-- The offsets of the _LO registers of the latched pairs (R8). -/
def latchedPairs : List Nat :=
  [0x0000028, 0x00A0004, 0x00C0010, 0x00C0018, 0x0101020, 0x0180020, 0x0180028, 0x0240004, 0x0280020, 0x0280030]

/-- The number of a requester in the latch table. -/
def Req.num : Req → Nat
  | .portA => 0
  | .portB => 1
  | .mgmt => 2

/-- The words of an event item (Table 03-7). -/
def EvtItem.word (e : EvtItem) : Nat → Nat
  | 0 => e.type + e.source % 256 * 2 ^ 8 + e.code * 2 ^ 16
  | 1 => e.seq
  | 2 => e.arg % 2 ^ 32
  | _ => e.arg / 2 ^ 32 % 2 ^ 32

/-- Pop the oldest item into the holding register, or load the idle item (R71). -/
def State.popEvt (s : State) : State :=
  match s.host.evtFifo with
  | [] => (((s.wr F.HIF_EVT_DATA0_WORD0 0).wr F.HIF_EVT_DATA1_WORD1 0).wr F.HIF_EVT_DATA2_WORD2 0).wr
      F.HIF_EVT_DATA3_WORD3 0
  | e :: t =>
    let s := { s with host := { s.host with evtFifo := t } }
    (((s.wr F.HIF_EVT_DATA0_WORD0 (e.word 0)).wr F.HIF_EVT_DATA1_WORD1 (e.word 1)).wr F.HIF_EVT_DATA2_WORD2
      (e.word 2)).wr F.HIF_EVT_DATA3_WORD3 (e.word 3)

/-- A read of `HIF.EVT_DATA0` by a requester: it pops through the named port and the management path; the other port
of a dual-port device reads the idle item and pops nothing, and leaves the holding register as it stands: DESIGN CHOICE,
the spec does not say what EVT_DATA1 to EVT_DATA3 then read on that port (R54, R71; log entry 68). -/
def State.readEvt (s : State) (req : Req) : State × Nat :=
  if req != .mgmt && s.dual && req != Req.ofPort s.evtPort then (s, 0)
  else
    let s := s.popEvt
    (s, s.rd F.HIF_EVT_DATA0_WORD0)

/-- A read of `TRC.RD_DATA`: in DONE the entry at INDEX, its time latched and INDEX advanced; entries at or above the
channel's count read 0 (R303). -/
def State.readTrace (s : State) : State × Nat :=
  if s.rd F.TRC_STATUS_STATE = 3 then
    let i := s.rd F.TRC_RD_ADDR_INDEX
    let e := ((Store.get [] s.trc.chans (s.rd F.TRC_RD_ADDR_CHANNEL)).reverse[i]?).getD { value := 0, time := 0 }
    ((s.wr F.TRC_RD_TIME_TIME e.time).wr F.TRC_RD_ADDR_INDEX ((i + 1) % 65536), e.value)
  else (s, 0)

/-- A read of the BAR0 register at `off` by a requester: the value returned, and what the read does. -/
def State.readReg (s : State) (req : Req) (off : Nat) : State × Nat :=
  if s.absent off then (s, 0)
  else if off = F.HIF_EVT_DATA0_WORD0.off then s.readEvt req
  else if off = F.TRC_RD_DATA_VALUE.off then s.readTrace
  else if off = F.TRC_RD_TIME_TIME.off && s.rd F.TRC_STATUS_STATE != 3 then (s, 0)
  else if latchedPairs.contains off then
    let hi := s.word (off + 4)
    let k := req.num * 2 ^ 26 + off
    ({ s with host := { s.host with latch := Store.put 0 s.host.latch k hi } }, s.word off)
  else if latchedPairs.any (fun o => o + 4 = off) then
    (s, Store.get 0 s.host.latch (req.num * 2 ^ 26 + (off - 4)))
  else
    let v := s.word off
    ((fieldsAt off).foldl (fun s p => if p.1.acc = .rc then s.fset p.1 p.2.1 p.2.2 0 else s) s, v)

end Sys2Proof.Machine
end

