-- ==== Sys2Proof/Machine/Reset.lean ====
section
/-!
DEFINITION. Resets (R9, R10, R43, R457, R458, R470, R484): what each reset domain loses, the reset cause, and the
commands that reset the device or restart its watchdog.
-/

namespace Sys2Proof.Machine

/-- The unit ids that the committed objects name, and those of committed map deltas. -/
def ObjSt.liveUnits (o : ObjSt) : List Nat := (o.objs.map (fun p => p.2.units)).flatten ++ o.deltas

/-- Partial effects of uncommitted commands are discarded (R32, R34, R43): only units that a committed map entry names
or that hold a committed map delta stay. -/
def State.dropUncommitted (s : State) : State :=
  let live := s.obj.liveUnits ++ (s.red.strips.map (fun t => t.units)).flatten ++
    (s.red.remote.map (fun c => if c.written then c.units else [])).flatten
  let keep := fun u => live.contains u
  { s with
    obj := { s.obj with units := s.obj.units.filter (fun p => keep p.1) }
    disk := { s.disk with
      destage := s.disk.destage.filter keep
      rings := s.disk.rings.map (fun p => (p.1, p.2.release (fun h => !keep h.unit))) } }

/-- The parts of the state that leave with the WARM domain and have no register: queues, caches, keys, engines. What
lies in MRAM, in the flash or on the medium stays (R10). -/
def State.warmLosses (s : State) : State :=
  let s := s.dropUncommitted
  { s with
    host := { s.host with
      evtFifo := [], evtSeq := 1, readyOnce := false, latch := []
      msix := s.host.msix.filterMap (fun p =>
        let m := { p.2 with pend := false }
        if m = Msix.init then none else some (p.1, m)) }
    sq := SqSt.init
    obj := { s.obj with
      keys := [], cursors := [], nonce := s.obj.nonceEnd, ctxs := [], ctxClock := 0, gatherFree := 0
      awaitMaps := 0, deleting := [], gone := [] }
    boot := { s.boot with
      records := [], when2 := [], servo := [], format := [], version := 0, patchWords := [], patchCode := []
      writePtr := 0, activation := 0, wdtMs := 0, wdtArmed := false, norOp := 0, norAddr := 0
      norBytes := [] }
    tape := { TapeSt.init with present := s.tape.present, protect := s.tape.protect, header := s.tape.header
                               onTape := s.tape.onTape ++ s.tape.sets.filter (fun d => d.begun)
                               written := s.tape.written }
    mot := MotSt.init
    disk := { s.disk with
      ztRead := false, readBacks := [], redo := [], cleaning := [], cleanOn := false
      badReads := [], acqFails := []
      copyFaults := [], lowRings := 0 }
    det := { DetSt.init with retiredRec := s.det.retiredRec }
    medium := MediumSt.init
    wra := { WraSt.init with savedLevels := s.wra.savedLevels }
    ctl := CtlSt.init
    trc := TrcSt.init
    grp := { GrpSt.init with recA := s.grp.recA, recB := s.grp.recB, mgmtAddr := s.grp.mgmtAddr, mgmtEid := s.grp.mgmtEid }
    red := { s.red with
      stripes := [], rowsNew := [], flipNew := false, gather := [], landed := [], copied := [], absent := []
      remote := s.red.remote.filter (fun c => c.written), requests := []
      slowMs := [], rebuild := [], rebuildTotal := 0, rebuildSteps := 0, takeover := [], taken := [], takeWait := []
      recheck := [], succ := [], copyTo := none
      shareFloor := false }
    pwr := { s.pwr with
      requests := [], admitted := [], admitNow := 0, sinceRelease := 0xFFFFFFFF, corr := 2 ^ 30, overMs := 0
      underMs := 0, braceMs := 0, retractDue := false, spinAgain := false, currents := []
      granted := [] }
    mem := { s.mem with corr := [[], [], []], fullTold := [false, false, false], posSram := 0, posMram := 0
                        scrubDone := [false, false, false] } }

/-- A reset of the WARM domain. -/
def State.resetWarm (s : State) : State :=
  let s := s.warmLosses
  { s with regs := { s.regs with warm := [] } }

/-- A reset of the POR and WARM domains: HBM and SRAM contents are not preserved (R10), configuration space returns to
its reset state (R484), a dynamic management address is dropped (R480), the sensors that need the core read as not valid
(R389). -/
def State.resetPor (s : State) : State :=
  let s := s.resetWarm
  let s := [1, 10, 11].foldl (fun s n => s.wri F.THM_TEMP_VALID n 0) s
  let s := ((s.wr F.CLK_STATUS_ROOT_LOCK 0).wr F.CLK_STATUS_PCIE_LOCK 0).wr F.CLK_STATUS_EPL_LOCK 0
  { s with
    regs := { s.regs with por := [] }
    boot := { s.boot with fuses := { s.boot.fuses with otpRead := false } }
    host := { s.host with cfgDone := false, msix := [], cfgSpace := [], aerUncA := 0, aerUncB := 0, aerCorA := 0
                          aerCorB := 0 }
    grp := { s.grp with mgmtAddr := 0x1D, mgmtEid := 0 }
    mem := { s.mem with hbm := [], hbmInit := false, sram := [], winSlices := List.replicate 8 0
                        winCorr := [0, 0, 0], winMask := 0 } }

/-- A reset of every domain. The sensors and the clock halving belong to the AON domain (R379, R389). -/
def State.resetAon (s : State) : State :=
  let s := s.resetPor
  { s with
    regs := { s.regs with aon := [] }
    pwr := { s.pwr with sensors := [], winSlow := 0, winHalvedUs := 0, halved10 := List.replicate 10 0
                        sinceSlow := 0xFFFFFFFF, thermalHold := none } }

/-- Record the cause of a reset: CAUSE holds the lowest code since start-up last began, MULTIPLE whether there were
several (R458). -/
def State.resetCause (s : State) (code : Nat) : State :=
  let cs := if s.boot.causes.contains code then s.boot.causes else s.boot.causes ++ [code]
  let low := cs.foldl Nat.min code
  let s := { s with boot := { s.boot with causes := cs } }
  (s.wr F.GLB_RESET_CAUSE_CAUSE low).wr F.GLB_RESET_CAUSE_MULTIPLE (b2n (cs.length > 1))

/-- PERST_N and a data link down reset a port's configuration space, its AER status words among it (R484). -/
def State.clearCfgSpace (s : State) (port : Bool) : State :=
  let inPort := fun (width k : Nat) => decide (b2n port * width ≤ k) && decide (k < (b2n port + 1) * width)
  { s with host := { s.host with
      aerUncA := if port then s.host.aerUncA else 0
      aerCorA := if port then s.host.aerCorA else 0
      aerUncB := if port then 0 else s.host.aerUncB
      aerCorB := if port then 0 else s.host.aerCorB
      msix := s.host.msix.filter (fun p => !inPort 128 p.1)
      cfgSpace := s.host.cfgSpace.filter (fun p => !inPort 1024 p.1) } }

/-- `ALWAYS_ON_SUPPLY_UP`: every domain is reset and the cause is code 1 (R9, R458). -/
def execAlwaysOnSupplyUp (s : State) : Host.Outcome State Fault Refusal :=
  let s := s.resetAon
  let s := { s with boot := { s.boot with causes := [] } }
  .next (s.resetCause 1)

/-- `POWER_ON_RESET`: the POR and WARM domains are reset; an MRAM write in progress has completed, since a write is one
step of the model (R9, R470). -/
def execPowerOnReset (s : State) : Host.Outcome State Fault Refusal := .next (s.resetPor.resetCause 2)

/-- `SAG_RESET_CROSSING`: SAG_SENSE has stayed below the reset level: the POR and WARM domains are reset wherever a brace
stands; an MRAM write in progress has completed, since a write is one step of the model (R385). -/
def execSagResetCrossing (mv : BitVec 10) (s : State) : Host.Outcome State Fault Refusal :=
  let s := s.resetPor
  .next ({ s with pwr := { s.pwr with sagMv := mv.toNat } }.resetCause 3)

/-- `PERST_N_ASSERTED`: the WARM domain is reset, commands without posted completion end, and both ports'
configuration spaces are reset; the links are down, so LINK_STATUS reads 0 (R9, R43, R484, Table 03-11). -/
def execPerstNAsserted (s : State) : Host.Outcome State Fault Refusal :=
  let s := s.resetWarm
  let s := (s.clearCfgSpace false).clearCfgSpace true
  let s := { s with host := { s.host with perst := true, cfgDone := false } }
  let s := (s.wr F.HIF_LINK_STATUS_A_WIDTH 0).wr F.HIF_LINK_STATUS_A_SPEED 0
  let s := (s.wr F.HIF_LINK_STATUS_B_WIDTH 0).wr F.HIF_LINK_STATUS_B_SPEED 0
  .next (s.resetCause 5)

/-- `PERST_N_DEASSERTED`: link training starts and the bound of R51 begins (R469). -/
def execPerstNDeasserted (s : State) : Host.Outcome State Fault Refusal :=
  .next { s with host := { s.host with perst := false } }

/-- `WATCHDOG_EXPIRY`: an armed watchdog that PERIOD_MS have passed without a restart of resets the WARM domain; the link stays trained and the
configuration space stands (R439, R484). -/
def execWatchdogExpiry (s : State) : Host.Outcome State Fault Refusal :=
  if s.boot.wdtArmed && s.rd F.BOOT_WDT_CFG_PERIOD_MS ≤ s.boot.wdtMs then .next (s.resetWarm.resetCause 7) else .next s

/-- `WDT_KICK`: a write of 0x5A17 by firmware restarts the watchdog; a host write is ignored (R439). -/
def execWdtKick (byHost : Bool) (value : Word) (s : State) : Host.Outcome State Fault Refusal :=
  if !byHost && bits value.toNat 0 16 = 0x5A17 then .next { s with boot := { s.boot with wdtMs := 0 } }
  else .next s

end Sys2Proof.Machine
end

