-- ==== Sys2Proof/Machine/HostLink.lean ====
section
/-!
DEFINITION. The host link: configuration requests, link up and down, BAR0 and BAR4 access errors, register reads, the
event FIFO, MSI-X vectors and received TLP errors (R49 to R60, R71, R484, R489).
-/

namespace Sys2Proof.Machine

/-- Memory requests of a port reach the device: its configuration is set up and PERST_N is deasserted (R51). -/
def State.barsUp (s : State) (port : Bool) : Bool :=
  s.host.cfgDone && !s.host.perst && (!port || s.dual)

/-! ## Configuration space (R49, R51, R484) -/

/-- The subsystem word: SUBSYS of the header, or vendor 0x1F7E and subsystem 0x0000 (R50). -/
def State.subsysWord (s : State) : Nat := if s.host.subsys = 0 then 0x1F7E else s.host.subsys

/-- The lanes of a port in the configuration in force (Table 03-2). -/
def State.portLanes (s : State) : Nat :=
  match s.rd F.HIF_LINK_CFG_PORTS with
  | 0 => 8
  | 2 => 2
  | _ => 4

/-- The word at which the AER capability begins: in the extended configuration space, as the PCIe base specification has
it, where the spec gives no place (R49; log entry 21). -/
def aerBase : Nat := 64 + Config.aerReg.toNat % 940

/-- The bits of a configuration word that Table 03-1 fixes, as a mask and their value: one function, no INTx, D3hot
without D1 and D2, MSI-X with 65 vectors in BAR4, a payload of 512 B at most, no function-level reset, 32.0 GT/s at the
configured width, L1 without L0s, 10-bit tags, ECRC (R49; log entry 21). -/
def State.cfgFixed (s : State) (reg : Nat) : Nat × Nat :=
  if reg = 1 then (0x100000, 0x100000)
  else if reg = 3 then (0xFF0000, 0)
  else if reg = 12 then (0xFFFFFFFF, 0)
  else if reg = 13 then (0xFF, pmReg * 4)
  else if reg = 15 then (0xFF00, 0)
  else if reg = pmReg then (0x0600FFFF, 0x01 + msixReg * 4 * 2 ^ 8)
  else if reg = msixReg then (0x07FFFFFF, 0x11 + pcieReg * 4 * 2 ^ 8 + 64 * 2 ^ 16)
  else if reg = msixReg + 1 then (0xFFFFFFFF, 0x80004)
  else if reg = msixReg + 2 then (0xFFFFFFFF, 0x90004)
  else if reg = pcieReg then (0x00FFFFFF, 0x20010)
  else if reg = pcieReg + 1 then (0x10000007, 2)
  else if reg = pcieReg + 3 then (0xFFF, 5 + s.portLanes * 2 ^ 4 + 2 * 2 ^ 10)
  else if reg = pcieReg + 9 then (0x30000, 0x30000)
  else if reg = pcieReg + 11 then (0xFE, 0x3E)
  else if reg = aerBase + 6 then (0xA0, 0xA0)
  else (0, 0)

/-- The writable bits of a configuration word: the BARs by their sizes (Table 03-3), the header's fixed words not at
all, Enable and Function Mask of the MSI-X Message Control, the rest as the PCIe base specification gives it. -/
def cfgMask (reg : Nat) : Nat :=
  if reg = msixReg then 0xC0000000 else
  match reg with
  | 0 => 0
  | 2 => 0
  | 4 => 0xFC000000
  | 5 => 0xFFFFFFFF
  | 6 => 0xFC000000
  | 7 => 0xFFFFFFFF
  | 8 => 0xFFF00000
  | 9 => 0xFFFFFFFF
  | 11 => 0
  | n => (Config.cfgWritable n).toNat

/-- A word with the bits of a mask replaced by those of a value. -/
def putMask (x m v : Nat) : Nat := (x ^^^ (x &&& m)) ||| (v &&& m)

/-- A configuration word before the host writes it. -/
def State.cfgDefault (s : State) (reg : Nat) : Nat :=
  match reg with
  | 0 => 0x81641F7E
  | 2 => 0x01800000 + s.rd F.GLB_ID_STEPPING
  | 4 => 0x4
  | 5 => 0
  | 6 => 0xC
  | 7 => 0
  | 8 => 0x4
  | 9 => 0
  | 11 => s.subsysWord
  | n => if n = msixReg then 0 else (Config.cfgWord n).toNat


/-- The AER status words of a port: uncorrectable and correctable. -/
def State.aer (s : State) (port unc : Bool) : Nat :=
  match port, unc with
  | false, true => s.host.aerUncA
  | true, true => s.host.aerUncB
  | false, false => s.host.aerCorA
  | true, false => s.host.aerCorB

/-- An AER status word of a port replaced. -/
def State.setAer (s : State) (port unc : Bool) (v : Nat) : State :=
  match port, unc with
  | false, true => { s with host := { s.host with aerUncA := v } }
  | true, true => { s with host := { s.host with aerUncB := v } }
  | false, false => { s with host := { s.host with aerCorA := v } }
  | true, false => { s with host := { s.host with aerCorB := v } }

/-- The value of a configuration word: what is written where it is writable, and what Table 03-1 fixes over it. -/
def State.cfgRead (s : State) (port : Bool) (reg : Nat) : Nat :=
  let a := aerBase
  if reg = a + 1 then s.aer port true
  else if reg = a + 4 then s.aer port false
  else
    let m := cfgMask reg
    let d := s.cfgDefault reg
    putMask (putMask d m (Store.get (d &&& m) s.host.cfgSpace (cfgKey port reg))) (s.cfgFixed reg).1 (s.cfgFixed reg).2

/-- Every vector of a port whose pending bit is set and that nothing masks any longer sends its message and clears the
bit (R59). -/
def State.flushMsix (s : State) (port : Bool) : State :=
  (List.range 65).foldl (fun s v =>
    let k := b2n port * 128 + v
    let m := Store.get Msix.init s.host.msix k
    if m.pend && !m.masked && s.msixCtl port = 2 then
      { s with host := { s.host with msix := Store.put Msix.init s.host.msix k { m with pend := false } } }.emit
        (.msix port v m.addr m.data)
    else s) s

/-- A configuration write: AER status bits clear by writing 1, other words take their writable bits; held MSI-X messages
that Message Control no longer masks leave. -/
def State.cfgWrite (s : State) (port : Bool) (reg v : Nat) : State :=
  let a := aerBase
  let cut := fun (x : Nat) => x ^^^ (x &&& v)
  if reg = a + 1 then s.setAer port true (cut (s.aer port true))
  else if reg = a + 4 then s.setAer port false (cut (s.aer port false))
  else
    let t := Store.put (s.cfgDefault reg &&& cfgMask reg) s.host.cfgSpace (cfgKey port reg) (v &&& cfgMask reg)
    let s : State := { s with host := { s.host with cfgSpace := t } }
    if reg = msixReg then s.flushMsix port else s

/-- `CONFIG_REQUEST`: answered with Configuration Request Retry Status until the link configuration and the BARs are
set up, and as the configuration space holds from then on (R51, R484); no answer leaves while PERST_N is asserted. -/
def execConfigRequest (port write : Bool) (reg : BitVec 10) (value : Word) (s : State) :
    Host.Outcome State Fault Refusal :=
  if s.host.perst then .next s
  else if !s.host.cfgDone then .next (s.emit (.cfgReply port none))
  else if write then .next ((s.cfgWrite port reg.toNat value.toNat).emit (.cfgReply port (some 0)))
  else .next (s.emit (.cfgReply port (some (s.cfgRead port reg.toNat))))

/-! ## Link up and down (R52, R54, R484, R489) -/

/-- Gather buffer space that a command's units take up: every unit in D-mode, in T-mode those that wait in the gather
buffer (R139). -/
def State.gatherHeld (s : State) (c : Cmd) : Nat :=
  if s.rd F.GLB_CONFIG_MODE = 2 then c.units.length
  else c.units.countP (fun u => s.tape.gather.contains u || s.red.gather.contains u)

/-- The work of an unfinished command is discarded: its units, its landing positions, the context of the stream of its
record, and
a deletion that its delta was to make (R43, R114, Table 06-5). -/
def State.discardWork (s : State) (c : Cmd) : State :=
  let mine := fun u => c.units.contains u
  { s with
    obj := { s.obj with
      units := s.obj.units.filter (fun p => !mine p.1)
      deleting := s.obj.deleting.filter (fun d => d.src != c.src)
      gatherFree := s.obj.gatherFree + s.gatherHeld c
      ctxs := if c.stage = .started && (c.frame.opcode = 0x01 || c.frame.opcode = 0x02) && c.frame.length != 0 then
        s.obj.ctxs.filter (fun x => x.stream != c.src.stream) else s.obj.ctxs }
    tape := { s.tape with gather := s.tape.gather.filter (fun u => !mine u) }
    red := { s.red with gather := s.red.gather.filter (fun u => !mine u) }
    disk := { s.disk with
      destage := s.disk.destage.filter (fun u => !mine u)
      rings := s.disk.rings.map (fun p => (p.1, p.2.release (fun h => h.uid = c.uid))) } }

/-- The trained width and speed of a port. -/
def State.setLink (s : State) (port : Bool) (width speed : Nat) : State :=
  if port then (s.wr F.HIF_LINK_STATUS_B_WIDTH width).wr F.HIF_LINK_STATUS_B_SPEED speed
  else (s.wr F.HIF_LINK_STATUS_A_WIDTH width).wr F.HIF_LINK_STATUS_A_SPEED speed

/-- `LINK_UP`: LINK_STATUS takes the trained width and speed, and the device raises the link-up event, or the event of
a changed speed or width when the link was up (Table 03-9). A link in PERST_N or of an absent port does not train. -/
def execLinkUp (port : Bool) (width speed : BitVec 4) (s : State) : Host.Outcome State Fault Refusal :=
  if s.host.perst || (port && !s.dual) then .next s
  else
    let old := if port then s.rd F.HIF_LINK_STATUS_B_WIDTH else s.rd F.HIF_LINK_STATUS_A_WIDTH
    let s := s.setLink port width.toNat speed.toNat
    .next (s.raise 1 (b2n port) (if old = 0 then 0x001 else 0x003) (width.toNat + speed.toNat * 16))

/-! ## BAR0 and BAR4 access errors (R5, R57) -/

/-- Set a bit of `GLB.ACCESS_ERR` and record the access. -/
def State.accessErr (s : State) (f : Field) (port : Bool) (off : Nat) : State :=
  ((s.wr f 1).wr F.GLB_ACCESS_ADDR_OFFSET off).wr F.GLB_ACCESS_ADDR_PORT (b2n port)

/-- `BAR0_BAD_ACCESS`: a write is ignored, a read returns 0xFFFF_FFFF; SIZE is set (R5). -/
def execBar0BadAccess (port write : Bool) (offset : BitVec 26) (s : State) : Host.Outcome State Fault Refusal :=
  if !s.barsUp port then .next s
  else
    let s := s.accessErr F.GLB_ACCESS_ERR_SIZE port offset.toNat
    .next (if write then s else s.emit (.readData (Req.ofPort port) 0xFFFFFFFF))

/-- A BAR4 access that the device does not accept: a write is ignored, a read returns 0xFFFF_FFFF (R57). -/
def State.badBar4 (s : State) (port write : Bool) : State :=
  let s := s.wr F.HIF_ERR_STATUS_BAR4_ACCESS 1
  if write then s else s.emit (.readData (Req.ofPort port) 0xFFFFFFFF)

/-- `BAR4_BAD_ACCESS`: a write is ignored, a read returns 0xFFFF_FFFF; BAR4_ACCESS is set (R57). -/
def execBar4BadAccess (port write : Bool) (s : State) : Host.Outcome State Fault Refusal :=
  .next (if s.barsUp port then s.badBar4 port write else s)

/-! ## Register reads (R8, R71, R452, R453) -/

/-- A requester reaches the registers: a host port whose memory requests arrive, or the management path. -/
def State.reqUp (s : State) (req : Req) : Bool :=
  match req with
  | .portA => s.barsUp false
  | .portB => s.barsUp true
  | .mgmt => true

/-- A register read by a requester, with the value returned to it; an offset that is no multiple of 4 is an access of R5:
all ones, and SIZE is set. -/
def State.doRead (s : State) (req : Req) (off : Nat) : State :=
  if !s.reqUp req then s
  else if off % 4 != 0 then
    (s.accessErr F.GLB_ACCESS_ERR_SIZE (req = .portB) off).emit (.readData req 0xFFFFFFFF)
  else
    let (s, v) := s.readReg req off
    s.emit (.readData req v)

/-- `LATCHED_PAIR_LO_READ`: the read of a _LO half latches the whole value for the requester (R8, R453). -/
def execLatchedPairLoRead (req : Req) (offset : BitVec 26) (s : State) : Host.Outcome State Fault Refusal :=
  .next (s.doRead req offset.toNat)

/-- `RC_COUNTER_READ`: the read of an RC counter returns its value and clears it (R452). -/
def execRcCounterRead (req : Req) (offset : BitVec 26) (s : State) : Host.Outcome State Fault Refusal :=
  .next (s.doRead req offset.toNat)

/-- `EVT_DATA0_READ`: pop the oldest event item into the holding register, or load the idle item (R71). -/
def execEvtData0Read (port : Bool) (s : State) : Host.Outcome State Fault Refusal :=
  .next (s.doRead (Req.ofPort port) F.HIF_EVT_DATA0_WORD0.off)

/-! ## MSI-X (R59) and received TLPs (Table 03-9) -/

/-- The vector of a port. -/
def State.vector (s : State) (port : Bool) (v : Nat) : Msix := Store.get Msix.init s.host.msix (b2n port * 128 + v)

/-- The 32-bit word `p` of a vector's table entry: address low, address high, data, vector control. -/
def Msix.word (m : Msix) (p : Nat) : Nat :=
  match p with
  | 0 => m.addr % 2 ^ 32
  | 1 => m.addr / 2 ^ 32
  | 2 => m.data
  | _ => b2n m.masked

/-- The word `p` of a vector's table entry written. -/
def Msix.setWord (m : Msix) (p v : Nat) : Msix :=
  match p with
  | 0 => { m with addr := m.addr / 2 ^ 32 * 2 ^ 32 + v / 4 * 4 }
  | 1 => { m with addr := m.addr % 2 ^ 32 + v * 2 ^ 32 }
  | 2 => { m with data := v }
  | _ => { m with masked := bitAt v 0 }

/-- Bits 32n to 32n + 31 of a port's pending bit array. -/
def State.pbaWord (s : State) (port : Bool) (n : Nat) : Nat :=
  ((List.range 32).filter (fun b => 32 * n + b ≤ 64 && (s.vector port (32 * n + b)).pend)).foldl setBit 0

/-- The 32-bit word of BAR4 at an offset: the MSI-X table and the pending bit array; the doorbells and the reserved
ranges read 0 (Table 03-4; log entry 15). -/
def State.bar4Word (s : State) (port : Bool) (off : Nat) : Nat :=
  if 0x80000 ≤ off && off < 0x80410 then (s.vector port ((off - 0x80000) / 16)).word ((off - 0x80000) / 4 % 4)
  else if 0x90000 ≤ off && off < 0x90010 then s.pbaWord port ((off - 0x90000) / 4)
  else 0

/-- A 32-bit write into BAR4 takes effect in the MSI-X table; a doorbell's write is its own row's. -/
def State.bar4Write (s : State) (port : Bool) (off v : Nat) : State :=
  if 0x80000 ≤ off && off < 0x80410 then
    let n := (off - 0x80000) / 16
    let m := (s.vector port n).setWord ((off - 0x80000) / 4 % 4) v
    { s with host := { s.host with msix := Store.put Msix.init s.host.msix (b2n port * 128 + n) m } }
  else s

/-- `MSIX_VECTOR_UNMASK`: a 32-bit or 64-bit access to BAR4. A write of a vector's table entry takes its words; a vector
that nothing masks any longer, with its pending bit set, sends the held message. A read returns the MSI-X table or the
pending bits. An access that is not naturally aligned is one of R57 (R57 to R59). -/
def execMsixVectorUnmask (port write wide : Bool) (offset : BitVec 20) (value : BitVec 64) (s : State) :
    Host.Outcome State Fault Refusal :=
  let o := offset.toNat
  let v := value.toNat
  if !s.barsUp port then .next s
  else if o % (if wide then 8 else 4) != 0 then .next (s.badBar4 port write)
  else if write then
    let s := s.bar4Write port o (v % 2 ^ 32)
    .next ((if wide then s.bar4Write port (o + 4) (v / 2 ^ 32) else s).flushMsix port)
  else
    .next (s.emit (.readData (Req.ofPort port)
      (s.bar4Word port o + (if wide then s.bar4Word port (o + 4) * 2 ^ 32 else 0))))

/-- Log an AER error of a port and raise event 0x004 of type 0x1 (R53, Table 03-9). -/
def State.logAer (s : State) (port unc : Bool) (bit : Nat) (dma : Bool) : State :=
  let s := s.setAer port unc (setBit (s.aer port unc) bit)
  s.raise 1 (b2n port) 0x004 (2 ^ bit + b2n unc * 2 ^ 32 + b2n dma * 2 ^ 33)

/-- `RECEIVED_TLP_ERROR`: a received TLP fails ECRC or another AER check; it is logged and event 0x004 is raised. -/
def execReceivedTlpError (port uncorrectable : Bool) (bit : BitVec 5) (s : State) :
    Host.Outcome State Fault Refusal :=
  if s.host.perst || (port && !s.dual) then .next s
  else .next (s.logAer port uncorrectable bit.toNat false)

end Sys2Proof.Machine
end

