-- ==== Sys2Proof/Machine/Submission.lean ====
section
/-!
DEFINITION. Submission: task slots, tagged queues, completion ring head writes, descriptor lists, DMA reads, and the
configuration registers of queues, rings, arbiter and watermarks (R56 to R58, R64, R74 to R83, R86, R90, R94, R95).
-/

namespace Sys2Proof.Machine

/-! ## States of entities (R106, Table 05-20) -/

/-- A reshape, drain, rebuild or image operation is in progress. -/
def State.adminBusy (s : State) : Bool :=
  s.boot.activation != 0 || s.sq.cmds.any (fun c => c.frame.opcode = 0x33 && c.stage = .started) ||
    !s.red.rebuild.isEmpty || s.red.layoutPending != s.red.layout ||
    (s.grp.mrec.map (fun r => (List.range 64).any (fun i => r.state i = 5 || r.state i = 6))).getD false

/-- The device's state in AUX[7:0], kind 7. -/
def State.deviceState (s : State) : Nat :=
  s.rd F.GLB_CONFIG_MODE + s.rd F.HIF_STATUS_QUIESCE * 4 + s.rd F.PWR_STATUS_BRACE * 8 + b2n s.adminBusy * 16 +
    b2n s.inGroup * 32

/-! ## Commands as they arrive -/

/-- A frame of which nothing is known yet: an unfetched tag. -/
def Frame.none : Frame := Frame.ofBits 0

/-- A command as it arrives. -/
def Cmd.new (uid : Nat) (src : Src) (port : Bool) (ring : Nat) (cls : Cls) (f : Frame) (st : Stage) : Cmd :=
  { uid := uid, src := src, port := port, ring := ring, cls := cls, frame := f, stage := st, admitNo := 0, bufs := []
    asked := 0, data := [], fifo := 0, tags := [], pack := none, taken := 0, encoded := false, units := []
    nonce := 0, copies := [], waits := 0, waitFor := []
    res := 0, aux := 0, prog := 0, crc := 0, missing := none, check := none, fromMedium := false }

/-- Take a new command into the commands the device holds. -/
def State.arrive (s : State) (src : Src) (port : Bool) (ring : Nat) (cls : Cls) (f : Frame) (st : Stage) : State :=
  { s with sq := { s.sq with cmds := s.sq.cmds ++ [Cmd.new s.sq.nextUid src port ring cls f st]
                             nextUid := s.sq.nextUid + 1 } }

/-- Opcodes a task slot accepts (R79, Table 05-1). -/
def slotOpcode (o : Nat) : Bool := [0x01, 0x02, 0x03, 0x10, 0x11, 0x12, 0x13, 0x20].contains o

/-- Opcodes a tagged queue accepts (R102, Table 05-1). -/
def tagOpcode (o : Nat) : Bool :=
  [0x10, 0x11, 0x12, 0x13, 0x20, 0x21, 0x22, 0x30, 0x31, 0x32, 0x33, 0x34, 0x35, 0x36].contains o

/-- Steps 3 and 4 of R79 for the command of a source: the opcode's path, and READY at 0 after start-up has once
completed, where brace decides before activation (R68). -/
def State.pathChecks (s : State) (c : Cmd) (ok : Bool) : State :=
  if !ok then s.fail c stOpcodePath
  else if s.on F.HIF_STATUS_READY then s.setCmd { c with stage := .ready }
  else if s.on F.PWR_STATUS_BRACE then s.conflict c 0x17 7 s.deviceState
  else s.fail c stRequeue

/-- The class a task slot's PRIO selects (R80). -/
def prioClass (p : Nat) : Cls := if p = 0 then .normal else if p = 2 then .background else .high

/-- The class of a tagged queue (Table 04-12). -/
def queueClass (v : Nat) : Cls := if v = 0 then .normal else if v = 1 then .high else if v = 2 then .background else .urgent

/-- A ring takes completions of commands of a port (R79 step 1). -/
def State.ringOpen (s : State) (port : Bool) (r : Nat) : Bool :=
  s.rdi F.SQ_CR_CFG_EN r != 0 && (!s.dual || (s.rdi F.SQ_CR_CFG_PORT r != 0) = port)

/-- The GO write of a slot: the checks of R79 in their order, or the end of a DISCARD (R99). -/
def State.goWrite (s : State) (port : Bool) (st : Nat) (go : Nat) : State :=
  let sl := s.slot st
  let src := Src.slot (BitVec.ofNat 20 st)
  let buf := if sl.state = .discard then 0 else sl.buf
  let f := Frame.ofBits (buf + go * 2 ^ 448)
  if !s.ringOpen port f.cring then
    (s.sqErr F.SQ_ERR_STATUS_NO_RING 0 st).setSlot st { state := .idle, buf := buf, byActivation := false }
  else if sl.state = .discard then
    let s := s.setSlot st { sl with state := .outstanding }
    s.post { src := src, sid := f.stream, port := port, ring := f.cring,
             status := if sl.byActivation then stRequeue else stFlushed, seq := f.seq, result := 0, aux := 0,
             replayed := false, zeroSlot := true }
  else
    let s := s.setSlot st { sl with state := .outstanding }
    let s := s.arrive src port f.cring (prioClass f.prio) f .fetching
    match s.cmdOf src with
    | none => s
    | some c => if f.stream != st then s.fail c stStreamMismatch else s.pathChecks c (slotOpcode f.opcode)

/-- Store bytes of words 0 to 6 in a slot buffer, in ascending address order (R76). -/
def storeBytes (buf off : Nat) : List Byte → Nat
  | [] => buf
  | b :: t => storeBytes (if off < 56 then setBits buf (8 * off) 8 b.toNat else buf) (off + 1) t

/-- A BAR2 write TLP of a port; a TLP without data is a read, which returns 0 in every byte (R56, R58, R76, R77). A write
of another size than R56 accepts sets SLOT_SPAN too: DESIGN CHOICE, the spec names it for a crossing or a misalignment
only (log entry 68). -/
def State.bar2Write (s : State) (port : Bool) (addr : Nat) (bytes : List Byte) : State :=
  let n := bytes.length
  let st := addr / 64
  let off := addr % 64
  let sl := s.slot st
  if !s.barsUp port then s
  else if bytes.isEmpty then s.emit (.readData (Req.ofPort port) 0)
  else if !s.host.readyOnce then s.wr F.HIF_ERR_STATUS_EARLY_DOORBELL 1
  else if !([4, 8, 16, 32, 64].contains n) || addr % n != 0 then s.wr F.HIF_ERR_STATUS_SLOT_SPAN 1
  else if sl.state = .outstanding then s.sqErr F.SQ_ERR_STATUS_SLOT_BUSY 0 st
  else if 56 ≤ off && n < 8 then s.sqErr F.SQ_ERR_STATUS_GO_PARTIAL 0 st
  else
    let words := off < 56 && sl.state != .discard
    let s := if words then s.setSlot st { sl with state := .loading, buf := storeBytes sl.buf off bytes } else s
    if off + n = 64 then s.goWrite port st (leAt bytes (56 - off) 8) else s

/-- `SLOT_WORD_WRITE`: a BAR2 write of words 0 to 6 of a task slot (R76, R77). -/
def execSlotWordWrite (port : Bool) (addr : BitVec 26) (bytes : List Byte) (s : State) :
    Host.Outcome State Fault Refusal :=
  .next (s.bar2Write port addr.toNat bytes)

/-- `GO_WRITE`: a BAR2 write that covers the GO word of a task slot (R76 to R79). -/
def execGoWrite (port : Bool) (addr : BitVec 26) (bytes : List Byte) (s : State) :
    Host.Outcome State Fault Refusal :=
  .next (s.bar2Write port addr.toNat bytes)

/-! ## Tagged queues (R81 to R83) -/

/-- The base address of a queue's submission ring. -/
def State.queueBase (s : State) (q : Nat) : Nat :=
  s.rdi F.SQ_TQ_BASE_LO_ADDR_LO q * 2 ^ 11 + s.rdi F.SQ_TQ_BASE_HI_ADDR_HI q * 2 ^ 32

/-- The doorbell bit of one tag. -/
def State.ringTag (s : State) (port : Bool) (q t : Nat) : State :=
  let busy := s.rdi F.SQ_TQ_BUSY_TAGS q
  if bitAt busy t then s.sqErr F.SQ_ERR_STATUS_TAG_BUSY 1 q
  else
    let s := s.wri F.SQ_TQ_BUSY_TAGS q (setBit busy t)
    let src := Src.tag (BitVec.ofNat 6 q) (BitVec.ofNat 5 t)
    s.arrive src port (s.rdi F.SQ_TQ_CFG_CRING q) (queueClass (s.rdi F.SQ_TQ_CFG_CLASS q)) Frame.none .fetching


/-- A DMA read of the named kind is outstanding for the command. -/
def Cmd.reading (c : Cmd) : DmaWhat → Bool
  | .entry => c.stage = .fetching && c.asked != 0
  | .list => c.stage = .listWait && c.asked != 0
  | .data => c.stage = .started && c.data.length < c.asked

/-- `TAG_ENTRY_FETCHED`: the entry of a submitted tag arrives and is checked under steps 3 and 4 of R79 (R81, R82). -/
def execTagEntryFetched (queue : BitVec 6) (tag : BitVec 5) (entry : BitVec 512) (s : State) :
    Host.Outcome State Fault Refusal :=
  match s.cmdOf (.tag queue tag) with
  | some c =>
    if c.reading .entry then
      let c := { c with frame := Frame.ofBits entry.toNat, asked := 0 }
      .next ((s.setCmd c).pathChecks c (tagOpcode c.frame.opcode))
    else .next s
  | none => .next s

/-! ## Descriptors and DMA (R53, R61, R75) -/

/-- The command moves host data (R75). -/
def Cmd.movesData (c : Cmd) : Bool :=
  c.frame.length != 0 && [0x01, 0x02, 0x10, 0x13, 0x32, 0x33, 0x35, 0x36].contains c.frame.opcode &&
    !(c.frame.opcode = 0x32 && c.frame.flags = 2)

/-- The command pulls host data by DMA (R84). -/
def Cmd.pullsData (c : Cmd) : Bool := c.movesData && [0x01, 0x02, 0x32, 0x33].contains c.frame.opcode

/-- The buffers of the inline descriptors, unused ones skipped (R74, R75). -/
def Frame.inline (f : Frame) : List (Nat × Nat) :=
  [(bits f.inline0 0 48, bits f.inline0 48 16), (bits f.inline1 0 48, bits f.inline1 48 16)].filter (fun b => b.2 != 0)

/-- The buffer lengths sum to LENGTH, or the command ends with DESC_LENGTH (R75). -/
def State.takeBufs (s : State) (c : Cmd) (bufs : List (Nat × Nat)) : State :=
  if (bufs.map (fun b => b.2)).sum = c.frame.length then s.setCmd { c with bufs := bufs, stage := .admitted, asked := 0 }
  else s.fail c stDescLength

/-- `DESC_LIST_FETCHED`: the descriptor list of an admitted command arrives; a zero length or reserved byte gives
INVALID_FIELD, a sum other than LENGTH gives DESC_LENGTH (R75). -/
def execDescListFetched (src : Src) (entries : List (BitVec 128)) (s : State) : Host.Outcome State Fault Refusal :=
  match s.cmdOf src with
  | some c =>
    if c.reading .list && entries.length = c.frame.dcount then
      let es := entries.map (fun e => (bits e.toNat 0 64, bits e.toNat 64 32, bits e.toNat 96 32))
      if es.any (fun e => e.2.1 = 0 || e.2.2 != 0) then .next (s.fail c stInvalidField)
      else .next (s.takeBufs c (c.frame.inline ++ es.map (fun e => (e.1, e.2.1))))
    else .next s
  | none => .next s

/-- The AER uncorrectable error bit and the completion status of a failed DMA read (R53; log entry 21). -/
def DmaFault.report : DmaFault → Nat × Nat
  | .poisoned => (12, stDmaPoisoned)
  | .timeout => (14, stDmaTimeout)
  | .aborted => (15, stDmaRejected)
  | .unsupported => (20, stDmaRejected)


/-- `DMA_READ_FAILED`: the command that issued the read ends with a class 1 status, its partial effects discarded;
the error is logged in AER and event 0x004 of type 0x1 raised; the read is not retried (R53). -/
def execDmaReadFailed (src : Src) (what : DmaWhat) (how : DmaFault) (s : State) : Host.Outcome State Fault Refusal :=
  match s.cmdOf src with
  | some c =>
    if c.reading what then
      let s := s.logAer c.port true how.report.1 true
      .next ((s.discardWork c).fail c how.report.2)
    else .next s
  | none => .next s

/-- The part of a buffer list that follows its first `n` bytes. -/
def dropBytes : Nat → List (Nat × Nat) → List (Nat × Nat)
  | _, [] => []
  | n, (a, l) :: t => if l ≤ n then dropBytes (n - l) t else (a + n, l - n) :: t

/-- The first `n` bytes of a buffer list. -/
def takeBytes : Nat → List (Nat × Nat) → List (Nat × Nat)
  | _, [] => []
  | n, (a, l) :: t => if n = 0 then [] else if n ≤ l then [(a, n)] else (a, l) :: takeBytes (n - l) t

/-- The object offset of a command's first byte: an OPEN's PARAM is none (R16, R107). -/
def Cmd.hostOffset (c : Cmd) : Nat := if c.frame.opcode = 0x01 then 0 else c.frame.offset

/-- The command's host data passes through the ingest FIFO (OPEN and APPEND). -/
def Cmd.viaIngest (c : Cmd) : Bool := c.frame.opcode = 0x01 || c.frame.opcode = 0x02

/-- Entries of the ingest FIFO that a command's data occupies or that are reserved for its reads in flight: of its tag's
entry, its descriptor list or its data (R61). -/
def Cmd.ingest (c : Cmd) : Nat :=
  match c.stage with
  | .fetching => ceilDiv c.asked 32
  | .listWait => ceilDiv c.asked 32
  | _ => if c.pullsData then ceilDiv c.fifo 32 + ceilDiv (c.asked - c.data.length) 32 else 0

/-- Entries of the ingest FIFO that are neither occupied nor reserved for reads in flight (R61). -/
def State.ingestFree (s : State) : Nat := 65536 - (s.sq.cmds.map Cmd.ingest).sum

/-- Issue one DMA read of a command when the ingest FIFO has free entries for all of its completions (R61). -/
def State.askWhole (s : State) (c : Cmd) (addr len : Nat) : State :=
  if c.asked = 0 && ceilDiv len 32 ≤ s.ingestFree then (s.setCmd { c with asked := len }).emit (.dmaRead c.port addr len)
  else s

/-- Issue the DMA reads of one command, as far as the ingest FIFO has free entries for them: of a submitted tag's entry, of
an admitted command's descriptor list, of a started command's data (R61). -/
def State.askData (s : State) (c : Cmd) : State :=
  match c.stage with
  | .fetching =>
    (match c.src with
     | .tag q t => s.askWhole c (s.queueBase q.toNat + 64 * t.toNat) 64
     | _ => s)
  | .listWait => s.askWhole c c.frame.dlist (16 * c.frame.dcount)
  | .started =>
    if c.pullsData && c.asked < c.frame.length then
      let n := Nat.min (c.frame.length - c.asked) (s.ingestFree * 32)
      let rs := takeBytes n (dropBytes c.asked c.bufs)
      let s := rs.foldl (fun s r => s.emit (.dmaRead c.port r.1 r.2)) s
      if n = 0 then s else s.setCmd { c with asked := c.asked + n }
    else s
  | _ => s

/-- Issue the DMA reads that have become possible, in the order of the commands. -/
def State.askAll (s : State) : State := s.sq.cmds.foldl (fun s c =>
  match s.cmdByUid c.uid with
  | some d => s.askData d
  | none => s) s

/-- `TQ_DOORBELL`: each tag of the mask that is not busy becomes busy and its entry is fetched; a busy one sets
TAG_BUSY. A write to a disabled queue or through the other port is ignored whole and sets TQ_INVALID (R81). The tags of
one mask arrive in ascending order: DESIGN CHOICE, the spec gives none (log entry 69). -/
def execTqDoorbell (port : Bool) (queue : BitVec 6) (mask : Word) (s : State) : Host.Outcome State Fault Refusal :=
  let q := queue.toNat
  if !s.barsUp port then .next s
  else if !s.host.readyOnce then .next (s.wr F.HIF_ERR_STATUS_EARLY_DOORBELL 1)
  else if s.rdi F.SQ_TQ_CFG_EN q = 0 || (s.dual && (s.rdi F.SQ_TQ_CFG_PORT q != 0) != port) then
    .next (s.sqErr F.SQ_ERR_STATUS_TQ_INVALID 1 q)
  else .next ((onesOf 32 mask.toNat).foldl (fun s t => s.ringTag port q t) s).askAll

/-! ## Completion rings (R90, R94, R95) -/

/-- A head value lies between the head and the tail of a ring in its circular order (R90). -/
def headOk (size head tail h : Nat) : Bool :=
  h < size && (h + size - head) % size ≤ (tail + size - head) % size

/-- `CR_HEAD_DOORBELL`: the host reports consumption; an invalid value or ring is ignored and sets HEAD_INVALID.
Held completions are then posted while the ring has room (R90, R92). -/
def execCrHeadDoorbell (port : Bool) (ring : BitVec 6) (value : Word) (s : State) : Host.Outcome State Fault Refusal :=
  let r := ring.toNat
  let v := value.toNat
  if !s.barsUp port then .next s
  else if !s.host.readyOnce then .next (s.wr F.HIF_ERR_STATUS_EARLY_DOORBELL 1)
  else if s.ringOpen port r && headOk (s.ringSize r) (s.rdi F.SQ_CR_STATE_HEAD r) (s.rdi F.SQ_CR_STATE_TAIL r) v then
    let s := State.drainHeld (s.sq.held.length + s.sq.cmds.length) r (s.wri F.SQ_CR_STATE_HEAD r v)
    .next (State.settle s.sq.cmds.length s)
  else .next (s.sqErr F.SQ_ERR_STATUS_HEAD_INVALID 2 r)

/-- `COAL_TIMER_EXPIRY`: TIME microseconds after the first entry since the last vector, the vector leaves (R94). -/
def execCoalTimerExpiry (ring : BitVec 6) (s : State) : Host.Outcome State Fault Refusal :=
  let r := ring.toNat
  if s.rdi F.SQ_CR_COAL_TIME r = 0 || Store.get 0 s.sq.coal r = 0 then .next s
  else
    let s := { s with sq := { s.sq with coal := Store.put 0 s.sq.coal r 0 } }
    .next (s.signal (s.boundPort (s.rdi F.SQ_CR_CFG_PORT r)) r)

/-! ## Configuration writes (R64, R83, R86, R95) -/

/-- A write of `HIF.ING_WM`: ignored with WM_INVALID when LOW would not be below HIGH; the occupancy is compared with
the watermarks in force (R62, R64). -/
def State.writeIngWm (s : State) (v : Nat) : State :=
  let hi := bits v 0 16
  let lo := bits v 16 16
  if hi ≤ lo then s.wr F.HIF_ERR_STATUS_WM_INVALID 1
  else ((s.wr F.HIF_ING_WM_HIGH hi).wr F.HIF_ING_WM_LOW lo).syncIngest

/-- `ING_WM_WRITE` (R64). -/
def execIngWmWrite (port : Bool) (value : Word) (s : State) : Host.Outcome State Fault Refusal :=
  .next (if s.barsUp port then s.writeIngWm value.toNat else s)

/-- A write of the arbiter weights, or of the urgent cap and burst: out of range it is ignored whole (R86). -/
def State.writeArb (s : State) (urgent : Bool) (v : Nat) : State :=
  let bad := s.sqErr F.SQ_ERR_STATUS_CFG_INVALID 3 0
  if urgent then
    let cap := bits v 0 8
    let burst := bits v 8 8
    if 1 ≤ cap && cap ≤ 50 && 1 ≤ burst && burst ≤ 64 then
      (s.wr F.SQ_ARB_URGENT_CAP cap).wr F.SQ_ARB_URGENT_BURST burst
    else bad
  else
    let h := bits v 0 8
    let n := bits v 8 8
    let b := bits v 16 8
    if h != 0 && n != 0 && b != 0 then
      ((s.wr F.SQ_ARB_WEIGHT_HIGH h).wr F.SQ_ARB_WEIGHT_NORMAL n).wr F.SQ_ARB_WEIGHT_BACKGROUND b
    else bad

/-- `ARB_CONFIG_WRITE` (R86). -/
def execArbConfigWrite (port urgent : Bool) (value : Word) (s : State) : Host.Outcome State Fault Refusal :=
  .next (if s.barsUp port then s.writeArb urgent value.toNat else s)

/-- A write of a tagged queue's base or configuration (R83). -/
def State.writeTq (s : State) (q : Nat) (part : CfgPart) (v : Nat) : State :=
  let bad := s.sqErr F.SQ_ERR_STATUS_CFG_INVALID 1 q
  let busy := s.rdi F.SQ_TQ_BUSY_TAGS q != 0
  match part with
  | .baseLo =>
    let a := bits v 11 21
    if busy && a != s.rdi F.SQ_TQ_BASE_LO_ADDR_LO q then bad else s.wri F.SQ_TQ_BASE_LO_ADDR_LO q a
  | .baseHi => if busy && v != s.rdi F.SQ_TQ_BASE_HI_ADDR_HI q then bad else s.wri F.SQ_TQ_BASE_HI_ADDR_HI q v
  | .cfg =>
    let en := bits v 0 1
    let cls := bits v 1 2
    let cr := bits v 8 6
    let port := bits v 16 1
    let same := en = s.rdi F.SQ_TQ_CFG_EN q && cls = s.rdi F.SQ_TQ_CFG_CLASS q && cr = s.rdi F.SQ_TQ_CFG_CRING q &&
      port = s.rdi F.SQ_TQ_CFG_PORT q
    if (busy && !same) || (en = 1 && !s.ringOpen (port != 0) cr) then bad
    else
      ((((s.wri F.SQ_TQ_CFG_EN q en).wri F.SQ_TQ_CFG_CLASS q cls).wri F.SQ_TQ_CFG_CRING q cr).wri F.SQ_TQ_CFG_PORT q
        port)

/-- `TQ_CFG_WRITE` (R83). -/
def execTqCfgWrite (port : Bool) (queue : BitVec 6) (part : CfgPart) (value : Word) (s : State) :
    Host.Outcome State Fault Refusal :=
  .next (if s.barsUp port then s.writeTq queue.toNat part value.toNat else s)

/-- Something keeps ring `r` enabled: a command, an enabled queue or a held completion names it (R95). -/
def State.ringInUse (s : State) (r : Nat) : Bool :=
  s.sq.cmds.any (fun c => c.src.host && c.ring = r) || s.heldCount r > 0 ||
    (List.range 64).any (fun q => s.rdi F.SQ_TQ_CFG_EN q != 0 && s.rdi F.SQ_TQ_CFG_CRING q = r)

/-- A write of a completion ring's base or configuration; enabling sets tail 0, head 0, phase 1 (R95, Table 04-13). -/
def State.writeCr (s : State) (r : Nat) (part : CfgPart) (v : Nat) : State :=
  let bad := s.sqErr F.SQ_ERR_STATUS_CFG_INVALID 2 r
  let on := s.rdi F.SQ_CR_CFG_EN r != 0
  match part with
  | .baseLo =>
    let a := bits v 12 20
    if on && a != s.rdi F.SQ_CR_BASE_LO_ADDR_LO r then bad else s.wri F.SQ_CR_BASE_LO_ADDR_LO r a
  | .baseHi => if on && v != s.rdi F.SQ_CR_BASE_HI_ADDR_HI r then bad else s.wri F.SQ_CR_BASE_HI_ADDR_HI r v
  | .cfg =>
    let en := bits v 0 1
    let size := bits v 4 5
    let port := bits v 12 1
    if size < 4 || 16 < size || (on && (size != s.rdi F.SQ_CR_CFG_SIZE_LOG2 r || port != s.rdi F.SQ_CR_CFG_PORT r)) ||
        (on && en = 0 && s.ringInUse r) then bad
    else
      let s := ((s.wri F.SQ_CR_CFG_EN r en).wri F.SQ_CR_CFG_SIZE_LOG2 r size).wri F.SQ_CR_CFG_PORT r port
      -- the count starts anew, and a COUNT lowered to what is counted acts at the next entry: DESIGN CHOICE (log entry 69)
      if !on && en = 1 then
        let s := ((s.wri F.SQ_CR_STATE_TAIL r 0).wri F.SQ_CR_STATE_HEAD r 0).wri F.SQ_CR_HELD_PHASE r 1
        { s with sq := { s.sq with coal := Store.put 0 s.sq.coal r 0 } }
      else s

/-- `CR_CFG_WRITE` (R95). -/
def execCrCfgWrite (port : Bool) (ring : BitVec 6) (part : CfgPart) (value : Word) (s : State) :
    Host.Outcome State Fault Refusal :=
  .next (if s.barsUp port then s.writeCr ring.toNat part value.toNat else s)

end Sys2Proof.Machine
end

