-- ==== Sys2Proof/Machine/Arbiter.lean ====
section
/-!
DEFINITION. Admission: eligibility, the arbiter's procedure, the throttle meter, and the role and form checks of an
admitted command (R84, R85, R87, R103, R104 steps 1 and 2).
-/

namespace Sys2Proof.Machine

/-! ## Cost and eligibility (R84, R87) -/

/-- The cost of a command in units (R87). -/
def Cmd.cost (c : Cmd) : Nat :=
  let o := c.frame.opcode
  if o = 0x01 || o = 0x02 || o = 0x10 then 1 + ceilDiv c.frame.length 4096
  else if [0x11, 0x20, 0x21, 0x22, 0x35, 0x36].contains o then 0
  else 1

/-- The meter lets a command be admitted: no throttle is enforced, or its cost is at most what the window has left; a
cost above the whole allowance passes as the window's first admission and shuts the window (R87). -/
def State.meterOk (s : State) (c : Cmd) : Bool :=
  if s.rd F.SQ_THROTTLE_STATE != 2 then true
  else if s.sq.winShut then false
  else c.cost ≤ s.sq.winLeft || (s.sq.winFresh && s.rd F.SQ_ADMIT_LIMIT_UNITS < c.cost)

/-- A ready command is eligible at a dispatch slot (R84). -/
def State.eligible (s : State) (c : Cmd) : Bool :=
  c.stage = .ready && s.heldCount c.ring = 0 && !(c.pullsData && s.on F.HIF_ING_LEVEL_HIGH_STATE) && s.meterOk c

/-- The first eligible command of a class. -/
def State.firstOf (s : State) (k : Cls) : Option Cmd := s.sq.cmds.find? (fun c => c.cls = k && s.eligible c)

/-- An admission spends the command's cost from the window (R87). -/
def State.spend (s : State) (c : Cmd) : State :=
  let s := { s with pwr := { s.pwr with admitNow := s.pwr.admitNow + c.cost } }
  if s.rd F.SQ_THROTTLE_STATE = 2 then
    { s with sq := { s.sq with winLeft := s.sq.winLeft - c.cost, winFresh := false
                               winShut := s.sq.winShut || decide (s.rd F.SQ_ADMIT_LIMIT_UNITS < c.cost) } }
  else s

/-! ## Form checks (R103, Table 05-2) -/

/-- The first error that a form check finds: reserved and unused fields first, then ranges. -/
def firstErr (fields : Bool) (lengthOk : Bool) : Option Nat :=
  if !fields then some stInvalidField else if !lengthOk then some stLengthRange else none

/-- LENGTH is a multiple of `m` from `m` to `hi`. -/
def lengthStep (n m hi : Nat) : Bool := n % m = 0 && m ≤ n && n ≤ hi

/-- The member fields of KEY: [5:0] member, and [6] ALL where the opcode has it; all 0 in solo (Table 05-2). -/
def memberKeyOk (solo : Bool) (key width : Nat) : Bool := if solo then key = 0 else key < 2 ^ width

/-- The form of the MEDIA opcode (Tables 05-2, 05-10). -/
def State.mediaForm (s : State) (f : Frame) : Bool :=
  let here := !s.inGroup || f.key = s.myId
  memberKeyOk (!s.inGroup) f.key 6 && f.length = 0 && 1 ≤ f.flags && f.flags ≤ 6 &&
    (if f.flags = 4 || f.flags = 6 then
      f.offset < 2 ^ 32 && !s.tMode && (!here || f.offset < s.disk.zoneCount)
     else f.offset = 0)

/-- The form of the GROUP_ADMIN opcode (Tables 05-2, 05-12). -/
def adminForm (f : Frame) : Bool :=
  f.length = 0 && 1 ≤ f.flags && f.flags ≤ 9 &&
    (if f.flags = 1 then f.key < 2 ^ 64 else if f.flags = 8 || f.flags = 9 then f.key = 0 else f.key < 64) &&
    (if f.flags = 8 then 4 ≤ f.offset && f.offset ≤ 30 else f.offset = 0)

/-- A LIST cursor is 0 or one the device issued since the last reset (R115). -/
def State.cursorOk (s : State) (n : Nat) : Bool := n = 0 || s.obj.cursors.any (fun p => p.1 = n)

/-- The form check of a command by its opcode: reserved and unused fields, then ranges (R103). -/
def State.formCheck (s : State) (f : Frame) : Option Nat :=
  let plain := f.rsv31 = 0 && f.rsvRoute = 0
  let none0 := plain && f.key = 0 && f.length = 0
  match f.opcode with
  | 0x01 => firstErr (plain && f.flags = 0 && f.offset < 2 ^ 9) (f.length ≤ 0x4000000)
  | 0x02 => firstErr (plain && f.flags = 0) (1 ≤ f.length && f.length ≤ 0x4000000)
  | 0x03 => firstErr (plain && f.flags < 2 && f.length = 0 && (f.flags = 1 || f.offset = 0)) true
  | 0x10 => firstErr (plain && f.flags = 0) true
  | 0x11 => firstErr (plain && f.flags < 2 && f.offset = 0 && f.length = 0 && (f.flags = 0 || f.key = 0)) true
  | 0x12 => firstErr (plain && f.flags = 0 && f.offset = 0 && f.length = 0) true
  | 0x13 => firstErr (plain && f.flags ≤ 128 && s.cursorOk f.offset) (lengthStep f.length 32 0x1000000)
  | 0x20 => firstErr (none0 && f.offset = 0 && f.flags = 0) true
  | 0x21 => firstErr (none0 && f.flags < 3 && (if f.flags = 2 then f.offset < 64 else f.offset = 0)) true
  | 0x22 => firstErr (none0 && f.flags < 2 &&
      (if f.flags = 1 then f.offset = bits f.offset 0 6 + bits f.offset 8 5 * 256 else f.offset = 0)) true
  | 0x30 => firstErr (plain && s.mediaForm f) true
  | 0x31 => firstErr (plain && adminForm f) true
  | 0x32 => firstErr (plain && (f.flags = 1 || f.flags = 2) && f.offset < 256 &&
      (if f.flags = 1 then f.key < 2 ^ 64 else f.key = 0 && f.length = 0)) (f.flags = 2 || f.length = 64)
  | 0x33 => firstErr (plain && memberKeyOk (!s.inGroup) f.key 7 && f.flags = 0)
      (lengthStep f.length 256 0x1000000 && f.offset + f.length ≤ 0x1800000)
  | 0x34 => firstErr (plain && memberKeyOk (!s.inGroup) f.key 7 && f.offset = 0 && f.length = 0 &&
      (f.flags = 1 || f.flags = 2)) true
  | 0x35 => firstErr (plain && f.key = 0 && f.offset = 0 && f.flags = 0) (f.length = 256)
  | 0x36 => firstErr (plain && f.key = 0 && f.flags ≤ 0x0F) (lengthStep f.length 64 0x100000)
  | _ => some stOpcodePath

/-- Steps 1 and 2 of R104 for a command just admitted: role, form, descriptors. A command whose list is fetched waits
for it; the others are admitted and wait for their opcode's execution. -/
def State.admissionChecks (s : State) (c : Cmd) : State :=
  if s.inGroup && !s.isLead && c.frame.opcode != 0x35 && c.frame.opcode != 0x36 then
    s.conflict c 0x12 5 ((s.grp.mrec.map (fun r => r.state s.myId)).getD 0)
  else
    match s.formCheck c.frame with
    | some e => s.fail c e
    | none =>
      if !c.movesData then s.setCmd { c with stage := .admitted }
      else if c.frame.dcount = 0 then s.takeBufs c c.frame.inline
      else if c.frame.dlist % 16 != 0 then s.fail c stInvalidField
      else (s.setCmd { c with stage := .listWait }).askData { c with stage := .listWait }

/-- Admit a command: it takes its place in the order of admission, spends its cost and is checked (R84, R87, R104). -/
def State.admitCmd (s : State) (c : Cmd) : State :=
  let c := { c with stage := .admitted, admitNo := s.sq.nextAdmit }
  let s := { s.setCmd c with sq := { (s.setCmd c).sq with nextAdmit := s.sq.nextAdmit + 1 } }
  (s.spend c).admissionChecks c

/-! ## The arbiter (R85) -/

/-- The weights and the `cur` values of the three weighted classes, in the order of ties. -/
def State.weight (s : State) : Cls → Nat
  | .high => s.rd F.SQ_ARB_WEIGHT_HIGH
  | .normal => s.rd F.SQ_ARB_WEIGHT_NORMAL
  | .background => s.rd F.SQ_ARB_WEIGHT_BACKGROUND
  | .urgent => 0

def SqSt.cur (q : SqSt) : Cls → Int
  | .high => q.curH
  | .normal => q.curN
  | .background => q.curB
  | .urgent => 0

def SqSt.setCur (q : SqSt) (k : Cls) (v : Int) : SqSt :=
  match k with
  | .high => { q with curH := v }
  | .normal => { q with curN := v }
  | .background => { q with curB := v }
  | .urgent => q

/-- The class with the largest `cur`, the earlier one on ties. -/
def pickCls (q : SqSt) : List Cls → Option Cls
  | [] => none
  | k :: t =>
    match pickCls q t with
    | none => some k
    | some m => if q.cur m ≤ q.cur k then some k else some m

/-- One dispatch slot: the procedure of R85. -/
def State.dispatchSlot (s : State) : State :=
  let burst := s.rd F.SQ_ARB_URGENT_BURST
  let credit := Nat.min (s.rd F.SQ_ARB_URGENT_CREDIT + s.rd F.SQ_ARB_URGENT_CAP) (burst * 100)
  match (if credit ≥ 100 then s.firstOf .urgent else none) with
  | some c => (s.wr F.SQ_ARB_URGENT_CREDIT (credit - 100)).admitCmd c
  | none =>
    let s := s.wr F.SQ_ARB_URGENT_CREDIT credit
    let ready := [Cls.high, Cls.normal, Cls.background].filter (fun k => (s.firstOf k).isSome)
    let total := (ready.map s.weight).sum
    let q := ready.foldl (fun q k => q.setCur k (q.cur k + (s.weight k : Int))) s.sq
    match pickCls q ready with
    | none => s
    | some k =>
      match s.firstOf k with
      | none => s
      | some c => { s with sq := q.setCur k (q.cur k - (total : Int)) }.admitCmd c

/-- `ARB_DISPATCH_SLOT`: one dispatch slot (R85); the arbiter admits nothing during a brace (Table 15-1), and its credit
stands still then: DESIGN CHOICE, the spec does not say whether it goes on gaining (log entry 69). -/
def execArbDispatchSlot (s : State) : Host.Outcome State Fault Refusal :=
  .next (if s.on F.PWR_STATUS_BRACE then s else s.dispatchSlot)

/-- A new 100 µs window begins with its full allowance; unspent units lapse (R87). UNITS changed in the middle of a window
leaves what the window has left, and a cost is compared with the UNITS in force: DESIGN CHOICE (log entry 69). -/
def State.newWindow (s : State) : State :=
  { s with
    sq := { s.sq with winLeft := s.rd F.SQ_ADMIT_LIMIT_UNITS, winFresh := true, winShut := false }
    pwr := { s.pwr with admitted := (s.pwr.admitNow :: s.pwr.admitted).take 10, admitNow := 0 } }

/-- `THROTTLE_WINDOW`: an admission window ends and the next begins (R87, R396). -/
def execThrottleWindow (s : State) : Host.Outcome State Fault Refusal := .next s.newWindow

end Sys2Proof.Machine
end

