-- ==== Sys2Proof/Machine/Law.lean ====
section
/-!
DEFINITION. Speedwell's arithmetic, ramp generator and law, as functions of plain values (R284 to R286, R290, R291).
Q2.30 values are integers in units of 2^-30, accumulator values in units of 2^-40, native values in units of 2^-16.
-/

namespace Sys2Proof.Machine

/-- A value with the two saturations met on the way to it: of the accumulator and of a conversion to Q2.30 (R284). -/
structure Num where
  v : Int
  acc : Bool
  q : Bool
  deriving DecidableEq, Repr

/-- The bound of a two's complement number of `w` bits. -/
def satTo (w : Nat) (x : Int) : Int := clampInt (-(2 ^ (w - 1) : Nat)) ((2 ^ (w - 1) : Nat) - 1) x

/-- A plain value. -/
def Num.of (x : Int) : Num := { v := x, acc := false, q := false }

/-- The flags of two values together. -/
def Num.join (x : Int) (a b : Num) : Num := { v := x, acc := a.acc || b.acc, q := a.q || b.q }

/-- A result held in the accumulator: it saturates at the bound of Q8.40. -/
def Num.hold (a : Num) : Num := { a with v := satTo 48 a.v, acc := a.acc || satTo 48 a.v != a.v }

/-- The sum of two accumulator values. -/
def Num.add (a b : Num) : Num := (Num.join (a.v + b.v) a b).hold

/-- The difference of two accumulator values. -/
def Num.sub (a b : Num) : Num := (Num.join (a.v - b.v) a b).hold

/-- The product of two Q2.30 values, rounded to Q8.40 with ties towards +∞. -/
def mulQ (a b : Int) : Num := (Num.of ((a * b + 2 ^ 19) / 2 ^ 20)).hold

/-- A Q2.30 value in the accumulator. -/
def accQ (a : Int) : Num := Num.of (a * 1024)

/-- The conversion of an accumulator value to Q2.30 (R284). -/
def Num.q230 (a : Num) : Num :=
  let r := (a.v + 512) / 1024
  { v := satTo 32 r, acc := a.acc, q := a.q || satTo 32 r != r }

/-- The error: set-point less feedback in 48 bits, times ERR_GAIN (R285). -/
def errorOf (sp fb gain : Int) : Num :=
  let d := toSigned 48 (ofSigned 48 (sp - fb))
  ((Num.of ((d * gain + 32) / 64)).hold).q230

/-- One biquad in direct form I on its delay line x1, x2, y1, y2; coefficients b0, b1, b2, a1, a2 (R285). -/
def biquad (c : Nat → Int) (z : Int × Int × Int × Int) (x : Num) : Num × (Int × Int × Int × Int) :=
  let (x1, x2, y1, y2) := z
  let y := (((((mulQ (c 0) x.v).add (mulQ (c 1) x1)).add (mulQ (c 2) x2)).sub (mulQ (c 3) y1)).sub (mulQ (c 4) y2))
  let r := (Num.join y.v y x).q230
  (r, (x.v, x1, r.v, y1))

/-- The sign of an integer. -/
def sgn (x : Int) : Int := if 0 < x then 1 else if x < 0 then -1 else 0

/-- Linear interpolation in a table of Q2.30 entries at an index with `fr` fraction bits (R286): entry `i` and the next
one, `next`, rounded to nearest with ties towards +∞. -/
def interp (lo hi : Int) (f fr : Nat) : Int := lo + ((f : Int) * (hi - lo) + (2 ^ (fr - 1) : Nat)) / ((2 ^ fr : Nat) : Int)

/-- The friction index: v_ref × FRIC_SCALE + 128 held between 0 and 255, with 40 fraction bits; both are Q2.30. -/
def fricIndex (vref scale : Int) : Nat :=
  (clampInt 0 (255 * 2 ^ 40) ((vref * scale + 2 ^ 19) / 2 ^ 20 + 128 * 2 ^ 40)).toNat

/-- The cogging index of a voice coil: track × COG_SCALE held between 0 and 255, with 30 fraction bits. -/
def cogIndex (track scale : Int) : Nat := (clampInt 0 (255 * 2 ^ 30) (track * scale)).toNat

/-! ## The ramp generator (R290) -/

/-- Integer square root by bits from the top: the largest root whose square is at most `x`. -/
def isqrtBits (x : Nat) : Nat → Nat → Nat
  | 0, r => r
  | n + 1, r => isqrtBits x n (if (r + 2 ^ n) * (r + 2 ^ n) ≤ x then r + 2 ^ n else r)

/-- The integer square root of a number below 2^96. -/
def isqrt (x : Nat) : Nat := isqrtBits x 48 0

/-- Ramp position, velocity, acceleration and DONE. -/
structure RampOut where
  x : Int
  v : Int
  a : Int
  done : Bool
  deriving DecidableEq, Repr

/-- One step of the ramp in VELOCITY mode, or toward the velocity that POSITION mode asks for. -/
def rampToward (x v vmax amax vt : Int) (velocity : Bool) : RampOut :=
  let vt := clampInt (-vmax) vmax vt
  let a := clampInt (-amax) amax (vt - v)
  { x := satTo 48 (x + (v + a)), v := v + a, a := a, done := velocity && v + a = vt }

/-- One sample of the ramp generator: mode 1 VELOCITY, 2 POSITION, else OFF (R290). -/
def rampStep (mode : Nat) (x v tgt : Int) (vmax amax : Nat) (done : Bool) : RampOut :=
  if mode = 2 then
    let dist := tgt - x
    let room := dist.natAbs - v.natAbs
    if 2 * dist.natAbs ≤ amax && v.natAbs ≤ amax then { x := tgt, v := 0, a := 0, done := true }
    else rampToward x v vmax amax (sgn dist * (Nat.min (isqrt (2 * amax * room)) vmax : Nat)) false
  else if mode = 1 then rampToward x v vmax amax tgt true
  else { x := x, v := 0, a := 0, done := done }

/-! ## The law (R285, R291, R293) -/

/-- What one pass of the law leaves: the delay lines, integrator, output, the trace stages and the flags. -/
structure LawOut where
  notch : Int × Int × Int × Int
  bq1 : Int × Int × Int × Int
  bq2 : Int × Int × Int × Int
  b2 : Int
  integ : Int
  out : Int
  stages : List Int
  accSat : Bool
  qSat : Bool
  intClamp : Bool
  outLimit : Bool
  bump : Bool
  deriving DecidableEq, Repr

/-- The inputs of one pass: error, feed-forward, integrator, the output a preset continues from, and the special cases:
`hold` the integrator is held, `preset` it is preset, `loss` p and d are 0. -/
structure LawIn where
  e : Num
  ff : Num
  integ : Int
  outPrev : Int
  hold : Bool
  preset : Bool
  loss : Bool
  deriving DecidableEq, Repr

/-- One sample of a LAW slot with coefficients `c` by the index of Table 12-12. -/
def lawPass (c : Nat → Int) (sl : SlotSt) (i : LawIn) : LawOut :=
  let (n, z0) := biquad (fun k => c k) sl.notch i.e
  let (b1, z1) := biquad (fun k => c (5 + k)) sl.bq1 n
  let (b2, z2) := biquad (fun k => c (10 + k)) sl.bq2 b1
  let p := if i.loss then Num.of 0 else mulQ (c 15) b2.v
  let d := if i.loss then Num.of 0 else mulQ (c 17) (b2.v - sl.b2Prev)
  let ki := mulQ (c 16) b2.v
  let ilim := c 18
  let lim := c 22
  let pre := ((accQ i.outPrev).sub ((p.add d).add i.ff)).q230
  let start := if i.preset then clampInt (-ilim) ilim pre.v else i.integ
  let bump := i.preset && start != pre.v
  let still := i.hold || i.preset || i.loss
  let iq := if still then Num.of start else ((accQ start).add ki).q230
  let iNew := if still then start else clampInt (-ilim) ilim iq.v
  let u := ((p.add (accQ iNew)).add d).add i.ff
  let anti := !still && lim * 1024 < u.v.natAbs && sgn ki.v = sgn u.v
  let integ := if anti then start else iNew
  let u := if anti then ((p.add (accQ start)).add d).add i.ff else u
  let uq := u.q230
  let out := clampInt (-lim) lim uq.v
  let q := fun (x : Num) => x.q230.v
  { notch := z0, bq1 := z1, bq2 := z2, b2 := b2.v, integ := integ, out := out
    stages := [i.e.v, n.v, b1.v, b2.v, q p, integ, q d, q i.ff]
    accSat := b2.acc || u.acc || i.ff.acc
    qSat := b2.q || uq.q || iq.q
    intClamp := anti || i.hold || decide (ilim ≤ integ.natAbs)
    outLimit := decide (lim ≤ out.natAbs)
    bump := bump }

end Sys2Proof.Machine
end

