-- ==== Sys2Proof/Machine/L1.lean ====
section
/-!
DEFINITION. The L1 code (R241, R248, R249): the parity-check matrix as circulants, the encoder, the checks of a codeword
and the order of its bits.
-/

namespace Sys2Proof.Machine

/-- The bits of a byte, most significant first. -/
def byteBits (b : Byte) : List Bool := [7, 6, 5, 4, 3, 2, 1, 0].map (fun i => bitAt b.toNat i)

/-- The bits of bytes in the order of R241: byte 0 first, each byte most significant bit first. -/
def bytesBits (l : List Byte) : List Bool := (l.map byteBits).flatten

/-- The low `n` bits of a number, most significant first. -/
def natBits (n v : Nat) : List Bool := (List.range n).map (fun i => bitAt v (n - 1 - i))

/-! ## The parity-check matrix (R248) -/

/-- Table 10-7, one row for each g: d1, d2, E0, E1, E2. -/
def l1Table : List (Nat × Nat × Nat × Nat × Nat) :=
  [(1, 3, 1, 37, 89), (2, 5, 3, 41, 97), (4, 7, 5, 53, 101), (1, 6, 7, 59, 109), (3, 8, 11, 61, 113),
   (2, 7, 13, 67, 127), (1, 4, 17, 71, 131), (5, 9, 19, 73, 137), (3, 5, 23, 79, 139), (2, 9, 29, 83, 149),
   (4, 6, 31, 89, 151), (1, 8, 43, 97, 157), (6, 8, 47, 103, 163)]

/-- The circulants of a payload block column: block row and shift. -/
def payloadCirculants (j : Nat) : List (Nat × Nat) :=
  let r := j % 10
  match l1Table[j / 10]? with
  | none => []
  | some (d1, d2, e0, e1, e2) =>
    [(r, e0 * (r + 1) % 256), ((r + d1) % 10, e1 * (r + 1) % 256), ((r + d2) % 10, e2 * (r + 1) % 256)]

/-- The circulants of block column `j`, 0 to 139: block row and shift. -/
def circulants (j : Nat) : List (Nat × Nat) :=
  if j < 130 then payloadCirculants j
  else if j = 130 then [(0, 1), (5, 0), (9, 1)]
  else [(j - 131, 0), (j - 130, 0)]

/-- P^s x: row r takes bit (r + s) mod 256. -/
def circulate (s : Nat) (x : List Bool) : List Bool := x.drop s ++ x.take s

/-- The sum of two bit lists over GF(2); the shorter counts as padded with zeros. -/
def xorBits : List Bool → List Bool → List Bool
  | [], b => b
  | a, [] => a
  | x :: a, y :: b => (x != y) :: xorBits a b

/-- Block `j` of a codeword or payload: bits 256j to 256j + 255. -/
def blockOf (c : List Bool) (j : Nat) : List Bool := (c.drop (256 * j)).take 256

/-- The sum over the circulants of the block columns `js` that stand in block row `i`. -/
def rowSum (c : List Bool) (js : List Nat) (i : Nat) : List Bool :=
  js.foldl (fun a j => ((circulants j).filter (fun p => p.1 = i)).foldl (fun a p =>
    xorBits a (circulate p.2 (blockOf c j))) a) []

/-! ## The encoder (R249) -/

/-- Parity blocks k + 1, k + 2, … from parity block k = `prev` on: block rows k to 8. -/
def l1Chain (u p0 : List Bool) : Nat → Nat → List Bool → List (List Bool)
  | 0, _, _ => []
  | n + 1, i, prev =>
    let p := xorBits (rowSum u (List.range 130) i) prev
    let p := if i = 5 then xorBits p p0 else p
    p :: l1Chain u p0 n (i + 1) p

/-- The ten parity blocks of 33,280 payload bits. -/
def l1Parity (u : List Bool) : List (List Bool) :=
  let lam := rowSum u (List.range 130)
  let p0 := (List.range 10).foldl (fun a i => xorBits a (lam i)) []
  let p1 := xorBits (lam 0) (circulate 1 p0)
  p0 :: p1 :: l1Chain u p0 8 1 p1

/-- The L1 codeword of a payload of 4,160 B: its bits, then the parity bits (R241, R249). -/
def l1Encode (payload : List Byte) : List Bool :=
  let u := bytesBits payload
  u ++ (l1Parity u).flatten

/-! ## The checks (R161, R248, R256) -/

/-- The 2,560 checks of a word: true where unsatisfied. -/
def l1Syndrome (c : List Bool) : List Bool := ((List.range 10).map (rowSum c (List.range 140))).flatten

/-- A word is a codeword. -/
def l1Codeword (c : List Bool) : Bool := c.length = 35840 && (l1Syndrome c).all (fun b => !b)

/-- W0 of hard decisions: the number of unsatisfied checks (R161). -/
def l1Unsatisfied (c : List Bool) : Nat := (l1Syndrome c).countP (fun b => b)

end Sys2Proof.Machine
end

