-- ==== Sys2Proof/Machine/Tansy.lean ====
section
/-!
DEFINITION. Tansy: blocks, sequences, the Huffman stage, output units, the decoder, compression contexts and media
encryption (R130 to R149). The format is the spec's; which matches the compressor takes is free (Config.tokens).
-/

namespace Sys2Proof.Machine

/-! ## The Huffman stage (R137) -/

/-- The byte that up to eight bits spell, filled with 0 bits. -/
def bitsByte (l : List Bool) : Byte :=
  BitVec.ofNat 8 ((List.range 8).foldl (fun v i => v * 2 + b2n ((l[i]?).getD false)) 0)

/-- Cut bits into bytes. -/
def packBits : Nat → List Bool → List Byte
  | 0, _ => []
  | n + 1, l => if l.isEmpty then [] else bitsByte (l.take 8) :: packBits n (l.drop 8)

/-- The symbols with a code length, in ascending order of (length, symbol). -/
def codeOrder (lens : List Nat) : List (Nat × Nat) :=
  ((List.range 16).map (fun n => (List.range 256).filterMap (fun s =>
    if n != 0 && (lens[s]?).getD 0 = n then some (s, n) else none))).flatten

/-- Canonical codes: symbol, length, code (R137). -/
def canonical : Nat → Nat → List (Nat × Nat) → List (Nat × Nat × Nat)
  | _, _, [] => []
  | next, len, (s, n) :: t =>
    let code := next * 2 ^ (n - len)
    (s, n, code) :: canonical (code + 1) n t

/-- The code table of a list of 256 lengths. -/
def codeTable (lens : List Nat) : List (Nat × Nat × Nat) := canonical 0 0 (codeOrder lens)

/-- The lengths form a complete code, or a single symbol of length 1 (R137). -/
def lengthsOk (lens : List Nat) : Bool :=
  let o := codeOrder lens
  lens.length = 256 && lens.all (fun n => n < 16) &&
    ((o.map (fun p => 2 ^ (15 - p.2))).sum = 2 ^ 15 || (o.map (fun p => p.2)) = [1])

/-- The bits of a code, most significant first. -/
def codeBits (n code : Nat) : List Bool := (List.range n).map (fun i => bitAt code (n - 1 - i))

/-- The Huffman body of a token stream under a list of lengths; none when a symbol has no code (R137, Table 06-4). -/
def huffBody (lens : List Nat) (toks : List Byte) : Option (List Byte) :=
  if !lengthsOk lens then none
  else
    let tbl := codeTable lens
    let codes := toks.map (fun b => tbl.find? (fun e => e.1 = b.toNat))
    if codes.any (fun c => c.isNone) then none
    else
      let bs := (codes.map (fun c => match c with
        | some e => codeBits e.2.1 e.2.2
        | none => [])).flatten
      let head := (List.range 128).map (fun j =>
        BitVec.ofNat 8 ((lens[2 * j]?).getD 0 + (lens[2 * j + 1]?).getD 0 * 16))
      some (head ++ leBytes 4 toks.length ++ packBits (bs.length / 8 + 1) bs)

/-- Read one symbol from the front of a bit list: the code so far, its length, and the table. -/
def readSym : Nat → List (Nat × Nat × Nat) → Nat → Nat → List Bool → Option (Nat × List Bool)
  | 0, _, _, _, _ => none
  | fuel + 1, tbl, n, code, l =>
    match tbl.find? (fun e => e.2.1 = n && e.2.2 = code) with
    | some e => if n = 0 then none else some (e.1, l)
    | none =>
      match l with
      | [] => none
      | b :: t => readSym fuel tbl (n + 1) (code * 2 + b2n b) t

/-- Decode up to `n` symbols; the symbols and the bits left. -/
def readSyms : Nat → List (Nat × Nat × Nat) → List Bool → List Byte × List Bool
  | 0, _, l => ([], l)
  | n + 1, tbl, l =>
    match readSym 17 tbl 0 0 l with
    | none => ([], l)
    | some (s, t) =>
      let (r, u) := readSyms n tbl t
      (BitVec.ofNat 8 s :: r, u)

/-! ## Sequences (R135, R136) -/

/-- How a decode ended: it has what was wanted, it ran out of available bytes, or the block is invalid. -/
inductive DecEnd where
  | ok | short | bad
  deriving DecidableEq, Repr

/-- The bytes of an extension: each adds to the count, 255 is followed by another (Table 06-3). -/
def extBytes : Nat → Nat → List Byte
  | 0, _ => []
  | fuel + 1, n => if n < 255 then [BitVec.ofNat 8 n] else 255#8 :: extBytes fuel (n - 255)

/-- Read an extension. -/
def readExt : List Byte → Option (Nat × List Byte)
  | [] => none
  | b :: t => if b = 255#8 then (readExt t).map (fun r => (r.1 + 255, r.2)) else some (b.toNat, t)

/-- The 1 to 3 bytes of a distance minus 1 (Table 06-3). -/
def distBytes (d : Nat) : List Byte :=
  if d < 2 ^ 7 then [BitVec.ofNat 8 d]
  else if d < 2 ^ 14 then [BitVec.ofNat 8 (128 + d % 128), BitVec.ofNat 8 (d / 128)]
  else [BitVec.ofNat 8 (128 + d % 128), BitVec.ofNat 8 (128 + d / 128 % 128), BitVec.ofNat 8 (d / 16384)]

/-- Read a distance; `none` when the bytes run out, a third byte with bit 7 set gives 0. -/
def readDist : List Byte → Option (Nat × List Byte)
  | [] => none
  | a :: t =>
    if a.toNat < 128 then some (a.toNat + 1, t)
    else
      match t with
      | [] => none
      | b :: u =>
        if b.toNat < 128 then some (a.toNat % 128 + b.toNat * 128 + 1, u)
        else
          match u with
          | [] => none
          | c :: v =>
            if c.toNat < 128 then some (a.toNat % 128 + b.toNat % 128 * 128 + c.toNat * 16384 + 1, v) else some (0, v)

/-- Encode one sequence: literals, then a match of length `m` at distance `d`, none when `m` is 0 (R135). -/
def seqBytes (lits : List Byte) (m d : Nat) : List Byte :=
  let n := lits.length
  let lit := Nat.min n 15
  let mlc := if m = 0 then 0 else Nat.min (m - 3) 15
  [BitVec.ofNat 8 (lit * 16 + mlc)] ++ (if lit = 15 then extBytes (n + 1) (n - 15) else []) ++ lits ++
    (if m = 0 then [] else distBytes (d - 1)) ++ (if mlc = 15 then extBytes (m + 1) (m - 18) else [])

/-- Copy `n` bytes, each from `d` bytes back, onto a history kept newest first. -/
def copyMatch : Nat → Nat → List Byte → List Byte
  | 0, _, h => h
  | n + 1, d, h => copyMatch n d ((h[d - 1]?).getD 0#8 :: h)

/-- Decode a token stream: `full` says that the whole stream is there, `run` is the run's length at its start, `left`
what the block still has to produce and `need` what is still wanted. The history is newest first (R135, R136). -/
def decodeSeqs : Nat → Bool → List Byte → List Byte → Nat → Nat → Nat → List Byte × DecEnd
  | 0, _, _, h, _, _, _ => (h, .bad)
  | fuel + 1, full, body, h, run, left, need =>
    if left = 0 then (h, if body.isEmpty then .ok else .bad)
    else if need = 0 then (h, .ok)
    else
      match body with
      | [] => (h, if full then .bad else .short)
      | t :: rest =>
        let dry : DecEnd := if full then .bad else .short
        let litc := t.toNat / 16
        let mlc := t.toNat % 16
        match (if litc = 15 then (readExt rest).map (fun r => (r.1 + 15, r.2)) else some (litc, rest)) with
        | none => (h, dry)
        | some (n, b) =>
          if left < n then (h, .bad)
          else
            let got := b.take (Nat.min n need)
            let h := got.reverse ++ h
            if got.length < Nat.min n need then (h, dry)
            else if need ≤ n && need < left then (h, .ok)
            else
              let b := b.drop n
              let run := run + n
              let left := left - n
              let need := need - n
              if mlc = 0 then (h, if left = 0 && b.isEmpty then .ok else .bad)
              else
                match readDist b with
                | none => (h, dry)
                | some (d, b) =>
                  match (if mlc = 15 then (readExt b).map (fun r => (r.1 + 18, r.2)) else some (mlc + 3, b)) with
                  | none => (h, dry)
                  | some (m, b) =>
                    if d = 0 || run < d || 262144 < d || left < m then (h, .bad)
                    else
                      let k := Nat.min m need
                      let h := copyMatch k d h
                      if k < m || (need = m && m < left) then (h, .ok)
                      else decodeSeqs fuel full b h (run + m) (left - m) (need - m)

/-! ## Blocks (R134) -/

/-- A block header (Table 06-1). -/
structure BlkHeader where
  kind : Nat
  huff : Bool
  restart : Bool
  recEnd : Bool
  inLen : Nat
  bodyLen : Nat
  objOffset : Nat
  deriving DecidableEq, Repr

/-- The 16 bytes of a header. -/
def BlkHeader.bytes (b : BlkHeader) : List Byte :=
  [BitVec.ofNat 8 (b.kind + b2n b.huff * 4 + b2n b.restart * 8 + b2n b.recEnd * 16), 1#8] ++
    leBytes 2 (b.inLen - 1) ++ leBytes 4 b.bodyLen ++ leBytes 8 b.objOffset

/-- Read a header; none when VERSION, KIND, FLAGS or a reserved bit is wrong (R142). -/
def BlkHeader.ofBytes (l : List Byte) : Option BlkHeader :=
  let f := leAt l 0 1
  let kind := f % 4
  let huff := bitAt f 2
  if leAt l 1 1 != 1 || kind = 3 || 32 ≤ f || (huff && kind != 0) || 2 ^ 52 ≤ leAt l 8 8 then none
  else
    some { kind := kind, huff := huff, restart := bitAt f 3, recEnd := bitAt f 4,
           inLen := if kind = 2 then 0 else leAt l 2 2 + 1, bodyLen := leAt l 4 4, objOffset := leAt l 8 8 }

/-- The token stream of a COMPRESSED body as far as it is available, and whether it is whole; none when the Huffman
form is invalid (R137). -/
def tokensOf (huff : Bool) (body : List Byte) (whole : Bool) : Option (List Byte × Bool) :=
  if !huff then some (body, whole)
  else if body.length < 132 then (if whole then none else some ([], false))
  else
    let lens := ((body.take 128).map (fun b => [b.toNat % 16, b.toNat / 16])).flatten
    let n := leAt body 128 4
    if !lengthsOk lens || n = 0 then none
    else
      let (syms, rest) := readSyms n (codeTable lens) ((body.drop 132).map byteBits).flatten
      if syms.length = n then
        if whole && (8 ≤ rest.length || rest.any (fun b => b)) then none else some (syms, true)
      else if whole then none
      else some (syms, false)

/-- Decode the body of a block of `inLen` bytes, as far as it is available. -/
def decodeBody (hd : BlkHeader) (body : List Byte) (whole : Bool) (h : List Byte) (run need : Nat) :
    List Byte × DecEnd :=
  if hd.kind = 1 then
    if hd.bodyLen != hd.inLen then (h, .bad)
    else
      let got := body.take need
      (got.reverse ++ h, if got.length = need then .ok else .short)
  else
    match tokensOf hd.huff body whole with
    | none => (h, .bad)
    | some (toks, full) => decodeSeqs (toks.length + 1) full toks h run hd.inLen need

/-- Decode blocks from a restart point: the available plaintext from a unit's offset 0, its position, the object
offset that comes next, the run's length, the produced bytes newest first, and the object offset to stop at
(R131, R132, R140, R142). A PAD block whose header has RESTART or REC_END set counts as a format error: DESIGN CHOICE, the
spec does not say whether it is valid (log entry 78). -/
def decodeBlocks : Nat → List Byte → Nat → Nat → Nat → List Byte → Nat → Bool → List Byte × DecEnd
  | 0, _, _, _, _, h, _, _ => (h, .bad)
  | fuel + 1, l, pos, off, run, h, stop, first =>
    if stop ≤ off then (h, .ok)
    else
      let room := 4096 - pos % 4096
      if room < 16 then decodeBlocks fuel (l.drop room) (pos + room) off run h stop first
      else if l.length < 16 then (h, .short)
      else
        match BlkHeader.ofBytes l with
        | none => (h, .bad)
        | some hd =>
          let body := (l.drop 16).take hd.bodyLen
          let whole := decide (body.length = hd.bodyLen)
          let atUnit := decide (pos % 4096 = 0)
          if hd.kind = 2 then
            if leAt l 2 2 != 0 || hd.objOffset != 0 || hd.restart || hd.recEnd || !(body.all (fun b => b = 0#8)) || first
            then (h, .bad)
            else decodeBlocks fuel (l.drop (16 + hd.bodyLen)) (pos + 16 + hd.bodyLen) off run h stop false
          else if hd.objOffset != off || (hd.restart && !atUnit) || (first && !hd.restart) then (h, .bad)
          else
            let run := if hd.restart then 0 else run
            let need := Nat.min hd.inLen (stop - off)
            match decodeBody hd body whole h run need with
            | (h, .ok) =>
              decodeBlocks fuel (l.drop (16 + hd.bodyLen)) (pos + 16 + hd.bodyLen) (off + need) (run + need) h stop false
            | r => r

/-- Decode forward from a restart point at object offset `start` over the units available, up to offset `stop`: the
bytes produced in order, and how it ended. -/
def decodeFrom (units : List (List Byte)) (start stop : Nat) : List Byte × DecEnd :=
  let l := units.flatten
  let r := decodeBlocks (l.length + 2) l 0 start 0 [] stop true
  (r.1.reverse, r.2)

/-! ## The compressor (R130 to R132, R138) -/

/-- Append bytes to the open unit, closing units as they fill. -/
def Packing.put (p : Packing) : List Byte → Packing
  | [] => p
  | b :: t =>
    let cur := b :: p.cur
    Packing.put (if cur.length = 4096 then { p with done := cur.reverse :: p.done, cur := [] } else { p with cur := cur }) t

/-- Close the open unit with a PAD block or zero fill (R131). -/
def Packing.close (p : Packing) : Packing :=
  let room := 4096 - p.cur.length
  if p.cur.isEmpty then p
  else if room < 16 then p.put (List.replicate room 0#8)
  else
    let pad : BlkHeader := BlkHeader.mk 2 false false false 1 (room - 16) 0
    p.put (pad.bytes ++ List.replicate (room - 16) 0#8)

/-- Fill the open unit when a header would not fit in it (R131). -/
def Packing.room (p : Packing) : Packing :=
  if 4096 - p.cur.length < 16 then p.put (List.replicate (4096 - p.cur.length) 0#8) else p

/-- The sequences that a choice of tokens spells for the bytes of a block, and whether the body ever exceeded the
input after a completed sequence (R138). -/
def spell : List (Nat × Nat × Nat) → List Byte → Nat → Nat → List Byte × Bool
  | [], _, _, _ => ([], false)
  | (n, m, d) :: t, b, body, input =>
    let s := seqBytes (b.take n) m d
    let body := body + s.length
    let input := input + n + m
    let r := spell t (b.drop (n + m)) body input
    (s ++ r.1, decide (input < body) || r.2)

/-- The kind, Huffman flag and body of one block, and whether it was abandoned to RAW (R138). -/
def encodeBlock (nocomp huff : Bool) (hist : List Byte) (run : Nat) (b : List Byte) : Nat × Bool × List Byte × Bool :=
  if nocomp then (1, false, b, false)
  else
    let (toks, wider) := spell (Config.tokens hist b) b 0 0
    let ok := decodeSeqs (toks.length + 1) true toks hist run b.length b.length = (b.reverse ++ hist, DecEnd.ok)
    if wider || !ok then (1, false, b, true)
    else
      match (if huff then huffBody (Config.codeLengths toks) toks else none) with
      | some hb => if hb.length < toks.length then (0, true, hb, false) else (0, false, toks, false)
      | none => (0, false, toks, false)

/-- An engine's record as it begins, with the history and the run of a context that it restores; without one the first
block is a restart point (R132, R143). -/
def Packing.start (ctx : Option Ctx) : Packing :=
  { done := [], cur := [], restarts := [], hist := (ctx.map (fun c => c.hist)).getD []
    run := (ctx.map (fun c => c.run)).getD 0, fresh := ctx.isNone, raws := 0 }

/-- Encode one block at object offset `off`; a run that has used up the restart interval begins anew, and `last` sets
REC_END (R130 to R132). -/
def Packing.block (p : Packing) (nocomp huff : Bool) (interval : Nat) (last : Bool) (off : Nat) (b : List Byte) : Packing :=
  let restart := p.fresh || interval < p.run + b.length
  let p := if restart then { p.close with hist := [], run := 0 } else p.room
  let unit := p.done.length
  let (kind, hf, body, raw) := encodeBlock nocomp huff p.hist p.run b
  let hd : BlkHeader := { kind := kind, huff := hf, restart := restart, recEnd := last, inLen := b.length,
                          bodyLen := body.length, objOffset := off }
  let p := p.put (hd.bytes ++ body)
  { p with
    restarts := if restart then p.restarts ++ [(off, unit)] else p.restarts
    hist := (b.reverse ++ p.hist).take 262144
    run := p.run + b.length
    fresh := false
    raws := p.raws + b2n raw }

/-- Encode blocks of a record; `fin` says that the last of them ends it. -/
def packBlocks (nocomp huff : Bool) (interval : Nat) (fin : Bool) : List (List Byte) → Nat → Packing → Packing
  | [], _, p => p
  | b :: t, off, p =>
    packBlocks nocomp huff interval fin t (off + b.length) (p.block nocomp huff interval (fin && t.isEmpty) off b)

/-! ## Host tags (R16, R17) -/

/-- The pieces of host data at an object offset that a host tag covers: 4 KiB each, counted from object offset 0. -/
def hostPieces (off : Nat) (l : List Byte) : List (List Byte) :=
  let h := 4096 - off % 4096
  if l.length ≤ h then (if l.isEmpty then [] else [l]) else l.take h :: chunks 4096 (l.length + 1) (l.drop h)

/-- The host tags of host data at an object offset. -/
def hostTags (off : Nat) (l : List Byte) : List Nat := (hostPieces off l).map crc64

/-- How many of the first `n` bytes at an object offset lie in pieces that are whole. -/
def wholePieces (off n : Nat) : Nat := (off + n) / 4096 * 4096 - off

/-! ## Contexts (R143, R144) -/

/-- The context a stream holds. -/
def State.ctxOf (s : State) (st : Nat) : Option Ctx := s.obj.ctxs.find? (fun c => c.stream = st)

/-- Free the context of a stream. -/
def State.freeCtx (s : State) (st : Nat) : State :=
  { s with obj := { s.obj with ctxs := s.obj.ctxs.filter (fun c => c.stream != st) } }

/-- A compression engine holds the context of a stream: its record is being encoded. -/
def State.ctxHeld (s : State) (st : Nat) : Bool := s.sq.cmds.any (fun c => c.compresses && c.src.stream = st)

/-- Assign a context to a stream, evicting the least recently saved one that no engine holds when none of the 4,096 is
free (R143, R144). A context just assigned counts as saved last (log entry 74). -/
def State.assignCtx (s : State) (st : Nat) : State :=
  let others := s.obj.ctxs.filter (fun d => d.stream != st)
  let n := s.obj.ctxClock + 1
  let full := decide (4096 ≤ others.length)
  let oldest := (others.filter (fun d => !s.ctxHeld d.stream)).foldl (fun m d => Nat.min m d.saved) n
  let kept := if full then others.filter (fun d => d.saved != oldest) else others
  let s := { s with obj := { s.obj with
    ctxs := kept ++ [{ stream := st, hist := [], run := 0, saved := n }], ctxClock := n } }
  if full then s.inc F.TNS_CTX_EVICT_COUNT else s

/-- Save the context of a stream that still holds one (R143). -/
def State.saveCtx (s : State) (st : Nat) (p : Packing) : State :=
  let n := s.obj.ctxClock + 1
  { s with obj := { s.obj with
    ctxs := s.obj.ctxs.map (fun c => if c.stream = st then { c with hist := p.hist, run := p.run, saved := n } else c)
    ctxClock := n } }

/-! ## Encryption and units (R145 to R147) -/

/-- The XTS data unit sequence number of a unit (R146). -/
def unitDun (index nonce : Nat) : Nat := index % 2 ^ 64 + nonce * 2 ^ 64

/-- Draw an OBJ_NONCE; a batch of 65,536 is reserved in MRAM before its first is assigned (R147). -/
def State.drawNonce (s : State) : State × Nat :=
  let n := s.obj.nonce
  let stop := if n < s.obj.nonceEnd then s.obj.nonceEnd else n + 65536
  ({ s with obj := { s.obj with nonce := n + 1, nonceEnd := stop } }, n)

/-- Store a unit record and answer its id. -/
def State.addUnit (s : State) (u : UnitRec) : State × Nat :=
  let id := s.obj.nextUnit
  ({ s with obj := { s.obj with units := Store.ins id u s.obj.units, nextUnit := id + 1 } }, id)

/-- A unit before it is anywhere. -/
def UnitRec.blank : UnitRec :=
  { utype := 0, flags := 0, stream := 0, seq := 0, gen := 0, index := 0, key := 0, recOffset := 0, recLength := 0
    nonce := 0, user := [], tag := 0, place := .none, lost := false, poison := false }

/-- The unit record of an id. -/
def State.unit (s : State) (id : Nat) : UnitRec := Store.get UnitRec.blank s.obj.units id

/-- A unit record replaced. -/
def State.setUnit (s : State) (id : Nat) (u : UnitRec) : State :=
  { s with obj := { s.obj with units := Store.ins id u s.obj.units } }

/-- The parameters under which a record is encoded. -/
structure RecordParams where
  stream : Nat
  seq : Nat
  gen : Nat
  key : Nat
  offset : Nat
  length : Nat
  firstUnit : Nat
  nonce : Nat
  nocomp : Bool
  material : List Byte
  fresh : Bool
  deriving DecidableEq, Repr

/-- An engine takes the blocks of a record that stand whole before it: data as far as its host tags have been checked over
whole pieces, cut at the block size, the last block with the record's end. What it has taken and built (R17, R130 to R139). BLOCK_SIZE 3, which
Table 06-9 does not use, stands for 64 KiB, the largest size: DESIGN CHOICE (log entry 78). -/
def State.packData (s : State) (r : RecordParams) (data : List Byte) (taken : Nat) (p : Packing) : Packing × Nat :=
  let size := 16384 * 2 ^ Nat.min 2 (s.rd F.TNS_CFG_BLOCK_SIZE)
  let interval := 262144 * 2 ^ s.rd F.TNS_CFG_RESTART
  let fin := decide (r.length ≤ data.length)
  let ready := (if fin then data.length else wholePieces r.offset data.length) - taken
  let n := if fin then ready else ready / size * size
  if n = 0 then (p, taken)
  else
    let q := packBlocks r.nocomp (s.on F.TNS_CFG_HUFF) interval fin (chunks size (n + 1) ((data.drop taken).take n))
      (r.offset + taken) p
    (if fin then q.close else q, taken + n)

/-- Encrypt output unit `i` of a record, whose plaintext an engine has finished, and store it with its media tag
(R139, R145, R146, R153). -/
def State.sealUnit (s : State) (r : RecordParams) (p : Packing) (fin : Bool) (i : Nat) : State × Nat :=
  let idx := r.firstUnit + i
  let ct := xtsEncrypt r.material (unitDun idx r.nonce) ((p.done.reverse[i]?).getD [])
  let flags := b2n (i = 0) + b2n (fin && i + 1 = p.done.length) * 2 + b2n (p.restarts.any (fun x => x.2 = i)) * 4
  s.addUnit
    { utype := 1, flags := flags, stream := r.stream, seq := r.seq, gen := r.gen, index := idx, key := r.key
      recOffset := r.offset, recLength := r.length, nonce := r.nonce, user := ct, tag := crc64 ct
      place := .none, lost := false, poison := false }

/-- Store the units from number `i` on, `n` of them: their ids. -/
def State.sealUnits (r : RecordParams) (p : Packing) (fin : Bool) : Nat → Nat → State → State × List Nat
  | 0, _, s => (s, [])
  | n + 1, i, s =>
    let (s, id) := s.sealUnit r p fin i
    let (s, l) := State.sealUnits r p fin n (i + 1) s
    (s, id :: l)

/-- The plaintext of a unit under key material. -/
def UnitRec.plain (u : UnitRec) (material : List Byte) : List Byte :=
  xtsDecrypt material (unitDun u.index u.nonce) u.user

/-! ## Unit headers and payloads (R153) -/

/-- The 64 B unit header of Table 07-2. -/
def UnitRec.header (u : UnitRec) : List Byte :=
  leBytes 1 u.utype ++ leBytes 1 1 ++ leBytes 1 u.flags ++ leBytes 1 0 ++ leBytes 4 u.stream ++ leBytes 4 u.seq ++
    leBytes 2 u.gen ++ leBytes 2 (u.index / 2 ^ 32) ++ leBytes 16 u.key ++ leBytes 8 u.recOffset ++
    leBytes 4 u.recLength ++ leBytes 4 u.index ++ leBytes 8 u.nonce ++ leBytes 8 u.tag

/-- The payload of a unit: header and user field, 4,160 B. -/
def UnitRec.payload (u : UnitRec) : List Byte := u.header ++ padTo 4096 u.user

/-- The unit that a payload spells. -/
def UnitRec.ofPayload (l : List Byte) : UnitRec :=
  { utype := leAt l 0 1, flags := leAt l 2 1, stream := leAt l 4 4, seq := leAt l 8 4, gen := leAt l 12 2
    index := leAt l 44 4 + leAt l 14 2 * 2 ^ 32, key := leAt l 16 16, recOffset := leAt l 32 8, recLength := leAt l 40 4
    nonce := leAt l 48 8, user := (l.drop 64).take 4096, tag := leAt l 56 8, place := .none, lost := false
    poison := false }

/-- An EMPTY unit, and a unit of a P or Q strip. -/
def UnitRec.empty : UnitRec :=
  { UnitRec.blank with user := List.replicate 4096 0#8, tag := crc64 (List.replicate 4096 0#8) }
def UnitRec.parity (q : Bool) (user : List Byte) : UnitRec :=
  { UnitRec.blank with utype := if q then 6 else 5, user := padTo 4096 user, tag := crc64 (padTo 4096 user) }

end Sys2Proof.Machine
end

