-- ==== Sys2Proof/Machine/Loss.lean ====
section
/-!
DEFINITION. Loss of object data: which range of an object a lost unit takes, the events and the log entries (R48,
R486).
-/

namespace Sys2Proof.Machine

/-- The key material of an object, while its key slot holds the object's KEY_ID (R148). -/
def State.keyFor (s : State) (o : Obj) : Option (List Byte) :=
  let k := Store.get KeySlot.init s.obj.keys o.kslot
  if k.loaded && k.keyId = o.keyId then some k.material else none

/-- The last restart point at or before unit number `i` of an object: object offset and unit number (R132). -/
def Obj.restartAt (o : Obj) (i : Nat) : Nat × Nat :=
  (o.restarts.filter (fun p => p.2 ≤ i)).foldl (fun m p => if m.2 ≤ p.2 then p else m) (0, 0)

/-- The object offset at which decoding can go on after unit `i`: the next restart point, or the committed length. -/
def Obj.restartAfter (o : Obj) (i : Nat) : Nat :=
  ((o.restarts.filter (fun p => i < p.2)).map (fun p => p.1)).foldl Nat.min o.length

/-- The first byte of an object that needs unit number `i` (R133): what decodes before it is not lost. Without the key
material the device takes the record's first byte or the restart point (log entry 22). -/
def State.firstLost (s : State) (o : Obj) (i : Nat) : Nat :=
  let r := o.restartAt i
  let floor := Nat.max r.1 (s.unit ((o.units[i]?).getD 0)).recOffset
  match s.keyFor o with
  | none => floor
  | some m =>
    let us := ((o.units.drop r.2).take (i - r.2)).map (fun u => (s.unit u).plain m)
    Nat.max floor (r.1 + (decodeFrom us r.1 o.length).1.length)

/-- The lost ranges that the units of `ids` take from an object: offset and length, in unit order. -/
def State.lostRanges (s : State) (o : Obj) (ids : List Nat) : List (Nat × Nat) :=
  (List.range o.units.length).filterMap (fun i =>
    if ids.contains ((o.units[i]?).getD 0) then
      let a := s.firstLost o i
      let e := o.restartAfter i
      if a < e then some (a, e - a) else none
    else none)

/-- One object loses the units of `ids`: event 0x001 of type 0x9 with the first byte newly lost, its log entry and the counter
(R48, R486). -/
def State.loseObject (s : State) (key : Nat) (o : Obj) (ids : List Nat) (cause : Nat) : State :=
  match (s.lostRanges o ids).filter (fun r => !o.lost.contains r) with
  | [] => s
  | (a, n) :: t =>
    let first := (t.map (fun r => r.1)).foldl Nat.min a
    let s := { s with obj := { s.obj with objs := Store.ins key { o with lost := o.lost ++ (a, n) :: t } s.obj.objs } }
    let s := s.raiseFor 9 (if s.inGroup then s.myId else 0) 0x001 (first + cause * 2 ^ 56) key first
    s.lifeAdd 88 1

/-- Units that no copy can give back any more are lost, and so are the ranges of the objects they belong to. -/
def State.loseUnits (s : State) (ids : List Nat) (cause : Nat) : State :=
  let ids := ids.filter (fun u => !(s.unit u).lost)
  if ids.isEmpty then s
  else
    let hit := s.obj.objs.filter (fun p => p.2.units.any (fun u => ids.contains u))
    let s := hit.foldl (fun s p => s.loseObject p.1 p.2 ids cause) s
    ids.foldl (fun s u => s.setUnit u { s.unit u with lost := true }) s

end Sys2Proof.Machine
end

