-- ==== Sys2Proof/Machine/Ramp.lean ====
section
/-!
DEFINITION. What the two sequencers set in Speedwell: slots and lanes, ramp modes and targets, the motor driver frames
(R281, R287 to R291).
-/

namespace Sys2Proof.Machine

/-- The motion state replaced. -/
def State.setMot (s : State) (m : MotSt) : State := { s with mot := m }

/-- Speedwell replaced. -/
def State.setCtl (s : State) (c : CtlSt) : State := { s with ctl := c }

/-- A loop slot. -/
def State.slotOf (s : State) (n : Nat) : SlotSt := Store.get SlotSt.init s.ctl.slots n

/-- A loop slot replaced. -/
def State.setSlotOf (s : State) (n : Nat) (v : SlotSt) : State := s.setCtl { s.ctl with slots := Store.put SlotSt.init s.ctl.slots n v }

/-- Slot `n` is enabled. -/
def State.slotOn (s : State) (n : Nat) : Bool := s.rdi F.CTL_SLOT_CFG_EN n != 0

/-- The flag bits of a slot as one number, in the order of Table 12-13. -/
def slotFlagFields : List Field :=
  [F.CTL_SLOT_FLAGS_ACC_SAT, F.CTL_SLOT_FLAGS_Q_SAT, F.CTL_SLOT_FLAGS_INT_CLAMP, F.CTL_SLOT_FLAGS_OUT_LIMIT,
   F.CTL_SLOT_FLAGS_OVERRUN, F.CTL_SLOT_FLAGS_TIMEOUT, F.CTL_SLOT_FLAGS_BUMP_CLAMP, F.CTL_SLOT_FLAGS_FERR,
   F.CTL_SLOT_FLAGS_LOSS, F.CTL_SLOT_FLAGS_ACTIVE_BANK_WRITE]

/-- Set a sticky flag of a slot (bit `b` of SLOT_FLAGS): the block's ANY_SLOT bit follows, and a trace trigger of kind 4
when the bit goes from 0 to 1 (R302). -/
def State.slotFlag (s : State) (n b : Nat) : State :=
  let f := (slotFlagFields[b]?).getD F.CTL_SLOT_FLAGS_ACC_SAT
  let first := s.rdi f n = 0
  let s := (s.wri f n 1).wr F.CTL_ERR_STATUS_ANY_SLOT 1
  if first && s.rd F.TRC_TRIG_CFG_KIND = 4 && s.rd F.TRC_TRIG_CFG_SLOT = n then s.trcTrigger else s

/-- Set a flag when a condition holds. -/
def State.slotFlagIf (s : State) (n b : Nat) (c : Bool) : State := if c then s.slotFlag n b else s

/-! ## The motor driver interface (R287, R288) -/

/-- A command frame of Table 12-4 with its CRC. -/
def mdrvFrame (cmd value : Nat) : Nat :=
  let hi := cmd % 16 * 2 ^ 20 + value % 2 ^ 20
  let b := fun i => BitVec.ofNat 8 (hi / 2 ^ (8 * i))
  hi * 256 + crc8 [b 2, b 1, b 0]

/-- Send a command on a lane. -/
def State.sendMdrv (s : State) (lane cmd value : Nat) : State :=
  let f := mdrvFrame cmd value
  (s.setCtl { s.ctl with laneFrame := Store.put 0 s.ctl.laneFrame lane f }).emit (.mdrv lane f)

/-- ENABLE or coast a lane (Table 12-5). -/
def State.enableLane (s : State) (lane : Nat) (on : Bool) : State :=
  (s.setCtl { s.ctl with laneOn := Store.put false s.ctl.laneOn lane on }).sendMdrv lane 2 (b2n on)

/-! ## Slots -/

/-- The role of a slot in each personality (Tables 12-1, 12-2), with the lane of its output, 7 for none. -/
def slotRole (tape : Bool) (n : Nat) : Nat × Nat :=
  if tape then
    match n with
    | 0 => (5, 0)
    | 1 => (5, 1)
    | 2 => (6, 7)
    | 3 => (7, 2)
    | 4 => (8, 3)
    | _ => (0, 7)
  else
    match n with
    | 0 => (1, 0)
    | 1 => (2, 1)
    | 2 => (1, 2)
    | 3 => (2, 3)
    | 4 => (3, 4)
    | 5 | 6 | 7 | 8 => (4, 7)
    | _ => (0, 7)

/-- The slot assignments of a personality enter the registers. -/
def State.assignSlots (s : State) (tape : Bool) : State :=
  (List.range 12).foldl (fun s n =>
    (s.wri F.CTL_SLOT_CFG_ROLE n (slotRole tape n).1).wri F.CTL_SLOT_CFG_LANE n
      (if (slotRole tape n).1 = 0 then 0 else (slotRole tape n).2)) s

/-- The sequencer enables a slot: normal operation from an output that counts as 0 (R291). -/
def State.enableSlot (s : State) (n : Nat) : State :=
  let s := (s.wri F.CTL_SLOT_CFG_EN n 1).wri F.CTL_SLOT_STATUS_STATE n 1
  let s := (s.wri F.CTL_SLOT_STATUS_COUNT n 0).wri F.CTL_SLOT_STATUS_RETRACTED n 0
  let s := s.wri F.CTL_SLOT_OUT_OUT n 0
  s.setSlotOf n { s.slotOf n with preset := true, last := none, ferrNs := 0, fade := 0 }

/-- A slot reports nothing to Betony: disabled or retracted (R300). -/
def State.reportDrive (s : State) (n v : Nat) : State :=
  { s with pwr := { s.pwr with currents := Store.put 0 s.pwr.currents n v } }

/-- The sequencer disables a slot. -/
def State.disableSlot (s : State) (n : Nat) : State :=
  ((s.wri F.CTL_SLOT_CFG_EN n 0).wri F.CTL_SLOT_STATUS_STATE n 0).reportDrive n 0

/-- The ramp mode of a slot; a change presets the integrator on the next sample (R291). -/
def State.setRampMode (s : State) (n m : Nat) : State :=
  if s.rdi F.CTL_RAMP_CTL_MODE n = m then s
  else (s.wri F.CTL_RAMP_CTL_MODE n m).setSlotOf n { s.slotOf n with preset := true }

/-- A ramp target in native units with 16 fraction bits, committed for the next sample (R290). -/
def State.setRampTarget (s : State) (n : Nat) (t : Int) : State :=
  let w := ofSigned 48 t
  let s := (s.wri F.CTL_RAMP_TGT_LO_TGT n (w % 2 ^ 32)).wri F.CTL_RAMP_TGT_HI_TGT n (w / 2 ^ 32)
  s.setSlotOf n { s.slotOf n with tgt := toSigned 48 w }

/-! ## Tape loops (R189 to R191) -/

/-- The velocity of a step in mm/s (R182). -/
def stepVelocity (x : Nat) : Nat := 1600 + 320 * x

/-- The acceleration limit of the tape per sample of 25 µs in mm/s with 16 fraction bits: ACCEL is in 0.1 m/s². -/
def State.tapeAccel (s : State) : Nat := s.rd F.CTL_TM_CFG_ACCEL * 16384 / 100

/-- The reels ramp to a tape velocity of `v` mm/s (R189, R290). -/
def State.tapeRamp (s : State) (v : Int) : State :=
  [0, 1].foldl (fun s n =>
    let s := s.setRampMode n 1
    let s := if v = 0 then s else s.wri F.CTL_RAMP_VMAX_LIMIT n (v.natAbs * 65536)
    (s.wri F.CTL_RAMP_AMAX_LIMIT n s.tapeAccel).setRampTarget n (v * 65536)) s

/-- The reels ramp to the velocity of step `x` in the direction of the wrap. -/
def State.tapeRun (s : State) (x : Nat) : State :=
  s.tapeRamp (if s.mot.reverse then -(stepVelocity x : Int) else (stepVelocity x : Int))

/-- The following-error limits of the reel slots for a step: 2 % of its velocity over the reel radius, for 20 ms (R292). -/
def State.reelLimits (s : State) (x : Nat) : State :=
  [(0, s.mot.radii.1), (1, s.mot.radii.2)].foldl (fun s p =>
    let s := s.wri F.CTL_SLOT_FERR_TIME_TIME_US p.1 20000
    if p.2 = 0 then s
    else s.wri F.CTL_SLOT_FERR_LIM_LIMIT p.1 (Nat.min (2 ^ 32 - 1) (stepVelocity x * 1000 * 65536 / p.2 / 50))) s

/-- An emergency stop: both reel motors brake and tension goes (R197). -/
def State.tapeBrake (s : State) : State :=
  let s := (s.sendMdrv 0 3 0).sendMdrv 1 3 0
  let s := (s.disableSlot 0).disableSlot 1
  s.setMot { s.mot with tension := 0 }

end Sys2Proof.Machine
end

