-- ==== Sys2Proof/Machine/Record.lean ====
section
/-!
DEFINITION. What lies recorded on tape: the units that the formatter makes itself, the payloads of a data set with its
L2 parity, the CWID, the bits of a codeword frame, the cartridge header, the index record and its directory (R151,
R153 to R157, R174, R178 to R180, R241).
-/

namespace Sys2Proof.Machine

/-! ## Units that the formatter makes (Tables 07-1, 07-2) -/

/-- A unit of a type with no command behind it: the rest of its header is 0, its tag that of its user field (R153). -/
def UnitRec.made (utype : Nat) (user : List Byte) : UnitRec :=
  { UnitRec.blank with utype := utype, user := padTo 4096 user, tag := crc64 (padTo 4096 user) }

/-- An EOD unit. -/
def UnitRec.eod : UnitRec := { UnitRec.empty with utype := 4 }

/-- The cartridge header's user field (Table 07-9). -/
def CartHeader.user (h : CartHeader) : List Byte :=
  leBytes 4 0x31545645 ++ leBytes 2 1 ++ leBytes 2 h.wraps ++ leBytes 4 h.lposBegin ++ leBytes 4 h.lposEnd ++
    leBytes 16 h.cartId ++ leBytes 4 h.gapUm

/-- An index record (Table 07-10). -/
structure IndexRec where
  pass : Nat
  seq : Nat
  eodDs : Nat
  eodWrap : Nat
  dirCount : Nat
  eodLpos : Nat
  mapDs : Nat
  mapCw : Nat
  cartId : Nat
  deriving DecidableEq, Repr

/-- The user field of an index record. -/
def IndexRec.user (r : IndexRec) : List Byte :=
  leBytes 4 0x32584449 ++ leBytes 4 r.pass ++ leBytes 8 r.seq ++ leBytes 4 r.eodDs ++ leBytes 2 r.eodWrap ++
    leBytes 2 r.dirCount ++ leBytes 4 r.eodLpos ++ leBytes 4 r.mapDs ++ leBytes 1 r.mapCw ++ leBytes 7 0 ++
    leBytes 16 r.cartId

/-- The index record that a user field spells. -/
def IndexRec.ofUser (l : List Byte) : IndexRec :=
  { pass := leAt l 4 4, seq := leAt l 8 8, eodDs := leAt l 16 4, eodWrap := leAt l 20 2, dirCount := leAt l 22 2
    eodLpos := leAt l 24 4, mapDs := leAt l 28 4, mapCw := leAt l 32 1, cartId := leAt l 40 16 }

/-- A directory entry (Table 07-11): wrap, first data set with its LPOS, last data set. -/
def dirEntry (wrap first lpos last : Nat) : List Byte :=
  leBytes 2 wrap ++ leBytes 2 0 ++ leBytes 4 first ++ leBytes 4 lpos ++ leBytes 4 last

/-- The directory: one entry for each wrap of the data partition on which an original begins, in ascending order. -/
def TapeSt.directory (t : TapeSt) (eod : DataSet) (wraps : Nat) : List (List Byte) :=
  (List.range wraps).filterMap (fun w =>
    let on := (t.onTape.filter (fun d => d.part = 1 && d.wrap = w && d.num < eod.num)) ++ (if eod.wrap = w then [eod] else [])
    match on with
    | [] => none
    | d :: _ =>
      let first := on.foldl (fun m e => if e.num < m.num then e else m) d
      let last := on.foldl (fun m e => if m.num < e.num then e else m) d
      some (dirEntry w first.num first.lpos last.num))

/-! ## Payloads and L2 parity (R151, R157) -/

/-- The units of codewords 0 to 175 that are placed. -/
def State.setUnits (s : State) (d : DataSet) : List UnitRec := d.own ++ d.units.map s.unit

/-- The 192 payloads of a data set: its units, EMPTY units in the codewords not placed, the L2 parity. -/
def State.buildImage (s : State) (d : DataSet) : List (List Byte) :=
  let p := (s.setUnits d).map UnitRec.payload
  let p := p ++ List.replicate (176 - p.length) UnitRec.empty.payload
  p ++ l2Parity p

/-- A data set closes: its payloads and parity are fixed (R151). -/
def State.sealSet (s : State) (d : DataSet) : DataSet := { d with closed := true, image := s.buildImage d }

/-- The payload of a copy: that of its codeword, zeros for FILL (R156, R165). -/
def State.copyPayload (s : State) (c : Copy) : List Byte :=
  if c.kind = 2 then List.replicate 4160 0#8
  else
    match (s.tape.sets ++ s.tape.onTape).find? (fun d => d.part = c.part && d.num = c.ds) with
    | some d => (d.image[c.cw]?).getD []
    | none => []

/-! ## The CWID (R155, Table 07-4) -/

/-- The 24 bytes of a CWID. -/
def cwidBytes (cw kind wrap part ds pass tag : Nat) : List Byte :=
  let b := leBytes 1 cw ++ leBytes 1 kind ++ leBytes 2 (wrap % 512 + part % 2 * 512) ++ leBytes 4 ds ++ leBytes 4 pass ++
    leBytes 8 tag ++ leBytes 2 0
  b ++ leBytes 2 (crc16 b)

/-- The CWID of a copy written on a wrap in a session. -/
def State.cwidOf (s : State) (c : Copy) (wrap pass : Nat) : List Byte :=
  let tag := crc64 ((s.copyPayload c).drop 64)
  if c.kind = 2 then cwidBytes 0 2 wrap (s.rd F.FMT_TSTATUS_PARTITION) 0 pass tag
  else cwidBytes c.cw c.kind wrap c.part c.ds pass tag

/-- A CWID copy is good. -/
def cwidGood (b : List Byte) : Bool := crc16 (b.take 22) = leAt b 22 2

/-- The CWID of a frame as a reader takes it: copy A when it is good, else copy B; none for an unidentified frame. -/
def cwidRead (a b : List Byte) : Option (List Byte) :=
  if cwidGood a then some a else if cwidGood b then some b else none

/-! ## The bits of a codeword frame (R154, R241, Tables 07-3, 10-3) -/

/-- The tone 0b1100, `n` bits of it. -/
def tone (n : Nat) : List Bool := (List.replicate (n / 4) [true, true, false, false]).flatten

/-- The sync mark of a tape frame. -/
def syncMark : List Bool := natBits 64 0x8E3B52D9C16FA407

/-- The 36,864 channel bits of a codeword frame. -/
def frameBits (cwid payload : List Byte) : List Bool :=
  tone 512 ++ syncMark ++ bytesBits cwid ++ l1Encode payload ++ bytesBits cwid ++ tone 64

/-- The bits of a copy on its track. -/
def State.copyBits (s : State) (c : Copy) (wrap pass : Nat) : List Bool :=
  frameBits (s.cwidOf c wrap pass) (s.copyPayload c)

/-! ## What the cartridge holds (R174, R175, R180) -/

/-- The highest WRITE_PASS of the frames of a partition. -/
def TapeSt.lastPass (t : TapeSt) (part : Nat) : Nat :=
  (t.written.filter (fun r => r.part = part)).foldl (fun m r => Nat.max m r.pass) 0

/-- The frame slots of the latest session of a partition. -/
def TapeSt.lastSession (t : TapeSt) (part : Nat) : List SlotRec :=
  t.written.filter (fun r => r.part = part && r.pass = t.lastPass part)

/-- The frame slots that hold a copy of a codeword, of those sessions whose WRITE_PASS is the highest among the frames of
its data set (R174). -/
def TapeSt.framesOf (t : TapeSt) (part ds : Nat) : List SlotRec :=
  let has := t.written.filter (fun r => r.copies.any (fun c => c.part = part && c.ds = ds && c.kind != 2))
  let p := has.foldl (fun m r => Nat.max m r.pass) 0
  has.filter (fun r => r.pass = p)

/-- The read of a data set covers its three slots, the 32 after the last of them, and goes on to the first original of
data set n + 64 while a re-issue is possible (R174). -/
def TapeSt.readWindow (t : TapeSt) (part ds : Nat) : List SlotRec :=
  let own := t.framesOf part ds
  let orig := own.filter (fun r => r.copies.any (fun c => c.ds = ds && c.kind = 0))
  let last := orig.foldl (fun m r => Nat.max m r.slot) 0
  let stop := (t.written.filter (fun r => r.part = part && r.copies.any (fun c => c.ds = ds + 64 && c.kind = 0))).foldl
    (fun m r => Nat.min m r.slot) (2 ^ 64)
  own.filter (fun r => r.slot ≤ last + 32 || r.slot < stop)

/-- Some frame in the read window holds a codeword. -/
def TapeSt.holdsCw (t : TapeSt) (part ds cw : Nat) : Bool :=
  (t.readWindow part ds).any (fun r => r.copies.any (fun c => c.part = part && c.ds = ds && c.cw = cw && c.kind != 2))

/-- A CWID read back names a codeword of a data set, in the session whose frames stand (R155, R174). -/
def TapeSt.names (t : TapeSt) (part ds cw : Nat) (id : List Byte) : Bool :=
  let p := (t.framesOf part ds).foldl (fun m r => Nat.max m r.pass) 0
  leAt id 0 1 = cw && leAt id 1 1 != 2 && leAt id 2 2 / 512 = part && leAt id 4 4 = ds && leAt id 8 4 = p

end Sys2Proof.Machine
end

