-- ==== Sys2Proof/Machine/Rings.lean ====
section
/-!
DEFINITION. Lanes and cells of the detector pool as places of state, and the sample rings (R20, R245, R246).
-/

namespace Sys2Proof.Machine

/-- The detector pool replaced. -/
def State.setDet (s : State) (d : DetSt) : State := { s with det := d }

/-- A lane's state. -/
def State.lane (s : State) (n : Nat) : LaneSt := Store.get LaneSt.init s.det.lanes n

/-- A lane's state replaced. -/
def State.setLane (s : State) (n : Nat) (l : LaneSt) : State :=
  s.setDet { s.det with lanes := Store.put LaneSt.init s.det.lanes n l }

/-- A cell. -/
def Cell.init : Cell := { job := none, limit := 0, sinceKat := 0, katDue := false, katFirst := false, kat := false }
def State.cell (s : State) (c : Nat) : Cell := Store.get Cell.init s.det.cells c

/-- A cell replaced. -/
def State.setCell (s : State) (c : Nat) (v : Cell) : State :=
  s.setDet { s.det with cells := Store.put Cell.init s.det.cells c v }

/-! ## Sample rings (R20, R245, R246) -/

/-- Bytes of samples of a codeword: one 8-bit sample for each of the 36,864 channel bits of a tape frame or the 36,096
sector bits of a disk sector. -/
def sampleBytes (lane : Nat) : Nat := if lane < 64 then 36864 else 36096

/-- Bytes of a lane's equalized ring (Table 10-1). -/
def ringBytes (lane : Nat) : Nat := if lane < 64 then 262144 else 1048576

/-- A lane's ring holds `n` bytes more or fewer; both D-lanes of a channel keep the samples of their own reader. -/
def State.setRingLevel (s : State) (lane n : Nat) : State :=
  let s := (s.setLane lane { s.lane lane with ring := n }).wri F.LANE_RING_LEVEL_KIB lane (n / 1024)
  if lane < 64 then s
  else (s.setLane (lane + 1) { s.lane (lane + 1) with ring := n }).wri F.LANE_RING_LEVEL_KIB (lane + 1) (n / 1024)

/-- The samples of a codeword are released (R20). -/
def State.freeSamples (s : State) (j : Job) : State :=
  if j.spilled then s.setDet { s.det with overflow := s.det.overflow - sampleBytes j.lane }
  else s.setRingLevel j.lane ((s.lane j.lane).ring - sampleBytes j.lane)

/-- The codewords whose samples a lane's ring holds: waiting, to restart, and in the cells (R20). -/
def State.ringJobs (s : State) (lane : Nat) : List Job :=
  (s.det.waiting ++ s.det.restart ++ (List.range 26).filterMap (fun c => (s.cell c).job)).filter (fun j =>
    j.lane = lane && !j.spilled)

/-- The codeword of a list that entered first. -/
def oldestJob : List Job → Option Job
  | [] => none
  | j :: t =>
    match oldestJob t with
    | none => some j
    | some k => if k.id < j.id then some k else some j

/-- A codeword is marked as spilled wherever it stands. -/
def State.markSpilled (s : State) (id : Nat) : State :=
  let up := fun (k : Job) => if k.id = id then { k with spilled := true } else k
  s.setDet { s.det with
    waiting := s.det.waiting.map up, restart := s.det.restart.map up
    cells := s.det.cells.map (fun p => (p.1, { p.2 with job := p.2.job.map up })) }

/-- Spill the oldest codeword of a lane that is not released and has its samples in the ring, or answer none when the
overflow region has no room (R20, R245, R246). -/
def State.spillOne (s : State) (lane : Nat) : Option State :=
  match oldestJob (s.ringJobs lane) with
  | none => none
  | some j =>
    if Config.overflowBytes.toNat < s.det.overflow + sampleBytes lane then none
    else
      let s := s.markSpilled j.id
      let s := s.setDet { s.det with overflow := s.det.overflow + sampleBytes lane }
      some ((s.setRingLevel lane ((s.lane lane).ring - sampleBytes lane)).inci F.LANE_SPILLS_COUNT lane)

end Sys2Proof.Machine
end

