-- ==== Sys2Proof/Machine/TapeFormat.lean ====
section
/-!
DEFINITION. Tape data sets, frames, rewrites and re-issues, verify decisions, disturbances and write failure
(R150 to R173, R181, R183, R185).
-/

namespace Sys2Proof.Machine

/-! ## Small updates -/

/-- The tape state replaced. -/
def State.setTape (s : State) (t : TapeSt) : State := { s with tape := t }

/-- Closed data sets that have not been begun on tape: the pending level (R183). -/
def TapeSt.pending (t : TapeSt) : Nat := t.sets.countP (fun d => d.closed && !d.begun)

/-- Data sets that occupy the tape buffer as closed ones (R183). -/
def TapeSt.closedSets (t : TapeSt) : Nat := t.sets.countP (fun d => d.closed)

/-- The pending level P: of closed data sets while the tape is written or stands, of data sets read ahead while it is read
(R183). -/
def State.levelP (s : State) : Nat := if s.mot.reading then s.tape.readAhead.length else s.tape.pending

/-- `CTL.TM_LEVEL` follows the pending level. -/
def State.syncLevel (s : State) : State := s.wr F.CTL_TM_LEVEL_P s.levelP

/-- Add `n` to the newest period of a history. -/
def bumpHead (n : Nat) : List Nat → List Nat
  | [] => [n]
  | a :: t => (a + n) :: t

/-- A data set before anything of it is on tape. -/
def DataSet.new (part num kind : Nat) (units : List Nat) (closed : Bool) : DataSet :=
  { part := part, num := num, kind := kind, units := units, closed := closed, begun := false, slot := 0, wrap := 0
    pass := 0, passed := 0, reissues := 0, verReissues := 0, reissueDue := false, interrupted := false, own := []
    image := [], okAt := [], fails := [], lpos := 0 }

/-- Every codeword of a data set has passed verify in some copy (R162). -/
def DataSet.verified (d : DataSet) : Bool := d.begun && popCount 192 d.passed = 192

/-- The data set of a partition and number in the buffer replaced by its image under `f`. -/
def TapeSt.mapSet (t : TapeSt) (part num : Nat) (f : DataSet → DataSet) : TapeSt :=
  { t with sets := t.sets.map (fun d => if d.part = part && d.num = num then f d else d) }

/-- The data set of a partition and number in the buffer. -/
def TapeSt.findSet (t : TapeSt) (part num : Nat) : Option DataSet :=
  t.sets.find? (fun d => d.part = part && d.num = num)

/-! ## Filling and closing data sets (R150, R151, R183) -/

/-- Open a new data set, which takes the next DS_NUM of the data partition. -/
def State.openSet (s : State) : State :=
  let n := s.rd F.FMT_DS_NEXT_DS_NUM
  let s := s.setTape { s.tape with sets := s.tape.sets ++ [DataSet.new 1 n 0 [] false] }
  s.wr F.FMT_DS_NEXT_DS_NUM (n + 1)

/-- The open data set: the last one while it is not closed. -/
def TapeSt.openOne (t : TapeSt) : Option DataSet :=
  match t.sets.getLast? with
  | some d => if d.closed then none else some d
  | none => none

/-- The buffer has room for another closed data set: written ones above the frontier and those read ahead occupy it too
(R183). -/
def TapeSt.hasRoom (t : TapeSt) : Bool := t.closedSets + t.readAhead.length < 4096

/-- A data set that the formatter makes itself joins the buffer, closed (R151, R178, R179). -/
def State.addSet (s : State) (d : DataSet) : State :=
  (s.setTape { s.tape with sets := s.tape.sets ++ [s.sealSet d] }).syncLevel

/-- Close the open data set; it becomes pending (R151). -/
def State.closeSet (s : State) : State :=
  match s.tape.openOne with
  | none => s
  | some d =>
    if d.units.isEmpty || !s.tape.hasRoom then s
    else
      let t := s.tape.mapSet d.part d.num s.sealSet
      let s := { s with mot := { s.mot with stopClosed := s.mot.stopClosed + b2n s.mot.stopped } }
      (s.setTape { t with closedHist := bumpHead 1 t.closedHist }).syncLevel

/-- Place one unit in the open data set, which closes at 176 units; false when it has to wait in the gather buffer. -/
def State.placeUnit (s : State) (id : Nat) : State × Bool :=
  let s := match s.tape.openOne with
    | none => s.openSet
    | some d => if d.units.length < 176 then s else s.closeSet
  let s := match s.tape.openOne with
    | none => s.openSet
    | some _ => s
  match s.tape.openOne with
  | none => (s, false)
  | some d =>
    if 176 ≤ d.units.length then (s, false)
    else
      let s := s.setTape (s.tape.mapSet d.part d.num (fun d => { d with units := d.units ++ [id] }))
      (if d.units.length = 175 then s.closeSet else s, true)

/-- Move waiting units from the gather buffer into data sets, in the order they were released (R139, R150). -/
def State.pumpGather : Nat → State → State
  | 0, s => s
  | fuel + 1, s =>
    match s.tape.gather with
    | [] => s
    | id :: rest =>
      match s.placeUnit id with
      | (s', true) =>
        let s' := { s' with obj := { s'.obj with gatherFree := s'.obj.gatherFree + 1 } }
        State.pumpGather fuel (s'.setTape { s'.tape with gather := rest })
      | (s', false) => s'

/-- Units released by Tansy enter the gather buffer and, as far as there is room, data sets. -/
def State.tapeTake (s : State) (ids : List Nat) : State :=
  let s := s.setTape { s.tape with gather := s.tape.gather ++ ids }
  State.pumpGather s.tape.gather.length s

/-! ## Frames (R159, R165 to R167) -/

/-- A FILL frame of a track (Table 07-4). -/
def Copy.fill (track slot : Nat) : Copy :=
  { part := 0, ds := 0, cw := 0, track := track, slot := slot, kind := 2, rewrites := 0, failed := 0 }

/-- The track of codeword `c` of data set `n` in copy `r` (R159). -/
def trackOf (n r c : Nat) : Nat := (c % 64 + 37 * ((n + 17 * r) % 64) + 21 * (c / 64)) % 64

/-- The three frame slots of a copy of a data set from slot `f` on; `fails` holds the tracks on which each codeword has
failed already (R159, R164). -/
def setFrames (part n r kind f : Nat) (fails : Store Nat) : List (List Copy) :=
  (List.range 3).map (fun p => (List.range 64).map (fun i =>
    let c := 64 * p + i
    { part := part, ds := n, cw := c, track := trackOf n r c, slot := f + p, kind := kind, rewrites := 0
      failed := Store.get 0 fails c }))

/-- The copy number of the `i`-th re-issue (R159). -/
def reissueCopy (i : Nat) : Nat := (i - 1) % 3 + 1

/-- A track is suspect or dead (R168). -/
def State.trackBad (s : State) (t : Nat) : Bool :=
  if t < 32 then bitAt (s.rd F.FMT_TRACK_SUSPECT_LO_TRACKS) t || bitAt (s.rd F.FMT_TRACK_DEAD_LO_TRACKS) t
  else bitAt (s.rd F.FMT_TRACK_SUSPECT_HI_TRACKS) (t - 32) || bitAt (s.rd F.FMT_TRACK_DEAD_HI_TRACKS) (t - 32)

/-- The number of dead tracks. -/
def State.deadTracks (s : State) : Nat :=
  popCount 32 (s.rd F.FMT_TRACK_DEAD_LO_TRACKS) + popCount 32 (s.rd F.FMT_TRACK_DEAD_HI_TRACKS)

/-- Add frames to be written from the next frame slot on. -/
def State.addFrames (s : State) (fs : List (List Copy)) : State :=
  s.setTape { s.tape with frames := s.tape.frames ++ fs, slot := s.tape.slot + fs.length }

/-- End every started command whose data is not yet verified on tape, with a status, and drop the buffer (R169, R198);
`early` takes in the started writes whose data has not reached a data set. In a group the strips move to other members instead
(R357). -/
def State.endTapeCmds (s : State) (status : Nat) (early : Bool) : State :=
  let bad := fun (c : Cmd) => c.stage = .started && ((early && c.units.isEmpty && c.frame.opcode ≤ 3) ||
    (!c.units.isEmpty && c.units.any (fun u =>
      match (s.unit u).place with
      | .tape _ _ _ => false
      | _ => true)))
  let cs := if s.inGroup then [] else s.sq.cmds.filter bad
  let s := cs.foldl (fun s c => (s.discardWork c).fail c status) s
  (s.setTape { s.tape with sets := [], gather := [], frames := [], rwq := [], awaiting := [] }).syncLevel

/-- Writing on the cartridge fails (R169): 1 re-issue limit, 2 dead tracks, 3 disturbances. -/
def State.failWriting (s : State) (why : Nat) : State :=
  if s.medium.writeFailed then s
  else
    let s := (s.wr F.FMT_TSTATUS_WSTATE 3).wr F.FMT_T_ERR_STATUS_WRITE_FAILED 1
    let s := { s with medium := { s.medium with writeFailed := true }, wra := { s.wra with squelchDue := true } }
    let s := s.raise 7 0 0x105 (s.rd F.FMT_FRONTIER_DS_NUM + why * 2 ^ 32)
    s.endTapeCmds stWriteFailed true

/-- Schedule a re-issue of a data set (R166); `verify` says that verify failures caused it. -/
def State.reissue (s : State) (part n : Nat) (verify : Bool) : State :=
  match s.tape.findSet part n with
  | none => s
  | some d =>
    let t := { s.tape with rwq := s.tape.rwq.filter (fun e => !(e.part = part && e.ds = n)) }
    let s := s.setTape t
    if d.reissueDue then s
    else if verify && s.rd F.FMT_RWW_CFG_MAX_REISSUE ≤ d.verReissues then s.failWriting 1
    else
      let s := s.setTape (s.tape.mapSet part n (fun d =>
        { d with reissueDue := true, reissues := d.reissues + 1, verReissues := d.verReissues + b2n verify }))
      let s := s.wr F.FMT_T_ERR_STATUS_REISSUE 1
      if verify then s.raise 7 0 0x102 n else s

/-- A track free for an entry in a frame (R165). -/
def State.eligibleTrack (s : State) (frame : List Copy) (e : Copy) (t : Nat) : Bool :=
  !frame.any (fun c => c.track = t) && !s.trackBad t && !bitAt e.failed t

/-- One pass over the rewrite queue for the frame at slot `f`: the copies placed and the entries that stay (R165). -/
def State.rewritePass (f maxRewrite : Nat) : List Copy → State → List Copy → State × List Copy
  | [], s, frame => (s, frame)
  | e :: t, s, frame =>
    if !s.tape.rwq.contains e then State.rewritePass f maxRewrite t s frame
    else if 32 < f - e.slot || e.rewrites = maxRewrite then
      State.rewritePass f maxRewrite t (s.reissue e.part e.ds true) frame
    else
      match (List.range 64).find? (fun j => s.eligibleTrack frame e ((e.track + 32 + j) % 64)) with
      | none => State.rewritePass f maxRewrite t s frame
      | some j =>
        let c := { e with track := (e.track + 32 + j) % 64, slot := f, kind := 1, rewrites := e.rewrites + 1 }
        let s := s.setTape { s.tape with rwq := dropFirst (fun x => x = e) s.tape.rwq }
        State.rewritePass f maxRewrite t s (frame ++ [c])

/-- The rewrite procedure of R165; `force` holds its loop while any entry is left (R167, R184). -/
def State.rewriteLoop (force : Bool) : Nat → State → State
  | 0, s => s
  | fuel + 1, s =>
    match s.tape.rwq with
    | [] => s
    | o :: _ =>
      let f := s.tape.slot
      if force || 64 ≤ s.tape.rwq.length || 20 ≤ f - o.slot then
        let (s, frame) := State.rewritePass f (s.rd F.FMT_RWW_CFG_MAX_REWRITE) s.tape.rwq s []
        let free := (List.range 64).filter (fun t => !frame.any (fun c => c.track = t))
        if s.medium.writeFailed then s
        else State.rewriteLoop force fuel (s.addFrames [frame ++ free.map (fun t => Copy.fill t f)])
      else s

/-- Write the re-issues that are due, in DS_NUM order, those of `upTo` and below (R166, R167). -/
def State.writeReissues (s : State) (upTo : Option Nat) : State :=
  let due := s.tape.sets.filter (fun d => d.reissueDue && (match upTo with
    | some m => decide (d.num ≤ m)
    | none => true))
  due.foldl (fun s d =>
    let fs := setFrames d.part d.num (reissueCopy d.reissues) 3 s.tape.slot d.fails
    let s := s.setTape (s.tape.mapSet d.part d.num (fun d => { d with reissueDue := false }))
    s.addFrames fs) s

/-- Frame slots of a wrap: the LPOS range of the cartridge header in units of 7.2 mm, a frame taking 453.7 µm. -/
def CartHeader.wrapSlots (h : CartHeader) : Nat := (h.lposEnd - h.lposBegin) * 72000 / 4537

/-- The wrap of the index partition on which a frame slot lies (Table 07-8). -/
def State.indexWrap (s : State) (slot : Nat) : Nat :=
  match s.tape.header with
  | some h => Nat.min 1 (slot / Nat.max 1 h.wrapSlots)
  | none => 0

/-- Writing goes over to a partition: its own count of frame slots goes on there (R152, R176). -/
def State.switchPart (s : State) (p : Nat) : State :=
  if s.rd F.FMT_TSTATUS_PARTITION = p then s
  else
    let t := s.tape
    let s := s.setTape { t with slot := t.otherSlot, otherSlot := t.slot }
    let s := s.wr F.FMT_TSTATUS_PARTITION p
    if p = 1 then s
    else
      let w := s.indexWrap s.tape.slot
      (s.wr F.FMT_TSTATUS_WRAP w).setMot { s.mot with reverse := w % 2 = 1 }

/-- Begin the oldest pending data set at the next frame slot; the sets of its number that an earlier session left are
overwritten (R152). -/
def State.beginSet (s : State) : State :=
  match s.tape.sets.find? (fun d => d.closed && !d.begun) with
  | none => s
  | some d =>
    let s := s.switchPart d.part
    let f := s.tape.slot
    let w := s.rd F.FMT_TSTATUS_WRAP
    let l := s.rd F.CTL_TM_LPOS_LPOS
    let s := s.setTape (s.tape.mapSet d.part d.num (fun d =>
      { d with begun := true, slot := f, wrap := w, lpos := l, pass := s.tape.writePass + b2n (!s.tape.session) }))
    let s := s.setTape { s.tape with
      onTape := s.tape.onTape.filter (fun e => !(e.part = d.part && e.num = d.num)) }
    let s := s.addFrames (setFrames d.part d.num 0 0 f [])
    (s.setTape { s.tape with newHist := bumpHead 3 s.tape.newHist }).syncLevel

/-- The formatter reaches a data set boundary: the rewrite procedure, the re-issues due, then a new data set unless a
quiet point, a wrap end, a disturbance or a failure holds it back (R165 to R167, R177, R184). -/
def State.setBoundary (s : State) : State :=
  if s.medium.writeFailed || s.mot.repos || s.mot.stopped || s.mot.reading then s
  else
    let hold := s.mot.quiet.isSome || s.on F.FMT_TSTATUS_WRAP_END
    let next := s.tape.sets.find? (fun d => d.closed && !d.begun)
    let old := match next with
      | some d => if 64 ≤ d.num then some (d.num - 64) else none
      | none => none
    let due := match old with
      | some m => s.tape.rwq.any (fun e => e.ds ≤ m)
      | none => false
    let s := State.rewriteLoop (hold || due) 64 s
    let s := if s.medium.writeFailed then s else s.writeReissues none
    if hold || s.medium.writeFailed then s else s.beginSet

/-! ## Writing a frame slot (R166, R179, R266) -/

/-- The delay of a track in eighths of a channel bit: `WRA.TW_SKEW` (R266). -/
def State.skewOf (s : State) (t : Nat) : Nat :=
  let f := match t % 4 with
    | 0 => F.WRA_TW_SKEW_TRACK0
    | 1 => F.WRA_TW_SKEW_TRACK1
    | 2 => F.WRA_TW_SKEW_TRACK2
    | _ => F.WRA_TW_SKEW_TRACK3
  s.rdi f (t / 4)

/-- The copies of a frame lie on tape: the slot's record, over whatever lay there (R154, R174). -/
def State.recordSlot (s : State) (f : List Copy) (slot : Nat) : State :=
  let p := s.rd F.FMT_TSTATUS_PARTITION
  let w := s.rd F.FMT_TSTATUS_WRAP
  let r : SlotRec := { part := p, slot := slot, wrap := w, lpos := s.rd F.CTL_TM_LPOS_LPOS, pass := s.tape.writePass
                       copies := f }
  let s := s.setTape { s.tape with written := s.tape.written.filter (fun x => !(x.part = p && x.slot = slot)) ++ [r] }
  f.foldl (fun s c => s.emit (.tapeFrame slot c.track (s.skewOf c.track) (s.copyBits c w r.pass))) s

/-- The counters of what a frame holds: rewrite copies, and a re-issue with its last slot (R181). -/
def State.countFrame (s : State) (f : List Copy) : State :=
  let rew := f.countP (fun c => c.kind = 1)
  let s := (s.addi F.FMT_CW_REWRITTEN_COUNT 0 rew).lifeAdd 80 rew
  if f.any (fun c => c.kind = 3 && c.cw = 128) then s.inc F.FMT_DS_REISSUED_COUNT else s

/-- The instant of a frame slot: the oldest frame built goes to tape on all 64 tracks; its codewords await their
decisions. The first frame of a session raises WRITE_PASS (R154, R179, R266). -/
def State.writeFrame (s : State) : State :=
  match s.tape.frames with
  | [] => s
  | f :: rest =>
    let live := f.filter (fun c => c.kind != 2)
    let first := !s.tape.session
    let at' := s.tape.slot - s.tape.frames.length
    let s := s.setTape { s.tape with
      frames := rest, awaiting := s.tape.awaiting ++ live, session := true
      writePass := s.tape.writePass + b2n first, slotHist := bumpHead 1 s.tape.slotHist }
    let s := (s.recordSlot f at').countFrame f
    let s := (s.wr F.FMT_TSTATUS_WSTATE 1).add64 F.FMT_CW_WRITTEN_LO_COUNT F.FMT_CW_WRITTEN_HI_COUNT live.length
    s.lifeAdd 48 (4480 * live.length)

/-- A frame slot passes while the tape runs and no frame is written: the number of the next one advances (R185, R186). -/
def State.passSlot (s : State) : State :=
  s.setTape { s.tape with slot := s.tape.slot + 1, slotHist := bumpHead 1 s.tape.slotHist }

/-! ## Disturbances (R170 to R172) -/

/-- Four disturbances within 256 consecutive DS_NUMs (R172). -/
def fourWithin (ds : List Nat) : Bool :=
  ds.any (fun a => 4 ≤ ds.countP (fun b => a ≤ b && b < a + 256))

/-- Frame slots by which the read elements trail the write elements: GAP_UM over 453.7 µm, rounded up (R160). -/
def State.gapSlots (s : State) : Nat := (s.rd F.FMT_RWW_GAP_GAP_UM * 10 + 4536) / 4537

/-- The slot written last. -/
def TapeSt.lastSlot (t : TapeSt) : Nat := t.slot - t.frames.length - 1

/-- The decisions of a slot stand after a disturbance that began in slot `d`: the slot lies before it and its read-back
instant has passed (R171). -/
def State.slotStands (s : State) (d slot : Nat) : Bool := slot < d && slot + s.gapSlots ≤ s.tape.lastSlot

/-- A data set without the passes of the slots that a disturbance fails. -/
def DataSet.keepPasses (d : DataSet) (p : Nat → Bool) : DataSet :=
  let ok := d.okAt.filter (fun e => p e.2)
  { d with okAt := ok, passed := ok.foldl (fun m e => setBit m e.1) 0 }

/-- The codewords of the slots that a disturbance fails lose their decisions, taken and awaited, and their samples
(R20, R171). -/
def State.failSlots (s : State) (d : Nat) : State :=
  let ok := s.slotStands d
  let gone := s.det.waiting.filter (fun j => match j.target with
    | .verify c => !ok c.slot
    | _ => false)
  let s := s.setTape { s.tape with
    sets := s.tape.sets.map (fun e => e.keepPasses ok), awaiting := s.tape.awaiting.filter (fun c => ok c.slot) }
  let s := s.setDet { s.det with waiting := s.det.waiting.filter (fun j => !gone.any (fun g => g.id = j.id)) }
  gone.foldl State.freeSamples s

/-- Writing stops in or after slot `d`: what is not verified is to be re-issued after a reposition, which begins with the
deceleration (R171, R189). `atEnd` the outputs stop at the end of the frame slot in progress, else at once. A change of
step in progress is given up. -/
def State.haltWriting (s : State) (d : Nat) (atEnd : Bool) : State :=
  let s := (s.failSlots d).wr F.FMT_TSTATUS_WSTATE 2
  let begun := s.tape.sets.filter (fun d => d.begun && !d.verified)
  let t := s.tape
  let s := s.setTape { t with rwq := [], frames := [], slot := t.slot - t.frames.length + 8, slotFails := [] }
  let s := { s with
    mot := { s.mot with
      repos := true, moving := false, quiet := none, ramping := false, settled := 0, turning := false, phase := .stop }
    wra := { s.wra with squelchDue := atEnd } }
  let s := if atEnd then s else s.wr F.WRA_STATUS_TAPE_SQUELCH 1
  let s := (begun.foldl (fun s d => s.reissue d.part d.num false) s).inc F.CTL_TM_REPOS_COUNT
  let s := s.wr F.CTL_TM_STATUS_TARGET (s.rd F.CTL_TM_STATUS_STEP)
  (s.tapeRamp 0).ask 2 0 2

/-- The first data set that a stop of writing affects. -/
def State.firstOpenSet (s : State) : Nat :=
  match s.tape.sets.filter (fun d => d.begun && !d.verified) with
  | d :: _ => d.num
  | [] => s.rd F.FMT_FRONTIER_DS_NUM + 1

/-- The data set in progress when writing stops at the end of a frame slot: the one begun last that is not verified
(R173). -/
def State.setInProgress (s : State) : Nat :=
  match (s.tape.sets.filter (fun d => d.begun && !d.verified)).getLast? with
  | some d => d.num
  | none => s.rd F.FMT_FRONTIER_DS_NUM + 1

/-- A write disturbance of a cause of Table 07-6 that began in slot `d` (R170 to R172). -/
def State.disturbAt (s : State) (cause d : Nat) : State :=
  if s.rd F.FMT_TSTATUS_WSTATE != 1 then s
  else
    let first := s.firstOpenSet
    let s := (s.inc F.FMT_DISTURBS_COUNT).wr F.FMT_T_ERR_STATUS_DISTURB 1
    let s := s.setTape { s.tape with disturbs := s.tape.disturbs ++ [first] }
    let s := (s.haltWriting d (cause = 2)).raise 7 0 0x101 (cause + first * 2 ^ 8)
    if fourWithin s.tape.disturbs then s.failWriting 3 else s

/-- A write disturbance that begins in the slot being written. -/
def State.disturb (s : State) (cause : Nat) : State := s.disturbAt cause s.tape.lastSlot

/-! ## Verify decisions (R160, R162 to R164, R168) -/

/-- The suspect and dead marks of a track after a decision (R168). -/
def State.markTrack (s : State) (t : Nat) (fail : Bool) : State :=
  let h := (Store.get 0 s.tape.last16 t * 2 + b2n fail) % 65536
  let s := s.setTape { s.tape with last16 := Store.put 0 s.tape.last16 t h }
  let n := popCount 16 h
  let b := t % 32
  let sus := if t < 32 then F.FMT_TRACK_SUSPECT_LO_TRACKS else F.FMT_TRACK_SUSPECT_HI_TRACKS
  let dead := if t < 32 then F.FMT_TRACK_DEAD_LO_TRACKS else F.FMT_TRACK_DEAD_HI_TRACKS
  let s := if 4 ≤ n && !bitAt (s.rd sus) b then (s.raiseBit sus b).raise 7 t 0x103 n
    else if n = 0 then s.putBit sus b false else s
  if 12 ≤ n && !bitAt (s.rd dead) b then
    let s := ((s.raiseBit dead b).wr F.FMT_T_ERR_STATUS_DEAD_TRACK 1).raise 7 t 0x104 n
    if s.rd F.FMT_RWW_CFG_MAX_DEAD < s.deadTracks then s.failWriting 2 else s
  else s

/-- The data set and codeword that hold the map root: the last MAP unit on tape (Table 07-10). -/
def State.mapRoot (s : State) : Nat × Nat :=
  (s.tape.onTape.filter (fun d => d.part = 1)).foldl (fun m d =>
    ((List.range d.units.length).filter (fun i => (s.unit ((d.units[i]?).getD 0)).utype = 2)).foldl (fun _ i =>
      (d.num, i)) m) (0, 0)

/-- The index data set that follows the EOD data set of a stop; where the index partition has no room it is written as
data set 1 again and the later ones count as unwritten (R179). -/
def State.addIndex (s : State) (eod : DataSet) : State :=
  let h := (s.tape.header).getD { wraps := 8, lposBegin := 0, lposEnd := 0, cartId := 0, gapUm := 0 }
  let t := s.tape
  let full := 2 * h.wrapSlots < t.otherSlot + 3 && 1 < t.indexNext
  let num := if full then 1 else t.indexNext
  let dir := t.directory eod h.wraps
  let root := s.mapRoot
  let r : IndexRec := {
    pass := t.writePass, seq := t.indexSeq + 1, eodDs := eod.num, eodWrap := eod.wrap, dirCount := dir.length
    eodLpos := eod.lpos, mapDs := root.1, mapCw := root.2, cartId := h.cartId }
  let own := UnitRec.made 7 r.user :: ((List.range ((dir.length + 255) / 256)).map (fun i =>
    UnitRec.made 7 ((dir.drop (256 * i)).take 256).flatten))
  let s := s.setTape { t with
    indexNext := num + 1, indexSeq := t.indexSeq + 1, otherSlot := if full then 3 else t.otherSlot
    onTape := if full then t.onTape.filter (fun d => !(d.part = 0 && 1 ≤ d.num)) else t.onTape }
  s.addSet { DataSet.new 0 num 3 [] true with own := own }

/-- The data sets that stand verified at the front of the buffer pass the frontier, in DS_NUM order: their units lie
on tape (R162). An EOD data set that passes calls for the index data set, an index data set ends the stop's writes. -/
def State.passFrontier : Nat → State → State
  | 0, s => s
  | fuel + 1, s =>
    match s.tape.sets with
    | [] => s
    | d :: rest =>
      if !(d.closed && d.verified) then s
      else
        let s := s.setTape { s.tape with sets := rest, onTape := s.tape.onTape ++ [d] }
        let s := (List.range d.units.length).foldl (fun s i =>
          let id := (d.units[i]?).getD 0
          let u := s.unit id
          if u.user.isEmpty && u.utype = 0 then s else s.setUnit id { u with place := .tape d.part d.num i }) s
        let s := s.wr F.FMT_FRONTIER_DS_NUM d.num
        let s := if d.kind = 1 then (s.setTape { s.tape with stopStage := 2 }).addIndex d
          else if d.kind = 3 then s.setTape { s.tape with stopStage := 3, stale := false }
          else s
        State.passFrontier fuel s

/-- A codeword's copy fails verify while its data set is in the buffer: a rewrite entry with the tracks on which the
codeword has failed, or a re-issue when the queue is full (R164). -/
def State.verifyFail (s : State) (c : Copy) : State :=
  let n := Store.get 0 s.tape.slotFails c.slot + 1
  let s := s.setTape { s.tape with slotFails := Store.put 0 s.tape.slotFails c.slot n }
  let s := match s.tape.findSet c.part c.ds with
    | none => s
    | some d =>
      let f := setBit (Nat.lor c.failed (Store.get 0 d.fails c.cw)) c.track
      let s := s.setTape (s.tape.mapSet c.part c.ds (fun d => { d with fails := Store.put 0 d.fails c.cw f }))
      if 1024 ≤ s.tape.rwq.length then (s.wr F.FMT_T_ERR_STATUS_RWQ_FULL 1).reissue c.part c.ds true
      else s.setTape { s.tape with rwq := s.tape.rwq ++ [{ c with failed := f }] }
  if n = s.rd F.FMT_RWW_CFG_DISTURB_TRACKS then s.disturbAt 2 c.slot else s

/-- A codeword's copy passes verify (R162). -/
def State.verifyPass (s : State) (c : Copy) : State :=
  let s := s.setTape (s.tape.mapSet c.part c.ds (fun d =>
    { d with passed := setBit d.passed c.cw, okAt := d.okAt ++ [(c.cw, c.slot)] }))
  let s := State.passFrontier s.tape.sets.length s
  (State.pumpGather s.tape.gather.length s).syncLevel

/-- The verify decision of a copy: late decisions are failures and are counted (R163). A copy that awaits no decision
any more (its slot was failed by a disturbance) gets none. -/
def State.verifyDecide (s : State) (c : Copy) (pass late : Bool) : State :=
  if !s.tape.awaiting.contains c then s
  else
    let s := s.setTape { s.tape with awaiting := dropFirst (fun x => x = c) s.tape.awaiting }
    let s := if late then s.wr F.FMT_T_ERR_STATUS_DEADLINE 1 else s
    let ok := pass && !late
    let s := s.markTrack c.track (!ok)
    if s.medium.writeFailed then s else if ok then s.verifyPass c else s.verifyFail c

/-- The data set in progress is marked unverified at a shutdown, and reported (R173). -/
def State.interruptSet (s : State) : State :=
  let n := s.setInProgress
  let up := fun (d : DataSet) => if d.num = n && d.begun && !d.verified then { d with interrupted := true } else d
  (s.setTape { s.tape with sets := s.tape.sets.map up }).raise 7 0 0x106 n

/-! ## The commands -/

/-- `DATA_SET_CLOSE_TIMEOUT`: CLOSE_MS after its first unit, the open data set closes with EMPTY units (R151). -/
def execDataSetCloseTimeout (s : State) : Host.Outcome State Fault Refusal := .next s.closeSet

/-- `DATA_SET_BEGIN`: the formatter stands at a data set boundary (R165 to R167). -/
def execDataSetBegin (s : State) : Host.Outcome State Fault Refusal := .next s.setBoundary

end Sys2Proof.Machine
end

