-- ==== Sys2Proof/Machine/Medium.lean ====
section
/-!
DEFINITION. What both personalities share: the medium state, the MEDIA functions that wait on it, requests to Betony,
and the requests that a block makes before a grant (R22, R117, R118, R401).
-/

namespace Sys2Proof.Machine

/-! ## Medium states (Table 05-8) -/

/-- Medium states. -/
def mEmpty : Nat := 0
def mStarting : Nat := 1
def mReady : Nat := 2
def mUnformatted : Nat := 3
def mStopping : Nat := 4
def mStopped : Nat := 5
def mFaulted : Nat := 6

/-- The medium takes a state. -/
def State.setMedium (s : State) (st : Nat) : State := { s with medium := { s.medium with state := st } }

/-- The medium state that a stopped or unloaded medium has in the personality. -/
def State.restState (s : State) : Nat := if s.tMode then mEmpty else mStopped

/-- The started MEDIA commands of a function. -/
def State.mediaCmds (s : State) (fn : Nat) : List Cmd :=
  s.sq.cmds.filter (fun c => c.stage = .started && c.frame.opcode = 0x30 && c.frame.flags = fn)

/-- End the started MEDIA commands of a function. -/
def State.endMedia (s : State) (fn status result aux : Nat) : State :=
  (s.mediaCmds fn).foldl (fun s c => s.finish c status result aux) s

/-- The start reaches READY or UNFORMATTED; a STOP admitted meanwhile goes on (R118). -/
def State.startReached (s : State) (st : Nat) : State :=
  let s := (s.setMedium st).endMedia 1 stSuccess st 0
  let stop := s.medium.stopAfter
  let s := { s with medium := { s.medium with func := 0, stopAfter := false } }
  if stop then
    let s := s.setMedium mStopping
    { s with medium := { s.medium with func := 2 } }
  else s

/-- The stop reaches EMPTY or STOPPED. -/
def State.stopReached (s : State) : State :=
  let s := (s.setMedium s.restState).endMedia 2 stSuccess 0 0
  { s with medium := { s.medium with func := 0, writeFailed := false, stopAfter := false } }

/-- A started command other than MEDIA STOP that uses the medium is left: it runs to commit or error before the stop
begins (R118). -/
def State.mediumBusy (s : State) : Bool :=
  s.sq.cmds.any (fun c => c.stage = .started && [0x01, 0x02, 0x03, 0x10, 0x12].contains c.frame.opcode) ||
    !(s.mediaCmds 4).isEmpty

/-- A place on this device's medium. -/
def Place.here : Place → Bool
  | .none => false
  | .tape _ _ _ => true
  | .landing h _ => decide (h < 64)
  | .zone _ _ => true
  | .stripe _ _ _ => false

/-- Bytes that the units in use occupy on the medium. -/
def State.bytesInUse (s : State) : Nat := 4096 * s.obj.units.countP (fun p => p.2.place.here)

/-- Destage, cleaning, rebuild, reshape and scrub are paused: an activation has been applied here and not yet ended
(R444 steps 3 and 5). -/
def State.paused (s : State) : Bool := s.boot.activation = 3

end Sys2Proof.Machine
end

