-- ==== Sys2Proof/Machine/DiskFormat.lean ====
section
/-!
DEFINITION. The disk: failure domains, track placement, landing copies, destage and read-back, reallocation, zone
cleaning and the zone table (R202 to R234).
-/

namespace Sys2Proof.Machine

/-- The disk state replaced. -/
def State.setDisk (s : State) (d : DiskSt) : State := { s with disk := d }

/-! ## Heads and failure domains (R202, R204) -/

/-- The actuator of a head (R202). -/
def State.actOf (s : State) (h : Nat) : Nat := if h < s.disk.heads / 2 then 0 else 1

/-- A surface is in service: neither its head nor its actuator has failed. -/
def State.surfOk (s : State) (h : Nat) : Bool :=
  h < s.disk.heads && s.headOk h && !bitAt (s.rd F.FMT_HEAD_FAILED_ACTUATORS) (s.actOf h)

/-- The surfaces of an actuator in service, in ascending order. -/
def State.surfaces (s : State) (a : Nat) : List Nat :=
  (List.range s.disk.heads).filter (fun h => s.actOf h = a && s.surfOk h)

/-! ## Sector placement (R209, R213) -/

/-- Where a sector lies: its first field, the bit where it starts, the sector bits laid there, and the field of its
continuation, if it has one. -/
structure Placement where
  field : Nat
  at' : Nat
  first : Nat
  cont : Option Nat
  deriving DecidableEq, Repr

/-- The placement procedure of R213 for one track; `fuel` bounds its steps. -/
def placeSectors (d : Nat) : Nat → Nat → Nat → List Placement
  | 0, _, _ => []
  | fuel + 1, f, pos =>
    if d - pos < 1200 then (if f + 1 = 640 then [] else placeSectors d fuel (f + 1) 0)
    else
      let k := d - pos
      if f = 639 && k < 36096 then []
      else if 36096 ≤ k then Placement.mk f pos 36096 none :: placeSectors d fuel f (pos + 36096)
      else if 36064 ≤ k then Placement.mk f pos k none :: placeSectors d fuel (f + 1) 0
      else
        let k := if 18096 ≤ k && k < 18144 then 18096 else k
        Placement.mk f pos k (some (f + 1)) :: placeSectors d fuel (f + 1) (88 + 36096 - k)

/-- The sectors of a track with data field length `d`. -/
def trackSectors (d : Nat) : List Placement := placeSectors d 4096 0 0

/-- The data field length D of a track of a surface: its band's (R208). -/
def State.trackD (s : State) (h t : Nat) : Nat := (s.bandAt h t).d

/-- Sector positions on a track of a surface. -/
def State.trackLen (s : State) (h t : Nat) : Nat := (trackSectors (s.trackD h t)).length

/-! ## Landing rings (R217 to R220) -/

/-- The landing ring of a surface. -/
def State.ring (s : State) (h : Nat) : Ring := Store.get Ring.init s.disk.rings h

/-- The landing ring of a surface replaced. -/
def State.setRing (s : State) (h : Nat) (r : Ring) : State :=
  s.setDisk { s.disk with rings := Store.put Ring.init s.disk.rings h r }

/-- Raise the event of a ring whose free positions have fallen below LOW_PCT, once until they are above it again
(R220). -/
def State.checkLow (s : State) (h : Nat) : State :=
  let r := s.ring h
  let low := decide (r.freePct < s.rd F.FMT_DZ_LAND_LOW_PCT)
  if low && !bitAt s.disk.lowRings h then
    let s := s.setDisk { s.disk with lowRings := setBit s.disk.lowRings h }
    (s.wr F.FMT_D_ERR_STATUS_LANDING_LOW 1).raise 7 h 0x303 r.free
  else if low then s
  else s.setDisk { s.disk with lowRings := clrBit s.disk.lowRings h }

/-- Release the landing positions that `p` holds for, on every surface. -/
def State.releaseLanding (s : State) (p : LandPos → Bool) : State :=
  let s := s.setDisk { s.disk with rings := s.disk.rings.map (fun e => (e.1, e.2.release p)) }
  (s.disk.rings.map (fun e => e.1)).foldl State.checkLow s

/-- The next position of a ring that is not on its defect list, and the ring after it; a new pass increments LIFE. -/
def Ring.step : Nat → Ring → Ring × Nat
  | 0, r => (r, r.next)
  | fuel + 1, r =>
    let p := r.next
    let r := if p + 1 < r.size then { r with next := p + 1 } else { r with next := 0, life := (r.life + 1) % 256 }
    if r.defects.contains p then Ring.step fuel r else (r, p)

/-- Lay units on consecutive positions of a ring for a command. -/
def Ring.lay (uid : Nat) : List Nat → Ring → Ring
  | [], r => r
  | u :: t, r =>
    let (r, p) := Ring.step (r.defects.length + 1) r
    Ring.lay uid t { r with held := r.held ++ [{ pos := p, unit := u, uid := uid, released := false }] }

/-- Write faults that a command has met on a surface (R219). -/
def State.faultsOn (s : State) (uid h : Nat) : Nat := s.disk.copyFaults.countP (fun p => p.1 = uid && p.2 = h)

/-- The surfaces that can take a further copy of a command, in the order in which the device tries them: a surface whose
copy has met one fault, then the preferred actuator, then the other (R205, R217, R219). -/
def State.copySurfaces (s : State) (uid : Nat) (pref : List Nat) (taken : List Nat) (n : Nat) : List Nat :=
  let ok := fun h => !taken.contains h && s.faultsOn uid h < 2 && n ≤ (s.ring h).usable && s.surfOk h
  let again := ((List.range s.disk.heads).filter (fun h => s.faultsOn uid h = 1 && ok h))
  again ++ (pref.filter (fun h => ok h && !again.contains h))

/-- The surfaces for the copy that joins the copies on `taken`: those of the other actuator; only when the other has none
left, lost or given up after two faults, those of the same one (R205, R217, R219). -/
def State.prefer (s : State) (uid : Nat) (taken : List Nat) : List Nat :=
  match taken with
  | [] => s.surfaces 0 ++ s.surfaces 1
  | h :: _ =>
    let l := (s.surfaces (1 - s.actOf h)).filter (fun g => s.faultsOn uid g < 2)
    if l.isEmpty then s.surfaces (s.actOf h) else l

/-- Choose a surface: the first that has room at once, else the first of all; none when no ring is large enough. -/
def State.pickSurface (s : State) (uid : Nat) (taken : List Nat) (n : Nat) : Option Nat :=
  let l := s.copySurfaces uid (s.prefer uid taken) taken n
  (l.find? (fun g => n ≤ (s.ring g).free)).or l.head?

/-- Destage data of a short ring ahead of other data (R220). -/
def State.hurryRing (s : State) (h : Nat) : State :=
  let inRing := fun u => (s.ring h).held.any (fun p => p.unit = u && !p.released)
  s.setDisk { s.disk with destage := s.disk.destage.filter inRing ++ s.disk.destage.filter (fun u => !inRing u) }

/-- Place the landing copies that a command still misses, up to two: none when a copy can never be placed; a command
whose ring has too few free positions waits (R217, R220). -/
def State.placeCopies : Nat → State → Nat → Option State
  | 0, s, _ => some s
  | fuel + 1, s, uid =>
    match s.cmdByUid uid with
    | none => some s
    | some c =>
      if 2 ≤ c.copies.length then some (s.setCmd { c with waits := 0 })
      else
        let n := c.units.length
        match s.pickSurface uid (c.copies.map (fun l => l.place)) n with
        | none => none
        | some h =>
          if (s.ring h).free < n then
            let s := if c.waits = 2 then s else s.raise 7 0 0x304 c.frame.stream
            some ((s.setCmd { c with waits := 2 }).hurryRing h)
          else
            let pos := (s.ring h).next
            let s := (s.setRing h (Ring.lay uid c.units (s.ring h))).checkLow h
            let l : Landing := { place := h, pos := pos, len := n, written := false }
            State.placeCopies fuel (s.setCmd { c with copies := c.copies ++ [l] }) uid

/-- The landing write of a started command: both copies must be placeable before either is written (R220). -/
def State.startLanding (s : State) (c : Cmd) : State :=
  match s.pickSurface c.uid [] c.units.length with
  | none => (s.discardWork c).fail c stMediaFull
  | some h =>
    match s.pickSurface c.uid [h] c.units.length with
    | none => (s.discardWork c).fail c stMediaFull
    | some g =>
      if (s.ring h).free < c.units.length || (s.ring g).free < c.units.length then
        let s := if c.waits = 2 then s else s.raise 7 0 0x304 c.frame.stream
        ((s.setCmd { c with waits := 2 }).hurryRing h).hurryRing g
      else (State.placeCopies 3 s c.uid).getD s

/-- Both landing copies of a command are written, on the two different surfaces that `State.pickSurface` chose: of
different actuators as long as both have one left (Table 02-1). -/
def Cmd.landed (c : Cmd) : Bool :=
  2 ≤ c.copies.length && c.copies.all (fun l => l.written) && decide ((c.copies.map (fun l => l.place)).Nodup)

/-- The device cannot place two landing copies on surfaces of different actuators (R33). -/
def State.degradedLanding (s : State) : Bool := (s.surfaces 0).isEmpty || (s.surfaces 1).isEmpty

/-- A landing copy is missing or was lost and has to be written again; with no surface left for it the command
completes with WRITE_FAILED (R205, R219). -/
def State.recopy (s : State) (uid : Nat) : State :=
  match State.placeCopies 3 s uid with
  | some s => s
  | none =>
    match s.cmdByUid uid with
    | some c => (s.discardWork c).fail c stWriteFailed
    | none => s

/-- A write fault of a row of Table 09-8 is counted and reported; `zone` is 0xFFFF_FFFF for a landing ring. -/
def State.writeFault (s : State) (row head zone : Nat) : State :=
  ((s.inc F.FMT_WFAULTS_COUNT).wr F.FMT_D_ERR_STATUS_WRITE_FAULT 1).raise 7 head 0x307 (row + zone * 2 ^ 32)

/-- The key under which a landing copy held for the lead stands in a ring. -/
def copyUid (stream seq : Nat) : Nat := 2 ^ 64 + stream * 2 ^ 32 + seq

/-- A landing copy held for the lead, replaced (R352). -/
def State.setCopy (s : State) (c : RemoteCopy) : State :=
  { s with red := { s.red with remote := s.red.remote.map (fun d =>
    if d.stream = c.stream && d.seq = c.seq then c else d) } }

/-- Place a landing copy held for the lead on the first surface in service with room; without a ring large enough it
fails, without room at the moment it waits (R217 to R220, R352). -/
def State.placeRemote (s : State) (c : RemoteCopy) : State :=
  let uid := copyUid c.stream c.seq
  let n := c.units.length
  let fit := (s.surfaces 0 ++ s.surfaces 1).filter (fun h => s.faultsOn uid h < 2 && n ≤ (s.ring h).usable)
  match fit.find? (fun h => n ≤ (s.ring h).free) with
  | some h =>
    let s := (s.setRing h (Ring.lay uid c.units (s.ring h))).checkLow h
    s.setCopy { c with surface := some h }
  | none => if fit.isEmpty then s.setCopy { c with failed := true } else s

/-- `LANDING_COPY_WRITTEN` for a copy held for the lead, named by its stream (R352). -/
def State.remoteWritten (s : State) (src : Src) (h fault : Nat) : State :=
  match s.red.remote.find? (fun c => c.stream = src.stream && c.surface = some h && !c.written) with
  | none => s
  | some c =>
    if fault = 0 then (s.lifeAdd 48 (4480 * c.units.length)).setCopy { c with written := true }
    else
      let uid := copyUid c.stream c.seq
      let s := s.writeFault fault h 0xFFFFFFFF
      let s := s.setDisk { s.disk with copyFaults := s.disk.copyFaults ++ [(uid, h)] }
      let s := s.setRing h ((s.ring h).release (fun p => p.uid = uid))
      let c := { c with surface := none }
      (s.setCopy c).placeRemote c

/-- `LANDING_COPY_WRITTEN`: the last fragment of a copy is laid down, or a write fault of row `fault` of Table 09-8 ends
it: the copy is then written again, on the same surface after the first fault and on another after the second
(R218, R219). In a group the copy is one held for the lead. -/
def execLandingCopyWritten (src : Src) (surface : BitVec 5) (fault : BitVec 3) (s : State) :
    Host.Outcome State Fault Refusal :=
  let h := surface.toNat
  if s.inGroup then .next (s.remoteWritten src h fault.toNat)
  else
    match s.cmdOf src with
    | none => .next s
    | some c =>
      if c.stage != .started || !c.copies.any (fun l => l.place = h && !l.written) then .next s
      else if fault = 0#3 then
        let s := s.lifeAdd 48 (4480 * c.units.length)
        .next (s.setCmd { c with copies := c.copies.map (fun l =>
          if l.place = h then { l with written := true } else l) })
      else
        let s := s.writeFault fault.toNat h 0xFFFFFFFF
        let s := s.setDisk { s.disk with copyFaults := s.disk.copyFaults ++ [(c.uid, h)] }
        let s := s.setRing h ((s.ring h).release (fun p => p.uid = c.uid))
        let s := s.setCmd { c with copies := c.copies.filter (fun l => l.place != h) }
        .next (s.recopy c.uid)

/-- `LANDING_SPACE_FREED`: positions have been released and a command that waited for landing space starts its landing
write (R220). -/
def execLandingSpaceFreed (src : Src) (s : State) : Host.Outcome State Fault Refusal :=
  match s.cmdOf src with
  | some c =>
    if c.waits = 2 then .next (if c.copies.isEmpty then s.startLanding c else s.recopy c.uid) else .next s
  | none => .next s

/-! ## Zones (R207, R226, R229, R233) -/

/-- Zone states of Table 05-11. -/
def zEmpty : Nat := 0
def zFilling : Nat := 1
def zFull : Nat := 2
def zCleaning : Nat := 3
def zOffline : Nat := 4

/-- Usable positions and data positions of a zone (R207). -/
def zonePositions : Nat := 66048
def zoneData : Nat := 65536

/-- The positions over which a zone lies: its 66,048 usable ones and the primary defects among them. Grown defects take
reserve positions (R207, R228, R229). -/
def Zone.extent (z : Zone) : Nat := zonePositions + z.primary.length

/-- The write pointer as the zone table and ZONE_INFO give it, from 0 to 66,048: primary defects are not counted (R207,
Table 09-10). -/
def Zone.written (z : Zone) : Nat := z.wp - z.primary.countP (fun p => p < z.wp)

/-- A zone by its index. -/
def State.zone (s : State) (z : Nat) : Zone := Store.get Zone.init s.disk.zones z

/-- A zone replaced. -/
def State.setZone (s : State) (z : Nat) (v : Zone) : State :=
  s.setDisk { s.disk with zones := Store.put Zone.init s.disk.zones z v }

/-- The surface of a zone (R207). -/
def State.zoneSurface (s : State) (z : Nat) : Nat := z / s.disk.zonesPerSurface

/-- The device rewrites the zone table: what it records of heads, actuators and zones, under the next ZT_SEQ (R233). -/
def State.rewriteTable (s : State) : State :=
  s.setDisk { s.disk with
    ztSeq := s.disk.ztSeq + 1
    ztFailed := s.rd F.FMT_HEAD_FAILED_HEADS + s.rd F.FMT_HEAD_FAILED_ACTUATORS * 2 ^ 24
    ztZones := s.disk.zones.map (fun p => (p.1, (p.2.written, p.2.life, p.2.state))) }

/-- The units that the map places in a zone, in ascending position order. -/
def State.liveIn (s : State) (z : Nat) : List Nat :=
  ((s.zone z).content.filter (fun p => (s.unit p.2).place = .zone z p.1)).map (fun p => p.2)

/-- Zones in state EMPTY, and zones in service. -/
def State.freeZones (s : State) : Nat :=
  s.disk.zoneCount - s.disk.zones.countP (fun p => p.1 < s.disk.zoneCount && p.2.state != zEmpty)
def State.liveZones (s : State) : Nat :=
  s.disk.zoneCount - s.disk.zones.countP (fun p => p.1 < s.disk.zoneCount && p.2.state = zOffline)

/-- Cleaning of a zone begins: its live data joins the destage path in ascending position order (R230, R231). -/
def State.startClean (s : State) (z : Nat) : State :=
  let live := s.liveIn z
  let s := s.setZone z { s.zone z with state := zCleaning }
  let c : Clean := { zone := z, relocated := 0, lastMove := s.sq.nextAdmit }
  let s := s.setDisk { s.disk with cleaning := s.disk.cleaning ++ [c]
                                   destage := s.disk.destage ++ live.filter (fun u => !s.disk.destage.contains u) }
  s.rewriteTable

/-- The FULL zone with the least live data, the lowest index on a tie (R230). -/
def State.leastLive (s : State) : Option Nat :=
  (s.disk.zones.filter (fun p => p.2.state = zFull)).foldl (fun m p =>
    match m with
    | none => some p.1
    | some z => if (s.liveIn p.1).length < (s.liveIn z).length then some p.1 else some z) none

/-- Select a zone to clean when none is being cleaned: a retired one first, then by the thresholds (R229, R230). -/
def State.pickClean (s : State) : State :=
  if !s.disk.cleaning.isEmpty || s.medium.state != mReady || s.paused then s
  else
    match s.disk.zones.find? (fun p => p.2.state = zFull && p.2.retire) with
    | some p => s.startClean p.1
    | none =>
      let free := s.freeZones * 100
      let all := s.liveZones
      let on := if free < s.rd F.FMT_DZ_CLEAN_LOW_PCT * all then true
        else if s.rd F.FMT_DZ_CLEAN_HIGH_PCT * all ≤ free then false else s.disk.cleanOn
      let s := s.setDisk { s.disk with cleanOn := on }
      match (if on then s.leastLive else none) with
      | some z => s.startClean z
      | none => s

/-- A zone has changed state: the zone table records it, and cleaning may begin. -/
def State.zoneChanged (s : State) : State := s.rewriteTable.pickClean

/-- The started ZONE_CLEAN commands of a zone. -/
def State.cleanCmds (s : State) (z : Nat) : List Cmd := (s.mediaCmds 4).filter (fun c => c.frame.offset = z)

/-- Add a grown defect to a zone; past its 512 reserve positions the zone is retired (R228, R229). -/
def State.addGrown (s : State) (z pos : Nat) : State :=
  let v := s.zone z
  let v := { v with grown := if v.grown.contains pos then v.grown else v.grown ++ [pos] }
  let retire := decide (512 < v.grown.length) && !v.retire
  let s := s.setZone z { v with retire := v.retire || retire }
  let s := s.rewriteTable
  if retire then ((s.wr F.FMT_D_ERR_STATUS_ZONE_RETIRED 1).raise 7 0 0x306 z).pickClean else s

/-- A zone is being cleaned no more. -/
def State.dropClean (s : State) (z : Nat) : State :=
  s.setDisk { s.disk with cleaning := s.disk.cleaning.filter (fun c => c.zone != z) }

/-- The cleaning of a zone stops for want of space: the zone is FULL again with its remaining live data (R231). -/
def State.stopOne (s : State) (e : Clean) : State :=
  let z := e.zone
  let live := s.liveIn z
  let s := s.setZone z { s.zone z with state := zFull }
  let s := (s.dropClean z).setDisk { (s.dropClean z).disk with
    cleanOn := false, destage := s.disk.destage.filter (fun u => !live.contains u) }
  (s.cleanCmds z).foldl (fun s c => s.finish c stMediaFull e.relocated 0) s.rewriteTable

/-- Cleaning stops for want of space (R231). -/
def State.stopClean (s : State) : State := s.disk.cleaning.foldl State.stopOne s

/-- `ZONE_RESET`: every position of the zone being cleaned has been relocated or is no longer live, and every GET
admitted before the last map move has completed: LIFE increments and the zone becomes EMPTY, or OFFLINE when it is
retired; the ZONE_CLEAN commands that wait for it complete, with ZONE_OFFLINE for a retired zone, which never becomes
EMPTY (R229, R231; log entry 71). -/
def execZoneReset (zone : BitVec 20) (s : State) : Host.Outcome State Fault Refusal :=
  let z := zone.toNat
  match s.disk.cleaning.find? (fun e => e.zone = z) with
  | none => .next s
  | some e =>
  let gets := s.sq.cmds.any (fun c => c.frame.opcode = 0x10 && c.stage.isAdmitted && c.admitNo < e.lastMove)
  if s.medium.state != mReady || !(s.liveIn z).isEmpty || gets then .next s
  else
    let v := s.zone z
    let s := s.setZone z { v with
      state := if v.retire then zOffline else zEmpty
      wp := 0, life := (v.life + 1) % 256, content := [], tracks := [], readBack := 0 }
    let s := (s.dropClean z).inc F.FMT_ZONES_CLEANED_COUNT
    let s := (s.cleanCmds z).foldl (fun s c =>
      if v.retire then s.conflict c 0x0D 4 zOffline else s.finish c stSuccess e.relocated 0) s
    .next s.zoneChanged

/-- `ZONE_TABLE_PERIODIC`: the zone table records the write pointer and LIFE of the FILLING zones (R226). -/
def execZoneTablePeriodic (s : State) : Host.Outcome State Fault Refusal :=
  .next (if s.dMode && s.medium.state = mReady && s.disk.formatted then s.rewriteTable else s)

/-! ## Destage and read-back (R221 to R225) -/

/-- The zone that destage fills on a surface: its FILLING zone, or its first EMPTY one. -/
def State.fillZone (s : State) (h : Nat) : Option Nat :=
  let zs := (List.range s.disk.zonesPerSurface).map (fun i => h * s.disk.zonesPerSurface + i)
  match s.disk.zones.find? (fun p => p.2.state = zFilling && s.zoneSurface p.1 = h) with
  | some p => some p.1
  | none => zs.find? (fun z => (s.zone z).state = zEmpty && z < s.disk.zoneCount)

/-- Some surface in service has a zone that destage can fill. -/
def State.anySpace (s : State) : Bool :=
  (List.range s.disk.heads).any (fun h => s.surfOk h && (s.fillZone h).isSome)

/-- Lay units over up to `n` positions of a zone from its write pointer; a defective position takes an EMPTY unit. -/
def layZone : Nat → Zone → List Nat → Zone × List Nat
  | 0, z, us => (z, us)
  | n + 1, z, us =>
    match us with
    | [] => (z, us)
    | u :: t =>
      if z.extent ≤ z.wp || zoneData ≤ z.content.length then (z, us)
      else if z.primary.contains z.wp || z.grown.contains z.wp then layZone n { z with wp := z.wp + 1 } us
      else layZone n { z with wp := z.wp + 1, content := Store.ins z.wp u z.content } t

/-- The track a zone's destage stands on: its number within the zone and its first position. A track that holds fewer
positions than its length goes on. -/
def State.openTrack (s : State) (h : Nat) (z : Zone) : Nat × Nat :=
  let n := z.tracks.length
  match z.tracks.getLast? with
  | none => (0, z.wp)
  | some (a, b) => if b - a < s.trackLen h (z.track + (n - 1)) then (n - 1, a) else (n, z.wp)

/-- Queue the tracks of a zone that are due for read-back: those before number `upTo`. -/
def State.dueReadBack (s : State) (z upTo : Nat) : State :=
  let v := s.zone z
  let ts := (v.tracks.take upTo).drop v.readBack
  let new := (ts.map (fun t => (v.content.filter (fun p => t.1 ≤ p.1 && p.1 < t.2)).map (fun p =>
    ReadBack.mk z p.1 p.2))).flatten
  let s := s.setDisk { s.disk with readBacks := s.disk.readBacks ++ new }
  s.setZone z { v with readBack := Nat.max v.readBack upTo }

/-- `DESTAGE_TRACK_WRITTEN`: destage writes the next track of the surface's FILLING zone from the front of the destage
queue; the previous track becomes due for read-back. A write fault of row `fault` ends the track after `written`
positions, and the rest of it stays unused (R221, R223, R225). A track that the queue does not fill goes on with the
next data. -/
def execDestageTrackWritten (surface : BitVec 5) (fault : BitVec 3) (written : BitVec 12) (s : State) :
    Host.Outcome State Fault Refusal :=
  let h := surface.toNat
  if !s.dMode || !(s.medium.state = mReady || s.medium.state = mStopping) || !s.surfOk h || s.disk.destage.isEmpty ||
      s.paused then
    .next s
  else
    match s.fillZone h with
    | none => .next (if s.anySpace then s else s.stopClean)
    | some z =>
      let v := s.zone z
      let opened := v.state = zEmpty
      let (k, a) := s.openTrack h v
      let n := s.trackLen h (v.track + k)
      let room := a + n - v.wp
      let (w, left) := layZone (if fault = 0#3 then room else Nat.min room written.toNat) v s.disk.destage
      let w := if fault = 0#3 then w else { w with wp := Nat.min v.extent (a + n) }
      let ended := decide (a + n ≤ w.wp)
      let ahead := (w.primary ++ w.grown).countP (fun p => w.wp ≤ p)
      let full := decide (v.extent ≤ w.wp) || decide (zoneData ≤ w.content.length) ||
        (fault != 0#3 && decide (w.content.length + (v.extent - w.wp - ahead) < zoneData))
      let w := { w with
        state := if full then zFull else zFilling
        tracks := w.tracks.take k ++ [(a, w.wp)] }
      let sent := s.disk.destage.length - left.length
      let s := (s.setZone z w).setDisk { (s.setZone z w).disk with destage := left }
      let s := s.lifeAdd 48 (4480 * sent)
      let s := if fault = 0#3 then s else s.writeFault fault.toNat h z
      let s := if full then s.dueReadBack z w.tracks.length
        else if ended then s.dueReadBack z (w.tracks.length - 1) else s
      .next (if opened || full then s.zoneChanged else s)

/-- The track of a zone that holds a position: its first position and the one after its last. -/
def Zone.trackOf (z : Zone) (pos : Nat) : Nat × Nat := (z.tracks.find? (fun t => t.1 ≤ pos && pos < t.2)).getD (0, 0)

/-- Once no position of a track waits for its read-back, the landing copies of the data the map has moved there are
released (R34, R223). -/
def State.releaseTrack (s : State) (z pos : Nat) : State :=
  let t := (s.zone z).trackOf pos
  if s.disk.readBacks.any (fun r => r.zone = z && t.1 ≤ r.pos && r.pos < t.2) then s
  else
    let ids := ((s.zone z).content.filter (fun p => t.1 ≤ p.1 && p.1 < t.2 &&
      (s.unit p.2).place = .zone z p.1)).map (fun p => p.2)
    s.releaseLanding (fun p => ids.contains p.unit)

/-- A position passes read-back: the map moves to it, a reallocation that it ends is counted and the old position
becomes a grown defect, and landing copies may be released (R222 to R224, R228). -/
def State.passReadBack (s : State) (z pos : Nat) : State :=
  match s.disk.readBacks.find? (fun r => r.zone = z && r.pos = pos) with
  | none => s
  | some r =>
    let s := s.setDisk { s.disk with readBacks := dropFirst (fun e => e = r) s.disk.readBacks }
    let u := s.unit r.unit
    let known := s.obj.units.any (fun p => p.1 = r.unit)
    let from' := match u.place with
      | .zone a _ => some a
      | _ => none
    let s := if known then s.setUnit r.unit { u with place := .zone z pos } else s
    let s := s.setDisk { s.disk with cleaning := s.disk.cleaning.map (fun e =>
      if from' = some e.zone then { e with relocated := e.relocated + 4096, lastMove := s.sq.nextAdmit } else e) }
    let old := s.disk.redo.filter (fun e => e.1 = r.unit)
    let s := s.setDisk { s.disk with redo := s.disk.redo.filter (fun e => e.1 != r.unit) }
    let s := old.foldl (fun s e => ((s.inc F.FMT_REALLOCS_COUNT).lifeAdd 80 1).addGrown e.2.1 e.2.2) s
    s.releaseTrack z pos

/-- The data of a position is to be written again at the destage write pointer (R224, R228). -/
def State.reallocate (s : State) (unit z pos : Nat) : State :=
  if s.disk.redo.any (fun e => e.1 = unit) && s.disk.destage.contains unit then s
  else s.setDisk { s.disk with redo := s.disk.redo ++ [(unit, z, pos)]
                               destage := unit :: s.disk.destage.filter (fun u => u != unit) }

/-- A position fails read-back (R224). -/
def State.failReadBack (s : State) (z pos : Nat) : State :=
  match s.disk.readBacks.find? (fun r => r.zone = z && r.pos = pos) with
  | none => s
  | some r =>
    let s := s.setDisk { s.disk with readBacks := dropFirst (fun e => e = r) s.disk.readBacks }
    let s := (s.inc F.FMT_READBACK_FAIL_COUNT).wr F.FMT_D_ERR_STATUS_READBACK 1
    let s := s.raise 7 (s.zoneSurface z) 0x305 (z + pos * 2 ^ 32)
    let s := if s.obj.units.any (fun p => p.1 = r.unit) then s.reallocate r.unit z pos else s
    s.releaseTrack z pos

/-! ## Reads that fail (R227 to R229) -/

/-- A landing copy of a unit that can still be read, on a surface other than `h`. -/
def State.otherCopy (s : State) (u h : Nat) : Option (Nat × Nat) :=
  (s.disk.rings.filterMap (fun p =>
    if p.1 = h || !s.surfOk p.1 then none
    else (p.2.held.find? (fun e => e.unit = u && !e.released)).map (fun e => (p.1, e.pos)))).head?

/-- The unit that the map places at a zone position. -/
def State.unitAt (s : State) (z pos : Nat) : Option Nat :=
  ((s.zone z).content.find? (fun p => p.1 = pos && (s.unit p.2).place = .zone z pos)).map (fun p => p.2)

/-- A read of a zone position ended: recovered at a step of the retry ladder, which may call for reallocation, or not
recovered at all: then from a landing copy, or the data is lost (R227, R228). In a group reconstruction from the
stripe follows, so nothing is lost here. -/
def State.zoneRead (s : State) (z pos step : Nat) (recovered : Bool) : State :=
  match s.unitAt z pos with
  | none => s
  | some u =>
    if recovered then (if s.rd F.FMT_DZ_CFG_REALLOC_STEP ≤ step then s.reallocate u z pos else s)
    else if (s.otherCopy u 24).isSome then s.reallocate u z pos
    else if s.inGroup then s
    else s.loseUnits [u] 2

/-- A read of a landing position failed: the position joins its ring's defect list; the other copy gives the data, or
it is lost (R227, R229). -/
def State.landingRead (s : State) (h pos : Nat) (recovered : Bool) : State :=
  if recovered then s
  else
    let r := s.ring h
    match r.held.find? (fun e => e.pos = pos && !e.released) with
    | none => s
    | some e =>
      let s := s.setRing h { r with defects := if r.defects.contains pos then r.defects else r.defects ++ [pos] }
      let s := s.rewriteTable
      match (s.unit e.unit).place, s.otherCopy e.unit h with
      | .landing _ _, some (g, p) => s.setUnit e.unit { s.unit e.unit with place := .landing g p }
      | .landing _ _, none => if s.inGroup then s else s.loseUnits [e.unit] 3
      | _, _ => s

/-! ## Lost surfaces (R204, R205, R232) -/

/-- In solo, what happens to committed data when a surface is lost: data whose other landing copy is now the only one
is destaged first, data destaged there is destaged again from landing copies, the rest is lost. Landing copies that the loss of
the other actuator had left on one alone are the two-failure case (R31, R205 steps 2 to 4, Tables 02-4 and 02-5). -/
def State.lostData (s : State) (h : Nat) : State :=
  let onIt := s.obj.units.filter (fun p => match p.2.place with
    | .landing g _ => decide (g = h)
    | .zone z _ => decide (s.zoneSurface z = h)
    | _ => false)
  let ringUnits := (s.ring h).held.filterMap (fun e => if e.released then none else some e.unit)
  let s := s.setRing h { s.ring h with held := [] }
  let saved := onIt.filter (fun p => (s.otherCopy p.1 h).isSome)
  let gone := onIt.filter (fun p => (s.otherCopy p.1 h).isNone)
  let s := saved.foldl (fun s p =>
    match s.otherCopy p.1 h with
    | some (g, q) => s.setUnit p.1 { p.2 with place := .landing g q }
    | none => s) s
  let only := (saved.map (fun p => p.1)) ++ ringUnits.filter (fun u =>
    match (s.unit u).place with
    | .landing _ _ => !saved.any (fun p => p.1 = u)
    | _ => false)
  let only := only.filter (fun u => s.obj.liveUnits.contains u)
  let s := s.setDisk { s.disk with destage := only ++ s.disk.destage.filter (fun u => !only.contains u) }
  let goneLand := gone.filter (fun p => match p.2.place with
    | .landing _ _ => true
    | _ => false)
  let goneZone := gone.filter (fun p => match p.2.place with
    | .landing _ _ => false
    | _ => true)
  let two := (s.surfaces (1 - s.actOf h)).isEmpty
  (s.loseUnits (goneLand.map (fun p => p.1)) (if two then 5 else 3)).loseUnits (goneZone.map (fun p => p.1)) 2

/-- The cleaning of a zone on a lost surface ends, and so does a ZONE_CLEAN that waits for it (R232). -/
def State.endClean (s : State) (h : Nat) : State :=
  (s.disk.cleaning.filter (fun e => s.zoneSurface e.zone = h)).foldl (fun s e =>
    let s := s.dropClean e.zone
    (s.cleanCmds e.zone).foldl (fun s c => s.conflict c 0x0D 4 zOffline) s) s

/-- Data laid on a surface that has not passed its read-back there, so that the map still points to a landing copy or to a
zone that is being cleaned elsewhere: it is destaged again (R205 step 3, R231). -/
def State.pendingOn (s : State) (h : Nat) : List Nat :=
  let laid := (s.disk.zones.filter (fun p => s.zoneSurface p.1 = h)).map (fun p => p.2.content.map (fun e => e.2))
  (laid.flatten.eraseDups).filter (fun u => s.obj.units.any (fun p => p.1 = u) && (match (s.unit u).place with
    | .landing g _ => decide (g != h)
    | .zone z _ => decide (s.zoneSurface z != h) && s.disk.cleaning.any (fun e => e.zone = z)
    | _ => false))

/-- A surface is lost: its zones go OFFLINE, a ZONE_CLEAN that waits for one of them ends, copies in flight there are
written again, and committed data is treated as R205 states; in a group the group rebuilds it. -/
def State.loseSurface (s : State) (h : Nat) : State :=
  let zs := (List.range s.disk.zonesPerSurface).map (fun i => h * s.disk.zonesPerSurface + i)
  let s := zs.foldl (fun s z => if (s.zone z).state = zOffline then s
    else s.setZone z { s.zone z with state := zOffline }) s
  let s := s.setDisk { s.disk with readBacks := s.disk.readBacks.filter (fun r => s.zoneSurface r.zone != h) }
  let again := s.pendingOn h
  let s := s.endClean h
  let flying := (s.sq.cmds.filter (fun c => c.stage = .started && !s.inGroup && c.copies.any (fun l => l.place = h)))
  let s := if s.inGroup then s else s.lostData h
  let again := again.filter (fun u => !s.disk.destage.contains u && !(s.unit u).lost)
  let s := s.setDisk { s.disk with destage := s.disk.destage ++ again }
  let s := flying.foldl (fun s c => (s.setCmd { c with copies := c.copies.filter (fun l => l.place != h) }).recopy c.uid) s
  s.zoneChanged

/-- An actuator fails: every one of its surfaces is lost (Table 09-2; causes 1 driver, 2 reload, 3 all heads). -/
def State.failActuator (s : State) (a cause : Nat) : State :=
  if bitAt (s.rd F.FMT_HEAD_FAILED_ACTUATORS) a then s
  else
    let hs := s.surfaces a
    let s := (s.raiseBit F.FMT_HEAD_FAILED_ACTUATORS a).wr F.FMT_D_ERR_STATUS_HEAD_FAIL 1
    let s := s.raise 7 0 0x302 (a + cause * 2)
    hs.foldl State.loseSurface s

/-- A head fails: its surface is lost, and with the last head of an actuator the actuator fails (Table 09-2; causes
1 preamp, 2 servo, 3 reads). -/
def State.failHead (s : State) (h cause : Nat) : State :=
  if s.disk.heads ≤ h || !s.headOk h then s
  else
    let s := (s.raiseBit F.FMT_HEAD_FAILED_HEADS h).wr F.FMT_D_ERR_STATUS_HEAD_FAIL 1
    let s := (s.raise 7 h 0x301 cause).loseSurface h
    let a := s.actOf h
    if (List.range s.disk.heads).all (fun g => s.actOf g != a || !s.headOk g) then s.failActuator a 3 else s

/-- A sector read on a head ended the retry ladder with or without recovery: 16 in a row without, on at least 4 distinct
tracks, fail the head (R204). -/
def State.headRead (s : State) (h track : Nat) (recovered : Bool) : State :=
  if recovered then s.setDisk { s.disk with badReads := Store.put [] s.disk.badReads h [] }
  else
    let l := (track :: Store.get [] s.disk.badReads h).take 16
    let s := s.setDisk { s.disk with badReads := Store.put [] s.disk.badReads h l }
    if l.length = 16 && 4 ≤ l.eraseDups.length then s.failHead h 3 else s

/-- A servo acquisition on a head: the third failure in a row fails the head (R204). -/
def State.headAcquire (s : State) (h : Nat) (ok : Bool) : State :=
  if ok then s.setDisk { s.disk with acqFails := Store.put 0 s.disk.acqFails h 0 }
  else
    let n := Store.get 0 s.disk.acqFails h + 1
    let s := s.setDisk { s.disk with acqFails := Store.put 0 s.disk.acqFails h n }
    if 3 ≤ n then s.failHead h 2 else s

/-! ## Start of the disk (R226, R233) -/

/-- The data that still has to be destaged: committed units that lie in landing rings. -/
def State.toDestage (s : State) : List Nat :=
  s.obj.liveUnits.filter (fun u => match (s.unit u).place with
    | .landing _ _ => !s.disk.readBacks.any (fun r => r.unit = u)
    | _ => false)

/-- The scan of a zone recorded as FILLING: a write pointer that had moved on is corrected, and the last two written
tracks are read back (R226). -/
def State.scanZone (s : State) (z : Nat) : State :=
  let v := s.zone z
  let recd := (Store.get (0, 0, 0) s.disk.ztZones z).1
  let s := if recd != v.written then s.raise 7 0 0x308 z else s
  let s := s.setZone z { v with readBack := v.tracks.length - 2 }
  s.dueReadBack z v.tracks.length

/-- The zone table keeps the limits of R207 and R208: at most 953,674 zones, and in each band at most 4.2 Gb/s and D from
36,320 bits up to the wedge period in channel bits, 1/76,800 s, less 2,048 bits. -/
def State.tableValid (s : State) : Bool :=
  s.disk.zoneCount ≤ 953674 && s.disk.bands.all (fun b =>
    decide (b.rate ≤ 4200000) && decide (36320 ≤ b.d) && decide ((b.d + 2048) * 768 ≤ b.rate * 10))

/-- At speed the device reads the zone table of the lowest-numbered surface in service of each actuator; `ok0` and `ok1`
say which copies pass their checks, to which the limits of the table itself are added. With a valid one the medium is READY, FILLING zones are scanned and cleaning goes
on; without one it is UNFORMATTED (R226, R231, R233). -/
def State.diskLoad (s : State) (ok0 ok1 : Bool) : State :=
  let ok0 := ok0 && s.tableValid
  let ok1 := ok1 && s.tableValid
  let bad := s.disk.formatted && ((!ok0 && !(s.surfaces 0).isEmpty) || (!ok1 && !(s.surfaces 1).isEmpty))
  let s := if bad then s.wr F.FMT_D_ERR_STATUS_ZT_INVALID 1 else s
  let found := s.disk.formatted && ((ok0 && !(s.surfaces 0).isEmpty) || (ok1 && !(s.surfaces 1).isEmpty))
  if !found then s.startReached mUnformatted
  else
    let s := s.setDisk { s.disk with ztRead := true, ztSeen := s.disk.ztZones }
    let s := s.wr F.FMT_HEAD_FAILED_HEADS (s.rd F.FMT_HEAD_FAILED_HEADS ||| bits s.disk.ztFailed 0 24)
    let s := s.wr F.FMT_HEAD_FAILED_ACTUATORS (s.rd F.FMT_HEAD_FAILED_ACTUATORS ||| bits s.disk.ztFailed 24 2)
    let s := ((s.disk.zones.filter (fun p => p.2.state = zFilling)).map (fun p => p.1)).foldl State.scanZone s
    let s := s.setDisk { s.disk with destage := s.toDestage }
    let s := ((s.disk.zones.filter (fun p => p.2.state = zCleaning)).map (fun p => p.1)).foldl State.startClean s
    s.startReached mReady

/-! ## Capacity (Table 05-10) -/

/-- Bytes of user fields that the medium in service holds; for a tape the spec gives no formula (Config.tapeCapacity). -/
def State.capacity (s : State) : Nat :=
  if s.tMode then
    match s.tape.header with
    | some h => (Config.tapeCapacity h.wraps h.lposBegin h.lposEnd).toNat
    | none => 0
  else s.liveZones * zoneData * 4096

/-- Bytes that are not free: on a disk those of the units in use, on a tape those of the data sets numbered. -/
def State.bytesTaken (s : State) : Nat :=
  if s.tMode then s.rd F.FMT_DS_NEXT_DS_NUM * 176 * 4096 else s.bytesInUse

end Sys2Proof.Machine
end

