-- ==== Sys2Proof/Machine/Lane.lean ====
section
/-!
DEFINITION. What a lane does with a codeword before Sorrel sees it: interpolated timing recovery with the NCO and the
timing loop, the acquisition phases, the search for marks, and the weighting of the two readers (R236 to R242, R250).
-/

namespace Sys2Proof.Machine

/-! ## The NCO and the timing loop (R237, R238) -/

/-- The nominal increment of a lane: channel rate over sample rate, both in kb/s and kS/s, times 2^32 (R237). -/
def ncoInc (rate sampleRate : Nat) : Nat := rate * 2 ^ 32 / sampleRate

/-- Add the increment until the NCO overflows: the remainder after the overflow, and the samples it took. -/
def ncoRun : Nat → Nat → Nat → Nat → Nat × Nat
  | 0, _, nco, n => (nco, n)
  | fuel + 1, inc, nco, n =>
    if 2 ^ 32 ≤ nco + inc then (nco + inc - 2 ^ 32, n + 1) else ncoRun fuel inc (nco + inc) (n + 1)

/-- The interpolator phase that a remainder selects: its 6 most significant bits. -/
def interpPhase (nco : Nat) : Nat := nco / 2 ^ 26

/-- The frequency range of the timing loop, 2 % of nominal, in 2^-32 of nominal. -/
def freqLimit : Int := 2 ^ 32 / 50

/-- The timing loop of a lane: the NCO, the integral branch in 2^-32 of the nominal increment, and the channel bit at which
a frequency limit was first reached. -/
structure LoopSt where
  nco : Nat
  integ : Int
  limit : Option Nat
  deriving DecidableEq, Repr

/-- One channel bit `i` with the timing error `e` in 2^-16 of a bit: the integral branch gains e × 2^-KI within its limits,
the proportional branch e × 2^-KP, and the NCO runs to its next overflow under the corrected increment. -/
def LoopSt.bit (inc kp ki i : Nat) (l : LoopSt) (e : Int) : LoopSt :=
  let f := l.integ + e * 2 ^ 16 / 2 ^ ki
  let hit := decide (freqLimit ≤ f.natAbs)
  let f := if freqLimit < f then freqLimit else if f < -freqLimit then -freqLimit else f
  let c := f + e * 2 ^ 16 / 2 ^ kp
  let inc' := ((inc : Int) + (inc : Int) * c / 2 ^ 32).toNat
  { nco := (ncoRun 32 inc' l.nco 0).1, integ := f
    limit := match l.limit with
      | some n => some n
      | none => if hit then some i else none }

/-- The loop over the timing errors of a field and what follows it, with the acquisition gains up to the bit at which the
mark is found and the tracking gains from there on (R238). -/
def LoopSt.run (inc : Nat) (acq trk : Nat × Nat) (mark : Nat) : Nat → List Int → LoopSt → LoopSt
  | _, [], l => l
  | i, e :: t, l =>
    let g := if i < mark then acq else trk
    LoopSt.run inc acq trk mark (i + 1) t (l.bit inc g.1 g.2 i e)

/-- Where the phases of Table 10-2 end, in channel bits from the start of the field: gain, phase estimate, and the bit at
which the mark search opens. -/
def acqPhases (tape resync : Bool) : Nat × Nat × Nat :=
  if tape then (128, 256, 448) else if resync then (0, 32, 48) else (32, 64, 112)


/-- The nominal increment that a lane has: from the speed step, or from the band under the head of its channel (R237). -/
def State.nominalInc (s : State) (lane : Nat) : Nat :=
  if lane < 68 then ncoInc (130000 + 26000 * s.rd F.CTL_TM_STATUS_STEP) 600000
  else
    let c := (lane - 68) / 2
    ncoInc (s.bandUnder c).rate 4800000

/-- The first of two positions. -/
def firstDrop : Option Nat → Option Nat → Option Nat
  | some a, some b => some (Nat.min a b)
  | some a, none => some a
  | none, b => b

/-- The equalizer taps after the adaptation of a codeword by least mean squares with step 2^-`mu` (R240). -/
def adaptTaps (mu : Nat) (taps grad : List Int) : List Int :=
  (List.range (Nat.max taps.length grad.length)).map (fun k => (taps[k]?).getD 0 + (grad[k]?).getD 0 / 2 ^ mu)

/-- The number of equalizer taps of a lane (Table 10-1). -/
def tapCount (lane : Nat) : Nat := if lane < 64 then 16 else if lane < 68 then 0 else 24

/-- A lane runs through a codeword: a preamble starts from the nominal frequency and fixes the VGA code, a re-sync field
keeps both and the frequency; the phase estimate sets the NCO; the loop runs; the equalizer adapts with step 2^-FIR_MU
unless ADAPT_EN is 0, `faster` powers of two faster at ladder step 5. The answer is the bit at which lock was dropped
(R237 to R240, Table 10-9). -/
def State.runLane (s : State) (lane faster : Nat) (r : LaneRun) : State × Option Nat :=
  let v := s.lane lane
  let inc := s.nominalInc lane
  let acq := (s.rdi F.LANE_LOOP_ACQ_KP lane, s.rdi F.LANE_LOOP_ACQ_KI lane)
  let trk := (s.rdi F.LANE_LOOP_TRK_KP lane, s.rdi F.LANE_LOOP_TRK_KI lane)
  let start := (acqPhases (decide (lane < 68)) r.vga.isNone).2.1
  let integ := if r.vga.isSome then 0 else v.integ
  let l := LoopSt.run inc acq trk r.mark.toNat start (r.terr.map (fun e => toSigned 16 e.toNat))
    { nco := r.phase.toNat, integ := integ, limit := none }
  let vga := (r.vga.map (fun x => x.toNat)).getD v.vga
  let grad := (r.grad.take (tapCount lane)).map (fun g => toSigned 48 g.toNat)
  let taps := if s.rdi F.LANE_CFG_ADAPT_EN lane = 0 then v.taps
    else adaptTaps (s.rdi F.LANE_CFG_FIR_MU lane - faster) v.taps grad
  let s := s.setLane lane { v with
    nco := l.nco, inc := inc, integ := l.integ, vga := vga, gain := r.gain.toNat, taps := taps }
  let s := (s.wri F.LANE_STATUS_VGA lane vga).wri F.LANE_STATUS_FREQ_OFS lane (ofSigned 16 (l.integ / 2 ^ 16))
  (s.wri F.LANE_STATUS_LOCKED lane 0, firstDrop l.limit (r.eqDrop.map (fun d => d.toNat)))

/-! ## The search for marks (R242, Tables 09-5, 10-3, 10-4) -/

/-- The number of places at which two bit lists differ. -/
def hamming : List Bool → List Bool → Nat
  | x :: a, y :: b => b2n (x != y) + hamming a b
  | _, _ => 0

/-- The position of lowest Hamming distance to a pattern among the sliced bits of a window, and that distance; the
earliest on a tie. -/
def bestMatch (pat : List Bool) : Nat → List Bool → Option (Nat × Nat)
  | _, [] => none
  | i, x :: t =>
    if (x :: t).length < pat.length then none
    else
      let d := hamming pat (x :: t)
      match bestMatch pat (i + 1) t with
      | none => some (i, d)
      | some (j, e) => if e < d then some (j, e) else some (i, d)

/-- A mark's offset from its predicted position in a window of ±`win` bits, when it is found within the tolerance. -/
def findMark (pat : List Bool) (tol win : Nat) (bits : List Bool) : Option Int :=
  match bestMatch pat 0 (bits.take (2 * win + pat.length)) with
  | some (i, d) => if d ≤ tol then some ((i : Int) - (win : Int)) else none
  | none => none

/-- Sync marks A and B and the fragment mark of a disk sector (Table 09-5). -/
def markA : List Bool := natBits 48 0x9C3E4D71A2B5
def markB : List Bool := natBits 48 0x4B7A18E6D3C9
def fragMark : List Bool := natBits 24 0xE53B9A


/-- The framing of a tape frame by its one mark (R242). -/
def State.tapeMark (s : State) (m : MarkScan) : Framing :=
  match findMark syncMark (s.rd F.LANE_SYNC_CFG_TOL_T) (s.rd F.LANE_SYNC_CFG_WIN_T) m.a with
  | some _ => .aOnly
  | none => .neither

/-- The marks of a sector in windows of `wide` times WIN_D (R242, Table 09-7, ladder step 14). -/
def State.diskMarks (s : State) (wide : Nat) (m : MarkScan) : Framing :=
  let win := wide * s.rd F.LANE_SYNC_CFG_WIN_D
  let tol := s.rd F.LANE_SYNC_CFG_TOL_D
  match findMark markA tol win m.a, findMark markB tol win m.b with
  | some x, some y => .both (BitVec.ofInt 16 (y - x)) (x.natAbs ≤ 4) (y.natAbs ≤ 4)
  | some _, none => .aOnly
  | none, some _ => .bOnly m.replayed
  | none, none => .neither

/-- The fragment mark of a continuation is not found within ±4 bits (R216). -/
def State.fragMissed (s : State) (m : MarkScan) : Bool :=
  match m.frag with
  | none => false
  | some l => (findMark fragMark (s.rd F.LANE_SYNC_CFG_TOL_F) 4 l).isNone

/-! ## Two heads of an actuator (R297) -/

/-- The head-offset table at a track, interpolated linearly, in tracks with 16 fraction bits (R297). -/
def State.headOfs (s : State) (h : Nat) (track : Int) : Int :=
  let n := Nat.max 1 Config.strokeTracks.toNat
  let x := Nat.min (63 * 65536) (track.toNat * 63 * 65536 / n)
  let i := x / 65536
  let f : Int := (x % 65536 : Nat)
  let t := fun j => toSigned 32 (s.fget F.CTL_HEAD_OFS_ENTRY h (Nat.min 63 j))
  t i + (t (i + 1) - t i) * f / 65536

/-- The head-pair residual of a second head in 1/1024 of the track pitch (R297). -/
def State.pairResidual (s : State) (servo second : Nat) (track : Int) : Int :=
  let d := s.headOfs second track - s.headOfs servo track
  let near := (d + 32768) / 65536
  (d - near * 65536) * 1024 / 65536

/-- The servo head of an actuator. -/
def State.servoHead (s : State) (a : Nat) : Nat :=
  if a = 0 then s.rd F.CTL_DK_STATUS_SERVO0 else s.rd F.CTL_DK_STATUS_SERVO1

/-- An actuator's servo. -/
def State.act (s : State) (a : Nat) : ActSt := Store.get ActSt.init s.ctl.acts a
def State.setAct (s : State) (a : Nat) (v : ActSt) : State :=
  { s with ctl := { s.ctl with acts := Store.put ActSt.init s.ctl.acts a v } }

/-! ## The two readers (R250) -/

/-- A sample formed from the two readers with weight `w` ÷ 128 for reader 0 and the rest for reader 1. -/
def combineSample (w : Nat) (r0 r1 : Int) : Int := ((w : Int) * r0 + (128 - (w : Int)) * r1) / 128

/-- The weight with which Sorrel loads a codeword: COMBINE of the even lane of the pair, reader 0 alone at ladder step 2,
reader 1 alone at step 3; a tape lane is alone (R250, Table 10-9). -/
def State.readerWeight (s : State) (lane step : Nat) : Nat :=
  if lane < 68 then 128
  else if step = 2 then 128
  else if step = 3 then 0
  else s.rdi F.LANE_CFG_COMBINE (lane - lane % 2)

end Sys2Proof.Machine
end

