-- ==== Sys2Proof/Machine/FieldBits.lean ====
section
/-!
DEFINITION. What lies recorded on disk: the payload and the bits of a sector, the bits of a data field with its
fragments, and the delayed transitions (R209 to R213, R270).
-/

namespace Sys2Proof.Machine

/-- The payload of a disk sector: byte 3 of the unit header is LIFE (R211). -/
def UnitRec.diskPayload (u : UnitRec) (life : Nat) : List Byte :=
  let h := u.header
  h.take 3 ++ leBytes 1 life ++ h.drop 4 ++ padTo 4096 u.user

/-- The 36,096 sector bits (Table 09-4). -/
def sectorBits (payload : List Byte) : List Bool :=
  let c := l1Encode payload
  tone 128 ++ markA ++ c.take 17920 ++ markB ++ c.drop 17920 ++ tone 32

/-- The re-sync field and the fragment mark before a continuation. -/
def resyncBits : List Bool := tone 64 ++ fragMark

/-- The bits of one sector position that lie in field `f`, and whether any do: its first fragment, or its continuation
with what precedes it; none for each bit of a sector that the write does not own. -/
def segmentBits (f : Nat) (own : Option (List Bool)) (p : Placement) : List (Option Bool) :=
  let all := match own with
    | some b => b.map some
    | none => List.replicate 36096 none
  if p.field = f then all.take p.first
  else if p.cont = some f then
    (if own.isSome then resyncBits.map some else List.replicate 88 none) ++ all.drop p.first
  else []

/-- The bits of data field `f` of a track with data field length `d`, one for each position: those of the sectors that lie
in it in the order of placement, then the pad, which belongs to the write that owns the last of them. `own` gives the
bits of a sector position that the write owns (R213, R270). -/
def fieldBits (d f : Nat) (own : Nat → Option (List Bool)) : List (Option Bool) :=
  let l := (trackSectors d).zipIdx.filter (fun p => p.1.field = f || p.1.cont = some f)
  let b := (l.map (fun p => segmentBits f (own p.2) p.1)).flatten
  let pad := d - b.length
  let mine := match l.getLast? with
    | some p => (own p.2).isSome
    | none => false
  b.take d ++ (if mine then ((tone (pad + 4)).take pad).map some else List.replicate pad none)

/-- The positions whose transition directly follows another transition: `i` is the position of the third bit looked at
(R270). -/
def delayedAt : Nat → List (Option Bool) → List Nat
  | i, some x :: some y :: some z :: t =>
    let r := delayedAt (i + 1) (some y :: some z :: t)
    if x != y && y != z then i :: r else r
  | i, _ :: t => delayedAt (i + 1) t
  | _, [] => []

/-- What a zone holds at a position, or will hold once the destage that is being written is done: the unit laid there, an
EMPTY unit at a defective position (R221, R229). -/
def State.zoneUnit (s : State) (z pos : Nat) : UnitRec :=
  let (v, _) := layZone ((s.zone z).extent - (s.zone z).wp) (s.zone z) s.disk.destage
  match v.content.find? (fun p => p.1 = pos) with
  | some p => s.unit p.2
  | none => UnitRec.empty

/-- LIFE of a landing position: the ring's pass count, or that of the pass before for a position the pass has not reached
yet (R211, R217). -/
def Ring.lifeAt (r : Ring) (pos : Nat) : Nat := if pos < r.next then r.life else (r.life + 255) % 256

/-- The unit that a landing copy has at a position. -/
def State.landUnit (s : State) (h pos : Nat) : UnitRec :=
  match (s.ring h).held.find? (fun e => e.pos = pos) with
  | some e => s.unit e.unit
  | none => UnitRec.empty

/-- The payload that a write records at its `j`-th owned position. -/
def State.writePayload (s : State) (w : FieldWrite) (j : Nat) : List Byte :=
  let pos := w.pos.toNat + j
  match w.zone with
  | some z => (s.zoneUnit z.toNat pos).diskPayload (s.zone z.toNat).life
  | none =>
    let h := w.head.toNat
    (s.landUnit h pos).diskPayload ((s.ring h).lifeAt pos)

/-- The channel bits that a channel records in a field. -/
def State.channelBits (s : State) (f : Nat) (w : FieldWrite) : List (Option Bool) :=
  fieldBits (s.trackD w.head.toNat w.track.toNat) f (fun p =>
    if w.first.toNat ≤ p && p < w.first.toNat + w.count.toNat then
      some (sectorBits (s.writePayload w (p - w.first.toNat)))
    else none)

/-! ## The zone table (R233) -/

/-- The header of the zone table (Table 09-9). -/
def State.ztHeader (s : State) : List Byte :=
  leBytes 4 0x5A545645 ++ leBytes 2 1 ++ leBytes 1 s.disk.heads ++ leBytes 1 0 ++ leBytes 8 s.disk.ztSeq ++
    leBytes 4 s.disk.ztFailed ++ leBytes 4 s.disk.zoneCount ++ leBytes 4 s.disk.bands.length ++
    leBytes 4 ((s.disk.zones.map (fun p => p.2.primary.length + p.2.grown.length)).sum +
      (s.disk.rings.map (fun p => p.2.defects.length)).sum) ++ leBytes 16 s.disk.mediumId

/-- The entry of a band (Table 09-10). -/
def Band.entry (b : Band) : List Byte :=
  leBytes 1 b.surface ++ leBytes 1 b.band ++ leBytes 4 b.firstTrack ++ leBytes 4 b.rate ++ leBytes 4 b.d ++ leBytes 2 0

/-- The entry of a zone: its write pointer, LIFE and state as last recorded (Table 09-10, R226). -/
def State.zoneEntry (s : State) (z : Nat) : List Byte :=
  let (wp, life, st) := Store.get (0, 0, 0) s.disk.ztZones z
  let v := s.zone z
  leBytes 16 (z + v.track * 2 ^ 32 + wp * 2 ^ 64 + st * 2 ^ 81 + life * 2 ^ 84 + Nat.min 1023 v.grown.length * 2 ^ 92)

/-- The entry of a defect of a zone, or of a landing ring's surface (Table 09-10). -/
def defectEntry (zone pos surface grown : Nat) : List Byte :=
  leBytes 8 (zone + pos * 2 ^ 32 + surface * 2 ^ 49 + grown * 2 ^ 63)

/-- The ZONE_TABLE units of a copy of the zone table: the header, then the band entries, the zone entries and the defect
entries, packed in order; no entry spans two units, since their sizes divide 4,096 (R233). -/
def State.zoneTable (s : State) : List UnitRec :=
  let zs := s.disk.zones.map (fun p => p.2.primary.map (fun d => defectEntry p.1 d 0 0) ++
    p.2.grown.map (fun d => defectEntry p.1 d 0 1))
  let rs := s.disk.rings.map (fun p => p.2.defects.map (fun d =>
    defectEntry 0xFFFFFFFF d p.1 (b2n (!p.2.primary.contains d))))
  let b := (s.disk.bands.map Band.entry ++ (List.range s.disk.zoneCount).map s.zoneEntry ++ (zs ++ rs).flatten).flatten
  (s.ztHeader :: chunks 4096 (b.length / 4096 + 1) b).map (UnitRec.made 8)

/-! ## The identity of a sector (R212) -/

/-- A unit header read from disk agrees with a unit and a LIFE in UNIT_TYPE, KEY, UNIT_INDEX, OBJ_NONCE and LIFE. -/
def headerAgrees (h : List Byte) (u : UnitRec) (life : Nat) : Bool :=
  leAt h 0 1 = u.utype && leAt h 3 1 = life && leAt h 16 16 = u.key &&
    leAt h 44 4 + leAt h 14 2 * 2 ^ 32 = u.index && leAt h 48 8 = u.nonce

/-- The unit that the map, or a read-back, expects at a disk target, with its LIFE; none where nothing is expected. -/
def State.expectedAt (s : State) : Target → Option (UnitRec × Nat)
  | .zone z pos => ((s.zone z).content.find? (fun p => p.1 = pos)).map (fun p => (s.unit p.2, (s.zone z).life))
  | .landing h pos =>
    let r := s.ring h
    (r.held.find? (fun e => e.pos = pos)).map (fun e => (s.unit e.unit, r.lifeAt pos))
  | _ => none

end Sys2Proof.Machine
end

