-- ==== Sys2Proof/Machine/Pac.lean ====
section
/-!
DEFINITION. The preamp control bus: its frames, the settings of the heads, repeats and resets (R271 to R275).
-/

namespace Sys2Proof.Machine

/-- The write path replaced. -/
def State.setWra (s : State) (w : WraSt) : State := { s with wra := w }

/-- An actuator's part of the write path. -/
def State.actWra (s : State) (a : Nat) : ActWra := Store.get ActWra.init s.wra.acts a
def State.setActWra (s : State) (a : Nat) (v : ActWra) : State := s.setWra { s.wra with acts := Store.put ActWra.init s.wra.acts a v }

/-- A disk write channel. -/
def State.chan (s : State) (c : Nat) : ChanWra := Store.get ChanWra.init s.wra.chans c
def State.setChan (s : State) (c : Nat) (v : ChanWra) : State := s.setWra { s.wra with chans := Store.put ChanWra.init s.wra.chans c v }

/-- The channels of an actuator (Table 09-1). -/
def chansOf (a : Nat) : List Nat := [2 * a, 2 * a + 1]

/-! ## The preamp control bus (R271 to R274) -/

/-- A bus frame (Table 11-2). -/
def pacFrame (cmd head ch arg : Nat) : Nat :=
  let v := cmd % 16 * 2 ^ 20 + head % 16 * 2 ^ 16 + ch % 2 * 2 ^ 15 + arg % 2 ^ 15
  let b := [BitVec.ofNat 8 (v / 2 ^ 16), BitVec.ofNat 8 (v / 2 ^ 8), BitVec.ofNat 8 v]
  v * 256 + crc8 b

/-- The CRC-8 of a bus or driver frame checks (R271). -/
def frameOk (f : Nat) : Bool :=
  crc8 [BitVec.ofNat 8 (f / 2 ^ 24), BitVec.ofNat 8 (f / 2 ^ 16), BitVec.ofNat 8 (f / 2 ^ 8)] = f % 256

/-- The head's number on its actuator (Table 11-2). -/
def State.headOnAct (s : State) (h : Nat) : Nat := if s.actOf h = 0 then h else h - s.disk.heads / 2

/-- Send a command frame on an actuator's bus. -/
def State.sendPac (s : State) (a cmd head ch arg : Nat) : State :=
  let f := pacFrame cmd head ch arg
  (s.setActWra a { s.actWra a with lastFrame := f }).emit (.pac a f)

/-- Send a read command and, since the response comes during the next frame, the NOP that collects it; the read is what a
repeat sends again (R272, R273). -/
def State.readPac (s : State) (a cmd head ch : Nat) : State :=
  (s.sendPac a cmd head ch 0).emit (.pac a (pacFrame 0 0 0 0))

/-- An assist level of a head, never above the MAX_LVL of its profile (R275). -/
def State.capLevel (s : State) (h lvl : Nat) : Nat := Nat.min lvl (s.rdi F.WRA_PROF_A_MAX_LVL (s.profOf h))

/-- A head's reader bias moved by `d` codes is sent to its preamp (R274, Table 10-9). -/
def State.sendBias (s : State) (h : Nat) (d : Int) : State :=
  s.sendPac (s.actOf h) 3 (s.headOnAct h) 0 (((Config.readBias h).toNat + d) % 256).toNat

/-- A head's write current, its reader bias and the settings that its profile gives are sent to its preamp (R272, R274,
R275). -/
def State.loadHead (s : State) (h : Nat) : State :=
  let a := s.actOf h
  let n := s.headOnAct h
  let p := s.profOf h
  let s := (s.sendPac a 2 n 0 (Config.writeCurrent h).toNat).sendBias h 0
  let s := s.sendPac a 4 n 0 (s.capLevel h (s.rdi F.WRA_HEAD_ASSIST_LEVEL h))
  let s := s.sendPac a 4 n 0 (s.capLevel h (s.rdi F.WRA_PROF_A_PREHEAT_LVL p) + 2 ^ 10)
  let s := s.sendPac a 4 n 0 (s.capLevel h (s.rdi F.WRA_PROF_A_BOOST_LVL p) + 2 * 2 ^ 10)
  let s := s.sendPac a 4 n 0 (3 * 2 ^ 10)
  s.sendPac a 5 n 0 (s.rdi F.WRA_PROF_B_BOOST_NS p)

/-- Every setting of an actuator's bus is loaded. -/
def State.loadBus (s : State) (a : Nat) : State :=
  ((List.range s.disk.heads).filter (fun h => s.actOf h = a)).foldl State.loadHead s

/-- WGa and AGa are released and the actuator's channels squelched (R274, R277). -/
def State.releaseGates (s : State) (a : Nat) : State :=
  let s := (s.wr F.WRA_STATUS_AG (clrBit (s.rd F.WRA_STATUS_AG) a)).wr F.WRA_STATUS_WG
    (clrBit (s.rd F.WRA_STATUS_WG) a)
  let s := s.setActWra a { s.actWra a with field := none }
  (chansOf a).foldl (fun s c => s.setChan c { s.chan c with writing := false, stopping := false }) s

/-- A preamp has been reset: every head of it is disarmed and deselected (Table 11-3). -/
def State.dropHeads (s : State) (a : Nat) : State :=
  let s := s.wr F.WRA_STATUS_CH_ARMED ((chansOf a).foldl clrBit (s.rd F.WRA_STATUS_CH_ARMED))
  (chansOf a).foldl (fun s c => s.setChan c { s.chan c with head := 24 }) s

/-- A head's actuator is treated as reporting every head open (R273). -/
def State.busFailed (s : State) (a : Nat) : State :=
  let s := (s.wr F.WRA_ERR_STATUS_PAC_BUS 1).raise 7 0 0x405 a
  let s := s.setActWra a { s.actWra a with allOpen := true }
  ((List.range s.disk.heads).filter (fun h => s.actOf h = a)).foldl (fun s h => s.failHead h 1) s

/-- A command was not answered or not confirmed: it is repeated up to PAC_RETRY times, then RESET is sent and every
setting reloaded; after three such resets in a row the bus has failed (R273). -/
def State.pacRetry (s : State) (a : Nat) : State :=
  let v := s.actWra a
  if v.allOpen then s
  else if v.repeats < s.rd F.WRA_D_CFG_PAC_RETRY then
    (s.setActWra a { v with repeats := v.repeats + 1 }).emit (.pac a v.lastFrame)
  else if v.resets < 3 then
    let s := (s.setActWra a { v with repeats := 0, resets := v.resets + 1 }).releaseGates a
    ((s.sendPac a 0xF 15 0 0).dropHeads a).loadBus a
  else s.busFailed a

/-- Heads of an actuator by their number on the preamp; 15 stands for all. -/
def State.headAt (s : State) (a n : Nat) : Nat := if a = 0 then n else n + s.disk.heads / 2

end Sys2Proof.Machine
end

