-- ==== Sys2Proof/Machine/TapeMotion.lean ====
section
/-!
DEFINITION. Tape motion: speed steps and the quiet point, stops and restarts, servo frames, motion faults,
reacquisition, load and unload (R182 to R201).
-/

namespace Sys2Proof.Machine

/-- Data sets per 10 s at a speed step (Table 08-1). -/
def stepRate (x : Nat) : Nat :=
  ([11755, 14106, 16457, 18808, 21159, 23510, 25861, 28212, 30563, 32914, 35265, 37616, 39967, 42318, 44669,
    47020][x]?).getD 47020

/-- The tape writes: frames go to tape and no disturbance holds them. -/
def State.tapeWriting (s : State) : Bool := s.rd F.FMT_TSTATUS_WSTATE = 1

/-! ## The write synthesizer (R182, R265) -/

/-- The channel rate of a step in kb/s: 81.25 bit/µm times its velocity (Table 08-1). -/
def stepKbs (x : Nat) : Nat := 130000 + 26000 * x

/-- The tape synthesizer is set to the rate of a step; at another rate than before it has to lock again (R182, R265). -/
def State.tuneTape (s : State) (x : Nat) : State :=
  if Store.get 0 s.wra.rates 4 = stepKbs x then s
  else
    let s : State := { s with wra := { s.wra with rates := Store.put 0 s.wra.rates 4 (stepKbs x) } }
    s.wr F.WRA_STATUS_TSYNTH_LOCK 0

/-- With VEL_TRACK the synthesizer follows the velocity measured at a servo frame, within 1 % of the step rate (R265). -/
def State.trackRate (s : State) : State :=
  if !s.on F.WRA_TW_CFG_VEL_TRACK || !s.on F.WRA_STATUS_TSYNTH_LOCK then s
  else
    let r := stepKbs (s.rd F.CTL_TM_STATUS_STEP)
    let v := Nat.max (r * 99 / 100) (Nat.min (r * 101 / 100) (s.mot.vel * 8125 / 100000))
    { s with wra := { s.wra with rates := Store.put 0 s.wra.rates 4 v } }

/-! ## Step changes (R184, R186, R188) -/

/-- Begin a change to step `x`: while writing through the quiet point, otherwise at the next start (R184). The dwell of
R186 counts from here. -/
def State.startChange (s : State) (x : Nat) : State :=
  let s := s.wr F.CTL_TM_STATUS_TARGET x
  let s := s.setMot { s.mot with sinceChange := 0 }
  if s.tapeWriting then s.setMot { s.mot with quiet := some x } else s

/-- The step in force changes (R184, Table 08-8). -/
def State.takeStep (s : State) (x : Nat) : State :=
  let old := s.rd F.CTL_TM_STATUS_STEP
  let s := ((s.wr F.CTL_TM_STATUS_STEP x).wr F.CTL_TM_STATUS_TARGET x).tuneTape x
  if old = x then s else ((s.inc F.CTL_TM_STEPCHG_COUNT).raise 7 0 0x201 (x + old * 16)).reelLimits x

/-- A start from a stop takes a step: the dwell of R186 counts from a change (R184, R187). -/
def State.startStep (s : State) (x : Nat) : State :=
  let s := if s.rd F.CTL_TM_STATUS_STEP = x then s else s.setMot { s.mot with sinceChange := 0 }
  s.takeStep x

/-- The lowest step whose net rate is at least 1.05 × I, 15 when none is: `i` data sets and `new` of `slots` frame
slots with new originals over the last second (R186). -/
def wantStep (i new slots : Nat) : Nat :=
  ((List.range 16).find? (fun x => 105 * i * 10 * slots ≤ stepRate x * new * 100)).getD 15

/-- The highest step whose net rate is below I, 0 when none is (R186). -/
def refillStep (i new slots : Nat) : Nat :=
  ((List.range 16).reverse.find? (fun x => stepRate x * new < i * 10 * slots)).getD 0

/-- The step the procedure of R186 wants while writing, or reading with the roles of LOW and HIGH reversed and I the data
sets that Tansy consumes (R187). -/
def State.wantedStep (s : State) : Nat :=
  let i := (s.tape.closedHist.take 10).sum
  let slots0 := if s.tapeWriting then (s.tape.slotHist.take 10).sum else 0
  let slots := if slots0 = 0 then 1 else slots0
  let new := if slots0 = 0 then 1 else (s.tape.newHist.take 10).sum
  let st := s.rd F.CTL_TM_STATUS_STEP
  let p := if s.tapeWriting then s.tape.pending else s.tape.readAhead.length
  let above := decide (s.rd F.CTL_TM_BUF_HIGH * 4096 < p * 100)
  let below := decide (p * 100 < s.rd F.CTL_TM_BUF_LOW * 4096)
  let up := if s.tapeWriting then above else below
  let down := if s.tapeWriting then below else above
  let w := wantStep i new slots
  let w := if up then Nat.max w (st + 1) else if down then Nat.min w (refillStep i new slots) else w
  Nat.min w (s.rd F.CTL_TM_STATUS_CAP)

/-- The histories move on by one period of 100 ms. -/
def State.shiftHist (s : State) : State :=
  let t := s.tape
  let s := s.setTape { t with closedHist := (0 :: t.closedHist).take 11, slotHist := (0 :: t.slotHist).take 11
                              newHist := (0 :: t.newHist).take 11 }
  s.setMot { s.mot with sinceChange := s.mot.sinceChange + 1 }

/-- `STEP_DECISION`: every 100 ms the procedure of R186 chooses a step; a higher one waits for Betony's grant. -/
def execStepDecision (s : State) : Host.Outcome State Fault Refusal :=
  let st := s.rd F.CTL_TM_STATUS_STEP
  let want := s.wantedStep
  let s := s.unask 3 0
  let idle := !s.mot.moving || s.mot.quiet.isSome || s.mot.ramping
  let s := if idle || want = st || s.mot.sinceChange < 20 then s
    else if st < want then s.ask 3 0 3
    else s.startChange (st - 1)
  .next s.shiftHist

/-- The tape decelerates and asks for the reverse that parks it ahead of the next frame slot with run-up room; the
deceleration needs no grant (R187, R189). -/
def State.stopTape (s : State) : State :=
  let s := s.setMot { s.mot with
    moving := false, stopped := true, settled := 0, stopMs := 0, stopClosed := 0, phase := .stop }
  let s := s.wr F.CTL_TM_STATUS_TARGET (s.rd F.CTL_TM_STATUS_STEP)
  (s.tapeRamp 0).ask 2 2 2

/-- `QUIET_POINT_DRAINED`: every written codeword has its decision and nothing is left to rewrite; the ramp to the new
step begins, or the tape stops (R184, R187). -/
def execQuietPointDrained (s : State) : Host.Outcome State Fault Refusal :=
  let t := s.tape
  let drained := t.frames.isEmpty && t.awaiting.isEmpty && t.rwq.isEmpty && !t.sets.any (fun d => d.reissueDue)
  match s.mot.quiet with
  | none => .next s
  | some x =>
    if !drained then .next s
    else if x < 16 then
      .next (((s.setMot { s.mot with quiet := none, ramping := true, settled := 0 }).tuneTape x).tapeRun x)
    else .next ((s.setMot { s.mot with quiet := none }).wr F.FMT_TSTATUS_WSTATE 0).stopTape

/-- `SPEED_SETTLED`: velocity and lateral error have stayed within limits for 32 servo frames; the new step is in force
and F advances by the frame lengths of the speed gap (R184, R185). -/
def execSpeedSettled (gapFrames : BitVec 16) (s : State) : Host.Outcome State Fault Refusal :=
  if s.mot.ramping && 32 ≤ s.mot.settled then
    let s := s.takeStep (s.rd F.CTL_TM_STATUS_TARGET)
    let s := s.setMot { s.mot with ramping := false }
    .next (s.setTape { s.tape with slot := s.tape.slot + gapFrames.toNat })
  else .next s

/-- `TAPE_HOLD_STOP`: P has been 0 for HOLD_MS while writing and no data set is open: the tape stops through the quiet
point (R187). -/
def execTapeHoldStop (s : State) : Host.Outcome State Fault Refusal :=
  if s.tapeWriting && s.mot.moving && s.tape.pending = 0 && s.tape.openOne.isNone && s.mot.quiet.isNone &&
      !s.mot.ramping then
    .next (s.setMot { s.mot with quiet := some 16 })
  else .next s

/-- Servo frames of 200 µm that the reverse of a reposition takes at a step: v² ÷ a and the settle distance of 6.4 mm
(Table 08-3). -/
def State.reverseFrames (s : State) (x : Nat) : Nat :=
  (stepVelocity x * stepVelocity x / (10 * s.rd F.CTL_TM_CFG_ACCEL) + 65) / 2

/-- The tape reverses by `n` servo frames at a step (R189, R197). -/
def State.reverseTape (s : State) (x n : Nat) : State :=
  let s := (s.setMot { s.mot with phase := .reverse, phaseFrames := n, settled := 0 }).wr F.CTL_TM_STATUS_MODE 4
  s.tapeRamp (if s.mot.reverse then (stepVelocity x : Int) else -(stepVelocity x : Int))

/-- The run-up at a step (R189). -/
def State.forwardTape (s : State) (x : Nat) : State :=
  let s := s.setMot { s.mot with moving := true, phase := .forward, phaseFrames := 0, settled := 0, validRun := 0 }
  (s.wr F.CTL_TM_STATUS_MODE 4).tapeRun x

/-- The tape stands parked: mode HOLD (R187, Table 08-4). -/
def State.parkTape (s : State) : State :=
  ((s.setMot { s.mot with phase := .none, phaseFrames := 0 }).wr F.CTL_TM_STATUS_MODE 2).tapeRamp 0

/-- The reverse of a stop has its grant: the tape goes back to where it parks (R187, R189). -/
def State.parkReverse (s : State) : State :=
  let x := s.rd F.CTL_TM_STATUS_STEP
  if s.mot.stopped && s.mot.phase = .stop then s.reverseTape x (s.reverseFrames x) else s

/-- The tape restarts from a stop: for writing at the step the first line of R186 gives, with I measured over the time
stopped, for reading at the step that a change asked for; F advances by 1. A tape that is not parked yet reverses first
(R184, R185, R187). -/
def State.restartTape (s : State) : State :=
  let i := if s.mot.stopMs = 0 then 0 else s.mot.stopClosed * 1000 / s.mot.stopMs
  let w := if s.mot.reading then s.rd F.CTL_TM_STATUS_TARGET else wantStep i 1 1
  let x := Nat.min w (s.rd F.CTL_TM_STATUS_CAP)
  let s := (s.unask 2 2).startStep x
  let parked := s.mot.phase = .none
  let s := s.setMot { s.mot with moving := true, stopped := false, settled := 0 }
  let s := s.setTape { s.tape with slot := s.tape.slot + 1 }
  let s := s.inc F.CTL_TM_REPOS_COUNT
  if parked then s.forwardTape x else s.reverseTape x (s.reverseFrames x)

/-- The reposition after a disturbance has its grant: the reverse begins, at a step no higher than CAP (R171, R188,
R189). -/
def State.runUp (s : State) : State :=
  if s.mot.repos && !s.on F.PWR_STATUS_BRACE then
    if s.mot.reacq then s.ask 2 0 2
    else
      let x := Nat.min (s.rd F.CTL_TM_STATUS_STEP) (s.rd F.CTL_TM_STATUS_CAP)
      let s := (s.setMot { s.mot with moving := true }).startStep x
      s.reverseTape x (s.reverseFrames x)
  else s

/-! ## Reading (R183, R187, R189) -/

/-- A locate has its grant: the tape runs at step 15 to the data set's LPOS (R189). -/
def State.locateTape (s : State) : State :=
  match s.mot.locate with
  | none => s
  | some l =>
    if s.tapeWriting || s.on F.PWR_STATUS_BRACE then s
    else
      let down := l < s.rd F.CTL_TM_LPOS_LPOS
      let s := s.setMot { s.mot with
        moving := true, stopped := false, phase := .locate, reading := true, reverse := down, settled := 0 }
      ((s.wr F.CTL_TM_STATUS_MODE 4).inc F.CTL_TM_REPOS_COUNT).tapeRamp
        (if down then -(stepVelocity 15 : Int) else (stepVelocity 15 : Int))

/-- A data set that a read needs is not at hand: the device asks for the locate, unless it writes or reads toward it
already (R187, R189). -/
def State.seekSet (s : State) (part ds : Nat) : State :=
  let k := ds + part * 2 ^ 32
  match (s.tape.onTape ++ s.tape.sets).find? (fun d => d.part = part && d.num = ds) with
  | none => s
  | some d =>
    if !s.tMode || s.tapeWriting || s.mot.repos || s.mot.reacq || s.mot.locate.isSome || s.tape.readAhead.contains k then s
    else (s.setMot { s.mot with locate := some d.lpos }).ask 2 3 1

/-- The locate has reached its data set: the tape runs up and reads at its step (R189, R190). -/
def State.locateEnds (s : State) (wrap : Nat) : State :=
  let s := s.setMot { s.mot with locate := none, reverse := wrap % 2 = 1 }
  let x := Nat.min (s.rd F.CTL_TM_STATUS_TARGET) (s.rd F.CTL_TM_STATUS_CAP)
  ((s.startStep x).wr F.FMT_TSTATUS_WRAP wrap).forwardTape x

/-- A data set has been read ahead; with the buffer full the tape stops (R183, R187). -/
def State.readSet (s : State) (k : Nat) : State :=
  let s := s.setTape { s.tape with readGood := Store.put 0 s.tape.readGood k 0 }
  if s.tape.readAhead.contains k then s
  else
    let s := (s.setTape { s.tape with readAhead := s.tape.readAhead ++ [k] }).syncLevel
    if s.mot.reading && s.mot.moving && !s.tape.hasRoom then s.stopTape else s

/-- Tansy has consumed data sets; a tape that stopped on a full buffer restarts when P has fallen to LOW (R187). -/
def State.consumeSets (s : State) (ks : List Nat) : State :=
  let gone := s.tape.readAhead.filter (fun k => ks.contains k)
  let t := s.tape
  let s := (s.setTape { t with
    readAhead := t.readAhead.filter (fun k => !ks.contains k)
    closedHist := bumpHead gone.length t.closedHist }).syncLevel
  if s.mot.reading && s.mot.stopped && !gone.isEmpty &&
      s.tape.readAhead.length * 100 ≤ s.rd F.CTL_TM_BUF_LOW * 4096 then s.ask 2 1 1
  else s

/-- Writing is asked for while the tape reads: reading gives way (R254, R187). -/
def State.endReading (s : State) : State :=
  if s.mot.reading then
    ((s.setMot { s.mot with reading := false, locate := none }).unask 2 3).syncLevel
  else s

/-- `TAPE_RESTART`: the pending level reaches RESUME_DS, the oldest pending data set has waited RESUME_MS, or STOP needs
the EOD data set written: the tape asks for its run-up (R187, R189). -/
def execTapeRestart (s : State) : Host.Outcome State Fault Refusal :=
  if s.mot.stopped && (0 < s.tape.pending || s.tape.stopStage = 1) then .next (s.endReading.ask 2 1 2) else .next s

/-! ## Motion faults (R197, R198) -/

/-- Started commands above the frontier end with MOTION_FAULT and the medium is FAULTED; a start or a format ends with
MOTION_FAULT, and a stop goes on as an unload from FAULTED, or ends when that unload faults again (R118, R198). -/
def State.mediaFault (s : State) (collapse : Bool) : State :=
  let s := s.endTapeCmds stMotionFault false
  let s := (s.setMedium mFaulted).wr F.FMT_TSTATUS_WSTATE 0
  let s := (s.endMedia 1 stMotionFault 0 0).endMedia 3 stMotionFault 0 0
  let stopping := s.medium.func = 2
  let again := stopping && s.mot.unload != 0
  let s := if again then s.endMedia 2 stMotionFault 0 0 else s
  let on := stopping && !again
  let m := s.mot
  let s := s.setMot { m with
    moving := false, quiet := none, repos := false, reacq := false, ramping := false, stopped := false, phase := .none
    turning := false, locate := none, reading := false
    collapsed := collapse
    unload := if on then (if collapse then 3 else 2) else 0 }
  { s with medium := { s.medium with func := if on then 2 else 0 } }

/-- The medium becomes FAULTED in D-mode: a start or a format ends with MOTION_FAULT, so does a cleaning command, and a
stop goes on as an unload from FAULTED, or ends when that unload faults again (R118). -/
def State.diskFaulted (s : State) : State :=
  let again := s.medium.state = mFaulted || s.mot.unload != 0
  let s := ((s.endMedia 1 stMotionFault 0 0).endMedia 3 stMotionFault 0 0).endMedia 4 stMotionFault 0 0
  let s := if s.medium.func = 2 && again then s.endMedia 2 stMotionFault 0 0 else s
  let on := s.medium.func = 2 && !again
  let s : State := s.setMot { s.mot with unload := if on then 2 else 0 }
  { s.setMedium mFaulted with medium := { s.medium with state := mFaulted, func := if on then 2 else 0 } }

/-- A motion fault of a row of Table 08-6 that leaves the medium FAULTED. -/
def State.tapeFault (s : State) (row : Nat) : State :=
  let s := s.disturb 3
  let s := (s.raiseBit F.CTL_TM_FAULT_CAUSE (row - 1)).raise 7 0 0x204 (row + s.rd F.CTL_TM_LPOS_LPOS * 2 ^ 32)
  let s := s.mediaFault (row = 4)
  let s := if row = 4 || row = 5 then s.tapeBrake else s.tapeRamp 0
  if row = 4 || row = 5 || row = 7 then s.wr F.CTL_TM_STATUS_MODE 0 else s.wr F.CTL_TM_STATUS_MODE 2

/-- A motion fault that first calls for reacquisition: rows 1 and 2 (R197). -/
def State.tapeReacquire (s : State) (row : Nat) : State :=
  let s := s.disturb 3
  let s := (s.raiseBit F.CTL_TM_FAULT_CAUSE (row - 1)).raise 7 0 0x204 (row + s.rd F.CTL_TM_LPOS_LPOS * 2 ^ 32)
  let s := s.setMot { s.mot with
    reacq := true, reacqTries := 0, quiet := none, ramping := false, settled := 0, turning := false, phase := .stop }
  s.tapeRamp 0

/-- The reverse of an attempt at reacquisition: 64 mm, which is 320 servo frames, at step 0 (R197). -/
def State.reacqReverse (s : State) : State := s.reverseTape 0 320

/-- The cartridge is threaded and the tape loops run or can run. -/
def State.tapeActive (s : State) : Bool := s.tMode && s.rd F.CTL_TM_STATUS_MODE != 0 && s.medium.state != mFaulted

/-- `VELOCITY_FOLLOWING_ERROR`: a controlled stop and reacquisition (Table 08-6 row 2). -/
def execVelocityFollowingError (s : State) : Host.Outcome State Fault Refusal :=
  .next (if s.tapeActive && s.mot.moving && !s.mot.reacq then s.tapeReacquire 2 else s)

/-- `TENSION_ERROR`: a controlled stop, FAULTED (Table 08-6 row 3). -/
def execTensionError (s : State) : Host.Outcome State Fault Refusal :=
  .next (if s.tapeActive then s.tapeFault 3 else s)

/-- `TENSION_COLLAPSE`: an emergency stop, FAULTED (Table 08-6 row 4). -/
def execTensionCollapse (s : State) : Host.Outcome State Fault Refusal :=
  .next (if s.tapeActive && s.mot.moving then s.tapeFault 4 else s)

/-- `THREAD_TIMEOUT`: mode OFF, FAULTED (Table 08-6 row 7). -/
def execThreadTimeout (s : State) : Host.Outcome State Fault Refusal :=
  .next (if s.tMode && s.rd F.CTL_TM_STATUS_MODE = 1 then s.tapeFault 7 else s)

/-- `REACQUISITION_DONE`: an attempt ends. It has succeeded when the frame status has been VALID for 32 servo frames while
the tape ran forward at step 0; the recovery is then that of a write disturbance. A failure takes a further attempt, and
after three the medium is FAULTED (R197). -/
def execReacquisitionDone (success : Bool) (s : State) : Host.Outcome State Fault Refusal :=
  if !s.mot.reacq then .next s
  else
    let ok := success && s.mot.phase = .forward && 32 ≤ s.mot.validRun
    let n := s.mot.reacqTries + 1
    let arg := n + b2n ok * 256 + s.rd F.CTL_TM_LPOS_LPOS * 2 ^ 32
    if ok then
      let s := s.setMot { s.mot with reacq := false, reacqTries := n, nonValid := 0 }
      let s := s.raise 7 0 0x203 arg
      .next (if s.mot.repos then s else s.stopTape)
    else if n < 3 then .next (s.setMot { s.mot with reacqTries := n }).reacqReverse
    else
      let s := (s.setMot { s.mot with reacq := false, reacqTries := n }).raise 7 0 0x203 arg
      .next ((s.mediaFault false).wr F.CTL_TM_STATUS_MODE 2)

/-! ## Servo frames (R192 to R195) -/

/-- The status of a servo lane: 0 VALID, 1 MISSING, 2 FROZEN (R23). -/
abbrev ServoStatus := BitVec 2

/-- The frame status of the four S-lanes: SL0 and SL2 read the upper bands, SL1 and SL3 the lower (R192). -/
def frameStatus (a b c d : Nat) : Nat :=
  if (a = 0 || c = 0) && (b = 0 || d = 0) then 0
  else if a != 1 && b != 1 && c != 1 && d != 1 then 2
  else 1

/-- The mean of the errors of the VALID lanes. -/
def meanValid (l : List (Nat × Int)) : Int :=
  let v := l.filter (fun p => p.1 = 0)
  if v.isEmpty then 0 else (v.map (fun p => p.2)).sum / (v.length : Int)

/-- The upper–lower difference on the modules where both lanes are VALID (R192). -/
def widthDiff (l : List (Nat × Int)) : Int :=
  let g := fun i => (l[i]?).getD (1, 0)
  let m := [(g 0, g 1), (g 2, g 3)].filter (fun p => p.1.1 = 0 && p.2.1 = 0)
  if m.isEmpty then 0 else (m.map (fun p => p.1.2 - p.2.2)).sum / (m.length : Int)

/-- The status of a servo lane by the first row of Table 10-6 that holds: 1 MISSING, 2 FROZEN, 0 VALID. -/
def State.servoStatus (s : State) (lane : Nat) (v : ServoIn) : Nat :=
  let b := v.sums.map BitVec.toNat
  if !v.found || b.sum * 100 < s.rd F.LANE_SERVO_CFG_AMP_MIN * v.nominal.toNat then 1
  else if (s.lane lane).lastSums = b || v.half || v.vga then 2
  else 0

/-- A servo lane takes its record: the burst sums, its status and the counter of what is not VALID (R192, R247). -/
def State.takeServo (s : State) (lane st : Nat) (v : ServoIn) : State :=
  let s := if v.found then s.setLane lane { s.lane lane with lastSums := v.sums.map BitVec.toNat } else s
  let s := s.wri F.LANE_STATUS_SERVO_VALID lane (b2n (st = 0))
  if st = 0 then s else s.inci F.LANE_WEDGE_BAD_COUNT lane

/-- The tape runs toward lower LPOS. -/
def MotSt.down (m : MotSt) : Bool :=
  match m.phase with
  | .reverse => !m.reverse
  | .rewind | .unthread => true
  | _ => m.reverse

/-- LPOS after one more servo frame with its bit: 36 frames are one unit, counted in the direction of travel. The count
stands against a decode that differs; the acquisition of a load takes the decoded value (R193, R199). -/
def State.stepLpos (s : State) (bit : Bool) : State :=
  let m := s.mot
  let old := s.rd F.CTL_TM_LPOS_LPOS
  if m.down then
    if m.lposFrames = 0 then
      (s.setMot { m with lposFrames := 35, lposBits := 0 }).wr F.CTL_TM_LPOS_LPOS ((old + 2 ^ 32 - 1) % 2 ^ 32)
    else s.setMot { m with lposFrames := m.lposFrames - 1, lposBits := 0 }
  else
    let bits' := (m.lposBits * 2 + b2n bit) % 2 ^ 36
    if m.lposFrames + 1 < 36 then s.setMot { m with lposFrames := m.lposFrames + 1, lposBits := bits' }
    else
      let v := if m.lposKnown then (old + 1) % 2 ^ 32 else bits' % 2 ^ 32
      (s.setMot { m with lposFrames := 0, lposBits := 0, lposKnown := true }).wr F.CTL_TM_LPOS_LPOS v

/-- LPOS lies outside the range that the cartridge header allows while moving (Table 08-6 row 6). -/
def State.lposOut (s : State) : Bool :=
  match s.tape.header with
  | some h => (s.mot.moving || s.mot.phase = .reverse) && (s.rd F.CTL_TM_LPOS_LPOS + 2800 < h.lposBegin || h.lposEnd + 2800 < s.rd F.CTL_TM_LPOS_LPOS)
  | none => false

/-- The last 64 frame slots of a wrap, of 453.7 µm each, against LPOS units of 7.2 mm (R177). -/
def State.wrapEnd (s : State) : Bool :=
  match s.tape.header with
  | some h =>
    let l := s.rd F.CTL_TM_LPOS_LPOS
    let left := if s.rd F.FMT_TSTATUS_WRAP % 2 = 0 then h.lposEnd - l else l - h.lposBegin
    left * 72000 < 64 * 4537
  | none => false

/-- The velocity in µm/s of a servo frame that took `dt` cycles of CLK_AFE_T at 600 MHz (R190, R247). -/
def servoVel (dt : Nat) : Nat := if dt = 0 then 0 else 200 * 600000000 / dt

/-- The velocity lies within ±0.2 % of that of the step (R184). -/
def State.velOk (s : State) : Bool :=
  let v := stepVelocity (if s.mot.ramping then s.rd F.CTL_TM_STATUS_TARGET else s.rd F.CTL_TM_STATUS_STEP) * 1000
  s.mot.vel * 500 ≤ v * 501 && v * 499 ≤ s.mot.vel * 500

/-- What a reposition, a reacquisition, a locate or an unload does next after one more servo frame (R189, R196, R197,
R200). -/
def State.phaseFrame (s : State) (st : Nat) : State :=
  let m := s.mot
  match m.phase with
  | .reverse =>
    if 1 < m.phaseFrames then s.setMot { m with phaseFrames := m.phaseFrames - 1 }
    else if m.reacq then s.forwardTape 0
    else if m.stopped then s.parkTape
    else s.forwardTape (s.rd F.CTL_TM_STATUS_STEP)
  | .forward =>
    let s := s.setMot { m with validRun := if st = 0 then m.validRun + 1 else 0 }
    if m.reacq || m.repos || !s.on F.CTL_TM_STATUS_SETTLED then s
    else (s.setMot { s.mot with phase := .none }).wr F.CTL_TM_STATUS_MODE 3
  | .locate =>
    match m.locate with
    | none => s
    | some l =>
      let p := s.rd F.CTL_TM_LPOS_LPOS
      if (m.reverse && p ≤ l) || (!m.reverse && l ≤ p) then
        s.locateEnds (((s.tape.onTape.find? (fun d => d.part = 1 && d.lpos = l)).map (fun d => d.wrap)).getD 4)
      else s
  | .rewind =>
    match s.tape.header with
    | some h =>
      if s.rd F.CTL_TM_LPOS_LPOS + 2800 ≤ h.lposBegin then
        ((s.setMot { m with phase := .unthread }).wr F.CTL_TM_STATUS_MODE 1).tapeRamp (-500)
      else s
    | none => s
  | _ => s

/-- A wrap turn goes on: the fine stage takes over below 4 × WI_NM, and the turn is complete once settled (R196). -/
def State.turnFrame (s : State) : State :=
  if !s.mot.turning then s
  else
    let s := if !s.slotOn 4 && s.mot.lateral.natAbs < 4 * s.rd F.CTL_TM_LIMIT_WI_NM then s.enableSlot 4 else s
    if s.on F.CTL_TM_STATUS_SETTLED then s.setMot { s.mot with turning := false } else s

/-- A VALID servo frame with its mean error (R192, R184). -/
def State.validFrame (s : State) (e width : Int) : State :=
  let calm := s.velOk && 2 * e.natAbs ≤ s.rd F.CTL_TM_LIMIT_WI_NM
  let n := if calm then Nat.min 32 (s.mot.settled + 1) else 0
  let s := s.setMot { s.mot with
    nonValid := 0, lateral := e, lateral1 := s.mot.lateral, widthCorr := width, settled := n }
  s.wr F.CTL_TM_STATUS_SETTLED (b2n (32 ≤ n))

/-- A frame that is not VALID: at counts 1 and 2 the lateral error is predicted and writing goes on against it; at 3 the
loops hold and writing stops; at 8 the tape is stopped and servo sought (R194, R293, Table 08-5). -/
def State.heldFrame (s : State) : State :=
  let m := s.mot
  let n := m.nonValid + 1
  let e := if n < 3 then 2 * m.lateral - m.lateral1 else m.lateral
  let calm := n < 3 && s.velOk && 2 * e.natAbs ≤ s.rd F.CTL_TM_LIMIT_WI_NM
  let s := s.setMot { m with nonValid := n, lateral := e, lateral1 := m.lateral, settled := if calm then m.settled else 0 }
  let s := if calm then s else s.wr F.CTL_TM_STATUS_SETTLED 0
  if n = 3 then (s.raise 7 0 0x202 (s.rd F.CTL_TM_LPOS_LPOS)).disturb 3
  else if n = 8 && s.tapeActive && (s.mot.moving || s.mot.repos) && !s.mot.reacq then s.tapeReacquire 1
  else s

/-- `SERVO_FRAME_RECORD`: the S-lanes deliver a servo frame: what each lane sees, the interval since the frame before in
cycles of CLK_AFE_T, and the bit of LPOS (R192 to R195, R247). -/
def execServoFrameRecord (a b c d : ServoIn) (dt : Word) (bit : Bool) (s : State) : Host.Outcome State Fault Refusal :=
  if !s.tMode then .next s
  else
    let ins := [a, b, c, d]
    let sts := (List.range 4).map (fun i => match ins[i]? with
      | some v => s.servoStatus (64 + i) v
      | none => 1)
    let g := fun i => (sts[i]?).getD 1
    let l := (List.range 4).map (fun i => (g i, ((ins[i]?).map (fun v => toSigned 16 v.error.toNat)).getD 0))
    let st := frameStatus (g 0) (g 1) (g 2) (g 3)
    let s := s.takeServo 64 (g 0) a
    let s := s.takeServo 65 (g 1) b
    let s := s.takeServo 66 (g 2) c
    let s := s.takeServo 67 (g 3) d
    let s := s.wr F.CTL_TM_STATUS_SERVO_VALID (b2n (st = 0))
    let s := (s.setMot { s.mot with vel := servoVel dt.toNat, frame := st }).stepLpos bit
    let s := s.wr F.FMT_TSTATUS_WRAP_END (b2n s.wrapEnd)
    let s := if st = 0 then (s.validFrame (meanValid l) (widthDiff l)).trackRate else s.heldFrame
    let s := (s.phaseFrame st).turnFrame
    let wi := s.rd F.CTL_TM_LIMIT_WI_NM
    let s := if s.tapeWriting && wi < s.mot.lateral.natAbs then
        (s.wr F.CTL_TM_STATUS_WRITE_INHIBIT 1).disturb 1
      else s.wr F.CTL_TM_STATUS_WRITE_INHIBIT (b2n (decide (wi < s.mot.lateral.natAbs)))
    .next (if s.tapeActive && s.lposOut then s.tapeFault 6 else s)

/-- `LATERAL_WRITE_INHIBIT`: the lateral error exceeds the write-inhibit limit while writing; WRA squelches every output
within 1 µs, cause 1 of Table 07-6 (R170, R195). -/
def execLateralWriteInhibit (s : State) : Host.Outcome State Fault Refusal :=
  .next (if s.tapeWriting then (s.wr F.CTL_TM_STATUS_WRITE_INHIBIT 1).disturb 1 else s)

/-- `WRITE_RESUME_SETTLED`: repositioned and settled after a disturbance, the device writes again: re-issues first,
then new data sets (R171). -/
def execWriteResumeSettled (s : State) : Host.Outcome State Fault Refusal :=
  if s.mot.repos && s.mot.phase = .forward && !s.mot.reacq && s.on F.CTL_TM_STATUS_SETTLED && s.rd F.FMT_TSTATUS_WSTATE = 2 &&
      !s.on F.PWR_STATUS_BRACE then
    let s := (s.setMot { s.mot with repos := false, phase := .none }).wr F.CTL_TM_STATUS_MODE 3
    let s := { s with wra := { s.wra with squelchDue := false } }
    .next (((s.wr F.FMT_TSTATUS_WSTATE 1).wr F.CTL_TM_STATUS_WRITE_INHIBIT 0).wr F.WRA_STATUS_TAPE_SQUELCH 0)
  else .next s

/-- What was built and is not on tape when a wrap ends: rewrite copies go back to the queue, a re-issue or original cut
short is written whole on the next wrap (R176, R177). -/
def State.unbuild (s : State) : State :=
  let left := s.tape.frames.flatten
  let back := (left.filter (fun c => c.kind = 1)).map (fun c => { c with rewrites := c.rewrites - 1 })
  let cut := fun (d : DataSet) => left.any (fun c => c.part = d.part && c.ds = d.num && (c.kind = 0 || c.kind = 3))
  let t := s.tape
  s.setTape { t with
    frames := [], slot := t.slot - t.frames.length, rwq := t.rwq ++ back
    sets := t.sets.map (fun d => if cut d then
      { d with reissueDue := true, reissues := if d.reissueDue then d.reissues else d.reissues + 1 } else d) }

/-- Frame lengths of 453.7 µm that a stop and a start at a step take, v² ÷ a in all, rounded up (R185). -/
def State.turnSlots (s : State) (x : Nat) : Nat :=
  (stepVelocity x * stepVelocity x * 100 / s.rd F.CTL_TM_CFG_ACCEL + 4536) / 4537

/-- The servo position of a wrap in nm with 16 fraction bits (the cartridge's, Config.wrapPosition). -/
def wrapTarget (w : Nat) : Int := toSigned 48 (Config.wrapPosition w).toNat

/-- `WRAP_TURN`: within the last 64 slots of a wrap the formatter turns to the next wrap when nothing awaits a decision,
a rewrite or a re-issue, or when the wrap's end limit is reached. The coarse stage moves to the next wrap, the fine stage
waits for it, and F advances by what the turn passes (R177, R185, R196). -/
def execWrapTurn (endLimit : Bool) (s : State) : Host.Outcome State Fault Refusal :=
  let t := s.tape
  let clear := t.frames.isEmpty && t.awaiting.isEmpty && t.rwq.isEmpty && !t.sets.any (fun d => d.reissueDue)
  let last := match t.header with
    | some h => if s.rd F.FMT_TSTATUS_PARTITION = 0 then 1 else h.wraps - 1
    | none => 0
  let w := s.rd F.FMT_TSTATUS_WRAP
  if s.on F.FMT_TSTATUS_WRAP_END && (clear || endLimit) && w < last && s.mot.moving then
    let x := s.rd F.CTL_TM_STATUS_STEP
    let s := if clear then s else s.unbuild
    let s := (s.wr F.FMT_TSTATUS_WRAP (w + 1)).wr F.FMT_TSTATUS_WRAP_END 0
    let s := s.setMot { s.mot with reverse := (w + 1) % 2 = 1, settled := 0, turning := true }
    let s := s.setTape { s.tape with slot := s.tape.slot + s.turnSlots x }
    let s := ((s.setRampMode 3 2).setRampTarget 3 (wrapTarget (w + 1))).disableSlot 4
    .next ((s.wr F.CTL_TM_STATUS_SETTLED 0).tapeRun x)
  else .next s

/-! ## Load (R180, R199) -/

/-- The load ends: event 0x205 with the medium state, and MEDIA START completes (R118, R199). -/
def State.loadEnds (s : State) (st : Nat) : State :=
  let s := (s.wr F.CTL_TM_STATUS_MODE 2).setMot { s.mot with
    loadStage := 0, moving := false, stopped := true, stopMs := 0, stopClosed := 0, phase := .none }
  ((s.tapeRamp 0).raise 7 0 0x205 st).startReached st

/-- The index in force: that of the index data set with the highest INDEX_SEQ (R180). -/
def TapeSt.index (t : TapeSt) : Option IndexRec :=
  ((t.onTape.filter (fun d => d.part = 0 && d.kind = 3)).map (fun d =>
    IndexRec.ofUser (((d.own[0]?).map (fun u => u.user)).getD []))).foldl (fun m r => match m with
      | none => some r
      | some k => some (if k.seq < r.seq then r else k)) none

/-- The next session starts at a slot with a number: what the partition holds from that number on counts as unwritten
(R152, R175). -/
def State.sessionAt (s : State) (num slot wrap : Nat) : State :=
  let t := s.tape
  let s := s.setTape { t with
    slot := slot
    onTape := t.onTape.filter (fun d => d.part != 1 || d.num < num || (d.num = num && d.kind = 1)) }
  (s.wr F.FMT_DS_NEXT_DS_NUM num).wr F.FMT_TSTATUS_WRAP wrap

/-- The end of the data partition: the EOD data set of the highest WRITE_PASS, else the recovered end, 8 frame slots
beyond the last identified frame of the latest session (R152, R175). -/
def State.findEnd (s : State) : State :=
  let t := s.tape
  let p := t.lastPass 1
  match t.onTape.find? (fun d => d.part = 1 && d.kind = 1 && d.pass = p) with
  | some d => s.sessionAt d.num d.slot d.wrap
  | none =>
    let l := t.lastSession 1
    let nums := (l.map (fun r => (r.copies.filter (fun c => c.kind != 2)).map (fun c => c.ds))).flatten
    let w := l.foldl (fun (m : Nat × Nat) r => if m.1 ≤ r.slot then (r.slot, r.wrap) else m) (0, 4)
    s.sessionAt (nums.foldl Nat.max 0 + 1) (w.1 + 9) w.2

/-- The end of the partition is located: the index with the highest INDEX_SEQ is stale when frames of a later session lie
beyond its EOD data set, which raises its events (R180, R486). -/
def State.locateEnd (s : State) : State :=
  let t := s.tape
  let idx := t.index
  let stale := ((idx.map (fun r => r.pass)).getD 0) < t.lastPass 1
  let idxSlot := (t.onTape.filter (fun d => d.part = 0)).foldl (fun m d => Nat.max m (d.slot + 3)) 0
  let last := (t.onTape.filter (fun d => d.part = 0)).foldl (fun m d => Nat.max m d.num) 0
  let s := s.setTape { t with
    otherSlot := idxSlot, indexSeq := (idx.map (fun r => r.seq)).getD 0, indexNext := last + 1, stale := stale
    writePass := Nat.max (t.lastPass 0) (t.lastPass 1) }
  let s := (s.wr F.FMT_TSTATUS_PARTITION 1).findEnd
  if stale then
    let s := s.raise 7 0 0x107 s.tape.indexSeq
    (s.lifeAdd 96 1).raise 9 0 0x002 2
  else s

/-- The first stage of Table 08-7 whose condition does not hold yet: the cartridge seated, the leader threaded, the tape
at tension (R198). -/
def MotSt.firstStage (m : MotSt) : Nat := if !m.seated then 1 else if !m.threaded then 2 else 3

/-- Enter a stage of the load sequence: 2 THREAD at 0.5 m/s with the leader at 0.1 N, 3 HOLD with tension, 4 VELOCITY at
step 0 with the coarse stage at wrap 0 (Tables 08-4, 08-7). -/
def State.loadEnter (s : State) (n : Nat) : State :=
  let s := s.setMot { s.mot with loadStage := n }
  match n with
  | 2 =>
    let s := (s.setMot { s.mot with tension := 100000 }).wr F.CTL_TM_STATUS_MODE 1
    (s.enableSlot 1).tapeRamp 500
  | 3 =>
    let s := (s.setMot { s.mot with threaded := true }).wr F.CTL_TM_STATUS_MODE 2
    ([0, 1, 2, 3, 4].foldl State.enableSlot s).tapeRamp 0
  | 4 =>
    let s := s.setMot { s.mot with
      moving := true, lposFrames := 0, lposBits := 0, reverse := false, lposKnown := false, phase := .none }
    let s := (s.startStep 0).wr F.CTL_TM_STATUS_MODE 3
    let s := (s.wr F.FMT_TSTATUS_WRAP 0).wr F.FMT_TSTATUS_PARTITION 0
    (((s.setRampMode 3 2).setRampTarget 3 (wrapTarget 0)).reelLimits 0).tapeRun 0
  | _ => s

/-- `LOAD_STAGE_DONE`: a stage of Table 08-7 ends and the next begins: seated, threading, threaded, servo acquired and
LPOS decoded, header and index read, end of data located. Without a valid header the medium is UNFORMATTED. -/
def execLoadStageDone (s : State) : Host.Outcome State Fault Refusal :=
  if s.medium.state != mStarting || s.medium.func != 1 || !s.tMode then .next s
  else
    match s.mot.loadStage with
    | 1 => .next ((s.setMot { s.mot with seated := true }).loadEnter 2)
    | 2 => .next (s.loadEnter 3)
    | 3 => .next (s.loadEnter 4)
    | 4 => if s.on F.CTL_TM_STATUS_SERVO_VALID && s.mot.lposKnown then .next (s.loadEnter 5) else .next s
    | 5 => if s.tape.header.isNone then .next (s.loadEnds mUnformatted) else .next (s.loadEnter 6)
    | 6 => .next (s.locateEnd.loadEnds mReady)
    | _ => .next s

/-! ## Stop and unload (R151, R179, R200) -/

/-- A stop that has to write its EOD and index data sets: the medium is READY, writable and has not failed. -/
def State.stopWrites (s : State) : Bool :=
  s.tape.header.isSome && !s.tape.protect && !s.medium.writeFailed && s.mot.unload = 0

/-- The rewind at step 15 to LPOS_BEGIN − 2,800; a tape that collapsed or is not threaded is not moved (R200). -/
def State.rewindTape (s : State) : State :=
  if s.mot.phase = .rewind || s.mot.phase = .unthread || s.mot.unload = 3 || !s.mot.threaded then s
  else
    let s := s.setMot { s.mot with
      moving := false, stopped := false, reading := false, locate := none, turning := false, phase := .rewind }
    (s.wr F.CTL_TM_STATUS_MODE 4).tapeRamp (-(stepVelocity 15 : Int))

/-- The stop goes on: at its admission the open data set closes; once started commands have ended the EOD data set follows
it; without writes, or after them, the rewind begins (R151, R200). -/
def State.advanceStop (s : State) : State :=
  if !s.tMode || s.medium.func != 2 then s
  else if s.medium.state = mFaulted then (if s.mot.unload != 0 then s.rewindTape else s)
  else if s.medium.state != mStopping then s
  else if s.tape.stopStage = 0 then
    let s := s.closeSet
    if s.mediumBusy then s
    else if s.stopWrites then
      let eod := { DataSet.new 1 (s.rd F.FMT_DS_NEXT_DS_NUM) 1 [] true with own := List.replicate 176 UnitRec.eod }
      (s.setTape { s.tape with stopStage := 1 }).addSet eod
    else (s.setTape { s.tape with stopStage := 3 }).rewindTape
  else if s.tape.stopStage = 3 then s.rewindTape
  else s

/-- `UNLOAD_DONE`: rewound and unthreaded, the medium is EMPTY and the STOP completes (R200). A collapsed tape stays for
manual recovery. -/
def execUnloadDone (s : State) : Host.Outcome State Fault Refusal :=
  let s := s.advanceStop
  let ready := s.tMode && s.medium.func = 2 && ((s.medium.state = mStopping && s.tape.stopStage = 3) ||
    (s.medium.state = mFaulted && s.mot.unload != 0))
  if !ready then .next s
  else
    let collapsed := s.mot.unload = 3
    let t := s.tape
    let s := s.setTape { t with
      sets := [], gather := [], frames := [], rwq := [], awaiting := [], last16 := [], slotFails := [], disturbs := []
      session := false, stopStage := 0, readAhead := [], readGood := [], rereads := [], stale := false
      present := t.present && !collapsed }
    let s := s.setMot { MotSt.init with radii := s.mot.radii }
    let s := [0, 1, 2, 3, 4].foldl State.disableSlot s
    let s := [0, 1, 2, 3].foldl (fun s l => s.enableLane l false) s
    let s := if collapsed then s else s.sendMdrv 4 5 2
    let s := ((s.wr F.CTL_TM_STATUS_MODE 0).wr F.FMT_TSTATUS_WSTATE 0).wr F.WRA_STATUS_TAPE_SQUELCH 1
    let s := (s.wr F.FMT_TRACK_SUSPECT_LO_TRACKS 0).wr F.FMT_TRACK_SUSPECT_HI_TRACKS 0
    let s := (s.wr F.FMT_TRACK_DEAD_LO_TRACKS 0).wr F.FMT_TRACK_DEAD_HI_TRACKS 0
    .next ((s.raise 7 0 0x206 0).syncLevel.stopReached)

end Sys2Proof.Machine
end

