-- ==== Sys2Proof/Machine/Sorrel.lean ====
section
/-!
DEFINITION. Lanes and the Sorrel detector pool: framing and the shift ladder, sample rings and spills, classes and
scheduling, exit checks, self-checks and spares, the retry ladder and tape re-reads (R20, R21, R237 to R263).
-/

namespace Sys2Proof.Machine

/-! ## Cells in service, spares and retirement (R21, R259 to R261) -/

/-- Cell `c` is in service. -/
def State.cellOn (s : State) (c : Nat) : Bool := bitAt (s.rd F.DET_CELL_MAP_IN_SERVICE) c

/-- Active cells. -/
def State.activeCells (s : State) : Nat := popCount 26 (s.rd F.DET_CELL_MAP_IN_SERVICE)

/-- The disk channels that may read at once: as many as the active cells carry at 4.2 Gb/s each, at most 4 (R261). -/
def State.readAllowance (s : State) : Nat := Nat.min 4 (9 * s.activeCells * 1667 / 42000)

/-- Cells neither in service nor retired, in ascending order: the spares. -/
def State.spareCells (s : State) : List Nat :=
  (List.range 26).filter (fun c => !s.cellOn c && !bitAt (s.rd F.DET_CELL_RETIRED_RETIRED) c)

/-- The status fields follow the cell map. -/
def State.showCells (s : State) : State :=
  ((s.wr F.DET_STATUS_ACTIVE s.activeCells).wr F.DET_STATUS_SPARES (Nat.min 2 s.spareCells.length)).wr
    F.DET_STATUS_DEGRADED (b2n (s.activeCells < 24))

/-- At start-up the retired cells come from MRAM and the first 24 others are in service (R260). -/
def State.initCells (s : State) : State :=
  let s := s.wr F.DET_CELL_RETIRED_RETIRED s.det.retiredRec
  let on := ((List.range 26).filter (fun c => !bitAt s.det.retiredRec c)).take 24
  (s.wr F.DET_CELL_MAP_IN_SERVICE (on.foldl setBit 0)).showCells

/-- A cell fails its built-in check for cause 1 parity, 2 self-check or 3 exit disagreement: it is retired, the
lowest-numbered spare comes in, and the codeword it held restarts there, or on the next free cell (R260). With no cell
left the medium is FAULTED (R261). -/
def State.retireCell (s : State) (c cause : Nat) : State :=
  let old := s.cell c
  let s := s.setCell c Cell.init
  let s := (s.raiseBit F.DET_CELL_RETIRED_RETIRED c).wr F.DET_CELL_MAP_IN_SERVICE
    (clrBit (s.rd F.DET_CELL_MAP_IN_SERVICE) c)
  let s := s.setDet { s.det with retiredRec := setBit s.det.retiredRec c }
  let s := (s.wr F.DET_ERR_STATUS_CELL_RETIRED 1).raise 4 c 0x001 cause
  match s.spareCells with
  | sp :: _ =>
    let s := (s.raiseBit F.DET_CELL_MAP_IN_SERVICE sp).showCells
    let s := s.setCell sp { Cell.init with job := old.job, limit := old.limit }
    s.raise 4 sp 0x002 (sp + s.activeCells * 256)
  | [] =>
    let s := s.showCells
    let s := s.setDet { s.det with restart := s.det.restart ++ old.job.toList }
    let s := (s.wr F.DET_ERR_STATUS_SPARES_OUT 1).raise 4 0 0x003 s.activeCells
    if s.activeCells = 0 && s.medium.state != mEmpty && s.medium.state != mStopped then
      (if s.tMode then s.mediaFault false else s.diskFaulted)
    else s

/-! ## Classes and scheduling (R251 to R255) -/

/-- Sorrel is congested (R255). -/
def State.congested (s : State) : Bool :=
  s.rd F.DET_CFG_CONGEST < s.det.waiting.countP (fun j => j.list = .verify || j.list = .read)

/-- The iteration limit a codeword starts with (Tables 10-8 and 10-9). -/
def State.iterLimit (s : State) (j : Job) : Nat :=
  match j.cls with
  | .verify => 3
  | .read => if s.congested then Nat.min (s.rd F.DET_CFG_READ_ITER) 6 else s.rd F.DET_CFG_READ_ITER
  | .readback => s.rd F.FMT_DZ_CFG_VERIFY_ITER
  | .background => s.rd F.DET_CFG_READ_ITER
  | .retry =>
    if j.step = 15 then 50
    else if j.step = 0 then (if s.congested then Nat.min (s.rd F.DET_CFG_READ_ITER) 6 else s.rd F.DET_CFG_READ_ITER)
    else s.rd F.LANE_RETRY_CFG_RETRY_ITER

/-- The free cell with the lowest number. -/
def State.freeCell (s : State) : Option Nat :=
  (List.range 26).find? (fun c => s.cellOn c && (s.cell c).job.isNone && !(s.cell c).kat)

/-- Codewords of READBACK, RETRY and BACKGROUND that have waited AGE_US or more move to the tail of READ (R253). -/
def State.promote (s : State) (now : Nat) : State :=
  let old := fun (j : Job) => !j.promoted && (j.cls = .readback || j.cls = .retry || j.cls = .background) &&
    s.rd F.DET_CFG_AGE_US ≤ now - j.since
  let up := fun (k : SClass) => (s.det.waiting.filter (fun j => old j && j.cls = k)).map (fun j =>
    { j with promoted := true })
  s.setDet { s.det with
    waiting := s.det.waiting.filter (fun j => !old j) ++ up .readback ++ up .retry ++ up .background }

/-- The VERIFY codeword with the earliest deadline, the lower lane on ties (R253). -/
def earliest (l : List Job) : Option Job :=
  (l.filter (fun j => j.cls = .verify)).foldl (fun m j =>
    match m with
    | none => some j
    | some k => if j.since < k.since || (j.since = k.since && j.lane < k.lane) then some j else some k) none

/-- The next codeword of the classes other than VERIFY: none while the formatter writes tape (R253, R254). -/
def State.nextOther (s : State) : Option Job :=
  if s.tMode && s.tapeWriting then none
  else
    let head := fun (k : SClass) => s.det.waiting.find? (fun j => j.list = k)
    (head .read).or ((head .readback).or ((head .retry).or (head .background)))

/-- The reads that are averaged for a ladder step, and whether samples flagged under R257 get zero reliability
(Table 10-9). -/
def averagedReads (step : Nat) : Nat := if step = 11 || step = 12 then 4 else if step = 13 || step = 15 then 8 else 1
def erases (step : Nat) : Bool := step = 12 || step = 13 || step = 15

/-- Start a codeword on the lowest-numbered free cell, with its samples formed under the readers' weights (R250). -/
def State.startJob (s : State) (j : Job) : State :=
  match s.freeCell with
  | none => s
  | some c =>
    let s := s.setDet { s.det with waiting := s.det.waiting.filter (fun k => k.id != j.id)
                                   restart := s.det.restart.filter (fun k => k.id != j.id) }
    let j := { j with
      weight := s.readerWeight j.lane j.step, average := averagedReads j.step, erase := erases j.step && j.asperity }
    s.setCell c { s.cell c with job := some j, limit := s.iterLimit j }

/-! ## The shift ladder (R243) -/

/-- The order of the offsets. -/
def shiftOrder : List Int := [0, 1, -1, 2, -2, 3, -3, 4, -4]

/-- The candidates of the shift ladder for a deviation δ = b − a − 17,968: the positions of the first and of the second
half counted from a, later duplicates removed. -/
def shiftCands (d : Int) : List (Int × Int) :=
  (shiftOrder.map (fun k => (d + k, 17968 + d)) ++ shiftOrder.map (fun k => ((0 : Int), 17968 + k))).eraseDups

/-- Insert by W0, after the candidates with the same W0. -/
def insertByW (c : Nat × Int × Int) : List (Nat × Int × Int) → List (Nat × Int × Int)
  | [] => [c]
  | d :: t => if c.1 < d.1 then c :: d :: t else d :: insertByW c t

/-- The candidates in stable order of their W0, the first `n` of them. -/
def rankCands (n : Nat) (w : List Nat) (cs : List (Int × Int)) : List (Int × Int) :=
  (((List.range cs.length).foldl (fun acc i =>
    insertByW ((w[i]?).getD 2560, (cs[i]?).getD (0, 0)) acc) []).take n).map (fun p => p.2)

/-! ## The retry ladder (R262) -/

/-- A step of Table 10-9 that uses retained samples. -/
def retainedStep (n : Nat) : Bool := n ≤ 3 || n = 12

/-- The head of a disk target. -/
def State.targetHead (s : State) : Target → Nat
  | .zone z _ => s.zoneSurface z
  | .landing h _ => h
  | _ => 0

/-- The track, as a number that differs between tracks, of a disk target. -/
def State.targetTrack (s : State) : Target → Nat
  | .zone z pos => (s.zone z).track + (((s.zone z).tracks.takeWhile (fun t => t.2 ≤ pos)).length)
  | .landing _ pos => pos / 512
  | _ => 0

/-- The owner of a disk sector learns how its read ended (R204, R227, R228). -/
def State.sectorEnd (s : State) (t : Target) (step : Nat) (recovered : Bool) : State :=
  let s := s.headRead (s.targetHead t) (s.targetTrack t) recovered
  match t with
  | .zone z pos => s.zoneRead z pos step recovered
  | .landing h pos => s.landingRead h pos recovered
  | _ => s

/-- The microactuator offset of an actuator in 1/1024 of the track pitch while a re-read of ladder step 6 or 7 is due on one
of its lanes (Table 10-9). -/
def State.ladderOffset (s : State) (a : Nat) : Int :=
  match s.det.ladders.find? (fun j => (j.lane - 68) / 4 = a && (j.step = 6 || j.step = 7)) with
  | none => 0
  | some j =>
    let o : Int := (s.rd F.LANE_RETRY_CFG_OFFSET_PCT * 1024 / 100 : Nat)
    if j.step = 6 then o else -o

/-- A re-read step of the ladder is set up and waits for its re-reads: step 5 resets the equalizer of the lane, steps 8 and
9 move its CTF boost by 2 dB, step 10 raises the reader bias and then lowers it (R262, R274). -/
def State.setUpReread (s : State) (j : Job) : State :=
  let s := if j.step = 5 then s.setLane j.lane { s.lane j.lane with taps := [] } else s
  let s := if j.step = 8 then s.setLane j.lane { s.lane j.lane with ctf := 4 }
    else if j.step = 9 then s.setLane j.lane { s.lane j.lane with ctf := -4 } else s
  let s := if j.step = 10 then
      let b : Int := s.rd F.WRA_D_CFG_BIAS_STEP
      (s.sendBias (s.targetHead j.target) b).sendBias (s.targetHead j.target) (-b)
    else s
  s.setDet { s.det with ladders := s.det.ladders ++ [j] }

/-- The re-reads of a ladder step are over: the CTF boost and the head's bias are restored (R262, R274). -/
def State.rereadOver (s : State) (j : Job) : State :=
  let s := s.setDet { s.det with ladders := s.det.ladders.filter (fun k => k.id != j.id) }
  let s := if j.step = 8 || j.step = 9 then s.setLane j.lane { s.lane j.lane with ctf := 0 } else s
  if j.step = 10 then s.sendBias (s.targetHead j.target) 0 else s

/-- The ladder goes on with step `n`: a re-read step waits for its re-read; past LAST_STEP the sector is not
recovered (R262). -/
def State.ladderStep (s : State) (j : Job) (n : Nat) : State :=
  if s.rd F.LANE_RETRY_CFG_LAST_STEP < n then (s.freeSamples j).sectorEnd j.target n false
  else
    let j := { j with cls := .retry, step := n, promoted := false, cands := [], probing := false }
    if retainedStep n then s.setDet { s.det with waiting := s.det.waiting ++ [j] }
    else (s.freeSamples j).setUpReread j

/-- A sector enters the retry ladder at a step (R262). -/
def State.enterLadder (s : State) (j : Job) (n : Nat) : State := (s.lifeAdd 72 1).ladderStep j n

/-! ## Tape reads (R158, R258) -/

/-- The units of a data set on tape whose codewords a bitmap names. -/
def State.cwUnits (s : State) (part ds m : Nat) : List Nat :=
  match s.tape.onTape.find? (fun d => d.part = part && d.num = ds) with
  | none => []
  | some d => (List.range d.units.length).filterMap (fun i => if bitAt m i then d.units[i]? else none)

/-- The codewords of a data set that L2 does not give back: none of more than 16 missing ones; of 16 or fewer each is
recovered by erasure decoding, and a data codeword whose media tag then fails is lost (R158). -/
def DataSet.l2Lost (d : DataSet) (m : Nat) : Nat :=
  if 16 < popCount 192 m then m
  else
    let good := (List.range 192).filterMap (fun i => if bitAt m i then none else (d.image[i]?).map (fun p => (i, p)))
    (l2Recover (onesOf 192 m) good).foldl (fun a p =>
      if p.1 < 176 && crc64 (p.2.drop 64) != leAt p.2 56 8 then setBit a p.1 else a) 0

/-- The reads of a data set are over: L2 recovers what it can; the rest is lost, in solo under R48 with cause 4; in a group
the strips that hold it have lost ranges from now on, which L3 restores. The set is read (R158, R183, R258, R369). -/
def State.tapeLost (s : State) (part ds m : Nat) : State :=
  let k := ds + part * 2 ^ 32
  let s := s.setTape { s.tape with rereads := s.tape.rereads.filter (fun r => r.1 != k) }
  let gone := match s.tape.onTape.find? (fun d => d.part = part && d.num = ds) with
    | some d => s.cwUnits part ds (d.l2Lost m)
    | none => []
  let s := if s.inGroup then gone.foldl (fun s u => s.setUnit u { s.unit u with lost := true }) s
    else s.loseUnits gone 4
  s.readSet k

/-- Once every codeword of a data set has been read as good or is missing, L2 runs; with more than 16 missing ones the data
set is sought and read again, up to TREAD times (R158, R258). -/
def State.tapeSettle (s : State) (part ds : Nat) : State :=
  let k := ds + part * 2 ^ 32
  let r := (s.tape.rereads.find? (fun r => r.1 = k)).getD (k, 0, 0)
  if popCount 192 (Nat.lor r.2.2 (Store.get 0 s.tape.readGood k)) != 192 then s
  else if popCount 192 r.2.2 ≤ 16 || s.rd F.LANE_RETRY_CFG_TREAD ≤ r.2.1 then s.tapeLost part ds r.2.2
  else s.seekSet part ds

/-- A codeword of a data set left Sorrel as good, and stands: it is missing no more (R174). -/
def State.tapeGood (s : State) (part ds cw : Nat) : State :=
  let k := ds + part * 2 ^ 32
  let g := setBit (Store.get 0 s.tape.readGood k) cw
  let s := s.setTape { s.tape with
    readGood := Store.put 0 s.tape.readGood k g
    rereads := s.tape.rereads.map (fun r => if r.1 = k then (k, r.2.1, clrBit r.2.2 cw) else r) }
  s.tapeSettle part ds

/-- A codeword of a data set is missing after its own retry, unless a good copy of it stands (R174, R258). -/
def State.tapeMissing (s : State) (part ds cw : Nat) : State :=
  let k := ds + part * 2 ^ 32
  if bitAt (Store.get 0 s.tape.readGood k) cw then s
  else
    let old := (s.tape.rereads.find? (fun r => r.1 = k)).getD (k, 0, 0)
    let m := setBit old.2.2 cw
    let s := s.setTape { s.tape with rereads := (s.tape.rereads.filter (fun r => r.1 != k)) ++ [(k, old.2.1, m)] }
    s.tapeSettle part ds

/-- `TAPE_REREAD_DONE`: a re-read of a data set ends with a set of codewords that left Sorrel as good; L2 runs again
(R174, R258). -/
def execTapeRereadDone (part : Bool) (ds : BitVec 32) (good : BitVec 192) (s : State) :
    Host.Outcome State Fault Refusal :=
  let p := b2n part
  let n := ds.toNat
  let k := n + p * 2 ^ 32
  match s.tape.rereads.find? (fun r => r.1 = k) with
  | none => .next s
  | some r =>
    if popCount 192 r.2.2 ≤ 16 then .next s
    else
      let m := (onesOf 192 r.2.2).foldl (fun a i => if bitAt good.toNat i then a else setBit a i) 0
      let tries := r.2.1 + 1
      let s := s.setTape { s.tape with
        rereads := (s.tape.rereads.filter (fun e => e.1 != k)) ++ [(k, tries, m)]
        readGood := Store.put 0 s.tape.readGood k (Nat.lor (Store.get 0 s.tape.readGood k) good.toNat) }
      .next (s.tapeSettle p n)

/-! ## A codeword completes (R242 to R245) -/

/-- MARGIN of a codeword from its W0 (R161). -/
def marginOf (w0 : Nat) : Nat := 255 - Nat.min 255 (w0 / 4)

/-- Marks not found on a target's framing. -/
def Framing.missing (tape : Bool) : Framing → Nat
  | .both _ _ _ => 0
  | .aOnly => if tape then 0 else 1
  | .bOnly _ => 1
  | .neither => if tape then 1 else 2

/-- The largest A–B deviation that the shift ladder takes: 4 bits, 16 at step 14 (R243, Table 10-9). -/
def shiftReach (step : Nat) : Nat := if step = 14 then 16 else 4

/-- Framing of a sector by the marks found (Table 09-7): none when it fails framing, else the deviation that the shift
ladder has to settle, 0 for none. -/
def Framing.frame (step : Nat) : Framing → Option Int
  | .both d aN bN =>
    let v := toSigned 16 d.toNat
    if v = 0 then some 0
    else if v.natAbs ≤ shiftReach step then some v
    else if aN != bN then some 0
    else none
  | .aOnly => some 0
  | .bOnly r => if r then some 0 else none
  | .neither => none

/-- A replay from mark B failed (R244). -/
def Framing.replayFailed : Framing → Bool
  | .bOnly r => !r
  | _ => false

/-- The record of a codeword whose samples have come in: it waits in its class, or its framing failed. -/
def State.takeJob (s : State) (j : Job) (f : Framing) : State :=
  match f.frame j.step with
  | none => if j.step = 0 then s.enterLadder j 4 else s.ladderStep j (j.step + 1)
  | some d =>
    let j := if d = 0 then j else { j with cls := .retry, delta := d, cands := shiftCands d, probing := true }
    s.setDet { s.det with waiting := s.det.waiting ++ [j] }

/-- Samples of a new codeword enter the ring: when it is full the oldest codeword spills, and when the overflow region
has no room the newest codeword is dropped: false (R245, R246). -/
def State.ringIn (s : State) (lane : Nat) : State × Bool :=
  let n := (s.lane lane).ring + sampleBytes lane
  if n ≤ ringBytes lane then (s.setRingLevel lane n, true)
  else
    match s.spillOne lane with
    | some s => (s.setRingLevel lane ((s.lane lane).ring + sampleBytes lane), true)
    | none => ((s.wr F.LANE_ERR_STATUS_SPILL_DROP 1).raise 4 0 0x005 (lane + 256), false)

/-- The target that a command names, as the model holds it; a verify codeword is the copy that awaits its decision on
the lane's track in the slot. A lane that the personality gates gives none, nor does a codeword that lies on no frame of
the data set (R27, R174). -/
def State.targetOf (s : State) (lane : Nat) : CwTarget → Option Target
  | .verify slot =>
    if !s.tMode then none
    else (s.tape.awaiting.find? (fun c => c.track = lane && c.slot = slot.toNat)).map Target.verify
  | .tape p ds cw =>
    if s.tMode && lane < 64 && s.tape.holdsCw (b2n p) ds.toNat cw.toNat then
      some (.tapeRead (b2n p) ds.toNat cw.toNat)
    else none
  | .zone z pos => if s.dMode && 68 ≤ lane && lane < 76 then some (.zone z.toNat pos.toNat) else none
  | .landing h pos => if s.dMode && 68 ≤ lane && lane < 76 then some (.landing h.toNat pos.toNat) else none

/-- The class of a target under its use (Table 10-8). -/
def classOf : Target → CwUse → SClass
  | .verify _, _ => .verify
  | _, .read => .read
  | _, .readback => .readback
  | _, .background => .background

/-- A sector fails framing: a read-back fails, another read enters the ladder, whose steps on the same samples would fail
framing again, at its first re-read (R215, R224; log entry 23). -/
def State.unframed (s : State) (j : Job) : State :=
  match j.target with
  | .zone z pos =>
    if s.disk.readBacks.any (fun r => r.zone = z && r.pos = pos) then (s.freeSamples j).failReadBack z pos
    else s.enterLadder j 4
  | _ => s.enterLadder j 4

/-- The samples of a sector were dropped: a read-back fails, another read enters the ladder at its first re-read
(R246). -/
def State.dropped (s : State) (j : Job) : State :=
  let go := (s.lifeAdd 72 1).setDet { (s.lifeAdd 72 1).det with
    ladders := (s.lifeAdd 72 1).det.ladders ++ [{ j with cls := .retry, step := 4 }] }
  match j.target with
  | .zone z pos =>
    if s.disk.readBacks.any (fun r => r.zone = z && r.pos = pos) then s.failReadBack z pos else go
  | _ => go

/-- A data channel delivers nothing of a head: while too few cells are active for one channel to read, while it runs a
re-read step of another head, or while the head is not the servo head and |PES + r| is above twice the write-inhibit limit
(R261, R262, R297). -/
def State.headBarred (s : State) (lane : Nat) (t : Target) : Bool :=
  let h := s.targetHead t
  let a := (lane - 68) / 4
  let r := s.pairResidual (s.servoHead a) h (s.act a).track
  68 ≤ lane && (s.readAllowance = 0 || s.det.ladders.any (fun j => j.lane / 2 = lane / 2 && s.targetHead j.target != h) ||
    (h != s.servoHead a && decide (2 * s.rd F.CTL_DK_LIMIT_WI_PCT * 1024 < ((s.act a).pes + r).natAbs * 100)))

/-- A disk channel's head is disconnected from it (R272). -/
def State.deselect (s : State) (c : Nat) : State :=
  (s.sendPac (c / 2) 1 (s.headOnAct (s.chan c).head) c 0).setChan c { s.chan c with head := 24 }

/-- The channel of a data lane reads a head: unless it writes or is armed, the head is connected to it for reading (R272,
Table 11-4). No more channels than Betony allows read at once: the highest of the others are disconnected, DESIGN CHOICE,
R261 does not say which (R261; log entry 63). -/
def State.readSelect (s : State) (lane h : Nat) : State :=
  let c := (lane - 68) / 2
  if lane < 68 || 2 ≤ s.chanClass c then s
  else
    let others := (List.range 4).filter (fun d => d != c && s.chanClass d = 1)
    let s := (others.drop (s.readAllowance - 1)).foldl State.deselect s
    if (s.chan c).head = h then s
    else (s.sendPac (c / 2) 1 (s.headOnAct h) c 1).setChan c { s.chan c with head := h }

/-- `CODEWORD_COMPLETE`: the last bit of a codeword is in its lane's ring: the lane's timing loop has run over it, the
marks are searched for and those not found counted, the codeword is framed and queued (R236 to R246). -/
def execCodewordComplete (lane : BitVec 7) (target : CwTarget) (use : CwUse) (marks : MarkScan) (run : LaneRun)
    (asperity : Bool) (now : BitVec 64) (s : State) : Host.Outcome State Fault Refusal :=
  let n := lane.toNat
  let tape := decide (n < 64)
  match s.targetOf n target with
  | none => .next s
  | some t =>
    if s.headBarred n t then .next s
    else
    let framing := if tape then s.tapeMark marks else s.diskMarks 1 marks
    let (s, drop) := (s.readSelect n (s.targetHead t)).runLane n 0 run
    let s := s.addi F.LANE_SYNC_MISS_COUNT n (framing.missing tape)
    let s := if !tape && s.fragMissed marks then s.inc F.FMT_FRAG_MISS_COUNT else s
    let s := if framing.replayFailed then s.wr F.LANE_ERR_STATUS_REPLAY_FAIL 1 else s
    let j : Job := {
      id := s.det.nextJob, lane := n, cls := classOf t use, target := t, since := now.toNat, spilled := false
      delta := 0, drop := drop, asperity := asperity, step := 0, promoted := false, cands := [], probing := false
      weight := 128, average := 1, erase := false }
    let s := s.setDet { s.det with nextJob := s.det.nextJob + 1 }
    let noMark := tape && decide (framing = .neither)
    match t with
    | .verify c =>
      if noMark then .next (s.verifyDecide c false false)
      else
        match s.ringIn n with
        | (s, true) => .next (s.setDet { s.det with waiting := s.det.waiting ++ [j] })
        | (s, false) => .next (s.verifyDecide c false false)
    | .tapeRead p ds cw =>
      if noMark then .next (s.tapeMissing p ds cw)
      else
        match s.ringIn n with
        | (s, true) => .next (s.setDet { s.det with waiting := s.det.waiting ++ [j] })
        | (s, false) => .next (s.tapeMissing p ds cw)
    | _ =>
      match s.ringIn n with
      | (s, true) =>
        if (framing.frame 0).isNone then .next (s.unframed j) else .next (s.takeJob j framing)
      | (s, false) => .next (s.dropped j)

/-- `RETRY_REREAD_DONE`: the re-reads of a ladder step are complete: the lane has run over the sector again, and its decode
is queued on the framing of its own samples; step 5 adapts the equalizer 4 powers of two faster, step 14 searches windows
4 times as wide (R262). -/
def execRetryRereadDone (target : CwTarget) (run : LaneRun) (marks : MarkScan) (now : BitVec 64) (s : State) :
    Host.Outcome State Fault Refusal :=
  match s.targetOf 68 target with
  | none => .next s
  | some t =>
    match s.det.ladders.find? (fun j => j.target = t) with
    | none => .next s
    | some j =>
      let framing := s.diskMarks (if j.step = 14 then 4 else 1) marks
      let s := (s.rereadOver j).readSelect j.lane (s.targetHead t)
      let (s, drop) := s.runLane j.lane (if j.step = 5 then 4 else 0) run
      let s := s.addi F.LANE_SYNC_MISS_COUNT j.lane (framing.missing false)
      let s := if s.fragMissed marks then s.inc F.FMT_FRAG_MISS_COUNT else s
      let s := if framing.replayFailed then s.wr F.LANE_ERR_STATUS_REPLAY_FAIL 1 else s
      let j := { j with since := now.toNat, spilled := false, drop := drop }
      match s.ringIn j.lane with
      | (s, true) => .next (s.takeJob j framing)
      | (s, false) => .next (s.setDet { s.det with ladders := s.det.ladders ++ [j] })

/-! ## A cell becomes free (R253) -/

/-- A codeword leaves Sorrel: it waits no more, is not restarted, and frees the cell it is in. -/
def State.leaveSorrel (s : State) (id : Nat) : State :=
  let s := s.setDet { s.det with
    waiting := s.det.waiting.filter (fun k => k.id != id)
    restart := s.det.restart.filter (fun k => k.id != id) }
  (List.range 26).foldl (fun s c =>
    if (s.cell c).job.any (fun k => k.id = id) then s.setCell c { s.cell c with job := none } else s) s

/-- The codeword with an identifier whose samples a ring or the overflow region holds. -/
def State.jobOf (s : State) (id : Nat) : Option Job :=
  (s.det.restart ++ s.det.waiting ++ (List.range 26).filterMap (fun c => (s.cell c).job)).find? (fun j => j.id = id)

/-- The outcome of a codeword whose samples came back poisoned (R246). -/
def State.poisoned (s : State) (j : Job) : State :=
  let s := (s.wr F.LANE_ERR_STATUS_SPILL_POISON 1).raise 4 0 0x005 j.lane
  let s := (s.leaveSorrel j.id).freeSamples j
  match j.target with
  | .verify c => s.verifyDecide c false false
  | .tapeRead p ds cw => s.tapeMissing p ds cw
  | .zone z pos =>
    if s.disk.readBacks.any (fun r => r.zone = z && r.pos = pos) then s.failReadBack z pos
    else s.setDet { s.det with ladders := s.det.ladders ++ [{ j with cls := .retry, step := Nat.max 4 j.step, spilled := false }] }
  | .landing _ _ =>
    s.setDet { s.det with ladders := s.det.ladders ++ [{ j with cls := .retry, step := Nat.max 4 j.step, spilled := false }] }

/-- VERIFY codewords that have not started and whose deadline has passed are not started: their decisions are late (R163,
R252). -/
def State.expireVerify (s : State) (now : Nat) : State :=
  let past := fun (j : Job) => decide (j.cls = .verify) && decide (j.since + 400 < now)
  let l := (s.det.restart ++ s.det.waiting).filter past
  let s := s.setDet { s.det with waiting := s.det.waiting.filter (fun j => !past j)
                                 restart := s.det.restart.filter (fun j => !past j) }
  l.foldl (fun s j =>
    match j.target with
    | .verify c => (s.freeSamples j).verifyDecide c false true
    | _ => s.freeSamples j) s

/-- `CELL_FREE_DISPATCH`: the procedure of R253 for a free cell at time `now` in µs: promotion by age, the self-check that
a miscorrection calls for, a codeword to restart, then VERIFY by deadline, the cell's self-check when due, then the other
classes. `poison` says that the samples of the codeword chosen were spilled and came back poisoned (R246, R256). -/
def execCellFreeDispatch (cell : BitVec 5) (now : BitVec 64) (poison : Bool) (s : State) :
    Host.Outcome State Fault Refusal :=
  let c := cell.toNat
  if !s.cellOn c || (s.cell c).job.isSome || (s.cell c).kat then .next s
  else
    let s := (s.promote now.toNat).expireVerify now.toNat
    let go := fun (s : State) (j : Job) => if poison && j.spilled then s.poisoned j else s.startJob j
    if (s.cell c).katFirst then .next (s.setCell c { s.cell c with kat := true })
    else
    match s.det.restart with
    | j :: _ => .next (go s j)
    | [] =>
      match earliest s.det.waiting with
      | some j => .next (go s j)
      | none =>
        if (s.cell c).katDue then .next (s.setCell c { s.cell c with kat := true })
        else
          match s.nextOther with
          | some j => .next (go s j)
          | none => .next s

/-- `CELL_SELF_CHECK_DUE`: the self-check interval of a cell has passed (R259). -/
def execCellSelfCheckDue (cell : BitVec 5) (s : State) : Host.Outcome State Fault Refusal :=
  let c := cell.toNat
  .next (if s.cellOn c then s.setCell c { s.cell c with katDue := true } else s)

/-! ## A cell ends its work (R255, R256) -/

/-- A zone position is read for its read-back: the map does not point to it before it passes (R222, R223). -/
def State.isBack (s : State) (z pos : Nat) : Bool := s.disk.readBacks.any (fun r => r.zone = z && r.pos = pos)

/-- A sector's decode failed: a read-back goes to R224, another read on to the retry ladder at step 1 or the next. -/
def State.sectorFailed (s : State) (j : Job) (first : Nat) : State :=
  let go := fun (s : State) => if j.step = 0 then s.enterLadder { j with cands := [] } first
    else s.ladderStep { j with cands := [] } (j.step + 1)
  match j.target with
  | .zone z pos => if s.isBack z pos then (s.freeSamples j).failReadBack z pos else go s
  | _ => go s

/-- A codeword left Sorrel as failed: to its owner (R256). -/
def State.cwFailed (s : State) (j : Job) (late : Bool) : State :=
  let s := s.inc F.DET_CW_FAIL_COUNT
  match j.target with
  | .verify c => (s.freeSamples j).verifyDecide c false late
  | .tapeRead p ds cw =>
    if j.step = 0 then
      s.setDet { s.det with waiting := s.det.waiting ++ [{ j with cls := .retry, step := 1, promoted := false }] }
    else (s.freeSamples j).tapeMissing p ds cw
  | _ =>
    match j.cands with
    | _ :: c :: rest =>
      s.setDet { s.det with waiting := s.det.waiting ++ [{ j with cands := c :: rest, promoted := false }] }
    | _ :: [] => s.sectorFailed j 4
    | [] => s.sectorFailed j 1

/-- The identity that a codeword shows is the one its owner expects: for a verify codeword the good CWID copy equals the
CWID written; for a tape codeword it names the data set and codeword in the session whose frames stand; for a sector the
five fields of its header agree with what the map, or the read-back, expects there (R155, R160, R174, R212). -/
def State.identityOk (s : State) (t : Target) (id : CwIdent) : Bool :=
  match t, id with
  | .verify c, .cwid a b =>
    match s.tape.written.find? (fun r => r.part = s.rd F.FMT_TSTATUS_PARTITION && r.slot = c.slot) with
    | some r => cwidRead (leBytes 24 a.toNat) (leBytes 24 b.toNat) = some (s.cwidOf c r.wrap r.pass)
    | none => false
  | .tapeRead p ds cw, .cwid a b =>
    match cwidRead (leBytes 24 a.toNat) (leBytes 24 b.toNat) with
    | some c => s.tape.names p ds cw c
    | none => false
  | .verify _, .header _ | .tapeRead _ _ _, .header _ => false
  | t, .header h =>
    match s.expectedAt t with
    | some (u, life) => headerAgrees (leBytes 64 h.toNat) u life
    | none => true
  | _, .cwid _ _ => false

/-- A codeword left Sorrel as good: to its owner, who checks identity and margin (R212, R223, Table 07-5). -/
def State.cwGood (s : State) (j : Job) (identity : Bool) (w0 : Nat) (late : Bool) : State :=
  let s := s.add64 F.DET_CW_GOOD_LO_COUNT F.DET_CW_GOOD_HI_COUNT 1
  match j.target with
  | .verify c =>
    (s.freeSamples j).verifyDecide c (identity && decide (s.rd F.FMT_RWW_MARGIN_THRESHOLD ≤ marginOf w0)) late
  | .tapeRead p ds cw =>
    if identity then (s.freeSamples j).tapeGood p ds cw else (s.freeSamples j).tapeMissing p ds cw
  | .zone z pos =>
    if s.isBack z pos then
      if identity && s.rd F.FMT_DZ_CFG_MARGIN ≤ marginOf w0 then (s.freeSamples j).passReadBack z pos
      else (s.freeSamples j).failReadBack z pos
    else if identity then (s.freeSamples j).sectorEnd j.target j.step true
    else s.sectorFailed j 1
  | .landing _ _ =>
    if identity then (s.freeSamples j).sectorEnd j.target j.step true else s.sectorFailed j 1

/-- One more codeword has run on a cell: after KAT_CW × 1,024 its self-check is due (R259). -/
def State.cellDone (s : State) (c : Nat) : State :=
  let v := s.cell c
  let n := v.sinceKat + 1
  s.setCell c { v with job := none, sinceKat := n, katDue := v.katDue || decide (s.rd F.DET_KAT_CFG_KAT_CW * 1024 ≤ n) }

/-- `CELL_CODEWORD_END`: a cell's work ends at time `now` in µs, and the exit checks decide (R255 to R260). -/
def execCellCodewordEnd (cell : BitVec 5) (now : BitVec 64) (res : CellRes) (s : State) :
    Host.Outcome State Fault Refusal :=
  let c := cell.toNat
  match (s.cell c).job, res with
  | some _, .parity => .next (s.retireCell c 1)
  | none, .parity => .next (if (s.cell c).kat then s.retireCell c 1 else s)
  | none, .selfCheck ok =>
    if !(s.cell c).kat then .next s
    else if ok then .next (s.setCell c { s.cell c with kat := false, katDue := false, katFirst := false, sinceKat := 0 })
    else .next (s.retireCell c 2)
  | some j, .probes w =>
    if j.probing then
      let cs := rankCands (s.rd F.LANE_RETRY_CFG_LADDER_DECODES) (w.map (fun x => x.toNat)) j.cands
      let s := s.setCell c { s.cell c with job := none }
      .next (s.setDet { s.det with waiting := s.det.waiting ++ [{ j with cands := cs, probing := false, promoted := false }] })
    else .next s
  | some j, .decode conv syn tag ident w0 iters =>
    if j.probing then .next s
    else
      let n := Nat.min (s.cell c).limit iters.toNat
      let s := s.add64 F.DET_ITER_LO_COUNT F.DET_ITER_HI_COUNT n
      let late := decide (j.cls = .verify) && decide (j.since + 400 < now.toNat)
      if conv && !syn then .next (s.retireCell c 3)
      else
        let s := s.cellDone c
        if conv && syn && tag then .next (s.cwGood j (s.identityOk j.target ident) w0.toNat late)
        else if conv && syn then
          let s := (s.inc F.DET_MISCORR_COUNT).wr F.DET_ERR_STATUS_MISCORRECT 1
          let s := s.raise 4 c 0x004 (j.lane + w0.toNat * 256)
          let s := s.setCell c { s.cell c with katDue := true, katFirst := true }
          .next (s.cwFailed j late)
        else .next (s.cwFailed j late)
  | _, _ => .next s

/-- `VERIFY_DEADLINE`: 400 µs after its read-back instant a VERIFY codeword is stopped, or never started, and its
decision is late (R163, R252). -/
def execVerifyDeadline (track : BitVec 6) (slot : BitVec 64) (s : State) : Host.Outcome State Fault Refusal :=
  match s.tape.awaiting.find? (fun c => c.track = track.toNat && c.slot = slot.toNat) with
  | none => .next s
  | some c =>
    let isIt := fun (j : Job) => decide (j.target = Target.verify c)
    let held := s.det.waiting.filter isIt ++ s.det.restart.filter isIt
    let s := s.setDet { s.det with waiting := s.det.waiting.filter (fun j => !isIt j)
                                   restart := s.det.restart.filter (fun j => !isIt j) }
    let s := held.foldl State.freeSamples s
    let s := (List.range 26).foldl (fun s k =>
      match (s.cell k).job with
      | some j => if isIt j then (s.freeSamples j).cellDone k else s
      | none => s) s
    .next (s.verifyDecide c false true)

end Sys2Proof.Machine
end

