-- ==== Sys2Proof/Machine/Trace.lean ====
section
/-!
DEFINITION. The trace unit: recording, the trigger, DONE, and the writes of TRC.CTL (R301 to R303).
-/

namespace Sys2Proof.Machine

/-- The trace unit replaced. -/
def State.setTrc (s : State) (t : TrcSt) : State := { s with trc := t }

/-- Entries a channel holds at most. -/
def traceDepth : Nat := 65536

/-- The enabled channels. -/
def State.traceOn (s : State) : List Nat := (List.range 16).filter (fun c => s.rdi F.TRC_CH_SRC_EN c != 0)

/-- The unit enters DONE: event 0x508 (R301, Table 12-10). -/
def State.traceDone (s : State) : State :=
  (s.wr F.TRC_STATUS_STATE 3).raise 7 0 0x508 (s.rdi F.TRC_CH_COUNT_COUNT 0)

/-- Every enabled channel is full. -/
def State.traceFull (s : State) : Bool := s.traceOn.all (fun c => traceDepth ≤ (Store.get [] s.trc.chans c).length)

/-- A signal of Table 12-9 of a slot as a 32-bit word, for a sample at instant `now`. -/
def State.traceSignal (s : State) (n sig now : Nat) : Nat :=
  let sl := s.slotOf n
  let stage := fun k => ofSigned 32 ((sl.stages[k]?).getD 0)
  match sig with
  | 0 => ofSigned 32 sl.sp
  | 1 => ofSigned 32 sl.fb
  | 2 => stage 0
  | 3 => stage 1
  | 4 => stage 2
  | 5 => stage 3
  | 6 => stage 4
  | 7 => stage 5
  | 8 => stage 6
  | 9 => stage 7
  | 10 => s.rdi F.CTL_SLOT_OUT_OUT n
  | 11 => ofSigned 32 sl.current
  | 12 => ofSigned 32 sl.x
  | 13 => ofSigned 32 sl.v
  | 14 => sl.status + 4 * s.rdi F.CTL_SLOT_STATUS_COUNT n
  | _ => now % 2 ^ 32

/-- The trigger of kinds 1 and 2 on a sample of the chosen slot: the signal crosses the level (R302). -/
def State.traceLevel (s : State) (n now : Nat) : State :=
  if s.rd F.TRC_TRIG_CFG_SLOT != n then s
  else
    let x := toSigned 32 (s.traceSignal n (s.rd F.TRC_TRIG_CFG_SIGNAL) now)
    let l := toSigned 32 (s.rd F.TRC_TRIG_LEVEL_LEVEL)
    let k := s.rd F.TRC_TRIG_CFG_KIND
    let hit := match s.trc.prev with
      | none => false
      | some p => (k = 1 && p < l && l ≤ x) || (k = 2 && l < p && x ≤ l)
    let s := s.setTrc { s.trc with prev := some x }
    if hit then s.trcTrigger else s

/-- One channel records an entry: into a circular buffer in ARMED, until it is full in TRIGGERED (R301). -/
def State.traceEntry (s : State) (c value time : Nat) : State :=
  let l := Store.get [] s.trc.chans c
  let st := s.rd F.TRC_STATUS_STATE
  if st = 1 || (st = 2 && l.length < traceDepth) then
    let l := (({ value := value, time := time } : TraceEntry) :: l).take traceDepth
    (s.setTrc { s.trc with chans := Store.put [] s.trc.chans c l }).wri F.TRC_CH_COUNT_COUNT c l.length
  else s

/-- A sample of slot `n` taken at `now`: the trigger is judged and every enabled channel of the slot records at the
output instant, 192 cycles later. -/
def State.traceSample (s : State) (n now : Nat) : State :=
  let s := s.traceLevel n now
  let s := s.traceOn.foldl (fun s c =>
    if s.rdi F.TRC_CH_SRC_SLOT c = n then
      s.traceEntry c (s.traceSignal n (s.rdi F.TRC_CH_SRC_SIGNAL c) now) ((now + 192) % 2 ^ 32)
    else s) s
  if s.rd F.TRC_STATUS_STATE = 2 && s.traceFull then s.traceDone else s

/-- A write of ARM: every channel is cleared and the unit is ARMED (R301). -/
def State.traceArm (s : State) : State :=
  let s := s.setTrc { chans := [], prev := none }
  let s := (List.range 16).foldl (fun s c => (s.wri F.TRC_CH_COUNT_COUNT c 0).wri F.TRC_CH_TRIG_INDEX c 0) s
  s.wr F.TRC_STATUS_STATE 1

/-- A write of FORCE: the trigger of kind 0 (R302). -/
def State.traceForce (s : State) : State := if s.rd F.TRC_TRIG_CFG_KIND = 0 then s.trcTrigger else s

/-- A write of ABORT: back to IDLE. -/
def State.traceAbort (s : State) : State := s.wr F.TRC_STATUS_STATE 0

/-- `TRC_ARM`: a host write of `TRC.CTL` with ARM. -/
def execTrcArm (port : Bool) (s : State) : Host.Outcome State Fault Refusal :=
  .next (if s.barsUp port then s.traceArm else s)

/-- `TRC_FORCE`: a host write of `TRC.CTL` with FORCE. -/
def execTrcForce (port : Bool) (s : State) : Host.Outcome State Fault Refusal :=
  .next (if s.barsUp port then s.traceForce else s)

/-- `TRC_ABORT`: a host write of `TRC.CTL` with ABORT. -/
def execTrcAbort (port : Bool) (s : State) : Host.Outcome State Fault Refusal :=
  .next (if s.barsUp port then s.traceAbort else s)

/-- `TRACE_DONE`: every enabled channel is full, or POST_MS has passed since the trigger: `postMs` says which the event
is (R301). -/
def execTraceDone (postMs : Bool) (s : State) : Host.Outcome State Fault Refusal :=
  .next (if s.rd F.TRC_STATUS_STATE = 2 && (postMs || s.traceFull) then s.traceDone else s)

/-- `TRC_RD_DATA_READ`: a requester reads `TRC.RD_DATA` (R303). -/
def execTrcRdDataRead (req : Req) (s : State) : Host.Outcome State Fault Refusal :=
  .next (if s.reqUp req then s.doRead req F.TRC_RD_DATA_VALUE.off else s)

end Sys2Proof.Machine
end

