-- ==== Sys2Proof/Machine/Wra.lean ====
section
/-!
DEFINITION. The write and assist block: frame slots on tape, the gates and channels of disk writes, the preamp's
responses, the assist loop, synthesizers and write faults (R264 to R280).
-/

namespace Sys2Proof.Machine

/-! ## Tape writing (R266, R267) -/

/-- Writing on tape can begin or go on: the tape moves settled at its step, the synthesizer is locked, no disturbance or
failure holds it, and before a session begins no cell holds a codeword of another class (R254, R265). -/
def State.mayWriteTape (s : State) : Bool :=
  let others := (List.range 26).any (fun c => match (s.cell c).job with
    | some j => !decide (j.cls = .verify)
    | none => false)
  s.tMode && s.mot.moving && !s.mot.repos && !s.mot.ramping && !s.mot.reacq && !s.mot.reading && !s.mot.turning &&
    s.mot.phase = .none && !s.medium.writeFailed &&
    s.on F.WRA_STATUS_TSYNTH_LOCK && s.on F.CTL_TM_STATUS_SETTLED && !s.on F.CTL_TM_STATUS_WRITE_INHIBIT &&
    s.rd F.FMT_TSTATUS_WSTATE < 2 && (s.tapeWriting || !others) && !s.on F.PWR_STATUS_BRACE

/-- A track without a frame in a slot in mid-session is written with a FILL frame: a slot for which nothing was built takes
64 of them (R165, R266). -/
def State.fillSlot (s : State) : State :=
  s.addFrames [(List.range 64).map (fun t => Copy.fill t s.tape.slot)]

/-- `FRAME_SLOT_START`: the instant of a frame slot. Outputs that are to be squelched at the end of the slot in progress
are squelched; otherwise the next frames go to tape on all 64 tracks, FILL frames where a session that runs has built
none. A slot that passes without writing, in a quiet point or before a stop, only advances F (R184, R185, R266, R267). -/
def execFrameSlotStart (s : State) : Host.Outcome State Fault Refusal :=
  if s.wra.squelchDue then
    .next ((s.setWra { s.wra with squelchDue := false }).wr F.WRA_STATUS_TAPE_SQUELCH 1)
  else if s.mayWriteTape && !s.tape.frames.isEmpty then .next ((s.wr F.WRA_STATUS_TAPE_SQUELCH 0).writeFrame)
  else if s.mayWriteTape && s.tapeWriting && s.mot.quiet.isNone then
    .next ((s.wr F.WRA_STATUS_TAPE_SQUELCH 0).fillSlot.writeFrame)
  else if s.tMode && s.mot.moving && s.tapeWriting then .next s.passSlot
  else .next s

/-! ## Assist faults (R277) -/

/-- A 24 h span in ms. -/
def dayMs : Nat := 86400000

/-- Every write of an actuator stops: its gates are released and its channels end their writes (Table 09-8). -/
def State.stopWrites' (s : State) (a : Nat) : State :=
  (s.releaseGates a).wr F.WRA_STATUS_CH_ARMED
    ((chansOf a).foldl clrBit (s.rd F.WRA_STATUS_CH_ARMED))

/-- An assist fault on a head: the writes of its actuator stop, and it is counted and reported; the third within 24 h of powered time fails the
head (causes 1 saturation, 2 following error, 3 preamp flag). -/
def State.assistFault (s : State) (h cause : Nat) : State :=
  let s := s.stopWrites' (s.actOf h)
  let s := (s.inc F.WRA_FAULTS_ASSIST).wr F.WRA_ERR_STATUS_ASSIST_FAULT 1
  let s := s.raise 7 h 0x402 cause
  let l := Store.get HeadLoop.init s.wra.loops h
  let fs := (s.life.ms :: l.faults).filter (fun t => s.life.ms < t + dayMs)
  let s := s.setWra { s.wra with loops := Store.put HeadLoop.init s.wra.loops h
                                   { l with faults := fs, sat := 0, wide := 0, conv := 0 } }
  if 3 ≤ fs.length then s.failHead h 1 else s

/-- `PAC_RESPONSE`: a response frame arrives (R272 to R274). A status that shows a head open or short fails the head, an
assist flag is an assist fault, and a clean status while the fault line is high ends the hold on writing. -/
def execPacResponse (act : Bool) (frame : BitVec 32) (s : State) : Host.Outcome State Fault Refusal :=
  let a := b2n act
  let f := frame.toNat
  if !s.dMode then .next s
  else if !frameOk f then .next (s.pacRetry a)
  else
    let cmd := f / 2 ^ 28
    let h := s.headAt a (bits f 24 4)
    let d := bits f 8 15
    if cmd != 8 then .next (s.setActWra a { s.actWra a with repeats := 0 })
    else
      let s := if act then s.wr F.WRA_PAC_STATUS_ACT1 d else s.wr F.WRA_PAC_STATUS_ACT0 d
      if bitAt d 7 then .next (s.pacRetry a)
      else
        let s := s.setActWra a { s.actWra a with repeats := 0, resets := 0 }
        let s := if (s.actWra a).wantStatus then
            let s := s.raise 7 (if bits f 24 4 = 15 then 0 else h) 0x401 (a + d * 2 ^ 16)
            (s.setActWra a { s.actWra a with wantStatus := false }).sendPac a 0xA 15 0 0
          else s
        let s := if bitAt d 1 || bitAt d 2 then s.failHead h 1 else s
        let s := if bitAt d 4 || bitAt d 5 then s.assistFault h 3 else s
        .next (if bits d 0 7 = 0 && !bitAt (s.rd F.WRA_STATUS_FLT) a then
            s.setActWra a { s.actWra a with barred := false }
          else s)

/-- `PAC_FAULT_FALL`: PACa_FLT_N falls: the gates are released, the channels squelched, writing on the actuator is held
off, and the preamp's status is read (R274, Table 11-5). -/
def execPacFaultFall (act : Bool) (s : State) : Host.Outcome State Fault Refusal :=
  let a := b2n act
  if !s.dMode || bitAt (s.rd F.WRA_STATUS_FLT) a then .next s
  else
    let s := ((s.raiseBit F.WRA_STATUS_FLT a).releaseGates a).inc F.WRA_FAULTS_PREAMP
    let s := s.wr F.WRA_ERR_STATUS_PREAMP_FAULT 1
    let s := s.setActWra a { s.actWra a with barred := true, wantStatus := true }
    .next (s.readPac a 8 15 0)

/-- `PAC_FAULT_RELEASE`: PACa_FLT_N is high again; the hold on writing ends once the status shows no fault bit
(R274). -/
def execPacFaultRelease (act : Bool) (s : State) : Host.Outcome State Fault Refusal :=
  let a := b2n act
  if !s.dMode || !bitAt (s.rd F.WRA_STATUS_FLT) a then .next s
  else
    let s := s.wr F.WRA_STATUS_FLT (clrBit (s.rd F.WRA_STATUS_FLT) a)
    .next (s.readPac a 8 15 0)

/-! ## Disk writes (R268, R269, R278) -/

/-- A channel's write may go on in the field: its head is in service on the actuator, its synthesizer locked, and, when
its write begins, no other channel writes or Betony has granted it; a channel that runs a re-read of the retry ladder
serves no other head (R22, R262, R265, R278). -/
def State.mayWriteChan (s : State) (a c : Nat) (w : FieldWrite) : Bool :=
  let h := w.head.toNat
  let others := (List.range 4).any (fun d => d != c && 3 ≤ s.chanClass d)
  let busy := s.det.ladders.any (fun j => (j.lane - 68) / 2 = c && s.targetHead j.target != h)
  s.surfOk h && s.actOf h = a && bitAt (s.rd F.WRA_STATUS_DSYNTH_LOCK) c && !busy &&
    (if w.start then !others || (s.chan c).granted
     else bitAt (s.rd F.WRA_STATUS_CH_ARMED) c && (s.chan c).head = h)

/-- The first bit that a channel writes in a field, and the end of the last one. -/
def State.bitSpan (s : State) (f : Nat) (w : FieldWrite) : Nat × Nat :=
  let b := s.channelBits f w
  let n := (b.reverse.findIdx? Option.isSome).getD b.length
  ((b.findIdx? Option.isSome).getD 0, b.length - n)

/-- The time of bit `i` of a field on a channel after the SAM, in ps: field start, then the bits at the channel rate of
its band (R265, R268). -/
def State.bitPs (s : State) (w : FieldWrite) (i : Nat) : Nat :=
  s.rd F.WRA_DW_FIELD_FIELD_OFS * 1000 + i * 1000000000 / Nat.max 1 (s.bandAt w.head.toNat w.track.toNat).rate

/-- The pre-heat lead of a field in ps: 0 when only heads of kind NONE write in it (R275). -/
def State.preheatPs (s : State) (ws : List FieldWrite) : Nat :=
  if ws.all (fun w => decide (s.kindOf w.head.toNat = 0)) then 0 else s.rd F.WRA_DW_TIME_PREHEAT_NS * 1000

/-- The instant at which AGa is asserted for a field, in ps after the SAM: the pre-heat lead before the earliest first
written bit (R268). -/
def State.gatePs (s : State) (f : Nat) (ws : List FieldWrite) : Nat :=
  let t := fun w => s.bitPs w (s.bitSpan f w).1
  (match ws with
    | [] => 0
    | w :: r => r.foldl (fun m x => Nat.min m (t x)) (t w)) - s.preheatPs ws

/-- The delay of CH_START after the assertion of AGa in 0.5 ns, rounded down: the channel's first written bit less the
pre-heat lead (R269). -/
def State.startDelay (s : State) (f : Nat) (ws : List FieldWrite) (w : FieldWrite) : Nat :=
  (s.bitPs w (s.bitSpan f w).1 - s.preheatPs ws - s.gatePs f ws) / 500

/-- The delay of CH_STOP after the assertion of AGa in 0.5 ns: the end of the channel's last written bit, rounded up
(DESIGN CHOICE: R269 gives no rounding for it; log entry 79). -/
def State.stopDelay (s : State) (f : Nat) (ws : List FieldWrite) (w : FieldWrite) : Nat :=
  (s.bitPs w (s.bitSpan f w).2 - s.gatePs f ws + 499) / 500

/-- A channel whose write begins in the field is selected, armed and given its start delay; its loop is preset to the
head's converged level (R269, R276). A write that ends in the field is given its stop delay. `ws` are all the writes of
the actuator in the field. -/
def State.beginChan (s : State) (a c f : Nat) (ws : List FieldWrite) (w : FieldWrite) : State :=
  let h := w.head.toNat
  let n := s.headOnAct h
  let s := if !w.start then s
    else
      let s := (s.sendPac a 1 n c 3).raiseBit F.WRA_STATUS_CH_ARMED c
      let lvl := s.capLevel h (s.rdi F.WRA_HEAD_ASSIST_LEVEL h)
      let l := { Store.get HeadLoop.init s.wra.loops h with level := lvl, conv := 0, sat := 0, wide := 0 }
      let s := s.setWra { s.wra with loops := Store.put HeadLoop.init s.wra.loops h l }
      let s := if s.kindOf h = 0 then s else s.sendPac a 4 n c lvl
      s.sendPac a 6 n c (s.startDelay f ws w)
  if w.stop then s.sendPac a 7 n c (s.stopDelay f ws w) else s

/-- The second head of an actuator's writes, and its residual (R296, R297). -/
def State.notePair (s : State) (a : Nat) : State :=
  let servo := s.servoHead a
  let hs := (chansOf a).filterMap (fun c => if (s.chan c).writing then some (s.chan c).head else none)
  match hs.find? (fun h => h != servo) with
  | none => s.setAct a { s.act a with second := none, residual := 0 }
  | some h => s.setAct a { s.act a with second := some h, residual := s.pairResidual servo h (s.act a).track }

/-- The positions of a field's bits that a channel delays: each transition that directly follows another (R270). -/
def State.emitField (s : State) (f c : Nat) (w : FieldWrite) : State :=
  let b := s.channelBits f w
  s.emit (.diskField c f (s.rdi F.WRA_DW_PRECOMP_PRECOMP c) (delayedAt 2 b) b)

/-- One channel of a field, in channel order: it writes where it may, each further concurrent write needing its own grant;
a write that lacks only the grant asks for it and waits (R22). -/
def State.tryChan (s : State) (a c : Nat) (w : FieldWrite) : State :=
  if s.mayWriteChan a c w then
    s.setChan c { s.chan c with head := w.head.toNat, writing := true, stopping := w.stop, granted := false }
  else if w.start && s.surfOk w.head.toNat then
    let copy := s.sq.cmds.any (fun c => c.stage = .started && !c.copies.isEmpty)
    s.ask 0 (c + 4 * w.head.toNat) (if copy then 1 else 3)
  else s

/-- `FIELD_WRITE_START`: the instant at which AGa would be asserted for a field. With the write permit of the wedge, a
released fault line and locked synthesizers the gates are asserted and the channels write; without the permit nothing is
written in the field and the writes stop. A write that still needs a grant asks for it and waits (R22, R268, R274). -/
def execFieldWriteStart (act : Bool) (field : BitVec 10) (w0 w1 : Option FieldWrite) (s : State) :
    Host.Outcome State Fault Refusal :=
  let a := b2n act
  let ws := [(2 * a, w0), (2 * a + 1, w1)].filterMap (fun p => p.2.map (fun w => (p.1, w)))
  let ready := s.dMode && (s.medium.state = mReady || s.medium.state = mStopping) && !ws.isEmpty &&
    640 > field.toNat && (s.actWra a).field.isNone && !s.on F.PWR_STATUS_BRACE
  if !ready then .next s
  else if bitAt (s.rd F.WRA_STATUS_FLT) a || (s.actWra a).barred || !bitAt (s.rd F.CTL_DK_STATUS_PERMIT) a then
    .next (s.stopWrites' a)
  else
    let s := ws.foldl (fun s p => s.tryChan a p.1 p.2) s
    let go := ws.filter (fun p => (s.chan p.1).writing)
    if go.isEmpty then .next s
    else
      let all := go.map (fun p => p.2)
      let s := go.foldl (fun s p => (s.beginChan a p.1 field.toNat all p.2).emitField field.toNat p.1 p.2) s
      let s := (s.raiseBit F.WRA_STATUS_AG a).raiseBit F.WRA_STATUS_WG a
      .next ((s.setActWra a { s.actWra a with field := some field.toNat }).notePair a)

/-- `FIELD_WRITE_END`: after the last written bit of the field WGa and AGa are released together; channels whose write
ends are disarmed, and the assist monitor of each head that wrote is read (R268, R269, R276). -/
def execFieldWriteEnd (act : Bool) (s : State) : Host.Outcome State Fault Refusal :=
  let a := b2n act
  if (s.actWra a).field.isNone then .next s
  else
    let stopAll := (s.actWra a).stopAtRelease
    let s := (s.wr F.WRA_STATUS_AG (clrBit (s.rd F.WRA_STATUS_AG) a)).wr F.WRA_STATUS_WG
      (clrBit (s.rd F.WRA_STATUS_WG) a)
    let s := (chansOf a).foldl (fun s c =>
      let v := s.chan c
      if !v.writing then s
      else
        let s := if s.kindOf v.head = 0 then s else s.readPac a 9 (s.headOnAct v.head) c
        let s := if v.stopping || stopAll then
            s.wr F.WRA_STATUS_CH_ARMED (clrBit (s.rd F.WRA_STATUS_CH_ARMED) c) else s
        s.setChan c { v with writing := false, stopping := false }) s
    .next (s.setActWra a { s.actWra a with field := none, stopAtRelease := false })

/-! ## The assist power loop (R276, R277) -/

/-- The monitor value of a head after a field it wrote: the write level follows R276, convergence is recorded, and R277
decides on a fault or a derate. -/
def State.assistSample (s : State) (h monitor : Nat) : State :=
  if !s.dMode || s.disk.heads ≤ h || s.kindOf h = 0 then s
  else
    let p := s.profOf h
    let target := s.rdi F.WRA_PROF_B_TARGET p
    let max := s.rdi F.WRA_PROF_A_MAX_LVL p
    let l := Store.get HeadLoop.init s.wra.loops h
    let err : Int := (target : Int) - (monitor : Int)
    let lvl := (clampInt 0 (max : Int) ((l.level : Int) + err / ((2 ^ s.rd F.WRA_ASSIST_LOOP_KI : Nat) : Int))).toNat
    let l := { l with
      level := lvl
      conv := if 50 * err.natAbs ≤ target then l.conv + 1 else 0
      sat := if lvl = max then l.sat + 1 else 0
      wide := if s.rd F.WRA_ASSIST_LOOP_ERR_PCT * target < 100 * err.natAbs then l.wide + 1 else 0 }
    let done := decide (16 ≤ l.conv)
    let past := done && decide (s.rd F.WRA_ASSIST_LOOP_DERATE_PCT * max < 100 * lvl)
    let first := past && !l.derated
    let s := s.setWra { s.wra with loops := Store.put HeadLoop.init s.wra.loops h
                                     { l with derated := l.derated || past } }
    let s := if done then s.wri F.WRA_HEAD_ASSIST_LEVEL h lvl else s
    let s := if first then (s.wr F.WRA_ERR_STATUS_ASSIST_DERATE 1).raise 7 h 0x403 lvl else s
    let s := s.sendPac (s.actOf h) 4 (s.headOnAct h) 0 lvl
    if s.rd F.WRA_ASSIST_LOOP_SAT_FIELDS ≤ l.sat then s.assistFault h 1
    else if s.rd F.WRA_ASSIST_LOOP_ERR_FIELDS ≤ l.wide then s.assistFault h 2
    else s

/-- `ASSIST_LOOP_SAMPLE`: a MONITOR_READ response reaches the assist loop of its head (R276). -/
def execAssistLoopSample (head : BitVec 5) (monitor : BitVec 15) (s : State) : Host.Outcome State Fault Refusal :=
  .next (s.assistSample head.toNat monitor.toNat)

/-- The converged levels are copied to MRAM (R276). -/
def State.saveLevels (s : State) : State :=
  s.setWra { s.wra with savedLevels := (List.range 24).foldl (fun m h =>
    Store.put 0 m h (s.rdi F.WRA_HEAD_ASSIST_LEVEL h)) s.wra.savedLevels }

/-- The converged levels are loaded from MRAM (R276). -/
def State.loadLevels (s : State) : State :=
  (List.range 24).foldl (fun s h => s.wri F.WRA_HEAD_ASSIST_LEVEL h (Store.get 0 s.wra.savedLevels h)) s

/-- `ASSIST_LEVEL_SAVE`: every hour the converged levels are copied to MRAM (R276). -/
def execAssistLevelSave (s : State) : Host.Outcome State Fault Refusal := .next (if s.dMode then s.saveLevels else s)

/-! ## Synthesizers (R265, Table 11-5) -/

/-- `SYNTH_UNLOCK`: a synthesizer, 0 to 3 disk channel and 4 tape, loses lock; while it writes that is a write fault:
the tape outputs are squelched and recovery is as for cause 2, a disk channel is squelched and its write ends. -/
def execSynthUnlock (which : BitVec 3) (s : State) : Host.Outcome State Fault Refusal :=
  let n := which.toNat
  if n = 4 then
    let s := s.wr F.WRA_STATUS_TSYNTH_LOCK 0
    if s.tMode && s.tapeWriting then
      let s := (s.wr F.WRA_STATUS_TAPE_SQUELCH 1).wr F.WRA_ERR_STATUS_SYNTH_UNLOCK 1
      let s := (s.raise 7 0 0x404 4).disturb 2
      .next (s.setWra { s.wra with squelchDue := false })
    else .next s
  else if n < 4 then
    let s := s.wr F.WRA_STATUS_DSYNTH_LOCK (clrBit (s.rd F.WRA_STATUS_DSYNTH_LOCK) n)
    if (s.chan n).writing || bitAt (s.rd F.WRA_STATUS_CH_ARMED) n then
      let h := (s.chan n).head
      let s := s.setChan n { s.chan n with writing := false, stopping := false }
      let s := s.wr F.WRA_STATUS_CH_ARMED (clrBit (s.rd F.WRA_STATUS_CH_ARMED) n)
      .next ((s.wr F.WRA_ERR_STATUS_SYNTH_UNLOCK 1).raise 7 h 0x404 n)
    else .next s
  else .next s

/-- A synthesizer is set to a rate. -/
def State.setRate (s : State) (n rate : Nat) : State := s.setWra { s.wra with rates := Store.put 0 s.wra.rates n rate }

/-- `WRITE_SYNTHESIZER_LOCKED`: a synthesizer of the personality is locked and writing through it may resume: the tape's at
the rate that the change of step set, a disk channel's at that of its recording band (R184, R265). -/
def execWriteSynthesizerLocked (which : BitVec 3) (s : State) : Host.Outcome State Fault Refusal :=
  let n := which.toNat
  .next (if n = 4 then (if s.tMode then s.wr F.WRA_STATUS_TSYNTH_LOCK 1 else s)
    else if n < 4 && s.dMode then (s.setRate n (s.bandUnder n).rate).raiseBit F.WRA_STATUS_DSYNTH_LOCK n else s)

end Sys2Proof.Machine
end

