-- ==== Sys2Proof/Machine/Speedwell.lean ====
section
/-!
DEFINITION. The control engine: samples of the loop slots, following error, lost feedback, retract and reload, the
servo head, seeks and write permits, the spindle, and the motor driver's answers (R247, R281 to R300).
-/

namespace Sys2Proof.Machine

/-! ## Actuators (R294 to R298) -/

/-- A bit of a `CTL.DK_STATUS` field. -/
def State.dkBit (s : State) (f : Field) (a : Nat) (v : Bool) : State := s.putBit f a v

/-- The first slot of an actuator: its voice coil; the microactuator's follows. -/
def vcSlot (a : Nat) : Nat := 2 * a

/-- An actuator's heads go to the parking ramp: RETRACT is sent, its two slots are disabled, its writes stop. -/
def State.parkActuator (s : State) (a : Nat) : State :=
  let s := (s.sendMdrv (vcSlot a) 4 0).stopWrites' a
  let s := (s.disableSlot (vcSlot a)).disableSlot (vcSlot a + 1)
  let s := [vcSlot a, vcSlot a + 1].foldl (fun s n =>
    (s.wri F.CTL_SLOT_STATUS_STATE n 3).wri F.CTL_SLOT_STATUS_RETRACTED n 1) s
  let s := s.wri F.CTL_SLOT_OUT_OUT (vcSlot a + 1) 0
  let s := ((s.dkBit F.CTL_DK_STATUS_RETRACTED a true).dkBit F.CTL_DK_STATUS_SETTLED a false).dkBit
    F.CTL_DK_STATUS_PERMIT a false
  s.setAct a { s.act a with inLimit := 0, validRun := 0, seek := none, seekRepeated := false, reload := 0 }

/-- The retract action of R294, and the retract after a failed reload attempt: it is counted and reported, and a reload
attempt will follow (R295). -/
def State.retract (s : State) (a : Nat) : State :=
  let s := (s.parkActuator a).wr F.CTL_ERR_STATUS_RETRACT 1
  let s := (s.inc F.CTL_DK_RETRACTS_COUNT).raise 7 (vcSlot a) 0x502 a
  s.setAct a { s.act a with reload := 1 }

/-- A servo head is named for an actuator: a bank change for its slots under R291. -/
def State.setServoHead (s : State) (a h : Nat) : State :=
  if s.servoHead a = h then s
  else
    let s := s.wr (if a = 0 then F.CTL_DK_STATUS_SERVO0 else F.CTL_DK_STATUS_SERVO1) h
    [vcSlot a, vcSlot a + 1].foldl (fun s n => s.setSlotOf n { s.slotOf n with preset := true }) s

/-- The voice coil leaves the ramp: its lane is enabled, both slots run, servo is sought. -/
def State.loadActuator (s : State) (a : Nat) : State :=
  let s := (s.enableLane (vcSlot a) true).enableLane (vcSlot a + 1) true
  let s := (s.enableSlot (vcSlot a)).enableSlot (vcSlot a + 1)
  let s := s.setRampMode (vcSlot a) 1
  let s := s.dkBit F.CTL_DK_STATUS_RETRACTED a false
  s.setAct a { s.act a with validRun := 0, inLimit := 0, wrec := none }

/-- Servo is acquired on an actuator: the voice coil holds the track it stands on. -/
def State.acquired (s : State) (a : Nat) : State :=
  let n := vcSlot a
  let x := (s.act a).track * 65536
  let s := s.setSlotOf n { s.slotOf n with x := x, v := 0, a := 0 }
  (s.setRampMode n 2).setRampTarget n x

/-- A granted seek moves the voice coil in POSITION mode at the granted share of the image's seek limit (R298). -/
def State.startSeek (s : State) (a pct : Nat) : State :=
  match (s.act a).seekWaits with
  | none => s
  | some (h, t) =>
    let n := vcSlot a
    let amax := imageValue s.boot.records F.CTL_RAMP_AMAX_LIMIT n 0
    let s := s.setServoHead a h
    let s := s.wri F.CTL_RAMP_AMAX_LIMIT n (amax * pct / 100)
    let s := (s.setRampMode n 2).setRampTarget n (t * 65536)
    let s := (s.dkBit F.CTL_DK_STATUS_SETTLED a false).dkBit F.CTL_DK_STATUS_PERMIT a false
    { s.setAct a { s.act a with seek := some t, seekWaits := none, inLimit := 0 } with
      pwr := { s.pwr with granted := Store.put 0 s.pwr.granted a pct } }


/-- `SEEK_START`: the disk servo sequencer wants a head of an actuator on a track, for work of a priority of Table 15-6.
The seek waits for Betony's grant and has not started until then; the grant starts it (R22, R298). -/
def execSeekStart (act : Bool) (head : BitVec 5) (track : BitVec 24) (prio : BitVec 3) (s : State) :
    Host.Outcome State Fault Refusal :=
  let a := b2n act
  let ok := s.dMode && s.ctl.spindle = 3 && !bitAt (s.rd F.CTL_DK_STATUS_RETRACTED) a && (s.act a).reload = 0 &&
    s.surfOk head.toNat && s.actOf head.toNat = a && (s.act a).seek.isNone && !s.on F.PWR_STATUS_BRACE
  if ok then .next ((s.setAct a { s.act a with seekWaits := some (head.toNat, track.toNat) }).ask 1 a prio.toNat)
  else .next s

/-- A following-error fault on a voice coil: the seek ends where it stands and is repeated once; a second fault in a row
is treated as a retract (R292). -/
def State.seekFault (s : State) (a : Nat) : State :=
  let v := s.act a
  if v.seekRepeated then s.retract a
  else
    let n := vcSlot a
    let s := s.setRampTarget n (s.slotOf n).fb
    let again := v.seek.map (fun t => (s.servoHead a, t))
    let s := s.setAct a { v with seekRepeated := true, seek := none, seekWaits := again.or v.seekWaits }
    if again.isSome then s.ask 1 a 2 else s

/-! ## The spindle (R299) -/


/-- A spindle fault for cause 1 spin-up, 2 speed, 3 driver: both actuators retract, the spindle brakes, the medium is
FAULTED (R299). -/
def State.spindleFault (s : State) (cause : Nat) : State :=
  let s := ((s.parkActuator 0).parkActuator 1).sendMdrv 4 3 0
  let s := (s.disableSlot 4).setCtl { (s.disableSlot 4).ctl with spindle := 4, spinLost := 0 }
  let s := ((s.wr F.CTL_DK_STATUS_AT_SPEED 0).wr F.CTL_ERR_STATUS_SPINDLE 1).raise 7 4 0x506 cause
  s.diskFaulted

/-- The spindle starts: its lane and slot are enabled on the timer source with SPEED_READ (R299). -/
def State.startSpindle (s : State) : State :=
  let s := (s.enableLane 4 true).enableSlot 4
  let s := s.setCtl { s.ctl with spindle := 1, spinLost := 0 }
  s.sendMdrv 4 6 0

/-- The spindle stops: both actuators park, the spindle coasts. -/
def State.stopSpindle (s : State) : State :=
  let s := ((s.parkActuator 0).parkActuator 1).disableSlot 4
  let s := (s.enableLane 4 false).wr F.CTL_DK_STATUS_AT_SPEED 0
  s.setCtl { s.ctl with spindle := if s.ctl.spindle = 0 then 0 else 5 }

/-- The head-offset table is measured again, with each head in service as the servo head at the 64 points; an actuator's
first head has offset 0 (R297). What a measurement finds is a free value. -/
def State.measureOffsets (s : State) : State :=
  let n := s.free
  let s := ((List.range s.disk.heads).filter (fun h => s.surfOk h)).foldl (fun s h =>
    (List.range 64).foldl (fun s j =>
      s.fset F.CTL_HEAD_OFS_ENTRY h j (if s.headOnAct h = 0 then 0 else (Config.headOffset h j n).toNat)) s) s
  s.tickFree

/-- `SPINDLE_AT_SPEED`: the speed has stayed within tolerance for 1 s. The actuators that can leave the ramp, and the
zone table is read: `ok0` and `ok1` say which actuator's copy passes its checks (R233, R299). -/
def execSpindleAtSpeed (ok0 ok1 : Bool) (s : State) : Host.Outcome State Fault Refusal :=
  if s.dMode && (s.ctl.spindle = 1 || s.ctl.spindle = 2) then
    let s := (s.setCtl { s.ctl with spindle := 3 }).wr F.CTL_DK_STATUS_AT_SPEED 1
    let s := [0, 1].foldl (fun s a =>
      match s.surfaces a with
      | [] => s
      | h :: _ => if (s.act a).reload = 1 then s.setServoHead a h else (s.setServoHead a h).loadActuator a) s
    .next (if s.medium.state = mStarting && s.medium.func = 1 then s.measureOffsets.diskLoad ok0 ok1 else s)
  else .next s

/-- `SPINDLE_FAULT`: cause 1 the spindle is not at speed within SPINUP_S, 2 the speed has left the tolerance for 1 s,
3 the lane reports a driver fault (R299). -/
def execSpindleFault (cause : BitVec 2) (s : State) : Host.Outcome State Fault Refusal :=
  let sp := s.ctl.spindle
  let ok := s.dMode && match cause.toNat with
    | 1 => decide (sp = 1 ∨ sp = 2)
    | 2 => decide (sp = 3)
    | 3 => decide (1 ≤ sp ∧ sp ≤ 3)
    | _ => false
  .next (if ok then s.spindleFault cause.toNat else s)

/-- A reload attempt fails: the actuator retracts again, and after three failed attempts it fails, and so does the head
on which servo was not acquired (R204, R295). -/
def State.failAttempt (s : State) (a : Nat) : State :=
  let v := s.act a
  let s := (s.raise 7 (vcSlot a) 0x503 (a + v.attempts * 2)).retract a
  let s := s.setAct a { s.act a with attempts := v.attempts }
  let s := s.headAcquire (s.servoHead a) false
  if v.attempts < 3 then s
  else (s.setAct a { s.act a with reload := 0, attempts := 0, failed := true }).failActuator a 2

/-! ## Following error (R292) -/

/-- The following-error timer of a slot has reached FERR_TIME: FERR, the event, and the sequencer's action. -/
def State.ferrFault (s : State) (n : Nat) : State :=
  let sl := s.slotOf n
  let s := s.setSlotOf n { sl with ferrNs := 0 }
  let s := (s.slotFlag n 7).raise 7 n 0x504 (ofSigned 32 ((sl.sp - sl.fb).natAbs : Int))
  match s.rdi F.CTL_SLOT_CFG_ROLE n with
  | 1 => s.seekFault (n / 2)
  | 3 => s.spindleFault 2
  | 5 => if s.tapeActive && s.mot.moving && !s.mot.reacq then s.tapeReacquire 2 else s
  | _ => s

/-- The timer advances by `ns` on a sample whose error exceeds the limit, and a VALID sample within it resets it. -/
def State.ferrTime (s : State) (n ns : Nat) (valid : Bool) : State :=
  let t := s.rdi F.CTL_SLOT_FERR_TIME_TIME_US n
  let sl := s.slotOf n
  if t = 0 || !valid then s
  else if (sl.sp - sl.fb).natAbs ≤ s.rdi F.CTL_SLOT_FERR_LIM_LIMIT n then s.setSlotOf n { sl with ferrNs := 0 }
  else
    let s := s.setSlotOf n { sl with ferrNs := sl.ferrNs + ns }
    if t * 1000 ≤ sl.ferrNs + ns then s.ferrFault n else s

/-- `FOLLOWING_ERROR_TIMEOUT`: the running timer of a slot reaches FERR_TIME (R292). -/
def execFollowingErrorTimeout (slot : BitVec 4) (s : State) : Host.Outcome State Fault Refusal :=
  let n := slot.toNat
  .next (if s.slotOn n && s.rdi F.CTL_SLOT_FERR_TIME_TIME_US n != 0 && 0 < (s.slotOf n).ferrNs then s.ferrFault n else s)

/-! ## Samples (R281 to R286, R290 to R294, R300) -/

/-- A coefficient of the slot's bank, as a signed Q2.30 value. -/
def State.coef (s : State) (n k : Nat) : Int :=
  toSigned 32 (if s.rdi F.CTL_SLOT_CFG_BANK n = 0 then s.fget F.CTL_COEF_A_COEF n k else s.fget F.CTL_COEF_B_COEF n k)

/-- The friction term of a slot (R286). -/
def State.fricTerm (s : State) (n : Nat) (vref : Int) : Int :=
  if s.rdi F.CTL_SLOT_CFG_FRIC_EN n = 0 then 0
  else
    let x := fricIndex vref (toSigned 32 (s.rdi F.CTL_FRIC_SCALE_SCALE n))
    let i := x / 2 ^ 40
    let t := fun j => toSigned 32 (s.fget F.CTL_FRIC_TBL_ENTRY n (Nat.min 255 j))
    interp (t i) (t (i + 1)) (x % 2 ^ 40) 40

/-- The cogging term of a slot at a commutation angle or a track (R286). -/
def State.cogTerm (s : State) (n role angle : Nat) (track : Int) : Int :=
  let t := fun j => toSigned 32 (s.fget F.CTL_COG_TBL_ENTRY n j)
  if s.rdi F.CTL_SLOT_CFG_COG_EN n = 0 then 0
  else if role = 5 || role = 3 then
    let i := angle / 2 ^ 24 % 256
    interp (t i) (t ((i + 1) % 256)) (angle % 2 ^ 24) 24
  else if role = 1 then
    let x := cogIndex track (toSigned 32 (s.rdi F.CTL_COG_SCALE_SCALE n))
    let i := x / 2 ^ 30
    interp (t i) (t (Nat.min 255 (i + 1))) (x % 2 ^ 30) 30
  else 0

/-- The last output of a slot. -/
def State.slotOut (s : State) (n : Nat) : Int := toSigned 32 (s.rdi F.CTL_SLOT_OUT_OUT n)

/-- The cascade input: the tension slot into both reels, the fine stage into the coarse one while tracking (Table 12-2). -/
def State.cascade (s : State) (n role : Nat) : Int :=
  if role = 5 then (if n = 0 then -(s.slotOut 2) else s.slotOut 2)
  else if role = 7 && 3 ≤ s.rd F.CTL_TM_STATUS_MODE then s.slotOut 4
  else 0

/-- The set-point of a slot: the ramp's in its modes, the role's own, or SLOT_SP in mode OFF (Tables 12-1, 12-2, R290). -/
def State.setPoint (s : State) (n role : Nat) (r : RampOut) : Int :=
  let radius := if n = 0 then s.mot.radii.1 else s.mot.radii.2
  match role with
  | 2 | 8 => 0
  | 3 => (37500000 * 65536 / s.rd F.CTL_DK_SPIN_RPM : Nat)
  | 6 => (s.mot.tension * 65536 / 1000 : Nat)
  | _ =>
    if s.rdi F.CTL_RAMP_CTL_MODE n = 0 then
      toSigned 48 (s.rdi F.CTL_SLOT_SP_LO_SP n + s.rdi F.CTL_SLOT_SP_HI_SP n * 2 ^ 32)
    else if role = 5 then (if radius = 0 then 0 else r.v * 1000 / (radius : Int))
    else r.x

/-- A role counts its samples that are not VALID: the position loops (R23, Table 12-7). -/
def countsRole (role : Nat) : Bool := role = 1 || role = 2 || role = 7 || role = 8

/-- The lane of a slot drives its output: DRIVE with OUT × 2^19 rounded and limited (R288). -/
def State.driveOut (s : State) (n : Nat) (out : Int) : State :=
  let lane := s.rdi F.CTL_SLOT_CFG_LANE n
  let s := s.wri F.CTL_SLOT_OUT_OUT n (ofSigned 32 out)
  let s := s.reportDrive n (s.slotOf n).current.natAbs
  if lane = 7 then s
  else s.sendMdrv lane 1 (ofSigned 20 (clampInt (-(2 ^ 19)) (2 ^ 19 - 1) ((out + 1024) / 2048)))

/-- The loop-loss output of Table 12-7 where it is not the law's own: the microactuator's ramp to 0 over 8 samples from
the output it began at, and the lateral stages' last output. -/
def lossOut (role : Nat) (sl : SlotSt) (last out : Int) : Int :=
  if role = 2 then (sl.fadeFrom * (8 - (sl.fade : Int)) * 2 + 8) / 16
  else if role = 7 || role = 8 then last
  else out

/-- The law of a slot on one sample, its flags, output and trace. `status` 0 is VALID. -/
def State.runLaw (s : State) (n role : Nat) (r : RampOut) (fb : Int) (status angle now : Nat) : State :=
  let sl := s.slotOf n
  let mode := s.rdi F.CTL_RAMP_CTL_MODE n
  let sp := s.setPoint n role r
  let vref := if mode = 0 then 0 else satTo 32 (r.v * 16384)
  let aref := if mode = 0 then 0 else satTo 32 (r.a * 16384)
  let ff := (((((mulQ (s.coef n 19) vref).add (mulQ (s.coef n 20) aref)).add (accQ (s.fricTerm n vref))).add
    (accQ (s.cogTerm n role angle (fb / 65536)))).add (accQ (s.cascade n role)))
  let count := s.rdi F.CTL_SLOT_STATUS_COUNT n
  let lost := countsRole role && 3 ≤ count
  let last := s.slotOut n
  let o := lawPass (s.coef n) sl
    { e := errorOf sp fb (s.coef n 21), ff := ff, integ := toSigned 32 (s.rdi F.CTL_SLOT_INTEG_I n), outPrev := last
      hold := status != 0, preset := sl.preset && status = 0, loss := lost && role = 1 }
  let fade := if lost then sl.fade + 1 else 0
  let from' := if lost && sl.fade = 0 then last else sl.fadeFrom
  let sl := { sl with
    x := r.x, v := r.v, a := r.a, notch := o.notch, bq1 := o.bq1, bq2 := o.bq2, b2Prev := o.b2, stages := o.stages
    sp := sp, fb := fb, status := status, fade := Nat.min 8 fade, fadeFrom := from'
    preset := sl.preset && status != 0 }
  let out := if lost then lossOut role sl last o.out else if role = 3 && status != 0 then last else o.out
  let s := (s.setSlotOf n sl).wri F.CTL_SLOT_INTEG_I n (ofSigned 32 o.integ)
  let s := (s.slotFlagIf n 0 o.accSat).slotFlagIf n 1 o.qSat
  let s := ((s.slotFlagIf n 2 o.intClamp).slotFlagIf n 3 o.outLimit).slotFlagIf n 6 o.bump
  ((s.driveOut n out).traceSample n now)

/-- The count and the state of a slot after a sample of a status (R23, R294). -/
def State.countSample (s : State) (n status : Nat) : State :=
  let old := s.rdi F.CTL_SLOT_STATUS_STATE n
  if status = 0 then
    let s := if old = 3 then s.setSlotOf n { s.slotOf n with preset := true } else s
    (s.wri F.CTL_SLOT_STATUS_COUNT n 0).wri F.CTL_SLOT_STATUS_STATE n 1
  else
    let c := Nat.min 15 (s.rdi F.CTL_SLOT_STATUS_COUNT n + 1)
    (s.wri F.CTL_SLOT_STATUS_COUNT n c).wri F.CTL_SLOT_STATUS_STATE n (if 3 ≤ c then 3 else 2)

/-- The actions that a count reaches: loop-loss at 3, retract of the actuator at 8 (R294). Before the first VALID wedge of
a reload attempt there is none: the attempt ends by its window (R295; log entry 80). -/
def State.countActions (s : State) (n role status : Nat) : State :=
  let c := s.rdi F.CTL_SLOT_STATUS_COUNT n
  if status = 0 then s
  else if s.slotOn n && (s.slotOf n).preset && role < 3 && (s.act (n / 2)).reload = 2 then s
  else if c = 3 then
    let s := (s.slotFlag n 8).raise 7 n 0x501 (status + ofSigned 32 (s.slotOf n).lastValid * 2 ^ 32)
    if (role = 7 || role = 8) && s.tapeWriting then s.disturb 3 else s
  else if c = 8 && role = 1 then (if (s.act (n / 2)).reload = 2 then s.failAttempt (n / 2) else s.retract (n / 2))
  else s

/-- One sample of slot `n` at instant `now`, with its status, feedback and commutation angle: overrun or the ramp, the
count, the law and the following error (R281 to R294). -/
def State.takeSample (s : State) (n now status : Nat) (feedback : Int) (angle : Nat) : State :=
  let role := s.rdi F.CTL_SLOT_CFG_ROLE n
  let sl := s.slotOf n
  let soon := match sl.last with
    | some t => decide (now < t + 192)
    | none => false
  if !s.slotOn n then s
  else if soon then ((s.slotFlag n 4).inc F.CTL_OVERRUNS_COUNT).raise 7 n 0x505 0
  else
    let ns := match sl.last with
      | some t => (now - t) * 5 / 2
      | none => 0
    let r := rampStep (s.rdi F.CTL_RAMP_CTL_MODE n) sl.x sl.v sl.tgt (s.rdi F.CTL_RAMP_VMAX_LIMIT n)
      (s.rdi F.CTL_RAMP_AMAX_LIMIT n) (s.rdi F.CTL_RAMP_CTL_DONE n != 0)
    let s := (s.wri F.CTL_RAMP_CTL_DONE n (b2n r.done)).wri F.CTL_RAMP_VEL_V n (ofSigned 32 r.v)
    let fb := if status != 0 && countsRole role then satTo 48 (2 * sl.fb1 - sl.fb2) else feedback
    let s := if countsRole role then s.countSample n status else s
    let s := s.setSlotOf n { s.slotOf n with
      last := some now, fb1 := fb, fb2 := sl.fb1, lastValid := if status = 0 then fb else sl.lastValid }
    let s := s.runLaw n role r fb status angle now
    let s := if countsRole role then s.countActions n role status else s
    if s.slotOn n then s.ferrTime n ns (status = 0) else s

/-- The actuator whose wedge records sample a slot: its own for slots 0 to 3, the spindle's source for slot 4. After 64
lost wedges the spindle stays on its timer until a VALID wedge comes (R293; DESIGN CHOICE: the spec does not say when it
goes back; log entry 80). -/
def State.sourceAct (s : State) (n : Nat) : Option Nat :=
  if !s.dMode then none
  else if n < 4 then some (n / 2)
  else if n = 4 && (s.ctl.spindle = 2 || s.ctl.spindle = 3) then
    let src := if !bitAt (s.rd F.CTL_DK_STATUS_RETRACTED) 0 then some 0
      else if !bitAt (s.rd F.CTL_DK_STATUS_RETRACTED) 1 then some 1 else none
    let fresh := fun a => (s.act a).wrec.any (fun w => w.status = 0 && !bitAt w.taken 4)
    if s.ctl.spinLost < 64 then src else src.filter fresh
  else none

/-- The spindle's source follows its samples: at 95 % of RPM it moves to wedges; 64 lost wedges move it to the timer, whose
samples leave the count as it is. -/
def State.spindleSource (s : State) (wedge : Bool) (status : Nat) : State :=
  let lost := if !wedge then s.ctl.spinLost else if status = 0 then 0 else s.ctl.spinLost + 1
  let s := s.setCtl { s.ctl with spinLost := lost }
  let sl := s.slotOf 4
  if s.ctl.spindle = 1 && 0 < sl.fb && sl.fb * 95 ≤ sl.sp * 100 then
    (s.setCtl { s.ctl with spindle := 2 }).setSlotOf 4 { sl with preset := true }
  else if s.ctl.spindle = 1 || 64 ≤ lost then s.sendMdrv 4 6 0
  else s

/-- The feedback that a SPEED_READ response of a lane gives, in native units with 16 fraction bits. -/
def State.speedOf (s : State) (lane : Nat) : Int := Store.get 0 s.ctl.speed lane * 4096

/-- Slot `n` takes the wedge record of its actuator, once (Table 12-1). -/
def State.wedgeSample (s : State) (n a : Nat) (angle : Nat) : State :=
  match (s.act a).wrec with
  | none => s
  | some w =>
    if bitAt w.taken n then s
    else
      let s := s.setAct a { s.act a with wrec := some { w with taken := setBit w.taken n } }
      let fb := if n = 4 then w.sam else if n % 2 = 0 then w.track * 65536 + w.pes * 64
        else (w.pes - s.ladderOffset a) * 64
      let s := s.takeSample n w.time w.status fb angle
      if n = 4 then s.spindleSource true w.status else s

/-- The radius of a reel in µm. -/
def State.radiusOf (s : State) (n : Nat) : Nat := if n = 0 then s.mot.radii.1 else s.mot.radii.2

/-- While servo is VALID a reel's radius is the tape velocity divided by the reel's angular velocity (R191). -/
def State.takeRadius (s : State) (n : Nat) : State :=
  let w := (s.speedOf n).natAbs
  if !s.on F.CTL_TM_STATUS_SERVO_VALID || w = 0 then s
  else
    let r := s.mot.vel * 65536 / w
    s.setMot { s.mot with radii := if n = 0 then (r, s.mot.radii.2) else (s.mot.radii.1, r) }

/-- A reel's angular velocity in rad/s, 16 fraction bits: from servo frame timing and the radius while servo is VALID, else
the driver's (Table 12-2). -/
def State.reelSpeed (s : State) (n : Nat) : Int :=
  let r := s.radiusOf n
  if !s.on F.CTL_TM_STATUS_SERVO_VALID || r = 0 then s.speedOf n
  else
    let v : Int := (s.mot.vel * 65536 / r : Nat)
    if s.mot.down then -v else v

/-- The tension estimate: from the measured currents of the reel motors and the radii (R191). -/
def State.tensionNow (s : State) : Int :=
  toSigned 48 (Config.tensionOf (s.slotOf 0).current (s.slotOf 1).current s.mot.radii.1 s.mot.radii.2).toNat

/-- The lateral offset in nm at which a data set is read again: none the first time, then +OFFSET_PCT and −OFFSET_PCT of
the track pitch in turn (R258). -/
def State.rereadOffset (s : State) : Int :=
  match (if s.mot.reading then s.tape.rereads.find? (fun r => 16 < popCount 192 r.2.2) else none) with
  | none => 0
  | some r =>
    let o : Int := (Config.trackPitchNm.toNat * s.rd F.LANE_RETRY_CFG_OFFSET_PCT / 100 : Nat)
    if r.2.1 = 0 then 0 else if r.2.1 % 2 = 1 then o else -o

/-- The feedback of the lateral stages in nm, 16 fraction bits: the lateral error of R192 for the fine one, with the
tape-width correction and less the offset of a re-read; the wrap's servo position with that error for the coarse one
(Table 12-2, R258). -/
def State.lateralOf (s : State) (role : Nat) : Int :=
  if role = 8 then (s.mot.lateral + s.mot.widthCorr - s.rereadOffset) * 65536
  else wrapTarget (s.rd F.FMT_TSTATUS_WRAP) + s.mot.lateral * 65536

/-- `SLOT_SAMPLE`: a slot takes one feedback record or timer tick. Slots 0 to 4 of D-mode take the wedge record of their
actuator; the spindle on its timer and the reels without servo take the driver's speed; the others take the feedback
delivered (R191, R192, R281, R285). -/
def execSlotSample (slot : BitVec 4) (now : BitVec 64) (feedback : BitVec 48) (angle : Word) (s : State) :
    Host.Outcome State Fault Refusal :=
  let n := slot.toNat
  let role := s.rdi F.CTL_SLOT_CFG_ROLE n
  if !s.slotOn n && role != 4 then .next s
  else
    match s.sourceAct n with
    | some a => .next (s.wedgeSample n a angle.toNat)
    | none =>
      if role = 4 then .next (s.assistSample (s.chan (n - 5)).head (feedback.toNat % 2 ^ 15))
      else if role = 3 then .next ((s.takeSample n now.toNat 0 (s.speedOf 4) angle.toNat).spindleSource false 0)
      else if role = 5 then
        let s := (s.takeRadius n).sendMdrv n 6 0
        .next (s.takeSample n now.toNat 0 (s.reelSpeed n) angle.toNat)
      else if role = 6 then .next (s.takeSample n now.toNat 0 s.tensionNow angle.toNat)
      else if countsRole role then .next (s.takeSample n now.toNat s.mot.frame (s.lateralOf role) angle.toNat)
      else .next (s.takeSample n now.toNat 0 (toSigned 48 feedback.toNat) angle.toNat)

/-- |PES| in 1/1024 of the pitch lies within the write-inhibit limit. -/
def State.inWriteLimit (s : State) (pes : Int) : Bool := pes.natAbs * 100 ≤ s.rd F.CTL_DK_LIMIT_WI_PCT * 1024

/-- The write permit of a wedge (R296); a write in progress stops when it is withdrawn (Table 09-8). -/
def State.writePermit (s : State) (a : Nat) (valid : Bool) : State :=
  let v := s.act a
  let normal := fun n => s.slotOn n && s.rdi F.CTL_SLOT_STATUS_RETRACTED n = 0
  let second := match v.second with
    | some _ => s.inWriteLimit (v.pes + v.residual)
    | none => true
  let ok := valid && bitAt (s.rd F.CTL_DK_STATUS_SETTLED) a && normal (vcSlot a) && normal (vcSlot a + 1) &&
    s.inWriteLimit v.pes && second
  let s := s.dkBit F.CTL_DK_STATUS_PERMIT a ok
  if !ok && (chansOf a).any (fun c => bitAt (s.rd F.WRA_STATUS_CH_ARMED) c) then s.stopWrites' a else s

/-- A wedge of an actuator that no lane delivered: it breaks the runs of VALID wedges and withdraws the permit. -/
def State.missedWedge (s : State) (a : Nat) : State :=
  (s.setAct a { s.act a with validRun := 0, inLimit := 0 }).writePermit a false

/-- `SAMPLE_TIMEOUT`: no record has reached a record-driven slot within 1.5 of its periods since its previous sample
instant: a sample with status MISSING is synthesized (R283). -/
def execSampleTimeout (slot : BitVec 4) (now : BitVec 64) (s : State) : Host.Outcome State Fault Refusal :=
  let n := slot.toNat
  let role := s.rdi F.CTL_SLOT_CFG_ROLE n
  let p := s.rdi F.CTL_SLOT_PERIOD_PERIOD_NS n
  let driven := countsRole role || (role = 3 && (s.sourceAct n).isSome)
  let due := match (s.slotOf n).last with
    | some t => decide (3 * p ≤ (now.toNat - t) * 5)
    | none => false
  if s.slotOn n && driven && p != 0 && due then
    let s := (s.slotFlag n 5).inc F.CTL_OVERRUNS_COUNT
    let s := s.raise 7 n 0x505 1
    let s := s.takeSample n now.toNat 1 (s.slotOf n).fb 0
    let s := if role = 1 then s.missedWedge (n / 2) else s
    .next (if role = 3 then s.spindleSource true 1 else s)
  else .next s

/-- `LOOP_LOSS_ACTION`: the third consecutive sample of a slot that is not VALID arrives, MISSING: the loop-loss action
of Table 12-7 (R294). -/
def execLoopLossAction (slot : BitVec 4) (now : BitVec 64) (s : State) : Host.Outcome State Fault Refusal :=
  let n := slot.toNat
  let role := s.rdi F.CTL_SLOT_CFG_ROLE n
  let lost := fun (s : State) => if role = 1 then s.missedWedge (n / 2) else s
  .next (if countsRole role && s.rdi F.CTL_SLOT_STATUS_COUNT n = 2 then
    lost (s.takeSample n now.toNat 1 (s.slotOf n).fb 0) else s)

/-- `RETRACT_ACTION`: the eighth consecutive sample of a voice-coil slot that is not VALID arrives, MISSING: the actuator
retracts and its slots are disabled (R294). -/
def execRetractAction (act : Bool) (now : BitVec 64) (s : State) : Host.Outcome State Fault Refusal :=
  let n := vcSlot (b2n act)
  .next (if s.dMode && s.rdi F.CTL_SLOT_STATUS_COUNT n = 7 then s.takeSample n now.toNat 1 (s.slotOf n).fb 0 else s)

/-- `RAMP_TARGET_COMMIT`: a host write of `CTL.RAMP_TGT_HI` commits both halves of the target for the next sample (R290). -/
def State.commitTarget (s : State) (n hi : Nat) : State :=
  let s := s.wri F.CTL_RAMP_TGT_HI_TGT n hi
  s.setSlotOf n { s.slotOf n with
    tgt := toSigned 48 (s.rdi F.CTL_RAMP_TGT_LO_TGT n + s.rdi F.CTL_RAMP_TGT_HI_TGT n * 2 ^ 32) }
def execRampTargetCommit (port : Bool) (slot : BitVec 4) (value : Word) (s : State) :
    Host.Outcome State Fault Refusal :=
  let n := slot.toNat
  .next (if s.barsUp port && n < 12 && s.rdi F.CTL_SLOT_CFG_ROLE n != 0 then s.commitTarget n (value.toNat % 2 ^ 16) else s)

/-! ## Wedges and the write permit (R247, R296) -/

/-- Wedges in a revolution: 13.02 µs apart at 7,200 rpm. -/
def wedgesPerTurn : Nat := 640

/-- The actuator whose servo head a D-lane reads: reader 0 of the channel that serves the servo head is its even lane. -/
def servoLane (lane : Nat) : Option Nat :=
  if 68 ≤ lane && lane < 76 && lane % 2 = 0 then some ((lane - 68) / 4) else none

/-- The status of a wedge by the first row of Table 10-6 that holds. -/
def State.wedgeStatus (s : State) (l : LaneSt) (a : Nat) (found half vga : Bool) (sums : List Nat) (nominal index : Nat)
    (track : Int) : Nat :=
  let sl := s.slotOf (vcSlot a)
  let want := (2 * sl.fb1 - sl.fb2 + 32768) / 65536
  let far := (s.act a).validRun != 0 && decide (2 < (track - want).natAbs)
  let fails := !l.lastSums.isEmpty && index != (l.lastIndex + 1) % wedgesPerTurn
  if !found || sums.sum * 100 < s.rd F.LANE_SERVO_CFG_AMP_MIN * nominal || far then 1
  else if l.lastSums = sums || half || vga || fails then 2
  else 0

/-- A reload attempt has found 32 VALID wedges in a row: it succeeds (R295). -/
def State.reloadDone (s : State) (a : Nat) : State :=
  let v := s.act a
  if v.reload = 2 && 32 ≤ v.validRun then
    let s := s.setAct a { v with reload := 0, attempts := 0 }
    ((s.headAcquire (s.servoHead a) true).raise 7 (vcSlot a) 0x503 (a + v.attempts * 2 + 256)).acquired a
  else s

/-- Settling: SETTLE_WEDGES VALID wedges in a row within the limit, on the target track of a seek (R296). -/
def State.settleWedge (s : State) (a : Nat) : State :=
  let v := s.act a
  let there := match v.seek with
    | some t => t = v.track
    | none => v.reload = 0
  if there && s.rd F.CTL_DK_LIMIT_SETTLE_WEDGES ≤ v.inLimit && !bitAt (s.rd F.CTL_DK_STATUS_SETTLED) a then
    (s.setAct a { v with seek := none, seekRepeated := false }).dkBit F.CTL_DK_STATUS_SETTLED a true
  else s

/-- `WEDGE_RECORD`: a D-lane delivers a wedge: whether the SAM was found in its window, the burst sums and their nominal
sum, whether more than half of the samples sat at full scale, whether the VGA was at its limit, the index, the track, the
PES in 1/1024 of the pitch, the SAM interval and the instant in CLK_CTL cycles. The lane gives it a status; the record
waits for its slots, and the permit follows (R23, R247, R295, R296). -/
def execWedgeRecord (lane : BitVec 7) (found half vga : Bool) (sums : List (BitVec 16)) (nominal : BitVec 18)
    (index : BitVec 10) (track : BitVec 24) (pes : BitVec 16) (sam : Word) (now : BitVec 64) (s : State) :
    Host.Outcome State Fault Refusal :=
  match servoLane lane.toNat with
  | none => .next s
  | some a =>
    if !s.dMode || bitAt (s.rd F.CTL_DK_STATUS_RETRACTED) a then .next s
    else
      let n := lane.toNat
      let l := s.lane n
      let b := (sums.take 4).map BitVec.toNat
      let st := s.wedgeStatus l a found half vga b nominal.toNat index.toNat track.toNat
      let s := s.setLane n { l with
        lastSums := if found then b else l.lastSums, lastTrack := if st = 0 then track.toNat else l.lastTrack
        lastIndex := if st = 1 then (l.lastIndex + 1) % wedgesPerTurn else index.toNat }
      let s := s.wri F.LANE_STATUS_SERVO_VALID n (b2n (st = 0))
      let s := if st = 0 then s else s.inci F.LANE_WEDGE_BAD_COUNT n
      let v := s.act a
      let p := toSigned 16 pes.toNat
      let v := { v with
        track := if st = 0 then (track.toNat : Int) else v.track, pes := if st = 0 then p else v.pes
        validRun := if st = 0 then v.validRun + 1 else 0
        inLimit := if st = 0 && s.inWriteLimit p then v.inLimit + 1 else 0
        wrec := some { status := st, track := track.toNat, pes := p, sam := sam.toNat, time := now.toNat, taken := 0 } }
      let s := ((s.setAct a v).reloadDone a).settleWedge a
      .next (s.writePermit a (st = 0))

/-! ## Reload (R295) -/

/-- `RELOAD_ATTEMPT`: WAIT_MS after a retract the voice coil leaves the ramp in VELOCITY mode and servo is sought. -/
def execReloadAttempt (act : Bool) (s : State) : Host.Outcome State Fault Refusal :=
  let a := b2n act
  let v := s.act a
  if s.dMode && v.reload = 1 && s.ctl.spindle = 3 && !bitAt (s.rd F.FMT_HEAD_FAILED_ACTUATORS) a &&
      !s.on F.PWR_STATUS_BRACE then
    let s := s.loadActuator a
    .next (s.setAct a { s.act a with reload := 2, attempts := v.attempts + 1 })
  else .next s

/-- `RELOAD_WINDOW_EXPIRY`: the window ends. Without 32 VALID wedges in a row the attempt has failed: the actuator
retracts again, and after three failed attempts it fails, and so does the head on which servo was not acquired. -/
def execReloadWindowExpiry (act : Bool) (s : State) : Host.Outcome State Fault Refusal :=
  let a := b2n act
  let v := s.act a
  if !s.dMode || v.reload != 2 then .next s
  else if 32 ≤ v.validRun then .next (s.reloadDone a)
  else .next (s.failAttempt a)

/-! ## The motor driver's answers (R288, R289) -/

/-- `MDRV_FAULT_FALL`: MDRV_FLT_N falls and STATUS is sent on every enabled lane. -/
def execMdrvFaultFall (s : State) : Host.Outcome State Fault Refusal :=
  let s := s.wr F.CTL_MDRV_STATUS_FLT_N 0
  .next ((List.range 5).foldl (fun s l => if Store.get false s.ctl.laneOn l then s.sendMdrv l 0 0 else s) s)

/-- `MDRV_FAULT_RELEASE`: MDRV_FLT_N returns high. -/
def execMdrvFaultRelease (s : State) : Host.Outcome State Fault Refusal := .next (s.wr F.CTL_MDRV_STATUS_FLT_N 1)

/-- A lane whose FAULT bit is set (R289): a tape lane is the motor driver fault of Table 08-6, a voice-coil or
microactuator lane the actuator fault of Table 09-2, the spindle lane a spindle fault. -/
def State.laneFault (s : State) (lane data : Nat) : State :=
  let s := (s.raiseBit F.CTL_MDRV_STATUS_FAULT_LANES lane).wr F.CTL_ERR_STATUS_DRIVER_FAULT 1
  let s := s.raise 7 lane 0x507 data
  if s.tMode then (if s.tapeActive then s.tapeFault 5 else s)
  else if !s.dMode then s
  else if lane < 4 then
    let s := s.parkActuator (lane / 2)
    (s.setAct (lane / 2) { s.act (lane / 2) with failed := true }).failActuator (lane / 2) 1
  else if 1 ≤ s.ctl.spindle && s.ctl.spindle ≤ 3 then s.spindleFault 3
  else s

/-- The slot that drives a lane. -/
def State.slotOfLane (s : State) (lane : Nat) : Option Nat :=
  (List.range 12).find? (fun n => s.rdi F.CTL_SLOT_CFG_ROLE n != 0 && s.rdi F.CTL_SLOT_CFG_LANE n = lane)

/-- `MDRV_RESPONSE`: a driver's response frame arrives on a return lane. A bad CRC is counted and the slot keeps the
previous measured current; a DRIVE answer gives the current, SPEED_READ the speed, STATUS the state of the lane, whose
FAULT bit is acted on while MDRV_FLT_N is low (R288, R289). -/
def execMdrvResponse (lane : BitVec 3) (frame : Word) (s : State) : Host.Outcome State Fault Refusal :=
  let l := lane.toNat
  let f := frame.toNat
  let cmd := bits f 28 4
  let data := bits f 8 20
  if 5 ≤ l then .next s
  else if f != mdrvFrame cmd data then .next (s.inc F.CTL_MDRV_CRC_COUNT)
  else if cmd = 1 then
    match s.slotOfLane l with
    | some n => .next (s.setSlotOf n { s.slotOf n with current := toSigned 20 data * 2048 })
    | none => .next s
  else if cmd = 6 then .next (s.setCtl { s.ctl with speed := Store.put 0 s.ctl.speed l (toSigned 20 data) })
  else if cmd = 0 then
    let s := s.setCtl { s.ctl with laneStatus := Store.put 0 s.ctl.laneStatus l data }
    .next (if data % 2 = 1 && !s.on F.CTL_MDRV_STATUS_FLT_N then s.laneFault l data else s)
  else .next s

end Sys2Proof.Machine
end

