-- ==== Sys2Proof/Machine/Supply.lean ====
section
/-!
DEFINITION. Core droop, SAG_SENSE and the brace procedure (R378 to R388).
-/

namespace Sys2Proof.Machine

/-- Clocks, supply and Betony replaced. -/
def State.setPwr (s : State) (p : PwrSt) : State := { s with pwr := p }

/-! ## Core droop (R378 to R380) -/

/-- `DROOP_TRIP`: a sense point falls below the trip level. A trip that finds the clocks at full rate begins a slowing; a
trip while they are halved only restarts the hold count (R378, R379). -/
def execDroopTrip (s : State) : Host.Outcome State Fault Refusal :=
  if s.on F.CLK_STATUS_HALVED then .next s
  else
    let s := ((s.wr F.CLK_STATUS_HALVED 1).wr F.CLK_STATUS_HALVE_SEEN 1).inc F.CLK_HALVE_COUNT_COUNT
    .next (s.setPwr { s.pwr with winSlow := s.pwr.winSlow + 1, sinceSlow := 0 })

/-- Halved time passes. -/
def State.addHalved (s : State) (us : Nat) : State :=
  let s := s.addi F.CLK_HALVE_US_COUNT 0 us
  let h := match s.pwr.halved10 with
    | a :: t => Nat.min 1000 (a + us) :: t
    | [] => [Nat.min 1000 us]
  s.setPwr { s.pwr with winHalvedUs := s.pwr.winHalvedUs + us, halved10 := h }

/-- `DROOP_RESTORE`: no trip for HOLD cycles: the clocks are restored. `us` is the halved time since the last tick of the
millisecond (R379, R380). -/
def execDroopRestore (us : BitVec 10) (s : State) : Host.Outcome State Fault Refusal :=
  if s.on F.CLK_STATUS_HALVED then .next ((s.addHalved us.toNat).wr F.CLK_STATUS_HALVED 0) else .next s

/-- `SLOWING_WINDOW_END`: a window of 100 ms ends; with at least one slowing in it one event is enqueued (R380). -/
def execSlowingWindowEnd (s : State) : Host.Outcome State Fault Refusal :=
  let n := s.pwr.winSlow
  let us := s.pwr.winHalvedUs
  let s := s.setPwr { s.pwr with winSlow := 0, winHalvedUs := 0 }
  .next (if n = 0 then s else s.raise 5 0 0x001 (n % 2 ^ 32 + us % 2 ^ 32 * 2 ^ 32))

/-! ## What a brace and a shutdown do to motion and writes (Table 15-1) -/

/-- Media writes stop at their boundaries: a disk write at the release of AGa that follows the fragment, a tape write at
the end of the frame slot in progress. -/
def State.stopMediaWrites (s : State) : State :=
  let s := [0, 1].foldl (fun s a =>
    if (s.actWra a).field.isSome then s.setActWra a { s.actWra a with stopAtRelease := true } else s.stopWrites' a) s
  if s.tapeWriting then s.haltWriting (s.tape.lastSlot + 1) true else s

/-- A flash operation in progress is abandoned: the flash is reset (R383, R476). -/
def State.abandonNor (s : State) : State :=
  if s.boot.norOp = 1 || s.boot.norOp = 2 then
    { s with boot := { s.boot with norOp := 3, norBytes := [] } }.emit (.nor 2 0 0)
  else s

/-- The tape decelerates at DECEL, or brakes at once when it stands; with mode OFF nothing is sent. -/
def State.braceTape (s : State) : State :=
  if !s.tMode || s.rd F.CTL_TM_STATUS_MODE = 0 then s
  else if (s.slotOf 0).v = 0 && !s.mot.moving then
    ((s.sendMdrv 0 3 0).sendMdrv 1 3 0).wr F.CTL_TM_STATUS_MODE 2
  else
    let s := s.tapeRamp 0
    let s := [0, 1].foldl (fun s n => s.wri F.CTL_RAMP_AMAX_LIMIT n (s.rd F.PWR_BRACE_CFG_DECEL * 16384 / 100)) s
    (s.setMot { s.mot with
      moving := false, quiet := none, ramping := false, settled := 0, phase := .stop, phaseFrames := 0, turning := false
      reading := false, locate := none }).syncLevel

/-- The D-mode retract and coast. -/
def State.braceRetract (s : State) : State :=
  let spun := s.ctl.spindle = 1 || s.ctl.spindle = 2 || s.ctl.spindle = 3
  let s := s.stopSpindle
  s.setPwr { s.pwr with retractDue := false, spinAgain := spun }

/-- The tape has stopped: both reel lanes brake and the mode is HOLD. -/
def State.braceTapeDone (s : State) : State :=
  if s.tMode && 2 < s.rd F.CTL_TM_STATUS_MODE then ((s.sendMdrv 0 3 0).sendMdrv 1 3 0).wr F.CTL_TM_STATUS_MODE 2 else s

/-- The brace procedure begins (R383). -/
def State.beginBrace (s : State) : State :=
  let s := ((s.wr F.PWR_STATUS_BRACE 1).wr F.PWR_STATUS_BRACE_DONE 0).wr F.PWR_ERR_STATUS_BRACE 1
  let s := s.raise 5 0 0x002 s.pwr.sagMv
  let s := s.wr F.HIF_STATUS_READY 0
  let s := (s.stopMediaWrites.abandonNor).braceTape
  s.setPwr { s.pwr with braceMs := 0, retractDue := s.dMode, spinAgain := false }

/-! ## The rows (R381 to R387) -/

/-- `SAG_WARN_CROSSING`: SAG_SENSE, `mv` at the pin, has stayed below the warning level. After the lock point of this
start-up, with no brace in force, the brace procedure begins; before it only SAG_WARN shows (R383, R388). -/
def execSagWarnCrossing (mv : BitVec 10) (s : State) : Host.Outcome State Fault Refusal :=
  let s := (s.wr F.PWR_STATUS_SAG_WARN 1).setPwr { s.pwr with sagMv := mv.toNat }
  .next (if s.host.readyOnce && !s.on F.PWR_STATUS_BRACE then s.beginBrace else s)

/-- `SAG_WARN_CLEAR`: SAG_SENSE has stayed at or above WARN_MV + HYST_MV (R381). -/
def execSagWarnClear (s : State) : Host.Outcome State Fault Refusal := .next (s.wr F.PWR_STATUS_SAG_WARN 0)

/-- `BRACE_RETRACT_TIMER`: RETRACT_MS after the warning crossing the actuators retract and the spindle coasts (R383). -/
def execBraceRetractTimer (s : State) : Host.Outcome State Fault Refusal :=
  .next (if s.on F.PWR_STATUS_BRACE && s.pwr.retractDue then s.braceRetract else s)

/-- `BRACE_DONE`: every earlier step of Table 15-1 is done: no field is being written, the frame slot has ended, the
retract has been taken. The marker is written BRACED (R383, R387). -/
def execBraceDone (s : State) : Host.Outcome State Fault Refusal :=
  let open' := (s.actWra 0).field.isSome || (s.actWra 1).field.isSome || s.wra.squelchDue || s.pwr.retractDue
  if s.on F.PWR_STATUS_BRACE && !s.on F.PWR_STATUS_BRACE_DONE && !open' then
    let s := s.braceTapeDone
    let s := (s.setPwr { s.pwr with markState := 2, markSensor := 0, markDs := 0 }).wr F.PWR_STATUS_BRACE_DONE 1
    .next (s.raise 5 0 0x003 s.pwr.braceMs)
  else .next s

/-- An IMAGE_WRITE whose programming was abandoned completes with WRITE_FAILED and the write pointer returns to 0. -/
def State.endAbandoned (s : State) : State :=
  if s.boot.norOp = 3 then
    let s := { s with boot := { s.boot with norOp := 0, norBytes := [], writePtr := 0 } }
    (s.sq.cmds.filter (fun c => c.stage = .started && c.frame.opcode = 0x33)).foldl (fun s c => s.fail c stWriteFailed) s
  else s

/-- `BRACE_RECOVER`: the warning has been clear for RECOVER_MS and every step is complete: the brace ends without reset
(R386). -/
def execBraceRecover (s : State) : Host.Outcome State Fault Refusal :=
  if s.on F.PWR_STATUS_BRACE && s.on F.PWR_STATUS_BRACE_DONE && !s.on F.PWR_STATUS_SAG_WARN then
    let s := s.setPwr { s.pwr with markState := 1, markSensor := 0, markDs := 0 }
    let s := (s.wr F.PWR_STATUS_BRACE 0).wr F.PWR_STATUS_BRACE_DONE 0
    let s := s.wr F.HIF_STATUS_READY (b2n (!s.on F.HIF_STATUS_QUIESCE))
    let s := s.endAbandoned
    let s := if s.pwr.spinAgain then
        let s := [0, 1].foldl (fun s a =>
          if (s.surfaces a).isEmpty then s else s.setAct a { s.act a with reload := 1, attempts := 0 }) s
        (s.setPwr { s.pwr with spinAgain := false }).startSpindle
      else s
    let s := if s.tMode && s.mot.repos then s.ask 2 0 2
      else if s.tMode && s.rd F.CTL_TM_STATUS_MODE = 2 && s.medium.state = mReady then
        s.setMot { s.mot with stopped := true, stopMs := 0, stopClosed := 0 }
      else s
    .next (s.raise 5 0 0x004 s.pwr.braceMs)
  else .next s

end Sys2Proof.Machine
end

