-- ==== Sys2Proof/Machine/Thermal.lean ====
section
/-!
DEFINITION. Temperature sensors, thresholds, rate of rise, throttle causes and the throttle, shutdown (R389 to R398).
Readings are signed, 0.0625 °C per unit.
-/

namespace Sys2Proof.Machine

/-- A sensor's state beyond its register. -/
def State.sensor (s : State) (n : Nat) : Sensor := Store.get Sensor.init s.pwr.sensors n

/-- A sensor's state replaced. -/
def State.setSensor (s : State) (n : Nat) (v : Sensor) : State :=
  s.setPwr { s.pwr with sensors := Store.put Sensor.init s.pwr.sensors n v }

/-! ## Conversions (R390) -/

/-- `n ÷ d` rounded to nearest, for a positive `d`. -/
def roundDiv (n d : Int) : Int := (2 * n + d) / (2 * d)

/-- The binary logarithm's fraction: `n` bits of log2 of `x`, with `x` in [1, 2) as an integer of 40 fraction bits. -/
def log2Bits : Nat → Nat → Nat → Nat
  | 0, _, acc => acc
  | n + 1, x, acc =>
    let y := x * x / 2 ^ 40
    if 2 ^ 41 ≤ y then log2Bits n (y / 2) (2 * acc + 1) else log2Bits n y (2 * acc)

/-- ln of a positive ratio a ÷ b with 32 fraction bits: the exponent and 32 bits of the binary logarithm, times ln 2. -/
def lnRatio (a b : Nat) : Int :=
  let e : Int := (Nat.log2 a : Int) - (Nat.log2 b : Int)
  let x0 := if 0 ≤ e then a * 2 ^ 40 / (b * 2 ^ e.toNat) else a * 2 ^ 40 * 2 ^ (-e).toNat / b
  let (e, x) := if x0 < 2 ^ 40 then (e - 1, 2 * x0) else if 2 ^ 41 ≤ x0 then (e + 1, x0 / 2) else (e, x0)
  (e * 2 ^ 32 + (log2Bits 32 x 0 : Int)) * 2977044472 / 2 ^ 32

/-- Diode mode: T = ΔV × q ÷ (η × k × ln 16) − 273.15 °C in units of 0.0625 °C, with ΔV in nV corrected for the series
resistance in 0.01 Ω (the 150 µA step across it) and η in 1/32,768. -/
def diodeTemp (nv rseries eta : Nat) : Int :=
  let dv : Int := (nv : Int) - 1500 * (rseries : Int)
  roundDiv (16 * (dv * 4185445186 * 32768 - 27315 * 10 ^ 13 * (eta : Int))) ((eta : Int) * 10 ^ 15)

/-- Thermistor mode: T = 1 ÷ (1/298.15 + ln(R ÷ R25) ÷ B) − 273.15 °C in units of 0.0625 °C. -/
def thermistorTemp (ohms r25 beta : Nat) : Int :=
  let d : Int := (beta : Int) * 100 * 2 ^ 32 + 29815 * lnRatio ohms r25
  if d ≤ 0 then 32767 else roundDiv (16 * (29815 * (beta : Int) * 2 ^ 32) - 16 * 27315 * d / 100) d

/-- The reading a conversion gives, or the fault code 1 open, 2 short, 3 missed (R390, R391). A channel without its
calibration gives the lowest reading. -/
def State.convert (s : State) (n : Nat) (i : SensorIn) : Int ⊕ Nat :=
  let off := toSigned 16 (s.rdi F.THM_CH_CFG_OFFSET n)
  let c0 := s.rdi F.THM_CH_CAL0_CAL0 n
  let c1 := s.rdi F.THM_CH_CAL1_CAL1 n
  match i with
  | .openPin => .inr 1
  | .shortPin => .inr 2
  | .missed => .inr 3
  | .internal r => .inl (toSigned 16 r.toNat)
  | .diode nv => .inl (clampInt (-32768) 32767 ((if c0 = 0 then -32768 else diodeTemp nv.toNat c1 c0) + off))
  | .thermistor r =>
    .inl (clampInt (-32768) 32767 ((if c0 = 0 || c1 = 0 || r = 0#32 then -32768 else thermistorTemp r.toNat c0 c1) + off))

/-- The form of a conversion is that of the sensor's mode, and the sensor is in use (R389, Table 15-12). -/
def State.converts (s : State) (n : Nat) (i : SensorIn) : Bool :=
  let m := s.rdi F.THM_CH_CFG_MODE n
  if n < 2 then (m = 3 && match i with | .internal _ => true | _ => false)
  else if n < 10 then
    match i with
    | .diode _ => m = 1
    | .thermistor _ => m = 2
    | .openPin | .shortPin => m = 1 || m = 2
    | _ => false
  else n < 12 && s.dMode && m = 3 && match i with
    | .internal _ | .missed => true
    | _ => false

/-! ## Causes and the throttle (R395, R396) -/

/-- A sensor counts in the causes: its reading is in use. -/
def sensorNums : List Nat := List.range 12

/-- The causes as they now stand: level, rate, power, sensor fault (R395). -/
def State.causesNow (s : State) : Nat :=
  b2n (sensorNums.any (fun n => 2 ≤ s.rdi F.THM_TEMP_LEVEL n)) + 2 * b2n (sensorNums.any (fun n => s.rdi F.THM_TEMP_RISE n != 0)) +
    4 * b2n (s.rd F.PWR_STATUS_SHED = 4) + 8 * b2n (sensorNums.any (fun n => s.rdi F.THM_TEMP_FAULT n != 0))

/-- Units admitted in the ten whole windows that ended last, a window without admission counting 0 (R396). -/
def State.unitsOfTen (s : State) : Nat := (s.pwr.admitted.take 10).sum

/-- STATE becomes 2: UNITS from the mean of ten windows, the window in progress metered from now (R87, R396). -/
def State.enforce (s : State) : State :=
  let u := Nat.max (s.rd F.PWR_THROTTLE_CFG_MIN_UNITS) (s.unitsOfTen * (100 - s.rd F.PWR_BETONY_CFG_STEP_PCT) / 1000)
  let s := ((s.wr F.SQ_THROTTLE_STATE 2).wr F.SQ_THROTTLE_ENFORCE_SEEN 1).wr F.SQ_ADMIT_LIMIT_UNITS u
  let s := { s with sq := { s.sq with winLeft := s.rd F.SQ_ADMIT_LIMIT_UNITS, winFresh := true, winShut := false } }
  s.raise 6 0 0x008 (s.rd F.SQ_ADMIT_LIMIT_UNITS)

/-- The causes change and the throttle follows (R395). -/
def State.syncCauses (s : State) : State :=
  let old := s.rd F.THM_STATUS_CAUSES
  let new := s.causesNow
  if new = old then s
  else
    let s := s.wr F.THM_STATUS_CAUSES new
    let st := s.rd F.SQ_THROTTLE_STATE
    let grace := s.rd F.PWR_THROTTLE_CFG_GRACE_MS
    let fresh := new != 0 && st = 0
    if fresh then
      let s := s.raise 6 0 0x007 new
      if s.pwr.sinceRelease < grace then s.enforce
      else (s.wr F.SQ_THROTTLE_STATE 1).wr F.SQ_THROTTLE_ADVISORY_SEEN 1
    else if new = 0 && st != 0 then
      let s := if st = 2 then s.setPwr { s.pwr with sinceRelease := 0 } else s
      let s := s.unask 4 0
      ((s.wr F.SQ_THROTTLE_STATE 0).wr F.SQ_ADMIT_LIMIT_UNITS 0xFFFFFF).raise 6 0 0x009 0
    else s

/-- `THROTTLE_GRACE_EXPIRY`: some cause has been set for GRACE_MS since STATE became 1 (R395). -/
def execThrottleGraceExpiry (s : State) : Host.Outcome State Fault Refusal :=
  .next (if s.rd F.SQ_THROTTLE_STATE = 1 && s.rd F.THM_STATUS_CAUSES != 0 then s.enforce else s)

/-- A reading as a signed number. -/
def State.reading (s : State) (n : Nat) : Int := toSigned 16 (s.rdi F.THM_TEMP_READING n)

/-- The THROTTLE threshold of a sensor. -/
def State.throttleAt (s : State) (n : Nat) : Int := toSigned 16 (s.rdi F.THM_CH_LIM_THROTTLE n)

/-- The hottest sensor: the highest reading relative to its THROTTLE threshold, the lowest number on ties (R396). -/
def State.hottest (s : State) : Nat :=
  (sensorNums.filter (fun n => s.rdi F.THM_TEMP_VALID n != 0)).foldl (fun m n =>
    if s.rdi F.THM_TEMP_VALID m = 0 || s.reading m - s.throttleAt m < s.reading n - s.throttleAt n then n else m) 0

/-- The reading of a sensor at or before a time, the oldest one held when there is none. -/
def readingBefore (l : List (Nat × Int)) (t : Nat) (now : Int) : Int :=
  match l.find? (fun p => p.1 ≤ t) with
  | some p => p.2
  | none => (l.getLast?.map (fun p => p.2)).getD now

/-- UNITS one step up, under a grant (R396). -/
def State.raiseUnits (s : State) : State :=
  if s.rd F.SQ_THROTTLE_STATE = 2 then
    s.wr F.SQ_ADMIT_LIMIT_UNITS (Nat.min 0xFFFFFF
      (ceilDiv (s.rd F.SQ_ADMIT_LIMIT_UNITS * (100 + s.rd F.PWR_BETONY_CFG_STEP_PCT)) 100))
  else s

/-- `THROTTLE_ADJUST`: every 1 s under enforcement UNITS falls, is to rise, or stands, by the hottest sensor (R396). -/
def execThrottleAdjust (s : State) : Host.Outcome State Fault Refusal :=
  if s.rd F.SQ_THROTTLE_STATE != 2 then .next s
  else
    let h := s.hottest
    let s := s.wr F.THM_STATUS_HOTTEST h
    let fell := readingBefore (s.sensor h).hist (s.life.ms - 1000) (s.reading h) - s.reading h
    if fell < 8 then
      .next (s.wr F.SQ_ADMIT_LIMIT_UNITS (Nat.max (s.rd F.PWR_THROTTLE_CFG_MIN_UNITS)
        (s.rd F.SQ_ADMIT_LIMIT_UNITS * (100 - s.rd F.PWR_BETONY_CFG_STEP_PCT) / 100)))
    else if 32 ≤ fell then .next (s.ask 4 0 4)
    else .next s

/-! ## Faults and readings (R389, R391) -/

/-- A sensor faults, for 1 open, 2 short, 3 out of range or missed (R391). -/
def State.sensorFault (s : State) (n code : Nat) : State :=
  let s := s.wri F.THM_TEMP_VALID n 0
  if s.rdi F.THM_TEMP_FAULT n != 0 then s
  else ((((s.wri F.THM_TEMP_FAULT n 1).wr F.THM_ERR_STATUS_SENSOR_FAULT 1).raise 6 n 0x00C code).syncCauses)

/-- A valid reading enters the register and the history: 60 s of sensor 0, for TJ_MAX, and 14 s of the others. Above 85 °C of
the stack the memory controller doubles the refresh rate (R472). -/
def State.takeReading (s : State) (n : Nat) (t : Int) : State :=
  let s := if n = 1 then { s with mem := { s.mem with fastRefresh := decide (1360 < t) } } else s
  let s := (s.wri F.THM_TEMP_READING n (ofSigned 16 t)).wri F.THM_TEMP_VALID n 1
  let v := s.sensor n
  s.setSensor n { v with
    misses := 0, hist := ((s.life.ms, t) :: v.hist).filter (fun p => s.life.ms - p.1 ≤ (if n = 0 then 60000 else 14000)) }

/-- `SENSOR_CONVERSION`: a sensor converts. A remote channel or a preamp sensor faults on an open or a short, outside
−40 °C to 150 °C, or on the third miss in a row; other readings are taken. Sensors 1, 10 and 11 need the core (R389 to
R391). -/
def execSensorConversion (sensor : BitVec 4) (inp : SensorIn) (s : State) : Host.Outcome State Fault Refusal :=
  let n := sensor.toNat
  let core := n = 1 || 10 ≤ n
  if !s.converts n inp || (core && s.pwr.thermalHold.isSome) then .next s
  else
    match s.convert n inp with
    | .inr 3 =>
      let m := (s.sensor n).misses + 1
      let s := s.setSensor n { s.sensor n with misses := m }
      .next (if 3 ≤ m then s.sensorFault n 3 else s)
    | .inr code => .next (s.sensorFault n code)
    | .inl t =>
      if 2 ≤ n && (t < -640 || 2400 < t) then .next (s.sensorFault n 3) else .next ((s.takeReading n t).syncCauses)

/-- `SENSOR_FAULT_CLEAR`: 10 s of valid readings have passed (R391). -/
def execSensorFaultClear (sensor : BitVec 4) (s : State) : Host.Outcome State Fault Refusal :=
  let n := sensor.toNat
  .next (if n < 12 && s.rdi F.THM_TEMP_FAULT n != 0 && s.rdi F.THM_TEMP_VALID n != 0 then
    ((s.wri F.THM_TEMP_FAULT n 0).raise 6 n 0x00D (s.rdi F.THM_TEMP_READING n)).syncCauses else s)

/-! ## Rate of rise (R393) -/

/-- The limit of a sensor's rate: RISE, or the default of its role. -/
def State.riseLimit (s : State) (n : Nat) : Int :=
  let r := s.rdi F.THM_CH_RISE_RISE n
  let role := s.rdi F.THM_CH_CFG_ROLE n
  if r != 0 then (r : Int) else if role = 2 || role = 3 || role = 6 then 8 else 32

/-- The rate at the conversion made at time `t` with reading `x`, in 0.0625 °C/s; 0 without a reading WIN_MS earlier. -/
def State.rateAt (s : State) (n t : Nat) (x : Int) : Int :=
  let w := s.rdi F.THM_CH_RISE_WIN_MS n
  match (s.sensor n).hist.find? (fun p => p.1 + w ≤ t) with
  | some p => (x - p.2) * 1000 / (w : Int)
  | none => 0

/-- The conversions of the last DWELL_MS. -/
def State.dwellWindow (s : State) (n : Nat) : List (Nat × Int) :=
  (s.sensor n).hist.filter (fun p => s.life.ms < p.1 + s.rd F.THM_DWELL_DWELL_MS)

/-- `RISE_DWELL_EXPIRY`: the rate has exceeded its limit at every conversion for DWELL_MS, or has stayed at or below half
of it (R393, Table 15-3). -/
def execRiseDwellExpiry (sensor : BitVec 4) (s : State) : Host.Outcome State Fault Refusal :=
  let n := sensor.toNat
  let w := s.dwellWindow n
  let lim := s.riseLimit n
  let rate := s.rateAt n s.life.ms (s.reading n)
  if 12 ≤ n || w.isEmpty then .next s
  else if s.rdi F.THM_TEMP_RISE n = 0 && w.all (fun p => lim < s.rateAt n p.1 p.2) then
    .next ((((s.wri F.THM_TEMP_RISE n 1).wr F.THM_ERR_STATUS_RISE 1).raise 6 n 0x005 (ofSigned 16 rate)).syncCauses)
  else if s.rdi F.THM_TEMP_RISE n != 0 && w.all (fun p => 2 * s.rateAt n p.1 p.2 ≤ lim) then
    .next (((s.wri F.THM_TEMP_RISE n 0).raise 6 n 0x006 (ofSigned 16 rate)).syncCauses)
  else .next s

/-! ## Thresholds (R392, R394) -/

/-- Threshold 1 WARN, 2 THROTTLE, 3 SHUTDOWN of a sensor; 0x7FFF is disabled. -/
def State.threshold (s : State) (n k : Nat) : Nat :=
  match k with
  | 1 => s.rdi F.THM_CH_LIM_WARN n
  | 2 => s.rdi F.THM_CH_LIM_THROTTLE n
  | _ => s.rdi F.THM_CH_SHUT_SHUTDOWN n

/-- The level of a mask of entered thresholds: the highest one. -/
def levelOf (m : Nat) : Nat := if bitAt m 2 then 3 else if bitAt m 1 then 2 else b2n (bitAt m 0)

/-- The mask of a sensor and its level. -/
def State.setEntered (s : State) (n m : Nat) : State :=
  (s.setSensor n { s.sensor n with entered := m }).wri F.THM_TEMP_LEVEL n (levelOf m)

/-- Thermal shutdown: media writes stop, the flash is abandoned, motion is made safe at once, the marker is written
THERMAL, and the POR and WARM domains are reset and held (R173, R397, R398). -/
def State.thermalShutdown (s : State) (n : Nat) : State :=
  let writing := s.tapeWriting
  let ds := if writing then s.setInProgress else 0xFFFFFFFF
  let s := if writing then s.interruptSet else s
  let s := (s.stopMediaWrites.abandonNor).braceTape.braceTapeDone
  let s := if s.dMode then s.braceRetract else s
  let s := s.setPwr { s.pwr with markState := 3, markSensor := n, markDs := ds % 2 ^ 32, thermalHold := some n }
  s.resetPor.resetCause 4

/-- `THRESHOLD_DWELL_EXPIRY`: the dwell of a threshold (1 WARN, 2 THROTTLE, 3 SHUTDOWN) of a sensor completes: it is
entered when every reading of the dwell stands at or above it, left when every one stands below it less HYST (R392,
R394). A faulted sensor causes no shutdown (R391). -/
def execThresholdDwellExpiry (sensor : BitVec 4) (thr : BitVec 2) (s : State) : Host.Outcome State Fault Refusal :=
  let n := sensor.toNat
  let k := thr.toNat
  let v := s.threshold n k
  let x := toSigned 16 v
  let w := s.dwellWindow n
  let m := (s.sensor n).entered
  let r := s.rdi F.THM_TEMP_READING n
  if 12 ≤ n || k = 0 || v = 0x7FFF || w.isEmpty then .next s
  else if !bitAt m (k - 1) && w.all (fun p => x ≤ p.2) then
    let s := s.setEntered n (setBit m (k - 1))
    match k with
    | 1 => .next ((s.wr F.THM_ERR_STATUS_WARN 1).raise 6 n 0x001 r)
    | 2 => .next (((s.wr F.THM_ERR_STATUS_THROTTLE 1).raise 6 n 0x003 r).syncCauses)
    | _ => if s.rdi F.THM_TEMP_FAULT n != 0 then .next s.syncCauses
      else .next ((s.raise 6 n 0x00A r).thermalShutdown n)
  else if bitAt m (k - 1) && w.all (fun p => p.2 < x - s.rd F.THM_DWELL_HYST) then
    let s := s.setEntered n (clrBit m (k - 1))
    match k with
    | 1 => .next (s.raise 6 n 0x002 r)
    | 2 => .next ((s.raise 6 n 0x004 r).syncCauses)
    | _ => .next s.syncCauses
  else .next s

/-- `THERMAL_RELEASE`: every always-on sensor has read below its THROTTLE threshold for 10 s: the POR domain is released
(R398). -/
def execThermalRelease (s : State) : Host.Outcome State Fault Refusal :=
  let aon := [0, 2, 3, 4, 5, 6, 7, 8, 9]
  let cool := aon.all (fun n => s.rdi F.THM_TEMP_VALID n = 0 || (decide (s.reading n < s.throttleAt n) &&
    (s.sensor n).hist.all (fun p => decide (p.1 + 10000 ≤ s.life.ms) || decide (p.2 < s.throttleAt n))))
  .next (if s.pwr.thermalHold.isSome && cool then s.setPwr { s.pwr with thermalHold := none } else s)

end Sys2Proof.Machine
end

