-- ==== Sys2Proof/Machine/Betony.lean ====
section
/-!
DEFINITION. The energy-and-heat budget scheduler: prices, available power, grants, caps and shedding (R22, R399 to
R403).
-/

namespace Sys2Proof.Machine

/-! ## Prices (R399, Table 15-5) -/

/-- A cost entry in its unit. -/
def State.cost (s : State) (i : Nat) : Nat := s.rdi F.PWR_COST_VALUE i

/-- The price of writing with head `h` at its write level, in mW. -/
def State.writePrice (s : State) (h : Nat) : Nat :=
  let l := (Store.get HeadLoop.init s.wra.loops h).level
  match s.kindOf h with
  | 0 => s.cost 3
  | 1 => s.cost 4 + s.cost 5 * l / 1000
  | _ => s.cost 6 + s.cost 7 * l / 1000

/-- The price of a seek at `x` percent. -/
def State.seekPrice (s : State) (x : Nat) : Nat := s.cost 8 * x * x / 10000

/-- The price of a number of admission units in each window. -/
def State.admitPrice (s : State) (units : Nat) : Nat := s.cost 10 * units * 4096 / 100000

/-- The price of a rebuild share. -/
def State.sharePrice (s : State) (pct : Nat) : Nat := s.cost 13 * pct / 10

/-- The price of a motor output by the current its slot last reported: a reel's or a voice coil's (R300). -/
def State.motorPrice (s : State) (n : Nat) : Nat :=
  let i := Store.get 0 s.pwr.currents n
  let role := s.rdi F.CTL_SLOT_CFG_ROLE n
  if role = 5 then s.cost 14 * i * i / 2 ^ 60 else if role = 1 then s.cost 15 * i * i / 2 ^ 60 else 0

/-- The prices of the disk writes in force. -/
def State.writesPrice (s : State) : Nat :=
  ((List.range 4).map (fun c => if 3 ≤ s.chanClass c then s.writePrice (s.chan c).head else 0)).sum

/-- The price of the tape motion in force at its step. -/
def State.stepPrice (s : State) : Nat :=
  if s.tMode && s.mot.moving then s.cost (16 + s.rd F.CTL_TM_STATUS_STEP) else 0

/-- C: the prices of every activity in force, in mW. Admission counts while a limit is in force. -/
def State.committed (s : State) : Nat :=
  let base := if s.tMode then s.cost 0 else if s.dMode && s.ctl.spindle = 3 then s.cost 1 else 0
  let spin := if s.ctl.spindle = 1 || s.ctl.spindle = 2 then s.cost 9 else 0
  let reads := ((List.range 4).map (fun c => if s.chanClass c = 1 then s.cost 2 else 0)).sum
  let seeks := ([0, 1].map (fun a => if (s.act a).seek.isSome then s.seekPrice (Store.get 0 s.pwr.granted a) else 0)).sum
  let motors := ((List.range 12).map (fun n => if s.slotOn n then s.motorPrice n else 0)).sum
  let host := if s.rd F.SQ_THROTTLE_STATE = 2 then s.admitPrice (s.rd F.SQ_ADMIT_LIMIT_UNITS) else 0
  let tape := (if s.tapeClass = 7 && s.tapeWriting then s.cost 11 else 0) +
    (if s.tMode && s.mot.repos && s.mot.moving then s.cost 12 else 0) + s.stepPrice
  base + spin + reads + s.writesPrice + seeks + motors + host + tape + s.sharePrice (s.rd F.RED_SHARE_CURRENT)

/-! ## Available power (R400) -/

/-- The factor of a sensor in 1/65,536: 0.5 + 0.5 × h, with h 0 for a faulted one; a disabled threshold is not a valid one
(log 81). -/
def State.sensorFactor (s : State) (n : Nat) : Nat :=
  let w := toSigned 16 (s.rdi F.THM_CH_LIM_WARN n)
  let t := s.throttleAt n
  if t ≤ w || t = 0x7FFF then 65536
  else if s.rdi F.THM_TEMP_FAULT n != 0 then 32768
  else if s.rdi F.THM_TEMP_VALID n = 0 then 65536
  else 32768 + (clampInt 0 32768 ((t - s.reading n) * 32768 / (t - w))).toNat

/-- The heat factor F in 1/65,536. -/
def State.heatFactor (s : State) : Nat := sensorNums.foldl (fun m n => Nat.min m (s.sensorFactor n)) 65536

/-- A slowing has begun within DERATE_MS. -/
def State.derated (s : State) : Bool := s.pwr.sinceSlow < s.rd F.PWR_RESERVE_DERATE_MS

/-- B in mW. -/
def State.budgetNow (s : State) : Int :=
  let b : Int := ((s.rd F.PWR_BUDGET_BUDGET_MW * s.heatFactor / 65536 : Nat) : Int) - (s.rd F.PWR_RESERVE_RESERVE_MW : Int)
  let b := if s.derated then b * (100 - (s.rd F.PWR_DROOP_CFG_DERATE_PCT : Int)) / 100 else b
  if s.on F.PWR_STATUS_BRACE then 0 else b

/-- The correction c moves toward M ÷ C; units of 2^-30 (R400). -/
def nextCorr (c m cc : Nat) : Nat :=
  (clampInt (3 * 2 ^ 28) (3 * 2 ^ 29) ((c : Int) + (((m * 2 ^ 30 / Nat.max cc 1 : Nat) : Int) - (c : Int)) / 1024)).toNat

/-- A price corrected by c. -/
def State.corrPrice (s : State) (p : Nat) : Int := ((s.pwr.corr * p / 2 ^ 30 : Nat) : Int)

/-! ## Grants (R401) -/

/-- The rebuild share and the port weights that follow it (R368). -/
def State.setShare (s : State) (t : Nat) : State :=
  let bulk := Nat.max 1 ((t * 8 + 50) / 100)
  ((s.wr F.RED_SHARE_CURRENT t).wr F.GRP_PORT_ARB_BULK_W bulk).wr F.GRP_PORT_ARB_DATA_W (Nat.max 1 (8 - bulk))

/-- The price of a request other than a seek: what it adds to C. -/
def State.requestPrice (s : State) (r : Request) : Nat :=
  let st := s.rd F.CTL_TM_STATUS_STEP
  let u := s.rd F.SQ_ADMIT_LIMIT_UNITS
  match r.kind with
  | 0 => s.writePrice (r.what / 4)
  | 2 => s.cost 12
  | 3 => s.cost (16 + Nat.min 15 (st + 1)) - s.cost (16 + st)
  | 4 => s.admitPrice (u * (100 + s.rd F.PWR_BETONY_CFG_STEP_PCT) / 100) - s.admitPrice u
  | _ => s.sharePrice (s.rd F.RED_SHARE_TARGET) - s.sharePrice (s.rd F.RED_SHARE_CURRENT)

/-- What a grant lets start. -/
def State.grantAction (s : State) (r : Request) (x : Nat) : State :=
  match r.kind with
  | 0 => s.setChan (r.what % 4) { s.chan (r.what % 4) with granted := true }
  | 1 => s.startSeek r.what x
  | 2 =>
    match r.what with
    | 0 => s.runUp
    | 1 => s.restartTape
    | 2 => s.parkReverse
    | _ => s.locateTape
  | 3 => s.startChange (Nat.min 15 (s.rd F.CTL_TM_STATUS_STEP + 1))
  | 4 => s.raiseUnits
  | _ => s.setShare (s.rd F.RED_SHARE_TARGET)

/-- The acceleration that fits, the highest first; 100 is the only choice of anything but a seek. -/
def State.fits (s : State) (r : Request) (avail : Int) : Option (Nat × Int) :=
  if r.kind = 1 then
    ([100, 75, 50, 25].map (fun x => (x, s.corrPrice (s.seekPrice x)))).find? (fun p => p.2 ≤ avail)
  else if s.corrPrice (s.requestPrice r) ≤ avail then some (100, s.corrPrice (s.requestPrice r)) else none

/-- A request is considered: while the throttle is enforced only priorities 1 and 2, and the rise of UNITS that R396 puts
under a grant; never the tape restart or a seek during a brace, when B is 0, nor a seek of an actuator that is retracted:
it waits on (R22). -/
def State.considered (s : State) (r : Request) : Bool :=
  let away := bitAt (s.rd F.CTL_DK_STATUS_RETRACTED) r.what || (s.act r.what).reload != 0 || s.ctl.spindle != 3
  !s.on F.PWR_STATUS_BRACE && (s.rd F.SQ_THROTTLE_STATE != 2 || r.prio ≤ 2 || r.kind = 4) &&
    !(r.kind = 5 && s.red.shareFloor) && !(r.kind = 1 && away)

/-- The requests in order, with what is left of the available power: the state after the grants. -/
def State.grantAll : List Request → Int → State → State
  | [], _, s => s
  | r :: t, avail, s =>
    match (if s.considered r then s.fits r avail else none) with
    | some (x, p) =>
      let s := (s.unask r.kind r.what).inc F.PWR_GRANTS_COUNT
      State.grantAll t (avail - p) (s.grantAction r x)
    | none =>
      if s.considered r && s.rd F.PWR_BETONY_CFG_AGE_MS ≤ r.ageMs then s else State.grantAll t avail s

/-- The waiting requests by priority, the oldest first within each (Table 15-6). -/
def State.inOrder (s : State) : List Request :=
  ((List.range 7).map (fun p => s.pwr.requests.filter (fun r => r.prio = p))).flatten

/-! ## Caps (R188, R261, R402) -/

/-- The highest step a condition allows, 0 when none does. -/
def highestStep (p : Nat → Bool) : Nat := ((List.range 16).reverse.find? p).getD 0

/-- The step cap from the active cells and the halved µs of the last 10 ms (R261, R402). -/
def State.capCells (s : State) : Nat :=
  let h := Nat.min 10000 s.pwr.halved10.sum
  highestStep (fun x => 64 * (130 + 26 * x) * 20000 * 10 ≤ 9 * s.activeCells * (20000 - h) * 1667)

/-- The step cap from the budget. -/
def State.capPower (s : State) (c : Nat) (b : Int) : Nat :=
  highestStep (fun x => s.corrPrice (c - s.stepPrice + s.cost (16 + x)) ≤ b)

/-- The dearest write of a head in service. -/
def State.dearestWrite (s : State) : Nat :=
  ((s.surfaces 0 ++ s.surfaces 1).map s.writePrice).foldl Nat.max 0

/-- The number of concurrent writes whose prices fit B with the activities in force, 1 to 4 (R402). -/
def State.writeAllowance (s : State) (c : Nat) (b : Int) : Nat :=
  let rest := c - s.writesPrice
  (([4, 3, 2].find? (fun k => s.corrPrice (rest + k * s.dearestWrite) ≤ b)).getD 1)

/-- CAP falls below the step in force or a change in progress: a change to CAP starts at once (R188, R402). -/
def State.obeyCap (s : State) : State :=
  let cap := s.rd F.CTL_TM_STATUS_CAP
  let t := s.rd F.CTL_TM_STATUS_TARGET
  if !s.tMode || t ≤ cap then s
  else if s.mot.ramping then (s.wr F.CTL_TM_STATUS_TARGET cap).tapeRun cap
  else match s.mot.quiet with
    | some x => if x < 16 then (s.wr F.CTL_TM_STATUS_TARGET cap).setMot { s.mot with quiet := some cap } else s
    | none => s.startChange cap

/-- The caps are recomputed and lowered by the shed level. -/
def State.recap (s : State) (c : Nat) (b : Int) : State :=
  let shed := s.rd F.PWR_STATUS_SHED
  let p := s.capPower c b
  let k := s.capCells
  let w := s.writeAllowance c b
  let s := (s.wr F.PWR_BETONY_STATUS_CAP_POWER p).wr F.PWR_BETONY_STATUS_CAP_CELLS k
  let s := s.wr F.PWR_BETONY_STATUS_WRITES (if 2 ≤ shed then Nat.max 1 (w - 1) else w)
  let s := s.wr F.CTL_TM_STATUS_CAP (Nat.min p k - (if 3 ≤ shed then 1 else 0))
  s.obeyCap

/-! ## Shedding (R403) -/

/-- The actions of the shed level: the rebuild share at its floor from 1 on, the power cause at 4. -/
def State.shedActions (s : State) : State :=
  let floor := s.rd F.RED_RATE_FLOOR_PCT
  let shed := s.rd F.PWR_STATUS_SHED
  let s := { s with red := { s.red with shareFloor := decide (1 ≤ shed) } }
  let s := if 1 ≤ shed && floor < s.rd F.RED_SHARE_CURRENT then s.setShare floor else s
  s.syncCauses

/-- The shed level rises by one, to at most 4. -/
def State.shedRaise (s : State) : State :=
  let s := s.setPwr { s.pwr with overMs := 0 }
  let n := s.rd F.PWR_STATUS_SHED
  if n < 4 then
    let s := (s.wr F.PWR_STATUS_SHED (n + 1)).wr F.PWR_ERR_STATUS_SHED 1
    (s.raise 5 0 0x005 (n + 1 + s.rd F.PWR_MEASURED_MW * 2 ^ 32)).shedActions
  else s

/-- The shed level falls by one. -/
def State.shedLower (s : State) : State :=
  let s := s.setPwr { s.pwr with underMs := 0 }
  let n := s.rd F.PWR_STATUS_SHED
  if 0 < n then (s.wr F.PWR_STATUS_SHED (n - 1)).shedActions else s

/-- `SHED_RAISE`: M has exceeded B for OVER_MS (R403). -/
def execShedRaise (s : State) : Host.Outcome State Fault Refusal :=
  .next (if 0 < s.pwr.overMs then s.shedRaise else s)

/-- `SHED_LOWER`: M has stayed at or below 0.9 × B for 1 s (R403). -/
def execShedLower (s : State) : Host.Outcome State Fault Refusal :=
  .next (if 0 < s.pwr.underMs then s.shedLower else s)

/-- The times for which M has been over B, or low, after one more loop; the shed level follows. -/
def State.shedTimes (s : State) (m : Nat) (b : Int) : State :=
  let s := s.setPwr { s.pwr with
    overMs := if b < m then s.pwr.overMs + 1 else 0
    underMs := if 10 * (m : Int) ≤ 9 * b then s.pwr.underMs + 1 else 0 }
  let s := if s.rd F.PWR_BETONY_CFG_OVER_MS ≤ s.pwr.overMs then s.shedRaise else s
  if 1000 ≤ s.pwr.underMs then s.shedLower else s

/-! ## The loop (R399 to R402) -/

/-- The currents of the four channels and M in mW, from the mean ADC readings of the last 1 ms (R399). -/
def State.measure (s : State) (adc : List Nat) : State :=
  let s := (List.range 4).foldl (fun s n =>
    s.wri F.PWR_ISENSE_MA n ((adc[n]?).getD 0 * s.rdi F.PWR_ISENSE_CFG_GAIN n / 256)) s
  let m := ((List.range 4).map (fun n => s.rdi F.PWR_ISENSE_MA n * s.rdi F.PWR_ISENSE_CFG_RAIL_MV n)).sum / 1000
  s.wr F.PWR_MEASURED_MW (Nat.min (2 ^ 17 - 1) m)

/-- `BETONY_LOOP`: every 1 ms: M, C and c, the heat factor and B, the grants, the caps and the shed times. The operands
are the mean ADC readings of ISENSE0 to ISENSE3. -/
def execBetonyLoop (i0 i1 i2 i3 : BitVec 16) (s : State) : Host.Outcome State Fault Refusal :=
  let s := s.measure [i0.toNat, i1.toNat, i2.toNat, i3.toNat]
  let m := s.rd F.PWR_MEASURED_MW
  let c := s.committed
  let s := s.wr F.PWR_COMMITTED_MW (Nat.min (2 ^ 17 - 1) c)
  let s := s.setPwr { s.pwr with corr := nextCorr s.pwr.corr m c
                                 requests := s.pwr.requests.map (fun r => { r with ageMs := r.ageMs + 1 }) }
  let s := s.wr F.PWR_CORRECTION_C (s.pwr.corr / 2 ^ 20)
  let s := (s.wr F.PWR_BETONY_STATUS_HEAT (s.heatFactor / 256)).wr F.PWR_BETONY_STATUS_DERATED (b2n s.derated)
  let b := s.budgetNow
  let avail := b - max (m : Int) (s.corrPrice c)
  let s := State.grantAll s.inOrder avail s
  let s := if s.pwr.requests.isEmpty then s else s.inc F.PWR_WITHHELD_COUNT
  .next ((s.recap s.committed b).shedTimes m b)

end Sys2Proof.Machine
end

