-- ==== Sys2Proof/Machine/Packets.lean ====
section
/-!
DEFINITION. The peer links: packets as bytes, link frames, credits and arbitration, routing and end-to-end sequence
numbers (R305 to R320).
-/

namespace Sys2Proof.Machine

/-- The group state replaced. -/
def State.setGrp (s : State) (g : GrpSt) : State := { s with grp := g }

/-! ## Packets as bytes (R315, R316) -/

/-- The 16 header bytes with a given byte 3. -/
def Packet.header (p : Packet) (hops : Nat) : List Byte :=
  leBytes 1 p.type ++ leBytes 1 p.src ++ leBytes 1 p.dst ++ leBytes 1 hops ++ leBytes 4 p.epochLo ++ leBytes 4 p.seq ++
    leBytes 2 p.payload.length ++ leBytes 1 p.vc ++ leBytes 1 0

/-- The CRC-32C over header and payload, byte 3 taken as 0. -/
def Packet.crc (p : Packet) : Nat := crc32c (p.header 0 ++ p.payload)

/-- A packet as it crosses a link. -/
def Packet.bytes (p : Packet) : List Byte := p.header p.hops ++ p.payload ++ leBytes 4 p.crc

/-- The packet that bytes spell; `none` when the length or the CRC does not check. -/
def Packet.ofBytes (cls : Nat) (l : List Byte) : Option Packet :=
  let n := leAt l 12 2
  let p : Packet :=
    { type := leAt l 0 1, src := leAt l 1 1, dst := leAt l 2 1, hops := leAt l 3 1, epochLo := leAt l 4 4
      seq := leAt l 8 4, vc := leAt l 14 1 % 4, cls := cls, fwd := false, payload := (l.drop 16).take n }
  if l.length = 20 + n && n ≤ 4096 && leAt l (16 + n) 4 = p.crc then some p else none

/-- Types that carry an end-to-end sequence number and whose epoch is checked (Table 13-4). -/
def sequencedType (t : Nat) : Bool := (1 ≤ t && t ≤ 8) || [0x13, 0x14, 0x17, 0x18, 0x1B].contains t

/-- The virtual channel of a type (Table 13-4). -/
def typeVc (t : Nat) : Nat := if 1 ≤ t && t ≤ 4 then 1 else if t = 8 then 2 else 0

/-! ## Ports (R305, R308 to R314) -/

/-- A peer port. -/
def State.port (s : State) (p : Nat) : PortSt := Store.get PortSt.init s.grp.ports p
def State.setPort (s : State) (p : Nat) (v : PortSt) : State := s.setGrp { s.grp with ports := Store.put PortSt.init s.grp.ports p v }

/-- The state of a port: 0 down, 1 training, 2 up, 3 degraded, 4 disabled. -/
def State.portState (s : State) (p : Nat) : Nat := s.rdi F.GRP_PORT_STATUS_STATE p
def State.portUp (s : State) (p : Nat) : Bool := s.portState p = 2 || s.portState p = 3

/-- The ring size: the record's, the one that discovery closed, or else what the link-state view shows: one more than the
highest position heard of (log entry 27). -/
def State.ringN (s : State) : Nat :=
  match s.grp.mrec with
  | some r => r.ring
  | none =>
    if s.grp.ringSize != 0 then s.grp.ringSize
    else if s.on F.GRP_STATUS_HAS_ID then (s.grp.views.map (fun e => e.1)).foldl Nat.max s.myId + 1
    else 0

/-- The device holds an id. -/
def State.hasId (s : State) : Bool := s.on F.GRP_STATUS_HAS_ID

/-- The device's id as packets carry it: 0xFF when it has none. -/
def State.wireId (s : State) : Nat := if s.hasId then s.myId else 0xFF

/-- The port code that the peer of a port must have, and the peer's position (Table 13-1). -/
def peerPort (p : Nat) : Nat := if p % 2 = 0 then p + 1 else p - 1
def portStep (p : Nat) : Int := if p = 0 then -1 else if p = 1 then 1 else if p = 2 then -2 else 2
def peerPos (n a p : Nat) : Nat := if n = 0 then 0 else ((((a : Int) + portStep p) % n).toNat)

/-- A packet that leaves on this port crosses the link between positions N − 1 and 0 (R313). -/
def State.crosses (s : State) (p : Nat) : Bool :=
  let n := s.ringN
  let me := s.myId
  if p = 0 then me = 0 else if p = 1 then me + 1 = n else if p = 2 then decide (me ≤ 1) else decide (n ≤ me + 2)

/-- Credits and replay buffer bytes that a packet takes (R311, R313). -/
def Packet.cost (p : Packet) : Nat := ceilDiv (20 + p.payload.length) 256
def Packet.room (p : Packet) : Nat := 8 * (1 + ceilDiv (20 + p.payload.length) 8)

/-- A packet may start on a port: fewer than 64 frames unacknowledged, room in the 64 KiB replay buffer, and credits of
its VC and class (R311, R313). -/
def PortSt.canSend (q : PortSt) (p : Packet) : Bool :=
  q.replay.length < 64 && (q.replay.map (fun f => f.packet.room)).sum + p.room ≤ 65536 &&
    p.cost ≤ (q.credits[p.vc * 2 + p.cls]?).getD 0

/-- The next packet of a VC: forwarded and local ones take turns (R314). -/
def PortSt.head (q : PortSt) (vc : Nat) : Option Packet :=
  let l := q.queue.filter (fun p => p.vc = vc)
  let o := match l.find? (fun p => p.fwd = q.turn) with
    | some p => some p
    | none => l.head?
  match o with
  | some p => if q.canSend p then some p else none
  | none => none

/-- The arbitration of an egress port: CTRL first, then DATA and BULK by the weights of `GRP.PORT_ARB` (R314). -/
def State.pickPacket (s : State) (q : PortSt) : Option (Packet × PortSt) :=
  match q.head 0, q.head 1, q.head 2 with
  | some p, _, _ => some (p, q)
  | none, some p, none => some (p, q)
  | none, none, some p => some (p, q)
  | none, none, none => none
  | none, some d, some b =>
    let wd : Int := s.rd F.GRP_PORT_ARB_DATA_W
    let wb : Int := s.rd F.GRP_PORT_ARB_BULK_W
    let cd := q.curD + wd
    let cb := q.curB + wb
    if cb ≤ cd then some (d, { q with curD := cd - (wd + wb), curB := cb })
    else some (b, { q with curD := cd, curB := cb - (wd + wb) })

/-- Send a link control block. -/
def State.block (s : State) (p kind v : Nat) : State := s.emit (.linkBlock p kind v)

/-- A frame crosses the link: its START block and its packet (R310). -/
def State.emitFrame (s : State) (p : Nat) (f : LinkFrame) : State :=
  (s.block p 0x33 (f.lseq + f.packet.vc * 2 ^ 12 + f.packet.cls * 2 ^ 14)).emit (.packet p f.packet.bytes)

/-- Frames start on a port as long as one may. -/
def State.pump : Nat → State → Nat → State
  | 0, s, _ => s
  | fuel + 1, s, p =>
    if !s.portUp p then s
    else
      match s.pickPacket (s.port p) with
      | none => s
      | some (pk, q) =>
        let f : LinkFrame := { lseq := q.nextTx, packet := pk, tries := 0 }
        let c := pk.vc * 2 + pk.cls
        let q := { q with
          queue := dropFirst (fun x => x = pk) q.queue, replay := q.replay ++ [f], nextTx := (q.nextTx + 1) % 4096
          credits := q.credits.set c ((q.credits[c]?).getD 0 - pk.cost), turn := !pk.fwd }
        State.pump fuel ((s.setPort p q).emitFrame p f) p

/-- Queue a packet on an egress port. -/
def State.enqueuePacket (s : State) (p : Nat) (pk : Packet) : State :=
  let pk := { pk with cls := if s.crosses p then 1 else pk.cls }
  let q := s.port p
  let s := s.setPort p { q with queue := q.queue ++ [pk] }
  State.pump (s.port p).queue.length s p

/-- Route a packet by `GRP.ROUTE`; without a route it waits (R320). -/
def State.routeOut (s : State) (pk : Packet) : State :=
  let p := s.rdi F.GRP_ROUTE_PORT pk.dst
  if pk.dst < 64 && p < 4 then s.enqueuePacket p pk
  else s.setGrp { s.grp with routeWait := s.grp.routeWait ++ [pk] }

/-- A link-local packet for the neighbour on a port; it is lost while the port is not up. -/
def State.sendLink (s : State) (p type : Nat) (payload : List Byte) : State :=
  if !s.portUp p then s
  else s.enqueuePacket p
    { type := type, src := s.wireId, dst := 0xFE, hops := 32, epochLo := s.epoch % 2 ^ 32, seq := 0, vc := 0, cls := 0
      fwd := false, payload := payload }

/-- A packet that is not sequenced, for another member. -/
def State.sendPlain (s : State) (dst type : Nat) (payload : List Byte) : State :=
  s.routeOut { type := type, src := s.wireId, dst := dst, hops := 32, epochLo := s.epoch % 2 ^ 32, seq := 0
               vc := typeVc type, cls := 0, fwd := false, payload := payload }

/-- The key of a triple: the other member and the VC. -/
def triple (m vc : Nat) : Nat := m * 4 + vc

/-- A member has acknowledged the record in force, so that the lead may send it packets of the new epoch (R324). -/
def State.mayReach (s : State) (dst : Nat) : Bool := !s.isLead || bitAt s.grp.acked dst

/-- A sequenced packet for another member: numbered, kept until it is acknowledged, and sent as soon as the member may
be reached (R318, R324). -/
def State.sendSeqFor (s : State) (dst type : Nat) (payload : List Byte) (owner : Option Src) (stripe : Nat) : State :=
  let vc := typeVc type
  let k := triple dst vc
  let n := Store.get 0 s.grp.txSeq k + 1
  let pk : Packet :=
    { type := type, src := s.wireId, dst := dst, hops := 32, epochLo := s.epoch % 2 ^ 32, seq := n, vc := vc, cls := 0
      fwd := false, payload := payload }
  let s := s.setGrp { s.grp with
    txSeq := Store.put 0 s.grp.txSeq k n
    unacked := Store.modify [] s.grp.unacked k (fun l =>
      l ++ [{ packet := pk, owner := owner, stripe := stripe }]) }
  if s.mayReach dst then s.routeOut pk else s

/-- A sequenced packet that serves no stripe. -/
abbrev State.sendSeq (s : State) (dst type : Nat) (payload : List Byte) (owner : Option Src) : State :=
  s.sendSeqFor dst type payload owner 0

/-- Send every unacknowledged packet of a triple again (R318). -/
def State.resendTriple (s : State) (m vc : Nat) : State :=
  let l := Store.get [] s.grp.unacked (triple m vc)
  if s.mayReach m then l.foldl (fun s e => s.routeOut e.packet) s else s

/-! ## Link-state view and routes (R320) -/

/-- The port states of this device, 2 bits a port code: 0 down, 1 up, 2 degraded. -/
def State.myPorts (s : State) : Nat :=
  (List.range 4).foldl (fun v p => v + (if s.portState p = 2 then 1 else if s.portState p = 3 then 2 else 0) * 4 ^ p) 0

/-- The port states that position `a` last reported. -/
def State.viewPorts (s : State) (a : Nat) : Nat :=
  if a = s.myId then s.myPorts else (Store.get { version := 0, ports := 0 } s.grp.views a).ports

/-- The link on port `p` of position `a` counts: both ends report it up. -/
def State.linkCounts (s : State) (n a p : Nat) : Bool :=
  bits (s.viewPorts a) (2 * p) 2 != 0 && bits (s.viewPorts (peerPos n a p)) (2 * peerPort p) 2 != 0

/-- Positions reachable from those of a frontier, with hop counts; `seen` holds what is known already. -/
def State.spread (s : State) (n : Nat) : Nat → List (Nat × Nat) → List Nat → Nat → List (Nat × Nat)
  | 0, seen, _, _ => seen
  | fuel + 1, seen, front, h =>
    let next := (front.map (fun a => ((List.range 4).filter (fun p => s.linkCounts n a p)).map (fun p => peerPos n a p))).flatten
    let fresh := (next.eraseDups).filter (fun b => !seen.any (fun e => e.1 = b))
    if fresh.isEmpty then seen
    else State.spread s n fuel (seen ++ fresh.map (fun b => (b, h + 1))) fresh (h + 1)

/-- Hop counts from a position. -/
def State.hopsFrom (s : State) (n a : Nat) : List (Nat × Nat) := State.spread s n 64 [(a, 0)] [a] 0

/-- The hop count to `b` in a list of them. -/
def hopsTo (l : List (Nat × Nat)) (b : Nat) : Option Nat := (l.find? (fun e => e.1 = b)).map (fun e => e.2)

/-- Recompute `GRP.ROUTE` and the reachable members by the procedure of R320; packets that waited for a route leave. -/
def State.reroute (s : State) : State :=
  let n := s.ringN
  let me := s.myId
  let mine := if n = 0 || !s.hasId then [] else s.hopsFrom n me
  let route := fun (d : Nat) =>
    if d = me || d ≥ n then (7, 0)
    else
      match hopsTo mine d with
      | none => (7, 0)
      | some h =>
        let dd := s.hopsFrom n d
        match [3, 2, 1, 0].find? (fun p => s.linkCounts n me p && hopsTo dd (peerPos n me p) = some (h - 1)) with
        | some p => (p, h)
        | none => (7, 0)
  let rs := (List.range 64).map route
  let s := (rs.zip (List.range 64)).foldl (fun s e =>
    (s.wri F.GRP_ROUTE_PORT e.2 e.1.1).wri F.GRP_ROUTE_HOPS e.2 e.1.2) s
  let reach := (rs.zip (List.range 64)).foldl (fun v e => if e.1.1 < 4 then setBit v e.2 else v) 0
  let s := (s.wr F.GRP_REACH_LO_MEMBERS (reach % 2 ^ 32)).wr F.GRP_REACH_HI_MEMBERS (reach / 2 ^ 32)
  let waiting := s.grp.routeWait
  let s := s.setGrp { s.grp with routeWait := [] }
  waiting.foldl State.routeOut s

/-- The payload of LINK_STATE: origin, version, ports (Table 13-4). -/
def linkStateBytes (origin version ports : Nat) : List Byte :=
  leBytes 1 origin ++ leBytes 4 version ++ leBytes 1 ports

/-- The device's own ports have changed: LINK_STATE leaves on every up port with the next version, and the routes are
computed anew. -/
def State.portsChanged (s : State) : State :=
  let s := s.setGrp { s.grp with myVersion := s.grp.myVersion + 1 }
  let s := if s.hasId then
      (List.range 4).foldl (fun s p => s.sendLink p 0x12 (linkStateBytes s.myId s.grp.myVersion s.myPorts)) s
    else s
  s.reroute

/-! ## Link up and down (R307, R309, R312) -/

/-- The payload of HELLO (Table 13-4). -/
def State.helloBytes (s : State) (p : Nat) : List Byte :=
  leBytes 8 (s.rd F.GRP_UNIQUE_ID_LO_UID + s.rd F.GRP_UNIQUE_ID_HI_UID * 2 ^ 32) ++ leBytes 1 p ++
    leBytes 1 s.wireId ++ leBytes 8 s.epoch ++ leBytes 16 ((s.grp.mrec.map (fun r => r.groupId)).getD 0)

/-- A port comes up: its link layer starts afresh, the event follows, HELLO and LINK_STATE leave. -/
def State.portComesUp (s : State) (p : Nat) : State :=
  let q := s.port p
  let both := q.lock0 && q.lock1
  let s := s.setPort p { PortSt.init with
    lock0 := q.lock0, lock1 := q.lock1, run0 := q.run0, run1 := q.run1, hist0 := q.hist0, hist1 := q.hist1
    peerReady := true, queue := q.queue }
  let s := s.wri F.GRP_PORT_STATUS_STATE p (if both then 2 else 3)
  let s := s.raise 8 p 0x001 ((if both then 2 else 1) + s.rdi F.GRP_PORT_STATUS_PEER_ID p * 2 ^ 8)
  let s := s.sendLink p 0x10 (s.helloBytes p)
  let s := s.portsChanged
  State.pump (s.port p).queue.length s p

/-- A port goes down: its replay buffer is dropped, the event follows, and it trains again at once (R312). -/
def State.portGoesDown (s : State) (p cause : Nat) : State :=
  let q := s.port p
  let s := s.setPort p { q with replay := [], nakSent := false, peerReady := false, hello := false }
  let s := s.wri F.GRP_PORT_STATUS_STATE p 1
  let s := (s.inci F.GRP_PORT_DOWN_COUNT p).wr F.GRP_ERR_STATUS_PORT_DOWN 1
  (s.raise 8 p 0x002 cause).portsChanged

/-- The count of valid headers in a row and the history of the last 64 of a lane after one more sync header; the lane's
lock (R308). -/
def lockStep (lock : Bool) (run hist : Nat) (valid : Bool) : Bool × Nat × Nat :=
  let run := if valid then run + 1 else 0
  let hist := (hist * 2 + b2n (!valid)) % 2 ^ 64
  if lock then (if 16 ≤ popCount 64 hist then (false, 0, 0) else (true, Nat.min run 64, hist))
  else if 64 ≤ run then (true, 64, 0) else (false, run, hist)

/-- A lane's sync headers taken one after another. -/
def lockSteps : List Bool → Bool × Nat × Nat → Bool × Nat × Nat
  | [], a => a
  | v :: t, (l, r, h) => lockSteps t (lockStep l r h v)

/-- `LANE_BLOCK_LOCK`: sync headers of a lane decide its block lock; a port that is down trains as soon as a lane has
lock (R308, R312). -/
def execLaneBlockLock (port : BitVec 2) (lane : Bool) (headers : List Bool) (s : State) :
    Host.Outcome State Fault Refusal :=
  if !s.on F.GLB_CONFIG_PEER_EN then .next s
  else
    let p := port.toNat
    let q := s.port p
    let q := if lane then
        let (l, r, h) := lockSteps headers (q.lock1, q.run1, q.hist1)
        { q with lock1 := l, run1 := r, hist1 := h }
      else
        let (l, r, h) := lockSteps headers (q.lock0, q.run0, q.hist0)
        { q with lock0 := l, run0 := r, hist0 := h }
    let s := s.setPort p q
    .next (if (q.lock0 || q.lock1) && s.portState p = 0 then s.wri F.GRP_PORT_STATUS_STATE p 1 else s)

/-- `LANE_DEGRADE_TIMEOUT`: one lane of an up port has failed to regain block lock within 1 ms: the port sends every
block on the remaining lane (R309). -/
def execLaneDegradeTimeout (port : BitVec 2) (s : State) : Host.Outcome State Fault Refusal :=
  let p := port.toNat
  let q := s.port p
  if s.portState p = 2 && q.lock0 != q.lock1 then
    let s := (s.wri F.GRP_PORT_STATUS_STATE p 3).wr F.GRP_ERR_STATUS_DEGRADED 1
    .next ((s.raise 8 p 0x003 (b2n q.lock0)).portsChanged)
  else .next s

/-- `LINK_INIT`: an INIT block; with the ready bit it brings a training port up, at half rate with one lane locked. The
device answers with its own INIT (R309, R312). -/
def execLinkInit (port code : BitVec 2) (ready : Bool) (s : State) : Host.Outcome State Fault Refusal :=
  let p := port.toNat
  let q := s.port p
  if s.portState p = 1 && (q.lock0 || q.lock1) then
    let s := (s.block p 0x78 (p + 4)).wri F.GRP_PORT_STATUS_PEER_PORT p code.toNat
    .next (if ready then s.portComesUp p else s)
  else .next s

/-- `PORT_DOWN`: both lanes have lacked block lock for 10 µs, or one frame has been retransmitted 8 times in succession
(R312). -/
def execPortDown (port : BitVec 2) (retries : Bool) (s : State) : Host.Outcome State Fault Refusal :=
  let p := port.toNat
  let q := s.port p
  let due := if retries then q.replay.any (fun f => decide (8 ≤ f.tries)) else !q.lock0 && !q.lock1
  if s.portUp p && due then .next (s.portGoesDown p (if retries then 2 else 1)) else .next s

/-- `LINK_ACK`: frames up to the one named leave the replay buffer (R311). -/
def execLinkAck (port : BitVec 2) (lseq : BitVec 12) (s : State) : Host.Outcome State Fault Refusal :=
  let p := port.toNat
  let q := s.port p
  if s.portUp p && q.replay.any (fun f => f.lseq = lseq.toNat) then
    let s := s.setPort p { q with replay := (q.replay.dropWhile (fun f => f.lseq != lseq.toNat)).drop 1 }
    .next (State.pump (s.port p).queue.length s p)
  else .next s

/-- Retransmit the frames of a port from one LSEQ on (R311). -/
def State.retransmit (s : State) (p lseq : Nat) : State :=
  let q := s.port p
  let old := q.replay.takeWhile (fun f => f.lseq != lseq)
  let again := (q.replay.dropWhile (fun f => f.lseq != lseq)).map (fun f => { f with tries := f.tries + 1 })
  if again.isEmpty then s
  else
    let s := (s.setPort p { q with replay := old ++ again }).addi F.GRP_PORT_RETRY_COUNT p 1
    again.foldl (fun s f => s.emitFrame p f) s

/-- `LINK_NAK`: retransmission from the LSEQ that the receiver expects (R311). -/
def execLinkNak (port : BitVec 2) (lseq : BitVec 12) (s : State) : Host.Outcome State Fault Refusal :=
  if s.portUp port.toNat then .next (s.retransmit port.toNat lseq.toNat) else .next s

/-- `REPLAY_TIMEOUT`: the oldest unacknowledged frame has had no ACK for 1,000 ns (R311). -/
def execReplayTimeout (port : BitVec 2) (s : State) : Host.Outcome State Fault Refusal :=
  match (s.port port.toNat).replay with
  | f :: _ => if s.portUp port.toNat then .next (s.retransmit port.toNat f.lseq) else .next s
  | [] => .next s

/-- `LINK_CREDIT`: a CREDIT block returns credits of each VC and class (R313). -/
def execLinkCredit (port : BitVec 2) (credits : BitVec 48) (s : State) : Host.Outcome State Fault Refusal :=
  let p := port.toNat
  if !s.portUp p then .next s
  else
    let q := s.port p
    let cs := (List.range 6).map (fun i => (q.credits[i]?).getD 0 + bits credits.toNat (8 * i) 8)
    let s := s.setPort p { q with credits := cs }
    .next (State.pump (s.port p).queue.length s p)

/-- `E2E_RESEND_TIMEOUT`: a sequenced packet has waited 20 µs for its acknowledgement: it and every later packet of the
triple leave again (R318). -/
def execE2eResendTimeout (member : BitVec 6) (vc : BitVec 2) (s : State) : Host.Outcome State Fault Refusal :=
  let l := Store.get [] s.grp.unacked (triple member.toNat vc.toNat)
  if l.isEmpty then .next s
  else .next ((s.addi F.GRP_E2E_RESEND_COUNT 0 l.length).resendTriple member.toNat vc.toNat)

/-- `ROUTE_WAIT_TIMEOUT`: a packet has waited 1 ms for a route and is discarded (R320). -/
def execRouteWaitTimeout (member : BitVec 6) (s : State) : Host.Outcome State Fault Refusal :=
  .next (s.setGrp { s.grp with routeWait := dropFirst (fun p => p.dst = member.toNat) s.grp.routeWait })

end Sys2Proof.Machine
end

