-- ==== Sys2Proof/Machine/Rows.lean ====
section
/-!
DEFINITION. The membership record, the row tables of the layouts, and the home of a key (R306, R320, R322, R345 to R347).
-/

namespace Sys2Proof.Machine

/-- The redundancy engine replaced. -/
def State.setRed (s : State) (r : RedSt) : State := { s with red := r }

/-! ## The membership record (R322) -/

/-- A record with the state of one id replaced. -/
def MemRec.setState (r : MemRec) (id st : Nat) : MemRec := { r with states := setBits r.states (4 * id) 4 st }

/-- The ids of a record in one of some states. -/
def MemRec.idsIn (r : MemRec) (sts : List Nat) : List Nat := (List.range 64).filter (fun i => sts.contains (r.state i))

/-- The ACTIVE members of a record. -/
def MemRec.active (r : MemRec) : List Nat := r.idsIn [3]

/-- The first 1,020 bytes of a record (Table 13-6). -/
def MemRec.body (r : MemRec) : List Byte :=
  leBytes 8 r.epoch ++ leBytes 1 r.lead ++ leBytes 1 r.deputy ++ leBytes 1 r.k ++ leBytes 1 r.ring ++ leBytes 4 0 ++
    leBytes 16 r.groupId ++ leBytes 32 r.states ++ ((List.range 64).map (fun i => leBytes 8 (Store.get 0 r.uids i))).flatten ++
    List.replicate 444 0#8

/-- A record as it is stored and sent. -/
def MemRec.bytes (r : MemRec) : List Byte := r.body ++ leBytes 4 (crc32c r.body)

/-- The record that bytes spell, when the CRC checks. -/
def MemRec.ofBytes (l : List Byte) : Option MemRec :=
  if l.length = 1024 && leAt l 1020 4 = crc32c (l.take 1020) then
    some { epoch := leAt l 0 8, lead := leAt l 8 1, deputy := leAt l 9 1, k := leAt l 10 1, ring := leAt l 11 1
           groupId := leAt l 16 16, states := leAt l 32 32
           uids := ((List.range 64).map (fun i => (i, leAt l (64 + 8 * i) 8))).filter (fun p => p.2 != 0) }
  else none

/-- The device's UNIQUE_ID. -/
def State.uniqueId (s : State) : Nat := s.rd F.GRP_UNIQUE_ID_LO_UID + s.rd F.GRP_UNIQUE_ID_HI_UID * 2 ^ 32

/-- Write a record over the copy in MRAM that does not hold the record in force (R322). -/
def State.storeRec (s : State) (r : MemRec) : State :=
  if s.grp.mrec.isSome && s.grp.recA = s.grp.mrec then s.setGrp { s.grp with recB := some r }
  else s.setGrp { s.grp with recA := some r }

/-- At start-up the valid copy with the higher EPOCH is the record in force (R322). -/
def GrpSt.newest (g : GrpSt) : Option MemRec :=
  match g.recA, g.recB with
  | some a, some b => if a.epoch < b.epoch then some b else some a
  | some a, none => some a
  | none, b => b

/-- The own state in the record in force. -/
def State.myState (s : State) : Nat := (s.grp.mrec.map (fun r => r.state s.myId)).getD 0

/-- The record in force gives this device no part: ABSENT, FAILED or another device at its id (R323). -/
def State.shutOut (s : State) : Bool :=
  match s.grp.mrec with
  | none => false
  | some r => r.state s.myId = 0 || r.state s.myId = 5 || Store.get 0 r.uids s.myId != s.uniqueId

/-! ## Beats (R329) -/

/-- A member as the lead last heard it. -/
def State.beat (s : State) (m : Nat) : BeatInfo :=
  Store.get { medium := 0, state := 0, hostUp := false, ageMs := 0 } s.grp.beats m

/-- A member is unreachable: LEAD_MS have passed without a MEMBER_BEAT. -/
def State.unreachable (s : State) (m : Nat) : Bool := m != s.myId && s.rd F.GRP_FAILOVER_LEAD_MS ≤ (s.beat m).ageMs

/-! ## Rows that change (R346) -/

/-- The member that replaces another in a row: the eligible ACTIVE one not in the row with the highest score (R346). -/
def replacement (r : MemRec) (row layout eligible : Nat) (l : List Nat) : Option Nat :=
  (byScore row layout (onesOf 64 eligible)).find? (fun i => r.state i = 3 && !l.contains i)

/-- A row with every member that `out` holds for replaced, as far as replacements exist, and whether one was missing. -/
def replaceAll (r : MemRec) (row layout eligible : Nat) (out : Nat → Bool) : List Nat → List Nat → List Nat × Bool
  | [], l => (l, false)
  | m :: t, l =>
    if out m then
      match replacement r row layout eligible l with
      | some c => replaceAll r row layout eligible out t (l.map (fun i => if i = m then c else i))
      | none => ((replaceAll r row layout eligible out t l).1, true)
    else replaceAll r row layout eligible out t l

/-- A row as the 34 bytes of a JOURNAL ROWS entry: its number and one id per slot (Table 14-7). -/
def rowBytes (row : Nat) (l : List Nat) : List Byte :=
  leBytes 2 row ++ (List.range 32).map (fun j => BitVec.ofNat 8 ((l[j]?).getD 0xFF))

/-- The 32 B strip packet header of Table 14-6. -/
def stripHead (op slot gen status id off count pos : Nat) (last erased : Bool) : List Byte :=
  leBytes 1 op ++ leBytes 1 slot ++ leBytes 2 gen ++ leBytes 4 status ++ leBytes 8 id ++ leBytes 4 off ++
    leBytes 4 count ++ leBytes 4 pos ++ leBytes 1 (b2n last + b2n erased * 2) ++ leBytes 3 0

/-- Cut a list into pieces of `n`. -/
def pieces {α : Type} (n : Nat) : Nat → List α → List (List α)
  | 0, _ => []
  | fuel + 1, l => if l.isEmpty then [] else l.take n :: pieces n fuel (l.drop n)

/-- Send rows of a layout to a member; the layout number stands in the top byte of ID, and SLOT 1 says that the record to
come makes the layout current (log entry 28). -/
def State.sendRows (s : State) (dst layout : Nat) (flip : Bool) (rows : List (Nat × List Nat)) : State :=
  let ps := if rows.isEmpty then [[]] else pieces 119 rows.length rows
  ps.foldl (fun s p =>
    s.sendSeq dst 5 (stripHead 5 (b2n flip) 0 0 (layout * 2 ^ 56) 0 (34 * p.length) 0 true false ++
      (p.map (fun e => rowBytes e.1 e.2)).flatten) none) s

/-- The rows of a JOURNAL ROWS packet. -/
def rowsOf : Nat → List Byte → List (Nat × List Nat)
  | 0, _ => []
  | fuel + 1, l =>
    if l.length < 34 then []
    else (leAt l 0 2 % 4096, (((l.drop 2).take 32).map (fun b => b.toNat)).filter (fun i => i < 64)) ::
      rowsOf fuel (l.drop 34)

/-- A member takes rows; the next record it adopts puts them in force (R346). -/
def State.takeRows (s : State) (layout : Nat) (flip : Bool) (data : List Byte) : State :=
  let rows := rowsOf data.length data
  s.setRed { s.red with
    rowsNew := rows.foldl (fun t e => Store.ins (layout * 4096 + e.1) e.2 t) s.red.rowsNew
    flipNew := s.red.flipNew || flip }

/-- The members among the ids of a list as a bitmap. -/
def idBits (l : List Nat) : Nat := l.foldl setBit 0

/-- The pending layout becomes current (R374). -/
def RedSt.flip (r : RedSt) : RedSt :=
  { r with rows := r.rowsPending, rowsPending := [], layout := r.layoutPending, k := r.kPending
           eligible := r.eligiblePending, relocLeft := [] }

/-- The rows that came with a record take effect; answers the rows of the current layout in which this device has become
the member of a slot (R346, R365, R374). -/
def State.adoptRows (s : State) : State × List Nat :=
  let rd := s.red
  let cur := if rd.layout = 0 then (rd.rowsNew.map (fun e => e.1 / 4096)).foldl Nat.max 0 else rd.layout
  let mine := (rd.rowsNew.filter (fun e => e.1 / 4096 = cur)).map (fun e => (e.1 % 4096, e.2))
  let next := (rd.rowsNew.filter (fun e => e.1 / 4096 != cur)).map (fun e => (e.1 % 4096, e.2, e.1 / 4096))
  let gained := if rd.layout = 0 then [] else
    (mine.filter (fun e => e.2.contains s.myId && !(rd.row e.1).contains s.myId)).map (fun e => e.1)
  let rd := { rd with rows := mine.foldl (fun t e => Store.ins e.1 e.2 t) rd.rows, layout := cur
                      layoutPending := if rd.layout = 0 then cur else rd.layoutPending, rowsNew := [], flipNew := false }
  let rd := match mine with
    | e :: _ => if s.red.layout = 0 then
        let el := idBits (mine.map (fun p => p.2)).flatten
        { rd with k := e.2.length - 2, kPending := e.2.length - 2, eligible := el, eligiblePending := el } else rd
    | [] => rd
  let rd := match next with
    | e :: _ =>
      { rd with layoutPending := e.2.2, kPending := e.2.1.length - 2
                eligiblePending := idBits (next.map (fun p => p.2.1)).flatten
                rowsPending := next.foldl (fun t p => Store.ins p.1 p.2.1 t) rd.rowsPending }
    | [] => rd
  let rd := if s.red.flipNew && rd.hasPending then rd.flip else rd
  (s.setRed (if rd.layout = s.red.layout then rd else { rd with spare := s.rd F.RED_SPARE_SPARE_PCT }), gained)

/-- The lead replaces in every row the members that a record puts out of service, keeps the changed rows, and sends them
before the commit (R346); a slot without a replacement stays, with event 0x10A (R372). -/
def State.moveRows (s : State) (old : Option MemRec) (r : MemRec) : State :=
  let out := fun i => r.state i = 5 || r.state i = 0
  let fresh := fun i => out i && (old.map (fun o => o.state i = 3 || o.state i = 4)).getD false
  let all := (List.range 4096).map (fun row => (row, s.red.row row))
  let all := if s.red.layout = 0 then [] else all.filter (fun e => e.2.any out)
  let res := all.map (fun e => (e.1, e.2, replaceAll r e.1 s.red.layout s.red.eligible out e.2 e.2))
  let changed := (res.filter (fun e => e.2.2.1 != e.2.1)).map (fun e => (e.1, e.2.2.1))
  let dry := res.any (fun e => e.2.2.2)
  let s := (res.filter (fun e => e.2.2.2 && e.2.1.any fresh)).foldl (fun s e => s.raise 8 s.myId 0x10A e.1) s
  let s := s.wr F.RED_STATUS_SPARE_OUT (b2n dry)
  let s := if dry then s.wr F.RED_ERR_STATUS_SPARE_OUT 1 else s
  if changed.isEmpty then s
  else
    let s := s.setRed { s.red with rowsNew := changed.foldl (fun t e =>
      Store.ins (s.red.layout * 4096 + e.1) e.2 t) s.red.rowsNew }
    ((r.idsIn [2, 3, 4, 6]).filter (fun i => i != s.myId)).foldl (fun s i => s.sendRows i s.red.layout false changed) s

end Sys2Proof.Machine
end

