-- ==== Sys2Proof/Machine/Yarrow.lean ====
section
/-!
DEFINITION. Yarrow: strip strings, the journal and its mirrors, strips and landing copies at a member, the life of a
stripe, the directory and the map of a home member (R342 to R360).
-/

namespace Sys2Proof.Machine

/-! ## Strip strings (R342) -/

/-- Units in a data strip, and bytes of a data string (Table 14-1). -/
def State.stripUnits (s : State) : Nat := if s.dMode then 256 else 173
def State.stripBytes (s : State) : Nat := 4160 * s.stripUnits

/-- The string of a data strip: its units, completed with EMPTY units (R342, R351). -/
def State.dataString (s : State) (ids : List Nat) : List Byte :=
  (ids.map (fun i => (s.unit i).payload)).flatten ++
    (List.replicate (s.stripUnits - ids.length) UnitRec.empty.payload).flatten

/-- The units that hold a strip: of a data string one unit for each 4,160 B, of P or Q one for each 4,096 B. -/
def stripRecs (parity q : Bool) (bytes : List Byte) : List UnitRec :=
  if parity then (chunks 4096 (bytes.length + 1) bytes).map (UnitRec.parity q)
  else (chunks 4160 (bytes.length + 1) bytes).map UnitRec.ofPayload

/-- Store units and answer their ids. -/
def State.addUnits (s : State) (us : List UnitRec) : State × List Nat :=
  us.foldl (fun a u => let r := a.1.addUnit u; (r.1, a.2 ++ [r.2])) (s, [])

/-! ## The journal (R353, R354) -/

/-- A journal record as its 64 B (Table 14-4). -/
def JRec.body (j : JRec) : List Byte :=
  leBytes 8 j.stripe ++ leBytes 2 j.gen ++ leBytes 1 j.state ++ leBytes 1 j.kind ++ leBytes 1 j.k ++ leBytes 1 j.fill ++
    leBytes 1 j.target ++ leBytes 1 j.owner ++
    (List.range 32).map (fun i => BitVec.ofNat 8 ((j.members[i]?).getD 0xFF)) ++ leBytes 4 j.epochLo ++
    leBytes 4 j.slotDone ++ leBytes 4 0
def JRec.bytes (j : JRec) : List Byte := j.body ++ leBytes 4 (crc32c j.body)

/-- The record that 64 B spell; one whose CRC fails reads as FREE. -/
def JRec.ofBytes (l : List Byte) : Option JRec :=
  if leAt l 60 4 = crc32c (l.take 60) && leAt l 10 1 != 0 then
    some { stripe := leAt l 0 8, gen := leAt l 8 2, state := leAt l 10 1, kind := leAt l 11 1, k := leAt l 12 1
           fill := leAt l 13 1, target := leAt l 14 1, owner := leAt l 15 1
           members := (((l.drop 16).take 32).map (fun b => b.toNat)).take (leAt l 12 1 + 2), epochLo := leAt l 48 4
           slotDone := leAt l 52 4 }
  else none

/-- The member of a slot. -/
def JRec.member (j : JRec) (slot : Nat) : Nat := (j.members[slot]?).getD 0xFF

/-- The successors of a member: the next two, ACTIVE or FENCED, in ascending id order modulo 64 (R354). -/
def MemRec.successors (r : MemRec) (m : Nat) : List Nat :=
  (((List.range 63).map (fun i => (m + 1 + i) % 64)).filter (fun i => r.state i = 3 || r.state i = 4)).take 2
def State.successors (s : State) : List Nat := (s.grp.mrec.map (fun r => r.successors s.myId)).getD []

/-- The nearest predecessor of this device: of the members that mirror here, the one for whom it comes first. -/
def State.nearest (s : State) (m : Nat) : Bool :=
  (s.grp.mrec.map (fun r => decide ((r.successors m).head? = some s.myId))).getD false

/-- The payload of a JOURNAL RECORD. -/
def recordPayload (j : JRec) : List Byte := stripHead 1 0xFF j.gen 0 j.stripe 0 64 0 true false ++ j.bytes

/-- Write a record to the own region and mirror it to both successors (R355). -/
def State.putRecord (s : State) (j : JRec) : State :=
  let j := { j with epochLo := s.epoch % 2 ^ 32 }
  let old := s.red.own
  let own := if j.state = 0 then old.filter (fun r => r.stripe != j.stripe)
    else if old.any (fun r => r.stripe = j.stripe) then old.map (fun r => if r.stripe = j.stripe then j else r)
    else old ++ [j]
  let s := s.setRed { s.red with own := own }
  let s := if 43008 ≤ own.length then s.wr F.RED_ERR_STATUS_JRNL_FULL 1 else s
  s.successors.foldl (fun s m => s.sendSeqFor m 5 (recordPayload j) none (j.stripe + 1)) s

/-- A mirror write into one of the two mirror regions (R354). -/
def putMirror (l : List JRec) (j : JRec) : List JRec :=
  if j.state = 0 then l.filter (fun r => !(r.stripe = j.stripe && r.owner = j.owner))
  else if l.any (fun r => r.stripe = j.stripe && r.owner = j.owner) then
    l.map (fun r => if r.stripe = j.stripe && r.owner = j.owner then j else r)
  else l ++ [j]

/-- A JOURNAL RECORD arrives: the mirror record is written, in the region of its predecessor. -/
def State.takeRecord (s : State) (src : Nat) (data : List Byte) : State :=
  let free := leAt data 10 1 = 0
  let j := match JRec.ofBytes data with
    | some j => some j
    | none => if free then
        some { stripe := leAt data 0 8, gen := 0, state := 0, kind := 0, k := 0, fill := 0, target := 0xFF
               owner := leAt data 15 1, members := [], epochLo := 0, slotDone := 0 } else none
  match j with
  | none => s
  | some j =>
    if s.nearest src then s.setRed { s.red with mirror1 := putMirror s.red.mirror1 j }
    else s.setRed { s.red with mirror2 := putMirror s.red.mirror2 j }

/-- Some packet that serves a stripe waits for its acknowledgement. -/
def State.stripePending (s : State) (stripe : Nat) (p : Packet → Bool) : Bool :=
  s.grp.unacked.any (fun e => e.2.any (fun x => x.stripe = stripe + 1 && p x.packet))

/-- The latest state of a stripe's record is in force: both successors have acknowledged it (R355). -/
def State.inForce (s : State) (stripe : Nat) : Bool :=
  !s.stripePending stripe (fun p => p.type = 5 && leAt p.payload 0 1 = 1)

/-- The directory entry and the map updates of a stripe have all been acknowledged. -/
def State.homesDone (s : State) (stripe : Nat) : Bool :=
  !s.stripePending stripe (fun p => p.type = 7 || leAt p.payload 0 1 = 4)

/-! ## Strips at a member (R348, R355 step 3) -/

/-- A packet of a strip or of a landing copy with its data in pieces of at most 4,064 B (R360). -/
def State.sendBytes (s : State) (dst type op slot gen id : Nat) (bytes : List Byte) : State :=
  let ps := pieces 4064 (bytes.length + 1) bytes
  (List.range ps.length).foldl (fun s i =>
    let d := (ps[i]?).getD []
    s.sendSeq dst type (stripHead op slot gen 0 id (4064 * i) d.length 0 (i + 1 = ps.length) false ++ d) none) s

/-- A message of a strip type without data. -/
def State.sendOp (s : State) (dst type op slot gen status id : Nat) : State :=
  s.sendSeq dst type (stripHead op slot gen status id 0 0 0 true false) none

/-- The strip of a slot that this device holds. -/
def State.strip (s : State) (stripe slot : Nat) : Option Strip :=
  s.red.strips.find? (fun t => t.stripe = stripe && t.slot = slot)
def State.setStrip (s : State) (x : Strip) : State :=
  s.setRed { s.red with strips := s.red.strips.map (fun t =>
    if t.stripe = x.stripe && t.slot = x.slot && t.gen = x.gen then x else t) }

/-- Drop strips: the index no longer names them and their units are free (R348, R358). -/
def State.dropStrips (s : State) (p : Strip → Bool) : State :=
  let gone := ((s.red.strips.filter p).map (fun t => t.units)).flatten
  let s := s.setRed { s.red with strips := s.red.strips.filter (fun t => !p t) }
  { s with
    obj := { s.obj with units := s.obj.units.filter (fun u => !gone.contains u.1) }
    disk := { s.disk with destage := s.disk.destage.filter (fun u => !gone.contains u) } }

/-- A whole strip goes to the medium: in D-mode by destage, in T-mode as one data set (R342, R355). -/
def State.writeStrip (s : State) (x : Strip) (k : Nat) : State :=
  let recs := stripRecs (decide (k ≤ x.slot)) (decide (x.slot = k + 1)) x.bytes
  let (s, ids) := s.addUnits recs
  let s := s.setStrip { x with whole := true, units := ids }
  if s.dMode then s.setDisk { s.disk with destage := s.disk.destage ++ ids }
  else (s.closeSet.tapeTake ids).closeSet

/-- What is left of the distributed spare, in bytes (R349). -/
def State.spareLeft (s : State) : Nat := s.capacity * s.red.spare / 100 - s.red.spareUsed * 4096

/-- The medium can take `n` bytes of a new stripe's strip: it is READY and has room outside the spare (R349). -/
def State.stripRoom (s : State) (n : Nat) : Bool :=
  s.medium.state = mReady && s.bytesTaken + s.spareLeft + n ≤ s.capacity

/-- The media tags of the units of a data string match (R18). -/
def unitTagsOk (bytes : List Byte) : Bool :=
  (chunks 4160 (bytes.length + 1) bytes).all (fun p => crc64 (p.drop 64) = leAt p 56 8)

/-- The k of a stripe's layout. -/
def State.kOf (s : State) (stripe : Nat) : Nat :=
  if stripe / 2 ^ 56 = s.red.layoutPending then s.red.kPending else s.red.k

/-- Bytes of a strip arrive from its owner; with the last of them the strip is written, or the failure is reported when
the medium cannot take it, or when the media tag of one of its units does not match (R18; log 77). -/
def State.takeStrip (s : State) (owner stripe gen slot offset : Nat) (last : Bool) (data : List Byte) : State :=
  let s := if offset = 0 then s.dropStrips (fun t => t.stripe = stripe && t.slot = slot && t.gen < gen) else s
  let s : State := match s.strip stripe slot with
    | some _ => s
    | none => s.setRed { s.red with strips := s.red.strips ++
        [{ stripe := stripe, gen := gen, slot := slot, bytes := [], whole := false, passed := false, owner := owner
           told := false, units := [], erased := [] }] }
  match s.strip stripe slot with
  | none => s
  | some x =>
    if x.gen != gen || x.whole || offset != x.bytes.length then s
    else
      let x := { x with bytes := x.bytes ++ data }
      let s := s.setStrip x
      if !last then s
      else if owner != s.myId && (!s.stripRoom x.bytes.length || (!unitTagsOk x.bytes && slot < s.kOf stripe)) then
        (s.dropStrips (fun t => t.stripe = stripe && t.slot = slot)).sendOp owner 3 4 slot gen 1 stripe
      else
        s.writeStrip x (s.kOf stripe)

/-- A unit stands on the medium where it has been verified or read back. -/
def State.unitPassed (s : State) (u : Nat) : Bool :=
  match (s.unit u).place with
  | .zone _ _ => true
  | .tape _ _ _ => true
  | _ => false

/-! ## Landing copies at a member (R352) -/

/-- Bytes of a landing copy arrive from the lead; once whole, and its units' media tags checked, it is placed on a landing
ring (R18). -/
def State.takeLanding (s : State) (stream seq offset : Nat) (last : Bool) (data : List Byte) : State :=
  let named := fun (c : RemoteCopy) => c.stream = stream && c.seq = seq
  let s := if s.red.remote.any named then s
    else s.setRed { s.red with remote := s.red.remote ++
      [{ stream := stream, seq := seq, bytes := [], whole := false, surface := none, units := [], written := false
         failed := false, told := false }] }
  match s.red.remote.find? named with
  | none => s
  | some c =>
    if c.whole || offset != c.bytes.length then s
    else
      let c := { c with bytes := c.bytes ++ data }
      if !last then s.setCopy c
      else
        let (s, ids) := s.addUnits (stripRecs false false c.bytes)
        let c := { c with whole := true, units := ids }
        let s := s.setCopy c
        if s.medium.state != mReady || !unitTagsOk c.bytes then s.setCopy { c with failed := true } else s.placeRemote c

/-- Release a landing copy: its positions and its units are free. -/
def State.releaseCopy (s : State) (stream seq : Nat) : State :=
  let named := fun (c : RemoteCopy) => c.stream = stream && c.seq = seq
  let gone := ((s.red.remote.filter named).map (fun c => c.units)).flatten
  let s := s.releaseLanding (fun p => p.uid = copyUid stream seq)
  let s := s.setRed { s.red with remote := s.red.remote.filter (fun c => !named c) }
  { s with obj := { s.obj with units := s.obj.units.filter (fun u => !gone.contains u.1) } }

/-! ## Landing copies of the lead's commands (R352, R219) -/

/-- The id of a landing copy in a strip packet (Table 14-6). -/
def landingId (stream seq : Nat) : Nat := stream + seq * 2 ^ 20

/-- A copy of a command reaches its acceptance at a member. -/
def State.copyWritten (s : State) (stream seq member : Nat) : State :=
  { s with sq := { s.sq with cmds := s.sq.cmds.map (fun c =>
    if c.stage = .started && c.src.stream = stream && c.frame.seq = seq then
      { c with copies := c.copies.map (fun l => if l.place = 64 + member then { l with written := true } else l) }
    else c) } }

/-- Members that can take a landing copy: ACTIVE ones with a READY medium, as far as the lead knows. -/
def State.landers (s : State) : List Nat :=
  match s.grp.mrec with
  | none => []
  | some r => r.active.filter (fun i => if i = s.myId then s.medium.state = mReady
      else (s.beat i).medium = mReady && !s.unreachable i)

/-- Send one landing copy to a member, or take it here. -/
def State.sendCopy (s : State) (uid m : Nat) : State :=
  match s.cmdByUid uid with
  | none => s
  | some c =>
    let bytes := (c.units.map (fun i => (s.unit i).payload)).flatten
    let s := s.setCmd { c with copies := c.copies ++
      [{ place := 64 + m, pos := 0, len := c.units.length, written := false }] }
    let s := s.setRed { s.red with copied := s.red.copied ++ [(c.src.stream, c.frame.seq, m)] }
    if m = s.myId then s.takeLanding c.src.stream c.frame.seq 0 true bytes
    else s.sendBytes m 4 1 0xFF 0 (landingId c.src.stream c.frame.seq) bytes

/-- The copies that a command still misses go to members that hold none, other than `but`, on which a copy has just failed;
no packet carries free landing positions, so which of them have most is free (log entry 29). With too few members the
command completes with NO_PLACEMENT. -/
def State.placeGroup (s : State) (uid but : Nat) : State :=
  match s.cmdByUid uid with
  | none => s
  | some c =>
    let l := s.landers.filter (fun i => i != but && !c.copies.any (fun x => x.place = 64 + i))
    let need := 3 - c.copies.length
    if l.length < need then (s.discardWork c).fail c stNoPlacement
    else
      let n := (Config.landingMember s.free).toNat % Nat.max l.length 1
      let s := { s with free := s.free + 1 }
      (((l.drop n ++ l.take n).take need)).foldl (fun s m => s.sendCopy uid m) s

/-- A member reports that it cannot write a copy, or fails: the copy is written again on another member (R219, R352). -/
def State.copyLost (s : State) (stream seq member : Nat) : State :=
  match s.sq.cmds.find? (fun c => c.stage = .started && c.src.stream = stream && c.frame.seq = seq &&
      c.copies.any (fun l => l.place = 64 + member && !l.written)) with
  | none => s
  | some c => (s.setCmd { c with copies := c.copies.filter (fun l => l.place != 64 + member) }).placeGroup c.uid member

/-- Landing copies of commands that have ended without committing are released on every member that got one (R43). -/
def State.reclaimCopies (s : State) : State :=
  let live := fun (e : Nat × Nat × Nat) => s.sq.cmds.any (fun c =>
    c.stage = .started && c.src.stream = e.1 && c.frame.seq = e.2.1)
  let done := fun (e : Nat × Nat × Nat) => s.red.landed.any (fun l => l.1 = e.1 && l.2.1 = e.2.1)
  let gone := s.red.copied.filter (fun e => !live e && !done e)
  let s := s.setRed { s.red with copied := s.red.copied.filter live }
  gone.foldl (fun s e =>
    if e.2.2 = s.myId then s.releaseCopy e.1 e.2.1
    else s.sendOp e.2.2 4 3 0xFF 0 0 (landingId e.1 e.2.1)) s

/-- A group command has landed on three distinct members (Table 02-1). -/
def Cmd.landedGroup (c : Cmd) : Bool :=
  decide (3 ≤ ((c.copies.filter (fun l => l.written)).map (fun l => l.place)).eraseDups.length)

/-- Copies held here whose writing has ended are reported to the lead; those that wait for room are tried again. -/
def State.pollCopies (s : State) : State :=
  match s.grp.mrec with
  | none => s
  | some r =>
    s.red.remote.foldl (fun s c =>
      if !c.whole || c.told then s
      else if c.failed then
        let s := s.releaseCopy c.stream c.seq
        if r.lead = s.myId then s.copyLost c.stream c.seq s.myId
        else s.sendOp r.lead 4 4 0xFF 0 1 (landingId c.stream c.seq)
      else if c.written then
        let s : State := match c.surface with
          | some h => c.units.foldl (fun (s : State) u =>
              let pos := (((s.ring h).held.find? (fun p => p.unit = u)).map (fun p => p.pos)).getD 0
              s.setUnit u { s.unit u with place := .landing h pos }) s
          | none => s
        let s := s.setCopy { c with told := true }
        if r.lead = s.myId then s.copyWritten c.stream c.seq s.myId
        else s.sendOp r.lead 4 2 0xFF 0 0 (landingId c.stream c.seq)
      else
        match c.surface with
        | none => s.placeRemote c
        | some h =>
          if s.surfOk h then s
          else (s.setCopy { c with surface := none }).placeRemote { c with surface := none }) s

/-! ## Map entries and the home member (R320) -/

/-- A map entry as OMAP writes it: a head, which says whether the entry is a proposal, and for each unit its place and the restart point it begins (log
entry 30). -/
def Obj.head (o : Obj) (prop : Bool) : List Byte :=
  leBytes 1 o.state ++ leBytes 1 o.kslot ++ leBytes 1 (b2n o.nocomp) ++ leBytes 1 (b2n prop) ++ leBytes 4 o.stream ++
    leBytes 2 o.gen ++ leBytes 2 0 ++ leBytes 4 o.units.length ++ leBytes 8 o.keyId ++ leBytes 8 o.length ++
    leBytes 8 o.nonce ++ leBytes 8 o.crc ++ leBytes 8 o.crcRun ++ leBytes 4 o.seq

/-- A unit's place in an entry: kind, stripe or member, slot and position. -/
def Place.bytes : Place → List Byte
  | .landing h p => leBytes 1 1 ++ leBytes 8 h ++ leBytes 1 0xFF ++ leBytes 4 p
  | .stripe st sl p => leBytes 1 2 ++ leBytes 8 st ++ leBytes 1 sl ++ leBytes 4 p
  | _ => leBytes 14 0
def Place.ofBytes (l : List Byte) : Place :=
  if leAt l 0 1 = 1 then .landing (leAt l 1 8) (leAt l 10 4)
  else if leAt l 0 1 = 2 then .stripe (leAt l 1 8) (leAt l 9 1) (leAt l 10 4)
  else .none

/-- The 22 B of one unit of an entry. -/
def State.entryUnit (s : State) (o : Obj) (i : Nat) : List Byte :=
  (s.unit ((o.units[i]?).getD 0)).place.bytes ++
    leBytes 8 (((o.restarts.find? (fun p => p.2 = i)).map (fun p => p.1)).getD (2 ^ 64 - 1))

/-- The payloads of a MAP operation that carries an entry: 150 units a packet, then the lost ranges. -/
def State.mapPackets (s : State) (op key : Nat) (o : Obj) (prop : Bool) : List (List Byte) :=
  let start := leBytes 1 op ++ leBytes 16 key
  let idx := pieces 150 (o.units.length + 1) (List.range o.units.length)
  let idx := if idx.isEmpty then [[]] else idx
  let units := idx.map (fun l => start ++ o.head prop ++ leBytes 4 ((l.head?).getD 0) ++ (l.map (s.entryUnit o)).flatten)
  let lost := (pieces 200 (o.lost.length + 1) o.lost).map (fun l =>
    start ++ o.head prop ++ leBytes 4 (2 ^ 32 - 1) ++ (l.map (fun p => leBytes 8 p.1 ++ leBytes 8 p.2)).flatten)
  units ++ lost

/-- An object's unit list grown to `n` units. -/
def State.growUnits : Nat → State → Nat → Obj → State × Obj
  | 0, s, _, o => (s, o)
  | fuel + 1, s, key, o =>
    let (s, id) := s.addUnit { UnitRec.blank with
      utype := 1, stream := o.stream, gen := o.gen, key := key, index := o.units.length, nonce := o.nonce }
    State.growUnits fuel s key { o with units := o.units ++ [id] }

/-- The committed entries of the map replaced. -/
def State.setObjs (s : State) (l : Store Obj) : State := { s with obj := { s.obj with objs := l } }

/-- An entry of the map for a key: a committed one, or one recorded as a proposal. -/
def State.putEntry (s : State) (key : Nat) (o : Obj) (prop : Bool) : State :=
  if prop then { s with obj := { s.obj with props := Store.ins key o s.obj.props } }
  else
    let e := Store.get SeqEntry.init s.obj.seqTab o.stream
    { s with obj := { s.obj with
      objs := Store.ins key o s.obj.objs
      bound := if o.state = 1 && e.state != 0 && e.gen = o.gen then Store.put 0 s.obj.bound o.stream key else s.obj.bound } }

/-- Take a piece of an entry for a key into the map. An OPEN object of the generation that its stream stands at is the
object bound to the stream (R42, R109). -/
def State.takeEntry (s : State) (key : Nat) (l : List Byte) : State :=
  let prop := bitAt (leAt l 3 1) 0
  let old := if prop then (s.obj.props.find? (fun p => p.1 = key && p.2.seq = leAt l 56 4)).or
      (s.obj.objs.find? (fun p => p.1 = key)) else s.obj.objs.find? (fun p => p.1 = key)
  let o0 : Obj := (old.map (fun p => p.2)).getD
    { state := 1, length := 0, kslot := 0, keyId := 0, nocomp := false, nonce := 0, crc := 0, crcRun := 0, stream := 0
      gen := 0, seq := 0, units := [], restarts := [], lost := [] }
  let n := leAt l 12 4
  let o := { o0 with
    state := leAt l 0 1, kslot := leAt l 1 1, nocomp := bitAt (leAt l 2 1) 0, stream := leAt l 4 4, gen := leAt l 8 2
    keyId := leAt l 16 8, length := leAt l 24 8, nonce := leAt l 32 8, crc := leAt l 40 8, crcRun := leAt l 48 8
    seq := leAt l 56 4 }
  let first := leAt l 60 4
  let rest := l.drop 64
  let s := { s with red := { s.red with absent := s.red.absent.filter (fun k => k != key) } }
  if first = 2 ^ 32 - 1 then
    let rs := (List.range (rest.length / 16)).map (fun i => (leAt rest (16 * i) 8, leAt rest (16 * i + 8) 8))
    s.putEntry key { o with lost := rs } prop
  else
    let (s, o) := State.growUnits (n - o.units.length) s key o
    let es := (List.range (rest.length / 22)).map (fun i => (first + i, rest.drop (22 * i)))
    let s := es.foldl (fun s e =>
      let id := (o.units[e.1]?).getD 0
      let u := s.unit id
      match u.place, Place.ofBytes e.2 with
      | .none, p => s.setUnit id { u with place := p }
      | _, .none => s
      | _, p => s.setUnit id { u with place := p }) s
    let rs := es.filterMap (fun e => if leAt e.2 14 8 = 2 ^ 64 - 1 then none else some (leAt e.2 14 8, e.1))
    let o := { o with restarts := o.restarts ++ rs.filter (fun p => !o.restarts.contains p) }
    s.putEntry key o prop

/-- The proposal recorded for a key has committed. -/
def State.settleProp (s : State) (key : Nat) : State :=
  match s.obj.props.find? (fun p => p.1 = key) with
  | none => s
  | some p =>
    let s := { s with obj := { s.obj with props := s.obj.props.filter (fun q => q.1 != key) } }
    s.putEntry key p.2 false

/-- The proposal recorded for a key has not committed: it is discarded (R32, R43). -/
def State.dropProp (s : State) (key : Nat) : State :=
  { s with obj := { s.obj with props := s.obj.props.filter (fun q => q.1 != key) } }

/-- Remove a key's entry from the map. -/
def State.dropEntry (s : State) (key : Nat) : State :=
  (s.dropProp key).setObjs (s.obj.objs.filter (fun p => p.1 != key))

/-- A lookup is answered with the entry, piece by piece, behind a byte: 0 absent, 1 a committed entry, 2 and at its last piece
3 an entry that the home member has recorded but does not know to have committed. -/
def State.answerLookup (s : State) (dst key : Nat) : State :=
  let send := fun (s : State) (b : List Byte) (code : Byte) =>
    s.sendSeq dst 7 (b.take 17 ++ [code] ++ b.drop 17) none
  match s.obj.props.find? (fun p => p.1 = key), s.obj.objs.find? (fun p => p.1 = key) with
  | some p, _ =>
    let bs := s.mapPackets 1 key p.2 true
    let s := (bs.dropLast).foldl (fun s b => send s b 2#8) s
    send s (bs.getLast?.getD []) 3#8
  | none, some p => (s.mapPackets 1 key p.2 false).foldl (fun s b => send s b 1#8) s
  | none, none => send s (leBytes 1 1 ++ leBytes 16 key) 0#8

/-- The entries of the keys whose home this member is go to a new lead, and after them a mark that they have all gone
(R42, R115, R320; log 76). -/
def State.pushMap (s : State) (lead : Nat) : State :=
  let keys := ((s.obj.objs.map (fun p => p.1)) ++ (s.obj.props.map (fun p => p.1))).eraseDups
  let s := (keys.filter s.isHome).foldl (fun s k => s.answerLookup lead k) s
  s.sendSeq lead 7 (leBytes 1 1 ++ leBytes 16 0 ++ [4#8]) none

/-- A new lead still waits for the entries of members that take part (R115, R320). -/
def State.mapsAwaited (s : State) : Bool :=
  match s.grp.mrec with
  | none => false
  | some r => s.inGroup && (r.idsIn [3, 6]).any (fun i => bitAt s.obj.awaitMaps i)

/-- Tell the home member of a key about its entry; nothing is to be sent when this device is the home. -/
def State.tellHome (s : State) (op key : Nat) (owner : Option Src) (stripe : Nat) : State :=
  let h := s.homeOf key
  if h = s.myId then s
  else if op = 4 then s.sendSeqFor h 7 (leBytes 1 4 ++ leBytes 16 key) owner stripe
  else
    match s.obj.objs.find? (fun p => p.1 = key) with
    | some p => (s.mapPackets op key p.2 false).foldl (fun s b => s.sendSeqFor h 7 b owner stripe) s
    | none => s

/-- A proposal that the home member of a key has recorded has committed: an update without an entry (R32, R320). -/
def State.confirmHome (s : State) (key : Nat) : State :=
  if !s.inGroup || s.homeOf key = s.myId then s else s.sendSeq (s.homeOf key) 7 (leBytes 1 3 ++ leBytes 16 key) none

/-- The lead withdraws a proposal whose command does not commit: a delete with a further byte (R32, R43). -/
def State.withdrawHome (s : State) (key : Nat) : State :=
  if !s.isLead || s.homeOf key = s.myId then s
  else s.sendSeq (s.homeOf key) 7 (leBytes 1 4 ++ leBytes 16 key ++ [1#8]) none

/-! ## The directory (R348) -/

/-- A directory entry as its 48 B (Table 14-3). -/
def DirEntry.bytes (e : DirEntry) : List Byte :=
  leBytes 8 e.stripe ++ leBytes 2 e.gen ++ leBytes 1 e.k ++ leBytes 1 e.fill ++ leBytes 4 e.lost ++
    (List.range 32).map (fun j => BitVec.ofNat 8 ((e.members[j]?).getD 0xFF))
def DirEntry.ofBytes (l : List Byte) : DirEntry :=
  { stripe := leAt l 0 8, gen := leAt l 8 2, k := leAt l 10 1, fill := leAt l 11 1, lost := leAt l 12 4
    members := (((l.drop 16).take 32).map (fun b => b.toNat)).take (leAt l 10 1 + 2) }

/-- The home member keeps the entry of the highest generation. -/
def State.takeDirectory (s : State) (e : DirEntry) : State :=
  let l := s.red.directory
  let l := if l.any (fun d => d.stripe = e.stripe && e.gen < d.gen) then l
    else l.filter (fun d => d.stripe != e.stripe) ++ [e]
  s.setRed { s.red with directory := l }

/-- The row of a stripe. -/
def stripeRow (stripe : Nat) : Nat := stripe % 4096

/-- The home member of a stripe's row in the layout that the stripe belongs to. -/
def State.stripeHome (s : State) (stripe : Nat) : Nat :=
  let row := stripeRow stripe
  let l := if s.red.hasPending && stripe / 2 ^ 56 = s.red.layoutPending then s.red.rowPending row else s.red.row row
  (l[0]?).getD s.myId

/-! ## The life of a stripe (R350 to R357) -/

/-- A stripe in flight that this device owns. -/
def State.stripe (s : State) (id : Nat) : Option StripeSt := s.red.stripes.find? (fun x => x.jrec.stripe = id)
def State.setStripe (s : State) (x : StripeSt) : State :=
  s.setRed { s.red with stripes := s.red.stripes.map (fun y => if y.jrec.stripe = x.jrec.stripe then x else y) }

/-- The member set of a new stripe: the row's entry, with FENCED and FAILED members replaced (R347). -/
def State.memberSet (s : State) (row : Nat) : List Nat :=
  let l := s.red.openRow row
  match s.grp.mrec with
  | none => l
  | some r =>
    let el := if s.red.hasPending then s.red.eligiblePending else s.red.eligible
    (replaceAll r row s.red.openLayout el (fun i => r.state i = 4 || r.state i = 5) l l).1

/-- Open the journal record of a stripe in state OPEN (R355 step 1). -/
def State.openStripe (s : State) (j : JRec) (slots : List (List Nat)) (old : Option Nat) : State :=
  let s := s.setRed { s.red with stripes := s.red.stripes.filter (fun y => y.jrec.stripe != j.stripe) ++
    [{ jrec := j, sent := false, told := false, slots := slots, old := old, resend := [] }] }
  s.putRecord j

/-- A new stripe may be opened: a FREE record is left and no successor copy runs (R356, R359). -/
def State.mayOpen (s : State) : Bool := decide (s.red.own.length < 43008) && s.red.copyTo.isNone

/-- Close the gathered stripe: its units are taken from the front of those that wait, and its record opens
(R347, R350, R351). The record is written when the stripe closes, since FILL is known then (log entry 31). -/
def State.closeStripe (s : State) : State :=
  let k := s.red.openK
  let n := k * s.stripUnits
  let units := s.red.gather.take n
  if units.isEmpty || k = 0 || !s.mayOpen then s
  else
    let row := s.red.serial % 4096
    let slots := pieces s.stripUnits units.length units
    let j : JRec :=
      { stripe := row + s.red.serial % 2 ^ 44 * 2 ^ 12 + s.red.openLayout * 2 ^ 56, gen := 1, state := 1, kind := 0
        k := k, fill := slots.length, target := 0xFF, owner := s.myId, members := s.memberSet row
        epochLo := 0, slotDone := 0 }
    let s := s.setRed { s.red with serial := s.red.serial + 1, gather := s.red.gather.drop n }
    s.openStripe j slots none

/-- Close stripes as long as their last data slot is full (R351). -/
def State.gatherFull : Nat → State → State
  | 0, s => s
  | fuel + 1, s =>
    if s.red.openK * s.stripUnits ≤ s.red.gather.length && 0 < s.red.openK && s.mayOpen then
      State.gatherFull fuel s.closeStripe
    else s

/-- Units enter the stripe being gathered. -/
def State.gatherUnits (s : State) (ids : List Nat) : State :=
  let s := s.setRed { s.red with gather := s.red.gather ++ ids }
  State.gatherFull s.red.gather.length s

/-- The strip of a slot goes to its member, or to this device's own medium. -/
def State.sendStrip (s : State) (j : JRec) (slot : Nat) (bytes : List Byte) : State :=
  let m := j.member slot
  if m = s.myId then
    s.takeStrip s.myId j.stripe j.gen slot 0 true bytes
  else
    let s := s.setRed { s.red with requests := s.red.requests ++
      [{ type := 1, member := m, stripe := j.stripe, slot := slot, offset := 0, count := bytes.length, posMs := 0
         late := false, want := none, got := none }] }
    s.sendBytes m 1 1 slot j.gen j.stripe bytes

/-- The strip strings of a stripe by slot: data, P and Q; slots beyond FILL count as zeros (R343). -/
def State.stripStrings (s : State) (x : StripeSt) : List (Nat × List Byte) :=
  let data := x.slots.map s.dataString
  (List.range data.length).map (fun i => (i, (data[i]?).getD [])) ++
    [(x.jrec.k, stripP data), (x.jrec.k + 1, stripQ data)]

/-- Every strip of a stripe leaves for its member; RED counts the strip string bytes (R355 step 2). -/
def State.sendStrips (s : State) (x : StripeSt) : State :=
  let l := s.stripStrings x
  let s := s.add64 F.RED_PQ_BYTES_LO_COUNT F.RED_PQ_BYTES_HI_COUNT (l.map (fun p => p.2.length)).sum
  let s := s.setStripe { x with sent := true }
  l.foldl (fun s p => s.sendStrip x.jrec p.1 p.2) s

/-- The slots that hold units, and whether those of P and Q are done too. -/
def JRec.dataDone (j : JRec) : Bool :=
  if j.kind = 1 then bitAt j.slotDone j.target else (List.range j.fill).all (fun i => bitAt j.slotDone i)
def JRec.parityDone (j : JRec) : Bool :=
  if j.kind = 1 then true else bitAt j.slotDone j.k && bitAt j.slotDone (j.k + 1)

/-- The record of a stripe moves to a state, which is then to come into force. -/
def State.stripeState (s : State) (x : StripeSt) (st : Nat) : State :=
  let j := { x.jrec with state := st }
  (s.setStripe { x with jrec := j }).putRecord j

/-- The units of a stripe with slot and position. -/
def StripeSt.places (x : StripeSt) : List (Nat × Nat × Nat) :=
  ((List.range x.slots.length).map (fun i =>
    let l := (x.slots[i]?).getD []
    (List.range l.length).map (fun p => ((l[p]?).getD 0, i, p)))).flatten

/-- The strips of slots whose member has been replaced go to the new members (R357). -/
def State.resendStrips (s : State) (x : StripeSt) : State :=
  ((s.stripStrings x).filter (fun p => x.resend.contains p.1)).foldl (fun s p => s.sendStrip x.jrec p.1 p.2)
    (s.setStripe { x with resend := [] })

/-- The directory entry that a stripe commits. For a rebuild the entry with the target's member and without its LOST
bit (R366). -/
def State.commitEntry (s : State) (x : StripeSt) : DirEntry :=
  let j := x.jrec
  let lost := match s.red.rebuild.find? (fun i => i.entry.stripe = j.stripe && i.slot = j.target) with
    | some i => clrBit i.entry.lost j.target
    | none => 0
  { stripe := j.stripe, gen := j.gen, k := j.k, fill := j.fill, lost := if j.kind = 1 then lost else 0
    members := j.members }

/-- Step 5 of R355: the directory entry goes to the row's home member, the owner keeping a copy,
and for new stripes the map updates to the homes of the keys. The map points at the stripe from here on. -/
def State.publish (s : State) (x : StripeSt) : State :=
  let s := s.setStripe { x with told := true }
  let e := s.commitEntry x
  let h := s.stripeHome x.jrec.stripe
  let s := s.takeDirectory e
  let s := if h = s.myId then s
    else s.sendSeqFor h 5 (stripHead 4 0xFF e.gen 0 e.stripe 0 48 0 true false ++ e.bytes) none (e.stripe + 1)
  if x.jrec.kind != 0 then s
  else
    let ids := x.places
    let s := ids.foldl (fun s p =>
      if s.obj.units.any (fun u => u.1 = p.1) then
        s.setUnit p.1 { s.unit p.1 with place := .stripe x.jrec.stripe p.2.1 p.2.2 } else s) s
    let keys := (s.obj.objs.filter (fun o => o.2.units.any (fun u => ids.any (fun p => p.1 = u)))).map (fun o => o.1)
    keys.foldl (fun s k => s.tellHome 3 k none (x.jrec.stripe + 1)) s

/-- The lead releases a command's landing copies once no unit of it lies on them any more; units whose sequence a new lead
has not learnt from the map, which holds none, count for each command of their stream (R34, R352). -/
def State.releaseLanded (s : State) : State :=
  let flying := (s.red.stripes.map (fun x => x.slots.flatten)).flatten
  let open' := fun (e : Nat × Nat × List Nat) => s.obj.units.any (fun u =>
    u.2.stream = e.1 && (u.2.seq = e.2.1 || u.2.seq = 0) &&
    (flying.contains u.1 || match u.2.place with
     | .landing h _ => decide (64 ≤ h)
     | _ => false))
  let done := s.red.landed.filter (fun e => !open' e)
  let s := s.setRed { s.red with landed := s.red.landed.filter open' }
  done.foldl (fun s e => e.2.2.foldl (fun s m =>
    if m = s.myId then s.releaseCopy e.1 e.2.1 else s.sendOp m 4 3 0xFF 0 0 (landingId e.1 e.2.1)) s) s

/-- Step 6 of R355: at COMMITTED the owner acts on the stripe and its record becomes FREE. -/
def State.stripeCommitted (s : State) (x : StripeSt) : State :=
  let j := x.jrec
  let s := s.setRed { s.red with
    stripes := s.red.stripes.filter (fun y => y.jrec.stripe != j.stripe)
    rebuild := if j.kind = 1 then s.red.rebuild.filter (fun i => !(i.entry.stripe = j.stripe && i.slot = j.target))
      else s.red.rebuild
    reloc := if j.kind = 2 then s.red.reloc ++ x.places.map (fun p => (p.1, j.stripe, p.2.1, p.2.2)) else s.red.reloc
    relocLeft := if j.kind = 2 then s.red.relocLeft.filter (fun o => some o != x.old) else s.red.relocLeft }
  let s := if j.kind = 0 then
      x.places.foldl (fun s p => if s.obj.units.any (fun u => u.1 = p.1) then
        s.setUnit p.1 { s.unit p.1 with user := [] } else s) s
    else s
  let s := if j.kind = 0 then s.releaseLanded else s
  s.putRecord { j with state := 0 }

/-- A stripe goes on as far as it can: each state acts only once it is in force (R355). -/
def State.stripeStep : Nat → State → Nat → State
  | 0, s, _ => s
  | fuel + 1, s, id =>
    match s.stripe id with
    | none => s
    | some x =>
      let j := x.jrec
      if !s.inForce id then s
      else if j.state = 1 && !x.sent then
        if j.kind = 1 then s else State.stripeStep fuel (s.sendStrips x) id
      else if !x.resend.isEmpty then State.stripeStep fuel (s.resendStrips x) id
      else if j.state = 1 && j.dataDone then State.stripeStep fuel (s.stripeState x 2) id
      else if j.state = 2 && j.parityDone then State.stripeStep fuel (s.stripeState x 3) id
      else if j.state = 3 && !x.told then State.stripeStep fuel (s.publish x) id
      else if j.state = 3 && s.homesDone id then State.stripeStep fuel (s.stripeState x 4) id
      else if j.state = 4 then s.stripeCommitted x
      else s

/-- A slot reports its strip written and passed: SLOT_DONE (R355 step 4). A DONE from a member the record marks FAILED,
or of another generation, sets nothing (R357). -/
def State.slotDone (s : State) (stripe gen slot member : Nat) : State :=
  match s.stripe stripe with
  | none => s
  | some x =>
    let s := s.setRed { s.red with requests := s.red.requests.filter (fun q =>
      !(q.type = 1 && q.stripe = stripe && q.slot = slot && q.member = member)) }
    if x.jrec.gen = gen && x.jrec.member slot = member then
      let j := { x.jrec with slotDone := setBit x.jrec.slotDone slot }
      State.stripeStep 6 ((s.setStripe { x with jrec := j }).putRecord j) stripe
    else s

/-- Replace the member of a slot; the strip goes to the new one once the updated record is in force (R357). -/
def State.moveSlot (s : State) (x : StripeSt) (slot : Nat) : State :=
  match s.grp.mrec with
  | none => s
  | some r =>
    let row := stripeRow x.jrec.stripe
    let pend := s.red.hasPending && x.jrec.stripe / 2 ^ 56 = s.red.layoutPending
    let el := if pend then s.red.eligiblePending else s.red.eligible
    match replacement r row (x.jrec.stripe / 2 ^ 56) el x.jrec.members with
    | none => s
    | some m =>
      let j := { x.jrec with members := x.jrec.members.set slot m }
      let s := s.setRed { s.red with requests := s.red.requests.filter (fun q =>
        !(q.type = 1 && q.stripe = j.stripe && q.slot = slot)) }
      (s.setStripe { x with jrec := j, resend := if x.sent then x.resend ++ [slot] else x.resend }).putRecord j

/-- At an epoch, slots of open stripes whose member is FENCED or FAILED before its DONE get the row's new member. -/
def State.moveSlots (s : State) : State :=
  match s.grp.mrec with
  | none => s
  | some r =>
    (s.red.stripes.filter (fun x => x.jrec.kind != 1)).foldl (fun s x =>
      ((List.range x.jrec.members.length).filter (fun i =>
        (i < x.jrec.fill || x.jrec.k ≤ i) && !bitAt x.jrec.slotDone i &&
          (r.state (x.jrec.member i) = 4 || r.state (x.jrec.member i) = 5))).foldl (fun s i =>
        match s.stripe x.jrec.stripe with
        | some y => s.moveSlot y i
        | none => s) s) s

end Sys2Proof.Machine
end

