-- ==== Sys2Proof/Machine/Rebuild.lean ====
section
/-!
DEFINITION. Reconstruction, strip reads and slow members (R344, R360 to R363, R369).
-/

namespace Sys2Proof.Machine

/-! ## Reconstruction (R344, Table 14-2) -/

/-- The byte of slot `t` at one offset, from the bytes of the available slots; none when three or more are missing. -/
def recoverByte (k : Nat) (av : List (Nat × Nat)) (t : Nat) : Option Nat :=
  let at' := fun (l : List (Nat × Nat)) i => (l.find? (fun p => p.1 = i)).map (fun p => p.2)
  match at' av t with
  | some v => some v
  | none =>
    let data := av.filter (fun p => p.1 < k)
    let missing := (List.range k).filter (fun i => (at' data i).isNone)
    let a := fun p => data.foldl (fun x e => Nat.xor x e.2) p
    let b := fun q => data.foldl (fun x e => Nat.xor x (gfMul (gfPow 2 e.1) e.2)) q
    let found : Option (List (Nat × Nat)) :=
      match missing, at' av k, at' av (k + 1) with
      | [], _, _ => some []
      | [x], some p, _ => some [(x, a p)]
      | [x], none, some q => some [(x, gfMul (b q) (gfInv (gfPow 2 x)))]
      | [x, y], some p, some q =>
        let dx := gfMul (Nat.xor (b q) (gfMul (gfPow 2 y) (a p))) (gfInv (Nat.xor (gfPow 2 x) (gfPow 2 y)))
        some [(x, dx), (y, Nat.xor (a p) dx)]
      | _, _, _ => none
    match found with
    | none => none
    | some m =>
      let all := data ++ m
      if t < k then at' all t
      else if t = k then some (all.foldl (fun x e => Nat.xor x e.2) 0)
      else some (all.foldl (fun x e => Nat.xor x (gfMul (gfPow 2 e.1) e.2)) 0)

/-- A source of a reconstruction: a slot, its bytes from the range's start, and the ranges of them that are erased. -/
abbrev Source := Nat × List Byte × List (Nat × Nat)

/-- The bytes of slot `t` over a range, with 0 where a byte is lost, and whether one is. -/
def recoverRange (k fill count t : Nat) (src : List Source) : List Byte × Bool :=
  let one := fun b =>
    let av := (src.filter (fun e => !e.2.2.any (fun r => r.1 ≤ b && b < r.1 + r.2))).map (fun e =>
      (e.1, ((e.2.1[b]?).getD 0#8).toNat))
    recoverByte k (av ++ ((List.range k).filter (fun i => fill ≤ i)).map (fun i => (i, 0))) t
  let l := (List.range count).map one
  (l.map (fun v => BitVec.ofNat 8 (v.getD 0)), l.any (fun v => v.isNone))

/-! ## Serving reads of strips (R360 to R362, R369) -/

/-- The ranges of a strip that this device can no longer read: its lost units. -/
def State.stripLost (s : State) (x : Strip) : List (Nat × Nat) :=
  let w := if (x.units.head?.map (fun u => (s.unit u).utype)).getD 1 = 1 then 4160 else 4096
  let bad := (List.range x.units.length).filter (fun i => (s.unit ((x.units[i]?).getD 0)).lost)
  x.erased ++ bad.map (fun i => (w * i, w))

/-- The bytes of a range of a strip, and whether a part of it cannot be read. -/
def State.stripRange (s : State) (x : Strip) (offset count : Nat) : List Byte × Bool :=
  ((x.bytes.drop offset).take count,
   (s.stripLost x).any (fun r => r.1 < offset + count && offset < r.1 + r.2))

/-- Answer a read of a range: its bytes in pieces; STATUS 2 when there is no such strip, STATUS 3 and ERASED zeros when
the range cannot be read (R360, R369). -/
def State.answerRead (s : State) (dst type op stripe slot gen offset : Nat) (got : Option (List Byte × Bool)) :
    State :=
  match got with
  | none => s.sendSeq dst type (stripHead op slot gen 2 stripe offset 0 0 true false) none
  | some (l, bad) =>
    let ps := pieces 4064 (l.length + 1) l
    (List.range ps.length).foldl (fun s i =>
      let d := (ps[i]?).getD []
      let d := if bad then List.replicate d.length 0#8 else d
      s.sendSeq dst type (stripHead op slot gen (if bad then 3 else 0) stripe (offset + 4064 * i) d.length 0
        (i + 1 = ps.length) bad ++ d) none) s

/-- The landing copy that an id of Table 14-6 names. -/
def State.remoteCopy (s : State) (id : Nat) : Option RemoteCopy :=
  s.red.remote.find? (fun c => c.stream = id % 2 ^ 20 && c.seq = id / 2 ^ 20 % 2 ^ 32)

/-- A STRIP_READ arrives: a T-mode member first declares its position time, which the spec gives no rule for beyond its
cap; SLOT 0xFF reads a landing copy (R361, R362; log entries 2 and 32). -/
def State.takeRead (s : State) (src id slot gen offset count : Nat) : State :=
  if slot = 0xFF then
    s.answerRead src 3 1 id slot gen offset
      ((s.remoteCopy id).map (fun c => ((c.bytes.drop offset).take count, false)))
  else
    let t := (Config.value 1 s.free).toNat % 180001
    let s := if s.tMode then
        { s with free := s.free + 1 }.sendSeq src 3 (stripHead 3 slot gen 0 id offset count t true false) none
      else s
    s.answerRead src 3 1 id slot gen offset ((s.strip id slot).map (fun x => s.stripRange x offset count))

/-! ## Reading units back (R361) -/

/-- The directory entry of a stripe as this device knows it. -/
def State.dirOf (s : State) (stripe : Nat) : Option DirEntry := s.red.directory.find? (fun d => d.stripe = stripe)

/-- The member of a slot of a stripe: the entry's, or the row's once that one has left. -/
def State.slotMember (s : State) (stripe slot : Nat) : Nat :=
  let row := s.red.row (stripeRow stripe)
  let r := (row[slot]?).getD 0xFF
  match s.dirOf stripe, s.grp.mrec with
  | some d, some rec' =>
    let m := (d.members[slot]?).getD 0xFF
    if rec'.state m = 5 || rec'.state m = 0 then r else m
  | some d, none => (d.members[slot]?).getD 0xFF
  | none, _ => r

/-- A member serves reads: neither FENCED nor FAILED (R361). -/
def State.serves (s : State) (m : Nat) : Bool :=
  (s.grp.mrec.map (fun r => decide (r.state m = 3 || r.state m = 6 || r.state m = 2))).getD false

/-- Units get the payloads that have been read back. -/
def State.fillUnits (s : State) (p : Place → Bool) (payload : List Byte) : State :=
  let v := UnitRec.ofPayload payload
  { s with obj := { s.obj with units := s.obj.units.map (fun u =>
      if p u.2.place && u.2.user.isEmpty then
        (u.1, { v with place := u.2.place, lost := u.2.lost, poison := u.2.poison }) else u) } }

/-- The place of a unit in a stripe. -/
def isPlace (stripe slot pos : Nat) : Place → Bool
  | .stripe a b c => decide (a = stripe) && decide (b = slot) && decide (c = pos)
  | _ => false

/-- Ask for a range of a slot, once. -/
def State.askRange (s : State) (stripe slot offset count : Nat) (want : Option Nat) : State :=
  let m := s.slotMember stripe slot
  let got : Option (List Byte × Bool) := if m = s.myId then
      some (match s.strip stripe slot with
        | some x => s.stripRange x offset count
        | none => ([], true)) else none
  let q : StripReq := { type := 2, member := m, stripe := stripe, slot := slot, offset := offset, count := count
                        posMs := 0, late := false, want := want, got := got }
  if s.red.requests.any (fun r => r.type = 2 && r.stripe = stripe && r.slot = slot && r.offset = offset && r.want = want)
  then s
  else
    let s := s.setRed { s.red with requests := s.red.requests ++ [q] }
    if m = s.myId then s
    else s.sendSeq m 2 (stripHead 1 slot 0 0 stripe offset count 0 true false) none

/-- Slots that a reconstruction may read, in the order data, P, Q: held by members that serve, not yet asked for. -/
def State.sourceSlots (s : State) (stripe t k fill : Nat) (tried : List Nat) : List Nat :=
  (List.range (k + 2)).filter (fun i => i != t && (i < fill || k ≤ i) && !tried.contains i &&
    s.serves (s.slotMember stripe i) && !bitAt (((s.dirOf stripe).map (fun d => d.lost)).getD 0) i)

/-- Reconstruct a range of a slot from k other slots, the zero slots beyond FILL among them. -/
def State.reconstruct (s : State) (stripe slot offset count : Nat) (tried : List Nat) (need : Nat) : State :=
  let k := ((s.dirOf stripe).map (fun d => d.k)).getD s.red.k
  let fill := ((s.dirOf stripe).map (fun d => d.fill)).getD k
  let l := (s.sourceSlots stripe slot k fill tried).take need
  if l.length < need then
    let bad := (s.obj.units.filter (fun u => isPlace stripe slot (offset / 4160) u.2.place)).map (fun u => u.1)
    let s := s.setRed { s.red with requests := s.red.requests.filter (fun q =>
      !(q.stripe = stripe && q.want = some slot && q.offset = offset)) }
    s.loseUnits bad 1
  else l.foldl (fun s i => s.askRange stripe i offset count (some slot)) s

/-- Read a unit back: from the landing copy while the map points at it, else from its strip, directly or by
reconstruction. -/
def State.fetchUnit (s : State) (id : Nat) : State :=
  let u := s.unit id
  if !u.user.isEmpty || u.lost then s
  else
    match u.place with
    | .landing h pos =>
      if h < 64 then s
      else
        let lid := landingId u.stream u.seq
        if h = 64 + s.myId then
          match s.remoteCopy lid with
          | some c => s.fillUnits (fun p => p = .landing h pos) ((c.bytes.drop (4160 * pos)).take 4160)
          | none => s
        else if s.red.requests.any (fun r => r.type = 2 && r.stripe = lid && r.slot = 0xFF && r.offset = 4160 * pos) then s
        else
          let s := s.setRed { s.red with requests := s.red.requests ++
            [{ type := 2, member := h - 64, stripe := lid, slot := 0xFF, offset := 4160 * pos, count := 4160, posMs := 0
               late := false, want := none, got := none }] }
          s.sendSeq (h - 64) 2 (stripHead 1 0xFF 0 0 lid (4160 * pos) 4160 0 true false) none
    | .stripe st sl pos =>
      let m := s.slotMember st sl
      if s.red.requests.any (fun r => r.stripe = st && r.offset = 4160 * pos && (r.slot = sl || r.want = some sl)) then s
      else if m = s.myId && (s.strip st sl).isSome then
        match s.strip st sl with
        | some x =>
          let (l, bad) := s.stripRange x (4160 * pos) 4160
          if bad then s.reconstruct st sl (4160 * pos) 4160 [] (((s.dirOf st).map (fun d => d.k)).getD s.red.k)
          else s.fillUnits (isPlace st sl pos) l
        | none => s
      else if m != s.myId && s.serves m then s.askRange st sl (4160 * pos) 4160 none
      else
        let k := ((s.dirOf st).map (fun d => d.k)).getD s.red.k
        let z := k - ((s.dirOf st).map (fun d => d.fill)).getD k
        s.reconstruct st sl (4160 * pos) 4160 [] (k - z)
    | _ => s

/-- A reconstruction whose sources have all come gives the range, or tries a further slot where bytes are erased. -/
def State.finishRange (s : State) (stripe slot offset : Nat) : State :=
  let qs := s.red.requests.filter (fun q => q.stripe = stripe && q.want = some slot && q.offset = offset)
  let whole := fun (q : StripReq) => (q.got.map (fun g => decide (q.count ≤ g.1.length) || g.2)).getD false
  if qs.isEmpty || !qs.all whole then s
  else
    let count := (qs.head?.map (fun q => q.count)).getD 0
    let k := ((s.dirOf stripe).map (fun d => d.k)).getD s.red.k
    let fill := ((s.dirOf stripe).map (fun d => d.fill)).getD k
    let src : List Source := qs.map (fun q => (q.slot, (q.got.map (fun g => g.1)).getD [],
      if (q.got.map (fun g => g.2)).getD true then [(0, count)] else []))
    let (l, lost) := recoverRange k fill count slot src
    if lost then s.reconstruct stripe slot offset count (qs.map (fun q => q.slot)) 1
    else
      let s := s.setRed { s.red with requests := s.red.requests.filter (fun q =>
        !(q.stripe = stripe && q.want = some slot && q.offset = offset)) }
      s.fillUnits (isPlace stripe slot (offset / 4160)) l

/-- STRIP_DATA DATA arrives at the reader (R361): it completes the range, or the range is reconstructed. -/
def State.takeStripData (s : State) (member id slot status offset : Nat) (erased : Bool) (data : List Byte) : State :=
  let mine := fun (q : StripReq) => q.type = 2 && q.member = member && q.stripe = id && q.slot = slot &&
    q.offset ≤ offset && offset < q.offset + q.count
  match s.red.requests.find? mine with
  | none => s
  | some q =>
    let bad := status != 0 || erased
    let g := q.got.getD ([], false)
    let q' := { q with got := some (g.1 ++ data, g.2 || bad) }
    let s := s.setRed { s.red with requests := s.red.requests.map (fun x => if x = q then q' else x) }
    match q.want with
    | some t => s.finishRange id t q.offset
    | none =>
      let drop := fun (s : State) => s.setRed { s.red with requests := dropFirst (fun x => x = q') s.red.requests }
      if bad then
        if slot = 0xFF then drop s
        else
          let k := ((s.dirOf id).map (fun d => d.k)).getD s.red.k
          let z := k - ((s.dirOf id).map (fun d => d.fill)).getD k
          (drop s).reconstruct id slot q.offset q.count [] (k - z)
      else if q.count ≤ (g.1 ++ data).length then
        let l := (g.1 ++ data).take q.count
        if slot = 0xFF then
          (drop s).fillUnits (fun p => decide (p = .landing (64 + member) (q.offset / 4160))) l
        else (drop s).fillUnits (isPlace id slot (q.offset / 4160)) l
      else s

/-! ## Slow members (R362, R363) -/

/-- A member has just become slow: ERR_STATUS.SLOW and event 0x106, once until it is not slow any more. -/
def State.markSlow (s : State) (m : Nat) : State :=
  if s.red.slowMs.any (fun e => e.1 = m) then s
  else
    let s := s.setRed { s.red with slowMs := Store.ins m 1 s.red.slowMs }
    (s.wr F.RED_ERR_STATUS_SLOW 1).raise 8 s.myId 0x106 m

/-- A member is slow at this moment: a request of its is past its deadline, or its beats are overdue. -/
def State.slowNow (s : State) (m : Nat) : Bool :=
  s.red.requests.any (fun q => q.member = m && q.late) || (s.isLead && s.unreachable m)

/-- The time for which members have been slow without a break advances by 1 ms. -/
def State.ageSlow (s : State) : State :=
  s.setRed { s.red with slowMs := s.red.slowMs.filterMap (fun e =>
    if s.slowNow e.1 then some (e.1, e.2 + 1) else none) }

/-- `STRIP_REQUEST_DEADLINE`: a request to a member is past its deadline: the member is slow, and what it was to read is
reconstructed (R361, R362). -/
def execStripRequestDeadline (member : BitVec 6) (stripe : BitVec 64) (slot : BitVec 8) (s : State) :
    Host.Outcome State Fault Refusal :=
  let m := member.toNat
  let mine := fun (q : StripReq) => q.member = m && q.stripe = stripe.toNat && q.slot = slot.toNat && !q.late
  match s.red.requests.find? mine with
  | none => .next s
  | some q =>
    let s := s.setRed { s.red with requests := s.red.requests.map (fun x => if x = q then { q with late := true } else x) }
    let s := s.markSlow m
    .next (if q.type = 2 && q.want.isNone && q.slot != 0xFF then
        let k := ((s.dirOf q.stripe).map (fun d => d.k)).getD s.red.k
        let z := k - ((s.dirOf q.stripe).map (fun d => d.fill)).getD k
        s.reconstruct q.stripe q.slot q.offset q.count [] (k - z)
      else s)

end Sys2Proof.Machine
end

