-- ==== Sys2Proof/Machine/Recover.lean ====
section
/-!
DEFINITION. Rebuild, takeover of a failed owner's journal, reshape, what RED does at an epoch, and its timers
(R351, R357 to R359, R364 to R376).
-/

namespace Sys2Proof.Machine

/-! ## The rebuild queue (R365 to R367, R371) -/

/-- This device is the rebuild owner of a slot of a stripe: the row names it, the slot's strip is lost, and it holds no
strip there. -/
def State.ownsLost (s : State) (e : DirEntry) (slot : Nat) : Bool :=
  let m := (e.members[slot]?).getD 0xFF
  let gone := bitAt e.lost slot ||
    (s.grp.mrec.map (fun r => decide (r.state m = 5) || decide (r.state m = 0))).getD false
  let row := s.red.row (stripeRow e.stripe)
  (slot < e.fill || e.k ≤ slot) && (row[slot]?).getD 0xFF = s.myId && (s.strip e.stripe slot).isNone &&
    (gone || m = s.myId)

/-- The critical stripes of the queue. -/
def State.criticals (s : State) : Nat := s.red.rebuild.countP (fun i => decide (2 ≤ s.lostSlots i.entry))

/-- Queue the slots of listed stripes that this device has to rebuild; event 0x104 when critical stripes appear. -/
def State.queueRebuild (s : State) (es : List DirEntry) : State :=
  let was := s.criticals
  let new := (es.map (fun e => ((List.range (e.k + 2)).filter (fun j => s.ownsLost e j &&
    !s.red.rebuild.any (fun i => i.entry.stripe = e.stripe && i.slot = j))).map (fun j =>
      RebuildItem.mk e j false []))).flatten
  let s := s.setRed { s.red with
    rebuild := s.red.rebuild ++ new
    rebuildTotal := if s.red.rebuild.isEmpty then new.length else s.red.rebuildTotal + new.length
    rebuildSteps := if s.red.rebuild.isEmpty then 0 else s.red.rebuildSteps }
  if was = 0 && 0 < s.criticals then s.raise 8 s.myId 0x104 s.criticals else s

/-- The entries that this device lists for a row: its directory's when it is the row's home, else what its strip index
shows, with K 0 (R348, R365; log entry 33). -/
def State.listing (s : State) (row : Nat) : List DirEntry :=
  let dir := s.red.directory.filter (fun d => stripeRow d.stripe = row && s.stripeHome d.stripe = s.myId)
  if (s.red.row row)[0]? = some s.myId then dir
  else (s.red.strips.filter (fun x => stripeRow x.stripe = row && x.passed)).map (fun x =>
    { stripe := x.stripe, gen := x.gen, k := 0, fill := 0, lost := 0
      members := (List.replicate x.slot 0xFF) ++ [s.myId] })

/-- Ask for the stripes of a row at its home member. -/
def State.listRow (s : State) (row : Nat) : State :=
  let h := ((s.red.row row)[0]?).getD s.myId
  if h = s.myId then s.queueRebuild (s.listing row)
  else s.sendSeq h 8 (stripHead 1 0xFF 0 0 (row + s.red.layout * 2 ^ 56) 0 0 0 true false) none

/-- A REBUILD LIST is answered with directory entries. -/
def State.answerList (s : State) (dst id : Nat) : State :=
  let es := s.listing (id % 4096)
  let ps := pieces 84 es.length es
  let ps := if ps.isEmpty then [[]] else ps
  (List.range ps.length).foldl (fun s i =>
    let p := (ps[i]?).getD []
    s.sendSeq dst 8 (stripHead 2 0xFF 0 0 id (48 * 84 * i) (48 * p.length) 0 (i + 1 = ps.length) false ++
      (p.map DirEntry.bytes).flatten) none) s

/-- A strip index entry that a new home member hears of joins the row's directory (R348). -/
def State.mergeIndex (s : State) (e : DirEntry) : State :=
  let slot := e.members.length - 1
  let m := (e.members[slot]?).getD 0xFF
  match s.dirOf e.stripe with
  | some d =>
    s.takeDirectory { d with gen := Nat.max d.gen e.gen, members := d.members.set slot m, lost := clrBit d.lost slot
                             fill := if slot < d.k then Nat.max d.fill (slot + 1) else d.fill }
  | none =>
    let k := s.red.k
    s.takeDirectory { stripe := e.stripe, gen := e.gen, k := k, fill := if slot < k then slot + 1 else 0
                      lost := clrBit (2 ^ (k + 2) - 1) slot
                      members := (s.red.row (stripeRow e.stripe)).set slot m }

/-- Strips here that a directory entry names at another generation, or on another member, are dropped, unless this device
has the stripe in flight (R364). -/
def State.dropStale (s : State) (e : DirEntry) : State :=
  if (s.stripe e.stripe).isSome then s
  else s.dropStrips (fun t => t.stripe = e.stripe && t.passed && (t.gen != e.gen ||
    (!bitAt e.lost t.slot && (e.members[t.slot]?).getD 0xFF != s.myId)))

/-- A row's list of stripes has come while this device checks its strip index: once whole, strips of the row that it does
not name are dropped (R364). -/
def State.checkIndex (s : State) (row : Nat) (es : List DirEntry) (last : Bool) : State :=
  match s.red.recheck.find? (fun p => p.1 = row) with
  | none => s
  | some p =>
    let named := p.2 ++ es.map (fun e => e.stripe)
    if !last then s.setRed { s.red with recheck := Store.ins row named s.red.recheck }
    else
      let s := s.setRed { s.red with recheck := s.red.recheck.filter (fun q => q.1 != row) }
      let mine := (s.red.stripes.map (fun x => x.jrec.stripe))
      s.dropStrips (fun t => stripeRow t.stripe = row && t.passed && !named.contains t.stripe && !mine.contains t.stripe)

/-- A REBUILD LIST_DATA arrives: entries of the home's directory are queued, strip index entries merge into this home's
directory. -/
def State.takeList (s : State) (row : Nat) (last : Bool) (data : List Byte) : State :=
  let es := (List.range (data.length / 48)).map (fun i => DirEntry.ofBytes ((data.drop (48 * i)).take 48))
  let raw := (List.range (data.length / 48)).map (fun i => (data.drop (48 * i)).take 48)
  let idx := raw.filter (fun l => leAt l 10 1 = 0)
  let s := idx.foldl (fun s l =>
    let ids := ((l.drop 16).take 32).map (fun b => b.toNat)
    s.mergeIndex { DirEntry.ofBytes l with members := ids.takeWhile (fun i => i = 0xFF) ++
                     [((ids.dropWhile (fun i => i = 0xFF)).head?).getD 0xFF] }) s
  let es := es.filter (fun e => e.k != 0)
  ((es.foldl State.dropStale s).checkIndex row es last).queueRebuild es

/-- The next item by R367: critical stripes first, then by stripe id. -/
def State.nextItem (s : State) : Option RebuildItem :=
  let rank := fun (i : RebuildItem) => (if 2 ≤ s.lostSlots i.entry then 0 else 2 ^ 64) + i.entry.stripe
  (s.red.rebuild.filter (fun i => !i.started)).foldl (fun m i =>
    match m with
    | none => some i
    | some b => if rank i < rank b then some i else some b) none

/-- Replace an item of the queue. -/
def State.setItem (s : State) (i : RebuildItem) : State :=
  s.setRed { s.red with rebuild := s.red.rebuild.map (fun x =>
    if x.entry.stripe = i.entry.stripe && x.slot = i.slot then i else x) }

/-- Open the record of the next item while none is being rebuilt here (R366). -/
def State.startRebuild (s : State) : State :=
  if s.red.stripes.any (fun x => x.jrec.kind = 1) || !s.mayOpen || s.medium.state != mReady || s.paused then s
  else
    match s.nextItem with
    | none => s
    | some i =>
      let e := i.entry
      let j : JRec :=
        { stripe := e.stripe, gen := e.gen, state := 1, kind := 1, k := e.k, fill := e.fill, target := i.slot
          owner := s.myId, members := e.members.set i.slot s.myId, epochLo := 0, slotDone := 0 }
      (s.setItem { i with started := true, sources := [] }).openStripe j [] none

/-- Slots from which the sources of an item can be read. -/
def State.itemSlots (s : State) (i : RebuildItem) : List Nat :=
  let e := i.entry
  (List.range (e.k + 2)).filter (fun j => j != i.slot && (j < e.fill || e.k ≤ j) && !bitAt e.lost j &&
    s.serves ((e.members[j]?).getD 0xFF) && !i.sources.any (fun r => r.1 = j))

/-- Bytes of a strip of this stripe code. -/
def State.stringLen (s : State) (slot k : Nat) : Nat := if slot < k then s.stripBytes else s.stripBytes

/-- Ask for `n` further source strips of an item. -/
def State.readSources (s : State) (i : RebuildItem) (n : Nat) : State :=
  let l := (s.itemSlots i).take n
  l.foldl (fun s j =>
    let m := (i.entry.members[j]?).getD 0xFF
    match s.red.rebuild.find? (fun x => x.entry.stripe = i.entry.stripe && x.slot = i.slot) with
    | none => s
    | some x =>
      if m = s.myId then
        match s.strip i.entry.stripe j with
        | some t => s.setItem { x with sources := x.sources ++ [(j, t.bytes, s.stripLost t, true)] }
        | none => s.setItem { x with sources := x.sources ++ [(j, [], [(0, s.stripBytes)], true)] }
      else
        (s.setItem { x with sources := x.sources ++ [(j, [], [], false)] }).sendSeq m 8
          (stripHead 3 j i.entry.gen 0 i.entry.stripe 0 (s.stringLen j i.entry.k) 0 true false) none) s

/-- Bytes of a stripe were lost beyond recovery; with three members failed under cause 5 (R370, Table 02-5). -/
def State.bytesLost (s : State) (stripe slot : Nat) (lost : List Nat) : State :=
  let s := ((s.wr F.RED_ERR_STATUS_DATA_LOSS 1).inc F.RED_STRIPES_LOST_COUNT).raise 8 s.myId 0x105 stripe
  let bad := (s.obj.units.filter (fun u => lost.any (fun b => isPlace stripe slot (b / 4160) u.2.place))).map (fun u => u.1)
  s.loseUnits bad (if 3 ≤ ((s.grp.mrec.map (fun r => r.idsIn [5])).getD []).length then 5 else 1)

/-- Rebuild advances: event 0x102 at every 5 % (R377). -/
def State.rebuildProgress (s : State) : State :=
  let left := s.red.rebuild.length - 1
  let pct := if s.red.rebuildTotal = 0 then 100 else (s.red.rebuildTotal - left) * 100 / s.red.rebuildTotal
  if s.red.rebuildSteps < pct / 5 then
    (s.setRed { s.red with rebuildSteps := pct / 5 }).raise 8 s.myId 0x102 pct
  else s

/-- Every source of an item has come: the target is reconstructed, written here and passed on the way of any strip; bytes
that cannot be recovered read a further source, or are zero and lost; damaged sources get their bytes back
(R366, R369, R370). -/
def State.rebuildTarget (s : State) (i : RebuildItem) : State :=
  let e := i.entry
  let src : List Source := i.sources.map (fun r => (r.1, r.2.1, r.2.2.1))
  let n := s.stringLen i.slot e.k
  let (l, lost) := recoverRange e.k e.fill n i.slot src
  if lost && !(s.itemSlots i).isEmpty then s.readSources i 1
  else
    let gone := if lost then (List.range n).filter (fun b => (recoverByte e.k
      ((src.filter (fun r => !r.2.2.any (fun q => q.1 ≤ b && b < q.1 + q.2))).map (fun r =>
        (r.1, ((r.2.1[b]?).getD 0#8).toNat)) ++
        ((List.range e.k).filter (fun z => e.fill ≤ z)).map (fun z => (z, 0))) i.slot).isNone) else []
    let s := if lost then s.bytesLost e.stripe i.slot gone else s
    let whole : List Source := src ++ [(i.slot, l, [])]
    let s := (src.filter (fun r => !r.2.2.isEmpty)).foldl (fun s r =>
      r.2.2.foldl (fun s q =>
        let (b, _) := recoverRange e.k e.fill n r.1 whole
        let m := (e.members[r.1]?).getD 0xFF
        let ps := pieces 4064 (q.2 + 1) ((b.drop q.1).take q.2)
        if m = s.myId then s
        else (List.range ps.length).foldl (fun s i =>
          let d := (ps[i]?).getD []
          s.sendSeq m 8 (stripHead 4 r.1 e.gen 0 e.stripe (q.1 + 4064 * i) d.length 0 (i + 1 = ps.length) false ++ d)
            none) s) s) s
    let s := s.setRed { s.red with spareUsed := s.red.spareUsed + ceilDiv n 4160 }
    let s := s.rebuildProgress
    s.takeStrip s.myId e.stripe e.gen i.slot 0 true l

/-- The sources of the stripe being rebuilt: asked for once its record is in force, used once all have come. -/
def State.stepRebuild (s : State) : State :=
  match s.red.stripes.find? (fun x => x.jrec.kind = 1) with
  | none => s
  | some x =>
    match s.red.rebuild.find? (fun i => i.entry.stripe = x.jrec.stripe && i.slot = x.jrec.target) with
    | none => s
    | some i =>
      if !s.inForce x.jrec.stripe || x.jrec.state != 1 then s
      else if !x.sent then
        let z := i.entry.k - i.entry.fill
        (s.setStripe { x with sent := true }).readSources i (i.entry.k - z)
      else if i.sources.all (fun r => r.2.2.2) && (s.strip x.jrec.stripe x.jrec.target).isNone then s.rebuildTarget i
      else s

/-- The units of a data string whose media tags do not match, as ranges of it (R18). -/
def badTags (l : List Byte) : List (Nat × Nat) :=
  let ps := chunks 4160 (l.length + 1) l
  (List.range ps.length).filterMap (fun i => if unitTagsOk ((ps[i]?).getD []) then none else some (4160 * i, 4160))

/-- REBUILD DATA arrives: source bytes for the item in progress, or reconstructed bytes for a damaged range of a strip
held here, which is then reallocated. A unit whose media tag does not match counts as unavailable (R18, R366, R369). -/
def State.takeRebuildData (s : State) (member stripe slot status offset : Nat) (last erased : Bool) (data : List Byte) :
    State :=
  match s.red.rebuild.find? (fun i => i.entry.stripe = stripe && i.started &&
      i.sources.any (fun r => r.1 = slot && !r.2.2.2) && (i.entry.members[slot]?).getD 0xFF = member) with
  | some i =>
    let bad := status != 0 || erased
    let s := s.setItem { i with sources := i.sources.map (fun r =>
      if r.1 = slot then
        let l := r.2.1 ++ data
        let gone := if bad then r.2.2.1 ++ [(offset, if status = 2 then s.stripBytes else data.length)] else r.2.2.1
        (r.1, l, if last && slot < i.entry.k then gone ++ badTags l else gone, last)
      else r) }
    s.stepRebuild
  | none =>
    match s.strip stripe slot with
    | none => s
    | some x =>
      let w := if (x.units.head?.map (fun u => (s.unit u).utype)).getD 1 = 1 then 4160 else 4096
      let l := x.bytes.take offset ++ data ++ x.bytes.drop (offset + data.length)
      let start := offset / w * w
      let good := if w = 4160 then unitTagsOk ((l.drop start).take w) else last
      if !good then s.setStrip { x with bytes := l } else
      let x' := { x with bytes := l
                         erased := x.erased.filter (fun r => r.1 != start) }
      let s := s.setStrip x'
      let u := (x.units[offset / w]?).getD 0
      if !x.units.contains u then s
      else
        let s := s.setUnit u { s.unit u with lost := false }
        match (s.unit u).place with
        | .zone z pos => s.reallocate u z pos
        | _ => s

/-- Rebuild started: the lead's event, with the stripes of its own directory copy that name the member (R365). -/
def State.rebuildStarted (s : State) (m : Nat) : State :=
  s.raise 8 s.myId 0x101 (m + (s.red.directory.countP (fun d => d.members.contains m)) % 2 ^ 32 * 2 ^ 32)

/-- Strips of this device whose medium is lost are dropped from the index, and their rows are listed so that they are
rebuilt (R365). -/
def State.findLost (s : State) : State :=
  let dead := fun (x : Strip) => x.passed && x.units.any (fun u => match (s.unit u).place with
    | .zone z _ => !s.surfOk (s.zoneSurface z)
    | _ => false)
  let rows := ((s.red.strips.filter dead).map (fun x => stripeRow x.stripe)).eraseDups
  if rows.isEmpty then s
  else
    let s := if s.isLead then s.rebuildStarted s.myId else s
    rows.foldl (fun s r => s.listRow r) (s.dropStrips dead)

/-! ## Takeover (R358) -/


/-- The records of a member that this device holds: its mirror of them, or its own region. -/
def State.mirrorOf (s : State) (owner : Nat) : List JRec :=
  if owner = s.myId then s.red.own else (s.red.mirror1 ++ s.red.mirror2).filter (fun j => j.owner = owner)

/-- A JOURNAL TAKE is answered with the records, 63 a packet. -/
def State.answerTake (s : State) (dst owner : Nat) : State :=
  let l := s.mirrorOf owner
  let ps := pieces 63 l.length l
  let ps := if ps.isEmpty then [[]] else ps
  (List.range ps.length).foldl (fun s i =>
    let p := (ps[i]?).getD []
    s.sendSeq dst 5 (stripHead 3 0xFF 0 0 owner (63 * 64 * i) (64 * p.length) 0 (i + 1 = ps.length) false ++
      (p.map JRec.bytes).flatten) none) s

/-- Units of the map that lie on landing copies and in no stripe in flight, in the order of their making. -/
def State.landedUnits (s : State) : List Nat :=
  let flying := (s.red.stripes.map (fun x => x.slots.flatten)).flatten ++ s.red.gather
  (s.obj.units.filter (fun u => !flying.contains u.1 && s.obj.liveUnits.contains u.1 && (match u.2.place with
    | .landing h _ => decide (64 ≤ h)
    | _ => false))).map (fun u => u.1)

/-- Every member of a stripe drops its strips up to a generation (Table 14-7). -/
def State.abortStripe (s : State) (j : JRec) : State :=
  ((j.members.eraseDups).filter (fun m => m < 64)).foldl (fun s m =>
    if m = s.myId then s.dropStrips (fun t => t.stripe = j.stripe && t.gen ≤ j.gen)
    else s.sendOp m 1 2 0xFF j.gen 0 j.stripe) s

/-- One record of a failed owner is resumed as Table 14-5 states. -/
def State.resume (s : State) (j : JRec) : State :=
  if j.kind != 0 then s
  else if j.state = 4 then s.releaseLanded
  else
    let s := s.abortStripe j
    if s.tMode then s
    else
      let units := (s.landedUnits).take (j.fill * s.stripUnits)
      if units.isEmpty then s
      else
        let slots := pieces s.stripUnits units.length units
        let j' : JRec := { j with gen := (j.gen + 1) % 65536, state := 1, owner := s.myId, slotDone := 0
                                  fill := slots.length, members := s.memberSet (stripeRow j.stripe) }
        s.openStripe j' slots none

/-- Of two records of a stripe the later generation stands, and of one generation the higher STATE (R358). -/
def mergeRecord (l : List JRec) (j : JRec) : List JRec :=
  match l.find? (fun x => x.stripe = j.stripe) with
  | none => l ++ [j]
  | some x =>
    if x.gen < j.gen || (x.gen = j.gen && x.state < j.state) then l.map (fun y => if y = x then j else y) else l

/-- Every successor asked has answered: the lead becomes the owner of the records in flight and resumes them; event
0x107. -/
def State.endTake (s : State) (owner : Nat) : State :=
  let recs := (s.red.taken.filter (fun j => j.owner = owner)).filter (fun j => match s.stripe j.stripe with
    | some x => x.jrec.gen ≤ j.gen && x.jrec.owner != s.myId
    | none => true)
  let s := s.setRed { s.red with
    taken := s.red.taken.filter (fun j => j.owner != owner)
    takeWait := s.red.takeWait.filter (fun p => p.1 != owner) }
  let s := (s.wr F.RED_ERR_STATUS_TAKEOVER 1).raise 8 s.myId 0x107 (owner + recs.length * 2 ^ 16)
  let s := recs.foldl State.resume s
  s.setRed { s.red with takeover := s.red.takeover.filter (fun i => i != owner) }

/-- The lead asks the successors of a failed member for its own region; its own mirror serves at once. -/
def State.askTake (s : State) (owner : Nat) : State :=
  match s.grp.mrec with
  | none => s
  | some r =>
    let all := r.successors owner
    let l := all.filter (fun i => i != s.myId)
    let own := if all.contains s.myId then s.mirrorOf owner else []
    let s := s.setRed { s.red with
      taken := own.foldl mergeRecord (s.red.taken.filter (fun j => j.owner != owner))
      takeWait := Store.ins owner (idBits l) s.red.takeWait }
    if l.isEmpty then s.endTake owner
    else l.foldl (fun s i => s.sendSeq i 5 (stripHead 2 0xFF 0 0 owner 0 0 0 true false) none) s

/-- JOURNAL RECORDS arrive from a successor of a failed member: they are merged, and acted on once every successor asked
has answered (R358). -/
def State.takeRecords (s : State) (src owner : Nat) (last : Bool) (recs : List JRec) : State :=
  match s.red.takeWait.find? (fun p => p.1 = owner && bitAt p.2 src) with
  | none => s
  | some p =>
    let left := if last then clrBit p.2 src else p.2
    let s := s.setRed { s.red with taken := recs.foldl mergeRecord s.red.taken
                                   takeWait := Store.ins owner left s.red.takeWait }
    if left = 0 then s.endTake owner else s

/-- The records of a JOURNAL RECORDS packet. -/
def recordsOf (data : List Byte) : List JRec :=
  (List.range (data.length / 64)).filterMap (fun i => JRec.ofBytes ((data.drop (64 * i)).take 64))

/-! ## Reshape (R374, R375) -/

/-- This device is the reshape owner of a key: the home of its row in the pending layout. -/
def State.reshapes (s : State) (key : Nat) : Bool := (s.red.rowPending (keyRow key))[0]? = some s.myId

/-- Units of the keys that this device relocates which still lie in stripes of the current layout. -/
def State.toRelocate (s : State) : List Nat :=
  ((s.obj.objs.filter (fun o => s.reshapes o.1)).map (fun o => o.2.units)).flatten.filter (fun u =>
    match (s.unit u).place with
    | .stripe st _ _ => decide (st / 2 ^ 56 = s.red.layout) && !s.red.reloc.any (fun e => e.1 = u)
    | _ => false)

/-- The stripe in which a unit lies. -/
def State.unitStripe (s : State) (u : Nat) : Nat :=
  match (s.unit u).place with
  | .stripe st _ _ => st
  | _ => 0

/-- Put a number into an ascending list. -/
def insertNat (a : Nat) : List Nat → List Nat
  | [] => [a]
  | b :: t => if a ≤ b then a :: b :: t else b :: insertNat a t

/-- A pending layout has come into force: the old stripes that this device has to relocate, ascending (R374). -/
def State.planReshape (s : State) : State :=
  let l := (s.toRelocate.map s.unitStripe).eraseDups
  s.setRed { s.red with relocLeft := l.foldl (fun m a => insertNat a m) [] }

/-- The next old stripe is gathered into a new one: its units are read back, then a stripe of KIND 2 opens in the pending
layout, with a serial of this device's own in the row (log entry 34). -/
def State.stepReshape (s : State) : State :=
  if !s.red.hasPending || s.red.stripes.any (fun x => x.jrec.kind = 2) || !s.red.rebuild.isEmpty || !s.mayOpen ||
      s.paused then s
  else
    match s.red.relocLeft with
    | [] => s
    | st :: _ =>
      let units := s.toRelocate.filter (fun u => s.unitStripe u = st)
      if units.isEmpty then s.setRed { s.red with relocLeft := s.red.relocLeft.drop 1 }
      else if units.any (fun u => (s.unit u).user.isEmpty && !(s.unit u).lost) then
        units.foldl (fun s u => s.fetchUnit u) s
      else
        let row := keyRow (s.unit ((units[0]?).getD 0)).key
        let k := s.red.kPending
        let slots := pieces s.stripUnits units.length (units.take (k * s.stripUnits))
        let n := 2 ^ 30 + s.red.serial % 2 ^ 30
        let j : JRec :=
          { stripe := row + n * 2 ^ 12 + s.red.layoutPending * 2 ^ 56, gen := 1, state := 1, kind := 2, k := k
            fill := slots.length, target := 0xFF, owner := s.myId, members := s.red.rowPending row, epochLo := 0
            slotDone := 0 }
        (s.setRed { s.red with serial := s.red.serial + 1 }).openStripe j slots (some st)

/-- At the flip relocation entries take effect and are folded into map entries (R374 steps 4 and 5). -/
def State.applyReloc (s : State) : State :=
  let s := s.red.reloc.foldl (fun s e =>
    if s.obj.units.any (fun u => u.1 = e.1) then
      s.setUnit e.1 { s.unit e.1 with place := .stripe e.2.1 e.2.2.1 e.2.2.2 } else s) s
  s.setRed { s.red with reloc := [], relocLeft := [] }

/-! ## What RED does at an epoch (R346, R357 to R359, R364, R365, R371) -/

/-- New successors get a copy of every record in flight; no stripe opens until it is complete (R359). -/
def State.copySuccessors (s : State) : State :=
  let now := s.successors
  let new := now.filter (fun i => !s.red.succ.contains i)
  let had := !s.red.succ.isEmpty
  let s := s.setRed { s.red with succ := now }
  if !had then s
  else
    match new with
    | [] => s
    | m :: _ =>
      let s := s.setRed { s.red with copyTo := some m }
      new.foldl (fun s m => s.red.own.foldl (fun s j => s.sendSeqFor m 5 (recordPayload j) none (j.stripe + 1)) s) s

/-- The mirrors of members that hold no part any more are dropped. -/
def State.dropMirrors (s : State) : State :=
  let keep := fun (j : JRec) => (s.grp.mrec.map (fun r => r.state j.owner != 0)).getD false
  s.setRed { s.red with mirror1 := s.red.mirror1.filter keep, mirror2 := s.red.mirror2.filter keep }

/-- The directory's owner-side rule of R364 and R371: queued stripes whose slot this device no longer holds are dropped;
a rebuild one of whose sources has left starts again with the next generation from what remains, and stripes that become
critical, where there were none, raise event 0x104 (R367). `was` is how many were critical before. -/
def State.reviewRebuild (s : State) (was : Nat) : State :=
  let s := s.setRed { s.red with rebuild := s.red.rebuild.filter (fun i =>
    i.started || ((s.red.row (stripeRow i.entry.stripe))[i.slot]?).getD 0xFF = s.myId) }
  let s := if was = 0 && 0 < s.criticals then s.raise 8 s.myId 0x104 s.criticals else s
  match s.red.stripes.find? (fun x => x.jrec.kind = 1) with
  | none => s
  | some x =>
    match s.red.rebuild.find? (fun i => i.entry.stripe = x.jrec.stripe && i.slot = x.jrec.target) with
    | none => s
    | some i =>
      if i.sources.any (fun r => !r.2.2.2 && !s.serves ((i.entry.members[r.1]?).getD 0xFF)) then
        let i := { i with sources := [], entry := { i.entry with gen := (i.entry.gen + 1) % 65536 } }
        let j := { x.jrec with gen := (x.jrec.gen + 1) % 65536, slotDone := 0, state := 1 }
        ((s.setItem i).setStripe { x with jrec := j, sent := false }).putRecord j
      else s

/-- Landing copies of started commands whose holder has FAILED are written again elsewhere (R352). -/
def State.recoverCopies (s : State) (old : Option MemRec) (r : MemRec) : State :=
  let gone := (r.idsIn [5]).filter (fun i => (old.map (fun o => o.state i != 5)).getD false)
  gone.foldl (fun s m =>
    (s.sq.cmds.filter (fun c => c.stage = .started && c.copies.any (fun l => l.place = 64 + m))).foldl (fun s c =>
      s.copyLost c.src.stream c.frame.seq m) s) s

/-- Keys have new home members: the lead brings each of them its entry, and a member that is no longer the home of a key
drops what it holds of it (R320, R348; that the entries come from the lead is log 76). -/
def State.moveHomes (s : State) (before : List (Nat × Nat)) : State :=
  if s.isLead then
    before.foldl (fun s kh => if s.homeOf kh.1 = kh.2 then s else s.tellHome 2 kh.1 none 0) s
  else
    { s with obj := { s.obj with objs := s.obj.objs.filter (fun p => s.isHome p.1)
                                 props := s.obj.props.filter (fun p => s.isHome p.1) } }

/-- The critical stripes of the queue under the record that was in force before. -/
def State.critBefore (s : State) (old : Option MemRec) : Nat := { s with grp := { s.grp with mrec := old } }.criticals

/-- What RED does when a record comes into force. A device that has missed epochs checks its strip index against the
directory of each row in which it holds strips (R364; log entry 40). -/
def State.redAdopt (s : State) (old : Option MemRec) (r : MemRec) : State :=
  let flips := s.red.flipNew
  let wasPending := s.red.hasPending
  let homes0 := s.obj.objs.map (fun p => (p.1, s.homeOf p.1))
  let (s, gained) := s.adoptRows
  let s := s.moveHomes homes0
  let s := if flips then (s.applyReloc).setRed { s.applyReloc.red with flipMark := some s.sq.nextAdmit } else s
  let s := if flips && s.isLead then s.raise 8 s.myId 0x109 s.red.layout else s
  let s := if s.red.hasPending && !wasPending then s.planReshape else s
  let s := if s.red.hasPending && !wasPending && s.isLead then
      s.raise 8 s.myId 0x108 (s.red.kPending + s.red.layoutPending * 2 ^ 8) else s
  let s := s.moveSlots
  let s := s.copySuccessors
  let s := s.dropMirrors
  let s := s.reviewRebuild (s.critBefore old)
  let s := gained.foldl (fun s row => s.listRow row) s
  let back := (old.map (fun o => decide (o.epoch + 1 < r.epoch))).getD false
  let s := if back then
      let rows := (s.red.strips.map (fun x => stripeRow x.stripe)).eraseDups
      let away := rows.filter (fun row => (s.red.row row)[0]? != some s.myId)
      let s := s.setRed { s.red with recheck := away.foldl (fun t row => Store.ins row [] t) [] }
      rows.foldl (fun s row => s.listRow row) s
    else s
  let homes := gained.filter (fun row => (s.red.row row)[0]? = some s.myId)
  let s := homes.foldl (fun s row => ((r.idsIn [3, 4]).filter (fun i => i != s.myId)).foldl (fun s i =>
    s.sendSeq i 8 (stripHead 1 0xFF 0 0 (row + s.red.layout * 2 ^ 56) 0 0 0 true false) none) s) s
  let s := if s.isLead then s.recoverCopies old r else s
  if s.isLead then
    s.red.takeover.foldl State.askTake s
  else s

/-! ## What RED does between events -/

/-- The successor copy is complete when every packet of it has been acknowledged: event 0x10B (R359). -/
def State.endSuccCopy (s : State) : State :=
  match s.red.copyTo with
  | none => s
  | some m =>
    if (Store.get [] s.grp.unacked (triple m 0)).any (fun x => x.packet.type = 5) then s
    else (s.setRed { s.red with copyTo := none }).raise 8 s.myId 0x10B m

/-- Strips here that have passed are reported to their owner; one that a failed cartridge does not take is reported as not
written, and its slot moves (R169, R355, R357). -/
def State.pollStrips (s : State) : State :=
  let dead := s.tMode && (s.medium.writeFailed || s.medium.state = mFaulted)
  s.red.strips.foldl (fun s x =>
    if !x.whole || x.told then s
    else if x.units.all s.unitPassed then
      let s := s.setStrip { x with passed := true, told := true }
      if x.owner = s.myId then s.slotDone x.stripe x.gen x.slot s.myId
      else s.sendOp x.owner 3 2 x.slot x.gen 0 x.stripe
    else if dead then
      let s := s.dropStrips (fun t => t.stripe = x.stripe && t.slot = x.slot && t.gen = x.gen)
      if x.owner != s.myId then s.sendOp x.owner 3 4 x.slot x.gen 1 x.stripe
      else
        match s.stripe x.stripe with
        | some y => if y.jrec.gen = x.gen then s.moveSlot y x.slot else s
        | none => s
    else s) s

/-- RED goes on as far as it can: stripes, rebuild, copies and strips that have ended, gathering and reshape. -/
def State.redStep (s : State) : State :=
  if !s.inGroup then s
  else
    let s := s.endSuccCopy
    let s := (s.red.stripes.map (fun x => x.jrec.stripe)).foldl (fun s id => State.stripeStep 8 s id) s
    let s := (s.pollCopies).reclaimCopies
    let s := s.pollStrips
    let s := if s.dMode then s.findLost else s
    let s := (s.startRebuild).stepRebuild
    let s := State.gatherFull s.red.gather.length s
    s.stepReshape

/-! ## Timers -/

/-- `STRIPE_CLOSE_TIMEOUT`: CLOSE_MS have passed since the first unit of the stripe being gathered (R351). -/
def execStripeCloseTimeout (s : State) : Host.Outcome State Fault Refusal := .next (s.closeStripe).redStep

/-- Rebuild, reshape or drain work is held (R368). -/
def State.rebuildWork (s : State) : Bool := !s.red.rebuild.isEmpty || !s.red.relocLeft.isEmpty

/-- `REBUILD_SHARE_UPDATE`: every 100 ms the share is set from the percentage of media time that other work used over
the last second; a rise waits for Betony's grant (R368). -/
def execRebuildShareUpdate (busyPct : BitVec 7) (s : State) : Host.Outcome State Fault Refusal :=
  if !s.rebuildWork then
    let s := ((s.unask 5 0).wr F.RED_SHARE_CURRENT 0).wr F.RED_SHARE_TARGET 0
    .next ((s.wr F.GRP_PORT_ARB_DATA_W 3).wr F.GRP_PORT_ARB_BULK_W 1)
  else
    let floor := s.rd F.RED_RATE_FLOOR_PCT
    let t := Nat.max floor (95 - busyPct.toNat)
    let t := if 0 < s.criticals then Nat.max t (s.rd F.RED_RATE_CRIT_PCT) else t
    let t := Nat.min t (s.rd F.RED_RATE_CEIL_PCT)
    let s := s.wr F.RED_SHARE_TARGET t
    let s := if s.rd F.RED_SHARE_CURRENT = 0 then s.setShare floor else s
    .next (if s.rd F.RED_SHARE_CURRENT < t then s.ask 5 0 5 else (s.unask 5 0).setShare t)

end Sys2Proof.Machine
end

