-- ==== Sys2Proof/Machine/Group.lean ====
section
/-!
DEFINITION. The membership record, epoch commits and adoption, discovery, the lead and the deputy, failover
(R306, R307, R319 to R336).
-/

namespace Sys2Proof.Machine

/-! ## Commands that an epoch ends (R319, R325, R330) -/

/-- A command that has not committed completes with EPOCH_STALE. -/
def State.epochStale (s : State) (src : Src) : State :=
  match s.cmdOf src with
  | some c =>
    let s := if c.frame.opcode < 0x10 && (c.waits = 8 || c.waits = 13) && c.stage = .started then
        s.withdrawHome c.frame.key else s
    (s.discardWork c).fail c stEpochStale
  | none => s

/-! ## Adoption (R318, R319, R323, R336) -/

/-- The device erases both record copies, its journal and its sequence table, discards its map and keeps its id as a
DISCOVERED device (R336). -/
def State.leaveGroup (s : State) : State :=
  let s := s.setGrp { s.grp with
    recA := none, recB := none, mrec := none, unacked := [], txSeq := [], rxSeq := [], heldNew := [], change := none
    changes := [], beats := [], acked := 0 }
  { s with
    red := { RedSt.init with serial := s.red.serial }
    obj := { s.obj with seqTab := [], bound := [], objs := [], units := [], deltas := [], props := [], deleting := [] } }

/-- A packet of the old epoch that its block sends again in the new one: strip traffic, the journal, the map, and
management packets (R319, R340, R371). -/
def sentAgain (p : Packet) : Bool := (1 ≤ p.type && p.type ≤ 5) || p.type = 7 || p.type = 8 || p.type = 0x1B

/-- The events and the fresh numbering of an adoption: every unacknowledged packet of the old epoch is dropped and
reported to the block that sent it. -/
def State.adopt (s : State) (r : MemRec) : State :=
  let was := s.role
  let before := s.grp.mrec
  let old := (s.grp.unacked.map (fun e => e.2.map (fun x => (e.1 / 4, x)))).flatten
  let s := s.storeRec r
  let keep := if r.lead = s.myId then setBit 0 s.myId else 0
  let s := s.setGrp { s.grp with mrec := some r, unacked := [], txSeq := [], rxSeq := [], acked := keep, sinceBeat := 0
                                 querying := false, lostAnswers := 0 }
  let s := if r.lead = s.myId then s.wr F.GRP_STATUS_ISOLATED 0 else s
  let s := s.raise 8 s.myId 0x005 r.epoch
  let s := if s.role = 1 && was != 1 then s.raise 8 s.myId 0x006 r.epoch else s
  let s := if s.role = 2 && was != 2 then s.raise 8 s.myId 0x007 r.epoch else s
  let s := if was = 1 && s.role != 1 then
      (s.sq.cmds.filter (fun c => c.stage = .started)).foldl (fun s c => s.epochStale c.src) s else s
  let s := old.foldl (fun s e =>
    if e.2.packet.type = 6 then (match e.2.owner with
      | some src => s.epochStale src
      | none => s)
    else if sentAgain e.2.packet && [2, 3, 4, 6].contains (r.state e.1) then
      s.sendSeqFor e.1 e.2.packet.type e.2.packet.payload e.2.owner e.2.stripe
    else s) s
  let s := if s.myState = 0 || s.myState = 1 then s.leaveGroup else s.redAdopt before r
  let s := if before.map (fun b => b.lead) = some r.lead then s
    else if r.lead = s.myId then { s with obj := { s.obj with
      awaitMaps := (((r.idsIn [3, 6]).filter (fun i => i != s.myId)).foldl setBit 0) } }
    else if s.myState = 3 || s.myState = 6 then
      (s.setRed { s.red with remote := s.red.remote.map (fun c => { c with told := false }) }).pushMap r.lead
    else s
  s.reroute

/-! ## Sequence table mirror and management commands (R325, R332, R340) -/

/-- The entry of a stream in the sequence table as 8 bytes (Table 02-2). -/
def SeqEntry.bytes (e : SeqEntry) : List Byte :=
  leBytes 4 e.lastSeq ++ leBytes 2 e.gen ++ leBytes 1 e.state ++ leBytes 1 (b2n e.unknown)
def SeqEntry.ofBytes (l : List Byte) : SeqEntry :=
  { lastSeq := leAt l 0 4, gen := leAt l 4 2, state := leAt l 6 1, unknown := bitAt (leAt l 7 1) 0 }

/-- Send a stream's entry to a member's MRAM. -/
def State.mirrorSeq (s : State) (dst stream : Nat) (e : SeqEntry) (owner : Option Src) : State :=
  s.sendSeq dst 6 (leBytes 4 stream ++ e.bytes) owner

/-- The 64 B command frame that the lead sends for a member-local command: DLIST and INLINE zero (R340). -/
def Frame.wire (f : Frame) : List Byte :=
  leBytes 16 f.key ++ leBytes 8 f.offset ++ leBytes 4 f.length ++ leBytes 1 f.opcode ++ leBytes 1 f.flags ++
    leBytes 1 f.dcount ++ leBytes 1 0 ++ leBytes 24 0 ++ leBytes 4 f.seq ++
    leBytes 4 (f.stream + f.cring * 2 ^ 20 + f.prio * 2 ^ 26)

/-- The packets of a CMD: the frame with up to 4,016 B of data each; the data of IMAGE_WRITE is divided at 256 B. -/
def cmdPieces (step : Nat) : Nat → Nat → List Byte → List (Nat × List Byte)
  | 0, off, l => [(off, l)]
  | fuel + 1, off, l => if l.length ≤ step then [(off, l)] else (off, l.take step) :: cmdPieces step fuel (off + step) (l.drop step)

/-- The MGMT payload header (Table 13-14). -/
def mgmtHead (op part tag off base : Nat) : List Byte :=
  leBytes 1 op ++ leBytes 1 part ++ leBytes 2 tag ++ leBytes 4 off ++ leBytes 8 base

/-- Run a member-local command on another member (R340). -/
def State.sendMgmtCmd (s : State) (dst : Nat) (src : Option Src) (frame : List Byte) (part : Nat) (data : List Byte) :
    State :=
  let tag := s.grp.mgmtTag
  let step := if leAt frame 28 1 = 0x33 then 3840 else 4016
  let s := s.setGrp { s.grp with
    mgmtTag := (tag + 1) % 65536
    mgmtOut := s.grp.mgmtOut ++ [{ tag := tag, target := dst, src := src, frame := frame, part := part, data := data }] }
  (cmdPieces step data.length 0 data).foldl (fun s p =>
    s.sendSeq dst 0x1B (mgmtHead 1 part tag p.1 0 ++ frame ++ p.2) none) s

/-- The frame of a KEY_LOAD. -/
def keyFrame (slot keyId flags len : Nat) : List Byte :=
  ({ key := keyId, offset := slot, length := len, opcode := 0x32, flags := flags, dcount := 1, rsv31 := 0, dlist := 0
     inline0 := 0, inline1 := 0, seq := 0, stream := 0, cring := 0, prio := 0, rsvRoute := 0 } : Frame).wire

/-- The lead copies its sequence table, its key slots and its nonce reservation to a new deputy (R332). -/
def State.copyToDeputy (s : State) (d : Nat) : State :=
  let s := s.setGrp { s.grp with copyTo := some d }
  let s := s.obj.seqTab.foldl (fun s e => s.mirrorSeq d e.1 e.2 none) s
  let s := s.sendSeq d 6 (leBytes 4 (2 ^ 20) ++ leBytes 8 s.obj.nonceEnd) none
  s.obj.keys.foldl (fun s e =>
    if e.2.loaded then s.sendMgmtCmd d none (keyFrame e.1 e.2.keyId 1 64) 0 e.2.material else s) s

/-! ## Epoch commits (R122, R324) -/

/-- The record that the next change builds on: the last one that waits, else the one in force. -/
def State.baseRec (s : State) : Option MemRec :=
  match s.grp.changes.getLast?, s.grp.change with
  | some c, _ => some c.mrec
  | none, some c => some c.mrec
  | none, none => s.grp.mrec

/-- The body of a management response with an ADMIN outcome: STATUS, RESULT, AUX (Table 13-10). -/
def adminBody (status result aux : Nat) : List Byte := leBytes 2 status ++ leBytes 8 result ++ leBytes 8 aux

/-- A device message leaves on the management path: message type 0x7F, the vendor identifier most significant byte first,
then the header and body (R337). -/
def State.mgmtSend (s : State) (bytes : List Byte) : State :=
  s.emit (.mgmt (leBytes 1 0x7F ++ (leBytes 4 (s.rd F.GRP_MG_VENDOR_VENDOR)).reverse ++ bytes))

/-- The response to a management command: header and, when RC is 0, the body (Table 13-9). -/
def State.mgmtReply (s : State) (cmd tag rc : Nat) (body : List Byte) : State :=
  s.mgmtSend (leBytes 1 (cmd + 0x80) ++ leBytes 1 tag ++ leBytes 1 rc ++ leBytes 1 0 ++ leBytes 8 s.epoch ++
    (if rc = 0 then body else []))

/-- Answer a management ADMIN request: origin 64 is a request on this device's own management path, with its management
tag; another origin is a member that forwarded it, with its MGMT tag (R339, R340). -/
def State.answerAdmin (s : State) (origin tag rc : Nat) (body : List Byte) : State :=
  if origin = 64 then s.mgmtReply 5 tag rc body
  else s.sendSeq origin 0x1B (mgmtHead 4 0 tag 0 0 ++ leBytes 1 rc ++ leBytes 3 0 ++ (if rc = 0 then body else [])) none

/-- Whoever asked for a change hears its outcome. -/
def State.answerChange (s : State) (c : Change) (status result : Nat) : State :=
  let s := match c.src with
    | some src => (match s.cmdOf src with
      | some d => s.finish d status result 0
      | none => s)
    | none => s
  match c.mgmt with
  | some (o, t) => s.answerAdmin o t 0 (adminBody status result 0)
  | none => s

/-- The change commits: the lead adopts the record, sends EPOCH to every other position that holds an id, and answers.
Members that the record names FAILED for the first time are to be taken over and rebuilt. -/
def State.commitChange (s : State) (c : Change) : State :=
  let failed := match s.grp.mrec with
    | some o => (c.mrec.idsIn [5]).filter (fun i => o.state i != 5)
    | none => []
  let fenced := match s.grp.mrec with
    | some o => (c.mrec.idsIn [4]).filter (fun i => o.state i != 4)
    | none => []
  let s := s.setGrp { s.grp with change := none, copyTo := none }
  let s := { s with red := { s.red with takeover := s.red.takeover ++ failed.filter (fun i => !s.red.takeover.contains i) } }
  let s := (s.moveRows s.grp.mrec c.mrec).adopt c.mrec
  let s := fenced.foldl (fun s i => s.raise 8 i 0x009 c.mrec.epoch) s
  let s := failed.foldl (fun s i => (s.raise 8 i 0x00A c.mrec.epoch).rebuildStarted i) s
  let s := s.setGrp { s.grp with acked := if c.stored && c.mrec.deputy < 64 then setBit s.grp.acked c.mrec.deputy else s.grp.acked }
  let ids := (List.range c.mrec.ring).filter (fun i => i != s.myId &&
    (Store.get 0 c.mrec.uids i != 0 || s.rdi F.GRP_ROUTE_PORT i < 4))
  let s := ids.foldl (fun s i => s.sendPlain i 0x15 c.mrec.bytes) s
  s.answerChange c stSuccess c.mrec.epoch

/-- Go on with the change in progress once its copy has been made: the lead's own MRAM first, then the deputy's. -/
def State.runChange (s : State) : State :=
  match s.grp.change with
  | none => s
  | some c =>
    if c.copying then s
    else
      let s := s.storeRec c.mrec
      if c.mrec.deputy < 64 && c.mrec.deputy != s.myId then s.sendPlain c.mrec.deputy 0x15 c.mrec.bytes
      else s.commitChange c

/-- Begin the oldest change that waits while none is in progress. -/
def State.nextChange (s : State) : State :=
  match s.grp.change, s.grp.changes with
  | none, c :: t =>
    let s := s.setGrp { s.grp with change := some c, changes := t }
    let s := if c.copying then s.copyToDeputy c.mrec.deputy else s
    s.runChange
  | _, _ => s

/-- Ask for an epoch commit of a record built by `f` on the latest one (R122, R324). A new deputy gets its copy first
(R332). -/
def State.askChange (s : State) (src : Option Src) (mgmt : Option (Nat × Nat)) (f : MemRec → MemRec) : State :=
  match s.baseRec with
  | none => s
  | some b =>
    let r := f b
    let r := { r with epoch := b.epoch + 1 }
    let c : Change := { mrec := r, copying := decide (r.deputy < 64) && decide (r.deputy != b.deputy), stored := false
                        src := src, mgmt := mgmt }
    (s.setGrp { s.grp with changes := s.grp.changes ++ [c] }).nextChange

/-- The deputy's MRAM holds the record of the change in progress. -/
def State.changeStored (s : State) : State :=
  match s.grp.change with
  | none => s
  | some c => (s.commitChange { c with stored := true }).nextChange

/-- `DEPUTY_COPY_DONE`: the copy to a new deputy is complete and the commit goes on (R332). -/
def execDeputyCopyDone (s : State) : Host.Outcome State Fault Refusal :=
  match s.grp.change with
  | some c =>
    if c.copying && s.grp.copyTo.isSome then
      .next (s.setGrp { s.grp with change := some { c with copying := false }, copyTo := none }).runChange
    else .next s
  | none => .next s

/-- Every JOINING member holds the record and no layout is pending: a later epoch makes them ACTIVE (R328, R375). -/
def State.activateJoined (s : State) : State :=
  match s.grp.mrec with
  | none => s
  | some r =>
    let js := r.idsIn [2]
    let rowsDone := fun i => !(Store.get [] s.grp.unacked (triple i 0)).any (fun x =>
      x.packet.type = 5 && leAt x.packet.payload 0 1 = 5)
    if s.isLead && s.grp.change.isNone && s.grp.changes.isEmpty && !js.isEmpty && s.red.layout = s.red.layoutPending &&
        js.all (fun i => bitAt s.grp.acked i && rowsDone i) then
      s.askChange none none (fun r => js.foldl (fun r i => r.setState i 3) r)
    else s

/-! ## Beats (R329) -/

/-- The device's host link is up. -/
def State.hostUp (s : State) : Bool := s.rd F.HIF_LINK_STATUS_A_WIDTH != 0 || s.rd F.HIF_LINK_STATUS_B_WIDTH != 0

/-- The payload of MEMBER_BEAT. -/
def State.beatBytes (s : State) : List Byte :=
  leBytes 1 s.medium.state ++ leBytes 1 (s.shown F.GRP_STATUS_STATE 0 0) ++ leBytes 1 (b2n s.hostUp) ++ leBytes 13 0

/-- `LEAD_BEAT_TIMER`: every BEAT_MS the lead sends LEAD_BEAT to every member (R329). -/
def execLeadBeatTimer (s : State) : Host.Outcome State Fault Refusal :=
  match s.grp.mrec with
  | some r =>
    if s.isLead then
      .next (((r.idsIn [2, 3, 4, 6]).filter (fun i => i != s.myId)).foldl (fun s i =>
        s.sendSeq i 0x13 (leBytes 8 s.epoch) none) s)
    else .next s
  | none => .next s

/-- The deputy that R332 names: the ACTIVE member other than the lead with the lowest id whose MEMBER_BEAT reports a
host link up. -/
def State.deputyCandidate (s : State) (r : MemRec) (not : Nat) : Option Nat :=
  r.active.find? (fun i => i != s.myId && i != not && (s.beat i).hostUp && !s.unreachable i)

/-- Replace the deputy in a record, or leave none (R332). -/
def State.nameDeputy (s : State) (r : MemRec) (not : Nat) : MemRec :=
  { r with deputy := (s.deputyCandidate r not).getD 0xFF }

/-- The report that no candidate for the deputy exists (R332). -/
def State.noDeputy (s : State) (cand : Option Nat) : State :=
  if cand.isSome then s else (s.wr F.GRP_ERR_STATUS_NO_DEPUTY 1).raise 8 s.myId 0x00C s.epoch

/-- Members that count for the lead's quorum: ACTIVE members, and those of them it reaches, itself included (R330). -/
def State.quorum (s : State) (r : MemRec) : Bool :=
  r.active.length ≤ 2 * (r.active.filter (fun i => !s.unreachable i)).length

/-- Set the age of a member's last beat. -/
def State.setAge (s : State) (m age : Nat) : State :=
  s.setGrp { s.grp with beats := Store.ins m { s.beat m with ageMs := age } s.grp.beats }

/-- FORM in progress fails: a named member has not answered (R328). -/
def State.formFails (s : State) (m : Nat) : State :=
  match s.grp.forming with
  | some (src, named, answered) =>
    if bitAt named m && !bitAt answered m then
      let s := s.setGrp { s.grp with forming := none }
      match s.cmdOf src with
      | some c => s.fail c stMemberUnreachable
      | none => s
    else s
  | none => s

/-- `LEAD_QUORUM_LOST`: the quorum has failed for LEAD_MS: the lead demotes itself; started commands that have not
committed complete with EPOCH_STALE (R330). -/
def execLeadQuorumLost (s : State) : Host.Outcome State Fault Refusal :=
  match s.grp.mrec with
  | some r =>
    if s.isLead && !s.quorum r then
      let e := s.epoch
      let s := (s.wr F.GRP_STATUS_ISOLATED 1).wr F.GRP_ERR_STATUS_ISOLATED 1
      let s := s.raise 8 s.myId 0x00B e
      let s := s.setGrp { s.grp with change := none, changes := [], copyTo := none }
      .next ((s.sq.cmds.filter (fun c => c.stage = .started)).foldl (fun s c => s.epochStale c.src) s)
    else .next s
  | none => .next s

/-- A change in progress waits for a deputy that is lost: it, and those behind it, go on with the replacement, which
gets its copy first; the old deputy is FENCED in the same commit. -/
def State.redirectChange (s : State) (c : Change) (old : Nat) (new : Option Nat) : State :=
  let fix := fun (r : MemRec) => { r.setState old 4 with deputy := new.getD 0xFF }
  let s := s.setGrp { s.grp with
    change := some { c with mrec := fix c.mrec, copying := new.isSome, stored := false }
    changes := s.grp.changes.map (fun x => { x with mrec := fix x.mrec }) }
  let s := match new with
    | some d => s.copyToDeputy d
    | none => s
  s.runChange

/-- `DEPUTY_REPLACE`: the deputy has been unreachable for LEAD_MS while the quorum holds: the lead names another and
marks the old one FENCED in the same commit (R330, R332). -/
def execDeputyReplace (s : State) : Host.Outcome State Fault Refusal :=
  match s.grp.mrec with
  | some r =>
    if s.isLead && r.deputy < 64 && s.unreachable r.deputy && s.quorum r then
      let c := s.deputyCandidate r r.deputy
      match s.grp.change with
      | none =>
        .next ((s.noDeputy c).askChange none none (fun b => { b.setState r.deputy 4 with deputy := c.getD 0xFF }))
      | some ch => .next (if ch.mrec.deputy = r.deputy then (s.noDeputy c).redirectChange ch r.deputy c else s)
    else .next s
  | none => .next s

/-- `DEPUTY_LEAD_LOSS_TIMEOUT`: the deputy has had no LEAD_BEAT for LEAD_MS and asks every other ACTIVE member (R331). -/
def execDeputyLeadLossTimeout (s : State) : Host.Outcome State Fault Refusal :=
  match s.grp.mrec with
  | some r =>
    if s.isDeputy && !s.shutOut then
      let s := s.setGrp { s.grp with querying := true, lostAnswers := 0 }
      .next ((r.active.filter (fun i => i != s.myId && i != r.lead)).foldl (fun s i => s.sendSeq i 0x17 [] none) s)
    else .next s
  | none => .next s

/-- The deputy takes over once the members that answered "lost", with itself, are more than half of the ACTIVE members:
it commits an epoch in which it is the lead, the old lead is FAILED and a new deputy is named (R331). -/
def State.takeLead (s : State) (r : MemRec) : State :=
  if s.grp.querying && r.active.length < 2 * (popCount 64 s.grp.lostAnswers + 1) then
    let s := s.setGrp { s.grp with querying := false }
    let c := s.deputyCandidate r r.lead
    let s := s.noDeputy c
    s.askChange none none (fun b => { b.setState b.lead 5 with lead := s.myId, deputy := c.getD 0xFF })
  else s

/-! ## Discovery (R326) -/

/-- The device takes an id: it is DISCOVERED, and its ports become known (R306, R326). -/
def State.takeId (s : State) (id : Nat) : State :=
  let s := (s.wr F.GRP_STATUS_ID id).wr F.GRP_STATUS_HAS_ID 1
  (s.raise 8 id 0x00D s.ringN).portsChanged

/-- The port on which discovery goes on, and how far it reaches: NR, or FR when NR is down. -/
def State.onward (s : State) : Option (Nat × Nat) :=
  if s.portUp 1 then some (1, 1) else if s.portUp 3 then some (3, 2) else none

/-- The payload of DISCOVER: origin, count, ASSIGN. -/
def discoverBytes (uid count : Nat) (assign : Bool) : List Byte := leBytes 8 uid ++ leBytes 1 count ++ leBytes 1 (b2n assign)

/-- Send DISCOVER on along the ring with the count of the next device. -/
def State.discoverOn (s : State) (uid count : Nat) (assign : Bool) : State :=
  match s.onward with
  | some (p, n) => s.sendLink p 0x11 (discoverBytes uid (count + n) assign)
  | none => s

/-- `DISCOVER_STABLE_TIMER`: the ports have been stable for 100 ms and no id is known: the device sends a probe (R326). -/
def execDiscoverStableTimer (s : State) : Host.Outcome State Fault Refusal :=
  if s.hasId || s.inGroup || (List.range 4).any (fun p => s.portUp p && (s.port p).hello &&
      s.rdi F.GRP_PORT_STATUS_PEER_ID p != 0xFF) then .next s
  else .next ((s.setGrp { s.grp with probeSent := true }).discoverOn s.uniqueId 0 false)

/-- A probe arrives: its own origin closes the ring with N equal to the count and assigns ids; a device with a lower
UNIQUE_ID drops it; another forwards it. -/
def State.takeProbe (s : State) (uid count : Nat) : State :=
  if uid = s.uniqueId then
    if !s.grp.probeSent || s.hasId then s
    else if 64 < count then (s.setGrp { s.grp with probeSent := false }).raise 8 0 0x00E count
    else ((s.setGrp { s.grp with ringSize := count, probeSent := false }).takeId 0).discoverOn uid 0 true
  else if s.uniqueId < uid then s
  else s.discoverOn uid count false

/-- An ASSIGN arrives: the device takes the count as its id and passes it on, until it is back at its origin. -/
def State.takeAssign (s : State) (uid count : Nat) : State :=
  if uid = s.uniqueId || s.hasId || 64 ≤ count then s else (s.takeId count).discoverOn uid count true

/-- The id that the ring implies for the neighbour on a port, or for this device from its neighbour's. -/
def impliedId (n base : Nat) (step : Int) : Option Nat :=
  let v := (base : Int) + step
  if n != 0 then some ((v % n).toNat) else if v < 0 || 64 ≤ v then none else some v.toNat

/-- A HELLO arrives (R307, R326, R327): a wrong port code or id disables the port; a device without record and id takes
its id from its neighbour's; the lead lets a device that holds an older epoch rejoin. -/
def State.takeHello (s : State) (p uid code id epoch group : Nat) : State :=
  let n := match s.grp.mrec with
    | some r => r.ring
    | none => s.grp.ringSize
  let wrongId := s.hasId && id != 0xFF && (match impliedId n s.myId (portStep p) with
    | some i => i != id
    | none => false)
  if code != peerPort p || wrongId then
    let s := (s.wri F.GRP_PORT_STATUS_STATE p 4).wr F.GRP_ERR_STATUS_WIRING 1
    (s.raise 8 p 0x004 (code + id * 2 ^ 8)).portsChanged
  else
    let s := (s.wri F.GRP_PORT_STATUS_PEER_ID p id).wri F.GRP_PORT_STATUS_PEER_PORT p code
    let s := s.setPort p { s.port p with hello := true }
    match s.grp.mrec with
    | some r =>
      if group != 0 && group != r.groupId then s.raise 8 s.myId 0x00E 0
      else if s.isLead && id < 64 && epoch < r.epoch && group = r.groupId && Store.get 0 r.uids id = uid &&
          (r.state id = 3 || r.state id = 4) then s.askChange none none (fun b => b)
      else s
    | none =>
      if !s.hasId && id != 0xFF then
        (match impliedId n id (-(portStep p)) with
         | some i => s.takeId i
         | none => s)
      else s

/-- A newer LINK_STATE updates the view, goes on to every other up port, and routes are computed anew (R320). -/
def State.takeLinkState (s : State) (p origin version ports : Nat) : State :=
  let v := Store.get { version := 0, ports := 0 } s.grp.views origin
  if (s.hasId && origin = s.myId) || version ≤ v.version || 64 ≤ origin then s
  else
    let s := s.setGrp { s.grp with views := Store.ins origin { version := version, ports := ports } s.grp.views }
    let s := ((List.range 4).filter (fun q => q != p)).foldl (fun s q =>
      s.sendLink q 0x12 (linkStateBytes origin version ports)) s
    s.reroute

/-! ## Epoch packets (R323, R324) -/

/-- The acknowledgement of an adopted record: an E2E_ACK on VC 0 with SEQ 0. -/
def ackBytes (vc seq : Nat) : List Byte := leBytes 1 vc ++ leBytes 3 0 ++ leBytes 4 seq

/-- An EPOCH arrives: a newer valid record is adopted; it and the one in force are acknowledged. A device takes no part in
a group other than its record's (R323, R327). -/
def State.takeEpoch (s : State) (src : Nat) (bytes : List Byte) : State :=
  match MemRec.ofBytes bytes with
  | none => s
  | some r =>
    if !s.grp.mrec.all (fun m => m.groupId = r.groupId) then s
    else if s.epoch < r.epoch then (s.adopt r).sendPlain src 0x1A (ackBytes 0 0)
    else if s.grp.mrec = some r then s.sendPlain src 0x1A (ackBytes 0 0)
    else s

/-- An EPOCH_REQ arrives: the record goes to who asked. -/
def State.takeEpochReq (s : State) (src : Nat) : State :=
  match s.grp.mrec with
  | some r => s.sendPlain src 0x15 r.bytes
  | none => s

/-- A REJECT arrives: a stale epoch sets STALE; a rejected SEQ_MIRROR ends its command (R317, R325). -/
def State.takeReject (s : State) (src reason seq type : Nat) : State :=
  let s := if reason = 1 then s.wr F.GRP_ERR_STATUS_STALE 1 else s
  if type = 6 then
    let k := triple src 0
    match (Store.get [] s.grp.unacked k).find? (fun e => e.packet.type = 6 && e.packet.seq = seq) with
    | some e =>
      let s := s.setGrp { s.grp with unacked := Store.modify [] s.grp.unacked k (fun l => dropFirst (fun x => x = e) l) }
      (match e.owner with
       | some o => s.epochStale o
       | none => s)
    | none => s
  else s

/-- A member acknowledges the record in force, or the one being written to it: it may be sent packets of the new epoch,
and what waited for that leaves. -/
def State.takeEpochAck (s : State) (src : Nat) : State :=
  match s.grp.change with
  | some c => if c.mrec.deputy = src && !c.copying then s.changeStored.activateJoined else s
  | none =>
    if !s.isLead || 64 ≤ src then s
    else
      let s := s.setGrp { s.grp with acked := setBit s.grp.acked src }
      let s := (List.range 3).foldl (fun s vc => s.resendTriple src vc) s
      s.activateJoined

end Sys2Proof.Machine
end

