-- ==== Sys2Proof/Machine/Objects.lean ====
section
/-!
DEFINITION. The object commands that change streams and the map: OPEN, APPEND, SEAL and DELETE, from their state checks
to their commit, and Tansy's part of a write (R31 to R40, R104 to R111, R114, R139, R143).
-/

namespace Sys2Proof.Machine

/-! ## Sequence and order (R36, R41, R488) -/

/-- The stream sequence table entry of a stream. -/
def State.entry (s : State) (st : Nat) : SeqEntry := Store.get SeqEntry.init s.obj.seqTab st

/-- How a sequence number compares with the entry: it is the next one, a replay, or a gap (R36). An entry whose
SEQ_UNKNOWN is 1 takes every command as new (R488). -/
inductive SeqCmp where
  | next | replay | gap
  deriving DecidableEq, Repr

def seqCompare (e : SeqEntry) (seq : Nat) : SeqCmp :=
  let d := (seq + 2 ^ 32 - e.lastSeq) % 2 ^ 32
  if e.unknown || d = 1 then .next else if d = 0 || 2 ^ 31 ≤ d then .replay else .gap

/-- A BARRIER admitted earlier holds a sequenced command (R41). -/
def State.barred (s : State) (c : Cmd) : Bool :=
  s.sq.cmds.any (fun b => b.frame.opcode = 0x20 && b.stage.isAdmitted && b.admitNo < c.admitNo)

/-- The admitted command of a source with an opcode, which its row may now execute. -/
def State.admittedCmd (s : State) (src : Src) (op : Nat) : Option Cmd :=
  match s.cmdOf src with
  | some c => if c.stage = .admitted && c.frame.opcode = op then some c else none
  | none => none

/-! ## The map (R107, R108, R114, R320) -/

/-- The object that a command finds under a key: one past a DELETE's commit point is found only by commands admitted
before it (R114). -/
def State.visible (s : State) (c : Cmd) (key : Nat) : Option Obj :=
  match s.obj.gone.find? (fun g => g.key = key && c.admitNo < g.mark) with
  | some g => some g.obj
  | none =>
    match s.obj.objs.find? (fun p => p.1 = key) with
    | none => none
    | some p => if s.obj.deleting.any (fun d => d.key = key && d.mark ≤ c.admitNo) then none else some p.2

/-- In a group the home member has to be asked for a key of which the lead knows nothing. -/
def State.unknownKey (s : State) (key : Nat) : Bool :=
  s.inGroup && s.homeOf key != s.myId && !s.obj.objs.any (fun p => p.1 = key) && !s.red.absent.contains key

/-- Ask the home member, once, and let the command wait (R320). -/
def State.askHome (s : State) (c : Cmd) (key : Nat) : State :=
  if c.waits = 8 then s
  else (s.setCmd { c with waits := 8 }).sendSeq (s.homeOf key) 7 (leBytes 1 1 ++ leBytes 16 key) none

/-! ## State checks (R104 step 4, Tables 05-9, 05-18) -/

/-- The state of a key slot, Table 05-20. -/
def State.keyState (s : State) (n : Nat) : Nat :=
  if !(Store.get KeySlot.init s.obj.keys n).loaded then 0
  else if s.obj.objs.any (fun p => p.2.kslot = n && p.2.state = 1) then 2 else 1

/-- The state code that the medium gives a command which needs it, none when it may proceed; `write` for commands that
write (Table 05-9). -/
def State.mediumCode (s : State) (write : Bool) : Option Nat :=
  if s.medium.state = mReady then (if write && s.tMode && s.tape.protect then some 0x09 else none)
  else if s.medium.state = mUnformatted then some 0x08 else some 0x07

/-- Members that the placement of a command needs: three for landing copies in D-mode, k + 2 for a stripe in T-mode. -/
def State.placementOk (s : State) : Bool :=
  if s.dMode then 3 ≤ s.landers.length else s.red.openK + 2 ≤ s.landers.length

/-- The checks of the medium and of placement for a command that writes; `delta` for one that carries a map delta only
(R33, R111, R118, R169). Answers the state that ends the command, or none. -/
def State.writeBlocked (s : State) (c : Cmd) (delta : Bool) : Option State :=
  if s.inGroup then (if s.placementOk then none else some (s.fail c stNoPlacement))
  else
    match s.mediumCode true with
    | some code => some (s.conflict c code 3 s.medium.state)
    | none =>
      if s.tMode then (if s.medium.writeFailed && c.frame.opcode != 0x12 then some (s.fail c stWriteFailed) else none)
      else if !s.degradedLanding then none
      else if !delta || (s.surfaces 0 ++ s.surfaces 1).length < 2 then some (s.conflict c 0x04 3 s.medium.state)
      else none

/-- The check of an object's key slot (R107, R113, R148): the state that ends the command, or none. -/
def State.keyBlocked (s : State) (c : Cmd) (kslot : Nat) (keyId : Option Nat) : Option State :=
  let k := Store.get KeySlot.init s.obj.keys kslot
  if !k.loaded then some (s.conflict c 0x0E 6 0)
  else
    match keyId with
    | some i => if k.keyId = i then none else some (s.conflict c 0x11 6 (s.keyState kslot))
    | none => none

/-! ## Start of a write (R31, R133, R139) -/

/-- Units that a command has just got go where the mode and the configuration place them: landing copies once all its units
are there, data sets or the stripe being gathered as they come. A medium without room for them, or without room in its map
area for a new entry, ends an OPEN or APPEND (R31, R111, R139). How many entries the map area holds is free (log 55). -/
def State.placeUnits (s : State) (uid : Nat) (ids : List Nat) : State :=
  match s.cmdByUid uid with
  | none => s
  | some c =>
    let data := c.frame.opcode = 0x01 || c.frame.opcode = 0x02
    if s.inGroup then (if s.dMode then (if c.encoded then s.placeGroup uid 64 else s) else s.gatherUnits ids)
    else if data && s.capacity < s.bytesTaken + 4096 * ids.length then (s.discardWork c).fail c stMediaFull
    else if c.frame.opcode = 0x01 && !Config.mapRoom s.obj.objs.length then (s.discardWork c).fail c stMapFull
    else if s.tMode then s.tapeTake ids
    else if c.encoded then s.startLanding c
    else s

/-- The entry that a command commits to the stream sequence table. -/
def State.nextEntry (s : State) (c : Cmd) : SeqEntry :=
  let e := s.entry c.src.stream
  { lastSeq := c.frame.seq
    gen := if c.frame.opcode = 0x01 then (if e.unknown then 1 else (e.gen + 1) % 65536) else e.gen
    state := if c.frame.opcode = 0x03 then 0 else 1
    unknown := false }

/-- A command that carries a map delta only: one MAP unit with STREAM, SEQ and GEN in its header; key, offset, length and
opcode lead its user field (R32, R33, R133, R153; the user field's layout is log 75). A DELETE has no stream sequence. -/
def State.startDelta (s : State) (c : Cmd) : State :=
  let f := c.frame
  let user := padTo 4096 (leBytes 16 f.key ++ leBytes 8 f.offset ++ leBytes 8 f.length ++ leBytes 1 f.opcode)
  let gen := if f.opcode = 0x12 then (s.entry c.src.stream).gen else (s.nextEntry c).gen
  let (s, id) := s.addUnit { UnitRec.blank with
    utype := 2, stream := c.src.stream, seq := f.seq, gen := gen, user := user, tag := crc64 user }
  let s := { s with obj := { s.obj with gatherFree := s.obj.gatherFree - 1 } }
  (s.setCmd { c with stage := .started, waits := 0, units := [id], encoded := true }).placeUnits c.uid [id]

/-- A command that carries data starts: its DMA reads are issued (R61). -/
def State.startData (s : State) (c : Cmd) : State := (s.setCmd { c with stage := .started, waits := 0 }).askAll

/-- A reservation of nonces has not been acknowledged by the deputy (R147). -/
def State.noncePending (s : State) : Bool :=
  s.grp.unacked.any (fun e => e.2.any (fun x => x.packet.type = 6 && leAt x.packet.payload 0 4 = 2 ^ 20))

/-- The OBJ_NONCE of an OPEN is drawn as it starts. In solo the next batch is reserved in MRAM at once; in a group the lead
reserves it in its own MRAM and in the deputy's, and the OPEN waits until both hold it. The mirror of a reservation names
stream 2^20, which no stream has (R147; log 75). -/
def State.takeNonce (s : State) (c : Cmd) : State × Option Cmd :=
  if c.frame.opcode != 0x01 then (s, some c)
  else if !s.inGroup || (s.obj.nonce < s.obj.nonceEnd && !s.noncePending) then
    let (s, n) := s.drawNonce
    (s, some { c with nonce := n })
  else if s.noncePending then (s, none)
  else
    match s.grp.mrec with
    | none => (s, none)
    | some r =>
      if 64 ≤ r.deputy || s.grp.copyTo.isSome then (s, none)
      else
        let s := { s with obj := { s.obj with nonceEnd := s.obj.nonce + 65536 } }
        (s.sendSeq r.deputy 6 (leBytes 4 (2 ^ 20) ++ leBytes 8 s.obj.nonceEnd) none, none)

/-- A sequenced command whose checks have passed is applied, unless a BARRIER admitted before it is open: it then waits,
admitted, for the BARRIER's end (R41, R104). -/
def State.apply (s : State) (c : Cmd) (delta : Bool) : State :=
  if s.barred c then s
  else
    match s.takeNonce c with
    | (s, none) => s
    | (s, some c) => if delta then s.startDelta c else s.startData c

/-! ## Tansy's part of a write (R17, R139, R143, R149) -/

/-- What Tansy needs to encode a command's record: for an OPEN the key slot of its PARAM, for an APPEND that of its object
(R143 to R147). -/
def State.recordOf (s : State) (c : Cmd) : RecordParams :=
  let f := c.frame
  let st := c.src.stream
  let gen := (s.nextEntry c).gen
  let mat := fun k => (Store.get KeySlot.init s.obj.keys k).material
  if f.opcode = 0x01 then
    { stream := st, seq := f.seq, gen := gen, key := f.key, offset := 0, length := f.length, firstUnit := 0
      nonce := c.nonce, nocomp := bitAt f.offset 8, material := mat (bits f.offset 0 8), fresh := true }
  else
    match s.obj.objs.find? (fun p => p.1 = f.key) with
    | some (_, o) =>
      { stream := st, seq := f.seq, gen := gen, key := f.key, offset := f.offset, length := f.length
        firstUnit := o.units.length, nonce := o.nonce, nocomp := o.nocomp, material := mat o.kslot
        fresh := o.units.isEmpty }
    | none =>
      { stream := st, seq := f.seq, gen := gen, key := f.key, offset := f.offset, length := f.length, firstUnit := 0
        nonce := 0, nocomp := true, material := [], fresh := true }

/-- A record whose data has begun to come takes one of the 16 compression engines. Its stream's context is restored, or one
is assigned; an object without compression leaves its stream none (Table 06-5, R149). -/
def State.takeEngine (s : State) (c : Cmd) : State :=
  if c.stage != .started || !c.viaIngest || c.encoded || c.pack.isSome || c.data.isEmpty ||
      16 ≤ s.sq.cmds.countP Cmd.compresses then s
  else
    let r := s.recordOf c
    if r.nocomp then (s.freeCtx r.stream).setCmd { c with pack := some (Packing.start none) }
    else
      match (if r.fresh then none else s.ctxOf r.stream) with
      | some x => s.setCmd { c with pack := some (Packing.start (some x)) }
      | none => (s.assignCtx r.stream).setCmd { c with pack := some (Packing.start none) }

/-- The engine of a record takes what stands whole in the ingest FIFO; while finished units wait for gather space it takes
nothing further (R139). -/
def State.takeBlocks (s : State) (c : Cmd) (r : RecordParams) (p : Packing) : State × Cmd × Packing :=
  if c.units.length < p.done.length then (s, c, p)
  else
    let (q, n) := s.packData r c.data c.taken p
    let s := s.addi F.TNS_RAW_BLOCKS_COUNT 0 (q.raws - p.raws)
    let s := s.add64 F.TNS_IN_BYTES_LO_COUNT F.TNS_IN_BYTES_HI_COUNT (n - c.taken)
    (s, { c with pack := some q, taken := n, fifo := 0 }, q)

/-- Finished units are encrypted and leave for the formatter one by one, as far as the gather buffer has space
(R17, R139). -/
def State.releaseUnits (s : State) (c : Cmd) (r : RecordParams) (p : Packing) : State :=
  let fin := decide (r.length ≤ c.taken)
  let want := p.done.length - c.units.length
  let n := Nat.min want s.obj.gatherFree
  let (s, ids) := State.sealUnits r p fin n c.units.length s
  let s := s.add64 F.TNS_OUT_BYTES_LO_COUNT F.TNS_OUT_BYTES_HI_COUNT (4096 * n)
  let s := { s with obj := { s.obj with gatherFree := s.obj.gatherFree - n } }
  let c := { c with units := c.units ++ ids, encoded := fin && n = want, waits := if n < want then 3 else 0 }
  let s := (s.setCmd c).syncIngest
  if ids.isEmpty && !c.encoded then s else s.placeUnits c.uid ids

/-- Tansy goes on with a command's record as far as data and gather space allow. A host tag that does not match ends the
command with INTEGRITY (R17, R139). -/
def State.encode (s : State) (c : Cmd) : State :=
  if c.stage != .started || c.encoded then s
  else
    match c.pack with
    | none => s
    | some p =>
      let r := s.recordOf c
      if c.tags != hostTags r.offset c.data then
        ((s.wr F.TNS_ERR_STATUS_HOST_TAG 1).discardWork c).fail c stIntegrity
      else
        let (s, c, p) := s.takeBlocks c r p
        s.releaseUnits c r p

/-- Each record takes an engine and goes on, in the order of the commands; freed entries of the ingest FIFO let further
reads start (R61, R139). -/
def State.tansyStep (s : State) : State :=
  let s := s.sq.cmds.foldl (fun (s : State) (c : Cmd) =>
    match s.cmdByUid c.uid with
    | some d =>
      let s := s.takeEngine d
      (match s.cmdByUid c.uid with
       | some d => s.encode d
       | none => s)
    | none => s) s
  s.syncIngest.askAll

/-! ## OPEN, APPEND, SEAL (R107, R109, R110) -/

/-- Step 3 of R104, which every sequenced command shares; `go` is the rest. -/
def State.sequenced (s : State) (src : Src) (op : Nat) (go : State → Cmd → SeqEntry → State) : State :=
  match s.admittedCmd src op with
  | none => s
  | some c =>
    let e := s.entry src.stream
    match seqCompare e c.frame.seq with
    | .replay => s.finishWith c stSuccess 0 0 true
    | .gap => s.fail c stSeqGap
    | .next => go s c e

/-- OPEN from its state check on (R107, Table 05-18). A DELETE of the key past its commit point is waited for (R108). -/
def State.openGo (s : State) (c : Cmd) (e : SeqEntry) : State :=
  let key := c.frame.key
  if e.state = 1 then s.conflict c 0x02 1 1
  else if s.unknownKey key then s.askHome c key
  else if s.obj.deleting.any (fun d => d.key = key) then s.setCmd { c with waits := 4 }
  else
    match s.obj.objs.find? (fun p => p.1 = key) with
    | some p => s.conflict c 0x05 2 p.2.state
    | none =>
      match s.keyBlocked c (bits c.frame.offset 0 8) none with
      | some s => s
      | none =>
        match s.writeBlocked c false with
        | some s => s
        | none => s.apply c (c.frame.length = 0)

/-- `OPEN` (R107). -/
def execOpenCmd (src : Src) (s : State) : Host.Outcome State Fault Refusal :=
  .next (s.sequenced src 0x01 State.openGo)

/-- The object bound to a stream. -/
def State.boundObj (s : State) (st : Nat) : Option (Nat × Obj) :=
  s.obj.objs.find? (fun p => p.1 = Store.get 0 s.obj.bound st && p.2.stream = st && p.2.state = 1)

/-- APPEND from its state check on (R109, R148). -/
def State.appendGo (s : State) (c : Cmd) (e : SeqEntry) : State :=
  let f := c.frame
  if e.state != 1 then s.conflict c (if e.state = 2 then 0x03 else 0x01) 1 e.state
  else
    match s.boundObj c.src.stream with
    | none =>
      let key := Store.get 0 s.obj.bound c.src.stream
      if s.unknownKey key then s.askHome c key
      else if s.mapsAwaited then s else s.fail c stWrongKey
    | some (key, o) =>
      if f.key != key then s.fail c stWrongKey
      else if f.offset != o.length then s.fail c stBadOffset
      else if 2 ^ 52 ≤ o.length + f.length then s.fail c stLengthRange
      else
        match s.keyBlocked c o.kslot (some o.keyId) with
        | some s => s
        | none =>
          match s.writeBlocked c false with
          | some s => s
          | none => s.apply c false

/-- `APPEND` (R109). -/
def execAppendCmd (src : Src) (s : State) : Host.Outcome State Fault Refusal :=
  .next (s.sequenced src 0x02 State.appendGo)

/-- SEAL from its state check on (R110). -/
def State.sealGo (s : State) (c : Cmd) (e : SeqEntry) : State :=
  let f := c.frame
  if e.state != 1 then s.conflict c (if e.state = 2 then 0x03 else 0x01) 1 e.state
  else
    match s.boundObj c.src.stream with
    | none =>
      let key := Store.get 0 s.obj.bound c.src.stream
      if s.unknownKey key then s.askHome c key
      else if s.mapsAwaited then s else s.fail c stWrongKey
    | some (key, o) =>
      if f.key != key then s.fail c stWrongKey
      else
        match s.writeBlocked c true with
        | some s => s
        | none => if bitAt f.flags 0 && f.offset != o.crcRun then s.fail c stCrcMismatch else s.apply c true

/-- `SEAL` (R110). -/
def execSealCmd (src : Src) (s : State) : Host.Outcome State Fault Refusal :=
  .next (s.sequenced src 0x03 State.sealGo)

/-! ## DELETE (R114) -/

/-- `DELETE`: an absent key completes with RESULT 0, an OPEN object conflicts; else the write of the map delta begins, and
from here on the command is past its commit point (R114). -/
def execDeleteCmd (src : Src) (s : State) : Host.Outcome State Fault Refusal :=
  match s.admittedCmd src 0x12 with
  | none => .next s
  | some c =>
    let key := c.frame.key
    if s.unknownKey key then .next (s.askHome c key)
    else
      match (if s.obj.deleting.any (fun d => d.key = key) then none else s.obj.objs.find? (fun p => p.1 = key)) with
      | none => .next (s.finish c stSuccess 0 0)
      | some (_, o) =>
        if o.state = 1 then .next (s.conflict c 0x06 2 1)
        else
          match s.writeBlocked c true with
          | some s => .next s
          | none =>
            let s : State := { s with obj := { s.obj with deleting := s.obj.deleting ++
              [DelRec.mk key src s.sq.nextAdmit] } }
            .next (s.startDelta c)

/-- Units that no map entry names any more leave: their space is free (R114). -/
def State.freeUnits (s : State) (ids : List Nat) : State :=
  let mine := fun u => ids.contains u
  let s := s.releaseLanding (fun p => mine p.unit)
  { s with
    obj := { s.obj with units := s.obj.units.filter (fun p => !mine p.1) }
    disk := { s.disk with destage := s.disk.destage.filter (fun u => !mine u) }
    red := { s.red with gather := s.red.gather.filter (fun u => !mine u) } }

/-- Deleted objects whose last GET has ended give up their space (R114). -/
def State.sweepGone (s : State) : State :=
  let used := fun (g : GoneObj) => s.sq.cmds.any (fun c => c.frame.opcode = 0x10 && c.frame.key = g.key &&
    c.stage.isAdmitted && c.admitNo < g.mark)
  let free := s.obj.gone.filter (fun g => !used g)
  let s := { s with obj := { s.obj with gone := s.obj.gone.filter used } }
  free.foldl (fun s g => s.freeUnits g.obj.units) s

/-! ## Acceptance and commit (R31, R35, R107 to R110) -/

/-- All data and unit metadata of a command satisfy Table 02-1. -/
def State.accepted (s : State) (c : Cmd) : Bool :=
  c.stage = .started && c.encoded &&
    (if s.inGroup then
      (if s.dMode then c.landedGroup
       else c.units.all (fun u => match (s.unit u).place with
         | .stripe st _ _ => (s.stripe st).isNone
         | _ => false))
     else if s.tMode then c.units.all (fun u => match (s.unit u).place with
       | .tape _ _ _ => true
       | _ => false)
     else c.landed)

/-- The position of a unit in a surface's ring. -/
def State.ringPos (s : State) (h u : Nat) : Nat :=
  (((s.ring h).held.find? (fun p => p.unit = u && !p.released)).map (fun p => p.pos)).getD 0

/-- At the commit the map points at where the data lies: a landing copy in D-mode, from which it is then destaged or
gathered in commit order; with both copies on one actuator ahead of other data (R39, R205, R221, R350, R352). -/
def State.settleUnits (s : State) (c : Cmd) : State :=
  if s.tMode then s
  else
    let s := { s with obj := { s.obj with gatherFree := s.obj.gatherFree + c.units.length } }
    match c.copies with
    | [] => s
    | l :: t =>
      if s.inGroup then
        let s := (List.range c.units.length).foldl (fun s i =>
          let u := (c.units[i]?).getD 0
          s.setUnit u { s.unit u with place := .landing l.place i }) s
        let ms := ((l :: t).filter (fun x => x.written)).map (fun x => x.place - 64)
        let s := s.setRed { s.red with landed := s.red.landed ++ [(c.src.stream, c.frame.seq, ms)] }
        s.gatherUnits c.units
      else
        let s := c.units.foldl (fun s u => s.setUnit u { s.unit u with place := .landing l.place (s.ringPos l.place u) }) s
        let one := t.all (fun x => s.actOf x.place = s.actOf l.place)
        s.setDisk { s.disk with destage := if one then c.units ++ s.disk.destage else s.disk.destage ++ c.units }

/-- The restart points of a command's record with unit numbers of the object, whose record begins with unit `first`. -/
def Cmd.restarts (c : Cmd) (first : Nat) : List (Nat × Nat) :=
  ((c.pack.map (fun p => p.restarts)).getD []).map (fun x => (x.1, first + x.2))

/-- The object that an OPEN creates. -/
def State.newObj (s : State) (c : Cmd) : Obj :=
  let k := bits c.frame.offset 0 8
  { state := 1, length := c.frame.length, kslot := k, keyId := (Store.get KeySlot.init s.obj.keys k).keyId
    nocomp := bitAt c.frame.offset 8, nonce := c.nonce, crc := 0, crcRun := crc64 c.data, stream := c.src.stream
    gen := (s.nextEntry c).gen, seq := c.frame.seq, units := if c.frame.length = 0 then [] else c.units
    restarts := c.restarts 0, lost := [] }

/-- An object with a committed APPEND. -/
def Obj.appended (o : Obj) (c : Cmd) : Obj :=
  { o with length := o.length + c.frame.length, units := o.units ++ c.units, seq := c.frame.seq
           restarts := o.restarts ++ c.restarts o.units.length
           crcRun := crc64From o.crcRun c.data }

/-- An object with a committed SEAL. -/
def Obj.sealed (o : Obj) (c : Cmd) : Obj := { o with state := 2, crc := o.crcRun, seq := c.frame.seq }

/-- An OPEN on an UNVERIFIED stream abandons the stream's previous object when it is OPEN; its home member learns it
(R107, R320). -/
def State.abandonPrev (s : State) (st : Nat) : State :=
  let key := Store.get 0 s.obj.bound st
  if (s.entry st).state = 2 && s.obj.objs.any (fun p => p.1 = key && p.2.stream = st && p.2.state = 1) then
    let objs : Store Obj := s.obj.objs.map (fun p => if p.1 = key then (p.1, { p.2 with state := 3 }) else p)
    let s : State := { s with obj := { s.obj with objs := objs } }
    if s.inGroup then s.tellHome 3 key none 0 else s
  else s

/-- The context of a committed record is saved; a record of no bytes, and a SEAL, leave the stream none (Table 06-5,
R133). -/
def State.commitCtx (s : State) (c : Cmd) : State :=
  if c.frame.opcode = 0x03 || c.frame.length = 0 then s.freeCtx c.src.stream
  else
    match c.pack with
    | some p => s.saveCtx c.src.stream p
    | none => s

/-- The unit of a committed map delta that no object names stays (R32, R34). -/
def State.keepDelta (s : State) (c : Cmd) : State :=
  if c.frame.opcode = 0x03 || c.frame.opcode = 0x12 || c.frame.length = 0 then
    { s with obj := { s.obj with deltas := s.obj.deltas ++ c.units } }
  else s

/-- Bytes accepted from hosts (Table 05-13). -/
def State.countAccepted (s : State) (c : Cmd) : State := s.lifeAdd 32 c.frame.length

/-- The commit of a sequenced command: its entry is written, its effects are taken, and its completion is posted
(R35, R39, R107 to R110). Of two OPENs of one key the one that comes second conflicts (R108). -/
def State.commit (s : State) (c : Cmd) : State :=
  let st := c.src.stream
  let key := c.frame.key
  let e := s.nextEntry c
  let write := fun (s : State) (o : Obj) (bound : Nat) =>
    { s with obj := { s.obj with objs := Store.ins key o s.obj.objs
                                 seqTab := Store.put SeqEntry.init s.obj.seqTab st e
                                 bound := Store.put 0 s.obj.bound st bound } }
  if c.frame.opcode = 0x01 then
    match s.obj.objs.find? (fun p => p.1 = key) with
    | some p => (s.discardWork c).conflict c 0x05 2 p.2.state
    | none =>
      let s := write (s.abandonPrev st) (s.newObj c) key
      ((((s.settleUnits c).commitCtx c).keepDelta c).countAccepted c).finish c stSuccess e.gen 0
  else
    match s.obj.objs.find? (fun p => p.1 = key) with
    | none => (s.discardWork c).fail c stWrongKey
    | some (_, o) =>
      if c.frame.opcode = 0x02 then
        let o := o.appended c
        (((write s o key).settleUnits c |>.commitCtx c).countAccepted c).finish c stSuccess o.length 0
      else
        let o := o.sealed c
        (((write s o 0).settleUnits c |>.commitCtx c).keepDelta c).finish c stSuccess o.length o.crc

/-- A DELETE's map delta is durable: the entry is gone, and the object's space once no earlier GET reads it (R114). -/
def State.commitDelete (s : State) (c : Cmd) : State :=
  let key := c.frame.key
  match s.obj.deleting.find? (fun d => d.key = key && d.src = c.src) with
  | none => s
  | some d =>
    let old := s.obj.objs.filter (fun p => p.1 = key)
    let s : State := { s with obj := { s.obj with
      deleting := s.obj.deleting.filter (fun x => x != d)
      objs := s.obj.objs.filter (fun p => p.1 != key)
      gone := s.obj.gone ++ old.map (fun p => GoneObj.mk key p.2 d.mark) } }
    (((s.settleUnits c).keepDelta c).finish c stSuccess 1 0).sweepGone

/-- A packet that serves a command waits for its acknowledgement. -/
def State.ownedPending (s : State) (src : Src) : Bool :=
  s.grp.unacked.any (fun e => e.2.any (fun x => x.owner = some src))

/-- Of OPENs of one key the first whose insert goes to the home member proceeds; a later one finds the key taken
(R108, R320; log 76). -/
def State.keyTaken (s : State) (c : Cmd) : Option Nat :=
  match s.obj.objs.find? (fun p => p.1 = c.frame.key) with
  | some p => some p.2.state
  | none =>
    if s.sq.cmds.any (fun d => d.uid != c.uid && d.frame.opcode = 0x01 && d.frame.key = c.frame.key &&
        d.stage = .started && (d.waits = 8 || d.waits = 13)) then some 1 else none

/-- In a group an accepted command first has its map change recorded by the key's home member: an insert or update as a
proposal, with the stream sequence by which R32 tells whether it has committed (R35, R108, R320). -/
def State.groupCommit (s : State) (c : Cmd) : State :=
  let key := c.frame.key
  match (if c.frame.opcode = 0x01 then s.keyTaken c else none) with
  | some st => (s.discardWork c).conflict c 0x05 2 st
  | none =>
    let s := s.setCmd { c with waits := 8 }
    let h := s.homeOf key
    let o : Option Obj := if c.frame.opcode = 0x01 then some (s.newObj c)
      else (s.obj.objs.find? (fun p => p.1 = key)).map (fun p =>
        if c.frame.opcode = 0x02 then p.2.appended c else p.2.sealed c)
    if h = s.myId then s
    else if c.frame.opcode = 0x12 then s.sendSeq h 7 (leBytes 1 4 ++ leBytes 16 key) (some c.src)
    else
      match o with
      | some o => (s.mapPackets (if c.frame.opcode = 0x01 then 2 else 3) key o true).foldl (fun s b =>
          s.sendSeq h 7 b (some c.src)) s
      | none => s

/-- The home member has recorded the change: the entry goes to the deputy's MRAM; while no deputy stands ready the command
waits (R35, R332). -/
def State.mirrorCommit (s : State) (c : Cmd) : State :=
  match s.grp.mrec with
  | none => s
  | some r =>
    if 64 ≤ r.deputy || s.grp.copyTo.isSome then s
    else (s.setCmd { c with waits := 13 }).mirrorSeq r.deputy c.src.stream (s.nextEntry c) (some c.src)

/-- The end of a write whose acceptance point has been reached. -/
def State.commitNow (s : State) (c : Cmd) : State :=
  if c.frame.opcode = 0x12 then s.commitDelete c else s.commit c

/-- A group command goes on once what it sent has been acknowledged: after the home member's record the deputy's mirror,
after that the commit, which the home member learns (R35, R320). -/
def State.commitGo (s : State) (d : Cmd) : State :=
  if d.stage != .started || !([0x01, 0x02, 0x03, 0x12].contains d.frame.opcode) || !s.accepted d || s.ownedPending d.src
  then s
  else if d.waits = 8 && d.frame.opcode != 0x12 then s.mirrorCommit d
  else if d.waits = 8 then s.commitNow d
  else if d.waits = 13 then (s.commitNow d).confirmHome d.frame.key
  else s

/-- The group commands that can go on do so. -/
def State.commitReady (s : State) : State :=
  s.sq.cmds.foldl (fun s c =>
    match s.cmdByUid c.uid with
    | some d => s.commitGo d
    | none => s) s

/-- `ACCEPTANCE_POINT_REACHED`: the condition of Table 02-1 holds for all that the command carries: it commits (R31,
R35). A DELETE's delta meets the same condition (R114). -/
def execAcceptancePointReached (src : Src) (s : State) : Host.Outcome State Fault Refusal :=
  match s.cmdOf src with
  | none => .next s
  | some c =>
    if !([0x01, 0x02, 0x03, 0x12].contains c.frame.opcode) || !s.accepted c || c.waits = 8 || c.waits = 13 then .next s
    else if s.inGroup then .next (s.groupCommit c).commitReady
    else .next (s.commitNow c)

/-! ## Host data (R61) and Tansy's waits (R139, R17) -/

/-- `TANSY_RESUME`: gather buffer space has freed and Tansy goes on with a record; a host tag that fails ends the
command with INTEGRITY (R17, R139). -/
def execTansyResume (src : Src) (hostTagsOk : Bool) (s : State) : Host.Outcome State Fault Refusal :=
  match s.cmdOf src with
  | none => .next s
  | some c =>
    if c.stage != .started || !c.viaIngest || c.encoded then .next s
    else if !hostTagsOk then .next ((s.wr F.TNS_ERR_STATUS_HOST_TAG 1).discardWork c |>.fail c stIntegrity)
    else .next (s.encode { c with waits := 0 })

end Sys2Proof.Machine
end

