-- ==== Sys2Proof/Machine/Queries.lean ====
section
/-!
DEFINITION. The queries and the control of commands: GET, STAT, LIST, BARRIER, FLUSH and ABORT, and the health record
and the log (R41, R96 to R98, R112 to R116, R126, R127, R140 to R142).
-/

namespace Sys2Proof.Machine

/-! ## Reaching the map and the medium (Table 05-9) -/

/-- What a command that may reach the medium does: goes on, waits for READY, or stops with a state code. -/
inductive Reach where
  | go | wait | stop (code : Nat)
  deriving DecidableEq, Repr

/-- A command served from HBM proceeds in every medium state; another one as Table 05-9 states, in solo. -/
def State.reach (s : State) (served : Bool) : Reach :=
  if served || s.inGroup || s.medium.state = mReady then .go
  else if s.medium.state = mStarting then .wait
  else .stop (if s.medium.state = mUnformatted then 0x08 else 0x07)

/-- Go on with a command as far as the medium lets it. -/
def State.withMedium (s : State) (c : Cmd) (served : Bool) (go : State → State) : State :=
  match s.reach served with
  | .go => go s
  | .wait => s.setCmd { c with waits := 1 }
  | .stop code => s.conflict c code 3 s.medium.state

/-- A map lookup, served from the map cache or not (Table 05-17). -/
def State.lookup (s : State) (hit : Bool) : State :=
  if hit then s.inc F.OMAP_CACHE_HIT_COUNT else s.inc F.OMAP_CACHE_MISS_COUNT

/-! ## STAT (R112) -/

/-- RESULT and AUX of a STAT of an object. -/
def Obj.stat (o : Obj) : Nat × Nat :=
  (o.length + o.state * 2 ^ 56 + b2n (!o.lost.isEmpty) * 2 ^ 60, if o.state = 2 then o.crc else 0)

/-- RESULT and AUX of a STAT of a stream. -/
def State.statStream (s : State) (st : Nat) : Nat × Nat :=
  let e := s.entry st
  (e.lastSeq + e.gen * 2 ^ 32 + e.state * 2 ^ 48 + b2n e.unknown * 2 ^ 56,
   if e.state = 0 then 0 else Store.get 0 s.obj.bound st % 2 ^ 64)

/-- STAT of an object, once the map can be read. -/
def State.statGo (s : State) (c : Cmd) (hit : Bool) : State :=
  if s.unknownKey c.frame.key then s.askHome c c.frame.key
  else
    match (s.lookup hit).visible c c.frame.key with
    | none => (s.lookup hit).fail c stNotFound
    | some o => (s.lookup hit).finish c stSuccess o.stat.1 o.stat.2

/-- `STAT`; `hit` says that the map entry stands in the HBM map cache (R112). -/
def execStatCmd (src : Src) (hit : Bool) (s : State) : Host.Outcome State Fault Refusal :=
  match s.admittedCmd src 0x11 with
  | none => .next s
  | some c =>
    if bitAt c.frame.flags 0 then
      .next (s.finish c stSuccess (s.statStream c.frame.stream).1 (s.statStream c.frame.stream).2)
    else .next (s.withMedium c hit (fun s => s.statGo c hit))

/-! ## Data to the host (R75) -/

/-- Cut data to the pieces of a buffer list and write each. -/
def State.scatter (s : State) (port : Bool) : List (Nat × Nat) → List Byte → State
  | [], _ => s
  | (a, n) :: t, l => if l.isEmpty then s else (s.emit (.dmaWrite port a (l.take n))).scatter port t (l.drop n)

/-- Deliver bytes of a command at an offset of its buffers in R75 order. -/
def State.deliver (s : State) (c : Cmd) (off : Nat) (l : List Byte) : State :=
  s.scatter c.port (takeBytes l.length (dropBytes off c.bufs)) l

/-! ## GET (R113, R140 to R142) -/

/-- The restart point of the greatest object offset at or below `a`. -/
def Obj.restartFor (o : Obj) (a : Nat) : Nat × Nat :=
  (o.restarts.filter (fun p => p.1 ≤ a)).foldl (fun m p => if m.1 ≤ p.1 then p else m) (0, 0)

/-- The end of the lost range that holds an offset. -/
def Obj.lostAt (o : Obj) (a : Nat) : Option Nat :=
  match (o.lost.filter (fun r => r.1 ≤ a && a < r.1 + r.2)).map (fun r => r.1 + r.2) with
  | [] => none
  | e :: t => some (t.foldl Nat.max e)

/-- Where the next lost range begins, or `stop`. -/
def Obj.soundTo (o : Obj) (a stop : Nat) : Nat :=
  ((o.lost.filter (fun r => a < r.1)).map (fun r => r.1)).foldl Nat.min stop

/-- What reading a span gives: its bytes, or the unit that has to be fetched first, or what stops it. -/
inductive SpanRead where
  | got (bytes : List Byte) | need (unit : Nat) | lost | poison | badTag | badForm
  deriving DecidableEq, Repr

/-- What keeps a unit from being decoded (R14, R17). -/
def State.unitStop (s : State) (id : Nat) : Option SpanRead :=
  let u := s.unit id
  if u.lost then some .lost
  else if u.user.isEmpty then some (.need id)
  else if u.poison then some .poison
  else if crc64 u.user != u.tag then some .badTag
  else none

/-- Decode forward from a restart point over the units from it on, as many as it takes, up to `stop` (R140, R142). -/
def State.readFrom (s : State) (o : Obj) (material : List Byte) (r : Nat × Nat) (a stop : Nat) : Nat → Nat → SpanRead
  | 0, _ => .badForm
  | fuel + 1, m =>
    let ids := (o.units.drop r.2).take m
    match ids.findSome? s.unitStop with
    | some x => x
    | none =>
      match decodeFrom (ids.map (fun u => (s.unit u).plain material)) r.1 stop with
      | (l, .ok) => .got (l.drop (a - r.1))
      | (_, .short) => if r.2 + m < o.units.length then s.readFrom o material r a stop fuel (m + 1) else .badForm
      | (_, .bad) => .badForm

/-- The tape data sets, by their keys, that hold units. -/
def State.tapeSets (s : State) (ids : List Nat) : List Nat :=
  (ids.filterMap (fun u => match (s.unit u).place with
    | .tape p ds _ => some (ds + p * 2 ^ 32)
    | _ => none)).eraseDups

/-- The units that a GET decodes to reach `stop` from `a` on: from the restart point before `a` to the one at or after
`stop`. -/
def Obj.unitsFor (o : Obj) (a stop : Nat) : List Nat :=
  let first := (o.restartFor a).2
  let last := ((o.restarts.filter (fun r => stop ≤ r.1)).map (fun r => r.2)).foldl Nat.min o.units.length
  (o.units.take last).drop first

/-- The first data set that a GET from the medium needs and that has not been read ahead (R118, R187). -/
def State.tapeNeed (s : State) (c : Cmd) (o : Obj) (a stop : Nat) : Option Nat :=
  if !c.fromMedium || !s.tMode then none
  else (s.tapeSets (o.unitsFor a stop)).find? (fun k => !s.tape.readAhead.contains k)

/-- A GET has gone through its whole range: the CRC-64 of a full-object GET is checked against that of the object as it
stood when the GET began, lost data is reported (R40, R113, R140). -/
def State.getEnd (s : State) (c : Cmd) (o : Obj) : State :=
  let s := s.consumeSets (s.tapeSets o.units)
  match c.missing with
  | some a => (s.finish c stObjectLost c.res a).sweepGone
  | none =>
    match c.check with
    | some k => if c.crc != k then (s.fail c stObjectCrc).sweepGone else (s.finish c stSuccess c.res c.aux).sweepGone
    | none => (s.finish c stSuccess c.res c.aux).sweepGone

/-- A GET goes on: it passes over lost ranges and delivers what decodes, while the way to the host has room (R140,
R141). -/
def State.getRun : Nat → State → Nat → Nat → State
  | 0, s, _, _ => s
  | fuel + 1, s, uid, room =>
    match s.cmdByUid uid with
    | none => s
    | some c =>
      match s.visible c c.frame.key with
      | none => (s.fail c stNotFound).sweepGone
      | some o =>
        let n := Nat.min c.frame.length (c.aux - c.frame.offset)
        let a := c.frame.offset + c.prog
        if n ≤ c.prog then s.getEnd c o
        else
          match o.lostAt a with
          | some e =>
            let c := { c with prog := Nat.min n (e - c.frame.offset), missing := some (c.missing.getD a) }
            State.getRun fuel (s.setCmd c) uid room
          | none =>
            if room = 0 then s.setCmd { c with waits := 10 }
            else
              let stop := Nat.min (o.soundTo a (c.frame.offset + n)) (a + room)
              match s.tapeNeed c o a stop with
              | some k => (s.setCmd { c with waits := 11 }).seekSet (k / 2 ^ 32) (k % 2 ^ 32)
              | none =>
              match s.readFrom o ((s.keyFor o).getD []) (o.restartFor a) a stop (o.units.length + 1) 1 with
              | .got l =>
                let s := (s.deliver c c.prog l).lifeAdd 40 l.length
                let c := { c with
                  prog := stop - c.frame.offset, res := c.res + l.length, crc := crc64From c.crc l
                  tags := c.tags ++ hostTags a l }
                State.getRun fuel (s.setCmd c) uid (room - l.length)
              | .need u => (s.setCmd { c with waits := 8 }).fetchUnit u
              | .lost =>
                let c := { c with prog := stop - c.frame.offset, missing := some (c.missing.getD a) }
                State.getRun fuel (s.setCmd c) uid room
              | .poison => (s.fail c stIntegrity).sweepGone
              | .badTag => ((s.wr F.TNS_ERR_STATUS_MEDIA_TAG 1).fail c stIntegrity).sweepGone
              | .badForm =>
                (((s.inc F.TNS_FMT_ERR_COUNT).wr F.TNS_ERR_STATUS_FORMAT 1).fail c stIntegrity).sweepGone

/-- The steps a GET can take at most in one run. -/
def State.getFuel (s : State) (c : Cmd) : Nat :=
  2 * ((s.visible c c.frame.key).map (fun o => o.lost.length)).getD 0 + 4

/-- GET from its state check on; while all 8 decompression engines are taken it waits (R113, R149). -/
def State.getGo (s : State) (c : Cmd) (hit held : Bool) (room : Nat) : State :=
  if s.unknownKey c.frame.key then s.askHome c c.frame.key
  else
    let s := s.lookup hit
    match s.visible c c.frame.key with
    | none => s.fail c stNotFound
    | some o =>
      match s.keyBlocked c o.kslot (some o.keyId) with
      | some s => s
      | none =>
        if o.length < c.frame.offset then s.fail c stBadOffset
        else
          let n := Nat.min c.frame.length (o.length - c.frame.offset)
          let full := o.state = 2 && c.frame.offset = 0 && o.length ≤ c.frame.length
          let c' := { c with stage := .started, waits := 0, aux := o.length, check := if full then some o.crc else none
                             fromMedium := !held }
          if 8 ≤ s.sq.cmds.countP Cmd.decompresses then s.setCmd { c with waits := 12 }
          else s.withMedium c (held || n = 0) (fun s => State.getRun (s.getFuel c) (s.setCmd c') c.uid room)

/-- `GET`: `hit` says that the map entry stands in the HBM map cache, `held` that the data stands in HBM, `room` how many
bytes the way to the host takes now (R113, R140; Table 05-9). -/
def execGetCmd (src : Src) (hit held : Bool) (room : BitVec 32) (s : State) : Host.Outcome State Fault Refusal :=
  match s.admittedCmd src 0x10 with
  | none => .next s
  | some c => .next (s.withMedium c hit (fun s => s.getGo c hit held room.toNat))

/-- `DECOMPRESS_RESUME`: space toward HIF frees, or units that a GET waited for have come, and the decompressor goes on
with the next byte; a host tag of its output that HIF finds wrong ends the GET with INTEGRITY (R17, R141, R361). -/
def execDecompressResume (src : Src) (room : BitVec 32) (hostTagsOk : Bool) (s : State) :
    Host.Outcome State Fault Refusal :=
  match s.cmdOf src with
  | some c =>
    if c.stage = .started && c.frame.opcode = 0x10 then
      if !hostTagsOk then .next ((s.wr F.TNS_ERR_STATUS_HOST_TAG 1).fail c stIntegrity).sweepGone
      else .next (State.getRun (s.getFuel c) (s.setCmd { c with waits := 0 }) c.uid room.toNat)
    else .next s
  | none => .next s

/-! ## LIST (R115) -/

/-- The 32 bytes of a LIST entry (Table 05-7). -/
def Obj.listEntry (key : Nat) (o : Obj) : List Byte :=
  leBytes 16 key ++ leBytes 7 o.length ++ leBytes 1 (o.state + b2n (!o.lost.isEmpty) * 16) ++
    leBytes 8 (if o.state = 2 then o.crc else 0)

/-- The keys a LIST reports from a position on, in ascending order: those whose leading bits match. -/
def State.listed (s : State) (f : Frame) : List (Nat × Obj) :=
  let from' := (s.obj.cursors.find? (fun p => p.1 = f.offset)).map (fun p => p.2)
  let low := 2 ^ (128 - f.flags)
  s.obj.objs.filter (fun p => p.1 / low = f.key / low && (from'.map (fun k => decide (k < p.1))).getD true &&
    !s.obj.deleting.any (fun d => d.key = p.1))

/-- LIST once the map can be read, at a new lead once the home members have brought their entries: the entries that fit are written, and a cursor is issued when keys are left. -/
def State.listGo (s : State) (c : Cmd) (hit : Bool) : State :=
  if s.mapsAwaited then s.setCmd { c with waits := 8 }
  else
  let s := s.lookup hit
  let all := s.listed c.frame
  let now := all.take (c.frame.length / 32)
  let s := s.deliver c 0 ((now.map (fun p => p.2.listEntry p.1)).flatten)
  if all.length ≤ now.length then s.finish c stSuccess now.length 0
  else
    let cur := s.obj.cursors.length + 1
    let last := (now.getLast?.map (fun p => p.1)).getD 0
    let s : State := { s with obj := { s.obj with cursors := s.obj.cursors ++ [(cur, last)] } }
    s.finish c stSuccess now.length cur

/-- `LIST`; `hit` says that the map entries stand in the HBM map cache (R115). -/
def execListCmd (src : Src) (hit : Bool) (s : State) : Host.Outcome State Fault Refusal :=
  match s.admittedCmd src 0x13 with
  | none => .next s
  | some c => .next (s.withMedium c hit (fun s => s.listGo c hit))

/-! ## BARRIER, FLUSH, ABORT (R41, R96 to R98, R116) -/

/-- In T-mode a BARRIER, a FLUSH and MEDIA STOP close the lead's open stripe at once (R351). -/
def State.closeOpen (s : State) : State := if s.tMode && s.isLead then s.closeStripe.redStep else s

/-- `BARRIER`: it completes once every command admitted before it has (R41). -/
def execBarrierCmd (src : Src) (s : State) : Host.Outcome State Fault Refusal :=
  match s.admittedCmd src 0x20 with
  | none => .next s
  | some c =>
    let s := (s.setCmd { c with stage := .started, waits := 4 }).closeOpen
    .next (State.settle s.sq.cmds.length s)

/-- A command has started: it has had its first effect, a DMA of its own, an access to the medium or a change of the map. A
BARRIER has none of these. The read of a descriptor list is such a DMA (R84, R98). -/
def Cmd.begun (c : Cmd) : Bool :=
  match c.stage with
  | .started => c.frame.opcode != 0x20
  | .listWait => c.asked != 0
  | .admitted => c.movesData && c.frame.dcount != 0
  | _ => false

/-- FLUSH and ABORT, whose commit point is their admission. -/
def Cmd.control (c : Cmd) : Bool := c.frame.opcode = 0x21 || c.frame.opcode = 0x22

/-- A command lies in the scope of a FLUSH (R116): of the device, of a stream, of a queue. -/
def Frame.covers (f : Frame) (c : Cmd) : Bool :=
  if f.flags = 0 then c.src.host
  else if f.flags = 1 then
    match c.src with
    | .slot st => st.toNat = f.stream
    | .tag _ _ => c.stage != .fetching && c.frame.opcode = 0x11 && bitAt c.frame.flags 0 && c.frame.stream = f.stream
    | .mgmt _ => false
  else
    match c.src with
    | .tag q _ => q.toNat = f.offset
    | _ => false

/-- End the commands of a list that have not started. -/
def State.endUnstarted (s : State) (status : Nat) (cs : List Cmd) : State :=
  cs.foldl (fun s c =>
    match s.cmdByUid c.uid with
    | some d => if d.begun then s else (s.discardWork d).fail d status
    | none => s) s

/-- Slots in LOADING become DISCARD (R98, R99). -/
def State.discardSlots (s : State) (byActivation : Bool) (p : Nat → Bool) : State :=
  { s with sq := { s.sq with slots := s.sq.slots.map (fun e =>
    if p e.1 && e.2.state = .loading then (e.1, { e.2 with state := .discard, byActivation := byActivation }) else e) } }

/-- `FLUSH`: what has not started in its scope ends with FLUSHED; the FLUSH waits for what has (R98, R116). -/
def execFlushCmd (src : Src) (s : State) : Host.Outcome State Fault Refusal :=
  match s.admittedCmd src 0x21 with
  | none => .next s
  | some c =>
    let f := c.frame
    let mine := s.sq.cmds.filter (fun d => d.uid != c.uid && !d.control && f.covers d)
    let waiting := mine.filter (fun d => !d.begun)
    let started := mine.filter Cmd.begun
    let s := s.setCmd { c with stage := .started, waits := 4, res := waiting.length, waitFor := started.map (fun d => d.uid) }
    let s := (s.endUnstarted stFlushed waiting).discardSlots false (fun st =>
      f.flags = 0 || (f.flags = 1 && st = f.stream))
    let s := s.closeOpen
    .next (State.settle s.sq.cmds.length s)

/-- The command an ABORT names (R116). -/
def State.abortTarget (s : State) (f : Frame) : Option Cmd :=
  if bitAt f.flags 0 then
    s.cmdOf (.tag (BitVec.ofNat 6 (bits f.offset 0 6)) (BitVec.ofNat 5 (bits f.offset 8 5)))
  else
    match s.cmdOf (.slot (BitVec.ofNat 20 f.stream)) with
    | some c => if c.frame.seq = f.seq then some c else none
    | none => none

/-- A command stands at or past its commit point (R35, R96, R114, R116). A membership change does from the moment its
record enters the lead's MRAM, an activation once the image is applied (R324, R444; log entry 72). -/
def State.pastCommit (s : State) (c : Cmd) : Bool :=
  (c.control && c.stage.isAdmitted) ||
    (c.stage = .started && (c.frame.opcode = 0x12 || (c.frame.opcode < 0x10 && (c.waits = 8 || c.waits = 13)) ||
      (c.frame.opcode = 0x34 && 3 ≤ s.boot.activation) ||
      (c.frame.opcode = 0x31 && (s.grp.change.map (fun x => decide (x.src = some c.src) && !x.copying)).getD false)))

/-- An activation that loses its command before the image is applied ends: the device resumes (R67, R96, R444). -/
def State.stopActivation (s : State) : State :=
  if s.boot.activation = 0 then s
  else
    let s := if s.boot.activation = 1 then s
      else (((s.wr F.HIF_STATUS_QUIESCE 0).wr F.HIF_STATUS_READY (b2n (!s.on F.PWR_STATUS_BRACE))).wr F.BOOT_STATUS_STAGE 6)
    { s with boot := { s.boot with activation := 0 } }

/-- The effects of an aborted MEDIA function are taken back (R96): a start becomes a stop without a command; a stop that has
written nothing yet returns to the state before it, another one ends and the medium starts again; a format returns to the
state before it; a cleaning leaves its zone FULL. A function that another command waits for as well goes on. -/
def State.dropMedia (s : State) (c : Cmd) : State :=
  let m := s.medium
  let others := (s.mediaCmds c.frame.flags).any (fun d => d.uid != c.uid && d.frame.offset = c.frame.offset)
  if c.stage != .started || others then s
  else if c.frame.flags = 1 && m.func = 1 then
    let s := s.setMot { s.mot with unload := 2 }
    { s with medium := { m with state := mStopping, func := 2, stopAfter := false } }
  else if c.frame.flags = 2 && m.func = 1 then { s with medium := { m with stopAfter := false } }
  else if c.frame.flags = 2 && m.func = 2 && m.state = mStopping then
    if s.tape.stopStage = 0 then
      let s := s.setMot { s.mot with unload := 0 }
      { s with medium := { m with state := m.prior, func := 0 } }
    else { s with medium := { m with startAfter := true } }
  else if c.frame.flags = 3 && m.func = 3 then { s with medium := { m with state := m.prior, func := 0 } }
  else if c.frame.flags = 4 then
    match s.disk.cleaning.find? (fun e => e.zone = c.frame.offset) with
    | none => s
    | some e =>
      let live := s.liveIn e.zone
      let s := (s.setZone e.zone { s.zone e.zone with state := zFull }).dropClean e.zone
      (s.setDisk { s.disk with destage := s.disk.destage.filter (fun u => !live.contains u) }).rewriteTable
  else s

/-- What an aborted command had under way beyond its data: a membership change that is not in the lead's MRAM yet is
withdrawn, a medium's function taken back, an activation ends, an image check or a flash operation stops. -/
def State.dropAdmin (s : State) (c : Cmd) : State :=
  if c.frame.opcode = 0x31 then
    let g := s.grp
    let mine := fun (x : Change) => decide (x.src = some c.src)
    let copy := (g.change.map mine).getD false && (g.change.map (fun x => x.copying)).getD false
    s.setGrp { g with
      changes := g.changes.filter (fun x => !mine x)
      change := if copy then none else g.change.map (fun x => if mine x then { x with src := none } else x)
      copyTo := if copy then none else g.copyTo
      forming := g.forming.filter (fun x => x.1 != c.src) }
  else if c.frame.opcode = 0x30 then s.dropMedia c
  else if c.frame.opcode = 0x34 && c.stage = .started && s.boot.activation < 3 then s.stopActivation
  else if c.frame.opcode = 0x33 && c.stage = .started then
    { s with boot := { s.boot with norOp := 0, norBytes := [] } }
  else s

/-- `ABORT`: a target before its commit point ends with ABORTED and the ABORT with success, once that completion has been
written; else the ABORT comes too late (R96, R97). -/
def execAbortCmd (src : Src) (s : State) : Host.Outcome State Fault Refusal :=
  match s.admittedCmd src 0x22 with
  | none => .next s
  | some c =>
    match s.abortTarget c.frame with
    | none => .next (s.fail c stAbortTooLate)
    | some t =>
      if s.pastCommit t || t.uid = c.uid then .next (s.fail c stAbortTooLate)
      else
        let s := s.setCmd { c with stage := .started, waits := 5 }
        let s : State := { s with sq := { s.sq with abortWaits := s.sq.abortWaits ++ [(c.src, t.src)] } }
        .next (((s.discardWork t).dropAdmin t).fail t stAborted)

/-! ## HEALTH, LOG_READ, LOG_COPY (R126, R127) -/

/-- The members of the record in some state as a bitmap. -/
def State.memberSet' (s : State) (st : Nat) : Nat := (s.grp.mrec.map (fun r => r.bitmap (fun x => x = st))).getD 0

/-- The highest on-die temperature over the last 60 s, as a signed 16-bit value. -/
def State.tjMax (s : State) : Nat :=
  match ((s.sensor 0).hist.filter (fun p => s.life.ms - p.1 ≤ 60000)).map (fun p => p.2) with
  | [] => 0
  | x :: t => ofSigned 16 (t.foldl (fun m y => if m < y then y else m) x)

/-- The health record (Table 05-13). -/
def State.healthRecord (s : State) : List Byte :=
  let count := fun off => leBytes 8 (Store.get 0 s.life.count off)
  leBytes 8 s.epoch ++ leBytes 1 (s.rd F.GLB_CONFIG_MODE) ++ leBytes 1 (if s.inGroup then s.myId else 0) ++
    leBytes 1 s.role ++ leBytes 1 s.medium.state ++ leBytes 1 (s.rd F.DET_STATUS_ACTIVE) ++
    leBytes 1 (s.rd F.DET_STATUS_SPARES) ++ leBytes 1 (s.rd F.SQ_THROTTLE_STATE) ++ leBytes 1 0 ++
    leBytes 2 s.tjMax ++ leBytes 2 0 ++
    leBytes 1 s.mem.hbmRemap.length ++ leBytes 1 s.mem.sramRemap.length ++ leBytes 1 s.mem.mramRemap.length ++
    leBytes 1 0 ++ leBytes 8 (s.life.ms / 1000) ++
    ([32, 40, 48, 56, 64, 72, 80, 88, 96].map count).flatten ++
    leBytes 8 (if s.inGroup then s.memberSet' 3 else 1) ++ leBytes 8 (s.memberSet' 4) ++ leBytes 8 (s.memberSet' 5) ++
    List.replicate 128 0#8

/-- `HEALTH` (R126). -/
def execHealthCmd (src : Src) (s : State) : Host.Outcome State Fault Refusal :=
  match s.admittedCmd src 0x35 with
  | none => .next s
  | some c => .next ((s.deliver c 0 s.healthRecord).finish c stSuccess 0 0)

/-- The 64 bytes of a log entry (Table 05-14). -/
def LogEntry.bytes (e : LogEntry) : List Byte :=
  leBytes 8 e.seq ++ leBytes 8 e.time ++ leBytes 1 e.type ++ leBytes 1 e.source ++ leBytes 2 e.code ++ leBytes 4 0 ++
    leBytes 8 e.arg ++ leBytes 16 e.key ++ leBytes 8 e.epoch ++ leBytes 8 e.detail

/-- The newest 65,536 entries of a list. -/
def newestLog (l : List LogEntry) : List LogEntry := l.drop (l.length - 65536)

/-- The entries held for LOG_READ. -/
def State.logHeld (s : State) : List LogEntry := newestLog (s.life.medium ++ s.life.staging)

/-- The entries a LOG_READ writes, and the LOG_SEQ of the first entry it does not examine. -/
def takeLog (type next : Nat) : Nat → List LogEntry → List LogEntry × Nat
  | 0, e :: _ => ([], e.seq)
  | _, [] => ([], next)
  | n + 1, e :: t =>
    if type = 0 || e.type = type then
      let r := takeLog type next n t
      (e :: r.1, r.2)
    else takeLog type next (n + 1) t

/-- `LOG_READ` (R127). -/
def execLogRead (src : Src) (s : State) : Host.Outcome State Fault Refusal :=
  match s.admittedCmd src 0x36 with
  | none => .next s
  | some c =>
    let l := s.logHeld.filter (fun e => c.frame.offset ≤ e.seq)
    let r := takeLog c.frame.flags (s.life.nextLog + 1) (c.frame.length / 64) l
    .next ((s.deliver c 0 ((r.1.map LogEntry.bytes).flatten)).finish c stSuccess r.1.length r.2)

/-- The LOG units of log entries, 64 of them in each (Table 07-1). -/
def logUnits (l : List LogEntry) : List UnitRec :=
  (List.range ((l.length + 63) / 64)).map (fun i =>
    UnitRec.made 3 (((l.drop (64 * i)).take 64).map LogEntry.bytes).flatten)

/-- `LOG_COPY`: the staged entries are copied to the medium's log area while the medium is READY; on tape they are units of
the data sets (R127, R150). -/
def execLogCopy (s : State) : Host.Outcome State Fault Refusal :=
  if s.medium.state = mReady then
    let new := s.life.staging
    let s := { s with life := { s.life with medium := newestLog (s.life.medium ++ new), staging := [] } }
    if !s.tMode || s.tape.protect then .next s
    else
      let (s, ids) := s.addUnits (logUnits new)
      let s := { s with obj := { s.obj with gatherFree := s.obj.gatherFree - ids.length } }
      .next (s.tapeTake ids)
  else .next s

end Sys2Proof.Machine
end

