-- ==== Sys2Proof/Machine/MediaCmds.lean ====
section
/-!
DEFINITION. The MEDIA functions: START, STOP, FORMAT, ZONE_CLEAN, INFO and ZONE_INFO, on this device or on the member
that the command names (R117 to R119, R178, R199, R200, R204, R233).
-/

namespace Sys2Proof.Machine

/-! ## The member that a command names (R117, R340, Table 05-12) -/

/-- The device has a route to a member, or is the member. -/
def State.routeTo (s : State) (m : Nat) : Bool := m = s.myId || s.rdi F.GRP_ROUTE_PORT m < 4

/-- The state of a member id: what the record holds, and DISCOVERED for a device found at an id that the record does not
name. -/
def State.memberState (s : State) (m : Nat) : Nat :=
  let r := (s.grp.mrec.map (fun r => r.state m)).getD 0
  if r = 0 && s.hasId && (m = s.myId || s.rdi F.GRP_ROUTE_PORT m < 4) then 1 else r

/-- Run a command on the member it names: here, or by a MGMT packet, when the member's state permits it (R117, R340). -/
def State.onMember (s : State) (c : Cmd) (permit : Nat → Bool) (go : State → Cmd → State) : State :=
  if !s.inGroup || !c.src.host then go s c
  else
    let m := c.frame.key % 64
    if !permit (s.memberState m) then s.conflict c 0x14 5 (s.memberState m)
    else if m = s.myId then go s c
    else if !s.routeTo m then s.fail c stMemberUnreachable
    else (s.setCmd { c with stage := .started, waits := 8 }).sendMgmtCmd m (some c.src) c.frame.wire 0 []

/-- The states in which a member takes START, STOP and FORMAT: DISCOVERED and FENCED (Table 05-12). -/
def mediaPermit (st : Nat) : Bool := st = 1 || st = 4

/-- The admitted MEDIA command of a source with a function. -/
def State.mediaCmd (s : State) (src : Src) (fn : Nat) : Option Cmd :=
  match s.admittedCmd src 0x30 with
  | some c => if c.frame.flags = fn then some c else none
  | none => none

/-! ## START (R118, R199, R299, R430) -/

/-- The medium starts: records of WHEN 2 are applied; the tape's loader seats the cartridge, or the disk's spindle, preamps
and assist levels start. -/
def State.startMedium (s : State) : State :=
  let s := s.boot.when2.foldl State.applyRec s
  let s : State := { s with medium := { s.medium with state := mStarting, func := 1, stopAfter := false } }
  if s.tMode then
    let s := s.setMot { s.mot with unload := 0, collapsed := false }
    (([0, 1, 2, 3].foldl (fun s l => s.enableLane l true) s).sendMdrv 4 5 1).loadEnter s.mot.firstStage
  else
    let s := s.setMot { s.mot with unload := 0, collapsed := false }
    (((s.startSpindle).loadBus 0).loadBus 1).loadLevels

/-- MEDIA START on this device (Table 05-9). A START while an unload from FAULTED runs waits for its end. -/
def State.startGo (s : State) (c : Cmd) : State :=
  let st := s.medium.state
  let on := fun (s : State) => s.setCmd { c with stage := .started, waits := 1 }
  if st = mReady || st = mUnformatted then s.finish c stSuccess st 0
  else if st = mStarting then on s
  else if st = mStopping then s.conflict c 0x07 3 st
  else if s.medium.func = 2 then s.setCmd { c with waits := 4 }
  else if s.tMode && !s.tape.present then s.conflict c 0x0A 3 st
  else (on s).startMedium

/-- `MEDIA START` (R118). -/
def execMediaStart (src : Src) (s : State) : Host.Outcome State Fault Refusal :=
  match s.mediaCmd src 1 with
  | some c => .next (s.onMember c mediaPermit State.startGo)
  | none => .next s

/-! ## STOP (R118, R200, R278) -/

/-- A disk stops once started commands have ended: the zone table and the assist levels are recorded, unless the stop
unloads from FAULTED, and the spindle stops (R226, R276). -/
def State.diskStop (s : State) : State :=
  if s.dMode && s.medium.func = 2 && (s.medium.state = mStopping || s.medium.state = mFaulted) && !s.mediumBusy then
    let s := if s.mot.unload = 0 then s.rewriteTable.saveLevels else s
    (s.stopSpindle.setMot { s.stopSpindle.mot with unload := 0 }).stopReached
  else s

/-- A stop goes on as far as it can (R118). -/
def State.stopStep (s : State) : State := if s.tMode then s.advanceStop else s.diskStop

/-- A medium that stopped although its STOP was aborted starts again (R96; log entry 72). -/
def State.restartMedium (s : State) : State :=
  if s.medium.startAfter && s.medium.state = s.restState then
    ({ s with medium := { s.medium with startAfter := false } } : State).startMedium
  else s

/-- MEDIA STOP on this device (Table 05-9). -/
def State.stopGo (s : State) (c : Cmd) : State :=
  let st := s.medium.state
  let s' := s.setCmd { c with stage := .started, waits := 1 }
  if st = mEmpty || st = mStopped then s.finish c stSuccess 0 0
  else if st = mStarting then { s' with medium := { s'.medium with stopAfter := true } }
  else if st = mStopping || s.medium.func = 2 then s'
  else
    let un := if st = mFaulted then (if s.mot.collapsed then 3 else 2) else if s.medium.writeFailed then 2 else 0
    let s := s'.setMot { s'.mot with unload := un }
    let s : State := { s with medium := { s.medium with state := mStopping, func := 2, prior := st } }
    s.closeOpen.stopStep

/-- `MEDIA STOP` (R118). Sent again, a disk's stop goes on where started commands kept it waiting. -/
def execMediaStop (src : Src) (s : State) : Host.Outcome State Fault Refusal :=
  match s.mediaCmd src 2 with
  | some c => .next (s.onMember c mediaPermit State.stopGo)
  | none => .next s.stopStep

/-! ## FORMAT (R118, R178, R204, R233) -/

/-- Some object or strip has data on this device's medium. -/
def State.mediumHolds (s : State) : Bool :=
  s.obj.objs.any (fun p => p.2.units.any (fun u => (s.unit u).place.here)) || s.red.strips.any (fun x => !x.units.isEmpty)

/-- Every unit on the medium is gone. -/
def State.eraseUnits (s : State) : State :=
  { s with obj := { s.obj with units := s.obj.units.filter (fun u => !u.2.place.here) } }

/-- The cartridge header of the image's template with a fresh CARTRIDGE_ID and the drive's gap (R178, Table 07-9). -/
def State.newHeader (s : State) : CartHeader :=
  let b := s.boot.format
  { wraps := leAt b 6 2, lposBegin := leAt b 8 4, lposEnd := leAt b 12 4
    cartId := (Config.value 2 s.free).toNat + (Config.value 3 s.free).toNat * 2 ^ 64, gapUm := s.rd F.FMT_RWW_GAP_GAP_UM }

/-- A data set that a format has written and verified: its first frame in slot 0 of its partition, on a wrap. -/
def State.formatSet (s : State) (part kind wrap pass lpos : Nat) (own : List UnitRec) : DataSet :=
  s.sealSet { DataSet.new part 0 kind [] true with
    begun := true, passed := 2 ^ 192 - 1, wrap := wrap, pass := pass, lpos := lpos, own := own }

/-- The three frame slots that a data set of a format occupies. -/
def DataSet.formatSlots (d : DataSet) : List SlotRec :=
  (setFrames d.part d.num 0 0 0 []).zipIdx.map (fun p =>
    { part := d.part, slot := p.2, wrap := d.wrap, lpos := d.lpos, pass := d.pass, copies := p.1 })

/-- The tape is formatted: the header as data set 0 of the index partition, on wrap 0, and an EOD data set as data set 0 of
the data partition, on wrap 4, written by a session of their own. The cartridge's earlier frames are overwritten or lie
beyond the EOD data set (R175, R176, R178, R179). -/
def State.formatTape (s : State) : State :=
  let h := s.newHeader
  let t := s.tape
  let p := t.writePass + 1
  let hdr := s.formatSet 0 2 0 p h.lposBegin [UnitRec.made 7 h.user]
  let eod := s.formatSet 1 1 4 p h.lposBegin (List.replicate 176 UnitRec.eod)
  let s := s.setTape { t with
    header := some h, sets := [], onTape := [hdr, eod], gather := [], frames := [], rwq := [], awaiting := []
    written := hdr.formatSlots ++ eod.formatSlots, slot := 0, otherSlot := 3, readAhead := [], readGood := [], rereads := []
    session := true, writePass := p, indexSeq := 0, indexNext := 1, stale := false, stopStage := 0 }
  let s := (s.wr F.FMT_TSTATUS_PARTITION 1).wr F.FMT_TSTATUS_WRAP 4
  (s.eraseUnits.tickFree.wr F.FMT_DS_NEXT_DS_NUM 0).syncLevel

/-- The zones of one scanned surface. -/
def scanZones (z h : Nat) (p : HeadScan) : Store Zone :=
  (List.range z).map (fun i =>
    (h * z + i, { Zone.init with
      state := if p.ok then zEmpty else zOffline
      track := ((p.tracks[i]?).map (fun t => t.toNat)).getD 0
      primary := (p.primary.filter (fun d => d.1.toNat = i)).map (fun d => d.2.toNat) }))

/-- The disk is formatted: every head that passes the scan is in service, its zones are EMPTY, its landing ring is
free, and the zone table is written (R204, R206, R229, R233). `outer` is M of Table 09-3. -/
def State.formatDisk (s : State) (scan : List HeadScan) (outer : Nat) : State :=
  let H := s.disk.heads
  let at' := fun h => (scan[h]?).getD (HeadScan.mk false [] 0 [] [])
  let z := (scan.map (fun p => p.tracks.length)).foldl Nat.max 0
  let bad := ((List.range H).filter (fun h => !(at' h).ok)).foldl setBit 0
  let acts := [0, 1].filter (fun a => (List.range H).all (fun h => s.actOf h != a || !(at' h).ok))
  let s := (s.wr F.FMT_HEAD_FAILED_HEADS bad).wr F.FMT_HEAD_FAILED_ACTUATORS (acts.foldl setBit 0)
  let d := s.disk
  let zones := ((List.range H).map (fun h => scanZones z h (at' h))).flatten
  let rings := (List.range H).map (fun h =>
    let bad := (at' h).ringBad.map (fun x => x.toNat)
    (h, { Ring.init with size := (at' h).ring.toNat, defects := bad, primary := bad }))
  let s := s.setDisk { d with
    formatted := true, zones := zones.filter (fun p => p.2 != Zone.init), zoneCount := H * z, zonesPerSurface := z
    outerZones := outer, bands := formatBands s.boot.format, rings := rings.filter (fun p => p.2 != Ring.init)
    mediumId := (Config.value 2 s.free).toNat + (Config.value 3 s.free).toNat * 2 ^ 64
    destage := [], readBacks := [], redo := [], cleaning := [], cleanOn := false, badReads := []
    acqFails := [], copyFaults := [], lowRings := 0, ztRead := true }
  let s := s.eraseUnits.tickFree.rewriteTable
  s.setDisk { s.disk with ztSeen := s.disk.ztZones }

/-- FORMAT completes in READY; a START that waited completes with it, a STOP goes on (R118). -/
def State.formatReached (s : State) : State :=
  let s := s.setMedium mReady
  ((s.endMedia 3 stSuccess 0 s.capacity).startReached mReady).stopStep

/-- MEDIA FORMAT is admitted on this device: it forms no READY medium that holds data, and from now on the medium is in
STARTING (R118, Table 05-9). -/
def State.formatGo (s : State) (c : Cmd) : State :=
  let st := s.medium.state
  if st != mReady && st != mUnformatted then s.conflict c 0x07 3 st
  else if st = mReady && s.mediumHolds then s.conflict c 0x0B 3 st
  else
    let s := s.setCmd { c with stage := .started, waits := 1 }
    { s with medium := { s.medium with state := mStarting, func := 3, prior := st } }

/-- `MEDIA FORMAT`. Sent again once it has started, the format ends: `scan` and `outer` are what the surface scan of a
disk finds. Started commands end first, and data that one of them left gives MAP_NOT_EMPTY (R118, R204). -/
def execMediaFormat (src : Src) (scan : List HeadScan) (outer : BitVec 20) (s : State) :
    Host.Outcome State Fault Refusal :=
  match s.mediaCmd src 3 with
  | some c => .next (s.onMember c mediaPermit State.formatGo)
  | none =>
    match s.cmdOf src with
    | some c =>
      if c.frame.opcode != 0x30 || c.frame.flags != 3 || s.medium.func != 3 || s.mediumBusy then .next s
      else if s.medium.prior = mReady && s.mediumHolds then
        .next ((({ s with medium := { s.medium with state := mReady, func := 0 } } : State).conflict c 0x0B 3 mReady).startReached
          mReady)
      else .next (if s.tMode then s.formatTape else s.formatDisk scan outer.toNat).formatReached
    | none => .next s

/-! ## ZONE_CLEAN, INFO, ZONE_INFO (R118, R119, R231) -/

/-- ZONE_CLEAN on this device (Tables 05-9, 05-11): the states of this device's medium, in a group too; a FULL zone is
selected at once, whatever else is being cleaned (R119, R230). -/
def State.cleanGo (s : State) (c : Cmd) : State :=
  let z := c.frame.offset
  let m := s.medium.state
  if !s.dMode || s.disk.zoneCount ≤ z then s.fail c stInvalidField
  else if m = mStarting then s.setCmd { c with waits := 1 }
  else if m = mUnformatted then s.conflict c 0x08 3 m
  else if m != mReady then s.conflict c 0x07 3 m
  else
    let st := (s.zone z).state
    if st = zEmpty then s.finish c stSuccess 0 0
    else if st = zFilling then s.conflict c 0x0C 4 st
    else if st = zOffline then s.conflict c 0x0D 4 st
    else if st = zCleaning then s.setCmd { c with stage := .started, waits := 4 }
    else (s.setCmd { c with stage := .started, waits := 4 }).startClean z

/-- `MEDIA ZONE_CLEAN` (R119). -/
def execZoneClean (src : Src) (s : State) : Host.Outcome State Fault Refusal :=
  match s.mediaCmd src 4 with
  | some c => .next (s.onMember c (fun _ => true) State.cleanGo)
  | none => .next s

/-- MEDIA INFO on this device (Table 05-10). -/
def State.infoGo (s : State) (c : Cmd) : State :=
  let lost := if s.dMode then s.rd F.FMT_HEAD_FAILED_HEADS != 0 || s.rd F.FMT_HEAD_FAILED_ACTUATORS != 0
    else s.medium.writeFailed
  s.finish c stSuccess (s.medium.state + b2n (s.tMode && s.tape.present && s.tape.protect) * 256 + b2n lost * 512)
    (if s.medium.state = mReady then s.capacity - s.bytesTaken else 0)

/-- `MEDIA INFO` (R118). -/
def execMediaInfo (src : Src) (s : State) : Host.Outcome State Fault Refusal :=
  match s.mediaCmd src 5 with
  | some c => .next (s.onMember c (fun _ => true) State.infoGo)
  | none => .next s

/-- ZONE_INFO on this device: the zones as they stand in READY, else as the zone table last read has them (Table 05-9,
R233). -/
def State.zoneInfoGo (s : State) (c : Cmd) : State :=
  let z := c.frame.offset
  let st := s.medium.state
  if !s.dMode || s.disk.zoneCount ≤ z then s.fail c stInvalidField
  else if st = mReady then s.finish c stSuccess (s.zone z).state ((s.zone z).written * 4096)
  else if st = mStarting then s.setCmd { c with waits := 1 }
  else if st = mUnformatted then s.conflict c 0x08 3 st
  else if st = mFaulted && !s.disk.ztRead then s.conflict c 0x07 3 st
  else
    let v := Store.get (0, 0, 0) s.disk.ztSeen z
    s.finish c stSuccess v.2.2 (v.1 * 4096)

/-- `MEDIA ZONE_INFO` (R118). -/
def execZoneInfo (src : Src) (s : State) : Host.Outcome State Fault Refusal :=
  match s.mediaCmd src 6 with
  | some c => .next (s.onMember c (fun _ => true) State.zoneInfoGo)
  | none => .next s

end Sys2Proof.Machine
end

