-- ==== Sys2Proof/Machine/Images.lean ====
section
/-!
DEFINITION. Images in the flash: the recovery commands, IMAGE_WRITE and its flash operations, DEFER, and configuration
activation on this device and on members (R124, R125, R340, R441 to R446).
-/

namespace Sys2Proof.Machine

/-- Start-up, flash and images replaced. -/
def State.setBoot (s : State) (b : BootSt) : State := { s with boot := b }

/-! ## The image state record (R433, R442) -/

/-- The version of a slot, read in a check, enters the record when the header's CRC checks (R442). -/
def State.noteVersion (s : State) (slot : Bool) (r : ImgRec) : ImgRec :=
  if (s.header slot).crcOk then r.setVersion slot (s.header slot).version else r

/-- A slot is about to be written: WRITING, TRIES 0, and PENDING cleared when it named the slot (R441, R442). -/
def State.markWriting (s : State) (slot : Bool) : State :=
  let r := (s.imgRec.setState slot 3).setTries slot 0
  s.writeImgRec { r with pending := if r.pending = b2n slot then 0xFF else r.pending }

/-- The outcome of a slot's check enters the record: VALID or INVALID, and the version (R442). -/
def State.markChecked (s : State) (slot ok : Bool) : State :=
  s.writeImgRec (s.noteVersion slot (s.imgRec.setState slot (if ok then 1 else 2)))

/-! ## Flash operations (R425) -/

/-- The erase of a whole slot begins. -/
def State.startErase (s : State) (slot : Bool) : State :=
  (s.setBoot { s.boot with norOp := 1, norAddr := slotBase slot, norBytes := [] }).emit (.nor 0 (slotBase slot) slotSize)

/-- The program of a page begins. -/
def State.startPage (s : State) (addr : Nat) (page : List Byte) : State :=
  (s.setBoot { s.boot with norOp := 2, norAddr := addr, norBytes := page }).emit (.nor 1 addr page.length)

/-- What a program leaves in the flash: it only clears bits; `flips` are bits that came out other than that. -/
def programmed (old new flips : List Byte) : List Byte :=
  (List.range new.length).map (fun i =>
    (((old[i]?).getD 0xFF#8) &&& ((new[i]?).getD 0xFF#8)) ^^^ ((flips[i]?).getD 0#8))

/-- An erased slot reads 0xFF. -/
def State.eraseSlot (s : State) (base : Nat) : State :=
  s.setBoot { s.boot with nor := s.boot.nor.filter (fun p => p.1 < base || base + slotSize ≤ p.1) }

/-! ## Recovery mode (R441) -/

/-- A host's recovery command is taken: in recovery mode, while none runs. -/
def State.rcvOpen (s : State) (port : Bool) : Bool :=
  s.barsUp port && s.on F.BOOT_STATUS_RECOVERY && !s.on F.BOOT_RCV_STATUS_BUSY

/-- The flash address that RCV_ADDR names in a slot. -/
def State.rcvAddr (s : State) (slot : Bool) : Nat := slotBase slot + s.rd F.BOOT_RCV_ADDR_PAGE * 256

/-- ERASE: the slot is marked WRITING with TRIES 0 and its erase begins (R441). -/
def State.rcvErase (s : State) (port slot : Bool) : State :=
  if s.rcvOpen port then ((s.markWriting slot).startErase slot).wr F.BOOT_RCV_STATUS_BUSY 1 else s

/-- PROGRAM: the 256 B of RCV_DATA are programmed at RCV_ADDR (R441). -/
def State.rcvProgram (s : State) (port slot : Bool) : State :=
  let page := ((List.range 64).map (fun w => leBytes 4 (s.rdi F.BOOT_RCV_DATA_WORD w))).flatten
  if s.rcvOpen port then (s.startPage (s.rcvAddr slot) page).wr F.BOOT_RCV_STATUS_BUSY 1 else s

/-- READ: 256 B of the slot enter RCV_DATA (R441). -/
def State.rcvRead (s : State) (port slot : Bool) : State :=
  let b := s.norBytes (s.rcvAddr slot) 256
  if s.rcvOpen port then (List.range 64).foldl (fun s w => s.wri F.BOOT_RCV_DATA_WORD w (leAt b (4 * w) 4)) s else s

/-- SELECT: the slot is checked; it becomes VALID and PENDING, or INVALID with ERROR (R441). -/
def State.rcvSelect (s : State) (port slot : Bool) : State :=
  if !s.rcvOpen port then s
  else
    let ok := (s.checkSlot slot).1 = 0
    let s := s.markChecked slot ok
    if ok then s.writeImgRec { s.imgRec with pending := b2n slot } else s.wr F.BOOT_RCV_STATUS_ERROR 1

/-- `RCV_ERASE` (R441). -/
def execRcvErase (port slot : Bool) (s : State) : Host.Outcome State Fault Refusal := .next (s.rcvErase port slot)

/-- `RCV_PROGRAM` (R441). -/
def execRcvProgram (port slot : Bool) (s : State) : Host.Outcome State Fault Refusal := .next (s.rcvProgram port slot)

/-- `RCV_READ` (R441). -/
def execRcvRead (port slot : Bool) (s : State) : Host.Outcome State Fault Refusal := .next (s.rcvRead port slot)

/-- `RCV_SELECT` (R441). -/
def execRcvSelect (port slot : Bool) (s : State) : Host.Outcome State Fault Refusal := .next (s.rcvSelect port slot)

/-! ## Targets of a command that runs on members (R124, R340, R445) -/

/-- The members that an image command names: this device in solo and for a lead's part, else the member, or every ACTIVE
member. -/
def State.targets (s : State) (c : Cmd) : List Nat :=
  match s.grp.mrec with
  | none => [s.myId]
  | some r => if !c.src.host then [s.myId] else if bitAt c.frame.key 6 then r.active else [c.frame.key % 64]

/-- This device is one of them. -/
def State.hits (s : State) (c : Cmd) : Bool := (s.targets c).contains s.myId

/-- Requests to members for a command are outstanding. -/
def State.awaiting (s : State) (src : Src) : Bool := s.grp.mgmtOut.any (fun o => o.src = some src)

/-- Note how a part of a command ended: the first status other than success stays, with its RESULT and AUX. -/
def Cmd.note (c : Cmd) (status result aux : Nat) : Cmd :=
  if c.prog = 0 then { c with prog := status, res := result, aux := aux } else c

/-- The part on this device ends. -/
def State.endHere (s : State) (c : Cmd) (status result aux : Nat) : State :=
  s.setCmd { c.note status result aux with missing := some 0 }

/-- Send a command's frame to every target but this device; a target without a route is MEMBER_UNREACHABLE. -/
def State.sendParts (s : State) (uid part : Nat) (data : List Byte) : State :=
  match s.cmdByUid uid with
  | none => s
  | some c =>
    ((s.targets c).filter (fun m => m != s.myId)).foldl (fun s m =>
      if s.routeTo m then s.sendMgmtCmd m (some c.src) c.frame.wire part data
      else
        match s.cmdByUid uid with
        | some d => s.setCmd (d.note stMemberUnreachable 0 0)
        | none => s) s

/-! ## IMAGE_WRITE (R124, R442) -/

/-- Another image operation holds the flash. -/
def State.flashBusy (s : State) : Bool :=
  s.boot.norOp != 0 || s.boot.activation = 1 ||
    s.sq.cmds.any (fun d => d.frame.opcode = 0x33 && d.stage = .started && s.hits d && d.missing.isNone)

/-- IMAGE_WRITE goes on: members get the command once its data is whole; here the next page is programmed; it ends when
every part has (R124). -/
def State.writeStep (s : State) (uid : Nat) : State :=
  match s.cmdByUid uid with
  | none => s
  | some c =>
    if c.frame.opcode != 0x33 || c.stage != .started then s
    else
      let f := c.frame
      let s := if c.waits = 0 && c.data.length = f.length then
          (s.setCmd { c with waits := 8 }).sendParts uid 0 c.data else s
      let done := s.boot.writePtr - f.offset
      let s := match s.cmdByUid uid with
        | none => s
        | some d =>
          if d.missing.isSome || s.boot.norOp != 0 then s
          else if done = f.length then s.endHere d 0 done s.boot.writePtr
          else if c.data.length < done + 256 then s
          else s.startPage (slotBase s.inactive + s.boot.writePtr) ((c.data.drop done).take 256)
      match s.cmdByUid uid with
      | none => s
      | some d => if d.waits = 8 && d.missing.isSome && !s.awaiting d.src then s.finish d d.prog d.res d.aux else s

/-- IMAGE_WRITE from its state check on. While the flash is busy it waits. -/
def State.writeGo (s : State) (c : Cmd) : State :=
  let f := c.frame
  let here := s.hits c
  if here && s.flashBusy then s.setCmd { c with waits := 9 }
  else if slotSize < f.offset + f.length then s.fail c stLengthRange
  else if here && f.offset != 0 && f.offset != s.boot.writePtr then s.fail c stBadOffset
  else
    let c := { c with stage := .started, waits := 0, prog := 0, missing := if here then none else some 0 }
    let s := s.setCmd c
    let s := if here && f.offset = 0 then
        let s := s.setBoot { s.boot with writePtr := 0 }
        (s.markWriting s.inactive).startErase s.inactive
      else s
    (s.askData c).writeStep c.uid

/-- `IMAGE_WRITE` (R124). -/
def execImageWrite (src : Src) (s : State) : Host.Outcome State Fault Refusal :=
  match s.admittedCmd src 0x33 with
  | none => .next s
  | some c => .next (s.writeGo c)

/-- The IMAGE_WRITE commands in progress go on. -/
def State.writeSteps (s : State) : State :=
  (s.sq.cmds.filter (fun c => c.frame.opcode = 0x33 && c.stage = .started)).foldl (fun s c => s.writeStep c.uid) s

/-- A read-back that differs ends the writes to this device's slot (R124). -/
def State.writeFails (s : State) : State :=
  let cs := s.sq.cmds.filter (fun c => c.frame.opcode = 0x33 && c.stage = .started && c.missing.isNone)
  (cs.foldl (fun s c => s.endHere c stWriteFailed 0 0) s).writeSteps

/-- `NOR_OPERATION_DONE`: an erase or a page program has ended; a page is read back. `flips` are the bits of the page that
the flash holds otherwise than programmed. An abandoned operation leaves the flash as it was (R124, R425, R441). -/
def execNorOperationDone (flips : List Byte) (s : State) : Host.Outcome State Fault Refusal :=
  let b := s.boot
  let op := b.norOp
  if op != 1 && op != 2 then .next s
  else
    let got := programmed (s.norBytes b.norAddr b.norBytes.length) b.norBytes flips
    let s := if op = 1 then s.eraseSlot b.norAddr else s.setBoot { b with nor := norPut b.nor b.norAddr got }
    let s := s.setBoot { s.boot with norOp := 0, norBytes := [] }
    let bad := op = 2 && got != b.norBytes
    if s.on F.BOOT_STATUS_RECOVERY then
      .next ((if bad then s.wr F.BOOT_RCV_STATUS_ERROR 1 else s).wr F.BOOT_RCV_STATUS_BUSY 0)
    else if bad then .next s.writeFails
    else
      let s := if op = 2 then s.setBoot { s.boot with writePtr := s.boot.writePtr + b.norBytes.length } else s
      .next s.writeSteps

/-! ## IMAGE_ACTIVATE (R125, R443 to R445) -/

/-- The PART of the MGMT command that a command serves; 0 for a host's. -/
def State.partOf (s : State) (c : Cmd) : Nat :=
  match c.src with
  | .mgmt t => ((s.grp.mgmtCmds.find? (fun m => m.tag = t.toNat && !m.done)).map (fun m => m.part)).getD 0
  | _ => 0

/-- The patch entries of an image: line and replacement words (R431). -/
def patchEntries (p : List Byte) : List (Nat × List Byte) :=
  (List.range (Nat.min (leAt p 0 4) 16)).map (fun i =>
    let e := (p.drop (4 + 40 * i)).take 40
    (leAt e 0 4 / 32, e.drop 8))

/-- The image of a slot. -/
def State.image (s : State) (slot : Bool) : List Byte := s.norBytes (slotBase slot) (Nat.min (s.header slot).length slotSize)

/-- The patch entries in force. -/
def State.patchesNow (s : State) : List (Nat × List Byte) :=
  (List.range 16).filterMap (fun p => match s.boot.patchWords[p]? with
    | some w => some (s.rdi F.BOOT_PATCH_ADDR_LINE p, w)
    | none => none)

/-- Steps 3 and 4 of an activation: the new image's WHEN 1 records are applied, its WHEN 2 records kept, what is deferred
to the next start-up counted, and the image state record written: the activation commit (R444). -/
def State.applyImage (s : State) : State :=
  let slot := s.inactive
  let h := s.header slot
  let img := s.image slot
  let recs := paramRecs (sectionBytes h img 1)
  let now := recs.filter (fun r => r.when = 1)
  let later := (recs.filter (fun r => r.when = 0 && !s.boot.records.contains r)).length
  let patches := if h.sections.any (fun e => e.type = 2) then patchEntries (sectionBytes h img 2) else []
  let fresh := (patches.filter (fun e => !s.patchesNow.contains e)).length
  let s := (now.foldl State.applyRec s).syncIngest
  let s := s.setBoot { s.boot with
    records := s.boot.records.filter (fun r => r.when = 0) ++ now, when2 := recs.filter (fun r => r.when = 2)
    version := h.version }
  let s := if later = 0 && fresh = 0 then s else s.raise 0xA (b2n slot) 0x009 (later % 65536 + fresh * 65536)
  let r := (s.imgRec.setState slot 1).setTries slot 0
  s.writeImgRec { r with active := b2n slot, pending := 0xFF }

/-- Step 5: the device resumes, READY returns and the command completes. While a brace holds READY, step 5 waits for
its end (R125, R444, R446). -/
def State.endActivation (s : State) (c : Cmd) : State :=
  if s.boot.activation != 3 || s.awaiting c.src || s.on F.PWR_STATUS_BRACE then s
  else
    let s := (s.wr F.HIF_STATUS_QUIESCE 0).wr F.HIF_STATUS_READY 1
    let s := (s.wr F.BOOT_STATUS_STAGE 6).setBoot { s.boot with activation := 0 }
    let s := s.raise 0xA s.imgRec.active 0x007 s.boot.version
    s.finish c c.prog (if c.prog = 0 && s.hits c then s.imgRec.active else c.res) c.aux

/-- Step 2: quiesce begins. What has not started ends with REQUEUE and slots in LOADING become DISCARD (R98, R444). -/
def State.beginQuiesce (s : State) (c : Cmd) : State :=
  let s := s.setCmd { c with waits := 7, prog := 0, res := 0, aux := 0 }
  let s := (s.wr F.HIF_STATUS_QUIESCE 1).wr F.HIF_STATUS_READY 0
  let s := (s.wr F.BOOT_STATUS_STAGE 8).setBoot { s.boot with activation := 2 }
  let s := s.raise 0xA (b2n s.inactive) 0x006 0
  (s.endUnstarted stRequeue s.sq.cmds).discardSlots true (fun _ => true)

/-- IMAGE_ACTIVATE goes on once its checks have all ended: a failure completes it; DEFER marks the slot PENDING and
completes; a NOW on this device's own account quiesces, a lead's part ends (R125, R443 to R445). -/
def State.activateStep (s : State) (c : Cmd) : State :=
  if s.boot.activation = 3 then s.endActivation c
  else if s.boot.activation != 1 || c.missing.isNone || s.awaiting c.src then s
  else
    let over' := s.setBoot { s.boot with activation := 0 }
    if c.prog != 0 then over'.finish c c.prog c.res c.aux
    else if c.frame.flags = 1 then
      let s := if s.hits c then over'.writeImgRec { s.imgRec with pending := b2n s.inactive } else over'
      s.finish c stSuccess c.res 0
    else if !c.src.host then over'.finish c stSuccess c.res 0
    else s.beginQuiesce c

/-- IMAGE_ACTIVATE from its state check on. The second part of a lead's command applies the image at once, since a member
admits no commands of its own (R125, R340, R445). -/
def State.activateGo (s : State) (c : Cmd) : State :=
  if s.partOf c = 2 then s.applyImage.finish c stSuccess s.applyImage.imgRec.active 0
  else
    let mine := s.targets c
    let clash := s.sq.cmds.any (fun d => d.frame.opcode = 0x33 && d.stage = .started &&
      (s.targets d).any (fun m => mine.contains m))
    if s.boot.activation != 0 || clash then s.conflict c 0x15 7 s.deviceState
    else
      let c := { c with stage := .started, waits := 6, prog := 0, missing := if s.hits c then none else some 0 }
      let s := (s.setCmd c).setBoot { s.boot with activation := 1 }
      let s := s.sendParts c.uid 1 []
      match s.cmdByUid c.uid with
      | some d => s.activateStep d
      | none => s

/-- An admitted IMAGE_ACTIVATE with a function starts. -/
def State.activateCmd (s : State) (src : Src) (fn : Nat) : State :=
  match s.admittedCmd src 0x34 with
  | some c => if c.frame.flags = fn then s.activateGo c else s
  | none => s

/-- `IMAGE_ACTIVATE DEFER` (R443). -/
def execImageActivateDefer (src : Src) (s : State) : Host.Outcome State Fault Refusal := .next (s.activateCmd src 1)

/-- `IMAGE_ACTIVATE NOW` (R444). -/
def execImageActivateNow (src : Src) (s : State) : Host.Outcome State Fault Refusal := .next (s.activateCmd src 2)

/-- `IMAGE_CHECK_DONE`: the check of the inactive slot ends; `readBad` says that the flash could not be read. A slot that
fails gives IMAGE_INVALID; for NOW an image of the other personality gives MODE_CHANGE (R125, R442). -/
def execImageCheckDone (src : Src) (readBad : Bool) (s : State) : Host.Outcome State Fault Refusal :=
  match s.cmdOf src with
  | none => .next s
  | some c =>
    if c.frame.opcode != 0x34 || c.stage != .started || s.boot.activation != 1 || c.missing.isSome then .next s
    else
      let slot := s.inactive
      let ok := !readBad && (s.checkSlot slot).1 = 0
      let s := s.markChecked slot ok
      let s :=
        if !ok then s.endHere c stImageInvalid 0 0
        else if c.frame.flags = 2 && (s.header slot).personality != s.rd F.GLB_CONFIG_MODE then
          s.endHere c stStateConflict 0x16 (7 * 256 + s.deviceState)
        else s.endHere c 0 (b2n slot) 0
      match s.cmdOf src with
      | some d => .next (s.activateStep d)
      | none => .next s

/-- A started command has neither committed nor ended. A BARRIER, FLUSH or ABORT that itself waits for others does not
hold an activation up. -/
def State.othersRun (s : State) (c : Cmd) : Bool :=
  s.sq.cmds.any (fun d => d.uid != c.uid && d.begun && !([0x21, 0x22].contains d.frame.opcode))

/-- `ACTIVATION_APPLY`: every started command has committed or ended: the image is applied here and on the members, and
step 5 follows (R444, R445). Sent again, step 5 goes on where it waited. -/
def execActivationApply (src : Src) (s : State) : Host.Outcome State Fault Refusal :=
  match s.cmdOf src with
  | none => .next s
  | some c =>
    if c.frame.opcode != 0x34 || c.stage != .started then .next s
    else if s.boot.activation = 3 then .next (s.endActivation c)
    else if s.boot.activation != 2 || s.othersRun c then .next s
    else
      let s := if s.hits c then s.applyImage else s
      let s := (s.setBoot { s.boot with activation := 3 }).sendParts c.uid 2 []
      match s.cmdByUid c.uid with
      | some d => .next (s.endActivation d)
      | none => .next s

/-! ## Link down (R52, R54, R484, R489) -/

/-- A command of a lost port ends without completion: its work is discarded and its slot is IDLE, its tag free; an ABORT
that waited for it, or that it was, waits no longer (R43, R52, R97). -/
def State.dropLost (s : State) (c : Cmd) : State :=
  let s := (s.discardWork c).dropAdmin c
  let s := if c.frame.opcode = 0x34 && c.stage = .started then s.stopActivation else s
  let s := (((s.dropCmd c.uid)).syncIngest).release c.src true
  let s : State := { s with sq := { s.sq with abortWaits := s.sq.abortWaits.filter (fun p => p.1 ≠ c.src) } }
  s.resolveAborts c.src

/-- Every command of a port ends as never received; the number that ended (R52, Table 02-3). -/
def State.endPort (s : State) (port : Bool) : State × Nat :=
  let cs := s.sq.cmds.filter (fun c => c.src.host && c.port = port)
  let hs := s.sq.held.filter (fun c => c.port = port)
  let s := { s with sq := { s.sq with held := s.sq.held.filter (fun c => c.port != port) } }
  let s := hs.foldl (fun s c => (s.release c.src true).resolveAborts c.src) s
  let s := cs.foldl State.dropLost s
  (State.settle s.sq.cmds.length s, cs.length + hs.length)

/-- Every completion ring and tagged queue bound to a port is disabled (R489). -/
def State.disablePort (s : State) (port : Bool) : State :=
  (List.range 64).foldl (fun s r =>
    let s := if (s.rdi F.SQ_CR_CFG_PORT r != 0) = port then
        { s.wri F.SQ_CR_CFG_EN r 0 with sq := { s.sq with coal := Store.put 0 s.sq.coal r 0 } } else s
    if (s.rdi F.SQ_TQ_CFG_PORT r != 0) = port then s.wri F.SQ_TQ_CFG_EN r 0 else s) s

/-- `DATA_LINK_DOWN`: while PERST_N is deasserted, a PERST_N on that port. In single-port configurations it is a warm
reset with cause 6; in the dual-port configuration only the port's commands end, its rings and queues are disabled, its
configuration space is reset, and the event port moves to the other port (R52, R54, R484, R489). The link-down event
follows with the number of commands ended (Table 03-9; log entry 20). -/
def execDataLinkDown (port : Bool) (s : State) : Host.Outcome State Fault Refusal :=
  if s.host.perst || (port && !s.dual) then .next s
  else if s.dual then
    let s := ((s.disablePort port).clearCfgSpace port).setLink port 0 0
    let s := if s.evtPort = port then
        let s := s.wr F.HIF_LINK_CFG_EVT_PORT (b2n (!port))
        if s.host.evtFifo.isEmpty then s else s.signal (!port) 64
      else s
    let (s, n) := s.endPort port
    .next (s.raise 1 (b2n port) 0x002 n)
  else
    let n := s.sq.cmds.length + s.sq.held.length
    let s := ((s.resetWarm.clearCfgSpace port).setLink port 0 0).resetCause 6
    let s := { s with host := { s.host with cfgDone := false } }
    .next (s.raise 1 (b2n port) 0x002 n)

end Sys2Proof.Machine
end

