-- ==== Sys2Proof/Machine/Keys.lean ====
section
/-!
DEFINITION. Key slots (R123), and the arrival of host data for every command that takes some (R61, R123, R124).
-/

namespace Sys2Proof.Machine

/-- A key slot replaced. -/
def State.setKey (s : State) (n : Nat) (k : KeySlot) : State :=
  { s with obj := { s.obj with keys := Store.put KeySlot.init s.obj.keys n k } }

/-- What a KEY_LOAD leaves in its slot: the material and the KEY_ID, or nothing. -/
def Cmd.keySlot (c : Cmd) : KeySlot :=
  if c.frame.flags = 1 then { loaded := true, keyId := c.frame.key, material := c.data.take 64 } else KeySlot.init

/-- A KEY_LOAD takes effect, or ends as its deputy's copy did, once no copy is outstanding (R123). -/
def State.keyDone (s : State) (c : Cmd) : State :=
  if s.awaiting c.src then s
  else if c.prog != 0 then s.finish c c.prog c.res c.aux
  else (s.setKey (c.frame.offset % 256) c.keySlot).finish c stSuccess 0 0

/-- A KEY_LOAD whose data is whole is first copied to the deputy (R123). -/
def State.keyGo (s : State) (c : Cmd) : State :=
  let f := c.frame
  let c := { c with stage := .started, waits := 8 }
  let s := s.setCmd c
  match s.grp.mrec with
  | some r =>
    if c.src.host && r.deputy < 64 then
      (s.sendMgmtCmd r.deputy (some c.src) (keyFrame f.offset f.key f.flags f.length) 0 c.data).keyDone c
    else s.keyDone c
  | none => s.keyDone c

/-- A LOAD whose 64 B of material have come: equal halves give KEY_INVALID (R123). -/
def State.keyData (s : State) (c : Cmd) : State :=
  if c.data.length < 64 then s
  else if c.data.take 32 = (c.data.drop 32).take 32 then s.fail c stKeyInvalid
  else s.keyGo c

/-- `KEY_LOAD LOAD`: a loaded slot conflicts; else the material is fetched. A lead's copy replaces what the slot holds
(R123, R332). -/
def execKeyLoadLoad (src : Src) (s : State) : Host.Outcome State Fault Refusal :=
  match s.admittedCmd src 0x32 with
  | none => .next s
  | some c =>
    if c.frame.flags != 1 then .next s
    else if c.src.host && s.keyState c.frame.offset != 0 then .next (s.conflict c 0x0F 6 (s.keyState c.frame.offset))
    else
      let c := { c with stage := .started, waits := 0 }
      .next (((s.setCmd c).askData c).keyData c)

/-- `KEY_LOAD CLEAR`: a slot that an OPEN object names conflicts (R123). -/
def execKeyLoadClear (src : Src) (s : State) : Host.Outcome State Fault Refusal :=
  match s.admittedCmd src 0x32 with
  | none => .next s
  | some c =>
    if c.frame.flags != 2 then .next s
    else if c.src.host && s.keyState c.frame.offset = 2 then .next (s.conflict c 0x10 6 2)
    else .next (s.keyGo c)

/-- `DMA_DATA_ARRIVAL`: completions of the DMA reads that a command has issued bring its next bytes. Data of an OPEN or
APPEND stands in the ingest FIFO, with its host tags, until Tansy takes it; a key is stored, an image programmed, as its data comes (R61,
R62, R123, R124). -/
def execDmaDataArrival (src : Src) (bytes : List Byte) (s : State) : Host.Outcome State Fault Refusal :=
  match s.cmdOf src with
  | none => .next s
  | some c =>
    if c.stage != .started || !c.pullsData then .next s
    else
      let got := bytes.take (c.asked - c.data.length)
      let c := { c with data := c.data ++ got, fifo := if c.viaIngest then c.fifo + got.length else c.fifo
                        tags := hostTags c.hostOffset (c.data ++ got) }
      let s := s.setCmd c
      if c.viaIngest then .next s.syncIngest
      else if c.frame.opcode = 0x32 then .next (s.keyData c)
      else .next (s.writeStep c.uid)

end Sys2Proof.Machine
end

