-- ==== Sys2Proof/Machine/GroupAdmin.lean ====
section
/-!
DEFINITION. GROUP_ADMIN: forming a group, adding and removing members, fencing, failing, the deputy and reshape, from the
host or the management path; the flip, the end of a rebuild, and fencing and failing of slow members
(R120 to R122, R328, R334, R338, R339, R363, R373, R374).
-/

namespace Sys2Proof.Machine

/-! ## Requests (R122, R339) -/

/-- A request as it waits for its turn: a host command as (65, its uid, what is known of remote maps, nothing); a
management request as (origin, tag, BASE_EPOCH, its 17 B body and what is known of remote maps). -/
abbrev AdminReq := Nat × Nat × Nat × List Byte

/-- The host command that a request stands for. -/
def State.adminCmd (s : State) (e : AdminReq) : Option Cmd := if e.1 = 65 then s.cmdByUid e.2.1 else none

/-- Function, KEY, OFFSET, and the bitmap of other devices whose map holds objects (log entry 35). -/
def State.adminFields (s : State) (e : AdminReq) : Nat × Nat × Nat × Nat :=
  match s.adminCmd e with
  | some c => (c.frame.flags, c.frame.key, c.frame.offset, e.2.2.1)
  | none => (leAt e.2.2.2 0 1, leAt e.2.2.2 1 8, leAt e.2.2.2 9 8, leAt e.2.2.2 17 8)

/-- Answer a request. -/
def State.adminEnd (s : State) (e : AdminReq) (status result aux : Nat) : State :=
  if e.1 = 65 then
    match s.adminCmd e with
    | some c => s.finish c status result aux
    | none => s
  else s.answerAdmin e.1 e.2.1 0 (adminBody status result aux)

/-- Answer with STATE_CONFLICT: a state code, the entity kind and its state (R106). -/
def State.adminConflict (s : State) (e : AdminReq) (code kind st : Nat) : State :=
  s.adminEnd e stStateConflict code (kind * 256 + st)

/-- Commit an epoch for a request. -/
def State.adminChange (s : State) (e : AdminReq) (f : MemRec → MemRec) : State :=
  match s.adminCmd e with
  | some c => (s.setCmd { c with stage := .started, waits := 8 }).askChange (some c.src) none f
  | none => s.askChange none (some (e.1, e.2.1)) f

/-! ## Changes of the record -/

/-- A member leaves service in a record; where it was the deputy, another is named in the same commit (R330, R332). -/
def State.retire (s : State) (r : MemRec) (m st : Nat) : MemRec :=
  let r := r.setState m st
  if r.deputy = m then { r with deputy := (s.deputyCandidate r m).getD 0xFF } else r

/-- Retiring the deputy with no candidate left is reported (R332). -/
def State.retireReport (s : State) (m : Nat) : State :=
  match s.grp.mrec with
  | some r => if r.deputy = m then s.noDeputy (s.deputyCandidate r m) else s
  | none => s

/-- A rebuild, drain, reshape or epoch commit is in progress in the group (R122). -/
def State.groupBusy (s : State) : Bool :=
  s.grp.change.isSome || !s.grp.changes.isEmpty || s.red.hasPending || !s.red.rebuild.isEmpty ||
    (s.grp.mrec.map (fun r => !(r.idsIn [5, 6]).isEmpty)).getD false

/-- The members that would remain, neither FAILED nor LEAVING, without one of them (R121, R345). -/
def MemRec.remain (r : MemRec) (m : Nat) : Nat := ((r.idsIn [2, 3, 4]).filter (fun i => i != m)).length

/-- Too few members would remain. -/
def State.tooFew (s : State) (r : MemRec) (m : Nat) : Bool :=
  decide (r.remain m < Nat.max 16 (Nat.max s.red.k s.red.kPending + 2))

/-- Prepare a pending layout: its rows stand ready for the record to come, here and at every member (R346, R374). -/
def State.pendLayout (s : State) (k eligible : Nat) (tell : List Nat) : State :=
  let l := if s.red.layout = 255 then 1 else s.red.layout + 1
  let rows := (List.range 4096).map (fun r => (r, baseRow r l k eligible))
  let s := s.setRed { s.red with rowsNew := rows.foldl (fun t e => Store.ins (l * 4096 + e.1) e.2 t) s.red.rowsNew }
  tell.foldl (fun s i => s.sendRows i l false rows) s

/-- The other members that hold the record. -/
def State.others (s : State) (r : MemRec) : List Nat := (r.idsIn [2, 3, 4, 6]).filter (fun i => i != s.myId)

/-! ## FORM (R121, R328, R345) -/

/-- The first named device whose map holds objects. -/
def State.holder (s : State) (named hold : Nat) : Option Nat :=
  (onesOf 64 named).find? (fun i => if i = s.myId then !s.obj.objs.isEmpty else bitAt hold i)

/-- FORM of a host command: the checks of R121, then LEAD_BEAT with epoch 0 to every named device. -/
def State.adminForm (s : State) (e : AdminReq) (c : Cmd) (named hold : Nat) : State :=
  let ids := onesOf 64 named
  if s.inGroup then s.adminConflict e 0x13 7 s.deviceState
  else if s.hasId && !bitAt named s.myId then s.adminEnd e stInvalidField 0 0
  else
    match ids.find? (fun i => s.memberState i != 1) with
    | some i => s.adminConflict e 0x14 5 (s.memberState i)
    | none =>
      match s.holder named hold with
      | some i => s.adminConflict e 0x0B 5 (s.memberState i)
      | none =>
        if ids.length < 16 || ids.length < s.rd F.BOOT_START_CFG_K_DEFAULT + 2 then s.adminEnd e stGroupSize 0 0
        else
          let s := s.setCmd { c with stage := .started, waits := 8 }
          let s := s.setGrp { s.grp with forming := some (c.src, named, setBit 0 s.myId) }
          (ids.filter (fun i => i != s.myId)).foldl (fun s i => s.sendSeq i 0x13 (leBytes 8 0) none) s

/-- The record that FORM commits: every named member JOINING. The identities of the others come from the free value, as
no packet brings them to the lead (log entry 36). -/
def State.formRec (s : State) (ids : List Nat) (deputy : Nat) : MemRec :=
  { epoch := 1, lead := s.myId, deputy := deputy, k := s.rd F.BOOT_START_CFG_K_DEFAULT, ring := s.ringN
    groupId := (Config.groupId s.free).toNat, states := ids.foldl (fun v i => setBits v (4 * i) 4 2) 0
    uids := ids.foldl (fun t i => Store.ins i (if i = s.myId then s.uniqueId else (Config.value 4 i).toNat) t) [] }

/-- Once every named device has answered, the deputy is named and epoch 1 committed; without a host link on any of them
FORM ends with MEMBER_STATE (R328). -/
def State.formStep (s : State) : State :=
  match s.grp.forming with
  | none => s
  | some (src, named, answered) =>
    let ids := onesOf 64 named
    if !ids.all (fun i => bitAt answered i) then s
    else
      let s := s.setGrp { s.grp with forming := none }
      match ids.find? (fun i => i != s.myId && (s.beat i).hostUp) with
      | none =>
        (match s.cmdOf src with
         | some c => s.conflict c 0x14 5 1
         | none => s)
      | some d =>
        let r := s.formRec ids d
        let s := { s with free := s.free + 1 }
        let s := s.setRed { s.red with layout := 0, layoutPending := 0 }
        let s := s.pendLayout r.k named (ids.filter (fun i => i != s.myId))
        let c : Change := { mrec := r, copying := true, stored := false, src := some src, mgmt := none }
        (s.setGrp { s.grp with changes := [c] }).nextChange

/-! ## The functions on a group (R120 to R122, R332, R345, R374) -/

/-- The target of a function: the member of KEY[5:0]; the state it must have. Refused while it lies in another state, is
the lead, or, for REMOVE, the deputy. Every function then gives MEMBER_UNREACHABLE where no route leads to it (log entry
38). -/
def State.onTarget (s : State) (e : AdminReq) (r : MemRec) (m : Nat) (ok : Nat → Bool) (notDeputy : Bool)
    (go : State → State) : State :=
  let st := s.memberState m
  if !ok st || m = r.lead || (notDeputy && m = r.deputy) then s.adminConflict e 0x14 5 st
  else go s

/-- ADD: the device becomes JOINING under a pending layout in which it is eligible (R121, R374, R375). -/
def State.adminAdd (s : State) (e : AdminReq) (r : MemRec) (m hold : Nat) : State :=
  s.onTarget e r m (fun st => st = 1) false (fun s =>
    if bitAt hold m then s.adminConflict e 0x0B 5 1
    else if 64 < (r.idsIn [2, 3, 4, 5, 6]).length + 1 then s.adminEnd e stGroupSize 0 0
    else if !s.routeTo m then s.adminEnd e stMemberUnreachable 0 0
    else
      let s := s.pendLayout s.red.k (setBit s.red.eligible m) (s.others r ++ [m])
      s.adminChange e (fun b => { b.setState m 2 with uids := Store.ins m (Config.value 4 m).toNat b.uids }))

/-- REMOVE: the member becomes LEAVING under a pending layout without it. -/
def State.adminRemove (s : State) (e : AdminReq) (r : MemRec) (m : Nat) : State :=
  s.onTarget e r m (fun st => st = 3) true (fun s =>
    if s.groupBusy then s.adminConflict e 0x15 7 s.deviceState
    else if s.tooFew r m then s.adminEnd e stGroupSize 0 0
    else if !s.routeTo m then s.adminEnd e stMemberUnreachable 0 0
    else
      let s := s.pendLayout s.red.k (clrBit s.red.eligible m) (s.others r)
      s.adminChange e (fun b => b.setState m 6))

/-- FENCE an ACTIVE member. -/
def State.adminFence (s : State) (e : AdminReq) (r : MemRec) (m : Nat) : State :=
  s.onTarget e r m (fun st => st = 3) false (fun s =>
    if !s.routeTo m then s.adminEnd e stMemberUnreachable 0 0
    else (s.retireReport m).adminChange e (fun b => s.retire b m 4))

/-- UNFENCE returns a FENCED member to ACTIVE. -/
def State.adminUnfence (s : State) (e : AdminReq) (r : MemRec) (m : Nat) : State :=
  s.onTarget e r m (fun st => st = 4) false (fun s =>
    if !s.routeTo m then s.adminEnd e stMemberUnreachable 0 0
    else s.adminChange e (fun b => b.setState m 3))

/-- FAIL a member; its strips are rebuilt. -/
def State.adminFail (s : State) (e : AdminReq) (r : MemRec) (m : Nat) : State :=
  s.onTarget e r m (fun st => st = 3 || st = 4) false (fun s =>
    if s.tooFew r m then s.adminEnd e stGroupSize 0 0
    else if !s.routeTo m then s.adminEnd e stMemberUnreachable 0 0
    else (s.retireReport m).adminChange e (fun b => s.retire b m 5))

/-- SET_DEPUTY names an ACTIVE member whose host link is up. -/
def State.adminDeputy (s : State) (e : AdminReq) (r : MemRec) (m : Nat) : State :=
  s.onTarget e r m (fun st => st = 3) false (fun s =>
    if !s.routeTo m then s.adminEnd e stMemberUnreachable 0 0
    else if !(s.beat m).hostUp then s.adminConflict e 0x14 5 3
    else s.adminChange e (fun b => { b with deputy := m }))

/-- RESHAPE to a new k under a pending layout. -/
def State.adminReshape (s : State) (e : AdminReq) (r : MemRec) (k : Nat) : State :=
  if s.groupBusy then s.adminConflict e 0x15 7 s.deviceState
  else if r.active.length < k + 2 then s.adminEnd e stGroupSize 0 0
  else (s.pendLayout k s.red.eligible (s.others r)).adminChange e (fun b => b)

/-- QUERY: the epoch and the bitmap of ACTIVE members. -/
def State.adminQuery (s : State) (e : AdminReq) (r : MemRec) : State :=
  s.adminEnd e stSuccess r.epoch (r.bitmap (fun st => st = 3))

/-- The form of a management request's fields, as `GROUP_ADMIN` has it (R103, R120). -/
def adminFieldsOk (fn key off : Nat) : Bool :=
  adminForm { Frame.none with flags := fn, key := key, offset := off }

/-- Decide a request whose turn has come. A management request is checked against the epoch of the lead (R338). -/
def State.adminGo (s : State) (e : AdminReq) : State :=
  let (fn, key, off, hold) := s.adminFields e
  match s.grp.mrec with
  | none =>
    if fn = 1 then
      match s.adminCmd e with
      | some c => s.adminForm e c key hold
      | none => s
    else s.adminConflict e 0x13 7 s.deviceState
  | some r =>
    if e.1 != 65 && e.2.2.1 != s.epoch then s.answerAdmin e.1 e.2.1 1 []
    else if !adminFieldsOk fn key off then s.adminEnd e stInvalidField 0 0
    else if fn = 1 then s.adminConflict e 0x13 7 s.deviceState
    else if fn = 2 then s.adminAdd e r key hold
    else if fn = 3 then s.adminRemove e r key
    else if fn = 4 then s.adminFence e r key
    else if fn = 5 then s.adminUnfence e r key
    else if fn = 6 then s.adminFail e r key
    else if fn = 7 then s.adminDeputy e r key
    else if fn = 8 then s.adminReshape e r off
    else s.adminQuery e r

/-! ## Turns (R122) -/

/-- An epoch commit or a FORM is under way, so that requests wait. -/
def State.adminHeld (s : State) : Bool :=
  s.grp.change.isSome || !s.grp.changes.isEmpty || s.grp.forming.isSome

/-- A request cannot be decided yet: an ADD while a layout is pending waits for the flip. -/
def State.adminBlocked (s : State) (e : AdminReq) : Bool := (s.adminFields e).1 = 2 && s.inGroup && s.red.hasPending

/-- Decide the requests that wait, in their order, as long as none of them starts a commit or has to wait itself. -/
def State.adminTurns : Nat → State → State
  | 0, s => s
  | fuel + 1, s =>
    if s.adminHeld then s
    else
      match s.grp.adminQ with
      | [] => s
      | e :: rest =>
        if s.adminBlocked e then s
        else
          let s := s.setGrp { s.grp with adminQ := rest }
          if e.1 = 65 && (s.adminCmd e).isNone then State.adminTurns fuel s
          else State.adminTurns fuel (s.adminGo e)

/-- A request takes its place behind those that wait; REMOVE and RESHAPE do not wait for a commit in progress, they give
ADMIN_BUSY (R122). -/
def State.adminAsk (s : State) (e : AdminReq) : State :=
  let fn := (s.adminFields e).1
  let held := s.adminHeld || s.grp.adminQ.any (fun x => s.adminBlocked x)
  if held && s.inGroup && e.1 = 65 && (fn = 3 || fn = 8) then s.adminConflict e 0x15 7 s.deviceState
  else
    let s := match s.adminCmd e with
      | some c => if held || s.adminBlocked e then s.setCmd { c with stage := .started, waits := 4 } else s
      | none => s
    let s := s.setGrp { s.grp with adminQ := s.grp.adminQ ++ [e] }
    State.adminTurns s.grp.adminQ.length s

/-! ## The end of a rebuild (R373) -/

/-- No slot is left to rebuild as far as the lead knows: its own queue is empty, and no entry of the directory rows that
it keeps as home member names a lost slot (log entry 37). -/
def State.rebuilt (s : State) (r : MemRec) : Bool :=
  s.red.rebuild.isEmpty && s.red.takeover.isEmpty && !s.red.stripes.any (fun x => x.jrec.kind = 1) &&
    !s.red.directory.any (fun d => s.stripeHome d.stripe = s.myId &&
      (d.lost != 0 || (d.members.any (fun m => r.state m = 5))))

/-- The rebuild ends: event 0x103, and every FAILED member becomes ABSENT in the next epoch. -/
def State.rebuildEnd (s : State) : State :=
  match s.grp.mrec with
  | none => s
  | some r =>
    let failed := r.idsIn [5]
    if s.isLead && !failed.isEmpty && !s.adminHeld && s.rebuilt r then
      (s.raise 8 s.myId 0x103 r.epoch).askChange none none (fun b => failed.foldl (fun b i => b.setState i 0) b)
    else s

/-- What goes on in the group between events: FORM, the end of a rebuild, JOINING members, requests that wait. -/
def State.groupStep (s : State) : State :=
  let s := s.formStep.nextChange
  let s := s.rebuildEnd
  let s := s.activateJoined
  State.adminTurns s.grp.adminQ.length s

/-! ## The commands -/

/-- An admitted GROUP_ADMIN with a function takes its turn. -/
def State.adminStart (s : State) (src : Src) (fn hold : Nat) : State :=
  match s.admittedCmd src 0x31 with
  | some c => if c.frame.flags = fn then (s.adminAsk (65, c.uid, hold, [])).groupStep else s
  | none => s

/-- `FORM` (R121, R328). -/
def execFormCmd (src : Src) (holding : BitVec 64) (s : State) : Host.Outcome State Fault Refusal :=
  .next (s.adminStart src 1 holding.toNat)
/-- `ADD` (R121, R374). -/
def execAddCmd (src : Src) (holding : BitVec 64) (s : State) : Host.Outcome State Fault Refusal :=
  .next (s.adminStart src 2 holding.toNat)
/-- `REMOVE` (R121, R374). -/
def execRemoveCmd (src : Src) (s : State) : Host.Outcome State Fault Refusal := .next (s.adminStart src 3 0)
/-- `FENCE` (R120). -/
def execFenceCmd (src : Src) (s : State) : Host.Outcome State Fault Refusal := .next (s.adminStart src 4 0)
/-- `UNFENCE` (R120). -/
def execUnfenceCmd (src : Src) (s : State) : Host.Outcome State Fault Refusal := .next (s.adminStart src 5 0)
/-- `FAIL` (R120, R121). -/
def execFailCmd (src : Src) (s : State) : Host.Outcome State Fault Refusal := .next (s.adminStart src 6 0)
/-- `SET_DEPUTY` (R332). -/
def execSetDeputyCmd (src : Src) (s : State) : Host.Outcome State Fault Refusal := .next (s.adminStart src 7 0)
/-- `RESHAPE` (R374). -/
def execReshapeCmd (src : Src) (s : State) : Host.Outcome State Fault Refusal := .next (s.adminStart src 8 0)
/-- `QUERY` (R120). -/
def execQueryCmd (src : Src) (s : State) : Host.Outcome State Fault Refusal := .next (s.adminStart src 9 0)

/-! ## Slow members (R334, R363) -/

/-- A slow member leaves service by an epoch commit of the lead. -/
def State.slowOut (s : State) (m : Nat) (from' : List Nat) (st : Nat) : State :=
  match s.grp.mrec with
  | some r =>
    if s.isLead && m != s.myId && from'.contains (r.state m) && s.red.slowMs.any (fun e => e.1 = m) then
      ((s.retireReport m).askChange none none (fun b => s.retire b m st)).groupStep
    else s
  | none => s

/-- `SLOW_FENCE_TIMEOUT`: a member has been slow without a break for FENCE_MS and is fenced (R363). -/
def execSlowFenceTimeout (member : BitVec 6) (s : State) : Host.Outcome State Fault Refusal :=
  .next (s.slowOut member.toNat [3] 4)

/-- `SLOW_FAIL_TIMEOUT`: a member has been slow without a break for FAIL_S and is failed (R363). -/
def execSlowFailTimeout (member : BitVec 6) (s : State) : Host.Outcome State Fault Refusal :=
  .next (s.slowOut member.toNat [2, 3, 4, 6] 5)

/-! ## The flip (R374, R375) -/

/-- `RESHAPE_FLIP`: every old stripe is relocated: an epoch makes the pending layout current, sets K, makes JOINING members
ACTIVE and LEAVING members DISCOVERED (R374, R375). -/
def execReshapeFlip (s : State) : Host.Outcome State Fault Refusal :=
  match s.grp.mrec with
  | some r =>
    if s.isLead && s.red.hasPending && s.red.relocLeft.isEmpty && !s.red.stripes.any (fun x => x.jrec.kind = 2) &&
        s.grp.change.isNone && s.grp.changes.isEmpty then
      let k := s.red.kPending
      let s := (s.others r).foldl (fun s i => s.sendRows i s.red.layoutPending true []) s
      let s := s.setRed { s.red with flipNew := true }
      .next (s.askChange none none (fun b =>
        let b := (b.idsIn [2]).foldl (fun b i => b.setState i 3) b
        let b := (b.idsIn [6]).foldl (fun b i => b.setState i 1) b
        { b with k := k })).groupStep
    else .next s
  | none => .next s

end Sys2Proof.Machine
end

