-- ==== Sys2Proof/Machine/Jtag.lean ====
section
/-!
DEFINITION. The JTAG TAP: identification, the boundary register and the programming of fuses (R428, R481; log entry 45).
-/

namespace Sys2Proof.Machine

/-- The IDCODE: the major stepping over 0x8164, 0x2B5 and 1 (R481, R482). -/
def State.idcode (s : State) : Nat := s.rd F.GLB_ID_STEPPING / 16 * 2 ^ 28 + 0x8164 * 2 ^ 12 + 0x2B5 * 2 + 1

/-- The instruction and the boundary register of the TAP replaced. -/
def State.setJtag (s : State) (instr boundary : Nat) : State := { s with pins := { jtagInstr := instr, boundary := boundary } }

/-- The fuses replaced. -/
def State.setFuses (s : State) (f : Fuses) : State := { s with boot := { s.boot with fuses := f } }

/-- Fuses are blown: a bit goes from 0 to 1 and never back. -/
def Fuses.blowKey (f : Fuses) (i v : Nat) : Fuses :=
  let l := (List.range 4).map (fun k => (f.keyHash[k]?).getD 0)
  { f with keyHash := l.set i ((l[i]?).getD 0 ||| v) }

/-- An operation of the TAP (R481). -/
def State.jtag (s : State) : JtagOp → State
  | .idcode => (s.setJtag 1 s.pins.boundary).emit (.jtag s.idcode)
  | .bypass tdi => (s.setJtag 0 s.pins.boundary).emit (.jtag (tdi.toNat * 2 % 2 ^ 32))
  | .sample levels => (s.setJtag 3 levels.toNat).emit (.jtag levels.toNat)
  | .extest value levels => ((s.setJtag 2 value.toNat).emit (.pins value.toNat)).emit (.jtag levels.toNat)
  | .keyHash i v => (s.setJtag 4 s.pins.boundary).setFuses (s.boot.fuses.blowKey i.toNat v.toNat)
  | .revoke v => (s.setJtag 4 s.pins.boundary).setFuses
      { s.boot.fuses with revoked := s.boot.fuses.revoked ||| v.toNat }
  | .minSvn v => (s.setJtag 4 s.pins.boundary).setFuses
      { s.boot.fuses with minSvn := s.boot.fuses.minSvn ||| v.toNat }
  | .uniqueId v => (s.setJtag 4 s.pins.boundary).setFuses { s.boot.fuses with uid := s.boot.fuses.uid ||| v.toNat }
  | .trst => s.setJtag 1 s.pins.boundary

/-- `JTAG_TAP_OPERATION` (R481). -/
def execJtagTapOperation (op : JtagOp) (s : State) : Host.Outcome State Fault Refusal := .next (s.jtag op)

end Sys2Proof.Machine
end

