-- ==== Sys2Proof/Machine/Memory.lean ====
section
/-!
DEFINITION. The memories and their protection: the HBM block code, the SRAM and MRAM codes, poison, correction tables,
spare capacity, the background scrubber and the checker self-test (R405 to R424, R487). A bit error of an array is an
operand of the command that reads the array. SRAM and MRAM words whose contents the model keeps elsewhere in the state
are stored here with data 0: both codes are linear, so a decode depends on the inverted bits alone (log entry 24).
-/

namespace Sys2Proof.Machine

/-- The memories replaced. -/
def State.setMem (s : State) (m : MemSt) : State := { s with mem := m }

/-! ## The HBM block code (R405 to R408) -/

/-- The locator of slice j (R407). -/
def locator (j : Nat) : Nat := 2 ^ (7 - j)

/-- The CRC-24 of a slice (R406). -/
def sliceCrc (b j : Nat) (data : List Byte) : Nat := crc24 (leBytes 4 (b % 2 ^ 26 + j * 2 ^ 26) ++ data)

/-- A stored slice: 32 data bytes, its CRC and its tag (Table 16-3). -/
def mkSlice (b j tag : Nat) (data : List Byte) : List Byte := data ++ leBytes 3 (sliceCrc b j data) ++ [BitVec.ofNat 8 tag]

/-- The two syndromes of the 32 codewords of a block from the slices' data bytes (R407). -/
def sumS0 (ds : List (List Byte)) : List Byte := ds.foldl xorBytes []
def sumS1 (ds : List (List Byte)) : List Byte :=
  (List.range ds.length).foldl (fun a j => xorBytes a (gfScale (locator j) ((ds[j]?).getD []))) []

/-- The data bytes of slices 6 and 7 (R407). -/
def checkSlices (ds : List (List Byte)) : List (List Byte) :=
  let a := sumS0 ds
  let c6 := gfScale (gfInv 3) (xorBytes a (sumS1 ds))
  [c6, xorBytes a c6]

/-- The eight stored slices of 192 data bytes at block address `b` under a tag (R406, R407). -/
def hbmEncode (b tag : Nat) (data : List Byte) : List (List Byte) :=
  let ds := chunks 32 6 (padTo 192 data)
  let all := ds ++ checkSlices ds
  (List.range 8).map (fun j => mkSlice b j tag ((all[j]?).getD []))

/-- The outcomes of R408. -/
inductive HbmOut where
  | good | corrected | poisoned | uninit | uncorrectable
  deriving DecidableEq, Repr

/-- What a decode finds: the outcome, the 192 data bytes, the slices it located and the set E. -/
structure HbmRead where
  outcome : HbmOut
  data : List Byte
  located : List Nat
  erased : List Nat
  deriving DecidableEq, Repr

/-- A slice's data bytes, and whether its CRC checks. -/
def sliceData (sl : List Byte) : List Byte := sl.take 32
def sliceOk (b j : Nat) (sl : List Byte) : Bool := leAt sl 32 3 = sliceCrc b j (sliceData sl)
def sliceTag (sl : List Byte) : Nat := leAt sl 35 1

/-- The slice that the syndromes of one codeword locate, if any (R408). -/
def locate (s0 s1 : Nat) : Option Nat :=
  if s0 = 0 || s1 = 0 then none else (List.range 8).find? (fun j => gfMul (locator j) s0 = s1)

/-- The slices' data bytes restored, with the slice found by its locator; `none` when they cannot be (R408). -/
def hbmRestore (e : List Nat) (ds : List (List Byte)) : Option (List (List Byte) × Option Nat) :=
  let zs := (List.range 8).map (fun j => if e.contains j then List.replicate 32 0#8 else (ds[j]?).getD [])
  let s0 := sumS0 zs
  let s1 := sumS1 zs
  match e with
  | [] =>
    let pairs := (s0.zip s1).filter (fun p => p != (0#8, 0#8))
    let us := pairs.map (fun p => locate p.1.toNat p.2.toNat)
    match us with
    | [] => some (zs, none)
    | none :: _ => none
    | some u :: t => if t.all (fun w => w = some u) then some (zs.set u (xorBytes ((zs[u]?).getD []) s0), some u) else none
  | [u] => if s1 = gfScale (locator u) s0 then some (zs.set u s0, none) else none
  | [u, w] =>
    let ru := gfScale (gfInv (Nat.xor (locator u) (locator w))) (xorBytes s1 (gfScale (locator w) s0))
    some ((zs.set u ru).set w (xorBytes s0 ru), none)
  | _ => none

/-- The decode of a block read at address `b` (R408). -/
def hbmDecode (b epoch : Nat) (failed : Option Nat) (slices : List (List Byte)) : HbmRead :=
  let bad := (List.range 8).filter (fun j => !sliceOk b j ((slices[j]?).getD []))
  let e := match failed with
    | none => bad
    | some f => f :: bad.filter (fun j => j != f)
  let stop := fun (o : HbmOut) => ({ outcome := o, data := [], located := [], erased := e } : HbmRead)
  if e.length > 2 then stop .uncorrectable
  else
    let tags := ((List.range 8).filter (fun j => !e.contains j)).map (fun j => sliceTag ((slices[j]?).getD []))
    match tags.find? (fun t => decide (5 ≤ tags.count t)) with
    | none => stop .uncorrectable
    | some t =>
      if bitAt t 4 then stop .poisoned
      else if bits t 0 4 != epoch then stop .uninit
      else
        let ds := slices.map sliceData
        match hbmRestore e ds with
        | none => stop .uncorrectable
        | some (rs, u) =>
          { outcome := if bad.isEmpty && decide (rs = ds) then .good else .corrected
            data := (rs.take 6).flatten, located := bad ++ u.toList, erased := e }

/-! ## Where a block lies (R405, R421) -/

/-- The block row of a block (R405): b[25:10] and b[4:0]. -/
def blockRow (b : Nat) : Nat := bits b 10 16 * 32 + bits b 0 5

/-- Block `c` of a block row. -/
def rowBlock (row c : Nat) : Nat := row / 32 * 1024 + c % 32 * 32 + row % 32

/-- Spare block row `e`: row 0xFFFF, pseudo-channel 0, bank e (R405). -/
def spareRow (e : Nat) : Nat := 0xFFFF * 32 + e * 2

/-- A row followed through the remap entries, a spare's own entry included. -/
def remapped (spare : Nat → Nat) (l : List Nat) : Nat → Nat → Nat
  | 0, r => r
  | n + 1, r => if l.contains r then remapped spare l n (spare (l.idxOf r)) else r

/-- Where block `b` lies after remapping. -/
def MemSt.hbmPlace (m : MemSt) (b : Nat) : Nat :=
  rowBlock (remapped spareRow m.hbmRemap 16 (blockRow b)) (bits b 5 5)

/-- Spare SRAM row and spare MRAM word: the top 16 of each memory (log entry 25). -/
def spareSram (e : Nat) : Nat := 65520 + e
def spareMram (e : Nat) : Nat := 2097136 + e

/-- Where an SRAM word lies after remapping; the tightly coupled SRAM, at word addresses from 2^23 on, has no spares. -/
def MemSt.sramPlace (m : MemSt) (a : Nat) : Nat :=
  if a < 2 ^ 23 then remapped spareSram m.sramRemap 16 (a / 128) * 128 + a % 128 else a

/-- Where an MRAM word lies after remapping. -/
def MemSt.mramPlace (m : MemSt) (a : Nat) : Nat := remapped spareMram m.mramRemap 16 a

/-- The stored slices at place `p`: as written, or as the initialization left them; `none` before it (R414). -/
def MemSt.hbmAt (m : MemSt) (p : Nat) : Option (List (List Byte)) :=
  match Store.get none m.hbm p with
  | some k => some k.slices
  | none => if m.hbmInit then some (hbmEncode p m.initEpoch []) else none

/-- Store slices at place `p`. -/
def State.hbmPut (s : State) (p : Nat) (slices : List (List Byte)) : State :=
  let v := if s.mem.hbmInit && decide (slices = hbmEncode p s.mem.initEpoch []) then none else some { slices := slices }
  s.setMem { s.mem with hbm := Store.put none s.mem.hbm p v }

/-- The bits that a disturbance inverts in slice `j`. -/
def SliceFlips.of (l : SliceFlips) (j : Nat) : Nat :=
  l.foldl (fun a p => if p.1.toNat = j then Nat.xor a p.2.toNat else a) 0

/-- Slices with a disturbance applied. -/
def flipSlices (l : SliceFlips) (slices : List (List Byte)) : List (List Byte) :=
  if l.isEmpty then slices
  else (List.range 8).map (fun j => xorBytes ((slices[j]?).getD []) (leBytes 36 (l.of j)))

/-- Bits that an upset has inverted in the array. -/
def State.hbmUpset (s : State) (p : Nat) (l : SliceFlips) : State :=
  if l.isEmpty then s
  else match s.mem.hbmAt p with
    | some sl => s.hbmPut p (flipSlices l sl)
    | none => s

/-! ## Corrections (R409, R420) -/

/-- One more correction of a unit in its table of 256 entries: a full table loses the entry with the lowest count, the
oldest first (R420). -/
def corrAdd (t : List CorrEntry) (unit clock : Nat) : List CorrEntry :=
  if t.any (fun e => e.unit = unit) then t.map (fun e => if e.unit = unit then { e with count := e.count + 1 } else e)
  else
    let n : CorrEntry := { unit := unit, count := 1, born := clock }
    if t.length < 256 then t ++ [n]
    else
      let low := t.foldl (fun a e => Nat.min a e.count) (2 ^ 64)
      let old := t.foldl (fun a e => if e.count = low then Nat.min a e.born else a) (2 ^ 64)
      dropFirst (fun e => e.count = low && e.born = old) t ++ [n]

/-- The correction table of memory `m`: 0 HBM, 1 SRAM, 2 MRAM. -/
def MemSt.table (m : MemSt) (k : Nat) : List CorrEntry := (m.corr[k]?).getD []

/-- A correcting read of a unit of memory `k`: the counters of the register file, the 1 s window and the table; a
correction that locates only the failed slice enters no table (R409, R420). -/
def State.corrected (s : State) (k unit : Nat) (located : List Nat) : State :=
  let s := s.inc (if k = 0 then F.MEM_HBM_CORR_COUNT else if k = 1 then F.MEM_SRAM_CORR_COUNT else F.MEM_MRAM_CORR_COUNT)
  let m := s.mem
  let only := k = 0 && m.dieFailed.isSome && located.all (fun j => some j = m.dieFailed)
  s.setMem { m with
    winCorr := m.winCorr.set k ((m.winCorr[k]?).getD 0 + 1)
    winSlices := located.foldl (fun w j => w.set j ((w[j]?).getD 0 + 1)) m.winSlices
    winMask := located.foldl setBit m.winMask
    corr := if only then m.corr else m.corr.set k (corrAdd (m.table k) unit m.corrClock)
    corrClock := m.corrClock + 1 }

/-- The latest uncorrectable unit (Table 16-9). -/
def State.lastErr (s : State) (addr k kind : Nat) (scrub : Bool) (slices : Nat) : State :=
  let s := (s.wr F.MEM_LAST_ERR_ADDR_ADDR addr).wr F.MEM_LAST_ERR_INFO_MEMORY k
  let s := (s.wr F.MEM_LAST_ERR_INFO_KIND kind).wr F.MEM_LAST_ERR_INFO_SCRUB (b2n scrub)
  s.wr F.MEM_LAST_ERR_INFO_SLICES slices

/-! ## HBM reads and writes (R408, R410, R416) -/

/-- A whole block written with fresh check bytes, CRCs and the current tag (R410). -/
def State.hbmWrite (s : State) (b : Nat) (data : List Byte) : State :=
  let p := s.mem.hbmPlace b
  s.hbmPut p (hbmEncode p s.mem.initEpoch data)

/-- A block written with POISON in every slice, counted and reported (R415, R416). -/
def State.poisonBlock (s : State) (b : Nat) (uninit scrub : Bool) (slices : Nat) : State :=
  let p := s.mem.hbmPlace b
  let s := s.hbmPut p (hbmEncode p (s.mem.initEpoch + 16) [])
  let s := (s.inc F.MEM_HBM_UNCORR_COUNT).wr F.MEM_ERR_STATUS_HBM_UNCORR 1
  let s := if uninit then s.wr F.MEM_ERR_STATUS_UNINIT 1 else s
  let s := s.lastErr p 0 (if uninit then 3 else 1) scrub slices
  s.raise 3 0 0x002 (p + b2n scrub * 2 ^ 32 + (if uninit then 2 else 1) * 2 ^ 34)

/-- One controller read of a block: the decode with what it counts and, when nothing can be restored, the poison of
R416. A scrub read of a poisoned block changes nothing (R419). -/
def State.hbmRead (s : State) (b : Nat) (stuck : SliceFlips) (scrub : Bool) : State × HbmRead :=
  let p := s.mem.hbmPlace b
  let r : HbmRead := match s.mem.hbmAt p with
    | none => { outcome := .uncorrectable, data := [], located := [], erased := List.range 8 }
    | some sl => hbmDecode p s.mem.initEpoch s.mem.dieFailed (flipSlices stuck sl)
  let e := r.erased.foldl setBit 0
  match r.outcome with
  | .good => (s, r)
  | .corrected => (s.corrected 0 p r.located, r)
  | .poisoned => (if scrub then s else s.lastErr p 0 2 scrub e, r)
  | .uninit => (s.poisonBlock b true scrub e, r)
  | .uncorrectable => (s.poisonBlock b false scrub e, r)

/-- The read returned data, and not the bus error of R14. -/
def HbmRead.ok (r : HbmRead) : Bool := r.outcome = .good || r.outcome = .corrected

/-- A bus error ends the work that read the unit: a host command completes with INTEGRITY and its partial effects are
discarded, a compression context is discarded (R14, R24, Tables 06-5 and 16-5). -/
def State.busError (s : State) : MemUser → State
  | .command src =>
    match s.cmdOf src with
    | some c => if c.stage.isAdmitted then (s.discardWork c).fail c stIntegrity else s
    | none => s
  | .context st => (s.freeCtx st.toNat).wr F.TNS_ERR_STATUS_CTX_POISON 1
  | _ => s

/-- The HBM that the device allocates, in bytes: stream contexts, compression contexts, the object map cache, the gather,
ingest and tape buffer, rebuild buffers, and sample overflow with scratch and self-test (Table 01-2). -/
def hbmAllocation : List Nat :=
  [128 * 2 ^ 20, 1280 * 2 ^ 20, 4 * 2 ^ 30, 4 * 2 ^ 30, 2 ^ 30, 1408 * 2 ^ 20]

/-- A block that lies, if only with its last bytes, in the controller's own 256 MiB at the top of the protected space, past
all that the device allocates (R15, R405). -/
def hbmReserved (b : Nat) : Bool := decide (hbmAllocation.sum < 192 * (b + 1))

/-- No other block than the controller uses its region: the model lets such an access reach nothing (R15; log 73). -/
def MemUser.barred (u : MemUser) (b : Nat) : Bool := hbmReserved b && u != .controller

/-! ## The SRAM code (R412) -/

/-- The columns of the 72 code bits: data bits 0 to 63, then check bits 0 to 7 (R412). -/
def sramColumns : List Nat :=
  (List.range 256).filter (fun v => popCount 8 v = 3) ++ ((List.range 256).filter (fun v => popCount 8 v = 5)).take 8 ++
    (List.range 8).map (fun k => 2 ^ k)

/-- The exclusive or of the columns of the ones among the 72 code bits. -/
def sramSyndrome (w : Nat) : Nat :=
  (List.range 72).foldl (fun a i => if bitAt w i then Nat.xor a ((sramColumns[i]?).getD 0) else a) 0

/-- The parity of a word address. -/
def addrParity (a : Nat) : Bool := popCount 24 a % 2 = 1

/-- A word as written: data, check bits and address parity (R412). -/
def sramEncode (a data : Nat) : SramWord :=
  { data := data % 2 ^ 64, check := sramSyndrome (data % 2 ^ 64), ap := addrParity a }

/-- The 73 stored bits: data, check, AP. -/
def SramWord.bits (w : SramWord) : Nat := w.data + w.check * 2 ^ 64 + b2n w.ap * 2 ^ 72
def SramWord.ofBits (x : Nat) : SramWord :=
  { data := Machine.bits x 0 64, check := Machine.bits x 64 8, ap := bitAt x 72 }

/-- What an SRAM or MRAM read finds: data; data with one or two bits corrected; nothing, with whether the address check
failed. -/
inductive WordRead where
  | good (data : Nat)
  | corrected (data : Nat) (bits : Nat)
  | bad (address : Bool)
  deriving DecidableEq, Repr

/-- The decode of R412: the address check comes first. -/
def sramDecode (a x : Nat) : WordRead :=
  if bitAt x 72 != addrParity a then .bad true
  else
    let y := sramSyndrome (bits x 0 72)
    if y = 0 then .good (bits x 0 64)
    else if sramColumns.contains y then .corrected (bits (Nat.xor x (2 ^ sramColumns.idxOf y)) 0 64) 1
    else .bad false

/-! ## The MRAM code (R413) -/

/-- The generator: the product of the minimal polynomials of α and α^3 over GF(2), 0x11D and 0x177. -/
def bchGen : Nat := 0x16F63

/-- The remainder of a polynomial of degree below 144 by the generator. -/
def bchRem (x : Nat) : Nat :=
  (List.range 128).foldl (fun r i => let k := 143 - i
                                     if bitAt r k then Nat.xor r (bchGen * 2 ^ (k - 16)) else r) x

/-- A word as written: 128 data bits above 16 check bits (R413). -/
def mramEncode (data : Nat) : Nat := data % 2 ^ 128 * 2 ^ 16 + bchRem (data % 2 ^ 128 * 2 ^ 16)

/-- The powers of α for the 144 stored bits. -/
def bchPowers : Nat → Nat → List Nat
  | 0, _ => []
  | n + 1, a => a :: bchPowers n (gfDouble a)
def bchAlpha : List Nat := bchPowers 144 1

/-- A cube in GF(2^8). -/
def gfCube (a : Nat) : Nat := gfMul a (gfMul a a)

/-- The bits in error: none, one or two of the stored bits, or more than can be found (R413). -/
def bchErrors (x : Nat) : Option (List Nat) :=
  let (s1, s3) := (bchAlpha.zip (List.range 144)).foldl
    (fun p q => if bitAt x q.2 then (Nat.xor p.1 q.1, Nat.xor p.2 (gfCube q.1)) else p) (0, 0)
  if s1 = 0 then (if s3 = 0 then some [] else none)
  else if s3 = gfCube s1 then (if bchAlpha.contains s1 then some [bchAlpha.idxOf s1] else none)
  else
    match (bchAlpha.zip (List.range 144)).find? (fun q =>
        let o := Nat.xor s1 q.1
        bchAlpha.contains o && Nat.xor (gfCube q.1) (gfCube o) = s3) with
    | some q => some [q.2, bchAlpha.idxOf (Nat.xor s1 q.1)]
    | none => none

/-- The decode of R413. -/
def mramDecode (x : Nat) : WordRead :=
  match bchErrors x with
  | none => .bad false
  | some [] => .good (x / 2 ^ 16)
  | some es => .corrected (es.foldl (fun a i => Nat.xor a (2 ^ i)) x / 2 ^ 16) es.length

/-! ## SRAM and MRAM words in the state (R417, R487) -/

/-- The stored bits of word `a` of SRAM (memory 1) or MRAM (memory 2) at its place. -/
def MemSt.wordAt (m : MemSt) (k p : Nat) : Nat :=
  if k = 1 then ((Store.get none m.sram p).getD (sramEncode p 0)).bits else Store.get 0 m.mram p

/-- Store the bits of a word. -/
def State.wordPut (s : State) (k p x : Nat) : State :=
  if k = 1 then
    let w := SramWord.ofBits x
    s.setMem { s.mem with sram := Store.put none s.mem.sram p (if w = sramEncode p 0 then none else some w) }
  else s.setMem { s.mem with mram := Store.put 0 s.mem.mram p (x % 2 ^ 144) }

/-- Where a word of SRAM or MRAM lies. -/
def MemSt.wordPlace (m : MemSt) (k a : Nat) : Nat := if k = 1 then m.sramPlace a else m.mramPlace a

/-- The decode of a word of memory `k`. -/
def wordDecode (k p x : Nat) : WordRead := if k = 1 then sramDecode p x else mramDecode x

/-- A word of data as memory `k` stores it. -/
def wordEncode (k p d : Nat) : Nat := if k = 1 then (sramEncode p d).bits else mramEncode d

/-- A correction-table unit for a word: the tightly coupled SRAM has none. -/
def tabled (k a : Nat) : Bool := k = 2 || decide (a < 2 ^ 23)

/-- An uncorrectable word: SRAM is written with data 0 and check byte 0xFF, MRAM keeps its contents; the event follows
(R417). -/
def State.wordBad (s : State) (k p : Nat) (address scrub : Bool) : State :=
  if k = 1 then
    let s := s.wordPut 1 p (0xFF * 2 ^ 64 + b2n (addrParity p) * 2 ^ 72)
    let s := (s.inc F.MEM_SRAM_UNCORR_COUNT).wr F.MEM_ERR_STATUS_SRAM_UNCORR 1
    (s.lastErr p 1 (if address then 4 else 1) scrub 0).raise 3 1 0x005 (p + b2n address * 2 ^ 32)
  else
    let s := (s.inc F.MEM_MRAM_UNCORR_COUNT).wr F.MEM_ERR_STATUS_MRAM_UNCORR 1
    (s.lastErr p 2 1 scrub 0).raise 3 2 0x007 p

/-- One controller read of a word, with what it counts and reports (R412, R413, R417, R420). -/
def State.wordRead (s : State) (k a stuck : Nat) (scrub : Bool) : State × WordRead :=
  let p := s.mem.wordPlace k a
  let r := wordDecode k p (Nat.xor (s.mem.wordAt k p) stuck)
  match r with
  | .good _ => (s, r)
  | .corrected _ n =>
    let s := if tabled k p then s.corrected k p [] else s.inc F.MEM_SRAM_CORR_COUNT
    (if k = 2 && n = 2 then s.raise 3 2 0x006 p else s, r)
  | .bad ad => (s.wordBad k p ad scrub, r)

/-- Bits that an upset has inverted in a word. -/
def State.wordUpset (s : State) (k a upset : Nat) : State :=
  if upset = 0 then s
  else
    let p := s.mem.wordPlace k a
    s.wordPut k p (Nat.xor (s.mem.wordAt k p) upset)

/-- The owner rewrites a word: it holds a code word again (R417). -/
def State.wordFixed (s : State) (k a : Nat) : State :=
  let p := s.mem.wordPlace k a
  s.wordPut k p (wordEncode k p 0)

/-! ## Failed die and correction windows (R409, R424) -/

/-- A die is declared failed; at most one ever is (R409). -/
def State.declareDie (s : State) (j : Nat) : State :=
  let s := s.setMem { s.mem with dieFailed := some j }
  let s := (s.wr F.MEM_STATUS_DIE_FAILED 1).wr F.MEM_STATUS_FAILED_SLICE j
  (s.wr F.MEM_ERR_STATUS_DIE_FAILED 1).raise 3 0 0x004 j

/-- A slice that accounts for 1,024 corrections within the window. -/
def MemSt.dieDue (m : MemSt) (j : Nat) : Bool := m.dieFailed.isNone && decide (1024 ≤ (m.winSlices[j]?).getD 0)

/-- `DIE_FAILURE_DECLARED`: slice `slice` has accounted for 1,024 corrections within the 1 s window (R409). -/
def execDieFailureDeclared (slice : BitVec 3) (s : State) : Host.Outcome State Fault Refusal :=
  if s.mem.dieDue slice.toNat then .next (s.declareDie slice.toNat) else .next s

/-- The event of a window with corrections in memory `k`. -/
def State.windowEvent (s : State) (k : Nat) : State :=
  let n := (s.mem.winCorr[k]?).getD 0
  if n = 0 then s
  else s.raise 3 k 0x001 (Nat.min n (2 ^ 32 - 1) + (if k = 0 then s.mem.winMask % 256 else 0) * 2 ^ 32)

/-- `CORRECTION_WINDOW_END`: a failure due in the window is declared, the corrections of the window are reported, one
item per memory, and the counts restart (R409, R424). -/
def execCorrectionWindowEnd (s : State) : Host.Outcome State Fault Refusal :=
  let s := match (List.range 8).find? (fun j => s.mem.dieDue j) with
    | some j => s.declareDie j
    | none => s
  let s := ((s.windowEvent 0).windowEvent 1).windowEvent 2
  .next (s.setMem { s.mem with winSlices := List.replicate 8 0, winCorr := [0, 0, 0], winMask := 0 })

/-! ## Remapping (R421, R422) -/

/-- The remap entries of memory `k`. -/
def MemSt.remaps (m : MemSt) (k : Nat) : List Nat := if k = 0 then m.hbmRemap else if k = 1 then m.sramRemap else m.mramRemap

/-- The row or word of a unit, by which it is remapped. -/
def remapUnit (k unit : Nat) : Nat := if k = 0 then blockRow unit else if k = 1 then unit / 128 else unit

/-- The registers of the memory controller whose values lie in MRAM: failed die, epoch, remap entries (R409, R414,
R421, Tables 16-9 and 18-3). -/
def State.showMram (s : State) : State :=
  let m := s.mem
  let s := (s.wr F.MEM_STATUS_DIE_FAILED (b2n m.dieFailed.isSome)).wr F.MEM_STATUS_FAILED_SLICE (m.dieFailed.getD 0)
  let s := s.wr F.MEM_STATUS_INIT_EPOCH m.initEpoch
  let s := (s.wr F.MEM_REMAP_USED_HBM m.hbmRemap.length).wr F.MEM_REMAP_USED_SRAM m.sramRemap.length
  let s := s.wr F.MEM_REMAP_USED_MRAM m.mramRemap.length
  let put := fun (rowF validF : Field) (l : List Nat) (s : State) => (List.range 16).foldl (fun s e =>
    (s.wri rowF e ((l[e]?).getD 0)).wri validF e (b2n (e < l.length))) s
  put F.MEM_MRAM_REMAP_WORD F.MEM_MRAM_REMAP_VALID m.mramRemap
    (put F.MEM_SRAM_REMAP_ROW F.MEM_SRAM_REMAP_VALID m.sramRemap
      (put F.MEM_HBM_REMAP_ROW F.MEM_HBM_REMAP_VALID m.hbmRemap s))

/-- Copy a block to its spare, decoding it: what cannot be restored is copied as poisoned. -/
def State.copyBlock (s : State) (src dst : Nat) : State :=
  match Store.get none s.mem.hbm src with
  | none => s.setMem { s.mem with hbm := Store.put none s.mem.hbm dst none }
  | some k =>
    let r := hbmDecode src s.mem.initEpoch s.mem.dieFailed k.slices
    s.hbmPut dst (if r.ok then hbmEncode dst s.mem.initEpoch r.data else hbmEncode dst (s.mem.initEpoch + 16) [])

/-- Copy a word to its spare, decoding it: what cannot be restored stays uncorrectable. -/
def State.copyWord (s : State) (k src dst : Nat) : State :=
  let x := s.mem.wordAt k src
  match wordDecode k src x with
  | .good d => s.wordPut k dst (wordEncode k dst d)
  | .corrected d _ => s.wordPut k dst (wordEncode k dst d)
  | .bad _ => s.wordPut k dst (if k = 1 then 0xFF * 2 ^ 64 + b2n (addrParity dst) * 2 ^ 72 else x)

/-- Copy a row or word to spare `e`. -/
def State.copyUnit (s : State) (k row e : Nat) : State :=
  if k = 0 then (List.range 32).foldl (fun s c => s.copyBlock (rowBlock row c) (rowBlock (spareRow e) c)) s
  else if k = 1 then (List.range 128).foldl (fun s c => s.copyWord 1 (row * 128 + c) (spareSram e * 128 + c)) s
  else s.copyWord 2 row (spareMram e)

/-- A hard fault: the unit is remapped to the next free spare, or the full table is reported once (R421, R422). -/
def State.remapTo (s : State) (k unit : Nat) : State :=
  let l := s.mem.remaps k
  let row := remapUnit k unit
  if 16 ≤ l.length then
    let s := s.wr F.MEM_ERR_STATUS_REMAP_FULL 1
    if (s.mem.fullTold[k]?).getD false then s
    else (s.setMem { s.mem with fullTold := s.mem.fullTold.set k true }).raise 3 k 0x008 0
  else
    let e := l.length
    let s := s.copyUnit k row e
    let m := s.mem
    let s := s.setMem { m with
      hbmRemap := if k = 0 then m.hbmRemap ++ [row] else m.hbmRemap
      sramRemap := if k = 1 then m.sramRemap ++ [row] else m.sramRemap
      mramRemap := if k = 2 then m.mramRemap ++ [row] else m.mramRemap
      corr := m.corr.set k ((m.table k).filter (fun c => remapUnit k c.unit != row)) }
    s.showMram.raise 3 k 0x003 (row + e * 2 ^ 24)

/-- A unit with a hard fault: its count has reached 3 and its row or word has no entry yet (R420). -/
def MemSt.hardFault (m : MemSt) (k unit : Nat) : Bool :=
  (m.table k).any (fun c => c.unit = unit && decide (3 ≤ c.count)) && !(m.remaps k).contains (remapUnit k unit)

/-- `HARD_FAULT_REMAP`: the correction count of a unit of memory `memory` has reached 3 (R420 to R422). -/
def execHardFaultRemap (memory : BitVec 2) (unit : BitVec 26) (s : State) : Host.Outcome State Fault Refusal :=
  if s.mem.hardFault memory.toNat unit.toNat then .next (s.remapTo memory.toNat unit.toNat) else .next s

/-- `SCRUB_PASS_START`: a pass window of a memory starts: hard faults of the last one that still wait are remapped, the
correction table is cleared and the pass begins at the first unit (R418, R420). -/
def execScrubPassStart (memory : BitVec 2) (s : State) : Host.Outcome State Fault Refusal :=
  let k := memory.toNat
  if 3 ≤ k then .next s
  else
    let due := ((s.mem.table k).filter (fun c => decide (3 ≤ c.count))).map (·.unit)
    let s := due.foldl (fun s u => if s.mem.hardFault k u then s.remapTo k u else s) s
    let s := if k = 0 then s.wr F.MEM_SCRUB_POS_BLOCK 0 else s
    let m := s.mem
    .next (s.setMem { m with corr := m.corr.set k [], scrubDone := m.scrubDone.set k false
                             posSram := if k = 1 then 0 else m.posSram, posMram := if k = 2 then 0 else m.posMram })

/-! ## Scrub reads (R418, R419) -/

/-- A verify read of a block, written back when it corrects (R419). -/
def State.hbmVerify (s : State) (b : Nat) (stuck : SliceFlips) : State × HbmRead :=
  let (s, r) := s.hbmRead b stuck true
  (if r.outcome = .corrected then s.hbmWrite b r.data else s, r)

/-- A scrub read of a block: a corrected block is written back and read twice more within the same operation; a block
that is poisoned already changes nothing. -/
def State.hbmScrub (s : State) (b : Nat) (stuck : SliceFlips) : State × Bool :=
  let (s, r) := s.hbmVerify b stuck
  if r.outcome = .corrected then
    let (s, r1) := s.hbmVerify b stuck
    let (s, r2) := s.hbmVerify b stuck
    (s, r1.ok && r2.ok)
  else (s, r.ok || r.outcome = .poisoned)

/-- A verify read of a word, written back when it corrects. -/
def State.wordVerify (s : State) (k a stuck : Nat) : State × WordRead :=
  let (s, r) := s.wordRead k a stuck true
  match r with
  | .corrected d _ => (s.wordPut k (s.mem.wordPlace k a) (wordEncode k (s.mem.wordPlace k a) d), r)
  | _ => (s, r)

/-- The read found data. -/
def WordRead.ok : WordRead → Bool
  | .bad _ => false
  | _ => true

/-- A scrub read of a word. -/
def State.wordScrub (s : State) (k a stuck : Nat) : State × Bool :=
  let (s, r) := s.wordVerify k a stuck
  match r with
  | .corrected _ _ =>
    let (s, r1) := s.wordVerify k a stuck
    let (s, r2) := s.wordVerify k a stuck
    (s, r1.ok && r2.ok)
  | _ => (s, r.ok)

/-- The next unit of the pass of memory `k`, and the units a pass reads. -/
def State.scrubPos (s : State) (k : Nat) : Nat :=
  if k = 0 then s.rd F.MEM_SCRUB_POS_BLOCK else if k = 1 then s.mem.posSram else s.mem.posMram
def scrubUnits (k : Nat) : Nat := if k = 0 then 2 ^ 26 else if k = 1 then 2 ^ 23 else 2 ^ 21

/-- The pass moves to its next unit. -/
def State.scrubNext (s : State) (k : Nat) : State :=
  let n := s.scrubPos k + 1
  let fin := decide (scrubUnits k ≤ n)
  let s := if k = 0 then s.wr F.MEM_SCRUB_POS_BLOCK n else s
  s.setMem { s.mem with
    posSram := if k = 1 then (if fin then 0 else n) else s.mem.posSram
    posMram := if k = 2 then (if fin then 0 else n) else s.mem.posMram
    scrubDone := s.mem.scrubDone.set k fin }

/-! ## Initialization and self-test (R414, R423) -/

/-- Every SRAM word written with data 0 (R414). -/
def State.initSram (s : State) : State := s.setMem { s.mem with sram := [] }

/-- The initialization of HBM and SRAM under the next epoch (R414). -/
def State.initMemories (s : State) : State :=
  let s := s.setMem { s.mem with hbm := [], hbmInit := true, sram := []
                                 initEpoch := (s.mem.initEpoch + 1) % 16 }
  (s.wr F.MEM_STATUS_INIT_EPOCH s.mem.initEpoch).wr F.MEM_STATUS_INIT_DONE 1

/-- Every byte of a slice's data xored with a value. -/
def xorData (v : Byte) (sl : List Byte) : List Byte := (sliceData sl).map (fun b => b ^^^ v) ++ sl.drop 32

/-- The slices of a block with some slices altered: a value for the data bytes, and whether the CRC is computed anew. -/
def injected (b tag : Nat) (data : List Byte) (js : List (Nat × Byte)) (fresh : Bool) : List (List Byte) :=
  js.foldl (fun sl p =>
    let t := xorData p.2 ((sl[p.1]?).getD [])
    sl.set p.1 (if fresh then mkSlice b p.1 tag (sliceData t) else t)) (hbmEncode b tag data)

/-- The read of an injected block answers `o`, with the data restored when it is CORRECTED or GOOD. -/
def readsAs (b epoch : Nat) (data : List Byte) (sl : List (List Byte)) (o : HbmOut) : Bool :=
  let r := hbmDecode b epoch none sl
  r.outcome = o && (!r.ok || decide (r.data = data))

/-- A case of Table 16-6 passes on block `b` with the pattern `data`, no die being declared failed; the SRAM and MRAM
cases take word address `b` and the pattern as a number. -/
def caseHolds (n b epoch : Nat) (data : List Byte) : Bool :=
  let d := ofLe data
  let sw := (sramEncode b d).bits
  let mw := mramEncode d
  let corr := fun (r : WordRead) (want : Nat) => match r with
    | .corrected x _ => decide (x = want)
    | _ => false
  match n with
  | 1 => readsAs b epoch data (hbmEncode b epoch data) .good
  | 2 => (List.range 8).all (fun j => readsAs b epoch data (injected b epoch data [(j, 0xFF#8)] false) .corrected)
  | 3 => readsAs b epoch data (injected b epoch data [(4, 0x5C#8)] true) .corrected
  | 4 => readsAs b epoch data (injected b epoch data [(1, 0xFF#8), (6, 0xFF#8)] false) .corrected
  | 5 => readsAs b epoch data (injected b epoch data [(0, 0xFF#8), (3, 0xFF#8), (7, 0xFF#8)] false) .uncorrectable
  | 6 => readsAs b epoch data (injected b epoch data [(2, 0x01#8), (5, 0x80#8)] true) .uncorrectable
  | 7 => readsAs b epoch data (hbmEncode b (epoch + 16) data) .poisoned
  | 8 => readsAs b epoch data (hbmEncode b ((epoch + 1) % 16) data) .uninit
  | 9 => readsAs (Nat.xor b 1) epoch data (hbmEncode b epoch data) .uncorrectable
  | 10 => (List.range 72).all (fun i => corr (sramDecode b (Nat.xor sw (2 ^ i))) (d % 2 ^ 64))
  | 11 => sramDecode b (Nat.xor sw (1 + 2 ^ 63)) = .bad false
  | 12 => sramDecode b (Nat.xor sw (2 ^ 72)) = .bad true
  | 13 => (List.range 144).all (fun i => corr (mramDecode (Nat.xor mw (2 ^ i))) (d % 2 ^ 128))
  | 14 => corr (mramDecode (Nat.xor mw (2 ^ 5 + 2 ^ 140))) (d % 2 ^ 128)
  | _ => mramDecode (Nat.xor mw (2 ^ 141 + 2 ^ 142 + 2 ^ 143)) = .bad false

/-- The results of a self-test whose failed cases are `failed` (R423). -/
def State.selfTestResult (s : State) (failed : List Nat) : State :=
  let pass := b2n failed.isEmpty
  let s := (s.wr F.MEM_SELFTEST_DONE 1).wr F.MEM_SELFTEST_PASS pass
  (s.wr F.MEM_SELFTEST_FAIL_CASE (failed.headD 0)).wr F.MEM_STATUS_SELFTEST_PASS pass

/-- A write of `MEM.SELFTEST.RUN` runs the cases in order. The decoders of the model answer every case as Table 16-6
expects (`caseHolds`); the cases that fail for a fault of the hardware are given. Each raises event 0x00A (R423). -/
def State.selfTestRun (s : State) (failed : List (BitVec 4)) : State :=
  let f := ((List.range 16).drop 1).filter (fun n => failed.contains (BitVec.ofNat 4 n))
  let s := s.selfTestResult f
  f.foldl (fun s n => (s.wr F.MEM_ERR_STATUS_SELFTEST_FAIL 1).raise 3
    (if n ≤ 9 then 0 else if n ≤ 12 then 1 else 2) 0x00A n) s

/-- `MEM_SELFTEST_RUN` (R423). -/
def execMemSelftestRun (failed : List (BitVec 4)) (s : State) : Host.Outcome State Fault Refusal :=
  .next (s.selfTestRun failed)

/-! ## The stream sequence table (R48, R387, R417, R488) -/

/-- Both entries of a word of the stream sequence table are lost in solo; in a group the other device's copy restores
them (log entry 44). -/
def State.seqLost (s : State) (off : Nat) : State :=
  if s.inGroup then s
  else
    let st := (off - 0x800000) / 16 * 2
    let e : SeqEntry := { lastSeq := 0, gen := 0, state := 2, unknown := true }
    { s with obj := { s.obj with seqTab := Store.put SeqEntry.init (Store.put SeqEntry.init s.obj.seqTab st e) (st + 1) e } }

/-- The words of the stream sequence table that MRAM does not give back (R413, R487). -/
def MemSt.badSeqWords (m : MemSt) : List Nat :=
  (m.mram.filter (fun p => 0x80000 ≤ p.1 && p.1 < 0x100000 && (match mramDecode p.2 with
    | .bad _ => true
    | _ => false))).map (fun p => p.1)

/-- The check of the sequence table after an unclean shutdown: every stream whose entry cannot be confirmed becomes
UNVERIFIED (Table 02-4). -/
def State.checkSeqTable (s : State) : State := s.mem.badSeqWords.foldl (fun s w => s.seqLost (16 * w)) s

end Sys2Proof.Machine
end

