-- ==== Sys2Proof/Machine/Mgmt.lean ====
section
/-!
DEFINITION. The management path and MGMT packets: requests and answers, commands that a lead runs on a member, ADMIN
requests that a member forwards, the management bus, and a member's silence (R329, R334, R337 to R340, R480).
-/

namespace Sys2Proof.Machine

/-! ## Commands of the lead at a member (R340) -/

/-- Bytes of data that a member-local command takes: those of a KEY_LOAD LOAD and of an IMAGE_WRITE. -/
def Frame.mgmtNeed (f : Frame) : Nat := if f.opcode = 0x32 || f.opcode = 0x33 then f.length else 0

/-- The outcome of a member-local command goes to the lead that sent it. -/
def State.sendDone (s : State) (m : MgmtCmd) : State :=
  s.sendSeq m.lead 0x1B (mgmtHead 2 0 m.tag 0 0 ++ leBytes 32 m.entry) none

/-- Outcomes that the lead has not heard yet leave (log entry 41). -/
def State.tellMgmt (s : State) : State :=
  let due := s.grp.mgmtCmds.filter (fun m => m.done && !m.told)
  let s := s.setGrp { s.grp with mgmtCmds := s.grp.mgmtCmds.map (fun m => if m.done then { m with told := true } else m) }
  due.foldl State.sendDone s

/-- A member-local command starts once its data is whole: it becomes a command of the device with its TAG as source. -/
def State.startMgmt (s : State) (m : MgmtCmd) : State :=
  let src : Src := .mgmt (BitVec.ofNat 16 m.tag)
  let s := s.arrive src false 0 .normal m.frame .admitted
  match s.cmdOf src with
  | some c => s.setCmd { c with data := m.data, asked := m.data.length }
  | none => s

/-- A CMD packet: a TAG that is executing is ignored, one that is done is answered again; a new one, or further data of
one, is taken, and the last 16 TAGs are kept. -/
def State.takeMgmtCmd (s : State) (lead part tag off : Nat) (f : Frame) (data : List Byte) : State :=
  match s.grp.mgmtCmds.find? (fun m => m.tag = tag && m.lead = lead) with
  | some m =>
    if m.done then s.sendDone m
    else if f.mgmtNeed ≤ m.data.length || off != m.data.length then s
    else
      let m' := { m with data := m.data ++ data }
      let s := s.setGrp { s.grp with mgmtCmds := s.grp.mgmtCmds.map (fun x => if x = m then m' else x) }
      if f.mgmtNeed ≤ m'.data.length then s.startMgmt m' else s
  | none =>
    if off != 0 then s
    else
      let m : MgmtCmd := { lead := lead, told := false, tag := tag, frame := f, part := part, data := data, done := false
                           entry := 0 }
      let l := s.grp.mgmtCmds ++ [m]
      let s := s.setGrp { s.grp with mgmtCmds := l.drop (l.length - 16) }
      if f.mgmtNeed ≤ data.length then s.startMgmt m else s

/-! ## Their outcomes at the lead -/

/-- A command whose member parts have all ended goes on. -/
def State.partsEnded (s : State) (src : Src) : State :=
  match s.cmdOf src with
  | none => s
  | some c =>
    if s.awaiting src then s
    else if c.frame.opcode = 0x30 then s.finish c c.prog c.res c.aux
    else if c.frame.opcode = 0x32 then s.keyDone c
    else if c.frame.opcode = 0x33 then s.writeStep c.uid
    else if c.frame.opcode = 0x34 then s.activateStep c
    else s

/-- One part of a command has ended on a member with a status, RESULT and AUX: the first status other than success stays;
RESULT and AUX of a success count where no part runs on the lead itself. -/
def State.partDone (s : State) (o : MgmtOut) (status result aux : Nat) : State :=
  let s := s.setGrp { s.grp with mgmtOut := s.grp.mgmtOut.filter (fun x => x.tag != o.tag) }
  match o.src with
  | none => s
  | some src =>
    match s.cmdOf src with
    | none => s
    | some c =>
      let c := if status != 0 then c.note status result aux
        else if c.prog = 0 && !s.hits c then { c with res := result, aux := aux } else c
      (s.setCmd c).partsEnded src

/-- A CMD_DONE packet: the 32 B completion entry of a TAG. -/
def State.takeMgmtDone (s : State) (member tag entry : Nat) : State :=
  match s.grp.mgmtOut.find? (fun o => o.tag = tag && o.target = member) with
  | some o => s.partDone o (bits entry 128 16) (bits entry 0 64) (bits entry 192 64)
  | none => s

/-- Parts on a member that is lost end with MEMBER_UNREACHABLE. -/
def State.losePeer (s : State) (m : Nat) : State :=
  (s.grp.mgmtOut.filter (fun o => o.target = m)).foldl (fun s o => s.partDone o stMemberUnreachable 0 0) s

/-! ## ADMIN on the way to the lead (R338, R339) -/

/-- A MGMT packet's payload (Tables 13-14, 13-15); operations outside the table are discarded. `hold` is what is known of
the maps of other devices (log entry 35). -/
def State.takeMgmt (s : State) (src : Nat) (l : List Byte) (hold : Nat) : State :=
  let body := l.drop 16
  let tag := leAt l 2 2
  match leAt l 0 1 with
  | 1 => s.takeMgmtCmd src (leAt l 1 1) tag (leAt l 4 4) (Frame.ofBits (leAt body 0 64)) (body.drop 64)
  | 2 => s.takeMgmtDone src tag (leAt body 0 32)
  | 3 =>
    if s.isLead then s.adminAsk (src, tag, leAt l 8 8, body.take 17 ++ leBytes 8 hold) else s.answerAdmin src tag 4 []
  | 4 =>
    (match s.grp.adminOut.find? (fun p => p.1 = tag) with
     | some p =>
       (s.setGrp { s.grp with adminOut := s.grp.adminOut.filter (fun x => x.1 != tag) }).mgmtReply 5 p.2 (leAt body 0 1)
         (body.drop 4)
     | none => s)
  | _ => s

/-! ## Requests on the management path (R337 to R339) -/

/-- Answer a request that this device decides: a BASE_EPOCH that is not 0 has to be the epoch. -/
def State.mgmtAnswer (s : State) (cmd tag base rc : Nat) (body : List Byte) : State :=
  if base != 0 && base != s.epoch then s.mgmtReply cmd tag 1 [] else s.mgmtReply cmd tag rc body

/-- `MGMT_GET_MEMBERSHIP`: id, role, state and the device's own record, zeros without one. -/
def execMgmtGetMembership (tag : BitVec 8) (base : BitVec 64) (s : State) : Host.Outcome State Fault Refusal :=
  let rec' := match s.grp.mrec with
    | some r => r.bytes
    | none => List.replicate 1024 0#8
  .next (s.mgmtAnswer 1 tag.toNat base.toNat 0
    (leBytes 1 s.myId ++ leBytes 1 s.role ++ leBytes 1 (s.shown F.GRP_STATUS_STATE 0 0) ++ leBytes 1 0 ++ rec'))

/-- `MGMT_READ_EVENT`: one event item is popped, unless the epoch is stale (R71, R338). -/
def execMgmtReadEvent (tag : BitVec 8) (base : BitVec 64) (s : State) : Host.Outcome State Fault Refusal :=
  if base.toNat != 0 && base.toNat != s.epoch then .next (s.mgmtReply 2 tag.toNat 1 [])
  else
    let s := s.popEvt
    .next (s.mgmtReply 2 tag.toNat 0
      (leBytes 4 (s.rd F.HIF_EVT_DATA0_WORD0) ++ leBytes 4 (s.rd F.HIF_EVT_DATA1_WORD1) ++
        leBytes 4 (s.rd F.HIF_EVT_DATA2_WORD2) ++ leBytes 4 (s.rd F.HIF_EVT_DATA3_WORD3)))

/-- `MGMT_HEALTH`: the health record. -/
def execMgmtHealth (tag : BitVec 8) (base : BitVec 64) (s : State) : Host.Outcome State Fault Refusal :=
  .next (s.mgmtAnswer 3 tag.toNat base.toNat 0 s.healthRecord)

/-- `MGMT_REG_READ`: a BAR0 register as R6 reads it; `HIF.EVT_DATA0`, an offset that is no register word and one beyond
BAR0 give BAD_ARG. -/
def execMgmtRegRead (tag : BitVec 8) (base : BitVec 64) (offset : Word) (s : State) : Host.Outcome State Fault Refusal :=
  let off := offset.toNat
  if base.toNat != 0 && base.toNat != s.epoch then .next (s.mgmtReply 4 tag.toNat 1 [])
  else if off = F.HIF_EVT_DATA0_WORD0.off || off % 4 != 0 || 2 ^ 26 ≤ off then .next (s.mgmtReply 4 tag.toNat 3 [])
  else
    let (s, v) := s.readReg .mgmt off
    .next (s.mgmtReply 4 tag.toNat 0 (leBytes 4 v))

/-- `MGMT_LOG_READ`: up to 16 entries from a LOG_SEQ on. -/
def execMgmtLogRead (tag : BitVec 8) (base first : BitVec 64) (count : BitVec 8) (s : State) :
    Host.Outcome State Fault Refusal :=
  let n := count.toNat
  let l := (s.logHeld.filter (fun e => first.toNat ≤ e.seq)).take n
  .next (s.mgmtAnswer 6 tag.toNat base.toNat (if 1 ≤ n && n ≤ 16 then 0 else 3) ((l.map LogEntry.bytes).flatten))

/-- `MGMT_ADMIN`: without an epoch BAD_ARG; the lead takes the request in its turn; another member forwards it, or answers
UNREACHABLE without a route to the lead (R338, R339). -/
def execMgmtAdmin (tag : BitVec 8) (base : BitVec 64) (fn : BitVec 8) (key offset holding : BitVec 64) (s : State) :
    Host.Outcome State Fault Refusal :=
  let body := leBytes 1 fn.toNat ++ leBytes 8 key.toNat ++ leBytes 8 offset.toNat
  if base.toNat = 0 then .next (s.mgmtReply 5 tag.toNat 3 [])
  else
    match s.grp.mrec with
    | none => .next (s.mgmtReply 5 tag.toNat 1 [])
    | some r =>
      if s.isLead then .next (s.adminAsk (64, tag.toNat, base.toNat, body ++ leBytes 8 holding.toNat)).groupStep
      else if 4 ≤ s.rdi F.GRP_ROUTE_PORT r.lead then .next (s.mgmtReply 5 tag.toNat 4 [])
      else
        let t := s.grp.mgmtTag
        let s := s.setGrp { s.grp with mgmtTag := (t + 1) % 65536, adminOut := s.grp.adminOut ++ [(t, tag.toNat)] }
        .next (s.sendSeq r.lead 0x1B (mgmtHead 3 0 t 0 base.toNat ++ body) none)

/-! ## The management bus (R337, R480) -/

/-- `MGMT_BUS_TIMEOUT`: MGMT_SCL has been low for 25 ms: the device releases the bus. -/
def execMgmtBusTimeout (s : State) : Host.Outcome State Fault Refusal := .next (s.emit .mgmtRelease)

/-- `MGMT_ADDRESS_ASSIGNMENT`: a dynamic address is used until RSTDAA, or an ARP reset, returns the device to its static
address 0x1D. -/
def execMgmtAddressAssignment (clear : Bool) (addr : BitVec 7) (s : State) : Host.Outcome State Fault Refusal :=
  .next (s.setGrp { s.grp with mgmtAddr := if clear then 0x1D else addr.toNat })

/-- The answer to an MCTP control command (log entry 42): completion code and data. -/
def State.mctpAnswer (s : State) (cmd : Nat) : List Byte :=
  match cmd with
  | 1 => leBytes 1 0 ++ leBytes 1 0 ++ leBytes 1 s.grp.mgmtEid ++ leBytes 1 0
  | 2 => leBytes 1 0 ++ leBytes 1 s.grp.mgmtEid ++ leBytes 1 0 ++ leBytes 1 0
  | 3 => leBytes 1 0 ++ leBytes 16 s.uniqueId
  | 4 => leBytes 1 0 ++ leBytes 1 1 ++ leBytes 4 0x00F0F1F1
  | 5 => leBytes 1 0 ++ leBytes 1 1 ++ leBytes 1 0x7F
  | 6 => leBytes 1 0 ++ leBytes 1 0xFF ++ leBytes 1 1 ++ (leBytes 4 (s.rd F.GRP_MG_VENDOR_VENDOR)).reverse ++ leBytes 2 0
  | _ => leBytes 1 5

/-- `MCTP_CONTROL_MESSAGE`: a base control request is answered; Set Endpoint ID sets the endpoint id (R337; DSP0236). -/
def execMctpControlMessage (inst : BitVec 5) (cmd eid : BitVec 8) (s : State) :
    Host.Outcome State Fault Refusal :=
  let s := if cmd.toNat = 1 then s.setGrp { s.grp with mgmtEid := eid.toNat } else s
  .next (s.emit (.mgmt (leBytes 1 0 ++ leBytes 1 inst.toNat ++ leBytes 1 cmd.toNat ++ s.mctpAnswer cmd.toNat)))

/-! ## A member's silence (R328, R329, R334, R362) -/

/-- `MEMBER_UNREACHABLE_TIMEOUT`: LEAD_MS have passed with no MEMBER_BEAT from a member: it is unreachable to the lead,
which counts it as slow and ends what runs there for the host; a FORM in progress that named it fails. -/
def execMemberUnreachableTimeout (member : BitVec 6) (s : State) : Host.Outcome State Fault Refusal :=
  let m := member.toNat
  if s.grp.forming.isSome then .next (s.formFails m).groupStep
  else if s.isLead && m != s.myId && [2, 3, 4, 6].contains ((s.grp.mrec.map (fun r => r.state m)).getD 0) then
    let s := s.setAge m (Nat.max (s.beat m).ageMs (s.rd F.GRP_FAILOVER_LEAD_MS))
    let s := s.raise 8 m 0x008 s.epoch
    .next ((s.markSlow m).losePeer m)
  else .next s

end Sys2Proof.Machine
end

