-- ==== Sys2Proof/Machine/Peers.lean ====
section
/-!
DEFINITION. What arrives on a peer port: link frames, forwarding, the epoch and sequence checks, and the effect of every
packet type (R307, R310, R311, R313, R316 to R318, R320, R323 to R326, R329, R331, R339, R340, R346, R352, R355, R358,
R360 to R362, R365, R366).
-/

namespace Sys2Proof.Machine

/-! ## Strip packets (Tables 14-6, 14-7) -/

/-- A strip packet's payload header as numbers. -/
structure PHead where
  op : Nat
  slot : Nat
  gen : Nat
  status : Nat
  id : Nat
  offset : Nat
  count : Nat
  pos : Nat
  last : Bool
  erased : Bool
  deriving DecidableEq, Repr

/-- Read the header. -/
def headOf (l : List Byte) : PHead :=
  { op := leAt l 0 1, slot := leAt l 1 1, gen := leAt l 2 2, status := leAt l 4 4, id := leAt l 8 8, offset := leAt l 16 4
    count := leAt l 20 4, pos := leAt l 24 4, last := bitAt (leAt l 28 1) 0, erased := bitAt (leAt l 28 1) 1 }

/-- A T-mode member declares its position time for a request before it serves it (R362; log entry 2). -/
def State.declare (s : State) (dst slot gen id offset count : Nat) : State :=
  let t := (Config.value 1 s.free).toNat % 180001
  if s.tMode then
    { s with free := s.free + 1 }.sendSeq dst 3 (stripHead 3 slot gen 0 id offset count t true false) none
  else s

/-- STRIP_WRITE: bytes of a strip, or the end of every strip of the stripe up to a generation (R355, R358). -/
def State.takeStripWrite (s : State) (src : Nat) (h : PHead) (data : List Byte) : State :=
  if h.op = 1 then
    let s := if h.offset = 0 then s.declare src h.slot h.gen h.id 0 h.count else s
    s.takeStrip src h.id h.gen h.slot h.offset h.last data
  else if h.op = 2 then s.dropStrips (fun t => t.stripe = h.id && t.gen ≤ h.gen)
  else s

/-- The position time that a member declares moves the deadline of its requests for the strip (R362). -/
def State.takeEstimate (s : State) (src : Nat) (h : PHead) : State :=
  s.setRed { s.red with requests := s.red.requests.map (fun q =>
    if q.member = src && q.stripe = h.id && q.slot = h.slot then { q with posMs := Nat.min h.pos 180000 } else q) }

/-- A strip could not be written: the slot moves to another member, as when its member leaves (R357; log entry 43). -/
def State.takeStripFail (s : State) (src : Nat) (h : PHead) : State :=
  match s.stripe h.id with
  | some x => if x.jrec.gen = h.gen && x.jrec.member h.slot = src then s.moveSlot x h.slot else s
  | none => s

/-- STRIP_DATA: bytes read, a strip written and passed, a position time, or a failed write. -/
def State.takeStripReply (s : State) (src : Nat) (h : PHead) (data : List Byte) : State :=
  match h.op with
  | 1 => s.takeStripData src h.id h.slot h.status h.offset h.erased data
  | 2 => s.slotDone h.id h.gen h.slot src
  | 3 => s.takeEstimate src h
  | 4 => s.takeStripFail src h
  | _ => s

/-- A member holds a landing copy of a command that this device, a new lead, does not serve: a copy of a committed command
stays, another is released (R36, R43, R352). -/
def State.judgeCopy (s : State) (stream seq src : Nat) : State :=
  if !s.isLead || s.sq.cmds.any (fun c => c.stage = .started && c.src.stream = stream && c.frame.seq = seq) then s
  else if seqCompare (Store.get SeqEntry.init s.obj.seqTab stream) seq = .replay then
    let l := s.red.landed
    let l := if l.any (fun e => e.1 = stream && e.2.1 = seq) then
        l.map (fun e => if e.1 = stream && e.2.1 = seq && !e.2.2.contains src then (e.1, e.2.1, e.2.2 ++ [src]) else e)
      else l ++ [(stream, seq, [src])]
    s.setRed { s.red with landed := l }
  else s.sendOp src 4 3 0xFF 0 0 (landingId stream seq)

/-- LANDING: bytes of a copy, its writing, its release, or its failure (R352). -/
def State.takeLandingOp (s : State) (src : Nat) (h : PHead) (data : List Byte) : State :=
  let stream := h.id % 2 ^ 20
  let seq := h.id / 2 ^ 20 % 2 ^ 32
  match h.op with
  | 1 => s.takeLanding stream seq h.offset h.last data
  | 2 => (s.copyWritten stream seq src).judgeCopy stream seq src
  | 3 => s.releaseCopy stream seq
  | 4 => s.copyLost stream seq src
  | _ => s

/-- JOURNAL RECORDS: the own region's records stand again, a predecessor's are mirrored again, and those of a failed owner
are resumed by the lead (R358, R417). -/
def State.takeJournalRecords (s : State) (src owner : Nat) (last : Bool) (data : List Byte) : State :=
  let rs := recordsOf data
  if owner = s.myId then
    s.setRed { s.red with own := s.red.own ++ rs.filter (fun j => !s.red.own.any (fun x => x.stripe = j.stripe) &&
      (s.stripe j.stripe).isSome) }
  else if owner = src then rs.foldl (fun s j => s.takeRecord src j.bytes) s
  else if s.isLead then s.takeRecords src owner last rs
  else s

/-- JOURNAL: a mirror record, a request for a member's records, records, a directory entry, or rows; rows with SLOT 2
release the strips of an old layout (R346, R354, R355, R358, R374; log entry 28). -/
def State.takeJournal (s : State) (src : Nat) (h : PHead) (data : List Byte) : State :=
  match h.op with
  | 1 => s.takeRecord src data
  | 2 => s.answerTake src h.id
  | 3 => s.takeJournalRecords src h.id h.last data
  | 4 => s.takeDirectory (DirEntry.ofBytes data)
  | 5 =>
    if h.slot = 2 then s.dropStrips (fun t => t.stripe / 2 ^ 56 = h.id / 2 ^ 56)
    else s.takeRows (h.id / 2 ^ 56) (h.slot = 1) data
  | _ => s

/-- REBUILD: a list of a row's stripes asked for or given, source bytes asked for or given (R365, R366, R369). -/
def State.takeRebuild (s : State) (src : Nat) (h : PHead) (data : List Byte) : State :=
  match h.op with
  | 1 => s.answerList src h.id
  | 2 => s.takeList (h.id % 4096) h.last data
  | 3 => s.answerRead src 8 4 h.id h.slot h.gen h.offset ((s.strip h.id h.slot).map (fun x => s.stripRange x h.offset h.count))
  | 4 => s.takeRebuildData src h.id h.slot h.status h.offset h.last h.erased data
  | _ => s

/-! ## MAP and SEQ_MIRROR (R320, R325) -/

/-- The lead decides whether an entry that its home member proposes has committed: one whose stream sequence is later than
the committed sequence of its stream is discarded, and the home member asked again (R32, R36). -/
def State.judgeProp (s : State) (key : Nat) : State :=
  match s.obj.props.find? (fun p => p.1 = key) with
  | none => s
  | some p =>
    let e := Store.get SeqEntry.init s.obj.seqTab p.2.stream
    if seqCompare e p.2.seq = .replay then (s.settleProp key).confirmHome key
    else
      let s := (s.dropProp key).withdrawHome key
      s.sendSeq (s.homeOf key) 7 (leBytes 1 1 ++ leBytes 16 key) none

/-- The answer to a lookup: the key is absent, or a piece of its entry, or the mark that a member's entries have all
come. -/
def State.takeLookup (s : State) (src key : Nat) (l : List Byte) : State :=
  match leAt l 0 1 with
  | 0 => s.setRed { s.red with absent := s.red.absent ++ [key] }
  | 1 => s.takeEntry key (l.drop 1)
  | 2 => s.takeEntry key (l.drop 1)
  | 3 => (s.takeEntry key (l.drop 1)).judgeProp key
  | _ => { s with obj := { s.obj with awaitMaps := clrBit s.obj.awaitMaps src } }

/-- MAP: a lookup without more than the key is a request; insert and update take the entry, an update without one settles
the proposal; delete drops the entry, with a further byte the proposal alone. -/
def State.takeMap (s : State) (src : Nat) (l : List Byte) : State :=
  let key := leAt l 1 16
  match leAt l 0 1 with
  | 1 => if l.length ≤ 17 then s.answerLookup src key else s.takeLookup src key (l.drop 17)
  | 2 => s.takeEntry key (l.drop 17)
  | 3 => if l.length ≤ 17 then s.settleProp key else s.takeEntry key (l.drop 17)
  | 4 => if l.length ≤ 17 then s.dropEntry key else s.dropProp key
  | _ => s

/-- SEQ_MIRROR writes a stream's entry into this device's MRAM; under stream 2^20 it carries the end of a reservation of
nonces, behind which a new lead starts (R147). -/
def State.takeSeqMirror (s : State) (l : List Byte) : State :=
  if leAt l 0 4 = 2 ^ 20 then
    let n := Nat.max s.obj.nonceEnd (leAt l 4 8)
    { s with obj := { s.obj with nonce := n, nonceEnd := n } }
  else { s with obj := { s.obj with
    seqTab := Store.put SeqEntry.init s.obj.seqTab (leAt l 0 4 % 2 ^ 20) (SeqEntry.ofBytes (l.drop 4)) } }

/-! ## Beats and queries (R328, R329, R331, R363) -/

/-- A LEAD_BEAT arrives: the member has seen its lead and answers. -/
def State.takeLeadBeat (s : State) (src : Nat) : State :=
  (s.setGrp { s.grp with sinceBeat := 0 }).sendSeq src 0x14 s.beatBytes none

/-- A MEMBER_BEAT arrives: the member's medium, state and host link are known, and its silence is over. -/
def State.takeMemberBeat (s : State) (src : Nat) (l : List Byte) : State :=
  let b : BeatInfo := { medium := leAt l 0 1, state := leAt l 1 1, hostUp := leAt l 2 1 = 1, ageMs := 0 }
  let s := s.setGrp { s.grp with
    beats := Store.ins src b s.grp.beats
    forming := s.grp.forming.map (fun f => if bitAt f.2.1 src then (f.1, f.2.1, setBit f.2.2 src) else f) }
  if s.slowNow src then s
  else s.setRed { s.red with slowMs := s.red.slowMs.filter (fun e => e.1 != src) }

/-- A LEAD_QUERY arrives: "lost" when no LEAD_BEAT has come for half of LEAD_MS; the lead itself is never lost. -/
def State.answerQuery (s : State) (src : Nat) : State :=
  let lost := !s.isLead && decide (s.rd F.GRP_FAILOVER_LEAD_MS / 2 ≤ s.grp.sinceBeat)
  s.sendSeq src 0x18 (leBytes 1 (b2n lost) ++ leBytes 3 0) none

/-- A LEAD_QUERY_RESP arrives; with a majority of "lost" the deputy takes over. -/
def State.takeQueryResp (s : State) (src : Nat) (lost : Bool) : State :=
  match s.grp.mrec with
  | none => s
  | some r =>
    if s.grp.querying && lost && r.state src = 3 then
      (s.setGrp { s.grp with lostAnswers := setBit s.grp.lostAnswers src }).takeLead r
    else s

/-! ## Acknowledgements (R318, R324) -/

/-- An E2E_ACK releases the packets of a triple up to a SEQ; on VC 0 with SEQ 0 it acknowledges a record. -/
def State.takeAck (s : State) (src vc seq : Nat) : State :=
  if vc = 0 && seq = 0 then s.takeEpochAck src
  else s.setGrp { s.grp with
    unacked := Store.modify [] s.grp.unacked (triple src vc) (fun l => l.filter (fun x => seq < x.packet.seq)) }

/-! ## The effect of a packet (Table 13-4) -/

/-- The block of a sequenced packet takes it. -/
def State.takeSequenced (s : State) (p : Packet) (hold : Nat) : State :=
  let h := headOf p.payload
  let data := p.payload.drop 32
  match p.type with
  | 0x01 => s.takeStripWrite p.src h data
  | 0x02 => if h.op = 1 then s.takeRead p.src h.id h.slot h.gen h.offset h.count else s
  | 0x03 => s.takeStripReply p.src h data
  | 0x04 => s.takeLandingOp p.src h data
  | 0x05 => s.takeJournal p.src h data
  | 0x06 => s.takeSeqMirror p.payload
  | 0x07 => s.takeMap p.src p.payload
  | 0x08 => s.takeRebuild p.src h data
  | 0x13 => s.takeLeadBeat p.src
  | 0x14 => s.takeMemberBeat p.src p.payload
  | 0x17 => s.answerQuery p.src
  | 0x18 => s.takeQueryResp p.src (leAt p.payload 0 1 = 1)
  | 0x1B => s.takeMgmt p.src p.payload hold
  | _ => s

/-- A packet that is not sequenced takes effect. -/
def State.takePlain (s : State) (port : Nat) (p : Packet) : State :=
  let l := p.payload
  match p.type with
  | 0x10 => s.takeHello port (leAt l 0 8) (leAt l 8 1) (leAt l 9 1) (leAt l 10 8) (leAt l 18 16)
  | 0x11 => if leAt l 9 1 = 1 then s.takeAssign (leAt l 0 8) (leAt l 8 1) else s.takeProbe (leAt l 0 8) (leAt l 8 1)
  | 0x12 => s.takeLinkState port (leAt l 0 1) (leAt l 1 4) (leAt l 5 1)
  | 0x15 => s.takeEpoch p.src l
  | 0x16 => s.takeEpochReq p.src
  | 0x19 => s.takeReject p.src (leAt l 0 1) (leAt l 16 4) (leAt l 20 1)
  | 0x1A => s.takeAck p.src (leAt l 0 1) (leAt l 4 4)
  | _ => s

/-! ## The checks of a sequenced packet (R318, R321, R323) -/

/-- Refuse a packet: REJECT with the reason, the own epoch, the SEQ and the type. -/
def State.reject (s : State) (p : Packet) (reason : Nat) : State :=
  let s := s.inc F.GRP_REJECTS_COUNT
  if 64 ≤ p.src then s
  else s.sendPlain p.src 0x19 (leBytes 1 reason ++ leBytes 7 0 ++ leBytes 8 s.epoch ++ leBytes 4 p.seq ++ leBytes 1 p.type)

/-- Take a packet whose epoch is equal: the next of its triple has its effect and is acknowledged; an earlier one is
acknowledged again; a later one is discarded. -/
def State.takeNext (s : State) (p : Packet) (hold : Nat) : State :=
  let k := triple p.src p.vc
  let last := Store.get 0 s.grp.rxSeq k
  if p.seq = last + 1 then
    let s := s.setGrp { s.grp with rxSeq := Store.put 0 s.grp.rxSeq k p.seq }
    (s.takeSequenced p hold).sendPlain p.src 0x1A (ackBytes p.vc p.seq)
  else if p.seq ≤ last then s.sendPlain p.src 0x1A (ackBytes p.vc last)
  else s

/-- The record marks a member FAILED, so that nothing of it is taken (R357). -/
def State.failedPeer (s : State) (m : Nat) : Bool := (s.grp.mrec.map (fun r => decide (r.state m = 5))).getD false

/-- How an epoch compares with the device's: 0 equal, 1 newer, 2 older (R321). -/
def State.epochOrder (s : State) (e : Nat) : Nat :=
  let d := (e + 2 ^ 32 - s.epoch % 2 ^ 32) % 2 ^ 32
  if d = 0 then 0 else if d < 2 ^ 31 then 1 else 2

/-- The epoch check of R323. A packet held for a newer epoch keeps its credits. -/
def State.checked (s : State) (port : Nat) (p : Packet) (hold : Nat) : State :=
  if s.shutOut then s.reject p 2
  else
    match s.epochOrder p.epochLo with
    | 0 => if s.failedPeer p.src then s.reject p 2 else s.takeNext p hold
    | 1 => (s.setGrp { s.grp with heldNew := s.grp.heldNew ++ [(port, p)] }).sendPlain p.src 0x16 []
    | _ => s.reject p 1

/-- A packet for this device. -/
def State.receive (s : State) (port : Nat) (p : Packet) (hold : Nat) : State :=
  if sequencedType p.type then s.checked port p hold else s.takePlain port p

/-! ## What follows from a packet -/

/-- Return the credits of a packet on the port it came by (R313). -/
def State.credit (s : State) (port : Nat) (p : Packet) : State :=
  if 4 ≤ port then s else s.block port 0x66 (p.cost * 2 ^ (8 * (p.vc * 2 + p.cls)))

/-- Held packets whose epoch has been adopted are taken. -/
def State.drainNew : Nat → State → State
  | 0, s => s
  | fuel + 1, s =>
    match s.grp.heldNew.find? (fun e => s.epochOrder e.2.epochLo != 1) with
    | none => s
    | some e =>
      let s := s.setGrp { s.grp with heldNew := dropFirst (fun x => x = e) s.grp.heldNew }
      State.drainNew fuel ((s.checked 4 e.2 0).credit e.1 e.2)

/-- Parts that run on a member which the record marks FAILED or ABSENT have ended. -/
def State.loseFailed (s : State) : State :=
  match s.grp.mrec with
  | none => s
  | some r => ((s.grp.mgmtOut.map (fun o => o.target)).eraseDups.filter (fun m => r.state m = 5)).foldl State.losePeer s

/-- The group, RED and the commands go on as far as they can. -/
def State.peersStep (s : State) : State :=
  let s := State.drainNew s.grp.heldNew.length s
  let s := s.groupStep
  let s := s.loseFailed
  (s.redStep.commitReady).tellMgmt

/-- The packet that a row's operands spell, for this device. -/
def Env.packet (e : Env) (type : Nat) (payload : List Byte) : Packet :=
  { type := type, src := e.src.toNat, dst := 0xFE, hops := 0, epochLo := e.epoch.toNat, seq := e.seq.toNat
    vc := typeVc type, cls := 0, fwd := false, payload := payload }

/-- A packet arrives whole on a port that is up: its effect and what follows. `hold` is what is known of the maps of other
devices. -/
def State.arrivesWith (s : State) (e : Env) (type : Nat) (payload : List Byte) (hold : Nat) : State :=
  if s.portUp e.port.toNat then (s.receive e.port.toNat (e.packet type payload) hold).peersStep else s

/-- A packet whose effect needs no such knowledge. -/
abbrev State.arrives (s : State) (e : Env) (type : Nat) (payload : List Byte) : State := s.arrivesWith e type payload 0

/-- A strip packet arrives: header operands, the operation, and data. -/
def State.stripArrives (s : State) (e : Env) (type op : Nat) (h : StripHdr) (data : List Byte) : State :=
  s.arrives e type (stripHead op h.slot.toNat h.gen.toNat h.status.toNat h.id.toNat h.offset.toNat h.count.toNat
    h.posMs.toNat h.last h.erased ++ data)

/-! ## Link frames (R310, R311, R313, R316) -/

/-- Forward a packet of others: with HOPS at 0 it is discarded and counted. -/
def State.forward (s : State) (p : Packet) : State :=
  if p.hops = 0 then (s.inc F.GRP_HOPS_DROP_COUNT).wr F.GRP_ERR_STATUS_HOPS 1
  else s.routeOut { p with hops := p.hops - 1, fwd := true }

/-- A packet that has crossed a link: taken here, or forwarded. It leaves the receive buffer, so that its credits return,
unless it is held for a newer epoch. -/
def State.crossed (s : State) (port : Nat) (p : Packet) : State :=
  if p.dst = 0xFE || (s.hasId && p.dst = s.myId) then
    let n := s.grp.heldNew.length
    let hold := (Config.value 5 s.free).toNat
    let s := { s with free := s.free + 1 }.receive port p hold
    let s := if n < s.grp.heldNew.length then s else s.credit port p
    s.peersStep
  else (s.forward p).credit port p

/-- `LINK_FRAME`: in order, with a CRC that checks and no invalid block, the frame is acknowledged and its packet taken;
any other frame is discarded, with one NAK for the gap. -/
def execLinkFrame (port : BitVec 2) (lseq : BitVec 12) (cls : Bool) (invalid : Bool) (bytes : List Byte) (s : State) :
    Host.Outcome State Fault Refusal :=
  let p := port.toNat
  let q := s.port p
  if !s.portUp p then .next s
  else
    match (if invalid || lseq.toNat != q.nextRx then none else Packet.ofBytes (b2n cls) bytes) with
    | some pk =>
      let s := s.setPort p { q with nextRx := (q.nextRx + 1) % 4096, nakSent := false }
      .next ((s.block p 0x4B lseq.toNat).crossed p pk)
    | none =>
      if q.nakSent then .next s
      else .next ((s.setPort p { q with nakSent := true }).block p 0x55 q.nextRx)

/-! ## Link-local packets (R307, R320, R326) -/

/-- `HELLO` (R307, R326, R327). -/
def execHello (env : Env) (uid : BitVec 64) (code id : BitVec 8) (epoch : BitVec 64) (group : BitVec 128) (s : State) :
    Host.Outcome State Fault Refusal :=
  .next (s.arrives env 0x10 (leBytes 8 uid.toNat ++ leBytes 1 code.toNat ++ leBytes 1 id.toNat ++ leBytes 8 epoch.toNat ++
    leBytes 16 group.toNat))

/-- `DISCOVER_PROBE` (R326). -/
def execDiscoverProbe (env : Env) (uid : BitVec 64) (count : BitVec 8) (s : State) : Host.Outcome State Fault Refusal :=
  .next (s.arrives env 0x11 (discoverBytes uid.toNat count.toNat false))

/-- `DISCOVER_ASSIGN` (R326). -/
def execDiscoverAssign (env : Env) (uid : BitVec 64) (count : BitVec 8) (s : State) : Host.Outcome State Fault Refusal :=
  .next (s.arrives env 0x11 (discoverBytes uid.toNat count.toNat true))

/-- `LINK_STATE` (R320). -/
def execLinkState (env : Env) (origin : BitVec 8) (version : BitVec 32) (ports : BitVec 8) (s : State) :
    Host.Outcome State Fault Refusal :=
  .next (s.arrives env 0x12 (linkStateBytes origin.toNat version.toNat ports.toNat))

/-! ## Strip traffic -/

/-- `STRIP_WRITE_DATA` (R355). -/
def execStripWriteData (env : Env) (h : StripHdr) (data : List Byte) (s : State) : Host.Outcome State Fault Refusal :=
  .next (s.stripArrives env 1 1 h data)
/-- `STRIP_WRITE_ABORT` (R358). -/
def execStripWriteAbort (env : Env) (h : StripHdr) (s : State) : Host.Outcome State Fault Refusal :=
  .next (s.stripArrives env 1 2 h [])
/-- `STRIP_READ` (R361). -/
def execStripRead (env : Env) (h : StripHdr) (s : State) : Host.Outcome State Fault Refusal :=
  .next (s.stripArrives env 2 1 h [])
/-- `STRIP_DATA` (R361). -/
def execStripData (env : Env) (h : StripHdr) (data : List Byte) (s : State) : Host.Outcome State Fault Refusal :=
  .next (s.stripArrives env 3 1 h data)
/-- `STRIP_DONE` (R355). -/
def execStripDone (env : Env) (h : StripHdr) (s : State) : Host.Outcome State Fault Refusal :=
  .next (s.stripArrives env 3 2 h [])
/-- `STRIP_ESTIMATE` (R362). -/
def execStripEstimate (env : Env) (h : StripHdr) (s : State) : Host.Outcome State Fault Refusal :=
  .next (s.stripArrives env 3 3 h [])
/-- `STRIP_FAIL` (R360). -/
def execStripFail (env : Env) (h : StripHdr) (s : State) : Host.Outcome State Fault Refusal :=
  .next (s.stripArrives env 3 4 h [])
/-- `LANDING_DATA` (R352). -/
def execLandingData (env : Env) (h : StripHdr) (data : List Byte) (s : State) : Host.Outcome State Fault Refusal :=
  .next (s.stripArrives env 4 1 h data)
/-- `LANDING_WRITTEN` (R352). -/
def execLandingWritten (env : Env) (h : StripHdr) (s : State) : Host.Outcome State Fault Refusal :=
  .next (s.stripArrives env 4 2 h [])
/-- `LANDING_RELEASE` (R352). -/
def execLandingRelease (env : Env) (h : StripHdr) (s : State) : Host.Outcome State Fault Refusal :=
  .next (s.stripArrives env 4 3 h [])
/-- `LANDING_FAIL` (R352). -/
def execLandingFail (env : Env) (h : StripHdr) (s : State) : Host.Outcome State Fault Refusal :=
  .next (s.stripArrives env 4 4 h [])
/-- `JOURNAL_RECORD` (R354). -/
def execJournalRecord (env : Env) (h : StripHdr) (data : List Byte) (s : State) : Host.Outcome State Fault Refusal :=
  .next (s.stripArrives env 5 1 h data)
/-- `JOURNAL_TAKE` (R358). -/
def execJournalTake (env : Env) (h : StripHdr) (s : State) : Host.Outcome State Fault Refusal :=
  .next (s.stripArrives env 5 2 h [])
/-- `JOURNAL_RECORDS` (R358). -/
def execJournalRecords (env : Env) (h : StripHdr) (data : List Byte) (s : State) : Host.Outcome State Fault Refusal :=
  .next (s.stripArrives env 5 3 h data)
/-- `JOURNAL_DIRECTORY` (R355). -/
def execJournalDirectory (env : Env) (h : StripHdr) (data : List Byte) (s : State) : Host.Outcome State Fault Refusal :=
  .next (s.stripArrives env 5 4 h data)
/-- `JOURNAL_ROWS` (R346). -/
def execJournalRows (env : Env) (h : StripHdr) (data : List Byte) (s : State) : Host.Outcome State Fault Refusal :=
  .next (s.stripArrives env 5 5 h data)
/-- `REBUILD_LIST` (R365). -/
def execRebuildList (env : Env) (h : StripHdr) (s : State) : Host.Outcome State Fault Refusal :=
  .next (s.stripArrives env 8 1 h [])
/-- `REBUILD_LIST_DATA` (R365). -/
def execRebuildListData (env : Env) (h : StripHdr) (data : List Byte) (s : State) : Host.Outcome State Fault Refusal :=
  .next (s.stripArrives env 8 2 h data)
/-- `REBUILD_READ` (R366). -/
def execRebuildRead (env : Env) (h : StripHdr) (s : State) : Host.Outcome State Fault Refusal :=
  .next (s.stripArrives env 8 3 h [])
/-- `REBUILD_DATA` (R366). -/
def execRebuildData (env : Env) (h : StripHdr) (data : List Byte) (s : State) : Host.Outcome State Fault Refusal :=
  .next (s.stripArrives env 8 4 h data)

/-! ## Mirror and map -/

/-- `SEQ_MIRROR` (R325): the 8 B entry of Table 02-2. -/
def execSeqMirror (env : Env) (stream : BitVec 32) (entry : BitVec 64) (s : State) : Host.Outcome State Fault Refusal :=
  .next (s.arrives env 6 (leBytes 4 stream.toNat ++ leBytes 8 entry.toNat))
/-- `MAP_LOOKUP` (R320): a request carries the key alone, an answer more. -/
def execMapLookup (env : Env) (key : BitVec 128) (data : List Byte) (s : State) : Host.Outcome State Fault Refusal :=
  .next (s.arrives env 7 (leBytes 1 1 ++ leBytes 16 key.toNat ++ data))
/-- `MAP_INSERT` (R108, R320). -/
def execMapInsert (env : Env) (key : BitVec 128) (data : List Byte) (s : State) : Host.Outcome State Fault Refusal :=
  .next (s.arrives env 7 (leBytes 1 2 ++ leBytes 16 key.toNat ++ data))
/-- `MAP_UPDATE` (R320). -/
def execMapUpdate (env : Env) (key : BitVec 128) (data : List Byte) (s : State) : Host.Outcome State Fault Refusal :=
  .next (s.arrives env 7 (leBytes 1 3 ++ leBytes 16 key.toNat ++ data))
/-- `MAP_DELETE` (R320). -/
def execMapDelete (env : Env) (key : BitVec 128) (s : State) : Host.Outcome State Fault Refusal :=
  .next (s.arrives env 7 (leBytes 1 4 ++ leBytes 16 key.toNat))

/-! ## Beats, queries, epochs and acknowledgements -/

/-- `LEAD_BEAT` (R329). -/
def execLeadBeat (env : Env) (epoch : BitVec 64) (s : State) : Host.Outcome State Fault Refusal :=
  .next (s.arrives env 0x13 (leBytes 8 epoch.toNat))
/-- `MEMBER_BEAT` (R329). -/
def execMemberBeat (env : Env) (medium state : BitVec 8) (hostUp : Bool) (s : State) : Host.Outcome State Fault Refusal :=
  .next (s.arrives env 0x14 (leBytes 1 medium.toNat ++ leBytes 1 state.toNat ++ leBytes 1 (b2n hostUp) ++ leBytes 13 0))
/-- `LEAD_QUERY` (R331). -/
def execLeadQuery (env : Env) (s : State) : Host.Outcome State Fault Refusal := .next (s.arrives env 0x17 [])
/-- `LEAD_QUERY_RESP` (R331). -/
def execLeadQueryResp (env : Env) (lost : Bool) (s : State) : Host.Outcome State Fault Refusal :=
  .next (s.arrives env 0x18 (leBytes 1 (b2n lost) ++ leBytes 3 0))
/-- `EPOCH` (R323). -/
def execEpochCmd (env : Env) (bytes : List Byte) (s : State) : Host.Outcome State Fault Refusal :=
  .next (s.arrives env 0x15 bytes)
/-- `EPOCH_REQ` (R323). -/
def execEpochReq (env : Env) (s : State) : Host.Outcome State Fault Refusal := .next (s.arrives env 0x16 [])
/-- `REJECT` (R317). -/
def execRejectCmd (env : Env) (reason : BitVec 8) (epoch : BitVec 64) (seq : BitVec 32) (type : BitVec 8) (s : State) :
    Host.Outcome State Fault Refusal :=
  .next (s.arrives env 0x19 (leBytes 1 reason.toNat ++ leBytes 7 0 ++ leBytes 8 epoch.toNat ++ leBytes 4 seq.toNat ++
    leBytes 1 type.toNat))
/-- `E2E_ACK` (R318). -/
def execE2eAck (env : Env) (vc : BitVec 8) (seq : BitVec 32) (s : State) : Host.Outcome State Fault Refusal :=
  .next (s.arrives env 0x1A (ackBytes vc.toNat seq.toNat))

/-! ## MGMT packets (R339, R340) -/

/-- `MGMT_CMD` (R340). -/
def execMgmtCmd (env : Env) (part : BitVec 8) (tag : BitVec 16) (dataOffset : BitVec 32) (frame : BitVec 512)
    (data : List Byte) (s : State) : Host.Outcome State Fault Refusal :=
  .next (s.arrives env 0x1B (mgmtHead 1 part.toNat tag.toNat dataOffset.toNat 0 ++ leBytes 64 frame.toNat ++ data))
/-- `MGMT_CMD_DONE` (R340). -/
def execMgmtCmdDone (env : Env) (tag : BitVec 16) (entry : BitVec 256) (s : State) : Host.Outcome State Fault Refusal :=
  .next (s.arrives env 0x1B (mgmtHead 2 0 tag.toNat 0 0 ++ leBytes 32 entry.toNat))
/-- `MGMT_OP_ADMIN` (R339). -/
def execMgmtOpAdmin (env : Env) (tag : BitVec 16) (base : BitVec 64) (fn : BitVec 8) (key offset holding : BitVec 64)
    (s : State) : Host.Outcome State Fault Refusal :=
  let l := mgmtHead 3 0 tag.toNat 0 base.toNat ++ leBytes 1 fn.toNat ++ leBytes 8 key.toNat ++ leBytes 8 offset.toNat
  .next (s.arrivesWith env 0x1B l holding.toNat)
/-- `MGMT_ADMIN_DONE` (R339). -/
def execMgmtAdminDone (env : Env) (tag : BitVec 16) (rc : BitVec 8) (status : BitVec 16) (result aux : BitVec 64)
    (s : State) : Host.Outcome State Fault Refusal :=
  .next (s.arrives env 0x1B (mgmtHead 4 0 tag.toNat 0 0 ++ leBytes 1 rc.toNat ++ leBytes 3 0 ++
    adminBody status.toNat result.toNat aux.toNat))

end Sys2Proof.Machine
end

