-- ==== Sys2Proof/Machine/Startup.lean ====
section
/-!
DEFINITION. Start-up: the boot sequence of Table 17-7 from the OTP to the lock point, the choice of the slot, failure and
recovery mode (R387, R388, R398, R414, R423, R431, R434 to R440).
-/

namespace Sys2Proof.Machine

/-! ## The choice of the slot (R434, R435) -/

/-- A slot is eligible. -/
def ImgRec.eligible (r : ImgRec) (slot : Bool) : Bool := r.state slot != 2 && r.tries slot < 3

/-- The slots in the order in which they are tried. -/
def State.slotOrder (s : State) : List Bool :=
  match s.boot.imgRec with
  | none =>
    let a := s.header false
    let b := s.header true
    match a.crcOk, b.crcOk with
    | true, true => if a.version < b.version then [true, false] else [false, true]
    | true, false => [false]
    | false, true => [true]
    | false, false => []
  | some r =>
    let first := if r.pending = 0xFF then r.active != 0 else r.pending != 0
    [first, !first]

/-- A PENDING slot that is not eligible is forgotten. -/
def State.dropPending (s : State) : State :=
  match s.boot.imgRec with
  | some r => if r.pending != 0xFF && !r.eligible (r.pending != 0) then s.writeImgRec { r with pending := 0xFF } else s
  | none => s

/-- The first slot that is read: eligible and not WRITING. -/
def State.firstRead (s : State) : Option Bool :=
  s.slotOrder.find? (fun t => s.imgRec.eligible t && s.imgRec.state t != 3)

/-- The link configuration: from the header of the first slot read, or a single x8 port when there is none or its CRC
fails; the BARs are set up (R50, R51, R435). The header counts as read even when the flash cannot deliver the rest of the slot:
DESIGN CHOICE, the spec does not say (log entry 78). -/
def State.linkConfig (s : State) : State :=
  let h := match s.firstRead with
    | some t => if (s.header t).crcOk then some (s.header t) else none
    | none => none
  let s := (s.wr F.HIF_LINK_CFG_PORTS ((h.map (fun x => bits x.linkCfg 0 2)).getD 0)).wr F.HIF_LINK_CFG_HDR_BAD
    (b2n h.isNone)
  { s with host := { s.host with subsys := (h.map (fun x => x.subsys)).getD 0, cfgDone := true } }

/-- A slot fails its check in start-up (R434). -/
def State.slotFails (s : State) (slot : Bool) (code idx : Nat) : State :=
  let r := s.noteVersion slot (s.imgRec.setState slot 2)
  let s := s.writeImgRec { r with lastFail := 1 + b2n slot * 256, pending := if r.pending = b2n slot then 0xFF else r.pending }
  let s := s.wr (if slot then F.BOOT_FAIL_CAUSE_B_CHECK else F.BOOT_FAIL_CAUSE_A_CHECK) code
  s.raise 0xA (b2n slot) 0x002 (code + idx * 65536)

/-- Try the slots in order; the one that start-up starts from has its TRIES raised. `unread` holds the slots that the
flash could not be read from, bit 0 slot A (R434, Table 17-11). -/
def State.trySlots (s : State) (unread : Nat) : List Bool → State × Option Bool
  | [] => (s, none)
  | t :: ts =>
    let r := s.imgRec
    if !r.eligible t then s.trySlots unread ts
    else
      let res := if r.state t = 3 || bitAt unread (b2n t) then (7, 0) else s.checkSlot t
      if res.1 != 0 then (s.slotFails t res.1 res.2).trySlots unread ts
      else (s.writeImgRec (s.noteVersion t (r.setTries t (r.tries t + 1))), some t)

/-! ## Steps (Table 17-7) -/

/-- The fused values are read (R428, Table 18-3). -/
def State.readOtp (s : State) : State :=
  let f := s.boot.fuses
  let s := (s.wr F.BOOT_OTP_REVOKED f.revoked).wr F.BOOT_OTP_MIN_SVN f.minSvn
  let s := (s.wr F.GRP_UNIQUE_ID_LO_UID (f.uid % 2 ^ 32)).wr F.GRP_UNIQUE_ID_HI_UID (f.uid / 2 ^ 32)
  s.setBoot { s.boot with fuses := { f with otpRead := true } }

/-- The PLLs have locked. -/
def State.pllsLocked (s : State) : State :=
  ((s.wr F.CLK_STATUS_ROOT_LOCK 1).wr F.CLK_STATUS_PCIE_LOCK 1).wr F.CLK_STATUS_EPL_LOCK 1

/-- The MRAM is read: what registers show of it (R387, R454). -/
def State.mramStep (s : State) : State :=
  let s := (s.showMram.showImgRec).wr F.DET_CELL_RETIRED_RETIRED s.det.retiredRec
  ((s.wr F.PWR_MARKER_STATE s.pwr.markState).wr F.PWR_MARKER_SENSOR s.pwr.markSensor).loadLevels

/-- Start-up fails: recovery mode (R440). -/
def State.startFails (s : State) (cause : Nat) : State :=
  let s := (s.wr F.HIF_STATUS_BOOT_FAIL 1).wr F.BOOT_STATUS_RECOVERY 1
  let s := (s.wr F.BOOT_FAIL_CAUSE_CAUSE cause).wr F.BOOT_STATUS_STAGE 7
  s.raise 0xA 0 0x005 cause

/-- The processor is released from slot `t`: patches, watchdog, and event 0x004 for a slot other than the first
(R431, R434, R436, R439). -/
def State.releaseCpu (s : State) (t : Bool) (first : Option Bool) : State :=
  let h := s.header t
  let p := sectionBytes h (s.image t) 2
  let es := if h.sections.any (fun e => e.type = 2) then patchEntries p else []
  let n := es.length
  let s := s.wr F.BOOT_SLOT_STARTED (b2n t)
  let s := if first = some t then s else s.raise 0xA (b2n t) 0x004 (s.imgRec.lastFail % 16)
  let s := (s.wr F.BOOT_PATCH_EN_SLOTS (2 ^ n - 1)).wr F.BOOT_STATUS_PATCHED (b2n (n != 0))
  let s := (List.range n).foldl (fun s i => s.wri F.BOOT_PATCH_ADDR_LINE i (((es[i]?).map (fun e => e.1)).getD 0)) s
  let s := s.setBoot { s.boot with
    patchWords := es.map (fun e => e.2), patchCode := if n = 0 then [] else p.drop (4 + 40 * n)
    wdtArmed := true, wdtMs := 0, version := h.version }
  s.wr F.BOOT_STATUS_STAGE 5

/-- The values that depend on the personality in force (Table 18-3), the slots of the loops and the buffers. -/
def State.setPersonality (s : State) (mode : Nat) : State :=
  let tape := decide (mode = 1)
  let s := s.wr F.GLB_CONFIG_MODE mode
  let s := (s.wr F.RED_GATHER_CLOSE_MS (if tape then 1000 else 2000)).wr F.RED_SLOW_FAIL_S (if tape then 120 else 30)
  let s : State := { s with obj := { s.obj with gatherFree := if tape then 249856 else 1048576 } }
  s.assignSlots tape

/-- The image of slot `t` is applied: records of WHEN 0 and 1, personality, sections (R27, R28, R429, R430). -/
def State.loadImage (s : State) (t : Bool) : State :=
  let h := s.header t
  let img := s.image t
  let recs := paramRecs (sectionBytes h img 1)
  let servo := sectionBytes h img 4
  let s := s.setPersonality h.personality
  let s := (recs.filter (fun r => r.when < 2)).foldl State.applyRec s
  let s := s.setBoot { s.boot with
    records := recs.filter (fun r => r.when < 2), when2 := recs.filter (fun r => r.when = 2), servo := servo
    format := sectionBytes h img 3 }
  let s : State := { s with disk := { s.disk with heads := if h.personality = 2 then servoHeads servo else 0 } }
  (s.wr F.GLB_CONFIG_PEER_EN (s.rd F.BOOT_START_CFG_PEER_EN)).initCells

/-- The membership record in force: the newer copy, when it names this device and the peer ports are enabled (R322,
R327). Every member that a lead's record names holds it, as far as the lead knows. -/
def State.loadRecord (s : State) : State :=
  match s.grp.newest with
  | none => s
  | some r =>
    match (r.uids.find? (fun p => p.2 = s.uniqueId)).map (fun p => p.1) with
    | some id =>
      if s.on F.BOOT_START_CFG_PEER_EN then
        let s := s.setGrp { s.grp with mrec := some r, acked := if r.lead = id then idBits (r.idsIn [2, 3, 4, 6]) else 0 }
        (s.wr F.GRP_STATUS_ID id).wr F.GRP_STATUS_HAS_ID 1
      else s
    | none => s

/-- The shutdown marker is handled: an unclean shutdown after a reset of the AON domain or by SAG_SENSE, a thermal
shutdown. An unclean shutdown has the sequence table checked: MRAM writes are whole, so a stream is in doubt only where its word
cannot be read (R48, R387, R398, R413, R486). -/
def State.markerStep (s : State) (causes : List Nat) : State :=
  let p := s.pwr
  if p.markState = 3 then
    (s.wr F.THM_ERR_STATUS_THERMAL_RESTART 1).raise 6 p.markSensor 0x00B (p.markSensor + p.markDs * 2 ^ 32)
  else if p.markState = 1 && (causes.contains 1 || causes.contains 3) then
    let n := if s.inGroup then 0 else 2 * s.mem.badSeqWords.length
    let s := s.checkSeqTable
    ((s.wr F.PWR_ERR_STATUS_UNCLEAN 1).lifeAdd 96 1).raise 9 (if s.inGroup then s.myId else 0) 0x002 (1 + n * 2 ^ 32)
  else s

/-- The lock point: the record and the marker are written, READY is set, and the medium starts by itself where the image
says so (R387, R434, R435, R436, R438). -/
def State.lockPoint (s : State) (t : Bool) (ms : Nat) : State :=
  let h := s.header t
  let r := (s.imgRec.setState t 1).setTries t 0
  let s := s.writeImgRec { r with active := b2n t, pending := if r.pending = b2n t then 0xFF else r.pending }
  let s := s.setPwr { s.pwr with markState := 1, markSensor := 0, markDs := 0 }
  let s := s.setMedium s.restState
  let s := ((s.wr F.OMAP_STATUS_READY 1).wr F.BOOT_STATUS_LOCKED 1).wr F.BOOT_STATUS_STAGE 6
  let s := (s.wr F.HIF_STATUS_READY 1).wr F.BOOT_START_MS_MS (Nat.min ms 65535)
  let s : State := { s with host := { s.host with readyOnce := true } }
  let differ := (s.header false).crcOk && (s.header true).crcOk && (s.header false).linkCfg != (s.header true).linkCfg
  let s := if differ then (s.wr F.BOOT_SLOT_LINK_DIFFERS 1).raise 0xA (b2n t) 0x008 h.linkCfg else s
  let s := s.syncCauses.raise 0xA (b2n t) 0x001 (h.version + Nat.min (ms / 10) 255 * 2 ^ 32)
  if s.on F.BOOT_START_CFG_AUTO_START && !(s.tMode && !s.tape.present) then s.startMedium else s

/-- Start-up may begin or go on: no warning condition, no thermal hold (R388, R398). -/
def State.mayStart (s : State) : Bool :=
  s.rd F.BOOT_STATUS_STAGE = 0 && !s.on F.PWR_STATUS_SAG_WARN && s.pwr.thermalHold.isNone

/-- Start-up from the choice of the slot on. -/
def State.startFrom (s : State) (hbmOk : Bool) (badCase unread : Nat) (reachLock : Bool) (ms : Nat) (causes : List Nat) :
    State :=
  let s := (s.mramStep.wr F.BOOT_STATUS_STAGE 1).dropPending
  let order := s.slotOrder
  let s := s.linkConfig
  if !hbmOk then s.initSram.startFails 5
  else
    match s.initMemories.trySlots unread order with
    | (s, none) => s.startFails 2
    | (s, some t) =>
      let s := s.releaseCpu t order.head?
      let s := s.selfTestResult (if badCase = 0 then [] else [badCase])
      if badCase != 0 then s.startFails 6
      else if !reachLock then s
      else ((((s.loadImage t).loadRecord).markerStep causes).lockPoint t ms)

/-- `START_UP`: the whole of start-up, from the OTP step after a power-on reset, from the MRAM step after a reset of the
WARM domain alone. Operands: whether the OTP is readable, the PLLs lock and the HBM trains; the self-test case that
fails, 0 for none; the slots whose flash cannot be read; whether the processor reaches the lock point; the time it took
in ms (R388, R436 to R440). -/
def execStartUp (otpOk pllOk hbmOk : Bool) (badCase : BitVec 5) (unread : BitVec 2) (reachLock : Bool) (ms : BitVec 16)
    (s : State) : Host.Outcome State Fault Refusal :=
  if !s.mayStart then .next s
  else
    let causes := s.boot.causes
    let por := !s.boot.fuses.otpRead
    let s := (s.setBoot { s.boot with causes := [] }).emit (.nor 2 0 0)
    if por && !otpOk then .next (s.linkConfig.startFails 3)
    else
      let s := if por then s.readOtp else s
      if por && !pllOk then .next (s.linkConfig.startFails 4)
      else
        .next (s.pllsLocked.startFrom hbmOk badCase.toNat unread.toNat reachLock ms.toNat causes)

end Sys2Proof.Machine
end

