-- ==== Sys2Proof/Machine/Owners.lean ====
section
/-!
DEFINITION. Reads of SRAM and MRAM words and scrub reads, with what the owner of an uncorrectable unit does
(R21, R24, R246, R417 to R419, Table 16-5, Table 16-10).
-/

namespace Sys2Proof.Machine

/-! ## Owners' actions (Table 16-5) -/

/-- The samples of a codeword are lost in a lane's ring: the codeword fails (R246). -/
def State.ringLost (s : State) (id : Nat) : State :=
  match s.jobOf id with
  | none => s
  | some j =>
    let s := (s.leaveSorrel id).freeSamples j
    match j.target with
    | .verify c => s.verifyDecide c false false
    | .tapeRead p ds cw => s.tapeMissing p ds cw
    | _ => s.dropped j

/-- An entry of a friction or cogging table, or of the head-offset table, reads 0, and the slot sets ACC_SAT. -/
def State.tableLost (s : State) (slot table index : Nat) : State :=
  let s := if table = 0 then s.fset F.CTL_FRIC_TBL_ENTRY slot index 0
    else if table = 1 then s.fset F.CTL_COG_TBL_ENTRY slot index 0
    else s.fset F.CTL_HEAD_OFS_ENTRY slot index 0
  s.slotFlag slot 0

/-- A trace entry reads 0. -/
def State.traceLost (s : State) (chan index : Nat) : State :=
  let l := (Store.get [] s.trc.chans chan).reverse
  let l := (List.range l.length).map (fun i =>
    let e := (l[i]?).getD { value := 0, time := 0 }
    if i = index then { e with value := 0 } else e)
  { s with trc := { s.trc with chans := Store.put [] s.trc.chans chan l.reverse } }

/-- What follows a bus error of an HBM block: the work that read it ends with an error, and the owner re-fetches what it
can and writes the block whole again: accepted data from the medium or from a peer, whose bytes it brings, a stream context
from its MRAM copy. A compression context is discarded. Data not yet accepted is not re-fetched: its command completes with
INTEGRITY. Spilled samples exist nowhere else (R14, R24, R246, R410). -/
def State.hbmOwner (s : State) (b : Nat) (u : MemUser) : State :=
  match u with
  | .ring id =>
    match s.jobOf id.toNat with
    | some j => if j.spilled then s.poisoned j else s
    | none => s
  | .accepted r data => (match r with
    | some src => s.busError (.command src)
    | none => s).hbmWrite b data
  | .streamContext => s.hbmWrite b []
  | .context st => (s.busError (.context st)).hbmWrite b []
  | u => s.busError u

/-- `FABRIC_HBM_READ`: a fabric read of a block, whose array an upset may have disturbed and whose cells may be stuck
(R14, R15, R408, R411, R416). -/
def execFabricHbmRead (block : BitVec 26) (upset stuck : SliceFlips) (user : MemUser) (s : State) :
    Host.Outcome State Fault Refusal :=
  let b := block.toNat
  let s := s.hbmUpset (s.mem.hbmPlace b) upset
  if user.barred b then .next s
  else
    let (s, r) := s.hbmRead b stuck false
    .next (if r.ok then s else s.hbmOwner b user)

/-- `FABRIC_HBM_WRITE`: a write of a whole block, or a narrower write merged into the corrected data; a block whose read
does not restore data is not written (R15, R410). -/
def execFabricHbmWrite (block : BitVec 26) (off : BitVec 8) (bytes : List Byte) (stuck : SliceFlips) (user : MemUser)
    (s : State) : Host.Outcome State Fault Refusal :=
  let b := block.toNat
  let o := off.toNat
  let d := bytes.take (192 - o)
  if user.barred b || d.isEmpty then .next s
  else if d.length = 192 then .next (s.hbmWrite b d)
  else
    let (s, r) := s.hbmRead b stuck false
    if r.ok then .next (s.hbmWrite b (r.data.take o ++ d ++ r.data.drop (o + d.length)))
    else .next (s.hbmOwner b user)

/-- What the owner of an uncorrectable SRAM word does. -/
def State.sramOwner (s : State) : MemUser → State
  | .ring j => s.ringLost j.toNat
  | .cell c => if s.cellOn c.toNat then s.retireCell c.toNat 1 else s
  | .assembly src held => if held then s else s.busError (.command src)
  | .slotTable n t i => s.tableLost n.toNat t.toNat i.toNat
  | .trace c i => s.traceLost c.toNat i.toNat
  | u => s.busError u

/-- A copy of the membership record is lost: the other copy is taken, then EPOCH_REQ goes to the lead. -/
def State.recordLost (s : State) (first : Bool) : State :=
  match s.grp.mrec with
  | none => s
  | some r =>
    let s := s.setGrp (if first then { s.grp with recA := none } else { s.grp with recB := none })
    let s := s.setGrp { s.grp with mrec := match s.grp.newest with
      | some n => some n
      | none => some r }
    if r.lead = s.myId then s.setGrp { s.grp with recA := some r } else s.sendPlain r.lead 0x16 []

/-- A copy of the image state record is lost: the other one counts (R433). -/
def State.imgLost (s : State) (first : Bool) : State :=
  s.setBoot (if first then { s.boot with recA := none } else { s.boot with recB := none })

/-- The members whose own region this device mirrors, the one it comes first for in the first region. -/
def State.predecessors (s : State) (first : Bool) : List Nat :=
  match s.grp.mrec with
  | none => []
  | some r => (r.idsIn [3, 4]).filter (fun m => m != s.myId && (r.successors m).contains s.myId && s.nearest m = first)

/-- Ask a member for the journal records of an owner. -/
def State.askRecords (s : State) (dst owner : Nat) : State :=
  s.sendSeq dst 5 (stripHead 2 0xFF 0 0 owner 0 0 0 true false) none

/-- What the owner of an uncorrectable MRAM word at a byte offset does (Tables 16-5, 16-10). -/
def State.mramOwner (s : State) (off : Nat) (u : MemUser) : State :=
  if off < 0x2A0000 then
    (match s.successors with
     | m :: _ => s.askRecords m s.myId
     | [] => s)
  else if off < 0x540000 then (s.predecessors true).foldl (fun s m => s.askRecords m m) s
  else if off < 0x7E0000 then (s.predecessors false).foldl (fun s m => s.askRecords m m) s
  else if 0x800000 ≤ off && off < 0x1000000 then s.seqLost off
  else if 0x1000000 ≤ off && off < 0x1000800 then s.recordLost (decide (off < 0x1000400))
  else if 0x1000800 ≤ off && off < 0x1000880 then s.imgLost (decide (off < 0x1000840))
  else
    match u with
    | .marker => s.setPwr { s.pwr with markState := 1 }
    | .counter c => ({ s with life := { s.life with count := Store.put 0 s.life.count c.toNat 0 } }).raise 3 2 0x009 c.toNat
    | u => s.busError u

/-- The user of a word rewrites it once it has acted; an owner that is not named leaves it uncorrectable. -/
def MemUser.rewrites : MemUser → Bool
  | .other => false
  | _ => true

/-- What follows an uncorrectable word of memory 1, SRAM, or 2, MRAM. -/
def State.wordOwner (s : State) (k a : Nat) (u : MemUser) : State :=
  let s := if k = 1 then s.sramOwner u else s.mramOwner (16 * a) u
  if u.rewrites || (k = 2 && a < 0x100088) then s.wordFixed k a else s

/-- Words that a memory has: SRAM with its tightly coupled part behind it, and MRAM. -/
def wordCount (k : Nat) : Nat := if k = 1 then 2 ^ 23 + 2 ^ 17 else 2 ^ 21

/-- `SRAM_MRAM_READ`: a word whose cells an upset may have disturbed, or are stuck, is read; an uncorrectable word returns
a bus error, and its owner acts (R412, R413, R417). -/
def execSramMramRead (mram : Bool) (addr : BitVec 24) (upset stuck : BitVec 144) (user : MemUser) (s : State) :
    Host.Outcome State Fault Refusal :=
  let k := if mram then 2 else 1
  let a := addr.toNat
  if wordCount k ≤ a then .next s
  else
    let s := s.wordUpset k a upset.toNat
    let (s, r) := s.wordRead k a stuck.toNat false
    .next (if r.ok then s else s.wordOwner k a user)

/-! ## Scrub reads (R24, R418, R419) -/

/-- The bits of a word among those of a block's slices: the first entry's. -/
def flipWord (l : SliceFlips) : Nat := (l.head?.map (fun p => p.2.toNat % 2 ^ 144)).getD 0

/-- `SCRUB_READ`: Campion reads the next unit of a pass. A corrected unit is written back and read twice more; an
uncorrectable one is reported, and its owner acts. -/
def execScrubRead (memory : BitVec 2) (upset stuck : SliceFlips) (user : MemUser) (s : State) :
    Host.Outcome State Fault Refusal :=
  let k := memory.toNat
  if 3 ≤ k || (s.mem.scrubDone[k]?).getD true || s.paused then .next s
  else
    let a := s.scrubPos k
    if k = 0 then
      let s := s.hbmUpset (s.mem.hbmPlace a) upset
      let (s, ok) := s.hbmScrub a stuck
      .next ((if ok then s else s.hbmOwner a user).scrubNext 0)
    else
      let s := s.wordUpset k a (flipWord upset)
      let (s, ok) := s.wordScrub k a (flipWord stuck)
      .next ((if ok then s else s.wordOwner k a user).scrubNext k)

end Sys2Proof.Machine
end

