-- ==== Sys2Proof/Machine/Registers.lean ====
section
/-!
DEFINITION. Host writes of BAR0 registers (R5 to R7, R86, R285, R286, R291, R441, R449, R450, R457, R483): the access
codes, the lock, ranges and orderings, and the registers whose write does more (log entry 46).
-/

namespace Sys2Proof.Machine

/-! ## Fields under a host write (R6) -/

/-- The value of field `f` that a written word carries. -/
def Field.carried (f : Field) (v : Nat) : Nat := bits v f.lo f.w

/-- A value lies in the range a host write is accepted with; the mode of a temperature sensor depends on the sensor
(Table 15-15). -/
def Field.accepts (f : Field) (i x : Nat) : Bool :=
  f.min ≤ x && x ≤ f.max &&
    (f != F.THM_CH_CFG_MODE || (if i < 2 then x = 3 else if i < 10 then x < 3 else x = 0 || x = 3))

/-- A host write sets the field: it is RW, or RWL before the lock point. -/
def State.hostSets (s : State) (f : Field) : Bool := f.acc = .rw || (f.acc = .rwl && !s.host.readyOnce)

/-- A locked field for which the write carries other bits than the field holds. -/
def State.lockedHit (s : State) (v : Nat) (p : Field × Nat × Nat) : Bool :=
  p.1.acc = .rwl && s.host.readyOnce && p.1.carried v != s.fget p.1 p.2.1 p.2.2

/-- One field under a host write of the word `v`. -/
def State.hostField (s : State) (v : Nat) (p : Field × Nat × Nat) : State :=
  let f := p.1
  let x := f.carried v
  let old := s.fget f p.2.1 p.2.2
  if s.hostSets f then (if f.accepts p.2.1 x then s.fset f p.2.1 p.2.2 x else s)
  else if f.acc = .w1c then s.fset f p.2.1 p.2.2 (old - (old &&& x))
  else if f.acc = .w1s then s.fset f p.2.1 p.2.2 (old ||| x)
  else s

/-- The blocks that ignore a write whole when one field is out of range: CLK, PWR, THM, LANE, DET, CTL, RED and TRC; in
the others the field alone keeps its value. -/
def ignoresWhole (off : Nat) : Bool :=
  (0x0010000 ≤ off && off < 0x0040000) || (0x0140000 ≤ off && off < 0x01C0000) ||
    (0x0200000 ≤ off && off < 0x0240000) || (0x0280000 ≤ off && off < 0x02C0000) ||
    (0x0310000 ≤ off && off < 0x0320000)

/-- The fields of the register at `off` keep the ordering of Table 18-12 (R483). -/
def State.ordered (s : State) (off : Nat) : Bool :=
  if off = F.CTL_TM_BUF_HIGH.off then s.rd F.CTL_TM_BUF_LOW < s.rd F.CTL_TM_BUF_HIGH
  else if off = F.FMT_DZ_CLEAN_LOW_PCT.off then s.rd F.FMT_DZ_CLEAN_LOW_PCT < s.rd F.FMT_DZ_CLEAN_HIGH_PCT
  else if off = F.RED_RATE_FLOOR_PCT.off then
    s.rd F.RED_RATE_FLOOR_PCT ≤ s.rd F.RED_RATE_CRIT_PCT && s.rd F.RED_RATE_CRIT_PCT ≤ s.rd F.RED_RATE_CEIL_PCT
  else if off = F.GRP_FAILOVER_BEAT_MS.off then 3 * s.rd F.GRP_FAILOVER_BEAT_MS ≤ s.rd F.GRP_FAILOVER_LEAD_MS
  else if off = F.PWR_SAG_CFG_WARN_MV.off then s.rd F.PWR_SAG_CFG_RESET_MV + 50 ≤ s.rd F.PWR_SAG_CFG_WARN_MV
  else true

/-- The write of a register whose fields act only under their access codes: ignored whole for a range or an ordering,
else each field takes its part, and a locked field that the write would change sets LOCKED_WRITE (R6, R483). -/
def State.writeFields (s : State) (port : Bool) (off v : Nat) : State :=
  let fs := fieldsAt off
  if ignoresWhole off && fs.any (fun p => s.hostSets p.1 && !p.1.accepts p.2.1 (p.1.carried v)) then s
  else
    let t := fs.foldl (fun t p => t.hostField v p) s
    if !t.ordered off then s
    else if fs.any (s.lockedHit v) then t.accessErr F.GLB_ACCESS_ERR_LOCKED_WRITE port off
    else t

/-! ## Registers whose write does more -/

/-- `GLB.RESET_CTL`: WARM with KEY 0xC3A5 resets the WARM domain; another KEY sets RESET_KEY; without WARM nothing
happens (R457). -/
def State.writeResetCtl (s : State) (port : Bool) (v : Nat) : State :=
  if bits v 0 1 = 0 then s
  else if bits v 16 16 = 0xC3A5 then s.resetWarm.resetCause 8
  else s.accessErr F.GLB_ACCESS_ERR_RESET_KEY port F.GLB_RESET_CTL_WARM.off

/-- `WARM_RESET`: a write of `GLB.RESET_CTL` (R457). -/
def execWarmReset (port : Bool) (value : Word) (s : State) : Host.Outcome State Fault Refusal :=
  .next (if s.barsUp port then s.writeResetCtl port value.toNat else s)

/-- A slot's integrator is preset on its next sample after a change of bank or ramp mode (R291). -/
def State.presetIf (s : State) (n : Nat) (c : Bool) : State :=
  if c then s.setSlotOf n { s.slotOf n with preset := true } else s

/-- A register of Speedwell slot `n`: a change of BANK or ramp mode presets the integrator; a coefficient of the bank in
use is not written and sets ACTIVE_BANK_WRITE; the set-point's upper half commits a ramp target (R290, R291). -/
def State.writeSlot (s : State) (port : Bool) (n off v : Nat) : State :=
  let r := off % 256
  let bank := s.rdi F.CTL_SLOT_CFG_BANK n
  let inA := 0x40 ≤ r && r < 0x9C
  let inB := 0xA0 ≤ r && r < 0xFC
  if (inA && bank = 0) || (inB && bank = 1) then
    let s := if (fieldsAt off).any (s.lockedHit v) then s.accessErr F.GLB_ACCESS_ERR_LOCKED_WRITE port off else s
    s.slotFlag n 9
  else if r = 0x38 then s.commitTarget n (v % 2 ^ 16)
  else
    let t := s.writeFields port off v
    t.presetIf n (t.rdi F.CTL_SLOT_CFG_BANK n != bank || t.rdi F.CTL_RAMP_CTL_MODE n != s.rdi F.CTL_RAMP_CTL_MODE n)

/-- `TRC.CTL`: ARM, FORCE and ABORT in that order when a write carries more than one (R301, R302). -/
def State.writeTrcCtl (s : State) (v : Nat) : State :=
  let s := if bitAt v 0 then s.traceArm else s
  let s := if bitAt v 1 then s.traceForce else s
  if bitAt v 2 then s.traceAbort else s

/-- The trace unit's configuration is writable in IDLE and DONE only. -/
def traceConfig (off : Nat) : Bool :=
  (0x0310008 ≤ off && off < 0x0310018) || (0x0310040 ≤ off && off < 0x0310080)

/-- `BOOT.RCV_CMD` in recovery mode: 1 ERASE, 2 PROGRAM, 3 READ, 4 SELECT; other codes do nothing (R441). -/
def State.writeRcvCmd (s : State) (port : Bool) (v : Nat) : State :=
  let slot := bitAt v 8
  match bits v 0 3 with
  | 1 => s.rcvErase port slot
  | 2 => s.rcvProgram port slot
  | 3 => s.rcvRead port slot
  | 4 => s.rcvSelect port slot
  | _ => s

/-- The part of a queue or ring that the low bits of an offset name: base low, base high, configuration. -/
def cfgPartOf (r : Nat) : Option CfgPart :=
  if r = 0 then some .baseLo else if r = 4 then some .baseHi else if r = 8 then some .cfg else none

/-- A host write of the BAR0 register at `off` whose memory requests reach the device. -/
def State.hostWrite (s : State) (port : Bool) (off v : Nat) : State :=
  if s.absent off then s
  else if off = F.GLB_RESET_CTL_WARM.off then s.writeResetCtl port v
  else if off = F.HIF_ING_WM_HIGH.off then s.writeIngWm v
  else if off = F.SQ_ARB_WEIGHT_HIGH.off then s.writeArb false v
  else if off = F.SQ_ARB_URGENT_CAP.off then s.writeArb true v
  else if 0x0081000 ≤ off && off < 0x0081400 then
    (match cfgPartOf (off % 16) with
     | some p => s.writeTq ((off - 0x0081000) / 16) p v
     | none => s)
  else if 0x0082000 ≤ off && off < 0x0082800 && off % 32 < 12 then
    (match cfgPartOf (off % 32) with
     | some p => s.writeCr ((off - 0x0082000) / 32) p v
     | none => s)
  else if 0x0200000 ≤ off && off < 0x0200C00 then s.writeSlot port ((off - 0x0200000) / 256) off v
  else if 0x0210000 ≤ off && off < 0x0216000 && s.slotOn ((off - 0x0210000) / 2048) then s
  else if 0x0218000 ≤ off && off < 0x0219800 && s.slotOn (2 * s.actOf ((off - 0x0218000) / 256)) then s
  else if off = F.TRC_CTL_ARM.off then s.writeTrcCtl v
  else if traceConfig off && (s.rd F.TRC_STATUS_STATE = 1 || s.rd F.TRC_STATUS_STATE = 2) then s
  else if off = F.BOOT_RCV_CMD_CMD.off then s.writeRcvCmd port v
  else if (off = F.BOOT_RCV_ADDR_PAGE.off || (0x0300300 ≤ off && off < 0x0300400)) && s.on F.BOOT_RCV_STATUS_BUSY then s
  else if off = F.MEM_SELFTEST_RUN.off then (if bitAt v 0 then s.selfTestRun [] else s)
  else s.writeFields port off v

/-- `REG_WRITE`: a host write of a register; an offset that is no multiple of 4 is an access of R5. -/
def execRegWrite (port : Bool) (offset : BitVec 26) (value : Word) (s : State) : Host.Outcome State Fault Refusal :=
  if !s.barsUp port then .next s
  else if offset.toNat % 4 != 0 then .next (s.accessErr F.GLB_ACCESS_ERR_SIZE port offset.toNat)
  else .next (s.hostWrite port offset.toNat value.toNat)

end Sys2Proof.Machine
end

