-- ==== Sys2Proof/Machine/Dispatch.lean ====
section
/-!
DEFINITION. The dispatch: one arm per command, each a single call of its meaning.
-/

namespace Sys2Proof.Machine

/-- The effect of one command on everything but the queue. -/
def exec (i : Instr) (s : State) : Host.Outcome State Fault Refusal :=
  match i with
  | .alwaysOnSupplyUp => Sys2Proof.Machine.execAlwaysOnSupplyUp s
  | .powerOnReset => Sys2Proof.Machine.execPowerOnReset s
  | .perstNAsserted => Sys2Proof.Machine.execPerstNAsserted s
  | .warmReset port value => Sys2Proof.Machine.execWarmReset port value s
  | .watchdogExpiry => Sys2Proof.Machine.execWatchdogExpiry s
  | .wdtKick byHost value => Sys2Proof.Machine.execWdtKick byHost value s
  | .startUp otpOk pllOk hbmOk badCase unread reachLock ms => Sys2Proof.Machine.execStartUp otpOk pllOk hbmOk badCase unread reachLock ms s
  | .rcvErase port slot => Sys2Proof.Machine.execRcvErase port slot s
  | .rcvProgram port slot => Sys2Proof.Machine.execRcvProgram port slot s
  | .rcvRead port slot => Sys2Proof.Machine.execRcvRead port slot s
  | .rcvSelect port slot => Sys2Proof.Machine.execRcvSelect port slot s
  | .configRequest port write reg value => Sys2Proof.Machine.execConfigRequest port write reg value s
  | .dataLinkDown port => Sys2Proof.Machine.execDataLinkDown port s
  | .linkUp port width speed => Sys2Proof.Machine.execLinkUp port width speed s
  | .bar0BadAccess port write offset => Sys2Proof.Machine.execBar0BadAccess port write offset s
  | .regWrite port offset value => Sys2Proof.Machine.execRegWrite port offset value s
  | .latchedPairLoRead req offset => Sys2Proof.Machine.execLatchedPairLoRead req offset s
  | .rcCounterRead req offset => Sys2Proof.Machine.execRcCounterRead req offset s
  | .evtData0Read port => Sys2Proof.Machine.execEvtData0Read port s
  | .ingWmWrite port value => Sys2Proof.Machine.execIngWmWrite port value s
  | .arbConfigWrite port urgent value => Sys2Proof.Machine.execArbConfigWrite port urgent value s
  | .tqCfgWrite port queue part value => Sys2Proof.Machine.execTqCfgWrite port queue part value s
  | .crCfgWrite port ring part value => Sys2Proof.Machine.execCrCfgWrite port ring part value s
  | .slotWordWrite port addr bytes => Sys2Proof.Machine.execSlotWordWrite port addr bytes s
  | .goWrite port addr bytes => Sys2Proof.Machine.execGoWrite port addr bytes s
  | .tqDoorbell port queue mask => Sys2Proof.Machine.execTqDoorbell port queue mask s
  | .bar4BadAccess port write => Sys2Proof.Machine.execBar4BadAccess port write s
  | .tagEntryFetched queue tag entry => Sys2Proof.Machine.execTagEntryFetched queue tag entry s
  | .descListFetched src entries => Sys2Proof.Machine.execDescListFetched src entries s
  | .dmaReadFailed src what how => Sys2Proof.Machine.execDmaReadFailed src what how s
  | .dmaDataArrival src bytes => Sys2Proof.Machine.execDmaDataArrival src bytes s
  | .crHeadDoorbell port ring value => Sys2Proof.Machine.execCrHeadDoorbell port ring value s
  | .arbDispatchSlot => Sys2Proof.Machine.execArbDispatchSlot s
  | .throttleWindow => Sys2Proof.Machine.execThrottleWindow s
  | .coalTimerExpiry ring => Sys2Proof.Machine.execCoalTimerExpiry ring s
  | .logCopy => Sys2Proof.Machine.execLogCopy s
  | .acceptancePointReached src => Sys2Proof.Machine.execAcceptancePointReached src s
  | .openCmd src => Sys2Proof.Machine.execOpenCmd src s
  | .appendCmd src => Sys2Proof.Machine.execAppendCmd src s
  | .sealCmd src => Sys2Proof.Machine.execSealCmd src s
  | .getCmd src hit held room => Sys2Proof.Machine.execGetCmd src hit held room s
  | .statCmd src hit => Sys2Proof.Machine.execStatCmd src hit s
  | .deleteCmd src => Sys2Proof.Machine.execDeleteCmd src s
  | .listCmd src hit => Sys2Proof.Machine.execListCmd src hit s
  | .barrierCmd src => Sys2Proof.Machine.execBarrierCmd src s
  | .flushCmd src => Sys2Proof.Machine.execFlushCmd src s
  | .abortCmd src => Sys2Proof.Machine.execAbortCmd src s
  | .mediaStart src => Sys2Proof.Machine.execMediaStart src s
  | .mediaStop src => Sys2Proof.Machine.execMediaStop src s
  | .mediaFormat src scan outer => Sys2Proof.Machine.execMediaFormat src scan outer s
  | .zoneClean src => Sys2Proof.Machine.execZoneClean src s
  | .mediaInfo src => Sys2Proof.Machine.execMediaInfo src s
  | .zoneInfo src => Sys2Proof.Machine.execZoneInfo src s
  | .formCmd src holding => Sys2Proof.Machine.execFormCmd src holding s
  | .addCmd src holding => Sys2Proof.Machine.execAddCmd src holding s
  | .removeCmd src => Sys2Proof.Machine.execRemoveCmd src s
  | .fenceCmd src => Sys2Proof.Machine.execFenceCmd src s
  | .unfenceCmd src => Sys2Proof.Machine.execUnfenceCmd src s
  | .failCmd src => Sys2Proof.Machine.execFailCmd src s
  | .setDeputyCmd src => Sys2Proof.Machine.execSetDeputyCmd src s
  | .reshapeCmd src => Sys2Proof.Machine.execReshapeCmd src s
  | .queryCmd src => Sys2Proof.Machine.execQueryCmd src s
  | .keyLoadLoad src => Sys2Proof.Machine.execKeyLoadLoad src s
  | .keyLoadClear src => Sys2Proof.Machine.execKeyLoadClear src s
  | .imageWrite src => Sys2Proof.Machine.execImageWrite src s
  | .imageActivateDefer src => Sys2Proof.Machine.execImageActivateDefer src s
  | .imageActivateNow src => Sys2Proof.Machine.execImageActivateNow src s
  | .imageCheckDone src readBad => Sys2Proof.Machine.execImageCheckDone src readBad s
  | .activationApply src => Sys2Proof.Machine.execActivationApply src s
  | .healthCmd src => Sys2Proof.Machine.execHealthCmd src s
  | .logRead src => Sys2Proof.Machine.execLogRead src s
  | .tansyResume src hostTagsOk => Sys2Proof.Machine.execTansyResume src hostTagsOk s
  | .decompressResume src room hostTagsOk => Sys2Proof.Machine.execDecompressResume src room hostTagsOk s
  | .dataSetCloseTimeout => Sys2Proof.Machine.execDataSetCloseTimeout s
  | .dataSetBegin => Sys2Proof.Machine.execDataSetBegin s
  | .frameSlotStart => Sys2Proof.Machine.execFrameSlotStart s
  | .verifyDeadline track slot => Sys2Proof.Machine.execVerifyDeadline track slot s
  | .lateralWriteInhibit => Sys2Proof.Machine.execLateralWriteInhibit s
  | .writeResumeSettled => Sys2Proof.Machine.execWriteResumeSettled s
  | .wrapTurn endLimit => Sys2Proof.Machine.execWrapTurn endLimit s
  | .stepDecision => Sys2Proof.Machine.execStepDecision s
  | .quietPointDrained => Sys2Proof.Machine.execQuietPointDrained s
  | .speedSettled gapFrames => Sys2Proof.Machine.execSpeedSettled gapFrames s
  | .tapeHoldStop => Sys2Proof.Machine.execTapeHoldStop s
  | .tapeRestart => Sys2Proof.Machine.execTapeRestart s
  | .servoFrameRecord a b c d dt bit => Sys2Proof.Machine.execServoFrameRecord a b c d dt bit s
  | .velocityFollowingError => Sys2Proof.Machine.execVelocityFollowingError s
  | .tensionError => Sys2Proof.Machine.execTensionError s
  | .tensionCollapse => Sys2Proof.Machine.execTensionCollapse s
  | .threadTimeout => Sys2Proof.Machine.execThreadTimeout s
  | .reacquisitionDone success => Sys2Proof.Machine.execReacquisitionDone success s
  | .loadStageDone => Sys2Proof.Machine.execLoadStageDone s
  | .unloadDone => Sys2Proof.Machine.execUnloadDone s
  | .landingCopyWritten src surface fault => Sys2Proof.Machine.execLandingCopyWritten src surface fault s
  | .landingSpaceFreed src => Sys2Proof.Machine.execLandingSpaceFreed src s
  | .destageTrackWritten surface fault written => Sys2Proof.Machine.execDestageTrackWritten surface fault written s
  | .zoneTablePeriodic => Sys2Proof.Machine.execZoneTablePeriodic s
  | .zoneReset zone => Sys2Proof.Machine.execZoneReset zone s
  | .codewordComplete lane target use marks run asperity now => Sys2Proof.Machine.execCodewordComplete lane target use marks run asperity now s
  | .cellFreeDispatch cell now poison => Sys2Proof.Machine.execCellFreeDispatch cell now poison s
  | .cellCodewordEnd cell now res => Sys2Proof.Machine.execCellCodewordEnd cell now res s
  | .cellSelfCheckDue cell => Sys2Proof.Machine.execCellSelfCheckDue cell s
  | .wedgeRecord lane found half vga sums nominal index track pes sam now => Sys2Proof.Machine.execWedgeRecord lane found half vga sums nominal index track pes sam now s
  | .retryRereadDone target run marks now => Sys2Proof.Machine.execRetryRereadDone target run marks now s
  | .tapeRereadDone part ds good => Sys2Proof.Machine.execTapeRereadDone part ds good s
  | .fieldWriteStart act field w0 w1 => Sys2Proof.Machine.execFieldWriteStart act field w0 w1 s
  | .fieldWriteEnd act => Sys2Proof.Machine.execFieldWriteEnd act s
  | .pacResponse act frame => Sys2Proof.Machine.execPacResponse act frame s
  | .pacFaultFall act => Sys2Proof.Machine.execPacFaultFall act s
  | .assistLoopSample head monitor => Sys2Proof.Machine.execAssistLoopSample head monitor s
  | .assistLevelSave => Sys2Proof.Machine.execAssistLevelSave s
  | .synthUnlock which => Sys2Proof.Machine.execSynthUnlock which s
  | .slotSample slot now feedback angle => Sys2Proof.Machine.execSlotSample slot now feedback angle s
  | .sampleTimeout slot now => Sys2Proof.Machine.execSampleTimeout slot now s
  | .rampTargetCommit port slot value => Sys2Proof.Machine.execRampTargetCommit port slot value s
  | .followingErrorTimeout slot => Sys2Proof.Machine.execFollowingErrorTimeout slot s
  | .loopLossAction slot now => Sys2Proof.Machine.execLoopLossAction slot now s
  | .retractAction act now => Sys2Proof.Machine.execRetractAction act now s
  | .reloadAttempt act => Sys2Proof.Machine.execReloadAttempt act s
  | .reloadWindowExpiry act => Sys2Proof.Machine.execReloadWindowExpiry act s
  | .seekStart act head track prio => Sys2Proof.Machine.execSeekStart act head track prio s
  | .spindleAtSpeed ok0 ok1 => Sys2Proof.Machine.execSpindleAtSpeed ok0 ok1 s
  | .spindleFault cause => Sys2Proof.Machine.execSpindleFault cause s
  | .mdrvFaultFall => Sys2Proof.Machine.execMdrvFaultFall s
  | .mdrvResponse lane frame => Sys2Proof.Machine.execMdrvResponse lane frame s
  | .trcArm port => Sys2Proof.Machine.execTrcArm port s
  | .trcForce port => Sys2Proof.Machine.execTrcForce port s
  | .trcAbort port => Sys2Proof.Machine.execTrcAbort port s
  | .traceDone postMs => Sys2Proof.Machine.execTraceDone postMs s
  | .trcRdDataRead req => Sys2Proof.Machine.execTrcRdDataRead req s
  | .hello env uid code id epoch group => Sys2Proof.Machine.execHello env uid code id epoch group s
  | .laneBlockLock port lane headers => Sys2Proof.Machine.execLaneBlockLock port lane headers s
  | .laneDegradeTimeout port => Sys2Proof.Machine.execLaneDegradeTimeout port s
  | .linkFrame port lseq cls invalid bytes => Sys2Proof.Machine.execLinkFrame port lseq cls invalid bytes s
  | .linkAck port lseq => Sys2Proof.Machine.execLinkAck port lseq s
  | .linkNak port lseq => Sys2Proof.Machine.execLinkNak port lseq s
  | .replayTimeout port => Sys2Proof.Machine.execReplayTimeout port s
  | .linkCredit port credits => Sys2Proof.Machine.execLinkCredit port credits s
  | .linkInit port code ready => Sys2Proof.Machine.execLinkInit port code ready s
  | .portDown port retries => Sys2Proof.Machine.execPortDown port retries s
  | .e2eResendTimeout member vc => Sys2Proof.Machine.execE2eResendTimeout member vc s
  | .routeWaitTimeout member => Sys2Proof.Machine.execRouteWaitTimeout member s
  | .stripWriteData env h data => Sys2Proof.Machine.execStripWriteData env h data s
  | .stripWriteAbort env h => Sys2Proof.Machine.execStripWriteAbort env h s
  | .stripRead env h => Sys2Proof.Machine.execStripRead env h s
  | .stripData env h data => Sys2Proof.Machine.execStripData env h data s
  | .stripDone env h => Sys2Proof.Machine.execStripDone env h s
  | .stripEstimate env h => Sys2Proof.Machine.execStripEstimate env h s
  | .stripFail env h => Sys2Proof.Machine.execStripFail env h s
  | .stripRequestDeadline member stripe slot => Sys2Proof.Machine.execStripRequestDeadline member stripe slot s
  | .landingData env h data => Sys2Proof.Machine.execLandingData env h data s
  | .landingWritten env h => Sys2Proof.Machine.execLandingWritten env h s
  | .landingRelease env h => Sys2Proof.Machine.execLandingRelease env h s
  | .landingFail env h => Sys2Proof.Machine.execLandingFail env h s
  | .journalRecord env h data => Sys2Proof.Machine.execJournalRecord env h data s
  | .journalTake env h => Sys2Proof.Machine.execJournalTake env h s
  | .journalRecords env h data => Sys2Proof.Machine.execJournalRecords env h data s
  | .journalDirectory env h data => Sys2Proof.Machine.execJournalDirectory env h data s
  | .journalRows env h data => Sys2Proof.Machine.execJournalRows env h data s
  | .rebuildList env h => Sys2Proof.Machine.execRebuildList env h s
  | .rebuildListData env h data => Sys2Proof.Machine.execRebuildListData env h data s
  | .rebuildRead env h => Sys2Proof.Machine.execRebuildRead env h s
  | .rebuildData env h data => Sys2Proof.Machine.execRebuildData env h data s
  | .seqMirror env stream entry => Sys2Proof.Machine.execSeqMirror env stream entry s
  | .mapLookup env key data => Sys2Proof.Machine.execMapLookup env key data s
  | .mapInsert env key data => Sys2Proof.Machine.execMapInsert env key data s
  | .mapUpdate env key data => Sys2Proof.Machine.execMapUpdate env key data s
  | .mapDelete env key => Sys2Proof.Machine.execMapDelete env key s
  | .discoverProbe env uid count => Sys2Proof.Machine.execDiscoverProbe env uid count s
  | .discoverAssign env uid count => Sys2Proof.Machine.execDiscoverAssign env uid count s
  | .discoverStableTimer => Sys2Proof.Machine.execDiscoverStableTimer s
  | .linkState env origin version ports => Sys2Proof.Machine.execLinkState env origin version ports s
  | .leadBeatTimer => Sys2Proof.Machine.execLeadBeatTimer s
  | .leadBeat env epoch => Sys2Proof.Machine.execLeadBeat env epoch s
  | .memberBeat env medium state hostUp => Sys2Proof.Machine.execMemberBeat env medium state hostUp s
  | .memberUnreachableTimeout member => Sys2Proof.Machine.execMemberUnreachableTimeout member s
  | .leadQuorumLost => Sys2Proof.Machine.execLeadQuorumLost s
  | .deputyReplace => Sys2Proof.Machine.execDeputyReplace s
  | .deputyLeadLossTimeout => Sys2Proof.Machine.execDeputyLeadLossTimeout s
  | .leadQuery env => Sys2Proof.Machine.execLeadQuery env s
  | .leadQueryResp env lost => Sys2Proof.Machine.execLeadQueryResp env lost s
  | .deputyCopyDone => Sys2Proof.Machine.execDeputyCopyDone s
  | .epochCmd env bytes => Sys2Proof.Machine.execEpochCmd env bytes s
  | .epochReq env => Sys2Proof.Machine.execEpochReq env s
  | .rejectCmd env reason epoch seq type => Sys2Proof.Machine.execRejectCmd env reason epoch seq type s
  | .e2eAck env vc seq => Sys2Proof.Machine.execE2eAck env vc seq s
  | .slowFenceTimeout member => Sys2Proof.Machine.execSlowFenceTimeout member s
  | .slowFailTimeout member => Sys2Proof.Machine.execSlowFailTimeout member s
  | .mgmtGetMembership tag base => Sys2Proof.Machine.execMgmtGetMembership tag base s
  | .mgmtReadEvent tag base => Sys2Proof.Machine.execMgmtReadEvent tag base s
  | .mgmtHealth tag base => Sys2Proof.Machine.execMgmtHealth tag base s
  | .mgmtRegRead tag base offset => Sys2Proof.Machine.execMgmtRegRead tag base offset s
  | .mgmtAdmin tag base fn key offset holding => Sys2Proof.Machine.execMgmtAdmin tag base fn key offset holding s
  | .mgmtLogRead tag base first count => Sys2Proof.Machine.execMgmtLogRead tag base first count s
  | .mgmtCmd env part tag dataOffset frame data => Sys2Proof.Machine.execMgmtCmd env part tag dataOffset frame data s
  | .mgmtCmdDone env tag entry => Sys2Proof.Machine.execMgmtCmdDone env tag entry s
  | .mgmtOpAdmin env tag base fn key offset holding => Sys2Proof.Machine.execMgmtOpAdmin env tag base fn key offset holding s
  | .mgmtAdminDone env tag rc status result aux => Sys2Proof.Machine.execMgmtAdminDone env tag rc status result aux s
  | .stripeCloseTimeout => Sys2Proof.Machine.execStripeCloseTimeout s
  | .rebuildShareUpdate busyPct => Sys2Proof.Machine.execRebuildShareUpdate busyPct s
  | .reshapeFlip => Sys2Proof.Machine.execReshapeFlip s
  | .droopTrip => Sys2Proof.Machine.execDroopTrip s
  | .droopRestore us => Sys2Proof.Machine.execDroopRestore us s
  | .slowingWindowEnd => Sys2Proof.Machine.execSlowingWindowEnd s
  | .sagWarnCrossing mv => Sys2Proof.Machine.execSagWarnCrossing mv s
  | .sagWarnClear => Sys2Proof.Machine.execSagWarnClear s
  | .braceRetractTimer => Sys2Proof.Machine.execBraceRetractTimer s
  | .braceDone => Sys2Proof.Machine.execBraceDone s
  | .braceRecover => Sys2Proof.Machine.execBraceRecover s
  | .sagResetCrossing mv => Sys2Proof.Machine.execSagResetCrossing mv s
  | .sensorConversion sensor inp => Sys2Proof.Machine.execSensorConversion sensor inp s
  | .thresholdDwellExpiry sensor thr => Sys2Proof.Machine.execThresholdDwellExpiry sensor thr s
  | .riseDwellExpiry sensor => Sys2Proof.Machine.execRiseDwellExpiry sensor s
  | .sensorFaultClear sensor => Sys2Proof.Machine.execSensorFaultClear sensor s
  | .throttleGraceExpiry => Sys2Proof.Machine.execThrottleGraceExpiry s
  | .throttleAdjust => Sys2Proof.Machine.execThrottleAdjust s
  | .thermalRelease => Sys2Proof.Machine.execThermalRelease s
  | .betonyLoop i0 i1 i2 i3 => Sys2Proof.Machine.execBetonyLoop i0 i1 i2 i3 s
  | .shedRaise => Sys2Proof.Machine.execShedRaise s
  | .shedLower => Sys2Proof.Machine.execShedLower s
  | .fabricHbmRead block upset stuck user => Sys2Proof.Machine.execFabricHbmRead block upset stuck user s
  | .fabricHbmWrite block off bytes stuck user => Sys2Proof.Machine.execFabricHbmWrite block off bytes stuck user s
  | .sramMramRead mram addr upset stuck user => Sys2Proof.Machine.execSramMramRead mram addr upset stuck user s
  | .dieFailureDeclared slice => Sys2Proof.Machine.execDieFailureDeclared slice s
  | .correctionWindowEnd => Sys2Proof.Machine.execCorrectionWindowEnd s
  | .scrubRead memory upset stuck user => Sys2Proof.Machine.execScrubRead memory upset stuck user s
  | .scrubPassStart memory => Sys2Proof.Machine.execScrubPassStart memory s
  | .hardFaultRemap memory unit => Sys2Proof.Machine.execHardFaultRemap memory unit s
  | .memSelftestRun failed => Sys2Proof.Machine.execMemSelftestRun failed s
  | .norOperationDone flips => Sys2Proof.Machine.execNorOperationDone flips s
  | .perstNDeasserted => Sys2Proof.Machine.execPerstNDeasserted s
  | .pacFaultRelease act => Sys2Proof.Machine.execPacFaultRelease act s
  | .mdrvFaultRelease => Sys2Proof.Machine.execMdrvFaultRelease s
  | .writeSynthesizerLocked which => Sys2Proof.Machine.execWriteSynthesizerLocked which s
  | .msixVectorUnmask port write wide offset value => Sys2Proof.Machine.execMsixVectorUnmask port write wide offset value s
  | .receivedTlpError port uncorrectable bit => Sys2Proof.Machine.execReceivedTlpError port uncorrectable bit s
  | .mgmtBusTimeout => Sys2Proof.Machine.execMgmtBusTimeout s
  | .mgmtAddressAssignment clear addr => Sys2Proof.Machine.execMgmtAddressAssignment clear addr s
  | .mctpControlMessage inst cmd eid => Sys2Proof.Machine.execMctpControlMessage inst cmd eid s
  | .jtagTapOperation op => Sys2Proof.Machine.execJtagTapOperation op s

end Sys2Proof.Machine
end

