-- ==== Sys2Proof/Machine/Tick.lean ====
section
/-!
DEFINITION. One millisecond of CLK_AON, which an empty queue lets pass (log entry 4): the counters of time, the ramp of
the tape tension, and the work that goes on by itself once what it waited for has come.
-/

namespace Sys2Proof.Machine

/-! ## Counters of time -/

/-- An armed watchdog's time since its last restart (R439). -/
def BootSt.age (b : BootSt) : BootSt := { b with wdtMs := b.wdtMs + b2n b.wdtArmed }

/-- The times since the last slowing, the last release of admission and the start of a brace (R386, R395, R400). -/
def PwrSt.age (p : PwrSt) (brace : Nat) : PwrSt :=
  { p with
    sinceSlow := Nat.min (p.sinceSlow + 1) 0xFFFFFFFF
    sinceRelease := Nat.min (p.sinceRelease + 1) 0xFFFFFFFF
    braceMs := p.braceMs + brace }

/-- How long the tape has stood (R187). -/
def MotSt.age (m : MotSt) : MotSt := { m with stopMs := m.stopMs + b2n m.stopped }

/-- The times since the last beats of the lead and of the members (R329). -/
def GrpSt.age (g : GrpSt) : GrpSt :=
  { g with sinceBeat := g.sinceBeat + 1, beats := g.beats.map (fun e => (e.1, { e.2 with ageMs := e.2.ageMs + 1 })) }

/-- Powered time with the threshold of its lifetime counter, the watchdog's time, and the ages that rules compare with a
limit (R79, R127, R128). -/
def State.passTime (s : State) : State :=
  let s := s.add64 F.GLB_UPTIME_LO_MS F.GLB_UPTIME_HI_MS 1
  let s := { s with life := { s.life with ms := s.life.ms + 1 } }
  let s := if s.life.ms % 1000 = 0 then s.lifeStep 24 (s.life.ms / 1000 - 1) (s.life.ms / 1000) else s
  let s := s.setBoot s.boot.age
  let s := s.setPwr (s.pwr.age (s.rd F.PWR_STATUS_BRACE))
  let s := s.setMot s.mot.age
  s.setGrp s.grp.age

/-- A millisecond of halved clocks, and the window of the last ten of them (R380). -/
def State.passHalved (s : State) : State :=
  let s := if s.on F.CLK_STATUS_HALVED then s.addHalved 1000 else s
  s.setPwr { s.pwr with halved10 := 0 :: s.pwr.halved10.take 9 }

/-- The tension set-point moves by 0.5 N/s, which is 500 µN in a millisecond, toward TENSION, or toward the 0.1 N of the
leader in THREAD (R190, R191). -/
def State.rampTension (s : State) : State :=
  let mode := s.rd F.CTL_TM_STATUS_MODE
  if mode = 0 then s
  else
    let want := if mode = 1 then 100000 else s.rd F.CTL_TM_CFG_TENSION * 1000
    let t := s.mot.tension
    s.setMot { s.mot with tension := if t < want then Nat.min want (t + 500) else Nat.max want (t - 500) }

/-! ## Work that goes on -/

/-- A stopped tape whose pending level has reached RESUME_DS asks for its run-up; reading gives way to it (R187, R254). A
tape that stands after the controlled stop of row 1 or 2 begins its reverse (R197). -/
def State.resumeTape (s : State) : State :=
  let s := if s.mot.stopped && s.tapeActive && s.rd F.CTL_TM_BUF_RESUME_DS ≤ s.tape.pending then
      s.endReading.ask 2 1 2 else s
  if s.mot.reacq && s.mot.phase = .stop && (s.slotOf 0).v = 0 && !s.on F.PWR_STATUS_BRACE then s.reacqReverse else s

/-- After a flip, the old layout's strips are released once every GET admitted before it has completed; the lead tells
the others (R374; log entry 28). -/
def State.releaseOld (s : State) : State :=
  match s.red.flipMark with
  | none => s
  | some m =>
    if s.sq.cmds.any (fun c => c.frame.opcode = 0x10 && c.stage.isAdmitted && c.admitNo < m) then s
    else
      let s := s.setRed { s.red with flipMark := none }
      if !s.isLead then s
      else
        let old := (s.red.layout + 255) % 256
        let s : State := match s.grp.mrec with
          | some r => (s.others r).foldl (fun (s : State) i =>
              s.sendSeq i 5 (stripHead 5 2 0 0 (old * 2 ^ 56) 0 0 0 true false) none) s
          | none => s
        s.dropStrips (fun t => t.stripe / 2 ^ 56 = old)

/-- An activation goes on when what it waited for has ended (R444, R445). -/
def State.goOnActivation (s : State) : State :=
  match s.sq.cmds.find? (fun c => c.frame.opcode = 0x34 && c.stage = .started) with
  | some c => s.activateStep c
  | none => s

/-- One millisecond passes. -/
def State.tick (s : State) : State :=
  let s := ((s.passTime).passHalved).rampTension
  let s := ((s.tansyStep).sweepGone).resumeTape
  let s := (if s.medium.func = 2 then s.stopStep else s).restartMedium
  let s := if s.inGroup then ((s.ageSlow).peersStep).releaseOld else s
  s.goOnActivation

end Sys2Proof.Machine
end

