-- ==== Sys2Proof/Safety.lean ====
section
/-!
DEFINITION. What counts as safe: a step that answers a next state, and the invariants of the block: the event FIFO
within its places, registers of 32 bits, memories in canonical form, and fuses that are only ever blown.
-/

namespace Sys2Proof

/-- An outcome is a next state. -/
def isNext {σ φ ρ : Type} : Host.Outcome σ φ ρ → Bool
  | .next _ => true
  | _ => false

/-- A state from which the next step neither faults nor refuses. -/
def Machine.State.safe (s : Machine.State) : Prop := isNext (Machine.step s) = true

namespace Machine

/-- The event FIFO holds at most its 4,096 items, and the next SEQ is a 32-bit number other than 0 (R70, R72). -/
def HostSt.evtOk (h : HostSt) : Prop := h.evtFifo.length ≤ 4096 ∧ 1 ≤ h.evtSeq ∧ h.evtSeq ≤ 0xFFFFFFFF

/-- No register field stored in a domain's table is wider than a register, 32 bits. -/
def Regs.ok (r : Regs) : Prop := ∀ d : Domain, ∀ p ∈ r.dom d, p.2 < 2 ^ 32

/-- The HBM, SRAM and MRAM tables are in canonical form. -/
def MemSt.ok (m : MemSt) : Prop :=
  Store.wf none m.hbm = true ∧ Store.wf none m.sram = true ∧ Store.wf 0 m.mram = true

/-- The configuration flash is in canonical form. -/
def BootSt.norOk (b : BootSt) : Prop := Store.wf 0xFF#8 b.nor = true

/-- What the fuses hold: key hashes, revocations, the minimum SVN and the UNIQUE_ID (R428). -/
def Fuses.blown (f : Fuses) : List Nat × Nat × Nat × Nat := (f.keyHash, f.revoked, f.minSvn, f.uid)

/-- The commands the device holds stand in the order of their uids, which are distinct and below the next one. -/
def SqSt.uidsOk (q : SqSt) : Prop :=
  (q.cmds.map Cmd.uid).Pairwise (fun a b => a < b) ∧ ∀ c ∈ q.cmds, c.uid < q.nextUid

/-- The invariants of the block's state. -/
structure State.Inv (s : State) : Prop where
  uids : s.sq.uidsOk
  evt : s.host.evtOk
  regs : s.regs.ok
  mem : s.mem.ok
  nor : s.boot.norOk

/-- A part of the state that a command may leave alone: what has left the device, the counter of free values, each
unit's own state, and each 64 KiB block of registers by the upper bits of its BAR0 offset (Table 18-1). -/
inductive Part where
  | out | free | host | sq | obj | life | boot | tape | mot | disk | det | medium | wra | ctl | trc | grp | red | pwr
  | mem | pins
  | regs (block : Nat)
  deriving DecidableEq, Repr

/-- The part is the same in both states; a block of registers when every field of it reads the same at every index. -/
def Part.same : Part → State → State → Prop
  | .out, s, t => t.out = s.out
  | .free, s, t => t.free = s.free
  | .host, s, t => t.host = s.host
  | .sq, s, t => t.sq = s.sq
  | .obj, s, t => t.obj = s.obj
  | .life, s, t => t.life = s.life
  | .boot, s, t => t.boot = s.boot
  | .tape, s, t => t.tape = s.tape
  | .mot, s, t => t.mot = s.mot
  | .disk, s, t => t.disk = s.disk
  | .det, s, t => t.det = s.det
  | .medium, s, t => t.medium = s.medium
  | .wra, s, t => t.wra = s.wra
  | .ctl, s, t => t.ctl = s.ctl
  | .trc, s, t => t.trc = s.trc
  | .grp, s, t => t.grp = s.grp
  | .red, s, t => t.red = s.red
  | .pwr, s, t => t.pwr = s.pwr
  | .mem, s, t => t.mem = s.mem
  | .pins, s, t => t.pins = s.pins
  | .regs b, s, t => ∀ f ∈ allFields, f.block = b → ∀ i j, t.fget f i j = s.fget f i j

/-- `t` differs from `s` in the parts of a list only. -/
def Only (l : List Part) (s t : State) : Prop := ∀ p, p ∉ l → p.same s t

end Machine

end Sys2Proof
end

