-- ==== Sys2Proof/Frames.lean ====
section
/-!
DEFINITION. The frame of every command: the parts of the state it may change. Everything else is as it was. A part that
one path of a command writes stands in its row even where most paths leave it alone.
-/

namespace Sys2Proof.Machine

/-- What raising an event may change: what has left the device, the event FIFO, the log's staging ring, the trace unit,
and the registers of GLB, HIF and TRC (R72, R127, R302). -/
def partsOfEvent : List Part := [.out, .host, .life, .trc, .regs 0, .regs 4, .regs 49]

/-- What posting a completion may change: the queues of SQ and its registers, the message to a group's lead, and what an
event may (R88, R340). -/
def partsOfPost : List Part := partsOfEvent ++ [.sq, .grp, .regs 8]

/-- What placing or releasing host data may change: the object units, the media's queues, the redundancy engine and the
formatter's registers. -/
def partsOfPlace : List Part := partsOfPost ++ [.obj, .tape, .disk, .red, .regs 16]

/-- What work on strips may change besides. -/
def partsOfStrip : List Part := partsOfPlace ++ [.free, .mot, .regs 32, .regs 40]

/-- What a packet of a peer may change: it may also bring a newer record or end an image's function. -/
def partsOfPeer : List Part := partsOfStrip ++ [.boot, .regs 12, .regs 36, .regs 48]

/-- The register blocks with a field that a read clears. -/
def clearParts : List Part := [0, 1, 2, 4, 10, 12, 16, 20, 24, 28, 32, 36, 40, 44, 49].map Part.regs

/-- Every register block. -/
def mapParts : List Part := [0, 1, 2, 3, 4, 8, 10, 12, 16, 20, 24, 28, 32, 33, 36, 40, 44, 48, 49].map Part.regs

/-- The parts that a command may change. -/
def touches : Instr → List Part
  | .alwaysOnSupplyUp =>
      mapParts ++ [.host, .sq, .obj, .boot, .tape, .mot, .disk, .det, .medium, .wra, .ctl, .trc, .grp, .red, .pwr,
      .mem]
  | .powerOnReset =>
      mapParts ++ [.host, .sq, .obj, .boot, .tape, .mot, .disk, .det, .medium, .wra, .ctl, .trc, .grp, .red, .pwr,
      .mem]
  | .perstNAsserted =>
      mapParts ++ [.host, .sq, .obj, .boot, .tape, .mot, .disk, .det, .medium, .wra, .ctl, .trc, .grp, .red, .pwr,
      .mem]
  | .warmReset .. =>
      mapParts ++ [.host, .sq, .obj, .boot, .tape, .mot, .disk, .det, .medium, .wra, .ctl, .trc, .grp, .red, .pwr,
      .mem]
  | .watchdogExpiry =>
      mapParts ++ [.host, .sq, .obj, .boot, .tape, .mot, .disk, .det, .medium, .wra, .ctl, .trc, .grp, .red, .pwr,
      .mem]
  | .wdtKick .. => [.boot]
  | .startUp .. => mapParts ++ partsOfPost ++ [.obj, .boot, .mot, .disk, .medium, .wra, .ctl, .pwr, .mem]
  | .rcvErase .. => [.out, .boot, .regs 48]
  | .rcvProgram .. => [.out, .boot, .regs 48]
  | .rcvRead .. => [.regs 48]
  | .rcvSelect .. => [.boot, .regs 48]
  | .configRequest .. => [.out, .host]
  | .dataLinkDown .. => mapParts ++ partsOfPlace ++ [.boot, .mot, .det, .medium, .wra, .ctl, .pwr, .mem]
  | .linkUp .. => partsOfEvent
  | .bar0BadAccess .. => [.out, .regs 0]
  | .regWrite .. => mapParts ++ partsOfPlace ++ [.boot, .mot, .det, .medium, .wra, .ctl, .pwr, .mem]
  | .latchedPairLoRead .. => clearParts ++ [.out, .host]
  | .rcCounterRead .. => clearParts ++ [.out, .host]
  | .evtData0Read .. => clearParts ++ [.out, .host]
  | .ingWmWrite .. => partsOfEvent
  | .arbConfigWrite .. => [.regs 8]
  | .tqCfgWrite .. => [.regs 8]
  | .crCfgWrite .. => [.sq, .regs 8]
  | .slotWordWrite .. => partsOfPost
  | .goWrite .. => partsOfPost
  | .tqDoorbell .. => [.out, .sq, .regs 4, .regs 8]
  | .bar4BadAccess .. => [.out, .regs 4]
  | .tagEntryFetched .. => partsOfPost
  | .descListFetched .. => partsOfPost
  | .dmaReadFailed .. => partsOfPost ++ [.obj, .tape, .disk, .red]
  | .dmaDataArrival .. => partsOfPost ++ [.obj, .boot]
  | .crHeadDoorbell .. => [.out, .host, .sq, .grp, .regs 4, .regs 8]
  | .arbDispatchSlot => partsOfPost ++ [.pwr]
  | .throttleWindow => [.sq, .pwr]
  | .coalTimerExpiry .. => [.out, .host, .sq]
  | .logCopy => [.obj, .life, .tape, .mot, .regs 16, .regs 32]
  | .acceptancePointReached .. => partsOfPlace ++ [.regs 40]
  | .openCmd .. => partsOfStrip
  | .appendCmd .. => partsOfStrip
  | .sealCmd .. => partsOfStrip
  | .getCmd .. => partsOfPlace ++ [.mot, .pwr, .regs 10, .regs 12, .regs 32]
  | .statCmd .. => partsOfPost ++ [.regs 10]
  | .deleteCmd .. => partsOfStrip
  | .listCmd .. => partsOfPost ++ [.obj, .regs 10]
  | .barrierCmd .. => partsOfStrip
  | .flushCmd .. => partsOfStrip
  | .abortCmd .. => partsOfPost ++ [.obj, .boot, .tape, .mot, .disk, .medium, .red, .regs 48]
  | .mediaStart .. => mapParts ++ partsOfPost ++ [.mot, .medium, .wra, .ctl]
  | .mediaStop .. => partsOfStrip ++ [.medium, .wra, .ctl, .pwr, .regs 28]
  | .mediaFormat .. =>
      partsOfPost ++ [.free, .obj, .tape, .mot, .disk, .medium, .wra, .ctl, .pwr, .regs 16, .regs 28, .regs 32]
  | .zoneClean .. => partsOfPost ++ [.disk]
  | .mediaInfo .. => partsOfPost
  | .zoneInfo .. => partsOfPost
  | .formCmd .. => partsOfPlace ++ [.free, .regs 36, .regs 40]
  | .addCmd .. => partsOfPlace ++ [.free, .regs 36, .regs 40]
  | .removeCmd .. => partsOfPlace ++ [.free, .regs 36, .regs 40]
  | .fenceCmd .. => partsOfPlace ++ [.free, .regs 36, .regs 40]
  | .unfenceCmd .. => partsOfPlace ++ [.free, .regs 36, .regs 40]
  | .failCmd .. => partsOfPlace ++ [.free, .regs 36, .regs 40]
  | .setDeputyCmd .. => partsOfPlace ++ [.free, .regs 36, .regs 40]
  | .reshapeCmd .. => partsOfPlace ++ [.free, .regs 36, .regs 40]
  | .queryCmd .. => partsOfPlace ++ [.free, .regs 36, .regs 40]
  | .keyLoadLoad .. => partsOfPost ++ [.obj]
  | .keyLoadClear .. => partsOfPost ++ [.obj]
  | .imageWrite .. => partsOfPost ++ [.boot, .regs 48]
  | .imageActivateDefer .. => mapParts ++ partsOfPlace ++ [.boot]
  | .imageActivateNow .. => mapParts ++ partsOfPlace ++ [.boot]
  | .imageCheckDone .. => partsOfPost ++ [.obj, .boot, .tape, .disk, .red, .regs 48]
  | .activationApply .. => mapParts ++ partsOfPost ++ [.boot]
  | .healthCmd .. => partsOfPost
  | .logRead .. => partsOfPost
  | .tansyResume .. => partsOfStrip ++ [.regs 12]
  | .decompressResume .. => partsOfPlace ++ [.mot, .pwr, .regs 12, .regs 32]
  | .dataSetCloseTimeout => [.tape, .mot, .regs 32]
  | .dataSetBegin => partsOfPlace ++ [.mot, .medium, .wra, .regs 32]
  | .frameSlotStart => partsOfEvent ++ [.tape, .wra, .regs 16, .regs 28]
  | .verifyDeadline .. => partsOfPlace ++ [.mot, .det, .medium, .wra, .ctl, .pwr, .regs 20, .regs 28, .regs 32]
  | .lateralWriteInhibit => partsOfPlace ++ [.mot, .det, .medium, .wra, .ctl, .pwr, .regs 20, .regs 28, .regs 32]
  | .writeResumeSettled => [.mot, .wra, .regs 16, .regs 28, .regs 32]
  | .wrapTurn .. => [.tape, .mot, .ctl, .pwr, .regs 16, .regs 32]
  | .stepDecision => [.tape, .mot, .pwr, .regs 32]
  | .quietPointDrained => [.mot, .wra, .ctl, .pwr, .regs 16, .regs 28, .regs 32]
  | .speedSettled .. => partsOfEvent ++ [.tape, .mot, .wra, .regs 28, .regs 32]
  | .tapeHoldStop => [.mot]
  | .tapeRestart => [.mot, .pwr, .regs 32]
  | .servoFrameRecord .. => partsOfPlace ++ [.mot, .det, .medium, .wra, .ctl, .pwr, .regs 20, .regs 28, .regs 32]
  | .velocityFollowingError => partsOfPlace ++ [.mot, .det, .medium, .wra, .ctl, .pwr, .regs 20, .regs 28, .regs 32]
  | .tensionError => partsOfPlace ++ [.mot, .det, .medium, .wra, .ctl, .pwr, .regs 20, .regs 28, .regs 32]
  | .tensionCollapse => partsOfPlace ++ [.mot, .det, .medium, .wra, .ctl, .pwr, .regs 20, .regs 28, .regs 32]
  | .threadTimeout => partsOfPlace ++ [.mot, .det, .medium, .wra, .ctl, .pwr, .regs 20, .regs 28, .regs 32]
  | .reacquisitionDone .. => partsOfPlace ++ [.mot, .medium, .ctl, .pwr, .regs 32]
  | .loadStageDone => partsOfPost ++ [.tape, .mot, .medium, .wra, .ctl, .regs 16, .regs 28, .regs 32]
  | .unloadDone => partsOfPost ++ [.tape, .mot, .medium, .ctl, .pwr, .regs 16, .regs 28, .regs 32]
  | .landingCopyWritten .. => partsOfPlace
  | .landingSpaceFreed .. => partsOfPlace
  | .destageTrackWritten .. => partsOfPost ++ [.disk, .regs 16]
  | .zoneTablePeriodic => [.disk]
  | .zoneReset .. => partsOfPost ++ [.disk, .regs 16]
  | .codewordComplete .. => partsOfPlace ++ [.mot, .det, .medium, .wra, .ctl, .pwr, .regs 20, .regs 28, .regs 32]
  | .cellFreeDispatch .. => partsOfPlace ++ [.mot, .det, .medium, .wra, .ctl, .pwr, .regs 20, .regs 28, .regs 32]
  | .cellCodewordEnd .. =>
      partsOfPlace ++ [.mot, .det, .medium, .wra, .ctl, .pwr, .regs 20, .regs 24, .regs 28, .regs 32]
  | .cellSelfCheckDue .. => [.det]
  | .wedgeRecord .. => partsOfPlace ++ [.det, .wra, .ctl, .regs 20, .regs 28, .regs 32]
  | .retryRereadDone .. => partsOfPlace ++ [.det, .wra, .regs 20]
  | .tapeRereadDone .. => partsOfEvent ++ [.obj, .tape, .mot, .ctl, .pwr, .regs 32]
  | .fieldWriteStart .. => [.out, .wra, .ctl, .pwr, .regs 28]
  | .fieldWriteEnd .. => [.out, .wra, .regs 28]
  | .pacResponse .. => partsOfPlace ++ [.wra, .regs 28]
  | .pacFaultFall .. => [.out, .wra, .regs 28]
  | .assistLoopSample .. => partsOfPlace ++ [.wra, .regs 28]
  | .assistLevelSave => [.wra]
  | .synthUnlock .. => partsOfPlace ++ [.mot, .det, .medium, .wra, .ctl, .pwr, .regs 20, .regs 28, .regs 32]
  | .slotSample .. => partsOfPlace ++ [.mot, .det, .medium, .wra, .ctl, .pwr, .regs 20, .regs 28, .regs 32]
  | .sampleTimeout .. => partsOfPlace ++ [.mot, .det, .medium, .wra, .ctl, .pwr, .regs 20, .regs 28, .regs 32]
  | .rampTargetCommit .. => [.ctl, .regs 32]
  | .followingErrorTimeout .. => partsOfPlace ++ [.mot, .det, .medium, .wra, .ctl, .pwr, .regs 20, .regs 28, .regs 32]
  | .loopLossAction .. => partsOfPlace ++ [.mot, .det, .medium, .wra, .ctl, .pwr, .regs 20, .regs 28, .regs 32]
  | .retractAction .. => partsOfPlace ++ [.mot, .det, .medium, .wra, .ctl, .pwr, .regs 20, .regs 28, .regs 32]
  | .reloadAttempt .. => [.out, .ctl, .regs 32]
  | .reloadWindowExpiry .. => partsOfPlace ++ [.wra, .ctl, .pwr, .regs 28, .regs 32]
  | .seekStart .. => [.ctl, .pwr]
  | .spindleAtSpeed .. => partsOfPost ++ [.free, .disk, .medium, .ctl, .regs 16, .regs 32, .regs 33]
  | .spindleFault .. => partsOfPost ++ [.mot, .medium, .wra, .ctl, .pwr, .regs 28, .regs 32]
  | .mdrvFaultFall => [.out, .ctl, .regs 32]
  | .mdrvResponse .. => partsOfPlace ++ [.mot, .det, .medium, .wra, .ctl, .pwr, .regs 20, .regs 28, .regs 32]
  | .trcArm .. => [.trc, .regs 49]
  | .trcForce .. => [.trc, .regs 49]
  | .trcAbort .. => [.regs 49]
  | .traceDone .. => partsOfEvent
  | .trcRdDataRead .. => clearParts ++ [.out, .host]
  | .hello .. => partsOfStrip ++ [.boot, .regs 36, .regs 48]
  | .laneBlockLock .. => [.grp, .regs 36]
  | .laneDegradeTimeout .. => partsOfEvent ++ [.grp, .regs 36]
  | .linkFrame .. => partsOfStrip ++ [.boot, .regs 36, .regs 48]
  | .linkAck .. => [.out, .grp]
  | .linkNak .. => [.out, .grp, .regs 36]
  | .replayTimeout .. => [.out, .grp, .regs 36]
  | .linkCredit .. => [.out, .grp]
  | .linkInit .. => partsOfEvent ++ [.grp, .regs 36]
  | .portDown .. => partsOfEvent ++ [.grp, .regs 36]
  | .e2eResendTimeout .. => [.out, .grp, .regs 36]
  | .routeWaitTimeout .. => [.grp]
  | .stripWriteData .. => partsOfStrip ++ [.boot, .regs 36, .regs 48]
  | .stripWriteAbort .. => partsOfStrip ++ [.boot, .regs 36, .regs 48]
  | .stripRead .. => partsOfStrip ++ [.boot, .regs 36, .regs 48]
  | .stripData .. => partsOfStrip ++ [.boot, .regs 36, .regs 48]
  | .stripDone .. => partsOfStrip ++ [.boot, .regs 36, .regs 48]
  | .stripEstimate .. => partsOfStrip ++ [.boot, .regs 36, .regs 48]
  | .stripFail .. => partsOfStrip ++ [.boot, .regs 36, .regs 48]
  | .stripRequestDeadline .. => partsOfEvent ++ [.obj, .grp, .red, .regs 40]
  | .landingData .. => partsOfStrip ++ [.boot, .regs 36, .regs 48]
  | .landingWritten .. => partsOfStrip ++ [.boot, .regs 36, .regs 48]
  | .landingRelease .. => partsOfStrip ++ [.boot, .regs 36, .regs 48]
  | .landingFail .. => partsOfStrip ++ [.boot, .regs 36, .regs 48]
  | .journalRecord .. => partsOfStrip ++ [.boot, .regs 36, .regs 48]
  | .journalTake .. => partsOfStrip ++ [.boot, .regs 36, .regs 48]
  | .journalRecords .. => partsOfStrip ++ [.boot, .regs 36, .regs 48]
  | .journalDirectory .. => partsOfStrip ++ [.boot, .regs 36, .regs 48]
  | .journalRows .. => partsOfStrip ++ [.boot, .regs 36, .regs 48]
  | .rebuildList .. => partsOfStrip ++ [.boot, .regs 36, .regs 48]
  | .rebuildListData .. => partsOfStrip ++ [.boot, .regs 36, .regs 48]
  | .rebuildRead .. => partsOfStrip ++ [.boot, .regs 36, .regs 48]
  | .rebuildData .. => partsOfStrip ++ [.boot, .regs 36, .regs 48]
  | .seqMirror .. => partsOfStrip ++ [.boot, .regs 36, .regs 48]
  | .mapLookup .. => partsOfStrip ++ [.boot, .regs 36, .regs 48]
  | .mapInsert .. => partsOfStrip ++ [.boot, .regs 36, .regs 48]
  | .mapUpdate .. => partsOfStrip ++ [.boot, .regs 36, .regs 48]
  | .mapDelete .. => partsOfStrip ++ [.boot, .regs 36, .regs 48]
  | .discoverProbe .. => partsOfStrip ++ [.boot, .regs 36, .regs 48]
  | .discoverAssign .. => partsOfStrip ++ [.boot, .regs 36, .regs 48]
  | .discoverStableTimer => [.out, .grp]
  | .linkState .. => partsOfStrip ++ [.boot, .regs 36, .regs 48]
  | .leadBeatTimer => [.out, .grp]
  | .leadBeat .. => partsOfStrip ++ [.boot, .regs 36, .regs 48]
  | .memberBeat .. => partsOfStrip ++ [.boot, .regs 36, .regs 48]
  | .memberUnreachableTimeout .. => partsOfPlace ++ [.free, .boot, .regs 36, .regs 40, .regs 48]
  | .leadQuorumLost => partsOfPost ++ [.obj, .tape, .disk, .red, .regs 36]
  | .deputyReplace => partsOfPlace ++ [.free, .regs 36, .regs 40]
  | .deputyLeadLossTimeout => [.out, .grp]
  | .leadQuery .. => partsOfStrip ++ [.boot, .regs 36, .regs 48]
  | .leadQueryResp .. => partsOfStrip ++ [.boot, .regs 36, .regs 48]
  | .deputyCopyDone => partsOfPlace ++ [.free, .regs 36, .regs 40]
  | .epochCmd .. => partsOfStrip ++ [.boot, .regs 36, .regs 48]
  | .epochReq .. => partsOfStrip ++ [.boot, .regs 36, .regs 48]
  | .rejectCmd .. => partsOfStrip ++ [.boot, .regs 36, .regs 48]
  | .e2eAck .. => partsOfStrip ++ [.boot, .regs 36, .regs 48]
  | .slowFenceTimeout .. => partsOfPlace ++ [.free, .regs 36, .regs 40]
  | .slowFailTimeout .. => partsOfPlace ++ [.free, .regs 36, .regs 40]
  | .mgmtGetMembership .. => [.out]
  | .mgmtReadEvent .. => [.out, .host, .regs 4]
  | .mgmtHealth .. => [.out]
  | .mgmtRegRead .. => clearParts ++ [.out, .host]
  | .mgmtAdmin .. => partsOfPlace ++ [.free, .regs 36, .regs 40]
  | .mgmtLogRead .. => [.out]
  | .mgmtCmd .. => partsOfStrip ++ [.boot, .regs 36, .regs 48]
  | .mgmtCmdDone .. => partsOfStrip ++ [.boot, .regs 36, .regs 48]
  | .mgmtOpAdmin .. => partsOfStrip ++ [.boot, .regs 36, .regs 48]
  | .mgmtAdminDone .. => partsOfStrip ++ [.boot, .regs 36, .regs 48]
  | .stripeCloseTimeout => partsOfStrip
  | .rebuildShareUpdate .. => [.pwr, .regs 36, .regs 40]
  | .reshapeFlip => partsOfPlace ++ [.free, .regs 36, .regs 40]
  | .droopTrip => [.pwr, .regs 1]
  | .droopRestore .. => [.pwr, .regs 1]
  | .slowingWindowEnd => partsOfEvent ++ [.pwr]
  | .sagWarnCrossing .. =>
      partsOfPlace ++ [.boot, .mot, .det, .medium, .wra, .ctl, .pwr, .regs 2, .regs 20, .regs 28, .regs 32]
  | .sagWarnClear => [.regs 2]
  | .braceRetractTimer => [.out, .wra, .ctl, .pwr, .regs 28, .regs 32]
  | .braceDone => partsOfEvent ++ [.ctl, .pwr, .regs 2, .regs 32]
  | .braceRecover => partsOfPost ++ [.boot, .mot, .ctl, .pwr, .regs 2, .regs 32]
  | .sagResetCrossing .. =>
      mapParts ++ [.host, .sq, .obj, .boot, .tape, .mot, .disk, .det, .medium, .wra, .ctl, .trc, .grp, .red, .pwr,
      .mem]
  | .sensorConversion .. => partsOfEvent ++ [.sq, .pwr, .mem, .regs 3, .regs 8]
  | .thresholdDwellExpiry .. => mapParts ++ partsOfPlace ++ [.boot, .mot, .det, .medium, .wra, .ctl, .pwr, .mem]
  | .riseDwellExpiry .. => partsOfEvent ++ [.sq, .pwr, .regs 3, .regs 8]
  | .sensorFaultClear .. => partsOfEvent ++ [.sq, .pwr, .regs 3, .regs 8]
  | .throttleGraceExpiry => partsOfEvent ++ [.sq, .regs 8]
  | .throttleAdjust => [.pwr, .regs 3, .regs 8]
  | .thermalRelease => [.pwr]
  | .betonyLoop .. =>
      partsOfEvent ++ [.sq, .tape, .mot, .wra, .ctl, .red, .pwr, .regs 2, .regs 3, .regs 8, .regs 28, .regs 32,
      .regs 36, .regs 40]
  | .shedRaise => partsOfEvent ++ [.sq, .red, .pwr, .regs 2, .regs 3, .regs 8, .regs 36, .regs 40]
  | .shedLower => partsOfEvent ++ [.sq, .red, .pwr, .regs 2, .regs 3, .regs 8, .regs 36, .regs 40]
  | .fabricHbmRead .. =>
      partsOfPlace ++ [.mot, .det, .medium, .wra, .ctl, .pwr, .mem, .regs 12, .regs 20, .regs 28, .regs 32, .regs
      44]
  | .fabricHbmWrite .. =>
      partsOfPlace ++ [.mot, .det, .medium, .wra, .ctl, .pwr, .mem, .regs 12, .regs 20, .regs 28, .regs 32, .regs
      44]
  | .sramMramRead .. =>
      partsOfPlace ++ [.boot, .mot, .det, .medium, .wra, .ctl, .pwr, .mem, .regs 12, .regs 20, .regs 24, .regs 28,
      .regs 32, .regs 33, .regs 44]
  | .dieFailureDeclared .. => partsOfEvent ++ [.mem, .regs 44]
  | .correctionWindowEnd => partsOfEvent ++ [.mem, .regs 44]
  | .scrubRead .. =>
      partsOfPlace ++ [.boot, .mot, .det, .medium, .wra, .ctl, .pwr, .mem, .regs 12, .regs 20, .regs 24, .regs 28,
      .regs 32, .regs 33, .regs 44]
  | .scrubPassStart .. => partsOfEvent ++ [.mem, .regs 44]
  | .hardFaultRemap .. => partsOfEvent ++ [.mem, .regs 44]
  | .memSelftestRun .. => partsOfEvent ++ [.regs 44]
  | .norOperationDone .. => partsOfPost ++ [.boot, .regs 48]
  | .perstNDeasserted => [.host]
  | .pacFaultRelease .. => [.out, .wra, .regs 28]
  | .mdrvFaultRelease => [.regs 32]
  | .writeSynthesizerLocked .. => [.wra, .regs 28]
  | .msixVectorUnmask .. => [.out, .host, .regs 4]
  | .receivedTlpError .. => partsOfEvent
  | .mgmtBusTimeout => [.out]
  | .mgmtAddressAssignment .. => [.grp]
  | .mctpControlMessage .. => [.out, .grp]
  | .jtagTapOperation .. => [.out, .boot, .pins]

/-! ## What a command brings about -/

/-- An output has left the device between `s` and `t`. -/
def Emitted (o : Output) (s t : State) : Prop := ∃ pre, t.out = pre ++ s.out ∧ o ∈ pre

/-- An event has been raised between `s` and `t` and nothing enqueued besides it: with room in the FIFO its item stands
last and carries the next SEQ (R70, R72). -/
def Raised (type source code arg : Nat) (s t : State) : Prop :=
  s.host.evtFifo.length < 4095 →
    t.host.evtFifo = s.host.evtFifo ++ [{ type := type, source := source, code := code, seq := s.host.evtSeq, arg := arg }]

/-- A completion of the command can be posted at once: its source is a slot or a tag, its ring has room and holds no
completion back (R91, R92). -/
def RoomFor (c : Cmd) (s : State) : Prop := c.src.host = true ∧ s.ringFull c.ring = false ∧ s.heldCount c.ring = 0

/-- The completion entry that `s` writes at the tail of the command's ring (R88, R89). -/
def entryOf (s : State) (c : Cmd) (status result aux : Nat) (replayed : Bool) : Output :=
  .completion (s.boundPort (s.rdi F.SQ_CR_CFG_PORT c.ring)) c.ring (s.rdi F.SQ_CR_STATE_TAIL c.ring)
    (s.ringBase c.ring + 32 * s.rdi F.SQ_CR_STATE_TAIL c.ring)
    ((c.completion status result aux replayed).entry (s.rdi F.SQ_CR_HELD_PHASE c.ring != 0)
      (s.rd F.SQ_THROTTLE_STATE != 0) false)

/-- The command has ended between `s` and `t`: its completion has been written, and the device holds it no longer. -/
def Completed (c : Cmd) (status result aux : Nat) (replayed : Bool) (s t : State) : Prop :=
  Emitted (entryOf s c status result aux replayed) s t ∧ ∀ d ∈ t.sq.cmds, d.uid ≠ c.uid

end Sys2Proof.Machine
end

