-- ==== Sys2Proof/Certificates/Slice0/Obligations.lean ====
section
/-!
DEFINITION. The statements for the provers. Each says of which command it speaks, under which conditions on the state
and the operands alone, that the command answers a next state, and what that state holds.
-/

open Sys2Proof Sys2Proof.Machine

/-- For every command `c` and every state, a step with `c` at the front of the queue is `exec c` on the state with the
queue's rest. -/
def Obligations.FrontCommandRuns : Prop :=
  ∀ (c : Instr) (rest : List Instr) (s : State),
    step { s with pending := c :: rest } = exec c { s with pending := rest }

/-- The model's choice (log entry 4): a step on an empty queue answers the state one millisecond later. The queue stays
empty, what has left the device stays sent, and the fuses stay as they are. The millisecond begins with the counters of
time: `GLB.UPTIME` and the log's clock count it. -/
def Obligations.EmptyQueuePassesTime : Prop :=
  ∀ s : State, s.pending = [] →
    (∃ t, step s = .next t ∧ t = s.tick ∧ t.pending = [] ∧ s.out <:+ t.out ∧
      t.boot.fuses.blown = s.boot.fuses.blown) ∧
    (s.passTime.rd F.GLB_UPTIME_LO_MS + s.passTime.rd F.GLB_UPTIME_HI_MS * 2 ^ 32) % 2 ^ 64 =
      (s.rd F.GLB_UPTIME_LO_MS + s.rd F.GLB_UPTIME_HI_MS * 2 ^ 32 + 1) % 2 ^ 64 ∧
    s.passTime.life.ms = s.life.ms + 1

/-- Every step from every state answers a next state. It takes one command off the front of the queue, adds none to it,
and leaves everything that has already left the device as it was. -/
def Obligations.EveryStepAnswers : Prop :=
  ∀ s : State, ∃ t, step s = .next t ∧ t.pending = s.pending.tail ∧ s.out <:+ t.out

/-- The reset state meets `State.Inv`: the commands held have distinct uids below the next one, the event FIFO holds at most 4,096 items and the next SEQ is not 0, no register
field holds more than 32 bits, and the memories and the flash are in canonical form. Its queue is empty, the event FIFO
is empty with SEQ 1 to come, and every field of the register file reads its reset value. -/
def Obligations.ResetMeetsInvariants : Prop :=
  State.reset.Inv ∧ State.reset.pending = [] ∧ State.reset.host.evtFifo = [] ∧ State.reset.host.evtSeq = 1 ∧
    ∀ (f : Field) (i j : Nat), State.reset.fget f i j = f.resetAt i j

/-- From every state that meets `State.Inv`, whatever command waits in front or none, the next state meets it: the
commands held have distinct uids, in order and below the next one, the event FIFO never holds more than 4,096 items and SEQ is never 0 or wider than 32 bits, no register field grows beyond 32 bits,
and HBM, SRAM, MRAM and flash stay in canonical form. -/
def Obligations.StepKeepsInvariants : Prop :=
  ∀ s t : State, s.Inv → step s = .next t → t.Inv

/-- In every step from every state, no bit of the revocation, minimum SVN and UNIQUE_ID fuses goes from 1 to 0, nor any bit
of the four key hashes. A step whose front command is no operation of the TAP leaves every fuse as it is. -/
def Obligations.FusesOnlyBlown : Prop :=
  ∀ s t : State, step s = .next t →
    (s.boot.fuses.revoked ||| t.boot.fuses.revoked = t.boot.fuses.revoked ∧
      s.boot.fuses.minSvn ||| t.boot.fuses.minSvn = t.boot.fuses.minSvn ∧
      s.boot.fuses.uid ||| t.boot.fuses.uid = t.boot.fuses.uid ∧
      ∀ k < 4, ((s.boot.fuses.keyHash[k]?).getD 0) ||| ((t.boot.fuses.keyHash[k]?).getD 0) =
        ((t.boot.fuses.keyHash[k]?).getD 0)) ∧
    ((∀ op, s.pending.head? ≠ some (.jtagTapOperation op)) → t.boot.fuses.blown = s.boot.fuses.blown)

/-- When a command answers a next state, every part of the state outside its row of `touches` is as it was: what has left
the device, the counter of free values, each unit's own state with the memories, the flash and the media, and each 64 KiB
block of registers, of which every field reads the same at every index. The queue is left alone by every command. -/
def Obligations.FrameOfEveryCommand : Prop :=
  ∀ (c : Instr) (s t : State), exec c s = .next t → t.pending = s.pending ∧ Only (touches c) s t

/-- `JTAG_TAP_OPERATION`: IDCODE shifts out 0x2B5 over the low bit 1 with part number 0x8164 and the major stepping,
EXTEST drives the pins, a fuse operation ORs its value into the fuses, and TRST selects IDCODE again. None of them changes
a register, a memory or another unit. -/
def Obligations.TapOperations : Prop :=
  ∀ (op : JtagOp) (s : State), ∃ t, exec (.jtagTapOperation op) s = .next t ∧
    t.regs = s.regs ∧ t.mem = s.mem ∧ t.boot.nor = s.boot.nor ∧ t.host = s.host ∧ t.sq = s.sq ∧
    (op = .idcode → t.out = .jtag (s.rd F.GLB_ID_STEPPING / 16 * 2 ^ 28 + 0x0816456B) :: s.out ∧ t.pins.jtagInstr = 1) ∧
    (∀ v l, op = .extest v l → t.out = .jtag l.toNat :: .pins v.toNat :: s.out ∧ t.pins.boundary = v.toNat) ∧
    (∀ l, op = .sample l → t.out = .jtag l.toNat :: s.out ∧ t.pins.boundary = l.toNat) ∧
    (∀ b, op = .bypass b → t.out = .jtag (b.toNat * 2 % 2 ^ 32) :: s.out ∧ t.pins.boundary = s.pins.boundary) ∧
    (op = .trst → t.pins.jtagInstr = 1 ∧ t.out = s.out ∧ t.boot = s.boot) ∧
    (∀ v, op = .minSvn v → ∀ n, t.boot.fuses.minSvn.testBit n = (s.boot.fuses.minSvn.testBit n || v.toNat.testBit n)) ∧
    (∀ v, op = .revoke v → ∀ n, t.boot.fuses.revoked.testBit n = (s.boot.fuses.revoked.testBit n || v.toNat.testBit n)) ∧
    (∀ v, op = .uniqueId v → ∀ n, t.boot.fuses.uid.testBit n = (s.boot.fuses.uid.testBit n || v.toNat.testBit n)) ∧
    (∀ i v, op = .keyHash i v → ∀ k < 4, ((t.boot.fuses.keyHash[k]?).getD 0) =
      if k = i.toNat then ((s.boot.fuses.keyHash[k]?).getD 0) ||| v.toNat else (s.boot.fuses.keyHash[k]?).getD 0)

/-- The fields that record the cause of a reset (R458). -/
def Sys2Proof.Machine.causeFields : List Field := [F.GLB_RESET_CAUSE_CAUSE, F.GLB_RESET_CAUSE_MULTIPLE]

/-- The lock bits of the PLLs and the valid bits of the sensors, which power-on reset takes back to 0 although they belong
to the AON domain. -/
def Sys2Proof.Machine.lockFields : List Field :=
  [F.CLK_STATUS_ROOT_LOCK, F.CLK_STATUS_PCIE_LOCK, F.CLK_STATUS_EPL_LOCK, F.THM_TEMP_VALID]

/-- The trained width and speed of the ports. -/
def Sys2Proof.Machine.linkFields : List Field :=
  [F.HIF_LINK_STATUS_A_WIDTH, F.HIF_LINK_STATUS_A_SPEED, F.HIF_LINK_STATUS_B_WIDTH, F.HIF_LINK_STATUS_B_SPEED]

/-- `t` is `s` after a reset of the domains that `p` holds for: every field of those domains reads its reset value, every
other field what it read before, but for the fields of `w`. -/
def Sys2Proof.Machine.ResetOf (p : Domain → Bool) (w : List Field) (s t : State) : Prop :=
  ∀ f ∈ allFields, f ∉ w → ∀ i j, t.fget f i j = if p f.dom then f.resetAt i j else s.fget f i j

/-- What every reset of the WARM domain does to the units: no command, no completion held, an empty event FIFO that counts
from 1, no key, no trace; what lies in MRAM, in the flash and on the medium stays, and the fuses (R10, R43, R70). -/
def Sys2Proof.Machine.WarmLoss (s t : State) : Prop :=
  t.sq = SqSt.init ∧ t.host.evtFifo = [] ∧ t.host.evtSeq = 1 ∧ t.host.readyOnce = false ∧ t.obj.keys = [] ∧
    t.trc = TrcSt.init ∧ t.medium.state = 0 ∧ t.out = s.out ∧
    t.mem.mram = s.mem.mram ∧ t.boot.nor = s.boot.nor ∧ t.boot.fuses.blown = s.boot.fuses.blown ∧
    t.obj.objs = s.obj.objs ∧ t.obj.seqTab = s.obj.seqTab ∧ s.tape.onTape <+: t.tape.onTape ∧
    t.disk.zones = s.disk.zones ∧ t.life = s.life

/-- The always-on supply coming up resets every domain; power-on reset and a crossing of the SAG_SENSE reset level reset POR
and WARM; PERST_N asserted, the warm reset and the watchdog's expiry reset WARM. Every field of a domain that is reset reads
its reset value and every other field what it read before, but for the fields that tell of the event itself: the reset cause
(R458), the PLLs' lock bits and the sensors' valid bits after power-on reset, and the trained link after PERST_N. -/
def Obligations.ResetsRestoreTheirDomains : Prop :=
  ∀ (s : State) (mv : BitVec 10) (port : Bool) (v : Word),
    (∃ t, exec .alwaysOnSupplyUp s = .next t ∧ ResetOf (fun _ => true) causeFields s t) ∧
    (∃ t, exec .powerOnReset s = .next t ∧ ResetOf (fun d => d != .aon) (causeFields ++ lockFields) s t) ∧
    (∃ t, exec (.sagResetCrossing mv) s = .next t ∧ ResetOf (fun d => d != .aon) (causeFields ++ lockFields) s t) ∧
    (∃ t, exec .perstNAsserted s = .next t ∧ ResetOf (fun d => d == .warm) (causeFields ++ linkFields) s t) ∧
    (s.barsUp port = true → v.toNat % 2 = 1 → v.toNat / 2 ^ 16 = 0xC3A5 →
      ∃ t, exec (.warmReset port v) s = .next t ∧ ResetOf (fun d => d == .warm) causeFields s t) ∧
    (s.boot.wdtArmed = true → s.rd F.BOOT_WDT_CFG_PERIOD_MS ≤ s.boot.wdtMs →
      ∃ t, exec .watchdogExpiry s = .next t ∧ ResetOf (fun d => d == .warm) causeFields s t)

/-- Every reset ends the commands without completion, empties the event FIFO and clears the key slots and the trace; MRAM,
flash, fuses, committed objects and the stream sequence table stay. HBM and SRAM lose their contents in a reset of the POR
domain and keep them in one of the WARM domain. PERST_N drops both ports' configuration space and MSI-X tables, the
warm reset and the watchdog leave the configuration space. -/
def Obligations.ResetsLoseWhatIsNotPersistent : Prop :=
  ∀ (s : State) (mv : BitVec 10) (port : Bool) (v : Word),
    (∃ t, exec .alwaysOnSupplyUp s = .next t ∧ WarmLoss s t ∧ t.mem.hbm = [] ∧ t.mem.sram = [] ∧ t.host.cfgSpace = []) ∧
    (∃ t, exec .powerOnReset s = .next t ∧ WarmLoss s t ∧ t.mem.hbm = [] ∧ t.mem.sram = [] ∧ t.host.cfgSpace = []) ∧
    (∃ t, exec (.sagResetCrossing mv) s = .next t ∧ WarmLoss s t ∧ t.mem.hbm = [] ∧ t.mem.sram = [] ∧
      t.pwr.sagMv = mv.toNat) ∧
    (∃ t, exec .perstNAsserted s = .next t ∧ WarmLoss s t ∧ t.mem.hbm = s.mem.hbm ∧ t.mem.sram = s.mem.sram ∧
      t.host.perst = true ∧ t.host.cfgDone = false ∧ t.hrdy = false ∧
      (∀ p ∈ t.host.msix, 256 ≤ p.1) ∧ (∀ p ∈ t.host.cfgSpace, 2048 ≤ p.1)) ∧
    (s.barsUp port = true → v.toNat % 2 = 1 → v.toNat / 2 ^ 16 = 0xC3A5 →
      ∃ t, exec (.warmReset port v) s = .next t ∧ WarmLoss s t ∧ t.mem.hbm = s.mem.hbm ∧ t.mem.sram = s.mem.sram ∧
        t.host.cfgSpace = s.host.cfgSpace ∧ t.host.cfgDone = s.host.cfgDone ∧ ∀ p ∈ t.host.msix, p.2.pend = false) ∧
    (s.boot.wdtArmed = true → s.rd F.BOOT_WDT_CFG_PERIOD_MS ≤ s.boot.wdtMs →
      ∃ t, exec .watchdogExpiry s = .next t ∧ WarmLoss s t ∧ t.mem.hbm = s.mem.hbm ∧ t.mem.sram = s.mem.sram ∧
        t.host.cfgSpace = s.host.cfgSpace ∧ t.host.cfgDone = s.host.cfgDone)

/-- The cause register of `t` tells of a reset with code `n` in the state `s`: the lowest of the codes since start-up last
began, and MULTIPLE when there were several. -/
def Sys2Proof.Machine.TellsCause (n : Nat) (s t : State) : Prop :=
  t.rd F.GLB_RESET_CAUSE_CAUSE = s.boot.causes.foldl Nat.min n ∧
    ((∀ m ∈ s.boot.causes, m = n) → s.boot.causes.length ≤ 1 → t.rd F.GLB_RESET_CAUSE_MULTIPLE = 0) ∧
    ((∃ m ∈ s.boot.causes, m ≠ n) → t.rd F.GLB_RESET_CAUSE_MULTIPLE = 1)

/-- Each reset writes `GLB.RESET_CAUSE`: code 1 for the always-on supply, 2 power-on reset, 3 the SAG_SENSE reset level, 5
PERST_N, 6 a data link down of the single-port configuration, 7 the watchdog, 8 the warm reset; CAUSE holds the lowest code
since start-up last began and MULTIPLE tells of several. The always-on supply alone forgets the others. A write of the
warm reset with another key only sets RESET_KEY with the port, and one that leaves WARM at 0 does nothing. -/
def Obligations.ResetCauseRecorded : Prop :=
  ∀ (s : State) (mv : BitVec 10) (port : Bool) (v : Word),
    (∃ t, exec .alwaysOnSupplyUp s = .next t ∧ t.rd F.GLB_RESET_CAUSE_CAUSE = 1 ∧
      t.rd F.GLB_RESET_CAUSE_MULTIPLE = 0) ∧
    (∃ t, exec .powerOnReset s = .next t ∧ TellsCause 2 s t) ∧
    (∃ t, exec (.sagResetCrossing mv) s = .next t ∧ TellsCause 3 s t) ∧
    (∃ t, exec .perstNAsserted s = .next t ∧ TellsCause 5 s t) ∧
    (s.host.perst = false → s.dual = false → ∃ t, exec (.dataLinkDown false) s = .next t ∧ TellsCause 6 s t ∧
      t.host.cfgDone = false ∧ t.sq = SqSt.init ∧
      t.host.evtFifo.map (fun e => (e.type, e.source, e.code, e.arg)) = [(1, 0, 2, s.sq.cmds.length + s.sq.held.length)]) ∧
    (s.boot.wdtArmed = true → s.rd F.BOOT_WDT_CFG_PERIOD_MS ≤ s.boot.wdtMs →
      ∃ t, exec .watchdogExpiry s = .next t ∧ TellsCause 7 s t) ∧
    (s.barsUp port = true → v.toNat % 2 = 1 →
      ∃ t, exec (.warmReset port v) s = .next t ∧
        if v.toNat / 2 ^ 16 = 0xC3A5 then TellsCause 8 s t
        else t.rd F.GLB_ACCESS_ERR_RESET_KEY = 1 ∧ t.rd F.GLB_ACCESS_ADDR_PORT = b2n port ∧ t.sq = s.sq ∧ t.host = s.host) ∧
    (s.barsUp port = true → v.toNat % 2 = 0 → exec (.warmReset port v) s = .next s)

/-- Firmware's write of 0x5A17 to WDT_KICK restarts the watchdog's period and changes nothing else; a write by the host, or of
another key, changes nothing. A watchdog that is not armed, or whose period has not passed, does not reset the device.
PERST_N deasserted leaves everything but its own level: memory requests still wait for the link configuration. -/
def Obligations.WatchdogAndPerst : Prop :=
  ∀ (s : State) (v : Word) (byHost : Bool),
    (v.toNat % 2 ^ 16 = 0x5A17 → ∃ t, exec (.wdtKick false v) s = .next t ∧ t.boot.wdtMs = 0 ∧
      t.boot.wdtArmed = s.boot.wdtArmed ∧ t.boot.nor = s.boot.nor ∧ Only [.boot] s t) ∧
    (byHost = true ∨ v.toNat % 2 ^ 16 ≠ 0x5A17 → exec (.wdtKick byHost v) s = .next s) ∧
    (s.boot.wdtArmed = false ∨ s.boot.wdtMs < s.rd F.BOOT_WDT_CFG_PERIOD_MS → exec .watchdogExpiry s = .next s) ∧
    (∃ t, exec .perstNDeasserted s = .next t ∧ t.host.perst = false ∧ t.host.cfgDone = s.host.cfgDone ∧
      t.host.evtFifo = s.host.evtFifo ∧ Only [.host] s t ∧ ∀ p, t.barsUp p = (s.host.cfgDone && (!p || s.dual)))

/-- A BAR0 access of another size or alignment: a write is ignored and a read returns 0xFFFF_FFFF, and in both cases
`GLB.ACCESS_ERR.SIZE` is set with the offset and the port recorded. A BAR4 access that is not accepted likewise, with
`HIF.ERR_STATUS.BAR4_ACCESS`. Nothing else changes; a host write at an offset that is no multiple of 4 is such an access. -/
def Obligations.BadAccesses : Prop :=
  ∀ (s : State) (port write : Bool) (off : BitVec 26) (v : Word), s.barsUp port = true →
    (∃ t, exec (.bar0BadAccess port write off) s = .next t ∧
      t.out = (if write then s.out else .readData (Req.ofPort port) 0xFFFFFFFF :: s.out) ∧
      t.rd F.GLB_ACCESS_ERR_SIZE = 1 ∧ t.rd F.GLB_ACCESS_ADDR_OFFSET = off.toNat ∧
      t.rd F.GLB_ACCESS_ADDR_PORT = b2n port ∧ Only [.out, .regs 0] s t ∧
      ∀ f ∈ allFields, f ∉ [F.GLB_ACCESS_ERR_SIZE, F.GLB_ACCESS_ADDR_OFFSET, F.GLB_ACCESS_ADDR_PORT] →
        ∀ i j, t.fget f i j = s.fget f i j) ∧
    (∃ t, exec (.bar4BadAccess port write) s = .next t ∧
      t.out = (if write then s.out else .readData (Req.ofPort port) 0xFFFFFFFF :: s.out) ∧
      t.rd F.HIF_ERR_STATUS_BAR4_ACCESS = 1 ∧ Only [.out, .regs 4] s t ∧
      ∀ f ∈ allFields, f ≠ F.HIF_ERR_STATUS_BAR4_ACCESS → ∀ i j, t.fget f i j = s.fget f i j) ∧
    (off.toNat % 4 ≠ 0 → ∃ t, exec (.regWrite port off v) s = .next t ∧ t.rd F.GLB_ACCESS_ERR_SIZE = 1 ∧
      t.rd F.GLB_ACCESS_ADDR_OFFSET = off.toNat ∧ Only [.regs 0] s t)

/-- A read of the _LO half of a latched pair returns it and latches the upper half for that requester alone: a later read of
_HI by the same requester returns the half that was latched. A read of a register of read-to-clear counters returns its
word and clears those counters and nothing else. A read of `HIF.EVT_DATA0` through the event port pops the oldest item
into the holding register, or loads the idle item from an empty FIFO; through the other port of a dual-port device it
reads 0 and pops nothing. A read at an offset that is no multiple of 4 returns all ones and sets SIZE. -/
def Obligations.RegisterReads : Prop :=
  ∀ (s : State) (req : Req) (off : BitVec 26), s.reqUp req = true → s.absent off.toNat = false →
    (off.toNat % 4 ≠ 0 → ∃ t, exec (.latchedPairLoRead req off) s = .next t ∧ exec (.rcCounterRead req off) s = .next t ∧
      t.out = .readData req 0xFFFFFFFF :: s.out ∧ t.rd F.GLB_ACCESS_ERR_SIZE = 1 ∧
      t.rd F.GLB_ACCESS_ADDR_OFFSET = off.toNat ∧ Only [.out, .regs 0] s t) ∧
    (off.toNat ∈ latchedPairs →
      ∃ t, exec (.latchedPairLoRead req off) s = .next t ∧ t.out = .readData req (s.word off.toNat) :: s.out ∧
        t.regs = s.regs ∧ (s.absent (off.toNat + 4) = false → (t.readReg req (off.toNat + 4)).2 = s.word (off.toNat + 4)) ∧
        ∀ r n, r ≠ req → n < 2 ^ 26 → Store.get 0 t.host.latch (r.num * 2 ^ 26 + n) = Store.get 0 s.host.latch (r.num * 2 ^ 26 + n)) ∧
    (off.toNat % 4 = 0 → off.toNat ∉ [F.HIF_EVT_DATA0_WORD0.off, F.TRC_RD_DATA_VALUE.off, F.TRC_RD_TIME_TIME.off] →
      off.toNat ∉ latchedPairs → (∀ o ∈ latchedPairs, o + 4 ≠ off.toNat) →
      ∃ t, exec (.rcCounterRead req off) s = .next t ∧ t.out = .readData req (s.word off.toNat) :: s.out ∧
        (∀ p ∈ fieldsAt off.toNat, p.1.acc = .rc → t.fget p.1 p.2.1 p.2.2 = 0) ∧
        (∀ f ∈ allFields, f.acc ≠ .rc → ∀ i j, t.fget f i j = s.fget f i j) ∧ t.host = s.host) ∧
    (∀ port, s.barsUp port = true → (s.dual = false ∨ port = s.evtPort) → ∀ e l, s.host.evtFifo = e :: l →
      ∃ t, exec (.evtData0Read port) s = .next t ∧ t.host.evtFifo = l ∧
        t.out = .readData (Req.ofPort port) (e.word 0 % 2 ^ 32) :: s.out ∧ t.rd F.HIF_EVT_DATA1_WORD1 = e.word 1 % 2 ^ 32 ∧
        t.rd F.HIF_EVT_DATA2_WORD2 = e.word 2 % 2 ^ 32 ∧ t.rd F.HIF_EVT_DATA3_WORD3 = e.word 3 % 2 ^ 32) ∧
    (∀ port, s.barsUp port = true → (s.dual = false ∨ port = s.evtPort) → s.host.evtFifo = [] →
      ∃ t, exec (.evtData0Read port) s = .next t ∧ t.out = .readData (Req.ofPort port) 0 :: s.out ∧
        t.rd F.HIF_EVT_DATA1_WORD1 = 0 ∧ t.rd F.HIF_EVT_DATA2_WORD2 = 0 ∧ t.rd F.HIF_EVT_DATA3_WORD3 = 0) ∧
    (∀ port, s.barsUp port = true → s.dual = true → port ≠ s.evtPort →
      ∃ t, exec (.evtData0Read port) s = .next t ∧ t.out = .readData (Req.ofPort port) 0 :: s.out ∧
        t.host.evtFifo = s.host.evtFifo ∧ t.regs = s.regs)

/-- The offsets whose write does more than its fields' access codes say, or is checked as a whole. -/
def Sys2Proof.Machine.plainOffset (off : Nat) : Bool :=
  !([F.GLB_RESET_CTL_WARM.off, F.HIF_ING_WM_HIGH.off, F.SQ_ARB_WEIGHT_HIGH.off, F.SQ_ARB_URGENT_CAP.off, F.TRC_CTL_ARM.off,
     F.BOOT_RCV_CMD_CMD.off, F.BOOT_RCV_ADDR_PAGE.off, F.MEM_SELFTEST_RUN.off, F.CTL_TM_BUF_HIGH.off,
     F.FMT_DZ_CLEAN_LOW_PCT.off, F.RED_RATE_FLOOR_PCT.off, F.GRP_FAILOVER_BEAT_MS.off, F.PWR_SAG_CFG_WARN_MV.off].contains
       off) &&
    !(0x0081000 ≤ off && off < 0x0082800) && !(0x0200000 ≤ off && off < 0x0200C00) &&
    !(0x0210000 ≤ off && off < 0x0216000) && !(0x0218000 ≤ off && off < 0x0219800) &&
    !(0x0300300 ≤ off && off < 0x0300400) && !(0x0310000 ≤ off && off < 0x0310080)

/-- A host write of a register whose write does no more than its fields' codes say: an RW field takes the written bits when
they lie in its range, an RWL field only before READY has first been set, a W1C field clears where a 1 is written, a W1S
field sets where a 1 is written, and every other field keeps its value. A write that would change a locked RWL field sets
LOCKED_WRITE with the offset and the port. In a block that ignores a write whole, an out-of-range RW field leaves the
register as it was. Fields of other registers keep their values, and an absent register ignores the write. -/
def Obligations.RegisterWrites : Prop :=
  ∀ (s : State) (port : Bool) (off : BitVec 26) (v : Word), s.barsUp port = true → off.toNat % 4 = 0 →
    (s.absent off.toNat = true → exec (.regWrite port off v) s = .next s) ∧
    (s.absent off.toNat = false → plainOffset off.toNat = true →
      (ignoresWhole off.toNat = true → (∃ p ∈ fieldsAt off.toNat, s.hostSets p.1 = true ∧
          p.1.accepts p.2.1 (bits v.toNat p.1.lo p.1.w) = false) → exec (.regWrite port off v) s = .next s) ∧
      ((∀ p ∈ fieldsAt off.toNat, s.hostSets p.1 = true → p.1.accepts p.2.1 (bits v.toNat p.1.lo p.1.w) = true) →
        ∃ t, exec (.regWrite port off v) s = .next t ∧
          (∀ p ∈ fieldsAt off.toNat, p.1.block ≠ 0 → t.fget p.1 p.2.1 p.2.2 =
            let x := bits v.toNat p.1.lo p.1.w
            let old := s.fget p.1 p.2.1 p.2.2
            match p.1.acc with
            | .rw => x % 2 ^ Nat.min p.1.w 32
            | .rwl => if s.host.readyOnce then old else x % 2 ^ Nat.min p.1.w 32
            | .w1c => (old - (old &&& x)) % 2 ^ Nat.min p.1.w 32
            | .w1s => (old ||| x) % 2 ^ Nat.min p.1.w 32
            | _ => old) ∧
          (∀ f ∈ allFields, f.block ≠ 0 → ∀ i j, i < 2 ^ 16 → j < 2 ^ 16 → (f, i, j) ∉ fieldsAt off.toNat →
            t.fget f i j = s.fget f i j) ∧
          ((∃ p ∈ fieldsAt off.toNat, p.1.acc = .rwl ∧ s.host.readyOnce = true ∧
              bits v.toNat p.1.lo p.1.w ≠ s.fget p.1 p.2.1 p.2.2) →
            t.rd F.GLB_ACCESS_ERR_LOCKED_WRITE = 1 ∧ t.rd F.GLB_ACCESS_ADDR_OFFSET = off.toNat ∧
              t.rd F.GLB_ACCESS_ADDR_PORT = b2n port) ∧
          t.host = s.host ∧ t.out = s.out ∧ t.sq = s.sq))

/-- A link that trains up takes its width and speed into LINK_STATUS and raises event 0x001 of type 1, or 0x003 when the link
was up. A received TLP error is logged in the port's AER status and raises event 0x004 with the status bit. In the
dual-port configuration a data link down ends every command of that port and of no other, disables its rings and
queues, discards its configuration space and MSI-X state, moves the event port when it was the one, and then raises event
0x002 with the number of commands ended. While PERST_N is asserted none of these does anything. -/
def Obligations.LinkEvents : Prop :=
  ∀ (s : State) (port : Bool) (w sp : BitVec 4) (unc : Bool) (bit : BitVec 5),
    (s.host.perst = true → exec (.linkUp port w sp) s = .next s ∧ exec (.receivedTlpError port unc bit) s = .next s ∧
      exec (.dataLinkDown port) s = .next s) ∧
    (s.host.perst = false → (port = false ∨ s.dual = true) →
      (∃ t, exec (.linkUp port w sp) s = .next t ∧
        t.rd (if port then F.HIF_LINK_STATUS_B_WIDTH else F.HIF_LINK_STATUS_A_WIDTH) = w.toNat ∧
        t.rd (if port then F.HIF_LINK_STATUS_B_SPEED else F.HIF_LINK_STATUS_A_SPEED) = sp.toNat ∧
        Raised 1 (b2n port)
          (if s.rd (if port then F.HIF_LINK_STATUS_B_WIDTH else F.HIF_LINK_STATUS_A_WIDTH) = 0 then 1 else 3)
          (w.toNat + sp.toNat * 16) s t ∧ t.sq = s.sq) ∧
      (∃ t, exec (.receivedTlpError port unc bit) s = .next t ∧ t.aer port unc = setBit (s.aer port unc) bit.toNat ∧
        t.aer (!port) unc = s.aer (!port) unc ∧ t.aer port (!unc) = s.aer port (!unc) ∧
        Raised 1 (b2n port) 4 (2 ^ bit.toNat + b2n unc * 2 ^ 32) s t ∧ t.sq = s.sq)) ∧
    (s.host.perst = false → s.dual = true →
      ∃ u : State, exec (.dataLinkDown port) s = .next (u.raise 1 (b2n port) 2
          ((s.sq.cmds.filter (fun c => c.src.host && c.port = port)).length +
            (s.sq.held.filter (fun c => c.port = port)).length)) ∧
        (∀ c ∈ u.sq.cmds, c ∈ s.sq.cmds ∧ ¬ (c.src.host = true ∧ c.port = port)) ∧
        (∀ r < 64, (u.rdi F.SQ_CR_CFG_PORT r ≠ 0 ↔ port = true) → u.rdi F.SQ_CR_CFG_EN r = 0) ∧
        (∀ q < 64, (u.rdi F.SQ_TQ_CFG_PORT q ≠ 0 ↔ port = true) → u.rdi F.SQ_TQ_CFG_EN q = 0) ∧
        u.evtPort = (if u.dual then !port else false) ∧
        u.rd (if port then F.HIF_LINK_STATUS_B_WIDTH else F.HIF_LINK_STATUS_A_WIDTH) = 0)

/-- Until the link configuration and the BARs are set up, every configuration request is answered with retry status and
changes nothing; from then on a read is answered with the word. Vendor and device id read 0x8164_1F7E whatever is written,
and BAR0 keeps the written address bits above its 64 MiB. A 32-bit read of the MSI-X table returns the entry's word, and a
write stores it; a vector that neither its mask nor Message Control masks any longer, with its bit pending, sends its
message and clears the bit. -/
def Obligations.ConfigurationAndVectors : Prop :=
  ∀ (s : State) (port write : Bool) (reg : BitVec 10) (v : Word),
    (s.host.perst = false → s.host.cfgDone = false →
      exec (.configRequest port write reg v) s = .next (s.emit (.cfgReply port none))) ∧
    (s.host.perst = false → s.host.cfgDone = true →
      (∃ t, exec (.configRequest port false 0#10 v) s = .next t ∧ t.out = .cfgReply port (some 0x81641F7E) :: s.out) ∧
      (∃ t u w, exec (.configRequest port true 4#10 v) s = .next t ∧ exec (.configRequest port false 4#10 0#32) t = .next u ∧
        u.out = .cfgReply port (some (v.toNat / 2 ^ 26 * 2 ^ 26 + 4)) :: .cfgReply port (some 0) :: s.out ∧
        exec (.configRequest port true 0#10 v) s = .next w ∧ w.cfgRead port 0 = 0x81641F7E)) ∧
    (s.barsUp port = true → ∀ (n k : Nat) (x : BitVec 64), n ≤ 64 → k < 4 →
      (∃ t, exec (.msixVectorUnmask port false false (BitVec.ofNat 20 (0x80000 + 16 * n + 4 * k)) x) s = .next t ∧
        t.out = .readData (Req.ofPort port) ((s.vector port n).word k) :: s.out ∧ t.host = s.host ∧ t.regs = s.regs) ∧
      ((∀ j, j ≠ n → (s.vector port j).pend = false ∨ (s.vector port j).masked = true) →
        ∀ m, m = (s.vector port n).setWord k (x.toNat % 2 ^ 32) →
        ∃ t, exec (.msixVectorUnmask port true false (BitVec.ofNat 20 (0x80000 + 16 * n + 4 * k)) x) s = .next t ∧
          t.vector port n = { m with pend := m.pend && (m.masked || s.msixCtl port != 2) } ∧
          (∀ j, j ≠ b2n port * 128 + n → Store.get Msix.init t.host.msix j = Store.get Msix.init s.host.msix j) ∧
          t.out = (if m.pend && !(m.masked || s.msixCtl port != 2) then [.msix port n m.addr m.data] else []) ++ s.out ∧
          t.regs = s.regs ∧ t.sq = s.sq))

/-- The watermarks take a write with LOW below HIGH; any other is ignored and sets WM_INVALID. The arbiter's weights, and its
cap and burst, take a write in range; one out of range is ignored whole and sets CFG_INVALID with source kind 3. A tagged
queue with a busy tag refuses another base and another configuration, and an enabled ring another base or size, with
CFG_INVALID and the queue or ring as the source; an idle queue and a disabled ring take what is written, and a ring
that is enabled starts with tail 0, head 0 and phase 1. -/
def Obligations.ConfigurationOfQueues : Prop :=
  ∀ (s : State) (port : Bool) (v : Word), s.barsUp port = true →
    (v.toNat / 2 ^ 16 < v.toNat % 2 ^ 16 → ∃ t, exec (.ingWmWrite port v) s = .next t ∧
      t.rd F.HIF_ING_WM_HIGH = v.toNat % 2 ^ 16 ∧ t.rd F.HIF_ING_WM_LOW = v.toNat / 2 ^ 16 ∧ t.sq = s.sq) ∧
    (v.toNat % 2 ^ 16 ≤ v.toNat / 2 ^ 16 → ∃ t, exec (.ingWmWrite port v) s = .next t ∧
      t.rd F.HIF_ERR_STATUS_WM_INVALID = 1 ∧ t.rd F.HIF_ING_WM_HIGH = s.rd F.HIF_ING_WM_HIGH ∧
      t.rd F.HIF_ING_WM_LOW = s.rd F.HIF_ING_WM_LOW) ∧
    (v.toNat % 2 ^ 8 ≠ 0 → v.toNat / 2 ^ 8 % 2 ^ 8 ≠ 0 → v.toNat / 2 ^ 16 % 2 ^ 8 ≠ 0 →
      ∃ t, exec (.arbConfigWrite port false v) s = .next t ∧ t.rd F.SQ_ARB_WEIGHT_HIGH = v.toNat % 2 ^ 8 ∧
        t.rd F.SQ_ARB_WEIGHT_NORMAL = v.toNat / 2 ^ 8 % 2 ^ 8 ∧
        t.rd F.SQ_ARB_WEIGHT_BACKGROUND = v.toNat / 2 ^ 16 % 2 ^ 8 ∧ t.rd F.SQ_ARB_URGENT_CAP = s.rd F.SQ_ARB_URGENT_CAP) ∧
    (50 < v.toNat % 2 ^ 8 → ∃ t, exec (.arbConfigWrite port true v) s = .next t ∧
      t.rd F.SQ_ERR_STATUS_CFG_INVALID = 1 ∧ t.rd F.SQ_ERR_SOURCE_KIND = 3 ∧
      t.rd F.SQ_ARB_URGENT_CAP = s.rd F.SQ_ARB_URGENT_CAP ∧ t.rd F.SQ_ARB_URGENT_BURST = s.rd F.SQ_ARB_URGENT_BURST) ∧
    (∀ q : BitVec 6,
      (s.rdi F.SQ_TQ_BUSY_TAGS q.toNat = 0 → ∃ t, exec (.tqCfgWrite port q .baseLo v) s = .next t ∧
        t.rdi F.SQ_TQ_BASE_LO_ADDR_LO q.toNat = v.toNat / 2 ^ 11 ∧
        ∀ k < 64, k ≠ q.toNat → t.rdi F.SQ_TQ_BASE_LO_ADDR_LO k = s.rdi F.SQ_TQ_BASE_LO_ADDR_LO k) ∧
      (s.rdi F.SQ_TQ_BUSY_TAGS q.toNat ≠ 0 → v.toNat / 2 ^ 11 ≠ s.rdi F.SQ_TQ_BASE_LO_ADDR_LO q.toNat →
        ∃ t, exec (.tqCfgWrite port q .baseLo v) s = .next t ∧ t.rd F.SQ_ERR_STATUS_CFG_INVALID = 1 ∧
          t.rd F.SQ_ERR_SOURCE_KIND = 1 ∧ t.rd F.SQ_ERR_SOURCE_ID = q.toNat ∧
          t.rdi F.SQ_TQ_BASE_LO_ADDR_LO q.toNat = s.rdi F.SQ_TQ_BASE_LO_ADDR_LO q.toNat) ∧
      (v.toNat % 2 = 1 → s.ringOpen (bits v.toNat 16 1 != 0) (bits v.toNat 8 6) = false →
        ∃ t, exec (.tqCfgWrite port q .cfg v) s = .next t ∧ t.rd F.SQ_ERR_STATUS_CFG_INVALID = 1 ∧
          t.rdi F.SQ_TQ_CFG_EN q.toNat = s.rdi F.SQ_TQ_CFG_EN q.toNat)) ∧
    (∀ r : BitVec 6,
      (s.rdi F.SQ_CR_CFG_EN r.toNat = 0 → v.toNat % 2 = 1 → 4 ≤ bits v.toNat 4 5 → bits v.toNat 4 5 ≤ 16 →
        ∃ t, exec (.crCfgWrite port r .cfg v) s = .next t ∧ t.rdi F.SQ_CR_CFG_EN r.toNat = 1 ∧
          t.rdi F.SQ_CR_CFG_SIZE_LOG2 r.toNat = bits v.toNat 4 5 ∧ t.rdi F.SQ_CR_STATE_TAIL r.toNat = 0 ∧
          t.rdi F.SQ_CR_STATE_HEAD r.toNat = 0 ∧ t.rdi F.SQ_CR_HELD_PHASE r.toNat = 1) ∧
      (s.rdi F.SQ_CR_CFG_EN r.toNat ≠ 0 → bits v.toNat 4 5 ≠ s.rdi F.SQ_CR_CFG_SIZE_LOG2 r.toNat →
        ∃ t, exec (.crCfgWrite port r .cfg v) s = .next t ∧ t.rd F.SQ_ERR_STATUS_CFG_INVALID = 1 ∧
          t.rd F.SQ_ERR_SOURCE_KIND = 2 ∧ t.rd F.SQ_ERR_SOURCE_ID = r.toNat ∧
          t.rdi F.SQ_CR_CFG_SIZE_LOG2 r.toNat = s.rdi F.SQ_CR_CFG_SIZE_LOG2 r.toNat ∧
          t.rdi F.SQ_CR_STATE_TAIL r.toNat = s.rdi F.SQ_CR_STATE_TAIL r.toNat))

/-- A read of a task slot, which carries no bytes, returns 0. Before READY has been set once, a write to a task slot is
ignored and sets EARLY_DOORBELL. From then on an aligned
write of 4 to 64 B that stays below word 7 puts its bytes into the slot buffer, leaves the slot LOADING and changes nothing
else; in OUTSTANDING it is discarded with SLOT_BUSY. A GO write of 8 B makes the loaded words and its own a command: with its
ring closed the slot goes IDLE with NO_RING and no command arrives; with the ring open, STREAM naming the slot, an opcode of
the slot path and READY at 1, the slot is OUTSTANDING and one command, ready for the arbiter, stands last. -/
def Obligations.TaskSlotWrites : Prop :=
  ∀ (s : State) (port : Bool) (a : BitVec 26) (bytes : List Byte), s.barsUp port = true →
    (bytes = [] → exec (.slotWordWrite port a bytes) s = .next (s.emit (.readData (Req.ofPort port) 0))) ∧
    (s.host.readyOnce = false → bytes ≠ [] → ∃ t, exec (.slotWordWrite port a bytes) s = .next t ∧
      exec (.goWrite port a bytes) s = .next t ∧ t.rd F.HIF_ERR_STATUS_EARLY_DOORBELL = 1 ∧ t.sq = s.sq) ∧
    (s.host.readyOnce = true → bytes.length ∈ [4, 8, 16, 32, 64] → a.toNat % bytes.length = 0 →
      ((s.slot (a.toNat / 64)).state = .outstanding → ∃ t, exec (.slotWordWrite port a bytes) s = .next t ∧
        exec (.goWrite port a bytes) s = .next t ∧ t.rd F.SQ_ERR_STATUS_SLOT_BUSY = 1 ∧
        t.rd F.SQ_ERR_SOURCE_ID = a.toNat / 64 ∧ t.rd F.SQ_ERR_SOURCE_KIND = 0 ∧ t.sq = s.sq) ∧
      (a.toNat % 64 + bytes.length ≤ 56 →
        (s.slot (a.toNat / 64)).state = .idle ∨ (s.slot (a.toNat / 64)).state = .loading →
        ∃ t, exec (.slotWordWrite port a bytes) s = .next t ∧ (t.slot (a.toNat / 64)).state = .loading ∧
          (∀ i (h : i < bytes.length),
            bits (t.slot (a.toNat / 64)).buf (8 * (a.toNat % 64 + i)) 8 = (bytes[i]'h).toNat) ∧
          (∀ k < 56, k < a.toNat % 64 ∨ a.toNat % 64 + bytes.length ≤ k →
            bits (t.slot (a.toNat / 64)).buf (8 * k) 8 = bits (s.slot (a.toNat / 64)).buf (8 * k) 8) ∧
          (∀ n, n ≠ a.toNat / 64 → t.slot n = s.slot n) ∧ t.sq.cmds = s.sq.cmds ∧ t.regs = s.regs ∧ t.out = s.out) ∧
      (a.toNat % 64 = 56 → bytes.length = 8 →
        (s.slot (a.toNat / 64)).state = .idle ∨ (s.slot (a.toNat / 64)).state = .loading →
        ∀ f : Frame, f = Frame.ofBits ((s.slot (a.toNat / 64)).buf + ofLe bytes * 2 ^ 448) →
        (s.ringOpen port f.cring = false → ∃ t, exec (.goWrite port a bytes) s = .next t ∧
          (t.slot (a.toNat / 64)).state = .idle ∧ t.rd F.SQ_ERR_STATUS_NO_RING = 1 ∧
          t.rd F.SQ_ERR_SOURCE_ID = a.toNat / 64 ∧ t.sq.cmds = s.sq.cmds) ∧
        (s.ringOpen port f.cring = true → f.stream = a.toNat / 64 → slotOpcode f.opcode = true →
          s.rd F.HIF_STATUS_READY = 1 → (∀ c ∈ s.sq.cmds, c.uid ≠ s.sq.nextUid ∧ c.src ≠ .slot (BitVec.ofNat 20 f.stream)) →
          ∃ t c, exec (.goWrite port a bytes) s = .next t ∧ (t.slot (a.toNat / 64)).state = .outstanding ∧
            t.sq.cmds = s.sq.cmds ++ [c] ∧ c.src = .slot (BitVec.ofNat 20 f.stream) ∧ c.stage = .ready ∧ c.frame = f ∧
            c.ring = f.cring ∧ c.port = port ∧ c.cls = prioClass f.prio)))

/-- No DMA read of the command waits for room in the ingest FIFO (R61). -/
def Sys2Proof.Machine.Cmd.asksNothing (c : Cmd) : Bool :=
  match c.stage with
  | .fetching => c.asked != 0
  | .listWait => c.asked != 0
  | .started => !(c.pullsData && c.asked < c.frame.length)
  | _ => true

/-- A doorbell write to an enabled queue through its port makes every tag of the mask busy; each tag that was free arrives as
a command, a tag that was busy sets TAG_BUSY, and a tag that rings alone while no other read waits and the ingest FIFO has
room has its 64 B entry fetched from its place in the submission ring. A
write to a disabled queue is ignored whole and sets TQ_INVALID. The entry of a tag that is being fetched becomes the
command's frame: with an opcode that tagged queues accept and READY at 1 the command is ready; with another opcode it ends
with OPCODE_PATH. -/
def Obligations.TaggedQueueSubmission : Prop :=
  ∀ (s : State) (port : Bool) (q : BitVec 6), 
    (∀ mask : Word, s.barsUp port = true → s.host.readyOnce = true →
      (s.rdi F.SQ_TQ_CFG_EN q.toNat = 0 → ∃ t, exec (.tqDoorbell port q mask) s = .next t ∧
        t.rd F.SQ_ERR_STATUS_TQ_INVALID = 1 ∧ t.rd F.SQ_ERR_SOURCE_KIND = 1 ∧ t.rd F.SQ_ERR_SOURCE_ID = q.toNat ∧
        t.sq = s.sq ∧ t.out = s.out) ∧
      (s.sq.uidsOk → s.rdi F.SQ_TQ_CFG_EN q.toNat ≠ 0 → (s.dual = true → (s.rdi F.SQ_TQ_CFG_PORT q.toNat ≠ 0 ↔ port = true)) →
        ∃ t, exec (.tqDoorbell port q mask) s = .next t ∧
          (∀ k < 32, bitAt (t.rdi F.SQ_TQ_BUSY_TAGS q.toNat) k = (bitAt (s.rdi F.SQ_TQ_BUSY_TAGS q.toNat) k || bitAt mask.toNat k)) ∧
          (∀ k < 32, bitAt mask.toNat k = true → bitAt (s.rdi F.SQ_TQ_BUSY_TAGS q.toNat) k = false →
            (∃ c ∈ t.sq.cmds, c.src = .tag q (BitVec.ofNat 5 k) ∧ c.stage = .fetching ∧ c.port = port ∧
              c.ring = s.rdi F.SQ_TQ_CFG_CRING q.toNat ∧ c.cls = queueClass (s.rdi F.SQ_TQ_CFG_CLASS q.toNat)) ∧
            (mask.toNat = 2 ^ k → (∀ d ∈ s.sq.cmds, d.asksNothing = true) → 2 ≤ s.ingestFree →
              Emitted (.dmaRead port (s.queueBase q.toNat + 64 * k) 64) s t)) ∧
          (∀ k < 32, bitAt mask.toNat k = true → bitAt (s.rdi F.SQ_TQ_BUSY_TAGS q.toNat) k = true →
            t.rd F.SQ_ERR_STATUS_TAG_BUSY = 1))) ∧
    (∀ (tag : BitVec 5) (e : BitVec 512) (c : Cmd), s.cmdOf (.tag q tag) = some c → c.stage = .fetching → c.asked ≠ 0 →
      (tagOpcode (Frame.ofBits e.toNat).opcode = true → s.rd F.HIF_STATUS_READY = 1 →
        ∃ t, exec (.tagEntryFetched q tag e) s = .next t ∧
          t.cmdOf (.tag q tag) = some { c with frame := Frame.ofBits e.toNat, asked := 0, stage := .ready } ∧
          (∀ d ∈ s.sq.cmds, d.uid ≠ c.uid → d ∈ t.sq.cmds) ∧ t.regs = s.regs) ∧
      (tagOpcode (Frame.ofBits e.toNat).opcode = false → RoomFor c s →
        ∃ t, exec (.tagEntryFetched q tag e) s = .next t ∧
          Completed { c with frame := Frame.ofBits e.toNat, asked := 0 } stOpcodePath 0 0 false s t))

/-- The descriptor list of an admitted command, with every length above 0, every reserved byte 0 and all buffers summing
to LENGTH, becomes its buffers and the command goes on; another sum ends it with DESC_LENGTH, a zero length with
INVALID_FIELD. Bytes that arrive for a started OPEN or APPEND are added to its data and stand in the ingest FIFO. A failed
DMA read logs the AER bit of the failure, raises event 0x004 of type 1, and ends the command with the class 1 status of the
failure. -/
def Obligations.HostDataOfCommands : Prop :=
  ∀ (s : State) (src : Src) (c : Cmd), s.cmdOf src = some c →
    (∀ entries : List (BitVec 128), c.stage = .listWait → c.asked ≠ 0 → entries.length = c.frame.dcount →
      ((∀ e ∈ entries, bits e.toNat 64 32 ≠ 0 ∧ bits e.toNat 96 32 = 0) →
        ((c.frame.inline ++ entries.map (fun e => (bits e.toNat 0 64, bits e.toNat 64 32))).map (fun b => b.2)).sum =
          c.frame.length →
        ∃ t, exec (.descListFetched src entries) s = .next t ∧
          t.cmdOf src = some { c with bufs := c.frame.inline ++ entries.map (fun e => (bits e.toNat 0 64, bits e.toNat 64 32)),
                                      stage := .admitted, asked := 0 } ∧ t.regs = s.regs ∧ t.out = s.out) ∧
      ((∀ e ∈ entries, bits e.toNat 64 32 ≠ 0 ∧ bits e.toNat 96 32 = 0) → RoomFor c s →
        ((c.frame.inline ++ entries.map (fun e => (bits e.toNat 0 64, bits e.toNat 64 32))).map (fun b => b.2)).sum ≠
          c.frame.length →
        ∃ t, exec (.descListFetched src entries) s = .next t ∧ Completed c stDescLength 0 0 false s t) ∧
      ((∃ e ∈ entries, bits e.toNat 64 32 = 0) → RoomFor c s →
        ∃ t, exec (.descListFetched src entries) s = .next t ∧ Completed c stInvalidField 0 0 false s t)) ∧
    (∀ bytes : List Byte, c.stage = .started → c.pullsData = true → c.viaIngest = true →
      ∃ t, exec (.dmaDataArrival src bytes) s = .next t ∧
        t.cmdOf src = some { c with data := c.data ++ bytes.take (c.asked - c.data.length),
                                    tags := hostTags c.hostOffset (c.data ++ bytes.take (c.asked - c.data.length)),
                                    fifo := c.fifo + (bytes.take (c.asked - c.data.length)).length } ∧
        t.rd F.HIF_ING_LEVEL_ENTRIES = (t.sq.cmds.map (fun d => ceilDiv d.fifo 32)).sum % 2 ^ 17) ∧
    (∀ (what : DmaWhat) (how : DmaFault), c.reading what = true → RoomFor c s →
      ∃ u t, exec (.dmaReadFailed src what how) s = .next t ∧ u.aer c.port true = setBit (s.aer c.port true) how.report.1 ∧
        Raised 1 (b2n c.port) 4 (2 ^ how.report.1 + 2 ^ 32 + 2 ^ 33) s u ∧
        t = (u.discardWork c).fail c how.report.2 ∧
        Completed c how.report.2 0 0 false u t)

/-- A valid head value written through the ring's port becomes the ring's head; an invalid one is ignored and sets
HEAD_INVALID. The coalescing timer of a ring with entries since its last vector sends the vector and counts from 0. A
dispatch slot adds cap to the urgent credit up to burst × 100, and with 100 of credit admits the first eligible urgent
command for 100; with nothing eligible only the credit changes; during a brace nothing does. A throttle window begins with
the full allowance. While the medium is READY the staged log entries go to the medium, on a writable
tape as LOG units that join the data sets. -/
def Obligations.RingsArbiterAndWindows : Prop :=
  ∀ (s : State) (port : Bool) (ring : BitVec 6) (v : Word),
    (s.barsUp port = true → s.host.readyOnce = true → s.ringOpen port ring.toNat = true →
      (headOk (s.ringSize ring.toNat) (s.rdi F.SQ_CR_STATE_HEAD ring.toNat) (s.rdi F.SQ_CR_STATE_TAIL ring.toNat) v.toNat = true →
        s.heldCount ring.toNat = 0 → s.sq.cmds.all (fun c => !s.settleable c) = true → v.toNat < 2 ^ 16 →
        ∃ t, exec (.crHeadDoorbell port ring v) s = .next t ∧ t.rdi F.SQ_CR_STATE_HEAD ring.toNat = v.toNat ∧
          t.rdi F.SQ_CR_STATE_TAIL ring.toNat = s.rdi F.SQ_CR_STATE_TAIL ring.toNat ∧ t.sq = s.sq ∧ t.out = s.out) ∧
      (s.ringSize ring.toNat ≤ v.toNat →
        ∃ t, exec (.crHeadDoorbell port ring v) s = .next t ∧ t.rd F.SQ_ERR_STATUS_HEAD_INVALID = 1 ∧
          t.rd F.SQ_ERR_SOURCE_ID = ring.toNat ∧ t.rd F.SQ_ERR_SOURCE_KIND = 2 ∧
          t.rdi F.SQ_CR_STATE_HEAD ring.toNat = s.rdi F.SQ_CR_STATE_HEAD ring.toNat ∧ t.sq = s.sq)) ∧
    (s.rdi F.SQ_CR_COAL_TIME ring.toNat ≠ 0 → Store.get 0 s.sq.coal ring.toNat ≠ 0 →
      ∃ t : State, exec (.coalTimerExpiry ring) s =
          .next (t.signal (s.boundPort (s.rdi F.SQ_CR_CFG_PORT ring.toNat)) ring.toNat) ∧
        Store.get 0 t.sq.coal ring.toNat = 0 ∧ (∀ k, k ≠ ring.toNat → Store.get 0 t.sq.coal k = Store.get 0 s.sq.coal k) ∧
        t.host = s.host ∧ t.out = s.out ∧ t.regs = s.regs ∧ t.sq.cmds = s.sq.cmds) ∧
    (s.rd F.PWR_STATUS_BRACE ≠ 0 → exec .arbDispatchSlot s = .next s) ∧
    (s.rd F.PWR_STATUS_BRACE = 0 → ∀ n, n = Nat.min (s.rd F.SQ_ARB_URGENT_CREDIT + s.rd F.SQ_ARB_URGENT_CAP)
        (s.rd F.SQ_ARB_URGENT_BURST * 100) →
      ((∀ c ∈ s.sq.cmds, s.eligible c = false) → n < 2 ^ 13 → ∃ t, exec .arbDispatchSlot s = .next t ∧
        t.rd F.SQ_ARB_URGENT_CREDIT = n ∧ t.sq = s.sq) ∧
      (∀ c, 100 ≤ n → s.firstOf .urgent = some c →
        exec .arbDispatchSlot s = .next ((s.wr F.SQ_ARB_URGENT_CREDIT (n - 100)).admitCmd c))) ∧
    (∃ t, exec .throttleWindow s = .next t ∧ t.sq.winLeft = s.rd F.SQ_ADMIT_LIMIT_UNITS ∧ t.sq.winFresh = true ∧
      t.sq.winShut = false ∧ t.sq.cmds = s.sq.cmds ∧ t.regs = s.regs) ∧
    (s.medium.state = mReady → s.tMode = false ∨ s.tape.protect = true → ∃ t, exec .logCopy s = .next t ∧
      t.life.staging = [] ∧ t.life.medium = newestLog (s.life.medium ++ s.life.staging) ∧
      t.life.nextLog = s.life.nextLog ∧ t.regs = s.regs) ∧
    (s.medium.state = mReady → s.tMode = true → s.tape.protect = false → ∃ (u : State) (ids : List Nat),
      exec .logCopy s = .next (u.tapeTake ids) ∧ ids.length = (logUnits s.life.staging).length ∧ u.life.staging = [] ∧
      u.life.medium = newestLog (s.life.medium ++ s.life.staging) ∧ u.tape = s.tape ∧ u.regs = s.regs)

/-- An admitted OPEN, APPEND or SEAL: the last committed SEQ again is a replay and succeeds with the
REPLAYED flag, one above the next is SEQ_GAP, and neither changes stream or map. With the next SEQ and no BARRIER that holds it: an OPEN of a free key on
a stream that is not BOUND draws its nonce and starts, without data with its map delta, and an APPEND at the object's length
starts, with the stream and the map as they were; an
APPEND at another offset ends with BAD_OFFSET, of another key with WRONG_KEY; a SEAL with another CRC-64 ends with
CRC_MISMATCH, else its map delta begins. A DELETE of a key that names no object succeeds with RESULT 0; of an OPEN object it
conflicts with 0x06; of a sealed one it passes its commit point and its delta begins. -/
def Obligations.StreamCommandsBegin : Prop :=
  ∀ (s : State) (src : Src) (c : Cmd), s.cmdOf src = some c → c.stage = .admitted →
    (s.sq.cmds.map Cmd.uid).Nodup →
    ((s.entry src.stream).lastSeq < 2 ^ 32 →
      (∀ i : Instr, (c.frame.opcode, i) ∈ [(1, .openCmd src), (2, .appendCmd src), (3, .sealCmd src)] → RoomFor c s →
        (s.entry src.stream).unknown = false →
        (c.frame.seq = (s.entry src.stream).lastSeq →
          ∃ t, exec i s = .next t ∧ Completed c stSuccess 0 0 true s t ∧ t.obj = s.obj) ∧
        (c.frame.seq = ((s.entry src.stream).lastSeq + 2) % 2 ^ 32 →
          ∃ t, exec i s = .next t ∧ Completed c stSeqGap 0 0 false s t ∧ t.obj = s.obj)) ∧
      (s.barred c = false → c.frame.seq = ((s.entry src.stream).lastSeq + 1) % 2 ^ 32 →
        (c.frame.opcode = 1 → (s.entry src.stream).state ≠ 1 → s.inGroup = false →
          (∀ d ∈ s.obj.deleting, d.key ≠ c.frame.key) → (∀ p ∈ s.obj.objs, p.1 ≠ c.frame.key) →
          s.keyBlocked c (bits c.frame.offset 0 8) none = none → s.writeBlocked c false = none →
          (c.frame.length ≠ 0 →
            ∃ t, exec (.openCmd src) s = .next t ∧ t.obj.objs = s.obj.objs ∧ t.obj.seqTab = s.obj.seqTab ∧
              t.obj.nonce = s.obj.nonce + 1 ∧ t.regs = s.regs ∧
              ∃ d ∈ t.sq.cmds, d.uid = c.uid ∧ d.src = src ∧ d.stage = .started ∧ d.frame = c.frame ∧
                d.nonce = s.obj.nonce) ∧
          (c.frame.length = 0 →
            ∃ u : State, exec (.openCmd src) s = .next (u.startDelta { c with nonce := s.obj.nonce }) ∧
              u.obj.objs = s.obj.objs ∧ u.obj.nonce = s.obj.nonce + 1 ∧ u.sq = s.sq ∧ u.regs = s.regs)) ∧
        (∀ o : Obj, (s.entry src.stream).state = 1 → s.boundObj src.stream = some (c.frame.key, o) →
          (c.frame.opcode = 2 → c.frame.offset = o.length → o.length + c.frame.length < 2 ^ 52 →
            s.keyBlocked c o.kslot (some o.keyId) = none → s.writeBlocked c false = none →
            ∃ t, exec (.appendCmd src) s = .next t ∧ t.obj = s.obj ∧ t.regs = s.regs ∧
              ∃ d ∈ t.sq.cmds, d.uid = c.uid ∧ d.src = src ∧ d.stage = .started ∧ d.frame = c.frame) ∧
          (c.frame.opcode = 2 → c.frame.offset ≠ o.length → RoomFor c s →
            ∃ t, exec (.appendCmd src) s = .next t ∧ Completed c stBadOffset 0 0 false s t ∧ t.obj = s.obj) ∧
          (c.frame.opcode = 3 → s.writeBlocked c true = none →
            (bitAt c.frame.flags 0 = true → c.frame.offset ≠ o.crcRun → RoomFor c s →
              ∃ t, exec (.sealCmd src) s = .next t ∧ Completed c stCrcMismatch 0 0 false s t ∧ t.obj = s.obj) ∧
            (bitAt c.frame.flags 0 = false ∨ c.frame.offset = o.crcRun → exec (.sealCmd src) s = .next (s.startDelta c)))) ∧
        (∀ (o : Obj) (key : Nat), (s.entry src.stream).state = 1 → s.boundObj src.stream = some (key, o) →
          c.frame.opcode = 2 → c.frame.key ≠ key → RoomFor c s →
          ∃ t, exec (.appendCmd src) s = .next t ∧ Completed c stWrongKey 0 0 false s t ∧ t.obj = s.obj))) ∧
    (c.frame.opcode = 0x12 → s.inGroup = false → (∀ d ∈ s.obj.deleting, d.key ≠ c.frame.key) →
      ((∀ p ∈ s.obj.objs, p.1 ≠ c.frame.key) → RoomFor c s →
        ∃ t, exec (.deleteCmd src) s = .next t ∧ Completed c stSuccess 0 0 false s t ∧ t.obj = s.obj) ∧
      (∀ o : Obj, s.obj.objs.find? (fun p => p.1 = c.frame.key) = some (c.frame.key, o) →
        (o.state = 1 → RoomFor c s →
          ∃ t, exec (.deleteCmd src) s = .next t ∧ Completed c stStateConflict 0x06 0x201 false s t ∧ t.obj = s.obj) ∧
        (o.state ≠ 1 → s.writeBlocked c true = none →
          ∃ u : State, exec (.deleteCmd src) s = .next (u.startDelta c) ∧
            u.obj.deleting = s.obj.deleting ++ [DelRec.mk c.frame.key src s.sq.nextAdmit] ∧ u.obj.objs = s.obj.objs ∧
            u.regs = s.regs ∧ u.sq = s.sq)))

/-- When all that a command of a solo device carries is accepted: an OPEN of a free key creates the object, OPEN, with its
length, key slot and stream; an APPEND extends the object by LENGTH and answers the new length; a SEAL seals it with its
CRC-64 and answers length and CRC-64; each writes the stream's entry. A DELETE removes the map entry and answers RESULT 1.
A started OPEN or APPEND whose host tags fail sets HOST_TAG and ends with INTEGRITY, with the map as it was. -/
def Obligations.AcceptanceCommits : Prop :=
  ∀ (s : State) (src : Src) (c : Cmd), s.cmdOf src = some c →
    (s.inGroup = false → s.accepted c = true → c.waits ≠ 8 → c.waits ≠ 13 →
      (c.frame.opcode = 1 → (∀ p ∈ s.obj.objs, p.1 ≠ c.frame.key) →
        ∃ t o, exec (.acceptancePointReached src) s = .next t ∧
          t.obj.objs.find? (fun p => p.1 = c.frame.key) = some (c.frame.key, o) ∧ o.state = 1 ∧
          o.length = c.frame.length ∧ o.kslot = bits c.frame.offset 0 8 ∧ o.stream = src.stream ∧
          t.entry src.stream = s.nextEntry c ∧ Store.get 0 t.obj.bound src.stream = c.frame.key) ∧
      (∀ o : Obj, s.obj.objs.find? (fun p => p.1 = c.frame.key) = some (c.frame.key, o) →
        (c.frame.opcode = 2 → ∃ t, exec (.acceptancePointReached src) s = .next t ∧
          t.obj.objs.find? (fun p => p.1 = c.frame.key) = some (c.frame.key, o.appended c) ∧
          t.entry src.stream = s.nextEntry c ∧
          (RoomFor c s → Completed c stSuccess (o.length + c.frame.length) 0 false s t)) ∧
        (c.frame.opcode = 3 → ∃ t, exec (.acceptancePointReached src) s = .next t ∧
          t.obj.objs.find? (fun p => p.1 = c.frame.key) = some (c.frame.key, o.sealed c) ∧
          t.entry src.stream = s.nextEntry c ∧
          (RoomFor c s → Completed c stSuccess o.length o.crcRun false s t)) ∧
        (∀ d : DelRec, c.frame.opcode = 0x12 →
          s.obj.deleting.find? (fun d => d.key = c.frame.key && d.src = c.src) = some d →
          ∃ t, exec (.acceptancePointReached src) s = .next t ∧ (∀ p ∈ t.obj.objs, p.1 ≠ c.frame.key) ∧
            (RoomFor c s → Emitted (entryOf s c stSuccess 1 0 false) s t)))) ∧
    (c.stage = .started → c.viaIngest = true → c.encoded = false → RoomFor c s →
      ∃ t, exec (.tansyResume src false) s = .next t ∧ t.rd F.TNS_ERR_STATUS_HOST_TAG = 1 ∧ t.obj.objs = s.obj.objs ∧
        Completed c stIntegrity 0 0 false s t)

/-- In solo with the medium READY, or served from the map cache: a STAT of a stream answers its entry, of an object its
stat words, of a key without object NOT_FOUND. With a decompression engine free, a GET beyond the committed length ends with
BAD_OFFSET, at it succeeds with nothing delivered; one whose bytes are at hand and decode, and a resumed one, write those
bytes to the host's buffers from where it had come.
A LIST writes the entries that fit and answers their number, with a cursor when keys are left. HEALTH writes the health
record, LOG_READ the entries it examines. -/
def Obligations.QueriesAnswer : Prop :=
  ∀ (s : State) (src : Src) (c : Cmd) (hit : Bool), s.cmdOf src = some c → RoomFor c s →
    (c.stage = .admitted →
      (c.frame.opcode = 0x11 → bitAt c.frame.flags 0 = true → ∃ t, exec (.statCmd src hit) s = .next t ∧
        Completed c stSuccess (s.statStream c.frame.stream).1 (s.statStream c.frame.stream).2 false s t ∧ t.obj = s.obj) ∧
      (s.inGroup = false → s.medium.state = mReady ∨ hit = true →
        (c.frame.opcode = 0x11 → bitAt c.frame.flags 0 = false →
          (∀ o, s.visible c c.frame.key = some o → ∃ t, exec (.statCmd src hit) s = .next t ∧
            Completed c stSuccess o.stat.1 o.stat.2 false s t ∧ t.obj = s.obj) ∧
          (s.visible c c.frame.key = none → ∃ t, exec (.statCmd src hit) s = .next t ∧
            Completed c stNotFound 0 0 false s t ∧ t.obj = s.obj)) ∧
        (c.frame.opcode = 0x10 → ∀ (o : Obj) (held : Bool) (room : BitVec 32), s.visible c c.frame.key = some o →
          s.keyBlocked c o.kslot (some o.keyId) = none → s.sq.cmds.countP Cmd.decompresses < 8 →
          (o.length < c.frame.offset → ∃ t, exec (.getCmd src hit held room) s = .next t ∧
            Completed c stBadOffset 0 0 false s t ∧ t.obj = s.obj) ∧
          (c.frame.offset = o.length → 0 < o.length → c.prog = 0 → c.res = 0 → c.missing = none →
            ∃ t, exec (.getCmd src hit held room) s = .next t ∧
            Emitted (entryOf s c stSuccess 0 o.length false) s t) ∧
          (∀ (l : List Byte) (stop : Nat), held = true ∨ s.medium.state = mReady → c.prog = 0 → o.lost = [] →
            c.frame.offset < o.length → 0 < c.frame.length → room.toNat ≠ 0 →
            stop = Nat.min (c.frame.offset + Nat.min c.frame.length (o.length - c.frame.offset)) (c.frame.offset + room.toNat) →
            s.tapeNeed { c with fromMedium := !held } o c.frame.offset stop = none →
            s.readFrom o ((s.keyFor o).getD []) (o.restartFor c.frame.offset) c.frame.offset stop (o.units.length + 1) 1 = .got l →
            ∃ t, exec (.getCmd src hit held room) s = .next t ∧ (s.deliver c 0 l).out <:+ t.out)) ∧
        (c.frame.opcode = 0x13 → ∀ all, all = s.listed c.frame → ∃ u t : State, exec (.listCmd src hit) s = .next t ∧
          u = (s.lookup hit).deliver c 0 (((all.take (c.frame.length / 32)).map (fun p => p.2.listEntry p.1)).flatten) ∧
          u.out <:+ t.out ∧
          (all.length ≤ c.frame.length / 32 → Completed c stSuccess all.length 0 false u t) ∧
          (c.frame.length / 32 < all.length →
            Completed c stSuccess (c.frame.length / 32) (s.obj.cursors.length + 1) false u t ∧
            t.obj.cursors.length = s.obj.cursors.length + 1))) ∧
      (c.frame.opcode = 0x35 → ∃ t, exec (.healthCmd src) s = .next t ∧
        Completed c stSuccess 0 0 false (s.deliver c 0 s.healthRecord) t ∧ t.obj = s.obj) ∧
      (c.frame.opcode = 0x36 → ∀ r, r = takeLog c.frame.flags (s.life.nextLog + 1) (c.frame.length / 64)
          (s.logHeld.filter (fun e => c.frame.offset ≤ e.seq)) → ∃ t, exec (.logRead src) s = .next t ∧
        Completed c stSuccess r.1.length r.2 false (s.deliver c 0 ((r.1.map LogEntry.bytes).flatten)) t ∧
        t.obj = s.obj)) ∧
    (c.stage = .started → c.frame.opcode = 0x10 → ∀ (o : Obj) (room : BitVec 32) (l : List Byte) (n stop : Nat),
      s.visible c c.frame.key = some o → o.lost = [] → room.toNat ≠ 0 →
      n = Nat.min c.frame.length (c.aux - c.frame.offset) → c.prog < n →
      stop = Nat.min (c.frame.offset + n) (c.frame.offset + c.prog + room.toNat) →
      s.tapeNeed c o (c.frame.offset + c.prog) stop = none →
      s.readFrom o ((s.keyFor o).getD []) (o.restartFor (c.frame.offset + c.prog)) (c.frame.offset + c.prog) stop
        (o.units.length + 1) 1 = .got l →
      ∃ t, exec (.decompressResume src room true) s = .next t ∧ (s.deliver c c.prog l).out <:+ t.out)

/-- With no stripe open in this device's care: a BARRIER with nothing admitted before it completes, and with something
admitted before it waits; a FLUSH with nothing in its scope completes with RESULT 0, and the loading slots in its scope turn
to DISCARD. An ABORT that names no command, or one past its commit point, ends with ABORT_TOO_LATE; else its target ends with
ABORTED. -/
def Obligations.CommandControl : Prop :=
  ∀ (s : State) (src : Src) (c : Cmd), s.cmdOf src = some c → c.stage = .admitted →
    (s.sq.cmds.map Cmd.uid).Nodup →
    (s.tMode && s.isLead) = false →
    (∀ d ∈ s.sq.cmds, s.settleable d = false) →
    (c.frame.opcode = 0x20 →
      ((∀ d ∈ s.sq.cmds, d.stage.isAdmitted = true → c.admitNo ≤ d.admitNo) → RoomFor c s →
        ∃ t, exec (.barrierCmd src) s = .next t ∧ Completed c stSuccess c.res 0 false s t ∧ t.obj = s.obj) ∧
      ((∃ d ∈ s.sq.cmds, d.stage.isAdmitted = true ∧ d.admitNo < c.admitNo) →
        ∃ t, exec (.barrierCmd src) s = .next t ∧ t.cmdOf src = some { c with stage := .started, waits := 4 } ∧
          t.out = s.out ∧ t.regs = s.regs)) ∧
    (c.frame.opcode = 0x21 → (∀ d ∈ s.sq.cmds, d.uid ≠ c.uid → d.control = true ∨ c.frame.covers d = false) →
      RoomFor c s →
      ∃ t, exec (.flushCmd src) s = .next t ∧ Completed c stSuccess 0 0 false s t ∧
        ∀ st, (∀ d ∈ s.sq.cmds, d.src ≠ .slot (BitVec.ofNat 20 st)) → (s.slot st).state = .loading → (c.frame.flags = 0 ∨ (c.frame.flags = 1 ∧ st = c.frame.stream)) →
          st < 2 ^ 20 → (t.slot st).state = .discard) ∧
    (c.frame.opcode = 0x22 →
      ((∀ x, s.abortTarget c.frame = some x → s.pastCommit x = true) → RoomFor c s →
        ∃ t, exec (.abortCmd src) s = .next t ∧ Completed c stAbortTooLate 0 0 false s t ∧ t.obj = s.obj) ∧
      (∀ x, s.abortTarget c.frame = some x → s.pastCommit x = false → x.uid ≠ c.uid → RoomFor x s →
        ∃ t, exec (.abortCmd src) s = .next t ∧ Completed x stAborted 0 0 false s t))

/-- A MEDIA command of function `fn` that its source has admitted here: in solo, or on this member in a state that permits
the function (R117). -/
def Sys2Proof.Machine.MediaHere (fn : Nat) (permit : Nat → Bool) (src : Src) (c : Cmd) (s : State) : Prop :=
  s.cmdOf src = some c ∧ c.stage = .admitted ∧ c.frame.opcode = 0x30 ∧ c.frame.flags = fn ∧
    (s.inGroup = false ∨ (c.frame.key % 64 = s.myId ∧ permit (s.memberState s.myId) = true))

/-- A MEDIA command on this device. START succeeds at once with the medium's state in READY and UNFORMATTED; from EMPTY,
STOPPED and FAULTED, with a cartridge in a tape, the medium is STARTING and the command started. STOP succeeds at once in
EMPTY and STOPPED; in READY, with a command that uses the medium still running, the medium is STOPPING and the command
started; on a disk with none running, it is STOPPED and the command completes. FORMAT of an empty or UNFORMATTED medium puts it in
STARTING; a READY medium that holds data gives STATE_CONFLICT, MAP_NOT_EMPTY. INFO answers state and write protection, and the bytes left.
ZONE_CLEAN of an EMPTY zone has no effect; a FULL zone is cleaned from then on. ZONE_INFO in
READY answers the zone's state and write pointer. -/
def Obligations.MediaFunctions : Prop :=
  ∀ (s : State) (src : Src) (c : Cmd), RoomFor c s → (s.sq.cmds.map Cmd.uid).Nodup →
    (MediaHere 1 mediaPermit src c s →
      (s.medium.state = mReady ∨ s.medium.state = mUnformatted → ∃ t, exec (.mediaStart src) s = .next t ∧
        Completed c stSuccess s.medium.state 0 false s t) ∧
      (s.medium.state ∈ [mEmpty, mStopped, mFaulted] → s.medium.func ≠ 2 → (s.tMode = true → s.tape.present = true) →
        ∃ t, exec (.mediaStart src) s = .next t ∧ t.medium.state = mStarting ∧ t.medium.func = 1 ∧
          t.cmdOf src = some { c with stage := .started, waits := 1 } ∧
          (s.tMode = false → s.boot.when2 = [] → t.ctl.spindle = 1))) ∧
    (MediaHere 2 mediaPermit src c s →
      (s.medium.state = mEmpty ∨ s.medium.state = mStopped → ∃ t, exec (.mediaStop src) s = .next t ∧
        Completed c stSuccess 0 0 false s t) ∧
      (s.medium.state = mReady → s.medium.func ≠ 2 → (s.tMode && s.isLead) = false →
        (s.mediumBusy = true → ∃ t, exec (.mediaStop src) s = .next t ∧ t.medium.state = mStopping ∧
          t.medium.func = 2 ∧ t.cmdOf src = some { c with stage := .started, waits := 1 }) ∧
        (s.mediumBusy = false → s.dMode = true → s.mediaCmds 2 = [] → ∃ t, exec (.mediaStop src) s = .next t ∧
          t.medium.state = mStopped ∧ t.medium.func = 0 ∧ Completed c stSuccess 0 0 false s t))) ∧
    (MediaHere 3 mediaPermit src c s → s.medium.state = mReady ∨ s.medium.state = mUnformatted → ∀ scan outer,
      (s.medium.state = mUnformatted ∨ s.mediumHolds = false → ∃ t, exec (.mediaFormat src scan outer) s = .next t ∧ t.medium.state = mStarting ∧
        t.medium.func = 3 ∧ t.cmdOf src = some { c with stage := .started, waits := 1 } ∧ t.disk = s.disk ∧
        t.tape = s.tape) ∧
      (s.medium.state = mReady → s.mediumHolds = true → ∃ t, exec (.mediaFormat src scan outer) s = .next t ∧
        Completed c stStateConflict 0x0B (3 * 256 + mReady) false s t)) ∧
    (MediaHere 4 (fun _ => true) src c s → s.dMode = true → s.medium.state = mReady → c.frame.offset < s.disk.zoneCount →
      ((s.zone c.frame.offset).state = zEmpty → ∃ t, exec (.zoneClean src) s = .next t ∧
        Completed c stSuccess 0 0 false s t ∧ t.disk = s.disk) ∧
      ((s.zone c.frame.offset).state = zFull → ∃ t, exec (.zoneClean src) s = .next t ∧
        t.disk.cleaning.map Clean.zone = s.disk.cleaning.map Clean.zone ++ [c.frame.offset] ∧ (t.zone c.frame.offset).state = zCleaning ∧
        (∀ u ∈ s.liveIn c.frame.offset, u ∈ t.disk.destage) ∧
        t.cmdOf src = some { c with stage := .started, waits := 4 })) ∧
    (MediaHere 5 (fun _ => true) src c s → ∃ t, exec (.mediaInfo src) s = .next t ∧
      (s.tMode = true → s.medium.writeFailed = false → s.medium.state = mReady →
        Completed c stSuccess (mReady + (if s.tape.present && s.tape.protect then 256 else 0))
          (s.capacity - s.rd F.FMT_DS_NEXT_DS_NUM * 176 * 4096) false s t) ∧
      (s.dMode = true → s.medium.state ≠ mReady → s.rd F.FMT_HEAD_FAILED_HEADS ≠ 0 →
        Completed c stSuccess (s.medium.state + 512) 0 false s t)) ∧
    (MediaHere 6 (fun _ => true) src c s → s.dMode = true → s.medium.state = mReady →
      (c.frame.offset < s.disk.zoneCount → ∃ t, exec (.zoneInfo src) s = .next t ∧
        Completed c stSuccess (s.zone c.frame.offset).state ((s.zone c.frame.offset).written * 4096) false s t) ∧
      (s.disk.zoneCount ≤ c.frame.offset → ∃ t, exec (.zoneInfo src) s = .next t ∧
        Completed c stInvalidField 0 0 false s t))

/-- In solo. KEY_LOAD CLEAR of a slot that no OPEN object names empties that slot and no other; LOAD into an empty slot
starts, and into a loaded one gives STATE_CONFLICT. An IMAGE_WRITE with OFFSET 0 marks the inactive slot WRITING and begins
its erase; one that starts elsewhere than the last ended gives BAD_OFFSET. IMAGE_ACTIVATE, with no image operation in
progress, starts the check of the inactive slot. A slot that fails ends it with IMAGE_INVALID and is INVALID; one that passes
is VALID: DEFER makes it PENDING and succeeds, NOW quiesces. With no other command running the image is then applied: the slot
is ACTIVE, its version in force, and the command leaves the device. -/
def Obligations.KeysAndImages : Prop :=
  ∀ (s : State) (src : Src) (c : Cmd), s.cmdOf src = some c → s.grp.mrec = none → RoomFor c s →
    (s.sq.cmds.map Cmd.uid).Nodup →
    (c.stage = .admitted →
      (c.frame.opcode = 0x32 → c.frame.flags = 2 → c.prog = 0 →
        (s.keyState c.frame.offset ≠ 2 → s.awaiting c.src = false → ∃ t, exec (.keyLoadClear src) s = .next t ∧
          Completed c stSuccess 0 0 false s t ∧
          Store.get KeySlot.init t.obj.keys (c.frame.offset % 256) = KeySlot.init ∧
          ∀ n, n ≠ c.frame.offset % 256 → Store.get KeySlot.init t.obj.keys n = Store.get KeySlot.init s.obj.keys n) ∧
        (s.keyState c.frame.offset = 2 → ∃ t, exec (.keyLoadClear src) s = .next t ∧
          Completed c stStateConflict 0x10 0x602 false s t ∧ t.obj = s.obj)) ∧
      (c.frame.opcode = 0x32 → c.frame.flags = 1 →
        (s.keyState c.frame.offset = 0 → c.data = [] → ∃ t d, exec (.keyLoadLoad src) s = .next t ∧
          t.cmdOf src = some d ∧ d.stage = .started ∧ d.frame = c.frame ∧ t.obj = s.obj) ∧
        (s.keyState c.frame.offset ≠ 0 → ∃ t, exec (.keyLoadLoad src) s = .next t ∧
          Completed c stStateConflict 0x0F (0x600 + s.keyState c.frame.offset) false s t ∧ t.obj = s.obj)) ∧
      (c.frame.opcode = 0x33 → s.flashBusy = false → c.frame.offset + c.frame.length ≤ slotSize → c.data = [] →
        (c.frame.offset = 0 → 0 < c.frame.length → ∃ t, exec (.imageWrite src) s = .next t ∧ t.boot.norOp = 1 ∧
          t.boot.norAddr = slotBase s.inactive ∧ Emitted (.nor 0 (slotBase s.inactive) slotSize) s t ∧
          (if s.inactive then t.imgRec.stateB else t.imgRec.stateA) = 3 ∧ t.boot.nor = s.boot.nor) ∧
        (c.frame.offset ≠ 0 → c.frame.offset ≠ s.boot.writePtr → ∃ t, exec (.imageWrite src) s = .next t ∧
          Completed c stBadOffset 0 0 false s t ∧ t.boot = s.boot)) ∧
      (c.frame.opcode = 0x34 → s.boot.activation = 0 →
        (∀ d ∈ s.sq.cmds, d.frame.opcode = 0x33 → d.stage ≠ .started) →
        (∀ e, e = (if c.frame.flags = 1 then Instr.imageActivateDefer src else Instr.imageActivateNow src) →
          c.frame.flags = 1 ∨ c.frame.flags = 2 → ∃ t, exec e s = .next t ∧ t.boot.activation = 1 ∧
            t.cmdOf src = some { c with stage := .started, waits := 6, prog := 0, missing := none }))) ∧
    (c.stage = .started → c.frame.opcode = 0x34 → s.awaiting c.src = false → c.prog = 0 →
      (s.boot.activation = 1 → c.missing = none → ∀ readBad,
        (readBad = true ∨ (s.checkSlot s.inactive).1 ≠ 0 → ∃ t, exec (.imageCheckDone src readBad) s = .next t ∧
          (if s.inactive then t.imgRec.stateB else t.imgRec.stateA) = 2 ∧ t.boot.activation = 0 ∧
          Completed c stImageInvalid 0 0 false s t) ∧
        (readBad = false → (s.checkSlot s.inactive).1 = 0 →
          (c.frame.flags = 1 → ∃ t, exec (.imageCheckDone src readBad) s = .next t ∧
            (if s.inactive then t.imgRec.stateB else t.imgRec.stateA) = 1 ∧
            t.imgRec.pending = (if s.inactive then 1 else 0) ∧ t.boot.activation = 0 ∧
            Completed c stSuccess (if s.inactive then 1 else 0) 0 false s t) ∧
          (c.frame.flags = 2 → (s.header s.inactive).personality = s.rd F.GLB_CONFIG_MODE →
            ∃ t, exec (.imageCheckDone src readBad) s = .next t ∧ t.boot.activation = 2))) ∧
      (s.boot.activation = 2 → s.othersRun c = false → s.on F.PWR_STATUS_BRACE = false →
        ∃ t, exec (.activationApply src) s = .next t ∧ t.boot.activation = 0 ∧
          t.imgRec.active = (if s.inactive then 1 else 0) ∧ t.imgRec.pending = 0xFF ∧
          t.boot.version = (s.header s.inactive).version ∧ ∀ d ∈ t.sq.cmds, d.uid ≠ c.uid))

/-- A recovery command is taken in recovery mode while none runs. ERASE marks its slot WRITING and begins the erase, PROGRAM
begins the program of RCV_DATA at RCV_ADDR, and both set BUSY; READ brings 256 B of the slot into RCV_DATA; SELECT makes a slot
that passes its check VALID and PENDING, and one that fails INVALID with ERROR set. When an operation ends, an erased slot
reads 0xFF and a programmed page holds what its bits cleared give, every other byte of the flash is as it was, and in recovery
mode BUSY is 0. -/
def Obligations.FlashAndRecovery : Prop :=
  (∀ (s : State) (port slot : Bool), s.rcvOpen port = true →
    (∃ t, exec (.rcvErase port slot) s = .next t ∧ t.boot.norOp = 1 ∧ t.boot.norAddr = slotBase slot ∧
      t.rd F.BOOT_RCV_STATUS_BUSY = 1 ∧ Emitted (.nor 0 (slotBase slot) slotSize) s t ∧ t.boot.nor = s.boot.nor ∧
      (if slot then t.imgRec.stateB else t.imgRec.stateA) = 3 ∧
      (if slot then t.imgRec.triesB else t.imgRec.triesA) = 0) ∧
    (∃ t, exec (.rcvProgram port slot) s = .next t ∧ t.boot.norOp = 2 ∧
      t.boot.norAddr = slotBase slot + s.rd F.BOOT_RCV_ADDR_PAGE * 256 ∧ t.rd F.BOOT_RCV_STATUS_BUSY = 1 ∧
      (∀ w, w < 64 → ∀ k, k < 4 → t.boot.norBytes[4 * w + k]? =
        some (BitVec.ofNat 8 (s.rdi F.BOOT_RCV_DATA_WORD w / 256 ^ k))) ∧ t.boot.nor = s.boot.nor) ∧
    (∃ t, exec (.rcvRead port slot) s = .next t ∧ t.boot = s.boot ∧ t.out = s.out ∧
      ∀ w, w < 64 → t.rdi F.BOOT_RCV_DATA_WORD w =
        leAt (s.norBytes (slotBase slot + s.rd F.BOOT_RCV_ADDR_PAGE * 256) 256) (4 * w) 4) ∧
    (∃ t, exec (.rcvSelect port slot) s = .next t ∧ t.boot.nor = s.boot.nor ∧
      (if (s.checkSlot slot).1 = 0 then
        t.imgRec.pending = (if slot then 1 else 0) ∧ (if slot then t.imgRec.stateB else t.imgRec.stateA) = 1
      else t.rd F.BOOT_RCV_STATUS_ERROR = 1 ∧ (if slot then t.imgRec.stateB else t.imgRec.stateA) = 2))) ∧
  ∀ (s : State) (flips : List Byte) (a : Nat),
    (s.boot.norOp = 1 → ∃ t, exec (.norOperationDone flips) s = .next t ∧
      Store.get 0xFF#8 t.boot.nor a =
        (if s.boot.norAddr ≤ a ∧ a < s.boot.norAddr + slotSize then 0xFF#8 else Store.get 0xFF#8 s.boot.nor a) ∧
      (s.on F.BOOT_STATUS_RECOVERY = true → t.boot.norOp = 0 ∧ t.rd F.BOOT_RCV_STATUS_BUSY = 0)) ∧
    (s.boot.norOp = 2 → ∃ t, exec (.norOperationDone flips) s = .next t ∧
      (∀ i b, s.boot.norBytes[i]? = some b → Store.get 0xFF#8 t.boot.nor (s.boot.norAddr + i) =
        (Store.get 0xFF#8 s.boot.nor (s.boot.norAddr + i) &&& b) ^^^ ((flips[i]?).getD 0#8)) ∧
      (a < s.boot.norAddr ∨ s.boot.norAddr + s.boot.norBytes.length ≤ a →
        Store.get 0xFF#8 t.boot.nor a = Store.get 0xFF#8 s.boot.nor a) ∧
      (s.on F.BOOT_STATUS_RECOVERY = true → t.boot.norOp = 0 ∧ t.rd F.BOOT_RCV_STATUS_BUSY = 0 ∧
        ((∃ i b, s.boot.norBytes[i]? = some b ∧ Store.get 0xFF#8 t.boot.nor (s.boot.norAddr + i) ≠ b) →
          t.rd F.BOOT_RCV_STATUS_ERROR = 1)))

/-- A droop trip at full rate halves the clocks, sets HALVE_SEEN and counts; the restore ends the halving and adds its
microseconds. A window of 100 ms with slowings in it raises event 0x001 of type 5 with their number and the halved time. A
sag warning after the lock point begins the brace procedure: BRACE is 1, BRACE_DONE 0, READY 0, a flash operation is
abandoned, and in D-mode the retract is due; before the lock point only SAG_WARN shows, and its clear takes it back. The
retract timer parks both actuators and lets a spindle coast. With every step done BRACE_DONE is 1, the marker reads BRACED
and event 0x003 tells the brace's ms; with the warning clear the brace then ends, READY is 1 unless the device quiesces, and
event 0x004 is raised. -/
def Obligations.DroopAndBrace : Prop :=
  ∀ (s : State) (us : BitVec 10) (mv : BitVec 10),
    (s.on F.CLK_STATUS_HALVED = false → ∃ t, exec .droopTrip s = .next t ∧ t.rd F.CLK_STATUS_HALVED = 1 ∧
      t.rd F.CLK_STATUS_HALVE_SEEN = 1 ∧ t.rd F.CLK_HALVE_COUNT_COUNT = Nat.min (s.rd F.CLK_HALVE_COUNT_COUNT + 1) (2 ^ 32 - 1) ∧
      t.pwr.winSlow = s.pwr.winSlow + 1 ∧ t.pwr.sinceSlow = 0 ∧ Only [.pwr, .regs 1] s t) ∧
    (s.on F.CLK_STATUS_HALVED = true → ∃ t, exec (.droopRestore us) s = .next t ∧ t.rd F.CLK_STATUS_HALVED = 0 ∧
      t.rd F.CLK_HALVE_US_COUNT = Nat.min (s.rd F.CLK_HALVE_US_COUNT + us.toNat) (2 ^ 32 - 1) ∧
      t.pwr.winHalvedUs = s.pwr.winHalvedUs + us.toNat ∧ Only [.pwr, .regs 1] s t) ∧
    (∃ t, exec .slowingWindowEnd s = .next t ∧ t.pwr.winSlow = 0 ∧ t.pwr.winHalvedUs = 0 ∧
      (s.pwr.winSlow = 0 → t.host = s.host ∧ t.regs = s.regs) ∧
      (s.pwr.winSlow ≠ 0 →
        Raised 5 0 1 (s.pwr.winSlow % 2 ^ 32 + s.pwr.winHalvedUs % 2 ^ 32 * 2 ^ 32) s t)) ∧
    (∃ t, exec (.sagWarnCrossing mv) s = .next t ∧ t.rd F.PWR_STATUS_SAG_WARN = 1 ∧ t.pwr.sagMv = mv.toNat ∧
      (s.host.readyOnce = true → s.rd F.PWR_STATUS_BRACE = 0 →
        t.rd F.PWR_STATUS_BRACE = 1 ∧ t.rd F.PWR_STATUS_BRACE_DONE = 0 ∧ t.rd F.PWR_ERR_STATUS_BRACE = 1 ∧
        t.rd F.HIF_STATUS_READY = 0 ∧ t.pwr.retractDue = s.dMode ∧ t.pwr.braceMs = 0 ∧
        (s.boot.norOp = 1 ∨ s.boot.norOp = 2 → t.boot.norOp = 3 ∧ Emitted (.nor 2 0 0) s t) ∧
        (s.tapeWriting = false → Raised 5 0 2 mv.toNat s t)) ∧
      (s.host.readyOnce = false → Only [.pwr, .regs 2] s t)) ∧
    (∃ t, exec .sagWarnClear s = .next t ∧ t.rd F.PWR_STATUS_SAG_WARN = 0 ∧
      t.rd F.PWR_STATUS_BRACE = s.rd F.PWR_STATUS_BRACE ∧ Only [.regs 2] s t) ∧
    (s.rd F.PWR_STATUS_BRACE ≠ 0 → s.pwr.retractDue = true → ∃ t, exec .braceRetractTimer s = .next t ∧
      t.pwr.retractDue = false ∧ (s.ctl.spindle ≠ 0 → t.ctl.spindle = 5) ∧ t.rd F.CTL_DK_STATUS_AT_SPEED = 0 ∧
      (∀ a < 2, bitAt (t.rd F.CTL_DK_STATUS_RETRACTED) a = true) ∧
      (t.pwr.spinAgain = true ↔ s.ctl.spindle = 1 ∨ s.ctl.spindle = 2 ∨ s.ctl.spindle = 3)) ∧
    (s.rd F.PWR_STATUS_BRACE ≠ 0 → s.rd F.PWR_STATUS_BRACE_DONE = 0 → (s.actWra 0).field = none →
      (s.actWra 1).field = none → s.wra.squelchDue = false → s.pwr.retractDue = false →
      ∃ t, exec .braceDone s = .next t ∧ t.rd F.PWR_STATUS_BRACE_DONE = 1 ∧ t.pwr.markState = 2 ∧
        Raised 5 0 3 s.pwr.braceMs s t) ∧
    (s.rd F.PWR_STATUS_BRACE ≠ 0 → s.rd F.PWR_STATUS_BRACE_DONE ≠ 0 → s.rd F.PWR_STATUS_SAG_WARN = 0 →
      ∃ t u : State, exec .braceRecover s = .next t ∧ t = u.raise 5 0 4 s.pwr.braceMs ∧ t.rd F.PWR_STATUS_BRACE = 0 ∧
        t.rd F.PWR_STATUS_BRACE_DONE = 0 ∧ t.pwr.markState = 1 ∧
        t.rd F.HIF_STATUS_READY = (if s.rd F.HIF_STATUS_QUIESCE = 0 then 1 else 0))

/-- A conversion in a sensor's form and range enters its reading and is valid; one of the HBM stack above 85 °C doubles the
refresh rate; an open, a short, a reading out of range and the third miss in a row make the sensor faulty and its reading not
valid. The dwell of WARN raises event 0x001 and of THROTTLE puts the level cause in CAUSES; the dwell of SHUTDOWN of a sensor
without fault resets POR and WARM with cause 4, writes the marker THERMAL and holds the POR domain. Readings below a threshold
less HYST leave it. The dwell of the rate sets the rise cause, and a rate at half its limit ends it. Ten seconds of valid
readings clear a fault. The POR domain is released once every always-on sensor has been cool for 10 s. -/
def Obligations.TemperatureSensors : Prop :=
  ∀ (s : State) (i : BitVec 4),
    (∀ inp : SensorIn, s.converts i.toNat inp = true →
      (i.toNat = 1 ∨ 10 ≤ i.toNat → s.pwr.thermalHold = none) →
      (∀ x : Int, s.convert i.toNat inp = .inl x → i.toNat < 2 ∨ (-640 ≤ x ∧ x ≤ 2400) →
        ∃ t, exec (.sensorConversion i inp) s = .next t ∧ t.rdi F.THM_TEMP_READING i.toNat = ofSigned 16 x ∧
          t.rdi F.THM_TEMP_VALID i.toNat = 1 ∧ (t.sensor i.toNat).hist.head? = some (s.life.ms, x) ∧
          (i.toNat = 1 → t.mem.fastRefresh = decide (1360 < x)) ∧
          (i.toNat ≠ 1 → t.mem = s.mem)) ∧
      (∀ code : Nat, s.convert i.toNat inp = .inr code → code ≠ 3 ∨ 2 ≤ (s.sensor i.toNat).misses →
        ∃ t, exec (.sensorConversion i inp) s = .next t ∧ t.rdi F.THM_TEMP_VALID i.toNat = 0 ∧
          t.rdi F.THM_TEMP_FAULT i.toNat ≠ 0 ∧
          (s.rdi F.THM_TEMP_FAULT i.toNat = 0 → t.rd F.THM_ERR_STATUS_SENSOR_FAULT = 1)) ∧
      (∀ x : Int, s.convert i.toNat inp = .inl x → 2 ≤ i.toNat → x < -640 ∨ 2400 < x →
        ∃ t, exec (.sensorConversion i inp) s = .next t ∧ t.rdi F.THM_TEMP_VALID i.toNat = 0 ∧
          t.rdi F.THM_TEMP_FAULT i.toNat ≠ 0)) ∧
    (i.toNat < 12 → s.dwellWindow i.toNat ≠ [] → ∀ thr : BitVec 2, thr.toNat ≠ 0 → s.threshold i.toNat thr.toNat ≠ 0x7FFF →
      (bitAt (s.sensor i.toNat).entered (thr.toNat - 1) = false →
        (∀ p ∈ s.dwellWindow i.toNat, toSigned 16 (s.threshold i.toNat thr.toNat) ≤ p.2) →
        (thr.toNat = 1 → ∃ t, exec (.thresholdDwellExpiry i thr) s = .next t ∧
          bitAt (t.sensor i.toNat).entered 0 = true ∧ t.rd F.THM_ERR_STATUS_WARN = 1 ∧
          Raised 6 i.toNat 1 (s.rdi F.THM_TEMP_READING i.toNat) s t) ∧
        (thr.toNat = 2 → ∃ t, exec (.thresholdDwellExpiry i thr) s = .next t ∧
          bitAt (t.sensor i.toNat).entered 1 = true ∧ t.rd F.THM_ERR_STATUS_THROTTLE = 1 ∧
          2 ≤ t.rdi F.THM_TEMP_LEVEL i.toNat ∧ bitAt (t.rd F.THM_STATUS_CAUSES) 0 = true) ∧
        (thr.toNat = 3 → s.rdi F.THM_TEMP_FAULT i.toNat = 0 → ∃ t, exec (.thresholdDwellExpiry i thr) s = .next t ∧
          TellsCause 4 s t ∧ t.sq = SqSt.init ∧ t.pwr.markState = 3 ∧ t.pwr.markSensor = i.toNat ∧
          t.pwr.thermalHold = some i.toNat)) ∧
      (bitAt (s.sensor i.toNat).entered (thr.toNat - 1) = true →
        (∀ p ∈ s.dwellWindow i.toNat, p.2 < toSigned 16 (s.threshold i.toNat thr.toNat) - s.rd F.THM_DWELL_HYST) →
        ∃ t, exec (.thresholdDwellExpiry i thr) s = .next t ∧ bitAt (t.sensor i.toNat).entered (thr.toNat - 1) = false ∧
          (thr.toNat = 1 → Raised 6 i.toNat 2 (s.rdi F.THM_TEMP_READING i.toNat) s t))) ∧
    (i.toNat < 12 → s.dwellWindow i.toNat ≠ [] →
      (s.rdi F.THM_TEMP_RISE i.toNat = 0 →
        (∀ p ∈ s.dwellWindow i.toNat, s.riseLimit i.toNat < s.rateAt i.toNat p.1 p.2) →
        ∃ t, exec (.riseDwellExpiry i) s = .next t ∧ t.rdi F.THM_TEMP_RISE i.toNat = 1 ∧ t.rd F.THM_ERR_STATUS_RISE = 1 ∧
          bitAt (t.rd F.THM_STATUS_CAUSES) 1 = true) ∧
      (s.rdi F.THM_TEMP_RISE i.toNat ≠ 0 →
        (∀ p ∈ s.dwellWindow i.toNat, 2 * s.rateAt i.toNat p.1 p.2 ≤ s.riseLimit i.toNat) →
        ∃ t, exec (.riseDwellExpiry i) s = .next t ∧ t.rdi F.THM_TEMP_RISE i.toNat = 0)) ∧
    (i.toNat < 12 → s.rdi F.THM_TEMP_FAULT i.toNat ≠ 0 → s.rdi F.THM_TEMP_VALID i.toNat ≠ 0 →
      ∃ t, exec (.sensorFaultClear i) s = .next t ∧ t.rdi F.THM_TEMP_FAULT i.toNat = 0 ∧
        t.rdi F.THM_TEMP_READING i.toNat = s.rdi F.THM_TEMP_READING i.toNat) ∧
    (s.pwr.thermalHold ≠ none →
      (∀ n ∈ [0, 2, 3, 4, 5, 6, 7, 8, 9], s.rdi F.THM_TEMP_VALID n = 0 ∨ (s.reading n < s.throttleAt n ∧
        ∀ p ∈ (s.sensor n).hist, p.1 + 10000 ≤ s.life.ms ∨ p.2 < s.throttleAt n)) →
      ∃ t, exec .thermalRelease s = .next t ∧ t.pwr.thermalHold = none ∧ Only [.pwr] s t)

/-- With a cause still set when the grace ends, the throttle is enforced: STATE 2 and UNITS from the mean of ten windows,
at least MIN_UNITS, with event 0x008. Every second under enforcement HOTTEST names the hottest sensor, and UNITS falls by
STEP_PCT when that one has fallen by less than 0.5 °C, is to rise under a grant at 2 °C, and else stands. The shed level rises
by one, to at most 4, sets SHED and puts the rebuild share at its floor; it falls by one. Each loop measures the currents and
M, takes C from the activities in force, and moves the correction toward M ÷ C. -/
def Obligations.ThrottleAndShed : Prop :=
  ∀ s : State,
    (s.rd F.SQ_THROTTLE_STATE = 1 → s.rd F.THM_STATUS_CAUSES ≠ 0 → ∃ t, exec .throttleGraceExpiry s = .next t ∧
      t.rd F.SQ_THROTTLE_STATE = 2 ∧ t.rd F.SQ_THROTTLE_ENFORCE_SEEN = 1 ∧
      t.rd F.SQ_ADMIT_LIMIT_UNITS = Nat.max (s.rd F.PWR_THROTTLE_CFG_MIN_UNITS)
        (s.unitsOfTen * (100 - s.rd F.PWR_BETONY_CFG_STEP_PCT) / 1000) % 2 ^ 24 ∧
      t.sq.winLeft = t.rd F.SQ_ADMIT_LIMIT_UNITS ∧ Raised 6 0 8 (t.rd F.SQ_ADMIT_LIMIT_UNITS) s t) ∧
    (s.rd F.SQ_THROTTLE_STATE = 2 → ∃ t, exec .throttleAdjust s = .next t ∧ t.rd F.THM_STATUS_HOTTEST = s.hottest % 16 ∧
      ∀ fell : Int, fell = readingBefore (s.sensor s.hottest).hist (s.life.ms - 1000) (s.reading s.hottest) -
          s.reading s.hottest →
        (fell < 8 → t.rd F.SQ_ADMIT_LIMIT_UNITS = Nat.max (s.rd F.PWR_THROTTLE_CFG_MIN_UNITS)
          (s.rd F.SQ_ADMIT_LIMIT_UNITS * (100 - s.rd F.PWR_BETONY_CFG_STEP_PCT) / 100) % 2 ^ 24) ∧
        (8 ≤ fell → t.rd F.SQ_ADMIT_LIMIT_UNITS = s.rd F.SQ_ADMIT_LIMIT_UNITS) ∧
        (32 ≤ fell → ∃ r ∈ t.pwr.requests, r.kind = 4 ∧ r.what = 0)) ∧
    (0 < s.pwr.overMs → s.rd F.PWR_STATUS_SHED < 4 → ∃ t, exec .shedRaise s = .next t ∧
      t.rd F.PWR_STATUS_SHED = s.rd F.PWR_STATUS_SHED + 1 ∧ t.rd F.PWR_ERR_STATUS_SHED = 1 ∧ t.pwr.overMs = 0 ∧
      t.red.shareFloor = true ∧ (s.rd F.PWR_STATUS_SHED = 3 → bitAt (t.rd F.THM_STATUS_CAUSES) 2 = true)) ∧
    (0 < s.pwr.overMs → 4 ≤ s.rd F.PWR_STATUS_SHED → ∃ t, exec .shedRaise s = .next t ∧ t.regs = s.regs ∧
      t.pwr.overMs = 0) ∧
    (0 < s.pwr.underMs → 0 < s.rd F.PWR_STATUS_SHED → s.rd F.PWR_STATUS_SHED ≤ 4 → ∃ t, exec .shedLower s = .next t ∧
      t.rd F.PWR_STATUS_SHED = s.rd F.PWR_STATUS_SHED - 1 ∧ t.pwr.underMs = 0 ∧
      t.red.shareFloor = decide (2 ≤ s.rd F.PWR_STATUS_SHED)) ∧
    (∀ i0 i1 i2 i3 : BitVec 16, ∃ t, exec (.betonyLoop i0 i1 i2 i3) s = .next t ∧
      (∀ (n : Nat) (x : BitVec 16), (n, x) ∈ [(0, i0), (1, i1), (2, i2), (3, i3)] →
        t.rdi F.PWR_ISENSE_MA n = x.toNat * s.rdi F.PWR_ISENSE_CFG_GAIN n / 256 % 2 ^ 20) ∧
      t.rd F.PWR_MEASURED_MW = Nat.min (2 ^ 17 - 1)
        (((List.range 4).map (fun n => t.rdi F.PWR_ISENSE_MA n * s.rdi F.PWR_ISENSE_CFG_RAIL_MV n)).sum / 1000) ∧
      t.rd F.PWR_COMMITTED_MW = Nat.min (2 ^ 17 - 1) s.committed ∧
      t.pwr.corr = nextCorr s.pwr.corr (t.rd F.PWR_MEASURED_MW) s.committed)

/-- A whole block written by a user that may write it stands in the array as the code word of its data under the epoch; a
narrower write is merged into the data of a block that reads, and the block is written whole. A read of a block that decodes as
GOOD changes nothing and one that is corrected is counted; an uncorrectable or uninitialized block is written poisoned,
counted and reported, and the admitted command that read it ends with INTEGRITY. An SRAM or MRAM word that decodes as good
changes nothing; an uncorrectable SRAM word is counted, reported and marked, and an uncorrectable word of the stream sequence
table in solo makes its two streams UNVERIFIED. -/
def Obligations.MemoryAccess : Prop :=
  ∀ (s : State) (block : BitVec 26) (user : MemUser), user.barred block.toNat = false →
    ∀ p, p = s.mem.hbmPlace block.toNat →
    (∀ (off : BitVec 8) (bytes : List Byte) (stuck : SliceFlips),
      (off = 0#8 → bytes.length = 192 → ∃ t, exec (.fabricHbmWrite block off bytes stuck user) s = .next t ∧
        t.mem.hbmAt p = some (hbmEncode p s.mem.initEpoch bytes) ∧ Only [.mem] s t) ∧
      (∀ sl r, s.mem.hbmAt p = some sl →
        r = hbmDecode p s.mem.initEpoch s.mem.dieFailed (flipSlices stuck sl) → r.ok = true →
        0 < bytes.length → bytes.length < 192 → off.toNat + bytes.length ≤ 192 →
        ∃ t, exec (.fabricHbmWrite block off bytes stuck user) s = .next t ∧ t.mem.hbmAt p =
          some (hbmEncode p s.mem.initEpoch
            (r.data.take off.toNat ++ bytes ++ r.data.drop (off.toNat + bytes.length))))) ∧
    (∀ (stuck : SliceFlips) (sl : List (List Byte)) (r : HbmRead), s.mem.hbmAt p = some sl →
      r = hbmDecode p s.mem.initEpoch s.mem.dieFailed (flipSlices stuck sl) →
      (r.outcome = .good → exec (.fabricHbmRead block [] stuck user) s = .next s) ∧
      (r.outcome = .corrected → ∃ t, exec (.fabricHbmRead block [] stuck user) s = .next t ∧
        t.rd F.MEM_HBM_CORR_COUNT = Nat.min (s.rd F.MEM_HBM_CORR_COUNT + 1) (2 ^ 32 - 1) ∧ t.mem.hbm = s.mem.hbm ∧
        Only [.mem, .regs 44] s t) ∧
      (r.outcome = .uncorrectable ∨ r.outcome = .uninit → ∀ (src : Src) (c : Cmd), user = .command src →
        s.cmdOf src = some c → c.stage = .admitted ∨ c.stage = .started → RoomFor c s →
        ∃ t, exec (.fabricHbmRead block [] stuck user) s = .next t ∧
          t.mem.hbmAt p = some (hbmEncode p (s.mem.initEpoch + 16) []) ∧
          t.rd F.MEM_HBM_UNCORR_COUNT = Nat.min (s.rd F.MEM_HBM_UNCORR_COUNT + 1) (2 ^ 32 - 1) ∧
          t.rd F.MEM_ERR_STATUS_HBM_UNCORR = 1 ∧ Completed c stIntegrity 0 0 false s t)) ∧
    (∀ (mram : Bool) (addr : BitVec 24) (stuck : BitVec 144) (k q : Nat), k = (if mram then 2 else 1) →
      addr.toNat < wordCount k → q = s.mem.wordPlace k addr.toNat →
      (∀ d, wordDecode k q (Nat.xor (s.mem.wordAt k q) stuck.toNat) = .good d →
        exec (.sramMramRead mram addr 0#144 stuck user) s = .next s) ∧
      (∀ ad, wordDecode k q (Nat.xor (s.mem.wordAt k q) stuck.toNat) = .bad ad →
        (mram = false → user = .other → ∃ t, exec (.sramMramRead mram addr 0#144 stuck user) s = .next t ∧
          t.rd F.MEM_SRAM_UNCORR_COUNT = Nat.min (s.rd F.MEM_SRAM_UNCORR_COUNT + 1) (2 ^ 32 - 1) ∧
          t.mem.wordAt 1 q = 0xFF * 2 ^ 64 + b2n (addrParity q) * 2 ^ 72 ∧
          Raised 3 1 5 (q + b2n ad * 2 ^ 32) s t) ∧
        (mram = true → s.inGroup = false → 0x80000 ≤ addr.toNat → addr.toNat < 0x100000 →
          ∃ t, exec (.sramMramRead mram addr 0#144 stuck user) s = .next t ∧ Raised 3 2 7 q s t ∧
            ∀ st, st = 2 * (addr.toNat - 0x80000) ∨ st = 2 * (addr.toNat - 0x80000) + 1 →
              t.entry st = { lastSeq := 0, gen := 0, state := 2, unknown := true })))

/-- A scrub read of a unit that decodes as good leaves the memory and moves the pass to the next unit; behind the last one the
pass is done. A pass begins at the first unit with an empty correction table. A slice with 1,024 corrections in the window is
declared failed, with event 0x004. The end of a window clears its counts and reports a memory with corrections in it. A unit
with a hard fault is remapped to the next free spare, with event 0x003; with all 16 spares used REMAP_FULL is set and nothing
is remapped. The self-test sets DONE, and PASS when no case fails. -/
def Obligations.MemoryUpkeep : Prop :=
  ∀ s : State,
    (s.paused = false → ∀ user : MemUser,
      (s.mem.scrubDone[0]? = some false → ∀ sl, s.mem.hbmAt (s.mem.hbmPlace (s.rd F.MEM_SCRUB_POS_BLOCK)) = some sl →
        (hbmDecode (s.mem.hbmPlace (s.rd F.MEM_SCRUB_POS_BLOCK)) s.mem.initEpoch s.mem.dieFailed sl).outcome = .good →
        ∃ t, exec (.scrubRead 0#2 [] [] user) s = .next t ∧ t.mem.hbm = s.mem.hbm ∧
          t.rd F.MEM_SCRUB_POS_BLOCK = (s.rd F.MEM_SCRUB_POS_BLOCK + 1) % 2 ^ 26 ∧
          t.mem.scrubDone[0]? = some (decide (2 ^ 26 ≤ s.rd F.MEM_SCRUB_POS_BLOCK + 1))) ∧
      (s.mem.scrubDone[1]? = some false → ∀ d,
        wordDecode 1 (s.mem.wordPlace 1 s.mem.posSram) (s.mem.wordAt 1 (s.mem.wordPlace 1 s.mem.posSram)) = .good d →
        ∃ t, exec (.scrubRead 1#2 [] [] user) s = .next t ∧ t.mem.sram = s.mem.sram ∧
          t.mem.posSram = (if 2 ^ 23 ≤ s.mem.posSram + 1 then 0 else s.mem.posSram + 1) ∧
          t.mem.scrubDone[1]? = some (decide (2 ^ 23 ≤ s.mem.posSram + 1))) ∧
      (s.mem.scrubDone[2]? = some false → ∀ d,
        wordDecode 2 (s.mem.wordPlace 2 s.mem.posMram) (s.mem.wordAt 2 (s.mem.wordPlace 2 s.mem.posMram)) = .good d →
        ∃ t, exec (.scrubRead 2#2 [] [] user) s = .next t ∧ t.mem.mram = s.mem.mram ∧
          t.mem.posMram = (if 2 ^ 21 ≤ s.mem.posMram + 1 then 0 else s.mem.posMram + 1))) ∧
    (∀ k : BitVec 2, k.toNat < 3 → k.toNat < s.mem.scrubDone.length → ∃ t, exec (.scrubPassStart k) s = .next t ∧
      t.mem.table k.toNat = [] ∧ t.mem.scrubDone[k.toNat]? = some false ∧ (k.toNat = 0 → t.rd F.MEM_SCRUB_POS_BLOCK = 0) ∧
      (k.toNat = 1 → t.mem.posSram = 0) ∧ (k.toNat = 2 → t.mem.posMram = 0)) ∧
    (∀ j : BitVec 3, s.mem.dieFailed = none → 1024 ≤ (s.mem.winSlices[j.toNat]?).getD 0 →
      ∃ t, exec (.dieFailureDeclared j) s = .next t ∧ t.mem.dieFailed = some j.toNat ∧ t.rd F.MEM_STATUS_DIE_FAILED = 1 ∧
        t.rd F.MEM_STATUS_FAILED_SLICE = j.toNat ∧ t.rd F.MEM_ERR_STATUS_DIE_FAILED = 1 ∧ Raised 3 0 4 j.toNat s t) ∧
    (∃ t, exec .correctionWindowEnd s = .next t ∧ t.mem.winCorr = [0, 0, 0] ∧ t.mem.winSlices = List.replicate 8 0 ∧
      t.mem.winMask = 0 ∧
      ((∀ j < 8, s.mem.dieDue j = false) → t.mem.dieFailed = s.mem.dieFailed ∧ ∀ k < 3,
        (∀ i < 3, i ≠ k → (s.mem.winCorr[i]?).getD 0 = 0) → (s.mem.winCorr[k]?).getD 0 ≠ 0 →
        Raised 3 k 1 (Nat.min ((s.mem.winCorr[k]?).getD 0) (2 ^ 32 - 1) +
          (if k = 0 then s.mem.winMask % 256 else 0) * 2 ^ 32) s t)) ∧
    (∀ (k : BitVec 2) (unit : BitVec 26), s.mem.hardFault k.toNat unit.toNat = true →
      ((s.mem.remaps k.toNat).length < 16 → ∃ t, exec (.hardFaultRemap k unit) s = .next t ∧
        t.mem.remaps k.toNat = s.mem.remaps k.toNat ++ [remapUnit k.toNat unit.toNat] ∧
        Raised 3 k.toNat 3 (remapUnit k.toNat unit.toNat + (s.mem.remaps k.toNat).length * 2 ^ 24) s t) ∧
      (16 ≤ (s.mem.remaps k.toNat).length → ∃ t, exec (.hardFaultRemap k unit) s = .next t ∧
        t.rd F.MEM_ERR_STATUS_REMAP_FULL = 1 ∧ t.mem.remaps k.toNat = s.mem.remaps k.toNat ∧ t.mem.hbm = s.mem.hbm ∧
        t.mem.sram = s.mem.sram ∧ t.mem.mram = s.mem.mram)) ∧
    (∀ failed : List (BitVec 4), ∃ t, exec (.memSelftestRun failed) s = .next t ∧ t.rd F.MEM_SELFTEST_DONE = 1 ∧
      ((∀ x ∈ failed, x = 0#4) → t.rd F.MEM_SELFTEST_PASS = 1 ∧ t.rd F.MEM_STATUS_SELFTEST_PASS = 1 ∧
        t.rd F.MEM_SELFTEST_FAIL_CASE = 0 ∧ t.host = s.host) ∧
      ((∃ x ∈ failed, x ≠ 0#4) → t.rd F.MEM_SELFTEST_PASS = 0 ∧ t.rd F.MEM_STATUS_SELFTEST_PASS = 0 ∧
        t.rd F.MEM_ERR_STATUS_SELFTEST_FAIL = 1))

/-- Start-up begins when it has not begun, no sag warning stands and no thermal hold. After a reset of the POR domain an OTP
that cannot be read, or PLLs that do not lock, end it in recovery mode with cause 3 or 4: BOOT_FAIL and RECOVERY are 1, STAGE is
7 and event 0x005 tells the cause. After a reset of WARM alone, HBM that does not train gives cause 5 and a device without a slot
to try cause 2. With an eligible first slot that passes its check, and no self-test case failing, a processor that reaches the
lock point leaves READY 1, LOCKED 1 and STAGE 6: the slot is ACTIVE, its personality in force and its version running, the lock
point is on record, and the medium is at rest or starting. -/
def Obligations.StartUp : Prop :=
  ∀ (s : State) (ms : BitVec 16) (badCase : BitVec 5) (unread : BitVec 2) (x y z : Bool),
    s.rd F.BOOT_STATUS_STAGE = 0 → s.rd F.PWR_STATUS_SAG_WARN = 0 → s.pwr.thermalHold = none →
    (s.boot.fuses.otpRead = false →
      (∃ t, exec (.startUp false x y badCase unread z ms) s = .next t ∧ t.rd F.HIF_STATUS_BOOT_FAIL = 1 ∧
        t.rd F.BOOT_STATUS_RECOVERY = 1 ∧ t.rd F.BOOT_STATUS_STAGE = 7 ∧ t.rd F.BOOT_FAIL_CAUSE_CAUSE = 3 ∧
        t.host.cfgDone = true ∧ t.host.readyOnce = s.host.readyOnce ∧ Raised 0xA 0 5 3 s t) ∧
      (∃ t, exec (.startUp true false y badCase unread z ms) s = .next t ∧ t.rd F.BOOT_STATUS_RECOVERY = 1 ∧
        t.rd F.BOOT_FAIL_CAUSE_CAUSE = 4 ∧ t.boot.fuses.otpRead = true ∧
        t.rd F.BOOT_OTP_MIN_SVN = s.boot.fuses.minSvn % 2 ^ F.BOOT_OTP_MIN_SVN.w)) ∧
    (s.boot.fuses.otpRead = true →
      (∃ t, exec (.startUp x y false badCase unread z ms) s = .next t ∧ t.rd F.HIF_STATUS_BOOT_FAIL = 1 ∧
        t.rd F.BOOT_STATUS_RECOVERY = 1 ∧ t.rd F.BOOT_FAIL_CAUSE_CAUSE = 5 ∧ t.host.cfgDone = true) ∧
      (s.dropPending.slotOrder = [] → ∃ t, exec (.startUp x y true badCase unread z ms) s = .next t ∧
        t.rd F.BOOT_STATUS_RECOVERY = 1 ∧ t.rd F.BOOT_FAIL_CAUSE_CAUSE = 2 ∧ t.rd F.BOOT_STATUS_STAGE = 7) ∧
      (∀ (slot : Bool) (rest : List Bool), s.dropPending.slotOrder = slot :: rest →
        s.dropPending.imgRec.eligible slot = true → s.dropPending.imgRec.state slot ≠ 3 →
        (s.dropPending.checkSlot slot).1 = 0 →
        ∃ t, exec (.startUp x y true 0#5 0#2 true ms) s = .next t ∧ t.rd F.HIF_STATUS_READY = 1 ∧
          t.rd F.BOOT_STATUS_LOCKED = 1 ∧ t.rd F.BOOT_STATUS_STAGE = 6 ∧ t.host.readyOnce = true ∧
          t.rd F.BOOT_SLOT_STARTED = b2n slot ∧ t.imgRec.active = b2n slot ∧ t.imgRec.state slot = 1 ∧
          t.rd F.GLB_CONFIG_MODE = (s.header slot).personality % 4 ∧ t.boot.version = (s.header slot).version ∧
          t.boot.wdtArmed = true ∧ t.rd F.BOOT_START_MS_MS = ms.toNat ∧ t.pwr.markState = 1 ∧
          (t.medium.state = t.restState ∨ t.medium.state = mStarting)))

/-- ARM clears every channel and arms the unit; FORCE triggers an armed unit whose trigger is of kind 0, which keeps the last
PRE entries of each channel and notes where the trigger lies; ABORT returns to IDLE with the recorded entries kept. When every
enabled channel is full, or the time after the trigger has passed, the unit is DONE and raises event 0x508. A read of RD_DATA in
DONE returns the entry at INDEX of the channel, oldest first, latches its time and advances INDEX; in another state it returns
0 and leaves INDEX. -/
def Obligations.TraceUnit : Prop :=
  ∀ (s : State) (port postMs : Bool),
    (s.barsUp port = true →
      (∃ t, exec (.trcArm port) s = .next t ∧ t.rd F.TRC_STATUS_STATE = 1 ∧ t.trc.chans = [] ∧ t.trc.prev = none ∧
        (∀ c < 16, t.rdi F.TRC_CH_COUNT_COUNT c = 0 ∧ t.rdi F.TRC_CH_TRIG_INDEX c = 0) ∧ Only [.trc, .regs 49] s t) ∧
      (s.rd F.TRC_STATUS_STATE = 1 → s.rd F.TRC_TRIG_CFG_KIND = 0 → ∃ t, exec (.trcForce port) s = .next t ∧
        t.rd F.TRC_STATUS_STATE = 2 ∧ (∀ p ∈ t.trc.chans, p.2.length ≤ s.rd F.TRC_PRE_COUNT ∧
          ∃ q ∈ s.trc.chans, q.1 = p.1 ∧ p.2 <+: q.2) ∧
        ∀ c < 16, t.rdi F.TRC_CH_TRIG_INDEX c = (Store.get [] t.trc.chans c).length % 2 ^ 16) ∧
      (∃ t, exec (.trcAbort port) s = .next t ∧ t.rd F.TRC_STATUS_STATE = 0 ∧ t.trc = s.trc ∧ Only [.regs 49] s t) ∧
      (s.rd F.TRC_STATUS_STATE = 3 → ∃ t e, exec (.trcRdDataRead (Req.ofPort port)) s = .next t ∧
        e = ((Store.get [] s.trc.chans (s.rd F.TRC_RD_ADDR_CHANNEL)).reverse[s.rd F.TRC_RD_ADDR_INDEX]?).getD
          { value := 0, time := 0 } ∧
        t.out = .readData (Req.ofPort port) e.value :: s.out ∧ t.rd F.TRC_RD_TIME_TIME = e.time % 2 ^ 32 ∧
        t.rd F.TRC_RD_ADDR_INDEX = (s.rd F.TRC_RD_ADDR_INDEX + 1) % 65536) ∧
      (s.rd F.TRC_STATUS_STATE ≠ 3 → exec (.trcRdDataRead (Req.ofPort port)) s =
        .next (s.emit (.readData (Req.ofPort port) 0)))) ∧
    (s.rd F.TRC_STATUS_STATE = 2 → postMs = true ∨ s.traceFull = true → ∃ t, exec (.traceDone postMs) s = .next t ∧
      t.rd F.TRC_STATUS_STATE = 3 ∧ t.trc = s.trc ∧ Raised 7 0 0x508 (s.rdi F.TRC_CH_COUNT_COUNT 0) s t)

/-- A sequenced packet arrives in its turn: its port is up, the record gives this device a part, its epoch is the record's,
its sender is not FAILED, and its SEQ is the next of its triple (R318, R321, R323). -/
def Sys2Proof.Machine.InTurn (e : Env) (vc : Nat) (s : State) : Prop :=
  s.portUp e.port.toNat = true ∧ s.shutOut = false ∧ s.epochOrder e.epoch.toNat = 0 ∧ s.failedPeer e.src.toNat = false ∧
    e.seq.toNat = Store.get 0 s.grp.rxSeq (triple e.src.toNat vc) + 1

/-- The command completes: `u` is the state after the packet's own effect, the packet is acknowledged, and the group, RED and
the commands go on from there (R318). -/
def Sys2Proof.Machine.Taken (c : Instr) (e : Env) (vc : Nat) (s u : State) : Prop :=
  exec c s = .next (u.sendPlain e.src.toNat 0x1A (ackBytes vc e.seq.toNat)).peersStep

/-- In its turn: STRIP_WRITE DATA with offset 0 of a strip that the device does not hold begins the strip with the bytes, and
the next bytes of a strip that is not whole join it; with the last of them the strip is whole and in D-mode waits for
destage, and where the medium has no room for it the strip is dropped. ABORT drops the strips of the stripe up to the
generation and no other. DONE from the slot's member at the stripe's generation sets the slot's SLOT_DONE bit. ESTIMATE moves
the position time of the member's requests for the strip, capped at 180 s. FAIL gives the slot the row's next member, to which
a strip already sent goes again. A request past its deadline marks its member slow: SLOW is set and, for a strip write, event
0x106 raised. -/
def Obligations.StripWrites : Prop :=
  (∀ (s : State) (e : Env) (h : StripHdr) (id slot gen : Nat), id = h.id.toNat → slot = h.slot.toNat → gen = h.gen.toNat →
    InTurn e 1 s →
    (∀ data : List Byte,
      (s.strip id slot = none → h.offset = 0#32 → h.last = false → ∃ u, Taken (.stripWriteData e h data) e 1 s u ∧
        u.strip id slot = some { stripe := id, gen := gen, slot := slot, bytes := data, whole := false, passed := false
                                 owner := e.src.toNat, told := false, units := [], erased := [] }) ∧
      (∀ x, s.strip id slot = some x → x.gen = gen → x.whole = false → h.offset.toNat = x.bytes.length → x.bytes ≠ [] →
        (h.last = false → ∃ u, Taken (.stripWriteData e h data) e 1 s u ∧
          u.strip id slot = some { x with bytes := x.bytes ++ data }) ∧
        (h.last = true → s.dMode = true → s.stripRoom (x.bytes.length + data.length) = true →
          unitTagsOk (x.bytes ++ data) = true ∨ s.kOf id ≤ slot →
          ∃ u y, Taken (.stripWriteData e h data) e 1 s u ∧ u.strip id slot = some y ∧ y.whole = true ∧
            y.bytes = x.bytes ++ data ∧ y.passed = x.passed ∧ u.disk.destage = s.disk.destage ++ y.units) ∧
        (h.last = true → e.src.toNat ≠ s.myId → s.stripRoom (x.bytes.length + data.length) = false →
          ∃ u, Taken (.stripWriteData e h data) e 1 s u ∧ u.strip id slot = none))) ∧
    (∃ u, Taken (.stripWriteAbort e h) e 1 s u ∧
      u.red.strips = s.red.strips.filter (fun t => decide (t.stripe ≠ id ∨ gen < t.gen))) ∧
    (∀ x, s.stripe id = some x → x.jrec.gen = gen → x.jrec.member slot = e.src.toNat →
      (s.successors ≠ [] → ∃ u, Taken (.stripDone e h) e 1 s u ∧
        u.stripe id = some { x with jrec := { x.jrec with slotDone := setBit x.jrec.slotDone slot } }) ∧
      (∀ r m, s.grp.mrec = some r → s.red.hasPending = false →
        replacement r (stripeRow id) (id / 2 ^ 56) s.red.eligible x.jrec.members = some m →
        ∃ u y, Taken (.stripFail e h) e 1 s u ∧ u.stripe id = some y ∧ y.jrec.members = x.jrec.members.set slot m ∧
          y.resend = (if x.sent then x.resend ++ [slot] else x.resend))) ∧
    (∃ u, Taken (.stripEstimate e h) e 1 s u ∧ ∀ (i : Nat) (q : StripReq), s.red.requests[i]? = some q →
      u.red.requests[i]? = some (if q.member = e.src.toNat ∧ q.stripe = id ∧ q.slot = slot then
        { q with posMs := Nat.min h.posMs.toNat 180000 } else q))) ∧
  ∀ (s : State) (m : BitVec 6) (id : BitVec 64) (slot : BitVec 8) (q : StripReq), q ∈ s.red.requests →
    q.member = m.toNat → q.stripe = id.toNat → q.slot = slot.toNat → q.late = false →
    (∀ p ∈ s.red.requests, p.member = m.toNat → p.stripe = id.toNat → p.slot = slot.toNat → p.late = false → p = q) →
    (∀ p ∈ s.red.slowMs, p.1 ≠ m.toNat) →
    ∃ t, exec (.stripRequestDeadline m id slot) s = .next t ∧ t.rd F.RED_ERR_STATUS_SLOW = 1 ∧
      (q.type = 1 → { q with late := true } ∈ t.red.requests ∧ Raised 8 s.myId 0x106 m.toNat s t)

/-- In its turn, a STRIP_READ of at most 4,064 B within a strip that the device holds and can read is answered with one
STRIP_DATA DATA packet that carries those bytes with STATUS 0; a read of a strip that it does not hold with STATUS 2 and no
bytes; SLOT 0xFF reads a landing copy. STRIP_DATA DATA with STATUS 0 for a request of a unit: as long as bytes are missing they
are kept with the request; with the last of them the request is gone and the unit has its bytes. Erased bytes, and any STATUS
but 0, of a landing copy end the request. -/
def Obligations.StripReads : Prop :=
  ∀ (s : State) (e : Env) (h : StripHdr) (id slot off n : Nat), id = h.id.toNat → slot = h.slot.toNat →
    off = h.offset.toNat → n = h.count.toNat → InTurn e 1 s →
    (s.tMode = false → slot ≠ 0xFF →
      (∀ x, s.strip id slot = some x → off + n ≤ x.bytes.length → 0 < n → n ≤ 4064 →
        (s.stripRange x off n).2 = false → ∃ u y, Taken (.stripRead e h) e 1 s u ∧
          y ∈ Store.get [] u.grp.unacked (triple e.src.toNat 1) ∧ y.packet.dst = e.src.toNat ∧ y.packet.type = 3 ∧
          y.packet.payload = stripHead 1 slot h.gen.toNat 0 id off n 0 true false ++ (x.bytes.drop off).take n) ∧
      (s.strip id slot = none → ∃ u y, Taken (.stripRead e h) e 1 s u ∧
          y ∈ Store.get [] u.grp.unacked (triple e.src.toNat 1) ∧ y.packet.dst = e.src.toNat ∧ y.packet.type = 3 ∧
          y.packet.payload = stripHead 1 slot h.gen.toNat 2 id off 0 0 true false)) ∧
    (slot = 0xFF → ∀ c, s.remoteCopy id = some c → off + n ≤ c.bytes.length → 0 < n → n ≤ 4064 →
      ∃ u y, Taken (.stripRead e h) e 1 s u ∧ y ∈ Store.get [] u.grp.unacked (triple e.src.toNat 1) ∧
        y.packet.payload = stripHead 1 slot h.gen.toNat 0 id off n 0 true false ++ (c.bytes.drop off).take n) ∧
    (∀ (data : List Byte) (q : StripReq), q ∈ s.red.requests → q.type = 2 → q.member = e.src.toNat → q.stripe = id →
      q.slot = slot → q.offset ≤ off → off < q.offset + q.count → q.want = none →
      (∀ p ∈ s.red.requests, p.type = 2 → p.member = e.src.toNat → p.stripe = id → p.slot = slot → p.offset ≤ off →
        off < p.offset + p.count → p = q) → ∀ got, got = (q.got.map (fun g => g.1)).getD [] ++ data →
      (h.status = 0#32 → h.erased = false → (∀ g, q.got = some g → g.2 = false) →
        (got.length < q.count → ∃ u, Taken (.stripData e h data) e 1 s u ∧
          { q with got := some (got, false) } ∈ u.red.requests ∧ u.obj = s.obj) ∧
        (slot ≠ 0xFF → q.count ≤ got.length → ∃ u, Taken (.stripData e h data) e 1 s u ∧
          (s.red.requests.Nodup → q ∉ u.red.requests) ∧
          ∀ i v, (i, v) ∈ s.obj.units → isPlace id slot (q.offset / 4160) v.place = true → v.user = [] →
            ∃ w, (i, w) ∈ u.obj.units ∧ w = { UnitRec.ofPayload (got.take q.count) with
              place := v.place, lost := v.lost, poison := v.poison })) ∧
      (slot = 0xFF → h.status ≠ 0#32 ∨ h.erased = true → ∃ u, Taken (.stripData e h data) e 1 s u ∧ u.obj = s.obj ∧
        u.red.requests.length + 1 = s.red.requests.length))

/-- In its turn: LANDING DATA of a copy the device does not hold begins it, and the next bytes of one that is not whole join
it; with the last of them the copy is whole, and it has failed where the medium is not READY. WRITTEN marks the member's copy
of the command in flight written. RELEASE drops the copy. FAIL takes the member's copy from the command; with too few other
members that can take one the command ends with NO_PLACEMENT, with enough it has three copies again, none of them new on that
member. -/
def Obligations.LandingCopies : Prop :=
  ∀ (s : State) (e : Env) (h : StripHdr) (stream seq : Nat), stream = h.id.toNat % 2 ^ 20 →
    seq = h.id.toNat / 2 ^ 20 % 2 ^ 32 → InTurn e 1 s →
    (∀ data : List Byte,
      (s.remoteCopy h.id.toNat = none → h.offset = 0#32 → h.last = false → ∃ u,
        Taken (.landingData e h data) e 1 s u ∧ u.remoteCopy h.id.toNat =
          some { stream := stream, seq := seq, bytes := data, whole := false, surface := none, units := [], written := false
                 failed := false, told := false }) ∧
      (∀ c, s.remoteCopy h.id.toNat = some c → c.whole = false → h.offset.toNat = c.bytes.length →
        (h.last = false → ∃ u, Taken (.landingData e h data) e 1 s u ∧
          u.remoteCopy h.id.toNat = some { c with bytes := c.bytes ++ data }) ∧
        (h.last = true → ∃ u d, Taken (.landingData e h data) e 1 s u ∧ u.remoteCopy h.id.toNat = some d ∧
          d.whole = true ∧ d.bytes = c.bytes ++ data ∧ (s.medium.state ≠ mReady → d.failed = true)))) ∧
    (∀ c ∈ s.sq.cmds, c.stage = .started → c.src.stream = stream → c.frame.seq = seq →
      ∃ u, Taken (.landingWritten e h) e 1 s u ∧ ∃ d ∈ u.sq.cmds, d.uid = c.uid ∧
        d.copies = c.copies.map (fun l => if l.place = 64 + e.src.toNat then { l with written := true } else l)) ∧
    (∃ u, Taken (.landingRelease e h) e 1 s u ∧ u.remoteCopy h.id.toNat = none ∧
      u.red.remote = s.red.remote.filter (fun c => decide (c.stream ≠ stream ∨ c.seq ≠ seq))) ∧
    (∀ c, c ∈ s.sq.cmds → (s.sq.cmds.map Cmd.uid).Nodup → c.stage = .started → c.src.stream = stream → c.frame.seq = seq →
      (∀ d ∈ s.sq.cmds, d.stage = .started → d.src.stream = stream → d.frame.seq = seq → d = c) →
      (∃ l ∈ c.copies, l.place = 64 + e.src.toNat ∧ l.written = false) →
      ∀ kept free, kept = c.copies.filter (fun l => l.place != 64 + e.src.toNat) →
        free = s.landers.filter (fun i => i != e.src.toNat && !kept.any (fun x => x.place = 64 + i)) →
      (free.length < 3 - kept.length → RoomFor c s → ∃ u, Taken (.landingFail e h) e 1 s u ∧
        Completed c stNoPlacement 0 0 false s u) ∧
      (3 - kept.length ≤ free.length → ∃ u, Taken (.landingFail e h) e 1 s u ∧ ∃ d ∈ u.sq.cmds, d.uid = c.uid ∧
        kept <+: d.copies ∧ d.copies.length = Nat.max 3 kept.length ∧
        ∀ l ∈ d.copies, l.place = 64 + e.src.toNat → l ∈ kept))

/-- In its turn: a JOURNAL RECORD whose CRC checks stands in the mirror region of its sender, in place of an earlier one of its
stripe and owner; a FREE one takes the earlier one away. TAKE of at most 63 records is answered with one RECORDS packet of
them. RECORDS of a failed owner, awaited by the lead from this successor, leave for each stripe the record of the highest
generation and state; with the last ones of the last successor the takeover ends and TAKEOVER is set. RECORDS of the device's
own region give each stripe in flight its record again. DIRECTORY puts the entry in force unless one of a later generation
stands. ROWS keep each row for the next record, and with SLOT 2 release the strips of a layout. -/
def Obligations.JournalPackets : Prop :=
  ∀ (s : State) (e : Env) (h : StripHdr) (data : List Byte), InTurn e 0 s →
    (∀ j, JRec.ofBytes data = some j → ∃ u, Taken (.journalRecord e h data) e 0 s u ∧
      ∀ m, m = (if s.nearest e.src.toNat then u.red.mirror1 else u.red.mirror2) →
        j ∈ m ∧ ∀ x ∈ m, x.stripe = j.stripe → x.owner = j.owner → x = j) ∧
    (leAt data 10 1 = 0 → ∃ u, Taken (.journalRecord e h data) e 0 s u ∧
      ∀ x ∈ (if s.nearest e.src.toNat then u.red.mirror1 else u.red.mirror2),
        ¬ (x.stripe = leAt data 0 8 ∧ x.owner = leAt data 15 1)) ∧
    ((s.mirrorOf h.id.toNat).length ≤ 63 → ∃ u y, Taken (.journalTake e h) e 0 s u ∧
      y ∈ Store.get [] u.grp.unacked (triple e.src.toNat 0) ∧ y.packet.dst = e.src.toNat ∧ y.packet.type = 5 ∧
      y.packet.payload = stripHead 3 0xFF 0 0 h.id.toNat 0 (64 * (s.mirrorOf h.id.toNat).length) 0 true false ++
        ((s.mirrorOf h.id.toNat).map JRec.bytes).flatten) ∧
    (h.id.toNat = s.myId → ∃ u, Taken (.journalRecords e h data) e 0 s u ∧
      ∀ j ∈ recordsOf data, (s.stripe j.stripe).isSome = true → ∃ x ∈ u.red.own, x.stripe = j.stripe) ∧
    (s.isLead = true → h.id.toNat ≠ s.myId → h.id.toNat ≠ e.src.toNat → ∀ w,
      s.red.takeWait.find? (fun p => p.1 = h.id.toNat && bitAt p.2 e.src.toNat) = some (h.id.toNat, w) →
      (h.last = false ∨ clrBit w e.src.toNat ≠ 0 → ∃ u, Taken (.journalRecords e h data) e 0 s u ∧
        ∀ j ∈ recordsOf data, ∃ x ∈ u.red.taken, x.stripe = j.stripe ∧
          (j.gen < x.gen ∨ (j.gen = x.gen ∧ j.state ≤ x.state))) ∧
      (h.last = true → clrBit w e.src.toNat = 0 → ∃ u, Taken (.journalRecords e h data) e 0 s u ∧
        u.rd F.RED_ERR_STATUS_TAKEOVER = 1 ∧ h.id.toNat ∉ u.red.takeover ∧
        (∀ q ∈ u.red.takeWait, q.1 ≠ h.id.toNat) ∧ ∀ j ∈ u.red.taken, j.owner ≠ h.id.toNat)) ∧
    (∀ d, d = DirEntry.ofBytes data →
      ((∀ x ∈ s.red.directory, x.stripe = d.stripe → x.gen ≤ d.gen) → ∃ u,
        Taken (.journalDirectory e h data) e 0 s u ∧ u.dirOf d.stripe = some d) ∧
      ((∃ x ∈ s.red.directory, x.stripe = d.stripe ∧ d.gen < x.gen) → ∃ u,
        Taken (.journalDirectory e h data) e 0 s u ∧ u.red.directory = s.red.directory)) ∧
    (h.slot ≠ 2#8 → ∃ u, Taken (.journalRows e h data) e 0 s u ∧
      u.red.flipNew = (s.red.flipNew || decide (h.slot = 1#8)) ∧
      ∀ p ∈ rowsOf data.length data, (∀ q ∈ rowsOf data.length data, q.1 = p.1 → q = p) →
        Store.get [] u.red.rowsNew (h.id.toNat / 2 ^ 56 * 4096 + p.1) = p.2) ∧
    (h.slot = 2#8 → ∃ u, Taken (.journalRows e h data) e 0 s u ∧
      u.red.strips = s.red.strips.filter (fun t => decide (t.stripe / 2 ^ 56 ≠ h.id.toNat / 2 ^ 56)))

/-- In its turn: REBUILD LIST of a row with at most 84 entries is answered with one LIST_DATA packet of them. LIST_DATA leaves
every slot of a listed stripe that this device has to rebuild in its queue. REBUILD READ of at most 4,064 B of a strip that can
be read is answered with those bytes and STATUS 0, of a strip that the device does not hold with STATUS 2. REBUILD DATA with
STATUS 0 of a source that is not complete joins the bytes of that source; for a strip held here that no rebuild reads it puts
the bytes in place of the strip's own at its offset. -/
def Obligations.RebuildPackets : Prop :=
  ∀ (s : State) (e : Env) (h : StripHdr) (data : List Byte) (id slot off n : Nat), id = h.id.toNat → slot = h.slot.toNat →
    off = h.offset.toNat → n = h.count.toNat → InTurn e 2 s →
    ((s.listing (id % 4096)).length ≤ 84 → ∃ u y, Taken (.rebuildList e h) e 2 s u ∧
      y ∈ Store.get [] u.grp.unacked (triple e.src.toNat 2) ∧ y.packet.dst = e.src.toNat ∧ y.packet.type = 8 ∧
      y.packet.payload = stripHead 2 0xFF 0 0 id 0 (48 * (s.listing (id % 4096)).length) 0 true false ++
        ((s.listing (id % 4096)).map DirEntry.bytes).flatten) ∧
    (∃ u, Taken (.rebuildListData e h data) e 2 s u ∧ ∀ i d, 48 * (i + 1) ≤ data.length →
      d = DirEntry.ofBytes ((data.drop (48 * i)).take 48) → d.k ≠ 0 → ∀ j < d.k + 2, s.ownsLost d j = true →
        ∃ x ∈ u.red.rebuild, x.entry.stripe = d.stripe ∧ x.slot = j) ∧
    (∀ x, s.strip id slot = some x → off + n ≤ x.bytes.length → 0 < n → n ≤ 4064 → (s.stripRange x off n).2 = false →
      ∃ u y, Taken (.rebuildRead e h) e 2 s u ∧ y ∈ Store.get [] u.grp.unacked (triple e.src.toNat 2) ∧
        y.packet.dst = e.src.toNat ∧ y.packet.type = 8 ∧
        y.packet.payload = stripHead 4 slot h.gen.toNat 0 id off n 0 true false ++ (x.bytes.drop off).take n) ∧
    (s.strip id slot = none → ∃ u y, Taken (.rebuildRead e h) e 2 s u ∧
        y ∈ Store.get [] u.grp.unacked (triple e.src.toNat 2) ∧ y.packet.dst = e.src.toNat ∧ y.packet.type = 8 ∧
        y.packet.payload = stripHead 4 slot h.gen.toNat 2 id off 0 0 true false) ∧
    (h.last = false → h.status = 0#32 → h.erased = false → ∀ (i : RebuildItem) got gone, i ∈ s.red.rebuild →
      i.entry.stripe = id → i.started = true → (slot, got, gone, false) ∈ i.sources →
      (i.entry.members[slot]?).getD 0xFF = e.src.toNat →
      (∀ x ∈ s.red.rebuild, x.entry.stripe = id → x = i) →
      (∀ x ∈ s.red.stripes, x.jrec.kind = 1 → x.sent = true) →
      ∃ u, Taken (.rebuildData e h data) e 2 s u ∧ ∃ x ∈ u.red.rebuild, x.entry = i.entry ∧ x.slot = i.slot ∧
        (slot, got ++ data, gone, false) ∈ x.sources) ∧
    ((∀ i ∈ s.red.rebuild, i.entry.stripe ≠ id) → ∀ x, s.strip id slot = some x →
      ∃ u y, Taken (.rebuildData e h data) e 2 s u ∧ u.strip id slot = some y ∧
        y.bytes = x.bytes.take off ++ data ++ x.bytes.drop (off + data.length))

/-- In its turn: SEQ_MIRROR writes the stream's entry of Table 02-2 and no other stream's; under stream 2^20, the model's own
form (log 75), it carries the end of a reservation of nonces. A MAP lookup with the key alone is answered: with code 0 where
the key has no entry, else with every piece of its entry; an answer of code 0 marks the key ABSENT. An insert or an update that
brings an entry puts its fields into the map, or among the proposals when it says so; an update without one makes the key's
proposal a committed entry; a delete takes the key's entry and proposal away and no other key's. How an entry is written in a
MAP packet is the model's own (log 30). -/
def Obligations.MapPackets : Prop :=
  ∀ (s : State) (e : Env), InTurn e 0 s →
    (∀ (stream : BitVec 32) (v : BitVec 64),
      (stream.toNat < 2 ^ 20 → ∃ u, Taken (.seqMirror e stream v) e 0 s u ∧
        u.entry stream.toNat = { lastSeq := v.toNat % 2 ^ 32, gen := v.toNat / 2 ^ 32 % 2 ^ 16
                                 state := v.toNat / 2 ^ 48 % 2 ^ 8, unknown := bitAt v.toNat 56 } ∧
        ∀ st, st ≠ stream.toNat → u.entry st = s.entry st) ∧
      (stream.toNat = 2 ^ 20 → ∃ u, Taken (.seqMirror e stream v) e 0 s u ∧ u.obj.seqTab = s.obj.seqTab ∧
        u.obj.nonceEnd = Nat.max s.obj.nonceEnd v.toNat ∧ u.obj.nonce = Nat.max s.obj.nonceEnd v.toNat)) ∧
    ∀ (key : BitVec 128) (data : List Byte),
      ((∀ p ∈ s.obj.props, p.1 ≠ key.toNat) → (∀ p ∈ s.obj.objs, p.1 ≠ key.toNat) →
        ∃ u y, Taken (.mapLookup e key []) e 0 s u ∧ y ∈ Store.get [] u.grp.unacked (triple e.src.toNat 0) ∧
          y.packet.type = 7 ∧ y.packet.payload = leBytes 1 1 ++ leBytes 16 key.toNat ++ [0#8]) ∧
      ((∀ p ∈ s.obj.props, p.1 ≠ key.toNat) → ∀ o, s.obj.objs.find? (fun p => p.1 = key.toNat) = some (key.toNat, o) →
        ∃ u, Taken (.mapLookup e key []) e 0 s u ∧ ∀ b ∈ s.mapPackets 1 key.toNat o false,
          ∃ y ∈ Store.get [] u.grp.unacked (triple e.src.toNat 0), y.packet.type = 7 ∧
            y.packet.payload = b.take 17 ++ [1#8] ++ b.drop 17) ∧
      (∃ u, Taken (.mapLookup e key [0#8]) e 0 s u ∧ key.toNat ∈ u.red.absent) ∧
      (∀ c, c = Instr.mapInsert e key data ∨ (data ≠ [] ∧ c = Instr.mapUpdate e key data) →
        ∃ u o, Taken c e 0 s u ∧ key.toNat ∉ u.red.absent ∧
          (if bitAt (leAt data 3 1) 0 then u.obj.props else u.obj.objs).find? (fun p => p.1 = key.toNat) =
            some (key.toNat, o) ∧
          o.state = leAt data 0 1 ∧ o.kslot = leAt data 1 1 ∧ o.nocomp = bitAt (leAt data 2 1) 0 ∧
          o.stream = leAt data 4 4 ∧ o.gen = leAt data 8 2 ∧ o.keyId = leAt data 16 8 ∧ o.length = leAt data 24 8 ∧
          o.nonce = leAt data 32 8 ∧ o.crc = leAt data 40 8 ∧ o.crcRun = leAt data 48 8 ∧ o.seq = leAt data 56 4) ∧
      (∀ o, s.obj.props.find? (fun p => p.1 = key.toNat) = some (key.toNat, o) →
        ∃ u, Taken (.mapUpdate e key []) e 0 s u ∧
          u.obj.objs.find? (fun p => p.1 = key.toNat) = some (key.toNat, o) ∧ ∀ p ∈ u.obj.props, p.1 ≠ key.toNat) ∧
      (∃ u, Taken (.mapDelete e key) e 0 s u ∧
        u.obj.objs = s.obj.objs.filter (fun p => p.1 != key.toNat) ∧
        u.obj.props = s.obj.props.filter (fun p => p.1 != key.toNat) ∧ u.obj.units = s.obj.units)

/-- The lead's timer sends LEAD_BEAT with the epoch to every other member that holds the record. In its turn, a LEAD_BEAT ends
the count since the last one and is answered with MEMBER_BEAT; a MEMBER_BEAT leaves the member's medium, state and host link
with age 0. LEAD_QUERY is answered with LEAD_QUERY_RESP, lost when the device is not the lead and has had no LEAD_BEAT for
half of LEAD_MS. A member without MEMBER_BEAT for LEAD_MS becomes unreachable, with event 0x008, and a FORM that waits for it
ends with MEMBER_UNREACHABLE. The deputy without LEAD_BEAT asks every other ACTIVE member but the lead; an answer lost is
counted, and with a majority the deputy asks for the epoch in which it is the lead, the old lead FAILED and another member
the deputy. -/
def Obligations.BeatsAndQueries : Prop :=
  (∀ (s : State) (r : MemRec), s.grp.mrec = some r →
    (s.isLead = true → ∃ t, exec .leadBeatTimer s = .next t ∧ ∀ i < 64, i ≠ s.myId → r.state i ∈ [2, 3, 4, 6] →
      ∃ y ∈ Store.get [] t.grp.unacked (triple i 0), y.packet.dst = i ∧ y.packet.type = 0x13 ∧
        y.packet.payload = leBytes 8 r.epoch) ∧
    (s.isDeputy = true → s.shutOut = false → ∃ t, exec .deputyLeadLossTimeout s = .next t ∧ t.grp.querying = true ∧
      t.grp.lostAnswers = 0 ∧ ∀ i < 64, i ≠ s.myId → i ≠ r.lead → r.state i = 3 →
        ∃ y ∈ Store.get [] t.grp.unacked (triple i 0), y.packet.dst = i ∧ y.packet.type = 0x17 ∧ y.packet.payload = []) ∧
    (∀ m : BitVec 6, s.isLead = true → m.toNat ≠ s.myId → r.state m.toNat ∈ [2, 3, 4, 6] → s.grp.forming = none →
      ∃ t, exec (.memberUnreachableTimeout m) s = .next t ∧ t.unreachable m.toNat = true ∧
        ((∃ p ∈ s.red.slowMs, p.1 = m.toNat) → (∀ o ∈ s.grp.mgmtOut, o.target ≠ m.toNat) →
          Raised 8 m.toNat 0x008 r.epoch s t))) ∧
  (∀ (s : State) (m : BitVec 6) (src : Src) (c : Cmd) (named answered : Nat), s.cmdOf src = some c → RoomFor c s →
    s.grp.forming = some (src, named, answered) → bitAt named m.toNat = true → bitAt answered m.toNat = false →
    ∃ u : State, exec (.memberUnreachableTimeout m) s = .next u.groupStep ∧ u.grp.forming = none ∧
      Completed c stMemberUnreachable 0 0 false s u) ∧
  ∀ (s : State) (e : Env), InTurn e 0 s →
    (∀ epoch, ∃ u y, Taken (.leadBeat e epoch) e 0 s u ∧ u.grp.sinceBeat = 0 ∧
      y ∈ Store.get [] u.grp.unacked (triple e.src.toNat 0) ∧ y.packet.type = 0x14 ∧ y.packet.payload = s.beatBytes) ∧
    (∀ (medium state : BitVec 8) (up : Bool), ∃ u, Taken (.memberBeat e medium state up) e 0 s u ∧
      u.beat e.src.toNat = { medium := medium.toNat, state := state.toNat, hostUp := up, ageMs := 0 } ∧
      (∀ m, m ≠ e.src.toNat → u.beat m = s.beat m) ∧
      ((∀ q ∈ s.red.requests, q.member = e.src.toNat → q.late = false) → 0 < s.rd F.GRP_FAILOVER_LEAD_MS →
        ∀ p ∈ u.red.slowMs, p.1 ≠ e.src.toNat)) ∧
    (∃ u y, Taken (.leadQuery e) e 0 s u ∧ y ∈ Store.get [] u.grp.unacked (triple e.src.toNat 0) ∧ y.packet.type = 0x18 ∧
      leAt y.packet.payload 0 1 =
        (if s.isLead = false ∧ s.rd F.GRP_FAILOVER_LEAD_MS / 2 ≤ s.grp.sinceBeat then 1 else 0)) ∧
    (∀ r, s.grp.mrec = some r → s.grp.querying = true → r.state e.src.toNat = 3 → ∀ n,
      n = popCount 64 (setBit s.grp.lostAnswers e.src.toNat) + 1 →
      (2 * n ≤ r.active.length → ∃ u, Taken (.leadQueryResp e true) e 0 s u ∧ u.grp.querying = true ∧
        u.grp.lostAnswers = setBit s.grp.lostAnswers e.src.toNat) ∧
      (r.active.length < 2 * n → s.grp.change = none → s.grp.changes = [] → ∀ d, s.deputyCandidate r r.lead = some d →
        d ≠ r.deputy → ∃ u c, Taken (.leadQueryResp e true) e 0 s u ∧ u.grp.querying = false ∧
          u.grp.change = some c ∧ c.mrec.epoch = r.epoch + 1 ∧ c.mrec.lead = s.myId ∧ c.mrec.deputy = d ∧
          c.mrec.state r.lead = 5)) ∧
    (∃ u, Taken (.leadQueryResp e false) e 0 s u ∧ u.grp.lostAnswers = s.grp.lostAnswers)

/-- A lead without its quorum demotes itself: ISOLATED is set, changes in progress are dropped and event 0x00B is raised. A
deputy that is unreachable while the quorum holds is replaced: the change names the candidate and marks the old deputy FENCED,
and the candidate gets its copy first; without a candidate NO_DEPUTY is set. Once the copy is complete the record is written in
the lead's MRAM. A member slow for FENCE_MS is to be FENCED, one slow for FAIL_S FAILED, in the next epoch. At the flip the
next epoch has the pending K, makes JOINING members ACTIVE and LEAVING ones DISCOVERED. -/
def Obligations.MembershipChanges : Prop :=
  ∀ (s : State) (r : MemRec), s.grp.mrec = some r →
    (s.isLead = true → s.quorum r = false → ∃ t, exec .leadQuorumLost s = .next t ∧ t.rd F.GRP_STATUS_ISOLATED = 1 ∧
      t.rd F.GRP_ERR_STATUS_ISOLATED = 1 ∧ t.grp.change = none ∧ t.grp.changes = [] ∧ t.grp.mrec = some r ∧
      ((∀ c ∈ s.sq.cmds, c.stage ≠ .started) → Raised 8 s.myId 0x00B r.epoch s t)) ∧
    (s.isLead = true → r.deputy < 64 → s.unreachable r.deputy = true → s.quorum r = true → s.grp.change = none →
      s.grp.changes = [] →
      (∀ d, s.deputyCandidate r r.deputy = some d → ∃ t c, exec .deputyReplace s = .next t ∧ t.grp.change = some c ∧
        t.grp.copyTo = some d ∧ c.copying = true ∧ c.mrec.epoch = r.epoch + 1 ∧ c.mrec.deputy = d ∧
        c.mrec.lead = r.lead ∧ c.mrec.state r.deputy = 4) ∧
      (s.deputyCandidate r r.deputy = none → ∃ t, exec .deputyReplace s = .next t ∧
        t.rd F.GRP_ERR_STATUS_NO_DEPUTY = 1)) ∧
    (∀ c d, s.grp.change = some c → c.copying = true → s.grp.copyTo = some d → c.mrec.deputy < 64 →
      c.mrec.deputy ≠ s.myId → ∃ t, exec .deputyCopyDone s = .next t ∧
        t.grp.change = some { c with copying := false } ∧ t.grp.copyTo = none ∧
        (t.grp.recA = some c.mrec ∨ t.grp.recB = some c.mrec)) ∧
    (s.isLead = true → s.grp.change = none → s.grp.changes = [] → r.deputy < 64 → r.deputy ≠ s.myId →
      (∀ m : BitVec 6, m.toNat ≠ s.myId → m.toNat ≠ r.deputy → (∃ p ∈ s.red.slowMs, p.1 = m.toNat) →
        (r.state m.toNat = 3 → ∃ (u : State) (c : Change), exec (.slowFenceTimeout m) s = .next u.groupStep ∧ u.grp.change = some c ∧
          c.mrec.epoch = r.epoch + 1 ∧ c.mrec.state m.toNat = 4 ∧ c.mrec.deputy = r.deputy ∧
          ∀ i, i ≠ m.toNat → c.mrec.state i = r.state i) ∧
        (r.state m.toNat ∈ [2, 3, 4, 6] → ∃ (u : State) (c : Change), exec (.slowFailTimeout m) s = .next u.groupStep ∧
          u.grp.change = some c ∧ c.mrec.epoch = r.epoch + 1 ∧ c.mrec.state m.toNat = 5)) ∧
      (s.red.hasPending = true → s.red.relocLeft = [] → (∀ x ∈ s.red.stripes, x.jrec.kind ≠ 2) →
        ∃ (u : State) (c : Change), exec .reshapeFlip s = .next u.groupStep ∧ u.grp.change = some c ∧ c.mrec.epoch = r.epoch + 1 ∧
          c.mrec.k = s.red.kPending ∧ u.red.flipNew = true ∧
          (∀ i < 64, c.mrec.state i = (if r.state i = 2 then 3 else if r.state i = 6 then 1 else r.state i))))

/-- The command completes: `u` is the state after the packet's own effect, and the group, RED and the commands go on from
there. -/
def Sys2Proof.Machine.Followed (c : Instr) (s u : State) : Prop := exec c s = .next u.peersStep

/-- A packet leaves on a port or waits for it: it stands in the port's queue or in its replay buffer (R311, R314). -/
def Sys2Proof.Machine.Leaves (p : Nat) (pk : Packet) (u : State) : Prop :=
  pk ∈ (u.port p).queue ∨ ∃ f ∈ (u.port p).replay, f.packet = pk

/-- On a port that is up, a HELLO with a wrong port code disables the port, sets WIRING and raises event 0x004; one with the
right code leaves the neighbour's id and port code in PORT_STATUS, and gives a device without record and id the id that its
neighbour's implies; the lead asks for an epoch when an ACTIVE or FENCED member comes back with an older one. A probe that
returns to its origin closes the ring and gives the origin id 0, one of an origin with a lower UNIQUE_ID goes on along the
ring with the next count, one of a higher is dropped, and one that counts more than 64 raises event 0x00E; an ASSIGN gives a
device without id the count. With ports stable and no id known the device sends a probe. A newer LINK_STATE replaces the view
of its origin. -/
def Obligations.Discovery : Prop :=
  (∀ (s : State), s.hasId = false → s.inGroup = false → s.portUp 1 = true →
    (∀ p < 4, s.portUp p = true → (s.port p).hello = false ∨ s.rdi F.GRP_PORT_STATUS_PEER_ID p = 0xFF) →
    ∃ t pk, exec .discoverStableTimer s = .next t ∧ t.grp.probeSent = true ∧ Leaves 1 pk t ∧ pk.type = 0x11 ∧
      pk.dst = 0xFE ∧ pk.payload = discoverBytes s.uniqueId 1 false) ∧
  ∀ (s : State) (e : Env) (p : Nat), p = e.port.toNat → s.portUp p = true →
    (∀ (uid : BitVec 64) (code id : BitVec 8) (epoch : BitVec 64) (group : BitVec 128),
      (code.toNat ≠ peerPort p → ∃ u, Followed (.hello e uid code id epoch group) s u ∧
        u.rdi F.GRP_PORT_STATUS_STATE p = 4 ∧ u.rd F.GRP_ERR_STATUS_WIRING = 1 ∧
        Raised 8 p 0x004 (code.toNat + id.toNat * 2 ^ 8) s u) ∧
      (code.toNat = peerPort p → s.hasId = false → s.grp.mrec = none → ∃ u, Followed (.hello e uid code id epoch group) s u ∧
        u.rdi F.GRP_PORT_STATUS_PEER_ID p = id.toNat ∧ u.rdi F.GRP_PORT_STATUS_PEER_PORT p = code.toNat ∧
        (u.port p).hello = true ∧
        (∀ i < 64, id.toNat ≠ 0xFF → impliedId s.grp.ringSize id.toNat (-(portStep p)) = some i →
          u.rd F.GRP_STATUS_ID = i ∧ u.rd F.GRP_STATUS_HAS_ID = 1)) ∧
      (∀ r, code.toNat = peerPort p → s.grp.mrec = some r → s.isLead = true →
        impliedId r.ring s.myId (portStep p) = some id.toNat → id.toNat < 64 → epoch.toNat < r.epoch →
        group.toNat = r.groupId → Store.get 0 r.uids id.toNat = uid.toNat → r.state id.toNat ∈ [3, 4] →
        s.grp.change = none → s.grp.changes = [] → r.deputy < 64 → r.deputy ≠ s.myId →
        ∃ u c, Followed (.hello e uid code id epoch group) s u ∧ u.grp.change = some c ∧
          c.mrec = { r with epoch := r.epoch + 1 })) ∧
    (∀ (uid : BitVec 64) (count : BitVec 8),
      (uid.toNat = s.uniqueId → s.grp.probeSent = true → s.hasId = false →
        (count.toNat ≤ 64 → ∃ u, Followed (.discoverProbe e uid count) s u ∧ u.grp.ringSize = count.toNat ∧
          u.rd F.GRP_STATUS_ID = 0 ∧ u.rd F.GRP_STATUS_HAS_ID = 1) ∧
        (64 < count.toNat → ∃ u, Followed (.discoverProbe e uid count) s u ∧ u.grp.probeSent = false ∧
          u.hasId = false ∧ Raised 8 0 0x00E count.toNat s u)) ∧
      (uid.toNat < s.uniqueId → s.portUp 1 = true → ∃ u pk, Followed (.discoverProbe e uid count) s u ∧ Leaves 1 pk u ∧
        pk.type = 0x11 ∧ pk.payload = discoverBytes uid.toNat (count.toNat + 1) false) ∧
      (s.uniqueId < uid.toNat → Followed (.discoverProbe e uid count) s s) ∧
      (uid.toNat ≠ s.uniqueId → s.hasId = false → count.toNat < 64 → ∃ u, Followed (.discoverAssign e uid count) s u ∧
        u.rd F.GRP_STATUS_ID = count.toNat ∧ u.rd F.GRP_STATUS_HAS_ID = 1)) ∧
    (∀ (origin : BitVec 8) (version : BitVec 32) (ports : BitVec 8) (v : View),
      v = Store.get { version := 0, ports := 0 } s.grp.views origin.toNat → origin.toNat < 64 →
      (s.hasId = true → origin.toNat ≠ s.myId) →
      (v.version < version.toNat → ∃ u, Followed (.linkState e origin version ports) s u ∧
        Store.get { version := 0, ports := 0 } u.grp.views origin.toNat =
          { version := version.toNat, ports := ports.toNat }) ∧
      (version.toNat ≤ v.version → Followed (.linkState e origin version ports) s s))

/-- On a port that is up, an EPOCH with a newer record of the same group that gives this device a part puts the record in
force and in MRAM; one whose record is in force already is acknowledged again and changes nothing else. EPOCH_REQ is answered
with the record. REJECT for a stale epoch sets STALE; a rejected SEQ_MIRROR ends its command with EPOCH_STALE. E2E_ACK drops
the packets of the triple up to the SEQ and no later one; the acknowledgement of a record by the deputy puts the change in
progress in force, by another member lets the lead reach it. -/
def Obligations.EpochPackets : Prop :=
  ∀ (s : State) (e : Env), s.portUp e.port.toNat = true →
    (∀ (bytes : List Byte) (r : MemRec), MemRec.ofBytes bytes = some r →
      (s.epoch < r.epoch → (∀ m, s.grp.mrec = some m → m.groupId = r.groupId) → r.state s.myId ≠ 0 → r.state s.myId ≠ 1 →
        ∃ u, Followed (.epochCmd e bytes) s u ∧ u.grp.mrec = some r ∧ (u.grp.recA = some r ∨ u.grp.recB = some r)) ∧
      (s.grp.mrec = some r → Followed (.epochCmd e bytes) s (s.sendPlain e.src.toNat 0x1A (ackBytes 0 0)))) ∧
    (∀ r p, s.grp.mrec = some r → e.src.toNat < 64 → p = s.rdi F.GRP_ROUTE_PORT e.src.toNat → p < 4 →
      ∃ u pk, Followed (.epochReq e) s u ∧ Leaves p pk u ∧ pk.dst = e.src.toNat ∧ pk.type = 0x15 ∧
        pk.payload = r.bytes) ∧
    (∀ (reason : BitVec 8) (epoch : BitVec 64) (seq : BitVec 32) (type : BitVec 8),
      (reason = 1#8 → ∃ u, Followed (.rejectCmd e reason epoch seq type) s u ∧ u.rd F.GRP_ERR_STATUS_STALE = 1) ∧
      (type = 6#8 → ∀ src c x, s.cmdOf src = some c → RoomFor c s →
        x ∈ Store.get [] s.grp.unacked (triple e.src.toNat 0) → x.packet.type = 6 → x.packet.seq = seq.toNat →
        x.owner = some src → (∀ y ∈ Store.get [] s.grp.unacked (triple e.src.toNat 0), y.packet.type = 6 →
          y.packet.seq = seq.toNat → y = x) →
        ∃ u, Followed (.rejectCmd e reason epoch seq type) s u ∧ Completed c stEpochStale 0 0 false s u)) ∧
    (∀ (vc : BitVec 8) (seq : BitVec 32), vc ≠ 0#8 ∨ seq ≠ 0#32 → ∃ u, Followed (.e2eAck e vc seq) s u ∧
      ∀ x, x ∈ Store.get [] u.grp.unacked (triple e.src.toNat vc.toNat) ↔
        x ∈ Store.get [] s.grp.unacked (triple e.src.toNat vc.toNat) ∧ seq.toNat < x.packet.seq) ∧
    (∀ r, s.grp.mrec = some r →
      (s.isLead = true → s.grp.change = none → e.src.toNat < 64 → r.idsIn [2] = [] → ∃ u,
        Followed (.e2eAck e 0#8 0#32) s u ∧ bitAt u.grp.acked e.src.toNat = true) ∧
      (∀ c, s.grp.change = some c → c.mrec.deputy = e.src.toNat → c.copying = false → s.grp.changes = [] →
        c.mrec.idsIn [2] = [] → c.mrec.state s.myId ≠ 0 → c.mrec.state s.myId ≠ 1 → ∃ u,
        Followed (.e2eAck e 0#8 0#32) s u ∧ u.grp.mrec = some c.mrec))

/-- With the peer ports enabled, 64 valid sync headers in a row lock a lane, and a port that is down begins to train; 16
invalid ones unlock it. An up port with one lane locked runs degraded after the timeout, with event 0x003. An INIT block on a
training port with a locked lane is answered with INIT and leaves the peer's port code; with the ready bit the port comes up,
at full rate with both lanes locked, else degraded, with event 0x001, and HELLO leaves. A port goes down when both lanes lack
lock or a frame has been retransmitted 8 times: it drops its replay buffer, counts, sets PORT_DOWN and raises event 0x002. -/
def Obligations.PeerPorts : Prop :=
  ∀ (s : State) (port : BitVec 2) (p : Nat) (q : PortSt), p = port.toNat → q = s.port p →
    (s.on F.GLB_CONFIG_PEER_EN = true → ∀ lane : Bool,
      ((if lane then q.lock1 else q.lock0) = false → ∃ t, exec (.laneBlockLock port lane (List.replicate 64 true)) s = .next t ∧
        (if lane then (t.port p).lock1 else (t.port p).lock0) = true ∧
        (if lane then (t.port p).lock0 else (t.port p).lock1) = (if lane then q.lock0 else q.lock1) ∧
        (t.port p).replay = q.replay ∧ t.portState p = (if s.portState p = 0 then 1 else s.portState p)) ∧
      (∃ t, exec (.laneBlockLock port lane (List.replicate 16 false)) s = .next t ∧
        (if lane then (t.port p).lock1 else (t.port p).lock0) = false ∧ (t.port p).replay = q.replay)) ∧
    (s.portState p = 2 → q.lock0 ≠ q.lock1 → ∃ t, exec (.laneDegradeTimeout port) s = .next t ∧ t.portState p = 3 ∧
      t.rd F.GRP_ERR_STATUS_DEGRADED = 1 ∧ Raised 8 p 0x003 (b2n q.lock0) s t) ∧
    (∀ code : BitVec 2, s.portState p = 1 → q.lock0 = true ∨ q.lock1 = true →
      (∃ t, exec (.linkInit port code false) s = .next t ∧ t.portState p = 1 ∧ Emitted (.linkBlock p 0x78 (p + 4)) s t ∧
        t.rdi F.GRP_PORT_STATUS_PEER_PORT p = code.toNat) ∧
      (∀ up, up = (if q.lock0 && q.lock1 then 2 else 3) → ∃ t pk, exec (.linkInit port code true) s = .next t ∧
        t.portState p = up ∧ Emitted (.linkBlock p 0x78 (p + 4)) s t ∧
        t.rdi F.GRP_PORT_STATUS_PEER_PORT p = code.toNat ∧ Leaves p pk t ∧ pk.type = 0x10 ∧
        pk.payload = s.helloBytes p ∧
        Raised 8 p 0x001 ((if up = 2 then 2 else 1) + s.rdi F.GRP_PORT_STATUS_PEER_ID p * 2 ^ 8) s t)) ∧
    (∀ retries : Bool, s.portUp p = true →
      (if retries then ∃ f ∈ q.replay, 8 ≤ f.tries else q.lock0 = false ∧ q.lock1 = false) →
      ∃ t, exec (.portDown port retries) s = .next t ∧ t.portState p = 1 ∧ (t.port p).replay = [] ∧
        t.rd F.GRP_ERR_STATUS_PORT_DOWN = 1 ∧
        t.rdi F.GRP_PORT_DOWN_COUNT p = Nat.min (s.rdi F.GRP_PORT_DOWN_COUNT p + 1) (2 ^ 32 - 1) ∧
        Raised 8 p 0x002 (if retries then 2 else 1) s t)

/-- On a port that is up, a frame with the expected LSEQ whose packet checks is acknowledged, the next LSEQ is expected and its
packet is taken; a packet of others with no hop left is dropped and counted and its credits return. Any other frame gets one
NAK for the LSEQ expected, and no second one for the same gap. ACK releases the frames up to the one it names. NAK, and the
replay timeout from the oldest frame on, send again every frame from the one named and count a retry. CREDIT adds credits, and
a packet that waits and may then start leaves. -/
def Obligations.LinkFrames : Prop :=
  ∀ (s : State) (port : BitVec 2) (p : Nat) (q : PortSt), p = port.toNat → q = s.port p → s.portUp p = true →
    (∀ (lseq : BitVec 12) (cls invalid : Bool) (bytes : List Byte),
      (∀ pk, invalid = false → lseq.toNat = q.nextRx → Packet.ofBytes (b2n cls) bytes = some pk →
        (∃ u : State, exec (.linkFrame port lseq cls invalid bytes) s = .next (u.crossed p pk) ∧
          u.port p = { q with nextRx := (lseq.toNat + 1) % 4096, nakSent := false } ∧
          u.out = .linkBlock p 0x4B lseq.toNat :: s.out ∧ Only [.out, .grp] s u) ∧
        (pk.dst ≠ 0xFE → (s.hasId = true → pk.dst ≠ s.myId) → pk.hops = 0 → ∃ t,
          exec (.linkFrame port lseq cls invalid bytes) s = .next t ∧ t.rd F.GRP_ERR_STATUS_HOPS = 1 ∧
          t.rd F.GRP_HOPS_DROP_COUNT = Nat.min (s.rd F.GRP_HOPS_DROP_COUNT + 1) (2 ^ 32 - 1) ∧
          t.out = .linkBlock p 0x66 (pk.cost * 2 ^ (8 * (pk.vc * 2 + pk.cls))) :: .linkBlock p 0x4B lseq.toNat :: s.out)) ∧
      (invalid = true ∨ lseq.toNat ≠ q.nextRx ∨ Packet.ofBytes (b2n cls) bytes = none →
        (q.nakSent = false → ∃ t, exec (.linkFrame port lseq cls invalid bytes) s = .next t ∧
          t.port p = { q with nakSent := true } ∧ t.out = .linkBlock p 0x55 q.nextRx :: s.out ∧ Only [.out, .grp] s t) ∧
        (q.nakSent = true → exec (.linkFrame port lseq cls invalid bytes) s = .next s))) ∧
    (∀ (old rest : List LinkFrame) (f : LinkFrame), q.replay = old ++ f :: rest → (∀ g ∈ old, g.lseq ≠ f.lseq) →
      f.lseq < 4096 →
      (∃ t, exec (.linkAck port (BitVec.ofNat 12 f.lseq)) s = .next t ∧ rest <+: (t.port p).replay ∧
        (q.queue = [] → (t.port p).replay = rest)) ∧
      (∃ t, exec (.linkNak port (BitVec.ofNat 12 f.lseq)) s = .next t ∧
        (t.port p).replay = old ++ (f :: rest).map (fun g => { g with tries := g.tries + 1 }) ∧
        t.rdi F.GRP_PORT_RETRY_COUNT p = Nat.min (s.rdi F.GRP_PORT_RETRY_COUNT p + 1) (2 ^ 32 - 1) ∧
        ∀ g ∈ f :: rest, Emitted (.packet p g.packet.bytes) s t) ∧
      (old = [] → ∃ t, exec (.replayTimeout port) s = .next t ∧
        (t.port p).replay = q.replay.map (fun g => { g with tries := g.tries + 1 }) ∧
        t.rdi F.GRP_PORT_RETRY_COUNT p = Nat.min (s.rdi F.GRP_PORT_RETRY_COUNT p + 1) (2 ^ 32 - 1) ∧
        ∀ g ∈ q.replay, Emitted (.packet p g.packet.bytes) s t)) ∧
    (∀ (c : BitVec 48) (cs : List Nat), cs = (List.range 6).map (fun i => (q.credits[i]?).getD 0 + c.toNat / 2 ^ (8 * i) % 2 ^ 8) →
      (q.queue = [] → ∃ t, exec (.linkCredit port c) s = .next t ∧ t.port p = { q with credits := cs } ∧
        Only [.grp] s t) ∧
      (∀ pk, q.queue = [pk] → pk.vc < 3 → PortSt.canSend { q with credits := cs } pk = true →
        ∃ t, exec (.linkCredit port c) s = .next t ∧ (t.port p).queue = [] ∧
          (t.port p).replay = q.replay ++ [{ lseq := q.nextTx, packet := pk, tries := 0 }] ∧
          Emitted (.packet p pk.bytes) s t))

/-- When a sequenced packet has waited 20 µs, every unacknowledged packet of its triple leaves again by its route and is
counted, and stays unacknowledged. A packet that has waited 1 ms for a route to its member is discarded, and no other. -/
def Obligations.EndToEndTimeouts : Prop :=
  ∀ (s : State) (m : BitVec 6),
    (∀ (vc : BitVec 2) (l : List Sent), l = Store.get [] s.grp.unacked (triple m.toNat vc.toNat) → l ≠ [] →
      ∃ t, exec (.e2eResendTimeout m vc) s = .next t ∧ t.grp.unacked = s.grp.unacked ∧
        t.rd F.GRP_E2E_RESEND_COUNT = Nat.min (s.rd F.GRP_E2E_RESEND_COUNT + l.length) (2 ^ 32 - 1) ∧
        (∀ p, p = s.rdi F.GRP_ROUTE_PORT m.toNat → p < 4 → s.mayReach m.toNat = true →
          ∀ x ∈ l, x.packet.dst = m.toNat → ∃ pk, Leaves p pk t ∧ pk.seq = x.packet.seq ∧ pk.dst = m.toNat ∧
            pk.payload = x.packet.payload)) ∧
    (∀ (a b : List Packet) (pk : Packet), s.grp.routeWait = a ++ pk :: b → pk.dst = m.toNat →
      (∀ x ∈ a, x.dst ≠ m.toNat) → ∃ t, exec (.routeWaitTimeout m) s = .next t ∧ t.grp.routeWait = a ++ b ∧
        Only [.grp] s t)

/-- The admitted GROUP_ADMIN of a function whose turn it is: no change and no FORM is under way and no request waits
(R122). -/
def Sys2Proof.Machine.AdminTurn (fn : Nat) (src : Src) (c : Cmd) (s : State) : Prop :=
  s.cmdOf src = some c ∧ c.stage = .admitted ∧ c.frame.opcode = 0x31 ∧ c.frame.flags = fn ∧
    (s.sq.cmds.map Cmd.uid).Nodup ∧ s.adminHeld = false ∧ s.grp.adminQ = []

/-- The command waits for its epoch commit: `ch` is the change in progress between `s` and `u`, which `src` has asked for and
which follows the record `r` (R122, R324). -/
def Sys2Proof.Machine.Asked (src : Src) (c : Cmd) (r : MemRec) (ch : Change) (u : State) : Prop :=
  u.cmdOf src = some { c with stage := .started, waits := 8 } ∧ u.grp.change = some ch ∧ ch.src = some src ∧
    ch.mrec.epoch = r.epoch + 1

/-- In its turn, with a route to the target: QUERY answers the epoch and the bitmap of ACTIVE members. FENCE of an ACTIVE
member, UNFENCE of a FENCED one, FAIL of an ACTIVE or FENCED one that leaves enough members, REMOVE of an ACTIVE one that is not
the deputy, ADD of a DISCOVERED device, SET_DEPUTY of an ACTIVE member whose host link is up and RESHAPE to a k that the members
allow each ask for the next epoch with that change; none takes the lead as its target. ADD, REMOVE and RESHAPE prepare the rows
of the pending layout; a new deputy gets its copy first. FORM of DISCOVERED devices with empty maps, enough of them and this
one among them, sends LEAD_BEAT with epoch 0 to every other one and waits for their answers. -/
def Obligations.GroupAdmin : Prop :=
  (∀ (s : State) (src : Src) (c : Cmd) (r : MemRec), s.grp.mrec = some r →
    (AdminTurn 9 src c s → c.frame.key = 0 → c.frame.offset = 0 → RoomFor c s →
      ∃ u : State, exec (.queryCmd src) s = .next u.groupStep ∧
        Completed c stSuccess r.epoch (r.bitmap (fun st => st = 3)) false s u) ∧
    (r.deputy < 64 → r.deputy ≠ s.myId →
      (∀ m, m = c.frame.key → m < 64 → m ≠ r.lead → c.frame.offset = 0 → s.routeTo m = true →
        (m ≠ r.deputy →
          (AdminTurn 4 src c s → r.state m = 3 → ∃ (u : State) (ch : Change),
            exec (.fenceCmd src) s = .next u.groupStep ∧ Asked src c r ch u ∧ ch.mrec.state m = 4 ∧
            ∀ i, i ≠ m → ch.mrec.state i = r.state i) ∧
          (AdminTurn 5 src c s → r.state m = 4 → ∃ (u : State) (ch : Change),
            exec (.unfenceCmd src) s = .next u.groupStep ∧ Asked src c r ch u ∧ ch.mrec.state m = 3 ∧
            ∀ i, i ≠ m → ch.mrec.state i = r.state i) ∧
          (AdminTurn 6 src c s → r.state m = 3 ∨ r.state m = 4 → s.tooFew r m = false → ∃ (u : State) (ch : Change),
            exec (.failCmd src) s = .next u.groupStep ∧ Asked src c r ch u ∧ ch.mrec.state m = 5) ∧
          (AdminTurn 3 src c s → r.state m = 3 → s.groupBusy = false → s.tooFew r m = false →
            ∃ (u : State) (ch : Change), exec (.removeCmd src) s = .next u.groupStep ∧ Asked src c r ch u ∧
            ch.mrec.state m = 6 ∧ ∀ row < 4096, ∀ l, l = (if s.red.layout = 255 then 1 else s.red.layout + 1) →
              Store.get [] u.red.rowsNew (l * 4096 + row) = baseRow row l s.red.k (clrBit s.red.eligible m)) ∧
          (AdminTurn 7 src c s → r.state m = 3 → (s.beat m).hostUp = true → ∃ (u : State) (ch : Change),
            exec (.setDeputyCmd src) s = .next u.groupStep ∧ Asked src c r ch u ∧ ch.mrec.deputy = m ∧
            ch.copying = true ∧ u.grp.copyTo = some m)) ∧
        (∀ hold : BitVec 64, AdminTurn 2 src c s → s.memberState m = 1 → s.red.hasPending = false →
          bitAt hold.toNat m = false → (r.idsIn [2, 3, 4, 5, 6]).length < 64 → ∃ (u : State) (ch : Change),
          exec (.addCmd src hold) s = .next u.groupStep ∧ Asked src c r ch u ∧ ch.mrec.state m = 2 ∧
          ∀ row < 4096, ∀ l, l = (if s.red.layout = 255 then 1 else s.red.layout + 1) →
            Store.get [] u.red.rowsNew (l * 4096 + row) = baseRow row l s.red.k (setBit s.red.eligible m))) ∧
      (AdminTurn 8 src c s → c.frame.key = 0 → 4 ≤ c.frame.offset → c.frame.offset ≤ 30 → s.groupBusy = false →
        c.frame.offset + 2 ≤ r.active.length → ∃ (u : State) (ch : Change),
        exec (.reshapeCmd src) s = .next u.groupStep ∧ Asked src c r ch u ∧
        (∀ i, ch.mrec.state i = r.state i) ∧ ∀ row < 4096, ∀ l, l = (if s.red.layout = 255 then 1 else s.red.layout + 1) →
          Store.get [] u.red.rowsNew (l * 4096 + row) = baseRow row l c.frame.offset s.red.eligible))) ∧
  ∀ (s : State) (src : Src) (c : Cmd) (hold : BitVec 64) (ids : List Nat), AdminTurn 1 src c s → s.grp.mrec = none →
    ids = onesOf 64 c.frame.key → (s.hasId = true → bitAt c.frame.key s.myId = true) →
    (∀ i ∈ ids, s.memberState i = 1) → (∀ i ∈ ids, i ≠ s.myId → bitAt hold.toNat i = false) → s.obj.objs = [] →
    16 ≤ ids.length → s.rd F.BOOT_START_CFG_K_DEFAULT + 2 ≤ ids.length →
    ∃ u : State, exec (.formCmd src hold) s = .next u.groupStep ∧
      u.grp.forming = some (src, c.frame.key, setBit 0 s.myId) ∧
      u.cmdOf src = some { c with stage := .started, waits := 8 } ∧
      ∀ i ∈ ids, i ≠ s.myId → ∃ y ∈ Store.get [] u.grp.unacked (triple i 0), y.packet.dst = i ∧ y.packet.type = 0x13 ∧
        y.packet.payload = leBytes 8 0

/-- CLOSE_MS after its first unit the stripe being gathered closes: its record opens in state OPEN with the units gathered, in
their order, a generation of 1 and this device as owner, and the units no longer wait. Every 100 ms the rebuild share's target
is 95 % less the percentage of media time that other work took, at least the floor, with critical stripes at least the
critical rate, and at most the ceiling; without rebuild work the share is 0 and the port weights are 3 and 1. -/
def Obligations.StripeTimers : Prop :=
  ∀ s : State,
    (∀ n, n = s.red.openK * s.stripUnits → s.red.gather ≠ [] → s.red.openK ≠ 0 → s.mayOpen = true → ∃ (u : State) (x : StripeSt),
      exec .stripeCloseTimeout s = .next u.redStep ∧ x ∈ u.red.stripes ∧ x.slots.flatten = s.red.gather.take n ∧
      x.jrec.state = 1 ∧ x.jrec.kind = 0 ∧ x.jrec.gen = 1 ∧ x.jrec.owner = s.myId ∧ x.jrec.k = s.red.openK ∧
      x.jrec.fill = x.slots.length ∧ x.sent = false ∧ u.red.gather = s.red.gather.drop n ∧
      ∃ j ∈ u.red.own, j.stripe = x.jrec.stripe ∧ j.state = 1) ∧
    (∀ busy : BitVec 7,
      (s.rebuildWork = false → ∃ t, exec (.rebuildShareUpdate busy) s = .next t ∧ t.rd F.RED_SHARE_CURRENT = 0 ∧
        t.rd F.RED_SHARE_TARGET = 0 ∧ t.rd F.GRP_PORT_ARB_DATA_W = 3 ∧ t.rd F.GRP_PORT_ARB_BULK_W = 1) ∧
      (s.rebuildWork = true → ∀ a b, a = Nat.max (s.rd F.RED_RATE_FLOOR_PCT) (95 - busy.toNat) →
        b = Nat.min (if 0 < s.criticals then Nat.max a (s.rd F.RED_RATE_CRIT_PCT) else a) (s.rd F.RED_RATE_CEIL_PCT) →
        b < 128 → ∃ t, exec (.rebuildShareUpdate busy) s = .next t ∧ t.rd F.RED_SHARE_TARGET = b ∧
          (b ≤ s.rd F.RED_SHARE_CURRENT → s.rd F.RED_SHARE_CURRENT ≠ 0 → t.rd F.RED_SHARE_CURRENT = b)))

/-- A response on the management path: message type 0x7F, the vendor identifier, the header with RC, and the body
(R337, Table 13-9). -/
def Sys2Proof.Machine.mgmtBytes (s : State) (cmd tag rc : Nat) (body : List Byte) : Output :=
  .mgmt (leBytes 1 0x7F ++ ((leBytes 4 (s.rd F.GRP_MG_VENDOR_VENDOR)).reverse ++ (leBytes 1 (cmd + 0x80) ++ leBytes 1 tag ++
    leBytes 1 rc ++ leBytes 1 0 ++ leBytes 8 s.epoch ++ body)))

/-- With BASE_EPOCH 0 or the device's epoch: GET_MEMBERSHIP answers id, role, state and the record, zeros without one;
READ_EVENT pops the oldest event and answers its words; HEALTH the health record; REG_READ of an aligned BAR0 offset other than
`HIF.EVT_DATA0` the register's value, of another offset RC 3; LOG_READ of 1 to 16 entries the entries from the LOG_SEQ on, of
another count RC 3. With another BASE_EPOCH each answers RC 1 and changes nothing. ADMIN without an epoch answers RC 3, without
a record RC 1; a member forwards it to the lead, or answers RC 4 without a route; the lead answers a QUERY of its epoch at its
turn, and RC 1 for another epoch. A low clock releases the bus; an assignment sets the address and a clear returns 0x1D; MCTP
control requests are answered with the base version's content, and Set Endpoint ID sets the endpoint id (log 42). -/
def Obligations.ManagementPath : Prop :=
  ∀ (s : State) (tag : BitVec 8) (base : BitVec 64) (n : Nat), n = tag.toNat →
    (base = 0#64 ∨ base.toNat = s.epoch →
      (∀ l, l = (match s.grp.mrec with
          | some r => r.bytes
          | none => List.replicate 1024 0#8) → ∃ t, exec (.mgmtGetMembership tag base) s = .next t ∧
        t.out = mgmtBytes s 1 n 0 (leBytes 1 s.myId ++ leBytes 1 s.role ++ leBytes 1 (s.shown F.GRP_STATUS_STATE 0 0) ++
          leBytes 1 0 ++ l) :: s.out ∧ Only [.out] s t) ∧
      (∀ e rest, s.host.evtFifo = e :: rest → ∃ t, exec (.mgmtReadEvent tag base) s = .next t ∧ t.host.evtFifo = rest ∧
        t.out = mgmtBytes s 2 n 0 (leBytes 4 (e.word 0) ++ leBytes 4 (e.word 1) ++ leBytes 4 (e.word 2) ++
          leBytes 4 (e.word 3)) :: s.out) ∧
      (s.host.evtFifo = [] → ∃ t, exec (.mgmtReadEvent tag base) s = .next t ∧
        t.out = mgmtBytes s 2 n 0 (List.replicate 16 0#8) :: s.out) ∧
      (∃ t, exec (.mgmtHealth tag base) s = .next t ∧ t.out = mgmtBytes s 3 n 0 s.healthRecord :: s.out ∧ Only [.out] s t) ∧
      (∀ off : Word,
        (off.toNat ≠ F.HIF_EVT_DATA0_WORD0.off → off.toNat % 4 = 0 → off.toNat < 2 ^ 26 → ∃ t,
          exec (.mgmtRegRead tag base off) s = .next t ∧
          t.out = mgmtBytes s 4 n 0 (leBytes 4 (s.readReg .mgmt off.toNat).2) :: s.out) ∧
        (off.toNat = F.HIF_EVT_DATA0_WORD0.off ∨ off.toNat % 4 ≠ 0 ∨ 2 ^ 26 ≤ off.toNat → ∃ t,
          exec (.mgmtRegRead tag base off) s = .next t ∧ t.out = mgmtBytes s 4 n 3 [] :: s.out ∧ Only [.out] s t)) ∧
      (∀ (first : BitVec 64) (count : BitVec 8),
        (1 ≤ count.toNat → count.toNat ≤ 16 → ∃ t, exec (.mgmtLogRead tag base first count) s = .next t ∧
          t.out = mgmtBytes s 6 n 0 ((((s.logHeld.filter (fun x => first.toNat ≤ x.seq)).take count.toNat).map
            LogEntry.bytes).flatten) :: s.out ∧ Only [.out] s t) ∧
        (count.toNat = 0 ∨ 16 < count.toNat → ∃ t, exec (.mgmtLogRead tag base first count) s = .next t ∧
          t.out = mgmtBytes s 6 n 3 [] :: s.out ∧ Only [.out] s t))) ∧
    (base ≠ 0#64 → base.toNat ≠ s.epoch → ∀ (off : Word) (first : BitVec 64) (count : BitVec 8) (k : Nat) (c : Instr),
      (k, c) ∈ [(1, Instr.mgmtGetMembership tag base), (2, .mgmtReadEvent tag base), (3, .mgmtHealth tag base),
        (4, .mgmtRegRead tag base off), (6, .mgmtLogRead tag base first count)] →
      ∃ t, exec c s = .next t ∧ t.out = mgmtBytes s k n 1 [] :: s.out ∧ Only [.out] s t) ∧
    (∀ (fn : BitVec 8) (key off hold : BitVec 64),
      (base = 0#64 → ∃ t, exec (.mgmtAdmin tag base fn key off hold) s = .next t ∧ t.out = mgmtBytes s 5 n 3 [] :: s.out ∧
        Only [.out] s t) ∧
      (base ≠ 0#64 → s.grp.mrec = none → ∃ t, exec (.mgmtAdmin tag base fn key off hold) s = .next t ∧
        t.out = mgmtBytes s 5 n 1 [] :: s.out ∧ Only [.out] s t) ∧
      (base ≠ 0#64 → ∀ r, s.grp.mrec = some r →
        (s.isLead = false → s.rdi F.GRP_ROUTE_PORT r.lead < 4 → ∃ t y,
          exec (.mgmtAdmin tag base fn key off hold) s = .next t ∧ (s.grp.mgmtTag, n) ∈ t.grp.adminOut ∧
          y ∈ Store.get [] t.grp.unacked (triple r.lead 0) ∧ y.packet.dst = r.lead ∧ y.packet.type = 0x1B ∧
          y.packet.payload = mgmtHead 3 0 s.grp.mgmtTag 0 base.toNat ++ (leBytes 1 fn.toNat ++ leBytes 8 key.toNat ++
            leBytes 8 off.toNat)) ∧
        (s.isLead = false → 4 ≤ s.rdi F.GRP_ROUTE_PORT r.lead → ∃ t,
          exec (.mgmtAdmin tag base fn key off hold) s = .next t ∧ t.out = mgmtBytes s 5 n 4 [] :: s.out) ∧
        (s.isLead = true → s.adminHeld = false → s.grp.adminQ = [] →
          (base.toNat ≠ r.epoch → fn ≠ 2#8 → ∃ u : State, exec (.mgmtAdmin tag base fn key off hold) s = .next u.groupStep ∧
            u.out = mgmtBytes s 5 n 1 [] :: s.out) ∧
          (base.toNat = r.epoch → fn = 9#8 → key = 0#64 → off = 0#64 → ∃ u : State,
            exec (.mgmtAdmin tag base fn key off hold) s = .next u.groupStep ∧
            u.out = mgmtBytes s 5 n 0 (leBytes 2 stSuccess ++ leBytes 8 r.epoch ++
              leBytes 8 (r.bitmap (fun st => st = 3))) :: s.out)))) ∧
    (∃ t, exec .mgmtBusTimeout s = .next t ∧ t.out = .mgmtRelease :: s.out ∧ Only [.out] s t) ∧
    (∀ (clear : Bool) (addr : BitVec 7), ∃ t, exec (.mgmtAddressAssignment clear addr) s = .next t ∧
      t.grp.mgmtAddr = (if clear then 0x1D else addr.toNat) ∧ Only [.grp] s t) ∧
    (∀ (inst : BitVec 5) (cmd eid : BitVec 8), ∃ t body, exec (.mctpControlMessage inst cmd eid) s = .next t ∧
      t.out = .mgmt (leBytes 1 0 ++ leBytes 1 inst.toNat ++ leBytes 1 cmd.toNat ++ body) :: s.out ∧
      t.grp.mgmtEid = (if cmd = 1#8 then eid.toNat else s.grp.mgmtEid) ∧ Only [.out, .grp] s t ∧
      (cmd = 1#8 → body = [0#8, 0#8, eid, 0#8]) ∧ (cmd = 2#8 → body = [0#8, BitVec.ofNat 8 s.grp.mgmtEid, 0#8, 0#8]) ∧
      (cmd = 0#8 ∨ 7 ≤ cmd.toNat → body = [5#8]))

/-- In its turn: a CMD packet of a new TAG whose data is whole becomes an admitted command of this device with its frame and
data; one whose data is not whole keeps them; one of a TAG that is done is answered again with its completion entry. CMD_DONE
ends the part of the command at the lead; a MEDIA command whose only part it was ends with that RESULT and AUX. A forwarded
ADMIN request is answered with RC 4 by a device that is not the lead, by the lead with RC 1 when its epoch is stale, and a
QUERY of the epoch with its outcome. ADMIN_DONE answers the management request that this device had forwarded. -/
def Obligations.MgmtPackets : Prop :=
  ∀ (s : State) (e : Env), InTurn e 0 s →
    (∀ (part : BitVec 8) (tag : BitVec 16) (f : BitVec 512) (data : List Byte) (fr : Frame), fr = Frame.ofBits f.toNat →
      ((∀ m ∈ s.grp.mgmtCmds, m.tag = tag.toNat → m.lead ≠ e.src.toNat) →
        (fr.mgmtNeed ≤ data.length → s.cmdOf (.mgmt tag) = none → s.sq.uidsOk → ∃ u c,
          Taken (.mgmtCmd e part tag 0#32 f data) e 0 s u ∧ u.cmdOf (.mgmt tag) = some c ∧ c.stage = .admitted ∧
          c.frame = fr ∧ c.data = data) ∧
        (data.length < fr.mgmtNeed → ∃ u, Taken (.mgmtCmd e part tag 0#32 f data) e 0 s u ∧ u.sq = s.sq ∧
          ∃ m ∈ u.grp.mgmtCmds, m.tag = tag.toNat ∧ m.lead = e.src.toNat ∧ m.data = data ∧ m.frame = fr ∧ m.done = false)) ∧
      (∀ m off, s.grp.mgmtCmds.find? (fun x => x.tag = tag.toNat && x.lead = e.src.toNat) = some m → m.done = true →
        ∃ u y, Taken (.mgmtCmd e part tag off f data) e 0 s u ∧
          y ∈ Store.get [] u.grp.unacked (triple e.src.toNat 0) ∧ y.packet.type = 0x1B ∧
          y.packet.payload = mgmtHead 2 0 tag.toNat 0 0 ++ leBytes 32 m.entry)) ∧
    (∀ (tag : BitVec 16) (v : BitVec 256) (o : MgmtOut) (src : Src) (c : Cmd), o ∈ s.grp.mgmtOut → o.tag = tag.toNat →
      o.target = e.src.toNat → (∀ x ∈ s.grp.mgmtOut, x.tag = tag.toNat → x = o) → o.src = some src →
      (∀ x ∈ s.grp.mgmtOut, x.src = some src → x = o) → s.cmdOf src = some c → c.frame.opcode = 0x30 → c.prog = 0 →
      v.toNat / 2 ^ 128 % 2 ^ 16 = 0 → s.hits c = false → RoomFor c s → ∃ u, Taken (.mgmtCmdDone e tag v) e 0 s u ∧
        (∀ x ∈ u.grp.mgmtOut, x.tag ≠ tag.toNat) ∧
        Completed c stSuccess (v.toNat % 2 ^ 64) (v.toNat / 2 ^ 192 % 2 ^ 64) false s u) ∧
    (∀ (tag : BitVec 16) (base : BitVec 64) (fn : BitVec 8) (key off hold : BitVec 64), e.src.toNat < 64 →
      (s.isLead = false → ∃ u y, Taken (.mgmtOpAdmin e tag base fn key off hold) e 0 s u ∧
        y ∈ Store.get [] u.grp.unacked (triple e.src.toNat 0) ∧ y.packet.type = 0x1B ∧
        y.packet.payload = mgmtHead 4 0 tag.toNat 0 0 ++ [4#8, 0#8, 0#8, 0#8]) ∧
      (∀ r, s.isLead = true → s.grp.mrec = some r → s.adminHeld = false → s.grp.adminQ = [] →
        (base.toNat ≠ r.epoch → fn ≠ 2#8 → ∃ u y, Taken (.mgmtOpAdmin e tag base fn key off hold) e 0 s u ∧
          y ∈ Store.get [] u.grp.unacked (triple e.src.toNat 0) ∧ y.packet.type = 0x1B ∧
          y.packet.payload = mgmtHead 4 0 tag.toNat 0 0 ++ [1#8, 0#8, 0#8, 0#8]) ∧
        (base.toNat = r.epoch → fn = 9#8 → key = 0#64 → off = 0#64 → ∃ u y,
          Taken (.mgmtOpAdmin e tag base fn key off hold) e 0 s u ∧
          y ∈ Store.get [] u.grp.unacked (triple e.src.toNat 0) ∧ y.packet.type = 0x1B ∧
          y.packet.payload = mgmtHead 4 0 tag.toNat 0 0 ++ [0#8, 0#8, 0#8, 0#8] ++ (leBytes 2 stSuccess ++
            leBytes 8 r.epoch ++ leBytes 8 (r.bitmap (fun st => st = 3)))))) ∧
    (∀ (tag : BitVec 16) (rc : BitVec 8) (status : BitVec 16) (result aux : BitVec 64) (mt : Nat),
      s.grp.adminOut.find? (fun p => p.1 = tag.toNat) = some (tag.toNat, mt) →
      ∃ u, Taken (.mgmtAdminDone e tag rc status result aux) e 0 s u ∧ (∀ p ∈ u.grp.adminOut, p.1 ≠ tag.toNat) ∧
        u.out = mgmtBytes s 5 mt rc.toNat (if rc = 0#8 then leBytes 2 status.toNat ++ leBytes 8 result.toNat ++
          leBytes 8 aux.toNat else []) :: s.out)

/-- The close timeout closes the open data set. At a boundary with nothing to rewrite or re-issue, the oldest pending set is
built at the next frame slot, none in a quiet point or at a wrap's end, and a re-issue that is due is built first. A frame slot
squelches what was due, or sends the next frame built to all its tracks, or 64 FILL frames in mid-session, or passes. A
deadline without a decision fails the copy and sets DEADLINE. A lateral error over the limit while writing squelches at once:
state disturbed, event 0x101 with cause 1, F past the frames not written and 8 more. Settled after the reposition, writing goes
on. Within the last slots of a wrap the tape turns to the next wrap once nothing is left to decide, or at the end limit. -/
def Obligations.TapeWriting : Prop :=
  ∀ s : State,
    (s.tape.openOne = none → exec .dataSetCloseTimeout s = .next s) ∧
    (∀ d : DataSet, s.tape.openOne = some d → d.units ≠ [] → s.tape.hasRoom = true → ∃ t,
      exec .dataSetCloseTimeout s = .next t ∧ t.tape.frames = s.tape.frames ∧
      (∃ e ∈ t.tape.sets, e.part = d.part ∧ e.num = d.num ∧ e.closed = true ∧ e.units = d.units) ∧
      t.tape.openOne = none ∧ Only [.tape, .mot, .regs 32] s t) ∧
    (s.medium.writeFailed = false → s.mot.repos = false → s.mot.stopped = false → s.mot.reading = false →
      s.tape.rwq = [] →
      ((∀ d ∈ s.tape.sets, d.reissueDue = false) →
        (s.mot.quiet.isSome = true ∨ s.on F.FMT_TSTATUS_WRAP_END = true → exec .dataSetBegin s = .next s) ∧
        (s.mot.quiet = none → s.on F.FMT_TSTATUS_WRAP_END = false →
          ∀ d : DataSet, s.tape.sets.find? (fun d => d.closed && !d.begun) = some d → d.part = s.rd F.FMT_TSTATUS_PARTITION →
          ∃ t, exec .dataSetBegin s = .next t ∧
            t.tape.frames = s.tape.frames ++ setFrames d.part d.num 0 0 s.tape.slot [] ∧ t.tape.slot = s.tape.slot + 3 ∧
            (∀ e ∈ t.tape.onTape, ¬ (e.part = d.part ∧ e.num = d.num)) ∧
            ∃ e ∈ t.tape.sets, e.part = d.part ∧ e.num = d.num ∧ e.begun = true ∧ e.slot = s.tape.slot)) ∧
      (s.mot.quiet.isSome = true → ∀ d : DataSet, s.tape.sets.filter (fun e => e.reissueDue) = [d] → ∃ t,
        exec .dataSetBegin s = .next t ∧ t.tape.slot = s.tape.slot + 3 ∧ t.tape.frames = s.tape.frames ++
          setFrames d.part d.num (reissueCopy d.reissues) 3 s.tape.slot d.fails)) ∧
    (s.wra.squelchDue = true → ∃ t, exec .frameSlotStart s = .next t ∧ t.rd F.WRA_STATUS_TAPE_SQUELCH = 1 ∧
      Only [.wra, .regs 28] s t) ∧
    (s.wra.squelchDue = false →
      (∀ (f : List Copy) (rest : List (List Copy)) (n : Nat), s.mayWriteTape = true → s.tape.frames = f :: rest →
        n = s.tape.slot - s.tape.frames.length → ∃ t, exec .frameSlotStart s = .next t ∧ t.tape.frames = rest ∧
          t.tape.slot = s.tape.slot ∧ t.rd F.FMT_TSTATUS_WSTATE = 1 ∧ t.rd F.WRA_STATUS_TAPE_SQUELCH = 0 ∧
          t.tape.awaiting = s.tape.awaiting ++ f.filter (fun c => c.kind != 2) ∧
          (∃ r ∈ t.tape.written, r.slot = n ∧ r.copies = f ∧ r.pass = s.tape.writePass + b2n (!s.tape.session)) ∧
          ∀ c ∈ f, ∃ b, Emitted (.tapeFrame n c.track (s.skewOf c.track) b) s t) ∧
      (s.mayWriteTape = true → s.tapeWriting = true → s.tape.frames = [] → s.mot.quiet = none → ∃ t,
        exec .frameSlotStart s = .next t ∧ t.tape.slot = s.tape.slot + 1 ∧ t.tape.awaiting = s.tape.awaiting ∧
        ∀ k < 64, ∃ b, Emitted (.tapeFrame s.tape.slot k (s.skewOf k) b) s t) ∧
      (s.mayWriteTape = false → s.tMode = true → s.mot.moving = true → s.tapeWriting = true → ∃ t,
        exec .frameSlotStart s = .next t ∧ t.tape.slot = s.tape.slot + 1 ∧ t.tape.frames = s.tape.frames ∧
        Only [.tape] s t)) ∧
    (∀ (track : BitVec 6) (slot : BitVec 64),
      ((∀ c ∈ s.tape.awaiting, ¬ (c.track = track.toNat ∧ c.slot = slot.toNat)) →
        exec (.verifyDeadline track slot) s = .next s) ∧
      (∀ (l r : List Copy) (c : Copy), s.tape.awaiting = l ++ c :: r → c.track = track.toNat → c.slot = slot.toNat →
        (∀ x ∈ l ++ r, ¬ (x.track = track.toNat ∧ x.slot = slot.toNat)) → ∃ t,
        exec (.verifyDeadline track slot) s = .next t ∧ t.rd F.FMT_T_ERR_STATUS_DEADLINE = 1 ∧ c ∉ t.tape.awaiting ∧
        Store.get 0 t.tape.last16 c.track = (Store.get 0 s.tape.last16 c.track * 2 + 1) % 65536)) ∧
    (s.tapeWriting = false → exec .lateralWriteInhibit s = .next s) ∧
    (s.tapeWriting = true → fourWithin (s.tape.disturbs ++ [s.firstOpenSet]) = false → ∃ t,
      exec .lateralWriteInhibit s = .next t ∧ t.rd F.FMT_TSTATUS_WSTATE = 2 ∧ t.rd F.CTL_TM_STATUS_WRITE_INHIBIT = 1 ∧
      t.rd F.WRA_STATUS_TAPE_SQUELCH = 1 ∧ t.mot.repos = true ∧ t.mot.moving = false ∧ t.tape.frames = [] ∧
      t.tape.rwq = [] ∧ t.tape.slot = s.tape.slot - s.tape.frames.length + 8 ∧
      t.rd F.FMT_DISTURBS_COUNT = Nat.min (s.rd F.FMT_DISTURBS_COUNT + 1) (2 ^ 32 - 1) ∧
      t.rd F.FMT_T_ERR_STATUS_DISTURB = 1 ∧ Raised 7 0 0x101 (1 + s.firstOpenSet * 2 ^ 8) s t) ∧
    (s.mot.repos = true → s.mot.phase = .forward → s.mot.reacq = false → s.on F.CTL_TM_STATUS_SETTLED = true →
      s.rd F.FMT_TSTATUS_WSTATE = 2 → s.on F.PWR_STATUS_BRACE = false → ∃ t, exec .writeResumeSettled s = .next t ∧
      t.mot.repos = false ∧ t.rd F.FMT_TSTATUS_WSTATE = 1 ∧ t.rd F.CTL_TM_STATUS_WRITE_INHIBIT = 0 ∧
      t.rd F.WRA_STATUS_TAPE_SQUELCH = 0 ∧ t.rd F.CTL_TM_STATUS_MODE = 3 ∧ t.wra.squelchDue = false ∧
      Only [.mot, .wra, .regs 16, .regs 28, .regs 32] s t) ∧
    (∀ endLimit : Bool,
      (s.on F.FMT_TSTATUS_WRAP_END = false → exec (.wrapTurn endLimit) s = .next s) ∧
      (∀ (h : CartHeader) (w : Nat), s.tape.header = some h → w = s.rd F.FMT_TSTATUS_WRAP →
        s.on F.FMT_TSTATUS_WRAP_END = true → s.mot.moving = true →
        w < (if s.rd F.FMT_TSTATUS_PARTITION = 0 then 1 else h.wraps - 1) →
        (s.tape.frames = [] ∧ s.tape.awaiting = [] ∧ s.tape.rwq = [] ∧ ∀ d ∈ s.tape.sets, d.reissueDue = false) ∨
          endLimit = true → ∃ t, exec (.wrapTurn endLimit) s = .next t ∧ t.rd F.FMT_TSTATUS_WRAP = (w + 1) % 512 ∧
          t.rd F.FMT_TSTATUS_WRAP_END = 0 ∧ t.mot.turning = true ∧ t.mot.reverse = decide ((w + 1) % 2 = 1) ∧
          t.tape.frames = [] ∧ t.slotOn 4 = false ∧ t.rd F.CTL_TM_STATUS_SETTLED = 0 ∧
          t.tape.slot = s.tape.slot - s.tape.frames.length + s.turnSlots (s.rd F.CTL_TM_STATUS_STEP)))

/-- A step decision asks a grant for a higher step, changes to a lower one through the quiet point, and changes nothing while
the tape stands, changes or has dwelt less than 2 s. A drained quiet point begins the ramp, or stops the tape. Settled, the new
step is in force and F passes the gap. The hold stop asks for the quiet point, the restart for its grant. A servo frame sets
SERVO_VALID, the velocity and, when VALID, the lateral error; over the limit it stops writing; the eighth that is not VALID
calls for reacquisition. Each load stage leads to the next, without a header to UNFORMATTED, else to READY; a rewound stop
leaves the medium EMPTY. -/
def Obligations.TapeMotion : Prop :=
  ∀ s : State,
    (∀ x w : Nat, x = s.rd F.CTL_TM_STATUS_STEP → w = s.wantedStep → ∃ t, exec .stepDecision s = .next t ∧
      t.rd F.CTL_TM_STATUS_STEP = x ∧ t.tape.closedHist = (0 :: s.tape.closedHist).take 11 ∧
      (s.mot.moving = false ∨ s.mot.quiet.isSome = true ∨ s.mot.ramping = true ∨ w = x ∨ s.mot.sinceChange < 20 →
        t.asked 3 0 = false ∧ t.rd F.CTL_TM_STATUS_TARGET = s.rd F.CTL_TM_STATUS_TARGET ∧ t.mot.quiet = s.mot.quiet) ∧
      (s.mot.moving = true → s.mot.quiet = none → s.mot.ramping = false → 20 ≤ s.mot.sinceChange →
        (x < w → t.asked 3 0 = true ∧ t.rd F.CTL_TM_STATUS_TARGET = s.rd F.CTL_TM_STATUS_TARGET ∧ t.mot.quiet = none) ∧
        (w < x → t.asked 3 0 = false ∧ t.rd F.CTL_TM_STATUS_TARGET = (x - 1) % 16 ∧
          t.mot.quiet = (if s.tapeWriting then some (x - 1) else none)))) ∧
    (s.mot.quiet = none → exec .quietPointDrained s = .next s) ∧
    (∀ x, s.mot.quiet = some x → s.tape.frames = [] → s.tape.awaiting = [] → s.tape.rwq = [] →
      (∀ d ∈ s.tape.sets, d.reissueDue = false) → ∃ t, exec .quietPointDrained s = .next t ∧ t.mot.quiet = none ∧
      t.tape = s.tape ∧
      (x < 16 → t.mot.ramping = true ∧ t.mot.settled = 0 ∧ Store.get 0 t.wra.rates 4 = stepKbs x ∧
        (stepKbs x ≠ Store.get 0 s.wra.rates 4 → t.rd F.WRA_STATUS_TSYNTH_LOCK = 0)) ∧
      (16 ≤ x → t.rd F.FMT_TSTATUS_WSTATE = 0 ∧ t.mot.moving = false ∧ t.mot.stopped = true ∧ t.asked 2 2 = true)) ∧
    (∀ gap : BitVec 16,
      (s.mot.ramping = false ∨ s.mot.settled < 32 → exec (.speedSettled gap) s = .next s) ∧
      (∀ x o : Nat, x = s.rd F.CTL_TM_STATUS_TARGET → o = s.rd F.CTL_TM_STATUS_STEP → s.mot.ramping = true →
        32 ≤ s.mot.settled → ∃ t, exec (.speedSettled gap) s = .next t ∧ t.rd F.CTL_TM_STATUS_STEP = x % 16 ∧
        t.mot.ramping = false ∧ t.tape.slot = s.tape.slot + gap.toNat ∧
        (o ≠ x → t.rd F.CTL_TM_STEPCHG_COUNT = Nat.min (s.rd F.CTL_TM_STEPCHG_COUNT + 1) (2 ^ 32 - 1) ∧
          Raised 7 0 0x201 (x + o * 16) s t))) ∧
    (s.tapeWriting = true → s.mot.moving = true → s.tape.pending = 0 → s.tape.openOne = none → s.mot.quiet = none →
      s.mot.ramping = false → ∃ t, exec .tapeHoldStop s = .next t ∧ t.mot.quiet = some 16 ∧ t.mot.moving = true ∧
      Only [.mot] s t) ∧
    (s.mot.stopped = false → exec .tapeRestart s = .next s) ∧
    (s.mot.stopped = true → 0 < s.tape.pending ∨ s.tape.stopStage = 1 → ∃ t, exec .tapeRestart s = .next t ∧
      t.asked 2 1 = true ∧ t.mot.reading = false ∧ t.tape = s.tape) ∧
    (∀ (a b c d : ServoIn) (dt : Word) (bit : Bool),
      (s.tMode = false → exec (.servoFrameRecord a b c d dt bit) s = .next s) ∧
      (∀ st : Nat, s.tMode = true →
        st = frameStatus (s.servoStatus 64 a) (s.servoStatus 65 b) (s.servoStatus 66 c) (s.servoStatus 67 d) → ∃ t,
        exec (.servoFrameRecord a b c d dt bit) s = .next t ∧ t.rd F.CTL_TM_STATUS_SERVO_VALID = b2n (st = 0) ∧
        t.mot.vel = servoVel dt.toNat ∧ t.mot.nonValid = (if st = 0 then 0 else s.mot.nonValid + 1) ∧
        t.rdi F.LANE_STATUS_SERVO_VALID 64 = b2n (s.servoStatus 64 a = 0) ∧
        t.rdi F.LANE_STATUS_SERVO_VALID 67 = b2n (s.servoStatus 67 d = 0) ∧
        (st = 0 → ∀ e : Int, e = meanValid [(s.servoStatus 64 a, toSigned 16 a.error.toNat),
            (s.servoStatus 65 b, toSigned 16 b.error.toNat), (s.servoStatus 66 c, toSigned 16 c.error.toNat),
            (s.servoStatus 67 d, toSigned 16 d.error.toNat)] → t.mot.lateral = e ∧
          (s.rd F.CTL_TM_LIMIT_WI_NM < e.natAbs → t.rd F.CTL_TM_STATUS_WRITE_INHIBIT = 1 ∧ t.tapeWriting = false)) ∧
        (st ≠ 0 → s.mot.nonValid = 7 → s.tapeActive = true → s.mot.moving = true → s.mot.reacq = false →
          s.tape.header = none → t.mot.reacq = true ∧ bitAt (t.rd F.CTL_TM_FAULT_CAUSE) 0 = true))) ∧
    (s.medium.state = mStarting → s.medium.func = 1 → s.tMode = true → s.medium.stopAfter = false →
      (s.mot.loadStage = 1 → ∃ t, exec .loadStageDone s = .next t ∧ t.mot.loadStage = 2 ∧ t.mot.seated = true ∧
        t.rd F.CTL_TM_STATUS_MODE = 1) ∧
      (s.mot.loadStage = 2 → ∃ t, exec .loadStageDone s = .next t ∧ t.mot.loadStage = 3 ∧ t.mot.threaded = true ∧
        t.rd F.CTL_TM_STATUS_MODE = 2) ∧
      (s.mot.loadStage = 3 → ∃ t, exec .loadStageDone s = .next t ∧ t.mot.loadStage = 4 ∧ t.rd F.CTL_TM_STATUS_MODE = 3 ∧
        t.rd F.CTL_TM_STATUS_STEP = 0 ∧ t.rd F.FMT_TSTATUS_WRAP = 0 ∧ t.rd F.FMT_TSTATUS_PARTITION = 0) ∧
      (s.mot.loadStage = 4 → s.on F.CTL_TM_STATUS_SERVO_VALID = true → s.mot.lposKnown = true → ∃ t,
        exec .loadStageDone s = .next t ∧ t.mot.loadStage = 5) ∧
      (s.mot.loadStage = 5 → (s.tape.header.isSome = true → ∃ t, exec .loadStageDone s = .next t ∧ t.mot.loadStage = 6) ∧
        (s.tape.header = none → ∃ t, exec .loadStageDone s = .next t ∧ t.medium.state = mUnformatted ∧
          t.medium.func = 0)) ∧
      (s.mot.loadStage = 6 → ∃ t, exec .loadStageDone s = .next t ∧ t.medium.state = mReady ∧ t.medium.func = 0 ∧
        t.rd F.FMT_TSTATUS_PARTITION = 1 ∧ t.rd F.CTL_TM_STATUS_MODE = 2)) ∧
    (s.tMode = true → s.medium.state = mStopping → s.medium.func = 2 → s.tape.stopStage = 3 → ∃ t,
      exec .unloadDone s = .next t ∧ t.medium.state = mEmpty ∧ t.medium.func = 0 ∧ t.tape.sets = [] ∧
      t.tape.session = false ∧ t.rd F.CTL_TM_STATUS_MODE = 0 ∧ t.rd F.FMT_TSTATUS_WSTATE = 0 ∧
      t.rd F.WRA_STATUS_TAPE_SQUELCH = 1 ∧
      (s.host.evtFifo.length < 4095 → ∃ e ∈ t.host.evtFifo, e.type = 7 ∧ e.code = 0x206))

/-- A velocity following error stops the moving tape for reacquisition, cause bit 1. A tension error, a collapse while the tape
moves and a thread timeout leave the medium FAULTED with cause bits 2, 3 and 6, in mode HOLD, OFF and OFF; while nothing is
written the fault is reported in event 0x204 with its row and LPOS. An attempt at reacquisition that succeeds, 32 VALID frames
while running forward, ends it with event 0x203; one that fails takes a further attempt, a reverse of 320 servo frames, and the
third leaves the medium FAULTED. -/
def Obligations.TapeFaults : Prop :=
  ∀ s : State,
    (s.tapeActive = true → s.mot.moving = true → s.mot.reacq = false → ∃ t,
      exec .velocityFollowingError s = .next t ∧ t.mot.reacq = true ∧ t.mot.reacqTries = 0 ∧
      bitAt (t.rd F.CTL_TM_FAULT_CAUSE) 1 = true ∧ t.medium.state = s.medium.state ∧
      (s.tapeWriting = false → Raised 7 0 0x204 (2 + s.rd F.CTL_TM_LPOS_LPOS * 2 ^ 32) s t)) ∧
    (s.tapeActive = false → exec .velocityFollowingError s = .next s ∧ exec .tensionError s = .next s ∧
      exec .tensionCollapse s = .next s) ∧
    (∀ (c : Instr) (row : Nat), (c, row) ∈ [(Instr.tensionError, 3), (.tensionCollapse, 4), (.threadTimeout, 7)] →
      (row ≠ 7 → s.tapeActive = true) → (row = 4 → s.mot.moving = true) →
      (row = 7 → s.tMode = true ∧ s.rd F.CTL_TM_STATUS_MODE = 1) → ∃ t, exec c s = .next t ∧ t.medium.state = mFaulted ∧
      bitAt (t.rd F.CTL_TM_FAULT_CAUSE) (row - 1) = true ∧ t.rd F.CTL_TM_STATUS_MODE = (if row = 3 then 2 else 0) ∧
      t.mot.moving = false ∧ t.mot.collapsed = decide (row = 4) ∧ (row = 4 → t.mot.tension = 0 ∧ t.slotOn 0 = false ∧
        t.slotOn 1 = false) ∧ t.tape.sets = [] ∧
      (s.tapeWriting = false → s.host.evtFifo.length < 4095 → ∃ e ∈ t.host.evtFifo, e.type = 7 ∧ e.code = 0x204 ∧
        e.arg = row + s.rd F.CTL_TM_LPOS_LPOS * 2 ^ 32)) ∧
    (∀ success : Bool,
      (s.mot.reacq = false → exec (.reacquisitionDone success) s = .next s) ∧
      (∀ n : Nat, n = s.mot.reacqTries + 1 → s.mot.reacq = true →
        (success = true → s.mot.phase = .forward → 32 ≤ s.mot.validRun → ∃ t,
          exec (.reacquisitionDone success) s = .next t ∧ t.mot.reacq = false ∧ t.mot.nonValid = 0 ∧
          (s.mot.repos = false → t.mot.stopped = true ∧ t.asked 2 2 = true) ∧
          Raised 7 0 0x203 (n + 256 + s.rd F.CTL_TM_LPOS_LPOS * 2 ^ 32) s t) ∧
        (success = false ∨ s.mot.phase ≠ .forward ∨ s.mot.validRun < 32 →
          (n < 3 → ∃ t, exec (.reacquisitionDone success) s = .next t ∧ t.mot.reacq = true ∧ t.mot.reacqTries = n ∧
            t.mot.phase = .reverse ∧ t.mot.phaseFrames = 320 ∧ t.rd F.CTL_TM_STATUS_MODE = 4) ∧
          (3 ≤ n → ∃ t, exec (.reacquisitionDone success) s = .next t ∧ t.mot.reacq = false ∧
            t.medium.state = mFaulted ∧ t.rd F.CTL_TM_STATUS_MODE = 2))))

/-- In solo a landing copy that is laid down counts as written; after its first write fault on a surface with room it is laid
there again, and the fault is counted. In a group the copy held for the lead counts as written. A command that waited for
landing space lays both copies when both surfaces have room, and ends with MEDIA_FULL when no surface can ever take one.
Destage lays the front of its queue on the zone of the surface up to the track's end; with no zone to fill anywhere every
cleaning stops and its zone is FULL again. A zone that is cleaned, without live data and without an older GET, becomes EMPTY,
or OFFLINE when retired, with its next LIFE, and its ZONE_CLEAN completes. The zone table records the zones under its next
ZT_SEQ. -/
def Obligations.DiskPlaces : Prop :=
  ∀ s : State,
    (∀ (src : Src) (c : Cmd), s.cmdOf src = some c →
      (∀ surface : BitVec 5, s.inGroup = false → c.stage = .started →
        (∃ l ∈ c.copies, l.place = surface.toNat ∧ l.written = false) →
        (∃ t, exec (.landingCopyWritten src surface 0#3) s = .next t ∧ t.cmdOf src = some { c with
          copies := c.copies.map (fun l => if l.place = surface.toNat then { l with written := true } else l) }) ∧
        (∀ fault : BitVec 3, fault ≠ 0#3 → ∃ t, exec (.landingCopyWritten src surface fault) s = .next t ∧
          t.disk.copyFaults = s.disk.copyFaults ++ [(c.uid, surface.toNat)] ∧
          t.rd F.FMT_WFAULTS_COUNT = Nat.min (s.rd F.FMT_WFAULTS_COUNT + 1) (2 ^ 32 - 1) ∧
          t.rd F.FMT_D_ERR_STATUS_WRITE_FAULT = 1 ∧
          (∀ (h : Nat) (r : Ring), h = surface.toNat → r = (s.ring h).release (fun p => p.uid = c.uid) →
            (s.sq.cmds.map Cmd.uid).Nodup → s.surfOk h = true → c.units.length ≤ r.free → s.faultsOn c.uid h = 0 →
            (∀ g, g ≠ h → s.faultsOn c.uid g ≠ 1) → (c.copies.filter (fun l => l.place != h)).length = 1 →
            ∃ d, t.cmdOf src = some d ∧ d.copies = c.copies.filter (fun l => l.place != h) ++
              [{ place := h, pos := r.next, len := c.units.length, written := false }]))) ∧
      (c.waits ≠ 2 → exec (.landingSpaceFreed src) s = .next s) ∧
      (c.waits = 2 → c.copies = [] →
        (∀ h g n : Nat, n = c.units.length → s.cmdByUid c.uid = some c → s.pickSurface c.uid [] n = some h →
          s.pickSurface c.uid [h] n = some g → n ≤ (s.ring h).free → n ≤ (s.ring g).free → ∃ t d,
          exec (.landingSpaceFreed src) s = .next t ∧ t.cmdOf src = some d ∧ d.waits = 0 ∧ d.copies =
            [{ place := h, pos := (s.ring h).next, len := n, written := false },
             { place := g, pos := (s.ring g).next, len := n, written := false }]) ∧
        (s.pickSurface c.uid [] c.units.length = none → RoomFor c s → ∃ t,
          exec (.landingSpaceFreed src) s = .next t ∧ Completed c stMediaFull 0 0 false s t))) ∧
    (∀ (src : Src) (surface : BitVec 5) (c : RemoteCopy), s.inGroup = true →
      s.red.remote.find? (fun c => c.stream = src.stream && c.surface = some surface.toNat && !c.written) = some c →
      ∃ t, exec (.landingCopyWritten src surface 0#3) s = .next t ∧
        ∃ d ∈ t.red.remote, d.stream = c.stream ∧ d.seq = c.seq ∧ d.written = true) ∧
    (∀ (surface : BitVec 5) (h : Nat), h = surface.toNat → s.dMode = true →
      s.medium.state = mReady ∨ s.medium.state = mStopping → s.surfOk h = true → s.paused = false → s.disk.destage ≠ [] →
      (∀ z k a n : Nat, s.fillZone h = some z → (k, a) = s.openTrack h (s.zone z) →
        n = s.trackLen h ((s.zone z).track + k) →
        (∀ written : BitVec 12, ∃ t w left, exec (.destageTrackWritten surface 0#3 written) s = .next t ∧
          (w, left) = layZone (a + n - (s.zone z).wp) (s.zone z) s.disk.destage ∧ left <+: t.disk.destage ∧
          (t.zone z).wp = w.wp ∧ (t.zone z).content = w.content) ∧
        (∀ (fault : BitVec 3) (written : BitVec 12), fault ≠ 0#3 → ∃ t w left,
          exec (.destageTrackWritten surface fault written) s = .next t ∧
          (w, left) = layZone (Nat.min (a + n - (s.zone z).wp) written.toNat) (s.zone z) s.disk.destage ∧
          left <+: t.disk.destage ∧ (t.zone z).wp = Nat.min (s.zone z).extent (a + n) ∧ (t.zone z).content = w.content ∧
          t.rd F.FMT_WFAULTS_COUNT = Nat.min (s.rd F.FMT_WFAULTS_COUNT + 1) (2 ^ 32 - 1))) ∧
      (∀ (fault : BitVec 3) (written : BitVec 12), s.fillZone h = none → s.anySpace = false → ∃ t,
        exec (.destageTrackWritten surface fault written) s = .next t ∧ t.disk.cleaning = [] ∧
        ∀ e ∈ s.disk.cleaning, (t.zone e.zone).state = zFull)) ∧
    (∀ (zone : BitVec 20) (e : Clean) (z : Nat) (v : Zone), z = zone.toNat → v = s.zone z →
      s.disk.cleaning.find? (fun e => e.zone = z) = some e →
      (s.medium.state ≠ mReady ∨ s.liveIn z ≠ [] → exec (.zoneReset zone) s = .next s) ∧
      (s.medium.state = mReady → s.liveIn z = [] →
        (∀ c ∈ s.sq.cmds, c.frame.opcode = 0x10 → c.stage.isAdmitted = true → e.lastMove ≤ c.admitNo) → ∃ u : State,
        exec (.zoneReset zone) s = .next u.zoneChanged ∧ u.zone z = { v with
          state := if v.retire then zOffline else zEmpty
          wp := 0, life := (v.life + 1) % 256, content := [], tracks := [], readBack := 0 } ∧
        u.rd F.FMT_ZONES_CLEANED_COUNT = Nat.min (s.rd F.FMT_ZONES_CLEANED_COUNT + 1) (2 ^ 32 - 1) ∧
        (∀ c, s.cleanCmds z = [c] → RoomFor c s →
          (v.retire = false → Completed c stSuccess e.relocated 0 false s u) ∧
          (v.retire = true → Completed c stStateConflict 0x0D (4 * 256 + zOffline) false s u)))) ∧
    (s.dMode = true → s.medium.state = mReady → s.disk.formatted = true → ∃ t, exec .zoneTablePeriodic s = .next t ∧
      t.disk.ztSeq = s.disk.ztSeq + 1 ∧
      t.disk.ztZones = s.disk.zones.map (fun p => (p.1, (p.2.written, p.2.life, p.2.state))) ∧ Only [.disk] s t) ∧
    (s.dMode = false ∨ s.medium.state ≠ mReady ∨ s.disk.formatted = false → exec .zoneTablePeriodic s = .next s)

/-- A codeword whose mark is found and whose ring has room joins the end of the waiting list in its class; a verify
codeword without its mark fails. A channel that may not deliver the head leaves the state as it is, as does every disk
channel when too few cells are active for one to read. A sector that fails framing waits at ladder step 4; a re-read
that frames is queued again. A tape re-read records what is still missing, or ends the reads of the set. A free cell
runs its first-due self-check, else the codeword to restart, else VERIFY by deadline, else its due self-check, else
the next class. A cell whose checks disagree or whose parity fails is retired and the lowest spare takes its codeword;
a good, a failed and a miscorrected codeword free the cell and are counted; for VERIFY the decision needs identity,
margin and time. A wedge of the servo head sets SERVO_VALID and leaves the record for the slots. -/
def Obligations.Codewords : Prop :=
  ∀ s : State,
    (∀ (lane : BitVec 7) (target : CwTarget) (use : CwUse) (marks : MarkScan) (run : LaneRun) (asperity : Bool)
        (now : BitVec 64) (n : Nat), n = lane.toNat →
      (s.targetOf n target = none → exec (.codewordComplete lane target use marks run asperity now) s = .next s) ∧
      (∀ t : Target, s.targetOf n target = some t → s.headBarred n t = true →
        exec (.codewordComplete lane target use marks run asperity now) s = .next s) ∧
      (68 ≤ n → s.readAllowance = 0 → exec (.codewordComplete lane target use marks run asperity now) s = .next s) ∧
      (∀ t : Target, s.targetOf n target = some t → s.headBarred n t = false →
        (s.lane n).ring + sampleBytes n ≤ ringBytes n →
        (if n < 64 then s.tapeMark marks ≠ .neither else (s.diskMarks 1 marks).frame 0 = some 0) → ∃ u j,
          exec (.codewordComplete lane target use marks run asperity now) s = .next u ∧
          u.det.waiting = s.det.waiting ++ [j] ∧ j.id = s.det.nextJob ∧ j.lane = n ∧ j.cls = classOf t use ∧
          j.target = t ∧ j.since = now.toNat ∧ j.delta = 0 ∧ u.det.nextJob = s.det.nextJob + 1) ∧
      (∀ c : Copy, s.targetOf n target = some (.verify c) → s.headBarred n (.verify c) = false →
        n < 64 → s.tapeMark marks = .neither → ∃ u,
        exec (.codewordComplete lane target use marks run asperity now) s = .next u ∧
        (∀ j ∈ u.det.waiting, j ∈ s.det.waiting) ∧ u.rdi F.LANE_SYNC_MISS_COUNT n = Nat.min (s.rdi F.LANE_SYNC_MISS_COUNT n + 1) (2 ^ 32 - 1) ∧
        Store.get 0 u.tape.last16 c.track = (Store.get 0 s.tape.last16 c.track * 2 + 1) % 65536) ∧
      (∀ h pos : Nat, s.targetOf n target = some (.landing h pos) → s.headBarred n (.landing h pos) = false →
        (s.lane n).ring + sampleBytes n ≤ ringBytes n → (s.diskMarks 1 marks).frame 0 = none →
        4 ≤ s.rd F.LANE_RETRY_CFG_LAST_STEP → ∃ u j,
        exec (.codewordComplete lane target use marks run asperity now) s = .next u ∧
        u.det.ladders = s.det.ladders ++ [j] ∧ j.target = .landing h pos ∧ j.step = 4 ∧ j.cls = .retry)) ∧
    (∀ (target : CwTarget) (run : LaneRun) (marks : MarkScan) (now : BitVec 64),
      (s.targetOf 68 target = none → exec (.retryRereadDone target run marks now) s = .next s) ∧
      (∀ (t : Target) (j : Job), s.targetOf 68 target = some t → s.det.ladders.find? (fun j => j.target = t) = some j →
        (s.lane j.lane).ring + sampleBytes j.lane ≤ ringBytes j.lane →
        (s.diskMarks (if j.step = 14 then 4 else 1) marks).frame j.step = some 0 → ∃ u d,
        exec (.retryRereadDone target run marks now) s = .next u ∧
        u.det.waiting = s.det.waiting ++ [{ j with since := now.toNat, spilled := false, drop := d }] ∧
        u.det.ladders = s.det.ladders.filter (fun k => k.id != j.id))) ∧
    (∀ (part : Bool) (ds : BitVec 32) (good : BitVec 192) (k : Nat), k = ds.toNat + b2n part * 2 ^ 32 →
      ((∀ r ∈ s.tape.rereads, r.1 ≠ k) → exec (.tapeRereadDone part ds good) s = .next s) ∧
      (∀ (n m g : Nat), s.tape.rereads.find? (fun r => r.1 = k) = some (k, n, m) → 16 < popCount 192 m →
        g = Nat.lor (Store.get 0 s.tape.readGood k) good.toNat →
        ∀ left, left = (onesOf 192 m).foldl (fun a i => if bitAt good.toNat i then a else setBit a i) 0 →
        (popCount 192 (Nat.lor left g) ≠ 192 → ∃ u, exec (.tapeRereadDone part ds good) s = .next u ∧
          u.tape.rereads = s.tape.rereads.filter (fun e => e.1 != k) ++ [(k, n + 1, left)] ∧
          Store.get 0 u.tape.readGood k = g) ∧
        (popCount 192 (Nat.lor left g) = 192 → popCount 192 left ≤ 16 ∨ s.rd F.LANE_RETRY_CFG_TREAD ≤ n + 1 → ∃ u,
          exec (.tapeRereadDone part ds good) s = .next u ∧ (∀ r ∈ u.tape.rereads, r.1 ≠ k) ∧ k ∈ u.tape.readAhead))) ∧
    (∀ (cell : BitVec 5) (c : Nat), c = cell.toNat →
      (∀ (now : BitVec 64) (poison : Bool),
        (s.cellOn c = false ∨ (s.cell c).job.isSome = true ∨ (s.cell c).kat = true →
          exec (.cellFreeDispatch cell now poison) s = .next s) ∧
        (s.cellOn c = true → (s.cell c).job = none → (s.cell c).kat = false →
          (∀ j ∈ s.det.waiting ++ s.det.restart, j.cls = .verify → now.toNat ≤ j.since + 400) →
          ((s.cell c).katFirst = true → ∃ u, exec (.cellFreeDispatch cell now poison) s = .next u ∧
            (u.cell c).kat = true ∧ (u.cell c).job = none ∧ u.det.restart = s.det.restart) ∧
          ((s.cell c).katFirst = false → ∀ k, s.freeCell = some k →
            (∀ (j : Job) (rest : List Job), s.det.restart = j :: rest → poison = false ∨ j.spilled = false → ∃ u i,
              exec (.cellFreeDispatch cell now poison) s = .next u ∧ (u.cell k).job = some i ∧ i.id = j.id ∧
              i.target = j.target ∧ ∀ x ∈ u.det.restart ++ u.det.waiting, x.id ≠ j.id) ∧
            (∀ j : Job, s.det.restart = [] → earliest s.det.waiting = some j → poison = false ∨ j.spilled = false →
              ∃ u i, exec (.cellFreeDispatch cell now poison) s = .next u ∧ (u.cell k).job = some i ∧ i.id = j.id ∧
              i.target = j.target ∧ (u.cell k).limit = 3 ∧ ∀ x ∈ u.det.waiting, x.id ≠ j.id) ∧
            (s.det.restart = [] → earliest s.det.waiting = none → (s.cell c).katDue = true → ∃ u,
              exec (.cellFreeDispatch cell now poison) s = .next u ∧ (u.cell c).kat = true ∧ (u.cell c).job = none) ∧
            (∀ j : Job, s.det.restart = [] → earliest s.det.waiting = none → (s.cell c).katDue = false →
              (∀ x ∈ s.det.waiting, now.toNat - x.since < s.rd F.DET_CFG_AGE_US) → s.nextOther = some j →
              poison = false ∨ j.spilled = false → ∃ u i, exec (.cellFreeDispatch cell now poison) s = .next u ∧
              (u.cell k).job = some i ∧ i.id = j.id ∧ i.target = j.target ∧ ∀ x ∈ u.det.waiting, x.id ≠ j.id)))) ∧
      (s.cellOn c = true → ∃ u, exec (.cellSelfCheckDue cell) s = .next u ∧ (u.cell c).katDue = true ∧
        (u.cell c).job = (s.cell c).job ∧ Only [.det] s u) ∧
      (s.cellOn c = false → exec (.cellSelfCheckDue cell) s = .next s) ∧
      (∀ now : BitVec 64,
        ((s.cell c).job = none → (s.cell c).kat = true → ∃ u,
          exec (.cellCodewordEnd cell now (.selfCheck true)) s = .next u ∧ (u.cell c).kat = false ∧
          (u.cell c).katDue = false ∧ (u.cell c).sinceKat = 0 ∧ Only [.det] s u) ∧
        (∀ (j : Job) (res : CellRes), (s.cell c).job = some j → j.probing = false → c < 26 → s.cellOn c = true →
          (res = .parity ∨ ∃ tag ident w0 iters, res = .decode true false tag ident w0 iters) → ∃ u,
          exec (.cellCodewordEnd cell now res) s = .next u ∧ u.cellOn c = false ∧
          bitAt (u.rd F.DET_CELL_RETIRED_RETIRED) c = true ∧ bitAt u.det.retiredRec c = true ∧
          (∀ (sp : Nat) (l : List Nat), s.spareCells = sp :: l → u.cellOn sp = true ∧ (u.cell sp).job = some j) ∧
          (s.spareCells = [] → u.det.restart = s.det.restart ++ [j] ∧ u.rd F.DET_ERR_STATUS_SPARES_OUT = 1)) ∧
        (∀ (j : Job) (w : List (BitVec 12)) (cs : List (Int × Int)), (s.cell c).job = some j → j.probing = true →
          cs = rankCands (s.rd F.LANE_RETRY_CFG_LADDER_DECODES) (w.map (fun x => x.toNat)) j.cands → ∃ u,
          exec (.cellCodewordEnd cell now (.probes w)) s = .next u ∧ (u.cell c).job = none ∧
          u.det.waiting = s.det.waiting ++ [{ j with cands := cs, probing := false, promoted := false }]) ∧
        (∀ (j : Job) (conv syn tag : Bool) (ident : CwIdent) (w0 : BitVec 12) (iters : BitVec 6),
          (s.cell c).job = some j → j.probing = false → (conv = true → syn = true) → ∃ u,
          exec (.cellCodewordEnd cell now (.decode conv syn tag ident w0 iters)) s = .next u ∧ (u.cell c).job = none ∧
          ((conv && tag) = true → u.rd F.DET_CW_GOOD_LO_COUNT = (s.rd F.DET_CW_GOOD_LO_COUNT + 1) % 2 ^ 32 ∧
            ∀ k : Copy, j.target = .verify k → j.cls = .verify → k ∈ s.tape.awaiting →
              Store.get 0 u.tape.last16 k.track = (Store.get 0 s.tape.last16 k.track * 2 +
                b2n (!(s.identityOk (.verify k) ident &&
                  decide (s.rd F.FMT_RWW_MARGIN_THRESHOLD ≤ marginOf w0.toNat) &&
                  decide (now.toNat ≤ j.since + 400)))) % 65536) ∧
          ((conv && tag) = false →
            u.rd F.DET_CW_FAIL_COUNT = Nat.min (s.rd F.DET_CW_FAIL_COUNT + 1) (2 ^ 32 - 1) ∧
            (conv = true → u.rd F.DET_MISCORR_COUNT = Nat.min (s.rd F.DET_MISCORR_COUNT + 1) (2 ^ 32 - 1) ∧
              u.rd F.DET_ERR_STATUS_MISCORRECT = 1 ∧ (u.cell c).katFirst = true))))) ∧
    (∀ (lane : BitVec 7) (found half vga : Bool) (sums : List (BitVec 16)) (nominal : BitVec 18) (index : BitVec 10)
        (track : BitVec 24) (pes : BitVec 16) (sam : Word) (now : BitVec 64),
      (servoLane lane.toNat = none →
        exec (.wedgeRecord lane found half vga sums nominal index track pes sam now) s = .next s) ∧
      (∀ a st : Nat, servoLane lane.toNat = some a → s.dMode = true → bitAt (s.rd F.CTL_DK_STATUS_RETRACTED) a = false →
        st = s.wedgeStatus (s.lane lane.toNat) a found half vga ((sums.take 4).map BitVec.toNat) nominal.toNat index.toNat
          track.toNat → ∃ u,
        exec (.wedgeRecord lane found half vga sums nominal index track pes sam now) s = .next u ∧
        u.rdi F.LANE_STATUS_SERVO_VALID lane.toNat = b2n (st = 0) ∧
        (u.act a).validRun = (if st = 0 then (s.act a).validRun + 1 else 0) ∧
        (st = 0 → (u.act a).track = track.toNat ∧ (u.act a).pes = toSigned 16 pes.toNat) ∧
        (st ≠ 0 → bitAt (u.rd F.CTL_DK_STATUS_PERMIT) a = false) ∧
        (u.act a).wrec = some { status := st, track := track.toNat, pes := toSigned 16 pes.toNat, sam := sam.toNat,
                                time := now.toNat, taken := 0 }))

/-- A response with a bad CRC repeats the last frame, then resets the bus, then fails it. A clean status ends the hold on
writing; an open or short head fails, an assist flag is counted. A fault line that falls releases the gates, holds writing off
and reads the status; its release reads it again. Without the permit a field's writes stop; a write that lacks only its grant
asks for it; one that may go on asserts the gates and its channel records the field's bits. The end of a field releases the
gates. The assist loop moves the level by the error and sends it, and records the converged one. A synthesizer that loses lock
while it writes ends the write; locked again it has the rate of its band. -/
def Obligations.WriteAssist : Prop :=
  ∀ s : State,
    (∀ (act : Bool) (a : Nat), a = b2n act →
      (∀ (frame : BitVec 32) (f h d : Nat), f = frame.toNat → h = s.headAt a (bits f 24 4) → d = bits f 8 15 →
        (s.dMode = false → exec (.pacResponse act frame) s = .next s) ∧
        (s.dMode = true → frameOk f = false → (s.actWra a).allOpen = false →
          ((s.actWra a).repeats < s.rd F.WRA_D_CFG_PAC_RETRY → ∃ t, exec (.pacResponse act frame) s = .next t ∧
            (t.actWra a).repeats = (s.actWra a).repeats + 1 ∧ t.out = .pac a (s.actWra a).lastFrame :: s.out ∧
            Only [.out, .wra] s t) ∧
          (s.rd F.WRA_D_CFG_PAC_RETRY ≤ (s.actWra a).repeats → (s.actWra a).resets < 3 → ∃ t,
            exec (.pacResponse act frame) s = .next t ∧ (t.actWra a).repeats = 0 ∧
            (t.actWra a).resets = (s.actWra a).resets + 1 ∧ Emitted (.pac a (pacFrame 0xF 15 0 0)) s t ∧
            bitAt (t.rd F.WRA_STATUS_WG) a = false ∧ bitAt (t.rd F.WRA_STATUS_AG) a = false) ∧
          (s.rd F.WRA_D_CFG_PAC_RETRY ≤ (s.actWra a).repeats → 3 ≤ (s.actWra a).resets → ∃ t,
            exec (.pacResponse act frame) s = .next t ∧ (t.actWra a).allOpen = true ∧
            t.rd F.WRA_ERR_STATUS_PAC_BUS = 1)) ∧
        (s.dMode = true → frameOk f = true → f / 2 ^ 28 ≠ 8 → ∃ t, exec (.pacResponse act frame) s = .next t ∧
          (t.actWra a).repeats = 0 ∧ Only [.wra] s t) ∧
        (s.dMode = true → frameOk f = true → f / 2 ^ 28 = 8 → bitAt d 7 = false →
          (bits d 0 7 = 0 → bitAt (s.rd F.WRA_STATUS_FLT) a = false → ∃ t, exec (.pacResponse act frame) s = .next t ∧
            t.rd (if act then F.WRA_PAC_STATUS_ACT1 else F.WRA_PAC_STATUS_ACT0) = d ∧ (t.actWra a).barred = false ∧
            (t.actWra a).wantStatus = false ∧ (t.actWra a).resets = 0 ∧
            ((s.actWra a).wantStatus = true → Emitted (.pac a (pacFrame 0xA 15 0 0)) s t ∧
              Raised 7 (if bits f 24 4 = 15 then 0 else h) 0x401 (a + d * 2 ^ 16) s t)) ∧
          ((bitAt d 1 || bitAt d 2) = true → h < s.disk.heads → h < 24 → s.headOk h = true → ∃ t,
            exec (.pacResponse act frame) s = .next t ∧ bitAt (t.rd F.FMT_HEAD_FAILED_HEADS) h = true) ∧
          ((bitAt d 1 || bitAt d 2) = false → (bitAt d 4 || bitAt d 5) = true → ∃ t,
            exec (.pacResponse act frame) s = .next t ∧ t.rd F.WRA_ERR_STATUS_ASSIST_FAULT = 1 ∧
            t.rd F.WRA_FAULTS_ASSIST = Nat.min (s.rd F.WRA_FAULTS_ASSIST + 1) (2 ^ 16 - 1)))) ∧
      (s.dMode = true → bitAt (s.rd F.WRA_STATUS_FLT) a = false → ∃ t, exec (.pacFaultFall act) s = .next t ∧
        bitAt (t.rd F.WRA_STATUS_FLT) a = true ∧ bitAt (t.rd F.WRA_STATUS_WG) a = false ∧
        bitAt (t.rd F.WRA_STATUS_AG) a = false ∧ (t.actWra a).barred = true ∧ (t.actWra a).wantStatus = true ∧
        (t.actWra a).field = none ∧ (∀ c ∈ chansOf a, (t.chan c).writing = false) ∧
        t.rd F.WRA_FAULTS_PREAMP = Nat.min (s.rd F.WRA_FAULTS_PREAMP + 1) (2 ^ 16 - 1) ∧
        t.rd F.WRA_ERR_STATUS_PREAMP_FAULT = 1 ∧
        t.out = .pac a (pacFrame 0 0 0 0) :: .pac a (pacFrame 8 15 0 0) :: s.out) ∧
      (s.dMode = false ∨ bitAt (s.rd F.WRA_STATUS_FLT) a = true → exec (.pacFaultFall act) s = .next s) ∧
      (s.dMode = true → bitAt (s.rd F.WRA_STATUS_FLT) a = true → ∃ t, exec (.pacFaultRelease act) s = .next t ∧
        bitAt (t.rd F.WRA_STATUS_FLT) a = false ∧ (t.actWra a).barred = (s.actWra a).barred ∧
        t.out = .pac a (pacFrame 0 0 0 0) :: .pac a (pacFrame 8 15 0 0) :: s.out) ∧
      (s.dMode = false ∨ bitAt (s.rd F.WRA_STATUS_FLT) a = false → exec (.pacFaultRelease act) s = .next s) ∧
      (∀ (field : BitVec 10) (w0 w1 : Option FieldWrite), s.dMode = true →
        s.medium.state = mReady ∨ s.medium.state = mStopping → w0.isSome = true ∨ w1.isSome = true → field.toNat < 640 →
        (s.actWra a).field = none → s.on F.PWR_STATUS_BRACE = false →
        (bitAt (s.rd F.WRA_STATUS_FLT) a = true ∨ (s.actWra a).barred = true ∨
            bitAt (s.rd F.CTL_DK_STATUS_PERMIT) a = false → ∃ t, exec (.fieldWriteStart act field w0 w1) s = .next t ∧
          t.out = s.out ∧ (∀ c ∈ chansOf a, (t.chan c).writing = false ∧ bitAt (t.rd F.WRA_STATUS_CH_ARMED) c = false) ∧
          bitAt (t.rd F.WRA_STATUS_WG) a = false) ∧
        (bitAt (s.rd F.WRA_STATUS_FLT) a = false → (s.actWra a).barred = false →
          bitAt (s.rd F.CTL_DK_STATUS_PERMIT) a = true → ∀ (w : FieldWrite) (c : Nat),
          (c = 2 * a ∧ w0 = some w ∧ w1 = none) ∨ (c = 2 * a + 1 ∧ w0 = none ∧ w1 = some w) →
          (s.mayWriteChan a c w = true → ∃ t, exec (.fieldWriteStart act field w0 w1) s = .next t ∧
            (t.chan c).writing = true ∧ (t.chan c).head = w.head.toNat ∧ (t.chan c).granted = false ∧
            (t.actWra a).field = some field.toNat ∧ bitAt (t.rd F.WRA_STATUS_AG) a = true ∧
            bitAt (t.rd F.WRA_STATUS_WG) a = true ∧
            (w.start = true → bitAt (t.rd F.WRA_STATUS_CH_ARMED) c = true) ∧
            ∀ b, b = s.channelBits field.toNat w →
              Emitted (.diskField c field.toNat (s.rdi F.WRA_DW_PRECOMP_PRECOMP c) (delayedAt 2 b) b) s t) ∧
          (s.mayWriteChan a c w = false → w.start = true → s.surfOk w.head.toNat = true → (s.chan c).writing = false →
            ∃ t, exec (.fieldWriteStart act field w0 w1) s = .next t ∧ t.asked 0 (c + 4 * w.head.toNat) = true ∧
            t.out = s.out ∧ t.wra = s.wra))) ∧
      ((s.actWra a).field = none → exec (.fieldWriteEnd act) s = .next s) ∧
      ((s.actWra a).field ≠ none → ∃ t, exec (.fieldWriteEnd act) s = .next t ∧ (t.actWra a).field = none ∧
        bitAt (t.rd F.WRA_STATUS_AG) a = false ∧ bitAt (t.rd F.WRA_STATUS_WG) a = false ∧
        ∀ c ∈ chansOf a, (t.chan c).writing = false ∧ ((s.chan c).writing = true → (s.chan c).stopping = true →
          bitAt (t.rd F.WRA_STATUS_CH_ARMED) c = false))) ∧
    (∀ (head : BitVec 5) (monitor : BitVec 15) (h : Nat), h = head.toNat →
      (s.dMode = false ∨ s.disk.heads ≤ h ∨ s.kindOf h = 0 → exec (.assistLoopSample head monitor) s = .next s) ∧
      (∀ (l : HeadLoop) (target top lvl : Nat) (err : Int), s.dMode = true → h < s.disk.heads → s.kindOf h ≠ 0 →
        l = Store.get HeadLoop.init s.wra.loops h → target = s.rdi F.WRA_PROF_B_TARGET (s.profOf h) →
        top = s.rdi F.WRA_PROF_A_MAX_LVL (s.profOf h) → err = (target : Int) - (monitor.toNat : Int) →
        lvl = (clampInt 0 (top : Int) ((l.level : Int) +
          err / ((2 ^ s.rd F.WRA_ASSIST_LOOP_KI : Nat) : Int))).toNat → ∃ t,
        exec (.assistLoopSample head monitor) s = .next t ∧ (Store.get HeadLoop.init t.wra.loops h).level = lvl ∧
        Emitted (.pac (s.actOf h) (pacFrame 4 (s.headOnAct h) 0 lvl)) s t ∧
        (15 ≤ l.conv → 50 * err.natAbs ≤ target → t.rdi F.WRA_HEAD_ASSIST_LEVEL h = lvl % 2 ^ 10) ∧
        (lvl = top → s.rd F.WRA_ASSIST_LOOP_SAT_FIELDS ≤ l.sat + 1 →
          t.rd F.WRA_FAULTS_ASSIST = Nat.min (s.rd F.WRA_FAULTS_ASSIST + 1) (2 ^ 16 - 1) ∧
          t.rd F.WRA_ERR_STATUS_ASSIST_FAULT = 1))) ∧
    (s.dMode = true → ∃ t, exec .assistLevelSave s = .next t ∧ Only [.wra] s t ∧
      ∀ h < 24, Store.get 0 t.wra.savedLevels h = s.rdi F.WRA_HEAD_ASSIST_LEVEL h) ∧
    (s.dMode = false → exec .assistLevelSave s = .next s) ∧
    (∀ (which : BitVec 3) (n : Nat), n = which.toNat →
      (n = 4 → ∃ t, exec (.synthUnlock which) s = .next t ∧ t.rd F.WRA_STATUS_TSYNTH_LOCK = 0 ∧
        (s.tMode = true → s.tapeWriting = true → t.tapeWriting = false ∧ t.rd F.WRA_STATUS_TAPE_SQUELCH = 1 ∧
          t.rd F.WRA_ERR_STATUS_SYNTH_UNLOCK = 1)) ∧
      (n < 4 → ∃ t, exec (.synthUnlock which) s = .next t ∧ bitAt (t.rd F.WRA_STATUS_DSYNTH_LOCK) n = false ∧
        ((s.chan n).writing = true ∨ bitAt (s.rd F.WRA_STATUS_CH_ARMED) n = true → (t.chan n).writing = false ∧
          bitAt (t.rd F.WRA_STATUS_CH_ARMED) n = false ∧ Raised 7 (s.chan n).head 0x404 n s t)) ∧
      (n = 4 → s.tMode = true → ∃ t, exec (.writeSynthesizerLocked which) s = .next t ∧
        t.rd F.WRA_STATUS_TSYNTH_LOCK = 1 ∧ Only [.regs 28] s t) ∧
      (n < 4 → s.dMode = true → ∃ t, exec (.writeSynthesizerLocked which) s = .next t ∧
        bitAt (t.rd F.WRA_STATUS_DSYNTH_LOCK) n = true ∧ Store.get 0 t.wra.rates n = (s.bandUnder n).rate ∧
        Only [.wra, .regs 28] s t) ∧
      (4 < n → exec (.synthUnlock which) s = .next s ∧ exec (.writeSynthesizerLocked which) s = .next s))

/-- A sample steps the slot's ramp and takes its feedback, once for a wedge record; one within 192 cycles of the last only
counts as an overrun, one that is late is synthesized as MISSING. The third lost sample in a row raises LOSS, the eighth of a
voice coil retracts the actuator, whose reload begins after the wait and succeeds with 32 VALID wedges, or fails; the third
failed attempt fails the actuator. A following error that lasts raises FERR. A host write commits a ramp target. A seek waits
for its grant. At speed the actuators load and a starting medium becomes READY or UNFORMATTED; a spindle fault parks both
actuators and leaves it FAULTED. The driver's answers give current, speed and status; its fault line polls the lanes. -/
def Obligations.Speedwell : Prop :=
  ∀ s : State,
    (∀ (slot : BitVec 4) (now : BitVec 64) (n role : Nat), n = slot.toNat → role = s.rdi F.CTL_SLOT_CFG_ROLE n →
      (∀ (fb : BitVec 48) (angle : Word),
        (s.slotOn n = false → role ≠ 4 → exec (.slotSample slot now fb angle) s = .next s) ∧
        (role = 4 → s.sourceAct n = none → exec (.slotSample slot now fb angle) s =
          .next (s.assistSample (s.chan (n - 5)).head (fb.toNat % 2 ^ 15))) ∧
        (∀ (a : Nat) (w : WedgeRec), s.slotOn n = true → s.sourceAct n = some a → (s.act a).wrec = some w →
          (bitAt w.taken n = true → exec (.slotSample slot now fb angle) s = .next s) ∧
          (bitAt w.taken n = false → (∀ t ∈ (s.slotOf n).last, t + 192 ≤ w.time) → ∃ t v,
            exec (.slotSample slot now fb angle) s = .next t ∧ (t.act a).wrec = some v ∧ bitAt v.taken n = true ∧
            (t.slotOf n).last = some w.time ∧ (countsRole role = true → t.rdi F.CTL_SLOT_STATUS_COUNT n =
              (if w.status = 0 then 0 else Nat.min 15 (s.rdi F.CTL_SLOT_STATUS_COUNT n + 1))))) ∧
        (s.slotOn n = true → s.sourceAct n = none → role = 6 →
          (∀ t0, (s.slotOf n).last = some t0 → now.toNat < t0 + 192 → ∃ t,
            exec (.slotSample slot now fb angle) s = .next t ∧ t.rdi F.CTL_SLOT_FLAGS_OVERRUN n = 1 ∧
            t.rd F.CTL_OVERRUNS_COUNT = Nat.min (s.rd F.CTL_OVERRUNS_COUNT + 1) (2 ^ 32 - 1) ∧
            (t.slotOf n).last = some t0 ∧ Raised 7 n 0x505 0 s t) ∧
          ((∀ t0 ∈ (s.slotOf n).last, t0 + 192 ≤ now.toNat) → ∀ r : RampOut,
            r = rampStep (s.rdi F.CTL_RAMP_CTL_MODE n) (s.slotOf n).x (s.slotOf n).v (s.slotOf n).tgt
              (s.rdi F.CTL_RAMP_VMAX_LIMIT n) (s.rdi F.CTL_RAMP_AMAX_LIMIT n) (s.rdi F.CTL_RAMP_CTL_DONE n != 0) → ∃ t,
            exec (.slotSample slot now fb angle) s = .next t ∧ (t.slotOf n).last = some now.toNat ∧
            (t.slotOf n).fb = s.tensionNow ∧ (t.slotOf n).x = r.x ∧ (t.slotOf n).v = r.v ∧
            t.rdi F.CTL_RAMP_CTL_DONE n = b2n r.done ∧ t.rdi F.CTL_RAMP_VEL_V n = ofSigned 32 r.v)) ∧
        (s.slotOn n = true → s.sourceAct n = none → role = 5 → ∃ t, exec (.slotSample slot now fb angle) s = .next t ∧
          Emitted (.mdrv n (mdrvFrame 6 0)) s t)) ∧
      (∀ t0, (s.slotOf n).last = some t0 → countsRole role = true →
        (s.slotOn n = false ∨ (now.toNat - t0) * 5 < 3 * s.rdi F.CTL_SLOT_PERIOD_PERIOD_NS n →
          exec (.sampleTimeout slot now) s = .next s) ∧
        (s.slotOn n = true → s.rdi F.CTL_SLOT_PERIOD_PERIOD_NS n ≠ 0 →
          3 * s.rdi F.CTL_SLOT_PERIOD_PERIOD_NS n ≤ (now.toNat - t0) * 5 → t0 + 192 ≤ now.toNat → ∃ t,
          exec (.sampleTimeout slot now) s = .next t ∧ t.rdi F.CTL_SLOT_FLAGS_TIMEOUT n = 1 ∧
          t.rd F.CTL_OVERRUNS_COUNT = Nat.min (s.rd F.CTL_OVERRUNS_COUNT + 1) (2 ^ 32 - 1) ∧
          (t.slotOf n).last = some now.toNat ∧
          t.rdi F.CTL_SLOT_STATUS_COUNT n = Nat.min 15 (s.rdi F.CTL_SLOT_STATUS_COUNT n + 1))) ∧
      (s.rdi F.CTL_SLOT_STATUS_COUNT n ≠ 2 → exec (.loopLossAction slot now) s = .next s) ∧
      (s.rdi F.CTL_SLOT_STATUS_COUNT n = 2 → countsRole role = true → s.slotOn n = true →
        (∀ t0 ∈ (s.slotOf n).last, t0 + 192 ≤ now.toNat) → (s.act (n / 2)).reload ≠ 2 → ∃ t,
        exec (.loopLossAction slot now) s = .next t ∧ t.rdi F.CTL_SLOT_STATUS_COUNT n = 3 ∧
        t.rdi F.CTL_SLOT_STATUS_STATE n = 3 ∧ t.rdi F.CTL_SLOT_FLAGS_LOSS n = 1 ∧
        (s.host.evtFifo.length < 4095 → ∃ e ∈ t.host.evtFifo, e.type = 7 ∧ e.source = n ∧ e.code = 0x501)) ∧
      (s.slotOn n = false → exec (.followingErrorTimeout slot) s = .next s) ∧
      (s.slotOn n = true → s.rdi F.CTL_SLOT_FERR_TIME_TIME_US n ≠ 0 → 0 < (s.slotOf n).ferrNs → ∃ t,
        exec (.followingErrorTimeout slot) s = .next t ∧ t.rdi F.CTL_SLOT_FLAGS_FERR n = 1 ∧ (t.slotOf n).ferrNs = 0 ∧
        (s.host.evtFifo.length < 4095 → ∃ e ∈ t.host.evtFifo, e.type = 7 ∧ e.source = n ∧ e.code = 0x504 ∧
          e.arg = ofSigned 32 (((s.slotOf n).sp - (s.slotOf n).fb).natAbs : Int))) ∧
      (∀ (port : Bool) (value : Word),
        (s.barsUp port = false ∨ 12 ≤ n ∨ role = 0 → exec (.rampTargetCommit port slot value) s = .next s) ∧
        (s.barsUp port = true → n < 12 → role ≠ 0 → ∃ t, exec (.rampTargetCommit port slot value) s = .next t ∧
          t.rdi F.CTL_RAMP_TGT_HI_TGT n = value.toNat % 2 ^ 16 ∧ (t.slotOf n).tgt =
            toSigned 48 (s.rdi F.CTL_RAMP_TGT_LO_TGT n + value.toNat % 2 ^ 16 * 2 ^ 32) ∧
          Only [.ctl, .regs 32] s t))) ∧
    (∀ (act : Bool) (a : Nat), a = b2n act →
      (∀ now : BitVec 64,
        (s.rdi F.CTL_SLOT_STATUS_COUNT (vcSlot a) ≠ 7 → exec (.retractAction act now) s = .next s) ∧
        (s.dMode = true → s.rdi F.CTL_SLOT_STATUS_COUNT (vcSlot a) = 7 → s.rdi F.CTL_SLOT_CFG_ROLE (vcSlot a) = 1 →
          s.slotOn (vcSlot a) = true → (∀ t0 ∈ (s.slotOf (vcSlot a)).last, t0 + 192 ≤ now.toNat) →
          (s.act a).reload ≠ 2 → ∃ t, exec (.retractAction act now) s = .next t ∧
          t.rd F.CTL_ERR_STATUS_RETRACT = 1 ∧
          bitAt (t.rd F.CTL_DK_STATUS_RETRACTED) a = true ∧ bitAt (t.rd F.CTL_DK_STATUS_PERMIT) a = false ∧
          t.slotOn (vcSlot a) = false ∧ t.slotOn (vcSlot a + 1) = false ∧ (t.act a).reload = 1 ∧
          Emitted (.mdrv (vcSlot a) (mdrvFrame 4 0)) s t ∧
          t.rd F.CTL_DK_RETRACTS_COUNT = Nat.min (s.rd F.CTL_DK_RETRACTS_COUNT + 1) (2 ^ 32 - 1))) ∧
      ((s.act a).reload ≠ 1 → exec (.reloadAttempt act) s = .next s) ∧
      (s.dMode = true → (s.act a).reload = 1 → s.ctl.spindle = 3 → bitAt (s.rd F.FMT_HEAD_FAILED_ACTUATORS) a = false →
        s.on F.PWR_STATUS_BRACE = false → ∃ t, exec (.reloadAttempt act) s = .next t ∧ (t.act a).reload = 2 ∧
        (t.act a).attempts = (s.act a).attempts + 1 ∧ (t.act a).validRun = 0 ∧ t.slotOn (vcSlot a) = true ∧
        t.slotOn (vcSlot a + 1) = true ∧ bitAt (t.rd F.CTL_DK_STATUS_RETRACTED) a = false ∧
        Emitted (.mdrv (vcSlot a) (mdrvFrame 2 1)) s t) ∧
      (s.dMode = false ∨ (s.act a).reload ≠ 2 → exec (.reloadWindowExpiry act) s = .next s) ∧
      (s.dMode = true → (s.act a).reload = 2 →
        (32 ≤ (s.act a).validRun → ∃ t, exec (.reloadWindowExpiry act) s = .next t ∧ (t.act a).reload = 0 ∧
          (t.act a).attempts = 0 ∧ Raised 7 (vcSlot a) 0x503 (a + (s.act a).attempts * 2 + 256) s t) ∧
        ((s.act a).validRun < 32 → ∃ t, exec (.reloadWindowExpiry act) s = .next t ∧
          bitAt (t.rd F.CTL_DK_STATUS_RETRACTED) a = true ∧ t.slotOn (vcSlot a) = false ∧
          ((s.act a).attempts < 3 → (t.act a).reload = 1 ∧ (t.act a).attempts = (s.act a).attempts) ∧
          (3 ≤ (s.act a).attempts → (t.act a).reload = 0 ∧ (t.act a).failed = true ∧
            bitAt (t.rd F.FMT_HEAD_FAILED_ACTUATORS) a = true))) ∧
      (∀ (head : BitVec 5) (track : BitVec 24) (prio : BitVec 3),
        (s.on F.PWR_STATUS_BRACE = true ∨ bitAt (s.rd F.CTL_DK_STATUS_RETRACTED) a = true ∨ (s.act a).seek.isSome = true →
          exec (.seekStart act head track prio) s = .next s) ∧
        (s.dMode = true → s.ctl.spindle = 3 → bitAt (s.rd F.CTL_DK_STATUS_RETRACTED) a = false → (s.act a).reload = 0 →
          s.surfOk head.toNat = true → s.actOf head.toNat = a → (s.act a).seek = none →
          s.on F.PWR_STATUS_BRACE = false → ∃ t, exec (.seekStart act head track prio) s = .next t ∧
          (t.act a).seekWaits = some (head.toNat, (track.toNat : Int)) ∧ (t.act a).seek = none ∧ t.asked 1 a = true ∧
          Only [.ctl, .pwr] s t))) ∧
    (∀ ok0 ok1 : Bool,
      (s.dMode = false ∨ s.ctl.spindle = 0 ∨ 3 ≤ s.ctl.spindle → exec (.spindleAtSpeed ok0 ok1) s = .next s) ∧
      (s.dMode = true → s.ctl.spindle = 1 ∨ s.ctl.spindle = 2 → ∃ t, exec (.spindleAtSpeed ok0 ok1) s = .next t ∧
        t.ctl.spindle = 3 ∧ t.rd F.CTL_DK_STATUS_AT_SPEED = 1 ∧
        (∀ a < 2, s.surfaces a ≠ [] → (s.act a).reload ≠ 1 → t.slotOn (vcSlot a) = true ∧
          bitAt (t.rd F.CTL_DK_STATUS_RETRACTED) a = false) ∧
        (s.medium.state = mStarting → s.medium.func = 1 → s.medium.stopAfter = false → t.medium.func = 0 ∧
          t.medium.state = (if s.disk.formatted && s.tableValid && ((ok0 && !(s.surfaces 0).isEmpty) ||
            (ok1 && !(s.surfaces 1).isEmpty)) then mReady else mUnformatted)))) ∧
    (∀ (cause : BitVec 2) (k : Nat), k = cause.toNat →
      (s.dMode = false ∨ k = 0 → exec (.spindleFault cause) s = .next s) ∧
      (s.dMode = true → (k = 1 ∧ (s.ctl.spindle = 1 ∨ s.ctl.spindle = 2)) ∨ (k = 2 ∧ s.ctl.spindle = 3) ∨
          (k = 3 ∧ 1 ≤ s.ctl.spindle ∧ s.ctl.spindle ≤ 3) → ∃ t, exec (.spindleFault cause) s = .next t ∧
        t.ctl.spindle = 4 ∧ t.rd F.CTL_DK_STATUS_AT_SPEED = 0 ∧ t.rd F.CTL_ERR_STATUS_SPINDLE = 1 ∧
        t.medium.state = mFaulted ∧ t.slotOn 4 = false ∧
        (∀ a < 2, bitAt (t.rd F.CTL_DK_STATUS_RETRACTED) a = true ∧ t.slotOn (vcSlot a) = false) ∧
        (s.host.evtFifo.length < 4095 → ∃ e ∈ t.host.evtFifo, e.type = 7 ∧ e.source = 4 ∧ e.code = 0x506 ∧
          e.arg = k))) ∧
    (∃ t, exec .mdrvFaultFall s = .next t ∧ t.rd F.CTL_MDRV_STATUS_FLT_N = 0 ∧
      ∀ l < 5, Store.get false s.ctl.laneOn l = true → Emitted (.mdrv l (mdrvFrame 0 0)) s t) ∧
    (∃ t, exec .mdrvFaultRelease s = .next t ∧ t.rd F.CTL_MDRV_STATUS_FLT_N = 1 ∧ Only [.regs 32] s t) ∧
    (∀ (lane : BitVec 3) (frame : Word) (l cmd data : Nat), l = lane.toNat → cmd = bits frame.toNat 28 4 →
      data = bits frame.toNat 8 20 →
      (5 ≤ l → exec (.mdrvResponse lane frame) s = .next s) ∧
      (l < 5 → frame.toNat ≠ mdrvFrame cmd data → ∃ t, exec (.mdrvResponse lane frame) s = .next t ∧
        t.rd F.CTL_MDRV_CRC_COUNT = Nat.min (s.rd F.CTL_MDRV_CRC_COUNT + 1) (2 ^ 32 - 1) ∧ Only [.regs 32] s t) ∧
      (l < 5 → frame.toNat = mdrvFrame cmd data →
        (∀ n, cmd = 1 → s.slotOfLane l = some n → ∃ t, exec (.mdrvResponse lane frame) s = .next t ∧
          (t.slotOf n).current = toSigned 20 data * 2048 ∧ Only [.ctl] s t) ∧
        (cmd = 6 → ∃ t, exec (.mdrvResponse lane frame) s = .next t ∧ Store.get 0 t.ctl.speed l = toSigned 20 data ∧
          Only [.ctl] s t) ∧
        (cmd = 0 → ∃ t, exec (.mdrvResponse lane frame) s = .next t ∧ Store.get 0 t.ctl.laneStatus l = data ∧
          (data % 2 = 0 ∨ s.on F.CTL_MDRV_STATUS_FLT_N = true → Only [.ctl] s t) ∧
          (data % 2 = 1 → s.on F.CTL_MDRV_STATUS_FLT_N = false →
            bitAt (t.rd F.CTL_MDRV_STATUS_FAULT_LANES) l = true ∧ t.rd F.CTL_ERR_STATUS_DRIVER_FAULT = 1 ∧
            (s.dMode = true → l < 4 → (t.act (l / 2)).failed = true ∧
              bitAt (t.rd F.FMT_HEAD_FAILED_ACTUATORS) (l / 2) = true)))))
end

