-- ==== Sys2Proof/Laws/Store.lean ====
section
/-!
SUPPORT. Laws of the sparse tables: what a write leaves for each key, and that every write keeps the canonical form.
-/

set_option Elab.async false

namespace Sys2Proof.Machine

variable {α : Type}

@[simp] theorem Store.get_nil (d : α) (k : Nat) : Store.get d [] k = d := rfl

@[simp] theorem Store.get_ins_same (d : α) (k : Nat) (v : α) (l : Store α) : Store.get d (Store.ins k v l) k = v := by
  induction l with
  | nil => simp [Store.ins, Store.get]
  | cons p t ih =>
    obtain ⟨a, w⟩ := p
    simp only [Store.ins]
    split
    · simp [Store.get]
    · split
      · simp [Store.get]
      · next h1 h2 => simp [Store.get, Ne.symm h2, ih]

theorem Store.get_ins_other (d : α) {k j : Nat} (v : α) (h : j ≠ k) (l : Store α) :
    Store.get d (Store.ins k v l) j = Store.get d l j := by
  induction l with
  | nil => simp [Store.ins, Store.get, h.symm]
  | cons p t ih =>
    obtain ⟨a, w⟩ := p
    simp only [Store.ins]
    split
    · simp [Store.get, h.symm]
    · split
      · next h2 => subst h2; simp [Store.get, h.symm]
      · simp only [Store.get]; split <;> simp_all

theorem Store.get_filter_same (d : α) (k : Nat) (l : Store α) : Store.get d (l.filter (fun p => p.1 ≠ k)) k = d := by
  induction l with
  | nil => rfl
  | cons p t ih =>
    obtain ⟨a, w⟩ := p
    by_cases h : a = k <;> simp_all [List.filter, Store.get]

theorem Store.get_filter_other (d : α) {k j : Nat} (h : j ≠ k) (l : Store α) :
    Store.get d (l.filter (fun p => p.1 ≠ k)) j = Store.get d l j := by
  induction l with
  | nil => rfl
  | cons p t ih =>
    obtain ⟨a, w⟩ := p
    by_cases hk : a = k
    · subst hk; simp_all [List.filter, Store.get, h.symm]
    · by_cases hj : a = j <;> simp_all [List.filter, Store.get]

variable [DecidableEq α]

/-- A written key reads back what was written. -/
@[simp] theorem Store.get_put_same (d : α) (l : Store α) (k : Nat) (v : α) : Store.get d (Store.put d l k v) k = v := by
  unfold Store.put
  split
  · next h => rw [Store.get_filter_same, h]
  · simp

/-- A write leaves every other key as it was, whatever an unlisted key reads as. -/
theorem Store.get_put_other (d e : α) (l : Store α) {k j : Nat} (v : α) (h : j ≠ k) :
    Store.get e (Store.put d l k v) j = Store.get e l j := by
  unfold Store.put
  split
  · exact Store.get_filter_other e h l
  · exact Store.get_ins_other e v h l

/-- Every pair of a table after a write was there before or is the written one. -/
theorem Store.mem_put (d : α) (l : Store α) (k : Nat) (v : α) {p : Nat × α} (h : p ∈ Store.put d l k v) :
    p ∈ l ∨ p = (k, v) := by
  have ins : ∀ l : Store α, p ∈ Store.ins k v l → p ∈ l ∨ p = (k, v) := by
    intro l
    induction l with
    | nil => intro h; simpa [Store.ins] using h
    | cons q t ih =>
      obtain ⟨a, w⟩ := q
      simp only [Store.ins]
      split
      · intro h; rcases List.mem_cons.mp h with h | h
        · exact .inr h
        · exact .inl h
      · split
        · intro h; rcases List.mem_cons.mp h with h | h
          · exact .inr h
          · exact .inl (List.mem_cons_of_mem _ h)
        · intro h; rcases List.mem_cons.mp h with h | h
          · exact .inl (by rw [h]; exact List.mem_cons_self)
          · rcases ih h with h | h
            · exact .inl (List.mem_cons_of_mem _ h)
            · exact .inr h
  unfold Store.put at h
  split at h
  · exact .inl (List.mem_filter.mp h).1
  · exact ins l h

theorem Store.wf_filter (d : α) (q : Nat × α → Bool) (l : Store α) (h : Store.wf d l = true) :
    Store.wf d (l.filter q) = true := by
  induction l with
  | nil => rfl
  | cons p t ih =>
    obtain ⟨a, w⟩ := p
    simp only [Store.wf, Bool.and_eq_true, decide_eq_true_eq, List.all_eq_true] at h
    obtain ⟨⟨h1, h2⟩, h3⟩ := h
    simp only [List.filter]
    split
    · simp only [Store.wf, Bool.and_eq_true, decide_eq_true_eq, List.all_eq_true]
      exact ⟨⟨h1, fun x hx => h2 x (List.mem_filter.mp hx).1⟩, ih h3⟩
    · exact ih h3

theorem Store.wf_ins (d : α) (k : Nat) (v : α) (hv : v ≠ d) (l : Store α) (h : Store.wf d l = true) :
    Store.wf d (Store.ins k v l) = true := by
  have lt : ∀ (l : Store α) (b : Nat), b < k → (∀ x ∈ l, b < x.1) → ∀ x ∈ Store.ins k v l, b < x.1 := by
    intro l b hb
    induction l with
    | nil => intro _ x hx; simp [Store.ins] at hx; rw [hx]; exact hb
    | cons q t ih =>
      obtain ⟨a, w⟩ := q
      intro hl x hx
      simp only [Store.ins] at hx
      split at hx
      · rcases List.mem_cons.mp hx with hx | hx
        · rw [hx]; exact hb
        · exact hl x hx
      · split at hx
        · rcases List.mem_cons.mp hx with hx | hx
          · rw [hx]; exact hb
          · exact hl x (List.mem_cons_of_mem _ hx)
        · rcases List.mem_cons.mp hx with hx | hx
          · exact hl x (by rw [hx]; exact List.mem_cons_self)
          · exact ih (fun y hy => hl y (List.mem_cons_of_mem _ hy)) x hx
  induction l with
  | nil => simp [Store.ins, Store.wf, hv]
  | cons p t ih =>
    obtain ⟨a, w⟩ := p
    have h' := h
    simp only [Store.wf, Bool.and_eq_true, decide_eq_true_eq, List.all_eq_true] at h
    obtain ⟨⟨h1, h2⟩, h3⟩ := h
    simp only [Store.ins]
    split
    · next hk =>
      simp only [Store.wf, Bool.and_eq_true, decide_eq_true_eq, List.all_eq_true]
      refine ⟨⟨hv, fun x hx => ?_⟩, ⟨h1, h2⟩, h3⟩
      rcases List.mem_cons.mp hx with hx | hx
      · rw [hx]; exact hk
      · exact Nat.lt_trans hk (h2 x hx)
    · split
      · next hk =>
        subst hk
        simp only [Store.wf, Bool.and_eq_true, decide_eq_true_eq, List.all_eq_true]
        exact ⟨⟨hv, h2⟩, h3⟩
      · next h4 h5 =>
        simp only [Store.wf, Bool.and_eq_true, decide_eq_true_eq, List.all_eq_true]
        exact ⟨⟨h1, lt t a (by omega) h2⟩, ih h3⟩

/-- A write keeps the canonical form. -/
theorem Store.wf_put (d : α) (l : Store α) (k : Nat) (v : α) (h : Store.wf d l = true) :
    Store.wf d (Store.put d l k v) = true := by
  unfold Store.put
  split
  · exact Store.wf_filter d _ l h
  · next hv => exact Store.wf_ins d k v hv l h

end Sys2Proof.Machine
end

