-- ==== Sys2Proof/Laws/Keeps.lean ====
section
/-!
SUPPORT. What every operation of the block keeps, said once: `Keeps s t` holds of every state `t` that operations make of
`s`. The queue and the fuses stay, what has left the device stays sent, and the invariants of Safety.lean stay true.
-/

set_option Elab.async false

namespace Sys2Proof.Machine

@[simp] theorem Regs.dom_setDom_same (r : Regs) (d : Domain) (t : Store Nat) : (r.setDom d t).dom d = t := by
  cases d <;> rfl

theorem Regs.dom_setDom_other (r : Regs) (d e : Domain) (t : Store Nat) (h : e ≠ d) :
    (r.setDom d t).dom e = r.dom e := by
  cases d <;> cases e <;> first | rfl | exact absurd rfl h

/-- Commands replaced by ones with the same uids stand in order as before. -/
theorem SqSt.uidsOk_map {q r : SqSt} {f : Cmd → Cmd} (h : q.uidsOk) (hf : ∀ c, (f c).uid = c.uid)
    (hr : r.cmds = q.cmds.map f) (hn : r.nextUid = q.nextUid) : r.uidsOk := by
  refine ⟨?_, fun c hc => ?_⟩
  · rw [hr, List.map_map, show Cmd.uid ∘ f = Cmd.uid from funext hf]
    exact h.1
  · rw [hr] at hc
    obtain ⟨d, hd, rfl⟩ := List.mem_map.mp hc
    rw [hf, hn]
    exact h.2 d hd

/-- What `t` has in common with the state `s` it was made of. -/
structure Keeps (s t : State) : Prop where
  queue : t.pending = s.pending
  out : s.out <:+ t.out
  fuses : t.boot.fuses.blown = s.boot.fuses.blown
  inv : s.Inv → t.Inv

namespace Keeps

variable {s0 s t : State}

theorem refl (s : State) : Keeps s s := ⟨rfl, List.suffix_refl _, rfl, id⟩

theorem trans {r : State} (h1 : Keeps r s) (h2 : Keeps s t) : Keeps r t :=
  ⟨h2.queue.trans h1.queue, h1.out.trans h2.out, h2.fuses.trans h1.fuses, fun h => h2.inv (h1.inv h)⟩

/-- A state that differs in no part that an invariant reads. -/
theorem upd {free : Nat} {host : HostSt} {sq : SqSt} {obj : ObjSt} {life : LifeSt} {boot : BootSt} {tape : TapeSt}
    {mot : MotSt} {disk : DiskSt} {det : DetSt} {medium : MediumSt} {wra : WraSt} {ctl : CtlSt} {trc : TrcSt}
    {grp : GrpSt} {red : RedSt} {pwr : PwrSt} {mem : MemSt} {pins : PinSt} (h : Keeps s0 s)
    (h1 : (host.evtFifo, host.evtSeq, sq.cmds, sq.nextUid) = (s.host.evtFifo, s.host.evtSeq, s.sq.cmds, s.sq.nextUid))
    (h2 : (boot.nor, boot.fuses.blown) = (s.boot.nor, s.boot.fuses.blown))
    (h3 : (mem.hbm, mem.sram, mem.mram) = (s.mem.hbm, s.mem.sram, s.mem.mram)) :
    Keeps s0 { pending := s.pending, out := s.out, free := free, regs := s.regs, host := host, sq := sq, obj := obj,
               life := life, boot := boot, tape := tape, mot := mot, disk := disk, det := det, medium := medium,
               wra := wra, ctl := ctl, trc := trc, grp := grp, red := red, pwr := pwr, mem := mem, pins := pins } := by
  simp only [Prod.mk.injEq] at h1 h2 h3
  refine ⟨h.queue, h.out, h2.2.trans h.fuses, fun hs => ?_⟩
  obtain ⟨u, a, b, c, d⟩ := h.inv hs
  refine ⟨?_, ?_, b, ?_, ?_⟩
  · simpa only [SqSt.uidsOk, h1.2.2.1, h1.2.2.2] using u
  · simpa only [HostSt.evtOk, h1.1, h1.2.1] using a
  · simpa only [MemSt.ok, h3.1, h3.2.1, h3.2.2] using c
  · simpa only [BootSt.norOk, h2.1] using d

theorem ite {c : Prop} [Decidable c] {a b : State} (h1 : Keeps s0 a) (h2 : Keeps s0 b) : Keeps s0 (if c then a else b) := by
  split <;> assumption

theorem foldl {β : Type} {f : State → β → State} (l : List β) (h : Keeps s0 s)
    (hf : ∀ s x, Keeps s0 s → Keeps s0 (f s x)) : Keeps s0 (l.foldl f s) := by
  induction l generalizing s with
  | nil => exact h
  | cons x t ih => exact ih (hf _ _ h)

theorem foldlPair {β γ : Type} {f : State × γ → β → State × γ} {a : State × γ} (l : List β) (h : Keeps s0 a.1)
    (hf : ∀ a x, Keeps s0 a.1 → Keeps s0 (f a x).1) : Keeps s0 (l.foldl f a).1 := by
  induction l generalizing a with
  | nil => exact h
  | cons x t ih => exact ih (hf _ _ h)

/-- The state of a pair keeps what it was made of. -/
def Pair {β : Type} (s0 : State) (p : State × β) : Prop := Keeps s0 p.1

/-- A state that an optional answer holds keeps what it was made of. -/
def Opt (s0 : State) (o : Option State) : Prop := ∀ t, o = some t → Keeps s0 t

/-- An outcome is a next state that keeps what it was made of. -/
def Out (s0 : State) (o : Host.Outcome State Fault Refusal) : Prop := ∃ t, o = .next t ∧ Keeps s0 t

theorem pair {β : Type} {r : β} (h : Keeps s0 t) : Pair s0 (t, r) := h

theorem fst {β : Type} {p : State × β} (h : Pair s0 p) : Keeps s0 p.1 := h

theorem next (h : Keeps s0 t) : Out s0 (.next t) := ⟨t, rfl, h⟩

theorem none : Opt s0 Option.none := fun _ h => nomatch h

theorem some (h : Keeps s0 t) : Opt s0 (Option.some t) := fun _ e => Option.some.inj e ▸ h

theorem of_eq {β : Type} {p : State × β} {r : β} (h : Pair s0 p) (e : p = (t, r)) : Keeps s0 t := by
  rw [e] at h; exact h

theorem of_opt {o : Option State} (h : Opt s0 o) (e : o = Option.some t) : Keeps s0 t := h t e

theorem getD {o : Option State} (h : Opt s0 o) (h2 : Keeps s0 s) : Keeps s0 (o.getD s) := by
  cases o with
  | none => exact h2
  | some t => exact h t rfl

theorem itePair {β : Type} {c : Prop} [Decidable c] {a b : State × β} (h1 : Pair s0 a) (h2 : Pair s0 b) :
    Pair s0 (if c then a else b) := by
  split <;> assumption

theorem iteOpt {c : Prop} [Decidable c] {a b : Option State} (h1 : Opt s0 a) (h2 : Opt s0 b) :
    Opt s0 (if c then a else b) := by
  split <;> assumption

theorem iteOut {c : Prop} [Decidable c] {a b : Host.Outcome State Fault Refusal} (h1 : Out s0 a) (h2 : Out s0 b) :
    Out s0 (if c then a else b) := by
  split <;> assumption

end Keeps

end Sys2Proof.Machine
end

