-- ==== Sys2Proof/Laws/KeepsOps.lean ====
section
/-!
SUPPORT. What every operation of Machine/Ops.lean keeps (Laws/Keeps.lean).
-/

set_option Elab.async false

namespace Sys2Proof.Machine

theorem State.emit_keeps {s0 s : State} {x2} (h : Keeps s0 s) :
    Keeps s0 (State.emit s x2) :=
  ⟨h.queue, h.out.trans (List.suffix_cons _ _), h.fuses, fun hs =>
    let i := h.inv hs; ⟨i.uids, i.evt, i.regs, i.mem, i.nor⟩⟩

theorem State.fset_keeps {s0 s : State} {x2 x3 x4 x5} (h : Keeps s0 s) :
    Keeps s0 (State.fset s x2 x3 x4 x5) := by
  refine ⟨h.queue, h.out, h.fuses, fun hs => ?_⟩
  obtain ⟨u, a, b, c, d⟩ := h.inv hs
  refine ⟨u, a, ?_, c, d⟩
  intro dom p hp
  by_cases hd : dom = x2.dom
  · subst hd
    have hp : p ∈ Store.put (x2.resetAt x3 x4) (s.regs.dom x2.dom) (x2.key x3 x4) (x5 % 2 ^ Nat.min x2.w 32) := by
      simpa only [State.fset, Regs.dom_setDom_same] using hp
    rcases Store.mem_put _ _ _ _ hp with hp | hp
    · exact b _ _ hp
    · rw [hp]
      exact Nat.lt_of_lt_of_le (Nat.mod_lt _ (by positivity)) (Nat.pow_le_pow_right (by omega) (Nat.min_le_right _ _))
  · have hp : p ∈ s.regs.dom dom := by simpa only [State.fset, Regs.dom_setDom_other _ _ _ _ hd] using hp
    exact b _ _ hp

theorem State.wr_keeps {s0 s : State} {x2 x3} (h : Keeps s0 s) :
    Keeps s0 (State.wr s x2 x3) := by
  unfold State.wr
  exact State.fset_keeps (by assumption)

theorem State.wri_keeps {s0 s : State} {x2 x3 x4} (h : Keeps s0 s) :
    Keeps s0 (State.wri s x2 x3 x4) := by
  unfold State.wri
  exact State.fset_keeps (by assumption)

theorem State.signal_keeps {s0 s : State} {x2 x3} (h : Keeps s0 s) :
    Keeps s0 (State.signal s x2 x3) := by
  unfold State.signal
  extract_lets n1 n2 n3
  refine Keeps.ite ?_ ?_
  · assumption
  · refine Keeps.ite ?_ ?_
    · refine Keeps.upd ?_ rfl rfl rfl --UPD .host
      assumption
    · exact State.emit_keeps (by assumption)

theorem State.log_keeps {s0 s : State} {x2 x3 x4 x5 x6 x7} (h : Keeps s0 s) :
    Keeps s0 (State.log s x2 x3 x4 x5 x6 x7) := by
  unfold State.log
  extract_lets n1 n2
  refine Keeps.upd ?_ rfl rfl rfl --UPD .life
  assumption

theorem State.pushEvt_keeps {s0 s : State} {x2 x3 x4 x5} (h : Keeps s0 s) (hl : s.host.evtFifo.length < 4096) :
    Keeps s0 (State.pushEvt s x2 x3 x4 x5) := by
  unfold State.pushEvt
  extract_lets n1 n2 n3 s3
  have hs3 : Keeps s0 s3 := by
    refine ⟨h.queue, h.out, h.fuses, fun hs => ?_⟩
    obtain ⟨u, ⟨a, b, b'⟩, c, d, e⟩ := h.inv hs
    refine ⟨u, ⟨?_, ?_, ?_⟩, c, d, e⟩
    · simp only [s3, List.length_append, List.length_cons, List.length_nil]; omega
    · simp only [s3, nextEvtSeq]; split <;> omega
    · simp only [s3, nextEvtSeq]; split <;> omega
  clear_value s3
  refine Keeps.ite ?_ ?_
  · exact State.signal_keeps (by assumption)
  · assumption

theorem State.raiseBit_keeps {s0 s : State} {x2 x3} (h : Keeps s0 s) :
    Keeps s0 (State.raiseBit s x2 x3) := by
  unfold State.raiseBit
  exact State.wr_keeps (by assumption)

theorem State.addi_keeps {s0 s : State} {x2 x3 x4} (h : Keeps s0 s) :
    Keeps s0 (State.addi s x2 x3 x4) := by
  unfold State.addi
  exact State.wri_keeps (by assumption)

theorem State.inci_keeps {s0 s : State} {x2 x3} (h : Keeps s0 s) :
    Keeps s0 (State.inci s x2 x3) := by
  unfold State.inci
  exact State.addi_keeps (by assumption)

theorem State.countEvt_keeps {s0 s : State} {x2} (h : Keeps s0 s) :
    Keeps s0 (State.countEvt s x2) := by
  unfold State.countEvt
  refine State.raiseBit_keeps ?_
  exact State.inci_keeps (by assumption)

theorem State.inc_keeps {s0 s : State} {x2} (h : Keeps s0 s) :
    Keeps s0 (State.inc s x2) := by
  unfold State.inc
  exact State.addi_keeps (by assumption)

theorem State.enqueueEvt_keeps {s0 s : State} {x2 x3 x4 x5} (h : Keeps s0 s) :
    Keeps s0 (State.enqueueEvt s x2 x3 x4 x5) := by
  unfold State.enqueueEvt
  split
  · exact State.pushEvt_keeps h (by omega)
  · split
    · refine State.countEvt_keeps (State.wr_keeps ?_)
      exact State.pushEvt_keeps h (by omega)
    · exact State.inc_keeps h

theorem State.trcTrigger_keeps {s0 s : State} (h : Keeps s0 s) :
    Keeps s0 (State.trcTrigger s) := by
  unfold State.trcTrigger
  extract_lets n1 n2 n3 s4 s5
  have hs4 : Keeps s0 s4 := by
    unfold s4
    refine Keeps.upd ?_ rfl rfl rfl --UPD .trc
    assumption
  clear_value s4
  have hs5 : Keeps s0 s5 := by
    unfold s5
    refine Keeps.foldl _ ?_ (fun s _ h => ?_)
    · assumption
    · extract_lets n6
      refine State.wri_keeps ?_
      exact State.wri_keeps (by assumption)
  clear_value s5
  refine Keeps.ite ?_ ?_
  · exact State.wr_keeps (by assumption)
  · assumption

theorem State.raiseFor_keeps {s0 s : State} {x2 x3 x4 x5 x6 x7} (h : Keeps s0 s) :
    Keeps s0 (State.raiseFor s x2 x3 x4 x5 x6 x7) := by
  unfold State.raiseFor
  extract_lets s1 s2
  have hs1 : Keeps s0 s1 := by
    unfold s1
    refine Keeps.ite ?_ ?_
    · exact State.log_keeps (by assumption)
    · assumption
  clear_value s1
  have hs2 : Keeps s0 s2 := by
    unfold s2
    refine State.enqueueEvt_keeps ?_
    exact State.countEvt_keeps (by assumption)
  clear_value s2
  refine Keeps.ite ?_ ?_
  · exact State.trcTrigger_keeps (by assumption)
  · assumption

theorem State.raise_keeps {s0 s : State} {x2 x3 x4 x5} (h : Keeps s0 s) :
    Keeps s0 (State.raise s x2 x3 x4 x5) := by
  unfold State.raise
  exact State.raiseFor_keeps (by assumption)

theorem State.setIngest_keeps {s0 s : State} {x2} (h : Keeps s0 s) :
    Keeps s0 (State.setIngest s x2) := by
  unfold State.setIngest
  extract_lets s1 s2 s3 s4
  have hs1 : Keeps s0 s1 := by
    unfold s1
    exact State.wr_keeps (by assumption)
  clear_value s1
  have hs2 : Keeps s0 s2 := by
    unfold s2
    refine Keeps.ite ?_ ?_
    · exact State.wr_keeps (by assumption)
    · assumption
  clear_value s2
  have hs3 : Keeps s0 s3 := by
    unfold s3
    exact State.wr_keeps (by assumption)
  clear_value s3
  have hs4 : Keeps s0 s4 := by
    unfold s4
    exact State.wr_keeps (by assumption)
  clear_value s4
  refine Keeps.ite ?_ ?_
  · refine Keeps.ite ?_ ?_
    · assumption
    · refine State.raise_keeps ?_
      exact State.wr_keeps (by assumption)
  · refine Keeps.ite ?_ ?_
    · refine Keeps.ite ?_ ?_
      · assumption
      · refine State.raise_keeps ?_
        exact State.wr_keeps (by assumption)
    · assumption

theorem State.add64_keeps {s0 s : State} {x2 x3 x4} (h : Keeps s0 s) :
    Keeps s0 (State.add64 s x2 x3 x4) := by
  unfold State.add64
  extract_lets n1
  refine State.wr_keeps ?_
  exact State.wr_keeps (by assumption)

theorem State.lifeStep_keeps {s0 s : State} {x2 x3 x4} (h : Keeps s0 s) :
    Keeps s0 (State.lifeStep s x2 x3 x4) := by
  unfold State.lifeStep
  extract_lets n1 s2 s3
  have hs2 : Keeps s0 s2 := by
    unfold s2
    refine Keeps.ite ?_ ?_
    · exact State.raise_keeps (by assumption)
    · assumption
  clear_value s2
  have hs3 : Keeps s0 s3 := by
    unfold s3
    refine Keeps.ite ?_ ?_
    · exact State.raise_keeps (by assumption)
    · assumption
  clear_value s3
  refine Keeps.ite ?_ ?_
  · exact State.raise_keeps (by assumption)
  · assumption

theorem State.lifeAdd_keeps {s0 s : State} {x2 x3} (h : Keeps s0 s) :
    Keeps s0 (State.lifeAdd s x2 x3) := by
  unfold State.lifeAdd
  extract_lets n1 n2 n3
  refine State.lifeStep_keeps ?_
  refine Keeps.upd ?_ rfl rfl rfl --UPD .life
  assumption

theorem State.ask_keeps {s0 s : State} {x2 x3 x4} (h : Keeps s0 s) :
    Keeps s0 (State.ask s x2 x3 x4) := by
  unfold State.ask
  extract_lets n1 n2
  refine Keeps.ite ?_ ?_
  · assumption
  · refine Keeps.upd ?_ rfl rfl rfl --UPD .pwr
    assumption

theorem State.putBit_keeps {s0 s : State} {x2 x3 x4} (h : Keeps s0 s) :
    Keeps s0 (State.putBit s x2 x3 x4) := by
  unfold State.putBit
  exact State.wr_keeps (by assumption)

theorem State.unask_keeps {s0 s : State} {x2 x3} (h : Keeps s0 s) :
    Keeps s0 (State.unask s x2 x3) := by
  unfold State.unask
  extract_lets n1
  refine Keeps.upd ?_ rfl rfl rfl --UPD .pwr
  assumption

theorem State.tickFree_keeps {s0 s : State} (h : Keeps s0 s) :
    Keeps s0 (State.tickFree s) := by
  unfold State.tickFree
  refine Keeps.upd ?_ rfl rfl rfl --UPD .free
  assumption

end Sys2Proof.Machine
end

