-- ==== Sys2Proof/Laws/KeepsComplete.lean ====
section
/-!
SUPPORT. What every operation of Machine/Complete.lean keeps (Laws/Keeps.lean).
-/

set_option Elab.async false

namespace Sys2Proof.Machine

theorem State.mgmtDone_keeps {s0 s : State} {x2 x3} (h : Keeps s0 s) :
    Keeps s0 (State.mgmtDone s x2 x3) := by
  unfold State.mgmtDone
  extract_lets n1 n2
  refine Keeps.upd ?_ rfl rfl rfl --UPD .grp
  assumption

theorem State.coalesce_keeps {s0 s : State} {x2} (h : Keeps s0 s) :
    Keeps s0 (State.coalesce s x2) := by
  unfold State.coalesce
  extract_lets n1 n2 s3
  have hs3 : Keeps s0 s3 := by
    unfold s3
    refine Keeps.upd ?_ rfl rfl rfl --UPD .sq
    assumption
  clear_value s3
  refine Keeps.ite ?_ ?_
  · exact State.signal_keeps (by assumption)
  · refine Keeps.upd ?_ rfl rfl rfl --UPD .sq
    assumption

theorem State.setSlot_keeps {s0 s : State} {x2 x3} (h : Keeps s0 s) :
    Keeps s0 (State.setSlot s x2 x3) := by
  unfold State.setSlot
  extract_lets n1
  refine Keeps.upd ?_ rfl rfl rfl --UPD .sq
  assumption

theorem State.release_keeps {s0 s : State} {x2 x3} (h : Keeps s0 s) :
    Keeps s0 (State.release s x2 x3) := by
  unfold State.release
  split
  · extract_lets n1
    exact State.setSlot_keeps (by assumption)
  · exact State.wri_keeps (by assumption)
  · assumption

theorem State.writeEntry_keeps {s0 s : State} {x2 x3} (h : Keeps s0 s) :
    Keeps s0 (State.writeEntry s x2 x3) := by
  unfold State.writeEntry
  extract_lets n1 n2 n3 n4 s5 s6
  have hs5 : Keeps s0 s5 := by
    unfold s5
    exact State.emit_keeps (by assumption)
  clear_value s5
  have hs6 : Keeps s0 s6 := by
    unfold s6
    refine Keeps.ite ?_ ?_
    · refine State.wri_keeps ?_
      exact State.wri_keeps (by assumption)
    · exact State.wri_keeps (by assumption)
  clear_value s6
  refine State.coalesce_keeps ?_
  exact State.release_keeps (by assumption)

theorem State.postRaw_keeps {s0 s : State} {x2} (h : Keeps s0 s) :
    Keeps s0 (State.postRaw s x2) := by
  unfold State.postRaw
  split
  · exact State.mgmtDone_keeps (by assumption)
  · extract_lets n1
    refine Keeps.ite ?_ ?_
    · refine Keeps.upd ?_ rfl rfl rfl --UPD .sq
      assumption
    · exact State.writeEntry_keeps (by assumption)

theorem State.dropCmd_keeps {s0 s : State} {x2} (h : Keeps s0 s) : Keeps s0 (State.dropCmd s x2) := by
  refine ⟨h.queue, h.out, h.fuses, fun hs => ?_⟩
  obtain ⟨u, a, b, c, d⟩ := h.inv hs
  exact ⟨⟨u.1.sublist (List.filter_sublist.map _), fun c hc => u.2 c (List.mem_filter.mp hc).1⟩, a, b, c, d⟩

theorem State.resolveAborts_keeps {s0 s : State} {x2} (h : Keeps s0 s) :
    Keeps s0 (State.resolveAborts s x2) := by
  unfold State.resolveAborts
  extract_lets n1 n2 s3
  have hs3 : Keeps s0 s3 := by
    unfold s3
    refine Keeps.upd ?_ rfl rfl rfl --UPD .sq
    assumption
  clear_value s3
  refine Keeps.foldl _ ?_ (fun s _ h => ?_)
  · assumption
  · split
    · refine State.postRaw_keeps ?_
      exact State.dropCmd_keeps (by assumption)
    · assumption

theorem State.post_keeps {s0 s : State} {x2} (h : Keeps s0 s) :
    Keeps s0 (State.post s x2) := by
  unfold State.post
  extract_lets n1 s2
  have hs2 : Keeps s0 s2 := by
    unfold s2
    exact State.postRaw_keeps (by assumption)
  clear_value s2
  refine Keeps.ite ?_ ?_
  · exact State.resolveAborts_keeps (by assumption)
  · assumption

theorem State.syncIngest_keeps {s0 s : State} (h : Keeps s0 s) :
    Keeps s0 (State.syncIngest s) := by
  unfold State.syncIngest
  exact State.setIngest_keeps (by assumption)

theorem State.settle_keeps {s0 s : State} {x1} (h : Keeps s0 s) :
    Keeps s0 (State.settle x1 s) := by
  induction x1 generalizing s with
  | zero =>
    rw [State.settle]
    assumption
  | succ n ih =>
    rw [State.settle]
    split
    · refine ih ?_
      refine State.post_keeps ?_
      exact State.dropCmd_keeps (by assumption)
    · assumption

theorem State.finishWith_keeps {s0 s : State} {x2 x3 x4 x5 x6} (h : Keeps s0 s) :
    Keeps s0 (State.finishWith s x2 x3 x4 x5 x6) := by
  unfold State.finishWith
  extract_lets s1
  have hs1 : Keeps s0 s1 := by
    unfold s1
    refine State.post_keeps ?_
    refine State.syncIngest_keeps ?_
    exact State.dropCmd_keeps (by assumption)
  clear_value s1
  exact State.settle_keeps (by assumption)

theorem State.finish_keeps {s0 s : State} {x2 x3 x4 x5} (h : Keeps s0 s) :
    Keeps s0 (State.finish s x2 x3 x4 x5) := by
  unfold State.finish
  exact State.finishWith_keeps (by assumption)

theorem State.conflict_keeps {s0 s : State} {x2 x3 x4 x5} (h : Keeps s0 s) :
    Keeps s0 (State.conflict s x2 x3 x4 x5) := by
  unfold State.conflict
  exact State.finishWith_keeps (by assumption)

theorem State.setCmd_keeps {s0 s : State} {x2} (h : Keeps s0 s) : Keeps s0 (State.setCmd s x2) := by
  refine ⟨h.queue, h.out, h.fuses, fun hs => ?_⟩
  obtain ⟨u, a, b, c, d⟩ := h.inv hs
  refine ⟨SqSt.uidsOk_map u (f := fun d => if d.uid = x2.uid then x2 else d) (fun c => ?_) rfl rfl, a, b, c, d⟩
  split
  · next e => exact e.symm
  · rfl

theorem State.fail_keeps {s0 s : State} {x2 x3} (h : Keeps s0 s) :
    Keeps s0 (State.fail s x2 x3) := by
  unfold State.fail
  exact State.finishWith_keeps (by assumption)

theorem State.sqErr_keeps {s0 s : State} {x2 x3 x4} (h : Keeps s0 s) :
    Keeps s0 (State.sqErr s x2 x3 x4) := by
  unfold State.sqErr
  refine State.wr_keeps ?_
  refine State.wr_keeps ?_
  refine State.wr_keeps ?_
  exact State.wr_keeps (by assumption)

theorem State.drainHeld_keeps {s0 s : State} {x1 x2} (h : Keeps s0 s) :
    Keeps s0 (State.drainHeld x1 x2 s) := by
  induction x1 generalizing x2 s with
  | zero =>
    rw [State.drainHeld]
    assumption
  | succ n ih =>
    rw [State.drainHeld]
    extract_lets n1 s2
    have hs2 : Keeps s0 s2 := by
      unfold s2
      refine Keeps.upd ?_ rfl rfl rfl --UPD .sq
      assumption
    clear_value s2
    refine Keeps.ite ?_ ?_
    · assumption
    · split
      · assumption
      · extract_lets s3
        have hs3 : Keeps s0 s3 := by
          unfold s3
          refine State.resolveAborts_keeps ?_
          exact State.writeEntry_keeps (by assumption)
        clear_value s3
        exact ih (by assumption)

end Sys2Proof.Machine
end

