-- ==== Sys2Proof/Laws/Only.lean ====
section
/-!
SUPPORT. Which parts of the state an operation leaves alone: `Only l s t` says that `t`, made of `s`, differs from it in
the parts of `l` only. A field of the register file is told from another by its place.
-/

set_option Elab.async false

namespace Sys2Proof.Machine

theorem Field.key_inj {f g : Field} {i j k l : Nat} (h : f.key i j = g.key k l) :
    f.place = g.place ∧ i % 2 ^ 16 = k % 2 ^ 16 ∧ j % 2 ^ 16 = l % 2 ^ 16 := by
  simp only [Field.key] at h
  omega

/-- A field written reads back the value cut to its width. -/
theorem State.fget_fset_same (s : State) (f : Field) (i j v : Nat) :
    (s.fset f i j v).fget f i j = v % 2 ^ Nat.min f.w 32 := by
  simp only [State.fget, State.fset, Regs.dom_setDom_same, Store.get_put_same]

/-- A write to a field leaves every field at another place alone. -/
theorem State.fget_fset_other (s : State) {f g : Field} (i j v k l : Nat) (h : g.place ≠ f.place) :
    (s.fset f i j v).fget g k l = s.fget g k l := by
  by_cases hd : g.dom = f.dom
  · simp only [State.fget, State.fset, hd, Regs.dom_setDom_same]
    by_cases hk : g.key k l = f.key i j
    · exact absurd (Field.key_inj hk).1 h
    · rw [Store.get_put_other _ _ _ _ hk]
  · simp only [State.fget, State.fset, Regs.dom_setDom_other _ _ _ _ hd]

/-- A write to a field at one index leaves it alone at every other. -/
theorem State.fget_fset_index (s : State) (f : Field) (i j v k l : Nat)
    (h : k % 2 ^ 16 ≠ i % 2 ^ 16 ∨ l % 2 ^ 16 ≠ j % 2 ^ 16) : (s.fset f i j v).fget f k l = s.fget f k l := by
  simp only [State.fget, State.fset, Regs.dom_setDom_same]
  by_cases hk : f.key k l = f.key i j
  · have := Field.key_inj hk; omega
  · rw [Store.get_put_other _ _ _ _ hk]

theorem Field.block_place {f g : Field} (h : f.place = g.place) : f.block = g.block := by
  simp only [Field.place, Field.block] at *
  omega

theorem Part.same_regs {s t : State} (h : t.regs = s.regs) (b : Nat) : (Part.regs b).same s t := by
  intro f _ _ i j
  simp only [State.fget, h]

/-- The blocks of registers. -/
def mapBlocks : List Nat := [0, 1, 2, 3, 4, 8, 10, 12, 16, 20, 24, 28, 32, 33, 36, 40, 44, 48, 49]

/-- The blocks with a field that a read clears. -/
def clearBlocks : List Nat := [0, 1, 2, 4, 10, 12, 16, 20, 24, 28, 32, 36, 40, 44, 49]

set_option maxRecDepth 100000 in
theorem allFields_block : ∀ f ∈ allFields, f.block ∈ mapBlocks := by decide +kernel

set_option maxRecDepth 100000 in
theorem allFields_clear : ∀ f ∈ allFields, f.acc = .rc → f.block ∈ clearBlocks := by decide +kernel

theorem mem_fieldsAt {off : Nat} {p : Field × Nat × Nat} (h : p ∈ fieldsAt off) : p.1 ∈ allFields := by
  simp only [fieldsAt, blockFields, List.mem_filterMap] at h
  obtain ⟨f, hf, h⟩ := h
  split at hf
  · next b hb =>
    have : p.1 = f := by
      cases hi : f.indexAt off with
      | none => simp [hi] at h
      | some ij => simp [hi] at h; rw [← h]
    rw [this]
    exact List.mem_flatMap.mpr ⟨b, List.mem_of_find?_eq_some hb, hf⟩
  · exact nomatch hf

theorem Part.one {p : Part} {l : List Part} (h : p ∈ l) : [p] ⊆ l := fun _ hx => List.mem_singleton.mp hx ▸ h

theorem Part.sub {a b c : List Part} (h : b ⊆ c) (h2 : a ⊆ b) : a ⊆ c := fun _ x => h (h2 x)

namespace Only

variable {L : List Part} {s0 s t : State}

theorem refl (s : State) : Only L s s := fun p _ => by cases p <;> first | rfl | exact fun _ _ _ _ _ => rfl

theorem mono {l : List Part} (h : Only l s t) (hl : l ⊆ L) : Only L s t := fun p hp => h p fun h => hp (hl h)

theorem trans {r : State} (h1 : Only L r s) (h2 : Only L s t) : Only L r t := by
  intro p hp
  have a := h1 p hp
  have b := h2 p hp
  cases p <;> first | exact b.trans a | exact fun f hf h i j => (b f hf h i j).trans (a f hf h i j)

/-- A record update, part by part: each part either may differ or is the same. -/
theorem upd {pending : List Instr} {out : List Output} {free : Nat} {host : HostSt} {sq : SqSt} {obj : ObjSt}
    {life : LifeSt} {boot : BootSt} {tape : TapeSt} {mot : MotSt} {disk : DiskSt} {det : DetSt} {medium : MediumSt}
    {wra : WraSt} {ctl : CtlSt} {trc : TrcSt} {grp : GrpSt} {red : RedSt} {pwr : PwrSt} {mem : MemSt} {pins : PinSt}
    (l : List Part) (hl : l ⊆ L) (h : Only L s0 s)
    (e : Only l s { pending := pending, out := out, free := free, regs := s.regs, host := host, sq := sq, obj := obj,
                     life := life, boot := boot, tape := tape, mot := mot, disk := disk, det := det, medium := medium,
                     wra := wra, ctl := ctl, trc := trc, grp := grp, red := red, pwr := pwr, mem := mem, pins := pins }) :
    Only L s0 { pending := pending, out := out, free := free, regs := s.regs, host := host, sq := sq, obj := obj,
                 life := life, boot := boot, tape := tape, mot := mot, disk := disk, det := det, medium := medium,
                 wra := wra, ctl := ctl, trc := trc, grp := grp, red := red, pwr := pwr, mem := mem, pins := pins } :=
  h.trans (e.mono hl)

theorem updOut {x : List Output} (hl : [Part.out] ⊆ L) (h : Only L s0 s) : Only L s0 { s with out := x } :=
  h.trans fun p hp => by cases p <;> first | rfl | exact fun _ _ _ _ _ => rfl | exact absurd (hl (by decide)) hp

theorem updFree {x : Nat} (hl : [Part.free] ⊆ L) (h : Only L s0 s) : Only L s0 { s with free := x } :=
  h.trans fun p hp => by cases p <;> first | rfl | exact fun _ _ _ _ _ => rfl | exact absurd (hl (by decide)) hp

theorem updHost {x : HostSt} (hl : [Part.host] ⊆ L) (h : Only L s0 s) : Only L s0 { s with host := x } :=
  h.trans fun p hp => by cases p <;> first | rfl | exact fun _ _ _ _ _ => rfl | exact absurd (hl (by decide)) hp

theorem updSq {x : SqSt} (hl : [Part.sq] ⊆ L) (h : Only L s0 s) : Only L s0 { s with sq := x } :=
  h.trans fun p hp => by cases p <;> first | rfl | exact fun _ _ _ _ _ => rfl | exact absurd (hl (by decide)) hp

theorem updObj {x : ObjSt} (hl : [Part.obj] ⊆ L) (h : Only L s0 s) : Only L s0 { s with obj := x } :=
  h.trans fun p hp => by cases p <;> first | rfl | exact fun _ _ _ _ _ => rfl | exact absurd (hl (by decide)) hp

theorem updLife {x : LifeSt} (hl : [Part.life] ⊆ L) (h : Only L s0 s) : Only L s0 { s with life := x } :=
  h.trans fun p hp => by cases p <;> first | rfl | exact fun _ _ _ _ _ => rfl | exact absurd (hl (by decide)) hp

theorem updBoot {x : BootSt} (hl : [Part.boot] ⊆ L) (h : Only L s0 s) : Only L s0 { s with boot := x } :=
  h.trans fun p hp => by cases p <;> first | rfl | exact fun _ _ _ _ _ => rfl | exact absurd (hl (by decide)) hp

theorem updTape {x : TapeSt} (hl : [Part.tape] ⊆ L) (h : Only L s0 s) : Only L s0 { s with tape := x } :=
  h.trans fun p hp => by cases p <;> first | rfl | exact fun _ _ _ _ _ => rfl | exact absurd (hl (by decide)) hp

theorem updMot {x : MotSt} (hl : [Part.mot] ⊆ L) (h : Only L s0 s) : Only L s0 { s with mot := x } :=
  h.trans fun p hp => by cases p <;> first | rfl | exact fun _ _ _ _ _ => rfl | exact absurd (hl (by decide)) hp

theorem updDisk {x : DiskSt} (hl : [Part.disk] ⊆ L) (h : Only L s0 s) : Only L s0 { s with disk := x } :=
  h.trans fun p hp => by cases p <;> first | rfl | exact fun _ _ _ _ _ => rfl | exact absurd (hl (by decide)) hp

theorem updDet {x : DetSt} (hl : [Part.det] ⊆ L) (h : Only L s0 s) : Only L s0 { s with det := x } :=
  h.trans fun p hp => by cases p <;> first | rfl | exact fun _ _ _ _ _ => rfl | exact absurd (hl (by decide)) hp

theorem updMedium {x : MediumSt} (hl : [Part.medium] ⊆ L) (h : Only L s0 s) : Only L s0 { s with medium := x } :=
  h.trans fun p hp => by cases p <;> first | rfl | exact fun _ _ _ _ _ => rfl | exact absurd (hl (by decide)) hp

theorem updWra {x : WraSt} (hl : [Part.wra] ⊆ L) (h : Only L s0 s) : Only L s0 { s with wra := x } :=
  h.trans fun p hp => by cases p <;> first | rfl | exact fun _ _ _ _ _ => rfl | exact absurd (hl (by decide)) hp

theorem updCtl {x : CtlSt} (hl : [Part.ctl] ⊆ L) (h : Only L s0 s) : Only L s0 { s with ctl := x } :=
  h.trans fun p hp => by cases p <;> first | rfl | exact fun _ _ _ _ _ => rfl | exact absurd (hl (by decide)) hp

theorem updTrc {x : TrcSt} (hl : [Part.trc] ⊆ L) (h : Only L s0 s) : Only L s0 { s with trc := x } :=
  h.trans fun p hp => by cases p <;> first | rfl | exact fun _ _ _ _ _ => rfl | exact absurd (hl (by decide)) hp

theorem updGrp {x : GrpSt} (hl : [Part.grp] ⊆ L) (h : Only L s0 s) : Only L s0 { s with grp := x } :=
  h.trans fun p hp => by cases p <;> first | rfl | exact fun _ _ _ _ _ => rfl | exact absurd (hl (by decide)) hp

theorem updRed {x : RedSt} (hl : [Part.red] ⊆ L) (h : Only L s0 s) : Only L s0 { s with red := x } :=
  h.trans fun p hp => by cases p <;> first | rfl | exact fun _ _ _ _ _ => rfl | exact absurd (hl (by decide)) hp

theorem updPwr {x : PwrSt} (hl : [Part.pwr] ⊆ L) (h : Only L s0 s) : Only L s0 { s with pwr := x } :=
  h.trans fun p hp => by cases p <;> first | rfl | exact fun _ _ _ _ _ => rfl | exact absurd (hl (by decide)) hp

theorem updMem {x : MemSt} (hl : [Part.mem] ⊆ L) (h : Only L s0 s) : Only L s0 { s with mem := x } :=
  h.trans fun p hp => by cases p <;> first | rfl | exact fun _ _ _ _ _ => rfl | exact absurd (hl (by decide)) hp

theorem updPins {x : PinSt} (hl : [Part.pins] ⊆ L) (h : Only L s0 s) : Only L s0 { s with pins := x } :=
  h.trans fun p hp => by cases p <;> first | rfl | exact fun _ _ _ _ _ => rfl | exact absurd (hl (by decide)) hp

theorem fset {f : Field} {i j v : Nat} (hl : [Part.regs f.block] ⊆ L) (h : Only L s0 s) :
    Only L s0 (s.fset f i j v) := by
  refine h.trans fun p hp => ?_
  cases p with
  | regs b =>
    intro g _ hg k l
    refine State.fget_fset_other s i j v k l fun hpl => hp (hl ?_)
    rw [← hg, Field.block_place hpl]
    exact List.mem_singleton.mpr rfl
  | _ => rfl

/-- The block of a field of the map is one of the blocks of the map. -/
theorem regs_mem {l : List Part} {b : Nat} (f : Field) (hf : f ∈ allFields) (hb : f.block = b)
    (hl : mapBlocks.map Part.regs ⊆ l) : Part.regs b ∈ l :=
  hl (List.mem_map_of_mem (hb ▸ allFields_block f hf))

theorem foldlMem {β : Type} {f : State → β → State} (l : List β) (h : Only L s0 s)
    (hf : ∀ s x, x ∈ l → Only L s0 s → Only L s0 (f s x)) : Only L s0 (l.foldl f s) := by
  induction l generalizing s with
  | nil => exact h
  | cons x t ih =>
    exact ih (hf _ _ List.mem_cons_self h) (fun s y hy => hf s y (List.mem_cons_of_mem _ hy))

theorem ite {c : Prop} [Decidable c] {a b : State} (h1 : Only L s0 a) (h2 : Only L s0 b) :
    Only L s0 (if c then a else b) := by
  split <;> assumption

theorem foldl {β : Type} {f : State → β → State} (l : List β) (h : Only L s0 s)
    (hf : ∀ s x, Only L s0 s → Only L s0 (f s x)) : Only L s0 (l.foldl f s) := by
  induction l generalizing s with
  | nil => exact h
  | cons x t ih => exact ih (hf _ _ h)

theorem foldlPair {β γ : Type} {f : State × γ → β → State × γ} {a : State × γ} (l : List β) (h : Only L s0 a.1)
    (hf : ∀ a x, Only L s0 a.1 → Only L s0 (f a x).1) : Only L s0 (l.foldl f a).1 := by
  induction l generalizing a with
  | nil => exact h
  | cons x t ih => exact ih (hf _ _ h)

/-- The state of a pair differs in the parts of the list only. -/
def Pair {β : Type} (L : List Part) (s0 : State) (p : State × β) : Prop := Only L s0 p.1

/-- So does a state that an optional answer holds. -/
def Opt (L : List Part) (s0 : State) (o : Option State) : Prop := ∀ t, o = some t → Only L s0 t

/-- So does the next state that an outcome is. -/
def Out (L : List Part) (s0 : State) (o : Host.Outcome State Fault Refusal) : Prop := ∃ t, o = .next t ∧ Only L s0 t

theorem pair {β : Type} {r : β} (h : Only L s0 t) : Pair L s0 (t, r) := h

theorem fst {β : Type} {p : State × β} (h : Pair L s0 p) : Only L s0 p.1 := h

theorem next (h : Only L s0 t) : Out L s0 (.next t) := ⟨t, rfl, h⟩

theorem none : Opt L s0 Option.none := fun _ h => nomatch h

theorem some (h : Only L s0 t) : Opt L s0 (Option.some t) := fun _ e => Option.some.inj e ▸ h

theorem of_eq {β : Type} {p : State × β} {r : β} (h : Pair L s0 p) (e : p = (t, r)) : Only L s0 t := by
  rw [e] at h; exact h

theorem of_opt {o : Option State} (h : Opt L s0 o) (e : o = Option.some t) : Only L s0 t := h t e

theorem getD {o : Option State} (h : Opt L s0 o) (h2 : Only L s0 s) : Only L s0 (o.getD s) := by
  cases o with
  | none => exact h2
  | some t => exact h t rfl

theorem itePair {β : Type} {c : Prop} [Decidable c] {a b : State × β} (h1 : Pair L s0 a) (h2 : Pair L s0 b) :
    Pair L s0 (if c then a else b) := by
  split <;> assumption

theorem iteOpt {c : Prop} [Decidable c] {a b : Option State} (h1 : Opt L s0 a) (h2 : Opt L s0 b) :
    Opt L s0 (if c then a else b) := by
  split <;> assumption

theorem iteOut {c : Prop} [Decidable c] {a b : Host.Outcome State Fault Refusal} (h1 : Out L s0 a) (h2 : Out L s0 b) :
    Out L s0 (if c then a else b) := by
  split <;> assumption

end Only

end Sys2Proof.Machine
end

