-- ==== Sys2Proof/Laws/OnlyOps.lean ====
section
/-!
SUPPORT. The parts of the state that an operation of Machine/Ops.lean may change (Laws/Only.lean).
-/

set_option Elab.async false

namespace Sys2Proof.Machine

theorem State.emit_only {L : List Part} {s0 s : State} {x2}
    (hL : [.out] ⊆ L) (h : Only L s0 s) :
    Only L s0 (State.emit s x2) := Only.updOut hL h

theorem State.fset_only {L : List Part} {s0 s : State} {x2 x3 x4 x5}
    (hL : [.regs x2.block] ⊆ L) (h : Only L s0 s) :
    Only L s0 (State.fset s x2 x3 x4 x5) := Only.fset hL h

theorem State.wr_only {L : List Part} {s0 s : State} {x2 x3}
    (hL : [.regs x2.block] ⊆ L) (h : Only L s0 s) :
    Only L s0 (State.wr s x2 x3) := by
  unfold State.wr
  exact State.fset_only (Part.sub hL (by simp)) (by assumption)

theorem State.wri_only {L : List Part} {s0 s : State} {x2 x3 x4}
    (hL : [.regs x2.block] ⊆ L) (h : Only L s0 s) :
    Only L s0 (State.wri s x2 x3 x4) := by
  unfold State.wri
  exact State.fset_only (Part.sub hL (by simp)) (by assumption)

theorem State.signal_only {L : List Part} {s0 s : State} {x2 x3}
    (hL : [.out, .host] ⊆ L) (h : Only L s0 s) :
    Only L s0 (State.signal s x2 x3) := by
  unfold State.signal
  extract_lets n1 n2 n3
  refine Only.ite ?_ ?_
  · assumption
  · refine Only.ite ?_ ?_
    · refine Only.updHost (Part.sub hL (by decide)) ?_
      assumption
    · exact State.emit_only (Part.sub hL (by decide)) (by assumption)

theorem State.log_only {L : List Part} {s0 s : State} {x2 x3 x4 x5 x6 x7}
    (hL : [.life] ⊆ L) (h : Only L s0 s) :
    Only L s0 (State.log s x2 x3 x4 x5 x6 x7) := by
  unfold State.log
  extract_lets n1 n2
  refine Only.updLife (Part.sub hL (by decide)) ?_
  assumption

theorem State.pushEvt_only {L : List Part} {s0 s : State} {x2 x3 x4 x5}
    (hL : [.out, .host] ⊆ L) (h : Only L s0 s) :
    Only L s0 (State.pushEvt s x2 x3 x4 x5) := by
  unfold State.pushEvt
  refine Only.ite (State.signal_only (Part.sub hL (by decide)) ?_) ?_ <;>
    exact Only.updHost (Part.sub hL (by decide)) h

theorem State.raiseBit_only {L : List Part} {s0 s : State} {x2 x3}
    (hL : [.regs x2.block] ⊆ L) (h : Only L s0 s) :
    Only L s0 (State.raiseBit s x2 x3) := by
  unfold State.raiseBit
  exact State.wr_only (Part.sub hL (by simp)) (by assumption)

theorem State.addi_only {L : List Part} {s0 s : State} {x2 x3 x4}
    (hL : [.regs x2.block] ⊆ L) (h : Only L s0 s) :
    Only L s0 (State.addi s x2 x3 x4) := by
  unfold State.addi
  exact State.wri_only (Part.sub hL (by simp)) (by assumption)

theorem State.inci_only {L : List Part} {s0 s : State} {x2 x3}
    (hL : [.regs x2.block] ⊆ L) (h : Only L s0 s) :
    Only L s0 (State.inci s x2 x3) := by
  unfold State.inci
  exact State.addi_only (Part.sub hL (by simp)) (by assumption)

theorem State.countEvt_only {L : List Part} {s0 s : State} {x2}
    (hL : [.regs 0] ⊆ L) (h : Only L s0 s) :
    Only L s0 (State.countEvt s x2) := by
  unfold State.countEvt
  refine State.raiseBit_only (Part.sub hL (by decide)) ?_
  exact State.inci_only (Part.sub hL (by decide)) (by assumption)

theorem State.inc_only {L : List Part} {s0 s : State} {x2}
    (hL : [.regs x2.block] ⊆ L) (h : Only L s0 s) :
    Only L s0 (State.inc s x2) := by
  unfold State.inc
  exact State.addi_only (Part.sub hL (by simp)) (by assumption)

theorem State.enqueueEvt_only {L : List Part} {s0 s : State} {x2 x3 x4 x5}
    (hL : [.out, .host, .regs 0, .regs 4] ⊆ L) (h : Only L s0 s) :
    Only L s0 (State.enqueueEvt s x2 x3 x4 x5) := by
  unfold State.enqueueEvt
  refine Only.ite ?_ (Only.ite ?_ ?_)
  · exact State.pushEvt_only (Part.sub hL (by decide)) h
  · refine State.countEvt_only (Part.sub hL (by decide)) (State.wr_only (Part.sub hL (by decide)) ?_)
    exact State.pushEvt_only (Part.sub hL (by decide)) h
  · exact State.inc_only (Part.sub hL (by decide)) h

theorem State.trcTrigger_only {L : List Part} {s0 s : State}
    (hL : [.trc, .regs 49] ⊆ L) (h : Only L s0 s) :
    Only L s0 (State.trcTrigger s) := by
  unfold State.trcTrigger
  extract_lets n1 n2 n3 s4 s5
  have hs4 : Only L s0 s4 := by
    unfold s4
    refine Only.updTrc (Part.sub hL (by decide)) ?_
    assumption
  clear_value s4
  have hs5 : Only L s0 s5 := by
    unfold s5
    refine Only.foldl _ ?_ (fun s _ h => ?_)
    · assumption
    · extract_lets n6
      refine State.wri_only (Part.sub hL (by decide)) ?_
      exact State.wri_only (Part.sub hL (by decide)) (by assumption)
  clear_value s5
  refine Only.ite ?_ ?_
  · exact State.wr_only (Part.sub hL (by decide)) (by assumption)
  · assumption

theorem State.raiseFor_only {L : List Part} {s0 s : State} {x2 x3 x4 x5 x6 x7}
    (hL : [.out, .host, .life, .trc, .regs 0, .regs 4, .regs 49] ⊆ L) (h : Only L s0 s) :
    Only L s0 (State.raiseFor s x2 x3 x4 x5 x6 x7) := by
  unfold State.raiseFor
  extract_lets s1 s2
  have hs1 : Only L s0 s1 := by
    unfold s1
    refine Only.ite ?_ ?_
    · exact State.log_only (Part.sub hL (by decide)) (by assumption)
    · assumption
  clear_value s1
  have hs2 : Only L s0 s2 := by
    unfold s2
    refine State.enqueueEvt_only (Part.sub hL (by decide)) ?_
    exact State.countEvt_only (Part.sub hL (by decide)) (by assumption)
  clear_value s2
  refine Only.ite ?_ ?_
  · exact State.trcTrigger_only (Part.sub hL (by decide)) (by assumption)
  · assumption

theorem State.raise_only {L : List Part} {s0 s : State} {x2 x3 x4 x5}
    (hL : [.out, .host, .life, .trc, .regs 0, .regs 4, .regs 49] ⊆ L) (h : Only L s0 s) :
    Only L s0 (State.raise s x2 x3 x4 x5) := by
  unfold State.raise
  exact State.raiseFor_only (Part.sub hL (by decide)) (by assumption)

theorem State.setIngest_only {L : List Part} {s0 s : State} {x2}
    (hL : [.out, .host, .life, .trc, .regs 0, .regs 4, .regs 49] ⊆ L) (h : Only L s0 s) :
    Only L s0 (State.setIngest s x2) := by
  unfold State.setIngest
  extract_lets s1 s2 s3 s4
  have hs1 : Only L s0 s1 := by
    unfold s1
    exact State.wr_only (Part.sub hL (by decide)) (by assumption)
  clear_value s1
  have hs2 : Only L s0 s2 := by
    unfold s2
    refine Only.ite ?_ ?_
    · exact State.wr_only (Part.sub hL (by decide)) (by assumption)
    · assumption
  clear_value s2
  have hs3 : Only L s0 s3 := by
    unfold s3
    exact State.wr_only (Part.sub hL (by decide)) (by assumption)
  clear_value s3
  have hs4 : Only L s0 s4 := by
    unfold s4
    exact State.wr_only (Part.sub hL (by decide)) (by assumption)
  clear_value s4
  refine Only.ite ?_ ?_
  · refine Only.ite ?_ ?_
    · assumption
    · refine State.raise_only (Part.sub hL (by decide)) ?_
      exact State.wr_only (Part.sub hL (by decide)) (by assumption)
  · refine Only.ite ?_ ?_
    · refine Only.ite ?_ ?_
      · assumption
      · refine State.raise_only (Part.sub hL (by decide)) ?_
        exact State.wr_only (Part.sub hL (by decide)) (by assumption)
    · assumption

theorem State.add64_only {L : List Part} {s0 s : State} {x2 x3 x4}
    (hL : [.regs x2.block, .regs x3.block] ⊆ L) (h : Only L s0 s) :
    Only L s0 (State.add64 s x2 x3 x4) := by
  unfold State.add64
  extract_lets n1
  refine State.wr_only (Part.sub hL (by simp)) ?_
  exact State.wr_only (Part.sub hL (by simp)) (by assumption)

theorem State.lifeStep_only {L : List Part} {s0 s : State} {x2 x3 x4}
    (hL : [.out, .host, .life, .trc, .regs 0, .regs 4, .regs 49] ⊆ L) (h : Only L s0 s) :
    Only L s0 (State.lifeStep s x2 x3 x4) := by
  unfold State.lifeStep
  extract_lets n1 s2 s3
  have hs2 : Only L s0 s2 := by
    unfold s2
    refine Only.ite ?_ ?_
    · exact State.raise_only (Part.sub hL (by decide)) (by assumption)
    · assumption
  clear_value s2
  have hs3 : Only L s0 s3 := by
    unfold s3
    refine Only.ite ?_ ?_
    · exact State.raise_only (Part.sub hL (by decide)) (by assumption)
    · assumption
  clear_value s3
  refine Only.ite ?_ ?_
  · exact State.raise_only (Part.sub hL (by decide)) (by assumption)
  · assumption

theorem State.lifeAdd_only {L : List Part} {s0 s : State} {x2 x3}
    (hL : [.out, .host, .life, .trc, .regs 0, .regs 4, .regs 49] ⊆ L) (h : Only L s0 s) :
    Only L s0 (State.lifeAdd s x2 x3) := by
  unfold State.lifeAdd
  extract_lets n1 n2 n3
  refine State.lifeStep_only (Part.sub hL (by decide)) ?_
  refine Only.updLife (Part.sub hL (by decide)) ?_
  assumption

theorem State.ask_only {L : List Part} {s0 s : State} {x2 x3 x4}
    (hL : [.pwr] ⊆ L) (h : Only L s0 s) :
    Only L s0 (State.ask s x2 x3 x4) := by
  unfold State.ask
  extract_lets n1 n2
  refine Only.ite ?_ ?_
  · assumption
  · refine Only.updPwr (Part.sub hL (by decide)) ?_
    assumption

theorem State.putBit_only {L : List Part} {s0 s : State} {x2 x3 x4}
    (hL : [.regs x2.block] ⊆ L) (h : Only L s0 s) :
    Only L s0 (State.putBit s x2 x3 x4) := by
  unfold State.putBit
  exact State.wr_only (Part.sub hL (by simp)) (by assumption)

theorem State.unask_only {L : List Part} {s0 s : State} {x2 x3}
    (hL : [.pwr] ⊆ L) (h : Only L s0 s) :
    Only L s0 (State.unask s x2 x3) := by
  unfold State.unask
  extract_lets n1
  refine Only.updPwr (Part.sub hL (by decide)) ?_
  assumption

theorem State.tickFree_only {L : List Part} {s0 s : State}
    (hL : [.free] ⊆ L) (h : Only L s0 s) :
    Only L s0 (State.tickFree s) := by
  unfold State.tickFree
  refine Only.updFree (Part.sub hL (by decide)) ?_
  assumption

end Sys2Proof.Machine
end

