-- ==== Sys2Proof/Laws/OnlyComplete.lean ====
section
/-!
SUPPORT. The parts of the state that an operation of Machine/Complete.lean may change (Laws/Only.lean).
-/

set_option Elab.async false

namespace Sys2Proof.Machine

theorem State.mgmtDone_only {L : List Part} {s0 s : State} {x2 x3}
    (hL : [.grp] ⊆ L) (h : Only L s0 s) :
    Only L s0 (State.mgmtDone s x2 x3) := by
  unfold State.mgmtDone
  extract_lets n1 n2
  refine Only.updGrp (Part.sub hL (by decide)) ?_
  assumption

theorem State.coalesce_only {L : List Part} {s0 s : State} {x2}
    (hL : [.out, .host, .sq] ⊆ L) (h : Only L s0 s) :
    Only L s0 (State.coalesce s x2) := by
  unfold State.coalesce
  extract_lets n1 n2 s3
  have hs3 : Only L s0 s3 := by
    unfold s3
    refine Only.updSq (Part.sub hL (by decide)) ?_
    assumption
  clear_value s3
  refine Only.ite ?_ ?_
  · exact State.signal_only (Part.sub hL (by decide)) (by assumption)
  · refine Only.updSq (Part.sub hL (by decide)) ?_
    assumption

theorem State.setSlot_only {L : List Part} {s0 s : State} {x2 x3}
    (hL : [.sq] ⊆ L) (h : Only L s0 s) :
    Only L s0 (State.setSlot s x2 x3) := by
  unfold State.setSlot
  extract_lets n1
  refine Only.updSq (Part.sub hL (by decide)) ?_
  assumption

theorem State.release_only {L : List Part} {s0 s : State} {x2 x3}
    (hL : [.sq, .regs 8] ⊆ L) (h : Only L s0 s) :
    Only L s0 (State.release s x2 x3) := by
  unfold State.release
  split
  · extract_lets n1
    exact State.setSlot_only (Part.sub hL (by decide)) (by assumption)
  · exact State.wri_only (Part.sub hL (by decide)) (by assumption)
  · assumption

theorem State.writeEntry_only {L : List Part} {s0 s : State} {x2 x3}
    (hL : [.out, .host, .sq, .regs 8] ⊆ L) (h : Only L s0 s) :
    Only L s0 (State.writeEntry s x2 x3) := by
  unfold State.writeEntry
  extract_lets n1 n2 n3 n4 s5 s6
  have hs5 : Only L s0 s5 := by
    unfold s5
    exact State.emit_only (Part.sub hL (by decide)) (by assumption)
  clear_value s5
  have hs6 : Only L s0 s6 := by
    unfold s6
    refine Only.ite ?_ ?_
    · refine State.wri_only (Part.sub hL (by decide)) ?_
      exact State.wri_only (Part.sub hL (by decide)) (by assumption)
    · exact State.wri_only (Part.sub hL (by decide)) (by assumption)
  clear_value s6
  refine State.coalesce_only (Part.sub hL (by decide)) ?_
  exact State.release_only (Part.sub hL (by decide)) (by assumption)

theorem State.postRaw_only {L : List Part} {s0 s : State} {x2}
    (hL : [.out, .host, .sq, .grp, .regs 8] ⊆ L) (h : Only L s0 s) :
    Only L s0 (State.postRaw s x2) := by
  unfold State.postRaw
  split
  · exact State.mgmtDone_only (Part.sub hL (by decide)) (by assumption)
  · extract_lets n1
    refine Only.ite ?_ ?_
    · refine Only.updSq (Part.sub hL (by decide)) ?_
      assumption
    · exact State.writeEntry_only (Part.sub hL (by decide)) (by assumption)

theorem State.dropCmd_only {L : List Part} {s0 s : State} {x2}
    (hL : [.sq] ⊆ L) (h : Only L s0 s) :
    Only L s0 (State.dropCmd s x2) := by
  unfold State.dropCmd
  extract_lets n1
  refine Only.updSq (Part.sub hL (by decide)) ?_
  assumption

theorem State.resolveAborts_only {L : List Part} {s0 s : State} {x2}
    (hL : [.out, .host, .sq, .grp, .regs 8] ⊆ L) (h : Only L s0 s) :
    Only L s0 (State.resolveAborts s x2) := by
  unfold State.resolveAborts
  extract_lets n1 n2 s3
  have hs3 : Only L s0 s3 := by
    unfold s3
    refine Only.updSq (Part.sub hL (by decide)) ?_
    assumption
  clear_value s3
  refine Only.foldl _ ?_ (fun s _ h => ?_)
  · assumption
  · split
    · refine State.postRaw_only (Part.sub hL (by decide)) ?_
      exact State.dropCmd_only (Part.sub hL (by decide)) (by assumption)
    · assumption

theorem State.post_only {L : List Part} {s0 s : State} {x2}
    (hL : [.out, .host, .sq, .grp, .regs 8] ⊆ L) (h : Only L s0 s) :
    Only L s0 (State.post s x2) := by
  unfold State.post
  extract_lets n1 s2
  have hs2 : Only L s0 s2 := by
    unfold s2
    exact State.postRaw_only (Part.sub hL (by decide)) (by assumption)
  clear_value s2
  refine Only.ite ?_ ?_
  · exact State.resolveAborts_only (Part.sub hL (by decide)) (by assumption)
  · assumption

theorem State.syncIngest_only {L : List Part} {s0 s : State}
    (hL : [.out, .host, .life, .trc, .regs 0, .regs 4, .regs 49] ⊆ L) (h : Only L s0 s) :
    Only L s0 (State.syncIngest s) := by
  unfold State.syncIngest
  exact State.setIngest_only (Part.sub hL (by decide)) (by assumption)

theorem State.settle_only {L : List Part} {s0 s : State} {x1}
    (hL : [.out, .host, .sq, .grp, .regs 8] ⊆ L) (h : Only L s0 s) :
    Only L s0 (State.settle x1 s) := by
  induction x1 generalizing s with
  | zero =>
    rw [State.settle]
    assumption
  | succ n ih =>
    rw [State.settle]
    split
    · refine ih ?_
      refine State.post_only (Part.sub hL (by decide)) ?_
      exact State.dropCmd_only (Part.sub hL (by decide)) (by assumption)
    · assumption

theorem State.finishWith_only {L : List Part} {s0 s : State} {x2 x3 x4 x5 x6}
    (hL : [.out, .host, .sq, .life, .trc, .grp, .regs 0, .regs 4, .regs 8, .regs 49] ⊆ L) (h : Only L s0 s) :
    Only L s0 (State.finishWith s x2 x3 x4 x5 x6) := by
  unfold State.finishWith
  extract_lets s1
  have hs1 : Only L s0 s1 := by
    unfold s1
    refine State.post_only (Part.sub hL (by decide)) ?_
    refine State.syncIngest_only (Part.sub hL (by decide)) ?_
    exact State.dropCmd_only (Part.sub hL (by decide)) (by assumption)
  clear_value s1
  exact State.settle_only (Part.sub hL (by decide)) (by assumption)

theorem State.finish_only {L : List Part} {s0 s : State} {x2 x3 x4 x5}
    (hL : [.out, .host, .sq, .life, .trc, .grp, .regs 0, .regs 4, .regs 8, .regs 49] ⊆ L) (h : Only L s0 s) :
    Only L s0 (State.finish s x2 x3 x4 x5) := by
  unfold State.finish
  exact State.finishWith_only (Part.sub hL (by decide)) (by assumption)

theorem State.conflict_only {L : List Part} {s0 s : State} {x2 x3 x4 x5}
    (hL : [.out, .host, .sq, .life, .trc, .grp, .regs 0, .regs 4, .regs 8, .regs 49] ⊆ L) (h : Only L s0 s) :
    Only L s0 (State.conflict s x2 x3 x4 x5) := by
  unfold State.conflict
  exact State.finishWith_only (Part.sub hL (by decide)) (by assumption)

theorem State.setCmd_only {L : List Part} {s0 s : State} {x2}
    (hL : [.sq] ⊆ L) (h : Only L s0 s) :
    Only L s0 (State.setCmd s x2) := by
  unfold State.setCmd
  extract_lets n1
  refine Only.updSq (Part.sub hL (by decide)) ?_
  assumption

theorem State.fail_only {L : List Part} {s0 s : State} {x2 x3}
    (hL : [.out, .host, .sq, .life, .trc, .grp, .regs 0, .regs 4, .regs 8, .regs 49] ⊆ L) (h : Only L s0 s) :
    Only L s0 (State.fail s x2 x3) := by
  unfold State.fail
  exact State.finishWith_only (Part.sub hL (by decide)) (by assumption)

theorem State.sqErr_only {L : List Part} {s0 s : State} {x2 x3 x4}
    (hL : [.regs 8, .regs x2.block] ⊆ L) (h : Only L s0 s) :
    Only L s0 (State.sqErr s x2 x3 x4) := by
  unfold State.sqErr
  have h1 := State.wr_only (x2 := x2) (x3 := 1) (Part.sub hL (by simp)) h
  exact State.wr_only (Part.sub hL (by simp [Field.block, F.SQ_ERR_SOURCE_KIND])) (State.wr_only (Part.sub hL (by
    simp [Field.block, F.SQ_ERR_SOURCE_BIT])) (State.wr_only (Part.sub hL (by simp [Field.block, F.SQ_ERR_SOURCE_ID])) h1))

theorem State.drainHeld_only {L : List Part} {s0 s : State} {x1 x2}
    (hL : [.out, .host, .sq, .grp, .regs 8] ⊆ L) (h : Only L s0 s) :
    Only L s0 (State.drainHeld x1 x2 s) := by
  induction x1 generalizing x2 s with
  | zero =>
    rw [State.drainHeld]
    assumption
  | succ n ih =>
    rw [State.drainHeld]
    extract_lets n1 s2
    have hs2 : Only L s0 s2 := by
      unfold s2
      refine Only.updSq (Part.sub hL (by decide)) ?_
      assumption
    clear_value s2
    refine Only.ite ?_ ?_
    · assumption
    · split
      · assumption
      · extract_lets s3
        have hs3 : Only L s0 s3 := by
          unfold s3
          refine State.resolveAborts_only (Part.sub hL (by decide)) ?_
          exact State.writeEntry_only (Part.sub hL (by decide)) (by assumption)
        clear_value s3
        exact ih (by assumption)

end Sys2Proof.Machine
end

