-- ==== Sys2Proof/Laws/Events.lean ====
section
/-!
SUPPORT. What raising an event does (R72, R127, R460): the item it leaves in the event FIFO, the registers it may write,
and everything it leaves alone.
-/

set_option Elab.async false

namespace Sys2Proof.Machine

/-- The places of the fields that raising an event may write: the event counts, the FIFO's overflow and loss, and the
trace unit's trigger. -/
def eventPlaces : List Nat :=
  [F.GLB_EVT_COUNT_COUNT, F.GLB_EVT_SEEN_TYPES, F.HIF_EVT_STATUS_OVERFLOW, F.HIF_EVT_LOST_COUNT,
   F.TRC_STATUS_STATE, F.TRC_CH_COUNT_COUNT, F.TRC_CH_TRIG_INDEX].map Field.place

@[simp] theorem State.fget_emit (s : State) (o : Output) (f : Field) (i j : Nat) : (s.emit o).fget f i j = s.fget f i j := rfl

@[simp] theorem State.fget_signal (s : State) (p : Bool) (v : Nat) (f : Field) (i j : Nat) :
    (s.signal p v).fget f i j = s.fget f i j := by
  simp only [State.signal]
  split
  · rfl
  · split <;> rfl

@[simp] theorem State.fget_log (s : State) (a b c d e g : Nat) (f : Field) (i j : Nat) :
    (s.log a b c d e g).fget f i j = s.fget f i j := rfl

@[simp] theorem State.fget_pushEvt (s : State) (a b c d : Nat) (f : Field) (i j : Nat) :
    (s.pushEvt a b c d).fget f i j = s.fget f i j := by
  simp only [State.pushEvt]
  split
  · rw [State.fget_signal]; rfl
  · rfl

theorem State.fget_addi (s : State) {f g : Field} (i n k l : Nat) (h : g.place ≠ f.place) :
    (s.addi f i n).fget g k l = s.fget g k l := State.fget_fset_other _ _ _ _ _ _ h

theorem State.fget_wri (s : State) {f g : Field} (i v k l : Nat) (h : g.place ≠ f.place) :
    (s.wri f i v).fget g k l = s.fget g k l := State.fget_fset_other _ _ _ _ _ _ h

theorem State.fget_wr (s : State) {f g : Field} (v k l : Nat) (h : g.place ≠ f.place) :
    (s.wr f v).fget g k l = s.fget g k l := State.fget_fset_other _ _ _ _ _ _ h

theorem State.fget_countEvt (s : State) (t : Nat) {f : Field} (i j : Nat) (h : f.place ∉ eventPlaces) :
    (s.countEvt t).fget f i j = s.fget f i j := by
  simp only [eventPlaces, List.map_cons, List.mem_cons, not_or] at h
  simp only [State.countEvt]
  rw [State.fget_wr _ _ _ _ h.2.1, State.fget_addi _ _ _ _ _ h.1]

theorem State.fget_enqueueEvt (s : State) (a b c d : Nat) {f : Field} (i j : Nat) (h : f.place ∉ eventPlaces) :
    (s.enqueueEvt a b c d).fget f i j = s.fget f i j := by
  have h' := h
  simp only [eventPlaces, List.map_cons, List.mem_cons, not_or] at h'
  simp only [State.enqueueEvt]
  split
  · exact State.fget_pushEvt _ _ _ _ _ _ _ _
  · split
    · rw [State.fget_countEvt _ _ _ _ h, State.fget_wr _ _ _ _ h'.2.2.1, State.fget_pushEvt]
    · exact State.fget_addi _ _ _ _ _ h'.2.2.2.1

theorem State.fget_trcTrigger (s : State) {f : Field} (i j : Nat) (h : f.place ∉ eventPlaces) :
    s.trcTrigger.fget f i j = s.fget f i j := by
  simp only [eventPlaces, List.map_cons, List.mem_cons, not_or] at h
  have fold : ∀ (l : List Nat) (s : State), (l.foldl (fun s c =>
      (s.wri F.TRC_CH_COUNT_COUNT c (Store.get [] s.trc.chans c).length).wri F.TRC_CH_TRIG_INDEX c
        (Store.get [] s.trc.chans c).length) s).fget f i j = s.fget f i j := by
    intro l
    induction l with
    | nil => exact fun _ => rfl
    | cons c t ih =>
      intro s
      rw [List.foldl_cons, ih, State.fget_wri _ _ _ _ _ h.2.2.2.2.2.2.1, State.fget_wri _ _ _ _ _ h.2.2.2.2.2.1]
  unfold State.trcTrigger
  split
  · rw [State.fget_wr _ _ _ _ h.2.2.2.2.1]
    exact fold _ _
  · rfl

/-- Raising an event leaves every field alone but the counts, the FIFO's overflow and loss, and the trace trigger. -/
theorem State.fget_raiseFor (s : State) (a b c d e g : Nat) {f : Field} (i j : Nat) (h : f.place ∉ eventPlaces) :
    (s.raiseFor a b c d e g).fget f i j = s.fget f i j := by
  have h0 : ∀ t : State, t.fget f i j = s.fget f i j →
      ((t.countEvt a).enqueueEvt a b c d).fget f i j = s.fget f i j := fun t ht => by
    rw [State.fget_enqueueEvt _ _ _ _ _ _ _ h, State.fget_countEvt _ _ _ _ h, ht]
  simp only [State.raiseFor]
  split <;> split <;>
    first
      | rw [State.fget_trcTrigger _ _ _ h]; exact h0 _ rfl
      | exact h0 _ rfl

@[simp] theorem State.trcTrigger_host (s : State) : s.trcTrigger.host = s.host := by
  simpa only [Part.same] using State.trcTrigger_only (L := [.trc, .regs 49]) (fun _ h => h) (Only.refl s) .host (by decide)

@[simp] theorem State.signal_evtFifo (s : State) (p : Bool) (v : Nat) : (s.signal p v).host.evtFifo = s.host.evtFifo := by
  simp only [State.signal]
  split
  · rfl
  · split <;> rfl

/-- With room in the event FIFO, raising an event puts its item last (R72). -/
theorem State.raiseFor_evtFifo (s : State) (a b c d e g : Nat) (h : s.host.evtFifo.length < 4095) :
    (s.raiseFor a b c d e g).host.evtFifo =
      s.host.evtFifo ++ [{ type := a, source := b, code := c, seq := s.host.evtSeq, arg := d }] := by
  have h0 : ∀ t : State, t.host = s.host → ((t.countEvt a).enqueueEvt a b c d).host.evtFifo =
      s.host.evtFifo ++ [{ type := a, source := b, code := c, seq := s.host.evtSeq, arg := d }] := fun t ht => by
    have hc : (t.countEvt a).host = s.host := ht
    simp only [State.enqueueEvt, hc, h, if_true, State.pushEvt]
    split
    · rw [State.signal_evtFifo]
    · rfl
  simp only [State.raiseFor]
  split <;> split <;>
    first
      | rw [State.trcTrigger_host]; exact h0 _ rfl
      | exact h0 _ rfl

/-- A state whose host side differs in the event FIFO and the vectors' pending bits only. -/
def SameHost (s t : State) : Prop :=
  ∃ l n m, t.host = { s.host with evtFifo := l, evtSeq := n, msix := m }

theorem SameHost.of_eq {s t : State} (h : t.host = s.host) : SameHost s t := ⟨_, _, _, h⟩

theorem SameHost.trans {r s t : State} (h1 : SameHost r s) (h2 : SameHost s t) : SameHost r t := by
  obtain ⟨l, n, m, h1⟩ := h1
  obtain ⟨l', n', m', h2⟩ := h2
  exact ⟨l', n', m', by rw [h2, h1]⟩

theorem State.signal_sameHost (s : State) (p : Bool) (v : Nat) : SameHost s (s.signal p v) := by
  simp only [State.signal]
  split
  · exact .of_eq rfl
  · split
    · exact ⟨_, _, _, rfl⟩
    · exact .of_eq rfl

theorem State.pushEvt_sameHost (s : State) (a b c d : Nat) : SameHost s (s.pushEvt a b c d) := by
  simp only [State.pushEvt]
  split
  · exact SameHost.trans ⟨_, _, _, rfl⟩ (State.signal_sameHost _ _ _)
  · exact ⟨_, _, _, rfl⟩

theorem State.enqueueEvt_sameHost (s : State) (a b c d : Nat) : SameHost s (s.enqueueEvt a b c d) := by
  simp only [State.enqueueEvt]
  split
  · exact State.pushEvt_sameHost _ _ _ _ _
  · split
    · exact (State.pushEvt_sameHost _ _ _ _ _).trans (.of_eq rfl)
    · exact .of_eq rfl

theorem State.raiseFor_sameHost (s : State) (a b c d e g : Nat) : SameHost s (s.raiseFor a b c d e g) := by
  have h : ∀ t : State, t.host = s.host → SameHost s ((t.countEvt a).enqueueEvt a b c d) := fun t ht =>
    SameHost.trans (s := t.countEvt a) (.of_eq ht) (State.enqueueEvt_sameHost _ _ _ _ _)
  simp only [State.raiseFor]
  split <;> split <;>
    first
      | exact (h (s.log a b c d e g) rfl).trans (.of_eq (State.trcTrigger_host _))
      | exact h (s.log a b c d e g) rfl
      | exact (h s rfl).trans (.of_eq (State.trcTrigger_host _))
      | exact h s rfl

@[simp] theorem State.raiseFor_readyOnce (s : State) (a b c d e g : Nat) :
    (s.raiseFor a b c d e g).host.readyOnce = s.host.readyOnce := by
  obtain ⟨l, n, m, h⟩ := s.raiseFor_sameHost a b c d e g
  rw [h]

@[simp] theorem State.raiseFor_perst (s : State) (a b c d e g : Nat) :
    (s.raiseFor a b c d e g).host.perst = s.host.perst := by
  obtain ⟨l, n, m, h⟩ := s.raiseFor_sameHost a b c d e g
  rw [h]

@[simp] theorem State.raiseFor_cfgDone (s : State) (a b c d e g : Nat) :
    (s.raiseFor a b c d e g).host.cfgDone = s.host.cfgDone := by
  obtain ⟨l, n, m, h⟩ := s.raiseFor_sameHost a b c d e g
  rw [h]

@[simp] theorem State.raiseFor_cfgSpace (s : State) (a b c d e g : Nat) :
    (s.raiseFor a b c d e g).host.cfgSpace = s.host.cfgSpace := by
  obtain ⟨l, n, m, h⟩ := s.raiseFor_sameHost a b c d e g
  rw [h]

@[simp] theorem State.raiseFor_aerUncA (s : State) (a b c d e g : Nat) :
    (s.raiseFor a b c d e g).host.aerUncA = s.host.aerUncA := by
  obtain ⟨l, n, m, h⟩ := s.raiseFor_sameHost a b c d e g
  rw [h]

@[simp] theorem State.raiseFor_aerUncB (s : State) (a b c d e g : Nat) :
    (s.raiseFor a b c d e g).host.aerUncB = s.host.aerUncB := by
  obtain ⟨l, n, m, h⟩ := s.raiseFor_sameHost a b c d e g
  rw [h]

@[simp] theorem State.raiseFor_aerCorA (s : State) (a b c d e g : Nat) :
    (s.raiseFor a b c d e g).host.aerCorA = s.host.aerCorA := by
  obtain ⟨l, n, m, h⟩ := s.raiseFor_sameHost a b c d e g
  rw [h]

@[simp] theorem State.raiseFor_aerCorB (s : State) (a b c d e g : Nat) :
    (s.raiseFor a b c d e g).host.aerCorB = s.host.aerCorB := by
  obtain ⟨l, n, m, h⟩ := s.raiseFor_sameHost a b c d e g
  rw [h]

@[simp] theorem State.raiseFor_latch (s : State) (a b c d e g : Nat) :
    (s.raiseFor a b c d e g).host.latch = s.host.latch := by
  obtain ⟨l, n, m, h⟩ := s.raiseFor_sameHost a b c d e g
  rw [h]

@[simp] theorem State.raiseFor_subsys (s : State) (a b c d e g : Nat) :
    (s.raiseFor a b c d e g).host.subsys = s.host.subsys := by
  obtain ⟨l, n, m, h⟩ := s.raiseFor_sameHost a b c d e g
  rw [h]

end Sys2Proof.Machine
end

