-- ==== Sys2Proof/Laws/State.lean ====
section
/-!
SUPPORT. One lemma per part of the state and update of it, so that no proof unfolds a record update: what each setter
leaves in its own part, and that it leaves every other part and every register field alone.
-/

set_option Elab.async false

namespace Sys2Proof.Machine

namespace State

variable (s : State)

/-! ## A part replaced -/

@[simp] theorem setBoot_boot (x : BootSt) : (s.setBoot x).boot = x := rfl
@[simp] theorem setBoot_pending (x : BootSt) : (s.setBoot x).pending = s.pending := rfl
@[simp] theorem setBoot_out (x : BootSt) : (s.setBoot x).out = s.out := rfl
@[simp] theorem setBoot_free (x : BootSt) : (s.setBoot x).free = s.free := rfl
@[simp] theorem setBoot_regs (x : BootSt) : (s.setBoot x).regs = s.regs := rfl
@[simp] theorem setBoot_host (x : BootSt) : (s.setBoot x).host = s.host := rfl
@[simp] theorem setBoot_sq (x : BootSt) : (s.setBoot x).sq = s.sq := rfl
@[simp] theorem setBoot_obj (x : BootSt) : (s.setBoot x).obj = s.obj := rfl
@[simp] theorem setBoot_life (x : BootSt) : (s.setBoot x).life = s.life := rfl
@[simp] theorem setBoot_tape (x : BootSt) : (s.setBoot x).tape = s.tape := rfl
@[simp] theorem setBoot_mot (x : BootSt) : (s.setBoot x).mot = s.mot := rfl
@[simp] theorem setBoot_disk (x : BootSt) : (s.setBoot x).disk = s.disk := rfl
@[simp] theorem setBoot_det (x : BootSt) : (s.setBoot x).det = s.det := rfl
@[simp] theorem setBoot_medium (x : BootSt) : (s.setBoot x).medium = s.medium := rfl
@[simp] theorem setBoot_wra (x : BootSt) : (s.setBoot x).wra = s.wra := rfl
@[simp] theorem setBoot_ctl (x : BootSt) : (s.setBoot x).ctl = s.ctl := rfl
@[simp] theorem setBoot_trc (x : BootSt) : (s.setBoot x).trc = s.trc := rfl
@[simp] theorem setBoot_grp (x : BootSt) : (s.setBoot x).grp = s.grp := rfl
@[simp] theorem setBoot_red (x : BootSt) : (s.setBoot x).red = s.red := rfl
@[simp] theorem setBoot_pwr (x : BootSt) : (s.setBoot x).pwr = s.pwr := rfl
@[simp] theorem setBoot_mem (x : BootSt) : (s.setBoot x).mem = s.mem := rfl
@[simp] theorem setBoot_pins (x : BootSt) : (s.setBoot x).pins = s.pins := rfl
@[simp] theorem fget_setBoot (x : BootSt) (f : Field) (i j : Nat) : (s.setBoot x).fget f i j = s.fget f i j := rfl

@[simp] theorem setWra_wra (x : WraSt) : (s.setWra x).wra = x := rfl
@[simp] theorem setWra_pending (x : WraSt) : (s.setWra x).pending = s.pending := rfl
@[simp] theorem setWra_out (x : WraSt) : (s.setWra x).out = s.out := rfl
@[simp] theorem setWra_free (x : WraSt) : (s.setWra x).free = s.free := rfl
@[simp] theorem setWra_regs (x : WraSt) : (s.setWra x).regs = s.regs := rfl
@[simp] theorem setWra_host (x : WraSt) : (s.setWra x).host = s.host := rfl
@[simp] theorem setWra_sq (x : WraSt) : (s.setWra x).sq = s.sq := rfl
@[simp] theorem setWra_obj (x : WraSt) : (s.setWra x).obj = s.obj := rfl
@[simp] theorem setWra_life (x : WraSt) : (s.setWra x).life = s.life := rfl
@[simp] theorem setWra_boot (x : WraSt) : (s.setWra x).boot = s.boot := rfl
@[simp] theorem setWra_tape (x : WraSt) : (s.setWra x).tape = s.tape := rfl
@[simp] theorem setWra_mot (x : WraSt) : (s.setWra x).mot = s.mot := rfl
@[simp] theorem setWra_disk (x : WraSt) : (s.setWra x).disk = s.disk := rfl
@[simp] theorem setWra_det (x : WraSt) : (s.setWra x).det = s.det := rfl
@[simp] theorem setWra_medium (x : WraSt) : (s.setWra x).medium = s.medium := rfl
@[simp] theorem setWra_ctl (x : WraSt) : (s.setWra x).ctl = s.ctl := rfl
@[simp] theorem setWra_trc (x : WraSt) : (s.setWra x).trc = s.trc := rfl
@[simp] theorem setWra_grp (x : WraSt) : (s.setWra x).grp = s.grp := rfl
@[simp] theorem setWra_red (x : WraSt) : (s.setWra x).red = s.red := rfl
@[simp] theorem setWra_pwr (x : WraSt) : (s.setWra x).pwr = s.pwr := rfl
@[simp] theorem setWra_mem (x : WraSt) : (s.setWra x).mem = s.mem := rfl
@[simp] theorem setWra_pins (x : WraSt) : (s.setWra x).pins = s.pins := rfl
@[simp] theorem fget_setWra (x : WraSt) (f : Field) (i j : Nat) : (s.setWra x).fget f i j = s.fget f i j := rfl

@[simp] theorem setTape_tape (x : TapeSt) : (s.setTape x).tape = x := rfl
@[simp] theorem setTape_pending (x : TapeSt) : (s.setTape x).pending = s.pending := rfl
@[simp] theorem setTape_out (x : TapeSt) : (s.setTape x).out = s.out := rfl
@[simp] theorem setTape_free (x : TapeSt) : (s.setTape x).free = s.free := rfl
@[simp] theorem setTape_regs (x : TapeSt) : (s.setTape x).regs = s.regs := rfl
@[simp] theorem setTape_host (x : TapeSt) : (s.setTape x).host = s.host := rfl
@[simp] theorem setTape_sq (x : TapeSt) : (s.setTape x).sq = s.sq := rfl
@[simp] theorem setTape_obj (x : TapeSt) : (s.setTape x).obj = s.obj := rfl
@[simp] theorem setTape_life (x : TapeSt) : (s.setTape x).life = s.life := rfl
@[simp] theorem setTape_boot (x : TapeSt) : (s.setTape x).boot = s.boot := rfl
@[simp] theorem setTape_mot (x : TapeSt) : (s.setTape x).mot = s.mot := rfl
@[simp] theorem setTape_disk (x : TapeSt) : (s.setTape x).disk = s.disk := rfl
@[simp] theorem setTape_det (x : TapeSt) : (s.setTape x).det = s.det := rfl
@[simp] theorem setTape_medium (x : TapeSt) : (s.setTape x).medium = s.medium := rfl
@[simp] theorem setTape_wra (x : TapeSt) : (s.setTape x).wra = s.wra := rfl
@[simp] theorem setTape_ctl (x : TapeSt) : (s.setTape x).ctl = s.ctl := rfl
@[simp] theorem setTape_trc (x : TapeSt) : (s.setTape x).trc = s.trc := rfl
@[simp] theorem setTape_grp (x : TapeSt) : (s.setTape x).grp = s.grp := rfl
@[simp] theorem setTape_red (x : TapeSt) : (s.setTape x).red = s.red := rfl
@[simp] theorem setTape_pwr (x : TapeSt) : (s.setTape x).pwr = s.pwr := rfl
@[simp] theorem setTape_mem (x : TapeSt) : (s.setTape x).mem = s.mem := rfl
@[simp] theorem setTape_pins (x : TapeSt) : (s.setTape x).pins = s.pins := rfl
@[simp] theorem fget_setTape (x : TapeSt) (f : Field) (i j : Nat) : (s.setTape x).fget f i j = s.fget f i j := rfl

@[simp] theorem setDisk_disk (x : DiskSt) : (s.setDisk x).disk = x := rfl
@[simp] theorem setDisk_pending (x : DiskSt) : (s.setDisk x).pending = s.pending := rfl
@[simp] theorem setDisk_out (x : DiskSt) : (s.setDisk x).out = s.out := rfl
@[simp] theorem setDisk_free (x : DiskSt) : (s.setDisk x).free = s.free := rfl
@[simp] theorem setDisk_regs (x : DiskSt) : (s.setDisk x).regs = s.regs := rfl
@[simp] theorem setDisk_host (x : DiskSt) : (s.setDisk x).host = s.host := rfl
@[simp] theorem setDisk_sq (x : DiskSt) : (s.setDisk x).sq = s.sq := rfl
@[simp] theorem setDisk_obj (x : DiskSt) : (s.setDisk x).obj = s.obj := rfl
@[simp] theorem setDisk_life (x : DiskSt) : (s.setDisk x).life = s.life := rfl
@[simp] theorem setDisk_boot (x : DiskSt) : (s.setDisk x).boot = s.boot := rfl
@[simp] theorem setDisk_tape (x : DiskSt) : (s.setDisk x).tape = s.tape := rfl
@[simp] theorem setDisk_mot (x : DiskSt) : (s.setDisk x).mot = s.mot := rfl
@[simp] theorem setDisk_det (x : DiskSt) : (s.setDisk x).det = s.det := rfl
@[simp] theorem setDisk_medium (x : DiskSt) : (s.setDisk x).medium = s.medium := rfl
@[simp] theorem setDisk_wra (x : DiskSt) : (s.setDisk x).wra = s.wra := rfl
@[simp] theorem setDisk_ctl (x : DiskSt) : (s.setDisk x).ctl = s.ctl := rfl
@[simp] theorem setDisk_trc (x : DiskSt) : (s.setDisk x).trc = s.trc := rfl
@[simp] theorem setDisk_grp (x : DiskSt) : (s.setDisk x).grp = s.grp := rfl
@[simp] theorem setDisk_red (x : DiskSt) : (s.setDisk x).red = s.red := rfl
@[simp] theorem setDisk_pwr (x : DiskSt) : (s.setDisk x).pwr = s.pwr := rfl
@[simp] theorem setDisk_mem (x : DiskSt) : (s.setDisk x).mem = s.mem := rfl
@[simp] theorem setDisk_pins (x : DiskSt) : (s.setDisk x).pins = s.pins := rfl
@[simp] theorem fget_setDisk (x : DiskSt) (f : Field) (i j : Nat) : (s.setDisk x).fget f i j = s.fget f i j := rfl

@[simp] theorem setGrp_grp (x : GrpSt) : (s.setGrp x).grp = x := rfl
@[simp] theorem setGrp_pending (x : GrpSt) : (s.setGrp x).pending = s.pending := rfl
@[simp] theorem setGrp_out (x : GrpSt) : (s.setGrp x).out = s.out := rfl
@[simp] theorem setGrp_free (x : GrpSt) : (s.setGrp x).free = s.free := rfl
@[simp] theorem setGrp_regs (x : GrpSt) : (s.setGrp x).regs = s.regs := rfl
@[simp] theorem setGrp_host (x : GrpSt) : (s.setGrp x).host = s.host := rfl
@[simp] theorem setGrp_sq (x : GrpSt) : (s.setGrp x).sq = s.sq := rfl
@[simp] theorem setGrp_obj (x : GrpSt) : (s.setGrp x).obj = s.obj := rfl
@[simp] theorem setGrp_life (x : GrpSt) : (s.setGrp x).life = s.life := rfl
@[simp] theorem setGrp_boot (x : GrpSt) : (s.setGrp x).boot = s.boot := rfl
@[simp] theorem setGrp_tape (x : GrpSt) : (s.setGrp x).tape = s.tape := rfl
@[simp] theorem setGrp_mot (x : GrpSt) : (s.setGrp x).mot = s.mot := rfl
@[simp] theorem setGrp_disk (x : GrpSt) : (s.setGrp x).disk = s.disk := rfl
@[simp] theorem setGrp_det (x : GrpSt) : (s.setGrp x).det = s.det := rfl
@[simp] theorem setGrp_medium (x : GrpSt) : (s.setGrp x).medium = s.medium := rfl
@[simp] theorem setGrp_wra (x : GrpSt) : (s.setGrp x).wra = s.wra := rfl
@[simp] theorem setGrp_ctl (x : GrpSt) : (s.setGrp x).ctl = s.ctl := rfl
@[simp] theorem setGrp_trc (x : GrpSt) : (s.setGrp x).trc = s.trc := rfl
@[simp] theorem setGrp_red (x : GrpSt) : (s.setGrp x).red = s.red := rfl
@[simp] theorem setGrp_pwr (x : GrpSt) : (s.setGrp x).pwr = s.pwr := rfl
@[simp] theorem setGrp_mem (x : GrpSt) : (s.setGrp x).mem = s.mem := rfl
@[simp] theorem setGrp_pins (x : GrpSt) : (s.setGrp x).pins = s.pins := rfl
@[simp] theorem fget_setGrp (x : GrpSt) (f : Field) (i j : Nat) : (s.setGrp x).fget f i j = s.fget f i j := rfl

@[simp] theorem setMem_mem (x : MemSt) : (s.setMem x).mem = x := rfl
@[simp] theorem setMem_pending (x : MemSt) : (s.setMem x).pending = s.pending := rfl
@[simp] theorem setMem_out (x : MemSt) : (s.setMem x).out = s.out := rfl
@[simp] theorem setMem_free (x : MemSt) : (s.setMem x).free = s.free := rfl
@[simp] theorem setMem_regs (x : MemSt) : (s.setMem x).regs = s.regs := rfl
@[simp] theorem setMem_host (x : MemSt) : (s.setMem x).host = s.host := rfl
@[simp] theorem setMem_sq (x : MemSt) : (s.setMem x).sq = s.sq := rfl
@[simp] theorem setMem_obj (x : MemSt) : (s.setMem x).obj = s.obj := rfl
@[simp] theorem setMem_life (x : MemSt) : (s.setMem x).life = s.life := rfl
@[simp] theorem setMem_boot (x : MemSt) : (s.setMem x).boot = s.boot := rfl
@[simp] theorem setMem_tape (x : MemSt) : (s.setMem x).tape = s.tape := rfl
@[simp] theorem setMem_mot (x : MemSt) : (s.setMem x).mot = s.mot := rfl
@[simp] theorem setMem_disk (x : MemSt) : (s.setMem x).disk = s.disk := rfl
@[simp] theorem setMem_det (x : MemSt) : (s.setMem x).det = s.det := rfl
@[simp] theorem setMem_medium (x : MemSt) : (s.setMem x).medium = s.medium := rfl
@[simp] theorem setMem_wra (x : MemSt) : (s.setMem x).wra = s.wra := rfl
@[simp] theorem setMem_ctl (x : MemSt) : (s.setMem x).ctl = s.ctl := rfl
@[simp] theorem setMem_trc (x : MemSt) : (s.setMem x).trc = s.trc := rfl
@[simp] theorem setMem_grp (x : MemSt) : (s.setMem x).grp = s.grp := rfl
@[simp] theorem setMem_red (x : MemSt) : (s.setMem x).red = s.red := rfl
@[simp] theorem setMem_pwr (x : MemSt) : (s.setMem x).pwr = s.pwr := rfl
@[simp] theorem setMem_pins (x : MemSt) : (s.setMem x).pins = s.pins := rfl
@[simp] theorem fget_setMem (x : MemSt) (f : Field) (i j : Nat) : (s.setMem x).fget f i j = s.fget f i j := rfl

@[simp] theorem setDet_det (x : DetSt) : (s.setDet x).det = x := rfl
@[simp] theorem setDet_pending (x : DetSt) : (s.setDet x).pending = s.pending := rfl
@[simp] theorem setDet_out (x : DetSt) : (s.setDet x).out = s.out := rfl
@[simp] theorem setDet_free (x : DetSt) : (s.setDet x).free = s.free := rfl
@[simp] theorem setDet_regs (x : DetSt) : (s.setDet x).regs = s.regs := rfl
@[simp] theorem setDet_host (x : DetSt) : (s.setDet x).host = s.host := rfl
@[simp] theorem setDet_sq (x : DetSt) : (s.setDet x).sq = s.sq := rfl
@[simp] theorem setDet_obj (x : DetSt) : (s.setDet x).obj = s.obj := rfl
@[simp] theorem setDet_life (x : DetSt) : (s.setDet x).life = s.life := rfl
@[simp] theorem setDet_boot (x : DetSt) : (s.setDet x).boot = s.boot := rfl
@[simp] theorem setDet_tape (x : DetSt) : (s.setDet x).tape = s.tape := rfl
@[simp] theorem setDet_mot (x : DetSt) : (s.setDet x).mot = s.mot := rfl
@[simp] theorem setDet_disk (x : DetSt) : (s.setDet x).disk = s.disk := rfl
@[simp] theorem setDet_medium (x : DetSt) : (s.setDet x).medium = s.medium := rfl
@[simp] theorem setDet_wra (x : DetSt) : (s.setDet x).wra = s.wra := rfl
@[simp] theorem setDet_ctl (x : DetSt) : (s.setDet x).ctl = s.ctl := rfl
@[simp] theorem setDet_trc (x : DetSt) : (s.setDet x).trc = s.trc := rfl
@[simp] theorem setDet_grp (x : DetSt) : (s.setDet x).grp = s.grp := rfl
@[simp] theorem setDet_red (x : DetSt) : (s.setDet x).red = s.red := rfl
@[simp] theorem setDet_pwr (x : DetSt) : (s.setDet x).pwr = s.pwr := rfl
@[simp] theorem setDet_mem (x : DetSt) : (s.setDet x).mem = s.mem := rfl
@[simp] theorem setDet_pins (x : DetSt) : (s.setDet x).pins = s.pins := rfl
@[simp] theorem fget_setDet (x : DetSt) (f : Field) (i j : Nat) : (s.setDet x).fget f i j = s.fget f i j := rfl

@[simp] theorem setMot_mot (x : MotSt) : (s.setMot x).mot = x := rfl
@[simp] theorem setMot_pending (x : MotSt) : (s.setMot x).pending = s.pending := rfl
@[simp] theorem setMot_out (x : MotSt) : (s.setMot x).out = s.out := rfl
@[simp] theorem setMot_free (x : MotSt) : (s.setMot x).free = s.free := rfl
@[simp] theorem setMot_regs (x : MotSt) : (s.setMot x).regs = s.regs := rfl
@[simp] theorem setMot_host (x : MotSt) : (s.setMot x).host = s.host := rfl
@[simp] theorem setMot_sq (x : MotSt) : (s.setMot x).sq = s.sq := rfl
@[simp] theorem setMot_obj (x : MotSt) : (s.setMot x).obj = s.obj := rfl
@[simp] theorem setMot_life (x : MotSt) : (s.setMot x).life = s.life := rfl
@[simp] theorem setMot_boot (x : MotSt) : (s.setMot x).boot = s.boot := rfl
@[simp] theorem setMot_tape (x : MotSt) : (s.setMot x).tape = s.tape := rfl
@[simp] theorem setMot_disk (x : MotSt) : (s.setMot x).disk = s.disk := rfl
@[simp] theorem setMot_det (x : MotSt) : (s.setMot x).det = s.det := rfl
@[simp] theorem setMot_medium (x : MotSt) : (s.setMot x).medium = s.medium := rfl
@[simp] theorem setMot_wra (x : MotSt) : (s.setMot x).wra = s.wra := rfl
@[simp] theorem setMot_ctl (x : MotSt) : (s.setMot x).ctl = s.ctl := rfl
@[simp] theorem setMot_trc (x : MotSt) : (s.setMot x).trc = s.trc := rfl
@[simp] theorem setMot_grp (x : MotSt) : (s.setMot x).grp = s.grp := rfl
@[simp] theorem setMot_red (x : MotSt) : (s.setMot x).red = s.red := rfl
@[simp] theorem setMot_pwr (x : MotSt) : (s.setMot x).pwr = s.pwr := rfl
@[simp] theorem setMot_mem (x : MotSt) : (s.setMot x).mem = s.mem := rfl
@[simp] theorem setMot_pins (x : MotSt) : (s.setMot x).pins = s.pins := rfl
@[simp] theorem fget_setMot (x : MotSt) (f : Field) (i j : Nat) : (s.setMot x).fget f i j = s.fget f i j := rfl

@[simp] theorem setCtl_ctl (x : CtlSt) : (s.setCtl x).ctl = x := rfl
@[simp] theorem setCtl_pending (x : CtlSt) : (s.setCtl x).pending = s.pending := rfl
@[simp] theorem setCtl_out (x : CtlSt) : (s.setCtl x).out = s.out := rfl
@[simp] theorem setCtl_free (x : CtlSt) : (s.setCtl x).free = s.free := rfl
@[simp] theorem setCtl_regs (x : CtlSt) : (s.setCtl x).regs = s.regs := rfl
@[simp] theorem setCtl_host (x : CtlSt) : (s.setCtl x).host = s.host := rfl
@[simp] theorem setCtl_sq (x : CtlSt) : (s.setCtl x).sq = s.sq := rfl
@[simp] theorem setCtl_obj (x : CtlSt) : (s.setCtl x).obj = s.obj := rfl
@[simp] theorem setCtl_life (x : CtlSt) : (s.setCtl x).life = s.life := rfl
@[simp] theorem setCtl_boot (x : CtlSt) : (s.setCtl x).boot = s.boot := rfl
@[simp] theorem setCtl_tape (x : CtlSt) : (s.setCtl x).tape = s.tape := rfl
@[simp] theorem setCtl_mot (x : CtlSt) : (s.setCtl x).mot = s.mot := rfl
@[simp] theorem setCtl_disk (x : CtlSt) : (s.setCtl x).disk = s.disk := rfl
@[simp] theorem setCtl_det (x : CtlSt) : (s.setCtl x).det = s.det := rfl
@[simp] theorem setCtl_medium (x : CtlSt) : (s.setCtl x).medium = s.medium := rfl
@[simp] theorem setCtl_wra (x : CtlSt) : (s.setCtl x).wra = s.wra := rfl
@[simp] theorem setCtl_trc (x : CtlSt) : (s.setCtl x).trc = s.trc := rfl
@[simp] theorem setCtl_grp (x : CtlSt) : (s.setCtl x).grp = s.grp := rfl
@[simp] theorem setCtl_red (x : CtlSt) : (s.setCtl x).red = s.red := rfl
@[simp] theorem setCtl_pwr (x : CtlSt) : (s.setCtl x).pwr = s.pwr := rfl
@[simp] theorem setCtl_mem (x : CtlSt) : (s.setCtl x).mem = s.mem := rfl
@[simp] theorem setCtl_pins (x : CtlSt) : (s.setCtl x).pins = s.pins := rfl
@[simp] theorem fget_setCtl (x : CtlSt) (f : Field) (i j : Nat) : (s.setCtl x).fget f i j = s.fget f i j := rfl

@[simp] theorem setTrc_trc (x : TrcSt) : (s.setTrc x).trc = x := rfl
@[simp] theorem setTrc_pending (x : TrcSt) : (s.setTrc x).pending = s.pending := rfl
@[simp] theorem setTrc_out (x : TrcSt) : (s.setTrc x).out = s.out := rfl
@[simp] theorem setTrc_free (x : TrcSt) : (s.setTrc x).free = s.free := rfl
@[simp] theorem setTrc_regs (x : TrcSt) : (s.setTrc x).regs = s.regs := rfl
@[simp] theorem setTrc_host (x : TrcSt) : (s.setTrc x).host = s.host := rfl
@[simp] theorem setTrc_sq (x : TrcSt) : (s.setTrc x).sq = s.sq := rfl
@[simp] theorem setTrc_obj (x : TrcSt) : (s.setTrc x).obj = s.obj := rfl
@[simp] theorem setTrc_life (x : TrcSt) : (s.setTrc x).life = s.life := rfl
@[simp] theorem setTrc_boot (x : TrcSt) : (s.setTrc x).boot = s.boot := rfl
@[simp] theorem setTrc_tape (x : TrcSt) : (s.setTrc x).tape = s.tape := rfl
@[simp] theorem setTrc_mot (x : TrcSt) : (s.setTrc x).mot = s.mot := rfl
@[simp] theorem setTrc_disk (x : TrcSt) : (s.setTrc x).disk = s.disk := rfl
@[simp] theorem setTrc_det (x : TrcSt) : (s.setTrc x).det = s.det := rfl
@[simp] theorem setTrc_medium (x : TrcSt) : (s.setTrc x).medium = s.medium := rfl
@[simp] theorem setTrc_wra (x : TrcSt) : (s.setTrc x).wra = s.wra := rfl
@[simp] theorem setTrc_ctl (x : TrcSt) : (s.setTrc x).ctl = s.ctl := rfl
@[simp] theorem setTrc_grp (x : TrcSt) : (s.setTrc x).grp = s.grp := rfl
@[simp] theorem setTrc_red (x : TrcSt) : (s.setTrc x).red = s.red := rfl
@[simp] theorem setTrc_pwr (x : TrcSt) : (s.setTrc x).pwr = s.pwr := rfl
@[simp] theorem setTrc_mem (x : TrcSt) : (s.setTrc x).mem = s.mem := rfl
@[simp] theorem setTrc_pins (x : TrcSt) : (s.setTrc x).pins = s.pins := rfl
@[simp] theorem fget_setTrc (x : TrcSt) (f : Field) (i j : Nat) : (s.setTrc x).fget f i j = s.fget f i j := rfl

@[simp] theorem setRed_red (x : RedSt) : (s.setRed x).red = x := rfl
@[simp] theorem setRed_pending (x : RedSt) : (s.setRed x).pending = s.pending := rfl
@[simp] theorem setRed_out (x : RedSt) : (s.setRed x).out = s.out := rfl
@[simp] theorem setRed_free (x : RedSt) : (s.setRed x).free = s.free := rfl
@[simp] theorem setRed_regs (x : RedSt) : (s.setRed x).regs = s.regs := rfl
@[simp] theorem setRed_host (x : RedSt) : (s.setRed x).host = s.host := rfl
@[simp] theorem setRed_sq (x : RedSt) : (s.setRed x).sq = s.sq := rfl
@[simp] theorem setRed_obj (x : RedSt) : (s.setRed x).obj = s.obj := rfl
@[simp] theorem setRed_life (x : RedSt) : (s.setRed x).life = s.life := rfl
@[simp] theorem setRed_boot (x : RedSt) : (s.setRed x).boot = s.boot := rfl
@[simp] theorem setRed_tape (x : RedSt) : (s.setRed x).tape = s.tape := rfl
@[simp] theorem setRed_mot (x : RedSt) : (s.setRed x).mot = s.mot := rfl
@[simp] theorem setRed_disk (x : RedSt) : (s.setRed x).disk = s.disk := rfl
@[simp] theorem setRed_det (x : RedSt) : (s.setRed x).det = s.det := rfl
@[simp] theorem setRed_medium (x : RedSt) : (s.setRed x).medium = s.medium := rfl
@[simp] theorem setRed_wra (x : RedSt) : (s.setRed x).wra = s.wra := rfl
@[simp] theorem setRed_ctl (x : RedSt) : (s.setRed x).ctl = s.ctl := rfl
@[simp] theorem setRed_trc (x : RedSt) : (s.setRed x).trc = s.trc := rfl
@[simp] theorem setRed_grp (x : RedSt) : (s.setRed x).grp = s.grp := rfl
@[simp] theorem setRed_pwr (x : RedSt) : (s.setRed x).pwr = s.pwr := rfl
@[simp] theorem setRed_mem (x : RedSt) : (s.setRed x).mem = s.mem := rfl
@[simp] theorem setRed_pins (x : RedSt) : (s.setRed x).pins = s.pins := rfl
@[simp] theorem fget_setRed (x : RedSt) (f : Field) (i j : Nat) : (s.setRed x).fget f i j = s.fget f i j := rfl

@[simp] theorem setPwr_pwr (x : PwrSt) : (s.setPwr x).pwr = x := rfl
@[simp] theorem setPwr_pending (x : PwrSt) : (s.setPwr x).pending = s.pending := rfl
@[simp] theorem setPwr_out (x : PwrSt) : (s.setPwr x).out = s.out := rfl
@[simp] theorem setPwr_free (x : PwrSt) : (s.setPwr x).free = s.free := rfl
@[simp] theorem setPwr_regs (x : PwrSt) : (s.setPwr x).regs = s.regs := rfl
@[simp] theorem setPwr_host (x : PwrSt) : (s.setPwr x).host = s.host := rfl
@[simp] theorem setPwr_sq (x : PwrSt) : (s.setPwr x).sq = s.sq := rfl
@[simp] theorem setPwr_obj (x : PwrSt) : (s.setPwr x).obj = s.obj := rfl
@[simp] theorem setPwr_life (x : PwrSt) : (s.setPwr x).life = s.life := rfl
@[simp] theorem setPwr_boot (x : PwrSt) : (s.setPwr x).boot = s.boot := rfl
@[simp] theorem setPwr_tape (x : PwrSt) : (s.setPwr x).tape = s.tape := rfl
@[simp] theorem setPwr_mot (x : PwrSt) : (s.setPwr x).mot = s.mot := rfl
@[simp] theorem setPwr_disk (x : PwrSt) : (s.setPwr x).disk = s.disk := rfl
@[simp] theorem setPwr_det (x : PwrSt) : (s.setPwr x).det = s.det := rfl
@[simp] theorem setPwr_medium (x : PwrSt) : (s.setPwr x).medium = s.medium := rfl
@[simp] theorem setPwr_wra (x : PwrSt) : (s.setPwr x).wra = s.wra := rfl
@[simp] theorem setPwr_ctl (x : PwrSt) : (s.setPwr x).ctl = s.ctl := rfl
@[simp] theorem setPwr_trc (x : PwrSt) : (s.setPwr x).trc = s.trc := rfl
@[simp] theorem setPwr_grp (x : PwrSt) : (s.setPwr x).grp = s.grp := rfl
@[simp] theorem setPwr_red (x : PwrSt) : (s.setPwr x).red = s.red := rfl
@[simp] theorem setPwr_mem (x : PwrSt) : (s.setPwr x).mem = s.mem := rfl
@[simp] theorem setPwr_pins (x : PwrSt) : (s.setPwr x).pins = s.pins := rfl
@[simp] theorem fget_setPwr (x : PwrSt) (f : Field) (i j : Nat) : (s.setPwr x).fget f i j = s.fget f i j := rfl

@[simp] theorem setMedium_pending (x : Nat) : (s.setMedium x).pending = s.pending := rfl
@[simp] theorem setMedium_out (x : Nat) : (s.setMedium x).out = s.out := rfl
@[simp] theorem setMedium_free (x : Nat) : (s.setMedium x).free = s.free := rfl
@[simp] theorem setMedium_regs (x : Nat) : (s.setMedium x).regs = s.regs := rfl
@[simp] theorem setMedium_host (x : Nat) : (s.setMedium x).host = s.host := rfl
@[simp] theorem setMedium_sq (x : Nat) : (s.setMedium x).sq = s.sq := rfl
@[simp] theorem setMedium_obj (x : Nat) : (s.setMedium x).obj = s.obj := rfl
@[simp] theorem setMedium_life (x : Nat) : (s.setMedium x).life = s.life := rfl
@[simp] theorem setMedium_boot (x : Nat) : (s.setMedium x).boot = s.boot := rfl
@[simp] theorem setMedium_tape (x : Nat) : (s.setMedium x).tape = s.tape := rfl
@[simp] theorem setMedium_mot (x : Nat) : (s.setMedium x).mot = s.mot := rfl
@[simp] theorem setMedium_disk (x : Nat) : (s.setMedium x).disk = s.disk := rfl
@[simp] theorem setMedium_det (x : Nat) : (s.setMedium x).det = s.det := rfl
@[simp] theorem setMedium_medium (x : Nat) : (s.setMedium x).medium = { s.medium with state := x } := rfl
@[simp] theorem setMedium_wra (x : Nat) : (s.setMedium x).wra = s.wra := rfl
@[simp] theorem setMedium_ctl (x : Nat) : (s.setMedium x).ctl = s.ctl := rfl
@[simp] theorem setMedium_trc (x : Nat) : (s.setMedium x).trc = s.trc := rfl
@[simp] theorem setMedium_grp (x : Nat) : (s.setMedium x).grp = s.grp := rfl
@[simp] theorem setMedium_red (x : Nat) : (s.setMedium x).red = s.red := rfl
@[simp] theorem setMedium_pwr (x : Nat) : (s.setMedium x).pwr = s.pwr := rfl
@[simp] theorem setMedium_mem (x : Nat) : (s.setMedium x).mem = s.mem := rfl
@[simp] theorem setMedium_pins (x : Nat) : (s.setMedium x).pins = s.pins := rfl
@[simp] theorem fget_setMedium (x : Nat) (f : Field) (i j : Nat) : (s.setMedium x).fget f i j = s.fget f i j := rfl

@[simp] theorem setJtag_pending (a b : Nat) : (s.setJtag a b).pending = s.pending := rfl
@[simp] theorem setJtag_out (a b : Nat) : (s.setJtag a b).out = s.out := rfl
@[simp] theorem setJtag_free (a b : Nat) : (s.setJtag a b).free = s.free := rfl
@[simp] theorem setJtag_regs (a b : Nat) : (s.setJtag a b).regs = s.regs := rfl
@[simp] theorem setJtag_host (a b : Nat) : (s.setJtag a b).host = s.host := rfl
@[simp] theorem setJtag_sq (a b : Nat) : (s.setJtag a b).sq = s.sq := rfl
@[simp] theorem setJtag_obj (a b : Nat) : (s.setJtag a b).obj = s.obj := rfl
@[simp] theorem setJtag_life (a b : Nat) : (s.setJtag a b).life = s.life := rfl
@[simp] theorem setJtag_boot (a b : Nat) : (s.setJtag a b).boot = s.boot := rfl
@[simp] theorem setJtag_tape (a b : Nat) : (s.setJtag a b).tape = s.tape := rfl
@[simp] theorem setJtag_mot (a b : Nat) : (s.setJtag a b).mot = s.mot := rfl
@[simp] theorem setJtag_disk (a b : Nat) : (s.setJtag a b).disk = s.disk := rfl
@[simp] theorem setJtag_det (a b : Nat) : (s.setJtag a b).det = s.det := rfl
@[simp] theorem setJtag_medium (a b : Nat) : (s.setJtag a b).medium = s.medium := rfl
@[simp] theorem setJtag_wra (a b : Nat) : (s.setJtag a b).wra = s.wra := rfl
@[simp] theorem setJtag_ctl (a b : Nat) : (s.setJtag a b).ctl = s.ctl := rfl
@[simp] theorem setJtag_trc (a b : Nat) : (s.setJtag a b).trc = s.trc := rfl
@[simp] theorem setJtag_grp (a b : Nat) : (s.setJtag a b).grp = s.grp := rfl
@[simp] theorem setJtag_red (a b : Nat) : (s.setJtag a b).red = s.red := rfl
@[simp] theorem setJtag_pwr (a b : Nat) : (s.setJtag a b).pwr = s.pwr := rfl
@[simp] theorem setJtag_mem (a b : Nat) : (s.setJtag a b).mem = s.mem := rfl
@[simp] theorem setJtag_pins (a b : Nat) : (s.setJtag a b).pins = { jtagInstr := a, boundary := b } := rfl
@[simp] theorem fget_setJtag (a b : Nat) (f : Field) (i j : Nat) : (s.setJtag a b).fget f i j = s.fget f i j := rfl

@[simp] theorem setFuses_pending (x : Fuses) : (s.setFuses x).pending = s.pending := rfl
@[simp] theorem setFuses_out (x : Fuses) : (s.setFuses x).out = s.out := rfl
@[simp] theorem setFuses_free (x : Fuses) : (s.setFuses x).free = s.free := rfl
@[simp] theorem setFuses_regs (x : Fuses) : (s.setFuses x).regs = s.regs := rfl
@[simp] theorem setFuses_host (x : Fuses) : (s.setFuses x).host = s.host := rfl
@[simp] theorem setFuses_sq (x : Fuses) : (s.setFuses x).sq = s.sq := rfl
@[simp] theorem setFuses_obj (x : Fuses) : (s.setFuses x).obj = s.obj := rfl
@[simp] theorem setFuses_life (x : Fuses) : (s.setFuses x).life = s.life := rfl
@[simp] theorem setFuses_boot (x : Fuses) : (s.setFuses x).boot = { s.boot with fuses := x } := rfl
@[simp] theorem setFuses_tape (x : Fuses) : (s.setFuses x).tape = s.tape := rfl
@[simp] theorem setFuses_mot (x : Fuses) : (s.setFuses x).mot = s.mot := rfl
@[simp] theorem setFuses_disk (x : Fuses) : (s.setFuses x).disk = s.disk := rfl
@[simp] theorem setFuses_det (x : Fuses) : (s.setFuses x).det = s.det := rfl
@[simp] theorem setFuses_medium (x : Fuses) : (s.setFuses x).medium = s.medium := rfl
@[simp] theorem setFuses_wra (x : Fuses) : (s.setFuses x).wra = s.wra := rfl
@[simp] theorem setFuses_ctl (x : Fuses) : (s.setFuses x).ctl = s.ctl := rfl
@[simp] theorem setFuses_trc (x : Fuses) : (s.setFuses x).trc = s.trc := rfl
@[simp] theorem setFuses_grp (x : Fuses) : (s.setFuses x).grp = s.grp := rfl
@[simp] theorem setFuses_red (x : Fuses) : (s.setFuses x).red = s.red := rfl
@[simp] theorem setFuses_pwr (x : Fuses) : (s.setFuses x).pwr = s.pwr := rfl
@[simp] theorem setFuses_mem (x : Fuses) : (s.setFuses x).mem = s.mem := rfl
@[simp] theorem setFuses_pins (x : Fuses) : (s.setFuses x).pins = s.pins := rfl
@[simp] theorem fget_setFuses (x : Fuses) (f : Field) (i j : Nat) : (s.setFuses x).fget f i j = s.fget f i j := rfl

/-- A record update that leaves the register file alone changes no field of it. -/
@[simp] theorem fget_mk (pending : List Instr) (out : List Output) (free : Nat) (host : HostSt) (sq : SqSt) (obj :
    ObjSt) (life : LifeSt) (boot : BootSt) (tape : TapeSt) (mot : MotSt) (disk : DiskSt) (det : DetSt) (medium :
    MediumSt) (wra : WraSt) (ctl : CtlSt) (trc : TrcSt) (grp : GrpSt) (red : RedSt) (pwr : PwrSt) (mem : MemSt)
    (pins : PinSt) (f : Field)
    (i j : Nat) :
    State.fget { pending := pending, out := out, free := free, regs := s.regs, host := host, sq := sq, obj := obj,
                 life := life, boot := boot, tape := tape, mot := mot, disk := disk, det := det, medium := medium,
                 wra := wra, ctl := ctl, trc := trc, grp := grp, red := red, pwr := pwr, mem := mem, pins := pins } f i j = s.fget f i j :=
    rfl


/-! ## A register field written -/

@[simp] theorem fset_pending (f : Field) (i j v : Nat) : (s.fset f i j v).pending = s.pending := rfl
@[simp] theorem fset_out (f : Field) (i j v : Nat) : (s.fset f i j v).out = s.out := rfl
@[simp] theorem fset_free (f : Field) (i j v : Nat) : (s.fset f i j v).free = s.free := rfl
@[simp] theorem fset_host (f : Field) (i j v : Nat) : (s.fset f i j v).host = s.host := rfl
@[simp] theorem fset_sq (f : Field) (i j v : Nat) : (s.fset f i j v).sq = s.sq := rfl
@[simp] theorem fset_obj (f : Field) (i j v : Nat) : (s.fset f i j v).obj = s.obj := rfl
@[simp] theorem fset_life (f : Field) (i j v : Nat) : (s.fset f i j v).life = s.life := rfl
@[simp] theorem fset_boot (f : Field) (i j v : Nat) : (s.fset f i j v).boot = s.boot := rfl
@[simp] theorem fset_tape (f : Field) (i j v : Nat) : (s.fset f i j v).tape = s.tape := rfl
@[simp] theorem fset_mot (f : Field) (i j v : Nat) : (s.fset f i j v).mot = s.mot := rfl
@[simp] theorem fset_disk (f : Field) (i j v : Nat) : (s.fset f i j v).disk = s.disk := rfl
@[simp] theorem fset_det (f : Field) (i j v : Nat) : (s.fset f i j v).det = s.det := rfl
@[simp] theorem fset_medium (f : Field) (i j v : Nat) : (s.fset f i j v).medium = s.medium := rfl
@[simp] theorem fset_wra (f : Field) (i j v : Nat) : (s.fset f i j v).wra = s.wra := rfl
@[simp] theorem fset_ctl (f : Field) (i j v : Nat) : (s.fset f i j v).ctl = s.ctl := rfl
@[simp] theorem fset_trc (f : Field) (i j v : Nat) : (s.fset f i j v).trc = s.trc := rfl
@[simp] theorem fset_grp (f : Field) (i j v : Nat) : (s.fset f i j v).grp = s.grp := rfl
@[simp] theorem fset_red (f : Field) (i j v : Nat) : (s.fset f i j v).red = s.red := rfl
@[simp] theorem fset_pwr (f : Field) (i j v : Nat) : (s.fset f i j v).pwr = s.pwr := rfl
@[simp] theorem fset_mem (f : Field) (i j v : Nat) : (s.fset f i j v).mem = s.mem := rfl
@[simp] theorem fset_pins (f : Field) (i j v : Nat) : (s.fset f i j v).pins = s.pins := rfl
@[simp] theorem addi_pending (f : Field) (i n : Nat) : (s.addi f i n).pending = s.pending := rfl
@[simp] theorem addi_out (f : Field) (i n : Nat) : (s.addi f i n).out = s.out := rfl
@[simp] theorem addi_free (f : Field) (i n : Nat) : (s.addi f i n).free = s.free := rfl
@[simp] theorem addi_host (f : Field) (i n : Nat) : (s.addi f i n).host = s.host := rfl
@[simp] theorem addi_sq (f : Field) (i n : Nat) : (s.addi f i n).sq = s.sq := rfl
@[simp] theorem addi_obj (f : Field) (i n : Nat) : (s.addi f i n).obj = s.obj := rfl
@[simp] theorem addi_life (f : Field) (i n : Nat) : (s.addi f i n).life = s.life := rfl
@[simp] theorem addi_boot (f : Field) (i n : Nat) : (s.addi f i n).boot = s.boot := rfl
@[simp] theorem addi_tape (f : Field) (i n : Nat) : (s.addi f i n).tape = s.tape := rfl
@[simp] theorem addi_mot (f : Field) (i n : Nat) : (s.addi f i n).mot = s.mot := rfl
@[simp] theorem addi_disk (f : Field) (i n : Nat) : (s.addi f i n).disk = s.disk := rfl
@[simp] theorem addi_det (f : Field) (i n : Nat) : (s.addi f i n).det = s.det := rfl
@[simp] theorem addi_medium (f : Field) (i n : Nat) : (s.addi f i n).medium = s.medium := rfl
@[simp] theorem addi_wra (f : Field) (i n : Nat) : (s.addi f i n).wra = s.wra := rfl
@[simp] theorem addi_ctl (f : Field) (i n : Nat) : (s.addi f i n).ctl = s.ctl := rfl
@[simp] theorem addi_trc (f : Field) (i n : Nat) : (s.addi f i n).trc = s.trc := rfl
@[simp] theorem addi_grp (f : Field) (i n : Nat) : (s.addi f i n).grp = s.grp := rfl
@[simp] theorem addi_red (f : Field) (i n : Nat) : (s.addi f i n).red = s.red := rfl
@[simp] theorem addi_pwr (f : Field) (i n : Nat) : (s.addi f i n).pwr = s.pwr := rfl
@[simp] theorem addi_mem (f : Field) (i n : Nat) : (s.addi f i n).mem = s.mem := rfl
@[simp] theorem addi_pins (f : Field) (i n : Nat) : (s.addi f i n).pins = s.pins := rfl
@[simp] theorem putBit_pending (f : Field) (b : Nat) (v : Bool) : (s.putBit f b v).pending = s.pending := rfl
@[simp] theorem putBit_out (f : Field) (b : Nat) (v : Bool) : (s.putBit f b v).out = s.out := rfl
@[simp] theorem putBit_free (f : Field) (b : Nat) (v : Bool) : (s.putBit f b v).free = s.free := rfl
@[simp] theorem putBit_host (f : Field) (b : Nat) (v : Bool) : (s.putBit f b v).host = s.host := rfl
@[simp] theorem putBit_sq (f : Field) (b : Nat) (v : Bool) : (s.putBit f b v).sq = s.sq := rfl
@[simp] theorem putBit_obj (f : Field) (b : Nat) (v : Bool) : (s.putBit f b v).obj = s.obj := rfl
@[simp] theorem putBit_life (f : Field) (b : Nat) (v : Bool) : (s.putBit f b v).life = s.life := rfl
@[simp] theorem putBit_boot (f : Field) (b : Nat) (v : Bool) : (s.putBit f b v).boot = s.boot := rfl
@[simp] theorem putBit_tape (f : Field) (b : Nat) (v : Bool) : (s.putBit f b v).tape = s.tape := rfl
@[simp] theorem putBit_mot (f : Field) (b : Nat) (v : Bool) : (s.putBit f b v).mot = s.mot := rfl
@[simp] theorem putBit_disk (f : Field) (b : Nat) (v : Bool) : (s.putBit f b v).disk = s.disk := rfl
@[simp] theorem putBit_det (f : Field) (b : Nat) (v : Bool) : (s.putBit f b v).det = s.det := rfl
@[simp] theorem putBit_medium (f : Field) (b : Nat) (v : Bool) : (s.putBit f b v).medium = s.medium := rfl
@[simp] theorem putBit_wra (f : Field) (b : Nat) (v : Bool) : (s.putBit f b v).wra = s.wra := rfl
@[simp] theorem putBit_ctl (f : Field) (b : Nat) (v : Bool) : (s.putBit f b v).ctl = s.ctl := rfl
@[simp] theorem putBit_trc (f : Field) (b : Nat) (v : Bool) : (s.putBit f b v).trc = s.trc := rfl
@[simp] theorem putBit_grp (f : Field) (b : Nat) (v : Bool) : (s.putBit f b v).grp = s.grp := rfl
@[simp] theorem putBit_red (f : Field) (b : Nat) (v : Bool) : (s.putBit f b v).red = s.red := rfl
@[simp] theorem putBit_pwr (f : Field) (b : Nat) (v : Bool) : (s.putBit f b v).pwr = s.pwr := rfl
@[simp] theorem putBit_mem (f : Field) (b : Nat) (v : Bool) : (s.putBit f b v).mem = s.mem := rfl
@[simp] theorem putBit_pins (f : Field) (b : Nat) (v : Bool) : (s.putBit f b v).pins = s.pins := rfl
@[simp] theorem add64_pending (f g : Field) (n : Nat) : (s.add64 f g n).pending = s.pending := rfl
@[simp] theorem add64_out (f g : Field) (n : Nat) : (s.add64 f g n).out = s.out := rfl
@[simp] theorem add64_free (f g : Field) (n : Nat) : (s.add64 f g n).free = s.free := rfl
@[simp] theorem add64_host (f g : Field) (n : Nat) : (s.add64 f g n).host = s.host := rfl
@[simp] theorem add64_sq (f g : Field) (n : Nat) : (s.add64 f g n).sq = s.sq := rfl
@[simp] theorem add64_obj (f g : Field) (n : Nat) : (s.add64 f g n).obj = s.obj := rfl
@[simp] theorem add64_life (f g : Field) (n : Nat) : (s.add64 f g n).life = s.life := rfl
@[simp] theorem add64_boot (f g : Field) (n : Nat) : (s.add64 f g n).boot = s.boot := rfl
@[simp] theorem add64_tape (f g : Field) (n : Nat) : (s.add64 f g n).tape = s.tape := rfl
@[simp] theorem add64_mot (f g : Field) (n : Nat) : (s.add64 f g n).mot = s.mot := rfl
@[simp] theorem add64_disk (f g : Field) (n : Nat) : (s.add64 f g n).disk = s.disk := rfl
@[simp] theorem add64_det (f g : Field) (n : Nat) : (s.add64 f g n).det = s.det := rfl
@[simp] theorem add64_medium (f g : Field) (n : Nat) : (s.add64 f g n).medium = s.medium := rfl
@[simp] theorem add64_wra (f g : Field) (n : Nat) : (s.add64 f g n).wra = s.wra := rfl
@[simp] theorem add64_ctl (f g : Field) (n : Nat) : (s.add64 f g n).ctl = s.ctl := rfl
@[simp] theorem add64_trc (f g : Field) (n : Nat) : (s.add64 f g n).trc = s.trc := rfl
@[simp] theorem add64_grp (f g : Field) (n : Nat) : (s.add64 f g n).grp = s.grp := rfl
@[simp] theorem add64_red (f g : Field) (n : Nat) : (s.add64 f g n).red = s.red := rfl
@[simp] theorem add64_pwr (f g : Field) (n : Nat) : (s.add64 f g n).pwr = s.pwr := rfl
@[simp] theorem add64_mem (f g : Field) (n : Nat) : (s.add64 f g n).mem = s.mem := rfl
@[simp] theorem add64_pins (f g : Field) (n : Nat) : (s.add64 f g n).pins = s.pins := rfl

/-! ## What leaves the device, the log and the free counter -/

@[simp] theorem emit_pending (x : Output) : (s.emit x).pending = s.pending := rfl
@[simp] theorem emit_out (x : Output) : (s.emit x).out = x :: s.out := rfl
@[simp] theorem emit_free (x : Output) : (s.emit x).free = s.free := rfl
@[simp] theorem emit_regs (x : Output) : (s.emit x).regs = s.regs := rfl
@[simp] theorem emit_host (x : Output) : (s.emit x).host = s.host := rfl
@[simp] theorem emit_sq (x : Output) : (s.emit x).sq = s.sq := rfl
@[simp] theorem emit_obj (x : Output) : (s.emit x).obj = s.obj := rfl
@[simp] theorem emit_life (x : Output) : (s.emit x).life = s.life := rfl
@[simp] theorem emit_boot (x : Output) : (s.emit x).boot = s.boot := rfl
@[simp] theorem emit_tape (x : Output) : (s.emit x).tape = s.tape := rfl
@[simp] theorem emit_mot (x : Output) : (s.emit x).mot = s.mot := rfl
@[simp] theorem emit_disk (x : Output) : (s.emit x).disk = s.disk := rfl
@[simp] theorem emit_det (x : Output) : (s.emit x).det = s.det := rfl
@[simp] theorem emit_medium (x : Output) : (s.emit x).medium = s.medium := rfl
@[simp] theorem emit_wra (x : Output) : (s.emit x).wra = s.wra := rfl
@[simp] theorem emit_ctl (x : Output) : (s.emit x).ctl = s.ctl := rfl
@[simp] theorem emit_trc (x : Output) : (s.emit x).trc = s.trc := rfl
@[simp] theorem emit_grp (x : Output) : (s.emit x).grp = s.grp := rfl
@[simp] theorem emit_red (x : Output) : (s.emit x).red = s.red := rfl
@[simp] theorem emit_pwr (x : Output) : (s.emit x).pwr = s.pwr := rfl
@[simp] theorem emit_mem (x : Output) : (s.emit x).mem = s.mem := rfl
@[simp] theorem emit_pins (x : Output) : (s.emit x).pins = s.pins := rfl
@[simp] theorem tickFree_pending  : (s.tickFree).pending = s.pending := rfl
@[simp] theorem tickFree_out  : (s.tickFree).out = s.out := rfl
@[simp] theorem tickFree_free  : (s.tickFree).free = s.free + 1 := rfl
@[simp] theorem tickFree_regs  : (s.tickFree).regs = s.regs := rfl
@[simp] theorem tickFree_host  : (s.tickFree).host = s.host := rfl
@[simp] theorem tickFree_sq  : (s.tickFree).sq = s.sq := rfl
@[simp] theorem tickFree_obj  : (s.tickFree).obj = s.obj := rfl
@[simp] theorem tickFree_life  : (s.tickFree).life = s.life := rfl
@[simp] theorem tickFree_boot  : (s.tickFree).boot = s.boot := rfl
@[simp] theorem tickFree_tape  : (s.tickFree).tape = s.tape := rfl
@[simp] theorem tickFree_mot  : (s.tickFree).mot = s.mot := rfl
@[simp] theorem tickFree_disk  : (s.tickFree).disk = s.disk := rfl
@[simp] theorem tickFree_det  : (s.tickFree).det = s.det := rfl
@[simp] theorem tickFree_medium  : (s.tickFree).medium = s.medium := rfl
@[simp] theorem tickFree_wra  : (s.tickFree).wra = s.wra := rfl
@[simp] theorem tickFree_ctl  : (s.tickFree).ctl = s.ctl := rfl
@[simp] theorem tickFree_trc  : (s.tickFree).trc = s.trc := rfl
@[simp] theorem tickFree_grp  : (s.tickFree).grp = s.grp := rfl
@[simp] theorem tickFree_red  : (s.tickFree).red = s.red := rfl
@[simp] theorem tickFree_pwr  : (s.tickFree).pwr = s.pwr := rfl
@[simp] theorem tickFree_mem  : (s.tickFree).mem = s.mem := rfl
@[simp] theorem tickFree_pins  : (s.tickFree).pins = s.pins := rfl
@[simp] theorem fget_tickFree (f : Field) (i j : Nat) : s.tickFree.fget f i j = s.fget f i j := rfl
@[simp] theorem log_pending (a b c d e g : Nat) : (s.log a b c d e g).pending = s.pending := rfl
@[simp] theorem log_out (a b c d e g : Nat) : (s.log a b c d e g).out = s.out := rfl
@[simp] theorem log_free (a b c d e g : Nat) : (s.log a b c d e g).free = s.free := rfl
@[simp] theorem log_regs (a b c d e g : Nat) : (s.log a b c d e g).regs = s.regs := rfl
@[simp] theorem log_host (a b c d e g : Nat) : (s.log a b c d e g).host = s.host := rfl
@[simp] theorem log_sq (a b c d e g : Nat) : (s.log a b c d e g).sq = s.sq := rfl
@[simp] theorem log_obj (a b c d e g : Nat) : (s.log a b c d e g).obj = s.obj := rfl
@[simp] theorem log_boot (a b c d e g : Nat) : (s.log a b c d e g).boot = s.boot := rfl
@[simp] theorem log_tape (a b c d e g : Nat) : (s.log a b c d e g).tape = s.tape := rfl
@[simp] theorem log_mot (a b c d e g : Nat) : (s.log a b c d e g).mot = s.mot := rfl
@[simp] theorem log_disk (a b c d e g : Nat) : (s.log a b c d e g).disk = s.disk := rfl
@[simp] theorem log_det (a b c d e g : Nat) : (s.log a b c d e g).det = s.det := rfl
@[simp] theorem log_medium (a b c d e g : Nat) : (s.log a b c d e g).medium = s.medium := rfl
@[simp] theorem log_wra (a b c d e g : Nat) : (s.log a b c d e g).wra = s.wra := rfl
@[simp] theorem log_ctl (a b c d e g : Nat) : (s.log a b c d e g).ctl = s.ctl := rfl
@[simp] theorem log_trc (a b c d e g : Nat) : (s.log a b c d e g).trc = s.trc := rfl
@[simp] theorem log_grp (a b c d e g : Nat) : (s.log a b c d e g).grp = s.grp := rfl
@[simp] theorem log_red (a b c d e g : Nat) : (s.log a b c d e g).red = s.red := rfl
@[simp] theorem log_pwr (a b c d e g : Nat) : (s.log a b c d e g).pwr = s.pwr := rfl
@[simp] theorem log_mem (a b c d e g : Nat) : (s.log a b c d e g).mem = s.mem := rfl
@[simp] theorem log_pins (a b c d e g : Nat) : (s.log a b c d e g).pins = s.pins := rfl

/-! ## Requests for grants -/

@[simp] theorem ask_pending (a b c : Nat) : (s.ask a b c).pending = s.pending := by unfold ask; split <;> rfl
@[simp] theorem ask_out (a b c : Nat) : (s.ask a b c).out = s.out := by unfold ask; split <;> rfl
@[simp] theorem ask_free (a b c : Nat) : (s.ask a b c).free = s.free := by unfold ask; split <;> rfl
@[simp] theorem ask_regs (a b c : Nat) : (s.ask a b c).regs = s.regs := by unfold ask; split <;> rfl
@[simp] theorem ask_host (a b c : Nat) : (s.ask a b c).host = s.host := by unfold ask; split <;> rfl
@[simp] theorem ask_sq (a b c : Nat) : (s.ask a b c).sq = s.sq := by unfold ask; split <;> rfl
@[simp] theorem ask_obj (a b c : Nat) : (s.ask a b c).obj = s.obj := by unfold ask; split <;> rfl
@[simp] theorem ask_life (a b c : Nat) : (s.ask a b c).life = s.life := by unfold ask; split <;> rfl
@[simp] theorem ask_boot (a b c : Nat) : (s.ask a b c).boot = s.boot := by unfold ask; split <;> rfl
@[simp] theorem ask_tape (a b c : Nat) : (s.ask a b c).tape = s.tape := by unfold ask; split <;> rfl
@[simp] theorem ask_mot (a b c : Nat) : (s.ask a b c).mot = s.mot := by unfold ask; split <;> rfl
@[simp] theorem ask_disk (a b c : Nat) : (s.ask a b c).disk = s.disk := by unfold ask; split <;> rfl
@[simp] theorem ask_det (a b c : Nat) : (s.ask a b c).det = s.det := by unfold ask; split <;> rfl
@[simp] theorem ask_medium (a b c : Nat) : (s.ask a b c).medium = s.medium := by unfold ask; split <;> rfl
@[simp] theorem ask_wra (a b c : Nat) : (s.ask a b c).wra = s.wra := by unfold ask; split <;> rfl
@[simp] theorem ask_ctl (a b c : Nat) : (s.ask a b c).ctl = s.ctl := by unfold ask; split <;> rfl
@[simp] theorem ask_trc (a b c : Nat) : (s.ask a b c).trc = s.trc := by unfold ask; split <;> rfl
@[simp] theorem ask_grp (a b c : Nat) : (s.ask a b c).grp = s.grp := by unfold ask; split <;> rfl
@[simp] theorem ask_red (a b c : Nat) : (s.ask a b c).red = s.red := by unfold ask; split <;> rfl
@[simp] theorem ask_mem (a b c : Nat) : (s.ask a b c).mem = s.mem := by unfold ask; split <;> rfl
@[simp] theorem ask_pins (a b c : Nat) : (s.ask a b c).pins = s.pins := by unfold ask; split <;> rfl
@[simp] theorem fget_ask (a b c : Nat) (f : Field) (i j : Nat) : (s.ask a b c).fget f i j = s.fget f i j := by
  unfold ask; split <;> rfl
@[simp] theorem unask_pending (a b : Nat) : (s.unask a b).pending = s.pending := rfl
@[simp] theorem unask_out (a b : Nat) : (s.unask a b).out = s.out := rfl
@[simp] theorem unask_free (a b : Nat) : (s.unask a b).free = s.free := rfl
@[simp] theorem unask_regs (a b : Nat) : (s.unask a b).regs = s.regs := rfl
@[simp] theorem unask_host (a b : Nat) : (s.unask a b).host = s.host := rfl
@[simp] theorem unask_sq (a b : Nat) : (s.unask a b).sq = s.sq := rfl
@[simp] theorem unask_obj (a b : Nat) : (s.unask a b).obj = s.obj := rfl
@[simp] theorem unask_life (a b : Nat) : (s.unask a b).life = s.life := rfl
@[simp] theorem unask_boot (a b : Nat) : (s.unask a b).boot = s.boot := rfl
@[simp] theorem unask_tape (a b : Nat) : (s.unask a b).tape = s.tape := rfl
@[simp] theorem unask_mot (a b : Nat) : (s.unask a b).mot = s.mot := rfl
@[simp] theorem unask_disk (a b : Nat) : (s.unask a b).disk = s.disk := rfl
@[simp] theorem unask_det (a b : Nat) : (s.unask a b).det = s.det := rfl
@[simp] theorem unask_medium (a b : Nat) : (s.unask a b).medium = s.medium := rfl
@[simp] theorem unask_wra (a b : Nat) : (s.unask a b).wra = s.wra := rfl
@[simp] theorem unask_ctl (a b : Nat) : (s.unask a b).ctl = s.ctl := rfl
@[simp] theorem unask_trc (a b : Nat) : (s.unask a b).trc = s.trc := rfl
@[simp] theorem unask_grp (a b : Nat) : (s.unask a b).grp = s.grp := rfl
@[simp] theorem unask_red (a b : Nat) : (s.unask a b).red = s.red := rfl
@[simp] theorem unask_mem (a b : Nat) : (s.unask a b).mem = s.mem := rfl
@[simp] theorem unask_pins (a b : Nat) : (s.unask a b).pins = s.pins := rfl
@[simp] theorem fget_unask (a b : Nat) (f : Field) (i j : Nat) : (s.unask a b).fget f i j = s.fget f i j := rfl

/-! ## An event raised -/

@[simp] theorem signal_pending (p : Bool) (v : Nat) : (s.signal p v).pending = s.pending := by
  unfold signal; simp only; split; · rfl
  split <;> rfl
@[simp] theorem signal_free (p : Bool) (v : Nat) : (s.signal p v).free = s.free := by
  unfold signal; simp only; split; · rfl
  split <;> rfl
@[simp] theorem signal_regs (p : Bool) (v : Nat) : (s.signal p v).regs = s.regs := by
  unfold signal; simp only; split; · rfl
  split <;> rfl
@[simp] theorem signal_sq (p : Bool) (v : Nat) : (s.signal p v).sq = s.sq := by
  unfold signal; simp only; split; · rfl
  split <;> rfl
@[simp] theorem signal_obj (p : Bool) (v : Nat) : (s.signal p v).obj = s.obj := by
  unfold signal; simp only; split; · rfl
  split <;> rfl
@[simp] theorem signal_life (p : Bool) (v : Nat) : (s.signal p v).life = s.life := by
  unfold signal; simp only; split; · rfl
  split <;> rfl
@[simp] theorem signal_boot (p : Bool) (v : Nat) : (s.signal p v).boot = s.boot := by
  unfold signal; simp only; split; · rfl
  split <;> rfl
@[simp] theorem signal_tape (p : Bool) (v : Nat) : (s.signal p v).tape = s.tape := by
  unfold signal; simp only; split; · rfl
  split <;> rfl
@[simp] theorem signal_mot (p : Bool) (v : Nat) : (s.signal p v).mot = s.mot := by
  unfold signal; simp only; split; · rfl
  split <;> rfl
@[simp] theorem signal_disk (p : Bool) (v : Nat) : (s.signal p v).disk = s.disk := by
  unfold signal; simp only; split; · rfl
  split <;> rfl
@[simp] theorem signal_det (p : Bool) (v : Nat) : (s.signal p v).det = s.det := by
  unfold signal; simp only; split; · rfl
  split <;> rfl
@[simp] theorem signal_medium (p : Bool) (v : Nat) : (s.signal p v).medium = s.medium := by
  unfold signal; simp only; split; · rfl
  split <;> rfl
@[simp] theorem signal_wra (p : Bool) (v : Nat) : (s.signal p v).wra = s.wra := by
  unfold signal; simp only; split; · rfl
  split <;> rfl
@[simp] theorem signal_ctl (p : Bool) (v : Nat) : (s.signal p v).ctl = s.ctl := by
  unfold signal; simp only; split; · rfl
  split <;> rfl
@[simp] theorem signal_trc (p : Bool) (v : Nat) : (s.signal p v).trc = s.trc := by
  unfold signal; simp only; split; · rfl
  split <;> rfl
@[simp] theorem signal_grp (p : Bool) (v : Nat) : (s.signal p v).grp = s.grp := by
  unfold signal; simp only; split; · rfl
  split <;> rfl
@[simp] theorem signal_red (p : Bool) (v : Nat) : (s.signal p v).red = s.red := by
  unfold signal; simp only; split; · rfl
  split <;> rfl
@[simp] theorem signal_pwr (p : Bool) (v : Nat) : (s.signal p v).pwr = s.pwr := by
  unfold signal; simp only; split; · rfl
  split <;> rfl
@[simp] theorem signal_mem (p : Bool) (v : Nat) : (s.signal p v).mem = s.mem := by
  unfold signal; simp only; split; · rfl
  split <;> rfl
@[simp] theorem signal_pins (p : Bool) (v : Nat) : (s.signal p v).pins = s.pins := by
  unfold signal; simp only; split; · rfl
  split <;> rfl

@[simp] theorem pushEvt_pending (a b c d : Nat) : (s.pushEvt a b c d).pending = s.pending := by
  unfold pushEvt; simp only; split <;> simp
@[simp] theorem pushEvt_free (a b c d : Nat) : (s.pushEvt a b c d).free = s.free := by
  unfold pushEvt; simp only; split <;> simp
@[simp] theorem pushEvt_regs (a b c d : Nat) : (s.pushEvt a b c d).regs = s.regs := by
  unfold pushEvt; simp only; split <;> simp
@[simp] theorem pushEvt_sq (a b c d : Nat) : (s.pushEvt a b c d).sq = s.sq := by
  unfold pushEvt; simp only; split <;> simp
@[simp] theorem pushEvt_obj (a b c d : Nat) : (s.pushEvt a b c d).obj = s.obj := by
  unfold pushEvt; simp only; split <;> simp
@[simp] theorem pushEvt_life (a b c d : Nat) : (s.pushEvt a b c d).life = s.life := by
  unfold pushEvt; simp only; split <;> simp
@[simp] theorem pushEvt_boot (a b c d : Nat) : (s.pushEvt a b c d).boot = s.boot := by
  unfold pushEvt; simp only; split <;> simp
@[simp] theorem pushEvt_tape (a b c d : Nat) : (s.pushEvt a b c d).tape = s.tape := by
  unfold pushEvt; simp only; split <;> simp
@[simp] theorem pushEvt_mot (a b c d : Nat) : (s.pushEvt a b c d).mot = s.mot := by
  unfold pushEvt; simp only; split <;> simp
@[simp] theorem pushEvt_disk (a b c d : Nat) : (s.pushEvt a b c d).disk = s.disk := by
  unfold pushEvt; simp only; split <;> simp
@[simp] theorem pushEvt_det (a b c d : Nat) : (s.pushEvt a b c d).det = s.det := by
  unfold pushEvt; simp only; split <;> simp
@[simp] theorem pushEvt_medium (a b c d : Nat) : (s.pushEvt a b c d).medium = s.medium := by
  unfold pushEvt; simp only; split <;> simp
@[simp] theorem pushEvt_wra (a b c d : Nat) : (s.pushEvt a b c d).wra = s.wra := by
  unfold pushEvt; simp only; split <;> simp
@[simp] theorem pushEvt_ctl (a b c d : Nat) : (s.pushEvt a b c d).ctl = s.ctl := by
  unfold pushEvt; simp only; split <;> simp
@[simp] theorem pushEvt_trc (a b c d : Nat) : (s.pushEvt a b c d).trc = s.trc := by
  unfold pushEvt; simp only; split <;> simp
@[simp] theorem pushEvt_grp (a b c d : Nat) : (s.pushEvt a b c d).grp = s.grp := by
  unfold pushEvt; simp only; split <;> simp
@[simp] theorem pushEvt_red (a b c d : Nat) : (s.pushEvt a b c d).red = s.red := by
  unfold pushEvt; simp only; split <;> simp
@[simp] theorem pushEvt_pwr (a b c d : Nat) : (s.pushEvt a b c d).pwr = s.pwr := by
  unfold pushEvt; simp only; split <;> simp
@[simp] theorem pushEvt_mem (a b c d : Nat) : (s.pushEvt a b c d).mem = s.mem := by
  unfold pushEvt; simp only; split <;> simp
@[simp] theorem pushEvt_pins (a b c d : Nat) : (s.pushEvt a b c d).pins = s.pins := by
  unfold pushEvt; simp only; split <;> simp

@[simp] theorem countEvt_pending (a : Nat) : (s.countEvt a).pending = s.pending := rfl
@[simp] theorem countEvt_out (a : Nat) : (s.countEvt a).out = s.out := rfl
@[simp] theorem countEvt_free (a : Nat) : (s.countEvt a).free = s.free := rfl
@[simp] theorem countEvt_host (a : Nat) : (s.countEvt a).host = s.host := rfl
@[simp] theorem countEvt_sq (a : Nat) : (s.countEvt a).sq = s.sq := rfl
@[simp] theorem countEvt_obj (a : Nat) : (s.countEvt a).obj = s.obj := rfl
@[simp] theorem countEvt_life (a : Nat) : (s.countEvt a).life = s.life := rfl
@[simp] theorem countEvt_boot (a : Nat) : (s.countEvt a).boot = s.boot := rfl
@[simp] theorem countEvt_tape (a : Nat) : (s.countEvt a).tape = s.tape := rfl
@[simp] theorem countEvt_mot (a : Nat) : (s.countEvt a).mot = s.mot := rfl
@[simp] theorem countEvt_disk (a : Nat) : (s.countEvt a).disk = s.disk := rfl
@[simp] theorem countEvt_det (a : Nat) : (s.countEvt a).det = s.det := rfl
@[simp] theorem countEvt_medium (a : Nat) : (s.countEvt a).medium = s.medium := rfl
@[simp] theorem countEvt_wra (a : Nat) : (s.countEvt a).wra = s.wra := rfl
@[simp] theorem countEvt_ctl (a : Nat) : (s.countEvt a).ctl = s.ctl := rfl
@[simp] theorem countEvt_trc (a : Nat) : (s.countEvt a).trc = s.trc := rfl
@[simp] theorem countEvt_grp (a : Nat) : (s.countEvt a).grp = s.grp := rfl
@[simp] theorem countEvt_red (a : Nat) : (s.countEvt a).red = s.red := rfl
@[simp] theorem countEvt_pwr (a : Nat) : (s.countEvt a).pwr = s.pwr := rfl
@[simp] theorem countEvt_mem (a : Nat) : (s.countEvt a).mem = s.mem := rfl
@[simp] theorem countEvt_pins (a : Nat) : (s.countEvt a).pins = s.pins := rfl

@[simp] theorem enqueueEvt_pending (a b c d : Nat) : (s.enqueueEvt a b c d).pending = s.pending := by
  unfold enqueueEvt; repeat' split
  all_goals simp
@[simp] theorem enqueueEvt_free (a b c d : Nat) : (s.enqueueEvt a b c d).free = s.free :=
  enqueueEvt_only (L := partsOfEvent) (by decide) (Only.refl s) .free (by decide)
@[simp] theorem enqueueEvt_sq (a b c d : Nat) : (s.enqueueEvt a b c d).sq = s.sq :=
  enqueueEvt_only (L := partsOfEvent) (by decide) (Only.refl s) .sq (by decide)
@[simp] theorem enqueueEvt_obj (a b c d : Nat) : (s.enqueueEvt a b c d).obj = s.obj :=
  enqueueEvt_only (L := partsOfEvent) (by decide) (Only.refl s) .obj (by decide)
@[simp] theorem enqueueEvt_life (a b c d : Nat) : (s.enqueueEvt a b c d).life = s.life := by
  unfold enqueueEvt; repeat' split
  all_goals simp
@[simp] theorem enqueueEvt_boot (a b c d : Nat) : (s.enqueueEvt a b c d).boot = s.boot :=
  enqueueEvt_only (L := partsOfEvent) (by decide) (Only.refl s) .boot (by decide)
@[simp] theorem enqueueEvt_tape (a b c d : Nat) : (s.enqueueEvt a b c d).tape = s.tape :=
  enqueueEvt_only (L := partsOfEvent) (by decide) (Only.refl s) .tape (by decide)
@[simp] theorem enqueueEvt_mot (a b c d : Nat) : (s.enqueueEvt a b c d).mot = s.mot :=
  enqueueEvt_only (L := partsOfEvent) (by decide) (Only.refl s) .mot (by decide)
@[simp] theorem enqueueEvt_disk (a b c d : Nat) : (s.enqueueEvt a b c d).disk = s.disk :=
  enqueueEvt_only (L := partsOfEvent) (by decide) (Only.refl s) .disk (by decide)
@[simp] theorem enqueueEvt_det (a b c d : Nat) : (s.enqueueEvt a b c d).det = s.det :=
  enqueueEvt_only (L := partsOfEvent) (by decide) (Only.refl s) .det (by decide)
@[simp] theorem enqueueEvt_medium (a b c d : Nat) : (s.enqueueEvt a b c d).medium = s.medium :=
  enqueueEvt_only (L := partsOfEvent) (by decide) (Only.refl s) .medium (by decide)
@[simp] theorem enqueueEvt_wra (a b c d : Nat) : (s.enqueueEvt a b c d).wra = s.wra :=
  enqueueEvt_only (L := partsOfEvent) (by decide) (Only.refl s) .wra (by decide)
@[simp] theorem enqueueEvt_ctl (a b c d : Nat) : (s.enqueueEvt a b c d).ctl = s.ctl :=
  enqueueEvt_only (L := partsOfEvent) (by decide) (Only.refl s) .ctl (by decide)
@[simp] theorem enqueueEvt_trc (a b c d : Nat) : (s.enqueueEvt a b c d).trc = s.trc := by
  unfold enqueueEvt; repeat' split
  all_goals simp
@[simp] theorem enqueueEvt_grp (a b c d : Nat) : (s.enqueueEvt a b c d).grp = s.grp :=
  enqueueEvt_only (L := partsOfEvent) (by decide) (Only.refl s) .grp (by decide)
@[simp] theorem enqueueEvt_red (a b c d : Nat) : (s.enqueueEvt a b c d).red = s.red :=
  enqueueEvt_only (L := partsOfEvent) (by decide) (Only.refl s) .red (by decide)
@[simp] theorem enqueueEvt_pwr (a b c d : Nat) : (s.enqueueEvt a b c d).pwr = s.pwr :=
  enqueueEvt_only (L := partsOfEvent) (by decide) (Only.refl s) .pwr (by decide)
@[simp] theorem enqueueEvt_mem (a b c d : Nat) : (s.enqueueEvt a b c d).mem = s.mem :=
  enqueueEvt_only (L := partsOfEvent) (by decide) (Only.refl s) .mem (by decide)
@[simp] theorem enqueueEvt_pins (a b c d : Nat) : (s.enqueueEvt a b c d).pins = s.pins :=
  enqueueEvt_only (L := partsOfEvent) (by decide) (Only.refl s) .pins (by decide)

theorem trcFold_pending (l : List Nat) (g : State → Nat → Nat) : (l.foldl (fun s c =>
    (s.wri F.TRC_CH_COUNT_COUNT c (g s c)).wri F.TRC_CH_TRIG_INDEX c (g s c)) s).pending = s.pending := by
  induction l generalizing s with
  | nil => rfl
  | cons c t ih => rw [List.foldl_cons, ih]; rfl
@[simp] theorem trcTrigger_pending  : (s.trcTrigger).pending = s.pending := by
  unfold trcTrigger; split
  · simp [trcFold_pending]
  · rfl
@[simp] theorem trcTrigger_out  : (s.trcTrigger).out = s.out :=
  trcTrigger_only (L := [.trc, .regs 49]) (by decide) (Only.refl s) .out (by decide)
@[simp] theorem trcTrigger_free  : (s.trcTrigger).free = s.free :=
  trcTrigger_only (L := [.trc, .regs 49]) (by decide) (Only.refl s) .free (by decide)
@[simp] theorem trcTrigger_sq  : (s.trcTrigger).sq = s.sq :=
  trcTrigger_only (L := [.trc, .regs 49]) (by decide) (Only.refl s) .sq (by decide)
@[simp] theorem trcTrigger_obj  : (s.trcTrigger).obj = s.obj :=
  trcTrigger_only (L := [.trc, .regs 49]) (by decide) (Only.refl s) .obj (by decide)
@[simp] theorem trcTrigger_life  : (s.trcTrigger).life = s.life :=
  trcTrigger_only (L := [.trc, .regs 49]) (by decide) (Only.refl s) .life (by decide)
@[simp] theorem trcTrigger_boot  : (s.trcTrigger).boot = s.boot :=
  trcTrigger_only (L := [.trc, .regs 49]) (by decide) (Only.refl s) .boot (by decide)
@[simp] theorem trcTrigger_tape  : (s.trcTrigger).tape = s.tape :=
  trcTrigger_only (L := [.trc, .regs 49]) (by decide) (Only.refl s) .tape (by decide)
@[simp] theorem trcTrigger_mot  : (s.trcTrigger).mot = s.mot :=
  trcTrigger_only (L := [.trc, .regs 49]) (by decide) (Only.refl s) .mot (by decide)
@[simp] theorem trcTrigger_disk  : (s.trcTrigger).disk = s.disk :=
  trcTrigger_only (L := [.trc, .regs 49]) (by decide) (Only.refl s) .disk (by decide)
@[simp] theorem trcTrigger_det  : (s.trcTrigger).det = s.det :=
  trcTrigger_only (L := [.trc, .regs 49]) (by decide) (Only.refl s) .det (by decide)
@[simp] theorem trcTrigger_medium  : (s.trcTrigger).medium = s.medium :=
  trcTrigger_only (L := [.trc, .regs 49]) (by decide) (Only.refl s) .medium (by decide)
@[simp] theorem trcTrigger_wra  : (s.trcTrigger).wra = s.wra :=
  trcTrigger_only (L := [.trc, .regs 49]) (by decide) (Only.refl s) .wra (by decide)
@[simp] theorem trcTrigger_ctl  : (s.trcTrigger).ctl = s.ctl :=
  trcTrigger_only (L := [.trc, .regs 49]) (by decide) (Only.refl s) .ctl (by decide)
@[simp] theorem trcTrigger_grp  : (s.trcTrigger).grp = s.grp :=
  trcTrigger_only (L := [.trc, .regs 49]) (by decide) (Only.refl s) .grp (by decide)
@[simp] theorem trcTrigger_red  : (s.trcTrigger).red = s.red :=
  trcTrigger_only (L := [.trc, .regs 49]) (by decide) (Only.refl s) .red (by decide)
@[simp] theorem trcTrigger_pwr  : (s.trcTrigger).pwr = s.pwr :=
  trcTrigger_only (L := [.trc, .regs 49]) (by decide) (Only.refl s) .pwr (by decide)
@[simp] theorem trcTrigger_mem  : (s.trcTrigger).mem = s.mem :=
  trcTrigger_only (L := [.trc, .regs 49]) (by decide) (Only.refl s) .mem (by decide)
@[simp] theorem trcTrigger_pins  : (s.trcTrigger).pins = s.pins :=
  trcTrigger_only (L := [.trc, .regs 49]) (by decide) (Only.refl s) .pins (by decide)

@[simp] theorem raiseFor_pending (a b c d e g : Nat) : (s.raiseFor a b c d e g).pending = s.pending := by
  unfold raiseFor; dsimp only; repeat' split
  all_goals simp
@[simp] theorem raiseFor_free (a b c d e g : Nat) : (s.raiseFor a b c d e g).free = s.free :=
  raiseFor_only (L := partsOfEvent) (by decide) (Only.refl s) .free (by decide)
@[simp] theorem raiseFor_sq (a b c d e g : Nat) : (s.raiseFor a b c d e g).sq = s.sq :=
  raiseFor_only (L := partsOfEvent) (by decide) (Only.refl s) .sq (by decide)
@[simp] theorem raiseFor_obj (a b c d e g : Nat) : (s.raiseFor a b c d e g).obj = s.obj :=
  raiseFor_only (L := partsOfEvent) (by decide) (Only.refl s) .obj (by decide)
@[simp] theorem raiseFor_boot (a b c d e g : Nat) : (s.raiseFor a b c d e g).boot = s.boot :=
  raiseFor_only (L := partsOfEvent) (by decide) (Only.refl s) .boot (by decide)
@[simp] theorem raiseFor_tape (a b c d e g : Nat) : (s.raiseFor a b c d e g).tape = s.tape :=
  raiseFor_only (L := partsOfEvent) (by decide) (Only.refl s) .tape (by decide)
@[simp] theorem raiseFor_mot (a b c d e g : Nat) : (s.raiseFor a b c d e g).mot = s.mot :=
  raiseFor_only (L := partsOfEvent) (by decide) (Only.refl s) .mot (by decide)
@[simp] theorem raiseFor_disk (a b c d e g : Nat) : (s.raiseFor a b c d e g).disk = s.disk :=
  raiseFor_only (L := partsOfEvent) (by decide) (Only.refl s) .disk (by decide)
@[simp] theorem raiseFor_det (a b c d e g : Nat) : (s.raiseFor a b c d e g).det = s.det :=
  raiseFor_only (L := partsOfEvent) (by decide) (Only.refl s) .det (by decide)
@[simp] theorem raiseFor_medium (a b c d e g : Nat) : (s.raiseFor a b c d e g).medium = s.medium :=
  raiseFor_only (L := partsOfEvent) (by decide) (Only.refl s) .medium (by decide)
@[simp] theorem raiseFor_wra (a b c d e g : Nat) : (s.raiseFor a b c d e g).wra = s.wra :=
  raiseFor_only (L := partsOfEvent) (by decide) (Only.refl s) .wra (by decide)
@[simp] theorem raiseFor_ctl (a b c d e g : Nat) : (s.raiseFor a b c d e g).ctl = s.ctl :=
  raiseFor_only (L := partsOfEvent) (by decide) (Only.refl s) .ctl (by decide)
@[simp] theorem raiseFor_grp (a b c d e g : Nat) : (s.raiseFor a b c d e g).grp = s.grp :=
  raiseFor_only (L := partsOfEvent) (by decide) (Only.refl s) .grp (by decide)
@[simp] theorem raiseFor_red (a b c d e g : Nat) : (s.raiseFor a b c d e g).red = s.red :=
  raiseFor_only (L := partsOfEvent) (by decide) (Only.refl s) .red (by decide)
@[simp] theorem raiseFor_pwr (a b c d e g : Nat) : (s.raiseFor a b c d e g).pwr = s.pwr :=
  raiseFor_only (L := partsOfEvent) (by decide) (Only.refl s) .pwr (by decide)
@[simp] theorem raiseFor_mem (a b c d e g : Nat) : (s.raiseFor a b c d e g).mem = s.mem :=
  raiseFor_only (L := partsOfEvent) (by decide) (Only.refl s) .mem (by decide)
@[simp] theorem raiseFor_pins (a b c d e g : Nat) : (s.raiseFor a b c d e g).pins = s.pins :=
  raiseFor_only (L := partsOfEvent) (by decide) (Only.refl s) .pins (by decide)

@[simp] theorem lifeAdd_pending (a b : Nat) : (s.lifeAdd a b).pending = s.pending := by
  unfold lifeAdd lifeStep; dsimp only; repeat' split
  all_goals simp
@[simp] theorem lifeAdd_free (a b : Nat) : (s.lifeAdd a b).free = s.free :=
  lifeAdd_only (L := partsOfEvent) (by decide) (Only.refl s) .free (by decide)
@[simp] theorem lifeAdd_sq (a b : Nat) : (s.lifeAdd a b).sq = s.sq :=
  lifeAdd_only (L := partsOfEvent) (by decide) (Only.refl s) .sq (by decide)
@[simp] theorem lifeAdd_obj (a b : Nat) : (s.lifeAdd a b).obj = s.obj :=
  lifeAdd_only (L := partsOfEvent) (by decide) (Only.refl s) .obj (by decide)
@[simp] theorem lifeAdd_boot (a b : Nat) : (s.lifeAdd a b).boot = s.boot :=
  lifeAdd_only (L := partsOfEvent) (by decide) (Only.refl s) .boot (by decide)
@[simp] theorem lifeAdd_tape (a b : Nat) : (s.lifeAdd a b).tape = s.tape :=
  lifeAdd_only (L := partsOfEvent) (by decide) (Only.refl s) .tape (by decide)
@[simp] theorem lifeAdd_mot (a b : Nat) : (s.lifeAdd a b).mot = s.mot :=
  lifeAdd_only (L := partsOfEvent) (by decide) (Only.refl s) .mot (by decide)
@[simp] theorem lifeAdd_disk (a b : Nat) : (s.lifeAdd a b).disk = s.disk :=
  lifeAdd_only (L := partsOfEvent) (by decide) (Only.refl s) .disk (by decide)
@[simp] theorem lifeAdd_det (a b : Nat) : (s.lifeAdd a b).det = s.det :=
  lifeAdd_only (L := partsOfEvent) (by decide) (Only.refl s) .det (by decide)
@[simp] theorem lifeAdd_medium (a b : Nat) : (s.lifeAdd a b).medium = s.medium :=
  lifeAdd_only (L := partsOfEvent) (by decide) (Only.refl s) .medium (by decide)
@[simp] theorem lifeAdd_wra (a b : Nat) : (s.lifeAdd a b).wra = s.wra :=
  lifeAdd_only (L := partsOfEvent) (by decide) (Only.refl s) .wra (by decide)
@[simp] theorem lifeAdd_ctl (a b : Nat) : (s.lifeAdd a b).ctl = s.ctl :=
  lifeAdd_only (L := partsOfEvent) (by decide) (Only.refl s) .ctl (by decide)
@[simp] theorem lifeAdd_grp (a b : Nat) : (s.lifeAdd a b).grp = s.grp :=
  lifeAdd_only (L := partsOfEvent) (by decide) (Only.refl s) .grp (by decide)
@[simp] theorem lifeAdd_red (a b : Nat) : (s.lifeAdd a b).red = s.red :=
  lifeAdd_only (L := partsOfEvent) (by decide) (Only.refl s) .red (by decide)
@[simp] theorem lifeAdd_pwr (a b : Nat) : (s.lifeAdd a b).pwr = s.pwr :=
  lifeAdd_only (L := partsOfEvent) (by decide) (Only.refl s) .pwr (by decide)
@[simp] theorem lifeAdd_mem (a b : Nat) : (s.lifeAdd a b).mem = s.mem :=
  lifeAdd_only (L := partsOfEvent) (by decide) (Only.refl s) .mem (by decide)
@[simp] theorem lifeAdd_pins (a b : Nat) : (s.lifeAdd a b).pins = s.pins :=
  lifeAdd_only (L := partsOfEvent) (by decide) (Only.refl s) .pins (by decide)

@[simp] theorem setIngest_pending (n : Nat) : (s.setIngest n).pending = s.pending := by
  unfold setIngest; dsimp only; repeat' split
  all_goals simp
@[simp] theorem setIngest_free (n : Nat) : (s.setIngest n).free = s.free :=
  setIngest_only (L := partsOfEvent) (by decide) (Only.refl s) .free (by decide)
@[simp] theorem setIngest_sq (n : Nat) : (s.setIngest n).sq = s.sq :=
  setIngest_only (L := partsOfEvent) (by decide) (Only.refl s) .sq (by decide)
@[simp] theorem setIngest_obj (n : Nat) : (s.setIngest n).obj = s.obj :=
  setIngest_only (L := partsOfEvent) (by decide) (Only.refl s) .obj (by decide)
@[simp] theorem setIngest_boot (n : Nat) : (s.setIngest n).boot = s.boot :=
  setIngest_only (L := partsOfEvent) (by decide) (Only.refl s) .boot (by decide)
@[simp] theorem setIngest_tape (n : Nat) : (s.setIngest n).tape = s.tape :=
  setIngest_only (L := partsOfEvent) (by decide) (Only.refl s) .tape (by decide)
@[simp] theorem setIngest_mot (n : Nat) : (s.setIngest n).mot = s.mot :=
  setIngest_only (L := partsOfEvent) (by decide) (Only.refl s) .mot (by decide)
@[simp] theorem setIngest_disk (n : Nat) : (s.setIngest n).disk = s.disk :=
  setIngest_only (L := partsOfEvent) (by decide) (Only.refl s) .disk (by decide)
@[simp] theorem setIngest_det (n : Nat) : (s.setIngest n).det = s.det :=
  setIngest_only (L := partsOfEvent) (by decide) (Only.refl s) .det (by decide)
@[simp] theorem setIngest_medium (n : Nat) : (s.setIngest n).medium = s.medium :=
  setIngest_only (L := partsOfEvent) (by decide) (Only.refl s) .medium (by decide)
@[simp] theorem setIngest_wra (n : Nat) : (s.setIngest n).wra = s.wra :=
  setIngest_only (L := partsOfEvent) (by decide) (Only.refl s) .wra (by decide)
@[simp] theorem setIngest_ctl (n : Nat) : (s.setIngest n).ctl = s.ctl :=
  setIngest_only (L := partsOfEvent) (by decide) (Only.refl s) .ctl (by decide)
@[simp] theorem setIngest_grp (n : Nat) : (s.setIngest n).grp = s.grp :=
  setIngest_only (L := partsOfEvent) (by decide) (Only.refl s) .grp (by decide)
@[simp] theorem setIngest_red (n : Nat) : (s.setIngest n).red = s.red :=
  setIngest_only (L := partsOfEvent) (by decide) (Only.refl s) .red (by decide)
@[simp] theorem setIngest_pwr (n : Nat) : (s.setIngest n).pwr = s.pwr :=
  setIngest_only (L := partsOfEvent) (by decide) (Only.refl s) .pwr (by decide)
@[simp] theorem setIngest_mem (n : Nat) : (s.setIngest n).mem = s.mem :=
  setIngest_only (L := partsOfEvent) (by decide) (Only.refl s) .mem (by decide)
@[simp] theorem setIngest_pins (n : Nat) : (s.setIngest n).pins = s.pins :=
  setIngest_only (L := partsOfEvent) (by decide) (Only.refl s) .pins (by decide)

end State

end Sys2Proof.Machine
end

