-- ==== Sys2Proof/Laws/Complete.lean ====
section
/-!
SUPPORT. The end of a command (R88 to R92, R97): with room in its ring, its completion entry is written and the device
holds the command no longer.
-/

set_option Elab.async false

namespace Sys2Proof.Machine

theorem Emitted.suffix {o : Output} {s t u : State} (h : Emitted o s t) (h2 : t.out <:+ u.out) : Emitted o s u := by
  obtain ⟨pre, h, ho⟩ := h
  obtain ⟨q, h2⟩ := h2
  exact ⟨q ++ pre, by rw [← h2, h, List.append_assoc], List.mem_append_right _ ho⟩

theorem Emitted.from {o : Output} {r s t : State} (h : r.out <:+ s.out) (h2 : Emitted o s t) : Emitted o r t := by
  obtain ⟨pre, h2, ho⟩ := h2
  obtain ⟨q, h⟩ := h
  exact ⟨pre ++ q, by rw [h2, ← h, List.append_assoc], List.mem_append_left _ ho⟩

theorem Emitted.emit (o : Output) (s : State) : Emitted o s (s.emit o) := ⟨[o], rfl, List.mem_cons_self⟩

/-- The places of the fields that the ingest FIFO's level may write besides those of an event. -/
def ingestPlaces : List Nat :=
  [F.HIF_ING_LEVEL_ENTRIES, F.HIF_ING_LEVEL_HIGH_STATE, F.HIF_ING_EVENT_FULL_HIT, F.HIF_ING_EVENT_CROSS_HIGH,
   F.HIF_ING_EVENT_CROSS_LOW].map Field.place ++ eventPlaces

theorem State.fget_setIngest (s : State) (n : Nat) {f : Field} (i j : Nat) (h : f.place ∉ ingestPlaces) :
    (s.setIngest n).fget f i j = s.fget f i j := by
  simp only [ingestPlaces, List.mem_append, not_or, List.map_cons, List.map_nil, List.mem_cons, List.not_mem_nil] at h
  obtain ⟨⟨h1, h2, h3, h4, h5, -⟩, he⟩ := h
  unfold State.setIngest
  dsimp only
  repeat' split
  all_goals
    simp only [State.raise, State.fget_raiseFor _ _ _ _ _ _ _ _ _ he, State.fget_fset_other _ _ _ _ _ _ h1,
      State.fget_fset_other _ _ _ _ _ _ h2, State.fget_fset_other _ _ _ _ _ _ h3, State.fget_fset_other _ _ _ _ _ _ h4,
      State.fget_fset_other _ _ _ _ _ _ h5]

theorem State.setIngest_out (s : State) (n : Nat) : s.out <:+ (s.setIngest n).out := (State.setIngest_keeps (.refl s)).out

@[simp] theorem State.syncIngest_sq (s : State) : s.syncIngest.sq = s.sq := State.setIngest_sq _ _

/-- The fields that decide where a completion goes and what its entry says. -/
def ringFields : List Field :=
  [F.HIF_LINK_CFG_PORTS, F.SQ_CR_CFG_PORT, F.SQ_CR_CFG_SIZE_LOG2, F.SQ_CR_STATE_TAIL, F.SQ_CR_STATE_HEAD,
   F.SQ_CR_HELD_PHASE, F.SQ_THROTTLE_STATE, F.SQ_CR_BASE_LO_ADDR_LO, F.SQ_CR_BASE_HI_ADDR_HI]

/-- What decides where a completion goes is the same in both states. -/
structure SameRings (s t : State) : Prop where
  held : t.sq.held = s.sq.held
  field : ∀ f ∈ ringFields, ∀ i, t.fget f i 0 = s.fget f i 0

theorem SameRings.full {s t : State} (h : SameRings s t) (r : Nat) : t.ringFull r = s.ringFull r := by
  unfold State.ringFull State.ringSize State.rdi
  rw [h.field F.SQ_CR_STATE_TAIL (by decide), h.field F.SQ_CR_CFG_SIZE_LOG2 (by decide),
    h.field F.SQ_CR_STATE_HEAD (by decide)]

theorem SameRings.heldCount {s t : State} (h : SameRings s t) (r : Nat) : t.heldCount r = s.heldCount r := by
  simp only [State.heldCount, h.held]

theorem SameRings.entry {s t : State} (h : SameRings s t) (c : Cmd) (st re au : Nat) (rp : Bool) :
    entryOf t c st re au rp = entryOf s c st re au rp := by
  simp only [entryOf, State.ringBase, State.boundPort, State.dual, State.rdi, State.rd, h.field F.SQ_CR_CFG_PORT (by decide),
    h.field F.HIF_LINK_CFG_PORTS (by decide), h.field F.SQ_CR_STATE_TAIL (by decide),
    h.field F.SQ_CR_HELD_PHASE (by decide), h.field F.SQ_THROTTLE_STATE (by decide),
    h.field F.SQ_CR_BASE_LO_ADDR_LO (by decide), h.field F.SQ_CR_BASE_HI_ADDR_HI (by decide)]

theorem SameRings.refl (s : State) : SameRings s s := ⟨rfl, fun _ _ _ => rfl⟩

theorem SameRings.trans {r s t : State} (h1 : SameRings r s) (h2 : SameRings s t) : SameRings r t where
  held := h2.held.trans h1.held
  field f hf i := (h2.field f hf i).trans (h1.field f hf i)

theorem SameRings.of_regs {s t : State} (h1 : t.regs = s.regs) (h2 : t.sq.held = s.sq.held) : SameRings s t where
  held := h2
  field f _ i := by unfold State.fget; rw [h1]

theorem SameRings.of_fields {s t : State} (h1 : ∀ f i j, f.place ∉ ingestPlaces → t.fget f i j = s.fget f i j)
    (h2 : t.sq.held = s.sq.held) : SameRings s t where
  held := h2
  field f hf i := h1 f i 0 (by revert f; decide)

theorem SameRings.raise (s : State) (a b c d e g : Nat) : SameRings s (s.raiseFor a b c d e g) :=
  .of_fields (fun _ _ _ h => State.fget_raiseFor _ _ _ _ _ _ _ _ _ (fun hm => h (List.mem_append_right _ hm)))
    (by rw [State.raiseFor_sq])

theorem SameRings.fset (s : State) (f : Field) (i j v : Nat) (h : ∀ g ∈ ringFields, g.place ≠ f.place) :
    SameRings s (s.fset f i j v) :=
  ⟨rfl, fun g hg _ => State.fget_fset_other _ _ _ _ _ _ (h g hg)⟩

theorem sameRings_sync (s : State) (uid : Nat) : SameRings s (s.dropCmd uid).syncIngest :=
  .of_fields (fun f i j h => by
    show ((s.dropCmd uid).setIngest _).fget f i j = _
    rw [State.fget_setIngest _ _ _ _ h]
    rfl) (by rw [State.syncIngest_sq]; rfl)

theorem State.writeEntry_sent (s : State) (c : Cmd) (st re au : Nat) (rp : Bool) :
    Emitted (entryOf s c st re au rp) s (s.writeEntry (c.completion st re au rp) false) := by
  have h0 : (s.emit (entryOf s c st re au rp)).out <:+ (s.writeEntry (c.completion st re au rp) false).out := by
    unfold State.writeEntry
    extract_lets r tail phase port s1 s2
    have h1 : (s.emit (entryOf s c st re au rp)).out <:+ s1.out := List.suffix_refl _
    have h2 : s1.out <:+ s2.out := by
      unfold s2
      split <;> exact List.suffix_refl _
    exact (h1.trans h2).trans (State.coalesce_keeps (State.release_keeps (.refl s2))).out
  exact (Emitted.emit _ s).suffix h0

theorem State.postRaw_sent (s : State) (c : Cmd) (st re au : Nat) (rp : Bool) (h : RoomFor c s) :
    Emitted (entryOf s c st re au rp) s (s.postRaw (c.completion st re au rp)) := by
  obtain ⟨h1, h2, h3⟩ := h
  have hs : ∀ t, c.src ≠ .mgmt t := by intro t e; rw [e] at h1; cases h1
  have e : s.postRaw (c.completion st re au rp) = s.writeEntry (c.completion st re au rp) false := by
    have hc : (s.ringFull c.ring || decide (s.heldCount c.ring > 0)) = false := by simp [h2, h3]
    unfold State.postRaw
    cases hsrc : c.src with
    | mgmt t => exact absurd hsrc (hs t)
    | slot t => simp only [Cmd.completion, hsrc, hc, Bool.false_eq_true, if_false]
    | tag a b => simp only [Cmd.completion, hsrc, hc, Bool.false_eq_true, if_false]
  rw [e]
  exact State.writeEntry_sent s c st re au rp

/-- The commands of `t` are among those of `s`. -/
def FewerCmds (s t : State) : Prop := ∀ d ∈ t.sq.cmds, d ∈ s.sq.cmds

theorem FewerCmds.trans {r s t : State} (h1 : FewerCmds r s) (h2 : FewerCmds s t) : FewerCmds r t :=
  fun d hd => h1 d (h2 d hd)

theorem State.postRaw_cmds (s : State) (c : Completion) : (s.postRaw c).sq.cmds = s.sq.cmds := by
  have hsig : ∀ (u : State) p v, (u.signal p v).sq = u.sq := fun u p v => State.signal_sq u p v
  have hco : ∀ (u : State) r, (u.coalesce r).sq.cmds = u.sq.cmds := by
    intro u r
    unfold State.coalesce
    dsimp only
    split
    · rw [hsig]
    · rfl
  have hrel : ∀ (u : State) x z, (u.release x z).sq.cmds = u.sq.cmds := by
    intro u x z
    unfold State.release
    cases x <;> rfl
  unfold State.postRaw
  split
  · rfl
  · split
    · rfl
    · unfold State.writeEntry
      dsimp only
      rw [hco, hrel]
      split <;> rfl

theorem State.resolveAborts_cmds (s : State) (src : Src) : FewerCmds s (s.resolveAborts src) := by
  unfold State.resolveAborts
  extract_lets due q1 s1
  have h0 : FewerCmds s s1 := fun d hd => hd
  clear_value s1
  have : ∀ (l : List (Src × Src)) (u : State), FewerCmds s u → FewerCmds s (l.foldl (fun s p =>
      match s.cmdOf p.1 with
      | some a => (s.dropCmd a.uid).postRaw (a.completion stSuccess 0 0 false)
      | none => s) u) := by
    intro l
    induction l with
    | nil => exact fun u h => h
    | cons p t ih =>
      intro u h
      rw [List.foldl_cons]
      apply ih
      split
      · intro d hd
        rw [State.postRaw_cmds] at hd
        exact h d (List.mem_filter.mp hd).1
      · exact h
  exact this _ _ h0

theorem State.post_cmds (s : State) (c : Completion) : FewerCmds s (s.post c) := by
  unfold State.post
  dsimp only
  split
  · exact FewerCmds.trans (fun d hd => by rwa [State.postRaw_cmds] at hd) (State.resolveAborts_cmds _ _)
  · exact fun d hd => by rwa [State.postRaw_cmds] at hd

theorem State.settle_cmds (n : Nat) (s : State) : FewerCmds s (State.settle n s) := by
  induction n generalizing s with
  | zero => exact fun d hd => hd
  | succ n ih =>
    unfold State.settle
    split
    · next c _ =>
      have h0 : FewerCmds s (s.dropCmd c.uid) := fun d hd => (List.mem_filter.mp hd).1
      exact h0.trans ((State.post_cmds _ _).trans (ih _))
    · exact fun d hd => hd

/-- The end of a command: with room in its ring its completion entry is written, and the device holds it no longer. -/
theorem State.finishWith_completed (s : State) (c : Cmd) (st re au : Nat) (rp : Bool) (h : RoomFor c s) :
    Completed c st re au rp s (s.finishWith c st re au rp) := by
  have hr := sameRings_sync s c.uid
  have h' : RoomFor c (s.dropCmd c.uid).syncIngest := ⟨h.1, (hr.full _).trans h.2.1, (hr.heldCount _).trans h.2.2⟩
  have hk : Keeps s (s.dropCmd c.uid).syncIngest := State.syncIngest_keeps (State.dropCmd_keeps (.refl s))
  have h1 : Emitted (entryOf s c st re au rp) s ((s.dropCmd c.uid).syncIngest.postRaw (c.completion st re au rp)) := by
    rw [← hr.entry]
    exact Emitted.from hk.out (State.postRaw_sent _ c st re au rp h')
  unfold State.finishWith
  dsimp only
  refine ⟨h1.suffix ?_, ?_⟩
  · refine List.IsSuffix.trans ?_ (State.settle_keeps (.refl _)).out
    unfold State.post
    dsimp only
    split
    · exact (State.resolveAborts_keeps (.refl _)).out
    · exact List.suffix_refl _
  · intro d hd
    have := State.post_cmds _ _ d (State.settle_cmds _ _ d hd)
    rw [State.syncIngest_sq] at this
    simpa using (List.mem_filter.mp this).2

end Sys2Proof.Machine
end

