-- ==== Sys2Proof/Laws/Commands.lean ====
section
/-!
SUPPORT. The commands the device holds: what replacing one leaves, and the end of a command seen from an earlier state.
-/

set_option Elab.async false

namespace Sys2Proof.Machine

/-- A command replaced by one of the same source is what the source's command is from then on. -/
theorem State.cmdOf_setCmd (s : State) {src : Src} {c d : Cmd} (h : s.cmdOf src = some c) (hu : d.uid = c.uid)
    (hs : d.src = src) : (s.setCmd d).cmdOf src = some d := by
  unfold State.cmdOf at h ⊢
  unfold State.setCmd
  dsimp only
  generalize s.sq.cmds = l at h ⊢
  induction l with
  | nil => cases h
  | cons x t ih =>
    rw [List.map_cons]
    rw [List.find?_cons] at h ⊢
    by_cases hx : x.uid = d.uid
    · rw [if_pos hx]
      simp [hs]
    · rw [if_neg hx]
      split at h
      · next hxs =>
        have := Option.some.inj h
        rw [this] at hx
        exact absurd hu.symm hx
      · exact ih h

/-- Commands with another uid stay as they are. -/
theorem State.setCmd_other (s : State) (d : Cmd) : ∀ c ∈ s.sq.cmds, c.uid ≠ d.uid → c ∈ (s.setCmd d).sq.cmds := by
  intro c hc hn
  exact List.mem_map.mpr ⟨c, hc, if_neg hn⟩

@[simp] theorem State.setCmd_regs (s : State) (d : Cmd) : (s.setCmd d).regs = s.regs := rfl
@[simp] theorem State.setCmd_out (s : State) (d : Cmd) : (s.setCmd d).out = s.out := rfl
@[simp] theorem State.setCmd_host (s : State) (d : Cmd) : (s.setCmd d).host = s.host := rfl
@[simp] theorem State.setCmd_held (s : State) (d : Cmd) : (s.setCmd d).sq.held = s.sq.held := rfl
@[simp] theorem State.fget_setCmd (s : State) (d : Cmd) (f : Field) (i j : Nat) :
    (s.setCmd d).fget f i j = s.fget f i j := rfl

theorem SameRings.setCmd (s : State) (d : Cmd) : SameRings s (s.setCmd d) := .of_regs rfl rfl

theorem RoomFor.to {s t : State} {c d : Cmd} (h : RoomFor c s) (hr : SameRings s t) (hs : d.src.host = c.src.host)
    (hg : d.ring = c.ring) : RoomFor d t :=
  ⟨hs.trans h.1, by rw [hg, hr.full]; exact h.2.1, by rw [hg, hr.heldCount]; exact h.2.2⟩

/-- The end of a command in a later state with the same rings is its end in the earlier one. -/
theorem Completed.since {s t u : State} {c : Cmd} {st re au : Nat} {rp : Bool} (hr : SameRings s t)
    (ho : s.out <:+ t.out) (h : Completed c st re au rp t u) : Completed c st re au rp s u := by
  refine ⟨?_, h.2⟩
  rw [← hr.entry]
  exact Emitted.from ho h.1

/-- A change that leaves the queues and the registers of HIF and SQ alone leaves the rings alone. -/
theorem SameRings.of_only {L : List Part} {s t : State} (h : Only L s t) (hq : .sq ∉ L) (h4 : .regs 4 ∉ L)
    (h8 : .regs 8 ∉ L) : SameRings s t where
  held := by
    have : t.sq = s.sq := h .sq hq
    rw [this]
  field f hf i := by
    have hb : f ∈ allFields ∧ (f.block = 4 ∨ f.block = 8) := by revert f; decide
    obtain ⟨hm, hb | hb⟩ := hb
    · exact h (.regs 4) h4 f hm hb i 0
    · exact h (.regs 8) h8 f hm hb i 0

theorem State.cmdOf_congr {s t : State} (h : t.sq = s.sq) (src : Src) : t.cmdOf src = s.cmdOf src := by
  unfold State.cmdOf
  rw [h]

theorem State.fail_completed (s : State) (c : Cmd) (st : Nat) (h : RoomFor c s) :
    Completed c st 0 0 false s (s.fail c st) := State.finishWith_completed s c st 0 0 false h

end Sys2Proof.Machine
end

