-- ==== Sys2Proof/Laws/Fields.lean ====
section
/-!
SUPPORT. The register map: no two fields share a place, so a field of the register file is known by its place and its
indices; and what a fold of writes over the fields of one register leaves.
-/

set_option Elab.async false

namespace Sys2Proof.Machine

/-- The numbers of a list rise strictly. -/
def risesStrictly : List Nat → Bool
  | a :: b :: t => Nat.blt a b && risesStrictly (b :: t)
  | _ => true

theorem pairwise_of_rises : ∀ l : List Nat, risesStrictly l = true → l.Pairwise (· < ·)
  | [], _ => .nil
  | [a], _ => List.pairwise_singleton _ a
  | a :: b :: t, h => by
    simp only [risesStrictly, Bool.and_eq_true, Nat.blt_eq] at h
    have ih := pairwise_of_rises (b :: t) h.2
    refine List.pairwise_cons.mpr ⟨fun x hx => ?_, ih⟩
    rcases List.mem_cons.mp hx with rfl | hx
    · exact h.1
    · exact h.1.trans ((List.pairwise_cons.mp ih).1 x hx)

set_option maxRecDepth 100000 in
theorem allFields_rise : risesStrictly ((allFields.map Field.place).insertionSort (· ≤ ·)) = true := by
  decide +kernel

theorem allFields_nodup : (allFields.map Field.place).Nodup :=
  ((List.perm_insertionSort (· ≤ ·) _).nodup_iff).mp
    ((pairwise_of_rises _ allFields_rise).imp fun h => Nat.ne_of_lt h)

set_option maxRecDepth 100000 in
theorem allFields_small : ∀ f ∈ allFields, f.c1 ≤ 2 ^ 16 ∧ f.c2 ≤ 2 ^ 16 := by decide +kernel

theorem Field.place_inj {f g : Field} (hf : f ∈ allFields) (hg : g ∈ allFields) (h : f.place = g.place) : f = g :=
  List.inj_on_of_nodup_map allFields_nodup hf hg h

theorem mem_fieldsAt_index {off : Nat} {p : Field × Nat × Nat} (h : p ∈ fieldsAt off) :
    p.1.indexAt off = some p.2 := by
  simp only [fieldsAt, List.mem_filterMap] at h
  obtain ⟨f, -, h⟩ := h
  cases hi : f.indexAt off with
  | none => rw [hi] at h; cases h
  | some ij => rw [hi] at h; cases h; exact hi

theorem mem_fieldsAt_small {off : Nat} {p : Field × Nat × Nat} (h : p ∈ fieldsAt off) :
    p.2.1 < 2 ^ 16 ∧ p.2.2 < 2 ^ 16 := by
  have hs := allFields_small p.1 (mem_fieldsAt h)
  have hi := mem_fieldsAt_index h
  unfold Field.indexAt at hi
  split at hi
  · cases hi
  · extract_lets d i r j at hi
    clear_value d i r j
    split at hi
    · next hc =>
      simp only [Bool.and_eq_true, decide_eq_true_eq] at hc
      have := Option.some.inj hi
      rw [← this]
      exact ⟨Nat.lt_of_lt_of_le hc.1.1 hs.1, Nat.lt_of_lt_of_le hc.1.2 hs.2⟩
    · cases hi

theorem fieldsAt_nodup (off : Nat) : (fieldsAt off).Pairwise (fun p q => p.1.place ≠ q.1.place) := by
  have hb : (blockFields off).Pairwise (fun f g => f.place ≠ g.place) := by
    unfold blockFields
    split
    · next b hb =>
      have hm := List.mem_of_find?_eq_some hb
      have hsub : b.2.2.Sublist allFields := List.sublist_flatten_of_mem (List.mem_map_of_mem hm)
      exact List.pairwise_map.mp ((hsub.map Field.place).nodup allFields_nodup)
    · exact .nil
  unfold fieldsAt
  rw [List.pairwise_filterMap]
  refine hb.imp ?_
  intro f g h p hp q hq
  simp only [Option.map_eq_some_iff] at hp hq
  obtain ⟨_, -, rfl⟩ := hp
  obtain ⟨_, -, rfl⟩ := hq
  exact h

/-- A field of the map that is not the written one at the same indices keeps its value. -/
theorem State.fget_fset_field (s : State) {f g : Field} (hf : f ∈ allFields) (hg : g ∈ allFields) (i j v k l : Nat)
    (hi : i < 2 ^ 16 ∧ j < 2 ^ 16) (hk : k < 2 ^ 16 ∧ l < 2 ^ 16) (h : (g, k, l) ≠ (f, i, j)) :
    (s.fset f i j v).fget g k l = s.fget g k l := by
  by_cases hp : g.place = f.place
  · have := Field.place_inj hg hf hp
    subst this
    apply State.fget_fset_index
    rw [Nat.mod_eq_of_lt hk.1, Nat.mod_eq_of_lt hk.2, Nat.mod_eq_of_lt hi.1, Nat.mod_eq_of_lt hi.2]
    by_cases h1 : k = i
    · right; intro h2; exact h (by rw [h1, h2])
    · exact .inl h1
  · exact State.fget_fset_other _ _ _ _ _ _ hp

end Sys2Proof.Machine
end

