-- ==== Sys2Proof/Laws/Answers.lean ====
section
/-!
SUPPORT. What the end of a command and a doorbell error leave alone, and what finding a source's command says of it.
-/

set_option Elab.async false

namespace Sys2Proof.Machine

/-- The command of a source is one that the source has, and the device holds it. -/
theorem State.cmdOf_src {s : State} {src : Src} {c : Cmd} (h : s.cmdOf src = some c) : c.src = src := by
  simpa using List.find?_some h
theorem State.cmdOf_mem {s : State} {src : Src} {c : Cmd} (h : s.cmdOf src = some c) : c ∈ s.sq.cmds :=
  List.mem_of_find?_eq_some h

/-- An admitted command with an opcode is the one that its row executes. -/
theorem State.admittedCmd_of {s : State} {src : Src} {c : Cmd} {op : Nat} (h : s.cmdOf src = some c)
    (ha : c.stage = .admitted) (ho : c.frame.opcode = op) : s.admittedCmd src op = some c := by
  unfold State.admittedCmd
  rw [h]
  dsimp only
  rw [if_pos (by simp [ha, ho])]

/-- The end of a command changes only the parts that a completion touches: not the map, nothing that has left, and no
register outside blocks 0, 4, 8 and 49. -/
theorem State.finishWith_same (s : State) (c : Cmd) (st re au : Nat) (rp : Bool) (p : Part) (h : p ∉ partsOfPost) :
    p.same s (s.finishWith c st re au rp) :=
  State.finishWith_only (L := partsOfPost) (by decide) (Only.refl s) p h
theorem State.finishWith_obj (s : State) (c : Cmd) (st re au : Nat) (rp : Bool) :
    (s.finishWith c st re au rp).obj = s.obj := s.finishWith_same c st re au rp .obj (by decide)
theorem State.finishWith_out (s : State) (c : Cmd) (st re au : Nat) (rp : Bool) :
    s.out <:+ (s.finishWith c st re au rp).out := (State.finishWith_keeps (.refl s)).out
theorem State.finishWith_fget (s : State) (c : Cmd) (st re au : Nat) (rp : Bool) (f : Field) {i j : Nat}
    (hf : f ∈ allFields) (hb : f.block ∉ [0, 4, 8, 49]) : (s.finishWith c st re au rp).fget f i j = s.fget f i j :=
  s.finishWith_same c st re au rp (.regs f.block) (by simp [partsOfPost, partsOfEvent]; simp at hb; tauto) f hf rfl i j

/-- The registers that name the source of an error of the queues (Table 04-6). -/
def sqErrPlaces : List Nat := [F.SQ_ERR_SOURCE_ID, F.SQ_ERR_SOURCE_BIT, F.SQ_ERR_SOURCE_KIND].map Field.place

/-- An error of the queues writes its own bit and the fields of its source, and no other field. -/
theorem State.fget_sqErr (s : State) {f g : Field} (k n i j : Nat) (h : g.place ≠ f.place) (hs : g.place ∉ sqErrPlaces) :
    (s.sqErr f k n).fget g i j = s.fget g i j := by
  simp only [sqErrPlaces, List.map_cons, List.map_nil, List.mem_cons, not_or, List.not_mem_nil] at hs
  unfold State.sqErr State.wr
  rw [State.fget_fset_other _ _ _ _ _ _ hs.2.2.1, State.fget_fset_other _ _ _ _ _ _ hs.2.1,
    State.fget_fset_other _ _ _ _ _ _ hs.1, State.fget_fset_other _ _ _ _ _ _ h]

end Sys2Proof.Machine
end

