-- ==== Sys2Proof/Laws/KeepsFlags.lean ====
section
/-!
SUPPORT. What every operation of Machine/Flags.lean keeps (Laws/Keeps.lean).
-/

set_option Elab.async false

namespace Sys2Proof.Machine

theorem State.popEvt_keeps {s0 s : State} (h : Keeps s0 s) : Keeps s0 (State.popEvt s) := by
  unfold State.popEvt
  split
  · iterate 4 refine State.wr_keeps ?_
    exact h
  · next e t he =>
    extract_lets n1
    iterate 4 refine State.wr_keeps ?_
    refine ⟨h.queue, h.out, h.fuses, fun hs => ?_⟩
    obtain ⟨u, ⟨a, b⟩, c, d, e⟩ := h.inv hs
    have : t.length ≤ 4096 := by rw [he] at a; simp only [List.length_cons] at a; omega
    exact ⟨u, ⟨this, b⟩, c, d, e⟩

theorem State.readEvt_keeps {s0 s : State} {x2} (h : Keeps s0 s) :
    Keeps.Pair s0 (State.readEvt s x2) := by
  unfold State.readEvt
  extract_lets s1
  have hs1 : Keeps s0 s1 := by
    unfold s1
    exact State.popEvt_keeps (by assumption)
  clear_value s1
  refine Keeps.itePair ?_ ?_
  · refine Keeps.pair ?_
    assumption
  · refine Keeps.pair ?_
    assumption

theorem State.readTrace_keeps {s0 s : State} (h : Keeps s0 s) :
    Keeps.Pair s0 (State.readTrace s) := by
  unfold State.readTrace
  extract_lets n1 n2
  refine Keeps.itePair ?_ ?_
  · refine Keeps.pair ?_
    refine State.wr_keeps ?_
    exact State.wr_keeps (by assumption)
  · refine Keeps.pair ?_
    assumption

theorem State.readReg_keeps {s0 s : State} {x2 x3} (h : Keeps s0 s) :
    Keeps.Pair s0 (State.readReg s x2 x3) := by
  unfold State.readReg
  extract_lets n1 n2 n3 n4
  refine Keeps.itePair ?_ ?_
  · refine Keeps.pair ?_
    assumption
  · refine Keeps.itePair ?_ ?_
    · exact State.readEvt_keeps (by assumption)
    · refine Keeps.itePair ?_ ?_
      · exact State.readTrace_keeps (by assumption)
      · refine Keeps.itePair ?_ ?_
        · refine Keeps.pair ?_
          assumption
        · refine Keeps.itePair ?_ ?_
          · refine Keeps.pair ?_
            refine Keeps.upd ?_ rfl rfl rfl --UPD .host
            assumption
          · refine Keeps.itePair ?_ ?_
            · refine Keeps.pair ?_
              assumption
            · refine Keeps.pair ?_
              refine Keeps.foldl _ ?_ (fun s _ h => ?_)
              · assumption
              · refine Keeps.ite ?_ ?_
                · exact State.fset_keeps (by assumption)
                · assumption

end Sys2Proof.Machine
end

