-- ==== Sys2Proof/Laws/KeepsHostLink.lean ====
section
/-!
SUPPORT. What every operation of Machine/HostLink.lean keeps (Laws/Keeps.lean).
-/

set_option Elab.async false

namespace Sys2Proof.Machine

theorem State.accessErr_keeps {s0 s : State} {x2 x3 x4} (h : Keeps s0 s) :
    Keeps s0 (State.accessErr s x2 x3 x4) := by
  unfold State.accessErr
  refine State.wr_keeps ?_
  refine State.wr_keeps ?_
  exact State.wr_keeps (by assumption)

theorem State.discardWork_keeps {s0 s : State} {x2} (h : Keeps s0 s) :
    Keeps s0 (State.discardWork s x2) := by
  unfold State.discardWork
  extract_lets n1 n2 n3 n4 n5
  refine Keeps.upd ?_ rfl rfl rfl --UPD .obj, .tape, .disk, .red
  assumption

theorem State.badBar4_keeps {s0 s : State} {x2 x3} (h : Keeps s0 s) :
    Keeps s0 (State.badBar4 s x2 x3) := by
  unfold State.badBar4
  extract_lets s1
  have hs1 : Keeps s0 s1 := by
    unfold s1
    exact State.wr_keeps (by assumption)
  clear_value s1
  refine Keeps.ite ?_ ?_
  · assumption
  · exact State.emit_keeps (by assumption)

theorem State.bar4Write_keeps {s0 s : State} {x2 x3 x4} (h : Keeps s0 s) :
    Keeps s0 (State.bar4Write s x2 x3 x4) := by
  unfold State.bar4Write
  extract_lets n1 n2 n3
  refine Keeps.ite ?_ ?_
  · refine Keeps.upd ?_ rfl rfl rfl --UPD .host
    assumption
  · assumption

theorem State.setAer_keeps {s0 s : State} {x2 x3 x4} (h : Keeps s0 s) :
    Keeps s0 (State.setAer s x2 x3 x4) := by
  unfold State.setAer
  split
  · extract_lets n1
    refine Keeps.upd ?_ rfl rfl rfl --UPD .host
    assumption
  · extract_lets n2
    refine Keeps.upd ?_ rfl rfl rfl --UPD .host
    assumption
  · extract_lets n3
    refine Keeps.upd ?_ rfl rfl rfl --UPD .host
    assumption
  · extract_lets n4
    refine Keeps.upd ?_ rfl rfl rfl --UPD .host
    assumption

theorem State.flushMsix_keeps {s0 s : State} {x2} (h : Keeps s0 s) :
    Keeps s0 (State.flushMsix s x2) := by
  unfold State.flushMsix
  refine Keeps.foldl _ ?_ (fun s _ h => ?_)
  · assumption
  · extract_lets n1 n2 n3
    refine Keeps.ite ?_ ?_
    · refine State.emit_keeps ?_
      refine Keeps.upd ?_ rfl rfl rfl --UPD .host
      assumption
    · assumption

theorem State.cfgWrite_keeps {s0 s : State} {x2 x3 x4} (h : Keeps s0 s) :
    Keeps s0 (State.cfgWrite s x2 x3 x4) := by
  unfold State.cfgWrite
  extract_lets n1 n2 n3 n4 s5
  have hs5 : Keeps s0 s5 := by
    unfold s5
    refine Keeps.upd ?_ rfl rfl rfl --UPD .host
    assumption
  clear_value s5
  refine Keeps.ite ?_ ?_
  · exact State.setAer_keeps (by assumption)
  · refine Keeps.ite ?_ ?_
    · exact State.setAer_keeps (by assumption)
    · refine Keeps.ite ?_ ?_
      · exact State.flushMsix_keeps (by assumption)
      · assumption

theorem State.doRead_keeps {s0 s : State} {x2 x3} (h : Keeps s0 s) :
    Keeps s0 (State.doRead s x2 x3) := by
  unfold State.doRead
  refine Keeps.ite ?_ ?_
  · assumption
  · refine Keeps.ite ?_ ?_
    · refine State.emit_keeps ?_
      exact State.accessErr_keeps (by assumption)
    · split
      refine State.emit_keeps ?_
      refine Keeps.of_eq ?_ (by assumption)
      exact State.readReg_keeps (by assumption)

theorem State.logAer_keeps {s0 s : State} {x2 x3 x4 x5} (h : Keeps s0 s) :
    Keeps s0 (State.logAer s x2 x3 x4 x5) := by
  unfold State.logAer
  extract_lets s1
  have hs1 : Keeps s0 s1 := by
    unfold s1
    exact State.setAer_keeps (by assumption)
  clear_value s1
  exact State.raise_keeps (by assumption)

theorem State.setLink_keeps {s0 s : State} {x2 x3 x4} (h : Keeps s0 s) :
    Keeps s0 (State.setLink s x2 x3 x4) := by
  unfold State.setLink
  refine Keeps.ite ?_ ?_
  · refine State.wr_keeps ?_
    exact State.wr_keeps (by assumption)
  · refine State.wr_keeps ?_
    exact State.wr_keeps (by assumption)

theorem execConfigRequest_keeps {s0 s : State} {x1 x2 x3 x4} (h : Keeps s0 s) :
    Keeps.Out s0 (execConfigRequest x1 x2 x3 x4 s) := by
  unfold execConfigRequest
  refine Keeps.iteOut ?_ ?_
  · refine Keeps.next ?_
    assumption
  · refine Keeps.iteOut ?_ ?_
    · refine Keeps.next ?_
      exact State.emit_keeps (by assumption)
    · refine Keeps.iteOut ?_ ?_
      · refine Keeps.next ?_
        refine State.emit_keeps ?_
        exact State.cfgWrite_keeps (by assumption)
      · refine Keeps.next ?_
        exact State.emit_keeps (by assumption)

theorem execLinkUp_keeps {s0 s : State} {x1 x2 x3} (h : Keeps s0 s) :
    Keeps.Out s0 (execLinkUp x1 x2 x3 s) := by
  unfold execLinkUp
  extract_lets n1 s2
  have hs2 : Keeps s0 s2 := by
    unfold s2
    exact State.setLink_keeps (by assumption)
  clear_value s2
  refine Keeps.iteOut ?_ ?_
  · refine Keeps.next ?_
    assumption
  · refine Keeps.next ?_
    exact State.raise_keeps (by assumption)

theorem execBar0BadAccess_keeps {s0 s : State} {x1 x2 x3} (h : Keeps s0 s) :
    Keeps.Out s0 (execBar0BadAccess x1 x2 x3 s) := by
  unfold execBar0BadAccess
  extract_lets s1
  have hs1 : Keeps s0 s1 := by
    unfold s1
    exact State.accessErr_keeps (by assumption)
  clear_value s1
  refine Keeps.iteOut ?_ ?_
  · refine Keeps.next ?_
    assumption
  · refine Keeps.next ?_
    refine Keeps.ite ?_ ?_
    · assumption
    · exact State.emit_keeps (by assumption)

theorem execLatchedPairLoRead_keeps {s0 s : State} {x1 x2} (h : Keeps s0 s) :
    Keeps.Out s0 (execLatchedPairLoRead x1 x2 s) := by
  unfold execLatchedPairLoRead
  refine Keeps.next ?_
  exact State.doRead_keeps (by assumption)

theorem execRcCounterRead_keeps {s0 s : State} {x1 x2} (h : Keeps s0 s) :
    Keeps.Out s0 (execRcCounterRead x1 x2 s) := by
  unfold execRcCounterRead
  refine Keeps.next ?_
  exact State.doRead_keeps (by assumption)

theorem execEvtData0Read_keeps {s0 s : State} {x1} (h : Keeps s0 s) :
    Keeps.Out s0 (execEvtData0Read x1 s) := by
  unfold execEvtData0Read
  refine Keeps.next ?_
  exact State.doRead_keeps (by assumption)

theorem execBar4BadAccess_keeps {s0 s : State} {x1 x2} (h : Keeps s0 s) :
    Keeps.Out s0 (execBar4BadAccess x1 x2 s) := by
  unfold execBar4BadAccess
  refine Keeps.next ?_
  refine Keeps.ite ?_ ?_
  · exact State.badBar4_keeps (by assumption)
  · assumption

theorem execMsixVectorUnmask_keeps {s0 s : State} {x1 x2 x3 x4 x5} (h : Keeps s0 s) :
    Keeps.Out s0 (execMsixVectorUnmask x1 x2 x3 x4 x5 s) := by
  unfold execMsixVectorUnmask
  extract_lets n1 n2 s3
  have hs3 : Keeps s0 s3 := by
    unfold s3
    exact State.bar4Write_keeps (by assumption)
  clear_value s3
  refine Keeps.iteOut ?_ ?_
  · refine Keeps.next ?_
    assumption
  · refine Keeps.iteOut ?_ ?_
    · refine Keeps.next ?_
      exact State.badBar4_keeps (by assumption)
    · refine Keeps.iteOut ?_ ?_
      · refine Keeps.next ?_
        refine State.flushMsix_keeps ?_
        refine Keeps.ite ?_ ?_
        · exact State.bar4Write_keeps (by assumption)
        · assumption
      · refine Keeps.next ?_
        exact State.emit_keeps (by assumption)

theorem execReceivedTlpError_keeps {s0 s : State} {x1 x2 x3} (h : Keeps s0 s) :
    Keeps.Out s0 (execReceivedTlpError x1 x2 x3 s) := by
  unfold execReceivedTlpError
  refine Keeps.iteOut ?_ ?_
  · refine Keeps.next ?_
    assumption
  · refine Keeps.next ?_
    exact State.logAer_keeps (by assumption)

end Sys2Proof.Machine
end

