-- ==== Sys2Proof/Laws/KeepsSubmission.lean ====
section
/-!
SUPPORT. What every operation of Machine/Submission.lean keeps (Laws/Keeps.lean).
-/

set_option Elab.async false

namespace Sys2Proof.Machine

theorem State.takeBufs_keeps {s0 s : State} {x2 x3} (h : Keeps s0 s) :
    Keeps s0 (State.takeBufs s x2 x3) := by
  unfold State.takeBufs
  refine Keeps.ite ?_ ?_
  · exact State.setCmd_keeps (by assumption)
  · exact State.fail_keeps (by assumption)

theorem State.askWhole_keeps {s0 s : State} {x2 x3 x4} (h : Keeps s0 s) :
    Keeps s0 (State.askWhole s x2 x3 x4) := by
  unfold State.askWhole
  refine Keeps.ite ?_ ?_
  · refine State.emit_keeps ?_
    exact State.setCmd_keeps (by assumption)
  · assumption

theorem State.askData_keeps {s0 s : State} {x2} (h : Keeps s0 s) :
    Keeps s0 (State.askData s x2) := by
  unfold State.askData
  split
  · split
    · exact State.askWhole_keeps (by assumption)
    · assumption
  · exact State.askWhole_keeps (by assumption)
  · extract_lets n1 n2 s3
    have hs3 : Keeps s0 s3 := by
      unfold s3
      refine Keeps.foldl _ ?_ (fun s _ h => ?_)
      · assumption
      · exact State.emit_keeps (by assumption)
    clear_value s3
    refine Keeps.ite ?_ ?_
    · refine Keeps.ite ?_ ?_
      · assumption
      · exact State.setCmd_keeps (by assumption)
    · assumption
  · assumption

theorem State.askAll_keeps {s0 s : State} (h : Keeps s0 s) :
    Keeps s0 (State.askAll s) := by
  unfold State.askAll
  refine Keeps.foldl _ ?_ (fun s _ h => ?_)
  · assumption
  · split
    · exact State.askData_keeps (by assumption)
    · assumption

theorem State.arrive_keeps {s0 s : State} {x2 x3 x4 x5 x6 x7} (h : Keeps s0 s) :
    Keeps s0 (State.arrive s x2 x3 x4 x5 x6 x7) := by
  refine ⟨h.queue, h.out, h.fuses, fun hs => ?_⟩
  obtain ⟨u, a, b, c, d⟩ := h.inv hs
  refine ⟨⟨?_, fun c hc => ?_⟩, a, b, c, d⟩
  · show ((s.sq.cmds ++ [_]).map Cmd.uid).Pairwise _
    rw [List.map_append, List.pairwise_append]
    refine ⟨u.1, List.pairwise_singleton _ _, fun x hx y hy => ?_⟩
    obtain ⟨e, he, rfl⟩ := List.mem_map.mp hx
    rw [List.mem_singleton.mp hy]
    exact u.2 e he
  · rcases List.mem_append.mp hc with hc | hc
    · exact Nat.lt_succ_of_lt (u.2 c hc)
    · rw [List.mem_singleton.mp hc]
      exact Nat.lt_succ_self _

theorem State.pathChecks_keeps {s0 s : State} {x2 x3} (h : Keeps s0 s) :
    Keeps s0 (State.pathChecks s x2 x3) := by
  unfold State.pathChecks
  refine Keeps.ite ?_ ?_
  · exact State.fail_keeps (by assumption)
  · refine Keeps.ite ?_ ?_
    · exact State.setCmd_keeps (by assumption)
    · refine Keeps.ite ?_ ?_
      · exact State.conflict_keeps (by assumption)
      · exact State.fail_keeps (by assumption)

theorem State.goWrite_keeps {s0 s : State} {x2 x3 x4} (h : Keeps s0 s) :
    Keeps s0 (State.goWrite s x2 x3 x4) := by
  unfold State.goWrite
  extract_lets n1 n2 n3 n4 s5 s6
  have hs5 : Keeps s0 s5 := by
    unfold s5
    exact State.setSlot_keeps (by assumption)
  clear_value s5
  have hs6 : Keeps s0 s6 := by
    unfold s6
    exact State.arrive_keeps (by assumption)
  clear_value s6
  refine Keeps.ite ?_ ?_
  · refine State.setSlot_keeps ?_
    exact State.sqErr_keeps (by assumption)
  · refine Keeps.ite ?_ ?_
    · exact State.post_keeps (by assumption)
    · split
      · assumption
      · refine Keeps.ite ?_ ?_
        · exact State.fail_keeps (by assumption)
        · exact State.pathChecks_keeps (by assumption)

theorem State.bar2Write_keeps {s0 s : State} {x2 x3 x4} (h : Keeps s0 s) :
    Keeps s0 (State.bar2Write s x2 x3 x4) := by
  unfold State.bar2Write
  extract_lets n1 n2 n3 n4 n5 s6
  have hs6 : Keeps s0 s6 := by
    unfold s6
    refine Keeps.ite ?_ ?_
    · exact State.setSlot_keeps (by assumption)
    · assumption
  clear_value s6
  refine Keeps.ite ?_ ?_
  · assumption
  · refine Keeps.ite ?_ ?_
    · exact State.emit_keeps (by assumption)
    · refine Keeps.ite ?_ ?_
      · exact State.wr_keeps (by assumption)
      · refine Keeps.ite ?_ ?_
        · exact State.wr_keeps (by assumption)
        · refine Keeps.ite ?_ ?_
          · exact State.sqErr_keeps (by assumption)
          · refine Keeps.ite ?_ ?_
            · exact State.sqErr_keeps (by assumption)
            · refine Keeps.ite ?_ ?_
              · exact State.goWrite_keeps (by assumption)
              · assumption

theorem State.writeIngWm_keeps {s0 s : State} {x2} (h : Keeps s0 s) :
    Keeps s0 (State.writeIngWm s x2) := by
  unfold State.writeIngWm
  extract_lets n1 n2
  refine Keeps.ite ?_ ?_
  · exact State.wr_keeps (by assumption)
  · refine State.syncIngest_keeps ?_
    refine State.wr_keeps ?_
    exact State.wr_keeps (by assumption)

theorem State.writeArb_keeps {s0 s : State} {x2 x3} (h : Keeps s0 s) :
    Keeps s0 (State.writeArb s x2 x3) := by
  unfold State.writeArb
  extract_lets s1 n2 n3 n4
  have hs1 : Keeps s0 s1 := by
    unfold s1
    exact State.sqErr_keeps (by assumption)
  clear_value s1
  refine Keeps.ite ?_ ?_
  · refine Keeps.ite ?_ ?_
    · refine State.wr_keeps ?_
      exact State.wr_keeps (by assumption)
    · assumption
  · refine Keeps.ite ?_ ?_
    · refine State.wr_keeps ?_
      refine State.wr_keeps ?_
      exact State.wr_keeps (by assumption)
    · assumption

theorem State.writeTq_keeps {s0 s : State} {x2 x3 x4} (h : Keeps s0 s) :
    Keeps s0 (State.writeTq s x2 x3 x4) := by
  unfold State.writeTq
  extract_lets s1 n2 n3 n4 n5 n6 n7 n8
  have hs1 : Keeps s0 s1 := by
    unfold s1
    exact State.sqErr_keeps (by assumption)
  clear_value s1
  split
  · refine Keeps.ite ?_ ?_
    · assumption
    · exact State.wri_keeps (by assumption)
  · refine Keeps.ite ?_ ?_
    · assumption
    · exact State.wri_keeps (by assumption)
  · refine Keeps.ite ?_ ?_
    · assumption
    · refine State.wri_keeps ?_
      refine State.wri_keeps ?_
      refine State.wri_keeps ?_
      exact State.wri_keeps (by assumption)

theorem State.writeCr_keeps {s0 s : State} {x2 x3 x4} (h : Keeps s0 s) :
    Keeps s0 (State.writeCr s x2 x3 x4) := by
  unfold State.writeCr
  extract_lets s1 n2 n3 n4 n5 n6 s7 s8 n9
  have hs1 : Keeps s0 s1 := by
    unfold s1
    exact State.sqErr_keeps (by assumption)
  clear_value s1
  have hs7 : Keeps s0 s7 := by
    unfold s7
    refine State.wri_keeps ?_
    refine State.wri_keeps ?_
    exact State.wri_keeps (by assumption)
  clear_value s7
  have hs8 : Keeps s0 s8 := by
    unfold s8
    refine State.wri_keeps ?_
    refine State.wri_keeps ?_
    exact State.wri_keeps (by assumption)
  clear_value s8
  split
  · refine Keeps.ite ?_ ?_
    · assumption
    · exact State.wri_keeps (by assumption)
  · refine Keeps.ite ?_ ?_
    · assumption
    · exact State.wri_keeps (by assumption)
  · refine Keeps.ite ?_ ?_
    · assumption
    · refine Keeps.ite ?_ ?_
      · refine Keeps.upd ?_ rfl rfl rfl --UPD .sq
        assumption
      · assumption

theorem State.ringTag_keeps {s0 s : State} {x2 x3 x4} (h : Keeps s0 s) :
    Keeps s0 (State.ringTag s x2 x3 x4) := by
  unfold State.ringTag
  extract_lets n1 s2 n3
  have hs2 : Keeps s0 s2 := by
    unfold s2
    exact State.wri_keeps (by assumption)
  clear_value s2
  refine Keeps.ite ?_ ?_
  · exact State.sqErr_keeps (by assumption)
  · exact State.arrive_keeps (by assumption)

theorem execIngWmWrite_keeps {s0 s : State} {x1 x2} (h : Keeps s0 s) :
    Keeps.Out s0 (execIngWmWrite x1 x2 s) := by
  unfold execIngWmWrite
  refine Keeps.next ?_
  refine Keeps.ite ?_ ?_
  · exact State.writeIngWm_keeps (by assumption)
  · assumption

theorem execArbConfigWrite_keeps {s0 s : State} {x1 x2 x3} (h : Keeps s0 s) :
    Keeps.Out s0 (execArbConfigWrite x1 x2 x3 s) := by
  unfold execArbConfigWrite
  refine Keeps.next ?_
  refine Keeps.ite ?_ ?_
  · exact State.writeArb_keeps (by assumption)
  · assumption

theorem execTqCfgWrite_keeps {s0 s : State} {x1 x2 x3 x4} (h : Keeps s0 s) :
    Keeps.Out s0 (execTqCfgWrite x1 x2 x3 x4 s) := by
  unfold execTqCfgWrite
  refine Keeps.next ?_
  refine Keeps.ite ?_ ?_
  · exact State.writeTq_keeps (by assumption)
  · assumption

theorem execCrCfgWrite_keeps {s0 s : State} {x1 x2 x3 x4} (h : Keeps s0 s) :
    Keeps.Out s0 (execCrCfgWrite x1 x2 x3 x4 s) := by
  unfold execCrCfgWrite
  refine Keeps.next ?_
  refine Keeps.ite ?_ ?_
  · exact State.writeCr_keeps (by assumption)
  · assumption

theorem execSlotWordWrite_keeps {s0 s : State} {x1 x2 x3} (h : Keeps s0 s) :
    Keeps.Out s0 (execSlotWordWrite x1 x2 x3 s) := by
  unfold execSlotWordWrite
  refine Keeps.next ?_
  exact State.bar2Write_keeps (by assumption)

theorem execGoWrite_keeps {s0 s : State} {x1 x2 x3} (h : Keeps s0 s) :
    Keeps.Out s0 (execGoWrite x1 x2 x3 s) := by
  unfold execGoWrite
  refine Keeps.next ?_
  exact State.bar2Write_keeps (by assumption)

theorem execTqDoorbell_keeps {s0 s : State} {x1 x2 x3} (h : Keeps s0 s) :
    Keeps.Out s0 (execTqDoorbell x1 x2 x3 s) := by
  unfold execTqDoorbell
  extract_lets n1
  refine Keeps.iteOut ?_ ?_
  · refine Keeps.next ?_
    assumption
  · refine Keeps.iteOut ?_ ?_
    · refine Keeps.next ?_
      exact State.wr_keeps (by assumption)
    · refine Keeps.iteOut ?_ ?_
      · refine Keeps.next ?_
        exact State.sqErr_keeps (by assumption)
      · refine Keeps.next ?_
        refine State.askAll_keeps ?_
        refine Keeps.foldl _ ?_ (fun s _ h => ?_)
        · assumption
        · exact State.ringTag_keeps (by assumption)

theorem execTagEntryFetched_keeps {s0 s : State} {x1 x2 x3} (h : Keeps s0 s) :
    Keeps.Out s0 (execTagEntryFetched x1 x2 x3 s) := by
  unfold execTagEntryFetched
  split
  · extract_lets n1
    refine Keeps.iteOut ?_ ?_
    · refine Keeps.next ?_
      refine State.pathChecks_keeps ?_
      exact State.setCmd_keeps (by assumption)
    · refine Keeps.next ?_
      assumption
  · refine Keeps.next ?_
    assumption

theorem execDescListFetched_keeps {s0 s : State} {x1 x2} (h : Keeps s0 s) :
    Keeps.Out s0 (execDescListFetched x1 x2 s) := by
  unfold execDescListFetched
  split
  · extract_lets n1
    refine Keeps.iteOut ?_ ?_
    · refine Keeps.iteOut ?_ ?_
      · refine Keeps.next ?_
        exact State.fail_keeps (by assumption)
      · refine Keeps.next ?_
        exact State.takeBufs_keeps (by assumption)
    · refine Keeps.next ?_
      assumption
  · refine Keeps.next ?_
    assumption

theorem execDmaReadFailed_keeps {s0 s : State} {x1 x2 x3} (h : Keeps s0 s) :
    Keeps.Out s0 (execDmaReadFailed x1 x2 x3 s) := by
  unfold execDmaReadFailed
  split
  · extract_lets s1
    have hs1 : Keeps s0 s1 := by
      unfold s1
      exact State.logAer_keeps (by assumption)
    clear_value s1
    refine Keeps.iteOut ?_ ?_
    · refine Keeps.next ?_
      refine State.fail_keeps ?_
      exact State.discardWork_keeps (by assumption)
    · refine Keeps.next ?_
      assumption
  · refine Keeps.next ?_
    assumption

theorem execCrHeadDoorbell_keeps {s0 s : State} {x1 x2 x3} (h : Keeps s0 s) :
    Keeps.Out s0 (execCrHeadDoorbell x1 x2 x3 s) := by
  unfold execCrHeadDoorbell
  extract_lets n1 n2 s3
  have hs3 : Keeps s0 s3 := by
    unfold s3
    refine State.drainHeld_keeps ?_
    exact State.wri_keeps (by assumption)
  clear_value s3
  refine Keeps.iteOut ?_ ?_
  · refine Keeps.next ?_
    assumption
  · refine Keeps.iteOut ?_ ?_
    · refine Keeps.next ?_
      exact State.wr_keeps (by assumption)
    · refine Keeps.iteOut ?_ ?_
      · refine Keeps.next ?_
        exact State.settle_keeps (by assumption)
      · refine Keeps.next ?_
        exact State.sqErr_keeps (by assumption)

theorem execCoalTimerExpiry_keeps {s0 s : State} {x1} (h : Keeps s0 s) :
    Keeps.Out s0 (execCoalTimerExpiry x1 s) := by
  unfold execCoalTimerExpiry
  extract_lets n1 n2 s3
  have hs3 : Keeps s0 s3 := by
    unfold s3
    refine Keeps.upd ?_ rfl rfl rfl --UPD .sq
    assumption
  clear_value s3
  refine Keeps.iteOut ?_ ?_
  · refine Keeps.next ?_
    assumption
  · refine Keeps.next ?_
    exact State.signal_keeps (by assumption)

end Sys2Proof.Machine
end

