-- ==== Sys2Proof/Laws/KeepsArbiter.lean ====
section
/-!
SUPPORT. What every operation of Machine/Arbiter.lean keeps (Laws/Keeps.lean).
-/

set_option Elab.async false

namespace Sys2Proof.Machine

theorem State.admissionChecks_keeps {s0 s : State} {x2} (h : Keeps s0 s) :
    Keeps s0 (State.admissionChecks s x2) := by
  unfold State.admissionChecks
  refine Keeps.ite ?_ ?_
  · exact State.conflict_keeps (by assumption)
  · split
    · exact State.fail_keeps (by assumption)
    · refine Keeps.ite ?_ ?_
      · exact State.setCmd_keeps (by assumption)
      · refine Keeps.ite ?_ ?_
        · exact State.takeBufs_keeps (by assumption)
        · refine Keeps.ite ?_ ?_
          · exact State.fail_keeps (by assumption)
          · refine State.askData_keeps ?_
            exact State.setCmd_keeps (by assumption)

theorem State.spend_keeps {s0 s : State} {x2} (h : Keeps s0 s) : Keeps s0 (State.spend s x2) := by
  unfold State.spend
  refine Keeps.ite ?_ ?_
  · exact Keeps.upd (Keeps.upd h rfl rfl rfl) rfl rfl rfl
  · exact Keeps.upd h rfl rfl rfl

theorem State.admitCmd_keeps {s0 s : State} {x2} (h : Keeps s0 s) : Keeps s0 (State.admitCmd s x2) := by
  unfold State.admitCmd
  extract_lets n1 s2 n3 s4
  exact State.admissionChecks_keeps (State.spend_keeps (Keeps.upd (State.setCmd_keeps h) rfl rfl rfl))

theorem State.dispatchSlot_keeps {s0 s : State} (h : Keeps s0 s) : Keeps s0 (State.dispatchSlot s) := by
  have cur : ∀ (q : SqSt) (k : Cls) (v : Int), (q.setCur k v).cmds = q.cmds ∧ (q.setCur k v).nextUid = q.nextUid :=
    fun q k v => by cases k <;> exact ⟨rfl, rfl⟩
  unfold State.dispatchSlot
  extract_lets n1 n2 s3 n4 n5 n6
  have hs3 : Keeps s0 s3 := State.wr_keeps h
  have fold : ∀ (l : List Cls) (q : SqSt) (f : Cls → Nat),
      (l.foldl (fun q k => q.setCur k (q.cur k + (f k : Int))) q).cmds = q.cmds ∧
        (l.foldl (fun q k => q.setCur k (q.cur k + (f k : Int))) q).nextUid = q.nextUid := by
    intro l
    induction l with
    | nil => exact fun _ _ => ⟨rfl, rfl⟩
    | cons a t ih => exact fun q f => ⟨(ih _ f).1.trans (cur _ _ _).1, (ih _ f).2.trans (cur _ _ _).2⟩
  have h6 : n6.cmds = s3.sq.cmds ∧ n6.nextUid = s3.sq.nextUid := fold _ _ _
  clear_value s3 n6
  split
  · exact State.admitCmd_keeps (State.wr_keeps h)
  · split
    · exact hs3
    · split
      · exact hs3
      · next k _ _ _ _ =>
        refine State.admitCmd_keeps (Keeps.upd hs3 ?_ rfl rfl)
        rw [(cur _ _ _).1, (cur _ _ _).2, h6.1, h6.2]

theorem State.newWindow_keeps {s0 s : State} (h : Keeps s0 s) :
    Keeps s0 (State.newWindow s) := by
  unfold State.newWindow
  extract_lets n1 n2
  refine Keeps.upd ?_ rfl rfl rfl --UPD .sq, .pwr
  assumption

theorem execArbDispatchSlot_keeps {s0 s : State} (h : Keeps s0 s) :
    Keeps.Out s0 (execArbDispatchSlot s) := by
  unfold execArbDispatchSlot
  refine Keeps.next ?_
  refine Keeps.ite ?_ ?_
  · assumption
  · exact State.dispatchSlot_keeps (by assumption)

theorem execThrottleWindow_keeps {s0 s : State} (h : Keeps s0 s) :
    Keeps.Out s0 (execThrottleWindow s) := by
  unfold execThrottleWindow
  refine Keeps.next ?_
  exact State.newWindow_keeps (by assumption)

end Sys2Proof.Machine
end

