-- ==== Sys2Proof/Laws/KeepsTansy.lean ====
section
/-!
SUPPORT. What every operation of Machine/Tansy.lean keeps (Laws/Keeps.lean).
-/

set_option Elab.async false

namespace Sys2Proof.Machine

theorem State.setUnit_keeps {s0 s : State} {x2 x3} (h : Keeps s0 s) :
    Keeps s0 (State.setUnit s x2 x3) := by
  unfold State.setUnit
  extract_lets n1
  refine Keeps.upd ?_ rfl rfl rfl --UPD .obj
  assumption

theorem State.addUnit_keeps {s0 s : State} {x2} (h : Keeps s0 s) :
    Keeps.Pair s0 (State.addUnit s x2) := by
  unfold State.addUnit
  extract_lets n1 n2
  refine Keeps.pair ?_
  refine Keeps.upd ?_ rfl rfl rfl --UPD .obj
  assumption

theorem State.drawNonce_keeps {s0 s : State} (h : Keeps s0 s) :
    Keeps.Pair s0 (State.drawNonce s) := by
  unfold State.drawNonce
  extract_lets n1 n2 n3
  refine Keeps.pair ?_
  refine Keeps.upd ?_ rfl rfl rfl --UPD .obj
  assumption

theorem State.freeCtx_keeps {s0 s : State} {x2} (h : Keeps s0 s) :
    Keeps s0 (State.freeCtx s x2) := by
  unfold State.freeCtx
  extract_lets n1
  refine Keeps.upd ?_ rfl rfl rfl --UPD .obj
  assumption

theorem State.saveCtx_keeps {s0 s : State} {x2 x3} (h : Keeps s0 s) :
    Keeps s0 (State.saveCtx s x2 x3) := by
  unfold State.saveCtx
  extract_lets n1 n2
  refine Keeps.upd ?_ rfl rfl rfl --UPD .obj
  assumption

theorem State.assignCtx_keeps {s0 s : State} {x2} (h : Keeps s0 s) :
    Keeps s0 (State.assignCtx s x2) := by
  unfold State.assignCtx
  extract_lets n1 n2 n3 n4 n5 n6 s7
  have hs7 : Keeps s0 s7 := by
    unfold s7
    refine Keeps.upd ?_ rfl rfl rfl --UPD .obj
    assumption
  clear_value s7
  refine Keeps.ite ?_ ?_
  · exact State.inc_keeps (by assumption)
  · assumption

theorem State.sealUnit_keeps {s0 s : State} {x2 x3 x4 x5} (h : Keeps s0 s) :
    Keeps.Pair s0 (State.sealUnit s x2 x3 x4 x5) := by
  unfold State.sealUnit
  extract_lets n1 n2 n3
  exact State.addUnit_keeps (by assumption)

theorem State.sealUnits_keeps {s0 s : State} {x1 x2 x3 x4 x5} (h : Keeps s0 s) :
    Keeps.Pair s0 (State.sealUnits x1 x2 x3 x4 x5 s) := by
  induction x4 generalizing x1 x2 x3 x5 s with
  | zero =>
    rw [State.sealUnits]
    refine Keeps.pair ?_
    assumption
  | succ n ih =>
    rw [State.sealUnits]
    split
    split
    refine Keeps.pair ?_
    refine Keeps.of_eq ?_ (by assumption)
    refine ih ?_
    refine Keeps.of_eq ?_ (by assumption)
    exact State.sealUnit_keeps (by assumption)

end Sys2Proof.Machine
end

