-- ==== Sys2Proof/Laws/KeepsLoss.lean ====
section
/-!
SUPPORT. What every operation of Machine/Loss.lean keeps (Laws/Keeps.lean).
-/

set_option Elab.async false

namespace Sys2Proof.Machine

theorem State.loseObject_keeps {s0 s : State} {x2 x3 x4 x5} (h : Keeps s0 s) :
    Keeps s0 (State.loseObject s x2 x3 x4 x5) := by
  unfold State.loseObject
  split
  · assumption
  · extract_lets n1 n2 s3 s4
    have hs3 : Keeps s0 s3 := by
      unfold s3
      refine Keeps.upd ?_ rfl rfl rfl --UPD .obj
      assumption
    clear_value s3
    have hs4 : Keeps s0 s4 := by
      unfold s4
      exact State.raiseFor_keeps (by assumption)
    clear_value s4
    exact State.lifeAdd_keeps (by assumption)

theorem State.loseUnits_keeps {s0 s : State} {x2 x3} (h : Keeps s0 s) :
    Keeps s0 (State.loseUnits s x2 x3) := by
  unfold State.loseUnits
  extract_lets n1 n2 s3
  have hs3 : Keeps s0 s3 := by
    unfold s3
    refine Keeps.foldl _ ?_ (fun s _ h => ?_)
    · assumption
    · exact State.loseObject_keeps (by assumption)
  clear_value s3
  refine Keeps.ite ?_ ?_
  · assumption
  · refine Keeps.foldl _ ?_ (fun s _ h => ?_)
    · assumption
    · extract_lets n4
      exact State.setUnit_keeps (by assumption)

end Sys2Proof.Machine
end

