-- ==== Sys2Proof/Laws/KeepsMedium.lean ====
section
/-!
SUPPORT. What every operation of Machine/Medium.lean keeps (Laws/Keeps.lean).
-/

set_option Elab.async false

namespace Sys2Proof.Machine

theorem State.endMedia_keeps {s0 s : State} {x2 x3 x4 x5} (h : Keeps s0 s) :
    Keeps s0 (State.endMedia s x2 x3 x4 x5) := by
  unfold State.endMedia
  refine Keeps.foldl _ ?_ (fun s _ h => ?_)
  · assumption
  · exact State.finish_keeps (by assumption)

theorem State.setMedium_keeps {s0 s : State} {x2} (h : Keeps s0 s) :
    Keeps s0 (State.setMedium s x2) := by
  unfold State.setMedium
  extract_lets n1
  refine Keeps.upd ?_ rfl rfl rfl --UPD .medium
  assumption

theorem State.startReached_keeps {s0 s : State} {x2} (h : Keeps s0 s) :
    Keeps s0 (State.startReached s x2) := by
  unfold State.startReached
  extract_lets s1 n2 n3 s4 s5 n6
  have hs1 : Keeps s0 s1 := by
    unfold s1
    refine State.endMedia_keeps ?_
    exact State.setMedium_keeps (by assumption)
  clear_value s1
  have hs4 : Keeps s0 s4 := by
    unfold s4
    refine Keeps.upd ?_ rfl rfl rfl --UPD .medium
    assumption
  clear_value s4
  have hs5 : Keeps s0 s5 := by
    unfold s5
    exact State.setMedium_keeps (by assumption)
  clear_value s5
  refine Keeps.ite ?_ ?_
  · refine Keeps.upd ?_ rfl rfl rfl --UPD .medium
    assumption
  · assumption

theorem State.stopReached_keeps {s0 s : State} (h : Keeps s0 s) :
    Keeps s0 (State.stopReached s) := by
  unfold State.stopReached
  extract_lets s1 n2
  have hs1 : Keeps s0 s1 := by
    unfold s1
    refine State.endMedia_keeps ?_
    exact State.setMedium_keeps (by assumption)
  clear_value s1
  refine Keeps.upd ?_ rfl rfl rfl --UPD .medium
  assumption

end Sys2Proof.Machine
end

