-- ==== Sys2Proof/Laws/KeepsDiskFormat.lean ====
section
/-!
SUPPORT. What every operation of Machine/DiskFormat.lean keeps (Laws/Keeps.lean).
-/

set_option Elab.async false

namespace Sys2Proof.Machine

theorem State.setCopy_keeps {s0 s : State} {x2} (h : Keeps s0 s) :
    Keeps s0 (State.setCopy s x2) := by
  unfold State.setCopy
  extract_lets n1
  refine Keeps.upd ?_ rfl rfl rfl --UPD .red
  assumption

theorem State.setDisk_keeps {s0 s : State} {x2} (h : Keeps s0 s) :
    Keeps s0 (State.setDisk s x2) := by
  unfold State.setDisk
  refine Keeps.upd ?_ rfl rfl rfl --UPD .disk
  assumption

theorem State.checkLow_keeps {s0 s : State} {x2} (h : Keeps s0 s) :
    Keeps s0 (State.checkLow s x2) := by
  unfold State.checkLow
  extract_lets n1 n2 n3 s4
  have hs4 : Keeps s0 s4 := by
    unfold s4
    exact State.setDisk_keeps (by assumption)
  clear_value s4
  refine Keeps.ite ?_ ?_
  · refine State.raise_keeps ?_
    exact State.wr_keeps (by assumption)
  · refine Keeps.ite ?_ ?_
    · assumption
    · exact State.setDisk_keeps (by assumption)

theorem State.setRing_keeps {s0 s : State} {x2 x3} (h : Keeps s0 s) :
    Keeps s0 (State.setRing s x2 x3) := by
  unfold State.setRing
  extract_lets n1
  exact State.setDisk_keeps (by assumption)

theorem State.placeRemote_keeps {s0 s : State} {x2} (h : Keeps s0 s) :
    Keeps s0 (State.placeRemote s x2) := by
  unfold State.placeRemote
  extract_lets n1 n2 n3
  split
  · extract_lets s4
    have hs4 : Keeps s0 s4 := by
      unfold s4
      refine State.checkLow_keeps ?_
      exact State.setRing_keeps (by assumption)
    clear_value s4
    exact State.setCopy_keeps (by assumption)
  · refine Keeps.ite ?_ ?_
    · exact State.setCopy_keeps (by assumption)
    · assumption

theorem State.releaseLanding_keeps {s0 s : State} {x2} (h : Keeps s0 s) :
    Keeps s0 (State.releaseLanding s x2) := by
  unfold State.releaseLanding
  extract_lets n1 s2
  have hs2 : Keeps s0 s2 := by
    unfold s2
    exact State.setDisk_keeps (by assumption)
  clear_value s2
  refine Keeps.foldl _ ?_ (fun s _ h => ?_)
  · assumption
  · exact State.checkLow_keeps (by assumption)

theorem State.setZone_keeps {s0 s : State} {x2 x3} (h : Keeps s0 s) :
    Keeps s0 (State.setZone s x2 x3) := by
  unfold State.setZone
  extract_lets n1
  exact State.setDisk_keeps (by assumption)

theorem State.rewriteTable_keeps {s0 s : State} (h : Keeps s0 s) :
    Keeps s0 (State.rewriteTable s) := by
  unfold State.rewriteTable
  extract_lets n1
  exact State.setDisk_keeps (by assumption)

theorem State.startClean_keeps {s0 s : State} {x2} (h : Keeps s0 s) :
    Keeps s0 (State.startClean s x2) := by
  unfold State.startClean
  extract_lets n1 n2 s3 n4 n5 s6
  have hs3 : Keeps s0 s3 := by
    unfold s3
    exact State.setZone_keeps (by assumption)
  clear_value s3
  have hs6 : Keeps s0 s6 := by
    unfold s6
    exact State.setDisk_keeps (by assumption)
  clear_value s6
  exact State.rewriteTable_keeps (by assumption)

theorem State.pickClean_keeps {s0 s : State} (h : Keeps s0 s) :
    Keeps s0 (State.pickClean s) := by
  unfold State.pickClean
  extract_lets n1 n2 n3 n4 s5
  have hs5 : Keeps s0 s5 := by
    unfold s5
    exact State.setDisk_keeps (by assumption)
  clear_value s5
  refine Keeps.ite ?_ ?_
  · assumption
  · split
    · exact State.startClean_keeps (by assumption)
    · split
      · exact State.startClean_keeps (by assumption)
      · assumption

theorem State.addGrown_keeps {s0 s : State} {x2 x3} (h : Keeps s0 s) :
    Keeps s0 (State.addGrown s x2 x3) := by
  unfold State.addGrown
  extract_lets n1 n2 n3 s4 s5
  have hs4 : Keeps s0 s4 := by
    unfold s4
    exact State.setZone_keeps (by assumption)
  clear_value s4
  have hs5 : Keeps s0 s5 := by
    unfold s5
    exact State.rewriteTable_keeps (by assumption)
  clear_value s5
  refine Keeps.ite ?_ ?_
  · refine State.pickClean_keeps ?_
    refine State.raise_keeps ?_
    exact State.wr_keeps (by assumption)
  · assumption

theorem State.hurryRing_keeps {s0 s : State} {x2} (h : Keeps s0 s) :
    Keeps s0 (State.hurryRing s x2) := by
  unfold State.hurryRing
  extract_lets n1 n2
  exact State.setDisk_keeps (by assumption)

theorem State.placeCopies_keeps {s0 s : State} {x1 x3} (h : Keeps s0 s) :
    Keeps.Opt s0 (State.placeCopies x1 s x3) := by
  induction x1 generalizing s x3 with
  | zero =>
    rw [State.placeCopies]
    refine Keeps.some ?_
    assumption
  | succ n ih =>
    rw [State.placeCopies]
    split
    · refine Keeps.some ?_
      assumption
    · extract_lets n1 s2
      have hs2 : Keeps s0 s2 := by
        unfold s2
        refine Keeps.ite ?_ ?_
        · assumption
        · exact State.raise_keeps (by assumption)
      clear_value s2
      refine Keeps.iteOpt ?_ ?_
      · refine Keeps.some ?_
        exact State.setCmd_keeps (by assumption)
      · split
        · exact Keeps.none
        · extract_lets n3 s4 n5
          have hs4 : Keeps s0 s4 := by
            unfold s4
            refine State.checkLow_keeps ?_
            exact State.setRing_keeps (by assumption)
          clear_value s4
          refine Keeps.iteOpt ?_ ?_
          · refine Keeps.some ?_
            refine State.hurryRing_keeps ?_
            exact State.setCmd_keeps (by assumption)
          · refine ih ?_
            exact State.setCmd_keeps (by assumption)

theorem State.startLanding_keeps {s0 s : State} {x2} (h : Keeps s0 s) :
    Keeps s0 (State.startLanding s x2) := by
  unfold State.startLanding
  split
  · refine State.fail_keeps ?_
    exact State.discardWork_keeps (by assumption)
  · split
    · refine State.fail_keeps ?_
      exact State.discardWork_keeps (by assumption)
    · extract_lets s1
      have hs1 : Keeps s0 s1 := by
        unfold s1
        refine Keeps.ite ?_ ?_
        · assumption
        · exact State.raise_keeps (by assumption)
      clear_value s1
      refine Keeps.ite ?_ ?_
      · refine State.hurryRing_keeps ?_
        refine State.hurryRing_keeps ?_
        exact State.setCmd_keeps (by assumption)
      · refine Keeps.getD ?_ ?_
        · exact State.placeCopies_keeps (by assumption)
        · assumption

theorem State.reallocate_keeps {s0 s : State} {x2 x3 x4} (h : Keeps s0 s) :
    Keeps s0 (State.reallocate s x2 x3 x4) := by
  unfold State.reallocate
  extract_lets n1
  refine Keeps.ite ?_ ?_
  · assumption
  · exact State.setDisk_keeps (by assumption)

theorem State.dropClean_keeps {s0 s : State} {x2} (h : Keeps s0 s) :
    Keeps s0 (State.dropClean s x2) := by
  unfold State.dropClean
  extract_lets n1
  exact State.setDisk_keeps (by assumption)

theorem State.endClean_keeps {s0 s : State} {x2} (h : Keeps s0 s) :
    Keeps s0 (State.endClean s x2) := by
  unfold State.endClean
  refine Keeps.foldl _ ?_ (fun s _ h => ?_)
  · assumption
  · extract_lets s1
    have hs1 : Keeps s0 s1 := by
      unfold s1
      exact State.dropClean_keeps (by assumption)
    clear_value s1
    refine Keeps.foldl _ ?_ (fun s _ h => ?_)
    · assumption
    · exact State.conflict_keeps (by assumption)

theorem State.lostData_keeps {s0 s : State} {x2} (h : Keeps s0 s) :
    Keeps s0 (State.lostData s x2) := by
  unfold State.lostData
  extract_lets n1 n2 n3 s4 n5 n6 s7 n8 n9 n10 s11 n12 n13 n14
  have hs4 : Keeps s0 s4 := by
    unfold s4
    exact State.setRing_keeps (by assumption)
  clear_value s4
  have hs7 : Keeps s0 s7 := by
    unfold s7
    refine Keeps.foldl _ ?_ (fun s _ h => ?_)
    · assumption
    · split
      · extract_lets n15
        exact State.setUnit_keeps (by assumption)
      · assumption
  clear_value s7
  have hs11 : Keeps s0 s11 := by
    unfold s11
    exact State.setDisk_keeps (by assumption)
  clear_value s11
  refine State.loseUnits_keeps ?_
  exact State.loseUnits_keeps (by assumption)

theorem State.recopy_keeps {s0 s : State} {x2} (h : Keeps s0 s) :
    Keeps s0 (State.recopy s x2) := by
  unfold State.recopy
  split
  · refine Keeps.of_opt ?_ (by assumption)
    exact State.placeCopies_keeps (by assumption)
  · split
    · refine State.fail_keeps ?_
      exact State.discardWork_keeps (by assumption)
    · assumption

theorem State.zoneChanged_keeps {s0 s : State} (h : Keeps s0 s) :
    Keeps s0 (State.zoneChanged s) := by
  unfold State.zoneChanged
  refine State.pickClean_keeps ?_
  exact State.rewriteTable_keeps (by assumption)

theorem State.loseSurface_keeps {s0 s : State} {x2} (h : Keeps s0 s) :
    Keeps s0 (State.loseSurface s x2) := by
  unfold State.loseSurface
  extract_lets n1 s2 n3 s4 n5 s6 n7 s8 n9 n10 s11 s12
  have hs2 : Keeps s0 s2 := by
    unfold s2
    refine Keeps.foldl _ ?_ (fun s _ h => ?_)
    · assumption
    · extract_lets n13
      refine Keeps.ite ?_ ?_
      · assumption
      · exact State.setZone_keeps (by assumption)
  clear_value s2
  have hs4 : Keeps s0 s4 := by
    unfold s4
    exact State.setDisk_keeps (by assumption)
  clear_value s4
  have hs6 : Keeps s0 s6 := by
    unfold s6
    exact State.endClean_keeps (by assumption)
  clear_value s6
  have hs8 : Keeps s0 s8 := by
    unfold s8
    refine Keeps.ite ?_ ?_
    · assumption
    · exact State.lostData_keeps (by assumption)
  clear_value s8
  have hs11 : Keeps s0 s11 := by
    unfold s11
    exact State.setDisk_keeps (by assumption)
  clear_value s11
  have hs12 : Keeps s0 s12 := by
    unfold s12
    refine Keeps.foldl _ ?_ (fun s _ h => ?_)
    · assumption
    · refine State.recopy_keeps ?_
      exact State.setCmd_keeps (by assumption)
  clear_value s12
  exact State.zoneChanged_keeps (by assumption)

theorem State.failActuator_keeps {s0 s : State} {x2 x3} (h : Keeps s0 s) :
    Keeps s0 (State.failActuator s x2 x3) := by
  unfold State.failActuator
  extract_lets n1 s2 s3
  have hs2 : Keeps s0 s2 := by
    unfold s2
    refine State.wr_keeps ?_
    exact State.raiseBit_keeps (by assumption)
  clear_value s2
  have hs3 : Keeps s0 s3 := by
    unfold s3
    exact State.raise_keeps (by assumption)
  clear_value s3
  refine Keeps.ite ?_ ?_
  · assumption
  · refine Keeps.foldl _ ?_ (fun s _ h => ?_)
    · assumption
    · exact State.loseSurface_keeps (by assumption)

theorem State.failHead_keeps {s0 s : State} {x2 x3} (h : Keeps s0 s) :
    Keeps s0 (State.failHead s x2 x3) := by
  unfold State.failHead
  extract_lets s1 s2 n3
  have hs1 : Keeps s0 s1 := by
    unfold s1
    refine State.wr_keeps ?_
    exact State.raiseBit_keeps (by assumption)
  clear_value s1
  have hs2 : Keeps s0 s2 := by
    unfold s2
    refine State.loseSurface_keeps ?_
    exact State.raise_keeps (by assumption)
  clear_value s2
  refine Keeps.ite ?_ ?_
  · assumption
  · refine Keeps.ite ?_ ?_
    · exact State.failActuator_keeps (by assumption)
    · assumption

theorem State.headAcquire_keeps {s0 s : State} {x2 x3} (h : Keeps s0 s) :
    Keeps s0 (State.headAcquire s x2 x3) := by
  unfold State.headAcquire
  extract_lets n1 n2 s3
  have hs3 : Keeps s0 s3 := by
    unfold s3
    exact State.setDisk_keeps (by assumption)
  clear_value s3
  refine Keeps.ite ?_ ?_
  · exact State.setDisk_keeps (by assumption)
  · refine Keeps.ite ?_ ?_
    · exact State.failHead_keeps (by assumption)
    · assumption

theorem State.headRead_keeps {s0 s : State} {x2 x3 x4} (h : Keeps s0 s) :
    Keeps s0 (State.headRead s x2 x3 x4) := by
  unfold State.headRead
  extract_lets n1 n2 s3
  have hs3 : Keeps s0 s3 := by
    unfold s3
    exact State.setDisk_keeps (by assumption)
  clear_value s3
  refine Keeps.ite ?_ ?_
  · exact State.setDisk_keeps (by assumption)
  · refine Keeps.ite ?_ ?_
    · exact State.failHead_keeps (by assumption)
    · assumption

theorem State.zoneRead_keeps {s0 s : State} {x2 x3 x4 x5} (h : Keeps s0 s) :
    Keeps s0 (State.zoneRead s x2 x3 x4 x5) := by
  unfold State.zoneRead
  split
  · assumption
  · refine Keeps.ite ?_ ?_
    · refine Keeps.ite ?_ ?_
      · exact State.reallocate_keeps (by assumption)
      · assumption
    · refine Keeps.ite ?_ ?_
      · exact State.reallocate_keeps (by assumption)
      · refine Keeps.ite ?_ ?_
        · assumption
        · exact State.loseUnits_keeps (by assumption)

theorem State.landingRead_keeps {s0 s : State} {x2 x3 x4} (h : Keeps s0 s) :
    Keeps s0 (State.landingRead s x2 x3 x4) := by
  unfold State.landingRead
  extract_lets n1 s2 s3
  have hs2 : Keeps s0 s2 := by
    unfold s2
    exact State.setRing_keeps (by assumption)
  clear_value s2
  have hs3 : Keeps s0 s3 := by
    unfold s3
    exact State.rewriteTable_keeps (by assumption)
  clear_value s3
  refine Keeps.ite ?_ ?_
  · assumption
  · split
    · assumption
    · split
      · extract_lets n4
        exact State.setUnit_keeps (by assumption)
      · refine Keeps.ite ?_ ?_
        · assumption
        · exact State.loseUnits_keeps (by assumption)
      · assumption

theorem State.releaseTrack_keeps {s0 s : State} {x2 x3} (h : Keeps s0 s) :
    Keeps s0 (State.releaseTrack s x2 x3) := by
  unfold State.releaseTrack
  extract_lets n1 n2
  refine Keeps.ite ?_ ?_
  · assumption
  · exact State.releaseLanding_keeps (by assumption)

theorem State.failReadBack_keeps {s0 s : State} {x2 x3} (h : Keeps s0 s) :
    Keeps s0 (State.failReadBack s x2 x3) := by
  unfold State.failReadBack
  split
  · assumption
  · extract_lets n1 s2 s3 s4 s5
    have hs2 : Keeps s0 s2 := by
      unfold s2
      exact State.setDisk_keeps (by assumption)
    clear_value s2
    have hs3 : Keeps s0 s3 := by
      unfold s3
      refine State.wr_keeps ?_
      exact State.inc_keeps (by assumption)
    clear_value s3
    have hs4 : Keeps s0 s4 := by
      unfold s4
      exact State.raise_keeps (by assumption)
    clear_value s4
    have hs5 : Keeps s0 s5 := by
      unfold s5
      refine Keeps.ite ?_ ?_
      · exact State.reallocate_keeps (by assumption)
      · assumption
    clear_value s5
    exact State.releaseTrack_keeps (by assumption)

theorem State.passReadBack_keeps {s0 s : State} {x2 x3} (h : Keeps s0 s) : Keeps s0 (State.passReadBack s x2 x3) := by
  unfold State.passReadBack
  split
  · exact h
  · refine State.releaseTrack_keeps (Keeps.foldl _ ?_ fun s x h => State.addGrown_keeps (State.lifeAdd_keeps (State.inc_keeps h)))
    refine State.setDisk_keeps (State.setDisk_keeps ?_)
    exact Keeps.ite (State.setUnit_keeps (State.setDisk_keeps h)) (State.setDisk_keeps h)

theorem State.dueReadBack_keeps {s0 s : State} {x2 x3} (h : Keeps s0 s) :
    Keeps s0 (State.dueReadBack s x2 x3) := by
  unfold State.dueReadBack
  extract_lets n1 n2 n3 n4 s5
  have hs5 : Keeps s0 s5 := by
    unfold s5
    exact State.setDisk_keeps (by assumption)
  clear_value s5
  exact State.setZone_keeps (by assumption)

theorem State.scanZone_keeps {s0 s : State} {x2} (h : Keeps s0 s) :
    Keeps s0 (State.scanZone s x2) := by
  unfold State.scanZone
  extract_lets n1 n2 s3 s4
  have hs3 : Keeps s0 s3 := by
    unfold s3
    refine Keeps.ite ?_ ?_
    · exact State.raise_keeps (by assumption)
    · assumption
  clear_value s3
  have hs4 : Keeps s0 s4 := by
    unfold s4
    exact State.setZone_keeps (by assumption)
  clear_value s4
  exact State.dueReadBack_keeps (by assumption)

theorem State.diskLoad_keeps {s0 s : State} {x2 x3} (h : Keeps s0 s) :
    Keeps s0 (State.diskLoad s x2 x3) := by
  unfold State.diskLoad
  extract_lets n1 n2 n3 s4 n5 n6 s7 s8 s9 s10 n11 s12 s13
  have hs4 : Keeps s0 s4 := by
    unfold s4
    refine Keeps.ite ?_ ?_
    · exact State.wr_keeps (by assumption)
    · assumption
  clear_value s4
  have hs7 : Keeps s0 s7 := by
    unfold s7
    exact State.setDisk_keeps (by assumption)
  clear_value s7
  have hs8 : Keeps s0 s8 := by
    unfold s8
    exact State.wr_keeps (by assumption)
  clear_value s8
  have hs9 : Keeps s0 s9 := by
    unfold s9
    exact State.wr_keeps (by assumption)
  clear_value s9
  have hs10 : Keeps s0 s10 := by
    unfold s10
    refine Keeps.foldl _ ?_ (fun s _ h => ?_)
    · assumption
    · exact State.scanZone_keeps (by assumption)
  clear_value s10
  have hs12 : Keeps s0 s12 := by
    unfold s12
    exact State.setDisk_keeps (by assumption)
  clear_value s12
  have hs13 : Keeps s0 s13 := by
    unfold s13
    refine Keeps.foldl _ ?_ (fun s _ h => ?_)
    · assumption
    · exact State.startClean_keeps (by assumption)
  clear_value s13
  refine Keeps.ite ?_ ?_
  · exact State.startReached_keeps (by assumption)
  · exact State.startReached_keeps (by assumption)

theorem State.writeFault_keeps {s0 s : State} {x2 x3 x4} (h : Keeps s0 s) :
    Keeps s0 (State.writeFault s x2 x3 x4) := by
  unfold State.writeFault
  refine State.raise_keeps ?_
  refine State.wr_keeps ?_
  exact State.inc_keeps (by assumption)

theorem State.remoteWritten_keeps {s0 s : State} {x2 x3 x4} (h : Keeps s0 s) :
    Keeps s0 (State.remoteWritten s x2 x3 x4) := by
  unfold State.remoteWritten
  split
  · assumption
  · extract_lets n1 s2 n3 s4 s5 n6
    have hs2 : Keeps s0 s2 := by
      unfold s2
      exact State.writeFault_keeps (by assumption)
    clear_value s2
    have hs4 : Keeps s0 s4 := by
      unfold s4
      exact State.setDisk_keeps (by assumption)
    clear_value s4
    have hs5 : Keeps s0 s5 := by
      unfold s5
      exact State.setRing_keeps (by assumption)
    clear_value s5
    refine Keeps.ite ?_ ?_
    · refine State.setCopy_keeps ?_
      exact State.lifeAdd_keeps (by assumption)
    · refine State.placeRemote_keeps ?_
      exact State.setCopy_keeps (by assumption)

theorem State.stopOne_keeps {s0 s : State} {x2} (h : Keeps s0 s) :
    Keeps s0 (State.stopOne s x2) := by
  unfold State.stopOne
  extract_lets n1 n2 n3 s4 n5 s6
  have hs4 : Keeps s0 s4 := by
    unfold s4
    exact State.setZone_keeps (by assumption)
  clear_value s4
  have hs6 : Keeps s0 s6 := by
    unfold s6
    refine State.setDisk_keeps ?_
    exact State.dropClean_keeps (by assumption)
  clear_value s6
  refine Keeps.foldl _ ?_ (fun s _ h => ?_)
  · exact State.rewriteTable_keeps (by assumption)
  · exact State.finish_keeps (by assumption)

theorem State.stopClean_keeps {s0 s : State} (h : Keeps s0 s) :
    Keeps s0 (State.stopClean s) := by
  unfold State.stopClean
  refine Keeps.foldl _ ?_ (fun s _ h => ?_)
  · assumption
  · exact State.stopOne_keeps (by assumption)

theorem execLandingCopyWritten_keeps {s0 s : State} {x1 x2 x3} (h : Keeps s0 s) :
    Keeps.Out s0 (execLandingCopyWritten x1 x2 x3 s) := by
  unfold execLandingCopyWritten
  extract_lets n1 s2 n3
  have hs2 : Keeps s0 s2 := by
    unfold s2
    exact State.writeFault_keeps (by assumption)
  clear_value s2
  refine Keeps.iteOut ?_ ?_
  · refine Keeps.next ?_
    exact State.remoteWritten_keeps (by assumption)
  · split
    · refine Keeps.next ?_
      assumption
    · extract_lets s4 s5 s6 s7
      have hs4 : Keeps s0 s4 := by
        unfold s4
        exact State.lifeAdd_keeps (by assumption)
      clear_value s4
      have hs5 : Keeps s0 s5 := by
        unfold s5
        exact State.setDisk_keeps (by assumption)
      clear_value s5
      have hs6 : Keeps s0 s6 := by
        unfold s6
        exact State.setRing_keeps (by assumption)
      clear_value s6
      have hs7 : Keeps s0 s7 := by
        unfold s7
        exact State.setCmd_keeps (by assumption)
      clear_value s7
      refine Keeps.iteOut ?_ ?_
      · refine Keeps.next ?_
        assumption
      · refine Keeps.iteOut ?_ ?_
        · refine Keeps.next ?_
          exact State.setCmd_keeps (by assumption)
        · refine Keeps.next ?_
          exact State.recopy_keeps (by assumption)

theorem execLandingSpaceFreed_keeps {s0 s : State} {x1} (h : Keeps s0 s) :
    Keeps.Out s0 (execLandingSpaceFreed x1 s) := by
  unfold execLandingSpaceFreed
  split
  · refine Keeps.iteOut ?_ ?_
    · refine Keeps.next ?_
      refine Keeps.ite ?_ ?_
      · exact State.startLanding_keeps (by assumption)
      · exact State.recopy_keeps (by assumption)
    · refine Keeps.next ?_
      assumption
  · refine Keeps.next ?_
    assumption

theorem execDestageTrackWritten_keeps {s0 s : State} {x1 x2 x3} (h : Keeps s0 s) :
    Keeps.Out s0 (execDestageTrackWritten x1 x2 x3 s) := by
  unfold execDestageTrackWritten
  extract_lets n1
  refine Keeps.iteOut ?_ ?_
  · refine Keeps.next ?_
    assumption
  · split
    · refine Keeps.next ?_
      refine Keeps.ite ?_ ?_
      · assumption
      · exact State.stopClean_keeps (by assumption)
    · extract_lets n2 n3
      split
      extract_lets n4 n5
      split
      extract_lets n6 n7 n8 n9 n10 n11 n12 s13 s14 s15 s16
      have hs13 : Keeps s0 s13 := by
        unfold s13
        refine State.setDisk_keeps ?_
        exact State.setZone_keeps (by assumption)
      clear_value s13
      have hs14 : Keeps s0 s14 := by
        unfold s14
        exact State.lifeAdd_keeps (by assumption)
      clear_value s14
      have hs15 : Keeps s0 s15 := by
        unfold s15
        refine Keeps.ite ?_ ?_
        · assumption
        · exact State.writeFault_keeps (by assumption)
      clear_value s15
      have hs16 : Keeps s0 s16 := by
        unfold s16
        refine Keeps.ite ?_ ?_
        · exact State.dueReadBack_keeps (by assumption)
        · refine Keeps.ite ?_ ?_
          · exact State.dueReadBack_keeps (by assumption)
          · assumption
      clear_value s16
      refine Keeps.next ?_
      refine Keeps.ite ?_ ?_
      · exact State.zoneChanged_keeps (by assumption)
      · assumption

theorem execZoneTablePeriodic_keeps {s0 s : State} (h : Keeps s0 s) :
    Keeps.Out s0 (execZoneTablePeriodic s) := by
  unfold execZoneTablePeriodic
  refine Keeps.next ?_
  refine Keeps.ite ?_ ?_
  · exact State.rewriteTable_keeps (by assumption)
  · assumption

theorem execZoneReset_keeps {s0 s : State} {x1} (h : Keeps s0 s) :
    Keeps.Out s0 (execZoneReset x1 s) := by
  unfold execZoneReset
  extract_lets n1 n2 s3 s4
  have hs3 : Keeps s0 s3 := by
    unfold s3
    exact State.setZone_keeps (by assumption)
  clear_value s3
  have hs4 : Keeps s0 s4 := by
    unfold s4
    refine State.inc_keeps ?_
    exact State.dropClean_keeps (by assumption)
  clear_value s4
  split
  · refine Keeps.next ?_
    assumption
  · extract_lets n5 s6
    have hs6 : Keeps s0 s6 := by
      unfold s6
      refine Keeps.foldl _ ?_ (fun s _ h => ?_)
      · assumption
      · refine Keeps.ite ?_ ?_
        · exact State.conflict_keeps (by assumption)
        · exact State.finish_keeps (by assumption)
    clear_value s6
    refine Keeps.iteOut ?_ ?_
    · refine Keeps.next ?_
      assumption
    · refine Keeps.next ?_
      exact State.zoneChanged_keeps (by assumption)

end Sys2Proof.Machine
end

