-- ==== Sys2Proof/Laws/KeepsPac.lean ====
section
/-!
SUPPORT. What every operation of Machine/Pac.lean keeps (Laws/Keeps.lean).
-/

set_option Elab.async false

namespace Sys2Proof.Machine

theorem State.setWra_keeps {s0 s : State} {x2} (h : Keeps s0 s) :
    Keeps s0 (State.setWra s x2) := by
  unfold State.setWra
  refine Keeps.upd ?_ rfl rfl rfl --UPD .wra
  assumption

theorem State.setActWra_keeps {s0 s : State} {x2 x3} (h : Keeps s0 s) :
    Keeps s0 (State.setActWra s x2 x3) := by
  unfold State.setActWra
  extract_lets n1
  exact State.setWra_keeps (by assumption)

theorem State.setChan_keeps {s0 s : State} {x2 x3} (h : Keeps s0 s) :
    Keeps s0 (State.setChan s x2 x3) := by
  unfold State.setChan
  extract_lets n1
  exact State.setWra_keeps (by assumption)

theorem State.releaseGates_keeps {s0 s : State} {x2} (h : Keeps s0 s) :
    Keeps s0 (State.releaseGates s x2) := by
  unfold State.releaseGates
  extract_lets s1 n2 s3
  have hs1 : Keeps s0 s1 := by
    unfold s1
    refine State.wr_keeps ?_
    exact State.wr_keeps (by assumption)
  clear_value s1
  have hs3 : Keeps s0 s3 := by
    unfold s3
    exact State.setActWra_keeps (by assumption)
  clear_value s3
  refine Keeps.foldl _ ?_ (fun s _ h => ?_)
  · assumption
  · extract_lets n4
    exact State.setChan_keeps (by assumption)

theorem State.sendPac_keeps {s0 s : State} {x2 x3 x4 x5 x6} (h : Keeps s0 s) :
    Keeps s0 (State.sendPac s x2 x3 x4 x5 x6) := by
  unfold State.sendPac
  extract_lets n1 n2
  refine State.emit_keeps ?_
  exact State.setActWra_keeps (by assumption)

theorem State.busFailed_keeps {s0 s : State} {x2} (h : Keeps s0 s) :
    Keeps s0 (State.busFailed s x2) := by
  unfold State.busFailed
  extract_lets s1 n2 s3
  have hs1 : Keeps s0 s1 := by
    unfold s1
    refine State.raise_keeps ?_
    exact State.wr_keeps (by assumption)
  clear_value s1
  have hs3 : Keeps s0 s3 := by
    unfold s3
    exact State.setActWra_keeps (by assumption)
  clear_value s3
  refine Keeps.foldl _ ?_ (fun s _ h => ?_)
  · assumption
  · exact State.failHead_keeps (by assumption)

theorem State.sendBias_keeps {s0 s : State} {x2 x3} (h : Keeps s0 s) :
    Keeps s0 (State.sendBias s x2 x3) := by
  unfold State.sendBias
  exact State.sendPac_keeps (by assumption)

theorem State.loadHead_keeps {s0 s : State} {x2} (h : Keeps s0 s) :
    Keeps s0 (State.loadHead s x2) := by
  unfold State.loadHead
  extract_lets n1 n2 n3 s4 s5 s6 s7 s8
  have hs4 : Keeps s0 s4 := by
    unfold s4
    refine State.sendBias_keeps ?_
    exact State.sendPac_keeps (by assumption)
  clear_value s4
  have hs5 : Keeps s0 s5 := by
    unfold s5
    exact State.sendPac_keeps (by assumption)
  clear_value s5
  have hs6 : Keeps s0 s6 := by
    unfold s6
    exact State.sendPac_keeps (by assumption)
  clear_value s6
  have hs7 : Keeps s0 s7 := by
    unfold s7
    exact State.sendPac_keeps (by assumption)
  clear_value s7
  have hs8 : Keeps s0 s8 := by
    unfold s8
    exact State.sendPac_keeps (by assumption)
  clear_value s8
  exact State.sendPac_keeps (by assumption)

theorem State.loadBus_keeps {s0 s : State} {x2} (h : Keeps s0 s) :
    Keeps s0 (State.loadBus s x2) := by
  unfold State.loadBus
  refine Keeps.foldl _ ?_ (fun s _ h => ?_)
  · assumption
  · exact State.loadHead_keeps (by assumption)

theorem State.dropHeads_keeps {s0 s : State} {x2} (h : Keeps s0 s) :
    Keeps s0 (State.dropHeads s x2) := by
  unfold State.dropHeads
  refine Keeps.foldl _ ?_ (fun s _ h => ?_)
  · exact State.wr_keeps (by assumption)
  · exact State.setChan_keeps (by assumption)

theorem State.pacRetry_keeps {s0 s : State} {x2} (h : Keeps s0 s) :
    Keeps s0 (State.pacRetry s x2) := by
  unfold State.pacRetry
  extract_lets n1 s2
  have hs2 : Keeps s0 s2 := by
    unfold s2
    refine State.releaseGates_keeps ?_
    exact State.setActWra_keeps (by assumption)
  clear_value s2
  refine Keeps.ite ?_ ?_
  · assumption
  · refine Keeps.ite ?_ ?_
    · refine State.emit_keeps ?_
      exact State.setActWra_keeps (by assumption)
    · refine Keeps.ite ?_ ?_
      · refine State.loadBus_keeps ?_
        refine State.dropHeads_keeps ?_
        exact State.sendPac_keeps (by assumption)
      · exact State.busFailed_keeps (by assumption)

theorem State.readPac_keeps {s0 s : State} {x2 x3 x4 x5} (h : Keeps s0 s) :
    Keeps s0 (State.readPac s x2 x3 x4 x5) := by
  unfold State.readPac
  refine State.emit_keeps ?_
  exact State.sendPac_keeps (by assumption)

end Sys2Proof.Machine
end

