-- ==== Sys2Proof/Laws/KeepsRamp.lean ====
section
/-!
SUPPORT. What every operation of Machine/Ramp.lean keeps (Laws/Keeps.lean).
-/

set_option Elab.async false

namespace Sys2Proof.Machine

theorem State.setCtl_keeps {s0 s : State} {x2} (h : Keeps s0 s) :
    Keeps s0 (State.setCtl s x2) := by
  unfold State.setCtl
  refine Keeps.upd ?_ rfl rfl rfl --UPD .ctl
  assumption

theorem State.setSlotOf_keeps {s0 s : State} {x2 x3} (h : Keeps s0 s) :
    Keeps s0 (State.setSlotOf s x2 x3) := by
  unfold State.setSlotOf
  extract_lets n1
  exact State.setCtl_keeps (by assumption)

theorem State.setRampTarget_keeps {s0 s : State} {x2 x3} (h : Keeps s0 s) :
    Keeps s0 (State.setRampTarget s x2 x3) := by
  unfold State.setRampTarget
  extract_lets n1 s2 n3
  have hs2 : Keeps s0 s2 := by
    unfold s2
    refine State.wri_keeps ?_
    exact State.wri_keeps (by assumption)
  clear_value s2
  exact State.setSlotOf_keeps (by assumption)

theorem State.setRampMode_keeps {s0 s : State} {x2 x3} (h : Keeps s0 s) :
    Keeps s0 (State.setRampMode s x2 x3) := by
  unfold State.setRampMode
  extract_lets n1
  refine Keeps.ite ?_ ?_
  · assumption
  · refine State.setSlotOf_keeps ?_
    exact State.wri_keeps (by assumption)

theorem State.setMot_keeps {s0 s : State} {x2} (h : Keeps s0 s) :
    Keeps s0 (State.setMot s x2) := by
  unfold State.setMot
  refine Keeps.upd ?_ rfl rfl rfl --UPD .mot
  assumption

theorem State.tapeRamp_keeps {s0 s : State} {x2} (h : Keeps s0 s) :
    Keeps s0 (State.tapeRamp s x2) := by
  unfold State.tapeRamp
  refine Keeps.foldl _ ?_ (fun s _ h => ?_)
  · assumption
  · extract_lets s1 s2
    have hs1 : Keeps s0 s1 := by
      unfold s1
      exact State.setRampMode_keeps (by assumption)
    clear_value s1
    have hs2 : Keeps s0 s2 := by
      unfold s2
      refine Keeps.ite ?_ ?_
      · assumption
      · exact State.wri_keeps (by assumption)
    clear_value s2
    refine State.setRampTarget_keeps ?_
    exact State.wri_keeps (by assumption)

theorem State.assignSlots_keeps {s0 s : State} {x2} (h : Keeps s0 s) :
    Keeps s0 (State.assignSlots s x2) := by
  unfold State.assignSlots
  refine Keeps.foldl _ ?_ (fun s _ h => ?_)
  · assumption
  · refine State.wri_keeps ?_
    exact State.wri_keeps (by assumption)

theorem State.sendMdrv_keeps {s0 s : State} {x2 x3 x4} (h : Keeps s0 s) :
    Keeps s0 (State.sendMdrv s x2 x3 x4) := by
  unfold State.sendMdrv
  extract_lets n1 n2
  refine State.emit_keeps ?_
  exact State.setCtl_keeps (by assumption)

theorem State.reportDrive_keeps {s0 s : State} {x2 x3} (h : Keeps s0 s) :
    Keeps s0 (State.reportDrive s x2 x3) := by
  unfold State.reportDrive
  extract_lets n1
  refine Keeps.upd ?_ rfl rfl rfl --UPD .pwr
  assumption

theorem State.disableSlot_keeps {s0 s : State} {x2} (h : Keeps s0 s) :
    Keeps s0 (State.disableSlot s x2) := by
  unfold State.disableSlot
  refine State.reportDrive_keeps ?_
  refine State.wri_keeps ?_
  exact State.wri_keeps (by assumption)

theorem State.enableLane_keeps {s0 s : State} {x2 x3} (h : Keeps s0 s) :
    Keeps s0 (State.enableLane s x2 x3) := by
  unfold State.enableLane
  extract_lets n1
  refine State.sendMdrv_keeps ?_
  exact State.setCtl_keeps (by assumption)

theorem State.slotFlag_keeps {s0 s : State} {x2 x3} (h : Keeps s0 s) :
    Keeps s0 (State.slotFlag s x2 x3) := by
  unfold State.slotFlag
  extract_lets n1 n2 s3
  have hs3 : Keeps s0 s3 := by
    unfold s3
    refine State.wr_keeps ?_
    exact State.wri_keeps (by assumption)
  clear_value s3
  refine Keeps.ite ?_ ?_
  · exact State.trcTrigger_keeps (by assumption)
  · assumption

theorem State.enableSlot_keeps {s0 s : State} {x2} (h : Keeps s0 s) :
    Keeps s0 (State.enableSlot s x2) := by
  unfold State.enableSlot
  extract_lets s1 s2 s3 n4
  have hs1 : Keeps s0 s1 := by
    unfold s1
    refine State.wri_keeps ?_
    exact State.wri_keeps (by assumption)
  clear_value s1
  have hs2 : Keeps s0 s2 := by
    unfold s2
    refine State.wri_keeps ?_
    exact State.wri_keeps (by assumption)
  clear_value s2
  have hs3 : Keeps s0 s3 := by
    unfold s3
    exact State.wri_keeps (by assumption)
  clear_value s3
  exact State.setSlotOf_keeps (by assumption)

theorem State.tapeRun_keeps {s0 s : State} {x2} (h : Keeps s0 s) :
    Keeps s0 (State.tapeRun s x2) := by
  unfold State.tapeRun
  exact State.tapeRamp_keeps (by assumption)

theorem State.reelLimits_keeps {s0 s : State} {x2} (h : Keeps s0 s) :
    Keeps s0 (State.reelLimits s x2) := by
  unfold State.reelLimits
  refine Keeps.foldl _ ?_ (fun s _ h => ?_)
  · assumption
  · extract_lets s1
    have hs1 : Keeps s0 s1 := by
      unfold s1
      exact State.wri_keeps (by assumption)
    clear_value s1
    refine Keeps.ite ?_ ?_
    · assumption
    · exact State.wri_keeps (by assumption)

theorem State.tapeBrake_keeps {s0 s : State} (h : Keeps s0 s) :
    Keeps s0 (State.tapeBrake s) := by
  unfold State.tapeBrake
  extract_lets s1 s2 n3
  have hs1 : Keeps s0 s1 := by
    unfold s1
    refine State.sendMdrv_keeps ?_
    exact State.sendMdrv_keeps (by assumption)
  clear_value s1
  have hs2 : Keeps s0 s2 := by
    unfold s2
    refine State.disableSlot_keeps ?_
    exact State.disableSlot_keeps (by assumption)
  clear_value s2
  exact State.setMot_keeps (by assumption)

theorem State.slotFlagIf_keeps {s0 s : State} {x2 x3 x4} (h : Keeps s0 s) :
    Keeps s0 (State.slotFlagIf s x2 x3 x4) := by
  unfold State.slotFlagIf
  refine Keeps.ite ?_ ?_
  · exact State.slotFlag_keeps (by assumption)
  · assumption

end Sys2Proof.Machine
end

