-- ==== Sys2Proof/Laws/KeepsRings.lean ====
section
/-!
SUPPORT. What every operation of Machine/Rings.lean keeps (Laws/Keeps.lean).
-/

set_option Elab.async false

namespace Sys2Proof.Machine

theorem State.setDet_keeps {s0 s : State} {x2} (h : Keeps s0 s) :
    Keeps s0 (State.setDet s x2) := by
  unfold State.setDet
  refine Keeps.upd ?_ rfl rfl rfl --UPD .det
  assumption

theorem State.setLane_keeps {s0 s : State} {x2 x3} (h : Keeps s0 s) :
    Keeps s0 (State.setLane s x2 x3) := by
  unfold State.setLane
  extract_lets n1
  exact State.setDet_keeps (by assumption)

theorem State.setRingLevel_keeps {s0 s : State} {x2 x3} (h : Keeps s0 s) :
    Keeps s0 (State.setRingLevel s x2 x3) := by
  unfold State.setRingLevel
  extract_lets n1 s2 n3
  have hs2 : Keeps s0 s2 := by
    unfold s2
    refine State.wri_keeps ?_
    exact State.setLane_keeps (by assumption)
  clear_value s2
  refine Keeps.ite ?_ ?_
  · assumption
  · refine State.wri_keeps ?_
    exact State.setLane_keeps (by assumption)

theorem State.freeSamples_keeps {s0 s : State} {x2} (h : Keeps s0 s) :
    Keeps s0 (State.freeSamples s x2) := by
  unfold State.freeSamples
  extract_lets n1
  refine Keeps.ite ?_ ?_
  · exact State.setDet_keeps (by assumption)
  · exact State.setRingLevel_keeps (by assumption)

theorem State.setCell_keeps {s0 s : State} {x2 x3} (h : Keeps s0 s) :
    Keeps s0 (State.setCell s x2 x3) := by
  unfold State.setCell
  extract_lets n1
  exact State.setDet_keeps (by assumption)

theorem State.markSpilled_keeps {s0 s : State} {x2} (h : Keeps s0 s) :
    Keeps s0 (State.markSpilled s x2) := by
  unfold State.markSpilled
  extract_lets n1 n2
  exact State.setDet_keeps (by assumption)

theorem State.spillOne_keeps {s0 s : State} {x2} (h : Keeps s0 s) :
    Keeps.Opt s0 (State.spillOne s x2) := by
  unfold State.spillOne
  split
  · exact Keeps.none
  · extract_lets s1 n2 s3
    have hs1 : Keeps s0 s1 := by
      unfold s1
      exact State.markSpilled_keeps (by assumption)
    clear_value s1
    have hs3 : Keeps s0 s3 := by
      unfold s3
      exact State.setDet_keeps (by assumption)
    clear_value s3
    refine Keeps.iteOpt ?_ ?_
    · exact Keeps.none
    · refine Keeps.some ?_
      refine State.inci_keeps ?_
      exact State.setRingLevel_keeps (by assumption)

end Sys2Proof.Machine
end

