-- ==== Sys2Proof/Laws/KeepsLane.lean ====
section
/-!
SUPPORT. What every operation of Machine/Lane.lean keeps (Laws/Keeps.lean).
-/

set_option Elab.async false

namespace Sys2Proof.Machine

theorem State.setAct_keeps {s0 s : State} {x2 x3} (h : Keeps s0 s) :
    Keeps s0 (State.setAct s x2 x3) := by
  unfold State.setAct
  extract_lets n1
  refine Keeps.upd ?_ rfl rfl rfl --UPD .ctl
  assumption

theorem State.runLane_keeps {s0 s : State} {x2 x3 x4} (h : Keeps s0 s) :
    Keeps.Pair s0 (State.runLane s x2 x3 x4) := by
  unfold State.runLane
  extract_lets n1 n2 n3 n4 n5 n6 n7 n8 n9 n10 s11 s12
  have hs11 : Keeps s0 s11 := by
    unfold s11
    exact State.setLane_keeps (by assumption)
  clear_value s11
  have hs12 : Keeps s0 s12 := by
    unfold s12
    refine State.wri_keeps ?_
    exact State.wri_keeps (by assumption)
  clear_value s12
  refine Keeps.pair ?_
  exact State.wri_keeps (by assumption)

end Sys2Proof.Machine
end

