-- ==== Sys2Proof/Laws/KeepsTapeFormat.lean ====
section
/-!
SUPPORT. What every operation of Machine/TapeFormat.lean keeps (Laws/Keeps.lean).
-/

set_option Elab.async false

namespace Sys2Proof.Machine

theorem State.setTape_keeps {s0 s : State} {x2} (h : Keeps s0 s) :
    Keeps s0 (State.setTape s x2) := by
  unfold State.setTape
  refine Keeps.upd ?_ rfl rfl rfl --UPD .tape
  assumption

theorem State.addFrames_keeps {s0 s : State} {x2} (h : Keeps s0 s) :
    Keeps s0 (State.addFrames s x2) := by
  unfold State.addFrames
  extract_lets n1
  exact State.setTape_keeps (by assumption)

theorem State.syncLevel_keeps {s0 s : State} (h : Keeps s0 s) :
    Keeps s0 (State.syncLevel s) := by
  unfold State.syncLevel
  exact State.wr_keeps (by assumption)

theorem State.addSet_keeps {s0 s : State} {x2} (h : Keeps s0 s) :
    Keeps s0 (State.addSet s x2) := by
  unfold State.addSet
  extract_lets n1
  refine State.syncLevel_keeps ?_
  exact State.setTape_keeps (by assumption)

theorem State.addIndex_keeps {s0 s : State} {x2} (h : Keeps s0 s) :
    Keeps s0 (State.addIndex s x2) := by
  unfold State.addIndex
  extract_lets n1 n2 n3 n4 n5 n6 n7 n8 s9 n10
  have hs9 : Keeps s0 s9 := by
    unfold s9
    exact State.setTape_keeps (by assumption)
  clear_value s9
  exact State.addSet_keeps (by assumption)

theorem State.closeSet_keeps {s0 s : State} (h : Keeps s0 s) :
    Keeps s0 (State.closeSet s) := by
  unfold State.closeSet
  split
  · assumption
  · extract_lets n1 n2 s3
    have hs3 : Keeps s0 s3 := by
      unfold s3
      refine Keeps.upd ?_ rfl rfl rfl --UPD .mot
      assumption
    clear_value s3
    refine Keeps.ite ?_ ?_
    · assumption
    · refine State.syncLevel_keeps ?_
      exact State.setTape_keeps (by assumption)

theorem State.openSet_keeps {s0 s : State} (h : Keeps s0 s) :
    Keeps s0 (State.openSet s) := by
  unfold State.openSet
  extract_lets n1 n2 s3
  have hs3 : Keeps s0 s3 := by
    unfold s3
    exact State.setTape_keeps (by assumption)
  clear_value s3
  exact State.wr_keeps (by assumption)

theorem State.placeUnit_keeps {s0 s : State} {x2} (h : Keeps s0 s) :
    Keeps.Pair s0 (State.placeUnit s x2) := by
  unfold State.placeUnit
  extract_lets s1 s2
  have hs1 : Keeps s0 s1 := by
    unfold s1
    split
    · exact State.openSet_keeps (by assumption)
    · refine Keeps.ite ?_ ?_
      · assumption
      · exact State.closeSet_keeps (by assumption)
  clear_value s1
  have hs2 : Keeps s0 s2 := by
    unfold s2
    split
    · exact State.openSet_keeps (by assumption)
    · assumption
  clear_value s2
  split
  · refine Keeps.pair ?_
    assumption
  · extract_lets s3
    have hs3 : Keeps s0 s3 := by
      unfold s3
      exact State.setTape_keeps (by assumption)
    clear_value s3
    refine Keeps.itePair ?_ ?_
    · refine Keeps.pair ?_
      assumption
    · refine Keeps.pair ?_
      refine Keeps.ite ?_ ?_
      · exact State.closeSet_keeps (by assumption)
      · assumption

theorem State.pumpGather_keeps {s0 s : State} {x1} (h : Keeps s0 s) :
    Keeps s0 (State.pumpGather x1 s) := by
  induction x1 generalizing s with
  | zero =>
    rw [State.pumpGather]
    assumption
  | succ n ih =>
    rw [State.pumpGather]
    split
    · assumption
    · split
      · extract_lets n1 s2 n3
        have hs2 : Keeps s0 s2 := by
          unfold s2
          refine Keeps.upd ?_ rfl rfl rfl --UPD .obj
          refine Keeps.of_eq ?_ (by assumption)
          exact State.placeUnit_keeps (by assumption)
        clear_value s2
        refine ih ?_
        exact State.setTape_keeps (by assumption)
      · refine Keeps.of_eq ?_ (by assumption)
        exact State.placeUnit_keeps (by assumption)

theorem State.tapeTake_keeps {s0 s : State} {x2} (h : Keeps s0 s) :
    Keeps s0 (State.tapeTake s x2) := by
  unfold State.tapeTake
  extract_lets n1 s2
  have hs2 : Keeps s0 s2 := by
    unfold s2
    exact State.setTape_keeps (by assumption)
  clear_value s2
  exact State.pumpGather_keeps (by assumption)

theorem State.failSlots_keeps {s0 s : State} {x2} (h : Keeps s0 s) :
    Keeps s0 (State.failSlots s x2) := by
  unfold State.failSlots
  extract_lets n1 n2 n3 s4 n5 s6
  have hs4 : Keeps s0 s4 := by
    unfold s4
    exact State.setTape_keeps (by assumption)
  clear_value s4
  have hs6 : Keeps s0 s6 := by
    unfold s6
    exact State.setDet_keeps (by assumption)
  clear_value s6
  refine Keeps.foldl _ ?_ (fun s _ h => ?_)
  · assumption
  · exact State.freeSamples_keeps (by assumption)

theorem State.endTapeCmds_keeps {s0 s : State} {x2 x3} (h : Keeps s0 s) :
    Keeps s0 (State.endTapeCmds s x2 x3) := by
  unfold State.endTapeCmds
  extract_lets n1 n2 s3 n4
  have hs3 : Keeps s0 s3 := by
    unfold s3
    refine Keeps.foldl _ ?_ (fun s _ h => ?_)
    · assumption
    · refine State.fail_keeps ?_
      exact State.discardWork_keeps (by assumption)
  clear_value s3
  refine State.syncLevel_keeps ?_
  exact State.setTape_keeps (by assumption)

theorem State.failWriting_keeps {s0 s : State} {x2} (h : Keeps s0 s) :
    Keeps s0 (State.failWriting s x2) := by
  unfold State.failWriting
  extract_lets s1 n2 n3 s4 s5
  have hs1 : Keeps s0 s1 := by
    unfold s1
    refine State.wr_keeps ?_
    exact State.wr_keeps (by assumption)
  clear_value s1
  have hs4 : Keeps s0 s4 := by
    unfold s4
    refine Keeps.upd ?_ rfl rfl rfl --UPD .medium, .wra
    assumption
  clear_value s4
  have hs5 : Keeps s0 s5 := by
    unfold s5
    exact State.raise_keeps (by assumption)
  clear_value s5
  refine Keeps.ite ?_ ?_
  · assumption
  · exact State.endTapeCmds_keeps (by assumption)

theorem State.reissue_keeps {s0 s : State} {x2 x3 x4} (h : Keeps s0 s) :
    Keeps s0 (State.reissue s x2 x3 x4) := by
  unfold State.reissue
  split
  · assumption
  · extract_lets n1 n2 s3 s4 s5
    have hs3 : Keeps s0 s3 := by
      unfold s3
      exact State.setTape_keeps (by assumption)
    clear_value s3
    have hs4 : Keeps s0 s4 := by
      unfold s4
      exact State.setTape_keeps (by assumption)
    clear_value s4
    have hs5 : Keeps s0 s5 := by
      unfold s5
      exact State.wr_keeps (by assumption)
    clear_value s5
    refine Keeps.ite ?_ ?_
    · assumption
    · refine Keeps.ite ?_ ?_
      · exact State.failWriting_keeps (by assumption)
      · refine Keeps.ite ?_ ?_
        · exact State.raise_keeps (by assumption)
        · assumption

theorem State.haltWriting_keeps {s0 s : State} {x2 x3} (h : Keeps s0 s) :
    Keeps s0 (State.haltWriting s x2 x3) := by
  unfold State.haltWriting
  extract_lets s1 n2 n3 s4 n5 n6 s7 s8 s9 s10
  have hs1 : Keeps s0 s1 := by
    unfold s1
    refine State.wr_keeps ?_
    exact State.failSlots_keeps (by assumption)
  clear_value s1
  have hs4 : Keeps s0 s4 := by
    unfold s4
    exact State.setTape_keeps (by assumption)
  clear_value s4
  have hs7 : Keeps s0 s7 := by
    unfold s7
    refine Keeps.upd ?_ rfl rfl rfl --UPD .mot, .wra
    assumption
  clear_value s7
  have hs8 : Keeps s0 s8 := by
    unfold s8
    refine Keeps.ite ?_ ?_
    · assumption
    · exact State.wr_keeps (by assumption)
  clear_value s8
  have hs9 : Keeps s0 s9 := by
    unfold s9
    refine State.inc_keeps ?_
    refine Keeps.foldl _ ?_ (fun s _ h => ?_)
    · assumption
    · exact State.reissue_keeps (by assumption)
  clear_value s9
  have hs10 : Keeps s0 s10 := by
    unfold s10
    exact State.wr_keeps (by assumption)
  clear_value s10
  refine State.ask_keeps ?_
  exact State.tapeRamp_keeps (by assumption)

theorem State.switchPart_keeps {s0 s : State} {x2} (h : Keeps s0 s) :
    Keeps s0 (State.switchPart s x2) := by
  unfold State.switchPart
  extract_lets n1 s2 s3 n4 n5
  have hs2 : Keeps s0 s2 := by
    unfold s2
    exact State.setTape_keeps (by assumption)
  clear_value s2
  have hs3 : Keeps s0 s3 := by
    unfold s3
    exact State.wr_keeps (by assumption)
  clear_value s3
  refine Keeps.ite ?_ ?_
  · assumption
  · refine Keeps.ite ?_ ?_
    · assumption
    · refine State.setMot_keeps ?_
      exact State.wr_keeps (by assumption)

theorem State.beginSet_keeps {s0 s : State} (h : Keeps s0 s) :
    Keeps s0 (State.beginSet s) := by
  unfold State.beginSet
  split
  · assumption
  · extract_lets s1 n2 n3 n4 s5 n6 s7 s8 n9
    have hs1 : Keeps s0 s1 := by
      unfold s1
      exact State.switchPart_keeps (by assumption)
    clear_value s1
    have hs5 : Keeps s0 s5 := by
      unfold s5
      exact State.setTape_keeps (by assumption)
    clear_value s5
    have hs7 : Keeps s0 s7 := by
      unfold s7
      exact State.setTape_keeps (by assumption)
    clear_value s7
    have hs8 : Keeps s0 s8 := by
      unfold s8
      exact State.addFrames_keeps (by assumption)
    clear_value s8
    refine State.syncLevel_keeps ?_
    exact State.setTape_keeps (by assumption)

theorem State.disturbAt_keeps {s0 s : State} {x2 x3} (h : Keeps s0 s) :
    Keeps s0 (State.disturbAt s x2 x3) := by
  unfold State.disturbAt
  extract_lets n1 s2 n3 s4 s5
  have hs2 : Keeps s0 s2 := by
    unfold s2
    refine State.wr_keeps ?_
    exact State.inc_keeps (by assumption)
  clear_value s2
  have hs4 : Keeps s0 s4 := by
    unfold s4
    exact State.setTape_keeps (by assumption)
  clear_value s4
  have hs5 : Keeps s0 s5 := by
    unfold s5
    refine State.raise_keeps ?_
    exact State.haltWriting_keeps (by assumption)
  clear_value s5
  refine Keeps.ite ?_ ?_
  · assumption
  · refine Keeps.ite ?_ ?_
    · exact State.failWriting_keeps (by assumption)
    · assumption

theorem State.disturb_keeps {s0 s : State} {x2} (h : Keeps s0 s) :
    Keeps s0 (State.disturb s x2) := by
  unfold State.disturb
  exact State.disturbAt_keeps (by assumption)

theorem State.countFrame_keeps {s0 s : State} {x2} (h : Keeps s0 s) :
    Keeps s0 (State.countFrame s x2) := by
  unfold State.countFrame
  extract_lets n1 s2
  have hs2 : Keeps s0 s2 := by
    unfold s2
    refine State.lifeAdd_keeps ?_
    exact State.addi_keeps (by assumption)
  clear_value s2
  refine Keeps.ite ?_ ?_
  · exact State.inc_keeps (by assumption)
  · assumption

theorem State.markTrack_keeps {s0 s : State} {x2 x3} (h : Keeps s0 s) :
    Keeps s0 (State.markTrack s x2 x3) := by
  unfold State.markTrack
  extract_lets n1 n2 s3 n4 n5 n6 n7 s8 s9
  have hs3 : Keeps s0 s3 := by
    unfold s3
    exact State.setTape_keeps (by assumption)
  clear_value s3
  have hs8 : Keeps s0 s8 := by
    unfold s8
    refine Keeps.ite ?_ ?_
    · refine State.raise_keeps ?_
      exact State.raiseBit_keeps (by assumption)
    · refine Keeps.ite ?_ ?_
      · exact State.putBit_keeps (by assumption)
      · assumption
  clear_value s8
  have hs9 : Keeps s0 s9 := by
    unfold s9
    refine State.raise_keeps ?_
    refine State.wr_keeps ?_
    exact State.raiseBit_keeps (by assumption)
  clear_value s9
  refine Keeps.ite ?_ ?_
  · refine Keeps.ite ?_ ?_
    · exact State.failWriting_keeps (by assumption)
    · assumption
  · assumption

theorem State.passFrontier_keeps {s0 s : State} {x1} (h : Keeps s0 s) :
    Keeps s0 (State.passFrontier x1 s) := by
  induction x1 generalizing s with
  | zero =>
    rw [State.passFrontier]
    assumption
  | succ n ih =>
    rw [State.passFrontier]
    split
    · assumption
    · extract_lets n1 s2 s3 s4 n5 s6
      have hs2 : Keeps s0 s2 := by
        unfold s2
        exact State.setTape_keeps (by assumption)
      clear_value s2
      have hs3 : Keeps s0 s3 := by
        unfold s3
        refine Keeps.foldl _ ?_ (fun s _ h => ?_)
        · assumption
        · extract_lets n7 n8
          refine Keeps.ite ?_ ?_
          · assumption
          · exact State.setUnit_keeps (by assumption)
      clear_value s3
      have hs4 : Keeps s0 s4 := by
        unfold s4
        exact State.wr_keeps (by assumption)
      clear_value s4
      have hs6 : Keeps s0 s6 := by
        unfold s6
        refine Keeps.ite ?_ ?_
        · refine State.addIndex_keeps ?_
          exact State.setTape_keeps (by assumption)
        · refine Keeps.ite ?_ ?_
          · exact State.setTape_keeps (by assumption)
          · assumption
      clear_value s6
      refine Keeps.ite ?_ ?_
      · assumption
      · exact ih (by assumption)

theorem State.verifyPass_keeps {s0 s : State} {x2} (h : Keeps s0 s) :
    Keeps s0 (State.verifyPass s x2) := by
  unfold State.verifyPass
  extract_lets s1 s2
  have hs1 : Keeps s0 s1 := by
    unfold s1
    exact State.setTape_keeps (by assumption)
  clear_value s1
  have hs2 : Keeps s0 s2 := by
    unfold s2
    exact State.passFrontier_keeps (by assumption)
  clear_value s2
  refine State.syncLevel_keeps ?_
  exact State.pumpGather_keeps (by assumption)

theorem State.verifyFail_keeps {s0 s : State} {x2} (h : Keeps s0 s) :
    Keeps s0 (State.verifyFail s x2) := by
  unfold State.verifyFail
  extract_lets n1 n2 s3 s4
  have hs3 : Keeps s0 s3 := by
    unfold s3
    exact State.setTape_keeps (by assumption)
  clear_value s3
  have hs4 : Keeps s0 s4 := by
    unfold s4
    split
    · assumption
    · extract_lets n5 s6 n7
      have hs6 : Keeps s0 s6 := by
        unfold s6
        exact State.setTape_keeps (by assumption)
      clear_value s6
      refine Keeps.ite ?_ ?_
      · refine State.reissue_keeps ?_
        exact State.wr_keeps (by assumption)
      · exact State.setTape_keeps (by assumption)
  clear_value s4
  refine Keeps.ite ?_ ?_
  · exact State.disturbAt_keeps (by assumption)
  · assumption

theorem State.verifyDecide_keeps {s0 s : State} {x2 x3 x4} (h : Keeps s0 s) :
    Keeps s0 (State.verifyDecide s x2 x3 x4) := by
  unfold State.verifyDecide
  extract_lets n1 s2 s3 n4 s5
  have hs2 : Keeps s0 s2 := by
    unfold s2
    exact State.setTape_keeps (by assumption)
  clear_value s2
  have hs3 : Keeps s0 s3 := by
    unfold s3
    refine Keeps.ite ?_ ?_
    · exact State.wr_keeps (by assumption)
    · assumption
  clear_value s3
  have hs5 : Keeps s0 s5 := by
    unfold s5
    exact State.markTrack_keeps (by assumption)
  clear_value s5
  refine Keeps.ite ?_ ?_
  · assumption
  · refine Keeps.ite ?_ ?_
    · assumption
    · refine Keeps.ite ?_ ?_
      · exact State.verifyPass_keeps (by assumption)
      · exact State.verifyFail_keeps (by assumption)

theorem State.interruptSet_keeps {s0 s : State} (h : Keeps s0 s) :
    Keeps s0 (State.interruptSet s) := by
  unfold State.interruptSet
  extract_lets n1 n2 n3
  refine State.raise_keeps ?_
  exact State.setTape_keeps (by assumption)

theorem State.passSlot_keeps {s0 s : State} (h : Keeps s0 s) :
    Keeps s0 (State.passSlot s) := by
  unfold State.passSlot
  extract_lets n1
  exact State.setTape_keeps (by assumption)

theorem State.recordSlot_keeps {s0 s : State} {x2 x3} (h : Keeps s0 s) :
    Keeps s0 (State.recordSlot s x2 x3) := by
  unfold State.recordSlot
  extract_lets n1 n2 n3 n4 s5
  have hs5 : Keeps s0 s5 := by
    unfold s5
    exact State.setTape_keeps (by assumption)
  clear_value s5
  refine Keeps.foldl _ ?_ (fun s _ h => ?_)
  · assumption
  · exact State.emit_keeps (by assumption)

theorem State.rewritePass_keeps {s0 s : State} {x1 x2 x3 x5} (h : Keeps s0 s) :
    Keeps.Pair s0 (State.rewritePass x1 x2 x3 s x5) := by
  induction x3 generalizing x1 x2 s x5 with
  | nil =>
    rw [State.rewritePass]
    refine Keeps.pair ?_
    assumption
  | cons y l ih =>
    rw [State.rewritePass]
    extract_lets n1 s2
    have hs2 : Keeps s0 s2 := by
      unfold s2
      exact State.setTape_keeps (by assumption)
    clear_value s2
    refine Keeps.itePair ?_ ?_
    · exact ih (by assumption)
    · refine Keeps.itePair ?_ ?_
      · refine ih ?_
        exact State.reissue_keeps (by assumption)
      · split
        · exact ih (by assumption)
        · extract_lets n3
          exact ih (by assumption)

theorem State.rewriteLoop_keeps {s0 s : State} {x1 x2} (h : Keeps s0 s) :
    Keeps s0 (State.rewriteLoop x1 x2 s) := by
  induction x2 generalizing x1 s with
  | zero =>
    rw [State.rewriteLoop]
    assumption
  | succ n ih =>
    rw [State.rewriteLoop]
    split
    · assumption
    · extract_lets n1
      refine Keeps.ite ?_ ?_
      · split
        extract_lets n2
        refine Keeps.ite ?_ ?_
        · refine Keeps.of_eq ?_ (by assumption)
          exact State.rewritePass_keeps (by assumption)
        · refine ih ?_
          refine State.addFrames_keeps ?_
          refine Keeps.of_eq ?_ (by assumption)
          exact State.rewritePass_keeps (by assumption)
      · assumption

theorem State.writeReissues_keeps {s0 s : State} {x2} (h : Keeps s0 s) :
    Keeps s0 (State.writeReissues s x2) := by
  unfold State.writeReissues
  extract_lets n1
  refine Keeps.foldl _ ?_ (fun s _ h => ?_)
  · assumption
  · extract_lets n2 s3
    have hs3 : Keeps s0 s3 := by
      unfold s3
      exact State.setTape_keeps (by assumption)
    clear_value s3
    exact State.addFrames_keeps (by assumption)

theorem State.setBoundary_keeps {s0 s : State} (h : Keeps s0 s) :
    Keeps s0 (State.setBoundary s) := by
  unfold State.setBoundary
  extract_lets n1 n2 n3 n4 s5 s6
  have hs5 : Keeps s0 s5 := by
    unfold s5
    exact State.rewriteLoop_keeps (by assumption)
  clear_value s5
  have hs6 : Keeps s0 s6 := by
    unfold s6
    refine Keeps.ite ?_ ?_
    · assumption
    · exact State.writeReissues_keeps (by assumption)
  clear_value s6
  refine Keeps.ite ?_ ?_
  · assumption
  · refine Keeps.ite ?_ ?_
    · assumption
    · exact State.beginSet_keeps (by assumption)

theorem State.writeFrame_keeps {s0 s : State} (h : Keeps s0 s) :
    Keeps s0 (State.writeFrame s) := by
  unfold State.writeFrame
  split
  · assumption
  · extract_lets n1 n2 n3 n4 s5 s6 s7
    have hs5 : Keeps s0 s5 := by
      unfold s5
      exact State.setTape_keeps (by assumption)
    clear_value s5
    have hs6 : Keeps s0 s6 := by
      unfold s6
      refine State.countFrame_keeps ?_
      exact State.recordSlot_keeps (by assumption)
    clear_value s6
    have hs7 : Keeps s0 s7 := by
      unfold s7
      refine State.add64_keeps ?_
      exact State.wr_keeps (by assumption)
    clear_value s7
    exact State.lifeAdd_keeps (by assumption)

theorem execDataSetCloseTimeout_keeps {s0 s : State} (h : Keeps s0 s) :
    Keeps.Out s0 (execDataSetCloseTimeout s) := by
  unfold execDataSetCloseTimeout
  refine Keeps.next ?_
  exact State.closeSet_keeps (by assumption)

theorem execDataSetBegin_keeps {s0 s : State} (h : Keeps s0 s) :
    Keeps.Out s0 (execDataSetBegin s) := by
  unfold execDataSetBegin
  refine Keeps.next ?_
  exact State.setBoundary_keeps (by assumption)

end Sys2Proof.Machine
end

