-- ==== Sys2Proof/Laws/KeepsTapeMotion.lean ====
section
/-!
SUPPORT. What every operation of Machine/TapeMotion.lean keeps (Laws/Keeps.lean).
-/

set_option Elab.async false

namespace Sys2Proof.Machine

theorem State.rewindTape_keeps {s0 s : State} (h : Keeps s0 s) :
    Keeps s0 (State.rewindTape s) := by
  unfold State.rewindTape
  extract_lets n1 s2
  have hs2 : Keeps s0 s2 := by
    unfold s2
    exact State.setMot_keeps (by assumption)
  clear_value s2
  refine Keeps.ite ?_ ?_
  · assumption
  · refine State.tapeRamp_keeps ?_
    exact State.wr_keeps (by assumption)

theorem State.advanceStop_keeps {s0 s : State} (h : Keeps s0 s) :
    Keeps s0 (State.advanceStop s) := by
  unfold State.advanceStop
  extract_lets s1 n2 n3 n4
  have hs1 : Keeps s0 s1 := by
    unfold s1
    exact State.closeSet_keeps (by assumption)
  clear_value s1
  refine Keeps.ite ?_ ?_
  · assumption
  · refine Keeps.ite ?_ ?_
    · refine Keeps.ite ?_ ?_
      · exact State.rewindTape_keeps (by assumption)
      · assumption
    · refine Keeps.ite ?_ ?_
      · assumption
      · refine Keeps.ite ?_ ?_
        · refine Keeps.ite ?_ ?_
          · assumption
          · refine Keeps.ite ?_ ?_
            · refine State.addSet_keeps ?_
              exact State.setTape_keeps (by assumption)
            · refine State.rewindTape_keeps ?_
              exact State.setTape_keeps (by assumption)
        · refine Keeps.ite ?_ ?_
          · exact State.rewindTape_keeps (by assumption)
          · assumption

theorem State.consumeSets_keeps {s0 s : State} {x2} (h : Keeps s0 s) :
    Keeps s0 (State.consumeSets s x2) := by
  unfold State.consumeSets
  extract_lets n1 n2 s3
  have hs3 : Keeps s0 s3 := by
    unfold s3
    refine State.syncLevel_keeps ?_
    exact State.setTape_keeps (by assumption)
  clear_value s3
  refine Keeps.ite ?_ ?_
  · exact State.ask_keeps (by assumption)
  · assumption

theorem State.stopTape_keeps {s0 s : State} (h : Keeps s0 s) :
    Keeps s0 (State.stopTape s) := by
  unfold State.stopTape
  extract_lets n1 s2 s3
  have hs2 : Keeps s0 s2 := by
    unfold s2
    exact State.setMot_keeps (by assumption)
  clear_value s2
  have hs3 : Keeps s0 s3 := by
    unfold s3
    exact State.wr_keeps (by assumption)
  clear_value s3
  refine State.ask_keeps ?_
  exact State.tapeRamp_keeps (by assumption)

theorem State.readSet_keeps {s0 s : State} {x2} (h : Keeps s0 s) :
    Keeps s0 (State.readSet s x2) := by
  unfold State.readSet
  extract_lets n1 s2 n3 s4
  have hs2 : Keeps s0 s2 := by
    unfold s2
    exact State.setTape_keeps (by assumption)
  clear_value s2
  have hs4 : Keeps s0 s4 := by
    unfold s4
    refine State.syncLevel_keeps ?_
    exact State.setTape_keeps (by assumption)
  clear_value s4
  refine Keeps.ite ?_ ?_
  · assumption
  · refine Keeps.ite ?_ ?_
    · exact State.stopTape_keeps (by assumption)
    · assumption

theorem State.seekSet_keeps {s0 s : State} {x2 x3} (h : Keeps s0 s) :
    Keeps s0 (State.seekSet s x2 x3) := by
  unfold State.seekSet
  extract_lets n1 n2
  split
  · assumption
  · refine Keeps.ite ?_ ?_
    · assumption
    · refine State.ask_keeps ?_
      exact State.setMot_keeps (by assumption)

theorem State.diskFaulted_keeps {s0 s : State} (h : Keeps s0 s) :
    Keeps s0 (State.diskFaulted s) := by
  unfold State.diskFaulted
  extract_lets n1 s2 s3 n4 n5 s6 s7 n8
  have hs2 : Keeps s0 s2 := by
    unfold s2
    refine State.endMedia_keeps ?_
    refine State.endMedia_keeps ?_
    exact State.endMedia_keeps (by assumption)
  clear_value s2
  have hs3 : Keeps s0 s3 := by
    unfold s3
    refine Keeps.ite ?_ ?_
    · exact State.endMedia_keeps (by assumption)
    · assumption
  clear_value s3
  have hs6 : Keeps s0 s6 := by
    unfold s6
    exact State.setMot_keeps (by assumption)
  clear_value s6
  have hs7 : Keeps s0 s7 := by
    unfold s7
    exact State.setMedium_keeps (by assumption)
  clear_value s7
  refine Keeps.upd ?_ rfl rfl rfl --UPD .medium
  assumption

theorem State.endReading_keeps {s0 s : State} (h : Keeps s0 s) :
    Keeps s0 (State.endReading s) := by
  unfold State.endReading
  extract_lets n1
  refine Keeps.ite ?_ ?_
  · refine State.syncLevel_keeps ?_
    refine State.unask_keeps ?_
    exact State.setMot_keeps (by assumption)
  · assumption

theorem State.tapeReacquire_keeps {s0 s : State} {x2} (h : Keeps s0 s) :
    Keeps s0 (State.tapeReacquire s x2) := by
  unfold State.tapeReacquire
  extract_lets s1 s2 n3 s4
  have hs1 : Keeps s0 s1 := by
    unfold s1
    exact State.disturb_keeps (by assumption)
  clear_value s1
  have hs2 : Keeps s0 s2 := by
    unfold s2
    refine State.raise_keeps ?_
    exact State.raiseBit_keeps (by assumption)
  clear_value s2
  have hs4 : Keeps s0 s4 := by
    unfold s4
    exact State.setMot_keeps (by assumption)
  clear_value s4
  exact State.tapeRamp_keeps (by assumption)

theorem State.sessionAt_keeps {s0 s : State} {x2 x3 x4} (h : Keeps s0 s) :
    Keeps s0 (State.sessionAt s x2 x3 x4) := by
  unfold State.sessionAt
  extract_lets n1 s2
  have hs2 : Keeps s0 s2 := by
    unfold s2
    exact State.setTape_keeps (by assumption)
  clear_value s2
  refine State.wr_keeps ?_
  exact State.wr_keeps (by assumption)

theorem State.findEnd_keeps {s0 s : State} (h : Keeps s0 s) :
    Keeps s0 (State.findEnd s) := by
  unfold State.findEnd
  extract_lets n1 n2 n3 n4 n5
  split
  · exact State.sessionAt_keeps (by assumption)
  · exact State.sessionAt_keeps (by assumption)

theorem State.forwardTape_keeps {s0 s : State} {x2} (h : Keeps s0 s) :
    Keeps s0 (State.forwardTape s x2) := by
  unfold State.forwardTape
  extract_lets n1 s2
  have hs2 : Keeps s0 s2 := by
    unfold s2
    exact State.setMot_keeps (by assumption)
  clear_value s2
  refine State.tapeRun_keeps ?_
  exact State.wr_keeps (by assumption)

theorem State.tuneTape_keeps {s0 s : State} {x2} (h : Keeps s0 s) :
    Keeps s0 (State.tuneTape s x2) := by
  unfold State.tuneTape
  extract_lets n1 s2
  have hs2 : Keeps s0 s2 := by
    unfold s2
    refine Keeps.upd ?_ rfl rfl rfl --UPD .wra
    assumption
  clear_value s2
  refine Keeps.ite ?_ ?_
  · assumption
  · exact State.wr_keeps (by assumption)

theorem State.takeStep_keeps {s0 s : State} {x2} (h : Keeps s0 s) :
    Keeps s0 (State.takeStep s x2) := by
  unfold State.takeStep
  extract_lets n1 s2
  have hs2 : Keeps s0 s2 := by
    unfold s2
    refine State.tuneTape_keeps ?_
    refine State.wr_keeps ?_
    exact State.wr_keeps (by assumption)
  clear_value s2
  refine Keeps.ite ?_ ?_
  · assumption
  · refine State.reelLimits_keeps ?_
    refine State.raise_keeps ?_
    exact State.inc_keeps (by assumption)

theorem State.startStep_keeps {s0 s : State} {x2} (h : Keeps s0 s) :
    Keeps s0 (State.startStep s x2) := by
  unfold State.startStep
  extract_lets n1 s2
  have hs2 : Keeps s0 s2 := by
    unfold s2
    refine Keeps.ite ?_ ?_
    · assumption
    · exact State.setMot_keeps (by assumption)
  clear_value s2
  exact State.takeStep_keeps (by assumption)

theorem State.reverseTape_keeps {s0 s : State} {x2 x3} (h : Keeps s0 s) :
    Keeps s0 (State.reverseTape s x2 x3) := by
  unfold State.reverseTape
  extract_lets n1 s2
  have hs2 : Keeps s0 s2 := by
    unfold s2
    refine State.wr_keeps ?_
    exact State.setMot_keeps (by assumption)
  clear_value s2
  exact State.tapeRamp_keeps (by assumption)

theorem State.runUp_keeps {s0 s : State} (h : Keeps s0 s) :
    Keeps s0 (State.runUp s) := by
  unfold State.runUp
  extract_lets n1 n2 s3
  have hs3 : Keeps s0 s3 := by
    unfold s3
    refine State.startStep_keeps ?_
    exact State.setMot_keeps (by assumption)
  clear_value s3
  refine Keeps.ite ?_ ?_
  · refine Keeps.ite ?_ ?_
    · exact State.ask_keeps (by assumption)
    · exact State.reverseTape_keeps (by assumption)
  · assumption

theorem State.restartTape_keeps {s0 s : State} (h : Keeps s0 s) :
    Keeps s0 (State.restartTape s) := by
  unfold State.restartTape
  extract_lets n1 n2 n3 s4 n5 n6 s7 n8 s9 s10
  have hs4 : Keeps s0 s4 := by
    unfold s4
    refine State.startStep_keeps ?_
    exact State.unask_keeps (by assumption)
  clear_value s4
  have hs7 : Keeps s0 s7 := by
    unfold s7
    exact State.setMot_keeps (by assumption)
  clear_value s7
  have hs9 : Keeps s0 s9 := by
    unfold s9
    exact State.setTape_keeps (by assumption)
  clear_value s9
  have hs10 : Keeps s0 s10 := by
    unfold s10
    exact State.inc_keeps (by assumption)
  clear_value s10
  refine Keeps.ite ?_ ?_
  · exact State.forwardTape_keeps (by assumption)
  · exact State.reverseTape_keeps (by assumption)

theorem State.parkReverse_keeps {s0 s : State} (h : Keeps s0 s) :
    Keeps s0 (State.parkReverse s) := by
  unfold State.parkReverse
  extract_lets n1
  refine Keeps.ite ?_ ?_
  · exact State.reverseTape_keeps (by assumption)
  · assumption

theorem State.locateTape_keeps {s0 s : State} (h : Keeps s0 s) :
    Keeps s0 (State.locateTape s) := by
  unfold State.locateTape
  split
  · assumption
  · extract_lets n1 n2 s3
    have hs3 : Keeps s0 s3 := by
      unfold s3
      exact State.setMot_keeps (by assumption)
    clear_value s3
    refine Keeps.ite ?_ ?_
    · assumption
    · refine State.tapeRamp_keeps ?_
      refine State.inc_keeps ?_
      exact State.wr_keeps (by assumption)

theorem State.startChange_keeps {s0 s : State} {x2} (h : Keeps s0 s) :
    Keeps s0 (State.startChange s x2) := by
  unfold State.startChange
  extract_lets s1 n2 s3 n4
  have hs1 : Keeps s0 s1 := by
    unfold s1
    exact State.wr_keeps (by assumption)
  clear_value s1
  have hs3 : Keeps s0 s3 := by
    unfold s3
    exact State.setMot_keeps (by assumption)
  clear_value s3
  refine Keeps.ite ?_ ?_
  · exact State.setMot_keeps (by assumption)
  · assumption

theorem State.heldFrame_keeps {s0 s : State} (h : Keeps s0 s) :
    Keeps s0 (State.heldFrame s) := by
  unfold State.heldFrame
  extract_lets n1 n2 n3 n4 s5 s6
  have hs5 : Keeps s0 s5 := by
    unfold s5
    exact State.setMot_keeps (by assumption)
  clear_value s5
  have hs6 : Keeps s0 s6 := by
    unfold s6
    refine Keeps.ite ?_ ?_
    · assumption
    · exact State.wr_keeps (by assumption)
  clear_value s6
  refine Keeps.ite ?_ ?_
  · refine State.disturb_keeps ?_
    exact State.raise_keeps (by assumption)
  · refine Keeps.ite ?_ ?_
    · exact State.tapeReacquire_keeps (by assumption)
    · assumption

theorem State.mediaFault_keeps {s0 s : State} {x2} (h : Keeps s0 s) :
    Keeps s0 (State.mediaFault s x2) := by
  unfold State.mediaFault
  extract_lets s1 s2 s3 n4 n5 s6 n7 n8 s9 n10
  have hs1 : Keeps s0 s1 := by
    unfold s1
    exact State.endTapeCmds_keeps (by assumption)
  clear_value s1
  have hs2 : Keeps s0 s2 := by
    unfold s2
    refine State.wr_keeps ?_
    exact State.setMedium_keeps (by assumption)
  clear_value s2
  have hs3 : Keeps s0 s3 := by
    unfold s3
    refine State.endMedia_keeps ?_
    exact State.endMedia_keeps (by assumption)
  clear_value s3
  have hs6 : Keeps s0 s6 := by
    unfold s6
    refine Keeps.ite ?_ ?_
    · exact State.endMedia_keeps (by assumption)
    · assumption
  clear_value s6
  have hs9 : Keeps s0 s9 := by
    unfold s9
    exact State.setMot_keeps (by assumption)
  clear_value s9
  refine Keeps.upd ?_ rfl rfl rfl --UPD .medium
  assumption

theorem State.tapeFault_keeps {s0 s : State} {x2} (h : Keeps s0 s) :
    Keeps s0 (State.tapeFault s x2) := by
  unfold State.tapeFault
  extract_lets s1 s2 s3 s4
  have hs1 : Keeps s0 s1 := by
    unfold s1
    exact State.disturb_keeps (by assumption)
  clear_value s1
  have hs2 : Keeps s0 s2 := by
    unfold s2
    refine State.raise_keeps ?_
    exact State.raiseBit_keeps (by assumption)
  clear_value s2
  have hs3 : Keeps s0 s3 := by
    unfold s3
    exact State.mediaFault_keeps (by assumption)
  clear_value s3
  have hs4 : Keeps s0 s4 := by
    unfold s4
    refine Keeps.ite ?_ ?_
    · exact State.tapeBrake_keeps (by assumption)
    · exact State.tapeRamp_keeps (by assumption)
  clear_value s4
  refine Keeps.ite ?_ ?_
  · exact State.wr_keeps (by assumption)
  · exact State.wr_keeps (by assumption)

theorem State.loadEnds_keeps {s0 s : State} {x2} (h : Keeps s0 s) :
    Keeps s0 (State.loadEnds s x2) := by
  unfold State.loadEnds
  extract_lets n1 s2
  have hs2 : Keeps s0 s2 := by
    unfold s2
    refine State.setMot_keeps ?_
    exact State.wr_keeps (by assumption)
  clear_value s2
  refine State.startReached_keeps ?_
  refine State.raise_keeps ?_
  exact State.tapeRamp_keeps (by assumption)

theorem State.loadEnter_keeps {s0 s : State} {x2} (h : Keeps s0 s) :
    Keeps s0 (State.loadEnter s x2) := by
  unfold State.loadEnter
  extract_lets n1 s2 n3 s4 s5 s6 s7 s8
  have hs2 : Keeps s0 s2 := by
    unfold s2
    exact State.setMot_keeps (by assumption)
  clear_value s2
  have hs4 : Keeps s0 s4 := by
    unfold s4
    refine State.wr_keeps ?_
    exact State.setMot_keeps (by assumption)
  clear_value s4
  have hs5 : Keeps s0 s5 := by
    unfold s5
    refine State.wr_keeps ?_
    exact State.setMot_keeps (by assumption)
  clear_value s5
  have hs6 : Keeps s0 s6 := by
    unfold s6
    exact State.setMot_keeps (by assumption)
  clear_value s6
  have hs7 : Keeps s0 s7 := by
    unfold s7
    refine State.wr_keeps ?_
    exact State.startStep_keeps (by assumption)
  clear_value s7
  have hs8 : Keeps s0 s8 := by
    unfold s8
    refine State.wr_keeps ?_
    exact State.wr_keeps (by assumption)
  clear_value s8
  split
  · refine State.tapeRamp_keeps ?_
    exact State.enableSlot_keeps (by assumption)
  · refine State.tapeRamp_keeps ?_
    refine Keeps.foldl _ ?_ (fun s _ h => ?_)
    · assumption
    · exact State.enableSlot_keeps (by assumption)
  · refine State.tapeRun_keeps ?_
    refine State.reelLimits_keeps ?_
    refine State.setRampTarget_keeps ?_
    exact State.setRampMode_keeps (by assumption)
  · assumption

theorem State.locateEnd_keeps {s0 s : State} (h : Keeps s0 s) :
    Keeps s0 (State.locateEnd s) := by
  unfold State.locateEnd
  extract_lets n1 n2 n3 n4 n5 s6 s7 s8
  have hs6 : Keeps s0 s6 := by
    unfold s6
    exact State.setTape_keeps (by assumption)
  clear_value s6
  have hs7 : Keeps s0 s7 := by
    unfold s7
    refine State.findEnd_keeps ?_
    exact State.wr_keeps (by assumption)
  clear_value s7
  have hs8 : Keeps s0 s8 := by
    unfold s8
    exact State.raise_keeps (by assumption)
  clear_value s8
  refine Keeps.ite ?_ ?_
  · refine State.raise_keeps ?_
    exact State.lifeAdd_keeps (by assumption)
  · assumption

theorem State.locateEnds_keeps {s0 s : State} {x2} (h : Keeps s0 s) :
    Keeps s0 (State.locateEnds s x2) := by
  unfold State.locateEnds
  extract_lets n1 s2 n3
  have hs2 : Keeps s0 s2 := by
    unfold s2
    exact State.setMot_keeps (by assumption)
  clear_value s2
  refine State.forwardTape_keeps ?_
  refine State.wr_keeps ?_
  exact State.startStep_keeps (by assumption)

theorem State.parkTape_keeps {s0 s : State} (h : Keeps s0 s) :
    Keeps s0 (State.parkTape s) := by
  unfold State.parkTape
  extract_lets n1
  refine State.tapeRamp_keeps ?_
  refine State.wr_keeps ?_
  exact State.setMot_keeps (by assumption)

theorem State.phaseFrame_keeps {s0 s : State} {x2} (h : Keeps s0 s) :
    Keeps s0 (State.phaseFrame s x2) := by
  unfold State.phaseFrame
  extract_lets n1 s2 n3 n4
  have hs2 : Keeps s0 s2 := by
    unfold s2
    exact State.setMot_keeps (by assumption)
  clear_value s2
  split
  · refine Keeps.ite ?_ ?_
    · exact State.setMot_keeps (by assumption)
    · refine Keeps.ite ?_ ?_
      · exact State.forwardTape_keeps (by assumption)
      · refine Keeps.ite ?_ ?_
        · exact State.parkTape_keeps (by assumption)
        · exact State.forwardTape_keeps (by assumption)
  · refine Keeps.ite ?_ ?_
    · assumption
    · refine State.wr_keeps ?_
      exact State.setMot_keeps (by assumption)
  · split
    · assumption
    · refine Keeps.ite ?_ ?_
      · exact State.locateEnds_keeps (by assumption)
      · assumption
  · split
    · refine Keeps.ite ?_ ?_
      · refine State.tapeRamp_keeps ?_
        refine State.wr_keeps ?_
        exact State.setMot_keeps (by assumption)
      · assumption
    · assumption
  · assumption

theorem State.reacqReverse_keeps {s0 s : State} (h : Keeps s0 s) :
    Keeps s0 (State.reacqReverse s) := by
  unfold State.reacqReverse
  exact State.reverseTape_keeps (by assumption)

theorem State.shiftHist_keeps {s0 s : State} (h : Keeps s0 s) :
    Keeps s0 (State.shiftHist s) := by
  unfold State.shiftHist
  extract_lets n1 s2 n3
  have hs2 : Keeps s0 s2 := by
    unfold s2
    exact State.setTape_keeps (by assumption)
  clear_value s2
  exact State.setMot_keeps (by assumption)

theorem State.stepLpos_keeps {s0 s : State} {x2} (h : Keeps s0 s) :
    Keeps s0 (State.stepLpos s x2) := by
  unfold State.stepLpos
  extract_lets n1 n2 n3 n4
  refine Keeps.ite ?_ ?_
  · refine Keeps.ite ?_ ?_
    · refine State.wr_keeps ?_
      exact State.setMot_keeps (by assumption)
    · exact State.setMot_keeps (by assumption)
  · refine Keeps.ite ?_ ?_
    · exact State.setMot_keeps (by assumption)
    · refine State.wr_keeps ?_
      exact State.setMot_keeps (by assumption)

theorem State.takeServo_keeps {s0 s : State} {x2 x3 x4} (h : Keeps s0 s) :
    Keeps s0 (State.takeServo s x2 x3 x4) := by
  unfold State.takeServo
  extract_lets n1 s2 s3
  have hs2 : Keeps s0 s2 := by
    unfold s2
    refine Keeps.ite ?_ ?_
    · exact State.setLane_keeps (by assumption)
    · assumption
  clear_value s2
  have hs3 : Keeps s0 s3 := by
    unfold s3
    exact State.wri_keeps (by assumption)
  clear_value s3
  refine Keeps.ite ?_ ?_
  · assumption
  · exact State.inci_keeps (by assumption)

theorem State.trackRate_keeps {s0 s : State} (h : Keeps s0 s) :
    Keeps s0 (State.trackRate s) := by
  unfold State.trackRate
  extract_lets n1 n2 n3
  refine Keeps.ite ?_ ?_
  · assumption
  · refine Keeps.upd ?_ rfl rfl rfl --UPD .wra
    assumption

theorem State.turnFrame_keeps {s0 s : State} (h : Keeps s0 s) :
    Keeps s0 (State.turnFrame s) := by
  unfold State.turnFrame
  extract_lets s1 n2
  have hs1 : Keeps s0 s1 := by
    unfold s1
    refine Keeps.ite ?_ ?_
    · exact State.enableSlot_keeps (by assumption)
    · assumption
  clear_value s1
  refine Keeps.ite ?_ ?_
  · assumption
  · refine Keeps.ite ?_ ?_
    · exact State.setMot_keeps (by assumption)
    · assumption

theorem State.unbuild_keeps {s0 s : State} (h : Keeps s0 s) :
    Keeps s0 (State.unbuild s) := by
  unfold State.unbuild
  extract_lets n1 n2 n3 n4
  exact State.setTape_keeps (by assumption)

theorem State.validFrame_keeps {s0 s : State} {x2 x3} (h : Keeps s0 s) :
    Keeps s0 (State.validFrame s x2 x3) := by
  unfold State.validFrame
  extract_lets n1 n2 n3 s4
  have hs4 : Keeps s0 s4 := by
    unfold s4
    exact State.setMot_keeps (by assumption)
  clear_value s4
  exact State.wr_keeps (by assumption)

theorem execLateralWriteInhibit_keeps {s0 s : State} (h : Keeps s0 s) :
    Keeps.Out s0 (execLateralWriteInhibit s) := by
  unfold execLateralWriteInhibit
  refine Keeps.next ?_
  refine Keeps.ite ?_ ?_
  · refine State.disturb_keeps ?_
    exact State.wr_keeps (by assumption)
  · assumption

theorem execWriteResumeSettled_keeps {s0 s : State} (h : Keeps s0 s) :
    Keeps.Out s0 (execWriteResumeSettled s) := by
  unfold execWriteResumeSettled
  extract_lets n1 s2 n3 s4
  have hs2 : Keeps s0 s2 := by
    unfold s2
    refine State.wr_keeps ?_
    exact State.setMot_keeps (by assumption)
  clear_value s2
  have hs4 : Keeps s0 s4 := by
    unfold s4
    refine Keeps.upd ?_ rfl rfl rfl --UPD .wra
    assumption
  clear_value s4
  refine Keeps.iteOut ?_ ?_
  · refine Keeps.next ?_
    refine State.wr_keeps ?_
    refine State.wr_keeps ?_
    exact State.wr_keeps (by assumption)
  · refine Keeps.next ?_
    assumption

theorem execWrapTurn_keeps {s0 s : State} {x1} (h : Keeps s0 s) :
    Keeps.Out s0 (execWrapTurn x1 s) := by
  unfold execWrapTurn
  extract_lets n1 n2 n3 n4 n5 s6 s7 n8 s9 n10 s11 s12
  have hs6 : Keeps s0 s6 := by
    unfold s6
    refine Keeps.ite ?_ ?_
    · assumption
    · exact State.unbuild_keeps (by assumption)
  clear_value s6
  have hs7 : Keeps s0 s7 := by
    unfold s7
    refine State.wr_keeps ?_
    exact State.wr_keeps (by assumption)
  clear_value s7
  have hs9 : Keeps s0 s9 := by
    unfold s9
    exact State.setMot_keeps (by assumption)
  clear_value s9
  have hs11 : Keeps s0 s11 := by
    unfold s11
    exact State.setTape_keeps (by assumption)
  clear_value s11
  have hs12 : Keeps s0 s12 := by
    unfold s12
    refine State.disableSlot_keeps ?_
    refine State.setRampTarget_keeps ?_
    exact State.setRampMode_keeps (by assumption)
  clear_value s12
  refine Keeps.iteOut ?_ ?_
  · refine Keeps.next ?_
    refine State.tapeRun_keeps ?_
    exact State.wr_keeps (by assumption)
  · refine Keeps.next ?_
    assumption

theorem execStepDecision_keeps {s0 s : State} (h : Keeps s0 s) :
    Keeps.Out s0 (execStepDecision s) := by
  unfold execStepDecision
  extract_lets n1 n2 s3 n4 s5
  have hs3 : Keeps s0 s3 := by
    unfold s3
    exact State.unask_keeps (by assumption)
  clear_value s3
  have hs5 : Keeps s0 s5 := by
    unfold s5
    refine Keeps.ite ?_ ?_
    · assumption
    · refine Keeps.ite ?_ ?_
      · exact State.ask_keeps (by assumption)
      · exact State.startChange_keeps (by assumption)
  clear_value s5
  refine Keeps.next ?_
  exact State.shiftHist_keeps (by assumption)

theorem execQuietPointDrained_keeps {s0 s : State} (h : Keeps s0 s) :
    Keeps.Out s0 (execQuietPointDrained s) := by
  unfold execQuietPointDrained
  extract_lets n1 n2 n3
  split
  · refine Keeps.next ?_
    assumption
  · refine Keeps.iteOut ?_ ?_
    · refine Keeps.next ?_
      assumption
    · refine Keeps.iteOut ?_ ?_
      · refine Keeps.next ?_
        refine State.tapeRun_keeps ?_
        refine State.tuneTape_keeps ?_
        exact State.setMot_keeps (by assumption)
      · refine Keeps.next ?_
        refine State.stopTape_keeps ?_
        refine State.wr_keeps ?_
        exact State.setMot_keeps (by assumption)

theorem execSpeedSettled_keeps {s0 s : State} {x1} (h : Keeps s0 s) :
    Keeps.Out s0 (execSpeedSettled x1 s) := by
  unfold execSpeedSettled
  extract_lets s1 n2 s3 n4
  have hs1 : Keeps s0 s1 := by
    unfold s1
    exact State.takeStep_keeps (by assumption)
  clear_value s1
  have hs3 : Keeps s0 s3 := by
    unfold s3
    exact State.setMot_keeps (by assumption)
  clear_value s3
  refine Keeps.iteOut ?_ ?_
  · refine Keeps.next ?_
    exact State.setTape_keeps (by assumption)
  · refine Keeps.next ?_
    assumption

theorem execTapeHoldStop_keeps {s0 s : State} (h : Keeps s0 s) :
    Keeps.Out s0 (execTapeHoldStop s) := by
  unfold execTapeHoldStop
  extract_lets n1
  refine Keeps.iteOut ?_ ?_
  · refine Keeps.next ?_
    exact State.setMot_keeps (by assumption)
  · refine Keeps.next ?_
    assumption

theorem execTapeRestart_keeps {s0 s : State} (h : Keeps s0 s) :
    Keeps.Out s0 (execTapeRestart s) := by
  unfold execTapeRestart
  refine Keeps.iteOut ?_ ?_
  · refine Keeps.next ?_
    refine State.ask_keeps ?_
    exact State.endReading_keeps (by assumption)
  · refine Keeps.next ?_
    assumption

theorem execServoFrameRecord_keeps {s0 s : State} {x1 x2 x3 x4 x5 x6} (h : Keeps s0 s) :
    Keeps.Out s0 (execServoFrameRecord x1 x2 x3 x4 x5 x6 s) := by
  unfold execServoFrameRecord
  extract_lets n1 n2 n3 n4 n5 s6 s7 s8 s9 s10 n11 s12 s13 s14 s15 n16 s17
  have hs6 : Keeps s0 s6 := by
    unfold s6
    exact State.takeServo_keeps (by assumption)
  clear_value s6
  have hs7 : Keeps s0 s7 := by
    unfold s7
    exact State.takeServo_keeps (by assumption)
  clear_value s7
  have hs8 : Keeps s0 s8 := by
    unfold s8
    exact State.takeServo_keeps (by assumption)
  clear_value s8
  have hs9 : Keeps s0 s9 := by
    unfold s9
    exact State.takeServo_keeps (by assumption)
  clear_value s9
  have hs10 : Keeps s0 s10 := by
    unfold s10
    exact State.wr_keeps (by assumption)
  clear_value s10
  have hs12 : Keeps s0 s12 := by
    unfold s12
    refine State.stepLpos_keeps ?_
    exact State.setMot_keeps (by assumption)
  clear_value s12
  have hs13 : Keeps s0 s13 := by
    unfold s13
    exact State.wr_keeps (by assumption)
  clear_value s13
  have hs14 : Keeps s0 s14 := by
    unfold s14
    refine Keeps.ite ?_ ?_
    · refine State.trackRate_keeps ?_
      exact State.validFrame_keeps (by assumption)
    · exact State.heldFrame_keeps (by assumption)
  clear_value s14
  have hs15 : Keeps s0 s15 := by
    unfold s15
    refine State.turnFrame_keeps ?_
    exact State.phaseFrame_keeps (by assumption)
  clear_value s15
  have hs17 : Keeps s0 s17 := by
    unfold s17
    refine Keeps.ite ?_ ?_
    · refine State.disturb_keeps ?_
      exact State.wr_keeps (by assumption)
    · exact State.wr_keeps (by assumption)
  clear_value s17
  refine Keeps.iteOut ?_ ?_
  · refine Keeps.next ?_
    assumption
  · refine Keeps.next ?_
    refine Keeps.ite ?_ ?_
    · exact State.tapeFault_keeps (by assumption)
    · assumption

theorem execVelocityFollowingError_keeps {s0 s : State} (h : Keeps s0 s) :
    Keeps.Out s0 (execVelocityFollowingError s) := by
  unfold execVelocityFollowingError
  refine Keeps.next ?_
  refine Keeps.ite ?_ ?_
  · exact State.tapeReacquire_keeps (by assumption)
  · assumption

theorem execTensionError_keeps {s0 s : State} (h : Keeps s0 s) :
    Keeps.Out s0 (execTensionError s) := by
  unfold execTensionError
  refine Keeps.next ?_
  refine Keeps.ite ?_ ?_
  · exact State.tapeFault_keeps (by assumption)
  · assumption

theorem execTensionCollapse_keeps {s0 s : State} (h : Keeps s0 s) :
    Keeps.Out s0 (execTensionCollapse s) := by
  unfold execTensionCollapse
  refine Keeps.next ?_
  refine Keeps.ite ?_ ?_
  · exact State.tapeFault_keeps (by assumption)
  · assumption

theorem execThreadTimeout_keeps {s0 s : State} (h : Keeps s0 s) :
    Keeps.Out s0 (execThreadTimeout s) := by
  unfold execThreadTimeout
  refine Keeps.next ?_
  refine Keeps.ite ?_ ?_
  · exact State.tapeFault_keeps (by assumption)
  · assumption

theorem execReacquisitionDone_keeps {s0 s : State} {x1} (h : Keeps s0 s) :
    Keeps.Out s0 (execReacquisitionDone x1 s) := by
  unfold execReacquisitionDone
  extract_lets n1 n2 n3 n4 s5 s6 s7
  have hs5 : Keeps s0 s5 := by
    unfold s5
    exact State.setMot_keeps (by assumption)
  clear_value s5
  have hs6 : Keeps s0 s6 := by
    unfold s6
    exact State.raise_keeps (by assumption)
  clear_value s6
  have hs7 : Keeps s0 s7 := by
    unfold s7
    refine State.raise_keeps ?_
    exact State.setMot_keeps (by assumption)
  clear_value s7
  refine Keeps.iteOut ?_ ?_
  · refine Keeps.next ?_
    assumption
  · refine Keeps.iteOut ?_ ?_
    · refine Keeps.next ?_
      refine Keeps.ite ?_ ?_
      · assumption
      · exact State.stopTape_keeps (by assumption)
    · refine Keeps.iteOut ?_ ?_
      · refine Keeps.next ?_
        refine State.reacqReverse_keeps ?_
        exact State.setMot_keeps (by assumption)
      · refine Keeps.next ?_
        refine State.wr_keeps ?_
        exact State.mediaFault_keeps (by assumption)

theorem execLoadStageDone_keeps {s0 s : State} (h : Keeps s0 s) :
    Keeps.Out s0 (execLoadStageDone s) := by
  unfold execLoadStageDone
  extract_lets n1
  refine Keeps.iteOut ?_ ?_
  · refine Keeps.next ?_
    assumption
  · split
    · refine Keeps.next ?_
      refine State.loadEnter_keeps ?_
      exact State.setMot_keeps (by assumption)
    · refine Keeps.next ?_
      exact State.loadEnter_keeps (by assumption)
    · refine Keeps.next ?_
      exact State.loadEnter_keeps (by assumption)
    · refine Keeps.iteOut ?_ ?_
      · refine Keeps.next ?_
        exact State.loadEnter_keeps (by assumption)
      · refine Keeps.next ?_
        assumption
    · refine Keeps.iteOut ?_ ?_
      · refine Keeps.next ?_
        exact State.loadEnds_keeps (by assumption)
      · refine Keeps.next ?_
        exact State.loadEnter_keeps (by assumption)
    · refine Keeps.next ?_
      refine State.loadEnds_keeps ?_
      exact State.locateEnd_keeps (by assumption)
    · refine Keeps.next ?_
      assumption

theorem execUnloadDone_keeps {s0 s : State} (h : Keeps s0 s) :
    Keeps.Out s0 (execUnloadDone s) := by
  unfold execUnloadDone
  extract_lets s1 n2 n3 n4 s5 n6 s7 s8 s9 s10 s11 s12 s13
  have hs1 : Keeps s0 s1 := by
    unfold s1
    exact State.advanceStop_keeps (by assumption)
  clear_value s1
  have hs5 : Keeps s0 s5 := by
    unfold s5
    exact State.setTape_keeps (by assumption)
  clear_value s5
  have hs7 : Keeps s0 s7 := by
    unfold s7
    exact State.setMot_keeps (by assumption)
  clear_value s7
  have hs8 : Keeps s0 s8 := by
    unfold s8
    refine Keeps.foldl _ ?_ (fun s _ h => ?_)
    · assumption
    · exact State.disableSlot_keeps (by assumption)
  clear_value s8
  have hs9 : Keeps s0 s9 := by
    unfold s9
    refine Keeps.foldl _ ?_ (fun s _ h => ?_)
    · assumption
    · exact State.enableLane_keeps (by assumption)
  clear_value s9
  have hs10 : Keeps s0 s10 := by
    unfold s10
    refine Keeps.ite ?_ ?_
    · assumption
    · exact State.sendMdrv_keeps (by assumption)
  clear_value s10
  have hs11 : Keeps s0 s11 := by
    unfold s11
    refine State.wr_keeps ?_
    refine State.wr_keeps ?_
    exact State.wr_keeps (by assumption)
  clear_value s11
  have hs12 : Keeps s0 s12 := by
    unfold s12
    refine State.wr_keeps ?_
    exact State.wr_keeps (by assumption)
  clear_value s12
  have hs13 : Keeps s0 s13 := by
    unfold s13
    refine State.wr_keeps ?_
    exact State.wr_keeps (by assumption)
  clear_value s13
  refine Keeps.iteOut ?_ ?_
  · refine Keeps.next ?_
    assumption
  · refine Keeps.next ?_
    refine State.stopReached_keeps ?_
    refine State.syncLevel_keeps ?_
    exact State.raise_keeps (by assumption)

end Sys2Proof.Machine
end

