-- ==== Sys2Proof/Laws/KeepsTrace.lean ====
section
/-!
SUPPORT. What every operation of Machine/Trace.lean keeps (Laws/Keeps.lean).
-/

set_option Elab.async false

namespace Sys2Proof.Machine

theorem State.setTrc_keeps {s0 s : State} {x2} (h : Keeps s0 s) :
    Keeps s0 (State.setTrc s x2) := by
  unfold State.setTrc
  refine Keeps.upd ?_ rfl rfl rfl --UPD .trc
  assumption

theorem State.traceArm_keeps {s0 s : State} (h : Keeps s0 s) :
    Keeps s0 (State.traceArm s) := by
  unfold State.traceArm
  extract_lets s1 s2
  have hs1 : Keeps s0 s1 := by
    unfold s1
    exact State.setTrc_keeps (by assumption)
  clear_value s1
  have hs2 : Keeps s0 s2 := by
    unfold s2
    refine Keeps.foldl _ ?_ (fun s _ h => ?_)
    · assumption
    · refine State.wri_keeps ?_
      exact State.wri_keeps (by assumption)
  clear_value s2
  exact State.wr_keeps (by assumption)

theorem State.traceForce_keeps {s0 s : State} (h : Keeps s0 s) :
    Keeps s0 (State.traceForce s) := by
  unfold State.traceForce
  refine Keeps.ite ?_ ?_
  · exact State.trcTrigger_keeps (by assumption)
  · assumption

theorem State.traceAbort_keeps {s0 s : State} (h : Keeps s0 s) :
    Keeps s0 (State.traceAbort s) := by
  unfold State.traceAbort
  exact State.wr_keeps (by assumption)

theorem State.traceLevel_keeps {s0 s : State} {x2 x3} (h : Keeps s0 s) :
    Keeps s0 (State.traceLevel s x2 x3) := by
  unfold State.traceLevel
  extract_lets n1 n2 n3 n4 n5 s6
  have hs6 : Keeps s0 s6 := by
    unfold s6
    exact State.setTrc_keeps (by assumption)
  clear_value s6
  refine Keeps.ite ?_ ?_
  · assumption
  · refine Keeps.ite ?_ ?_
    · exact State.trcTrigger_keeps (by assumption)
    · assumption

theorem State.traceEntry_keeps {s0 s : State} {x2 x3 x4} (h : Keeps s0 s) :
    Keeps s0 (State.traceEntry s x2 x3 x4) := by
  unfold State.traceEntry
  extract_lets n1 n2 n3 n4
  refine Keeps.ite ?_ ?_
  · refine State.wri_keeps ?_
    exact State.setTrc_keeps (by assumption)
  · assumption

theorem State.traceDone_keeps {s0 s : State} (h : Keeps s0 s) :
    Keeps s0 (State.traceDone s) := by
  unfold State.traceDone
  refine State.raise_keeps ?_
  exact State.wr_keeps (by assumption)

theorem State.traceSample_keeps {s0 s : State} {x2 x3} (h : Keeps s0 s) :
    Keeps s0 (State.traceSample s x2 x3) := by
  unfold State.traceSample
  extract_lets s1 s2
  have hs1 : Keeps s0 s1 := by
    unfold s1
    exact State.traceLevel_keeps (by assumption)
  clear_value s1
  have hs2 : Keeps s0 s2 := by
    unfold s2
    refine Keeps.foldl _ ?_ (fun s _ h => ?_)
    · assumption
    · refine Keeps.ite ?_ ?_
      · exact State.traceEntry_keeps (by assumption)
      · assumption
  clear_value s2
  refine Keeps.ite ?_ ?_
  · exact State.traceDone_keeps (by assumption)
  · assumption

theorem execTrcArm_keeps {s0 s : State} {x1} (h : Keeps s0 s) :
    Keeps.Out s0 (execTrcArm x1 s) := by
  unfold execTrcArm
  refine Keeps.next ?_
  refine Keeps.ite ?_ ?_
  · exact State.traceArm_keeps (by assumption)
  · assumption

theorem execTrcForce_keeps {s0 s : State} {x1} (h : Keeps s0 s) :
    Keeps.Out s0 (execTrcForce x1 s) := by
  unfold execTrcForce
  refine Keeps.next ?_
  refine Keeps.ite ?_ ?_
  · exact State.traceForce_keeps (by assumption)
  · assumption

theorem execTrcAbort_keeps {s0 s : State} {x1} (h : Keeps s0 s) :
    Keeps.Out s0 (execTrcAbort x1 s) := by
  unfold execTrcAbort
  refine Keeps.next ?_
  refine Keeps.ite ?_ ?_
  · exact State.traceAbort_keeps (by assumption)
  · assumption

theorem execTraceDone_keeps {s0 s : State} {x1} (h : Keeps s0 s) :
    Keeps.Out s0 (execTraceDone x1 s) := by
  unfold execTraceDone
  refine Keeps.next ?_
  refine Keeps.ite ?_ ?_
  · exact State.traceDone_keeps (by assumption)
  · assumption

theorem execTrcRdDataRead_keeps {s0 s : State} {x1} (h : Keeps s0 s) :
    Keeps.Out s0 (execTrcRdDataRead x1 s) := by
  unfold execTrcRdDataRead
  refine Keeps.next ?_
  refine Keeps.ite ?_ ?_
  · exact State.doRead_keeps (by assumption)
  · assumption

end Sys2Proof.Machine
end

