-- ==== Sys2Proof/Laws/KeepsWra.lean ====
section
/-!
SUPPORT. What every operation of Machine/Wra.lean keeps (Laws/Keeps.lean).
-/

set_option Elab.async false

namespace Sys2Proof.Machine

theorem State.stopWrites'_keeps {s0 s : State} {x2} (h : Keeps s0 s) :
    Keeps s0 (State.stopWrites' s x2) := by
  unfold State.stopWrites'
  refine State.wr_keeps ?_
  exact State.releaseGates_keeps (by assumption)

theorem State.assistFault_keeps {s0 s : State} {x2 x3} (h : Keeps s0 s) :
    Keeps s0 (State.assistFault s x2 x3) := by
  unfold State.assistFault
  extract_lets s1 s2 s3 n4 n5 n6 s7
  have hs1 : Keeps s0 s1 := by
    unfold s1
    exact State.stopWrites'_keeps (by assumption)
  clear_value s1
  have hs2 : Keeps s0 s2 := by
    unfold s2
    refine State.wr_keeps ?_
    exact State.inc_keeps (by assumption)
  clear_value s2
  have hs3 : Keeps s0 s3 := by
    unfold s3
    exact State.raise_keeps (by assumption)
  clear_value s3
  have hs7 : Keeps s0 s7 := by
    unfold s7
    exact State.setWra_keeps (by assumption)
  clear_value s7
  refine Keeps.ite ?_ ?_
  · exact State.failHead_keeps (by assumption)
  · assumption

theorem State.assistSample_keeps {s0 s : State} {x2 x3} (h : Keeps s0 s) :
    Keeps s0 (State.assistSample s x2 x3) := by
  unfold State.assistSample
  extract_lets n1 n2 n3 n4 n5 n6 n7 n8 n9 n10 n11 s12 s13 s14 s15
  have hs12 : Keeps s0 s12 := by
    unfold s12
    exact State.setWra_keeps (by assumption)
  clear_value s12
  have hs13 : Keeps s0 s13 := by
    unfold s13
    refine Keeps.ite ?_ ?_
    · exact State.wri_keeps (by assumption)
    · assumption
  clear_value s13
  have hs14 : Keeps s0 s14 := by
    unfold s14
    refine Keeps.ite ?_ ?_
    · refine State.raise_keeps ?_
      exact State.wr_keeps (by assumption)
    · assumption
  clear_value s14
  have hs15 : Keeps s0 s15 := by
    unfold s15
    exact State.sendPac_keeps (by assumption)
  clear_value s15
  refine Keeps.ite ?_ ?_
  · assumption
  · refine Keeps.ite ?_ ?_
    · exact State.assistFault_keeps (by assumption)
    · refine Keeps.ite ?_ ?_
      · exact State.assistFault_keeps (by assumption)
      · assumption

theorem State.beginChan_keeps {s0 s : State} {x2 x3 x4 x5 x6} (h : Keeps s0 s) :
    Keeps s0 (State.beginChan s x2 x3 x4 x5 x6) := by
  unfold State.beginChan
  extract_lets n1 n2 s3 n4 n5 n6 n7 s8 s9 s10
  have hs3 : Keeps s0 s3 := by
    unfold s3
    refine State.raiseBit_keeps ?_
    exact State.sendPac_keeps (by assumption)
  clear_value s3
  have hs8 : Keeps s0 s8 := by
    unfold s8
    exact State.setWra_keeps (by assumption)
  clear_value s8
  have hs9 : Keeps s0 s9 := by
    unfold s9
    refine Keeps.ite ?_ ?_
    · assumption
    · exact State.sendPac_keeps (by assumption)
  clear_value s9
  have hs10 : Keeps s0 s10 := by
    unfold s10
    refine Keeps.ite ?_ ?_
    · assumption
    · exact State.sendPac_keeps (by assumption)
  clear_value s10
  refine Keeps.ite ?_ ?_
  · exact State.sendPac_keeps (by assumption)
  · assumption

theorem State.saveLevels_keeps {s0 s : State} (h : Keeps s0 s) :
    Keeps s0 (State.saveLevels s) := by
  unfold State.saveLevels
  extract_lets n1
  exact State.setWra_keeps (by assumption)

theorem State.emitField_keeps {s0 s : State} {x2 x3 x4} (h : Keeps s0 s) :
    Keeps s0 (State.emitField s x2 x3 x4) := by
  unfold State.emitField
  extract_lets n1
  exact State.emit_keeps (by assumption)

theorem State.fillSlot_keeps {s0 s : State} (h : Keeps s0 s) :
    Keeps s0 (State.fillSlot s) := by
  unfold State.fillSlot
  exact State.addFrames_keeps (by assumption)

theorem State.loadLevels_keeps {s0 s : State} (h : Keeps s0 s) :
    Keeps s0 (State.loadLevels s) := by
  unfold State.loadLevels
  refine Keeps.foldl _ ?_ (fun s _ h => ?_)
  · assumption
  · exact State.wri_keeps (by assumption)

theorem State.notePair_keeps {s0 s : State} {x2} (h : Keeps s0 s) :
    Keeps s0 (State.notePair s x2) := by
  unfold State.notePair
  extract_lets n1 n2 n3
  split
  · exact State.setAct_keeps (by assumption)
  · exact State.setAct_keeps (by assumption)

theorem State.setRate_keeps {s0 s : State} {x2 x3} (h : Keeps s0 s) :
    Keeps s0 (State.setRate s x2 x3) := by
  unfold State.setRate
  extract_lets n1
  exact State.setWra_keeps (by assumption)

theorem State.tryChan_keeps {s0 s : State} {x2 x3 x4} (h : Keeps s0 s) :
    Keeps s0 (State.tryChan s x2 x3 x4) := by
  unfold State.tryChan
  extract_lets n1 n2
  refine Keeps.ite ?_ ?_
  · exact State.setChan_keeps (by assumption)
  · refine Keeps.ite ?_ ?_
    · exact State.ask_keeps (by assumption)
    · assumption

theorem execFrameSlotStart_keeps {s0 s : State} (h : Keeps s0 s) :
    Keeps.Out s0 (execFrameSlotStart s) := by
  unfold execFrameSlotStart
  extract_lets n1
  refine Keeps.iteOut ?_ ?_
  · refine Keeps.next ?_
    refine State.wr_keeps ?_
    exact State.setWra_keeps (by assumption)
  · refine Keeps.iteOut ?_ ?_
    · refine Keeps.next ?_
      refine State.writeFrame_keeps ?_
      exact State.wr_keeps (by assumption)
    · refine Keeps.iteOut ?_ ?_
      · refine Keeps.next ?_
        refine State.writeFrame_keeps ?_
        refine State.fillSlot_keeps ?_
        exact State.wr_keeps (by assumption)
      · refine Keeps.iteOut ?_ ?_
        · refine Keeps.next ?_
          exact State.passSlot_keeps (by assumption)
        · refine Keeps.next ?_
          assumption

theorem execFieldWriteStart_keeps {s0 s : State} {x1 x2 x3 x4} (h : Keeps s0 s) :
    Keeps.Out s0 (execFieldWriteStart x1 x2 x3 x4 s) := by
  unfold execFieldWriteStart
  extract_lets n1 n2 n3 s4 n5 n6 s7 s8 n9
  have hs4 : Keeps s0 s4 := by
    unfold s4
    refine Keeps.foldl _ ?_ (fun s _ h => ?_)
    · assumption
    · exact State.tryChan_keeps (by assumption)
  clear_value s4
  have hs7 : Keeps s0 s7 := by
    unfold s7
    refine Keeps.foldl _ ?_ (fun s _ h => ?_)
    · assumption
    · refine State.emitField_keeps ?_
      exact State.beginChan_keeps (by assumption)
  clear_value s7
  have hs8 : Keeps s0 s8 := by
    unfold s8
    refine State.raiseBit_keeps ?_
    exact State.raiseBit_keeps (by assumption)
  clear_value s8
  refine Keeps.iteOut ?_ ?_
  · refine Keeps.next ?_
    assumption
  · refine Keeps.iteOut ?_ ?_
    · refine Keeps.next ?_
      exact State.stopWrites'_keeps (by assumption)
    · refine Keeps.iteOut ?_ ?_
      · refine Keeps.next ?_
        assumption
      · refine Keeps.next ?_
        refine State.notePair_keeps ?_
        exact State.setActWra_keeps (by assumption)

theorem execFieldWriteEnd_keeps {s0 s : State} {x1} (h : Keeps s0 s) :
    Keeps.Out s0 (execFieldWriteEnd x1 s) := by
  unfold execFieldWriteEnd
  extract_lets n1 n2 s3 s4 n5
  have hs3 : Keeps s0 s3 := by
    unfold s3
    refine State.wr_keeps ?_
    exact State.wr_keeps (by assumption)
  clear_value s3
  have hs4 : Keeps s0 s4 := by
    unfold s4
    refine Keeps.foldl _ ?_ (fun s _ h => ?_)
    · assumption
    · extract_lets n6 s7 s8
      have hs7 : Keeps s0 s7 := by
        unfold s7
        refine Keeps.ite ?_ ?_
        · assumption
        · exact State.readPac_keeps (by assumption)
      clear_value s7
      have hs8 : Keeps s0 s8 := by
        unfold s8
        refine Keeps.ite ?_ ?_
        · exact State.wr_keeps (by assumption)
        · assumption
      clear_value s8
      refine Keeps.ite ?_ ?_
      · assumption
      · exact State.setChan_keeps (by assumption)
  clear_value s4
  refine Keeps.iteOut ?_ ?_
  · refine Keeps.next ?_
    assumption
  · refine Keeps.next ?_
    exact State.setActWra_keeps (by assumption)

theorem execPacResponse_keeps {s0 s : State} {x1 x2} (h : Keeps s0 s) :
    Keeps.Out s0 (execPacResponse x1 x2 s) := by
  unfold execPacResponse
  extract_lets n1 n2 n3 n4 n5 n6 s7 n8 s9 s10 n11 s12 s13 s14 n15
  have hs7 : Keeps s0 s7 := by
    unfold s7
    refine Keeps.ite ?_ ?_
    · exact State.wr_keeps (by assumption)
    · exact State.wr_keeps (by assumption)
  clear_value s7
  have hs9 : Keeps s0 s9 := by
    unfold s9
    exact State.setActWra_keeps (by assumption)
  clear_value s9
  have hs10 : Keeps s0 s10 := by
    unfold s10
    exact State.raise_keeps (by assumption)
  clear_value s10
  have hs12 : Keeps s0 s12 := by
    unfold s12
    refine Keeps.ite ?_ ?_
    · refine State.sendPac_keeps ?_
      exact State.setActWra_keeps (by assumption)
    · assumption
  clear_value s12
  have hs13 : Keeps s0 s13 := by
    unfold s13
    refine Keeps.ite ?_ ?_
    · exact State.failHead_keeps (by assumption)
    · assumption
  clear_value s13
  have hs14 : Keeps s0 s14 := by
    unfold s14
    refine Keeps.ite ?_ ?_
    · exact State.assistFault_keeps (by assumption)
    · assumption
  clear_value s14
  refine Keeps.iteOut ?_ ?_
  · refine Keeps.next ?_
    assumption
  · refine Keeps.iteOut ?_ ?_
    · refine Keeps.next ?_
      exact State.pacRetry_keeps (by assumption)
    · refine Keeps.iteOut ?_ ?_
      · refine Keeps.next ?_
        exact State.setActWra_keeps (by assumption)
      · refine Keeps.iteOut ?_ ?_
        · refine Keeps.next ?_
          exact State.pacRetry_keeps (by assumption)
        · refine Keeps.next ?_
          refine Keeps.ite ?_ ?_
          · exact State.setActWra_keeps (by assumption)
          · assumption

theorem execPacFaultFall_keeps {s0 s : State} {x1} (h : Keeps s0 s) :
    Keeps.Out s0 (execPacFaultFall x1 s) := by
  unfold execPacFaultFall
  extract_lets n1 s2 s3 n4 s5
  have hs2 : Keeps s0 s2 := by
    unfold s2
    refine State.inc_keeps ?_
    refine State.releaseGates_keeps ?_
    exact State.raiseBit_keeps (by assumption)
  clear_value s2
  have hs3 : Keeps s0 s3 := by
    unfold s3
    exact State.wr_keeps (by assumption)
  clear_value s3
  have hs5 : Keeps s0 s5 := by
    unfold s5
    exact State.setActWra_keeps (by assumption)
  clear_value s5
  refine Keeps.iteOut ?_ ?_
  · refine Keeps.next ?_
    assumption
  · refine Keeps.next ?_
    exact State.readPac_keeps (by assumption)

theorem execAssistLoopSample_keeps {s0 s : State} {x1 x2} (h : Keeps s0 s) :
    Keeps.Out s0 (execAssistLoopSample x1 x2 s) := by
  unfold execAssistLoopSample
  refine Keeps.next ?_
  exact State.assistSample_keeps (by assumption)

theorem execAssistLevelSave_keeps {s0 s : State} (h : Keeps s0 s) :
    Keeps.Out s0 (execAssistLevelSave s) := by
  unfold execAssistLevelSave
  refine Keeps.next ?_
  refine Keeps.ite ?_ ?_
  · exact State.saveLevels_keeps (by assumption)
  · assumption

theorem execSynthUnlock_keeps {s0 s : State} {x1} (h : Keeps s0 s) :
    Keeps.Out s0 (execSynthUnlock x1 s) := by
  unfold execSynthUnlock
  extract_lets n1 s2 s3 s4 n5 s6 n7 n8 s9 s10
  have hs2 : Keeps s0 s2 := by
    unfold s2
    exact State.wr_keeps (by assumption)
  clear_value s2
  have hs3 : Keeps s0 s3 := by
    unfold s3
    refine State.wr_keeps ?_
    exact State.wr_keeps (by assumption)
  clear_value s3
  have hs4 : Keeps s0 s4 := by
    unfold s4
    refine State.disturb_keeps ?_
    exact State.raise_keeps (by assumption)
  clear_value s4
  have hs6 : Keeps s0 s6 := by
    unfold s6
    exact State.wr_keeps (by assumption)
  clear_value s6
  have hs9 : Keeps s0 s9 := by
    unfold s9
    exact State.setChan_keeps (by assumption)
  clear_value s9
  have hs10 : Keeps s0 s10 := by
    unfold s10
    exact State.wr_keeps (by assumption)
  clear_value s10
  refine Keeps.iteOut ?_ ?_
  · refine Keeps.iteOut ?_ ?_
    · refine Keeps.next ?_
      exact State.setWra_keeps (by assumption)
    · refine Keeps.next ?_
      assumption
  · refine Keeps.iteOut ?_ ?_
    · refine Keeps.iteOut ?_ ?_
      · refine Keeps.next ?_
        refine State.raise_keeps ?_
        exact State.wr_keeps (by assumption)
      · refine Keeps.next ?_
        assumption
    · refine Keeps.next ?_
      assumption

theorem execPacFaultRelease_keeps {s0 s : State} {x1} (h : Keeps s0 s) :
    Keeps.Out s0 (execPacFaultRelease x1 s) := by
  unfold execPacFaultRelease
  extract_lets n1 s2
  have hs2 : Keeps s0 s2 := by
    unfold s2
    exact State.wr_keeps (by assumption)
  clear_value s2
  refine Keeps.iteOut ?_ ?_
  · refine Keeps.next ?_
    assumption
  · refine Keeps.next ?_
    exact State.readPac_keeps (by assumption)

theorem execWriteSynthesizerLocked_keeps {s0 s : State} {x1} (h : Keeps s0 s) :
    Keeps.Out s0 (execWriteSynthesizerLocked x1 s) := by
  unfold execWriteSynthesizerLocked
  extract_lets n1
  refine Keeps.next ?_
  refine Keeps.ite ?_ ?_
  · refine Keeps.ite ?_ ?_
    · exact State.wr_keeps (by assumption)
    · assumption
  · refine Keeps.ite ?_ ?_
    · refine State.raiseBit_keeps ?_
      exact State.setRate_keeps (by assumption)
    · assumption

end Sys2Proof.Machine
end

