-- ==== Sys2Proof/Laws/KeepsSpeedwell.lean ====
section
/-!
SUPPORT. What every operation of Machine/Speedwell.lean keeps (Laws/Keeps.lean).
-/

set_option Elab.async false

namespace Sys2Proof.Machine

theorem State.acquired_keeps {s0 s : State} {x2} (h : Keeps s0 s) :
    Keeps s0 (State.acquired s x2) := by
  unfold State.acquired
  extract_lets n1 n2 n3 s4
  have hs4 : Keeps s0 s4 := by
    unfold s4
    exact State.setSlotOf_keeps (by assumption)
  clear_value s4
  refine State.setRampTarget_keeps ?_
  exact State.setRampMode_keeps (by assumption)

theorem State.dkBit_keeps {s0 s : State} {x2 x3 x4} (h : Keeps s0 s) :
    Keeps s0 (State.dkBit s x2 x3 x4) := by
  unfold State.dkBit
  exact State.putBit_keeps (by assumption)

theorem State.parkActuator_keeps {s0 s : State} {x2} (h : Keeps s0 s) :
    Keeps s0 (State.parkActuator s x2) := by
  unfold State.parkActuator
  extract_lets s1 s2 s3 s4 s5 n6
  have hs1 : Keeps s0 s1 := by
    unfold s1
    refine State.stopWrites'_keeps ?_
    exact State.sendMdrv_keeps (by assumption)
  clear_value s1
  have hs2 : Keeps s0 s2 := by
    unfold s2
    refine State.disableSlot_keeps ?_
    exact State.disableSlot_keeps (by assumption)
  clear_value s2
  have hs3 : Keeps s0 s3 := by
    unfold s3
    refine Keeps.foldl _ ?_ (fun s _ h => ?_)
    · assumption
    · refine State.wri_keeps ?_
      exact State.wri_keeps (by assumption)
  clear_value s3
  have hs4 : Keeps s0 s4 := by
    unfold s4
    exact State.wri_keeps (by assumption)
  clear_value s4
  have hs5 : Keeps s0 s5 := by
    unfold s5
    refine State.dkBit_keeps ?_
    refine State.dkBit_keeps ?_
    exact State.dkBit_keeps (by assumption)
  clear_value s5
  exact State.setAct_keeps (by assumption)

theorem State.stopSpindle_keeps {s0 s : State} (h : Keeps s0 s) :
    Keeps s0 (State.stopSpindle s) := by
  unfold State.stopSpindle
  extract_lets s1 s2 n3
  have hs1 : Keeps s0 s1 := by
    unfold s1
    refine State.disableSlot_keeps ?_
    refine State.parkActuator_keeps ?_
    exact State.parkActuator_keeps (by assumption)
  clear_value s1
  have hs2 : Keeps s0 s2 := by
    unfold s2
    refine State.wr_keeps ?_
    exact State.enableLane_keeps (by assumption)
  clear_value s2
  exact State.setCtl_keeps (by assumption)

theorem State.commitTarget_keeps {s0 s : State} {x2 x3} (h : Keeps s0 s) :
    Keeps s0 (State.commitTarget s x2 x3) := by
  unfold State.commitTarget
  extract_lets s1 n2
  have hs1 : Keeps s0 s1 := by
    unfold s1
    exact State.wri_keeps (by assumption)
  clear_value s1
  exact State.setSlotOf_keeps (by assumption)

theorem State.retract_keeps {s0 s : State} {x2} (h : Keeps s0 s) :
    Keeps s0 (State.retract s x2) := by
  unfold State.retract
  extract_lets s1 s2 n3
  have hs1 : Keeps s0 s1 := by
    unfold s1
    refine State.wr_keeps ?_
    exact State.parkActuator_keeps (by assumption)
  clear_value s1
  have hs2 : Keeps s0 s2 := by
    unfold s2
    refine State.raise_keeps ?_
    exact State.inc_keeps (by assumption)
  clear_value s2
  exact State.setAct_keeps (by assumption)

theorem State.failAttempt_keeps {s0 s : State} {x2} (h : Keeps s0 s) :
    Keeps s0 (State.failAttempt s x2) := by
  unfold State.failAttempt
  extract_lets n1 s2 n3 s4 s5 n6
  have hs2 : Keeps s0 s2 := by
    unfold s2
    refine State.retract_keeps ?_
    exact State.raise_keeps (by assumption)
  clear_value s2
  have hs4 : Keeps s0 s4 := by
    unfold s4
    exact State.setAct_keeps (by assumption)
  clear_value s4
  have hs5 : Keeps s0 s5 := by
    unfold s5
    exact State.headAcquire_keeps (by assumption)
  clear_value s5
  refine Keeps.ite ?_ ?_
  · assumption
  · refine State.failActuator_keeps ?_
    exact State.setAct_keeps (by assumption)

theorem State.countActions_keeps {s0 s : State} {x2 x3 x4} (h : Keeps s0 s) :
    Keeps s0 (State.countActions s x2 x3 x4) := by
  unfold State.countActions
  extract_lets n1 s2
  have hs2 : Keeps s0 s2 := by
    unfold s2
    refine State.raise_keeps ?_
    exact State.slotFlag_keeps (by assumption)
  clear_value s2
  refine Keeps.ite ?_ ?_
  · assumption
  · refine Keeps.ite ?_ ?_
    · assumption
    · refine Keeps.ite ?_ ?_
      · refine Keeps.ite ?_ ?_
        · exact State.disturb_keeps (by assumption)
        · assumption
      · refine Keeps.ite ?_ ?_
        · refine Keeps.ite ?_ ?_
          · exact State.failAttempt_keeps (by assumption)
          · exact State.retract_keeps (by assumption)
        · assumption

theorem State.countSample_keeps {s0 s : State} {x2 x3} (h : Keeps s0 s) :
    Keeps s0 (State.countSample s x2 x3) := by
  unfold State.countSample
  extract_lets n1 n2 s3 n4
  have hs3 : Keeps s0 s3 := by
    unfold s3
    refine Keeps.ite ?_ ?_
    · exact State.setSlotOf_keeps (by assumption)
    · assumption
  clear_value s3
  refine Keeps.ite ?_ ?_
  · refine State.wri_keeps ?_
    exact State.wri_keeps (by assumption)
  · refine State.wri_keeps ?_
    exact State.wri_keeps (by assumption)

theorem State.driveOut_keeps {s0 s : State} {x2 x3} (h : Keeps s0 s) :
    Keeps s0 (State.driveOut s x2 x3) := by
  unfold State.driveOut
  extract_lets n1 s2 s3
  have hs2 : Keeps s0 s2 := by
    unfold s2
    exact State.wri_keeps (by assumption)
  clear_value s2
  have hs3 : Keeps s0 s3 := by
    unfold s3
    exact State.reportDrive_keeps (by assumption)
  clear_value s3
  refine Keeps.ite ?_ ?_
  · assumption
  · exact State.sendMdrv_keeps (by assumption)

theorem State.seekFault_keeps {s0 s : State} {x2} (h : Keeps s0 s) :
    Keeps s0 (State.seekFault s x2) := by
  unfold State.seekFault
  extract_lets n1 n2 s3 n4 s5
  have hs3 : Keeps s0 s3 := by
    unfold s3
    exact State.setRampTarget_keeps (by assumption)
  clear_value s3
  have hs5 : Keeps s0 s5 := by
    unfold s5
    exact State.setAct_keeps (by assumption)
  clear_value s5
  refine Keeps.ite ?_ ?_
  · exact State.retract_keeps (by assumption)
  · refine Keeps.ite ?_ ?_
    · exact State.ask_keeps (by assumption)
    · assumption

theorem State.spindleFault_keeps {s0 s : State} {x2} (h : Keeps s0 s) :
    Keeps s0 (State.spindleFault s x2) := by
  unfold State.spindleFault
  extract_lets s1 n2 s3 s4
  have hs1 : Keeps s0 s1 := by
    unfold s1
    refine State.sendMdrv_keeps ?_
    refine State.parkActuator_keeps ?_
    exact State.parkActuator_keeps (by assumption)
  clear_value s1
  have hs3 : Keeps s0 s3 := by
    unfold s3
    refine State.setCtl_keeps ?_
    exact State.disableSlot_keeps (by assumption)
  clear_value s3
  have hs4 : Keeps s0 s4 := by
    unfold s4
    refine State.raise_keeps ?_
    refine State.wr_keeps ?_
    exact State.wr_keeps (by assumption)
  clear_value s4
  exact State.diskFaulted_keeps (by assumption)

theorem State.ferrFault_keeps {s0 s : State} {x2} (h : Keeps s0 s) :
    Keeps s0 (State.ferrFault s x2) := by
  unfold State.ferrFault
  extract_lets n1 s2 s3
  have hs2 : Keeps s0 s2 := by
    unfold s2
    exact State.setSlotOf_keeps (by assumption)
  clear_value s2
  have hs3 : Keeps s0 s3 := by
    unfold s3
    refine State.raise_keeps ?_
    exact State.slotFlag_keeps (by assumption)
  clear_value s3
  split
  · exact State.seekFault_keeps (by assumption)
  · exact State.spindleFault_keeps (by assumption)
  · refine Keeps.ite ?_ ?_
    · exact State.tapeReacquire_keeps (by assumption)
    · assumption
  · assumption

theorem State.ferrTime_keeps {s0 s : State} {x2 x3 x4} (h : Keeps s0 s) :
    Keeps s0 (State.ferrTime s x2 x3 x4) := by
  unfold State.ferrTime
  extract_lets n1 n2 s3
  have hs3 : Keeps s0 s3 := by
    unfold s3
    exact State.setSlotOf_keeps (by assumption)
  clear_value s3
  refine Keeps.ite ?_ ?_
  · assumption
  · refine Keeps.ite ?_ ?_
    · exact State.setSlotOf_keeps (by assumption)
    · refine Keeps.ite ?_ ?_
      · exact State.ferrFault_keeps (by assumption)
      · assumption

theorem State.setServoHead_keeps {s0 s : State} {x2 x3} (h : Keeps s0 s) :
    Keeps s0 (State.setServoHead s x2 x3) := by
  unfold State.setServoHead
  extract_lets s1
  have hs1 : Keeps s0 s1 := by
    unfold s1
    exact State.wr_keeps (by assumption)
  clear_value s1
  refine Keeps.ite ?_ ?_
  · assumption
  · refine Keeps.foldl _ ?_ (fun s _ h => ?_)
    · assumption
    · extract_lets n2
      exact State.setSlotOf_keeps (by assumption)

theorem State.startSeek_keeps {s0 s : State} {x2 x3} (h : Keeps s0 s) :
    Keeps s0 (State.startSeek s x2 x3) := by
  unfold State.startSeek
  split
  · assumption
  · extract_lets n1 n2 s3 s4 s5 s6 n7 s8 n9
    have hs3 : Keeps s0 s3 := by
      unfold s3
      exact State.setServoHead_keeps (by assumption)
    clear_value s3
    have hs4 : Keeps s0 s4 := by
      unfold s4
      exact State.wri_keeps (by assumption)
    clear_value s4
    have hs5 : Keeps s0 s5 := by
      unfold s5
      refine State.setRampTarget_keeps ?_
      exact State.setRampMode_keeps (by assumption)
    clear_value s5
    have hs6 : Keeps s0 s6 := by
      unfold s6
      refine State.dkBit_keeps ?_
      exact State.dkBit_keeps (by assumption)
    clear_value s6
    have hs8 : Keeps s0 s8 := by
      unfold s8
      exact State.setAct_keeps (by assumption)
    clear_value s8
    refine Keeps.upd ?_ rfl rfl rfl --UPD .pwr
    assumption

theorem State.laneFault_keeps {s0 s : State} {x2 x3} (h : Keeps s0 s) :
    Keeps s0 (State.laneFault s x2 x3) := by
  unfold State.laneFault
  extract_lets s1 s2 s3 n4
  have hs1 : Keeps s0 s1 := by
    unfold s1
    refine State.wr_keeps ?_
    exact State.raiseBit_keeps (by assumption)
  clear_value s1
  have hs2 : Keeps s0 s2 := by
    unfold s2
    exact State.raise_keeps (by assumption)
  clear_value s2
  have hs3 : Keeps s0 s3 := by
    unfold s3
    exact State.parkActuator_keeps (by assumption)
  clear_value s3
  refine Keeps.ite ?_ ?_
  · refine Keeps.ite ?_ ?_
    · exact State.tapeFault_keeps (by assumption)
    · assumption
  · refine Keeps.ite ?_ ?_
    · assumption
    · refine Keeps.ite ?_ ?_
      · refine State.failActuator_keeps ?_
        exact State.setAct_keeps (by assumption)
      · refine Keeps.ite ?_ ?_
        · exact State.spindleFault_keeps (by assumption)
        · assumption

theorem State.loadActuator_keeps {s0 s : State} {x2} (h : Keeps s0 s) :
    Keeps s0 (State.loadActuator s x2) := by
  unfold State.loadActuator
  extract_lets s1 s2 s3 s4 n5
  have hs1 : Keeps s0 s1 := by
    unfold s1
    refine State.enableLane_keeps ?_
    exact State.enableLane_keeps (by assumption)
  clear_value s1
  have hs2 : Keeps s0 s2 := by
    unfold s2
    refine State.enableSlot_keeps ?_
    exact State.enableSlot_keeps (by assumption)
  clear_value s2
  have hs3 : Keeps s0 s3 := by
    unfold s3
    exact State.setRampMode_keeps (by assumption)
  clear_value s3
  have hs4 : Keeps s0 s4 := by
    unfold s4
    exact State.dkBit_keeps (by assumption)
  clear_value s4
  exact State.setAct_keeps (by assumption)

theorem State.startSpindle_keeps {s0 s : State} (h : Keeps s0 s) :
    Keeps s0 (State.startSpindle s) := by
  unfold State.startSpindle
  extract_lets s1 n2 s3
  have hs1 : Keeps s0 s1 := by
    unfold s1
    refine State.enableSlot_keeps ?_
    exact State.enableLane_keeps (by assumption)
  clear_value s1
  have hs3 : Keeps s0 s3 := by
    unfold s3
    exact State.setCtl_keeps (by assumption)
  clear_value s3
  exact State.sendMdrv_keeps (by assumption)

theorem State.measureOffsets_keeps {s0 s : State} (h : Keeps s0 s) :
    Keeps s0 (State.measureOffsets s) := by
  unfold State.measureOffsets
  extract_lets n1 s2
  have hs2 : Keeps s0 s2 := by
    unfold s2
    refine Keeps.foldl _ ?_ (fun s _ h => ?_)
    · assumption
    · refine Keeps.foldl _ ?_ (fun s _ h => ?_)
      · assumption
      · exact State.fset_keeps (by assumption)
  clear_value s2
  exact State.tickFree_keeps (by assumption)

theorem State.writePermit_keeps {s0 s : State} {x2 x3} (h : Keeps s0 s) :
    Keeps s0 (State.writePermit s x2 x3) := by
  unfold State.writePermit
  extract_lets n1 n2 n3 n4 s5
  have hs5 : Keeps s0 s5 := by
    unfold s5
    exact State.dkBit_keeps (by assumption)
  clear_value s5
  refine Keeps.ite ?_ ?_
  · exact State.stopWrites'_keeps (by assumption)
  · assumption

theorem State.missedWedge_keeps {s0 s : State} {x2} (h : Keeps s0 s) :
    Keeps s0 (State.missedWedge s x2) := by
  unfold State.missedWedge
  extract_lets n1
  refine State.writePermit_keeps ?_
  exact State.setAct_keeps (by assumption)

theorem State.reloadDone_keeps {s0 s : State} {x2} (h : Keeps s0 s) :
    Keeps s0 (State.reloadDone s x2) := by
  unfold State.reloadDone
  extract_lets n1 s2
  have hs2 : Keeps s0 s2 := by
    unfold s2
    exact State.setAct_keeps (by assumption)
  clear_value s2
  refine Keeps.ite ?_ ?_
  · refine State.acquired_keeps ?_
    refine State.raise_keeps ?_
    exact State.headAcquire_keeps (by assumption)
  · assumption

theorem State.runLaw_keeps {s0 s : State} {x2 x3 x4 x5 x6 x7 x8} (h : Keeps s0 s) :
    Keeps s0 (State.runLaw s x2 x3 x4 x5 x6 x7 x8) := by
  unfold State.runLaw
  extract_lets n1 n2 n3 n4 n5 n6 n7 n8 n9 n10 n11 n12 n13 n14 s15 s16 s17
  have hs15 : Keeps s0 s15 := by
    unfold s15
    refine State.wri_keeps ?_
    exact State.setSlotOf_keeps (by assumption)
  clear_value s15
  have hs16 : Keeps s0 s16 := by
    unfold s16
    refine State.slotFlagIf_keeps ?_
    exact State.slotFlagIf_keeps (by assumption)
  clear_value s16
  have hs17 : Keeps s0 s17 := by
    unfold s17
    refine State.slotFlagIf_keeps ?_
    refine State.slotFlagIf_keeps ?_
    exact State.slotFlagIf_keeps (by assumption)
  clear_value s17
  refine State.traceSample_keeps ?_
  exact State.driveOut_keeps (by assumption)

theorem State.settleWedge_keeps {s0 s : State} {x2} (h : Keeps s0 s) :
    Keeps s0 (State.settleWedge s x2) := by
  unfold State.settleWedge
  extract_lets n1 n2
  refine Keeps.ite ?_ ?_
  · refine State.dkBit_keeps ?_
    exact State.setAct_keeps (by assumption)
  · assumption

theorem State.spindleSource_keeps {s0 s : State} {x2 x3} (h : Keeps s0 s) :
    Keeps s0 (State.spindleSource s x2 x3) := by
  unfold State.spindleSource
  extract_lets n1 n2 s3 n4 n5
  have hs3 : Keeps s0 s3 := by
    unfold s3
    exact State.setCtl_keeps (by assumption)
  clear_value s3
  refine Keeps.ite ?_ ?_
  · refine State.setSlotOf_keeps ?_
    exact State.setCtl_keeps (by assumption)
  · refine Keeps.ite ?_ ?_
    · exact State.sendMdrv_keeps (by assumption)
    · assumption

theorem State.takeRadius_keeps {s0 s : State} {x2} (h : Keeps s0 s) :
    Keeps s0 (State.takeRadius s x2) := by
  unfold State.takeRadius
  extract_lets n1 n2 n3
  refine Keeps.ite ?_ ?_
  · assumption
  · exact State.setMot_keeps (by assumption)

theorem State.takeSample_keeps {s0 s : State} {x2 x3 x4 x5 x6} (h : Keeps s0 s) :
    Keeps s0 (State.takeSample s x2 x3 x4 x5 x6) := by
  unfold State.takeSample
  extract_lets n1 n2 n3 n4 n5 s6 n7 s8 n9 s10 s11 s12
  have hs6 : Keeps s0 s6 := by
    unfold s6
    refine State.wri_keeps ?_
    exact State.wri_keeps (by assumption)
  clear_value s6
  have hs8 : Keeps s0 s8 := by
    unfold s8
    refine Keeps.ite ?_ ?_
    · exact State.countSample_keeps (by assumption)
    · assumption
  clear_value s8
  have hs10 : Keeps s0 s10 := by
    unfold s10
    exact State.setSlotOf_keeps (by assumption)
  clear_value s10
  have hs11 : Keeps s0 s11 := by
    unfold s11
    exact State.runLaw_keeps (by assumption)
  clear_value s11
  have hs12 : Keeps s0 s12 := by
    unfold s12
    refine Keeps.ite ?_ ?_
    · exact State.countActions_keeps (by assumption)
    · assumption
  clear_value s12
  refine Keeps.ite ?_ ?_
  · assumption
  · refine Keeps.ite ?_ ?_
    · refine State.raise_keeps ?_
      refine State.inc_keeps ?_
      exact State.slotFlag_keeps (by assumption)
    · refine Keeps.ite ?_ ?_
      · exact State.ferrTime_keeps (by assumption)
      · assumption

theorem State.wedgeSample_keeps {s0 s : State} {x2 x3 x4} (h : Keeps s0 s) :
    Keeps s0 (State.wedgeSample s x2 x3 x4) := by
  unfold State.wedgeSample
  split
  · assumption
  · extract_lets n1 s2 n3 s4
    have hs2 : Keeps s0 s2 := by
      unfold s2
      exact State.setAct_keeps (by assumption)
    clear_value s2
    have hs4 : Keeps s0 s4 := by
      unfold s4
      exact State.takeSample_keeps (by assumption)
    clear_value s4
    refine Keeps.ite ?_ ?_
    · assumption
    · refine Keeps.ite ?_ ?_
      · exact State.spindleSource_keeps (by assumption)
      · assumption

theorem execWedgeRecord_keeps {s0 s : State} {x1 x2 x3 x4 x5 x6 x7 x8 x9 x10 x11} (h : Keeps s0 s) :
    Keeps.Out s0 (execWedgeRecord x1 x2 x3 x4 x5 x6 x7 x8 x9 x10 x11 s) := by
  unfold execWedgeRecord
  split
  · refine Keeps.next ?_
    assumption
  · extract_lets n1 n2 n3 n4 s5 s6 s7 n8 n9 n10 s11
    have hs5 : Keeps s0 s5 := by
      unfold s5
      exact State.setLane_keeps (by assumption)
    clear_value s5
    have hs6 : Keeps s0 s6 := by
      unfold s6
      exact State.wri_keeps (by assumption)
    clear_value s6
    have hs7 : Keeps s0 s7 := by
      unfold s7
      refine Keeps.ite ?_ ?_
      · assumption
      · exact State.inci_keeps (by assumption)
    clear_value s7
    have hs11 : Keeps s0 s11 := by
      unfold s11
      refine State.settleWedge_keeps ?_
      refine State.reloadDone_keeps ?_
      exact State.setAct_keeps (by assumption)
    clear_value s11
    refine Keeps.iteOut ?_ ?_
    · refine Keeps.next ?_
      assumption
    · refine Keeps.next ?_
      exact State.writePermit_keeps (by assumption)

theorem execSlotSample_keeps {s0 s : State} {x1 x2 x3 x4} (h : Keeps s0 s) :
    Keeps.Out s0 (execSlotSample x1 x2 x3 x4 s) := by
  unfold execSlotSample
  extract_lets n1 n2 s3
  have hs3 : Keeps s0 s3 := by
    unfold s3
    refine State.sendMdrv_keeps ?_
    exact State.takeRadius_keeps (by assumption)
  clear_value s3
  refine Keeps.iteOut ?_ ?_
  · refine Keeps.next ?_
    assumption
  · split
    · refine Keeps.next ?_
      exact State.wedgeSample_keeps (by assumption)
    · refine Keeps.iteOut ?_ ?_
      · refine Keeps.next ?_
        exact State.assistSample_keeps (by assumption)
      · refine Keeps.iteOut ?_ ?_
        · refine Keeps.next ?_
          refine State.spindleSource_keeps ?_
          exact State.takeSample_keeps (by assumption)
        · refine Keeps.iteOut ?_ ?_
          · refine Keeps.next ?_
            exact State.takeSample_keeps (by assumption)
          · refine Keeps.iteOut ?_ ?_
            · refine Keeps.next ?_
              exact State.takeSample_keeps (by assumption)
            · refine Keeps.iteOut ?_ ?_
              · refine Keeps.next ?_
                exact State.takeSample_keeps (by assumption)
              · refine Keeps.next ?_
                exact State.takeSample_keeps (by assumption)

theorem execSampleTimeout_keeps {s0 s : State} {x1 x2} (h : Keeps s0 s) :
    Keeps.Out s0 (execSampleTimeout x1 x2 s) := by
  unfold execSampleTimeout
  extract_lets n1 n2 n3 n4 n5 s6 s7 s8 s9
  have hs6 : Keeps s0 s6 := by
    unfold s6
    refine State.inc_keeps ?_
    exact State.slotFlag_keeps (by assumption)
  clear_value s6
  have hs7 : Keeps s0 s7 := by
    unfold s7
    exact State.raise_keeps (by assumption)
  clear_value s7
  have hs8 : Keeps s0 s8 := by
    unfold s8
    exact State.takeSample_keeps (by assumption)
  clear_value s8
  have hs9 : Keeps s0 s9 := by
    unfold s9
    refine Keeps.ite ?_ ?_
    · exact State.missedWedge_keeps (by assumption)
    · assumption
  clear_value s9
  refine Keeps.iteOut ?_ ?_
  · refine Keeps.next ?_
    refine Keeps.ite ?_ ?_
    · exact State.spindleSource_keeps (by assumption)
    · assumption
  · refine Keeps.next ?_
    assumption

theorem execRampTargetCommit_keeps {s0 s : State} {x1 x2 x3} (h : Keeps s0 s) :
    Keeps.Out s0 (execRampTargetCommit x1 x2 x3 s) := by
  unfold execRampTargetCommit
  extract_lets n1
  refine Keeps.next ?_
  refine Keeps.ite ?_ ?_
  · exact State.commitTarget_keeps (by assumption)
  · assumption

theorem execFollowingErrorTimeout_keeps {s0 s : State} {x1} (h : Keeps s0 s) :
    Keeps.Out s0 (execFollowingErrorTimeout x1 s) := by
  unfold execFollowingErrorTimeout
  extract_lets n1
  refine Keeps.next ?_
  refine Keeps.ite ?_ ?_
  · exact State.ferrFault_keeps (by assumption)
  · assumption

theorem execLoopLossAction_keeps {s0 s : State} {x1 x2} (h : Keeps s0 s) :
    Keeps.Out s0 (execLoopLossAction x1 x2 s) := by
  unfold execLoopLossAction
  extract_lets n1 n2 f3
  have hf3 : ∀ a1, Keeps s0 a1 → Keeps s0 (f3 a1) := by
    intro a1 h
    unfold f3
    refine Keeps.ite ?_ ?_
    · exact State.missedWedge_keeps (by assumption)
    · assumption
  refine Keeps.next ?_
  refine Keeps.ite ?_ ?_
  · refine hf3 _ ?_
    exact State.takeSample_keeps (by assumption)
  · assumption

theorem execRetractAction_keeps {s0 s : State} {x1 x2} (h : Keeps s0 s) :
    Keeps.Out s0 (execRetractAction x1 x2 s) := by
  unfold execRetractAction
  extract_lets n1
  refine Keeps.next ?_
  refine Keeps.ite ?_ ?_
  · exact State.takeSample_keeps (by assumption)
  · assumption

theorem execReloadAttempt_keeps {s0 s : State} {x1} (h : Keeps s0 s) :
    Keeps.Out s0 (execReloadAttempt x1 s) := by
  unfold execReloadAttempt
  extract_lets n1 n2 s3 n4
  have hs3 : Keeps s0 s3 := by
    unfold s3
    exact State.loadActuator_keeps (by assumption)
  clear_value s3
  refine Keeps.iteOut ?_ ?_
  · refine Keeps.next ?_
    exact State.setAct_keeps (by assumption)
  · refine Keeps.next ?_
    assumption

theorem execReloadWindowExpiry_keeps {s0 s : State} {x1} (h : Keeps s0 s) :
    Keeps.Out s0 (execReloadWindowExpiry x1 s) := by
  unfold execReloadWindowExpiry
  extract_lets n1 n2
  refine Keeps.iteOut ?_ ?_
  · refine Keeps.next ?_
    assumption
  · refine Keeps.iteOut ?_ ?_
    · refine Keeps.next ?_
      exact State.reloadDone_keeps (by assumption)
    · refine Keeps.next ?_
      exact State.failAttempt_keeps (by assumption)

theorem execSeekStart_keeps {s0 s : State} {x1 x2 x3 x4} (h : Keeps s0 s) :
    Keeps.Out s0 (execSeekStart x1 x2 x3 x4 s) := by
  unfold execSeekStart
  extract_lets n1 n2 n3
  refine Keeps.iteOut ?_ ?_
  · refine Keeps.next ?_
    refine State.ask_keeps ?_
    exact State.setAct_keeps (by assumption)
  · refine Keeps.next ?_
    assumption

theorem execSpindleAtSpeed_keeps {s0 s : State} {x1 x2} (h : Keeps s0 s) :
    Keeps.Out s0 (execSpindleAtSpeed x1 x2 s) := by
  unfold execSpindleAtSpeed
  extract_lets n1 s2 s3
  have hs2 : Keeps s0 s2 := by
    unfold s2
    refine State.wr_keeps ?_
    exact State.setCtl_keeps (by assumption)
  clear_value s2
  have hs3 : Keeps s0 s3 := by
    unfold s3
    refine Keeps.foldl _ ?_ (fun s _ h => ?_)
    · assumption
    · split
      · assumption
      · refine Keeps.ite ?_ ?_
        · exact State.setServoHead_keeps (by assumption)
        · refine State.loadActuator_keeps ?_
          exact State.setServoHead_keeps (by assumption)
  clear_value s3
  refine Keeps.iteOut ?_ ?_
  · refine Keeps.next ?_
    refine Keeps.ite ?_ ?_
    · refine State.diskLoad_keeps ?_
      exact State.measureOffsets_keeps (by assumption)
    · assumption
  · refine Keeps.next ?_
    assumption

theorem execSpindleFault_keeps {s0 s : State} {x1} (h : Keeps s0 s) :
    Keeps.Out s0 (execSpindleFault x1 s) := by
  unfold execSpindleFault
  extract_lets n1 n2
  refine Keeps.next ?_
  refine Keeps.ite ?_ ?_
  · exact State.spindleFault_keeps (by assumption)
  · assumption

theorem execMdrvFaultFall_keeps {s0 s : State} (h : Keeps s0 s) :
    Keeps.Out s0 (execMdrvFaultFall s) := by
  unfold execMdrvFaultFall
  extract_lets s1
  have hs1 : Keeps s0 s1 := by
    unfold s1
    exact State.wr_keeps (by assumption)
  clear_value s1
  refine Keeps.next ?_
  refine Keeps.foldl _ ?_ (fun s _ h => ?_)
  · assumption
  · refine Keeps.ite ?_ ?_
    · exact State.sendMdrv_keeps (by assumption)
    · assumption

theorem execMdrvResponse_keeps {s0 s : State} {x1 x2} (h : Keeps s0 s) :
    Keeps.Out s0 (execMdrvResponse x1 x2 s) := by
  unfold execMdrvResponse
  extract_lets n1 n2 n3 n4 n5 s6
  have hs6 : Keeps s0 s6 := by
    unfold s6
    exact State.setCtl_keeps (by assumption)
  clear_value s6
  refine Keeps.iteOut ?_ ?_
  · refine Keeps.next ?_
    assumption
  · refine Keeps.iteOut ?_ ?_
    · refine Keeps.next ?_
      exact State.inc_keeps (by assumption)
    · refine Keeps.iteOut ?_ ?_
      · split
        · extract_lets n7
          refine Keeps.next ?_
          exact State.setSlotOf_keeps (by assumption)
        · refine Keeps.next ?_
          assumption
      · refine Keeps.iteOut ?_ ?_
        · refine Keeps.next ?_
          exact State.setCtl_keeps (by assumption)
        · refine Keeps.iteOut ?_ ?_
          · refine Keeps.next ?_
            refine Keeps.ite ?_ ?_
            · exact State.laneFault_keeps (by assumption)
            · assumption
          · refine Keeps.next ?_
            assumption

theorem execMdrvFaultRelease_keeps {s0 s : State} (h : Keeps s0 s) :
    Keeps.Out s0 (execMdrvFaultRelease s) := by
  unfold execMdrvFaultRelease
  refine Keeps.next ?_
  exact State.wr_keeps (by assumption)

end Sys2Proof.Machine
end

