-- ==== Sys2Proof/Laws/KeepsSupply.lean ====
section
/-!
SUPPORT. What every operation of Machine/Supply.lean keeps (Laws/Keeps.lean).
-/

set_option Elab.async false

namespace Sys2Proof.Machine

theorem State.abandonNor_keeps {s0 s : State} (h : Keeps s0 s) :
    Keeps s0 (State.abandonNor s) := by
  unfold State.abandonNor
  extract_lets n1
  refine Keeps.ite ?_ ?_
  · refine State.emit_keeps ?_
    refine Keeps.upd ?_ rfl rfl rfl --UPD .boot
    assumption
  · assumption

theorem State.setPwr_keeps {s0 s : State} {x2} (h : Keeps s0 s) :
    Keeps s0 (State.setPwr s x2) := by
  unfold State.setPwr
  refine Keeps.upd ?_ rfl rfl rfl --UPD .pwr
  assumption

theorem State.addHalved_keeps {s0 s : State} {x2} (h : Keeps s0 s) :
    Keeps s0 (State.addHalved s x2) := by
  unfold State.addHalved
  extract_lets s1 n2 n3
  have hs1 : Keeps s0 s1 := by
    unfold s1
    exact State.addi_keeps (by assumption)
  clear_value s1
  exact State.setPwr_keeps (by assumption)

theorem State.braceTape_keeps {s0 s : State} (h : Keeps s0 s) :
    Keeps s0 (State.braceTape s) := by
  unfold State.braceTape
  extract_lets s1 s2 n3
  have hs1 : Keeps s0 s1 := by
    unfold s1
    exact State.tapeRamp_keeps (by assumption)
  clear_value s1
  have hs2 : Keeps s0 s2 := by
    unfold s2
    refine Keeps.foldl _ ?_ (fun s _ h => ?_)
    · assumption
    · exact State.wri_keeps (by assumption)
  clear_value s2
  refine Keeps.ite ?_ ?_
  · assumption
  · refine Keeps.ite ?_ ?_
    · refine State.wr_keeps ?_
      refine State.sendMdrv_keeps ?_
      exact State.sendMdrv_keeps (by assumption)
    · refine State.syncLevel_keeps ?_
      exact State.setMot_keeps (by assumption)

theorem State.stopMediaWrites_keeps {s0 s : State} (h : Keeps s0 s) :
    Keeps s0 (State.stopMediaWrites s) := by
  unfold State.stopMediaWrites
  extract_lets s1
  have hs1 : Keeps s0 s1 := by
    unfold s1
    refine Keeps.foldl _ ?_ (fun s _ h => ?_)
    · assumption
    · extract_lets n2
      refine Keeps.ite ?_ ?_
      · exact State.setActWra_keeps (by assumption)
      · exact State.stopWrites'_keeps (by assumption)
  clear_value s1
  refine Keeps.ite ?_ ?_
  · exact State.haltWriting_keeps (by assumption)
  · assumption

theorem State.beginBrace_keeps {s0 s : State} (h : Keeps s0 s) :
    Keeps s0 (State.beginBrace s) := by
  unfold State.beginBrace
  extract_lets s1 s2 s3 s4 n5
  have hs1 : Keeps s0 s1 := by
    unfold s1
    refine State.wr_keeps ?_
    refine State.wr_keeps ?_
    exact State.wr_keeps (by assumption)
  clear_value s1
  have hs2 : Keeps s0 s2 := by
    unfold s2
    exact State.raise_keeps (by assumption)
  clear_value s2
  have hs3 : Keeps s0 s3 := by
    unfold s3
    exact State.wr_keeps (by assumption)
  clear_value s3
  have hs4 : Keeps s0 s4 := by
    unfold s4
    refine State.braceTape_keeps ?_
    refine State.abandonNor_keeps ?_
    exact State.stopMediaWrites_keeps (by assumption)
  clear_value s4
  exact State.setPwr_keeps (by assumption)

theorem State.braceRetract_keeps {s0 s : State} (h : Keeps s0 s) :
    Keeps s0 (State.braceRetract s) := by
  unfold State.braceRetract
  extract_lets n1 s2 n3
  have hs2 : Keeps s0 s2 := by
    unfold s2
    exact State.stopSpindle_keeps (by assumption)
  clear_value s2
  exact State.setPwr_keeps (by assumption)

theorem State.braceTapeDone_keeps {s0 s : State} (h : Keeps s0 s) :
    Keeps s0 (State.braceTapeDone s) := by
  unfold State.braceTapeDone
  refine Keeps.ite ?_ ?_
  · refine State.wr_keeps ?_
    refine State.sendMdrv_keeps ?_
    exact State.sendMdrv_keeps (by assumption)
  · assumption

theorem State.endAbandoned_keeps {s0 s : State} (h : Keeps s0 s) :
    Keeps s0 (State.endAbandoned s) := by
  unfold State.endAbandoned
  extract_lets n1 s2
  have hs2 : Keeps s0 s2 := by
    unfold s2
    refine Keeps.upd ?_ rfl rfl rfl --UPD .boot
    assumption
  clear_value s2
  refine Keeps.ite ?_ ?_
  · refine Keeps.foldl _ ?_ (fun s _ h => ?_)
    · assumption
    · exact State.fail_keeps (by assumption)
  · assumption

theorem execDroopTrip_keeps {s0 s : State} (h : Keeps s0 s) :
    Keeps.Out s0 (execDroopTrip s) := by
  unfold execDroopTrip
  extract_lets s1 n2
  have hs1 : Keeps s0 s1 := by
    unfold s1
    refine State.inc_keeps ?_
    refine State.wr_keeps ?_
    exact State.wr_keeps (by assumption)
  clear_value s1
  refine Keeps.iteOut ?_ ?_
  · refine Keeps.next ?_
    assumption
  · refine Keeps.next ?_
    exact State.setPwr_keeps (by assumption)

theorem execDroopRestore_keeps {s0 s : State} {x1} (h : Keeps s0 s) :
    Keeps.Out s0 (execDroopRestore x1 s) := by
  unfold execDroopRestore
  refine Keeps.iteOut ?_ ?_
  · refine Keeps.next ?_
    refine State.wr_keeps ?_
    exact State.addHalved_keeps (by assumption)
  · refine Keeps.next ?_
    assumption

theorem execSlowingWindowEnd_keeps {s0 s : State} (h : Keeps s0 s) :
    Keeps.Out s0 (execSlowingWindowEnd s) := by
  unfold execSlowingWindowEnd
  extract_lets n1 n2 n3 s4
  have hs4 : Keeps s0 s4 := by
    unfold s4
    exact State.setPwr_keeps (by assumption)
  clear_value s4
  refine Keeps.next ?_
  refine Keeps.ite ?_ ?_
  · assumption
  · exact State.raise_keeps (by assumption)

theorem execSagWarnCrossing_keeps {s0 s : State} {x1} (h : Keeps s0 s) :
    Keeps.Out s0 (execSagWarnCrossing x1 s) := by
  unfold execSagWarnCrossing
  extract_lets n1 s2
  have hs2 : Keeps s0 s2 := by
    unfold s2
    refine State.setPwr_keeps ?_
    exact State.wr_keeps (by assumption)
  clear_value s2
  refine Keeps.next ?_
  refine Keeps.ite ?_ ?_
  · exact State.beginBrace_keeps (by assumption)
  · assumption

theorem execSagWarnClear_keeps {s0 s : State} (h : Keeps s0 s) :
    Keeps.Out s0 (execSagWarnClear s) := by
  unfold execSagWarnClear
  refine Keeps.next ?_
  exact State.wr_keeps (by assumption)

theorem execBraceRetractTimer_keeps {s0 s : State} (h : Keeps s0 s) :
    Keeps.Out s0 (execBraceRetractTimer s) := by
  unfold execBraceRetractTimer
  refine Keeps.next ?_
  refine Keeps.ite ?_ ?_
  · exact State.braceRetract_keeps (by assumption)
  · assumption

theorem execBraceDone_keeps {s0 s : State} (h : Keeps s0 s) :
    Keeps.Out s0 (execBraceDone s) := by
  unfold execBraceDone
  extract_lets n1 s2 n3 s4
  have hs2 : Keeps s0 s2 := by
    unfold s2
    exact State.braceTapeDone_keeps (by assumption)
  clear_value s2
  have hs4 : Keeps s0 s4 := by
    unfold s4
    refine State.wr_keeps ?_
    exact State.setPwr_keeps (by assumption)
  clear_value s4
  refine Keeps.iteOut ?_ ?_
  · refine Keeps.next ?_
    exact State.raise_keeps (by assumption)
  · refine Keeps.next ?_
    assumption

theorem execBraceRecover_keeps {s0 s : State} (h : Keeps s0 s) :
    Keeps.Out s0 (execBraceRecover s) := by
  unfold execBraceRecover
  extract_lets n1 s2 s3 s4 s5 s6 n7 s8 n9 s10
  have hs2 : Keeps s0 s2 := by
    unfold s2
    exact State.setPwr_keeps (by assumption)
  clear_value s2
  have hs3 : Keeps s0 s3 := by
    unfold s3
    refine State.wr_keeps ?_
    exact State.wr_keeps (by assumption)
  clear_value s3
  have hs4 : Keeps s0 s4 := by
    unfold s4
    exact State.wr_keeps (by assumption)
  clear_value s4
  have hs5 : Keeps s0 s5 := by
    unfold s5
    exact State.endAbandoned_keeps (by assumption)
  clear_value s5
  have hs6 : Keeps s0 s6 := by
    unfold s6
    refine Keeps.foldl _ ?_ (fun s _ h => ?_)
    · assumption
    · extract_lets n11
      refine Keeps.ite ?_ ?_
      · assumption
      · exact State.setAct_keeps (by assumption)
  clear_value s6
  have hs8 : Keeps s0 s8 := by
    unfold s8
    refine Keeps.ite ?_ ?_
    · refine State.startSpindle_keeps ?_
      exact State.setPwr_keeps (by assumption)
    · assumption
  clear_value s8
  have hs10 : Keeps s0 s10 := by
    unfold s10
    refine Keeps.ite ?_ ?_
    · exact State.ask_keeps (by assumption)
    · refine Keeps.ite ?_ ?_
      · exact State.setMot_keeps (by assumption)
      · assumption
  clear_value s10
  refine Keeps.iteOut ?_ ?_
  · refine Keeps.next ?_
    exact State.raise_keeps (by assumption)
  · refine Keeps.next ?_
    assumption

end Sys2Proof.Machine
end

