-- ==== Sys2Proof/Laws/KeepsReset.lean ====
section
/-!
SUPPORT. What every operation of Machine/Reset.lean keeps (Laws/Keeps.lean).
-/

set_option Elab.async false

namespace Sys2Proof.Machine

theorem State.clearCfgSpace_keeps {s0 s : State} {x2} (h : Keeps s0 s) :
    Keeps s0 (State.clearCfgSpace s x2) := by
  unfold State.clearCfgSpace
  extract_lets n1 n2
  refine Keeps.upd ?_ rfl rfl rfl --UPD .host
  assumption

theorem State.dropUncommitted_keeps {s0 s : State} (h : Keeps s0 s) :
    Keeps s0 (State.dropUncommitted s) := by
  unfold State.dropUncommitted
  extract_lets n1 n2 n3 n4
  refine Keeps.upd ?_ rfl rfl rfl --UPD .obj, .disk
  assumption

theorem State.resetCause_keeps {s0 s : State} {x2} (h : Keeps s0 s) :
    Keeps s0 (State.resetCause s x2) := by
  unfold State.resetCause
  extract_lets n1 n2 n3 s4
  have hs4 : Keeps s0 s4 := by
    unfold s4
    refine Keeps.upd ?_ rfl rfl rfl --UPD .boot
    assumption
  clear_value s4
  refine State.wr_keeps ?_
  exact State.wr_keeps (by assumption)

theorem State.warmLosses_keeps {s0 s : State} (h : Keeps s0 s) : Keeps s0 (State.warmLosses s) := by
  have h := State.dropUncommitted_keeps h
  refine ⟨h.queue, h.out, h.fuses, fun hs => ?_⟩
  obtain ⟨_, _, c, d, e⟩ := h.inv hs
  exact ⟨⟨List.Pairwise.nil, fun _ h => nomatch h⟩, ⟨Nat.zero_le 4096, Nat.le_refl 1, (by decide : 1 ≤ 0xFFFFFFFF)⟩, c, d, e⟩

theorem State.resetWarm_keeps {s0 s : State} (h : Keeps s0 s) : Keeps s0 (State.resetWarm s) := by
  have h := State.warmLosses_keeps h
  refine ⟨h.queue, h.out, h.fuses, fun hs => ?_⟩
  obtain ⟨u, a, c, d, e⟩ := h.inv hs
  exact ⟨u, a, fun dom p hp => (by cases dom; exacts [c .aon p hp, c .por p hp, (nomatch hp)]), d, e⟩

theorem State.resetPor_keeps {s0 s : State} (h : Keeps s0 s) : Keeps s0 (State.resetPor s) := by
  have h : Keeps s0 ([1, 10, 11].foldl (fun s n => s.wri F.THM_TEMP_VALID n 0) s.resetWarm) :=
    Keeps.foldl _ (State.resetWarm_keeps h) fun _ _ h => State.wri_keeps h
  have h := State.wr_keeps (x2 := F.CLK_STATUS_EPL_LOCK) (x3 := 0) (State.wr_keeps (x2 := F.CLK_STATUS_PCIE_LOCK)
    (x3 := 0) (State.wr_keeps (x2 := F.CLK_STATUS_ROOT_LOCK) (x3 := 0) h))
  refine ⟨h.queue, h.out, h.fuses, fun hs => ?_⟩
  obtain ⟨u, a, c, d, e⟩ := h.inv hs
  exact ⟨u, a, fun dom p hp => (by cases dom; exacts [c .aon p hp, (nomatch hp), c .warm p hp]),
    ⟨rfl, rfl, d.2.2⟩, e⟩

theorem State.resetAon_keeps {s0 s : State} (h : Keeps s0 s) : Keeps s0 (State.resetAon s) := by
  have h := State.resetPor_keeps h
  refine ⟨h.queue, h.out, h.fuses, fun hs => ?_⟩
  obtain ⟨u, a, c, d, e⟩ := h.inv hs
  exact ⟨u, a, fun dom p hp => (by cases dom; exacts [(nomatch hp), c .por p hp, c .warm p hp]), d, e⟩

theorem execAlwaysOnSupplyUp_keeps {s0 s : State} (h : Keeps s0 s) :
    Keeps.Out s0 (execAlwaysOnSupplyUp s) := by
  unfold execAlwaysOnSupplyUp
  extract_lets s1 n2 s3
  have hs1 : Keeps s0 s1 := by
    unfold s1
    exact State.resetAon_keeps (by assumption)
  clear_value s1
  have hs3 : Keeps s0 s3 := by
    unfold s3
    refine Keeps.upd ?_ rfl rfl rfl --UPD .boot
    assumption
  clear_value s3
  refine Keeps.next ?_
  exact State.resetCause_keeps (by assumption)

theorem execPowerOnReset_keeps {s0 s : State} (h : Keeps s0 s) :
    Keeps.Out s0 (execPowerOnReset s) := by
  unfold execPowerOnReset
  refine Keeps.next ?_
  refine State.resetCause_keeps ?_
  exact State.resetPor_keeps (by assumption)

theorem execPerstNAsserted_keeps {s0 s : State} (h : Keeps s0 s) :
    Keeps.Out s0 (execPerstNAsserted s) := by
  unfold execPerstNAsserted
  extract_lets s1 s2 n3 s4 s5 s6
  have hs1 : Keeps s0 s1 := by
    unfold s1
    exact State.resetWarm_keeps (by assumption)
  clear_value s1
  have hs2 : Keeps s0 s2 := by
    unfold s2
    refine State.clearCfgSpace_keeps ?_
    exact State.clearCfgSpace_keeps (by assumption)
  clear_value s2
  have hs4 : Keeps s0 s4 := by
    unfold s4
    refine Keeps.upd ?_ rfl rfl rfl --UPD .host
    assumption
  clear_value s4
  have hs5 : Keeps s0 s5 := by
    unfold s5
    refine State.wr_keeps ?_
    exact State.wr_keeps (by assumption)
  clear_value s5
  have hs6 : Keeps s0 s6 := by
    unfold s6
    refine State.wr_keeps ?_
    exact State.wr_keeps (by assumption)
  clear_value s6
  refine Keeps.next ?_
  exact State.resetCause_keeps (by assumption)

theorem execWatchdogExpiry_keeps {s0 s : State} (h : Keeps s0 s) :
    Keeps.Out s0 (execWatchdogExpiry s) := by
  unfold execWatchdogExpiry
  refine Keeps.iteOut ?_ ?_
  · refine Keeps.next ?_
    refine State.resetCause_keeps ?_
    exact State.resetWarm_keeps (by assumption)
  · refine Keeps.next ?_
    assumption

theorem execWdtKick_keeps {s0 s : State} {x1 x2} (h : Keeps s0 s) :
    Keeps.Out s0 (execWdtKick x1 x2 s) := by
  unfold execWdtKick
  extract_lets n1
  refine Keeps.iteOut ?_ ?_
  · refine Keeps.next ?_
    refine Keeps.upd ?_ rfl rfl rfl --UPD .boot
    assumption
  · refine Keeps.next ?_
    assumption

theorem execSagResetCrossing_keeps {s0 s : State} {x1} (h : Keeps s0 s) :
    Keeps.Out s0 (execSagResetCrossing x1 s) := by
  unfold execSagResetCrossing
  extract_lets s1 n2
  have hs1 : Keeps s0 s1 := by
    unfold s1
    exact State.resetPor_keeps (by assumption)
  clear_value s1
  refine Keeps.next ?_
  refine State.resetCause_keeps ?_
  refine Keeps.upd ?_ rfl rfl rfl --UPD .pwr
  assumption

theorem execPerstNDeasserted_keeps {s0 s : State} (h : Keeps s0 s) :
    Keeps.Out s0 (execPerstNDeasserted s) := by
  unfold execPerstNDeasserted
  extract_lets n1
  refine Keeps.next ?_
  refine Keeps.upd ?_ rfl rfl rfl --UPD .host
  assumption

end Sys2Proof.Machine
end

