-- ==== Sys2Proof/Laws/KeepsThermal.lean ====
section
/-!
SUPPORT. What every operation of Machine/Thermal.lean keeps (Laws/Keeps.lean).
-/

set_option Elab.async false

namespace Sys2Proof.Machine

theorem State.enforce_keeps {s0 s : State} (h : Keeps s0 s) :
    Keeps s0 (State.enforce s) := by
  unfold State.enforce
  extract_lets n1 s2 n3 s4
  have hs2 : Keeps s0 s2 := by
    unfold s2
    refine State.wr_keeps ?_
    refine State.wr_keeps ?_
    exact State.wr_keeps (by assumption)
  clear_value s2
  have hs4 : Keeps s0 s4 := by
    unfold s4
    refine Keeps.upd ?_ rfl rfl rfl --UPD .sq
    assumption
  clear_value s4
  exact State.raise_keeps (by assumption)

theorem State.raiseUnits_keeps {s0 s : State} (h : Keeps s0 s) :
    Keeps s0 (State.raiseUnits s) := by
  unfold State.raiseUnits
  refine Keeps.ite ?_ ?_
  · exact State.wr_keeps (by assumption)
  · assumption

theorem State.syncCauses_keeps {s0 s : State} (h : Keeps s0 s) :
    Keeps s0 (State.syncCauses s) := by
  unfold State.syncCauses
  extract_lets n1 n2 s3 n4 n5 n6 s7 n8 s9 s10
  have hs3 : Keeps s0 s3 := by
    unfold s3
    exact State.wr_keeps (by assumption)
  clear_value s3
  have hs7 : Keeps s0 s7 := by
    unfold s7
    exact State.raise_keeps (by assumption)
  clear_value s7
  have hs9 : Keeps s0 s9 := by
    unfold s9
    refine Keeps.ite ?_ ?_
    · exact State.setPwr_keeps (by assumption)
    · assumption
  clear_value s9
  have hs10 : Keeps s0 s10 := by
    unfold s10
    exact State.unask_keeps (by assumption)
  clear_value s10
  refine Keeps.ite ?_ ?_
  · assumption
  · refine Keeps.ite ?_ ?_
    · refine Keeps.ite ?_ ?_
      · exact State.enforce_keeps (by assumption)
      · refine State.wr_keeps ?_
        exact State.wr_keeps (by assumption)
    · refine Keeps.ite ?_ ?_
      · refine State.raise_keeps ?_
        refine State.wr_keeps ?_
        exact State.wr_keeps (by assumption)
      · assumption

theorem State.sensorFault_keeps {s0 s : State} {x2 x3} (h : Keeps s0 s) :
    Keeps s0 (State.sensorFault s x2 x3) := by
  unfold State.sensorFault
  extract_lets s1
  have hs1 : Keeps s0 s1 := by
    unfold s1
    exact State.wri_keeps (by assumption)
  clear_value s1
  refine Keeps.ite ?_ ?_
  · assumption
  · refine State.syncCauses_keeps ?_
    refine State.raise_keeps ?_
    refine State.wr_keeps ?_
    exact State.wri_keeps (by assumption)

theorem State.setSensor_keeps {s0 s : State} {x2 x3} (h : Keeps s0 s) :
    Keeps s0 (State.setSensor s x2 x3) := by
  unfold State.setSensor
  extract_lets n1
  exact State.setPwr_keeps (by assumption)

theorem State.setEntered_keeps {s0 s : State} {x2 x3} (h : Keeps s0 s) :
    Keeps s0 (State.setEntered s x2 x3) := by
  unfold State.setEntered
  extract_lets n1
  refine State.wri_keeps ?_
  exact State.setSensor_keeps (by assumption)

theorem State.takeReading_keeps {s0 s : State} {x2 x3} (h : Keeps s0 s) :
    Keeps s0 (State.takeReading s x2 x3) := by
  unfold State.takeReading
  extract_lets n1 s2 s3 n4
  have hs2 : Keeps s0 s2 := by
    unfold s2
    refine Keeps.ite ?_ ?_
    · refine Keeps.upd ?_ rfl rfl rfl --UPD .mem
      assumption
    · assumption
  clear_value s2
  have hs3 : Keeps s0 s3 := by
    unfold s3
    refine State.wri_keeps ?_
    exact State.wri_keeps (by assumption)
  clear_value s3
  exact State.setSensor_keeps (by assumption)

theorem State.thermalShutdown_keeps {s0 s : State} {x2} (h : Keeps s0 s) :
    Keeps s0 (State.thermalShutdown s x2) := by
  unfold State.thermalShutdown
  extract_lets n1 n2 s3 s4 s5 n6 s7
  have hs3 : Keeps s0 s3 := by
    unfold s3
    refine Keeps.ite ?_ ?_
    · exact State.interruptSet_keeps (by assumption)
    · assumption
  clear_value s3
  have hs4 : Keeps s0 s4 := by
    unfold s4
    refine State.braceTapeDone_keeps ?_
    refine State.braceTape_keeps ?_
    refine State.abandonNor_keeps ?_
    exact State.stopMediaWrites_keeps (by assumption)
  clear_value s4
  have hs5 : Keeps s0 s5 := by
    unfold s5
    refine Keeps.ite ?_ ?_
    · exact State.braceRetract_keeps (by assumption)
    · assumption
  clear_value s5
  have hs7 : Keeps s0 s7 := by
    unfold s7
    exact State.setPwr_keeps (by assumption)
  clear_value s7
  refine State.resetCause_keeps ?_
  exact State.resetPor_keeps (by assumption)

theorem execSensorConversion_keeps {s0 s : State} {x1 x2} (h : Keeps s0 s) :
    Keeps.Out s0 (execSensorConversion x1 x2 s) := by
  unfold execSensorConversion
  extract_lets n1 n2 n3 n4 s5
  have hs5 : Keeps s0 s5 := by
    unfold s5
    exact State.setSensor_keeps (by assumption)
  clear_value s5
  refine Keeps.iteOut ?_ ?_
  · refine Keeps.next ?_
    assumption
  · split
    · refine Keeps.next ?_
      refine Keeps.ite ?_ ?_
      · exact State.sensorFault_keeps (by assumption)
      · assumption
    · refine Keeps.next ?_
      exact State.sensorFault_keeps (by assumption)
    · refine Keeps.iteOut ?_ ?_
      · refine Keeps.next ?_
        exact State.sensorFault_keeps (by assumption)
      · refine Keeps.next ?_
        refine State.syncCauses_keeps ?_
        exact State.takeReading_keeps (by assumption)

theorem execThresholdDwellExpiry_keeps {s0 s : State} {x1 x2} (h : Keeps s0 s) :
    Keeps.Out s0 (execThresholdDwellExpiry x1 x2 s) := by
  unfold execThresholdDwellExpiry
  extract_lets n k v x w m r s1 s2
  clear_value k
  refine Keeps.iteOut (Keeps.next h) (Keeps.iteOut ?_ (Keeps.iteOut ?_ (Keeps.next h)))
  · have h1 : Keeps s0 s1 := State.setEntered_keeps h
    clear_value s1
    split
    · exact Keeps.next (State.raise_keeps (State.wr_keeps h1))
    · exact Keeps.next (State.syncCauses_keeps (State.raise_keeps (State.wr_keeps h1)))
    · exact Keeps.iteOut (Keeps.next (State.syncCauses_keeps h1))
        (Keeps.next (State.thermalShutdown_keeps (State.raise_keeps h1)))
  · have h1 : Keeps s0 s2 := State.setEntered_keeps h
    clear_value s2
    split
    · exact Keeps.next (State.raise_keeps h1)
    · exact Keeps.next (State.syncCauses_keeps (State.raise_keeps h1))
    · exact Keeps.next (State.syncCauses_keeps h1)

theorem execRiseDwellExpiry_keeps {s0 s : State} {x1} (h : Keeps s0 s) :
    Keeps.Out s0 (execRiseDwellExpiry x1 s) := by
  unfold execRiseDwellExpiry
  extract_lets n1 n2 n3 n4
  refine Keeps.iteOut ?_ ?_
  · refine Keeps.next ?_
    assumption
  · refine Keeps.iteOut ?_ ?_
    · refine Keeps.next ?_
      refine State.syncCauses_keeps ?_
      refine State.raise_keeps ?_
      refine State.wr_keeps ?_
      exact State.wri_keeps (by assumption)
    · refine Keeps.iteOut ?_ ?_
      · refine Keeps.next ?_
        refine State.syncCauses_keeps ?_
        refine State.raise_keeps ?_
        exact State.wri_keeps (by assumption)
      · refine Keeps.next ?_
        assumption

theorem execSensorFaultClear_keeps {s0 s : State} {x1} (h : Keeps s0 s) :
    Keeps.Out s0 (execSensorFaultClear x1 s) := by
  unfold execSensorFaultClear
  extract_lets n1
  refine Keeps.next ?_
  refine Keeps.ite ?_ ?_
  · refine State.syncCauses_keeps ?_
    refine State.raise_keeps ?_
    exact State.wri_keeps (by assumption)
  · assumption

theorem execThrottleGraceExpiry_keeps {s0 s : State} (h : Keeps s0 s) :
    Keeps.Out s0 (execThrottleGraceExpiry s) := by
  unfold execThrottleGraceExpiry
  refine Keeps.next ?_
  refine Keeps.ite ?_ ?_
  · exact State.enforce_keeps (by assumption)
  · assumption

theorem execThrottleAdjust_keeps {s0 s : State} (h : Keeps s0 s) :
    Keeps.Out s0 (execThrottleAdjust s) := by
  unfold execThrottleAdjust
  extract_lets n1 s2 n3
  have hs2 : Keeps s0 s2 := by
    unfold s2
    exact State.wr_keeps (by assumption)
  clear_value s2
  refine Keeps.iteOut ?_ ?_
  · refine Keeps.next ?_
    assumption
  · refine Keeps.iteOut ?_ ?_
    · refine Keeps.next ?_
      exact State.wr_keeps (by assumption)
    · refine Keeps.iteOut ?_ ?_
      · refine Keeps.next ?_
        exact State.ask_keeps (by assumption)
      · refine Keeps.next ?_
        assumption

theorem execThermalRelease_keeps {s0 s : State} (h : Keeps s0 s) :
    Keeps.Out s0 (execThermalRelease s) := by
  unfold execThermalRelease
  extract_lets n1 n2 n3
  refine Keeps.next ?_
  refine Keeps.ite ?_ ?_
  · exact State.setPwr_keeps (by assumption)
  · assumption

end Sys2Proof.Machine
end

