-- ==== Sys2Proof/Laws/KeepsBetony.lean ====
section
/-!
SUPPORT. What every operation of Machine/Betony.lean keeps (Laws/Keeps.lean).
-/

set_option Elab.async false

namespace Sys2Proof.Machine

theorem State.setShare_keeps {s0 s : State} {x2} (h : Keeps s0 s) :
    Keeps s0 (State.setShare s x2) := by
  unfold State.setShare
  extract_lets n1
  refine State.wr_keeps ?_
  refine State.wr_keeps ?_
  exact State.wr_keeps (by assumption)

theorem State.grantAction_keeps {s0 s : State} {x2 x3} (h : Keeps s0 s) :
    Keeps s0 (State.grantAction s x2 x3) := by
  unfold State.grantAction
  split
  · extract_lets n1
    exact State.setChan_keeps (by assumption)
  · exact State.startSeek_keeps (by assumption)
  · split
    · exact State.runUp_keeps (by assumption)
    · exact State.restartTape_keeps (by assumption)
    · exact State.parkReverse_keeps (by assumption)
    · exact State.locateTape_keeps (by assumption)
  · exact State.startChange_keeps (by assumption)
  · exact State.raiseUnits_keeps (by assumption)
  · exact State.setShare_keeps (by assumption)

theorem State.grantAll_keeps {s0 s : State} {x1 x2} (h : Keeps s0 s) :
    Keeps s0 (State.grantAll x1 x2 s) := by
  induction x1 generalizing x2 s with
  | nil =>
    rw [State.grantAll]
    assumption
  | cons y l ih =>
    rw [State.grantAll]
    split
    · extract_lets s1
      have hs1 : Keeps s0 s1 := by
        unfold s1
        refine State.inc_keeps ?_
        exact State.unask_keeps (by assumption)
      clear_value s1
      refine ih ?_
      exact State.grantAction_keeps (by assumption)
    · refine Keeps.ite ?_ ?_
      · assumption
      · exact ih (by assumption)

theorem State.measure_keeps {s0 s : State} {x2} (h : Keeps s0 s) :
    Keeps s0 (State.measure s x2) := by
  unfold State.measure
  extract_lets s1 n2
  have hs1 : Keeps s0 s1 := by
    unfold s1
    refine Keeps.foldl _ ?_ (fun s _ h => ?_)
    · assumption
    · exact State.wri_keeps (by assumption)
  clear_value s1
  exact State.wr_keeps (by assumption)

theorem State.obeyCap_keeps {s0 s : State} (h : Keeps s0 s) :
    Keeps s0 (State.obeyCap s) := by
  unfold State.obeyCap
  extract_lets n1 n2 n3
  refine Keeps.ite ?_ ?_
  · assumption
  · refine Keeps.ite ?_ ?_
    · refine State.tapeRun_keeps ?_
      exact State.wr_keeps (by assumption)
    · split
      · refine Keeps.ite ?_ ?_
        · refine State.setMot_keeps ?_
          exact State.wr_keeps (by assumption)
        · assumption
      · exact State.startChange_keeps (by assumption)

theorem State.recap_keeps {s0 s : State} {x2 x3} (h : Keeps s0 s) :
    Keeps s0 (State.recap s x2 x3) := by
  unfold State.recap
  extract_lets n1 n2 n3 n4 s5 s6 s7
  have hs5 : Keeps s0 s5 := by
    unfold s5
    refine State.wr_keeps ?_
    exact State.wr_keeps (by assumption)
  clear_value s5
  have hs6 : Keeps s0 s6 := by
    unfold s6
    exact State.wr_keeps (by assumption)
  clear_value s6
  have hs7 : Keeps s0 s7 := by
    unfold s7
    exact State.wr_keeps (by assumption)
  clear_value s7
  exact State.obeyCap_keeps (by assumption)

theorem State.shedActions_keeps {s0 s : State} (h : Keeps s0 s) :
    Keeps s0 (State.shedActions s) := by
  unfold State.shedActions
  extract_lets n1 n2 n3 s4 s5
  have hs4 : Keeps s0 s4 := by
    unfold s4
    refine Keeps.upd ?_ rfl rfl rfl --UPD .red
    assumption
  clear_value s4
  have hs5 : Keeps s0 s5 := by
    unfold s5
    refine Keeps.ite ?_ ?_
    · exact State.setShare_keeps (by assumption)
    · assumption
  clear_value s5
  exact State.syncCauses_keeps (by assumption)

theorem State.shedLower_keeps {s0 s : State} (h : Keeps s0 s) :
    Keeps s0 (State.shedLower s) := by
  unfold State.shedLower
  extract_lets n1 s2 n3
  have hs2 : Keeps s0 s2 := by
    unfold s2
    exact State.setPwr_keeps (by assumption)
  clear_value s2
  refine Keeps.ite ?_ ?_
  · refine State.shedActions_keeps ?_
    exact State.wr_keeps (by assumption)
  · assumption

theorem State.shedRaise_keeps {s0 s : State} (h : Keeps s0 s) :
    Keeps s0 (State.shedRaise s) := by
  unfold State.shedRaise
  extract_lets n1 s2 n3 s4
  have hs2 : Keeps s0 s2 := by
    unfold s2
    exact State.setPwr_keeps (by assumption)
  clear_value s2
  have hs4 : Keeps s0 s4 := by
    unfold s4
    refine State.wr_keeps ?_
    exact State.wr_keeps (by assumption)
  clear_value s4
  refine Keeps.ite ?_ ?_
  · refine State.shedActions_keeps ?_
    exact State.raise_keeps (by assumption)
  · assumption

theorem State.shedTimes_keeps {s0 s : State} {x2 x3} (h : Keeps s0 s) :
    Keeps s0 (State.shedTimes s x2 x3) := by
  unfold State.shedTimes
  extract_lets n1 s2 s3
  have hs2 : Keeps s0 s2 := by
    unfold s2
    exact State.setPwr_keeps (by assumption)
  clear_value s2
  have hs3 : Keeps s0 s3 := by
    unfold s3
    refine Keeps.ite ?_ ?_
    · exact State.shedRaise_keeps (by assumption)
    · assumption
  clear_value s3
  refine Keeps.ite ?_ ?_
  · exact State.shedLower_keeps (by assumption)
  · assumption

theorem execBetonyLoop_keeps {s0 s : State} {x1 x2 x3 x4} (h : Keeps s0 s) :
    Keeps.Out s0 (execBetonyLoop x1 x2 x3 x4 s) := by
  unfold execBetonyLoop
  extract_lets s1 n2 n3 s4 n5 s6 s7 s8 n9 n10 s11 s12
  have hs1 : Keeps s0 s1 := by
    unfold s1
    exact State.measure_keeps (by assumption)
  clear_value s1
  have hs4 : Keeps s0 s4 := by
    unfold s4
    exact State.wr_keeps (by assumption)
  clear_value s4
  have hs6 : Keeps s0 s6 := by
    unfold s6
    exact State.setPwr_keeps (by assumption)
  clear_value s6
  have hs7 : Keeps s0 s7 := by
    unfold s7
    exact State.wr_keeps (by assumption)
  clear_value s7
  have hs8 : Keeps s0 s8 := by
    unfold s8
    refine State.wr_keeps ?_
    exact State.wr_keeps (by assumption)
  clear_value s8
  have hs11 : Keeps s0 s11 := by
    unfold s11
    exact State.grantAll_keeps (by assumption)
  clear_value s11
  have hs12 : Keeps s0 s12 := by
    unfold s12
    refine Keeps.ite ?_ ?_
    · assumption
    · exact State.inc_keeps (by assumption)
  clear_value s12
  refine Keeps.next ?_
  refine State.shedTimes_keeps ?_
  exact State.recap_keeps (by assumption)

theorem execShedRaise_keeps {s0 s : State} (h : Keeps s0 s) :
    Keeps.Out s0 (execShedRaise s) := by
  unfold execShedRaise
  refine Keeps.next ?_
  refine Keeps.ite ?_ ?_
  · exact State.shedRaise_keeps (by assumption)
  · assumption

theorem execShedLower_keeps {s0 s : State} (h : Keeps s0 s) :
    Keeps.Out s0 (execShedLower s) := by
  unfold execShedLower
  refine Keeps.next ?_
  refine Keeps.ite ?_ ?_
  · exact State.shedLower_keeps (by assumption)
  · assumption

end Sys2Proof.Machine
end

