-- ==== Sys2Proof/Laws/KeepsPackets.lean ====
section
/-!
SUPPORT. What every operation of Machine/Packets.lean keeps (Laws/Keeps.lean).
-/

set_option Elab.async false

namespace Sys2Proof.Machine

theorem State.setGrp_keeps {s0 s : State} {x2} (h : Keeps s0 s) :
    Keeps s0 (State.setGrp s x2) := by
  unfold State.setGrp
  refine Keeps.upd ?_ rfl rfl rfl --UPD .grp
  assumption

theorem State.setPort_keeps {s0 s : State} {x2 x3} (h : Keeps s0 s) :
    Keeps s0 (State.setPort s x2 x3) := by
  unfold State.setPort
  extract_lets n1
  exact State.setGrp_keeps (by assumption)

theorem State.block_keeps {s0 s : State} {x2 x3 x4} (h : Keeps s0 s) :
    Keeps s0 (State.block s x2 x3 x4) := by
  unfold State.block
  exact State.emit_keeps (by assumption)

theorem State.emitFrame_keeps {s0 s : State} {x2 x3} (h : Keeps s0 s) :
    Keeps s0 (State.emitFrame s x2 x3) := by
  unfold State.emitFrame
  refine State.emit_keeps ?_
  exact State.block_keeps (by assumption)

theorem State.pump_keeps {s0 s : State} {x1 x3} (h : Keeps s0 s) :
    Keeps s0 (State.pump x1 s x3) := by
  induction x1 generalizing s x3 with
  | zero =>
    rw [State.pump]
    assumption
  | succ n ih =>
    rw [State.pump]
    refine Keeps.ite ?_ ?_
    · assumption
    · split
      · assumption
      · extract_lets n1 n2 n3
        refine ih ?_
        refine State.emitFrame_keeps ?_
        exact State.setPort_keeps (by assumption)

theorem State.enqueuePacket_keeps {s0 s : State} {x2 x3} (h : Keeps s0 s) :
    Keeps s0 (State.enqueuePacket s x2 x3) := by
  unfold State.enqueuePacket
  extract_lets n1 n2 s3
  have hs3 : Keeps s0 s3 := by
    unfold s3
    exact State.setPort_keeps (by assumption)
  clear_value s3
  exact State.pump_keeps (by assumption)

theorem State.routeOut_keeps {s0 s : State} {x2} (h : Keeps s0 s) :
    Keeps s0 (State.routeOut s x2) := by
  unfold State.routeOut
  extract_lets n1 n2
  refine Keeps.ite ?_ ?_
  · exact State.enqueuePacket_keeps (by assumption)
  · exact State.setGrp_keeps (by assumption)

theorem State.sendSeqFor_keeps {s0 s : State} {x2 x3 x4 x5 x6} (h : Keeps s0 s) :
    Keeps s0 (State.sendSeqFor s x2 x3 x4 x5 x6) := by
  unfold State.sendSeqFor
  extract_lets n1 n2 n3 n4 n5 s6
  have hs6 : Keeps s0 s6 := by
    unfold s6
    exact State.setGrp_keeps (by assumption)
  clear_value s6
  refine Keeps.ite ?_ ?_
  · exact State.routeOut_keeps (by assumption)
  · assumption

theorem State.sendSeq_keeps {s0 s : State} {x2 x3 x4 x5} (h : Keeps s0 s) :
    Keeps s0 (State.sendSeq s x2 x3 x4 x5) := by
  unfold State.sendSeq
  exact State.sendSeqFor_keeps (by assumption)

theorem State.sendPlain_keeps {s0 s : State} {x2 x3 x4} (h : Keeps s0 s) :
    Keeps s0 (State.sendPlain s x2 x3 x4) := by
  unfold State.sendPlain
  exact State.routeOut_keeps (by assumption)

theorem State.reroute_keeps {s0 s : State} (h : Keeps s0 s) :
    Keeps s0 (State.reroute s) := by
  unfold State.reroute
  extract_lets n1 n2 n3 n4 n5 s6 n7 s8 n9 n10 s11
  have hs6 : Keeps s0 s6 := by
    unfold s6
    refine Keeps.foldl _ ?_ (fun s _ h => ?_)
    · assumption
    · refine State.wri_keeps ?_
      exact State.wri_keeps (by assumption)
  clear_value s6
  have hs8 : Keeps s0 s8 := by
    unfold s8
    refine State.wr_keeps ?_
    exact State.wr_keeps (by assumption)
  clear_value s8
  have hs11 : Keeps s0 s11 := by
    unfold s11
    exact State.setGrp_keeps (by assumption)
  clear_value s11
  refine Keeps.foldl _ ?_ (fun s _ h => ?_)
  · assumption
  · exact State.routeOut_keeps (by assumption)

theorem State.sendLink_keeps {s0 s : State} {x2 x3 x4} (h : Keeps s0 s) :
    Keeps s0 (State.sendLink s x2 x3 x4) := by
  unfold State.sendLink
  refine Keeps.ite ?_ ?_
  · assumption
  · exact State.enqueuePacket_keeps (by assumption)

theorem State.portsChanged_keeps {s0 s : State} (h : Keeps s0 s) :
    Keeps s0 (State.portsChanged s) := by
  unfold State.portsChanged
  extract_lets n1 s2 s3
  have hs2 : Keeps s0 s2 := by
    unfold s2
    exact State.setGrp_keeps (by assumption)
  clear_value s2
  have hs3 : Keeps s0 s3 := by
    unfold s3
    refine Keeps.ite ?_ ?_
    · refine Keeps.foldl _ ?_ (fun s _ h => ?_)
      · assumption
      · exact State.sendLink_keeps (by assumption)
    · assumption
  clear_value s3
  exact State.reroute_keeps (by assumption)

theorem State.resendTriple_keeps {s0 s : State} {x2 x3} (h : Keeps s0 s) :
    Keeps s0 (State.resendTriple s x2 x3) := by
  unfold State.resendTriple
  extract_lets n1
  refine Keeps.ite ?_ ?_
  · refine Keeps.foldl _ ?_ (fun s _ h => ?_)
    · assumption
    · exact State.routeOut_keeps (by assumption)
  · assumption

theorem State.portComesUp_keeps {s0 s : State} {x2} (h : Keeps s0 s) :
    Keeps s0 (State.portComesUp s x2) := by
  unfold State.portComesUp
  extract_lets n1 n2 n3 s4 s5 s6 s7 s8
  have hs4 : Keeps s0 s4 := by
    unfold s4
    exact State.setPort_keeps (by assumption)
  clear_value s4
  have hs5 : Keeps s0 s5 := by
    unfold s5
    exact State.wri_keeps (by assumption)
  clear_value s5
  have hs6 : Keeps s0 s6 := by
    unfold s6
    exact State.raise_keeps (by assumption)
  clear_value s6
  have hs7 : Keeps s0 s7 := by
    unfold s7
    exact State.sendLink_keeps (by assumption)
  clear_value s7
  have hs8 : Keeps s0 s8 := by
    unfold s8
    exact State.portsChanged_keeps (by assumption)
  clear_value s8
  exact State.pump_keeps (by assumption)

theorem State.portGoesDown_keeps {s0 s : State} {x2 x3} (h : Keeps s0 s) :
    Keeps s0 (State.portGoesDown s x2 x3) := by
  unfold State.portGoesDown
  extract_lets n1 s2 s3 s4
  have hs2 : Keeps s0 s2 := by
    unfold s2
    exact State.setPort_keeps (by assumption)
  clear_value s2
  have hs3 : Keeps s0 s3 := by
    unfold s3
    exact State.wri_keeps (by assumption)
  clear_value s3
  have hs4 : Keeps s0 s4 := by
    unfold s4
    refine State.wr_keeps ?_
    exact State.inci_keeps (by assumption)
  clear_value s4
  refine State.portsChanged_keeps ?_
  exact State.raise_keeps (by assumption)

theorem State.retransmit_keeps {s0 s : State} {x2 x3} (h : Keeps s0 s) :
    Keeps s0 (State.retransmit s x2 x3) := by
  unfold State.retransmit
  extract_lets n1 n2 n3 s4
  have hs4 : Keeps s0 s4 := by
    unfold s4
    refine State.addi_keeps ?_
    exact State.setPort_keeps (by assumption)
  clear_value s4
  refine Keeps.ite ?_ ?_
  · assumption
  · refine Keeps.foldl _ ?_ (fun s _ h => ?_)
    · assumption
    · exact State.emitFrame_keeps (by assumption)

theorem execLaneBlockLock_keeps {s0 s : State} {x1 x2 x3} (h : Keeps s0 s) :
    Keeps.Out s0 (execLaneBlockLock x1 x2 x3 s) := by
  unfold execLaneBlockLock
  extract_lets n1 n2 n3 s4
  have hs4 : Keeps s0 s4 := by
    unfold s4
    exact State.setPort_keeps (by assumption)
  clear_value s4
  refine Keeps.iteOut ?_ ?_
  · refine Keeps.next ?_
    assumption
  · refine Keeps.next ?_
    refine Keeps.ite ?_ ?_
    · exact State.wri_keeps (by assumption)
    · assumption

theorem execLaneDegradeTimeout_keeps {s0 s : State} {x1} (h : Keeps s0 s) :
    Keeps.Out s0 (execLaneDegradeTimeout x1 s) := by
  unfold execLaneDegradeTimeout
  extract_lets n1 n2 s3
  have hs3 : Keeps s0 s3 := by
    unfold s3
    refine State.wr_keeps ?_
    exact State.wri_keeps (by assumption)
  clear_value s3
  refine Keeps.iteOut ?_ ?_
  · refine Keeps.next ?_
    refine State.portsChanged_keeps ?_
    exact State.raise_keeps (by assumption)
  · refine Keeps.next ?_
    assumption

theorem execLinkAck_keeps {s0 s : State} {x1 x2} (h : Keeps s0 s) :
    Keeps.Out s0 (execLinkAck x1 x2 s) := by
  unfold execLinkAck
  extract_lets n1 n2 s3
  have hs3 : Keeps s0 s3 := by
    unfold s3
    exact State.setPort_keeps (by assumption)
  clear_value s3
  refine Keeps.iteOut ?_ ?_
  · refine Keeps.next ?_
    exact State.pump_keeps (by assumption)
  · refine Keeps.next ?_
    assumption

theorem execLinkNak_keeps {s0 s : State} {x1 x2} (h : Keeps s0 s) :
    Keeps.Out s0 (execLinkNak x1 x2 s) := by
  unfold execLinkNak
  refine Keeps.iteOut ?_ ?_
  · refine Keeps.next ?_
    exact State.retransmit_keeps (by assumption)
  · refine Keeps.next ?_
    assumption

theorem execReplayTimeout_keeps {s0 s : State} {x1} (h : Keeps s0 s) :
    Keeps.Out s0 (execReplayTimeout x1 s) := by
  unfold execReplayTimeout
  split
  · refine Keeps.iteOut ?_ ?_
    · refine Keeps.next ?_
      exact State.retransmit_keeps (by assumption)
    · refine Keeps.next ?_
      assumption
  · refine Keeps.next ?_
    assumption

theorem execLinkCredit_keeps {s0 s : State} {x1 x2} (h : Keeps s0 s) :
    Keeps.Out s0 (execLinkCredit x1 x2 s) := by
  unfold execLinkCredit
  extract_lets n1 n2 n3 s4
  have hs4 : Keeps s0 s4 := by
    unfold s4
    exact State.setPort_keeps (by assumption)
  clear_value s4
  refine Keeps.iteOut ?_ ?_
  · refine Keeps.next ?_
    assumption
  · refine Keeps.next ?_
    exact State.pump_keeps (by assumption)

theorem execLinkInit_keeps {s0 s : State} {x1 x2 x3} (h : Keeps s0 s) :
    Keeps.Out s0 (execLinkInit x1 x2 x3 s) := by
  unfold execLinkInit
  extract_lets n1 n2 s3
  have hs3 : Keeps s0 s3 := by
    unfold s3
    refine State.wri_keeps ?_
    exact State.block_keeps (by assumption)
  clear_value s3
  refine Keeps.iteOut ?_ ?_
  · refine Keeps.next ?_
    refine Keeps.ite ?_ ?_
    · exact State.portComesUp_keeps (by assumption)
    · assumption
  · refine Keeps.next ?_
    assumption

theorem execPortDown_keeps {s0 s : State} {x1 x2} (h : Keeps s0 s) :
    Keeps.Out s0 (execPortDown x1 x2 s) := by
  unfold execPortDown
  extract_lets n1 n2 n3
  refine Keeps.iteOut ?_ ?_
  · refine Keeps.next ?_
    exact State.portGoesDown_keeps (by assumption)
  · refine Keeps.next ?_
    assumption

theorem execE2eResendTimeout_keeps {s0 s : State} {x1 x2} (h : Keeps s0 s) :
    Keeps.Out s0 (execE2eResendTimeout x1 x2 s) := by
  unfold execE2eResendTimeout
  extract_lets n1
  refine Keeps.iteOut ?_ ?_
  · refine Keeps.next ?_
    assumption
  · refine Keeps.next ?_
    refine State.resendTriple_keeps ?_
    exact State.addi_keeps (by assumption)

theorem execRouteWaitTimeout_keeps {s0 s : State} {x1} (h : Keeps s0 s) :
    Keeps.Out s0 (execRouteWaitTimeout x1 s) := by
  unfold execRouteWaitTimeout
  extract_lets n1
  refine Keeps.next ?_
  exact State.setGrp_keeps (by assumption)

end Sys2Proof.Machine
end

