-- ==== Sys2Proof/Laws/KeepsRows.lean ====
section
/-!
SUPPORT. What every operation of Machine/Rows.lean keeps (Laws/Keeps.lean).
-/

set_option Elab.async false

namespace Sys2Proof.Machine

theorem State.setRed_keeps {s0 s : State} {x2} (h : Keeps s0 s) :
    Keeps s0 (State.setRed s x2) := by
  unfold State.setRed
  refine Keeps.upd ?_ rfl rfl rfl --UPD .red
  assumption

theorem State.storeRec_keeps {s0 s : State} {x2} (h : Keeps s0 s) :
    Keeps s0 (State.storeRec s x2) := by
  unfold State.storeRec
  extract_lets n1
  refine Keeps.ite ?_ ?_
  · exact State.setGrp_keeps (by assumption)
  · exact State.setGrp_keeps (by assumption)

theorem State.adoptRows_keeps {s0 s : State} (h : Keeps s0 s) :
    Keeps.Pair s0 (State.adoptRows s) := by
  unfold State.adoptRows
  extract_lets n1 n2 n3 n4 n5 n6 n7 n8 n9 n10
  refine Keeps.pair ?_
  exact State.setRed_keeps (by assumption)

theorem State.sendRows_keeps {s0 s : State} {x2 x3 x4 x5} (h : Keeps s0 s) :
    Keeps s0 (State.sendRows s x2 x3 x4 x5) := by
  unfold State.sendRows
  extract_lets n1
  refine Keeps.foldl _ ?_ (fun s _ h => ?_)
  · assumption
  · exact State.sendSeq_keeps (by assumption)

theorem State.moveRows_keeps {s0 s : State} {x2 x3} (h : Keeps s0 s) :
    Keeps s0 (State.moveRows s x2 x3) := by
  unfold State.moveRows
  extract_lets n1 n2 n3 n4 n5 n6 n7 s8 s9 s10 n11 s12
  have hs8 : Keeps s0 s8 := by
    unfold s8
    refine Keeps.foldl _ ?_ (fun s _ h => ?_)
    · assumption
    · exact State.raise_keeps (by assumption)
  clear_value s8
  have hs9 : Keeps s0 s9 := by
    unfold s9
    exact State.wr_keeps (by assumption)
  clear_value s9
  have hs10 : Keeps s0 s10 := by
    unfold s10
    refine Keeps.ite ?_ ?_
    · exact State.wr_keeps (by assumption)
    · assumption
  clear_value s10
  have hs12 : Keeps s0 s12 := by
    unfold s12
    exact State.setRed_keeps (by assumption)
  clear_value s12
  refine Keeps.ite ?_ ?_
  · assumption
  · refine Keeps.foldl _ ?_ (fun s _ h => ?_)
    · assumption
    · exact State.sendRows_keeps (by assumption)

theorem State.takeRows_keeps {s0 s : State} {x2 x3 x4} (h : Keeps s0 s) :
    Keeps s0 (State.takeRows s x2 x3 x4) := by
  unfold State.takeRows
  extract_lets n1 n2
  exact State.setRed_keeps (by assumption)

end Sys2Proof.Machine
end

