-- ==== Sys2Proof/Laws/KeepsRebuild.lean ====
section
/-!
SUPPORT. What every operation of Machine/Rebuild.lean keeps (Laws/Keeps.lean).
-/

set_option Elab.async false

namespace Sys2Proof.Machine

theorem State.ageSlow_keeps {s0 s : State} (h : Keeps s0 s) :
    Keeps s0 (State.ageSlow s) := by
  unfold State.ageSlow
  extract_lets n1
  exact State.setRed_keeps (by assumption)

theorem State.answerRead_keeps {s0 s : State} {x2 x3 x4 x5 x6 x7 x8 x9} (h : Keeps s0 s) :
    Keeps s0 (State.answerRead s x2 x3 x4 x5 x6 x7 x8 x9) := by
  unfold State.answerRead
  split
  · exact State.sendSeq_keeps (by assumption)
  · extract_lets n1
    refine Keeps.foldl _ ?_ (fun s _ h => ?_)
    · assumption
    · extract_lets n2 n3
      exact State.sendSeq_keeps (by assumption)

theorem State.takeRead_keeps {s0 s : State} {x2 x3 x4 x5 x6 x7} (h : Keeps s0 s) :
    Keeps s0 (State.takeRead s x2 x3 x4 x5 x6 x7) := by
  unfold State.takeRead
  extract_lets n1 s2
  have hs2 : Keeps s0 s2 := by
    unfold s2
    refine Keeps.ite ?_ ?_
    · refine State.sendSeq_keeps ?_
      refine Keeps.upd ?_ rfl rfl rfl --UPD .free
      assumption
    · assumption
  clear_value s2
  refine Keeps.ite ?_ ?_
  · exact State.answerRead_keeps (by assumption)
  · exact State.answerRead_keeps (by assumption)

theorem State.askRange_keeps {s0 s : State} {x2 x3 x4 x5 x6} (h : Keeps s0 s) :
    Keeps s0 (State.askRange s x2 x3 x4 x5 x6) := by
  unfold State.askRange
  extract_lets n1 n2 n3 n4 s5
  have hs5 : Keeps s0 s5 := by
    unfold s5
    exact State.setRed_keeps (by assumption)
  clear_value s5
  refine Keeps.ite ?_ ?_
  · assumption
  · refine Keeps.ite ?_ ?_
    · assumption
    · exact State.sendSeq_keeps (by assumption)

theorem State.reconstruct_keeps {s0 s : State} {x2 x3 x4 x5 x6 x7} (h : Keeps s0 s) :
    Keeps s0 (State.reconstruct s x2 x3 x4 x5 x6 x7) := by
  unfold State.reconstruct
  extract_lets n1 n2 n3 n4 n5 s6
  have hs6 : Keeps s0 s6 := by
    unfold s6
    exact State.setRed_keeps (by assumption)
  clear_value s6
  refine Keeps.ite ?_ ?_
  · exact State.loseUnits_keeps (by assumption)
  · refine Keeps.foldl _ ?_ (fun s _ h => ?_)
    · assumption
    · exact State.askRange_keeps (by assumption)

theorem State.fillUnits_keeps {s0 s : State} {x2 x3} (h : Keeps s0 s) :
    Keeps s0 (State.fillUnits s x2 x3) := by
  unfold State.fillUnits
  extract_lets n1 n2
  refine Keeps.upd ?_ rfl rfl rfl --UPD .obj
  assumption

theorem State.finishRange_keeps {s0 s : State} {x2 x3 x4} (h : Keeps s0 s) :
    Keeps s0 (State.finishRange s x2 x3 x4) := by
  unfold State.finishRange
  extract_lets n1 n2 n3 n4 n5 n6 n7 s8
  have hs8 : Keeps s0 s8 := by
    unfold s8
    exact State.setRed_keeps (by assumption)
  clear_value s8
  refine Keeps.ite ?_ ?_
  · assumption
  · split
    refine Keeps.ite ?_ ?_
    · exact State.reconstruct_keeps (by assumption)
    · exact State.fillUnits_keeps (by assumption)

theorem State.takeStripData_keeps {s0 s : State} {x2 x3 x4 x5 x6 x7 x8} (h : Keeps s0 s) :
    Keeps s0 (State.takeStripData s x2 x3 x4 x5 x6 x7 x8) := by
  unfold State.takeStripData
  extract_lets n1 n2 n3
  split
  · assumption
  · extract_lets n4 n5 s6 f7 n8 n9 n10
    have hs6 : Keeps s0 s6 := by
      unfold s6
      exact State.setRed_keeps (by assumption)
    clear_value s6
    have hf7 : ∀ a1, Keeps s0 a1 → Keeps s0 (f7 a1) := by
      intro a1 h
      unfold f7
      extract_lets n11
      exact State.setRed_keeps (by assumption)
    split
    · exact State.finishRange_keeps (by assumption)
    · refine Keeps.ite ?_ ?_
      · refine Keeps.ite ?_ ?_
        · refine hf7 _ ?_
          assumption
        · refine State.reconstruct_keeps ?_
          refine hf7 _ ?_
          assumption
      · refine Keeps.ite ?_ ?_
        · refine Keeps.ite ?_ ?_
          · refine State.fillUnits_keeps ?_
            refine hf7 _ ?_
            assumption
          · refine State.fillUnits_keeps ?_
            refine hf7 _ ?_
            assumption
        · assumption

theorem State.fetchUnit_keeps {s0 s : State} {x2} (h : Keeps s0 s) :
    Keeps s0 (State.fetchUnit s x2) := by
  unfold State.fetchUnit
  extract_lets n1 n2 n3
  refine Keeps.ite ?_ ?_
  · assumption
  · split
    · extract_lets s4
      have hs4 : Keeps s0 s4 := by
        unfold s4
        exact State.setRed_keeps (by assumption)
      clear_value s4
      refine Keeps.ite ?_ ?_
      · assumption
      · refine Keeps.ite ?_ ?_
        · split
          · exact State.fillUnits_keeps (by assumption)
          · assumption
        · refine Keeps.ite ?_ ?_
          · assumption
          · exact State.sendSeq_keeps (by assumption)
    · extract_lets n5 n6 n7
      refine Keeps.ite ?_ ?_
      · assumption
      · refine Keeps.ite ?_ ?_
        · split
          · split
            refine Keeps.ite ?_ ?_
            · exact State.reconstruct_keeps (by assumption)
            · exact State.fillUnits_keeps (by assumption)
          · assumption
        · refine Keeps.ite ?_ ?_
          · exact State.askRange_keeps (by assumption)
          · exact State.reconstruct_keeps (by assumption)
    · assumption

theorem State.markSlow_keeps {s0 s : State} {x2} (h : Keeps s0 s) :
    Keeps s0 (State.markSlow s x2) := by
  unfold State.markSlow
  extract_lets n1 s2
  have hs2 : Keeps s0 s2 := by
    unfold s2
    exact State.setRed_keeps (by assumption)
  clear_value s2
  refine Keeps.ite ?_ ?_
  · assumption
  · refine State.raise_keeps ?_
    exact State.wr_keeps (by assumption)

theorem execStripRequestDeadline_keeps {s0 s : State} {x1 x2 x3} (h : Keeps s0 s) :
    Keeps.Out s0 (execStripRequestDeadline x1 x2 x3 s) := by
  unfold execStripRequestDeadline
  extract_lets n1 n2 n3
  split
  · refine Keeps.next ?_
    assumption
  · extract_lets s4 s5 n6 n7
    have hs4 : Keeps s0 s4 := by
      unfold s4
      exact State.setRed_keeps (by assumption)
    clear_value s4
    have hs5 : Keeps s0 s5 := by
      unfold s5
      exact State.markSlow_keeps (by assumption)
    clear_value s5
    refine Keeps.next ?_
    refine Keeps.ite ?_ ?_
    · exact State.reconstruct_keeps (by assumption)
    · assumption

end Sys2Proof.Machine
end

