-- ==== Sys2Proof/Laws/KeepsYarrow.lean ====
section
/-!
SUPPORT. What every operation of Machine/Yarrow.lean keeps (Laws/Keeps.lean).
-/

set_option Elab.async false

namespace Sys2Proof.Machine

theorem State.tellHome_keeps {s0 s : State} {x2 x3 x4 x5} (h : Keeps s0 s) :
    Keeps s0 (State.tellHome s x2 x3 x4 x5) := by
  unfold State.tellHome
  extract_lets n1
  refine Keeps.ite ?_ ?_
  · assumption
  · refine Keeps.ite ?_ ?_
    · exact State.sendSeqFor_keeps (by assumption)
    · split
      · refine Keeps.foldl _ ?_ (fun s _ h => ?_)
        · assumption
        · exact State.sendSeqFor_keeps (by assumption)
      · assumption

theorem State.dropStrips_keeps {s0 s : State} {x2} (h : Keeps s0 s) :
    Keeps s0 (State.dropStrips s x2) := by
  unfold State.dropStrips
  extract_lets n1 n2 s3 n4 n5
  have hs3 : Keeps s0 s3 := by
    unfold s3
    exact State.setRed_keeps (by assumption)
  clear_value s3
  refine Keeps.upd ?_ rfl rfl rfl --UPD .obj, .disk
  assumption

theorem State.sendOp_keeps {s0 s : State} {x2 x3 x4 x5 x6 x7 x8} (h : Keeps s0 s) :
    Keeps s0 (State.sendOp s x2 x3 x4 x5 x6 x7 x8) := by
  unfold State.sendOp
  exact State.sendSeq_keeps (by assumption)

theorem State.withdrawHome_keeps {s0 s : State} {x2} (h : Keeps s0 s) :
    Keeps s0 (State.withdrawHome s x2) := by
  unfold State.withdrawHome
  refine Keeps.ite ?_ ?_
  · assumption
  · exact State.sendSeq_keeps (by assumption)

theorem State.putRecord_keeps {s0 s : State} {x2} (h : Keeps s0 s) :
    Keeps s0 (State.putRecord s x2) := by
  unfold State.putRecord
  extract_lets n1 n2 n3 n4 s5 s6
  have hs5 : Keeps s0 s5 := by
    unfold s5
    exact State.setRed_keeps (by assumption)
  clear_value s5
  have hs6 : Keeps s0 s6 := by
    unfold s6
    refine Keeps.ite ?_ ?_
    · exact State.wr_keeps (by assumption)
    · assumption
  clear_value s6
  refine Keeps.foldl _ ?_ (fun s _ h => ?_)
  · assumption
  · exact State.sendSeqFor_keeps (by assumption)

theorem State.setStripe_keeps {s0 s : State} {x2} (h : Keeps s0 s) :
    Keeps s0 (State.setStripe s x2) := by
  unfold State.setStripe
  extract_lets n1
  exact State.setRed_keeps (by assumption)

theorem State.moveSlot_keeps {s0 s : State} {x2 x3} (h : Keeps s0 s) :
    Keeps s0 (State.moveSlot s x2 x3) := by
  unfold State.moveSlot
  split
  · assumption
  · extract_lets n1 n2 n3 n4 n5
    split
    · assumption
    · extract_lets n6 s7
      have hs7 : Keeps s0 s7 := by
        unfold s7
        exact State.setRed_keeps (by assumption)
      clear_value s7
      refine State.putRecord_keeps ?_
      exact State.setStripe_keeps (by assumption)

theorem State.moveSlots_keeps {s0 s : State} (h : Keeps s0 s) :
    Keeps s0 (State.moveSlots s) := by
  unfold State.moveSlots
  split
  · assumption
  · refine Keeps.foldl _ ?_ (fun s _ h => ?_)
    · assumption
    · refine Keeps.foldl _ ?_ (fun s _ h => ?_)
      · assumption
      · split
        · exact State.moveSlot_keeps (by assumption)
        · assumption

theorem State.addUnits_keeps {s0 s : State} {x2} (h : Keeps s0 s) : Keeps.Pair s0 (State.addUnits s x2) := by
  unfold State.addUnits
  exact Keeps.foldlPair _ h fun a _ h => State.addUnit_keeps h

theorem State.takeLanding_keeps {s0 s : State} {x2 x3 x4 x5 x6} (h : Keeps s0 s) :
    Keeps s0 (State.takeLanding s x2 x3 x4 x5 x6) := by
  unfold State.takeLanding
  extract_lets n1 n2 s3
  have hs3 : Keeps s0 s3 := by
    unfold s3
    refine Keeps.ite ?_ ?_
    · assumption
    · exact State.setRed_keeps (by assumption)
  clear_value s3
  split
  · assumption
  · extract_lets n4
    refine Keeps.ite ?_ ?_
    · assumption
    · refine Keeps.ite ?_ ?_
      · exact State.setCopy_keeps (by assumption)
      · split
        extract_lets n5 s6
        have hs6 : Keeps s0 s6 := by
          unfold s6
          refine State.setCopy_keeps ?_
          refine Keeps.of_eq ?_ (by assumption)
          exact State.addUnits_keeps (by assumption)
        clear_value s6
        refine Keeps.ite ?_ ?_
        · exact State.setCopy_keeps (by assumption)
        · exact State.placeRemote_keeps (by assumption)

theorem State.sendBytes_keeps {s0 s : State} {x2 x3 x4 x5 x6 x7 x8} (h : Keeps s0 s) :
    Keeps s0 (State.sendBytes s x2 x3 x4 x5 x6 x7 x8) := by
  unfold State.sendBytes
  extract_lets n1
  refine Keeps.foldl _ ?_ (fun s _ h => ?_)
  · assumption
  · extract_lets n2
    exact State.sendSeq_keeps (by assumption)

theorem State.sendCopy_keeps {s0 s : State} {x2 x3} (h : Keeps s0 s) :
    Keeps s0 (State.sendCopy s x2 x3) := by
  unfold State.sendCopy
  split
  · assumption
  · extract_lets n1 s2 n3 s4
    have hs2 : Keeps s0 s2 := by
      unfold s2
      exact State.setCmd_keeps (by assumption)
    clear_value s2
    have hs4 : Keeps s0 s4 := by
      unfold s4
      exact State.setRed_keeps (by assumption)
    clear_value s4
    refine Keeps.ite ?_ ?_
    · exact State.takeLanding_keeps (by assumption)
    · exact State.sendBytes_keeps (by assumption)

theorem State.placeGroup_keeps {s0 s : State} {x2 x3} (h : Keeps s0 s) :
    Keeps s0 (State.placeGroup s x2 x3) := by
  unfold State.placeGroup
  split
  · assumption
  · extract_lets n1 n2 n3 s4
    have hs4 : Keeps s0 s4 := by
      unfold s4
      refine Keeps.upd ?_ rfl rfl rfl --UPD .free
      assumption
    clear_value s4
    refine Keeps.ite ?_ ?_
    · refine State.fail_keeps ?_
      exact State.discardWork_keeps (by assumption)
    · refine Keeps.foldl _ ?_ (fun s _ h => ?_)
      · assumption
      · exact State.sendCopy_keeps (by assumption)

theorem State.copyLost_keeps {s0 s : State} {x2 x3 x4} (h : Keeps s0 s) :
    Keeps s0 (State.copyLost s x2 x3 x4) := by
  unfold State.copyLost
  split
  · assumption
  · refine State.placeGroup_keeps ?_
    exact State.setCmd_keeps (by assumption)

theorem State.releaseCopy_keeps {s0 s : State} {x2 x3} (h : Keeps s0 s) :
    Keeps s0 (State.releaseCopy s x2 x3) := by
  unfold State.releaseCopy
  extract_lets n1 n2 s3 n4 s5 n6
  have hs3 : Keeps s0 s3 := by
    unfold s3
    exact State.releaseLanding_keeps (by assumption)
  clear_value s3
  have hs5 : Keeps s0 s5 := by
    unfold s5
    exact State.setRed_keeps (by assumption)
  clear_value s5
  refine Keeps.upd ?_ rfl rfl rfl --UPD .obj
  assumption

theorem State.releaseLanded_keeps {s0 s : State} (h : Keeps s0 s) :
    Keeps s0 (State.releaseLanded s) := by
  unfold State.releaseLanded
  extract_lets n1 n2 n3 n4 s5
  have hs5 : Keeps s0 s5 := by
    unfold s5
    exact State.setRed_keeps (by assumption)
  clear_value s5
  refine Keeps.foldl _ ?_ (fun s _ h => ?_)
  · assumption
  · refine Keeps.foldl _ ?_ (fun s _ h => ?_)
    · assumption
    · refine Keeps.ite ?_ ?_
      · exact State.releaseCopy_keeps (by assumption)
      · exact State.sendOp_keeps (by assumption)

theorem State.openStripe_keeps {s0 s : State} {x2 x3 x4} (h : Keeps s0 s) :
    Keeps s0 (State.openStripe s x2 x3 x4) := by
  unfold State.openStripe
  extract_lets n1 s2
  have hs2 : Keeps s0 s2 := by
    unfold s2
    exact State.setRed_keeps (by assumption)
  clear_value s2
  exact State.putRecord_keeps (by assumption)

theorem State.answerLookup_keeps {s0 s : State} {x2 x3} (h : Keeps s0 s) :
    Keeps s0 (State.answerLookup s x2 x3) := by
  unfold State.answerLookup
  extract_lets f1
  have hf1 : ∀ a1 a2 a3, Keeps s0 a1 → Keeps s0 (f1 a1 a2 a3) := by
    intro a1 a2 a3 h
    unfold f1
    exact State.sendSeq_keeps (by assumption)
  split
  · extract_lets n2 s3
    have hs3 : Keeps s0 s3 := by
      unfold s3
      refine Keeps.foldl _ ?_ (fun s _ h => ?_)
      · assumption
      · refine hf1 _ _ _ ?_
        assumption
    clear_value s3
    refine hf1 _ _ _ ?_
    assumption
  · refine Keeps.foldl _ ?_ (fun s _ h => ?_)
    · assumption
    · refine hf1 _ _ _ ?_
      assumption
  · refine hf1 _ _ _ ?_
    assumption

theorem State.pushMap_keeps {s0 s : State} {x2} (h : Keeps s0 s) :
    Keeps s0 (State.pushMap s x2) := by
  unfold State.pushMap
  extract_lets n1 s2
  have hs2 : Keeps s0 s2 := by
    unfold s2
    refine Keeps.foldl _ ?_ (fun s _ h => ?_)
    · assumption
    · exact State.answerLookup_keeps (by assumption)
  clear_value s2
  exact State.sendSeq_keeps (by assumption)

theorem State.closeStripe_keeps {s0 s : State} (h : Keeps s0 s) :
    Keeps s0 (State.closeStripe s) := by
  unfold State.closeStripe
  extract_lets n1 n2 n3 n4 n5 n6 n7 s8
  have hs8 : Keeps s0 s8 := by
    unfold s8
    exact State.setRed_keeps (by assumption)
  clear_value s8
  refine Keeps.ite ?_ ?_
  · assumption
  · exact State.openStripe_keeps (by assumption)

theorem State.gatherFull_keeps {s0 s : State} {x1} (h : Keeps s0 s) :
    Keeps s0 (State.gatherFull x1 s) := by
  induction x1 generalizing s with
  | zero =>
    rw [State.gatherFull]
    assumption
  | succ n ih =>
    rw [State.gatherFull]
    refine Keeps.ite ?_ ?_
    · refine ih ?_
      exact State.closeStripe_keeps (by assumption)
    · assumption

theorem State.gatherUnits_keeps {s0 s : State} {x2} (h : Keeps s0 s) :
    Keeps s0 (State.gatherUnits s x2) := by
  unfold State.gatherUnits
  extract_lets n1 s2
  have hs2 : Keeps s0 s2 := by
    unfold s2
    exact State.setRed_keeps (by assumption)
  clear_value s2
  exact State.gatherFull_keeps (by assumption)

theorem State.setStrip_keeps {s0 s : State} {x2} (h : Keeps s0 s) :
    Keeps s0 (State.setStrip s x2) := by
  unfold State.setStrip
  extract_lets n1
  exact State.setRed_keeps (by assumption)

theorem State.writeStrip_keeps {s0 s : State} {x2 x3} (h : Keeps s0 s) :
    Keeps s0 (State.writeStrip s x2 x3) := by
  unfold State.writeStrip
  extract_lets n1
  split
  extract_lets s2 n3
  have hs2 : Keeps s0 s2 := by
    unfold s2
    refine State.setStrip_keeps ?_
    refine Keeps.of_eq ?_ (by assumption)
    exact State.addUnits_keeps (by assumption)
  clear_value s2
  refine Keeps.ite ?_ ?_
  · exact State.setDisk_keeps (by assumption)
  · refine State.closeSet_keeps ?_
    refine State.tapeTake_keeps ?_
    exact State.closeSet_keeps (by assumption)

theorem State.takeStrip_keeps {s0 s : State} {x2 x3 x4 x5 x6 x7 x8} (h : Keeps s0 s) :
    Keeps s0 (State.takeStrip s x2 x3 x4 x5 x6 x7 x8) := by
  unfold State.takeStrip
  extract_lets s1 n2 s3
  have hs1 : Keeps s0 s1 := by
    unfold s1
    refine Keeps.ite ?_ ?_
    · exact State.dropStrips_keeps (by assumption)
    · assumption
  clear_value s1
  have hs3 : Keeps s0 s3 := by
    unfold s3
    split
    · assumption
    · exact State.setRed_keeps (by assumption)
  clear_value s3
  split
  · assumption
  · extract_lets n4 s5
    have hs5 : Keeps s0 s5 := by
      unfold s5
      exact State.setStrip_keeps (by assumption)
    clear_value s5
    refine Keeps.ite ?_ ?_
    · assumption
    · refine Keeps.ite ?_ ?_
      · assumption
      · refine Keeps.ite ?_ ?_
        · refine State.sendOp_keeps ?_
          exact State.dropStrips_keeps (by assumption)
        · exact State.writeStrip_keeps (by assumption)

theorem State.sendStrip_keeps {s0 s : State} {x2 x3 x4} (h : Keeps s0 s) :
    Keeps s0 (State.sendStrip s x2 x3 x4) := by
  unfold State.sendStrip
  extract_lets n1 n2 s3
  have hs3 : Keeps s0 s3 := by
    unfold s3
    exact State.setRed_keeps (by assumption)
  clear_value s3
  refine Keeps.ite ?_ ?_
  · exact State.takeStrip_keeps (by assumption)
  · exact State.sendBytes_keeps (by assumption)

theorem State.sendStrips_keeps {s0 s : State} {x2} (h : Keeps s0 s) :
    Keeps s0 (State.sendStrips s x2) := by
  unfold State.sendStrips
  extract_lets n1 s2 s3
  have hs2 : Keeps s0 s2 := by
    unfold s2
    exact State.add64_keeps (by assumption)
  clear_value s2
  have hs3 : Keeps s0 s3 := by
    unfold s3
    exact State.setStripe_keeps (by assumption)
  clear_value s3
  refine Keeps.foldl _ ?_ (fun s _ h => ?_)
  · assumption
  · exact State.sendStrip_keeps (by assumption)

theorem State.resendStrips_keeps {s0 s : State} {x2} (h : Keeps s0 s) :
    Keeps s0 (State.resendStrips s x2) := by
  unfold State.resendStrips
  refine Keeps.foldl _ ?_ (fun s _ h => ?_)
  · exact State.setStripe_keeps (by assumption)
  · exact State.sendStrip_keeps (by assumption)

theorem State.stripeState_keeps {s0 s : State} {x2 x3} (h : Keeps s0 s) :
    Keeps s0 (State.stripeState s x2 x3) := by
  unfold State.stripeState
  extract_lets n1 n2
  refine State.putRecord_keeps ?_
  exact State.setStripe_keeps (by assumption)

theorem State.takeDirectory_keeps {s0 s : State} {x2} (h : Keeps s0 s) :
    Keeps s0 (State.takeDirectory s x2) := by
  unfold State.takeDirectory
  extract_lets n1 n2 n3
  exact State.setRed_keeps (by assumption)

theorem State.publish_keeps {s0 s : State} {x2} (h : Keeps s0 s) :
    Keeps s0 (State.publish s x2) := by
  unfold State.publish
  extract_lets s1 n2 n3 s4 s5 n6 s7 n8
  have hs1 : Keeps s0 s1 := by
    unfold s1
    exact State.setStripe_keeps (by assumption)
  clear_value s1
  have hs4 : Keeps s0 s4 := by
    unfold s4
    exact State.takeDirectory_keeps (by assumption)
  clear_value s4
  have hs5 : Keeps s0 s5 := by
    unfold s5
    refine Keeps.ite ?_ ?_
    · assumption
    · exact State.sendSeqFor_keeps (by assumption)
  clear_value s5
  have hs7 : Keeps s0 s7 := by
    unfold s7
    refine Keeps.foldl _ ?_ (fun s _ h => ?_)
    · assumption
    · extract_lets n9
      refine Keeps.ite ?_ ?_
      · exact State.setUnit_keeps (by assumption)
      · assumption
  clear_value s7
  refine Keeps.ite ?_ ?_
  · assumption
  · refine Keeps.foldl _ ?_ (fun s _ h => ?_)
    · assumption
    · exact State.tellHome_keeps (by assumption)

theorem State.stripeCommitted_keeps {s0 s : State} {x2} (h : Keeps s0 s) :
    Keeps s0 (State.stripeCommitted s x2) := by
  unfold State.stripeCommitted
  extract_lets n1 n2 s3 s4 s5
  have hs3 : Keeps s0 s3 := by
    unfold s3
    exact State.setRed_keeps (by assumption)
  clear_value s3
  have hs4 : Keeps s0 s4 := by
    unfold s4
    refine Keeps.ite ?_ ?_
    · refine Keeps.foldl _ ?_ (fun s _ h => ?_)
      · assumption
      · extract_lets n6
        refine Keeps.ite ?_ ?_
        · exact State.setUnit_keeps (by assumption)
        · assumption
    · assumption
  clear_value s4
  have hs5 : Keeps s0 s5 := by
    unfold s5
    refine Keeps.ite ?_ ?_
    · exact State.releaseLanded_keeps (by assumption)
    · assumption
  clear_value s5
  exact State.putRecord_keeps (by assumption)

theorem State.stripeStep_keeps {s0 s : State} {x1 x3} (h : Keeps s0 s) :
    Keeps s0 (State.stripeStep x1 s x3) := by
  induction x1 generalizing s x3 with
  | zero =>
    rw [State.stripeStep]
    assumption
  | succ n ih =>
    rw [State.stripeStep]
    split
    · assumption
    · extract_lets n1
      refine Keeps.ite ?_ ?_
      · assumption
      · refine Keeps.ite ?_ ?_
        · refine Keeps.ite ?_ ?_
          · assumption
          · refine ih ?_
            exact State.sendStrips_keeps (by assumption)
        · refine Keeps.ite ?_ ?_
          · refine ih ?_
            exact State.resendStrips_keeps (by assumption)
          · refine Keeps.ite ?_ ?_
            · refine ih ?_
              exact State.stripeState_keeps (by assumption)
            · refine Keeps.ite ?_ ?_
              · refine ih ?_
                exact State.stripeState_keeps (by assumption)
              · refine Keeps.ite ?_ ?_
                · refine ih ?_
                  exact State.publish_keeps (by assumption)
                · refine Keeps.ite ?_ ?_
                  · refine ih ?_
                    exact State.stripeState_keeps (by assumption)
                  · refine Keeps.ite ?_ ?_
                    · exact State.stripeCommitted_keeps (by assumption)
                    · assumption

theorem State.slotDone_keeps {s0 s : State} {x2 x3 x4 x5} (h : Keeps s0 s) :
    Keeps s0 (State.slotDone s x2 x3 x4 x5) := by
  unfold State.slotDone
  split
  · assumption
  · extract_lets n1 s2 n3 n4
    have hs2 : Keeps s0 s2 := by
      unfold s2
      exact State.setRed_keeps (by assumption)
    clear_value s2
    refine Keeps.ite ?_ ?_
    · refine State.stripeStep_keeps ?_
      refine State.putRecord_keeps ?_
      exact State.setStripe_keeps (by assumption)
    · assumption

theorem State.copyWritten_keeps {s0 s : State} {x2 x3 x4} (h : Keeps s0 s) : Keeps s0 (State.copyWritten s x2 x3 x4) := by
  refine ⟨h.queue, h.out, h.fuses, fun hs => ?_⟩
  obtain ⟨u, a, b, c, d⟩ := h.inv hs
  refine ⟨SqSt.uidsOk_map u (f := fun c => if c.stage = .started && c.src.stream = x2 && c.frame.seq = x3 then
    { c with copies := c.copies.map (fun l => if l.place = 64 + x4 then { l with written := true } else l) } else c)
    (fun c => ?_) rfl rfl, a, b, c, d⟩
  split <;> rfl

theorem State.takeRecord_keeps {s0 s : State} {x2 x3} (h : Keeps s0 s) : Keeps s0 (State.takeRecord s x2 x3) := by
  simp only [State.takeRecord]
  repeat' first
    | exact h
    | exact State.setRed_keeps h
    | split

theorem State.putEntry_keeps {s0 s : State} {x2 x3 x4} (h : Keeps s0 s) :
    Keeps s0 (State.putEntry s x2 x3 x4) := by
  unfold State.putEntry
  extract_lets n1 n2
  refine Keeps.ite ?_ ?_
  · refine Keeps.upd ?_ rfl rfl rfl --UPD .obj
    assumption
  · refine Keeps.upd ?_ rfl rfl rfl --UPD .obj
    assumption

theorem State.growUnits_keeps {s0 s : State} {x1 x3 x4} (h : Keeps s0 s) :
    Keeps.Pair s0 (State.growUnits x1 s x3 x4) := by
  induction x1 generalizing s x3 x4 with
  | zero =>
    rw [State.growUnits]
    refine Keeps.pair ?_
    assumption
  | succ n ih =>
    rw [State.growUnits]
    split
    refine ih ?_
    refine Keeps.of_eq ?_ (by assumption)
    extract_lets n1
    exact State.addUnit_keeps (by assumption)

theorem State.takeEntry_keeps {s0 s : State} {x2 x3} (h : Keeps s0 s) :
    Keeps s0 (State.takeEntry s x2 x3) := by
  unfold State.takeEntry
  extract_lets n1 n2 n3 n4 n5 n6 n7 n8 s9 n10 n11 n12
  have hs9 : Keeps s0 s9 := by
    unfold s9
    refine Keeps.upd ?_ rfl rfl rfl --UPD .red
    assumption
  clear_value s9
  refine Keeps.ite ?_ ?_
  · exact State.putEntry_keeps (by assumption)
  · split
    extract_lets s13 n14
    have hs13 : Keeps s0 s13 := by
      unfold s13
      refine Keeps.foldl _ ?_ (fun s _ h => ?_)
      · refine Keeps.of_eq ?_ (by assumption)
        exact State.growUnits_keeps (by assumption)
      · extract_lets n15 n16
        split
        · exact State.setUnit_keeps (by assumption)
        · assumption
        · exact State.setUnit_keeps (by assumption)
    clear_value s13
    exact State.putEntry_keeps (by assumption)

theorem State.dropProp_keeps {s0 s : State} {x2} (h : Keeps s0 s) :
    Keeps s0 (State.dropProp s x2) := by
  unfold State.dropProp
  extract_lets n1
  refine Keeps.upd ?_ rfl rfl rfl --UPD .obj
  assumption

theorem State.confirmHome_keeps {s0 s : State} {x2} (h : Keeps s0 s) :
    Keeps s0 (State.confirmHome s x2) := by
  unfold State.confirmHome
  refine Keeps.ite ?_ ?_
  · assumption
  · exact State.sendSeq_keeps (by assumption)

theorem State.settleProp_keeps {s0 s : State} {x2} (h : Keeps s0 s) :
    Keeps s0 (State.settleProp s x2) := by
  unfold State.settleProp
  split
  · assumption
  · extract_lets n1 s2
    have hs2 : Keeps s0 s2 := by
      unfold s2
      refine Keeps.upd ?_ rfl rfl rfl --UPD .obj
      assumption
    clear_value s2
    exact State.putEntry_keeps (by assumption)

theorem State.setObjs_keeps {s0 s : State} {x2} (h : Keeps s0 s) :
    Keeps s0 (State.setObjs s x2) := by
  unfold State.setObjs
  extract_lets n1
  refine Keeps.upd ?_ rfl rfl rfl --UPD .obj
  assumption

theorem State.dropEntry_keeps {s0 s : State} {x2} (h : Keeps s0 s) :
    Keeps s0 (State.dropEntry s x2) := by
  unfold State.dropEntry
  refine State.setObjs_keeps ?_
  exact State.dropProp_keeps (by assumption)

theorem State.reclaimCopies_keeps {s0 s : State} (h : Keeps s0 s) :
    Keeps s0 (State.reclaimCopies s) := by
  unfold State.reclaimCopies
  extract_lets n1 n2 n3 n4 s5
  have hs5 : Keeps s0 s5 := by
    unfold s5
    exact State.setRed_keeps (by assumption)
  clear_value s5
  refine Keeps.foldl _ ?_ (fun s _ h => ?_)
  · assumption
  · refine Keeps.ite ?_ ?_
    · exact State.releaseCopy_keeps (by assumption)
    · exact State.sendOp_keeps (by assumption)

theorem State.pollCopies_keeps {s0 s : State} (h : Keeps s0 s) :
    Keeps s0 (State.pollCopies s) := by
  unfold State.pollCopies
  split
  · assumption
  · refine Keeps.foldl _ ?_ (fun s _ h => ?_)
    · assumption
    · extract_lets s1 s2 s3
      have hs1 : Keeps s0 s1 := by
        unfold s1
        exact State.releaseCopy_keeps (by assumption)
      clear_value s1
      have hs2 : Keeps s0 s2 := by
        unfold s2
        split
        · refine Keeps.foldl _ ?_ (fun s _ h => ?_)
          · assumption
          · extract_lets n4 n5
            exact State.setUnit_keeps (by assumption)
        · assumption
      clear_value s2
      have hs3 : Keeps s0 s3 := by
        unfold s3
        exact State.setCopy_keeps (by assumption)
      clear_value s3
      refine Keeps.ite ?_ ?_
      · assumption
      · refine Keeps.ite ?_ ?_
        · refine Keeps.ite ?_ ?_
          · exact State.copyLost_keeps (by assumption)
          · exact State.sendOp_keeps (by assumption)
        · refine Keeps.ite ?_ ?_
          · refine Keeps.ite ?_ ?_
            · exact State.copyWritten_keeps (by assumption)
            · exact State.sendOp_keeps (by assumption)
          · split
            · exact State.placeRemote_keeps (by assumption)
            · refine Keeps.ite ?_ ?_
              · assumption
              · refine State.placeRemote_keeps ?_
                exact State.setCopy_keeps (by assumption)

end Sys2Proof.Machine
end

