-- ==== Sys2Proof/Laws/KeepsRecover.lean ====
section
/-!
SUPPORT. What every operation of Machine/Recover.lean keeps (Laws/Keeps.lean).
-/

set_option Elab.async false

namespace Sys2Proof.Machine

theorem State.abortStripe_keeps {s0 s : State} {x2} (h : Keeps s0 s) :
    Keeps s0 (State.abortStripe s x2) := by
  unfold State.abortStripe
  refine Keeps.foldl _ ?_ (fun s _ h => ?_)
  · assumption
  · refine Keeps.ite ?_ ?_
    · exact State.dropStrips_keeps (by assumption)
    · exact State.sendOp_keeps (by assumption)

theorem State.moveHomes_keeps {s0 s : State} {x2} (h : Keeps s0 s) :
    Keeps s0 (State.moveHomes s x2) := by
  unfold State.moveHomes
  extract_lets n1
  refine Keeps.ite ?_ ?_
  · refine Keeps.foldl _ ?_ (fun s _ h => ?_)
    · assumption
    · refine Keeps.ite ?_ ?_
      · assumption
      · exact State.tellHome_keeps (by assumption)
  · refine Keeps.upd ?_ rfl rfl rfl --UPD .obj
    assumption

theorem State.applyReloc_keeps {s0 s : State} (h : Keeps s0 s) :
    Keeps s0 (State.applyReloc s) := by
  unfold State.applyReloc
  extract_lets s1 n2
  have hs1 : Keeps s0 s1 := by
    unfold s1
    refine Keeps.foldl _ ?_ (fun s _ h => ?_)
    · assumption
    · extract_lets n3
      refine Keeps.ite ?_ ?_
      · exact State.setUnit_keeps (by assumption)
      · assumption
  clear_value s1
  exact State.setRed_keeps (by assumption)

theorem State.planReshape_keeps {s0 s : State} (h : Keeps s0 s) :
    Keeps s0 (State.planReshape s) := by
  unfold State.planReshape
  extract_lets n1 n2
  exact State.setRed_keeps (by assumption)

theorem State.copySuccessors_keeps {s0 s : State} (h : Keeps s0 s) : Keeps s0 (State.copySuccessors s) := by
  unfold State.copySuccessors
  refine Keeps.ite (State.setRed_keeps h) ?_
  split
  · exact State.setRed_keeps h
  · refine Keeps.foldl _ (State.setRed_keeps (State.setRed_keeps h)) fun s _ h => ?_
    exact Keeps.foldl _ h fun s _ h => State.sendSeqFor_keeps h

theorem State.dropMirrors_keeps {s0 s : State} (h : Keeps s0 s) :
    Keeps s0 (State.dropMirrors s) := by
  unfold State.dropMirrors
  extract_lets n1 n2
  exact State.setRed_keeps (by assumption)

theorem State.setItem_keeps {s0 s : State} {x2} (h : Keeps s0 s) :
    Keeps s0 (State.setItem s x2) := by
  unfold State.setItem
  extract_lets n1
  exact State.setRed_keeps (by assumption)

theorem State.reviewRebuild_keeps {s0 s : State} {x2} (h : Keeps s0 s) :
    Keeps s0 (State.reviewRebuild s x2) := by
  unfold State.reviewRebuild
  extract_lets n1 s2 s3
  have hs2 : Keeps s0 s2 := by
    unfold s2
    exact State.setRed_keeps (by assumption)
  clear_value s2
  have hs3 : Keeps s0 s3 := by
    unfold s3
    refine Keeps.ite ?_ ?_
    · exact State.raise_keeps (by assumption)
    · assumption
  clear_value s3
  split
  · assumption
  · split
    · assumption
    · extract_lets n4 n5 n6 n7
      refine Keeps.ite ?_ ?_
      · refine State.putRecord_keeps ?_
        refine State.setStripe_keeps ?_
        exact State.setItem_keeps (by assumption)
      · assumption

theorem State.queueRebuild_keeps {s0 s : State} {x2} (h : Keeps s0 s) :
    Keeps s0 (State.queueRebuild s x2) := by
  unfold State.queueRebuild
  extract_lets n1 n2 n3 s4
  have hs4 : Keeps s0 s4 := by
    unfold s4
    exact State.setRed_keeps (by assumption)
  clear_value s4
  refine Keeps.ite ?_ ?_
  · exact State.raise_keeps (by assumption)
  · assumption

theorem State.listRow_keeps {s0 s : State} {x2} (h : Keeps s0 s) :
    Keeps s0 (State.listRow s x2) := by
  unfold State.listRow
  extract_lets n1
  refine Keeps.ite ?_ ?_
  · exact State.queueRebuild_keeps (by assumption)
  · exact State.sendSeq_keeps (by assumption)

theorem State.recoverCopies_keeps {s0 s : State} {x2 x3} (h : Keeps s0 s) :
    Keeps s0 (State.recoverCopies s x2 x3) := by
  unfold State.recoverCopies
  extract_lets n1
  refine Keeps.foldl _ ?_ (fun s _ h => ?_)
  · assumption
  · refine Keeps.foldl _ ?_ (fun s _ h => ?_)
    · assumption
    · exact State.copyLost_keeps (by assumption)

theorem State.resume_keeps {s0 s : State} {x2} (h : Keeps s0 s) :
    Keeps s0 (State.resume s x2) := by
  unfold State.resume
  extract_lets s1 n2 n3 n4
  have hs1 : Keeps s0 s1 := by
    unfold s1
    exact State.abortStripe_keeps (by assumption)
  clear_value s1
  refine Keeps.ite ?_ ?_
  · assumption
  · refine Keeps.ite ?_ ?_
    · exact State.releaseLanded_keeps (by assumption)
    · refine Keeps.ite ?_ ?_
      · assumption
      · refine Keeps.ite ?_ ?_
        · assumption
        · exact State.openStripe_keeps (by assumption)

theorem State.endTake_keeps {s0 s : State} {x2} (h : Keeps s0 s) :
    Keeps s0 (State.endTake s x2) := by
  unfold State.endTake
  extract_lets n1 n2 s3 s4 s5 n6
  have hs3 : Keeps s0 s3 := by
    unfold s3
    exact State.setRed_keeps (by assumption)
  clear_value s3
  have hs4 : Keeps s0 s4 := by
    unfold s4
    refine State.raise_keeps ?_
    exact State.wr_keeps (by assumption)
  clear_value s4
  have hs5 : Keeps s0 s5 := by
    unfold s5
    refine Keeps.foldl _ ?_ (fun s _ h => ?_)
    · assumption
    · exact State.resume_keeps (by assumption)
  clear_value s5
  exact State.setRed_keeps (by assumption)

theorem State.askTake_keeps {s0 s : State} {x2} (h : Keeps s0 s) :
    Keeps s0 (State.askTake s x2) := by
  unfold State.askTake
  split
  · assumption
  · extract_lets n1 n2 n3 n4 s5
    have hs5 : Keeps s0 s5 := by
      unfold s5
      exact State.setRed_keeps (by assumption)
    clear_value s5
    refine Keeps.ite ?_ ?_
    · exact State.endTake_keeps (by assumption)
    · refine Keeps.foldl _ ?_ (fun s _ h => ?_)
      · assumption
      · exact State.sendSeq_keeps (by assumption)

theorem State.redAdopt_keeps {s0 s : State} {x2 x3} (h : Keeps s0 s) :
    Keeps s0 (State.redAdopt s x2 x3) := by
  unfold State.redAdopt
  extract_lets n1 n2 n3 n4
  split
  extract_lets s5 n6 s7 s8 s9 s10 s11 s12 s13 s14 s15 n16 n17 n18 s19 s20 n21 s22 s23
  have hs5 : Keeps s0 s5 := by
    unfold s5
    refine State.moveHomes_keeps ?_
    refine Keeps.of_eq ?_ (by assumption)
    exact State.adoptRows_keeps (by assumption)
  clear_value s5
  have hs7 : Keeps s0 s7 := by
    unfold s7
    refine Keeps.ite ?_ ?_
    · refine State.setRed_keeps ?_
      exact State.applyReloc_keeps (by assumption)
    · assumption
  clear_value s7
  have hs8 : Keeps s0 s8 := by
    unfold s8
    refine Keeps.ite ?_ ?_
    · exact State.raise_keeps (by assumption)
    · assumption
  clear_value s8
  have hs9 : Keeps s0 s9 := by
    unfold s9
    refine Keeps.ite ?_ ?_
    · exact State.planReshape_keeps (by assumption)
    · assumption
  clear_value s9
  have hs10 : Keeps s0 s10 := by
    unfold s10
    refine Keeps.ite ?_ ?_
    · exact State.raise_keeps (by assumption)
    · assumption
  clear_value s10
  have hs11 : Keeps s0 s11 := by
    unfold s11
    exact State.moveSlots_keeps (by assumption)
  clear_value s11
  have hs12 : Keeps s0 s12 := by
    unfold s12
    exact State.copySuccessors_keeps (by assumption)
  clear_value s12
  have hs13 : Keeps s0 s13 := by
    unfold s13
    exact State.dropMirrors_keeps (by assumption)
  clear_value s13
  have hs14 : Keeps s0 s14 := by
    unfold s14
    exact State.reviewRebuild_keeps (by assumption)
  clear_value s14
  have hs15 : Keeps s0 s15 := by
    unfold s15
    refine Keeps.foldl _ ?_ (fun s _ h => ?_)
    · assumption
    · exact State.listRow_keeps (by assumption)
  clear_value s15
  have hs19 : Keeps s0 s19 := by
    unfold s19
    exact State.setRed_keeps (by assumption)
  clear_value s19
  have hs20 : Keeps s0 s20 := by
    unfold s20
    refine Keeps.ite ?_ ?_
    · refine Keeps.foldl _ ?_ (fun s _ h => ?_)
      · assumption
      · exact State.listRow_keeps (by assumption)
    · assumption
  clear_value s20
  have hs22 : Keeps s0 s22 := by
    unfold s22
    refine Keeps.foldl _ ?_ (fun s _ h => ?_)
    · assumption
    · refine Keeps.foldl _ ?_ (fun s _ h => ?_)
      · assumption
      · exact State.sendSeq_keeps (by assumption)
  clear_value s22
  have hs23 : Keeps s0 s23 := by
    unfold s23
    refine Keeps.ite ?_ ?_
    · exact State.recoverCopies_keeps (by assumption)
    · assumption
  clear_value s23
  refine Keeps.ite ?_ ?_
  · refine Keeps.foldl _ ?_ (fun s _ h => ?_)
    · assumption
    · exact State.askTake_keeps (by assumption)
  · assumption

theorem State.rebuildStarted_keeps {s0 s : State} {x2} (h : Keeps s0 s) :
    Keeps s0 (State.rebuildStarted s x2) := by
  unfold State.rebuildStarted
  exact State.raise_keeps (by assumption)

theorem State.answerList_keeps {s0 s : State} {x2 x3} (h : Keeps s0 s) :
    Keeps s0 (State.answerList s x2 x3) := by
  unfold State.answerList
  extract_lets n1 n2 n3
  refine Keeps.foldl _ ?_ (fun s _ h => ?_)
  · assumption
  · extract_lets n4
    exact State.sendSeq_keeps (by assumption)

theorem State.answerTake_keeps {s0 s : State} {x2 x3} (h : Keeps s0 s) :
    Keeps s0 (State.answerTake s x2 x3) := by
  unfold State.answerTake
  extract_lets n1 n2 n3
  refine Keeps.foldl _ ?_ (fun s _ h => ?_)
  · assumption
  · extract_lets n4
    exact State.sendSeq_keeps (by assumption)

theorem State.takeRecords_keeps {s0 s : State} {x2 x3 x4 x5} (h : Keeps s0 s) :
    Keeps s0 (State.takeRecords s x2 x3 x4 x5) := by
  unfold State.takeRecords
  split
  · assumption
  · extract_lets n1 n2 s3
    have hs3 : Keeps s0 s3 := by
      unfold s3
      exact State.setRed_keeps (by assumption)
    clear_value s3
    refine Keeps.ite ?_ ?_
    · exact State.endTake_keeps (by assumption)
    · assumption

theorem State.mergeIndex_keeps {s0 s : State} {x2} (h : Keeps s0 s) :
    Keeps s0 (State.mergeIndex s x2) := by
  unfold State.mergeIndex
  extract_lets n1 n2 n3
  split
  · exact State.takeDirectory_keeps (by assumption)
  · exact State.takeDirectory_keeps (by assumption)

theorem State.checkIndex_keeps {s0 s : State} {x2 x3 x4} (h : Keeps s0 s) :
    Keeps s0 (State.checkIndex s x2 x3 x4) := by
  unfold State.checkIndex
  split
  · assumption
  · extract_lets n1 n2 s3 n4
    have hs3 : Keeps s0 s3 := by
      unfold s3
      exact State.setRed_keeps (by assumption)
    clear_value s3
    refine Keeps.ite ?_ ?_
    · exact State.setRed_keeps (by assumption)
    · exact State.dropStrips_keeps (by assumption)

theorem State.dropStale_keeps {s0 s : State} {x2} (h : Keeps s0 s) :
    Keeps s0 (State.dropStale s x2) := by
  unfold State.dropStale
  refine Keeps.ite ?_ ?_
  · assumption
  · exact State.dropStrips_keeps (by assumption)

theorem State.takeList_keeps {s0 s : State} {x2 x3 x4} (h : Keeps s0 s) :
    Keeps s0 (State.takeList s x2 x3 x4) := by
  unfold State.takeList
  extract_lets n1 n2 n3 s4 n5
  have hs4 : Keeps s0 s4 := by
    unfold s4
    refine Keeps.foldl _ ?_ (fun s _ h => ?_)
    · assumption
    · extract_lets n6 n7
      exact State.mergeIndex_keeps (by assumption)
  clear_value s4
  refine State.queueRebuild_keeps ?_
  refine State.checkIndex_keeps ?_
  refine Keeps.foldl _ ?_ (fun s _ h => ?_)
  · assumption
  · exact State.dropStale_keeps (by assumption)

theorem State.readSources_keeps {s0 s : State} {x2 x3} (h : Keeps s0 s) :
    Keeps s0 (State.readSources s x2 x3) := by
  unfold State.readSources
  extract_lets n1
  refine Keeps.foldl _ ?_ (fun s _ h => ?_)
  · assumption
  · extract_lets n2
    split
    · assumption
    · refine Keeps.ite ?_ ?_
      · split
        · exact State.setItem_keeps (by assumption)
        · exact State.setItem_keeps (by assumption)
      · refine State.sendSeq_keeps ?_
        exact State.setItem_keeps (by assumption)

theorem State.bytesLost_keeps {s0 s : State} {x2 x3 x4} (h : Keeps s0 s) :
    Keeps s0 (State.bytesLost s x2 x3 x4) := by
  unfold State.bytesLost
  extract_lets s1 n2
  have hs1 : Keeps s0 s1 := by
    unfold s1
    refine State.raise_keeps ?_
    refine State.inc_keeps ?_
    exact State.wr_keeps (by assumption)
  clear_value s1
  exact State.loseUnits_keeps (by assumption)

theorem State.rebuildProgress_keeps {s0 s : State} (h : Keeps s0 s) :
    Keeps s0 (State.rebuildProgress s) := by
  unfold State.rebuildProgress
  extract_lets n1 n2 n3
  refine Keeps.ite ?_ ?_
  · refine State.raise_keeps ?_
    exact State.setRed_keeps (by assumption)
  · assumption

theorem State.rebuildTarget_keeps {s0 s : State} {x2} (h : Keeps s0 s) :
    Keeps s0 (State.rebuildTarget s x2) := by
  unfold State.rebuildTarget
  extract_lets n1 n2 n3
  split
  extract_lets n4 s5 n6 s7 n8 s9 s10
  have hs5 : Keeps s0 s5 := by
    unfold s5
    refine Keeps.ite ?_ ?_
    · exact State.bytesLost_keeps (by assumption)
    · assumption
  clear_value s5
  have hs7 : Keeps s0 s7 := by
    unfold s7
    refine Keeps.foldl _ ?_ (fun s _ h => ?_)
    · assumption
    · refine Keeps.foldl _ ?_ (fun s _ h => ?_)
      · assumption
      · split
        extract_lets n11 n12
        refine Keeps.ite ?_ ?_
        · assumption
        · refine Keeps.foldl _ ?_ (fun s _ h => ?_)
          · assumption
          · extract_lets n13
            exact State.sendSeq_keeps (by assumption)
  clear_value s7
  have hs9 : Keeps s0 s9 := by
    unfold s9
    exact State.setRed_keeps (by assumption)
  clear_value s9
  have hs10 : Keeps s0 s10 := by
    unfold s10
    exact State.rebuildProgress_keeps (by assumption)
  clear_value s10
  refine Keeps.ite ?_ ?_
  · exact State.readSources_keeps (by assumption)
  · exact State.takeStrip_keeps (by assumption)

theorem State.stepRebuild_keeps {s0 s : State} (h : Keeps s0 s) :
    Keeps s0 (State.stepRebuild s) := by
  unfold State.stepRebuild
  split
  · assumption
  · split
    · assumption
    · extract_lets n1
      refine Keeps.ite ?_ ?_
      · assumption
      · refine Keeps.ite ?_ ?_
        · refine State.readSources_keeps ?_
          exact State.setStripe_keeps (by assumption)
        · refine Keeps.ite ?_ ?_
          · exact State.rebuildTarget_keeps (by assumption)
          · assumption

theorem State.takeRebuildData_keeps {s0 s : State} {x2 x3 x4 x5 x6 x7 x8 x9} (h : Keeps s0 s) :
    Keeps s0 (State.takeRebuildData s x2 x3 x4 x5 x6 x7 x8 x9) := by
  unfold State.takeRebuildData
  split
  · extract_lets n1 s2
    have hs2 : Keeps s0 s2 := by
      unfold s2
      exact State.setItem_keeps (by assumption)
    clear_value s2
    exact State.stepRebuild_keeps (by assumption)
  · split
    · assumption
    · extract_lets n3 n4 n5 n6 n7 s8 n9 n10 s11
      have hs8 : Keeps s0 s8 := by
        unfold s8
        exact State.setStrip_keeps (by assumption)
      clear_value s8
      have hs11 : Keeps s0 s11 := by
        unfold s11
        exact State.setUnit_keeps (by assumption)
      clear_value s11
      refine Keeps.ite ?_ ?_
      · exact State.setStrip_keeps (by assumption)
      · refine Keeps.ite ?_ ?_
        · assumption
        · split
          · exact State.reallocate_keeps (by assumption)
          · assumption

theorem State.endSuccCopy_keeps {s0 s : State} (h : Keeps s0 s) :
    Keeps s0 (State.endSuccCopy s) := by
  unfold State.endSuccCopy
  split
  · assumption
  · extract_lets n1
    refine Keeps.ite ?_ ?_
    · assumption
    · refine State.raise_keeps ?_
      exact State.setRed_keeps (by assumption)

theorem State.pollStrips_keeps {s0 s : State} (h : Keeps s0 s) :
    Keeps s0 (State.pollStrips s) := by
  unfold State.pollStrips
  extract_lets n1
  refine Keeps.foldl _ ?_ (fun s _ h => ?_)
  · assumption
  · extract_lets s2 s3
    have hs2 : Keeps s0 s2 := by
      unfold s2
      exact State.setStrip_keeps (by assumption)
    clear_value s2
    have hs3 : Keeps s0 s3 := by
      unfold s3
      exact State.dropStrips_keeps (by assumption)
    clear_value s3
    refine Keeps.ite ?_ ?_
    · assumption
    · refine Keeps.ite ?_ ?_
      · refine Keeps.ite ?_ ?_
        · exact State.slotDone_keeps (by assumption)
        · exact State.sendOp_keeps (by assumption)
      · refine Keeps.ite ?_ ?_
        · refine Keeps.ite ?_ ?_
          · exact State.sendOp_keeps (by assumption)
          · split
            · refine Keeps.ite ?_ ?_
              · exact State.moveSlot_keeps (by assumption)
              · assumption
            · assumption
        · assumption

theorem State.findLost_keeps {s0 s : State} (h : Keeps s0 s) :
    Keeps s0 (State.findLost s) := by
  unfold State.findLost
  extract_lets n1 n2 s3
  have hs3 : Keeps s0 s3 := by
    unfold s3
    refine Keeps.ite ?_ ?_
    · exact State.rebuildStarted_keeps (by assumption)
    · assumption
  clear_value s3
  refine Keeps.ite ?_ ?_
  · assumption
  · refine Keeps.foldl _ ?_ (fun s _ h => ?_)
    · exact State.dropStrips_keeps (by assumption)
    · exact State.listRow_keeps (by assumption)

theorem State.startRebuild_keeps {s0 s : State} (h : Keeps s0 s) :
    Keeps s0 (State.startRebuild s) := by
  unfold State.startRebuild
  refine Keeps.ite ?_ ?_
  · assumption
  · split
    · assumption
    · extract_lets n1 n2
      refine State.openStripe_keeps ?_
      exact State.setItem_keeps (by assumption)

theorem State.stepReshape_keeps {s0 s : State} (h : Keeps s0 s) :
    Keeps s0 (State.stepReshape s) := by
  unfold State.stepReshape
  extract_lets n1 n2 n3
  refine Keeps.ite ?_ ?_
  · assumption
  · split
    · assumption
    · extract_lets n4 n5 n6 n7
      refine Keeps.ite ?_ ?_
      · exact State.setRed_keeps (by assumption)
      · refine Keeps.ite ?_ ?_
        · refine Keeps.foldl _ ?_ (fun s _ h => ?_)
          · assumption
          · exact State.fetchUnit_keeps (by assumption)
        · refine State.openStripe_keeps ?_
          exact State.setRed_keeps (by assumption)

theorem State.redStep_keeps {s0 s : State} (h : Keeps s0 s) :
    Keeps s0 (State.redStep s) := by
  unfold State.redStep
  extract_lets s1 s2 s3 s4 s5 s6 s7
  have hs1 : Keeps s0 s1 := by
    unfold s1
    exact State.endSuccCopy_keeps (by assumption)
  clear_value s1
  have hs2 : Keeps s0 s2 := by
    unfold s2
    refine Keeps.foldl _ ?_ (fun s _ h => ?_)
    · assumption
    · exact State.stripeStep_keeps (by assumption)
  clear_value s2
  have hs3 : Keeps s0 s3 := by
    unfold s3
    refine State.reclaimCopies_keeps ?_
    exact State.pollCopies_keeps (by assumption)
  clear_value s3
  have hs4 : Keeps s0 s4 := by
    unfold s4
    exact State.pollStrips_keeps (by assumption)
  clear_value s4
  have hs5 : Keeps s0 s5 := by
    unfold s5
    refine Keeps.ite ?_ ?_
    · exact State.findLost_keeps (by assumption)
    · assumption
  clear_value s5
  have hs6 : Keeps s0 s6 := by
    unfold s6
    refine State.stepRebuild_keeps ?_
    exact State.startRebuild_keeps (by assumption)
  clear_value s6
  have hs7 : Keeps s0 s7 := by
    unfold s7
    exact State.gatherFull_keeps (by assumption)
  clear_value s7
  refine Keeps.ite ?_ ?_
  · assumption
  · exact State.stepReshape_keeps (by assumption)

theorem execStripeCloseTimeout_keeps {s0 s : State} (h : Keeps s0 s) :
    Keeps.Out s0 (execStripeCloseTimeout s) := by
  unfold execStripeCloseTimeout
  refine Keeps.next ?_
  refine State.redStep_keeps ?_
  exact State.closeStripe_keeps (by assumption)

theorem execRebuildShareUpdate_keeps {s0 s : State} {x1} (h : Keeps s0 s) :
    Keeps.Out s0 (execRebuildShareUpdate x1 s) := by
  unfold execRebuildShareUpdate
  extract_lets s1 n2 n3 n4 n5 s6 s7
  have hs1 : Keeps s0 s1 := by
    unfold s1
    refine State.wr_keeps ?_
    refine State.wr_keeps ?_
    exact State.unask_keeps (by assumption)
  clear_value s1
  have hs6 : Keeps s0 s6 := by
    unfold s6
    exact State.wr_keeps (by assumption)
  clear_value s6
  have hs7 : Keeps s0 s7 := by
    unfold s7
    refine Keeps.ite ?_ ?_
    · exact State.setShare_keeps (by assumption)
    · assumption
  clear_value s7
  refine Keeps.iteOut ?_ ?_
  · refine Keeps.next ?_
    refine State.wr_keeps ?_
    exact State.wr_keeps (by assumption)
  · refine Keeps.next ?_
    refine Keeps.ite ?_ ?_
    · exact State.ask_keeps (by assumption)
    · refine State.setShare_keeps ?_
      exact State.unask_keeps (by assumption)

end Sys2Proof.Machine
end

