-- ==== Sys2Proof/Laws/KeepsGroup.lean ====
section
/-!
SUPPORT. What every operation of Machine/Group.lean keeps (Laws/Keeps.lean).
-/

set_option Elab.async false

namespace Sys2Proof.Machine

theorem State.sendMgmtCmd_keeps {s0 s : State} {x2 x3 x4 x5 x6} (h : Keeps s0 s) :
    Keeps s0 (State.sendMgmtCmd s x2 x3 x4 x5 x6) := by
  unfold State.sendMgmtCmd
  extract_lets n1 n2 n3 s4
  have hs4 : Keeps s0 s4 := by
    unfold s4
    exact State.setGrp_keeps (by assumption)
  clear_value s4
  refine Keeps.foldl _ ?_ (fun s _ h => ?_)
  · assumption
  · exact State.sendSeq_keeps (by assumption)

theorem State.mirrorSeq_keeps {s0 s : State} {x2 x3 x4 x5} (h : Keeps s0 s) :
    Keeps s0 (State.mirrorSeq s x2 x3 x4 x5) := by
  unfold State.mirrorSeq
  exact State.sendSeq_keeps (by assumption)

theorem State.copyToDeputy_keeps {s0 s : State} {x2} (h : Keeps s0 s) :
    Keeps s0 (State.copyToDeputy s x2) := by
  unfold State.copyToDeputy
  extract_lets n1 s2 s3 s4
  have hs2 : Keeps s0 s2 := by
    unfold s2
    exact State.setGrp_keeps (by assumption)
  clear_value s2
  have hs3 : Keeps s0 s3 := by
    unfold s3
    refine Keeps.foldl _ ?_ (fun s _ h => ?_)
    · assumption
    · exact State.mirrorSeq_keeps (by assumption)
  clear_value s3
  have hs4 : Keeps s0 s4 := by
    unfold s4
    exact State.sendSeq_keeps (by assumption)
  clear_value s4
  refine Keeps.foldl _ ?_ (fun s _ h => ?_)
  · assumption
  · refine Keeps.ite ?_ ?_
    · exact State.sendMgmtCmd_keeps (by assumption)
    · assumption

theorem State.epochStale_keeps {s0 s : State} {x2} (h : Keeps s0 s) :
    Keeps s0 (State.epochStale s x2) := by
  unfold State.epochStale
  split
  · extract_lets s1
    have hs1 : Keeps s0 s1 := by
      unfold s1
      refine Keeps.ite ?_ ?_
      · exact State.withdrawHome_keeps (by assumption)
      · assumption
    clear_value s1
    refine State.fail_keeps ?_
    exact State.discardWork_keeps (by assumption)
  · assumption

theorem State.leaveGroup_keeps {s0 s : State} (h : Keeps s0 s) :
    Keeps s0 (State.leaveGroup s) := by
  unfold State.leaveGroup
  extract_lets n1 s2 n3 n4
  have hs2 : Keeps s0 s2 := by
    unfold s2
    exact State.setGrp_keeps (by assumption)
  clear_value s2
  refine Keeps.upd ?_ rfl rfl rfl --UPD .obj, .red
  assumption

theorem State.adopt_keeps {s0 s : State} {x2} (h : Keeps s0 s) :
    Keeps s0 (State.adopt s x2) := by
  unfold State.adopt
  extract_lets n1 n2 n3 s4 n5 n6 s7 s8 s9 s10 s11 s12 s13 s14 n15 n16 s17
  have hs4 : Keeps s0 s4 := by
    unfold s4
    exact State.storeRec_keeps (by assumption)
  clear_value s4
  have hs7 : Keeps s0 s7 := by
    unfold s7
    exact State.setGrp_keeps (by assumption)
  clear_value s7
  have hs8 : Keeps s0 s8 := by
    unfold s8
    refine Keeps.ite ?_ ?_
    · exact State.wr_keeps (by assumption)
    · assumption
  clear_value s8
  have hs9 : Keeps s0 s9 := by
    unfold s9
    exact State.raise_keeps (by assumption)
  clear_value s9
  have hs10 : Keeps s0 s10 := by
    unfold s10
    refine Keeps.ite ?_ ?_
    · exact State.raise_keeps (by assumption)
    · assumption
  clear_value s10
  have hs11 : Keeps s0 s11 := by
    unfold s11
    refine Keeps.ite ?_ ?_
    · exact State.raise_keeps (by assumption)
    · assumption
  clear_value s11
  have hs12 : Keeps s0 s12 := by
    unfold s12
    refine Keeps.ite ?_ ?_
    · refine Keeps.foldl _ ?_ (fun s _ h => ?_)
      · assumption
      · exact State.epochStale_keeps (by assumption)
    · assumption
  clear_value s12
  have hs13 : Keeps s0 s13 := by
    unfold s13
    refine Keeps.foldl _ ?_ (fun s _ h => ?_)
    · assumption
    · refine Keeps.ite ?_ ?_
      · split
        · exact State.epochStale_keeps (by assumption)
        · assumption
      · refine Keeps.ite ?_ ?_
        · exact State.sendSeqFor_keeps (by assumption)
        · assumption
  clear_value s13
  have hs14 : Keeps s0 s14 := by
    unfold s14
    refine Keeps.ite ?_ ?_
    · exact State.leaveGroup_keeps (by assumption)
    · exact State.redAdopt_keeps (by assumption)
  clear_value s14
  have hs17 : Keeps s0 s17 := by
    unfold s17
    refine Keeps.ite ?_ ?_
    · assumption
    · refine Keeps.ite ?_ ?_
      · refine Keeps.upd ?_ rfl rfl rfl --UPD .obj
        assumption
      · refine Keeps.ite ?_ ?_
        · refine State.pushMap_keeps ?_
          exact State.setRed_keeps (by assumption)
        · assumption
  clear_value s17
  exact State.reroute_keeps (by assumption)

theorem State.mgmtSend_keeps {s0 s : State} {x2} (h : Keeps s0 s) :
    Keeps s0 (State.mgmtSend s x2) := by
  unfold State.mgmtSend
  exact State.emit_keeps (by assumption)

theorem State.mgmtReply_keeps {s0 s : State} {x2 x3 x4 x5} (h : Keeps s0 s) :
    Keeps s0 (State.mgmtReply s x2 x3 x4 x5) := by
  unfold State.mgmtReply
  exact State.mgmtSend_keeps (by assumption)

theorem State.answerAdmin_keeps {s0 s : State} {x2 x3 x4 x5} (h : Keeps s0 s) :
    Keeps s0 (State.answerAdmin s x2 x3 x4 x5) := by
  unfold State.answerAdmin
  refine Keeps.ite ?_ ?_
  · exact State.mgmtReply_keeps (by assumption)
  · exact State.sendSeq_keeps (by assumption)

theorem State.answerChange_keeps {s0 s : State} {x2 x3 x4} (h : Keeps s0 s) :
    Keeps s0 (State.answerChange s x2 x3 x4) := by
  unfold State.answerChange
  extract_lets s1
  have hs1 : Keeps s0 s1 := by
    unfold s1
    split
    · split
      · exact State.finish_keeps (by assumption)
      · assumption
    · assumption
  clear_value s1
  split
  · exact State.answerAdmin_keeps (by assumption)
  · assumption

theorem State.commitChange_keeps {s0 s : State} {x2} (h : Keeps s0 s) :
    Keeps s0 (State.commitChange s x2) := by
  unfold State.commitChange
  extract_lets n1 n2 n3 s4 n5 s6 s7 s8 s9 n10 s11 n12 s13
  have hs4 : Keeps s0 s4 := by
    unfold s4
    exact State.setGrp_keeps (by assumption)
  clear_value s4
  have hs6 : Keeps s0 s6 := by
    unfold s6
    refine Keeps.upd ?_ rfl rfl rfl --UPD .red
    assumption
  clear_value s6
  have hs7 : Keeps s0 s7 := by
    unfold s7
    refine State.adopt_keeps ?_
    exact State.moveRows_keeps (by assumption)
  clear_value s7
  have hs8 : Keeps s0 s8 := by
    unfold s8
    refine Keeps.foldl _ ?_ (fun s _ h => ?_)
    · assumption
    · exact State.raise_keeps (by assumption)
  clear_value s8
  have hs9 : Keeps s0 s9 := by
    unfold s9
    refine Keeps.foldl _ ?_ (fun s _ h => ?_)
    · assumption
    · refine State.rebuildStarted_keeps ?_
      exact State.raise_keeps (by assumption)
  clear_value s9
  have hs11 : Keeps s0 s11 := by
    unfold s11
    exact State.setGrp_keeps (by assumption)
  clear_value s11
  have hs13 : Keeps s0 s13 := by
    unfold s13
    refine Keeps.foldl _ ?_ (fun s _ h => ?_)
    · assumption
    · exact State.sendPlain_keeps (by assumption)
  clear_value s13
  exact State.answerChange_keeps (by assumption)

theorem State.runChange_keeps {s0 s : State} (h : Keeps s0 s) :
    Keeps s0 (State.runChange s) := by
  unfold State.runChange
  split
  · assumption
  · extract_lets s1
    have hs1 : Keeps s0 s1 := by
      unfold s1
      exact State.storeRec_keeps (by assumption)
    clear_value s1
    refine Keeps.ite ?_ ?_
    · assumption
    · refine Keeps.ite ?_ ?_
      · exact State.sendPlain_keeps (by assumption)
      · exact State.commitChange_keeps (by assumption)

theorem State.nextChange_keeps {s0 s : State} (h : Keeps s0 s) :
    Keeps s0 (State.nextChange s) := by
  unfold State.nextChange
  split
  · extract_lets n1 s2 s3
    have hs2 : Keeps s0 s2 := by
      unfold s2
      exact State.setGrp_keeps (by assumption)
    clear_value s2
    have hs3 : Keeps s0 s3 := by
      unfold s3
      refine Keeps.ite ?_ ?_
      · exact State.copyToDeputy_keeps (by assumption)
      · assumption
    clear_value s3
    exact State.runChange_keeps (by assumption)
  · assumption

theorem State.askChange_keeps {s0 s : State} {x2 x3 x4} (h : Keeps s0 s) :
    Keeps s0 (State.askChange s x2 x3 x4) := by
  unfold State.askChange
  split
  · assumption
  · extract_lets n1 n2 n3 n4
    refine State.nextChange_keeps ?_
    exact State.setGrp_keeps (by assumption)

theorem State.activateJoined_keeps {s0 s : State} (h : Keeps s0 s) :
    Keeps s0 (State.activateJoined s) := by
  unfold State.activateJoined
  split
  · assumption
  · extract_lets n1 n2
    refine Keeps.ite ?_ ?_
    · exact State.askChange_keeps (by assumption)
    · assumption

theorem State.noDeputy_keeps {s0 s : State} {x2} (h : Keeps s0 s) :
    Keeps s0 (State.noDeputy s x2) := by
  unfold State.noDeputy
  refine Keeps.ite ?_ ?_
  · assumption
  · refine State.raise_keeps ?_
    exact State.wr_keeps (by assumption)

theorem State.takeLead_keeps {s0 s : State} {x2} (h : Keeps s0 s) :
    Keeps s0 (State.takeLead s x2) := by
  unfold State.takeLead
  extract_lets n1 s2 n3 s4
  have hs2 : Keeps s0 s2 := by
    unfold s2
    exact State.setGrp_keeps (by assumption)
  clear_value s2
  have hs4 : Keeps s0 s4 := by
    unfold s4
    exact State.noDeputy_keeps (by assumption)
  clear_value s4
  refine Keeps.ite ?_ ?_
  · exact State.askChange_keeps (by assumption)
  · assumption

theorem State.takeId_keeps {s0 s : State} {x2} (h : Keeps s0 s) :
    Keeps s0 (State.takeId s x2) := by
  unfold State.takeId
  extract_lets s1
  have hs1 : Keeps s0 s1 := by
    unfold s1
    refine State.wr_keeps ?_
    exact State.wr_keeps (by assumption)
  clear_value s1
  refine State.portsChanged_keeps ?_
  exact State.raise_keeps (by assumption)

theorem State.takeHello_keeps {s0 s : State} {x2 x3 x4 x5 x6 x7} (h : Keeps s0 s) :
    Keeps s0 (State.takeHello s x2 x3 x4 x5 x6 x7) := by
  unfold State.takeHello
  extract_lets n1 n2 s3 s4 n5 s6
  have hs3 : Keeps s0 s3 := by
    unfold s3
    refine State.wr_keeps ?_
    exact State.wri_keeps (by assumption)
  clear_value s3
  have hs4 : Keeps s0 s4 := by
    unfold s4
    refine State.wri_keeps ?_
    exact State.wri_keeps (by assumption)
  clear_value s4
  have hs6 : Keeps s0 s6 := by
    unfold s6
    exact State.setPort_keeps (by assumption)
  clear_value s6
  refine Keeps.ite ?_ ?_
  · refine State.portsChanged_keeps ?_
    exact State.raise_keeps (by assumption)
  · split
    · refine Keeps.ite ?_ ?_
      · exact State.raise_keeps (by assumption)
      · refine Keeps.ite ?_ ?_
        · exact State.askChange_keeps (by assumption)
        · assumption
    · refine Keeps.ite ?_ ?_
      · split
        · exact State.takeId_keeps (by assumption)
        · assumption
      · assumption

theorem State.discoverOn_keeps {s0 s : State} {x2 x3 x4} (h : Keeps s0 s) :
    Keeps s0 (State.discoverOn s x2 x3 x4) := by
  unfold State.discoverOn
  split
  · exact State.sendLink_keeps (by assumption)
  · assumption

theorem State.takeAssign_keeps {s0 s : State} {x2 x3} (h : Keeps s0 s) :
    Keeps s0 (State.takeAssign s x2 x3) := by
  unfold State.takeAssign
  refine Keeps.ite ?_ ?_
  · assumption
  · refine State.discoverOn_keeps ?_
    exact State.takeId_keeps (by assumption)

theorem State.takeProbe_keeps {s0 s : State} {x2 x3} (h : Keeps s0 s) :
    Keeps s0 (State.takeProbe s x2 x3) := by
  unfold State.takeProbe
  extract_lets n1
  refine Keeps.ite ?_ ?_
  · refine Keeps.ite ?_ ?_
    · assumption
    · refine Keeps.ite ?_ ?_
      · refine State.raise_keeps ?_
        exact State.setGrp_keeps (by assumption)
      · refine State.discoverOn_keeps ?_
        refine State.takeId_keeps ?_
        exact State.setGrp_keeps (by assumption)
  · refine Keeps.ite ?_ ?_
    · assumption
    · exact State.discoverOn_keeps (by assumption)

theorem State.takeLinkState_keeps {s0 s : State} {x2 x3 x4 x5} (h : Keeps s0 s) :
    Keeps s0 (State.takeLinkState s x2 x3 x4 x5) := by
  unfold State.takeLinkState
  extract_lets n1 n2 s3 s4
  have hs3 : Keeps s0 s3 := by
    unfold s3
    exact State.setGrp_keeps (by assumption)
  clear_value s3
  have hs4 : Keeps s0 s4 := by
    unfold s4
    refine Keeps.foldl _ ?_ (fun s _ h => ?_)
    · assumption
    · exact State.sendLink_keeps (by assumption)
  clear_value s4
  refine Keeps.ite ?_ ?_
  · assumption
  · exact State.reroute_keeps (by assumption)

theorem State.takeEpoch_keeps {s0 s : State} {x2 x3} (h : Keeps s0 s) :
    Keeps s0 (State.takeEpoch s x2 x3) := by
  unfold State.takeEpoch
  split
  · assumption
  · refine Keeps.ite ?_ ?_
    · assumption
    · refine Keeps.ite ?_ ?_
      · refine State.sendPlain_keeps ?_
        exact State.adopt_keeps (by assumption)
      · refine Keeps.ite ?_ ?_
        · exact State.sendPlain_keeps (by assumption)
        · assumption

theorem State.takeEpochReq_keeps {s0 s : State} {x2} (h : Keeps s0 s) :
    Keeps s0 (State.takeEpochReq s x2) := by
  unfold State.takeEpochReq
  split
  · exact State.sendPlain_keeps (by assumption)
  · assumption

theorem State.takeReject_keeps {s0 s : State} {x2 x3 x4 x5} (h : Keeps s0 s) :
    Keeps s0 (State.takeReject s x2 x3 x4 x5) := by
  unfold State.takeReject
  extract_lets s1 n2 n3
  have hs1 : Keeps s0 s1 := by
    unfold s1
    refine Keeps.ite ?_ ?_
    · exact State.wr_keeps (by assumption)
    · assumption
  clear_value s1
  refine Keeps.ite ?_ ?_
  · split
    · extract_lets s4
      have hs4 : Keeps s0 s4 := by
        unfold s4
        exact State.setGrp_keeps (by assumption)
      clear_value s4
      split
      · exact State.epochStale_keeps (by assumption)
      · assumption
    · assumption
  · assumption

theorem State.changeStored_keeps {s0 s : State} (h : Keeps s0 s) :
    Keeps s0 (State.changeStored s) := by
  unfold State.changeStored
  split
  · assumption
  · refine State.nextChange_keeps ?_
    exact State.commitChange_keeps (by assumption)

theorem State.takeEpochAck_keeps {s0 s : State} {x2} (h : Keeps s0 s) :
    Keeps s0 (State.takeEpochAck s x2) := by
  unfold State.takeEpochAck
  split
  · refine Keeps.ite ?_ ?_
    · refine State.activateJoined_keeps ?_
      exact State.changeStored_keeps (by assumption)
    · assumption
  · extract_lets n1 s2 s3
    have hs2 : Keeps s0 s2 := by
      unfold s2
      exact State.setGrp_keeps (by assumption)
    clear_value s2
    have hs3 : Keeps s0 s3 := by
      unfold s3
      refine Keeps.foldl _ ?_ (fun s _ h => ?_)
      · assumption
      · exact State.resendTriple_keeps (by assumption)
    clear_value s3
    refine Keeps.ite ?_ ?_
    · assumption
    · exact State.activateJoined_keeps (by assumption)

theorem State.formFails_keeps {s0 s : State} {x2} (h : Keeps s0 s) :
    Keeps s0 (State.formFails s x2) := by
  unfold State.formFails
  split
  · extract_lets n1 s2
    have hs2 : Keeps s0 s2 := by
      unfold s2
      exact State.setGrp_keeps (by assumption)
    clear_value s2
    refine Keeps.ite ?_ ?_
    · split
      · exact State.fail_keeps (by assumption)
      · assumption
    · assumption
  · assumption

theorem State.redirectChange_keeps {s0 s : State} {x2 x3 x4} (h : Keeps s0 s) :
    Keeps s0 (State.redirectChange s x2 x3 x4) := by
  unfold State.redirectChange
  extract_lets n1 n2 s3 s4
  have hs3 : Keeps s0 s3 := by
    unfold s3
    exact State.setGrp_keeps (by assumption)
  clear_value s3
  have hs4 : Keeps s0 s4 := by
    unfold s4
    split
    · exact State.copyToDeputy_keeps (by assumption)
    · assumption
  clear_value s4
  exact State.runChange_keeps (by assumption)

theorem State.setAge_keeps {s0 s : State} {x2 x3} (h : Keeps s0 s) :
    Keeps s0 (State.setAge s x2 x3) := by
  unfold State.setAge
  extract_lets n1 n2
  exact State.setGrp_keeps (by assumption)

theorem execDiscoverStableTimer_keeps {s0 s : State} (h : Keeps s0 s) :
    Keeps.Out s0 (execDiscoverStableTimer s) := by
  unfold execDiscoverStableTimer
  extract_lets n1
  refine Keeps.iteOut ?_ ?_
  · refine Keeps.next ?_
    assumption
  · refine Keeps.next ?_
    refine State.discoverOn_keeps ?_
    exact State.setGrp_keeps (by assumption)

theorem execLeadBeatTimer_keeps {s0 s : State} (h : Keeps s0 s) :
    Keeps.Out s0 (execLeadBeatTimer s) := by
  unfold execLeadBeatTimer
  split
  · refine Keeps.iteOut ?_ ?_
    · refine Keeps.next ?_
      refine Keeps.foldl _ ?_ (fun s _ h => ?_)
      · assumption
      · exact State.sendSeq_keeps (by assumption)
    · refine Keeps.next ?_
      assumption
  · refine Keeps.next ?_
    assumption

theorem execLeadQuorumLost_keeps {s0 s : State} (h : Keeps s0 s) :
    Keeps.Out s0 (execLeadQuorumLost s) := by
  unfold execLeadQuorumLost
  split
  · extract_lets n1 s2 s3 n4 s5
    have hs2 : Keeps s0 s2 := by
      unfold s2
      refine State.wr_keeps ?_
      exact State.wr_keeps (by assumption)
    clear_value s2
    have hs3 : Keeps s0 s3 := by
      unfold s3
      exact State.raise_keeps (by assumption)
    clear_value s3
    have hs5 : Keeps s0 s5 := by
      unfold s5
      exact State.setGrp_keeps (by assumption)
    clear_value s5
    refine Keeps.iteOut ?_ ?_
    · refine Keeps.next ?_
      refine Keeps.foldl _ ?_ (fun s _ h => ?_)
      · assumption
      · exact State.epochStale_keeps (by assumption)
    · refine Keeps.next ?_
      assumption
  · refine Keeps.next ?_
    assumption

theorem execDeputyReplace_keeps {s0 s : State} (h : Keeps s0 s) :
    Keeps.Out s0 (execDeputyReplace s) := by
  unfold execDeputyReplace
  split
  · extract_lets n1
    refine Keeps.iteOut ?_ ?_
    · split
      · refine Keeps.next ?_
        refine State.askChange_keeps ?_
        exact State.noDeputy_keeps (by assumption)
      · refine Keeps.next ?_
        refine Keeps.ite ?_ ?_
        · refine State.redirectChange_keeps ?_
          exact State.noDeputy_keeps (by assumption)
        · assumption
    · refine Keeps.next ?_
      assumption
  · refine Keeps.next ?_
    assumption

theorem execDeputyLeadLossTimeout_keeps {s0 s : State} (h : Keeps s0 s) :
    Keeps.Out s0 (execDeputyLeadLossTimeout s) := by
  unfold execDeputyLeadLossTimeout
  split
  · extract_lets n1 s2
    have hs2 : Keeps s0 s2 := by
      unfold s2
      exact State.setGrp_keeps (by assumption)
    clear_value s2
    refine Keeps.iteOut ?_ ?_
    · refine Keeps.next ?_
      refine Keeps.foldl _ ?_ (fun s _ h => ?_)
      · assumption
      · exact State.sendSeq_keeps (by assumption)
    · refine Keeps.next ?_
      assumption
  · refine Keeps.next ?_
    assumption

theorem execDeputyCopyDone_keeps {s0 s : State} (h : Keeps s0 s) :
    Keeps.Out s0 (execDeputyCopyDone s) := by
  unfold execDeputyCopyDone
  split
  · extract_lets n1
    refine Keeps.iteOut ?_ ?_
    · refine Keeps.next ?_
      refine State.runChange_keeps ?_
      exact State.setGrp_keeps (by assumption)
    · refine Keeps.next ?_
      assumption
  · refine Keeps.next ?_
    assumption

end Sys2Proof.Machine
end

