-- ==== Sys2Proof/Laws/KeepsGroupAdmin.lean ====
section
/-!
SUPPORT. What every operation of Machine/GroupAdmin.lean keeps (Laws/Keeps.lean).
-/

set_option Elab.async false

namespace Sys2Proof.Machine

theorem State.adminEnd_keeps {s0 s : State} {x2 x3 x4 x5} (h : Keeps s0 s) :
    Keeps s0 (State.adminEnd s x2 x3 x4 x5) := by
  unfold State.adminEnd
  refine Keeps.ite ?_ ?_
  · split
    · exact State.finish_keeps (by assumption)
    · assumption
  · exact State.answerAdmin_keeps (by assumption)

theorem State.adminConflict_keeps {s0 s : State} {x2 x3 x4 x5} (h : Keeps s0 s) :
    Keeps s0 (State.adminConflict s x2 x3 x4 x5) := by
  unfold State.adminConflict
  exact State.adminEnd_keeps (by assumption)

theorem State.onTarget_keeps {s0 s : State} {x2 x3 x4 x5 x6 go} (h : Keeps s0 s)
    (hgo : ∀ a1, Keeps s0 a1 → Keeps s0 (go a1)) :
    Keeps s0 (State.onTarget s x2 x3 x4 x5 x6 go) := by
  unfold State.onTarget
  extract_lets n1
  refine Keeps.ite ?_ ?_
  · exact State.adminConflict_keeps (by assumption)
  · refine hgo _ ?_
    assumption

theorem State.pendLayout_keeps {s0 s : State} {x2 x3 x4} (h : Keeps s0 s) :
    Keeps s0 (State.pendLayout s x2 x3 x4) := by
  unfold State.pendLayout
  extract_lets n1 n2 n3 s4
  have hs4 : Keeps s0 s4 := by
    unfold s4
    exact State.setRed_keeps (by assumption)
  clear_value s4
  refine Keeps.foldl _ ?_ (fun s _ h => ?_)
  · assumption
  · exact State.sendRows_keeps (by assumption)

theorem State.adminChange_keeps {s0 s : State} {x2 x3} (h : Keeps s0 s) :
    Keeps s0 (State.adminChange s x2 x3) := by
  unfold State.adminChange
  split
  · refine State.askChange_keeps ?_
    exact State.setCmd_keeps (by assumption)
  · exact State.askChange_keeps (by assumption)

theorem State.adminAdd_keeps {s0 s : State} {x2 x3 x4 x5} (h : Keeps s0 s) :
    Keeps s0 (State.adminAdd s x2 x3 x4 x5) := by
  unfold State.adminAdd
  refine State.onTarget_keeps ?_ (fun s h => ?_)
  · assumption
  · extract_lets s1
    have hs1 : Keeps s0 s1 := by
      unfold s1
      exact State.pendLayout_keeps (by assumption)
    clear_value s1
    refine Keeps.ite ?_ ?_
    · exact State.adminConflict_keeps (by assumption)
    · refine Keeps.ite ?_ ?_
      · exact State.adminEnd_keeps (by assumption)
      · refine Keeps.ite ?_ ?_
        · exact State.adminEnd_keeps (by assumption)
        · exact State.adminChange_keeps (by assumption)

theorem State.adminForm_keeps {s0 s : State} {x2 x3 x4 x5} (h : Keeps s0 s) :
    Keeps s0 (State.adminForm s x2 x3 x4 x5) := by
  unfold State.adminForm
  extract_lets n1 s2 n3 s4
  have hs2 : Keeps s0 s2 := by
    unfold s2
    exact State.setCmd_keeps (by assumption)
  clear_value s2
  have hs4 : Keeps s0 s4 := by
    unfold s4
    exact State.setGrp_keeps (by assumption)
  clear_value s4
  refine Keeps.ite ?_ ?_
  · exact State.adminConflict_keeps (by assumption)
  · refine Keeps.ite ?_ ?_
    · exact State.adminEnd_keeps (by assumption)
    · split
      · exact State.adminConflict_keeps (by assumption)
      · split
        · exact State.adminConflict_keeps (by assumption)
        · refine Keeps.ite ?_ ?_
          · exact State.adminEnd_keeps (by assumption)
          · refine Keeps.foldl _ ?_ (fun s _ h => ?_)
            · assumption
            · exact State.sendSeq_keeps (by assumption)

theorem State.adminRemove_keeps {s0 s : State} {x2 x3 x4} (h : Keeps s0 s) :
    Keeps s0 (State.adminRemove s x2 x3 x4) := by
  unfold State.adminRemove
  refine State.onTarget_keeps ?_ (fun s h => ?_)
  · assumption
  · extract_lets s1
    have hs1 : Keeps s0 s1 := by
      unfold s1
      exact State.pendLayout_keeps (by assumption)
    clear_value s1
    refine Keeps.ite ?_ ?_
    · exact State.adminConflict_keeps (by assumption)
    · refine Keeps.ite ?_ ?_
      · exact State.adminEnd_keeps (by assumption)
      · refine Keeps.ite ?_ ?_
        · exact State.adminEnd_keeps (by assumption)
        · exact State.adminChange_keeps (by assumption)

theorem State.retireReport_keeps {s0 s : State} {x2} (h : Keeps s0 s) :
    Keeps s0 (State.retireReport s x2) := by
  unfold State.retireReport
  split
  · refine Keeps.ite ?_ ?_
    · exact State.noDeputy_keeps (by assumption)
    · assumption
  · assumption

theorem State.adminFence_keeps {s0 s : State} {x2 x3 x4} (h : Keeps s0 s) :
    Keeps s0 (State.adminFence s x2 x3 x4) := by
  unfold State.adminFence
  refine State.onTarget_keeps ?_ (fun s h => ?_)
  · assumption
  · refine Keeps.ite ?_ ?_
    · exact State.adminEnd_keeps (by assumption)
    · refine State.adminChange_keeps ?_
      exact State.retireReport_keeps (by assumption)

theorem State.adminUnfence_keeps {s0 s : State} {x2 x3 x4} (h : Keeps s0 s) :
    Keeps s0 (State.adminUnfence s x2 x3 x4) := by
  unfold State.adminUnfence
  refine State.onTarget_keeps ?_ (fun s h => ?_)
  · assumption
  · refine Keeps.ite ?_ ?_
    · exact State.adminEnd_keeps (by assumption)
    · exact State.adminChange_keeps (by assumption)

theorem State.adminFail_keeps {s0 s : State} {x2 x3 x4} (h : Keeps s0 s) :
    Keeps s0 (State.adminFail s x2 x3 x4) := by
  unfold State.adminFail
  refine State.onTarget_keeps ?_ (fun s h => ?_)
  · assumption
  · refine Keeps.ite ?_ ?_
    · exact State.adminEnd_keeps (by assumption)
    · refine Keeps.ite ?_ ?_
      · exact State.adminEnd_keeps (by assumption)
      · refine State.adminChange_keeps ?_
        exact State.retireReport_keeps (by assumption)

theorem State.adminDeputy_keeps {s0 s : State} {x2 x3 x4} (h : Keeps s0 s) :
    Keeps s0 (State.adminDeputy s x2 x3 x4) := by
  unfold State.adminDeputy
  refine State.onTarget_keeps ?_ (fun s h => ?_)
  · assumption
  · refine Keeps.ite ?_ ?_
    · exact State.adminEnd_keeps (by assumption)
    · refine Keeps.ite ?_ ?_
      · exact State.adminConflict_keeps (by assumption)
      · exact State.adminChange_keeps (by assumption)

theorem State.adminReshape_keeps {s0 s : State} {x2 x3 x4} (h : Keeps s0 s) :
    Keeps s0 (State.adminReshape s x2 x3 x4) := by
  unfold State.adminReshape
  refine Keeps.ite ?_ ?_
  · exact State.adminConflict_keeps (by assumption)
  · refine Keeps.ite ?_ ?_
    · exact State.adminEnd_keeps (by assumption)
    · refine State.adminChange_keeps ?_
      exact State.pendLayout_keeps (by assumption)

theorem State.adminQuery_keeps {s0 s : State} {x2 x3} (h : Keeps s0 s) :
    Keeps s0 (State.adminQuery s x2 x3) := by
  unfold State.adminQuery
  exact State.adminEnd_keeps (by assumption)

theorem State.adminGo_keeps {s0 s : State} {x2} (h : Keeps s0 s) :
    Keeps s0 (State.adminGo s x2) := by
  unfold State.adminGo
  split
  split
  · refine Keeps.ite ?_ ?_
    · split
      · exact State.adminForm_keeps (by assumption)
      · assumption
    · exact State.adminConflict_keeps (by assumption)
  · refine Keeps.ite ?_ ?_
    · exact State.answerAdmin_keeps (by assumption)
    · refine Keeps.ite ?_ ?_
      · exact State.adminEnd_keeps (by assumption)
      · refine Keeps.ite ?_ ?_
        · exact State.adminConflict_keeps (by assumption)
        · refine Keeps.ite ?_ ?_
          · exact State.adminAdd_keeps (by assumption)
          · refine Keeps.ite ?_ ?_
            · exact State.adminRemove_keeps (by assumption)
            · refine Keeps.ite ?_ ?_
              · exact State.adminFence_keeps (by assumption)
              · refine Keeps.ite ?_ ?_
                · exact State.adminUnfence_keeps (by assumption)
                · refine Keeps.ite ?_ ?_
                  · exact State.adminFail_keeps (by assumption)
                  · refine Keeps.ite ?_ ?_
                    · exact State.adminDeputy_keeps (by assumption)
                    · refine Keeps.ite ?_ ?_
                      · exact State.adminReshape_keeps (by assumption)
                      · exact State.adminQuery_keeps (by assumption)

theorem State.adminTurns_keeps {s0 s : State} {x1} (h : Keeps s0 s) :
    Keeps s0 (State.adminTurns x1 s) := by
  induction x1 generalizing s with
  | zero =>
    rw [State.adminTurns]
    assumption
  | succ n ih =>
    rw [State.adminTurns]
    extract_lets n1
    refine Keeps.ite ?_ ?_
    · assumption
    · split
      · assumption
      · extract_lets s2
        have hs2 : Keeps s0 s2 := by
          unfold s2
          exact State.setGrp_keeps (by assumption)
        clear_value s2
        refine Keeps.ite ?_ ?_
        · assumption
        · refine Keeps.ite ?_ ?_
          · exact ih (by assumption)
          · refine ih ?_
            exact State.adminGo_keeps (by assumption)

theorem State.adminAsk_keeps {s0 s : State} {x2} (h : Keeps s0 s) :
    Keeps s0 (State.adminAsk s x2) := by
  unfold State.adminAsk
  extract_lets n1 n2 s3 n4 s5
  have hs3 : Keeps s0 s3 := by
    unfold s3
    split
    · refine Keeps.ite ?_ ?_
      · exact State.setCmd_keeps (by assumption)
      · assumption
    · assumption
  clear_value s3
  have hs5 : Keeps s0 s5 := by
    unfold s5
    exact State.setGrp_keeps (by assumption)
  clear_value s5
  refine Keeps.ite ?_ ?_
  · exact State.adminConflict_keeps (by assumption)
  · exact State.adminTurns_keeps (by assumption)

theorem State.formStep_keeps {s0 s : State} (h : Keeps s0 s) :
    Keeps s0 (State.formStep s) := by
  unfold State.formStep
  split
  · assumption
  · extract_lets n1 n2 s3 s4 n5 s6
    have hs3 : Keeps s0 s3 := by
      unfold s3
      exact State.setGrp_keeps (by assumption)
    clear_value s3
    have hs4 : Keeps s0 s4 := by
      unfold s4
      refine Keeps.upd ?_ rfl rfl rfl --UPD .free
      assumption
    clear_value s4
    have hs6 : Keeps s0 s6 := by
      unfold s6
      exact State.setRed_keeps (by assumption)
    clear_value s6
    refine Keeps.ite ?_ ?_
    · assumption
    · split
      · split
        · exact State.conflict_keeps (by assumption)
        · assumption
      · extract_lets n7 s8 n9 n10
        have hs8 : Keeps s0 s8 := by
          unfold s8
          exact State.pendLayout_keeps (by assumption)
        clear_value s8
        refine State.nextChange_keeps ?_
        exact State.setGrp_keeps (by assumption)

theorem State.rebuildEnd_keeps {s0 s : State} (h : Keeps s0 s) :
    Keeps s0 (State.rebuildEnd s) := by
  unfold State.rebuildEnd
  split
  · assumption
  · extract_lets n1
    refine Keeps.ite ?_ ?_
    · refine State.askChange_keeps ?_
      exact State.raise_keeps (by assumption)
    · assumption

theorem State.groupStep_keeps {s0 s : State} (h : Keeps s0 s) :
    Keeps s0 (State.groupStep s) := by
  unfold State.groupStep
  extract_lets s1 s2 s3
  have hs1 : Keeps s0 s1 := by
    unfold s1
    refine State.nextChange_keeps ?_
    exact State.formStep_keeps (by assumption)
  clear_value s1
  have hs2 : Keeps s0 s2 := by
    unfold s2
    exact State.rebuildEnd_keeps (by assumption)
  clear_value s2
  have hs3 : Keeps s0 s3 := by
    unfold s3
    exact State.activateJoined_keeps (by assumption)
  clear_value s3
  exact State.adminTurns_keeps (by assumption)

theorem State.adminStart_keeps {s0 s : State} {x2 x3 x4} (h : Keeps s0 s) :
    Keeps s0 (State.adminStart s x2 x3 x4) := by
  unfold State.adminStart
  split
  · refine Keeps.ite ?_ ?_
    · refine State.groupStep_keeps ?_
      exact State.adminAsk_keeps (by assumption)
    · assumption
  · assumption

theorem State.slowOut_keeps {s0 s : State} {x2 x3 x4} (h : Keeps s0 s) :
    Keeps s0 (State.slowOut s x2 x3 x4) := by
  unfold State.slowOut
  split
  · refine Keeps.ite ?_ ?_
    · refine State.groupStep_keeps ?_
      refine State.askChange_keeps ?_
      exact State.retireReport_keeps (by assumption)
    · assumption
  · assumption

theorem execFormCmd_keeps {s0 s : State} {x1 x2} (h : Keeps s0 s) :
    Keeps.Out s0 (execFormCmd x1 x2 s) := by
  unfold execFormCmd
  refine Keeps.next ?_
  exact State.adminStart_keeps (by assumption)

theorem execAddCmd_keeps {s0 s : State} {x1 x2} (h : Keeps s0 s) :
    Keeps.Out s0 (execAddCmd x1 x2 s) := by
  unfold execAddCmd
  refine Keeps.next ?_
  exact State.adminStart_keeps (by assumption)

theorem execRemoveCmd_keeps {s0 s : State} {x1} (h : Keeps s0 s) :
    Keeps.Out s0 (execRemoveCmd x1 s) := by
  unfold execRemoveCmd
  refine Keeps.next ?_
  exact State.adminStart_keeps (by assumption)

theorem execFenceCmd_keeps {s0 s : State} {x1} (h : Keeps s0 s) :
    Keeps.Out s0 (execFenceCmd x1 s) := by
  unfold execFenceCmd
  refine Keeps.next ?_
  exact State.adminStart_keeps (by assumption)

theorem execUnfenceCmd_keeps {s0 s : State} {x1} (h : Keeps s0 s) :
    Keeps.Out s0 (execUnfenceCmd x1 s) := by
  unfold execUnfenceCmd
  refine Keeps.next ?_
  exact State.adminStart_keeps (by assumption)

theorem execFailCmd_keeps {s0 s : State} {x1} (h : Keeps s0 s) :
    Keeps.Out s0 (execFailCmd x1 s) := by
  unfold execFailCmd
  refine Keeps.next ?_
  exact State.adminStart_keeps (by assumption)

theorem execSetDeputyCmd_keeps {s0 s : State} {x1} (h : Keeps s0 s) :
    Keeps.Out s0 (execSetDeputyCmd x1 s) := by
  unfold execSetDeputyCmd
  refine Keeps.next ?_
  exact State.adminStart_keeps (by assumption)

theorem execReshapeCmd_keeps {s0 s : State} {x1} (h : Keeps s0 s) :
    Keeps.Out s0 (execReshapeCmd x1 s) := by
  unfold execReshapeCmd
  refine Keeps.next ?_
  exact State.adminStart_keeps (by assumption)

theorem execQueryCmd_keeps {s0 s : State} {x1} (h : Keeps s0 s) :
    Keeps.Out s0 (execQueryCmd x1 s) := by
  unfold execQueryCmd
  refine Keeps.next ?_
  exact State.adminStart_keeps (by assumption)

theorem execSlowFenceTimeout_keeps {s0 s : State} {x1} (h : Keeps s0 s) :
    Keeps.Out s0 (execSlowFenceTimeout x1 s) := by
  unfold execSlowFenceTimeout
  refine Keeps.next ?_
  exact State.slowOut_keeps (by assumption)

theorem execSlowFailTimeout_keeps {s0 s : State} {x1} (h : Keeps s0 s) :
    Keeps.Out s0 (execSlowFailTimeout x1 s) := by
  unfold execSlowFailTimeout
  refine Keeps.next ?_
  exact State.slowOut_keeps (by assumption)

theorem execReshapeFlip_keeps {s0 s : State} (h : Keeps s0 s) :
    Keeps.Out s0 (execReshapeFlip s) := by
  unfold execReshapeFlip
  split
  · extract_lets n1 s2 n3 s4
    have hs2 : Keeps s0 s2 := by
      unfold s2
      refine Keeps.foldl _ ?_ (fun s _ h => ?_)
      · assumption
      · exact State.sendRows_keeps (by assumption)
    clear_value s2
    have hs4 : Keeps s0 s4 := by
      unfold s4
      exact State.setRed_keeps (by assumption)
    clear_value s4
    refine Keeps.iteOut ?_ ?_
    · refine Keeps.next ?_
      refine State.groupStep_keeps ?_
      exact State.askChange_keeps (by assumption)
    · refine Keeps.next ?_
      assumption
  · refine Keeps.next ?_
    assumption

end Sys2Proof.Machine
end

