-- ==== Sys2Proof/Laws/KeepsImage.lean ====
section
/-!
SUPPORT. What every operation of Machine/Image.lean keeps (Laws/Keeps.lean).
-/

set_option Elab.async false

namespace Sys2Proof.Machine

theorem State.applyRec_keeps {s0 s : State} {x2} (h : Keeps s0 s) :
    Keeps s0 (State.applyRec s x2) := by
  unfold State.applyRec
  refine Keeps.foldl _ ?_ (fun s _ h => ?_)
  · assumption
  · extract_lets n1
    refine Keeps.ite ?_ ?_
    · exact State.fset_keeps (by assumption)
    · assumption

theorem State.showImgRec_keeps {s0 s : State} (h : Keeps s0 s) :
    Keeps s0 (State.showImgRec s) := by
  unfold State.showImgRec
  extract_lets n1 s2 s3 s4
  have hs2 : Keeps s0 s2 := by
    unfold s2
    refine State.wr_keeps ?_
    exact State.wr_keeps (by assumption)
  clear_value s2
  have hs3 : Keeps s0 s3 := by
    unfold s3
    refine State.wr_keeps ?_
    exact State.wr_keeps (by assumption)
  clear_value s3
  have hs4 : Keeps s0 s4 := by
    unfold s4
    refine State.wr_keeps ?_
    exact State.wr_keeps (by assumption)
  clear_value s4
  refine State.wr_keeps ?_
  exact State.wr_keeps (by assumption)

theorem State.writeImgRec_keeps {s0 s : State} {x2} (h : Keeps s0 s) : Keeps s0 (State.writeImgRec s x2) := by
  unfold State.writeImgRec
  refine State.showImgRec_keeps (Keeps.upd h rfl ?_ rfl)
  repeat' first
    | rfl
    | split

end Sys2Proof.Machine
end

