-- ==== Sys2Proof/Laws/KeepsObjects.lean ====
section
/-!
SUPPORT. What every operation of Machine/Objects.lean keeps (Laws/Keeps.lean).
-/

set_option Elab.async false

namespace Sys2Proof.Machine

theorem State.abandonPrev_keeps {s0 s : State} {x2} (h : Keeps s0 s) :
    Keeps s0 (State.abandonPrev s x2) := by
  unfold State.abandonPrev
  extract_lets n1 n2 n3 s4
  have hs4 : Keeps s0 s4 := by
    unfold s4
    refine Keeps.upd ?_ rfl rfl rfl --UPD .obj
    assumption
  clear_value s4
  refine Keeps.ite ?_ ?_
  · refine Keeps.ite ?_ ?_
    · exact State.tellHome_keeps (by assumption)
    · assumption
  · assumption

theorem State.askHome_keeps {s0 s : State} {x2 x3} (h : Keeps s0 s) :
    Keeps s0 (State.askHome s x2 x3) := by
  unfold State.askHome
  refine Keeps.ite ?_ ?_
  · assumption
  · refine State.sendSeq_keeps ?_
    exact State.setCmd_keeps (by assumption)

theorem State.keyBlocked_keeps {s0 s : State} {x2 x3 x4} (h : Keeps s0 s) :
    Keeps.Opt s0 (State.keyBlocked s x2 x3 x4) := by
  unfold State.keyBlocked
  extract_lets n1
  refine Keeps.iteOpt ?_ ?_
  · refine Keeps.some ?_
    exact State.conflict_keeps (by assumption)
  · split
    · refine Keeps.iteOpt ?_ ?_
      · exact Keeps.none
      · refine Keeps.some ?_
        exact State.conflict_keeps (by assumption)
    · exact Keeps.none

theorem State.writeBlocked_keeps {s0 s : State} {x2 x3} (h : Keeps s0 s) :
    Keeps.Opt s0 (State.writeBlocked s x2 x3) := by
  unfold State.writeBlocked
  refine Keeps.iteOpt ?_ ?_
  · refine Keeps.iteOpt ?_ ?_
    · exact Keeps.none
    · refine Keeps.some ?_
      exact State.fail_keeps (by assumption)
  · split
    · refine Keeps.some ?_
      exact State.conflict_keeps (by assumption)
    · refine Keeps.iteOpt ?_ ?_
      · refine Keeps.iteOpt ?_ ?_
        · refine Keeps.some ?_
          exact State.fail_keeps (by assumption)
        · exact Keeps.none
      · refine Keeps.iteOpt ?_ ?_
        · exact Keeps.none
        · refine Keeps.iteOpt ?_ ?_
          · refine Keeps.some ?_
            exact State.conflict_keeps (by assumption)
          · exact Keeps.none

theorem State.takeNonce_keeps {s0 s : State} {x2} (h : Keeps s0 s) :
    Keeps.Pair s0 (State.takeNonce s x2) := by
  unfold State.takeNonce
  extract_lets n1 s2
  have hs2 : Keeps s0 s2 := by
    unfold s2
    refine Keeps.upd ?_ rfl rfl rfl --UPD .obj
    assumption
  clear_value s2
  refine Keeps.itePair ?_ ?_
  · refine Keeps.pair ?_
    assumption
  · refine Keeps.itePair ?_ ?_
    · split
      refine Keeps.pair ?_
      refine Keeps.of_eq ?_ (by assumption)
      exact State.drawNonce_keeps (by assumption)
    · refine Keeps.itePair ?_ ?_
      · refine Keeps.pair ?_
        assumption
      · split
        · refine Keeps.pair ?_
          assumption
        · refine Keeps.itePair ?_ ?_
          · refine Keeps.pair ?_
            assumption
          · refine Keeps.pair ?_
            exact State.sendSeq_keeps (by assumption)

theorem State.placeUnits_keeps {s0 s : State} {x2 x3} (h : Keeps s0 s) :
    Keeps s0 (State.placeUnits s x2 x3) := by
  unfold State.placeUnits
  split
  · assumption
  · extract_lets n1
    refine Keeps.ite ?_ ?_
    · refine Keeps.ite ?_ ?_
      · refine Keeps.ite ?_ ?_
        · exact State.placeGroup_keeps (by assumption)
        · assumption
      · exact State.gatherUnits_keeps (by assumption)
    · refine Keeps.ite ?_ ?_
      · refine State.fail_keeps ?_
        exact State.discardWork_keeps (by assumption)
      · refine Keeps.ite ?_ ?_
        · refine State.fail_keeps ?_
          exact State.discardWork_keeps (by assumption)
        · refine Keeps.ite ?_ ?_
          · exact State.tapeTake_keeps (by assumption)
          · refine Keeps.ite ?_ ?_
            · exact State.startLanding_keeps (by assumption)
            · assumption

theorem State.startDelta_keeps {s0 s : State} {x2} (h : Keeps s0 s) :
    Keeps s0 (State.startDelta s x2) := by
  unfold State.startDelta
  extract_lets n1 n2 n3 n4
  split
  extract_lets n5 s6
  have hs6 : Keeps s0 s6 := by
    unfold s6
    refine Keeps.upd ?_ rfl rfl rfl --UPD .obj
    refine Keeps.of_eq ?_ (by assumption)
    exact State.addUnit_keeps (by assumption)
  clear_value s6
  refine State.placeUnits_keeps ?_
  exact State.setCmd_keeps (by assumption)

theorem State.startData_keeps {s0 s : State} {x2} (h : Keeps s0 s) :
    Keeps s0 (State.startData s x2) := by
  unfold State.startData
  refine State.askAll_keeps ?_
  exact State.setCmd_keeps (by assumption)

theorem State.apply_keeps {s0 s : State} {x2 x3} (h : Keeps s0 s) :
    Keeps s0 (State.apply s x2 x3) := by
  unfold State.apply
  refine Keeps.ite ?_ ?_
  · assumption
  · split
    · refine Keeps.of_eq ?_ (by assumption)
      exact State.takeNonce_keeps (by assumption)
    · refine Keeps.ite ?_ ?_
      · refine State.startDelta_keeps ?_
        refine Keeps.of_eq ?_ (by assumption)
        exact State.takeNonce_keeps (by assumption)
      · refine State.startData_keeps ?_
        refine Keeps.of_eq ?_ (by assumption)
        exact State.takeNonce_keeps (by assumption)

theorem State.appendGo_keeps {s0 s : State} {x2 x3} (h : Keeps s0 s) :
    Keeps s0 (State.appendGo s x2 x3) := by
  unfold State.appendGo
  extract_lets n1 n2
  refine Keeps.ite ?_ ?_
  · exact State.conflict_keeps (by assumption)
  · split
    · refine Keeps.ite ?_ ?_
      · exact State.askHome_keeps (by assumption)
      · refine Keeps.ite ?_ ?_
        · assumption
        · exact State.fail_keeps (by assumption)
    · refine Keeps.ite ?_ ?_
      · exact State.fail_keeps (by assumption)
      · refine Keeps.ite ?_ ?_
        · exact State.fail_keeps (by assumption)
        · refine Keeps.ite ?_ ?_
          · exact State.fail_keeps (by assumption)
          · split
            · refine Keeps.of_opt ?_ (by assumption)
              exact State.keyBlocked_keeps (by assumption)
            · split
              · refine Keeps.of_opt ?_ (by assumption)
                exact State.writeBlocked_keeps (by assumption)
              · exact State.apply_keeps (by assumption)

theorem State.mirrorCommit_keeps {s0 s : State} {x2} (h : Keeps s0 s) :
    Keeps s0 (State.mirrorCommit s x2) := by
  unfold State.mirrorCommit
  split
  · assumption
  · refine Keeps.ite ?_ ?_
    · assumption
    · refine State.mirrorSeq_keeps ?_
      exact State.setCmd_keeps (by assumption)

theorem State.freeUnits_keeps {s0 s : State} {x2} (h : Keeps s0 s) :
    Keeps s0 (State.freeUnits s x2) := by
  unfold State.freeUnits
  extract_lets n1 s2 n3 n4 n5
  have hs2 : Keeps s0 s2 := by
    unfold s2
    exact State.releaseLanding_keeps (by assumption)
  clear_value s2
  refine Keeps.upd ?_ rfl rfl rfl --UPD .obj, .disk, .red
  assumption

theorem State.sweepGone_keeps {s0 s : State} (h : Keeps s0 s) :
    Keeps s0 (State.sweepGone s) := by
  unfold State.sweepGone
  extract_lets n1 n2 n3 s4
  have hs4 : Keeps s0 s4 := by
    unfold s4
    refine Keeps.upd ?_ rfl rfl rfl --UPD .obj
    assumption
  clear_value s4
  refine Keeps.foldl _ ?_ (fun s _ h => ?_)
  · assumption
  · exact State.freeUnits_keeps (by assumption)

theorem State.keepDelta_keeps {s0 s : State} {x2} (h : Keeps s0 s) :
    Keeps s0 (State.keepDelta s x2) := by
  unfold State.keepDelta
  extract_lets n1
  refine Keeps.ite ?_ ?_
  · refine Keeps.upd ?_ rfl rfl rfl --UPD .obj
    assumption
  · assumption

theorem State.settleUnits_keeps {s0 s : State} {x2} (h : Keeps s0 s) :
    Keeps s0 (State.settleUnits s x2) := by
  unfold State.settleUnits
  extract_lets n1 s2
  have hs2 : Keeps s0 s2 := by
    unfold s2
    refine Keeps.upd ?_ rfl rfl rfl --UPD .obj
    assumption
  clear_value s2
  refine Keeps.ite ?_ ?_
  · assumption
  · split
    · assumption
    · extract_lets s3 n4 n5 s6 s7 n8 n9
      have hs3 : Keeps s0 s3 := by
        unfold s3
        refine Keeps.foldl _ ?_ (fun s _ h => ?_)
        · assumption
        · extract_lets n10 n11
          exact State.setUnit_keeps (by assumption)
      clear_value s3
      have hs6 : Keeps s0 s6 := by
        unfold s6
        exact State.setRed_keeps (by assumption)
      clear_value s6
      have hs7 : Keeps s0 s7 := by
        unfold s7
        refine Keeps.foldl _ ?_ (fun s _ h => ?_)
        · assumption
        · extract_lets n12
          exact State.setUnit_keeps (by assumption)
      clear_value s7
      refine Keeps.ite ?_ ?_
      · exact State.gatherUnits_keeps (by assumption)
      · exact State.setDisk_keeps (by assumption)

theorem State.commitDelete_keeps {s0 s : State} {x2} (h : Keeps s0 s) :
    Keeps s0 (State.commitDelete s x2) := by
  unfold State.commitDelete
  extract_lets n1 n2 n3
  split
  · assumption
  · extract_lets s4
    have hs4 : Keeps s0 s4 := by
      unfold s4
      refine Keeps.upd ?_ rfl rfl rfl --UPD .obj
      assumption
    clear_value s4
    refine State.sweepGone_keeps ?_
    refine State.finish_keeps ?_
    refine State.keepDelta_keeps ?_
    exact State.settleUnits_keeps (by assumption)

theorem State.countAccepted_keeps {s0 s : State} {x2} (h : Keeps s0 s) :
    Keeps s0 (State.countAccepted s x2) := by
  unfold State.countAccepted
  exact State.lifeAdd_keeps (by assumption)

theorem State.commitCtx_keeps {s0 s : State} {x2} (h : Keeps s0 s) :
    Keeps s0 (State.commitCtx s x2) := by
  unfold State.commitCtx
  refine Keeps.ite ?_ ?_
  · exact State.freeCtx_keeps (by assumption)
  · split
    · exact State.saveCtx_keeps (by assumption)
    · assumption

theorem State.commit_keeps {s0 s : State} {x2} (h : Keeps s0 s) :
    Keeps s0 (State.commit s x2) := by
  unfold State.commit
  extract_lets n1 n2 n3 f4 s5
  have hf4 : ∀ a1 a2 a3, Keeps s0 a1 → Keeps s0 (f4 a1 a2 a3) := by
    intro a1 a2 a3 h
    unfold f4
    extract_lets n6
    refine Keeps.upd ?_ rfl rfl rfl --UPD .obj
    assumption
  have hs5 : Keeps s0 s5 := by
    unfold s5
    refine hf4 _ _ _ ?_
    exact State.abandonPrev_keeps (by assumption)
  clear_value s5
  refine Keeps.ite ?_ ?_
  · split
    · refine State.conflict_keeps ?_
      exact State.discardWork_keeps (by assumption)
    · refine State.finish_keeps ?_
      refine State.countAccepted_keeps ?_
      refine State.keepDelta_keeps ?_
      refine State.commitCtx_keeps ?_
      exact State.settleUnits_keeps (by assumption)
  · split
    · refine State.fail_keeps ?_
      exact State.discardWork_keeps (by assumption)
    · extract_lets n7 n8
      refine Keeps.ite ?_ ?_
      · refine State.finish_keeps ?_
        refine State.countAccepted_keeps ?_
        refine State.commitCtx_keeps ?_
        refine State.settleUnits_keeps ?_
        refine hf4 _ _ _ ?_
        assumption
      · refine State.finish_keeps ?_
        refine State.keepDelta_keeps ?_
        refine State.commitCtx_keeps ?_
        refine State.settleUnits_keeps ?_
        refine hf4 _ _ _ ?_
        assumption

theorem State.commitNow_keeps {s0 s : State} {x2} (h : Keeps s0 s) :
    Keeps s0 (State.commitNow s x2) := by
  unfold State.commitNow
  refine Keeps.ite ?_ ?_
  · exact State.commitDelete_keeps (by assumption)
  · exact State.commit_keeps (by assumption)

theorem State.commitGo_keeps {s0 s : State} {x2} (h : Keeps s0 s) :
    Keeps s0 (State.commitGo s x2) := by
  unfold State.commitGo
  refine Keeps.ite ?_ ?_
  · assumption
  · refine Keeps.ite ?_ ?_
    · exact State.mirrorCommit_keeps (by assumption)
    · refine Keeps.ite ?_ ?_
      · exact State.commitNow_keeps (by assumption)
      · refine Keeps.ite ?_ ?_
        · refine State.confirmHome_keeps ?_
          exact State.commitNow_keeps (by assumption)
        · assumption

theorem State.commitReady_keeps {s0 s : State} (h : Keeps s0 s) :
    Keeps s0 (State.commitReady s) := by
  unfold State.commitReady
  refine Keeps.foldl _ ?_ (fun s _ h => ?_)
  · assumption
  · split
    · exact State.commitGo_keeps (by assumption)
    · assumption

theorem State.takeBlocks_keeps {s0 s : State} {x2 x3 x4} (h : Keeps s0 s) :
    Keeps.Pair s0 (State.takeBlocks s x2 x3 x4) := by
  unfold State.takeBlocks
  refine Keeps.itePair ?_ ?_
  · refine Keeps.pair ?_
    assumption
  · split
    extract_lets s1 s2
    have hs1 : Keeps s0 s1 := by
      unfold s1
      exact State.addi_keeps (by assumption)
    clear_value s1
    have hs2 : Keeps s0 s2 := by
      unfold s2
      exact State.add64_keeps (by assumption)
    clear_value s2
    refine Keeps.pair ?_
    assumption

theorem State.releaseUnits_keeps {s0 s : State} {x2 x3 x4} (h : Keeps s0 s) :
    Keeps s0 (State.releaseUnits s x2 x3 x4) := by
  unfold State.releaseUnits
  extract_lets n1 n2 n3
  split
  extract_lets s4 n5 s6 n7 s8
  have hs4 : Keeps s0 s4 := by
    unfold s4
    refine State.add64_keeps ?_
    refine Keeps.of_eq ?_ (by assumption)
    exact State.sealUnits_keeps (by assumption)
  clear_value s4
  have hs6 : Keeps s0 s6 := by
    unfold s6
    refine Keeps.upd ?_ rfl rfl rfl --UPD .obj
    assumption
  clear_value s6
  have hs8 : Keeps s0 s8 := by
    unfold s8
    refine State.syncIngest_keeps ?_
    exact State.setCmd_keeps (by assumption)
  clear_value s8
  refine Keeps.ite ?_ ?_
  · assumption
  · exact State.placeUnits_keeps (by assumption)

theorem State.encode_keeps {s0 s : State} {x2} (h : Keeps s0 s) :
    Keeps s0 (State.encode s x2) := by
  unfold State.encode
  extract_lets n1
  refine Keeps.ite ?_ ?_
  · assumption
  · split
    · assumption
    · refine Keeps.ite ?_ ?_
      · refine State.fail_keeps ?_
        refine State.discardWork_keeps ?_
        exact State.wr_keeps (by assumption)
      · split
        refine State.releaseUnits_keeps ?_
        refine Keeps.of_eq ?_ (by assumption)
        exact State.takeBlocks_keeps (by assumption)

theorem State.groupCommit_keeps {s0 s : State} {x2} (h : Keeps s0 s) : Keeps s0 (State.groupCommit s x2) := by
  unfold State.groupCommit
  extract_lets n1 s2 n3 n4
  have hs2 : Keeps s0 s2 := by
    unfold s2
    exact State.setCmd_keeps (by assumption)
  clear_value s2
  split
  · exact State.conflict_keeps (State.discardWork_keeps h)
  · refine Keeps.ite hs2 (Keeps.ite (State.sendSeq_keeps hs2) ?_)
    clear_value n4
    split
    · exact Keeps.foldl _ hs2 fun _ _ h => State.sendSeq_keeps h
    · exact hs2

theorem State.openGo_keeps {s0 s : State} {x2 x3} (h : Keeps s0 s) :
    Keeps s0 (State.openGo s x2 x3) := by
  unfold State.openGo
  extract_lets n1
  refine Keeps.ite ?_ ?_
  · exact State.conflict_keeps (by assumption)
  · refine Keeps.ite ?_ ?_
    · exact State.askHome_keeps (by assumption)
    · refine Keeps.ite ?_ ?_
      · exact State.setCmd_keeps (by assumption)
      · split
        · exact State.conflict_keeps (by assumption)
        · split
          · refine Keeps.of_opt ?_ (by assumption)
            exact State.keyBlocked_keeps (by assumption)
          · split
            · refine Keeps.of_opt ?_ (by assumption)
              exact State.writeBlocked_keeps (by assumption)
            · exact State.apply_keeps (by assumption)

theorem State.sealGo_keeps {s0 s : State} {x2 x3} (h : Keeps s0 s) :
    Keeps s0 (State.sealGo s x2 x3) := by
  unfold State.sealGo
  extract_lets n1 n2
  refine Keeps.ite ?_ ?_
  · exact State.conflict_keeps (by assumption)
  · split
    · refine Keeps.ite ?_ ?_
      · exact State.askHome_keeps (by assumption)
      · refine Keeps.ite ?_ ?_
        · assumption
        · exact State.fail_keeps (by assumption)
    · refine Keeps.ite ?_ ?_
      · exact State.fail_keeps (by assumption)
      · split
        · refine Keeps.of_opt ?_ (by assumption)
          exact State.writeBlocked_keeps (by assumption)
        · refine Keeps.ite ?_ ?_
          · exact State.fail_keeps (by assumption)
          · exact State.apply_keeps (by assumption)

theorem State.sequenced_keeps {s0 s : State} {x2 x3 go} (h : Keeps s0 s)
    (hgo : ∀ a1 a2 a3, Keeps s0 a1 → Keeps s0 (go a1 a2 a3)) :
    Keeps s0 (State.sequenced s x2 x3 go) := by
  unfold State.sequenced
  split
  · assumption
  · extract_lets n1
    split
    · exact State.finishWith_keeps (by assumption)
    · exact State.fail_keeps (by assumption)
    · refine hgo _ _ _ ?_
      assumption

theorem State.takeEngine_keeps {s0 s : State} {x2} (h : Keeps s0 s) :
    Keeps s0 (State.takeEngine s x2) := by
  unfold State.takeEngine
  extract_lets n1
  refine Keeps.ite ?_ ?_
  · assumption
  · refine Keeps.ite ?_ ?_
    · refine State.setCmd_keeps ?_
      exact State.freeCtx_keeps (by assumption)
    · split
      · exact State.setCmd_keeps (by assumption)
      · refine State.setCmd_keeps ?_
        exact State.assignCtx_keeps (by assumption)

theorem State.tansyStep_keeps {s0 s : State} (h : Keeps s0 s) :
    Keeps s0 (State.tansyStep s) := by
  unfold State.tansyStep
  extract_lets s1
  have hs1 : Keeps s0 s1 := by
    unfold s1
    refine Keeps.foldl _ ?_ (fun s _ h => ?_)
    · assumption
    · split
      · extract_lets s2
        have hs2 : Keeps s0 s2 := by
          unfold s2
          exact State.takeEngine_keeps (by assumption)
        clear_value s2
        split
        · exact State.encode_keeps (by assumption)
        · assumption
      · assumption
  clear_value s1
  refine State.askAll_keeps ?_
  exact State.syncIngest_keeps (by assumption)

theorem execAcceptancePointReached_keeps {s0 s : State} {x1} (h : Keeps s0 s) :
    Keeps.Out s0 (execAcceptancePointReached x1 s) := by
  unfold execAcceptancePointReached
  split
  · refine Keeps.next ?_
    assumption
  · refine Keeps.iteOut ?_ ?_
    · refine Keeps.next ?_
      assumption
    · refine Keeps.iteOut ?_ ?_
      · refine Keeps.next ?_
        refine State.commitReady_keeps ?_
        exact State.groupCommit_keeps (by assumption)
      · refine Keeps.next ?_
        exact State.commitNow_keeps (by assumption)

theorem execOpenCmd_keeps {s0 s : State} {x1} (h : Keeps s0 s) :
    Keeps.Out s0 (execOpenCmd x1 s) := by
  unfold execOpenCmd
  refine Keeps.next ?_
  refine State.sequenced_keeps ?_ (fun s _ _ h => ?_)
  · assumption
  · exact State.openGo_keeps (by assumption)

theorem execAppendCmd_keeps {s0 s : State} {x1} (h : Keeps s0 s) :
    Keeps.Out s0 (execAppendCmd x1 s) := by
  unfold execAppendCmd
  refine Keeps.next ?_
  refine State.sequenced_keeps ?_ (fun s _ _ h => ?_)
  · assumption
  · exact State.appendGo_keeps (by assumption)

theorem execSealCmd_keeps {s0 s : State} {x1} (h : Keeps s0 s) :
    Keeps.Out s0 (execSealCmd x1 s) := by
  unfold execSealCmd
  refine Keeps.next ?_
  refine State.sequenced_keeps ?_ (fun s _ _ h => ?_)
  · assumption
  · exact State.sealGo_keeps (by assumption)

theorem execDeleteCmd_keeps {s0 s : State} {x1} (h : Keeps s0 s) :
    Keeps.Out s0 (execDeleteCmd x1 s) := by
  unfold execDeleteCmd
  split
  · refine Keeps.next ?_
    assumption
  · extract_lets n1 n2 s3
    have hs3 : Keeps s0 s3 := by
      unfold s3
      refine Keeps.upd ?_ rfl rfl rfl --UPD .obj
      assumption
    clear_value s3
    refine Keeps.iteOut ?_ ?_
    · refine Keeps.next ?_
      exact State.askHome_keeps (by assumption)
    · split
      · refine Keeps.next ?_
        exact State.finish_keeps (by assumption)
      · refine Keeps.iteOut ?_ ?_
        · refine Keeps.next ?_
          exact State.conflict_keeps (by assumption)
        · split
          · refine Keeps.next ?_
            refine Keeps.of_opt ?_ (by assumption)
            exact State.writeBlocked_keeps (by assumption)
          · refine Keeps.next ?_
            exact State.startDelta_keeps (by assumption)

theorem execTansyResume_keeps {s0 s : State} {x1 x2} (h : Keeps s0 s) :
    Keeps.Out s0 (execTansyResume x1 x2 s) := by
  unfold execTansyResume
  split
  · refine Keeps.next ?_
    assumption
  · refine Keeps.iteOut ?_ ?_
    · refine Keeps.next ?_
      assumption
    · refine Keeps.iteOut ?_ ?_
      · refine Keeps.next ?_
        refine State.fail_keeps ?_
        refine State.discardWork_keeps ?_
        exact State.wr_keeps (by assumption)
      · refine Keeps.next ?_
        exact State.encode_keeps (by assumption)

end Sys2Proof.Machine
end

