-- ==== Sys2Proof/Laws/KeepsQueries.lean ====
section
/-!
SUPPORT. What every operation of Machine/Queries.lean keeps (Laws/Keeps.lean).
-/

set_option Elab.async false

namespace Sys2Proof.Machine

theorem State.discardSlots_keeps {s0 s : State} {x2 x3} (h : Keeps s0 s) :
    Keeps s0 (State.discardSlots s x2 x3) := by
  unfold State.discardSlots
  extract_lets n1
  refine Keeps.upd ?_ rfl rfl rfl --UPD .sq
  assumption

theorem State.endUnstarted_keeps {s0 s : State} {x2 x3} (h : Keeps s0 s) :
    Keeps s0 (State.endUnstarted s x2 x3) := by
  unfold State.endUnstarted
  refine Keeps.foldl _ ?_ (fun s _ h => ?_)
  · assumption
  · split
    · refine Keeps.ite ?_ ?_
      · assumption
      · refine State.fail_keeps ?_
        exact State.discardWork_keeps (by assumption)
    · assumption

theorem State.closeOpen_keeps {s0 s : State} (h : Keeps s0 s) :
    Keeps s0 (State.closeOpen s) := by
  unfold State.closeOpen
  refine Keeps.ite ?_ ?_
  · refine State.redStep_keeps ?_
    exact State.closeStripe_keeps (by assumption)
  · assumption

theorem State.scatter_keeps {s0 s : State} {x2 x3 x4} (h : Keeps s0 s) :
    Keeps s0 (State.scatter s x2 x3 x4) := by
  induction x3 generalizing s x2 x4 with
  | nil =>
    rw [State.scatter]
    assumption
  | cons y l ih =>
    rw [State.scatter]
    refine Keeps.ite ?_ ?_
    · assumption
    · refine ih ?_
      exact State.emit_keeps (by assumption)

theorem State.deliver_keeps {s0 s : State} {x2 x3 x4} (h : Keeps s0 s) :
    Keeps s0 (State.deliver s x2 x3 x4) := by
  unfold State.deliver
  exact State.scatter_keeps (by assumption)

theorem State.dropMedia_keeps {s0 s : State} {x2} (h : Keeps s0 s) :
    Keeps s0 (State.dropMedia s x2) := by
  unfold State.dropMedia
  extract_lets n1 n2 n3 s4 s5
  have hs4 : Keeps s0 s4 := by
    unfold s4
    exact State.setMot_keeps (by assumption)
  clear_value s4
  have hs5 : Keeps s0 s5 := by
    unfold s5
    exact State.setMot_keeps (by assumption)
  clear_value s5
  refine Keeps.ite ?_ ?_
  · assumption
  · refine Keeps.ite ?_ ?_
    · refine Keeps.upd ?_ rfl rfl rfl --UPD .medium
      assumption
    · refine Keeps.ite ?_ ?_
      · refine Keeps.upd ?_ rfl rfl rfl --UPD .medium
        assumption
      · refine Keeps.ite ?_ ?_
        · refine Keeps.ite ?_ ?_
          · refine Keeps.upd ?_ rfl rfl rfl --UPD .medium
            assumption
          · refine Keeps.upd ?_ rfl rfl rfl --UPD .medium
            assumption
        · refine Keeps.ite ?_ ?_
          · refine Keeps.upd ?_ rfl rfl rfl --UPD .medium
            assumption
          · refine Keeps.ite ?_ ?_
            · split
              · assumption
              · extract_lets n6 n7 s8 n9
                have hs8 : Keeps s0 s8 := by
                  unfold s8
                  refine State.dropClean_keeps ?_
                  exact State.setZone_keeps (by assumption)
                clear_value s8
                refine State.rewriteTable_keeps ?_
                exact State.setDisk_keeps (by assumption)
            · assumption

theorem State.stopActivation_keeps {s0 s : State} (h : Keeps s0 s) :
    Keeps s0 (State.stopActivation s) := by
  unfold State.stopActivation
  extract_lets s1 n2
  have hs1 : Keeps s0 s1 := by
    unfold s1
    refine Keeps.ite ?_ ?_
    · assumption
    · refine State.wr_keeps ?_
      refine State.wr_keeps ?_
      exact State.wr_keeps (by assumption)
  clear_value s1
  refine Keeps.ite ?_ ?_
  · assumption
  · refine Keeps.upd ?_ rfl rfl rfl --UPD .boot
    assumption

theorem State.dropAdmin_keeps {s0 s : State} {x2} (h : Keeps s0 s) :
    Keeps s0 (State.dropAdmin s x2) := by
  unfold State.dropAdmin
  extract_lets n1 n2 n3 n4
  refine Keeps.ite ?_ ?_
  · exact State.setGrp_keeps (by assumption)
  · refine Keeps.ite ?_ ?_
    · exact State.dropMedia_keeps (by assumption)
    · refine Keeps.ite ?_ ?_
      · exact State.stopActivation_keeps (by assumption)
      · refine Keeps.ite ?_ ?_
        · refine Keeps.upd ?_ rfl rfl rfl --UPD .boot
          assumption
        · assumption

theorem State.getEnd_keeps {s0 s : State} {x2 x3} (h : Keeps s0 s) :
    Keeps s0 (State.getEnd s x2 x3) := by
  unfold State.getEnd
  extract_lets s1
  have hs1 : Keeps s0 s1 := by
    unfold s1
    exact State.consumeSets_keeps (by assumption)
  clear_value s1
  split
  · refine State.sweepGone_keeps ?_
    exact State.finish_keeps (by assumption)
  · split
    · refine Keeps.ite ?_ ?_
      · refine State.sweepGone_keeps ?_
        exact State.fail_keeps (by assumption)
      · refine State.sweepGone_keeps ?_
        exact State.finish_keeps (by assumption)
    · refine State.sweepGone_keeps ?_
      exact State.finish_keeps (by assumption)

theorem State.lookup_keeps {s0 s : State} {x2} (h : Keeps s0 s) :
    Keeps s0 (State.lookup s x2) := by
  unfold State.lookup
  refine Keeps.ite ?_ ?_
  · exact State.inc_keeps (by assumption)
  · exact State.inc_keeps (by assumption)

theorem State.withMedium_keeps {s0 s : State} {x2 x3 go} (h : Keeps s0 s)
    (hgo : ∀ a1, Keeps s0 a1 → Keeps s0 (go a1)) :
    Keeps s0 (State.withMedium s x2 x3 go) := by
  unfold State.withMedium
  split
  · refine hgo _ ?_
    assumption
  · exact State.setCmd_keeps (by assumption)
  · exact State.conflict_keeps (by assumption)

theorem State.getRun_keeps {s0 s : State} {x1 x3 x4} (h : Keeps s0 s) :
    Keeps s0 (State.getRun x1 s x3 x4) := by
  induction x1 generalizing s x3 x4 with
  | zero =>
    rw [State.getRun]
    assumption
  | succ n ih =>
    rw [State.getRun]
    split
    · assumption
    · split
      · refine State.sweepGone_keeps ?_
        exact State.fail_keeps (by assumption)
      · extract_lets n1 n2 n3 n4
        refine Keeps.ite ?_ ?_
        · exact State.getEnd_keeps (by assumption)
        · split
          · extract_lets n5
            refine ih ?_
            exact State.setCmd_keeps (by assumption)
          · refine Keeps.ite ?_ ?_
            · exact State.setCmd_keeps (by assumption)
            · split
              · refine State.seekSet_keeps ?_
                exact State.setCmd_keeps (by assumption)
              · split
                · extract_lets s6 n7
                  have hs6 : Keeps s0 s6 := by
                    unfold s6
                    refine State.lifeAdd_keeps ?_
                    exact State.deliver_keeps (by assumption)
                  clear_value s6
                  refine ih ?_
                  exact State.setCmd_keeps (by assumption)
                · refine State.fetchUnit_keeps ?_
                  exact State.setCmd_keeps (by assumption)
                · refine ih ?_
                  exact State.setCmd_keeps (by assumption)
                · refine State.sweepGone_keeps ?_
                  exact State.fail_keeps (by assumption)
                · refine State.sweepGone_keeps ?_
                  refine State.fail_keeps ?_
                  exact State.wr_keeps (by assumption)
                · refine State.sweepGone_keeps ?_
                  refine State.fail_keeps ?_
                  refine State.wr_keeps ?_
                  exact State.inc_keeps (by assumption)

theorem State.getGo_keeps {s0 s : State} {x2 x3 x4 x5} (h : Keeps s0 s) :
    Keeps s0 (State.getGo s x2 x3 x4 x5) := by
  unfold State.getGo
  extract_lets s1
  have hs1 : Keeps s0 s1 := by
    unfold s1
    exact State.lookup_keeps (by assumption)
  clear_value s1
  refine Keeps.ite ?_ ?_
  · exact State.askHome_keeps (by assumption)
  · split
    · exact State.fail_keeps (by assumption)
    · split
      · refine Keeps.of_opt ?_ (by assumption)
        exact State.keyBlocked_keeps (by assumption)
      · extract_lets n2 n3 n4
        refine Keeps.ite ?_ ?_
        · exact State.fail_keeps (by assumption)
        · refine Keeps.ite ?_ ?_
          · exact State.setCmd_keeps (by assumption)
          · refine State.withMedium_keeps ?_ (fun s h => ?_)
            · assumption
            · refine State.getRun_keeps ?_
              exact State.setCmd_keeps (by assumption)

theorem State.listGo_keeps {s0 s : State} {x2 x3} (h : Keeps s0 s) :
    Keeps s0 (State.listGo s x2 x3) := by
  unfold State.listGo
  extract_lets s1 n2 n3 s4 n5 n6 n7 s8
  have hs1 : Keeps s0 s1 := by
    unfold s1
    exact State.lookup_keeps (by assumption)
  clear_value s1
  have hs4 : Keeps s0 s4 := by
    unfold s4
    exact State.deliver_keeps (by assumption)
  clear_value s4
  have hs8 : Keeps s0 s8 := by
    unfold s8
    refine Keeps.upd ?_ rfl rfl rfl --UPD .obj
    assumption
  clear_value s8
  refine Keeps.ite ?_ ?_
  · exact State.setCmd_keeps (by assumption)
  · refine Keeps.ite ?_ ?_
    · exact State.finish_keeps (by assumption)
    · exact State.finish_keeps (by assumption)

theorem State.statGo_keeps {s0 s : State} {x2 x3} (h : Keeps s0 s) :
    Keeps s0 (State.statGo s x2 x3) := by
  unfold State.statGo
  refine Keeps.ite ?_ ?_
  · exact State.askHome_keeps (by assumption)
  · split
    · refine State.fail_keeps ?_
      exact State.lookup_keeps (by assumption)
    · refine State.finish_keeps ?_
      exact State.lookup_keeps (by assumption)

theorem execLogCopy_keeps {s0 s : State} (h : Keeps s0 s) :
    Keeps.Out s0 (execLogCopy s) := by
  unfold execLogCopy
  extract_lets n1 n2 s3
  have hs3 : Keeps s0 s3 := by
    unfold s3
    refine Keeps.upd ?_ rfl rfl rfl --UPD .life
    assumption
  clear_value s3
  refine Keeps.iteOut ?_ ?_
  · refine Keeps.iteOut ?_ ?_
    · refine Keeps.next ?_
      assumption
    · split
      extract_lets n4 s5
      have hs5 : Keeps s0 s5 := by
        unfold s5
        refine Keeps.upd ?_ rfl rfl rfl --UPD .obj
        refine Keeps.of_eq ?_ (by assumption)
        exact State.addUnits_keeps (by assumption)
      clear_value s5
      refine Keeps.next ?_
      exact State.tapeTake_keeps (by assumption)
  · refine Keeps.next ?_
    assumption

theorem execGetCmd_keeps {s0 s : State} {x1 x2 x3 x4} (h : Keeps s0 s) :
    Keeps.Out s0 (execGetCmd x1 x2 x3 x4 s) := by
  unfold execGetCmd
  split
  · refine Keeps.next ?_
    assumption
  · refine Keeps.next ?_
    refine State.withMedium_keeps ?_ (fun s h => ?_)
    · assumption
    · exact State.getGo_keeps (by assumption)

theorem execStatCmd_keeps {s0 s : State} {x1 x2} (h : Keeps s0 s) :
    Keeps.Out s0 (execStatCmd x1 x2 s) := by
  unfold execStatCmd
  split
  · refine Keeps.next ?_
    assumption
  · refine Keeps.iteOut ?_ ?_
    · refine Keeps.next ?_
      exact State.finish_keeps (by assumption)
    · refine Keeps.next ?_
      refine State.withMedium_keeps ?_ (fun s h => ?_)
      · assumption
      · exact State.statGo_keeps (by assumption)

theorem execListCmd_keeps {s0 s : State} {x1 x2} (h : Keeps s0 s) :
    Keeps.Out s0 (execListCmd x1 x2 s) := by
  unfold execListCmd
  split
  · refine Keeps.next ?_
    assumption
  · refine Keeps.next ?_
    refine State.withMedium_keeps ?_ (fun s h => ?_)
    · assumption
    · exact State.listGo_keeps (by assumption)

theorem execBarrierCmd_keeps {s0 s : State} {x1} (h : Keeps s0 s) :
    Keeps.Out s0 (execBarrierCmd x1 s) := by
  unfold execBarrierCmd
  split
  · refine Keeps.next ?_
    assumption
  · extract_lets s1
    have hs1 : Keeps s0 s1 := by
      unfold s1
      refine State.closeOpen_keeps ?_
      exact State.setCmd_keeps (by assumption)
    clear_value s1
    refine Keeps.next ?_
    exact State.settle_keeps (by assumption)

theorem execFlushCmd_keeps {s0 s : State} {x1} (h : Keeps s0 s) :
    Keeps.Out s0 (execFlushCmd x1 s) := by
  unfold execFlushCmd
  split
  · refine Keeps.next ?_
    assumption
  · extract_lets n1 n2 n3 n4 s5 s6 s7
    have hs5 : Keeps s0 s5 := by
      unfold s5
      exact State.setCmd_keeps (by assumption)
    clear_value s5
    have hs6 : Keeps s0 s6 := by
      unfold s6
      refine State.discardSlots_keeps ?_
      exact State.endUnstarted_keeps (by assumption)
    clear_value s6
    have hs7 : Keeps s0 s7 := by
      unfold s7
      exact State.closeOpen_keeps (by assumption)
    clear_value s7
    refine Keeps.next ?_
    exact State.settle_keeps (by assumption)

theorem execAbortCmd_keeps {s0 s : State} {x1} (h : Keeps s0 s) :
    Keeps.Out s0 (execAbortCmd x1 s) := by
  unfold execAbortCmd
  split
  · refine Keeps.next ?_
    assumption
  · split
    · refine Keeps.next ?_
      exact State.fail_keeps (by assumption)
    · extract_lets s1 n2 s3
      have hs1 : Keeps s0 s1 := by
        unfold s1
        exact State.setCmd_keeps (by assumption)
      clear_value s1
      have hs3 : Keeps s0 s3 := by
        unfold s3
        refine Keeps.upd ?_ rfl rfl rfl --UPD .sq
        assumption
      clear_value s3
      refine Keeps.iteOut ?_ ?_
      · refine Keeps.next ?_
        exact State.fail_keeps (by assumption)
      · refine Keeps.next ?_
        refine State.fail_keeps ?_
        refine State.dropAdmin_keeps ?_
        exact State.discardWork_keeps (by assumption)

theorem execHealthCmd_keeps {s0 s : State} {x1} (h : Keeps s0 s) :
    Keeps.Out s0 (execHealthCmd x1 s) := by
  unfold execHealthCmd
  split
  · refine Keeps.next ?_
    assumption
  · refine Keeps.next ?_
    refine State.finish_keeps ?_
    exact State.deliver_keeps (by assumption)

theorem execLogRead_keeps {s0 s : State} {x1} (h : Keeps s0 s) :
    Keeps.Out s0 (execLogRead x1 s) := by
  unfold execLogRead
  split
  · refine Keeps.next ?_
    assumption
  · extract_lets n1 n2
    refine Keeps.next ?_
    refine State.finish_keeps ?_
    exact State.deliver_keeps (by assumption)

theorem execDecompressResume_keeps {s0 s : State} {x1 x2 x3} (h : Keeps s0 s) :
    Keeps.Out s0 (execDecompressResume x1 x2 x3 s) := by
  unfold execDecompressResume
  split
  · refine Keeps.iteOut ?_ ?_
    · refine Keeps.iteOut ?_ ?_
      · refine Keeps.next ?_
        refine State.sweepGone_keeps ?_
        refine State.fail_keeps ?_
        exact State.wr_keeps (by assumption)
      · refine Keeps.next ?_
        refine State.getRun_keeps ?_
        exact State.setCmd_keeps (by assumption)
    · refine Keeps.next ?_
      assumption
  · refine Keeps.next ?_
    assumption

end Sys2Proof.Machine
end

