-- ==== Sys2Proof/Laws/KeepsImages.lean ====
section
/-!
SUPPORT. What every operation of Machine/Images.lean keeps (Laws/Keeps.lean).
-/

set_option Elab.async false

namespace Sys2Proof.Machine

theorem State.setBoot_keeps {s0 s : State} {b : BootSt} (h : Keeps s0 s)
    (hf : b.fuses.blown = s.boot.fuses.blown := by rfl) (hb : s.boot.norOk → b.norOk := by exact id) :
    Keeps s0 (State.setBoot s b) :=
  ⟨h.queue, h.out, hf.trans h.fuses, fun hs => let i := h.inv hs; ⟨i.uids, i.evt, i.regs, i.mem, hb i.nor⟩⟩

theorem State.applyImage_keeps {s0 s : State} (h : Keeps s0 s) :
    Keeps s0 (State.applyImage s) := by
  unfold State.applyImage
  extract_lets n1 n2 n3 n4 n5 n6 n7 n8 s9 n10 s11 s12 n13
  have hs9 : Keeps s0 s9 := by
    unfold s9
    refine State.syncIngest_keeps ?_
    refine Keeps.foldl _ ?_ (fun s _ h => ?_)
    · assumption
    · exact State.applyRec_keeps (by assumption)
  clear_value s9
  have hs11 : Keeps s0 s11 := by
    unfold s11
    exact State.setBoot_keeps (by assumption)
  clear_value s11
  have hs12 : Keeps s0 s12 := by
    unfold s12
    refine Keeps.ite ?_ ?_
    · assumption
    · exact State.raise_keeps (by assumption)
  clear_value s12
  exact State.writeImgRec_keeps (by assumption)

theorem State.sendParts_keeps {s0 s : State} {x2 x3 x4} (h : Keeps s0 s) :
    Keeps s0 (State.sendParts s x2 x3 x4) := by
  unfold State.sendParts
  split
  · assumption
  · refine Keeps.foldl _ ?_ (fun s _ h => ?_)
    · assumption
    · refine Keeps.ite ?_ ?_
      · exact State.sendMgmtCmd_keeps (by assumption)
      · split
        · exact State.setCmd_keeps (by assumption)
        · assumption

theorem State.endActivation_keeps {s0 s : State} {x2} (h : Keeps s0 s) :
    Keeps s0 (State.endActivation s x2) := by
  unfold State.endActivation
  extract_lets s1 n2 s3 s4
  have hs1 : Keeps s0 s1 := by
    unfold s1
    refine State.wr_keeps ?_
    exact State.wr_keeps (by assumption)
  clear_value s1
  have hs3 : Keeps s0 s3 := by
    unfold s3
    refine State.setBoot_keeps ?_
    exact State.wr_keeps (by assumption)
  clear_value s3
  have hs4 : Keeps s0 s4 := by
    unfold s4
    exact State.raise_keeps (by assumption)
  clear_value s4
  refine Keeps.ite ?_ ?_
  · assumption
  · exact State.finish_keeps (by assumption)

theorem State.beginQuiesce_keeps {s0 s : State} {x2} (h : Keeps s0 s) :
    Keeps s0 (State.beginQuiesce s x2) := by
  unfold State.beginQuiesce
  extract_lets s1 s2 n3 s4 s5
  have hs1 : Keeps s0 s1 := by
    unfold s1
    exact State.setCmd_keeps (by assumption)
  clear_value s1
  have hs2 : Keeps s0 s2 := by
    unfold s2
    refine State.wr_keeps ?_
    exact State.wr_keeps (by assumption)
  clear_value s2
  have hs4 : Keeps s0 s4 := by
    unfold s4
    refine State.setBoot_keeps ?_
    exact State.wr_keeps (by assumption)
  clear_value s4
  have hs5 : Keeps s0 s5 := by
    unfold s5
    exact State.raise_keeps (by assumption)
  clear_value s5
  refine State.discardSlots_keeps ?_
  exact State.endUnstarted_keeps (by assumption)

theorem State.activateStep_keeps {s0 s : State} {x2} (h : Keeps s0 s) :
    Keeps s0 (State.activateStep s x2) := by
  unfold State.activateStep
  extract_lets n1 s2 n3 s4
  have hs2 : Keeps s0 s2 := by
    unfold s2
    exact State.setBoot_keeps (by assumption)
  clear_value s2
  have hs4 : Keeps s0 s4 := by
    unfold s4
    refine Keeps.ite ?_ ?_
    · exact State.writeImgRec_keeps (by assumption)
    · assumption
  clear_value s4
  refine Keeps.ite ?_ ?_
  · exact State.endActivation_keeps (by assumption)
  · refine Keeps.ite ?_ ?_
    · assumption
    · refine Keeps.ite ?_ ?_
      · exact State.finish_keeps (by assumption)
      · refine Keeps.ite ?_ ?_
        · exact State.finish_keeps (by assumption)
        · refine Keeps.ite ?_ ?_
          · exact State.finish_keeps (by assumption)
          · exact State.beginQuiesce_keeps (by assumption)

theorem State.activateGo_keeps {s0 s : State} {x2} (h : Keeps s0 s) :
    Keeps s0 (State.activateGo s x2) := by
  unfold State.activateGo
  extract_lets n1 n2 n3 n4 s5 s6
  have hs5 : Keeps s0 s5 := by
    unfold s5
    refine State.setBoot_keeps ?_
    exact State.setCmd_keeps (by assumption)
  clear_value s5
  have hs6 : Keeps s0 s6 := by
    unfold s6
    exact State.sendParts_keeps (by assumption)
  clear_value s6
  refine Keeps.ite ?_ ?_
  · refine State.finish_keeps ?_
    exact State.applyImage_keeps (by assumption)
  · refine Keeps.ite ?_ ?_
    · exact State.conflict_keeps (by assumption)
    · split
      · exact State.activateStep_keeps (by assumption)
      · assumption

theorem State.activateCmd_keeps {s0 s : State} {x2 x3} (h : Keeps s0 s) :
    Keeps s0 (State.activateCmd s x2 x3) := by
  unfold State.activateCmd
  split
  · refine Keeps.ite ?_ ?_
    · exact State.activateGo_keeps (by assumption)
    · assumption
  · assumption

theorem State.endHere_keeps {s0 s : State} {x2 x3 x4 x5} (h : Keeps s0 s) :
    Keeps s0 (State.endHere s x2 x3 x4 x5) := by
  unfold State.endHere
  extract_lets n1
  exact State.setCmd_keeps (by assumption)

theorem State.startPage_keeps {s0 s : State} {x2 x3} (h : Keeps s0 s) :
    Keeps s0 (State.startPage s x2 x3) := by
  unfold State.startPage
  extract_lets n1
  refine State.emit_keeps ?_
  exact State.setBoot_keeps (by assumption)

theorem State.writeStep_keeps {s0 s : State} {x2} (h : Keeps s0 s) :
    Keeps s0 (State.writeStep s x2) := by
  unfold State.writeStep
  split
  · assumption
  · extract_lets n1 s2 n3 s4
    have hs2 : Keeps s0 s2 := by
      unfold s2
      refine Keeps.ite ?_ ?_
      · refine State.sendParts_keeps ?_
        exact State.setCmd_keeps (by assumption)
      · assumption
    clear_value s2
    have hs4 : Keeps s0 s4 := by
      unfold s4
      split
      · assumption
      · refine Keeps.ite ?_ ?_
        · assumption
        · refine Keeps.ite ?_ ?_
          · exact State.endHere_keeps (by assumption)
          · refine Keeps.ite ?_ ?_
            · assumption
            · exact State.startPage_keeps (by assumption)
    clear_value s4
    refine Keeps.ite ?_ ?_
    · assumption
    · split
      · assumption
      · refine Keeps.ite ?_ ?_
        · exact State.finish_keeps (by assumption)
        · assumption

theorem State.disablePort_keeps {s0 s : State} {x2} (h : Keeps s0 s) : Keeps s0 (State.disablePort s x2) := by
  unfold State.disablePort
  refine Keeps.foldl _ h fun s x h => ?_
  extract_lets s1 n2 s3
  have hs3 : Keeps s0 s3 := Keeps.ite (Keeps.upd (State.wri_keeps h) rfl rfl rfl) h
  exact Keeps.ite (State.wri_keeps hs3) hs3

theorem State.dropLost_keeps {s0 s : State} {x2} (h : Keeps s0 s) :
    Keeps s0 (State.dropLost s x2) := by
  unfold State.dropLost
  extract_lets s1 s2 s3 n4 s5
  have hs1 : Keeps s0 s1 := by
    unfold s1
    refine State.dropAdmin_keeps ?_
    exact State.discardWork_keeps (by assumption)
  clear_value s1
  have hs2 : Keeps s0 s2 := by
    unfold s2
    refine Keeps.ite ?_ ?_
    · exact State.stopActivation_keeps (by assumption)
    · assumption
  clear_value s2
  have hs3 : Keeps s0 s3 := by
    unfold s3
    refine State.release_keeps ?_
    refine State.syncIngest_keeps ?_
    exact State.dropCmd_keeps (by assumption)
  clear_value s3
  have hs5 : Keeps s0 s5 := by
    unfold s5
    refine Keeps.upd ?_ rfl rfl rfl --UPD .sq
    assumption
  clear_value s5
  exact State.resolveAborts_keeps (by assumption)

theorem State.endPort_keeps {s0 s : State} {x2} (h : Keeps s0 s) :
    Keeps.Pair s0 (State.endPort s x2) := by
  unfold State.endPort
  extract_lets n1 n2 n3 s4 s5 s6
  have hs4 : Keeps s0 s4 := by
    unfold s4
    refine Keeps.upd ?_ rfl rfl rfl --UPD .sq
    assumption
  clear_value s4
  have hs5 : Keeps s0 s5 := by
    unfold s5
    refine Keeps.foldl _ ?_ (fun s _ h => ?_)
    · assumption
    · refine State.resolveAborts_keeps ?_
      exact State.release_keeps (by assumption)
  clear_value s5
  have hs6 : Keeps s0 s6 := by
    unfold s6
    refine Keeps.foldl _ ?_ (fun s _ h => ?_)
    · assumption
    · exact State.dropLost_keeps (by assumption)
  clear_value s6
  refine Keeps.pair ?_
  exact State.settle_keeps (by assumption)

theorem State.eraseSlot_keeps {s0 s : State} {x2} (h : Keeps s0 s) : Keeps s0 (State.eraseSlot s x2) := by
  unfold State.eraseSlot
  exact State.setBoot_keeps h rfl (Store.wf_filter _ _ _)

theorem State.startErase_keeps {s0 s : State} {x2} (h : Keeps s0 s) :
    Keeps s0 (State.startErase s x2) := by
  unfold State.startErase
  extract_lets n1
  refine State.emit_keeps ?_
  exact State.setBoot_keeps (by assumption)

theorem State.markWriting_keeps {s0 s : State} {x2} (h : Keeps s0 s) :
    Keeps s0 (State.markWriting s x2) := by
  unfold State.markWriting
  extract_lets n1
  exact State.writeImgRec_keeps (by assumption)

theorem State.rcvErase_keeps {s0 s : State} {x2 x3} (h : Keeps s0 s) :
    Keeps s0 (State.rcvErase s x2 x3) := by
  unfold State.rcvErase
  refine Keeps.ite ?_ ?_
  · refine State.wr_keeps ?_
    refine State.startErase_keeps ?_
    exact State.markWriting_keeps (by assumption)
  · assumption

theorem State.rcvProgram_keeps {s0 s : State} {x2 x3} (h : Keeps s0 s) :
    Keeps s0 (State.rcvProgram s x2 x3) := by
  unfold State.rcvProgram
  extract_lets n1
  refine Keeps.ite ?_ ?_
  · refine State.wr_keeps ?_
    exact State.startPage_keeps (by assumption)
  · assumption

theorem State.rcvRead_keeps {s0 s : State} {x2 x3} (h : Keeps s0 s) :
    Keeps s0 (State.rcvRead s x2 x3) := by
  unfold State.rcvRead
  extract_lets n1
  refine Keeps.ite ?_ ?_
  · refine Keeps.foldl _ ?_ (fun s _ h => ?_)
    · assumption
    · exact State.wri_keeps (by assumption)
  · assumption

theorem State.markChecked_keeps {s0 s : State} {x2 x3} (h : Keeps s0 s) :
    Keeps s0 (State.markChecked s x2 x3) := by
  unfold State.markChecked
  exact State.writeImgRec_keeps (by assumption)

theorem State.rcvSelect_keeps {s0 s : State} {x2 x3} (h : Keeps s0 s) :
    Keeps s0 (State.rcvSelect s x2 x3) := by
  unfold State.rcvSelect
  extract_lets n1 s2 n3
  have hs2 : Keeps s0 s2 := by
    unfold s2
    exact State.markChecked_keeps (by assumption)
  clear_value s2
  refine Keeps.ite ?_ ?_
  · assumption
  · refine Keeps.ite ?_ ?_
    · exact State.writeImgRec_keeps (by assumption)
    · exact State.wr_keeps (by assumption)

theorem State.writeSteps_keeps {s0 s : State} (h : Keeps s0 s) :
    Keeps s0 (State.writeSteps s) := by
  unfold State.writeSteps
  refine Keeps.foldl _ ?_ (fun s _ h => ?_)
  · assumption
  · exact State.writeStep_keeps (by assumption)

theorem State.writeFails_keeps {s0 s : State} (h : Keeps s0 s) :
    Keeps s0 (State.writeFails s) := by
  unfold State.writeFails
  extract_lets n1
  refine State.writeSteps_keeps ?_
  refine Keeps.foldl _ ?_ (fun s _ h => ?_)
  · assumption
  · exact State.endHere_keeps (by assumption)

theorem State.writeGo_keeps {s0 s : State} {x2} (h : Keeps s0 s) :
    Keeps s0 (State.writeGo s x2) := by
  unfold State.writeGo
  extract_lets n1 n2 n3 s4 n5 s6 s7
  have hs4 : Keeps s0 s4 := by
    unfold s4
    exact State.setCmd_keeps (by assumption)
  clear_value s4
  have hs6 : Keeps s0 s6 := by
    unfold s6
    exact State.setBoot_keeps (by assumption)
  clear_value s6
  have hs7 : Keeps s0 s7 := by
    unfold s7
    refine Keeps.ite ?_ ?_
    · refine State.startErase_keeps ?_
      exact State.markWriting_keeps (by assumption)
    · assumption
  clear_value s7
  refine Keeps.ite ?_ ?_
  · exact State.setCmd_keeps (by assumption)
  · refine Keeps.ite ?_ ?_
    · exact State.fail_keeps (by assumption)
    · refine Keeps.ite ?_ ?_
      · exact State.fail_keeps (by assumption)
      · refine State.writeStep_keeps ?_
        exact State.askData_keeps (by assumption)

theorem execRcvErase_keeps {s0 s : State} {x1 x2} (h : Keeps s0 s) :
    Keeps.Out s0 (execRcvErase x1 x2 s) := by
  unfold execRcvErase
  refine Keeps.next ?_
  exact State.rcvErase_keeps (by assumption)

theorem execRcvProgram_keeps {s0 s : State} {x1 x2} (h : Keeps s0 s) :
    Keeps.Out s0 (execRcvProgram x1 x2 s) := by
  unfold execRcvProgram
  refine Keeps.next ?_
  exact State.rcvProgram_keeps (by assumption)

theorem execRcvRead_keeps {s0 s : State} {x1 x2} (h : Keeps s0 s) :
    Keeps.Out s0 (execRcvRead x1 x2 s) := by
  unfold execRcvRead
  refine Keeps.next ?_
  exact State.rcvRead_keeps (by assumption)

theorem execRcvSelect_keeps {s0 s : State} {x1 x2} (h : Keeps s0 s) :
    Keeps.Out s0 (execRcvSelect x1 x2 s) := by
  unfold execRcvSelect
  refine Keeps.next ?_
  exact State.rcvSelect_keeps (by assumption)

theorem execDataLinkDown_keeps {s0 s : State} {x1} (h : Keeps s0 s) :
    Keeps.Out s0 (execDataLinkDown x1 s) := by
  unfold execDataLinkDown
  extract_lets s1 s2 s3 n4 s5 n6 s7
  have hs1 : Keeps s0 s1 := by
    unfold s1
    refine State.setLink_keeps ?_
    refine State.clearCfgSpace_keeps ?_
    exact State.disablePort_keeps (by assumption)
  clear_value s1
  have hs2 : Keeps s0 s2 := by
    unfold s2
    exact State.wr_keeps (by assumption)
  clear_value s2
  have hs3 : Keeps s0 s3 := by
    unfold s3
    refine Keeps.ite ?_ ?_
    · refine Keeps.ite ?_ ?_
      · assumption
      · exact State.signal_keeps (by assumption)
    · assumption
  clear_value s3
  have hs5 : Keeps s0 s5 := by
    unfold s5
    refine State.resetCause_keeps ?_
    refine State.setLink_keeps ?_
    refine State.clearCfgSpace_keeps ?_
    exact State.resetWarm_keeps (by assumption)
  clear_value s5
  have hs7 : Keeps s0 s7 := by
    unfold s7
    refine Keeps.upd ?_ rfl rfl rfl --UPD .host
    assumption
  clear_value s7
  refine Keeps.iteOut ?_ ?_
  · refine Keeps.next ?_
    assumption
  · refine Keeps.iteOut ?_ ?_
    · split
      refine Keeps.next ?_
      refine State.raise_keeps ?_
      refine Keeps.of_eq ?_ (by assumption)
      exact State.endPort_keeps (by assumption)
    · refine Keeps.next ?_
      exact State.raise_keeps (by assumption)

theorem execImageWrite_keeps {s0 s : State} {x1} (h : Keeps s0 s) :
    Keeps.Out s0 (execImageWrite x1 s) := by
  unfold execImageWrite
  split
  · refine Keeps.next ?_
    assumption
  · refine Keeps.next ?_
    exact State.writeGo_keeps (by assumption)

theorem execImageActivateDefer_keeps {s0 s : State} {x1} (h : Keeps s0 s) :
    Keeps.Out s0 (execImageActivateDefer x1 s) := by
  unfold execImageActivateDefer
  refine Keeps.next ?_
  exact State.activateCmd_keeps (by assumption)

theorem execImageActivateNow_keeps {s0 s : State} {x1} (h : Keeps s0 s) :
    Keeps.Out s0 (execImageActivateNow x1 s) := by
  unfold execImageActivateNow
  refine Keeps.next ?_
  exact State.activateCmd_keeps (by assumption)

theorem execImageCheckDone_keeps {s0 s : State} {x1 x2} (h : Keeps s0 s) :
    Keeps.Out s0 (execImageCheckDone x1 x2 s) := by
  unfold execImageCheckDone
  split
  · refine Keeps.next ?_
    assumption
  · extract_lets n1 n2 s3 s4
    have hs3 : Keeps s0 s3 := by
      unfold s3
      exact State.markChecked_keeps (by assumption)
    clear_value s3
    have hs4 : Keeps s0 s4 := by
      unfold s4
      refine Keeps.ite ?_ ?_
      · exact State.endHere_keeps (by assumption)
      · refine Keeps.ite ?_ ?_
        · exact State.endHere_keeps (by assumption)
        · exact State.endHere_keeps (by assumption)
    clear_value s4
    refine Keeps.iteOut ?_ ?_
    · refine Keeps.next ?_
      assumption
    · split
      · refine Keeps.next ?_
        exact State.activateStep_keeps (by assumption)
      · refine Keeps.next ?_
        assumption

theorem execActivationApply_keeps {s0 s : State} {x1} (h : Keeps s0 s) :
    Keeps.Out s0 (execActivationApply x1 s) := by
  unfold execActivationApply
  split
  · refine Keeps.next ?_
    assumption
  · extract_lets s1 n2 s3
    have hs1 : Keeps s0 s1 := by
      unfold s1
      refine Keeps.ite ?_ ?_
      · exact State.applyImage_keeps (by assumption)
      · assumption
    clear_value s1
    have hs3 : Keeps s0 s3 := by
      unfold s3
      refine State.sendParts_keeps ?_
      exact State.setBoot_keeps (by assumption)
    clear_value s3
    refine Keeps.iteOut ?_ ?_
    · refine Keeps.next ?_
      assumption
    · refine Keeps.iteOut ?_ ?_
      · refine Keeps.next ?_
        exact State.endActivation_keeps (by assumption)
      · refine Keeps.iteOut ?_ ?_
        · refine Keeps.next ?_
          assumption
        · split
          · refine Keeps.next ?_
            exact State.endActivation_keeps (by assumption)
          · refine Keeps.next ?_
            assumption

theorem execNorOperationDone_keeps {s0 s : State} {x1} (h : Keeps s0 s) :
    Keeps.Out s0 (execNorOperationDone x1 s) := by
  have put : ∀ (l : List Byte) (m : Store Byte) a, Store.wf 0xFF#8 m = true → Store.wf 0xFF#8 (norPut m a l) = true := by
    intro l
    induction l with
    | nil => exact fun _ _ h => h
    | cons b t ih => exact fun m a h => ih _ _ (Store.wf_put _ _ _ _ h)
  unfold execNorOperationDone
  extract_lets b op n1 s1 n2 s2 bad n3 s3
  refine Keeps.iteOut (Keeps.next h) ?_
  have h1 : Keeps s0 s1 := Keeps.ite (State.eraseSlot_keeps h) (State.setBoot_keeps h rfl (put _ _ _))
  have h2 : Keeps s0 s2 := State.setBoot_keeps h1
  clear_value s2
  have h3 : Keeps s0 s3 := Keeps.ite (State.setBoot_keeps h2) h2
  clear_value s3
  refine Keeps.iteOut (Keeps.next (State.wr_keeps (Keeps.ite (State.wr_keeps h2) h2))) (Keeps.iteOut ?_ ?_)
  · exact Keeps.next (State.writeFails_keeps h2)
  · exact Keeps.next (State.writeSteps_keeps h3)

end Sys2Proof.Machine
end

