-- ==== Sys2Proof/Laws/KeepsJtag.lean ====
section
/-!
SUPPORT. What every operation of Machine/Jtag.lean keeps (Laws/Keeps.lean).
-/

set_option Elab.async false

namespace Sys2Proof.Machine

theorem State.setJtag_keeps {s0 s : State} {x2 x3} (h : Keeps s0 s) :
    Keeps s0 (State.setJtag s x2 x3) := by
  unfold State.setJtag
  refine Keeps.upd ?_ rfl rfl rfl --UPD .pins
  assumption

theorem execJtagTapOperation_keeps {s : State} {op : JtagOp} :
    ∃ t, execJtagTapOperation op s = .next t ∧ t.pending = s.pending ∧ s.out <:+ t.out ∧ (s.Inv → t.Inv) := by
  have fz : ∀ f, ((s.setJtag 4 s.pins.boundary).setFuses f).pending = s.pending ∧
      s.out <:+ ((s.setJtag 4 s.pins.boundary).setFuses f).out ∧
      (s.Inv → ((s.setJtag 4 s.pins.boundary).setFuses f).Inv) :=
    fun f => ⟨rfl, List.suffix_refl _, fun i => ⟨i.uids, i.evt, i.regs, i.mem, i.nor⟩⟩
  have k : ∀ t, Keeps s t → t.pending = s.pending ∧ s.out <:+ t.out ∧ (s.Inv → t.Inv) :=
    fun t h => ⟨h.queue, h.out, h.inv⟩
  refine ⟨_, rfl, ?_⟩
  have j : ∀ a b, Keeps s (s.setJtag a b) := fun a b => State.setJtag_keeps (Keeps.refl s)
  cases op with
  | idcode => exact k _ (State.emit_keeps (j _ _))
  | bypass => exact k _ (State.emit_keeps (j _ _))
  | sample => exact k _ (State.emit_keeps (j _ _))
  | extest => exact k _ (State.emit_keeps (State.emit_keeps (j _ _)))
  | keyHash => exact fz _
  | revoke => exact fz _
  | minSvn => exact fz _
  | uniqueId => exact fz _
  | trst => exact k _ (j _ _)

end Sys2Proof.Machine
end

