-- ==== Sys2Proof/Laws/KeepsKeys.lean ====
section
/-!
SUPPORT. What every operation of Machine/Keys.lean keeps (Laws/Keeps.lean).
-/

set_option Elab.async false

namespace Sys2Proof.Machine

theorem State.setKey_keeps {s0 s : State} {x2 x3} (h : Keeps s0 s) :
    Keeps s0 (State.setKey s x2 x3) := by
  unfold State.setKey
  extract_lets n1
  refine Keeps.upd ?_ rfl rfl rfl --UPD .obj
  assumption

theorem State.keyDone_keeps {s0 s : State} {x2} (h : Keeps s0 s) :
    Keeps s0 (State.keyDone s x2) := by
  unfold State.keyDone
  refine Keeps.ite ?_ ?_
  · assumption
  · refine Keeps.ite ?_ ?_
    · exact State.finish_keeps (by assumption)
    · refine State.finish_keeps ?_
      exact State.setKey_keeps (by assumption)

theorem State.keyGo_keeps {s0 s : State} {x2} (h : Keeps s0 s) :
    Keeps s0 (State.keyGo s x2) := by
  unfold State.keyGo
  extract_lets n1 n2 s3
  have hs3 : Keeps s0 s3 := by
    unfold s3
    exact State.setCmd_keeps (by assumption)
  clear_value s3
  split
  · refine Keeps.ite ?_ ?_
    · refine State.keyDone_keeps ?_
      exact State.sendMgmtCmd_keeps (by assumption)
    · exact State.keyDone_keeps (by assumption)
  · exact State.keyDone_keeps (by assumption)

theorem State.keyData_keeps {s0 s : State} {x2} (h : Keeps s0 s) :
    Keeps s0 (State.keyData s x2) := by
  unfold State.keyData
  refine Keeps.ite ?_ ?_
  · assumption
  · refine Keeps.ite ?_ ?_
    · exact State.fail_keeps (by assumption)
    · exact State.keyGo_keeps (by assumption)

theorem execDmaDataArrival_keeps {s0 s : State} {x1 x2} (h : Keeps s0 s) :
    Keeps.Out s0 (execDmaDataArrival x1 x2 s) := by
  unfold execDmaDataArrival
  split
  · refine Keeps.next ?_
    assumption
  · extract_lets n1 n2 s3
    have hs3 : Keeps s0 s3 := by
      unfold s3
      exact State.setCmd_keeps (by assumption)
    clear_value s3
    refine Keeps.iteOut ?_ ?_
    · refine Keeps.next ?_
      assumption
    · refine Keeps.iteOut ?_ ?_
      · refine Keeps.next ?_
        exact State.syncIngest_keeps (by assumption)
      · refine Keeps.iteOut ?_ ?_
        · refine Keeps.next ?_
          exact State.keyData_keeps (by assumption)
        · refine Keeps.next ?_
          exact State.writeStep_keeps (by assumption)

theorem execKeyLoadLoad_keeps {s0 s : State} {x1} (h : Keeps s0 s) :
    Keeps.Out s0 (execKeyLoadLoad x1 s) := by
  unfold execKeyLoadLoad
  split
  · refine Keeps.next ?_
    assumption
  · extract_lets n1
    refine Keeps.iteOut ?_ ?_
    · refine Keeps.next ?_
      assumption
    · refine Keeps.iteOut ?_ ?_
      · refine Keeps.next ?_
        exact State.conflict_keeps (by assumption)
      · refine Keeps.next ?_
        refine State.keyData_keeps ?_
        refine State.askData_keeps ?_
        exact State.setCmd_keeps (by assumption)

theorem execKeyLoadClear_keeps {s0 s : State} {x1} (h : Keeps s0 s) :
    Keeps.Out s0 (execKeyLoadClear x1 s) := by
  unfold execKeyLoadClear
  split
  · refine Keeps.next ?_
    assumption
  · refine Keeps.iteOut ?_ ?_
    · refine Keeps.next ?_
      assumption
    · refine Keeps.iteOut ?_ ?_
      · refine Keeps.next ?_
        exact State.conflict_keeps (by assumption)
      · refine Keeps.next ?_
        exact State.keyGo_keeps (by assumption)

end Sys2Proof.Machine
end

