-- ==== Sys2Proof/Laws/KeepsMediaCmds.lean ====
section
/-!
SUPPORT. What every operation of Machine/MediaCmds.lean keeps (Laws/Keeps.lean).
-/

set_option Elab.async false

namespace Sys2Proof.Machine

theorem State.cleanGo_keeps {s0 s : State} {x2} (h : Keeps s0 s) :
    Keeps s0 (State.cleanGo s x2) := by
  unfold State.cleanGo
  extract_lets n1 n2 n3
  refine Keeps.ite ?_ ?_
  · exact State.fail_keeps (by assumption)
  · refine Keeps.ite ?_ ?_
    · exact State.setCmd_keeps (by assumption)
    · refine Keeps.ite ?_ ?_
      · exact State.conflict_keeps (by assumption)
      · refine Keeps.ite ?_ ?_
        · exact State.conflict_keeps (by assumption)
        · refine Keeps.ite ?_ ?_
          · exact State.finish_keeps (by assumption)
          · refine Keeps.ite ?_ ?_
            · exact State.conflict_keeps (by assumption)
            · refine Keeps.ite ?_ ?_
              · exact State.conflict_keeps (by assumption)
              · refine Keeps.ite ?_ ?_
                · exact State.setCmd_keeps (by assumption)
                · refine State.startClean_keeps ?_
                  exact State.setCmd_keeps (by assumption)

theorem State.diskStop_keeps {s0 s : State} (h : Keeps s0 s) :
    Keeps s0 (State.diskStop s) := by
  unfold State.diskStop
  extract_lets s1 n2
  have hs1 : Keeps s0 s1 := by
    unfold s1
    refine Keeps.ite ?_ ?_
    · refine State.saveLevels_keeps ?_
      exact State.rewriteTable_keeps (by assumption)
    · assumption
  clear_value s1
  refine Keeps.ite ?_ ?_
  · refine State.stopReached_keeps ?_
    refine State.setMot_keeps ?_
    exact State.stopSpindle_keeps (by assumption)
  · assumption

theorem State.eraseUnits_keeps {s0 s : State} (h : Keeps s0 s) :
    Keeps s0 (State.eraseUnits s) := by
  unfold State.eraseUnits
  extract_lets n1
  refine Keeps.upd ?_ rfl rfl rfl --UPD .obj
  assumption

theorem State.formatDisk_keeps {s0 s : State} {x2 x3} (h : Keeps s0 s) :
    Keeps s0 (State.formatDisk s x2 x3) := by
  unfold State.formatDisk
  extract_lets n1 n2 n3 n4 n5 s6 n7 n8 n9 n10 s11 s12 n13
  have hs6 : Keeps s0 s6 := by
    unfold s6
    refine State.wr_keeps ?_
    exact State.wr_keeps (by assumption)
  clear_value s6
  have hs11 : Keeps s0 s11 := by
    unfold s11
    exact State.setDisk_keeps (by assumption)
  clear_value s11
  have hs12 : Keeps s0 s12 := by
    unfold s12
    refine State.rewriteTable_keeps ?_
    refine State.tickFree_keeps ?_
    exact State.eraseUnits_keeps (by assumption)
  clear_value s12
  exact State.setDisk_keeps (by assumption)

theorem State.formatGo_keeps {s0 s : State} {x2} (h : Keeps s0 s) :
    Keeps s0 (State.formatGo s x2) := by
  unfold State.formatGo
  extract_lets n1 s2 n3
  have hs2 : Keeps s0 s2 := by
    unfold s2
    exact State.setCmd_keeps (by assumption)
  clear_value s2
  refine Keeps.ite ?_ ?_
  · exact State.conflict_keeps (by assumption)
  · refine Keeps.ite ?_ ?_
    · exact State.conflict_keeps (by assumption)
    · refine Keeps.upd ?_ rfl rfl rfl --UPD .medium
      assumption

theorem State.stopStep_keeps {s0 s : State} (h : Keeps s0 s) :
    Keeps s0 (State.stopStep s) := by
  unfold State.stopStep
  refine Keeps.ite ?_ ?_
  · exact State.advanceStop_keeps (by assumption)
  · exact State.diskStop_keeps (by assumption)

theorem State.formatReached_keeps {s0 s : State} (h : Keeps s0 s) :
    Keeps s0 (State.formatReached s) := by
  unfold State.formatReached
  extract_lets s1
  have hs1 : Keeps s0 s1 := by
    unfold s1
    exact State.setMedium_keeps (by assumption)
  clear_value s1
  refine State.stopStep_keeps ?_
  refine State.startReached_keeps ?_
  exact State.endMedia_keeps (by assumption)

theorem State.formatTape_keeps {s0 s : State} (h : Keeps s0 s) :
    Keeps s0 (State.formatTape s) := by
  unfold State.formatTape
  extract_lets n1 n2 n3 n4 n5 s6 s7
  have hs6 : Keeps s0 s6 := by
    unfold s6
    exact State.setTape_keeps (by assumption)
  clear_value s6
  have hs7 : Keeps s0 s7 := by
    unfold s7
    refine State.wr_keeps ?_
    exact State.wr_keeps (by assumption)
  clear_value s7
  refine State.syncLevel_keeps ?_
  refine State.wr_keeps ?_
  refine State.tickFree_keeps ?_
  exact State.eraseUnits_keeps (by assumption)

theorem State.infoGo_keeps {s0 s : State} {x2} (h : Keeps s0 s) :
    Keeps s0 (State.infoGo s x2) := by
  unfold State.infoGo
  extract_lets n1
  exact State.finish_keeps (by assumption)

theorem State.startMedium_keeps {s0 s : State} (h : Keeps s0 s) :
    Keeps s0 (State.startMedium s) := by
  unfold State.startMedium
  extract_lets s1 n2 s3 n4 s5
  have hs1 : Keeps s0 s1 := by
    unfold s1
    refine Keeps.foldl _ ?_ (fun s _ h => ?_)
    · assumption
    · exact State.applyRec_keeps (by assumption)
  clear_value s1
  have hs3 : Keeps s0 s3 := by
    unfold s3
    refine Keeps.upd ?_ rfl rfl rfl --UPD .medium
    assumption
  clear_value s3
  have hs5 : Keeps s0 s5 := by
    unfold s5
    exact State.setMot_keeps (by assumption)
  clear_value s5
  refine Keeps.ite ?_ ?_
  · refine State.loadEnter_keeps ?_
    refine State.sendMdrv_keeps ?_
    refine Keeps.foldl _ ?_ (fun s _ h => ?_)
    · assumption
    · exact State.enableLane_keeps (by assumption)
  · refine State.loadLevels_keeps ?_
    refine State.loadBus_keeps ?_
    refine State.loadBus_keeps ?_
    exact State.startSpindle_keeps (by assumption)

theorem State.onMember_keeps {s0 s : State} {x2 x3 go} (h : Keeps s0 s)
    (hgo : ∀ a1 a2, Keeps s0 a1 → Keeps s0 (go a1 a2)) :
    Keeps s0 (State.onMember s x2 x3 go) := by
  unfold State.onMember
  extract_lets n1
  refine Keeps.ite ?_ ?_
  · refine hgo _ _ ?_
    assumption
  · refine Keeps.ite ?_ ?_
    · exact State.conflict_keeps (by assumption)
    · refine Keeps.ite ?_ ?_
      · refine hgo _ _ ?_
        assumption
      · refine Keeps.ite ?_ ?_
        · exact State.fail_keeps (by assumption)
        · refine State.sendMgmtCmd_keeps ?_
          exact State.setCmd_keeps (by assumption)

theorem State.restartMedium_keeps {s0 s : State} (h : Keeps s0 s) :
    Keeps s0 (State.restartMedium s) := by
  unfold State.restartMedium
  extract_lets n1
  refine Keeps.ite ?_ ?_
  · refine State.startMedium_keeps ?_
    refine Keeps.upd ?_ rfl rfl rfl --UPD .medium
    assumption
  · assumption

theorem State.startGo_keeps {s0 s : State} {x2} (h : Keeps s0 s) :
    Keeps s0 (State.startGo s x2) := by
  unfold State.startGo
  extract_lets n1 f2
  have hf2 : ∀ a1, Keeps s0 a1 → Keeps s0 (f2 a1) := by
    intro a1 h
    unfold f2
    exact State.setCmd_keeps (by assumption)
  refine Keeps.ite ?_ ?_
  · exact State.finish_keeps (by assumption)
  · refine Keeps.ite ?_ ?_
    · refine hf2 _ ?_
      assumption
    · refine Keeps.ite ?_ ?_
      · exact State.conflict_keeps (by assumption)
      · refine Keeps.ite ?_ ?_
        · exact State.setCmd_keeps (by assumption)
        · refine Keeps.ite ?_ ?_
          · exact State.conflict_keeps (by assumption)
          · refine State.startMedium_keeps ?_
            refine hf2 _ ?_
            assumption

theorem State.stopGo_keeps {s0 s : State} {x2} (h : Keeps s0 s) :
    Keeps s0 (State.stopGo s x2) := by
  unfold State.stopGo
  extract_lets n1 s2 n3 n4 n5 s6 n7 s8
  have hs2 : Keeps s0 s2 := by
    unfold s2
    exact State.setCmd_keeps (by assumption)
  clear_value s2
  have hs6 : Keeps s0 s6 := by
    unfold s6
    exact State.setMot_keeps (by assumption)
  clear_value s6
  have hs8 : Keeps s0 s8 := by
    unfold s8
    refine Keeps.upd ?_ rfl rfl rfl --UPD .medium
    assumption
  clear_value s8
  refine Keeps.ite ?_ ?_
  · exact State.finish_keeps (by assumption)
  · refine Keeps.ite ?_ ?_
    · refine Keeps.upd ?_ rfl rfl rfl --UPD .medium
      assumption
    · refine Keeps.ite ?_ ?_
      · assumption
      · refine State.stopStep_keeps ?_
        exact State.closeOpen_keeps (by assumption)

theorem State.zoneInfoGo_keeps {s0 s : State} {x2} (h : Keeps s0 s) :
    Keeps s0 (State.zoneInfoGo s x2) := by
  unfold State.zoneInfoGo
  extract_lets n1 n2 n3
  refine Keeps.ite ?_ ?_
  · exact State.fail_keeps (by assumption)
  · refine Keeps.ite ?_ ?_
    · exact State.finish_keeps (by assumption)
    · refine Keeps.ite ?_ ?_
      · exact State.setCmd_keeps (by assumption)
      · refine Keeps.ite ?_ ?_
        · exact State.conflict_keeps (by assumption)
        · refine Keeps.ite ?_ ?_
          · exact State.conflict_keeps (by assumption)
          · exact State.finish_keeps (by assumption)

theorem execMediaStart_keeps {s0 s : State} {x1} (h : Keeps s0 s) :
    Keeps.Out s0 (execMediaStart x1 s) := by
  unfold execMediaStart
  split
  · refine Keeps.next ?_
    refine State.onMember_keeps ?_ (fun s _ h => ?_)
    · assumption
    · exact State.startGo_keeps (by assumption)
  · refine Keeps.next ?_
    assumption

theorem execMediaStop_keeps {s0 s : State} {x1} (h : Keeps s0 s) :
    Keeps.Out s0 (execMediaStop x1 s) := by
  unfold execMediaStop
  split
  · refine Keeps.next ?_
    refine State.onMember_keeps ?_ (fun s _ h => ?_)
    · assumption
    · exact State.stopGo_keeps (by assumption)
  · refine Keeps.next ?_
    exact State.stopStep_keeps (by assumption)

theorem execMediaFormat_keeps {s0 s : State} {x1 x2 x3} (h : Keeps s0 s) :
    Keeps.Out s0 (execMediaFormat x1 x2 x3 s) := by
  unfold execMediaFormat
  split
  · refine Keeps.next ?_
    refine State.onMember_keeps ?_ (fun s _ h => ?_)
    · assumption
    · exact State.formatGo_keeps (by assumption)
  · split
    · extract_lets n1
      refine Keeps.iteOut ?_ ?_
      · refine Keeps.next ?_
        assumption
      · refine Keeps.iteOut ?_ ?_
        · refine Keeps.next ?_
          refine State.startReached_keeps ?_
          refine State.conflict_keeps ?_
          refine Keeps.upd ?_ rfl rfl rfl --UPD .medium
          assumption
        · refine Keeps.next ?_
          refine State.formatReached_keeps ?_
          refine Keeps.ite ?_ ?_
          · exact State.formatTape_keeps (by assumption)
          · exact State.formatDisk_keeps (by assumption)
    · refine Keeps.next ?_
      assumption

theorem execZoneClean_keeps {s0 s : State} {x1} (h : Keeps s0 s) :
    Keeps.Out s0 (execZoneClean x1 s) := by
  unfold execZoneClean
  split
  · refine Keeps.next ?_
    refine State.onMember_keeps ?_ (fun s _ h => ?_)
    · assumption
    · exact State.cleanGo_keeps (by assumption)
  · refine Keeps.next ?_
    assumption

theorem execMediaInfo_keeps {s0 s : State} {x1} (h : Keeps s0 s) :
    Keeps.Out s0 (execMediaInfo x1 s) := by
  unfold execMediaInfo
  split
  · refine Keeps.next ?_
    refine State.onMember_keeps ?_ (fun s _ h => ?_)
    · assumption
    · exact State.infoGo_keeps (by assumption)
  · refine Keeps.next ?_
    assumption

theorem execZoneInfo_keeps {s0 s : State} {x1} (h : Keeps s0 s) :
    Keeps.Out s0 (execZoneInfo x1 s) := by
  unfold execZoneInfo
  split
  · refine Keeps.next ?_
    refine State.onMember_keeps ?_ (fun s _ h => ?_)
    · assumption
    · exact State.zoneInfoGo_keeps (by assumption)
  · refine Keeps.next ?_
    assumption

end Sys2Proof.Machine
end

