-- ==== Sys2Proof/Laws/KeepsMemory.lean ====
section
/-!
SUPPORT. What every operation of Machine/Memory.lean keeps (Laws/Keeps.lean).
-/

set_option Elab.async false

namespace Sys2Proof.Machine

theorem State.busError_keeps {s0 s : State} {x2} (h : Keeps s0 s) :
    Keeps s0 (State.busError s x2) := by
  unfold State.busError
  split
  · split
    · refine Keeps.ite ?_ ?_
      · refine State.fail_keeps ?_
        exact State.discardWork_keeps (by assumption)
      · assumption
    · assumption
  · refine State.wr_keeps ?_
    exact State.freeCtx_keeps (by assumption)
  · assumption

theorem State.seqLost_keeps {s0 s : State} {x2} (h : Keeps s0 s) :
    Keeps s0 (State.seqLost s x2) := by
  unfold State.seqLost
  extract_lets n1 n2 n3
  refine Keeps.ite ?_ ?_
  · assumption
  · refine Keeps.upd ?_ rfl rfl rfl --UPD .obj
    assumption

theorem State.checkSeqTable_keeps {s0 s : State} (h : Keeps s0 s) :
    Keeps s0 (State.checkSeqTable s) := by
  unfold State.checkSeqTable
  refine Keeps.foldl _ ?_ (fun s _ h => ?_)
  · assumption
  · exact State.seqLost_keeps (by assumption)

theorem State.setMem_keeps {s0 s : State} {m : MemSt} (h : Keeps s0 s)
    (hm : s.mem.ok → m.ok := by exact id) : Keeps s0 (State.setMem s m) :=
  ⟨h.queue, h.out, h.fuses, fun hs => let i := h.inv hs; ⟨i.uids, i.evt, i.regs, hm i.mem, i.nor⟩⟩

theorem State.hbmPut_keeps {s0 s : State} {x2 x3} (h : Keeps s0 s) : Keeps s0 (State.hbmPut s x2 x3) :=
  State.setMem_keeps h fun i => ⟨Store.wf_put _ _ _ _ i.1, i.2.1, i.2.2⟩

theorem State.copyBlock_keeps {s0 s : State} {x2 x3} (h : Keeps s0 s) : Keeps s0 (State.copyBlock s x2 x3) := by
  unfold State.copyBlock
  split
  · exact State.setMem_keeps h fun i => ⟨Store.wf_put none s.mem.hbm x3 none i.1, i.2.1, i.2.2⟩
  · exact State.hbmPut_keeps h

theorem State.wordPut_keeps {s0 s : State} {x2 x3 x4} (h : Keeps s0 s) : Keeps s0 (State.wordPut s x2 x3 x4) := by
  unfold State.wordPut
  refine Keeps.ite ?_ ?_
  · exact State.setMem_keeps h fun i => ⟨i.1, Store.wf_put _ _ _ _ i.2.1, i.2.2⟩
  · exact State.setMem_keeps h fun i => ⟨i.1, i.2.1, Store.wf_put _ _ _ _ i.2.2⟩

theorem State.copyWord_keeps {s0 s : State} {x2 x3 x4} (h : Keeps s0 s) :
    Keeps s0 (State.copyWord s x2 x3 x4) := by
  unfold State.copyWord
  extract_lets n1
  split
  · exact State.wordPut_keeps (by assumption)
  · exact State.wordPut_keeps (by assumption)
  · exact State.wordPut_keeps (by assumption)

theorem State.copyUnit_keeps {s0 s : State} {x2 x3 x4} (h : Keeps s0 s) :
    Keeps s0 (State.copyUnit s x2 x3 x4) := by
  unfold State.copyUnit
  refine Keeps.ite ?_ ?_
  · refine Keeps.foldl _ ?_ (fun s _ h => ?_)
    · assumption
    · exact State.copyBlock_keeps (by assumption)
  · refine Keeps.ite ?_ ?_
    · refine Keeps.foldl _ ?_ (fun s _ h => ?_)
      · assumption
      · exact State.copyWord_keeps (by assumption)
    · exact State.copyWord_keeps (by assumption)

theorem State.corrected_keeps {s0 s : State} {x2 x3 x4} (h : Keeps s0 s) :
    Keeps s0 (State.corrected s x2 x3 x4) := by
  unfold State.corrected
  extract_lets s1 n2 n3
  have hs1 : Keeps s0 s1 := by
    unfold s1
    exact State.inc_keeps (by assumption)
  clear_value s1
  exact State.setMem_keeps (by assumption)

theorem State.declareDie_keeps {s0 s : State} {x2} (h : Keeps s0 s) :
    Keeps s0 (State.declareDie s x2) := by
  unfold State.declareDie
  extract_lets n1 s2 s3
  have hs2 : Keeps s0 s2 := by
    unfold s2
    exact State.setMem_keeps (by assumption)
  clear_value s2
  have hs3 : Keeps s0 s3 := by
    unfold s3
    refine State.wr_keeps ?_
    exact State.wr_keeps (by assumption)
  clear_value s3
  refine State.raise_keeps ?_
  exact State.wr_keeps (by assumption)

theorem State.hbmWrite_keeps {s0 s : State} {x2 x3} (h : Keeps s0 s) :
    Keeps s0 (State.hbmWrite s x2 x3) := by
  unfold State.hbmWrite
  extract_lets n1
  exact State.hbmPut_keeps (by assumption)

theorem State.lastErr_keeps {s0 s : State} {x2 x3 x4 x5 x6} (h : Keeps s0 s) :
    Keeps s0 (State.lastErr s x2 x3 x4 x5 x6) := by
  unfold State.lastErr
  extract_lets s1 s2
  have hs1 : Keeps s0 s1 := by
    unfold s1
    refine State.wr_keeps ?_
    exact State.wr_keeps (by assumption)
  clear_value s1
  have hs2 : Keeps s0 s2 := by
    unfold s2
    refine State.wr_keeps ?_
    exact State.wr_keeps (by assumption)
  clear_value s2
  exact State.wr_keeps (by assumption)

theorem State.poisonBlock_keeps {s0 s : State} {x2 x3 x4 x5} (h : Keeps s0 s) :
    Keeps s0 (State.poisonBlock s x2 x3 x4 x5) := by
  unfold State.poisonBlock
  extract_lets n1 s2 s3 s4 s5
  have hs2 : Keeps s0 s2 := by
    unfold s2
    exact State.hbmPut_keeps (by assumption)
  clear_value s2
  have hs3 : Keeps s0 s3 := by
    unfold s3
    refine State.wr_keeps ?_
    exact State.inc_keeps (by assumption)
  clear_value s3
  have hs4 : Keeps s0 s4 := by
    unfold s4
    refine Keeps.ite ?_ ?_
    · exact State.wr_keeps (by assumption)
    · assumption
  clear_value s4
  have hs5 : Keeps s0 s5 := by
    unfold s5
    exact State.lastErr_keeps (by assumption)
  clear_value s5
  exact State.raise_keeps (by assumption)

theorem State.hbmRead_keeps {s0 s : State} {x2 x3 x4} (h : Keeps s0 s) :
    Keeps.Pair s0 (State.hbmRead s x2 x3 x4) := by
  unfold State.hbmRead
  extract_lets n1 n2 n3
  split
  · refine Keeps.pair ?_
    assumption
  · refine Keeps.pair ?_
    exact State.corrected_keeps (by assumption)
  · refine Keeps.pair ?_
    refine Keeps.ite ?_ ?_
    · assumption
    · exact State.lastErr_keeps (by assumption)
  · refine Keeps.pair ?_
    exact State.poisonBlock_keeps (by assumption)
  · refine Keeps.pair ?_
    exact State.poisonBlock_keeps (by assumption)

theorem State.hbmVerify_keeps {s0 s : State} {x2 x3} (h : Keeps s0 s) :
    Keeps.Pair s0 (State.hbmVerify s x2 x3) := by
  unfold State.hbmVerify
  split
  refine Keeps.pair ?_
  refine Keeps.ite ?_ ?_
  · refine State.hbmWrite_keeps ?_
    refine Keeps.of_eq ?_ (by assumption)
    exact State.hbmRead_keeps (by assumption)
  · refine Keeps.of_eq ?_ (by assumption)
    exact State.hbmRead_keeps (by assumption)

theorem State.hbmScrub_keeps {s0 s : State} {x2 x3} (h : Keeps s0 s) :
    Keeps.Pair s0 (State.hbmScrub s x2 x3) := by
  unfold State.hbmScrub
  split
  refine Keeps.itePair ?_ ?_
  · split
    split
    refine Keeps.pair ?_
    refine Keeps.of_eq ?_ (by assumption)
    refine State.hbmVerify_keeps ?_
    refine Keeps.of_eq ?_ (by assumption)
    refine State.hbmVerify_keeps ?_
    refine Keeps.of_eq ?_ (by assumption)
    exact State.hbmVerify_keeps (by assumption)
  · refine Keeps.pair ?_
    refine Keeps.of_eq ?_ (by assumption)
    exact State.hbmVerify_keeps (by assumption)

theorem State.hbmUpset_keeps {s0 s : State} {x2 x3} (h : Keeps s0 s) :
    Keeps s0 (State.hbmUpset s x2 x3) := by
  unfold State.hbmUpset
  refine Keeps.ite ?_ ?_
  · assumption
  · split
    · exact State.hbmPut_keeps (by assumption)
    · assumption

theorem State.selfTestResult_keeps {s0 s : State} {x2} (h : Keeps s0 s) :
    Keeps s0 (State.selfTestResult s x2) := by
  unfold State.selfTestResult
  extract_lets n1 s2
  have hs2 : Keeps s0 s2 := by
    unfold s2
    refine State.wr_keeps ?_
    exact State.wr_keeps (by assumption)
  clear_value s2
  refine State.wr_keeps ?_
  exact State.wr_keeps (by assumption)

theorem State.selfTestRun_keeps {s0 s : State} {x2} (h : Keeps s0 s) :
    Keeps s0 (State.selfTestRun s x2) := by
  unfold State.selfTestRun
  extract_lets n1 s2
  have hs2 : Keeps s0 s2 := by
    unfold s2
    exact State.selfTestResult_keeps (by assumption)
  clear_value s2
  refine Keeps.foldl _ ?_ (fun s _ h => ?_)
  · assumption
  · refine State.raise_keeps ?_
    exact State.wr_keeps (by assumption)

theorem State.initMemories_keeps {s0 s : State} (h : Keeps s0 s) : Keeps s0 (State.initMemories s) := by
  unfold State.initMemories
  exact State.wr_keeps (State.wr_keeps (State.setMem_keeps h fun i => ⟨rfl, rfl, i.2.2⟩))

theorem State.initSram_keeps {s0 s : State} (h : Keeps s0 s) : Keeps s0 (State.initSram s) := by
  unfold State.initSram
  exact State.setMem_keeps h fun i => ⟨i.1, rfl, i.2.2⟩

theorem State.showMram_keeps {s0 s : State} (h : Keeps s0 s) :
    Keeps s0 (State.showMram s) := by
  unfold State.showMram
  extract_lets n1 s2 s3 s4 s5 f6
  have hs2 : Keeps s0 s2 := by
    unfold s2
    refine State.wr_keeps ?_
    exact State.wr_keeps (by assumption)
  clear_value s2
  have hs3 : Keeps s0 s3 := by
    unfold s3
    exact State.wr_keeps (by assumption)
  clear_value s3
  have hs4 : Keeps s0 s4 := by
    unfold s4
    refine State.wr_keeps ?_
    exact State.wr_keeps (by assumption)
  clear_value s4
  have hs5 : Keeps s0 s5 := by
    unfold s5
    exact State.wr_keeps (by assumption)
  clear_value s5
  have hf6 : ∀ a1 a2 a3 a4, Keeps s0 a4 → Keeps s0 (f6 a1 a2 a3 a4) := by
    intro a1 a2 a3 a4 h
    unfold f6
    refine Keeps.foldl _ ?_ (fun s _ h => ?_)
    · assumption
    · refine State.wri_keeps ?_
      exact State.wri_keeps (by assumption)
  refine hf6 _ _ _ _ ?_
  refine hf6 _ _ _ _ ?_
  refine hf6 _ _ _ _ ?_
  assumption

theorem State.remapTo_keeps {s0 s : State} {x2 x3} (h : Keeps s0 s) :
    Keeps s0 (State.remapTo s x2 x3) := by
  unfold State.remapTo
  extract_lets n1 n2 s3 n4 n5 s6 n7 s8
  have hs3 : Keeps s0 s3 := by
    unfold s3
    exact State.wr_keeps (by assumption)
  clear_value s3
  have hs6 : Keeps s0 s6 := by
    unfold s6
    exact State.copyUnit_keeps (by assumption)
  clear_value s6
  have hs8 : Keeps s0 s8 := by
    unfold s8
    exact State.setMem_keeps (by assumption)
  clear_value s8
  refine Keeps.ite ?_ ?_
  · refine Keeps.ite ?_ ?_
    · assumption
    · refine State.raise_keeps ?_
      exact State.setMem_keeps (by assumption)
  · refine State.raise_keeps ?_
    exact State.showMram_keeps (by assumption)

theorem State.scrubNext_keeps {s0 s : State} {x2} (h : Keeps s0 s) :
    Keeps s0 (State.scrubNext s x2) := by
  unfold State.scrubNext
  extract_lets n1 n2 s3 n4
  have hs3 : Keeps s0 s3 := by
    unfold s3
    refine Keeps.ite ?_ ?_
    · exact State.wr_keeps (by assumption)
    · assumption
  clear_value s3
  exact State.setMem_keeps (by assumption)

theorem State.windowEvent_keeps {s0 s : State} {x2} (h : Keeps s0 s) :
    Keeps s0 (State.windowEvent s x2) := by
  unfold State.windowEvent
  extract_lets n1
  refine Keeps.ite ?_ ?_
  · assumption
  · exact State.raise_keeps (by assumption)

theorem State.wordBad_keeps {s0 s : State} {x2 x3 x4 x5} (h : Keeps s0 s) :
    Keeps s0 (State.wordBad s x2 x3 x4 x5) := by
  unfold State.wordBad
  extract_lets s1 s2 s3
  have hs1 : Keeps s0 s1 := by
    unfold s1
    exact State.wordPut_keeps (by assumption)
  clear_value s1
  have hs2 : Keeps s0 s2 := by
    unfold s2
    refine State.wr_keeps ?_
    exact State.inc_keeps (by assumption)
  clear_value s2
  have hs3 : Keeps s0 s3 := by
    unfold s3
    refine State.wr_keeps ?_
    exact State.inc_keeps (by assumption)
  clear_value s3
  refine Keeps.ite ?_ ?_
  · refine State.raise_keeps ?_
    exact State.lastErr_keeps (by assumption)
  · refine State.raise_keeps ?_
    exact State.lastErr_keeps (by assumption)

theorem State.wordFixed_keeps {s0 s : State} {x2 x3} (h : Keeps s0 s) :
    Keeps s0 (State.wordFixed s x2 x3) := by
  unfold State.wordFixed
  extract_lets n1
  exact State.wordPut_keeps (by assumption)

theorem State.wordRead_keeps {s0 s : State} {x2 x3 x4 x5} (h : Keeps s0 s) :
    Keeps.Pair s0 (State.wordRead s x2 x3 x4 x5) := by
  simp only [State.wordRead]
  split
  · exact h
  · refine Keeps.pair (Keeps.ite ?_ ?_)
    · exact State.raise_keeps (Keeps.ite (State.corrected_keeps h) (State.inc_keeps h))
    · exact Keeps.ite (State.corrected_keeps h) (State.inc_keeps h)
  · exact Keeps.pair (State.wordBad_keeps h)

theorem State.wordVerify_keeps {s0 s : State} {x2 x3 x4} (h : Keeps s0 s) :
    Keeps.Pair s0 (State.wordVerify s x2 x3 x4) := by
  unfold State.wordVerify
  split
  split
  · refine Keeps.pair ?_
    refine State.wordPut_keeps ?_
    refine Keeps.of_eq ?_ (by assumption)
    exact State.wordRead_keeps (by assumption)
  · refine Keeps.pair ?_
    refine Keeps.of_eq ?_ (by assumption)
    exact State.wordRead_keeps (by assumption)

theorem State.wordScrub_keeps {s0 s : State} {x2 x3 x4} (h : Keeps s0 s) :
    Keeps.Pair s0 (State.wordScrub s x2 x3 x4) := by
  unfold State.wordScrub
  split
  split
  · split
    split
    refine Keeps.pair ?_
    refine Keeps.of_eq ?_ (by assumption)
    refine State.wordVerify_keeps ?_
    refine Keeps.of_eq ?_ (by assumption)
    refine State.wordVerify_keeps ?_
    refine Keeps.of_eq ?_ (by assumption)
    exact State.wordVerify_keeps (by assumption)
  · refine Keeps.pair ?_
    refine Keeps.of_eq ?_ (by assumption)
    exact State.wordVerify_keeps (by assumption)

theorem State.wordUpset_keeps {s0 s : State} {x2 x3 x4} (h : Keeps s0 s) :
    Keeps s0 (State.wordUpset s x2 x3 x4) := by
  unfold State.wordUpset
  extract_lets n1
  refine Keeps.ite ?_ ?_
  · assumption
  · exact State.wordPut_keeps (by assumption)

theorem execDieFailureDeclared_keeps {s0 s : State} {x1} (h : Keeps s0 s) :
    Keeps.Out s0 (execDieFailureDeclared x1 s) := by
  unfold execDieFailureDeclared
  refine Keeps.iteOut ?_ ?_
  · refine Keeps.next ?_
    exact State.declareDie_keeps (by assumption)
  · refine Keeps.next ?_
    assumption

theorem execCorrectionWindowEnd_keeps {s0 s : State} (h : Keeps s0 s) :
    Keeps.Out s0 (execCorrectionWindowEnd s) := by
  unfold execCorrectionWindowEnd
  extract_lets s1 s2 n3
  have hs1 : Keeps s0 s1 := by
    unfold s1
    split
    · exact State.declareDie_keeps (by assumption)
    · assumption
  clear_value s1
  have hs2 : Keeps s0 s2 := by
    unfold s2
    refine State.windowEvent_keeps ?_
    refine State.windowEvent_keeps ?_
    exact State.windowEvent_keeps (by assumption)
  clear_value s2
  refine Keeps.next ?_
  exact State.setMem_keeps (by assumption)

theorem execScrubPassStart_keeps {s0 s : State} {x1} (h : Keeps s0 s) :
    Keeps.Out s0 (execScrubPassStart x1 s) := by
  unfold execScrubPassStart
  extract_lets n1 n2 s3 s4 n5
  have hs3 : Keeps s0 s3 := by
    unfold s3
    refine Keeps.foldl _ ?_ (fun s _ h => ?_)
    · assumption
    · refine Keeps.ite ?_ ?_
      · exact State.remapTo_keeps (by assumption)
      · assumption
  clear_value s3
  have hs4 : Keeps s0 s4 := by
    unfold s4
    refine Keeps.ite ?_ ?_
    · exact State.wr_keeps (by assumption)
    · assumption
  clear_value s4
  refine Keeps.iteOut ?_ ?_
  · refine Keeps.next ?_
    assumption
  · refine Keeps.next ?_
    exact State.setMem_keeps (by assumption)

theorem execHardFaultRemap_keeps {s0 s : State} {x1 x2} (h : Keeps s0 s) :
    Keeps.Out s0 (execHardFaultRemap x1 x2 s) := by
  unfold execHardFaultRemap
  refine Keeps.iteOut ?_ ?_
  · refine Keeps.next ?_
    exact State.remapTo_keeps (by assumption)
  · refine Keeps.next ?_
    assumption

theorem execMemSelftestRun_keeps {s0 s : State} {x1} (h : Keeps s0 s) :
    Keeps.Out s0 (execMemSelftestRun x1 s) := by
  unfold execMemSelftestRun
  refine Keeps.next ?_
  exact State.selfTestRun_keeps (by assumption)

end Sys2Proof.Machine
end

