-- ==== Sys2Proof/Laws/KeepsMgmt.lean ====
section
/-!
SUPPORT. What every operation of Machine/Mgmt.lean keeps (Laws/Keeps.lean).
-/

set_option Elab.async false

namespace Sys2Proof.Machine

theorem State.sendDone_keeps {s0 s : State} {x2} (h : Keeps s0 s) :
    Keeps s0 (State.sendDone s x2) := by
  unfold State.sendDone
  exact State.sendSeq_keeps (by assumption)

theorem State.startMgmt_keeps {s0 s : State} {x2} (h : Keeps s0 s) :
    Keeps s0 (State.startMgmt s x2) := by
  unfold State.startMgmt
  extract_lets n1 s2
  have hs2 : Keeps s0 s2 := by
    unfold s2
    exact State.arrive_keeps (by assumption)
  clear_value s2
  split
  · exact State.setCmd_keeps (by assumption)
  · assumption

theorem State.takeMgmtCmd_keeps {s0 s : State} {x2 x3 x4 x5 x6 x7} (h : Keeps s0 s) :
    Keeps s0 (State.takeMgmtCmd s x2 x3 x4 x5 x6 x7) := by
  unfold State.takeMgmtCmd
  split
  · extract_lets n1 n2 s3
    have hs3 : Keeps s0 s3 := by
      unfold s3
      exact State.setGrp_keeps (by assumption)
    clear_value s3
    refine Keeps.ite ?_ ?_
    · exact State.sendDone_keeps (by assumption)
    · refine Keeps.ite ?_ ?_
      · assumption
      · refine Keeps.ite ?_ ?_
        · exact State.startMgmt_keeps (by assumption)
        · assumption
  · extract_lets n4 n5 n6 s7
    have hs7 : Keeps s0 s7 := by
      unfold s7
      exact State.setGrp_keeps (by assumption)
    clear_value s7
    refine Keeps.ite ?_ ?_
    · assumption
    · refine Keeps.ite ?_ ?_
      · exact State.startMgmt_keeps (by assumption)
      · assumption

theorem State.partsEnded_keeps {s0 s : State} {x2} (h : Keeps s0 s) :
    Keeps s0 (State.partsEnded s x2) := by
  unfold State.partsEnded
  split
  · assumption
  · refine Keeps.ite ?_ ?_
    · assumption
    · refine Keeps.ite ?_ ?_
      · exact State.finish_keeps (by assumption)
      · refine Keeps.ite ?_ ?_
        · exact State.keyDone_keeps (by assumption)
        · refine Keeps.ite ?_ ?_
          · exact State.writeStep_keeps (by assumption)
          · refine Keeps.ite ?_ ?_
            · exact State.activateStep_keeps (by assumption)
            · assumption

theorem State.partDone_keeps {s0 s : State} {x2 x3 x4 x5} (h : Keeps s0 s) :
    Keeps s0 (State.partDone s x2 x3 x4 x5) := by
  unfold State.partDone
  extract_lets n1 s2
  have hs2 : Keeps s0 s2 := by
    unfold s2
    exact State.setGrp_keeps (by assumption)
  clear_value s2
  split
  · assumption
  · split
    · assumption
    · extract_lets n3
      refine State.partsEnded_keeps ?_
      exact State.setCmd_keeps (by assumption)

theorem State.takeMgmtDone_keeps {s0 s : State} {x2 x3 x4} (h : Keeps s0 s) :
    Keeps s0 (State.takeMgmtDone s x2 x3 x4) := by
  unfold State.takeMgmtDone
  split
  · exact State.partDone_keeps (by assumption)
  · assumption

theorem State.takeMgmt_keeps {s0 s : State} {x2 x3 x4} (h : Keeps s0 s) :
    Keeps s0 (State.takeMgmt s x2 x3 x4) := by
  unfold State.takeMgmt
  extract_lets n1 n2 n3
  split
  · exact State.takeMgmtCmd_keeps (by assumption)
  · exact State.takeMgmtDone_keeps (by assumption)
  · refine Keeps.ite ?_ ?_
    · exact State.adminAsk_keeps (by assumption)
    · exact State.answerAdmin_keeps (by assumption)
  · split
    · refine State.mgmtReply_keeps ?_
      exact State.setGrp_keeps (by assumption)
    · assumption
  · assumption

theorem State.losePeer_keeps {s0 s : State} {x2} (h : Keeps s0 s) :
    Keeps s0 (State.losePeer s x2) := by
  unfold State.losePeer
  refine Keeps.foldl _ ?_ (fun s _ h => ?_)
  · assumption
  · exact State.partDone_keeps (by assumption)

theorem State.tellMgmt_keeps {s0 s : State} (h : Keeps s0 s) :
    Keeps s0 (State.tellMgmt s) := by
  unfold State.tellMgmt
  extract_lets n1 n2 s3
  have hs3 : Keeps s0 s3 := by
    unfold s3
    exact State.setGrp_keeps (by assumption)
  clear_value s3
  refine Keeps.foldl _ ?_ (fun s _ h => ?_)
  · assumption
  · exact State.sendDone_keeps (by assumption)

theorem State.mgmtAnswer_keeps {s0 s : State} {x2 x3 x4 x5 x6} (h : Keeps s0 s) :
    Keeps s0 (State.mgmtAnswer s x2 x3 x4 x5 x6) := by
  unfold State.mgmtAnswer
  refine Keeps.ite ?_ ?_
  · exact State.mgmtReply_keeps (by assumption)
  · exact State.mgmtReply_keeps (by assumption)

theorem execMemberUnreachableTimeout_keeps {s0 s : State} {x1} (h : Keeps s0 s) :
    Keeps.Out s0 (execMemberUnreachableTimeout x1 s) := by
  unfold execMemberUnreachableTimeout
  extract_lets n1 s2 s3
  have hs2 : Keeps s0 s2 := by
    unfold s2
    exact State.setAge_keeps (by assumption)
  clear_value s2
  have hs3 : Keeps s0 s3 := by
    unfold s3
    exact State.raise_keeps (by assumption)
  clear_value s3
  refine Keeps.iteOut ?_ ?_
  · refine Keeps.next ?_
    refine State.groupStep_keeps ?_
    exact State.formFails_keeps (by assumption)
  · refine Keeps.iteOut ?_ ?_
    · refine Keeps.next ?_
      refine State.losePeer_keeps ?_
      exact State.markSlow_keeps (by assumption)
    · refine Keeps.next ?_
      assumption

theorem execMgmtGetMembership_keeps {s0 s : State} {x1 x2} (h : Keeps s0 s) :
    Keeps.Out s0 (execMgmtGetMembership x1 x2 s) := by
  unfold execMgmtGetMembership
  extract_lets n1
  refine Keeps.next ?_
  exact State.mgmtAnswer_keeps (by assumption)

theorem execMgmtReadEvent_keeps {s0 s : State} {x1 x2} (h : Keeps s0 s) :
    Keeps.Out s0 (execMgmtReadEvent x1 x2 s) := by
  unfold execMgmtReadEvent
  extract_lets s1
  have hs1 : Keeps s0 s1 := by
    unfold s1
    exact State.popEvt_keeps (by assumption)
  clear_value s1
  refine Keeps.iteOut ?_ ?_
  · refine Keeps.next ?_
    exact State.mgmtReply_keeps (by assumption)
  · refine Keeps.next ?_
    exact State.mgmtReply_keeps (by assumption)

theorem execMgmtHealth_keeps {s0 s : State} {x1 x2} (h : Keeps s0 s) :
    Keeps.Out s0 (execMgmtHealth x1 x2 s) := by
  unfold execMgmtHealth
  refine Keeps.next ?_
  exact State.mgmtAnswer_keeps (by assumption)

theorem execMgmtRegRead_keeps {s0 s : State} {x1 x2 x3} (h : Keeps s0 s) :
    Keeps.Out s0 (execMgmtRegRead x1 x2 x3 s) := by
  unfold execMgmtRegRead
  extract_lets n1
  refine Keeps.iteOut ?_ ?_
  · refine Keeps.next ?_
    exact State.mgmtReply_keeps (by assumption)
  · refine Keeps.iteOut ?_ ?_
    · refine Keeps.next ?_
      exact State.mgmtReply_keeps (by assumption)
    · split
      refine Keeps.next ?_
      refine State.mgmtReply_keeps ?_
      refine Keeps.of_eq ?_ (by assumption)
      exact State.readReg_keeps (by assumption)

theorem execMgmtAdmin_keeps {s0 s : State} {x1 x2 x3 x4 x5 x6} (h : Keeps s0 s) :
    Keeps.Out s0 (execMgmtAdmin x1 x2 x3 x4 x5 x6 s) := by
  unfold execMgmtAdmin
  extract_lets n1 n2 n3 s4
  have hs4 : Keeps s0 s4 := by
    unfold s4
    exact State.setGrp_keeps (by assumption)
  clear_value s4
  refine Keeps.iteOut ?_ ?_
  · refine Keeps.next ?_
    exact State.mgmtReply_keeps (by assumption)
  · split
    · refine Keeps.next ?_
      exact State.mgmtReply_keeps (by assumption)
    · refine Keeps.iteOut ?_ ?_
      · refine Keeps.next ?_
        refine State.groupStep_keeps ?_
        exact State.adminAsk_keeps (by assumption)
      · refine Keeps.iteOut ?_ ?_
        · refine Keeps.next ?_
          exact State.mgmtReply_keeps (by assumption)
        · refine Keeps.next ?_
          exact State.sendSeq_keeps (by assumption)

theorem execMgmtLogRead_keeps {s0 s : State} {x1 x2 x3 x4} (h : Keeps s0 s) :
    Keeps.Out s0 (execMgmtLogRead x1 x2 x3 x4 s) := by
  unfold execMgmtLogRead
  extract_lets n1 n2
  refine Keeps.next ?_
  exact State.mgmtAnswer_keeps (by assumption)

theorem execMgmtBusTimeout_keeps {s0 s : State} (h : Keeps s0 s) :
    Keeps.Out s0 (execMgmtBusTimeout s) := by
  unfold execMgmtBusTimeout
  refine Keeps.next ?_
  exact State.emit_keeps (by assumption)

theorem execMgmtAddressAssignment_keeps {s0 s : State} {x1 x2} (h : Keeps s0 s) :
    Keeps.Out s0 (execMgmtAddressAssignment x1 x2 s) := by
  unfold execMgmtAddressAssignment
  extract_lets n1
  refine Keeps.next ?_
  exact State.setGrp_keeps (by assumption)

theorem execMctpControlMessage_keeps {s0 s : State} {x1 x2 x3} (h : Keeps s0 s) :
    Keeps.Out s0 (execMctpControlMessage x1 x2 x3 s) := by
  unfold execMctpControlMessage
  extract_lets n1 s2
  have hs2 : Keeps s0 s2 := by
    unfold s2
    refine Keeps.ite ?_ ?_
    · exact State.setGrp_keeps (by assumption)
    · assumption
  clear_value s2
  refine Keeps.next ?_
  exact State.emit_keeps (by assumption)

end Sys2Proof.Machine
end

