-- ==== Sys2Proof/Laws/KeepsSorrel.lean ====
section
/-!
SUPPORT. What every operation of Machine/Sorrel.lean keeps (Laws/Keeps.lean).
-/

set_option Elab.async false

namespace Sys2Proof.Machine

theorem State.cellDone_keeps {s0 s : State} {x2} (h : Keeps s0 s) :
    Keeps s0 (State.cellDone s x2) := by
  unfold State.cellDone
  extract_lets n1 n2
  exact State.setCell_keeps (by assumption)

theorem State.tapeLost_keeps {s0 s : State} {x2 x3 x4} (h : Keeps s0 s) :
    Keeps s0 (State.tapeLost s x2 x3 x4) := by
  unfold State.tapeLost
  extract_lets n1 n2 s3 n4 s5
  have hs3 : Keeps s0 s3 := by
    unfold s3
    exact State.setTape_keeps (by assumption)
  clear_value s3
  have hs5 : Keeps s0 s5 := by
    unfold s5
    refine Keeps.ite ?_ ?_
    · refine Keeps.foldl _ ?_ (fun s _ h => ?_)
      · assumption
      · extract_lets n6
        exact State.setUnit_keeps (by assumption)
    · exact State.loseUnits_keeps (by assumption)
  clear_value s5
  exact State.readSet_keeps (by assumption)

theorem State.tapeSettle_keeps {s0 s : State} {x2 x3} (h : Keeps s0 s) :
    Keeps s0 (State.tapeSettle s x2 x3) := by
  unfold State.tapeSettle
  extract_lets n1 n2
  refine Keeps.ite ?_ ?_
  · assumption
  · refine Keeps.ite ?_ ?_
    · exact State.tapeLost_keeps (by assumption)
    · exact State.seekSet_keeps (by assumption)

theorem State.tapeMissing_keeps {s0 s : State} {x2 x3 x4} (h : Keeps s0 s) :
    Keeps s0 (State.tapeMissing s x2 x3 x4) := by
  unfold State.tapeMissing
  extract_lets n1 n2 n3 n4 s5
  have hs5 : Keeps s0 s5 := by
    unfold s5
    exact State.setTape_keeps (by assumption)
  clear_value s5
  refine Keeps.ite ?_ ?_
  · assumption
  · exact State.tapeSettle_keeps (by assumption)

theorem State.sectorEnd_keeps {s0 s : State} {x2 x3 x4} (h : Keeps s0 s) :
    Keeps s0 (State.sectorEnd s x2 x3 x4) := by
  unfold State.sectorEnd
  extract_lets s1
  have hs1 : Keeps s0 s1 := by
    unfold s1
    exact State.headRead_keeps (by assumption)
  clear_value s1
  split
  · exact State.zoneRead_keeps (by assumption)
  · exact State.landingRead_keeps (by assumption)
  · assumption

theorem State.setUpReread_keeps {s0 s : State} {x2} (h : Keeps s0 s) :
    Keeps s0 (State.setUpReread s x2) := by
  unfold State.setUpReread
  extract_lets n1 s2 n3 s4 n5 s6 n7
  have hs2 : Keeps s0 s2 := by
    unfold s2
    refine Keeps.ite ?_ ?_
    · exact State.setLane_keeps (by assumption)
    · assumption
  clear_value s2
  have hs4 : Keeps s0 s4 := by
    unfold s4
    refine Keeps.ite ?_ ?_
    · exact State.setLane_keeps (by assumption)
    · refine Keeps.ite ?_ ?_
      · exact State.setLane_keeps (by assumption)
      · assumption
  clear_value s4
  have hs6 : Keeps s0 s6 := by
    unfold s6
    refine Keeps.ite ?_ ?_
    · refine State.sendBias_keeps ?_
      exact State.sendBias_keeps (by assumption)
    · assumption
  clear_value s6
  exact State.setDet_keeps (by assumption)

theorem State.ladderStep_keeps {s0 s : State} {x2 x3} (h : Keeps s0 s) :
    Keeps s0 (State.ladderStep s x2 x3) := by
  unfold State.ladderStep
  extract_lets n1 n2
  refine Keeps.ite ?_ ?_
  · refine State.sectorEnd_keeps ?_
    exact State.freeSamples_keeps (by assumption)
  · refine Keeps.ite ?_ ?_
    · exact State.setDet_keeps (by assumption)
    · refine State.setUpReread_keeps ?_
      exact State.freeSamples_keeps (by assumption)

theorem State.enterLadder_keeps {s0 s : State} {x2 x3} (h : Keeps s0 s) :
    Keeps s0 (State.enterLadder s x2 x3) := by
  unfold State.enterLadder
  refine State.ladderStep_keeps ?_
  exact State.lifeAdd_keeps (by assumption)

theorem State.sectorFailed_keeps {s0 s : State} {x2 x3} (h : Keeps s0 s) :
    Keeps s0 (State.sectorFailed s x2 x3) := by
  unfold State.sectorFailed
  extract_lets f1
  have hf1 : ∀ a1, Keeps s0 a1 → Keeps s0 (f1 a1) := by
    intro a1 h
    unfold f1
    refine Keeps.ite ?_ ?_
    · exact State.enterLadder_keeps (by assumption)
    · exact State.ladderStep_keeps (by assumption)
  split
  · refine Keeps.ite ?_ ?_
    · refine State.failReadBack_keeps ?_
      exact State.freeSamples_keeps (by assumption)
    · refine hf1 _ ?_
      assumption
  · refine hf1 _ ?_
    assumption

theorem State.cwFailed_keeps {s0 s : State} {x2 x3} (h : Keeps s0 s) :
    Keeps s0 (State.cwFailed s x2 x3) := by
  unfold State.cwFailed
  extract_lets s1 n2
  have hs1 : Keeps s0 s1 := by
    unfold s1
    exact State.inc_keeps (by assumption)
  clear_value s1
  split
  · refine State.verifyDecide_keeps ?_
    exact State.freeSamples_keeps (by assumption)
  · refine Keeps.ite ?_ ?_
    · exact State.setDet_keeps (by assumption)
    · refine State.tapeMissing_keeps ?_
      exact State.freeSamples_keeps (by assumption)
  · split
    · exact State.setDet_keeps (by assumption)
    · exact State.sectorFailed_keeps (by assumption)
    · exact State.sectorFailed_keeps (by assumption)

theorem State.tapeGood_keeps {s0 s : State} {x2 x3 x4} (h : Keeps s0 s) :
    Keeps s0 (State.tapeGood s x2 x3 x4) := by
  unfold State.tapeGood
  extract_lets n1 n2 n3 s4
  have hs4 : Keeps s0 s4 := by
    unfold s4
    exact State.setTape_keeps (by assumption)
  clear_value s4
  exact State.tapeSettle_keeps (by assumption)

theorem State.cwGood_keeps {s0 s : State} {x2 x3 x4 x5} (h : Keeps s0 s) :
    Keeps s0 (State.cwGood s x2 x3 x4 x5) := by
  unfold State.cwGood
  extract_lets s1
  have hs1 : Keeps s0 s1 := by
    unfold s1
    exact State.add64_keeps (by assumption)
  clear_value s1
  split
  · refine State.verifyDecide_keeps ?_
    exact State.freeSamples_keeps (by assumption)
  · refine Keeps.ite ?_ ?_
    · refine State.tapeGood_keeps ?_
      exact State.freeSamples_keeps (by assumption)
    · refine State.tapeMissing_keeps ?_
      exact State.freeSamples_keeps (by assumption)
  · refine Keeps.ite ?_ ?_
    · refine Keeps.ite ?_ ?_
      · refine State.passReadBack_keeps ?_
        exact State.freeSamples_keeps (by assumption)
      · refine State.failReadBack_keeps ?_
        exact State.freeSamples_keeps (by assumption)
    · refine Keeps.ite ?_ ?_
      · refine State.sectorEnd_keeps ?_
        exact State.freeSamples_keeps (by assumption)
      · exact State.sectorFailed_keeps (by assumption)
  · refine Keeps.ite ?_ ?_
    · refine State.sectorEnd_keeps ?_
      exact State.freeSamples_keeps (by assumption)
    · exact State.sectorFailed_keeps (by assumption)

theorem State.dropped_keeps {s0 s : State} {x2} (h : Keeps s0 s) :
    Keeps s0 (State.dropped s x2) := by
  unfold State.dropped
  extract_lets n1 s2
  have hs2 : Keeps s0 s2 := by
    unfold s2
    refine State.setDet_keeps ?_
    exact State.lifeAdd_keeps (by assumption)
  clear_value s2
  split
  · refine Keeps.ite ?_ ?_
    · exact State.failReadBack_keeps (by assumption)
    · assumption
  · assumption

theorem State.expireVerify_keeps {s0 s : State} {x2} (h : Keeps s0 s) :
    Keeps s0 (State.expireVerify s x2) := by
  unfold State.expireVerify
  extract_lets n1 n2 n3 s4
  have hs4 : Keeps s0 s4 := by
    unfold s4
    exact State.setDet_keeps (by assumption)
  clear_value s4
  refine Keeps.foldl _ ?_ (fun s _ h => ?_)
  · assumption
  · split
    · refine State.verifyDecide_keeps ?_
      exact State.freeSamples_keeps (by assumption)
    · exact State.freeSamples_keeps (by assumption)

theorem State.leaveSorrel_keeps {s0 s : State} {x2} (h : Keeps s0 s) :
    Keeps s0 (State.leaveSorrel s x2) := by
  unfold State.leaveSorrel
  extract_lets n1 s2
  have hs2 : Keeps s0 s2 := by
    unfold s2
    exact State.setDet_keeps (by assumption)
  clear_value s2
  refine Keeps.foldl _ ?_ (fun s _ h => ?_)
  · assumption
  · extract_lets n3
    refine Keeps.ite ?_ ?_
    · exact State.setCell_keeps (by assumption)
    · assumption

theorem State.poisoned_keeps {s0 s : State} {x2} (h : Keeps s0 s) :
    Keeps s0 (State.poisoned s x2) := by
  unfold State.poisoned
  extract_lets s1 s2 n3
  have hs1 : Keeps s0 s1 := by
    unfold s1
    refine State.raise_keeps ?_
    exact State.wr_keeps (by assumption)
  clear_value s1
  have hs2 : Keeps s0 s2 := by
    unfold s2
    refine State.freeSamples_keeps ?_
    exact State.leaveSorrel_keeps (by assumption)
  clear_value s2
  split
  · exact State.verifyDecide_keeps (by assumption)
  · exact State.tapeMissing_keeps (by assumption)
  · refine Keeps.ite ?_ ?_
    · exact State.failReadBack_keeps (by assumption)
    · exact State.setDet_keeps (by assumption)
  · exact State.setDet_keeps (by assumption)

theorem State.showCells_keeps {s0 s : State} (h : Keeps s0 s) :
    Keeps s0 (State.showCells s) := by
  unfold State.showCells
  refine State.wr_keeps ?_
  refine State.wr_keeps ?_
  exact State.wr_keeps (by assumption)

theorem State.initCells_keeps {s0 s : State} (h : Keeps s0 s) :
    Keeps s0 (State.initCells s) := by
  unfold State.initCells
  extract_lets s1 n2
  have hs1 : Keeps s0 s1 := by
    unfold s1
    exact State.wr_keeps (by assumption)
  clear_value s1
  refine State.showCells_keeps ?_
  exact State.wr_keeps (by assumption)

theorem State.promote_keeps {s0 s : State} {x2} (h : Keeps s0 s) :
    Keeps s0 (State.promote s x2) := by
  unfold State.promote
  extract_lets n1 n2 n3
  exact State.setDet_keeps (by assumption)

theorem State.rereadOver_keeps {s0 s : State} {x2} (h : Keeps s0 s) :
    Keeps s0 (State.rereadOver s x2) := by
  unfold State.rereadOver
  extract_lets n1 s2 n3 s4
  have hs2 : Keeps s0 s2 := by
    unfold s2
    exact State.setDet_keeps (by assumption)
  clear_value s2
  have hs4 : Keeps s0 s4 := by
    unfold s4
    refine Keeps.ite ?_ ?_
    · exact State.setLane_keeps (by assumption)
    · assumption
  clear_value s4
  refine Keeps.ite ?_ ?_
  · exact State.sendBias_keeps (by assumption)
  · assumption

theorem State.retireCell_keeps {s0 s : State} {x2 x3} (h : Keeps s0 s) :
    Keeps s0 (State.retireCell s x2 x3) := by
  unfold State.retireCell
  extract_lets n1 s2 s3 n4 s5 s6 n7 s8 n9 s10 s11
  have hs2 : Keeps s0 s2 := by
    unfold s2
    exact State.setCell_keeps (by assumption)
  clear_value s2
  have hs3 : Keeps s0 s3 := by
    unfold s3
    refine State.wr_keeps ?_
    exact State.raiseBit_keeps (by assumption)
  clear_value s3
  have hs5 : Keeps s0 s5 := by
    unfold s5
    exact State.setDet_keeps (by assumption)
  clear_value s5
  have hs6 : Keeps s0 s6 := by
    unfold s6
    refine State.raise_keeps ?_
    exact State.wr_keeps (by assumption)
  clear_value s6
  have hs8 : Keeps s0 s8 := by
    unfold s8
    exact State.showCells_keeps (by assumption)
  clear_value s8
  have hs10 : Keeps s0 s10 := by
    unfold s10
    exact State.setDet_keeps (by assumption)
  clear_value s10
  have hs11 : Keeps s0 s11 := by
    unfold s11
    refine State.raise_keeps ?_
    exact State.wr_keeps (by assumption)
  clear_value s11
  split
  · extract_lets s12 s13
    have hs12 : Keeps s0 s12 := by
      unfold s12
      refine State.showCells_keeps ?_
      exact State.raiseBit_keeps (by assumption)
    clear_value s12
    have hs13 : Keeps s0 s13 := by
      unfold s13
      exact State.setCell_keeps (by assumption)
    clear_value s13
    exact State.raise_keeps (by assumption)
  · refine Keeps.ite ?_ ?_
    · refine Keeps.ite ?_ ?_
      · exact State.mediaFault_keeps (by assumption)
      · exact State.diskFaulted_keeps (by assumption)
    · assumption

theorem State.ringIn_keeps {s0 s : State} {x2} (h : Keeps s0 s) :
    Keeps.Pair s0 (State.ringIn s x2) := by
  unfold State.ringIn
  extract_lets n1
  refine Keeps.itePair ?_ ?_
  · refine Keeps.pair ?_
    exact State.setRingLevel_keeps (by assumption)
  · split
    · refine Keeps.pair ?_
      refine State.setRingLevel_keeps ?_
      refine Keeps.of_opt ?_ (by assumption)
      exact State.spillOne_keeps (by assumption)
    · refine Keeps.pair ?_
      refine State.raise_keeps ?_
      exact State.wr_keeps (by assumption)

theorem State.startJob_keeps {s0 s : State} {x2} (h : Keeps s0 s) :
    Keeps s0 (State.startJob s x2) := by
  unfold State.startJob
  split
  · assumption
  · extract_lets n1 s2 n3 n4
    have hs2 : Keeps s0 s2 := by
      unfold s2
      exact State.setDet_keeps (by assumption)
    clear_value s2
    exact State.setCell_keeps (by assumption)

theorem State.takeJob_keeps {s0 s : State} {x2 x3} (h : Keeps s0 s) :
    Keeps s0 (State.takeJob s x2 x3) := by
  unfold State.takeJob
  split
  · refine Keeps.ite ?_ ?_
    · exact State.enterLadder_keeps (by assumption)
    · exact State.ladderStep_keeps (by assumption)
  · extract_lets n1 n2
    exact State.setDet_keeps (by assumption)

theorem State.unframed_keeps {s0 s : State} {x2} (h : Keeps s0 s) :
    Keeps s0 (State.unframed s x2) := by
  unfold State.unframed
  split
  · refine Keeps.ite ?_ ?_
    · refine State.failReadBack_keeps ?_
      exact State.freeSamples_keeps (by assumption)
    · exact State.enterLadder_keeps (by assumption)
  · exact State.enterLadder_keeps (by assumption)

theorem execVerifyDeadline_keeps {s0 s : State} {x1 x2} (h : Keeps s0 s) :
    Keeps.Out s0 (execVerifyDeadline x1 x2 s) := by
  unfold execVerifyDeadline
  split
  · refine Keeps.next ?_
    assumption
  · extract_lets n1 n2 n3 s4 s5 s6
    have hs4 : Keeps s0 s4 := by
      unfold s4
      exact State.setDet_keeps (by assumption)
    clear_value s4
    have hs5 : Keeps s0 s5 := by
      unfold s5
      refine Keeps.foldl _ ?_ (fun s _ h => ?_)
      · assumption
      · exact State.freeSamples_keeps (by assumption)
    clear_value s5
    have hs6 : Keeps s0 s6 := by
      unfold s6
      refine Keeps.foldl _ ?_ (fun s _ h => ?_)
      · assumption
      · split
        · refine Keeps.ite ?_ ?_
          · refine State.cellDone_keeps ?_
            exact State.freeSamples_keeps (by assumption)
          · assumption
        · assumption
    clear_value s6
    refine Keeps.next ?_
    exact State.verifyDecide_keeps (by assumption)

theorem State.deselect_keeps {s0 s : State} {x2} (h : Keeps s0 s) :
    Keeps s0 (State.deselect s x2) := by
  unfold State.deselect
  refine State.setChan_keeps ?_
  exact State.sendPac_keeps (by assumption)

theorem State.readSelect_keeps {s0 s : State} {x2 x3} (h : Keeps s0 s) :
    Keeps s0 (State.readSelect s x2 x3) := by
  unfold State.readSelect
  extract_lets n1 n2 s3
  have hs3 : Keeps s0 s3 := by
    unfold s3
    refine Keeps.foldl _ ?_ (fun s _ h => ?_)
    · assumption
    · exact State.deselect_keeps (by assumption)
  clear_value s3
  refine Keeps.ite ?_ ?_
  · assumption
  · refine Keeps.ite ?_ ?_
    · assumption
    · refine State.setChan_keeps ?_
      exact State.sendPac_keeps (by assumption)

theorem execCodewordComplete_keeps {s0 s : State} {x1 x2 x3 x4 x5 x6 x7} (h : Keeps s0 s) :
    Keeps.Out s0 (execCodewordComplete x1 x2 x3 x4 x5 x6 x7 s) := by
  unfold execCodewordComplete
  extract_lets n1 n2 n3 n4
  split
  · refine Keeps.next ?_
    assumption
  · refine Keeps.iteOut ?_ ?_
    · refine Keeps.next ?_
      assumption
    · split
      extract_lets s5 s6 s7 n8 n9 s10
      have hs5 : Keeps s0 s5 := by
        unfold s5
        refine State.addi_keeps ?_
        refine Keeps.of_eq ?_ (by assumption)
        refine State.runLane_keeps ?_
        exact State.readSelect_keeps (by assumption)
      clear_value s5
      have hs6 : Keeps s0 s6 := by
        unfold s6
        refine Keeps.ite ?_ ?_
        · exact State.inc_keeps (by assumption)
        · assumption
      clear_value s6
      have hs7 : Keeps s0 s7 := by
        unfold s7
        refine Keeps.ite ?_ ?_
        · exact State.wr_keeps (by assumption)
        · assumption
      clear_value s7
      have hs10 : Keeps s0 s10 := by
        unfold s10
        exact State.setDet_keeps (by assumption)
      clear_value s10
      split
      · refine Keeps.iteOut ?_ ?_
        · refine Keeps.next ?_
          exact State.verifyDecide_keeps (by assumption)
        · split
          · extract_lets n11
            refine Keeps.next ?_
            refine State.setDet_keeps ?_
            refine Keeps.of_eq ?_ (by assumption)
            exact State.ringIn_keeps (by assumption)
          · refine Keeps.next ?_
            refine State.verifyDecide_keeps ?_
            refine Keeps.of_eq ?_ (by assumption)
            exact State.ringIn_keeps (by assumption)
      · refine Keeps.iteOut ?_ ?_
        · refine Keeps.next ?_
          exact State.tapeMissing_keeps (by assumption)
        · split
          · extract_lets n12
            refine Keeps.next ?_
            refine State.setDet_keeps ?_
            refine Keeps.of_eq ?_ (by assumption)
            exact State.ringIn_keeps (by assumption)
          · refine Keeps.next ?_
            refine State.tapeMissing_keeps ?_
            refine Keeps.of_eq ?_ (by assumption)
            exact State.ringIn_keeps (by assumption)
      · split
        · refine Keeps.iteOut ?_ ?_
          · refine Keeps.next ?_
            refine State.unframed_keeps ?_
            refine Keeps.of_eq ?_ (by assumption)
            exact State.ringIn_keeps (by assumption)
          · refine Keeps.next ?_
            refine State.takeJob_keeps ?_
            refine Keeps.of_eq ?_ (by assumption)
            exact State.ringIn_keeps (by assumption)
        · refine Keeps.next ?_
          refine State.dropped_keeps ?_
          refine Keeps.of_eq ?_ (by assumption)
          exact State.ringIn_keeps (by assumption)

theorem execCellFreeDispatch_keeps {s0 s : State} {x1 x2 x3} (h : Keeps s0 s) :
    Keeps.Out s0 (execCellFreeDispatch x1 x2 x3 s) := by
  unfold execCellFreeDispatch
  extract_lets n1 s2 f3 n4
  have hs2 : Keeps s0 s2 := by
    unfold s2
    refine State.expireVerify_keeps ?_
    exact State.promote_keeps (by assumption)
  clear_value s2
  have hf3 : ∀ a1 a2, Keeps s0 a1 → Keeps s0 (f3 a1 a2) := by
    intro a1 a2 h
    unfold f3
    refine Keeps.ite ?_ ?_
    · exact State.poisoned_keeps (by assumption)
    · exact State.startJob_keeps (by assumption)
  refine Keeps.iteOut ?_ ?_
  · refine Keeps.next ?_
    assumption
  · refine Keeps.iteOut ?_ ?_
    · refine Keeps.next ?_
      exact State.setCell_keeps (by assumption)
    · split
      · refine Keeps.next ?_
        refine hf3 _ _ ?_
        assumption
      · split
        · refine Keeps.next ?_
          refine hf3 _ _ ?_
          assumption
        · refine Keeps.iteOut ?_ ?_
          · refine Keeps.next ?_
            exact State.setCell_keeps (by assumption)
          · split
            · refine Keeps.next ?_
              refine hf3 _ _ ?_
              assumption
            · refine Keeps.next ?_
              assumption

theorem execCellCodewordEnd_keeps {s0 s : State} {x1 x2 x3} (h : Keeps s0 s) :
    Keeps.Out s0 (execCellCodewordEnd x1 x2 x3 s) := by
  unfold execCellCodewordEnd
  extract_lets n1 n2 s3 n4
  have hs3 : Keeps s0 s3 := by
    unfold s3
    exact State.setCell_keeps (by assumption)
  clear_value s3
  split
  · refine Keeps.next ?_
    exact State.retireCell_keeps (by assumption)
  · refine Keeps.next ?_
    refine Keeps.ite ?_ ?_
    · exact State.retireCell_keeps (by assumption)
    · assumption
  · refine Keeps.iteOut ?_ ?_
    · refine Keeps.next ?_
      assumption
    · refine Keeps.iteOut ?_ ?_
      · refine Keeps.next ?_
        exact State.setCell_keeps (by assumption)
      · refine Keeps.next ?_
        exact State.retireCell_keeps (by assumption)
  · extract_lets n5
    refine Keeps.iteOut ?_ ?_
    · refine Keeps.next ?_
      exact State.setDet_keeps (by assumption)
    · refine Keeps.next ?_
      assumption
  · extract_lets n6 s7 n8 s9 s10 s11 n12 s13
    have hs7 : Keeps s0 s7 := by
      unfold s7
      exact State.add64_keeps (by assumption)
    clear_value s7
    have hs9 : Keeps s0 s9 := by
      unfold s9
      exact State.cellDone_keeps (by assumption)
    clear_value s9
    have hs10 : Keeps s0 s10 := by
      unfold s10
      refine State.wr_keeps ?_
      exact State.inc_keeps (by assumption)
    clear_value s10
    have hs11 : Keeps s0 s11 := by
      unfold s11
      exact State.raise_keeps (by assumption)
    clear_value s11
    have hs13 : Keeps s0 s13 := by
      unfold s13
      exact State.setCell_keeps (by assumption)
    clear_value s13
    refine Keeps.iteOut ?_ ?_
    · refine Keeps.next ?_
      assumption
    · refine Keeps.iteOut ?_ ?_
      · refine Keeps.next ?_
        exact State.retireCell_keeps (by assumption)
      · refine Keeps.iteOut ?_ ?_
        · refine Keeps.next ?_
          exact State.cwGood_keeps (by assumption)
        · refine Keeps.iteOut ?_ ?_
          · refine Keeps.next ?_
            exact State.cwFailed_keeps (by assumption)
          · refine Keeps.next ?_
            exact State.cwFailed_keeps (by assumption)
  · refine Keeps.next ?_
    assumption

theorem execCellSelfCheckDue_keeps {s0 s : State} {x1} (h : Keeps s0 s) :
    Keeps.Out s0 (execCellSelfCheckDue x1 s) := by
  unfold execCellSelfCheckDue
  extract_lets n1 n2
  refine Keeps.next ?_
  refine Keeps.ite ?_ ?_
  · exact State.setCell_keeps (by assumption)
  · assumption

theorem execRetryRereadDone_keeps {s0 s : State} {x1 x2 x3 x4} (h : Keeps s0 s) :
    Keeps.Out s0 (execRetryRereadDone x1 x2 x3 x4 s) := by
  unfold execRetryRereadDone
  split
  · refine Keeps.next ?_
    assumption
  · split
    · refine Keeps.next ?_
      assumption
    · extract_lets n1 sr
      have hsr : Keeps s0 sr := by
        unfold sr
        refine State.readSelect_keeps ?_
        exact State.rereadOver_keeps (by assumption)
      clear_value sr
      split
      extract_lets s2 s3 s4 n5
      have hs2 : Keeps s0 s2 := by
        unfold s2
        refine State.addi_keeps ?_
        refine Keeps.of_eq ?_ (by assumption)
        exact State.runLane_keeps (by assumption)
      clear_value s2
      have hs3 : Keeps s0 s3 := by
        unfold s3
        refine Keeps.ite ?_ ?_
        · exact State.inc_keeps (by assumption)
        · assumption
      clear_value s3
      have hs4 : Keeps s0 s4 := by
        unfold s4
        refine Keeps.ite ?_ ?_
        · exact State.wr_keeps (by assumption)
        · assumption
      clear_value s4
      split
      · refine Keeps.next ?_
        refine State.takeJob_keeps ?_
        refine Keeps.of_eq ?_ (by assumption)
        exact State.ringIn_keeps (by assumption)
      · extract_lets n6
        refine Keeps.next ?_
        refine State.setDet_keeps ?_
        refine Keeps.of_eq ?_ (by assumption)
        exact State.ringIn_keeps (by assumption)

theorem execTapeRereadDone_keeps {s0 s : State} {x1 x2 x3} (h : Keeps s0 s) :
    Keeps.Out s0 (execTapeRereadDone x1 x2 x3 s) := by
  unfold execTapeRereadDone
  extract_lets n1 n2 n3 n4
  split
  · refine Keeps.next ?_
    assumption
  · extract_lets n5 n6 s7
    have hs7 : Keeps s0 s7 := by
      unfold s7
      exact State.setTape_keeps (by assumption)
    clear_value s7
    refine Keeps.iteOut ?_ ?_
    · refine Keeps.next ?_
      assumption
    · refine Keeps.next ?_
      exact State.tapeSettle_keeps (by assumption)

end Sys2Proof.Machine
end

