-- ==== Sys2Proof/Laws/KeepsOwners.lean ====
section
/-!
SUPPORT. What every operation of Machine/Owners.lean keeps (Laws/Keeps.lean).
-/

set_option Elab.async false

namespace Sys2Proof.Machine

theorem State.askRecords_keeps {s0 s : State} {x2 x3} (h : Keeps s0 s) :
    Keeps s0 (State.askRecords s x2 x3) := by
  unfold State.askRecords
  exact State.sendSeq_keeps (by assumption)

theorem State.hbmOwner_keeps {s0 s : State} {x2 x3} (h : Keeps s0 s) : Keeps s0 (State.hbmOwner s x2 x3) := by
  cases x3 with
  | ring id =>
    unfold State.hbmOwner
    dsimp only
    split
    · exact Keeps.ite (State.poisoned_keeps h) h
    · exact h
  | accepted r data => cases r <;> exact State.hbmWrite_keeps (by first | exact h | exact State.busError_keeps h)
  | streamContext => exact State.hbmWrite_keeps h
  | context st => exact State.hbmWrite_keeps (State.busError_keeps h)
  | _ => unfold State.hbmOwner; exact State.busError_keeps h

theorem State.imgLost_keeps {s0 s : State} {x2} (h : Keeps s0 s) : Keeps s0 (State.imgLost s x2) := by
  unfold State.imgLost
  cases x2 <;> exact State.setBoot_keeps h

theorem State.recordLost_keeps {s0 s : State} {x2} (h : Keeps s0 s) :
    Keeps s0 (State.recordLost s x2) := by
  unfold State.recordLost
  split
  · assumption
  · extract_lets n1 s2 n3 s4 n5
    have hs2 : Keeps s0 s2 := by
      unfold s2
      exact State.setGrp_keeps (by assumption)
    clear_value s2
    have hs4 : Keeps s0 s4 := by
      unfold s4
      exact State.setGrp_keeps (by assumption)
    clear_value s4
    refine Keeps.ite ?_ ?_
    · exact State.setGrp_keeps (by assumption)
    · exact State.sendPlain_keeps (by assumption)

theorem State.mramOwner_keeps {s0 s : State} {x2 x3} (h : Keeps s0 s) :
    Keeps s0 (State.mramOwner s x2 x3) := by
  unfold State.mramOwner
  extract_lets n1 n2
  refine Keeps.ite ?_ ?_
  · split
    · exact State.askRecords_keeps (by assumption)
    · assumption
  · refine Keeps.ite ?_ ?_
    · refine Keeps.foldl _ ?_ (fun s _ h => ?_)
      · assumption
      · exact State.askRecords_keeps (by assumption)
    · refine Keeps.ite ?_ ?_
      · refine Keeps.foldl _ ?_ (fun s _ h => ?_)
        · assumption
        · exact State.askRecords_keeps (by assumption)
      · refine Keeps.ite ?_ ?_
        · exact State.seqLost_keeps (by assumption)
        · refine Keeps.ite ?_ ?_
          · exact State.recordLost_keeps (by assumption)
          · refine Keeps.ite ?_ ?_
            · exact State.imgLost_keeps (by assumption)
            · split
              · exact State.setPwr_keeps (by assumption)
              · refine State.raise_keeps ?_
                refine Keeps.upd ?_ rfl rfl rfl --UPD .life
                assumption
              · exact State.busError_keeps (by assumption)

theorem State.ringLost_keeps {s0 s : State} {x2} (h : Keeps s0 s) :
    Keeps s0 (State.ringLost s x2) := by
  unfold State.ringLost
  split
  · assumption
  · extract_lets s1
    have hs1 : Keeps s0 s1 := by
      unfold s1
      refine State.freeSamples_keeps ?_
      exact State.leaveSorrel_keeps (by assumption)
    clear_value s1
    split
    · exact State.verifyDecide_keeps (by assumption)
    · exact State.tapeMissing_keeps (by assumption)
    · exact State.dropped_keeps (by assumption)

theorem State.tableLost_keeps {s0 s : State} {x2 x3 x4} (h : Keeps s0 s) :
    Keeps s0 (State.tableLost s x2 x3 x4) := by
  unfold State.tableLost
  extract_lets s1
  have hs1 : Keeps s0 s1 := by
    unfold s1
    refine Keeps.ite ?_ ?_
    · exact State.fset_keeps (by assumption)
    · refine Keeps.ite ?_ ?_
      · exact State.fset_keeps (by assumption)
      · exact State.fset_keeps (by assumption)
  clear_value s1
  exact State.slotFlag_keeps (by assumption)

theorem State.traceLost_keeps {s0 s : State} {x2 x3} (h : Keeps s0 s) :
    Keeps s0 (State.traceLost s x2 x3) := by
  unfold State.traceLost
  extract_lets n1 n2 n3
  refine Keeps.upd ?_ rfl rfl rfl --UPD .trc
  assumption

theorem State.sramOwner_keeps {s0 s : State} {x2} (h : Keeps s0 s) :
    Keeps s0 (State.sramOwner s x2) := by
  unfold State.sramOwner
  split
  · exact State.ringLost_keeps (by assumption)
  · refine Keeps.ite ?_ ?_
    · exact State.retireCell_keeps (by assumption)
    · assumption
  · refine Keeps.ite ?_ ?_
    · assumption
    · exact State.busError_keeps (by assumption)
  · exact State.tableLost_keeps (by assumption)
  · exact State.traceLost_keeps (by assumption)
  · exact State.busError_keeps (by assumption)

theorem State.wordOwner_keeps {s0 s : State} {x2 x3 x4} (h : Keeps s0 s) :
    Keeps s0 (State.wordOwner s x2 x3 x4) := by
  unfold State.wordOwner
  extract_lets s1
  have hs1 : Keeps s0 s1 := by
    unfold s1
    refine Keeps.ite ?_ ?_
    · exact State.sramOwner_keeps (by assumption)
    · exact State.mramOwner_keeps (by assumption)
  clear_value s1
  refine Keeps.ite ?_ ?_
  · exact State.wordFixed_keeps (by assumption)
  · assumption

theorem execFabricHbmRead_keeps {s0 s : State} {x1 x2 x3 x4} (h : Keeps s0 s) :
    Keeps.Out s0 (execFabricHbmRead x1 x2 x3 x4 s) := by
  unfold execFabricHbmRead
  extract_lets n1 s2
  have hs2 : Keeps s0 s2 := by
    unfold s2
    exact State.hbmUpset_keeps (by assumption)
  clear_value s2
  refine Keeps.iteOut ?_ ?_
  · refine Keeps.next ?_
    assumption
  · split
    refine Keeps.next ?_
    refine Keeps.ite ?_ ?_
    · refine Keeps.of_eq ?_ (by assumption)
      exact State.hbmRead_keeps (by assumption)
    · refine State.hbmOwner_keeps ?_
      refine Keeps.of_eq ?_ (by assumption)
      exact State.hbmRead_keeps (by assumption)

theorem execFabricHbmWrite_keeps {s0 s : State} {x1 x2 x3 x4 x5} (h : Keeps s0 s) :
    Keeps.Out s0 (execFabricHbmWrite x1 x2 x3 x4 x5 s) := by
  unfold execFabricHbmWrite
  extract_lets n1 n2 n3
  refine Keeps.iteOut ?_ ?_
  · refine Keeps.next ?_
    assumption
  · refine Keeps.iteOut ?_ ?_
    · refine Keeps.next ?_
      exact State.hbmWrite_keeps (by assumption)
    · split
      refine Keeps.iteOut ?_ ?_
      · refine Keeps.next ?_
        refine State.hbmWrite_keeps ?_
        refine Keeps.of_eq ?_ (by assumption)
        exact State.hbmRead_keeps (by assumption)
      · refine Keeps.next ?_
        refine State.hbmOwner_keeps ?_
        refine Keeps.of_eq ?_ (by assumption)
        exact State.hbmRead_keeps (by assumption)

theorem execSramMramRead_keeps {s0 s : State} {x1 x2 x3 x4 x5} (h : Keeps s0 s) :
    Keeps.Out s0 (execSramMramRead x1 x2 x3 x4 x5 s) := by
  unfold execSramMramRead
  extract_lets n1 n2 s3
  have hs3 : Keeps s0 s3 := by
    unfold s3
    exact State.wordUpset_keeps (by assumption)
  clear_value s3
  refine Keeps.iteOut ?_ ?_
  · refine Keeps.next ?_
    assumption
  · split
    refine Keeps.next ?_
    refine Keeps.ite ?_ ?_
    · refine Keeps.of_eq ?_ (by assumption)
      exact State.wordRead_keeps (by assumption)
    · refine State.wordOwner_keeps ?_
      refine Keeps.of_eq ?_ (by assumption)
      exact State.wordRead_keeps (by assumption)

theorem execScrubRead_keeps {s0 s : State} {x1 x2 x3 x4} (h : Keeps s0 s) :
    Keeps.Out s0 (execScrubRead x1 x2 x3 x4 s) := by
  unfold execScrubRead
  extract_lets n1 n2 s3 s4
  have hs3 : Keeps s0 s3 := by
    unfold s3
    exact State.hbmUpset_keeps (by assumption)
  clear_value s3
  have hs4 : Keeps s0 s4 := by
    unfold s4
    exact State.wordUpset_keeps (by assumption)
  clear_value s4
  refine Keeps.iteOut ?_ ?_
  · refine Keeps.next ?_
    assumption
  · refine Keeps.iteOut ?_ ?_
    · split
      refine Keeps.next ?_
      refine State.scrubNext_keeps ?_
      refine Keeps.ite ?_ ?_
      · refine Keeps.of_eq ?_ (by assumption)
        exact State.hbmScrub_keeps (by assumption)
      · refine State.hbmOwner_keeps ?_
        refine Keeps.of_eq ?_ (by assumption)
        exact State.hbmScrub_keeps (by assumption)
    · split
      refine Keeps.next ?_
      refine State.scrubNext_keeps ?_
      refine Keeps.ite ?_ ?_
      · refine Keeps.of_eq ?_ (by assumption)
        exact State.wordScrub_keeps (by assumption)
      · refine State.wordOwner_keeps ?_
        refine Keeps.of_eq ?_ (by assumption)
        exact State.wordScrub_keeps (by assumption)

end Sys2Proof.Machine
end

