-- ==== Sys2Proof/Laws/KeepsPeers.lean ====
section
/-!
SUPPORT. What every operation of Machine/Peers.lean keeps (Laws/Keeps.lean).
-/

set_option Elab.async false

namespace Sys2Proof.Machine

theorem State.answerQuery_keeps {s0 s : State} {x2} (h : Keeps s0 s) :
    Keeps s0 (State.answerQuery s x2) := by
  unfold State.answerQuery
  extract_lets n1
  exact State.sendSeq_keeps (by assumption)

theorem State.credit_keeps {s0 s : State} {x2 x3} (h : Keeps s0 s) :
    Keeps s0 (State.credit s x2 x3) := by
  unfold State.credit
  refine Keeps.ite ?_ ?_
  · assumption
  · exact State.block_keeps (by assumption)

theorem State.reject_keeps {s0 s : State} {x2 x3} (h : Keeps s0 s) :
    Keeps s0 (State.reject s x2 x3) := by
  unfold State.reject
  extract_lets s1
  have hs1 : Keeps s0 s1 := by
    unfold s1
    exact State.inc_keeps (by assumption)
  clear_value s1
  refine Keeps.ite ?_ ?_
  · assumption
  · exact State.sendPlain_keeps (by assumption)

theorem State.declare_keeps {s0 s : State} {x2 x3 x4 x5 x6 x7} (h : Keeps s0 s) :
    Keeps s0 (State.declare s x2 x3 x4 x5 x6 x7) := by
  unfold State.declare
  extract_lets n1
  refine Keeps.ite ?_ ?_
  · refine State.sendSeq_keeps ?_
    refine Keeps.upd ?_ rfl rfl rfl --UPD .free
    assumption
  · assumption

theorem State.takeStripWrite_keeps {s0 s : State} {x2 x3 x4} (h : Keeps s0 s) :
    Keeps s0 (State.takeStripWrite s x2 x3 x4) := by
  unfold State.takeStripWrite
  extract_lets s1
  have hs1 : Keeps s0 s1 := by
    unfold s1
    refine Keeps.ite ?_ ?_
    · exact State.declare_keeps (by assumption)
    · assumption
  clear_value s1
  refine Keeps.ite ?_ ?_
  · exact State.takeStrip_keeps (by assumption)
  · refine Keeps.ite ?_ ?_
    · exact State.dropStrips_keeps (by assumption)
    · assumption

theorem State.takeEstimate_keeps {s0 s : State} {x2 x3} (h : Keeps s0 s) :
    Keeps s0 (State.takeEstimate s x2 x3) := by
  unfold State.takeEstimate
  extract_lets n1
  exact State.setRed_keeps (by assumption)

theorem State.takeStripFail_keeps {s0 s : State} {x2 x3} (h : Keeps s0 s) :
    Keeps s0 (State.takeStripFail s x2 x3) := by
  unfold State.takeStripFail
  split
  · refine Keeps.ite ?_ ?_
    · exact State.moveSlot_keeps (by assumption)
    · assumption
  · assumption

theorem State.takeStripReply_keeps {s0 s : State} {x2 x3 x4} (h : Keeps s0 s) :
    Keeps s0 (State.takeStripReply s x2 x3 x4) := by
  unfold State.takeStripReply
  split
  · exact State.takeStripData_keeps (by assumption)
  · exact State.slotDone_keeps (by assumption)
  · exact State.takeEstimate_keeps (by assumption)
  · exact State.takeStripFail_keeps (by assumption)
  · assumption

theorem State.judgeCopy_keeps {s0 s : State} {x2 x3 x4} (h : Keeps s0 s) :
    Keeps s0 (State.judgeCopy s x2 x3 x4) := by
  unfold State.judgeCopy
  extract_lets n1 n2 n3
  refine Keeps.ite ?_ ?_
  · assumption
  · refine Keeps.ite ?_ ?_
    · exact State.setRed_keeps (by assumption)
    · exact State.sendOp_keeps (by assumption)

theorem State.takeLandingOp_keeps {s0 s : State} {x2 x3 x4} (h : Keeps s0 s) :
    Keeps s0 (State.takeLandingOp s x2 x3 x4) := by
  unfold State.takeLandingOp
  extract_lets n1 n2
  split
  · exact State.takeLanding_keeps (by assumption)
  · refine State.judgeCopy_keeps ?_
    exact State.copyWritten_keeps (by assumption)
  · exact State.releaseCopy_keeps (by assumption)
  · exact State.copyLost_keeps (by assumption)
  · assumption

theorem State.takeJournalRecords_keeps {s0 s : State} {x2 x3 x4 x5} (h : Keeps s0 s) :
    Keeps s0 (State.takeJournalRecords s x2 x3 x4 x5) := by
  unfold State.takeJournalRecords
  extract_lets n1 n2
  refine Keeps.ite ?_ ?_
  · exact State.setRed_keeps (by assumption)
  · refine Keeps.ite ?_ ?_
    · refine Keeps.foldl _ ?_ (fun s _ h => ?_)
      · assumption
      · exact State.takeRecord_keeps (by assumption)
    · refine Keeps.ite ?_ ?_
      · exact State.takeRecords_keeps (by assumption)
      · assumption

theorem State.takeJournal_keeps {s0 s : State} {x2 x3 x4} (h : Keeps s0 s) :
    Keeps s0 (State.takeJournal s x2 x3 x4) := by
  unfold State.takeJournal
  split
  · exact State.takeRecord_keeps (by assumption)
  · exact State.answerTake_keeps (by assumption)
  · exact State.takeJournalRecords_keeps (by assumption)
  · exact State.takeDirectory_keeps (by assumption)
  · refine Keeps.ite ?_ ?_
    · exact State.dropStrips_keeps (by assumption)
    · exact State.takeRows_keeps (by assumption)
  · assumption

theorem State.takeSeqMirror_keeps {s0 s : State} {x2} (h : Keeps s0 s) :
    Keeps s0 (State.takeSeqMirror s x2) := by
  unfold State.takeSeqMirror
  extract_lets n1 n2
  refine Keeps.ite ?_ ?_
  · refine Keeps.upd ?_ rfl rfl rfl --UPD .obj
    assumption
  · refine Keeps.upd ?_ rfl rfl rfl --UPD .obj
    assumption

theorem State.judgeProp_keeps {s0 s : State} {x2} (h : Keeps s0 s) :
    Keeps s0 (State.judgeProp s x2) := by
  unfold State.judgeProp
  split
  · assumption
  · extract_lets n1 s2
    have hs2 : Keeps s0 s2 := by
      unfold s2
      refine State.withdrawHome_keeps ?_
      exact State.dropProp_keeps (by assumption)
    clear_value s2
    refine Keeps.ite ?_ ?_
    · refine State.confirmHome_keeps ?_
      exact State.settleProp_keeps (by assumption)
    · exact State.sendSeq_keeps (by assumption)

theorem State.takeLookup_keeps {s0 s : State} {x2 x3 x4} (h : Keeps s0 s) :
    Keeps s0 (State.takeLookup s x2 x3 x4) := by
  unfold State.takeLookup
  split
  · extract_lets n1
    exact State.setRed_keeps (by assumption)
  · exact State.takeEntry_keeps (by assumption)
  · exact State.takeEntry_keeps (by assumption)
  · refine State.judgeProp_keeps ?_
    exact State.takeEntry_keeps (by assumption)
  · extract_lets n2
    refine Keeps.upd ?_ rfl rfl rfl --UPD .obj
    assumption

theorem State.takeMap_keeps {s0 s : State} {x2 x3} (h : Keeps s0 s) :
    Keeps s0 (State.takeMap s x2 x3) := by
  unfold State.takeMap
  extract_lets n1
  split
  · refine Keeps.ite ?_ ?_
    · exact State.answerLookup_keeps (by assumption)
    · exact State.takeLookup_keeps (by assumption)
  · exact State.takeEntry_keeps (by assumption)
  · refine Keeps.ite ?_ ?_
    · exact State.settleProp_keeps (by assumption)
    · exact State.takeEntry_keeps (by assumption)
  · refine Keeps.ite ?_ ?_
    · exact State.dropEntry_keeps (by assumption)
    · exact State.dropProp_keeps (by assumption)
  · assumption

theorem State.takeRebuild_keeps {s0 s : State} {x2 x3 x4} (h : Keeps s0 s) :
    Keeps s0 (State.takeRebuild s x2 x3 x4) := by
  unfold State.takeRebuild
  split
  · exact State.answerList_keeps (by assumption)
  · exact State.takeList_keeps (by assumption)
  · exact State.answerRead_keeps (by assumption)
  · exact State.takeRebuildData_keeps (by assumption)
  · assumption

theorem State.takeLeadBeat_keeps {s0 s : State} {x2} (h : Keeps s0 s) :
    Keeps s0 (State.takeLeadBeat s x2) := by
  unfold State.takeLeadBeat
  extract_lets n1
  refine State.sendSeq_keeps ?_
  exact State.setGrp_keeps (by assumption)

theorem State.takeMemberBeat_keeps {s0 s : State} {x2 x3} (h : Keeps s0 s) :
    Keeps s0 (State.takeMemberBeat s x2 x3) := by
  unfold State.takeMemberBeat
  extract_lets n1 n2 s3 n4
  have hs3 : Keeps s0 s3 := by
    unfold s3
    exact State.setGrp_keeps (by assumption)
  clear_value s3
  refine Keeps.ite ?_ ?_
  · assumption
  · exact State.setRed_keeps (by assumption)

theorem State.takeQueryResp_keeps {s0 s : State} {x2 x3} (h : Keeps s0 s) :
    Keeps s0 (State.takeQueryResp s x2 x3) := by
  unfold State.takeQueryResp
  split
  · assumption
  · extract_lets n1
    refine Keeps.ite ?_ ?_
    · refine State.takeLead_keeps ?_
      exact State.setGrp_keeps (by assumption)
    · assumption

theorem State.takeSequenced_keeps {s0 s : State} {x2 x3} (h : Keeps s0 s) :
    Keeps s0 (State.takeSequenced s x2 x3) := by
  unfold State.takeSequenced
  extract_lets n1 n2
  split
  · exact State.takeStripWrite_keeps (by assumption)
  · refine Keeps.ite ?_ ?_
    · exact State.takeRead_keeps (by assumption)
    · assumption
  · exact State.takeStripReply_keeps (by assumption)
  · exact State.takeLandingOp_keeps (by assumption)
  · exact State.takeJournal_keeps (by assumption)
  · exact State.takeSeqMirror_keeps (by assumption)
  · exact State.takeMap_keeps (by assumption)
  · exact State.takeRebuild_keeps (by assumption)
  · exact State.takeLeadBeat_keeps (by assumption)
  · exact State.takeMemberBeat_keeps (by assumption)
  · exact State.answerQuery_keeps (by assumption)
  · exact State.takeQueryResp_keeps (by assumption)
  · exact State.takeMgmt_keeps (by assumption)
  · assumption

theorem State.takeNext_keeps {s0 s : State} {x2 x3} (h : Keeps s0 s) :
    Keeps s0 (State.takeNext s x2 x3) := by
  unfold State.takeNext
  extract_lets n1 n2 n3 s4
  have hs4 : Keeps s0 s4 := by
    unfold s4
    exact State.setGrp_keeps (by assumption)
  clear_value s4
  refine Keeps.ite ?_ ?_
  · refine State.sendPlain_keeps ?_
    exact State.takeSequenced_keeps (by assumption)
  · refine Keeps.ite ?_ ?_
    · exact State.sendPlain_keeps (by assumption)
    · assumption

theorem State.checked_keeps {s0 s : State} {x2 x3 x4} (h : Keeps s0 s) : Keeps s0 (State.checked s x2 x3 x4) := by
  unfold State.checked
  refine Keeps.ite (State.reject_keeps h) ?_
  generalize s.epochOrder x3.epochLo = k
  split
  · exact Keeps.ite (State.reject_keeps h) (State.takeNext_keeps h)
  · exact State.sendPlain_keeps (State.setGrp_keeps h)
  · exact State.reject_keeps h

theorem State.drainNew_keeps {s0 s : State} {x1} (h : Keeps s0 s) :
    Keeps s0 (State.drainNew x1 s) := by
  induction x1 generalizing s with
  | zero =>
    rw [State.drainNew]
    assumption
  | succ n ih =>
    rw [State.drainNew]
    split
    · assumption
    · extract_lets n1 s2
      have hs2 : Keeps s0 s2 := by
        unfold s2
        exact State.setGrp_keeps (by assumption)
      clear_value s2
      refine ih ?_
      refine State.credit_keeps ?_
      exact State.checked_keeps (by assumption)

theorem State.loseFailed_keeps {s0 s : State} (h : Keeps s0 s) :
    Keeps s0 (State.loseFailed s) := by
  unfold State.loseFailed
  split
  · assumption
  · refine Keeps.foldl _ ?_ (fun s _ h => ?_)
    · assumption
    · exact State.losePeer_keeps (by assumption)

theorem State.peersStep_keeps {s0 s : State} (h : Keeps s0 s) :
    Keeps s0 (State.peersStep s) := by
  unfold State.peersStep
  extract_lets s1 s2 s3
  have hs1 : Keeps s0 s1 := by
    unfold s1
    exact State.drainNew_keeps (by assumption)
  clear_value s1
  have hs2 : Keeps s0 s2 := by
    unfold s2
    exact State.groupStep_keeps (by assumption)
  clear_value s2
  have hs3 : Keeps s0 s3 := by
    unfold s3
    exact State.loseFailed_keeps (by assumption)
  clear_value s3
  refine State.tellMgmt_keeps ?_
  refine State.commitReady_keeps ?_
  exact State.redStep_keeps (by assumption)

theorem State.takeAck_keeps {s0 s : State} {x2 x3 x4} (h : Keeps s0 s) :
    Keeps s0 (State.takeAck s x2 x3 x4) := by
  unfold State.takeAck
  extract_lets n1
  refine Keeps.ite ?_ ?_
  · exact State.takeEpochAck_keeps (by assumption)
  · exact State.setGrp_keeps (by assumption)

theorem State.takePlain_keeps {s0 s : State} {x2 x3} (h : Keeps s0 s) :
    Keeps s0 (State.takePlain s x2 x3) := by
  unfold State.takePlain
  extract_lets n1
  split
  · exact State.takeHello_keeps (by assumption)
  · refine Keeps.ite ?_ ?_
    · exact State.takeAssign_keeps (by assumption)
    · exact State.takeProbe_keeps (by assumption)
  · exact State.takeLinkState_keeps (by assumption)
  · exact State.takeEpoch_keeps (by assumption)
  · exact State.takeEpochReq_keeps (by assumption)
  · exact State.takeReject_keeps (by assumption)
  · exact State.takeAck_keeps (by assumption)
  · assumption

theorem State.receive_keeps {s0 s : State} {x2 x3 x4} (h : Keeps s0 s) :
    Keeps s0 (State.receive s x2 x3 x4) := by
  unfold State.receive
  refine Keeps.ite ?_ ?_
  · exact State.checked_keeps (by assumption)
  · exact State.takePlain_keeps (by assumption)

theorem State.arrivesWith_keeps {s0 s : State} {x2 x3 x4 x5} (h : Keeps s0 s) :
    Keeps s0 (State.arrivesWith s x2 x3 x4 x5) := by
  unfold State.arrivesWith
  refine Keeps.ite ?_ ?_
  · refine State.peersStep_keeps ?_
    exact State.receive_keeps (by assumption)
  · assumption

theorem State.arrives_keeps {s0 s : State} {x2 x3 x4} (h : Keeps s0 s) :
    Keeps s0 (State.arrives s x2 x3 x4) := by
  unfold State.arrives
  exact State.arrivesWith_keeps (by assumption)

theorem State.forward_keeps {s0 s : State} {x2} (h : Keeps s0 s) :
    Keeps s0 (State.forward s x2) := by
  unfold State.forward
  refine Keeps.ite ?_ ?_
  · refine State.wr_keeps ?_
    exact State.inc_keeps (by assumption)
  · exact State.routeOut_keeps (by assumption)

theorem State.crossed_keeps {s0 s : State} {x2 x3} (h : Keeps s0 s) :
    Keeps s0 (State.crossed s x2 x3) := by
  unfold State.crossed
  extract_lets n1 n2 s3 s4
  have hs3 : Keeps s0 s3 := by
    unfold s3
    refine State.receive_keeps ?_
    refine Keeps.upd ?_ rfl rfl rfl --UPD .free
    assumption
  clear_value s3
  have hs4 : Keeps s0 s4 := by
    unfold s4
    refine Keeps.ite ?_ ?_
    · assumption
    · exact State.credit_keeps (by assumption)
  clear_value s4
  refine Keeps.ite ?_ ?_
  · exact State.peersStep_keeps (by assumption)
  · refine State.credit_keeps ?_
    exact State.forward_keeps (by assumption)

theorem State.stripArrives_keeps {s0 s : State} {x2 x3 x4 x5 x6} (h : Keeps s0 s) :
    Keeps s0 (State.stripArrives s x2 x3 x4 x5 x6) := by
  unfold State.stripArrives
  exact State.arrives_keeps (by assumption)

theorem execHello_keeps {s0 s : State} {x1 x2 x3 x4 x5 x6} (h : Keeps s0 s) :
    Keeps.Out s0 (execHello x1 x2 x3 x4 x5 x6 s) := by
  unfold execHello
  refine Keeps.next ?_
  exact State.arrives_keeps (by assumption)

theorem execLinkFrame_keeps {s0 s : State} {x1 x2 x3 x4 x5} (h : Keeps s0 s) :
    Keeps.Out s0 (execLinkFrame x1 x2 x3 x4 x5 s) := by
  unfold execLinkFrame
  extract_lets n1 n2 s3
  have hs3 : Keeps s0 s3 := by
    unfold s3
    exact State.setPort_keeps (by assumption)
  clear_value s3
  refine Keeps.iteOut ?_ ?_
  · refine Keeps.next ?_
    assumption
  · split
    · refine Keeps.next ?_
      refine State.crossed_keeps ?_
      exact State.block_keeps (by assumption)
    · refine Keeps.iteOut ?_ ?_
      · refine Keeps.next ?_
        assumption
      · refine Keeps.next ?_
        refine State.block_keeps ?_
        exact State.setPort_keeps (by assumption)

theorem execStripWriteData_keeps {s0 s : State} {x1 x2 x3} (h : Keeps s0 s) :
    Keeps.Out s0 (execStripWriteData x1 x2 x3 s) := by
  unfold execStripWriteData
  refine Keeps.next ?_
  exact State.stripArrives_keeps (by assumption)

theorem execStripWriteAbort_keeps {s0 s : State} {x1 x2} (h : Keeps s0 s) :
    Keeps.Out s0 (execStripWriteAbort x1 x2 s) := by
  unfold execStripWriteAbort
  refine Keeps.next ?_
  exact State.stripArrives_keeps (by assumption)

theorem execStripRead_keeps {s0 s : State} {x1 x2} (h : Keeps s0 s) :
    Keeps.Out s0 (execStripRead x1 x2 s) := by
  unfold execStripRead
  refine Keeps.next ?_
  exact State.stripArrives_keeps (by assumption)

theorem execStripData_keeps {s0 s : State} {x1 x2 x3} (h : Keeps s0 s) :
    Keeps.Out s0 (execStripData x1 x2 x3 s) := by
  unfold execStripData
  refine Keeps.next ?_
  exact State.stripArrives_keeps (by assumption)

theorem execStripDone_keeps {s0 s : State} {x1 x2} (h : Keeps s0 s) :
    Keeps.Out s0 (execStripDone x1 x2 s) := by
  unfold execStripDone
  refine Keeps.next ?_
  exact State.stripArrives_keeps (by assumption)

theorem execStripEstimate_keeps {s0 s : State} {x1 x2} (h : Keeps s0 s) :
    Keeps.Out s0 (execStripEstimate x1 x2 s) := by
  unfold execStripEstimate
  refine Keeps.next ?_
  exact State.stripArrives_keeps (by assumption)

theorem execStripFail_keeps {s0 s : State} {x1 x2} (h : Keeps s0 s) :
    Keeps.Out s0 (execStripFail x1 x2 s) := by
  unfold execStripFail
  refine Keeps.next ?_
  exact State.stripArrives_keeps (by assumption)

theorem execLandingData_keeps {s0 s : State} {x1 x2 x3} (h : Keeps s0 s) :
    Keeps.Out s0 (execLandingData x1 x2 x3 s) := by
  unfold execLandingData
  refine Keeps.next ?_
  exact State.stripArrives_keeps (by assumption)

theorem execLandingWritten_keeps {s0 s : State} {x1 x2} (h : Keeps s0 s) :
    Keeps.Out s0 (execLandingWritten x1 x2 s) := by
  unfold execLandingWritten
  refine Keeps.next ?_
  exact State.stripArrives_keeps (by assumption)

theorem execLandingRelease_keeps {s0 s : State} {x1 x2} (h : Keeps s0 s) :
    Keeps.Out s0 (execLandingRelease x1 x2 s) := by
  unfold execLandingRelease
  refine Keeps.next ?_
  exact State.stripArrives_keeps (by assumption)

theorem execLandingFail_keeps {s0 s : State} {x1 x2} (h : Keeps s0 s) :
    Keeps.Out s0 (execLandingFail x1 x2 s) := by
  unfold execLandingFail
  refine Keeps.next ?_
  exact State.stripArrives_keeps (by assumption)

theorem execJournalRecord_keeps {s0 s : State} {x1 x2 x3} (h : Keeps s0 s) :
    Keeps.Out s0 (execJournalRecord x1 x2 x3 s) := by
  unfold execJournalRecord
  refine Keeps.next ?_
  exact State.stripArrives_keeps (by assumption)

theorem execJournalTake_keeps {s0 s : State} {x1 x2} (h : Keeps s0 s) :
    Keeps.Out s0 (execJournalTake x1 x2 s) := by
  unfold execJournalTake
  refine Keeps.next ?_
  exact State.stripArrives_keeps (by assumption)

theorem execJournalRecords_keeps {s0 s : State} {x1 x2 x3} (h : Keeps s0 s) :
    Keeps.Out s0 (execJournalRecords x1 x2 x3 s) := by
  unfold execJournalRecords
  refine Keeps.next ?_
  exact State.stripArrives_keeps (by assumption)

theorem execJournalDirectory_keeps {s0 s : State} {x1 x2 x3} (h : Keeps s0 s) :
    Keeps.Out s0 (execJournalDirectory x1 x2 x3 s) := by
  unfold execJournalDirectory
  refine Keeps.next ?_
  exact State.stripArrives_keeps (by assumption)

theorem execJournalRows_keeps {s0 s : State} {x1 x2 x3} (h : Keeps s0 s) :
    Keeps.Out s0 (execJournalRows x1 x2 x3 s) := by
  unfold execJournalRows
  refine Keeps.next ?_
  exact State.stripArrives_keeps (by assumption)

theorem execRebuildList_keeps {s0 s : State} {x1 x2} (h : Keeps s0 s) :
    Keeps.Out s0 (execRebuildList x1 x2 s) := by
  unfold execRebuildList
  refine Keeps.next ?_
  exact State.stripArrives_keeps (by assumption)

theorem execRebuildListData_keeps {s0 s : State} {x1 x2 x3} (h : Keeps s0 s) :
    Keeps.Out s0 (execRebuildListData x1 x2 x3 s) := by
  unfold execRebuildListData
  refine Keeps.next ?_
  exact State.stripArrives_keeps (by assumption)

theorem execRebuildRead_keeps {s0 s : State} {x1 x2} (h : Keeps s0 s) :
    Keeps.Out s0 (execRebuildRead x1 x2 s) := by
  unfold execRebuildRead
  refine Keeps.next ?_
  exact State.stripArrives_keeps (by assumption)

theorem execRebuildData_keeps {s0 s : State} {x1 x2 x3} (h : Keeps s0 s) :
    Keeps.Out s0 (execRebuildData x1 x2 x3 s) := by
  unfold execRebuildData
  refine Keeps.next ?_
  exact State.stripArrives_keeps (by assumption)

theorem execSeqMirror_keeps {s0 s : State} {x1 x2 x3} (h : Keeps s0 s) :
    Keeps.Out s0 (execSeqMirror x1 x2 x3 s) := by
  unfold execSeqMirror
  refine Keeps.next ?_
  exact State.arrives_keeps (by assumption)

theorem execMapLookup_keeps {s0 s : State} {x1 x2 x3} (h : Keeps s0 s) :
    Keeps.Out s0 (execMapLookup x1 x2 x3 s) := by
  unfold execMapLookup
  refine Keeps.next ?_
  exact State.arrives_keeps (by assumption)

theorem execMapInsert_keeps {s0 s : State} {x1 x2 x3} (h : Keeps s0 s) :
    Keeps.Out s0 (execMapInsert x1 x2 x3 s) := by
  unfold execMapInsert
  refine Keeps.next ?_
  exact State.arrives_keeps (by assumption)

theorem execMapUpdate_keeps {s0 s : State} {x1 x2 x3} (h : Keeps s0 s) :
    Keeps.Out s0 (execMapUpdate x1 x2 x3 s) := by
  unfold execMapUpdate
  refine Keeps.next ?_
  exact State.arrives_keeps (by assumption)

theorem execMapDelete_keeps {s0 s : State} {x1 x2} (h : Keeps s0 s) :
    Keeps.Out s0 (execMapDelete x1 x2 s) := by
  unfold execMapDelete
  refine Keeps.next ?_
  exact State.arrives_keeps (by assumption)

theorem execDiscoverProbe_keeps {s0 s : State} {x1 x2 x3} (h : Keeps s0 s) :
    Keeps.Out s0 (execDiscoverProbe x1 x2 x3 s) := by
  unfold execDiscoverProbe
  refine Keeps.next ?_
  exact State.arrives_keeps (by assumption)

theorem execDiscoverAssign_keeps {s0 s : State} {x1 x2 x3} (h : Keeps s0 s) :
    Keeps.Out s0 (execDiscoverAssign x1 x2 x3 s) := by
  unfold execDiscoverAssign
  refine Keeps.next ?_
  exact State.arrives_keeps (by assumption)

theorem execLinkState_keeps {s0 s : State} {x1 x2 x3 x4} (h : Keeps s0 s) :
    Keeps.Out s0 (execLinkState x1 x2 x3 x4 s) := by
  unfold execLinkState
  refine Keeps.next ?_
  exact State.arrives_keeps (by assumption)

theorem execLeadBeat_keeps {s0 s : State} {x1 x2} (h : Keeps s0 s) :
    Keeps.Out s0 (execLeadBeat x1 x2 s) := by
  unfold execLeadBeat
  refine Keeps.next ?_
  exact State.arrives_keeps (by assumption)

theorem execMemberBeat_keeps {s0 s : State} {x1 x2 x3 x4} (h : Keeps s0 s) :
    Keeps.Out s0 (execMemberBeat x1 x2 x3 x4 s) := by
  unfold execMemberBeat
  refine Keeps.next ?_
  exact State.arrives_keeps (by assumption)

theorem execLeadQuery_keeps {s0 s : State} {x1} (h : Keeps s0 s) :
    Keeps.Out s0 (execLeadQuery x1 s) := by
  unfold execLeadQuery
  refine Keeps.next ?_
  exact State.arrives_keeps (by assumption)

theorem execLeadQueryResp_keeps {s0 s : State} {x1 x2} (h : Keeps s0 s) :
    Keeps.Out s0 (execLeadQueryResp x1 x2 s) := by
  unfold execLeadQueryResp
  refine Keeps.next ?_
  exact State.arrives_keeps (by assumption)

theorem execEpochCmd_keeps {s0 s : State} {x1 x2} (h : Keeps s0 s) :
    Keeps.Out s0 (execEpochCmd x1 x2 s) := by
  unfold execEpochCmd
  refine Keeps.next ?_
  exact State.arrives_keeps (by assumption)

theorem execEpochReq_keeps {s0 s : State} {x1} (h : Keeps s0 s) :
    Keeps.Out s0 (execEpochReq x1 s) := by
  unfold execEpochReq
  refine Keeps.next ?_
  exact State.arrives_keeps (by assumption)

theorem execRejectCmd_keeps {s0 s : State} {x1 x2 x3 x4 x5} (h : Keeps s0 s) :
    Keeps.Out s0 (execRejectCmd x1 x2 x3 x4 x5 s) := by
  unfold execRejectCmd
  refine Keeps.next ?_
  exact State.arrives_keeps (by assumption)

theorem execE2eAck_keeps {s0 s : State} {x1 x2 x3} (h : Keeps s0 s) :
    Keeps.Out s0 (execE2eAck x1 x2 x3 s) := by
  unfold execE2eAck
  refine Keeps.next ?_
  exact State.arrives_keeps (by assumption)

theorem execMgmtCmd_keeps {s0 s : State} {x1 x2 x3 x4 x5 x6} (h : Keeps s0 s) :
    Keeps.Out s0 (execMgmtCmd x1 x2 x3 x4 x5 x6 s) := by
  unfold execMgmtCmd
  refine Keeps.next ?_
  exact State.arrives_keeps (by assumption)

theorem execMgmtCmdDone_keeps {s0 s : State} {x1 x2 x3} (h : Keeps s0 s) :
    Keeps.Out s0 (execMgmtCmdDone x1 x2 x3 s) := by
  unfold execMgmtCmdDone
  refine Keeps.next ?_
  exact State.arrives_keeps (by assumption)

theorem execMgmtOpAdmin_keeps {s0 s : State} {x1 x2 x3 x4 x5 x6 x7} (h : Keeps s0 s) :
    Keeps.Out s0 (execMgmtOpAdmin x1 x2 x3 x4 x5 x6 x7 s) := by
  unfold execMgmtOpAdmin
  extract_lets n1
  refine Keeps.next ?_
  exact State.arrivesWith_keeps (by assumption)

theorem execMgmtAdminDone_keeps {s0 s : State} {x1 x2 x3 x4 x5 x6} (h : Keeps s0 s) :
    Keeps.Out s0 (execMgmtAdminDone x1 x2 x3 x4 x5 x6 s) := by
  unfold execMgmtAdminDone
  refine Keeps.next ?_
  exact State.arrives_keeps (by assumption)

end Sys2Proof.Machine
end

