-- ==== Sys2Proof/Laws/KeepsRegisters.lean ====
section
/-!
SUPPORT. What every operation of Machine/Registers.lean keeps (Laws/Keeps.lean).
-/

set_option Elab.async false

namespace Sys2Proof.Machine

theorem State.hostField_keeps {s0 s : State} {x2 x3} (h : Keeps s0 s) :
    Keeps s0 (State.hostField s x2 x3) := by
  unfold State.hostField
  extract_lets n1 n2 n3
  refine Keeps.ite ?_ ?_
  · refine Keeps.ite ?_ ?_
    · exact State.fset_keeps (by assumption)
    · assumption
  · refine Keeps.ite ?_ ?_
    · exact State.fset_keeps (by assumption)
    · refine Keeps.ite ?_ ?_
      · exact State.fset_keeps (by assumption)
      · assumption

theorem State.writeResetCtl_keeps {s0 s : State} {x2 x3} (h : Keeps s0 s) :
    Keeps s0 (State.writeResetCtl s x2 x3) := by
  unfold State.writeResetCtl
  refine Keeps.ite ?_ ?_
  · assumption
  · refine Keeps.ite ?_ ?_
    · refine State.resetCause_keeps ?_
      exact State.resetWarm_keeps (by assumption)
    · exact State.accessErr_keeps (by assumption)

theorem State.writeFields_keeps {s0 s : State} {x2 x3 x4} (h : Keeps s0 s) :
    Keeps s0 (State.writeFields s x2 x3 x4) := by
  unfold State.writeFields
  extract_lets n1 s2
  have hs2 : Keeps s0 s2 := by
    unfold s2
    refine Keeps.foldl _ ?_ (fun s _ h => ?_)
    · assumption
    · exact State.hostField_keeps (by assumption)
  clear_value s2
  refine Keeps.ite ?_ ?_
  · assumption
  · refine Keeps.ite ?_ ?_
    · assumption
    · refine Keeps.ite ?_ ?_
      · exact State.accessErr_keeps (by assumption)
      · assumption

theorem State.presetIf_keeps {s0 s : State} {x2 x3} (h : Keeps s0 s) :
    Keeps s0 (State.presetIf s x2 x3) := by
  unfold State.presetIf
  extract_lets n1
  refine Keeps.ite ?_ ?_
  · exact State.setSlotOf_keeps (by assumption)
  · assumption

theorem State.writeSlot_keeps {s0 s : State} {x2 x3 x4 x5} (h : Keeps s0 s) :
    Keeps s0 (State.writeSlot s x2 x3 x4 x5) := by
  unfold State.writeSlot
  extract_lets n1 n2 n3 n4 s5 s6
  have hs5 : Keeps s0 s5 := by
    unfold s5
    refine Keeps.ite ?_ ?_
    · exact State.accessErr_keeps (by assumption)
    · assumption
  clear_value s5
  have hs6 : Keeps s0 s6 := by
    unfold s6
    exact State.writeFields_keeps (by assumption)
  clear_value s6
  refine Keeps.ite ?_ ?_
  · exact State.slotFlag_keeps (by assumption)
  · refine Keeps.ite ?_ ?_
    · exact State.commitTarget_keeps (by assumption)
    · exact State.presetIf_keeps (by assumption)

theorem State.writeTrcCtl_keeps {s0 s : State} {x2} (h : Keeps s0 s) :
    Keeps s0 (State.writeTrcCtl s x2) := by
  unfold State.writeTrcCtl
  extract_lets s1 s2
  have hs1 : Keeps s0 s1 := by
    unfold s1
    refine Keeps.ite ?_ ?_
    · exact State.traceArm_keeps (by assumption)
    · assumption
  clear_value s1
  have hs2 : Keeps s0 s2 := by
    unfold s2
    refine Keeps.ite ?_ ?_
    · exact State.traceForce_keeps (by assumption)
    · assumption
  clear_value s2
  refine Keeps.ite ?_ ?_
  · exact State.traceAbort_keeps (by assumption)
  · assumption

theorem State.writeRcvCmd_keeps {s0 s : State} {x2 x3} (h : Keeps s0 s) :
    Keeps s0 (State.writeRcvCmd s x2 x3) := by
  unfold State.writeRcvCmd
  extract_lets n1
  split
  · exact State.rcvErase_keeps (by assumption)
  · exact State.rcvProgram_keeps (by assumption)
  · exact State.rcvRead_keeps (by assumption)
  · exact State.rcvSelect_keeps (by assumption)
  · assumption

theorem State.hostWrite_keeps {s0 s : State} {x2 x3 x4} (h : Keeps s0 s) :
    Keeps s0 (State.hostWrite s x2 x3 x4) := by
  unfold State.hostWrite
  refine Keeps.ite ?_ ?_
  · assumption
  · refine Keeps.ite ?_ ?_
    · exact State.writeResetCtl_keeps (by assumption)
    · refine Keeps.ite ?_ ?_
      · exact State.writeIngWm_keeps (by assumption)
      · refine Keeps.ite ?_ ?_
        · exact State.writeArb_keeps (by assumption)
        · refine Keeps.ite ?_ ?_
          · exact State.writeArb_keeps (by assumption)
          · refine Keeps.ite ?_ ?_
            · split
              · exact State.writeTq_keeps (by assumption)
              · assumption
            · refine Keeps.ite ?_ ?_
              · split
                · exact State.writeCr_keeps (by assumption)
                · assumption
              · refine Keeps.ite ?_ ?_
                · exact State.writeSlot_keeps (by assumption)
                · refine Keeps.ite ?_ ?_
                  · assumption
                  · refine Keeps.ite ?_ ?_
                    · assumption
                    · refine Keeps.ite ?_ ?_
                      · exact State.writeTrcCtl_keeps (by assumption)
                      · refine Keeps.ite ?_ ?_
                        · assumption
                        · refine Keeps.ite ?_ ?_
                          · exact State.writeRcvCmd_keeps (by assumption)
                          · refine Keeps.ite ?_ ?_
                            · assumption
                            · refine Keeps.ite ?_ ?_
                              · refine Keeps.ite ?_ ?_
                                · exact State.selfTestRun_keeps (by assumption)
                                · assumption
                              · exact State.writeFields_keeps (by assumption)

theorem execWarmReset_keeps {s0 s : State} {x1 x2} (h : Keeps s0 s) :
    Keeps.Out s0 (execWarmReset x1 x2 s) := by
  unfold execWarmReset
  refine Keeps.next ?_
  refine Keeps.ite ?_ ?_
  · exact State.writeResetCtl_keeps (by assumption)
  · assumption

theorem execRegWrite_keeps {s0 s : State} {x1 x2 x3} (h : Keeps s0 s) :
    Keeps.Out s0 (execRegWrite x1 x2 x3 s) := by
  unfold execRegWrite
  refine Keeps.iteOut ?_ ?_
  · refine Keeps.next ?_
    assumption
  · refine Keeps.iteOut ?_ ?_
    · refine Keeps.next ?_
      exact State.accessErr_keeps (by assumption)
    · refine Keeps.next ?_
      exact State.hostWrite_keeps (by assumption)

end Sys2Proof.Machine
end

