-- ==== Sys2Proof/Laws/KeepsStartup.lean ====
section
/-!
SUPPORT. What every operation of Machine/Startup.lean keeps (Laws/Keeps.lean).
-/

set_option Elab.async false

namespace Sys2Proof.Machine

theorem State.dropPending_keeps {s0 s : State} (h : Keeps s0 s) :
    Keeps s0 (State.dropPending s) := by
  unfold State.dropPending
  split
  · refine Keeps.ite ?_ ?_
    · exact State.writeImgRec_keeps (by assumption)
    · assumption
  · assumption

theorem State.linkConfig_keeps {s0 s : State} (h : Keeps s0 s) :
    Keeps s0 (State.linkConfig s) := by
  unfold State.linkConfig
  extract_lets n1 s2 n3
  have hs2 : Keeps s0 s2 := by
    unfold s2
    refine State.wr_keeps ?_
    exact State.wr_keeps (by assumption)
  clear_value s2
  refine Keeps.upd ?_ rfl rfl rfl --UPD .host
  assumption

theorem State.setPersonality_keeps {s0 s : State} {x2} (h : Keeps s0 s) :
    Keeps s0 (State.setPersonality s x2) := by
  unfold State.setPersonality
  extract_lets n1 s2 s3 n4 s5
  have hs2 : Keeps s0 s2 := by
    unfold s2
    exact State.wr_keeps (by assumption)
  clear_value s2
  have hs3 : Keeps s0 s3 := by
    unfold s3
    refine State.wr_keeps ?_
    exact State.wr_keeps (by assumption)
  clear_value s3
  have hs5 : Keeps s0 s5 := by
    unfold s5
    refine Keeps.upd ?_ rfl rfl rfl --UPD .obj
    assumption
  clear_value s5
  exact State.assignSlots_keeps (by assumption)

theorem State.loadImage_keeps {s0 s : State} {x2} (h : Keeps s0 s) :
    Keeps s0 (State.loadImage s x2) := by
  unfold State.loadImage
  extract_lets n1 n2 n3 n4 s5 s6 n7 s8 n9 s10
  have hs5 : Keeps s0 s5 := by
    unfold s5
    exact State.setPersonality_keeps (by assumption)
  clear_value s5
  have hs6 : Keeps s0 s6 := by
    unfold s6
    refine Keeps.foldl _ ?_ (fun s _ h => ?_)
    · assumption
    · exact State.applyRec_keeps (by assumption)
  clear_value s6
  have hs8 : Keeps s0 s8 := by
    unfold s8
    exact State.setBoot_keeps (by assumption)
  clear_value s8
  have hs10 : Keeps s0 s10 := by
    unfold s10
    refine Keeps.upd ?_ rfl rfl rfl --UPD .disk
    assumption
  clear_value s10
  refine State.initCells_keeps ?_
  exact State.wr_keeps (by assumption)

theorem State.loadRecord_keeps {s0 s : State} (h : Keeps s0 s) :
    Keeps s0 (State.loadRecord s) := by
  unfold State.loadRecord
  split
  · assumption
  · split
    · extract_lets n1 s2
      have hs2 : Keeps s0 s2 := by
        unfold s2
        exact State.setGrp_keeps (by assumption)
      clear_value s2
      refine Keeps.ite ?_ ?_
      · refine State.wr_keeps ?_
        exact State.wr_keeps (by assumption)
      · assumption
    · assumption

theorem State.lockPoint_keeps {s0 s : State} {x2 x3} (h : Keeps s0 s) :
    Keeps s0 (State.lockPoint s x2 x3) := by
  unfold State.lockPoint
  extract_lets n1 n2 s3 n4 s5 s6 s7 s8 n9 s10 n11 s12 s13
  have hs3 : Keeps s0 s3 := by
    unfold s3
    exact State.writeImgRec_keeps (by assumption)
  clear_value s3
  have hs5 : Keeps s0 s5 := by
    unfold s5
    exact State.setPwr_keeps (by assumption)
  clear_value s5
  have hs6 : Keeps s0 s6 := by
    unfold s6
    exact State.setMedium_keeps (by assumption)
  clear_value s6
  have hs7 : Keeps s0 s7 := by
    unfold s7
    refine State.wr_keeps ?_
    refine State.wr_keeps ?_
    exact State.wr_keeps (by assumption)
  clear_value s7
  have hs8 : Keeps s0 s8 := by
    unfold s8
    refine State.wr_keeps ?_
    exact State.wr_keeps (by assumption)
  clear_value s8
  have hs10 : Keeps s0 s10 := by
    unfold s10
    refine Keeps.upd ?_ rfl rfl rfl --UPD .host
    assumption
  clear_value s10
  have hs12 : Keeps s0 s12 := by
    unfold s12
    refine Keeps.ite ?_ ?_
    · refine State.raise_keeps ?_
      exact State.wr_keeps (by assumption)
    · assumption
  clear_value s12
  have hs13 : Keeps s0 s13 := by
    unfold s13
    refine State.raise_keeps ?_
    exact State.syncCauses_keeps (by assumption)
  clear_value s13
  refine Keeps.ite ?_ ?_
  · exact State.startMedium_keeps (by assumption)
  · assumption

theorem State.markerStep_keeps {s0 s : State} {x2} (h : Keeps s0 s) :
    Keeps s0 (State.markerStep s x2) := by
  unfold State.markerStep
  extract_lets n1 n2 s3
  have hs3 : Keeps s0 s3 := by
    unfold s3
    exact State.checkSeqTable_keeps (by assumption)
  clear_value s3
  refine Keeps.ite ?_ ?_
  · refine State.raise_keeps ?_
    exact State.wr_keeps (by assumption)
  · refine Keeps.ite ?_ ?_
    · refine State.raise_keeps ?_
      refine State.lifeAdd_keeps ?_
      exact State.wr_keeps (by assumption)
    · assumption

theorem State.mramStep_keeps {s0 s : State} (h : Keeps s0 s) :
    Keeps s0 (State.mramStep s) := by
  unfold State.mramStep
  extract_lets s1
  have hs1 : Keeps s0 s1 := by
    unfold s1
    refine State.wr_keeps ?_
    refine State.showImgRec_keeps ?_
    exact State.showMram_keeps (by assumption)
  clear_value s1
  refine State.loadLevels_keeps ?_
  refine State.wr_keeps ?_
  exact State.wr_keeps (by assumption)

theorem State.pllsLocked_keeps {s0 s : State} (h : Keeps s0 s) :
    Keeps s0 (State.pllsLocked s) := by
  unfold State.pllsLocked
  refine State.wr_keeps ?_
  refine State.wr_keeps ?_
  exact State.wr_keeps (by assumption)

theorem State.readOtp_keeps {s0 s : State} (h : Keeps s0 s) : Keeps s0 (State.readOtp s) := by
  unfold State.readOtp
  exact State.setBoot_keeps (State.wr_keeps (State.wr_keeps (State.wr_keeps (State.wr_keeps h))))

theorem State.releaseCpu_keeps {s0 s : State} {x2 x3} (h : Keeps s0 s) :
    Keeps s0 (State.releaseCpu s x2 x3) := by
  unfold State.releaseCpu
  extract_lets n1 n2 n3 n4 s5 s6 s7 s8 n9 s10
  have hs5 : Keeps s0 s5 := by
    unfold s5
    exact State.wr_keeps (by assumption)
  clear_value s5
  have hs6 : Keeps s0 s6 := by
    unfold s6
    refine Keeps.ite ?_ ?_
    · assumption
    · exact State.raise_keeps (by assumption)
  clear_value s6
  have hs7 : Keeps s0 s7 := by
    unfold s7
    refine State.wr_keeps ?_
    exact State.wr_keeps (by assumption)
  clear_value s7
  have hs8 : Keeps s0 s8 := by
    unfold s8
    refine Keeps.foldl _ ?_ (fun s _ h => ?_)
    · assumption
    · exact State.wri_keeps (by assumption)
  clear_value s8
  have hs10 : Keeps s0 s10 := by
    unfold s10
    exact State.setBoot_keeps (by assumption)
  clear_value s10
  exact State.wr_keeps (by assumption)

theorem State.slotFails_keeps {s0 s : State} {x2 x3 x4} (h : Keeps s0 s) :
    Keeps s0 (State.slotFails s x2 x3 x4) := by
  unfold State.slotFails
  extract_lets n1 s2 s3
  have hs2 : Keeps s0 s2 := by
    unfold s2
    exact State.writeImgRec_keeps (by assumption)
  clear_value s2
  have hs3 : Keeps s0 s3 := by
    unfold s3
    exact State.wr_keeps (by assumption)
  clear_value s3
  exact State.raise_keeps (by assumption)

theorem State.startFails_keeps {s0 s : State} {x2} (h : Keeps s0 s) :
    Keeps s0 (State.startFails s x2) := by
  unfold State.startFails
  extract_lets s1 s2
  have hs1 : Keeps s0 s1 := by
    unfold s1
    refine State.wr_keeps ?_
    exact State.wr_keeps (by assumption)
  clear_value s1
  have hs2 : Keeps s0 s2 := by
    unfold s2
    refine State.wr_keeps ?_
    exact State.wr_keeps (by assumption)
  clear_value s2
  exact State.raise_keeps (by assumption)

theorem State.trySlots_keeps {s0 s : State} {x2 x3} (h : Keeps s0 s) :
    Keeps.Pair s0 (State.trySlots s x2 x3) := by
  induction x3 generalizing s x2 with
  | nil =>
    rw [State.trySlots]
    refine Keeps.pair ?_
    assumption
  | cons y l ih =>
    rw [State.trySlots]
    extract_lets n1
    refine Keeps.itePair ?_ ?_
    · exact ih (by assumption)
    · refine Keeps.itePair ?_ ?_
      · refine ih ?_
        exact State.slotFails_keeps (by assumption)
      · refine Keeps.pair ?_
        exact State.writeImgRec_keeps (by assumption)

theorem State.startFrom_keeps {s0 s : State} {x2 x3 x4 x5 x6 x7} (h : Keeps s0 s) :
    Keeps s0 (State.startFrom s x2 x3 x4 x5 x6 x7) := by
  unfold State.startFrom
  extract_lets s1 n2 s3
  have hs1 : Keeps s0 s1 := by
    unfold s1
    refine State.dropPending_keeps ?_
    refine State.wr_keeps ?_
    exact State.mramStep_keeps (by assumption)
  clear_value s1
  have hs3 : Keeps s0 s3 := by
    unfold s3
    exact State.linkConfig_keeps (by assumption)
  clear_value s3
  refine Keeps.ite ?_ ?_
  · refine State.startFails_keeps ?_
    exact State.initSram_keeps (by assumption)
  · split
    · refine State.startFails_keeps ?_
      refine Keeps.of_eq ?_ (by assumption)
      refine State.trySlots_keeps ?_
      exact State.initMemories_keeps (by assumption)
    · extract_lets s4 s5
      have hs4 : Keeps s0 s4 := by
        unfold s4
        refine State.releaseCpu_keeps ?_
        refine Keeps.of_eq ?_ (by assumption)
        refine State.trySlots_keeps ?_
        exact State.initMemories_keeps (by assumption)
      clear_value s4
      have hs5 : Keeps s0 s5 := by
        unfold s5
        exact State.selfTestResult_keeps (by assumption)
      clear_value s5
      refine Keeps.ite ?_ ?_
      · exact State.startFails_keeps (by assumption)
      · refine Keeps.ite ?_ ?_
        · assumption
        · refine State.lockPoint_keeps ?_
          refine State.markerStep_keeps ?_
          refine State.loadRecord_keeps ?_
          exact State.loadImage_keeps (by assumption)

theorem execStartUp_keeps {s0 s : State} {x1 x2 x3 x4 x5 x6 x7} (h : Keeps s0 s) :
    Keeps.Out s0 (execStartUp x1 x2 x3 x4 x5 x6 x7 s) := by
  unfold execStartUp
  extract_lets n1 n2 n3 s4 s5
  have hs4 : Keeps s0 s4 := by
    unfold s4
    refine State.emit_keeps ?_
    exact State.setBoot_keeps (by assumption)
  clear_value s4
  have hs5 : Keeps s0 s5 := by
    unfold s5
    refine Keeps.ite ?_ ?_
    · exact State.readOtp_keeps (by assumption)
    · assumption
  clear_value s5
  refine Keeps.iteOut ?_ ?_
  · refine Keeps.next ?_
    assumption
  · refine Keeps.iteOut ?_ ?_
    · refine Keeps.next ?_
      refine State.startFails_keeps ?_
      exact State.linkConfig_keeps (by assumption)
    · refine Keeps.iteOut ?_ ?_
      · refine Keeps.next ?_
        refine State.startFails_keeps ?_
        exact State.linkConfig_keeps (by assumption)
      · refine Keeps.next ?_
        refine State.startFrom_keeps ?_
        exact State.pllsLocked_keeps (by assumption)

end Sys2Proof.Machine
end

