-- ==== Sys2Proof/Laws/KeepsTick.lean ====
section
/-!
SUPPORT. What every operation of Machine/Tick.lean keeps (Laws/Keeps.lean).
-/

set_option Elab.async false

namespace Sys2Proof.Machine

theorem State.goOnActivation_keeps {s0 s : State} (h : Keeps s0 s) :
    Keeps s0 (State.goOnActivation s) := by
  unfold State.goOnActivation
  split
  · exact State.activateStep_keeps (by assumption)
  · assumption

theorem State.passHalved_keeps {s0 s : State} (h : Keeps s0 s) :
    Keeps s0 (State.passHalved s) := by
  unfold State.passHalved
  extract_lets s1 n2
  have hs1 : Keeps s0 s1 := by
    unfold s1
    refine Keeps.ite ?_ ?_
    · exact State.addHalved_keeps (by assumption)
    · assumption
  clear_value s1
  exact State.setPwr_keeps (by assumption)

theorem State.passTime_keeps {s0 s : State} (h : Keeps s0 s) : Keeps s0 (State.passTime s) := by
  unfold State.passTime
  refine State.setGrp_keeps (State.setMot_keeps (State.setPwr_keeps (State.setBoot_keeps ?_)))
  exact Keeps.ite (State.lifeStep_keeps (Keeps.upd (State.add64_keeps h) rfl rfl rfl))
    (Keeps.upd (State.add64_keeps h) rfl rfl rfl)

theorem State.rampTension_keeps {s0 s : State} (h : Keeps s0 s) :
    Keeps s0 (State.rampTension s) := by
  unfold State.rampTension
  extract_lets n1 n2 n3 n4
  refine Keeps.ite ?_ ?_
  · assumption
  · exact State.setMot_keeps (by assumption)

theorem State.releaseOld_keeps {s0 s : State} (h : Keeps s0 s) :
    Keeps s0 (State.releaseOld s) := by
  unfold State.releaseOld
  split
  · assumption
  · extract_lets n1 s2 n3 s4
    have hs2 : Keeps s0 s2 := by
      unfold s2
      exact State.setRed_keeps (by assumption)
    clear_value s2
    have hs4 : Keeps s0 s4 := by
      unfold s4
      split
      · refine Keeps.foldl _ ?_ (fun s _ h => ?_)
        · assumption
        · exact State.sendSeq_keeps (by assumption)
      · assumption
    clear_value s4
    refine Keeps.ite ?_ ?_
    · assumption
    · refine Keeps.ite ?_ ?_
      · assumption
      · exact State.dropStrips_keeps (by assumption)

theorem State.resumeTape_keeps {s0 s : State} (h : Keeps s0 s) :
    Keeps s0 (State.resumeTape s) := by
  unfold State.resumeTape
  extract_lets s1
  have hs1 : Keeps s0 s1 := by
    unfold s1
    refine Keeps.ite ?_ ?_
    · refine State.ask_keeps ?_
      exact State.endReading_keeps (by assumption)
    · assumption
  clear_value s1
  refine Keeps.ite ?_ ?_
  · exact State.reacqReverse_keeps (by assumption)
  · assumption

theorem State.tick_keeps {s0 s : State} (h : Keeps s0 s) :
    Keeps s0 (State.tick s) := by
  unfold State.tick
  extract_lets s1 s2 s3 s4
  have hs1 : Keeps s0 s1 := by
    unfold s1
    refine State.rampTension_keeps ?_
    refine State.passHalved_keeps ?_
    exact State.passTime_keeps (by assumption)
  clear_value s1
  have hs2 : Keeps s0 s2 := by
    unfold s2
    refine State.resumeTape_keeps ?_
    refine State.sweepGone_keeps ?_
    exact State.tansyStep_keeps (by assumption)
  clear_value s2
  have hs3 : Keeps s0 s3 := by
    unfold s3
    refine State.restartMedium_keeps ?_
    refine Keeps.ite ?_ ?_
    · exact State.stopStep_keeps (by assumption)
    · assumption
  clear_value s3
  have hs4 : Keeps s0 s4 := by
    unfold s4
    refine Keeps.ite ?_ ?_
    · refine State.releaseOld_keeps ?_
      refine State.peersStep_keeps ?_
      exact State.ageSlow_keeps (by assumption)
    · assumption
  clear_value s4
  exact State.goOnActivation_keeps (by assumption)

end Sys2Proof.Machine
end

