-- ==== Sys2Proof/Laws/Exec.lean ====
section
/-!
SUPPORT. What every command keeps (Laws/Keeps.lean): each answers a next state, leaves the queue as it is, takes back
nothing that has left the device, keeps the invariants, and, but for an operation of the TAP, leaves the fuses.
-/

set_option Elab.async false

namespace Sys2Proof.Machine

theorem exec_keeps (c : Instr) (s : State) (hc : ∀ op, c ≠ .jtagTapOperation op) : Keeps.Out s (exec c s) := by
  have h := Keeps.refl s
  cases c with
  | alwaysOnSupplyUp => exact execAlwaysOnSupplyUp_keeps h
  | powerOnReset => exact execPowerOnReset_keeps h
  | perstNAsserted => exact execPerstNAsserted_keeps h
  | warmReset => exact execWarmReset_keeps h
  | watchdogExpiry => exact execWatchdogExpiry_keeps h
  | wdtKick => exact execWdtKick_keeps h
  | startUp => exact execStartUp_keeps h
  | rcvErase => exact execRcvErase_keeps h
  | rcvProgram => exact execRcvProgram_keeps h
  | rcvRead => exact execRcvRead_keeps h
  | rcvSelect => exact execRcvSelect_keeps h
  | configRequest => exact execConfigRequest_keeps h
  | dataLinkDown => exact execDataLinkDown_keeps h
  | linkUp => exact execLinkUp_keeps h
  | bar0BadAccess => exact execBar0BadAccess_keeps h
  | regWrite => exact execRegWrite_keeps h
  | latchedPairLoRead => exact execLatchedPairLoRead_keeps h
  | rcCounterRead => exact execRcCounterRead_keeps h
  | evtData0Read => exact execEvtData0Read_keeps h
  | ingWmWrite => exact execIngWmWrite_keeps h
  | arbConfigWrite => exact execArbConfigWrite_keeps h
  | tqCfgWrite => exact execTqCfgWrite_keeps h
  | crCfgWrite => exact execCrCfgWrite_keeps h
  | slotWordWrite => exact execSlotWordWrite_keeps h
  | goWrite => exact execGoWrite_keeps h
  | tqDoorbell => exact execTqDoorbell_keeps h
  | bar4BadAccess => exact execBar4BadAccess_keeps h
  | tagEntryFetched => exact execTagEntryFetched_keeps h
  | descListFetched => exact execDescListFetched_keeps h
  | dmaReadFailed => exact execDmaReadFailed_keeps h
  | dmaDataArrival => exact execDmaDataArrival_keeps h
  | crHeadDoorbell => exact execCrHeadDoorbell_keeps h
  | arbDispatchSlot => exact execArbDispatchSlot_keeps h
  | throttleWindow => exact execThrottleWindow_keeps h
  | coalTimerExpiry => exact execCoalTimerExpiry_keeps h
  | logCopy => exact execLogCopy_keeps h
  | acceptancePointReached => exact execAcceptancePointReached_keeps h
  | openCmd => exact execOpenCmd_keeps h
  | appendCmd => exact execAppendCmd_keeps h
  | sealCmd => exact execSealCmd_keeps h
  | getCmd => exact execGetCmd_keeps h
  | statCmd => exact execStatCmd_keeps h
  | deleteCmd => exact execDeleteCmd_keeps h
  | listCmd => exact execListCmd_keeps h
  | barrierCmd => exact execBarrierCmd_keeps h
  | flushCmd => exact execFlushCmd_keeps h
  | abortCmd => exact execAbortCmd_keeps h
  | mediaStart => exact execMediaStart_keeps h
  | mediaStop => exact execMediaStop_keeps h
  | mediaFormat => exact execMediaFormat_keeps h
  | zoneClean => exact execZoneClean_keeps h
  | mediaInfo => exact execMediaInfo_keeps h
  | zoneInfo => exact execZoneInfo_keeps h
  | formCmd => exact execFormCmd_keeps h
  | addCmd => exact execAddCmd_keeps h
  | removeCmd => exact execRemoveCmd_keeps h
  | fenceCmd => exact execFenceCmd_keeps h
  | unfenceCmd => exact execUnfenceCmd_keeps h
  | failCmd => exact execFailCmd_keeps h
  | setDeputyCmd => exact execSetDeputyCmd_keeps h
  | reshapeCmd => exact execReshapeCmd_keeps h
  | queryCmd => exact execQueryCmd_keeps h
  | keyLoadLoad => exact execKeyLoadLoad_keeps h
  | keyLoadClear => exact execKeyLoadClear_keeps h
  | imageWrite => exact execImageWrite_keeps h
  | imageActivateDefer => exact execImageActivateDefer_keeps h
  | imageActivateNow => exact execImageActivateNow_keeps h
  | imageCheckDone => exact execImageCheckDone_keeps h
  | activationApply => exact execActivationApply_keeps h
  | healthCmd => exact execHealthCmd_keeps h
  | logRead => exact execLogRead_keeps h
  | tansyResume => exact execTansyResume_keeps h
  | decompressResume => exact execDecompressResume_keeps h
  | dataSetCloseTimeout => exact execDataSetCloseTimeout_keeps h
  | dataSetBegin => exact execDataSetBegin_keeps h
  | frameSlotStart => exact execFrameSlotStart_keeps h
  | verifyDeadline => exact execVerifyDeadline_keeps h
  | lateralWriteInhibit => exact execLateralWriteInhibit_keeps h
  | writeResumeSettled => exact execWriteResumeSettled_keeps h
  | wrapTurn => exact execWrapTurn_keeps h
  | stepDecision => exact execStepDecision_keeps h
  | quietPointDrained => exact execQuietPointDrained_keeps h
  | speedSettled => exact execSpeedSettled_keeps h
  | tapeHoldStop => exact execTapeHoldStop_keeps h
  | tapeRestart => exact execTapeRestart_keeps h
  | servoFrameRecord => exact execServoFrameRecord_keeps h
  | velocityFollowingError => exact execVelocityFollowingError_keeps h
  | tensionError => exact execTensionError_keeps h
  | tensionCollapse => exact execTensionCollapse_keeps h
  | threadTimeout => exact execThreadTimeout_keeps h
  | reacquisitionDone => exact execReacquisitionDone_keeps h
  | loadStageDone => exact execLoadStageDone_keeps h
  | unloadDone => exact execUnloadDone_keeps h
  | landingCopyWritten => exact execLandingCopyWritten_keeps h
  | landingSpaceFreed => exact execLandingSpaceFreed_keeps h
  | destageTrackWritten => exact execDestageTrackWritten_keeps h
  | zoneTablePeriodic => exact execZoneTablePeriodic_keeps h
  | zoneReset => exact execZoneReset_keeps h
  | codewordComplete => exact execCodewordComplete_keeps h
  | cellFreeDispatch => exact execCellFreeDispatch_keeps h
  | cellCodewordEnd => exact execCellCodewordEnd_keeps h
  | cellSelfCheckDue => exact execCellSelfCheckDue_keeps h
  | wedgeRecord => exact execWedgeRecord_keeps h
  | retryRereadDone => exact execRetryRereadDone_keeps h
  | tapeRereadDone => exact execTapeRereadDone_keeps h
  | fieldWriteStart => exact execFieldWriteStart_keeps h
  | fieldWriteEnd => exact execFieldWriteEnd_keeps h
  | pacResponse => exact execPacResponse_keeps h
  | pacFaultFall => exact execPacFaultFall_keeps h
  | assistLoopSample => exact execAssistLoopSample_keeps h
  | assistLevelSave => exact execAssistLevelSave_keeps h
  | synthUnlock => exact execSynthUnlock_keeps h
  | slotSample => exact execSlotSample_keeps h
  | sampleTimeout => exact execSampleTimeout_keeps h
  | rampTargetCommit => exact execRampTargetCommit_keeps h
  | followingErrorTimeout => exact execFollowingErrorTimeout_keeps h
  | loopLossAction => exact execLoopLossAction_keeps h
  | retractAction => exact execRetractAction_keeps h
  | reloadAttempt => exact execReloadAttempt_keeps h
  | reloadWindowExpiry => exact execReloadWindowExpiry_keeps h
  | seekStart => exact execSeekStart_keeps h
  | spindleAtSpeed => exact execSpindleAtSpeed_keeps h
  | spindleFault => exact execSpindleFault_keeps h
  | mdrvFaultFall => exact execMdrvFaultFall_keeps h
  | mdrvResponse => exact execMdrvResponse_keeps h
  | trcArm => exact execTrcArm_keeps h
  | trcForce => exact execTrcForce_keeps h
  | trcAbort => exact execTrcAbort_keeps h
  | traceDone => exact execTraceDone_keeps h
  | trcRdDataRead => exact execTrcRdDataRead_keeps h
  | hello => exact execHello_keeps h
  | laneBlockLock => exact execLaneBlockLock_keeps h
  | laneDegradeTimeout => exact execLaneDegradeTimeout_keeps h
  | linkFrame => exact execLinkFrame_keeps h
  | linkAck => exact execLinkAck_keeps h
  | linkNak => exact execLinkNak_keeps h
  | replayTimeout => exact execReplayTimeout_keeps h
  | linkCredit => exact execLinkCredit_keeps h
  | linkInit => exact execLinkInit_keeps h
  | portDown => exact execPortDown_keeps h
  | e2eResendTimeout => exact execE2eResendTimeout_keeps h
  | routeWaitTimeout => exact execRouteWaitTimeout_keeps h
  | stripWriteData => exact execStripWriteData_keeps h
  | stripWriteAbort => exact execStripWriteAbort_keeps h
  | stripRead => exact execStripRead_keeps h
  | stripData => exact execStripData_keeps h
  | stripDone => exact execStripDone_keeps h
  | stripEstimate => exact execStripEstimate_keeps h
  | stripFail => exact execStripFail_keeps h
  | stripRequestDeadline => exact execStripRequestDeadline_keeps h
  | landingData => exact execLandingData_keeps h
  | landingWritten => exact execLandingWritten_keeps h
  | landingRelease => exact execLandingRelease_keeps h
  | landingFail => exact execLandingFail_keeps h
  | journalRecord => exact execJournalRecord_keeps h
  | journalTake => exact execJournalTake_keeps h
  | journalRecords => exact execJournalRecords_keeps h
  | journalDirectory => exact execJournalDirectory_keeps h
  | journalRows => exact execJournalRows_keeps h
  | rebuildList => exact execRebuildList_keeps h
  | rebuildListData => exact execRebuildListData_keeps h
  | rebuildRead => exact execRebuildRead_keeps h
  | rebuildData => exact execRebuildData_keeps h
  | seqMirror => exact execSeqMirror_keeps h
  | mapLookup => exact execMapLookup_keeps h
  | mapInsert => exact execMapInsert_keeps h
  | mapUpdate => exact execMapUpdate_keeps h
  | mapDelete => exact execMapDelete_keeps h
  | discoverProbe => exact execDiscoverProbe_keeps h
  | discoverAssign => exact execDiscoverAssign_keeps h
  | discoverStableTimer => exact execDiscoverStableTimer_keeps h
  | linkState => exact execLinkState_keeps h
  | leadBeatTimer => exact execLeadBeatTimer_keeps h
  | leadBeat => exact execLeadBeat_keeps h
  | memberBeat => exact execMemberBeat_keeps h
  | memberUnreachableTimeout => exact execMemberUnreachableTimeout_keeps h
  | leadQuorumLost => exact execLeadQuorumLost_keeps h
  | deputyReplace => exact execDeputyReplace_keeps h
  | deputyLeadLossTimeout => exact execDeputyLeadLossTimeout_keeps h
  | leadQuery => exact execLeadQuery_keeps h
  | leadQueryResp => exact execLeadQueryResp_keeps h
  | deputyCopyDone => exact execDeputyCopyDone_keeps h
  | epochCmd => exact execEpochCmd_keeps h
  | epochReq => exact execEpochReq_keeps h
  | rejectCmd => exact execRejectCmd_keeps h
  | e2eAck => exact execE2eAck_keeps h
  | slowFenceTimeout => exact execSlowFenceTimeout_keeps h
  | slowFailTimeout => exact execSlowFailTimeout_keeps h
  | mgmtGetMembership => exact execMgmtGetMembership_keeps h
  | mgmtReadEvent => exact execMgmtReadEvent_keeps h
  | mgmtHealth => exact execMgmtHealth_keeps h
  | mgmtRegRead => exact execMgmtRegRead_keeps h
  | mgmtAdmin => exact execMgmtAdmin_keeps h
  | mgmtLogRead => exact execMgmtLogRead_keeps h
  | mgmtCmd => exact execMgmtCmd_keeps h
  | mgmtCmdDone => exact execMgmtCmdDone_keeps h
  | mgmtOpAdmin => exact execMgmtOpAdmin_keeps h
  | mgmtAdminDone => exact execMgmtAdminDone_keeps h
  | stripeCloseTimeout => exact execStripeCloseTimeout_keeps h
  | rebuildShareUpdate => exact execRebuildShareUpdate_keeps h
  | reshapeFlip => exact execReshapeFlip_keeps h
  | droopTrip => exact execDroopTrip_keeps h
  | droopRestore => exact execDroopRestore_keeps h
  | slowingWindowEnd => exact execSlowingWindowEnd_keeps h
  | sagWarnCrossing => exact execSagWarnCrossing_keeps h
  | sagWarnClear => exact execSagWarnClear_keeps h
  | braceRetractTimer => exact execBraceRetractTimer_keeps h
  | braceDone => exact execBraceDone_keeps h
  | braceRecover => exact execBraceRecover_keeps h
  | sagResetCrossing => exact execSagResetCrossing_keeps h
  | sensorConversion => exact execSensorConversion_keeps h
  | thresholdDwellExpiry => exact execThresholdDwellExpiry_keeps h
  | riseDwellExpiry => exact execRiseDwellExpiry_keeps h
  | sensorFaultClear => exact execSensorFaultClear_keeps h
  | throttleGraceExpiry => exact execThrottleGraceExpiry_keeps h
  | throttleAdjust => exact execThrottleAdjust_keeps h
  | thermalRelease => exact execThermalRelease_keeps h
  | betonyLoop => exact execBetonyLoop_keeps h
  | shedRaise => exact execShedRaise_keeps h
  | shedLower => exact execShedLower_keeps h
  | fabricHbmRead => exact execFabricHbmRead_keeps h
  | fabricHbmWrite => exact execFabricHbmWrite_keeps h
  | sramMramRead => exact execSramMramRead_keeps h
  | dieFailureDeclared => exact execDieFailureDeclared_keeps h
  | correctionWindowEnd => exact execCorrectionWindowEnd_keeps h
  | scrubRead => exact execScrubRead_keeps h
  | scrubPassStart => exact execScrubPassStart_keeps h
  | hardFaultRemap => exact execHardFaultRemap_keeps h
  | memSelftestRun => exact execMemSelftestRun_keeps h
  | norOperationDone => exact execNorOperationDone_keeps h
  | perstNDeasserted => exact execPerstNDeasserted_keeps h
  | pacFaultRelease => exact execPacFaultRelease_keeps h
  | mdrvFaultRelease => exact execMdrvFaultRelease_keeps h
  | writeSynthesizerLocked => exact execWriteSynthesizerLocked_keeps h
  | msixVectorUnmask => exact execMsixVectorUnmask_keeps h
  | receivedTlpError => exact execReceivedTlpError_keeps h
  | mgmtBusTimeout => exact execMgmtBusTimeout_keeps h
  | mgmtAddressAssignment => exact execMgmtAddressAssignment_keeps h
  | mctpControlMessage => exact execMctpControlMessage_keeps h
  | jtagTapOperation op => exact absurd rfl (hc op)

end Sys2Proof.Machine
end

