-- ==== Sys2Proof/Laws/OnlyImage.lean ====
section
/-!
SUPPORT. The parts of the state that an operation of Machine/Image.lean may change (Laws/Only.lean).
-/

set_option Elab.async false

namespace Sys2Proof.Machine

theorem State.applyRec_only {L : List Part} {s0 s : State} {x2}
    (hL : [.regs 0, .regs 1, .regs 2, .regs 3, .regs 4, .regs 8, .regs 10, .regs 12, .regs 16, .regs 20,
      .regs 24, .regs 28, .regs 32, .regs 33, .regs 36, .regs 40, .regs 44, .regs 48, .regs 49] ⊆ L) (h : Only L s0 s) :
    Only L s0 (State.applyRec s x2) := by
  refine Only.foldlMem _ h fun s p hp h => ?_
  refine Only.ite (State.fset_only ?_ h) h
  exact Part.one
    (Only.regs_mem _ (mem_fieldsAt hp) rfl (Part.sub hL (by decide)))

theorem State.showImgRec_only {L : List Part} {s0 s : State}
    (hL : [.regs 48] ⊆ L) (h : Only L s0 s) :
    Only L s0 (State.showImgRec s) := by
  unfold State.showImgRec
  extract_lets n1 s2 s3 s4
  have hs2 : Only L s0 s2 := by
    unfold s2
    refine State.wr_only (Part.sub hL (by decide)) ?_
    exact State.wr_only (Part.sub hL (by decide)) (by assumption)
  clear_value s2
  have hs3 : Only L s0 s3 := by
    unfold s3
    refine State.wr_only (Part.sub hL (by decide)) ?_
    exact State.wr_only (Part.sub hL (by decide)) (by assumption)
  clear_value s3
  have hs4 : Only L s0 s4 := by
    unfold s4
    refine State.wr_only (Part.sub hL (by decide)) ?_
    exact State.wr_only (Part.sub hL (by decide)) (by assumption)
  clear_value s4
  refine State.wr_only (Part.sub hL (by decide)) ?_
  exact State.wr_only (Part.sub hL (by decide)) (by assumption)

theorem State.writeImgRec_only {L : List Part} {s0 s : State} {x2}
    (hL : [.boot, .regs 48] ⊆ L) (h : Only L s0 s) :
    Only L s0 (State.writeImgRec s x2) := by
  unfold State.writeImgRec
  exact State.showImgRec_only (Part.sub hL (by decide)) (Only.updBoot (Part.sub hL (by decide)) h)

end Sys2Proof.Machine
end

