-- ==== Sys2Proof/Laws/Flash.lean ====
section
/-!
SUPPORT. The flash and the image state record: what a write of the record leaves (R433), what a program or an erase leaves
in the flash (R425), and that an image's records write read-write fields only (R430).
-/

set_option Elab.async false

namespace Sys2Proof.Machine

theorem Store.get_filter_key {α : Type} (d : α) (q : Nat → Bool) (l : Store α) (k : Nat) :
    Store.get d (l.filter (fun p => q p.1)) k = if q k then Store.get d l k else d := by
  induction l with
  | nil => exact (ite_self d).symm
  | cons p t ih =>
    rw [List.filter_cons]
    by_cases e : p.1 = k
    · by_cases hq : q k
      · rw [if_pos (by rw [e]; exact hq), if_pos hq]
        simp only [Store.get, e, if_true]
      · rw [if_neg (by rw [e]; exact hq), ih, if_neg hq, if_neg hq]
    · have hg : ∀ t' : Store α, Store.get d (p :: t') k = Store.get d t' k := fun t' => if_neg e
      split
      · rw [hg, hg, ih]
      · rw [hg, ih]

theorem get_norPut (m : Store Byte) (a : Nat) (l : List Byte) (k : Nat) :
    Store.get 0xFF#8 (norPut m a l) k =
      if a ≤ k ∧ k < a + l.length then (l[k - a]?).getD 0xFF#8 else Store.get 0xFF#8 m k := by
  induction l generalizing m a with
  | nil => rw [if_neg (by simp)]; rfl
  | cons b t ih =>
    unfold norPut
    rw [ih]
    rw [List.length_cons]
    by_cases h : k = a
    · subst h
      rw [if_neg (by omega), Store.get_put_same, if_pos (by omega), Nat.sub_self]
      rfl
    · rw [Store.get_put_other _ _ _ _ h]
      by_cases h1 : a + 1 ≤ k ∧ k < a + 1 + t.length
      · rw [if_pos h1, if_pos (by omega), show k - a = (k - (a + 1)) + 1 by omega, List.getElem?_cons_succ]
      · rw [if_neg h1, if_neg (by omega)]

@[simp] theorem State.showImgRec_boot (s : State) : s.showImgRec.boot = s.boot :=
  State.showImgRec_only (L := [.regs 48]) (by decide) (Only.refl s) .boot (by decide)

/-- The two copies after a write of the record: the older one, or a missing one, is replaced (R433). -/
def BootSt.putRec (b : BootSt) (r : ImgRec) : BootSt :=
  match b.recA with
  | some x => if b.imgRec = some x then { b with recB := some r } else { b with recA := some r }
  | none => { b with recA := some r }

theorem BootSt.imgRec_putRec (b : BootSt) (r : ImgRec) (h : r.seq = ((b.imgRec).getD ImgRec.blank).seq + 1) :
    (b.putRec r).imgRec = some r := by
  cases ha : b.recA with
  | none =>
    have e : b.putRec r = { b with recA := some r } := by unfold BootSt.putRec; rw [ha]
    rw [e]
    cases hb : b.recB with
    | none => unfold BootSt.imgRec; simp only
    | some y =>
      have hy : b.imgRec = some y := by unfold BootSt.imgRec; simp only [ha, hb]
      rw [hy] at h
      unfold BootSt.imgRec
      simp only
      rw [if_neg (by rw [h]; simp)]
  | some x =>
    by_cases hi : b.imgRec = some x
    · have e : b.putRec r = { b with recB := some r } := by unfold BootSt.putRec; rw [ha]; exact if_pos hi
      rw [e]
      rw [hi] at h
      unfold BootSt.imgRec
      dsimp only
      rw [ha]
      dsimp only
      rw [if_pos (by rw [h]; simp)]
    · have e : b.putRec r = { b with recA := some r } := by unfold BootSt.putRec; rw [ha]; exact if_neg hi
      rw [e]
      cases hb : b.recB with
      | none => exact absurd (by unfold BootSt.imgRec; simp only [ha, hb]) hi
      | some y =>
        have hy : b.imgRec = some y := by
          unfold BootSt.imgRec at hi ⊢
          rw [ha, hb] at hi ⊢
          dsimp only at hi ⊢
          split
          · rfl
          · next h => rw [if_neg h] at hi; exact absurd rfl hi
        rw [hy] at h
        unfold BootSt.imgRec
        simp only
        rw [if_neg (by rw [h]; simp)]

theorem State.boot_writeImgRec' (s : State) (r : ImgRec) :
    (s.writeImgRec r).boot = s.boot.putRec { r with seq := s.imgRec.seq + 1 } := by
  unfold State.writeImgRec
  dsimp only
  rw [State.showImgRec_boot]
  rfl

theorem State.imgRec_writeImgRec (s : State) (r : ImgRec) :
    (s.writeImgRec r).imgRec = { r with seq := s.imgRec.seq + 1 } := by
  unfold State.imgRec
  rw [State.boot_writeImgRec', BootSt.imgRec_putRec _ _ rfl]
  rfl

/-- A write of the record changes the two copies only. -/
theorem State.boot_writeImgRec (s : State) (r : ImgRec) :
    ∃ a b, (s.writeImgRec r).boot = { s.boot with recA := a, recB := b } := by
  rw [State.boot_writeImgRec']
  unfold BootSt.putRec
  split
  · split
    · exact ⟨_, _, rfl⟩
    · exact ⟨_, _, rfl⟩
  · exact ⟨_, _, rfl⟩

/-- The records of an image write fields with read-write access only. -/
theorem State.applyRec_fixed (s : State) (r : ParamRec) {f : Field} (hf : f ∈ allFields) (h : f.acc ≠ .rw)
    (h2 : f.acc ≠ .rwl) (i j : Nat) : (s.applyRec r).fget f i j = s.fget f i j := by
  unfold State.applyRec
  have : ∀ (l : List (Field × Nat × Nat)), (∀ p ∈ l, p.1 ∈ allFields) → ∀ u : State,
      (l.foldl (fun s p =>
        let f := p.1
        if (f.acc = .rw || f.acc = .rwl) && bits r.mask f.lo f.w != 0 then
          s.fset f p.2.1 p.2.2 (maskedValue f (s.fget f p.2.1 p.2.2) r.mask r.value)
        else s) u).fget f i j = u.fget f i j := by
    intro l hl
    induction l with
    | nil => exact fun _ => rfl
    | cons p t ih =>
      intro u
      rw [List.foldl_cons, ih (fun q hq => hl q (List.mem_cons_of_mem _ hq))]
      dsimp only
      split
      · next hc =>
        rw [State.fget_fset_other]
        intro e
        have := Field.place_inj hf (hl p List.mem_cons_self) e
        rw [← this] at hc
        simp [h, h2] at hc
      · rfl
  exact this _ (fun p hp => mem_fieldsAt hp) s

theorem State.applyRecs_fixed (l : List ParamRec) (s : State) {f : Field} (hf : f ∈ allFields) (h : f.acc ≠ .rw)
    (h2 : f.acc ≠ .rwl) (i j : Nat) : (l.foldl State.applyRec s).fget f i j = s.fget f i j := by
  induction l generalizing s with
  | nil => rfl
  | cons r t ih => rw [List.foldl_cons, ih, State.applyRec_fixed s r hf h h2]

end Sys2Proof.Machine
end

