-- ==== Sys2Proof/Laws/Numbers.lean ====
section
/-!
SUPPORT. The bit-field helpers: single bits set and read, and bytes written into a number and read back (R4).
-/

set_option Elab.async false

namespace Sys2Proof.Machine

theorem bitAt_eq_testBit (x i : Nat) : bitAt x i = x.testBit i := by
  rw [Nat.testBit_eq_decide_div_mod_eq]
  rfl

theorem bitAt_setBit (x i k : Nat) : bitAt (setBit x i) k = (bitAt x k || decide (i = k)) := by
  unfold setBit
  split
  · next h =>
    by_cases e : i = k
    · subst e; simp [h]
    · simp [e]
  · next h =>
    have h0 : x / 2 ^ i % 2 = 0 := by
      unfold bitAt at h
      simp only [decide_eq_true_eq] at h
      omega
    rw [bitAt_eq_testBit, bitAt_eq_testBit, Nat.add_comm]
    rcases Nat.lt_trichotomy k i with h1 | h1 | h1
    · rw [Nat.testBit_two_pow_add_gt h1]
      simp only [Nat.ne_of_gt h1, decide_false, Bool.or_false]
    · subst h1
      rw [Nat.testBit_two_pow_add_eq, Nat.testBit_eq_decide_div_mod_eq, h0]
      simp
    · obtain ⟨d, rfl⟩ : ∃ d, k = i + (d + 1) := ⟨k - i - 1, by omega⟩
      rw [Nat.testBit_eq_decide_div_mod_eq, Nat.testBit_eq_decide_div_mod_eq, Nat.pow_add, ← Nat.div_div_eq_div_mul,
        ← Nat.div_div_eq_div_mul, Nat.add_div_left _ (Nat.two_pow_pos i), Nat.pow_succ', ← Nat.div_div_eq_div_mul,
        ← Nat.div_div_eq_div_mul, show (x / 2 ^ i).succ / 2 = x / 2 ^ i / 2 by omega,
        decide_eq_false (show ¬ i = i + (d + 1) by omega), Bool.or_false]

theorem bitAt_mod (x i w : Nat) (h : i < w) : bitAt (x % 2 ^ w) i = bitAt x i := by
  rw [bitAt_eq_testBit, bitAt_eq_testBit, Nat.testBit_mod_two_pow, decide_eq_true h, Bool.true_and]

theorem bits_setBits_same (x m v : Nat) : bits (setBits x (8 * m) 8 v) (8 * m) 8 = v % 256 := by
  unfold bits setBits bits
  have hx := Nat.div_add_mod x (2 ^ (8 * m))
  generalize hA : x / 2 ^ (8 * m) = A at *
  generalize hr : x % 2 ^ (8 * m) = r at *
  have hr' : r < 2 ^ (8 * m) := by rw [← hr]; exact Nat.mod_lt _ (Nat.two_pow_pos _)
  generalize 2 ^ (8 * m) = P at *
  have hP : 0 < P := by omega
  have hA2 := Nat.div_add_mod A (2 ^ 8)
  have : x - A % 2 ^ 8 * P + v % 2 ^ 8 * P = P * (2 ^ 8 * (A / 2 ^ 8) + v % 2 ^ 8) + r := by
    have hle : A % 2 ^ 8 * P ≤ P * A := by rw [Nat.mul_comm P A]; exact Nat.mul_le_mul_right _ (Nat.mod_le _ _)
    have e1 : P * A = P * (2 ^ 8 * (A / 2 ^ 8)) + A % 2 ^ 8 * P := by
      conv => lhs; rw [← hA2, Nat.mul_add, Nat.mul_comm P (A % 2 ^ 8)]
    rw [Nat.mul_add, Nat.mul_comm P (v % 2 ^ 8)]
    omega
  rw [this, Nat.mul_add_div hP, Nat.div_eq_of_lt hr', Nat.add_zero, Nat.mul_add_mod, Nat.mod_mod]
  rfl

theorem bits_setBits_other (x m k v : Nat) (h : k ≠ m) : bits (setBits x (8 * m) 8 v) (8 * k) 8 = bits x (8 * k) 8 := by
  unfold bits setBits bits
  have hx := Nat.div_add_mod x (2 ^ (8 * m))
  generalize hA : x / 2 ^ (8 * m) = A at *
  generalize hr : x % 2 ^ (8 * m) = r at *
  have hr' : r < 2 ^ (8 * m) := by rw [← hr]; exact Nat.mod_lt _ (Nat.two_pow_pos _)
  have hP : 0 < 2 ^ (8 * m) := Nat.two_pow_pos _
  have hA2 := Nat.div_add_mod A (2 ^ 8)
  have e : x - A % 2 ^ 8 * 2 ^ (8 * m) + v % 2 ^ 8 * 2 ^ (8 * m) =
      2 ^ (8 * m) * (2 ^ 8 * (A / 2 ^ 8) + v % 2 ^ 8) + r := by
    generalize 2 ^ (8 * m) = P at *
    have e1 : P * A = P * (2 ^ 8 * (A / 2 ^ 8)) + A % 2 ^ 8 * P := by
      conv => lhs; rw [← hA2, Nat.mul_add, Nat.mul_comm P (A % 2 ^ 8)]
    rw [Nat.mul_add, Nat.mul_comm P (v % 2 ^ 8)]
    omega
  rw [e]
  rcases Nat.lt_or_gt_of_ne h with h1 | h1
  · obtain ⟨d, rfl⟩ : ∃ d, m = k + 1 + d := ⟨m - k - 1, by omega⟩
    rw [← hx]
    have hp : 2 ^ (8 * (k + 1 + d)) = 2 ^ (8 * k) * (2 ^ 8 * 2 ^ (8 * d)) := by
      rw [← Nat.pow_add, ← Nat.pow_add]; congr 1; omega
    simp only [hp, Nat.mul_assoc]
    rw [Nat.mul_add_div (Nat.two_pow_pos _), Nat.mul_add_div (Nat.two_pow_pos _), Nat.mul_add_mod, Nat.mul_add_mod]
  · obtain ⟨d, rfl⟩ : ∃ d, k = m + 1 + d := ⟨k - m - 1, by omega⟩
    rw [← hx]
    have hp : 2 ^ (8 * (m + 1 + d)) = 2 ^ (8 * m) * (2 ^ 8 * 2 ^ (8 * d)) := by
      rw [← Nat.pow_add, ← Nat.pow_add]; congr 1; omega
    simp only [hp, ← Nat.div_div_eq_div_mul]
    rw [Nat.mul_add_div hP, Nat.mul_add_div hP, Nat.div_eq_of_lt hr', Nat.add_zero, Nat.add_zero,
      Nat.mul_add_div (by decide), Nat.div_eq_of_lt (Nat.mod_lt v (by decide)), Nat.add_zero]

end Sys2Proof.Machine
end

