-- ==== Sys2Proof/Laws/OnlyFlags.lean ====
section
/-!
SUPPORT. The parts of the state that an operation of Machine/Flags.lean may change (Laws/Only.lean).
-/

set_option Elab.async false

namespace Sys2Proof.Machine

theorem State.popEvt_only {L : List Part} {s0 s : State}
    (hL : [.host, .regs 4] ⊆ L) (h : Only L s0 s) :
    Only L s0 (State.popEvt s) := by
  unfold State.popEvt
  split
  · iterate 4 refine State.wr_only (Part.sub hL (by decide)) ?_
    exact h
  · iterate 4 refine State.wr_only (Part.sub hL (by decide)) ?_
    exact Only.updHost (Part.sub hL (by decide)) h

theorem State.readEvt_only {L : List Part} {s0 s : State} {x2}
    (hL : [.host, .regs 4] ⊆ L) (h : Only L s0 s) :
    Only.Pair L s0 (State.readEvt s x2) := by
  unfold State.readEvt
  extract_lets s1
  have hs1 : Only L s0 s1 := by
    unfold s1
    exact State.popEvt_only (Part.sub hL (by decide)) (by assumption)
  clear_value s1
  refine Only.itePair ?_ ?_
  · refine Only.pair ?_
    assumption
  · refine Only.pair ?_
    assumption

theorem State.readTrace_only {L : List Part} {s0 s : State}
    (hL : [.regs 49] ⊆ L) (h : Only L s0 s) :
    Only.Pair L s0 (State.readTrace s) := by
  unfold State.readTrace
  extract_lets n1 n2
  refine Only.itePair ?_ ?_
  · refine Only.pair ?_
    refine State.wr_only (Part.sub hL (by decide)) ?_
    exact State.wr_only (Part.sub hL (by decide)) (by assumption)
  · refine Only.pair ?_
    assumption

theorem State.readReg_only {L : List Part} {s0 s : State} {x2 x3}
    (hL : [.host, .regs 0, .regs 1, .regs 2, .regs 4, .regs 10, .regs 12, .regs 16, .regs 20, .regs 24,
      .regs 28, .regs 32, .regs 36, .regs 40, .regs 44, .regs 49] ⊆ L) (h : Only L s0 s) :
    Only.Pair L s0 (State.readReg s x2 x3) := by
  unfold State.readReg
  refine Only.itePair (Only.pair h) (Only.itePair (State.readEvt_only (Part.sub hL (by decide)) h) (Only.itePair
    (State.readTrace_only (Part.sub hL (by decide)) h) (Only.itePair (Only.pair h) (Only.itePair (Only.pair
    (Only.updHost (Part.sub hL (by decide)) h)) (Only.itePair (Only.pair h) ?_)))))
  refine Only.pair (Only.foldlMem _ h fun s p hp h => ?_)
  split
  · next hc =>
    refine State.fset_only (Part.one (hL (List.mem_cons_of_mem _ ?_))) h
    exact (by decide : clearBlocks.map Part.regs ⊆ _) (List.mem_map_of_mem (allFields_clear _ (mem_fieldsAt hp) hc))
  · exact h

end Sys2Proof.Machine
end

