-- ==== Sys2Proof/Laws/OnlyHostLink.lean ====
section
/-!
SUPPORT. The parts of the state that an operation of Machine/HostLink.lean may change (Laws/Only.lean).
-/

set_option Elab.async false

namespace Sys2Proof.Machine

theorem State.accessErr_only {L : List Part} {s0 s : State} {x2 x3 x4}
    (hL : [.regs 0, .regs x2.block] ⊆ L) (h : Only L s0 s) :
    Only L s0 (State.accessErr s x2 x3 x4) := by
  unfold State.accessErr
  exact State.wr_only (Part.sub hL (by simp [Field.block, F.GLB_ACCESS_ADDR_PORT])) (State.wr_only (Part.sub hL (by
    simp [Field.block, F.GLB_ACCESS_ADDR_OFFSET])) (State.wr_only (Part.sub hL (by simp)) h))

theorem State.discardWork_only {L : List Part} {s0 s : State} {x2}
    (hL : [.obj, .tape, .disk, .red] ⊆ L) (h : Only L s0 s) :
    Only L s0 (State.discardWork s x2) := by
  unfold State.discardWork
  extract_lets n1 n2 n3 n4 n5
  refine Only.upd [.obj, .tape, .disk, .red] (Part.sub hL (by decide)) ?_ (fun p hp => by
    cases p <;> first | rfl | exact fun _ _ _ _ _ => rfl | exact absurd (by decide) hp)
  assumption

theorem State.badBar4_only {L : List Part} {s0 s : State} {x2 x3}
    (hL : [.out, .regs 4] ⊆ L) (h : Only L s0 s) :
    Only L s0 (State.badBar4 s x2 x3) := by
  unfold State.badBar4
  extract_lets s1
  have hs1 : Only L s0 s1 := by
    unfold s1
    exact State.wr_only (Part.sub hL (by decide)) (by assumption)
  clear_value s1
  refine Only.ite ?_ ?_
  · assumption
  · exact State.emit_only (Part.sub hL (by decide)) (by assumption)

theorem State.bar4Write_only {L : List Part} {s0 s : State} {x2 x3 x4}
    (hL : [.host] ⊆ L) (h : Only L s0 s) :
    Only L s0 (State.bar4Write s x2 x3 x4) := by
  unfold State.bar4Write
  extract_lets n1 n2 n3
  refine Only.ite ?_ ?_
  · refine Only.updHost (Part.sub hL (by decide)) ?_
    assumption
  · assumption

theorem State.setAer_only {L : List Part} {s0 s : State} {x2 x3 x4}
    (hL : [.host] ⊆ L) (h : Only L s0 s) :
    Only L s0 (State.setAer s x2 x3 x4) := by
  unfold State.setAer
  split
  · extract_lets n1
    refine Only.updHost (Part.sub hL (by decide)) ?_
    assumption
  · extract_lets n2
    refine Only.updHost (Part.sub hL (by decide)) ?_
    assumption
  · extract_lets n3
    refine Only.updHost (Part.sub hL (by decide)) ?_
    assumption
  · extract_lets n4
    refine Only.updHost (Part.sub hL (by decide)) ?_
    assumption

theorem State.flushMsix_only {L : List Part} {s0 s : State} {x2}
    (hL : [.out, .host] ⊆ L) (h : Only L s0 s) :
    Only L s0 (State.flushMsix s x2) := by
  unfold State.flushMsix
  refine Only.foldl _ ?_ (fun s _ h => ?_)
  · assumption
  · extract_lets n1 n2 n3
    refine Only.ite ?_ ?_
    · refine State.emit_only (Part.sub hL (by decide)) ?_
      refine Only.updHost (Part.sub hL (by decide)) ?_
      assumption
    · assumption

theorem State.cfgWrite_only {L : List Part} {s0 s : State} {x2 x3 x4}
    (hL : [.out, .host] ⊆ L) (h : Only L s0 s) :
    Only L s0 (State.cfgWrite s x2 x3 x4) := by
  unfold State.cfgWrite
  extract_lets n1 n2 n3 n4 s5
  have hs5 : Only L s0 s5 := by
    unfold s5
    refine Only.updHost (Part.sub hL (by decide)) ?_
    assumption
  clear_value s5
  refine Only.ite ?_ ?_
  · exact State.setAer_only (Part.sub hL (by decide)) (by assumption)
  · refine Only.ite ?_ ?_
    · exact State.setAer_only (Part.sub hL (by decide)) (by assumption)
    · refine Only.ite ?_ ?_
      · exact State.flushMsix_only (Part.sub hL (by decide)) (by assumption)
      · assumption

theorem State.doRead_only {L : List Part} {s0 s : State} {x2 x3}
    (hL : [.out, .host, .regs 0, .regs 1, .regs 2, .regs 4, .regs 10, .regs 12, .regs 16, .regs 20, .regs 24,
      .regs 28, .regs 32, .regs 36, .regs 40, .regs 44, .regs 49] ⊆ L) (h : Only L s0 s) :
    Only L s0 (State.doRead s x2 x3) := by
  unfold State.doRead
  refine Only.ite ?_ ?_
  · assumption
  · refine Only.ite ?_ ?_
    · refine State.emit_only (Part.sub hL (by decide)) ?_
      exact State.accessErr_only (Part.sub hL (by decide)) (by assumption)
    · split
      refine State.emit_only (Part.sub hL (by decide)) ?_
      refine Only.of_eq ?_ (by assumption)
      exact State.readReg_only (Part.sub hL (by decide)) (by assumption)

theorem State.logAer_only {L : List Part} {s0 s : State} {x2 x3 x4 x5}
    (hL : [.out, .host, .life, .trc, .regs 0, .regs 4, .regs 49] ⊆ L) (h : Only L s0 s) :
    Only L s0 (State.logAer s x2 x3 x4 x5) := by
  unfold State.logAer
  extract_lets s1
  have hs1 : Only L s0 s1 := by
    unfold s1
    exact State.setAer_only (Part.sub hL (by decide)) (by assumption)
  clear_value s1
  exact State.raise_only (Part.sub hL (by decide)) (by assumption)

theorem State.setLink_only {L : List Part} {s0 s : State} {x2 x3 x4}
    (hL : [.regs 4] ⊆ L) (h : Only L s0 s) :
    Only L s0 (State.setLink s x2 x3 x4) := by
  unfold State.setLink
  refine Only.ite ?_ ?_
  · refine State.wr_only (Part.sub hL (by decide)) ?_
    exact State.wr_only (Part.sub hL (by decide)) (by assumption)
  · refine State.wr_only (Part.sub hL (by decide)) ?_
    exact State.wr_only (Part.sub hL (by decide)) (by assumption)

theorem execConfigRequest_only {L : List Part} {s0 s : State} {x1 x2 x3 x4}
    (hL : [.out, .host] ⊆ L) (h : Only L s0 s) :
    Only.Out L s0 (execConfigRequest x1 x2 x3 x4 s) := by
  unfold execConfigRequest
  refine Only.iteOut ?_ ?_
  · refine Only.next ?_
    assumption
  · refine Only.iteOut ?_ ?_
    · refine Only.next ?_
      exact State.emit_only (Part.sub hL (by decide)) (by assumption)
    · refine Only.iteOut ?_ ?_
      · refine Only.next ?_
        refine State.emit_only (Part.sub hL (by decide)) ?_
        exact State.cfgWrite_only (Part.sub hL (by decide)) (by assumption)
      · refine Only.next ?_
        exact State.emit_only (Part.sub hL (by decide)) (by assumption)

theorem execLinkUp_only {L : List Part} {s0 s : State} {x1 x2 x3}
    (hL : [.out, .host, .life, .trc, .regs 0, .regs 4, .regs 49] ⊆ L) (h : Only L s0 s) :
    Only.Out L s0 (execLinkUp x1 x2 x3 s) := by
  unfold execLinkUp
  extract_lets n1 s2
  have hs2 : Only L s0 s2 := by
    unfold s2
    exact State.setLink_only (Part.sub hL (by decide)) (by assumption)
  clear_value s2
  refine Only.iteOut ?_ ?_
  · refine Only.next ?_
    assumption
  · refine Only.next ?_
    exact State.raise_only (Part.sub hL (by decide)) (by assumption)

theorem execBar0BadAccess_only {L : List Part} {s0 s : State} {x1 x2 x3}
    (hL : [.out, .regs 0] ⊆ L) (h : Only L s0 s) :
    Only.Out L s0 (execBar0BadAccess x1 x2 x3 s) := by
  unfold execBar0BadAccess
  extract_lets s1
  have hs1 : Only L s0 s1 := by
    unfold s1
    exact State.accessErr_only (Part.sub hL (by decide)) (by assumption)
  clear_value s1
  refine Only.iteOut ?_ ?_
  · refine Only.next ?_
    assumption
  · refine Only.next ?_
    refine Only.ite ?_ ?_
    · assumption
    · exact State.emit_only (Part.sub hL (by decide)) (by assumption)

theorem execLatchedPairLoRead_only {L : List Part} {s0 s : State} {x1 x2}
    (hL : [.out, .host, .regs 0, .regs 1, .regs 2, .regs 4, .regs 10, .regs 12, .regs 16, .regs 20, .regs 24,
      .regs 28, .regs 32, .regs 36, .regs 40, .regs 44, .regs 49] ⊆ L) (h : Only L s0 s) :
    Only.Out L s0 (execLatchedPairLoRead x1 x2 s) := by
  unfold execLatchedPairLoRead
  refine Only.next ?_
  exact State.doRead_only (Part.sub hL (by decide)) (by assumption)

theorem execRcCounterRead_only {L : List Part} {s0 s : State} {x1 x2}
    (hL : [.out, .host, .regs 0, .regs 1, .regs 2, .regs 4, .regs 10, .regs 12, .regs 16, .regs 20, .regs 24,
      .regs 28, .regs 32, .regs 36, .regs 40, .regs 44, .regs 49] ⊆ L) (h : Only L s0 s) :
    Only.Out L s0 (execRcCounterRead x1 x2 s) := by
  unfold execRcCounterRead
  refine Only.next ?_
  exact State.doRead_only (Part.sub hL (by decide)) (by assumption)

theorem execEvtData0Read_only {L : List Part} {s0 s : State} {x1}
    (hL : [.out, .host, .regs 0, .regs 1, .regs 2, .regs 4, .regs 10, .regs 12, .regs 16, .regs 20, .regs 24,
      .regs 28, .regs 32, .regs 36, .regs 40, .regs 44, .regs 49] ⊆ L) (h : Only L s0 s) :
    Only.Out L s0 (execEvtData0Read x1 s) := by
  unfold execEvtData0Read
  refine Only.next ?_
  exact State.doRead_only (Part.sub hL (by decide)) (by assumption)

theorem execBar4BadAccess_only {L : List Part} {s0 s : State} {x1 x2}
    (hL : [.out, .regs 4] ⊆ L) (h : Only L s0 s) :
    Only.Out L s0 (execBar4BadAccess x1 x2 s) := by
  unfold execBar4BadAccess
  refine Only.next ?_
  refine Only.ite ?_ ?_
  · exact State.badBar4_only (Part.sub hL (by decide)) (by assumption)
  · assumption

theorem execMsixVectorUnmask_only {L : List Part} {s0 s : State} {x1 x2 x3 x4 x5}
    (hL : [.out, .host, .regs 4] ⊆ L) (h : Only L s0 s) :
    Only.Out L s0 (execMsixVectorUnmask x1 x2 x3 x4 x5 s) := by
  unfold execMsixVectorUnmask
  extract_lets n1 n2 s3
  have hs3 : Only L s0 s3 := by
    unfold s3
    exact State.bar4Write_only (Part.sub hL (by decide)) (by assumption)
  clear_value s3
  refine Only.iteOut ?_ ?_
  · refine Only.next ?_
    assumption
  · refine Only.iteOut ?_ ?_
    · refine Only.next ?_
      exact State.badBar4_only (Part.sub hL (by decide)) (by assumption)
    · refine Only.iteOut ?_ ?_
      · refine Only.next ?_
        refine State.flushMsix_only (Part.sub hL (by decide)) ?_
        refine Only.ite ?_ ?_
        · exact State.bar4Write_only (Part.sub hL (by decide)) (by assumption)
        · assumption
      · refine Only.next ?_
        exact State.emit_only (Part.sub hL (by decide)) (by assumption)

theorem execReceivedTlpError_only {L : List Part} {s0 s : State} {x1 x2 x3}
    (hL : [.out, .host, .life, .trc, .regs 0, .regs 4, .regs 49] ⊆ L) (h : Only L s0 s) :
    Only.Out L s0 (execReceivedTlpError x1 x2 x3 s) := by
  unfold execReceivedTlpError
  refine Only.iteOut ?_ ?_
  · refine Only.next ?_
    assumption
  · refine Only.next ?_
    exact State.logAer_only (Part.sub hL (by decide)) (by assumption)

end Sys2Proof.Machine
end

