-- ==== Sys2Proof/Laws/OnlySubmission.lean ====
section
/-!
SUPPORT. The parts of the state that an operation of Machine/Submission.lean may change (Laws/Only.lean).
-/

set_option Elab.async false

namespace Sys2Proof.Machine

theorem State.takeBufs_only {L : List Part} {s0 s : State} {x2 x3}
    (hL : [.out, .host, .sq, .life, .trc, .grp, .regs 0, .regs 4, .regs 8, .regs 49] ⊆ L) (h : Only L s0 s) :
    Only L s0 (State.takeBufs s x2 x3) := by
  unfold State.takeBufs
  refine Only.ite ?_ ?_
  · exact State.setCmd_only (Part.sub hL (by decide)) (by assumption)
  · exact State.fail_only (Part.sub hL (by decide)) (by assumption)

theorem State.askWhole_only {L : List Part} {s0 s : State} {x2 x3 x4}
    (hL : [.out, .sq] ⊆ L) (h : Only L s0 s) :
    Only L s0 (State.askWhole s x2 x3 x4) := by
  unfold State.askWhole
  refine Only.ite ?_ ?_
  · refine State.emit_only (Part.sub hL (by decide)) ?_
    exact State.setCmd_only (Part.sub hL (by decide)) (by assumption)
  · assumption

theorem State.askData_only {L : List Part} {s0 s : State} {x2}
    (hL : [.out, .sq] ⊆ L) (h : Only L s0 s) :
    Only L s0 (State.askData s x2) := by
  unfold State.askData
  split
  · split
    · exact State.askWhole_only (Part.sub hL (by decide)) (by assumption)
    · assumption
  · exact State.askWhole_only (Part.sub hL (by decide)) (by assumption)
  · extract_lets n1 n2 s3
    have hs3 : Only L s0 s3 := by
      unfold s3
      refine Only.foldl _ ?_ (fun s _ h => ?_)
      · assumption
      · exact State.emit_only (Part.sub hL (by decide)) (by assumption)
    clear_value s3
    refine Only.ite ?_ ?_
    · refine Only.ite ?_ ?_
      · assumption
      · exact State.setCmd_only (Part.sub hL (by decide)) (by assumption)
    · assumption
  · assumption

theorem State.askAll_only {L : List Part} {s0 s : State}
    (hL : [.out, .sq] ⊆ L) (h : Only L s0 s) :
    Only L s0 (State.askAll s) := by
  unfold State.askAll
  refine Only.foldl _ ?_ (fun s _ h => ?_)
  · assumption
  · split
    · exact State.askData_only (Part.sub hL (by decide)) (by assumption)
    · assumption

theorem State.arrive_only {L : List Part} {s0 s : State} {x2 x3 x4 x5 x6 x7}
    (hL : [.sq] ⊆ L) (h : Only L s0 s) :
    Only L s0 (State.arrive s x2 x3 x4 x5 x6 x7) := by
  unfold State.arrive
  extract_lets n1
  refine Only.updSq (Part.sub hL (by decide)) ?_
  assumption

theorem State.pathChecks_only {L : List Part} {s0 s : State} {x2 x3}
    (hL : [.out, .host, .sq, .life, .trc, .grp, .regs 0, .regs 4, .regs 8, .regs 49] ⊆ L) (h : Only L s0 s) :
    Only L s0 (State.pathChecks s x2 x3) := by
  unfold State.pathChecks
  refine Only.ite ?_ ?_
  · exact State.fail_only (Part.sub hL (by decide)) (by assumption)
  · refine Only.ite ?_ ?_
    · exact State.setCmd_only (Part.sub hL (by decide)) (by assumption)
    · refine Only.ite ?_ ?_
      · exact State.conflict_only (Part.sub hL (by decide)) (by assumption)
      · exact State.fail_only (Part.sub hL (by decide)) (by assumption)

theorem State.goWrite_only {L : List Part} {s0 s : State} {x2 x3 x4}
    (hL : [.out, .host, .sq, .life, .trc, .grp, .regs 0, .regs 4, .regs 8, .regs 49] ⊆ L) (h : Only L s0 s) :
    Only L s0 (State.goWrite s x2 x3 x4) := by
  unfold State.goWrite
  extract_lets n1 n2 n3 n4 s5 s6
  have hs5 : Only L s0 s5 := by
    unfold s5
    exact State.setSlot_only (Part.sub hL (by decide)) (by assumption)
  clear_value s5
  have hs6 : Only L s0 s6 := by
    unfold s6
    exact State.arrive_only (Part.sub hL (by decide)) (by assumption)
  clear_value s6
  refine Only.ite ?_ ?_
  · refine State.setSlot_only (Part.sub hL (by decide)) ?_
    exact State.sqErr_only (Part.sub hL (by decide)) (by assumption)
  · refine Only.ite ?_ ?_
    · exact State.post_only (Part.sub hL (by decide)) (by assumption)
    · split
      · assumption
      · refine Only.ite ?_ ?_
        · exact State.fail_only (Part.sub hL (by decide)) (by assumption)
        · exact State.pathChecks_only (Part.sub hL (by decide)) (by assumption)

theorem State.bar2Write_only {L : List Part} {s0 s : State} {x2 x3 x4}
    (hL : [.out, .host, .sq, .life, .trc, .grp, .regs 0, .regs 4, .regs 8, .regs 49] ⊆ L) (h : Only L s0 s) :
    Only L s0 (State.bar2Write s x2 x3 x4) := by
  unfold State.bar2Write
  extract_lets n1 n2 n3 n4 n5 s6
  have hs6 : Only L s0 s6 := by
    unfold s6
    refine Only.ite ?_ ?_
    · exact State.setSlot_only (Part.sub hL (by decide)) (by assumption)
    · assumption
  clear_value s6
  refine Only.ite ?_ ?_
  · assumption
  · refine Only.ite ?_ ?_
    · exact State.emit_only (Part.sub hL (by decide)) (by assumption)
    · refine Only.ite ?_ ?_
      · exact State.wr_only (Part.sub hL (by decide)) (by assumption)
      · refine Only.ite ?_ ?_
        · exact State.wr_only (Part.sub hL (by decide)) (by assumption)
        · refine Only.ite ?_ ?_
          · exact State.sqErr_only (Part.sub hL (by decide)) (by assumption)
          · refine Only.ite ?_ ?_
            · exact State.sqErr_only (Part.sub hL (by decide)) (by assumption)
            · refine Only.ite ?_ ?_
              · exact State.goWrite_only (Part.sub hL (by decide)) (by assumption)
              · assumption

theorem State.writeIngWm_only {L : List Part} {s0 s : State} {x2}
    (hL : [.out, .host, .life, .trc, .regs 0, .regs 4, .regs 49] ⊆ L) (h : Only L s0 s) :
    Only L s0 (State.writeIngWm s x2) := by
  unfold State.writeIngWm
  extract_lets n1 n2
  refine Only.ite ?_ ?_
  · exact State.wr_only (Part.sub hL (by decide)) (by assumption)
  · refine State.syncIngest_only (Part.sub hL (by decide)) ?_
    refine State.wr_only (Part.sub hL (by decide)) ?_
    exact State.wr_only (Part.sub hL (by decide)) (by assumption)

theorem State.writeArb_only {L : List Part} {s0 s : State} {x2 x3}
    (hL : [.regs 8] ⊆ L) (h : Only L s0 s) :
    Only L s0 (State.writeArb s x2 x3) := by
  unfold State.writeArb
  extract_lets s1 n2 n3 n4
  have hs1 : Only L s0 s1 := by
    unfold s1
    exact State.sqErr_only (Part.sub hL (by decide)) (by assumption)
  clear_value s1
  refine Only.ite ?_ ?_
  · refine Only.ite ?_ ?_
    · refine State.wr_only (Part.sub hL (by decide)) ?_
      exact State.wr_only (Part.sub hL (by decide)) (by assumption)
    · assumption
  · refine Only.ite ?_ ?_
    · refine State.wr_only (Part.sub hL (by decide)) ?_
      refine State.wr_only (Part.sub hL (by decide)) ?_
      exact State.wr_only (Part.sub hL (by decide)) (by assumption)
    · assumption

theorem State.writeTq_only {L : List Part} {s0 s : State} {x2 x3 x4}
    (hL : [.regs 8] ⊆ L) (h : Only L s0 s) :
    Only L s0 (State.writeTq s x2 x3 x4) := by
  unfold State.writeTq
  extract_lets s1 n2 n3 n4 n5 n6 n7 n8
  have hs1 : Only L s0 s1 := by
    unfold s1
    exact State.sqErr_only (Part.sub hL (by decide)) (by assumption)
  clear_value s1
  split
  · refine Only.ite ?_ ?_
    · assumption
    · exact State.wri_only (Part.sub hL (by decide)) (by assumption)
  · refine Only.ite ?_ ?_
    · assumption
    · exact State.wri_only (Part.sub hL (by decide)) (by assumption)
  · refine Only.ite ?_ ?_
    · assumption
    · refine State.wri_only (Part.sub hL (by decide)) ?_
      refine State.wri_only (Part.sub hL (by decide)) ?_
      refine State.wri_only (Part.sub hL (by decide)) ?_
      exact State.wri_only (Part.sub hL (by decide)) (by assumption)

theorem State.writeCr_only {L : List Part} {s0 s : State} {x2 x3 x4}
    (hL : [.sq, .regs 8] ⊆ L) (h : Only L s0 s) :
    Only L s0 (State.writeCr s x2 x3 x4) := by
  unfold State.writeCr
  extract_lets s1 n2 n3 n4 n5 n6 s7 s8 n9
  have hs1 : Only L s0 s1 := by
    unfold s1
    exact State.sqErr_only (Part.sub hL (by decide)) (by assumption)
  clear_value s1
  have hs7 : Only L s0 s7 := by
    unfold s7
    refine State.wri_only (Part.sub hL (by decide)) ?_
    refine State.wri_only (Part.sub hL (by decide)) ?_
    exact State.wri_only (Part.sub hL (by decide)) (by assumption)
  clear_value s7
  have hs8 : Only L s0 s8 := by
    unfold s8
    refine State.wri_only (Part.sub hL (by decide)) ?_
    refine State.wri_only (Part.sub hL (by decide)) ?_
    exact State.wri_only (Part.sub hL (by decide)) (by assumption)
  clear_value s8
  split
  · refine Only.ite ?_ ?_
    · assumption
    · exact State.wri_only (Part.sub hL (by decide)) (by assumption)
  · refine Only.ite ?_ ?_
    · assumption
    · exact State.wri_only (Part.sub hL (by decide)) (by assumption)
  · refine Only.ite ?_ ?_
    · assumption
    · refine Only.ite ?_ ?_
      · refine Only.updSq (Part.sub hL (by decide)) ?_
        assumption
      · assumption

theorem State.ringTag_only {L : List Part} {s0 s : State} {x2 x3 x4}
    (hL : [.sq, .regs 8] ⊆ L) (h : Only L s0 s) :
    Only L s0 (State.ringTag s x2 x3 x4) := by
  unfold State.ringTag
  extract_lets n1 s2 n3
  have hs2 : Only L s0 s2 := by
    unfold s2
    exact State.wri_only (Part.sub hL (by decide)) (by assumption)
  clear_value s2
  refine Only.ite ?_ ?_
  · exact State.sqErr_only (Part.sub hL (by decide)) (by assumption)
  · exact State.arrive_only (Part.sub hL (by decide)) (by assumption)

theorem execIngWmWrite_only {L : List Part} {s0 s : State} {x1 x2}
    (hL : [.out, .host, .life, .trc, .regs 0, .regs 4, .regs 49] ⊆ L) (h : Only L s0 s) :
    Only.Out L s0 (execIngWmWrite x1 x2 s) := by
  unfold execIngWmWrite
  refine Only.next ?_
  refine Only.ite ?_ ?_
  · exact State.writeIngWm_only (Part.sub hL (by decide)) (by assumption)
  · assumption

theorem execArbConfigWrite_only {L : List Part} {s0 s : State} {x1 x2 x3}
    (hL : [.regs 8] ⊆ L) (h : Only L s0 s) :
    Only.Out L s0 (execArbConfigWrite x1 x2 x3 s) := by
  unfold execArbConfigWrite
  refine Only.next ?_
  refine Only.ite ?_ ?_
  · exact State.writeArb_only (Part.sub hL (by decide)) (by assumption)
  · assumption

theorem execTqCfgWrite_only {L : List Part} {s0 s : State} {x1 x2 x3 x4}
    (hL : [.regs 8] ⊆ L) (h : Only L s0 s) :
    Only.Out L s0 (execTqCfgWrite x1 x2 x3 x4 s) := by
  unfold execTqCfgWrite
  refine Only.next ?_
  refine Only.ite ?_ ?_
  · exact State.writeTq_only (Part.sub hL (by decide)) (by assumption)
  · assumption

theorem execCrCfgWrite_only {L : List Part} {s0 s : State} {x1 x2 x3 x4}
    (hL : [.sq, .regs 8] ⊆ L) (h : Only L s0 s) :
    Only.Out L s0 (execCrCfgWrite x1 x2 x3 x4 s) := by
  unfold execCrCfgWrite
  refine Only.next ?_
  refine Only.ite ?_ ?_
  · exact State.writeCr_only (Part.sub hL (by decide)) (by assumption)
  · assumption

theorem execSlotWordWrite_only {L : List Part} {s0 s : State} {x1 x2 x3}
    (hL : [.out, .host, .sq, .life, .trc, .grp, .regs 0, .regs 4, .regs 8, .regs 49] ⊆ L) (h : Only L s0 s) :
    Only.Out L s0 (execSlotWordWrite x1 x2 x3 s) := by
  unfold execSlotWordWrite
  refine Only.next ?_
  exact State.bar2Write_only (Part.sub hL (by decide)) (by assumption)

theorem execGoWrite_only {L : List Part} {s0 s : State} {x1 x2 x3}
    (hL : [.out, .host, .sq, .life, .trc, .grp, .regs 0, .regs 4, .regs 8, .regs 49] ⊆ L) (h : Only L s0 s) :
    Only.Out L s0 (execGoWrite x1 x2 x3 s) := by
  unfold execGoWrite
  refine Only.next ?_
  exact State.bar2Write_only (Part.sub hL (by decide)) (by assumption)

theorem execTqDoorbell_only {L : List Part} {s0 s : State} {x1 x2 x3}
    (hL : [.out, .sq, .regs 4, .regs 8] ⊆ L) (h : Only L s0 s) :
    Only.Out L s0 (execTqDoorbell x1 x2 x3 s) := by
  unfold execTqDoorbell
  extract_lets n1
  refine Only.iteOut ?_ ?_
  · refine Only.next ?_
    assumption
  · refine Only.iteOut ?_ ?_
    · refine Only.next ?_
      exact State.wr_only (Part.sub hL (by decide)) (by assumption)
    · refine Only.iteOut ?_ ?_
      · refine Only.next ?_
        exact State.sqErr_only (Part.sub hL (by decide)) (by assumption)
      · refine Only.next ?_
        refine State.askAll_only (Part.sub hL (by decide)) ?_
        refine Only.foldl _ ?_ (fun s _ h => ?_)
        · assumption
        · exact State.ringTag_only (Part.sub hL (by decide)) (by assumption)

theorem execTagEntryFetched_only {L : List Part} {s0 s : State} {x1 x2 x3}
    (hL : [.out, .host, .sq, .life, .trc, .grp, .regs 0, .regs 4, .regs 8, .regs 49] ⊆ L) (h : Only L s0 s) :
    Only.Out L s0 (execTagEntryFetched x1 x2 x3 s) := by
  unfold execTagEntryFetched
  split
  · extract_lets n1
    refine Only.iteOut ?_ ?_
    · refine Only.next ?_
      refine State.pathChecks_only (Part.sub hL (by decide)) ?_
      exact State.setCmd_only (Part.sub hL (by decide)) (by assumption)
    · refine Only.next ?_
      assumption
  · refine Only.next ?_
    assumption

theorem execDescListFetched_only {L : List Part} {s0 s : State} {x1 x2}
    (hL : [.out, .host, .sq, .life, .trc, .grp, .regs 0, .regs 4, .regs 8, .regs 49] ⊆ L) (h : Only L s0 s) :
    Only.Out L s0 (execDescListFetched x1 x2 s) := by
  unfold execDescListFetched
  split
  · extract_lets n1
    refine Only.iteOut ?_ ?_
    · refine Only.iteOut ?_ ?_
      · refine Only.next ?_
        exact State.fail_only (Part.sub hL (by decide)) (by assumption)
      · refine Only.next ?_
        exact State.takeBufs_only (Part.sub hL (by decide)) (by assumption)
    · refine Only.next ?_
      assumption
  · refine Only.next ?_
    assumption

theorem execDmaReadFailed_only {L : List Part} {s0 s : State} {x1 x2 x3}
    (hL : [.out, .host, .sq, .obj, .life, .tape, .disk, .trc, .grp, .red, .regs 0, .regs 4, .regs 8, .regs 49] ⊆ L) (h : Only L s0 s) :
    Only.Out L s0 (execDmaReadFailed x1 x2 x3 s) := by
  unfold execDmaReadFailed
  split
  · extract_lets s1
    have hs1 : Only L s0 s1 := by
      unfold s1
      exact State.logAer_only (Part.sub hL (by decide)) (by assumption)
    clear_value s1
    refine Only.iteOut ?_ ?_
    · refine Only.next ?_
      refine State.fail_only (Part.sub hL (by decide)) ?_
      exact State.discardWork_only (Part.sub hL (by decide)) (by assumption)
    · refine Only.next ?_
      assumption
  · refine Only.next ?_
    assumption

theorem execCrHeadDoorbell_only {L : List Part} {s0 s : State} {x1 x2 x3}
    (hL : [.out, .host, .sq, .grp, .regs 4, .regs 8] ⊆ L) (h : Only L s0 s) :
    Only.Out L s0 (execCrHeadDoorbell x1 x2 x3 s) := by
  unfold execCrHeadDoorbell
  extract_lets n1 n2 s3
  have hs3 : Only L s0 s3 := by
    unfold s3
    refine State.drainHeld_only (Part.sub hL (by decide)) ?_
    exact State.wri_only (Part.sub hL (by decide)) (by assumption)
  clear_value s3
  refine Only.iteOut ?_ ?_
  · refine Only.next ?_
    assumption
  · refine Only.iteOut ?_ ?_
    · refine Only.next ?_
      exact State.wr_only (Part.sub hL (by decide)) (by assumption)
    · refine Only.iteOut ?_ ?_
      · refine Only.next ?_
        exact State.settle_only (Part.sub hL (by decide)) (by assumption)
      · refine Only.next ?_
        exact State.sqErr_only (Part.sub hL (by decide)) (by assumption)

theorem execCoalTimerExpiry_only {L : List Part} {s0 s : State} {x1}
    (hL : [.out, .host, .sq] ⊆ L) (h : Only L s0 s) :
    Only.Out L s0 (execCoalTimerExpiry x1 s) := by
  unfold execCoalTimerExpiry
  extract_lets n1 n2 s3
  have hs3 : Only L s0 s3 := by
    unfold s3
    refine Only.updSq (Part.sub hL (by decide)) ?_
    assumption
  clear_value s3
  refine Only.iteOut ?_ ?_
  · refine Only.next ?_
    assumption
  · refine Only.next ?_
    exact State.signal_only (Part.sub hL (by decide)) (by assumption)

end Sys2Proof.Machine
end

