-- ==== Sys2Proof/Laws/OnlyArbiter.lean ====
section
/-!
SUPPORT. The parts of the state that an operation of Machine/Arbiter.lean may change (Laws/Only.lean).
-/

set_option Elab.async false

namespace Sys2Proof.Machine

theorem State.admissionChecks_only {L : List Part} {s0 s : State} {x2}
    (hL : [.out, .host, .sq, .life, .trc, .grp, .regs 0, .regs 4, .regs 8, .regs 49] ⊆ L) (h : Only L s0 s) :
    Only L s0 (State.admissionChecks s x2) := by
  unfold State.admissionChecks
  refine Only.ite ?_ ?_
  · exact State.conflict_only (Part.sub hL (by decide)) (by assumption)
  · split
    · exact State.fail_only (Part.sub hL (by decide)) (by assumption)
    · refine Only.ite ?_ ?_
      · exact State.setCmd_only (Part.sub hL (by decide)) (by assumption)
      · refine Only.ite ?_ ?_
        · exact State.takeBufs_only (Part.sub hL (by decide)) (by assumption)
        · refine Only.ite ?_ ?_
          · exact State.fail_only (Part.sub hL (by decide)) (by assumption)
          · refine State.askData_only (Part.sub hL (by decide)) ?_
            exact State.setCmd_only (Part.sub hL (by decide)) (by assumption)

theorem State.spend_only {L : List Part} {s0 s : State} {x2}
    (hL : [.sq, .pwr] ⊆ L) (h : Only L s0 s) :
    Only L s0 (State.spend s x2) := by
  unfold State.spend
  refine Only.ite (Only.updSq (Part.sub hL (by decide)) ?_) ?_ <;> exact Only.updPwr (Part.sub hL (by decide)) h

theorem State.admitCmd_only {L : List Part} {s0 s : State} {x2}
    (hL : [.out, .host, .sq, .life, .trc, .grp, .pwr, .regs 0, .regs 4, .regs 8, .regs 49] ⊆ L) (h : Only L s0 s) :
    Only L s0 (State.admitCmd s x2) := by
  unfold State.admitCmd
  extract_lets n1 s2 n3 s4
  have hs2 : Only L s0 s2 := by
    unfold s2
    exact State.setCmd_only (Part.sub hL (by decide)) (by assumption)
  clear_value s2
  have hs4 : Only L s0 s4 := by
    unfold s4
    refine Only.updSq (Part.sub hL (by decide)) ?_
    assumption
  clear_value s4
  refine State.admissionChecks_only (Part.sub hL (by decide)) ?_
  exact State.spend_only (Part.sub hL (by decide)) (by assumption)

theorem State.dispatchSlot_only {L : List Part} {s0 s : State}
    (hL : [.out, .host, .sq, .life, .trc, .grp, .pwr, .regs 0, .regs 4, .regs 8, .regs 49] ⊆ L) (h : Only L s0 s) :
    Only L s0 (State.dispatchSlot s) := by
  unfold State.dispatchSlot
  extract_lets n1 n2 s3 n4 n5 n6
  have hs3 : Only L s0 s3 := by
    unfold s3
    exact State.wr_only (Part.sub hL (by decide)) (by assumption)
  clear_value s3
  split
  · refine State.admitCmd_only (Part.sub hL (by decide)) ?_
    exact State.wr_only (Part.sub hL (by decide)) (by assumption)
  · split
    · assumption
    · split
      · assumption
      · refine State.admitCmd_only (Part.sub hL (by decide)) ?_
        refine Only.updSq (Part.sub hL (by decide)) ?_
        assumption

theorem State.newWindow_only {L : List Part} {s0 s : State}
    (hL : [.sq, .pwr] ⊆ L) (h : Only L s0 s) :
    Only L s0 (State.newWindow s) := by
  unfold State.newWindow
  extract_lets n1 n2
  refine Only.upd [.sq, .pwr] (Part.sub hL (by decide)) ?_ (fun p hp => by
    cases p <;> first | rfl | exact fun _ _ _ _ _ => rfl | exact absurd (by decide) hp)
  assumption

theorem execArbDispatchSlot_only {L : List Part} {s0 s : State}
    (hL : [.out, .host, .sq, .life, .trc, .grp, .pwr, .regs 0, .regs 4, .regs 8, .regs 49] ⊆ L) (h : Only L s0 s) :
    Only.Out L s0 (execArbDispatchSlot s) := by
  unfold execArbDispatchSlot
  refine Only.next ?_
  refine Only.ite ?_ ?_
  · assumption
  · exact State.dispatchSlot_only (Part.sub hL (by decide)) (by assumption)

theorem execThrottleWindow_only {L : List Part} {s0 s : State}
    (hL : [.sq, .pwr] ⊆ L) (h : Only L s0 s) :
    Only.Out L s0 (execThrottleWindow s) := by
  unfold execThrottleWindow
  refine Only.next ?_
  exact State.newWindow_only (Part.sub hL (by decide)) (by assumption)

end Sys2Proof.Machine
end

