-- ==== Sys2Proof/Laws/OnlyTansy.lean ====
section
/-!
SUPPORT. The parts of the state that an operation of Machine/Tansy.lean may change (Laws/Only.lean).
-/

set_option Elab.async false

namespace Sys2Proof.Machine

theorem State.setUnit_only {L : List Part} {s0 s : State} {x2 x3}
    (hL : [.obj] ⊆ L) (h : Only L s0 s) :
    Only L s0 (State.setUnit s x2 x3) := by
  unfold State.setUnit
  extract_lets n1
  refine Only.updObj (Part.sub hL (by decide)) ?_
  assumption

theorem State.addUnit_only {L : List Part} {s0 s : State} {x2}
    (hL : [.obj] ⊆ L) (h : Only L s0 s) :
    Only.Pair L s0 (State.addUnit s x2) := by
  unfold State.addUnit
  extract_lets n1 n2
  refine Only.pair ?_
  refine Only.updObj (Part.sub hL (by decide)) ?_
  assumption

theorem State.drawNonce_only {L : List Part} {s0 s : State}
    (hL : [.obj] ⊆ L) (h : Only L s0 s) :
    Only.Pair L s0 (State.drawNonce s) := by
  unfold State.drawNonce
  extract_lets n1 n2 n3
  refine Only.pair ?_
  refine Only.updObj (Part.sub hL (by decide)) ?_
  assumption

theorem State.freeCtx_only {L : List Part} {s0 s : State} {x2}
    (hL : [.obj] ⊆ L) (h : Only L s0 s) :
    Only L s0 (State.freeCtx s x2) := by
  unfold State.freeCtx
  extract_lets n1
  refine Only.updObj (Part.sub hL (by decide)) ?_
  assumption

theorem State.saveCtx_only {L : List Part} {s0 s : State} {x2 x3}
    (hL : [.obj] ⊆ L) (h : Only L s0 s) :
    Only L s0 (State.saveCtx s x2 x3) := by
  unfold State.saveCtx
  extract_lets n1 n2
  refine Only.updObj (Part.sub hL (by decide)) ?_
  assumption

theorem State.assignCtx_only {L : List Part} {s0 s : State} {x2}
    (hL : [.obj, .regs 12] ⊆ L) (h : Only L s0 s) :
    Only L s0 (State.assignCtx s x2) := by
  unfold State.assignCtx
  extract_lets n1 n2 n3 n4 n5 n6 s7
  have hs7 : Only L s0 s7 := by
    unfold s7
    refine Only.updObj (Part.sub hL (by decide)) ?_
    assumption
  clear_value s7
  refine Only.ite ?_ ?_
  · exact State.inc_only (Part.sub hL (by decide)) (by assumption)
  · assumption

theorem State.sealUnit_only {L : List Part} {s0 s : State} {x2 x3 x4 x5}
    (hL : [.obj] ⊆ L) (h : Only L s0 s) :
    Only.Pair L s0 (State.sealUnit s x2 x3 x4 x5) := by
  unfold State.sealUnit
  extract_lets n1 n2 n3
  exact State.addUnit_only (Part.sub hL (by decide)) (by assumption)

theorem State.sealUnits_only {L : List Part} {s0 s : State} {x1 x2 x3 x4 x5}
    (hL : [.obj] ⊆ L) (h : Only L s0 s) :
    Only.Pair L s0 (State.sealUnits x1 x2 x3 x4 x5 s) := by
  induction x4 generalizing x1 x2 x3 x5 s with
  | zero =>
    rw [State.sealUnits]
    refine Only.pair ?_
    assumption
  | succ n ih =>
    rw [State.sealUnits]
    split
    split
    refine Only.pair ?_
    refine Only.of_eq ?_ (by assumption)
    refine ih ?_
    refine Only.of_eq ?_ (by assumption)
    exact State.sealUnit_only (Part.sub hL (by decide)) (by assumption)

end Sys2Proof.Machine
end

