-- ==== Sys2Proof/Laws/OnlyLoss.lean ====
section
/-!
SUPPORT. The parts of the state that an operation of Machine/Loss.lean may change (Laws/Only.lean).
-/

set_option Elab.async false

namespace Sys2Proof.Machine

theorem State.loseObject_only {L : List Part} {s0 s : State} {x2 x3 x4 x5}
    (hL : [.out, .host, .obj, .life, .trc, .regs 0, .regs 4, .regs 49] ⊆ L) (h : Only L s0 s) :
    Only L s0 (State.loseObject s x2 x3 x4 x5) := by
  unfold State.loseObject
  split
  · assumption
  · extract_lets n1 n2 s3 s4
    have hs3 : Only L s0 s3 := by
      unfold s3
      refine Only.updObj (Part.sub hL (by decide)) ?_
      assumption
    clear_value s3
    have hs4 : Only L s0 s4 := by
      unfold s4
      exact State.raiseFor_only (Part.sub hL (by decide)) (by assumption)
    clear_value s4
    exact State.lifeAdd_only (Part.sub hL (by decide)) (by assumption)

theorem State.loseUnits_only {L : List Part} {s0 s : State} {x2 x3}
    (hL : [.out, .host, .obj, .life, .trc, .regs 0, .regs 4, .regs 49] ⊆ L) (h : Only L s0 s) :
    Only L s0 (State.loseUnits s x2 x3) := by
  unfold State.loseUnits
  extract_lets n1 n2 s3
  have hs3 : Only L s0 s3 := by
    unfold s3
    refine Only.foldl _ ?_ (fun s _ h => ?_)
    · assumption
    · exact State.loseObject_only (Part.sub hL (by decide)) (by assumption)
  clear_value s3
  refine Only.ite ?_ ?_
  · assumption
  · refine Only.foldl _ ?_ (fun s _ h => ?_)
    · assumption
    · extract_lets n4
      exact State.setUnit_only (Part.sub hL (by decide)) (by assumption)

end Sys2Proof.Machine
end

