-- ==== Sys2Proof/Laws/OnlyMedium.lean ====
section
/-!
SUPPORT. The parts of the state that an operation of Machine/Medium.lean may change (Laws/Only.lean).
-/

set_option Elab.async false

namespace Sys2Proof.Machine

theorem State.endMedia_only {L : List Part} {s0 s : State} {x2 x3 x4 x5}
    (hL : [.out, .host, .sq, .life, .trc, .grp, .regs 0, .regs 4, .regs 8, .regs 49] ⊆ L) (h : Only L s0 s) :
    Only L s0 (State.endMedia s x2 x3 x4 x5) := by
  unfold State.endMedia
  refine Only.foldl _ ?_ (fun s _ h => ?_)
  · assumption
  · exact State.finish_only (Part.sub hL (by decide)) (by assumption)

theorem State.setMedium_only {L : List Part} {s0 s : State} {x2}
    (hL : [.medium] ⊆ L) (h : Only L s0 s) :
    Only L s0 (State.setMedium s x2) := by
  unfold State.setMedium
  extract_lets n1
  refine Only.updMedium (Part.sub hL (by decide)) ?_
  assumption

theorem State.startReached_only {L : List Part} {s0 s : State} {x2}
    (hL : [.out, .host, .sq, .life, .medium, .trc, .grp, .regs 0, .regs 4, .regs 8, .regs 49] ⊆ L) (h : Only L s0 s) :
    Only L s0 (State.startReached s x2) := by
  unfold State.startReached
  extract_lets s1 n2 n3 s4 s5 n6
  have hs1 : Only L s0 s1 := by
    unfold s1
    refine State.endMedia_only (Part.sub hL (by decide)) ?_
    exact State.setMedium_only (Part.sub hL (by decide)) (by assumption)
  clear_value s1
  have hs4 : Only L s0 s4 := by
    unfold s4
    refine Only.updMedium (Part.sub hL (by decide)) ?_
    assumption
  clear_value s4
  have hs5 : Only L s0 s5 := by
    unfold s5
    exact State.setMedium_only (Part.sub hL (by decide)) (by assumption)
  clear_value s5
  refine Only.ite ?_ ?_
  · refine Only.updMedium (Part.sub hL (by decide)) ?_
    assumption
  · assumption

theorem State.stopReached_only {L : List Part} {s0 s : State}
    (hL : [.out, .host, .sq, .life, .medium, .trc, .grp, .regs 0, .regs 4, .regs 8, .regs 49] ⊆ L) (h : Only L s0 s) :
    Only L s0 (State.stopReached s) := by
  unfold State.stopReached
  extract_lets s1 n2
  have hs1 : Only L s0 s1 := by
    unfold s1
    refine State.endMedia_only (Part.sub hL (by decide)) ?_
    exact State.setMedium_only (Part.sub hL (by decide)) (by assumption)
  clear_value s1
  refine Only.updMedium (Part.sub hL (by decide)) ?_
  assumption

end Sys2Proof.Machine
end

