-- ==== Sys2Proof/Laws/OnlyDiskFormat.lean ====
section
/-!
SUPPORT. The parts of the state that an operation of Machine/DiskFormat.lean may change (Laws/Only.lean).
-/

set_option Elab.async false

namespace Sys2Proof.Machine

theorem State.setCopy_only {L : List Part} {s0 s : State} {x2}
    (hL : [.red] ⊆ L) (h : Only L s0 s) :
    Only L s0 (State.setCopy s x2) := by
  unfold State.setCopy
  extract_lets n1
  refine Only.updRed (Part.sub hL (by decide)) ?_
  assumption

theorem State.setDisk_only {L : List Part} {s0 s : State} {x2}
    (hL : [.disk] ⊆ L) (h : Only L s0 s) :
    Only L s0 (State.setDisk s x2) := by
  unfold State.setDisk
  refine Only.updDisk (Part.sub hL (by decide)) ?_
  assumption

theorem State.checkLow_only {L : List Part} {s0 s : State} {x2}
    (hL : [.out, .host, .life, .disk, .trc, .regs 0, .regs 4, .regs 16, .regs 49] ⊆ L) (h : Only L s0 s) :
    Only L s0 (State.checkLow s x2) := by
  unfold State.checkLow
  extract_lets n1 n2 n3 s4
  have hs4 : Only L s0 s4 := by
    unfold s4
    exact State.setDisk_only (Part.sub hL (by decide)) (by assumption)
  clear_value s4
  refine Only.ite ?_ ?_
  · refine State.raise_only (Part.sub hL (by decide)) ?_
    exact State.wr_only (Part.sub hL (by decide)) (by assumption)
  · refine Only.ite ?_ ?_
    · assumption
    · exact State.setDisk_only (Part.sub hL (by decide)) (by assumption)

theorem State.setRing_only {L : List Part} {s0 s : State} {x2 x3}
    (hL : [.disk] ⊆ L) (h : Only L s0 s) :
    Only L s0 (State.setRing s x2 x3) := by
  unfold State.setRing
  extract_lets n1
  exact State.setDisk_only (Part.sub hL (by decide)) (by assumption)

theorem State.placeRemote_only {L : List Part} {s0 s : State} {x2}
    (hL : [.out, .host, .life, .disk, .trc, .red, .regs 0, .regs 4, .regs 16, .regs 49] ⊆ L) (h : Only L s0 s) :
    Only L s0 (State.placeRemote s x2) := by
  unfold State.placeRemote
  extract_lets n1 n2 n3
  split
  · extract_lets s4
    have hs4 : Only L s0 s4 := by
      unfold s4
      refine State.checkLow_only (Part.sub hL (by decide)) ?_
      exact State.setRing_only (Part.sub hL (by decide)) (by assumption)
    clear_value s4
    exact State.setCopy_only (Part.sub hL (by decide)) (by assumption)
  · refine Only.ite ?_ ?_
    · exact State.setCopy_only (Part.sub hL (by decide)) (by assumption)
    · assumption

theorem State.releaseLanding_only {L : List Part} {s0 s : State} {x2}
    (hL : [.out, .host, .life, .disk, .trc, .regs 0, .regs 4, .regs 16, .regs 49] ⊆ L) (h : Only L s0 s) :
    Only L s0 (State.releaseLanding s x2) := by
  unfold State.releaseLanding
  extract_lets n1 s2
  have hs2 : Only L s0 s2 := by
    unfold s2
    exact State.setDisk_only (Part.sub hL (by decide)) (by assumption)
  clear_value s2
  refine Only.foldl _ ?_ (fun s _ h => ?_)
  · assumption
  · exact State.checkLow_only (Part.sub hL (by decide)) (by assumption)

theorem State.setZone_only {L : List Part} {s0 s : State} {x2 x3}
    (hL : [.disk] ⊆ L) (h : Only L s0 s) :
    Only L s0 (State.setZone s x2 x3) := by
  unfold State.setZone
  extract_lets n1
  exact State.setDisk_only (Part.sub hL (by decide)) (by assumption)

theorem State.rewriteTable_only {L : List Part} {s0 s : State}
    (hL : [.disk] ⊆ L) (h : Only L s0 s) :
    Only L s0 (State.rewriteTable s) := by
  unfold State.rewriteTable
  extract_lets n1
  exact State.setDisk_only (Part.sub hL (by decide)) (by assumption)

theorem State.startClean_only {L : List Part} {s0 s : State} {x2}
    (hL : [.disk] ⊆ L) (h : Only L s0 s) :
    Only L s0 (State.startClean s x2) := by
  unfold State.startClean
  extract_lets n1 n2 s3 n4 n5 s6
  have hs3 : Only L s0 s3 := by
    unfold s3
    exact State.setZone_only (Part.sub hL (by decide)) (by assumption)
  clear_value s3
  have hs6 : Only L s0 s6 := by
    unfold s6
    exact State.setDisk_only (Part.sub hL (by decide)) (by assumption)
  clear_value s6
  exact State.rewriteTable_only (Part.sub hL (by decide)) (by assumption)

theorem State.pickClean_only {L : List Part} {s0 s : State}
    (hL : [.disk] ⊆ L) (h : Only L s0 s) :
    Only L s0 (State.pickClean s) := by
  unfold State.pickClean
  extract_lets n1 n2 n3 n4 s5
  have hs5 : Only L s0 s5 := by
    unfold s5
    exact State.setDisk_only (Part.sub hL (by decide)) (by assumption)
  clear_value s5
  refine Only.ite ?_ ?_
  · assumption
  · split
    · exact State.startClean_only (Part.sub hL (by decide)) (by assumption)
    · split
      · exact State.startClean_only (Part.sub hL (by decide)) (by assumption)
      · assumption

theorem State.addGrown_only {L : List Part} {s0 s : State} {x2 x3}
    (hL : [.out, .host, .life, .disk, .trc, .regs 0, .regs 4, .regs 16, .regs 49] ⊆ L) (h : Only L s0 s) :
    Only L s0 (State.addGrown s x2 x3) := by
  unfold State.addGrown
  extract_lets n1 n2 n3 s4 s5
  have hs4 : Only L s0 s4 := by
    unfold s4
    exact State.setZone_only (Part.sub hL (by decide)) (by assumption)
  clear_value s4
  have hs5 : Only L s0 s5 := by
    unfold s5
    exact State.rewriteTable_only (Part.sub hL (by decide)) (by assumption)
  clear_value s5
  refine Only.ite ?_ ?_
  · refine State.pickClean_only (Part.sub hL (by decide)) ?_
    refine State.raise_only (Part.sub hL (by decide)) ?_
    exact State.wr_only (Part.sub hL (by decide)) (by assumption)
  · assumption

theorem State.hurryRing_only {L : List Part} {s0 s : State} {x2}
    (hL : [.disk] ⊆ L) (h : Only L s0 s) :
    Only L s0 (State.hurryRing s x2) := by
  unfold State.hurryRing
  extract_lets n1 n2
  exact State.setDisk_only (Part.sub hL (by decide)) (by assumption)

theorem State.placeCopies_only {L : List Part} {s0 s : State} {x1 x3}
    (hL : [.out, .host, .sq, .life, .disk, .trc, .regs 0, .regs 4, .regs 16, .regs 49] ⊆ L) (h : Only L s0 s) :
    Only.Opt L s0 (State.placeCopies x1 s x3) := by
  induction x1 generalizing s x3 with
  | zero =>
    rw [State.placeCopies]
    refine Only.some ?_
    assumption
  | succ n ih =>
    rw [State.placeCopies]
    split
    · refine Only.some ?_
      assumption
    · extract_lets n1 s2
      have hs2 : Only L s0 s2 := by
        unfold s2
        refine Only.ite ?_ ?_
        · assumption
        · exact State.raise_only (Part.sub hL (by decide)) (by assumption)
      clear_value s2
      refine Only.iteOpt ?_ ?_
      · refine Only.some ?_
        exact State.setCmd_only (Part.sub hL (by decide)) (by assumption)
      · split
        · exact Only.none
        · extract_lets n3 s4 n5
          have hs4 : Only L s0 s4 := by
            unfold s4
            refine State.checkLow_only (Part.sub hL (by decide)) ?_
            exact State.setRing_only (Part.sub hL (by decide)) (by assumption)
          clear_value s4
          refine Only.iteOpt ?_ ?_
          · refine Only.some ?_
            refine State.hurryRing_only (Part.sub hL (by decide)) ?_
            exact State.setCmd_only (Part.sub hL (by decide)) (by assumption)
          · refine ih ?_
            exact State.setCmd_only (Part.sub hL (by decide)) (by assumption)

theorem State.startLanding_only {L : List Part} {s0 s : State} {x2}
    (hL : [.out, .host, .sq, .obj, .life, .tape, .disk, .trc, .grp, .red, .regs 0, .regs 4, .regs 8, .regs 16,
      .regs 49] ⊆ L) (h : Only L s0 s) :
    Only L s0 (State.startLanding s x2) := by
  unfold State.startLanding
  split
  · refine State.fail_only (Part.sub hL (by decide)) ?_
    exact State.discardWork_only (Part.sub hL (by decide)) (by assumption)
  · split
    · refine State.fail_only (Part.sub hL (by decide)) ?_
      exact State.discardWork_only (Part.sub hL (by decide)) (by assumption)
    · extract_lets s1
      have hs1 : Only L s0 s1 := by
        unfold s1
        refine Only.ite ?_ ?_
        · assumption
        · exact State.raise_only (Part.sub hL (by decide)) (by assumption)
      clear_value s1
      refine Only.ite ?_ ?_
      · refine State.hurryRing_only (Part.sub hL (by decide)) ?_
        refine State.hurryRing_only (Part.sub hL (by decide)) ?_
        exact State.setCmd_only (Part.sub hL (by decide)) (by assumption)
      · refine Only.getD ?_ ?_
        · exact State.placeCopies_only (Part.sub hL (by decide)) (by assumption)
        · assumption

theorem State.reallocate_only {L : List Part} {s0 s : State} {x2 x3 x4}
    (hL : [.disk] ⊆ L) (h : Only L s0 s) :
    Only L s0 (State.reallocate s x2 x3 x4) := by
  unfold State.reallocate
  extract_lets n1
  refine Only.ite ?_ ?_
  · assumption
  · exact State.setDisk_only (Part.sub hL (by decide)) (by assumption)

theorem State.dropClean_only {L : List Part} {s0 s : State} {x2}
    (hL : [.disk] ⊆ L) (h : Only L s0 s) :
    Only L s0 (State.dropClean s x2) := by
  unfold State.dropClean
  extract_lets n1
  exact State.setDisk_only (Part.sub hL (by decide)) (by assumption)

theorem State.endClean_only {L : List Part} {s0 s : State} {x2}
    (hL : [.out, .host, .sq, .life, .disk, .trc, .grp, .regs 0, .regs 4, .regs 8, .regs 49] ⊆ L) (h : Only L s0 s) :
    Only L s0 (State.endClean s x2) := by
  unfold State.endClean
  refine Only.foldl _ ?_ (fun s _ h => ?_)
  · assumption
  · extract_lets s1
    have hs1 : Only L s0 s1 := by
      unfold s1
      exact State.dropClean_only (Part.sub hL (by decide)) (by assumption)
    clear_value s1
    refine Only.foldl _ ?_ (fun s _ h => ?_)
    · assumption
    · exact State.conflict_only (Part.sub hL (by decide)) (by assumption)

theorem State.lostData_only {L : List Part} {s0 s : State} {x2}
    (hL : [.out, .host, .obj, .life, .disk, .trc, .regs 0, .regs 4, .regs 49] ⊆ L) (h : Only L s0 s) :
    Only L s0 (State.lostData s x2) := by
  unfold State.lostData
  extract_lets n1 n2 n3 s4 n5 n6 s7 n8 n9 n10 s11 n12 n13 n14
  have hs4 : Only L s0 s4 := by
    unfold s4
    exact State.setRing_only (Part.sub hL (by decide)) (by assumption)
  clear_value s4
  have hs7 : Only L s0 s7 := by
    unfold s7
    refine Only.foldl _ ?_ (fun s _ h => ?_)
    · assumption
    · split
      · extract_lets n15
        exact State.setUnit_only (Part.sub hL (by decide)) (by assumption)
      · assumption
  clear_value s7
  have hs11 : Only L s0 s11 := by
    unfold s11
    exact State.setDisk_only (Part.sub hL (by decide)) (by assumption)
  clear_value s11
  refine State.loseUnits_only (Part.sub hL (by decide)) ?_
  exact State.loseUnits_only (Part.sub hL (by decide)) (by assumption)

theorem State.recopy_only {L : List Part} {s0 s : State} {x2}
    (hL : [.out, .host, .sq, .obj, .life, .tape, .disk, .trc, .grp, .red, .regs 0, .regs 4, .regs 8, .regs 16,
      .regs 49] ⊆ L) (h : Only L s0 s) :
    Only L s0 (State.recopy s x2) := by
  unfold State.recopy
  split
  · refine Only.of_opt ?_ (by assumption)
    exact State.placeCopies_only (Part.sub hL (by decide)) (by assumption)
  · split
    · refine State.fail_only (Part.sub hL (by decide)) ?_
      exact State.discardWork_only (Part.sub hL (by decide)) (by assumption)
    · assumption

theorem State.zoneChanged_only {L : List Part} {s0 s : State}
    (hL : [.disk] ⊆ L) (h : Only L s0 s) :
    Only L s0 (State.zoneChanged s) := by
  unfold State.zoneChanged
  refine State.pickClean_only (Part.sub hL (by decide)) ?_
  exact State.rewriteTable_only (Part.sub hL (by decide)) (by assumption)

theorem State.loseSurface_only {L : List Part} {s0 s : State} {x2}
    (hL : [.out, .host, .sq, .obj, .life, .tape, .disk, .trc, .grp, .red, .regs 0, .regs 4, .regs 8, .regs 16,
      .regs 49] ⊆ L) (h : Only L s0 s) :
    Only L s0 (State.loseSurface s x2) := by
  unfold State.loseSurface
  extract_lets n1 s2 n3 s4 n5 s6 n7 s8 n9 n10 s11 s12
  have hs2 : Only L s0 s2 := by
    unfold s2
    refine Only.foldl _ ?_ (fun s _ h => ?_)
    · assumption
    · extract_lets n13
      refine Only.ite ?_ ?_
      · assumption
      · exact State.setZone_only (Part.sub hL (by decide)) (by assumption)
  clear_value s2
  have hs4 : Only L s0 s4 := by
    unfold s4
    exact State.setDisk_only (Part.sub hL (by decide)) (by assumption)
  clear_value s4
  have hs6 : Only L s0 s6 := by
    unfold s6
    exact State.endClean_only (Part.sub hL (by decide)) (by assumption)
  clear_value s6
  have hs8 : Only L s0 s8 := by
    unfold s8
    refine Only.ite ?_ ?_
    · assumption
    · exact State.lostData_only (Part.sub hL (by decide)) (by assumption)
  clear_value s8
  have hs11 : Only L s0 s11 := by
    unfold s11
    exact State.setDisk_only (Part.sub hL (by decide)) (by assumption)
  clear_value s11
  have hs12 : Only L s0 s12 := by
    unfold s12
    refine Only.foldl _ ?_ (fun s _ h => ?_)
    · assumption
    · refine State.recopy_only (Part.sub hL (by decide)) ?_
      exact State.setCmd_only (Part.sub hL (by decide)) (by assumption)
  clear_value s12
  exact State.zoneChanged_only (Part.sub hL (by decide)) (by assumption)

theorem State.failActuator_only {L : List Part} {s0 s : State} {x2 x3}
    (hL : [.out, .host, .sq, .obj, .life, .tape, .disk, .trc, .grp, .red, .regs 0, .regs 4, .regs 8, .regs 16,
      .regs 49] ⊆ L) (h : Only L s0 s) :
    Only L s0 (State.failActuator s x2 x3) := by
  unfold State.failActuator
  extract_lets n1 s2 s3
  have hs2 : Only L s0 s2 := by
    unfold s2
    refine State.wr_only (Part.sub hL (by decide)) ?_
    exact State.raiseBit_only (Part.sub hL (by decide)) (by assumption)
  clear_value s2
  have hs3 : Only L s0 s3 := by
    unfold s3
    exact State.raise_only (Part.sub hL (by decide)) (by assumption)
  clear_value s3
  refine Only.ite ?_ ?_
  · assumption
  · refine Only.foldl _ ?_ (fun s _ h => ?_)
    · assumption
    · exact State.loseSurface_only (Part.sub hL (by decide)) (by assumption)

theorem State.failHead_only {L : List Part} {s0 s : State} {x2 x3}
    (hL : [.out, .host, .sq, .obj, .life, .tape, .disk, .trc, .grp, .red, .regs 0, .regs 4, .regs 8, .regs 16,
      .regs 49] ⊆ L) (h : Only L s0 s) :
    Only L s0 (State.failHead s x2 x3) := by
  unfold State.failHead
  extract_lets s1 s2 n3
  have hs1 : Only L s0 s1 := by
    unfold s1
    refine State.wr_only (Part.sub hL (by decide)) ?_
    exact State.raiseBit_only (Part.sub hL (by decide)) (by assumption)
  clear_value s1
  have hs2 : Only L s0 s2 := by
    unfold s2
    refine State.loseSurface_only (Part.sub hL (by decide)) ?_
    exact State.raise_only (Part.sub hL (by decide)) (by assumption)
  clear_value s2
  refine Only.ite ?_ ?_
  · assumption
  · refine Only.ite ?_ ?_
    · exact State.failActuator_only (Part.sub hL (by decide)) (by assumption)
    · assumption

theorem State.headAcquire_only {L : List Part} {s0 s : State} {x2 x3}
    (hL : [.out, .host, .sq, .obj, .life, .tape, .disk, .trc, .grp, .red, .regs 0, .regs 4, .regs 8, .regs 16,
      .regs 49] ⊆ L) (h : Only L s0 s) :
    Only L s0 (State.headAcquire s x2 x3) := by
  unfold State.headAcquire
  extract_lets n1 n2 s3
  have hs3 : Only L s0 s3 := by
    unfold s3
    exact State.setDisk_only (Part.sub hL (by decide)) (by assumption)
  clear_value s3
  refine Only.ite ?_ ?_
  · exact State.setDisk_only (Part.sub hL (by decide)) (by assumption)
  · refine Only.ite ?_ ?_
    · exact State.failHead_only (Part.sub hL (by decide)) (by assumption)
    · assumption

theorem State.headRead_only {L : List Part} {s0 s : State} {x2 x3 x4}
    (hL : [.out, .host, .sq, .obj, .life, .tape, .disk, .trc, .grp, .red, .regs 0, .regs 4, .regs 8, .regs 16,
      .regs 49] ⊆ L) (h : Only L s0 s) :
    Only L s0 (State.headRead s x2 x3 x4) := by
  unfold State.headRead
  extract_lets n1 n2 s3
  have hs3 : Only L s0 s3 := by
    unfold s3
    exact State.setDisk_only (Part.sub hL (by decide)) (by assumption)
  clear_value s3
  refine Only.ite ?_ ?_
  · exact State.setDisk_only (Part.sub hL (by decide)) (by assumption)
  · refine Only.ite ?_ ?_
    · exact State.failHead_only (Part.sub hL (by decide)) (by assumption)
    · assumption

theorem State.zoneRead_only {L : List Part} {s0 s : State} {x2 x3 x4 x5}
    (hL : [.out, .host, .obj, .life, .disk, .trc, .regs 0, .regs 4, .regs 49] ⊆ L) (h : Only L s0 s) :
    Only L s0 (State.zoneRead s x2 x3 x4 x5) := by
  unfold State.zoneRead
  split
  · assumption
  · refine Only.ite ?_ ?_
    · refine Only.ite ?_ ?_
      · exact State.reallocate_only (Part.sub hL (by decide)) (by assumption)
      · assumption
    · refine Only.ite ?_ ?_
      · exact State.reallocate_only (Part.sub hL (by decide)) (by assumption)
      · refine Only.ite ?_ ?_
        · assumption
        · exact State.loseUnits_only (Part.sub hL (by decide)) (by assumption)

theorem State.landingRead_only {L : List Part} {s0 s : State} {x2 x3 x4}
    (hL : [.out, .host, .obj, .life, .disk, .trc, .regs 0, .regs 4, .regs 49] ⊆ L) (h : Only L s0 s) :
    Only L s0 (State.landingRead s x2 x3 x4) := by
  unfold State.landingRead
  extract_lets n1 s2 s3
  have hs2 : Only L s0 s2 := by
    unfold s2
    exact State.setRing_only (Part.sub hL (by decide)) (by assumption)
  clear_value s2
  have hs3 : Only L s0 s3 := by
    unfold s3
    exact State.rewriteTable_only (Part.sub hL (by decide)) (by assumption)
  clear_value s3
  refine Only.ite ?_ ?_
  · assumption
  · split
    · assumption
    · split
      · extract_lets n4
        exact State.setUnit_only (Part.sub hL (by decide)) (by assumption)
      · refine Only.ite ?_ ?_
        · assumption
        · exact State.loseUnits_only (Part.sub hL (by decide)) (by assumption)
      · assumption

theorem State.releaseTrack_only {L : List Part} {s0 s : State} {x2 x3}
    (hL : [.out, .host, .life, .disk, .trc, .regs 0, .regs 4, .regs 16, .regs 49] ⊆ L) (h : Only L s0 s) :
    Only L s0 (State.releaseTrack s x2 x3) := by
  unfold State.releaseTrack
  extract_lets n1 n2
  refine Only.ite ?_ ?_
  · assumption
  · exact State.releaseLanding_only (Part.sub hL (by decide)) (by assumption)

theorem State.failReadBack_only {L : List Part} {s0 s : State} {x2 x3}
    (hL : [.out, .host, .life, .disk, .trc, .regs 0, .regs 4, .regs 16, .regs 49] ⊆ L) (h : Only L s0 s) :
    Only L s0 (State.failReadBack s x2 x3) := by
  unfold State.failReadBack
  split
  · assumption
  · extract_lets n1 s2 s3 s4 s5
    have hs2 : Only L s0 s2 := by
      unfold s2
      exact State.setDisk_only (Part.sub hL (by decide)) (by assumption)
    clear_value s2
    have hs3 : Only L s0 s3 := by
      unfold s3
      refine State.wr_only (Part.sub hL (by decide)) ?_
      exact State.inc_only (Part.sub hL (by decide)) (by assumption)
    clear_value s3
    have hs4 : Only L s0 s4 := by
      unfold s4
      exact State.raise_only (Part.sub hL (by decide)) (by assumption)
    clear_value s4
    have hs5 : Only L s0 s5 := by
      unfold s5
      refine Only.ite ?_ ?_
      · exact State.reallocate_only (Part.sub hL (by decide)) (by assumption)
      · assumption
    clear_value s5
    exact State.releaseTrack_only (Part.sub hL (by decide)) (by assumption)

theorem State.passReadBack_only {L : List Part} {s0 s : State} {x2 x3}
    (hL : [.out, .host, .obj, .life, .disk, .trc, .regs 0, .regs 4, .regs 16, .regs 49] ⊆ L) (h : Only L s0 s) :
    Only L s0 (State.passReadBack s x2 x3) := by
  unfold State.passReadBack
  split
  · exact h
  · refine State.releaseTrack_only (Part.sub hL (by decide)) (Only.foldl _ ?_ fun s x h => State.addGrown_only
      (Part.sub hL (by decide)) (State.lifeAdd_only (Part.sub hL (by decide)) (State.inc_only (Part.sub hL (by decide)) h)))
    refine State.setDisk_only (Part.sub hL (by decide)) (State.setDisk_only (Part.sub hL (by decide)) ?_)
    exact Only.ite (State.setUnit_only (Part.sub hL (by decide)) (State.setDisk_only (Part.sub hL (by decide)) h))
      (State.setDisk_only (Part.sub hL (by decide)) h)

theorem State.dueReadBack_only {L : List Part} {s0 s : State} {x2 x3}
    (hL : [.disk] ⊆ L) (h : Only L s0 s) :
    Only L s0 (State.dueReadBack s x2 x3) := by
  unfold State.dueReadBack
  extract_lets n1 n2 n3 n4 s5
  have hs5 : Only L s0 s5 := by
    unfold s5
    exact State.setDisk_only (Part.sub hL (by decide)) (by assumption)
  clear_value s5
  exact State.setZone_only (Part.sub hL (by decide)) (by assumption)

theorem State.scanZone_only {L : List Part} {s0 s : State} {x2}
    (hL : [.out, .host, .life, .disk, .trc, .regs 0, .regs 4, .regs 49] ⊆ L) (h : Only L s0 s) :
    Only L s0 (State.scanZone s x2) := by
  unfold State.scanZone
  extract_lets n1 n2 s3 s4
  have hs3 : Only L s0 s3 := by
    unfold s3
    refine Only.ite ?_ ?_
    · exact State.raise_only (Part.sub hL (by decide)) (by assumption)
    · assumption
  clear_value s3
  have hs4 : Only L s0 s4 := by
    unfold s4
    exact State.setZone_only (Part.sub hL (by decide)) (by assumption)
  clear_value s4
  exact State.dueReadBack_only (Part.sub hL (by decide)) (by assumption)

theorem State.diskLoad_only {L : List Part} {s0 s : State} {x2 x3}
    (hL : [.out, .host, .sq, .life, .disk, .medium, .trc, .grp, .regs 0, .regs 4, .regs 8, .regs 16, .regs 49] ⊆ L) (h : Only L s0 s) :
    Only L s0 (State.diskLoad s x2 x3) := by
  unfold State.diskLoad
  extract_lets n1 n2 n3 s4 n5 n6 s7 s8 s9 s10 n11 s12 s13
  have hs4 : Only L s0 s4 := by
    unfold s4
    refine Only.ite ?_ ?_
    · exact State.wr_only (Part.sub hL (by decide)) (by assumption)
    · assumption
  clear_value s4
  have hs7 : Only L s0 s7 := by
    unfold s7
    exact State.setDisk_only (Part.sub hL (by decide)) (by assumption)
  clear_value s7
  have hs8 : Only L s0 s8 := by
    unfold s8
    exact State.wr_only (Part.sub hL (by decide)) (by assumption)
  clear_value s8
  have hs9 : Only L s0 s9 := by
    unfold s9
    exact State.wr_only (Part.sub hL (by decide)) (by assumption)
  clear_value s9
  have hs10 : Only L s0 s10 := by
    unfold s10
    refine Only.foldl _ ?_ (fun s _ h => ?_)
    · assumption
    · exact State.scanZone_only (Part.sub hL (by decide)) (by assumption)
  clear_value s10
  have hs12 : Only L s0 s12 := by
    unfold s12
    exact State.setDisk_only (Part.sub hL (by decide)) (by assumption)
  clear_value s12
  have hs13 : Only L s0 s13 := by
    unfold s13
    refine Only.foldl _ ?_ (fun s _ h => ?_)
    · assumption
    · exact State.startClean_only (Part.sub hL (by decide)) (by assumption)
  clear_value s13
  refine Only.ite ?_ ?_
  · exact State.startReached_only (Part.sub hL (by decide)) (by assumption)
  · exact State.startReached_only (Part.sub hL (by decide)) (by assumption)

theorem State.writeFault_only {L : List Part} {s0 s : State} {x2 x3 x4}
    (hL : [.out, .host, .life, .trc, .regs 0, .regs 4, .regs 16, .regs 49] ⊆ L) (h : Only L s0 s) :
    Only L s0 (State.writeFault s x2 x3 x4) := by
  unfold State.writeFault
  refine State.raise_only (Part.sub hL (by decide)) ?_
  refine State.wr_only (Part.sub hL (by decide)) ?_
  exact State.inc_only (Part.sub hL (by decide)) (by assumption)

theorem State.remoteWritten_only {L : List Part} {s0 s : State} {x2 x3 x4}
    (hL : [.out, .host, .life, .disk, .trc, .red, .regs 0, .regs 4, .regs 16, .regs 49] ⊆ L) (h : Only L s0 s) :
    Only L s0 (State.remoteWritten s x2 x3 x4) := by
  unfold State.remoteWritten
  split
  · assumption
  · extract_lets n1 s2 n3 s4 s5 n6
    have hs2 : Only L s0 s2 := by
      unfold s2
      exact State.writeFault_only (Part.sub hL (by decide)) (by assumption)
    clear_value s2
    have hs4 : Only L s0 s4 := by
      unfold s4
      exact State.setDisk_only (Part.sub hL (by decide)) (by assumption)
    clear_value s4
    have hs5 : Only L s0 s5 := by
      unfold s5
      exact State.setRing_only (Part.sub hL (by decide)) (by assumption)
    clear_value s5
    refine Only.ite ?_ ?_
    · refine State.setCopy_only (Part.sub hL (by decide)) ?_
      exact State.lifeAdd_only (Part.sub hL (by decide)) (by assumption)
    · refine State.placeRemote_only (Part.sub hL (by decide)) ?_
      exact State.setCopy_only (Part.sub hL (by decide)) (by assumption)

theorem State.stopOne_only {L : List Part} {s0 s : State} {x2}
    (hL : [.out, .host, .sq, .life, .disk, .trc, .grp, .regs 0, .regs 4, .regs 8, .regs 49] ⊆ L) (h : Only L s0 s) :
    Only L s0 (State.stopOne s x2) := by
  unfold State.stopOne
  extract_lets n1 n2 n3 s4 n5 s6
  have hs4 : Only L s0 s4 := by
    unfold s4
    exact State.setZone_only (Part.sub hL (by decide)) (by assumption)
  clear_value s4
  have hs6 : Only L s0 s6 := by
    unfold s6
    refine State.setDisk_only (Part.sub hL (by decide)) ?_
    exact State.dropClean_only (Part.sub hL (by decide)) (by assumption)
  clear_value s6
  refine Only.foldl _ ?_ (fun s _ h => ?_)
  · exact State.rewriteTable_only (Part.sub hL (by decide)) (by assumption)
  · exact State.finish_only (Part.sub hL (by decide)) (by assumption)

theorem State.stopClean_only {L : List Part} {s0 s : State}
    (hL : [.out, .host, .sq, .life, .disk, .trc, .grp, .regs 0, .regs 4, .regs 8, .regs 49] ⊆ L) (h : Only L s0 s) :
    Only L s0 (State.stopClean s) := by
  unfold State.stopClean
  refine Only.foldl _ ?_ (fun s _ h => ?_)
  · assumption
  · exact State.stopOne_only (Part.sub hL (by decide)) (by assumption)

theorem execLandingCopyWritten_only {L : List Part} {s0 s : State} {x1 x2 x3}
    (hL : [.out, .host, .sq, .obj, .life, .tape, .disk, .trc, .grp, .red, .regs 0, .regs 4, .regs 8, .regs 16,
      .regs 49] ⊆ L) (h : Only L s0 s) :
    Only.Out L s0 (execLandingCopyWritten x1 x2 x3 s) := by
  unfold execLandingCopyWritten
  extract_lets n1 s2 n3
  have hs2 : Only L s0 s2 := by
    unfold s2
    exact State.writeFault_only (Part.sub hL (by decide)) (by assumption)
  clear_value s2
  refine Only.iteOut ?_ ?_
  · refine Only.next ?_
    exact State.remoteWritten_only (Part.sub hL (by decide)) (by assumption)
  · split
    · refine Only.next ?_
      assumption
    · extract_lets s4 s5 s6 s7
      have hs4 : Only L s0 s4 := by
        unfold s4
        exact State.lifeAdd_only (Part.sub hL (by decide)) (by assumption)
      clear_value s4
      have hs5 : Only L s0 s5 := by
        unfold s5
        exact State.setDisk_only (Part.sub hL (by decide)) (by assumption)
      clear_value s5
      have hs6 : Only L s0 s6 := by
        unfold s6
        exact State.setRing_only (Part.sub hL (by decide)) (by assumption)
      clear_value s6
      have hs7 : Only L s0 s7 := by
        unfold s7
        exact State.setCmd_only (Part.sub hL (by decide)) (by assumption)
      clear_value s7
      refine Only.iteOut ?_ ?_
      · refine Only.next ?_
        assumption
      · refine Only.iteOut ?_ ?_
        · refine Only.next ?_
          exact State.setCmd_only (Part.sub hL (by decide)) (by assumption)
        · refine Only.next ?_
          exact State.recopy_only (Part.sub hL (by decide)) (by assumption)

theorem execLandingSpaceFreed_only {L : List Part} {s0 s : State} {x1}
    (hL : [.out, .host, .sq, .obj, .life, .tape, .disk, .trc, .grp, .red, .regs 0, .regs 4, .regs 8, .regs 16,
      .regs 49] ⊆ L) (h : Only L s0 s) :
    Only.Out L s0 (execLandingSpaceFreed x1 s) := by
  unfold execLandingSpaceFreed
  split
  · refine Only.iteOut ?_ ?_
    · refine Only.next ?_
      refine Only.ite ?_ ?_
      · exact State.startLanding_only (Part.sub hL (by decide)) (by assumption)
      · exact State.recopy_only (Part.sub hL (by decide)) (by assumption)
    · refine Only.next ?_
      assumption
  · refine Only.next ?_
    assumption

theorem execDestageTrackWritten_only {L : List Part} {s0 s : State} {x1 x2 x3}
    (hL : [.out, .host, .sq, .life, .disk, .trc, .grp, .regs 0, .regs 4, .regs 8, .regs 16, .regs 49] ⊆ L) (h : Only L s0 s) :
    Only.Out L s0 (execDestageTrackWritten x1 x2 x3 s) := by
  unfold execDestageTrackWritten
  extract_lets n1
  refine Only.iteOut ?_ ?_
  · refine Only.next ?_
    assumption
  · split
    · refine Only.next ?_
      refine Only.ite ?_ ?_
      · assumption
      · exact State.stopClean_only (Part.sub hL (by decide)) (by assumption)
    · extract_lets n2 n3
      split
      extract_lets n4 n5
      split
      extract_lets n6 n7 n8 n9 n10 n11 n12 s13 s14 s15 s16
      have hs13 : Only L s0 s13 := by
        unfold s13
        refine State.setDisk_only (Part.sub hL (by decide)) ?_
        exact State.setZone_only (Part.sub hL (by decide)) (by assumption)
      clear_value s13
      have hs14 : Only L s0 s14 := by
        unfold s14
        exact State.lifeAdd_only (Part.sub hL (by decide)) (by assumption)
      clear_value s14
      have hs15 : Only L s0 s15 := by
        unfold s15
        refine Only.ite ?_ ?_
        · assumption
        · exact State.writeFault_only (Part.sub hL (by decide)) (by assumption)
      clear_value s15
      have hs16 : Only L s0 s16 := by
        unfold s16
        refine Only.ite ?_ ?_
        · exact State.dueReadBack_only (Part.sub hL (by decide)) (by assumption)
        · refine Only.ite ?_ ?_
          · exact State.dueReadBack_only (Part.sub hL (by decide)) (by assumption)
          · assumption
      clear_value s16
      refine Only.next ?_
      refine Only.ite ?_ ?_
      · exact State.zoneChanged_only (Part.sub hL (by decide)) (by assumption)
      · assumption

theorem execZoneTablePeriodic_only {L : List Part} {s0 s : State}
    (hL : [.disk] ⊆ L) (h : Only L s0 s) :
    Only.Out L s0 (execZoneTablePeriodic s) := by
  unfold execZoneTablePeriodic
  refine Only.next ?_
  refine Only.ite ?_ ?_
  · exact State.rewriteTable_only (Part.sub hL (by decide)) (by assumption)
  · assumption

theorem execZoneReset_only {L : List Part} {s0 s : State} {x1}
    (hL : [.out, .host, .sq, .life, .disk, .trc, .grp, .regs 0, .regs 4, .regs 8, .regs 16, .regs 49] ⊆ L) (h : Only L s0 s) :
    Only.Out L s0 (execZoneReset x1 s) := by
  unfold execZoneReset
  extract_lets n1 n2 s3 s4
  have hs3 : Only L s0 s3 := by
    unfold s3
    exact State.setZone_only (Part.sub hL (by decide)) (by assumption)
  clear_value s3
  have hs4 : Only L s0 s4 := by
    unfold s4
    refine State.inc_only (Part.sub hL (by decide)) ?_
    exact State.dropClean_only (Part.sub hL (by decide)) (by assumption)
  clear_value s4
  split
  · refine Only.next ?_
    assumption
  · extract_lets n5 s6
    have hs6 : Only L s0 s6 := by
      unfold s6
      refine Only.foldl _ ?_ (fun s _ h => ?_)
      · assumption
      · refine Only.ite ?_ ?_
        · exact State.conflict_only (Part.sub hL (by decide)) (by assumption)
        · exact State.finish_only (Part.sub hL (by decide)) (by assumption)
    clear_value s6
    refine Only.iteOut ?_ ?_
    · refine Only.next ?_
      assumption
    · refine Only.next ?_
      exact State.zoneChanged_only (Part.sub hL (by decide)) (by assumption)

end Sys2Proof.Machine
end

