-- ==== Sys2Proof/Laws/OnlyPac.lean ====
section
/-!
SUPPORT. The parts of the state that an operation of Machine/Pac.lean may change (Laws/Only.lean).
-/

set_option Elab.async false

namespace Sys2Proof.Machine

theorem State.setWra_only {L : List Part} {s0 s : State} {x2}
    (hL : [.wra] ⊆ L) (h : Only L s0 s) :
    Only L s0 (State.setWra s x2) := by
  unfold State.setWra
  refine Only.updWra (Part.sub hL (by decide)) ?_
  assumption

theorem State.setActWra_only {L : List Part} {s0 s : State} {x2 x3}
    (hL : [.wra] ⊆ L) (h : Only L s0 s) :
    Only L s0 (State.setActWra s x2 x3) := by
  unfold State.setActWra
  extract_lets n1
  exact State.setWra_only (Part.sub hL (by decide)) (by assumption)

theorem State.setChan_only {L : List Part} {s0 s : State} {x2 x3}
    (hL : [.wra] ⊆ L) (h : Only L s0 s) :
    Only L s0 (State.setChan s x2 x3) := by
  unfold State.setChan
  extract_lets n1
  exact State.setWra_only (Part.sub hL (by decide)) (by assumption)

theorem State.releaseGates_only {L : List Part} {s0 s : State} {x2}
    (hL : [.wra, .regs 28] ⊆ L) (h : Only L s0 s) :
    Only L s0 (State.releaseGates s x2) := by
  unfold State.releaseGates
  extract_lets s1 n2 s3
  have hs1 : Only L s0 s1 := by
    unfold s1
    refine State.wr_only (Part.sub hL (by decide)) ?_
    exact State.wr_only (Part.sub hL (by decide)) (by assumption)
  clear_value s1
  have hs3 : Only L s0 s3 := by
    unfold s3
    exact State.setActWra_only (Part.sub hL (by decide)) (by assumption)
  clear_value s3
  refine Only.foldl _ ?_ (fun s _ h => ?_)
  · assumption
  · extract_lets n4
    exact State.setChan_only (Part.sub hL (by decide)) (by assumption)

theorem State.sendPac_only {L : List Part} {s0 s : State} {x2 x3 x4 x5 x6}
    (hL : [.out, .wra] ⊆ L) (h : Only L s0 s) :
    Only L s0 (State.sendPac s x2 x3 x4 x5 x6) := by
  unfold State.sendPac
  extract_lets n1 n2
  refine State.emit_only (Part.sub hL (by decide)) ?_
  exact State.setActWra_only (Part.sub hL (by decide)) (by assumption)

theorem State.busFailed_only {L : List Part} {s0 s : State} {x2}
    (hL : [.out, .host, .sq, .obj, .life, .tape, .disk, .wra, .trc, .grp, .red, .regs 0, .regs 4, .regs 8,
      .regs 16, .regs 28, .regs 49] ⊆ L) (h : Only L s0 s) :
    Only L s0 (State.busFailed s x2) := by
  unfold State.busFailed
  extract_lets s1 n2 s3
  have hs1 : Only L s0 s1 := by
    unfold s1
    refine State.raise_only (Part.sub hL (by decide)) ?_
    exact State.wr_only (Part.sub hL (by decide)) (by assumption)
  clear_value s1
  have hs3 : Only L s0 s3 := by
    unfold s3
    exact State.setActWra_only (Part.sub hL (by decide)) (by assumption)
  clear_value s3
  refine Only.foldl _ ?_ (fun s _ h => ?_)
  · assumption
  · exact State.failHead_only (Part.sub hL (by decide)) (by assumption)

theorem State.sendBias_only {L : List Part} {s0 s : State} {x2 x3}
    (hL : [.out, .wra] ⊆ L) (h : Only L s0 s) :
    Only L s0 (State.sendBias s x2 x3) := by
  unfold State.sendBias
  exact State.sendPac_only (Part.sub hL (by decide)) (by assumption)

theorem State.loadHead_only {L : List Part} {s0 s : State} {x2}
    (hL : [.out, .wra] ⊆ L) (h : Only L s0 s) :
    Only L s0 (State.loadHead s x2) := by
  unfold State.loadHead
  extract_lets n1 n2 n3 s4 s5 s6 s7 s8
  have hs4 : Only L s0 s4 := by
    unfold s4
    refine State.sendBias_only (Part.sub hL (by decide)) ?_
    exact State.sendPac_only (Part.sub hL (by decide)) (by assumption)
  clear_value s4
  have hs5 : Only L s0 s5 := by
    unfold s5
    exact State.sendPac_only (Part.sub hL (by decide)) (by assumption)
  clear_value s5
  have hs6 : Only L s0 s6 := by
    unfold s6
    exact State.sendPac_only (Part.sub hL (by decide)) (by assumption)
  clear_value s6
  have hs7 : Only L s0 s7 := by
    unfold s7
    exact State.sendPac_only (Part.sub hL (by decide)) (by assumption)
  clear_value s7
  have hs8 : Only L s0 s8 := by
    unfold s8
    exact State.sendPac_only (Part.sub hL (by decide)) (by assumption)
  clear_value s8
  exact State.sendPac_only (Part.sub hL (by decide)) (by assumption)

theorem State.loadBus_only {L : List Part} {s0 s : State} {x2}
    (hL : [.out, .wra] ⊆ L) (h : Only L s0 s) :
    Only L s0 (State.loadBus s x2) := by
  unfold State.loadBus
  refine Only.foldl _ ?_ (fun s _ h => ?_)
  · assumption
  · exact State.loadHead_only (Part.sub hL (by decide)) (by assumption)

theorem State.dropHeads_only {L : List Part} {s0 s : State} {x2}
    (hL : [.wra, .regs 28] ⊆ L) (h : Only L s0 s) :
    Only L s0 (State.dropHeads s x2) := by
  unfold State.dropHeads
  refine Only.foldl _ ?_ (fun s _ h => ?_)
  · exact State.wr_only (Part.sub hL (by decide)) (by assumption)
  · exact State.setChan_only (Part.sub hL (by decide)) (by assumption)

theorem State.pacRetry_only {L : List Part} {s0 s : State} {x2}
    (hL : [.out, .host, .sq, .obj, .life, .tape, .disk, .wra, .trc, .grp, .red, .regs 0, .regs 4, .regs 8,
      .regs 16, .regs 28, .regs 49] ⊆ L) (h : Only L s0 s) :
    Only L s0 (State.pacRetry s x2) := by
  unfold State.pacRetry
  extract_lets n1 s2
  have hs2 : Only L s0 s2 := by
    unfold s2
    refine State.releaseGates_only (Part.sub hL (by decide)) ?_
    exact State.setActWra_only (Part.sub hL (by decide)) (by assumption)
  clear_value s2
  refine Only.ite ?_ ?_
  · assumption
  · refine Only.ite ?_ ?_
    · refine State.emit_only (Part.sub hL (by decide)) ?_
      exact State.setActWra_only (Part.sub hL (by decide)) (by assumption)
    · refine Only.ite ?_ ?_
      · refine State.loadBus_only (Part.sub hL (by decide)) ?_
        refine State.dropHeads_only (Part.sub hL (by decide)) ?_
        exact State.sendPac_only (Part.sub hL (by decide)) (by assumption)
      · exact State.busFailed_only (Part.sub hL (by decide)) (by assumption)

theorem State.readPac_only {L : List Part} {s0 s : State} {x2 x3 x4 x5}
    (hL : [.out, .wra] ⊆ L) (h : Only L s0 s) :
    Only L s0 (State.readPac s x2 x3 x4 x5) := by
  unfold State.readPac
  refine State.emit_only (Part.sub hL (by decide)) ?_
  exact State.sendPac_only (Part.sub hL (by decide)) (by assumption)

end Sys2Proof.Machine
end

