-- ==== Sys2Proof/Laws/OnlyRamp.lean ====
section
/-!
SUPPORT. The parts of the state that an operation of Machine/Ramp.lean may change (Laws/Only.lean).
-/

set_option Elab.async false

namespace Sys2Proof.Machine

theorem State.setCtl_only {L : List Part} {s0 s : State} {x2}
    (hL : [.ctl] ⊆ L) (h : Only L s0 s) :
    Only L s0 (State.setCtl s x2) := by
  unfold State.setCtl
  refine Only.updCtl (Part.sub hL (by decide)) ?_
  assumption

theorem State.setSlotOf_only {L : List Part} {s0 s : State} {x2 x3}
    (hL : [.ctl] ⊆ L) (h : Only L s0 s) :
    Only L s0 (State.setSlotOf s x2 x3) := by
  unfold State.setSlotOf
  extract_lets n1
  exact State.setCtl_only (Part.sub hL (by decide)) (by assumption)

theorem State.setRampTarget_only {L : List Part} {s0 s : State} {x2 x3}
    (hL : [.ctl, .regs 32] ⊆ L) (h : Only L s0 s) :
    Only L s0 (State.setRampTarget s x2 x3) := by
  unfold State.setRampTarget
  extract_lets n1 s2 n3
  have hs2 : Only L s0 s2 := by
    unfold s2
    refine State.wri_only (Part.sub hL (by decide)) ?_
    exact State.wri_only (Part.sub hL (by decide)) (by assumption)
  clear_value s2
  exact State.setSlotOf_only (Part.sub hL (by decide)) (by assumption)

theorem State.setRampMode_only {L : List Part} {s0 s : State} {x2 x3}
    (hL : [.ctl, .regs 32] ⊆ L) (h : Only L s0 s) :
    Only L s0 (State.setRampMode s x2 x3) := by
  unfold State.setRampMode
  extract_lets n1
  refine Only.ite ?_ ?_
  · assumption
  · refine State.setSlotOf_only (Part.sub hL (by decide)) ?_
    exact State.wri_only (Part.sub hL (by decide)) (by assumption)

theorem State.setMot_only {L : List Part} {s0 s : State} {x2}
    (hL : [.mot] ⊆ L) (h : Only L s0 s) :
    Only L s0 (State.setMot s x2) := by
  unfold State.setMot
  refine Only.updMot (Part.sub hL (by decide)) ?_
  assumption

theorem State.tapeRamp_only {L : List Part} {s0 s : State} {x2}
    (hL : [.ctl, .regs 32] ⊆ L) (h : Only L s0 s) :
    Only L s0 (State.tapeRamp s x2) := by
  unfold State.tapeRamp
  refine Only.foldl _ ?_ (fun s _ h => ?_)
  · assumption
  · extract_lets s1 s2
    have hs1 : Only L s0 s1 := by
      unfold s1
      exact State.setRampMode_only (Part.sub hL (by decide)) (by assumption)
    clear_value s1
    have hs2 : Only L s0 s2 := by
      unfold s2
      refine Only.ite ?_ ?_
      · assumption
      · exact State.wri_only (Part.sub hL (by decide)) (by assumption)
    clear_value s2
    refine State.setRampTarget_only (Part.sub hL (by decide)) ?_
    exact State.wri_only (Part.sub hL (by decide)) (by assumption)

theorem State.assignSlots_only {L : List Part} {s0 s : State} {x2}
    (hL : [.regs 32] ⊆ L) (h : Only L s0 s) :
    Only L s0 (State.assignSlots s x2) := by
  unfold State.assignSlots
  refine Only.foldl _ ?_ (fun s _ h => ?_)
  · assumption
  · refine State.wri_only (Part.sub hL (by decide)) ?_
    exact State.wri_only (Part.sub hL (by decide)) (by assumption)

theorem State.sendMdrv_only {L : List Part} {s0 s : State} {x2 x3 x4}
    (hL : [.out, .ctl] ⊆ L) (h : Only L s0 s) :
    Only L s0 (State.sendMdrv s x2 x3 x4) := by
  unfold State.sendMdrv
  extract_lets n1 n2
  refine State.emit_only (Part.sub hL (by decide)) ?_
  exact State.setCtl_only (Part.sub hL (by decide)) (by assumption)

theorem State.reportDrive_only {L : List Part} {s0 s : State} {x2 x3}
    (hL : [.pwr] ⊆ L) (h : Only L s0 s) :
    Only L s0 (State.reportDrive s x2 x3) := by
  unfold State.reportDrive
  extract_lets n1
  refine Only.updPwr (Part.sub hL (by decide)) ?_
  assumption

theorem State.disableSlot_only {L : List Part} {s0 s : State} {x2}
    (hL : [.pwr, .regs 32] ⊆ L) (h : Only L s0 s) :
    Only L s0 (State.disableSlot s x2) := by
  unfold State.disableSlot
  refine State.reportDrive_only (Part.sub hL (by decide)) ?_
  refine State.wri_only (Part.sub hL (by decide)) ?_
  exact State.wri_only (Part.sub hL (by decide)) (by assumption)

theorem State.enableLane_only {L : List Part} {s0 s : State} {x2 x3}
    (hL : [.out, .ctl] ⊆ L) (h : Only L s0 s) :
    Only L s0 (State.enableLane s x2 x3) := by
  unfold State.enableLane
  extract_lets n1
  refine State.sendMdrv_only (Part.sub hL (by decide)) ?_
  exact State.setCtl_only (Part.sub hL (by decide)) (by assumption)

theorem State.slotFlag_only {L : List Part} {s0 s : State} {x2 x3}
    (hL : [.trc, .regs 32, .regs 49] ⊆ L) (h : Only L s0 s) :
    Only L s0 (State.slotFlag s x2 x3) := by
  have hf : [Part.regs ((slotFlagFields[x3]?).getD F.CTL_SLOT_FLAGS_ACC_SAT).block] ⊆ L := by
    have : ((slotFlagFields[x3]?).getD F.CTL_SLOT_FLAGS_ACC_SAT).block = 32 := by
      by_cases hx : x3 < 10
      · interval_cases x3 <;> rfl
      · rw [List.getElem?_eq_none (by simpa [slotFlagFields] using hx)]; rfl
    rw [this]
    exact Part.sub hL (by decide)
  unfold State.slotFlag
  extract_lets n1 n2 s3
  have hs3 : Only L s0 s3 := State.wr_only (Part.sub hL (by decide)) (State.wri_only hf h)
  clear_value s3
  exact Only.ite (State.trcTrigger_only (Part.sub hL (by decide)) hs3) hs3

theorem State.enableSlot_only {L : List Part} {s0 s : State} {x2}
    (hL : [.ctl, .regs 32] ⊆ L) (h : Only L s0 s) :
    Only L s0 (State.enableSlot s x2) := by
  unfold State.enableSlot
  extract_lets s1 s2 s3 n4
  have hs1 : Only L s0 s1 := by
    unfold s1
    refine State.wri_only (Part.sub hL (by decide)) ?_
    exact State.wri_only (Part.sub hL (by decide)) (by assumption)
  clear_value s1
  have hs2 : Only L s0 s2 := by
    unfold s2
    refine State.wri_only (Part.sub hL (by decide)) ?_
    exact State.wri_only (Part.sub hL (by decide)) (by assumption)
  clear_value s2
  have hs3 : Only L s0 s3 := by
    unfold s3
    exact State.wri_only (Part.sub hL (by decide)) (by assumption)
  clear_value s3
  exact State.setSlotOf_only (Part.sub hL (by decide)) (by assumption)

theorem State.tapeRun_only {L : List Part} {s0 s : State} {x2}
    (hL : [.ctl, .regs 32] ⊆ L) (h : Only L s0 s) :
    Only L s0 (State.tapeRun s x2) := by
  unfold State.tapeRun
  exact State.tapeRamp_only (Part.sub hL (by decide)) (by assumption)

theorem State.reelLimits_only {L : List Part} {s0 s : State} {x2}
    (hL : [.regs 32] ⊆ L) (h : Only L s0 s) :
    Only L s0 (State.reelLimits s x2) := by
  unfold State.reelLimits
  refine Only.foldl _ ?_ (fun s _ h => ?_)
  · assumption
  · extract_lets s1
    have hs1 : Only L s0 s1 := by
      unfold s1
      exact State.wri_only (Part.sub hL (by decide)) (by assumption)
    clear_value s1
    refine Only.ite ?_ ?_
    · assumption
    · exact State.wri_only (Part.sub hL (by decide)) (by assumption)

theorem State.tapeBrake_only {L : List Part} {s0 s : State}
    (hL : [.out, .mot, .ctl, .pwr, .regs 32] ⊆ L) (h : Only L s0 s) :
    Only L s0 (State.tapeBrake s) := by
  unfold State.tapeBrake
  extract_lets s1 s2 n3
  have hs1 : Only L s0 s1 := by
    unfold s1
    refine State.sendMdrv_only (Part.sub hL (by decide)) ?_
    exact State.sendMdrv_only (Part.sub hL (by decide)) (by assumption)
  clear_value s1
  have hs2 : Only L s0 s2 := by
    unfold s2
    refine State.disableSlot_only (Part.sub hL (by decide)) ?_
    exact State.disableSlot_only (Part.sub hL (by decide)) (by assumption)
  clear_value s2
  exact State.setMot_only (Part.sub hL (by decide)) (by assumption)

theorem State.slotFlagIf_only {L : List Part} {s0 s : State} {x2 x3 x4}
    (hL : [.trc, .regs 32, .regs 49] ⊆ L) (h : Only L s0 s) :
    Only L s0 (State.slotFlagIf s x2 x3 x4) := by
  unfold State.slotFlagIf
  refine Only.ite ?_ ?_
  · exact State.slotFlag_only (Part.sub hL (by decide)) (by assumption)
  · assumption

end Sys2Proof.Machine
end

