-- ==== Sys2Proof/Laws/OnlyRings.lean ====
section
/-!
SUPPORT. The parts of the state that an operation of Machine/Rings.lean may change (Laws/Only.lean).
-/

set_option Elab.async false

namespace Sys2Proof.Machine

theorem State.setDet_only {L : List Part} {s0 s : State} {x2}
    (hL : [.det] ⊆ L) (h : Only L s0 s) :
    Only L s0 (State.setDet s x2) := by
  unfold State.setDet
  refine Only.updDet (Part.sub hL (by decide)) ?_
  assumption

theorem State.setLane_only {L : List Part} {s0 s : State} {x2 x3}
    (hL : [.det] ⊆ L) (h : Only L s0 s) :
    Only L s0 (State.setLane s x2 x3) := by
  unfold State.setLane
  extract_lets n1
  exact State.setDet_only (Part.sub hL (by decide)) (by assumption)

theorem State.setRingLevel_only {L : List Part} {s0 s : State} {x2 x3}
    (hL : [.det, .regs 20] ⊆ L) (h : Only L s0 s) :
    Only L s0 (State.setRingLevel s x2 x3) := by
  unfold State.setRingLevel
  extract_lets n1 s2 n3
  have hs2 : Only L s0 s2 := by
    unfold s2
    refine State.wri_only (Part.sub hL (by decide)) ?_
    exact State.setLane_only (Part.sub hL (by decide)) (by assumption)
  clear_value s2
  refine Only.ite ?_ ?_
  · assumption
  · refine State.wri_only (Part.sub hL (by decide)) ?_
    exact State.setLane_only (Part.sub hL (by decide)) (by assumption)

theorem State.freeSamples_only {L : List Part} {s0 s : State} {x2}
    (hL : [.det, .regs 20] ⊆ L) (h : Only L s0 s) :
    Only L s0 (State.freeSamples s x2) := by
  unfold State.freeSamples
  extract_lets n1
  refine Only.ite ?_ ?_
  · exact State.setDet_only (Part.sub hL (by decide)) (by assumption)
  · exact State.setRingLevel_only (Part.sub hL (by decide)) (by assumption)

theorem State.setCell_only {L : List Part} {s0 s : State} {x2 x3}
    (hL : [.det] ⊆ L) (h : Only L s0 s) :
    Only L s0 (State.setCell s x2 x3) := by
  unfold State.setCell
  extract_lets n1
  exact State.setDet_only (Part.sub hL (by decide)) (by assumption)

theorem State.markSpilled_only {L : List Part} {s0 s : State} {x2}
    (hL : [.det] ⊆ L) (h : Only L s0 s) :
    Only L s0 (State.markSpilled s x2) := by
  unfold State.markSpilled
  extract_lets n1 n2
  exact State.setDet_only (Part.sub hL (by decide)) (by assumption)

theorem State.spillOne_only {L : List Part} {s0 s : State} {x2}
    (hL : [.det, .regs 20] ⊆ L) (h : Only L s0 s) :
    Only.Opt L s0 (State.spillOne s x2) := by
  unfold State.spillOne
  split
  · exact Only.none
  · extract_lets s1 n2 s3
    have hs1 : Only L s0 s1 := by
      unfold s1
      exact State.markSpilled_only (Part.sub hL (by decide)) (by assumption)
    clear_value s1
    have hs3 : Only L s0 s3 := by
      unfold s3
      exact State.setDet_only (Part.sub hL (by decide)) (by assumption)
    clear_value s3
    refine Only.iteOpt ?_ ?_
    · exact Only.none
    · refine Only.some ?_
      refine State.inci_only (Part.sub hL (by decide)) ?_
      exact State.setRingLevel_only (Part.sub hL (by decide)) (by assumption)

end Sys2Proof.Machine
end

