-- ==== Sys2Proof/Laws/OnlyLane.lean ====
section
/-!
SUPPORT. The parts of the state that an operation of Machine/Lane.lean may change (Laws/Only.lean).
-/

set_option Elab.async false

namespace Sys2Proof.Machine

theorem State.setAct_only {L : List Part} {s0 s : State} {x2 x3}
    (hL : [.ctl] ⊆ L) (h : Only L s0 s) :
    Only L s0 (State.setAct s x2 x3) := by
  unfold State.setAct
  extract_lets n1
  refine Only.updCtl (Part.sub hL (by decide)) ?_
  assumption

theorem State.runLane_only {L : List Part} {s0 s : State} {x2 x3 x4}
    (hL : [.det, .regs 20] ⊆ L) (h : Only L s0 s) :
    Only.Pair L s0 (State.runLane s x2 x3 x4) := by
  unfold State.runLane
  extract_lets n1 n2 n3 n4 n5 n6 n7 n8 n9 n10 s11 s12
  have hs11 : Only L s0 s11 := by
    unfold s11
    exact State.setLane_only (Part.sub hL (by decide)) (by assumption)
  clear_value s11
  have hs12 : Only L s0 s12 := by
    unfold s12
    refine State.wri_only (Part.sub hL (by decide)) ?_
    exact State.wri_only (Part.sub hL (by decide)) (by assumption)
  clear_value s12
  refine Only.pair ?_
  exact State.wri_only (Part.sub hL (by decide)) (by assumption)

end Sys2Proof.Machine
end

