-- ==== Sys2Proof/Laws/OnlyTapeFormat.lean ====
section
/-!
SUPPORT. The parts of the state that an operation of Machine/TapeFormat.lean may change (Laws/Only.lean).
-/

set_option Elab.async false

namespace Sys2Proof.Machine

theorem State.setTape_only {L : List Part} {s0 s : State} {x2}
    (hL : [.tape] ⊆ L) (h : Only L s0 s) :
    Only L s0 (State.setTape s x2) := by
  unfold State.setTape
  refine Only.updTape (Part.sub hL (by decide)) ?_
  assumption

theorem State.addFrames_only {L : List Part} {s0 s : State} {x2}
    (hL : [.tape] ⊆ L) (h : Only L s0 s) :
    Only L s0 (State.addFrames s x2) := by
  unfold State.addFrames
  extract_lets n1
  exact State.setTape_only (Part.sub hL (by decide)) (by assumption)

theorem State.syncLevel_only {L : List Part} {s0 s : State}
    (hL : [.regs 32] ⊆ L) (h : Only L s0 s) :
    Only L s0 (State.syncLevel s) := by
  unfold State.syncLevel
  exact State.wr_only (Part.sub hL (by decide)) (by assumption)

theorem State.addSet_only {L : List Part} {s0 s : State} {x2}
    (hL : [.tape, .regs 32] ⊆ L) (h : Only L s0 s) :
    Only L s0 (State.addSet s x2) := by
  unfold State.addSet
  extract_lets n1
  refine State.syncLevel_only (Part.sub hL (by decide)) ?_
  exact State.setTape_only (Part.sub hL (by decide)) (by assumption)

theorem State.addIndex_only {L : List Part} {s0 s : State} {x2}
    (hL : [.tape, .regs 32] ⊆ L) (h : Only L s0 s) :
    Only L s0 (State.addIndex s x2) := by
  unfold State.addIndex
  extract_lets n1 n2 n3 n4 n5 n6 n7 n8 s9 n10
  have hs9 : Only L s0 s9 := by
    unfold s9
    exact State.setTape_only (Part.sub hL (by decide)) (by assumption)
  clear_value s9
  exact State.addSet_only (Part.sub hL (by decide)) (by assumption)

theorem State.closeSet_only {L : List Part} {s0 s : State}
    (hL : [.tape, .mot, .regs 32] ⊆ L) (h : Only L s0 s) :
    Only L s0 (State.closeSet s) := by
  unfold State.closeSet
  split
  · assumption
  · extract_lets n1 n2 s3
    have hs3 : Only L s0 s3 := by
      unfold s3
      refine Only.updMot (Part.sub hL (by decide)) ?_
      assumption
    clear_value s3
    refine Only.ite ?_ ?_
    · assumption
    · refine State.syncLevel_only (Part.sub hL (by decide)) ?_
      exact State.setTape_only (Part.sub hL (by decide)) (by assumption)

theorem State.openSet_only {L : List Part} {s0 s : State}
    (hL : [.tape, .regs 16] ⊆ L) (h : Only L s0 s) :
    Only L s0 (State.openSet s) := by
  unfold State.openSet
  extract_lets n1 n2 s3
  have hs3 : Only L s0 s3 := by
    unfold s3
    exact State.setTape_only (Part.sub hL (by decide)) (by assumption)
  clear_value s3
  exact State.wr_only (Part.sub hL (by decide)) (by assumption)

theorem State.placeUnit_only {L : List Part} {s0 s : State} {x2}
    (hL : [.tape, .mot, .regs 16, .regs 32] ⊆ L) (h : Only L s0 s) :
    Only.Pair L s0 (State.placeUnit s x2) := by
  unfold State.placeUnit
  extract_lets s1 s2
  have hs1 : Only L s0 s1 := by
    unfold s1
    split
    · exact State.openSet_only (Part.sub hL (by decide)) (by assumption)
    · refine Only.ite ?_ ?_
      · assumption
      · exact State.closeSet_only (Part.sub hL (by decide)) (by assumption)
  clear_value s1
  have hs2 : Only L s0 s2 := by
    unfold s2
    split
    · exact State.openSet_only (Part.sub hL (by decide)) (by assumption)
    · assumption
  clear_value s2
  split
  · refine Only.pair ?_
    assumption
  · extract_lets s3
    have hs3 : Only L s0 s3 := by
      unfold s3
      exact State.setTape_only (Part.sub hL (by decide)) (by assumption)
    clear_value s3
    refine Only.itePair ?_ ?_
    · refine Only.pair ?_
      assumption
    · refine Only.pair ?_
      refine Only.ite ?_ ?_
      · exact State.closeSet_only (Part.sub hL (by decide)) (by assumption)
      · assumption

theorem State.pumpGather_only {L : List Part} {s0 s : State} {x1}
    (hL : [.obj, .tape, .mot, .regs 16, .regs 32] ⊆ L) (h : Only L s0 s) :
    Only L s0 (State.pumpGather x1 s) := by
  induction x1 generalizing s with
  | zero =>
    rw [State.pumpGather]
    assumption
  | succ n ih =>
    rw [State.pumpGather]
    split
    · assumption
    · split
      · extract_lets n1 s2 n3
        have hs2 : Only L s0 s2 := by
          unfold s2
          refine Only.updObj (Part.sub hL (by decide)) ?_
          refine Only.of_eq ?_ (by assumption)
          exact State.placeUnit_only (Part.sub hL (by decide)) (by assumption)
        clear_value s2
        refine ih ?_
        exact State.setTape_only (Part.sub hL (by decide)) (by assumption)
      · refine Only.of_eq ?_ (by assumption)
        exact State.placeUnit_only (Part.sub hL (by decide)) (by assumption)

theorem State.tapeTake_only {L : List Part} {s0 s : State} {x2}
    (hL : [.obj, .tape, .mot, .regs 16, .regs 32] ⊆ L) (h : Only L s0 s) :
    Only L s0 (State.tapeTake s x2) := by
  unfold State.tapeTake
  extract_lets n1 s2
  have hs2 : Only L s0 s2 := by
    unfold s2
    exact State.setTape_only (Part.sub hL (by decide)) (by assumption)
  clear_value s2
  exact State.pumpGather_only (Part.sub hL (by decide)) (by assumption)

theorem State.failSlots_only {L : List Part} {s0 s : State} {x2}
    (hL : [.tape, .det, .regs 20] ⊆ L) (h : Only L s0 s) :
    Only L s0 (State.failSlots s x2) := by
  unfold State.failSlots
  extract_lets n1 n2 n3 s4 n5 s6
  have hs4 : Only L s0 s4 := by
    unfold s4
    exact State.setTape_only (Part.sub hL (by decide)) (by assumption)
  clear_value s4
  have hs6 : Only L s0 s6 := by
    unfold s6
    exact State.setDet_only (Part.sub hL (by decide)) (by assumption)
  clear_value s6
  refine Only.foldl _ ?_ (fun s _ h => ?_)
  · assumption
  · exact State.freeSamples_only (Part.sub hL (by decide)) (by assumption)

theorem State.endTapeCmds_only {L : List Part} {s0 s : State} {x2 x3}
    (hL : [.out, .host, .sq, .obj, .life, .tape, .disk, .trc, .grp, .red, .regs 0, .regs 4, .regs 8, .regs 32,
      .regs 49] ⊆ L) (h : Only L s0 s) :
    Only L s0 (State.endTapeCmds s x2 x3) := by
  unfold State.endTapeCmds
  extract_lets n1 n2 s3 n4
  have hs3 : Only L s0 s3 := by
    unfold s3
    refine Only.foldl _ ?_ (fun s _ h => ?_)
    · assumption
    · refine State.fail_only (Part.sub hL (by decide)) ?_
      exact State.discardWork_only (Part.sub hL (by decide)) (by assumption)
  clear_value s3
  refine State.syncLevel_only (Part.sub hL (by decide)) ?_
  exact State.setTape_only (Part.sub hL (by decide)) (by assumption)

theorem State.failWriting_only {L : List Part} {s0 s : State} {x2}
    (hL : [.out, .host, .sq, .obj, .life, .tape, .disk, .medium, .wra, .trc, .grp, .red, .regs 0, .regs 4,
      .regs 8, .regs 16, .regs 32, .regs 49] ⊆ L) (h : Only L s0 s) :
    Only L s0 (State.failWriting s x2) := by
  unfold State.failWriting
  extract_lets s1 n2 n3 s4 s5
  have hs1 : Only L s0 s1 := by
    unfold s1
    refine State.wr_only (Part.sub hL (by decide)) ?_
    exact State.wr_only (Part.sub hL (by decide)) (by assumption)
  clear_value s1
  have hs4 : Only L s0 s4 := by
    unfold s4
    refine Only.upd [.medium, .wra] (Part.sub hL (by decide)) ?_ (fun p hp => by
      cases p <;> first | rfl | exact fun _ _ _ _ _ => rfl | exact absurd (by decide) hp)
    assumption
  clear_value s4
  have hs5 : Only L s0 s5 := by
    unfold s5
    exact State.raise_only (Part.sub hL (by decide)) (by assumption)
  clear_value s5
  refine Only.ite ?_ ?_
  · assumption
  · exact State.endTapeCmds_only (Part.sub hL (by decide)) (by assumption)

theorem State.reissue_only {L : List Part} {s0 s : State} {x2 x3 x4}
    (hL : [.out, .host, .sq, .obj, .life, .tape, .disk, .medium, .wra, .trc, .grp, .red, .regs 0, .regs 4,
      .regs 8, .regs 16, .regs 32, .regs 49] ⊆ L) (h : Only L s0 s) :
    Only L s0 (State.reissue s x2 x3 x4) := by
  unfold State.reissue
  split
  · assumption
  · extract_lets n1 n2 s3 s4 s5
    have hs3 : Only L s0 s3 := by
      unfold s3
      exact State.setTape_only (Part.sub hL (by decide)) (by assumption)
    clear_value s3
    have hs4 : Only L s0 s4 := by
      unfold s4
      exact State.setTape_only (Part.sub hL (by decide)) (by assumption)
    clear_value s4
    have hs5 : Only L s0 s5 := by
      unfold s5
      exact State.wr_only (Part.sub hL (by decide)) (by assumption)
    clear_value s5
    refine Only.ite ?_ ?_
    · assumption
    · refine Only.ite ?_ ?_
      · exact State.failWriting_only (Part.sub hL (by decide)) (by assumption)
      · refine Only.ite ?_ ?_
        · exact State.raise_only (Part.sub hL (by decide)) (by assumption)
        · assumption

theorem State.haltWriting_only {L : List Part} {s0 s : State} {x2 x3}
    (hL : [.out, .host, .sq, .obj, .life, .tape, .mot, .disk, .det, .medium, .wra, .ctl, .trc, .grp, .red,
      .pwr, .regs 0, .regs 4, .regs 8, .regs 16, .regs 20, .regs 28, .regs 32, .regs 49] ⊆ L) (h : Only L s0 s) :
    Only L s0 (State.haltWriting s x2 x3) := by
  unfold State.haltWriting
  extract_lets s1 n2 n3 s4 n5 n6 s7 s8 s9 s10
  have hs1 : Only L s0 s1 := by
    unfold s1
    refine State.wr_only (Part.sub hL (by decide)) ?_
    exact State.failSlots_only (Part.sub hL (by decide)) (by assumption)
  clear_value s1
  have hs4 : Only L s0 s4 := by
    unfold s4
    exact State.setTape_only (Part.sub hL (by decide)) (by assumption)
  clear_value s4
  have hs7 : Only L s0 s7 := by
    unfold s7
    refine Only.upd [.mot, .wra] (Part.sub hL (by decide)) ?_ (fun p hp => by
      cases p <;> first | rfl | exact fun _ _ _ _ _ => rfl | exact absurd (by decide) hp)
    assumption
  clear_value s7
  have hs8 : Only L s0 s8 := by
    unfold s8
    refine Only.ite ?_ ?_
    · assumption
    · exact State.wr_only (Part.sub hL (by decide)) (by assumption)
  clear_value s8
  have hs9 : Only L s0 s9 := by
    unfold s9
    refine State.inc_only (Part.sub hL (by decide)) ?_
    refine Only.foldl _ ?_ (fun s _ h => ?_)
    · assumption
    · exact State.reissue_only (Part.sub hL (by decide)) (by assumption)
  clear_value s9
  have hs10 : Only L s0 s10 := by
    unfold s10
    exact State.wr_only (Part.sub hL (by decide)) (by assumption)
  clear_value s10
  refine State.ask_only (Part.sub hL (by decide)) ?_
  exact State.tapeRamp_only (Part.sub hL (by decide)) (by assumption)

theorem State.switchPart_only {L : List Part} {s0 s : State} {x2}
    (hL : [.tape, .mot, .regs 16] ⊆ L) (h : Only L s0 s) :
    Only L s0 (State.switchPart s x2) := by
  unfold State.switchPart
  extract_lets n1 s2 s3 n4 n5
  have hs2 : Only L s0 s2 := by
    unfold s2
    exact State.setTape_only (Part.sub hL (by decide)) (by assumption)
  clear_value s2
  have hs3 : Only L s0 s3 := by
    unfold s3
    exact State.wr_only (Part.sub hL (by decide)) (by assumption)
  clear_value s3
  refine Only.ite ?_ ?_
  · assumption
  · refine Only.ite ?_ ?_
    · assumption
    · refine State.setMot_only (Part.sub hL (by decide)) ?_
      exact State.wr_only (Part.sub hL (by decide)) (by assumption)

theorem State.beginSet_only {L : List Part} {s0 s : State}
    (hL : [.tape, .mot, .regs 16, .regs 32] ⊆ L) (h : Only L s0 s) :
    Only L s0 (State.beginSet s) := by
  unfold State.beginSet
  split
  · assumption
  · extract_lets s1 n2 n3 n4 s5 n6 s7 s8 n9
    have hs1 : Only L s0 s1 := by
      unfold s1
      exact State.switchPart_only (Part.sub hL (by decide)) (by assumption)
    clear_value s1
    have hs5 : Only L s0 s5 := by
      unfold s5
      exact State.setTape_only (Part.sub hL (by decide)) (by assumption)
    clear_value s5
    have hs7 : Only L s0 s7 := by
      unfold s7
      exact State.setTape_only (Part.sub hL (by decide)) (by assumption)
    clear_value s7
    have hs8 : Only L s0 s8 := by
      unfold s8
      exact State.addFrames_only (Part.sub hL (by decide)) (by assumption)
    clear_value s8
    refine State.syncLevel_only (Part.sub hL (by decide)) ?_
    exact State.setTape_only (Part.sub hL (by decide)) (by assumption)

theorem State.disturbAt_only {L : List Part} {s0 s : State} {x2 x3}
    (hL : [.out, .host, .sq, .obj, .life, .tape, .mot, .disk, .det, .medium, .wra, .ctl, .trc, .grp, .red,
      .pwr, .regs 0, .regs 4, .regs 8, .regs 16, .regs 20, .regs 28, .regs 32, .regs 49] ⊆ L) (h : Only L s0 s) :
    Only L s0 (State.disturbAt s x2 x3) := by
  unfold State.disturbAt
  extract_lets n1 s2 n3 s4 s5
  have hs2 : Only L s0 s2 := by
    unfold s2
    refine State.wr_only (Part.sub hL (by decide)) ?_
    exact State.inc_only (Part.sub hL (by decide)) (by assumption)
  clear_value s2
  have hs4 : Only L s0 s4 := by
    unfold s4
    exact State.setTape_only (Part.sub hL (by decide)) (by assumption)
  clear_value s4
  have hs5 : Only L s0 s5 := by
    unfold s5
    refine State.raise_only (Part.sub hL (by decide)) ?_
    exact State.haltWriting_only (Part.sub hL (by decide)) (by assumption)
  clear_value s5
  refine Only.ite ?_ ?_
  · assumption
  · refine Only.ite ?_ ?_
    · exact State.failWriting_only (Part.sub hL (by decide)) (by assumption)
    · assumption

theorem State.disturb_only {L : List Part} {s0 s : State} {x2}
    (hL : [.out, .host, .sq, .obj, .life, .tape, .mot, .disk, .det, .medium, .wra, .ctl, .trc, .grp, .red,
      .pwr, .regs 0, .regs 4, .regs 8, .regs 16, .regs 20, .regs 28, .regs 32, .regs 49] ⊆ L) (h : Only L s0 s) :
    Only L s0 (State.disturb s x2) := by
  unfold State.disturb
  exact State.disturbAt_only (Part.sub hL (by decide)) (by assumption)

theorem State.countFrame_only {L : List Part} {s0 s : State} {x2}
    (hL : [.out, .host, .life, .trc, .regs 0, .regs 4, .regs 16, .regs 49] ⊆ L) (h : Only L s0 s) :
    Only L s0 (State.countFrame s x2) := by
  unfold State.countFrame
  extract_lets n1 s2
  have hs2 : Only L s0 s2 := by
    unfold s2
    refine State.lifeAdd_only (Part.sub hL (by decide)) ?_
    exact State.addi_only (Part.sub hL (by decide)) (by assumption)
  clear_value s2
  refine Only.ite ?_ ?_
  · exact State.inc_only (Part.sub hL (by decide)) (by assumption)
  · assumption

theorem State.markTrack_only {L : List Part} {s0 s : State} {x2 x3}
    (hL : [.out, .host, .sq, .obj, .life, .tape, .disk, .medium, .wra, .trc, .grp, .red, .regs 0, .regs 4,
      .regs 8, .regs 16, .regs 32, .regs 49] ⊆ L) (h : Only L s0 s) :
    Only L s0 (State.markTrack s x2 x3) := by
  unfold State.markTrack
  extract_lets n1 n2 s3 n4 n5 n6 n7 s8 s9
  have hs3 : Only L s0 s3 := by
    unfold s3
    exact State.setTape_only (Part.sub hL (by decide)) (by assumption)
  clear_value s3
  have b6 : [Part.regs n6.block] ⊆ L := by
    unfold n6
    split <;> exact Part.sub hL (by decide)
  have b7 : [Part.regs n7.block] ⊆ L := by
    unfold n7
    split <;> exact Part.sub hL (by decide)
  have hs8 : Only L s0 s8 := by
    unfold s8
    refine Only.ite ?_ ?_
    · refine State.raise_only (Part.sub hL (by decide)) ?_
      exact State.raiseBit_only b6 (by assumption)
    · refine Only.ite ?_ ?_
      · exact State.putBit_only b6 (by assumption)
      · assumption
  clear_value s8
  have hs9 : Only L s0 s9 := by
    unfold s9
    refine State.raise_only (Part.sub hL (by decide)) ?_
    refine State.wr_only (Part.sub hL (by decide)) ?_
    exact State.raiseBit_only b7 (by assumption)
  clear_value s9
  refine Only.ite ?_ ?_
  · refine Only.ite ?_ ?_
    · exact State.failWriting_only (Part.sub hL (by decide)) (by assumption)
    · assumption
  · assumption

theorem State.passFrontier_only {L : List Part} {s0 s : State} {x1}
    (hL : [.obj, .tape, .regs 16, .regs 32] ⊆ L) (h : Only L s0 s) :
    Only L s0 (State.passFrontier x1 s) := by
  induction x1 generalizing s with
  | zero =>
    rw [State.passFrontier]
    assumption
  | succ n ih =>
    rw [State.passFrontier]
    split
    · assumption
    · extract_lets n1 s2 s3 s4 n5 s6
      have hs2 : Only L s0 s2 := by
        unfold s2
        exact State.setTape_only (Part.sub hL (by decide)) (by assumption)
      clear_value s2
      have hs3 : Only L s0 s3 := by
        unfold s3
        refine Only.foldl _ ?_ (fun s _ h => ?_)
        · assumption
        · extract_lets n7 n8
          refine Only.ite ?_ ?_
          · assumption
          · exact State.setUnit_only (Part.sub hL (by decide)) (by assumption)
      clear_value s3
      have hs4 : Only L s0 s4 := by
        unfold s4
        exact State.wr_only (Part.sub hL (by decide)) (by assumption)
      clear_value s4
      have hs6 : Only L s0 s6 := by
        unfold s6
        refine Only.ite ?_ ?_
        · refine State.addIndex_only (Part.sub hL (by decide)) ?_
          exact State.setTape_only (Part.sub hL (by decide)) (by assumption)
        · refine Only.ite ?_ ?_
          · exact State.setTape_only (Part.sub hL (by decide)) (by assumption)
          · assumption
      clear_value s6
      refine Only.ite ?_ ?_
      · assumption
      · exact ih (by assumption)

theorem State.verifyPass_only {L : List Part} {s0 s : State} {x2}
    (hL : [.obj, .tape, .mot, .regs 16, .regs 32] ⊆ L) (h : Only L s0 s) :
    Only L s0 (State.verifyPass s x2) := by
  unfold State.verifyPass
  extract_lets s1 s2
  have hs1 : Only L s0 s1 := by
    unfold s1
    exact State.setTape_only (Part.sub hL (by decide)) (by assumption)
  clear_value s1
  have hs2 : Only L s0 s2 := by
    unfold s2
    exact State.passFrontier_only (Part.sub hL (by decide)) (by assumption)
  clear_value s2
  refine State.syncLevel_only (Part.sub hL (by decide)) ?_
  exact State.pumpGather_only (Part.sub hL (by decide)) (by assumption)

theorem State.verifyFail_only {L : List Part} {s0 s : State} {x2}
    (hL : [.out, .host, .sq, .obj, .life, .tape, .mot, .disk, .det, .medium, .wra, .ctl, .trc, .grp, .red,
      .pwr, .regs 0, .regs 4, .regs 8, .regs 16, .regs 20, .regs 28, .regs 32, .regs 49] ⊆ L) (h : Only L s0 s) :
    Only L s0 (State.verifyFail s x2) := by
  unfold State.verifyFail
  extract_lets n1 n2 s3 s4
  have hs3 : Only L s0 s3 := by
    unfold s3
    exact State.setTape_only (Part.sub hL (by decide)) (by assumption)
  clear_value s3
  have hs4 : Only L s0 s4 := by
    unfold s4
    split
    · assumption
    · extract_lets n5 s6 n7
      have hs6 : Only L s0 s6 := by
        unfold s6
        exact State.setTape_only (Part.sub hL (by decide)) (by assumption)
      clear_value s6
      refine Only.ite ?_ ?_
      · refine State.reissue_only (Part.sub hL (by decide)) ?_
        exact State.wr_only (Part.sub hL (by decide)) (by assumption)
      · exact State.setTape_only (Part.sub hL (by decide)) (by assumption)
  clear_value s4
  refine Only.ite ?_ ?_
  · exact State.disturbAt_only (Part.sub hL (by decide)) (by assumption)
  · assumption

theorem State.verifyDecide_only {L : List Part} {s0 s : State} {x2 x3 x4}
    (hL : [.out, .host, .sq, .obj, .life, .tape, .mot, .disk, .det, .medium, .wra, .ctl, .trc, .grp, .red,
      .pwr, .regs 0, .regs 4, .regs 8, .regs 16, .regs 20, .regs 28, .regs 32, .regs 49] ⊆ L) (h : Only L s0 s) :
    Only L s0 (State.verifyDecide s x2 x3 x4) := by
  unfold State.verifyDecide
  extract_lets n1 s2 s3 n4 s5
  have hs2 : Only L s0 s2 := by
    unfold s2
    exact State.setTape_only (Part.sub hL (by decide)) (by assumption)
  clear_value s2
  have hs3 : Only L s0 s3 := by
    unfold s3
    refine Only.ite ?_ ?_
    · exact State.wr_only (Part.sub hL (by decide)) (by assumption)
    · assumption
  clear_value s3
  have hs5 : Only L s0 s5 := by
    unfold s5
    exact State.markTrack_only (Part.sub hL (by decide)) (by assumption)
  clear_value s5
  refine Only.ite ?_ ?_
  · assumption
  · refine Only.ite ?_ ?_
    · assumption
    · refine Only.ite ?_ ?_
      · exact State.verifyPass_only (Part.sub hL (by decide)) (by assumption)
      · exact State.verifyFail_only (Part.sub hL (by decide)) (by assumption)

theorem State.interruptSet_only {L : List Part} {s0 s : State}
    (hL : [.out, .host, .life, .tape, .trc, .regs 0, .regs 4, .regs 49] ⊆ L) (h : Only L s0 s) :
    Only L s0 (State.interruptSet s) := by
  unfold State.interruptSet
  extract_lets n1 n2 n3
  refine State.raise_only (Part.sub hL (by decide)) ?_
  exact State.setTape_only (Part.sub hL (by decide)) (by assumption)

theorem State.passSlot_only {L : List Part} {s0 s : State}
    (hL : [.tape] ⊆ L) (h : Only L s0 s) :
    Only L s0 (State.passSlot s) := by
  unfold State.passSlot
  extract_lets n1
  exact State.setTape_only (Part.sub hL (by decide)) (by assumption)

theorem State.recordSlot_only {L : List Part} {s0 s : State} {x2 x3}
    (hL : [.out, .tape] ⊆ L) (h : Only L s0 s) :
    Only L s0 (State.recordSlot s x2 x3) := by
  unfold State.recordSlot
  extract_lets n1 n2 n3 n4 s5
  have hs5 : Only L s0 s5 := by
    unfold s5
    exact State.setTape_only (Part.sub hL (by decide)) (by assumption)
  clear_value s5
  refine Only.foldl _ ?_ (fun s _ h => ?_)
  · assumption
  · exact State.emit_only (Part.sub hL (by decide)) (by assumption)

theorem State.rewritePass_only {L : List Part} {s0 s : State} {x1 x2 x3 x5}
    (hL : [.out, .host, .sq, .obj, .life, .tape, .disk, .medium, .wra, .trc, .grp, .red, .regs 0, .regs 4,
      .regs 8, .regs 16, .regs 32, .regs 49] ⊆ L) (h : Only L s0 s) :
    Only.Pair L s0 (State.rewritePass x1 x2 x3 s x5) := by
  induction x3 generalizing x1 x2 s x5 with
  | nil =>
    rw [State.rewritePass]
    refine Only.pair ?_
    assumption
  | cons y l ih =>
    rw [State.rewritePass]
    extract_lets n1 s2
    have hs2 : Only L s0 s2 := by
      unfold s2
      exact State.setTape_only (Part.sub hL (by decide)) (by assumption)
    clear_value s2
    refine Only.itePair ?_ ?_
    · exact ih (by assumption)
    · refine Only.itePair ?_ ?_
      · refine ih ?_
        exact State.reissue_only (Part.sub hL (by decide)) (by assumption)
      · split
        · exact ih (by assumption)
        · extract_lets n3
          exact ih (by assumption)

theorem State.rewriteLoop_only {L : List Part} {s0 s : State} {x1 x2}
    (hL : [.out, .host, .sq, .obj, .life, .tape, .disk, .medium, .wra, .trc, .grp, .red, .regs 0, .regs 4,
      .regs 8, .regs 16, .regs 32, .regs 49] ⊆ L) (h : Only L s0 s) :
    Only L s0 (State.rewriteLoop x1 x2 s) := by
  induction x2 generalizing x1 s with
  | zero =>
    rw [State.rewriteLoop]
    assumption
  | succ n ih =>
    rw [State.rewriteLoop]
    split
    · assumption
    · extract_lets n1
      refine Only.ite ?_ ?_
      · split
        extract_lets n2
        refine Only.ite ?_ ?_
        · refine Only.of_eq ?_ (by assumption)
          exact State.rewritePass_only (Part.sub hL (by decide)) (by assumption)
        · refine ih ?_
          refine State.addFrames_only (Part.sub hL (by decide)) ?_
          refine Only.of_eq ?_ (by assumption)
          exact State.rewritePass_only (Part.sub hL (by decide)) (by assumption)
      · assumption

theorem State.writeReissues_only {L : List Part} {s0 s : State} {x2}
    (hL : [.tape] ⊆ L) (h : Only L s0 s) :
    Only L s0 (State.writeReissues s x2) := by
  unfold State.writeReissues
  extract_lets n1
  refine Only.foldl _ ?_ (fun s _ h => ?_)
  · assumption
  · extract_lets n2 s3
    have hs3 : Only L s0 s3 := by
      unfold s3
      exact State.setTape_only (Part.sub hL (by decide)) (by assumption)
    clear_value s3
    exact State.addFrames_only (Part.sub hL (by decide)) (by assumption)

theorem State.setBoundary_only {L : List Part} {s0 s : State}
    (hL : [.out, .host, .sq, .obj, .life, .tape, .mot, .disk, .medium, .wra, .trc, .grp, .red, .regs 0,
      .regs 4, .regs 8, .regs 16, .regs 32, .regs 49] ⊆ L) (h : Only L s0 s) :
    Only L s0 (State.setBoundary s) := by
  unfold State.setBoundary
  extract_lets n1 n2 n3 n4 s5 s6
  have hs5 : Only L s0 s5 := by
    unfold s5
    exact State.rewriteLoop_only (Part.sub hL (by decide)) (by assumption)
  clear_value s5
  have hs6 : Only L s0 s6 := by
    unfold s6
    refine Only.ite ?_ ?_
    · assumption
    · exact State.writeReissues_only (Part.sub hL (by decide)) (by assumption)
  clear_value s6
  refine Only.ite ?_ ?_
  · assumption
  · refine Only.ite ?_ ?_
    · assumption
    · exact State.beginSet_only (Part.sub hL (by decide)) (by assumption)

theorem State.writeFrame_only {L : List Part} {s0 s : State}
    (hL : [.out, .host, .life, .tape, .trc, .regs 0, .regs 4, .regs 16, .regs 49] ⊆ L) (h : Only L s0 s) :
    Only L s0 (State.writeFrame s) := by
  unfold State.writeFrame
  split
  · assumption
  · extract_lets n1 n2 n3 n4 s5 s6 s7
    have hs5 : Only L s0 s5 := by
      unfold s5
      exact State.setTape_only (Part.sub hL (by decide)) (by assumption)
    clear_value s5
    have hs6 : Only L s0 s6 := by
      unfold s6
      refine State.countFrame_only (Part.sub hL (by decide)) ?_
      exact State.recordSlot_only (Part.sub hL (by decide)) (by assumption)
    clear_value s6
    have hs7 : Only L s0 s7 := by
      unfold s7
      refine State.add64_only (Part.sub hL (by decide)) ?_
      exact State.wr_only (Part.sub hL (by decide)) (by assumption)
    clear_value s7
    exact State.lifeAdd_only (Part.sub hL (by decide)) (by assumption)

theorem execDataSetCloseTimeout_only {L : List Part} {s0 s : State}
    (hL : [.tape, .mot, .regs 32] ⊆ L) (h : Only L s0 s) :
    Only.Out L s0 (execDataSetCloseTimeout s) := by
  unfold execDataSetCloseTimeout
  refine Only.next ?_
  exact State.closeSet_only (Part.sub hL (by decide)) (by assumption)

theorem execDataSetBegin_only {L : List Part} {s0 s : State}
    (hL : [.out, .host, .sq, .obj, .life, .tape, .mot, .disk, .medium, .wra, .trc, .grp, .red, .regs 0,
      .regs 4, .regs 8, .regs 16, .regs 32, .regs 49] ⊆ L) (h : Only L s0 s) :
    Only.Out L s0 (execDataSetBegin s) := by
  unfold execDataSetBegin
  refine Only.next ?_
  exact State.setBoundary_only (Part.sub hL (by decide)) (by assumption)

end Sys2Proof.Machine
end

