-- ==== Sys2Proof/Laws/OnlyTapeMotion.lean ====
section
/-!
SUPPORT. The parts of the state that an operation of Machine/TapeMotion.lean may change (Laws/Only.lean).
-/

set_option Elab.async false

namespace Sys2Proof.Machine

theorem State.rewindTape_only {L : List Part} {s0 s : State}
    (hL : [.mot, .ctl, .regs 32] ⊆ L) (h : Only L s0 s) :
    Only L s0 (State.rewindTape s) := by
  unfold State.rewindTape
  extract_lets n1 s2
  have hs2 : Only L s0 s2 := by
    unfold s2
    exact State.setMot_only (Part.sub hL (by decide)) (by assumption)
  clear_value s2
  refine Only.ite ?_ ?_
  · assumption
  · refine State.tapeRamp_only (Part.sub hL (by decide)) ?_
    exact State.wr_only (Part.sub hL (by decide)) (by assumption)

theorem State.advanceStop_only {L : List Part} {s0 s : State}
    (hL : [.tape, .mot, .ctl, .regs 32] ⊆ L) (h : Only L s0 s) :
    Only L s0 (State.advanceStop s) := by
  unfold State.advanceStop
  extract_lets s1 n2 n3 n4
  have hs1 : Only L s0 s1 := by
    unfold s1
    exact State.closeSet_only (Part.sub hL (by decide)) (by assumption)
  clear_value s1
  refine Only.ite ?_ ?_
  · assumption
  · refine Only.ite ?_ ?_
    · refine Only.ite ?_ ?_
      · exact State.rewindTape_only (Part.sub hL (by decide)) (by assumption)
      · assumption
    · refine Only.ite ?_ ?_
      · assumption
      · refine Only.ite ?_ ?_
        · refine Only.ite ?_ ?_
          · assumption
          · refine Only.ite ?_ ?_
            · refine State.addSet_only (Part.sub hL (by decide)) ?_
              exact State.setTape_only (Part.sub hL (by decide)) (by assumption)
            · refine State.rewindTape_only (Part.sub hL (by decide)) ?_
              exact State.setTape_only (Part.sub hL (by decide)) (by assumption)
        · refine Only.ite ?_ ?_
          · exact State.rewindTape_only (Part.sub hL (by decide)) (by assumption)
          · assumption

theorem State.consumeSets_only {L : List Part} {s0 s : State} {x2}
    (hL : [.tape, .pwr, .regs 32] ⊆ L) (h : Only L s0 s) :
    Only L s0 (State.consumeSets s x2) := by
  unfold State.consumeSets
  extract_lets n1 n2 s3
  have hs3 : Only L s0 s3 := by
    unfold s3
    refine State.syncLevel_only (Part.sub hL (by decide)) ?_
    exact State.setTape_only (Part.sub hL (by decide)) (by assumption)
  clear_value s3
  refine Only.ite ?_ ?_
  · exact State.ask_only (Part.sub hL (by decide)) (by assumption)
  · assumption

theorem State.stopTape_only {L : List Part} {s0 s : State}
    (hL : [.mot, .ctl, .pwr, .regs 32] ⊆ L) (h : Only L s0 s) :
    Only L s0 (State.stopTape s) := by
  unfold State.stopTape
  extract_lets n1 s2 s3
  have hs2 : Only L s0 s2 := by
    unfold s2
    exact State.setMot_only (Part.sub hL (by decide)) (by assumption)
  clear_value s2
  have hs3 : Only L s0 s3 := by
    unfold s3
    exact State.wr_only (Part.sub hL (by decide)) (by assumption)
  clear_value s3
  refine State.ask_only (Part.sub hL (by decide)) ?_
  exact State.tapeRamp_only (Part.sub hL (by decide)) (by assumption)

theorem State.readSet_only {L : List Part} {s0 s : State} {x2}
    (hL : [.tape, .mot, .ctl, .pwr, .regs 32] ⊆ L) (h : Only L s0 s) :
    Only L s0 (State.readSet s x2) := by
  unfold State.readSet
  extract_lets n1 s2 n3 s4
  have hs2 : Only L s0 s2 := by
    unfold s2
    exact State.setTape_only (Part.sub hL (by decide)) (by assumption)
  clear_value s2
  have hs4 : Only L s0 s4 := by
    unfold s4
    refine State.syncLevel_only (Part.sub hL (by decide)) ?_
    exact State.setTape_only (Part.sub hL (by decide)) (by assumption)
  clear_value s4
  refine Only.ite ?_ ?_
  · assumption
  · refine Only.ite ?_ ?_
    · exact State.stopTape_only (Part.sub hL (by decide)) (by assumption)
    · assumption

theorem State.seekSet_only {L : List Part} {s0 s : State} {x2 x3}
    (hL : [.mot, .pwr] ⊆ L) (h : Only L s0 s) :
    Only L s0 (State.seekSet s x2 x3) := by
  unfold State.seekSet
  extract_lets n1 n2
  split
  · assumption
  · refine Only.ite ?_ ?_
    · assumption
    · refine State.ask_only (Part.sub hL (by decide)) ?_
      exact State.setMot_only (Part.sub hL (by decide)) (by assumption)

theorem State.diskFaulted_only {L : List Part} {s0 s : State}
    (hL : [.out, .host, .sq, .life, .mot, .medium, .trc, .grp, .regs 0, .regs 4, .regs 8, .regs 49] ⊆ L) (h : Only L s0 s) :
    Only L s0 (State.diskFaulted s) := by
  unfold State.diskFaulted
  extract_lets n1 s2 s3 n4 n5 s6 s7 n8
  have hs2 : Only L s0 s2 := by
    unfold s2
    refine State.endMedia_only (Part.sub hL (by decide)) ?_
    refine State.endMedia_only (Part.sub hL (by decide)) ?_
    exact State.endMedia_only (Part.sub hL (by decide)) (by assumption)
  clear_value s2
  have hs3 : Only L s0 s3 := by
    unfold s3
    refine Only.ite ?_ ?_
    · exact State.endMedia_only (Part.sub hL (by decide)) (by assumption)
    · assumption
  clear_value s3
  have hs6 : Only L s0 s6 := by
    unfold s6
    exact State.setMot_only (Part.sub hL (by decide)) (by assumption)
  clear_value s6
  have hs7 : Only L s0 s7 := by
    unfold s7
    exact State.setMedium_only (Part.sub hL (by decide)) (by assumption)
  clear_value s7
  refine Only.updMedium (Part.sub hL (by decide)) ?_
  assumption

theorem State.endReading_only {L : List Part} {s0 s : State}
    (hL : [.mot, .pwr, .regs 32] ⊆ L) (h : Only L s0 s) :
    Only L s0 (State.endReading s) := by
  unfold State.endReading
  extract_lets n1
  refine Only.ite ?_ ?_
  · refine State.syncLevel_only (Part.sub hL (by decide)) ?_
    refine State.unask_only (Part.sub hL (by decide)) ?_
    exact State.setMot_only (Part.sub hL (by decide)) (by assumption)
  · assumption

theorem State.tapeReacquire_only {L : List Part} {s0 s : State} {x2}
    (hL : [.out, .host, .sq, .obj, .life, .tape, .mot, .disk, .det, .medium, .wra, .ctl, .trc, .grp, .red,
      .pwr, .regs 0, .regs 4, .regs 8, .regs 16, .regs 20, .regs 28, .regs 32, .regs 49] ⊆ L) (h : Only L s0 s) :
    Only L s0 (State.tapeReacquire s x2) := by
  unfold State.tapeReacquire
  extract_lets s1 s2 n3 s4
  have hs1 : Only L s0 s1 := by
    unfold s1
    exact State.disturb_only (Part.sub hL (by decide)) (by assumption)
  clear_value s1
  have hs2 : Only L s0 s2 := by
    unfold s2
    refine State.raise_only (Part.sub hL (by decide)) ?_
    exact State.raiseBit_only (Part.sub hL (by decide)) (by assumption)
  clear_value s2
  have hs4 : Only L s0 s4 := by
    unfold s4
    exact State.setMot_only (Part.sub hL (by decide)) (by assumption)
  clear_value s4
  exact State.tapeRamp_only (Part.sub hL (by decide)) (by assumption)

theorem State.sessionAt_only {L : List Part} {s0 s : State} {x2 x3 x4}
    (hL : [.tape, .regs 16] ⊆ L) (h : Only L s0 s) :
    Only L s0 (State.sessionAt s x2 x3 x4) := by
  unfold State.sessionAt
  extract_lets n1 s2
  have hs2 : Only L s0 s2 := by
    unfold s2
    exact State.setTape_only (Part.sub hL (by decide)) (by assumption)
  clear_value s2
  refine State.wr_only (Part.sub hL (by decide)) ?_
  exact State.wr_only (Part.sub hL (by decide)) (by assumption)

theorem State.findEnd_only {L : List Part} {s0 s : State}
    (hL : [.tape, .regs 16] ⊆ L) (h : Only L s0 s) :
    Only L s0 (State.findEnd s) := by
  unfold State.findEnd
  extract_lets n1 n2 n3 n4 n5
  split
  · exact State.sessionAt_only (Part.sub hL (by decide)) (by assumption)
  · exact State.sessionAt_only (Part.sub hL (by decide)) (by assumption)

theorem State.forwardTape_only {L : List Part} {s0 s : State} {x2}
    (hL : [.mot, .ctl, .regs 32] ⊆ L) (h : Only L s0 s) :
    Only L s0 (State.forwardTape s x2) := by
  unfold State.forwardTape
  extract_lets n1 s2
  have hs2 : Only L s0 s2 := by
    unfold s2
    exact State.setMot_only (Part.sub hL (by decide)) (by assumption)
  clear_value s2
  refine State.tapeRun_only (Part.sub hL (by decide)) ?_
  exact State.wr_only (Part.sub hL (by decide)) (by assumption)

theorem State.tuneTape_only {L : List Part} {s0 s : State} {x2}
    (hL : [.wra, .regs 28] ⊆ L) (h : Only L s0 s) :
    Only L s0 (State.tuneTape s x2) := by
  unfold State.tuneTape
  extract_lets n1 s2
  have hs2 : Only L s0 s2 := by
    unfold s2
    refine Only.updWra (Part.sub hL (by decide)) ?_
    assumption
  clear_value s2
  refine Only.ite ?_ ?_
  · assumption
  · exact State.wr_only (Part.sub hL (by decide)) (by assumption)

theorem State.takeStep_only {L : List Part} {s0 s : State} {x2}
    (hL : [.out, .host, .life, .wra, .trc, .regs 0, .regs 4, .regs 28, .regs 32, .regs 49] ⊆ L) (h : Only L s0 s) :
    Only L s0 (State.takeStep s x2) := by
  unfold State.takeStep
  extract_lets n1 s2
  have hs2 : Only L s0 s2 := by
    unfold s2
    refine State.tuneTape_only (Part.sub hL (by decide)) ?_
    refine State.wr_only (Part.sub hL (by decide)) ?_
    exact State.wr_only (Part.sub hL (by decide)) (by assumption)
  clear_value s2
  refine Only.ite ?_ ?_
  · assumption
  · refine State.reelLimits_only (Part.sub hL (by decide)) ?_
    refine State.raise_only (Part.sub hL (by decide)) ?_
    exact State.inc_only (Part.sub hL (by decide)) (by assumption)

theorem State.startStep_only {L : List Part} {s0 s : State} {x2}
    (hL : [.out, .host, .life, .mot, .wra, .trc, .regs 0, .regs 4, .regs 28, .regs 32, .regs 49] ⊆ L) (h : Only L s0 s) :
    Only L s0 (State.startStep s x2) := by
  unfold State.startStep
  extract_lets n1 s2
  have hs2 : Only L s0 s2 := by
    unfold s2
    refine Only.ite ?_ ?_
    · assumption
    · exact State.setMot_only (Part.sub hL (by decide)) (by assumption)
  clear_value s2
  exact State.takeStep_only (Part.sub hL (by decide)) (by assumption)

theorem State.reverseTape_only {L : List Part} {s0 s : State} {x2 x3}
    (hL : [.mot, .ctl, .regs 32] ⊆ L) (h : Only L s0 s) :
    Only L s0 (State.reverseTape s x2 x3) := by
  unfold State.reverseTape
  extract_lets n1 s2
  have hs2 : Only L s0 s2 := by
    unfold s2
    refine State.wr_only (Part.sub hL (by decide)) ?_
    exact State.setMot_only (Part.sub hL (by decide)) (by assumption)
  clear_value s2
  exact State.tapeRamp_only (Part.sub hL (by decide)) (by assumption)

theorem State.runUp_only {L : List Part} {s0 s : State}
    (hL : [.out, .host, .life, .mot, .wra, .ctl, .trc, .pwr, .regs 0, .regs 4, .regs 28, .regs 32, .regs 49] ⊆ L) (h : Only L s0 s) :
    Only L s0 (State.runUp s) := by
  unfold State.runUp
  extract_lets n1 n2 s3
  have hs3 : Only L s0 s3 := by
    unfold s3
    refine State.startStep_only (Part.sub hL (by decide)) ?_
    exact State.setMot_only (Part.sub hL (by decide)) (by assumption)
  clear_value s3
  refine Only.ite ?_ ?_
  · refine Only.ite ?_ ?_
    · exact State.ask_only (Part.sub hL (by decide)) (by assumption)
    · exact State.reverseTape_only (Part.sub hL (by decide)) (by assumption)
  · assumption

theorem State.restartTape_only {L : List Part} {s0 s : State}
    (hL : [.out, .host, .life, .tape, .mot, .wra, .ctl, .trc, .pwr, .regs 0, .regs 4, .regs 28, .regs 32,
      .regs 49] ⊆ L) (h : Only L s0 s) :
    Only L s0 (State.restartTape s) := by
  unfold State.restartTape
  extract_lets n1 n2 n3 s4 n5 n6 s7 n8 s9 s10
  have hs4 : Only L s0 s4 := by
    unfold s4
    refine State.startStep_only (Part.sub hL (by decide)) ?_
    exact State.unask_only (Part.sub hL (by decide)) (by assumption)
  clear_value s4
  have hs7 : Only L s0 s7 := by
    unfold s7
    exact State.setMot_only (Part.sub hL (by decide)) (by assumption)
  clear_value s7
  have hs9 : Only L s0 s9 := by
    unfold s9
    exact State.setTape_only (Part.sub hL (by decide)) (by assumption)
  clear_value s9
  have hs10 : Only L s0 s10 := by
    unfold s10
    exact State.inc_only (Part.sub hL (by decide)) (by assumption)
  clear_value s10
  refine Only.ite ?_ ?_
  · exact State.forwardTape_only (Part.sub hL (by decide)) (by assumption)
  · exact State.reverseTape_only (Part.sub hL (by decide)) (by assumption)

theorem State.parkReverse_only {L : List Part} {s0 s : State}
    (hL : [.mot, .ctl, .regs 32] ⊆ L) (h : Only L s0 s) :
    Only L s0 (State.parkReverse s) := by
  unfold State.parkReverse
  extract_lets n1
  refine Only.ite ?_ ?_
  · exact State.reverseTape_only (Part.sub hL (by decide)) (by assumption)
  · assumption

theorem State.locateTape_only {L : List Part} {s0 s : State}
    (hL : [.mot, .ctl, .regs 32] ⊆ L) (h : Only L s0 s) :
    Only L s0 (State.locateTape s) := by
  unfold State.locateTape
  split
  · assumption
  · extract_lets n1 n2 s3
    have hs3 : Only L s0 s3 := by
      unfold s3
      exact State.setMot_only (Part.sub hL (by decide)) (by assumption)
    clear_value s3
    refine Only.ite ?_ ?_
    · assumption
    · refine State.tapeRamp_only (Part.sub hL (by decide)) ?_
      refine State.inc_only (Part.sub hL (by decide)) ?_
      exact State.wr_only (Part.sub hL (by decide)) (by assumption)

theorem State.startChange_only {L : List Part} {s0 s : State} {x2}
    (hL : [.mot, .regs 32] ⊆ L) (h : Only L s0 s) :
    Only L s0 (State.startChange s x2) := by
  unfold State.startChange
  extract_lets s1 n2 s3 n4
  have hs1 : Only L s0 s1 := by
    unfold s1
    exact State.wr_only (Part.sub hL (by decide)) (by assumption)
  clear_value s1
  have hs3 : Only L s0 s3 := by
    unfold s3
    exact State.setMot_only (Part.sub hL (by decide)) (by assumption)
  clear_value s3
  refine Only.ite ?_ ?_
  · exact State.setMot_only (Part.sub hL (by decide)) (by assumption)
  · assumption

theorem State.heldFrame_only {L : List Part} {s0 s : State}
    (hL : [.out, .host, .sq, .obj, .life, .tape, .mot, .disk, .det, .medium, .wra, .ctl, .trc, .grp, .red,
      .pwr, .regs 0, .regs 4, .regs 8, .regs 16, .regs 20, .regs 28, .regs 32, .regs 49] ⊆ L) (h : Only L s0 s) :
    Only L s0 (State.heldFrame s) := by
  unfold State.heldFrame
  extract_lets n1 n2 n3 n4 s5 s6
  have hs5 : Only L s0 s5 := by
    unfold s5
    exact State.setMot_only (Part.sub hL (by decide)) (by assumption)
  clear_value s5
  have hs6 : Only L s0 s6 := by
    unfold s6
    refine Only.ite ?_ ?_
    · assumption
    · exact State.wr_only (Part.sub hL (by decide)) (by assumption)
  clear_value s6
  refine Only.ite ?_ ?_
  · refine State.disturb_only (Part.sub hL (by decide)) ?_
    exact State.raise_only (Part.sub hL (by decide)) (by assumption)
  · refine Only.ite ?_ ?_
    · exact State.tapeReacquire_only (Part.sub hL (by decide)) (by assumption)
    · assumption

theorem State.mediaFault_only {L : List Part} {s0 s : State} {x2}
    (hL : [.out, .host, .sq, .obj, .life, .tape, .mot, .disk, .medium, .trc, .grp, .red, .regs 0, .regs 4,
      .regs 8, .regs 16, .regs 32, .regs 49] ⊆ L) (h : Only L s0 s) :
    Only L s0 (State.mediaFault s x2) := by
  unfold State.mediaFault
  extract_lets s1 s2 s3 n4 n5 s6 n7 n8 s9 n10
  have hs1 : Only L s0 s1 := by
    unfold s1
    exact State.endTapeCmds_only (Part.sub hL (by decide)) (by assumption)
  clear_value s1
  have hs2 : Only L s0 s2 := by
    unfold s2
    refine State.wr_only (Part.sub hL (by decide)) ?_
    exact State.setMedium_only (Part.sub hL (by decide)) (by assumption)
  clear_value s2
  have hs3 : Only L s0 s3 := by
    unfold s3
    refine State.endMedia_only (Part.sub hL (by decide)) ?_
    exact State.endMedia_only (Part.sub hL (by decide)) (by assumption)
  clear_value s3
  have hs6 : Only L s0 s6 := by
    unfold s6
    refine Only.ite ?_ ?_
    · exact State.endMedia_only (Part.sub hL (by decide)) (by assumption)
    · assumption
  clear_value s6
  have hs9 : Only L s0 s9 := by
    unfold s9
    exact State.setMot_only (Part.sub hL (by decide)) (by assumption)
  clear_value s9
  refine Only.updMedium (Part.sub hL (by decide)) ?_
  assumption

theorem State.tapeFault_only {L : List Part} {s0 s : State} {x2}
    (hL : [.out, .host, .sq, .obj, .life, .tape, .mot, .disk, .det, .medium, .wra, .ctl, .trc, .grp, .red,
      .pwr, .regs 0, .regs 4, .regs 8, .regs 16, .regs 20, .regs 28, .regs 32, .regs 49] ⊆ L) (h : Only L s0 s) :
    Only L s0 (State.tapeFault s x2) := by
  unfold State.tapeFault
  extract_lets s1 s2 s3 s4
  have hs1 : Only L s0 s1 := by
    unfold s1
    exact State.disturb_only (Part.sub hL (by decide)) (by assumption)
  clear_value s1
  have hs2 : Only L s0 s2 := by
    unfold s2
    refine State.raise_only (Part.sub hL (by decide)) ?_
    exact State.raiseBit_only (Part.sub hL (by decide)) (by assumption)
  clear_value s2
  have hs3 : Only L s0 s3 := by
    unfold s3
    exact State.mediaFault_only (Part.sub hL (by decide)) (by assumption)
  clear_value s3
  have hs4 : Only L s0 s4 := by
    unfold s4
    refine Only.ite ?_ ?_
    · exact State.tapeBrake_only (Part.sub hL (by decide)) (by assumption)
    · exact State.tapeRamp_only (Part.sub hL (by decide)) (by assumption)
  clear_value s4
  refine Only.ite ?_ ?_
  · exact State.wr_only (Part.sub hL (by decide)) (by assumption)
  · exact State.wr_only (Part.sub hL (by decide)) (by assumption)

theorem State.loadEnds_only {L : List Part} {s0 s : State} {x2}
    (hL : [.out, .host, .sq, .life, .mot, .medium, .ctl, .trc, .grp, .regs 0, .regs 4, .regs 8, .regs 32,
      .regs 49] ⊆ L) (h : Only L s0 s) :
    Only L s0 (State.loadEnds s x2) := by
  unfold State.loadEnds
  extract_lets n1 s2
  have hs2 : Only L s0 s2 := by
    unfold s2
    refine State.setMot_only (Part.sub hL (by decide)) ?_
    exact State.wr_only (Part.sub hL (by decide)) (by assumption)
  clear_value s2
  refine State.startReached_only (Part.sub hL (by decide)) ?_
  refine State.raise_only (Part.sub hL (by decide)) ?_
  exact State.tapeRamp_only (Part.sub hL (by decide)) (by assumption)

theorem State.loadEnter_only {L : List Part} {s0 s : State} {x2}
    (hL : [.out, .host, .life, .mot, .wra, .ctl, .trc, .regs 0, .regs 4, .regs 16, .regs 28, .regs 32, .regs 49] ⊆ L) (h : Only L s0 s) :
    Only L s0 (State.loadEnter s x2) := by
  unfold State.loadEnter
  extract_lets n1 s2 n3 s4 s5 s6 s7 s8
  have hs2 : Only L s0 s2 := by
    unfold s2
    exact State.setMot_only (Part.sub hL (by decide)) (by assumption)
  clear_value s2
  have hs4 : Only L s0 s4 := by
    unfold s4
    refine State.wr_only (Part.sub hL (by decide)) ?_
    exact State.setMot_only (Part.sub hL (by decide)) (by assumption)
  clear_value s4
  have hs5 : Only L s0 s5 := by
    unfold s5
    refine State.wr_only (Part.sub hL (by decide)) ?_
    exact State.setMot_only (Part.sub hL (by decide)) (by assumption)
  clear_value s5
  have hs6 : Only L s0 s6 := by
    unfold s6
    exact State.setMot_only (Part.sub hL (by decide)) (by assumption)
  clear_value s6
  have hs7 : Only L s0 s7 := by
    unfold s7
    refine State.wr_only (Part.sub hL (by decide)) ?_
    exact State.startStep_only (Part.sub hL (by decide)) (by assumption)
  clear_value s7
  have hs8 : Only L s0 s8 := by
    unfold s8
    refine State.wr_only (Part.sub hL (by decide)) ?_
    exact State.wr_only (Part.sub hL (by decide)) (by assumption)
  clear_value s8
  split
  · refine State.tapeRamp_only (Part.sub hL (by decide)) ?_
    exact State.enableSlot_only (Part.sub hL (by decide)) (by assumption)
  · refine State.tapeRamp_only (Part.sub hL (by decide)) ?_
    refine Only.foldl _ ?_ (fun s _ h => ?_)
    · assumption
    · exact State.enableSlot_only (Part.sub hL (by decide)) (by assumption)
  · refine State.tapeRun_only (Part.sub hL (by decide)) ?_
    refine State.reelLimits_only (Part.sub hL (by decide)) ?_
    refine State.setRampTarget_only (Part.sub hL (by decide)) ?_
    exact State.setRampMode_only (Part.sub hL (by decide)) (by assumption)
  · assumption

theorem State.locateEnd_only {L : List Part} {s0 s : State}
    (hL : [.out, .host, .life, .tape, .trc, .regs 0, .regs 4, .regs 16, .regs 49] ⊆ L) (h : Only L s0 s) :
    Only L s0 (State.locateEnd s) := by
  unfold State.locateEnd
  extract_lets n1 n2 n3 n4 n5 s6 s7 s8
  have hs6 : Only L s0 s6 := by
    unfold s6
    exact State.setTape_only (Part.sub hL (by decide)) (by assumption)
  clear_value s6
  have hs7 : Only L s0 s7 := by
    unfold s7
    refine State.findEnd_only (Part.sub hL (by decide)) ?_
    exact State.wr_only (Part.sub hL (by decide)) (by assumption)
  clear_value s7
  have hs8 : Only L s0 s8 := by
    unfold s8
    exact State.raise_only (Part.sub hL (by decide)) (by assumption)
  clear_value s8
  refine Only.ite ?_ ?_
  · refine State.raise_only (Part.sub hL (by decide)) ?_
    exact State.lifeAdd_only (Part.sub hL (by decide)) (by assumption)
  · assumption

theorem State.locateEnds_only {L : List Part} {s0 s : State} {x2}
    (hL : [.out, .host, .life, .mot, .wra, .ctl, .trc, .regs 0, .regs 4, .regs 16, .regs 28, .regs 32, .regs 49] ⊆ L) (h : Only L s0 s) :
    Only L s0 (State.locateEnds s x2) := by
  unfold State.locateEnds
  extract_lets n1 s2 n3
  have hs2 : Only L s0 s2 := by
    unfold s2
    exact State.setMot_only (Part.sub hL (by decide)) (by assumption)
  clear_value s2
  refine State.forwardTape_only (Part.sub hL (by decide)) ?_
  refine State.wr_only (Part.sub hL (by decide)) ?_
  exact State.startStep_only (Part.sub hL (by decide)) (by assumption)

theorem State.parkTape_only {L : List Part} {s0 s : State}
    (hL : [.mot, .ctl, .regs 32] ⊆ L) (h : Only L s0 s) :
    Only L s0 (State.parkTape s) := by
  unfold State.parkTape
  extract_lets n1
  refine State.tapeRamp_only (Part.sub hL (by decide)) ?_
  refine State.wr_only (Part.sub hL (by decide)) ?_
  exact State.setMot_only (Part.sub hL (by decide)) (by assumption)

theorem State.phaseFrame_only {L : List Part} {s0 s : State} {x2}
    (hL : [.out, .host, .life, .mot, .wra, .ctl, .trc, .regs 0, .regs 4, .regs 16, .regs 28, .regs 32, .regs 49] ⊆ L) (h : Only L s0 s) :
    Only L s0 (State.phaseFrame s x2) := by
  unfold State.phaseFrame
  extract_lets n1 s2 n3 n4
  have hs2 : Only L s0 s2 := by
    unfold s2
    exact State.setMot_only (Part.sub hL (by decide)) (by assumption)
  clear_value s2
  split
  · refine Only.ite ?_ ?_
    · exact State.setMot_only (Part.sub hL (by decide)) (by assumption)
    · refine Only.ite ?_ ?_
      · exact State.forwardTape_only (Part.sub hL (by decide)) (by assumption)
      · refine Only.ite ?_ ?_
        · exact State.parkTape_only (Part.sub hL (by decide)) (by assumption)
        · exact State.forwardTape_only (Part.sub hL (by decide)) (by assumption)
  · refine Only.ite ?_ ?_
    · assumption
    · refine State.wr_only (Part.sub hL (by decide)) ?_
      exact State.setMot_only (Part.sub hL (by decide)) (by assumption)
  · split
    · assumption
    · refine Only.ite ?_ ?_
      · exact State.locateEnds_only (Part.sub hL (by decide)) (by assumption)
      · assumption
  · split
    · refine Only.ite ?_ ?_
      · refine State.tapeRamp_only (Part.sub hL (by decide)) ?_
        refine State.wr_only (Part.sub hL (by decide)) ?_
        exact State.setMot_only (Part.sub hL (by decide)) (by assumption)
      · assumption
    · assumption
  · assumption

theorem State.reacqReverse_only {L : List Part} {s0 s : State}
    (hL : [.mot, .ctl, .regs 32] ⊆ L) (h : Only L s0 s) :
    Only L s0 (State.reacqReverse s) := by
  unfold State.reacqReverse
  exact State.reverseTape_only (Part.sub hL (by decide)) (by assumption)

theorem State.shiftHist_only {L : List Part} {s0 s : State}
    (hL : [.tape, .mot] ⊆ L) (h : Only L s0 s) :
    Only L s0 (State.shiftHist s) := by
  unfold State.shiftHist
  extract_lets n1 s2 n3
  have hs2 : Only L s0 s2 := by
    unfold s2
    exact State.setTape_only (Part.sub hL (by decide)) (by assumption)
  clear_value s2
  exact State.setMot_only (Part.sub hL (by decide)) (by assumption)

theorem State.stepLpos_only {L : List Part} {s0 s : State} {x2}
    (hL : [.mot, .regs 32] ⊆ L) (h : Only L s0 s) :
    Only L s0 (State.stepLpos s x2) := by
  unfold State.stepLpos
  extract_lets n1 n2 n3 n4
  refine Only.ite ?_ ?_
  · refine Only.ite ?_ ?_
    · refine State.wr_only (Part.sub hL (by decide)) ?_
      exact State.setMot_only (Part.sub hL (by decide)) (by assumption)
    · exact State.setMot_only (Part.sub hL (by decide)) (by assumption)
  · refine Only.ite ?_ ?_
    · exact State.setMot_only (Part.sub hL (by decide)) (by assumption)
    · refine State.wr_only (Part.sub hL (by decide)) ?_
      exact State.setMot_only (Part.sub hL (by decide)) (by assumption)

theorem State.takeServo_only {L : List Part} {s0 s : State} {x2 x3 x4}
    (hL : [.det, .regs 20] ⊆ L) (h : Only L s0 s) :
    Only L s0 (State.takeServo s x2 x3 x4) := by
  unfold State.takeServo
  extract_lets n1 s2 s3
  have hs2 : Only L s0 s2 := by
    unfold s2
    refine Only.ite ?_ ?_
    · exact State.setLane_only (Part.sub hL (by decide)) (by assumption)
    · assumption
  clear_value s2
  have hs3 : Only L s0 s3 := by
    unfold s3
    exact State.wri_only (Part.sub hL (by decide)) (by assumption)
  clear_value s3
  refine Only.ite ?_ ?_
  · assumption
  · exact State.inci_only (Part.sub hL (by decide)) (by assumption)

theorem State.trackRate_only {L : List Part} {s0 s : State}
    (hL : [.wra] ⊆ L) (h : Only L s0 s) :
    Only L s0 (State.trackRate s) := by
  unfold State.trackRate
  extract_lets n1 n2 n3
  refine Only.ite ?_ ?_
  · assumption
  · refine Only.updWra (Part.sub hL (by decide)) ?_
    assumption

theorem State.turnFrame_only {L : List Part} {s0 s : State}
    (hL : [.mot, .ctl, .regs 32] ⊆ L) (h : Only L s0 s) :
    Only L s0 (State.turnFrame s) := by
  unfold State.turnFrame
  extract_lets s1 n2
  have hs1 : Only L s0 s1 := by
    unfold s1
    refine Only.ite ?_ ?_
    · exact State.enableSlot_only (Part.sub hL (by decide)) (by assumption)
    · assumption
  clear_value s1
  refine Only.ite ?_ ?_
  · assumption
  · refine Only.ite ?_ ?_
    · exact State.setMot_only (Part.sub hL (by decide)) (by assumption)
    · assumption

theorem State.unbuild_only {L : List Part} {s0 s : State}
    (hL : [.tape] ⊆ L) (h : Only L s0 s) :
    Only L s0 (State.unbuild s) := by
  unfold State.unbuild
  extract_lets n1 n2 n3 n4
  exact State.setTape_only (Part.sub hL (by decide)) (by assumption)

theorem State.validFrame_only {L : List Part} {s0 s : State} {x2 x3}
    (hL : [.mot, .regs 32] ⊆ L) (h : Only L s0 s) :
    Only L s0 (State.validFrame s x2 x3) := by
  unfold State.validFrame
  extract_lets n1 n2 n3 s4
  have hs4 : Only L s0 s4 := by
    unfold s4
    exact State.setMot_only (Part.sub hL (by decide)) (by assumption)
  clear_value s4
  exact State.wr_only (Part.sub hL (by decide)) (by assumption)

theorem execLateralWriteInhibit_only {L : List Part} {s0 s : State}
    (hL : [.out, .host, .sq, .obj, .life, .tape, .mot, .disk, .det, .medium, .wra, .ctl, .trc, .grp, .red,
      .pwr, .regs 0, .regs 4, .regs 8, .regs 16, .regs 20, .regs 28, .regs 32, .regs 49] ⊆ L) (h : Only L s0 s) :
    Only.Out L s0 (execLateralWriteInhibit s) := by
  unfold execLateralWriteInhibit
  refine Only.next ?_
  refine Only.ite ?_ ?_
  · refine State.disturb_only (Part.sub hL (by decide)) ?_
    exact State.wr_only (Part.sub hL (by decide)) (by assumption)
  · assumption

theorem execWriteResumeSettled_only {L : List Part} {s0 s : State}
    (hL : [.mot, .wra, .regs 16, .regs 28, .regs 32] ⊆ L) (h : Only L s0 s) :
    Only.Out L s0 (execWriteResumeSettled s) := by
  unfold execWriteResumeSettled
  extract_lets n1 s2 n3 s4
  have hs2 : Only L s0 s2 := by
    unfold s2
    refine State.wr_only (Part.sub hL (by decide)) ?_
    exact State.setMot_only (Part.sub hL (by decide)) (by assumption)
  clear_value s2
  have hs4 : Only L s0 s4 := by
    unfold s4
    refine Only.updWra (Part.sub hL (by decide)) ?_
    assumption
  clear_value s4
  refine Only.iteOut ?_ ?_
  · refine Only.next ?_
    refine State.wr_only (Part.sub hL (by decide)) ?_
    refine State.wr_only (Part.sub hL (by decide)) ?_
    exact State.wr_only (Part.sub hL (by decide)) (by assumption)
  · refine Only.next ?_
    assumption

theorem execWrapTurn_only {L : List Part} {s0 s : State} {x1}
    (hL : [.tape, .mot, .ctl, .pwr, .regs 16, .regs 32] ⊆ L) (h : Only L s0 s) :
    Only.Out L s0 (execWrapTurn x1 s) := by
  unfold execWrapTurn
  extract_lets n1 n2 n3 n4 n5 s6 s7 n8 s9 n10 s11 s12
  have hs6 : Only L s0 s6 := by
    unfold s6
    refine Only.ite ?_ ?_
    · assumption
    · exact State.unbuild_only (Part.sub hL (by decide)) (by assumption)
  clear_value s6
  have hs7 : Only L s0 s7 := by
    unfold s7
    refine State.wr_only (Part.sub hL (by decide)) ?_
    exact State.wr_only (Part.sub hL (by decide)) (by assumption)
  clear_value s7
  have hs9 : Only L s0 s9 := by
    unfold s9
    exact State.setMot_only (Part.sub hL (by decide)) (by assumption)
  clear_value s9
  have hs11 : Only L s0 s11 := by
    unfold s11
    exact State.setTape_only (Part.sub hL (by decide)) (by assumption)
  clear_value s11
  have hs12 : Only L s0 s12 := by
    unfold s12
    refine State.disableSlot_only (Part.sub hL (by decide)) ?_
    refine State.setRampTarget_only (Part.sub hL (by decide)) ?_
    exact State.setRampMode_only (Part.sub hL (by decide)) (by assumption)
  clear_value s12
  refine Only.iteOut ?_ ?_
  · refine Only.next ?_
    refine State.tapeRun_only (Part.sub hL (by decide)) ?_
    exact State.wr_only (Part.sub hL (by decide)) (by assumption)
  · refine Only.next ?_
    assumption

theorem execStepDecision_only {L : List Part} {s0 s : State}
    (hL : [.tape, .mot, .pwr, .regs 32] ⊆ L) (h : Only L s0 s) :
    Only.Out L s0 (execStepDecision s) := by
  unfold execStepDecision
  extract_lets n1 n2 s3 n4 s5
  have hs3 : Only L s0 s3 := by
    unfold s3
    exact State.unask_only (Part.sub hL (by decide)) (by assumption)
  clear_value s3
  have hs5 : Only L s0 s5 := by
    unfold s5
    refine Only.ite ?_ ?_
    · assumption
    · refine Only.ite ?_ ?_
      · exact State.ask_only (Part.sub hL (by decide)) (by assumption)
      · exact State.startChange_only (Part.sub hL (by decide)) (by assumption)
  clear_value s5
  refine Only.next ?_
  exact State.shiftHist_only (Part.sub hL (by decide)) (by assumption)

theorem execQuietPointDrained_only {L : List Part} {s0 s : State}
    (hL : [.mot, .wra, .ctl, .pwr, .regs 16, .regs 28, .regs 32] ⊆ L) (h : Only L s0 s) :
    Only.Out L s0 (execQuietPointDrained s) := by
  unfold execQuietPointDrained
  extract_lets n1 n2 n3
  split
  · refine Only.next ?_
    assumption
  · refine Only.iteOut ?_ ?_
    · refine Only.next ?_
      assumption
    · refine Only.iteOut ?_ ?_
      · refine Only.next ?_
        refine State.tapeRun_only (Part.sub hL (by decide)) ?_
        refine State.tuneTape_only (Part.sub hL (by decide)) ?_
        exact State.setMot_only (Part.sub hL (by decide)) (by assumption)
      · refine Only.next ?_
        refine State.stopTape_only (Part.sub hL (by decide)) ?_
        refine State.wr_only (Part.sub hL (by decide)) ?_
        exact State.setMot_only (Part.sub hL (by decide)) (by assumption)

theorem execSpeedSettled_only {L : List Part} {s0 s : State} {x1}
    (hL : [.out, .host, .life, .tape, .mot, .wra, .trc, .regs 0, .regs 4, .regs 28, .regs 32, .regs 49] ⊆ L) (h : Only L s0 s) :
    Only.Out L s0 (execSpeedSettled x1 s) := by
  unfold execSpeedSettled
  extract_lets s1 n2 s3 n4
  have hs1 : Only L s0 s1 := by
    unfold s1
    exact State.takeStep_only (Part.sub hL (by decide)) (by assumption)
  clear_value s1
  have hs3 : Only L s0 s3 := by
    unfold s3
    exact State.setMot_only (Part.sub hL (by decide)) (by assumption)
  clear_value s3
  refine Only.iteOut ?_ ?_
  · refine Only.next ?_
    exact State.setTape_only (Part.sub hL (by decide)) (by assumption)
  · refine Only.next ?_
    assumption

theorem execTapeHoldStop_only {L : List Part} {s0 s : State}
    (hL : [.mot] ⊆ L) (h : Only L s0 s) :
    Only.Out L s0 (execTapeHoldStop s) := by
  unfold execTapeHoldStop
  extract_lets n1
  refine Only.iteOut ?_ ?_
  · refine Only.next ?_
    exact State.setMot_only (Part.sub hL (by decide)) (by assumption)
  · refine Only.next ?_
    assumption

theorem execTapeRestart_only {L : List Part} {s0 s : State}
    (hL : [.mot, .pwr, .regs 32] ⊆ L) (h : Only L s0 s) :
    Only.Out L s0 (execTapeRestart s) := by
  unfold execTapeRestart
  refine Only.iteOut ?_ ?_
  · refine Only.next ?_
    refine State.ask_only (Part.sub hL (by decide)) ?_
    exact State.endReading_only (Part.sub hL (by decide)) (by assumption)
  · refine Only.next ?_
    assumption

theorem execServoFrameRecord_only {L : List Part} {s0 s : State} {x1 x2 x3 x4 x5 x6}
    (hL : [.out, .host, .sq, .obj, .life, .tape, .mot, .disk, .det, .medium, .wra, .ctl, .trc, .grp, .red,
      .pwr, .regs 0, .regs 4, .regs 8, .regs 16, .regs 20, .regs 28, .regs 32, .regs 49] ⊆ L) (h : Only L s0 s) :
    Only.Out L s0 (execServoFrameRecord x1 x2 x3 x4 x5 x6 s) := by
  unfold execServoFrameRecord
  extract_lets n1 n2 n3 n4 n5 s6 s7 s8 s9 s10 n11 s12 s13 s14 s15 n16 s17
  have hs6 : Only L s0 s6 := by
    unfold s6
    exact State.takeServo_only (Part.sub hL (by decide)) (by assumption)
  clear_value s6
  have hs7 : Only L s0 s7 := by
    unfold s7
    exact State.takeServo_only (Part.sub hL (by decide)) (by assumption)
  clear_value s7
  have hs8 : Only L s0 s8 := by
    unfold s8
    exact State.takeServo_only (Part.sub hL (by decide)) (by assumption)
  clear_value s8
  have hs9 : Only L s0 s9 := by
    unfold s9
    exact State.takeServo_only (Part.sub hL (by decide)) (by assumption)
  clear_value s9
  have hs10 : Only L s0 s10 := by
    unfold s10
    exact State.wr_only (Part.sub hL (by decide)) (by assumption)
  clear_value s10
  have hs12 : Only L s0 s12 := by
    unfold s12
    refine State.stepLpos_only (Part.sub hL (by decide)) ?_
    exact State.setMot_only (Part.sub hL (by decide)) (by assumption)
  clear_value s12
  have hs13 : Only L s0 s13 := by
    unfold s13
    exact State.wr_only (Part.sub hL (by decide)) (by assumption)
  clear_value s13
  have hs14 : Only L s0 s14 := by
    unfold s14
    refine Only.ite ?_ ?_
    · refine State.trackRate_only (Part.sub hL (by decide)) ?_
      exact State.validFrame_only (Part.sub hL (by decide)) (by assumption)
    · exact State.heldFrame_only (Part.sub hL (by decide)) (by assumption)
  clear_value s14
  have hs15 : Only L s0 s15 := by
    unfold s15
    refine State.turnFrame_only (Part.sub hL (by decide)) ?_
    exact State.phaseFrame_only (Part.sub hL (by decide)) (by assumption)
  clear_value s15
  have hs17 : Only L s0 s17 := by
    unfold s17
    refine Only.ite ?_ ?_
    · refine State.disturb_only (Part.sub hL (by decide)) ?_
      exact State.wr_only (Part.sub hL (by decide)) (by assumption)
    · exact State.wr_only (Part.sub hL (by decide)) (by assumption)
  clear_value s17
  refine Only.iteOut ?_ ?_
  · refine Only.next ?_
    assumption
  · refine Only.next ?_
    refine Only.ite ?_ ?_
    · exact State.tapeFault_only (Part.sub hL (by decide)) (by assumption)
    · assumption

theorem execVelocityFollowingError_only {L : List Part} {s0 s : State}
    (hL : [.out, .host, .sq, .obj, .life, .tape, .mot, .disk, .det, .medium, .wra, .ctl, .trc, .grp, .red,
      .pwr, .regs 0, .regs 4, .regs 8, .regs 16, .regs 20, .regs 28, .regs 32, .regs 49] ⊆ L) (h : Only L s0 s) :
    Only.Out L s0 (execVelocityFollowingError s) := by
  unfold execVelocityFollowingError
  refine Only.next ?_
  refine Only.ite ?_ ?_
  · exact State.tapeReacquire_only (Part.sub hL (by decide)) (by assumption)
  · assumption

theorem execTensionError_only {L : List Part} {s0 s : State}
    (hL : [.out, .host, .sq, .obj, .life, .tape, .mot, .disk, .det, .medium, .wra, .ctl, .trc, .grp, .red,
      .pwr, .regs 0, .regs 4, .regs 8, .regs 16, .regs 20, .regs 28, .regs 32, .regs 49] ⊆ L) (h : Only L s0 s) :
    Only.Out L s0 (execTensionError s) := by
  unfold execTensionError
  refine Only.next ?_
  refine Only.ite ?_ ?_
  · exact State.tapeFault_only (Part.sub hL (by decide)) (by assumption)
  · assumption

theorem execTensionCollapse_only {L : List Part} {s0 s : State}
    (hL : [.out, .host, .sq, .obj, .life, .tape, .mot, .disk, .det, .medium, .wra, .ctl, .trc, .grp, .red,
      .pwr, .regs 0, .regs 4, .regs 8, .regs 16, .regs 20, .regs 28, .regs 32, .regs 49] ⊆ L) (h : Only L s0 s) :
    Only.Out L s0 (execTensionCollapse s) := by
  unfold execTensionCollapse
  refine Only.next ?_
  refine Only.ite ?_ ?_
  · exact State.tapeFault_only (Part.sub hL (by decide)) (by assumption)
  · assumption

theorem execThreadTimeout_only {L : List Part} {s0 s : State}
    (hL : [.out, .host, .sq, .obj, .life, .tape, .mot, .disk, .det, .medium, .wra, .ctl, .trc, .grp, .red,
      .pwr, .regs 0, .regs 4, .regs 8, .regs 16, .regs 20, .regs 28, .regs 32, .regs 49] ⊆ L) (h : Only L s0 s) :
    Only.Out L s0 (execThreadTimeout s) := by
  unfold execThreadTimeout
  refine Only.next ?_
  refine Only.ite ?_ ?_
  · exact State.tapeFault_only (Part.sub hL (by decide)) (by assumption)
  · assumption

theorem execReacquisitionDone_only {L : List Part} {s0 s : State} {x1}
    (hL : [.out, .host, .sq, .obj, .life, .tape, .mot, .disk, .medium, .ctl, .trc, .grp, .red, .pwr, .regs 0,
      .regs 4, .regs 8, .regs 16, .regs 32, .regs 49] ⊆ L) (h : Only L s0 s) :
    Only.Out L s0 (execReacquisitionDone x1 s) := by
  unfold execReacquisitionDone
  extract_lets n1 n2 n3 n4 s5 s6 s7
  have hs5 : Only L s0 s5 := by
    unfold s5
    exact State.setMot_only (Part.sub hL (by decide)) (by assumption)
  clear_value s5
  have hs6 : Only L s0 s6 := by
    unfold s6
    exact State.raise_only (Part.sub hL (by decide)) (by assumption)
  clear_value s6
  have hs7 : Only L s0 s7 := by
    unfold s7
    refine State.raise_only (Part.sub hL (by decide)) ?_
    exact State.setMot_only (Part.sub hL (by decide)) (by assumption)
  clear_value s7
  refine Only.iteOut ?_ ?_
  · refine Only.next ?_
    assumption
  · refine Only.iteOut ?_ ?_
    · refine Only.next ?_
      refine Only.ite ?_ ?_
      · assumption
      · exact State.stopTape_only (Part.sub hL (by decide)) (by assumption)
    · refine Only.iteOut ?_ ?_
      · refine Only.next ?_
        refine State.reacqReverse_only (Part.sub hL (by decide)) ?_
        exact State.setMot_only (Part.sub hL (by decide)) (by assumption)
      · refine Only.next ?_
        refine State.wr_only (Part.sub hL (by decide)) ?_
        exact State.mediaFault_only (Part.sub hL (by decide)) (by assumption)

theorem execLoadStageDone_only {L : List Part} {s0 s : State}
    (hL : [.out, .host, .sq, .life, .tape, .mot, .medium, .wra, .ctl, .trc, .grp, .regs 0, .regs 4, .regs 8,
      .regs 16, .regs 28, .regs 32, .regs 49] ⊆ L) (h : Only L s0 s) :
    Only.Out L s0 (execLoadStageDone s) := by
  unfold execLoadStageDone
  extract_lets n1
  refine Only.iteOut ?_ ?_
  · refine Only.next ?_
    assumption
  · split
    · refine Only.next ?_
      refine State.loadEnter_only (Part.sub hL (by decide)) ?_
      exact State.setMot_only (Part.sub hL (by decide)) (by assumption)
    · refine Only.next ?_
      exact State.loadEnter_only (Part.sub hL (by decide)) (by assumption)
    · refine Only.next ?_
      exact State.loadEnter_only (Part.sub hL (by decide)) (by assumption)
    · refine Only.iteOut ?_ ?_
      · refine Only.next ?_
        exact State.loadEnter_only (Part.sub hL (by decide)) (by assumption)
      · refine Only.next ?_
        assumption
    · refine Only.iteOut ?_ ?_
      · refine Only.next ?_
        exact State.loadEnds_only (Part.sub hL (by decide)) (by assumption)
      · refine Only.next ?_
        exact State.loadEnter_only (Part.sub hL (by decide)) (by assumption)
    · refine Only.next ?_
      refine State.loadEnds_only (Part.sub hL (by decide)) ?_
      exact State.locateEnd_only (Part.sub hL (by decide)) (by assumption)
    · refine Only.next ?_
      assumption

theorem execUnloadDone_only {L : List Part} {s0 s : State}
    (hL : [.out, .host, .sq, .life, .tape, .mot, .medium, .ctl, .trc, .grp, .pwr, .regs 0, .regs 4, .regs 8,
      .regs 16, .regs 28, .regs 32, .regs 49] ⊆ L) (h : Only L s0 s) :
    Only.Out L s0 (execUnloadDone s) := by
  unfold execUnloadDone
  extract_lets s1 n2 n3 n4 s5 n6 s7 s8 s9 s10 s11 s12 s13
  have hs1 : Only L s0 s1 := by
    unfold s1
    exact State.advanceStop_only (Part.sub hL (by decide)) (by assumption)
  clear_value s1
  have hs5 : Only L s0 s5 := by
    unfold s5
    exact State.setTape_only (Part.sub hL (by decide)) (by assumption)
  clear_value s5
  have hs7 : Only L s0 s7 := by
    unfold s7
    exact State.setMot_only (Part.sub hL (by decide)) (by assumption)
  clear_value s7
  have hs8 : Only L s0 s8 := by
    unfold s8
    refine Only.foldl _ ?_ (fun s _ h => ?_)
    · assumption
    · exact State.disableSlot_only (Part.sub hL (by decide)) (by assumption)
  clear_value s8
  have hs9 : Only L s0 s9 := by
    unfold s9
    refine Only.foldl _ ?_ (fun s _ h => ?_)
    · assumption
    · exact State.enableLane_only (Part.sub hL (by decide)) (by assumption)
  clear_value s9
  have hs10 : Only L s0 s10 := by
    unfold s10
    refine Only.ite ?_ ?_
    · assumption
    · exact State.sendMdrv_only (Part.sub hL (by decide)) (by assumption)
  clear_value s10
  have hs11 : Only L s0 s11 := by
    unfold s11
    refine State.wr_only (Part.sub hL (by decide)) ?_
    refine State.wr_only (Part.sub hL (by decide)) ?_
    exact State.wr_only (Part.sub hL (by decide)) (by assumption)
  clear_value s11
  have hs12 : Only L s0 s12 := by
    unfold s12
    refine State.wr_only (Part.sub hL (by decide)) ?_
    exact State.wr_only (Part.sub hL (by decide)) (by assumption)
  clear_value s12
  have hs13 : Only L s0 s13 := by
    unfold s13
    refine State.wr_only (Part.sub hL (by decide)) ?_
    exact State.wr_only (Part.sub hL (by decide)) (by assumption)
  clear_value s13
  refine Only.iteOut ?_ ?_
  · refine Only.next ?_
    assumption
  · refine Only.next ?_
    refine State.stopReached_only (Part.sub hL (by decide)) ?_
    refine State.syncLevel_only (Part.sub hL (by decide)) ?_
    exact State.raise_only (Part.sub hL (by decide)) (by assumption)

end Sys2Proof.Machine
end

