-- ==== Sys2Proof/Laws/OnlyTrace.lean ====
section
/-!
SUPPORT. The parts of the state that an operation of Machine/Trace.lean may change (Laws/Only.lean).
-/

set_option Elab.async false

namespace Sys2Proof.Machine

theorem State.setTrc_only {L : List Part} {s0 s : State} {x2}
    (hL : [.trc] ⊆ L) (h : Only L s0 s) :
    Only L s0 (State.setTrc s x2) := by
  unfold State.setTrc
  refine Only.updTrc (Part.sub hL (by decide)) ?_
  assumption

theorem State.traceArm_only {L : List Part} {s0 s : State}
    (hL : [.trc, .regs 49] ⊆ L) (h : Only L s0 s) :
    Only L s0 (State.traceArm s) := by
  unfold State.traceArm
  extract_lets s1 s2
  have hs1 : Only L s0 s1 := by
    unfold s1
    exact State.setTrc_only (Part.sub hL (by decide)) (by assumption)
  clear_value s1
  have hs2 : Only L s0 s2 := by
    unfold s2
    refine Only.foldl _ ?_ (fun s _ h => ?_)
    · assumption
    · refine State.wri_only (Part.sub hL (by decide)) ?_
      exact State.wri_only (Part.sub hL (by decide)) (by assumption)
  clear_value s2
  exact State.wr_only (Part.sub hL (by decide)) (by assumption)

theorem State.traceForce_only {L : List Part} {s0 s : State}
    (hL : [.trc, .regs 49] ⊆ L) (h : Only L s0 s) :
    Only L s0 (State.traceForce s) := by
  unfold State.traceForce
  refine Only.ite ?_ ?_
  · exact State.trcTrigger_only (Part.sub hL (by decide)) (by assumption)
  · assumption

theorem State.traceAbort_only {L : List Part} {s0 s : State}
    (hL : [.regs 49] ⊆ L) (h : Only L s0 s) :
    Only L s0 (State.traceAbort s) := by
  unfold State.traceAbort
  exact State.wr_only (Part.sub hL (by decide)) (by assumption)

theorem State.traceLevel_only {L : List Part} {s0 s : State} {x2 x3}
    (hL : [.trc, .regs 49] ⊆ L) (h : Only L s0 s) :
    Only L s0 (State.traceLevel s x2 x3) := by
  unfold State.traceLevel
  extract_lets n1 n2 n3 n4 n5 s6
  have hs6 : Only L s0 s6 := by
    unfold s6
    exact State.setTrc_only (Part.sub hL (by decide)) (by assumption)
  clear_value s6
  refine Only.ite ?_ ?_
  · assumption
  · refine Only.ite ?_ ?_
    · exact State.trcTrigger_only (Part.sub hL (by decide)) (by assumption)
    · assumption

theorem State.traceEntry_only {L : List Part} {s0 s : State} {x2 x3 x4}
    (hL : [.trc, .regs 49] ⊆ L) (h : Only L s0 s) :
    Only L s0 (State.traceEntry s x2 x3 x4) := by
  unfold State.traceEntry
  extract_lets n1 n2 n3 n4
  refine Only.ite ?_ ?_
  · refine State.wri_only (Part.sub hL (by decide)) ?_
    exact State.setTrc_only (Part.sub hL (by decide)) (by assumption)
  · assumption

theorem State.traceDone_only {L : List Part} {s0 s : State}
    (hL : [.out, .host, .life, .trc, .regs 0, .regs 4, .regs 49] ⊆ L) (h : Only L s0 s) :
    Only L s0 (State.traceDone s) := by
  unfold State.traceDone
  refine State.raise_only (Part.sub hL (by decide)) ?_
  exact State.wr_only (Part.sub hL (by decide)) (by assumption)

theorem State.traceSample_only {L : List Part} {s0 s : State} {x2 x3}
    (hL : [.out, .host, .life, .trc, .regs 0, .regs 4, .regs 49] ⊆ L) (h : Only L s0 s) :
    Only L s0 (State.traceSample s x2 x3) := by
  unfold State.traceSample
  extract_lets s1 s2
  have hs1 : Only L s0 s1 := by
    unfold s1
    exact State.traceLevel_only (Part.sub hL (by decide)) (by assumption)
  clear_value s1
  have hs2 : Only L s0 s2 := by
    unfold s2
    refine Only.foldl _ ?_ (fun s _ h => ?_)
    · assumption
    · refine Only.ite ?_ ?_
      · exact State.traceEntry_only (Part.sub hL (by decide)) (by assumption)
      · assumption
  clear_value s2
  refine Only.ite ?_ ?_
  · exact State.traceDone_only (Part.sub hL (by decide)) (by assumption)
  · assumption

theorem execTrcArm_only {L : List Part} {s0 s : State} {x1}
    (hL : [.trc, .regs 49] ⊆ L) (h : Only L s0 s) :
    Only.Out L s0 (execTrcArm x1 s) := by
  unfold execTrcArm
  refine Only.next ?_
  refine Only.ite ?_ ?_
  · exact State.traceArm_only (Part.sub hL (by decide)) (by assumption)
  · assumption

theorem execTrcForce_only {L : List Part} {s0 s : State} {x1}
    (hL : [.trc, .regs 49] ⊆ L) (h : Only L s0 s) :
    Only.Out L s0 (execTrcForce x1 s) := by
  unfold execTrcForce
  refine Only.next ?_
  refine Only.ite ?_ ?_
  · exact State.traceForce_only (Part.sub hL (by decide)) (by assumption)
  · assumption

theorem execTrcAbort_only {L : List Part} {s0 s : State} {x1}
    (hL : [.regs 49] ⊆ L) (h : Only L s0 s) :
    Only.Out L s0 (execTrcAbort x1 s) := by
  unfold execTrcAbort
  refine Only.next ?_
  refine Only.ite ?_ ?_
  · exact State.traceAbort_only (Part.sub hL (by decide)) (by assumption)
  · assumption

theorem execTraceDone_only {L : List Part} {s0 s : State} {x1}
    (hL : [.out, .host, .life, .trc, .regs 0, .regs 4, .regs 49] ⊆ L) (h : Only L s0 s) :
    Only.Out L s0 (execTraceDone x1 s) := by
  unfold execTraceDone
  refine Only.next ?_
  refine Only.ite ?_ ?_
  · exact State.traceDone_only (Part.sub hL (by decide)) (by assumption)
  · assumption

theorem execTrcRdDataRead_only {L : List Part} {s0 s : State} {x1}
    (hL : [.out, .host, .regs 0, .regs 1, .regs 2, .regs 4, .regs 10, .regs 12, .regs 16, .regs 20, .regs 24,
      .regs 28, .regs 32, .regs 36, .regs 40, .regs 44, .regs 49] ⊆ L) (h : Only L s0 s) :
    Only.Out L s0 (execTrcRdDataRead x1 s) := by
  unfold execTrcRdDataRead
  refine Only.next ?_
  refine Only.ite ?_ ?_
  · exact State.doRead_only (Part.sub hL (by decide)) (by assumption)
  · assumption

end Sys2Proof.Machine
end

