-- ==== Sys2Proof/Laws/OnlyWra.lean ====
section
/-!
SUPPORT. The parts of the state that an operation of Machine/Wra.lean may change (Laws/Only.lean).
-/

set_option Elab.async false

namespace Sys2Proof.Machine

theorem State.stopWrites'_only {L : List Part} {s0 s : State} {x2}
    (hL : [.wra, .regs 28] ⊆ L) (h : Only L s0 s) :
    Only L s0 (State.stopWrites' s x2) := by
  unfold State.stopWrites'
  refine State.wr_only (Part.sub hL (by decide)) ?_
  exact State.releaseGates_only (Part.sub hL (by decide)) (by assumption)

theorem State.assistFault_only {L : List Part} {s0 s : State} {x2 x3}
    (hL : [.out, .host, .sq, .obj, .life, .tape, .disk, .wra, .trc, .grp, .red, .regs 0, .regs 4, .regs 8,
      .regs 16, .regs 28, .regs 49] ⊆ L) (h : Only L s0 s) :
    Only L s0 (State.assistFault s x2 x3) := by
  unfold State.assistFault
  extract_lets s1 s2 s3 n4 n5 n6 s7
  have hs1 : Only L s0 s1 := by
    unfold s1
    exact State.stopWrites'_only (Part.sub hL (by decide)) (by assumption)
  clear_value s1
  have hs2 : Only L s0 s2 := by
    unfold s2
    refine State.wr_only (Part.sub hL (by decide)) ?_
    exact State.inc_only (Part.sub hL (by decide)) (by assumption)
  clear_value s2
  have hs3 : Only L s0 s3 := by
    unfold s3
    exact State.raise_only (Part.sub hL (by decide)) (by assumption)
  clear_value s3
  have hs7 : Only L s0 s7 := by
    unfold s7
    exact State.setWra_only (Part.sub hL (by decide)) (by assumption)
  clear_value s7
  refine Only.ite ?_ ?_
  · exact State.failHead_only (Part.sub hL (by decide)) (by assumption)
  · assumption

theorem State.assistSample_only {L : List Part} {s0 s : State} {x2 x3}
    (hL : [.out, .host, .sq, .obj, .life, .tape, .disk, .wra, .trc, .grp, .red, .regs 0, .regs 4, .regs 8,
      .regs 16, .regs 28, .regs 49] ⊆ L) (h : Only L s0 s) :
    Only L s0 (State.assistSample s x2 x3) := by
  unfold State.assistSample
  extract_lets n1 n2 n3 n4 n5 n6 n7 n8 n9 n10 n11 s12 s13 s14 s15
  have hs12 : Only L s0 s12 := by
    unfold s12
    exact State.setWra_only (Part.sub hL (by decide)) (by assumption)
  clear_value s12
  have hs13 : Only L s0 s13 := by
    unfold s13
    refine Only.ite ?_ ?_
    · exact State.wri_only (Part.sub hL (by decide)) (by assumption)
    · assumption
  clear_value s13
  have hs14 : Only L s0 s14 := by
    unfold s14
    refine Only.ite ?_ ?_
    · refine State.raise_only (Part.sub hL (by decide)) ?_
      exact State.wr_only (Part.sub hL (by decide)) (by assumption)
    · assumption
  clear_value s14
  have hs15 : Only L s0 s15 := by
    unfold s15
    exact State.sendPac_only (Part.sub hL (by decide)) (by assumption)
  clear_value s15
  refine Only.ite ?_ ?_
  · assumption
  · refine Only.ite ?_ ?_
    · exact State.assistFault_only (Part.sub hL (by decide)) (by assumption)
    · refine Only.ite ?_ ?_
      · exact State.assistFault_only (Part.sub hL (by decide)) (by assumption)
      · assumption

theorem State.beginChan_only {L : List Part} {s0 s : State} {x2 x3 x4 x5 x6}
    (hL : [.out, .wra, .regs 28] ⊆ L) (h : Only L s0 s) :
    Only L s0 (State.beginChan s x2 x3 x4 x5 x6) := by
  unfold State.beginChan
  extract_lets n1 n2 s3 n4 n5 n6 n7 s8 s9 s10
  have hs3 : Only L s0 s3 := by
    unfold s3
    refine State.raiseBit_only (Part.sub hL (by decide)) ?_
    exact State.sendPac_only (Part.sub hL (by decide)) (by assumption)
  clear_value s3
  have hs8 : Only L s0 s8 := by
    unfold s8
    exact State.setWra_only (Part.sub hL (by decide)) (by assumption)
  clear_value s8
  have hs9 : Only L s0 s9 := by
    unfold s9
    refine Only.ite ?_ ?_
    · assumption
    · exact State.sendPac_only (Part.sub hL (by decide)) (by assumption)
  clear_value s9
  have hs10 : Only L s0 s10 := by
    unfold s10
    refine Only.ite ?_ ?_
    · assumption
    · exact State.sendPac_only (Part.sub hL (by decide)) (by assumption)
  clear_value s10
  refine Only.ite ?_ ?_
  · exact State.sendPac_only (Part.sub hL (by decide)) (by assumption)
  · assumption

theorem State.saveLevels_only {L : List Part} {s0 s : State}
    (hL : [.wra] ⊆ L) (h : Only L s0 s) :
    Only L s0 (State.saveLevels s) := by
  unfold State.saveLevels
  extract_lets n1
  exact State.setWra_only (Part.sub hL (by decide)) (by assumption)

theorem State.emitField_only {L : List Part} {s0 s : State} {x2 x3 x4}
    (hL : [.out] ⊆ L) (h : Only L s0 s) :
    Only L s0 (State.emitField s x2 x3 x4) := by
  unfold State.emitField
  extract_lets n1
  exact State.emit_only (Part.sub hL (by decide)) (by assumption)

theorem State.fillSlot_only {L : List Part} {s0 s : State}
    (hL : [.tape] ⊆ L) (h : Only L s0 s) :
    Only L s0 (State.fillSlot s) := by
  unfold State.fillSlot
  exact State.addFrames_only (Part.sub hL (by decide)) (by assumption)

theorem State.loadLevels_only {L : List Part} {s0 s : State}
    (hL : [.regs 28] ⊆ L) (h : Only L s0 s) :
    Only L s0 (State.loadLevels s) := by
  unfold State.loadLevels
  refine Only.foldl _ ?_ (fun s _ h => ?_)
  · assumption
  · exact State.wri_only (Part.sub hL (by decide)) (by assumption)

theorem State.notePair_only {L : List Part} {s0 s : State} {x2}
    (hL : [.ctl] ⊆ L) (h : Only L s0 s) :
    Only L s0 (State.notePair s x2) := by
  unfold State.notePair
  extract_lets n1 n2 n3
  split
  · exact State.setAct_only (Part.sub hL (by decide)) (by assumption)
  · exact State.setAct_only (Part.sub hL (by decide)) (by assumption)

theorem State.setRate_only {L : List Part} {s0 s : State} {x2 x3}
    (hL : [.wra] ⊆ L) (h : Only L s0 s) :
    Only L s0 (State.setRate s x2 x3) := by
  unfold State.setRate
  extract_lets n1
  exact State.setWra_only (Part.sub hL (by decide)) (by assumption)

theorem State.tryChan_only {L : List Part} {s0 s : State} {x2 x3 x4}
    (hL : [.wra, .pwr] ⊆ L) (h : Only L s0 s) :
    Only L s0 (State.tryChan s x2 x3 x4) := by
  unfold State.tryChan
  extract_lets n1 n2
  refine Only.ite ?_ ?_
  · exact State.setChan_only (Part.sub hL (by decide)) (by assumption)
  · refine Only.ite ?_ ?_
    · exact State.ask_only (Part.sub hL (by decide)) (by assumption)
    · assumption

theorem execFrameSlotStart_only {L : List Part} {s0 s : State}
    (hL : [.out, .host, .life, .tape, .wra, .trc, .regs 0, .regs 4, .regs 16, .regs 28, .regs 49] ⊆ L) (h : Only L s0 s) :
    Only.Out L s0 (execFrameSlotStart s) := by
  unfold execFrameSlotStart
  extract_lets n1
  refine Only.iteOut ?_ ?_
  · refine Only.next ?_
    refine State.wr_only (Part.sub hL (by decide)) ?_
    exact State.setWra_only (Part.sub hL (by decide)) (by assumption)
  · refine Only.iteOut ?_ ?_
    · refine Only.next ?_
      refine State.writeFrame_only (Part.sub hL (by decide)) ?_
      exact State.wr_only (Part.sub hL (by decide)) (by assumption)
    · refine Only.iteOut ?_ ?_
      · refine Only.next ?_
        refine State.writeFrame_only (Part.sub hL (by decide)) ?_
        refine State.fillSlot_only (Part.sub hL (by decide)) ?_
        exact State.wr_only (Part.sub hL (by decide)) (by assumption)
      · refine Only.iteOut ?_ ?_
        · refine Only.next ?_
          exact State.passSlot_only (Part.sub hL (by decide)) (by assumption)
        · refine Only.next ?_
          assumption

theorem execFieldWriteStart_only {L : List Part} {s0 s : State} {x1 x2 x3 x4}
    (hL : [.out, .wra, .ctl, .pwr, .regs 28] ⊆ L) (h : Only L s0 s) :
    Only.Out L s0 (execFieldWriteStart x1 x2 x3 x4 s) := by
  unfold execFieldWriteStart
  extract_lets n1 n2 n3 s4 n5 n6 s7 s8 n9
  have hs4 : Only L s0 s4 := by
    unfold s4
    refine Only.foldl _ ?_ (fun s _ h => ?_)
    · assumption
    · exact State.tryChan_only (Part.sub hL (by decide)) (by assumption)
  clear_value s4
  have hs7 : Only L s0 s7 := by
    unfold s7
    refine Only.foldl _ ?_ (fun s _ h => ?_)
    · assumption
    · refine State.emitField_only (Part.sub hL (by decide)) ?_
      exact State.beginChan_only (Part.sub hL (by decide)) (by assumption)
  clear_value s7
  have hs8 : Only L s0 s8 := by
    unfold s8
    refine State.raiseBit_only (Part.sub hL (by decide)) ?_
    exact State.raiseBit_only (Part.sub hL (by decide)) (by assumption)
  clear_value s8
  refine Only.iteOut ?_ ?_
  · refine Only.next ?_
    assumption
  · refine Only.iteOut ?_ ?_
    · refine Only.next ?_
      exact State.stopWrites'_only (Part.sub hL (by decide)) (by assumption)
    · refine Only.iteOut ?_ ?_
      · refine Only.next ?_
        assumption
      · refine Only.next ?_
        refine State.notePair_only (Part.sub hL (by decide)) ?_
        exact State.setActWra_only (Part.sub hL (by decide)) (by assumption)

theorem execFieldWriteEnd_only {L : List Part} {s0 s : State} {x1}
    (hL : [.out, .wra, .regs 28] ⊆ L) (h : Only L s0 s) :
    Only.Out L s0 (execFieldWriteEnd x1 s) := by
  unfold execFieldWriteEnd
  extract_lets n1 n2 s3 s4 n5
  have hs3 : Only L s0 s3 := by
    unfold s3
    refine State.wr_only (Part.sub hL (by decide)) ?_
    exact State.wr_only (Part.sub hL (by decide)) (by assumption)
  clear_value s3
  have hs4 : Only L s0 s4 := by
    unfold s4
    refine Only.foldl _ ?_ (fun s _ h => ?_)
    · assumption
    · extract_lets n6 s7 s8
      have hs7 : Only L s0 s7 := by
        unfold s7
        refine Only.ite ?_ ?_
        · assumption
        · exact State.readPac_only (Part.sub hL (by decide)) (by assumption)
      clear_value s7
      have hs8 : Only L s0 s8 := by
        unfold s8
        refine Only.ite ?_ ?_
        · exact State.wr_only (Part.sub hL (by decide)) (by assumption)
        · assumption
      clear_value s8
      refine Only.ite ?_ ?_
      · assumption
      · exact State.setChan_only (Part.sub hL (by decide)) (by assumption)
  clear_value s4
  refine Only.iteOut ?_ ?_
  · refine Only.next ?_
    assumption
  · refine Only.next ?_
    exact State.setActWra_only (Part.sub hL (by decide)) (by assumption)

theorem execPacResponse_only {L : List Part} {s0 s : State} {x1 x2}
    (hL : [.out, .host, .sq, .obj, .life, .tape, .disk, .wra, .trc, .grp, .red, .regs 0, .regs 4, .regs 8,
      .regs 16, .regs 28, .regs 49] ⊆ L) (h : Only L s0 s) :
    Only.Out L s0 (execPacResponse x1 x2 s) := by
  unfold execPacResponse
  extract_lets n1 n2 n3 n4 n5 n6 s7 n8 s9 s10 n11 s12 s13 s14 n15
  have hs7 : Only L s0 s7 := by
    unfold s7
    refine Only.ite ?_ ?_
    · exact State.wr_only (Part.sub hL (by decide)) (by assumption)
    · exact State.wr_only (Part.sub hL (by decide)) (by assumption)
  clear_value s7
  have hs9 : Only L s0 s9 := by
    unfold s9
    exact State.setActWra_only (Part.sub hL (by decide)) (by assumption)
  clear_value s9
  have hs10 : Only L s0 s10 := by
    unfold s10
    exact State.raise_only (Part.sub hL (by decide)) (by assumption)
  clear_value s10
  have hs12 : Only L s0 s12 := by
    unfold s12
    refine Only.ite ?_ ?_
    · refine State.sendPac_only (Part.sub hL (by decide)) ?_
      exact State.setActWra_only (Part.sub hL (by decide)) (by assumption)
    · assumption
  clear_value s12
  have hs13 : Only L s0 s13 := by
    unfold s13
    refine Only.ite ?_ ?_
    · exact State.failHead_only (Part.sub hL (by decide)) (by assumption)
    · assumption
  clear_value s13
  have hs14 : Only L s0 s14 := by
    unfold s14
    refine Only.ite ?_ ?_
    · exact State.assistFault_only (Part.sub hL (by decide)) (by assumption)
    · assumption
  clear_value s14
  refine Only.iteOut ?_ ?_
  · refine Only.next ?_
    assumption
  · refine Only.iteOut ?_ ?_
    · refine Only.next ?_
      exact State.pacRetry_only (Part.sub hL (by decide)) (by assumption)
    · refine Only.iteOut ?_ ?_
      · refine Only.next ?_
        exact State.setActWra_only (Part.sub hL (by decide)) (by assumption)
      · refine Only.iteOut ?_ ?_
        · refine Only.next ?_
          exact State.pacRetry_only (Part.sub hL (by decide)) (by assumption)
        · refine Only.next ?_
          refine Only.ite ?_ ?_
          · exact State.setActWra_only (Part.sub hL (by decide)) (by assumption)
          · assumption

theorem execPacFaultFall_only {L : List Part} {s0 s : State} {x1}
    (hL : [.out, .wra, .regs 28] ⊆ L) (h : Only L s0 s) :
    Only.Out L s0 (execPacFaultFall x1 s) := by
  unfold execPacFaultFall
  extract_lets n1 s2 s3 n4 s5
  have hs2 : Only L s0 s2 := by
    unfold s2
    refine State.inc_only (Part.sub hL (by decide)) ?_
    refine State.releaseGates_only (Part.sub hL (by decide)) ?_
    exact State.raiseBit_only (Part.sub hL (by decide)) (by assumption)
  clear_value s2
  have hs3 : Only L s0 s3 := by
    unfold s3
    exact State.wr_only (Part.sub hL (by decide)) (by assumption)
  clear_value s3
  have hs5 : Only L s0 s5 := by
    unfold s5
    exact State.setActWra_only (Part.sub hL (by decide)) (by assumption)
  clear_value s5
  refine Only.iteOut ?_ ?_
  · refine Only.next ?_
    assumption
  · refine Only.next ?_
    exact State.readPac_only (Part.sub hL (by decide)) (by assumption)

theorem execAssistLoopSample_only {L : List Part} {s0 s : State} {x1 x2}
    (hL : [.out, .host, .sq, .obj, .life, .tape, .disk, .wra, .trc, .grp, .red, .regs 0, .regs 4, .regs 8,
      .regs 16, .regs 28, .regs 49] ⊆ L) (h : Only L s0 s) :
    Only.Out L s0 (execAssistLoopSample x1 x2 s) := by
  unfold execAssistLoopSample
  refine Only.next ?_
  exact State.assistSample_only (Part.sub hL (by decide)) (by assumption)

theorem execAssistLevelSave_only {L : List Part} {s0 s : State}
    (hL : [.wra] ⊆ L) (h : Only L s0 s) :
    Only.Out L s0 (execAssistLevelSave s) := by
  unfold execAssistLevelSave
  refine Only.next ?_
  refine Only.ite ?_ ?_
  · exact State.saveLevels_only (Part.sub hL (by decide)) (by assumption)
  · assumption

theorem execSynthUnlock_only {L : List Part} {s0 s : State} {x1}
    (hL : [.out, .host, .sq, .obj, .life, .tape, .mot, .disk, .det, .medium, .wra, .ctl, .trc, .grp, .red,
      .pwr, .regs 0, .regs 4, .regs 8, .regs 16, .regs 20, .regs 28, .regs 32, .regs 49] ⊆ L) (h : Only L s0 s) :
    Only.Out L s0 (execSynthUnlock x1 s) := by
  unfold execSynthUnlock
  extract_lets n1 s2 s3 s4 n5 s6 n7 n8 s9 s10
  have hs2 : Only L s0 s2 := by
    unfold s2
    exact State.wr_only (Part.sub hL (by decide)) (by assumption)
  clear_value s2
  have hs3 : Only L s0 s3 := by
    unfold s3
    refine State.wr_only (Part.sub hL (by decide)) ?_
    exact State.wr_only (Part.sub hL (by decide)) (by assumption)
  clear_value s3
  have hs4 : Only L s0 s4 := by
    unfold s4
    refine State.disturb_only (Part.sub hL (by decide)) ?_
    exact State.raise_only (Part.sub hL (by decide)) (by assumption)
  clear_value s4
  have hs6 : Only L s0 s6 := by
    unfold s6
    exact State.wr_only (Part.sub hL (by decide)) (by assumption)
  clear_value s6
  have hs9 : Only L s0 s9 := by
    unfold s9
    exact State.setChan_only (Part.sub hL (by decide)) (by assumption)
  clear_value s9
  have hs10 : Only L s0 s10 := by
    unfold s10
    exact State.wr_only (Part.sub hL (by decide)) (by assumption)
  clear_value s10
  refine Only.iteOut ?_ ?_
  · refine Only.iteOut ?_ ?_
    · refine Only.next ?_
      exact State.setWra_only (Part.sub hL (by decide)) (by assumption)
    · refine Only.next ?_
      assumption
  · refine Only.iteOut ?_ ?_
    · refine Only.iteOut ?_ ?_
      · refine Only.next ?_
        refine State.raise_only (Part.sub hL (by decide)) ?_
        exact State.wr_only (Part.sub hL (by decide)) (by assumption)
      · refine Only.next ?_
        assumption
    · refine Only.next ?_
      assumption

theorem execPacFaultRelease_only {L : List Part} {s0 s : State} {x1}
    (hL : [.out, .wra, .regs 28] ⊆ L) (h : Only L s0 s) :
    Only.Out L s0 (execPacFaultRelease x1 s) := by
  unfold execPacFaultRelease
  extract_lets n1 s2
  have hs2 : Only L s0 s2 := by
    unfold s2
    exact State.wr_only (Part.sub hL (by decide)) (by assumption)
  clear_value s2
  refine Only.iteOut ?_ ?_
  · refine Only.next ?_
    assumption
  · refine Only.next ?_
    exact State.readPac_only (Part.sub hL (by decide)) (by assumption)

theorem execWriteSynthesizerLocked_only {L : List Part} {s0 s : State} {x1}
    (hL : [.wra, .regs 28] ⊆ L) (h : Only L s0 s) :
    Only.Out L s0 (execWriteSynthesizerLocked x1 s) := by
  unfold execWriteSynthesizerLocked
  extract_lets n1
  refine Only.next ?_
  refine Only.ite ?_ ?_
  · refine Only.ite ?_ ?_
    · exact State.wr_only (Part.sub hL (by decide)) (by assumption)
    · assumption
  · refine Only.ite ?_ ?_
    · refine State.raiseBit_only (Part.sub hL (by decide)) ?_
      exact State.setRate_only (Part.sub hL (by decide)) (by assumption)
    · assumption

end Sys2Proof.Machine
end

