-- ==== Sys2Proof/Laws/OnlySpeedwell.lean ====
section
/-!
SUPPORT. The parts of the state that an operation of Machine/Speedwell.lean may change (Laws/Only.lean).
-/

set_option Elab.async false

namespace Sys2Proof.Machine

theorem State.acquired_only {L : List Part} {s0 s : State} {x2}
    (hL : [.ctl, .regs 32] ⊆ L) (h : Only L s0 s) :
    Only L s0 (State.acquired s x2) := by
  unfold State.acquired
  extract_lets n1 n2 n3 s4
  have hs4 : Only L s0 s4 := by
    unfold s4
    exact State.setSlotOf_only (Part.sub hL (by decide)) (by assumption)
  clear_value s4
  refine State.setRampTarget_only (Part.sub hL (by decide)) ?_
  exact State.setRampMode_only (Part.sub hL (by decide)) (by assumption)

theorem State.dkBit_only {L : List Part} {s0 s : State} {x2 x3 x4}
    (hL : [.regs x2.block] ⊆ L) (h : Only L s0 s) :
    Only L s0 (State.dkBit s x2 x3 x4) := by
  unfold State.dkBit
  exact State.putBit_only (Part.sub hL (by simp)) (by assumption)

theorem State.parkActuator_only {L : List Part} {s0 s : State} {x2}
    (hL : [.out, .wra, .ctl, .pwr, .regs 28, .regs 32] ⊆ L) (h : Only L s0 s) :
    Only L s0 (State.parkActuator s x2) := by
  unfold State.parkActuator
  extract_lets s1 s2 s3 s4 s5 n6
  have hs1 : Only L s0 s1 := by
    unfold s1
    refine State.stopWrites'_only (Part.sub hL (by decide)) ?_
    exact State.sendMdrv_only (Part.sub hL (by decide)) (by assumption)
  clear_value s1
  have hs2 : Only L s0 s2 := by
    unfold s2
    refine State.disableSlot_only (Part.sub hL (by decide)) ?_
    exact State.disableSlot_only (Part.sub hL (by decide)) (by assumption)
  clear_value s2
  have hs3 : Only L s0 s3 := by
    unfold s3
    refine Only.foldl _ ?_ (fun s _ h => ?_)
    · assumption
    · refine State.wri_only (Part.sub hL (by decide)) ?_
      exact State.wri_only (Part.sub hL (by decide)) (by assumption)
  clear_value s3
  have hs4 : Only L s0 s4 := by
    unfold s4
    exact State.wri_only (Part.sub hL (by decide)) (by assumption)
  clear_value s4
  have hs5 : Only L s0 s5 := by
    unfold s5
    refine State.dkBit_only (Part.sub hL (by decide)) ?_
    refine State.dkBit_only (Part.sub hL (by decide)) ?_
    exact State.dkBit_only (Part.sub hL (by decide)) (by assumption)
  clear_value s5
  exact State.setAct_only (Part.sub hL (by decide)) (by assumption)

theorem State.stopSpindle_only {L : List Part} {s0 s : State}
    (hL : [.out, .wra, .ctl, .pwr, .regs 28, .regs 32] ⊆ L) (h : Only L s0 s) :
    Only L s0 (State.stopSpindle s) := by
  unfold State.stopSpindle
  extract_lets s1 s2 n3
  have hs1 : Only L s0 s1 := by
    unfold s1
    refine State.disableSlot_only (Part.sub hL (by decide)) ?_
    refine State.parkActuator_only (Part.sub hL (by decide)) ?_
    exact State.parkActuator_only (Part.sub hL (by decide)) (by assumption)
  clear_value s1
  have hs2 : Only L s0 s2 := by
    unfold s2
    refine State.wr_only (Part.sub hL (by decide)) ?_
    exact State.enableLane_only (Part.sub hL (by decide)) (by assumption)
  clear_value s2
  exact State.setCtl_only (Part.sub hL (by decide)) (by assumption)

theorem State.commitTarget_only {L : List Part} {s0 s : State} {x2 x3}
    (hL : [.ctl, .regs 32] ⊆ L) (h : Only L s0 s) :
    Only L s0 (State.commitTarget s x2 x3) := by
  unfold State.commitTarget
  extract_lets s1 n2
  have hs1 : Only L s0 s1 := by
    unfold s1
    exact State.wri_only (Part.sub hL (by decide)) (by assumption)
  clear_value s1
  exact State.setSlotOf_only (Part.sub hL (by decide)) (by assumption)

theorem State.retract_only {L : List Part} {s0 s : State} {x2}
    (hL : [.out, .host, .life, .wra, .ctl, .trc, .pwr, .regs 0, .regs 4, .regs 28, .regs 32, .regs 49] ⊆ L) (h : Only L s0 s) :
    Only L s0 (State.retract s x2) := by
  unfold State.retract
  extract_lets s1 s2 n3
  have hs1 : Only L s0 s1 := by
    unfold s1
    refine State.wr_only (Part.sub hL (by decide)) ?_
    exact State.parkActuator_only (Part.sub hL (by decide)) (by assumption)
  clear_value s1
  have hs2 : Only L s0 s2 := by
    unfold s2
    refine State.raise_only (Part.sub hL (by decide)) ?_
    exact State.inc_only (Part.sub hL (by decide)) (by assumption)
  clear_value s2
  exact State.setAct_only (Part.sub hL (by decide)) (by assumption)

theorem State.failAttempt_only {L : List Part} {s0 s : State} {x2}
    (hL : [.out, .host, .sq, .obj, .life, .tape, .disk, .wra, .ctl, .trc, .grp, .red, .pwr, .regs 0, .regs 4,
      .regs 8, .regs 16, .regs 28, .regs 32, .regs 49] ⊆ L) (h : Only L s0 s) :
    Only L s0 (State.failAttempt s x2) := by
  unfold State.failAttempt
  extract_lets n1 s2 n3 s4 s5 n6
  have hs2 : Only L s0 s2 := by
    unfold s2
    refine State.retract_only (Part.sub hL (by decide)) ?_
    exact State.raise_only (Part.sub hL (by decide)) (by assumption)
  clear_value s2
  have hs4 : Only L s0 s4 := by
    unfold s4
    exact State.setAct_only (Part.sub hL (by decide)) (by assumption)
  clear_value s4
  have hs5 : Only L s0 s5 := by
    unfold s5
    exact State.headAcquire_only (Part.sub hL (by decide)) (by assumption)
  clear_value s5
  refine Only.ite ?_ ?_
  · assumption
  · refine State.failActuator_only (Part.sub hL (by decide)) ?_
    exact State.setAct_only (Part.sub hL (by decide)) (by assumption)

theorem State.countActions_only {L : List Part} {s0 s : State} {x2 x3 x4}
    (hL : [.out, .host, .sq, .obj, .life, .tape, .mot, .disk, .det, .medium, .wra, .ctl, .trc, .grp, .red,
      .pwr, .regs 0, .regs 4, .regs 8, .regs 16, .regs 20, .regs 28, .regs 32, .regs 49] ⊆ L) (h : Only L s0 s) :
    Only L s0 (State.countActions s x2 x3 x4) := by
  unfold State.countActions
  extract_lets n1 s2
  have hs2 : Only L s0 s2 := by
    unfold s2
    refine State.raise_only (Part.sub hL (by decide)) ?_
    exact State.slotFlag_only (Part.sub hL (by decide)) (by assumption)
  clear_value s2
  refine Only.ite ?_ ?_
  · assumption
  · refine Only.ite ?_ ?_
    · assumption
    · refine Only.ite ?_ ?_
      · refine Only.ite ?_ ?_
        · exact State.disturb_only (Part.sub hL (by decide)) (by assumption)
        · assumption
      · refine Only.ite ?_ ?_
        · refine Only.ite ?_ ?_
          · exact State.failAttempt_only (Part.sub hL (by decide)) (by assumption)
          · exact State.retract_only (Part.sub hL (by decide)) (by assumption)
        · assumption

theorem State.countSample_only {L : List Part} {s0 s : State} {x2 x3}
    (hL : [.ctl, .regs 32] ⊆ L) (h : Only L s0 s) :
    Only L s0 (State.countSample s x2 x3) := by
  unfold State.countSample
  extract_lets n1 n2 s3 n4
  have hs3 : Only L s0 s3 := by
    unfold s3
    refine Only.ite ?_ ?_
    · exact State.setSlotOf_only (Part.sub hL (by decide)) (by assumption)
    · assumption
  clear_value s3
  refine Only.ite ?_ ?_
  · refine State.wri_only (Part.sub hL (by decide)) ?_
    exact State.wri_only (Part.sub hL (by decide)) (by assumption)
  · refine State.wri_only (Part.sub hL (by decide)) ?_
    exact State.wri_only (Part.sub hL (by decide)) (by assumption)

theorem State.driveOut_only {L : List Part} {s0 s : State} {x2 x3}
    (hL : [.out, .ctl, .pwr, .regs 32] ⊆ L) (h : Only L s0 s) :
    Only L s0 (State.driveOut s x2 x3) := by
  unfold State.driveOut
  extract_lets n1 s2 s3
  have hs2 : Only L s0 s2 := by
    unfold s2
    exact State.wri_only (Part.sub hL (by decide)) (by assumption)
  clear_value s2
  have hs3 : Only L s0 s3 := by
    unfold s3
    exact State.reportDrive_only (Part.sub hL (by decide)) (by assumption)
  clear_value s3
  refine Only.ite ?_ ?_
  · assumption
  · exact State.sendMdrv_only (Part.sub hL (by decide)) (by assumption)

theorem State.seekFault_only {L : List Part} {s0 s : State} {x2}
    (hL : [.out, .host, .life, .wra, .ctl, .trc, .pwr, .regs 0, .regs 4, .regs 28, .regs 32, .regs 49] ⊆ L) (h : Only L s0 s) :
    Only L s0 (State.seekFault s x2) := by
  unfold State.seekFault
  extract_lets n1 n2 s3 n4 s5
  have hs3 : Only L s0 s3 := by
    unfold s3
    exact State.setRampTarget_only (Part.sub hL (by decide)) (by assumption)
  clear_value s3
  have hs5 : Only L s0 s5 := by
    unfold s5
    exact State.setAct_only (Part.sub hL (by decide)) (by assumption)
  clear_value s5
  refine Only.ite ?_ ?_
  · exact State.retract_only (Part.sub hL (by decide)) (by assumption)
  · refine Only.ite ?_ ?_
    · exact State.ask_only (Part.sub hL (by decide)) (by assumption)
    · assumption

theorem State.spindleFault_only {L : List Part} {s0 s : State} {x2}
    (hL : [.out, .host, .sq, .life, .mot, .medium, .wra, .ctl, .trc, .grp, .pwr, .regs 0, .regs 4, .regs 8,
      .regs 28, .regs 32, .regs 49] ⊆ L) (h : Only L s0 s) :
    Only L s0 (State.spindleFault s x2) := by
  unfold State.spindleFault
  extract_lets s1 n2 s3 s4
  have hs1 : Only L s0 s1 := by
    unfold s1
    refine State.sendMdrv_only (Part.sub hL (by decide)) ?_
    refine State.parkActuator_only (Part.sub hL (by decide)) ?_
    exact State.parkActuator_only (Part.sub hL (by decide)) (by assumption)
  clear_value s1
  have hs3 : Only L s0 s3 := by
    unfold s3
    refine State.setCtl_only (Part.sub hL (by decide)) ?_
    exact State.disableSlot_only (Part.sub hL (by decide)) (by assumption)
  clear_value s3
  have hs4 : Only L s0 s4 := by
    unfold s4
    refine State.raise_only (Part.sub hL (by decide)) ?_
    refine State.wr_only (Part.sub hL (by decide)) ?_
    exact State.wr_only (Part.sub hL (by decide)) (by assumption)
  clear_value s4
  exact State.diskFaulted_only (Part.sub hL (by decide)) (by assumption)

theorem State.ferrFault_only {L : List Part} {s0 s : State} {x2}
    (hL : [.out, .host, .sq, .obj, .life, .tape, .mot, .disk, .det, .medium, .wra, .ctl, .trc, .grp, .red,
      .pwr, .regs 0, .regs 4, .regs 8, .regs 16, .regs 20, .regs 28, .regs 32, .regs 49] ⊆ L) (h : Only L s0 s) :
    Only L s0 (State.ferrFault s x2) := by
  unfold State.ferrFault
  extract_lets n1 s2 s3
  have hs2 : Only L s0 s2 := by
    unfold s2
    exact State.setSlotOf_only (Part.sub hL (by decide)) (by assumption)
  clear_value s2
  have hs3 : Only L s0 s3 := by
    unfold s3
    refine State.raise_only (Part.sub hL (by decide)) ?_
    exact State.slotFlag_only (Part.sub hL (by decide)) (by assumption)
  clear_value s3
  split
  · exact State.seekFault_only (Part.sub hL (by decide)) (by assumption)
  · exact State.spindleFault_only (Part.sub hL (by decide)) (by assumption)
  · refine Only.ite ?_ ?_
    · exact State.tapeReacquire_only (Part.sub hL (by decide)) (by assumption)
    · assumption
  · assumption

theorem State.ferrTime_only {L : List Part} {s0 s : State} {x2 x3 x4}
    (hL : [.out, .host, .sq, .obj, .life, .tape, .mot, .disk, .det, .medium, .wra, .ctl, .trc, .grp, .red,
      .pwr, .regs 0, .regs 4, .regs 8, .regs 16, .regs 20, .regs 28, .regs 32, .regs 49] ⊆ L) (h : Only L s0 s) :
    Only L s0 (State.ferrTime s x2 x3 x4) := by
  unfold State.ferrTime
  extract_lets n1 n2 s3
  have hs3 : Only L s0 s3 := by
    unfold s3
    exact State.setSlotOf_only (Part.sub hL (by decide)) (by assumption)
  clear_value s3
  refine Only.ite ?_ ?_
  · assumption
  · refine Only.ite ?_ ?_
    · exact State.setSlotOf_only (Part.sub hL (by decide)) (by assumption)
    · refine Only.ite ?_ ?_
      · exact State.ferrFault_only (Part.sub hL (by decide)) (by assumption)
      · assumption

theorem State.setServoHead_only {L : List Part} {s0 s : State} {x2 x3}
    (hL : [.ctl, .regs 32] ⊆ L) (h : Only L s0 s) :
    Only L s0 (State.setServoHead s x2 x3) := by
  unfold State.setServoHead
  extract_lets s1
  have hs1 : Only L s0 s1 := by
    unfold s1
    exact State.wr_only (by split <;> exact Part.sub hL (by decide)) (by assumption)
  clear_value s1
  refine Only.ite ?_ ?_
  · assumption
  · refine Only.foldl _ ?_ (fun s _ h => ?_)
    · assumption
    · extract_lets n2
      exact State.setSlotOf_only (Part.sub hL (by decide)) (by assumption)

theorem State.startSeek_only {L : List Part} {s0 s : State} {x2 x3}
    (hL : [.ctl, .pwr, .regs 32] ⊆ L) (h : Only L s0 s) :
    Only L s0 (State.startSeek s x2 x3) := by
  unfold State.startSeek
  split
  · assumption
  · extract_lets n1 n2 s3 s4 s5 s6 n7 s8 n9
    have hs3 : Only L s0 s3 := by
      unfold s3
      exact State.setServoHead_only (Part.sub hL (by decide)) (by assumption)
    clear_value s3
    have hs4 : Only L s0 s4 := by
      unfold s4
      exact State.wri_only (Part.sub hL (by decide)) (by assumption)
    clear_value s4
    have hs5 : Only L s0 s5 := by
      unfold s5
      refine State.setRampTarget_only (Part.sub hL (by decide)) ?_
      exact State.setRampMode_only (Part.sub hL (by decide)) (by assumption)
    clear_value s5
    have hs6 : Only L s0 s6 := by
      unfold s6
      refine State.dkBit_only (Part.sub hL (by decide)) ?_
      exact State.dkBit_only (Part.sub hL (by decide)) (by assumption)
    clear_value s6
    have hs8 : Only L s0 s8 := by
      unfold s8
      exact State.setAct_only (Part.sub hL (by decide)) (by assumption)
    clear_value s8
    refine Only.updPwr (Part.sub hL (by decide)) ?_
    assumption

theorem State.laneFault_only {L : List Part} {s0 s : State} {x2 x3}
    (hL : [.out, .host, .sq, .obj, .life, .tape, .mot, .disk, .det, .medium, .wra, .ctl, .trc, .grp, .red,
      .pwr, .regs 0, .regs 4, .regs 8, .regs 16, .regs 20, .regs 28, .regs 32, .regs 49] ⊆ L) (h : Only L s0 s) :
    Only L s0 (State.laneFault s x2 x3) := by
  unfold State.laneFault
  extract_lets s1 s2 s3 n4
  have hs1 : Only L s0 s1 := by
    unfold s1
    refine State.wr_only (Part.sub hL (by decide)) ?_
    exact State.raiseBit_only (Part.sub hL (by decide)) (by assumption)
  clear_value s1
  have hs2 : Only L s0 s2 := by
    unfold s2
    exact State.raise_only (Part.sub hL (by decide)) (by assumption)
  clear_value s2
  have hs3 : Only L s0 s3 := by
    unfold s3
    exact State.parkActuator_only (Part.sub hL (by decide)) (by assumption)
  clear_value s3
  refine Only.ite ?_ ?_
  · refine Only.ite ?_ ?_
    · exact State.tapeFault_only (Part.sub hL (by decide)) (by assumption)
    · assumption
  · refine Only.ite ?_ ?_
    · assumption
    · refine Only.ite ?_ ?_
      · refine State.failActuator_only (Part.sub hL (by decide)) ?_
        exact State.setAct_only (Part.sub hL (by decide)) (by assumption)
      · refine Only.ite ?_ ?_
        · exact State.spindleFault_only (Part.sub hL (by decide)) (by assumption)
        · assumption

theorem State.loadActuator_only {L : List Part} {s0 s : State} {x2}
    (hL : [.out, .ctl, .regs 32] ⊆ L) (h : Only L s0 s) :
    Only L s0 (State.loadActuator s x2) := by
  unfold State.loadActuator
  extract_lets s1 s2 s3 s4 n5
  have hs1 : Only L s0 s1 := by
    unfold s1
    refine State.enableLane_only (Part.sub hL (by decide)) ?_
    exact State.enableLane_only (Part.sub hL (by decide)) (by assumption)
  clear_value s1
  have hs2 : Only L s0 s2 := by
    unfold s2
    refine State.enableSlot_only (Part.sub hL (by decide)) ?_
    exact State.enableSlot_only (Part.sub hL (by decide)) (by assumption)
  clear_value s2
  have hs3 : Only L s0 s3 := by
    unfold s3
    exact State.setRampMode_only (Part.sub hL (by decide)) (by assumption)
  clear_value s3
  have hs4 : Only L s0 s4 := by
    unfold s4
    exact State.dkBit_only (Part.sub hL (by decide)) (by assumption)
  clear_value s4
  exact State.setAct_only (Part.sub hL (by decide)) (by assumption)

theorem State.startSpindle_only {L : List Part} {s0 s : State}
    (hL : [.out, .ctl, .regs 32] ⊆ L) (h : Only L s0 s) :
    Only L s0 (State.startSpindle s) := by
  unfold State.startSpindle
  extract_lets s1 n2 s3
  have hs1 : Only L s0 s1 := by
    unfold s1
    refine State.enableSlot_only (Part.sub hL (by decide)) ?_
    exact State.enableLane_only (Part.sub hL (by decide)) (by assumption)
  clear_value s1
  have hs3 : Only L s0 s3 := by
    unfold s3
    exact State.setCtl_only (Part.sub hL (by decide)) (by assumption)
  clear_value s3
  exact State.sendMdrv_only (Part.sub hL (by decide)) (by assumption)

theorem State.measureOffsets_only {L : List Part} {s0 s : State}
    (hL : [.free, .regs 33] ⊆ L) (h : Only L s0 s) :
    Only L s0 (State.measureOffsets s) := by
  unfold State.measureOffsets
  extract_lets n1 s2
  have hs2 : Only L s0 s2 := by
    unfold s2
    refine Only.foldl _ ?_ (fun s _ h => ?_)
    · assumption
    · refine Only.foldl _ ?_ (fun s _ h => ?_)
      · assumption
      · exact State.fset_only (Part.sub hL (by decide)) (by assumption)
  clear_value s2
  exact State.tickFree_only (Part.sub hL (by decide)) (by assumption)

theorem State.writePermit_only {L : List Part} {s0 s : State} {x2 x3}
    (hL : [.wra, .regs 28, .regs 32] ⊆ L) (h : Only L s0 s) :
    Only L s0 (State.writePermit s x2 x3) := by
  unfold State.writePermit
  extract_lets n1 n2 n3 n4 s5
  have hs5 : Only L s0 s5 := by
    unfold s5
    exact State.dkBit_only (Part.sub hL (by decide)) (by assumption)
  clear_value s5
  refine Only.ite ?_ ?_
  · exact State.stopWrites'_only (Part.sub hL (by decide)) (by assumption)
  · assumption

theorem State.missedWedge_only {L : List Part} {s0 s : State} {x2}
    (hL : [.wra, .ctl, .regs 28, .regs 32] ⊆ L) (h : Only L s0 s) :
    Only L s0 (State.missedWedge s x2) := by
  unfold State.missedWedge
  extract_lets n1
  refine State.writePermit_only (Part.sub hL (by decide)) ?_
  exact State.setAct_only (Part.sub hL (by decide)) (by assumption)

theorem State.reloadDone_only {L : List Part} {s0 s : State} {x2}
    (hL : [.out, .host, .sq, .obj, .life, .tape, .disk, .ctl, .trc, .grp, .red, .regs 0, .regs 4, .regs 8,
      .regs 16, .regs 32, .regs 49] ⊆ L) (h : Only L s0 s) :
    Only L s0 (State.reloadDone s x2) := by
  unfold State.reloadDone
  extract_lets n1 s2
  have hs2 : Only L s0 s2 := by
    unfold s2
    exact State.setAct_only (Part.sub hL (by decide)) (by assumption)
  clear_value s2
  refine Only.ite ?_ ?_
  · refine State.acquired_only (Part.sub hL (by decide)) ?_
    refine State.raise_only (Part.sub hL (by decide)) ?_
    exact State.headAcquire_only (Part.sub hL (by decide)) (by assumption)
  · assumption

theorem State.runLaw_only {L : List Part} {s0 s : State} {x2 x3 x4 x5 x6 x7 x8}
    (hL : [.out, .host, .life, .ctl, .trc, .pwr, .regs 0, .regs 4, .regs 32, .regs 49] ⊆ L) (h : Only L s0 s) :
    Only L s0 (State.runLaw s x2 x3 x4 x5 x6 x7 x8) := by
  unfold State.runLaw
  extract_lets n1 n2 n3 n4 n5 n6 n7 n8 n9 n10 n11 n12 n13 n14 s15 s16 s17
  have hs15 : Only L s0 s15 := by
    unfold s15
    refine State.wri_only (Part.sub hL (by decide)) ?_
    exact State.setSlotOf_only (Part.sub hL (by decide)) (by assumption)
  clear_value s15
  have hs16 : Only L s0 s16 := by
    unfold s16
    refine State.slotFlagIf_only (Part.sub hL (by decide)) ?_
    exact State.slotFlagIf_only (Part.sub hL (by decide)) (by assumption)
  clear_value s16
  have hs17 : Only L s0 s17 := by
    unfold s17
    refine State.slotFlagIf_only (Part.sub hL (by decide)) ?_
    refine State.slotFlagIf_only (Part.sub hL (by decide)) ?_
    exact State.slotFlagIf_only (Part.sub hL (by decide)) (by assumption)
  clear_value s17
  refine State.traceSample_only (Part.sub hL (by decide)) ?_
  exact State.driveOut_only (Part.sub hL (by decide)) (by assumption)

theorem State.settleWedge_only {L : List Part} {s0 s : State} {x2}
    (hL : [.ctl, .regs 32] ⊆ L) (h : Only L s0 s) :
    Only L s0 (State.settleWedge s x2) := by
  unfold State.settleWedge
  extract_lets n1 n2
  refine Only.ite ?_ ?_
  · refine State.dkBit_only (Part.sub hL (by decide)) ?_
    exact State.setAct_only (Part.sub hL (by decide)) (by assumption)
  · assumption

theorem State.spindleSource_only {L : List Part} {s0 s : State} {x2 x3}
    (hL : [.out, .ctl] ⊆ L) (h : Only L s0 s) :
    Only L s0 (State.spindleSource s x2 x3) := by
  unfold State.spindleSource
  extract_lets n1 n2 s3 n4 n5
  have hs3 : Only L s0 s3 := by
    unfold s3
    exact State.setCtl_only (Part.sub hL (by decide)) (by assumption)
  clear_value s3
  refine Only.ite ?_ ?_
  · refine State.setSlotOf_only (Part.sub hL (by decide)) ?_
    exact State.setCtl_only (Part.sub hL (by decide)) (by assumption)
  · refine Only.ite ?_ ?_
    · exact State.sendMdrv_only (Part.sub hL (by decide)) (by assumption)
    · assumption

theorem State.takeRadius_only {L : List Part} {s0 s : State} {x2}
    (hL : [.mot] ⊆ L) (h : Only L s0 s) :
    Only L s0 (State.takeRadius s x2) := by
  unfold State.takeRadius
  extract_lets n1 n2 n3
  refine Only.ite ?_ ?_
  · assumption
  · exact State.setMot_only (Part.sub hL (by decide)) (by assumption)

theorem State.takeSample_only {L : List Part} {s0 s : State} {x2 x3 x4 x5 x6}
    (hL : [.out, .host, .sq, .obj, .life, .tape, .mot, .disk, .det, .medium, .wra, .ctl, .trc, .grp, .red,
      .pwr, .regs 0, .regs 4, .regs 8, .regs 16, .regs 20, .regs 28, .regs 32, .regs 49] ⊆ L) (h : Only L s0 s) :
    Only L s0 (State.takeSample s x2 x3 x4 x5 x6) := by
  unfold State.takeSample
  extract_lets n1 n2 n3 n4 n5 s6 n7 s8 n9 s10 s11 s12
  have hs6 : Only L s0 s6 := by
    unfold s6
    refine State.wri_only (Part.sub hL (by decide)) ?_
    exact State.wri_only (Part.sub hL (by decide)) (by assumption)
  clear_value s6
  have hs8 : Only L s0 s8 := by
    unfold s8
    refine Only.ite ?_ ?_
    · exact State.countSample_only (Part.sub hL (by decide)) (by assumption)
    · assumption
  clear_value s8
  have hs10 : Only L s0 s10 := by
    unfold s10
    exact State.setSlotOf_only (Part.sub hL (by decide)) (by assumption)
  clear_value s10
  have hs11 : Only L s0 s11 := by
    unfold s11
    exact State.runLaw_only (Part.sub hL (by decide)) (by assumption)
  clear_value s11
  have hs12 : Only L s0 s12 := by
    unfold s12
    refine Only.ite ?_ ?_
    · exact State.countActions_only (Part.sub hL (by decide)) (by assumption)
    · assumption
  clear_value s12
  refine Only.ite ?_ ?_
  · assumption
  · refine Only.ite ?_ ?_
    · refine State.raise_only (Part.sub hL (by decide)) ?_
      refine State.inc_only (Part.sub hL (by decide)) ?_
      exact State.slotFlag_only (Part.sub hL (by decide)) (by assumption)
    · refine Only.ite ?_ ?_
      · exact State.ferrTime_only (Part.sub hL (by decide)) (by assumption)
      · assumption

theorem State.wedgeSample_only {L : List Part} {s0 s : State} {x2 x3 x4}
    (hL : [.out, .host, .sq, .obj, .life, .tape, .mot, .disk, .det, .medium, .wra, .ctl, .trc, .grp, .red,
      .pwr, .regs 0, .regs 4, .regs 8, .regs 16, .regs 20, .regs 28, .regs 32, .regs 49] ⊆ L) (h : Only L s0 s) :
    Only L s0 (State.wedgeSample s x2 x3 x4) := by
  unfold State.wedgeSample
  split
  · assumption
  · extract_lets n1 s2 n3 s4
    have hs2 : Only L s0 s2 := by
      unfold s2
      exact State.setAct_only (Part.sub hL (by decide)) (by assumption)
    clear_value s2
    have hs4 : Only L s0 s4 := by
      unfold s4
      exact State.takeSample_only (Part.sub hL (by decide)) (by assumption)
    clear_value s4
    refine Only.ite ?_ ?_
    · assumption
    · refine Only.ite ?_ ?_
      · exact State.spindleSource_only (Part.sub hL (by decide)) (by assumption)
      · assumption

theorem execWedgeRecord_only {L : List Part} {s0 s : State} {x1 x2 x3 x4 x5 x6 x7 x8 x9 x10 x11}
    (hL : [.out, .host, .sq, .obj, .life, .tape, .disk, .det, .wra, .ctl, .trc, .grp, .red, .regs 0, .regs 4,
      .regs 8, .regs 16, .regs 20, .regs 28, .regs 32, .regs 49] ⊆ L) (h : Only L s0 s) :
    Only.Out L s0 (execWedgeRecord x1 x2 x3 x4 x5 x6 x7 x8 x9 x10 x11 s) := by
  unfold execWedgeRecord
  split
  · refine Only.next ?_
    assumption
  · extract_lets n1 n2 n3 n4 s5 s6 s7 n8 n9 n10 s11
    have hs5 : Only L s0 s5 := by
      unfold s5
      exact State.setLane_only (Part.sub hL (by decide)) (by assumption)
    clear_value s5
    have hs6 : Only L s0 s6 := by
      unfold s6
      exact State.wri_only (Part.sub hL (by decide)) (by assumption)
    clear_value s6
    have hs7 : Only L s0 s7 := by
      unfold s7
      refine Only.ite ?_ ?_
      · assumption
      · exact State.inci_only (Part.sub hL (by decide)) (by assumption)
    clear_value s7
    have hs11 : Only L s0 s11 := by
      unfold s11
      refine State.settleWedge_only (Part.sub hL (by decide)) ?_
      refine State.reloadDone_only (Part.sub hL (by decide)) ?_
      exact State.setAct_only (Part.sub hL (by decide)) (by assumption)
    clear_value s11
    refine Only.iteOut ?_ ?_
    · refine Only.next ?_
      assumption
    · refine Only.next ?_
      exact State.writePermit_only (Part.sub hL (by decide)) (by assumption)

theorem execSlotSample_only {L : List Part} {s0 s : State} {x1 x2 x3 x4}
    (hL : [.out, .host, .sq, .obj, .life, .tape, .mot, .disk, .det, .medium, .wra, .ctl, .trc, .grp, .red,
      .pwr, .regs 0, .regs 4, .regs 8, .regs 16, .regs 20, .regs 28, .regs 32, .regs 49] ⊆ L) (h : Only L s0 s) :
    Only.Out L s0 (execSlotSample x1 x2 x3 x4 s) := by
  unfold execSlotSample
  extract_lets n1 n2 s3
  have hs3 : Only L s0 s3 := by
    unfold s3
    refine State.sendMdrv_only (Part.sub hL (by decide)) ?_
    exact State.takeRadius_only (Part.sub hL (by decide)) (by assumption)
  clear_value s3
  refine Only.iteOut ?_ ?_
  · refine Only.next ?_
    assumption
  · split
    · refine Only.next ?_
      exact State.wedgeSample_only (Part.sub hL (by decide)) (by assumption)
    · refine Only.iteOut ?_ ?_
      · refine Only.next ?_
        exact State.assistSample_only (Part.sub hL (by decide)) (by assumption)
      · refine Only.iteOut ?_ ?_
        · refine Only.next ?_
          refine State.spindleSource_only (Part.sub hL (by decide)) ?_
          exact State.takeSample_only (Part.sub hL (by decide)) (by assumption)
        · refine Only.iteOut ?_ ?_
          · refine Only.next ?_
            exact State.takeSample_only (Part.sub hL (by decide)) (by assumption)
          · refine Only.iteOut ?_ ?_
            · refine Only.next ?_
              exact State.takeSample_only (Part.sub hL (by decide)) (by assumption)
            · refine Only.iteOut ?_ ?_
              · refine Only.next ?_
                exact State.takeSample_only (Part.sub hL (by decide)) (by assumption)
              · refine Only.next ?_
                exact State.takeSample_only (Part.sub hL (by decide)) (by assumption)

theorem execSampleTimeout_only {L : List Part} {s0 s : State} {x1 x2}
    (hL : [.out, .host, .sq, .obj, .life, .tape, .mot, .disk, .det, .medium, .wra, .ctl, .trc, .grp, .red,
      .pwr, .regs 0, .regs 4, .regs 8, .regs 16, .regs 20, .regs 28, .regs 32, .regs 49] ⊆ L) (h : Only L s0 s) :
    Only.Out L s0 (execSampleTimeout x1 x2 s) := by
  unfold execSampleTimeout
  extract_lets n1 n2 n3 n4 n5 s6 s7 s8 s9
  have hs6 : Only L s0 s6 := by
    unfold s6
    refine State.inc_only (Part.sub hL (by decide)) ?_
    exact State.slotFlag_only (Part.sub hL (by decide)) (by assumption)
  clear_value s6
  have hs7 : Only L s0 s7 := by
    unfold s7
    exact State.raise_only (Part.sub hL (by decide)) (by assumption)
  clear_value s7
  have hs8 : Only L s0 s8 := by
    unfold s8
    exact State.takeSample_only (Part.sub hL (by decide)) (by assumption)
  clear_value s8
  have hs9 : Only L s0 s9 := by
    unfold s9
    refine Only.ite ?_ ?_
    · exact State.missedWedge_only (Part.sub hL (by decide)) (by assumption)
    · assumption
  clear_value s9
  refine Only.iteOut ?_ ?_
  · refine Only.next ?_
    refine Only.ite ?_ ?_
    · exact State.spindleSource_only (Part.sub hL (by decide)) (by assumption)
    · assumption
  · refine Only.next ?_
    assumption

theorem execRampTargetCommit_only {L : List Part} {s0 s : State} {x1 x2 x3}
    (hL : [.ctl, .regs 32] ⊆ L) (h : Only L s0 s) :
    Only.Out L s0 (execRampTargetCommit x1 x2 x3 s) := by
  unfold execRampTargetCommit
  extract_lets n1
  refine Only.next ?_
  refine Only.ite ?_ ?_
  · exact State.commitTarget_only (Part.sub hL (by decide)) (by assumption)
  · assumption

theorem execFollowingErrorTimeout_only {L : List Part} {s0 s : State} {x1}
    (hL : [.out, .host, .sq, .obj, .life, .tape, .mot, .disk, .det, .medium, .wra, .ctl, .trc, .grp, .red,
      .pwr, .regs 0, .regs 4, .regs 8, .regs 16, .regs 20, .regs 28, .regs 32, .regs 49] ⊆ L) (h : Only L s0 s) :
    Only.Out L s0 (execFollowingErrorTimeout x1 s) := by
  unfold execFollowingErrorTimeout
  extract_lets n1
  refine Only.next ?_
  refine Only.ite ?_ ?_
  · exact State.ferrFault_only (Part.sub hL (by decide)) (by assumption)
  · assumption

theorem execLoopLossAction_only {L : List Part} {s0 s : State} {x1 x2}
    (hL : [.out, .host, .sq, .obj, .life, .tape, .mot, .disk, .det, .medium, .wra, .ctl, .trc, .grp, .red,
      .pwr, .regs 0, .regs 4, .regs 8, .regs 16, .regs 20, .regs 28, .regs 32, .regs 49] ⊆ L) (h : Only L s0 s) :
    Only.Out L s0 (execLoopLossAction x1 x2 s) := by
  unfold execLoopLossAction
  extract_lets n1 n2 f3
  have hf3 : ∀ a1, Only L s0 a1 → Only L s0 (f3 a1) := by
    intro a1 h
    unfold f3
    refine Only.ite ?_ ?_
    · exact State.missedWedge_only (Part.sub hL (by decide)) (by assumption)
    · assumption
  refine Only.next ?_
  refine Only.ite ?_ ?_
  · refine hf3 _ ?_
    exact State.takeSample_only (Part.sub hL (by decide)) (by assumption)
  · assumption

theorem execRetractAction_only {L : List Part} {s0 s : State} {x1 x2}
    (hL : [.out, .host, .sq, .obj, .life, .tape, .mot, .disk, .det, .medium, .wra, .ctl, .trc, .grp, .red,
      .pwr, .regs 0, .regs 4, .regs 8, .regs 16, .regs 20, .regs 28, .regs 32, .regs 49] ⊆ L) (h : Only L s0 s) :
    Only.Out L s0 (execRetractAction x1 x2 s) := by
  unfold execRetractAction
  extract_lets n1
  refine Only.next ?_
  refine Only.ite ?_ ?_
  · exact State.takeSample_only (Part.sub hL (by decide)) (by assumption)
  · assumption

theorem execReloadAttempt_only {L : List Part} {s0 s : State} {x1}
    (hL : [.out, .ctl, .regs 32] ⊆ L) (h : Only L s0 s) :
    Only.Out L s0 (execReloadAttempt x1 s) := by
  unfold execReloadAttempt
  extract_lets n1 n2 s3 n4
  have hs3 : Only L s0 s3 := by
    unfold s3
    exact State.loadActuator_only (Part.sub hL (by decide)) (by assumption)
  clear_value s3
  refine Only.iteOut ?_ ?_
  · refine Only.next ?_
    exact State.setAct_only (Part.sub hL (by decide)) (by assumption)
  · refine Only.next ?_
    assumption

theorem execReloadWindowExpiry_only {L : List Part} {s0 s : State} {x1}
    (hL : [.out, .host, .sq, .obj, .life, .tape, .disk, .wra, .ctl, .trc, .grp, .red, .pwr, .regs 0, .regs 4,
      .regs 8, .regs 16, .regs 28, .regs 32, .regs 49] ⊆ L) (h : Only L s0 s) :
    Only.Out L s0 (execReloadWindowExpiry x1 s) := by
  unfold execReloadWindowExpiry
  extract_lets n1 n2
  refine Only.iteOut ?_ ?_
  · refine Only.next ?_
    assumption
  · refine Only.iteOut ?_ ?_
    · refine Only.next ?_
      exact State.reloadDone_only (Part.sub hL (by decide)) (by assumption)
    · refine Only.next ?_
      exact State.failAttempt_only (Part.sub hL (by decide)) (by assumption)

theorem execSeekStart_only {L : List Part} {s0 s : State} {x1 x2 x3 x4}
    (hL : [.ctl, .pwr] ⊆ L) (h : Only L s0 s) :
    Only.Out L s0 (execSeekStart x1 x2 x3 x4 s) := by
  unfold execSeekStart
  extract_lets n1 n2 n3
  refine Only.iteOut ?_ ?_
  · refine Only.next ?_
    refine State.ask_only (Part.sub hL (by decide)) ?_
    exact State.setAct_only (Part.sub hL (by decide)) (by assumption)
  · refine Only.next ?_
    assumption

theorem execSpindleAtSpeed_only {L : List Part} {s0 s : State} {x1 x2}
    (hL : [.out, .free, .host, .sq, .life, .disk, .medium, .ctl, .trc, .grp, .regs 0, .regs 4, .regs 8,
      .regs 16, .regs 32, .regs 33, .regs 49] ⊆ L) (h : Only L s0 s) :
    Only.Out L s0 (execSpindleAtSpeed x1 x2 s) := by
  unfold execSpindleAtSpeed
  extract_lets n1 s2 s3
  have hs2 : Only L s0 s2 := by
    unfold s2
    refine State.wr_only (Part.sub hL (by decide)) ?_
    exact State.setCtl_only (Part.sub hL (by decide)) (by assumption)
  clear_value s2
  have hs3 : Only L s0 s3 := by
    unfold s3
    refine Only.foldl _ ?_ (fun s _ h => ?_)
    · assumption
    · split
      · assumption
      · refine Only.ite ?_ ?_
        · exact State.setServoHead_only (Part.sub hL (by decide)) (by assumption)
        · refine State.loadActuator_only (Part.sub hL (by decide)) ?_
          exact State.setServoHead_only (Part.sub hL (by decide)) (by assumption)
  clear_value s3
  refine Only.iteOut ?_ ?_
  · refine Only.next ?_
    refine Only.ite ?_ ?_
    · refine State.diskLoad_only (Part.sub hL (by decide)) ?_
      exact State.measureOffsets_only (Part.sub hL (by decide)) (by assumption)
    · assumption
  · refine Only.next ?_
    assumption

theorem execSpindleFault_only {L : List Part} {s0 s : State} {x1}
    (hL : [.out, .host, .sq, .life, .mot, .medium, .wra, .ctl, .trc, .grp, .pwr, .regs 0, .regs 4, .regs 8,
      .regs 28, .regs 32, .regs 49] ⊆ L) (h : Only L s0 s) :
    Only.Out L s0 (execSpindleFault x1 s) := by
  unfold execSpindleFault
  extract_lets n1 n2
  refine Only.next ?_
  refine Only.ite ?_ ?_
  · exact State.spindleFault_only (Part.sub hL (by decide)) (by assumption)
  · assumption

theorem execMdrvFaultFall_only {L : List Part} {s0 s : State}
    (hL : [.out, .ctl, .regs 32] ⊆ L) (h : Only L s0 s) :
    Only.Out L s0 (execMdrvFaultFall s) := by
  unfold execMdrvFaultFall
  extract_lets s1
  have hs1 : Only L s0 s1 := by
    unfold s1
    exact State.wr_only (Part.sub hL (by decide)) (by assumption)
  clear_value s1
  refine Only.next ?_
  refine Only.foldl _ ?_ (fun s _ h => ?_)
  · assumption
  · refine Only.ite ?_ ?_
    · exact State.sendMdrv_only (Part.sub hL (by decide)) (by assumption)
    · assumption

theorem execMdrvResponse_only {L : List Part} {s0 s : State} {x1 x2}
    (hL : [.out, .host, .sq, .obj, .life, .tape, .mot, .disk, .det, .medium, .wra, .ctl, .trc, .grp, .red,
      .pwr, .regs 0, .regs 4, .regs 8, .regs 16, .regs 20, .regs 28, .regs 32, .regs 49] ⊆ L) (h : Only L s0 s) :
    Only.Out L s0 (execMdrvResponse x1 x2 s) := by
  unfold execMdrvResponse
  extract_lets n1 n2 n3 n4 n5 s6
  have hs6 : Only L s0 s6 := by
    unfold s6
    exact State.setCtl_only (Part.sub hL (by decide)) (by assumption)
  clear_value s6
  refine Only.iteOut ?_ ?_
  · refine Only.next ?_
    assumption
  · refine Only.iteOut ?_ ?_
    · refine Only.next ?_
      exact State.inc_only (Part.sub hL (by decide)) (by assumption)
    · refine Only.iteOut ?_ ?_
      · split
        · extract_lets n7
          refine Only.next ?_
          exact State.setSlotOf_only (Part.sub hL (by decide)) (by assumption)
        · refine Only.next ?_
          assumption
      · refine Only.iteOut ?_ ?_
        · refine Only.next ?_
          exact State.setCtl_only (Part.sub hL (by decide)) (by assumption)
        · refine Only.iteOut ?_ ?_
          · refine Only.next ?_
            refine Only.ite ?_ ?_
            · exact State.laneFault_only (Part.sub hL (by decide)) (by assumption)
            · assumption
          · refine Only.next ?_
            assumption

theorem execMdrvFaultRelease_only {L : List Part} {s0 s : State}
    (hL : [.regs 32] ⊆ L) (h : Only L s0 s) :
    Only.Out L s0 (execMdrvFaultRelease s) := by
  unfold execMdrvFaultRelease
  refine Only.next ?_
  exact State.wr_only (Part.sub hL (by decide)) (by assumption)

end Sys2Proof.Machine
end

