-- ==== Sys2Proof/Laws/OnlySupply.lean ====
section
/-!
SUPPORT. The parts of the state that an operation of Machine/Supply.lean may change (Laws/Only.lean).
-/

set_option Elab.async false

namespace Sys2Proof.Machine

theorem State.abandonNor_only {L : List Part} {s0 s : State}
    (hL : [.out, .boot] ⊆ L) (h : Only L s0 s) :
    Only L s0 (State.abandonNor s) := by
  unfold State.abandonNor
  extract_lets n1
  refine Only.ite ?_ ?_
  · refine State.emit_only (Part.sub hL (by decide)) ?_
    refine Only.updBoot (Part.sub hL (by decide)) ?_
    assumption
  · assumption

theorem State.setPwr_only {L : List Part} {s0 s : State} {x2}
    (hL : [.pwr] ⊆ L) (h : Only L s0 s) :
    Only L s0 (State.setPwr s x2) := by
  unfold State.setPwr
  refine Only.updPwr (Part.sub hL (by decide)) ?_
  assumption

theorem State.addHalved_only {L : List Part} {s0 s : State} {x2}
    (hL : [.pwr, .regs 1] ⊆ L) (h : Only L s0 s) :
    Only L s0 (State.addHalved s x2) := by
  unfold State.addHalved
  extract_lets s1 n2 n3
  have hs1 : Only L s0 s1 := by
    unfold s1
    exact State.addi_only (Part.sub hL (by decide)) (by assumption)
  clear_value s1
  exact State.setPwr_only (Part.sub hL (by decide)) (by assumption)

theorem State.braceTape_only {L : List Part} {s0 s : State}
    (hL : [.out, .mot, .ctl, .regs 32] ⊆ L) (h : Only L s0 s) :
    Only L s0 (State.braceTape s) := by
  unfold State.braceTape
  extract_lets s1 s2 n3
  have hs1 : Only L s0 s1 := by
    unfold s1
    exact State.tapeRamp_only (Part.sub hL (by decide)) (by assumption)
  clear_value s1
  have hs2 : Only L s0 s2 := by
    unfold s2
    refine Only.foldl _ ?_ (fun s _ h => ?_)
    · assumption
    · exact State.wri_only (Part.sub hL (by decide)) (by assumption)
  clear_value s2
  refine Only.ite ?_ ?_
  · assumption
  · refine Only.ite ?_ ?_
    · refine State.wr_only (Part.sub hL (by decide)) ?_
      refine State.sendMdrv_only (Part.sub hL (by decide)) ?_
      exact State.sendMdrv_only (Part.sub hL (by decide)) (by assumption)
    · refine State.syncLevel_only (Part.sub hL (by decide)) ?_
      exact State.setMot_only (Part.sub hL (by decide)) (by assumption)

theorem State.stopMediaWrites_only {L : List Part} {s0 s : State}
    (hL : [.out, .host, .sq, .obj, .life, .tape, .mot, .disk, .det, .medium, .wra, .ctl, .trc, .grp, .red,
      .pwr, .regs 0, .regs 4, .regs 8, .regs 16, .regs 20, .regs 28, .regs 32, .regs 49] ⊆ L) (h : Only L s0 s) :
    Only L s0 (State.stopMediaWrites s) := by
  unfold State.stopMediaWrites
  extract_lets s1
  have hs1 : Only L s0 s1 := by
    unfold s1
    refine Only.foldl _ ?_ (fun s _ h => ?_)
    · assumption
    · extract_lets n2
      refine Only.ite ?_ ?_
      · exact State.setActWra_only (Part.sub hL (by decide)) (by assumption)
      · exact State.stopWrites'_only (Part.sub hL (by decide)) (by assumption)
  clear_value s1
  refine Only.ite ?_ ?_
  · exact State.haltWriting_only (Part.sub hL (by decide)) (by assumption)
  · assumption

theorem State.beginBrace_only {L : List Part} {s0 s : State}
    (hL : [.out, .host, .sq, .obj, .life, .boot, .tape, .mot, .disk, .det, .medium, .wra, .ctl, .trc, .grp,
      .red, .pwr, .regs 0, .regs 2, .regs 4, .regs 8, .regs 16, .regs 20, .regs 28, .regs 32, .regs 49] ⊆ L) (h : Only L s0 s) :
    Only L s0 (State.beginBrace s) := by
  unfold State.beginBrace
  extract_lets s1 s2 s3 s4 n5
  have hs1 : Only L s0 s1 := by
    unfold s1
    refine State.wr_only (Part.sub hL (by decide)) ?_
    refine State.wr_only (Part.sub hL (by decide)) ?_
    exact State.wr_only (Part.sub hL (by decide)) (by assumption)
  clear_value s1
  have hs2 : Only L s0 s2 := by
    unfold s2
    exact State.raise_only (Part.sub hL (by decide)) (by assumption)
  clear_value s2
  have hs3 : Only L s0 s3 := by
    unfold s3
    exact State.wr_only (Part.sub hL (by decide)) (by assumption)
  clear_value s3
  have hs4 : Only L s0 s4 := by
    unfold s4
    refine State.braceTape_only (Part.sub hL (by decide)) ?_
    refine State.abandonNor_only (Part.sub hL (by decide)) ?_
    exact State.stopMediaWrites_only (Part.sub hL (by decide)) (by assumption)
  clear_value s4
  exact State.setPwr_only (Part.sub hL (by decide)) (by assumption)

theorem State.braceRetract_only {L : List Part} {s0 s : State}
    (hL : [.out, .wra, .ctl, .pwr, .regs 28, .regs 32] ⊆ L) (h : Only L s0 s) :
    Only L s0 (State.braceRetract s) := by
  unfold State.braceRetract
  extract_lets n1 s2 n3
  have hs2 : Only L s0 s2 := by
    unfold s2
    exact State.stopSpindle_only (Part.sub hL (by decide)) (by assumption)
  clear_value s2
  exact State.setPwr_only (Part.sub hL (by decide)) (by assumption)

theorem State.braceTapeDone_only {L : List Part} {s0 s : State}
    (hL : [.out, .ctl, .regs 32] ⊆ L) (h : Only L s0 s) :
    Only L s0 (State.braceTapeDone s) := by
  unfold State.braceTapeDone
  refine Only.ite ?_ ?_
  · refine State.wr_only (Part.sub hL (by decide)) ?_
    refine State.sendMdrv_only (Part.sub hL (by decide)) ?_
    exact State.sendMdrv_only (Part.sub hL (by decide)) (by assumption)
  · assumption

theorem State.endAbandoned_only {L : List Part} {s0 s : State}
    (hL : [.out, .host, .sq, .life, .boot, .trc, .grp, .regs 0, .regs 4, .regs 8, .regs 49] ⊆ L) (h : Only L s0 s) :
    Only L s0 (State.endAbandoned s) := by
  unfold State.endAbandoned
  extract_lets n1 s2
  have hs2 : Only L s0 s2 := by
    unfold s2
    refine Only.updBoot (Part.sub hL (by decide)) ?_
    assumption
  clear_value s2
  refine Only.ite ?_ ?_
  · refine Only.foldl _ ?_ (fun s _ h => ?_)
    · assumption
    · exact State.fail_only (Part.sub hL (by decide)) (by assumption)
  · assumption

theorem execDroopTrip_only {L : List Part} {s0 s : State}
    (hL : [.pwr, .regs 1] ⊆ L) (h : Only L s0 s) :
    Only.Out L s0 (execDroopTrip s) := by
  unfold execDroopTrip
  extract_lets s1 n2
  have hs1 : Only L s0 s1 := by
    unfold s1
    refine State.inc_only (Part.sub hL (by decide)) ?_
    refine State.wr_only (Part.sub hL (by decide)) ?_
    exact State.wr_only (Part.sub hL (by decide)) (by assumption)
  clear_value s1
  refine Only.iteOut ?_ ?_
  · refine Only.next ?_
    assumption
  · refine Only.next ?_
    exact State.setPwr_only (Part.sub hL (by decide)) (by assumption)

theorem execDroopRestore_only {L : List Part} {s0 s : State} {x1}
    (hL : [.pwr, .regs 1] ⊆ L) (h : Only L s0 s) :
    Only.Out L s0 (execDroopRestore x1 s) := by
  unfold execDroopRestore
  refine Only.iteOut ?_ ?_
  · refine Only.next ?_
    refine State.wr_only (Part.sub hL (by decide)) ?_
    exact State.addHalved_only (Part.sub hL (by decide)) (by assumption)
  · refine Only.next ?_
    assumption

theorem execSlowingWindowEnd_only {L : List Part} {s0 s : State}
    (hL : [.out, .host, .life, .trc, .pwr, .regs 0, .regs 4, .regs 49] ⊆ L) (h : Only L s0 s) :
    Only.Out L s0 (execSlowingWindowEnd s) := by
  unfold execSlowingWindowEnd
  extract_lets n1 n2 n3 s4
  have hs4 : Only L s0 s4 := by
    unfold s4
    exact State.setPwr_only (Part.sub hL (by decide)) (by assumption)
  clear_value s4
  refine Only.next ?_
  refine Only.ite ?_ ?_
  · assumption
  · exact State.raise_only (Part.sub hL (by decide)) (by assumption)

theorem execSagWarnCrossing_only {L : List Part} {s0 s : State} {x1}
    (hL : [.out, .host, .sq, .obj, .life, .boot, .tape, .mot, .disk, .det, .medium, .wra, .ctl, .trc, .grp,
      .red, .pwr, .regs 0, .regs 2, .regs 4, .regs 8, .regs 16, .regs 20, .regs 28, .regs 32, .regs 49] ⊆ L) (h : Only L s0 s) :
    Only.Out L s0 (execSagWarnCrossing x1 s) := by
  unfold execSagWarnCrossing
  extract_lets n1 s2
  have hs2 : Only L s0 s2 := by
    unfold s2
    refine State.setPwr_only (Part.sub hL (by decide)) ?_
    exact State.wr_only (Part.sub hL (by decide)) (by assumption)
  clear_value s2
  refine Only.next ?_
  refine Only.ite ?_ ?_
  · exact State.beginBrace_only (Part.sub hL (by decide)) (by assumption)
  · assumption

theorem execSagWarnClear_only {L : List Part} {s0 s : State}
    (hL : [.regs 2] ⊆ L) (h : Only L s0 s) :
    Only.Out L s0 (execSagWarnClear s) := by
  unfold execSagWarnClear
  refine Only.next ?_
  exact State.wr_only (Part.sub hL (by decide)) (by assumption)

theorem execBraceRetractTimer_only {L : List Part} {s0 s : State}
    (hL : [.out, .wra, .ctl, .pwr, .regs 28, .regs 32] ⊆ L) (h : Only L s0 s) :
    Only.Out L s0 (execBraceRetractTimer s) := by
  unfold execBraceRetractTimer
  refine Only.next ?_
  refine Only.ite ?_ ?_
  · exact State.braceRetract_only (Part.sub hL (by decide)) (by assumption)
  · assumption

theorem execBraceDone_only {L : List Part} {s0 s : State}
    (hL : [.out, .host, .life, .ctl, .trc, .pwr, .regs 0, .regs 2, .regs 4, .regs 32, .regs 49] ⊆ L) (h : Only L s0 s) :
    Only.Out L s0 (execBraceDone s) := by
  unfold execBraceDone
  extract_lets n1 s2 n3 s4
  have hs2 : Only L s0 s2 := by
    unfold s2
    exact State.braceTapeDone_only (Part.sub hL (by decide)) (by assumption)
  clear_value s2
  have hs4 : Only L s0 s4 := by
    unfold s4
    refine State.wr_only (Part.sub hL (by decide)) ?_
    exact State.setPwr_only (Part.sub hL (by decide)) (by assumption)
  clear_value s4
  refine Only.iteOut ?_ ?_
  · refine Only.next ?_
    exact State.raise_only (Part.sub hL (by decide)) (by assumption)
  · refine Only.next ?_
    assumption

theorem execBraceRecover_only {L : List Part} {s0 s : State}
    (hL : [.out, .host, .sq, .life, .boot, .mot, .ctl, .trc, .grp, .pwr, .regs 0, .regs 2, .regs 4, .regs 8,
      .regs 32, .regs 49] ⊆ L) (h : Only L s0 s) :
    Only.Out L s0 (execBraceRecover s) := by
  unfold execBraceRecover
  extract_lets n1 s2 s3 s4 s5 s6 n7 s8 n9 s10
  have hs2 : Only L s0 s2 := by
    unfold s2
    exact State.setPwr_only (Part.sub hL (by decide)) (by assumption)
  clear_value s2
  have hs3 : Only L s0 s3 := by
    unfold s3
    refine State.wr_only (Part.sub hL (by decide)) ?_
    exact State.wr_only (Part.sub hL (by decide)) (by assumption)
  clear_value s3
  have hs4 : Only L s0 s4 := by
    unfold s4
    exact State.wr_only (Part.sub hL (by decide)) (by assumption)
  clear_value s4
  have hs5 : Only L s0 s5 := by
    unfold s5
    exact State.endAbandoned_only (Part.sub hL (by decide)) (by assumption)
  clear_value s5
  have hs6 : Only L s0 s6 := by
    unfold s6
    refine Only.foldl _ ?_ (fun s _ h => ?_)
    · assumption
    · extract_lets n11
      refine Only.ite ?_ ?_
      · assumption
      · exact State.setAct_only (Part.sub hL (by decide)) (by assumption)
  clear_value s6
  have hs8 : Only L s0 s8 := by
    unfold s8
    refine Only.ite ?_ ?_
    · refine State.startSpindle_only (Part.sub hL (by decide)) ?_
      exact State.setPwr_only (Part.sub hL (by decide)) (by assumption)
    · assumption
  clear_value s8
  have hs10 : Only L s0 s10 := by
    unfold s10
    refine Only.ite ?_ ?_
    · exact State.ask_only (Part.sub hL (by decide)) (by assumption)
    · refine Only.ite ?_ ?_
      · exact State.setMot_only (Part.sub hL (by decide)) (by assumption)
      · assumption
  clear_value s10
  refine Only.iteOut ?_ ?_
  · refine Only.next ?_
    exact State.raise_only (Part.sub hL (by decide)) (by assumption)
  · refine Only.next ?_
    assumption

end Sys2Proof.Machine
end

