-- ==== Sys2Proof/Laws/OnlyReset.lean ====
section
/-!
SUPPORT. The parts of the state that an operation of Machine/Reset.lean may change (Laws/Only.lean).
-/

set_option Elab.async false

namespace Sys2Proof.Machine

theorem State.clearCfgSpace_only {L : List Part} {s0 s : State} {x2}
    (hL : [.host] ⊆ L) (h : Only L s0 s) :
    Only L s0 (State.clearCfgSpace s x2) := by
  unfold State.clearCfgSpace
  extract_lets n1 n2
  refine Only.updHost (Part.sub hL (by decide)) ?_
  assumption

theorem State.dropUncommitted_only {L : List Part} {s0 s : State}
    (hL : [.obj, .disk] ⊆ L) (h : Only L s0 s) :
    Only L s0 (State.dropUncommitted s) := by
  unfold State.dropUncommitted
  extract_lets n1 n2 n3 n4
  refine Only.upd [.obj, .disk] (Part.sub hL (by decide)) ?_ (fun p hp => by
    cases p <;> first | rfl | exact fun _ _ _ _ _ => rfl | exact absurd (by decide) hp)
  assumption

theorem State.resetCause_only {L : List Part} {s0 s : State} {x2}
    (hL : [.boot, .regs 0] ⊆ L) (h : Only L s0 s) :
    Only L s0 (State.resetCause s x2) := by
  unfold State.resetCause
  extract_lets n1 n2 n3 s4
  have hs4 : Only L s0 s4 := by
    unfold s4
    refine Only.updBoot (Part.sub hL (by decide)) ?_
    assumption
  clear_value s4
  refine State.wr_only (Part.sub hL (by decide)) ?_
  exact State.wr_only (Part.sub hL (by decide)) (by assumption)

theorem State.warmLosses_only {L : List Part} {s0 s : State}
    (hL : [.host, .sq, .obj, .boot, .tape, .mot, .disk, .det, .medium, .wra, .ctl, .trc, .grp, .red, .pwr, .mem] ⊆ L) (h : Only L s0 s) :
    Only L s0 (State.warmLosses s) := by
  unfold State.warmLosses
  refine (State.dropUncommitted_only (Part.sub hL (by decide)) h).trans fun p hp => ?_
  cases p <;> first | rfl | exact fun _ _ _ _ _ => rfl | exact absurd (hL (by decide)) hp

theorem State.resetWarm_only {L : List Part} {s0 s : State}
    (hL : [.host, .sq, .obj, .boot, .tape, .mot, .disk, .det, .medium, .wra, .ctl, .trc, .grp, .red, .pwr,
      .mem, .regs 0, .regs 1, .regs 2, .regs 3, .regs 4, .regs 8, .regs 10, .regs 12, .regs 16, .regs 20,
      .regs 24, .regs 28, .regs 32, .regs 33, .regs 36, .regs 40, .regs 44, .regs 48, .regs 49] ⊆ L) (h : Only L s0 s) :
    Only L s0 (State.resetWarm s) := by
  refine (State.warmLosses_only (Part.sub hL (by decide)) h).trans fun p hp => ?_
  cases p with
  | regs b => exact fun f hf hb => absurd (Only.regs_mem f hf hb (Part.sub hL (by decide))) hp
  | _ => rfl

theorem State.resetPor_only {L : List Part} {s0 s : State}
    (hL : [.host, .sq, .obj, .boot, .tape, .mot, .disk, .det, .medium, .wra, .ctl, .trc, .grp, .red, .pwr,
      .mem, .regs 0, .regs 1, .regs 2, .regs 3, .regs 4, .regs 8, .regs 10, .regs 12, .regs 16, .regs 20,
      .regs 24, .regs 28, .regs 32, .regs 33, .regs 36, .regs 40, .regs 44, .regs 48, .regs 49] ⊆ L) (h : Only L s0 s) :
    Only L s0 (State.resetPor s) := by
  unfold State.resetPor
  have h0 : Only L s0 ([1, 10, 11].foldl (fun s n => s.wri F.THM_TEMP_VALID n 0) s.resetWarm) :=
    Only.foldl _ (State.resetWarm_only (Part.sub hL (by decide)) h) fun _ _ h => State.wri_only (Part.sub hL (by decide)) h
  have h1 := State.wr_only (x2 := F.CLK_STATUS_EPL_LOCK) (x3 := 0) (Part.sub hL (by decide))
    (State.wr_only (x2 := F.CLK_STATUS_PCIE_LOCK) (x3 := 0) (Part.sub hL (by decide))
    (State.wr_only (x2 := F.CLK_STATUS_ROOT_LOCK) (x3 := 0) (Part.sub hL (by decide)) h0))
  refine h1.trans fun p hp => ?_
  cases p with
  | regs b => exact fun f hf hb => absurd (Only.regs_mem f hf hb (Part.sub hL (by decide))) hp
  | _ => first | rfl | exact absurd (hL (by decide)) hp

theorem State.resetAon_only {L : List Part} {s0 s : State}
    (hL : [.host, .sq, .obj, .boot, .tape, .mot, .disk, .det, .medium, .wra, .ctl, .trc, .grp, .red, .pwr,
      .mem, .regs 0, .regs 1, .regs 2, .regs 3, .regs 4, .regs 8, .regs 10, .regs 12, .regs 16, .regs 20,
      .regs 24, .regs 28, .regs 32, .regs 33, .regs 36, .regs 40, .regs 44, .regs 48, .regs 49] ⊆ L) (h : Only L s0 s) :
    Only L s0 (State.resetAon s) := by
  refine (State.resetPor_only (Part.sub hL (by decide)) h).trans fun p hp => ?_
  cases p with
  | regs b => exact fun f hf hb => absurd (Only.regs_mem f hf hb (Part.sub hL (by decide))) hp
  | _ => first | rfl | exact absurd (hL (by decide)) hp

theorem execAlwaysOnSupplyUp_only {L : List Part} {s0 s : State}
    (hL : [.host, .sq, .obj, .boot, .tape, .mot, .disk, .det, .medium, .wra, .ctl, .trc, .grp, .red, .pwr,
      .mem, .regs 0, .regs 1, .regs 2, .regs 3, .regs 4, .regs 8, .regs 10, .regs 12, .regs 16, .regs 20,
      .regs 24, .regs 28, .regs 32, .regs 33, .regs 36, .regs 40, .regs 44, .regs 48, .regs 49] ⊆ L) (h : Only L s0 s) :
    Only.Out L s0 (execAlwaysOnSupplyUp s) := by
  unfold execAlwaysOnSupplyUp
  extract_lets s1 n2 s3
  have hs1 : Only L s0 s1 := by
    unfold s1
    exact State.resetAon_only (Part.sub hL (by decide)) (by assumption)
  clear_value s1
  have hs3 : Only L s0 s3 := by
    unfold s3
    refine Only.updBoot (Part.sub hL (by decide)) ?_
    assumption
  clear_value s3
  refine Only.next ?_
  exact State.resetCause_only (Part.sub hL (by decide)) (by assumption)

theorem execPowerOnReset_only {L : List Part} {s0 s : State}
    (hL : [.host, .sq, .obj, .boot, .tape, .mot, .disk, .det, .medium, .wra, .ctl, .trc, .grp, .red, .pwr,
      .mem, .regs 0, .regs 1, .regs 2, .regs 3, .regs 4, .regs 8, .regs 10, .regs 12, .regs 16, .regs 20,
      .regs 24, .regs 28, .regs 32, .regs 33, .regs 36, .regs 40, .regs 44, .regs 48, .regs 49] ⊆ L) (h : Only L s0 s) :
    Only.Out L s0 (execPowerOnReset s) := by
  unfold execPowerOnReset
  refine Only.next ?_
  refine State.resetCause_only (Part.sub hL (by decide)) ?_
  exact State.resetPor_only (Part.sub hL (by decide)) (by assumption)

theorem execPerstNAsserted_only {L : List Part} {s0 s : State}
    (hL : [.host, .sq, .obj, .boot, .tape, .mot, .disk, .det, .medium, .wra, .ctl, .trc, .grp, .red, .pwr,
      .mem, .regs 0, .regs 1, .regs 2, .regs 3, .regs 4, .regs 8, .regs 10, .regs 12, .regs 16, .regs 20,
      .regs 24, .regs 28, .regs 32, .regs 33, .regs 36, .regs 40, .regs 44, .regs 48, .regs 49] ⊆ L) (h : Only L s0 s) :
    Only.Out L s0 (execPerstNAsserted s) := by
  unfold execPerstNAsserted
  extract_lets s1 s2 n3 s4 s5 s6
  have hs1 : Only L s0 s1 := by
    unfold s1
    exact State.resetWarm_only (Part.sub hL (by decide)) (by assumption)
  clear_value s1
  have hs2 : Only L s0 s2 := by
    unfold s2
    refine State.clearCfgSpace_only (Part.sub hL (by decide)) ?_
    exact State.clearCfgSpace_only (Part.sub hL (by decide)) (by assumption)
  clear_value s2
  have hs4 : Only L s0 s4 := by
    unfold s4
    refine Only.updHost (Part.sub hL (by decide)) ?_
    assumption
  clear_value s4
  have hs5 : Only L s0 s5 := by
    unfold s5
    refine State.wr_only (Part.sub hL (by decide)) ?_
    exact State.wr_only (Part.sub hL (by decide)) (by assumption)
  clear_value s5
  have hs6 : Only L s0 s6 := by
    unfold s6
    refine State.wr_only (Part.sub hL (by decide)) ?_
    exact State.wr_only (Part.sub hL (by decide)) (by assumption)
  clear_value s6
  refine Only.next ?_
  exact State.resetCause_only (Part.sub hL (by decide)) (by assumption)

theorem execWatchdogExpiry_only {L : List Part} {s0 s : State}
    (hL : [.host, .sq, .obj, .boot, .tape, .mot, .disk, .det, .medium, .wra, .ctl, .trc, .grp, .red, .pwr,
      .mem, .regs 0, .regs 1, .regs 2, .regs 3, .regs 4, .regs 8, .regs 10, .regs 12, .regs 16, .regs 20,
      .regs 24, .regs 28, .regs 32, .regs 33, .regs 36, .regs 40, .regs 44, .regs 48, .regs 49] ⊆ L) (h : Only L s0 s) :
    Only.Out L s0 (execWatchdogExpiry s) := by
  unfold execWatchdogExpiry
  refine Only.iteOut ?_ ?_
  · refine Only.next ?_
    refine State.resetCause_only (Part.sub hL (by decide)) ?_
    exact State.resetWarm_only (Part.sub hL (by decide)) (by assumption)
  · refine Only.next ?_
    assumption

theorem execWdtKick_only {L : List Part} {s0 s : State} {x1 x2}
    (hL : [.boot] ⊆ L) (h : Only L s0 s) :
    Only.Out L s0 (execWdtKick x1 x2 s) := by
  unfold execWdtKick
  extract_lets n1
  refine Only.iteOut ?_ ?_
  · refine Only.next ?_
    refine Only.updBoot (Part.sub hL (by decide)) ?_
    assumption
  · refine Only.next ?_
    assumption

theorem execSagResetCrossing_only {L : List Part} {s0 s : State} {x1}
    (hL : [.host, .sq, .obj, .boot, .tape, .mot, .disk, .det, .medium, .wra, .ctl, .trc, .grp, .red, .pwr,
      .mem, .regs 0, .regs 1, .regs 2, .regs 3, .regs 4, .regs 8, .regs 10, .regs 12, .regs 16, .regs 20,
      .regs 24, .regs 28, .regs 32, .regs 33, .regs 36, .regs 40, .regs 44, .regs 48, .regs 49] ⊆ L) (h : Only L s0 s) :
    Only.Out L s0 (execSagResetCrossing x1 s) := by
  unfold execSagResetCrossing
  extract_lets s1 n2
  have hs1 : Only L s0 s1 := by
    unfold s1
    exact State.resetPor_only (Part.sub hL (by decide)) (by assumption)
  clear_value s1
  refine Only.next ?_
  refine State.resetCause_only (Part.sub hL (by decide)) ?_
  refine Only.updPwr (Part.sub hL (by decide)) ?_
  assumption

theorem execPerstNDeasserted_only {L : List Part} {s0 s : State}
    (hL : [.host] ⊆ L) (h : Only L s0 s) :
    Only.Out L s0 (execPerstNDeasserted s) := by
  unfold execPerstNDeasserted
  extract_lets n1
  refine Only.next ?_
  refine Only.updHost (Part.sub hL (by decide)) ?_
  assumption

end Sys2Proof.Machine
end

