-- ==== Sys2Proof/Laws/OnlyThermal.lean ====
section
/-!
SUPPORT. The parts of the state that an operation of Machine/Thermal.lean may change (Laws/Only.lean).
-/

set_option Elab.async false

namespace Sys2Proof.Machine

theorem State.enforce_only {L : List Part} {s0 s : State}
    (hL : [.out, .host, .sq, .life, .trc, .regs 0, .regs 4, .regs 8, .regs 49] ⊆ L) (h : Only L s0 s) :
    Only L s0 (State.enforce s) := by
  unfold State.enforce
  extract_lets n1 s2 n3 s4
  have hs2 : Only L s0 s2 := by
    unfold s2
    refine State.wr_only (Part.sub hL (by decide)) ?_
    refine State.wr_only (Part.sub hL (by decide)) ?_
    exact State.wr_only (Part.sub hL (by decide)) (by assumption)
  clear_value s2
  have hs4 : Only L s0 s4 := by
    unfold s4
    refine Only.updSq (Part.sub hL (by decide)) ?_
    assumption
  clear_value s4
  exact State.raise_only (Part.sub hL (by decide)) (by assumption)

theorem State.raiseUnits_only {L : List Part} {s0 s : State}
    (hL : [.regs 8] ⊆ L) (h : Only L s0 s) :
    Only L s0 (State.raiseUnits s) := by
  unfold State.raiseUnits
  refine Only.ite ?_ ?_
  · exact State.wr_only (Part.sub hL (by decide)) (by assumption)
  · assumption

theorem State.syncCauses_only {L : List Part} {s0 s : State}
    (hL : [.out, .host, .sq, .life, .trc, .pwr, .regs 0, .regs 3, .regs 4, .regs 8, .regs 49] ⊆ L) (h : Only L s0 s) :
    Only L s0 (State.syncCauses s) := by
  unfold State.syncCauses
  extract_lets n1 n2 s3 n4 n5 n6 s7 n8 s9 s10
  have hs3 : Only L s0 s3 := by
    unfold s3
    exact State.wr_only (Part.sub hL (by decide)) (by assumption)
  clear_value s3
  have hs7 : Only L s0 s7 := by
    unfold s7
    exact State.raise_only (Part.sub hL (by decide)) (by assumption)
  clear_value s7
  have hs9 : Only L s0 s9 := by
    unfold s9
    refine Only.ite ?_ ?_
    · exact State.setPwr_only (Part.sub hL (by decide)) (by assumption)
    · assumption
  clear_value s9
  have hs10 : Only L s0 s10 := by
    unfold s10
    exact State.unask_only (Part.sub hL (by decide)) (by assumption)
  clear_value s10
  refine Only.ite ?_ ?_
  · assumption
  · refine Only.ite ?_ ?_
    · refine Only.ite ?_ ?_
      · exact State.enforce_only (Part.sub hL (by decide)) (by assumption)
      · refine State.wr_only (Part.sub hL (by decide)) ?_
        exact State.wr_only (Part.sub hL (by decide)) (by assumption)
    · refine Only.ite ?_ ?_
      · refine State.raise_only (Part.sub hL (by decide)) ?_
        refine State.wr_only (Part.sub hL (by decide)) ?_
        exact State.wr_only (Part.sub hL (by decide)) (by assumption)
      · assumption

theorem State.sensorFault_only {L : List Part} {s0 s : State} {x2 x3}
    (hL : [.out, .host, .sq, .life, .trc, .pwr, .regs 0, .regs 3, .regs 4, .regs 8, .regs 49] ⊆ L) (h : Only L s0 s) :
    Only L s0 (State.sensorFault s x2 x3) := by
  unfold State.sensorFault
  extract_lets s1
  have hs1 : Only L s0 s1 := by
    unfold s1
    exact State.wri_only (Part.sub hL (by decide)) (by assumption)
  clear_value s1
  refine Only.ite ?_ ?_
  · assumption
  · refine State.syncCauses_only (Part.sub hL (by decide)) ?_
    refine State.raise_only (Part.sub hL (by decide)) ?_
    refine State.wr_only (Part.sub hL (by decide)) ?_
    exact State.wri_only (Part.sub hL (by decide)) (by assumption)

theorem State.setSensor_only {L : List Part} {s0 s : State} {x2 x3}
    (hL : [.pwr] ⊆ L) (h : Only L s0 s) :
    Only L s0 (State.setSensor s x2 x3) := by
  unfold State.setSensor
  extract_lets n1
  exact State.setPwr_only (Part.sub hL (by decide)) (by assumption)

theorem State.setEntered_only {L : List Part} {s0 s : State} {x2 x3}
    (hL : [.pwr, .regs 3] ⊆ L) (h : Only L s0 s) :
    Only L s0 (State.setEntered s x2 x3) := by
  unfold State.setEntered
  extract_lets n1
  refine State.wri_only (Part.sub hL (by decide)) ?_
  exact State.setSensor_only (Part.sub hL (by decide)) (by assumption)

theorem State.takeReading_only {L : List Part} {s0 s : State} {x2 x3}
    (hL : [.pwr, .mem, .regs 3] ⊆ L) (h : Only L s0 s) :
    Only L s0 (State.takeReading s x2 x3) := by
  unfold State.takeReading
  extract_lets n1 s2 s3 n4
  have hs2 : Only L s0 s2 := by
    unfold s2
    refine Only.ite ?_ ?_
    · refine Only.updMem (Part.sub hL (by decide)) ?_
      assumption
    · assumption
  clear_value s2
  have hs3 : Only L s0 s3 := by
    unfold s3
    refine State.wri_only (Part.sub hL (by decide)) ?_
    exact State.wri_only (Part.sub hL (by decide)) (by assumption)
  clear_value s3
  exact State.setSensor_only (Part.sub hL (by decide)) (by assumption)

theorem State.thermalShutdown_only {L : List Part} {s0 s : State} {x2}
    (hL : [.out, .host, .sq, .obj, .life, .boot, .tape, .mot, .disk, .det, .medium, .wra, .ctl, .trc, .grp,
      .red, .pwr, .mem, .regs 0, .regs 1, .regs 2, .regs 3, .regs 4, .regs 8, .regs 10, .regs 12, .regs 16,
      .regs 20, .regs 24, .regs 28, .regs 32, .regs 33, .regs 36, .regs 40, .regs 44, .regs 48, .regs 49] ⊆ L) (h : Only L s0 s) :
    Only L s0 (State.thermalShutdown s x2) := by
  unfold State.thermalShutdown
  extract_lets n1 n2 s3 s4 s5 n6 s7
  have hs3 : Only L s0 s3 := by
    unfold s3
    refine Only.ite ?_ ?_
    · exact State.interruptSet_only (Part.sub hL (by decide)) (by assumption)
    · assumption
  clear_value s3
  have hs4 : Only L s0 s4 := by
    unfold s4
    refine State.braceTapeDone_only (Part.sub hL (by decide)) ?_
    refine State.braceTape_only (Part.sub hL (by decide)) ?_
    refine State.abandonNor_only (Part.sub hL (by decide)) ?_
    exact State.stopMediaWrites_only (Part.sub hL (by decide)) (by assumption)
  clear_value s4
  have hs5 : Only L s0 s5 := by
    unfold s5
    refine Only.ite ?_ ?_
    · exact State.braceRetract_only (Part.sub hL (by decide)) (by assumption)
    · assumption
  clear_value s5
  have hs7 : Only L s0 s7 := by
    unfold s7
    exact State.setPwr_only (Part.sub hL (by decide)) (by assumption)
  clear_value s7
  refine State.resetCause_only (Part.sub hL (by decide)) ?_
  exact State.resetPor_only (Part.sub hL (by decide)) (by assumption)

theorem execSensorConversion_only {L : List Part} {s0 s : State} {x1 x2}
    (hL : [.out, .host, .sq, .life, .trc, .pwr, .mem, .regs 0, .regs 3, .regs 4, .regs 8, .regs 49] ⊆ L) (h : Only L s0 s) :
    Only.Out L s0 (execSensorConversion x1 x2 s) := by
  unfold execSensorConversion
  extract_lets n1 n2 n3 n4 s5
  have hs5 : Only L s0 s5 := by
    unfold s5
    exact State.setSensor_only (Part.sub hL (by decide)) (by assumption)
  clear_value s5
  refine Only.iteOut ?_ ?_
  · refine Only.next ?_
    assumption
  · split
    · refine Only.next ?_
      refine Only.ite ?_ ?_
      · exact State.sensorFault_only (Part.sub hL (by decide)) (by assumption)
      · assumption
    · refine Only.next ?_
      exact State.sensorFault_only (Part.sub hL (by decide)) (by assumption)
    · refine Only.iteOut ?_ ?_
      · refine Only.next ?_
        exact State.sensorFault_only (Part.sub hL (by decide)) (by assumption)
      · refine Only.next ?_
        refine State.syncCauses_only (Part.sub hL (by decide)) ?_
        exact State.takeReading_only (Part.sub hL (by decide)) (by assumption)

theorem execThresholdDwellExpiry_only {L : List Part} {s0 s : State} {x1 x2}
    (hL : [.out, .host, .sq, .obj, .life, .boot, .tape, .mot, .disk, .det, .medium, .wra, .ctl, .trc, .grp,
      .red, .pwr, .mem, .regs 0, .regs 1, .regs 2, .regs 3, .regs 4, .regs 8, .regs 10, .regs 12, .regs 16,
      .regs 20, .regs 24, .regs 28, .regs 32, .regs 33, .regs 36, .regs 40, .regs 44, .regs 48, .regs 49] ⊆ L) (h : Only L s0 s) :
    Only.Out L s0 (execThresholdDwellExpiry x1 x2 s) := by
  unfold execThresholdDwellExpiry
  extract_lets n k v x w m r s1 s2
  clear_value k
  refine Only.iteOut (Only.next h) (Only.iteOut ?_ (Only.iteOut ?_ (Only.next h)))
  · have h1 : Only L s0 s1 := State.setEntered_only (Part.sub hL (by decide)) h
    clear_value s1
    split
    · exact Only.next (State.raise_only (Part.sub hL (by decide)) (State.wr_only (Part.sub hL (by decide)) h1))
    · exact Only.next (State.syncCauses_only (Part.sub hL (by decide)) (State.raise_only (Part.sub hL (by decide))
        (State.wr_only (Part.sub hL (by decide)) h1)))
    · exact Only.iteOut (Only.next (State.syncCauses_only (Part.sub hL (by decide)) h1))
        (Only.next (State.thermalShutdown_only (Part.sub hL (by decide)) (State.raise_only (Part.sub hL (by decide)) h1)))
  · have h1 : Only L s0 s2 := State.setEntered_only (Part.sub hL (by decide)) h
    clear_value s2
    split
    · exact Only.next (State.raise_only (Part.sub hL (by decide)) h1)
    · exact Only.next (State.syncCauses_only (Part.sub hL (by decide)) (State.raise_only (Part.sub hL (by decide)) h1))
    · exact Only.next (State.syncCauses_only (Part.sub hL (by decide)) h1)

theorem execRiseDwellExpiry_only {L : List Part} {s0 s : State} {x1}
    (hL : [.out, .host, .sq, .life, .trc, .pwr, .regs 0, .regs 3, .regs 4, .regs 8, .regs 49] ⊆ L) (h : Only L s0 s) :
    Only.Out L s0 (execRiseDwellExpiry x1 s) := by
  unfold execRiseDwellExpiry
  extract_lets n1 n2 n3 n4
  refine Only.iteOut ?_ ?_
  · refine Only.next ?_
    assumption
  · refine Only.iteOut ?_ ?_
    · refine Only.next ?_
      refine State.syncCauses_only (Part.sub hL (by decide)) ?_
      refine State.raise_only (Part.sub hL (by decide)) ?_
      refine State.wr_only (Part.sub hL (by decide)) ?_
      exact State.wri_only (Part.sub hL (by decide)) (by assumption)
    · refine Only.iteOut ?_ ?_
      · refine Only.next ?_
        refine State.syncCauses_only (Part.sub hL (by decide)) ?_
        refine State.raise_only (Part.sub hL (by decide)) ?_
        exact State.wri_only (Part.sub hL (by decide)) (by assumption)
      · refine Only.next ?_
        assumption

theorem execSensorFaultClear_only {L : List Part} {s0 s : State} {x1}
    (hL : [.out, .host, .sq, .life, .trc, .pwr, .regs 0, .regs 3, .regs 4, .regs 8, .regs 49] ⊆ L) (h : Only L s0 s) :
    Only.Out L s0 (execSensorFaultClear x1 s) := by
  unfold execSensorFaultClear
  extract_lets n1
  refine Only.next ?_
  refine Only.ite ?_ ?_
  · refine State.syncCauses_only (Part.sub hL (by decide)) ?_
    refine State.raise_only (Part.sub hL (by decide)) ?_
    exact State.wri_only (Part.sub hL (by decide)) (by assumption)
  · assumption

theorem execThrottleGraceExpiry_only {L : List Part} {s0 s : State}
    (hL : [.out, .host, .sq, .life, .trc, .regs 0, .regs 4, .regs 8, .regs 49] ⊆ L) (h : Only L s0 s) :
    Only.Out L s0 (execThrottleGraceExpiry s) := by
  unfold execThrottleGraceExpiry
  refine Only.next ?_
  refine Only.ite ?_ ?_
  · exact State.enforce_only (Part.sub hL (by decide)) (by assumption)
  · assumption

theorem execThrottleAdjust_only {L : List Part} {s0 s : State}
    (hL : [.pwr, .regs 3, .regs 8] ⊆ L) (h : Only L s0 s) :
    Only.Out L s0 (execThrottleAdjust s) := by
  unfold execThrottleAdjust
  extract_lets n1 s2 n3
  have hs2 : Only L s0 s2 := by
    unfold s2
    exact State.wr_only (Part.sub hL (by decide)) (by assumption)
  clear_value s2
  refine Only.iteOut ?_ ?_
  · refine Only.next ?_
    assumption
  · refine Only.iteOut ?_ ?_
    · refine Only.next ?_
      exact State.wr_only (Part.sub hL (by decide)) (by assumption)
    · refine Only.iteOut ?_ ?_
      · refine Only.next ?_
        exact State.ask_only (Part.sub hL (by decide)) (by assumption)
      · refine Only.next ?_
        assumption

theorem execThermalRelease_only {L : List Part} {s0 s : State}
    (hL : [.pwr] ⊆ L) (h : Only L s0 s) :
    Only.Out L s0 (execThermalRelease s) := by
  unfold execThermalRelease
  extract_lets n1 n2 n3
  refine Only.next ?_
  refine Only.ite ?_ ?_
  · exact State.setPwr_only (Part.sub hL (by decide)) (by assumption)
  · assumption

end Sys2Proof.Machine
end

