-- ==== Sys2Proof/Laws/OnlyBetony.lean ====
section
/-!
SUPPORT. The parts of the state that an operation of Machine/Betony.lean may change (Laws/Only.lean).
-/

set_option Elab.async false

namespace Sys2Proof.Machine

theorem State.setShare_only {L : List Part} {s0 s : State} {x2}
    (hL : [.regs 36, .regs 40] ⊆ L) (h : Only L s0 s) :
    Only L s0 (State.setShare s x2) := by
  unfold State.setShare
  extract_lets n1
  refine State.wr_only (Part.sub hL (by decide)) ?_
  refine State.wr_only (Part.sub hL (by decide)) ?_
  exact State.wr_only (Part.sub hL (by decide)) (by assumption)

theorem State.grantAction_only {L : List Part} {s0 s : State} {x2 x3}
    (hL : [.out, .host, .life, .tape, .mot, .wra, .ctl, .trc, .pwr, .regs 0, .regs 4, .regs 8, .regs 28,
      .regs 32, .regs 36, .regs 40, .regs 49] ⊆ L) (h : Only L s0 s) :
    Only L s0 (State.grantAction s x2 x3) := by
  unfold State.grantAction
  split
  · extract_lets n1
    exact State.setChan_only (Part.sub hL (by decide)) (by assumption)
  · exact State.startSeek_only (Part.sub hL (by decide)) (by assumption)
  · split
    · exact State.runUp_only (Part.sub hL (by decide)) (by assumption)
    · exact State.restartTape_only (Part.sub hL (by decide)) (by assumption)
    · exact State.parkReverse_only (Part.sub hL (by decide)) (by assumption)
    · exact State.locateTape_only (Part.sub hL (by decide)) (by assumption)
  · exact State.startChange_only (Part.sub hL (by decide)) (by assumption)
  · exact State.raiseUnits_only (Part.sub hL (by decide)) (by assumption)
  · exact State.setShare_only (Part.sub hL (by decide)) (by assumption)

theorem State.grantAll_only {L : List Part} {s0 s : State} {x1 x2}
    (hL : [.out, .host, .life, .tape, .mot, .wra, .ctl, .trc, .pwr, .regs 0, .regs 2, .regs 4, .regs 8,
      .regs 28, .regs 32, .regs 36, .regs 40, .regs 49] ⊆ L) (h : Only L s0 s) :
    Only L s0 (State.grantAll x1 x2 s) := by
  induction x1 generalizing x2 s with
  | nil =>
    rw [State.grantAll]
    assumption
  | cons y l ih =>
    rw [State.grantAll]
    split
    · extract_lets s1
      have hs1 : Only L s0 s1 := by
        unfold s1
        refine State.inc_only (Part.sub hL (by decide)) ?_
        exact State.unask_only (Part.sub hL (by decide)) (by assumption)
      clear_value s1
      refine ih ?_
      exact State.grantAction_only (Part.sub hL (by decide)) (by assumption)
    · refine Only.ite ?_ ?_
      · assumption
      · exact ih (by assumption)

theorem State.measure_only {L : List Part} {s0 s : State} {x2}
    (hL : [.regs 2] ⊆ L) (h : Only L s0 s) :
    Only L s0 (State.measure s x2) := by
  unfold State.measure
  extract_lets s1 n2
  have hs1 : Only L s0 s1 := by
    unfold s1
    refine Only.foldl _ ?_ (fun s _ h => ?_)
    · assumption
    · exact State.wri_only (Part.sub hL (by decide)) (by assumption)
  clear_value s1
  exact State.wr_only (Part.sub hL (by decide)) (by assumption)

theorem State.obeyCap_only {L : List Part} {s0 s : State}
    (hL : [.mot, .ctl, .regs 32] ⊆ L) (h : Only L s0 s) :
    Only L s0 (State.obeyCap s) := by
  unfold State.obeyCap
  extract_lets n1 n2 n3
  refine Only.ite ?_ ?_
  · assumption
  · refine Only.ite ?_ ?_
    · refine State.tapeRun_only (Part.sub hL (by decide)) ?_
      exact State.wr_only (Part.sub hL (by decide)) (by assumption)
    · split
      · refine Only.ite ?_ ?_
        · refine State.setMot_only (Part.sub hL (by decide)) ?_
          exact State.wr_only (Part.sub hL (by decide)) (by assumption)
        · assumption
      · exact State.startChange_only (Part.sub hL (by decide)) (by assumption)

theorem State.recap_only {L : List Part} {s0 s : State} {x2 x3}
    (hL : [.mot, .ctl, .regs 2, .regs 32] ⊆ L) (h : Only L s0 s) :
    Only L s0 (State.recap s x2 x3) := by
  unfold State.recap
  extract_lets n1 n2 n3 n4 s5 s6 s7
  have hs5 : Only L s0 s5 := by
    unfold s5
    refine State.wr_only (Part.sub hL (by decide)) ?_
    exact State.wr_only (Part.sub hL (by decide)) (by assumption)
  clear_value s5
  have hs6 : Only L s0 s6 := by
    unfold s6
    exact State.wr_only (Part.sub hL (by decide)) (by assumption)
  clear_value s6
  have hs7 : Only L s0 s7 := by
    unfold s7
    exact State.wr_only (Part.sub hL (by decide)) (by assumption)
  clear_value s7
  exact State.obeyCap_only (Part.sub hL (by decide)) (by assumption)

theorem State.shedActions_only {L : List Part} {s0 s : State}
    (hL : [.out, .host, .sq, .life, .trc, .red, .pwr, .regs 0, .regs 3, .regs 4, .regs 8, .regs 36, .regs 40,
      .regs 49] ⊆ L) (h : Only L s0 s) :
    Only L s0 (State.shedActions s) := by
  unfold State.shedActions
  extract_lets n1 n2 n3 s4 s5
  have hs4 : Only L s0 s4 := by
    unfold s4
    refine Only.updRed (Part.sub hL (by decide)) ?_
    assumption
  clear_value s4
  have hs5 : Only L s0 s5 := by
    unfold s5
    refine Only.ite ?_ ?_
    · exact State.setShare_only (Part.sub hL (by decide)) (by assumption)
    · assumption
  clear_value s5
  exact State.syncCauses_only (Part.sub hL (by decide)) (by assumption)

theorem State.shedLower_only {L : List Part} {s0 s : State}
    (hL : [.out, .host, .sq, .life, .trc, .red, .pwr, .regs 0, .regs 2, .regs 3, .regs 4, .regs 8, .regs 36,
      .regs 40, .regs 49] ⊆ L) (h : Only L s0 s) :
    Only L s0 (State.shedLower s) := by
  unfold State.shedLower
  extract_lets n1 s2 n3
  have hs2 : Only L s0 s2 := by
    unfold s2
    exact State.setPwr_only (Part.sub hL (by decide)) (by assumption)
  clear_value s2
  refine Only.ite ?_ ?_
  · refine State.shedActions_only (Part.sub hL (by decide)) ?_
    exact State.wr_only (Part.sub hL (by decide)) (by assumption)
  · assumption

theorem State.shedRaise_only {L : List Part} {s0 s : State}
    (hL : [.out, .host, .sq, .life, .trc, .red, .pwr, .regs 0, .regs 2, .regs 3, .regs 4, .regs 8, .regs 36,
      .regs 40, .regs 49] ⊆ L) (h : Only L s0 s) :
    Only L s0 (State.shedRaise s) := by
  unfold State.shedRaise
  extract_lets n1 s2 n3 s4
  have hs2 : Only L s0 s2 := by
    unfold s2
    exact State.setPwr_only (Part.sub hL (by decide)) (by assumption)
  clear_value s2
  have hs4 : Only L s0 s4 := by
    unfold s4
    refine State.wr_only (Part.sub hL (by decide)) ?_
    exact State.wr_only (Part.sub hL (by decide)) (by assumption)
  clear_value s4
  refine Only.ite ?_ ?_
  · refine State.shedActions_only (Part.sub hL (by decide)) ?_
    exact State.raise_only (Part.sub hL (by decide)) (by assumption)
  · assumption

theorem State.shedTimes_only {L : List Part} {s0 s : State} {x2 x3}
    (hL : [.out, .host, .sq, .life, .trc, .red, .pwr, .regs 0, .regs 2, .regs 3, .regs 4, .regs 8, .regs 36,
      .regs 40, .regs 49] ⊆ L) (h : Only L s0 s) :
    Only L s0 (State.shedTimes s x2 x3) := by
  unfold State.shedTimes
  extract_lets n1 s2 s3
  have hs2 : Only L s0 s2 := by
    unfold s2
    exact State.setPwr_only (Part.sub hL (by decide)) (by assumption)
  clear_value s2
  have hs3 : Only L s0 s3 := by
    unfold s3
    refine Only.ite ?_ ?_
    · exact State.shedRaise_only (Part.sub hL (by decide)) (by assumption)
    · assumption
  clear_value s3
  refine Only.ite ?_ ?_
  · exact State.shedLower_only (Part.sub hL (by decide)) (by assumption)
  · assumption

theorem execBetonyLoop_only {L : List Part} {s0 s : State} {x1 x2 x3 x4}
    (hL : [.out, .host, .sq, .life, .tape, .mot, .wra, .ctl, .trc, .red, .pwr, .regs 0, .regs 2, .regs 3,
      .regs 4, .regs 8, .regs 28, .regs 32, .regs 36, .regs 40, .regs 49] ⊆ L) (h : Only L s0 s) :
    Only.Out L s0 (execBetonyLoop x1 x2 x3 x4 s) := by
  unfold execBetonyLoop
  extract_lets s1 n2 n3 s4 n5 s6 s7 s8 n9 n10 s11 s12
  have hs1 : Only L s0 s1 := by
    unfold s1
    exact State.measure_only (Part.sub hL (by decide)) (by assumption)
  clear_value s1
  have hs4 : Only L s0 s4 := by
    unfold s4
    exact State.wr_only (Part.sub hL (by decide)) (by assumption)
  clear_value s4
  have hs6 : Only L s0 s6 := by
    unfold s6
    exact State.setPwr_only (Part.sub hL (by decide)) (by assumption)
  clear_value s6
  have hs7 : Only L s0 s7 := by
    unfold s7
    exact State.wr_only (Part.sub hL (by decide)) (by assumption)
  clear_value s7
  have hs8 : Only L s0 s8 := by
    unfold s8
    refine State.wr_only (Part.sub hL (by decide)) ?_
    exact State.wr_only (Part.sub hL (by decide)) (by assumption)
  clear_value s8
  have hs11 : Only L s0 s11 := by
    unfold s11
    exact State.grantAll_only (Part.sub hL (by decide)) (by assumption)
  clear_value s11
  have hs12 : Only L s0 s12 := by
    unfold s12
    refine Only.ite ?_ ?_
    · assumption
    · exact State.inc_only (Part.sub hL (by decide)) (by assumption)
  clear_value s12
  refine Only.next ?_
  refine State.shedTimes_only (Part.sub hL (by decide)) ?_
  exact State.recap_only (Part.sub hL (by decide)) (by assumption)

theorem execShedRaise_only {L : List Part} {s0 s : State}
    (hL : [.out, .host, .sq, .life, .trc, .red, .pwr, .regs 0, .regs 2, .regs 3, .regs 4, .regs 8, .regs 36,
      .regs 40, .regs 49] ⊆ L) (h : Only L s0 s) :
    Only.Out L s0 (execShedRaise s) := by
  unfold execShedRaise
  refine Only.next ?_
  refine Only.ite ?_ ?_
  · exact State.shedRaise_only (Part.sub hL (by decide)) (by assumption)
  · assumption

theorem execShedLower_only {L : List Part} {s0 s : State}
    (hL : [.out, .host, .sq, .life, .trc, .red, .pwr, .regs 0, .regs 2, .regs 3, .regs 4, .regs 8, .regs 36,
      .regs 40, .regs 49] ⊆ L) (h : Only L s0 s) :
    Only.Out L s0 (execShedLower s) := by
  unfold execShedLower
  refine Only.next ?_
  refine Only.ite ?_ ?_
  · exact State.shedLower_only (Part.sub hL (by decide)) (by assumption)
  · assumption

end Sys2Proof.Machine
end

