-- ==== Sys2Proof/Laws/OnlyPackets.lean ====
section
/-!
SUPPORT. The parts of the state that an operation of Machine/Packets.lean may change (Laws/Only.lean).
-/

set_option Elab.async false

namespace Sys2Proof.Machine

theorem State.setGrp_only {L : List Part} {s0 s : State} {x2}
    (hL : [.grp] ⊆ L) (h : Only L s0 s) :
    Only L s0 (State.setGrp s x2) := by
  unfold State.setGrp
  refine Only.updGrp (Part.sub hL (by decide)) ?_
  assumption

theorem State.setPort_only {L : List Part} {s0 s : State} {x2 x3}
    (hL : [.grp] ⊆ L) (h : Only L s0 s) :
    Only L s0 (State.setPort s x2 x3) := by
  unfold State.setPort
  extract_lets n1
  exact State.setGrp_only (Part.sub hL (by decide)) (by assumption)

theorem State.block_only {L : List Part} {s0 s : State} {x2 x3 x4}
    (hL : [.out] ⊆ L) (h : Only L s0 s) :
    Only L s0 (State.block s x2 x3 x4) := by
  unfold State.block
  exact State.emit_only (Part.sub hL (by decide)) (by assumption)

theorem State.emitFrame_only {L : List Part} {s0 s : State} {x2 x3}
    (hL : [.out] ⊆ L) (h : Only L s0 s) :
    Only L s0 (State.emitFrame s x2 x3) := by
  unfold State.emitFrame
  refine State.emit_only (Part.sub hL (by decide)) ?_
  exact State.block_only (Part.sub hL (by decide)) (by assumption)

theorem State.pump_only {L : List Part} {s0 s : State} {x1 x3}
    (hL : [.out, .grp] ⊆ L) (h : Only L s0 s) :
    Only L s0 (State.pump x1 s x3) := by
  induction x1 generalizing s x3 with
  | zero =>
    rw [State.pump]
    assumption
  | succ n ih =>
    rw [State.pump]
    refine Only.ite ?_ ?_
    · assumption
    · split
      · assumption
      · extract_lets n1 n2 n3
        refine ih ?_
        refine State.emitFrame_only (Part.sub hL (by decide)) ?_
        exact State.setPort_only (Part.sub hL (by decide)) (by assumption)

theorem State.enqueuePacket_only {L : List Part} {s0 s : State} {x2 x3}
    (hL : [.out, .grp] ⊆ L) (h : Only L s0 s) :
    Only L s0 (State.enqueuePacket s x2 x3) := by
  unfold State.enqueuePacket
  extract_lets n1 n2 s3
  have hs3 : Only L s0 s3 := by
    unfold s3
    exact State.setPort_only (Part.sub hL (by decide)) (by assumption)
  clear_value s3
  exact State.pump_only (Part.sub hL (by decide)) (by assumption)

theorem State.routeOut_only {L : List Part} {s0 s : State} {x2}
    (hL : [.out, .grp] ⊆ L) (h : Only L s0 s) :
    Only L s0 (State.routeOut s x2) := by
  unfold State.routeOut
  extract_lets n1 n2
  refine Only.ite ?_ ?_
  · exact State.enqueuePacket_only (Part.sub hL (by decide)) (by assumption)
  · exact State.setGrp_only (Part.sub hL (by decide)) (by assumption)

theorem State.sendSeqFor_only {L : List Part} {s0 s : State} {x2 x3 x4 x5 x6}
    (hL : [.out, .grp] ⊆ L) (h : Only L s0 s) :
    Only L s0 (State.sendSeqFor s x2 x3 x4 x5 x6) := by
  unfold State.sendSeqFor
  extract_lets n1 n2 n3 n4 n5 s6
  have hs6 : Only L s0 s6 := by
    unfold s6
    exact State.setGrp_only (Part.sub hL (by decide)) (by assumption)
  clear_value s6
  refine Only.ite ?_ ?_
  · exact State.routeOut_only (Part.sub hL (by decide)) (by assumption)
  · assumption

theorem State.sendSeq_only {L : List Part} {s0 s : State} {x2 x3 x4 x5}
    (hL : [.out, .grp] ⊆ L) (h : Only L s0 s) :
    Only L s0 (State.sendSeq s x2 x3 x4 x5) := by
  unfold State.sendSeq
  exact State.sendSeqFor_only (Part.sub hL (by decide)) (by assumption)

theorem State.sendPlain_only {L : List Part} {s0 s : State} {x2 x3 x4}
    (hL : [.out, .grp] ⊆ L) (h : Only L s0 s) :
    Only L s0 (State.sendPlain s x2 x3 x4) := by
  unfold State.sendPlain
  exact State.routeOut_only (Part.sub hL (by decide)) (by assumption)

theorem State.reroute_only {L : List Part} {s0 s : State}
    (hL : [.out, .grp, .regs 36] ⊆ L) (h : Only L s0 s) :
    Only L s0 (State.reroute s) := by
  unfold State.reroute
  extract_lets n1 n2 n3 n4 n5 s6 n7 s8 n9 n10 s11
  have hs6 : Only L s0 s6 := by
    unfold s6
    refine Only.foldl _ ?_ (fun s _ h => ?_)
    · assumption
    · refine State.wri_only (Part.sub hL (by decide)) ?_
      exact State.wri_only (Part.sub hL (by decide)) (by assumption)
  clear_value s6
  have hs8 : Only L s0 s8 := by
    unfold s8
    refine State.wr_only (Part.sub hL (by decide)) ?_
    exact State.wr_only (Part.sub hL (by decide)) (by assumption)
  clear_value s8
  have hs11 : Only L s0 s11 := by
    unfold s11
    exact State.setGrp_only (Part.sub hL (by decide)) (by assumption)
  clear_value s11
  refine Only.foldl _ ?_ (fun s _ h => ?_)
  · assumption
  · exact State.routeOut_only (Part.sub hL (by decide)) (by assumption)

theorem State.sendLink_only {L : List Part} {s0 s : State} {x2 x3 x4}
    (hL : [.out, .grp] ⊆ L) (h : Only L s0 s) :
    Only L s0 (State.sendLink s x2 x3 x4) := by
  unfold State.sendLink
  refine Only.ite ?_ ?_
  · assumption
  · exact State.enqueuePacket_only (Part.sub hL (by decide)) (by assumption)

theorem State.portsChanged_only {L : List Part} {s0 s : State}
    (hL : [.out, .grp, .regs 36] ⊆ L) (h : Only L s0 s) :
    Only L s0 (State.portsChanged s) := by
  unfold State.portsChanged
  extract_lets n1 s2 s3
  have hs2 : Only L s0 s2 := by
    unfold s2
    exact State.setGrp_only (Part.sub hL (by decide)) (by assumption)
  clear_value s2
  have hs3 : Only L s0 s3 := by
    unfold s3
    refine Only.ite ?_ ?_
    · refine Only.foldl _ ?_ (fun s _ h => ?_)
      · assumption
      · exact State.sendLink_only (Part.sub hL (by decide)) (by assumption)
    · assumption
  clear_value s3
  exact State.reroute_only (Part.sub hL (by decide)) (by assumption)

theorem State.resendTriple_only {L : List Part} {s0 s : State} {x2 x3}
    (hL : [.out, .grp] ⊆ L) (h : Only L s0 s) :
    Only L s0 (State.resendTriple s x2 x3) := by
  unfold State.resendTriple
  extract_lets n1
  refine Only.ite ?_ ?_
  · refine Only.foldl _ ?_ (fun s _ h => ?_)
    · assumption
    · exact State.routeOut_only (Part.sub hL (by decide)) (by assumption)
  · assumption

theorem State.portComesUp_only {L : List Part} {s0 s : State} {x2}
    (hL : [.out, .host, .life, .trc, .grp, .regs 0, .regs 4, .regs 36, .regs 49] ⊆ L) (h : Only L s0 s) :
    Only L s0 (State.portComesUp s x2) := by
  unfold State.portComesUp
  extract_lets n1 n2 n3 s4 s5 s6 s7 s8
  have hs4 : Only L s0 s4 := by
    unfold s4
    exact State.setPort_only (Part.sub hL (by decide)) (by assumption)
  clear_value s4
  have hs5 : Only L s0 s5 := by
    unfold s5
    exact State.wri_only (Part.sub hL (by decide)) (by assumption)
  clear_value s5
  have hs6 : Only L s0 s6 := by
    unfold s6
    exact State.raise_only (Part.sub hL (by decide)) (by assumption)
  clear_value s6
  have hs7 : Only L s0 s7 := by
    unfold s7
    exact State.sendLink_only (Part.sub hL (by decide)) (by assumption)
  clear_value s7
  have hs8 : Only L s0 s8 := by
    unfold s8
    exact State.portsChanged_only (Part.sub hL (by decide)) (by assumption)
  clear_value s8
  exact State.pump_only (Part.sub hL (by decide)) (by assumption)

theorem State.portGoesDown_only {L : List Part} {s0 s : State} {x2 x3}
    (hL : [.out, .host, .life, .trc, .grp, .regs 0, .regs 4, .regs 36, .regs 49] ⊆ L) (h : Only L s0 s) :
    Only L s0 (State.portGoesDown s x2 x3) := by
  unfold State.portGoesDown
  extract_lets n1 s2 s3 s4
  have hs2 : Only L s0 s2 := by
    unfold s2
    exact State.setPort_only (Part.sub hL (by decide)) (by assumption)
  clear_value s2
  have hs3 : Only L s0 s3 := by
    unfold s3
    exact State.wri_only (Part.sub hL (by decide)) (by assumption)
  clear_value s3
  have hs4 : Only L s0 s4 := by
    unfold s4
    refine State.wr_only (Part.sub hL (by decide)) ?_
    exact State.inci_only (Part.sub hL (by decide)) (by assumption)
  clear_value s4
  refine State.portsChanged_only (Part.sub hL (by decide)) ?_
  exact State.raise_only (Part.sub hL (by decide)) (by assumption)

theorem State.retransmit_only {L : List Part} {s0 s : State} {x2 x3}
    (hL : [.out, .grp, .regs 36] ⊆ L) (h : Only L s0 s) :
    Only L s0 (State.retransmit s x2 x3) := by
  unfold State.retransmit
  extract_lets n1 n2 n3 s4
  have hs4 : Only L s0 s4 := by
    unfold s4
    refine State.addi_only (Part.sub hL (by decide)) ?_
    exact State.setPort_only (Part.sub hL (by decide)) (by assumption)
  clear_value s4
  refine Only.ite ?_ ?_
  · assumption
  · refine Only.foldl _ ?_ (fun s _ h => ?_)
    · assumption
    · exact State.emitFrame_only (Part.sub hL (by decide)) (by assumption)

theorem execLaneBlockLock_only {L : List Part} {s0 s : State} {x1 x2 x3}
    (hL : [.grp, .regs 36] ⊆ L) (h : Only L s0 s) :
    Only.Out L s0 (execLaneBlockLock x1 x2 x3 s) := by
  unfold execLaneBlockLock
  extract_lets n1 n2 n3 s4
  have hs4 : Only L s0 s4 := by
    unfold s4
    exact State.setPort_only (Part.sub hL (by decide)) (by assumption)
  clear_value s4
  refine Only.iteOut ?_ ?_
  · refine Only.next ?_
    assumption
  · refine Only.next ?_
    refine Only.ite ?_ ?_
    · exact State.wri_only (Part.sub hL (by decide)) (by assumption)
    · assumption

theorem execLaneDegradeTimeout_only {L : List Part} {s0 s : State} {x1}
    (hL : [.out, .host, .life, .trc, .grp, .regs 0, .regs 4, .regs 36, .regs 49] ⊆ L) (h : Only L s0 s) :
    Only.Out L s0 (execLaneDegradeTimeout x1 s) := by
  unfold execLaneDegradeTimeout
  extract_lets n1 n2 s3
  have hs3 : Only L s0 s3 := by
    unfold s3
    refine State.wr_only (Part.sub hL (by decide)) ?_
    exact State.wri_only (Part.sub hL (by decide)) (by assumption)
  clear_value s3
  refine Only.iteOut ?_ ?_
  · refine Only.next ?_
    refine State.portsChanged_only (Part.sub hL (by decide)) ?_
    exact State.raise_only (Part.sub hL (by decide)) (by assumption)
  · refine Only.next ?_
    assumption

theorem execLinkAck_only {L : List Part} {s0 s : State} {x1 x2}
    (hL : [.out, .grp] ⊆ L) (h : Only L s0 s) :
    Only.Out L s0 (execLinkAck x1 x2 s) := by
  unfold execLinkAck
  extract_lets n1 n2 s3
  have hs3 : Only L s0 s3 := by
    unfold s3
    exact State.setPort_only (Part.sub hL (by decide)) (by assumption)
  clear_value s3
  refine Only.iteOut ?_ ?_
  · refine Only.next ?_
    exact State.pump_only (Part.sub hL (by decide)) (by assumption)
  · refine Only.next ?_
    assumption

theorem execLinkNak_only {L : List Part} {s0 s : State} {x1 x2}
    (hL : [.out, .grp, .regs 36] ⊆ L) (h : Only L s0 s) :
    Only.Out L s0 (execLinkNak x1 x2 s) := by
  unfold execLinkNak
  refine Only.iteOut ?_ ?_
  · refine Only.next ?_
    exact State.retransmit_only (Part.sub hL (by decide)) (by assumption)
  · refine Only.next ?_
    assumption

theorem execReplayTimeout_only {L : List Part} {s0 s : State} {x1}
    (hL : [.out, .grp, .regs 36] ⊆ L) (h : Only L s0 s) :
    Only.Out L s0 (execReplayTimeout x1 s) := by
  unfold execReplayTimeout
  split
  · refine Only.iteOut ?_ ?_
    · refine Only.next ?_
      exact State.retransmit_only (Part.sub hL (by decide)) (by assumption)
    · refine Only.next ?_
      assumption
  · refine Only.next ?_
    assumption

theorem execLinkCredit_only {L : List Part} {s0 s : State} {x1 x2}
    (hL : [.out, .grp] ⊆ L) (h : Only L s0 s) :
    Only.Out L s0 (execLinkCredit x1 x2 s) := by
  unfold execLinkCredit
  extract_lets n1 n2 n3 s4
  have hs4 : Only L s0 s4 := by
    unfold s4
    exact State.setPort_only (Part.sub hL (by decide)) (by assumption)
  clear_value s4
  refine Only.iteOut ?_ ?_
  · refine Only.next ?_
    assumption
  · refine Only.next ?_
    exact State.pump_only (Part.sub hL (by decide)) (by assumption)

theorem execLinkInit_only {L : List Part} {s0 s : State} {x1 x2 x3}
    (hL : [.out, .host, .life, .trc, .grp, .regs 0, .regs 4, .regs 36, .regs 49] ⊆ L) (h : Only L s0 s) :
    Only.Out L s0 (execLinkInit x1 x2 x3 s) := by
  unfold execLinkInit
  extract_lets n1 n2 s3
  have hs3 : Only L s0 s3 := by
    unfold s3
    refine State.wri_only (Part.sub hL (by decide)) ?_
    exact State.block_only (Part.sub hL (by decide)) (by assumption)
  clear_value s3
  refine Only.iteOut ?_ ?_
  · refine Only.next ?_
    refine Only.ite ?_ ?_
    · exact State.portComesUp_only (Part.sub hL (by decide)) (by assumption)
    · assumption
  · refine Only.next ?_
    assumption

theorem execPortDown_only {L : List Part} {s0 s : State} {x1 x2}
    (hL : [.out, .host, .life, .trc, .grp, .regs 0, .regs 4, .regs 36, .regs 49] ⊆ L) (h : Only L s0 s) :
    Only.Out L s0 (execPortDown x1 x2 s) := by
  unfold execPortDown
  extract_lets n1 n2 n3
  refine Only.iteOut ?_ ?_
  · refine Only.next ?_
    exact State.portGoesDown_only (Part.sub hL (by decide)) (by assumption)
  · refine Only.next ?_
    assumption

theorem execE2eResendTimeout_only {L : List Part} {s0 s : State} {x1 x2}
    (hL : [.out, .grp, .regs 36] ⊆ L) (h : Only L s0 s) :
    Only.Out L s0 (execE2eResendTimeout x1 x2 s) := by
  unfold execE2eResendTimeout
  extract_lets n1
  refine Only.iteOut ?_ ?_
  · refine Only.next ?_
    assumption
  · refine Only.next ?_
    refine State.resendTriple_only (Part.sub hL (by decide)) ?_
    exact State.addi_only (Part.sub hL (by decide)) (by assumption)

theorem execRouteWaitTimeout_only {L : List Part} {s0 s : State} {x1}
    (hL : [.grp] ⊆ L) (h : Only L s0 s) :
    Only.Out L s0 (execRouteWaitTimeout x1 s) := by
  unfold execRouteWaitTimeout
  extract_lets n1
  refine Only.next ?_
  exact State.setGrp_only (Part.sub hL (by decide)) (by assumption)

end Sys2Proof.Machine
end

