-- ==== Sys2Proof/Laws/OnlyRows.lean ====
section
/-!
SUPPORT. The parts of the state that an operation of Machine/Rows.lean may change (Laws/Only.lean).
-/

set_option Elab.async false

namespace Sys2Proof.Machine

theorem State.setRed_only {L : List Part} {s0 s : State} {x2}
    (hL : [.red] ⊆ L) (h : Only L s0 s) :
    Only L s0 (State.setRed s x2) := by
  unfold State.setRed
  refine Only.updRed (Part.sub hL (by decide)) ?_
  assumption

theorem State.storeRec_only {L : List Part} {s0 s : State} {x2}
    (hL : [.grp] ⊆ L) (h : Only L s0 s) :
    Only L s0 (State.storeRec s x2) := by
  unfold State.storeRec
  extract_lets n1
  refine Only.ite ?_ ?_
  · exact State.setGrp_only (Part.sub hL (by decide)) (by assumption)
  · exact State.setGrp_only (Part.sub hL (by decide)) (by assumption)

theorem State.adoptRows_only {L : List Part} {s0 s : State}
    (hL : [.red] ⊆ L) (h : Only L s0 s) :
    Only.Pair L s0 (State.adoptRows s) := by
  unfold State.adoptRows
  extract_lets n1 n2 n3 n4 n5 n6 n7 n8 n9 n10
  refine Only.pair ?_
  exact State.setRed_only (Part.sub hL (by decide)) (by assumption)

theorem State.sendRows_only {L : List Part} {s0 s : State} {x2 x3 x4 x5}
    (hL : [.out, .grp] ⊆ L) (h : Only L s0 s) :
    Only L s0 (State.sendRows s x2 x3 x4 x5) := by
  unfold State.sendRows
  extract_lets n1
  refine Only.foldl _ ?_ (fun s _ h => ?_)
  · assumption
  · exact State.sendSeq_only (Part.sub hL (by decide)) (by assumption)

theorem State.moveRows_only {L : List Part} {s0 s : State} {x2 x3}
    (hL : [.out, .host, .life, .trc, .grp, .red, .regs 0, .regs 4, .regs 40, .regs 49] ⊆ L) (h : Only L s0 s) :
    Only L s0 (State.moveRows s x2 x3) := by
  unfold State.moveRows
  extract_lets n1 n2 n3 n4 n5 n6 n7 s8 s9 s10 n11 s12
  have hs8 : Only L s0 s8 := by
    unfold s8
    refine Only.foldl _ ?_ (fun s _ h => ?_)
    · assumption
    · exact State.raise_only (Part.sub hL (by decide)) (by assumption)
  clear_value s8
  have hs9 : Only L s0 s9 := by
    unfold s9
    exact State.wr_only (Part.sub hL (by decide)) (by assumption)
  clear_value s9
  have hs10 : Only L s0 s10 := by
    unfold s10
    refine Only.ite ?_ ?_
    · exact State.wr_only (Part.sub hL (by decide)) (by assumption)
    · assumption
  clear_value s10
  have hs12 : Only L s0 s12 := by
    unfold s12
    exact State.setRed_only (Part.sub hL (by decide)) (by assumption)
  clear_value s12
  refine Only.ite ?_ ?_
  · assumption
  · refine Only.foldl _ ?_ (fun s _ h => ?_)
    · assumption
    · exact State.sendRows_only (Part.sub hL (by decide)) (by assumption)

theorem State.takeRows_only {L : List Part} {s0 s : State} {x2 x3 x4}
    (hL : [.red] ⊆ L) (h : Only L s0 s) :
    Only L s0 (State.takeRows s x2 x3 x4) := by
  unfold State.takeRows
  extract_lets n1 n2
  exact State.setRed_only (Part.sub hL (by decide)) (by assumption)

end Sys2Proof.Machine
end

