-- ==== Sys2Proof/Laws/OnlyRebuild.lean ====
section
/-!
SUPPORT. The parts of the state that an operation of Machine/Rebuild.lean may change (Laws/Only.lean).
-/

set_option Elab.async false

namespace Sys2Proof.Machine

theorem State.ageSlow_only {L : List Part} {s0 s : State}
    (hL : [.red] ⊆ L) (h : Only L s0 s) :
    Only L s0 (State.ageSlow s) := by
  unfold State.ageSlow
  extract_lets n1
  exact State.setRed_only (Part.sub hL (by decide)) (by assumption)

theorem State.answerRead_only {L : List Part} {s0 s : State} {x2 x3 x4 x5 x6 x7 x8 x9}
    (hL : [.out, .grp] ⊆ L) (h : Only L s0 s) :
    Only L s0 (State.answerRead s x2 x3 x4 x5 x6 x7 x8 x9) := by
  unfold State.answerRead
  split
  · exact State.sendSeq_only (Part.sub hL (by decide)) (by assumption)
  · extract_lets n1
    refine Only.foldl _ ?_ (fun s _ h => ?_)
    · assumption
    · extract_lets n2 n3
      exact State.sendSeq_only (Part.sub hL (by decide)) (by assumption)

theorem State.takeRead_only {L : List Part} {s0 s : State} {x2 x3 x4 x5 x6 x7}
    (hL : [.out, .free, .grp] ⊆ L) (h : Only L s0 s) :
    Only L s0 (State.takeRead s x2 x3 x4 x5 x6 x7) := by
  unfold State.takeRead
  extract_lets n1 s2
  have hs2 : Only L s0 s2 := by
    unfold s2
    refine Only.ite ?_ ?_
    · refine State.sendSeq_only (Part.sub hL (by decide)) ?_
      refine Only.updFree (Part.sub hL (by decide)) ?_
      assumption
    · assumption
  clear_value s2
  refine Only.ite ?_ ?_
  · exact State.answerRead_only (Part.sub hL (by decide)) (by assumption)
  · exact State.answerRead_only (Part.sub hL (by decide)) (by assumption)

theorem State.askRange_only {L : List Part} {s0 s : State} {x2 x3 x4 x5 x6}
    (hL : [.out, .grp, .red] ⊆ L) (h : Only L s0 s) :
    Only L s0 (State.askRange s x2 x3 x4 x5 x6) := by
  unfold State.askRange
  extract_lets n1 n2 n3 n4 s5
  have hs5 : Only L s0 s5 := by
    unfold s5
    exact State.setRed_only (Part.sub hL (by decide)) (by assumption)
  clear_value s5
  refine Only.ite ?_ ?_
  · assumption
  · refine Only.ite ?_ ?_
    · assumption
    · exact State.sendSeq_only (Part.sub hL (by decide)) (by assumption)

theorem State.reconstruct_only {L : List Part} {s0 s : State} {x2 x3 x4 x5 x6 x7}
    (hL : [.out, .host, .obj, .life, .trc, .grp, .red, .regs 0, .regs 4, .regs 49] ⊆ L) (h : Only L s0 s) :
    Only L s0 (State.reconstruct s x2 x3 x4 x5 x6 x7) := by
  unfold State.reconstruct
  extract_lets n1 n2 n3 n4 n5 s6
  have hs6 : Only L s0 s6 := by
    unfold s6
    exact State.setRed_only (Part.sub hL (by decide)) (by assumption)
  clear_value s6
  refine Only.ite ?_ ?_
  · exact State.loseUnits_only (Part.sub hL (by decide)) (by assumption)
  · refine Only.foldl _ ?_ (fun s _ h => ?_)
    · assumption
    · exact State.askRange_only (Part.sub hL (by decide)) (by assumption)

theorem State.fillUnits_only {L : List Part} {s0 s : State} {x2 x3}
    (hL : [.obj] ⊆ L) (h : Only L s0 s) :
    Only L s0 (State.fillUnits s x2 x3) := by
  unfold State.fillUnits
  extract_lets n1 n2
  refine Only.updObj (Part.sub hL (by decide)) ?_
  assumption

theorem State.finishRange_only {L : List Part} {s0 s : State} {x2 x3 x4}
    (hL : [.out, .host, .obj, .life, .trc, .grp, .red, .regs 0, .regs 4, .regs 49] ⊆ L) (h : Only L s0 s) :
    Only L s0 (State.finishRange s x2 x3 x4) := by
  unfold State.finishRange
  extract_lets n1 n2 n3 n4 n5 n6 n7 s8
  have hs8 : Only L s0 s8 := by
    unfold s8
    exact State.setRed_only (Part.sub hL (by decide)) (by assumption)
  clear_value s8
  refine Only.ite ?_ ?_
  · assumption
  · split
    refine Only.ite ?_ ?_
    · exact State.reconstruct_only (Part.sub hL (by decide)) (by assumption)
    · exact State.fillUnits_only (Part.sub hL (by decide)) (by assumption)

theorem State.takeStripData_only {L : List Part} {s0 s : State} {x2 x3 x4 x5 x6 x7 x8}
    (hL : [.out, .host, .obj, .life, .trc, .grp, .red, .regs 0, .regs 4, .regs 49] ⊆ L) (h : Only L s0 s) :
    Only L s0 (State.takeStripData s x2 x3 x4 x5 x6 x7 x8) := by
  unfold State.takeStripData
  extract_lets n1 n2 n3
  split
  · assumption
  · extract_lets n4 n5 s6 f7 n8 n9 n10
    have hs6 : Only L s0 s6 := by
      unfold s6
      exact State.setRed_only (Part.sub hL (by decide)) (by assumption)
    clear_value s6
    have hf7 : ∀ a1, Only L s0 a1 → Only L s0 (f7 a1) := by
      intro a1 h
      unfold f7
      extract_lets n11
      exact State.setRed_only (Part.sub hL (by decide)) (by assumption)
    split
    · exact State.finishRange_only (Part.sub hL (by decide)) (by assumption)
    · refine Only.ite ?_ ?_
      · refine Only.ite ?_ ?_
        · refine hf7 _ ?_
          assumption
        · refine State.reconstruct_only (Part.sub hL (by decide)) ?_
          refine hf7 _ ?_
          assumption
      · refine Only.ite ?_ ?_
        · refine Only.ite ?_ ?_
          · refine State.fillUnits_only (Part.sub hL (by decide)) ?_
            refine hf7 _ ?_
            assumption
          · refine State.fillUnits_only (Part.sub hL (by decide)) ?_
            refine hf7 _ ?_
            assumption
        · assumption

theorem State.fetchUnit_only {L : List Part} {s0 s : State} {x2}
    (hL : [.out, .host, .obj, .life, .trc, .grp, .red, .regs 0, .regs 4, .regs 49] ⊆ L) (h : Only L s0 s) :
    Only L s0 (State.fetchUnit s x2) := by
  unfold State.fetchUnit
  extract_lets n1 n2 n3
  refine Only.ite ?_ ?_
  · assumption
  · split
    · extract_lets s4
      have hs4 : Only L s0 s4 := by
        unfold s4
        exact State.setRed_only (Part.sub hL (by decide)) (by assumption)
      clear_value s4
      refine Only.ite ?_ ?_
      · assumption
      · refine Only.ite ?_ ?_
        · split
          · exact State.fillUnits_only (Part.sub hL (by decide)) (by assumption)
          · assumption
        · refine Only.ite ?_ ?_
          · assumption
          · exact State.sendSeq_only (Part.sub hL (by decide)) (by assumption)
    · extract_lets n5 n6 n7
      refine Only.ite ?_ ?_
      · assumption
      · refine Only.ite ?_ ?_
        · split
          · split
            refine Only.ite ?_ ?_
            · exact State.reconstruct_only (Part.sub hL (by decide)) (by assumption)
            · exact State.fillUnits_only (Part.sub hL (by decide)) (by assumption)
          · assumption
        · refine Only.ite ?_ ?_
          · exact State.askRange_only (Part.sub hL (by decide)) (by assumption)
          · exact State.reconstruct_only (Part.sub hL (by decide)) (by assumption)
    · assumption

theorem State.markSlow_only {L : List Part} {s0 s : State} {x2}
    (hL : [.out, .host, .life, .trc, .red, .regs 0, .regs 4, .regs 40, .regs 49] ⊆ L) (h : Only L s0 s) :
    Only L s0 (State.markSlow s x2) := by
  unfold State.markSlow
  extract_lets n1 s2
  have hs2 : Only L s0 s2 := by
    unfold s2
    exact State.setRed_only (Part.sub hL (by decide)) (by assumption)
  clear_value s2
  refine Only.ite ?_ ?_
  · assumption
  · refine State.raise_only (Part.sub hL (by decide)) ?_
    exact State.wr_only (Part.sub hL (by decide)) (by assumption)

theorem execStripRequestDeadline_only {L : List Part} {s0 s : State} {x1 x2 x3}
    (hL : [.out, .host, .obj, .life, .trc, .grp, .red, .regs 0, .regs 4, .regs 40, .regs 49] ⊆ L) (h : Only L s0 s) :
    Only.Out L s0 (execStripRequestDeadline x1 x2 x3 s) := by
  unfold execStripRequestDeadline
  extract_lets n1 n2 n3
  split
  · refine Only.next ?_
    assumption
  · extract_lets s4 s5 n6 n7
    have hs4 : Only L s0 s4 := by
      unfold s4
      exact State.setRed_only (Part.sub hL (by decide)) (by assumption)
    clear_value s4
    have hs5 : Only L s0 s5 := by
      unfold s5
      exact State.markSlow_only (Part.sub hL (by decide)) (by assumption)
    clear_value s5
    refine Only.next ?_
    refine Only.ite ?_ ?_
    · exact State.reconstruct_only (Part.sub hL (by decide)) (by assumption)
    · assumption

end Sys2Proof.Machine
end

