-- ==== Sys2Proof/Laws/OnlyYarrow.lean ====
section
/-!
SUPPORT. The parts of the state that an operation of Machine/Yarrow.lean may change (Laws/Only.lean).
-/

set_option Elab.async false

namespace Sys2Proof.Machine

theorem State.tellHome_only {L : List Part} {s0 s : State} {x2 x3 x4 x5}
    (hL : [.out, .grp] ⊆ L) (h : Only L s0 s) :
    Only L s0 (State.tellHome s x2 x3 x4 x5) := by
  unfold State.tellHome
  extract_lets n1
  refine Only.ite ?_ ?_
  · assumption
  · refine Only.ite ?_ ?_
    · exact State.sendSeqFor_only (Part.sub hL (by decide)) (by assumption)
    · split
      · refine Only.foldl _ ?_ (fun s _ h => ?_)
        · assumption
        · exact State.sendSeqFor_only (Part.sub hL (by decide)) (by assumption)
      · assumption

theorem State.dropStrips_only {L : List Part} {s0 s : State} {x2}
    (hL : [.obj, .disk, .red] ⊆ L) (h : Only L s0 s) :
    Only L s0 (State.dropStrips s x2) := by
  unfold State.dropStrips
  extract_lets n1 n2 s3 n4 n5
  have hs3 : Only L s0 s3 := by
    unfold s3
    exact State.setRed_only (Part.sub hL (by decide)) (by assumption)
  clear_value s3
  refine Only.upd [.obj, .disk] (Part.sub hL (by decide)) ?_ (fun p hp => by
    cases p <;> first | rfl | exact fun _ _ _ _ _ => rfl | exact absurd (by decide) hp)
  assumption

theorem State.sendOp_only {L : List Part} {s0 s : State} {x2 x3 x4 x5 x6 x7 x8}
    (hL : [.out, .grp] ⊆ L) (h : Only L s0 s) :
    Only L s0 (State.sendOp s x2 x3 x4 x5 x6 x7 x8) := by
  unfold State.sendOp
  exact State.sendSeq_only (Part.sub hL (by decide)) (by assumption)

theorem State.withdrawHome_only {L : List Part} {s0 s : State} {x2}
    (hL : [.out, .grp] ⊆ L) (h : Only L s0 s) :
    Only L s0 (State.withdrawHome s x2) := by
  unfold State.withdrawHome
  refine Only.ite ?_ ?_
  · assumption
  · exact State.sendSeq_only (Part.sub hL (by decide)) (by assumption)

theorem State.putRecord_only {L : List Part} {s0 s : State} {x2}
    (hL : [.out, .grp, .red, .regs 40] ⊆ L) (h : Only L s0 s) :
    Only L s0 (State.putRecord s x2) := by
  unfold State.putRecord
  extract_lets n1 n2 n3 n4 s5 s6
  have hs5 : Only L s0 s5 := by
    unfold s5
    exact State.setRed_only (Part.sub hL (by decide)) (by assumption)
  clear_value s5
  have hs6 : Only L s0 s6 := by
    unfold s6
    refine Only.ite ?_ ?_
    · exact State.wr_only (Part.sub hL (by decide)) (by assumption)
    · assumption
  clear_value s6
  refine Only.foldl _ ?_ (fun s _ h => ?_)
  · assumption
  · exact State.sendSeqFor_only (Part.sub hL (by decide)) (by assumption)

theorem State.setStripe_only {L : List Part} {s0 s : State} {x2}
    (hL : [.red] ⊆ L) (h : Only L s0 s) :
    Only L s0 (State.setStripe s x2) := by
  unfold State.setStripe
  extract_lets n1
  exact State.setRed_only (Part.sub hL (by decide)) (by assumption)

theorem State.moveSlot_only {L : List Part} {s0 s : State} {x2 x3}
    (hL : [.out, .grp, .red, .regs 40] ⊆ L) (h : Only L s0 s) :
    Only L s0 (State.moveSlot s x2 x3) := by
  unfold State.moveSlot
  split
  · assumption
  · extract_lets n1 n2 n3 n4 n5
    split
    · assumption
    · extract_lets n6 s7
      have hs7 : Only L s0 s7 := by
        unfold s7
        exact State.setRed_only (Part.sub hL (by decide)) (by assumption)
      clear_value s7
      refine State.putRecord_only (Part.sub hL (by decide)) ?_
      exact State.setStripe_only (Part.sub hL (by decide)) (by assumption)

theorem State.moveSlots_only {L : List Part} {s0 s : State}
    (hL : [.out, .grp, .red, .regs 40] ⊆ L) (h : Only L s0 s) :
    Only L s0 (State.moveSlots s) := by
  unfold State.moveSlots
  split
  · assumption
  · refine Only.foldl _ ?_ (fun s _ h => ?_)
    · assumption
    · refine Only.foldl _ ?_ (fun s _ h => ?_)
      · assumption
      · split
        · exact State.moveSlot_only (Part.sub hL (by decide)) (by assumption)
        · assumption

theorem State.addUnits_only {L : List Part} {s0 s : State} {x2}
    (hL : [.obj] ⊆ L) (h : Only L s0 s) :
    Only.Pair L s0 (State.addUnits s x2) := by
  unfold State.addUnits
  exact Only.foldlPair _ h fun a _ h => State.addUnit_only (Part.sub hL (by decide)) h

theorem State.takeLanding_only {L : List Part} {s0 s : State} {x2 x3 x4 x5 x6}
    (hL : [.out, .host, .obj, .life, .disk, .trc, .red, .regs 0, .regs 4, .regs 16, .regs 49] ⊆ L) (h : Only L s0 s) :
    Only L s0 (State.takeLanding s x2 x3 x4 x5 x6) := by
  unfold State.takeLanding
  extract_lets n1 n2 s3
  have hs3 : Only L s0 s3 := by
    unfold s3
    refine Only.ite ?_ ?_
    · assumption
    · exact State.setRed_only (Part.sub hL (by decide)) (by assumption)
  clear_value s3
  split
  · assumption
  · extract_lets n4
    refine Only.ite ?_ ?_
    · assumption
    · refine Only.ite ?_ ?_
      · exact State.setCopy_only (Part.sub hL (by decide)) (by assumption)
      · split
        extract_lets n5 s6
        have hs6 : Only L s0 s6 := by
          unfold s6
          refine State.setCopy_only (Part.sub hL (by decide)) ?_
          refine Only.of_eq ?_ (by assumption)
          exact State.addUnits_only (Part.sub hL (by decide)) (by assumption)
        clear_value s6
        refine Only.ite ?_ ?_
        · exact State.setCopy_only (Part.sub hL (by decide)) (by assumption)
        · exact State.placeRemote_only (Part.sub hL (by decide)) (by assumption)

theorem State.sendBytes_only {L : List Part} {s0 s : State} {x2 x3 x4 x5 x6 x7 x8}
    (hL : [.out, .grp] ⊆ L) (h : Only L s0 s) :
    Only L s0 (State.sendBytes s x2 x3 x4 x5 x6 x7 x8) := by
  unfold State.sendBytes
  extract_lets n1
  refine Only.foldl _ ?_ (fun s _ h => ?_)
  · assumption
  · extract_lets n2
    exact State.sendSeq_only (Part.sub hL (by decide)) (by assumption)

theorem State.sendCopy_only {L : List Part} {s0 s : State} {x2 x3}
    (hL : [.out, .host, .sq, .obj, .life, .disk, .trc, .grp, .red, .regs 0, .regs 4, .regs 16, .regs 49] ⊆ L) (h : Only L s0 s) :
    Only L s0 (State.sendCopy s x2 x3) := by
  unfold State.sendCopy
  split
  · assumption
  · extract_lets n1 s2 n3 s4
    have hs2 : Only L s0 s2 := by
      unfold s2
      exact State.setCmd_only (Part.sub hL (by decide)) (by assumption)
    clear_value s2
    have hs4 : Only L s0 s4 := by
      unfold s4
      exact State.setRed_only (Part.sub hL (by decide)) (by assumption)
    clear_value s4
    refine Only.ite ?_ ?_
    · exact State.takeLanding_only (Part.sub hL (by decide)) (by assumption)
    · exact State.sendBytes_only (Part.sub hL (by decide)) (by assumption)

theorem State.placeGroup_only {L : List Part} {s0 s : State} {x2 x3}
    (hL : [.out, .free, .host, .sq, .obj, .life, .tape, .disk, .trc, .grp, .red, .regs 0, .regs 4, .regs 8,
      .regs 16, .regs 49] ⊆ L) (h : Only L s0 s) :
    Only L s0 (State.placeGroup s x2 x3) := by
  unfold State.placeGroup
  split
  · assumption
  · extract_lets n1 n2 n3 s4
    have hs4 : Only L s0 s4 := by
      unfold s4
      refine Only.updFree (Part.sub hL (by decide)) ?_
      assumption
    clear_value s4
    refine Only.ite ?_ ?_
    · refine State.fail_only (Part.sub hL (by decide)) ?_
      exact State.discardWork_only (Part.sub hL (by decide)) (by assumption)
    · refine Only.foldl _ ?_ (fun s _ h => ?_)
      · assumption
      · exact State.sendCopy_only (Part.sub hL (by decide)) (by assumption)

theorem State.copyLost_only {L : List Part} {s0 s : State} {x2 x3 x4}
    (hL : [.out, .free, .host, .sq, .obj, .life, .tape, .disk, .trc, .grp, .red, .regs 0, .regs 4, .regs 8,
      .regs 16, .regs 49] ⊆ L) (h : Only L s0 s) :
    Only L s0 (State.copyLost s x2 x3 x4) := by
  unfold State.copyLost
  split
  · assumption
  · refine State.placeGroup_only (Part.sub hL (by decide)) ?_
    exact State.setCmd_only (Part.sub hL (by decide)) (by assumption)

theorem State.releaseCopy_only {L : List Part} {s0 s : State} {x2 x3}
    (hL : [.out, .host, .obj, .life, .disk, .trc, .red, .regs 0, .regs 4, .regs 16, .regs 49] ⊆ L) (h : Only L s0 s) :
    Only L s0 (State.releaseCopy s x2 x3) := by
  unfold State.releaseCopy
  extract_lets n1 n2 s3 n4 s5 n6
  have hs3 : Only L s0 s3 := by
    unfold s3
    exact State.releaseLanding_only (Part.sub hL (by decide)) (by assumption)
  clear_value s3
  have hs5 : Only L s0 s5 := by
    unfold s5
    exact State.setRed_only (Part.sub hL (by decide)) (by assumption)
  clear_value s5
  refine Only.updObj (Part.sub hL (by decide)) ?_
  assumption

theorem State.releaseLanded_only {L : List Part} {s0 s : State}
    (hL : [.out, .host, .obj, .life, .disk, .trc, .grp, .red, .regs 0, .regs 4, .regs 16, .regs 49] ⊆ L) (h : Only L s0 s) :
    Only L s0 (State.releaseLanded s) := by
  unfold State.releaseLanded
  extract_lets n1 n2 n3 n4 s5
  have hs5 : Only L s0 s5 := by
    unfold s5
    exact State.setRed_only (Part.sub hL (by decide)) (by assumption)
  clear_value s5
  refine Only.foldl _ ?_ (fun s _ h => ?_)
  · assumption
  · refine Only.foldl _ ?_ (fun s _ h => ?_)
    · assumption
    · refine Only.ite ?_ ?_
      · exact State.releaseCopy_only (Part.sub hL (by decide)) (by assumption)
      · exact State.sendOp_only (Part.sub hL (by decide)) (by assumption)

theorem State.openStripe_only {L : List Part} {s0 s : State} {x2 x3 x4}
    (hL : [.out, .grp, .red, .regs 40] ⊆ L) (h : Only L s0 s) :
    Only L s0 (State.openStripe s x2 x3 x4) := by
  unfold State.openStripe
  extract_lets n1 s2
  have hs2 : Only L s0 s2 := by
    unfold s2
    exact State.setRed_only (Part.sub hL (by decide)) (by assumption)
  clear_value s2
  exact State.putRecord_only (Part.sub hL (by decide)) (by assumption)

theorem State.answerLookup_only {L : List Part} {s0 s : State} {x2 x3}
    (hL : [.out, .grp] ⊆ L) (h : Only L s0 s) :
    Only L s0 (State.answerLookup s x2 x3) := by
  unfold State.answerLookup
  extract_lets f1
  have hf1 : ∀ a1 a2 a3, Only L s0 a1 → Only L s0 (f1 a1 a2 a3) := by
    intro a1 a2 a3 h
    unfold f1
    exact State.sendSeq_only (Part.sub hL (by decide)) (by assumption)
  split
  · extract_lets n2 s3
    have hs3 : Only L s0 s3 := by
      unfold s3
      refine Only.foldl _ ?_ (fun s _ h => ?_)
      · assumption
      · refine hf1 _ _ _ ?_
        assumption
    clear_value s3
    refine hf1 _ _ _ ?_
    assumption
  · refine Only.foldl _ ?_ (fun s _ h => ?_)
    · assumption
    · refine hf1 _ _ _ ?_
      assumption
  · refine hf1 _ _ _ ?_
    assumption

theorem State.pushMap_only {L : List Part} {s0 s : State} {x2}
    (hL : [.out, .grp] ⊆ L) (h : Only L s0 s) :
    Only L s0 (State.pushMap s x2) := by
  unfold State.pushMap
  extract_lets n1 s2
  have hs2 : Only L s0 s2 := by
    unfold s2
    refine Only.foldl _ ?_ (fun s _ h => ?_)
    · assumption
    · exact State.answerLookup_only (Part.sub hL (by decide)) (by assumption)
  clear_value s2
  exact State.sendSeq_only (Part.sub hL (by decide)) (by assumption)

theorem State.closeStripe_only {L : List Part} {s0 s : State}
    (hL : [.out, .grp, .red, .regs 40] ⊆ L) (h : Only L s0 s) :
    Only L s0 (State.closeStripe s) := by
  unfold State.closeStripe
  extract_lets n1 n2 n3 n4 n5 n6 n7 s8
  have hs8 : Only L s0 s8 := by
    unfold s8
    exact State.setRed_only (Part.sub hL (by decide)) (by assumption)
  clear_value s8
  refine Only.ite ?_ ?_
  · assumption
  · exact State.openStripe_only (Part.sub hL (by decide)) (by assumption)

theorem State.gatherFull_only {L : List Part} {s0 s : State} {x1}
    (hL : [.out, .grp, .red, .regs 40] ⊆ L) (h : Only L s0 s) :
    Only L s0 (State.gatherFull x1 s) := by
  induction x1 generalizing s with
  | zero =>
    rw [State.gatherFull]
    assumption
  | succ n ih =>
    rw [State.gatherFull]
    refine Only.ite ?_ ?_
    · refine ih ?_
      exact State.closeStripe_only (Part.sub hL (by decide)) (by assumption)
    · assumption

theorem State.gatherUnits_only {L : List Part} {s0 s : State} {x2}
    (hL : [.out, .grp, .red, .regs 40] ⊆ L) (h : Only L s0 s) :
    Only L s0 (State.gatherUnits s x2) := by
  unfold State.gatherUnits
  extract_lets n1 s2
  have hs2 : Only L s0 s2 := by
    unfold s2
    exact State.setRed_only (Part.sub hL (by decide)) (by assumption)
  clear_value s2
  exact State.gatherFull_only (Part.sub hL (by decide)) (by assumption)

theorem State.setStrip_only {L : List Part} {s0 s : State} {x2}
    (hL : [.red] ⊆ L) (h : Only L s0 s) :
    Only L s0 (State.setStrip s x2) := by
  unfold State.setStrip
  extract_lets n1
  exact State.setRed_only (Part.sub hL (by decide)) (by assumption)

theorem State.writeStrip_only {L : List Part} {s0 s : State} {x2 x3}
    (hL : [.obj, .tape, .mot, .disk, .red, .regs 16, .regs 32] ⊆ L) (h : Only L s0 s) :
    Only L s0 (State.writeStrip s x2 x3) := by
  unfold State.writeStrip
  extract_lets n1
  split
  extract_lets s2 n3
  have hs2 : Only L s0 s2 := by
    unfold s2
    refine State.setStrip_only (Part.sub hL (by decide)) ?_
    refine Only.of_eq ?_ (by assumption)
    exact State.addUnits_only (Part.sub hL (by decide)) (by assumption)
  clear_value s2
  refine Only.ite ?_ ?_
  · exact State.setDisk_only (Part.sub hL (by decide)) (by assumption)
  · refine State.closeSet_only (Part.sub hL (by decide)) ?_
    refine State.tapeTake_only (Part.sub hL (by decide)) ?_
    exact State.closeSet_only (Part.sub hL (by decide)) (by assumption)

theorem State.takeStrip_only {L : List Part} {s0 s : State} {x2 x3 x4 x5 x6 x7 x8}
    (hL : [.out, .obj, .tape, .mot, .disk, .grp, .red, .regs 16, .regs 32] ⊆ L) (h : Only L s0 s) :
    Only L s0 (State.takeStrip s x2 x3 x4 x5 x6 x7 x8) := by
  unfold State.takeStrip
  extract_lets s1 n2 s3
  have hs1 : Only L s0 s1 := by
    unfold s1
    refine Only.ite ?_ ?_
    · exact State.dropStrips_only (Part.sub hL (by decide)) (by assumption)
    · assumption
  clear_value s1
  have hs3 : Only L s0 s3 := by
    unfold s3
    split
    · assumption
    · exact State.setRed_only (Part.sub hL (by decide)) (by assumption)
  clear_value s3
  split
  · assumption
  · extract_lets n4 s5
    have hs5 : Only L s0 s5 := by
      unfold s5
      exact State.setStrip_only (Part.sub hL (by decide)) (by assumption)
    clear_value s5
    refine Only.ite ?_ ?_
    · assumption
    · refine Only.ite ?_ ?_
      · assumption
      · refine Only.ite ?_ ?_
        · refine State.sendOp_only (Part.sub hL (by decide)) ?_
          exact State.dropStrips_only (Part.sub hL (by decide)) (by assumption)
        · exact State.writeStrip_only (Part.sub hL (by decide)) (by assumption)

theorem State.sendStrip_only {L : List Part} {s0 s : State} {x2 x3 x4}
    (hL : [.out, .obj, .tape, .mot, .disk, .grp, .red, .regs 16, .regs 32] ⊆ L) (h : Only L s0 s) :
    Only L s0 (State.sendStrip s x2 x3 x4) := by
  unfold State.sendStrip
  extract_lets n1 n2 s3
  have hs3 : Only L s0 s3 := by
    unfold s3
    exact State.setRed_only (Part.sub hL (by decide)) (by assumption)
  clear_value s3
  refine Only.ite ?_ ?_
  · exact State.takeStrip_only (Part.sub hL (by decide)) (by assumption)
  · exact State.sendBytes_only (Part.sub hL (by decide)) (by assumption)

theorem State.sendStrips_only {L : List Part} {s0 s : State} {x2}
    (hL : [.out, .obj, .tape, .mot, .disk, .grp, .red, .regs 16, .regs 32, .regs 40] ⊆ L) (h : Only L s0 s) :
    Only L s0 (State.sendStrips s x2) := by
  unfold State.sendStrips
  extract_lets n1 s2 s3
  have hs2 : Only L s0 s2 := by
    unfold s2
    exact State.add64_only (Part.sub hL (by decide)) (by assumption)
  clear_value s2
  have hs3 : Only L s0 s3 := by
    unfold s3
    exact State.setStripe_only (Part.sub hL (by decide)) (by assumption)
  clear_value s3
  refine Only.foldl _ ?_ (fun s _ h => ?_)
  · assumption
  · exact State.sendStrip_only (Part.sub hL (by decide)) (by assumption)

theorem State.resendStrips_only {L : List Part} {s0 s : State} {x2}
    (hL : [.out, .obj, .tape, .mot, .disk, .grp, .red, .regs 16, .regs 32] ⊆ L) (h : Only L s0 s) :
    Only L s0 (State.resendStrips s x2) := by
  unfold State.resendStrips
  refine Only.foldl _ ?_ (fun s _ h => ?_)
  · exact State.setStripe_only (Part.sub hL (by decide)) (by assumption)
  · exact State.sendStrip_only (Part.sub hL (by decide)) (by assumption)

theorem State.stripeState_only {L : List Part} {s0 s : State} {x2 x3}
    (hL : [.out, .grp, .red, .regs 40] ⊆ L) (h : Only L s0 s) :
    Only L s0 (State.stripeState s x2 x3) := by
  unfold State.stripeState
  extract_lets n1 n2
  refine State.putRecord_only (Part.sub hL (by decide)) ?_
  exact State.setStripe_only (Part.sub hL (by decide)) (by assumption)

theorem State.takeDirectory_only {L : List Part} {s0 s : State} {x2}
    (hL : [.red] ⊆ L) (h : Only L s0 s) :
    Only L s0 (State.takeDirectory s x2) := by
  unfold State.takeDirectory
  extract_lets n1 n2 n3
  exact State.setRed_only (Part.sub hL (by decide)) (by assumption)

theorem State.publish_only {L : List Part} {s0 s : State} {x2}
    (hL : [.out, .obj, .grp, .red] ⊆ L) (h : Only L s0 s) :
    Only L s0 (State.publish s x2) := by
  unfold State.publish
  extract_lets s1 n2 n3 s4 s5 n6 s7 n8
  have hs1 : Only L s0 s1 := by
    unfold s1
    exact State.setStripe_only (Part.sub hL (by decide)) (by assumption)
  clear_value s1
  have hs4 : Only L s0 s4 := by
    unfold s4
    exact State.takeDirectory_only (Part.sub hL (by decide)) (by assumption)
  clear_value s4
  have hs5 : Only L s0 s5 := by
    unfold s5
    refine Only.ite ?_ ?_
    · assumption
    · exact State.sendSeqFor_only (Part.sub hL (by decide)) (by assumption)
  clear_value s5
  have hs7 : Only L s0 s7 := by
    unfold s7
    refine Only.foldl _ ?_ (fun s _ h => ?_)
    · assumption
    · extract_lets n9
      refine Only.ite ?_ ?_
      · exact State.setUnit_only (Part.sub hL (by decide)) (by assumption)
      · assumption
  clear_value s7
  refine Only.ite ?_ ?_
  · assumption
  · refine Only.foldl _ ?_ (fun s _ h => ?_)
    · assumption
    · exact State.tellHome_only (Part.sub hL (by decide)) (by assumption)

theorem State.stripeCommitted_only {L : List Part} {s0 s : State} {x2}
    (hL : [.out, .host, .obj, .life, .disk, .trc, .grp, .red, .regs 0, .regs 4, .regs 16, .regs 40, .regs 49] ⊆ L) (h : Only L s0 s) :
    Only L s0 (State.stripeCommitted s x2) := by
  unfold State.stripeCommitted
  extract_lets n1 n2 s3 s4 s5
  have hs3 : Only L s0 s3 := by
    unfold s3
    exact State.setRed_only (Part.sub hL (by decide)) (by assumption)
  clear_value s3
  have hs4 : Only L s0 s4 := by
    unfold s4
    refine Only.ite ?_ ?_
    · refine Only.foldl _ ?_ (fun s _ h => ?_)
      · assumption
      · extract_lets n6
        refine Only.ite ?_ ?_
        · exact State.setUnit_only (Part.sub hL (by decide)) (by assumption)
        · assumption
    · assumption
  clear_value s4
  have hs5 : Only L s0 s5 := by
    unfold s5
    refine Only.ite ?_ ?_
    · exact State.releaseLanded_only (Part.sub hL (by decide)) (by assumption)
    · assumption
  clear_value s5
  exact State.putRecord_only (Part.sub hL (by decide)) (by assumption)

theorem State.stripeStep_only {L : List Part} {s0 s : State} {x1 x3}
    (hL : [.out, .host, .obj, .life, .tape, .mot, .disk, .trc, .grp, .red, .regs 0, .regs 4, .regs 16,
      .regs 32, .regs 40, .regs 49] ⊆ L) (h : Only L s0 s) :
    Only L s0 (State.stripeStep x1 s x3) := by
  induction x1 generalizing s x3 with
  | zero =>
    rw [State.stripeStep]
    assumption
  | succ n ih =>
    rw [State.stripeStep]
    split
    · assumption
    · extract_lets n1
      refine Only.ite ?_ ?_
      · assumption
      · refine Only.ite ?_ ?_
        · refine Only.ite ?_ ?_
          · assumption
          · refine ih ?_
            exact State.sendStrips_only (Part.sub hL (by decide)) (by assumption)
        · refine Only.ite ?_ ?_
          · refine ih ?_
            exact State.resendStrips_only (Part.sub hL (by decide)) (by assumption)
          · refine Only.ite ?_ ?_
            · refine ih ?_
              exact State.stripeState_only (Part.sub hL (by decide)) (by assumption)
            · refine Only.ite ?_ ?_
              · refine ih ?_
                exact State.stripeState_only (Part.sub hL (by decide)) (by assumption)
              · refine Only.ite ?_ ?_
                · refine ih ?_
                  exact State.publish_only (Part.sub hL (by decide)) (by assumption)
                · refine Only.ite ?_ ?_
                  · refine ih ?_
                    exact State.stripeState_only (Part.sub hL (by decide)) (by assumption)
                  · refine Only.ite ?_ ?_
                    · exact State.stripeCommitted_only (Part.sub hL (by decide)) (by assumption)
                    · assumption

theorem State.slotDone_only {L : List Part} {s0 s : State} {x2 x3 x4 x5}
    (hL : [.out, .host, .obj, .life, .tape, .mot, .disk, .trc, .grp, .red, .regs 0, .regs 4, .regs 16,
      .regs 32, .regs 40, .regs 49] ⊆ L) (h : Only L s0 s) :
    Only L s0 (State.slotDone s x2 x3 x4 x5) := by
  unfold State.slotDone
  split
  · assumption
  · extract_lets n1 s2 n3 n4
    have hs2 : Only L s0 s2 := by
      unfold s2
      exact State.setRed_only (Part.sub hL (by decide)) (by assumption)
    clear_value s2
    refine Only.ite ?_ ?_
    · refine State.stripeStep_only (Part.sub hL (by decide)) ?_
      refine State.putRecord_only (Part.sub hL (by decide)) ?_
      exact State.setStripe_only (Part.sub hL (by decide)) (by assumption)
    · assumption

theorem State.copyWritten_only {L : List Part} {s0 s : State} {x2 x3 x4}
    (hL : [.sq] ⊆ L) (h : Only L s0 s) :
    Only L s0 (State.copyWritten s x2 x3 x4) := by
  unfold State.copyWritten
  extract_lets n1
  refine Only.updSq (Part.sub hL (by decide)) ?_
  assumption

theorem State.takeRecord_only {L : List Part} {s0 s : State} {x2 x3}
    (hL : [.red] ⊆ L) (h : Only L s0 s) :
    Only L s0 (State.takeRecord s x2 x3) := by
  simp only [State.takeRecord]
  repeat' first
    | exact h
    | exact State.setRed_only (Part.sub hL (by decide)) h
    | split

theorem State.putEntry_only {L : List Part} {s0 s : State} {x2 x3 x4}
    (hL : [.obj] ⊆ L) (h : Only L s0 s) :
    Only L s0 (State.putEntry s x2 x3 x4) := by
  unfold State.putEntry
  extract_lets n1 n2
  refine Only.ite ?_ ?_
  · refine Only.updObj (Part.sub hL (by decide)) ?_
    assumption
  · refine Only.updObj (Part.sub hL (by decide)) ?_
    assumption

theorem State.growUnits_only {L : List Part} {s0 s : State} {x1 x3 x4}
    (hL : [.obj] ⊆ L) (h : Only L s0 s) :
    Only.Pair L s0 (State.growUnits x1 s x3 x4) := by
  induction x1 generalizing s x3 x4 with
  | zero =>
    rw [State.growUnits]
    refine Only.pair ?_
    assumption
  | succ n ih =>
    rw [State.growUnits]
    split
    refine ih ?_
    refine Only.of_eq ?_ (by assumption)
    extract_lets n1
    exact State.addUnit_only (Part.sub hL (by decide)) (by assumption)

theorem State.takeEntry_only {L : List Part} {s0 s : State} {x2 x3}
    (hL : [.obj, .red] ⊆ L) (h : Only L s0 s) :
    Only L s0 (State.takeEntry s x2 x3) := by
  unfold State.takeEntry
  extract_lets n1 n2 n3 n4 n5 n6 n7 n8 s9 n10 n11 n12
  have hs9 : Only L s0 s9 := by
    unfold s9
    refine Only.updRed (Part.sub hL (by decide)) ?_
    assumption
  clear_value s9
  refine Only.ite ?_ ?_
  · exact State.putEntry_only (Part.sub hL (by decide)) (by assumption)
  · split
    extract_lets s13 n14
    have hs13 : Only L s0 s13 := by
      unfold s13
      refine Only.foldl _ ?_ (fun s _ h => ?_)
      · refine Only.of_eq ?_ (by assumption)
        exact State.growUnits_only (Part.sub hL (by decide)) (by assumption)
      · extract_lets n15 n16
        split
        · exact State.setUnit_only (Part.sub hL (by decide)) (by assumption)
        · assumption
        · exact State.setUnit_only (Part.sub hL (by decide)) (by assumption)
    clear_value s13
    exact State.putEntry_only (Part.sub hL (by decide)) (by assumption)

theorem State.dropProp_only {L : List Part} {s0 s : State} {x2}
    (hL : [.obj] ⊆ L) (h : Only L s0 s) :
    Only L s0 (State.dropProp s x2) := by
  unfold State.dropProp
  extract_lets n1
  refine Only.updObj (Part.sub hL (by decide)) ?_
  assumption

theorem State.confirmHome_only {L : List Part} {s0 s : State} {x2}
    (hL : [.out, .grp] ⊆ L) (h : Only L s0 s) :
    Only L s0 (State.confirmHome s x2) := by
  unfold State.confirmHome
  refine Only.ite ?_ ?_
  · assumption
  · exact State.sendSeq_only (Part.sub hL (by decide)) (by assumption)

theorem State.settleProp_only {L : List Part} {s0 s : State} {x2}
    (hL : [.obj] ⊆ L) (h : Only L s0 s) :
    Only L s0 (State.settleProp s x2) := by
  unfold State.settleProp
  split
  · assumption
  · extract_lets n1 s2
    have hs2 : Only L s0 s2 := by
      unfold s2
      refine Only.updObj (Part.sub hL (by decide)) ?_
      assumption
    clear_value s2
    exact State.putEntry_only (Part.sub hL (by decide)) (by assumption)

theorem State.setObjs_only {L : List Part} {s0 s : State} {x2}
    (hL : [.obj] ⊆ L) (h : Only L s0 s) :
    Only L s0 (State.setObjs s x2) := by
  unfold State.setObjs
  extract_lets n1
  refine Only.updObj (Part.sub hL (by decide)) ?_
  assumption

theorem State.dropEntry_only {L : List Part} {s0 s : State} {x2}
    (hL : [.obj] ⊆ L) (h : Only L s0 s) :
    Only L s0 (State.dropEntry s x2) := by
  unfold State.dropEntry
  refine State.setObjs_only (Part.sub hL (by decide)) ?_
  exact State.dropProp_only (Part.sub hL (by decide)) (by assumption)

theorem State.reclaimCopies_only {L : List Part} {s0 s : State}
    (hL : [.out, .host, .obj, .life, .disk, .trc, .grp, .red, .regs 0, .regs 4, .regs 16, .regs 49] ⊆ L) (h : Only L s0 s) :
    Only L s0 (State.reclaimCopies s) := by
  unfold State.reclaimCopies
  extract_lets n1 n2 n3 n4 s5
  have hs5 : Only L s0 s5 := by
    unfold s5
    exact State.setRed_only (Part.sub hL (by decide)) (by assumption)
  clear_value s5
  refine Only.foldl _ ?_ (fun s _ h => ?_)
  · assumption
  · refine Only.ite ?_ ?_
    · exact State.releaseCopy_only (Part.sub hL (by decide)) (by assumption)
    · exact State.sendOp_only (Part.sub hL (by decide)) (by assumption)

theorem State.pollCopies_only {L : List Part} {s0 s : State}
    (hL : [.out, .free, .host, .sq, .obj, .life, .tape, .disk, .trc, .grp, .red, .regs 0, .regs 4, .regs 8,
      .regs 16, .regs 49] ⊆ L) (h : Only L s0 s) :
    Only L s0 (State.pollCopies s) := by
  unfold State.pollCopies
  split
  · assumption
  · refine Only.foldl _ ?_ (fun s _ h => ?_)
    · assumption
    · extract_lets s1 s2 s3
      have hs1 : Only L s0 s1 := by
        unfold s1
        exact State.releaseCopy_only (Part.sub hL (by decide)) (by assumption)
      clear_value s1
      have hs2 : Only L s0 s2 := by
        unfold s2
        split
        · refine Only.foldl _ ?_ (fun s _ h => ?_)
          · assumption
          · extract_lets n4 n5
            exact State.setUnit_only (Part.sub hL (by decide)) (by assumption)
        · assumption
      clear_value s2
      have hs3 : Only L s0 s3 := by
        unfold s3
        exact State.setCopy_only (Part.sub hL (by decide)) (by assumption)
      clear_value s3
      refine Only.ite ?_ ?_
      · assumption
      · refine Only.ite ?_ ?_
        · refine Only.ite ?_ ?_
          · exact State.copyLost_only (Part.sub hL (by decide)) (by assumption)
          · exact State.sendOp_only (Part.sub hL (by decide)) (by assumption)
        · refine Only.ite ?_ ?_
          · refine Only.ite ?_ ?_
            · exact State.copyWritten_only (Part.sub hL (by decide)) (by assumption)
            · exact State.sendOp_only (Part.sub hL (by decide)) (by assumption)
          · split
            · exact State.placeRemote_only (Part.sub hL (by decide)) (by assumption)
            · refine Only.ite ?_ ?_
              · assumption
              · refine State.placeRemote_only (Part.sub hL (by decide)) ?_
                exact State.setCopy_only (Part.sub hL (by decide)) (by assumption)

end Sys2Proof.Machine
end

