-- ==== Sys2Proof/Laws/OnlyRecover.lean ====
section
/-!
SUPPORT. The parts of the state that an operation of Machine/Recover.lean may change (Laws/Only.lean).
-/

set_option Elab.async false

namespace Sys2Proof.Machine

theorem State.abortStripe_only {L : List Part} {s0 s : State} {x2}
    (hL : [.out, .obj, .disk, .grp, .red] ⊆ L) (h : Only L s0 s) :
    Only L s0 (State.abortStripe s x2) := by
  unfold State.abortStripe
  refine Only.foldl _ ?_ (fun s _ h => ?_)
  · assumption
  · refine Only.ite ?_ ?_
    · exact State.dropStrips_only (Part.sub hL (by decide)) (by assumption)
    · exact State.sendOp_only (Part.sub hL (by decide)) (by assumption)

theorem State.moveHomes_only {L : List Part} {s0 s : State} {x2}
    (hL : [.out, .obj, .grp] ⊆ L) (h : Only L s0 s) :
    Only L s0 (State.moveHomes s x2) := by
  unfold State.moveHomes
  extract_lets n1
  refine Only.ite ?_ ?_
  · refine Only.foldl _ ?_ (fun s _ h => ?_)
    · assumption
    · refine Only.ite ?_ ?_
      · assumption
      · exact State.tellHome_only (Part.sub hL (by decide)) (by assumption)
  · refine Only.updObj (Part.sub hL (by decide)) ?_
    assumption

theorem State.applyReloc_only {L : List Part} {s0 s : State}
    (hL : [.obj, .red] ⊆ L) (h : Only L s0 s) :
    Only L s0 (State.applyReloc s) := by
  unfold State.applyReloc
  extract_lets s1 n2
  have hs1 : Only L s0 s1 := by
    unfold s1
    refine Only.foldl _ ?_ (fun s _ h => ?_)
    · assumption
    · extract_lets n3
      refine Only.ite ?_ ?_
      · exact State.setUnit_only (Part.sub hL (by decide)) (by assumption)
      · assumption
  clear_value s1
  exact State.setRed_only (Part.sub hL (by decide)) (by assumption)

theorem State.planReshape_only {L : List Part} {s0 s : State}
    (hL : [.red] ⊆ L) (h : Only L s0 s) :
    Only L s0 (State.planReshape s) := by
  unfold State.planReshape
  extract_lets n1 n2
  exact State.setRed_only (Part.sub hL (by decide)) (by assumption)

theorem State.copySuccessors_only {L : List Part} {s0 s : State}
    (hL : [.out, .grp, .red] ⊆ L) (h : Only L s0 s) :
    Only L s0 (State.copySuccessors s) := by
  unfold State.copySuccessors
  refine Only.ite (State.setRed_only (Part.sub hL (by decide)) h) ?_
  split
  · exact State.setRed_only (Part.sub hL (by decide)) h
  · refine Only.foldl _ (State.setRed_only (Part.sub hL (by decide)) (State.setRed_only (Part.sub hL (by decide)) h)) ?_
    intro s _ h
    exact Only.foldl _ h fun s _ h => State.sendSeqFor_only (Part.sub hL (by decide)) h

theorem State.dropMirrors_only {L : List Part} {s0 s : State}
    (hL : [.red] ⊆ L) (h : Only L s0 s) :
    Only L s0 (State.dropMirrors s) := by
  unfold State.dropMirrors
  extract_lets n1 n2
  exact State.setRed_only (Part.sub hL (by decide)) (by assumption)

theorem State.setItem_only {L : List Part} {s0 s : State} {x2}
    (hL : [.red] ⊆ L) (h : Only L s0 s) :
    Only L s0 (State.setItem s x2) := by
  unfold State.setItem
  extract_lets n1
  exact State.setRed_only (Part.sub hL (by decide)) (by assumption)

theorem State.reviewRebuild_only {L : List Part} {s0 s : State} {x2}
    (hL : [.out, .host, .life, .trc, .grp, .red, .regs 0, .regs 4, .regs 40, .regs 49] ⊆ L) (h : Only L s0 s) :
    Only L s0 (State.reviewRebuild s x2) := by
  unfold State.reviewRebuild
  extract_lets n1 s2 s3
  have hs2 : Only L s0 s2 := by
    unfold s2
    exact State.setRed_only (Part.sub hL (by decide)) (by assumption)
  clear_value s2
  have hs3 : Only L s0 s3 := by
    unfold s3
    refine Only.ite ?_ ?_
    · exact State.raise_only (Part.sub hL (by decide)) (by assumption)
    · assumption
  clear_value s3
  split
  · assumption
  · split
    · assumption
    · extract_lets n4 n5 n6 n7
      refine Only.ite ?_ ?_
      · refine State.putRecord_only (Part.sub hL (by decide)) ?_
        refine State.setStripe_only (Part.sub hL (by decide)) ?_
        exact State.setItem_only (Part.sub hL (by decide)) (by assumption)
      · assumption

theorem State.queueRebuild_only {L : List Part} {s0 s : State} {x2}
    (hL : [.out, .host, .life, .trc, .red, .regs 0, .regs 4, .regs 49] ⊆ L) (h : Only L s0 s) :
    Only L s0 (State.queueRebuild s x2) := by
  unfold State.queueRebuild
  extract_lets n1 n2 n3 s4
  have hs4 : Only L s0 s4 := by
    unfold s4
    exact State.setRed_only (Part.sub hL (by decide)) (by assumption)
  clear_value s4
  refine Only.ite ?_ ?_
  · exact State.raise_only (Part.sub hL (by decide)) (by assumption)
  · assumption

theorem State.listRow_only {L : List Part} {s0 s : State} {x2}
    (hL : [.out, .host, .life, .trc, .grp, .red, .regs 0, .regs 4, .regs 49] ⊆ L) (h : Only L s0 s) :
    Only L s0 (State.listRow s x2) := by
  unfold State.listRow
  extract_lets n1
  refine Only.ite ?_ ?_
  · exact State.queueRebuild_only (Part.sub hL (by decide)) (by assumption)
  · exact State.sendSeq_only (Part.sub hL (by decide)) (by assumption)

theorem State.recoverCopies_only {L : List Part} {s0 s : State} {x2 x3}
    (hL : [.out, .free, .host, .sq, .obj, .life, .tape, .disk, .trc, .grp, .red, .regs 0, .regs 4, .regs 8,
      .regs 16, .regs 49] ⊆ L) (h : Only L s0 s) :
    Only L s0 (State.recoverCopies s x2 x3) := by
  unfold State.recoverCopies
  extract_lets n1
  refine Only.foldl _ ?_ (fun s _ h => ?_)
  · assumption
  · refine Only.foldl _ ?_ (fun s _ h => ?_)
    · assumption
    · exact State.copyLost_only (Part.sub hL (by decide)) (by assumption)

theorem State.resume_only {L : List Part} {s0 s : State} {x2}
    (hL : [.out, .host, .obj, .life, .disk, .trc, .grp, .red, .regs 0, .regs 4, .regs 16, .regs 40, .regs 49] ⊆ L) (h : Only L s0 s) :
    Only L s0 (State.resume s x2) := by
  unfold State.resume
  extract_lets s1 n2 n3 n4
  have hs1 : Only L s0 s1 := by
    unfold s1
    exact State.abortStripe_only (Part.sub hL (by decide)) (by assumption)
  clear_value s1
  refine Only.ite ?_ ?_
  · assumption
  · refine Only.ite ?_ ?_
    · exact State.releaseLanded_only (Part.sub hL (by decide)) (by assumption)
    · refine Only.ite ?_ ?_
      · assumption
      · refine Only.ite ?_ ?_
        · assumption
        · exact State.openStripe_only (Part.sub hL (by decide)) (by assumption)

theorem State.endTake_only {L : List Part} {s0 s : State} {x2}
    (hL : [.out, .host, .obj, .life, .disk, .trc, .grp, .red, .regs 0, .regs 4, .regs 16, .regs 40, .regs 49] ⊆ L) (h : Only L s0 s) :
    Only L s0 (State.endTake s x2) := by
  unfold State.endTake
  extract_lets n1 n2 s3 s4 s5 n6
  have hs3 : Only L s0 s3 := by
    unfold s3
    exact State.setRed_only (Part.sub hL (by decide)) (by assumption)
  clear_value s3
  have hs4 : Only L s0 s4 := by
    unfold s4
    refine State.raise_only (Part.sub hL (by decide)) ?_
    exact State.wr_only (Part.sub hL (by decide)) (by assumption)
  clear_value s4
  have hs5 : Only L s0 s5 := by
    unfold s5
    refine Only.foldl _ ?_ (fun s _ h => ?_)
    · assumption
    · exact State.resume_only (Part.sub hL (by decide)) (by assumption)
  clear_value s5
  exact State.setRed_only (Part.sub hL (by decide)) (by assumption)

theorem State.askTake_only {L : List Part} {s0 s : State} {x2}
    (hL : [.out, .host, .obj, .life, .disk, .trc, .grp, .red, .regs 0, .regs 4, .regs 16, .regs 40, .regs 49] ⊆ L) (h : Only L s0 s) :
    Only L s0 (State.askTake s x2) := by
  unfold State.askTake
  split
  · assumption
  · extract_lets n1 n2 n3 n4 s5
    have hs5 : Only L s0 s5 := by
      unfold s5
      exact State.setRed_only (Part.sub hL (by decide)) (by assumption)
    clear_value s5
    refine Only.ite ?_ ?_
    · exact State.endTake_only (Part.sub hL (by decide)) (by assumption)
    · refine Only.foldl _ ?_ (fun s _ h => ?_)
      · assumption
      · exact State.sendSeq_only (Part.sub hL (by decide)) (by assumption)

theorem State.redAdopt_only {L : List Part} {s0 s : State} {x2 x3}
    (hL : [.out, .free, .host, .sq, .obj, .life, .tape, .disk, .trc, .grp, .red, .regs 0, .regs 4, .regs 8,
      .regs 16, .regs 40, .regs 49] ⊆ L) (h : Only L s0 s) :
    Only L s0 (State.redAdopt s x2 x3) := by
  unfold State.redAdopt
  extract_lets n1 n2 n3 n4
  split
  extract_lets s5 n6 s7 s8 s9 s10 s11 s12 s13 s14 s15 n16 n17 n18 s19 s20 n21 s22 s23
  have hs5 : Only L s0 s5 := by
    unfold s5
    refine State.moveHomes_only (Part.sub hL (by decide)) ?_
    refine Only.of_eq ?_ (by assumption)
    exact State.adoptRows_only (Part.sub hL (by decide)) (by assumption)
  clear_value s5
  have hs7 : Only L s0 s7 := by
    unfold s7
    refine Only.ite ?_ ?_
    · refine State.setRed_only (Part.sub hL (by decide)) ?_
      exact State.applyReloc_only (Part.sub hL (by decide)) (by assumption)
    · assumption
  clear_value s7
  have hs8 : Only L s0 s8 := by
    unfold s8
    refine Only.ite ?_ ?_
    · exact State.raise_only (Part.sub hL (by decide)) (by assumption)
    · assumption
  clear_value s8
  have hs9 : Only L s0 s9 := by
    unfold s9
    refine Only.ite ?_ ?_
    · exact State.planReshape_only (Part.sub hL (by decide)) (by assumption)
    · assumption
  clear_value s9
  have hs10 : Only L s0 s10 := by
    unfold s10
    refine Only.ite ?_ ?_
    · exact State.raise_only (Part.sub hL (by decide)) (by assumption)
    · assumption
  clear_value s10
  have hs11 : Only L s0 s11 := by
    unfold s11
    exact State.moveSlots_only (Part.sub hL (by decide)) (by assumption)
  clear_value s11
  have hs12 : Only L s0 s12 := by
    unfold s12
    exact State.copySuccessors_only (Part.sub hL (by decide)) (by assumption)
  clear_value s12
  have hs13 : Only L s0 s13 := by
    unfold s13
    exact State.dropMirrors_only (Part.sub hL (by decide)) (by assumption)
  clear_value s13
  have hs14 : Only L s0 s14 := by
    unfold s14
    exact State.reviewRebuild_only (Part.sub hL (by decide)) (by assumption)
  clear_value s14
  have hs15 : Only L s0 s15 := by
    unfold s15
    refine Only.foldl _ ?_ (fun s _ h => ?_)
    · assumption
    · exact State.listRow_only (Part.sub hL (by decide)) (by assumption)
  clear_value s15
  have hs19 : Only L s0 s19 := by
    unfold s19
    exact State.setRed_only (Part.sub hL (by decide)) (by assumption)
  clear_value s19
  have hs20 : Only L s0 s20 := by
    unfold s20
    refine Only.ite ?_ ?_
    · refine Only.foldl _ ?_ (fun s _ h => ?_)
      · assumption
      · exact State.listRow_only (Part.sub hL (by decide)) (by assumption)
    · assumption
  clear_value s20
  have hs22 : Only L s0 s22 := by
    unfold s22
    refine Only.foldl _ ?_ (fun s _ h => ?_)
    · assumption
    · refine Only.foldl _ ?_ (fun s _ h => ?_)
      · assumption
      · exact State.sendSeq_only (Part.sub hL (by decide)) (by assumption)
  clear_value s22
  have hs23 : Only L s0 s23 := by
    unfold s23
    refine Only.ite ?_ ?_
    · exact State.recoverCopies_only (Part.sub hL (by decide)) (by assumption)
    · assumption
  clear_value s23
  refine Only.ite ?_ ?_
  · refine Only.foldl _ ?_ (fun s _ h => ?_)
    · assumption
    · exact State.askTake_only (Part.sub hL (by decide)) (by assumption)
  · assumption

theorem State.rebuildStarted_only {L : List Part} {s0 s : State} {x2}
    (hL : [.out, .host, .life, .trc, .regs 0, .regs 4, .regs 49] ⊆ L) (h : Only L s0 s) :
    Only L s0 (State.rebuildStarted s x2) := by
  unfold State.rebuildStarted
  exact State.raise_only (Part.sub hL (by decide)) (by assumption)

theorem State.answerList_only {L : List Part} {s0 s : State} {x2 x3}
    (hL : [.out, .grp] ⊆ L) (h : Only L s0 s) :
    Only L s0 (State.answerList s x2 x3) := by
  unfold State.answerList
  extract_lets n1 n2 n3
  refine Only.foldl _ ?_ (fun s _ h => ?_)
  · assumption
  · extract_lets n4
    exact State.sendSeq_only (Part.sub hL (by decide)) (by assumption)

theorem State.answerTake_only {L : List Part} {s0 s : State} {x2 x3}
    (hL : [.out, .grp] ⊆ L) (h : Only L s0 s) :
    Only L s0 (State.answerTake s x2 x3) := by
  unfold State.answerTake
  extract_lets n1 n2 n3
  refine Only.foldl _ ?_ (fun s _ h => ?_)
  · assumption
  · extract_lets n4
    exact State.sendSeq_only (Part.sub hL (by decide)) (by assumption)

theorem State.takeRecords_only {L : List Part} {s0 s : State} {x2 x3 x4 x5}
    (hL : [.out, .host, .obj, .life, .disk, .trc, .grp, .red, .regs 0, .regs 4, .regs 16, .regs 40, .regs 49] ⊆ L) (h : Only L s0 s) :
    Only L s0 (State.takeRecords s x2 x3 x4 x5) := by
  unfold State.takeRecords
  split
  · assumption
  · extract_lets n1 n2 s3
    have hs3 : Only L s0 s3 := by
      unfold s3
      exact State.setRed_only (Part.sub hL (by decide)) (by assumption)
    clear_value s3
    refine Only.ite ?_ ?_
    · exact State.endTake_only (Part.sub hL (by decide)) (by assumption)
    · assumption

theorem State.mergeIndex_only {L : List Part} {s0 s : State} {x2}
    (hL : [.red] ⊆ L) (h : Only L s0 s) :
    Only L s0 (State.mergeIndex s x2) := by
  unfold State.mergeIndex
  extract_lets n1 n2 n3
  split
  · exact State.takeDirectory_only (Part.sub hL (by decide)) (by assumption)
  · exact State.takeDirectory_only (Part.sub hL (by decide)) (by assumption)

theorem State.checkIndex_only {L : List Part} {s0 s : State} {x2 x3 x4}
    (hL : [.obj, .disk, .red] ⊆ L) (h : Only L s0 s) :
    Only L s0 (State.checkIndex s x2 x3 x4) := by
  unfold State.checkIndex
  split
  · assumption
  · extract_lets n1 n2 s3 n4
    have hs3 : Only L s0 s3 := by
      unfold s3
      exact State.setRed_only (Part.sub hL (by decide)) (by assumption)
    clear_value s3
    refine Only.ite ?_ ?_
    · exact State.setRed_only (Part.sub hL (by decide)) (by assumption)
    · exact State.dropStrips_only (Part.sub hL (by decide)) (by assumption)

theorem State.dropStale_only {L : List Part} {s0 s : State} {x2}
    (hL : [.obj, .disk, .red] ⊆ L) (h : Only L s0 s) :
    Only L s0 (State.dropStale s x2) := by
  unfold State.dropStale
  refine Only.ite ?_ ?_
  · assumption
  · exact State.dropStrips_only (Part.sub hL (by decide)) (by assumption)

theorem State.takeList_only {L : List Part} {s0 s : State} {x2 x3 x4}
    (hL : [.out, .host, .obj, .life, .disk, .trc, .red, .regs 0, .regs 4, .regs 49] ⊆ L) (h : Only L s0 s) :
    Only L s0 (State.takeList s x2 x3 x4) := by
  unfold State.takeList
  extract_lets n1 n2 n3 s4 n5
  have hs4 : Only L s0 s4 := by
    unfold s4
    refine Only.foldl _ ?_ (fun s _ h => ?_)
    · assumption
    · extract_lets n6 n7
      exact State.mergeIndex_only (Part.sub hL (by decide)) (by assumption)
  clear_value s4
  refine State.queueRebuild_only (Part.sub hL (by decide)) ?_
  refine State.checkIndex_only (Part.sub hL (by decide)) ?_
  refine Only.foldl _ ?_ (fun s _ h => ?_)
  · assumption
  · exact State.dropStale_only (Part.sub hL (by decide)) (by assumption)

theorem State.readSources_only {L : List Part} {s0 s : State} {x2 x3}
    (hL : [.out, .grp, .red] ⊆ L) (h : Only L s0 s) :
    Only L s0 (State.readSources s x2 x3) := by
  unfold State.readSources
  extract_lets n1
  refine Only.foldl _ ?_ (fun s _ h => ?_)
  · assumption
  · extract_lets n2
    split
    · assumption
    · refine Only.ite ?_ ?_
      · split
        · exact State.setItem_only (Part.sub hL (by decide)) (by assumption)
        · exact State.setItem_only (Part.sub hL (by decide)) (by assumption)
      · refine State.sendSeq_only (Part.sub hL (by decide)) ?_
        exact State.setItem_only (Part.sub hL (by decide)) (by assumption)

theorem State.bytesLost_only {L : List Part} {s0 s : State} {x2 x3 x4}
    (hL : [.out, .host, .obj, .life, .trc, .regs 0, .regs 4, .regs 40, .regs 49] ⊆ L) (h : Only L s0 s) :
    Only L s0 (State.bytesLost s x2 x3 x4) := by
  unfold State.bytesLost
  extract_lets s1 n2
  have hs1 : Only L s0 s1 := by
    unfold s1
    refine State.raise_only (Part.sub hL (by decide)) ?_
    refine State.inc_only (Part.sub hL (by decide)) ?_
    exact State.wr_only (Part.sub hL (by decide)) (by assumption)
  clear_value s1
  exact State.loseUnits_only (Part.sub hL (by decide)) (by assumption)

theorem State.rebuildProgress_only {L : List Part} {s0 s : State}
    (hL : [.out, .host, .life, .trc, .red, .regs 0, .regs 4, .regs 49] ⊆ L) (h : Only L s0 s) :
    Only L s0 (State.rebuildProgress s) := by
  unfold State.rebuildProgress
  extract_lets n1 n2 n3
  refine Only.ite ?_ ?_
  · refine State.raise_only (Part.sub hL (by decide)) ?_
    exact State.setRed_only (Part.sub hL (by decide)) (by assumption)
  · assumption

theorem State.rebuildTarget_only {L : List Part} {s0 s : State} {x2}
    (hL : [.out, .host, .obj, .life, .tape, .mot, .disk, .trc, .grp, .red, .regs 0, .regs 4, .regs 16,
      .regs 32, .regs 40, .regs 49] ⊆ L) (h : Only L s0 s) :
    Only L s0 (State.rebuildTarget s x2) := by
  unfold State.rebuildTarget
  extract_lets n1 n2 n3
  split
  extract_lets n4 s5 n6 s7 n8 s9 s10
  have hs5 : Only L s0 s5 := by
    unfold s5
    refine Only.ite ?_ ?_
    · exact State.bytesLost_only (Part.sub hL (by decide)) (by assumption)
    · assumption
  clear_value s5
  have hs7 : Only L s0 s7 := by
    unfold s7
    refine Only.foldl _ ?_ (fun s _ h => ?_)
    · assumption
    · refine Only.foldl _ ?_ (fun s _ h => ?_)
      · assumption
      · split
        extract_lets n11 n12
        refine Only.ite ?_ ?_
        · assumption
        · refine Only.foldl _ ?_ (fun s _ h => ?_)
          · assumption
          · extract_lets n13
            exact State.sendSeq_only (Part.sub hL (by decide)) (by assumption)
  clear_value s7
  have hs9 : Only L s0 s9 := by
    unfold s9
    exact State.setRed_only (Part.sub hL (by decide)) (by assumption)
  clear_value s9
  have hs10 : Only L s0 s10 := by
    unfold s10
    exact State.rebuildProgress_only (Part.sub hL (by decide)) (by assumption)
  clear_value s10
  refine Only.ite ?_ ?_
  · exact State.readSources_only (Part.sub hL (by decide)) (by assumption)
  · exact State.takeStrip_only (Part.sub hL (by decide)) (by assumption)

theorem State.stepRebuild_only {L : List Part} {s0 s : State}
    (hL : [.out, .host, .obj, .life, .tape, .mot, .disk, .trc, .grp, .red, .regs 0, .regs 4, .regs 16,
      .regs 32, .regs 40, .regs 49] ⊆ L) (h : Only L s0 s) :
    Only L s0 (State.stepRebuild s) := by
  unfold State.stepRebuild
  split
  · assumption
  · split
    · assumption
    · extract_lets n1
      refine Only.ite ?_ ?_
      · assumption
      · refine Only.ite ?_ ?_
        · refine State.readSources_only (Part.sub hL (by decide)) ?_
          exact State.setStripe_only (Part.sub hL (by decide)) (by assumption)
        · refine Only.ite ?_ ?_
          · exact State.rebuildTarget_only (Part.sub hL (by decide)) (by assumption)
          · assumption

theorem State.takeRebuildData_only {L : List Part} {s0 s : State} {x2 x3 x4 x5 x6 x7 x8 x9}
    (hL : [.out, .host, .obj, .life, .tape, .mot, .disk, .trc, .grp, .red, .regs 0, .regs 4, .regs 16,
      .regs 32, .regs 40, .regs 49] ⊆ L) (h : Only L s0 s) :
    Only L s0 (State.takeRebuildData s x2 x3 x4 x5 x6 x7 x8 x9) := by
  unfold State.takeRebuildData
  split
  · extract_lets n1 s2
    have hs2 : Only L s0 s2 := by
      unfold s2
      exact State.setItem_only (Part.sub hL (by decide)) (by assumption)
    clear_value s2
    exact State.stepRebuild_only (Part.sub hL (by decide)) (by assumption)
  · split
    · assumption
    · extract_lets n3 n4 n5 n6 n7 s8 n9 n10 s11
      have hs8 : Only L s0 s8 := by
        unfold s8
        exact State.setStrip_only (Part.sub hL (by decide)) (by assumption)
      clear_value s8
      have hs11 : Only L s0 s11 := by
        unfold s11
        exact State.setUnit_only (Part.sub hL (by decide)) (by assumption)
      clear_value s11
      refine Only.ite ?_ ?_
      · exact State.setStrip_only (Part.sub hL (by decide)) (by assumption)
      · refine Only.ite ?_ ?_
        · assumption
        · split
          · exact State.reallocate_only (Part.sub hL (by decide)) (by assumption)
          · assumption

theorem State.endSuccCopy_only {L : List Part} {s0 s : State}
    (hL : [.out, .host, .life, .trc, .red, .regs 0, .regs 4, .regs 49] ⊆ L) (h : Only L s0 s) :
    Only L s0 (State.endSuccCopy s) := by
  unfold State.endSuccCopy
  split
  · assumption
  · extract_lets n1
    refine Only.ite ?_ ?_
    · assumption
    · refine State.raise_only (Part.sub hL (by decide)) ?_
      exact State.setRed_only (Part.sub hL (by decide)) (by assumption)

theorem State.pollStrips_only {L : List Part} {s0 s : State}
    (hL : [.out, .host, .obj, .life, .tape, .mot, .disk, .trc, .grp, .red, .regs 0, .regs 4, .regs 16,
      .regs 32, .regs 40, .regs 49] ⊆ L) (h : Only L s0 s) :
    Only L s0 (State.pollStrips s) := by
  unfold State.pollStrips
  extract_lets n1
  refine Only.foldl _ ?_ (fun s _ h => ?_)
  · assumption
  · extract_lets s2 s3
    have hs2 : Only L s0 s2 := by
      unfold s2
      exact State.setStrip_only (Part.sub hL (by decide)) (by assumption)
    clear_value s2
    have hs3 : Only L s0 s3 := by
      unfold s3
      exact State.dropStrips_only (Part.sub hL (by decide)) (by assumption)
    clear_value s3
    refine Only.ite ?_ ?_
    · assumption
    · refine Only.ite ?_ ?_
      · refine Only.ite ?_ ?_
        · exact State.slotDone_only (Part.sub hL (by decide)) (by assumption)
        · exact State.sendOp_only (Part.sub hL (by decide)) (by assumption)
      · refine Only.ite ?_ ?_
        · refine Only.ite ?_ ?_
          · exact State.sendOp_only (Part.sub hL (by decide)) (by assumption)
          · split
            · refine Only.ite ?_ ?_
              · exact State.moveSlot_only (Part.sub hL (by decide)) (by assumption)
              · assumption
            · assumption
        · assumption

theorem State.findLost_only {L : List Part} {s0 s : State}
    (hL : [.out, .host, .obj, .life, .disk, .trc, .grp, .red, .regs 0, .regs 4, .regs 49] ⊆ L) (h : Only L s0 s) :
    Only L s0 (State.findLost s) := by
  unfold State.findLost
  extract_lets n1 n2 s3
  have hs3 : Only L s0 s3 := by
    unfold s3
    refine Only.ite ?_ ?_
    · exact State.rebuildStarted_only (Part.sub hL (by decide)) (by assumption)
    · assumption
  clear_value s3
  refine Only.ite ?_ ?_
  · assumption
  · refine Only.foldl _ ?_ (fun s _ h => ?_)
    · exact State.dropStrips_only (Part.sub hL (by decide)) (by assumption)
    · exact State.listRow_only (Part.sub hL (by decide)) (by assumption)

theorem State.startRebuild_only {L : List Part} {s0 s : State}
    (hL : [.out, .grp, .red, .regs 40] ⊆ L) (h : Only L s0 s) :
    Only L s0 (State.startRebuild s) := by
  unfold State.startRebuild
  refine Only.ite ?_ ?_
  · assumption
  · split
    · assumption
    · extract_lets n1 n2
      refine State.openStripe_only (Part.sub hL (by decide)) ?_
      exact State.setItem_only (Part.sub hL (by decide)) (by assumption)

theorem State.stepReshape_only {L : List Part} {s0 s : State}
    (hL : [.out, .host, .obj, .life, .trc, .grp, .red, .regs 0, .regs 4, .regs 40, .regs 49] ⊆ L) (h : Only L s0 s) :
    Only L s0 (State.stepReshape s) := by
  unfold State.stepReshape
  extract_lets n1 n2 n3
  refine Only.ite ?_ ?_
  · assumption
  · split
    · assumption
    · extract_lets n4 n5 n6 n7
      refine Only.ite ?_ ?_
      · exact State.setRed_only (Part.sub hL (by decide)) (by assumption)
      · refine Only.ite ?_ ?_
        · refine Only.foldl _ ?_ (fun s _ h => ?_)
          · assumption
          · exact State.fetchUnit_only (Part.sub hL (by decide)) (by assumption)
        · refine State.openStripe_only (Part.sub hL (by decide)) ?_
          exact State.setRed_only (Part.sub hL (by decide)) (by assumption)

theorem State.redStep_only {L : List Part} {s0 s : State}
    (hL : [.out, .free, .host, .sq, .obj, .life, .tape, .mot, .disk, .trc, .grp, .red, .regs 0, .regs 4,
      .regs 8, .regs 16, .regs 32, .regs 40, .regs 49] ⊆ L) (h : Only L s0 s) :
    Only L s0 (State.redStep s) := by
  unfold State.redStep
  extract_lets s1 s2 s3 s4 s5 s6 s7
  have hs1 : Only L s0 s1 := by
    unfold s1
    exact State.endSuccCopy_only (Part.sub hL (by decide)) (by assumption)
  clear_value s1
  have hs2 : Only L s0 s2 := by
    unfold s2
    refine Only.foldl _ ?_ (fun s _ h => ?_)
    · assumption
    · exact State.stripeStep_only (Part.sub hL (by decide)) (by assumption)
  clear_value s2
  have hs3 : Only L s0 s3 := by
    unfold s3
    refine State.reclaimCopies_only (Part.sub hL (by decide)) ?_
    exact State.pollCopies_only (Part.sub hL (by decide)) (by assumption)
  clear_value s3
  have hs4 : Only L s0 s4 := by
    unfold s4
    exact State.pollStrips_only (Part.sub hL (by decide)) (by assumption)
  clear_value s4
  have hs5 : Only L s0 s5 := by
    unfold s5
    refine Only.ite ?_ ?_
    · exact State.findLost_only (Part.sub hL (by decide)) (by assumption)
    · assumption
  clear_value s5
  have hs6 : Only L s0 s6 := by
    unfold s6
    refine State.stepRebuild_only (Part.sub hL (by decide)) ?_
    exact State.startRebuild_only (Part.sub hL (by decide)) (by assumption)
  clear_value s6
  have hs7 : Only L s0 s7 := by
    unfold s7
    exact State.gatherFull_only (Part.sub hL (by decide)) (by assumption)
  clear_value s7
  refine Only.ite ?_ ?_
  · assumption
  · exact State.stepReshape_only (Part.sub hL (by decide)) (by assumption)

theorem execStripeCloseTimeout_only {L : List Part} {s0 s : State}
    (hL : [.out, .free, .host, .sq, .obj, .life, .tape, .mot, .disk, .trc, .grp, .red, .regs 0, .regs 4,
      .regs 8, .regs 16, .regs 32, .regs 40, .regs 49] ⊆ L) (h : Only L s0 s) :
    Only.Out L s0 (execStripeCloseTimeout s) := by
  unfold execStripeCloseTimeout
  refine Only.next ?_
  refine State.redStep_only (Part.sub hL (by decide)) ?_
  exact State.closeStripe_only (Part.sub hL (by decide)) (by assumption)

theorem execRebuildShareUpdate_only {L : List Part} {s0 s : State} {x1}
    (hL : [.pwr, .regs 36, .regs 40] ⊆ L) (h : Only L s0 s) :
    Only.Out L s0 (execRebuildShareUpdate x1 s) := by
  unfold execRebuildShareUpdate
  extract_lets s1 n2 n3 n4 n5 s6 s7
  have hs1 : Only L s0 s1 := by
    unfold s1
    refine State.wr_only (Part.sub hL (by decide)) ?_
    refine State.wr_only (Part.sub hL (by decide)) ?_
    exact State.unask_only (Part.sub hL (by decide)) (by assumption)
  clear_value s1
  have hs6 : Only L s0 s6 := by
    unfold s6
    exact State.wr_only (Part.sub hL (by decide)) (by assumption)
  clear_value s6
  have hs7 : Only L s0 s7 := by
    unfold s7
    refine Only.ite ?_ ?_
    · exact State.setShare_only (Part.sub hL (by decide)) (by assumption)
    · assumption
  clear_value s7
  refine Only.iteOut ?_ ?_
  · refine Only.next ?_
    refine State.wr_only (Part.sub hL (by decide)) ?_
    exact State.wr_only (Part.sub hL (by decide)) (by assumption)
  · refine Only.next ?_
    refine Only.ite ?_ ?_
    · exact State.ask_only (Part.sub hL (by decide)) (by assumption)
    · refine State.setShare_only (Part.sub hL (by decide)) ?_
      exact State.unask_only (Part.sub hL (by decide)) (by assumption)

end Sys2Proof.Machine
end

