-- ==== Sys2Proof/Laws/OnlyGroup.lean ====
section
/-!
SUPPORT. The parts of the state that an operation of Machine/Group.lean may change (Laws/Only.lean).
-/

set_option Elab.async false

namespace Sys2Proof.Machine

theorem State.sendMgmtCmd_only {L : List Part} {s0 s : State} {x2 x3 x4 x5 x6}
    (hL : [.out, .grp] ⊆ L) (h : Only L s0 s) :
    Only L s0 (State.sendMgmtCmd s x2 x3 x4 x5 x6) := by
  unfold State.sendMgmtCmd
  extract_lets n1 n2 n3 s4
  have hs4 : Only L s0 s4 := by
    unfold s4
    exact State.setGrp_only (Part.sub hL (by decide)) (by assumption)
  clear_value s4
  refine Only.foldl _ ?_ (fun s _ h => ?_)
  · assumption
  · exact State.sendSeq_only (Part.sub hL (by decide)) (by assumption)

theorem State.mirrorSeq_only {L : List Part} {s0 s : State} {x2 x3 x4 x5}
    (hL : [.out, .grp] ⊆ L) (h : Only L s0 s) :
    Only L s0 (State.mirrorSeq s x2 x3 x4 x5) := by
  unfold State.mirrorSeq
  exact State.sendSeq_only (Part.sub hL (by decide)) (by assumption)

theorem State.copyToDeputy_only {L : List Part} {s0 s : State} {x2}
    (hL : [.out, .grp] ⊆ L) (h : Only L s0 s) :
    Only L s0 (State.copyToDeputy s x2) := by
  unfold State.copyToDeputy
  extract_lets n1 s2 s3 s4
  have hs2 : Only L s0 s2 := by
    unfold s2
    exact State.setGrp_only (Part.sub hL (by decide)) (by assumption)
  clear_value s2
  have hs3 : Only L s0 s3 := by
    unfold s3
    refine Only.foldl _ ?_ (fun s _ h => ?_)
    · assumption
    · exact State.mirrorSeq_only (Part.sub hL (by decide)) (by assumption)
  clear_value s3
  have hs4 : Only L s0 s4 := by
    unfold s4
    exact State.sendSeq_only (Part.sub hL (by decide)) (by assumption)
  clear_value s4
  refine Only.foldl _ ?_ (fun s _ h => ?_)
  · assumption
  · refine Only.ite ?_ ?_
    · exact State.sendMgmtCmd_only (Part.sub hL (by decide)) (by assumption)
    · assumption

theorem State.epochStale_only {L : List Part} {s0 s : State} {x2}
    (hL : [.out, .host, .sq, .obj, .life, .tape, .disk, .trc, .grp, .red, .regs 0, .regs 4, .regs 8, .regs 49] ⊆ L) (h : Only L s0 s) :
    Only L s0 (State.epochStale s x2) := by
  unfold State.epochStale
  split
  · extract_lets s1
    have hs1 : Only L s0 s1 := by
      unfold s1
      refine Only.ite ?_ ?_
      · exact State.withdrawHome_only (Part.sub hL (by decide)) (by assumption)
      · assumption
    clear_value s1
    refine State.fail_only (Part.sub hL (by decide)) ?_
    exact State.discardWork_only (Part.sub hL (by decide)) (by assumption)
  · assumption

theorem State.leaveGroup_only {L : List Part} {s0 s : State}
    (hL : [.obj, .grp, .red] ⊆ L) (h : Only L s0 s) :
    Only L s0 (State.leaveGroup s) := by
  unfold State.leaveGroup
  extract_lets n1 s2 n3 n4
  have hs2 : Only L s0 s2 := by
    unfold s2
    exact State.setGrp_only (Part.sub hL (by decide)) (by assumption)
  clear_value s2
  refine Only.upd [.obj, .red] (Part.sub hL (by decide)) ?_ (fun p hp => by
    cases p <;> first | rfl | exact fun _ _ _ _ _ => rfl | exact absurd (by decide) hp)
  assumption

theorem State.adopt_only {L : List Part} {s0 s : State} {x2}
    (hL : [.out, .free, .host, .sq, .obj, .life, .tape, .disk, .trc, .grp, .red, .regs 0, .regs 4, .regs 8,
      .regs 16, .regs 36, .regs 40, .regs 49] ⊆ L) (h : Only L s0 s) :
    Only L s0 (State.adopt s x2) := by
  unfold State.adopt
  extract_lets n1 n2 n3 s4 n5 n6 s7 s8 s9 s10 s11 s12 s13 s14 n15 n16 s17
  have hs4 : Only L s0 s4 := by
    unfold s4
    exact State.storeRec_only (Part.sub hL (by decide)) (by assumption)
  clear_value s4
  have hs7 : Only L s0 s7 := by
    unfold s7
    exact State.setGrp_only (Part.sub hL (by decide)) (by assumption)
  clear_value s7
  have hs8 : Only L s0 s8 := by
    unfold s8
    refine Only.ite ?_ ?_
    · exact State.wr_only (Part.sub hL (by decide)) (by assumption)
    · assumption
  clear_value s8
  have hs9 : Only L s0 s9 := by
    unfold s9
    exact State.raise_only (Part.sub hL (by decide)) (by assumption)
  clear_value s9
  have hs10 : Only L s0 s10 := by
    unfold s10
    refine Only.ite ?_ ?_
    · exact State.raise_only (Part.sub hL (by decide)) (by assumption)
    · assumption
  clear_value s10
  have hs11 : Only L s0 s11 := by
    unfold s11
    refine Only.ite ?_ ?_
    · exact State.raise_only (Part.sub hL (by decide)) (by assumption)
    · assumption
  clear_value s11
  have hs12 : Only L s0 s12 := by
    unfold s12
    refine Only.ite ?_ ?_
    · refine Only.foldl _ ?_ (fun s _ h => ?_)
      · assumption
      · exact State.epochStale_only (Part.sub hL (by decide)) (by assumption)
    · assumption
  clear_value s12
  have hs13 : Only L s0 s13 := by
    unfold s13
    refine Only.foldl _ ?_ (fun s _ h => ?_)
    · assumption
    · refine Only.ite ?_ ?_
      · split
        · exact State.epochStale_only (Part.sub hL (by decide)) (by assumption)
        · assumption
      · refine Only.ite ?_ ?_
        · exact State.sendSeqFor_only (Part.sub hL (by decide)) (by assumption)
        · assumption
  clear_value s13
  have hs14 : Only L s0 s14 := by
    unfold s14
    refine Only.ite ?_ ?_
    · exact State.leaveGroup_only (Part.sub hL (by decide)) (by assumption)
    · exact State.redAdopt_only (Part.sub hL (by decide)) (by assumption)
  clear_value s14
  have hs17 : Only L s0 s17 := by
    unfold s17
    refine Only.ite ?_ ?_
    · assumption
    · refine Only.ite ?_ ?_
      · refine Only.updObj (Part.sub hL (by decide)) ?_
        assumption
      · refine Only.ite ?_ ?_
        · refine State.pushMap_only (Part.sub hL (by decide)) ?_
          exact State.setRed_only (Part.sub hL (by decide)) (by assumption)
        · assumption
  clear_value s17
  exact State.reroute_only (Part.sub hL (by decide)) (by assumption)

theorem State.mgmtSend_only {L : List Part} {s0 s : State} {x2}
    (hL : [.out] ⊆ L) (h : Only L s0 s) :
    Only L s0 (State.mgmtSend s x2) := by
  unfold State.mgmtSend
  exact State.emit_only (Part.sub hL (by decide)) (by assumption)

theorem State.mgmtReply_only {L : List Part} {s0 s : State} {x2 x3 x4 x5}
    (hL : [.out] ⊆ L) (h : Only L s0 s) :
    Only L s0 (State.mgmtReply s x2 x3 x4 x5) := by
  unfold State.mgmtReply
  exact State.mgmtSend_only (Part.sub hL (by decide)) (by assumption)

theorem State.answerAdmin_only {L : List Part} {s0 s : State} {x2 x3 x4 x5}
    (hL : [.out, .grp] ⊆ L) (h : Only L s0 s) :
    Only L s0 (State.answerAdmin s x2 x3 x4 x5) := by
  unfold State.answerAdmin
  refine Only.ite ?_ ?_
  · exact State.mgmtReply_only (Part.sub hL (by decide)) (by assumption)
  · exact State.sendSeq_only (Part.sub hL (by decide)) (by assumption)

theorem State.answerChange_only {L : List Part} {s0 s : State} {x2 x3 x4}
    (hL : [.out, .host, .sq, .life, .trc, .grp, .regs 0, .regs 4, .regs 8, .regs 49] ⊆ L) (h : Only L s0 s) :
    Only L s0 (State.answerChange s x2 x3 x4) := by
  unfold State.answerChange
  extract_lets s1
  have hs1 : Only L s0 s1 := by
    unfold s1
    split
    · split
      · exact State.finish_only (Part.sub hL (by decide)) (by assumption)
      · assumption
    · assumption
  clear_value s1
  split
  · exact State.answerAdmin_only (Part.sub hL (by decide)) (by assumption)
  · assumption

theorem State.commitChange_only {L : List Part} {s0 s : State} {x2}
    (hL : [.out, .free, .host, .sq, .obj, .life, .tape, .disk, .trc, .grp, .red, .regs 0, .regs 4, .regs 8,
      .regs 16, .regs 36, .regs 40, .regs 49] ⊆ L) (h : Only L s0 s) :
    Only L s0 (State.commitChange s x2) := by
  unfold State.commitChange
  extract_lets n1 n2 n3 s4 n5 s6 s7 s8 s9 n10 s11 n12 s13
  have hs4 : Only L s0 s4 := by
    unfold s4
    exact State.setGrp_only (Part.sub hL (by decide)) (by assumption)
  clear_value s4
  have hs6 : Only L s0 s6 := by
    unfold s6
    refine Only.updRed (Part.sub hL (by decide)) ?_
    assumption
  clear_value s6
  have hs7 : Only L s0 s7 := by
    unfold s7
    refine State.adopt_only (Part.sub hL (by decide)) ?_
    exact State.moveRows_only (Part.sub hL (by decide)) (by assumption)
  clear_value s7
  have hs8 : Only L s0 s8 := by
    unfold s8
    refine Only.foldl _ ?_ (fun s _ h => ?_)
    · assumption
    · exact State.raise_only (Part.sub hL (by decide)) (by assumption)
  clear_value s8
  have hs9 : Only L s0 s9 := by
    unfold s9
    refine Only.foldl _ ?_ (fun s _ h => ?_)
    · assumption
    · refine State.rebuildStarted_only (Part.sub hL (by decide)) ?_
      exact State.raise_only (Part.sub hL (by decide)) (by assumption)
  clear_value s9
  have hs11 : Only L s0 s11 := by
    unfold s11
    exact State.setGrp_only (Part.sub hL (by decide)) (by assumption)
  clear_value s11
  have hs13 : Only L s0 s13 := by
    unfold s13
    refine Only.foldl _ ?_ (fun s _ h => ?_)
    · assumption
    · exact State.sendPlain_only (Part.sub hL (by decide)) (by assumption)
  clear_value s13
  exact State.answerChange_only (Part.sub hL (by decide)) (by assumption)

theorem State.runChange_only {L : List Part} {s0 s : State}
    (hL : [.out, .free, .host, .sq, .obj, .life, .tape, .disk, .trc, .grp, .red, .regs 0, .regs 4, .regs 8,
      .regs 16, .regs 36, .regs 40, .regs 49] ⊆ L) (h : Only L s0 s) :
    Only L s0 (State.runChange s) := by
  unfold State.runChange
  split
  · assumption
  · extract_lets s1
    have hs1 : Only L s0 s1 := by
      unfold s1
      exact State.storeRec_only (Part.sub hL (by decide)) (by assumption)
    clear_value s1
    refine Only.ite ?_ ?_
    · assumption
    · refine Only.ite ?_ ?_
      · exact State.sendPlain_only (Part.sub hL (by decide)) (by assumption)
      · exact State.commitChange_only (Part.sub hL (by decide)) (by assumption)

theorem State.nextChange_only {L : List Part} {s0 s : State}
    (hL : [.out, .free, .host, .sq, .obj, .life, .tape, .disk, .trc, .grp, .red, .regs 0, .regs 4, .regs 8,
      .regs 16, .regs 36, .regs 40, .regs 49] ⊆ L) (h : Only L s0 s) :
    Only L s0 (State.nextChange s) := by
  unfold State.nextChange
  split
  · extract_lets n1 s2 s3
    have hs2 : Only L s0 s2 := by
      unfold s2
      exact State.setGrp_only (Part.sub hL (by decide)) (by assumption)
    clear_value s2
    have hs3 : Only L s0 s3 := by
      unfold s3
      refine Only.ite ?_ ?_
      · exact State.copyToDeputy_only (Part.sub hL (by decide)) (by assumption)
      · assumption
    clear_value s3
    exact State.runChange_only (Part.sub hL (by decide)) (by assumption)
  · assumption

theorem State.askChange_only {L : List Part} {s0 s : State} {x2 x3 x4}
    (hL : [.out, .free, .host, .sq, .obj, .life, .tape, .disk, .trc, .grp, .red, .regs 0, .regs 4, .regs 8,
      .regs 16, .regs 36, .regs 40, .regs 49] ⊆ L) (h : Only L s0 s) :
    Only L s0 (State.askChange s x2 x3 x4) := by
  unfold State.askChange
  split
  · assumption
  · extract_lets n1 n2 n3 n4
    refine State.nextChange_only (Part.sub hL (by decide)) ?_
    exact State.setGrp_only (Part.sub hL (by decide)) (by assumption)

theorem State.activateJoined_only {L : List Part} {s0 s : State}
    (hL : [.out, .free, .host, .sq, .obj, .life, .tape, .disk, .trc, .grp, .red, .regs 0, .regs 4, .regs 8,
      .regs 16, .regs 36, .regs 40, .regs 49] ⊆ L) (h : Only L s0 s) :
    Only L s0 (State.activateJoined s) := by
  unfold State.activateJoined
  split
  · assumption
  · extract_lets n1 n2
    refine Only.ite ?_ ?_
    · exact State.askChange_only (Part.sub hL (by decide)) (by assumption)
    · assumption

theorem State.noDeputy_only {L : List Part} {s0 s : State} {x2}
    (hL : [.out, .host, .life, .trc, .regs 0, .regs 4, .regs 36, .regs 49] ⊆ L) (h : Only L s0 s) :
    Only L s0 (State.noDeputy s x2) := by
  unfold State.noDeputy
  refine Only.ite ?_ ?_
  · assumption
  · refine State.raise_only (Part.sub hL (by decide)) ?_
    exact State.wr_only (Part.sub hL (by decide)) (by assumption)

theorem State.takeLead_only {L : List Part} {s0 s : State} {x2}
    (hL : [.out, .free, .host, .sq, .obj, .life, .tape, .disk, .trc, .grp, .red, .regs 0, .regs 4, .regs 8,
      .regs 16, .regs 36, .regs 40, .regs 49] ⊆ L) (h : Only L s0 s) :
    Only L s0 (State.takeLead s x2) := by
  unfold State.takeLead
  extract_lets n1 s2 n3 s4
  have hs2 : Only L s0 s2 := by
    unfold s2
    exact State.setGrp_only (Part.sub hL (by decide)) (by assumption)
  clear_value s2
  have hs4 : Only L s0 s4 := by
    unfold s4
    exact State.noDeputy_only (Part.sub hL (by decide)) (by assumption)
  clear_value s4
  refine Only.ite ?_ ?_
  · exact State.askChange_only (Part.sub hL (by decide)) (by assumption)
  · assumption

theorem State.takeId_only {L : List Part} {s0 s : State} {x2}
    (hL : [.out, .host, .life, .trc, .grp, .regs 0, .regs 4, .regs 36, .regs 49] ⊆ L) (h : Only L s0 s) :
    Only L s0 (State.takeId s x2) := by
  unfold State.takeId
  extract_lets s1
  have hs1 : Only L s0 s1 := by
    unfold s1
    refine State.wr_only (Part.sub hL (by decide)) ?_
    exact State.wr_only (Part.sub hL (by decide)) (by assumption)
  clear_value s1
  refine State.portsChanged_only (Part.sub hL (by decide)) ?_
  exact State.raise_only (Part.sub hL (by decide)) (by assumption)

theorem State.takeHello_only {L : List Part} {s0 s : State} {x2 x3 x4 x5 x6 x7}
    (hL : [.out, .free, .host, .sq, .obj, .life, .tape, .disk, .trc, .grp, .red, .regs 0, .regs 4, .regs 8,
      .regs 16, .regs 36, .regs 40, .regs 49] ⊆ L) (h : Only L s0 s) :
    Only L s0 (State.takeHello s x2 x3 x4 x5 x6 x7) := by
  unfold State.takeHello
  extract_lets n1 n2 s3 s4 n5 s6
  have hs3 : Only L s0 s3 := by
    unfold s3
    refine State.wr_only (Part.sub hL (by decide)) ?_
    exact State.wri_only (Part.sub hL (by decide)) (by assumption)
  clear_value s3
  have hs4 : Only L s0 s4 := by
    unfold s4
    refine State.wri_only (Part.sub hL (by decide)) ?_
    exact State.wri_only (Part.sub hL (by decide)) (by assumption)
  clear_value s4
  have hs6 : Only L s0 s6 := by
    unfold s6
    exact State.setPort_only (Part.sub hL (by decide)) (by assumption)
  clear_value s6
  refine Only.ite ?_ ?_
  · refine State.portsChanged_only (Part.sub hL (by decide)) ?_
    exact State.raise_only (Part.sub hL (by decide)) (by assumption)
  · split
    · refine Only.ite ?_ ?_
      · exact State.raise_only (Part.sub hL (by decide)) (by assumption)
      · refine Only.ite ?_ ?_
        · exact State.askChange_only (Part.sub hL (by decide)) (by assumption)
        · assumption
    · refine Only.ite ?_ ?_
      · split
        · exact State.takeId_only (Part.sub hL (by decide)) (by assumption)
        · assumption
      · assumption

theorem State.discoverOn_only {L : List Part} {s0 s : State} {x2 x3 x4}
    (hL : [.out, .grp] ⊆ L) (h : Only L s0 s) :
    Only L s0 (State.discoverOn s x2 x3 x4) := by
  unfold State.discoverOn
  split
  · exact State.sendLink_only (Part.sub hL (by decide)) (by assumption)
  · assumption

theorem State.takeAssign_only {L : List Part} {s0 s : State} {x2 x3}
    (hL : [.out, .host, .life, .trc, .grp, .regs 0, .regs 4, .regs 36, .regs 49] ⊆ L) (h : Only L s0 s) :
    Only L s0 (State.takeAssign s x2 x3) := by
  unfold State.takeAssign
  refine Only.ite ?_ ?_
  · assumption
  · refine State.discoverOn_only (Part.sub hL (by decide)) ?_
    exact State.takeId_only (Part.sub hL (by decide)) (by assumption)

theorem State.takeProbe_only {L : List Part} {s0 s : State} {x2 x3}
    (hL : [.out, .host, .life, .trc, .grp, .regs 0, .regs 4, .regs 36, .regs 49] ⊆ L) (h : Only L s0 s) :
    Only L s0 (State.takeProbe s x2 x3) := by
  unfold State.takeProbe
  extract_lets n1
  refine Only.ite ?_ ?_
  · refine Only.ite ?_ ?_
    · assumption
    · refine Only.ite ?_ ?_
      · refine State.raise_only (Part.sub hL (by decide)) ?_
        exact State.setGrp_only (Part.sub hL (by decide)) (by assumption)
      · refine State.discoverOn_only (Part.sub hL (by decide)) ?_
        refine State.takeId_only (Part.sub hL (by decide)) ?_
        exact State.setGrp_only (Part.sub hL (by decide)) (by assumption)
  · refine Only.ite ?_ ?_
    · assumption
    · exact State.discoverOn_only (Part.sub hL (by decide)) (by assumption)

theorem State.takeLinkState_only {L : List Part} {s0 s : State} {x2 x3 x4 x5}
    (hL : [.out, .grp, .regs 36] ⊆ L) (h : Only L s0 s) :
    Only L s0 (State.takeLinkState s x2 x3 x4 x5) := by
  unfold State.takeLinkState
  extract_lets n1 n2 s3 s4
  have hs3 : Only L s0 s3 := by
    unfold s3
    exact State.setGrp_only (Part.sub hL (by decide)) (by assumption)
  clear_value s3
  have hs4 : Only L s0 s4 := by
    unfold s4
    refine Only.foldl _ ?_ (fun s _ h => ?_)
    · assumption
    · exact State.sendLink_only (Part.sub hL (by decide)) (by assumption)
  clear_value s4
  refine Only.ite ?_ ?_
  · assumption
  · exact State.reroute_only (Part.sub hL (by decide)) (by assumption)

theorem State.takeEpoch_only {L : List Part} {s0 s : State} {x2 x3}
    (hL : [.out, .free, .host, .sq, .obj, .life, .tape, .disk, .trc, .grp, .red, .regs 0, .regs 4, .regs 8,
      .regs 16, .regs 36, .regs 40, .regs 49] ⊆ L) (h : Only L s0 s) :
    Only L s0 (State.takeEpoch s x2 x3) := by
  unfold State.takeEpoch
  split
  · assumption
  · refine Only.ite ?_ ?_
    · assumption
    · refine Only.ite ?_ ?_
      · refine State.sendPlain_only (Part.sub hL (by decide)) ?_
        exact State.adopt_only (Part.sub hL (by decide)) (by assumption)
      · refine Only.ite ?_ ?_
        · exact State.sendPlain_only (Part.sub hL (by decide)) (by assumption)
        · assumption

theorem State.takeEpochReq_only {L : List Part} {s0 s : State} {x2}
    (hL : [.out, .grp] ⊆ L) (h : Only L s0 s) :
    Only L s0 (State.takeEpochReq s x2) := by
  unfold State.takeEpochReq
  split
  · exact State.sendPlain_only (Part.sub hL (by decide)) (by assumption)
  · assumption

theorem State.takeReject_only {L : List Part} {s0 s : State} {x2 x3 x4 x5}
    (hL : [.out, .host, .sq, .obj, .life, .tape, .disk, .trc, .grp, .red, .regs 0, .regs 4, .regs 8, .regs 36,
      .regs 49] ⊆ L) (h : Only L s0 s) :
    Only L s0 (State.takeReject s x2 x3 x4 x5) := by
  unfold State.takeReject
  extract_lets s1 n2 n3
  have hs1 : Only L s0 s1 := by
    unfold s1
    refine Only.ite ?_ ?_
    · exact State.wr_only (Part.sub hL (by decide)) (by assumption)
    · assumption
  clear_value s1
  refine Only.ite ?_ ?_
  · split
    · extract_lets s4
      have hs4 : Only L s0 s4 := by
        unfold s4
        exact State.setGrp_only (Part.sub hL (by decide)) (by assumption)
      clear_value s4
      split
      · exact State.epochStale_only (Part.sub hL (by decide)) (by assumption)
      · assumption
    · assumption
  · assumption

theorem State.changeStored_only {L : List Part} {s0 s : State}
    (hL : [.out, .free, .host, .sq, .obj, .life, .tape, .disk, .trc, .grp, .red, .regs 0, .regs 4, .regs 8,
      .regs 16, .regs 36, .regs 40, .regs 49] ⊆ L) (h : Only L s0 s) :
    Only L s0 (State.changeStored s) := by
  unfold State.changeStored
  split
  · assumption
  · refine State.nextChange_only (Part.sub hL (by decide)) ?_
    exact State.commitChange_only (Part.sub hL (by decide)) (by assumption)

theorem State.takeEpochAck_only {L : List Part} {s0 s : State} {x2}
    (hL : [.out, .free, .host, .sq, .obj, .life, .tape, .disk, .trc, .grp, .red, .regs 0, .regs 4, .regs 8,
      .regs 16, .regs 36, .regs 40, .regs 49] ⊆ L) (h : Only L s0 s) :
    Only L s0 (State.takeEpochAck s x2) := by
  unfold State.takeEpochAck
  split
  · refine Only.ite ?_ ?_
    · refine State.activateJoined_only (Part.sub hL (by decide)) ?_
      exact State.changeStored_only (Part.sub hL (by decide)) (by assumption)
    · assumption
  · extract_lets n1 s2 s3
    have hs2 : Only L s0 s2 := by
      unfold s2
      exact State.setGrp_only (Part.sub hL (by decide)) (by assumption)
    clear_value s2
    have hs3 : Only L s0 s3 := by
      unfold s3
      refine Only.foldl _ ?_ (fun s _ h => ?_)
      · assumption
      · exact State.resendTriple_only (Part.sub hL (by decide)) (by assumption)
    clear_value s3
    refine Only.ite ?_ ?_
    · assumption
    · exact State.activateJoined_only (Part.sub hL (by decide)) (by assumption)

theorem State.formFails_only {L : List Part} {s0 s : State} {x2}
    (hL : [.out, .host, .sq, .life, .trc, .grp, .regs 0, .regs 4, .regs 8, .regs 49] ⊆ L) (h : Only L s0 s) :
    Only L s0 (State.formFails s x2) := by
  unfold State.formFails
  split
  · extract_lets n1 s2
    have hs2 : Only L s0 s2 := by
      unfold s2
      exact State.setGrp_only (Part.sub hL (by decide)) (by assumption)
    clear_value s2
    refine Only.ite ?_ ?_
    · split
      · exact State.fail_only (Part.sub hL (by decide)) (by assumption)
      · assumption
    · assumption
  · assumption

theorem State.redirectChange_only {L : List Part} {s0 s : State} {x2 x3 x4}
    (hL : [.out, .free, .host, .sq, .obj, .life, .tape, .disk, .trc, .grp, .red, .regs 0, .regs 4, .regs 8,
      .regs 16, .regs 36, .regs 40, .regs 49] ⊆ L) (h : Only L s0 s) :
    Only L s0 (State.redirectChange s x2 x3 x4) := by
  unfold State.redirectChange
  extract_lets n1 n2 s3 s4
  have hs3 : Only L s0 s3 := by
    unfold s3
    exact State.setGrp_only (Part.sub hL (by decide)) (by assumption)
  clear_value s3
  have hs4 : Only L s0 s4 := by
    unfold s4
    split
    · exact State.copyToDeputy_only (Part.sub hL (by decide)) (by assumption)
    · assumption
  clear_value s4
  exact State.runChange_only (Part.sub hL (by decide)) (by assumption)

theorem State.setAge_only {L : List Part} {s0 s : State} {x2 x3}
    (hL : [.grp] ⊆ L) (h : Only L s0 s) :
    Only L s0 (State.setAge s x2 x3) := by
  unfold State.setAge
  extract_lets n1 n2
  exact State.setGrp_only (Part.sub hL (by decide)) (by assumption)

theorem execDiscoverStableTimer_only {L : List Part} {s0 s : State}
    (hL : [.out, .grp] ⊆ L) (h : Only L s0 s) :
    Only.Out L s0 (execDiscoverStableTimer s) := by
  unfold execDiscoverStableTimer
  extract_lets n1
  refine Only.iteOut ?_ ?_
  · refine Only.next ?_
    assumption
  · refine Only.next ?_
    refine State.discoverOn_only (Part.sub hL (by decide)) ?_
    exact State.setGrp_only (Part.sub hL (by decide)) (by assumption)

theorem execLeadBeatTimer_only {L : List Part} {s0 s : State}
    (hL : [.out, .grp] ⊆ L) (h : Only L s0 s) :
    Only.Out L s0 (execLeadBeatTimer s) := by
  unfold execLeadBeatTimer
  split
  · refine Only.iteOut ?_ ?_
    · refine Only.next ?_
      refine Only.foldl _ ?_ (fun s _ h => ?_)
      · assumption
      · exact State.sendSeq_only (Part.sub hL (by decide)) (by assumption)
    · refine Only.next ?_
      assumption
  · refine Only.next ?_
    assumption

theorem execLeadQuorumLost_only {L : List Part} {s0 s : State}
    (hL : [.out, .host, .sq, .obj, .life, .tape, .disk, .trc, .grp, .red, .regs 0, .regs 4, .regs 8, .regs 36,
      .regs 49] ⊆ L) (h : Only L s0 s) :
    Only.Out L s0 (execLeadQuorumLost s) := by
  unfold execLeadQuorumLost
  split
  · extract_lets n1 s2 s3 n4 s5
    have hs2 : Only L s0 s2 := by
      unfold s2
      refine State.wr_only (Part.sub hL (by decide)) ?_
      exact State.wr_only (Part.sub hL (by decide)) (by assumption)
    clear_value s2
    have hs3 : Only L s0 s3 := by
      unfold s3
      exact State.raise_only (Part.sub hL (by decide)) (by assumption)
    clear_value s3
    have hs5 : Only L s0 s5 := by
      unfold s5
      exact State.setGrp_only (Part.sub hL (by decide)) (by assumption)
    clear_value s5
    refine Only.iteOut ?_ ?_
    · refine Only.next ?_
      refine Only.foldl _ ?_ (fun s _ h => ?_)
      · assumption
      · exact State.epochStale_only (Part.sub hL (by decide)) (by assumption)
    · refine Only.next ?_
      assumption
  · refine Only.next ?_
    assumption

theorem execDeputyReplace_only {L : List Part} {s0 s : State}
    (hL : [.out, .free, .host, .sq, .obj, .life, .tape, .disk, .trc, .grp, .red, .regs 0, .regs 4, .regs 8,
      .regs 16, .regs 36, .regs 40, .regs 49] ⊆ L) (h : Only L s0 s) :
    Only.Out L s0 (execDeputyReplace s) := by
  unfold execDeputyReplace
  split
  · extract_lets n1
    refine Only.iteOut ?_ ?_
    · split
      · refine Only.next ?_
        refine State.askChange_only (Part.sub hL (by decide)) ?_
        exact State.noDeputy_only (Part.sub hL (by decide)) (by assumption)
      · refine Only.next ?_
        refine Only.ite ?_ ?_
        · refine State.redirectChange_only (Part.sub hL (by decide)) ?_
          exact State.noDeputy_only (Part.sub hL (by decide)) (by assumption)
        · assumption
    · refine Only.next ?_
      assumption
  · refine Only.next ?_
    assumption

theorem execDeputyLeadLossTimeout_only {L : List Part} {s0 s : State}
    (hL : [.out, .grp] ⊆ L) (h : Only L s0 s) :
    Only.Out L s0 (execDeputyLeadLossTimeout s) := by
  unfold execDeputyLeadLossTimeout
  split
  · extract_lets n1 s2
    have hs2 : Only L s0 s2 := by
      unfold s2
      exact State.setGrp_only (Part.sub hL (by decide)) (by assumption)
    clear_value s2
    refine Only.iteOut ?_ ?_
    · refine Only.next ?_
      refine Only.foldl _ ?_ (fun s _ h => ?_)
      · assumption
      · exact State.sendSeq_only (Part.sub hL (by decide)) (by assumption)
    · refine Only.next ?_
      assumption
  · refine Only.next ?_
    assumption

theorem execDeputyCopyDone_only {L : List Part} {s0 s : State}
    (hL : [.out, .free, .host, .sq, .obj, .life, .tape, .disk, .trc, .grp, .red, .regs 0, .regs 4, .regs 8,
      .regs 16, .regs 36, .regs 40, .regs 49] ⊆ L) (h : Only L s0 s) :
    Only.Out L s0 (execDeputyCopyDone s) := by
  unfold execDeputyCopyDone
  split
  · extract_lets n1
    refine Only.iteOut ?_ ?_
    · refine Only.next ?_
      refine State.runChange_only (Part.sub hL (by decide)) ?_
      exact State.setGrp_only (Part.sub hL (by decide)) (by assumption)
    · refine Only.next ?_
      assumption
  · refine Only.next ?_
    assumption

end Sys2Proof.Machine
end

