-- ==== Sys2Proof/Laws/OnlyGroupAdmin.lean ====
section
/-!
SUPPORT. The parts of the state that an operation of Machine/GroupAdmin.lean may change (Laws/Only.lean).
-/

set_option Elab.async false

namespace Sys2Proof.Machine

theorem State.adminEnd_only {L : List Part} {s0 s : State} {x2 x3 x4 x5}
    (hL : [.out, .host, .sq, .life, .trc, .grp, .regs 0, .regs 4, .regs 8, .regs 49] ⊆ L) (h : Only L s0 s) :
    Only L s0 (State.adminEnd s x2 x3 x4 x5) := by
  unfold State.adminEnd
  refine Only.ite ?_ ?_
  · split
    · exact State.finish_only (Part.sub hL (by decide)) (by assumption)
    · assumption
  · exact State.answerAdmin_only (Part.sub hL (by decide)) (by assumption)

theorem State.adminConflict_only {L : List Part} {s0 s : State} {x2 x3 x4 x5}
    (hL : [.out, .host, .sq, .life, .trc, .grp, .regs 0, .regs 4, .regs 8, .regs 49] ⊆ L) (h : Only L s0 s) :
    Only L s0 (State.adminConflict s x2 x3 x4 x5) := by
  unfold State.adminConflict
  exact State.adminEnd_only (Part.sub hL (by decide)) (by assumption)

theorem State.onTarget_only {L : List Part} {s0 s : State} {x2 x3 x4 x5 x6 go}
    (hL : [.out, .host, .sq, .life, .trc, .grp, .regs 0, .regs 4, .regs 8, .regs 49] ⊆ L) (h : Only L s0 s)
    (hgo : ∀ a1, Only L s0 a1 → Only L s0 (go a1)) :
    Only L s0 (State.onTarget s x2 x3 x4 x5 x6 go) := by
  unfold State.onTarget
  extract_lets n1
  refine Only.ite ?_ ?_
  · exact State.adminConflict_only (Part.sub hL (by decide)) (by assumption)
  · refine hgo _ ?_
    assumption

theorem State.pendLayout_only {L : List Part} {s0 s : State} {x2 x3 x4}
    (hL : [.out, .grp, .red] ⊆ L) (h : Only L s0 s) :
    Only L s0 (State.pendLayout s x2 x3 x4) := by
  unfold State.pendLayout
  extract_lets n1 n2 n3 s4
  have hs4 : Only L s0 s4 := by
    unfold s4
    exact State.setRed_only (Part.sub hL (by decide)) (by assumption)
  clear_value s4
  refine Only.foldl _ ?_ (fun s _ h => ?_)
  · assumption
  · exact State.sendRows_only (Part.sub hL (by decide)) (by assumption)

theorem State.adminChange_only {L : List Part} {s0 s : State} {x2 x3}
    (hL : [.out, .free, .host, .sq, .obj, .life, .tape, .disk, .trc, .grp, .red, .regs 0, .regs 4, .regs 8,
      .regs 16, .regs 36, .regs 40, .regs 49] ⊆ L) (h : Only L s0 s) :
    Only L s0 (State.adminChange s x2 x3) := by
  unfold State.adminChange
  split
  · refine State.askChange_only (Part.sub hL (by decide)) ?_
    exact State.setCmd_only (Part.sub hL (by decide)) (by assumption)
  · exact State.askChange_only (Part.sub hL (by decide)) (by assumption)

theorem State.adminAdd_only {L : List Part} {s0 s : State} {x2 x3 x4 x5}
    (hL : [.out, .free, .host, .sq, .obj, .life, .tape, .disk, .trc, .grp, .red, .regs 0, .regs 4, .regs 8,
      .regs 16, .regs 36, .regs 40, .regs 49] ⊆ L) (h : Only L s0 s) :
    Only L s0 (State.adminAdd s x2 x3 x4 x5) := by
  unfold State.adminAdd
  refine State.onTarget_only (Part.sub hL (by decide)) ?_ (fun s h => ?_)
  · assumption
  · extract_lets s1
    have hs1 : Only L s0 s1 := by
      unfold s1
      exact State.pendLayout_only (Part.sub hL (by decide)) (by assumption)
    clear_value s1
    refine Only.ite ?_ ?_
    · exact State.adminConflict_only (Part.sub hL (by decide)) (by assumption)
    · refine Only.ite ?_ ?_
      · exact State.adminEnd_only (Part.sub hL (by decide)) (by assumption)
      · refine Only.ite ?_ ?_
        · exact State.adminEnd_only (Part.sub hL (by decide)) (by assumption)
        · exact State.adminChange_only (Part.sub hL (by decide)) (by assumption)

theorem State.adminForm_only {L : List Part} {s0 s : State} {x2 x3 x4 x5}
    (hL : [.out, .host, .sq, .life, .trc, .grp, .regs 0, .regs 4, .regs 8, .regs 49] ⊆ L) (h : Only L s0 s) :
    Only L s0 (State.adminForm s x2 x3 x4 x5) := by
  unfold State.adminForm
  extract_lets n1 s2 n3 s4
  have hs2 : Only L s0 s2 := by
    unfold s2
    exact State.setCmd_only (Part.sub hL (by decide)) (by assumption)
  clear_value s2
  have hs4 : Only L s0 s4 := by
    unfold s4
    exact State.setGrp_only (Part.sub hL (by decide)) (by assumption)
  clear_value s4
  refine Only.ite ?_ ?_
  · exact State.adminConflict_only (Part.sub hL (by decide)) (by assumption)
  · refine Only.ite ?_ ?_
    · exact State.adminEnd_only (Part.sub hL (by decide)) (by assumption)
    · split
      · exact State.adminConflict_only (Part.sub hL (by decide)) (by assumption)
      · split
        · exact State.adminConflict_only (Part.sub hL (by decide)) (by assumption)
        · refine Only.ite ?_ ?_
          · exact State.adminEnd_only (Part.sub hL (by decide)) (by assumption)
          · refine Only.foldl _ ?_ (fun s _ h => ?_)
            · assumption
            · exact State.sendSeq_only (Part.sub hL (by decide)) (by assumption)

theorem State.adminRemove_only {L : List Part} {s0 s : State} {x2 x3 x4}
    (hL : [.out, .free, .host, .sq, .obj, .life, .tape, .disk, .trc, .grp, .red, .regs 0, .regs 4, .regs 8,
      .regs 16, .regs 36, .regs 40, .regs 49] ⊆ L) (h : Only L s0 s) :
    Only L s0 (State.adminRemove s x2 x3 x4) := by
  unfold State.adminRemove
  refine State.onTarget_only (Part.sub hL (by decide)) ?_ (fun s h => ?_)
  · assumption
  · extract_lets s1
    have hs1 : Only L s0 s1 := by
      unfold s1
      exact State.pendLayout_only (Part.sub hL (by decide)) (by assumption)
    clear_value s1
    refine Only.ite ?_ ?_
    · exact State.adminConflict_only (Part.sub hL (by decide)) (by assumption)
    · refine Only.ite ?_ ?_
      · exact State.adminEnd_only (Part.sub hL (by decide)) (by assumption)
      · refine Only.ite ?_ ?_
        · exact State.adminEnd_only (Part.sub hL (by decide)) (by assumption)
        · exact State.adminChange_only (Part.sub hL (by decide)) (by assumption)

theorem State.retireReport_only {L : List Part} {s0 s : State} {x2}
    (hL : [.out, .host, .life, .trc, .regs 0, .regs 4, .regs 36, .regs 49] ⊆ L) (h : Only L s0 s) :
    Only L s0 (State.retireReport s x2) := by
  unfold State.retireReport
  split
  · refine Only.ite ?_ ?_
    · exact State.noDeputy_only (Part.sub hL (by decide)) (by assumption)
    · assumption
  · assumption

theorem State.adminFence_only {L : List Part} {s0 s : State} {x2 x3 x4}
    (hL : [.out, .free, .host, .sq, .obj, .life, .tape, .disk, .trc, .grp, .red, .regs 0, .regs 4, .regs 8,
      .regs 16, .regs 36, .regs 40, .regs 49] ⊆ L) (h : Only L s0 s) :
    Only L s0 (State.adminFence s x2 x3 x4) := by
  unfold State.adminFence
  refine State.onTarget_only (Part.sub hL (by decide)) ?_ (fun s h => ?_)
  · assumption
  · refine Only.ite ?_ ?_
    · exact State.adminEnd_only (Part.sub hL (by decide)) (by assumption)
    · refine State.adminChange_only (Part.sub hL (by decide)) ?_
      exact State.retireReport_only (Part.sub hL (by decide)) (by assumption)

theorem State.adminUnfence_only {L : List Part} {s0 s : State} {x2 x3 x4}
    (hL : [.out, .free, .host, .sq, .obj, .life, .tape, .disk, .trc, .grp, .red, .regs 0, .regs 4, .regs 8,
      .regs 16, .regs 36, .regs 40, .regs 49] ⊆ L) (h : Only L s0 s) :
    Only L s0 (State.adminUnfence s x2 x3 x4) := by
  unfold State.adminUnfence
  refine State.onTarget_only (Part.sub hL (by decide)) ?_ (fun s h => ?_)
  · assumption
  · refine Only.ite ?_ ?_
    · exact State.adminEnd_only (Part.sub hL (by decide)) (by assumption)
    · exact State.adminChange_only (Part.sub hL (by decide)) (by assumption)

theorem State.adminFail_only {L : List Part} {s0 s : State} {x2 x3 x4}
    (hL : [.out, .free, .host, .sq, .obj, .life, .tape, .disk, .trc, .grp, .red, .regs 0, .regs 4, .regs 8,
      .regs 16, .regs 36, .regs 40, .regs 49] ⊆ L) (h : Only L s0 s) :
    Only L s0 (State.adminFail s x2 x3 x4) := by
  unfold State.adminFail
  refine State.onTarget_only (Part.sub hL (by decide)) ?_ (fun s h => ?_)
  · assumption
  · refine Only.ite ?_ ?_
    · exact State.adminEnd_only (Part.sub hL (by decide)) (by assumption)
    · refine Only.ite ?_ ?_
      · exact State.adminEnd_only (Part.sub hL (by decide)) (by assumption)
      · refine State.adminChange_only (Part.sub hL (by decide)) ?_
        exact State.retireReport_only (Part.sub hL (by decide)) (by assumption)

theorem State.adminDeputy_only {L : List Part} {s0 s : State} {x2 x3 x4}
    (hL : [.out, .free, .host, .sq, .obj, .life, .tape, .disk, .trc, .grp, .red, .regs 0, .regs 4, .regs 8,
      .regs 16, .regs 36, .regs 40, .regs 49] ⊆ L) (h : Only L s0 s) :
    Only L s0 (State.adminDeputy s x2 x3 x4) := by
  unfold State.adminDeputy
  refine State.onTarget_only (Part.sub hL (by decide)) ?_ (fun s h => ?_)
  · assumption
  · refine Only.ite ?_ ?_
    · exact State.adminEnd_only (Part.sub hL (by decide)) (by assumption)
    · refine Only.ite ?_ ?_
      · exact State.adminConflict_only (Part.sub hL (by decide)) (by assumption)
      · exact State.adminChange_only (Part.sub hL (by decide)) (by assumption)

theorem State.adminReshape_only {L : List Part} {s0 s : State} {x2 x3 x4}
    (hL : [.out, .free, .host, .sq, .obj, .life, .tape, .disk, .trc, .grp, .red, .regs 0, .regs 4, .regs 8,
      .regs 16, .regs 36, .regs 40, .regs 49] ⊆ L) (h : Only L s0 s) :
    Only L s0 (State.adminReshape s x2 x3 x4) := by
  unfold State.adminReshape
  refine Only.ite ?_ ?_
  · exact State.adminConflict_only (Part.sub hL (by decide)) (by assumption)
  · refine Only.ite ?_ ?_
    · exact State.adminEnd_only (Part.sub hL (by decide)) (by assumption)
    · refine State.adminChange_only (Part.sub hL (by decide)) ?_
      exact State.pendLayout_only (Part.sub hL (by decide)) (by assumption)

theorem State.adminQuery_only {L : List Part} {s0 s : State} {x2 x3}
    (hL : [.out, .host, .sq, .life, .trc, .grp, .regs 0, .regs 4, .regs 8, .regs 49] ⊆ L) (h : Only L s0 s) :
    Only L s0 (State.adminQuery s x2 x3) := by
  unfold State.adminQuery
  exact State.adminEnd_only (Part.sub hL (by decide)) (by assumption)

theorem State.adminGo_only {L : List Part} {s0 s : State} {x2}
    (hL : [.out, .free, .host, .sq, .obj, .life, .tape, .disk, .trc, .grp, .red, .regs 0, .regs 4, .regs 8,
      .regs 16, .regs 36, .regs 40, .regs 49] ⊆ L) (h : Only L s0 s) :
    Only L s0 (State.adminGo s x2) := by
  unfold State.adminGo
  split
  split
  · refine Only.ite ?_ ?_
    · split
      · exact State.adminForm_only (Part.sub hL (by decide)) (by assumption)
      · assumption
    · exact State.adminConflict_only (Part.sub hL (by decide)) (by assumption)
  · refine Only.ite ?_ ?_
    · exact State.answerAdmin_only (Part.sub hL (by decide)) (by assumption)
    · refine Only.ite ?_ ?_
      · exact State.adminEnd_only (Part.sub hL (by decide)) (by assumption)
      · refine Only.ite ?_ ?_
        · exact State.adminConflict_only (Part.sub hL (by decide)) (by assumption)
        · refine Only.ite ?_ ?_
          · exact State.adminAdd_only (Part.sub hL (by decide)) (by assumption)
          · refine Only.ite ?_ ?_
            · exact State.adminRemove_only (Part.sub hL (by decide)) (by assumption)
            · refine Only.ite ?_ ?_
              · exact State.adminFence_only (Part.sub hL (by decide)) (by assumption)
              · refine Only.ite ?_ ?_
                · exact State.adminUnfence_only (Part.sub hL (by decide)) (by assumption)
                · refine Only.ite ?_ ?_
                  · exact State.adminFail_only (Part.sub hL (by decide)) (by assumption)
                  · refine Only.ite ?_ ?_
                    · exact State.adminDeputy_only (Part.sub hL (by decide)) (by assumption)
                    · refine Only.ite ?_ ?_
                      · exact State.adminReshape_only (Part.sub hL (by decide)) (by assumption)
                      · exact State.adminQuery_only (Part.sub hL (by decide)) (by assumption)

theorem State.adminTurns_only {L : List Part} {s0 s : State} {x1}
    (hL : [.out, .free, .host, .sq, .obj, .life, .tape, .disk, .trc, .grp, .red, .regs 0, .regs 4, .regs 8,
      .regs 16, .regs 36, .regs 40, .regs 49] ⊆ L) (h : Only L s0 s) :
    Only L s0 (State.adminTurns x1 s) := by
  induction x1 generalizing s with
  | zero =>
    rw [State.adminTurns]
    assumption
  | succ n ih =>
    rw [State.adminTurns]
    extract_lets n1
    refine Only.ite ?_ ?_
    · assumption
    · split
      · assumption
      · extract_lets s2
        have hs2 : Only L s0 s2 := by
          unfold s2
          exact State.setGrp_only (Part.sub hL (by decide)) (by assumption)
        clear_value s2
        refine Only.ite ?_ ?_
        · assumption
        · refine Only.ite ?_ ?_
          · exact ih (by assumption)
          · refine ih ?_
            exact State.adminGo_only (Part.sub hL (by decide)) (by assumption)

theorem State.adminAsk_only {L : List Part} {s0 s : State} {x2}
    (hL : [.out, .free, .host, .sq, .obj, .life, .tape, .disk, .trc, .grp, .red, .regs 0, .regs 4, .regs 8,
      .regs 16, .regs 36, .regs 40, .regs 49] ⊆ L) (h : Only L s0 s) :
    Only L s0 (State.adminAsk s x2) := by
  unfold State.adminAsk
  extract_lets n1 n2 s3 n4 s5
  have hs3 : Only L s0 s3 := by
    unfold s3
    split
    · refine Only.ite ?_ ?_
      · exact State.setCmd_only (Part.sub hL (by decide)) (by assumption)
      · assumption
    · assumption
  clear_value s3
  have hs5 : Only L s0 s5 := by
    unfold s5
    exact State.setGrp_only (Part.sub hL (by decide)) (by assumption)
  clear_value s5
  refine Only.ite ?_ ?_
  · exact State.adminConflict_only (Part.sub hL (by decide)) (by assumption)
  · exact State.adminTurns_only (Part.sub hL (by decide)) (by assumption)

theorem State.formStep_only {L : List Part} {s0 s : State}
    (hL : [.out, .free, .host, .sq, .obj, .life, .tape, .disk, .trc, .grp, .red, .regs 0, .regs 4, .regs 8,
      .regs 16, .regs 36, .regs 40, .regs 49] ⊆ L) (h : Only L s0 s) :
    Only L s0 (State.formStep s) := by
  unfold State.formStep
  split
  · assumption
  · extract_lets n1 n2 s3 s4 n5 s6
    have hs3 : Only L s0 s3 := by
      unfold s3
      exact State.setGrp_only (Part.sub hL (by decide)) (by assumption)
    clear_value s3
    have hs4 : Only L s0 s4 := by
      unfold s4
      refine Only.updFree (Part.sub hL (by decide)) ?_
      assumption
    clear_value s4
    have hs6 : Only L s0 s6 := by
      unfold s6
      exact State.setRed_only (Part.sub hL (by decide)) (by assumption)
    clear_value s6
    refine Only.ite ?_ ?_
    · assumption
    · split
      · split
        · exact State.conflict_only (Part.sub hL (by decide)) (by assumption)
        · assumption
      · extract_lets n7 s8 n9 n10
        have hs8 : Only L s0 s8 := by
          unfold s8
          exact State.pendLayout_only (Part.sub hL (by decide)) (by assumption)
        clear_value s8
        refine State.nextChange_only (Part.sub hL (by decide)) ?_
        exact State.setGrp_only (Part.sub hL (by decide)) (by assumption)

theorem State.rebuildEnd_only {L : List Part} {s0 s : State}
    (hL : [.out, .free, .host, .sq, .obj, .life, .tape, .disk, .trc, .grp, .red, .regs 0, .regs 4, .regs 8,
      .regs 16, .regs 36, .regs 40, .regs 49] ⊆ L) (h : Only L s0 s) :
    Only L s0 (State.rebuildEnd s) := by
  unfold State.rebuildEnd
  split
  · assumption
  · extract_lets n1
    refine Only.ite ?_ ?_
    · refine State.askChange_only (Part.sub hL (by decide)) ?_
      exact State.raise_only (Part.sub hL (by decide)) (by assumption)
    · assumption

theorem State.groupStep_only {L : List Part} {s0 s : State}
    (hL : [.out, .free, .host, .sq, .obj, .life, .tape, .disk, .trc, .grp, .red, .regs 0, .regs 4, .regs 8,
      .regs 16, .regs 36, .regs 40, .regs 49] ⊆ L) (h : Only L s0 s) :
    Only L s0 (State.groupStep s) := by
  unfold State.groupStep
  extract_lets s1 s2 s3
  have hs1 : Only L s0 s1 := by
    unfold s1
    refine State.nextChange_only (Part.sub hL (by decide)) ?_
    exact State.formStep_only (Part.sub hL (by decide)) (by assumption)
  clear_value s1
  have hs2 : Only L s0 s2 := by
    unfold s2
    exact State.rebuildEnd_only (Part.sub hL (by decide)) (by assumption)
  clear_value s2
  have hs3 : Only L s0 s3 := by
    unfold s3
    exact State.activateJoined_only (Part.sub hL (by decide)) (by assumption)
  clear_value s3
  exact State.adminTurns_only (Part.sub hL (by decide)) (by assumption)

theorem State.adminStart_only {L : List Part} {s0 s : State} {x2 x3 x4}
    (hL : [.out, .free, .host, .sq, .obj, .life, .tape, .disk, .trc, .grp, .red, .regs 0, .regs 4, .regs 8,
      .regs 16, .regs 36, .regs 40, .regs 49] ⊆ L) (h : Only L s0 s) :
    Only L s0 (State.adminStart s x2 x3 x4) := by
  unfold State.adminStart
  split
  · refine Only.ite ?_ ?_
    · refine State.groupStep_only (Part.sub hL (by decide)) ?_
      exact State.adminAsk_only (Part.sub hL (by decide)) (by assumption)
    · assumption
  · assumption

theorem State.slowOut_only {L : List Part} {s0 s : State} {x2 x3 x4}
    (hL : [.out, .free, .host, .sq, .obj, .life, .tape, .disk, .trc, .grp, .red, .regs 0, .regs 4, .regs 8,
      .regs 16, .regs 36, .regs 40, .regs 49] ⊆ L) (h : Only L s0 s) :
    Only L s0 (State.slowOut s x2 x3 x4) := by
  unfold State.slowOut
  split
  · refine Only.ite ?_ ?_
    · refine State.groupStep_only (Part.sub hL (by decide)) ?_
      refine State.askChange_only (Part.sub hL (by decide)) ?_
      exact State.retireReport_only (Part.sub hL (by decide)) (by assumption)
    · assumption
  · assumption

theorem execFormCmd_only {L : List Part} {s0 s : State} {x1 x2}
    (hL : [.out, .free, .host, .sq, .obj, .life, .tape, .disk, .trc, .grp, .red, .regs 0, .regs 4, .regs 8,
      .regs 16, .regs 36, .regs 40, .regs 49] ⊆ L) (h : Only L s0 s) :
    Only.Out L s0 (execFormCmd x1 x2 s) := by
  unfold execFormCmd
  refine Only.next ?_
  exact State.adminStart_only (Part.sub hL (by decide)) (by assumption)

theorem execAddCmd_only {L : List Part} {s0 s : State} {x1 x2}
    (hL : [.out, .free, .host, .sq, .obj, .life, .tape, .disk, .trc, .grp, .red, .regs 0, .regs 4, .regs 8,
      .regs 16, .regs 36, .regs 40, .regs 49] ⊆ L) (h : Only L s0 s) :
    Only.Out L s0 (execAddCmd x1 x2 s) := by
  unfold execAddCmd
  refine Only.next ?_
  exact State.adminStart_only (Part.sub hL (by decide)) (by assumption)

theorem execRemoveCmd_only {L : List Part} {s0 s : State} {x1}
    (hL : [.out, .free, .host, .sq, .obj, .life, .tape, .disk, .trc, .grp, .red, .regs 0, .regs 4, .regs 8,
      .regs 16, .regs 36, .regs 40, .regs 49] ⊆ L) (h : Only L s0 s) :
    Only.Out L s0 (execRemoveCmd x1 s) := by
  unfold execRemoveCmd
  refine Only.next ?_
  exact State.adminStart_only (Part.sub hL (by decide)) (by assumption)

theorem execFenceCmd_only {L : List Part} {s0 s : State} {x1}
    (hL : [.out, .free, .host, .sq, .obj, .life, .tape, .disk, .trc, .grp, .red, .regs 0, .regs 4, .regs 8,
      .regs 16, .regs 36, .regs 40, .regs 49] ⊆ L) (h : Only L s0 s) :
    Only.Out L s0 (execFenceCmd x1 s) := by
  unfold execFenceCmd
  refine Only.next ?_
  exact State.adminStart_only (Part.sub hL (by decide)) (by assumption)

theorem execUnfenceCmd_only {L : List Part} {s0 s : State} {x1}
    (hL : [.out, .free, .host, .sq, .obj, .life, .tape, .disk, .trc, .grp, .red, .regs 0, .regs 4, .regs 8,
      .regs 16, .regs 36, .regs 40, .regs 49] ⊆ L) (h : Only L s0 s) :
    Only.Out L s0 (execUnfenceCmd x1 s) := by
  unfold execUnfenceCmd
  refine Only.next ?_
  exact State.adminStart_only (Part.sub hL (by decide)) (by assumption)

theorem execFailCmd_only {L : List Part} {s0 s : State} {x1}
    (hL : [.out, .free, .host, .sq, .obj, .life, .tape, .disk, .trc, .grp, .red, .regs 0, .regs 4, .regs 8,
      .regs 16, .regs 36, .regs 40, .regs 49] ⊆ L) (h : Only L s0 s) :
    Only.Out L s0 (execFailCmd x1 s) := by
  unfold execFailCmd
  refine Only.next ?_
  exact State.adminStart_only (Part.sub hL (by decide)) (by assumption)

theorem execSetDeputyCmd_only {L : List Part} {s0 s : State} {x1}
    (hL : [.out, .free, .host, .sq, .obj, .life, .tape, .disk, .trc, .grp, .red, .regs 0, .regs 4, .regs 8,
      .regs 16, .regs 36, .regs 40, .regs 49] ⊆ L) (h : Only L s0 s) :
    Only.Out L s0 (execSetDeputyCmd x1 s) := by
  unfold execSetDeputyCmd
  refine Only.next ?_
  exact State.adminStart_only (Part.sub hL (by decide)) (by assumption)

theorem execReshapeCmd_only {L : List Part} {s0 s : State} {x1}
    (hL : [.out, .free, .host, .sq, .obj, .life, .tape, .disk, .trc, .grp, .red, .regs 0, .regs 4, .regs 8,
      .regs 16, .regs 36, .regs 40, .regs 49] ⊆ L) (h : Only L s0 s) :
    Only.Out L s0 (execReshapeCmd x1 s) := by
  unfold execReshapeCmd
  refine Only.next ?_
  exact State.adminStart_only (Part.sub hL (by decide)) (by assumption)

theorem execQueryCmd_only {L : List Part} {s0 s : State} {x1}
    (hL : [.out, .free, .host, .sq, .obj, .life, .tape, .disk, .trc, .grp, .red, .regs 0, .regs 4, .regs 8,
      .regs 16, .regs 36, .regs 40, .regs 49] ⊆ L) (h : Only L s0 s) :
    Only.Out L s0 (execQueryCmd x1 s) := by
  unfold execQueryCmd
  refine Only.next ?_
  exact State.adminStart_only (Part.sub hL (by decide)) (by assumption)

theorem execSlowFenceTimeout_only {L : List Part} {s0 s : State} {x1}
    (hL : [.out, .free, .host, .sq, .obj, .life, .tape, .disk, .trc, .grp, .red, .regs 0, .regs 4, .regs 8,
      .regs 16, .regs 36, .regs 40, .regs 49] ⊆ L) (h : Only L s0 s) :
    Only.Out L s0 (execSlowFenceTimeout x1 s) := by
  unfold execSlowFenceTimeout
  refine Only.next ?_
  exact State.slowOut_only (Part.sub hL (by decide)) (by assumption)

theorem execSlowFailTimeout_only {L : List Part} {s0 s : State} {x1}
    (hL : [.out, .free, .host, .sq, .obj, .life, .tape, .disk, .trc, .grp, .red, .regs 0, .regs 4, .regs 8,
      .regs 16, .regs 36, .regs 40, .regs 49] ⊆ L) (h : Only L s0 s) :
    Only.Out L s0 (execSlowFailTimeout x1 s) := by
  unfold execSlowFailTimeout
  refine Only.next ?_
  exact State.slowOut_only (Part.sub hL (by decide)) (by assumption)

theorem execReshapeFlip_only {L : List Part} {s0 s : State}
    (hL : [.out, .free, .host, .sq, .obj, .life, .tape, .disk, .trc, .grp, .red, .regs 0, .regs 4, .regs 8,
      .regs 16, .regs 36, .regs 40, .regs 49] ⊆ L) (h : Only L s0 s) :
    Only.Out L s0 (execReshapeFlip s) := by
  unfold execReshapeFlip
  split
  · extract_lets n1 s2 n3 s4
    have hs2 : Only L s0 s2 := by
      unfold s2
      refine Only.foldl _ ?_ (fun s _ h => ?_)
      · assumption
      · exact State.sendRows_only (Part.sub hL (by decide)) (by assumption)
    clear_value s2
    have hs4 : Only L s0 s4 := by
      unfold s4
      exact State.setRed_only (Part.sub hL (by decide)) (by assumption)
    clear_value s4
    refine Only.iteOut ?_ ?_
    · refine Only.next ?_
      refine State.groupStep_only (Part.sub hL (by decide)) ?_
      exact State.askChange_only (Part.sub hL (by decide)) (by assumption)
    · refine Only.next ?_
      assumption
  · refine Only.next ?_
    assumption

end Sys2Proof.Machine
end

