-- ==== Sys2Proof/Laws/OnlyObjects.lean ====
section
/-!
SUPPORT. The parts of the state that an operation of Machine/Objects.lean may change (Laws/Only.lean).
-/

set_option Elab.async false

namespace Sys2Proof.Machine

theorem State.abandonPrev_only {L : List Part} {s0 s : State} {x2}
    (hL : [.out, .obj, .grp] ⊆ L) (h : Only L s0 s) :
    Only L s0 (State.abandonPrev s x2) := by
  unfold State.abandonPrev
  extract_lets n1 n2 n3 s4
  have hs4 : Only L s0 s4 := by
    unfold s4
    refine Only.updObj (Part.sub hL (by decide)) ?_
    assumption
  clear_value s4
  refine Only.ite ?_ ?_
  · refine Only.ite ?_ ?_
    · exact State.tellHome_only (Part.sub hL (by decide)) (by assumption)
    · assumption
  · assumption

theorem State.askHome_only {L : List Part} {s0 s : State} {x2 x3}
    (hL : [.out, .sq, .grp] ⊆ L) (h : Only L s0 s) :
    Only L s0 (State.askHome s x2 x3) := by
  unfold State.askHome
  refine Only.ite ?_ ?_
  · assumption
  · refine State.sendSeq_only (Part.sub hL (by decide)) ?_
    exact State.setCmd_only (Part.sub hL (by decide)) (by assumption)

theorem State.keyBlocked_only {L : List Part} {s0 s : State} {x2 x3 x4}
    (hL : [.out, .host, .sq, .life, .trc, .grp, .regs 0, .regs 4, .regs 8, .regs 49] ⊆ L) (h : Only L s0 s) :
    Only.Opt L s0 (State.keyBlocked s x2 x3 x4) := by
  unfold State.keyBlocked
  extract_lets n1
  refine Only.iteOpt ?_ ?_
  · refine Only.some ?_
    exact State.conflict_only (Part.sub hL (by decide)) (by assumption)
  · split
    · refine Only.iteOpt ?_ ?_
      · exact Only.none
      · refine Only.some ?_
        exact State.conflict_only (Part.sub hL (by decide)) (by assumption)
    · exact Only.none

theorem State.writeBlocked_only {L : List Part} {s0 s : State} {x2 x3}
    (hL : [.out, .host, .sq, .life, .trc, .grp, .regs 0, .regs 4, .regs 8, .regs 49] ⊆ L) (h : Only L s0 s) :
    Only.Opt L s0 (State.writeBlocked s x2 x3) := by
  unfold State.writeBlocked
  refine Only.iteOpt ?_ ?_
  · refine Only.iteOpt ?_ ?_
    · exact Only.none
    · refine Only.some ?_
      exact State.fail_only (Part.sub hL (by decide)) (by assumption)
  · split
    · refine Only.some ?_
      exact State.conflict_only (Part.sub hL (by decide)) (by assumption)
    · refine Only.iteOpt ?_ ?_
      · refine Only.iteOpt ?_ ?_
        · refine Only.some ?_
          exact State.fail_only (Part.sub hL (by decide)) (by assumption)
        · exact Only.none
      · refine Only.iteOpt ?_ ?_
        · exact Only.none
        · refine Only.iteOpt ?_ ?_
          · refine Only.some ?_
            exact State.conflict_only (Part.sub hL (by decide)) (by assumption)
          · exact Only.none

theorem State.takeNonce_only {L : List Part} {s0 s : State} {x2}
    (hL : [.out, .obj, .grp] ⊆ L) (h : Only L s0 s) :
    Only.Pair L s0 (State.takeNonce s x2) := by
  unfold State.takeNonce
  extract_lets n1 s2
  have hs2 : Only L s0 s2 := by
    unfold s2
    refine Only.updObj (Part.sub hL (by decide)) ?_
    assumption
  clear_value s2
  refine Only.itePair ?_ ?_
  · refine Only.pair ?_
    assumption
  · refine Only.itePair ?_ ?_
    · split
      refine Only.pair ?_
      refine Only.of_eq ?_ (by assumption)
      exact State.drawNonce_only (Part.sub hL (by decide)) (by assumption)
    · refine Only.itePair ?_ ?_
      · refine Only.pair ?_
        assumption
      · split
        · refine Only.pair ?_
          assumption
        · refine Only.itePair ?_ ?_
          · refine Only.pair ?_
            assumption
          · refine Only.pair ?_
            exact State.sendSeq_only (Part.sub hL (by decide)) (by assumption)

theorem State.placeUnits_only {L : List Part} {s0 s : State} {x2 x3}
    (hL : [.out, .free, .host, .sq, .obj, .life, .tape, .mot, .disk, .trc, .grp, .red, .regs 0, .regs 4,
      .regs 8, .regs 16, .regs 32, .regs 40, .regs 49] ⊆ L) (h : Only L s0 s) :
    Only L s0 (State.placeUnits s x2 x3) := by
  unfold State.placeUnits
  split
  · assumption
  · extract_lets n1
    refine Only.ite ?_ ?_
    · refine Only.ite ?_ ?_
      · refine Only.ite ?_ ?_
        · exact State.placeGroup_only (Part.sub hL (by decide)) (by assumption)
        · assumption
      · exact State.gatherUnits_only (Part.sub hL (by decide)) (by assumption)
    · refine Only.ite ?_ ?_
      · refine State.fail_only (Part.sub hL (by decide)) ?_
        exact State.discardWork_only (Part.sub hL (by decide)) (by assumption)
      · refine Only.ite ?_ ?_
        · refine State.fail_only (Part.sub hL (by decide)) ?_
          exact State.discardWork_only (Part.sub hL (by decide)) (by assumption)
        · refine Only.ite ?_ ?_
          · exact State.tapeTake_only (Part.sub hL (by decide)) (by assumption)
          · refine Only.ite ?_ ?_
            · exact State.startLanding_only (Part.sub hL (by decide)) (by assumption)
            · assumption

theorem State.startDelta_only {L : List Part} {s0 s : State} {x2}
    (hL : [.out, .free, .host, .sq, .obj, .life, .tape, .mot, .disk, .trc, .grp, .red, .regs 0, .regs 4,
      .regs 8, .regs 16, .regs 32, .regs 40, .regs 49] ⊆ L) (h : Only L s0 s) :
    Only L s0 (State.startDelta s x2) := by
  unfold State.startDelta
  extract_lets n1 n2 n3 n4
  split
  extract_lets n5 s6
  have hs6 : Only L s0 s6 := by
    unfold s6
    refine Only.updObj (Part.sub hL (by decide)) ?_
    refine Only.of_eq ?_ (by assumption)
    exact State.addUnit_only (Part.sub hL (by decide)) (by assumption)
  clear_value s6
  refine State.placeUnits_only (Part.sub hL (by decide)) ?_
  exact State.setCmd_only (Part.sub hL (by decide)) (by assumption)

theorem State.startData_only {L : List Part} {s0 s : State} {x2}
    (hL : [.out, .sq] ⊆ L) (h : Only L s0 s) :
    Only L s0 (State.startData s x2) := by
  unfold State.startData
  refine State.askAll_only (Part.sub hL (by decide)) ?_
  exact State.setCmd_only (Part.sub hL (by decide)) (by assumption)

theorem State.apply_only {L : List Part} {s0 s : State} {x2 x3}
    (hL : [.out, .free, .host, .sq, .obj, .life, .tape, .mot, .disk, .trc, .grp, .red, .regs 0, .regs 4,
      .regs 8, .regs 16, .regs 32, .regs 40, .regs 49] ⊆ L) (h : Only L s0 s) :
    Only L s0 (State.apply s x2 x3) := by
  unfold State.apply
  refine Only.ite ?_ ?_
  · assumption
  · split
    · refine Only.of_eq ?_ (by assumption)
      exact State.takeNonce_only (Part.sub hL (by decide)) (by assumption)
    · refine Only.ite ?_ ?_
      · refine State.startDelta_only (Part.sub hL (by decide)) ?_
        refine Only.of_eq ?_ (by assumption)
        exact State.takeNonce_only (Part.sub hL (by decide)) (by assumption)
      · refine State.startData_only (Part.sub hL (by decide)) ?_
        refine Only.of_eq ?_ (by assumption)
        exact State.takeNonce_only (Part.sub hL (by decide)) (by assumption)

theorem State.appendGo_only {L : List Part} {s0 s : State} {x2 x3}
    (hL : [.out, .free, .host, .sq, .obj, .life, .tape, .mot, .disk, .trc, .grp, .red, .regs 0, .regs 4,
      .regs 8, .regs 16, .regs 32, .regs 40, .regs 49] ⊆ L) (h : Only L s0 s) :
    Only L s0 (State.appendGo s x2 x3) := by
  unfold State.appendGo
  extract_lets n1 n2
  refine Only.ite ?_ ?_
  · exact State.conflict_only (Part.sub hL (by decide)) (by assumption)
  · split
    · refine Only.ite ?_ ?_
      · exact State.askHome_only (Part.sub hL (by decide)) (by assumption)
      · refine Only.ite ?_ ?_
        · assumption
        · exact State.fail_only (Part.sub hL (by decide)) (by assumption)
    · refine Only.ite ?_ ?_
      · exact State.fail_only (Part.sub hL (by decide)) (by assumption)
      · refine Only.ite ?_ ?_
        · exact State.fail_only (Part.sub hL (by decide)) (by assumption)
        · refine Only.ite ?_ ?_
          · exact State.fail_only (Part.sub hL (by decide)) (by assumption)
          · split
            · refine Only.of_opt ?_ (by assumption)
              exact State.keyBlocked_only (Part.sub hL (by decide)) (by assumption)
            · split
              · refine Only.of_opt ?_ (by assumption)
                exact State.writeBlocked_only (Part.sub hL (by decide)) (by assumption)
              · exact State.apply_only (Part.sub hL (by decide)) (by assumption)

theorem State.mirrorCommit_only {L : List Part} {s0 s : State} {x2}
    (hL : [.out, .sq, .grp] ⊆ L) (h : Only L s0 s) :
    Only L s0 (State.mirrorCommit s x2) := by
  unfold State.mirrorCommit
  split
  · assumption
  · refine Only.ite ?_ ?_
    · assumption
    · refine State.mirrorSeq_only (Part.sub hL (by decide)) ?_
      exact State.setCmd_only (Part.sub hL (by decide)) (by assumption)

theorem State.freeUnits_only {L : List Part} {s0 s : State} {x2}
    (hL : [.out, .host, .obj, .life, .disk, .trc, .red, .regs 0, .regs 4, .regs 16, .regs 49] ⊆ L) (h : Only L s0 s) :
    Only L s0 (State.freeUnits s x2) := by
  unfold State.freeUnits
  extract_lets n1 s2 n3 n4 n5
  have hs2 : Only L s0 s2 := by
    unfold s2
    exact State.releaseLanding_only (Part.sub hL (by decide)) (by assumption)
  clear_value s2
  refine Only.upd [.obj, .disk, .red] (Part.sub hL (by decide)) ?_ (fun p hp => by
    cases p <;> first | rfl | exact fun _ _ _ _ _ => rfl | exact absurd (by decide) hp)
  assumption

theorem State.sweepGone_only {L : List Part} {s0 s : State}
    (hL : [.out, .host, .obj, .life, .disk, .trc, .red, .regs 0, .regs 4, .regs 16, .regs 49] ⊆ L) (h : Only L s0 s) :
    Only L s0 (State.sweepGone s) := by
  unfold State.sweepGone
  extract_lets n1 n2 n3 s4
  have hs4 : Only L s0 s4 := by
    unfold s4
    refine Only.updObj (Part.sub hL (by decide)) ?_
    assumption
  clear_value s4
  refine Only.foldl _ ?_ (fun s _ h => ?_)
  · assumption
  · exact State.freeUnits_only (Part.sub hL (by decide)) (by assumption)

theorem State.keepDelta_only {L : List Part} {s0 s : State} {x2}
    (hL : [.obj] ⊆ L) (h : Only L s0 s) :
    Only L s0 (State.keepDelta s x2) := by
  unfold State.keepDelta
  extract_lets n1
  refine Only.ite ?_ ?_
  · refine Only.updObj (Part.sub hL (by decide)) ?_
    assumption
  · assumption

theorem State.settleUnits_only {L : List Part} {s0 s : State} {x2}
    (hL : [.out, .obj, .disk, .grp, .red, .regs 40] ⊆ L) (h : Only L s0 s) :
    Only L s0 (State.settleUnits s x2) := by
  unfold State.settleUnits
  extract_lets n1 s2
  have hs2 : Only L s0 s2 := by
    unfold s2
    refine Only.updObj (Part.sub hL (by decide)) ?_
    assumption
  clear_value s2
  refine Only.ite ?_ ?_
  · assumption
  · split
    · assumption
    · extract_lets s3 n4 n5 s6 s7 n8 n9
      have hs3 : Only L s0 s3 := by
        unfold s3
        refine Only.foldl _ ?_ (fun s _ h => ?_)
        · assumption
        · extract_lets n10 n11
          exact State.setUnit_only (Part.sub hL (by decide)) (by assumption)
      clear_value s3
      have hs6 : Only L s0 s6 := by
        unfold s6
        exact State.setRed_only (Part.sub hL (by decide)) (by assumption)
      clear_value s6
      have hs7 : Only L s0 s7 := by
        unfold s7
        refine Only.foldl _ ?_ (fun s _ h => ?_)
        · assumption
        · extract_lets n12
          exact State.setUnit_only (Part.sub hL (by decide)) (by assumption)
      clear_value s7
      refine Only.ite ?_ ?_
      · exact State.gatherUnits_only (Part.sub hL (by decide)) (by assumption)
      · exact State.setDisk_only (Part.sub hL (by decide)) (by assumption)

theorem State.commitDelete_only {L : List Part} {s0 s : State} {x2}
    (hL : [.out, .host, .sq, .obj, .life, .disk, .trc, .grp, .red, .regs 0, .regs 4, .regs 8, .regs 16,
      .regs 40, .regs 49] ⊆ L) (h : Only L s0 s) :
    Only L s0 (State.commitDelete s x2) := by
  unfold State.commitDelete
  extract_lets n1 n2 n3
  split
  · assumption
  · extract_lets s4
    have hs4 : Only L s0 s4 := by
      unfold s4
      refine Only.updObj (Part.sub hL (by decide)) ?_
      assumption
    clear_value s4
    refine State.sweepGone_only (Part.sub hL (by decide)) ?_
    refine State.finish_only (Part.sub hL (by decide)) ?_
    refine State.keepDelta_only (Part.sub hL (by decide)) ?_
    exact State.settleUnits_only (Part.sub hL (by decide)) (by assumption)

theorem State.countAccepted_only {L : List Part} {s0 s : State} {x2}
    (hL : [.out, .host, .life, .trc, .regs 0, .regs 4, .regs 49] ⊆ L) (h : Only L s0 s) :
    Only L s0 (State.countAccepted s x2) := by
  unfold State.countAccepted
  exact State.lifeAdd_only (Part.sub hL (by decide)) (by assumption)

theorem State.commitCtx_only {L : List Part} {s0 s : State} {x2}
    (hL : [.obj] ⊆ L) (h : Only L s0 s) :
    Only L s0 (State.commitCtx s x2) := by
  unfold State.commitCtx
  refine Only.ite ?_ ?_
  · exact State.freeCtx_only (Part.sub hL (by decide)) (by assumption)
  · split
    · exact State.saveCtx_only (Part.sub hL (by decide)) (by assumption)
    · assumption

theorem State.commit_only {L : List Part} {s0 s : State} {x2}
    (hL : [.out, .host, .sq, .obj, .life, .tape, .disk, .trc, .grp, .red, .regs 0, .regs 4, .regs 8, .regs 40,
      .regs 49] ⊆ L) (h : Only L s0 s) :
    Only L s0 (State.commit s x2) := by
  unfold State.commit
  extract_lets n1 n2 n3 f4 s5
  have hf4 : ∀ a1 a2 a3, Only L s0 a1 → Only L s0 (f4 a1 a2 a3) := by
    intro a1 a2 a3 h
    unfold f4
    extract_lets n6
    refine Only.updObj (Part.sub hL (by decide)) ?_
    assumption
  have hs5 : Only L s0 s5 := by
    unfold s5
    refine hf4 _ _ _ ?_
    exact State.abandonPrev_only (Part.sub hL (by decide)) (by assumption)
  clear_value s5
  refine Only.ite ?_ ?_
  · split
    · refine State.conflict_only (Part.sub hL (by decide)) ?_
      exact State.discardWork_only (Part.sub hL (by decide)) (by assumption)
    · refine State.finish_only (Part.sub hL (by decide)) ?_
      refine State.countAccepted_only (Part.sub hL (by decide)) ?_
      refine State.keepDelta_only (Part.sub hL (by decide)) ?_
      refine State.commitCtx_only (Part.sub hL (by decide)) ?_
      exact State.settleUnits_only (Part.sub hL (by decide)) (by assumption)
  · split
    · refine State.fail_only (Part.sub hL (by decide)) ?_
      exact State.discardWork_only (Part.sub hL (by decide)) (by assumption)
    · extract_lets n7 n8
      refine Only.ite ?_ ?_
      · refine State.finish_only (Part.sub hL (by decide)) ?_
        refine State.countAccepted_only (Part.sub hL (by decide)) ?_
        refine State.commitCtx_only (Part.sub hL (by decide)) ?_
        refine State.settleUnits_only (Part.sub hL (by decide)) ?_
        refine hf4 _ _ _ ?_
        assumption
      · refine State.finish_only (Part.sub hL (by decide)) ?_
        refine State.keepDelta_only (Part.sub hL (by decide)) ?_
        refine State.commitCtx_only (Part.sub hL (by decide)) ?_
        refine State.settleUnits_only (Part.sub hL (by decide)) ?_
        refine hf4 _ _ _ ?_
        assumption

theorem State.commitNow_only {L : List Part} {s0 s : State} {x2}
    (hL : [.out, .host, .sq, .obj, .life, .tape, .disk, .trc, .grp, .red, .regs 0, .regs 4, .regs 8, .regs 16,
      .regs 40, .regs 49] ⊆ L) (h : Only L s0 s) :
    Only L s0 (State.commitNow s x2) := by
  unfold State.commitNow
  refine Only.ite ?_ ?_
  · exact State.commitDelete_only (Part.sub hL (by decide)) (by assumption)
  · exact State.commit_only (Part.sub hL (by decide)) (by assumption)

theorem State.commitGo_only {L : List Part} {s0 s : State} {x2}
    (hL : [.out, .host, .sq, .obj, .life, .tape, .disk, .trc, .grp, .red, .regs 0, .regs 4, .regs 8, .regs 16,
      .regs 40, .regs 49] ⊆ L) (h : Only L s0 s) :
    Only L s0 (State.commitGo s x2) := by
  unfold State.commitGo
  refine Only.ite ?_ ?_
  · assumption
  · refine Only.ite ?_ ?_
    · exact State.mirrorCommit_only (Part.sub hL (by decide)) (by assumption)
    · refine Only.ite ?_ ?_
      · exact State.commitNow_only (Part.sub hL (by decide)) (by assumption)
      · refine Only.ite ?_ ?_
        · refine State.confirmHome_only (Part.sub hL (by decide)) ?_
          exact State.commitNow_only (Part.sub hL (by decide)) (by assumption)
        · assumption

theorem State.commitReady_only {L : List Part} {s0 s : State}
    (hL : [.out, .host, .sq, .obj, .life, .tape, .disk, .trc, .grp, .red, .regs 0, .regs 4, .regs 8, .regs 16,
      .regs 40, .regs 49] ⊆ L) (h : Only L s0 s) :
    Only L s0 (State.commitReady s) := by
  unfold State.commitReady
  refine Only.foldl _ ?_ (fun s _ h => ?_)
  · assumption
  · split
    · exact State.commitGo_only (Part.sub hL (by decide)) (by assumption)
    · assumption

theorem State.takeBlocks_only {L : List Part} {s0 s : State} {x2 x3 x4}
    (hL : [.regs 12] ⊆ L) (h : Only L s0 s) :
    Only.Pair L s0 (State.takeBlocks s x2 x3 x4) := by
  unfold State.takeBlocks
  refine Only.itePair ?_ ?_
  · refine Only.pair ?_
    assumption
  · split
    extract_lets s1 s2
    have hs1 : Only L s0 s1 := by
      unfold s1
      exact State.addi_only (Part.sub hL (by decide)) (by assumption)
    clear_value s1
    have hs2 : Only L s0 s2 := by
      unfold s2
      exact State.add64_only (Part.sub hL (by decide)) (by assumption)
    clear_value s2
    refine Only.pair ?_
    assumption

theorem State.releaseUnits_only {L : List Part} {s0 s : State} {x2 x3 x4}
    (hL : [.out, .free, .host, .sq, .obj, .life, .tape, .mot, .disk, .trc, .grp, .red, .regs 0, .regs 4,
      .regs 8, .regs 12, .regs 16, .regs 32, .regs 40, .regs 49] ⊆ L) (h : Only L s0 s) :
    Only L s0 (State.releaseUnits s x2 x3 x4) := by
  unfold State.releaseUnits
  extract_lets n1 n2 n3
  split
  extract_lets s4 n5 s6 n7 s8
  have hs4 : Only L s0 s4 := by
    unfold s4
    refine State.add64_only (Part.sub hL (by decide)) ?_
    refine Only.of_eq ?_ (by assumption)
    exact State.sealUnits_only (Part.sub hL (by decide)) (by assumption)
  clear_value s4
  have hs6 : Only L s0 s6 := by
    unfold s6
    refine Only.updObj (Part.sub hL (by decide)) ?_
    assumption
  clear_value s6
  have hs8 : Only L s0 s8 := by
    unfold s8
    refine State.syncIngest_only (Part.sub hL (by decide)) ?_
    exact State.setCmd_only (Part.sub hL (by decide)) (by assumption)
  clear_value s8
  refine Only.ite ?_ ?_
  · assumption
  · exact State.placeUnits_only (Part.sub hL (by decide)) (by assumption)

theorem State.encode_only {L : List Part} {s0 s : State} {x2}
    (hL : [.out, .free, .host, .sq, .obj, .life, .tape, .mot, .disk, .trc, .grp, .red, .regs 0, .regs 4,
      .regs 8, .regs 12, .regs 16, .regs 32, .regs 40, .regs 49] ⊆ L) (h : Only L s0 s) :
    Only L s0 (State.encode s x2) := by
  unfold State.encode
  extract_lets n1
  refine Only.ite ?_ ?_
  · assumption
  · split
    · assumption
    · refine Only.ite ?_ ?_
      · refine State.fail_only (Part.sub hL (by decide)) ?_
        refine State.discardWork_only (Part.sub hL (by decide)) ?_
        exact State.wr_only (Part.sub hL (by decide)) (by assumption)
      · split
        refine State.releaseUnits_only (Part.sub hL (by decide)) ?_
        refine Only.of_eq ?_ (by assumption)
        exact State.takeBlocks_only (Part.sub hL (by decide)) (by assumption)

theorem State.groupCommit_only {L : List Part} {s0 s : State} {x2}
    (hL : [.out, .host, .sq, .obj, .life, .tape, .disk, .trc, .grp, .red, .regs 0, .regs 4, .regs 8, .regs 49] ⊆ L) (h : Only L s0 s) :
    Only L s0 (State.groupCommit s x2) := by
  unfold State.groupCommit
  extract_lets n1 s2 n3 n4
  have hs2 : Only L s0 s2 := State.setCmd_only (Part.sub hL (by decide)) h
  clear_value s2
  split
  · exact State.conflict_only (Part.sub hL (by decide)) (State.discardWork_only (Part.sub hL (by decide)) h)
  · refine Only.ite hs2 (Only.ite (State.sendSeq_only (Part.sub hL (by decide)) hs2) ?_)
    clear_value n4
    split
    · exact Only.foldl _ hs2 fun _ _ h => State.sendSeq_only (Part.sub hL (by decide)) h
    · exact hs2

theorem State.openGo_only {L : List Part} {s0 s : State} {x2 x3}
    (hL : [.out, .free, .host, .sq, .obj, .life, .tape, .mot, .disk, .trc, .grp, .red, .regs 0, .regs 4,
      .regs 8, .regs 16, .regs 32, .regs 40, .regs 49] ⊆ L) (h : Only L s0 s) :
    Only L s0 (State.openGo s x2 x3) := by
  unfold State.openGo
  extract_lets n1
  refine Only.ite ?_ ?_
  · exact State.conflict_only (Part.sub hL (by decide)) (by assumption)
  · refine Only.ite ?_ ?_
    · exact State.askHome_only (Part.sub hL (by decide)) (by assumption)
    · refine Only.ite ?_ ?_
      · exact State.setCmd_only (Part.sub hL (by decide)) (by assumption)
      · split
        · exact State.conflict_only (Part.sub hL (by decide)) (by assumption)
        · split
          · refine Only.of_opt ?_ (by assumption)
            exact State.keyBlocked_only (Part.sub hL (by decide)) (by assumption)
          · split
            · refine Only.of_opt ?_ (by assumption)
              exact State.writeBlocked_only (Part.sub hL (by decide)) (by assumption)
            · exact State.apply_only (Part.sub hL (by decide)) (by assumption)

theorem State.sealGo_only {L : List Part} {s0 s : State} {x2 x3}
    (hL : [.out, .free, .host, .sq, .obj, .life, .tape, .mot, .disk, .trc, .grp, .red, .regs 0, .regs 4,
      .regs 8, .regs 16, .regs 32, .regs 40, .regs 49] ⊆ L) (h : Only L s0 s) :
    Only L s0 (State.sealGo s x2 x3) := by
  unfold State.sealGo
  extract_lets n1 n2
  refine Only.ite ?_ ?_
  · exact State.conflict_only (Part.sub hL (by decide)) (by assumption)
  · split
    · refine Only.ite ?_ ?_
      · exact State.askHome_only (Part.sub hL (by decide)) (by assumption)
      · refine Only.ite ?_ ?_
        · assumption
        · exact State.fail_only (Part.sub hL (by decide)) (by assumption)
    · refine Only.ite ?_ ?_
      · exact State.fail_only (Part.sub hL (by decide)) (by assumption)
      · split
        · refine Only.of_opt ?_ (by assumption)
          exact State.writeBlocked_only (Part.sub hL (by decide)) (by assumption)
        · refine Only.ite ?_ ?_
          · exact State.fail_only (Part.sub hL (by decide)) (by assumption)
          · exact State.apply_only (Part.sub hL (by decide)) (by assumption)

theorem State.sequenced_only {L : List Part} {s0 s : State} {x2 x3 go}
    (hL : [.out, .host, .sq, .life, .trc, .grp, .regs 0, .regs 4, .regs 8, .regs 49] ⊆ L) (h : Only L s0 s)
    (hgo : ∀ a1 a2 a3, Only L s0 a1 → Only L s0 (go a1 a2 a3)) :
    Only L s0 (State.sequenced s x2 x3 go) := by
  unfold State.sequenced
  split
  · assumption
  · extract_lets n1
    split
    · exact State.finishWith_only (Part.sub hL (by decide)) (by assumption)
    · exact State.fail_only (Part.sub hL (by decide)) (by assumption)
    · refine hgo _ _ _ ?_
      assumption

theorem State.takeEngine_only {L : List Part} {s0 s : State} {x2}
    (hL : [.sq, .obj, .regs 12] ⊆ L) (h : Only L s0 s) :
    Only L s0 (State.takeEngine s x2) := by
  unfold State.takeEngine
  extract_lets n1
  refine Only.ite ?_ ?_
  · assumption
  · refine Only.ite ?_ ?_
    · refine State.setCmd_only (Part.sub hL (by decide)) ?_
      exact State.freeCtx_only (Part.sub hL (by decide)) (by assumption)
    · split
      · exact State.setCmd_only (Part.sub hL (by decide)) (by assumption)
      · refine State.setCmd_only (Part.sub hL (by decide)) ?_
        exact State.assignCtx_only (Part.sub hL (by decide)) (by assumption)

theorem State.tansyStep_only {L : List Part} {s0 s : State}
    (hL : [.out, .free, .host, .sq, .obj, .life, .tape, .mot, .disk, .trc, .grp, .red, .regs 0, .regs 4,
      .regs 8, .regs 12, .regs 16, .regs 32, .regs 40, .regs 49] ⊆ L) (h : Only L s0 s) :
    Only L s0 (State.tansyStep s) := by
  unfold State.tansyStep
  extract_lets s1
  have hs1 : Only L s0 s1 := by
    unfold s1
    refine Only.foldl _ ?_ (fun s _ h => ?_)
    · assumption
    · split
      · extract_lets s2
        have hs2 : Only L s0 s2 := by
          unfold s2
          exact State.takeEngine_only (Part.sub hL (by decide)) (by assumption)
        clear_value s2
        split
        · exact State.encode_only (Part.sub hL (by decide)) (by assumption)
        · assumption
      · assumption
  clear_value s1
  refine State.askAll_only (Part.sub hL (by decide)) ?_
  exact State.syncIngest_only (Part.sub hL (by decide)) (by assumption)

theorem execAcceptancePointReached_only {L : List Part} {s0 s : State} {x1}
    (hL : [.out, .host, .sq, .obj, .life, .tape, .disk, .trc, .grp, .red, .regs 0, .regs 4, .regs 8, .regs 16,
      .regs 40, .regs 49] ⊆ L) (h : Only L s0 s) :
    Only.Out L s0 (execAcceptancePointReached x1 s) := by
  unfold execAcceptancePointReached
  split
  · refine Only.next ?_
    assumption
  · refine Only.iteOut ?_ ?_
    · refine Only.next ?_
      assumption
    · refine Only.iteOut ?_ ?_
      · refine Only.next ?_
        refine State.commitReady_only (Part.sub hL (by decide)) ?_
        exact State.groupCommit_only (Part.sub hL (by decide)) (by assumption)
      · refine Only.next ?_
        exact State.commitNow_only (Part.sub hL (by decide)) (by assumption)

theorem execOpenCmd_only {L : List Part} {s0 s : State} {x1}
    (hL : [.out, .free, .host, .sq, .obj, .life, .tape, .mot, .disk, .trc, .grp, .red, .regs 0, .regs 4,
      .regs 8, .regs 16, .regs 32, .regs 40, .regs 49] ⊆ L) (h : Only L s0 s) :
    Only.Out L s0 (execOpenCmd x1 s) := by
  unfold execOpenCmd
  refine Only.next ?_
  refine State.sequenced_only (Part.sub hL (by decide)) ?_ (fun s _ _ h => ?_)
  · assumption
  · exact State.openGo_only (Part.sub hL (by decide)) (by assumption)

theorem execAppendCmd_only {L : List Part} {s0 s : State} {x1}
    (hL : [.out, .free, .host, .sq, .obj, .life, .tape, .mot, .disk, .trc, .grp, .red, .regs 0, .regs 4,
      .regs 8, .regs 16, .regs 32, .regs 40, .regs 49] ⊆ L) (h : Only L s0 s) :
    Only.Out L s0 (execAppendCmd x1 s) := by
  unfold execAppendCmd
  refine Only.next ?_
  refine State.sequenced_only (Part.sub hL (by decide)) ?_ (fun s _ _ h => ?_)
  · assumption
  · exact State.appendGo_only (Part.sub hL (by decide)) (by assumption)

theorem execSealCmd_only {L : List Part} {s0 s : State} {x1}
    (hL : [.out, .free, .host, .sq, .obj, .life, .tape, .mot, .disk, .trc, .grp, .red, .regs 0, .regs 4,
      .regs 8, .regs 16, .regs 32, .regs 40, .regs 49] ⊆ L) (h : Only L s0 s) :
    Only.Out L s0 (execSealCmd x1 s) := by
  unfold execSealCmd
  refine Only.next ?_
  refine State.sequenced_only (Part.sub hL (by decide)) ?_ (fun s _ _ h => ?_)
  · assumption
  · exact State.sealGo_only (Part.sub hL (by decide)) (by assumption)

theorem execDeleteCmd_only {L : List Part} {s0 s : State} {x1}
    (hL : [.out, .free, .host, .sq, .obj, .life, .tape, .mot, .disk, .trc, .grp, .red, .regs 0, .regs 4,
      .regs 8, .regs 16, .regs 32, .regs 40, .regs 49] ⊆ L) (h : Only L s0 s) :
    Only.Out L s0 (execDeleteCmd x1 s) := by
  unfold execDeleteCmd
  split
  · refine Only.next ?_
    assumption
  · extract_lets n1 n2 s3
    have hs3 : Only L s0 s3 := by
      unfold s3
      refine Only.updObj (Part.sub hL (by decide)) ?_
      assumption
    clear_value s3
    refine Only.iteOut ?_ ?_
    · refine Only.next ?_
      exact State.askHome_only (Part.sub hL (by decide)) (by assumption)
    · split
      · refine Only.next ?_
        exact State.finish_only (Part.sub hL (by decide)) (by assumption)
      · refine Only.iteOut ?_ ?_
        · refine Only.next ?_
          exact State.conflict_only (Part.sub hL (by decide)) (by assumption)
        · split
          · refine Only.next ?_
            refine Only.of_opt ?_ (by assumption)
            exact State.writeBlocked_only (Part.sub hL (by decide)) (by assumption)
          · refine Only.next ?_
            exact State.startDelta_only (Part.sub hL (by decide)) (by assumption)

theorem execTansyResume_only {L : List Part} {s0 s : State} {x1 x2}
    (hL : [.out, .free, .host, .sq, .obj, .life, .tape, .mot, .disk, .trc, .grp, .red, .regs 0, .regs 4,
      .regs 8, .regs 12, .regs 16, .regs 32, .regs 40, .regs 49] ⊆ L) (h : Only L s0 s) :
    Only.Out L s0 (execTansyResume x1 x2 s) := by
  unfold execTansyResume
  split
  · refine Only.next ?_
    assumption
  · refine Only.iteOut ?_ ?_
    · refine Only.next ?_
      assumption
    · refine Only.iteOut ?_ ?_
      · refine Only.next ?_
        refine State.fail_only (Part.sub hL (by decide)) ?_
        refine State.discardWork_only (Part.sub hL (by decide)) ?_
        exact State.wr_only (Part.sub hL (by decide)) (by assumption)
      · refine Only.next ?_
        exact State.encode_only (Part.sub hL (by decide)) (by assumption)

end Sys2Proof.Machine
end

