-- ==== Sys2Proof/Laws/OnlyQueries.lean ====
section
/-!
SUPPORT. The parts of the state that an operation of Machine/Queries.lean may change (Laws/Only.lean).
-/

set_option Elab.async false

namespace Sys2Proof.Machine

theorem State.discardSlots_only {L : List Part} {s0 s : State} {x2 x3}
    (hL : [.sq] ⊆ L) (h : Only L s0 s) :
    Only L s0 (State.discardSlots s x2 x3) := by
  unfold State.discardSlots
  extract_lets n1
  refine Only.updSq (Part.sub hL (by decide)) ?_
  assumption

theorem State.endUnstarted_only {L : List Part} {s0 s : State} {x2 x3}
    (hL : [.out, .host, .sq, .obj, .life, .tape, .disk, .trc, .grp, .red, .regs 0, .regs 4, .regs 8, .regs 49] ⊆ L) (h : Only L s0 s) :
    Only L s0 (State.endUnstarted s x2 x3) := by
  unfold State.endUnstarted
  refine Only.foldl _ ?_ (fun s _ h => ?_)
  · assumption
  · split
    · refine Only.ite ?_ ?_
      · assumption
      · refine State.fail_only (Part.sub hL (by decide)) ?_
        exact State.discardWork_only (Part.sub hL (by decide)) (by assumption)
    · assumption

theorem State.closeOpen_only {L : List Part} {s0 s : State}
    (hL : [.out, .free, .host, .sq, .obj, .life, .tape, .mot, .disk, .trc, .grp, .red, .regs 0, .regs 4,
      .regs 8, .regs 16, .regs 32, .regs 40, .regs 49] ⊆ L) (h : Only L s0 s) :
    Only L s0 (State.closeOpen s) := by
  unfold State.closeOpen
  refine Only.ite ?_ ?_
  · refine State.redStep_only (Part.sub hL (by decide)) ?_
    exact State.closeStripe_only (Part.sub hL (by decide)) (by assumption)
  · assumption

theorem State.scatter_only {L : List Part} {s0 s : State} {x2 x3 x4}
    (hL : [.out] ⊆ L) (h : Only L s0 s) :
    Only L s0 (State.scatter s x2 x3 x4) := by
  induction x3 generalizing s x2 x4 with
  | nil =>
    rw [State.scatter]
    assumption
  | cons y l ih =>
    rw [State.scatter]
    refine Only.ite ?_ ?_
    · assumption
    · refine ih ?_
      exact State.emit_only (Part.sub hL (by decide)) (by assumption)

theorem State.deliver_only {L : List Part} {s0 s : State} {x2 x3 x4}
    (hL : [.out] ⊆ L) (h : Only L s0 s) :
    Only L s0 (State.deliver s x2 x3 x4) := by
  unfold State.deliver
  exact State.scatter_only (Part.sub hL (by decide)) (by assumption)

theorem State.dropMedia_only {L : List Part} {s0 s : State} {x2}
    (hL : [.mot, .disk, .medium] ⊆ L) (h : Only L s0 s) :
    Only L s0 (State.dropMedia s x2) := by
  unfold State.dropMedia
  extract_lets n1 n2 n3 s4 s5
  have hs4 : Only L s0 s4 := by
    unfold s4
    exact State.setMot_only (Part.sub hL (by decide)) (by assumption)
  clear_value s4
  have hs5 : Only L s0 s5 := by
    unfold s5
    exact State.setMot_only (Part.sub hL (by decide)) (by assumption)
  clear_value s5
  refine Only.ite ?_ ?_
  · assumption
  · refine Only.ite ?_ ?_
    · refine Only.updMedium (Part.sub hL (by decide)) ?_
      assumption
    · refine Only.ite ?_ ?_
      · refine Only.updMedium (Part.sub hL (by decide)) ?_
        assumption
      · refine Only.ite ?_ ?_
        · refine Only.ite ?_ ?_
          · refine Only.updMedium (Part.sub hL (by decide)) ?_
            assumption
          · refine Only.updMedium (Part.sub hL (by decide)) ?_
            assumption
        · refine Only.ite ?_ ?_
          · refine Only.updMedium (Part.sub hL (by decide)) ?_
            assumption
          · refine Only.ite ?_ ?_
            · split
              · assumption
              · extract_lets n6 n7 s8 n9
                have hs8 : Only L s0 s8 := by
                  unfold s8
                  refine State.dropClean_only (Part.sub hL (by decide)) ?_
                  exact State.setZone_only (Part.sub hL (by decide)) (by assumption)
                clear_value s8
                refine State.rewriteTable_only (Part.sub hL (by decide)) ?_
                exact State.setDisk_only (Part.sub hL (by decide)) (by assumption)
            · assumption

theorem State.stopActivation_only {L : List Part} {s0 s : State}
    (hL : [.boot, .regs 4, .regs 48] ⊆ L) (h : Only L s0 s) :
    Only L s0 (State.stopActivation s) := by
  unfold State.stopActivation
  extract_lets s1 n2
  have hs1 : Only L s0 s1 := by
    unfold s1
    refine Only.ite ?_ ?_
    · assumption
    · refine State.wr_only (Part.sub hL (by decide)) ?_
      refine State.wr_only (Part.sub hL (by decide)) ?_
      exact State.wr_only (Part.sub hL (by decide)) (by assumption)
  clear_value s1
  refine Only.ite ?_ ?_
  · assumption
  · refine Only.updBoot (Part.sub hL (by decide)) ?_
    assumption

theorem State.dropAdmin_only {L : List Part} {s0 s : State} {x2}
    (hL : [.boot, .mot, .disk, .medium, .grp, .regs 4, .regs 48] ⊆ L) (h : Only L s0 s) :
    Only L s0 (State.dropAdmin s x2) := by
  unfold State.dropAdmin
  extract_lets n1 n2 n3 n4
  refine Only.ite ?_ ?_
  · exact State.setGrp_only (Part.sub hL (by decide)) (by assumption)
  · refine Only.ite ?_ ?_
    · exact State.dropMedia_only (Part.sub hL (by decide)) (by assumption)
    · refine Only.ite ?_ ?_
      · exact State.stopActivation_only (Part.sub hL (by decide)) (by assumption)
      · refine Only.ite ?_ ?_
        · refine Only.updBoot (Part.sub hL (by decide)) ?_
          assumption
        · assumption

theorem State.getEnd_only {L : List Part} {s0 s : State} {x2 x3}
    (hL : [.out, .host, .sq, .obj, .life, .tape, .disk, .trc, .grp, .red, .pwr, .regs 0, .regs 4, .regs 8,
      .regs 16, .regs 32, .regs 49] ⊆ L) (h : Only L s0 s) :
    Only L s0 (State.getEnd s x2 x3) := by
  unfold State.getEnd
  extract_lets s1
  have hs1 : Only L s0 s1 := by
    unfold s1
    exact State.consumeSets_only (Part.sub hL (by decide)) (by assumption)
  clear_value s1
  split
  · refine State.sweepGone_only (Part.sub hL (by decide)) ?_
    exact State.finish_only (Part.sub hL (by decide)) (by assumption)
  · split
    · refine Only.ite ?_ ?_
      · refine State.sweepGone_only (Part.sub hL (by decide)) ?_
        exact State.fail_only (Part.sub hL (by decide)) (by assumption)
      · refine State.sweepGone_only (Part.sub hL (by decide)) ?_
        exact State.finish_only (Part.sub hL (by decide)) (by assumption)
    · refine State.sweepGone_only (Part.sub hL (by decide)) ?_
      exact State.finish_only (Part.sub hL (by decide)) (by assumption)

theorem State.lookup_only {L : List Part} {s0 s : State} {x2}
    (hL : [.regs 10] ⊆ L) (h : Only L s0 s) :
    Only L s0 (State.lookup s x2) := by
  unfold State.lookup
  refine Only.ite ?_ ?_
  · exact State.inc_only (Part.sub hL (by decide)) (by assumption)
  · exact State.inc_only (Part.sub hL (by decide)) (by assumption)

theorem State.withMedium_only {L : List Part} {s0 s : State} {x2 x3 go}
    (hL : [.out, .host, .sq, .life, .trc, .grp, .regs 0, .regs 4, .regs 8, .regs 49] ⊆ L) (h : Only L s0 s)
    (hgo : ∀ a1, Only L s0 a1 → Only L s0 (go a1)) :
    Only L s0 (State.withMedium s x2 x3 go) := by
  unfold State.withMedium
  split
  · refine hgo _ ?_
    assumption
  · exact State.setCmd_only (Part.sub hL (by decide)) (by assumption)
  · exact State.conflict_only (Part.sub hL (by decide)) (by assumption)

theorem State.getRun_only {L : List Part} {s0 s : State} {x1 x3 x4}
    (hL : [.out, .host, .sq, .obj, .life, .tape, .mot, .disk, .trc, .grp, .red, .pwr, .regs 0, .regs 4,
      .regs 8, .regs 12, .regs 16, .regs 32, .regs 49] ⊆ L) (h : Only L s0 s) :
    Only L s0 (State.getRun x1 s x3 x4) := by
  induction x1 generalizing s x3 x4 with
  | zero =>
    rw [State.getRun]
    assumption
  | succ n ih =>
    rw [State.getRun]
    split
    · assumption
    · split
      · refine State.sweepGone_only (Part.sub hL (by decide)) ?_
        exact State.fail_only (Part.sub hL (by decide)) (by assumption)
      · extract_lets n1 n2 n3 n4
        refine Only.ite ?_ ?_
        · exact State.getEnd_only (Part.sub hL (by decide)) (by assumption)
        · split
          · extract_lets n5
            refine ih ?_
            exact State.setCmd_only (Part.sub hL (by decide)) (by assumption)
          · refine Only.ite ?_ ?_
            · exact State.setCmd_only (Part.sub hL (by decide)) (by assumption)
            · split
              · refine State.seekSet_only (Part.sub hL (by decide)) ?_
                exact State.setCmd_only (Part.sub hL (by decide)) (by assumption)
              · split
                · extract_lets s6 n7
                  have hs6 : Only L s0 s6 := by
                    unfold s6
                    refine State.lifeAdd_only (Part.sub hL (by decide)) ?_
                    exact State.deliver_only (Part.sub hL (by decide)) (by assumption)
                  clear_value s6
                  refine ih ?_
                  exact State.setCmd_only (Part.sub hL (by decide)) (by assumption)
                · refine State.fetchUnit_only (Part.sub hL (by decide)) ?_
                  exact State.setCmd_only (Part.sub hL (by decide)) (by assumption)
                · refine ih ?_
                  exact State.setCmd_only (Part.sub hL (by decide)) (by assumption)
                · refine State.sweepGone_only (Part.sub hL (by decide)) ?_
                  exact State.fail_only (Part.sub hL (by decide)) (by assumption)
                · refine State.sweepGone_only (Part.sub hL (by decide)) ?_
                  refine State.fail_only (Part.sub hL (by decide)) ?_
                  exact State.wr_only (Part.sub hL (by decide)) (by assumption)
                · refine State.sweepGone_only (Part.sub hL (by decide)) ?_
                  refine State.fail_only (Part.sub hL (by decide)) ?_
                  refine State.wr_only (Part.sub hL (by decide)) ?_
                  exact State.inc_only (Part.sub hL (by decide)) (by assumption)

theorem State.getGo_only {L : List Part} {s0 s : State} {x2 x3 x4 x5}
    (hL : [.out, .host, .sq, .obj, .life, .tape, .mot, .disk, .trc, .grp, .red, .pwr, .regs 0, .regs 4,
      .regs 8, .regs 10, .regs 12, .regs 16, .regs 32, .regs 49] ⊆ L) (h : Only L s0 s) :
    Only L s0 (State.getGo s x2 x3 x4 x5) := by
  unfold State.getGo
  extract_lets s1
  have hs1 : Only L s0 s1 := by
    unfold s1
    exact State.lookup_only (Part.sub hL (by decide)) (by assumption)
  clear_value s1
  refine Only.ite ?_ ?_
  · exact State.askHome_only (Part.sub hL (by decide)) (by assumption)
  · split
    · exact State.fail_only (Part.sub hL (by decide)) (by assumption)
    · split
      · refine Only.of_opt ?_ (by assumption)
        exact State.keyBlocked_only (Part.sub hL (by decide)) (by assumption)
      · extract_lets n2 n3 n4
        refine Only.ite ?_ ?_
        · exact State.fail_only (Part.sub hL (by decide)) (by assumption)
        · refine Only.ite ?_ ?_
          · exact State.setCmd_only (Part.sub hL (by decide)) (by assumption)
          · refine State.withMedium_only (Part.sub hL (by decide)) ?_ (fun s h => ?_)
            · assumption
            · refine State.getRun_only (Part.sub hL (by decide)) ?_
              exact State.setCmd_only (Part.sub hL (by decide)) (by assumption)

theorem State.listGo_only {L : List Part} {s0 s : State} {x2 x3}
    (hL : [.out, .host, .sq, .obj, .life, .trc, .grp, .regs 0, .regs 4, .regs 8, .regs 10, .regs 49] ⊆ L) (h : Only L s0 s) :
    Only L s0 (State.listGo s x2 x3) := by
  unfold State.listGo
  extract_lets s1 n2 n3 s4 n5 n6 n7 s8
  have hs1 : Only L s0 s1 := by
    unfold s1
    exact State.lookup_only (Part.sub hL (by decide)) (by assumption)
  clear_value s1
  have hs4 : Only L s0 s4 := by
    unfold s4
    exact State.deliver_only (Part.sub hL (by decide)) (by assumption)
  clear_value s4
  have hs8 : Only L s0 s8 := by
    unfold s8
    refine Only.updObj (Part.sub hL (by decide)) ?_
    assumption
  clear_value s8
  refine Only.ite ?_ ?_
  · exact State.setCmd_only (Part.sub hL (by decide)) (by assumption)
  · refine Only.ite ?_ ?_
    · exact State.finish_only (Part.sub hL (by decide)) (by assumption)
    · exact State.finish_only (Part.sub hL (by decide)) (by assumption)

theorem State.statGo_only {L : List Part} {s0 s : State} {x2 x3}
    (hL : [.out, .host, .sq, .life, .trc, .grp, .regs 0, .regs 4, .regs 8, .regs 10, .regs 49] ⊆ L) (h : Only L s0 s) :
    Only L s0 (State.statGo s x2 x3) := by
  unfold State.statGo
  refine Only.ite ?_ ?_
  · exact State.askHome_only (Part.sub hL (by decide)) (by assumption)
  · split
    · refine State.fail_only (Part.sub hL (by decide)) ?_
      exact State.lookup_only (Part.sub hL (by decide)) (by assumption)
    · refine State.finish_only (Part.sub hL (by decide)) ?_
      exact State.lookup_only (Part.sub hL (by decide)) (by assumption)

theorem execLogCopy_only {L : List Part} {s0 s : State}
    (hL : [.obj, .life, .tape, .mot, .regs 16, .regs 32] ⊆ L) (h : Only L s0 s) :
    Only.Out L s0 (execLogCopy s) := by
  unfold execLogCopy
  extract_lets n1 n2 s3
  have hs3 : Only L s0 s3 := by
    unfold s3
    refine Only.updLife (Part.sub hL (by decide)) ?_
    assumption
  clear_value s3
  refine Only.iteOut ?_ ?_
  · refine Only.iteOut ?_ ?_
    · refine Only.next ?_
      assumption
    · split
      extract_lets n4 s5
      have hs5 : Only L s0 s5 := by
        unfold s5
        refine Only.updObj (Part.sub hL (by decide)) ?_
        refine Only.of_eq ?_ (by assumption)
        exact State.addUnits_only (Part.sub hL (by decide)) (by assumption)
      clear_value s5
      refine Only.next ?_
      exact State.tapeTake_only (Part.sub hL (by decide)) (by assumption)
  · refine Only.next ?_
    assumption

theorem execGetCmd_only {L : List Part} {s0 s : State} {x1 x2 x3 x4}
    (hL : [.out, .host, .sq, .obj, .life, .tape, .mot, .disk, .trc, .grp, .red, .pwr, .regs 0, .regs 4,
      .regs 8, .regs 10, .regs 12, .regs 16, .regs 32, .regs 49] ⊆ L) (h : Only L s0 s) :
    Only.Out L s0 (execGetCmd x1 x2 x3 x4 s) := by
  unfold execGetCmd
  split
  · refine Only.next ?_
    assumption
  · refine Only.next ?_
    refine State.withMedium_only (Part.sub hL (by decide)) ?_ (fun s h => ?_)
    · assumption
    · exact State.getGo_only (Part.sub hL (by decide)) (by assumption)

theorem execStatCmd_only {L : List Part} {s0 s : State} {x1 x2}
    (hL : [.out, .host, .sq, .life, .trc, .grp, .regs 0, .regs 4, .regs 8, .regs 10, .regs 49] ⊆ L) (h : Only L s0 s) :
    Only.Out L s0 (execStatCmd x1 x2 s) := by
  unfold execStatCmd
  split
  · refine Only.next ?_
    assumption
  · refine Only.iteOut ?_ ?_
    · refine Only.next ?_
      exact State.finish_only (Part.sub hL (by decide)) (by assumption)
    · refine Only.next ?_
      refine State.withMedium_only (Part.sub hL (by decide)) ?_ (fun s h => ?_)
      · assumption
      · exact State.statGo_only (Part.sub hL (by decide)) (by assumption)

theorem execListCmd_only {L : List Part} {s0 s : State} {x1 x2}
    (hL : [.out, .host, .sq, .obj, .life, .trc, .grp, .regs 0, .regs 4, .regs 8, .regs 10, .regs 49] ⊆ L) (h : Only L s0 s) :
    Only.Out L s0 (execListCmd x1 x2 s) := by
  unfold execListCmd
  split
  · refine Only.next ?_
    assumption
  · refine Only.next ?_
    refine State.withMedium_only (Part.sub hL (by decide)) ?_ (fun s h => ?_)
    · assumption
    · exact State.listGo_only (Part.sub hL (by decide)) (by assumption)

theorem execBarrierCmd_only {L : List Part} {s0 s : State} {x1}
    (hL : [.out, .free, .host, .sq, .obj, .life, .tape, .mot, .disk, .trc, .grp, .red, .regs 0, .regs 4,
      .regs 8, .regs 16, .regs 32, .regs 40, .regs 49] ⊆ L) (h : Only L s0 s) :
    Only.Out L s0 (execBarrierCmd x1 s) := by
  unfold execBarrierCmd
  split
  · refine Only.next ?_
    assumption
  · extract_lets s1
    have hs1 : Only L s0 s1 := by
      unfold s1
      refine State.closeOpen_only (Part.sub hL (by decide)) ?_
      exact State.setCmd_only (Part.sub hL (by decide)) (by assumption)
    clear_value s1
    refine Only.next ?_
    exact State.settle_only (Part.sub hL (by decide)) (by assumption)

theorem execFlushCmd_only {L : List Part} {s0 s : State} {x1}
    (hL : [.out, .free, .host, .sq, .obj, .life, .tape, .mot, .disk, .trc, .grp, .red, .regs 0, .regs 4,
      .regs 8, .regs 16, .regs 32, .regs 40, .regs 49] ⊆ L) (h : Only L s0 s) :
    Only.Out L s0 (execFlushCmd x1 s) := by
  unfold execFlushCmd
  split
  · refine Only.next ?_
    assumption
  · extract_lets n1 n2 n3 n4 s5 s6 s7
    have hs5 : Only L s0 s5 := by
      unfold s5
      exact State.setCmd_only (Part.sub hL (by decide)) (by assumption)
    clear_value s5
    have hs6 : Only L s0 s6 := by
      unfold s6
      refine State.discardSlots_only (Part.sub hL (by decide)) ?_
      exact State.endUnstarted_only (Part.sub hL (by decide)) (by assumption)
    clear_value s6
    have hs7 : Only L s0 s7 := by
      unfold s7
      exact State.closeOpen_only (Part.sub hL (by decide)) (by assumption)
    clear_value s7
    refine Only.next ?_
    exact State.settle_only (Part.sub hL (by decide)) (by assumption)

theorem execAbortCmd_only {L : List Part} {s0 s : State} {x1}
    (hL : [.out, .host, .sq, .obj, .life, .boot, .tape, .mot, .disk, .medium, .trc, .grp, .red, .regs 0,
      .regs 4, .regs 8, .regs 48, .regs 49] ⊆ L) (h : Only L s0 s) :
    Only.Out L s0 (execAbortCmd x1 s) := by
  unfold execAbortCmd
  split
  · refine Only.next ?_
    assumption
  · split
    · refine Only.next ?_
      exact State.fail_only (Part.sub hL (by decide)) (by assumption)
    · extract_lets s1 n2 s3
      have hs1 : Only L s0 s1 := by
        unfold s1
        exact State.setCmd_only (Part.sub hL (by decide)) (by assumption)
      clear_value s1
      have hs3 : Only L s0 s3 := by
        unfold s3
        refine Only.updSq (Part.sub hL (by decide)) ?_
        assumption
      clear_value s3
      refine Only.iteOut ?_ ?_
      · refine Only.next ?_
        exact State.fail_only (Part.sub hL (by decide)) (by assumption)
      · refine Only.next ?_
        refine State.fail_only (Part.sub hL (by decide)) ?_
        refine State.dropAdmin_only (Part.sub hL (by decide)) ?_
        exact State.discardWork_only (Part.sub hL (by decide)) (by assumption)

theorem execHealthCmd_only {L : List Part} {s0 s : State} {x1}
    (hL : [.out, .host, .sq, .life, .trc, .grp, .regs 0, .regs 4, .regs 8, .regs 49] ⊆ L) (h : Only L s0 s) :
    Only.Out L s0 (execHealthCmd x1 s) := by
  unfold execHealthCmd
  split
  · refine Only.next ?_
    assumption
  · refine Only.next ?_
    refine State.finish_only (Part.sub hL (by decide)) ?_
    exact State.deliver_only (Part.sub hL (by decide)) (by assumption)

theorem execLogRead_only {L : List Part} {s0 s : State} {x1}
    (hL : [.out, .host, .sq, .life, .trc, .grp, .regs 0, .regs 4, .regs 8, .regs 49] ⊆ L) (h : Only L s0 s) :
    Only.Out L s0 (execLogRead x1 s) := by
  unfold execLogRead
  split
  · refine Only.next ?_
    assumption
  · extract_lets n1 n2
    refine Only.next ?_
    refine State.finish_only (Part.sub hL (by decide)) ?_
    exact State.deliver_only (Part.sub hL (by decide)) (by assumption)

theorem execDecompressResume_only {L : List Part} {s0 s : State} {x1 x2 x3}
    (hL : [.out, .host, .sq, .obj, .life, .tape, .mot, .disk, .trc, .grp, .red, .pwr, .regs 0, .regs 4,
      .regs 8, .regs 12, .regs 16, .regs 32, .regs 49] ⊆ L) (h : Only L s0 s) :
    Only.Out L s0 (execDecompressResume x1 x2 x3 s) := by
  unfold execDecompressResume
  split
  · refine Only.iteOut ?_ ?_
    · refine Only.iteOut ?_ ?_
      · refine Only.next ?_
        refine State.sweepGone_only (Part.sub hL (by decide)) ?_
        refine State.fail_only (Part.sub hL (by decide)) ?_
        exact State.wr_only (Part.sub hL (by decide)) (by assumption)
      · refine Only.next ?_
        refine State.getRun_only (Part.sub hL (by decide)) ?_
        exact State.setCmd_only (Part.sub hL (by decide)) (by assumption)
    · refine Only.next ?_
      assumption
  · refine Only.next ?_
    assumption

end Sys2Proof.Machine
end

