-- ==== Sys2Proof/Laws/OnlyImages.lean ====
section
/-!
SUPPORT. The parts of the state that an operation of Machine/Images.lean may change (Laws/Only.lean).
-/

set_option Elab.async false

namespace Sys2Proof.Machine

theorem State.setBoot_only {L : List Part} {s0 s : State} {x2}
    (hL : [.boot] ⊆ L) (h : Only L s0 s) :
    Only L s0 (State.setBoot s x2) := Only.updBoot hL h

theorem State.applyImage_only {L : List Part} {s0 s : State}
    (hL : [.out, .host, .life, .boot, .trc, .regs 0, .regs 1, .regs 2, .regs 3, .regs 4, .regs 8, .regs 10,
      .regs 12, .regs 16, .regs 20, .regs 24, .regs 28, .regs 32, .regs 33, .regs 36, .regs 40, .regs 44,
      .regs 48, .regs 49] ⊆ L) (h : Only L s0 s) :
    Only L s0 (State.applyImage s) := by
  unfold State.applyImage
  extract_lets n1 n2 n3 n4 n5 n6 n7 n8 s9 n10 s11 s12 n13
  have hs9 : Only L s0 s9 := by
    unfold s9
    refine State.syncIngest_only (Part.sub hL (by decide)) ?_
    refine Only.foldl _ ?_ (fun s _ h => ?_)
    · assumption
    · exact State.applyRec_only (Part.sub hL (by decide)) (by assumption)
  clear_value s9
  have hs11 : Only L s0 s11 := by
    unfold s11
    exact State.setBoot_only (Part.sub hL (by decide)) (by assumption)
  clear_value s11
  have hs12 : Only L s0 s12 := by
    unfold s12
    refine Only.ite ?_ ?_
    · assumption
    · exact State.raise_only (Part.sub hL (by decide)) (by assumption)
  clear_value s12
  exact State.writeImgRec_only (Part.sub hL (by decide)) (by assumption)

theorem State.sendParts_only {L : List Part} {s0 s : State} {x2 x3 x4}
    (hL : [.out, .sq, .grp] ⊆ L) (h : Only L s0 s) :
    Only L s0 (State.sendParts s x2 x3 x4) := by
  unfold State.sendParts
  split
  · assumption
  · refine Only.foldl _ ?_ (fun s _ h => ?_)
    · assumption
    · refine Only.ite ?_ ?_
      · exact State.sendMgmtCmd_only (Part.sub hL (by decide)) (by assumption)
      · split
        · exact State.setCmd_only (Part.sub hL (by decide)) (by assumption)
        · assumption

theorem State.endActivation_only {L : List Part} {s0 s : State} {x2}
    (hL : [.out, .host, .sq, .life, .boot, .trc, .grp, .regs 0, .regs 4, .regs 8, .regs 48, .regs 49] ⊆ L) (h : Only L s0 s) :
    Only L s0 (State.endActivation s x2) := by
  unfold State.endActivation
  extract_lets s1 n2 s3 s4
  have hs1 : Only L s0 s1 := by
    unfold s1
    refine State.wr_only (Part.sub hL (by decide)) ?_
    exact State.wr_only (Part.sub hL (by decide)) (by assumption)
  clear_value s1
  have hs3 : Only L s0 s3 := by
    unfold s3
    refine State.setBoot_only (Part.sub hL (by decide)) ?_
    exact State.wr_only (Part.sub hL (by decide)) (by assumption)
  clear_value s3
  have hs4 : Only L s0 s4 := by
    unfold s4
    exact State.raise_only (Part.sub hL (by decide)) (by assumption)
  clear_value s4
  refine Only.ite ?_ ?_
  · assumption
  · exact State.finish_only (Part.sub hL (by decide)) (by assumption)

theorem State.beginQuiesce_only {L : List Part} {s0 s : State} {x2}
    (hL : [.out, .host, .sq, .obj, .life, .boot, .tape, .disk, .trc, .grp, .red, .regs 0, .regs 4, .regs 8,
      .regs 48, .regs 49] ⊆ L) (h : Only L s0 s) :
    Only L s0 (State.beginQuiesce s x2) := by
  unfold State.beginQuiesce
  extract_lets s1 s2 n3 s4 s5
  have hs1 : Only L s0 s1 := by
    unfold s1
    exact State.setCmd_only (Part.sub hL (by decide)) (by assumption)
  clear_value s1
  have hs2 : Only L s0 s2 := by
    unfold s2
    refine State.wr_only (Part.sub hL (by decide)) ?_
    exact State.wr_only (Part.sub hL (by decide)) (by assumption)
  clear_value s2
  have hs4 : Only L s0 s4 := by
    unfold s4
    refine State.setBoot_only (Part.sub hL (by decide)) ?_
    exact State.wr_only (Part.sub hL (by decide)) (by assumption)
  clear_value s4
  have hs5 : Only L s0 s5 := by
    unfold s5
    exact State.raise_only (Part.sub hL (by decide)) (by assumption)
  clear_value s5
  refine State.discardSlots_only (Part.sub hL (by decide)) ?_
  exact State.endUnstarted_only (Part.sub hL (by decide)) (by assumption)

theorem State.activateStep_only {L : List Part} {s0 s : State} {x2}
    (hL : [.out, .host, .sq, .obj, .life, .boot, .tape, .disk, .trc, .grp, .red, .regs 0, .regs 4, .regs 8,
      .regs 48, .regs 49] ⊆ L) (h : Only L s0 s) :
    Only L s0 (State.activateStep s x2) := by
  unfold State.activateStep
  extract_lets n1 s2 n3 s4
  have hs2 : Only L s0 s2 := by
    unfold s2
    exact State.setBoot_only (Part.sub hL (by decide)) (by assumption)
  clear_value s2
  have hs4 : Only L s0 s4 := by
    unfold s4
    refine Only.ite ?_ ?_
    · exact State.writeImgRec_only (Part.sub hL (by decide)) (by assumption)
    · assumption
  clear_value s4
  refine Only.ite ?_ ?_
  · exact State.endActivation_only (Part.sub hL (by decide)) (by assumption)
  · refine Only.ite ?_ ?_
    · assumption
    · refine Only.ite ?_ ?_
      · exact State.finish_only (Part.sub hL (by decide)) (by assumption)
      · refine Only.ite ?_ ?_
        · exact State.finish_only (Part.sub hL (by decide)) (by assumption)
        · refine Only.ite ?_ ?_
          · exact State.finish_only (Part.sub hL (by decide)) (by assumption)
          · exact State.beginQuiesce_only (Part.sub hL (by decide)) (by assumption)

theorem State.activateGo_only {L : List Part} {s0 s : State} {x2}
    (hL : [.out, .host, .sq, .obj, .life, .boot, .tape, .disk, .trc, .grp, .red, .regs 0, .regs 1, .regs 2,
      .regs 3, .regs 4, .regs 8, .regs 10, .regs 12, .regs 16, .regs 20, .regs 24, .regs 28, .regs 32,
      .regs 33, .regs 36, .regs 40, .regs 44, .regs 48, .regs 49] ⊆ L) (h : Only L s0 s) :
    Only L s0 (State.activateGo s x2) := by
  unfold State.activateGo
  extract_lets n1 n2 n3 n4 s5 s6
  have hs5 : Only L s0 s5 := by
    unfold s5
    refine State.setBoot_only (Part.sub hL (by decide)) ?_
    exact State.setCmd_only (Part.sub hL (by decide)) (by assumption)
  clear_value s5
  have hs6 : Only L s0 s6 := by
    unfold s6
    exact State.sendParts_only (Part.sub hL (by decide)) (by assumption)
  clear_value s6
  refine Only.ite ?_ ?_
  · refine State.finish_only (Part.sub hL (by decide)) ?_
    exact State.applyImage_only (Part.sub hL (by decide)) (by assumption)
  · refine Only.ite ?_ ?_
    · exact State.conflict_only (Part.sub hL (by decide)) (by assumption)
    · split
      · exact State.activateStep_only (Part.sub hL (by decide)) (by assumption)
      · assumption

theorem State.activateCmd_only {L : List Part} {s0 s : State} {x2 x3}
    (hL : [.out, .host, .sq, .obj, .life, .boot, .tape, .disk, .trc, .grp, .red, .regs 0, .regs 1, .regs 2,
      .regs 3, .regs 4, .regs 8, .regs 10, .regs 12, .regs 16, .regs 20, .regs 24, .regs 28, .regs 32,
      .regs 33, .regs 36, .regs 40, .regs 44, .regs 48, .regs 49] ⊆ L) (h : Only L s0 s) :
    Only L s0 (State.activateCmd s x2 x3) := by
  unfold State.activateCmd
  split
  · refine Only.ite ?_ ?_
    · exact State.activateGo_only (Part.sub hL (by decide)) (by assumption)
    · assumption
  · assumption

theorem State.endHere_only {L : List Part} {s0 s : State} {x2 x3 x4 x5}
    (hL : [.sq] ⊆ L) (h : Only L s0 s) :
    Only L s0 (State.endHere s x2 x3 x4 x5) := by
  unfold State.endHere
  extract_lets n1
  exact State.setCmd_only (Part.sub hL (by decide)) (by assumption)

theorem State.startPage_only {L : List Part} {s0 s : State} {x2 x3}
    (hL : [.out, .boot] ⊆ L) (h : Only L s0 s) :
    Only L s0 (State.startPage s x2 x3) := by
  unfold State.startPage
  extract_lets n1
  refine State.emit_only (Part.sub hL (by decide)) ?_
  exact State.setBoot_only (Part.sub hL (by decide)) (by assumption)

theorem State.writeStep_only {L : List Part} {s0 s : State} {x2}
    (hL : [.out, .host, .sq, .life, .boot, .trc, .grp, .regs 0, .regs 4, .regs 8, .regs 49] ⊆ L) (h : Only L s0 s) :
    Only L s0 (State.writeStep s x2) := by
  unfold State.writeStep
  split
  · assumption
  · extract_lets n1 s2 n3 s4
    have hs2 : Only L s0 s2 := by
      unfold s2
      refine Only.ite ?_ ?_
      · refine State.sendParts_only (Part.sub hL (by decide)) ?_
        exact State.setCmd_only (Part.sub hL (by decide)) (by assumption)
      · assumption
    clear_value s2
    have hs4 : Only L s0 s4 := by
      unfold s4
      split
      · assumption
      · refine Only.ite ?_ ?_
        · assumption
        · refine Only.ite ?_ ?_
          · exact State.endHere_only (Part.sub hL (by decide)) (by assumption)
          · refine Only.ite ?_ ?_
            · assumption
            · exact State.startPage_only (Part.sub hL (by decide)) (by assumption)
    clear_value s4
    refine Only.ite ?_ ?_
    · assumption
    · split
      · assumption
      · refine Only.ite ?_ ?_
        · exact State.finish_only (Part.sub hL (by decide)) (by assumption)
        · assumption

theorem State.disablePort_only {L : List Part} {s0 s : State} {x2}
    (hL : [.sq, .regs 8] ⊆ L) (h : Only L s0 s) :
    Only L s0 (State.disablePort s x2) := by
  unfold State.disablePort
  refine Only.foldl _ ?_ (fun s _ h => ?_)
  · assumption
  · extract_lets s1 n2 s3
    have hs1 : Only L s0 s1 := by
      unfold s1
      exact State.wri_only (Part.sub hL (by decide)) (by assumption)
    clear_value s1
    have hs3 : Only L s0 s3 := by
      unfold s3
      refine Only.ite ?_ ?_
      · refine Only.updSq (Part.sub hL (by decide)) ?_
        assumption
      · assumption
    clear_value s3
    refine Only.ite ?_ ?_
    · exact State.wri_only (Part.sub hL (by decide)) (by assumption)
    · assumption

theorem State.dropLost_only {L : List Part} {s0 s : State} {x2}
    (hL : [.out, .host, .sq, .obj, .life, .boot, .tape, .mot, .disk, .medium, .trc, .grp, .red, .regs 0,
      .regs 4, .regs 8, .regs 48, .regs 49] ⊆ L) (h : Only L s0 s) :
    Only L s0 (State.dropLost s x2) := by
  unfold State.dropLost
  extract_lets s1 s2 s3 n4 s5
  have hs1 : Only L s0 s1 := by
    unfold s1
    refine State.dropAdmin_only (Part.sub hL (by decide)) ?_
    exact State.discardWork_only (Part.sub hL (by decide)) (by assumption)
  clear_value s1
  have hs2 : Only L s0 s2 := by
    unfold s2
    refine Only.ite ?_ ?_
    · exact State.stopActivation_only (Part.sub hL (by decide)) (by assumption)
    · assumption
  clear_value s2
  have hs3 : Only L s0 s3 := by
    unfold s3
    refine State.release_only (Part.sub hL (by decide)) ?_
    refine State.syncIngest_only (Part.sub hL (by decide)) ?_
    exact State.dropCmd_only (Part.sub hL (by decide)) (by assumption)
  clear_value s3
  have hs5 : Only L s0 s5 := by
    unfold s5
    refine Only.updSq (Part.sub hL (by decide)) ?_
    assumption
  clear_value s5
  exact State.resolveAborts_only (Part.sub hL (by decide)) (by assumption)

theorem State.endPort_only {L : List Part} {s0 s : State} {x2}
    (hL : [.out, .host, .sq, .obj, .life, .boot, .tape, .mot, .disk, .medium, .trc, .grp, .red, .regs 0,
      .regs 4, .regs 8, .regs 48, .regs 49] ⊆ L) (h : Only L s0 s) :
    Only.Pair L s0 (State.endPort s x2) := by
  unfold State.endPort
  extract_lets n1 n2 n3 s4 s5 s6
  have hs4 : Only L s0 s4 := by
    unfold s4
    refine Only.updSq (Part.sub hL (by decide)) ?_
    assumption
  clear_value s4
  have hs5 : Only L s0 s5 := by
    unfold s5
    refine Only.foldl _ ?_ (fun s _ h => ?_)
    · assumption
    · refine State.resolveAborts_only (Part.sub hL (by decide)) ?_
      exact State.release_only (Part.sub hL (by decide)) (by assumption)
  clear_value s5
  have hs6 : Only L s0 s6 := by
    unfold s6
    refine Only.foldl _ ?_ (fun s _ h => ?_)
    · assumption
    · exact State.dropLost_only (Part.sub hL (by decide)) (by assumption)
  clear_value s6
  refine Only.pair ?_
  exact State.settle_only (Part.sub hL (by decide)) (by assumption)

theorem State.eraseSlot_only {L : List Part} {s0 s : State} {x2}
    (hL : [.boot] ⊆ L) (h : Only L s0 s) :
    Only L s0 (State.eraseSlot s x2) := by
  unfold State.eraseSlot
  extract_lets n1
  exact State.setBoot_only (Part.sub hL (by decide)) (by assumption)

theorem State.startErase_only {L : List Part} {s0 s : State} {x2}
    (hL : [.out, .boot] ⊆ L) (h : Only L s0 s) :
    Only L s0 (State.startErase s x2) := by
  unfold State.startErase
  extract_lets n1
  refine State.emit_only (Part.sub hL (by decide)) ?_
  exact State.setBoot_only (Part.sub hL (by decide)) (by assumption)

theorem State.markWriting_only {L : List Part} {s0 s : State} {x2}
    (hL : [.boot, .regs 48] ⊆ L) (h : Only L s0 s) :
    Only L s0 (State.markWriting s x2) := by
  unfold State.markWriting
  extract_lets n1
  exact State.writeImgRec_only (Part.sub hL (by decide)) (by assumption)

theorem State.rcvErase_only {L : List Part} {s0 s : State} {x2 x3}
    (hL : [.out, .boot, .regs 48] ⊆ L) (h : Only L s0 s) :
    Only L s0 (State.rcvErase s x2 x3) := by
  unfold State.rcvErase
  refine Only.ite ?_ ?_
  · refine State.wr_only (Part.sub hL (by decide)) ?_
    refine State.startErase_only (Part.sub hL (by decide)) ?_
    exact State.markWriting_only (Part.sub hL (by decide)) (by assumption)
  · assumption

theorem State.rcvProgram_only {L : List Part} {s0 s : State} {x2 x3}
    (hL : [.out, .boot, .regs 48] ⊆ L) (h : Only L s0 s) :
    Only L s0 (State.rcvProgram s x2 x3) := by
  unfold State.rcvProgram
  extract_lets n1
  refine Only.ite ?_ ?_
  · refine State.wr_only (Part.sub hL (by decide)) ?_
    exact State.startPage_only (Part.sub hL (by decide)) (by assumption)
  · assumption

theorem State.rcvRead_only {L : List Part} {s0 s : State} {x2 x3}
    (hL : [.regs 48] ⊆ L) (h : Only L s0 s) :
    Only L s0 (State.rcvRead s x2 x3) := by
  unfold State.rcvRead
  extract_lets n1
  refine Only.ite ?_ ?_
  · refine Only.foldl _ ?_ (fun s _ h => ?_)
    · assumption
    · exact State.wri_only (Part.sub hL (by decide)) (by assumption)
  · assumption

theorem State.markChecked_only {L : List Part} {s0 s : State} {x2 x3}
    (hL : [.boot, .regs 48] ⊆ L) (h : Only L s0 s) :
    Only L s0 (State.markChecked s x2 x3) := by
  unfold State.markChecked
  exact State.writeImgRec_only (Part.sub hL (by decide)) (by assumption)

theorem State.rcvSelect_only {L : List Part} {s0 s : State} {x2 x3}
    (hL : [.boot, .regs 48] ⊆ L) (h : Only L s0 s) :
    Only L s0 (State.rcvSelect s x2 x3) := by
  unfold State.rcvSelect
  extract_lets n1 s2 n3
  have hs2 : Only L s0 s2 := by
    unfold s2
    exact State.markChecked_only (Part.sub hL (by decide)) (by assumption)
  clear_value s2
  refine Only.ite ?_ ?_
  · assumption
  · refine Only.ite ?_ ?_
    · exact State.writeImgRec_only (Part.sub hL (by decide)) (by assumption)
    · exact State.wr_only (Part.sub hL (by decide)) (by assumption)

theorem State.writeSteps_only {L : List Part} {s0 s : State}
    (hL : [.out, .host, .sq, .life, .boot, .trc, .grp, .regs 0, .regs 4, .regs 8, .regs 49] ⊆ L) (h : Only L s0 s) :
    Only L s0 (State.writeSteps s) := by
  unfold State.writeSteps
  refine Only.foldl _ ?_ (fun s _ h => ?_)
  · assumption
  · exact State.writeStep_only (Part.sub hL (by decide)) (by assumption)

theorem State.writeFails_only {L : List Part} {s0 s : State}
    (hL : [.out, .host, .sq, .life, .boot, .trc, .grp, .regs 0, .regs 4, .regs 8, .regs 49] ⊆ L) (h : Only L s0 s) :
    Only L s0 (State.writeFails s) := by
  unfold State.writeFails
  extract_lets n1
  refine State.writeSteps_only (Part.sub hL (by decide)) ?_
  refine Only.foldl _ ?_ (fun s _ h => ?_)
  · assumption
  · exact State.endHere_only (Part.sub hL (by decide)) (by assumption)

theorem State.writeGo_only {L : List Part} {s0 s : State} {x2}
    (hL : [.out, .host, .sq, .life, .boot, .trc, .grp, .regs 0, .regs 4, .regs 8, .regs 48, .regs 49] ⊆ L) (h : Only L s0 s) :
    Only L s0 (State.writeGo s x2) := by
  unfold State.writeGo
  extract_lets n1 n2 n3 s4 n5 s6 s7
  have hs4 : Only L s0 s4 := by
    unfold s4
    exact State.setCmd_only (Part.sub hL (by decide)) (by assumption)
  clear_value s4
  have hs6 : Only L s0 s6 := by
    unfold s6
    exact State.setBoot_only (Part.sub hL (by decide)) (by assumption)
  clear_value s6
  have hs7 : Only L s0 s7 := by
    unfold s7
    refine Only.ite ?_ ?_
    · refine State.startErase_only (Part.sub hL (by decide)) ?_
      exact State.markWriting_only (Part.sub hL (by decide)) (by assumption)
    · assumption
  clear_value s7
  refine Only.ite ?_ ?_
  · exact State.setCmd_only (Part.sub hL (by decide)) (by assumption)
  · refine Only.ite ?_ ?_
    · exact State.fail_only (Part.sub hL (by decide)) (by assumption)
    · refine Only.ite ?_ ?_
      · exact State.fail_only (Part.sub hL (by decide)) (by assumption)
      · refine State.writeStep_only (Part.sub hL (by decide)) ?_
        exact State.askData_only (Part.sub hL (by decide)) (by assumption)

theorem execRcvErase_only {L : List Part} {s0 s : State} {x1 x2}
    (hL : [.out, .boot, .regs 48] ⊆ L) (h : Only L s0 s) :
    Only.Out L s0 (execRcvErase x1 x2 s) := by
  unfold execRcvErase
  refine Only.next ?_
  exact State.rcvErase_only (Part.sub hL (by decide)) (by assumption)

theorem execRcvProgram_only {L : List Part} {s0 s : State} {x1 x2}
    (hL : [.out, .boot, .regs 48] ⊆ L) (h : Only L s0 s) :
    Only.Out L s0 (execRcvProgram x1 x2 s) := by
  unfold execRcvProgram
  refine Only.next ?_
  exact State.rcvProgram_only (Part.sub hL (by decide)) (by assumption)

theorem execRcvRead_only {L : List Part} {s0 s : State} {x1 x2}
    (hL : [.regs 48] ⊆ L) (h : Only L s0 s) :
    Only.Out L s0 (execRcvRead x1 x2 s) := by
  unfold execRcvRead
  refine Only.next ?_
  exact State.rcvRead_only (Part.sub hL (by decide)) (by assumption)

theorem execRcvSelect_only {L : List Part} {s0 s : State} {x1 x2}
    (hL : [.boot, .regs 48] ⊆ L) (h : Only L s0 s) :
    Only.Out L s0 (execRcvSelect x1 x2 s) := by
  unfold execRcvSelect
  refine Only.next ?_
  exact State.rcvSelect_only (Part.sub hL (by decide)) (by assumption)

theorem execDataLinkDown_only {L : List Part} {s0 s : State} {x1}
    (hL : [.out, .host, .sq, .obj, .life, .boot, .tape, .mot, .disk, .det, .medium, .wra, .ctl, .trc, .grp,
      .red, .pwr, .mem, .regs 0, .regs 1, .regs 2, .regs 3, .regs 4, .regs 8, .regs 10, .regs 12, .regs 16,
      .regs 20, .regs 24, .regs 28, .regs 32, .regs 33, .regs 36, .regs 40, .regs 44, .regs 48, .regs 49] ⊆ L) (h : Only L s0 s) :
    Only.Out L s0 (execDataLinkDown x1 s) := by
  unfold execDataLinkDown
  extract_lets s1 s2 s3 n4 s5 n6 s7
  have hs1 : Only L s0 s1 := by
    unfold s1
    refine State.setLink_only (Part.sub hL (by decide)) ?_
    refine State.clearCfgSpace_only (Part.sub hL (by decide)) ?_
    exact State.disablePort_only (Part.sub hL (by decide)) (by assumption)
  clear_value s1
  have hs2 : Only L s0 s2 := by
    unfold s2
    exact State.wr_only (Part.sub hL (by decide)) (by assumption)
  clear_value s2
  have hs3 : Only L s0 s3 := by
    unfold s3
    refine Only.ite ?_ ?_
    · refine Only.ite ?_ ?_
      · assumption
      · exact State.signal_only (Part.sub hL (by decide)) (by assumption)
    · assumption
  clear_value s3
  have hs5 : Only L s0 s5 := by
    unfold s5
    refine State.resetCause_only (Part.sub hL (by decide)) ?_
    refine State.setLink_only (Part.sub hL (by decide)) ?_
    refine State.clearCfgSpace_only (Part.sub hL (by decide)) ?_
    exact State.resetWarm_only (Part.sub hL (by decide)) (by assumption)
  clear_value s5
  have hs7 : Only L s0 s7 := by
    unfold s7
    refine Only.updHost (Part.sub hL (by decide)) ?_
    assumption
  clear_value s7
  refine Only.iteOut ?_ ?_
  · refine Only.next ?_
    assumption
  · refine Only.iteOut ?_ ?_
    · split
      refine Only.next ?_
      refine State.raise_only (Part.sub hL (by decide)) ?_
      refine Only.of_eq ?_ (by assumption)
      exact State.endPort_only (Part.sub hL (by decide)) (by assumption)
    · refine Only.next ?_
      exact State.raise_only (Part.sub hL (by decide)) (by assumption)

theorem execImageWrite_only {L : List Part} {s0 s : State} {x1}
    (hL : [.out, .host, .sq, .life, .boot, .trc, .grp, .regs 0, .regs 4, .regs 8, .regs 48, .regs 49] ⊆ L) (h : Only L s0 s) :
    Only.Out L s0 (execImageWrite x1 s) := by
  unfold execImageWrite
  split
  · refine Only.next ?_
    assumption
  · refine Only.next ?_
    exact State.writeGo_only (Part.sub hL (by decide)) (by assumption)

theorem execImageActivateDefer_only {L : List Part} {s0 s : State} {x1}
    (hL : [.out, .host, .sq, .obj, .life, .boot, .tape, .disk, .trc, .grp, .red, .regs 0, .regs 1, .regs 2,
      .regs 3, .regs 4, .regs 8, .regs 10, .regs 12, .regs 16, .regs 20, .regs 24, .regs 28, .regs 32,
      .regs 33, .regs 36, .regs 40, .regs 44, .regs 48, .regs 49] ⊆ L) (h : Only L s0 s) :
    Only.Out L s0 (execImageActivateDefer x1 s) := by
  unfold execImageActivateDefer
  refine Only.next ?_
  exact State.activateCmd_only (Part.sub hL (by decide)) (by assumption)

theorem execImageActivateNow_only {L : List Part} {s0 s : State} {x1}
    (hL : [.out, .host, .sq, .obj, .life, .boot, .tape, .disk, .trc, .grp, .red, .regs 0, .regs 1, .regs 2,
      .regs 3, .regs 4, .regs 8, .regs 10, .regs 12, .regs 16, .regs 20, .regs 24, .regs 28, .regs 32,
      .regs 33, .regs 36, .regs 40, .regs 44, .regs 48, .regs 49] ⊆ L) (h : Only L s0 s) :
    Only.Out L s0 (execImageActivateNow x1 s) := by
  unfold execImageActivateNow
  refine Only.next ?_
  exact State.activateCmd_only (Part.sub hL (by decide)) (by assumption)

theorem execImageCheckDone_only {L : List Part} {s0 s : State} {x1 x2}
    (hL : [.out, .host, .sq, .obj, .life, .boot, .tape, .disk, .trc, .grp, .red, .regs 0, .regs 4, .regs 8,
      .regs 48, .regs 49] ⊆ L) (h : Only L s0 s) :
    Only.Out L s0 (execImageCheckDone x1 x2 s) := by
  unfold execImageCheckDone
  split
  · refine Only.next ?_
    assumption
  · extract_lets n1 n2 s3 s4
    have hs3 : Only L s0 s3 := by
      unfold s3
      exact State.markChecked_only (Part.sub hL (by decide)) (by assumption)
    clear_value s3
    have hs4 : Only L s0 s4 := by
      unfold s4
      refine Only.ite ?_ ?_
      · exact State.endHere_only (Part.sub hL (by decide)) (by assumption)
      · refine Only.ite ?_ ?_
        · exact State.endHere_only (Part.sub hL (by decide)) (by assumption)
        · exact State.endHere_only (Part.sub hL (by decide)) (by assumption)
    clear_value s4
    refine Only.iteOut ?_ ?_
    · refine Only.next ?_
      assumption
    · split
      · refine Only.next ?_
        exact State.activateStep_only (Part.sub hL (by decide)) (by assumption)
      · refine Only.next ?_
        assumption

theorem execActivationApply_only {L : List Part} {s0 s : State} {x1}
    (hL : [.out, .host, .sq, .life, .boot, .trc, .grp, .regs 0, .regs 1, .regs 2, .regs 3, .regs 4, .regs 8,
      .regs 10, .regs 12, .regs 16, .regs 20, .regs 24, .regs 28, .regs 32, .regs 33, .regs 36, .regs 40,
      .regs 44, .regs 48, .regs 49] ⊆ L) (h : Only L s0 s) :
    Only.Out L s0 (execActivationApply x1 s) := by
  unfold execActivationApply
  split
  · refine Only.next ?_
    assumption
  · extract_lets s1 n2 s3
    have hs1 : Only L s0 s1 := by
      unfold s1
      refine Only.ite ?_ ?_
      · exact State.applyImage_only (Part.sub hL (by decide)) (by assumption)
      · assumption
    clear_value s1
    have hs3 : Only L s0 s3 := by
      unfold s3
      refine State.sendParts_only (Part.sub hL (by decide)) ?_
      exact State.setBoot_only (Part.sub hL (by decide)) (by assumption)
    clear_value s3
    refine Only.iteOut ?_ ?_
    · refine Only.next ?_
      assumption
    · refine Only.iteOut ?_ ?_
      · refine Only.next ?_
        exact State.endActivation_only (Part.sub hL (by decide)) (by assumption)
      · refine Only.iteOut ?_ ?_
        · refine Only.next ?_
          assumption
        · split
          · refine Only.next ?_
            exact State.endActivation_only (Part.sub hL (by decide)) (by assumption)
          · refine Only.next ?_
            assumption

theorem execNorOperationDone_only {L : List Part} {s0 s : State} {x1}
    (hL : [.out, .host, .sq, .life, .boot, .trc, .grp, .regs 0, .regs 4, .regs 8, .regs 48, .regs 49] ⊆ L) (h : Only L s0 s) :
    Only.Out L s0 (execNorOperationDone x1 s) := by
  unfold execNorOperationDone
  extract_lets b op n1 s1 n2 s2 bad n3 s3
  refine Only.iteOut (Only.next h) ?_
  have h1 : Only L s0 s1 := Only.ite (State.eraseSlot_only (Part.sub hL (by decide)) h)
    (State.setBoot_only (Part.sub hL (by decide)) h)
  have h2 : Only L s0 s2 := State.setBoot_only (Part.sub hL (by decide)) h1
  clear_value s2
  have h3 : Only L s0 s3 := Only.ite (State.setBoot_only (Part.sub hL (by decide)) h2) h2
  clear_value s3
  refine Only.iteOut (Only.next (State.wr_only (Part.sub hL (by decide))
    (Only.ite (State.wr_only (Part.sub hL (by decide)) h2) h2))) (Only.iteOut ?_ ?_)
  · exact Only.next (State.writeFails_only (Part.sub hL (by decide)) h2)
  · exact Only.next (State.writeSteps_only (Part.sub hL (by decide)) h3)

end Sys2Proof.Machine
end

