-- ==== Sys2Proof/Laws/OnlyJtag.lean ====
section
/-!
SUPPORT. The parts of the state that an operation of Machine/Jtag.lean may change (Laws/Only.lean).
-/

set_option Elab.async false

namespace Sys2Proof.Machine

theorem State.setJtag_only {L : List Part} {s0 s : State} {x2 x3}
    (hL : [.pins] ⊆ L) (h : Only L s0 s) :
    Only L s0 (State.setJtag s x2 x3) := by
  unfold State.setJtag
  refine Only.updPins (Part.sub hL (by decide)) ?_
  assumption

theorem State.setFuses_only {L : List Part} {s0 s : State} {x2}
    (hL : [.boot] ⊆ L) (h : Only L s0 s) :
    Only L s0 (State.setFuses s x2) := Only.updBoot hL h

theorem State.jtag_only {L : List Part} {s0 s : State} {x2}
    (hL : [.out, .boot, .pins] ⊆ L) (h : Only L s0 s) :
    Only L s0 (State.jtag s x2) := by
  unfold State.jtag
  split
  · refine State.emit_only (Part.sub hL (by decide)) ?_
    exact State.setJtag_only (Part.sub hL (by decide)) (by assumption)
  · refine State.emit_only (Part.sub hL (by decide)) ?_
    exact State.setJtag_only (Part.sub hL (by decide)) (by assumption)
  · refine State.emit_only (Part.sub hL (by decide)) ?_
    exact State.setJtag_only (Part.sub hL (by decide)) (by assumption)
  · refine State.emit_only (Part.sub hL (by decide)) ?_
    refine State.emit_only (Part.sub hL (by decide)) ?_
    exact State.setJtag_only (Part.sub hL (by decide)) (by assumption)
  · refine State.setFuses_only (Part.sub hL (by decide)) ?_
    exact State.setJtag_only (Part.sub hL (by decide)) (by assumption)
  · extract_lets n1
    refine State.setFuses_only (Part.sub hL (by decide)) ?_
    exact State.setJtag_only (Part.sub hL (by decide)) (by assumption)
  · extract_lets n2
    refine State.setFuses_only (Part.sub hL (by decide)) ?_
    exact State.setJtag_only (Part.sub hL (by decide)) (by assumption)
  · extract_lets n3
    refine State.setFuses_only (Part.sub hL (by decide)) ?_
    exact State.setJtag_only (Part.sub hL (by decide)) (by assumption)
  · exact State.setJtag_only (Part.sub hL (by decide)) (by assumption)

theorem execJtagTapOperation_only {L : List Part} {s0 s : State} {x1}
    (hL : [.out, .boot, .pins] ⊆ L) (h : Only L s0 s) :
    Only.Out L s0 (execJtagTapOperation x1 s) := by
  unfold execJtagTapOperation
  refine Only.next ?_
  exact State.jtag_only (Part.sub hL (by decide)) (by assumption)

end Sys2Proof.Machine
end

