-- ==== Sys2Proof/Laws/OnlyKeys.lean ====
section
/-!
SUPPORT. The parts of the state that an operation of Machine/Keys.lean may change (Laws/Only.lean).
-/

set_option Elab.async false

namespace Sys2Proof.Machine

theorem State.setKey_only {L : List Part} {s0 s : State} {x2 x3}
    (hL : [.obj] ⊆ L) (h : Only L s0 s) :
    Only L s0 (State.setKey s x2 x3) := by
  unfold State.setKey
  extract_lets n1
  refine Only.updObj (Part.sub hL (by decide)) ?_
  assumption

theorem State.keyDone_only {L : List Part} {s0 s : State} {x2}
    (hL : [.out, .host, .sq, .obj, .life, .trc, .grp, .regs 0, .regs 4, .regs 8, .regs 49] ⊆ L) (h : Only L s0 s) :
    Only L s0 (State.keyDone s x2) := by
  unfold State.keyDone
  refine Only.ite ?_ ?_
  · assumption
  · refine Only.ite ?_ ?_
    · exact State.finish_only (Part.sub hL (by decide)) (by assumption)
    · refine State.finish_only (Part.sub hL (by decide)) ?_
      exact State.setKey_only (Part.sub hL (by decide)) (by assumption)

theorem State.keyGo_only {L : List Part} {s0 s : State} {x2}
    (hL : [.out, .host, .sq, .obj, .life, .trc, .grp, .regs 0, .regs 4, .regs 8, .regs 49] ⊆ L) (h : Only L s0 s) :
    Only L s0 (State.keyGo s x2) := by
  unfold State.keyGo
  extract_lets n1 n2 s3
  have hs3 : Only L s0 s3 := by
    unfold s3
    exact State.setCmd_only (Part.sub hL (by decide)) (by assumption)
  clear_value s3
  split
  · refine Only.ite ?_ ?_
    · refine State.keyDone_only (Part.sub hL (by decide)) ?_
      exact State.sendMgmtCmd_only (Part.sub hL (by decide)) (by assumption)
    · exact State.keyDone_only (Part.sub hL (by decide)) (by assumption)
  · exact State.keyDone_only (Part.sub hL (by decide)) (by assumption)

theorem State.keyData_only {L : List Part} {s0 s : State} {x2}
    (hL : [.out, .host, .sq, .obj, .life, .trc, .grp, .regs 0, .regs 4, .regs 8, .regs 49] ⊆ L) (h : Only L s0 s) :
    Only L s0 (State.keyData s x2) := by
  unfold State.keyData
  refine Only.ite ?_ ?_
  · assumption
  · refine Only.ite ?_ ?_
    · exact State.fail_only (Part.sub hL (by decide)) (by assumption)
    · exact State.keyGo_only (Part.sub hL (by decide)) (by assumption)

theorem execDmaDataArrival_only {L : List Part} {s0 s : State} {x1 x2}
    (hL : [.out, .host, .sq, .obj, .life, .boot, .trc, .grp, .regs 0, .regs 4, .regs 8, .regs 49] ⊆ L) (h : Only L s0 s) :
    Only.Out L s0 (execDmaDataArrival x1 x2 s) := by
  unfold execDmaDataArrival
  split
  · refine Only.next ?_
    assumption
  · extract_lets n1 n2 s3
    have hs3 : Only L s0 s3 := by
      unfold s3
      exact State.setCmd_only (Part.sub hL (by decide)) (by assumption)
    clear_value s3
    refine Only.iteOut ?_ ?_
    · refine Only.next ?_
      assumption
    · refine Only.iteOut ?_ ?_
      · refine Only.next ?_
        exact State.syncIngest_only (Part.sub hL (by decide)) (by assumption)
      · refine Only.iteOut ?_ ?_
        · refine Only.next ?_
          exact State.keyData_only (Part.sub hL (by decide)) (by assumption)
        · refine Only.next ?_
          exact State.writeStep_only (Part.sub hL (by decide)) (by assumption)

theorem execKeyLoadLoad_only {L : List Part} {s0 s : State} {x1}
    (hL : [.out, .host, .sq, .obj, .life, .trc, .grp, .regs 0, .regs 4, .regs 8, .regs 49] ⊆ L) (h : Only L s0 s) :
    Only.Out L s0 (execKeyLoadLoad x1 s) := by
  unfold execKeyLoadLoad
  split
  · refine Only.next ?_
    assumption
  · extract_lets n1
    refine Only.iteOut ?_ ?_
    · refine Only.next ?_
      assumption
    · refine Only.iteOut ?_ ?_
      · refine Only.next ?_
        exact State.conflict_only (Part.sub hL (by decide)) (by assumption)
      · refine Only.next ?_
        refine State.keyData_only (Part.sub hL (by decide)) ?_
        refine State.askData_only (Part.sub hL (by decide)) ?_
        exact State.setCmd_only (Part.sub hL (by decide)) (by assumption)

theorem execKeyLoadClear_only {L : List Part} {s0 s : State} {x1}
    (hL : [.out, .host, .sq, .obj, .life, .trc, .grp, .regs 0, .regs 4, .regs 8, .regs 49] ⊆ L) (h : Only L s0 s) :
    Only.Out L s0 (execKeyLoadClear x1 s) := by
  unfold execKeyLoadClear
  split
  · refine Only.next ?_
    assumption
  · refine Only.iteOut ?_ ?_
    · refine Only.next ?_
      assumption
    · refine Only.iteOut ?_ ?_
      · refine Only.next ?_
        exact State.conflict_only (Part.sub hL (by decide)) (by assumption)
      · refine Only.next ?_
        exact State.keyGo_only (Part.sub hL (by decide)) (by assumption)

end Sys2Proof.Machine
end

