-- ==== Sys2Proof/Laws/OnlyMediaCmds.lean ====
section
/-!
SUPPORT. The parts of the state that an operation of Machine/MediaCmds.lean may change (Laws/Only.lean).
-/

set_option Elab.async false

namespace Sys2Proof.Machine

theorem State.cleanGo_only {L : List Part} {s0 s : State} {x2}
    (hL : [.out, .host, .sq, .life, .disk, .trc, .grp, .regs 0, .regs 4, .regs 8, .regs 49] ⊆ L) (h : Only L s0 s) :
    Only L s0 (State.cleanGo s x2) := by
  unfold State.cleanGo
  extract_lets n1 n2 n3
  refine Only.ite ?_ ?_
  · exact State.fail_only (Part.sub hL (by decide)) (by assumption)
  · refine Only.ite ?_ ?_
    · exact State.setCmd_only (Part.sub hL (by decide)) (by assumption)
    · refine Only.ite ?_ ?_
      · exact State.conflict_only (Part.sub hL (by decide)) (by assumption)
      · refine Only.ite ?_ ?_
        · exact State.conflict_only (Part.sub hL (by decide)) (by assumption)
        · refine Only.ite ?_ ?_
          · exact State.finish_only (Part.sub hL (by decide)) (by assumption)
          · refine Only.ite ?_ ?_
            · exact State.conflict_only (Part.sub hL (by decide)) (by assumption)
            · refine Only.ite ?_ ?_
              · exact State.conflict_only (Part.sub hL (by decide)) (by assumption)
              · refine Only.ite ?_ ?_
                · exact State.setCmd_only (Part.sub hL (by decide)) (by assumption)
                · refine State.startClean_only (Part.sub hL (by decide)) ?_
                  exact State.setCmd_only (Part.sub hL (by decide)) (by assumption)

theorem State.diskStop_only {L : List Part} {s0 s : State}
    (hL : [.out, .host, .sq, .life, .mot, .disk, .medium, .wra, .ctl, .trc, .grp, .pwr, .regs 0, .regs 4,
      .regs 8, .regs 28, .regs 32, .regs 49] ⊆ L) (h : Only L s0 s) :
    Only L s0 (State.diskStop s) := by
  unfold State.diskStop
  extract_lets s1 n2
  have hs1 : Only L s0 s1 := by
    unfold s1
    refine Only.ite ?_ ?_
    · refine State.saveLevels_only (Part.sub hL (by decide)) ?_
      exact State.rewriteTable_only (Part.sub hL (by decide)) (by assumption)
    · assumption
  clear_value s1
  refine Only.ite ?_ ?_
  · refine State.stopReached_only (Part.sub hL (by decide)) ?_
    refine State.setMot_only (Part.sub hL (by decide)) ?_
    exact State.stopSpindle_only (Part.sub hL (by decide)) (by assumption)
  · assumption

theorem State.eraseUnits_only {L : List Part} {s0 s : State}
    (hL : [.obj] ⊆ L) (h : Only L s0 s) :
    Only L s0 (State.eraseUnits s) := by
  unfold State.eraseUnits
  extract_lets n1
  refine Only.updObj (Part.sub hL (by decide)) ?_
  assumption

theorem State.formatDisk_only {L : List Part} {s0 s : State} {x2 x3}
    (hL : [.free, .obj, .disk, .regs 16] ⊆ L) (h : Only L s0 s) :
    Only L s0 (State.formatDisk s x2 x3) := by
  unfold State.formatDisk
  extract_lets n1 n2 n3 n4 n5 s6 n7 n8 n9 n10 s11 s12 n13
  have hs6 : Only L s0 s6 := by
    unfold s6
    refine State.wr_only (Part.sub hL (by decide)) ?_
    exact State.wr_only (Part.sub hL (by decide)) (by assumption)
  clear_value s6
  have hs11 : Only L s0 s11 := by
    unfold s11
    exact State.setDisk_only (Part.sub hL (by decide)) (by assumption)
  clear_value s11
  have hs12 : Only L s0 s12 := by
    unfold s12
    refine State.rewriteTable_only (Part.sub hL (by decide)) ?_
    refine State.tickFree_only (Part.sub hL (by decide)) ?_
    exact State.eraseUnits_only (Part.sub hL (by decide)) (by assumption)
  clear_value s12
  exact State.setDisk_only (Part.sub hL (by decide)) (by assumption)

theorem State.formatGo_only {L : List Part} {s0 s : State} {x2}
    (hL : [.out, .host, .sq, .life, .medium, .trc, .grp, .regs 0, .regs 4, .regs 8, .regs 49] ⊆ L) (h : Only L s0 s) :
    Only L s0 (State.formatGo s x2) := by
  unfold State.formatGo
  extract_lets n1 s2 n3
  have hs2 : Only L s0 s2 := by
    unfold s2
    exact State.setCmd_only (Part.sub hL (by decide)) (by assumption)
  clear_value s2
  refine Only.ite ?_ ?_
  · exact State.conflict_only (Part.sub hL (by decide)) (by assumption)
  · refine Only.ite ?_ ?_
    · exact State.conflict_only (Part.sub hL (by decide)) (by assumption)
    · refine Only.updMedium (Part.sub hL (by decide)) ?_
      assumption

theorem State.stopStep_only {L : List Part} {s0 s : State}
    (hL : [.out, .host, .sq, .life, .tape, .mot, .disk, .medium, .wra, .ctl, .trc, .grp, .pwr, .regs 0,
      .regs 4, .regs 8, .regs 28, .regs 32, .regs 49] ⊆ L) (h : Only L s0 s) :
    Only L s0 (State.stopStep s) := by
  unfold State.stopStep
  refine Only.ite ?_ ?_
  · exact State.advanceStop_only (Part.sub hL (by decide)) (by assumption)
  · exact State.diskStop_only (Part.sub hL (by decide)) (by assumption)

theorem State.formatReached_only {L : List Part} {s0 s : State}
    (hL : [.out, .host, .sq, .life, .tape, .mot, .disk, .medium, .wra, .ctl, .trc, .grp, .pwr, .regs 0,
      .regs 4, .regs 8, .regs 28, .regs 32, .regs 49] ⊆ L) (h : Only L s0 s) :
    Only L s0 (State.formatReached s) := by
  unfold State.formatReached
  extract_lets s1
  have hs1 : Only L s0 s1 := by
    unfold s1
    exact State.setMedium_only (Part.sub hL (by decide)) (by assumption)
  clear_value s1
  refine State.stopStep_only (Part.sub hL (by decide)) ?_
  refine State.startReached_only (Part.sub hL (by decide)) ?_
  exact State.endMedia_only (Part.sub hL (by decide)) (by assumption)

theorem State.formatTape_only {L : List Part} {s0 s : State}
    (hL : [.free, .obj, .tape, .regs 16, .regs 32] ⊆ L) (h : Only L s0 s) :
    Only L s0 (State.formatTape s) := by
  unfold State.formatTape
  extract_lets n1 n2 n3 n4 n5 s6 s7
  have hs6 : Only L s0 s6 := by
    unfold s6
    exact State.setTape_only (Part.sub hL (by decide)) (by assumption)
  clear_value s6
  have hs7 : Only L s0 s7 := by
    unfold s7
    refine State.wr_only (Part.sub hL (by decide)) ?_
    exact State.wr_only (Part.sub hL (by decide)) (by assumption)
  clear_value s7
  refine State.syncLevel_only (Part.sub hL (by decide)) ?_
  refine State.wr_only (Part.sub hL (by decide)) ?_
  refine State.tickFree_only (Part.sub hL (by decide)) ?_
  exact State.eraseUnits_only (Part.sub hL (by decide)) (by assumption)

theorem State.infoGo_only {L : List Part} {s0 s : State} {x2}
    (hL : [.out, .host, .sq, .life, .trc, .grp, .regs 0, .regs 4, .regs 8, .regs 49] ⊆ L) (h : Only L s0 s) :
    Only L s0 (State.infoGo s x2) := by
  unfold State.infoGo
  extract_lets n1
  exact State.finish_only (Part.sub hL (by decide)) (by assumption)

theorem State.startMedium_only {L : List Part} {s0 s : State}
    (hL : [.out, .host, .life, .mot, .medium, .wra, .ctl, .trc, .regs 0, .regs 1, .regs 2, .regs 3, .regs 4,
      .regs 8, .regs 10, .regs 12, .regs 16, .regs 20, .regs 24, .regs 28, .regs 32, .regs 33, .regs 36,
      .regs 40, .regs 44, .regs 48, .regs 49] ⊆ L) (h : Only L s0 s) :
    Only L s0 (State.startMedium s) := by
  unfold State.startMedium
  extract_lets s1 n2 s3 n4 s5
  have hs1 : Only L s0 s1 := by
    unfold s1
    refine Only.foldl _ ?_ (fun s _ h => ?_)
    · assumption
    · exact State.applyRec_only (Part.sub hL (by decide)) (by assumption)
  clear_value s1
  have hs3 : Only L s0 s3 := by
    unfold s3
    refine Only.updMedium (Part.sub hL (by decide)) ?_
    assumption
  clear_value s3
  have hs5 : Only L s0 s5 := by
    unfold s5
    exact State.setMot_only (Part.sub hL (by decide)) (by assumption)
  clear_value s5
  refine Only.ite ?_ ?_
  · refine State.loadEnter_only (Part.sub hL (by decide)) ?_
    refine State.sendMdrv_only (Part.sub hL (by decide)) ?_
    refine Only.foldl _ ?_ (fun s _ h => ?_)
    · assumption
    · exact State.enableLane_only (Part.sub hL (by decide)) (by assumption)
  · refine State.loadLevels_only (Part.sub hL (by decide)) ?_
    refine State.loadBus_only (Part.sub hL (by decide)) ?_
    refine State.loadBus_only (Part.sub hL (by decide)) ?_
    exact State.startSpindle_only (Part.sub hL (by decide)) (by assumption)

theorem State.onMember_only {L : List Part} {s0 s : State} {x2 x3 go}
    (hL : [.out, .host, .sq, .life, .trc, .grp, .regs 0, .regs 4, .regs 8, .regs 49] ⊆ L) (h : Only L s0 s)
    (hgo : ∀ a1 a2, Only L s0 a1 → Only L s0 (go a1 a2)) :
    Only L s0 (State.onMember s x2 x3 go) := by
  unfold State.onMember
  extract_lets n1
  refine Only.ite ?_ ?_
  · refine hgo _ _ ?_
    assumption
  · refine Only.ite ?_ ?_
    · exact State.conflict_only (Part.sub hL (by decide)) (by assumption)
    · refine Only.ite ?_ ?_
      · refine hgo _ _ ?_
        assumption
      · refine Only.ite ?_ ?_
        · exact State.fail_only (Part.sub hL (by decide)) (by assumption)
        · refine State.sendMgmtCmd_only (Part.sub hL (by decide)) ?_
          exact State.setCmd_only (Part.sub hL (by decide)) (by assumption)

theorem State.restartMedium_only {L : List Part} {s0 s : State}
    (hL : [.out, .host, .life, .mot, .medium, .wra, .ctl, .trc, .regs 0, .regs 1, .regs 2, .regs 3, .regs 4,
      .regs 8, .regs 10, .regs 12, .regs 16, .regs 20, .regs 24, .regs 28, .regs 32, .regs 33, .regs 36,
      .regs 40, .regs 44, .regs 48, .regs 49] ⊆ L) (h : Only L s0 s) :
    Only L s0 (State.restartMedium s) := by
  unfold State.restartMedium
  extract_lets n1
  refine Only.ite ?_ ?_
  · refine State.startMedium_only (Part.sub hL (by decide)) ?_
    refine Only.updMedium (Part.sub hL (by decide)) ?_
    assumption
  · assumption

theorem State.startGo_only {L : List Part} {s0 s : State} {x2}
    (hL : [.out, .host, .sq, .life, .mot, .medium, .wra, .ctl, .trc, .grp, .regs 0, .regs 1, .regs 2, .regs 3,
      .regs 4, .regs 8, .regs 10, .regs 12, .regs 16, .regs 20, .regs 24, .regs 28, .regs 32, .regs 33,
      .regs 36, .regs 40, .regs 44, .regs 48, .regs 49] ⊆ L) (h : Only L s0 s) :
    Only L s0 (State.startGo s x2) := by
  unfold State.startGo
  extract_lets n1 f2
  have hf2 : ∀ a1, Only L s0 a1 → Only L s0 (f2 a1) := by
    intro a1 h
    unfold f2
    exact State.setCmd_only (Part.sub hL (by decide)) (by assumption)
  refine Only.ite ?_ ?_
  · exact State.finish_only (Part.sub hL (by decide)) (by assumption)
  · refine Only.ite ?_ ?_
    · refine hf2 _ ?_
      assumption
    · refine Only.ite ?_ ?_
      · exact State.conflict_only (Part.sub hL (by decide)) (by assumption)
      · refine Only.ite ?_ ?_
        · exact State.setCmd_only (Part.sub hL (by decide)) (by assumption)
        · refine Only.ite ?_ ?_
          · exact State.conflict_only (Part.sub hL (by decide)) (by assumption)
          · refine State.startMedium_only (Part.sub hL (by decide)) ?_
            refine hf2 _ ?_
            assumption

theorem State.stopGo_only {L : List Part} {s0 s : State} {x2}
    (hL : [.out, .free, .host, .sq, .obj, .life, .tape, .mot, .disk, .medium, .wra, .ctl, .trc, .grp, .red,
      .pwr, .regs 0, .regs 4, .regs 8, .regs 16, .regs 28, .regs 32, .regs 40, .regs 49] ⊆ L) (h : Only L s0 s) :
    Only L s0 (State.stopGo s x2) := by
  unfold State.stopGo
  extract_lets n1 s2 n3 n4 n5 s6 n7 s8
  have hs2 : Only L s0 s2 := by
    unfold s2
    exact State.setCmd_only (Part.sub hL (by decide)) (by assumption)
  clear_value s2
  have hs6 : Only L s0 s6 := by
    unfold s6
    exact State.setMot_only (Part.sub hL (by decide)) (by assumption)
  clear_value s6
  have hs8 : Only L s0 s8 := by
    unfold s8
    refine Only.updMedium (Part.sub hL (by decide)) ?_
    assumption
  clear_value s8
  refine Only.ite ?_ ?_
  · exact State.finish_only (Part.sub hL (by decide)) (by assumption)
  · refine Only.ite ?_ ?_
    · refine Only.updMedium (Part.sub hL (by decide)) ?_
      assumption
    · refine Only.ite ?_ ?_
      · assumption
      · refine State.stopStep_only (Part.sub hL (by decide)) ?_
        exact State.closeOpen_only (Part.sub hL (by decide)) (by assumption)

theorem State.zoneInfoGo_only {L : List Part} {s0 s : State} {x2}
    (hL : [.out, .host, .sq, .life, .trc, .grp, .regs 0, .regs 4, .regs 8, .regs 49] ⊆ L) (h : Only L s0 s) :
    Only L s0 (State.zoneInfoGo s x2) := by
  unfold State.zoneInfoGo
  extract_lets n1 n2 n3
  refine Only.ite ?_ ?_
  · exact State.fail_only (Part.sub hL (by decide)) (by assumption)
  · refine Only.ite ?_ ?_
    · exact State.finish_only (Part.sub hL (by decide)) (by assumption)
    · refine Only.ite ?_ ?_
      · exact State.setCmd_only (Part.sub hL (by decide)) (by assumption)
      · refine Only.ite ?_ ?_
        · exact State.conflict_only (Part.sub hL (by decide)) (by assumption)
        · refine Only.ite ?_ ?_
          · exact State.conflict_only (Part.sub hL (by decide)) (by assumption)
          · exact State.finish_only (Part.sub hL (by decide)) (by assumption)

theorem execMediaStart_only {L : List Part} {s0 s : State} {x1}
    (hL : [.out, .host, .sq, .life, .mot, .medium, .wra, .ctl, .trc, .grp, .regs 0, .regs 1, .regs 2, .regs 3,
      .regs 4, .regs 8, .regs 10, .regs 12, .regs 16, .regs 20, .regs 24, .regs 28, .regs 32, .regs 33,
      .regs 36, .regs 40, .regs 44, .regs 48, .regs 49] ⊆ L) (h : Only L s0 s) :
    Only.Out L s0 (execMediaStart x1 s) := by
  unfold execMediaStart
  split
  · refine Only.next ?_
    refine State.onMember_only (Part.sub hL (by decide)) ?_ (fun s _ h => ?_)
    · assumption
    · exact State.startGo_only (Part.sub hL (by decide)) (by assumption)
  · refine Only.next ?_
    assumption

theorem execMediaStop_only {L : List Part} {s0 s : State} {x1}
    (hL : [.out, .free, .host, .sq, .obj, .life, .tape, .mot, .disk, .medium, .wra, .ctl, .trc, .grp, .red,
      .pwr, .regs 0, .regs 4, .regs 8, .regs 16, .regs 28, .regs 32, .regs 40, .regs 49] ⊆ L) (h : Only L s0 s) :
    Only.Out L s0 (execMediaStop x1 s) := by
  unfold execMediaStop
  split
  · refine Only.next ?_
    refine State.onMember_only (Part.sub hL (by decide)) ?_ (fun s _ h => ?_)
    · assumption
    · exact State.stopGo_only (Part.sub hL (by decide)) (by assumption)
  · refine Only.next ?_
    exact State.stopStep_only (Part.sub hL (by decide)) (by assumption)

theorem execMediaFormat_only {L : List Part} {s0 s : State} {x1 x2 x3}
    (hL : [.out, .free, .host, .sq, .obj, .life, .tape, .mot, .disk, .medium, .wra, .ctl, .trc, .grp, .pwr,
      .regs 0, .regs 4, .regs 8, .regs 16, .regs 28, .regs 32, .regs 49] ⊆ L) (h : Only L s0 s) :
    Only.Out L s0 (execMediaFormat x1 x2 x3 s) := by
  unfold execMediaFormat
  split
  · refine Only.next ?_
    refine State.onMember_only (Part.sub hL (by decide)) ?_ (fun s _ h => ?_)
    · assumption
    · exact State.formatGo_only (Part.sub hL (by decide)) (by assumption)
  · split
    · extract_lets n1
      refine Only.iteOut ?_ ?_
      · refine Only.next ?_
        assumption
      · refine Only.iteOut ?_ ?_
        · refine Only.next ?_
          refine State.startReached_only (Part.sub hL (by decide)) ?_
          refine State.conflict_only (Part.sub hL (by decide)) ?_
          refine Only.updMedium (Part.sub hL (by decide)) ?_
          assumption
        · refine Only.next ?_
          refine State.formatReached_only (Part.sub hL (by decide)) ?_
          refine Only.ite ?_ ?_
          · exact State.formatTape_only (Part.sub hL (by decide)) (by assumption)
          · exact State.formatDisk_only (Part.sub hL (by decide)) (by assumption)
    · refine Only.next ?_
      assumption

theorem execZoneClean_only {L : List Part} {s0 s : State} {x1}
    (hL : [.out, .host, .sq, .life, .disk, .trc, .grp, .regs 0, .regs 4, .regs 8, .regs 49] ⊆ L) (h : Only L s0 s) :
    Only.Out L s0 (execZoneClean x1 s) := by
  unfold execZoneClean
  split
  · refine Only.next ?_
    refine State.onMember_only (Part.sub hL (by decide)) ?_ (fun s _ h => ?_)
    · assumption
    · exact State.cleanGo_only (Part.sub hL (by decide)) (by assumption)
  · refine Only.next ?_
    assumption

theorem execMediaInfo_only {L : List Part} {s0 s : State} {x1}
    (hL : [.out, .host, .sq, .life, .trc, .grp, .regs 0, .regs 4, .regs 8, .regs 49] ⊆ L) (h : Only L s0 s) :
    Only.Out L s0 (execMediaInfo x1 s) := by
  unfold execMediaInfo
  split
  · refine Only.next ?_
    refine State.onMember_only (Part.sub hL (by decide)) ?_ (fun s _ h => ?_)
    · assumption
    · exact State.infoGo_only (Part.sub hL (by decide)) (by assumption)
  · refine Only.next ?_
    assumption

theorem execZoneInfo_only {L : List Part} {s0 s : State} {x1}
    (hL : [.out, .host, .sq, .life, .trc, .grp, .regs 0, .regs 4, .regs 8, .regs 49] ⊆ L) (h : Only L s0 s) :
    Only.Out L s0 (execZoneInfo x1 s) := by
  unfold execZoneInfo
  split
  · refine Only.next ?_
    refine State.onMember_only (Part.sub hL (by decide)) ?_ (fun s _ h => ?_)
    · assumption
    · exact State.zoneInfoGo_only (Part.sub hL (by decide)) (by assumption)
  · refine Only.next ?_
    assumption

end Sys2Proof.Machine
end

