-- ==== Sys2Proof/Laws/OnlyMemory.lean ====
section
/-!
SUPPORT. The parts of the state that an operation of Machine/Memory.lean may change (Laws/Only.lean).
-/

set_option Elab.async false

namespace Sys2Proof.Machine

theorem State.busError_only {L : List Part} {s0 s : State} {x2}
    (hL : [.out, .host, .sq, .obj, .life, .tape, .disk, .trc, .grp, .red, .regs 0, .regs 4, .regs 8, .regs 12,
      .regs 49] ⊆ L) (h : Only L s0 s) :
    Only L s0 (State.busError s x2) := by
  unfold State.busError
  split
  · split
    · refine Only.ite ?_ ?_
      · refine State.fail_only (Part.sub hL (by decide)) ?_
        exact State.discardWork_only (Part.sub hL (by decide)) (by assumption)
      · assumption
    · assumption
  · refine State.wr_only (Part.sub hL (by decide)) ?_
    exact State.freeCtx_only (Part.sub hL (by decide)) (by assumption)
  · assumption

theorem State.seqLost_only {L : List Part} {s0 s : State} {x2}
    (hL : [.obj] ⊆ L) (h : Only L s0 s) :
    Only L s0 (State.seqLost s x2) := by
  unfold State.seqLost
  extract_lets n1 n2 n3
  refine Only.ite ?_ ?_
  · assumption
  · refine Only.updObj (Part.sub hL (by decide)) ?_
    assumption

theorem State.checkSeqTable_only {L : List Part} {s0 s : State}
    (hL : [.obj] ⊆ L) (h : Only L s0 s) :
    Only L s0 (State.checkSeqTable s) := by
  unfold State.checkSeqTable
  refine Only.foldl _ ?_ (fun s _ h => ?_)
  · assumption
  · exact State.seqLost_only (Part.sub hL (by decide)) (by assumption)

theorem State.setMem_only {L : List Part} {s0 s : State} {x2}
    (hL : [.mem] ⊆ L) (h : Only L s0 s) :
    Only L s0 (State.setMem s x2) := Only.updMem hL h

theorem State.hbmPut_only {L : List Part} {s0 s : State} {x2 x3}
    (hL : [.mem] ⊆ L) (h : Only L s0 s) :
    Only L s0 (State.hbmPut s x2 x3) := by
  unfold State.hbmPut
  extract_lets n1 n2
  exact State.setMem_only (Part.sub hL (by decide)) (by assumption)

theorem State.copyBlock_only {L : List Part} {s0 s : State} {x2 x3}
    (hL : [.mem] ⊆ L) (h : Only L s0 s) :
    Only L s0 (State.copyBlock s x2 x3) := by
  unfold State.copyBlock
  split
  · extract_lets n1
    exact State.setMem_only (Part.sub hL (by decide)) (by assumption)
  · extract_lets n2
    exact State.hbmPut_only (Part.sub hL (by decide)) (by assumption)

theorem State.wordPut_only {L : List Part} {s0 s : State} {x2 x3 x4}
    (hL : [.mem] ⊆ L) (h : Only L s0 s) :
    Only L s0 (State.wordPut s x2 x3 x4) := by
  unfold State.wordPut
  extract_lets n1 n2
  refine Only.ite ?_ ?_
  · exact State.setMem_only (Part.sub hL (by decide)) (by assumption)
  · exact State.setMem_only (Part.sub hL (by decide)) (by assumption)

theorem State.copyWord_only {L : List Part} {s0 s : State} {x2 x3 x4}
    (hL : [.mem] ⊆ L) (h : Only L s0 s) :
    Only L s0 (State.copyWord s x2 x3 x4) := by
  unfold State.copyWord
  extract_lets n1
  split
  · exact State.wordPut_only (Part.sub hL (by decide)) (by assumption)
  · exact State.wordPut_only (Part.sub hL (by decide)) (by assumption)
  · exact State.wordPut_only (Part.sub hL (by decide)) (by assumption)

theorem State.copyUnit_only {L : List Part} {s0 s : State} {x2 x3 x4}
    (hL : [.mem] ⊆ L) (h : Only L s0 s) :
    Only L s0 (State.copyUnit s x2 x3 x4) := by
  unfold State.copyUnit
  refine Only.ite ?_ ?_
  · refine Only.foldl _ ?_ (fun s _ h => ?_)
    · assumption
    · exact State.copyBlock_only (Part.sub hL (by decide)) (by assumption)
  · refine Only.ite ?_ ?_
    · refine Only.foldl _ ?_ (fun s _ h => ?_)
      · assumption
      · exact State.copyWord_only (Part.sub hL (by decide)) (by assumption)
    · exact State.copyWord_only (Part.sub hL (by decide)) (by assumption)

theorem State.corrected_only {L : List Part} {s0 s : State} {x2 x3 x4}
    (hL : [.mem, .regs 44] ⊆ L) (h : Only L s0 s) :
    Only L s0 (State.corrected s x2 x3 x4) := by
  unfold State.corrected
  extract_lets s1 n2 n3
  have hs1 : Only L s0 s1 := by
    unfold s1
    refine State.inc_only ?_ h
    split
    · exact Part.sub hL (by decide)
    · split <;> exact Part.sub hL (by decide)
  clear_value s1
  exact State.setMem_only (Part.sub hL (by decide)) (by assumption)

theorem State.declareDie_only {L : List Part} {s0 s : State} {x2}
    (hL : [.out, .host, .life, .trc, .mem, .regs 0, .regs 4, .regs 44, .regs 49] ⊆ L) (h : Only L s0 s) :
    Only L s0 (State.declareDie s x2) := by
  unfold State.declareDie
  extract_lets n1 s2 s3
  have hs2 : Only L s0 s2 := by
    unfold s2
    exact State.setMem_only (Part.sub hL (by decide)) (by assumption)
  clear_value s2
  have hs3 : Only L s0 s3 := by
    unfold s3
    refine State.wr_only (Part.sub hL (by decide)) ?_
    exact State.wr_only (Part.sub hL (by decide)) (by assumption)
  clear_value s3
  refine State.raise_only (Part.sub hL (by decide)) ?_
  exact State.wr_only (Part.sub hL (by decide)) (by assumption)

theorem State.hbmWrite_only {L : List Part} {s0 s : State} {x2 x3}
    (hL : [.mem] ⊆ L) (h : Only L s0 s) :
    Only L s0 (State.hbmWrite s x2 x3) := by
  unfold State.hbmWrite
  extract_lets n1
  exact State.hbmPut_only (Part.sub hL (by decide)) (by assumption)

theorem State.lastErr_only {L : List Part} {s0 s : State} {x2 x3 x4 x5 x6}
    (hL : [.regs 44] ⊆ L) (h : Only L s0 s) :
    Only L s0 (State.lastErr s x2 x3 x4 x5 x6) := by
  unfold State.lastErr
  extract_lets s1 s2
  have hs1 : Only L s0 s1 := by
    unfold s1
    refine State.wr_only (Part.sub hL (by decide)) ?_
    exact State.wr_only (Part.sub hL (by decide)) (by assumption)
  clear_value s1
  have hs2 : Only L s0 s2 := by
    unfold s2
    refine State.wr_only (Part.sub hL (by decide)) ?_
    exact State.wr_only (Part.sub hL (by decide)) (by assumption)
  clear_value s2
  exact State.wr_only (Part.sub hL (by decide)) (by assumption)

theorem State.poisonBlock_only {L : List Part} {s0 s : State} {x2 x3 x4 x5}
    (hL : [.out, .host, .life, .trc, .mem, .regs 0, .regs 4, .regs 44, .regs 49] ⊆ L) (h : Only L s0 s) :
    Only L s0 (State.poisonBlock s x2 x3 x4 x5) := by
  unfold State.poisonBlock
  extract_lets n1 s2 s3 s4 s5
  have hs2 : Only L s0 s2 := by
    unfold s2
    exact State.hbmPut_only (Part.sub hL (by decide)) (by assumption)
  clear_value s2
  have hs3 : Only L s0 s3 := by
    unfold s3
    refine State.wr_only (Part.sub hL (by decide)) ?_
    exact State.inc_only (Part.sub hL (by decide)) (by assumption)
  clear_value s3
  have hs4 : Only L s0 s4 := by
    unfold s4
    refine Only.ite ?_ ?_
    · exact State.wr_only (Part.sub hL (by decide)) (by assumption)
    · assumption
  clear_value s4
  have hs5 : Only L s0 s5 := by
    unfold s5
    exact State.lastErr_only (Part.sub hL (by decide)) (by assumption)
  clear_value s5
  exact State.raise_only (Part.sub hL (by decide)) (by assumption)

theorem State.hbmRead_only {L : List Part} {s0 s : State} {x2 x3 x4}
    (hL : [.out, .host, .life, .trc, .mem, .regs 0, .regs 4, .regs 44, .regs 49] ⊆ L) (h : Only L s0 s) :
    Only.Pair L s0 (State.hbmRead s x2 x3 x4) := by
  unfold State.hbmRead
  extract_lets n1 n2 n3
  split
  · refine Only.pair ?_
    assumption
  · refine Only.pair ?_
    exact State.corrected_only (Part.sub hL (by decide)) (by assumption)
  · refine Only.pair ?_
    refine Only.ite ?_ ?_
    · assumption
    · exact State.lastErr_only (Part.sub hL (by decide)) (by assumption)
  · refine Only.pair ?_
    exact State.poisonBlock_only (Part.sub hL (by decide)) (by assumption)
  · refine Only.pair ?_
    exact State.poisonBlock_only (Part.sub hL (by decide)) (by assumption)

theorem State.hbmVerify_only {L : List Part} {s0 s : State} {x2 x3}
    (hL : [.out, .host, .life, .trc, .mem, .regs 0, .regs 4, .regs 44, .regs 49] ⊆ L) (h : Only L s0 s) :
    Only.Pair L s0 (State.hbmVerify s x2 x3) := by
  unfold State.hbmVerify
  split
  refine Only.pair ?_
  refine Only.ite ?_ ?_
  · refine State.hbmWrite_only (Part.sub hL (by decide)) ?_
    refine Only.of_eq ?_ (by assumption)
    exact State.hbmRead_only (Part.sub hL (by decide)) (by assumption)
  · refine Only.of_eq ?_ (by assumption)
    exact State.hbmRead_only (Part.sub hL (by decide)) (by assumption)

theorem State.hbmScrub_only {L : List Part} {s0 s : State} {x2 x3}
    (hL : [.out, .host, .life, .trc, .mem, .regs 0, .regs 4, .regs 44, .regs 49] ⊆ L) (h : Only L s0 s) :
    Only.Pair L s0 (State.hbmScrub s x2 x3) := by
  unfold State.hbmScrub
  split
  refine Only.itePair ?_ ?_
  · split
    split
    refine Only.pair ?_
    refine Only.of_eq ?_ (by assumption)
    refine State.hbmVerify_only (Part.sub hL (by decide)) ?_
    refine Only.of_eq ?_ (by assumption)
    refine State.hbmVerify_only (Part.sub hL (by decide)) ?_
    refine Only.of_eq ?_ (by assumption)
    exact State.hbmVerify_only (Part.sub hL (by decide)) (by assumption)
  · refine Only.pair ?_
    refine Only.of_eq ?_ (by assumption)
    exact State.hbmVerify_only (Part.sub hL (by decide)) (by assumption)

theorem State.hbmUpset_only {L : List Part} {s0 s : State} {x2 x3}
    (hL : [.mem] ⊆ L) (h : Only L s0 s) :
    Only L s0 (State.hbmUpset s x2 x3) := by
  unfold State.hbmUpset
  refine Only.ite ?_ ?_
  · assumption
  · split
    · exact State.hbmPut_only (Part.sub hL (by decide)) (by assumption)
    · assumption

theorem State.selfTestResult_only {L : List Part} {s0 s : State} {x2}
    (hL : [.regs 44] ⊆ L) (h : Only L s0 s) :
    Only L s0 (State.selfTestResult s x2) := by
  unfold State.selfTestResult
  extract_lets n1 s2
  have hs2 : Only L s0 s2 := by
    unfold s2
    refine State.wr_only (Part.sub hL (by decide)) ?_
    exact State.wr_only (Part.sub hL (by decide)) (by assumption)
  clear_value s2
  refine State.wr_only (Part.sub hL (by decide)) ?_
  exact State.wr_only (Part.sub hL (by decide)) (by assumption)

theorem State.selfTestRun_only {L : List Part} {s0 s : State} {x2}
    (hL : [.out, .host, .life, .trc, .regs 0, .regs 4, .regs 44, .regs 49] ⊆ L) (h : Only L s0 s) :
    Only L s0 (State.selfTestRun s x2) := by
  unfold State.selfTestRun
  extract_lets n1 s2
  have hs2 : Only L s0 s2 := by
    unfold s2
    exact State.selfTestResult_only (Part.sub hL (by decide)) (by assumption)
  clear_value s2
  refine Only.foldl _ ?_ (fun s _ h => ?_)
  · assumption
  · refine State.raise_only (Part.sub hL (by decide)) ?_
    exact State.wr_only (Part.sub hL (by decide)) (by assumption)

theorem State.initMemories_only {L : List Part} {s0 s : State}
    (hL : [.mem, .regs 44] ⊆ L) (h : Only L s0 s) :
    Only L s0 (State.initMemories s) := by
  unfold State.initMemories
  extract_lets n1 s2
  have hs2 : Only L s0 s2 := by
    unfold s2
    exact State.setMem_only (Part.sub hL (by decide)) (by assumption)
  clear_value s2
  refine State.wr_only (Part.sub hL (by decide)) ?_
  exact State.wr_only (Part.sub hL (by decide)) (by assumption)

theorem State.initSram_only {L : List Part} {s0 s : State}
    (hL : [.mem] ⊆ L) (h : Only L s0 s) :
    Only L s0 (State.initSram s) := by
  unfold State.initSram
  extract_lets n1
  exact State.setMem_only (Part.sub hL (by decide)) (by assumption)

theorem State.showMram_only {L : List Part} {s0 s : State}
    (hL : [.regs 44] ⊆ L) (h : Only L s0 s) :
    Only L s0 (State.showMram s) := by
  unfold State.showMram
  extract_lets n1 s2 s3 s4 s5 f6
  have hs2 : Only L s0 s2 := by
    unfold s2
    refine State.wr_only (Part.sub hL (by decide)) ?_
    exact State.wr_only (Part.sub hL (by decide)) (by assumption)
  clear_value s2
  have hs3 : Only L s0 s3 := by
    unfold s3
    exact State.wr_only (Part.sub hL (by decide)) (by assumption)
  clear_value s3
  have hs4 : Only L s0 s4 := by
    unfold s4
    refine State.wr_only (Part.sub hL (by decide)) ?_
    exact State.wr_only (Part.sub hL (by decide)) (by assumption)
  clear_value s4
  have hs5 : Only L s0 s5 := by
    unfold s5
    exact State.wr_only (Part.sub hL (by decide)) (by assumption)
  clear_value s5
  have hf6 : ∀ a1 a2 a3 a4, a1.block = 44 → a2.block = 44 → Only L s0 a4 → Only L s0 (f6 a1 a2 a3 a4) := by
    intro a1 a2 a3 a4 h1 h2 h
    unfold f6
    refine Only.foldl _ ?_ (fun s _ h => ?_)
    · assumption
    · refine State.wri_only (by rw [h2]; exact Part.sub hL (by decide)) ?_
      exact State.wri_only (by rw [h1]; exact Part.sub hL (by decide)) (by assumption)
  refine hf6 _ _ _ _ rfl rfl ?_
  refine hf6 _ _ _ _ rfl rfl ?_
  refine hf6 _ _ _ _ rfl rfl ?_
  assumption

theorem State.remapTo_only {L : List Part} {s0 s : State} {x2 x3}
    (hL : [.out, .host, .life, .trc, .mem, .regs 0, .regs 4, .regs 44, .regs 49] ⊆ L) (h : Only L s0 s) :
    Only L s0 (State.remapTo s x2 x3) := by
  unfold State.remapTo
  extract_lets n1 n2 s3 n4 n5 s6 n7 s8
  have hs3 : Only L s0 s3 := by
    unfold s3
    exact State.wr_only (Part.sub hL (by decide)) (by assumption)
  clear_value s3
  have hs6 : Only L s0 s6 := by
    unfold s6
    exact State.copyUnit_only (Part.sub hL (by decide)) (by assumption)
  clear_value s6
  have hs8 : Only L s0 s8 := by
    unfold s8
    exact State.setMem_only (Part.sub hL (by decide)) (by assumption)
  clear_value s8
  refine Only.ite ?_ ?_
  · refine Only.ite ?_ ?_
    · assumption
    · refine State.raise_only (Part.sub hL (by decide)) ?_
      exact State.setMem_only (Part.sub hL (by decide)) (by assumption)
  · refine State.raise_only (Part.sub hL (by decide)) ?_
    exact State.showMram_only (Part.sub hL (by decide)) (by assumption)

theorem State.scrubNext_only {L : List Part} {s0 s : State} {x2}
    (hL : [.mem, .regs 44] ⊆ L) (h : Only L s0 s) :
    Only L s0 (State.scrubNext s x2) := by
  unfold State.scrubNext
  extract_lets n1 n2 s3 n4
  have hs3 : Only L s0 s3 := by
    unfold s3
    refine Only.ite ?_ ?_
    · exact State.wr_only (Part.sub hL (by decide)) (by assumption)
    · assumption
  clear_value s3
  exact State.setMem_only (Part.sub hL (by decide)) (by assumption)

theorem State.windowEvent_only {L : List Part} {s0 s : State} {x2}
    (hL : [.out, .host, .life, .trc, .regs 0, .regs 4, .regs 49] ⊆ L) (h : Only L s0 s) :
    Only L s0 (State.windowEvent s x2) := by
  unfold State.windowEvent
  extract_lets n1
  refine Only.ite ?_ ?_
  · assumption
  · exact State.raise_only (Part.sub hL (by decide)) (by assumption)

theorem State.wordBad_only {L : List Part} {s0 s : State} {x2 x3 x4 x5}
    (hL : [.out, .host, .life, .trc, .mem, .regs 0, .regs 4, .regs 44, .regs 49] ⊆ L) (h : Only L s0 s) :
    Only L s0 (State.wordBad s x2 x3 x4 x5) := by
  unfold State.wordBad
  extract_lets s1 s2 s3
  have hs1 : Only L s0 s1 := by
    unfold s1
    exact State.wordPut_only (Part.sub hL (by decide)) (by assumption)
  clear_value s1
  have hs2 : Only L s0 s2 := by
    unfold s2
    refine State.wr_only (Part.sub hL (by decide)) ?_
    exact State.inc_only (Part.sub hL (by decide)) (by assumption)
  clear_value s2
  have hs3 : Only L s0 s3 := by
    unfold s3
    refine State.wr_only (Part.sub hL (by decide)) ?_
    exact State.inc_only (Part.sub hL (by decide)) (by assumption)
  clear_value s3
  refine Only.ite ?_ ?_
  · refine State.raise_only (Part.sub hL (by decide)) ?_
    exact State.lastErr_only (Part.sub hL (by decide)) (by assumption)
  · refine State.raise_only (Part.sub hL (by decide)) ?_
    exact State.lastErr_only (Part.sub hL (by decide)) (by assumption)

theorem State.wordFixed_only {L : List Part} {s0 s : State} {x2 x3}
    (hL : [.mem] ⊆ L) (h : Only L s0 s) :
    Only L s0 (State.wordFixed s x2 x3) := by
  unfold State.wordFixed
  extract_lets n1
  exact State.wordPut_only (Part.sub hL (by decide)) (by assumption)

theorem State.wordRead_only {L : List Part} {s0 s : State} {x2 x3 x4 x5}
    (hL : [.out, .host, .life, .trc, .mem, .regs 0, .regs 4, .regs 44, .regs 49] ⊆ L) (h : Only L s0 s) :
    Only.Pair L s0 (State.wordRead s x2 x3 x4 x5) := by
  simp only [State.wordRead]
  have h1 := State.inc_only (x2 := F.MEM_SRAM_CORR_COUNT) (Part.sub hL (by decide)) h
  split
  · exact h
  · refine Only.pair (Only.ite (State.raise_only (Part.sub hL (by decide)) ?_) ?_) <;>
      exact Only.ite (State.corrected_only (Part.sub hL (by decide)) h) h1
  · exact Only.pair (State.wordBad_only (Part.sub hL (by decide)) h)

theorem State.wordVerify_only {L : List Part} {s0 s : State} {x2 x3 x4}
    (hL : [.out, .host, .life, .trc, .mem, .regs 0, .regs 4, .regs 44, .regs 49] ⊆ L) (h : Only L s0 s) :
    Only.Pair L s0 (State.wordVerify s x2 x3 x4) := by
  unfold State.wordVerify
  split
  split
  · refine Only.pair ?_
    refine State.wordPut_only (Part.sub hL (by decide)) ?_
    refine Only.of_eq ?_ (by assumption)
    exact State.wordRead_only (Part.sub hL (by decide)) (by assumption)
  · refine Only.pair ?_
    refine Only.of_eq ?_ (by assumption)
    exact State.wordRead_only (Part.sub hL (by decide)) (by assumption)

theorem State.wordScrub_only {L : List Part} {s0 s : State} {x2 x3 x4}
    (hL : [.out, .host, .life, .trc, .mem, .regs 0, .regs 4, .regs 44, .regs 49] ⊆ L) (h : Only L s0 s) :
    Only.Pair L s0 (State.wordScrub s x2 x3 x4) := by
  unfold State.wordScrub
  split
  split
  · split
    split
    refine Only.pair ?_
    refine Only.of_eq ?_ (by assumption)
    refine State.wordVerify_only (Part.sub hL (by decide)) ?_
    refine Only.of_eq ?_ (by assumption)
    refine State.wordVerify_only (Part.sub hL (by decide)) ?_
    refine Only.of_eq ?_ (by assumption)
    exact State.wordVerify_only (Part.sub hL (by decide)) (by assumption)
  · refine Only.pair ?_
    refine Only.of_eq ?_ (by assumption)
    exact State.wordVerify_only (Part.sub hL (by decide)) (by assumption)

theorem State.wordUpset_only {L : List Part} {s0 s : State} {x2 x3 x4}
    (hL : [.mem] ⊆ L) (h : Only L s0 s) :
    Only L s0 (State.wordUpset s x2 x3 x4) := by
  unfold State.wordUpset
  extract_lets n1
  refine Only.ite ?_ ?_
  · assumption
  · exact State.wordPut_only (Part.sub hL (by decide)) (by assumption)

theorem execDieFailureDeclared_only {L : List Part} {s0 s : State} {x1}
    (hL : [.out, .host, .life, .trc, .mem, .regs 0, .regs 4, .regs 44, .regs 49] ⊆ L) (h : Only L s0 s) :
    Only.Out L s0 (execDieFailureDeclared x1 s) := by
  unfold execDieFailureDeclared
  refine Only.iteOut ?_ ?_
  · refine Only.next ?_
    exact State.declareDie_only (Part.sub hL (by decide)) (by assumption)
  · refine Only.next ?_
    assumption

theorem execCorrectionWindowEnd_only {L : List Part} {s0 s : State}
    (hL : [.out, .host, .life, .trc, .mem, .regs 0, .regs 4, .regs 44, .regs 49] ⊆ L) (h : Only L s0 s) :
    Only.Out L s0 (execCorrectionWindowEnd s) := by
  unfold execCorrectionWindowEnd
  extract_lets s1 s2 n3
  have hs1 : Only L s0 s1 := by
    unfold s1
    split
    · exact State.declareDie_only (Part.sub hL (by decide)) (by assumption)
    · assumption
  clear_value s1
  have hs2 : Only L s0 s2 := by
    unfold s2
    refine State.windowEvent_only (Part.sub hL (by decide)) ?_
    refine State.windowEvent_only (Part.sub hL (by decide)) ?_
    exact State.windowEvent_only (Part.sub hL (by decide)) (by assumption)
  clear_value s2
  refine Only.next ?_
  exact State.setMem_only (Part.sub hL (by decide)) (by assumption)

theorem execScrubPassStart_only {L : List Part} {s0 s : State} {x1}
    (hL : [.out, .host, .life, .trc, .mem, .regs 0, .regs 4, .regs 44, .regs 49] ⊆ L) (h : Only L s0 s) :
    Only.Out L s0 (execScrubPassStart x1 s) := by
  unfold execScrubPassStart
  extract_lets n1 n2 s3 s4 n5
  have hs3 : Only L s0 s3 := by
    unfold s3
    refine Only.foldl _ ?_ (fun s _ h => ?_)
    · assumption
    · refine Only.ite ?_ ?_
      · exact State.remapTo_only (Part.sub hL (by decide)) (by assumption)
      · assumption
  clear_value s3
  have hs4 : Only L s0 s4 := by
    unfold s4
    refine Only.ite ?_ ?_
    · exact State.wr_only (Part.sub hL (by decide)) (by assumption)
    · assumption
  clear_value s4
  refine Only.iteOut ?_ ?_
  · refine Only.next ?_
    assumption
  · refine Only.next ?_
    exact State.setMem_only (Part.sub hL (by decide)) (by assumption)

theorem execHardFaultRemap_only {L : List Part} {s0 s : State} {x1 x2}
    (hL : [.out, .host, .life, .trc, .mem, .regs 0, .regs 4, .regs 44, .regs 49] ⊆ L) (h : Only L s0 s) :
    Only.Out L s0 (execHardFaultRemap x1 x2 s) := by
  unfold execHardFaultRemap
  refine Only.iteOut ?_ ?_
  · refine Only.next ?_
    exact State.remapTo_only (Part.sub hL (by decide)) (by assumption)
  · refine Only.next ?_
    assumption

theorem execMemSelftestRun_only {L : List Part} {s0 s : State} {x1}
    (hL : [.out, .host, .life, .trc, .regs 0, .regs 4, .regs 44, .regs 49] ⊆ L) (h : Only L s0 s) :
    Only.Out L s0 (execMemSelftestRun x1 s) := by
  unfold execMemSelftestRun
  refine Only.next ?_
  exact State.selfTestRun_only (Part.sub hL (by decide)) (by assumption)

end Sys2Proof.Machine
end

