-- ==== Sys2Proof/Laws/OnlyMgmt.lean ====
section
/-!
SUPPORT. The parts of the state that an operation of Machine/Mgmt.lean may change (Laws/Only.lean).
-/

set_option Elab.async false

namespace Sys2Proof.Machine

theorem State.sendDone_only {L : List Part} {s0 s : State} {x2}
    (hL : [.out, .grp] ⊆ L) (h : Only L s0 s) :
    Only L s0 (State.sendDone s x2) := by
  unfold State.sendDone
  exact State.sendSeq_only (Part.sub hL (by decide)) (by assumption)

theorem State.startMgmt_only {L : List Part} {s0 s : State} {x2}
    (hL : [.sq] ⊆ L) (h : Only L s0 s) :
    Only L s0 (State.startMgmt s x2) := by
  unfold State.startMgmt
  extract_lets n1 s2
  have hs2 : Only L s0 s2 := by
    unfold s2
    exact State.arrive_only (Part.sub hL (by decide)) (by assumption)
  clear_value s2
  split
  · exact State.setCmd_only (Part.sub hL (by decide)) (by assumption)
  · assumption

theorem State.takeMgmtCmd_only {L : List Part} {s0 s : State} {x2 x3 x4 x5 x6 x7}
    (hL : [.out, .sq, .grp] ⊆ L) (h : Only L s0 s) :
    Only L s0 (State.takeMgmtCmd s x2 x3 x4 x5 x6 x7) := by
  unfold State.takeMgmtCmd
  split
  · extract_lets n1 n2 s3
    have hs3 : Only L s0 s3 := by
      unfold s3
      exact State.setGrp_only (Part.sub hL (by decide)) (by assumption)
    clear_value s3
    refine Only.ite ?_ ?_
    · exact State.sendDone_only (Part.sub hL (by decide)) (by assumption)
    · refine Only.ite ?_ ?_
      · assumption
      · refine Only.ite ?_ ?_
        · exact State.startMgmt_only (Part.sub hL (by decide)) (by assumption)
        · assumption
  · extract_lets n4 n5 n6 s7
    have hs7 : Only L s0 s7 := by
      unfold s7
      exact State.setGrp_only (Part.sub hL (by decide)) (by assumption)
    clear_value s7
    refine Only.ite ?_ ?_
    · assumption
    · refine Only.ite ?_ ?_
      · exact State.startMgmt_only (Part.sub hL (by decide)) (by assumption)
      · assumption

theorem State.partsEnded_only {L : List Part} {s0 s : State} {x2}
    (hL : [.out, .host, .sq, .obj, .life, .boot, .tape, .disk, .trc, .grp, .red, .regs 0, .regs 4, .regs 8,
      .regs 48, .regs 49] ⊆ L) (h : Only L s0 s) :
    Only L s0 (State.partsEnded s x2) := by
  unfold State.partsEnded
  split
  · assumption
  · refine Only.ite ?_ ?_
    · assumption
    · refine Only.ite ?_ ?_
      · exact State.finish_only (Part.sub hL (by decide)) (by assumption)
      · refine Only.ite ?_ ?_
        · exact State.keyDone_only (Part.sub hL (by decide)) (by assumption)
        · refine Only.ite ?_ ?_
          · exact State.writeStep_only (Part.sub hL (by decide)) (by assumption)
          · refine Only.ite ?_ ?_
            · exact State.activateStep_only (Part.sub hL (by decide)) (by assumption)
            · assumption

theorem State.partDone_only {L : List Part} {s0 s : State} {x2 x3 x4 x5}
    (hL : [.out, .host, .sq, .obj, .life, .boot, .tape, .disk, .trc, .grp, .red, .regs 0, .regs 4, .regs 8,
      .regs 48, .regs 49] ⊆ L) (h : Only L s0 s) :
    Only L s0 (State.partDone s x2 x3 x4 x5) := by
  unfold State.partDone
  extract_lets n1 s2
  have hs2 : Only L s0 s2 := by
    unfold s2
    exact State.setGrp_only (Part.sub hL (by decide)) (by assumption)
  clear_value s2
  split
  · assumption
  · split
    · assumption
    · extract_lets n3
      refine State.partsEnded_only (Part.sub hL (by decide)) ?_
      exact State.setCmd_only (Part.sub hL (by decide)) (by assumption)

theorem State.takeMgmtDone_only {L : List Part} {s0 s : State} {x2 x3 x4}
    (hL : [.out, .host, .sq, .obj, .life, .boot, .tape, .disk, .trc, .grp, .red, .regs 0, .regs 4, .regs 8,
      .regs 48, .regs 49] ⊆ L) (h : Only L s0 s) :
    Only L s0 (State.takeMgmtDone s x2 x3 x4) := by
  unfold State.takeMgmtDone
  split
  · exact State.partDone_only (Part.sub hL (by decide)) (by assumption)
  · assumption

theorem State.takeMgmt_only {L : List Part} {s0 s : State} {x2 x3 x4}
    (hL : [.out, .free, .host, .sq, .obj, .life, .boot, .tape, .disk, .trc, .grp, .red, .regs 0, .regs 4,
      .regs 8, .regs 16, .regs 36, .regs 40, .regs 48, .regs 49] ⊆ L) (h : Only L s0 s) :
    Only L s0 (State.takeMgmt s x2 x3 x4) := by
  unfold State.takeMgmt
  extract_lets n1 n2 n3
  split
  · exact State.takeMgmtCmd_only (Part.sub hL (by decide)) (by assumption)
  · exact State.takeMgmtDone_only (Part.sub hL (by decide)) (by assumption)
  · refine Only.ite ?_ ?_
    · exact State.adminAsk_only (Part.sub hL (by decide)) (by assumption)
    · exact State.answerAdmin_only (Part.sub hL (by decide)) (by assumption)
  · split
    · refine State.mgmtReply_only (Part.sub hL (by decide)) ?_
      exact State.setGrp_only (Part.sub hL (by decide)) (by assumption)
    · assumption
  · assumption

theorem State.losePeer_only {L : List Part} {s0 s : State} {x2}
    (hL : [.out, .host, .sq, .obj, .life, .boot, .tape, .disk, .trc, .grp, .red, .regs 0, .regs 4, .regs 8,
      .regs 48, .regs 49] ⊆ L) (h : Only L s0 s) :
    Only L s0 (State.losePeer s x2) := by
  unfold State.losePeer
  refine Only.foldl _ ?_ (fun s _ h => ?_)
  · assumption
  · exact State.partDone_only (Part.sub hL (by decide)) (by assumption)

theorem State.tellMgmt_only {L : List Part} {s0 s : State}
    (hL : [.out, .grp] ⊆ L) (h : Only L s0 s) :
    Only L s0 (State.tellMgmt s) := by
  unfold State.tellMgmt
  extract_lets n1 n2 s3
  have hs3 : Only L s0 s3 := by
    unfold s3
    exact State.setGrp_only (Part.sub hL (by decide)) (by assumption)
  clear_value s3
  refine Only.foldl _ ?_ (fun s _ h => ?_)
  · assumption
  · exact State.sendDone_only (Part.sub hL (by decide)) (by assumption)

theorem State.mgmtAnswer_only {L : List Part} {s0 s : State} {x2 x3 x4 x5 x6}
    (hL : [.out] ⊆ L) (h : Only L s0 s) :
    Only L s0 (State.mgmtAnswer s x2 x3 x4 x5 x6) := by
  unfold State.mgmtAnswer
  refine Only.ite ?_ ?_
  · exact State.mgmtReply_only (Part.sub hL (by decide)) (by assumption)
  · exact State.mgmtReply_only (Part.sub hL (by decide)) (by assumption)

theorem execMemberUnreachableTimeout_only {L : List Part} {s0 s : State} {x1}
    (hL : [.out, .free, .host, .sq, .obj, .life, .boot, .tape, .disk, .trc, .grp, .red, .regs 0, .regs 4,
      .regs 8, .regs 16, .regs 36, .regs 40, .regs 48, .regs 49] ⊆ L) (h : Only L s0 s) :
    Only.Out L s0 (execMemberUnreachableTimeout x1 s) := by
  unfold execMemberUnreachableTimeout
  extract_lets n1 s2 s3
  have hs2 : Only L s0 s2 := by
    unfold s2
    exact State.setAge_only (Part.sub hL (by decide)) (by assumption)
  clear_value s2
  have hs3 : Only L s0 s3 := by
    unfold s3
    exact State.raise_only (Part.sub hL (by decide)) (by assumption)
  clear_value s3
  refine Only.iteOut ?_ ?_
  · refine Only.next ?_
    refine State.groupStep_only (Part.sub hL (by decide)) ?_
    exact State.formFails_only (Part.sub hL (by decide)) (by assumption)
  · refine Only.iteOut ?_ ?_
    · refine Only.next ?_
      refine State.losePeer_only (Part.sub hL (by decide)) ?_
      exact State.markSlow_only (Part.sub hL (by decide)) (by assumption)
    · refine Only.next ?_
      assumption

theorem execMgmtGetMembership_only {L : List Part} {s0 s : State} {x1 x2}
    (hL : [.out] ⊆ L) (h : Only L s0 s) :
    Only.Out L s0 (execMgmtGetMembership x1 x2 s) := by
  unfold execMgmtGetMembership
  extract_lets n1
  refine Only.next ?_
  exact State.mgmtAnswer_only (Part.sub hL (by decide)) (by assumption)

theorem execMgmtReadEvent_only {L : List Part} {s0 s : State} {x1 x2}
    (hL : [.out, .host, .regs 4] ⊆ L) (h : Only L s0 s) :
    Only.Out L s0 (execMgmtReadEvent x1 x2 s) := by
  unfold execMgmtReadEvent
  extract_lets s1
  have hs1 : Only L s0 s1 := by
    unfold s1
    exact State.popEvt_only (Part.sub hL (by decide)) (by assumption)
  clear_value s1
  refine Only.iteOut ?_ ?_
  · refine Only.next ?_
    exact State.mgmtReply_only (Part.sub hL (by decide)) (by assumption)
  · refine Only.next ?_
    exact State.mgmtReply_only (Part.sub hL (by decide)) (by assumption)

theorem execMgmtHealth_only {L : List Part} {s0 s : State} {x1 x2}
    (hL : [.out] ⊆ L) (h : Only L s0 s) :
    Only.Out L s0 (execMgmtHealth x1 x2 s) := by
  unfold execMgmtHealth
  refine Only.next ?_
  exact State.mgmtAnswer_only (Part.sub hL (by decide)) (by assumption)

theorem execMgmtRegRead_only {L : List Part} {s0 s : State} {x1 x2 x3}
    (hL : [.out, .host, .regs 0, .regs 1, .regs 2, .regs 4, .regs 10, .regs 12, .regs 16, .regs 20, .regs 24,
      .regs 28, .regs 32, .regs 36, .regs 40, .regs 44, .regs 49] ⊆ L) (h : Only L s0 s) :
    Only.Out L s0 (execMgmtRegRead x1 x2 x3 s) := by
  unfold execMgmtRegRead
  extract_lets n1
  refine Only.iteOut ?_ ?_
  · refine Only.next ?_
    exact State.mgmtReply_only (Part.sub hL (by decide)) (by assumption)
  · refine Only.iteOut ?_ ?_
    · refine Only.next ?_
      exact State.mgmtReply_only (Part.sub hL (by decide)) (by assumption)
    · split
      refine Only.next ?_
      refine State.mgmtReply_only (Part.sub hL (by decide)) ?_
      refine Only.of_eq ?_ (by assumption)
      exact State.readReg_only (Part.sub hL (by decide)) (by assumption)

theorem execMgmtAdmin_only {L : List Part} {s0 s : State} {x1 x2 x3 x4 x5 x6}
    (hL : [.out, .free, .host, .sq, .obj, .life, .tape, .disk, .trc, .grp, .red, .regs 0, .regs 4, .regs 8,
      .regs 16, .regs 36, .regs 40, .regs 49] ⊆ L) (h : Only L s0 s) :
    Only.Out L s0 (execMgmtAdmin x1 x2 x3 x4 x5 x6 s) := by
  unfold execMgmtAdmin
  extract_lets n1 n2 n3 s4
  have hs4 : Only L s0 s4 := by
    unfold s4
    exact State.setGrp_only (Part.sub hL (by decide)) (by assumption)
  clear_value s4
  refine Only.iteOut ?_ ?_
  · refine Only.next ?_
    exact State.mgmtReply_only (Part.sub hL (by decide)) (by assumption)
  · split
    · refine Only.next ?_
      exact State.mgmtReply_only (Part.sub hL (by decide)) (by assumption)
    · refine Only.iteOut ?_ ?_
      · refine Only.next ?_
        refine State.groupStep_only (Part.sub hL (by decide)) ?_
        exact State.adminAsk_only (Part.sub hL (by decide)) (by assumption)
      · refine Only.iteOut ?_ ?_
        · refine Only.next ?_
          exact State.mgmtReply_only (Part.sub hL (by decide)) (by assumption)
        · refine Only.next ?_
          exact State.sendSeq_only (Part.sub hL (by decide)) (by assumption)

theorem execMgmtLogRead_only {L : List Part} {s0 s : State} {x1 x2 x3 x4}
    (hL : [.out] ⊆ L) (h : Only L s0 s) :
    Only.Out L s0 (execMgmtLogRead x1 x2 x3 x4 s) := by
  unfold execMgmtLogRead
  extract_lets n1 n2
  refine Only.next ?_
  exact State.mgmtAnswer_only (Part.sub hL (by decide)) (by assumption)

theorem execMgmtBusTimeout_only {L : List Part} {s0 s : State}
    (hL : [.out] ⊆ L) (h : Only L s0 s) :
    Only.Out L s0 (execMgmtBusTimeout s) := by
  unfold execMgmtBusTimeout
  refine Only.next ?_
  exact State.emit_only (Part.sub hL (by decide)) (by assumption)

theorem execMgmtAddressAssignment_only {L : List Part} {s0 s : State} {x1 x2}
    (hL : [.grp] ⊆ L) (h : Only L s0 s) :
    Only.Out L s0 (execMgmtAddressAssignment x1 x2 s) := by
  unfold execMgmtAddressAssignment
  extract_lets n1
  refine Only.next ?_
  exact State.setGrp_only (Part.sub hL (by decide)) (by assumption)

theorem execMctpControlMessage_only {L : List Part} {s0 s : State} {x1 x2 x3}
    (hL : [.out, .grp] ⊆ L) (h : Only L s0 s) :
    Only.Out L s0 (execMctpControlMessage x1 x2 x3 s) := by
  unfold execMctpControlMessage
  extract_lets n1 s2
  have hs2 : Only L s0 s2 := by
    unfold s2
    refine Only.ite ?_ ?_
    · exact State.setGrp_only (Part.sub hL (by decide)) (by assumption)
    · assumption
  clear_value s2
  refine Only.next ?_
  exact State.emit_only (Part.sub hL (by decide)) (by assumption)

end Sys2Proof.Machine
end

