-- ==== Sys2Proof/Laws/OnlySorrel.lean ====
section
/-!
SUPPORT. The parts of the state that an operation of Machine/Sorrel.lean may change (Laws/Only.lean).
-/

set_option Elab.async false

namespace Sys2Proof.Machine

theorem State.cellDone_only {L : List Part} {s0 s : State} {x2}
    (hL : [.det] ⊆ L) (h : Only L s0 s) :
    Only L s0 (State.cellDone s x2) := by
  unfold State.cellDone
  extract_lets n1 n2
  exact State.setCell_only (Part.sub hL (by decide)) (by assumption)

theorem State.tapeLost_only {L : List Part} {s0 s : State} {x2 x3 x4}
    (hL : [.out, .host, .obj, .life, .tape, .mot, .ctl, .trc, .pwr, .regs 0, .regs 4, .regs 32, .regs 49] ⊆ L) (h : Only L s0 s) :
    Only L s0 (State.tapeLost s x2 x3 x4) := by
  unfold State.tapeLost
  extract_lets n1 n2 s3 n4 s5
  have hs3 : Only L s0 s3 := by
    unfold s3
    exact State.setTape_only (Part.sub hL (by decide)) (by assumption)
  clear_value s3
  have hs5 : Only L s0 s5 := by
    unfold s5
    refine Only.ite ?_ ?_
    · refine Only.foldl _ ?_ (fun s _ h => ?_)
      · assumption
      · extract_lets n6
        exact State.setUnit_only (Part.sub hL (by decide)) (by assumption)
    · exact State.loseUnits_only (Part.sub hL (by decide)) (by assumption)
  clear_value s5
  exact State.readSet_only (Part.sub hL (by decide)) (by assumption)

theorem State.tapeSettle_only {L : List Part} {s0 s : State} {x2 x3}
    (hL : [.out, .host, .obj, .life, .tape, .mot, .ctl, .trc, .pwr, .regs 0, .regs 4, .regs 32, .regs 49] ⊆ L) (h : Only L s0 s) :
    Only L s0 (State.tapeSettle s x2 x3) := by
  unfold State.tapeSettle
  extract_lets n1 n2
  refine Only.ite ?_ ?_
  · assumption
  · refine Only.ite ?_ ?_
    · exact State.tapeLost_only (Part.sub hL (by decide)) (by assumption)
    · exact State.seekSet_only (Part.sub hL (by decide)) (by assumption)

theorem State.tapeMissing_only {L : List Part} {s0 s : State} {x2 x3 x4}
    (hL : [.out, .host, .obj, .life, .tape, .mot, .ctl, .trc, .pwr, .regs 0, .regs 4, .regs 32, .regs 49] ⊆ L) (h : Only L s0 s) :
    Only L s0 (State.tapeMissing s x2 x3 x4) := by
  unfold State.tapeMissing
  extract_lets n1 n2 n3 n4 s5
  have hs5 : Only L s0 s5 := by
    unfold s5
    exact State.setTape_only (Part.sub hL (by decide)) (by assumption)
  clear_value s5
  refine Only.ite ?_ ?_
  · assumption
  · exact State.tapeSettle_only (Part.sub hL (by decide)) (by assumption)

theorem State.sectorEnd_only {L : List Part} {s0 s : State} {x2 x3 x4}
    (hL : [.out, .host, .sq, .obj, .life, .tape, .disk, .trc, .grp, .red, .regs 0, .regs 4, .regs 8, .regs 16,
      .regs 49] ⊆ L) (h : Only L s0 s) :
    Only L s0 (State.sectorEnd s x2 x3 x4) := by
  unfold State.sectorEnd
  extract_lets s1
  have hs1 : Only L s0 s1 := by
    unfold s1
    exact State.headRead_only (Part.sub hL (by decide)) (by assumption)
  clear_value s1
  split
  · exact State.zoneRead_only (Part.sub hL (by decide)) (by assumption)
  · exact State.landingRead_only (Part.sub hL (by decide)) (by assumption)
  · assumption

theorem State.setUpReread_only {L : List Part} {s0 s : State} {x2}
    (hL : [.out, .det, .wra] ⊆ L) (h : Only L s0 s) :
    Only L s0 (State.setUpReread s x2) := by
  unfold State.setUpReread
  extract_lets n1 s2 n3 s4 n5 s6 n7
  have hs2 : Only L s0 s2 := by
    unfold s2
    refine Only.ite ?_ ?_
    · exact State.setLane_only (Part.sub hL (by decide)) (by assumption)
    · assumption
  clear_value s2
  have hs4 : Only L s0 s4 := by
    unfold s4
    refine Only.ite ?_ ?_
    · exact State.setLane_only (Part.sub hL (by decide)) (by assumption)
    · refine Only.ite ?_ ?_
      · exact State.setLane_only (Part.sub hL (by decide)) (by assumption)
      · assumption
  clear_value s4
  have hs6 : Only L s0 s6 := by
    unfold s6
    refine Only.ite ?_ ?_
    · refine State.sendBias_only (Part.sub hL (by decide)) ?_
      exact State.sendBias_only (Part.sub hL (by decide)) (by assumption)
    · assumption
  clear_value s6
  exact State.setDet_only (Part.sub hL (by decide)) (by assumption)

theorem State.ladderStep_only {L : List Part} {s0 s : State} {x2 x3}
    (hL : [.out, .host, .sq, .obj, .life, .tape, .disk, .det, .wra, .trc, .grp, .red, .regs 0, .regs 4,
      .regs 8, .regs 16, .regs 20, .regs 49] ⊆ L) (h : Only L s0 s) :
    Only L s0 (State.ladderStep s x2 x3) := by
  unfold State.ladderStep
  extract_lets n1 n2
  refine Only.ite ?_ ?_
  · refine State.sectorEnd_only (Part.sub hL (by decide)) ?_
    exact State.freeSamples_only (Part.sub hL (by decide)) (by assumption)
  · refine Only.ite ?_ ?_
    · exact State.setDet_only (Part.sub hL (by decide)) (by assumption)
    · refine State.setUpReread_only (Part.sub hL (by decide)) ?_
      exact State.freeSamples_only (Part.sub hL (by decide)) (by assumption)

theorem State.enterLadder_only {L : List Part} {s0 s : State} {x2 x3}
    (hL : [.out, .host, .sq, .obj, .life, .tape, .disk, .det, .wra, .trc, .grp, .red, .regs 0, .regs 4,
      .regs 8, .regs 16, .regs 20, .regs 49] ⊆ L) (h : Only L s0 s) :
    Only L s0 (State.enterLadder s x2 x3) := by
  unfold State.enterLadder
  refine State.ladderStep_only (Part.sub hL (by decide)) ?_
  exact State.lifeAdd_only (Part.sub hL (by decide)) (by assumption)

theorem State.sectorFailed_only {L : List Part} {s0 s : State} {x2 x3}
    (hL : [.out, .host, .sq, .obj, .life, .tape, .disk, .det, .wra, .trc, .grp, .red, .regs 0, .regs 4,
      .regs 8, .regs 16, .regs 20, .regs 49] ⊆ L) (h : Only L s0 s) :
    Only L s0 (State.sectorFailed s x2 x3) := by
  unfold State.sectorFailed
  extract_lets f1
  have hf1 : ∀ a1, Only L s0 a1 → Only L s0 (f1 a1) := by
    intro a1 h
    unfold f1
    refine Only.ite ?_ ?_
    · exact State.enterLadder_only (Part.sub hL (by decide)) (by assumption)
    · exact State.ladderStep_only (Part.sub hL (by decide)) (by assumption)
  split
  · refine Only.ite ?_ ?_
    · refine State.failReadBack_only (Part.sub hL (by decide)) ?_
      exact State.freeSamples_only (Part.sub hL (by decide)) (by assumption)
    · refine hf1 _ ?_
      assumption
  · refine hf1 _ ?_
    assumption

theorem State.cwFailed_only {L : List Part} {s0 s : State} {x2 x3}
    (hL : [.out, .host, .sq, .obj, .life, .tape, .mot, .disk, .det, .medium, .wra, .ctl, .trc, .grp, .red,
      .pwr, .regs 0, .regs 4, .regs 8, .regs 16, .regs 20, .regs 24, .regs 28, .regs 32, .regs 49] ⊆ L) (h : Only L s0 s) :
    Only L s0 (State.cwFailed s x2 x3) := by
  unfold State.cwFailed
  extract_lets s1 n2
  have hs1 : Only L s0 s1 := by
    unfold s1
    exact State.inc_only (Part.sub hL (by decide)) (by assumption)
  clear_value s1
  split
  · refine State.verifyDecide_only (Part.sub hL (by decide)) ?_
    exact State.freeSamples_only (Part.sub hL (by decide)) (by assumption)
  · refine Only.ite ?_ ?_
    · exact State.setDet_only (Part.sub hL (by decide)) (by assumption)
    · refine State.tapeMissing_only (Part.sub hL (by decide)) ?_
      exact State.freeSamples_only (Part.sub hL (by decide)) (by assumption)
  · split
    · exact State.setDet_only (Part.sub hL (by decide)) (by assumption)
    · exact State.sectorFailed_only (Part.sub hL (by decide)) (by assumption)
    · exact State.sectorFailed_only (Part.sub hL (by decide)) (by assumption)

theorem State.tapeGood_only {L : List Part} {s0 s : State} {x2 x3 x4}
    (hL : [.out, .host, .obj, .life, .tape, .mot, .ctl, .trc, .pwr, .regs 0, .regs 4, .regs 32, .regs 49] ⊆ L) (h : Only L s0 s) :
    Only L s0 (State.tapeGood s x2 x3 x4) := by
  unfold State.tapeGood
  extract_lets n1 n2 n3 s4
  have hs4 : Only L s0 s4 := by
    unfold s4
    exact State.setTape_only (Part.sub hL (by decide)) (by assumption)
  clear_value s4
  exact State.tapeSettle_only (Part.sub hL (by decide)) (by assumption)

theorem State.cwGood_only {L : List Part} {s0 s : State} {x2 x3 x4 x5}
    (hL : [.out, .host, .sq, .obj, .life, .tape, .mot, .disk, .det, .medium, .wra, .ctl, .trc, .grp, .red,
      .pwr, .regs 0, .regs 4, .regs 8, .regs 16, .regs 20, .regs 24, .regs 28, .regs 32, .regs 49] ⊆ L) (h : Only L s0 s) :
    Only L s0 (State.cwGood s x2 x3 x4 x5) := by
  unfold State.cwGood
  extract_lets s1
  have hs1 : Only L s0 s1 := by
    unfold s1
    exact State.add64_only (Part.sub hL (by decide)) (by assumption)
  clear_value s1
  split
  · refine State.verifyDecide_only (Part.sub hL (by decide)) ?_
    exact State.freeSamples_only (Part.sub hL (by decide)) (by assumption)
  · refine Only.ite ?_ ?_
    · refine State.tapeGood_only (Part.sub hL (by decide)) ?_
      exact State.freeSamples_only (Part.sub hL (by decide)) (by assumption)
    · refine State.tapeMissing_only (Part.sub hL (by decide)) ?_
      exact State.freeSamples_only (Part.sub hL (by decide)) (by assumption)
  · refine Only.ite ?_ ?_
    · refine Only.ite ?_ ?_
      · refine State.passReadBack_only (Part.sub hL (by decide)) ?_
        exact State.freeSamples_only (Part.sub hL (by decide)) (by assumption)
      · refine State.failReadBack_only (Part.sub hL (by decide)) ?_
        exact State.freeSamples_only (Part.sub hL (by decide)) (by assumption)
    · refine Only.ite ?_ ?_
      · refine State.sectorEnd_only (Part.sub hL (by decide)) ?_
        exact State.freeSamples_only (Part.sub hL (by decide)) (by assumption)
      · exact State.sectorFailed_only (Part.sub hL (by decide)) (by assumption)
  · refine Only.ite ?_ ?_
    · refine State.sectorEnd_only (Part.sub hL (by decide)) ?_
      exact State.freeSamples_only (Part.sub hL (by decide)) (by assumption)
    · exact State.sectorFailed_only (Part.sub hL (by decide)) (by assumption)

theorem State.dropped_only {L : List Part} {s0 s : State} {x2}
    (hL : [.out, .host, .life, .disk, .det, .trc, .regs 0, .regs 4, .regs 16, .regs 49] ⊆ L) (h : Only L s0 s) :
    Only L s0 (State.dropped s x2) := by
  unfold State.dropped
  extract_lets n1 s2
  have hs2 : Only L s0 s2 := by
    unfold s2
    refine State.setDet_only (Part.sub hL (by decide)) ?_
    exact State.lifeAdd_only (Part.sub hL (by decide)) (by assumption)
  clear_value s2
  split
  · refine Only.ite ?_ ?_
    · exact State.failReadBack_only (Part.sub hL (by decide)) (by assumption)
    · assumption
  · assumption

theorem State.expireVerify_only {L : List Part} {s0 s : State} {x2}
    (hL : [.out, .host, .sq, .obj, .life, .tape, .mot, .disk, .det, .medium, .wra, .ctl, .trc, .grp, .red,
      .pwr, .regs 0, .regs 4, .regs 8, .regs 16, .regs 20, .regs 28, .regs 32, .regs 49] ⊆ L) (h : Only L s0 s) :
    Only L s0 (State.expireVerify s x2) := by
  unfold State.expireVerify
  extract_lets n1 n2 n3 s4
  have hs4 : Only L s0 s4 := by
    unfold s4
    exact State.setDet_only (Part.sub hL (by decide)) (by assumption)
  clear_value s4
  refine Only.foldl _ ?_ (fun s _ h => ?_)
  · assumption
  · split
    · refine State.verifyDecide_only (Part.sub hL (by decide)) ?_
      exact State.freeSamples_only (Part.sub hL (by decide)) (by assumption)
    · exact State.freeSamples_only (Part.sub hL (by decide)) (by assumption)

theorem State.leaveSorrel_only {L : List Part} {s0 s : State} {x2}
    (hL : [.det] ⊆ L) (h : Only L s0 s) :
    Only L s0 (State.leaveSorrel s x2) := by
  unfold State.leaveSorrel
  extract_lets n1 s2
  have hs2 : Only L s0 s2 := by
    unfold s2
    exact State.setDet_only (Part.sub hL (by decide)) (by assumption)
  clear_value s2
  refine Only.foldl _ ?_ (fun s _ h => ?_)
  · assumption
  · extract_lets n3
    refine Only.ite ?_ ?_
    · exact State.setCell_only (Part.sub hL (by decide)) (by assumption)
    · assumption

theorem State.poisoned_only {L : List Part} {s0 s : State} {x2}
    (hL : [.out, .host, .sq, .obj, .life, .tape, .mot, .disk, .det, .medium, .wra, .ctl, .trc, .grp, .red,
      .pwr, .regs 0, .regs 4, .regs 8, .regs 16, .regs 20, .regs 28, .regs 32, .regs 49] ⊆ L) (h : Only L s0 s) :
    Only L s0 (State.poisoned s x2) := by
  unfold State.poisoned
  extract_lets s1 s2 n3
  have hs1 : Only L s0 s1 := by
    unfold s1
    refine State.raise_only (Part.sub hL (by decide)) ?_
    exact State.wr_only (Part.sub hL (by decide)) (by assumption)
  clear_value s1
  have hs2 : Only L s0 s2 := by
    unfold s2
    refine State.freeSamples_only (Part.sub hL (by decide)) ?_
    exact State.leaveSorrel_only (Part.sub hL (by decide)) (by assumption)
  clear_value s2
  split
  · exact State.verifyDecide_only (Part.sub hL (by decide)) (by assumption)
  · exact State.tapeMissing_only (Part.sub hL (by decide)) (by assumption)
  · refine Only.ite ?_ ?_
    · exact State.failReadBack_only (Part.sub hL (by decide)) (by assumption)
    · exact State.setDet_only (Part.sub hL (by decide)) (by assumption)
  · exact State.setDet_only (Part.sub hL (by decide)) (by assumption)

theorem State.showCells_only {L : List Part} {s0 s : State}
    (hL : [.regs 24] ⊆ L) (h : Only L s0 s) :
    Only L s0 (State.showCells s) := by
  unfold State.showCells
  refine State.wr_only (Part.sub hL (by decide)) ?_
  refine State.wr_only (Part.sub hL (by decide)) ?_
  exact State.wr_only (Part.sub hL (by decide)) (by assumption)

theorem State.initCells_only {L : List Part} {s0 s : State}
    (hL : [.regs 24] ⊆ L) (h : Only L s0 s) :
    Only L s0 (State.initCells s) := by
  unfold State.initCells
  extract_lets s1 n2
  have hs1 : Only L s0 s1 := by
    unfold s1
    exact State.wr_only (Part.sub hL (by decide)) (by assumption)
  clear_value s1
  refine State.showCells_only (Part.sub hL (by decide)) ?_
  exact State.wr_only (Part.sub hL (by decide)) (by assumption)

theorem State.promote_only {L : List Part} {s0 s : State} {x2}
    (hL : [.det] ⊆ L) (h : Only L s0 s) :
    Only L s0 (State.promote s x2) := by
  unfold State.promote
  extract_lets n1 n2 n3
  exact State.setDet_only (Part.sub hL (by decide)) (by assumption)

theorem State.rereadOver_only {L : List Part} {s0 s : State} {x2}
    (hL : [.out, .det, .wra] ⊆ L) (h : Only L s0 s) :
    Only L s0 (State.rereadOver s x2) := by
  unfold State.rereadOver
  extract_lets n1 s2 n3 s4
  have hs2 : Only L s0 s2 := by
    unfold s2
    exact State.setDet_only (Part.sub hL (by decide)) (by assumption)
  clear_value s2
  have hs4 : Only L s0 s4 := by
    unfold s4
    refine Only.ite ?_ ?_
    · exact State.setLane_only (Part.sub hL (by decide)) (by assumption)
    · assumption
  clear_value s4
  refine Only.ite ?_ ?_
  · exact State.sendBias_only (Part.sub hL (by decide)) (by assumption)
  · assumption

theorem State.retireCell_only {L : List Part} {s0 s : State} {x2 x3}
    (hL : [.out, .host, .sq, .obj, .life, .tape, .mot, .disk, .det, .medium, .trc, .grp, .red, .regs 0,
      .regs 4, .regs 8, .regs 16, .regs 24, .regs 32, .regs 49] ⊆ L) (h : Only L s0 s) :
    Only L s0 (State.retireCell s x2 x3) := by
  unfold State.retireCell
  extract_lets n1 s2 s3 n4 s5 s6 n7 s8 n9 s10 s11
  have hs2 : Only L s0 s2 := by
    unfold s2
    exact State.setCell_only (Part.sub hL (by decide)) (by assumption)
  clear_value s2
  have hs3 : Only L s0 s3 := by
    unfold s3
    refine State.wr_only (Part.sub hL (by decide)) ?_
    exact State.raiseBit_only (Part.sub hL (by decide)) (by assumption)
  clear_value s3
  have hs5 : Only L s0 s5 := by
    unfold s5
    exact State.setDet_only (Part.sub hL (by decide)) (by assumption)
  clear_value s5
  have hs6 : Only L s0 s6 := by
    unfold s6
    refine State.raise_only (Part.sub hL (by decide)) ?_
    exact State.wr_only (Part.sub hL (by decide)) (by assumption)
  clear_value s6
  have hs8 : Only L s0 s8 := by
    unfold s8
    exact State.showCells_only (Part.sub hL (by decide)) (by assumption)
  clear_value s8
  have hs10 : Only L s0 s10 := by
    unfold s10
    exact State.setDet_only (Part.sub hL (by decide)) (by assumption)
  clear_value s10
  have hs11 : Only L s0 s11 := by
    unfold s11
    refine State.raise_only (Part.sub hL (by decide)) ?_
    exact State.wr_only (Part.sub hL (by decide)) (by assumption)
  clear_value s11
  split
  · extract_lets s12 s13
    have hs12 : Only L s0 s12 := by
      unfold s12
      refine State.showCells_only (Part.sub hL (by decide)) ?_
      exact State.raiseBit_only (Part.sub hL (by decide)) (by assumption)
    clear_value s12
    have hs13 : Only L s0 s13 := by
      unfold s13
      exact State.setCell_only (Part.sub hL (by decide)) (by assumption)
    clear_value s13
    exact State.raise_only (Part.sub hL (by decide)) (by assumption)
  · refine Only.ite ?_ ?_
    · refine Only.ite ?_ ?_
      · exact State.mediaFault_only (Part.sub hL (by decide)) (by assumption)
      · exact State.diskFaulted_only (Part.sub hL (by decide)) (by assumption)
    · assumption

theorem State.ringIn_only {L : List Part} {s0 s : State} {x2}
    (hL : [.out, .host, .life, .det, .trc, .regs 0, .regs 4, .regs 20, .regs 49] ⊆ L) (h : Only L s0 s) :
    Only.Pair L s0 (State.ringIn s x2) := by
  unfold State.ringIn
  extract_lets n1
  refine Only.itePair ?_ ?_
  · refine Only.pair ?_
    exact State.setRingLevel_only (Part.sub hL (by decide)) (by assumption)
  · split
    · refine Only.pair ?_
      refine State.setRingLevel_only (Part.sub hL (by decide)) ?_
      refine Only.of_opt ?_ (by assumption)
      exact State.spillOne_only (Part.sub hL (by decide)) (by assumption)
    · refine Only.pair ?_
      refine State.raise_only (Part.sub hL (by decide)) ?_
      exact State.wr_only (Part.sub hL (by decide)) (by assumption)

theorem State.startJob_only {L : List Part} {s0 s : State} {x2}
    (hL : [.det] ⊆ L) (h : Only L s0 s) :
    Only L s0 (State.startJob s x2) := by
  unfold State.startJob
  split
  · assumption
  · extract_lets n1 s2 n3 n4
    have hs2 : Only L s0 s2 := by
      unfold s2
      exact State.setDet_only (Part.sub hL (by decide)) (by assumption)
    clear_value s2
    exact State.setCell_only (Part.sub hL (by decide)) (by assumption)

theorem State.takeJob_only {L : List Part} {s0 s : State} {x2 x3}
    (hL : [.out, .host, .sq, .obj, .life, .tape, .disk, .det, .wra, .trc, .grp, .red, .regs 0, .regs 4,
      .regs 8, .regs 16, .regs 20, .regs 49] ⊆ L) (h : Only L s0 s) :
    Only L s0 (State.takeJob s x2 x3) := by
  unfold State.takeJob
  split
  · refine Only.ite ?_ ?_
    · exact State.enterLadder_only (Part.sub hL (by decide)) (by assumption)
    · exact State.ladderStep_only (Part.sub hL (by decide)) (by assumption)
  · extract_lets n1 n2
    exact State.setDet_only (Part.sub hL (by decide)) (by assumption)

theorem State.unframed_only {L : List Part} {s0 s : State} {x2}
    (hL : [.out, .host, .sq, .obj, .life, .tape, .disk, .det, .wra, .trc, .grp, .red, .regs 0, .regs 4,
      .regs 8, .regs 16, .regs 20, .regs 49] ⊆ L) (h : Only L s0 s) :
    Only L s0 (State.unframed s x2) := by
  unfold State.unframed
  split
  · refine Only.ite ?_ ?_
    · refine State.failReadBack_only (Part.sub hL (by decide)) ?_
      exact State.freeSamples_only (Part.sub hL (by decide)) (by assumption)
    · exact State.enterLadder_only (Part.sub hL (by decide)) (by assumption)
  · exact State.enterLadder_only (Part.sub hL (by decide)) (by assumption)

theorem execVerifyDeadline_only {L : List Part} {s0 s : State} {x1 x2}
    (hL : [.out, .host, .sq, .obj, .life, .tape, .mot, .disk, .det, .medium, .wra, .ctl, .trc, .grp, .red,
      .pwr, .regs 0, .regs 4, .regs 8, .regs 16, .regs 20, .regs 28, .regs 32, .regs 49] ⊆ L) (h : Only L s0 s) :
    Only.Out L s0 (execVerifyDeadline x1 x2 s) := by
  unfold execVerifyDeadline
  split
  · refine Only.next ?_
    assumption
  · extract_lets n1 n2 n3 s4 s5 s6
    have hs4 : Only L s0 s4 := by
      unfold s4
      exact State.setDet_only (Part.sub hL (by decide)) (by assumption)
    clear_value s4
    have hs5 : Only L s0 s5 := by
      unfold s5
      refine Only.foldl _ ?_ (fun s _ h => ?_)
      · assumption
      · exact State.freeSamples_only (Part.sub hL (by decide)) (by assumption)
    clear_value s5
    have hs6 : Only L s0 s6 := by
      unfold s6
      refine Only.foldl _ ?_ (fun s _ h => ?_)
      · assumption
      · split
        · refine Only.ite ?_ ?_
          · refine State.cellDone_only (Part.sub hL (by decide)) ?_
            exact State.freeSamples_only (Part.sub hL (by decide)) (by assumption)
          · assumption
        · assumption
    clear_value s6
    refine Only.next ?_
    exact State.verifyDecide_only (Part.sub hL (by decide)) (by assumption)

theorem State.deselect_only {L : List Part} {s0 s : State} {x2}
    (hL : [.out, .wra] ⊆ L) (h : Only L s0 s) :
    Only L s0 (State.deselect s x2) := by
  unfold State.deselect
  refine State.setChan_only (Part.sub hL (by decide)) ?_
  exact State.sendPac_only (Part.sub hL (by decide)) (by assumption)

theorem State.readSelect_only {L : List Part} {s0 s : State} {x2 x3}
    (hL : [.out, .wra] ⊆ L) (h : Only L s0 s) :
    Only L s0 (State.readSelect s x2 x3) := by
  unfold State.readSelect
  extract_lets n1 n2 s3
  have hs3 : Only L s0 s3 := by
    unfold s3
    refine Only.foldl _ ?_ (fun s _ h => ?_)
    · assumption
    · exact State.deselect_only (Part.sub hL (by decide)) (by assumption)
  clear_value s3
  refine Only.ite ?_ ?_
  · assumption
  · refine Only.ite ?_ ?_
    · assumption
    · refine State.setChan_only (Part.sub hL (by decide)) ?_
      exact State.sendPac_only (Part.sub hL (by decide)) (by assumption)

theorem execCodewordComplete_only {L : List Part} {s0 s : State} {x1 x2 x3 x4 x5 x6 x7}
    (hL : [.out, .host, .sq, .obj, .life, .tape, .mot, .disk, .det, .medium, .wra, .ctl, .trc, .grp, .red,
      .pwr, .regs 0, .regs 4, .regs 8, .regs 16, .regs 20, .regs 28, .regs 32, .regs 49] ⊆ L) (h : Only L s0 s) :
    Only.Out L s0 (execCodewordComplete x1 x2 x3 x4 x5 x6 x7 s) := by
  unfold execCodewordComplete
  extract_lets n1 n2 n3 n4
  split
  · refine Only.next ?_
    assumption
  · refine Only.iteOut ?_ ?_
    · refine Only.next ?_
      assumption
    · split
      extract_lets s5 s6 s7 n8 n9 s10
      have hs5 : Only L s0 s5 := by
        unfold s5
        refine State.addi_only (Part.sub hL (by decide)) ?_
        refine Only.of_eq ?_ (by assumption)
        refine State.runLane_only (Part.sub hL (by decide)) ?_
        exact State.readSelect_only (Part.sub hL (by decide)) (by assumption)
      clear_value s5
      have hs6 : Only L s0 s6 := by
        unfold s6
        refine Only.ite ?_ ?_
        · exact State.inc_only (Part.sub hL (by decide)) (by assumption)
        · assumption
      clear_value s6
      have hs7 : Only L s0 s7 := by
        unfold s7
        refine Only.ite ?_ ?_
        · exact State.wr_only (Part.sub hL (by decide)) (by assumption)
        · assumption
      clear_value s7
      have hs10 : Only L s0 s10 := by
        unfold s10
        exact State.setDet_only (Part.sub hL (by decide)) (by assumption)
      clear_value s10
      split
      · refine Only.iteOut ?_ ?_
        · refine Only.next ?_
          exact State.verifyDecide_only (Part.sub hL (by decide)) (by assumption)
        · split
          · extract_lets n11
            refine Only.next ?_
            refine State.setDet_only (Part.sub hL (by decide)) ?_
            refine Only.of_eq ?_ (by assumption)
            exact State.ringIn_only (Part.sub hL (by decide)) (by assumption)
          · refine Only.next ?_
            refine State.verifyDecide_only (Part.sub hL (by decide)) ?_
            refine Only.of_eq ?_ (by assumption)
            exact State.ringIn_only (Part.sub hL (by decide)) (by assumption)
      · refine Only.iteOut ?_ ?_
        · refine Only.next ?_
          exact State.tapeMissing_only (Part.sub hL (by decide)) (by assumption)
        · split
          · extract_lets n12
            refine Only.next ?_
            refine State.setDet_only (Part.sub hL (by decide)) ?_
            refine Only.of_eq ?_ (by assumption)
            exact State.ringIn_only (Part.sub hL (by decide)) (by assumption)
          · refine Only.next ?_
            refine State.tapeMissing_only (Part.sub hL (by decide)) ?_
            refine Only.of_eq ?_ (by assumption)
            exact State.ringIn_only (Part.sub hL (by decide)) (by assumption)
      · split
        · refine Only.iteOut ?_ ?_
          · refine Only.next ?_
            refine State.unframed_only (Part.sub hL (by decide)) ?_
            refine Only.of_eq ?_ (by assumption)
            exact State.ringIn_only (Part.sub hL (by decide)) (by assumption)
          · refine Only.next ?_
            refine State.takeJob_only (Part.sub hL (by decide)) ?_
            refine Only.of_eq ?_ (by assumption)
            exact State.ringIn_only (Part.sub hL (by decide)) (by assumption)
        · refine Only.next ?_
          refine State.dropped_only (Part.sub hL (by decide)) ?_
          refine Only.of_eq ?_ (by assumption)
          exact State.ringIn_only (Part.sub hL (by decide)) (by assumption)

theorem execCellFreeDispatch_only {L : List Part} {s0 s : State} {x1 x2 x3}
    (hL : [.out, .host, .sq, .obj, .life, .tape, .mot, .disk, .det, .medium, .wra, .ctl, .trc, .grp, .red,
      .pwr, .regs 0, .regs 4, .regs 8, .regs 16, .regs 20, .regs 28, .regs 32, .regs 49] ⊆ L) (h : Only L s0 s) :
    Only.Out L s0 (execCellFreeDispatch x1 x2 x3 s) := by
  unfold execCellFreeDispatch
  extract_lets n1 s2 f3 n4
  have hs2 : Only L s0 s2 := by
    unfold s2
    refine State.expireVerify_only (Part.sub hL (by decide)) ?_
    exact State.promote_only (Part.sub hL (by decide)) (by assumption)
  clear_value s2
  have hf3 : ∀ a1 a2, Only L s0 a1 → Only L s0 (f3 a1 a2) := by
    intro a1 a2 h
    unfold f3
    refine Only.ite ?_ ?_
    · exact State.poisoned_only (Part.sub hL (by decide)) (by assumption)
    · exact State.startJob_only (Part.sub hL (by decide)) (by assumption)
  refine Only.iteOut ?_ ?_
  · refine Only.next ?_
    assumption
  · refine Only.iteOut ?_ ?_
    · refine Only.next ?_
      exact State.setCell_only (Part.sub hL (by decide)) (by assumption)
    · split
      · refine Only.next ?_
        refine hf3 _ _ ?_
        assumption
      · split
        · refine Only.next ?_
          refine hf3 _ _ ?_
          assumption
        · refine Only.iteOut ?_ ?_
          · refine Only.next ?_
            exact State.setCell_only (Part.sub hL (by decide)) (by assumption)
          · split
            · refine Only.next ?_
              refine hf3 _ _ ?_
              assumption
            · refine Only.next ?_
              assumption

theorem execCellCodewordEnd_only {L : List Part} {s0 s : State} {x1 x2 x3}
    (hL : [.out, .host, .sq, .obj, .life, .tape, .mot, .disk, .det, .medium, .wra, .ctl, .trc, .grp, .red,
      .pwr, .regs 0, .regs 4, .regs 8, .regs 16, .regs 20, .regs 24, .regs 28, .regs 32, .regs 49] ⊆ L) (h : Only L s0 s) :
    Only.Out L s0 (execCellCodewordEnd x1 x2 x3 s) := by
  unfold execCellCodewordEnd
  extract_lets n1 n2 s3 n4
  have hs3 : Only L s0 s3 := by
    unfold s3
    exact State.setCell_only (Part.sub hL (by decide)) (by assumption)
  clear_value s3
  split
  · refine Only.next ?_
    exact State.retireCell_only (Part.sub hL (by decide)) (by assumption)
  · refine Only.next ?_
    refine Only.ite ?_ ?_
    · exact State.retireCell_only (Part.sub hL (by decide)) (by assumption)
    · assumption
  · refine Only.iteOut ?_ ?_
    · refine Only.next ?_
      assumption
    · refine Only.iteOut ?_ ?_
      · refine Only.next ?_
        exact State.setCell_only (Part.sub hL (by decide)) (by assumption)
      · refine Only.next ?_
        exact State.retireCell_only (Part.sub hL (by decide)) (by assumption)
  · extract_lets n5
    refine Only.iteOut ?_ ?_
    · refine Only.next ?_
      exact State.setDet_only (Part.sub hL (by decide)) (by assumption)
    · refine Only.next ?_
      assumption
  · extract_lets n6 s7 n8 s9 s10 s11 n12 s13
    have hs7 : Only L s0 s7 := by
      unfold s7
      exact State.add64_only (Part.sub hL (by decide)) (by assumption)
    clear_value s7
    have hs9 : Only L s0 s9 := by
      unfold s9
      exact State.cellDone_only (Part.sub hL (by decide)) (by assumption)
    clear_value s9
    have hs10 : Only L s0 s10 := by
      unfold s10
      refine State.wr_only (Part.sub hL (by decide)) ?_
      exact State.inc_only (Part.sub hL (by decide)) (by assumption)
    clear_value s10
    have hs11 : Only L s0 s11 := by
      unfold s11
      exact State.raise_only (Part.sub hL (by decide)) (by assumption)
    clear_value s11
    have hs13 : Only L s0 s13 := by
      unfold s13
      exact State.setCell_only (Part.sub hL (by decide)) (by assumption)
    clear_value s13
    refine Only.iteOut ?_ ?_
    · refine Only.next ?_
      assumption
    · refine Only.iteOut ?_ ?_
      · refine Only.next ?_
        exact State.retireCell_only (Part.sub hL (by decide)) (by assumption)
      · refine Only.iteOut ?_ ?_
        · refine Only.next ?_
          exact State.cwGood_only (Part.sub hL (by decide)) (by assumption)
        · refine Only.iteOut ?_ ?_
          · refine Only.next ?_
            exact State.cwFailed_only (Part.sub hL (by decide)) (by assumption)
          · refine Only.next ?_
            exact State.cwFailed_only (Part.sub hL (by decide)) (by assumption)
  · refine Only.next ?_
    assumption

theorem execCellSelfCheckDue_only {L : List Part} {s0 s : State} {x1}
    (hL : [.det] ⊆ L) (h : Only L s0 s) :
    Only.Out L s0 (execCellSelfCheckDue x1 s) := by
  unfold execCellSelfCheckDue
  extract_lets n1 n2
  refine Only.next ?_
  refine Only.ite ?_ ?_
  · exact State.setCell_only (Part.sub hL (by decide)) (by assumption)
  · assumption

theorem execRetryRereadDone_only {L : List Part} {s0 s : State} {x1 x2 x3 x4}
    (hL : [.out, .host, .sq, .obj, .life, .tape, .disk, .det, .wra, .trc, .grp, .red, .regs 0, .regs 4,
      .regs 8, .regs 16, .regs 20, .regs 49] ⊆ L) (h : Only L s0 s) :
    Only.Out L s0 (execRetryRereadDone x1 x2 x3 x4 s) := by
  unfold execRetryRereadDone
  split
  · refine Only.next ?_
    assumption
  · split
    · refine Only.next ?_
      assumption
    · extract_lets n1 sr
      have hsr : Only L s0 sr := by
        unfold sr
        refine State.readSelect_only (Part.sub hL (by decide)) ?_
        exact State.rereadOver_only (Part.sub hL (by decide)) (by assumption)
      clear_value sr
      split
      extract_lets s2 s3 s4 n5
      have hs2 : Only L s0 s2 := by
        unfold s2
        refine State.addi_only (Part.sub hL (by decide)) ?_
        refine Only.of_eq ?_ (by assumption)
        exact State.runLane_only (Part.sub hL (by decide)) (by assumption)
      clear_value s2
      have hs3 : Only L s0 s3 := by
        unfold s3
        refine Only.ite ?_ ?_
        · exact State.inc_only (Part.sub hL (by decide)) (by assumption)
        · assumption
      clear_value s3
      have hs4 : Only L s0 s4 := by
        unfold s4
        refine Only.ite ?_ ?_
        · exact State.wr_only (Part.sub hL (by decide)) (by assumption)
        · assumption
      clear_value s4
      split
      · refine Only.next ?_
        refine State.takeJob_only (Part.sub hL (by decide)) ?_
        refine Only.of_eq ?_ (by assumption)
        exact State.ringIn_only (Part.sub hL (by decide)) (by assumption)
      · extract_lets n6
        refine Only.next ?_
        refine State.setDet_only (Part.sub hL (by decide)) ?_
        refine Only.of_eq ?_ (by assumption)
        exact State.ringIn_only (Part.sub hL (by decide)) (by assumption)

theorem execTapeRereadDone_only {L : List Part} {s0 s : State} {x1 x2 x3}
    (hL : [.out, .host, .obj, .life, .tape, .mot, .ctl, .trc, .pwr, .regs 0, .regs 4, .regs 32, .regs 49] ⊆ L) (h : Only L s0 s) :
    Only.Out L s0 (execTapeRereadDone x1 x2 x3 s) := by
  unfold execTapeRereadDone
  extract_lets n1 n2 n3 n4
  split
  · refine Only.next ?_
    assumption
  · extract_lets n5 n6 s7
    have hs7 : Only L s0 s7 := by
      unfold s7
      exact State.setTape_only (Part.sub hL (by decide)) (by assumption)
    clear_value s7
    refine Only.iteOut ?_ ?_
    · refine Only.next ?_
      assumption
    · refine Only.next ?_
      exact State.tapeSettle_only (Part.sub hL (by decide)) (by assumption)

end Sys2Proof.Machine
end

