-- ==== Sys2Proof/Laws/OnlyOwners.lean ====
section
/-!
SUPPORT. The parts of the state that an operation of Machine/Owners.lean may change (Laws/Only.lean).
-/

set_option Elab.async false

namespace Sys2Proof.Machine

theorem State.askRecords_only {L : List Part} {s0 s : State} {x2 x3}
    (hL : [.out, .grp] ⊆ L) (h : Only L s0 s) :
    Only L s0 (State.askRecords s x2 x3) := by
  unfold State.askRecords
  exact State.sendSeq_only (Part.sub hL (by decide)) (by assumption)

theorem State.hbmOwner_only {L : List Part} {s0 s : State} {x2 x3}
    (hL : [.out, .host, .sq, .obj, .life, .tape, .mot, .disk, .det, .medium, .wra, .ctl, .trc, .grp, .red,
      .pwr, .mem, .regs 0, .regs 4, .regs 8, .regs 12, .regs 16, .regs 20, .regs 28, .regs 32, .regs 49] ⊆ L) (h : Only L s0 s) :
    Only L s0 (State.hbmOwner s x2 x3) := by
  cases x3 with
  | ring id =>
    unfold State.hbmOwner
    dsimp only
    split
    · exact Only.ite (State.poisoned_only (Part.sub hL (by decide)) h) h
    · exact h
  | accepted r data =>
    cases r
    · exact State.hbmWrite_only (Part.sub hL (by decide)) h
    · exact State.hbmWrite_only (Part.sub hL (by decide)) (State.busError_only (Part.sub hL (by decide)) h)
  | streamContext => exact State.hbmWrite_only (Part.sub hL (by decide)) h
  | context st => exact State.hbmWrite_only (Part.sub hL (by decide)) (State.busError_only (Part.sub hL (by decide)) h)
  | _ => unfold State.hbmOwner; exact State.busError_only (Part.sub hL (by decide)) h

theorem State.imgLost_only {L : List Part} {s0 s : State} {x2}
    (hL : [.boot] ⊆ L) (h : Only L s0 s) :
    Only L s0 (State.imgLost s x2) := by
  unfold State.imgLost
  extract_lets n1
  exact State.setBoot_only (Part.sub hL (by decide)) (by assumption)

theorem State.recordLost_only {L : List Part} {s0 s : State} {x2}
    (hL : [.out, .grp] ⊆ L) (h : Only L s0 s) :
    Only L s0 (State.recordLost s x2) := by
  unfold State.recordLost
  split
  · assumption
  · extract_lets n1 s2 n3 s4 n5
    have hs2 : Only L s0 s2 := by
      unfold s2
      exact State.setGrp_only (Part.sub hL (by decide)) (by assumption)
    clear_value s2
    have hs4 : Only L s0 s4 := by
      unfold s4
      exact State.setGrp_only (Part.sub hL (by decide)) (by assumption)
    clear_value s4
    refine Only.ite ?_ ?_
    · exact State.setGrp_only (Part.sub hL (by decide)) (by assumption)
    · exact State.sendPlain_only (Part.sub hL (by decide)) (by assumption)

theorem State.mramOwner_only {L : List Part} {s0 s : State} {x2 x3}
    (hL : [.out, .host, .sq, .obj, .life, .boot, .tape, .disk, .trc, .grp, .red, .pwr, .regs 0, .regs 4,
      .regs 8, .regs 12, .regs 49] ⊆ L) (h : Only L s0 s) :
    Only L s0 (State.mramOwner s x2 x3) := by
  unfold State.mramOwner
  extract_lets n1 n2
  refine Only.ite ?_ ?_
  · split
    · exact State.askRecords_only (Part.sub hL (by decide)) (by assumption)
    · assumption
  · refine Only.ite ?_ ?_
    · refine Only.foldl _ ?_ (fun s _ h => ?_)
      · assumption
      · exact State.askRecords_only (Part.sub hL (by decide)) (by assumption)
    · refine Only.ite ?_ ?_
      · refine Only.foldl _ ?_ (fun s _ h => ?_)
        · assumption
        · exact State.askRecords_only (Part.sub hL (by decide)) (by assumption)
      · refine Only.ite ?_ ?_
        · exact State.seqLost_only (Part.sub hL (by decide)) (by assumption)
        · refine Only.ite ?_ ?_
          · exact State.recordLost_only (Part.sub hL (by decide)) (by assumption)
          · refine Only.ite ?_ ?_
            · exact State.imgLost_only (Part.sub hL (by decide)) (by assumption)
            · split
              · exact State.setPwr_only (Part.sub hL (by decide)) (by assumption)
              · refine State.raise_only (Part.sub hL (by decide)) ?_
                refine Only.updLife (Part.sub hL (by decide)) ?_
                assumption
              · exact State.busError_only (Part.sub hL (by decide)) (by assumption)

theorem State.ringLost_only {L : List Part} {s0 s : State} {x2}
    (hL : [.out, .host, .sq, .obj, .life, .tape, .mot, .disk, .det, .medium, .wra, .ctl, .trc, .grp, .red,
      .pwr, .regs 0, .regs 4, .regs 8, .regs 16, .regs 20, .regs 28, .regs 32, .regs 49] ⊆ L) (h : Only L s0 s) :
    Only L s0 (State.ringLost s x2) := by
  unfold State.ringLost
  split
  · assumption
  · extract_lets s1
    have hs1 : Only L s0 s1 := by
      unfold s1
      refine State.freeSamples_only (Part.sub hL (by decide)) ?_
      exact State.leaveSorrel_only (Part.sub hL (by decide)) (by assumption)
    clear_value s1
    split
    · exact State.verifyDecide_only (Part.sub hL (by decide)) (by assumption)
    · exact State.tapeMissing_only (Part.sub hL (by decide)) (by assumption)
    · exact State.dropped_only (Part.sub hL (by decide)) (by assumption)

theorem State.tableLost_only {L : List Part} {s0 s : State} {x2 x3 x4}
    (hL : [.trc, .regs 32, .regs 33, .regs 49] ⊆ L) (h : Only L s0 s) :
    Only L s0 (State.tableLost s x2 x3 x4) := by
  unfold State.tableLost
  extract_lets s1
  have hs1 : Only L s0 s1 := by
    unfold s1
    refine Only.ite ?_ ?_
    · exact State.fset_only (Part.sub hL (by decide)) (by assumption)
    · refine Only.ite ?_ ?_
      · exact State.fset_only (Part.sub hL (by decide)) (by assumption)
      · exact State.fset_only (Part.sub hL (by decide)) (by assumption)
  clear_value s1
  exact State.slotFlag_only (Part.sub hL (by decide)) (by assumption)

theorem State.traceLost_only {L : List Part} {s0 s : State} {x2 x3}
    (hL : [.trc] ⊆ L) (h : Only L s0 s) :
    Only L s0 (State.traceLost s x2 x3) := by
  unfold State.traceLost
  extract_lets n1 n2 n3
  refine Only.updTrc (Part.sub hL (by decide)) ?_
  assumption

theorem State.sramOwner_only {L : List Part} {s0 s : State} {x2}
    (hL : [.out, .host, .sq, .obj, .life, .tape, .mot, .disk, .det, .medium, .wra, .ctl, .trc, .grp, .red,
      .pwr, .regs 0, .regs 4, .regs 8, .regs 12, .regs 16, .regs 20, .regs 24, .regs 28, .regs 32, .regs 33,
      .regs 49] ⊆ L) (h : Only L s0 s) :
    Only L s0 (State.sramOwner s x2) := by
  unfold State.sramOwner
  split
  · exact State.ringLost_only (Part.sub hL (by decide)) (by assumption)
  · refine Only.ite ?_ ?_
    · exact State.retireCell_only (Part.sub hL (by decide)) (by assumption)
    · assumption
  · refine Only.ite ?_ ?_
    · assumption
    · exact State.busError_only (Part.sub hL (by decide)) (by assumption)
  · exact State.tableLost_only (Part.sub hL (by decide)) (by assumption)
  · exact State.traceLost_only (Part.sub hL (by decide)) (by assumption)
  · exact State.busError_only (Part.sub hL (by decide)) (by assumption)

theorem State.wordOwner_only {L : List Part} {s0 s : State} {x2 x3 x4}
    (hL : [.out, .host, .sq, .obj, .life, .boot, .tape, .mot, .disk, .det, .medium, .wra, .ctl, .trc, .grp,
      .red, .pwr, .mem, .regs 0, .regs 4, .regs 8, .regs 12, .regs 16, .regs 20, .regs 24, .regs 28, .regs 32,
      .regs 33, .regs 49] ⊆ L) (h : Only L s0 s) :
    Only L s0 (State.wordOwner s x2 x3 x4) := by
  unfold State.wordOwner
  extract_lets s1
  have hs1 : Only L s0 s1 := by
    unfold s1
    refine Only.ite ?_ ?_
    · exact State.sramOwner_only (Part.sub hL (by decide)) (by assumption)
    · exact State.mramOwner_only (Part.sub hL (by decide)) (by assumption)
  clear_value s1
  refine Only.ite ?_ ?_
  · exact State.wordFixed_only (Part.sub hL (by decide)) (by assumption)
  · assumption

theorem execFabricHbmRead_only {L : List Part} {s0 s : State} {x1 x2 x3 x4}
    (hL : [.out, .host, .sq, .obj, .life, .tape, .mot, .disk, .det, .medium, .wra, .ctl, .trc, .grp, .red,
      .pwr, .mem, .regs 0, .regs 4, .regs 8, .regs 12, .regs 16, .regs 20, .regs 28, .regs 32, .regs 44,
      .regs 49] ⊆ L) (h : Only L s0 s) :
    Only.Out L s0 (execFabricHbmRead x1 x2 x3 x4 s) := by
  unfold execFabricHbmRead
  extract_lets n1 s2
  have hs2 : Only L s0 s2 := by
    unfold s2
    exact State.hbmUpset_only (Part.sub hL (by decide)) (by assumption)
  clear_value s2
  refine Only.iteOut ?_ ?_
  · refine Only.next ?_
    assumption
  · split
    refine Only.next ?_
    refine Only.ite ?_ ?_
    · refine Only.of_eq ?_ (by assumption)
      exact State.hbmRead_only (Part.sub hL (by decide)) (by assumption)
    · refine State.hbmOwner_only (Part.sub hL (by decide)) ?_
      refine Only.of_eq ?_ (by assumption)
      exact State.hbmRead_only (Part.sub hL (by decide)) (by assumption)

theorem execFabricHbmWrite_only {L : List Part} {s0 s : State} {x1 x2 x3 x4 x5}
    (hL : [.out, .host, .sq, .obj, .life, .tape, .mot, .disk, .det, .medium, .wra, .ctl, .trc, .grp, .red,
      .pwr, .mem, .regs 0, .regs 4, .regs 8, .regs 12, .regs 16, .regs 20, .regs 28, .regs 32, .regs 44,
      .regs 49] ⊆ L) (h : Only L s0 s) :
    Only.Out L s0 (execFabricHbmWrite x1 x2 x3 x4 x5 s) := by
  unfold execFabricHbmWrite
  extract_lets n1 n2 n3
  refine Only.iteOut ?_ ?_
  · refine Only.next ?_
    assumption
  · refine Only.iteOut ?_ ?_
    · refine Only.next ?_
      exact State.hbmWrite_only (Part.sub hL (by decide)) (by assumption)
    · split
      refine Only.iteOut ?_ ?_
      · refine Only.next ?_
        refine State.hbmWrite_only (Part.sub hL (by decide)) ?_
        refine Only.of_eq ?_ (by assumption)
        exact State.hbmRead_only (Part.sub hL (by decide)) (by assumption)
      · refine Only.next ?_
        refine State.hbmOwner_only (Part.sub hL (by decide)) ?_
        refine Only.of_eq ?_ (by assumption)
        exact State.hbmRead_only (Part.sub hL (by decide)) (by assumption)

theorem execSramMramRead_only {L : List Part} {s0 s : State} {x1 x2 x3 x4 x5}
    (hL : [.out, .host, .sq, .obj, .life, .boot, .tape, .mot, .disk, .det, .medium, .wra, .ctl, .trc, .grp,
      .red, .pwr, .mem, .regs 0, .regs 4, .regs 8, .regs 12, .regs 16, .regs 20, .regs 24, .regs 28, .regs 32,
      .regs 33, .regs 44, .regs 49] ⊆ L) (h : Only L s0 s) :
    Only.Out L s0 (execSramMramRead x1 x2 x3 x4 x5 s) := by
  unfold execSramMramRead
  extract_lets n1 n2 s3
  have hs3 : Only L s0 s3 := by
    unfold s3
    exact State.wordUpset_only (Part.sub hL (by decide)) (by assumption)
  clear_value s3
  refine Only.iteOut ?_ ?_
  · refine Only.next ?_
    assumption
  · split
    refine Only.next ?_
    refine Only.ite ?_ ?_
    · refine Only.of_eq ?_ (by assumption)
      exact State.wordRead_only (Part.sub hL (by decide)) (by assumption)
    · refine State.wordOwner_only (Part.sub hL (by decide)) ?_
      refine Only.of_eq ?_ (by assumption)
      exact State.wordRead_only (Part.sub hL (by decide)) (by assumption)

theorem execScrubRead_only {L : List Part} {s0 s : State} {x1 x2 x3 x4}
    (hL : [.out, .host, .sq, .obj, .life, .boot, .tape, .mot, .disk, .det, .medium, .wra, .ctl, .trc, .grp,
      .red, .pwr, .mem, .regs 0, .regs 4, .regs 8, .regs 12, .regs 16, .regs 20, .regs 24, .regs 28, .regs 32,
      .regs 33, .regs 44, .regs 49] ⊆ L) (h : Only L s0 s) :
    Only.Out L s0 (execScrubRead x1 x2 x3 x4 s) := by
  unfold execScrubRead
  extract_lets n1 n2 s3 s4
  have hs3 : Only L s0 s3 := by
    unfold s3
    exact State.hbmUpset_only (Part.sub hL (by decide)) (by assumption)
  clear_value s3
  have hs4 : Only L s0 s4 := by
    unfold s4
    exact State.wordUpset_only (Part.sub hL (by decide)) (by assumption)
  clear_value s4
  refine Only.iteOut ?_ ?_
  · refine Only.next ?_
    assumption
  · refine Only.iteOut ?_ ?_
    · split
      refine Only.next ?_
      refine State.scrubNext_only (Part.sub hL (by decide)) ?_
      refine Only.ite ?_ ?_
      · refine Only.of_eq ?_ (by assumption)
        exact State.hbmScrub_only (Part.sub hL (by decide)) (by assumption)
      · refine State.hbmOwner_only (Part.sub hL (by decide)) ?_
        refine Only.of_eq ?_ (by assumption)
        exact State.hbmScrub_only (Part.sub hL (by decide)) (by assumption)
    · split
      refine Only.next ?_
      refine State.scrubNext_only (Part.sub hL (by decide)) ?_
      refine Only.ite ?_ ?_
      · refine Only.of_eq ?_ (by assumption)
        exact State.wordScrub_only (Part.sub hL (by decide)) (by assumption)
      · refine State.wordOwner_only (Part.sub hL (by decide)) ?_
        refine Only.of_eq ?_ (by assumption)
        exact State.wordScrub_only (Part.sub hL (by decide)) (by assumption)

end Sys2Proof.Machine
end

