-- ==== Sys2Proof/Laws/OnlyPeers.lean ====
section
/-!
SUPPORT. The parts of the state that an operation of Machine/Peers.lean may change (Laws/Only.lean).
-/

set_option Elab.async false

namespace Sys2Proof.Machine

theorem State.answerQuery_only {L : List Part} {s0 s : State} {x2}
    (hL : [.out, .grp] ⊆ L) (h : Only L s0 s) :
    Only L s0 (State.answerQuery s x2) := by
  unfold State.answerQuery
  extract_lets n1
  exact State.sendSeq_only (Part.sub hL (by decide)) (by assumption)

theorem State.credit_only {L : List Part} {s0 s : State} {x2 x3}
    (hL : [.out] ⊆ L) (h : Only L s0 s) :
    Only L s0 (State.credit s x2 x3) := by
  unfold State.credit
  refine Only.ite ?_ ?_
  · assumption
  · exact State.block_only (Part.sub hL (by decide)) (by assumption)

theorem State.reject_only {L : List Part} {s0 s : State} {x2 x3}
    (hL : [.out, .grp, .regs 36] ⊆ L) (h : Only L s0 s) :
    Only L s0 (State.reject s x2 x3) := by
  unfold State.reject
  extract_lets s1
  have hs1 : Only L s0 s1 := by
    unfold s1
    exact State.inc_only (Part.sub hL (by decide)) (by assumption)
  clear_value s1
  refine Only.ite ?_ ?_
  · assumption
  · exact State.sendPlain_only (Part.sub hL (by decide)) (by assumption)

theorem State.declare_only {L : List Part} {s0 s : State} {x2 x3 x4 x5 x6 x7}
    (hL : [.out, .free, .grp] ⊆ L) (h : Only L s0 s) :
    Only L s0 (State.declare s x2 x3 x4 x5 x6 x7) := by
  unfold State.declare
  extract_lets n1
  refine Only.ite ?_ ?_
  · refine State.sendSeq_only (Part.sub hL (by decide)) ?_
    refine Only.updFree (Part.sub hL (by decide)) ?_
    assumption
  · assumption

theorem State.takeStripWrite_only {L : List Part} {s0 s : State} {x2 x3 x4}
    (hL : [.out, .free, .obj, .tape, .mot, .disk, .grp, .red, .regs 16, .regs 32] ⊆ L) (h : Only L s0 s) :
    Only L s0 (State.takeStripWrite s x2 x3 x4) := by
  unfold State.takeStripWrite
  extract_lets s1
  have hs1 : Only L s0 s1 := by
    unfold s1
    refine Only.ite ?_ ?_
    · exact State.declare_only (Part.sub hL (by decide)) (by assumption)
    · assumption
  clear_value s1
  refine Only.ite ?_ ?_
  · exact State.takeStrip_only (Part.sub hL (by decide)) (by assumption)
  · refine Only.ite ?_ ?_
    · exact State.dropStrips_only (Part.sub hL (by decide)) (by assumption)
    · assumption

theorem State.takeEstimate_only {L : List Part} {s0 s : State} {x2 x3}
    (hL : [.red] ⊆ L) (h : Only L s0 s) :
    Only L s0 (State.takeEstimate s x2 x3) := by
  unfold State.takeEstimate
  extract_lets n1
  exact State.setRed_only (Part.sub hL (by decide)) (by assumption)

theorem State.takeStripFail_only {L : List Part} {s0 s : State} {x2 x3}
    (hL : [.out, .grp, .red, .regs 40] ⊆ L) (h : Only L s0 s) :
    Only L s0 (State.takeStripFail s x2 x3) := by
  unfold State.takeStripFail
  split
  · refine Only.ite ?_ ?_
    · exact State.moveSlot_only (Part.sub hL (by decide)) (by assumption)
    · assumption
  · assumption

theorem State.takeStripReply_only {L : List Part} {s0 s : State} {x2 x3 x4}
    (hL : [.out, .host, .obj, .life, .tape, .mot, .disk, .trc, .grp, .red, .regs 0, .regs 4, .regs 16,
      .regs 32, .regs 40, .regs 49] ⊆ L) (h : Only L s0 s) :
    Only L s0 (State.takeStripReply s x2 x3 x4) := by
  unfold State.takeStripReply
  split
  · exact State.takeStripData_only (Part.sub hL (by decide)) (by assumption)
  · exact State.slotDone_only (Part.sub hL (by decide)) (by assumption)
  · exact State.takeEstimate_only (Part.sub hL (by decide)) (by assumption)
  · exact State.takeStripFail_only (Part.sub hL (by decide)) (by assumption)
  · assumption

theorem State.judgeCopy_only {L : List Part} {s0 s : State} {x2 x3 x4}
    (hL : [.out, .grp, .red] ⊆ L) (h : Only L s0 s) :
    Only L s0 (State.judgeCopy s x2 x3 x4) := by
  unfold State.judgeCopy
  extract_lets n1 n2 n3
  refine Only.ite ?_ ?_
  · assumption
  · refine Only.ite ?_ ?_
    · exact State.setRed_only (Part.sub hL (by decide)) (by assumption)
    · exact State.sendOp_only (Part.sub hL (by decide)) (by assumption)

theorem State.takeLandingOp_only {L : List Part} {s0 s : State} {x2 x3 x4}
    (hL : [.out, .free, .host, .sq, .obj, .life, .tape, .disk, .trc, .grp, .red, .regs 0, .regs 4, .regs 8,
      .regs 16, .regs 49] ⊆ L) (h : Only L s0 s) :
    Only L s0 (State.takeLandingOp s x2 x3 x4) := by
  unfold State.takeLandingOp
  extract_lets n1 n2
  split
  · exact State.takeLanding_only (Part.sub hL (by decide)) (by assumption)
  · refine State.judgeCopy_only (Part.sub hL (by decide)) ?_
    exact State.copyWritten_only (Part.sub hL (by decide)) (by assumption)
  · exact State.releaseCopy_only (Part.sub hL (by decide)) (by assumption)
  · exact State.copyLost_only (Part.sub hL (by decide)) (by assumption)
  · assumption

theorem State.takeJournalRecords_only {L : List Part} {s0 s : State} {x2 x3 x4 x5}
    (hL : [.out, .host, .obj, .life, .disk, .trc, .grp, .red, .regs 0, .regs 4, .regs 16, .regs 40, .regs 49] ⊆ L) (h : Only L s0 s) :
    Only L s0 (State.takeJournalRecords s x2 x3 x4 x5) := by
  unfold State.takeJournalRecords
  extract_lets n1 n2
  refine Only.ite ?_ ?_
  · exact State.setRed_only (Part.sub hL (by decide)) (by assumption)
  · refine Only.ite ?_ ?_
    · refine Only.foldl _ ?_ (fun s _ h => ?_)
      · assumption
      · exact State.takeRecord_only (Part.sub hL (by decide)) (by assumption)
    · refine Only.ite ?_ ?_
      · exact State.takeRecords_only (Part.sub hL (by decide)) (by assumption)
      · assumption

theorem State.takeJournal_only {L : List Part} {s0 s : State} {x2 x3 x4}
    (hL : [.out, .host, .obj, .life, .disk, .trc, .grp, .red, .regs 0, .regs 4, .regs 16, .regs 40, .regs 49] ⊆ L) (h : Only L s0 s) :
    Only L s0 (State.takeJournal s x2 x3 x4) := by
  unfold State.takeJournal
  split
  · exact State.takeRecord_only (Part.sub hL (by decide)) (by assumption)
  · exact State.answerTake_only (Part.sub hL (by decide)) (by assumption)
  · exact State.takeJournalRecords_only (Part.sub hL (by decide)) (by assumption)
  · exact State.takeDirectory_only (Part.sub hL (by decide)) (by assumption)
  · refine Only.ite ?_ ?_
    · exact State.dropStrips_only (Part.sub hL (by decide)) (by assumption)
    · exact State.takeRows_only (Part.sub hL (by decide)) (by assumption)
  · assumption

theorem State.takeSeqMirror_only {L : List Part} {s0 s : State} {x2}
    (hL : [.obj] ⊆ L) (h : Only L s0 s) :
    Only L s0 (State.takeSeqMirror s x2) := by
  unfold State.takeSeqMirror
  extract_lets n1 n2
  refine Only.ite ?_ ?_
  · refine Only.updObj (Part.sub hL (by decide)) ?_
    assumption
  · refine Only.updObj (Part.sub hL (by decide)) ?_
    assumption

theorem State.judgeProp_only {L : List Part} {s0 s : State} {x2}
    (hL : [.out, .obj, .grp] ⊆ L) (h : Only L s0 s) :
    Only L s0 (State.judgeProp s x2) := by
  unfold State.judgeProp
  split
  · assumption
  · extract_lets n1 s2
    have hs2 : Only L s0 s2 := by
      unfold s2
      refine State.withdrawHome_only (Part.sub hL (by decide)) ?_
      exact State.dropProp_only (Part.sub hL (by decide)) (by assumption)
    clear_value s2
    refine Only.ite ?_ ?_
    · refine State.confirmHome_only (Part.sub hL (by decide)) ?_
      exact State.settleProp_only (Part.sub hL (by decide)) (by assumption)
    · exact State.sendSeq_only (Part.sub hL (by decide)) (by assumption)

theorem State.takeLookup_only {L : List Part} {s0 s : State} {x2 x3 x4}
    (hL : [.out, .obj, .grp, .red] ⊆ L) (h : Only L s0 s) :
    Only L s0 (State.takeLookup s x2 x3 x4) := by
  unfold State.takeLookup
  split
  · extract_lets n1
    exact State.setRed_only (Part.sub hL (by decide)) (by assumption)
  · exact State.takeEntry_only (Part.sub hL (by decide)) (by assumption)
  · exact State.takeEntry_only (Part.sub hL (by decide)) (by assumption)
  · refine State.judgeProp_only (Part.sub hL (by decide)) ?_
    exact State.takeEntry_only (Part.sub hL (by decide)) (by assumption)
  · extract_lets n2
    refine Only.updObj (Part.sub hL (by decide)) ?_
    assumption

theorem State.takeMap_only {L : List Part} {s0 s : State} {x2 x3}
    (hL : [.out, .obj, .grp, .red] ⊆ L) (h : Only L s0 s) :
    Only L s0 (State.takeMap s x2 x3) := by
  unfold State.takeMap
  extract_lets n1
  split
  · refine Only.ite ?_ ?_
    · exact State.answerLookup_only (Part.sub hL (by decide)) (by assumption)
    · exact State.takeLookup_only (Part.sub hL (by decide)) (by assumption)
  · exact State.takeEntry_only (Part.sub hL (by decide)) (by assumption)
  · refine Only.ite ?_ ?_
    · exact State.settleProp_only (Part.sub hL (by decide)) (by assumption)
    · exact State.takeEntry_only (Part.sub hL (by decide)) (by assumption)
  · refine Only.ite ?_ ?_
    · exact State.dropEntry_only (Part.sub hL (by decide)) (by assumption)
    · exact State.dropProp_only (Part.sub hL (by decide)) (by assumption)
  · assumption

theorem State.takeRebuild_only {L : List Part} {s0 s : State} {x2 x3 x4}
    (hL : [.out, .host, .obj, .life, .tape, .mot, .disk, .trc, .grp, .red, .regs 0, .regs 4, .regs 16,
      .regs 32, .regs 40, .regs 49] ⊆ L) (h : Only L s0 s) :
    Only L s0 (State.takeRebuild s x2 x3 x4) := by
  unfold State.takeRebuild
  split
  · exact State.answerList_only (Part.sub hL (by decide)) (by assumption)
  · exact State.takeList_only (Part.sub hL (by decide)) (by assumption)
  · exact State.answerRead_only (Part.sub hL (by decide)) (by assumption)
  · exact State.takeRebuildData_only (Part.sub hL (by decide)) (by assumption)
  · assumption

theorem State.takeLeadBeat_only {L : List Part} {s0 s : State} {x2}
    (hL : [.out, .grp] ⊆ L) (h : Only L s0 s) :
    Only L s0 (State.takeLeadBeat s x2) := by
  unfold State.takeLeadBeat
  extract_lets n1
  refine State.sendSeq_only (Part.sub hL (by decide)) ?_
  exact State.setGrp_only (Part.sub hL (by decide)) (by assumption)

theorem State.takeMemberBeat_only {L : List Part} {s0 s : State} {x2 x3}
    (hL : [.grp, .red] ⊆ L) (h : Only L s0 s) :
    Only L s0 (State.takeMemberBeat s x2 x3) := by
  unfold State.takeMemberBeat
  extract_lets n1 n2 s3 n4
  have hs3 : Only L s0 s3 := by
    unfold s3
    exact State.setGrp_only (Part.sub hL (by decide)) (by assumption)
  clear_value s3
  refine Only.ite ?_ ?_
  · assumption
  · exact State.setRed_only (Part.sub hL (by decide)) (by assumption)

theorem State.takeQueryResp_only {L : List Part} {s0 s : State} {x2 x3}
    (hL : [.out, .free, .host, .sq, .obj, .life, .tape, .disk, .trc, .grp, .red, .regs 0, .regs 4, .regs 8,
      .regs 16, .regs 36, .regs 40, .regs 49] ⊆ L) (h : Only L s0 s) :
    Only L s0 (State.takeQueryResp s x2 x3) := by
  unfold State.takeQueryResp
  split
  · assumption
  · extract_lets n1
    refine Only.ite ?_ ?_
    · refine State.takeLead_only (Part.sub hL (by decide)) ?_
      exact State.setGrp_only (Part.sub hL (by decide)) (by assumption)
    · assumption

theorem State.takeSequenced_only {L : List Part} {s0 s : State} {x2 x3}
    (hL : [.out, .free, .host, .sq, .obj, .life, .boot, .tape, .mot, .disk, .trc, .grp, .red, .regs 0, .regs 4,
      .regs 8, .regs 16, .regs 32, .regs 36, .regs 40, .regs 48, .regs 49] ⊆ L) (h : Only L s0 s) :
    Only L s0 (State.takeSequenced s x2 x3) := by
  unfold State.takeSequenced
  extract_lets n1 n2
  split
  · exact State.takeStripWrite_only (Part.sub hL (by decide)) (by assumption)
  · refine Only.ite ?_ ?_
    · exact State.takeRead_only (Part.sub hL (by decide)) (by assumption)
    · assumption
  · exact State.takeStripReply_only (Part.sub hL (by decide)) (by assumption)
  · exact State.takeLandingOp_only (Part.sub hL (by decide)) (by assumption)
  · exact State.takeJournal_only (Part.sub hL (by decide)) (by assumption)
  · exact State.takeSeqMirror_only (Part.sub hL (by decide)) (by assumption)
  · exact State.takeMap_only (Part.sub hL (by decide)) (by assumption)
  · exact State.takeRebuild_only (Part.sub hL (by decide)) (by assumption)
  · exact State.takeLeadBeat_only (Part.sub hL (by decide)) (by assumption)
  · exact State.takeMemberBeat_only (Part.sub hL (by decide)) (by assumption)
  · exact State.answerQuery_only (Part.sub hL (by decide)) (by assumption)
  · exact State.takeQueryResp_only (Part.sub hL (by decide)) (by assumption)
  · exact State.takeMgmt_only (Part.sub hL (by decide)) (by assumption)
  · assumption

theorem State.takeNext_only {L : List Part} {s0 s : State} {x2 x3}
    (hL : [.out, .free, .host, .sq, .obj, .life, .boot, .tape, .mot, .disk, .trc, .grp, .red, .regs 0, .regs 4,
      .regs 8, .regs 16, .regs 32, .regs 36, .regs 40, .regs 48, .regs 49] ⊆ L) (h : Only L s0 s) :
    Only L s0 (State.takeNext s x2 x3) := by
  unfold State.takeNext
  extract_lets n1 n2 n3 s4
  have hs4 : Only L s0 s4 := by
    unfold s4
    exact State.setGrp_only (Part.sub hL (by decide)) (by assumption)
  clear_value s4
  refine Only.ite ?_ ?_
  · refine State.sendPlain_only (Part.sub hL (by decide)) ?_
    exact State.takeSequenced_only (Part.sub hL (by decide)) (by assumption)
  · refine Only.ite ?_ ?_
    · exact State.sendPlain_only (Part.sub hL (by decide)) (by assumption)
    · assumption

theorem State.checked_only {L : List Part} {s0 s : State} {x2 x3 x4}
    (hL : [.out, .free, .host, .sq, .obj, .life, .boot, .tape, .mot, .disk, .trc, .grp, .red, .regs 0, .regs 4,
      .regs 8, .regs 16, .regs 32, .regs 36, .regs 40, .regs 48, .regs 49] ⊆ L) (h : Only L s0 s) :
    Only L s0 (State.checked s x2 x3 x4) := by
  unfold State.checked
  refine Only.ite (State.reject_only (Part.sub hL (by decide)) h) ?_
  generalize s.epochOrder x3.epochLo = k
  split
  · exact Only.ite (State.reject_only (Part.sub hL (by decide)) h) (State.takeNext_only (Part.sub hL (by decide)) h)
  · exact State.sendPlain_only (Part.sub hL (by decide)) (State.setGrp_only (Part.sub hL (by decide)) h)
  · exact State.reject_only (Part.sub hL (by decide)) h

theorem State.drainNew_only {L : List Part} {s0 s : State} {x1}
    (hL : [.out, .free, .host, .sq, .obj, .life, .boot, .tape, .mot, .disk, .trc, .grp, .red, .regs 0, .regs 4,
      .regs 8, .regs 16, .regs 32, .regs 36, .regs 40, .regs 48, .regs 49] ⊆ L) (h : Only L s0 s) :
    Only L s0 (State.drainNew x1 s) := by
  induction x1 generalizing s with
  | zero =>
    rw [State.drainNew]
    assumption
  | succ n ih =>
    rw [State.drainNew]
    split
    · assumption
    · extract_lets n1 s2
      have hs2 : Only L s0 s2 := by
        unfold s2
        exact State.setGrp_only (Part.sub hL (by decide)) (by assumption)
      clear_value s2
      refine ih ?_
      refine State.credit_only (Part.sub hL (by decide)) ?_
      exact State.checked_only (Part.sub hL (by decide)) (by assumption)

theorem State.loseFailed_only {L : List Part} {s0 s : State}
    (hL : [.out, .host, .sq, .obj, .life, .boot, .tape, .disk, .trc, .grp, .red, .regs 0, .regs 4, .regs 8,
      .regs 48, .regs 49] ⊆ L) (h : Only L s0 s) :
    Only L s0 (State.loseFailed s) := by
  unfold State.loseFailed
  split
  · assumption
  · refine Only.foldl _ ?_ (fun s _ h => ?_)
    · assumption
    · exact State.losePeer_only (Part.sub hL (by decide)) (by assumption)

theorem State.peersStep_only {L : List Part} {s0 s : State}
    (hL : [.out, .free, .host, .sq, .obj, .life, .boot, .tape, .mot, .disk, .trc, .grp, .red, .regs 0, .regs 4,
      .regs 8, .regs 16, .regs 32, .regs 36, .regs 40, .regs 48, .regs 49] ⊆ L) (h : Only L s0 s) :
    Only L s0 (State.peersStep s) := by
  unfold State.peersStep
  extract_lets s1 s2 s3
  have hs1 : Only L s0 s1 := by
    unfold s1
    exact State.drainNew_only (Part.sub hL (by decide)) (by assumption)
  clear_value s1
  have hs2 : Only L s0 s2 := by
    unfold s2
    exact State.groupStep_only (Part.sub hL (by decide)) (by assumption)
  clear_value s2
  have hs3 : Only L s0 s3 := by
    unfold s3
    exact State.loseFailed_only (Part.sub hL (by decide)) (by assumption)
  clear_value s3
  refine State.tellMgmt_only (Part.sub hL (by decide)) ?_
  refine State.commitReady_only (Part.sub hL (by decide)) ?_
  exact State.redStep_only (Part.sub hL (by decide)) (by assumption)

theorem State.takeAck_only {L : List Part} {s0 s : State} {x2 x3 x4}
    (hL : [.out, .free, .host, .sq, .obj, .life, .tape, .disk, .trc, .grp, .red, .regs 0, .regs 4, .regs 8,
      .regs 16, .regs 36, .regs 40, .regs 49] ⊆ L) (h : Only L s0 s) :
    Only L s0 (State.takeAck s x2 x3 x4) := by
  unfold State.takeAck
  extract_lets n1
  refine Only.ite ?_ ?_
  · exact State.takeEpochAck_only (Part.sub hL (by decide)) (by assumption)
  · exact State.setGrp_only (Part.sub hL (by decide)) (by assumption)

theorem State.takePlain_only {L : List Part} {s0 s : State} {x2 x3}
    (hL : [.out, .free, .host, .sq, .obj, .life, .tape, .disk, .trc, .grp, .red, .regs 0, .regs 4, .regs 8,
      .regs 16, .regs 36, .regs 40, .regs 49] ⊆ L) (h : Only L s0 s) :
    Only L s0 (State.takePlain s x2 x3) := by
  unfold State.takePlain
  extract_lets n1
  split
  · exact State.takeHello_only (Part.sub hL (by decide)) (by assumption)
  · refine Only.ite ?_ ?_
    · exact State.takeAssign_only (Part.sub hL (by decide)) (by assumption)
    · exact State.takeProbe_only (Part.sub hL (by decide)) (by assumption)
  · exact State.takeLinkState_only (Part.sub hL (by decide)) (by assumption)
  · exact State.takeEpoch_only (Part.sub hL (by decide)) (by assumption)
  · exact State.takeEpochReq_only (Part.sub hL (by decide)) (by assumption)
  · exact State.takeReject_only (Part.sub hL (by decide)) (by assumption)
  · exact State.takeAck_only (Part.sub hL (by decide)) (by assumption)
  · assumption

theorem State.receive_only {L : List Part} {s0 s : State} {x2 x3 x4}
    (hL : [.out, .free, .host, .sq, .obj, .life, .boot, .tape, .mot, .disk, .trc, .grp, .red, .regs 0, .regs 4,
      .regs 8, .regs 16, .regs 32, .regs 36, .regs 40, .regs 48, .regs 49] ⊆ L) (h : Only L s0 s) :
    Only L s0 (State.receive s x2 x3 x4) := by
  unfold State.receive
  refine Only.ite ?_ ?_
  · exact State.checked_only (Part.sub hL (by decide)) (by assumption)
  · exact State.takePlain_only (Part.sub hL (by decide)) (by assumption)

theorem State.arrivesWith_only {L : List Part} {s0 s : State} {x2 x3 x4 x5}
    (hL : [.out, .free, .host, .sq, .obj, .life, .boot, .tape, .mot, .disk, .trc, .grp, .red, .regs 0, .regs 4,
      .regs 8, .regs 16, .regs 32, .regs 36, .regs 40, .regs 48, .regs 49] ⊆ L) (h : Only L s0 s) :
    Only L s0 (State.arrivesWith s x2 x3 x4 x5) := by
  unfold State.arrivesWith
  refine Only.ite ?_ ?_
  · refine State.peersStep_only (Part.sub hL (by decide)) ?_
    exact State.receive_only (Part.sub hL (by decide)) (by assumption)
  · assumption

theorem State.arrives_only {L : List Part} {s0 s : State} {x2 x3 x4}
    (hL : [.out, .free, .host, .sq, .obj, .life, .boot, .tape, .mot, .disk, .trc, .grp, .red, .regs 0, .regs 4,
      .regs 8, .regs 16, .regs 32, .regs 36, .regs 40, .regs 48, .regs 49] ⊆ L) (h : Only L s0 s) :
    Only L s0 (State.arrives s x2 x3 x4) := by
  unfold State.arrives
  exact State.arrivesWith_only (Part.sub hL (by decide)) (by assumption)

theorem State.forward_only {L : List Part} {s0 s : State} {x2}
    (hL : [.out, .grp, .regs 36] ⊆ L) (h : Only L s0 s) :
    Only L s0 (State.forward s x2) := by
  unfold State.forward
  refine Only.ite ?_ ?_
  · refine State.wr_only (Part.sub hL (by decide)) ?_
    exact State.inc_only (Part.sub hL (by decide)) (by assumption)
  · exact State.routeOut_only (Part.sub hL (by decide)) (by assumption)

theorem State.crossed_only {L : List Part} {s0 s : State} {x2 x3}
    (hL : [.out, .free, .host, .sq, .obj, .life, .boot, .tape, .mot, .disk, .trc, .grp, .red, .regs 0, .regs 4,
      .regs 8, .regs 16, .regs 32, .regs 36, .regs 40, .regs 48, .regs 49] ⊆ L) (h : Only L s0 s) :
    Only L s0 (State.crossed s x2 x3) := by
  unfold State.crossed
  extract_lets n1 n2 s3 s4
  have hs3 : Only L s0 s3 := by
    unfold s3
    refine State.receive_only (Part.sub hL (by decide)) ?_
    refine Only.updFree (Part.sub hL (by decide)) ?_
    assumption
  clear_value s3
  have hs4 : Only L s0 s4 := by
    unfold s4
    refine Only.ite ?_ ?_
    · assumption
    · exact State.credit_only (Part.sub hL (by decide)) (by assumption)
  clear_value s4
  refine Only.ite ?_ ?_
  · exact State.peersStep_only (Part.sub hL (by decide)) (by assumption)
  · refine State.credit_only (Part.sub hL (by decide)) ?_
    exact State.forward_only (Part.sub hL (by decide)) (by assumption)

theorem State.stripArrives_only {L : List Part} {s0 s : State} {x2 x3 x4 x5 x6}
    (hL : [.out, .free, .host, .sq, .obj, .life, .boot, .tape, .mot, .disk, .trc, .grp, .red, .regs 0, .regs 4,
      .regs 8, .regs 16, .regs 32, .regs 36, .regs 40, .regs 48, .regs 49] ⊆ L) (h : Only L s0 s) :
    Only L s0 (State.stripArrives s x2 x3 x4 x5 x6) := by
  unfold State.stripArrives
  exact State.arrives_only (Part.sub hL (by decide)) (by assumption)

theorem execHello_only {L : List Part} {s0 s : State} {x1 x2 x3 x4 x5 x6}
    (hL : [.out, .free, .host, .sq, .obj, .life, .boot, .tape, .mot, .disk, .trc, .grp, .red, .regs 0, .regs 4,
      .regs 8, .regs 16, .regs 32, .regs 36, .regs 40, .regs 48, .regs 49] ⊆ L) (h : Only L s0 s) :
    Only.Out L s0 (execHello x1 x2 x3 x4 x5 x6 s) := by
  unfold execHello
  refine Only.next ?_
  exact State.arrives_only (Part.sub hL (by decide)) (by assumption)

theorem execLinkFrame_only {L : List Part} {s0 s : State} {x1 x2 x3 x4 x5}
    (hL : [.out, .free, .host, .sq, .obj, .life, .boot, .tape, .mot, .disk, .trc, .grp, .red, .regs 0, .regs 4,
      .regs 8, .regs 16, .regs 32, .regs 36, .regs 40, .regs 48, .regs 49] ⊆ L) (h : Only L s0 s) :
    Only.Out L s0 (execLinkFrame x1 x2 x3 x4 x5 s) := by
  unfold execLinkFrame
  extract_lets n1 n2 s3
  have hs3 : Only L s0 s3 := by
    unfold s3
    exact State.setPort_only (Part.sub hL (by decide)) (by assumption)
  clear_value s3
  refine Only.iteOut ?_ ?_
  · refine Only.next ?_
    assumption
  · split
    · refine Only.next ?_
      refine State.crossed_only (Part.sub hL (by decide)) ?_
      exact State.block_only (Part.sub hL (by decide)) (by assumption)
    · refine Only.iteOut ?_ ?_
      · refine Only.next ?_
        assumption
      · refine Only.next ?_
        refine State.block_only (Part.sub hL (by decide)) ?_
        exact State.setPort_only (Part.sub hL (by decide)) (by assumption)

theorem execStripWriteData_only {L : List Part} {s0 s : State} {x1 x2 x3}
    (hL : [.out, .free, .host, .sq, .obj, .life, .boot, .tape, .mot, .disk, .trc, .grp, .red, .regs 0, .regs 4,
      .regs 8, .regs 16, .regs 32, .regs 36, .regs 40, .regs 48, .regs 49] ⊆ L) (h : Only L s0 s) :
    Only.Out L s0 (execStripWriteData x1 x2 x3 s) := by
  unfold execStripWriteData
  refine Only.next ?_
  exact State.stripArrives_only (Part.sub hL (by decide)) (by assumption)

theorem execStripWriteAbort_only {L : List Part} {s0 s : State} {x1 x2}
    (hL : [.out, .free, .host, .sq, .obj, .life, .boot, .tape, .mot, .disk, .trc, .grp, .red, .regs 0, .regs 4,
      .regs 8, .regs 16, .regs 32, .regs 36, .regs 40, .regs 48, .regs 49] ⊆ L) (h : Only L s0 s) :
    Only.Out L s0 (execStripWriteAbort x1 x2 s) := by
  unfold execStripWriteAbort
  refine Only.next ?_
  exact State.stripArrives_only (Part.sub hL (by decide)) (by assumption)

theorem execStripRead_only {L : List Part} {s0 s : State} {x1 x2}
    (hL : [.out, .free, .host, .sq, .obj, .life, .boot, .tape, .mot, .disk, .trc, .grp, .red, .regs 0, .regs 4,
      .regs 8, .regs 16, .regs 32, .regs 36, .regs 40, .regs 48, .regs 49] ⊆ L) (h : Only L s0 s) :
    Only.Out L s0 (execStripRead x1 x2 s) := by
  unfold execStripRead
  refine Only.next ?_
  exact State.stripArrives_only (Part.sub hL (by decide)) (by assumption)

theorem execStripData_only {L : List Part} {s0 s : State} {x1 x2 x3}
    (hL : [.out, .free, .host, .sq, .obj, .life, .boot, .tape, .mot, .disk, .trc, .grp, .red, .regs 0, .regs 4,
      .regs 8, .regs 16, .regs 32, .regs 36, .regs 40, .regs 48, .regs 49] ⊆ L) (h : Only L s0 s) :
    Only.Out L s0 (execStripData x1 x2 x3 s) := by
  unfold execStripData
  refine Only.next ?_
  exact State.stripArrives_only (Part.sub hL (by decide)) (by assumption)

theorem execStripDone_only {L : List Part} {s0 s : State} {x1 x2}
    (hL : [.out, .free, .host, .sq, .obj, .life, .boot, .tape, .mot, .disk, .trc, .grp, .red, .regs 0, .regs 4,
      .regs 8, .regs 16, .regs 32, .regs 36, .regs 40, .regs 48, .regs 49] ⊆ L) (h : Only L s0 s) :
    Only.Out L s0 (execStripDone x1 x2 s) := by
  unfold execStripDone
  refine Only.next ?_
  exact State.stripArrives_only (Part.sub hL (by decide)) (by assumption)

theorem execStripEstimate_only {L : List Part} {s0 s : State} {x1 x2}
    (hL : [.out, .free, .host, .sq, .obj, .life, .boot, .tape, .mot, .disk, .trc, .grp, .red, .regs 0, .regs 4,
      .regs 8, .regs 16, .regs 32, .regs 36, .regs 40, .regs 48, .regs 49] ⊆ L) (h : Only L s0 s) :
    Only.Out L s0 (execStripEstimate x1 x2 s) := by
  unfold execStripEstimate
  refine Only.next ?_
  exact State.stripArrives_only (Part.sub hL (by decide)) (by assumption)

theorem execStripFail_only {L : List Part} {s0 s : State} {x1 x2}
    (hL : [.out, .free, .host, .sq, .obj, .life, .boot, .tape, .mot, .disk, .trc, .grp, .red, .regs 0, .regs 4,
      .regs 8, .regs 16, .regs 32, .regs 36, .regs 40, .regs 48, .regs 49] ⊆ L) (h : Only L s0 s) :
    Only.Out L s0 (execStripFail x1 x2 s) := by
  unfold execStripFail
  refine Only.next ?_
  exact State.stripArrives_only (Part.sub hL (by decide)) (by assumption)

theorem execLandingData_only {L : List Part} {s0 s : State} {x1 x2 x3}
    (hL : [.out, .free, .host, .sq, .obj, .life, .boot, .tape, .mot, .disk, .trc, .grp, .red, .regs 0, .regs 4,
      .regs 8, .regs 16, .regs 32, .regs 36, .regs 40, .regs 48, .regs 49] ⊆ L) (h : Only L s0 s) :
    Only.Out L s0 (execLandingData x1 x2 x3 s) := by
  unfold execLandingData
  refine Only.next ?_
  exact State.stripArrives_only (Part.sub hL (by decide)) (by assumption)

theorem execLandingWritten_only {L : List Part} {s0 s : State} {x1 x2}
    (hL : [.out, .free, .host, .sq, .obj, .life, .boot, .tape, .mot, .disk, .trc, .grp, .red, .regs 0, .regs 4,
      .regs 8, .regs 16, .regs 32, .regs 36, .regs 40, .regs 48, .regs 49] ⊆ L) (h : Only L s0 s) :
    Only.Out L s0 (execLandingWritten x1 x2 s) := by
  unfold execLandingWritten
  refine Only.next ?_
  exact State.stripArrives_only (Part.sub hL (by decide)) (by assumption)

theorem execLandingRelease_only {L : List Part} {s0 s : State} {x1 x2}
    (hL : [.out, .free, .host, .sq, .obj, .life, .boot, .tape, .mot, .disk, .trc, .grp, .red, .regs 0, .regs 4,
      .regs 8, .regs 16, .regs 32, .regs 36, .regs 40, .regs 48, .regs 49] ⊆ L) (h : Only L s0 s) :
    Only.Out L s0 (execLandingRelease x1 x2 s) := by
  unfold execLandingRelease
  refine Only.next ?_
  exact State.stripArrives_only (Part.sub hL (by decide)) (by assumption)

theorem execLandingFail_only {L : List Part} {s0 s : State} {x1 x2}
    (hL : [.out, .free, .host, .sq, .obj, .life, .boot, .tape, .mot, .disk, .trc, .grp, .red, .regs 0, .regs 4,
      .regs 8, .regs 16, .regs 32, .regs 36, .regs 40, .regs 48, .regs 49] ⊆ L) (h : Only L s0 s) :
    Only.Out L s0 (execLandingFail x1 x2 s) := by
  unfold execLandingFail
  refine Only.next ?_
  exact State.stripArrives_only (Part.sub hL (by decide)) (by assumption)

theorem execJournalRecord_only {L : List Part} {s0 s : State} {x1 x2 x3}
    (hL : [.out, .free, .host, .sq, .obj, .life, .boot, .tape, .mot, .disk, .trc, .grp, .red, .regs 0, .regs 4,
      .regs 8, .regs 16, .regs 32, .regs 36, .regs 40, .regs 48, .regs 49] ⊆ L) (h : Only L s0 s) :
    Only.Out L s0 (execJournalRecord x1 x2 x3 s) := by
  unfold execJournalRecord
  refine Only.next ?_
  exact State.stripArrives_only (Part.sub hL (by decide)) (by assumption)

theorem execJournalTake_only {L : List Part} {s0 s : State} {x1 x2}
    (hL : [.out, .free, .host, .sq, .obj, .life, .boot, .tape, .mot, .disk, .trc, .grp, .red, .regs 0, .regs 4,
      .regs 8, .regs 16, .regs 32, .regs 36, .regs 40, .regs 48, .regs 49] ⊆ L) (h : Only L s0 s) :
    Only.Out L s0 (execJournalTake x1 x2 s) := by
  unfold execJournalTake
  refine Only.next ?_
  exact State.stripArrives_only (Part.sub hL (by decide)) (by assumption)

theorem execJournalRecords_only {L : List Part} {s0 s : State} {x1 x2 x3}
    (hL : [.out, .free, .host, .sq, .obj, .life, .boot, .tape, .mot, .disk, .trc, .grp, .red, .regs 0, .regs 4,
      .regs 8, .regs 16, .regs 32, .regs 36, .regs 40, .regs 48, .regs 49] ⊆ L) (h : Only L s0 s) :
    Only.Out L s0 (execJournalRecords x1 x2 x3 s) := by
  unfold execJournalRecords
  refine Only.next ?_
  exact State.stripArrives_only (Part.sub hL (by decide)) (by assumption)

theorem execJournalDirectory_only {L : List Part} {s0 s : State} {x1 x2 x3}
    (hL : [.out, .free, .host, .sq, .obj, .life, .boot, .tape, .mot, .disk, .trc, .grp, .red, .regs 0, .regs 4,
      .regs 8, .regs 16, .regs 32, .regs 36, .regs 40, .regs 48, .regs 49] ⊆ L) (h : Only L s0 s) :
    Only.Out L s0 (execJournalDirectory x1 x2 x3 s) := by
  unfold execJournalDirectory
  refine Only.next ?_
  exact State.stripArrives_only (Part.sub hL (by decide)) (by assumption)

theorem execJournalRows_only {L : List Part} {s0 s : State} {x1 x2 x3}
    (hL : [.out, .free, .host, .sq, .obj, .life, .boot, .tape, .mot, .disk, .trc, .grp, .red, .regs 0, .regs 4,
      .regs 8, .regs 16, .regs 32, .regs 36, .regs 40, .regs 48, .regs 49] ⊆ L) (h : Only L s0 s) :
    Only.Out L s0 (execJournalRows x1 x2 x3 s) := by
  unfold execJournalRows
  refine Only.next ?_
  exact State.stripArrives_only (Part.sub hL (by decide)) (by assumption)

theorem execRebuildList_only {L : List Part} {s0 s : State} {x1 x2}
    (hL : [.out, .free, .host, .sq, .obj, .life, .boot, .tape, .mot, .disk, .trc, .grp, .red, .regs 0, .regs 4,
      .regs 8, .regs 16, .regs 32, .regs 36, .regs 40, .regs 48, .regs 49] ⊆ L) (h : Only L s0 s) :
    Only.Out L s0 (execRebuildList x1 x2 s) := by
  unfold execRebuildList
  refine Only.next ?_
  exact State.stripArrives_only (Part.sub hL (by decide)) (by assumption)

theorem execRebuildListData_only {L : List Part} {s0 s : State} {x1 x2 x3}
    (hL : [.out, .free, .host, .sq, .obj, .life, .boot, .tape, .mot, .disk, .trc, .grp, .red, .regs 0, .regs 4,
      .regs 8, .regs 16, .regs 32, .regs 36, .regs 40, .regs 48, .regs 49] ⊆ L) (h : Only L s0 s) :
    Only.Out L s0 (execRebuildListData x1 x2 x3 s) := by
  unfold execRebuildListData
  refine Only.next ?_
  exact State.stripArrives_only (Part.sub hL (by decide)) (by assumption)

theorem execRebuildRead_only {L : List Part} {s0 s : State} {x1 x2}
    (hL : [.out, .free, .host, .sq, .obj, .life, .boot, .tape, .mot, .disk, .trc, .grp, .red, .regs 0, .regs 4,
      .regs 8, .regs 16, .regs 32, .regs 36, .regs 40, .regs 48, .regs 49] ⊆ L) (h : Only L s0 s) :
    Only.Out L s0 (execRebuildRead x1 x2 s) := by
  unfold execRebuildRead
  refine Only.next ?_
  exact State.stripArrives_only (Part.sub hL (by decide)) (by assumption)

theorem execRebuildData_only {L : List Part} {s0 s : State} {x1 x2 x3}
    (hL : [.out, .free, .host, .sq, .obj, .life, .boot, .tape, .mot, .disk, .trc, .grp, .red, .regs 0, .regs 4,
      .regs 8, .regs 16, .regs 32, .regs 36, .regs 40, .regs 48, .regs 49] ⊆ L) (h : Only L s0 s) :
    Only.Out L s0 (execRebuildData x1 x2 x3 s) := by
  unfold execRebuildData
  refine Only.next ?_
  exact State.stripArrives_only (Part.sub hL (by decide)) (by assumption)

theorem execSeqMirror_only {L : List Part} {s0 s : State} {x1 x2 x3}
    (hL : [.out, .free, .host, .sq, .obj, .life, .boot, .tape, .mot, .disk, .trc, .grp, .red, .regs 0, .regs 4,
      .regs 8, .regs 16, .regs 32, .regs 36, .regs 40, .regs 48, .regs 49] ⊆ L) (h : Only L s0 s) :
    Only.Out L s0 (execSeqMirror x1 x2 x3 s) := by
  unfold execSeqMirror
  refine Only.next ?_
  exact State.arrives_only (Part.sub hL (by decide)) (by assumption)

theorem execMapLookup_only {L : List Part} {s0 s : State} {x1 x2 x3}
    (hL : [.out, .free, .host, .sq, .obj, .life, .boot, .tape, .mot, .disk, .trc, .grp, .red, .regs 0, .regs 4,
      .regs 8, .regs 16, .regs 32, .regs 36, .regs 40, .regs 48, .regs 49] ⊆ L) (h : Only L s0 s) :
    Only.Out L s0 (execMapLookup x1 x2 x3 s) := by
  unfold execMapLookup
  refine Only.next ?_
  exact State.arrives_only (Part.sub hL (by decide)) (by assumption)

theorem execMapInsert_only {L : List Part} {s0 s : State} {x1 x2 x3}
    (hL : [.out, .free, .host, .sq, .obj, .life, .boot, .tape, .mot, .disk, .trc, .grp, .red, .regs 0, .regs 4,
      .regs 8, .regs 16, .regs 32, .regs 36, .regs 40, .regs 48, .regs 49] ⊆ L) (h : Only L s0 s) :
    Only.Out L s0 (execMapInsert x1 x2 x3 s) := by
  unfold execMapInsert
  refine Only.next ?_
  exact State.arrives_only (Part.sub hL (by decide)) (by assumption)

theorem execMapUpdate_only {L : List Part} {s0 s : State} {x1 x2 x3}
    (hL : [.out, .free, .host, .sq, .obj, .life, .boot, .tape, .mot, .disk, .trc, .grp, .red, .regs 0, .regs 4,
      .regs 8, .regs 16, .regs 32, .regs 36, .regs 40, .regs 48, .regs 49] ⊆ L) (h : Only L s0 s) :
    Only.Out L s0 (execMapUpdate x1 x2 x3 s) := by
  unfold execMapUpdate
  refine Only.next ?_
  exact State.arrives_only (Part.sub hL (by decide)) (by assumption)

theorem execMapDelete_only {L : List Part} {s0 s : State} {x1 x2}
    (hL : [.out, .free, .host, .sq, .obj, .life, .boot, .tape, .mot, .disk, .trc, .grp, .red, .regs 0, .regs 4,
      .regs 8, .regs 16, .regs 32, .regs 36, .regs 40, .regs 48, .regs 49] ⊆ L) (h : Only L s0 s) :
    Only.Out L s0 (execMapDelete x1 x2 s) := by
  unfold execMapDelete
  refine Only.next ?_
  exact State.arrives_only (Part.sub hL (by decide)) (by assumption)

theorem execDiscoverProbe_only {L : List Part} {s0 s : State} {x1 x2 x3}
    (hL : [.out, .free, .host, .sq, .obj, .life, .boot, .tape, .mot, .disk, .trc, .grp, .red, .regs 0, .regs 4,
      .regs 8, .regs 16, .regs 32, .regs 36, .regs 40, .regs 48, .regs 49] ⊆ L) (h : Only L s0 s) :
    Only.Out L s0 (execDiscoverProbe x1 x2 x3 s) := by
  unfold execDiscoverProbe
  refine Only.next ?_
  exact State.arrives_only (Part.sub hL (by decide)) (by assumption)

theorem execDiscoverAssign_only {L : List Part} {s0 s : State} {x1 x2 x3}
    (hL : [.out, .free, .host, .sq, .obj, .life, .boot, .tape, .mot, .disk, .trc, .grp, .red, .regs 0, .regs 4,
      .regs 8, .regs 16, .regs 32, .regs 36, .regs 40, .regs 48, .regs 49] ⊆ L) (h : Only L s0 s) :
    Only.Out L s0 (execDiscoverAssign x1 x2 x3 s) := by
  unfold execDiscoverAssign
  refine Only.next ?_
  exact State.arrives_only (Part.sub hL (by decide)) (by assumption)

theorem execLinkState_only {L : List Part} {s0 s : State} {x1 x2 x3 x4}
    (hL : [.out, .free, .host, .sq, .obj, .life, .boot, .tape, .mot, .disk, .trc, .grp, .red, .regs 0, .regs 4,
      .regs 8, .regs 16, .regs 32, .regs 36, .regs 40, .regs 48, .regs 49] ⊆ L) (h : Only L s0 s) :
    Only.Out L s0 (execLinkState x1 x2 x3 x4 s) := by
  unfold execLinkState
  refine Only.next ?_
  exact State.arrives_only (Part.sub hL (by decide)) (by assumption)

theorem execLeadBeat_only {L : List Part} {s0 s : State} {x1 x2}
    (hL : [.out, .free, .host, .sq, .obj, .life, .boot, .tape, .mot, .disk, .trc, .grp, .red, .regs 0, .regs 4,
      .regs 8, .regs 16, .regs 32, .regs 36, .regs 40, .regs 48, .regs 49] ⊆ L) (h : Only L s0 s) :
    Only.Out L s0 (execLeadBeat x1 x2 s) := by
  unfold execLeadBeat
  refine Only.next ?_
  exact State.arrives_only (Part.sub hL (by decide)) (by assumption)

theorem execMemberBeat_only {L : List Part} {s0 s : State} {x1 x2 x3 x4}
    (hL : [.out, .free, .host, .sq, .obj, .life, .boot, .tape, .mot, .disk, .trc, .grp, .red, .regs 0, .regs 4,
      .regs 8, .regs 16, .regs 32, .regs 36, .regs 40, .regs 48, .regs 49] ⊆ L) (h : Only L s0 s) :
    Only.Out L s0 (execMemberBeat x1 x2 x3 x4 s) := by
  unfold execMemberBeat
  refine Only.next ?_
  exact State.arrives_only (Part.sub hL (by decide)) (by assumption)

theorem execLeadQuery_only {L : List Part} {s0 s : State} {x1}
    (hL : [.out, .free, .host, .sq, .obj, .life, .boot, .tape, .mot, .disk, .trc, .grp, .red, .regs 0, .regs 4,
      .regs 8, .regs 16, .regs 32, .regs 36, .regs 40, .regs 48, .regs 49] ⊆ L) (h : Only L s0 s) :
    Only.Out L s0 (execLeadQuery x1 s) := by
  unfold execLeadQuery
  refine Only.next ?_
  exact State.arrives_only (Part.sub hL (by decide)) (by assumption)

theorem execLeadQueryResp_only {L : List Part} {s0 s : State} {x1 x2}
    (hL : [.out, .free, .host, .sq, .obj, .life, .boot, .tape, .mot, .disk, .trc, .grp, .red, .regs 0, .regs 4,
      .regs 8, .regs 16, .regs 32, .regs 36, .regs 40, .regs 48, .regs 49] ⊆ L) (h : Only L s0 s) :
    Only.Out L s0 (execLeadQueryResp x1 x2 s) := by
  unfold execLeadQueryResp
  refine Only.next ?_
  exact State.arrives_only (Part.sub hL (by decide)) (by assumption)

theorem execEpochCmd_only {L : List Part} {s0 s : State} {x1 x2}
    (hL : [.out, .free, .host, .sq, .obj, .life, .boot, .tape, .mot, .disk, .trc, .grp, .red, .regs 0, .regs 4,
      .regs 8, .regs 16, .regs 32, .regs 36, .regs 40, .regs 48, .regs 49] ⊆ L) (h : Only L s0 s) :
    Only.Out L s0 (execEpochCmd x1 x2 s) := by
  unfold execEpochCmd
  refine Only.next ?_
  exact State.arrives_only (Part.sub hL (by decide)) (by assumption)

theorem execEpochReq_only {L : List Part} {s0 s : State} {x1}
    (hL : [.out, .free, .host, .sq, .obj, .life, .boot, .tape, .mot, .disk, .trc, .grp, .red, .regs 0, .regs 4,
      .regs 8, .regs 16, .regs 32, .regs 36, .regs 40, .regs 48, .regs 49] ⊆ L) (h : Only L s0 s) :
    Only.Out L s0 (execEpochReq x1 s) := by
  unfold execEpochReq
  refine Only.next ?_
  exact State.arrives_only (Part.sub hL (by decide)) (by assumption)

theorem execRejectCmd_only {L : List Part} {s0 s : State} {x1 x2 x3 x4 x5}
    (hL : [.out, .free, .host, .sq, .obj, .life, .boot, .tape, .mot, .disk, .trc, .grp, .red, .regs 0, .regs 4,
      .regs 8, .regs 16, .regs 32, .regs 36, .regs 40, .regs 48, .regs 49] ⊆ L) (h : Only L s0 s) :
    Only.Out L s0 (execRejectCmd x1 x2 x3 x4 x5 s) := by
  unfold execRejectCmd
  refine Only.next ?_
  exact State.arrives_only (Part.sub hL (by decide)) (by assumption)

theorem execE2eAck_only {L : List Part} {s0 s : State} {x1 x2 x3}
    (hL : [.out, .free, .host, .sq, .obj, .life, .boot, .tape, .mot, .disk, .trc, .grp, .red, .regs 0, .regs 4,
      .regs 8, .regs 16, .regs 32, .regs 36, .regs 40, .regs 48, .regs 49] ⊆ L) (h : Only L s0 s) :
    Only.Out L s0 (execE2eAck x1 x2 x3 s) := by
  unfold execE2eAck
  refine Only.next ?_
  exact State.arrives_only (Part.sub hL (by decide)) (by assumption)

theorem execMgmtCmd_only {L : List Part} {s0 s : State} {x1 x2 x3 x4 x5 x6}
    (hL : [.out, .free, .host, .sq, .obj, .life, .boot, .tape, .mot, .disk, .trc, .grp, .red, .regs 0, .regs 4,
      .regs 8, .regs 16, .regs 32, .regs 36, .regs 40, .regs 48, .regs 49] ⊆ L) (h : Only L s0 s) :
    Only.Out L s0 (execMgmtCmd x1 x2 x3 x4 x5 x6 s) := by
  unfold execMgmtCmd
  refine Only.next ?_
  exact State.arrives_only (Part.sub hL (by decide)) (by assumption)

theorem execMgmtCmdDone_only {L : List Part} {s0 s : State} {x1 x2 x3}
    (hL : [.out, .free, .host, .sq, .obj, .life, .boot, .tape, .mot, .disk, .trc, .grp, .red, .regs 0, .regs 4,
      .regs 8, .regs 16, .regs 32, .regs 36, .regs 40, .regs 48, .regs 49] ⊆ L) (h : Only L s0 s) :
    Only.Out L s0 (execMgmtCmdDone x1 x2 x3 s) := by
  unfold execMgmtCmdDone
  refine Only.next ?_
  exact State.arrives_only (Part.sub hL (by decide)) (by assumption)

theorem execMgmtOpAdmin_only {L : List Part} {s0 s : State} {x1 x2 x3 x4 x5 x6 x7}
    (hL : [.out, .free, .host, .sq, .obj, .life, .boot, .tape, .mot, .disk, .trc, .grp, .red, .regs 0, .regs 4,
      .regs 8, .regs 16, .regs 32, .regs 36, .regs 40, .regs 48, .regs 49] ⊆ L) (h : Only L s0 s) :
    Only.Out L s0 (execMgmtOpAdmin x1 x2 x3 x4 x5 x6 x7 s) := by
  unfold execMgmtOpAdmin
  extract_lets n1
  refine Only.next ?_
  exact State.arrivesWith_only (Part.sub hL (by decide)) (by assumption)

theorem execMgmtAdminDone_only {L : List Part} {s0 s : State} {x1 x2 x3 x4 x5 x6}
    (hL : [.out, .free, .host, .sq, .obj, .life, .boot, .tape, .mot, .disk, .trc, .grp, .red, .regs 0, .regs 4,
      .regs 8, .regs 16, .regs 32, .regs 36, .regs 40, .regs 48, .regs 49] ⊆ L) (h : Only L s0 s) :
    Only.Out L s0 (execMgmtAdminDone x1 x2 x3 x4 x5 x6 s) := by
  unfold execMgmtAdminDone
  refine Only.next ?_
  exact State.arrives_only (Part.sub hL (by decide)) (by assumption)

end Sys2Proof.Machine
end

