-- ==== Sys2Proof/Laws/OnlyRegisters.lean ====
section
/-!
SUPPORT. The parts of the state that an operation of Machine/Registers.lean may change (Laws/Only.lean).
-/

set_option Elab.async false

namespace Sys2Proof.Machine

theorem State.hostField_only {L : List Part} {s0 s : State} {x2 x3}
    (hL : [.regs 0, .regs 1, .regs 2, .regs 3, .regs 4, .regs 8, .regs 10, .regs 12, .regs 16, .regs 20,
      .regs 24, .regs 28, .regs 32, .regs 33, .regs 36, .regs 40, .regs 44, .regs 48, .regs 49] ⊆ L) (h : Only L s0 s) (hx : x3.1 ∈ allFields) :
    Only L s0 (State.hostField s x2 x3) := by
  unfold State.hostField
  have hw : [Part.regs x3.1.block] ⊆ L := Part.one (Only.regs_mem _ hx rfl (Part.sub hL (by decide)))
  refine Only.ite (Only.ite (State.fset_only hw h) h) (Only.ite (State.fset_only hw h) (Only.ite
    (State.fset_only hw h) h))

theorem State.writeResetCtl_only {L : List Part} {s0 s : State} {x2 x3}
    (hL : [.host, .sq, .obj, .boot, .tape, .mot, .disk, .det, .medium, .wra, .ctl, .trc, .grp, .red, .pwr,
      .mem, .regs 0, .regs 1, .regs 2, .regs 3, .regs 4, .regs 8, .regs 10, .regs 12, .regs 16, .regs 20,
      .regs 24, .regs 28, .regs 32, .regs 33, .regs 36, .regs 40, .regs 44, .regs 48, .regs 49] ⊆ L) (h : Only L s0 s) :
    Only L s0 (State.writeResetCtl s x2 x3) := by
  unfold State.writeResetCtl
  refine Only.ite ?_ ?_
  · assumption
  · refine Only.ite ?_ ?_
    · refine State.resetCause_only (Part.sub hL (by decide)) ?_
      exact State.resetWarm_only (Part.sub hL (by decide)) (by assumption)
    · exact State.accessErr_only (Part.sub hL (by decide)) (by assumption)

theorem State.writeFields_only {L : List Part} {s0 s : State} {x2 x3 x4}
    (hL : [.regs 0, .regs 1, .regs 2, .regs 3, .regs 4, .regs 8, .regs 10, .regs 12, .regs 16, .regs 20,
      .regs 24, .regs 28, .regs 32, .regs 33, .regs 36, .regs 40, .regs 44, .regs 48, .regs 49] ⊆ L) (h : Only L s0 s) :
    Only L s0 (State.writeFields s x2 x3 x4) := by
  unfold State.writeFields
  have hf : Only L s0 ((fieldsAt x3).foldl (fun t p => t.hostField x4 p) s) := Only.foldlMem _ h fun s p hp h =>
    State.hostField_only (Part.sub hL (by decide)) h (mem_fieldsAt hp)
  exact Only.ite h (Only.ite h (Only.ite (State.accessErr_only (Part.sub hL (by decide)) hf) hf))

theorem State.presetIf_only {L : List Part} {s0 s : State} {x2 x3}
    (hL : [.ctl] ⊆ L) (h : Only L s0 s) :
    Only L s0 (State.presetIf s x2 x3) := by
  unfold State.presetIf
  extract_lets n1
  refine Only.ite ?_ ?_
  · exact State.setSlotOf_only (Part.sub hL (by decide)) (by assumption)
  · assumption

theorem State.writeSlot_only {L : List Part} {s0 s : State} {x2 x3 x4 x5}
    (hL : [.ctl, .trc, .regs 0, .regs 1, .regs 2, .regs 3, .regs 4, .regs 8, .regs 10, .regs 12, .regs 16,
      .regs 20, .regs 24, .regs 28, .regs 32, .regs 33, .regs 36, .regs 40, .regs 44, .regs 48, .regs 49] ⊆ L) (h : Only L s0 s) :
    Only L s0 (State.writeSlot s x2 x3 x4 x5) := by
  unfold State.writeSlot
  extract_lets n1 n2 n3 n4 s5 s6
  have hs5 : Only L s0 s5 := by
    unfold s5
    refine Only.ite ?_ ?_
    · exact State.accessErr_only (Part.sub hL (by decide)) (by assumption)
    · assumption
  clear_value s5
  have hs6 : Only L s0 s6 := by
    unfold s6
    exact State.writeFields_only (Part.sub hL (by decide)) (by assumption)
  clear_value s6
  refine Only.ite ?_ ?_
  · exact State.slotFlag_only (Part.sub hL (by decide)) (by assumption)
  · refine Only.ite ?_ ?_
    · exact State.commitTarget_only (Part.sub hL (by decide)) (by assumption)
    · exact State.presetIf_only (Part.sub hL (by decide)) (by assumption)

theorem State.writeTrcCtl_only {L : List Part} {s0 s : State} {x2}
    (hL : [.trc, .regs 49] ⊆ L) (h : Only L s0 s) :
    Only L s0 (State.writeTrcCtl s x2) := by
  unfold State.writeTrcCtl
  extract_lets s1 s2
  have hs1 : Only L s0 s1 := by
    unfold s1
    refine Only.ite ?_ ?_
    · exact State.traceArm_only (Part.sub hL (by decide)) (by assumption)
    · assumption
  clear_value s1
  have hs2 : Only L s0 s2 := by
    unfold s2
    refine Only.ite ?_ ?_
    · exact State.traceForce_only (Part.sub hL (by decide)) (by assumption)
    · assumption
  clear_value s2
  refine Only.ite ?_ ?_
  · exact State.traceAbort_only (Part.sub hL (by decide)) (by assumption)
  · assumption

theorem State.writeRcvCmd_only {L : List Part} {s0 s : State} {x2 x3}
    (hL : [.out, .boot, .regs 48] ⊆ L) (h : Only L s0 s) :
    Only L s0 (State.writeRcvCmd s x2 x3) := by
  unfold State.writeRcvCmd
  extract_lets n1
  split
  · exact State.rcvErase_only (Part.sub hL (by decide)) (by assumption)
  · exact State.rcvProgram_only (Part.sub hL (by decide)) (by assumption)
  · exact State.rcvRead_only (Part.sub hL (by decide)) (by assumption)
  · exact State.rcvSelect_only (Part.sub hL (by decide)) (by assumption)
  · assumption

theorem State.hostWrite_only {L : List Part} {s0 s : State} {x2 x3 x4}
    (hL : [.out, .host, .sq, .obj, .life, .boot, .tape, .mot, .disk, .det, .medium, .wra, .ctl, .trc, .grp,
      .red, .pwr, .mem, .regs 0, .regs 1, .regs 2, .regs 3, .regs 4, .regs 8, .regs 10, .regs 12, .regs 16,
      .regs 20, .regs 24, .regs 28, .regs 32, .regs 33, .regs 36, .regs 40, .regs 44, .regs 48, .regs 49] ⊆ L) (h : Only L s0 s) :
    Only L s0 (State.hostWrite s x2 x3 x4) := by
  unfold State.hostWrite
  refine Only.ite ?_ ?_
  · assumption
  · refine Only.ite ?_ ?_
    · exact State.writeResetCtl_only (Part.sub hL (by decide)) (by assumption)
    · refine Only.ite ?_ ?_
      · exact State.writeIngWm_only (Part.sub hL (by decide)) (by assumption)
      · refine Only.ite ?_ ?_
        · exact State.writeArb_only (Part.sub hL (by decide)) (by assumption)
        · refine Only.ite ?_ ?_
          · exact State.writeArb_only (Part.sub hL (by decide)) (by assumption)
          · refine Only.ite ?_ ?_
            · split
              · exact State.writeTq_only (Part.sub hL (by decide)) (by assumption)
              · assumption
            · refine Only.ite ?_ ?_
              · split
                · exact State.writeCr_only (Part.sub hL (by decide)) (by assumption)
                · assumption
              · refine Only.ite ?_ ?_
                · exact State.writeSlot_only (Part.sub hL (by decide)) (by assumption)
                · refine Only.ite ?_ ?_
                  · assumption
                  · refine Only.ite ?_ ?_
                    · assumption
                    · refine Only.ite ?_ ?_
                      · exact State.writeTrcCtl_only (Part.sub hL (by decide)) (by assumption)
                      · refine Only.ite ?_ ?_
                        · assumption
                        · refine Only.ite ?_ ?_
                          · exact State.writeRcvCmd_only (Part.sub hL (by decide)) (by assumption)
                          · refine Only.ite ?_ ?_
                            · assumption
                            · refine Only.ite ?_ ?_
                              · refine Only.ite ?_ ?_
                                · exact State.selfTestRun_only (Part.sub hL (by decide)) (by assumption)
                                · assumption
                              · exact State.writeFields_only (Part.sub hL (by decide)) (by assumption)

theorem execWarmReset_only {L : List Part} {s0 s : State} {x1 x2}
    (hL : [.host, .sq, .obj, .boot, .tape, .mot, .disk, .det, .medium, .wra, .ctl, .trc, .grp, .red, .pwr,
      .mem, .regs 0, .regs 1, .regs 2, .regs 3, .regs 4, .regs 8, .regs 10, .regs 12, .regs 16, .regs 20,
      .regs 24, .regs 28, .regs 32, .regs 33, .regs 36, .regs 40, .regs 44, .regs 48, .regs 49] ⊆ L) (h : Only L s0 s) :
    Only.Out L s0 (execWarmReset x1 x2 s) := by
  unfold execWarmReset
  refine Only.next ?_
  refine Only.ite ?_ ?_
  · exact State.writeResetCtl_only (Part.sub hL (by decide)) (by assumption)
  · assumption

theorem execRegWrite_only {L : List Part} {s0 s : State} {x1 x2 x3}
    (hL : [.out, .host, .sq, .obj, .life, .boot, .tape, .mot, .disk, .det, .medium, .wra, .ctl, .trc, .grp,
      .red, .pwr, .mem, .regs 0, .regs 1, .regs 2, .regs 3, .regs 4, .regs 8, .regs 10, .regs 12, .regs 16,
      .regs 20, .regs 24, .regs 28, .regs 32, .regs 33, .regs 36, .regs 40, .regs 44, .regs 48, .regs 49] ⊆ L) (h : Only L s0 s) :
    Only.Out L s0 (execRegWrite x1 x2 x3 s) := by
  unfold execRegWrite
  refine Only.iteOut ?_ ?_
  · refine Only.next ?_
    assumption
  · refine Only.iteOut ?_ ?_
    · refine Only.next ?_
      exact State.accessErr_only (Part.sub hL (by decide)) (by assumption)
    · refine Only.next ?_
      exact State.hostWrite_only (Part.sub hL (by decide)) (by assumption)

end Sys2Proof.Machine
end

