-- ==== Sys2Proof/Laws/OnlyStartup.lean ====
section
/-!
SUPPORT. The parts of the state that an operation of Machine/Startup.lean may change (Laws/Only.lean).
-/

set_option Elab.async false

namespace Sys2Proof.Machine

theorem State.dropPending_only {L : List Part} {s0 s : State}
    (hL : [.boot, .regs 48] ⊆ L) (h : Only L s0 s) :
    Only L s0 (State.dropPending s) := by
  unfold State.dropPending
  split
  · refine Only.ite ?_ ?_
    · exact State.writeImgRec_only (Part.sub hL (by decide)) (by assumption)
    · assumption
  · assumption

theorem State.linkConfig_only {L : List Part} {s0 s : State}
    (hL : [.host, .regs 4] ⊆ L) (h : Only L s0 s) :
    Only L s0 (State.linkConfig s) := by
  unfold State.linkConfig
  extract_lets n1 s2 n3
  have hs2 : Only L s0 s2 := by
    unfold s2
    refine State.wr_only (Part.sub hL (by decide)) ?_
    exact State.wr_only (Part.sub hL (by decide)) (by assumption)
  clear_value s2
  refine Only.updHost (Part.sub hL (by decide)) ?_
  assumption

theorem State.setPersonality_only {L : List Part} {s0 s : State} {x2}
    (hL : [.obj, .regs 0, .regs 32, .regs 40] ⊆ L) (h : Only L s0 s) :
    Only L s0 (State.setPersonality s x2) := by
  unfold State.setPersonality
  extract_lets n1 s2 s3 n4 s5
  have hs2 : Only L s0 s2 := by
    unfold s2
    exact State.wr_only (Part.sub hL (by decide)) (by assumption)
  clear_value s2
  have hs3 : Only L s0 s3 := by
    unfold s3
    refine State.wr_only (Part.sub hL (by decide)) ?_
    exact State.wr_only (Part.sub hL (by decide)) (by assumption)
  clear_value s3
  have hs5 : Only L s0 s5 := by
    unfold s5
    refine Only.updObj (Part.sub hL (by decide)) ?_
    assumption
  clear_value s5
  exact State.assignSlots_only (Part.sub hL (by decide)) (by assumption)

theorem State.loadImage_only {L : List Part} {s0 s : State} {x2}
    (hL : [.obj, .boot, .disk, .regs 0, .regs 1, .regs 2, .regs 3, .regs 4, .regs 8, .regs 10, .regs 12,
      .regs 16, .regs 20, .regs 24, .regs 28, .regs 32, .regs 33, .regs 36, .regs 40, .regs 44, .regs 48,
      .regs 49] ⊆ L) (h : Only L s0 s) :
    Only L s0 (State.loadImage s x2) := by
  unfold State.loadImage
  extract_lets n1 n2 n3 n4 s5 s6 n7 s8 n9 s10
  have hs5 : Only L s0 s5 := by
    unfold s5
    exact State.setPersonality_only (Part.sub hL (by decide)) (by assumption)
  clear_value s5
  have hs6 : Only L s0 s6 := by
    unfold s6
    refine Only.foldl _ ?_ (fun s _ h => ?_)
    · assumption
    · exact State.applyRec_only (Part.sub hL (by decide)) (by assumption)
  clear_value s6
  have hs8 : Only L s0 s8 := by
    unfold s8
    exact State.setBoot_only (Part.sub hL (by decide)) (by assumption)
  clear_value s8
  have hs10 : Only L s0 s10 := by
    unfold s10
    refine Only.updDisk (Part.sub hL (by decide)) ?_
    assumption
  clear_value s10
  refine State.initCells_only (Part.sub hL (by decide)) ?_
  exact State.wr_only (Part.sub hL (by decide)) (by assumption)

theorem State.loadRecord_only {L : List Part} {s0 s : State}
    (hL : [.grp, .regs 36] ⊆ L) (h : Only L s0 s) :
    Only L s0 (State.loadRecord s) := by
  unfold State.loadRecord
  split
  · assumption
  · split
    · extract_lets n1 s2
      have hs2 : Only L s0 s2 := by
        unfold s2
        exact State.setGrp_only (Part.sub hL (by decide)) (by assumption)
      clear_value s2
      refine Only.ite ?_ ?_
      · refine State.wr_only (Part.sub hL (by decide)) ?_
        exact State.wr_only (Part.sub hL (by decide)) (by assumption)
      · assumption
    · assumption

theorem State.lockPoint_only {L : List Part} {s0 s : State} {x2 x3}
    (hL : [.out, .host, .sq, .life, .boot, .mot, .medium, .wra, .ctl, .trc, .pwr, .regs 0, .regs 1, .regs 2,
      .regs 3, .regs 4, .regs 8, .regs 10, .regs 12, .regs 16, .regs 20, .regs 24, .regs 28, .regs 32,
      .regs 33, .regs 36, .regs 40, .regs 44, .regs 48, .regs 49] ⊆ L) (h : Only L s0 s) :
    Only L s0 (State.lockPoint s x2 x3) := by
  unfold State.lockPoint
  extract_lets n1 n2 s3 n4 s5 s6 s7 s8 n9 s10 n11 s12 s13
  have hs3 : Only L s0 s3 := by
    unfold s3
    exact State.writeImgRec_only (Part.sub hL (by decide)) (by assumption)
  clear_value s3
  have hs5 : Only L s0 s5 := by
    unfold s5
    exact State.setPwr_only (Part.sub hL (by decide)) (by assumption)
  clear_value s5
  have hs6 : Only L s0 s6 := by
    unfold s6
    exact State.setMedium_only (Part.sub hL (by decide)) (by assumption)
  clear_value s6
  have hs7 : Only L s0 s7 := by
    unfold s7
    refine State.wr_only (Part.sub hL (by decide)) ?_
    refine State.wr_only (Part.sub hL (by decide)) ?_
    exact State.wr_only (Part.sub hL (by decide)) (by assumption)
  clear_value s7
  have hs8 : Only L s0 s8 := by
    unfold s8
    refine State.wr_only (Part.sub hL (by decide)) ?_
    exact State.wr_only (Part.sub hL (by decide)) (by assumption)
  clear_value s8
  have hs10 : Only L s0 s10 := by
    unfold s10
    refine Only.updHost (Part.sub hL (by decide)) ?_
    assumption
  clear_value s10
  have hs12 : Only L s0 s12 := by
    unfold s12
    refine Only.ite ?_ ?_
    · refine State.raise_only (Part.sub hL (by decide)) ?_
      exact State.wr_only (Part.sub hL (by decide)) (by assumption)
    · assumption
  clear_value s12
  have hs13 : Only L s0 s13 := by
    unfold s13
    refine State.raise_only (Part.sub hL (by decide)) ?_
    exact State.syncCauses_only (Part.sub hL (by decide)) (by assumption)
  clear_value s13
  refine Only.ite ?_ ?_
  · exact State.startMedium_only (Part.sub hL (by decide)) (by assumption)
  · assumption

theorem State.markerStep_only {L : List Part} {s0 s : State} {x2}
    (hL : [.out, .host, .obj, .life, .trc, .regs 0, .regs 2, .regs 3, .regs 4, .regs 49] ⊆ L) (h : Only L s0 s) :
    Only L s0 (State.markerStep s x2) := by
  unfold State.markerStep
  extract_lets n1 n2 s3
  have hs3 : Only L s0 s3 := by
    unfold s3
    exact State.checkSeqTable_only (Part.sub hL (by decide)) (by assumption)
  clear_value s3
  refine Only.ite ?_ ?_
  · refine State.raise_only (Part.sub hL (by decide)) ?_
    exact State.wr_only (Part.sub hL (by decide)) (by assumption)
  · refine Only.ite ?_ ?_
    · refine State.raise_only (Part.sub hL (by decide)) ?_
      refine State.lifeAdd_only (Part.sub hL (by decide)) ?_
      exact State.wr_only (Part.sub hL (by decide)) (by assumption)
    · assumption

theorem State.mramStep_only {L : List Part} {s0 s : State}
    (hL : [.regs 2, .regs 24, .regs 28, .regs 44, .regs 48] ⊆ L) (h : Only L s0 s) :
    Only L s0 (State.mramStep s) := by
  unfold State.mramStep
  extract_lets s1
  have hs1 : Only L s0 s1 := by
    unfold s1
    refine State.wr_only (Part.sub hL (by decide)) ?_
    refine State.showImgRec_only (Part.sub hL (by decide)) ?_
    exact State.showMram_only (Part.sub hL (by decide)) (by assumption)
  clear_value s1
  refine State.loadLevels_only (Part.sub hL (by decide)) ?_
  refine State.wr_only (Part.sub hL (by decide)) ?_
  exact State.wr_only (Part.sub hL (by decide)) (by assumption)

theorem State.pllsLocked_only {L : List Part} {s0 s : State}
    (hL : [.regs 1] ⊆ L) (h : Only L s0 s) :
    Only L s0 (State.pllsLocked s) := by
  unfold State.pllsLocked
  refine State.wr_only (Part.sub hL (by decide)) ?_
  refine State.wr_only (Part.sub hL (by decide)) ?_
  exact State.wr_only (Part.sub hL (by decide)) (by assumption)

theorem State.readOtp_only {L : List Part} {s0 s : State}
    (hL : [.boot, .regs 36, .regs 48] ⊆ L) (h : Only L s0 s) :
    Only L s0 (State.readOtp s) := by
  unfold State.readOtp
  extract_lets n1 s2 s3 n4
  have hs2 : Only L s0 s2 := by
    unfold s2
    refine State.wr_only (Part.sub hL (by decide)) ?_
    exact State.wr_only (Part.sub hL (by decide)) (by assumption)
  clear_value s2
  have hs3 : Only L s0 s3 := by
    unfold s3
    refine State.wr_only (Part.sub hL (by decide)) ?_
    exact State.wr_only (Part.sub hL (by decide)) (by assumption)
  clear_value s3
  exact State.setBoot_only (Part.sub hL (by decide)) (by assumption)

theorem State.releaseCpu_only {L : List Part} {s0 s : State} {x2 x3}
    (hL : [.out, .host, .life, .boot, .trc, .regs 0, .regs 4, .regs 48, .regs 49] ⊆ L) (h : Only L s0 s) :
    Only L s0 (State.releaseCpu s x2 x3) := by
  unfold State.releaseCpu
  extract_lets n1 n2 n3 n4 s5 s6 s7 s8 n9 s10
  have hs5 : Only L s0 s5 := by
    unfold s5
    exact State.wr_only (Part.sub hL (by decide)) (by assumption)
  clear_value s5
  have hs6 : Only L s0 s6 := by
    unfold s6
    refine Only.ite ?_ ?_
    · assumption
    · exact State.raise_only (Part.sub hL (by decide)) (by assumption)
  clear_value s6
  have hs7 : Only L s0 s7 := by
    unfold s7
    refine State.wr_only (Part.sub hL (by decide)) ?_
    exact State.wr_only (Part.sub hL (by decide)) (by assumption)
  clear_value s7
  have hs8 : Only L s0 s8 := by
    unfold s8
    refine Only.foldl _ ?_ (fun s _ h => ?_)
    · assumption
    · exact State.wri_only (Part.sub hL (by decide)) (by assumption)
  clear_value s8
  have hs10 : Only L s0 s10 := by
    unfold s10
    exact State.setBoot_only (Part.sub hL (by decide)) (by assumption)
  clear_value s10
  exact State.wr_only (Part.sub hL (by decide)) (by assumption)

theorem State.slotFails_only {L : List Part} {s0 s : State} {x2 x3 x4}
    (hL : [.out, .host, .life, .boot, .trc, .regs 0, .regs 4, .regs 48, .regs 49] ⊆ L) (h : Only L s0 s) :
    Only L s0 (State.slotFails s x2 x3 x4) := by
  unfold State.slotFails
  extract_lets n1 s2 s3
  have hs2 : Only L s0 s2 := by
    unfold s2
    exact State.writeImgRec_only (Part.sub hL (by decide)) (by assumption)
  clear_value s2
  have hs3 : Only L s0 s3 := by
    unfold s3
    exact State.wr_only (by split <;> exact Part.sub hL (by decide)) (by assumption)
  clear_value s3
  exact State.raise_only (Part.sub hL (by decide)) (by assumption)

theorem State.startFails_only {L : List Part} {s0 s : State} {x2}
    (hL : [.out, .host, .life, .trc, .regs 0, .regs 4, .regs 48, .regs 49] ⊆ L) (h : Only L s0 s) :
    Only L s0 (State.startFails s x2) := by
  unfold State.startFails
  extract_lets s1 s2
  have hs1 : Only L s0 s1 := by
    unfold s1
    refine State.wr_only (Part.sub hL (by decide)) ?_
    exact State.wr_only (Part.sub hL (by decide)) (by assumption)
  clear_value s1
  have hs2 : Only L s0 s2 := by
    unfold s2
    refine State.wr_only (Part.sub hL (by decide)) ?_
    exact State.wr_only (Part.sub hL (by decide)) (by assumption)
  clear_value s2
  exact State.raise_only (Part.sub hL (by decide)) (by assumption)

theorem State.trySlots_only {L : List Part} {s0 s : State} {x2 x3}
    (hL : [.out, .host, .life, .boot, .trc, .regs 0, .regs 4, .regs 48, .regs 49] ⊆ L) (h : Only L s0 s) :
    Only.Pair L s0 (State.trySlots s x2 x3) := by
  induction x3 generalizing s x2 with
  | nil =>
    rw [State.trySlots]
    refine Only.pair ?_
    assumption
  | cons y l ih =>
    rw [State.trySlots]
    extract_lets n1
    refine Only.itePair ?_ ?_
    · exact ih (by assumption)
    · refine Only.itePair ?_ ?_
      · refine ih ?_
        exact State.slotFails_only (Part.sub hL (by decide)) (by assumption)
      · refine Only.pair ?_
        exact State.writeImgRec_only (Part.sub hL (by decide)) (by assumption)

theorem State.startFrom_only {L : List Part} {s0 s : State} {x2 x3 x4 x5 x6 x7}
    (hL : [.out, .host, .sq, .obj, .life, .boot, .mot, .disk, .medium, .wra, .ctl, .trc, .grp, .pwr, .mem,
      .regs 0, .regs 1, .regs 2, .regs 3, .regs 4, .regs 8, .regs 10, .regs 12, .regs 16, .regs 20, .regs 24,
      .regs 28, .regs 32, .regs 33, .regs 36, .regs 40, .regs 44, .regs 48, .regs 49] ⊆ L) (h : Only L s0 s) :
    Only L s0 (State.startFrom s x2 x3 x4 x5 x6 x7) := by
  unfold State.startFrom
  extract_lets s1 n2 s3
  have hs1 : Only L s0 s1 := by
    unfold s1
    refine State.dropPending_only (Part.sub hL (by decide)) ?_
    refine State.wr_only (Part.sub hL (by decide)) ?_
    exact State.mramStep_only (Part.sub hL (by decide)) (by assumption)
  clear_value s1
  have hs3 : Only L s0 s3 := by
    unfold s3
    exact State.linkConfig_only (Part.sub hL (by decide)) (by assumption)
  clear_value s3
  refine Only.ite ?_ ?_
  · refine State.startFails_only (Part.sub hL (by decide)) ?_
    exact State.initSram_only (Part.sub hL (by decide)) (by assumption)
  · split
    · refine State.startFails_only (Part.sub hL (by decide)) ?_
      refine Only.of_eq ?_ (by assumption)
      refine State.trySlots_only (Part.sub hL (by decide)) ?_
      exact State.initMemories_only (Part.sub hL (by decide)) (by assumption)
    · extract_lets s4 s5
      have hs4 : Only L s0 s4 := by
        unfold s4
        refine State.releaseCpu_only (Part.sub hL (by decide)) ?_
        refine Only.of_eq ?_ (by assumption)
        refine State.trySlots_only (Part.sub hL (by decide)) ?_
        exact State.initMemories_only (Part.sub hL (by decide)) (by assumption)
      clear_value s4
      have hs5 : Only L s0 s5 := by
        unfold s5
        exact State.selfTestResult_only (Part.sub hL (by decide)) (by assumption)
      clear_value s5
      refine Only.ite ?_ ?_
      · exact State.startFails_only (Part.sub hL (by decide)) (by assumption)
      · refine Only.ite ?_ ?_
        · assumption
        · refine State.lockPoint_only (Part.sub hL (by decide)) ?_
          refine State.markerStep_only (Part.sub hL (by decide)) ?_
          refine State.loadRecord_only (Part.sub hL (by decide)) ?_
          exact State.loadImage_only (Part.sub hL (by decide)) (by assumption)

theorem execStartUp_only {L : List Part} {s0 s : State} {x1 x2 x3 x4 x5 x6 x7}
    (hL : [.out, .host, .sq, .obj, .life, .boot, .mot, .disk, .medium, .wra, .ctl, .trc, .grp, .pwr, .mem,
      .regs 0, .regs 1, .regs 2, .regs 3, .regs 4, .regs 8, .regs 10, .regs 12, .regs 16, .regs 20, .regs 24,
      .regs 28, .regs 32, .regs 33, .regs 36, .regs 40, .regs 44, .regs 48, .regs 49] ⊆ L) (h : Only L s0 s) :
    Only.Out L s0 (execStartUp x1 x2 x3 x4 x5 x6 x7 s) := by
  unfold execStartUp
  extract_lets n1 n2 n3 s4 s5
  have hs4 : Only L s0 s4 := by
    unfold s4
    refine State.emit_only (Part.sub hL (by decide)) ?_
    exact State.setBoot_only (Part.sub hL (by decide)) (by assumption)
  clear_value s4
  have hs5 : Only L s0 s5 := by
    unfold s5
    refine Only.ite ?_ ?_
    · exact State.readOtp_only (Part.sub hL (by decide)) (by assumption)
    · assumption
  clear_value s5
  refine Only.iteOut ?_ ?_
  · refine Only.next ?_
    assumption
  · refine Only.iteOut ?_ ?_
    · refine Only.next ?_
      refine State.startFails_only (Part.sub hL (by decide)) ?_
      exact State.linkConfig_only (Part.sub hL (by decide)) (by assumption)
    · refine Only.iteOut ?_ ?_
      · refine Only.next ?_
        refine State.startFails_only (Part.sub hL (by decide)) ?_
        exact State.linkConfig_only (Part.sub hL (by decide)) (by assumption)
      · refine Only.next ?_
        refine State.startFrom_only (Part.sub hL (by decide)) ?_
        exact State.pllsLocked_only (Part.sub hL (by decide)) (by assumption)

end Sys2Proof.Machine
end

