-- ==== Sys2Proof/Laws/OnlyTick.lean ====
section
/-!
SUPPORT. The parts of the state that an operation of Machine/Tick.lean may change (Laws/Only.lean).
-/

set_option Elab.async false

namespace Sys2Proof.Machine

theorem State.goOnActivation_only {L : List Part} {s0 s : State}
    (hL : [.out, .host, .sq, .obj, .life, .boot, .tape, .disk, .trc, .grp, .red, .regs 0, .regs 4, .regs 8,
      .regs 48, .regs 49] ⊆ L) (h : Only L s0 s) :
    Only L s0 (State.goOnActivation s) := by
  unfold State.goOnActivation
  split
  · exact State.activateStep_only (Part.sub hL (by decide)) (by assumption)
  · assumption

theorem State.passHalved_only {L : List Part} {s0 s : State}
    (hL : [.pwr, .regs 1] ⊆ L) (h : Only L s0 s) :
    Only L s0 (State.passHalved s) := by
  unfold State.passHalved
  extract_lets s1 n2
  have hs1 : Only L s0 s1 := by
    unfold s1
    refine Only.ite ?_ ?_
    · exact State.addHalved_only (Part.sub hL (by decide)) (by assumption)
    · assumption
  clear_value s1
  exact State.setPwr_only (Part.sub hL (by decide)) (by assumption)

theorem State.passTime_only {L : List Part} {s0 s : State}
    (hL : [.out, .host, .life, .boot, .mot, .trc, .grp, .pwr, .regs 0, .regs 4, .regs 49] ⊆ L) (h : Only L s0 s) :
    Only L s0 (State.passTime s) := by
  unfold State.passTime
  have h1 := State.add64_only (x2 := F.GLB_UPTIME_LO_MS) (x3 := F.GLB_UPTIME_HI_MS) (x4 := 1) (Part.sub hL (by decide)) h
  refine State.setGrp_only (Part.sub hL (by decide)) (State.setMot_only (Part.sub hL (by decide)) (State.setPwr_only
    (Part.sub hL (by decide)) (State.setBoot_only (Part.sub hL (by decide)) ?_)))
  exact Only.ite (State.lifeStep_only (Part.sub hL (by decide)) (Only.updLife (Part.sub hL (by decide)) h1))
    (Only.updLife (Part.sub hL (by decide)) h1)

theorem State.rampTension_only {L : List Part} {s0 s : State}
    (hL : [.mot] ⊆ L) (h : Only L s0 s) :
    Only L s0 (State.rampTension s) := by
  unfold State.rampTension
  extract_lets n1 n2 n3 n4
  refine Only.ite ?_ ?_
  · assumption
  · exact State.setMot_only (Part.sub hL (by decide)) (by assumption)

theorem State.releaseOld_only {L : List Part} {s0 s : State}
    (hL : [.out, .obj, .disk, .grp, .red] ⊆ L) (h : Only L s0 s) :
    Only L s0 (State.releaseOld s) := by
  unfold State.releaseOld
  split
  · assumption
  · extract_lets n1 s2 n3 s4
    have hs2 : Only L s0 s2 := by
      unfold s2
      exact State.setRed_only (Part.sub hL (by decide)) (by assumption)
    clear_value s2
    have hs4 : Only L s0 s4 := by
      unfold s4
      split
      · refine Only.foldl _ ?_ (fun s _ h => ?_)
        · assumption
        · exact State.sendSeq_only (Part.sub hL (by decide)) (by assumption)
      · assumption
    clear_value s4
    refine Only.ite ?_ ?_
    · assumption
    · refine Only.ite ?_ ?_
      · assumption
      · exact State.dropStrips_only (Part.sub hL (by decide)) (by assumption)

theorem State.resumeTape_only {L : List Part} {s0 s : State}
    (hL : [.mot, .ctl, .pwr, .regs 32] ⊆ L) (h : Only L s0 s) :
    Only L s0 (State.resumeTape s) := by
  unfold State.resumeTape
  extract_lets s1
  have hs1 : Only L s0 s1 := by
    unfold s1
    refine Only.ite ?_ ?_
    · refine State.ask_only (Part.sub hL (by decide)) ?_
      exact State.endReading_only (Part.sub hL (by decide)) (by assumption)
    · assumption
  clear_value s1
  refine Only.ite ?_ ?_
  · exact State.reacqReverse_only (Part.sub hL (by decide)) (by assumption)
  · assumption

theorem State.tick_only {L : List Part} {s0 s : State}
    (hL : [.out, .free, .host, .sq, .obj, .life, .boot, .tape, .mot, .disk, .medium, .wra, .ctl, .trc, .grp,
      .red, .pwr, .regs 0, .regs 1, .regs 2, .regs 3, .regs 4, .regs 8, .regs 10, .regs 12, .regs 16, .regs 20,
      .regs 24, .regs 28, .regs 32, .regs 33, .regs 36, .regs 40, .regs 44, .regs 48, .regs 49] ⊆ L) (h : Only L s0 s) :
    Only L s0 (State.tick s) := by
  unfold State.tick
  extract_lets s1 s2 s3 s4
  have hs1 : Only L s0 s1 := by
    unfold s1
    refine State.rampTension_only (Part.sub hL (by decide)) ?_
    refine State.passHalved_only (Part.sub hL (by decide)) ?_
    exact State.passTime_only (Part.sub hL (by decide)) (by assumption)
  clear_value s1
  have hs2 : Only L s0 s2 := by
    unfold s2
    refine State.resumeTape_only (Part.sub hL (by decide)) ?_
    refine State.sweepGone_only (Part.sub hL (by decide)) ?_
    exact State.tansyStep_only (Part.sub hL (by decide)) (by assumption)
  clear_value s2
  have hs3 : Only L s0 s3 := by
    unfold s3
    refine State.restartMedium_only (Part.sub hL (by decide)) ?_
    refine Only.ite ?_ ?_
    · exact State.stopStep_only (Part.sub hL (by decide)) (by assumption)
    · assumption
  clear_value s3
  have hs4 : Only L s0 s4 := by
    unfold s4
    refine Only.ite ?_ ?_
    · refine State.releaseOld_only (Part.sub hL (by decide)) ?_
      refine State.peersStep_only (Part.sub hL (by decide)) ?_
      exact State.ageSlow_only (Part.sub hL (by decide)) (by assumption)
    · assumption
  clear_value s4
  exact State.goOnActivation_only (Part.sub hL (by decide)) (by assumption)

end Sys2Proof.Machine
end

