-- ==== Sys2Proof/WellFormed.lean ====
section
/-!
DEFINITION. Well-formed commands: operand lists whose lengths the interface can carry.
-/

namespace Sys2Proof

/-- The operands of a command can occur on its interface. -/
def Instr.wf : Instr → Bool
  | .slotWordWrite _ _ bytes => bytes.length ≤ 512
  | .goWrite _ _ bytes => bytes.length ≤ 512
  | _ => true

end Sys2Proof
end

