-- ==== Sys2Proof/Tests/Slice0.lean ====
section
/-!
SUPPORT. Tests: what the well-formedness check refuses, and for every statement states and operands that meet the
conditions of its clauses, so that none of them holds for want of a case.
-/

set_option Elab.async false
set_option exponentiation.threshold 600

namespace Sys2Proof.Tests

open Sys2Proof.Machine

/-! ## Small states -/

/-- The state after reset with the BARs set up and READY once set. -/
def up : State := { State.reset with host := { HostSt.init with cfgDone := true, readyOnce := true } }

/-- `up` in T-mode and in D-mode. -/
def upT : State := up.wr F.GLB_CONFIG_MODE 1
def upD : State := up.wr F.GLB_CONFIG_MODE 2

/-- A frame of zeros but for its opcode. -/
def fr (op : Nat) : Frame := { Frame.ofBits 0 with opcode := op }

/-- A command of ring 0 in a stage. -/
def cmd (uid : Nat) (src : Src) (stage : Stage) (f : Frame) : Cmd :=
  { uid := uid, src := src, port := false, ring := 0, cls := .normal, frame := f, stage := stage, admitNo := uid, bufs := []
    asked := 0, data := [], fifo := 0, tags := [], pack := none, taken := 0, encoded := false, units := [], nonce := 0
    copies := [], waits := 0, waitFor := [], res := 0, aux := 0, prog := 0, crc := 0, missing := none, check := none
    fromMedium := false }

/-- The state with one more command. -/
def holding (c : Cmd) (s : State) : State :=
  { s with sq := { s.sq with cmds := s.sq.cmds ++ [c], nextUid := c.uid + 1 } }

/-- The source of stream 0. -/
def s0 : Src := .slot 0#20

/-- A unit, an object and a group record to put into states. -/
def unit0 : UnitRec :=
  { utype := 1, flags := 0, stream := 0, seq := 1, gen := 1, index := 0, key := 5, recOffset := 0, recLength := 4096
    nonce := 0, user := [], tag := 0, place := .none, lost := false, poison := false }
def obj0 (st len : Nat) : Obj :=
  { state := st, length := len, kslot := 255, keyId := 0, nocomp := true, nonce := 0, crc := 0, crcRun := 0, stream := 0
    gen := 1, seq := 1, units := [], restarts := [], lost := [] }

/-- The room premise, decided. -/
theorem room {c : Cmd} {s : State} (h : (c.src.host && !s.ringFull c.ring && decide (s.heldCount c.ring = 0)) = true) :
    RoomFor c s := by
  simp only [Bool.and_eq_true, Bool.not_eq_true', decide_eq_true_eq] at h
  exact ⟨h.1.1, h.1.2, h.2⟩

/-! ## Well-formedness -/

/-- BAR2 writes of more bytes than a TLP carries are refused, those of as many as it carries are not. -/
theorem test_wf_refuses_long_write : (Instr.slotWordWrite false 0#26 (List.replicate 513 0#8)).wf = false := by decide +kernel
theorem test_wf_refuses_long_go : (Instr.goWrite false 0#26 (List.replicate 513 0#8)).wf = false := by decide +kernel
theorem test_wf_takes_512 : (Instr.slotWordWrite false 0#26 (List.replicate 512 0#8)).wf = true ∧
    (Instr.goWrite false 0#26 (List.replicate 512 0#8)).wf = true := by decide +kernel

/-! ## Witnesses: the block, resets, registers -/

/-- A waiting command and an empty queue; the invariants hold after reset. -/
theorem witness_FrontCommandRuns : ({ up with pending := [.powerOnReset] } : State).pending = [.powerOnReset] := by decide
theorem witness_EmptyQueuePassesTime : up.pending = [] := by decide
theorem witness_FusesOnlyBlown : State.reset.pending.head? ≠ some (.jtagTapOperation .trst) := by decide

/-- Warm reset by its key through a port whose BARs are up, and a watchdog whose period has passed. -/
theorem witness_Resets : up.barsUp false = true ∧ (0xC3A50001#32).toNat % 2 = 1 ∧ (0xC3A50001#32).toNat / 2 ^ 16 = 0xC3A5 ∧
    (0x00010000#32).toNat % 2 = 0 ∧
    ∀ s ∈ [({ up with boot := { up.boot with wdtArmed := true, wdtMs := 100000 } } : State)],
      s.boot.wdtArmed = true ∧ s.rd F.BOOT_WDT_CFG_PERIOD_MS ≤ s.boot.wdtMs := by decide

/-- A data link down of the single-port configuration; several causes and one. -/
theorem witness_ResetCauseRecorded : up.host.perst = false ∧ up.dual = false ∧ up.boot.causes = [] ∧
    ∃ m ∈ ({ up with boot := { up.boot with causes := [8] } } : State).boot.causes, m ≠ 5 := by decide

/-- The kick by its key, another key, and a watchdog at rest. -/
theorem witness_WatchdogAndPerst : (0x5A17#32).toNat % 2 ^ 16 = 0x5A17 ∧ (0#32).toNat % 2 ^ 16 ≠ 0x5A17 ∧
    up.boot.wdtArmed = false := by decide

/-- A port that is up and a misaligned offset. -/
theorem witness_BadAccesses : up.barsUp false = true ∧ (2#26).toNat % 4 ≠ 0 := by decide

/-- Reads: a latched pair, a misaligned offset, a plain register, and both states of the event FIFO. -/
theorem witness_RegisterReads : up.reqUp .portA = true ∧ up.absent (BitVec.ofNat 26 F.GLB_UPTIME_LO_MS.off).toNat = false ∧
    (BitVec.ofNat 26 F.GLB_UPTIME_LO_MS.off).toNat ∈ latchedPairs ∧ up.absent 2 = false ∧ (2#26).toNat % 4 ≠ 0 ∧
    F.HIF_EVT_LOST_COUNT.off % 4 = 0 ∧ up.absent F.HIF_EVT_LOST_COUNT.off = false ∧
    F.HIF_EVT_LOST_COUNT.off ∉ [F.HIF_EVT_DATA0_WORD0.off, F.TRC_RD_DATA_VALUE.off, F.TRC_RD_TIME_TIME.off] ∧
    F.HIF_EVT_LOST_COUNT.off ∉ latchedPairs ∧ (∀ o ∈ latchedPairs, o + 4 ≠ F.HIF_EVT_LOST_COUNT.off) ∧
    up.host.evtFifo = [] ∧ (up.raise 7 0 0x206 0).host.evtFifo ≠ [] ∧
    (up.wr F.HIF_LINK_CFG_PORTS 3).dual = true ∧ true ≠ (up.wr F.HIF_LINK_CFG_PORTS 3).evtPort ∧
    (up.wr F.HIF_LINK_CFG_PORTS 3).barsUp true = true := by decide

/-- Writes: an absent register, a plain one with a value in range, a locked one, and a block that ignores a write whole. -/
theorem witness_RegisterWrites : up.barsUp false = true ∧ up.absent F.LANE_RETRY_CFG_TREAD.off = false ∧
    plainOffset F.LANE_RETRY_CFG_TREAD.off = true ∧ F.LANE_RETRY_CFG_TREAD.off % 4 = 0 ∧
    ignoresWhole F.LANE_RETRY_CFG_TREAD.off = true ∧ upT.barsUp false = true ∧ upT.absent 0x102000 = true ∧
    up.absent F.BOOT_HEALTH_THR_LO_COUNT.off = false ∧ plainOffset F.BOOT_HEALTH_THR_LO_COUNT.off = true ∧
    (∀ p ∈ fieldsAt F.BOOT_HEALTH_THR_LO_COUNT.off, up.hostSets p.1 = true →
      p.1.accepts p.2.1 (bits 5 p.1.lo p.1.w) = true) ∧
    (∃ p ∈ fieldsAt F.LANE_RETRY_CFG_TREAD.off, p.1.acc = .rwl ∧ up.host.readyOnce = true ∧
      bits 0 p.1.lo p.1.w ≠ up.fget p.1 p.2.1 p.2.2) ∧
    (∃ p ∈ fieldsAt F.LANE_RETRY_CFG_TREAD.off, State.reset.hostSets p.1 = true ∧
      p.1.accepts p.2.1 (bits 0 p.1.lo p.1.w) = false) := by decide

/-- A port in PERST_N, one of a single-port device, and a dual-port device. -/
theorem witness_LinkEvents : ({ up with host := { up.host with perst := true } } : State).host.perst = true ∧
    up.host.perst = false ∧ (up.wr F.HIF_LINK_CFG_PORTS 3).dual = true := by decide

/-- Before and after the link configuration; the vectors 0 and 64 at their first and last word. -/
theorem witness_ConfigurationAndVectors : State.reset.host.perst = false ∧ State.reset.host.cfgDone = false ∧
    up.host.perst = false ∧ up.host.cfgDone = true ∧ up.barsUp false = true ∧ (64 ≤ 64 ∧ 3 < 4) ∧
    ∀ j < 65, (up.vector false j).pend = false := by decide

theorem witness_ConfigurationAndVectors_others : ∀ j, j ≠ 64 → (up.vector false j).pend = false ∨
    (up.vector false j).masked = true := fun _ _ => .inl rfl

/-! ## Witnesses: queues, slots, tags, data -/

/-- Watermarks on both sides of their order, weights in and out of range, queues idle and busy, rings closed and open. -/
theorem witness_ConfigurationOfQueues : up.barsUp false = true ∧ (0x00010002#32).toNat / 2 ^ 16 < (0x00010002#32).toNat % 2 ^ 16 ∧
    (0x00020002#32).toNat % 2 ^ 16 ≤ (0x00020002#32).toNat / 2 ^ 16 ∧
    (0x010101#32).toNat % 2 ^ 8 ≠ 0 ∧ (0x010101#32).toNat / 2 ^ 8 % 2 ^ 8 ≠ 0 ∧ (0x010101#32).toNat / 2 ^ 16 % 2 ^ 8 ≠ 0 ∧
    50 < (51#32).toNat % 2 ^ 8 ∧ up.rdi F.SQ_TQ_BUSY_TAGS (0#6).toNat = 0 ∧
    (up.wri F.SQ_TQ_BUSY_TAGS 63 1).rdi F.SQ_TQ_BUSY_TAGS (63#6).toNat ≠ 0 ∧
    (0x800#32).toNat / 2 ^ 11 ≠ up.rdi F.SQ_TQ_BASE_LO_ADDR_LO 63 ∧
    (1#32).toNat % 2 = 1 ∧ up.ringOpen (bits (1#32).toNat 16 1 != 0) (bits (1#32).toNat 8 6) = false ∧
    up.rdi F.SQ_CR_CFG_EN (63#6).toNat = 0 ∧ (0x41#32).toNat % 2 = 1 ∧ 4 ≤ bits (0x41#32).toNat 4 5 ∧
    bits (0x101#32).toNat 4 5 ≤ 16 ∧ (up.wri F.SQ_CR_CFG_EN 0 1).rdi F.SQ_CR_CFG_EN (0#6).toNat ≠ 0 ∧
    bits (0x101#32).toNat 4 5 ≠ up.rdi F.SQ_CR_CFG_SIZE_LOG2 0 := by decide

/-- `up` with ring 0 open. -/
def open0 : State := up.wri F.SQ_CR_CFG_EN 0 1

/-- The GO word of a STAT of stream 0 on ring 0. -/
def statGo : List Byte := [0#8, 0#8, 0#8, 0#8, 0#8, 0#8, 0#8, 0#8]

/-- A slot whose loaded words hold the opcode STAT. -/
def loadedSlot : Slot := { state := .loading, buf := 0x11 * 2 ^ 224, byActivation := false }
def loaded0 : State := { open0 with sq := { open0.sq with slots := [(0, loadedSlot)] } }

/-- Early writes, a busy slot, the last word below word 7, and GO writes with the ring closed and open. -/
theorem witness_TaskSlotWrites : up.barsUp false = true ∧
    ({ up with host := { up.host with readyOnce := false } } : State).host.readyOnce = false ∧ statGo ≠ [] ∧
    up.host.readyOnce = true ∧ statGo.length ∈ [4, 8, 16, 32, 64] ∧ (48#26).toNat % statGo.length = 0 ∧
    (48#26).toNat % 64 + statGo.length ≤ 56 ∧ (up.slot ((48#26).toNat / 64)).state = .idle ∧ (56#26).toNat % 64 = 56 ∧
    (loaded0.slot ((56#26).toNat / 64)).state = .loading ∧ up.ringOpen false 0 = false ∧ loaded0.ringOpen false 0 = true ∧
    ({ up with sq := { up.sq with slots := [(0, { loadedSlot with state := .outstanding })] } } : State).slot 0 =
      { loadedSlot with state := .outstanding } ∧
    (loaded0.wr F.HIF_STATUS_READY 1).rd F.HIF_STATUS_READY = 1 ∧ loaded0.sq.cmds = [] ∧
    slotOpcode (Frame.ofBits ((loaded0.slot 0).buf + ofLe statGo * 2 ^ 448)).opcode = true ∧
    (Frame.ofBits ((loaded0.slot 0).buf + ofLe statGo * 2 ^ 448)).stream = 0 := by decide

/-- A disabled and an enabled queue, a free and a busy tag, and a tag being fetched with opcodes it takes and refuses. -/
theorem witness_TaggedQueueSubmission : up.barsUp false = true ∧ up.host.readyOnce = true ∧
    up.rdi F.SQ_TQ_CFG_EN (0#6).toNat = 0 ∧ (up.wri F.SQ_TQ_CFG_EN 63 1).rdi F.SQ_TQ_CFG_EN (63#6).toNat ≠ 0 ∧
    up.dual = false ∧ bitAt (0x80000000#32).toNat 31 = true ∧ bitAt (up.rdi F.SQ_TQ_BUSY_TAGS 63) 31 = false ∧
    (0x80000000#32).toNat = 2 ^ 31 ∧ up.sq.cmds = [] ∧ 2 ≤ up.ingestFree ∧
    bitAt ((up.wri F.SQ_TQ_BUSY_TAGS 63 (2 ^ 31)).rdi F.SQ_TQ_BUSY_TAGS 63) 31 = true ∧
    (∀ c ∈ [{ cmd 0 (.tag 0#6 0#5) .fetching (fr 0) with asked := 64 }],
      (holding c up).cmdOf (.tag 0#6 0#5) = some c ∧ c.stage = .fetching ∧ c.asked ≠ 0) ∧
    tagOpcode (Frame.ofBits (BitVec.ofNat 512 (0x11 * 2 ^ 224)).toNat).opcode = true ∧
    tagOpcode (Frame.ofBits (0#512).toNat).opcode = false ∧
    (up.wr F.HIF_STATUS_READY 1).rd F.HIF_STATUS_READY = 1 := by decide

theorem witness_TaggedQueueSubmission_room : up.sq.uidsOk ∧
    RoomFor { cmd 0 (.tag 0#6 0#5) .fetching (fr 0) with asked := 64 }
      (holding { cmd 0 (.tag 0#6 0#5) .fetching (fr 0) with asked := 64 } up) :=
  ⟨by unfold SqSt.uidsOk; decide, room (by decide)⟩

/-- A started OPEN of 8 B that pulls its data, and one that waits for its descriptor list of one entry. -/
def openCmd0 : Cmd := { cmd 0 s0 .started { fr 1 with length := 8 } with asked := 8, bufs := [(0, 8)] }
def listCmd0 : Cmd := { cmd 0 s0 .listWait { fr 1 with length := 8, dcount := 1 } with asked := 16 }

/-- Descriptors of 8 B, of 1 B and of no byte. -/
def desc8 : BitVec 128 := BitVec.ofNat 128 (8 * 2 ^ 64)
def desc1 : BitVec 128 := BitVec.ofNat 128 (2 ^ 64)

/-- Lists that sum to LENGTH, that do not, and with a length 0; data of a started command; a read that fails. -/
theorem witness_HostDataOfCommands : (holding listCmd0 up).cmdOf s0 = some listCmd0 ∧ listCmd0.stage = .listWait ∧
    listCmd0.asked ≠ 0 ∧ listCmd0.frame.dcount = 1 ∧ listCmd0.frame.inline = [] ∧ listCmd0.frame.length = 8 ∧
    bits desc8.toNat 96 32 = 0 ∧ bits desc1.toNat 96 32 = 0 ∧ bits desc8.toNat 64 32 = 8 ∧
    bits desc1.toNat 64 32 = 1 ∧ bits (0#128).toNat 64 32 = 0 := by decide
theorem witness_HostDataOfCommands_data : (holding openCmd0 up).cmdOf s0 = some openCmd0 ∧ openCmd0.stage = .started ∧
    openCmd0.pullsData = true ∧ openCmd0.viaIngest = true ∧ openCmd0.reading .data = true := by decide

theorem witness_HostDataOfCommands_room : RoomFor listCmd0 (holding listCmd0 up) ∧ RoomFor openCmd0 (holding openCmd0 up) :=
  ⟨room (by decide), room (by decide)⟩

/-- Head values at both ends of the ring, a timer with entries, credit with and without an urgent command, a medium. -/
theorem witness_RingsArbiterAndWindows : up.barsUp false = true ∧ open0.ringOpen false (0#6).toNat = true ∧
    headOk (open0.ringSize 0) (open0.rdi F.SQ_CR_STATE_HEAD 0) (open0.rdi F.SQ_CR_STATE_TAIL 0) 0 = true ∧
    open0.heldCount 0 = 0 ∧ open0.sq.cmds = [] ∧ open0.ringSize 0 ≤ (65535#32).toNat ∧
    (up.wri F.SQ_CR_COAL_TIME 0 1).rdi F.SQ_CR_COAL_TIME 0 ≠ 0 ∧
    Store.get 0 ({ up with sq := { up.sq with coal := [(0, 1)] } } : State).sq.coal 0 ≠ 0 ∧
    (up.wr F.PWR_STATUS_BRACE 1).rd F.PWR_STATUS_BRACE ≠ 0 ∧ up.rd F.PWR_STATUS_BRACE = 0 ∧
    Nat.min (up.rd F.SQ_ARB_URGENT_CREDIT + up.rd F.SQ_ARB_URGENT_CAP) (up.rd F.SQ_ARB_URGENT_BURST * 100) < 2 ^ 13 ∧
    (∀ c ∈ up.sq.cmds, up.eligible c = false) ∧
    ({ up with medium := { up.medium with state := mReady } } : State).medium.state = mReady ∧ up.tMode = false ∧
    upT.tMode = true ∧ upT.tape.protect = false := by decide

/-! ## Witnesses: object commands -/

/-- Key material of zeros. -/
def zeroKey : List Byte := List.replicate 64 0#8

/-- `up` with its medium READY, and with key slot 255 loaded. -/
def ready : State := { up with medium := { up.medium with state := mReady } }
def keyed : State := { ready with obj := { ready.obj with keys := [(255, { loaded := true, keyId := 0, material := zeroKey })] } }
def keyedT : State := { upT with medium := keyed.medium, obj := keyed.obj }
def keyedD : State := { upD with medium := keyed.medium, obj := keyed.obj }

/-- `keyedT` with stream 0 BOUND to the object of key 5, in a state and of a length. -/
def bound (st len : Nat) : State :=
  { keyedT with obj := { keyedT.obj with
      objs := [(5, obj0 st len)], bound := [(0, 5)]
      seqTab := [(0, { lastSeq := 1, gen := 1, state := 1, unknown := false })] } }

/-- An admitted command of task slot 0. -/
def adm (f : Frame) : Cmd := cmd 0 s0 .admitted f

/-- The frame of an OPEN with KSLOT 255 and no compression, and of an APPEND. -/
def openF (len seq : Nat) : Frame := { fr 1 with offset := 255, length := len, seq := seq, key := 5 }
def appendF (ofs key : Nat) : Frame := { fr 2 with offset := ofs, key := key, length := 8, seq := 2 }

/-- Replay, gap and next; OPEN with and without data. -/
theorem witness_StreamCommandsBegin_open : ∀ len ∈ [0, 8],
    (∀ seq ∈ [0, 1, 2], (holding (adm (openF len seq)) keyedT).cmdOf s0 = some (adm (openF len seq))) ∧
    (keyedT.entry 0).lastSeq < 2 ^ 32 ∧ (keyedT.entry 0).unknown = false ∧
    (openF len 0).seq = (keyedT.entry 0).lastSeq ∧ (openF len 2).seq = ((keyedT.entry 0).lastSeq + 2) % 2 ^ 32 ∧
    (openF len 1).seq = ((keyedT.entry 0).lastSeq + 1) % 2 ^ 32 ∧
    (holding (adm (openF len 1)) keyedT).barred (adm (openF len 1)) = false ∧ (keyedT.entry 0).state ≠ 1 ∧
    keyedT.inGroup = false ∧ keyedT.obj.deleting = [] ∧ keyedT.obj.objs = [] ∧
    ((holding (adm (openF len 1)) keyedT).keyBlocked (adm (openF len 1)) (bits (openF len 1).offset 0 8) none).isNone = true ∧
    ((holding (adm (openF len 1)) keyedT).writeBlocked (adm (openF len 1)) false).isNone = true := by decide +kernel

theorem witness_StreamCommandsBegin_room : ∀ seq ∈ [0, 1, 2], RoomFor (adm (openF 8 seq)) (holding (adm (openF 8 seq)) keyedT) := by
  intro seq h
  refine room ?_
  revert seq
  decide +kernel

/-- APPEND at the object's length, at another offset and of another key; SEAL with and without a CRC that fails. -/
theorem witness_StreamCommandsBegin_bound : ∀ s ∈ [bound 1 8], ((s.entry 0).lastSeq + 1) % 2 ^ 32 = 2 ∧ (s.entry 0).state = 1 ∧
    s.boundObj 0 = some (5, obj0 1 8) ∧
    (∀ f ∈ [appendF 8 5, appendF 0 5, appendF 8 6, { fr 3 with seq := 2 }, { fr 3 with seq := 2, flags := 1, offset := 1 }],
      (holding (adm f) s).cmdOf s0 = some (adm f) ∧ (holding (adm f) s).barred (adm f) = false ∧
      f.seq = ((s.entry 0).lastSeq + 1) % 2 ^ 32 ∧
      ((holding (adm f) s).keyBlocked (adm f) 255 (some 0)).isNone = true ∧
      ((holding (adm f) s).writeBlocked (adm f) false).isNone = true ∧
      ((holding (adm f) s).writeBlocked (adm f) true).isNone = true) ∧
    (appendF 8 5).offset = (obj0 1 8).length ∧ (obj0 1 8).length + (appendF 8 5).length < 2 ^ 52 ∧
    (appendF 0 5).offset ≠ (obj0 1 8).length ∧ (appendF 8 6).key ≠ 5 ∧ bitAt 1 0 = true ∧ 1 ≠ (obj0 1 8).crcRun := by
  decide +kernel

/-- DELETE of no object, of an OPEN one and of a SEALED one. -/
theorem witness_StreamCommandsBegin_delete : (∀ st ∈ [1, 2],
    (holding (adm { fr 0x12 with key := 5 }) (bound st 8)).cmdOf s0 = some (adm { fr 0x12 with key := 5 }) ∧
    (bound st 8).inGroup = false ∧ (bound st 8).obj.deleting = [] ∧
    (bound st 8).obj.objs.find? (fun p => p.1 = 5) = some (5, obj0 st 8) ∧
    ((holding (adm { fr 0x12 with key := 5 }) (bound st 8)).writeBlocked (adm { fr 0x12 with key := 5 }) true).isNone = true) ∧
    ∀ p ∈ (bound 1 8).obj.objs, p.1 ≠ 6 := by decide +kernel

/-- A started command all whose data is placed: the object is free, there, sealed or being deleted. -/
def wrote (op : Nat) : Cmd := { cmd 0 s0 .started { openF 8 2 with opcode := op } with encoded := true }
theorem witness_AcceptanceCommits : (holding (wrote 1) keyedT).cmdOf s0 = some (wrote 1) ∧
    (holding (wrote 1) keyedT).inGroup = false ∧ (holding (wrote 1) keyedT).accepted (wrote 1) = true ∧
    keyedT.obj.objs = [] ∧
    (∀ op ∈ [2, 3, 0x12], (holding (wrote op) (bound 1 8)).cmdOf s0 = some (wrote op) ∧ (wrote op).waits ≠ 8 ∧
      (holding (wrote op) (bound 1 8)).accepted (wrote op) = true ∧
      (bound 1 8).obj.objs.find? (fun p => p.1 = (wrote op).frame.key) = some (5, obj0 1 8)) ∧
    ({ bound 1 8 with obj := { (bound 1 8).obj with deleting := [DelRec.mk 5 s0 0] } } : State).obj.deleting.find? (fun d =>
      d.key = (wrote 0x12).frame.key && d.src = (wrote 0x12).src) = some (DelRec.mk 5 s0 0) ∧
    { wrote 1 with encoded := false }.viaIngest = true := by decide +kernel
theorem witness_AcceptanceCommits_room : RoomFor (wrote 2) (holding (wrote 2) (bound 1 8)) ∧
    RoomFor (wrote 3) (holding (wrote 3) (bound 1 8)) := ⟨room (by decide +kernel), room (by decide +kernel)⟩

/-- Frames of a STAT and of a GET of key 5. -/
def statF (flags key : Nat) : Frame := { fr 0x11 with flags := flags, key := key }
def getF (ofs len : Nat) : Frame := { fr 0x10 with offset := ofs, length := len, key := 5 }

/-- STAT of a stream, of an object and of nothing; GET beyond, at and below the length; LIST, HEALTH and LOG_READ. -/
theorem witness_QueriesAnswer : ∀ s ∈ [bound 1 8],
    (∀ f ∈ [statF 1 0, statF 0 5, statF 0 6, getF 9 1, getF 8 1, getF 7 1, fr 0x13, fr 0x35, fr 0x36],
      (holding (adm f) s).cmdOf s0 = some (adm f)) ∧
    s.inGroup = false ∧ s.medium.state = mReady ∧ bitAt 1 0 = true ∧
    s.visible (adm (statF 0 5)) 5 = some (obj0 1 8) ∧ s.visible (adm (statF 0 6)) 6 = none ∧
    (s.keyBlocked (adm (getF 9 1)) 255 (some 0)).isNone = true ∧ s.sq.cmds.countP Cmd.decompresses < 8 ∧
    (obj0 1 8).length < (getF 9 1).offset ∧ (getF 8 1).offset = (obj0 1 8).length ∧
    (getF 7 1).offset < (obj0 1 8).length ∧ (0xFFFFFFFF#32).toNat ≠ 0 ∧ (obj0 1 8).lost = [] := by decide +kernel
theorem witness_QueriesAnswer_room : ∀ f ∈ [statF 1 0, getF 9 1, getF 8 1, getF 7 1, fr 0x13, fr 0x35, fr 0x36],
    RoomFor (adm f) (holding (adm f) (bound 1 8)) := by
  intro f h
  refine room ?_
  revert f
  decide +kernel

/-- A unit whose user field holds, encrypted under a key of zeros, one stored block of the eight bytes 1 to 8. -/
def user8 : List Byte :=
  [47#8, 123#8, 236#8, 103#8, 76#8, 150#8, 158#8, 66#8, 26#8, 19#8, 136#8, 89#8, 109#8, 251#8, 140#8, 33#8] ++
  [166#8, 139#8, 187#8, 115#8, 58#8, 12#8, 33#8, 12#8, 17#8, 33#8, 232#8, 247#8, 246#8, 253#8, 241#8, 78#8]
def o8 : Obj := { obj0 1 8 with units := [0] }
def held8 : State :=
  { bound 1 8 with obj := { (bound 1 8).obj with
      units := [(0, { unit0 with user := user8, tag := 2443969801127571946 })], objs := [(5, o8)] } }

/-- The bytes 7 and 8 of the object can be read. -/
theorem witness_QueriesAnswer_read : held8.readFrom o8 zeroKey (0, 0) 6 8 2 1 = .got [7#8, 8#8] := by decide +kernel
theorem witness_QueriesAnswer_readable : o8.restartFor 6 = (0, 0) ∧ held8.keyFor o8 = some zeroKey ∧
    Nat.min (6 + Nat.min 5 (8 - 6)) (6 + 0xFFFFFFFF) = 8 ∧ o8.units.length + 1 = 2 ∧
    held8.tapeNeed { adm (getF 6 5) with fromMedium := false } o8 6 8 = none ∧
    held8.visible (adm (getF 6 5)) 5 = some o8 := by decide +kernel

/-- A BARRIER with and without an earlier command; a FLUSH beside a loading slot; an ABORT of nothing, of a command past its
commit point and of an admitted one. -/
def later (f : Frame) : Cmd := { cmd 1 (.slot 1#20) .admitted f with admitNo := 1 }
def early (w : Nat) : Cmd := { cmd 0 s0 .started { openF 8 1 with seq := 1 } with waits := w }
theorem witness_CommandControl : (∀ op ∈ [0x20, 0x21, 0x22],
      (holding (later (fr op)) up).cmdOf (.slot 1#20) = some (later (fr op)) ∧
      ((holding (later (fr op)) up).sq.cmds.map Cmd.uid).Nodup ∧ up.tMode = false ∧
      ∀ d ∈ (holding (later (fr op)) up).sq.cmds, (holding (later (fr op)) up).settleable d = false) ∧
    (∀ w ∈ [0, 8], ∀ op ∈ [0x20, 0x22], ∀ s ∈ [holding (later { fr op with seq := 1 }) (holding (early w) up)],
      s.cmdOf (.slot 1#20) = some (later { fr op with seq := 1 }) ∧ (s.sq.cmds.map Cmd.uid).Nodup ∧
      (∀ d ∈ s.sq.cmds, s.settleable d = false) ∧ (early w).stage.isAdmitted = true ∧ (early w).admitNo < 1 ∧
      s.abortTarget { fr 0x22 with seq := 1 } = some (early w) ∧
      s.pastCommit (early 0) = false ∧ s.pastCommit (early 8) = true) ∧
    up.abortTarget (fr 0x22) = none ∧
    (loaded0.slot 0).state = .loading ∧ (later (fr 0x21)).frame.flags = 0 := by decide +kernel
theorem witness_CommandControl_room : (∀ op ∈ [0x20, 0x21, 0x22], RoomFor (later (fr op)) (holding (later (fr op)) up)) ∧
    RoomFor (early 0) (holding (later (fr 0x22)) (holding (early 0) up)) := by
  refine ⟨fun op h => room ?_, room (by decide +kernel)⟩
  revert op
  decide +kernel

/-! ## Witnesses: media, keys, images, flash -/

/-- A media command of a function, with a zone or slot number as OFFSET. -/
def media (fn ofs : Nat) : Cmd := adm { fr 0x30 with flags := fn, offset := ofs }

/-- A state with its medium in another state. -/
def medium (st : Nat) (s : State) : State := { s with medium := { s.medium with state := st } }

/-- `keyedD` with two zones, the first FULL with one unit in it, the second EMPTY. -/
def zonedD : State :=
  { keyedD with disk := { DiskSt.init with
      zones := [(0, { Zone.init with state := zFull, wp := 1, content := [(0, 0)] })], zoneCount := 2, zonesPerSurface := 2 } }

/-- The disk with an object whose unit lies in zone 0. -/
def filledD : State :=
  { zonedD with obj := { zonedD.obj with
      objs := [(5, { obj0 2 8 with units := [0] })], units := [(0, { unit0 with place := .zone 0 0 })] } }

/-- START in READY, UNFORMATTED, EMPTY, STOPPED and FAULTED; STOP in EMPTY, STOPPED and READY; FORMAT of an empty medium and
of one that holds data; ZONE_CLEAN and ZONE_INFO of a FULL zone, of an EMPTY one, and of none; INFO. -/
theorem witness_MediaFunctions : (∀ st ∈ [mReady, mUnformatted, mEmpty, mStopped, mFaulted], ∀ fn ∈ [1, 2, 3, 4, 5, 6],
      ∀ s ∈ [holding (media fn 0) (medium st zonedD)],
      s.cmdOf s0 = some (media fn 0) ∧ (media fn 0).stage = .admitted ∧ (media fn 0).frame.opcode = 0x30 ∧
      (media fn 0).frame.flags = fn ∧ s.inGroup = false ∧ s.medium.state = st ∧ s.medium.func ≠ 2 ∧
      (s.sq.cmds.map Cmd.uid).Nodup ∧ (s.tMode && s.isLead) = false ∧ s.mediumBusy = false ∧ s.dMode = true ∧
      s.mediaCmds 2 = [] ∧ s.mediumHolds = false ∧ s.boot.when2 = []) ∧
    (holding (wrote 1) zonedD).mediumBusy = true ∧ filledD.mediumHolds = true ∧ upT.tape.present = true ∧
    (filledD.zone 0).state = zFull ∧ filledD.liveIn 0 = [0] ∧ (filledD.zone 1).state = zEmpty ∧
    filledD.disk.zoneCount = 2 ∧ ready.medium.state = mReady ∧ ready.medium.writeFailed = false ∧
    (filledD.wr F.FMT_HEAD_FAILED_HEADS 1).rd F.FMT_HEAD_FAILED_HEADS ≠ 0 := by decide +kernel
theorem witness_MediaFunctions_room : ∀ fn ∈ [1, 2, 3, 4, 5, 6], RoomFor (media fn 0) (holding (media fn 0) zonedD) := by
  intro fn h
  refine room ?_
  revert fn
  decide +kernel

/-- Key slot commands on slots that are empty, loaded, and in use by an OPEN object. -/
def key (fn : Nat) : Cmd := adm { fr 0x32 with flags := fn, offset := 255 }
def imgW (ofs : Nat) : Cmd := adm { fr 0x33 with offset := ofs, length := 8 }
def act (fn : Nat) (stage : Stage) : Cmd := cmd 0 s0 stage { fr 0x34 with flags := fn }

theorem witness_KeysAndImages : up.keyState 255 = 0 ∧ keyedT.keyState 255 = 1 ∧ (bound 1 8).keyState 255 = 2 ∧
    up.grp.mrec = none ∧ up.awaiting s0 = false ∧
    (∀ c ∈ [key 1, key 2, imgW 0, imgW 8, act 1 .admitted, act 2 .admitted, act 1 .started, act 2 .started],
      (holding c up).cmdOf s0 = some c ∧ ((holding c up).sq.cmds.map Cmd.uid).Nodup ∧ c.prog = 0 ∧ c.missing = none) ∧
    (holding (imgW 0) up).flashBusy = false ∧ (imgW 0).frame.offset + (imgW 0).frame.length ≤ slotSize ∧
    (imgW 8).frame.offset ≠ up.boot.writePtr ∧ up.boot.activation = 0 ∧
    (holding (act 2 .started) up).othersRun (act 2 .started) = false ∧ up.on F.PWR_STATUS_BRACE = false := by
  decide +kernel
theorem witness_KeysAndImages_room : ∀ c ∈ [key 1, key 2, imgW 0, imgW 8, act 1 .started, act 2 .started],
    RoomFor c (holding c up) := by
  intro c h
  refine room ?_
  revert c
  decide +kernel

/-- An erased slot fails its check; the check runs, and the application waits, in a state each. -/
theorem witness_KeysAndImages_check : ({ up with boot := { up.boot with activation := 1 } } : State).boot.activation = 1 ∧
    ({ up with boot := { up.boot with activation := 2 } } : State).boot.activation = 2 ∧
    (up.checkSlot up.inactive).1 ≠ 0 := by decide +kernel

/-- Recovery mode without an operation; an erase and a program of two bytes under way. -/
theorem witness_FlashAndRecovery : (up.wr F.BOOT_STATUS_RECOVERY 1).rcvOpen false = true ∧
    (up.wr F.BOOT_STATUS_RECOVERY 1).on F.BOOT_STATUS_RECOVERY = true ∧
    (∀ s ∈ [({ up with boot := { up.boot with norOp := 2, norAddr := 256, norBytes := [1#8, 2#8] } } : State)],
      s.boot.norOp = 2 ∧ s.boot.norBytes[1]? = some 2#8 ∧ 255 < s.boot.norAddr ∧
      s.boot.norAddr + s.boot.norBytes.length ≤ 258 ∧ (Store.get 0xFF#8 s.boot.nor 257 &&& 2#8) ^^^ 1#8 ≠ 2#8) ∧
    ({ up with boot := { up.boot with norOp := 1 } } : State).boot.norOp = 1 := by decide +kernel

/-! ## Witnesses: supply, temperature, memory, start-up, trace -/

/-- Full and halved clocks, a window with and without slowings, before and after the lock point, in and out of a brace. -/
def braced (done due sag : Nat) : State :=
  { ((up.wr F.PWR_STATUS_BRACE 1).wr F.PWR_STATUS_BRACE_DONE done).wr F.PWR_STATUS_SAG_WARN sag with
    pwr := { up.pwr with retractDue := due = 1 } }
theorem witness_DroopAndBrace : up.on F.CLK_STATUS_HALVED = false ∧
    (up.wr F.CLK_STATUS_HALVED 1).on F.CLK_STATUS_HALVED = true ∧ up.pwr.winSlow = 0 ∧
    ({ up with pwr := { up.pwr with winSlow := 1 } } : State).pwr.winSlow ≠ 0 ∧
    up.host.readyOnce = true ∧ State.reset.host.readyOnce = false ∧ up.rd F.PWR_STATUS_BRACE = 0 ∧
    ({ up with boot := { up.boot with norOp := 1 } } : State).boot.norOp = 1 ∧ up.tapeWriting = false ∧
    (braced 0 1 1).rd F.PWR_STATUS_BRACE ≠ 0 ∧ (braced 0 1 1).pwr.retractDue = true ∧
    ({ up with ctl := { up.ctl with spindle := 2 } } : State).ctl.spindle ≠ 0 ∧
    (∀ s ∈ [braced 0 0 1], s.rd F.PWR_STATUS_BRACE ≠ 0 ∧ s.rd F.PWR_STATUS_BRACE_DONE = 0 ∧ (s.actWra 0).field = none ∧
      (s.actWra 1).field = none ∧ s.wra.squelchDue = false ∧ s.pwr.retractDue = false) ∧
    (∀ s ∈ [braced 1 0 0], s.rd F.PWR_STATUS_BRACE ≠ 0 ∧ s.rd F.PWR_STATUS_BRACE_DONE ≠ 0 ∧
      s.rd F.PWR_STATUS_SAG_WARN = 0 ∧ s.rd F.HIF_STATUS_QUIESCE = 0) := by decide +kernel

/-- `up` at 100 s with readings of a sensor, newest first, and thresholds entered. -/
def sensed (n entered : Nat) (hist : List (Nat × Int)) (s : State) : State :=
  { s with life := { s.life with ms := 100000 }
           pwr := { s.pwr with sensors := [(n, { hist := hist, entered := entered, misses := 2 })] } }

/-- An internal reading of sensors 0 and 1, a diode in and out of range, an open pin and a third miss. -/
theorem witness_TemperatureSensors_conversion : ∀ s ∈ [sensed 11 0 [] (((upD.wri F.THM_CH_CFG_MODE 2 1).wri F.THM_CH_CFG_MODE 11 3).wri
      F.THM_CH_CAL0_CAL0 2 32768)],
    s.converts 0 (.internal 0x640#16) = true ∧ s.converts 1 (.internal 0x640#16) = true ∧
    s.convert 1 (.internal 0x640#16) = .inl 1600 ∧ s.convert 0 (.internal 0xFFFF#16) = .inl (-1) ∧
    s.pwr.thermalHold = none ∧ s.converts 2 .openPin = true ∧ s.convert 2 .openPin = .inr 1 ∧
    s.converts 11 .missed = true ∧ s.convert 11 .missed = .inr 3 ∧ 2 ≤ (s.sensor 11).misses ∧
    s.rdi F.THM_TEMP_FAULT 2 = 0 ∧ s.converts 2 (.diode 0#32) = true ∧ s.convert 2 (.diode 71200000#32) = .inl 398 ∧
    s.convert 2 (.diode 0#32) = .inl (-4370) ∧
    s.convert 2 (.diode 0#32) ≠ .inl 0 := by decide +kernel

/-- Thresholds of sensor 2 at 62.5, 75 and 87.5 °C. -/
def limited : State := ((up.wri F.THM_CH_LIM_WARN 2 1000).wri F.THM_CH_LIM_THROTTLE 2 1200).wri F.THM_CH_SHUT_SHUTDOWN 2 1400

/-- Sensor 2 above its WARN, THROTTLE and SHUTDOWN thresholds for the dwell, and below WARN less HYST with WARN entered. -/
theorem witness_TemperatureSensors_dwell : ∀ s ∈ [sensed 2 0 [(100000, 2000)] limited],
    s.dwellWindow 2 = [(100000, 2000)] ∧
    (∀ k ∈ [1, 2, 3], s.threshold 2 k ≠ 0x7FFF ∧ bitAt (s.sensor 2).entered (k - 1) = false ∧
      toSigned 16 (s.threshold 2 k) ≤ 2000) ∧ s.rdi F.THM_TEMP_FAULT 2 = 0 ∧
    (∀ t ∈ [sensed 2 1 [(100000, 0)] limited], bitAt (t.sensor 2).entered 0 = true ∧
      (0 : Int) < toSigned 16 (t.threshold 2 1) - t.rd F.THM_DWELL_HYST) := by decide +kernel

/-- A reading that has risen fast for the dwell, one that has not with RISE set; a faulty sensor that reads; a hold. -/
theorem witness_TemperatureSensors_rise : ∀ s ∈ [sensed 2 0 [(100000, 2000), (0, 0)] up],
    s.rdi F.THM_TEMP_RISE 2 = 0 ∧ (∀ p ∈ s.dwellWindow 2, s.riseLimit 2 < s.rateAt 2 p.1 p.2) ∧ s.dwellWindow 2 ≠ [] ∧
    (∀ t ∈ [sensed 2 0 [(100000, 0), (0, 0)] (up.wri F.THM_TEMP_RISE 2 1)], t.rdi F.THM_TEMP_RISE 2 ≠ 0 ∧
      t.dwellWindow 2 ≠ [] ∧ ∀ p ∈ t.dwellWindow 2, 2 * t.rateAt 2 p.1 p.2 ≤ t.riseLimit 2) ∧
    (∀ t ∈ [(up.wri F.THM_TEMP_FAULT 2 1).wri F.THM_TEMP_VALID 2 1], t.rdi F.THM_TEMP_FAULT 2 ≠ 0 ∧
      t.rdi F.THM_TEMP_VALID 2 ≠ 0) ∧
    (∀ t ∈ [({ up with pwr := { up.pwr with thermalHold := some 2 } } : State)], t.pwr.thermalHold ≠ none ∧
      ∀ n ∈ [0, 2, 3, 4, 5, 6, 7, 8, 9], t.rdi F.THM_TEMP_VALID n = 0) := by decide +kernel

/-- Grace and enforcement with causes; a hottest sensor that has fallen little, by 0.5 °C and by 2 °C; shed levels. -/
theorem witness_ThrottleAndShed : ((up.wr F.SQ_THROTTLE_STATE 1).wr F.THM_STATUS_CAUSES 1).rd F.THM_STATUS_CAUSES ≠ 0 ∧
    (up.wr F.SQ_THROTTLE_STATE 1).rd F.SQ_THROTTLE_STATE = 1 ∧ (up.wr F.SQ_THROTTLE_STATE 2).rd F.SQ_THROTTLE_STATE = 2 ∧
    (∀ d ∈ [7, 8, 32], ∀ s ∈ [sensed 0 0 [(100000, 0), (99000, d)] up],
      readingBefore (s.sensor s.hottest).hist (s.life.ms - 1000) (s.reading s.hottest) - s.reading s.hottest = d) ∧
    ({ up with pwr := { up.pwr with overMs := 1 } } : State).pwr.overMs = 1 ∧
    ({ up with pwr := { up.pwr with underMs := 1 } } : State).pwr.underMs = 1 ∧ up.rd F.PWR_STATUS_SHED < 4 ∧
    (∀ n ∈ [3, 4], (up.wr F.PWR_STATUS_SHED n).rd F.PWR_STATUS_SHED = n) := by decide +kernel

/-- A memory after start-up: every block, word and row initialized. -/
def hbm0 : State := { up with mem := { up.mem with hbmInit := true, scrubDone := [false, false, false] } }
def blockOf (p : Nat) (f : List (List Byte) → List (List Byte)) : State :=
  { hbm0 with mem := { hbm0.mem with hbm := [(p, some { slices := f (hbmEncode p 0 []) })] } }

/-- A block that reads, one with a slice that does not, one of another epoch, and one with three slices that do not. -/
theorem witness_MemoryAccess_hbm : MemUser.barred .other 0 = false ∧ hbm0.mem.hbmPlace 0 = 0 ∧ hbm0.mem.hbmAt 0 ≠ none ∧
    (∀ sl ∈ hbm0.mem.hbmAt 0, (hbmDecode 0 0 none sl).outcome = .good ∧ (hbmDecode 0 0 none sl).ok = true) ∧
    (∀ sl ∈ (blockOf 0 (fun l => flipSlices [(3#3, 1#288)] l)).mem.hbmAt 0, (hbmDecode 0 0 none sl).outcome = .corrected) ∧
    (∀ sl ∈ hbm0.mem.hbmAt 0, (hbmDecode 0 1 none sl).outcome = .uninit) ∧
    (∀ sl ∈ (blockOf 0 (fun l => flipSlices [(1#3, 1#288), (2#3, 1#288), (3#3, 1#288)] l)).mem.hbmAt 0,
      (hbmDecode 0 0 none sl).outcome = .uncorrectable) := by decide +kernel
theorem witness_MemoryAccess_command : RoomFor (adm (fr 0x11)) (holding (adm (fr 0x11)) hbm0) ∧
    (holding (adm (fr 0x11)) hbm0).cmdOf s0 = some (adm (fr 0x11)) := ⟨room (by decide +kernel), by decide +kernel⟩

/-- Words that read at both ends of the memories, and words with two and more bits wrong. -/
theorem witness_MemoryAccess_words : (∀ k ∈ [1, 2], ∀ a ∈ [0, wordCount k - 1],
      wordDecode k (hbm0.mem.wordPlace k a) (hbm0.mem.wordAt k (hbm0.mem.wordPlace k a)) = .good 0) ∧
    (∀ k ∈ [1, 2], ∀ a ∈ [0x80000, 0xFFFFF],
      wordDecode k a (Nat.xor (hbm0.mem.wordAt k (hbm0.mem.wordPlace k a)) (0xFFF#144).toNat) = .bad false) ∧
    hbm0.inGroup = false := by decide +kernel

/-- Scrub passes before their end, at the last unit; a window with corrections of one memory; a slice at its limit. -/
def table0 (k : Nat) (spares : List Nat) : State :=
  { hbm0 with mem := { hbm0.mem with
      corr := [[{ unit := 0, count := k, born := 0 }], [], []], hbmRemap := spares } }
theorem witness_MemoryUpkeep : hbm0.paused = false ∧ hbm0.mem.scrubDone = [false, false, false] ∧
    (hbm0.wr F.MEM_SCRUB_POS_BLOCK (2 ^ 26 - 1)).rd F.MEM_SCRUB_POS_BLOCK = 2 ^ 26 - 1 ∧ hbm0.mem.posSram = 0 ∧
    hbm0.mem.dieFailed = none ∧ (∀ j < 8, hbm0.mem.dieDue j = false) ∧
    ({ hbm0.mem with winSlices := List.replicate 8 1024 } : MemSt).dieDue 7 = true ∧
    ((({ hbm0.mem with winCorr := [0, 5, 0] } : MemSt).winCorr[1]?).getD 0 ≠ 0 ∧ (hbm0.mem.winCorr[0]?).getD 0 = 0) ∧
    (table0 3 []).mem.hardFault 0 0 = true ∧ ((table0 3 []).mem.remaps 0).length < 16 ∧
    (table0 3 ((List.range 16).map (fun i => i + 1))).mem.hardFault 0 0 = true ∧
    16 ≤ ((table0 3 ((List.range 16).map (fun i => i + 1))).mem.remaps 0).length := by decide +kernel

/-- Start-up before it has begun, with the OTP unread and read, and with no slot to try or the slots in order. No image is
written out here: a slot passes its check exactly when it holds one signed as R427 says. -/
def cold (otp record : Bool) : State :=
  { State.reset with boot := { State.reset.boot with
      fuses := { State.reset.boot.fuses with otpRead := otp }, recA := if record then some ImgRec.blank else none } }
theorem witness_StartUp : (∀ otp ∈ [true, false], ∀ r ∈ [true, false], ∀ s ∈ [cold otp r],
      s.rd F.BOOT_STATUS_STAGE = 0 ∧ s.rd F.PWR_STATUS_SAG_WARN = 0 ∧ s.pwr.thermalHold = none ∧
      s.boot.fuses.otpRead = otp) ∧
    (cold true false).dropPending.slotOrder = [] ∧ (cold true true).dropPending.slotOrder ≠ [] ∧
    (cold true true).dropPending.imgRec.eligible false = true ∧ (cold true true).dropPending.imgRec.state false ≠ 3 := by
  decide +kernel

/-- The trace unit armed with KIND 0, triggered and done. -/
theorem witness_TraceUnit : up.barsUp true = false ∧ up.barsUp false = true ∧
    (∀ n ∈ [1, 2, 3], (up.wr F.TRC_STATUS_STATE n).rd F.TRC_STATUS_STATE = n) ∧ up.rd F.TRC_STATUS_STATE ≠ 3 ∧
    (up.wr F.TRC_TRIG_CFG_KIND 0).rd F.TRC_TRIG_CFG_KIND = 0 := by decide +kernel

/-! ## Witnesses: groups, strips, journals -/

/-- A record of 18 ACTIVE members in epoch 5, with a member in another state. -/
def rec0 (lead deputy m st : Nat) : MemRec :=
  { epoch := 5, lead := lead, deputy := deputy, k := 4, ring := 18, groupId := 7
    states := 3 * ((16 ^ 18 - 1) / 15) - 3 * 16 ^ m + st * 16 ^ m, uids := [] }

/-- Member 0 of it, with every port up and routes by port 1. -/
def grp0 (s : State) (r : MemRec) : State :=
  let s := (List.range 4).foldl (fun s p => s.wri F.GRP_PORT_STATUS_STATE p 2) (s.wr F.GRP_STATUS_HAS_ID 1)
  let s := (List.range 18).foldl (fun s m => s.wri F.GRP_ROUTE_PORT m 1) s
  { s with grp := { s.grp with mrec := some r }, red := { s.red with k := 4, kPending := 4, eligible := 0x3FFFF, eligiblePending := 0x3FFFF } }

/-- The lead, the deputy and another member. -/
def lead0 : State := grp0 keyedD (rec0 0 1 2 3)
def deputy0 : State := grp0 keyedD (rec0 1 0 2 3)
def member0 : State := grp0 keyedD (rec0 1 2 3 3)

/-- The envelope of the next packet of member 1 in epoch 5, and a header of strip 2 of stripe 3. -/
def env0 : Env := { port := 1#2, src := 1#8, epoch := 5#32, seq := 1#32 }
def hdr (slot : Nat) (off count : Nat) (last : Bool) : StripHdr :=
  { slot := BitVec.ofNat 8 slot, gen := 1#16, status := 0#32, id := 3#64, offset := BitVec.ofNat 32 off
    count := BitVec.ofNat 32 count, posMs := 0#32, last := last, erased := false }

/-- A packet of member 1 arrives in its turn on each class. -/
theorem in_turn : ∀ s ∈ [lead0, deputy0, member0], ∀ vc ∈ [0, 1, 2], s.portUp env0.port.toNat = true ∧ s.shutOut = false ∧
    s.epochOrder env0.epoch.toNat = 0 ∧ s.failedPeer env0.src.toNat = false ∧
    env0.seq.toNat = Store.get 0 s.grp.rxSeq (triple env0.src.toNat vc) + 1 := by decide +kernel
theorem witness_InTurn : ∀ vc ∈ [0, 1, 2], InTurn env0 vc lead0 ∧ InTurn env0 vc member0 :=
  fun vc h => ⟨in_turn lead0 (by simp) vc h, in_turn member0 (by simp) vc h⟩

/-- A strip held in part and whole, a stripe in flight, requests of member 1. -/
def strip0 (whole : Bool) : Strip :=
  { stripe := 3, gen := 1, slot := 2, bytes := [1#8, 2#8], whole := whole, passed := false, owner := 1, told := false
    units := [], erased := [] }
def jrec0 : JRec :=
  { stripe := 3, gen := 1, state := 1, kind := 0, k := 4, fill := 4, target := 0xFF, owner := 0
    members := [0, 5, 1, 7, 8, 9], epochLo := 5, slotDone := 0 }
def stripe0 (sent : Bool) : StripeSt :=
  { jrec := jrec0, sent := sent, told := false, slots := [[], [], [], []], old := none, resend := [] }
def req0 (type : Nat) : StripReq :=
  { type := type, member := 1, stripe := 3, slot := 2, offset := 0, count := 4, posMs := 0, late := false, want := none
    got := none }
def red0 (s : State) : State :=
  { s with red := { s.red with strips := [strip0 false], stripes := [stripe0 true], requests := [req0 1] } }

theorem witness_StripWrites : lead0.strip 3 2 = none ∧ (hdr 2 0 0 false).offset = 0#32 ∧
    (∀ s ∈ [red0 lead0], s.strip 3 2 = some (strip0 false) ∧ (strip0 false).gen = 1 ∧ (strip0 false).whole = false ∧
      (hdr 2 2 0 true).offset.toNat = (strip0 false).bytes.length ∧ (strip0 false).bytes ≠ [] ∧ s.kOf 3 = 4 ∧
      unitTagsOk [1#8, 2#8, 3#8, 4#8] = true ∧ s.dMode = true ∧ env0.src.toNat ≠ s.myId ∧
      s.stripe 3 = some (stripe0 true) ∧ (stripe0 true).jrec.gen = 1 ∧ (stripe0 true).jrec.member 2 = env0.src.toNat ∧
      s.successors ≠ [] ∧ s.red.hasPending = false ∧
      (replacement (rec0 0 1 2 3) (stripeRow 3) (3 / 2 ^ 56) s.red.eligible jrec0.members).isSome = true ∧
      req0 1 ∈ s.red.requests ∧ (∀ p ∈ s.red.slowMs, p.1 ≠ 1)) ∧
    (medium mStopped (red0 lead0)).stripRoom 4 = false := by decide +kernel

/-- A disk with room for a strip: bands are on record and nothing is taken. -/
theorem witness_StripWrites_room : (grp0 { keyedD with disk := { DiskSt.init with
      heads := 2, zoneCount := 2, zonesPerSurface := 1, zones := [(0, { Zone.init with tracks := [] })]
      bands := [{ surface := 0, band := 0, firstTrack := 0, rate := 2000000, d := 40000 }] } } (rec0 0 1 2 3)).stripRoom 4 = true := by
  decide +kernel

/-- Reads of a strip held, of none and of a copy; data for a request in part and whole. -/
def copy0 (whole : Bool) : RemoteCopy :=
  { stream := 3, seq := 0, bytes := [1#8, 2#8], whole := whole, surface := none, units := [], written := false
    failed := false, told := false }
theorem witness_StripReads : lead0.tMode = false ∧ lead0.strip 3 2 = none ∧
    (∀ s ∈ [red0 lead0], s.strip 3 2 = some (strip0 false) ∧ 0 + 2 ≤ (strip0 false).bytes.length ∧
      (s.stripRange (strip0 false) 0 2).2 = false) ∧
    (∀ s ∈ [{ lead0 with red := { lead0.red with remote := [copy0 true] } }], s.remoteCopy 3 = some (copy0 true)) ∧
    (∀ s ∈ [{ lead0 with red := { lead0.red with requests := [req0 2] } }], req0 2 ∈ s.red.requests ∧ (req0 2).want = none ∧
      s.red.requests.Nodup ∧ (req0 2).offset ≤ 0 ∧ 0 < (req0 2).offset + (req0 2).count ∧
      ([] ++ [1#8] : List Byte).length < (req0 2).count ∧ (req0 2).count ≤ ([1#8, 2#8, 3#8, 4#8] : List Byte).length) ∧
    isPlace 3 2 0 (.stripe 3 2 0) = true := by decide +kernel

/-- Copies that begin, go on and end; a command with three copies of which member 1 holds one. -/
def landed0 : Cmd := { cmd 0 (.slot 3#20) .started { openF 8 0 with stream := 3 } with copies :=
  [{ place := 65, pos := 0, len := 1, written := false }, { place := 66, pos := 0, len := 1, written := true },
   { place := 67, pos := 0, len := 1, written := true }] }
theorem witness_LandingCopies : lead0.remoteCopy 3 = none ∧
    (∀ s ∈ [{ lead0 with red := { lead0.red with remote := [copy0 false] } }], s.remoteCopy 3 = some (copy0 false) ∧
      (hdr 0 2 0 true).offset.toNat = (copy0 false).bytes.length) ∧ (medium mStopped lead0).medium.state ≠ mReady ∧
    (3#64).toNat % 2 ^ 20 = 3 ∧ (3#64).toNat / 2 ^ 20 % 2 ^ 32 = 0 ∧
    (∀ s ∈ [holding landed0 lead0], landed0 ∈ s.sq.cmds ∧ landed0.src.stream = 3 ∧ landed0.frame.seq = 0 ∧
      landed0.stage = .started ∧ (s.sq.cmds.map Cmd.uid).Nodup ∧ (∃ l ∈ landed0.copies, l.place = 64 + 1 ∧ l.written = false) ∧
      (s.landers.filter (fun i => i != 1 && !(landed0.copies.filter (fun l => l.place != 65)).any (fun x =>
        x.place = 64 + i))).length = 1) ∧
    (medium mStopped (holding landed0 lead0)).landers = [] := by decide +kernel
theorem witness_LandingCopies_room : RoomFor landed0 (holding landed0 lead0) := room (by decide +kernel)

/-- Records that check and FREE ones; a takeover with the last successor and with one more to come; rows and entries. -/
def freeRec : List Byte := List.replicate 64 0#8
theorem witness_JournalPackets : JRec.ofBytes jrec0.bytes = some jrec0 ∧ leAt freeRec 10 1 = 0 ∧
    (lead0.mirrorOf 1).length ≤ 63 ∧ lead0.isLead = true ∧ lead0.myId = 0 ∧
    (∀ w ∈ [2, 6], ∀ s ∈ [{ lead0 with red := { lead0.red with takeWait := [(3, w)] } }],
      s.red.takeWait.find? (fun p => p.1 = (3#64).toNat && bitAt p.2 env0.src.toNat) = some (3, w)) ∧
    clrBit 2 1 = 0 ∧ clrBit 6 1 ≠ 0 ∧ lead0.red.directory = [] ∧
    (∃ x ∈ [{ DirEntry.ofBytes freeRec with gen := 1 }], x.stripe = (DirEntry.ofBytes freeRec).stripe ∧
      (DirEntry.ofBytes freeRec).gen < x.gen) ∧ rowsOf 34 (List.replicate 34 0#8) ≠ [] ∧ (1#8 : BitVec 8) ≠ 2#8 := by
  decide +kernel

/-- A row without entries, a slot of a listed stripe to rebuild, a strip held and none, a rebuild that reads member 1. -/
def dir0 : DirEntry := { stripe := 3, gen := 1, k := 4, fill := 4, lost := 0, members := [0, 1, 2, 7, 8, 9] }
def item0 : RebuildItem := { entry := dir0, slot := 0, started := true, sources := [(1, [], [], false)] }
theorem witness_RebuildPackets : (lead0.listing (3 % 4096)).length ≤ 84 ∧ lead0.strip 3 2 = none ∧
    (red0 lead0).strip 3 2 = some (strip0 false) ∧ lead0.red.rebuild = [] ∧ lead0.red.stripes = [] ∧
    (∃ d ∈ [{ dir0 with lost := 63 }], (List.range 6).any (fun j => lead0.ownsLost d j) = true ∨
      (lead0.red.row (stripeRow d.stripe)).contains lead0.myId = false) ∧
    (∀ s ∈ [{ lead0 with red := { lead0.red with rebuild := [item0] } }], item0 ∈ s.red.rebuild ∧ item0.entry.stripe = 3 ∧
      (1, [], [], false) ∈ item0.sources ∧ (item0.entry.members[1]?).getD 0xFF = env0.src.toNat) := by decide +kernel

/-! ## Witnesses: the map, beats, membership, links -/

/-- Streams at both ends of their range and the form for nonces; a key with no entry, with one and with a proposal. -/
theorem witness_MapPackets : (0xFFFFF#32).toNat < 2 ^ 20 ∧ (0x100000#32).toNat = 2 ^ 20 ∧
    lead0.obj.props = [] ∧ lead0.obj.objs = [] ∧
    (∀ s ∈ [{ lead0 with obj := { lead0.obj with objs := [(5, obj0 2 8)] } }],
      s.obj.objs.find? (fun p => p.1 = (5#128).toNat) = some ((5#128).toNat, obj0 2 8)) ∧
    (∀ s ∈ [{ lead0 with obj := { lead0.obj with props := [(5, obj0 2 8)] } }],
      s.obj.props.find? (fun p => p.1 = (5#128).toNat) = some ((5#128).toNat, obj0 2 8)) ∧
    bitAt (leAt ([0#8, 0#8, 0#8, 1#8] : List Byte) 3 1) 0 = true ∧ bitAt (leAt ([] : List Byte) 3 1) 0 = false := by
  decide +kernel

/-- Member 5 without a MEMBER_BEAT for LEAD_MS, some with and some without the host link. -/
def beats0 (up : List Nat) (age : Nat) (s : State) : State :=
  { s with grp := { s.grp with beats := (List.range 18).map (fun m =>
      (m, { medium := mReady, state := 3, hostUp := up.contains m, ageMs := if up.contains m then 0 else age })) } }

/-- The lead and the deputy; a FORM that waits for member 5; a query with too few and with enough answers. -/
def formC : Cmd := { adm { fr 0x31 with flags := 1, key := 0x3FFFF } with stage := .started, waits := 8 }
theorem witness_BeatsAndQueries : lead0.isLead = true ∧ deputy0.isDeputy = true ∧ deputy0.shutOut = false ∧
    (∀ st ∈ [2, 3, 4, 6], (rec0 0 1 5 st).state 5 = st) ∧ (5#6).toNat ≠ lead0.myId ∧ lead0.grp.forming = none ∧
    lead0.grp.mgmtOut = [] ∧
    (∀ s ∈ [{ holding formC up with grp := { up.grp with forming := some (s0, 0x3FFFF, 1) } }],
      s.cmdOf s0 = some formC ∧ bitAt 0x3FFFF (5#6).toNat = true ∧ bitAt 1 (5#6).toNat = false) ∧
    lead0.red.requests = [] ∧ 0 < lead0.rd F.GRP_FAILOVER_LEAD_MS ∧
    (∀ l ∈ [0, 0x1FF], ∀ s ∈ [{ deputy0 with grp := { deputy0.grp with querying := true, lostAnswers := l } }],
      s.grp.querying = true ∧ (rec0 1 0 2 3).state env0.src.toNat = 3 ∧
      (l = 0 → 2 * (popCount 64 (setBit l env0.src.toNat) + 1) ≤ (rec0 1 0 2 3).active.length) ∧
      (l ≠ 0 → (rec0 1 0 2 3).active.length < 2 * (popCount 64 (setBit l env0.src.toNat) + 1))) ∧
    (beats0 [2, 3] 0 deputy0).deputyCandidate (rec0 1 0 2 3) 1 = some 2 ∧ deputy0.grp.change = none ∧
    deputy0.grp.changes = [] := by decide +kernel
theorem witness_BeatsAndQueries_room : RoomFor formC { holding formC up with grp := { up.grp with forming := some (s0, 0x3FFFF, 1) } } :=
  room (by decide +kernel)

/-- The quorum lost and kept; the deputy gone with and without a candidate; a copy complete; members slow; a flip. -/
def change0 : Change := { mrec := rec0 0 3 1 4, copying := true, stored := false, src := none, mgmt := none }
theorem witness_MembershipChanges : (beats0 [] 100000 lead0).quorum (rec0 0 1 2 3) = false ∧
    (∀ s ∈ [beats0 ((List.range 18).drop 2) 100000 lead0], s.quorum (rec0 0 1 2 3) = true ∧ s.unreachable 1 = true ∧
      s.deputyCandidate (rec0 0 1 2 3) 1 = some 2) ∧
    (∀ s ∈ [beats0 [] 0 lead0], s.deputyCandidate (rec0 0 1 2 3) 1 = none) ∧
    (∀ s ∈ [{ lead0 with grp := { lead0.grp with change := some change0, copyTo := some 3 } }],
      s.grp.change = some change0 ∧ change0.copying = true ∧ s.grp.copyTo = some 3 ∧ change0.mrec.deputy < 64 ∧
      change0.mrec.deputy ≠ s.myId) ∧
    (∀ s ∈ [{ lead0 with red := { lead0.red with slowMs := [(5, 1)] } }], (∃ p ∈ s.red.slowMs, p.1 = (5#6).toNat) ∧
      (rec0 0 1 2 3).state 5 = 3) ∧
    (∀ s ∈ [{ lead0 with red := { lead0.red with layoutPending := 1 } }], s.red.hasPending = true ∧ s.red.relocLeft = [] ∧
      s.red.stripes = []) := by decide +kernel

/-- A device without id and record, with a port up; a neighbour on ports 0 and 1. -/
def alone : State := (up.wri F.GRP_PORT_STATUS_STATE 1 2).wr F.GRP_UNIQUE_ID_LO_UID 9
theorem witness_Discovery : alone.hasId = false ∧ alone.inGroup = false ∧ alone.portUp 1 = true ∧ alone.uniqueId = 9 ∧
    (alone.port 1).hello = false ∧ peerPort 1 = 0 ∧ impliedId 0 0 (-(portStep 1)) = none ∧
    impliedId 0 1 (-(portStep 1)) = some 0 ∧ impliedId 18 lead0.myId (portStep 1) = some 1 ∧
    (4#64).toNat < (rec0 0 1 2 3).epoch ∧ (7#128).toNat = (rec0 0 1 2 3).groupId ∧
    Store.get 0 (rec0 0 1 2 3).uids 1 = (0#64).toNat ∧ lead0.grp.change = none ∧
    (8#64).toNat < alone.uniqueId ∧ alone.uniqueId < (10#64).toNat ∧ (64#8).toNat ≤ 64 ∧ 64 < (65#8).toNat ∧
    (63#8).toNat < 64 ∧
    (∀ s ∈ [{ lead0 with grp := { lead0.grp with views := [(5, { version := 3, ports := 0 })] } }],
      (Store.get { version := 0, ports := 0 } s.grp.views (5#8).toNat).version = 3 ∧ (5#8).toNat ≠ s.myId) := by
  decide +kernel

/-- A newer record that gives the device a part, and the one in force; a rejected SEQ_MIRROR; acknowledgements. -/
def rec6 : MemRec := { rec0 1 0 2 3 with epoch := 6 }
def mirror0 : Sent :=
  { packet := { type := 6, src := 0, dst := 1, hops := 31, epochLo := 5, seq := 1, vc := 0, cls := 0, fwd := false, payload := [] }
    owner := some s0, stripe := 0 }
theorem witness_EpochPackets : lead0.epoch < rec6.epoch ∧
    (rec0 0 1 2 3).groupId = rec6.groupId ∧ rec6.state lead0.myId = 3 ∧ lead0.rdi F.GRP_ROUTE_PORT 1 = 1 ∧
    (∀ s ∈ [{ holding (early 8) lead0 with grp := { lead0.grp with unacked := [(triple 1 0, [mirror0])] } }],
      s.cmdOf s0 = some (early 8) ∧ mirror0 ∈ Store.get [] s.grp.unacked (triple 1 0)) ∧
    (rec0 0 1 2 3).idsIn [2] = [] ∧
    (∀ c ∈ [{ change0 with copying := false, mrec := rec6 }], c.mrec.deputy = 0 ∧ c.mrec.idsIn [2] = []) := by
  decide +kernel
set_option maxRecDepth 100000 in
theorem witness_EpochPackets_record : MemRec.ofBytes rec6.bytes = some rec6 := by decide +kernel
theorem witness_EpochPackets_same : ∀ s ∈ [grp0 keyedD rec6], s.grp.mrec = some rec6 := by decide +kernel
theorem witness_EpochPackets_room : ∀ s ∈ [{ holding (early 8) lead0 with
    grp := { lead0.grp with unacked := [(triple 1 0, [mirror0])] } }], RoomFor (early 8) s := by
  intro s h
  simp only [List.mem_singleton] at h
  subst h
  exact room (by decide +kernel)

/-- Lanes without and with lock; a port that trains, is up with one lane, and goes down. -/
def linked (st : Nat) (l0 l1 : Bool) (fs : List LinkFrame) : State :=
  { up.wri F.GRP_PORT_STATUS_STATE 2 st with grp := { up.grp with
      ports := [(2, { PortSt.init with lock0 := l0, lock1 := l1, replay := fs })] } }
def frame0 (tries : Nat) : LinkFrame := { lseq := 0, packet := mirror0.packet, tries := tries }
theorem witness_PeerPorts : (up.wr F.GLB_CONFIG_PEER_EN 1).on F.GLB_CONFIG_PEER_EN = true ∧ (up.port 2).lock0 = false ∧
    (up.port 2).lock1 = false ∧ (linked 2 true false []).portState 2 = 2 ∧ ((linked 2 true false []).port 2).lock0 ≠ ((linked 2 true false []).port 2).lock1 ∧
    (linked 1 true true []).portState 2 = 1 ∧ ((linked 1 true true []).port 2).lock0 = true ∧
    ((linked 2 false false []).port 2).lock0 = false ∧ (linked 2 false false []).portUp 2 = true ∧
    (∃ f ∈ ((linked 2 true true [frame0 8]).port 2).replay, 8 ≤ f.tries) := by decide +kernel

/-- A frame that is expected and checks, one with no hop left, a second one out of order; replay, credits and a queue. -/
theorem witness_LinkFrames : (∀ h ∈ [0, 31], Packet.ofBytes 0 ({ mirror0.packet with hops := h } : Packet).bytes =
      some { mirror0.packet with hops := h }) ∧ mirror0.packet.dst ≠ 0xFE ∧
    Packet.ofBytes 0 [] = none ∧ (0#12).toNat = (up.port 2).nextRx ∧ (up.port 2).nakSent = false ∧
    ((linked 2 true true [frame0 0]).port 2).replay = [] ++ frame0 0 :: [] ∧ (frame0 0).lseq < 4096 ∧
    ((linked 2 true true []).port 2).queue = [] ∧ mirror0.packet.vc < 3 ∧
    PortSt.canSend PortSt.init mirror0.packet = true := by decide +kernel

/-- An unacknowledged packet with a route, and one that waits for a route. -/
theorem witness_EndToEndTimeouts : (∀ s ∈ [{ member0 with grp := { member0.grp with unacked := [(triple 1 0, [mirror0])] } }],
      Store.get [] s.grp.unacked (triple (1#6).toNat (0#2).toNat) = [mirror0] ∧ s.rdi F.GRP_ROUTE_PORT 1 = 1 ∧
      s.mayReach 1 = true ∧ mirror0.packet.dst = 1) ∧
    ({ up with grp := { up.grp with routeWait := [mirror0.packet] } } : State).grp.routeWait = [] ++ mirror0.packet :: [] := by
  decide +kernel

/-- GROUP_ADMIN functions in their turn with a target in each state, and a FORM of 18 devices. -/
def admin (fn key ofs : Nat) : Cmd := adm { fr 0x31 with flags := fn, key := key, offset := ofs }
theorem witness_GroupAdmin : (∀ p ∈ [(2, 5, 1), (3, 5, 3), (4, 5, 3), (5, 5, 4), (6, 5, 4), (7, 5, 3)],
      ∀ s ∈ [holding (admin p.1 p.2.1 0) (beats0 (List.range 18) 0 (grp0 keyedD (rec0 0 1 5 p.2.2)))],
      s.cmdOf s0 = some (admin p.1 p.2.1 0) ∧ (admin p.1 p.2.1 0).frame.flags = p.1 ∧ (s.sq.cmds.map Cmd.uid).Nodup ∧
      s.adminHeld = false ∧ s.grp.adminQ = [] ∧ (rec0 0 1 5 p.2.2).state 5 = p.2.2 ∧ s.routeTo 5 = true ∧
      s.memberState 5 = p.2.2 ∧ s.red.hasPending = false ∧ s.groupBusy = false ∧ (s.beat 5).hostUp = true ∧
      s.tooFew (rec0 0 1 5 p.2.2) 5 = false ∧ ((rec0 0 1 5 p.2.2).idsIn [2, 3, 4, 5, 6]).length < 64) ∧
    (∀ k ∈ [4, 16], k + 2 ≤ (rec0 0 1 2 3).active.length) ∧ bitAt (0#64).toNat 5 = false := by decide +kernel
theorem witness_GroupAdmin_form : ∀ s ∈ [holding (admin 1 0x3FFFF 0) ((List.range 18).foldl (fun s m =>
      s.wri F.GRP_ROUTE_PORT m 1) ((up.wr F.GRP_STATUS_HAS_ID 1).wr F.BOOT_START_CFG_K_DEFAULT 8))],
    s.grp.mrec = none ∧ s.hasId = true ∧ bitAt 0x3FFFF s.myId = true ∧ s.cmdOf s0 = some (admin 1 0x3FFFF 0) ∧
    (∀ i ∈ onesOf 64 0x3FFFF, s.memberState i = 1) ∧ s.obj.objs = [] ∧ 16 ≤ (onesOf 64 0x3FFFF).length ∧
    s.rd F.BOOT_START_CFG_K_DEFAULT + 2 ≤ (onesOf 64 0x3FFFF).length ∧ s.adminHeld = false := by decide +kernel

/-- Units that wait to be gathered; rebuild work and none, with a target in range. -/
theorem witness_StripeTimers : (∀ s ∈ [{ lead0 with red := { lead0.red with gather := [0, 1] } }], s.red.gather ≠ [] ∧
      s.red.openK = 4 ∧ s.stripUnits = 256 ∧ s.mayOpen = true) ∧ lead0.rebuildWork = false ∧
    (∀ s ∈ [{ lead0 with red := { lead0.red with rebuild := [item0] } }], s.rebuildWork = true ∧
      Nat.min (Nat.max (s.rd F.RED_RATE_FLOOR_PCT) 95) (s.rd F.RED_RATE_CEIL_PCT) < 128 ∧
      s.rd F.RED_RATE_FLOOR_PCT < 96) ∧
    (lead0.wr F.RED_SHARE_CURRENT 100).rd F.RED_SHARE_CURRENT = 100 := by decide +kernel

/-- BASE_EPOCH 0, of the epoch and of another one; an event and none; offsets in each range; counts 0, 1, 16 and 17. -/
theorem witness_ManagementPath : (5#64).toNat = lead0.epoch ∧ (6#64).toNat ≠ lead0.epoch ∧ (6#64 : BitVec 64) ≠ 0#64 ∧
    (lead0.raise 7 0 0x206 0).host.evtFifo ≠ [] ∧ lead0.host.evtFifo = [] ∧
    (0x3FFFFFC#32).toNat ≠ F.HIF_EVT_DATA0_WORD0.off ∧ (0x3FFFFFC#32).toNat % 4 = 0 ∧ (0x3FFFFFC#32).toNat < 2 ^ 26 ∧
    (2#32).toNat % 4 ≠ 0 ∧ 2 ^ 26 ≤ (0x4000000#32).toNat ∧
    (∀ n ∈ [1#8, 16#8], 1 ≤ n.toNat ∧ n.toNat ≤ 16) ∧ (0#8).toNat = 0 ∧ 16 < (17#8).toNat ∧
    up.grp.mrec = none ∧ member0.isLead = false ∧ member0.rdi F.GRP_ROUTE_PORT (rec0 1 2 3 3).lead < 4 ∧
    4 ≤ (member0.wri F.GRP_ROUTE_PORT 1 7).rdi F.GRP_ROUTE_PORT 1 ∧ lead0.isLead = true ∧ lead0.adminHeld = false ∧
    lead0.grp.adminQ = [] := by decide +kernel

/-- A CMD of a new TAG with and without data to come, and of one that is done; a CMD_DONE of the only part. -/
def mcmd0 : MgmtCmd :=
  { lead := 1, told := true, tag := 9, frame := fr 0x30, part := 0, data := [], done := true, entry := 0 }
def mediaTo (m : Nat) : Cmd := { cmd 0 s0 .started { fr 0x30 with flags := 1, key := m } with waits := 1 }
def mout0 : MgmtOut := { tag := 9, target := 1, src := some s0, frame := [], part := 0, data := [] }
theorem witness_MgmtPackets : (fr 0x30).mgmtNeed ≤ ([] : List Byte).length ∧
    ([] : List Byte).length < ({ fr 0x33 with length := 4 } : Frame).mgmtNeed ∧ lead0.cmdOf (.mgmt 9#16) = none ∧
    lead0.grp.mgmtCmds = [] ∧
    [mcmd0].find? (fun x => x.tag = (9#16).toNat && x.lead = env0.src.toNat) = some mcmd0 ∧
    (∀ s ∈ [{ holding (mediaTo 1) lead0 with grp := { lead0.grp with mgmtOut := [mout0] } }], mout0 ∈ s.grp.mgmtOut ∧
      s.cmdOf s0 = some (mediaTo 1) ∧ s.hits (mediaTo 1) = false ∧ (mediaTo 1).prog = 0 ∧
      (0#256).toNat / 2 ^ 128 % 2 ^ 16 = 0) ∧
    member0.isLead = false ∧ lead0.isLead = true ∧ lead0.adminHeld = false ∧
    [(9, 3)].find? (fun p : Nat × Nat => p.1 = (9#16).toNat) = some ((9#16).toNat, 3) := by decide +kernel
theorem witness_MgmtPackets_room : lead0.sq.uidsOk ∧ ∀ s ∈ [{ holding (mediaTo 1) lead0 with
    grp := { lead0.grp with mgmtOut := [mout0] } }], RoomFor (mediaTo 1) s := by
  refine ⟨by unfold SqSt.uidsOk; decide +kernel, fun s h => ?_⟩
  simp only [List.mem_singleton] at h
  subst h
  exact room (by decide +kernel)

/-! ## Witnesses: tape and disk -/

/-- T-mode with the tape moving, settled and writing or not. -/
def tapeS (wstate : Nat) : State :=
  let s := (((keyedT.wr F.CTL_TM_STATUS_MODE 3).wr F.CTL_TM_STATUS_SETTLED 1).wr F.WRA_STATUS_TSYNTH_LOCK 1).wr
    F.FMT_TSTATUS_WSTATE wstate
  { s with mot := { s.mot with moving := true, settled := 32 } }

/-- A copy of codeword 0 of data set 1, and data sets. -/
def copyT : Copy := { part := 1, ds := 1, cw := 0, track := 7, slot := 9, kind := 0, rewrites := 0, failed := 0 }
def setT (closed due : Bool) : DataSet := { DataSet.new 1 1 0 [0] closed with reissueDue := due, begun := due }
def withTape (f : TapeSt → TapeSt) (s : State) : State := { s with tape := f s.tape }
def withMot (f : MotSt → MotSt) (s : State) : State := { s with mot := f s.mot }

def header0 : CartHeader := { wraps := 128, lposBegin := 0, lposEnd := 1000000, cartId := 1, gapUm := 0 }

/-- An open set, a pending one and one to re-issue; slots that write, pass and squelch. -/
theorem witness_TapeWriting_sets : (tapeS 1).tape.openOne = none ∧
    (∀ s ∈ [withTape (fun t => { t with sets := [setT false false] }) (tapeS 1)], s.tape.openOne = some (setT false false) ∧
      (setT false false).units ≠ [] ∧ s.tape.hasRoom = true) ∧
    (∀ s ∈ [withTape (fun t => { t with sets := [setT true false] }) ((tapeS 1).wr F.FMT_TSTATUS_PARTITION 1)],
      s.medium.writeFailed = false ∧ s.mot.repos = false ∧ s.mot.stopped = false ∧ s.mot.reading = false ∧ s.tape.rwq = [] ∧
      (∀ d ∈ s.tape.sets, d.reissueDue = false) ∧ s.mot.quiet = none ∧ s.on F.FMT_TSTATUS_WRAP_END = false ∧
      s.tape.sets.find? (fun d => d.closed && !d.begun) = some (setT true false) ∧
      (setT true false).part = s.rd F.FMT_TSTATUS_PARTITION) ∧
    (∀ s ∈ [withMot (fun m => { m with quiet := some 3 }) (withTape (fun t => { t with sets := [setT true true] }) (tapeS 1))],
      s.mot.quiet.isSome = true ∧ s.tape.sets.filter (fun e => e.reissueDue) = [setT true true]) ∧
    (((tapeS 1).wr F.FMT_TSTATUS_WRAP_END 1).on F.FMT_TSTATUS_WRAP_END = true) := by decide +kernel
theorem witness_TapeWriting_slots :
    ({ tapeS 1 with wra := { (tapeS 1).wra with squelchDue := true } } : State).wra.squelchDue = true ∧
    (tapeS 1).wra.squelchDue = false ∧ (tapeS 1).mayWriteTape = true ∧ (tapeS 1).tapeWriting = true ∧
    (tapeS 1).tape.frames = [] ∧ (tapeS 1).mot.quiet = none ∧
    (withTape (fun t => { t with frames := [[copyT]] }) (tapeS 1)).tape.frames = [copyT] :: [] ∧
    (∀ s ∈ [withMot (fun m => { m with ramping := true }) (tapeS 1)], s.mayWriteTape = false ∧ s.tMode = true ∧
      s.mot.moving = true ∧ s.tapeWriting = true) ∧
    (∀ s ∈ [withTape (fun t => { t with awaiting := [copyT] }) (tapeS 1)], s.tape.awaiting = [] ++ copyT :: [] ∧
      copyT.track = (7#6).toNat ∧ copyT.slot = (9#64).toNat) ∧ (tapeS 1).tape.awaiting = [] := by decide +kernel
theorem witness_TapeWriting_stops : (tapeS 0).tapeWriting = false ∧
    fourWithin ((tapeS 1).tape.disturbs ++ [(tapeS 1).firstOpenSet]) = false ∧
    (∀ s ∈ [withMot (fun m => { m with repos := true, phase := .forward }) (tapeS 2)], s.mot.repos = true ∧
      s.mot.phase = .forward ∧ s.mot.reacq = false ∧ s.on F.CTL_TM_STATUS_SETTLED = true ∧
      s.rd F.FMT_TSTATUS_WSTATE = 2 ∧ s.on F.PWR_STATUS_BRACE = false) ∧
    (∀ w ∈ [4, 126], ∀ s ∈ [withTape (fun t => { t with header := some header0 })
        ((((tapeS 1).wr F.FMT_TSTATUS_WRAP_END 1).wr F.FMT_TSTATUS_WRAP w).wr F.FMT_TSTATUS_PARTITION 1)],
      s.tape.header = some header0 ∧ s.rd F.FMT_TSTATUS_WRAP = w ∧ s.on F.FMT_TSTATUS_WRAP_END = true ∧
      s.mot.moving = true ∧ w < 128 - 1 ∧ s.rd F.FMT_TSTATUS_PARTITION ≠ 0 ∧ s.tape.frames = [] ∧ s.tape.awaiting = [] ∧
      s.tape.rwq = [] ∧ s.tape.sets = []) ∧ (tapeS 1).on F.FMT_TSTATUS_WRAP_END = false := by decide +kernel

/-- A step that is to rise, to fall, to stay and to wait; quiet points toward a step and toward a stop. -/
def dwelt (step : Nat) (closed : List Nat) : State :=
  withMot (fun m => { m with sinceChange := 20 }) (withTape (fun t => { t with closedHist := closed })
    ((tapeS 1).wr F.CTL_TM_STATUS_STEP step))
theorem witness_TapeMotion_steps : (dwelt 0 (List.replicate 10 3000)).rd F.CTL_TM_STATUS_STEP <
      (dwelt 0 (List.replicate 10 3000)).wantedStep ∧ (dwelt 5 []).wantedStep < (dwelt 5 []).rd F.CTL_TM_STATUS_STEP ∧
    (dwelt 5 []).mot.moving = true ∧ (dwelt 5 []).mot.quiet = none ∧ (dwelt 5 []).mot.ramping = false ∧
    20 ≤ (dwelt 5 []).mot.sinceChange ∧ (dwelt 0 []).wantedStep = 0 ∧ (tapeS 1).mot.sinceChange < 20 ∧
    (∀ x ∈ [0, 15, 16], ∀ s ∈ [withMot (fun m => { m with quiet := some x }) (tapeS 1)], s.mot.quiet = some x ∧
      s.tape.frames = [] ∧ s.tape.awaiting = [] ∧ s.tape.rwq = [] ∧ s.tape.sets = []) ∧
    (withMot (fun m => { m with ramping := true }) (tapeS 1)).mot.ramping = true ∧ 32 ≤ (tapeS 1).mot.settled ∧
    (tapeS 1).tape.pending = 0 ∧ (tapeS 1).tape.openOne = none ∧ (tapeS 1).mot.stopped = false ∧
    (∀ s ∈ [withMot (fun m => { m with stopped := true }) (withTape (fun t => { t with sets := [setT true false] }) (tapeS 0))],
      s.mot.stopped = true ∧ 0 < s.tape.pending) := by decide +kernel
def servo (ok : Bool) (err : Nat) : ServoIn :=
  { found := ok, half := false, vga := false, sums := [60000#16, 60000#16], nominal := 60000#18, error := BitVec.ofNat 16 err }
theorem witness_TapeMotion_servo : (∀ l ∈ [64, 65, 66, 67], (tapeS 1).servoStatus l (servo true 0) = 0 ∧
      (tapeS 1).servoStatus l (servo false 0) = 1) ∧ frameStatus 0 0 0 0 = 0 ∧ frameStatus 1 1 1 1 = 1 ∧
    (tapeS 1).rd F.CTL_TM_LIMIT_WI_NM < (meanValid [(0, 1000), (0, 1000), (0, 1000), (0, 1000)] : Int).natAbs ∧
    (∀ s ∈ [withMot (fun m => { m with nonValid := 7 }) (tapeS 1)], s.mot.nonValid = 7 ∧ s.tapeActive = true ∧
      s.mot.moving = true ∧ s.mot.reacq = false ∧ s.tape.header = none) ∧ upD.tMode = false := by decide +kernel
theorem witness_TapeMotion_load : (∀ n ∈ [1, 2, 3, 4, 5, 6], ∀ s ∈ [withMot (fun m => { m with
        loadStage := n, lposKnown := true }) { medium mStarting ((tapeS 0).wr F.CTL_TM_STATUS_SERVO_VALID 1) with
        medium := { ready.medium with state := mStarting, func := 1 } }],
      s.medium.state = mStarting ∧ s.medium.func = 1 ∧ s.tMode = true ∧ s.medium.stopAfter = false ∧ s.mot.loadStage = n ∧
      s.on F.CTL_TM_STATUS_SERVO_VALID = true ∧ s.mot.lposKnown = true ∧ s.tape.header = none) ∧
    (∀ s ∈ [withTape (fun t => { t with stopStage := 3 }) { tapeS 0 with
        medium := { ready.medium with state := mStopping, func := 2 } }], s.tMode = true ∧ s.medium.state = mStopping ∧
      s.medium.func = 2 ∧ s.tape.stopStage = 3 ∧ s.host.evtFifo.length < 4095) := by decide +kernel

/-- An active tape and one at rest; attempts at reacquisition before and at the third, with 32 VALID frames and without. -/
theorem witness_TapeFaults : (tapeS 1).tapeActive = true ∧ (tapeS 1).mot.moving = true ∧ (tapeS 1).mot.reacq = false ∧
    upT.tapeActive = false ∧ (tapeS 0).tapeWriting = false ∧ ((tapeS 0).wr F.CTL_TM_STATUS_MODE 1).rd F.CTL_TM_STATUS_MODE = 1 ∧
    (∀ n ∈ [0, 1, 2], ∀ v ∈ [31, 32], ∀ s ∈ [withMot (fun m => { m with
        reacq := true, reacqTries := n, validRun := v, phase := .forward }) (tapeS 0)],
      s.mot.reacq = true ∧ s.mot.reacqTries + 1 = n + 1 ∧ s.mot.phase = .forward ∧ s.mot.validRun = v ∧
      s.mot.repos = false) := by decide +kernel

/-- A disk of four heads with a landing ring of 100 positions on each surface. -/
def diskS : State :=
  let s := (keyedD.wr F.CTL_DK_STATUS_PERMIT 3).wr F.WRA_STATUS_DSYNTH_LOCK 15
  { s with disk := { DiskSt.init with
      heads := 4, formatted := true, zoneCount := 4, zonesPerSurface := 1
      zones := [(0, { Zone.init with state := zFilling })]
      rings := (List.range 4).map (fun h => (h, { Ring.init with size := 100 }))
      bands := [{ surface := 0, band := 0, firstTrack := 0, rate := 2000000, d := 40000 }] } }
def wroteD (waits : Nat) (copies : List Landing) : Cmd :=
  { cmd 0 s0 .started (openF 8 1) with units := [0], copies := copies, waits := waits }
def land (h : Nat) (w : Bool) : Landing := { place := h, pos := 0, len := 1, written := w }
theorem witness_DiskPlaces_copies : (∀ c ∈ [wroteD 0 [land 0 false, land 2 true]], ∀ s ∈ [holding c diskS],
      s.cmdOf s0 = some c ∧ s.inGroup = false ∧ (∃ l ∈ c.copies, l.place = (0#5).toNat ∧ l.written = false) ∧
      (s.sq.cmds.map Cmd.uid).Nodup ∧ s.surfOk 0 = true ∧
      c.units.length ≤ ((s.ring 0).release (fun p => p.uid = c.uid)).free ∧ s.faultsOn c.uid 0 = 0 ∧
      s.disk.copyFaults = [] ∧ (c.copies.filter (fun l => l.place != 0)).length = 1) ∧
    (∀ c ∈ [wroteD 2 []], ∀ s ∈ [holding c diskS], s.cmdOf s0 = some c ∧ c.waits = 2 ∧ s.cmdByUid c.uid = some c ∧
      s.pickSurface c.uid [] 1 = some 0 ∧ s.pickSurface c.uid [0] 1 = some 2 ∧ 1 ≤ (s.ring 0).free ∧ 1 ≤ (s.ring 2).free) ∧
    (∀ c ∈ [wroteD 2 []], (holding c keyedD).pickSurface c.uid [] c.units.length = none) := by decide +kernel
theorem witness_DiskPlaces_room : RoomFor (wroteD 2 []) (holding (wroteD 2 []) keyedD) := room (by decide +kernel)
theorem witness_DiskPlaces_group : ∀ s ∈ [{ lead0 with red := { lead0.red with remote := [{ copy0 true with surface := some 2 }] } }],
    s.inGroup = true ∧ s.red.remote.find? (fun c => c.stream = (Src.slot 3#20).stream && c.surface = some (2#5).toNat &&
      !c.written) = some { copy0 true with surface := some 2 } := by decide +kernel
theorem witness_DiskPlaces_destage : ∀ s ∈ [{ diskS with disk := { diskS.disk with destage := [0] } }],
    s.dMode = true ∧ s.medium.state = mReady ∧ s.surfOk 0 = true ∧ s.paused = false ∧ s.disk.destage ≠ [] ∧
    s.fillZone 0 = some 0 := by decide +kernel
theorem witness_DiskPlaces_zones : (∀ s ∈ [{ diskS with disk := { diskS.disk with
        destage := [0], zoneCount := 0, zones := [], cleaning := [{ zone := 0, relocated := 0, lastMove := 0 }] } }],
      s.fillZone 0 = none ∧ s.anySpace = false ∧ s.surfOk 0 = true) ∧
    (∀ r ∈ [true, false], ∀ s ∈ [{ holding { media 4 1 with stage := .started } diskS with disk := { diskS.disk with
        zones := [(1, { Zone.init with state := zCleaning, retire := r })]
        cleaning := [{ zone := 1, relocated := 3, lastMove := 0 }] } }],
      s.disk.cleaning.find? (fun e => e.zone = (1#20).toNat) = some { zone := 1, relocated := 3, lastMove := 0 } ∧
      s.medium.state = mReady ∧ s.liveIn 1 = [] ∧ (∀ c ∈ s.sq.cmds, c.frame.opcode ≠ 0x10) ∧ (s.zone 1).retire = r ∧
      s.cleanCmds 1 = [{ media 4 1 with stage := .started }]) ∧
    (filledD.liveIn 0 ≠ []) ∧ diskS.disk.formatted = true ∧ upD.disk.formatted = false := by decide +kernel

/-! ## Witnesses: detection, write path, control -/

/-- A job of a lane and a class, and a T-mode detector with cells in and out of service. -/
def job (cls : SClass) (t : Target) (step : Nat) : Job :=
  { id := 0, lane := 7, cls := cls, target := t, since := 0, spilled := false, delta := 0, drop := none, asperity := false
    step := step, promoted := false, cands := [], probing := false, weight := 64, average := 1, erase := false }
def withDet (f : DetSt → DetSt) (s : State) : State := { s with det := f s.det }
def cellJ (j : Option Job) (kat first due : Bool) : Cell :=
  { job := j, limit := 3, sinceKat := 0, katDue := due, katFirst := first, kat := kat }
def cellsS (wstate : Nat) : State := (tapeS wstate).wr F.DET_CELL_MAP_IN_SERVICE 0xFFFFFF
def noMark : MarkScan := { a := [], b := [], frag := none, replayed := false }
def synced : MarkScan := { noMark with a := List.replicate 16 false ++ syncMark }
def marked : MarkScan := { noMark with a := List.replicate 16 false ++ markA, b := List.replicate 16 false ++ markB }

/-- Codewords of a verify copy with and without the sync mark, of a sector with both marks and with none. -/
theorem witness_Codewords_complete : (∀ s ∈ [withTape (fun t => { t with awaiting := [copyT] }) (tapeS 1)],
      s.targetOf 7 (.verify 9#64) = some (.verify copyT) ∧ s.headBarred 7 (.verify copyT) = false ∧
      (s.lane 7).ring + sampleBytes 7 ≤ ringBytes 7 ∧ s.tapeMark noMark = .neither) ∧
    (tapeS 1).targetOf 7 (.verify 9#64) = none ∧
    diskS.targetOf 68 (.landing 0#5 3#32) = some (.landing 0 3) ∧ diskS.headBarred 68 (.landing 0 3) = true ∧
    (∀ s ∈ [diskS.wr F.DET_CELL_MAP_IN_SERVICE 0xFFFFFF],
      s.targetOf 68 (.landing 0#5 3#32) = some (.landing 0 3) ∧ s.headBarred 68 (.landing 0 3) = false ∧
      (s.lane 68).ring + sampleBytes 68 ≤ ringBytes 68 ∧ (s.diskMarks 1 noMark).frame 0 = none ∧
      4 ≤ s.rd F.LANE_RETRY_CFG_LAST_STEP ∧ s.targetOf 68 (.verify 0#64) = none) ∧
    (∀ s ∈ [withDet (fun d => { d with ladders := [job .retry (.landing 0 3) 4] }) diskS],
      s.det.ladders.find? (fun j => j.target = .landing 0 3) = some (job .retry (.landing 0 3) 4)) := by decide +kernel
theorem witness_Codewords_marks : (withTape (fun t => { t with awaiting := [copyT] }) (tapeS 1)).tapeMark
      { synced with a := List.replicate ((tapeS 1).rd F.LANE_SYNC_CFG_WIN_T) false ++ syncMark } ≠ .neither ∧
    (diskS.diskMarks 1 { marked with
      a := List.replicate (diskS.rd F.LANE_SYNC_CFG_WIN_D) false ++ markA
      b := List.replicate (diskS.rd F.LANE_SYNC_CFG_WIN_D) false ++ markB }).frame 0 = some 0 := by decide +kernel

/-- Re-reads of a set that ends and goes on; cells that are off, busy, free, due and due first. -/
theorem witness_Codewords_cells : (∀ s ∈ [withTape (fun t => { t with rereads := [(1 + 2 ^ 32, 0, 2 ^ 17 - 1)] }) (cellsS 0)],
      s.tape.rereads.find? (fun r => r.1 = (1#32).toNat + b2n true * 2 ^ 32) = some (1 + 2 ^ 32, 0, 2 ^ 17 - 1) ∧
      16 < popCount 192 (2 ^ 17 - 1) ∧ popCount 192 (Nat.lor (2 ^ 17 - 1) 0) ≠ 192 ∧
      popCount 192 (Nat.lor 0 (2 ^ 192 - 1)) = 192 ∧ popCount 192 0 ≤ 16) ∧
    (cellsS 0).tape.rereads = [] ∧
    (∀ s ∈ [withDet (fun d => { d with cells := [(0, cellJ none false false true)] }) (cellsS 0)], s.cellOn 0 = true ∧
      (s.cell 0).job = none ∧ (s.cell 0).kat = false ∧ (s.cell 0).katFirst = false ∧ (s.cell 0).katDue = true ∧
      s.freeCell = some 0 ∧ s.det.restart = [] ∧ earliest s.det.waiting = none) ∧
    (withDet (fun d => { d with cells := [(0, cellJ none false true true)] }) (cellsS 0)).cell 0 = cellJ none false true true ∧
    (∀ s ∈ [withDet (fun d => { d with restart := [job .read (.tapeRead 1 1 0) 0] }) (cellsS 0)],
      s.det.restart = job .read (.tapeRead 1 1 0) 0 :: [] ∧ s.freeCell = some 0) ∧
    (∀ s ∈ [withDet (fun d => { d with waiting := [job .verify (.verify copyT) 0] }) (cellsS 1)],
      earliest s.det.waiting = some (job .verify (.verify copyT) 0) ∧ (400#64).toNat ≤ 0 + 400) ∧
    (∀ s ∈ [withDet (fun d => { d with waiting := [job .read (.tapeRead 1 1 0) 0] }) (cellsS 0)],
      s.nextOther = some (job .read (.tapeRead 1 1 0) 0) ∧ earliest s.det.waiting = none ∧
      (0#64).toNat - 0 < s.rd F.DET_CFG_AGE_US) ∧
    (cellsS 0).cellOn 24 = false ∧ (cellsS 0).spareCells = [24, 25] := by decide +kernel
theorem witness_Codewords_ends : (∀ s ∈ [withDet (fun d => { d with cells := [(0, cellJ none true false false)] }) (cellsS 0)],
      (s.cell 0).job = none ∧ (s.cell 0).kat = true) ∧
    (∀ p ∈ [true, false], ∀ s ∈ [withDet (fun d => { d with
        cells := [(0, cellJ (some { job .verify (.verify copyT) 0 with probing := p }) false false false)] }) (cellsS 1)],
      (s.cell 0).job = some { job .verify (.verify copyT) 0 with probing := p } ∧ s.cellOn 0 = true) ∧
    servoLane 67 = none ∧ servoLane 69 = none ∧ servoLane 68 = some 0 ∧ servoLane 74 = some 1 ∧ diskS.dMode = true ∧
    bitAt (diskS.rd F.CTL_DK_STATUS_RETRACTED) 0 = true ∧
    bitAt ((diskS.wr F.CTL_DK_STATUS_RETRACTED 0).rd F.CTL_DK_STATUS_RETRACTED) 0 = false := by decide +kernel

/-- Responses with a bad and a good CRC, with and without faults; the bus before and at its limits. -/
def pacS (flt reps resets : Nat) : State :=
  { diskS.wr F.WRA_STATUS_FLT flt with wra := { diskS.wra with
      acts := [(0, { ActWra.init with repeats := reps, resets := resets, wantStatus := true })] } }
theorem witness_WriteAssist_bus : frameOk 1 = false ∧
    (∀ d ∈ [0, 2, 16], frameOk (pacFrame 8 0 0 d) = true ∧ pacFrame 8 0 0 d / 2 ^ 28 = 8 ∧
      bits (pacFrame 8 0 0 d) 8 15 = d ∧ bitAt d 7 = false) ∧ frameOk (pacFrame 3 0 0 0) = true ∧
    pacFrame 3 0 0 0 / 2 ^ 28 ≠ 8 ∧ bits 0 0 7 = 0 ∧ bitAt 2 1 = true ∧ bitAt 16 4 = true ∧
    (∀ f ∈ [0, 1], bitAt ((pacS f 0 0).rd F.WRA_STATUS_FLT) 0 = (f = 1)) ∧
    ((pacS 0 0 0).actWra 0).repeats < (pacS 0 0 0).rd F.WRA_D_CFG_PAC_RETRY ∧
    (pacS 0 9 2).rd F.WRA_D_CFG_PAC_RETRY ≤ ((pacS 0 9 2).actWra 0).repeats ∧ ((pacS 0 9 2).actWra 0).resets = 2 ∧
    ((pacS 0 9 3).actWra 0).resets = 3 ∧ ((pacS 0 0 0).actWra 0).allOpen = false ∧
    (pacS 0 0 0).headAt 0 0 < (pacS 0 0 0).disk.heads ∧ (pacS 0 0 0).headOk 0 = true ∧ upT.dMode = false := by
  decide +kernel
def fieldW (head : Nat) : FieldWrite :=
  { head := BitVec.ofNat 5 head, track := 0#24, first := 0#12, count := 0#12, zone := none, pos := 0#32, start := true
    stop := false }
theorem witness_WriteAssist_fields : (∀ s ∈ [diskS], s.dMode = true ∧ s.medium.state = mReady ∧ (639#10).toNat < 640 ∧
      (s.actWra 0).field = none ∧ s.on F.PWR_STATUS_BRACE = false ∧ bitAt (s.rd F.WRA_STATUS_FLT) 0 = false ∧
      (s.actWra 0).barred = false ∧ bitAt (s.rd F.CTL_DK_STATUS_PERMIT) 0 = true ∧
      s.mayWriteChan 0 0 (fieldW 0) = true ∧ s.surfOk 0 = true ∧ (s.chan 0).writing = false) ∧
    bitAt ((diskS.wr F.CTL_DK_STATUS_PERMIT 0).rd F.CTL_DK_STATUS_PERMIT) 0 = false ∧
    (diskS.wr F.WRA_STATUS_DSYNTH_LOCK 0).mayWriteChan 0 0 (fieldW 0) = false ∧
    ({ ActWra.init with field := some 0 } : ActWra).field ≠ none ∧
    ((diskS.wri F.WRA_PROF_A_KIND 0 1).kindOf 0 ≠ 0) ∧ diskS.kindOf 0 = 0 ∧ (0 : Nat) < diskS.disk.heads ∧
    (tapeS 1).tapeWriting = true ∧ bitAt ((diskS.wr F.WRA_STATUS_CH_ARMED 1).rd F.WRA_STATUS_CH_ARMED) 0 = true := by
  decide +kernel

/-- Slots by role and by time of the last sample, with wedge records taken and fresh. -/
def slotS (n role count : Nat) (last : Option Nat) (s : State) : State :=
  let s := ((s.wri F.CTL_SLOT_CFG_ROLE n role).wri F.CTL_SLOT_CFG_EN n 1).wri F.CTL_SLOT_STATUS_COUNT n count
  { s with ctl := { s.ctl with slots := [(n, { SlotSt.init with last := last, ferrNs := 1 })] } }
def wrec0 (taken : Nat) : WedgeRec := { status := 0, track := 0, pes := 0, sam := 0, time := 1000, taken := taken }
def actS (f : ActSt → ActSt) (s : State) : State := { s with ctl := { s.ctl with acts := [(0, f ActSt.init)] } }
theorem witness_Speedwell_samples : (∀ k ∈ [0, 1], ∀ s ∈ [actS (fun a => { a with wrec := some (wrec0 k) })
        (slotS 0 1 0 (some 808) diskS)], s.slotOn 0 = true ∧ s.sourceAct 0 = some 0 ∧ (s.act 0).wrec = some (wrec0 k) ∧
      bitAt (wrec0 k).taken 0 = decide (k = 1) ∧ (∀ t ∈ (s.slotOf 0).last, t + 192 ≤ (wrec0 k).time)) ∧
    (∀ s ∈ [slotS 1 6 0 (some 808) keyedT], s.slotOn 1 = true ∧ s.sourceAct 1 = none ∧ s.rdi F.CTL_SLOT_CFG_ROLE 1 = 6 ∧
      (s.slotOf 1).last = some 808 ∧ (999#64).toNat < 808 + 192 ∧ 808 + 192 ≤ (1000#64).toNat) ∧
    (slotS 0 5 0 none keyedT).rdi F.CTL_SLOT_CFG_ROLE 0 = 5 ∧ diskS.slotOn 0 = false ∧
    diskS.rdi F.CTL_SLOT_CFG_ROLE 0 ≠ 4 ∧ (slotS 5 4 0 none diskS).sourceAct 5 = none ∧
    (∀ s ∈ [(slotS 0 1 0 (some 0) diskS).wri F.CTL_SLOT_PERIOD_PERIOD_NS 0 320], countsRole 1 = true ∧
      s.rdi F.CTL_SLOT_PERIOD_PERIOD_NS 0 ≠ 0 ∧ ((191#64).toNat - 0) * 5 < 3 * s.rdi F.CTL_SLOT_PERIOD_PERIOD_NS 0 ∧
      3 * s.rdi F.CTL_SLOT_PERIOD_PERIOD_NS 0 ≤ ((192#64).toNat - 0) * 5) := by decide +kernel
theorem witness_Speedwell_losses : (∀ s ∈ [slotS 0 1 2 none diskS], s.rdi F.CTL_SLOT_STATUS_COUNT 0 = 2 ∧ s.slotOn 0 = true ∧
      (s.act 0).reload ≠ 2 ∧ s.host.evtFifo.length < 4095) ∧
    (∀ s ∈ [slotS 0 1 7 none diskS], s.rdi F.CTL_SLOT_STATUS_COUNT (vcSlot 0) = 7 ∧
      s.rdi F.CTL_SLOT_CFG_ROLE (vcSlot 0) = 1 ∧ s.slotOn (vcSlot 0) = true) ∧
    diskS.rdi F.CTL_SLOT_STATUS_COUNT 0 ≠ 2 ∧
    (∀ s ∈ [(slotS 0 1 0 none diskS).wri F.CTL_SLOT_FERR_TIME_TIME_US 0 5], s.rdi F.CTL_SLOT_FERR_TIME_TIME_US 0 ≠ 0 ∧
      0 < (s.slotOf 0).ferrNs) ∧ (slotS 11 8 0 none keyedT).rdi F.CTL_SLOT_CFG_ROLE 11 ≠ 0 ∧ up.barsUp false = true := by
  decide +kernel

/-- A retracted actuator that waits and acquires, with attempts and wedges at their limits; a seek; the spindle's states. -/
def spin (n : Nat) (s : State) : State := { s with ctl := { s.ctl with spindle := n } }
theorem witness_Speedwell_motion : (∀ s ∈ [spin 3 (actS (fun a => { a with reload := 1 }) diskS)], s.dMode = true ∧
      (s.act 0).reload = 1 ∧ s.ctl.spindle = 3 ∧ bitAt (s.rd F.FMT_HEAD_FAILED_ACTUATORS) 0 = false ∧
      s.on F.PWR_STATUS_BRACE = false) ∧
    (∀ v ∈ [31, 32], ∀ k ∈ [2, 3], ∀ s ∈ [actS (fun a => { a with reload := 2, validRun := v, attempts := k }) diskS],
      (s.act 0).reload = 2 ∧ (s.act 0).validRun = v ∧ (s.act 0).attempts = k) ∧
    (∀ s ∈ [spin 3 (diskS.wr F.CTL_DK_STATUS_RETRACTED 0)], bitAt (s.rd F.CTL_DK_STATUS_RETRACTED) 0 = false ∧
      (s.act 0).reload = 0 ∧ s.surfOk 0 = true ∧ s.actOf 0 = 0 ∧ (s.act 0).seek = none) ∧
    (∀ n ∈ [1, 2, 3], (spin n diskS).ctl.spindle = n) ∧ (spin 2 diskS).surfaces 0 ≠ [] ∧
    (∀ s ∈ [spin 2 { diskS with medium := { ready.medium with state := mStarting, func := 1 } }],
      s.medium.state = mStarting ∧ s.medium.func = 1 ∧ s.medium.stopAfter = false) := by decide +kernel

/-- Answers of the motor driver that check and that do not, to the current, speed and status reads. -/
theorem witness_Speedwell_driver : (∀ c ∈ [0, 1, 6], ∀ d ∈ [0, 1, 0xFFFFF], bits (mdrvFrame c d) 28 4 = c ∧
      bits (mdrvFrame c d) 8 20 = d ∧ mdrvFrame c d < 2 ^ 32) ∧ (1#32).toNat ≠ mdrvFrame 0 0 ∧
    ((slotS 0 1 0 none diskS).wri F.CTL_SLOT_CFG_LANE 0 4).slotOfLane 4 = some 0 ∧
    (up.wr F.CTL_MDRV_STATUS_FLT_N 0).on F.CTL_MDRV_STATUS_FLT_N = false ∧
    (up.wr F.CTL_MDRV_STATUS_FLT_N 1).on F.CTL_MDRV_STATUS_FLT_N = true ∧ (4#3).toNat < 5 ∧ 5 ≤ (5#3).toNat := by
  decide +kernel

/-! ## Known answers -/

/-- The bytes of "123456789". -/
def digits9 : List Byte := [0x31#8, 0x32#8, 0x33#8, 0x34#8, 0x35#8, 0x36#8, 0x37#8, 0x38#8, 0x39#8]

/-- The catalogued check values of the codes that the spec names. -/
theorem test_crc_check_values : crc64 digits9 = 0x6C40DF5F0B497347 ∧ crc32c digits9 = 0xE3069283 ∧
    crc24 digits9 = 0x21CF02 ∧ crc16 digits9 = 0x29B1 ∧ crc8 digits9 = 0xF4 := by decide +kernel

/-- The AES-256 example of FIPS 197, appendix C.3, both ways. -/
def fipsKey : List Nat := List.range 32
def fipsPlain : List Nat := (List.range 16).map (fun i => 17 * i)
def fipsCipher : List Nat :=
  [0x8E, 0xA2, 0xB7, 0xCA, 0x51, 0x67, 0x45, 0xBF, 0xEA, 0xFC, 0x49, 0x90, 0x4B, 0x49, 0x60, 0x89]
theorem test_aes256_encrypts : aesEncrypt (aesRoundKeys fipsKey) fipsPlain = fipsCipher := by decide +kernel
theorem test_aes256_decrypts : aesDecrypt (aesRoundKeys fipsKey) fipsCipher = fipsPlain := by decide +kernel

/-- The table's entries are the field inverse under the affine map. -/
theorem test_sbox : ∀ a ∈ [0, 1, 0x53, 0xFF], subByte a = aesSbox a ∧ invSubByte (subByte a) = a := by decide +kernel

/-- SHA-384 of "abc" (FIPS 180-4). -/
theorem test_sha384_abc : sha384 [0x61#8, 0x62#8, 0x63#8] =
    0xcb00753f45a35e8bb5a03d699ac65007272c32ab0eded1631a8b605a43ff5bed8086072ba1e7cc2358baeca134c825a7 := by decide +kernel

/-- No row of the table spells a command in bits. -/
theorem test_no_table_word : Sys2Proof.decodeTableWord 32 0 = none ∧ up.withFetchWord 32 0 = up := by decide +kernel

end Sys2Proof.Tests
end

namespace Sys2Proof.Machine

/-! ## The state after reset -/

/-- With empty tables every field reads its reset value. -/
theorem State.fget_reset (f : Field) (i j : Nat) : State.reset.fget f i j = f.resetAt i j := by
  unfold State.fget
  cases f.dom <;> rfl

theorem Regs.ok_init : Regs.init.ok := fun d p hp => by cases d <;> cases hp

theorem State.inv_reset : State.reset.Inv where
  uids := ⟨.nil, fun _ hc => nomatch hc⟩
  evt := ⟨by decide, by decide, by decide⟩
  regs := Regs.ok_init
  mem := ⟨rfl, rfl, rfl⟩
  nor := rfl

/-- Settles O4. -/
theorem resetMeetsInvariants : Obligations.ResetMeetsInvariants :=
  ⟨State.inv_reset, rfl, rfl, rfl, State.fget_reset⟩

end Sys2Proof.Machine

namespace Sys2Proof.Machine

/-! ## Fields written one after the other -/

/-- Every field of the map outside `w` reads the same in both states. -/
def SameFieldsBut (w : List Field) (s t : State) : Prop :=
  ∀ f ∈ allFields, f ∉ w → ∀ i j, t.fget f i j = s.fget f i j

namespace SameFieldsBut

variable {w : List Field} {s t u : State}

theorem refl (s : State) : SameFieldsBut w s s := fun _ _ _ _ _ => rfl

theorem trans (h : SameFieldsBut w s t) (h' : SameFieldsBut w t u) : SameFieldsBut w s u :=
  fun f hf hw i j => (h' f hf hw i j).trans (h f hf hw i j)

/-- A write of a field of `w` leaves every other field of the map alone. -/
theorem fset {g : Field} {i j v : Nat} (hm : w ⊆ allFields) (hg : g ∈ w) (h : SameFieldsBut w s t) :
    SameFieldsBut w s (t.fset g i j v) := by
  refine h.trans fun f hf hw k l => State.fget_fset_other t i j v k l fun hp => hw ?_
  rwa [Field.place_inj hf (hm hg) hp]

end SameFieldsBut

/-- The fields of GLB in which the device records an access that it does not accept (Table 18-2). -/
def accessFields : List Field := [F.GLB_ACCESS_ERR_SIZE, F.GLB_ACCESS_ADDR_OFFSET, F.GLB_ACCESS_ADDR_PORT]

/-- The fields that the resets and the bad accesses write. -/
def recordFields : List Field :=
  causeFields ++ lockFields ++ linkFields ++ accessFields ++ [F.HIF_ERR_STATUS_BAR4_ACCESS]

set_option maxRecDepth 100000 in
theorem recordFields_mem : ∀ f ∈ recordFields, f ∈ allFields := by decide +kernel

theorem sub_allFields {w : List Field} (h : ∀ f ∈ w, f ∈ recordFields) : w ⊆ allFields := fun f hf =>
  recordFields_mem f (h f hf)

/-! ## Accesses that the device does not accept (R5) -/

namespace State

variable (s : State) (port : Bool) (off : Nat)

/-- A recorded access sets its one-bit field, whatever the field held. -/
theorem rd_accessErr_bit {f : Field} (hw : f.w = 1) (h1 : f.place ≠ F.GLB_ACCESS_ADDR_OFFSET.place)
    (h2 : f.place ≠ F.GLB_ACCESS_ADDR_PORT.place) : (s.accessErr f port off).rd f = 1 := by
  unfold accessErr rd wr
  rw [fget_fset_other _ _ _ _ _ _ h2, fget_fset_other _ _ _ _ _ _ h1, fget_fset_same, hw]
  rfl

theorem rd_accessErr_offset (f : Field) (h : off < 2 ^ 26) : (s.accessErr f port off).rd F.GLB_ACCESS_ADDR_OFFSET = off := by
  unfold accessErr rd wr
  rw [fget_fset_other _ _ _ _ _ _ (by decide), fget_fset_same]
  exact Nat.mod_eq_of_lt h

theorem rd_accessErr_port (f : Field) : (s.accessErr f port off).rd F.GLB_ACCESS_ADDR_PORT = b2n port := by
  unfold accessErr rd wr
  rw [fget_fset_same]
  cases port <;> rfl

/-- A recorded access writes registers of block GLB alone. -/
theorem fget_accessErr_block {f g : Field} (hf : f.block = 0) (hg : g.block ≠ 0) (i j : Nat) :
    (s.accessErr f port off).fget g i j = s.fget g i j := by
  have hne : ∀ h : Field, h.block = 0 → g.place ≠ h.place := fun h hb hp => hg ((Field.block_place hp).trans hb)
  unfold accessErr
  rw [fget_fset_other _ _ _ _ _ _ (hne _ rfl), fget_fset_other _ _ _ _ _ _ (hne _ rfl),
    fget_fset_other _ _ _ _ _ _ (hne _ hf)]

/-- An access of another size or alignment is recorded in its own fields alone. -/
theorem accessErr_sameFieldsBut : SameFieldsBut accessFields s (s.accessErr F.GLB_ACCESS_ERR_SIZE port off) :=
  have hm : accessFields ⊆ allFields := sub_allFields (by decide)
  .fset hm (by decide) <| .fset hm (by decide) <| .fset hm (by decide) <| .refl s

end State

/-- An access that is not accepted is answered: a read with all ones, a write with nothing (R5, R57). -/
def State.answered (s : State) (port write : Bool) : State :=
  if write then s else s.emit (.readData (Req.ofPort port) 0xFFFFFFFF)

namespace State

variable (s : State) (port write : Bool)

theorem answered_out : (s.answered port write).out =
    if write then s.out else .readData (Req.ofPort port) 0xFFFFFFFF :: s.out := by
  cases write <;> rfl

@[simp] theorem fget_answered (f : Field) (i j : Nat) : (s.answered port write).fget f i j = s.fget f i j := by
  cases write <;> rfl

theorem badBar4_eq : s.badBar4 port write = (s.wr F.HIF_ERR_STATUS_BAR4_ACCESS 1).answered port write := rfl

end State

theorem exec_bar0BadAccess {s : State} {port : Bool} (write : Bool) (off : BitVec 26) (hb : s.barsUp port = true) :
    exec (.bar0BadAccess port write off) s =
      .next ((s.accessErr F.GLB_ACCESS_ERR_SIZE port off.toNat).answered port write) := by
  change execBar0BadAccess port write off s = _
  simp only [execBar0BadAccess, hb, Bool.not_true, Bool.false_eq_true, if_false, State.answered]

theorem exec_bar4BadAccess {s : State} {port : Bool} (write : Bool) (hb : s.barsUp port = true) :
    exec (.bar4BadAccess port write) s = .next (s.badBar4 port write) := by
  change execBar4BadAccess port write s = _
  simp only [execBar4BadAccess, hb, if_true]

theorem exec_regWrite_misaligned {s : State} {port : Bool} {off : BitVec 26} (v : Word) (hb : s.barsUp port = true)
    (ho : off.toNat % 4 ≠ 0) :
    exec (.regWrite port off v) s = .next (s.accessErr F.GLB_ACCESS_ERR_SIZE port off.toNat) := by
  change execRegWrite port off v s = _
  simp only [execRegWrite, hb, Bool.not_true, Bool.false_eq_true, if_false, bne_iff_ne, ne_eq, ho, not_false_eq_true, if_true]

/-- The frame of a command whose next state is known. -/
theorem only_of_exec {L : List Part} {c : Instr} {s t : State} (ht : exec c s = .next t)
    (h : Only.Out L s (exec c s)) : Only L s t := by
  obtain ⟨u, hu, hL⟩ := h
  rw [ht] at hu
  cases hu
  exact hL

/-- Settles O13: each of the three accesses is the record of it in GLB or HIF, and the answer of all ones to a read. -/
theorem badAccesses : Obligations.BadAccesses := by
  intro s port write off v hb
  have hsize := s.rd_accessErr_bit port off.toNat (f := F.GLB_ACCESS_ERR_SIZE) rfl (by decide) (by decide)
  have hoff := s.rd_accessErr_offset port off.toNat F.GLB_ACCESS_ERR_SIZE off.isLt
  have hport := s.rd_accessErr_port port off.toNat F.GLB_ACCESS_ERR_SIZE
  refine ⟨⟨_, exec_bar0BadAccess write off hb, ?_, ?_, ?_, ?_, ?_, ?_⟩, ⟨_, exec_bar4BadAccess write hb, ?_, ?_, ?_, ?_⟩,
    fun ho => ⟨_, exec_regWrite_misaligned v hb ho, hsize, hoff, State.accessErr_only (by decide) (.refl s)⟩⟩
  · exact State.answered_out _ port write
  · rwa [State.rd, State.fget_answered]
  · rwa [State.rd, State.fget_answered]
  · rwa [State.rd, State.fget_answered]
  · exact only_of_exec (exec_bar0BadAccess write off hb) (execBar0BadAccess_only (by decide) (.refl s))
  · intro f hf hw i j
    rw [State.fget_answered]
    exact s.accessErr_sameFieldsBut port off.toNat f hf hw i j
  · exact State.answered_out _ port write
  · rw [State.badBar4_eq, State.rd, State.fget_answered, State.fget_fset_same]
    rfl
  · exact only_of_exec (exec_bar4BadAccess write hb) (execBar4BadAccess_only (by decide) (.refl s))
  · intro f hf hne i j
    rw [State.badBar4_eq, State.fget_answered]
    exact SameFieldsBut.fset (sub_allFields (by decide)) (List.mem_singleton_self _) (.refl s) f hf
      (by simpa using hne) i j

end Sys2Proof.Machine

namespace Sys2Proof.Machine

/-! ## The registers after a reset (R9, R458) -/

/-- Where the table of a domain has been emptied, its fields read their reset values and the others what they read. -/
theorem State.fget_of_emptied {s t : State} {d : Domain} (h : t.regs = s.regs.setDom d []) (f : Field) (i j : Nat) :
    t.fget f i j = if f.dom = d then f.resetAt i j else s.fget f i j := by
  unfold State.fget
  rw [h]
  split
  · next hd => rw [hd, Regs.dom_setDom_same, Store.get_nil]
  · next hd => rw [Regs.dom_setDom_other _ _ _ _ hd]

namespace ResetOf

variable {p : Domain → Bool} {w w' : List Field} {s t u : State}

/-- After a reset the fields of `w` may be written. -/
theorem but (h : ResetOf p w s t) (h' : SameFieldsBut w' t u) : ResetOf p (w' ++ w) s u := fun f hf hw i j => by
  simp only [List.mem_append, not_or] at hw
  rw [h' f hf hw.1, h f hf hw.2]

/-- What a reset has done to the registers stands over a change of other parts. -/
theorem of_regs (h : ResetOf p w s t) (hr : u.regs = t.regs) : ResetOf p w s u := fun f hf hw i j => by
  rw [State.fget, hr]
  exact h f hf hw i j

/-- A further domain emptied: what `q` holds for is what `p` held for and the domain `d`, and a field of `d` needs no
exception any longer. -/
theorem emptied (d : Domain) {q : Domain → Bool} (h : ResetOf p w s t) (he : u.regs = t.regs.setDom d [])
    (hq : ∀ e, q e = (e == d || p e)) (hw : ∀ f ∈ w, f.dom = d ∨ f ∈ w') : ResetOf q w' s u := fun f hf hn i j => by
  rw [State.fget_of_emptied he, hq]
  by_cases hd : f.dom = d
  · simp [hd]
  · rw [h f hf fun hm => (hw f hm).elim hd hn]
    simp [hd]

end ResetOf

namespace State

variable (s : State)

theorem resetCause_sameFieldsBut (n : Nat) : SameFieldsBut causeFields s (s.resetCause n) :=
  have hm : causeFields ⊆ allFields := sub_allFields (by decide)
  .fset hm (by decide) <| .fset hm (by decide) fun _ _ _ _ _ => rfl

/-- The cause of a reset is recorded on top of what the reset leaves. -/
theorem resetOf_resetCause {p : Domain → Bool} {w : List Field} {t : State} (h : ResetOf p w s t) (n : Nat) :
    ResetOf p (causeFields ++ w) s (t.resetCause n) := h.but (t.resetCause_sameFieldsBut n)

theorem resetOf_resetWarm : ResetOf (fun d => d == .warm) [] s s.resetWarm :=
  ResetOf.emptied .warm (p := fun _ => false) (w := []) (fun _ _ _ _ _ => rfl) rfl (fun e => by cases e <;> rfl) (by simp)

/-- The sensors that need the core and the locks of the PLLs, taken back by a power-on reset (R379, R389). -/
def unlock : State :=
  let t := [1, 10, 11].foldl (fun t n => t.wri F.THM_TEMP_VALID n 0) s
  ((t.wr F.CLK_STATUS_ROOT_LOCK 0).wr F.CLK_STATUS_PCIE_LOCK 0).wr F.CLK_STATUS_EPL_LOCK 0

theorem unlock_sameFieldsBut : SameFieldsBut lockFields s s.unlock :=
  have hm : lockFields ⊆ allFields := sub_allFields (by decide)
  .fset hm (by decide) <| .fset hm (by decide) <| .fset hm (by decide) <| .fset hm (by decide) <|
    .fset hm (by decide) <| .fset hm (by decide) <| .refl s

theorem resetPor_regs : s.resetPor.regs = s.resetWarm.unlock.regs.setDom .por [] := rfl

theorem resetOf_resetPor : ResetOf (fun d => d != .aon) lockFields s s.resetPor :=
  (s.resetOf_resetWarm.but s.resetWarm.unlock_sameFieldsBut).emptied .por s.resetPor_regs (fun e => by cases e <;> rfl)
    fun _ hf => .inr (by simpa using hf)

/-- The reset of every domain empties the AON table too, so that no lock bit and no valid bit stands out. -/
theorem resetOf_resetAon : ResetOf (fun _ => true) [] s s.resetAon :=
  s.resetOf_resetPor.emptied .aon rfl (fun e => by cases e <;> rfl) fun f hf => .inl
    ((by decide : ∀ f ∈ lockFields, f.dom = .aon) f hf)

/-- The links are down: neither width nor speed (Table 03-11). -/
def linksDown : State :=
  (((s.wr F.HIF_LINK_STATUS_A_WIDTH 0).wr F.HIF_LINK_STATUS_A_SPEED 0).wr F.HIF_LINK_STATUS_B_WIDTH 0).wr
    F.HIF_LINK_STATUS_B_SPEED 0

theorem linksDown_sameFieldsBut : SameFieldsBut linkFields s s.linksDown :=
  have hm : linkFields ⊆ allFields := sub_allFields (by decide)
  .fset hm (by decide) <| .fset hm (by decide) <| .fset hm (by decide) <| .fset hm (by decide) <| .refl s

/-- What PERST_N asserted makes of the WARM domain and of the configuration spaces (R484). -/
def perstLosses : State :=
  let t := (s.resetWarm.clearCfgSpace false).clearCfgSpace true
  { t with host := { t.host with perst := true, cfgDone := false } }

/-- The state that PERST_N asserted leaves before the cause is recorded. -/
abbrev perstReset : State := s.perstLosses.linksDown

theorem resetOf_perstReset : ResetOf (fun d => d == .warm) linkFields s s.perstReset := by
  have h : ResetOf (fun d => d == .warm) [] s s.perstLosses := s.resetOf_resetWarm.of_regs rfl
  simpa only [List.append_nil] using h.but s.perstLosses.linksDown_sameFieldsBut

end State

/-! ## The commands that reset (R9, R439, R457) -/

theorem exec_warmReset_key {s : State} {port : Bool} {v : Word} (hb : s.barsUp port = true) (h1 : v.toNat % 2 = 1)
    (hk : v.toNat / 2 ^ 16 = 0xC3A5) : exec (.warmReset port v) s = .next (s.resetWarm.resetCause 8) := by
  have hwarm : bits v.toNat 0 1 = 1 := by simpa [bits] using h1
  have hkey : bits v.toNat 16 16 = 0xC3A5 := by unfold bits; omega
  change execWarmReset port v s = _
  simp only [execWarmReset, hb, if_true, State.writeResetCtl, hwarm, hkey, one_ne_zero, if_false]

theorem exec_watchdogExpiry_due {s : State} (ha : s.boot.wdtArmed = true)
    (hp : s.rd F.BOOT_WDT_CFG_PERIOD_MS ≤ s.boot.wdtMs) :
    exec .watchdogExpiry s = .next (s.resetWarm.resetCause 7) := by
  change execWatchdogExpiry s = _
  simp only [execWatchdogExpiry, ha, hp, decide_true, Bool.and_self, if_true]

theorem exec_alwaysOnSupplyUp (s : State) : exec .alwaysOnSupplyUp s =
    .next ((s.resetAon.setBoot { s.resetAon.boot with causes := [] }).resetCause 1) := rfl

theorem exec_powerOnReset (s : State) : exec .powerOnReset s = .next (s.resetPor.resetCause 2) := rfl

theorem exec_sagResetCrossing (s : State) (mv : BitVec 10) : exec (.sagResetCrossing mv) s =
    .next ((s.resetPor.setPwr { s.resetPor.pwr with sagMv := mv.toNat }).resetCause 3) := rfl

theorem exec_perstNAsserted (s : State) : exec .perstNAsserted s = .next (s.perstReset.resetCause 5) := rfl

/-- Settles O9: each event empties the tables of its domains one by one, and what it writes besides lies in the listed
fields. -/
theorem resetsRestoreTheirDomains : Obligations.ResetsRestoreTheirDomains := by
  intro s mv port v
  have hwarm : ∀ n, ResetOf (fun d => d == .warm) causeFields s (s.resetWarm.resetCause n) := fun n => by
    simpa only [List.append_nil] using s.resetOf_resetCause s.resetOf_resetWarm n
  refine ⟨⟨_, exec_alwaysOnSupplyUp s, ?_⟩, ⟨_, exec_powerOnReset s, s.resetOf_resetCause s.resetOf_resetPor 2⟩,
    ⟨_, exec_sagResetCrossing s mv, s.resetOf_resetCause (s.resetOf_resetPor.of_regs (State.setPwr_regs _ _)) 3⟩,
    ⟨_, exec_perstNAsserted s, s.resetOf_resetCause s.resetOf_perstReset 5⟩,
    fun hb h1 hk => ⟨_, exec_warmReset_key hb h1 hk, hwarm 8⟩, fun ha hp => ⟨_, exec_watchdogExpiry_due ha hp, hwarm 7⟩⟩
  simpa only [List.append_nil] using s.resetOf_resetCause (s.resetOf_resetAon.of_regs (State.setBoot_regs _ _)) 1

end Sys2Proof.Machine

namespace Sys2Proof.Machine

/-! ## What a reset loses besides the registers (R10, R43, R70, R484) -/

namespace WarmLoss

variable {s t : State}

/-- A change of these parts that keeps what `WarmLoss` says of them. -/
theorem update {regs : Regs} {host : HostSt} {boot : BootSt} {grp : GrpSt} {pwr : PwrSt} {mem : MemSt} (h : WarmLoss s t)
    (hh : (host.evtFifo, host.evtSeq, host.readyOnce) = (t.host.evtFifo, t.host.evtSeq, t.host.readyOnce))
    (hb : (boot.nor, boot.fuses.blown) = (t.boot.nor, t.boot.fuses.blown)) (hm : mem.mram = t.mem.mram) :
    WarmLoss s { t with regs := regs, host := host, boot := boot, grp := grp, pwr := pwr, mem := mem } := by
  simp only [Prod.mk.injEq] at hh hb
  obtain ⟨hfifo, hseq, hready⟩ := hh
  obtain ⟨hnor, hfuses⟩ := hb
  simpa only [WarmLoss, hfifo, hseq, hready, hnor, hfuses, hm] using h

theorem fset (h : WarmLoss s t) (f : Field) (i j v : Nat) : WarmLoss s (t.fset f i j v) := h.update rfl rfl rfl

theorem setBoot {boot : BootSt} (h : WarmLoss s t)
    (hb : (boot.nor, boot.fuses.blown) = (t.boot.nor, t.boot.fuses.blown)) : WarmLoss s (t.setBoot boot) :=
  h.update rfl hb rfl

theorem setPwr (h : WarmLoss s t) (pwr : PwrSt) : WarmLoss s (t.setPwr pwr) := h.update rfl rfl rfl

theorem resetCause (h : WarmLoss s t) (n : Nat) : WarmLoss s (t.resetCause n) := h

theorem unlock (h : WarmLoss s t) : WarmLoss s t.unlock :=
  (((((h.fset ..).fset ..).fset ..).fset ..).fset ..).fset ..

theorem linksDown (h : WarmLoss s t) : WarmLoss s t.linksDown := (((h.fset ..).fset ..).fset ..).fset ..

end WarmLoss

namespace State

variable (s : State)

theorem warmLoss_resetWarm : WarmLoss s s.resetWarm :=
  ⟨rfl, rfl, rfl, rfl, rfl, rfl, rfl, rfl, rfl, rfl, rfl, rfl, rfl, List.prefix_append .., rfl, rfl⟩

theorem warmLoss_resetPor : WarmLoss s s.resetPor := s.warmLoss_resetWarm.unlock.update rfl rfl rfl

theorem warmLoss_resetAon : WarmLoss s s.resetAon := s.warmLoss_resetPor.update rfl rfl rfl

theorem warmLoss_perstReset : WarmLoss s s.perstReset :=
  WarmLoss.linksDown (s.warmLoss_resetWarm.update (host := s.perstLosses.host) rfl rfl rfl)

/-- A key that lies in the range of neither port lies above both. -/
theorem above_of_notInPort {k w : Nat} (hA : (!(decide (b2n false * w ≤ k) && decide (k < (b2n false + 1) * w))) = true)
    (hB : (!(decide (b2n true * w ≤ k) && decide (k < (b2n true + 1) * w))) = true) : 2 * w ≤ k := by
  simp only [Bool.not_eq_true', Bool.and_eq_false_iff, decide_eq_false_iff_not, b2n, Bool.false_eq_true, if_false,
    if_true, zero_mul, zero_add, one_mul] at hA hB
  omega

/-- Clearing both ports' configuration spaces leaves no vector of either port. -/
theorem clearCfgSpace_msix : ∀ p ∈ ((s.clearCfgSpace false).clearCfgSpace true).host.msix, 256 ≤ p.1 := fun _ hp =>
  have ⟨hp, hB⟩ := List.mem_filter.mp hp
  above_of_notInPort (w := 128) (List.mem_filter.mp hp).2 hB

theorem clearCfgSpace_cfgSpace : ∀ p ∈ ((s.clearCfgSpace false).clearCfgSpace true).host.cfgSpace, 2048 ≤ p.1 := fun _ hp =>
  have ⟨hp, hB⟩ := List.mem_filter.mp hp
  above_of_notInPort (w := 1024) (List.mem_filter.mp hp).2 hB

/-- A warm reset drops the messages that wait behind a mask. -/
theorem resetWarm_msix_pend : ∀ p ∈ s.resetWarm.host.msix, p.2.pend = false := by
  intro p hp
  obtain ⟨q, -, hq⟩ := List.mem_filterMap.mp (show p ∈ List.filterMap _ _ from hp)
  dsimp only at hq
  split at hq
  · cases hq
  · cases hq; rfl

theorem hrdy_of_perst {t : State} (h : t.host.perst = true) : t.hrdy = false := by simp [hrdy, h]

/-! What each reset leaves in the memories and in the host link. -/

@[simp] theorem resetCause_host (n : Nat) : (s.resetCause n).host = s.host := rfl
@[simp] theorem resetCause_mem (n : Nat) : (s.resetCause n).mem = s.mem := rfl
@[simp] theorem resetCause_pwr (n : Nat) : (s.resetCause n).pwr = s.pwr := rfl
@[simp] theorem resetWarm_hbm : s.resetWarm.mem.hbm = s.mem.hbm := rfl
@[simp] theorem resetWarm_sram : s.resetWarm.mem.sram = s.mem.sram := rfl
@[simp] theorem resetWarm_cfgSpace : s.resetWarm.host.cfgSpace = s.host.cfgSpace := rfl
@[simp] theorem resetWarm_cfgDone : s.resetWarm.host.cfgDone = s.host.cfgDone := rfl
@[simp] theorem resetPor_hbm : s.resetPor.mem.hbm = [] := rfl
@[simp] theorem resetPor_sram : s.resetPor.mem.sram = [] := rfl
@[simp] theorem resetPor_cfgSpace : s.resetPor.host.cfgSpace = [] := rfl
@[simp] theorem resetAon_host : s.resetAon.host = s.resetPor.host := rfl
@[simp] theorem resetAon_mem : s.resetAon.mem = s.resetPor.mem := rfl
@[simp] theorem linksDown_host : s.linksDown.host = s.host := rfl
@[simp] theorem linksDown_mem : s.linksDown.mem = s.mem := rfl
@[simp] theorem perstLosses_mem : s.perstLosses.mem = s.resetWarm.mem := rfl
@[simp] theorem perstLosses_perst : s.perstLosses.host.perst = true := rfl
@[simp] theorem perstLosses_cfgDone : s.perstLosses.host.cfgDone = false := rfl

/-- PERST_N leaves no vector and no configuration word of either port (R484). -/
theorem perstLosses_msix : ∀ p ∈ s.perstLosses.host.msix, 256 ≤ p.1 := s.resetWarm.clearCfgSpace_msix
theorem perstLosses_cfgSpace : ∀ p ∈ s.perstLosses.host.cfgSpace, 2048 ≤ p.1 := s.resetWarm.clearCfgSpace_cfgSpace

end State

/-- Settles O10: what the WARM domain's reset loses is lost in every reset, and each event adds its own part. -/
theorem resetsLoseWhatIsNotPersistent : Obligations.ResetsLoseWhatIsNotPersistent := by
  intro s mv port v
  have hwarm := s.warmLoss_resetWarm
  have hpor := s.warmLoss_resetPor
  refine ⟨⟨_, exec_alwaysOnSupplyUp s, .resetCause (.setBoot s.warmLoss_resetAon rfl) 1, ?_⟩,
    ⟨_, exec_powerOnReset s, hpor.resetCause 2, ?_⟩,
    ⟨_, exec_sagResetCrossing s mv, .resetCause (.setPwr hpor _) 3, ?_⟩,
    ⟨_, exec_perstNAsserted s, s.warmLoss_perstReset.resetCause 5, ?_⟩,
    fun hb h1 hk => ⟨_, exec_warmReset_key hb h1 hk, hwarm.resetCause 8, ?_⟩,
    fun ha hp => ⟨_, exec_watchdogExpiry_due ha hp, hwarm.resetCause 7, ?_⟩⟩
  · simp
  · simp
  · simp
  · have hrdy : (s.perstReset.resetCause 5).hrdy = false := State.hrdy_of_perst (by simp)
    simpa [hrdy, -Prod.forall] using ⟨s.perstLosses_msix, s.perstLosses_cfgSpace⟩
  · simpa using s.resetWarm_msix_pend
  · simp

end Sys2Proof.Machine

namespace Sys2Proof.Machine

/-! ## One field under a host write (R6) -/

/-- What a field that held `old` holds after a write of the word `v` that its range accepts; RWL fields are `locked` or
not. -/
def Field.afterWrite (f : Field) (locked : Bool) (v old : Nat) : Nat :=
  match f.acc with
  | .rw => f.carried v % 2 ^ Nat.min f.w 32
  | .rwl => if locked then old else f.carried v % 2 ^ Nat.min f.w 32
  | .w1c => (old - (old &&& f.carried v)) % 2 ^ Nat.min f.w 32
  | .w1s => (old ||| f.carried v) % 2 ^ Nat.min f.w 32
  | _ => old

/-- The write of `v` lies in the range of the field, where the host sets it. -/
def State.AcceptsAt (s : State) (v : Nat) (p : Field × Nat × Nat) : Prop :=
  s.hostSets p.1 = true → p.1.accepts p.2.1 (p.1.carried v) = true

namespace State

variable {s t : State} {v : Nat} {p : Field × Nat × Nat}

/-- Whether the host sets a field depends on the lock alone. -/
theorem hostSets_congr (h : t.host = s.host) (f : Field) : t.hostSets f = s.hostSets f := by
  unfold hostSets
  rw [h]

/-- A host write of a field writes that field or nothing. -/
theorem hostField_eq (s : State) (v : Nat) (p : Field × Nat × Nat) :
    (∃ x, s.hostField v p = s.fset p.1 p.2.1 p.2.2 x) ∨ s.hostField v p = s := by
  unfold hostField
  dsimp only
  split
  · split
    · exact .inl ⟨_, rfl⟩
    · exact .inr rfl
  · split
    · exact .inl ⟨_, rfl⟩
    · split
      · exact .inl ⟨_, rfl⟩
      · exact .inr rfl

@[simp] theorem hostField_host (s : State) (v : Nat) (p : Field × Nat × Nat) : (s.hostField v p).host = s.host := by
  obtain ⟨x, h⟩ | h := s.hostField_eq v p <;> rw [h]
  rfl

/-- The written field takes the value that its access code gives. -/
theorem fget_hostField_same (h : s.AcceptsAt v p) :
    (s.hostField v p).fget p.1 p.2.1 p.2.2 = p.1.afterWrite s.host.readyOnce v (s.fget p.1 p.2.1 p.2.2) := by
  have hset : ∀ x, (s.fset p.1 p.2.1 p.2.2 x).fget p.1 p.2.1 p.2.2 = x % 2 ^ Nat.min p.1.w 32 := s.fget_fset_same _ _ _
  unfold AcceptsAt hostSets at h
  unfold hostField hostSets Field.afterWrite
  cases hacc : p.1.acc with
  | rwl => cases hready : s.host.readyOnce <;> simp_all
  | rw => simp_all
  | w1c => simp_all
  | w1s => simp_all
  | _ => simp [hacc]

/-- A field at other indices, or another field, keeps its value. -/
theorem fget_hostField_other {g : Field} {k l : Nat} (hp : p.1 ∈ allFields) (hsmall : p.2.1 < 2 ^ 16 ∧ p.2.2 < 2 ^ 16)
    (hg : g ∈ allFields) (hkl : k < 2 ^ 16 ∧ l < 2 ^ 16) (h : (g, k, l) ≠ p) :
    (s.hostField v p).fget g k l = s.fget g k l := by
  obtain ⟨x, hx⟩ | hx := s.hostField_eq v p <;> rw [hx]
  exact s.fget_fset_field hp hg _ _ _ _ _ hsmall hkl h

end State

/-! ## The fields of one register, one after the other -/

/-- The fields of a list, each at its indices, under a host write of the word `v`. -/
def State.hostFields (s : State) (v : Nat) (l : List (Field × Nat × Nat)) : State := l.foldl (fun t p => t.hostField v p) s

namespace State

variable {off v : Nat} {l : List (Field × Nat × Nat)}

/-- A field that is not among the written ones of a register keeps its value. -/
theorem fget_hostFields_other (s : State) {g : Field} {i j : Nat} (hl : l ⊆ fieldsAt off) (hg : g ∈ allFields)
    (hij : i < 2 ^ 16 ∧ j < 2 ^ 16) (h : (g, i, j) ∉ l) : (s.hostFields v l).fget g i j = s.fget g i j := by
  induction l generalizing s with
  | nil => rfl
  | cons q l ih =>
    obtain ⟨hq, hl⟩ := List.cons_subset.mp hl
    obtain ⟨hne, hnl⟩ := not_or.mp (mt List.mem_cons.mpr h)
    exact (ih (s.hostField v q) hl hnl).trans
      (fget_hostField_other (mem_fieldsAt hq) (mem_fieldsAt_small hq) hg hij hne)

/-- Each field of a register takes its part of the word as if it were written alone: the fields lie at places of their
own. -/
theorem fget_hostFields_mem (s : State) {p : Field × Nat × Nat} (hl : l ⊆ fieldsAt off)
    (hd : l.Pairwise fun p q => p.1.place ≠ q.1.place) (hp : p ∈ l) (ha : s.AcceptsAt v p) :
    (s.hostFields v l).fget p.1 p.2.1 p.2.2 = p.1.afterWrite s.host.readyOnce v (s.fget p.1 p.2.1 p.2.2) := by
  induction l generalizing s with
  | nil => cases hp
  | cons q l ih =>
    obtain ⟨hq, hl'⟩ := List.cons_subset.mp hl
    obtain ⟨hfirst, hd⟩ := List.pairwise_cons.mp hd
    have hpAt := hl hp
    rcases List.mem_cons.mp hp with rfl | hp
    · have hrest : p ∉ l := fun hm => hfirst p hm rfl
      exact ((s.hostField v p).fget_hostFields_other hl' (mem_fieldsAt hq) (mem_fieldsAt_small hq) hrest).trans
        (fget_hostField_same ha)
    · have hne : p ≠ q := fun he => hfirst p hp (by rw [he])
      have hsame := fget_hostField_other (s := s) (v := v) (mem_fieldsAt hq) (mem_fieldsAt_small hq) (mem_fieldsAt hpAt)
        (mem_fieldsAt_small hpAt) hne
      have ha' : (s.hostField v q).AcceptsAt v p := by
        unfold AcceptsAt
        rwa [hostSets_congr (hostField_host s v q)]
      have hrest := ih (s.hostField v q) hl' hd hp ha'
      rwa [hostField_host, hsame] at hrest

/-! ## The write of a register whose fields act under their codes alone (R6) -/

/-- In a block that ignores a write whole, a field out of range leaves the register as it was. -/
theorem writeFields_ignored (s : State) (port : Bool) (hw : ignoresWhole off = true)
    (h : ∃ p ∈ fieldsAt off, s.hostSets p.1 = true ∧ p.1.accepts p.2.1 (p.1.carried v) = false) :
    s.writeFields port off v = s := by
  have hany : ((fieldsAt off).any fun p => s.hostSets p.1 && !p.1.accepts p.2.1 (p.1.carried v)) = true := by
    simpa only [List.any_eq_true, Bool.and_eq_true, Bool.not_eq_true'] using h
  unfold writeFields
  simp only [hw, hany, Bool.and_self, if_true]

/-- A write in range takes its effect field by field, and a locked field that it would change is recorded. -/
theorem writeFields_accepted (s : State) (port : Bool) (ho : ∀ t : State, t.ordered off = true)
    (h : ∀ p ∈ fieldsAt off, s.AcceptsAt v p) : s.writeFields port off v =
      if (fieldsAt off).any (s.lockedHit v) then
        (s.hostFields v (fieldsAt off)).accessErr F.GLB_ACCESS_ERR_LOCKED_WRITE port off
      else s.hostFields v (fieldsAt off) := by
  have hany : ((fieldsAt off).any fun p => s.hostSets p.1 && !p.1.accepts p.2.1 (p.1.carried v)) = false := by
    refine List.any_eq_false.mpr fun p hp => ?_
    cases hs : s.hostSets p.1 with
    | false => simp
    | true => simp [h p hp hs]
  unfold writeFields
  simp only [hany, Bool.and_false, Bool.false_eq_true, if_false, ho, Bool.not_true, hostFields]

/-- Outside GLB the record of a locked field changes nothing of what the fields took. -/
theorem fget_writeFields_accepted (s : State) (port : Bool) {f : Field} (ho : ∀ t : State, t.ordered off = true)
    (h : ∀ p ∈ fieldsAt off, s.AcceptsAt v p) (hb : f.block ≠ 0) (i j : Nat) :
    (s.writeFields port off v).fget f i j = (s.hostFields v (fieldsAt off)).fget f i j := by
  rw [s.writeFields_accepted port ho h]
  split
  · exact fget_accessErr_block _ port off rfl hb i j
  · rfl

/-- The write of such a register changes registers alone. -/
theorem writeFields_part (s : State) (port : Bool) {q : Part} (hq : q ∉ mapParts) :
    q.same s (s.writeFields port off v) := State.writeFields_only (by decide) (.refl s) q hq

/-! ## The offsets whose write does no more -/

/-- The registers that keep an ordering (Table 18-12) are no plain ones. -/
theorem ordered_plain (h : plainOffset off = true) (t : State) : t.ordered off = true := by
  simp only [plainOffset, Bool.and_eq_true, Bool.not_eq_true', List.contains_eq_mem, decide_eq_false_iff_not,
    List.mem_cons, List.not_mem_nil, not_or, or_false] at h
  simp [ordered, h]

/-- A range of offsets does not hold `off`. -/
theorem outside_iff {a b : Nat} : (decide (a ≤ off) && decide (off < b)) = false ↔ off < a ∨ b ≤ off := by
  simp only [Bool.and_eq_false_iff, decide_eq_false_iff_not, not_le, not_lt]

/-- The trace unit's configuration lies in a range that `plainOffset` leaves out. -/
theorem traceConfig_outside (h : off < 0x0310000 ∨ 0x0310080 ≤ off) : traceConfig off = false := by
  simp only [traceConfig, Bool.or_eq_false_iff, outside_iff]
  omega

/-- A write at a plain offset passes by every register whose write does more. -/
theorem hostWrite_plain (s : State) (port : Bool) (ha : s.absent off = false) (h : plainOffset off = true) :
    s.hostWrite port off v = s.writeFields port off v := by
  simp only [plainOffset, Bool.and_eq_true, Bool.not_eq_true', List.contains_eq_mem, decide_eq_false_iff_not,
    List.mem_cons, List.not_mem_nil, not_or, or_false] at h
  obtain ⟨⟨⟨⟨⟨⟨hregs, hrings⟩, hslots⟩, htables⟩, hheads⟩, hbuffer⟩, htrc⟩ := h
  rw [outside_iff] at hrings htrc
  have htq : (decide (0x0081000 ≤ off) && decide (off < 0x0081400)) = false := outside_iff.mpr (by omega)
  have hcr : (decide (0x0082000 ≤ off) && decide (off < 0x0082800)) = false := outside_iff.mpr (by omega)
  simp only [hostWrite, ha, hregs, htq, hcr, hslots, htables, hheads, hbuffer, traceConfig_outside htrc, Bool.false_and,
    Bool.false_eq_true, if_false, decide_false, Bool.or_self]

end State

theorem exec_regWrite {s : State} {port : Bool} {off : BitVec 26} (v : Word) (hb : s.barsUp port = true)
    (ho : off.toNat % 4 = 0) : exec (.regWrite port off v) s = .next (s.hostWrite port off.toNat v.toNat) := by
  change execRegWrite port off v s = _
  simp only [execRegWrite, hb, Bool.not_true, Bool.false_eq_true, if_false, bne_iff_ne, ne_eq, ho, not_true_eq_false]

/-- Settles O15: the fields of a register lie at places of their own, so that each takes its part of the word as if it were
written alone. -/
theorem registerWrites : Obligations.RegisterWrites := by
  intro s port off v hb ho
  refine ⟨fun habs => ?_, fun hpres hplain => ⟨fun hw hbad => ?_, fun hacc => ?_⟩⟩
  · rw [exec_regWrite v hb ho, State.hostWrite, if_pos habs]
  · rw [exec_regWrite v hb ho, s.hostWrite_plain port hpres hplain, s.writeFields_ignored port hw hbad]
  · have hord := State.ordered_plain hplain
    refine ⟨_, exec_regWrite v hb ho, ?_⟩
    rw [s.hostWrite_plain port hpres hplain]
    refine ⟨fun p hp hblock => ?_, fun f hf hblock i j hi hj hn => ?_, fun hlock => ?_, ?_, ?_, ?_⟩
    · rw [s.fget_writeFields_accepted port hord hacc hblock,
        s.fget_hostFields_mem (List.Subset.refl _) (fieldsAt_nodup _) hp (hacc p hp)]
      unfold Field.afterWrite
      cases p.1.acc <;> rfl
    · rw [s.fget_writeFields_accepted port hord hacc hblock,
        s.fget_hostFields_other (List.Subset.refl _) hf ⟨hi, hj⟩ hn]
    · have hany : (fieldsAt off.toNat).any (s.lockedHit v.toNat) = true := by
        simpa [State.lockedHit, Field.carried, and_assoc] using hlock
      rw [s.writeFields_accepted port hord hacc, if_pos hany]
      exact ⟨State.rd_accessErr_bit _ _ _ rfl (by decide) (by decide), State.rd_accessErr_offset _ _ _ _ off.isLt,
        State.rd_accessErr_port _ _ _ _⟩
    · exact s.writeFields_part port (q := .host) (by decide)
    · exact s.writeFields_part port (q := .out) (by decide)
    · exact s.writeFields_part port (q := .sq) (by decide)

end Sys2Proof.Machine

namespace Sys2Proof.Machine

/-! ## Registers after an operation on them -/

namespace State

variable (s : State)

/-- A counter advanced holds its old value and the advance, up to its maximum (R452). -/
theorem rdi_addi {f : Field} (hw : f.w ≤ 32) (i n : Nat) :
    (s.addi f i n).rdi f i = Nat.min (s.rdi f i + n) (2 ^ f.w - 1) := by
  have hpow : 0 < 2 ^ f.w := Nat.two_pow_pos _
  have hle : Nat.min (s.rdi f i + n) (2 ^ f.w - 1) ≤ 2 ^ f.w - 1 := Nat.min_le_right _ _
  have hmin : Nat.min f.w 32 = f.w := Nat.min_eq_left hw
  rw [addi, rdi, fget_fset_same, hmin]
  exact Nat.mod_eq_of_lt (by omega)

/-- Raising an event with room in the FIFO before it makes it the last item, whatever has happened to other parts. -/
theorem raised_raise {s t : State} (h : t.host = s.host) (a b c d : Nat) : Raised a b c d s (t.raise a b c d) := fun hr => by
  rw [raise, raiseFor_evtFifo _ _ _ _ _ _ _ (by rwa [h]), h]

end State

theorem Raised.of_host {a b c d : Nat} {s t u : State} (h : Raised a b c d s t) (hu : u.host.evtFifo = t.host.evtFifo) :
    Raised a b c d s u := fun hr => by rw [hu]; exact h hr

/-! ## HBM blocks (R405 to R416) -/

namespace State

variable (s : State)

/-- A place of HBM holds the slices put there, also those that the table leaves out as the initialization's. -/
theorem hbmAt_hbmPut (p : Nat) (sl : List (List Byte)) : (s.hbmPut p sl).mem.hbmAt p = some sl := by
  simp only [hbmPut, MemSt.hbmAt, setMem_mem, Store.get_put_same]
  by_cases h : s.mem.hbmInit = true ∧ sl = hbmEncode p s.mem.initEpoch []
  · simp [h]
  · have hc : (s.mem.hbmInit && decide (sl = hbmEncode p s.mem.initEpoch [])) = false := by simpa using h
    simp [hc]

theorem hbmAt_hbmWrite (b : Nat) (data : List Byte) :
    (s.hbmWrite b data).mem.hbmAt (s.mem.hbmPlace b) = some (hbmEncode (s.mem.hbmPlace b) s.mem.initEpoch data) :=
  s.hbmAt_hbmPut _ _

@[simp] theorem corrected_hbm (k u : Nat) (l : List Nat) : (s.corrected k u l).mem.hbm = s.mem.hbm := rfl

end State

/-- What the controller finds in a block whose place holds the slices `sl`. -/
def State.blockRead (s : State) (p : Nat) (stuck : SliceFlips) (sl : List (List Byte)) : HbmRead :=
  hbmDecode p s.mem.initEpoch s.mem.dieFailed (flipSlices stuck sl)

namespace State

variable {s : State} {b p : Nat} {stuck : SliceFlips} {sl : List (List Byte)}

/-- A read answers what the decode finds. -/
theorem hbmRead_snd (h : s.mem.hbmAt (s.mem.hbmPlace b) = some sl) (scrub : Bool) :
    (s.hbmRead b stuck scrub).2 = s.blockRead (s.mem.hbmPlace b) stuck sl := by
  unfold hbmRead blockRead
  simp only [h]
  split <;> rfl

/-- What a read leaves behind, by the outcome of the decode. -/
theorem hbmRead_fst (h : s.mem.hbmAt (s.mem.hbmPlace b) = some sl) (scrub : Bool) {r : HbmRead} 
    (hr : r = s.blockRead (s.mem.hbmPlace b) stuck sl) :
    (s.hbmRead b stuck scrub).1 = match r.outcome with
      | .good => s
      | .corrected => s.corrected 0 (s.mem.hbmPlace b) r.located
      | .poisoned => if scrub then s else s.lastErr (s.mem.hbmPlace b) 0 2 scrub (r.erased.foldl setBit 0)
      | .uninit => s.poisonBlock b true scrub (r.erased.foldl setBit 0)
      | .uncorrectable => s.poisonBlock b false scrub (r.erased.foldl setBit 0) := by
  subst hr
  unfold hbmRead blockRead
  simp only [h]
  split <;> simp_all

/-- What a poisoned block leaves: its tag, the count, the sticky bit (R415, R416). -/
theorem poisonBlock_hbmAt (s : State) (b : Nat) (uninit : Bool) (e : Nat) :
    (s.poisonBlock b uninit false e).mem.hbmAt (s.mem.hbmPlace b) =
      some (hbmEncode (s.mem.hbmPlace b) (s.mem.initEpoch + 16) []) := by
  unfold poisonBlock lastErr
  cases uninit <;> simp [hbmAt_hbmPut]

theorem poisonBlock_count (s : State) (b : Nat) (uninit : Bool) (e : Nat) :
    (s.poisonBlock b uninit false e).rd F.MEM_HBM_UNCORR_COUNT =
      Nat.min (s.rd F.MEM_HBM_UNCORR_COUNT + 1) (2 ^ 32 - 1) := by
  unfold poisonBlock lastErr
  cases uninit <;> simp (disch := decide) [fget_raiseFor, fget_fset_other, rdi_addi] <;> rfl

theorem poisonBlock_sticky (s : State) (b : Nat) (uninit : Bool) (e : Nat) :
    (s.poisonBlock b uninit false e).rd F.MEM_ERR_STATUS_HBM_UNCORR = 1 := by
  unfold poisonBlock lastErr
  cases uninit <;> simp (disch := decide) [fget_raiseFor, fget_fset_other, fget_fset_same]

theorem poisonBlock_sq (s : State) (b : Nat) (uninit : Bool) (e : Nat) :
    (s.poisonBlock b uninit false e).sq = s.sq :=
  poisonBlock_only (L := partsOfEvent ++ [.mem, .regs 44]) (by decide) (.refl s) .sq (by decide)

/-- The record of a poisoned block leaves the completion rings alone. -/
theorem poisonBlock_sameRings (s : State) (b : Nat) (uninit : Bool) (e : Nat) :
    SameRings s (s.poisonBlock b uninit false e) := by
  unfold poisonBlock
  refine SameRings.trans (SameRings.of_only (L := [.mem, .regs 44]) ?_ (by decide) (by decide) (by decide))
    (SameRings.raise _ _ _ _ _ _ _)
  refine lastErr_only (by decide) ?_
  have hcount : Only [.mem, .regs 44] s (((s.hbmPut (s.mem.hbmPlace b)
      (hbmEncode (s.mem.hbmPlace b) (s.mem.initEpoch + 16) [])).inc F.MEM_HBM_UNCORR_COUNT).wr
      F.MEM_ERR_STATUS_HBM_UNCORR 1) :=
    wr_only (by decide) (inc_only (by decide) (hbmPut_only (by decide) (.refl s)))
  exact Only.ite (wr_only (by decide) hcount) hcount

/-- A bus error ends the admitted command that read the block with INTEGRITY (R14). -/
theorem busError_completed {s : State} {src : Src} {c : Cmd} (hc : s.cmdOf src = some c)
    (ha : c.stage = .admitted ∨ c.stage = .started) (hroom : RoomFor c s) :
    Completed c stIntegrity 0 0 false s (s.busError (.command src)) := by
  have hadm : c.stage.isAdmitted = true := by rcases ha with h | h <;> rw [h] <;> rfl
  have hrings : SameRings s (s.discardWork c) := .of_regs rfl rfl
  have hb : s.busError (.command src) = (s.discardWork c).fail c stIntegrity := by
    simp only [busError, hc, hadm, if_true]
  rw [hb]
  exact (fail_completed _ c stIntegrity (hroom.to hrings rfl rfl)).since hrings List.suffix_rfl

end State

/-! ## The rows -/

theorem exec_fabricHbmRead {s : State} {block : BitVec 26} {user : MemUser} (stuck : SliceFlips)
    (hu : user.barred block.toNat = false) : exec (.fabricHbmRead block [] stuck user) s =
      .next (if (s.hbmRead block.toNat stuck false).2.ok then (s.hbmRead block.toNat stuck false).1
        else (s.hbmRead block.toNat stuck false).1.hbmOwner block.toNat user) := by
  change execFabricHbmRead block [] stuck user s = _
  simp only [execFabricHbmRead, State.hbmUpset, List.isEmpty_nil, if_true, hu, Bool.false_eq_true, if_false]

theorem exec_fabricHbmWrite_whole {s : State} {block : BitVec 26} {user : MemUser} (stuck : SliceFlips) {bytes : List Byte}
    (hu : user.barred block.toNat = false) (h : bytes.length = 192) :
    exec (.fabricHbmWrite block 0#8 bytes stuck user) s = .next (s.hbmWrite block.toNat bytes) := by
  have hd : bytes.take (192 - (0#8).toNat) = bytes := List.take_of_length_le (by simp [h])
  have hne : bytes.isEmpty = false := by cases bytes <;> simp at h ⊢
  change execFabricHbmWrite block 0#8 bytes stuck user s = _
  simp only [execFabricHbmWrite, hd, hu, hne, h, Bool.or_self, Bool.false_eq_true, if_false, if_true]

/-- A narrower write into a block that reads is merged into its data (R410). -/
theorem exec_fabricHbmWrite_part {s : State} {block : BitVec 26} {off : BitVec 8} {user : MemUser} {stuck : SliceFlips}
    {bytes : List Byte} (hu : user.barred block.toNat = false) (h0 : 0 < bytes.length) (h : bytes.length < 192)
    (ho : off.toNat + bytes.length ≤ 192) (hr : (s.hbmRead block.toNat stuck false).2.ok = true) :
    exec (.fabricHbmWrite block off bytes stuck user) s = .next ((s.hbmRead block.toNat stuck false).1.hbmWrite block.toNat
      ((s.hbmRead block.toNat stuck false).2.data.take off.toNat ++ bytes ++
        (s.hbmRead block.toNat stuck false).2.data.drop (off.toNat + bytes.length))) := by
  have hd : bytes.take (192 - off.toNat) = bytes := List.take_of_length_le (by omega)
  have hne : bytes.isEmpty = false := by cases bytes <;> simp at h0 ⊢
  have hlen : bytes.length ≠ 192 := by omega
  change execFabricHbmWrite block off bytes stuck user s = _
  simp only [execFabricHbmWrite, hd, hu, hne, hlen, hr, Bool.or_self, Bool.false_eq_true, if_false, if_true]

theorem exec_sramMramRead {s : State} {mram : Bool} {addr : BitVec 24} {k : Nat} (stuck : BitVec 144) (user : MemUser)
    (hk : k = if mram then 2 else 1) (ha : addr.toNat < wordCount k) :
    exec (.sramMramRead mram addr 0#144 stuck user) s =
      .next (if (s.wordRead k addr.toNat stuck.toNat false).2.ok then (s.wordRead k addr.toNat stuck.toNat false).1
        else (s.wordRead k addr.toNat stuck.toNat false).1.wordOwner k addr.toNat user) := by
  change execSramMramRead mram addr 0#144 stuck user s = _
  subst hk
  simp only [execSramMramRead, Nat.not_le.mpr ha, if_false, State.wordUpset, BitVec.toNat_zero, if_true]

/-! ## SRAM and MRAM words (R412, R413, R417) -/

namespace State

variable {s : State} {k a : Nat}

/-- The bits of a lost SRAM word: data 0, check byte 0xFF and the parity of its address (R417). -/
def lostWord (p : Nat) : Nat := 0xFF * 2 ^ 64 + b2n (addrParity p) * 2 ^ 72

theorem ofBits_lostWord (p : Nat) : (SramWord.ofBits (lostWord p)).bits = lostWord p := by
  unfold lostWord
  cases addrParity p <;> rfl

@[simp] theorem wordPut_host (s : State) (k p x : Nat) : (s.wordPut k p x).host = s.host := by
  unfold wordPut
  split <;> rfl

@[simp] theorem fget_wordPut (s : State) (k p x : Nat) (f : Field) (i j : Nat) :
    (s.wordPut k p x).fget f i j = s.fget f i j := by
  unfold wordPut
  split <;> rfl

/-- An SRAM word reads back the bits put there, also those that the table leaves out. -/
theorem wordAt_wordPut_sram (s : State) {p x : Nat} (hx : (SramWord.ofBits x).bits = x) :
    (s.wordPut 1 p x).mem.wordAt 1 p = x := by
  rw [wordPut, if_pos rfl, MemSt.wordAt, if_pos rfl, setMem_mem, Store.get_put_same]
  by_cases h : SramWord.ofBits x = sramEncode p 0
  · rw [if_pos h, Option.getD_none, ← h, hx]
  · rw [if_neg h, Option.getD_some, hx]

theorem wordRead_good {stuck d : Nat} {scrub : Bool} (h : wordDecode k (s.mem.wordPlace k a)
    (Nat.xor (s.mem.wordAt k (s.mem.wordPlace k a)) stuck) = .good d) : s.wordRead k a stuck scrub = (s, .good d) := by
  simp only [wordRead, h]

theorem wordRead_bad {stuck : Nat} {scrub ad : Bool} (h : wordDecode k (s.mem.wordPlace k a)
    (Nat.xor (s.mem.wordAt k (s.mem.wordPlace k a)) stuck) = .bad ad) :
    s.wordRead k a stuck scrub = (s.wordBad k (s.mem.wordPlace k a) ad scrub, .bad ad) := by
  simp only [wordRead, h]

/-- The record of a lost SRAM word: the count, the sticky bit, its place and the event (R417). -/
def recordSramLost (s : State) (p : Nat) (ad : Bool) : State :=
  (((s.inc F.MEM_SRAM_UNCORR_COUNT).wr F.MEM_ERR_STATUS_SRAM_UNCORR 1).lastErr p 1 (if ad then 4 else 1) false 0).raise
    3 1 0x005 (p + b2n ad * 2 ^ 32)

/-- The record of a lost MRAM word (R417). -/
def recordMramLost (s : State) (p : Nat) : State :=
  (((s.inc F.MEM_MRAM_UNCORR_COUNT).wr F.MEM_ERR_STATUS_MRAM_UNCORR 1).lastErr p 2 1 false 0).raise 3 2 0x007 p

theorem wordBad_sram (s : State) (p : Nat) (ad : Bool) :
    s.wordBad 1 p ad false = (s.wordPut 1 p (lostWord p)).recordSramLost p ad := if_pos rfl

theorem wordBad_mram (s : State) (p : Nat) (ad : Bool) : s.wordBad 2 p ad false = s.recordMramLost p :=
  if_neg (by decide)

theorem recordSramLost_raised {s t : State} (h : t.host = s.host) (p : Nat) (ad : Bool) :
    Raised 3 1 5 (p + b2n ad * 2 ^ 32) s (t.recordSramLost p ad) := raised_raise (by simpa [lastErr] using h) _ _ _ _

theorem recordMramLost_raised (s : State) (p : Nat) : Raised 3 2 7 p s (s.recordMramLost p) :=
  raised_raise (by simp [lastErr]) _ _ _ _

@[simp] theorem recordSramLost_mem (s : State) (p : Nat) (ad : Bool) : (s.recordSramLost p ad).mem = s.mem := by
  simp [recordSramLost, lastErr]

theorem recordSramLost_count (s : State) (p : Nat) (ad : Bool) : (s.recordSramLost p ad).rd F.MEM_SRAM_UNCORR_COUNT =
    Nat.min (s.rd F.MEM_SRAM_UNCORR_COUNT + 1) (2 ^ 32 - 1) := by
  unfold recordSramLost lastErr
  simp (disch := decide) [fget_raiseFor, fget_fset_other, rdi_addi]
  rfl

theorem wordBad_sram_wordAt (s : State) (p : Nat) (ad : Bool) : (s.wordBad 1 p ad false).mem.wordAt 1 p = lostWord p := by
  rw [wordBad_sram, recordSramLost_mem, s.wordAt_wordPut_sram (ofBits_lostWord p)]

theorem wordBad_sram_count (s : State) (p : Nat) (ad : Bool) : (s.wordBad 1 p ad false).rd F.MEM_SRAM_UNCORR_COUNT =
    Nat.min (s.rd F.MEM_SRAM_UNCORR_COUNT + 1) (2 ^ 32 - 1) := by
  rw [wordBad_sram, recordSramLost_count, rd, fget_wordPut]

theorem wordBad_sram_raised (s : State) (p : Nat) (ad : Bool) :
    Raised 3 1 5 (p + b2n ad * 2 ^ 32) s (s.wordBad 1 p ad false) := by
  rw [wordBad_sram]
  exact recordSramLost_raised (wordPut_host s 1 p _) p ad

theorem wordBad_mram_raised (s : State) (p : Nat) (ad : Bool) : Raised 3 2 7 p s (s.wordBad 2 p ad false) := by
  rw [wordBad_mram]
  exact s.recordMramLost_raised p

theorem wordBad_grp (s : State) (p : Nat) (ad : Bool) : (s.wordBad k p ad false).grp = s.grp :=
  wordBad_only (L := partsOfEvent ++ [.mem, .regs 44]) (by decide) (.refl s) .grp (by decide)

/-- A word of the stream sequence table is its streams' in solo: both lose their entries and the word is written again
(R417, log entry 44). -/
theorem wordOwner_seqTable (user : MemUser) (h0 : 0x80000 ≤ a) (h1 : a < 0x100000) :
    s.wordOwner 2 a user = (s.seqLost (16 * a)).wordFixed 2 a := by
  have hm : s.mramOwner (16 * a) user = s.seqLost (16 * a) := by
    unfold mramOwner
    rw [if_neg (by omega), if_neg (by omega), if_neg (by omega), if_pos (by simp; omega)]
  have hr : (user.rewrites || (decide (2 = 2) && decide (a < 0x100088))) = true := by
    have : decide (a < 0x100088) = true := decide_eq_true (by omega)
    simp [this]
  unfold wordOwner
  rw [if_neg (by decide : ¬2 = 1), hm]
  exact if_pos hr

/-- The two streams of a lost word are UNVERIFIED, and no number or generation is left of them. -/
theorem entry_seqLost (hsolo : s.inGroup = false) (off st : Nat)
    (h : st = (off - 0x800000) / 16 * 2 ∨ st = (off - 0x800000) / 16 * 2 + 1) :
    (s.seqLost off).entry st = { lastSeq := 0, gen := 0, state := 2, unknown := true } := by
  unfold seqLost entry
  simp only [hsolo, Bool.false_eq_true, if_false]
  rcases h with h | h
  · rw [Store.get_put_other _ _ _ _ (by omega), h, Store.get_put_same]
  · rw [h, Store.get_put_same]

theorem wordOwner_other (s : State) (a : Nat) : s.wordOwner 1 a .other = s := rfl

theorem wordFixed_obj (s : State) (k a : Nat) : (s.wordFixed k a).obj = s.obj :=
  wordFixed_only (L := [.mem]) (by decide) (.refl s) .obj (by decide)
theorem wordFixed_host (s : State) (k a : Nat) : (s.wordFixed k a).host = s.host :=
  wordFixed_only (L := [.mem]) (by decide) (.refl s) .host (by decide)
theorem seqLost_host (s : State) (off : Nat) : (s.seqLost off).host = s.host :=
  seqLost_only (L := [.obj]) (by decide) (.refl s) .host (by decide)

end State

/-- A word that cannot be read is its owner's to act on. -/
theorem exec_sramMramRead_bad {s t : State} {mram : Bool} {addr : BitVec 24} {k : Nat} {stuck : BitVec 144} {ad : Bool}
    (user : MemUser) (hk : k = if mram then 2 else 1) (ha : addr.toNat < wordCount k)
    (h : s.wordRead k addr.toNat stuck.toNat false = (t, .bad ad)) :
    exec (.sramMramRead mram addr 0#144 stuck user) s = .next (t.wordOwner k addr.toNat user) := by
  rw [exec_sramMramRead stuck user hk ha, h]
  exact congrArg _ (if_neg (by simp [WordRead.ok]))

/-- A bad SRAM word is counted, reported and marked (R417). -/
theorem sramRead_bad {s : State} {addr : BitVec 24} {stuck : BitVec 144} {q : Nat} {ad : Bool}
    (ha : addr.toNat < wordCount 1) (hq : q = s.mem.wordPlace 1 addr.toNat)
    (h : wordDecode 1 q (Nat.xor (s.mem.wordAt 1 q) stuck.toNat) = .bad ad) :
    exec (.sramMramRead false addr 0#144 stuck .other) s = .next (s.wordBad 1 q ad false) := by
  subst hq
  rw [exec_sramMramRead_bad (k := 1) .other rfl ha (State.wordRead_bad h), State.wordOwner_other]

theorem mramRead_badSeq {s : State} {addr : BitVec 24} {stuck : BitVec 144} {q : Nat} {ad : Bool} (user : MemUser)
    (ha : addr.toNat < wordCount 2) (hq : q = s.mem.wordPlace 2 addr.toNat)
    (h : wordDecode 2 q (Nat.xor (s.mem.wordAt 2 q) stuck.toNat) = .bad ad) (h0 : 0x80000 ≤ addr.toNat)
    (h1 : addr.toNat < 0x100000) : exec (.sramMramRead true addr 0#144 stuck user) s =
      .next (((s.wordBad 2 q ad false).seqLost (16 * addr.toNat)).wordFixed 2 addr.toNat) := by
  subst hq
  rw [exec_sramMramRead_bad (k := 2) user rfl ha (State.wordRead_bad h), State.wordOwner_seqTable user h0 h1]

section
variable {s : State} {block : BitVec 26} {user : MemUser} {stuck : SliceFlips} {sl : List (List Byte)} {r : HbmRead}

/-- A narrower write of a block that reads leaves the block written whole with the merged data. -/
theorem fabricHbmWrite_part_hbmAt {off : BitVec 8} {bytes : List Byte} (hu : user.barred block.toNat = false)
    (hat : s.mem.hbmAt (s.mem.hbmPlace block.toNat) = some sl)
    (hr : r = s.blockRead (s.mem.hbmPlace block.toNat) stuck sl) (hok : r.ok = true) (h0 : 0 < bytes.length)
    (h : bytes.length < 192) (ho : off.toNat + bytes.length ≤ 192) :
    ∃ t, exec (.fabricHbmWrite block off bytes stuck user) s = .next t ∧
      t.mem.hbmAt (s.mem.hbmPlace block.toNat) = some (hbmEncode (s.mem.hbmPlace block.toNat) s.mem.initEpoch
        (r.data.take off.toNat ++ bytes ++ r.data.drop (off.toNat + bytes.length))) := by
  have hsnd : (s.hbmRead block.toNat stuck false).2 = r := by rw [State.hbmRead_snd hat, hr]
  refine ⟨_, exec_fabricHbmWrite_part hu h0 h ho (by rwa [hsnd]), ?_⟩
  rw [hsnd, State.hbmRead_fst hat false hr]
  cases hout : r.outcome with
  | good => exact State.hbmAt_hbmWrite _ _ _
  | corrected => exact State.hbmAt_hbmWrite _ _ _
  | poisoned | uninit | uncorrectable => simp [HbmRead.ok, hout] at hok

/-- A read that restores data leaves what the decode's outcome leaves. -/
theorem fabricHbmRead_ok (hu : user.barred block.toNat = false) (hat : s.mem.hbmAt (s.mem.hbmPlace block.toNat) = some sl)
    (hr : r = s.blockRead (s.mem.hbmPlace block.toNat) stuck sl) :
    (r.outcome = .good → exec (.fabricHbmRead block [] stuck user) s = .next s) ∧
      (r.outcome = .corrected → exec (.fabricHbmRead block [] stuck user) s =
        .next (s.corrected 0 (s.mem.hbmPlace block.toNat) r.located)) := by
  have hsnd : (s.hbmRead block.toNat stuck false).2 = r := by rw [State.hbmRead_snd hat, hr]
  constructor <;> intro hout <;>
    rw [exec_fabricHbmRead stuck hu, hsnd, State.hbmRead_fst hat false hr, hout, if_pos (by simp [HbmRead.ok, hout])]

/-- A block that cannot be restored is poisoned, and its reader's command gets the bus error. -/
theorem fabricHbmRead_lost {src : Src} (hu : (MemUser.command src).barred block.toNat = false)
    (hat : s.mem.hbmAt (s.mem.hbmPlace block.toNat) = some sl)
    (hr : r = s.blockRead (s.mem.hbmPlace block.toNat) stuck sl)
    (hout : r.outcome = .uncorrectable ∨ r.outcome = .uninit) : ∃ uninit e,
    exec (.fabricHbmRead block [] stuck (.command src)) s =
      .next ((s.poisonBlock block.toNat uninit false e).busError (.command src)) := by
  have hsnd : (s.hbmRead block.toNat stuck false).2 = r := by rw [State.hbmRead_snd hat, hr]
  rcases hout with hout | hout
  · exact ⟨false, _, by rw [exec_fabricHbmRead stuck hu, hsnd, State.hbmRead_fst hat false hr, hout,
      if_neg (by simp [HbmRead.ok, hout])]; rfl⟩
  · exact ⟨true, _, by rw [exec_fabricHbmRead stuck hu, hsnd, State.hbmRead_fst hat false hr, hout,
      if_neg (by simp [HbmRead.ok, hout])]; rfl⟩

end

/-- The controller's error count and sticky bit are fields of block 44. -/
theorem hbmErrFields_mem : F.MEM_HBM_UNCORR_COUNT ∈ allFields ∧ F.MEM_ERR_STATUS_HBM_UNCORR ∈ allFields := by decide +kernel

/-- A bus error of a command leaves the memories and the controller's registers alone. -/
theorem State.busError_mem (s : State) (u : MemUser) : (s.busError u).mem = s.mem :=
  State.busError_only (L := partsOfPlace ++ [.regs 12]) (by decide) (.refl s) .mem (by decide)

theorem State.fget_busError (s : State) (u : MemUser) {f : Field} (hf : f ∈ allFields) (hb : f.block = 44) (i j : Nat) :
    (s.busError u).fget f i j = s.fget f i j :=
  State.busError_only (L := partsOfPlace ++ [.regs 12]) (by decide) (.refl s) (.regs 44) (by decide) f hf hb i j

/-- Settles O33: a write is one `hbmPut`, a read one case of the decode, and what an uncorrectable unit brings about is its
record, its poison and its owner's part, one after the other. -/
theorem memoryAccess : Obligations.MemoryAccess := by
  intro s block user hu p hp
  subst hp
  refine ⟨fun off bytes stuck => ⟨fun h0 h192 => ?_, fun sl r hat hr hok hpos hlt hle => ?_⟩,
    fun stuck sl r hat hr => ⟨(fabricHbmRead_ok hu hat hr).1, fun hout => ?_, fun hout src c huser hc hstage hroom => ?_⟩,
    fun mram addr stuck k q hk ha hq => ⟨fun d hgood => ?_, fun ad hbad => ⟨fun hm huser => ?_, fun hm hsolo h0 h1 => ?_⟩⟩⟩
  · subst h0
    exact ⟨_, exec_fabricHbmWrite_whole stuck hu h192, State.hbmAt_hbmWrite _ _ _, State.hbmWrite_only (by decide) (.refl s)⟩
  · exact fabricHbmWrite_part_hbmAt hu hat hr hok hpos hlt hle
  · refine ⟨_, (fabricHbmRead_ok hu hat hr).2 hout, ?_, State.corrected_hbm _ _ _ _, State.corrected_only (by decide) (.refl s)⟩
    exact s.rdi_addi (f := F.MEM_HBM_CORR_COUNT) (by decide) 0 1
  · subst huser
    obtain ⟨uninit, e, hexec⟩ := fabricHbmRead_lost hu hat hr hout
    have hrings := s.poisonBlock_sameRings block.toNat uninit e
    have hc' : (s.poisonBlock block.toNat uninit false e).cmdOf src = some c := by
      rwa [State.cmdOf_congr (State.poisonBlock_sq s _ _ _)]
    refine ⟨_, hexec, ?_, ?_, ?_, ?_⟩
    · rw [State.busError_mem, State.poisonBlock_hbmAt]
    · rw [State.rd, State.fget_busError _ _ hbmErrFields_mem.1 rfl]
      exact s.poisonBlock_count _ _ _
    · rw [State.rd, State.fget_busError _ _ hbmErrFields_mem.2 rfl]
      exact s.poisonBlock_sticky _ _ _
    · exact (State.busError_completed hc' hstage (hroom.to hrings rfl rfl)).since hrings
        (State.poisonBlock_keeps (.refl s)).out
  · subst hq
    rw [exec_sramMramRead stuck user hk ha, State.wordRead_good hgood]
    rfl
  · subst hm huser hk
    exact ⟨_, sramRead_bad ha hq hbad, s.wordBad_sram_count q ad, s.wordBad_sram_wordAt q ad, s.wordBad_sram_raised q ad⟩
  · subst hm hk
    have hsolo' : (s.wordBad 2 q ad false).inGroup = false := by rwa [State.inGroup, State.wordBad_grp]
    refine ⟨_, mramRead_badSeq user ha hq hbad h0 h1, (s.wordBad_mram_raised q ad).of_host ?_, fun st hst => ?_⟩
    · rw [State.wordFixed_host, State.seqLost_host]
    · have hst' : st = (16 * addr.toNat - 0x800000) / 16 * 2 ∨ st = (16 * addr.toNat - 0x800000) / 16 * 2 + 1 := by omega
      rw [State.entry, State.wordFixed_obj]
      exact State.entry_seqLost hsolo' _ _ hst'

end Sys2Proof.Machine

namespace Sys2Proof.Machine

/-! ## Start-up: what fails and what a failure leaves (R440) -/

/-- A field outside the parts that may differ reads the same. -/
theorem Only.fget {L : List Part} {s t : State} (h : Only L s t) {f : Field} (hf : f ∈ allFields)
    (hb : Part.regs f.block ∉ L) (i j : Nat) : t.fget f i j = s.fget f i j := h (.regs f.block) hb f hf rfl i j

/-- The item of an event stands last when the FIFO is as it was. -/
theorem raised_of_fifo {s t : State} (hf : t.host.evtFifo = s.host.evtFifo) (hq : t.host.evtSeq = s.host.evtSeq)
    (a b c d : Nat) : Raised a b c d s (t.raise a b c d) := fun hr => by
  rw [State.raise, State.raiseFor_evtFifo _ _ _ _ _ _ _ (by rwa [hf]), hf, hq]

namespace State

variable (s : State)

theorem startFails_bootFail (n : Nat) : (s.startFails n).rd F.HIF_STATUS_BOOT_FAIL = 1 := by
  unfold startFails
  simp (disch := decide) [fget_raiseFor, fget_fset_other, fget_fset_same]

theorem startFails_recovery (n : Nat) : (s.startFails n).rd F.BOOT_STATUS_RECOVERY = 1 := by
  unfold startFails
  simp (disch := decide) [fget_raiseFor, fget_fset_other, fget_fset_same]

theorem startFails_stage (n : Nat) : (s.startFails n).rd F.BOOT_STATUS_STAGE = 7 := by
  unfold startFails
  simp (disch := decide) [fget_raiseFor, fget_fset_same]
  rfl

theorem startFails_cause {n : Nat} (h : n < 8) : (s.startFails n).rd F.BOOT_FAIL_CAUSE_CAUSE = n := by
  unfold startFails
  simp (disch := decide) [fget_raiseFor, fget_fset_other, fget_fset_same]
  exact Nat.mod_eq_of_lt (Nat.lt_of_lt_of_le h (by decide))

@[simp] theorem startFails_cfgDone (n : Nat) : (s.startFails n).host.cfgDone = s.host.cfgDone := by
  simp [startFails]

@[simp] theorem startFails_readyOnce (n : Nat) : (s.startFails n).host.readyOnce = s.host.readyOnce := by
  simp [startFails]

@[simp] theorem startFails_boot (n : Nat) : (s.startFails n).boot = s.boot := by
  simp [startFails]

theorem startFails_raised {s t : State} (hf : t.host.evtFifo = s.host.evtFifo) (hq : t.host.evtSeq = s.host.evtSeq)
    (n : Nat) : Raised 0xA 0 5 n s (t.startFails n) := by
  unfold startFails
  exact raised_of_fifo (by simpa using hf) (by simpa using hq) _ _ _ _

@[simp] theorem linkConfig_cfgDone : s.linkConfig.host.cfgDone = true := rfl
@[simp] theorem linkConfig_readyOnce : s.linkConfig.host.readyOnce = s.host.readyOnce := rfl
@[simp] theorem linkConfig_evtFifo : s.linkConfig.host.evtFifo = s.host.evtFifo := rfl
@[simp] theorem linkConfig_evtSeq : s.linkConfig.host.evtSeq = s.host.evtSeq := rfl
@[simp] theorem linkConfig_boot : s.linkConfig.boot = s.boot := rfl

/-- The state in which start-up begins: the causes of the reset are taken and the flash is reset. -/
def startBegins : State := (s.setBoot { s.boot with causes := [] }).emit (.nor 2 0 0)

theorem mayStart_of (h0 : s.rd F.BOOT_STATUS_STAGE = 0) (h1 : s.rd F.PWR_STATUS_SAG_WARN = 0)
    (h2 : s.pwr.thermalHold = none) : s.mayStart = true := by
  simp [mayStart, h0, h1, h2]

end State

theorem exec_startUp_noOtp {s : State} (hm : s.mayStart = true) (hp : s.boot.fuses.otpRead = false) (x y z : Bool)
    (c : BitVec 5) (u : BitVec 2) (ms : BitVec 16) :
    exec (.startUp false x y c u z ms) s = .next (s.startBegins.linkConfig.startFails 3) := by
  change execStartUp false x y c u z ms s = _
  simp [execStartUp, hm, hp, State.startBegins]

theorem exec_startUp_noLock {s : State} (hm : s.mayStart = true) (hp : s.boot.fuses.otpRead = false) (y z : Bool)
    (c : BitVec 5) (u : BitVec 2) (ms : BitVec 16) :
    exec (.startUp true false y c u z ms) s = .next (s.startBegins.readOtp.linkConfig.startFails 4) := by
  change execStartUp true false y c u z ms s = _
  simp [execStartUp, hm, hp, State.startBegins]

theorem exec_startUp_warm {s : State} (hm : s.mayStart = true) (hp : s.boot.fuses.otpRead = true) (x y w z : Bool)
    (c : BitVec 5) (u : BitVec 2) (ms : BitVec 16) : exec (.startUp x y w c u z ms) s =
      .next (s.startBegins.pllsLocked.startFrom w c.toNat u.toNat z ms.toNat s.boot.causes) := by
  change execStartUp x y w c u z ms s = _
  simp [execStartUp, hm, hp, State.startBegins]

namespace State

variable (s : State)

/-! ## The slots in start-up (R434, R435) -/

/-- Two states with the same flash, image state record and fused values: a slot is chosen and checked alike in both. -/
structure SameImages (s t : State) : Prop where
  boot : t.boot = { s.boot with causes := t.boot.causes }
  revoked : t.rd F.BOOT_OTP_REVOKED = s.rd F.BOOT_OTP_REVOKED
  minSvn : t.rd F.BOOT_OTP_MIN_SVN = s.rd F.BOOT_OTP_MIN_SVN

/-- Only the causes of the last reset, which no image depends on, may differ. -/
theorem SameImages.nor {s t : State} (h : SameImages s t) : t.boot.nor = s.boot.nor := by rw [h.boot]
theorem SameImages.imgRec {s t : State} (h : SameImages s t) : t.boot.imgRec = s.boot.imgRec := by
  rw [h.boot]; rfl
theorem header_congr {s t : State} (h : t.boot.nor = s.boot.nor) (slot : Bool) : t.header slot = s.header slot := by
  unfold header norBytes
  rw [h]

theorem SameImages.refl : SameImages s s := ⟨rfl, rfl, rfl⟩

theorem SameImages.slotOrder {s t : State} (h : SameImages s t) : t.slotOrder = s.slotOrder := by
  unfold State.slotOrder
  rw [h.imgRec, header_congr h.nor, header_congr h.nor]

theorem SameImages.checkSlot {s t : State} (h : SameImages s t) (slot : Bool) : t.checkSlot slot = s.checkSlot slot := by
  unfold State.checkSlot State.checkFuses State.norBytes
  rw [header_congr h.nor, h.revoked, h.minSvn, h.boot]

theorem SameImages.record {s t : State} (h : SameImages s t) : t.imgRec = s.imgRec := by
  unfold State.imgRec
  rw [h.imgRec]

/-- A change of other parts and of other registers keeps what images depend on. -/
theorem SameImages.trans_only {L : List Part} {s t u : State} (h : SameImages s t) (hu : Only L t u) (hb : .boot ∉ L)
    (h48 : .regs 48 ∉ L) : SameImages s u := by
  have hfields : F.BOOT_OTP_REVOKED ∈ allFields ∧ F.BOOT_OTP_MIN_SVN ∈ allFields := by decide +kernel
  have hboot : u.boot = t.boot := hu .boot hb
  refine ⟨by rw [hboot]; exact h.boot, ?_, ?_⟩
  · exact (hu.fget hfields.1 h48 0 0).trans h.revoked
  · exact (hu.fget hfields.2 h48 0 0).trans h.minSvn

theorem fget_showImgRec_otp {f : Field} (hf : f = F.BOOT_OTP_REVOKED ∨ f = F.BOOT_OTP_MIN_SVN) (i j : Nat) :
    s.showImgRec.fget f i j = s.fget f i j := by
  rcases hf with rfl | rfl <;> simp (disch := decide) [showImgRec, fget_fset_other]

end State
namespace State

variable {s t : State}

theorem SameImages.showImgRec (h : SameImages s t) : SameImages s t.showImgRec where
  boot := by rw [showImgRec_boot]; exact h.boot
  revoked := (t.fget_showImgRec_otp (.inl rfl) 0 0).trans h.revoked
  minSvn := (t.fget_showImgRec_otp (.inr rfl) 0 0).trans h.minSvn

theorem SameImages.startBegins (s : State) : SameImages s s.startBegins := ⟨rfl, rfl, rfl⟩

/-- The MRAM step shows the record and what lies in MRAM, and changes neither. -/
theorem SameImages.mramStep (h : SameImages s t) : SameImages s t.mramStep := by
  have hm : SameImages s t.showMram := h.trans_only (showMram_only (L := [.regs 44]) (by decide) (.refl t)) (by decide)
    (by decide)
  refine hm.showImgRec.trans_only (L := [.regs 2, .regs 24, .regs 28]) ?_ (by decide) (by decide)
  unfold State.mramStep
  exact loadLevels_only (by decide) <| wr_only (by decide) <| wr_only (by decide) <| wr_only (by decide) <| .refl _

theorem SameImages.stage (h : SameImages s t) (n : Nat) : SameImages s (t.wr F.BOOT_STATUS_STAGE n) where
  boot := h.boot
  revoked := (t.fget_fset_other _ _ _ _ _ (by decide)).trans h.revoked
  minSvn := (t.fget_fset_other _ _ _ _ _ (by decide)).trans h.minSvn

/-- The image state record is written alike whatever the causes of the last reset are. -/
theorem putRec_causes (b : BootSt) (c : List Nat) (r : ImgRec) :
    ({ b with causes := c } : BootSt).putRec r = { b.putRec r with causes := c } := by
  unfold BootSt.putRec
  have hi : ({ b with causes := c } : BootSt).imgRec = b.imgRec := rfl
  dsimp only
  rw [hi]
  split
  · split <;> rfl
  · rfl

theorem fget_writeImgRec_otp (s : State) (r : ImgRec) {f : Field}
    (hf : f = F.BOOT_OTP_REVOKED ∨ f = F.BOOT_OTP_MIN_SVN) (i j : Nat) : (s.writeImgRec r).fget f i j = s.fget f i j :=
  fget_showImgRec_otp _ hf i j

theorem SameImages.writeImgRec (h : SameImages s t) (r : ImgRec) : SameImages (s.writeImgRec r) (t.writeImgRec r) where
  boot := by
    have hc : (s.boot.putRec { r with seq := s.imgRec.seq + 1 }).causes = s.boot.causes := by
      obtain ⟨a, b, hab⟩ := s.boot_writeImgRec r
      rw [← boot_writeImgRec', hab]
    rw [boot_writeImgRec', boot_writeImgRec', h.record, h.boot, putRec_causes]
  revoked := by
    rw [rd, rd, fget_writeImgRec_otp _ _ (.inl rfl), fget_writeImgRec_otp _ _ (.inl rfl)]
    exact h.revoked
  minSvn := by
    rw [rd, rd, fget_writeImgRec_otp _ _ (.inr rfl), fget_writeImgRec_otp _ _ (.inr rfl)]
    exact h.minSvn

/-- A PENDING slot is forgotten in both states or in neither. -/
theorem SameImages.dropPending (h : SameImages s t) : SameImages s.dropPending t.dropPending := by
  unfold State.dropPending
  rw [h.imgRec]
  split
  · split
    · exact h.writeImgRec _
    · exact h
  · exact h

/-- The state in which the slots are tried. -/
def slotChoice (s : State) : State := (s.mramStep.wr F.BOOT_STATUS_STAGE 1).dropPending

theorem SameImages.slotChoice (s : State) : SameImages s.dropPending s.startBegins.pllsLocked.slotChoice := by
  have hp : SameImages s s.startBegins.pllsLocked :=
    (SameImages.startBegins s).trans_only (pllsLocked_only (L := [.regs 1]) (by decide) (.refl _)) (by decide) (by decide)
  exact (hp.mramStep.stage 1).dropPending

theorem startFrom_noHbm (s : State) (c u ms : Nat) (z : Bool) (l : List Nat) :
    s.startFrom false c u z ms l = s.slotChoice.linkConfig.initSram.startFails 5 := rfl

/-- The links' configuration and the memories' initialization leave the flash, the record and the fused values alone. -/
theorem SameImages.initMemories (h : SameImages s t) : SameImages s t.linkConfig.initMemories :=
  h.trans_only (initMemories_only (L := [.host, .mem, .regs 4, .regs 44]) (by decide)
    (linkConfig_only (by decide) (.refl t))) (by decide) (by decide)

/-- With no slot to try, start-up fails with cause 2. -/
theorem startFrom_noSlot (s : State) (c u ms : Nat) (z : Bool) (l : List Nat) (h : s.slotChoice.slotOrder = []) :
    s.startFrom true c u z ms l = s.slotChoice.linkConfig.initMemories.startFails 2 := by
  change (match s.slotChoice.linkConfig.initMemories.trySlots u s.slotChoice.slotOrder with
    | (s, none) => _
    | (s, some t) => _) = _
  rw [h]
  rfl

/-- The first slot passes: its TRIES is raised and start-up goes on from it. -/
theorem trySlots_first {slot : Bool} (rest : List Bool) (h1 : s.imgRec.eligible slot = true)
    (h2 : s.imgRec.state slot ≠ 3) (h3 : (s.checkSlot slot).1 = 0) : s.trySlots 0 (slot :: rest) =
      (s.writeImgRec (s.noteVersion slot (s.imgRec.setTries slot (s.imgRec.tries slot + 1))), some slot) := by
  have hb : bitAt 0 (b2n slot) = false := by simp [bitAt]
  rw [trySlots]
  simp [h1, h2, h3, hb]

end State
namespace State

/-! ## From the released processor to the lock point (R434, R436, R438) -/

/-- The fields that show how far start-up has come, and the personality: no image record writes them. -/
def startFields : List Field :=
  [F.HIF_STATUS_READY, F.BOOT_STATUS_LOCKED, F.BOOT_STATUS_STAGE, F.BOOT_SLOT_STARTED, F.BOOT_START_MS_MS, F.GLB_CONFIG_MODE]

set_option maxRecDepth 100000 in
theorem startFields_mem : ∀ f ∈ startFields, f ∈ allFields := by decide +kernel

theorem startFields_fixed : ∀ f ∈ startFields, f.acc ≠ .rw ∧ f.acc ≠ .rwl := by decide

theorem startFields_notEvent : ∀ f ∈ startFields, f.place ∉ eventPlaces := by decide

/-- The start-up fields lie in GLB, HIF and BOOT. -/
theorem startFields_block : ∀ f ∈ startFields, f.block = 0 ∨ f.block = 4 ∨ f.block = 48 := by decide

variable {f : Field}

/-- Parts outside GLB, HIF and BOOT hold no start-up field. -/
theorem fget_start_of_only {L : List Part} {s t : State} (hf : f ∈ startFields) (h : Only L s t)
    (h0 : .regs 0 ∉ L) (h4 : .regs 4 ∉ L) (h48 : .regs 48 ∉ L) : t.rd f = s.rd f := by
  refine h.fget (startFields_mem f hf) ?_ 0 0
  rcases startFields_block f hf with hb | hb | hb <;> rw [hb] <;> assumption

theorem fget_raise_start (s : State) (hf : f ∈ startFields) (a b c d : Nat) : (s.raise a b c d).rd f = s.rd f :=
  s.fget_raiseFor _ _ _ _ _ _ _ _ (startFields_notEvent f hf)

theorem fget_applyRecs_start (s : State) (hf : f ∈ startFields) (l : List ParamRec) :
    (l.foldl State.applyRec s).rd f = s.rd f :=
  applyRecs_fixed l s (startFields_mem f hf) (startFields_fixed f hf).1 (startFields_fixed f hf).2 0 0

/-- A lifetime counter's step writes no start-up field. -/
theorem fget_lifeAdd_start (s : State) (hf : f ∈ startFields) (off n : Nat) : (s.lifeAdd off n).rd f = s.rd f := by
  have hstep : ∀ (u : State) (c : Prop) [Decidable c] (a b d e : Nat),
      (if c then u.raise a b d e else u).rd f = u.rd f := fun u c _ a b d e => by
    split
    · exact fget_raise_start u hf a b d e
    · rfl
  unfold lifeAdd
  extract_lets old new
  unfold lifeStep
  extract_lets thr s1 s2
  calc _ = s2.rd f := hstep s2 _ _ _ _ _
    _ = s1.rd f := hstep s1 _ _ _ _ _
    _ = s.rd f := hstep _ _ _ _ _ _

theorem fget_markerStep_start (s : State) (hf : f ∈ startFields) (l : List Nat) : (s.markerStep l).rd f = s.rd f := by
  unfold markerStep
  extract_lets p n s1
  have hcheck : s1.rd f = s.rd f :=
    fget_start_of_only hf (checkSeqTable_only (L := [.obj]) (by decide) (.refl s)) (by decide) (by decide) (by decide)
  split
  · rw [fget_raise_start _ hf]
    exact fget_start_of_only hf (wr_only (L := [.regs 3]) (by decide) (.refl s)) (by decide) (by decide) (by decide)
  · split
    · rw [fget_raise_start _ hf, fget_lifeAdd_start _ hf, ← hcheck]
      exact fget_start_of_only hf (wr_only (L := [.regs 2]) (by decide) (.refl s1)) (by decide) (by decide) (by decide)
    · rfl

/-- What a change of causes writes lies in THM and SQ, and in what its events write. -/
theorem fget_syncCauses_start (s : State) (hf : f ∈ startFields) : s.syncCauses.rd f = s.rd f := by
  have hwr : ∀ (u : State) (g : Field) (v : Nat), g.block = 3 ∨ g.block = 8 → (u.wr g v).rd f = u.rd f := fun u g v hg =>
    fget_start_of_only hf (wr_only (L := [.regs 3, .regs 8]) (by rcases hg with h | h <;> rw [h] <;> decide) (.refl u))
      (by decide) (by decide) (by decide)
  have henforce : ∀ u : State, u.enforce.rd f = u.rd f := fun u => by
    unfold enforce
    rw [fget_raise_start _ hf]
    refine (hwr _ _ _ (by decide)).trans ((hwr _ _ _ (by decide)).trans (hwr _ _ _ (by decide)))
  unfold syncCauses
  extract_lets old new s1 st grace fresh s2 p s3 s4
  have h1 : s1.rd f = s.rd f := hwr _ _ _ (by decide)
  have h2 : s2.rd f = s.rd f := (fget_raise_start _ hf _ _ _ _).trans h1
  have h4 : s4.rd f = s.rd f := by
    have h3 : s3.rd f = s.rd f := by
      unfold s3
      split <;> exact h1
    rw [← h3]
    exact fget_unask _ _ _ _ _ _
  split
  · rfl
  · split
    · split
      · exact (henforce s2).trans h2
      · exact ((hwr _ _ _ (by decide)).trans (hwr _ _ _ (by decide))).trans h2
    · split
      · rw [fget_raise_start _ hf]
        exact ((hwr _ _ _ (by decide)).trans (hwr _ _ _ (by decide))).trans h4
      · exact h1

/-- A change of causes leaves the shutdown marker alone. -/
theorem syncCauses_markState (s : State) : s.syncCauses.pwr.markState = s.pwr.markState := by
  unfold syncCauses enforce
  dsimp only
  repeat' split
  all_goals simp [unask]

end State
namespace State

/-! ## The medium starts by itself -/

/-- The medium is starting, with the records of WHEN 2 applied, and nothing has moved yet. -/
def startingMedium (s : State) : State :=
  let u := s.boot.when2.foldl State.applyRec s
  { u with medium := { u.medium with state := mStarting, func := 1, stopAfter := false } }

/-- The first stages of the load sequence move the tape and write CTL alone. -/
theorem loadEnter_first {L : List Part} {s0 s : State} (hL : [.out, .mot, .ctl, .regs 32] ⊆ L) (h : Only L s0 s)
    (m : MotSt) : Only L s0 (s.loadEnter m.firstStage) := by
  have h1 : m.firstStage = 1 ∨ m.firstStage = 2 ∨ m.firstStage = 3 := by
    unfold MotSt.firstStage
    split
    · exact .inl rfl
    · split
      · exact .inr (.inl rfl)
      · exact .inr (.inr rfl)
  have hmot : ∀ x, Only L s0 (s.setMot x) := fun x => setMot_only (Part.sub hL (by decide)) h
  unfold loadEnter
  rcases h1 with h1 | h1 | h1 <;> rw [h1]
  · exact hmot _
  · refine tapeRamp_only (Part.sub hL (by decide)) (enableSlot_only (Part.sub hL (by decide)) ?_)
    exact wr_only (Part.sub hL (by decide)) (setMot_only (Part.sub hL (by decide)) (hmot _))
  · refine tapeRamp_only (Part.sub hL (by decide)) (Only.foldl _ ?_ fun s _ h =>
      enableSlot_only (Part.sub hL (by decide)) h)
    exact wr_only (Part.sub hL (by decide)) (setMot_only (Part.sub hL (by decide)) (hmot _))

/-- From there on the start touches the mechanics alone. -/
theorem startMedium_only_starting (s : State) :
    Only [.out, .mot, .wra, .ctl, .regs 28, .regs 32] s.startingMedium s.startMedium := by
  have hmot : ∀ x, Only [.out, .mot, .wra, .ctl, .regs 28, .regs 32] s.startingMedium (s.startingMedium.setMot x) :=
    fun x => setMot_only (by decide) (.refl _)
  unfold startMedium
  refine Only.ite ?_ ?_
  · refine loadEnter_first (by decide) (sendMdrv_only (by decide) (Only.foldl _ (hmot _) fun s _ h =>
      enableLane_only (by decide) h)) _
  · exact loadLevels_only (by decide) <| loadBus_only (by decide) <| loadBus_only (by decide) <|
      startSpindle_only (by decide) (hmot _)

theorem startMedium_medium (s : State) : s.startMedium.medium.state = mStarting := by
  rw [startMedium_only_starting s .medium (by decide)]
  rfl

theorem applyRecs_only (L : List Part) (hL : mapParts ⊆ L) (s : State) (l : List ParamRec) :
    Only L s (l.foldl State.applyRec s) := Only.foldl _ (.refl s) fun _ _ h => applyRec_only (Part.sub hL (by decide)) h

theorem startingMedium_only (s : State) : Only (.medium :: mapParts) s s.startingMedium :=
  Only.updMedium (by decide) (applyRecs_only _ (by decide) s _)

theorem startMedium_only_mech (s : State) : Only (mapParts ++ [.out, .mot, .medium, .wra, .ctl]) s s.startMedium :=
  ((startingMedium_only s).mono (by decide)).trans ((startMedium_only_starting s).mono (by decide))

theorem fget_startMedium_start (s : State) {f : Field} (hf : f ∈ startFields) : s.startMedium.rd f = s.rd f := by
  rw [fget_start_of_only hf (startMedium_only_starting s) (by decide) (by decide) (by decide)]
  exact fget_applyRecs_start s hf _

/-! ## The lock point (R436) -/

/-- The image state record of a slot from which start-up has come to the lock point: VALID, ACTIVE, TRIES 0 (R434). -/
def lockRecord (s : State) (t : Bool) : ImgRec :=
  let r := (s.imgRec.setState t 1).setTries t 0
  { r with active := b2n t, pending := if r.pending = b2n t then 0xFF else r.pending }

/-- The record, the marker, the medium and the registers of the lock point, before its events. -/
def locked (s : State) (t : Bool) (ms : Nat) : State :=
  let s := s.writeImgRec (s.lockRecord t)
  let s := s.setPwr { s.pwr with markState := 1, markSensor := 0, markDs := 0 }
  let s := s.setMedium s.restState
  let s := ((s.wr F.OMAP_STATUS_READY 1).wr F.BOOT_STATUS_LOCKED 1).wr F.BOOT_STATUS_STAGE 6
  let s := (s.wr F.HIF_STATUS_READY 1).wr F.BOOT_START_MS_MS (Nat.min ms 65535)
  { s with host := { s.host with readyOnce := true } }

/-- The events of the lock point, and the throttle as the causes now stand. -/
def lockEvents (s : State) (t : Bool) (link arg : Nat) : State :=
  let differ := (s.header false).crcOk && (s.header true).crcOk && (s.header false).linkCfg != (s.header true).linkCfg
  let s := if differ then (s.wr F.BOOT_SLOT_LINK_DIFFERS 1).raise 0xA (b2n t) 0x008 link else s
  s.syncCauses.raise 0xA (b2n t) 0x001 arg

/-- The medium starts by itself where the image says so (R436). -/
def autoStart (s : State) : State :=
  if s.on F.BOOT_START_CFG_AUTO_START && !(s.tMode && !s.tape.present) then s.startMedium else s

theorem lockPoint_eq (s : State) (t : Bool) (ms : Nat) : s.lockPoint t ms =
    ((s.locked t ms).lockEvents t (s.header t).linkCfg
      ((s.header t).version + Nat.min (ms / 10) 255 * 2 ^ 32)).autoStart := by
  unfold lockPoint locked lockRecord lockEvents autoStart
  with_reducible rfl

end State
namespace State

/-! What the lock point leaves, part by part. -/

theorem fget_writeImgRec_start (s : State) (r : ImgRec) {f : Field} (hf : f ∈ [F.BOOT_SLOT_STARTED, F.GLB_CONFIG_MODE]) :
    (s.writeImgRec r).rd f = s.rd f := by
  simp only [List.mem_cons, List.not_mem_nil, or_false] at hf
  rcases hf with rfl | rfl <;> simp (disch := decide) [writeImgRec, showImgRec, fget_fset_other]

theorem locked_registers (s : State) (t : Bool) (ms : Nat) : (s.locked t ms).rd F.HIF_STATUS_READY = 1 ∧
    (s.locked t ms).rd F.BOOT_STATUS_LOCKED = 1 ∧ (s.locked t ms).rd F.BOOT_STATUS_STAGE = 6 ∧
    (ms < 2 ^ 16 → (s.locked t ms).rd F.BOOT_START_MS_MS = ms) := by
  unfold locked
  simp (disch := decide) only [fget_mk, fget_fset_other, fget_fset_same]
  refine ⟨rfl, rfl, rfl, fun h => ?_⟩
  have hmin : Nat.min ms 65535 = ms := Nat.min_eq_left (by omega)
  rw [hmin]
  exact Nat.mod_eq_of_lt h

theorem fget_locked_start (s : State) (t : Bool) (ms : Nat) {f : Field}
    (hf : f ∈ [F.BOOT_SLOT_STARTED, F.GLB_CONFIG_MODE]) : (s.locked t ms).rd f = s.rd f := by
  have hw := fun r => s.fget_writeImgRec_start r hf
  unfold locked
  simp only [List.mem_cons, List.not_mem_nil, or_false] at hf
  rcases hf with rfl | rfl <;> simp (disch := decide) only [fget_mk, fget_fset_other, setMedium, setPwr, hw]

theorem locked_boot_eq (s : State) (t : Bool) (ms : Nat) :
    (s.locked t ms).boot = (s.writeImgRec (s.lockRecord t)).boot := by
  unfold locked
  simp only [fset_boot, setMedium_boot, setPwr_boot]

theorem locked_imgRec (s : State) (t : Bool) (ms : Nat) :
    (s.locked t ms).imgRec.active = b2n t ∧ (s.locked t ms).imgRec.state t = 1 := by
  have h : (s.locked t ms).imgRec = { s.lockRecord t with seq := s.imgRec.seq + 1 } := by
    rw [← s.imgRec_writeImgRec, imgRec, imgRec, locked_boot_eq]
  rw [h]
  exact ⟨rfl, by cases t <;> rfl⟩

theorem locked_boot (s : State) (t : Bool) (ms : Nat) : (s.locked t ms).boot.version = s.boot.version ∧
    (s.locked t ms).boot.wdtArmed = s.boot.wdtArmed := by
  obtain ⟨a, b, hab⟩ := s.boot_writeImgRec (s.lockRecord t)
  rw [locked_boot_eq, hab]
  exact ⟨rfl, rfl⟩

theorem locked_markState (s : State) (t : Bool) (ms : Nat) : (s.locked t ms).pwr.markState = 1 := rfl
theorem locked_readyOnce (s : State) (t : Bool) (ms : Nat) : (s.locked t ms).host.readyOnce = true := rfl

theorem restState_congr {s u : State} (h : u.rd F.GLB_CONFIG_MODE = s.rd F.GLB_CONFIG_MODE) :
    u.restState = s.restState := by
  unfold restState tMode
  rw [h]

/-- The medium is at rest at the lock point. -/
theorem locked_medium (s : State) (t : Bool) (ms : Nat) :
    (s.locked t ms).medium.state = (s.locked t ms).restState := by
  have hset : (s.locked t ms).medium.state = (s.writeImgRec (s.lockRecord t)).restState := by
    unfold locked
    simp only [fset_medium]
    exact restState_congr rfl
  rw [hset]
  exact restState_congr ((s.fget_writeImgRec_start _ (by decide)).trans (s.fget_locked_start t ms (by decide)).symm)

/-- The events of the lock point change the queues, the throttle and the supply's requests besides. -/
theorem lockEvents_only (s : State) (t : Bool) (link arg : Nat) :
    Only (partsOfEvent ++ [.sq, .pwr, .regs 3, .regs 8, .regs 48]) s (s.lockEvents t link arg) := by
  unfold lockEvents
  refine raise_only (by decide) (syncCauses_only (by decide) (Only.ite ?_ (.refl s)))
  exact raise_only (by decide) (wr_only (by decide) (.refl s))

theorem fget_lockEvents_start (s : State) (t : Bool) (link arg : Nat) {f : Field} (hf : f ∈ startFields) :
    (s.lockEvents t link arg).rd f = s.rd f := by
  have hd : f.place ≠ F.BOOT_SLOT_LINK_DIFFERS.place := (by decide : ∀ f ∈ startFields, f.place ≠ F.BOOT_SLOT_LINK_DIFFERS.place) f hf
  unfold lockEvents
  rw [fget_raise_start _ hf, fget_syncCauses_start _ hf]
  split
  · rw [fget_raise_start _ hf]
    exact fget_fset_other _ _ _ _ _ _ hd
  · rfl

theorem syncCauses_readyOnce (s : State) : s.syncCauses.host.readyOnce = s.host.readyOnce := by
  unfold syncCauses enforce
  dsimp only
  repeat' split
  all_goals simp

theorem lockEvents_markState (s : State) (t : Bool) (link arg : Nat) :
    (s.lockEvents t link arg).pwr.markState = s.pwr.markState := by
  unfold lockEvents
  dsimp only
  rw [raise, raiseFor_pwr, syncCauses_markState]
  split
  · rw [raise, raiseFor_pwr, fset_pwr]
  · rfl

theorem lockEvents_readyOnce (s : State) (t : Bool) (link arg : Nat) :
    (s.lockEvents t link arg).host.readyOnce = s.host.readyOnce := by
  unfold lockEvents
  dsimp only
  rw [raise, raiseFor_readyOnce, syncCauses_readyOnce]
  split
  · rw [raise, raiseFor_readyOnce, fset_host]
  · rfl

/-- A start of the medium by itself leaves everything but the mechanics and the image's registers alone. -/
theorem autoStart_only (s : State) : Only (mapParts ++ [.out, .mot, .medium, .wra, .ctl]) s s.autoStart :=
  Only.ite (startMedium_only_mech s) (.refl s)

theorem fget_autoStart_start (s : State) {f : Field} (hf : f ∈ startFields) : s.autoStart.rd f = s.rd f := by
  unfold autoStart
  split
  · exact fget_startMedium_start s hf
  · rfl

theorem autoStart_medium (s : State) : s.autoStart.medium.state = s.medium.state ∨ s.autoStart.medium.state = mStarting := by
  unfold autoStart
  split
  · exact .inr (startMedium_medium s)
  · exact .inl rfl

/-- What holds once start-up has passed its lock point from slot `t` (R436, R438). -/
structure AtLockPoint (s u : State) (t : Bool) (ms : Nat) : Prop where
  ready : u.rd F.HIF_STATUS_READY = 1
  locked : u.rd F.BOOT_STATUS_LOCKED = 1
  stage : u.rd F.BOOT_STATUS_STAGE = 6
  time : u.rd F.BOOT_START_MS_MS = ms
  started : u.rd F.BOOT_SLOT_STARTED = s.rd F.BOOT_SLOT_STARTED
  mode : u.rd F.GLB_CONFIG_MODE = s.rd F.GLB_CONFIG_MODE
  readyOnce : u.host.readyOnce = true
  active : u.imgRec.active = b2n t
  slotState : u.imgRec.state t = 1
  version : u.boot.version = s.boot.version
  armed : u.boot.wdtArmed = s.boot.wdtArmed
  mark : u.pwr.markState = 1
  medium : u.medium.state = u.restState ∨ u.medium.state = mStarting

theorem lockPoint_spec (s : State) (t : Bool) {ms : Nat} (hms : ms < 2 ^ 16) : AtLockPoint s (s.lockPoint t ms) t ms := by
  rw [lockPoint_eq]
  generalize (s.header t).linkCfg = link
  generalize (s.header t).version + Nat.min (ms / 10) 255 * 2 ^ 32 = arg
  obtain ⟨hready, hlocked, hstage, htime⟩ := s.locked_registers t ms
  have hfield : ∀ f ∈ startFields, (((s.locked t ms).lockEvents t link arg).autoStart).rd f = (s.locked t ms).rd f :=
    fun f hf => (fget_autoStart_start _ hf).trans (fget_lockEvents_start _ t link arg hf)
  have hauto := autoStart_only ((s.locked t ms).lockEvents t link arg)
  have hev := (s.locked t ms).lockEvents_only t link arg
  have hboot : (((s.locked t ms).lockEvents t link arg).autoStart).boot = (s.locked t ms).boot :=
    (hauto .boot (by decide)).trans (hev .boot (by decide))
  have hrec : (((s.locked t ms).lockEvents t link arg).autoStart).imgRec = (s.locked t ms).imgRec := by
    unfold State.imgRec
    rw [hboot]
  obtain ⟨hactive, hstate⟩ := s.locked_imgRec t ms
  obtain ⟨hversion, harmed⟩ := s.locked_boot t ms
  exact {
    ready := (hfield _ (by decide)).trans hready
    locked := (hfield _ (by decide)).trans hlocked
    stage := (hfield _ (by decide)).trans hstage
    time := (hfield _ (by decide)).trans (htime hms)
    started := (hfield _ (by decide)).trans (s.fget_locked_start t ms (by decide))
    mode := (hfield _ (by decide)).trans (s.fget_locked_start t ms (by decide))
    readyOnce := by
      rw [hauto .host (by decide), lockEvents_readyOnce, locked_readyOnce]
    active := by rw [hrec, hactive]
    slotState := by rw [hrec, hstate]
    version := by rw [hboot, hversion]
    armed := by rw [hboot, harmed]
    mark := by rw [hauto .pwr (by decide), lockEvents_markState, locked_markState]
    medium := by
      have hrest : (((s.locked t ms).lockEvents t link arg).autoStart).restState = (s.locked t ms).restState :=
        restState_congr (hfield _ (by decide))
      have hmed : ((s.locked t ms).lockEvents t link arg).medium = (s.locked t ms).medium := hev .medium (by decide)
      rw [hrest, ← locked_medium, ← hmed]
      exact autoStart_medium _ }

end State
namespace State

/-! ## The processor released and the image applied (R27, R28, R434, R439) -/

theorem releaseCpu_boot (s : State) (t : Bool) (first : Option Bool) :
    (s.releaseCpu t first).boot.version = (s.header t).version ∧ (s.releaseCpu t first).boot.wdtArmed = true ∧
      (s.releaseCpu t first).boot.nor = s.boot.nor := by
  have hnor : ∀ (l : List Nat) (g : Nat → Nat) (u : State),
      (l.foldl (fun u i => u.wri F.BOOT_PATCH_ADDR_LINE i (g i)) u).boot = u.boot := fun l g u => by
    induction l generalizing u with
    | nil => rfl
    | cons i l ih => rw [List.foldl_cons, ih]; rfl
  refine ⟨rfl, rfl, ?_⟩
  unfold releaseCpu
  extract_lets h p es n s1 s2 s3 s4 b s5
  have h1 : s2.boot = s.boot := by
    unfold s2
    split
    · rfl
    · rw [raise, raiseFor_boot]
      rfl
  have h4 : s4.boot = s.boot := by
    unfold s4 s3
    rw [hnor, fset_boot, fset_boot, h1]
  rw [fset_boot, setBoot_boot]
  simp only [b, h4]

theorem releaseCpu_started (s : State) (t : Bool) (first : Option Bool) :
    (s.releaseCpu t first).rd F.BOOT_SLOT_STARTED = b2n t := by
  have hpatch : ∀ (l : List Nat) (g : Nat → Nat) (u : State),
      (l.foldl (fun u i => u.wri F.BOOT_PATCH_ADDR_LINE i (g i)) u).rd F.BOOT_SLOT_STARTED = u.rd F.BOOT_SLOT_STARTED :=
    fun l g u => by
      induction l generalizing u with
      | nil => rfl
      | cons i l ih => rw [List.foldl_cons, ih]; exact fget_fset_other _ _ _ _ _ _ (by decide)
  have hfirst : (s.wr F.BOOT_SLOT_STARTED (b2n t)).rd F.BOOT_SLOT_STARTED = b2n t := by
    rw [rd, fget_fset_same]
    cases t <;> rfl
  unfold releaseCpu
  extract_lets h p es n s1 s2 s3 s4 b s5
  have h2 : s2.rd F.BOOT_SLOT_STARTED = b2n t := by
    unfold s2
    split
    · exact hfirst
    · exact (fget_raise_start _ (by decide) _ _ _ _).trans hfirst
  have h4 : s4.rd F.BOOT_SLOT_STARTED = b2n t := by
    unfold s4 s3
    rw [hpatch, rd, fget_fset_other _ _ _ _ _ _ (by decide), fget_fset_other _ _ _ _ _ _ (by decide)]
    exact h2
  rw [rd, fget_fset_other _ _ _ _ _ _ (by decide), fget_setBoot]
  exact h4

/-- The personality enters the registers whatever they held (R28). -/
theorem setPersonality_mode (s : State) (mode : Nat) : (s.setPersonality mode).rd F.GLB_CONFIG_MODE = mode % 4 := by
  unfold setPersonality
  extract_lets tape s1 s2 o s3
  have h3 : s3.rd F.GLB_CONFIG_MODE = mode % 4 := by
    refine (fget_start_of_only (L := [.regs 40]) (s := s1) (by decide) (wr_only (by decide) (wr_only (by decide) (.refl s1)))
      (by decide) (by decide) (by decide)).trans ?_
    exact s.fget_fset_same _ _ _ _
  exact (fget_start_of_only (L := [.regs 32]) (by decide) (assignSlots_only (by decide) (.refl s3)) (by decide) (by decide)
    (by decide)).trans h3

theorem setPersonality_started (s : State) (mode : Nat) :
    (s.setPersonality mode).rd F.BOOT_SLOT_STARTED = s.rd F.BOOT_SLOT_STARTED :=
  (setPersonality_only (L := [.obj, .regs 0, .regs 32, .regs 40]) (by decide) (.refl s)).fget
    (startFields_mem _ (by decide)) (by decide) 0 0

/-- Behind the personality the image's sections and the codeword cells touch neither it nor the slot. -/
theorem loadImage_fields (s : State) (t : Bool) : (s.loadImage t).rd F.GLB_CONFIG_MODE = (s.header t).personality % 4 ∧
    (s.loadImage t).rd F.BOOT_SLOT_STARTED = s.rd F.BOOT_SLOT_STARTED := by
  unfold loadImage
  extract_lets h img recs servo s1 s2 b s3 d s4
  have h4 : ∀ f ∈ startFields, s4.rd f = s1.rd f := fun f hf => by
    show s2.rd f = s1.rd f
    exact fget_applyRecs_start s1 hf _
  have hcells : ∀ f ∈ startFields, ((s4.wr F.GLB_CONFIG_PEER_EN (s4.rd F.BOOT_START_CFG_PEER_EN)).initCells).rd f = s1.rd f :=
    fun f hf => by
      have hp : f.place ≠ F.GLB_CONFIG_PEER_EN.place :=
        (by decide : ∀ f ∈ startFields, f.place ≠ F.GLB_CONFIG_PEER_EN.place) f hf
      rw [fget_start_of_only hf (initCells_only (L := [.regs 24]) (by decide) (.refl _)) (by decide) (by decide) (by decide)]
      exact (fget_fset_other _ _ _ _ _ _ hp).trans (h4 f hf)
  exact ⟨(hcells _ (by decide)).trans (setPersonality_mode s _), (hcells _ (by decide)).trans (setPersonality_started s _)⟩

theorem loadImage_boot (s : State) (t : Bool) : (s.loadImage t).boot.version = s.boot.version ∧
    (s.loadImage t).boot.wdtArmed = s.boot.wdtArmed := by
  unfold loadImage
  extract_lets h img recs servo s1 s2 b s3 d s4
  have h2 : s2.boot = s.boot := (applyRecs_only _ (fun _ h => h) s1 _ .boot (by decide)).trans
    (setPersonality_only (L := [.obj, .regs 0, .regs 32, .regs 40]) (by decide) (.refl s) .boot (by decide))
  have hcells : ((s4.wr F.GLB_CONFIG_PEER_EN (s4.rd F.BOOT_START_CFG_PEER_EN)).initCells).boot = s4.boot :=
    initCells_only (L := [.regs 24, .regs 0]) (by decide) (wr_only (by decide) (.refl s4)) .boot (by decide)
  rw [hcells]
  show s2.boot.version = _ ∧ s2.boot.wdtArmed = _
  rw [h2]
  exact ⟨rfl, rfl⟩

/-- The rest of start-up once a slot has been chosen and the processor reaches the lock point. -/
def startFromSlot (s : State) (t : Bool) (first : Option Bool) (ms : Nat) (causes : List Nat) : State :=
  (((((s.releaseCpu t first).selfTestResult []).loadImage t).loadRecord).markerStep causes).lockPoint t ms

/-- What start-up leaves that has come from a slot to the lock point. -/
theorem startFromSlot_spec (s : State) (t : Bool) (first : Option Bool) {ms : Nat} (hms : ms < 2 ^ 16) (causes : List Nat) :
    ∃ v, AtLockPoint v (s.startFromSlot t first ms causes) t ms ∧ v.rd F.BOOT_SLOT_STARTED = b2n t ∧
      v.rd F.GLB_CONFIG_MODE = (s.header t).personality % 4 ∧ v.boot.version = (s.header t).version ∧
      v.boot.wdtArmed = true := by
  refine ⟨_, lockPoint_spec _ t hms, ?_⟩
  obtain ⟨hversion, harmed, hnor⟩ := s.releaseCpu_boot t first
  generalize hu : s.releaseCpu t first = u at *
  have hself : Only [.regs 44] u (u.selfTestResult []) := selfTestResult_only (by decide) (.refl u)
  have hboot : (u.selfTestResult []).boot = u.boot := hself .boot (by decide)
  have hheader : (u.selfTestResult []).header t = s.header t := header_congr (by rw [hboot, hnor]) t
  obtain ⟨hmode, hstarted⟩ := (u.selfTestResult []).loadImage_fields t
  obtain ⟨hiv, hia⟩ := (u.selfTestResult []).loadImage_boot t
  generalize hw : (u.selfTestResult []).loadImage t = w at *
  have hrecord : Only [.grp, .regs 36] w w.loadRecord := loadRecord_only (by decide) (.refl w)
  have hmarker : Only (partsOfEvent ++ [.obj, .regs 2, .regs 3]) w.loadRecord (w.loadRecord.markerStep causes) :=
    markerStep_only (by decide) (.refl _)
  have hfield : ∀ f ∈ startFields, (w.loadRecord.markerStep causes).rd f = w.rd f := fun f hf =>
    (fget_markerStep_start _ hf causes).trans (fget_start_of_only hf hrecord (by decide) (by decide) (by decide))
  have hb : (w.loadRecord.markerStep causes).boot = w.boot := (hmarker .boot (by decide)).trans (hrecord .boot (by decide))
  refine ⟨?_, ?_, ?_, ?_⟩
  · rw [hfield _ (by decide), hstarted, fget_start_of_only (by decide) hself (by decide) (by decide) (by decide), ← hu,
      releaseCpu_started]
  · rw [hfield _ (by decide), hmode, hheader]
  · rw [hb, hiv, hboot, hversion]
  · rw [hb, hia, hboot, harmed]

theorem startFrom_slot (s : State) (ms : Nat) (l : List Nat) {slot : Bool} {rest : List Bool}
    (h : s.slotChoice.slotOrder = slot :: rest) (u : State)
    (hu : s.slotChoice.linkConfig.initMemories.trySlots 0 (slot :: rest) = (u, some slot)) :
    s.startFrom true 0 0 true ms l = u.startFromSlot slot (some slot) ms l := by
  unfold slotChoice at h hu
  unfold startFrom startFromSlot
  simp only [h, hu, Bool.not_true, Bool.false_eq_true, if_false, if_true, bne_self_eq_false, List.head?_cons]

end State

namespace State

/-- The fused minimum SVN enters its register, cut to its width (R428). -/
theorem readOtp_minSvn (s : State) :
    s.readOtp.rd F.BOOT_OTP_MIN_SVN = s.boot.fuses.minSvn % 2 ^ F.BOOT_OTP_MIN_SVN.w := by
  unfold readOtp
  simp (disch := decide) only [fget_setBoot, fget_fset_other, fget_fset_same]
  rfl

theorem fget_startFails_minSvn (s : State) (n : Nat) :
    (s.linkConfig.startFails n).rd F.BOOT_OTP_MIN_SVN = s.rd F.BOOT_OTP_MIN_SVN := by
  unfold startFails linkConfig
  simp (disch := decide) [fget_raiseFor, fget_fset_other]

/-- With an eligible first slot that passes its check, start-up from the choice of the slot on is start-up from it. -/
theorem startFrom_first (s : State) (ms : Nat) (l : List Nat) {slot : Bool} {rest : List Bool}
    (horder : s.slotChoice.slotOrder = slot :: rest) {d : State} (himg : SameImages d s.slotChoice)
    (h1 : d.imgRec.eligible slot = true) (h2 : d.imgRec.state slot ≠ 3) (h3 : (d.checkSlot slot).1 = 0) :
    ∃ u : State, s.startFrom true 0 0 true ms l = u.startFromSlot slot (some slot) ms l ∧ u.boot.nor = d.boot.nor := by
  have himg' := himg.initMemories
  refine ⟨_, startFrom_slot s ms l horder _ (trySlots_first rest (by rwa [himg'.record]) (by rwa [himg'.record])
    (by rwa [himg'.checkSlot])), ?_⟩
  generalize noteVersion _ slot _ = r
  obtain ⟨a, b, hab⟩ := s.slotChoice.linkConfig.initMemories.boot_writeImgRec r
  rw [hab]
  exact himg'.nor

/-- Forgetting a PENDING slot leaves the flash alone. -/
theorem dropPending_nor (s : State) : s.dropPending.boot.nor = s.boot.nor := by
  unfold dropPending
  split
  · split
    · next r _ _ =>
      obtain ⟨a, b, hab⟩ := s.boot_writeImgRec { r with pending := 0xFF }
      rw [hab]
    · rfl
  · rfl

end State

/-- Settles O35: an early stop is `startFails` on a state whose registers and flash are known; the choice of the slot sees
the same images as the state at the beginning; and the lock point is reached from the first slot alone. -/
theorem startUp : Obligations.StartUp := by
  intro s ms c u x y z h0 h1 h2
  have hm := s.mayStart_of h0 h1 h2
  have himg := State.SameImages.slotChoice s
  refine ⟨fun hp => ⟨⟨_, exec_startUp_noOtp hm hp x y z c u ms, ?_⟩, ⟨_, exec_startUp_noLock hm hp y z c u ms, ?_⟩⟩,
    fun hp => ⟨⟨_, exec_startUp_warm hm hp x y false z c u ms, ?_⟩,
      fun hempty => ⟨_, exec_startUp_warm hm hp x y true z c u ms, ?_⟩, fun slot rest horder helig hst hchk => ?_⟩⟩
  · exact ⟨State.startFails_bootFail _ _, State.startFails_recovery _ _, State.startFails_stage _ _,
      State.startFails_cause _ (by decide), by simp, by simp [State.startBegins], State.startFails_raised
        (by simp [State.startBegins]) (by simp [State.startBegins]) _⟩
  · refine ⟨State.startFails_recovery _ _, State.startFails_cause _ (by decide), by simp [State.readOtp], ?_⟩
    rw [State.fget_startFails_minSvn, State.readOtp_minSvn]
    rfl
  · rw [State.startFrom_noHbm]
    refine ⟨State.startFails_bootFail _ _, State.startFails_recovery _ _, State.startFails_cause _ (by decide), ?_⟩
    simp [State.initSram]
  · rw [State.startFrom_noSlot _ _ _ _ _ _ (by rw [himg.slotOrder, hempty])]
    exact ⟨State.startFails_recovery _ _, State.startFails_cause _ (by decide), State.startFails_stage _ _⟩
  · obtain ⟨v, hv, hnor⟩ := State.startFrom_first _ ms.toNat s.boot.causes (himg.slotOrder.trans horder) himg helig hst hchk
    have hheader : v.header slot = s.header slot := State.header_congr (hnor.trans s.dropPending_nor) slot
    obtain ⟨w, hw, hstarted, hmode, hversion, harmed⟩ := v.startFromSlot_spec slot (some slot) ms.isLt s.boot.causes
    exact ⟨_, (exec_startUp_warm hm hp x y true true 0#5 0#2 ms).trans (congrArg _ hv), hw.ready, hw.locked, hw.stage,
      hw.readyOnce, hw.started.trans hstarted, hw.active, hw.slotState, by rw [hw.mode, hmode, hheader],
      by rw [hw.version, hversion, hheader], hw.armed.trans harmed, hw.time, hw.mark, hw.medium⟩

end Sys2Proof.Machine

namespace Sys2Proof.Machine

/-! ## Single bits -/

theorem bitAt_clrBit (x i k : Nat) : bitAt (clrBit x i) k = (bitAt x k && !decide (i = k)) := by
  unfold clrBit
  split
  · next h =>
    obtain ⟨y, rfl⟩ : ∃ y, x = 2 ^ i + y := by
      rw [bitAt_eq_testBit] at h
      exact ⟨x - 2 ^ i, (Nat.add_sub_cancel' (Nat.ge_two_pow_of_testBit h)).symm⟩
    have hy : bitAt y i = false := by simpa [bitAt_eq_testBit, Nat.testBit_two_pow_add_eq] using h
    have hset : setBit y i = 2 ^ i + y := by simp [setBit, hy, Nat.add_comm]
    rw [Nat.add_sub_cancel_left, ← hset, bitAt_setBit]
    by_cases e : i = k
    · subst e; simp [hy]
    · simp [e]
  · next h =>
    by_cases e : i = k
    · subst e; simpa using h
    · simp [e]

namespace State

variable {s : State}

theorem bitAt_wr {f : Field} {k : Nat} (hk : k < Nat.min f.w 32) (v : Nat) : bitAt ((s.wr f v).rd f) k = bitAt v k := by
  simp only [fget_fset_same, bitAt_mod _ _ _ hk]

theorem bitAt_raiseBit {f : Field} {k : Nat} (hk : k < Nat.min f.w 32) (b : Nat) :
    bitAt ((s.raiseBit f b).rd f) k = (bitAt (s.rd f) k || decide (b = k)) :=
  (bitAt_wr hk _).trans (bitAt_setBit _ _ _)

/-! ## The write path's records: actuators and channels -/

@[simp] theorem actWra_setActWra_same (a : Nat) (v : ActWra) : (s.setActWra a v).actWra a = v := Store.get_put_same _ _ _ _

@[simp] theorem chan_setActWra (a c : Nat) (v : ActWra) : (s.setActWra a v).chan c = s.chan c := rfl
@[simp] theorem actWra_setChan (a c : Nat) (v : ChanWra) : (s.setChan c v).actWra a = s.actWra a := rfl
@[simp] theorem chan_setChan_same (c : Nat) (v : ChanWra) : (s.setChan c v).chan c = v := Store.get_put_same _ _ _ _
theorem chan_setChan_other {c d : Nat} (h : d ≠ c) (v : ChanWra) : (s.setChan c v).chan d = s.chan d :=
  Store.get_put_other _ _ _ _ h
@[simp] theorem fget_setActWra (a : Nat) (v : ActWra) (f : Field) (i j : Nat) :
    (s.setActWra a v).fget f i j = s.fget f i j := rfl
@[simp] theorem fget_setChan (c : Nat) (v : ChanWra) (f : Field) (i j : Nat) :
    (s.setChan c v).fget f i j = s.fget f i j := rfl
@[simp] theorem out_setActWra (a : Nat) (v : ActWra) : (s.setActWra a v).out = s.out := rfl
@[simp] theorem out_setChan (c : Nat) (v : ChanWra) : (s.setChan c v).out = s.out := rfl
@[simp] theorem host_setActWra (a : Nat) (v : ActWra) : (s.setActWra a v).host = s.host := rfl
@[simp] theorem host_setChan (c : Nat) (v : ChanWra) : (s.setChan c v).host = s.host := rfl
@[simp] theorem actWra_fset (a : Nat) (f : Field) (i j v : Nat) : (s.fset f i j v).actWra a = s.actWra a := rfl
@[simp] theorem chan_fset (c : Nat) (f : Field) (i j v : Nat) : (s.fset f i j v).chan c = s.chan c := rfl
@[simp] theorem actWra_emit (a : Nat) (o : Output) : (s.emit o).actWra a = s.actWra a := rfl
@[simp] theorem chan_emit (c : Nat) (o : Output) : (s.emit o).chan c = s.chan c := rfl
theorem actWra_congr {t : State} (h : t.wra = s.wra) (a : Nat) : t.actWra a = s.actWra a := by unfold actWra; rw [h]
theorem chan_congr {t : State} (h : t.wra = s.wra) (c : Nat) : t.chan c = s.chan c := by unfold chan; rw [h]

/-! ## Frames on the preamp bus -/

@[simp] theorem fget_sendPac (a c h n x : Nat) (f : Field) (i j : Nat) : (s.sendPac a c h n x).fget f i j = s.fget f i j := rfl
@[simp] theorem out_sendPac (a c h n x : Nat) : (s.sendPac a c h n x).out = .pac a (pacFrame c h n x) :: s.out := rfl
@[simp] theorem host_sendPac (a c h n x : Nat) : (s.sendPac a c h n x).host = s.host := rfl
@[simp] theorem chan_sendPac (a c h n x d : Nat) : (s.sendPac a c h n x).chan d = s.chan d := rfl
@[simp] theorem out_readPac (a c h n : Nat) :
    (s.readPac a c h n).out = .pac a (pacFrame 0 0 0 0) :: .pac a (pacFrame c h n 0) :: s.out := rfl
@[simp] theorem fget_readPac (a c h n : Nat) (f : Field) (i j : Nat) : (s.readPac a c h n).fget f i j = s.fget f i j := rfl
@[simp] theorem chan_readPac (a c h n d : Nat) : (s.readPac a c h n).chan d = s.chan d := rfl

/-- A frame sent on a bus replaces the last frame of that bus alone. -/
theorem actWra_sendPac (a b c h n x : Nat) : (s.sendPac b c h n x).actWra a =
    { s.actWra a with lastFrame := if a = b then pacFrame c h n x else (s.actWra a).lastFrame } := by
  by_cases e : a = b
  · subst e
    rw [if_pos rfl]
    exact Store.get_put_same _ _ _ _
  · rw [if_neg e]
    exact Store.get_put_other _ _ _ _ e

/-- What an actuator's record says besides the last frame of its bus stands in both states. -/
def SameAct (a : Nat) (s t : State) : Prop := ∃ f, t.actWra a = { s.actWra a with lastFrame := f }

theorem SameAct.refl (a : Nat) (s : State) : SameAct a s s := ⟨_, rfl⟩

theorem SameAct.of_wra {a : Nat} {t : State} (h : t.wra = s.wra) : SameAct a s t := ⟨_, actWra_congr h a⟩

theorem SameAct.trans {a : Nat} {t u : State} (h : SameAct a s t) (h' : SameAct a t u) : SameAct a s u := by
  obtain ⟨f, hf⟩ := h
  obtain ⟨g, hg⟩ := h'
  exact ⟨g, by rw [hg, hf]⟩

theorem SameAct.sendPac {a b c h n x : Nat} {t : State} (ht : SameAct a s t) : SameAct a s (t.sendPac b c h n x) := by
  obtain ⟨f, hf⟩ := ht
  exact ⟨_, (actWra_sendPac a b c h n x).trans (by rw [hf])⟩

theorem SameAct.emit {a : Nat} {t : State} (ht : SameAct a s t) (o : Output) : SameAct a s (t.emit o) := ht

theorem SameAct.readPac {a b c h n : Nat} {t : State} (ht : SameAct a s t) : SameAct a s (t.readPac b c h n) := by
  unfold State.readPac
  exact ht.sendPac.emit _

theorem SameAct.loadHead {a h : Nat} {t : State} (ht : SameAct a s t) : SameAct a s (t.loadHead h) := by
  unfold State.loadHead
  extract_lets n1 n2 n3 s4 s5 s6 s7 s8
  have h4 : SameAct a s s4 := ht.sendPac.sendPac
  have h5 : SameAct a s s5 := h4.sendPac
  have h6 : SameAct a s s6 := h5.sendPac
  have h7 : SameAct a s s7 := h6.sendPac
  have h8 : SameAct a s s8 := h7.sendPac
  exact h8.sendPac

theorem SameAct.loadBus {a b : Nat} {t : State} (ht : SameAct a s t) : SameAct a s (t.loadBus b) := by
  unfold State.loadBus
  generalize (List.range t.disk.heads).filter (fun h => t.actOf h = b) = l
  induction l generalizing t with
  | nil => exact ht
  | cons h l ih =>
    rw [List.foldl_cons]
    exact ih ht.loadHead

theorem fget_loadHead (h : Nat) (f : Field) (i j : Nat) : (s.loadHead h).fget f i j = s.fget f i j := by
  simp only [loadHead, sendBias, fget_sendPac]

theorem fget_loadBus (b : Nat) (f : Field) (i j : Nat) : (s.loadBus b).fget f i j = s.fget f i j := by
  unfold State.loadBus
  generalize (List.range s.disk.heads).filter (fun h => s.actOf h = b) = l
  induction l generalizing s with
  | nil => rfl
  | cons h l ih => rw [List.foldl_cons, ih, fget_loadHead]

/-! ## The gates released -/

theorem fget_releaseGates (a : Nat) {f : Field} (i j : Nat) (h : f.place ≠ F.WRA_STATUS_AG.place)
    (h' : f.place ≠ F.WRA_STATUS_WG.place) : (s.releaseGates a).fget f i j = s.fget f i j := by
  simp [releaseGates, chansOf, fget_fset_other _ _ _ _ _ _ h, fget_fset_other _ _ _ _ _ _ h']

theorem releaseGates_gates (a : Nat) (ha : a < 2) : bitAt ((s.releaseGates a).rd F.WRA_STATUS_AG) a = false ∧
    bitAt ((s.releaseGates a).rd F.WRA_STATUS_WG) a = false := by
  constructor
  · have h : (s.releaseGates a).rd F.WRA_STATUS_AG = (s.wr F.WRA_STATUS_AG (clrBit (s.rd F.WRA_STATUS_AG) a)).rd
        F.WRA_STATUS_AG := by
      simp (disch := decide) [releaseGates, chansOf, fget_fset_other]
    rw [h, bitAt_wr ha, bitAt_clrBit]
    simp
  · have h : (s.releaseGates a).rd F.WRA_STATUS_WG = (s.wr F.WRA_STATUS_WG (clrBit (s.rd F.WRA_STATUS_WG) a)).rd
        F.WRA_STATUS_WG := by
      simp (disch := decide) [releaseGates, chansOf, fget_fset_same]
    rw [h, bitAt_wr ha, bitAt_clrBit]
    simp

@[simp] theorem releaseGates_out (a : Nat) : (s.releaseGates a).out = s.out := by simp [releaseGates, chansOf]

@[simp] theorem releaseGates_host (a : Nat) : (s.releaseGates a).host = s.host := by simp [releaseGates, chansOf]

theorem releaseGates_act (a : Nat) : (s.releaseGates a).actWra a = { s.actWra a with field := none } := by
  simp [releaseGates, chansOf]

theorem releaseGates_chan (a : Nat) : ∀ c ∈ chansOf a, ((s.releaseGates a).chan c).writing = false := by
  simp only [chansOf, List.mem_cons, List.not_mem_nil, or_false]
  rintro c (rfl | rfl)
  · simp [releaseGates, chansOf, chan_setChan_other (show 2 * a ≠ 2 * a + 1 by omega)]
  · simp [releaseGates, chansOf]

end State

/-! ## Which heads and actuators have failed -/

/-- The two fields that name the failed heads and actuators. -/
def failedFields : List Field := [F.FMT_HEAD_FAILED_HEADS, F.FMT_HEAD_FAILED_ACTUATORS]

theorem failedFields_mem : ∀ f ∈ failedFields, f ∈ allFields := by decide +kernel

theorem failedFields_block : ∀ f ∈ failedFields, f.block = 16 := by decide

theorem failedFields_notEvent : ∀ f ∈ failedFields, f.place ∉ eventPlaces := by decide

theorem Only.fget_failed {L : List Part} {s t : State} (h : Only L s t) (hb : Part.regs 16 ∉ L) {f : Field}
    (hf : f ∈ failedFields) : t.rd f = s.rd f :=
  h.fget (failedFields_mem f hf) (by rwa [failedFields_block f hf]) 0 0

namespace State

variable {f : Field}

theorem rd_raise_failed (s : State) (hf : f ∈ failedFields) (a b c d : Nat) : (s.raise a b c d).rd f = s.rd f :=
  fget_raiseFor _ _ _ _ _ _ _ _ _ (failedFields_notEvent f hf)

theorem rd_wr_failed (s : State) (hf : f ∈ failedFields) {g : Field} (hg : ∀ f ∈ failedFields, f.place ≠ g.place) (v : Nat) :
    (s.wr g v).rd f = s.rd f :=
  fget_fset_other _ _ _ _ _ _ (hg f hf)

theorem rd_checkLow_failed (s : State) (hf : f ∈ failedFields) (h : Nat) : (s.checkLow h).rd f = s.rd f := by
  unfold checkLow
  extract_lets r low s1
  split
  · rw [rd_raise_failed _ hf, rd_wr_failed _ hf (by decide)]
    rfl
  · split <;> rfl

theorem rd_placeCopies_failed (hf : f ∈ failedFields) (n : Nat) (s t : State) (uid : Nat) (h : placeCopies n s uid = some t) :
    t.rd f = s.rd f := by
  induction n generalizing s with
  | zero =>
    rw [placeCopies, Option.some.injEq] at h
    rw [h]
  | succ n ih =>
    rw [placeCopies] at h
    split at h
    · rw [← Option.some.inj h]
    · extract_lets k s1 at h
      have h1 : s1.rd f = s.rd f := by
        unfold s1
        split
        · rfl
        · exact rd_raise_failed s hf _ _ _ _
      split at h
      · rw [← Option.some.inj h]; exact fget_setCmd _ _ _ _ _
      · split at h
        · exact absurd h (by simp)
        · extract_lets pos s2 l at h
          have h2 : s2.rd f = s.rd f := rd_checkLow_failed _ hf _
          split at h
          · rw [← Option.some.inj h, ← h1]
            simp only [hurryRing, fget_setDisk, fget_setCmd]
          · rw [ih _ h]
            exact (fget_setCmd _ _ _ _ _).trans h2

theorem rd_recopy_failed (s : State) (hf : f ∈ failedFields) (uid : Nat) : (s.recopy uid).rd f = s.rd f := by
  unfold recopy
  split
  · next h => exact rd_placeCopies_failed hf _ _ _ _ h
  · split
    · next c _ =>
      have h : Only _ s ((s.discardWork c).fail c stWriteFailed) :=
        fail_only (L := [.obj, .tape, .disk, .red, .out, .host, .sq, .life, .trc, .grp, .regs 0, .regs 4, .regs 8, .regs 49])
          (by decide) (discardWork_only (by decide) (.refl s))
      exact h.fget_failed (by decide) hf
    · rfl

theorem rd_loseSurface_failed (s : State) (hf : f ∈ failedFields) (h : Nat) : (s.loseSurface h).rd f = s.rd f := by
  unfold loseSurface
  extract_lets zs s1 d2 s2 again s3 flying s4 again' d5 s5 s6
  have h1 : s1.rd f = s.rd f :=
    (Only.foldl (L := [.disk]) zs (.refl s) fun t z ht =>
      Only.ite ht (setZone_only (by decide) ht)).fget_failed (by decide) hf
  have h3 : s3.rd f = s1.rd f := (endClean_only (L := [.out, .host, .sq, .life, .disk, .trc, .grp, .regs 0, .regs 4, .regs 8,
    .regs 49]) (by decide) (setDisk_only (by decide) (.refl s1))).fget_failed (by decide) hf
  have h4 : s4.rd f = s3.rd f := by
    unfold s4
    split
    · rfl
    · exact (lostData_only (L := [.out, .host, .obj, .life, .disk, .trc, .regs 0, .regs 4, .regs 49]) (by decide)
        (.refl s3)).fget_failed (by decide) hf
  have h6 : s6.rd f = s5.rd f := by
    unfold s6
    clear_value s5
    induction flying generalizing s5 with
    | nil => rfl
    | cons c l ih => exact (ih _).trans ((rd_recopy_failed _ hf _).trans (fget_setCmd _ _ _ _ _))
  have h7 : s6.zoneChanged.rd f = s6.rd f := (zoneChanged_only (L := [.disk]) (by decide) (.refl s6)).fget_failed (by decide) hf
  rw [h7, h6, ← h1, ← h3, ← h4]
  rfl

theorem rd_foldl_loseSurface_failed (s : State) (hf : f ∈ failedFields) (l : List Nat) :
    (l.foldl loseSurface s).rd f = s.rd f := by
  induction l generalizing s with
  | nil => rfl
  | cons h l ih => exact (ih _).trans (rd_loseSurface_failed s hf h)

/-- An actuator that fails is named as failed. -/
theorem failActuator_bit (s : State) {a : Nat} (ha : a < 2) (cause : Nat) :
    bitAt ((s.failActuator a cause).rd F.FMT_HEAD_FAILED_ACTUATORS) a = true := by
  unfold failActuator
  split
  · next h => exact h
  · extract_lets hs s1 s2
    have h2 : s2.rd F.FMT_HEAD_FAILED_ACTUATORS = (s.raiseBit F.FMT_HEAD_FAILED_ACTUATORS a).rd F.FMT_HEAD_FAILED_ACTUATORS :=
      (rd_raise_failed _ (by decide) _ _ _ _).trans (rd_wr_failed _ (by decide) (by decide) _)
    rw [rd_foldl_loseSurface_failed _ (by decide), h2, bitAt_raiseBit ha]
    simp

theorem rd_failActuator_heads (s : State) (a cause : Nat) :
    (s.failActuator a cause).rd F.FMT_HEAD_FAILED_HEADS = s.rd F.FMT_HEAD_FAILED_HEADS := by
  unfold failActuator
  split
  · rfl
  · extract_lets hs s1 s2
    rw [rd_foldl_loseSurface_failed _ (by decide)]
    unfold s2 s1
    rw [rd_raise_failed _ (by decide), rd_wr_failed _ (by decide) (by decide)]
    exact fget_fset_other _ _ _ _ _ _ (by decide)

theorem rd_failHead_heads (s : State) (h cause : Nat) : (s.failHead h cause).rd F.FMT_HEAD_FAILED_HEADS =
    (if s.disk.heads ≤ h || !s.headOk h then s else s.raiseBit F.FMT_HEAD_FAILED_HEADS h).rd F.FMT_HEAD_FAILED_HEADS := by
  unfold failHead
  split
  · rfl
  · extract_lets s1 s2 a
    have h2 : s2.rd F.FMT_HEAD_FAILED_HEADS = (s.raiseBit F.FMT_HEAD_FAILED_HEADS h).rd F.FMT_HEAD_FAILED_HEADS :=
      (rd_loseSurface_failed _ (by decide) _).trans
        ((rd_raise_failed _ (by decide) _ _ _ _).trans (rd_wr_failed _ (by decide) (by decide) _))
    split
    · rw [rd_failActuator_heads, h2]
    · exact h2

/-- A head that fails is named as failed. -/
theorem failHead_bit (s : State) {h : Nat} (hh : h < s.disk.heads) (h24 : h < 24) (cause : Nat) :
    bitAt ((s.failHead h cause).rd F.FMT_HEAD_FAILED_HEADS) h = true := by
  rw [rd_failHead_heads]
  split
  · next e =>
    have e : s.disk.heads ≤ h ∨ bitAt (s.rd F.FMT_HEAD_FAILED_HEADS) h = true := by simpa [headOk] using e
    exact e.resolve_left (by omega)
  · rw [bitAt_raiseBit h24]
    simp

/-- A head that has failed stays so when another head fails. -/
theorem failHead_bit_mono (s : State) (g cause : Nat) {h : Nat} (h24 : h < 24)
    (hb : bitAt (s.rd F.FMT_HEAD_FAILED_HEADS) h = true) : bitAt ((s.failHead g cause).rd F.FMT_HEAD_FAILED_HEADS) h = true := by
  rw [rd_failHead_heads]
  split
  · exact hb
  · rw [bitAt_raiseBit h24, hb, Bool.true_or]

end State

/-! ## Answers on the preamp bus (R272 to R274) -/

namespace State

variable {s : State} {a : Nat}

theorem pacRetry_repeats (ho : (s.actWra a).allOpen = false) (h : (s.actWra a).repeats < s.rd F.WRA_D_CFG_PAC_RETRY) :
    s.pacRetry a = (s.setActWra a { s.actWra a with repeats := (s.actWra a).repeats + 1 }).emit
      (.pac a (s.actWra a).lastFrame) := by
  unfold pacRetry
  extract_lets v s1
  rw [if_neg (by simp [v, ho]), if_pos h]

/-- An actuator's bus is counted as reset once more and its gates are released. -/
def resetNoted (s : State) (a : Nat) : State :=
  (s.setActWra a { s.actWra a with repeats := 0, resets := (s.actWra a).resets + 1 }).releaseGates a

theorem pacRetry_resets (ho : (s.actWra a).allOpen = false) (h : s.rd F.WRA_D_CFG_PAC_RETRY ≤ (s.actWra a).repeats)
    (h3 : (s.actWra a).resets < 3) :
    s.pacRetry a = (((s.resetNoted a).sendPac a 0xF 15 0 0).dropHeads a).loadBus a := by
  unfold pacRetry
  extract_lets v s1
  rw [if_neg (by simp [v, ho]), if_neg (by simp only [v]; omega), if_pos h3]
  rfl

theorem pacRetry_fails (ho : (s.actWra a).allOpen = false) (h : s.rd F.WRA_D_CFG_PAC_RETRY ≤ (s.actWra a).repeats)
    (h3 : 3 ≤ (s.actWra a).resets) : s.pacRetry a = s.busFailed a := by
  unfold pacRetry
  extract_lets v s1
  rw [if_neg (by simp [v, ho]), if_neg (by simp only [v]; omega), if_neg (by simp only [v]; omega)]

theorem SameAct.dropHeads {t : State} (h : SameAct a s t) (b : Nat) : SameAct a s (t.dropHeads b) := by
  obtain ⟨f, hf⟩ := h
  exact ⟨f, by simp [State.dropHeads, chansOf, hf]⟩

theorem fget_dropHeads (b : Nat) {f : Field} (i j : Nat) (h : f.place ≠ F.WRA_STATUS_CH_ARMED.place) :
    (s.dropHeads b).fget f i j = s.fget f i j := by
  simp [dropHeads, chansOf, fget_fset_other _ _ _ _ _ _ h]

theorem pacReset_spec (ha : a < 2) {t : State} (ht : t = (((s.resetNoted a).sendPac a 0xF 15 0 0).dropHeads a).loadBus a) :
    (t.actWra a).repeats = 0 ∧ (t.actWra a).resets = (s.actWra a).resets + 1 ∧
    Emitted (.pac a (pacFrame 0xF 15 0 0)) s t ∧ bitAt (t.rd F.WRA_STATUS_WG) a = false ∧
    bitAt (t.rd F.WRA_STATUS_AG) a = false := by
  have hact : SameAct a (s.resetNoted a) t := by
    rw [ht]
    exact (((SameAct.refl a _).sendPac).dropHeads a).loadBus
  have hrd : ∀ f : Field, f.place ≠ F.WRA_STATUS_CH_ARMED.place → t.rd f = (s.resetNoted a).rd f := fun f hf => by
    rw [ht, rd, fget_loadBus, fget_dropHeads _ _ _ hf, fget_sendPac]
  have hnoted : (s.resetNoted a).actWra a =
      { s.actWra a with repeats := 0, resets := (s.actWra a).resets + 1, field := none } := by
    rw [resetNoted, releaseGates_act, actWra_setActWra_same]
  have hgates := releaseGates_gates (s := s.setActWra a { s.actWra a with repeats := 0, resets := (s.actWra a).resets + 1 }) a ha
  obtain ⟨f, hf⟩ := hact
  refine ⟨by rw [hf, hnoted], by rw [hf, hnoted], ?_, ?_, ?_⟩
  · have hs : Emitted (.pac a (pacFrame 0xF 15 0 0)) s ((s.resetNoted a).sendPac a 0xF 15 0 0) :=
      ⟨[_], by simp [resetNoted], List.mem_cons_self⟩
    exact hs.suffix (ht ▸ (loadBus_keeps (x2 := a) (dropHeads_keeps (x2 := a) (Keeps.refl _))).out)
  · rw [hrd _ (by decide)]
    exact hgates.2
  · rw [hrd _ (by decide)]
    exact hgates.1

theorem busFailed_spec (s : State) (a : Nat) : ((s.busFailed a).actWra a).allOpen = true ∧
    (s.busFailed a).rd F.WRA_ERR_STATUS_PAC_BUS = 1 := by
  unfold busFailed
  extract_lets s1 v s2
  have h : Only [.out, .host, .sq, .obj, .life, .tape, .disk, .trc, .grp, .red, .regs 0, .regs 4, .regs 8, .regs 16,
      .regs 49] s2 (((List.range s2.disk.heads).filter (fun h => s2.actOf h = a)).foldl (fun s h => s.failHead h 1) s2) :=
    Only.foldl _ (.refl s2) fun t x ht => failHead_only (by decide) ht
  constructor
  · rw [actWra_congr (h .wra (by decide))]
    exact congrArg ActWra.allOpen (actWra_setActWra_same _ _)
  · refine (h.fget (by decide +kernel) (by decide) 0 0).trans ?_
    unfold s2 s1
    simp (disch := decide) [fget_raiseFor, fget_fset_same]

end State

section
variable {s : State} {act : Bool} {frame : BitVec 32}

theorem exec_pacResponse_tape (h : s.dMode = false) : exec (.pacResponse act frame) s = .next s := by
  change execPacResponse act frame s = _
  rw [execPacResponse, if_pos (by simp [h])]

theorem exec_pacResponse_badCrc (h : s.dMode = true) (hf : frameOk frame.toNat = false) :
    exec (.pacResponse act frame) s = .next (s.pacRetry (b2n act)) := by
  change execPacResponse act frame s = _
  rw [execPacResponse, if_neg (by simp [h]), if_pos (by simp [hf])]

theorem exec_pacResponse_answer (h : s.dMode = true) (hf : frameOk frame.toNat = true) (hc : frame.toNat / 2 ^ 28 ≠ 8) :
    exec (.pacResponse act frame) s =
      .next (s.setActWra (b2n act) { s.actWra (b2n act) with repeats := 0 }) := by
  change execPacResponse act frame s = _
  rw [execPacResponse, if_neg (by simp [h]), if_neg (by simp [hf]), if_pos (by simpa using hc)]

end

namespace State

/-- A status of an actuator's preamp stands in its register. -/
def showStatus (s : State) (act : Bool) (d : Nat) : State :=
  if act then s.wr F.WRA_PAC_STATUS_ACT1 d else s.wr F.WRA_PAC_STATUS_ACT0 d

/-- A status of an actuator's preamp is taken: no repeat and no reset counts any more. -/
def statusTaken (s : State) (a : Nat) : State := s.setActWra a { s.actWra a with repeats := 0, resets := 0 }

/-- The status that a fault line asked for is reported, and the preamp's status is cleared (R274). -/
def tellStatus (s : State) (a source d : Nat) : State :=
  if (s.actWra a).wantStatus then
    ((s.raise 7 source 0x401 (a + d * 2 ^ 16)).setActWra a
      { (s.raise 7 source 0x401 (a + d * 2 ^ 16)).actWra a with wantStatus := false }).sendPac a 0xA 15 0 0
  else s

/-- What a status says of a head: open or short fails it, an assist flag is an assist fault (R274, R277). -/
def headFlags (s : State) (h d : Nat) : State :=
  let s := if bitAt d 1 || bitAt d 2 then s.failHead h 1 else s
  if bitAt d 4 || bitAt d 5 then s.assistFault h 3 else s

/-- A status without a fault ends the hold on writing once the fault line is high (R274). -/
def unbar (s : State) (a d : Nat) : State :=
  if bits d 0 7 = 0 && !bitAt (s.rd F.WRA_STATUS_FLT) a then s.setActWra a { s.actWra a with barred := false } else s

end State

theorem exec_pacResponse_status {s : State} {act : Bool} {frame : BitVec 32} {f h d : Nat} (hf : f = frame.toNat)
    (hh : h = s.headAt (b2n act) (bits f 24 4)) (hd : d = bits f 8 15) (hm : s.dMode = true) (hok : frameOk f = true)
    (hc : f / 2 ^ 28 = 8) (h7 : bitAt d 7 = false) :
    exec (.pacResponse act frame) s = .next ((((((s.showStatus act d).statusTaken (b2n act)).tellStatus (b2n act)
      (if bits f 24 4 = 15 then 0 else h) d).headFlags h d).unbar (b2n act) d)) := by
  subst hf hh hd
  change execPacResponse act frame s = _
  rw [execPacResponse, if_neg (by simp [hm]), if_neg (by simp [hok])]
  extract_lets cmd h d s1 s2 s3 s4 s5 s6
  rw [if_neg (by simp [cmd, hc]), if_neg (by simp [d, h7])]
  rfl

namespace State

variable {s : State}

theorem rd_inc {f : Field} (hw : f.w ≤ 32) : (s.inc f).rd f = Nat.min (s.rd f + 1) (2 ^ f.w - 1) := rdi_addi s hw 0 1

theorem bitAt_of_bits_zero {d n i : Nat} (h : bits d 0 n = 0) (hi : i < n) : bitAt d i = false := by
  rw [← bitAt_mod d i n hi, show d % 2 ^ n = 0 by simpa [bits] using h]
  simp [bitAt]

theorem tellStatus_act (s : State) (a source d : Nat) :
    ∃ f, (s.tellStatus a source d).actWra a = { s.actWra a with wantStatus := false, lastFrame := f } := by
  unfold tellStatus
  split
  · rw [actWra_sendPac, actWra_setActWra_same, actWra_congr (raiseFor_wra ..)]
    exact ⟨_, rfl⟩
  · next h => exact ⟨_, by rw [← Bool.eq_false_iff.mpr h]⟩

theorem fget_tellStatus (s : State) (a source d : Nat) {f : Field} (i j : Nat) (h : f.place ∉ eventPlaces) :
    (s.tellStatus a source d).fget f i j = s.fget f i j := by
  unfold tellStatus
  split
  · simp only [fget_sendPac, fget_setActWra, fget_raiseFor _ _ _ _ _ _ _ _ _ h]
  · rfl

theorem tellStatus_told (s : State) (a source d : Nat) (h : (s.actWra a).wantStatus = true) :
    Emitted (.pac a (pacFrame 0xA 15 0 0)) s (s.tellStatus a source d) ∧
    Raised 7 source 0x401 (a + d * 2 ^ 16) s (s.tellStatus a source d) := by
  rw [tellStatus, if_pos h]
  have hk : s.out <:+ (s.raise 7 source 0x401 (a + d * 2 ^ 16)).out := (raiseFor_keeps (.refl s)).out
  generalize hr : s.raise 7 source 0x401 (a + d * 2 ^ 16) = r at hk
  have hraised : Raised 7 source 0x401 (a + d * 2 ^ 16) s r := hr ▸ raised_raise rfl _ _ _ _
  exact ⟨Emitted.from hk ⟨[_], rfl, List.mem_cons_self⟩, hraised.of_host rfl⟩

@[simp] theorem disk_setActWra (a : Nat) (v : ActWra) : (s.setActWra a v).disk = s.disk := rfl

@[simp] theorem disk_sendPac (a c h n x : Nat) : (s.sendPac a c h n x).disk = s.disk := rfl

theorem tellStatus_disk (s : State) (a source d : Nat) : (s.tellStatus a source d).disk = s.disk := by
  unfold tellStatus
  split
  · rw [disk_sendPac, disk_setActWra, raiseFor_disk]
  · rfl

theorem showStatus_disk (s : State) (act : Bool) (d : Nat) : (s.showStatus act d).disk = s.disk := by
  unfold showStatus
  split <;> rfl

theorem fget_unbar (s : State) (a d : Nat) (f : Field) (i j : Nat) : (s.unbar a d).fget f i j = s.fget f i j := by
  unfold unbar
  split <;> rfl

theorem fget_showStatus (s : State) (act : Bool) (d : Nat) {f : Field} (i j : Nat)
    (h : f.place ≠ F.WRA_PAC_STATUS_ACT0.place ∧ f.place ≠ F.WRA_PAC_STATUS_ACT1.place) :
    (s.showStatus act d).fget f i j = s.fget f i j := by
  unfold showStatus
  split
  · exact fget_fset_other _ _ _ _ _ _ h.2
  · exact fget_fset_other _ _ _ _ _ _ h.1

theorem showStatus_rd (s : State) (act : Bool) {d : Nat} (h : d < 2 ^ 15) :
    (s.showStatus act d).rd (if act then F.WRA_PAC_STATUS_ACT1 else F.WRA_PAC_STATUS_ACT0) = d := by
  unfold showStatus
  cases act
  · exact (fget_fset_same ..).trans (Nat.mod_eq_of_lt h)
  · exact (fget_fset_same ..).trans (Nat.mod_eq_of_lt h)

theorem showStatus_wra (s : State) (act : Bool) (d : Nat) : (s.showStatus act d).wra = s.wra := by
  unfold showStatus
  split <;> rfl

theorem showStatus_host (s : State) (act : Bool) (d : Nat) : (s.showStatus act d).host = s.host := by
  unfold showStatus
  split <;> rfl

theorem showStatus_out (s : State) (act : Bool) (d : Nat) : (s.showStatus act d).out = s.out := by
  unfold showStatus
  split <;> rfl

/-! ## Assist faults (R277) -/

/-- An assist fault stops the actuator's writes, is counted, reported and dated. -/
def assistNoted (s : State) (h cause : Nat) : State :=
  let s := ((s.stopWrites' (s.actOf h)).inc F.WRA_FAULTS_ASSIST).wr F.WRA_ERR_STATUS_ASSIST_FAULT 1
  let s := s.raise 7 h 0x402 cause
  let l := Store.get HeadLoop.init s.wra.loops h
  s.setWra { s.wra with loops := Store.put HeadLoop.init s.wra.loops h { l with
    faults := (s.life.ms :: l.faults).filter (fun t => s.life.ms < t + dayMs), sat := 0, wide := 0, conv := 0 } }

/-- An assist fault may fail the head besides. -/
theorem assistFault_eq (s : State) (h cause : Nat) : s.assistFault h cause = s.assistNoted h cause ∨
    s.assistFault h cause = (s.assistNoted h cause).failHead h 1 := by
  unfold assistFault
  extract_lets s1 s2 s3 l fs s4
  by_cases h3 : 3 ≤ fs.length
  · exact .inr (if_pos h3)
  · exact .inl (if_neg h3)

theorem fget_stopWrites' (a : Nat) {f : Field} (i j : Nat)
    (h : f.place ∉ [F.WRA_STATUS_AG, F.WRA_STATUS_WG, F.WRA_STATUS_CH_ARMED].map Field.place) :
    (s.stopWrites' a).fget f i j = s.fget f i j := by
  simp only [List.map_cons, List.map_nil, List.mem_cons, not_or, List.not_mem_nil, not_false_eq_true, and_true] at h
  exact (fget_fset_other _ _ _ _ _ _ h.2.2).trans (fget_releaseGates _ _ _ h.1 h.2.1)

theorem stopWrites'_loops (s : State) (a : Nat) : (s.stopWrites' a).wra.loops = s.wra.loops := rfl

theorem assistNoted_fault (s : State) (h cause : Nat) : (s.assistNoted h cause).rd F.WRA_ERR_STATUS_ASSIST_FAULT = 1 := by
  unfold assistNoted
  simp (disch := decide) [fget_raiseFor, fget_fset_same]

theorem assistNoted_count (s : State) (h cause : Nat) : (s.assistNoted h cause).rd F.WRA_FAULTS_ASSIST =
    Nat.min (s.rd F.WRA_FAULTS_ASSIST + 1) (2 ^ 16 - 1) := by
  have hrd : (s.assistNoted h cause).rd F.WRA_FAULTS_ASSIST =
      ((s.stopWrites' (s.actOf h)).inc F.WRA_FAULTS_ASSIST).rd F.WRA_FAULTS_ASSIST := by
    unfold assistNoted
    simp (disch := decide) [fget_raiseFor, fget_fset_other]
  rw [hrd, rd_inc (by decide), rd, fget_stopWrites' _ _ _ (by decide)]
  rfl

theorem assistNoted_level (s : State) (h cause : Nat) : (Store.get HeadLoop.init (s.assistNoted h cause).wra.loops h).level =
    (Store.get HeadLoop.init s.wra.loops h).level := by
  unfold assistNoted
  simp only [setWra_wra, Store.get_put_same, raiseFor_wra]
  rfl

theorem failHead_only_wra (s : State) (h cause : Nat) : Only [.out, .host, .sq, .obj, .life, .tape, .disk, .trc, .grp, .red,
    .regs 0, .regs 4, .regs 8, .regs 16, .regs 49] s (s.failHead h cause) := failHead_only (by decide) (.refl s)

theorem fget_failHead_wra (s : State) (h cause : Nat) {f : Field} (hf : f ∈ allFields) (hb : f.block = 28) :
    (s.failHead h cause).rd f = s.rd f := (failHead_only_wra s h cause).fget hf (by rw [hb]; decide) 0 0

theorem assistFault_counted (s : State) (h cause : Nat) : (s.assistFault h cause).rd F.WRA_ERR_STATUS_ASSIST_FAULT = 1 ∧
    (s.assistFault h cause).rd F.WRA_FAULTS_ASSIST = Nat.min (s.rd F.WRA_FAULTS_ASSIST + 1) (2 ^ 16 - 1) := by
  rcases assistFault_eq s h cause with e | e <;> rw [e]
  · exact ⟨assistNoted_fault s h cause, assistNoted_count s h cause⟩
  · rw [fget_failHead_wra _ _ _ (by decide +kernel) (by decide), fget_failHead_wra _ _ _ (by decide +kernel) (by decide)]
    exact ⟨assistNoted_fault s h cause, assistNoted_count s h cause⟩

theorem assistFault_level (s : State) (h cause : Nat) : (Store.get HeadLoop.init (s.assistFault h cause).wra.loops h).level =
    (Store.get HeadLoop.init s.wra.loops h).level := by
  rcases assistFault_eq s h cause with e | e <;> rw [e]
  · exact assistNoted_level s h cause
  · rw [failHead_only_wra _ _ _ .wra (by decide)]
    exact assistNoted_level s h cause

theorem rd_assistNoted_heads (s : State) (h cause : Nat) :
    (s.assistNoted h cause).rd F.FMT_HEAD_FAILED_HEADS = s.rd F.FMT_HEAD_FAILED_HEADS := by
  unfold assistNoted
  simp (disch := decide) [fget_raiseFor, fget_fset_other, fget_addi]
  exact fget_stopWrites' _ _ _ (by decide)

theorem assistFault_heads (s : State) (g cause : Nat) {h : Nat} (h24 : h < 24)
    (hb : bitAt (s.rd F.FMT_HEAD_FAILED_HEADS) h = true) :
    bitAt ((s.assistFault g cause).rd F.FMT_HEAD_FAILED_HEADS) h = true := by
  have hn : bitAt ((s.assistNoted g cause).rd F.FMT_HEAD_FAILED_HEADS) h = true := by rw [rd_assistNoted_heads]; exact hb
  rcases assistFault_eq s g cause with e | e <;> rw [e]
  · exact hn
  · exact failHead_bit_mono _ _ _ h24 hn

end State

/-! ## The fault line of an actuator (R274) -/

section
variable {s : State} {act : Bool}

/-- What a fault line that falls does before the status is read. -/
def State.faultFallen (s : State) (a : Nat) : State :=
  let s := (((s.raiseBit F.WRA_STATUS_FLT a).releaseGates a).inc F.WRA_FAULTS_PREAMP).wr F.WRA_ERR_STATUS_PREAMP_FAULT 1
  s.setActWra a { s.actWra a with barred := true, wantStatus := true }

theorem exec_pacFaultFall (hm : s.dMode = true) (h : bitAt (s.rd F.WRA_STATUS_FLT) (b2n act) = false) :
    exec (.pacFaultFall act) s = .next ((s.faultFallen (b2n act)).readPac (b2n act) 8 15 0) := by
  change execPacFaultFall act s = _
  rw [execPacFaultFall, if_neg (by simp [hm, h])]
  rfl

theorem exec_pacFaultFall_low (h : s.dMode = false ∨ bitAt (s.rd F.WRA_STATUS_FLT) (b2n act) = true) :
    exec (.pacFaultFall act) s = .next s := by
  change execPacFaultFall act s = _
  rw [execPacFaultFall, if_pos (by simpa using h)]

theorem exec_pacFaultRelease (hm : s.dMode = true) (h : bitAt (s.rd F.WRA_STATUS_FLT) (b2n act) = true) :
    exec (.pacFaultRelease act) s =
      .next ((s.wr F.WRA_STATUS_FLT (clrBit (s.rd F.WRA_STATUS_FLT) (b2n act))).readPac (b2n act) 8 15 0) := by
  change execPacFaultRelease act s = _
  rw [execPacFaultRelease, if_neg (by simp [hm, h])]

theorem exec_pacFaultRelease_high (h : s.dMode = false ∨ bitAt (s.rd F.WRA_STATUS_FLT) (b2n act) = false) :
    exec (.pacFaultRelease act) s = .next s := by
  change execPacFaultRelease act s = _
  rw [execPacFaultRelease, if_pos (by simpa using h)]

theorem State.faultFallen_act (s : State) (a : Nat) : (s.faultFallen a).actWra a =
    { s.actWra a with field := none, barred := true, wantStatus := true } := by
  unfold State.faultFallen
  simp only [State.actWra_setActWra_same, State.actWra_fset, State.addi, State.releaseGates_act]

theorem State.faultFallen_out (s : State) (a : Nat) : (s.faultFallen a).out = s.out := by
  unfold State.faultFallen
  simp [State.addi]

theorem State.faultFallen_chan (s : State) (a c : Nat) :
    (s.faultFallen a).chan c = ((s.raiseBit F.WRA_STATUS_FLT a).releaseGates a).chan c := by
  unfold State.faultFallen
  rw [State.chan_setActWra, State.chan_fset]
  rfl

theorem State.faultFallen_regs (s : State) {a : Nat} (ha : a < 2) :
    bitAt ((s.faultFallen a).rd F.WRA_STATUS_FLT) a = true ∧ bitAt ((s.faultFallen a).rd F.WRA_STATUS_WG) a = false ∧
    bitAt ((s.faultFallen a).rd F.WRA_STATUS_AG) a = false ∧
    (s.faultFallen a).rd F.WRA_FAULTS_PREAMP = Nat.min (s.rd F.WRA_FAULTS_PREAMP + 1) (2 ^ 16 - 1) ∧
    (s.faultFallen a).rd F.WRA_ERR_STATUS_PREAMP_FAULT = 1 := by
  have hg := State.releaseGates_gates (s := s.raiseBit F.WRA_STATUS_FLT a) a ha
  have hrd : ∀ f : Field, f.place ≠ F.WRA_FAULTS_PREAMP.place → f.place ≠ F.WRA_ERR_STATUS_PREAMP_FAULT.place →
      (s.faultFallen a).rd f = ((s.raiseBit F.WRA_STATUS_FLT a).releaseGates a).rd f := fun f h h' => by
    unfold State.faultFallen
    rw [State.rd, State.fget_setActWra, State.fget_fset_other _ _ _ _ _ _ h', State.fget_addi _ _ _ _ _ h]
  refine ⟨?_, ?_, ?_, ?_, ?_⟩
  · rw [hrd _ (by decide) (by decide), State.rd, State.fget_releaseGates _ _ _ (by decide) (by decide),
      State.bitAt_raiseBit ha]
    simp
  · rw [hrd _ (by decide) (by decide)]; exact hg.2
  · rw [hrd _ (by decide) (by decide)]; exact hg.1
  · have h : (s.faultFallen a).rd F.WRA_FAULTS_PREAMP =
        (((s.raiseBit F.WRA_STATUS_FLT a).releaseGates a).inc F.WRA_FAULTS_PREAMP).rd F.WRA_FAULTS_PREAMP :=
      State.fget_wr _ _ _ _ (by decide)
    rw [h, State.rd_inc (by decide), State.rd, State.fget_releaseGates _ _ _ (by decide) (by decide),
      State.fget_fset_other _ _ _ _ _ _ (by decide)]
    rfl
  · exact State.fget_fset_same _ _ _ _ _

end

/-! ## The fields of a disk write (R268, R269, R22) -/

namespace State

variable {s : State}

theorem asked_ask (s : State) (kind what prio : Nat) : (s.ask kind what prio).asked kind what = true := by
  unfold ask
  split
  · assumption
  · simp [asked]

theorem chan_stopWrites' (s : State) (a c : Nat) : (s.stopWrites' a).chan c = (s.releaseGates a).chan c := rfl

theorem stopWrites'_out (s : State) (a : Nat) : (s.stopWrites' a).out = s.out := releaseGates_out a

theorem stopWrites'_wg (s : State) {a : Nat} (ha : a < 2) : bitAt ((s.stopWrites' a).rd F.WRA_STATUS_WG) a = false := by
  have h : (s.stopWrites' a).rd F.WRA_STATUS_WG = (s.releaseGates a).rd F.WRA_STATUS_WG :=
    fget_fset_other _ _ _ _ _ _ (by decide)
  rw [h]
  exact (releaseGates_gates a ha).2

theorem stopWrites'_armed (s : State) {a : Nat} (ha : a < 2) :
    ∀ c ∈ chansOf a, bitAt ((s.stopWrites' a).rd F.WRA_STATUS_CH_ARMED) c = false := by
  intro c hc
  have h4 : c < 4 := by
    simp only [chansOf, List.mem_cons, List.not_mem_nil, or_false] at hc
    omega
  rw [stopWrites', bitAt_wr h4]
  simp only [chansOf, List.mem_cons, List.not_mem_nil, or_false] at hc
  rcases hc with rfl | rfl <;> simp [chansOf, bitAt_clrBit]

/-- The bits that a channel records in a field depend on the disk and the units alone. -/
theorem channelBits_congr {t : State} (hd : t.disk = s.disk) (ho : t.obj = s.obj) (f : Nat) (w : FieldWrite) :
    t.channelBits f w = s.channelBits f w := by
  simp only [channelBits, writePayload, zoneUnit, landUnit, trackD, bandAt, zone, ring, unit, hd, ho]

/-- A channel whose write begins in the field is selected, armed and given its start delay; its loop is preset. -/
def armChan (s : State) (a c f : Nat) (ws : List FieldWrite) (w : FieldWrite) : State :=
  let h := w.head.toNat
  let n := s.headOnAct h
  let s := (s.sendPac a 1 n c 3).raiseBit F.WRA_STATUS_CH_ARMED c
  let lvl := s.capLevel h (s.rdi F.WRA_HEAD_ASSIST_LEVEL h)
  let l := { Store.get HeadLoop.init s.wra.loops h with level := lvl, conv := 0, sat := 0, wide := 0 }
  let s := s.setWra { s.wra with loops := Store.put HeadLoop.init s.wra.loops h l }
  let s := if s.kindOf h = 0 then s else s.sendPac a 4 n c lvl
  s.sendPac a 6 n c (s.startDelay f ws w)

theorem beginChan_eq (s : State) (a c f : Nat) (ws : List FieldWrite) (w : FieldWrite) :
    (s.beginChan a c f ws w = if !w.start then s else s.armChan a c f ws w) ∨
    ∃ n x, s.beginChan a c f ws w = (if !w.start then s else s.armChan a c f ws w).sendPac a 7 n c x := by
  unfold beginChan
  by_cases hw : w.stop
  · right
    simp only [hw, if_true]
    exact ⟨_, _, rfl⟩
  · left
    simp only [hw, if_false, Bool.false_eq_true]
    rfl

theorem chan_armChan (s : State) (a c f : Nat) (ws : List FieldWrite) (w : FieldWrite) (d : Nat) :
    (s.armChan a c f ws w).chan d = s.chan d := by
  unfold armChan
  extract_lets h n s1 lvl src l wra s2 s3
  rw [chan_sendPac]
  unfold s3
  split <;> rfl

theorem fget_armChan (s : State) (a c f : Nat) (ws : List FieldWrite) (w : FieldWrite) (g : Field) (i j : Nat) :
    (s.armChan a c f ws w).fget g i j = (s.raiseBit F.WRA_STATUS_CH_ARMED c).fget g i j := by
  unfold armChan
  extract_lets h n s1 lvl src l wra s2 s3
  rw [fget_sendPac]
  unfold s3
  split <;> rfl

theorem chan_beginChan (s : State) (a c f : Nat) (ws : List FieldWrite) (w : FieldWrite) (d : Nat) :
    (s.beginChan a c f ws w).chan d = s.chan d := by
  have h : (if !w.start then s else s.armChan a c f ws w).chan d = s.chan d := by
    split
    · rfl
    · exact chan_armChan ..
  rcases beginChan_eq s a c f ws w with e | ⟨n, x, e⟩
  · rw [e, h]
  · rw [e, chan_sendPac, h]

theorem fget_beginChan (s : State) (a c f : Nat) (ws : List FieldWrite) (w : FieldWrite) (g : Field) (i j : Nat) :
    (s.beginChan a c f ws w).fget g i j =
      (if !w.start then s else s.raiseBit F.WRA_STATUS_CH_ARMED c).fget g i j := by
  have h : (if !w.start then s else s.armChan a c f ws w).fget g i j =
      (if !w.start then s else s.raiseBit F.WRA_STATUS_CH_ARMED c).fget g i j := by
    split
    · rfl
    · exact fget_armChan ..
  rcases beginChan_eq s a c f ws w with e | ⟨n, x, e⟩
  · rw [e, h]
  · rw [e, fget_sendPac, h]

theorem notePair_wra (s : State) (a : Nat) : (s.notePair a).wra = s.wra :=
  notePair_only (L := [.ctl]) (by decide) (.refl s) .wra (by decide)

theorem notePair_out (s : State) (a : Nat) : (s.notePair a).out = s.out :=
  notePair_only (L := [.ctl]) (by decide) (.refl s) .out (by decide)

theorem fget_notePair (s : State) (a : Nat) (f : Field) (i j : Nat) : (s.notePair a).fget f i j = s.fget f i j := by
  unfold notePair
  extract_lets servo hs
  split <;> rfl

/-- One channel writes in a field of an actuator: its bits are recorded and both gates are asserted. -/
def fieldBegun (s : State) (a c f : Nat) (w : FieldWrite) : State :=
  let s := (((s.beginChan a c f [w] w).emitField f c w).raiseBit F.WRA_STATUS_AG a).raiseBit F.WRA_STATUS_WG a
  (s.setActWra a { s.actWra a with field := some f }).notePair a

theorem fieldBegun_chan (s : State) (a c f : Nat) (w : FieldWrite) (d : Nat) : (s.fieldBegun a c f w).chan d = s.chan d := by
  unfold fieldBegun
  rw [chan_congr (notePair_wra ..)]
  exact chan_beginChan ..

theorem fieldBegun_act (s : State) (a c f : Nat) (w : FieldWrite) : ((s.fieldBegun a c f w).actWra a).field = some f := by
  unfold fieldBegun
  rw [actWra_congr (notePair_wra ..), actWra_setActWra_same]

theorem fieldBegun_gates (s : State) {a : Nat} (ha : a < 2) (c f : Nat) (w : FieldWrite) :
    bitAt ((s.fieldBegun a c f w).rd F.WRA_STATUS_AG) a = true ∧ bitAt ((s.fieldBegun a c f w).rd F.WRA_STATUS_WG) a = true := by
  unfold fieldBegun
  extract_lets s1
  simp only [fget_notePair, fget_setActWra]
  constructor
  · have h : s1.rd F.WRA_STATUS_AG = (((s.beginChan a c f [w] w).emitField f c w).raiseBit F.WRA_STATUS_AG a).rd
        F.WRA_STATUS_AG := fget_fset_other _ _ _ _ _ _ (by decide)
    refine (congrArg (bitAt · a) h).trans ((bitAt_raiseBit ha a).trans ?_)
    simp
  · refine (bitAt_raiseBit ha a).trans ?_
    simp

theorem fieldBegun_armed (s : State) {c : Nat} (hc : c < 4) (a f : Nat) (w : FieldWrite) (hw : w.start = true) :
    bitAt ((s.fieldBegun a c f w).rd F.WRA_STATUS_CH_ARMED) c = true := by
  have h : (s.fieldBegun a c f w).rd F.WRA_STATUS_CH_ARMED = (s.raiseBit F.WRA_STATUS_CH_ARMED c).rd F.WRA_STATUS_CH_ARMED := by
    unfold fieldBegun
    simp (disch := decide) only [fget_notePair, fget_setActWra, fget_fset_other, emitField, fget_emit, fget_beginChan, hw,
      Bool.not_true, Bool.false_eq_true, if_false]
  rw [h, bitAt_raiseBit hc]
  simp

theorem fieldBegun_emitted (s : State) (a c f : Nat) (w : FieldWrite) :
    Emitted (.diskField c f (s.rdi F.WRA_DW_PRECOMP_PRECOMP c) (delayedAt 2 (s.channelBits f w)) (s.channelBits f w)) s
      (s.fieldBegun a c f w) := by
  have hk : Keeps s (s.beginChan a c f [w] w) := beginChan_keeps (.refl s)
  have ho : Only [.out, .wra, .regs 28] s (s.beginChan a c f [w] w) := beginChan_only (by decide) (.refl s)
  have hb : (s.beginChan a c f [w] w).channelBits f w = s.channelBits f w :=
    channelBits_congr (ho .disk (by decide)) (ho .obj (by decide)) f w
  have hp : (s.beginChan a c f [w] w).rdi F.WRA_DW_PRECOMP_PRECOMP c = s.rdi F.WRA_DW_PRECOMP_PRECOMP c := by
    rw [rdi, fget_beginChan]
    split
    · rfl
    · exact fget_fset_other _ _ _ _ _ _ (by decide)
  have he : Emitted (.diskField c f (s.rdi F.WRA_DW_PRECOMP_PRECOMP c) (delayedAt 2 (s.channelBits f w)) (s.channelBits f w)) s
      ((s.beginChan a c f [w] w).emitField f c w) := by
    refine Emitted.from hk.out ?_
    unfold emitField
    simp only [hb, hp]
    exact Emitted.emit _ _
  refine he.suffix ?_
  unfold fieldBegun
  rw [notePair_out]
  exact List.suffix_refl _

end State

section
variable {s : State} {act : Bool} {field : BitVec 10} {w0 w1 : Option FieldWrite}

/-- The writes that an actuator's channels make in a field. -/
def fieldWrites (a : Nat) (w0 w1 : Option FieldWrite) : List (Nat × FieldWrite) :=
  [(2 * a, w0), (2 * a + 1, w1)].filterMap (fun p => p.2.map (fun w => (p.1, w)))

/-- A field's writes can be handled: D-mode with a medium in use, no field in progress and no brace. -/
structure FieldReady (s : State) (a : Nat) (field : BitVec 10) : Prop where
  disk : s.dMode = true
  medium : s.medium.state = mReady ∨ s.medium.state = mStopping
  inTurn : field.toNat < 640
  idle : (s.actWra a).field = none
  brace : s.on F.PWR_STATUS_BRACE = false

theorem FieldReady.ready {a : Nat} (h : FieldReady s a field) {ws : List (Nat × FieldWrite)} (hw : ws.isEmpty = false) :
    (!(s.dMode && (s.medium.state = mReady || s.medium.state = mStopping) && !ws.isEmpty &&
      640 > field.toNat && (s.actWra a).field.isNone && !s.on F.PWR_STATUS_BRACE)) = false := by
  simp only [h.disk, h.idle, h.brace, hw, h.inTurn, Bool.true_and, Option.isNone_none, Bool.not_false, Bool.and_true,
    Bool.not_eq_false', Bool.or_eq_true, decide_eq_true_eq, Bool.and_eq_true, and_true]
  exact h.medium

theorem exec_fieldWriteStart_barred (hr : FieldReady s (b2n act) field) (hw : w0.isSome = true ∨ w1.isSome = true)
    (hb : bitAt (s.rd F.WRA_STATUS_FLT) (b2n act) = true ∨ (s.actWra (b2n act)).barred = true ∨
      bitAt (s.rd F.CTL_DK_STATUS_PERMIT) (b2n act) = false) :
    exec (.fieldWriteStart act field w0 w1) s = .next (s.stopWrites' (b2n act)) := by
  have hws : (fieldWrites (b2n act) w0 w1).isEmpty = false := by
    cases w0 <;> cases w1 <;> simp_all [fieldWrites]
  change execFieldWriteStart act field w0 w1 s = _
  unfold execFieldWriteStart
  extract_lets a ws ready s1 go all s2 s3
  have hready : (!ready) = false := hr.ready hws
  rw [if_neg (by simp [hready]), if_pos]
  simpa [a, or_assoc] using hb

theorem exec_fieldWriteStart_one (hr : FieldReady s (b2n act) field) (hf : bitAt (s.rd F.WRA_STATUS_FLT) (b2n act) = false)
    (hbar : (s.actWra (b2n act)).barred = false) (hp : bitAt (s.rd F.CTL_DK_STATUS_PERMIT) (b2n act) = true)
    {w : FieldWrite} {c : Nat} (hw : fieldWrites (b2n act) w0 w1 = [(c, w)]) :
    exec (.fieldWriteStart act field w0 w1) s = .next (if ((s.tryChan (b2n act) c w).chan c).writing then
      (s.tryChan (b2n act) c w).fieldBegun (b2n act) c field.toNat w else s.tryChan (b2n act) c w) := by
  change execFieldWriteStart act field w0 w1 s = _
  unfold execFieldWriteStart
  extract_lets a ws ready s1 go all s2 s3 src
  have hready : (!ready) = false := hr.ready (by rw [show ws = _ from hw]; rfl)
  have hws : ws = [(c, w)] := hw
  have hs1 : s1 = s.tryChan a c w := by unfold s1; rw [hws]; rfl
  rw [if_neg (by simp [hready]), if_neg (by simp [a, hf, hbar, hp])]
  by_cases hwr : (s1.chan c).writing = true
  · have hgo : go = [(c, w)] := by unfold go; rw [hws]; simp [hwr]
    rw [if_neg (by simp [hgo]), ← hs1, if_pos hwr]
    unfold src s3 s2 all
    rw [hgo]
    rfl
  · have hgo : go = [] := by unfold go; rw [hws]; simp [hwr]
    rw [if_pos (by simp [hgo]), ← hs1, if_neg hwr]

theorem fieldWrites_one {a c : Nat} {w : FieldWrite}
    (h : (c = 2 * a ∧ w0 = some w ∧ w1 = none) ∨ (c = 2 * a + 1 ∧ w0 = none ∧ w1 = some w)) :
    fieldWrites a w0 w1 = [(c, w)] := by
  rcases h with ⟨rfl, rfl, rfl⟩ | ⟨rfl, rfl, rfl⟩ <;> rfl

end

namespace State

theorem tryChan_may (s : State) (a c : Nat) (w : FieldWrite) (h : s.mayWriteChan a c w = true) : s.tryChan a c w =
    s.setChan c { s.chan c with head := w.head.toNat, writing := true, stopping := w.stop, granted := false } := if_pos h

theorem tryChan_asks (s : State) (a c : Nat) (w : FieldWrite) (h : s.mayWriteChan a c w = false) (hs : w.start = true)
    (ho : s.surfOk w.head.toNat = true) : ∃ p, s.tryChan a c w = s.ask 0 (c + 4 * w.head.toNat) p := by
  unfold tryChan
  rw [if_neg (by simp [h]), if_pos (by simp [hs, ho])]
  exact ⟨_, rfl⟩

/-! ## The end of a field (R268, R276) -/

/-- What the end of a field does on one channel: its assist monitor is read, a write that ends disarms it. -/
def endChan (s : State) (a : Nat) (stopAll : Bool) (c : Nat) : State :=
  let v := s.chan c
  if !v.writing then s
  else
    let s := if s.kindOf v.head = 0 then s else s.readPac a 9 (s.headOnAct v.head) c
    let s := if v.stopping || stopAll then
        s.wr F.WRA_STATUS_CH_ARMED (clrBit (s.rd F.WRA_STATUS_CH_ARMED) c) else s
    s.setChan c { v with writing := false, stopping := false }

theorem endChan_chan (s : State) (a : Nat) (stopAll : Bool) (c : Nat) : ((s.endChan a stopAll c).chan c).writing = false := by
  unfold endChan
  extract_lets v s1 s2
  split
  · next h => simpa [v] using h
  · rw [chan_setChan_same]

theorem endChan_chan_other (s : State) (a : Nat) (stopAll : Bool) {c d : Nat} (h : d ≠ c) :
    (s.endChan a stopAll c).chan d = s.chan d := by
  unfold endChan
  extract_lets v s1 s2
  split
  · rfl
  · rw [chan_setChan_other h]
    unfold s2 s1
    split <;> split <;> rfl

theorem fget_endChan (s : State) (a : Nat) (stopAll : Bool) (c : Nat) {f : Field} (i j : Nat)
    (h : f.place ≠ F.WRA_STATUS_CH_ARMED.place) : (s.endChan a stopAll c).fget f i j = s.fget f i j := by
  unfold endChan
  extract_lets v s1 s2
  have h1 : s1.fget f i j = s.fget f i j := by
    unfold s1
    split <;> rfl
  split
  · rfl
  · rw [fget_setChan, ← h1]
    unfold s2
    split
    · exact fget_fset_other _ _ _ _ _ _ h
    · rfl

theorem endChan_armed (s : State) (a : Nat) (stopAll : Bool) (c : Nat) {k : Nat} (hk : k < 4) :
    bitAt ((s.endChan a stopAll c).rd F.WRA_STATUS_CH_ARMED) k = (bitAt (s.rd F.WRA_STATUS_CH_ARMED) k &&
      !(decide (c = k) && (s.chan c).writing && ((s.chan c).stopping || stopAll))) := by
  unfold endChan
  extract_lets v s1 s2
  have h1 : s1.rd F.WRA_STATUS_CH_ARMED = s.rd F.WRA_STATUS_CH_ARMED := by
    unfold s1
    split <;> rfl
  split
  · next h =>
    have h : (s.chan c).writing = false := by simpa [v] using h
    simp [h]
  · next h =>
    have h : (s.chan c).writing = true := by simpa [v] using h
    simp only [fget_setChan]
    unfold s2
    split
    · next hs =>
      have hs : ((s.chan c).stopping || stopAll) = true := hs
      refine (bitAt_wr hk _).trans ?_
      rw [bitAt_clrBit, h1, h, hs]
      simp
    · next hs =>
      have hs : ((s.chan c).stopping || stopAll) = false := Bool.eq_false_iff.mpr hs
      refine (congrArg (bitAt · k) h1).trans ?_
      simp [hs]

/-- Both gates of an actuator are released. -/
def gatesOff (s : State) (a : Nat) : State :=
  (s.wr F.WRA_STATUS_AG (clrBit (s.rd F.WRA_STATUS_AG) a)).wr F.WRA_STATUS_WG (clrBit (s.rd F.WRA_STATUS_WG) a)

/-- The end of a field on an actuator. -/
def fieldEnded (s : State) (a : Nat) : State :=
  let s := (((s.gatesOff a).endChan a (s.actWra a).stopAtRelease (2 * a)).endChan a (s.actWra a).stopAtRelease (2 * a + 1))
  s.setActWra a { s.actWra a with field := none, stopAtRelease := false }

theorem gatesOff_gates (s : State) {a : Nat} (ha : a < 2) : bitAt ((s.gatesOff a).rd F.WRA_STATUS_AG) a = false ∧
    bitAt ((s.gatesOff a).rd F.WRA_STATUS_WG) a = false := by
  constructor
  · have h : (s.gatesOff a).rd F.WRA_STATUS_AG = (s.wr F.WRA_STATUS_AG (clrBit (s.rd F.WRA_STATUS_AG) a)).rd
        F.WRA_STATUS_AG := fget_fset_other _ _ _ _ _ _ (by decide)
    rw [h, bitAt_wr ha, bitAt_clrBit]
    simp
  · rw [gatesOff, bitAt_wr ha, bitAt_clrBit]
    simp

theorem fieldEnded_spec (s : State) {a : Nat} (ha : a < 2) : ((s.fieldEnded a).actWra a).field = none ∧
    bitAt ((s.fieldEnded a).rd F.WRA_STATUS_AG) a = false ∧ bitAt ((s.fieldEnded a).rd F.WRA_STATUS_WG) a = false ∧
    ∀ c ∈ chansOf a, ((s.fieldEnded a).chan c).writing = false ∧ ((s.chan c).writing = true → (s.chan c).stopping = true →
      bitAt ((s.fieldEnded a).rd F.WRA_STATUS_CH_ARMED) c = false) := by
  unfold fieldEnded
  extract_lets s1
  have hg := gatesOff_gates s ha
  have hrd : ∀ f : Field, f.place ≠ F.WRA_STATUS_CH_ARMED.place → s1.rd f = (s.gatesOff a).rd f := fun f h => by
    unfold s1
    rw [rd, fget_endChan _ _ _ _ _ _ h, fget_endChan _ _ _ _ _ _ h]
  have h0 : (s.gatesOff a).chan (2 * a) = s.chan (2 * a) := rfl
  have h1 : ((s.gatesOff a).endChan a (s.actWra a).stopAtRelease (2 * a)).chan (2 * a + 1) = s.chan (2 * a + 1) :=
    endChan_chan_other _ _ _ (by omega)
  refine ⟨by rw [actWra_setActWra_same], ?_, ?_, ?_⟩
  · rw [rd, fget_setActWra, ← rd, hrd _ (by decide)]; exact hg.1
  · rw [rd, fget_setActWra, ← rd, hrd _ (by decide)]; exact hg.2
  · intro c hc
    simp only [chansOf, List.mem_cons, List.not_mem_nil, or_false] at hc
    rw [chan_setActWra, rd, fget_setActWra]
    rcases hc with rfl | rfl
    · refine ⟨?_, fun hw hs => ?_⟩
      · unfold s1
        rw [endChan_chan_other _ _ _ (by omega)]
        exact endChan_chan ..
      · unfold s1
        rw [endChan_armed _ _ _ _ (by omega), endChan_armed _ _ _ _ (by omega), h0, hw, hs]
        simp
    · refine ⟨endChan_chan .., fun hw hs => ?_⟩
      unfold s1
      rw [endChan_armed _ _ _ _ (by omega), h1, hw, hs]
      simp

end State

theorem exec_fieldWriteEnd_idle {s : State} {act : Bool} (h : (s.actWra (b2n act)).field = none) :
    exec (.fieldWriteEnd act) s = .next s := by
  change execFieldWriteEnd act s = _
  rw [execFieldWriteEnd, if_pos (by simp [h])]

theorem exec_fieldWriteEnd {s : State} {act : Bool} (h : (s.actWra (b2n act)).field ≠ none) :
    exec (.fieldWriteEnd act) s = .next (s.fieldEnded (b2n act)) := by
  change execFieldWriteEnd act s = _
  rw [execFieldWriteEnd, if_neg (by simpa using h)]
  rfl

/-! ## The assist power loop (R276, R277) -/

namespace State

variable {s : State}

theorem fget_assistFault (s : State) (h cause : Nat) {f : Field} (hf : f ∈ allFields) (hb : f.block = 28) (i j : Nat)
    (hp : f.place ∉ eventPlaces ++ [F.WRA_FAULTS_ASSIST, F.WRA_ERR_STATUS_ASSIST_FAULT, F.WRA_STATUS_AG, F.WRA_STATUS_WG,
      F.WRA_STATUS_CH_ARMED].map Field.place) : (s.assistFault h cause).fget f i j = s.fget f i j := by
  simp only [List.map_cons, List.map_nil, List.mem_append, List.mem_cons, not_or, List.not_mem_nil, not_false_eq_true,
    and_true] at hp
  obtain ⟨he, hc, hflt, hag, hwg, har⟩ := hp
  have hn : (s.assistNoted h cause).fget f i j = s.fget f i j := by
    unfold assistNoted
    simp only [fget_setWra, fget_raiseFor _ _ _ _ _ _ _ _ _ he, fget_fset_other _ _ _ _ _ _ hflt, fget_addi _ _ _ _ _ hc]
    exact fget_stopWrites' _ _ _ (by simp [hag, hwg, har])
  rcases assistFault_eq s h cause with e | e <;> rw [e]
  · exact hn
  · exact ((failHead_only_wra _ _ _).fget hf (by rw [hb]; decide) i j).trans hn

/-- The loop of a head after a monitor value: `err` is the error, `top` the profile's highest level (R276). -/
def loopAfter (s : State) (h : Nat) (target : Nat) (err : Int) (lvl top : Nat) : HeadLoop :=
  let l := Store.get HeadLoop.init s.wra.loops h
  { l with
    level := lvl
    conv := if 50 * err.natAbs ≤ target then l.conv + 1 else 0
    sat := if lvl = top then l.sat + 1 else 0
    wide := if s.rd F.WRA_ASSIST_LOOP_ERR_PCT * target < 100 * err.natAbs then l.wide + 1 else 0 }

/-- A level is kept and, once converged, enters the head's field; a derate is reported. -/
def levelNoted (s : State) (h lvl top : Nat) (l : HeadLoop) : State :=
  let done := decide (16 ≤ l.conv)
  let past := done && decide (s.rd F.WRA_ASSIST_LOOP_DERATE_PCT * top < 100 * lvl)
  let s := s.setWra { s.wra with loops := Store.put HeadLoop.init s.wra.loops h { l with derated := l.derated || past } }
  let s := if done then s.wri F.WRA_HEAD_ASSIST_LEVEL h lvl else s
  if past && !l.derated then (s.wr F.WRA_ERR_STATUS_ASSIST_DERATE 1).raise 7 h 0x403 lvl else s

/-- The level of a head, kept, is sent to its preamp. -/
def levelSent (s : State) (h lvl top : Nat) (l : HeadLoop) : State :=
  (s.levelNoted h lvl top l).sendPac ((s.levelNoted h lvl top l).actOf h) 4 ((s.levelNoted h lvl top l).headOnAct h) 0 lvl

/-- A loop that is saturated or wide for too long is an assist fault (R277). -/
def judgeLoop (s : State) (h : Nat) (l : HeadLoop) : State :=
  if s.rd F.WRA_ASSIST_LOOP_SAT_FIELDS ≤ l.sat then s.assistFault h 1
  else if s.rd F.WRA_ASSIST_LOOP_ERR_FIELDS ≤ l.wide then s.assistFault h 2
  else s

theorem assistSample_idle (h m : Nat) (hi : s.dMode = false ∨ s.disk.heads ≤ h ∨ s.kindOf h = 0) : s.assistSample h m = s := by
  rw [assistSample, if_pos]
  simpa [or_assoc] using hi

theorem assistSample_eq {h m target top lvl : Nat} {err : Int} (hm : s.dMode = true) (hh : h < s.disk.heads)
    (hk : s.kindOf h ≠ 0) (htar : target = s.rdi F.WRA_PROF_B_TARGET (s.profOf h))
    (htop : top = s.rdi F.WRA_PROF_A_MAX_LVL (s.profOf h)) (herr : err = (target : Int) - (m : Int))
    (hlvl : lvl = (clampInt 0 (top : Int) (((Store.get HeadLoop.init s.wra.loops h).level : Int) +
      err / ((2 ^ s.rd F.WRA_ASSIST_LOOP_KI : Nat) : Int))).toNat) :
    s.assistSample h m = (s.levelSent h lvl top (s.loopAfter h target err lvl top)).judgeLoop h
      (s.loopAfter h target err lvl top) := by
  subst htar htop herr hlvl
  rw [assistSample, if_neg (by simp [hm, hk]; omega)]
  rfl

variable (s) (h lvl top : Nat) (l : HeadLoop)

theorem levelNoted_disk : (s.levelNoted h lvl top l).disk = s.disk := by
  unfold levelNoted
  extract_lets done past wra s1 s2
  have h2 : s2.disk = s.disk := by unfold s2; split <;> rfl
  split
  · rw [raiseFor_disk]; exact h2
  · exact h2

theorem levelNoted_loop : (Store.get HeadLoop.init (s.levelNoted h lvl top l).wra.loops h).level = l.level := by
  unfold levelNoted
  extract_lets done past wra s1 s2
  have h1 : (Store.get HeadLoop.init s1.wra.loops h).level = l.level := by
    unfold s1
    rw [setWra_wra, Store.get_put_same]
  have h2 : s2.wra = s1.wra := by unfold s2; split <;> rfl
  split
  · rw [raiseFor_wra, fset_wra, h2, h1]
  · rw [h2, h1]

theorem fget_levelNoted {f : Field} (i j : Nat) (he : f.place ∉ eventPlaces)
    (hd : f.place ≠ F.WRA_ERR_STATUS_ASSIST_DERATE.place) : (s.levelNoted h lvl top l).fget f i j =
      (if 16 ≤ l.conv then s.wri F.WRA_HEAD_ASSIST_LEVEL h lvl else s).fget f i j := by
  unfold levelNoted
  extract_lets done past wra s1 s2
  have h2 : s2.fget f i j = (if 16 ≤ l.conv then s.wri F.WRA_HEAD_ASSIST_LEVEL h lvl else s).fget f i j := by
    by_cases hc : 16 ≤ l.conv
    · simp only [s2, s1, done, hc, decide_true, if_true]
      rfl
    · simp only [s2, s1, done, hc, decide_false, Bool.false_eq_true, if_false]
      rfl
  split
  · rw [fget_raiseFor _ _ _ _ _ _ _ _ _ he, fget_fset_other _ _ _ _ _ _ hd, h2]
  · exact h2

theorem levelNoted_out : s.out <:+ (s.levelNoted h lvl top l).out := by
  unfold levelNoted
  extract_lets done past wra s1 s2
  have h2 : s2.out = s.out := by unfold s2; split <;> rfl
  split
  · have hk : (s2.wr F.WRA_ERR_STATUS_ASSIST_DERATE 1).out <:+
        ((s2.wr F.WRA_ERR_STATUS_ASSIST_DERATE 1).raise 7 h 0x403 lvl).out := (raiseFor_keeps (.refl _)).out
    exact h2 ▸ hk
  · rw [h2]

theorem levelSent_emitted : Emitted (.pac (s.actOf h) (pacFrame 4 (s.headOnAct h) 0 lvl)) s (s.levelSent h lvl top l) := by
  have hd := levelNoted_disk s h lvl top l
  have ha : (s.levelNoted h lvl top l).actOf h = s.actOf h := by simp only [actOf, hd]
  have hn : (s.levelNoted h lvl top l).headOnAct h = s.headOnAct h := by simp only [headOnAct, ha, hd]
  rw [levelSent, ha, hn]
  exact Emitted.from (levelNoted_out s h lvl top l) ⟨[_], rfl, List.mem_cons_self⟩

theorem judgeLoop_cases (t : State) : t.judgeLoop h l = t ∨ ∃ c, t.judgeLoop h l = t.assistFault h c := by
  unfold judgeLoop
  split
  · exact .inr ⟨_, rfl⟩
  · split
    · exact .inr ⟨_, rfl⟩
    · exact .inl rfl

theorem assistSample_level : (Store.get HeadLoop.init ((s.levelSent h lvl top l).judgeLoop h l).wra.loops h).level = l.level := by
  have hs : (Store.get HeadLoop.init (s.levelSent h lvl top l).wra.loops h).level = l.level := levelNoted_loop s h lvl top l
  rcases judgeLoop_cases h l (s.levelSent h lvl top l) with e | ⟨c, e⟩ <;> rw [e]
  · exact hs
  · rw [assistFault_level, hs]

theorem assistSample_emitted :
    Emitted (.pac (s.actOf h) (pacFrame 4 (s.headOnAct h) 0 lvl)) s ((s.levelSent h lvl top l).judgeLoop h l) := by
  have hs := levelSent_emitted s h lvl top l
  rcases judgeLoop_cases h l (s.levelSent h lvl top l) with e | ⟨c, e⟩ <;> rw [e]
  · exact hs
  · exact hs.suffix (assistFault_keeps (.refl _)).out

theorem assistSample_converged (hc : 16 ≤ l.conv) :
    ((s.levelSent h lvl top l).judgeLoop h l).rdi F.WRA_HEAD_ASSIST_LEVEL h = lvl % 2 ^ 10 := by
  have hs : (s.levelSent h lvl top l).rdi F.WRA_HEAD_ASSIST_LEVEL h = lvl % 2 ^ 10 := by
    rw [levelSent, rdi, fget_sendPac, fget_levelNoted _ _ _ _ _ _ _ (by decide) (by decide), if_pos hc]
    exact fget_fset_same _ _ _ _ _
  rcases judgeLoop_cases h l (s.levelSent h lvl top l) with e | ⟨c, e⟩ <;> rw [e]
  · exact hs
  · rw [rdi, fget_assistFault _ _ _ (by decide +kernel) (by decide) _ _ (by decide)]
    exact hs

theorem assistSample_saturated (hsat : s.rd F.WRA_ASSIST_LOOP_SAT_FIELDS ≤ l.sat) :
    ((s.levelSent h lvl top l).judgeLoop h l).rd F.WRA_FAULTS_ASSIST = Nat.min (s.rd F.WRA_FAULTS_ASSIST + 1) (2 ^ 16 - 1) ∧
    ((s.levelSent h lvl top l).judgeLoop h l).rd F.WRA_ERR_STATUS_ASSIST_FAULT = 1 := by
  have hrd : ∀ f : Field, f.place ∉ eventPlaces → f.place ≠ F.WRA_ERR_STATUS_ASSIST_DERATE.place →
      f.place ≠ F.WRA_HEAD_ASSIST_LEVEL.place → (s.levelSent h lvl top l).rd f = s.rd f := fun f he hd hl => by
    rw [levelSent, rd, fget_sendPac, fget_levelNoted _ _ _ _ _ _ _ he hd]
    split
    · exact fget_fset_other _ _ _ _ _ _ hl
    · rfl
  have hj : (s.levelSent h lvl top l).judgeLoop h l = (s.levelSent h lvl top l).assistFault h 1 := by
    rw [judgeLoop, if_pos]
    rwa [hrd _ (by decide) (by decide) (by decide)]
  have hf := assistFault_counted (s.levelSent h lvl top l) h 1
  rw [hrd F.WRA_FAULTS_ASSIST (by decide) (by decide) (by decide)] at hf
  rw [hj]
  exact ⟨hf.2, hf.1⟩

/-- The saved copy of a level is the head's converged level. -/
theorem saveLevels_get (s : State) {h : Nat} (h24 : h < 24) :
    Store.get 0 s.saveLevels.wra.savedLevels h = s.rdi F.WRA_HEAD_ASSIST_LEVEL h := by
  have hg : ∀ (l : List Nat) (m : Store Nat), (h ∈ l ∨ Store.get 0 m h = s.rdi F.WRA_HEAD_ASSIST_LEVEL h) →
      Store.get 0 (l.foldl (fun m h => Store.put 0 m h (s.rdi F.WRA_HEAD_ASSIST_LEVEL h)) m) h =
        s.rdi F.WRA_HEAD_ASSIST_LEVEL h := by
    intro l
    induction l with
    | nil => exact fun m hm => hm.resolve_left (List.not_mem_nil)
    | cons k l ih =>
      intro m hm
      refine ih _ ?_
      by_cases hk : h = k
      · exact .inr (hk ▸ Store.get_put_same _ _ _ _)
      · rw [Store.get_put_other _ _ _ _ hk]
        exact hm.imp_left fun hm => (List.mem_cons.mp hm).resolve_left hk
  exact hg _ _ (.inl (List.mem_range.mpr h24))

end State

/-! ## Writing on tape halted (R170 to R172) -/

namespace State

variable {s : State}

theorem tapeWriting_of {t : State} (h : t.rd F.FMT_TSTATUS_WSTATE = s.rd F.FMT_TSTATUS_WSTATE) :
    t.tapeWriting = s.tapeWriting := by
  unfold tapeWriting
  rw [h]

theorem tapeWriting_of_only {L : List Part} {t : State} (h : Only L s t) (hb : Part.regs 16 ∉ L) :
    t.tapeWriting = s.tapeWriting := tapeWriting_of (h.fget (f := F.FMT_TSTATUS_WSTATE) (by decide +kernel) hb 0 0)

theorem tapeWriting_wstate {v : Nat} (h : v % 4 ≠ 1) : (s.wr F.FMT_TSTATUS_WSTATE v).tapeWriting = false := by
  unfold tapeWriting
  rw [show (s.wr F.FMT_TSTATUS_WSTATE v).rd F.FMT_TSTATUS_WSTATE = v % 4 from fget_fset_same _ _ _ _ _]
  exact decide_eq_false h

theorem tapeWriting_wr {f : Field} (v : Nat) (h : F.FMT_TSTATUS_WSTATE.place ≠ f.place) :
    (s.wr f v).tapeWriting = s.tapeWriting := tapeWriting_of (fget_fset_other _ _ _ _ _ _ h)

theorem tapeWriting_raise (a b c d : Nat) : (s.raise a b c d).tapeWriting = s.tapeWriting :=
  tapeWriting_of (fget_raiseFor _ _ _ _ _ _ _ _ _ (by decide))

/-- What follows a halt of writing does not take it up again. -/
theorem failWriting_idle (h : s.tapeWriting = false) (why : Nat) : (s.failWriting why).tapeWriting = false := by
  unfold failWriting
  split
  · exact h
  · extract_lets s1 m w s2 s3
    have h1 : s1.tapeWriting = false := (tapeWriting_wr _ (by decide)).trans (tapeWriting_wstate (by decide))
    have h3 : s3.tapeWriting = false := (tapeWriting_raise ..).trans h1
    exact (tapeWriting_of_only (L := [.out, .host, .sq, .obj, .life, .tape, .disk, .trc, .grp, .red, .regs 0, .regs 4, .regs 8,
      .regs 32, .regs 49]) (endTapeCmds_only (by decide) (.refl s3)) (by decide)).trans h3

theorem reissue_idle (h : s.tapeWriting = false) (part n : Nat) (verify : Bool) :
    (s.reissue part n verify).tapeWriting = false := by
  unfold reissue
  split
  · exact h
  · extract_lets d t s1 s2 s3
    have h1 : s1.tapeWriting = false := h
    split
    · exact h1
    · split
      · exact failWriting_idle h1 1
      · have h3 : s3.tapeWriting = false := (tapeWriting_wr _ (by decide)).trans h1
        split
        · exact (tapeWriting_raise ..).trans h3
        · exact h3

theorem foldl_reissue_idle (l : List DataSet) (h : s.tapeWriting = false) :
    (l.foldl (fun s d => s.reissue d.part d.num false) s).tapeWriting = false := by
  induction l generalizing s with
  | nil => exact h
  | cons d l ih => exact ih (reissue_idle h _ _ _)

theorem haltWriting_idle (s : State) (d : Nat) (atEnd : Bool) : (s.haltWriting d atEnd).tapeWriting = false := by
  unfold haltWriting
  extract_lets s1 begun t s2 m w s3 s4 s5 s6
  have h1 : s1.tapeWriting = false := tapeWriting_wstate (by decide)
  have h4 : s4.tapeWriting = false := by
    unfold s4
    split
    · exact h1
    · exact (tapeWriting_wr _ (by decide)).trans h1
  have h5 : s5.tapeWriting = false := (tapeWriting_of (fget_addi _ _ _ _ _ (by decide))).trans (foldl_reissue_idle begun h4)
  have h6 : s6.tapeWriting = false := (tapeWriting_wr _ (by decide)).trans h5
  have h7 : Only [.ctl, .pwr, .regs 32] s6 ((s6.tapeRamp 0).ask 2 0 2) :=
    ask_only (by decide) (tapeRamp_only (by decide) (.refl s6))
  exact (tapeWriting_of_only h7 (by decide)).trans h6

/-- After a disturbance the tape does not write. -/
theorem disturb_idle (s : State) (cause : Nat) : (s.disturb cause).tapeWriting = false := by
  unfold disturb disturbAt
  split
  · next h => simpa [tapeWriting] using h
  · extract_lets first s1 t s2 s3
    have h3 : s3.tapeWriting = false := (tapeWriting_raise ..).trans (haltWriting_idle _ _ _)
    split
    · exact failWriting_idle h3 3
    · exact h3

/-- The parts that a disturbance whose outputs stop at the end of the slot leaves alone hold the write path's registers. -/
theorem haltWriting_atEnd_only (s : State) (d : Nat) : Only [.out, .host, .sq, .obj, .life, .tape, .mot, .disk, .det, .medium,
    .wra, .ctl, .trc, .grp, .red, .pwr, .regs 0, .regs 4, .regs 8, .regs 16, .regs 20, .regs 32, .regs 49] s
      (s.haltWriting d true) := by
  unfold haltWriting
  extract_lets s1 begun t s2 m w s3 s4 s5 s6
  refine ask_only (by decide) (tapeRamp_only (by decide) (wr_only (by decide) (inc_only (by decide)
    (Only.foldl _ ?_ fun s _ h => reissue_only (by decide) h))))
  refine Only.upd [.mot, .wra] (by decide) (setTape_only (by decide) (wr_only (by decide)
    (failSlots_only (by decide) (.refl s)))) fun p hp => ?_
  cases p <;> first | rfl | exact fun _ _ _ _ _ => rfl | exact absurd (by decide) hp

theorem disturb_two_only (s : State) : Only [.out, .host, .sq, .obj, .life, .tape, .mot, .disk, .det, .medium,
    .wra, .ctl, .trc, .grp, .red, .pwr, .regs 0, .regs 4, .regs 8, .regs 16, .regs 20, .regs 32, .regs 49] s (s.disturb 2) := by
  unfold disturb disturbAt
  split
  · exact .refl s
  · extract_lets first s1 t s2 s3
    have h2 : Only [.tape, .regs 16] s s2 := setTape_only (by decide) (wr_only (by decide) (inc_only (by decide) (.refl s)))
    have h3 : Only _ s2 s3 := raise_only (by decide) (haltWriting_atEnd_only s2 _)
    have h23 : Only [.out, .host, .sq, .obj, .life, .tape, .mot, .disk, .det, .medium,
      .wra, .ctl, .trc, .grp, .red, .pwr, .regs 0, .regs 4, .regs 8, .regs 16, .regs 20, .regs 32, .regs 49] s s3 :=
      (h2.mono (by decide)).trans h3
    split
    · exact failWriting_only (by decide) h23
    · exact h23

end State

/-! ## Synthesizers (R265, Table 11-5) -/

section
variable {s : State} {which : BitVec 3}

theorem exec_synthUnlock_tape (h : which.toNat = 4) : exec (.synthUnlock which) s = .next
    (if s.tMode && s.tapeWriting then
      State.setWra (((((s.wr F.WRA_STATUS_TSYNTH_LOCK 0).wr F.WRA_STATUS_TAPE_SQUELCH 1).wr F.WRA_ERR_STATUS_SYNTH_UNLOCK 1).raise
        7 0 0x404 4).disturb 2) { (((((s.wr F.WRA_STATUS_TSYNTH_LOCK 0).wr F.WRA_STATUS_TAPE_SQUELCH 1).wr
          F.WRA_ERR_STATUS_SYNTH_UNLOCK 1).raise 7 0 0x404 4).disturb 2).wra with squelchDue := false }
    else s.wr F.WRA_STATUS_TSYNTH_LOCK 0) := by
  change execSynthUnlock which s = _
  unfold execSynthUnlock
  extract_lets n s1 s2 s3 w s4 h' s5 s6
  have hm : s1.tMode = s.tMode := by
    unfold State.tMode
    rw [show s1.rd F.GLB_CONFIG_MODE = s.rd F.GLB_CONFIG_MODE from State.fget_fset_other _ _ _ _ _ _ (by decide)]
  have hw : s1.tapeWriting = s.tapeWriting := State.tapeWriting_wr _ (by decide)
  rw [if_pos h, hm, hw]
  by_cases hc : (s.tMode && s.tapeWriting) = true
  · rw [if_pos hc, if_pos hc]
  · rw [if_neg hc, if_neg hc]

/-- A disk channel whose synthesizer is lost while it writes is squelched and its write ends. -/
def State.synthEnds (s : State) (n : Nat) : State :=
  (((s.wr F.WRA_STATUS_DSYNTH_LOCK (clrBit (s.rd F.WRA_STATUS_DSYNTH_LOCK) n)).setChan n
    { s.chan n with writing := false, stopping := false }).wr F.WRA_STATUS_CH_ARMED
      (clrBit (s.rd F.WRA_STATUS_CH_ARMED) n)).wr F.WRA_ERR_STATUS_SYNTH_UNLOCK 1

theorem State.synthEnds_host (s : State) (n : Nat) : (s.synthEnds n).host = s.host := rfl

theorem State.synthEnds_chan (s : State) (n : Nat) : ((s.synthEnds n).chan n).writing = false := by
  unfold State.synthEnds
  rw [State.chan_fset, State.chan_fset, State.chan_setChan_same]

theorem State.synthEnds_regs (s : State) {n : Nat} (h : n < 4) :
    bitAt ((s.synthEnds n).rd F.WRA_STATUS_DSYNTH_LOCK) n = false ∧ bitAt ((s.synthEnds n).rd F.WRA_STATUS_CH_ARMED) n = false := by
  have hl : (s.synthEnds n).rd F.WRA_STATUS_DSYNTH_LOCK = clrBit (s.rd F.WRA_STATUS_DSYNTH_LOCK) n % 2 ^ 4 := by
    unfold State.synthEnds
    simp (disch := decide) only [State.fget_fset_other, State.fget_setChan, State.fget_fset_same]
    rfl
  have ha : (s.synthEnds n).rd F.WRA_STATUS_CH_ARMED = clrBit (s.rd F.WRA_STATUS_CH_ARMED) n % 2 ^ 4 := by
    unfold State.synthEnds
    simp (disch := decide) only [State.fget_fset_other, State.fget_fset_same]
    rfl
  rw [hl, ha, bitAt_mod _ _ _ h, bitAt_mod _ _ _ h, bitAt_clrBit, bitAt_clrBit]
  simp

theorem exec_synthUnlock_disk (h : which.toNat < 4) (hw : (s.chan which.toNat).writing = true ∨
    bitAt (s.rd F.WRA_STATUS_CH_ARMED) which.toNat = true) : exec (.synthUnlock which) s =
      .next ((s.synthEnds which.toNat).raise 7 (s.chan which.toNat).head 0x404 which.toNat) := by
  change execSynthUnlock which s = _
  unfold execSynthUnlock
  extract_lets n s1 s2 s3 w s4 h' v s5 s6
  have ha : ∀ v, (s.wr F.WRA_STATUS_DSYNTH_LOCK v).rd F.WRA_STATUS_CH_ARMED = s.rd F.WRA_STATUS_CH_ARMED :=
    fun v => State.fget_fset_other _ _ _ _ _ _ (by decide)
  have h5 : s5.rd F.WRA_STATUS_CH_ARMED = s.rd F.WRA_STATUS_CH_ARMED := ha _
  rw [if_neg (by simp only [n]; omega), if_pos h, if_pos]
  · unfold s6
    rw [h5]
    rfl
  · unfold s4
    rw [ha, State.chan_fset]
    simpa using hw

theorem exec_synthUnlock_idle (h : which.toNat < 4) (hw : ¬ ((s.chan which.toNat).writing = true ∨
    bitAt (s.rd F.WRA_STATUS_CH_ARMED) which.toNat = true)) : exec (.synthUnlock which) s =
      .next (s.wr F.WRA_STATUS_DSYNTH_LOCK (clrBit (s.rd F.WRA_STATUS_DSYNTH_LOCK) which.toNat)) := by
  change execSynthUnlock which s = _
  unfold execSynthUnlock
  extract_lets n s1 s2 s3 w s4 h' v s5 s6
  have ha : ∀ v, (s.wr F.WRA_STATUS_DSYNTH_LOCK v).rd F.WRA_STATUS_CH_ARMED = s.rd F.WRA_STATUS_CH_ARMED :=
    fun v => State.fget_fset_other _ _ _ _ _ _ (by decide)
  rw [if_neg (by simp only [n]; omega), if_pos h, if_neg]
  unfold s4
  rw [ha, State.chan_fset]
  simpa using hw

theorem exec_synth_none (h : 4 < which.toNat) :
    exec (.synthUnlock which) s = .next s ∧ exec (.writeSynthesizerLocked which) s = .next s := by
  constructor
  · change execSynthUnlock which s = _
    rw [execSynthUnlock, if_neg (by omega), if_neg (by omega)]
  · change execWriteSynthesizerLocked which s = _
    rw [execWriteSynthesizerLocked, if_neg (by omega), if_neg (by simp; omega)]

theorem exec_synthLocked_tape (h : which.toNat = 4) (hm : s.tMode = true) :
    exec (.writeSynthesizerLocked which) s = .next (s.wr F.WRA_STATUS_TSYNTH_LOCK 1) := by
  change execWriteSynthesizerLocked which s = _
  rw [execWriteSynthesizerLocked, if_pos h, if_pos hm]

theorem exec_synthLocked_disk (h : which.toNat < 4) (hm : s.dMode = true) : exec (.writeSynthesizerLocked which) s =
    .next ((s.setRate which.toNat (s.bandUnder which.toNat).rate).raiseBit F.WRA_STATUS_DSYNTH_LOCK which.toNat) := by
  change execWriteSynthesizerLocked which s = _
  rw [execWriteSynthesizerLocked, if_neg (by omega), if_pos (by simp [h, hm])]

/-- The tape's synthesizer unlocks: the lock bit falls; writing on tape ends, squelched. -/
theorem synthUnlock_tape (h : which.toNat = 4) : ∃ t, exec (.synthUnlock which) s = .next t ∧
    t.rd F.WRA_STATUS_TSYNTH_LOCK = 0 ∧ (s.tMode = true → s.tapeWriting = true → t.tapeWriting = false ∧
      t.rd F.WRA_STATUS_TAPE_SQUELCH = 1 ∧ t.rd F.WRA_ERR_STATUS_SYNTH_UNLOCK = 1) := by
  refine ⟨_, exec_synthUnlock_tape h, ?_⟩
  by_cases hc : (s.tMode && s.tapeWriting) = true
  · rw [if_pos hc]
    generalize hu : (((s.wr F.WRA_STATUS_TSYNTH_LOCK 0).wr F.WRA_STATUS_TAPE_SQUELCH 1).wr F.WRA_ERR_STATUS_SYNTH_UNLOCK 1).raise
      7 0 0x404 4 = u
    have hd := State.disturb_two_only u
    have h1 : u.rd F.WRA_STATUS_TSYNTH_LOCK = 0 ∧ u.rd F.WRA_STATUS_TAPE_SQUELCH = 1 ∧
        u.rd F.WRA_ERR_STATUS_SYNTH_UNLOCK = 1 := by
      rw [← hu]
      simp (disch := decide) [State.fget_raiseFor, State.fget_fset_same, State.fget_fset_other]
    have hrd : ∀ f ∈ allFields, f.block = 28 → ∀ w, ((u.disturb 2).setWra w).rd f = u.rd f := fun f hf hb w =>
      hd.fget hf (by rw [hb]; decide) 0 0
    refine ⟨(hrd _ (by decide +kernel) (by decide) _).trans h1.1, fun _ _ => ⟨State.disturb_idle u 2,
      (hrd _ (by decide +kernel) (by decide) _).trans h1.2.1, (hrd _ (by decide +kernel) (by decide) _).trans h1.2.2⟩⟩
  · rw [if_neg hc]
    exact ⟨State.fget_fset_same _ _ _ _ _, fun hm hw => absurd (by rw [hm, hw]; rfl) hc⟩

/-- A disk channel's synthesizer unlocks: a write through it ends, squelched and reported. -/
theorem synthUnlock_disk (h : which.toNat < 4) : ∃ t, exec (.synthUnlock which) s = .next t ∧
    bitAt (t.rd F.WRA_STATUS_DSYNTH_LOCK) which.toNat = false ∧
    ((s.chan which.toNat).writing = true ∨ bitAt (s.rd F.WRA_STATUS_CH_ARMED) which.toNat = true →
      (t.chan which.toNat).writing = false ∧ bitAt (t.rd F.WRA_STATUS_CH_ARMED) which.toNat = false ∧
      Raised 7 (s.chan which.toNat).head 0x404 which.toNat s t) := by
  have hl : bitAt ((s.wr F.WRA_STATUS_DSYNTH_LOCK (clrBit (s.rd F.WRA_STATUS_DSYNTH_LOCK) which.toNat)).rd
      F.WRA_STATUS_DSYNTH_LOCK) which.toNat = false := by
    rw [State.bitAt_wr h, bitAt_clrBit]
    simp
  by_cases hw : (s.chan which.toNat).writing = true ∨ bitAt (s.rd F.WRA_STATUS_CH_ARMED) which.toNat = true
  · have hr := State.synthEnds_regs s h
    have hc := State.synthEnds_chan s which.toNat
    have hh := State.synthEnds_host s which.toNat
    have he := exec_synthUnlock_disk h hw
    generalize s.synthEnds which.toNat = u at hr hc hh he
    refine ⟨_, he, ?_, fun _ => ⟨?_, ?_, State.raised_raise hh _ _ _ _⟩⟩
    · rw [State.rd, State.fget_raiseFor _ _ _ _ _ _ _ _ _ (by decide)]
      exact hr.1
    · rw [State.chan_congr (State.raiseFor_wra ..)]
      exact hc
    · rw [State.rd, State.fget_raiseFor _ _ _ _ _ _ _ _ _ (by decide)]
      exact hr.2
  · exact ⟨_, exec_synthUnlock_idle h hw, hl, fun hc => absurd hc hw⟩

theorem synthLocked_disk (h : which.toNat < 4) (hm : s.dMode = true) : ∃ t, exec (.writeSynthesizerLocked which) s = .next t ∧
    bitAt (t.rd F.WRA_STATUS_DSYNTH_LOCK) which.toNat = true ∧
    Store.get 0 t.wra.rates which.toNat = (s.bandUnder which.toNat).rate ∧ Only [.wra, .regs 28] s t := by
  refine ⟨_, exec_synthLocked_disk h hm, ?_, Store.get_put_same _ _ _ _, ?_⟩
  · rw [State.bitAt_raiseBit h]
    simp
  · exact State.raiseBit_only (by decide) (State.setRate_only (by decide) (.refl s))

end

/-! ## The statement, part by part -/

section
variable {s : State} {act : Bool}

theorem b2n_lt_two (b : Bool) : b2n b < 2 := by cases b <;> decide

/-- A response whose CRC fails: a repeat, a reset of the bus, or its failure (R273). -/
theorem pacResponse_badCrc {frame : BitVec 32} {a f : Nat} (ha : a = b2n act) (hf : f = frame.toNat) (hm : s.dMode = true)
    (hc : frameOk f = false) (ho : (s.actWra a).allOpen = false) :
    ((s.actWra a).repeats < s.rd F.WRA_D_CFG_PAC_RETRY → ∃ t, exec (.pacResponse act frame) s = .next t ∧
      (t.actWra a).repeats = (s.actWra a).repeats + 1 ∧ t.out = .pac a (s.actWra a).lastFrame :: s.out ∧
      Only [.out, .wra] s t) ∧
    (s.rd F.WRA_D_CFG_PAC_RETRY ≤ (s.actWra a).repeats → (s.actWra a).resets < 3 → ∃ t,
      exec (.pacResponse act frame) s = .next t ∧ (t.actWra a).repeats = 0 ∧
      (t.actWra a).resets = (s.actWra a).resets + 1 ∧ Emitted (.pac a (pacFrame 0xF 15 0 0)) s t ∧
      bitAt (t.rd F.WRA_STATUS_WG) a = false ∧ bitAt (t.rd F.WRA_STATUS_AG) a = false) ∧
    (s.rd F.WRA_D_CFG_PAC_RETRY ≤ (s.actWra a).repeats → 3 ≤ (s.actWra a).resets → ∃ t,
      exec (.pacResponse act frame) s = .next t ∧ (t.actWra a).allOpen = true ∧ t.rd F.WRA_ERR_STATUS_PAC_BUS = 1) := by
  subst ha hf
  have he := exec_pacResponse_badCrc (act := act) hm hc
  refine ⟨fun hr => ?_, fun hr h3 => ?_, fun hr h3 => ?_⟩
  · rw [State.pacRetry_repeats ho hr] at he
    refine ⟨_, he, ?_, rfl, State.emit_only (by decide) (State.setActWra_only (by decide) (.refl s))⟩
    rw [State.actWra_emit, State.actWra_setActWra_same]
  · rw [State.pacRetry_resets ho hr h3] at he
    exact ⟨_, he, State.pacReset_spec (b2n_lt_two act) rfl⟩
  · rw [State.pacRetry_fails ho hr h3] at he
    exact ⟨_, he, State.busFailed_spec s _⟩

/-- A status answer of a preamp (R274). -/
theorem pacResponse_status {frame : BitVec 32} {a f h d : Nat} (ha : a = b2n act) (hf : f = frame.toNat)
    (hh : h = s.headAt a (bits f 24 4)) (hd : d = bits f 8 15) (hm : s.dMode = true) (hok : frameOk f = true)
    (hc : f / 2 ^ 28 = 8) (h7 : bitAt d 7 = false) :
    (bits d 0 7 = 0 → bitAt (s.rd F.WRA_STATUS_FLT) a = false → ∃ t, exec (.pacResponse act frame) s = .next t ∧
      t.rd (if act then F.WRA_PAC_STATUS_ACT1 else F.WRA_PAC_STATUS_ACT0) = d ∧ (t.actWra a).barred = false ∧
      (t.actWra a).wantStatus = false ∧ (t.actWra a).resets = 0 ∧
      ((s.actWra a).wantStatus = true → Emitted (.pac a (pacFrame 0xA 15 0 0)) s t ∧
        Raised 7 (if bits f 24 4 = 15 then 0 else h) 0x401 (a + d * 2 ^ 16) s t)) ∧
    ((bitAt d 1 || bitAt d 2) = true → h < s.disk.heads → h < 24 → s.headOk h = true → ∃ t,
      exec (.pacResponse act frame) s = .next t ∧ bitAt (t.rd F.FMT_HEAD_FAILED_HEADS) h = true) ∧
    ((bitAt d 1 || bitAt d 2) = false → (bitAt d 4 || bitAt d 5) = true → ∃ t,
      exec (.pacResponse act frame) s = .next t ∧ t.rd F.WRA_ERR_STATUS_ASSIST_FAULT = 1 ∧
      t.rd F.WRA_FAULTS_ASSIST = Nat.min (s.rd F.WRA_FAULTS_ASSIST + 1) (2 ^ 16 - 1)) := by
  subst ha
  have he := exec_pacResponse_status (act := act) hf hh hd hm hok hc h7
  have h15 : d < 2 ^ 15 := by rw [hd]; exact Nat.mod_lt _ (by decide)
  generalize hsrc : (if bits f 24 4 = 15 then 0 else h) = src at he ⊢
  generalize hv : (s.showStatus act d).statusTaken (b2n act) = v at he
  have hvrd : ∀ g : Field, g.place ≠ F.WRA_PAC_STATUS_ACT0.place ∧ g.place ≠ F.WRA_PAC_STATUS_ACT1.place → v.rd g = s.rd g :=
    fun g hg => by
      rw [← hv]
      exact State.fget_showStatus _ _ _ _ _ hg
  have hvact : v.actWra (b2n act) = { s.actWra (b2n act) with repeats := 0, resets := 0 } := by
    rw [← hv, State.statusTaken, State.actWra_setActWra_same, State.actWra_congr (State.showStatus_wra ..)]
  have hurd : ∀ g : Field, g.place ≠ F.WRA_PAC_STATUS_ACT0.place ∧ g.place ≠ F.WRA_PAC_STATUS_ACT1.place →
      g.place ∉ eventPlaces → (v.tellStatus (b2n act) src d).rd g = s.rd g := fun g hg hp =>
    (State.fget_tellStatus _ _ _ _ _ _ hp).trans (hvrd g hg)
  refine ⟨fun hz hflt => ?_, fun hopen hlt h24 _ => ?_, fun hopen hassist => ?_⟩
  · have hb : ∀ i < 7, bitAt d i = false := fun i hi => State.bitAt_of_bits_zero hz hi
    have hflags : (v.tellStatus (b2n act) src d).headFlags h d = v.tellStatus (b2n act) src d := by
      simp [State.headFlags, hb]
    have hun : (v.tellStatus (b2n act) src d).unbar (b2n act) d = (v.tellStatus (b2n act) src d).setActWra (b2n act)
        { (v.tellStatus (b2n act) src d).actWra (b2n act) with barred := false } := by
      rw [State.unbar, if_pos]
      rw [hurd _ (by decide) (by decide), hflt, hz]
      rfl
    rw [hflags, hun] at he
    obtain ⟨lf, hact⟩ := State.tellStatus_act v (b2n act) src d
    refine ⟨_, he, ?_, ?_, ?_, ?_, fun hw => ?_⟩
    · rw [State.rd, State.fget_setActWra]
      have hp : (if act then F.WRA_PAC_STATUS_ACT1 else F.WRA_PAC_STATUS_ACT0).place ∉ eventPlaces := by
        cases act <;> decide
      rw [State.fget_tellStatus _ _ _ _ _ _ hp, ← hv]
      exact State.showStatus_rd s act h15
    · rw [State.actWra_setActWra_same]
    · rw [State.actWra_setActWra_same, hact]
    · rw [State.actWra_setActWra_same, hact, hvact]
    · have hw' : (v.actWra (b2n act)).wantStatus = true := by rw [hvact]; exact hw
      have hvo : v.out = s.out := by rw [← hv]; exact State.showStatus_out ..
      have hvh : v.host = s.host := by rw [← hv]; exact State.showStatus_host ..
      obtain ⟨h1, h2⟩ := State.tellStatus_told v (b2n act) src d hw'
      refine ⟨Emitted.from (hvo ▸ List.suffix_refl _) h1, ?_⟩
      unfold Raised at h2 ⊢
      rw [hvh] at h2
      exact h2
  · refine ⟨_, he, ?_⟩
    rw [State.rd, State.fget_unbar, ← State.rd]
    unfold State.headFlags
    rw [if_pos hopen]
    have hheads : (v.tellStatus (b2n act) src d).disk = s.disk := by
      rw [State.tellStatus_disk, ← hv, State.statusTaken, State.disk_setActWra, State.showStatus_disk]
    have hb := State.failHead_bit (v.tellStatus (b2n act) src d) (by rw [hheads]; exact hlt) h24 1
    split
    · exact State.assistFault_heads _ _ _ h24 hb
    · exact hb
  · have hflags : (v.tellStatus (b2n act) src d).headFlags h d = (v.tellStatus (b2n act) src d).assistFault h 3 := by
      rw [State.headFlags, if_pos hassist, if_neg (by simp [hopen])]
    rw [hflags] at he
    obtain ⟨hfault, hcount⟩ := State.assistFault_counted (v.tellStatus (b2n act) src d) h 3
    rw [hurd F.WRA_FAULTS_ASSIST (by decide) (by decide)] at hcount
    exact ⟨_, he, (State.fget_unbar ..).trans hfault, (State.fget_unbar ..).trans hcount⟩

/-- A field of an actuator that may write: what its one channel does (R22, R268). -/
theorem fieldWriteStart_one {field : BitVec 10} {w0 w1 : Option FieldWrite} {a c : Nat} {w : FieldWrite} (ha : a = b2n act)
    (hr : FieldReady s a field) (hf : bitAt (s.rd F.WRA_STATUS_FLT) a = false) (hbar : (s.actWra a).barred = false)
    (hp : bitAt (s.rd F.CTL_DK_STATUS_PERMIT) a = true)
    (hw : (c = 2 * a ∧ w0 = some w ∧ w1 = none) ∨ (c = 2 * a + 1 ∧ w0 = none ∧ w1 = some w)) :
    (s.mayWriteChan a c w = true → ∃ t, exec (.fieldWriteStart act field w0 w1) s = .next t ∧
      (t.chan c).writing = true ∧ (t.chan c).head = w.head.toNat ∧ (t.chan c).granted = false ∧
      (t.actWra a).field = some field.toNat ∧ bitAt (t.rd F.WRA_STATUS_AG) a = true ∧
      bitAt (t.rd F.WRA_STATUS_WG) a = true ∧ (w.start = true → bitAt (t.rd F.WRA_STATUS_CH_ARMED) c = true) ∧
      ∀ b, b = s.channelBits field.toNat w →
        Emitted (.diskField c field.toNat (s.rdi F.WRA_DW_PRECOMP_PRECOMP c) (delayedAt 2 b) b) s t) ∧
    (s.mayWriteChan a c w = false → w.start = true → s.surfOk w.head.toNat = true → (s.chan c).writing = false →
      ∃ t, exec (.fieldWriteStart act field w0 w1) s = .next t ∧ t.asked 0 (c + 4 * w.head.toNat) = true ∧
      t.out = s.out ∧ t.wra = s.wra) := by
  subst ha
  have h4 : c < 4 := by
    have := b2n_lt_two act
    omega
  have he := exec_fieldWriteStart_one hr hf hbar hp (fieldWrites_one hw)
  refine ⟨fun hmay => ?_, fun hmay hs ho hidle => ?_⟩
  · rw [State.tryChan_may _ _ _ _ hmay, if_pos (by rw [State.chan_setChan_same])] at he
    generalize hu : s.setChan c { s.chan c with head := w.head.toNat, writing := true, stopping := w.stop, granted := false } = u
      at he
    have hch : u.chan c = { s.chan c with head := w.head.toNat, writing := true, stopping := w.stop, granted := false } := by
      rw [← hu, State.chan_setChan_same]
    have hg := State.fieldBegun_gates u (b2n_lt_two act) c field.toNat w
    refine ⟨_, he, ?_, ?_, ?_, State.fieldBegun_act .., hg.1, hg.2, State.fieldBegun_armed u h4 _ _ _, ?_⟩
    · rw [State.fieldBegun_chan, hch]
    · rw [State.fieldBegun_chan, hch]
    · rw [State.fieldBegun_chan, hch]
    · rintro b rfl
      have h := State.fieldBegun_emitted u (b2n act) c field.toNat w
      have hb : u.channelBits field.toNat w = s.channelBits field.toNat w :=
        State.channelBits_congr (by rw [← hu]; rfl) (by rw [← hu]; rfl) _ _
      have hpre : u.rdi F.WRA_DW_PRECOMP_PRECOMP c = s.rdi F.WRA_DW_PRECOMP_PRECOMP c := by rw [← hu]; rfl
      rw [hb, hpre] at h
      exact h.from (by rw [← hu, State.out_setChan])
  · obtain ⟨p, hask⟩ := State.tryChan_asks s (b2n act) c w hmay hs ho
    rw [hask, if_neg (by rw [State.chan_congr (State.ask_wra ..), hidle]; simp)] at he
    exact ⟨_, he, State.asked_ask .., State.ask_out .., State.ask_wra ..⟩

/-- Settles O59: the preamp's answers, the fault line, the fields of a write, the assist loop and the synthesizers, each by
its rule above. -/
theorem writeAssist : Obligations.WriteAssist := by
  intro s
  refine ⟨fun act a ha => ⟨fun frame f h d hf hh hd => ⟨exec_pacResponse_tape, pacResponse_badCrc ha hf, ?_,
    pacResponse_status ha hf hh hd⟩, ?_, ?_, ?_, ?_, ?_, ?_, ?_⟩, ?_, ?_, ?_, ?_⟩
  · intro hm hok hc
    subst ha hf
    refine ⟨_, exec_pacResponse_answer hm hok hc, ?_, State.setActWra_only (by decide) (.refl s)⟩
    rw [State.actWra_setActWra_same]
  · intro hm hflt
    subst ha
    have hr := State.faultFallen_regs s (b2n_lt_two act)
    obtain ⟨lf, hact⟩ := (State.SameAct.refl (b2n act) (s.faultFallen (b2n act))).readPac (b := b2n act) (c := 8) (h := 15) (n := 0)
    rw [State.faultFallen_act] at hact
    refine ⟨_, exec_pacFaultFall hm hflt, ?_⟩
    simp only [State.fget_readPac, State.chan_readPac, State.faultFallen_chan, State.out_readPac, State.faultFallen_out, hact]
    exact ⟨hr.1, hr.2.1, hr.2.2.1, trivial, trivial, trivial, State.releaseGates_chan _, hr.2.2.2.1, hr.2.2.2.2, trivial⟩
  · intro h
    subst ha
    exact exec_pacFaultFall_low h
  · intro hm hflt
    subst ha
    generalize hu : s.wr F.WRA_STATUS_FLT (clrBit (s.rd F.WRA_STATUS_FLT) (b2n act)) = u
    obtain ⟨lf, hact⟩ := (State.SameAct.refl (b2n act) u).readPac (b := b2n act) (c := 8) (h := 15) (n := 0)
    refine ⟨_, exec_pacFaultRelease hm hflt, ?_⟩
    rw [hu]
    refine ⟨?_, ?_, ?_⟩
    · rw [State.rd, State.fget_readPac, ← hu, ← State.rd, State.bitAt_wr (b2n_lt_two act), bitAt_clrBit]
      simp
    · rw [hact, ← hu, State.actWra_fset]
    · rw [State.out_readPac, ← hu]
      rfl
  · intro h
    subst ha
    exact exec_pacFaultRelease_high h
  · intro field w0 w1 hm hmed hw hfield hidle hbrace
    have hr : FieldReady s a field := ⟨hm, hmed, hfield, hidle, hbrace⟩
    refine ⟨fun hb => ?_, fun hf hbar hp w c hc => fieldWriteStart_one ha hr hf hbar hp hc⟩
    subst ha
    have hlt := b2n_lt_two act
    refine ⟨_, exec_fieldWriteStart_barred hr hw hb, State.stopWrites'_out .., fun c hc => ⟨?_, ?_⟩, State.stopWrites'_wg s hlt⟩
    · rw [State.chan_stopWrites']
      exact State.releaseGates_chan _ c hc
    · exact State.stopWrites'_armed s hlt c hc
  · intro h
    subst ha
    exact exec_fieldWriteEnd_idle h
  · intro h
    subst ha
    exact ⟨_, exec_fieldWriteEnd h, State.fieldEnded_spec s (b2n_lt_two act)⟩
  · intro head monitor h hh
    subst hh
    refine ⟨fun hi => congrArg Host.Outcome.next (State.assistSample_idle _ _ hi), ?_⟩
    intro l target top lvl err hm hlt hk hl htar htop herr hlvl
    subst hl
    refine ⟨_, congrArg Host.Outcome.next (State.assistSample_eq hm hlt hk htar htop herr hlvl), ?_, ?_, ?_, ?_⟩
    · exact State.assistSample_level ..
    · exact State.assistSample_emitted ..
    · intro hc he
      refine State.assistSample_converged _ _ _ _ _ ?_
      simp only [State.loopAfter, if_pos he]
      omega
    · intro hsat hmax
      refine State.assistSample_saturated _ _ _ _ _ ?_
      simp only [State.loopAfter, if_pos hsat]
      exact hmax
  · intro hm
    refine ⟨s.saveLevels, congrArg Host.Outcome.next (if_pos hm), State.saveLevels_only (by decide) (.refl s), fun h h24 => ?_⟩
    exact State.saveLevels_get s h24
  · intro hm
    exact congrArg Host.Outcome.next (if_neg (by simp [hm]))
  · intro which n hn
    subst hn
    refine ⟨synthUnlock_tape, synthUnlock_disk, fun h hm => ⟨_, exec_synthLocked_tape h hm, ?_, ?_⟩, synthLocked_disk, exec_synth_none⟩
    · exact State.fget_fset_same _ _ _ _ _
    · exact State.wr_only (by decide) (.refl s)

end
end Sys2Proof.Machine

namespace Sys2Proof.Machine

/-! ## The header of a strip packet read back (Table 14-6) -/

theorem length_leBytes (n x : Nat) : (leBytes n x).length = n := by
  induction n generalizing x with
  | zero => rfl
  | succ n ih => rw [leBytes, List.length_cons, ih]

theorem ofLe_leBytes (n x : Nat) : ofLe (leBytes n x) = x % 256 ^ n := by
  induction n generalizing x with
  | zero => simp [leBytes, ofLe, Nat.mod_one]
  | succ n ih =>
    rw [leBytes, ofLe, ih, BitVec.toNat_ofNat, show 256 ^ (n + 1) = 2 ^ 8 * 256 ^ n from Nat.pow_succ', Nat.mod_mul]
    rfl

theorem length_stripHead (op slot gen status id off count pos : Nat) (last erased : Bool) :
    (stripHead op slot gen status id off count pos last erased).length = 32 := by
  simp only [stripHead, List.length_append, length_leBytes]

/-- The header as the receiver reads it. -/
def StripHdr.head (h : StripHdr) (op : Nat) : PHead :=
  { op := op, slot := h.slot.toNat, gen := h.gen.toNat, status := h.status.toNat, id := h.id.toNat, offset := h.offset.toNat
    count := h.count.toNat, pos := h.posMs.toNat, last := h.last, erased := h.erased }

/-- The header as it is sent. -/
def StripHdr.spelt (h : StripHdr) (op : Nat) : List Byte :=
  stripHead op h.slot.toNat h.gen.toNat h.status.toNat h.id.toNat h.offset.toNat h.count.toNat h.posMs.toNat h.last h.erased

theorem headOf_spelt (h : StripHdr) {op : Nat} (hop : op < 256) (data : List Byte) :
    headOf (h.spelt op ++ data) = h.head op := by
  have h1 : leAt (h.spelt op ++ data) 0 1 = ofLe (leBytes 1 op) := rfl
  have h2 : leAt (h.spelt op ++ data) 1 1 = ofLe (leBytes 1 h.slot.toNat) := rfl
  have h3 : leAt (h.spelt op ++ data) 2 2 = ofLe (leBytes 2 h.gen.toNat) := rfl
  have h4 : leAt (h.spelt op ++ data) 4 4 = ofLe (leBytes 4 h.status.toNat) := rfl
  have h5 : leAt (h.spelt op ++ data) 8 8 = ofLe (leBytes 8 h.id.toNat) := rfl
  have h6 : leAt (h.spelt op ++ data) 16 4 = ofLe (leBytes 4 h.offset.toNat) := rfl
  have h7 : leAt (h.spelt op ++ data) 20 4 = ofLe (leBytes 4 h.count.toNat) := rfl
  have h8 : leAt (h.spelt op ++ data) 24 4 = ofLe (leBytes 4 h.posMs.toNat) := rfl
  have h9 : leAt (h.spelt op ++ data) 28 1 = ofLe (leBytes 1 (b2n h.last + b2n h.erased * 2)) := rfl
  have hl : bitAt (ofLe (leBytes 1 (b2n h.last + b2n h.erased * 2))) 0 = h.last := by
    cases h.last <;> cases h.erased <;> rfl
  have he : bitAt (ofLe (leBytes 1 (b2n h.last + b2n h.erased * 2))) 1 = h.erased := by
    cases h.last <;> cases h.erased <;> rfl
  have b1 := h.slot.isLt
  have b2 := h.gen.isLt
  have b3 := h.status.isLt
  have b4 := h.id.isLt
  have b5 := h.offset.isLt
  have b6 := h.count.isLt
  have b7 := h.posMs.isLt
  rw [headOf, h1, h2, h3, h4, h5, h6, h7, h8, h9, hl, he]
  simp only [ofLe_leBytes]
  rw [Nat.mod_eq_of_lt (show op < 256 ^ 1 from hop), Nat.mod_eq_of_lt (show h.slot.toNat < 256 ^ 1 by omega),
    Nat.mod_eq_of_lt (show h.gen.toNat < 256 ^ 2 by omega), Nat.mod_eq_of_lt (show h.status.toNat < 256 ^ 4 by omega),
    Nat.mod_eq_of_lt (show h.id.toNat < 256 ^ 8 by omega), Nat.mod_eq_of_lt (show h.offset.toNat < 256 ^ 4 by omega),
    Nat.mod_eq_of_lt (show h.count.toNat < 256 ^ 4 by omega), Nat.mod_eq_of_lt (show h.posMs.toNat < 256 ^ 4 by omega)]
  rfl

theorem drop_spelt (h : StripHdr) (op : Nat) (data : List Byte) : (h.spelt op ++ data).drop 32 = data := by
  rw [show 32 = (h.spelt op).length from (length_stripHead ..).symm, List.drop_left]

/-! ## A packet taken in its turn (R318, R321, R323) -/

namespace State

variable {s : State} {e : Env}

/-- The last SEQ of the packet's triple has advanced to the packet's. -/
def counted (s : State) (e : Env) (vc : Nat) : State :=
  s.setGrp { s.grp with rxSeq := Store.put 0 s.grp.rxSeq (triple e.src.toNat vc) e.seq.toNat }

theorem arrives_inTurn {type : Nat} (ht : sequencedType type = true) (h : InTurn e (typeVc type) s) (payload : List Byte) :
    s.arrives e type payload = (((s.counted e (typeVc type)).takeSequenced (e.packet type payload) 0).sendPlain e.src.toNat 0x1A
      (ackBytes (typeVc type) e.seq.toNat)).peersStep := by
  obtain ⟨hup, hin, hepoch, hpeer, hseq⟩ := h
  have hnext : s.receive e.port.toNat (e.packet type payload) 0 = s.takeNext (e.packet type payload) 0 := by
    rw [receive, if_pos (show sequencedType (e.packet type payload).type = true from ht), checked, if_neg (by simp [hin])]
    split
    · rw [if_neg (by simpa [Env.packet] using hpeer)]
    · next h => exact absurd (hepoch.symm.trans h) (by decide)
    · next h _ => exact absurd hepoch h
  have htake : s.takeNext (e.packet type payload) 0 = ((s.counted e (typeVc type)).takeSequenced (e.packet type payload) 0).sendPlain
      e.src.toNat 0x1A (ackBytes (typeVc type) e.seq.toNat) := if_pos hseq
  rw [arrives, arrivesWith, if_pos hup, hnext, htake]

/-- A REBUILD packet in its turn takes effect on the state in which its SEQ has been counted. -/
theorem rebuild_taken {c : Instr} {op : Nat} {h : StripHdr} {data : List Byte} (hop : op < 256) (ht : InTurn e 2 s)
    (hc : exec c s = .next (s.stripArrives e 8 op h data)) :
    Taken c e 2 s ((s.counted e 2).takeRebuild e.src.toNat (h.head op) data) := by
  unfold Taken
  rw [hc, stripArrives, arrives_inTurn (by decide) ht, takeSequenced]
  change Host.Outcome.next (State.peersStep (State.sendPlain ((s.counted e 2).takeRebuild e.src.toNat
    (headOf (h.spelt op ++ data)) ((h.spelt op ++ data).drop 32)) _ _ _)) = _
  rw [headOf_spelt h hop, drop_spelt]
  rfl

/-! ## Packets that wait for their acknowledgement (R318) -/

theorem pump_unacked (n : Nat) (s : State) (p : Nat) : (State.pump n s p).grp.unacked = s.grp.unacked := by
  induction n generalizing s with
  | zero => rfl
  | succ n ih =>
    rw [pump]
    split
    · rfl
    · split
      · rfl
      · exact ih _

theorem routeOut_unacked (s : State) (pk : Packet) : (s.routeOut pk).grp.unacked = s.grp.unacked := by
  unfold routeOut
  extract_lets p
  split
  · unfold enqueuePacket
    exact pump_unacked _ _ _
  · rfl

/-- A packet of a type and payload for a member waits for its acknowledgement. -/
def Awaits (u : State) (dst type : Nat) (payload : List Byte) : Prop :=
  ∃ y ∈ Store.get [] u.grp.unacked (triple dst (typeVc type)),
    y.packet.dst = dst ∧ y.packet.type = type ∧ y.packet.payload = payload

theorem awaits_sendSeq (s : State) (dst type : Nat) (payload : List Byte) (owner : Option Src) :
    Awaits (s.sendSeq dst type payload owner) dst type payload := by
  unfold sendSeq sendSeqFor
  extract_lets vc k n pk g s1
  have h1 : Awaits s1 dst type payload := by
    refine ⟨{ packet := pk, owner := owner, stripe := 0 }, ?_, rfl, rfl, rfl⟩
    have hu : s1.grp.unacked = Store.modify [] s.grp.unacked k (fun l =>
      l ++ [{ packet := pk, owner := owner, stripe := 0 }]) := rfl
    rw [hu, Store.modify, Store.get_put_same]
    exact List.mem_append_right _ (List.mem_singleton_self _)
  split
  · unfold Awaits
    rw [routeOut_unacked]
    exact h1
  · exact h1

/-! ## Lists and strips asked for (R365, R366) -/

theorem pieces_one {α : Type} {n : Nat} {l : List α} (h : 0 < l.length) (hn : l.length ≤ n) (fuel : Nat) :
    pieces n (fuel + 1) l = [l] := by
  have hd : l.drop n = [] := List.drop_eq_nil_of_le hn
  rw [pieces, if_neg (by simpa using List.ne_nil_of_length_pos h), List.take_of_length_le hn, hd]
  cases fuel <;> rfl

/-- A list of at most 84 entries is answered with one packet. -/
theorem answerList_awaits (s : State) (dst id : Nat) (h : (s.listing (id % 4096)).length ≤ 84) :
    Awaits (s.answerList dst id) dst 8 (stripHead 2 0xFF 0 0 id 0 (48 * (s.listing (id % 4096)).length) 0 true false ++
      ((s.listing (id % 4096)).map DirEntry.bytes).flatten) := by
  unfold answerList
  generalize s.listing (id % 4096) = es at h
  have hp : (if (pieces 84 es.length es).isEmpty then [[]] else pieces 84 es.length es) = [es] := by
    cases es with
    | nil => rfl
    | cons e es =>
      rw [show (e :: es).length = es.length + 1 from rfl, pieces_one (by simp) h]
      rfl
  dsimp only
  rw [hp]
  exact awaits_sendSeq ..

theorem answerRead_none (s : State) (dst type op stripe slot gen offset : Nat) :
    Awaits (s.answerRead dst type op stripe slot gen offset none) dst type
      (stripHead op slot gen 2 stripe offset 0 0 true false) := awaits_sendSeq ..

theorem answerRead_one (s : State) (dst type op stripe slot gen offset : Nat) {l : List Byte} (h0 : 0 < l.length)
    (hl : l.length ≤ 4064) : Awaits (s.answerRead dst type op stripe slot gen offset (some (l, false))) dst type
      (stripHead op slot gen 0 stripe offset l.length 0 true false ++ l) := by
  unfold answerRead
  simp only [pieces_one h0 hl]
  exact awaits_sendSeq ..

end State
namespace State

variable {s t u : State}

/-! ## Lists that arrive (R364, R365) -/

/-- What makes a device the owner of a lost strip in `s` makes it so in `t`: the rows and the record are the same, and no
strip is held that was not held before. -/
structure KeepsOwner (s t : State) : Prop where
  grp : t.grp = s.grp
  regs : t.regs = s.regs
  rows : t.red.rows = s.red.rows ∧ t.red.layout = s.red.layout ∧ t.red.k = s.red.k ∧ t.red.eligible = s.red.eligible
  strips : ∀ id slot, s.strip id slot = none → t.strip id slot = none

theorem KeepsOwner.refl (s : State) : KeepsOwner s s := ⟨rfl, rfl, ⟨rfl, rfl, rfl, rfl⟩, fun _ _ h => h⟩

theorem KeepsOwner.trans (h : KeepsOwner s t) (h' : KeepsOwner t u) : KeepsOwner s u := by
  obtain ⟨g, r, ⟨r1, r2, r3, r4⟩, p⟩ := h
  obtain ⟨g', r', ⟨q1, q2, q3, q4⟩, p'⟩ := h'
  exact ⟨g'.trans g, r'.trans r, ⟨q1.trans r1, q2.trans r2, q3.trans r3, q4.trans r4⟩, fun a b hn => p' a b (p a b hn)⟩

theorem KeepsOwner.foldl {β : Type} {f : State → β → State} (hf : ∀ s x, KeepsOwner s (f s x)) (l : List β) (s : State) :
    KeepsOwner s (l.foldl f s) := by
  induction l generalizing s with
  | nil => exact .refl s
  | cons x l ih => exact (hf s x).trans (ih _)

theorem KeepsOwner.ownsLost (h : KeepsOwner s t) {d : DirEntry} {j : Nat} (ho : s.ownsLost d j = true) :
    t.ownsLost d j = true := by
  obtain ⟨hg, hr, ⟨h1, h2, h3, h4⟩, hs⟩ := h
  have hid : t.myId = s.myId := by unfold myId rd fget; rw [hr]
  have hrow : ∀ r, t.red.row r = s.red.row r := fun r => by unfold RedSt.row; rw [h1, h2, h3, h4]
  unfold State.ownsLost at ho ⊢
  simp only [hid, hrow, hg, Bool.and_eq_true, Option.isNone_iff_eq_none] at ho ⊢
  obtain ⟨⟨hfr, hst⟩, hgone⟩ := ho
  exact ⟨⟨hfr, hs _ _ hst⟩, hgone⟩

theorem strip_filter_none {p : Strip → Bool} {l : List Strip} {q : Strip → Bool} (h : l.find? q = none) :
    (l.filter p).find? q = none := by
  rw [List.find?_eq_none] at h ⊢
  exact fun x hx => h x (List.mem_of_mem_filter hx)

theorem dropStrips_keepsOwner (s : State) (p : Strip → Bool) : KeepsOwner s (s.dropStrips p) :=
  ⟨rfl, rfl, ⟨rfl, rfl, rfl, rfl⟩, fun _ _ h => strip_filter_none h⟩

theorem takeDirectory_keepsOwner (s : State) (e : DirEntry) : KeepsOwner s (s.takeDirectory e) :=
  ⟨rfl, rfl, ⟨rfl, rfl, rfl, rfl⟩, fun _ _ h => h⟩

theorem mergeIndex_keepsOwner (s : State) (e : DirEntry) : KeepsOwner s (s.mergeIndex e) := by
  unfold mergeIndex
  extract_lets slot m k
  split <;> exact takeDirectory_keepsOwner _ _

theorem dropStale_keepsOwner (s : State) (e : DirEntry) : KeepsOwner s (s.dropStale e) := by
  unfold dropStale
  split
  · exact .refl s
  · exact dropStrips_keepsOwner _ _

theorem checkIndex_keepsOwner (s : State) (row : Nat) (es : List DirEntry) (last : Bool) :
    KeepsOwner s (s.checkIndex row es last) := by
  unfold checkIndex
  split
  · exact .refl s
  · extract_lets named r s1 mine
    split
    · exact ⟨rfl, rfl, ⟨rfl, rfl, rfl, rfl⟩, fun _ _ h => h⟩
    · exact KeepsOwner.trans (t := s1) ⟨rfl, rfl, ⟨rfl, rfl, rfl, rfl⟩, fun _ _ h => h⟩ (dropStrips_keepsOwner s1 _)

/-- Every slot of a listed stripe that this device has to rebuild stands in its queue. -/
theorem queueRebuild_queued (s : State) {es : List DirEntry} {d : DirEntry} {j : Nat} (hd : d ∈ es) (hj : j < d.k + 2)
    (ho : s.ownsLost d j = true) : ∃ x ∈ (s.queueRebuild es).red.rebuild, x.entry.stripe = d.stripe ∧ x.slot = j := by
  unfold queueRebuild
  extract_lets was new r s1
  have h1 : ∃ x ∈ s1.red.rebuild, x.entry.stripe = d.stripe ∧ x.slot = j := by
    by_cases hq : s.red.rebuild.any (fun i => i.entry.stripe = d.stripe && i.slot = j) = true
    · obtain ⟨x, hx, he⟩ := List.any_eq_true.mp hq
      exact ⟨x, List.mem_append_left _ hx, by simpa using he⟩
    · refine ⟨RebuildItem.mk d j false [], List.mem_append_right _ ?_, rfl, rfl⟩
      simp only [new, List.mem_flatten, List.mem_map]
      refine ⟨_, ⟨d, hd, rfl⟩, List.mem_map.mpr ⟨j, List.mem_filter.mpr ⟨List.mem_range.mpr hj, ?_⟩, rfl⟩⟩
      simp only [ho, Bool.true_and, Bool.eq_false_iff.mpr hq, Bool.not_false]
  split
  · rw [raiseFor_red]
    exact h1
  · exact h1

theorem takeList_queued (s : State) (row : Nat) (last : Bool) (data : List Byte) {i j : Nat} {d : DirEntry}
    (hi : 48 * (i + 1) ≤ data.length) (hd : d = DirEntry.ofBytes ((data.drop (48 * i)).take 48)) (hk : d.k ≠ 0)
    (hj : j < d.k + 2) (ho : s.ownsLost d j = true) :
    ∃ x ∈ (s.takeList row last data).red.rebuild, x.entry.stripe = d.stripe ∧ x.slot = j := by
  unfold takeList
  extract_lets es raw idx s1 es'
  have hmem : d ∈ es' := by
    refine List.mem_filter.mpr ⟨List.mem_map.mpr ⟨i, List.mem_range.mpr ?_, hd.symm⟩, by simpa using hk⟩
    omega
  have hs1 : KeepsOwner s s1 := KeepsOwner.foldl (fun s l => mergeIndex_keepsOwner s _) idx s
  have hs2 := (hs1.trans (KeepsOwner.foldl dropStale_keepsOwner es' s1)).trans (checkIndex_keepsOwner _ row es' last)
  exact queueRebuild_queued _ hmem hj (hs2.ownsLost ho)

/-! ## Bytes that arrive for a strip held here (R369) -/

/-- A strip replaced by a version of the same stripe, slot and generation. -/
theorem strip_setStrip {id slot : Nat} {x y : Strip} (h : s.strip id slot = some x) (h1 : y.stripe = x.stripe)
    (h2 : y.slot = x.slot) (h3 : y.gen = x.gen) : (s.setStrip y).strip id slot = some y := by
  have hq := List.find?_some h
  change (s.red.strips.map _).find? _ = some y
  rw [List.find?_map, show ((fun t : Strip => decide (t.stripe = id) && decide (t.slot = slot)) ∘ fun t =>
      if t.stripe = y.stripe && t.slot = y.slot && t.gen = y.gen then y else t) =
      fun t => decide (t.stripe = id) && decide (t.slot = slot) from ?_, show s.red.strips.find? _ = some x from h]
  · simp [h1, h2, h3]
  · funext t
    simp only [Function.comp_apply]
    split
    · next he =>
      simp only [Bool.and_eq_true, decide_eq_true_eq] at he
      rw [he.1.1, he.1.2]
    · rfl

theorem strip_reallocate (s : State) (unit z pos id slot : Nat) :
    (s.reallocate unit z pos).strip id slot = s.strip id slot := by
  unfold reallocate
  extract_lets
  split <;> rfl

theorem takeRebuildData_held {id slot member off status : Nat} {last erased : Bool} {data : List Byte} {x : Strip}
    (hi : ∀ i ∈ s.red.rebuild, i.entry.stripe ≠ id) (hx : s.strip id slot = some x) :
    ∃ y, (s.takeRebuildData member id slot status off last erased data).strip id slot = some y ∧
      y.bytes = x.bytes.take off ++ data ++ x.bytes.drop (off + data.length) := by
  have hnone : s.red.rebuild.find? (fun i => i.entry.stripe = id && i.started &&
      i.sources.any (fun r => r.1 = slot && !r.2.2.2) && (i.entry.members[slot]?).getD 0xFF = member) = none := by
    rw [List.find?_eq_none]
    intro i h
    simp [hi i h]
  unfold takeRebuildData
  rw [hnone, hx]
  dsimp -zeta only
  extract_lets w l start good x' s1 u s2
  split
  · exact ⟨_, strip_setStrip hx rfl rfl rfl, rfl⟩
  · split
    · exact ⟨x', strip_setStrip hx rfl rfl rfl, rfl⟩
    · split
      · refine ⟨x', ?_, rfl⟩
        rw [strip_reallocate]
        exact strip_setStrip hx rfl rfl rfl
      · exact ⟨x', strip_setStrip hx rfl rfl rfl, rfl⟩

end State
namespace State

variable {s t u : State} {id : Nat}

/-! ## Source bytes that arrive (R366) -/

/-- The items of a rebuild queue of every stripe but one are still in it. -/
def KeepsItems (id : Nat) (s t : State) : Prop :=
  ∀ x ∈ s.red.rebuild, x.entry.stripe ≠ id → x ∈ t.red.rebuild

theorem KeepsItems.refl (s : State) : KeepsItems id s s := fun _ h _ => h

theorem KeepsItems.trans (h : KeepsItems id s t) (h' : KeepsItems id t u) : KeepsItems id s u :=
  fun x hx hn => h' x (h x hx hn) hn

theorem KeepsItems.of_eq (h : t.red.rebuild = s.red.rebuild) : KeepsItems id s t := fun _ hx _ => h ▸ hx

theorem KeepsItems.of_only {L : List Part} (h : Only L s t) (hL : Part.red ∉ L) : KeepsItems id s t :=
  .of_eq (congrArg RedSt.rebuild (h .red hL))

theorem KeepsItems.foldl {β : Type} {f : State → β → State} (hf : ∀ s x, KeepsItems id s (f s x)) (l : List β) (s : State) :
    KeepsItems id s (l.foldl f s) := by
  induction l generalizing s with
  | nil => exact .refl s
  | cons x l ih => exact (hf s x).trans (ih _)

theorem setItem_keepsItems (s : State) (i : RebuildItem) (hi : i.entry.stripe = id) : KeepsItems id s (s.setItem i) := by
  intro x hx hn
  refine List.mem_map.mpr ⟨x, hx, if_neg ?_⟩
  simp [hi, hn]

theorem sendSeq_keepsItems (s : State) (d ty : Nat) (l : List Byte) (o : Option Src) : KeepsItems id s (s.sendSeq d ty l o) :=
  .of_only (sendSeq_only (L := [.out, .grp]) (by decide) (Only.refl s)) (by decide)

theorem sendOp_keepsItems (s : State) (dst type op slot gen status n : Nat) :
    KeepsItems id s (s.sendOp dst type op slot gen status n) := by
  unfold sendOp
  exact sendSeq_keepsItems _ _ _ _ _

theorem dropStrips_keepsItems (s : State) (p : Strip → Bool) : KeepsItems id s (s.dropStrips p) := .of_eq rfl

theorem readSources_keepsItems (s : State) (i : RebuildItem) (n : Nat) (hi : i.entry.stripe = id) :
    KeepsItems id s (s.readSources i n) := by
  unfold readSources
  refine KeepsItems.foldl (fun s j => ?_) _ s
  extract_lets m
  split
  · exact .refl s
  · next x hx =>
    have hx : x.entry.stripe = id := by
      have := List.find?_some hx
      simp only [Bool.and_eq_true, decide_eq_true_eq] at this
      exact this.1.trans hi
    split
    · split <;> exact setItem_keepsItems s _ hx
    · exact (setItem_keepsItems s { x with sources := x.sources ++ [(j, [], [], false)] } hx).trans
        (sendSeq_keepsItems _ _ _ _ _)

theorem bytesLost_keepsItems (s : State) (stripe slot : Nat) (lost : List Nat) : KeepsItems id s (s.bytesLost stripe slot lost) := by
  unfold bytesLost
  extract_lets s1 bad
  have h1 : KeepsItems id s s1 := .of_eq (by rw [show s1.red = s.red from raiseFor_red ..])
  exact h1.trans (.of_only (loseUnits_only (L := [.out, .host, .obj, .life, .trc, .regs 0, .regs 4, .regs 49])
    (fun _ h => h) (Only.refl s1)) (by decide))

theorem rebuildProgress_keepsItems (s : State) : KeepsItems id s s.rebuildProgress := by
  unfold rebuildProgress
  extract_lets left pct
  split
  · exact .of_eq (by rw [State.raise, raiseFor_red]; rfl)
  · exact .refl s

theorem writeStrip_keepsItems (s : State) (x : Strip) (k : Nat) : KeepsItems id s (s.writeStrip x k) := by
  unfold writeStrip
  extract_lets recs
  split
  next s1 ids he =>
  have h1 : KeepsItems id s s1 := by
    have := addUnits_only (L := [.obj]) (x2 := recs) (by decide) (Only.refl s)
    rw [he] at this
    exact .of_only this (by decide)
  refine h1.trans ?_
  extract_lets s2
  have h2 : KeepsItems id s1 s2 := .of_eq rfl
  refine h2.trans ?_
  split
  · exact .of_eq rfl
  · exact .of_only (closeSet_only (L := [.obj, .tape, .mot, .regs 16, .regs 32]) (by decide) (tapeTake_only (fun _ h => h)
      (closeSet_only (by decide) (Only.refl s2)))) (by decide)

theorem takeStrip_keepsItems (s : State) (owner stripe gen slot offset : Nat) (last : Bool) (data : List Byte) :
    KeepsItems id s (s.takeStrip owner stripe gen slot offset last data) := by
  unfold takeStrip
  extract_lets s1 r s2 
  have h1 : KeepsItems id s s1 := by
    unfold s1
    split <;> exact .of_eq rfl
  have h2 : KeepsItems id s1 s2 := by
    unfold s2
    split <;> exact .of_eq rfl
  refine h1.trans (h2.trans ?_)
  split
  · exact .refl _
  · split
    · exact .refl _
    · extract_lets x s3
      have h3 : KeepsItems id s2 s3 := .of_eq rfl
      refine h3.trans ?_
      split
      · exact .refl _
      · split
        · exact (dropStrips_keepsItems s3 _).trans (sendOp_keepsItems _ _ _ _ _ _ _ _)
        · exact writeStrip_keepsItems _ _ _

theorem rebuildTarget_keepsItems (s : State) (i : RebuildItem) (hi : i.entry.stripe = id) :
    KeepsItems id s (s.rebuildTarget i) := by
  unfold rebuildTarget
  extract_lets e src n
  split
  next l lost he =>
  split
  · exact readSources_keepsItems s i 1 hi
  · extract_lets gone s1 whole s2 r s3 s4
    have h1 : KeepsItems id s s1 := by
      unfold s1
      split
      · exact bytesLost_keepsItems _ _ _ _
      · exact .refl s
    have h2 : KeepsItems id s1 s2 := by
      refine KeepsItems.foldl (fun s r => KeepsItems.foldl (fun s q => ?_) _ s) _ s1
      dsimp only
      split
      · exact .refl s
      · exact KeepsItems.foldl (fun s i => sendSeq_keepsItems s _ _ _ _) _ s
    have h3 : KeepsItems id s2 s3 := .of_eq rfl
    have h4 : KeepsItems id s3 s4 := rebuildProgress_keepsItems s3
    exact h1.trans (h2.trans (h3.trans (h4.trans (takeStrip_keepsItems _ _ _ _ _ _ _ _))))

/-- While every rebuild record here is sent, an item with a source that is not complete outlives the rebuild's next step. -/
theorem stepRebuild_keepsOpen {y : RebuildItem} (hsent : ∀ x ∈ s.red.stripes, x.jrec.kind = 1 → x.sent = true)
    (hy : y ∈ s.red.rebuild) (hopen : y.sources.all (fun r => r.2.2.2) = false)
    (hone : ∀ x ∈ s.red.rebuild, x.entry.stripe = y.entry.stripe → x = y) : y ∈ s.stepRebuild.red.rebuild := by
  unfold stepRebuild
  split
  · exact hy
  · next x hx =>
    have hx1 : x.sent = true := hsent x (List.mem_of_find?_eq_some hx) (by simpa using List.find?_some hx)
    split
    · exact hy
    · next i hi =>
      rw [hx1]
      split
      · exact hy
      · split
        · next h => exact absurd h (by decide)
        · split
          · next h =>
            refine rebuildTarget_keepsItems s i rfl y hy fun he => ?_
            rw [hone i (List.mem_of_find?_eq_some hi) he.symm, hopen] at h
            exact absurd h (by simp)
          · exact hy

end State

/-- The item whose source of a slot has taken further bytes. -/
def RebuildItem.grown (i : RebuildItem) (slot : Nat) (data : List Byte) : RebuildItem :=
  { i with sources := i.sources.map (fun r => if r.1 = slot then (r.1, r.2.1 ++ data, r.2.2.1, false) else r) }

namespace State

variable {s : State} {id : Nat}

theorem takeRebuildData_source {member slot off : Nat} {data got : List Byte} {gone : List (Nat × Nat)} {i : RebuildItem}
    (hi : i ∈ s.red.rebuild) (hid : i.entry.stripe = id) (hst : i.started = true) (hsrc : (slot, got, gone, false) ∈ i.sources)
    (hmem : (i.entry.members[slot]?).getD 0xFF = member) (hone : ∀ x ∈ s.red.rebuild, x.entry.stripe = id → x = i)
    (hsent : ∀ x ∈ s.red.stripes, x.jrec.kind = 1 → x.sent = true) :
    i.grown slot data ∈ (s.takeRebuildData member id slot 0 off false false data).red.rebuild := by
  have hgrown : (slot, got ++ data, gone, false) ∈ (i.grown slot data).sources :=
    List.mem_map.mpr ⟨_, hsrc, if_pos rfl⟩
  have hfound : ∃ x, s.red.rebuild.find? (fun i => i.entry.stripe = id && i.started &&
      i.sources.any (fun r => r.1 = slot && !r.2.2.2) && (i.entry.members[slot]?).getD 0xFF = member) = some x := by
    refine Option.isSome_iff_exists.mp (List.find?_isSome.mpr ⟨i, hi, ?_⟩)
    simp only [hid, hst, hmem, decide_true, Bool.true_and, Bool.and_true, List.any_eq_true]
    exact ⟨_, hsrc, by simp⟩
  obtain ⟨x, hx⟩ := hfound
  obtain rfl : x = i := hone x (List.mem_of_find?_eq_some hx) (by
    have := List.find?_some hx
    simp only [Bool.and_eq_true, decide_eq_true_eq] at this
    exact this.1.1.1)
  unfold takeRebuildData
  rw [hx]
  change x.grown slot data ∈ (s.setItem (x.grown slot data)).stepRebuild.red.rebuild
  refine stepRebuild_keepsOpen hsent ?_ ?_ ?_
  · exact List.mem_map.mpr ⟨x, hi, if_pos (by simp [RebuildItem.grown])⟩
  · rw [List.all_eq_false]
    exact ⟨_, hgrown, by simp⟩
  · intro z hz he
    obtain ⟨w, hw, rfl⟩ := List.mem_map.mp hz
    have hws : w.entry.stripe = id := by
      by_contra hn
      rw [if_neg (by simp [RebuildItem.grown, hid, hn])] at he
      exact hn (he.trans hid)
    rw [hone w hw hws]
    exact if_pos (by simp [RebuildItem.grown])

end State

/-! ## REBUILD packets -/

namespace State

theorem counted_listing (s : State) (e : Env) (vc row : Nat) : (s.counted e vc).listing row = s.listing row := rfl

theorem counted_stripRange (s : State) (e : Env) (vc : Nat) (x : Strip) (off n : Nat) :
    (s.counted e vc).stripRange x off n = s.stripRange x off n := rfl

theorem counted_ownsLost (s : State) (e : Env) (vc : Nat) (d : DirEntry) (j : Nat) :
    (s.counted e vc).ownsLost d j = s.ownsLost d j := rfl

/-- A strip that can be read is answered with the bytes asked for. -/
theorem answerRead_strip (u : State) (dst id slot gen : Nat) {off n : Nat} {x : Strip} (hin : off + n ≤ x.bytes.length)
    (h0 : 0 < n) (hn : n ≤ 4064) (hgood : (u.stripRange x off n).2 = false) :
    Awaits (u.answerRead dst 8 4 id slot gen off (some (u.stripRange x off n))) dst 8
      (stripHead 4 slot gen 0 id off n 0 true false ++ (x.bytes.drop off).take n) := by
  have hlen : ((x.bytes.drop off).take n).length = n := by rw [List.length_take, List.length_drop]; omega
  have hr : u.stripRange x off n = ((x.bytes.drop off).take n, false) := Prod.ext rfl hgood
  have h := answerRead_one u dst 8 4 id slot gen off (l := (x.bytes.drop off).take n) (by rw [hlen]; exact h0) (by rw [hlen]; exact hn)
  rw [hlen] at h
  rw [hr]
  exact h

end State

/-- Settles O41: a REBUILD packet in its turn is taken up by `takeRebuild`, whose four operations answer with one packet,
queue what this device owns, or join bytes to a source or a strip. -/
theorem rebuildPackets : Obligations.RebuildPackets := by
  unfold Obligations.RebuildPackets
  rintro s e h data id slot off n rfl rfl rfl rfl ht
  refine ⟨fun hl => ?_, ?_, fun x hx hin h0 hn hgood => ?_, fun hx => ?_, ?_, fun hi x hx => ?_⟩
  · have ht1 : Taken (.rebuildList e h) e 2 s _ := State.rebuild_taken (op := 1) (data := []) (by decide) ht rfl
    obtain ⟨y, hy, hd, hty, hp⟩ := State.answerList_awaits (s.counted e 2) e.src.toNat h.id.toNat hl
    exact ⟨_, y, ht1, hy, hd, hty, hp⟩
  · have ht2 : Taken (.rebuildListData e h data) e 2 s _ := State.rebuild_taken (op := 2) (by decide) ht rfl
    exact ⟨_, ht2, fun i d hi hd hk j hj ho =>
      State.takeList_queued (s.counted e 2) _ h.last data hi hd hk hj ((s.counted_ownsLost e 2 d j).trans ho)⟩
  · have ht3 : Taken (.rebuildRead e h) e 2 s _ := State.rebuild_taken (op := 3) (data := []) (by decide) ht rfl
    obtain ⟨y, hy, hd, hty, hp⟩ := State.answerRead_strip (s.counted e 2) e.src.toNat h.id.toNat h.slot.toNat h.gen.toNat
      hin h0 hn hgood
    refine ⟨_, y, ht3, ?_, hd, hty, hp⟩
    rw [State.takeRebuild]
    change y ∈ Store.get [] (State.answerRead (s.counted e 2) e.src.toNat 8 4 h.id.toNat h.slot.toNat h.gen.toNat h.offset.toNat
      ((s.strip h.id.toNat h.slot.toNat).map _)).grp.unacked _
    rw [hx]
    exact hy
  · have ht3 : Taken (.rebuildRead e h) e 2 s _ := State.rebuild_taken (op := 3) (data := []) (by decide) ht rfl
    obtain ⟨y, hy, hd, hty, hp⟩ := State.answerRead_none (s.counted e 2) e.src.toNat 8 4 h.id.toNat h.slot.toNat h.gen.toNat
      h.offset.toNat
    refine ⟨_, y, ht3, ?_, hd, hty, hp⟩
    rw [State.takeRebuild]
    change y ∈ Store.get [] (State.answerRead (s.counted e 2) e.src.toNat 8 4 h.id.toNat h.slot.toNat h.gen.toNat h.offset.toNat
      ((s.strip h.id.toNat h.slot.toNat).map _)).grp.unacked _
    rw [hx]
    exact hy
  · intro hlast hstatus herased i got gone hi hid hst hsrc hmem hone hsent
    have ht4 : Taken (.rebuildData e h data) e 2 s _ := State.rebuild_taken (op := 4) (by decide) ht rfl
    refine ⟨_, ht4, i.grown h.slot.toNat data, ?_, rfl, rfl, List.mem_map.mpr ⟨_, hsrc, if_pos rfl⟩⟩
    have hkept := State.takeRebuildData_source (s := s.counted e 2) (off := h.offset.toNat) (data := data) hi hid hst hsrc
      hmem hone hsent
    rw [State.takeRebuild]
    simp only [StripHdr.head, hlast, hstatus, herased]
    exact hkept
  · have ht4 : Taken (.rebuildData e h data) e 2 s _ := State.rebuild_taken (op := 4) (by decide) ht rfl
    obtain ⟨y, hy, hb⟩ := State.takeRebuildData_held (s := s.counted e 2) (member := e.src.toNat) (off := h.offset.toNat)
      (status := h.status.toNat) (last := h.last) (erased := h.erased) (data := data) hi hx
    exact ⟨_, y, ht4, hy, hb⟩

end Sys2Proof.Machine

namespace Sys2Proof.Machine

/-! ## A lost sample whose event finds no place in the FIFO (R72, R294, R301)

The sample that brings the loss may also end the recording of the trace unit, whose event 0x508 is raised first. Where the
FIFO has one place besides the overflow item's, 0x508 takes it, and instead of 0x501 the overflow item is enqueued. -/

/-- A D-mode device whose microactuator slot 1 has lost two samples in a row; the event FIFO has room for one event and the
overflow item, and the trace unit is TRIGGERED with no channel enabled, so that the next sample ends its recording. -/
def onePlace : State :=
  let s := (((State.reset.wr F.GLB_CONFIG_MODE 2).wri F.CTL_SLOT_CFG_ROLE 1 2).wri F.CTL_SLOT_CFG_EN 1 1).wri
    F.CTL_SLOT_STATUS_COUNT 1 2
  let s := s.wr F.TRC_STATUS_STATE 2
  { s with host := { s.host with
    evtFifo := List.replicate 4094 { type := 1, source := 0, code := 2, seq := 1, arg := 0 } } }

/-- Type and code of the events that wait in a state's FIFO, the oldest first. -/
def State.events (s : State) : List (Nat × Nat) := s.host.evtFifo.map (fun e => (e.type, e.code))

/-- Type and code of the events that wait after a command. -/
def eventsAfter : Host.Outcome State Fault Refusal → List (Nat × Nat)
  | .next t => t.events
  | _ => []

/-- The state meets every hypothesis under which the obligation promises event 0x501. -/
theorem onePlace_loses : onePlace.rdi F.CTL_SLOT_STATUS_COUNT 1 = 2 ∧
    countsRole (onePlace.rdi F.CTL_SLOT_CFG_ROLE 1) = true ∧ onePlace.slotOn 1 = true ∧
    (onePlace.slotOf 1).last = none ∧ (onePlace.act (1 / 2)).reload ≠ 2 ∧ onePlace.host.evtFifo.length < 4095 := by
  decide +kernel

/-- The third lost sample leaves the trace unit's event and the overflow item behind those that waited. -/
theorem onePlace_overflows :
    (eventsAfter (exec (.loopLossAction 1#4 0#64) onePlace)).drop 4094 = [(7, 0x508), (15, 0)] := by decide +kernel

/-- Among those that waited is no loss. -/
theorem onePlace_waiting :
    ((eventsAfter (exec (.loopLossAction 1#4 0#64) onePlace)).take 4094).contains (7, 0x501) = false := by decide +kernel

/-- Refutes O60: the third lost sample in a row may end the recording of the trace unit as well. With 4,094 events waiting the
trace unit's 0x508 takes the last place, so that 0x501 is lost to the overflow item although the FIFO had room before. -/
theorem not_speedwell : ¬ Obligations.Speedwell := by
  unfold Obligations.Speedwell
  intro h
  obtain ⟨hslots, -⟩ := h onePlace
  obtain ⟨-, -, -, hloss, -⟩ := hslots 1#4 0#64 1 _ rfl rfl
  obtain ⟨hcount, hrole, hon, hlast, hreload, hroom⟩ := onePlace_loses
  obtain ⟨t, ht, -, -, -, hevt⟩ := hloss hcount hrole hon (by simp [hlast]) hreload
  obtain ⟨e, he, htype, -, hcode⟩ := hevt hroom
  have hmem : (7, 0x501) ∈ t.events := List.mem_map.mpr ⟨e, he, by rw [htype, hcode]⟩
  have hafter : eventsAfter (exec (.loopLossAction 1#4 0#64) onePlace) = t.events := by
    rw [ht]
    rfl
  have hlate := onePlace_overflows
  have hearly := onePlace_waiting
  rw [hafter] at hlate hearly
  rw [← List.take_append_drop 4094 t.events, hlate, List.mem_append] at hmem
  obtain hmem | hmem := hmem
  · rw [← List.contains_iff_mem, hearly] at hmem
    exact absurd hmem (by decide)
  · exact absurd hmem (by decide)

end Sys2Proof.Machine

namespace Sys2Proof.Machine

/-! ## Sequenced commands: the check of SEQ (R36, R104) -/

theorem seqCompare_replay {e : SeqEntry} {seq : Nat} (hk : e.unknown = false) (h : seq = e.lastSeq) :
    seqCompare e seq = .replay := by
  have hd : (seq + 2 ^ 32 - e.lastSeq) % 2 ^ 32 = 0 := by omega
  simp only [seqCompare, hd, hk]
  rfl

theorem seqCompare_gap {e : SeqEntry} {seq : Nat} (hl : e.lastSeq < 2 ^ 32) (hk : e.unknown = false)
    (h : seq = (e.lastSeq + 2) % 2 ^ 32) : seqCompare e seq = .gap := by
  have hd : (seq + 2 ^ 32 - e.lastSeq) % 2 ^ 32 = 2 := by omega
  simp only [seqCompare, hd, hk]
  rfl

theorem seqCompare_next {e : SeqEntry} {seq : Nat} (hl : e.lastSeq < 2 ^ 32) (h : seq = (e.lastSeq + 1) % 2 ^ 32) :
    seqCompare e seq = .next := by
  have hd : (seq + 2 ^ 32 - e.lastSeq) % 2 ^ 32 = 1 := by omega
  simp only [seqCompare, hd]
  rw [if_pos (by simp)]

/-! ## The DMA reads that a command's start issues (R61) -/

/-- Every command with the uid of `c` is `c` up to the bytes asked for, and there is one. -/
def State.Holds (s : State) (c : Cmd) : Prop :=
  (∃ d ∈ s.sq.cmds, d.uid = c.uid) ∧ ∀ d ∈ s.sq.cmds, d.uid = c.uid → ∃ n, d = { c with asked := n }

namespace State

variable {s : State} {src : Src} {c : Cmd}

theorem Holds.mem (h : s.Holds c) : ∃ n, { c with asked := n } ∈ s.sq.cmds := by
  obtain ⟨⟨d, hd, hu⟩, hall⟩ := h
  obtain ⟨n, rfl⟩ := hall d hd hu
  exact ⟨n, hd⟩

theorem holds_setCmd {d : Cmd} (hc : c ∈ s.sq.cmds) (hu : d.uid = c.uid) : (s.setCmd d).Holds d := by
  refine ⟨⟨d, List.mem_map.mpr ⟨c, hc, if_pos hu.symm⟩, rfl⟩, fun x hx hxu => ⟨d.asked, ?_⟩⟩
  obtain ⟨y, -, rfl⟩ := List.mem_map.mp hx
  by_cases hy : y.uid = d.uid
  · exact if_pos hy
  · exact absurd (by simpa only [if_neg hy] using hxu) hy

/-- Reads of a held command asked for leave what is known of another one. -/
theorem Holds.setCmd_asked {d : Cmd} (h : s.Holds c) (hd : d ∈ s.sq.cmds) (n : Nat) :
    (s.setCmd { d with asked := n }).Holds c := by
  obtain ⟨⟨x, hx, hxu⟩, hall⟩ := h
  constructor
  · refine ⟨_, List.mem_map.mpr ⟨x, hx, rfl⟩, ?_⟩
    split
    · next hxd => exact hxd.symm.trans hxu
    · exact hxu
  · intro y hy hyu
    obtain ⟨z, hz, rfl⟩ := List.mem_map.mp hy
    by_cases hzd : z.uid = d.uid
    · rw [if_pos hzd] at hyu ⊢
      obtain ⟨m, rfl⟩ := hall d hd hyu
      exact ⟨n, rfl⟩
    · rw [if_neg hzd] at hyu ⊢
      exact hall z hz hyu

/-- What asking for reads can do: it tells of reads, and one command's count of bytes asked for goes up. -/
structure Asks (s : State) (d : Cmd) (t : State) : Prop where
  regs : t.regs = s.regs
  obj : t.obj = s.obj
  sq : t.sq = s.sq ∨ ∃ n, t.sq = (s.setCmd { d with asked := n }).sq

theorem askWhole_asks (s : State) (d : Cmd) (addr len : Nat) : Asks s d (s.askWhole d addr len) := by
  unfold askWhole
  split
  · exact ⟨rfl, rfl, .inr ⟨_, rfl⟩⟩
  · exact ⟨rfl, rfl, .inl rfl⟩

theorem foldl_emit (l : List (Nat × Nat)) (o : Nat × Nat → Output) (s : State) :
    ∃ out, l.foldl (fun s r => s.emit (o r)) s = { s with out := out } := by
  induction l generalizing s with
  | nil => exact ⟨_, rfl⟩
  | cons r l ih => exact ih (s.emit (o r))

theorem askData_asks (s : State) (d : Cmd) : Asks s d (s.askData d) := by
  unfold askData
  split
  · split
    · exact askWhole_asks ..
    · exact ⟨rfl, rfl, .inl rfl⟩
  · exact askWhole_asks ..
  · split
    · extract_lets n rs t
      obtain ⟨out, hout⟩ : ∃ out, t = { s with out := out } := foldl_emit ..
      rw [hout]
      split
      · exact ⟨rfl, rfl, .inl rfl⟩
      · exact ⟨rfl, rfl, .inr ⟨_, rfl⟩⟩
    · exact ⟨rfl, rfl, .inl rfl⟩
  · exact ⟨rfl, rfl, .inl rfl⟩

theorem Asks.holds {d : Cmd} {t : State} (h : Asks s d t) (hd : d ∈ s.sq.cmds) (hc : s.Holds c) : t.Holds c := by
  obtain ⟨-, -, h | ⟨n, h⟩⟩ := h
  · unfold Holds
    rwa [h]
  · have hn := hc.setCmd_asked hd n
    unfold Holds at hn ⊢
    rwa [h]

/-- The reads of all commands asked for: registers and objects are as they were, and a command held is held on. -/
theorem askAll_spec (h : s.Holds c) : s.askAll.regs = s.regs ∧ s.askAll.obj = s.obj ∧ s.askAll.Holds c := by
  unfold askAll
  generalize s.sq.cmds = l
  induction l generalizing s with
  | nil => exact ⟨rfl, rfl, h⟩
  | cons x l ih =>
    rw [List.foldl_cons]
    split
    · next d hd =>
      have ha := s.askData_asks d
      obtain ⟨hr, ho, hh⟩ := ih (ha.holds (List.mem_of_find?_eq_some hd) h)
      exact ⟨hr.trans ha.regs, ho.trans ha.obj, hh⟩
    · exact ih h

/-- A command that carries data is started with its frame and nonce; registers and objects are as they were. -/
theorem startData_spec {d : Cmd} (hc : c ∈ s.sq.cmds) (hu : d.uid = c.uid) :
    (s.startData d).regs = s.regs ∧ (s.startData d).obj = s.obj ∧
      ∃ x ∈ (s.startData d).sq.cmds, x.uid = d.uid ∧ x.src = d.src ∧ x.stage = .started ∧ x.frame = d.frame ∧
        x.nonce = d.nonce := by
  have h := s.holds_setCmd (d := { d with stage := .started, waits := 0 }) hc hu
  obtain ⟨hr, ho, hh⟩ := askAll_spec h
  obtain ⟨n, hn⟩ := hh.mem
  exact ⟨hr, ho, _, hn, rfl, rfl, rfl, rfl, rfl⟩

/-! ## OPEN, APPEND, SEAL and DELETE up to their start (R104 to R114) -/

/-- The first nonce left has been drawn (R147). -/
def nonceDrawn (s : State) : State := s.drawNonce.1

theorem apply_open (hb : s.barred c = false) (ho : c.frame.opcode = 1) (hg : s.inGroup = false) (delta : Bool) :
    s.apply c delta = if delta then s.nonceDrawn.startDelta { c with nonce := s.obj.nonce }
      else s.nonceDrawn.startData { c with nonce := s.obj.nonce } := by
  simp [apply, takeNonce, hb, ho, hg, nonceDrawn, drawNonce]

theorem apply_other (hb : s.barred c = false) (ho : c.frame.opcode ≠ 1) (delta : Bool) :
    s.apply c delta = if delta then s.startDelta c else s.startData c := by
  simp [apply, takeNonce, hb, ho]

theorem unknownKey_solo (hg : s.inGroup = false) (key : Nat) : s.unknownKey key = false := by simp [unknownKey, hg]

theorem find_key_none {α : Type} {l : Store α} {key : Nat} (h : ∀ p ∈ l, p.1 ≠ key) :
    l.find? (fun p => p.1 = key) = none := List.find?_eq_none.mpr fun p hp => by simpa using h p hp

theorem deleting_any_false {key : Nat} (h : ∀ d ∈ s.obj.deleting, d.key ≠ key) :
    s.obj.deleting.any (fun d => d.key = key) = false := List.any_eq_false.mpr fun d hd => by simpa using h d hd

variable {e : SeqEntry}

theorem openGo_apply (he : e.state ≠ 1) (hg : s.inGroup = false) (hd : ∀ d ∈ s.obj.deleting, d.key ≠ c.frame.key)
    (hf : ∀ p ∈ s.obj.objs, p.1 ≠ c.frame.key) (hk : s.keyBlocked c (bits c.frame.offset 0 8) none = none)
    (hw : s.writeBlocked c false = none) : s.openGo c e = s.apply c (c.frame.length = 0) := by
  simp only [openGo, if_neg he, unknownKey_solo hg, deleting_any_false hd, find_key_none hf, hk, hw, Bool.false_eq_true,
    if_false]

section
variable {key : Nat} {o : Obj} (he : e.state = 1) (hb : s.boundObj c.src.stream = some (key, o))
include he hb

theorem appendGo_wrongKey (h : c.frame.key ≠ key) : s.appendGo c e = s.fail c stWrongKey := by simp [appendGo, he, hb, h]

theorem appendGo_badOffset (h : c.frame.key = key) (hoff : c.frame.offset ≠ o.length) :
    s.appendGo c e = s.fail c stBadOffset := by
  simp [appendGo, he, hb, h, hoff]

theorem appendGo_apply (h : c.frame.key = key) (hoff : c.frame.offset = o.length)
    (hlen : o.length + c.frame.length < 2 ^ 52) (hk : s.keyBlocked c o.kslot (some o.keyId) = none)
    (hw : s.writeBlocked c false = none) : s.appendGo c e = s.apply c false := by
  have hlen' : ¬ 2 ^ 52 ≤ o.length + c.frame.length := by omega
  simp only [appendGo, he, hb, h, hoff, hk, hw, if_neg hlen', bne_self_eq_false, Bool.false_eq_true, if_false]

theorem sealGo_mismatch (h : c.frame.key = key) (hw : s.writeBlocked c true = none) (hf : bitAt c.frame.flags 0 = true)
    (hoff : c.frame.offset ≠ o.crcRun) : s.sealGo c e = s.fail c stCrcMismatch := by
  simp [sealGo, he, hb, h, hw, hf, hoff]

theorem sealGo_apply (h : c.frame.key = key) (hw : s.writeBlocked c true = none)
    (hm : bitAt c.frame.flags 0 = false ∨ c.frame.offset = o.crcRun) : s.sealGo c e = s.apply c true := by
  have hc : (bitAt c.frame.flags 0 && c.frame.offset != o.crcRun) = false := by
    obtain hm | hm := hm <;> simp [hm]
  simp only [sealGo, he, hb, h, hw, hc, bne_self_eq_false, Bool.false_eq_true, if_false]

end

section
variable {op : Nat} (go : State → Cmd → SeqEntry → State) (ha : s.admittedCmd src op = some c)
include ha

theorem sequenced_replay (h : seqCompare (s.entry src.stream) c.frame.seq = .replay) :
    s.sequenced src op go = s.finishWith c stSuccess 0 0 true := by simp only [sequenced, ha, h]

theorem sequenced_gap (h : seqCompare (s.entry src.stream) c.frame.seq = .gap) :
    s.sequenced src op go = s.fail c stSeqGap := by simp only [sequenced, ha, h]

theorem sequenced_next (h : seqCompare (s.entry src.stream) c.frame.seq = .next) :
    s.sequenced src op go = go s c (s.entry src.stream) := by simp only [sequenced, ha, h]

end

end State

/-- OPEN, APPEND and SEAL share the check of SEQ. -/
theorem exec_sequenced {s : State} {src : Src} {op : Nat} {i : Instr}
    (h : (op, i) ∈ [(1, Instr.openCmd src), (2, .appendCmd src), (3, .sealCmd src)]) :
    ∃ go, exec i s = .next (s.sequenced src op go) := by
  simp only [List.mem_cons, Prod.mk.injEq, List.not_mem_nil, or_false] at h
  obtain ⟨rfl, rfl⟩ | ⟨rfl, rfl⟩ | ⟨rfl, rfl⟩ := h
  · exact ⟨State.openGo, rfl⟩
  · exact ⟨State.appendGo, rfl⟩
  · exact ⟨State.sealGo, rfl⟩

section
variable {s : State} {src : Src} {c : Cmd}

theorem exec_openCmd_next (h : s.cmdOf src = some c) (ha : c.stage = .admitted) (ho : c.frame.opcode = 1)
    (hn : seqCompare (s.entry src.stream) c.frame.seq = .next) :
    exec (.openCmd src) s = .next (s.openGo c (s.entry src.stream)) :=
  congrArg Host.Outcome.next (State.sequenced_next _ (State.admittedCmd_of h ha ho) hn)

theorem exec_appendCmd_next (h : s.cmdOf src = some c) (ha : c.stage = .admitted) (ho : c.frame.opcode = 2)
    (hn : seqCompare (s.entry src.stream) c.frame.seq = .next) :
    exec (.appendCmd src) s = .next (s.appendGo c (s.entry src.stream)) :=
  congrArg Host.Outcome.next (State.sequenced_next _ (State.admittedCmd_of h ha ho) hn)

theorem exec_sealCmd_next (h : s.cmdOf src = some c) (ha : c.stage = .admitted) (ho : c.frame.opcode = 3)
    (hn : seqCompare (s.entry src.stream) c.frame.seq = .next) :
    exec (.sealCmd src) s = .next (s.sealGo c (s.entry src.stream)) :=
  congrArg Host.Outcome.next (State.sequenced_next _ (State.admittedCmd_of h ha ho) hn)

/-- A command that its row ends: it has completed, and the map is as it was. -/
theorem ends_of_exec {i : Instr} {st re au : Nat} {rp : Bool} (h : exec i s = .next (s.finishWith c st re au rp))
    (hr : RoomFor c s) : ∃ t, exec i s = .next t ∧ Completed c st re au rp s t ∧ t.obj = s.obj :=
  ⟨_, h, s.finishWith_completed c st re au rp hr, s.finishWith_obj c st re au rp⟩

/-! DELETE in solo, with no other DELETE of the key under way. -/

variable (h : s.cmdOf src = some c) (ha : c.stage = .admitted) (ho : c.frame.opcode = 0x12) (hg : s.inGroup = false)
  (hd : ∀ d ∈ s.obj.deleting, d.key ≠ c.frame.key)
include h ha ho hg hd

theorem exec_deleteCmd_absent (hf : ∀ p ∈ s.obj.objs, p.1 ≠ c.frame.key) :
    exec (.deleteCmd src) s = .next (s.finish c stSuccess 0 0) := by
  change execDeleteCmd src s = _
  simp only [execDeleteCmd, State.admittedCmd_of h ha ho, State.unknownKey_solo hg, State.deleting_any_false hd,
    State.find_key_none hf, Bool.false_eq_true, if_false]

variable {o : Obj} (hf : s.obj.objs.find? (fun p => p.1 = c.frame.key) = some (c.frame.key, o))
include hf

theorem exec_deleteCmd_open (hst : o.state = 1) : exec (.deleteCmd src) s = .next (s.conflict c 0x06 2 1) := by
  change execDeleteCmd src s = _
  simp only [execDeleteCmd, State.admittedCmd_of h ha ho, State.unknownKey_solo hg, State.deleting_any_false hd, hf, hst,
    Bool.false_eq_true, if_false, if_true]

/-- The state in which a DELETE of the key has passed its commit point. -/
def State.deletes (s : State) (src : Src) (key : Nat) : State :=
  { s with obj := { s.obj with deleting := s.obj.deleting ++ [DelRec.mk key src s.sq.nextAdmit] } }

theorem exec_deleteCmd_begins (hst : o.state ≠ 1) (hw : s.writeBlocked c true = none) :
    exec (.deleteCmd src) s = .next ((s.deletes src c.frame.key).startDelta c) := by
  change execDeleteCmd src s = _
  simp only [execDeleteCmd, State.admittedCmd_of h ha ho, State.unknownKey_solo hg, State.deleting_any_false hd, hf,
    if_neg hst, hw, Bool.false_eq_true, if_false]
  rfl

end

/-- Settles O23: the check of SEQ ends a replay and a gap and lets the next command through to the checks of its row, which
end it or start it. -/
theorem streamCommandsBegin : Obligations.StreamCommandsBegin := by
  unfold Obligations.StreamCommandsBegin
  intro s src c hc ha _
  obtain rfl := State.cmdOf_src hc
  have hmem := State.cmdOf_mem hc
  refine ⟨fun hl => ⟨fun i hi hr hk => ?_, fun hb hseq => ?_⟩, fun ho hg hd => ?_⟩
  case refine_1 =>
    obtain ⟨go, hgo⟩ := exec_sequenced (s := s) hi
    have hadm := State.admittedCmd_of hc ha rfl
    exact ⟨fun hseq => ends_of_exec (hgo.trans (congrArg _ (State.sequenced_replay go hadm (seqCompare_replay hk hseq)))) hr,
      fun hseq => ends_of_exec (hgo.trans (congrArg _ (State.sequenced_gap go hadm (seqCompare_gap hl hk hseq)))) hr⟩
  case refine_2 =>
    have hn := seqCompare_next hl hseq
    refine ⟨fun ho he hg hd hf hk hw => ?_, fun o he hbo => ⟨fun ho hoff hlen hk hw => ?_, fun ho hoff hr => ?_,
      fun ho hw => ⟨fun hfl hoff hr => ?_, fun hm => ?_⟩⟩, fun o key he hbo ho hkey hr => ?_⟩
    · have hx := exec_openCmd_next hc ha ho hn
      rw [State.openGo_apply he hg hd hf hk hw, State.apply_open hb ho hg] at hx
      refine ⟨fun hlen => ?_, fun hlen => ?_⟩
      · rw [decide_eq_false hlen, if_neg Bool.false_ne_true] at hx
        obtain ⟨hregs, hobj, hstarted⟩ :=
          s.nonceDrawn.startData_spec (d := { c with nonce := s.obj.nonce }) hmem rfl
        exact ⟨_, hx, (congrArg ObjSt.objs hobj).trans rfl, (congrArg ObjSt.seqTab hobj).trans rfl,
          (congrArg ObjSt.nonce hobj).trans rfl, hregs, hstarted⟩
      · rw [decide_eq_true hlen, if_pos rfl] at hx
        exact ⟨_, hx, rfl, rfl, rfl, rfl⟩
    · have hx := exec_appendCmd_next hc ha ho hn
      rw [State.appendGo_apply he hbo rfl hoff hlen hk hw, State.apply_other hb (by omega), if_neg Bool.false_ne_true] at hx
      obtain ⟨hregs, hobj, d, hd, huid, hsrc, hstage, hframe, -⟩ := State.startData_spec (d := c) hmem rfl
      exact ⟨_, hx, hobj, hregs, d, hd, huid, hsrc, hstage, hframe⟩
    · exact ends_of_exec ((exec_appendCmd_next hc ha ho hn).trans (congrArg _ (State.appendGo_badOffset he hbo rfl hoff))) hr
    · exact ends_of_exec ((exec_sealCmd_next hc ha ho hn).trans (congrArg _ (State.sealGo_mismatch he hbo rfl hw hfl hoff))) hr
    · have hx := exec_sealCmd_next hc ha ho hn
      rwa [State.sealGo_apply he hbo rfl hw hm, State.apply_other hb (by omega), if_pos rfl] at hx
    · exact ends_of_exec ((exec_appendCmd_next hc ha ho hn).trans (congrArg _ (State.appendGo_wrongKey he hbo hkey))) hr
  case refine_3 =>
    refine ⟨fun hf hr => ends_of_exec (exec_deleteCmd_absent hc ha ho hg hd hf) hr, fun o hf =>
      ⟨fun hst hr => ends_of_exec (exec_deleteCmd_open hc ha ho hg hd hf hst) hr, fun hst hw => ?_⟩⟩
    exact ⟨_, exec_deleteCmd_begins hc ha ho hg hd hf hst hw, rfl, rfl, rfl, rfl⟩

end Sys2Proof.Machine

namespace Sys2Proof.Machine

/-! ## What a commit writes (R31, R35, R107 to R114) -/

/-- What has just been put under a key is what the key finds. -/
theorem Store.find?_ins {α : Type} (k : Nat) (v : α) (l : Store α) :
    (Store.ins k v l).find? (fun p => p.1 = k) = some (k, v) := by
  induction l with
  | nil => simp [Store.ins]
  | cons x l ih =>
    obtain ⟨a, w⟩ := x
    rw [Store.ins]
    split
    · simp
    · next hlt =>
      split
      · simp
      · next hne => rw [List.find?_cons, decide_eq_false (Ne.symm hne), ih]

/-- The map, the stream sequence table and the bindings are the same in both states. -/
structure SameMap (s t : State) : Prop where
  objs : t.obj.objs = s.obj.objs
  seqTab : t.obj.seqTab = s.obj.seqTab
  bound : t.obj.bound = s.obj.bound

namespace SameMap

variable {s t u : State}

theorem trans (h : SameMap s t) (h' : SameMap t u) : SameMap s u :=
  ⟨h'.objs.trans h.objs, h'.seqTab.trans h.seqTab, h'.bound.trans h.bound⟩

theorem of_obj (h : t.obj = s.obj) : SameMap s t := ⟨by rw [h], by rw [h], by rw [h]⟩

theorem foldl {β : Type} {f : State → β → State} (hf : ∀ s x, SameMap s (f s x)) (l : List β) (s : State) :
    SameMap s (l.foldl f s) := by
  induction l generalizing s with
  | nil => exact .of_obj rfl
  | cons x l ih => exact (hf s x).trans (ih (f s x))

end SameMap

namespace State

variable {s : State} {src : Src} {c : Cmd} {o : Obj}

theorem settleUnits_sameMap (hg : s.inGroup = false) : SameMap s (s.settleUnits c) := by
  unfold settleUnits
  split
  · exact .of_obj rfl
  · extract_lets _ s1
    have h1 : SameMap s s1 := ⟨rfl, rfl, rfl⟩
    have hg1 : s1.inGroup = false := hg
    refine h1.trans ?_
    clear_value s1
    split
    · exact .of_obj rfl
    · next l t _ =>
      rw [if_neg (by simp [hg1])]
      extract_lets s2 one
      have h2 : SameMap s1 s2 := SameMap.foldl (f := fun s u => s.setUnit u _) (fun _ _ => ⟨rfl, rfl, rfl⟩) _ _
      exact h2.trans (.of_obj rfl)

theorem commitCtx_sameMap : SameMap s (s.commitCtx c) := by
  unfold commitCtx
  split
  · exact ⟨rfl, rfl, rfl⟩
  · split
    · exact ⟨rfl, rfl, rfl⟩
    · exact .of_obj rfl

theorem keepDelta_sameMap : SameMap s (s.keepDelta c) := by
  unfold keepDelta
  split
  · exact ⟨rfl, rfl, rfl⟩
  · exact .of_obj rfl

theorem countAccepted_sameMap : SameMap s (s.countAccepted c) := .of_obj (lifeAdd_obj ..)

theorem finishWith_sameMap (status result aux : Nat) (rp : Bool) : SameMap s (s.finishWith c status result aux rp) :=
  .of_obj (s.finishWith_obj c status result aux rp)

theorem sweepGone_sameMap : SameMap s s.sweepGone := by
  unfold sweepGone
  extract_lets used free _ s1
  have h1 : SameMap s s1 := ⟨rfl, rfl, rfl⟩
  refine h1.trans (.foldl (fun u g => ?_) _ _)
  unfold freeUnits
  extract_lets mine u1
  have hu : SameMap u u1 := .of_obj (releaseLanding_only (L := partsOfEvent ++ [.disk, .regs 16]) (by decide) (Only.refl u)
    .obj (by decide))
  exact hu.trans ⟨rfl, rfl, rfl⟩

/-- What decides where completions go is the same in both states, and nothing that has left is taken back. -/
structure Undisturbed (s t : State) : Prop where
  rings : SameRings s t
  out : s.out <:+ t.out

namespace Undisturbed

variable {s t u : State}

theorem of_regs (hr : t.regs = s.regs) (hq : t.sq = s.sq) (ho : t.out = s.out) : Undisturbed s t :=
  ⟨.of_regs hr (by rw [hq]), by rw [ho]⟩

theorem of_only {L : List Part} (h : Only L s t) (hk : Keeps s t) (hL : ∀ p ∈ [.sq, .regs 4, .regs 8], p ∉ L) :
    Undisturbed s t :=
  ⟨.of_only h (hL _ (by simp)) (hL _ (by simp)) (hL _ (by simp)), hk.out⟩

theorem trans (h : Undisturbed s t) (h' : Undisturbed t u) : Undisturbed s u :=
  ⟨h.rings.trans h'.rings, h.out.trans h'.out⟩

theorem settleUnits (h : Undisturbed s t) : Undisturbed s (t.settleUnits c) :=
  h.trans (.of_only (settleUnits_only (L := [.out, .obj, .disk, .grp, .red, .regs 40]) (fun _ h => h) (Only.refl t))
    (settleUnits_keeps (.refl t)) (by decide))

theorem commitCtx (h : Undisturbed s t) : Undisturbed s (t.commitCtx c) :=
  h.trans (.of_only (commitCtx_only (L := [.obj]) (fun _ h => h) (Only.refl t)) (commitCtx_keeps (.refl t)) (by decide))

theorem keepDelta (h : Undisturbed s t) : Undisturbed s (t.keepDelta c) :=
  h.trans (.of_only (keepDelta_only (L := [.obj]) (fun _ h => h) (Only.refl t)) (keepDelta_keeps (.refl t)) (by decide))

theorem raise (h : Undisturbed s t) (a b c d : Nat) : Undisturbed s (t.raise a b c d) :=
  h.trans ⟨.raise t .., (raise_keeps (.refl t)).out⟩

theorem lifeStep (h : Undisturbed s t) (off old new : Nat) : Undisturbed s (t.lifeStep off old new) := by
  unfold State.lifeStep
  extract_lets thr t1 t2
  have h1 : Undisturbed s t1 := by
    unfold t1
    split
    · exact h.raise ..
    · exact h
  have h2 : Undisturbed s t2 := by
    unfold t2
    split
    · exact h1.raise ..
    · exact h1
  split
  · exact h2.raise ..
  · exact h2

theorem countAccepted (h : Undisturbed s t) : Undisturbed s (t.countAccepted c) := by
  unfold State.countAccepted lifeAdd
  refine lifeStep (h.trans ?_) _ _ _
  exact .of_regs rfl rfl rfl

/-- The end of a command in the later state is its end seen from the earlier one. -/
theorem completed (h : Undisturbed s t) (hr : RoomFor c s) (status result aux : Nat) :
    Completed c status result aux false s (t.finish c status result aux) :=
  Completed.since h.rings h.out (finishWith_completed _ c _ _ _ _ (hr.to h.rings rfl rfl))

end Undisturbed

/-! ## The commits of solo devices, case by case -/

/-- A commit writes the object under its key, the entry of the command's stream and its binding. -/
def written (s : State) (c : Cmd) (e : SeqEntry) (o : Obj) (bound : Nat) : State :=
  { s with obj := { s.obj with
    objs := Store.ins c.frame.key o s.obj.objs
    seqTab := Store.put SeqEntry.init s.obj.seqTab c.src.stream e
    bound := Store.put 0 s.obj.bound c.src.stream bound } }

/-- After a commit the key finds the object, and the stream has its new entry and binding. -/
structure Recorded (c : Cmd) (e : SeqEntry) (o : Obj) (bound : Nat) (t : State) : Prop where
  obj : t.obj.objs.find? (fun p => p.1 = c.frame.key) = some (c.frame.key, o)
  entry : t.entry c.src.stream = e
  bound : Store.get 0 t.obj.bound c.src.stream = bound

theorem Recorded.of_sameMap {e : SeqEntry} {bound : Nat} {t : State} (h : SameMap (s.written c e o bound) t) :
    Recorded c e o bound t where
  obj := by rw [h.objs]; exact Store.find?_ins ..
  entry := by rw [State.entry, h.seqTab]; exact Store.get_put_same ..
  bound := by rw [h.bound]; exact Store.get_put_same ..

theorem abandonPrev_solo (hg : s.inGroup = false) (st : Nat) : (s.abandonPrev st).inGroup = false := by
  unfold abandonPrev
  extract_lets key objs _ s1
  have hg1 : s1.inGroup = false := hg
  split
  · rw [if_neg (by simp [hg1])]
    exact hg1
  · exact hg

theorem commit_open (ho : c.frame.opcode = 1) (hf : s.obj.objs.find? (fun p => p.1 = c.frame.key) = none) :
    s.commit c = ((((((s.abandonPrev c.src.stream).written c (s.nextEntry c) (s.newObj c) c.frame.key).settleUnits c).commitCtx
      c).keepDelta c).countAccepted c).finish c stSuccess (s.nextEntry c).gen 0 := by
  simp only [commit, ho, hf, if_true]
  rfl

theorem commit_append (ho : c.frame.opcode = 2)
    (hf : s.obj.objs.find? (fun p => p.1 = c.frame.key) = some (c.frame.key, o)) :
    s.commit c = ((((s.written c (s.nextEntry c) (o.appended c) c.frame.key).settleUnits c).commitCtx c).countAccepted
      c).finish c stSuccess (o.length + c.frame.length) 0 := by
  have h1 : ¬ c.frame.opcode = 1 := by omega
  simp only [commit, if_neg h1, hf, if_pos ho]
  rfl

theorem commit_seal (ho : c.frame.opcode = 3)
    (hf : s.obj.objs.find? (fun p => p.1 = c.frame.key) = some (c.frame.key, o)) :
    s.commit c = ((((s.written c (s.nextEntry c) (o.sealed c) 0).settleUnits c).commitCtx c).keepDelta c).finish c
      stSuccess o.length o.crcRun := by
  have h1 : ¬ c.frame.opcode = 1 := by omega
  have h2 : ¬ c.frame.opcode = 2 := by omega
  simp only [commit, if_neg h1, hf, if_neg h2]
  rfl

theorem commit_open_recorded (hg : s.inGroup = false) (ho : c.frame.opcode = 1)
    (hf : s.obj.objs.find? (fun p => p.1 = c.frame.key) = none) :
    Recorded c (s.nextEntry c) (s.newObj c) c.frame.key (s.commit c) := by
  rw [commit_open ho hf]
  have hw : ((s.abandonPrev c.src.stream).written c (s.nextEntry c) (s.newObj c) c.frame.key).inGroup = false :=
    abandonPrev_solo hg _
  exact .of_sameMap (((((settleUnits_sameMap hw).trans commitCtx_sameMap).trans keepDelta_sameMap).trans
    countAccepted_sameMap).trans (finishWith_sameMap ..))

section
variable (hf : s.obj.objs.find? (fun p => p.1 = c.frame.key) = some (c.frame.key, o))
include hf

theorem commit_append_recorded (hg : s.inGroup = false) (ho : c.frame.opcode = 2) :
    Recorded c (s.nextEntry c) (o.appended c) c.frame.key (s.commit c) := by
  rw [commit_append ho hf]
  have hw : (s.written c (s.nextEntry c) (o.appended c) c.frame.key).inGroup = false := hg
  exact .of_sameMap ((((settleUnits_sameMap hw).trans commitCtx_sameMap).trans countAccepted_sameMap).trans
    (finishWith_sameMap ..))

theorem commit_seal_recorded (hg : s.inGroup = false) (ho : c.frame.opcode = 3) :
    Recorded c (s.nextEntry c) (o.sealed c) 0 (s.commit c) := by
  rw [commit_seal ho hf]
  have hw : (s.written c (s.nextEntry c) (o.sealed c) 0).inGroup = false := hg
  exact .of_sameMap ((((settleUnits_sameMap hw).trans commitCtx_sameMap).trans keepDelta_sameMap).trans (finishWith_sameMap ..))

theorem commit_append_completed (ho : c.frame.opcode = 2) (hr : RoomFor c s) :
    Completed c stSuccess (o.length + c.frame.length) 0 false s (s.commit c) := by
  rw [commit_append ho hf]
  have hw : Undisturbed s (s.written c (s.nextEntry c) (o.appended c) c.frame.key) := .of_regs rfl rfl rfl
  exact hw.settleUnits.commitCtx.countAccepted.completed hr ..

theorem commit_seal_completed (ho : c.frame.opcode = 3) (hr : RoomFor c s) :
    Completed c stSuccess o.length o.crcRun false s (s.commit c) := by
  rw [commit_seal ho hf]
  have hw : Undisturbed s (s.written c (s.nextEntry c) (o.sealed c) 0) := .of_regs rfl rfl rfl
  exact hw.settleUnits.commitCtx.keepDelta.completed hr ..

end

/-! ## The commit of a DELETE (R114) -/

/-- The state in which a deleted object's entry has left the map. -/
def entryGone (s : State) (c : Cmd) (d : DelRec) : State :=
  { s with obj := { s.obj with
    deleting := s.obj.deleting.filter (fun x => x != d)
    objs := s.obj.objs.filter (fun p => p.1 != c.frame.key)
    gone := s.obj.gone ++ (s.obj.objs.filter (fun p => p.1 = c.frame.key)).map (fun p => GoneObj.mk c.frame.key p.2 d.mark) } }

section
variable {d : DelRec} (hd : s.obj.deleting.find? (fun d => d.key = c.frame.key && d.src = c.src) = some d)
include hd

theorem commitDelete_eq : s.commitDelete c =
    ((((s.entryGone c d).settleUnits c).keepDelta c).finish c stSuccess 1 0).sweepGone := by
  simp only [commitDelete, hd]
  rfl

theorem commitDelete_absent (hg : s.inGroup = false) : ∀ p ∈ (s.commitDelete c).obj.objs, p.1 ≠ c.frame.key := by
  have hw : (s.entryGone c d).inGroup = false := hg
  rw [commitDelete_eq hd, ((((settleUnits_sameMap hw).trans keepDelta_sameMap).trans (finishWith_sameMap ..)).trans
    sweepGone_sameMap).objs]
  exact fun p hp => by simpa using (List.mem_filter.mp hp).2

theorem commitDelete_emitted (hr : RoomFor c s) : Emitted (entryOf s c stSuccess 1 0 false) s (s.commitDelete c) := by
  rw [commitDelete_eq hd]
  have hw : Undisturbed s (s.entryGone c d) := .of_regs rfl rfl rfl
  exact (hw.settleUnits.keepDelta.completed hr ..).1.suffix (sweepGone_keeps (.refl _)).out

end

/-! ## A host tag that fails (R17, R139) -/

/-- A record whose host tags fail: HOST_TAG is set, and what the command had under way is discarded. -/
def tagFailed (s : State) (c : Cmd) : State := (s.wr F.TNS_ERR_STATUS_HOST_TAG 1).discardWork c

theorem tagFailed_undisturbed : Undisturbed s (s.tagFailed c) :=
  ⟨(SameRings.fset s F.TNS_ERR_STATUS_HOST_TAG 0 0 1 (by decide)).trans (.of_regs rfl rfl), List.suffix_refl _⟩

theorem tagFailed_bit (status : Nat) : ((s.tagFailed c).fail c status).rd F.TNS_ERR_STATUS_HOST_TAG = 1 :=
  (finishWith_fget _ c status 0 0 false _ (by decide +kernel) (by decide)).trans (fget_fset_same s _ 0 0 1)

end State

section
variable {s : State} {src : Src} {c : Cmd} (h : s.cmdOf src = some c)
include h

/-- In solo an accepted command commits. -/
theorem exec_acceptancePointReached (hg : s.inGroup = false) (ha : s.accepted c = true) (h8 : c.waits ≠ 8)
    (h13 : c.waits ≠ 13) (ho : c.frame.opcode ∈ [1, 2, 3, 0x12]) : exec (.acceptancePointReached src) s = .next (s.commitNow c) := by
  have hop : ([0x01, 0x02, 0x03, 0x12].contains c.frame.opcode) = true := List.contains_iff_mem.mpr ho
  change execAcceptancePointReached src s = _
  simp only [execAcceptancePointReached, h]
  rw [hop, if_neg (by simp [ha, h8, h13]), if_neg (by simp [hg])]

theorem exec_tansyResume_tagsFail (hs : c.stage = .started) (hi : c.viaIngest = true) (he : c.encoded = false) :
    exec (.tansyResume src false) s = .next ((s.tagFailed c).fail c stIntegrity) := by
  change execTansyResume src false s = _
  simp only [execTansyResume, h]
  rw [if_neg (by simp [hs, hi, he])]
  rfl

end

theorem State.commitNow_stream {s : State} {c : Cmd} (ho : c.frame.opcode ≠ 0x12) : s.commitNow c = s.commit c := if_neg ho

/-- Settles O24: a commit writes the object and the stream's entry, and what follows it up to the completion changes neither. -/
theorem acceptanceCommits : Obligations.AcceptanceCommits := by
  unfold Obligations.AcceptanceCommits
  intro s src c hc
  obtain rfl := State.cmdOf_src hc
  refine ⟨fun hg ha h8 h13 => ?_, fun hs hi he hr => ?_⟩
  · have hx := exec_acceptancePointReached hc hg ha h8 h13
    refine ⟨fun ho hf => ?_, fun o hf => ⟨fun ho => ?_, fun ho => ?_, fun d ho hd => ?_⟩⟩
    · have ht := hx (by simp [ho])
      rw [State.commitNow_stream (by omega)] at ht
      obtain ⟨hobj, hentry, hbound⟩ := State.commit_open_recorded hg ho (State.find_key_none hf)
      exact ⟨_, _, ht, hobj, rfl, rfl, rfl, rfl, hentry, hbound⟩
    · have ht := hx (by simp [ho])
      rw [State.commitNow_stream (by omega)] at ht
      obtain ⟨hobj, hentry, -⟩ := State.commit_append_recorded hf hg ho
      exact ⟨_, ht, hobj, hentry, State.commit_append_completed hf ho⟩
    · have ht := hx (by simp [ho])
      rw [State.commitNow_stream (by omega)] at ht
      obtain ⟨hobj, hentry, -⟩ := State.commit_seal_recorded hf hg ho
      exact ⟨_, ht, hobj, hentry, State.commit_seal_completed hf ho⟩
    · have ht := hx (by simp [ho])
      rw [State.commitNow, if_pos ho] at ht
      exact ⟨_, ht, State.commitDelete_absent hd hg, State.commitDelete_emitted hd⟩
  · exact ⟨_, exec_tansyResume_tagsFail hc hs hi he, State.tagFailed_bit _,
      (congrArg ObjSt.objs (State.finishWith_obj (s.tagFailed c) c ..)).trans rfl,
      State.tagFailed_undisturbed.completed hr ..⟩

end Sys2Proof.Machine

namespace Sys2Proof.Machine

/-! ## BARRIER and FLUSH that wait (R41, R98, R116) -/

namespace State

variable {s t : State} {src : Src} {c : Cmd}

theorem closeOpen_of_not_lead (h : (s.tMode && s.isLead) = false) : s.closeOpen = s := if_neg (by simp [h])

theorem any_setCmd {c' : Cmd} {p : Cmd → Bool} (hc : c ∈ s.sq.cmds) (hnd : (s.sq.cmds.map Cmd.uid).Nodup)
    (hu : c'.uid = c.uid) (hp : p c' = p c) : (s.setCmd c').sq.cmds.any p = s.sq.cmds.any p := by
  have hsame : ∀ d ∈ s.sq.cmds, p (if d.uid = c'.uid then c' else d) = p d := fun d hd => by
    split
    · next h => rw [List.inj_on_of_nodup_map hnd hd hc (h.trans hu), hp]
    · rfl
  rw [Bool.eq_iff_iff, setCmd, List.any_map, List.any_eq_true, List.any_eq_true]
  exact exists_congr fun d => and_congr_right fun hd => by rw [Function.comp, hsame d hd]

theorem settleable_congr (h : t.sq.cmds = s.sq.cmds) (d : Cmd) : t.settleable d = s.settleable d := by
  unfold settleable barrierDone flushDone
  rw [h]

/-- A command replaced by one admitted as it was changes nothing of what another one waits for. -/
theorem settleable_setCmd {c' : Cmd} (hc : c ∈ s.sq.cmds) (hnd : (s.sq.cmds.map Cmd.uid).Nodup) (hu : c'.uid = c.uid)
    (hno : c'.admitNo = c.admitNo) (hadm : c'.stage.isAdmitted = c.stage.isAdmitted) (d : Cmd) :
    (s.setCmd c').settleable d = s.settleable d := by
  unfold settleable barrierDone flushDone
  rw [any_setCmd hc hnd hu (by rw [hno, hadm]), any_setCmd hc hnd hu (by rw [hu])]

theorem settle_none (h : ∀ d ∈ s.sq.cmds, s.settleable d = false) (n : Nat) : settle n s = s := by
  have hf : s.sq.cmds.find? (fun d => s.settleable d) = none := List.find?_eq_none.mpr fun d hd => by simp [h d hd]
  cases n with
  | zero => rfl
  | succ n => rw [settle, hf]

theorem settle_first (h : s.sq.cmds.find? (fun d => s.settleable d) = some c) (n : Nat) :
    settle (n + 1) s = settle n ((s.dropCmd c.uid).post (c.completion stSuccess c.res 0 false)) := by rw [settle, h]

/-- A completion posted for a command with room in its ring is written, and the command is gone. -/
theorem post_completed (status result aux : Nat) (rp : Bool) (h : RoomFor c s) :
    Completed c status result aux rp s ((s.dropCmd c.uid).post (c.completion status result aux rp)) := by
  have hr : SameRings s (s.dropCmd c.uid) := .of_regs rfl rfl
  have hsent := (s.dropCmd c.uid).postRaw_sent c status result aux rp (h.to hr rfl rfl)
  refine Completed.since hr (List.suffix_refl _) ⟨hsent.suffix ?_, fun d hd => ?_⟩
  · unfold post
    extract_lets n u
    split
    · exact (resolveAborts_keeps (.refl _)).out
    · exact List.suffix_refl _
  · simpa using (List.mem_filter.mp (post_cmds _ _ d hd)).2

theorem Completed.settled {status result aux : Nat} {rp : Bool} (h : Completed c status result aux rp s t) (n : Nat) :
    Completed c status result aux rp s (settle n t) :=
  ⟨h.1.suffix (settle_keeps (.refl t)).out, fun d hd => h.2 d (settle_cmds n t d hd)⟩

theorem settle_obj (n : Nat) (s : State) : (settle n s).obj = s.obj :=
  settle_only (L := partsOfPost) (by decide) (Only.refl s) .obj (by decide)

/-- The state in which a BARRIER or FLUSH waits: `c` has become `c'`, and the slots may have changed. -/
structure Waits (s : State) (c c' : Cmd) (t : State) : Prop where
  cmds : t.sq.cmds = (s.setCmd c').sq.cmds
  mem : c ∈ s.sq.cmds
  nodup : (s.sq.cmds.map Cmd.uid).Nodup
  idle : ∀ d ∈ s.sq.cmds, s.settleable d = false
  uid : c'.uid = c.uid
  admitNo : c'.admitNo = c.admitNo
  admitted : c'.stage.isAdmitted = c.stage.isAdmitted

namespace Waits

variable {c' : Cmd} (h : Waits s c c' t)
include h

theorem settleable (d : Cmd) : t.settleable d = s.settleable d :=
  (settleable_congr h.cmds d).trans (settleable_setCmd h.mem h.nodup h.uid h.admitNo h.admitted d)

theorem cases (d : Cmd) (hd : d ∈ t.sq.cmds) : d = c' ∨ t.settleable d = false := by
  rw [h.cmds] at hd
  obtain ⟨x, hx, rfl⟩ := List.mem_map.mp hd
  split
  · exact .inl rfl
  · exact .inr ((h.settleable x).trans (h.idle x hx))

theorem mem' : c' ∈ t.sq.cmds := by
  rw [h.cmds]
  exact List.mem_map.mpr ⟨c, h.mem, if_pos h.uid.symm⟩

/-- Nothing goes on while the command has to wait. -/
theorem settle_eq (hw : t.settleable c' = false) (n : Nat) : settle n t = t :=
  settle_none (fun d hd => (h.cases d hd).elim (fun e => e ▸ hw) id) n

/-- The command that has nothing to wait for is the first that completes. -/
theorem settle_first (hw : t.settleable c' = true) : ∃ n, settle t.sq.cmds.length t =
    settle n ((t.dropCmd c'.uid).post (c'.completion stSuccess c'.res 0 false)) := by
  obtain ⟨n, hn⟩ := Nat.exists_eq_succ_of_ne_zero (Nat.ne_of_gt (List.length_pos_of_mem h.mem'))
  have hsome : (t.sq.cmds.find? (fun d => t.settleable d)).isSome :=
    List.find?_isSome.mpr ⟨c', h.mem', hw⟩
  obtain ⟨d, hd⟩ := Option.isSome_iff_exists.mp hsome
  have hdc : d = c' := (h.cases d (List.mem_of_find?_eq_some hd)).resolve_right (by
    rw [show t.settleable d = true from List.find?_some hd]
    decide)
  rw [hdc] at hd
  exact ⟨n, by rw [hn, State.settle_first hd]⟩

end Waits

/-! ## The slot of a stream without a command -/

/-- No command of the device has come by the slot of stream `st`. -/
def SlotFree (s : State) (st : Nat) : Prop := ∀ d ∈ s.sq.cmds, d.src ≠ .slot (BitVec.ofNat 20 st)

theorem SlotFree.of_fewer {st : Nat} (h : s.SlotFree st) (hf : FewerCmds s t) : t.SlotFree st :=
  fun d hd => h d (hf d hd)

theorem dropCmd_fewer (s : State) (u : Nat) : FewerCmds s (s.dropCmd u) := fun _ hd => (List.mem_filter.mp hd).1

theorem release_slot {st : Nat} (hst : st < 2 ^ 20) {x : Src} (hx : x ≠ .slot (BitVec.ofNat 20 st)) (z : Bool) :
    (s.release x z).slot st = s.slot st := by
  cases x with
  | slot v =>
    have hne : st ≠ v.toNat := by
      rintro rfl
      exact hx (by rw [BitVec.ofNat_toNat, BitVec.setWidth_eq])
    exact Store.get_put_other _ _ _ _ hne
  | tag q t => rfl
  | mgmt t => rfl

theorem coalesce_slots (s : State) (r : Nat) : (s.coalesce r).sq.slots = s.sq.slots := by
  unfold coalesce
  extract_lets n u
  split
  · rw [signal_sq]
  · rfl

theorem postRaw_slot {st : Nat} (hst : st < 2 ^ 20) {x : Completion} (hx : x.src ≠ .slot (BitVec.ofNat 20 st)) :
    (s.postRaw x).slot st = s.slot st := by
  unfold postRaw
  split
  · rfl
  · split
    · rfl
    · unfold writeEntry slot
      extract_lets r tail phase port s1 s2
      rw [coalesce_slots]
      refine (release_slot hst hx _).trans ?_
      change Store.get _ s2.sq.slots st = _
      unfold s2
      split <;> rfl

theorem resolveAborts_slot {st : Nat} (hst : st < 2 ^ 20) (h : s.SlotFree st) (x : Src) :
    (s.resolveAborts x).slot st = s.slot st := by
  unfold resolveAborts
  extract_lets due q1 s1
  have h1 : s1.SlotFree st ∧ s1.slot st = s.slot st := ⟨h, rfl⟩
  clear_value s1 due
  induction due generalizing s1 with
  | nil => exact h1.2
  | cons p l ih =>
    rw [List.foldl_cons]
    apply ih
    split
    · next a ha =>
      refine ⟨h1.1.of_fewer fun d hd => ?_, (postRaw_slot hst (h1.1 a (cmdOf_mem ha))).trans h1.2⟩
      rw [postRaw_cmds] at hd
      exact dropCmd_fewer _ _ d hd
    · exact h1

theorem post_slot {st : Nat} (hst : st < 2 ^ 20) (h : s.SlotFree st) {x : Completion}
    (hx : x.src ≠ .slot (BitVec.ofNat 20 st)) : (s.post x).slot st = s.slot st := by
  unfold post
  extract_lets n u
  split
  · exact (resolveAborts_slot hst (h.of_fewer fun d hd => by rwa [postRaw_cmds] at hd) _).trans (postRaw_slot hst hx)
  · exact postRaw_slot hst hx

/-- The completions of a device without a command of the stream's slot leave that slot alone. -/
theorem settle_slot {st : Nat} (hst : st < 2 ^ 20) (n : Nat) (h : s.SlotFree st) : (settle n s).slot st = s.slot st := by
  induction n generalizing s with
  | zero => rfl
  | succ n ih =>
    rw [settle]
    split
    · next c hc =>
      have hd := h.of_fewer (dropCmd_fewer s c.uid)
      exact (ih (hd.of_fewer (post_cmds _ _))).trans (post_slot hst hd (h c (List.mem_of_find?_eq_some hc)))
    · rfl

theorem discardSlots_slot {st : Nat} (by' : Bool) {p : Nat → Bool} (hp : p st = true) (h : (s.slot st).state = .loading) :
    ((s.discardSlots by' p).slot st).state = .discard := by
  unfold slot at h ⊢
  unfold discardSlots
  dsimp only
  generalize s.sq.slots = l at h ⊢
  induction l with
  | nil => cases h
  | cons x l ih =>
    obtain ⟨k, v⟩ := x
    rw [Store.get] at h
    rw [List.map_cons]
    split at h
    · next hk =>
      rw [if_pos (by simp [hk, hp, h]), Store.get, if_pos hk]
    · next hk =>
      split
      · rw [Store.get, if_neg hk]
        exact ih h
      · rw [Store.get, if_neg hk]
        exact ih h

/-! ## What an aborted command had under way (R96) -/

theorem stopActivation_sameRings (s : State) : SameRings s s.stopActivation := by
  unfold stopActivation
  split
  · exact .refl s
  · extract_lets u
    have hu : SameRings s u := by
      unfold u
      split
      · exact .refl s
      · exact ((SameRings.fset s _ _ _ _ (by decide)).trans (.fset _ _ _ _ _ (by decide))).trans (.fset _ _ _ _ _ (by decide))
    exact hu.trans (.of_regs rfl rfl)

theorem dropAdmin_sameRings (s : State) (c : Cmd) : SameRings s (s.dropAdmin c) := by
  unfold dropAdmin
  extract_lets g mine copy
  split
  · exact .of_regs rfl rfl
  · split
    · exact .of_only (dropMedia_only (L := [.mot, .disk, .medium]) (fun _ h => h) (Only.refl s)) (by decide) (by decide)
        (by decide)
    · split
      · exact s.stopActivation_sameRings
      · split
        · exact .of_regs rfl rfl
        · exact .refl s

end State

/-! ## The rows of BARRIER, FLUSH and ABORT -/

section
variable {s : State} {src : Src} {c : Cmd}

/-- The state in which a BARRIER has begun to wait. -/
def State.barrierSet (s : State) (c : Cmd) : State := s.setCmd { c with stage := .started, waits := 4 }

theorem exec_barrierCmd (h : s.cmdOf src = some c) (ha : c.stage = .admitted) (ho : c.frame.opcode = 0x20)
    (hl : (s.tMode && s.isLead) = false) : exec (.barrierCmd src) s =
      .next (State.settle (s.barrierSet c).sq.cmds.length (s.barrierSet c)) := by
  change execBarrierCmd src s = _
  have hcl : (s.barrierSet c).closeOpen = s.barrierSet c := State.closeOpen_of_not_lead hl
  unfold State.barrierSet at hcl ⊢
  simp only [execBarrierCmd, State.admittedCmd_of h ha ho, hcl]

/-- The state in which a FLUSH with an empty scope has set the slots in its scope to DISCARD. -/
def State.flushSet (s : State) (c : Cmd) : State :=
  (s.setCmd { c with stage := .started, waits := 4, res := 0, waitFor := [] }).discardSlots false (fun st =>
    c.frame.flags = 0 || (c.frame.flags = 1 && st = c.frame.stream))

theorem exec_flushCmd_empty (h : s.cmdOf src = some c) (ha : c.stage = .admitted) (ho : c.frame.opcode = 0x21)
    (hl : (s.tMode && s.isLead) = false)
    (hs : ∀ d ∈ s.sq.cmds, d.uid ≠ c.uid → d.control = true ∨ c.frame.covers d = false) : exec (.flushCmd src) s =
      .next (State.settle (s.flushSet c).sq.cmds.length (s.flushSet c)) := by
  change execFlushCmd src s = _
  have hcl : (s.flushSet c).closeOpen = s.flushSet c := State.closeOpen_of_not_lead hl
  have hmine : s.sq.cmds.filter (fun d => d.uid != c.uid && !d.control && c.frame.covers d) = [] :=
    List.filter_eq_nil_iff.mpr fun d hd => by
      by_cases hu : d.uid = c.uid
      · simp [hu]
      · obtain hd | hd := hs d hd hu <;> simp [hd]
  unfold State.flushSet at hcl ⊢
  simp only [execFlushCmd, State.admittedCmd_of h ha ho, hmine, List.filter_nil, List.map_nil, List.length_nil,
    State.endUnstarted, List.foldl_nil, hcl]

theorem exec_abortCmd_late (h : s.cmdOf src = some c) (ha : c.stage = .admitted) (ho : c.frame.opcode = 0x22)
    (hx : ∀ x, s.abortTarget c.frame = some x → s.pastCommit x = true) :
    exec (.abortCmd src) s = .next (s.fail c stAbortTooLate) := by
  change execAbortCmd src s = _
  unfold execAbortCmd
  rw [State.admittedCmd_of h ha ho]
  dsimp only
  split
  · rfl
  · next x hfound => rw [if_pos (by rw [hx x hfound]; rfl)]

/-- The state in which an ABORT has begun to wait for the end of its target. -/
def State.abortSet (s : State) (c x : Cmd) : State :=
  let s := s.setCmd { c with stage := .started, waits := 5 }
  { s with sq := { s.sq with abortWaits := s.sq.abortWaits ++ [(c.src, x.src)] } }

theorem exec_abortCmd_target {x : Cmd} (h : s.cmdOf src = some c) (ha : c.stage = .admitted) (ho : c.frame.opcode = 0x22)
    (hx : s.abortTarget c.frame = some x) (hp : s.pastCommit x = false) (hu : x.uid ≠ c.uid) :
    exec (.abortCmd src) s = .next ((((s.abortSet c x).discardWork x).dropAdmin x).fail x stAborted) := by
  change execAbortCmd src s = _
  unfold execAbortCmd
  rw [State.admittedCmd_of h ha ho]
  dsimp only
  rw [hx]
  dsimp only
  rw [if_neg (by simp [hp, hu])]
  rfl

/-- The target of an ABORT ends with ABORTED. -/
theorem State.abort_completed {x : Cmd} (hr : RoomFor x s) :
    Completed x stAborted 0 0 false s ((((s.abortSet c x).discardWork x).dropAdmin x).fail x stAborted) := by
  have hw : SameRings s ((s.abortSet c x).discardWork x) := .of_regs rfl rfl
  have hd : SameRings s (((s.abortSet c x).discardWork x).dropAdmin x) := hw.trans (State.dropAdmin_sameRings _ x)
  have hk : Keeps ((s.abortSet c x).discardWork x) (((s.abortSet c x).discardWork x).dropAdmin x) :=
    State.dropAdmin_keeps (.refl _)
  exact Completed.since hd hk.out (State.fail_completed _ x stAborted (hr.to hd rfl rfl))

end

section
variable {s : State} {src : Src} {c : Cmd} (hc : s.cmdOf src = some c) (ha : c.stage = .admitted)
  (hnd : (s.sq.cmds.map Cmd.uid).Nodup) (hl : (s.tMode && s.isLead) = false)
  (hidle : ∀ d ∈ s.sq.cmds, s.settleable d = false)
include hc ha hnd hidle

theorem State.barrierSet_waits : State.Waits s c { c with stage := .started, waits := 4 } (s.barrierSet c) :=
  ⟨rfl, State.cmdOf_mem hc, hnd, hidle, rfl, rfl, by rw [ha]; rfl⟩

/-- A BARRIER that has begun to wait can complete once nothing admitted before it is left. -/
theorem State.barrierSet_settleable (ho : c.frame.opcode = 0x20) :
    (s.barrierSet c).settleable { c with stage := .started, waits := 4 } = s.barrierDone c := by
  rw [(State.barrierSet_waits hc ha hnd hidle).settleable]
  simp [State.settleable, ho, State.barrierDone]

theorem State.flushSet_waits :
    State.Waits s c { c with stage := .started, waits := 4, res := 0, waitFor := [] } (s.flushSet c) :=
  ⟨rfl, State.cmdOf_mem hc, hnd, hidle, rfl, rfl, by rw [ha]; rfl⟩

include hl

theorem barrierCmd_completes (ho : c.frame.opcode = 0x20) (hdone : s.barrierDone c = true) (hr : RoomFor c s) :
    ∃ t, exec (.barrierCmd src) s = .next t ∧ Completed c stSuccess c.res 0 false s t ∧ t.obj = s.obj := by
  obtain ⟨n, hn⟩ := (State.barrierSet_waits hc ha hnd hidle).settle_first
    ((State.barrierSet_settleable hc ha hnd hidle ho).trans hdone)
  have hring : SameRings s (s.barrierSet c) := .setCmd ..
  refine ⟨_, (exec_barrierCmd hc ha ho hl).trans (congrArg _ hn), ?_, ?_⟩
  · exact State.Completed.settled (Completed.since hring (List.suffix_refl _) (State.post_completed _ _ _ _ hr)) n
  · rw [← hn]
    exact State.settle_obj ..

theorem barrierCmd_waits (ho : c.frame.opcode = 0x20) (hdone : s.barrierDone c = false) :
    exec (.barrierCmd src) s = .next (s.barrierSet c) :=
  (exec_barrierCmd hc ha ho hl).trans (congrArg _ ((State.barrierSet_waits hc ha hnd hidle).settle_eq
    ((State.barrierSet_settleable hc ha hnd hidle ho).trans hdone) _))

/-- A FLUSH with nothing in its scope completes, and what follows leaves the slots of streams without a command alone. -/
theorem flushCmd_completes (ho : c.frame.opcode = 0x21)
    (hs : ∀ d ∈ s.sq.cmds, d.uid ≠ c.uid → d.control = true ∨ c.frame.covers d = false) (hr : RoomFor c s) :
    ∃ t, exec (.flushCmd src) s = .next t ∧ Completed c stSuccess 0 0 false s t ∧
      ∀ st < 2 ^ 20, s.SlotFree st → t.slot st = (s.flushSet c).slot st := by
  have hset : (s.flushSet c).settleable { c with stage := .started, waits := 4, res := 0, waitFor := [] } = true := by
    rw [(State.flushSet_waits hc ha hnd hidle).settleable]
    simp [State.settleable, ho, State.flushDone]
  obtain ⟨n, hn⟩ := (State.flushSet_waits hc ha hnd hidle).settle_first hset
  have hring : SameRings s (s.flushSet c) := .of_regs rfl rfl
  refine ⟨_, (exec_flushCmd_empty hc ha ho hl hs).trans (congrArg _ hn), ?_, fun st hst hfree => ?_⟩
  · exact State.Completed.settled (Completed.since hring (List.suffix_refl _) (State.post_completed _ _ _ _ hr)) n
  · rw [← hn]
    refine State.settle_slot hst _ fun d hd => ?_
    obtain ⟨x, hx, rfl⟩ := List.mem_map.mp hd
    split
    · exact hfree c (State.cmdOf_mem hc)
    · exact hfree x hx

end

/-- Settles O26: a BARRIER and a FLUSH complete in the same row when they have nothing to wait for, and an ABORT ends its target
as long as that has not passed its commit point. -/
theorem commandControl : Obligations.CommandControl := by
  unfold Obligations.CommandControl
  intro s src c hc ha hnd hl hidle
  refine ⟨fun ho => ⟨fun hfirst hr => ?_, fun ⟨d, hd, hadm, hearlier⟩ => ?_⟩, fun ho hs hr => ?_,
    fun ho => ⟨fun hx hr => ?_, fun x hx hp hu hr => ?_⟩⟩
  · have hdone : s.barrierDone c = true := by
      simp only [State.barrierDone, Bool.not_eq_true', List.any_eq_false, Bool.and_eq_true, decide_eq_true_eq, not_and,
        Nat.not_lt]
      exact hfirst
    exact barrierCmd_completes hc ha hnd hl hidle ho hdone hr
  · have hdone : s.barrierDone c = false := by
      simp only [State.barrierDone, Bool.not_eq_false', List.any_eq_true, Bool.and_eq_true, decide_eq_true_eq]
      exact ⟨d, hd, hadm, hearlier⟩
    exact ⟨_, barrierCmd_waits hc ha hnd hl hidle ho hdone,
      State.cmdOf_setCmd s hc rfl (show c.src = src from State.cmdOf_src hc), rfl, rfl⟩
  · obtain ⟨t, ht, hcomp, hslot⟩ := flushCmd_completes hc ha hnd hl hidle ho hs hr
    refine ⟨t, ht, hcomp, fun st hfree hload hscope hst => ?_⟩
    rw [hslot st hst hfree]
    exact State.discardSlots_slot _ (by simpa using hscope) hload
  · exact ⟨_, exec_abortCmd_late hc ha ho hx, State.fail_completed _ _ _ hr, State.finishWith_obj ..⟩
  · exact ⟨_, exec_abortCmd_target hc ha ho hx hp hu, State.abort_completed hr⟩

end Sys2Proof.Machine

namespace Sys2Proof.Machine

/-! ## SEQ_MIRROR and MAP packets as the receiver reads them (R320, R325) -/

theorem leAt_leBytes_append (n x : Nat) (l : List Byte) : leAt (leBytes n x ++ l) 0 n = x % 256 ^ n := by
  rw [leAt, List.drop_zero, List.take_left' (length_leBytes n x), ofLe_leBytes]

/-- Behind the first bytes of a payload one reads as in the rest. -/
theorem leAt_append_of_length {m : Nat} {a : List Byte} (h : a.length = m) (l : List Byte) (k n : Nat) :
    leAt (a ++ l) (m + k) n = leAt l k n := by
  rw [leAt, leAt, ← h, List.drop_length_add_append]

/-- The bytes of a number from its byte `k` on. -/
theorem leAt_leBytes (w x k n : Nat) (h : k + n ≤ w) : leAt (leBytes w x) k n = x / 256 ^ k % 256 ^ n := by
  induction k generalizing w x with
  | zero =>
    induction n generalizing w x with
    | zero => simp [leAt, ofLe, Nat.mod_one]
    | succ n ih =>
      obtain ⟨w, rfl⟩ : ∃ v, w = v + 1 := ⟨w - 1, by omega⟩
      have hr := ih w (x / 256) (by omega)
      rw [leAt, List.drop_zero, Nat.pow_zero, Nat.div_one] at hr ⊢
      rw [leBytes, List.take_succ_cons, ofLe, hr, BitVec.toNat_ofNat, show 256 ^ (n + 1) = 2 ^ 8 * 256 ^ n from Nat.pow_succ',
        Nat.mod_mul]
      rfl
  | succ k ih =>
    obtain ⟨w, rfl⟩ : ∃ v, w = v + 1 := ⟨w - 1, by omega⟩
    have hr := ih w (x / 256) (by omega)
    rw [Nat.div_div_eq_div_mul, ← Nat.pow_succ'] at hr
    exact hr

/-- An 8-byte number read as an entry of the stream sequence table (Table 02-2). -/
theorem SeqEntry.ofBytes_leBytes (v : Nat) : SeqEntry.ofBytes (leBytes 8 v) =
    { lastSeq := v % 2 ^ 32, gen := v / 2 ^ 32 % 2 ^ 16, state := v / 2 ^ 48 % 2 ^ 8, unknown := bitAt v 56 } := by
  have hbit : bitAt (v / 256 ^ 7 % 256 ^ 1) 0 = bitAt v 56 := by
    have hmod : v / 256 ^ 7 % 256 ^ 1 / 2 ^ 0 % 2 = v / 2 ^ 56 % 2 := by omega
    simp only [bitAt, hmod]
  simp only [SeqEntry.ofBytes, leAt_leBytes _ _ _ _ (show 0 + 4 ≤ 8 by decide),
    leAt_leBytes _ _ _ _ (show 4 + 2 ≤ 8 by decide), leAt_leBytes _ _ _ _ (show 6 + 1 ≤ 8 by decide),
    leAt_leBytes _ _ _ _ (show 7 + 1 ≤ 8 by decide), hbit]
  norm_num

/-- The fields of an object are those that the head of an entry spells (log entry 30). -/
def Obj.ReadFrom (o : Obj) (l : List Byte) : Prop :=
  o.state = leAt l 0 1 ∧ o.kslot = leAt l 1 1 ∧ o.nocomp = bitAt (leAt l 2 1) 0 ∧
  o.stream = leAt l 4 4 ∧ o.gen = leAt l 8 2 ∧ o.keyId = leAt l 16 8 ∧ o.length = leAt l 24 8 ∧
  o.nonce = leAt l 32 8 ∧ o.crc = leAt l 40 8 ∧ o.crcRun = leAt l 48 8 ∧ o.seq = leAt l 56 4

namespace State

variable {s : State} {e : Env}

/-- SEQ_MIRROR in its turn. -/
theorem seqMirror_taken (stream : BitVec 32) (v : BitVec 64) (h : InTurn e 0 s) : Taken (.seqMirror e stream v) e 0 s
    ((s.counted e 0).takeSeqMirror (leBytes 4 stream.toNat ++ leBytes 8 v.toNat)) :=
  congrArg Host.Outcome.next (arrives_inTurn (type := 6) (by decide) h _)

theorem seqMirror_stream (stream : BitVec 32) (b : List Byte) : leAt (leBytes 4 stream.toNat ++ b) 0 4 = stream.toNat := by
  rw [leAt_leBytes_append]
  exact Nat.mod_eq_of_lt stream.isLt

/-- SEQ_MIRROR of a stream writes the stream's entry and no other (R36, R325). -/
theorem takeSeqMirror_entry {stream : BitVec 32} (v : Nat) (h : stream.toNat < 2 ^ 20) :
    (s.takeSeqMirror (leBytes 4 stream.toNat ++ leBytes 8 v)).entry stream.toNat = SeqEntry.ofBytes (leBytes 8 v) ∧
    ∀ st, st ≠ stream.toNat →
      (s.takeSeqMirror (leBytes 4 stream.toNat ++ leBytes 8 v)).entry st = s.entry st := by
  have hne : ¬ stream.toNat = 2 ^ 20 := by omega
  rw [takeSeqMirror, seqMirror_stream, if_neg hne, Nat.mod_eq_of_lt h, List.drop_left' (length_leBytes 4 _)]
  exact ⟨Store.get_put_same .., fun st hst => Store.get_put_other _ _ _ _ hst⟩

/-- Under stream 2^20 it moves the end of the reservation of nonces (R147). -/
theorem takeSeqMirror_nonce {stream : BitVec 32} (v : BitVec 64) (h : stream.toNat = 2 ^ 20) :
    s.takeSeqMirror (leBytes 4 stream.toNat ++ leBytes 8 v.toNat) = { s with obj := { s.obj with
      nonce := Nat.max s.obj.nonceEnd v.toNat, nonceEnd := Nat.max s.obj.nonceEnd v.toNat } } := by
  have hv : leAt (leBytes 4 stream.toNat ++ leBytes 8 v.toNat) 4 8 = v.toNat := by
    rw [leAt_append_of_length (length_leBytes 4 _) _ 0 8, leAt_leBytes 8 _ 0 8 (by decide), Nat.pow_zero, Nat.div_one]
    exact Nat.mod_eq_of_lt v.isLt
  rw [takeSeqMirror, seqMirror_stream, if_pos h, hv]

/-- The payload of a MAP packet: operation, key and what follows. -/
def mapPayload (op key : Nat) (data : List Byte) : List Byte := leBytes 1 op ++ leBytes 16 key ++ data

theorem mapPayload_op {op : Nat} (h : op < 256) (key : Nat) (data : List Byte) : leAt (mapPayload op key data) 0 1 = op := by
  rw [mapPayload, List.append_assoc, leAt_leBytes_append]
  exact Nat.mod_eq_of_lt h

theorem mapPayload_key (op : Nat) (key : BitVec 128) (data : List Byte) :
    leAt (mapPayload op key.toNat data) 1 16 = key.toNat := by
  rw [mapPayload, List.append_assoc, leAt_append_of_length (length_leBytes 1 _) _ 0 16, leAt_leBytes_append]
  exact Nat.mod_eq_of_lt key.isLt

theorem mapPayload_length (op key : Nat) (data : List Byte) : (mapPayload op key data).length = 17 + data.length := by
  simp only [mapPayload, List.length_append, length_leBytes]

theorem mapPayload_drop (op key : Nat) (data : List Byte) : (mapPayload op key data).drop 17 = data :=
  List.drop_left' (by simp only [List.length_append, length_leBytes])

/-- A MAP packet in its turn takes effect on the state in which its SEQ has been counted. -/
theorem map_taken {c : Instr} {payload : List Byte} {u : State} (h : InTurn e 0 s)
    (hc : exec c s = .next (s.arrives e 7 payload)) (hu : (s.counted e 0).takeMap e.src.toNat payload = u) :
    Taken c e 0 s u := by
  rw [arrives_inTurn (type := 7) (by decide) h] at hc
  rw [← hu]
  exact hc

/-! The operations of a MAP packet. -/

section
variable (src : Nat) (key : BitVec 128) {data : List Byte}

theorem takeMap_request : s.takeMap src (mapPayload 1 key.toNat []) = s.answerLookup src key.toNat := by
  simp only [takeMap, mapPayload_op (show 1 < 256 by decide), mapPayload_key, mapPayload_length]
  rfl

theorem takeMap_absent : s.takeMap src (mapPayload 1 key.toNat [0#8]) =
    s.setRed { s.red with absent := s.red.absent ++ [key.toNat] } := by
  simp only [takeMap, mapPayload_op (show 1 < 256 by decide), mapPayload_key, mapPayload_length, mapPayload_drop]
  rfl

theorem takeMap_insert : s.takeMap src (mapPayload 2 key.toNat data) = s.takeEntry key.toNat data := by
  simp only [takeMap, mapPayload_op (show 2 < 256 by decide), mapPayload_key, mapPayload_drop]

theorem takeMap_update (h : data ≠ []) : s.takeMap src (mapPayload 3 key.toNat data) = s.takeEntry key.toNat data := by
  have hlen : ¬ 17 + data.length ≤ 17 := by have := List.length_pos_of_ne_nil h; omega
  simp only [takeMap, mapPayload_op (show 3 < 256 by decide), mapPayload_key, mapPayload_length, mapPayload_drop, if_neg hlen]

theorem takeMap_settle : s.takeMap src (mapPayload 3 key.toNat []) = s.settleProp key.toNat := by
  simp only [takeMap, mapPayload_op (show 3 < 256 by decide), mapPayload_key, mapPayload_length]
  rfl

theorem takeMap_delete : s.takeMap src (leBytes 1 4 ++ leBytes 16 key.toNat) = s.dropEntry key.toNat := by
  rw [← List.append_nil (leBytes 1 4 ++ _), ← mapPayload]
  simp only [takeMap, mapPayload_op (show 4 < 256 by decide), mapPayload_key, mapPayload_length]
  rfl

end

/-! ## Lookups (R320) -/

/-- A further packet sent takes none from those that wait for their acknowledgement. -/
theorem Awaits.sendSeq {dst type : Nat} {payload : List Byte} (h : Awaits s dst type payload) (dst' type' : Nat)
    (payload' : List Byte) (owner : Option Src) : Awaits (s.sendSeq dst' type' payload' owner) dst type payload := by
  obtain ⟨y, hy, hp⟩ := h
  refine ⟨y, ?_, hp⟩
  unfold State.sendSeq sendSeqFor
  extract_lets vc k n pk _ s1
  have h1 : y ∈ Store.get [] s1.grp.unacked (triple dst (typeVc type)) := by
    have hu : s1.grp.unacked = Store.modify [] s.grp.unacked k (fun l =>
      l ++ [{ packet := pk, owner := owner, stripe := 0 }]) := rfl
    rw [hu, Store.modify]
    by_cases hk : triple dst (typeVc type) = k
    · rw [hk, Store.get_put_same]
      exact List.mem_append_left _ (hk ▸ hy)
    · rwa [Store.get_put_other _ _ _ _ hk]
  split
  · rwa [routeOut_unacked]
  · exact h1

/-- Of packets sent one after the other all wait. -/
theorem foldl_sendSeq_awaits (dst type : Nat) (payload : List Byte → List Byte) (l : List (List Byte)) (s : State) :
    ∀ b ∈ l, Awaits (l.foldl (fun s b => s.sendSeq dst type (payload b) none) s) dst type (payload b) := by
  have hkeep : ∀ (l : List (List Byte)) (s : State) (p : List Byte), Awaits s dst type p →
      Awaits (l.foldl (fun s b => s.sendSeq dst type (payload b) none) s) dst type p := fun l => by
    induction l with
    | nil => exact fun s p h => h
    | cons b l ih => exact fun s p h => ih _ p (h.sendSeq ..)
  induction l generalizing s with
  | nil => exact fun b hb => nomatch hb
  | cons a l ih =>
    intro b hb
    obtain rfl | hb := List.mem_cons.mp hb
    · exact hkeep l _ _ (awaits_sendSeq ..)
    · exact ih _ b hb

theorem answerLookup_none {key : Nat} (dst : Nat) (hp : s.obj.props.find? (fun p => p.1 = key) = none)
    (ho : s.obj.objs.find? (fun p => p.1 = key) = none) :
    Awaits (s.answerLookup dst key) dst 7 (mapPayload 1 key [0#8]) := by
  have hlen : (leBytes 1 1 ++ leBytes 16 key).length = 17 := by simp only [List.length_append, length_leBytes]
  simp only [answerLookup, hp, ho, List.take_of_length_le (Nat.le_of_eq hlen), List.drop_of_length_le (Nat.le_of_eq hlen),
    List.append_nil]
  exact awaits_sendSeq ..

theorem answerLookup_some {key : Nat} {o : Obj} (dst : Nat) (hp : s.obj.props.find? (fun p => p.1 = key) = none)
    (ho : s.obj.objs.find? (fun p => p.1 = key) = some (key, o)) :
    ∀ b ∈ s.mapPackets 1 key o false, Awaits (s.answerLookup dst key) dst 7 (b.take 17 ++ [1#8] ++ b.drop 17) := by
  simp only [answerLookup, hp, ho]
  exact foldl_sendSeq_awaits dst 7 (fun b => b.take 17 ++ [1#8] ++ b.drop 17) _ _

/-! ## Entries taken into the map (R108, R320) -/

theorem putEntry_red (s : State) (key : Nat) (o : Obj) (prop : Bool) : (s.putEntry key o prop).red = s.red := by
  unfold putEntry
  split <;> rfl

/-- A piece of an entry has been taken: the key is no longer known as absent, and finds an object with the piece's fields, in
the map or among the proposals as the piece says. -/
def HasEntry (t : State) (key : Nat) (l : List Byte) : Prop :=
  ∃ o : Obj, key ∉ t.red.absent ∧
    (if bitAt (leAt l 3 1) 0 then t.obj.props else t.obj.objs).find? (fun p => p.1 = key) = some (key, o) ∧ o.ReadFrom l

theorem putEntry_hasEntry {key : Nat} {o : Obj} {l : List Byte} (h : key ∉ s.red.absent) (ho : o.ReadFrom l) :
    (s.putEntry key o (bitAt (leAt l 3 1) 0)).HasEntry key l := by
  refine ⟨o, by rwa [putEntry_red], ?_, ho⟩
  cases bitAt (leAt l 3 1) 0
  · exact Store.find?_ins key o s.obj.objs
  · exact Store.find?_ins key o s.obj.props

/-- Growing an object's unit list touches the list and the units alone. -/
theorem growUnits_spec (n : Nat) (s : State) (key : Nat) (o : Obj) :
    (growUnits n s key o).1.red = s.red ∧ ∃ us, (growUnits n s key o).2 = { o with units := us } := by
  induction n generalizing s o with
  | zero => exact ⟨rfl, _, rfl⟩
  | succ n ih =>
    obtain ⟨hred, us, hus⟩ := ih (s.addUnit { UnitRec.blank with
      utype := 1, stream := o.stream, gen := o.gen, key := key, index := o.units.length, nonce := o.nonce }).1
      { o with units := o.units ++ [s.obj.nextUnit] }
    exact ⟨hred, us, hus⟩

theorem foldl_red {β : Type} {f : State → β → State} (hf : ∀ s x, (f s x).red = s.red) (l : List β) (s : State) :
    (l.foldl f s).red = s.red := by
  induction l generalizing s with
  | nil => rfl
  | cons x l ih => exact (ih (f s x)).trans (hf s x)

theorem takeEntry_hasEntry (s : State) (key : Nat) (l : List Byte) : (s.takeEntry key l).HasEntry key l := by
  unfold takeEntry
  extract_lets prop old o0 n o first rest _ s1
  have hread : o.ReadFrom l := ⟨rfl, rfl, rfl, rfl, rfl, rfl, rfl, rfl, rfl, rfl, rfl⟩
  have habs : key ∉ s1.red.absent := fun hk => by simpa using (List.mem_filter.mp hk).2
  clear_value o s1
  split
  · exact putEntry_hasEntry habs hread
  · obtain ⟨hred, us, hus⟩ := growUnits_spec (n - o.units.length) s1 key o
    generalize growUnits (n - o.units.length) s1 key o = g at hred hus
    obtain ⟨s2, o2⟩ := g
    obtain rfl : o2 = { o with units := us } := hus
    refine putEntry_hasEntry ?_ hread
    rw [foldl_red (fun u x => by dsimp only; split <;> rfl), show s2.red = s1.red from hred]
    exact habs

theorem filter_ne_key {α : Type} {l : Store α} {key : Nat} : ∀ p ∈ l.filter (fun p => p.1 != key), p.1 ≠ key :=
  fun p hp => by simpa using (List.mem_filter.mp hp).2

/-- A proposal that has committed is the key's entry and no proposal any more (R32). -/
theorem settleProp_spec {key : Nat} {o : Obj} (h : s.obj.props.find? (fun p => p.1 = key) = some (key, o)) :
    (s.settleProp key).obj.objs.find? (fun p => p.1 = key) = some (key, o) ∧
      ∀ p ∈ (s.settleProp key).obj.props, p.1 ≠ key := by
  simp only [settleProp, h]
  exact ⟨Store.find?_ins key o s.obj.objs, filter_ne_key⟩

end State

/-- Settles O42: a packet in its turn is taken by `takeSeqMirror` or, operation by operation, by `takeMap`. -/
theorem mapPackets : Obligations.MapPackets := by
  unfold Obligations.MapPackets
  intro s e ht
  refine ⟨fun stream v => ⟨fun hs => ?_, fun hs => ?_⟩, fun key data => ⟨fun hp ho => ?_, fun hp o ho => ?_, ?_, fun c hc => ?_,
    fun o ho => ?_, ?_⟩⟩
  · obtain ⟨hsame, hother⟩ := State.takeSeqMirror_entry (s := s.counted e 0) v.toNat hs
    exact ⟨_, State.seqMirror_taken stream v ht, hsame.trans (SeqEntry.ofBytes_leBytes _), hother⟩
  · refine ⟨_, State.seqMirror_taken stream v ht, ?_⟩
    rw [State.takeSeqMirror_nonce v hs]
    exact ⟨rfl, rfl, rfl⟩
  · obtain ⟨y, hy, -, htype, hpayload⟩ := State.answerLookup_none (s := s.counted e 0) e.src.toNat (State.find_key_none hp)
      (State.find_key_none ho)
    exact ⟨_, y, State.map_taken ht rfl (State.takeMap_request _ key), hy, htype, hpayload⟩
  · refine ⟨_, State.map_taken ht rfl (State.takeMap_request _ key), fun b hb => ?_⟩
    obtain ⟨y, hy, -, htype, hpayload⟩ := State.answerLookup_some (s := s.counted e 0) e.src.toNat (State.find_key_none hp)
      ho b hb
    exact ⟨y, hy, htype, hpayload⟩
  · exact ⟨_, State.map_taken ht rfl (State.takeMap_absent _ key), List.mem_append_right _ (List.mem_singleton_self _)⟩
  · have hu : Taken c e 0 s ((s.counted e 0).takeEntry key.toNat data) := by
      obtain rfl | ⟨hne, rfl⟩ := hc
      · exact State.map_taken ht rfl (State.takeMap_insert _ key)
      · exact State.map_taken ht rfl (State.takeMap_update _ key hne)
    obtain ⟨o, habs, hfind, hread⟩ := State.takeEntry_hasEntry (s.counted e 0) key.toNat data
    exact ⟨_, o, hu, habs, hfind, hread⟩
  · exact ⟨_, State.map_taken ht rfl (State.takeMap_settle _ key), State.settleProp_spec (s := s.counted e 0) ho⟩
  · exact ⟨_, State.map_taken ht rfl (State.takeMap_delete _ key), rfl, rfl, rfl⟩

end Sys2Proof.Machine

namespace Sys2Proof.Machine

/-! ## What a step keeps (R6, R70, R72, R410) -/

/-- Every command keeps the invariants; an operation of the TAP, which may blow fuses, keeps them too. -/
theorem exec_inv {c : Instr} {s t : State} (h : exec c s = .next t) (hs : s.Inv) : t.Inv := by
  by_cases hc : ∃ op, c = .jtagTapOperation op
  · obtain ⟨op, rfl⟩ := hc
    obtain ⟨u, hu, -, -, hinv⟩ := execJtagTapOperation_keeps (s := s) (op := op)
    obtain rfl := Host.Outcome.next.inj (h.symm.trans hu)
    exact hinv hs
  · obtain ⟨u, hu, hk⟩ := exec_keeps c s fun op he => hc ⟨op, he⟩
    obtain rfl := Host.Outcome.next.inj (h.symm.trans hu)
    exact hk.inv hs

/-- Settles O5: a step is one command on the queue's rest, or a millisecond; each keeps the invariants, which do not speak
of the queue. -/
theorem stepKeepsInvariants : Obligations.StepKeepsInvariants := by
  intro s t hs h
  unfold step at h
  split at h
  · obtain rfl := Host.Outcome.next.inj h
    exact (State.tick_keeps (.refl s)).inv hs
  · exact exec_inv h ⟨hs.uids, hs.evt, hs.regs, hs.mem, hs.nor⟩

end Sys2Proof.Machine

namespace Sys2Proof.Machine

/-! ## Configuration space (R50, R51, Table 03-3) -/

theorem exec_configRequest_early {s : State} (port write : Bool) (reg : BitVec 10) (v : Word) (hp : s.host.perst = false)
    (hc : s.host.cfgDone = false) : exec (.configRequest port write reg v) s = .next (s.emit (.cfgReply port none)) := by
  change execConfigRequest port write reg v s = _
  simp [execConfigRequest, hp, hc]

theorem exec_configRequest_read {s : State} (port : Bool) (reg : BitVec 10) (v : Word) (hp : s.host.perst = false)
    (hc : s.host.cfgDone = true) : exec (.configRequest port false reg v) s =
      .next (s.emit (.cfgReply port (some (s.cfgRead port reg.toNat)))) := by
  change execConfigRequest port false reg v s = _
  simp [execConfigRequest, hp, hc]

theorem exec_configRequest_write {s : State} (port : Bool) (reg : BitVec 10) (v : Word) (hp : s.host.perst = false)
    (hc : s.host.cfgDone = true) : exec (.configRequest port true reg v) s =
      .next ((s.cfgWrite port reg.toNat v.toNat).emit (.cfgReply port (some 0))) := by
  change execConfigRequest port true reg v s = _
  simp [execConfigRequest, hp, hc]

theorem le_msixReg : 18 ≤ msixReg := Nat.add_le_add_right (Nat.le_add_right 16 _) 2

theorem putMask_zero (x v : Nat) : putMask x 0 v = x := by simp [putMask]

/-- The upper six bits of a word. -/
theorem and_bar0 {v : Nat} (hv : v < 2 ^ 32) : v &&& 0xFC000000 = v / 2 ^ 26 * 2 ^ 26 := by
  apply Nat.eq_of_testBit_eq
  intro i
  have hhigh : ¬ i < 32 → v.testBit i = false := fun hi =>
    Nat.testBit_lt_two_pow (hv.trans_le (Nat.pow_le_pow_right (by decide) (by omega)))
  rw [show 0xFC000000 = (2 ^ 6 - 1) * 2 ^ 26 from rfl, Nat.testBit_and, Nat.testBit_mul_two_pow, Nat.testBit_mul_two_pow,
    Nat.testBit_two_pow_sub_one, Nat.testBit_div_two_pow]
  by_cases h26 : 26 ≤ i
  · by_cases h32 : i < 32
    · simp [h26, show i - 26 < 6 by omega]
    · simp [h26, hhigh h32]
  · simp [h26]

/-- The address bits of a 64 MiB BAR, with the type bits that it reads below them. -/
theorem putMask_bar0 (v : Word) : putMask 4 0xFC000000 (v.toNat &&& 0xFC000000) = v.toNat / 2 ^ 26 * 2 ^ 26 + 4 := by
  have hlow : 4 ^^^ (4 &&& 0xFC000000) = 4 := by decide
  unfold putMask
  rw [hlow, Nat.and_assoc, Nat.and_self, and_bar0 v.isLt, Nat.mul_comm, Nat.or_comm]
  exact (Nat.two_pow_add_eq_or_of_lt (by decide) _).symm

namespace State

variable (s : State) (port : Bool)

/-- The header lies below every capability, so that Table 03-1 fixes nothing of a BAR or of the identification. -/
theorem cfgFixed_header {reg : Nat} (h : reg = 0 ∨ reg = 4) : s.cfgFixed reg = (0, 0) := by
  have hm : msixReg = pmReg + 2 := rfl
  have hpcie : pcieReg = pmReg + 5 := rfl
  have hpm : 16 ≤ pmReg := Nat.le_add_right _ _
  have haer : 64 ≤ aerBase := Nat.le_add_right _ _
  unfold cfgFixed
  repeat rw [if_neg (by omega)]

/-- A word of the header that Table 03-1 leaves alone reads its default with the writable bits as they were written. -/
theorem cfgRead_header {reg : Nat} (h : reg = 0 ∨ reg = 4) : s.cfgRead port reg =
    putMask (s.cfgDefault reg) (cfgMask reg)
      (Store.get (s.cfgDefault reg &&& cfgMask reg) s.host.cfgSpace (cfgKey port reg)) := by
  have haer : 64 ≤ aerBase := Nat.le_add_right _ _
  unfold cfgRead
  dsimp only
  rw [if_neg (by omega), if_neg (by omega), s.cfgFixed_header h, putMask_zero]

theorem cfgWrite_header {reg : Nat} (h : reg = 0 ∨ reg = 4) (v : Nat) : s.cfgWrite port reg v =
    { s with host := { s.host with
        cfgSpace := Store.put (s.cfgDefault reg &&& cfgMask reg) s.host.cfgSpace (cfgKey port reg) (v &&& cfgMask reg) } } := by
  have hm : 18 ≤ msixReg := le_msixReg
  have haer : 64 ≤ aerBase := Nat.le_add_right _ _
  unfold cfgWrite
  dsimp only
  rw [if_neg (by omega), if_neg (by omega), if_neg (by omega)]

theorem cfgMask_header : cfgMask 0 = 0 ∧ cfgMask 4 = 0xFC000000 := by
  have hm : 18 ≤ msixReg := le_msixReg
  unfold cfgMask
  exact ⟨if_neg (by omega), if_neg (by omega)⟩

/-- No bit of the identification is writable. -/
theorem cfgRead_id : s.cfgRead port 0 = 0x81641F7E := by
  rw [s.cfgRead_header port (.inl rfl), cfgMask_header.1, putMask_zero]
  rfl

theorem cfgRead_bar0 (v : Word) : (s.cfgWrite port 4 v.toNat).cfgRead port 4 = v.toNat / 2 ^ 26 * 2 ^ 26 + 4 := by
  rw [cfgRead_header _ _ (.inr rfl), s.cfgWrite_header port (.inr rfl), cfgMask_header.2]
  exact (congrArg (putMask 4 0xFC000000) (Store.get_put_same ..)).trans (putMask_bar0 v)

end State

/-! ## MSI-X vectors (R59, R482; log entry 67) -/

/-- A table entry replaced. -/
def State.setVector (s : State) (port : Bool) (n : Nat) (m : Msix) : State :=
  { s with host := { s.host with msix := Store.put Msix.init s.host.msix (b2n port * 128 + n) m } }

/-- A vector whose pending bit is set and that nothing masks sends its message and clears the bit. -/
def State.flushVector (s : State) (port : Bool) (v : Nat) : State :=
  if (s.vector port v).pend && !(s.vector port v).masked && s.msixCtl port = 2 then
    (s.setVector port v { s.vector port v with pend := false }).emit
      (.msix port v (s.vector port v).addr (s.vector port v).data)
  else s

namespace State

variable {s : State} {port : Bool}

theorem flushMsix_eq (s : State) (port : Bool) :
    s.flushMsix port = (List.range 65).foldl (fun s v => s.flushVector port v) s := rfl

theorem flushVector_idle {v : Nat} (h : (s.vector port v).pend = false ∨ (s.vector port v).masked = true) :
    s.flushVector port v = s := by
  unfold flushVector
  refine if_neg ?_
  rcases h with h | h <;> simp [h]

theorem vector_flushVector_other {v j : Nat} (h : j ≠ v) : (s.flushVector port v).vector port j = s.vector port j := by
  unfold flushVector
  split
  · exact Store.get_put_other _ _ _ _ (by omega)
  · rfl

theorem flushVectors_idle {l : List Nat} (h : ∀ j ∈ l, (s.vector port j).pend = false ∨ (s.vector port j).masked = true) :
    l.foldl (fun s v => s.flushVector port v) s = s := by
  induction l with
  | nil => rfl
  | cons j l ih =>
    rw [List.foldl_cons, flushVector_idle (h j List.mem_cons_self)]
    exact ih fun i hi => h i (List.mem_cons_of_mem _ hi)

/-- Where no vector but one is due, a flush is that vector's. -/
theorem flushMsix_one {n : Nat} (hn : n ≤ 64)
    (h : ∀ j, j ≠ n → (s.vector port j).pend = false ∨ (s.vector port j).masked = true) :
    s.flushMsix port = s.flushVector port n := by
  obtain ⟨l, r, hl⟩ := List.append_of_mem (List.mem_range.mpr (show n < 65 by omega))
  have hnd : (l ++ n :: r).Nodup := hl ▸ List.nodup_range
  have hl' : ∀ j ∈ l, j ≠ n := fun j hj he => (List.nodup_append.mp hnd).2.2 j hj n List.mem_cons_self he
  have hr' : ∀ j ∈ r, j ≠ n := fun j hj he =>
    (List.nodup_cons.mp (List.nodup_append.mp hnd).2.1).1 (he ▸ hj)
  rw [flushMsix_eq, hl, List.foldl_append, flushVectors_idle fun j hj => h j (hl' j hj), List.foldl_cons]
  exact flushVectors_idle fun j hj => by
    rw [vector_flushVector_other (hr' j hj)]
    exact h j (hr' j hj)

/-- Word `k` of entry `n` lies in the MSI-X table (Table 03-4). -/
theorem bar4Word_vector (s : State) (port : Bool) {n k : Nat} (hn : n ≤ 64) (hk : k < 4) :
    s.bar4Word port (0x80000 + 16 * n + 4 * k) = (s.vector port n).word k := by
  have hi : (0x80000 + 16 * n + 4 * k - 0x80000) / 16 = n := by omega
  have hw : (0x80000 + 16 * n + 4 * k - 0x80000) / 4 % 4 = k := by omega
  unfold bar4Word
  rw [if_pos (by simp; omega), hi, hw]

theorem bar4Write_vector (s : State) (port : Bool) {n k : Nat} (hn : n ≤ 64) (hk : k < 4) (v : Nat) :
    s.bar4Write port (0x80000 + 16 * n + 4 * k) v = s.setVector port n ((s.vector port n).setWord k v) := by
  have hi : (0x80000 + 16 * n + 4 * k - 0x80000) / 16 = n := by omega
  have hw : (0x80000 + 16 * n + 4 * k - 0x80000) / 4 % 4 = k := by omega
  unfold bar4Write
  rw [if_pos (by simp; omega), hi, hw]
  rfl

theorem vector_setVector_same (s : State) (port : Bool) (n : Nat) (m : Msix) : (s.setVector port n m).vector port n = m :=
  Store.get_put_same ..

theorem vector_setVector_other {j n : Nat} (h : j ≠ n) (m : Msix) : (s.setVector port n m).vector port j = s.vector port j :=
  Store.get_put_other _ _ _ _ (by omega)

/-- Something keeps the message of a vector back: its mask, or Message Control (log entry 67). -/
def heldBack (s : State) (port : Bool) (v : Nat) : Bool := (s.vector port v).masked || s.msixCtl port != 2

theorem flushVector_eq (s : State) (port : Bool) (v : Nat) : s.flushVector port v =
    if (s.vector port v).pend && !s.heldBack port v then
      (s.setVector port v { s.vector port v with pend := false }).emit
        (.msix port v (s.vector port v).addr (s.vector port v).data)
    else s := by
  simp only [flushVector, heldBack, bne, Bool.not_or, Bool.not_not, Bool.and_assoc, beq_eq_decide]

/-- The pending bit stays set exactly while the message is kept back. -/
theorem flushVector_same (s : State) (port : Bool) (v : Nat) : (s.flushVector port v).vector port v =
    { s.vector port v with pend := (s.vector port v).pend && s.heldBack port v } := by
  rw [flushVector_eq]
  split
  · next h =>
    obtain ⟨-, hb⟩ := Bool.and_eq_true_iff.mp h
    rw [(Bool.not_eq_true' _).mp hb, Bool.and_false]
    exact vector_setVector_same s port v _
  · next h =>
    have hp : ((s.vector port v).pend && s.heldBack port v) = (s.vector port v).pend := by
      cases hb : s.heldBack port v <;> simp_all
    rw [hp]

theorem flushVector_out (s : State) (port : Bool) (v : Nat) : (s.flushVector port v).out =
    (if (s.vector port v).pend && !s.heldBack port v then
      [.msix port v (s.vector port v).addr (s.vector port v).data] else []) ++ s.out := by
  rw [flushVector_eq]
  split <;> rfl

/-- Nothing but the entry and the message changes. -/
theorem flushVector_frame (s : State) (port : Bool) (v : Nat) : (s.flushVector port v).regs = s.regs ∧
    (s.flushVector port v).sq = s.sq ∧ ∀ j, j ≠ b2n port * 128 + v →
      Store.get Msix.init (s.flushVector port v).host.msix j = Store.get Msix.init s.host.msix j := by
  unfold flushVector
  split
  · exact ⟨rfl, rfl, fun j hj => Store.get_put_other _ _ _ _ hj⟩
  · exact ⟨rfl, rfl, fun _ _ => rfl⟩

end State

theorem exec_msixVectorUnmask_read {s : State} {port : Bool} (o : BitVec 20) (x : BitVec 64) (hb : s.barsUp port = true)
    (ho : o.toNat % 4 = 0) : exec (.msixVectorUnmask port false false o x) s =
      .next (s.emit (.readData (Req.ofPort port) (s.bar4Word port o.toNat))) := by
  change execMsixVectorUnmask port false false o x s = _
  simp [execMsixVectorUnmask, hb, ho]

theorem exec_msixVectorUnmask_write {s : State} {port : Bool} (o : BitVec 20) (x : BitVec 64) (hb : s.barsUp port = true)
    (ho : o.toNat % 4 = 0) : exec (.msixVectorUnmask port true false o x) s =
      .next ((s.bar4Write port o.toNat (x.toNat % 2 ^ 32)).flushMsix port) := by
  change execMsixVectorUnmask port true false o x s = _
  simp [execMsixVectorUnmask, hb, ho]

/-- Settles O17: a configuration word of the header reads what was written of its writable bits; a write of the MSI-X table
makes the written vector due, or none. -/
theorem configurationAndVectors : Obligations.ConfigurationAndVectors := by
  intro s port write reg v
  refine ⟨exec_configRequest_early port write reg v, fun hp hc => ⟨?_, ?_⟩, fun hb n k x hn hk => ?_⟩
  · refine ⟨_, exec_configRequest_read port 0#10 v hp hc, ?_⟩
    exact congrArg (fun w => Output.cfgReply port (some w) :: s.out) (s.cfgRead_id port)
  · have hhost : (s.cfgWrite port 4 v.toNat).host.perst = s.host.perst ∧
        (s.cfgWrite port 4 v.toNat).host.cfgDone = s.host.cfgDone ∧ (s.cfgWrite port 4 v.toNat).out = s.out := by
      rw [s.cfgWrite_header port (.inr rfl)]
      exact ⟨rfl, rfl, rfl⟩
    obtain ⟨hperst, hdone, hout⟩ := hhost
    refine ⟨_, _, _, exec_configRequest_write port 4#10 v hp hc,
      exec_configRequest_read port 4#10 0#32 (hperst.trans hp) (hdone.trans hc), ?_,
      exec_configRequest_write port 0#10 v hp hc, State.cfgRead_id _ port⟩
    have hread : ((s.cfgWrite port 4 v.toNat).emit (.cfgReply port (some 0))).cfgRead port 4 =
        v.toNat / 2 ^ 26 * 2 ^ 26 + 4 := s.cfgRead_bar0 port v
    change Output.cfgReply port (some _) :: Output.cfgReply port (some 0) :: (s.cfgWrite port 4 v.toNat).out = _
    rw [hout]
    exact congrArg (fun w => Output.cfgReply port (some w) :: Output.cfgReply port (some 0) :: s.out) hread
  · have ho : (BitVec.ofNat 20 (0x80000 + 16 * n + 4 * k)).toNat = 0x80000 + 16 * n + 4 * k := by
      rw [BitVec.toNat_ofNat, Nat.mod_eq_of_lt (by omega)]
    have ha : (BitVec.ofNat 20 (0x80000 + 16 * n + 4 * k)).toNat % 4 = 0 := by omega
    refine ⟨⟨_, exec_msixVectorUnmask_read _ x hb ha, ?_, rfl, rfl⟩,
      fun hidle m hm => ⟨_, exec_msixVectorUnmask_write _ x hb ha, ?_⟩⟩
    · rw [ho, s.bar4Word_vector port hn hk]
      rfl
    · rw [ho, s.bar4Write_vector port hn hk, ← hm, State.flushMsix_one hn fun j hj => by
        rw [State.vector_setVector_other hj]
        exact hidle j hj]
      have hv := s.vector_setVector_same port n m
      have hheld : (s.setVector port n m).heldBack port n = (m.masked || s.msixCtl port != 2) := by
        rw [State.heldBack, hv]
        rfl
      obtain ⟨hregs, hsq, hother⟩ := (s.setVector port n m).flushVector_frame port n
      refine ⟨?_, fun j hj => (hother j hj).trans (Store.get_put_other _ _ _ _ hj), ?_, hregs, hsq⟩
      · rw [State.flushVector_same, hv, hheld]
      · rw [State.flushVector_out, hv, hheld]
        rfl

end Sys2Proof.Machine

namespace Sys2Proof.Machine

/-! ## Bytes of a slot buffer (R76) -/

theorem storeBytes_other {k : Nat} (l : List Byte) (buf off : Nat) (h : k < off ∨ off + l.length ≤ k) :
    bits (storeBytes buf off l) (8 * k) 8 = bits buf (8 * k) 8 := by
  induction l generalizing buf off with
  | nil => rfl
  | cons b l ih =>
    rw [List.length_cons] at h
    rw [storeBytes, ih _ _ (by omega)]
    split
    · exact bits_setBits_other buf off k b.toNat (by omega)
    · rfl

/-- Each byte that stays below word 7 stands at its place. -/
theorem storeBytes_at (l : List Byte) (buf off : Nat) (h : off + l.length ≤ 56) (i : Nat) (hi : i < l.length) :
    bits (storeBytes buf off l) (8 * (off + i)) 8 = l[i].toNat := by
  induction l generalizing buf off i with
  | nil => cases hi
  | cons b l ih =>
    rw [List.length_cons] at h hi
    rw [storeBytes]
    cases i with
    | zero =>
      rw [storeBytes_other l _ _ (.inl (by omega)), Nat.add_zero, if_pos (by omega), bits_setBits_same]
      exact Nat.mod_eq_of_lt b.isLt
    | succ i =>
      rw [show off + (i + 1) = off + 1 + i by omega]
      exact ih _ _ (by omega) i (by omega)

/-! ## Errors of the queues (Table 04-6) -/

namespace State

variable (s : State) {f : Field} {kind id : Nat}

theorem rd_wr_same (hw : f.w ≤ 32) (v : Nat) : (s.wr f v).rd f = v % 2 ^ f.w := by
  unfold rd wr
  rw [fget_fset_same, show Nat.min f.w 32 = f.w from Nat.min_eq_left hw]

theorem rd_wr_other {g : Field} (h : g.place ≠ f.place) (v : Nat) : (s.wr f v).rd g = s.rd g :=
  s.fget_wr v 0 0 h

/-- An error of the queues sets its bit, and names the slot, queue or ring. -/
theorem rd_sqErr_bit (hw : f.w = 1) (h : f.place ∉ sqErrPlaces) : (s.sqErr f kind id).rd f = 1 := by
  simp only [sqErrPlaces, List.map_cons, List.map_nil, List.mem_cons, not_or, List.not_mem_nil] at h
  obtain ⟨hid, hbit, hkind, -⟩ := h
  unfold sqErr
  rw [rd_wr_other _ hkind, rd_wr_other _ hbit, rd_wr_other _ hid, rd_wr_same _ (by omega), hw]
  rfl

theorem rd_sqErr_id (hk : kind ≠ 3) (hid : id < 2 ^ 20) : (s.sqErr f kind id).rd F.SQ_ERR_SOURCE_ID = id := by
  unfold sqErr
  rw [rd_wr_other _ (by decide), rd_wr_other _ (by decide), rd_wr_same _ (by decide), if_neg hk]
  exact Nat.mod_eq_of_lt hid

theorem rd_sqErr_kind (hk : kind < 4) : (s.sqErr f kind id).rd F.SQ_ERR_SOURCE_KIND = kind := by
  unfold sqErr
  rw [rd_wr_same _ (by decide)]
  exact Nat.mod_eq_of_lt hk

end State

/-! ## Writes to a task slot (R56, R58, R76 to R80) -/

@[simp] theorem State.slot_setSlot_same (s : State) (n : Nat) (v : Slot) : (s.setSlot n v).slot n = v := Store.get_put_same ..

theorem State.slot_setSlot_other (s : State) {n m : Nat} (v : Slot) (h : m ≠ n) : (s.setSlot n v).slot m = s.slot m :=
  Store.get_put_other _ _ _ _ h

@[simp] theorem State.slot_setCmd (s : State) (c : Cmd) (n : Nat) : (s.setCmd c).slot n = s.slot n := rfl

@[simp] theorem State.slot_arrive (s : State) (src : Src) (port : Bool) (ring : Nat) (cls : Cls) (f : Frame) (x : Stage)
    (n : Nat) : (s.arrive src port ring cls f x).slot n = s.slot n := rfl

namespace State

variable {s : State} {port : Bool} {addr : Nat} {bytes : List Byte}

theorem bar2Write_read (hb : s.barsUp port = true) (addr : Nat) :
    s.bar2Write port addr [] = s.emit (.readData (Req.ofPort port) 0) := by
  simp [bar2Write, hb]

theorem bar2Write_early (hb : s.barsUp port = true) (hr : s.host.readyOnce = false) (hne : bytes ≠ []) (addr : Nat) :
    s.bar2Write port addr bytes = s.wr F.HIF_ERR_STATUS_EARLY_DOORBELL 1 := by
  simp [bar2Write, hb, hr, hne]

section
variable (hb : s.barsUp port = true) (hr : s.host.readyOnce = true) (hlen : bytes.length ∈ [4, 8, 16, 32, 64])
  (ha : addr % bytes.length = 0)
include hb hr hlen ha

/-- A write of an accepted size, naturally aligned, is one of the slot's: refused, a part of the GO word, or taken. -/
theorem bar2Write_aligned : s.bar2Write port addr bytes =
    if (s.slot (addr / 64)).state = .outstanding then s.sqErr F.SQ_ERR_STATUS_SLOT_BUSY 0 (addr / 64)
    else if 56 ≤ addr % 64 && bytes.length < 8 then s.sqErr F.SQ_ERR_STATUS_GO_PARTIAL 0 (addr / 64)
    else
      let t := if addr % 64 < 56 && (s.slot (addr / 64)).state != .discard then
          s.setSlot (addr / 64) { s.slot (addr / 64) with
            state := .loading, buf := storeBytes (s.slot (addr / 64)).buf (addr % 64) bytes } else s
      if addr % 64 + bytes.length = 64 then t.goWrite port (addr / 64) (leAt bytes (56 - addr % 64) 8) else t := by
  have hne : bytes.isEmpty = false := by
    cases bytes with
    | nil => simp at hlen
    | cons => rfl
  have hc : [4, 8, 16, 32, 64].contains bytes.length = true := by simpa using hlen
  unfold bar2Write
  simp only [hb, hne, hr, hc, ha, bne_self_eq_false, Bool.not_true, Bool.or_false, Bool.false_eq_true, if_false]

theorem bar2Write_busy (ho : (s.slot (addr / 64)).state = .outstanding) :
    s.bar2Write port addr bytes = s.sqErr F.SQ_ERR_STATUS_SLOT_BUSY 0 (addr / 64) := by
  rw [bar2Write_aligned hb hr hlen ha, if_pos ho]

theorem bar2Write_words (hw : addr % 64 + bytes.length ≤ 56)
    (hs : (s.slot (addr / 64)).state = .idle ∨ (s.slot (addr / 64)).state = .loading) :
    s.bar2Write port addr bytes = s.setSlot (addr / 64) { s.slot (addr / 64) with
      state := .loading, buf := storeBytes (s.slot (addr / 64)).buf (addr % 64) bytes } := by
  have hpos : 0 < bytes.length := by
    rcases bytes with _ | _
    · simp at hlen
    · exact Nat.succ_pos _
  have hfree : (s.slot (addr / 64)).state ≠ .outstanding ∧ (s.slot (addr / 64)).state ≠ .discard := by
    rcases hs with hs | hs <;> rw [hs] <;> decide
  have hlow : decide (addr % 64 < 56) = true := decide_eq_true (by omega)
  have hnoGo : decide (56 ≤ addr % 64) = false := decide_eq_false (by omega)
  have hnoEnd : addr % 64 + bytes.length ≠ 64 := by omega
  rw [bar2Write_aligned hb hr hlen ha, if_neg hfree.1]
  simp only [hlow, hnoGo, hnoEnd, hfree.2, bne_iff_ne, ne_eq, not_false_eq_true, Bool.false_and, Bool.true_and,
    Bool.false_eq_true, if_false, if_true]

theorem bar2Write_go (ho : addr % 64 = 56) (h8 : bytes.length = 8)
    (hs : (s.slot (addr / 64)).state = .idle ∨ (s.slot (addr / 64)).state = .loading) :
    s.bar2Write port addr bytes = s.goWrite port (addr / 64) (ofLe bytes) := by
  have hfree : (s.slot (addr / 64)).state ≠ .outstanding := by
    rcases hs with hs | hs <;> rw [hs] <;> decide
  have hall : leAt bytes 0 8 = ofLe bytes := congrArg ofLe (List.take_of_length_le (le_of_eq h8))
  rw [bar2Write_aligned hb hr hlen ha, if_neg hfree]
  simp [ho, h8, hall]

end

variable {st go : Nat}

theorem goWrite_noRing (hd : (s.slot st).state ≠ .discard)
    (ho : s.ringOpen port (Frame.ofBits ((s.slot st).buf + go * 2 ^ 448)).cring = false) :
    s.goWrite port st go = (s.sqErr F.SQ_ERR_STATUS_NO_RING 0 st).setSlot st
      { state := .idle, buf := (s.slot st).buf, byActivation := false } := by
  unfold goWrite
  simp only [hd, if_false, ho, Bool.not_false, if_true]

/-- A command that has just arrived is the one of its source, unless the source had one. -/
theorem cmdOf_arrive {src : Src} (h : ∀ c ∈ s.sq.cmds, c.src ≠ src) (ring : Nat) (cls : Cls) (f : Frame) (x : Stage) :
    (s.arrive src port ring cls f x).cmdOf src = some (Cmd.new s.sq.nextUid src port ring cls f x) := by
  have hnone : s.sq.cmds.find? (fun c => c.src = src) = none := List.find?_eq_none.mpr fun c hc => by simpa using h c hc
  unfold cmdOf arrive
  rw [List.find?_append, hnone]
  simp [Cmd.new]

/-- The newest command replaced: the others stay. -/
theorem setCmd_arrive {src : Src} {ring : Nat} {cls : Cls} {f : Frame} {x : Stage} {d : Cmd}
    (h : ∀ c ∈ s.sq.cmds, c.uid ≠ s.sq.nextUid) (hd : d.uid = s.sq.nextUid) :
    ((s.arrive src port ring cls f x).setCmd d).sq.cmds = s.sq.cmds ++ [d] := by
  have hold : s.sq.cmds.map (fun c => if c.uid = d.uid then d else c) = s.sq.cmds := by
    conv_rhs => rw [← List.map_id s.sq.cmds]
    exact List.map_congr_left fun c hc => if_neg (by rw [hd]; exact h c hc)
  change (s.sq.cmds ++ [Cmd.new ..]).map _ = _
  rw [List.map_append, hold]
  simp [Cmd.new, hd]

/-- A GO write that passes the checks of R79 makes the loaded words a command. -/
theorem goWrite_arrives {f : Frame} (hf : f = Frame.ofBits ((s.slot st).buf + go * 2 ^ 448))
    (hd : (s.slot st).state ≠ .discard) (ho : s.ringOpen port f.cring = true) (hst : f.stream = st)
    (hop : slotOpcode f.opcode = true) (hready : s.on F.HIF_STATUS_READY = true)
    (hsrc : ∀ c ∈ s.sq.cmds, c.src ≠ .slot (BitVec.ofNat 20 st)) :
    s.goWrite port st go = ((s.setSlot st { s.slot st with state := .outstanding }).arrive (.slot (BitVec.ofNat 20 st)) port
        f.cring (prioClass f.prio) f .fetching).setCmd
      { Cmd.new s.sq.nextUid (.slot (BitVec.ofNat 20 st)) port f.cring (prioClass f.prio) f .fetching with
        stage := .ready } := by
  have hcmd := cmdOf_arrive (s := s.setSlot st { s.slot st with state := .outstanding }) (port := port) hsrc f.cring
    (prioClass f.prio) f .fetching
  have hon : ((s.setSlot st { s.slot st with state := .outstanding }).arrive (.slot (BitVec.ofNat 20 st)) port
      f.cring (prioClass f.prio) f .fetching).on F.HIF_STATUS_READY = true := hready
  unfold goWrite
  simp only [hd, if_false, ← hf, ho, Bool.not_true, Bool.false_eq_true, hcmd]
  rw [if_neg (by simpa [Cmd.new] using hst), pathChecks, hop, hon]
  rfl

end State

theorem exec_slotWordWrite (s : State) (port : Bool) (a : BitVec 26) (bytes : List Byte) :
    exec (.slotWordWrite port a bytes) s = .next (s.bar2Write port a.toNat bytes) := rfl

theorem exec_goWrite (s : State) (port : Bool) (a : BitVec 26) (bytes : List Byte) :
    exec (.goWrite port a bytes) s = .next (s.bar2Write port a.toNat bytes) := rfl

/-- Settles O19: both rows are one BAR2 write, which the slot's state and the place of its bytes decide. -/
theorem taskSlotWrites : Obligations.TaskSlotWrites := by
  intro s port a bytes hb
  have hst : a.toNat / 64 < 2 ^ 20 := by omega
  simp only [exec_slotWordWrite, exec_goWrite]
  refine ⟨?_, fun hr hne => ?_, fun hr hlen ha => ⟨fun ho => ?_, fun hw hs => ?_, fun hoff h8 hs f hf => ?_⟩⟩
  · rintro rfl
    rw [State.bar2Write_read hb]
  · rw [State.bar2Write_early hb hr hne]
    exact ⟨_, rfl, rfl, State.rd_wr_same s (by decide) 1, rfl⟩
  · rw [State.bar2Write_busy hb hr hlen ha ho]
    exact ⟨_, rfl, rfl, s.rd_sqErr_bit rfl (by decide), s.rd_sqErr_id (by decide) hst, s.rd_sqErr_kind (by decide), rfl⟩
  · rw [State.bar2Write_words hb hr hlen ha hw hs]
    refine ⟨_, rfl, ?_⟩
    rw [State.slot_setSlot_same]
    exact ⟨rfl, storeBytes_at bytes _ _ hw, fun k _ hk => storeBytes_other bytes _ _ hk,
      fun n hn => s.slot_setSlot_other _ hn, rfl, rfl, rfl⟩
  · have hd : (s.slot (a.toNat / 64)).state ≠ .discard := by rcases hs with hs | hs <;> rw [hs] <;> decide
    rw [State.bar2Write_go hb hr hlen ha hoff h8 hs]
    refine ⟨fun ho => ?_, fun ho hstream hop hready hfree => ?_⟩
    · rw [State.goWrite_noRing hd (hf ▸ ho)]
      refine ⟨_, rfl, ?_, s.rd_sqErr_bit rfl (by decide), s.rd_sqErr_id (by decide) hst, rfl⟩
      rw [State.slot_setSlot_same]
    · have hon : s.on F.HIF_STATUS_READY = true := by simp [State.on, hready]
      rw [hstream] at hfree ⊢
      rw [State.goWrite_arrives hf hd ho hstream hop hon fun c hc => (hfree c hc).2]
      refine ⟨_, _, rfl, ?_, State.setCmd_arrive (fun c hc => (hfree c hc).1) rfl, rfl, rfl, rfl, rfl, rfl, rfl⟩
      rw [State.slot_setCmd, State.slot_arrive, State.slot_setSlot_same]

end Sys2Proof.Machine

namespace Sys2Proof.Machine

/-! ## Descriptor lists (R75) -/

/-- The buffer that an entry of a descriptor list names. -/
abbrev descBuf (e : BitVec 128) : Nat × Nat := (bits e.toNat 0 64, bits e.toNat 64 32)

/-- An entry has a length above 0 and reserved bytes of 0. -/
abbrev DescOk (e : BitVec 128) : Prop := bits e.toNat 64 32 ≠ 0 ∧ bits e.toNat 96 32 = 0

section
variable {s : State} {src : Src} {c : Cmd} {entries : List (BitVec 128)} (h : s.cmdOf src = some c)
  (hs : c.stage = .listWait) (ha : c.asked ≠ 0) (hn : entries.length = c.frame.dcount)
include h hs ha hn

/-- The awaited list ends the command when an entry is bad, and becomes its buffers otherwise. -/
theorem exec_descListFetched_awaited : exec (.descListFetched src entries) s =
    if entries.any (fun e => bits e.toNat 64 32 = 0 || bits e.toNat 96 32 != 0) then .next (s.fail c stInvalidField)
    else .next (s.takeBufs c (c.frame.inline ++ entries.map descBuf)) := by
  have hr : c.reading .list = true := by simp [Cmd.reading, hs, ha]
  change execDescListFetched src entries s = _
  unfold execDescListFetched
  simp only [h, hr, hn, decide_true, Bool.and_self, if_true, List.any_map, List.map_map, Function.comp_def]

theorem exec_descListFetched_ok (hok : ∀ e ∈ entries, DescOk e) : exec (.descListFetched src entries) s =
    .next (s.takeBufs c (c.frame.inline ++ entries.map descBuf)) := by
  rw [exec_descListFetched_awaited h hs ha hn]
  refine if_neg ?_
  simpa using hok

theorem exec_descListFetched_zero (hz : ∃ e ∈ entries, bits e.toNat 64 32 = 0) :
    exec (.descListFetched src entries) s = .next (s.fail c stInvalidField) := by
  rw [exec_descListFetched_awaited h hs ha hn]
  refine if_pos ?_
  obtain ⟨e, he, hz⟩ := hz
  exact List.any_eq_true.mpr ⟨e, he, by simp [hz]⟩

end

namespace State

variable {s : State} {c : Cmd} {l : List (Nat × Nat)}

theorem takeBufs_whole (hl : (l.map (fun b => b.2)).sum = c.frame.length) :
    s.takeBufs c l = s.setCmd { c with bufs := l, stage := .admitted, asked := 0 } := if_pos hl

theorem takeBufs_other (hl : (l.map (fun b => b.2)).sum ≠ c.frame.length) : s.takeBufs c l = s.fail c stDescLength :=
  if_neg hl

/-! ## Arriving bytes (R61, R62) -/

/-- The level of the ingest FIFO is what it is set to; what follows from it leaves the level alone. -/
theorem rd_setIngest_level (s : State) (n : Nat) : (s.setIngest n).rd F.HIF_ING_LEVEL_ENTRIES = n % 2 ^ 17 := by
  have hraise : ∀ (t : State) a b d e, (t.raise a b d e).rd F.HIF_ING_LEVEL_ENTRIES = t.rd F.HIF_ING_LEVEL_ENTRIES :=
    fun t a b d e => t.fget_raiseFor a b d e 0 0 0 0 (by decide)
  have hset : (s.wr F.HIF_ING_LEVEL_ENTRIES n).rd F.HIF_ING_LEVEL_ENTRIES = n % 2 ^ 17 := s.rd_wr_same (by decide) n
  unfold setIngest
  extract_lets s1 s2 s3 s4
  have hs2 : s2.rd F.HIF_ING_LEVEL_ENTRIES = n % 2 ^ 17 := by
    unfold s2
    split
    · rw [rd_wr_other _ (by decide), hset]
    · exact hset
  have hs3 : s3.rd F.HIF_ING_LEVEL_ENTRIES = n % 2 ^ 17 := (rd_wr_other _ (by decide) _).trans hs2
  have hs4 : s4.rd F.HIF_ING_LEVEL_ENTRIES = n % 2 ^ 17 := (rd_wr_other _ (by decide) _).trans hs2
  split
  · split
    · exact hs3
    · rw [hraise, rd_wr_other _ (by decide), hs3]
  · split
    · split
      · exact hs4
      · rw [hraise, rd_wr_other _ (by decide), hs4]
    · exact hs2

/-! ## Failed DMA reads (R53, Table 03-9) -/

@[simp] theorem aer_setAer (s : State) (port unc : Bool) (v : Nat) : (s.setAer port unc v).aer port unc = v := by
  cases port <;> cases unc <;> rfl

theorem setAer_evt (s : State) (port unc : Bool) (v : Nat) :
    (s.setAer port unc v).host.evtFifo = s.host.evtFifo ∧ (s.setAer port unc v).host.evtSeq = s.host.evtSeq := by
  cases port <;> cases unc <;> exact ⟨rfl, rfl⟩

theorem setAer_sameRings (s : State) (port unc : Bool) (v : Nat) : SameRings s (s.setAer port unc v) := by
  cases port <;> cases unc <;> exact .of_regs rfl rfl

@[simp] theorem aer_raise (s : State) (a b d e : Nat) (port unc : Bool) : (s.raise a b d e).aer port unc = s.aer port unc := by
  cases port <;> cases unc <;> simp [aer, raise]

section
variable (s : State) (port : Bool) (bit : Nat)

theorem logAer_aer : (s.logAer port true bit true).aer port true = setBit (s.aer port true) bit := by
  rw [logAer, aer_raise, aer_setAer]

theorem logAer_sameRings : SameRings s (s.logAer port true bit true) := by
  unfold logAer raise
  exact (s.setAer_sameRings ..).trans (.raise ..)

/-- The event names the uncorrectable error of a DMA read (Table 03-9). -/
theorem logAer_raised : Raised 1 (b2n port) 4 (2 ^ bit + 2 ^ 32 + 2 ^ 33) s (s.logAer port true bit true) := fun hr => by
  obtain ⟨hfifo, hseq⟩ := s.setAer_evt port true (setBit (s.aer port true) bit)
  have h := raiseFor_evtFifo (s.setAer port true (setBit (s.aer port true) bit)) 1 (b2n port) 4
    (2 ^ bit + b2n true * 2 ^ 32 + b2n true * 2 ^ 33) 0 0 (by rwa [hfifo])
  rw [hfifo, hseq] at h
  exact h

end

/-- The end of a command whose work has been discarded is its end in the state before (R53). -/
theorem discardWork_fail_completed {s : State} {c : Cmd} (hr : RoomFor c s) (st : Nat) :
    Completed c st 0 0 false s ((s.discardWork c).fail c st) :=
  have hrings : SameRings s (s.discardWork c) := .of_regs rfl rfl
  (fail_completed _ c st (hr.to hrings rfl rfl)).since hrings List.suffix_rfl

end State

theorem exec_dmaReadFailed {s : State} {src : Src} {c : Cmd} {what : DmaWhat} (how : DmaFault) (h : s.cmdOf src = some c)
    (hr : c.reading what = true) : exec (.dmaReadFailed src what how) s =
      .next (((s.logAer c.port true how.report.1 true).discardWork c).fail c how.report.2) := by
  change execDmaReadFailed src what how s = _
  unfold execDmaReadFailed
  simp only [h, hr, if_true]

theorem exec_dmaDataArrival_ingest {s : State} {src : Src} {c : Cmd} (bytes : List Byte) (h : s.cmdOf src = some c)
    (hs : c.stage = .started) (hp : c.pullsData = true) (hv : c.viaIngest = true) :
    exec (.dmaDataArrival src bytes) s = .next (s.setCmd { c with
      data := c.data ++ bytes.take (c.asked - c.data.length)
      tags := hostTags c.hostOffset (c.data ++ bytes.take (c.asked - c.data.length))
      fifo := c.fifo + (bytes.take (c.asked - c.data.length)).length }).syncIngest := by
  have hi : ∀ d : Cmd, d.frame = c.frame → d.viaIngest = true := fun d hd => by rw [← hv]; simp only [Cmd.viaIngest, hd]
  change execDmaDataArrival src bytes s = _
  unfold execDmaDataArrival
  simp only [h, hs, hp, hv, hi, bne_self_eq_false, Bool.not_true, Bool.or_self, Bool.false_eq_true, if_false, if_true]

/-- Settles O21: a list becomes its buffers or ends its command, arriving bytes stand in the ingest FIFO, and a failed read is
logged before its command ends. -/
theorem hostDataOfCommands : Obligations.HostDataOfCommands := by
  intro s src c h
  have hsrc := State.cmdOf_src h
  refine ⟨fun entries hs ha hn => ⟨fun hok hl => ?_, fun hok hroom hl => ?_, fun hz hroom => ?_⟩,
    fun bytes hs hp hv => ?_, fun what how hr hroom => ?_⟩
  · rw [exec_descListFetched_ok h hs ha hn hok, State.takeBufs_whole hl]
    exact ⟨_, rfl, s.cmdOf_setCmd h rfl hsrc, rfl, rfl⟩
  · rw [exec_descListFetched_ok h hs ha hn hok, State.takeBufs_other hl]
    exact ⟨_, rfl, s.fail_completed c stDescLength hroom⟩
  · rw [exec_descListFetched_zero h hs ha hn hz]
    exact ⟨_, rfl, s.fail_completed c stInvalidField hroom⟩
  · refine ⟨_, exec_dmaDataArrival_ingest bytes h hs hp hv, ?_, ?_⟩
    · rw [State.cmdOf_congr (State.syncIngest_sq _)]
      exact s.cmdOf_setCmd h rfl hsrc
    · rw [State.syncIngest_sq]
      exact State.rd_setIngest_level _ _
  · exact ⟨_, _, exec_dmaReadFailed how h hr, s.logAer_aer _ _, s.logAer_raised _ _, rfl,
      State.discardWork_fail_completed (hroom.to (s.logAer_sameRings _ _) rfl rfl) _⟩

end Sys2Proof.Machine

namespace Sys2Proof.Machine

theorem base_ne_zero {base : BitVec 64} (h : base ≠ 0#64) : base.toNat ≠ 0 := BitVec.toNat_ne_iff_ne.mpr h

/-! ## Bytes of a response -/

/-- Bytes of a number show no more of it than they hold. -/
theorem leBytes_mod (n x : Nat) : leBytes n (x % 256 ^ n) = leBytes n x := by
  induction n generalizing x with
  | zero => rfl
  | succ n ih =>
    have hlow : BitVec.ofNat 8 (x % 256 ^ (n + 1)) = BitVec.ofNat 8 x := by
      apply BitVec.eq_of_toNat_eq
      rw [BitVec.toNat_ofNat, BitVec.toNat_ofNat]
      exact Nat.mod_mod_of_dvd x (dvd_pow_self 256 (Nat.succ_ne_zero n))
    have hhigh : x % 256 ^ (n + 1) / 256 = x / 256 % 256 ^ n := by
      rw [Nat.pow_succ', Nat.mod_mul_right_div_self]
    rw [leBytes, leBytes, hlow, hhigh, ih]

namespace State

variable {s t : State} {base : BitVec 64}

theorem mgmtReply_out (s : State) (cmd tag rc : Nat) (body : List Byte) : (s.mgmtReply cmd tag rc body).out =
    mgmtBytes s cmd tag rc (if rc = 0 then body else []) :: s.out := by
  simp only [mgmtReply, mgmtSend, mgmtBytes, List.append_assoc]
  rfl

/-- A response names the vendor and the epoch alone besides what it is about. -/
theorem mgmtBytes_congr (hv : t.rd F.GRP_MG_VENDOR_VENDOR = s.rd F.GRP_MG_VENDOR_VENDOR) (hg : t.grp = s.grp)
    (cmd tag rc : Nat) (body : List Byte) : mgmtBytes t cmd tag rc body = mgmtBytes s cmd tag rc body := by
  simp only [mgmtBytes, hv, epoch, hg]

theorem mgmtReply_only_out (s : State) (cmd tag rc : Nat) (body : List Byte) : Only [.out] s (s.mgmtReply cmd tag rc body) :=
  mgmtReply_only (fun _ h => h) (.refl s)

/-! ## The epoch of a request (R338) -/

/-- The BASE_EPOCH of a request is another one than the device's. -/
def stale (s : State) (base : BitVec 64) : Bool := base.toNat != 0 && base.toNat != s.epoch

theorem stale_false (h : base = 0#64 ∨ base.toNat = s.epoch) : s.stale base = false := by
  rcases h with rfl | h
  · rfl
  · simp [stale, h]

theorem stale_true (h0 : base ≠ 0#64) (h : base.toNat ≠ s.epoch) : s.stale base = true := by
  simp [stale, base_ne_zero h0, h]

theorem mgmtAnswer_eq (s : State) (base : BitVec 64) (cmd tag rc : Nat) (body : List Byte) :
    s.mgmtAnswer cmd tag base.toNat rc body =
      if s.stale base then s.mgmtReply cmd tag 1 [] else s.mgmtReply cmd tag rc body := rfl

/-! ## The oldest event (R71) -/

/-- The holding register of EVT_DATA0 to EVT_DATA3 shows four words. -/
def evtShown (s : State) (w : Nat → Nat) : State :=
  (((s.wr F.HIF_EVT_DATA0_WORD0 (w 0)).wr F.HIF_EVT_DATA1_WORD1 (w 1)).wr F.HIF_EVT_DATA2_WORD2 (w 2)).wr
    F.HIF_EVT_DATA3_WORD3 (w 3)

/-- The words of the holding register as bytes. -/
def evtBytes (s : State) : List Byte :=
  leBytes 4 (s.rd F.HIF_EVT_DATA0_WORD0) ++ leBytes 4 (s.rd F.HIF_EVT_DATA1_WORD1) ++
    leBytes 4 (s.rd F.HIF_EVT_DATA2_WORD2) ++ leBytes 4 (s.rd F.HIF_EVT_DATA3_WORD3)

theorem fget_evtShown (s : State) (w : Nat → Nat) {f : Field} (h : f.block ≠ 4) (i j : Nat) :
    (s.evtShown w).fget f i j = s.fget f i j := by
  have hne : ∀ g : Field, g.block = 4 → f.place ≠ g.place := fun g hg hp => h ((Field.block_place hp).trans hg)
  unfold evtShown
  rw [fget_wr _ _ _ _ (hne _ rfl), fget_wr _ _ _ _ (hne _ rfl), fget_wr _ _ _ _ (hne _ rfl), fget_wr _ _ _ _ (hne _ rfl)]

theorem evtBytes_evtShown (s : State) (w : Nat → Nat) :
    (s.evtShown w).evtBytes = leBytes 4 (w 0) ++ leBytes 4 (w 1) ++ leBytes 4 (w 2) ++ leBytes 4 (w 3) := by
  have hcut : ∀ x, leBytes 4 (x % 2 ^ 32) = leBytes 4 x := leBytes_mod 4
  unfold evtBytes evtShown
  simp (disch := decide) only [rd_wr_same, rd_wr_other]
  exact congrArg₂ _ (congrArg₂ _ (congrArg₂ _ (hcut _) (hcut _)) (hcut _)) (hcut _)

theorem popEvt_nil (h : s.host.evtFifo = []) : s.popEvt = s.evtShown (fun _ => 0) := by
  unfold popEvt
  rw [h]
  rfl

theorem popEvt_cons {e : EvtItem} {rest : List EvtItem} (h : s.host.evtFifo = e :: rest) :
    s.popEvt = ({ s with host := { s.host with evtFifo := rest } } : State).evtShown e.word := by
  unfold popEvt
  rw [h]
  rfl

/-! ## Register reads (R8, R452) -/

/-- A read of a register other than `HIF.EVT_DATA0` writes fields that a read clears and those of the trace unit alone. -/
theorem fget_readReg (s : State) (req : Req) {off : Nat} {f : Field} (ho : off ≠ F.HIF_EVT_DATA0_WORD0.off)
    (hf : f ∈ allFields) (hrc : f.acc ≠ .rc) (hb : f.block ≠ 49) (i j : Nat) :
    (s.readReg req off).1.fget f i j = s.fget f i j := by
  have htrace : s.readTrace.1.fget f i j = s.fget f i j := by
    have hne : ∀ g : Field, g.block = 49 → f.place ≠ g.place := fun g hg hp => hb ((Field.block_place hp).trans hg)
    unfold readTrace
    extract_lets k e
    split
    · exact (fget_wr _ _ _ _ (hne F.TRC_RD_ADDR_INDEX rfl)).trans (fget_wr _ _ _ _ (hne F.TRC_RD_TIME_TIME rfl))
    · rfl
  have hclear : ∀ (l : List (Field × Nat × Nat)) (t : State), l ⊆ fieldsAt off →
      (l.foldl (fun s p => if p.1.acc = .rc then s.fset p.1 p.2.1 p.2.2 0 else s) t).fget f i j = t.fget f i j := by
    intro l
    induction l with
    | nil => exact fun t _ => rfl
    | cons p l ih =>
      intro t hl
      obtain ⟨hp, hl⟩ := List.cons_subset.mp hl
      rw [List.foldl_cons, ih _ hl]
      split
      · next hacc =>
        refine fget_fset_other _ _ _ _ _ _ fun he => hrc ?_
        rwa [Field.place_inj hf (mem_fieldsAt hp) he]
      · rfl
  unfold readReg
  split
  · rfl
  · split
    · exact htrace
    · split
      · rfl
      · split
        · rfl
        · split
          · rfl
          · exact hclear _ _ (List.Subset.refl _)

set_option maxRecDepth 100000 in
theorem vendor_mem : F.GRP_MG_VENDOR_VENDOR ∈ allFields := by decide +kernel

/-! ## Requests forwarded to the lead (R339) -/

theorem pump_adminOut (n : Nat) (s : State) (p : Nat) : (State.pump n s p).grp.adminOut = s.grp.adminOut := by
  induction n generalizing s with
  | zero => rfl
  | succ n ih =>
    rw [pump]
    split
    · rfl
    · split
      · rfl
      · exact ih _

/-- A packet sent leaves the requests that are on their way. -/
theorem sendSeq_adminOut (s : State) (dst type : Nat) (payload : List Byte) (owner : Option Src) :
    (s.sendSeq dst type payload owner).grp.adminOut = s.grp.adminOut := by
  have hroute : ∀ (t : State) (pk : Packet), (t.routeOut pk).grp.adminOut = t.grp.adminOut := fun t pk => by
    unfold routeOut
    extract_lets p
    split
    · unfold enqueuePacket
      exact pump_adminOut _ _ _
    · rfl
  unfold State.sendSeq sendSeqFor
  extract_lets vc k n pk g s1
  split
  · exact hroute s1 pk
  · rfl

/-- The request of a management tag is noted as one that is on its way to the lead. -/
def adminForwarded (s : State) (tag : Nat) : State :=
  s.setGrp { s.grp with mgmtTag := (s.grp.mgmtTag + 1) % 65536, adminOut := s.grp.adminOut ++ [(s.grp.mgmtTag, tag)] }

/-! ## Requests at the lead (R122, R338) -/

/-- A management request: its fields as they stand in its body. -/
abbrev mgmtAsk (tag base : Nat) (fn : BitVec 8) (key off hold : BitVec 64) : AdminReq :=
  (64, tag, base, leBytes 1 fn.toNat ++ leBytes 8 key.toNat ++ leBytes 8 off.toNat ++ leBytes 8 hold.toNat)

section
variable {tag baseEpoch : Nat} {fn : BitVec 8} {key off hold : BitVec 64} {r : MemRec}

theorem adminFields_mgmtAsk (s : State) : s.adminFields (mgmtAsk tag baseEpoch fn key off hold) =
    (fn.toNat, key.toNat, off.toNat, hold.toNat) := by
  have h8 : ∀ (x : BitVec 64) l, leAt (leBytes 8 x.toNat ++ l) 0 8 = x.toNat := fun x l =>
    (leAt_leBytes_append 8 _ l).trans (Nat.mod_eq_of_lt x.isLt)
  have hskip1 : ∀ l k n, leAt (leBytes 1 fn.toNat ++ l) (1 + k) n = leAt l k n := leAt_append_of_length (length_leBytes ..)
  have hskip8 : ∀ (x : BitVec 64) l k n, leAt (leBytes 8 x.toNat ++ l) (8 + k) n = leAt l k n := fun x =>
    leAt_append_of_length (length_leBytes ..)
  have hcmd : s.adminCmd (mgmtAsk tag baseEpoch fn key off hold) = none := if_neg (by simp)
  unfold adminFields
  rw [hcmd]
  simp only [List.append_assoc]
  refine Prod.ext ?_ (Prod.ext ?_ (Prod.ext ?_ ?_))
  · exact (leAt_leBytes_append 1 _ _).trans (Nat.mod_eq_of_lt fn.isLt)
  · exact (hskip1 _ 0 8).trans (h8 key _)
  · exact (hskip1 _ 8 8).trans ((hskip8 key _ 0 8).trans (h8 off _))
  · refine (hskip1 _ 16 8).trans ((hskip8 key _ 8 8).trans ((hskip8 off _ 0 8).trans ?_))
    simpa only [List.append_nil] using h8 hold []

theorem setGrp_setGrp (s : State) (a b : GrpSt) : (s.setGrp a).setGrp b = s.setGrp b := rfl

/-- With no commit under way and no request before it, a management request is decided at once. -/
theorem adminAsk_now (hheld : s.adminHeld = false) (hq : s.grp.adminQ = []) (hfn : fn ≠ 2#8) :
    s.adminAsk (mgmtAsk tag baseEpoch fn key off hold) = s.adminGo (mgmtAsk tag baseEpoch fn key off hold) := by
  have hcmd : ∀ t : State, t.adminCmd (mgmtAsk tag baseEpoch fn key off hold) = none := fun _ => if_neg (by simp)
  have hne : fn.toNat ≠ 2 := fun h => hfn (BitVec.eq_of_toNat_eq h)
  have hfree : ∀ t : State, t.adminBlocked (mgmtAsk tag baseEpoch fn key off hold) = false := fun t => by
    simp [adminBlocked, adminFields_mgmtAsk, hne]
  have hqueue : s.setGrp { s.grp with adminQ := [] } = s := by
    rw [← hq]
    rfl
  have hheld' : ∀ q, (s.setGrp { s.grp with adminQ := q }).adminHeld = false := fun _ => hheld
  unfold adminAsk
  simp only [hcmd, hq, List.nil_append, setGrp_grp, List.length_singleton, adminTurns, hheld', hfree,
    setGrp_setGrp, hqueue]
  simp

theorem adminGo_stale (hr : s.grp.mrec = some r) (hb : baseEpoch ≠ r.epoch) :
    s.adminGo (mgmtAsk tag baseEpoch fn key off hold) = s.mgmtReply 5 tag 1 [] := by
  have he : s.epoch = r.epoch := by simp [epoch, hr]
  unfold adminGo
  simp only [adminFields_mgmtAsk, hr, he]
  simp [hb, answerAdmin]

theorem adminGo_query (hr : s.grp.mrec = some r) : s.adminGo (mgmtAsk tag r.epoch 9#8 0#64 0#64 hold) =
    s.mgmtReply 5 tag 0 (adminBody stSuccess r.epoch (r.bitmap (fun st => st = 3))) := by
  have he : s.epoch = r.epoch := by simp [epoch, hr]
  have hform : adminFieldsOk 9 0 0 = true := by decide
  unfold adminGo
  simp only [adminFields_mgmtAsk, hr, he]
  simp [hform, adminQuery, adminEnd, answerAdmin]

end

end State

/-! ## The requests (Table 13-10) -/

theorem exec_mgmtReadEvent (s : State) (tag : BitVec 8) (base : BitVec 64) : exec (.mgmtReadEvent tag base) s =
    if s.stale base then .next (s.mgmtReply 2 tag.toNat 1 [])
    else .next (s.popEvt.mgmtReply 2 tag.toNat 0 s.popEvt.evtBytes) := rfl

theorem exec_mgmtRegRead (s : State) (tag : BitVec 8) (base : BitVec 64) (off : Word) :
    exec (.mgmtRegRead tag base off) s =
      if s.stale base then .next (s.mgmtReply 4 tag.toNat 1 [])
      else if off.toNat = F.HIF_EVT_DATA0_WORD0.off || off.toNat % 4 != 0 || 2 ^ 26 ≤ off.toNat then
        .next (s.mgmtReply 4 tag.toNat 3 [])
      else .next ((s.readReg .mgmt off.toNat).1.mgmtReply 4 tag.toNat 0 (leBytes 4 (s.readReg .mgmt off.toNat).2)) := rfl

theorem exec_mgmtHealth (s : State) (tag : BitVec 8) (base : BitVec 64) : exec (.mgmtHealth tag base) s =
    .next (s.mgmtAnswer 3 tag.toNat base.toNat 0 s.healthRecord) := rfl

/-- The bytes of the entries that a LOG_READ of the management path tells (Table 13-10). -/
def State.mgmtLog (s : State) (first : BitVec 64) (count : BitVec 8) : List Byte :=
  (((s.logHeld.filter (fun e => first.toNat ≤ e.seq)).take count.toNat).map LogEntry.bytes).flatten

theorem exec_mgmtLogRead_rc (s : State) (tag : BitVec 8) (base first : BitVec 64) {count : BitVec 8} {rc : Nat}
    (h : (if 1 ≤ count.toNat && count.toNat ≤ 16 then 0 else 3) = rc) :
    exec (.mgmtLogRead tag base first count) s =
      .next (s.mgmtAnswer 6 tag.toNat base.toNat rc (s.mgmtLog first count)) := by
  rw [← h]
  rfl

/-- A reply changes nothing and says what it says. -/
theorem exec_replies {s : State} {c : Instr} {cmd tag rc : Nat} {body : List Byte}
    (h : exec c s = .next (s.mgmtReply cmd tag rc body)) :
    ∃ t, exec c s = .next t ∧ t.out = mgmtBytes s cmd tag rc (if rc = 0 then body else []) :: s.out ∧ Only [.out] s t :=
  ⟨_, h, s.mgmtReply_out cmd tag rc body, s.mgmtReply_only_out cmd tag rc body⟩

section
variable {s : State} {base : BitVec 64} (tag : BitVec 8)

/-- Each request of another epoch is answered with RC 1 (R338). -/
theorem exec_mgmt_stale (h : s.stale base = true) (off : Word) (first : BitVec 64) (count : BitVec 8) (k : Nat) (c : Instr)
    (hc : (k, c) ∈ [(1, Instr.mgmtGetMembership tag base), (2, .mgmtReadEvent tag base), (3, .mgmtHealth tag base),
      (4, .mgmtRegRead tag base off), (6, .mgmtLogRead tag base first count)]) :
    exec c s = .next (s.mgmtReply k tag.toNat 1 []) := by
  simp only [List.mem_cons, List.not_mem_nil, or_false, Prod.mk.injEq] at hc
  obtain ⟨rfl, rfl⟩ | ⟨rfl, rfl⟩ | ⟨rfl, rfl⟩ | ⟨rfl, rfl⟩ | ⟨rfl, rfl⟩ := hc
  · exact congrArg Host.Outcome.next ((s.mgmtAnswer_eq base ..).trans (if_pos h))
  · exact (exec_mgmtReadEvent s tag base).trans (if_pos h)
  · exact congrArg Host.Outcome.next ((s.mgmtAnswer_eq base ..).trans (if_pos h))
  · exact (exec_mgmtRegRead s tag base off).trans (if_pos h)
  · exact congrArg Host.Outcome.next ((s.mgmtAnswer_eq base ..).trans (if_pos h))

theorem mgmtAnswer_current (h : s.stale base = false) (cmd tag rc : Nat) (body : List Byte) :
    s.mgmtAnswer cmd tag base.toNat rc body = s.mgmtReply cmd tag rc body := by
  rw [s.mgmtAnswer_eq, h]
  rfl

/-- READ_EVENT tells the words that the holding register then shows (R71). -/
theorem exec_mgmtReadEvent_shown {u : State} {w : Nat → Nat} (h : s.stale base = false) (hp : s.popEvt = u.evtShown w)
    (hu : u.out = s.out ∧ u.grp = s.grp ∧ u.regs = s.regs) : ∃ t, exec (.mgmtReadEvent tag base) s = .next t ∧
      t.host = u.host ∧ t.out = mgmtBytes s 2 tag.toNat 0 (leBytes 4 (w 0) ++ leBytes 4 (w 1) ++ leBytes 4 (w 2) ++
        leBytes 4 (w 3)) :: s.out := by
  obtain ⟨hout, hgrp, hregs⟩ := hu
  have hv : (u.evtShown w).rd F.GRP_MG_VENDOR_VENDOR = s.rd F.GRP_MG_VENDOR_VENDOR :=
    (u.fget_evtShown w (by decide) 0 0).trans (by rw [State.fget, hregs]; rfl)
  refine ⟨_, (exec_mgmtReadEvent s tag base).trans (if_neg (by simp [h])), ?_, ?_⟩
  · rw [hp]
    rfl
  · rw [hp, State.mgmtReply_out, State.evtBytes_evtShown, if_pos rfl, State.mgmtBytes_congr (t := u.evtShown w) hv hgrp]
    exact congrArg _ hout

theorem exec_mgmtRegRead_bad (h : s.stale base = false) {off : Word}
    (ho : off.toNat = F.HIF_EVT_DATA0_WORD0.off ∨ off.toNat % 4 ≠ 0 ∨ 2 ^ 26 ≤ off.toNat) :
    exec (.mgmtRegRead tag base off) s = .next (s.mgmtReply 4 tag.toNat 3 []) := by
  rw [exec_mgmtRegRead, if_neg (by simp [h])]
  refine if_pos ?_
  simpa only [Bool.or_eq_true, decide_eq_true_eq, bne_iff_ne, or_assoc] using ho

/-- A register read on the management path is answered with the register's value (R71). -/
theorem exec_mgmtRegRead_value (h : s.stale base = false) {off : Word} (ho : off.toNat ≠ F.HIF_EVT_DATA0_WORD0.off)
    (ha : off.toNat % 4 = 0) (hl : off.toNat < 2 ^ 26) : ∃ t, exec (.mgmtRegRead tag base off) s = .next t ∧
      t.out = mgmtBytes s 4 tag.toNat 0 (leBytes 4 (s.readReg .mgmt off.toNat).2) :: s.out := by
  have honly : Only (clearParts ++ [.host]) s (s.readReg .mgmt off.toNat).1 :=
    Only.fst (State.readReg_only (L := clearParts ++ [.host]) (by decide) (.refl s))
  have hv := s.fget_readReg .mgmt ho State.vendor_mem (by decide) (by decide) 0 0
  refine ⟨_, (exec_mgmtRegRead s tag base off).trans ((if_neg (by simp [h])).trans (if_neg ?_)), ?_⟩
  · simpa [ho, ha] using hl
  · rw [State.mgmtReply_out, if_pos rfl, State.mgmtBytes_congr hv (honly .grp (by decide)),
      show (s.readReg .mgmt off.toNat).1.out = s.out from honly .out (by decide)]

/-! ## ADMIN (R338, R339) -/

variable (fn : BitVec 8) (key off hold : BitVec 64)

theorem exec_mgmtAdmin_noEpoch : exec (.mgmtAdmin tag 0#64 fn key off hold) s = .next (s.mgmtReply 5 tag.toNat 3 []) := rfl

variable (hb : base ≠ 0#64)
include hb

theorem exec_mgmtAdmin_solo (hr : s.grp.mrec = none) :
    exec (.mgmtAdmin tag base fn key off hold) s = .next (s.mgmtReply 5 tag.toNat 1 []) := by
  change execMgmtAdmin tag base fn key off hold s = _
  simp only [execMgmtAdmin, base_ne_zero hb, if_false, hr]

variable {r : MemRec} (hr : s.grp.mrec = some r)
include hr

theorem exec_mgmtAdmin_lead (hlead : s.isLead = true) : exec (.mgmtAdmin tag base fn key off hold) s =
    .next (s.adminAsk (State.mgmtAsk tag.toNat base.toNat fn key off hold)).groupStep := by
  change execMgmtAdmin tag base fn key off hold s = _
  simp only [execMgmtAdmin, base_ne_zero hb, if_false, hr, hlead, if_true]

theorem exec_mgmtAdmin_noRoute (hlead : s.isLead = false) (hroute : 4 ≤ s.rdi F.GRP_ROUTE_PORT r.lead) :
    exec (.mgmtAdmin tag base fn key off hold) s = .next (s.mgmtReply 5 tag.toNat 4 []) := by
  change execMgmtAdmin tag base fn key off hold s = _
  simp only [execMgmtAdmin, base_ne_zero hb, if_false, hr, hlead, Bool.false_eq_true, hroute, if_true]

theorem exec_mgmtAdmin_forward (hlead : s.isLead = false) (hroute : s.rdi F.GRP_ROUTE_PORT r.lead < 4) :
    exec (.mgmtAdmin tag base fn key off hold) s = .next ((s.adminForwarded tag.toNat).sendSeq r.lead 0x1B
      (mgmtHead 3 0 s.grp.mgmtTag 0 base.toNat ++ (leBytes 1 fn.toNat ++ leBytes 8 key.toNat ++ leBytes 8 off.toNat))
      none) := by
  change execMgmtAdmin tag base fn key off hold s = _
  simp only [execMgmtAdmin, base_ne_zero hb, if_false, hr, hlead, Bool.false_eq_true, Nat.not_le.mpr hroute,
    State.adminForwarded]

/-- Without a commit under way the lead decides the request at once (R122). -/
theorem exec_mgmtAdmin_decided (hlead : s.isLead = true) (hheld : s.adminHeld = false) (hq : s.grp.adminQ = [])
    (hfn : fn ≠ 2#8) : exec (.mgmtAdmin tag base fn key off hold) s =
      .next (s.adminGo (State.mgmtAsk tag.toNat base.toNat fn key off hold)).groupStep := by
  rw [exec_mgmtAdmin_lead tag fn key off hold hb hr hlead, State.adminAsk_now hheld hq hfn]

end

/-! ## The bus and MCTP control messages (R337, R480; log entry 42) -/

/-- The endpoint id that a control command leaves. -/
def State.eidSet (s : State) (cmd eid : BitVec 8) : State :=
  if cmd.toNat = 1 then s.setGrp { s.grp with mgmtEid := eid.toNat } else s

theorem exec_mctpControlMessage (s : State) (inst : BitVec 5) (cmd eid : BitVec 8) :
    exec (.mctpControlMessage inst cmd eid) s = .next ((s.eidSet cmd eid).emit (.mgmt (leBytes 1 0 ++ leBytes 1 inst.toNat ++
      leBytes 1 cmd.toNat ++ (s.eidSet cmd eid).mctpAnswer cmd.toNat))) := rfl

theorem State.eidSet_spec (s : State) (cmd eid : BitVec 8) : (s.eidSet cmd eid).out = s.out ∧
    (s.eidSet cmd eid).grp.mgmtEid = (if cmd = 1#8 then eid.toNat else s.grp.mgmtEid) ∧
      Only [.out, .grp] s (s.eidSet cmd eid) := by
  unfold State.eidSet
  by_cases h : cmd = 1#8
  · subst h
    exact ⟨rfl, rfl, State.setGrp_only (by decide) (.refl s)⟩
  · have hn : cmd.toNat ≠ 1 := fun he => h (BitVec.eq_of_toNat_eq he)
    rw [if_neg hn, if_neg h]
    exact ⟨rfl, rfl, .refl s⟩

theorem State.mctpAnswer_setEid (s : State) : s.mctpAnswer 1 = [0#8, 0#8, BitVec.ofNat 8 s.grp.mgmtEid, 0#8] := rfl

theorem State.mctpAnswer_getEid (s : State) : s.mctpAnswer 2 = [0#8, BitVec.ofNat 8 s.grp.mgmtEid, 0#8, 0#8] := rfl

/-- A command outside the base version's is answered with ERROR_UNSUPPORTED_CMD alone. -/
theorem State.mctpAnswer_unsupported (s : State) {cmd : Nat} (h : cmd = 0 ∨ 7 ≤ cmd) : s.mctpAnswer cmd = [5#8] := by
  unfold State.mctpAnswer
  split
  case h_7 => rfl
  all_goals omega

/-- Settles O52: each request is one reply on the state as it stands, but for the event popped, the register read, and the
ADMIN request that is forwarded or that the lead decides at once. -/
theorem managementPath : Obligations.ManagementPath := by
  intro s tag base n hn
  subst hn
  refine ⟨fun hbase => ?_, fun h0 hne off first count k c hc => ?_, fun fn key off hold => ⟨fun h0 => ?_, fun h0 hr => ?_,
    fun h0 r hr => ⟨fun hlead hroute => ?_, fun hlead hroute => ?_, fun hlead hheld hq => ⟨fun he hfn => ?_, ?_⟩⟩⟩,
    ⟨_, rfl, rfl, State.emit_only (by decide) (.refl s)⟩,
    fun clear addr => ⟨_, rfl, rfl, State.setGrp_only (by decide) (.refl s)⟩,
    fun inst cmd eid => ?_⟩
  · have hst := State.stale_false hbase
    have hans : ∀ {c : Instr} {cmd rc : Nat} {body : List Byte},
        exec c s = .next (s.mgmtAnswer cmd tag.toNat base.toNat rc body) →
        exec c s = .next (s.mgmtReply cmd tag.toNat rc body) := fun h => by rw [h, mgmtAnswer_current hst]
    refine ⟨fun l hl => ?_, fun e rest hf => ?_, fun hf => ?_, exec_replies (hans (exec_mgmtHealth s tag base)),
      fun off => ⟨fun ho ha hl => exec_mgmtRegRead_value tag hst ho ha hl,
        fun ho => exec_replies (exec_mgmtRegRead_bad tag hst ho)⟩,
      fun first count => ⟨fun h1 h16 => ?_, fun hcount => ?_⟩⟩
    · subst hl
      exact exec_replies (rc := 0) (hans rfl)
    · obtain ⟨t, ht, hhost, hout⟩ := exec_mgmtReadEvent_shown tag hst (State.popEvt_cons hf) ⟨rfl, rfl, rfl⟩
      exact ⟨t, ht, congrArg HostSt.evtFifo hhost, hout⟩
    · obtain ⟨t, ht, -, hout⟩ := exec_mgmtReadEvent_shown tag hst (State.popEvt_nil hf) ⟨rfl, rfl, rfl⟩
      exact ⟨t, ht, hout⟩
    · exact exec_replies (hans (exec_mgmtLogRead_rc s tag base first (by simp [h1, h16]) (rc := 0)))
    · refine exec_replies (hans (exec_mgmtLogRead_rc s tag base first (if_neg ?_) (rc := 3)))
      simp only [Bool.and_eq_true, decide_eq_true_eq]
      omega
  · exact exec_replies (exec_mgmt_stale tag (State.stale_true h0 hne) off first count k c hc)
  · subst h0
    exact exec_replies (exec_mgmtAdmin_noEpoch tag fn key off hold)
  · exact exec_replies (exec_mgmtAdmin_solo tag fn key off hold h0 hr)
  · obtain ⟨y, hy, hdst, htype, hpayload⟩ := State.awaits_sendSeq (s.adminForwarded tag.toNat) r.lead 0x1B
      (mgmtHead 3 0 s.grp.mgmtTag 0 base.toNat ++ (leBytes 1 fn.toNat ++ leBytes 8 key.toNat ++ leBytes 8 off.toNat)) none
    refine ⟨_, y, exec_mgmtAdmin_forward tag fn key off hold h0 hr hlead hroute, ?_, hy, hdst, htype, hpayload⟩
    rw [State.sendSeq_adminOut]
    exact List.mem_append_right _ (List.mem_singleton_self _)
  · obtain ⟨t, ht, hout, -⟩ := exec_replies (exec_mgmtAdmin_noRoute tag fn key off hold h0 hr hlead hroute)
    exact ⟨t, ht, hout⟩
  · refine ⟨_, exec_mgmtAdmin_decided tag fn key off hold h0 hr hlead hheld hq hfn, ?_⟩
    rw [State.adminGo_stale hr he]
    exact State.mgmtReply_out ..
  · rintro he rfl rfl rfl
    refine ⟨_, exec_mgmtAdmin_decided tag 9#8 0#64 0#64 hold h0 hr hlead hheld hq (by decide), ?_⟩
    rw [he, State.adminGo_query hr]
    exact State.mgmtReply_out ..
  · obtain ⟨hout, heid, honly⟩ := s.eidSet_spec cmd eid
    refine ⟨_, _, exec_mctpControlMessage s inst cmd eid, congrArg _ hout, heid, State.emit_only (by decide) honly,
      ?_, ?_, fun h => State.mctpAnswer_unsupported _ (h.imp_left fun h => by rw [h]; rfl)⟩
    · rintro rfl
      exact (State.mctpAnswer_setEid _).trans (by rw [heid, if_pos rfl, BitVec.ofNat_toNat, BitVec.setWidth_eq])
    · rintro rfl
      exact State.mctpAnswer_getEid _

end Sys2Proof.Machine

namespace Sys2Proof.Machine

/-! ## Tags of a doorbell mask (R81) -/

theorem mem_onesOf {n x k : Nat} : k ∈ onesOf n x ↔ k < n ∧ bitAt x k = true := by
  rw [onesOf, List.mem_filter, List.mem_range]

theorem nodup_onesOf (n x : Nat) : (onesOf n x).Nodup := List.nodup_range.filter _

theorem onesOf_two_pow : ∀ k < 32, onesOf 32 (2 ^ k) = [k] := by decide

/-- Commands with ordered uids below the next one stay so as one arrives. -/
theorem SqSt.uidsOk.arrive {s : State} (h : s.sq.uidsOk) (src : Src) (port : Bool) (ring : Nat) (cls : Cls) (f : Frame)
    (x : Stage) : (s.arrive src port ring cls f x).sq.uidsOk := by
  obtain ⟨hord, hnext⟩ := h
  refine ⟨?_, fun c hc => ?_⟩
  · change ((s.sq.cmds ++ [Cmd.new ..]).map Cmd.uid).Pairwise _
    rw [List.map_append, List.pairwise_append]
    refine ⟨hord, List.pairwise_singleton _ _, fun a ha b hb => ?_⟩
    obtain ⟨c, hc, rfl⟩ := List.mem_map.mp ha
    rw [List.mem_singleton.mp hb]
    exact hnext c hc
  · change c ∈ s.sq.cmds ++ [Cmd.new ..] at hc
    rcases List.mem_append.mp hc with hc | hc
    · exact Nat.lt_succ_of_lt (hnext c hc)
    · rw [List.mem_singleton.mp hc]
      exact Nat.lt_succ_self _

theorem SqSt.uidsOk.nodup {q : SqSt} (h : q.uidsOk) : (q.cmds.map Cmd.uid).Nodup := h.1.imp Nat.ne_of_lt

/-- The places of the fields that a doorbell bit may write. -/
def ringTagPlaces : List Nat := F.SQ_TQ_BUSY_TAGS.place :: F.SQ_ERR_STATUS_TAG_BUSY.place :: sqErrPlaces

/-- What doorbell bits keep: the commands held, their order, a TAG_BUSY set, and every field that they do not write. -/
structure Rung (s t : State) : Prop where
  cmds : s.sq.cmds ⊆ t.sq.cmds
  uids : s.sq.uidsOk → t.sq.uidsOk
  tagBusy : s.rd F.SQ_ERR_STATUS_TAG_BUSY = 1 → t.rd F.SQ_ERR_STATUS_TAG_BUSY = 1
  field : ∀ f : Field, f.place ∉ ringTagPlaces → ∀ i, t.rdi f i = s.rdi f i

theorem Rung.refl (s : State) : Rung s s := ⟨fun _ h => h, id, id, fun _ _ _ => rfl⟩

theorem Rung.trans {r s t : State} (h : Rung r s) (h' : Rung s t) : Rung r t where
  cmds _ hc := h'.cmds (h.cmds hc)
  uids := h'.uids ∘ h.uids
  tagBusy := h'.tagBusy ∘ h.tagBusy
  field f hf i := (h'.field f hf i).trans (h.field f hf i)

namespace State

variable {s : State} {port : Bool} {q k : Nat}

/-- The command that a doorbell bit brings. -/
def tagCmd (s : State) (port : Bool) (q k uid : Nat) : Cmd :=
  Cmd.new uid (.tag (BitVec.ofNat 6 q) (BitVec.ofNat 5 k)) port (s.rdi F.SQ_TQ_CFG_CRING q)
    (queueClass (s.rdi F.SQ_TQ_CFG_CLASS q)) Frame.none .fetching

theorem ringTag_busy (h : bitAt (s.rdi F.SQ_TQ_BUSY_TAGS q) k = true) :
    s.ringTag port q k = s.sqErr F.SQ_ERR_STATUS_TAG_BUSY 1 q := if_pos h

theorem ringTag_free (h : bitAt (s.rdi F.SQ_TQ_BUSY_TAGS q) k = false) : s.ringTag port q k =
    (s.wri F.SQ_TQ_BUSY_TAGS q (setBit (s.rdi F.SQ_TQ_BUSY_TAGS q) k)).arrive
      (.tag (BitVec.ofNat 6 q) (BitVec.ofNat 5 k)) port (s.rdi F.SQ_TQ_CFG_CRING q)
      (queueClass (s.rdi F.SQ_TQ_CFG_CLASS q)) Frame.none .fetching := by
  have hfield : ∀ (f : Field) v, f.place ≠ F.SQ_TQ_BUSY_TAGS.place →
      (s.wri F.SQ_TQ_BUSY_TAGS q v).rdi f q = s.rdi f q := fun f v hf => s.fget_wri q v q 0 hf
  unfold ringTag
  simp only [h, Bool.false_eq_true, if_false, hfield F.SQ_TQ_CFG_CRING _ (by decide),
    hfield F.SQ_TQ_CFG_CLASS _ (by decide)]

/-- The tag of a free bit stands last as a command. -/
theorem ringTag_cmds (h : bitAt (s.rdi F.SQ_TQ_BUSY_TAGS q) k = false) :
    (s.ringTag port q k).sq.cmds = s.sq.cmds ++ [s.tagCmd port q k s.sq.nextUid] := by
  rw [ringTag_free h]
  rfl

theorem rung_ringTag (s : State) (port : Bool) (q k : Nat) : Rung s (s.ringTag port q k) := by
  cases h : bitAt (s.rdi F.SQ_TQ_BUSY_TAGS q) k with
  | true =>
    rw [ringTag_busy h]
    refine ⟨fun _ h => h, id, fun _ => s.rd_sqErr_bit rfl (by decide), fun f hf i => ?_⟩
    simp only [ringTagPlaces, List.mem_cons, not_or] at hf
    exact s.fget_sqErr 1 q i 0 hf.2.1 hf.2.2
  | false =>
    refine ⟨?_, fun hu => ?_, fun ht => ?_, fun f hf i => ?_⟩
    · rw [ringTag_cmds h]
      exact List.subset_append_left _ _
    · rw [ringTag_free h]
      exact SqSt.uidsOk.arrive (s := s.wri F.SQ_TQ_BUSY_TAGS q _) hu ..
    · rw [ringTag_free h]
      exact (s.fget_wri q _ 0 0 (by decide)).trans ht
    · rw [ringTag_free h]
      simp only [ringTagPlaces, List.mem_cons, not_or] at hf
      exact s.fget_wri q _ i 0 hf.1

theorem ringTag_bits (s : State) (port : Bool) (q k : Nat) {i : Nat} (hi : i < 32) :
    bitAt ((s.ringTag port q k).rdi F.SQ_TQ_BUSY_TAGS q) i = (bitAt (s.rdi F.SQ_TQ_BUSY_TAGS q) i || decide (k = i)) := by
  cases h : bitAt (s.rdi F.SQ_TQ_BUSY_TAGS q) k with
  | true =>
    have hsame : (s.ringTag port q k).rdi F.SQ_TQ_BUSY_TAGS q = s.rdi F.SQ_TQ_BUSY_TAGS q := by
      rw [ringTag_busy h]
      exact s.fget_sqErr 1 q q 0 (by decide) (by decide)
    rw [hsame]
    by_cases hk : k = i
    · rw [← hk, h, Bool.true_or]
    · rw [decide_eq_false hk, Bool.or_false]
  | false =>
    have hset : (s.ringTag port q k).rdi F.SQ_TQ_BUSY_TAGS q = setBit (s.rdi F.SQ_TQ_BUSY_TAGS q) k % 2 ^ 32 := by
      rw [ringTag_free h]
      exact s.fget_fset_same F.SQ_TQ_BUSY_TAGS q 0 _
    rw [hset, bitAt_mod _ _ _ hi, bitAt_setBit]

/-- The doorbell bits of several tags, one after the other. -/
def ringTags (s : State) (port : Bool) (q : Nat) (l : List Nat) : State := l.foldl (fun s k => s.ringTag port q k) s

theorem rung_ringTags (s : State) (port : Bool) (q : Nat) (l : List Nat) : Rung s (s.ringTags port q l) := by
  induction l generalizing s with
  | nil => exact .refl s
  | cons k l ih => exact (s.rung_ringTag port q k).trans (ih _)

theorem ringTags_bits (s : State) (port : Bool) (q : Nat) (l : List Nat) {i : Nat} (hi : i < 32) :
    bitAt ((s.ringTags port q l).rdi F.SQ_TQ_BUSY_TAGS q) i = (bitAt (s.rdi F.SQ_TQ_BUSY_TAGS q) i || decide (i ∈ l)) := by
  induction l generalizing s with
  | nil => simp [ringTags]
  | cons k l ih =>
    refine (ih _).trans ?_
    rw [ringTag_bits _ _ _ _ hi, Bool.or_assoc]
    simp [eq_comm]

/-- The bit of a tag that stands once in the list meets the tag as it was before the doorbell. -/
theorem ringTags_at {l : List Nat} (hl : l.Nodup) (hk : k ∈ l) (hk32 : k < 32) : ∃ u : State, Rung s u ∧
    bitAt (u.rdi F.SQ_TQ_BUSY_TAGS q) k = bitAt (s.rdi F.SQ_TQ_BUSY_TAGS q) k ∧
    Rung (u.ringTag port q k) (s.ringTags port q l) := by
  obtain ⟨a, b, rfl⟩ := List.append_of_mem hk
  have hka : k ∉ a := fun ha => (List.nodup_append.mp hl).2.2 k ha k List.mem_cons_self rfl
  refine ⟨s.ringTags port q a, s.rung_ringTags .., ?_, ?_⟩
  · rw [ringTags_bits _ _ _ _ hk32, decide_eq_false hka, Bool.or_false]
  · rw [show s.ringTags port q (a ++ k :: b) = ((s.ringTags port q a).ringTag port q k).ringTags port q b from
      List.foldl_append]
    exact rung_ringTags ..

/-- A tag that was free stands among the commands after the doorbell. -/
theorem ringTags_arrived {l : List Nat} (hl : l.Nodup) (hk : k ∈ l) (hk32 : k < 32)
    (hfree : bitAt (s.rdi F.SQ_TQ_BUSY_TAGS q) k = false) :
    ∃ uid, s.tagCmd port q k uid ∈ (s.ringTags port q l).sq.cmds := by
  obtain ⟨u, hsu, hbit, hrest⟩ := ringTags_at (s := s) (port := port) (q := q) hl hk hk32
  refine ⟨u.sq.nextUid, hrest.cmds ?_⟩
  rw [ringTag_cmds (hbit.trans hfree)]
  have hcmd : u.tagCmd port q k u.sq.nextUid = s.tagCmd port q k u.sq.nextUid := by
    unfold tagCmd
    rw [hsu.field F.SQ_TQ_CFG_CRING (by decide), hsu.field F.SQ_TQ_CFG_CLASS (by decide)]
  rw [hcmd]
  exact List.mem_append_right _ (List.mem_singleton_self _)

/-- A tag that was busy sets TAG_BUSY. -/
theorem ringTags_tagBusy {l : List Nat} (hl : l.Nodup) (hk : k ∈ l) (hk32 : k < 32)
    (hbusy : bitAt (s.rdi F.SQ_TQ_BUSY_TAGS q) k = true) : (s.ringTags port q l).rd F.SQ_ERR_STATUS_TAG_BUSY = 1 := by
  obtain ⟨u, -, hbit, hrest⟩ := ringTags_at (s := s) (port := port) (q := q) hl hk hk32
  refine hrest.tagBusy ?_
  rw [ringTag_busy (hbit.trans hbusy)]
  exact u.rd_sqErr_bit rfl (by decide)

/-! ## The reads that a doorbell asks for (R61, R81) -/

/-- Asking for reads writes no register of the queues. -/
theorem fget_askAll (s : State) {f : Field} (hf : f ∈ allFields) (hb : f.block = 8) (i j : Nat) :
    s.askAll.fget f i j = s.fget f i j :=
  askAll_only (L := [.out, .sq]) (fun _ h => h) (Only.refl s) (.regs 8) (by decide) f hf hb i j

/-- A command held stays held with its tag, stage, port, ring and class as reads are asked for. -/
theorem askAll_mem {c : Cmd} (hu : s.sq.uidsOk) (hc : c ∈ s.sq.cmds) :
    ∃ n, { c with asked := n } ∈ s.askAll.sq.cmds := by
  have hh : s.Holds c := ⟨⟨c, hc, rfl⟩, fun d hd he => ⟨c.asked, List.inj_on_of_nodup_map hu.nodup hd hc he⟩⟩
  exact (askAll_spec hh).2.2.mem

theorem cmdByUid_mem {c : Cmd} (hu : s.sq.uidsOk) (hc : c ∈ s.sq.cmds) : s.cmdByUid c.uid = some c := by
  unfold cmdByUid
  cases hf : s.sq.cmds.find? (fun d => d.uid = c.uid) with
  | none => exact absurd (List.find?_eq_none.mp hf c hc) (by simp)
  | some d =>
    have hd : d.uid = c.uid := by simpa using List.find?_some hf
    rw [List.inj_on_of_nodup_map hu.nodup (List.mem_of_find?_eq_some hf) hc hd]

theorem askWhole_asked {c : Cmd} (h : c.asked ≠ 0) (addr len : Nat) : s.askWhole c addr len = s := if_neg (by simp [h])

/-- No read of the command waits, so none is asked for. -/
theorem askData_asksNothing {c : Cmd} (h : c.asksNothing = true) : s.askData c = s := by
  unfold askData
  unfold Cmd.asksNothing at h
  cases hs : c.stage with
  | fetching =>
    have ha : c.asked ≠ 0 := by simpa [hs] using h
    cases hsrc : c.src with
    | tag q t => exact askWhole_asked ha _ _
    | slot st => rfl
    | mgmt t => rfl
  | listWait => exact askWhole_asked (by simpa [hs] using h) _ _
  | started =>
    have hno : (c.pullsData && decide (c.asked < c.frame.length)) = false := by
      simpa only [hs, Bool.not_eq_true'] using h
    exact if_neg (ne_true_of_eq_false hno)
  | _ => rfl

/-- The reads of one command asked for, as the device holds it by then. -/
def askOne (s : State) (c : Cmd) : State :=
  match s.cmdByUid c.uid with
  | some d => s.askData d
  | none => s

theorem askAll_eq (s : State) : s.askAll = s.sq.cmds.foldl askOne s := rfl

theorem askOne_held {c : Cmd} (hu : s.sq.uidsOk) (hc : c ∈ s.sq.cmds) : s.askOne c = s.askData c := by
  unfold askOne
  rw [cmdByUid_mem hu hc]

theorem foldl_askOne_asksNothing {l : List Cmd} (hu : s.sq.uidsOk) (hl : l ⊆ s.sq.cmds)
    (h : ∀ c ∈ l, c.asksNothing = true) : l.foldl askOne s = s := by
  induction l with
  | nil => rfl
  | cons c l ih =>
    obtain ⟨hc, hl⟩ := List.cons_subset.mp hl
    rw [List.foldl_cons, askOne_held hu hc, askData_asksNothing (h c List.mem_cons_self)]
    exact ih hl fun d hd => h d (List.mem_cons_of_mem _ hd)

/-- While the reads of the older commands do not wait, only the newest command's are asked for. -/
theorem askAll_newest {l : List Cmd} {c : Cmd} (hu : s.sq.uidsOk) (hc : s.sq.cmds = l ++ [c])
    (h : ∀ d ∈ l, d.asksNothing = true) : s.askAll = s.askData c := by
  rw [askAll_eq, hc, List.foldl_append, foldl_askOne_asksNothing hu (by simp [hc]) h]
  exact askOne_held hu (by simp [hc])

/-- A tag that rings alone while no other read waits has its entry fetched from the submission ring. -/
theorem ringTag_fetches (hq : q < 64) (hk : k < 32) (hu : s.sq.uidsOk) (hfree : bitAt (s.rdi F.SQ_TQ_BUSY_TAGS q) k = false)
    (hidle : ∀ d ∈ s.sq.cmds, d.asksNothing = true) (hroom : 2 ≤ s.ingestFree) :
    Emitted (.dmaRead port (s.queueBase q + 64 * k) 64) s (s.ringTag port q k).askAll := by
  have hrung := s.rung_ringTag port q k
  have hout : (s.ringTag port q k).out = s.out := by
    rw [ringTag_free hfree]
    rfl
  have hbase : (s.ringTag port q k).queueBase q = s.queueBase q := by
    unfold queueBase
    rw [hrung.field F.SQ_TQ_BASE_LO_ADDR_LO (by decide), hrung.field F.SQ_TQ_BASE_HI_ADDR_HI (by decide)]
  have hspace : (s.ringTag port q k).ingestFree = s.ingestFree := by
    unfold ingestFree
    rw [ringTag_cmds hfree]
    simp [tagCmd, Cmd.new, Cmd.ingest, ceilDiv]
  have hask : (s.ringTag port q k).askData (s.tagCmd port q k s.sq.nextUid) =
      (s.ringTag port q k).askWhole (s.tagCmd port q k s.sq.nextUid) (s.queueBase q + 64 * k) 64 := by
    change (s.ringTag port q k).askWhole _ ((s.ringTag port q k).queueBase (BitVec.ofNat 6 q).toNat +
      64 * (BitVec.ofNat 5 k).toNat) 64 = _
    rw [BitVec.toNat_ofNat, BitVec.toNat_ofNat, Nat.mod_eq_of_lt hq, Nat.mod_eq_of_lt hk, hbase]
  have hgo : (s.ringTag port q k).askWhole (s.tagCmd port q k s.sq.nextUid) (s.queueBase q + 64 * k) 64 =
      ((s.ringTag port q k).setCmd { s.tagCmd port q k s.sq.nextUid with asked := 64 }).emit
        (.dmaRead port (s.queueBase q + 64 * k) 64) :=
    if_pos (by simpa [tagCmd, Cmd.new, hspace, ceilDiv] using hroom)
  rw [askAll_newest (hrung.uids hu) (ringTag_cmds hfree) hidle, hask, hgo]
  exact ⟨[_], congrArg (_ :: ·) hout, List.mem_singleton_self _⟩

end State

/-! ## The rows of tagged queues (R79, R81, R82) -/

section
variable {s : State} {port : Bool} {q : BitVec 6} {mask : Word} (hb : s.barsUp port = true) (hr : s.host.readyOnce = true)
include hb hr

theorem exec_tqDoorbell_disabled (h : s.rdi F.SQ_TQ_CFG_EN q.toNat = 0) :
    exec (.tqDoorbell port q mask) s = .next (s.sqErr F.SQ_ERR_STATUS_TQ_INVALID 1 q.toNat) := by
  change execTqDoorbell port q mask s = _
  unfold execTqDoorbell
  simp [hb, hr, h]

theorem exec_tqDoorbell_enabled (h : s.rdi F.SQ_TQ_CFG_EN q.toNat ≠ 0)
    (hport : s.dual = true → (s.rdi F.SQ_TQ_CFG_PORT q.toNat ≠ 0 ↔ port = true)) :
    exec (.tqDoorbell port q mask) s = .next (s.ringTags port q.toNat (onesOf 32 mask.toNat)).askAll := by
  have hown : (s.dual && (s.rdi F.SQ_TQ_CFG_PORT q.toNat != 0) != port) = false := by
    cases hd : s.dual with
    | false => rfl
    | true =>
      have hp : (s.rdi F.SQ_TQ_CFG_PORT q.toNat != 0) = port := Bool.eq_iff_iff.mpr (bne_iff_ne.trans (hport hd))
      rw [hp, bne_self_eq_false, Bool.and_false]
  change execTqDoorbell port q mask s = _
  unfold execTqDoorbell
  simp only [hb, hr, h, hown, decide_false, Bool.or_self, Bool.not_true, Bool.false_eq_true, if_false]
  rfl

end

section
variable {s : State} {q : BitVec 6} {tag : BitVec 5} {c : Cmd} (e : BitVec 512) (h : s.cmdOf (.tag q tag) = some c)
  (hs : c.stage = .fetching) (ha : c.asked ≠ 0)
include h hs ha

/-- The awaited entry becomes the command's frame, whose opcode's path is checked. -/
theorem exec_tagEntryFetched_awaited : exec (.tagEntryFetched q tag e) s =
    .next ((s.setCmd { c with frame := Frame.ofBits e.toNat, asked := 0 }).pathChecks
      { c with frame := Frame.ofBits e.toNat, asked := 0 } (tagOpcode (Frame.ofBits e.toNat).opcode)) := by
  have hr : c.reading .entry = true := by simp [Cmd.reading, hs, ha]
  change execTagEntryFetched q tag e s = _
  unfold execTagEntryFetched
  simp only [h, hr, if_true]

theorem exec_tagEntryFetched_ready (ho : tagOpcode (Frame.ofBits e.toNat).opcode = true)
    (hon : s.rd F.HIF_STATUS_READY = 1) :
    exec (.tagEntryFetched q tag e) s = .next ((s.setCmd { c with frame := Frame.ofBits e.toNat, asked := 0 }).setCmd
      { c with frame := Frame.ofBits e.toNat, asked := 0, stage := .ready }) := by
  have hready : (s.setCmd { c with frame := Frame.ofBits e.toNat, asked := 0 }).on F.HIF_STATUS_READY = true := by
    simp [State.on, hon]
  rw [exec_tagEntryFetched_awaited e h hs ha, State.pathChecks, ho, hready]
  rfl

theorem exec_tagEntryFetched_refused (ho : tagOpcode (Frame.ofBits e.toNat).opcode = false) :
    exec (.tagEntryFetched q tag e) s = .next ((s.setCmd { c with frame := Frame.ofBits e.toNat, asked := 0 }).fail
      { c with frame := Frame.ofBits e.toNat, asked := 0 } stOpcodePath) := by
  rw [exec_tagEntryFetched_awaited e h hs ha, State.pathChecks, ho]
  rfl

end

/-- Settles O20: each bit of the mask meets its tag as it was before the doorbell, and the fetched entry passes the checks of
its path or ends its command. -/
theorem taggedQueueSubmission : Obligations.TaggedQueueSubmission := by
  intro s port q
  have hq : q.toNat < 64 := q.isLt
  refine ⟨fun mask hb hr => ⟨fun hen => ?_, fun hu hen hport => ?_⟩,
    fun tag e c h hs ha => ⟨fun ho hon => ?_, fun ho hroom => ?_⟩⟩
  · exact ⟨_, exec_tqDoorbell_disabled hb hr hen, s.rd_sqErr_bit rfl (by decide), s.rd_sqErr_kind (by decide),
      s.rd_sqErr_id (by decide) (by omega), rfl, rfl⟩
  · have hnd := nodup_onesOf 32 mask.toNat
    have hrung := s.rung_ringTags port q.toNat (onesOf 32 mask.toNat)
    refine ⟨_, exec_tqDoorbell_enabled hb hr hen hport, fun k hk => ?_,
      fun k hk hbit hfree => ⟨?_, fun hm hidle hroom => ?_⟩, fun k hk hbit hbusy => ?_⟩
    · have hmem : decide (k ∈ onesOf 32 mask.toNat) = bitAt mask.toNat k := by simp [mem_onesOf, hk]
      rw [State.rdi, State.fget_askAll _ (by decide) rfl, State.ringTags_bits s port _ _ hk, hmem]
    · obtain ⟨uid, hc⟩ := State.ringTags_arrived (port := port) hnd (mem_onesOf.mpr ⟨hk, hbit⟩) hk hfree
      obtain ⟨n, hn⟩ := State.askAll_mem (hrung.uids hu) hc
      refine ⟨_, hn, ?_, rfl, rfl, rfl, rfl⟩
      change Src.tag (BitVec.ofNat 6 q.toNat) _ = _
      rw [BitVec.ofNat_toNat, BitVec.setWidth_eq]
    · rw [hm, onesOf_two_pow k hk]
      exact State.ringTag_fetches hq hk hu hfree hidle hroom
    · rw [State.rd, State.fget_askAll _ (by decide) rfl]
      exact State.ringTags_tagBusy hnd (mem_onesOf.mpr ⟨hk, hbit⟩) hk hbusy
  · have hsrc := State.cmdOf_src h
    have h1 := s.cmdOf_setCmd h (d := { c with frame := Frame.ofBits e.toNat, asked := 0 }) rfl hsrc
    exact ⟨_, exec_tagEntryFetched_ready e h hs ha ho hon, State.cmdOf_setCmd _ h1 rfl hsrc,
      fun d hd hn => State.setCmd_other _ _ d (State.setCmd_other _ _ d hd hn) hn, rfl⟩
  · have hrings := SameRings.setCmd s { c with frame := Frame.ofBits e.toNat, asked := 0 }
    refine ⟨_, exec_tagEntryFetched_refused e h hs ha ho, ?_⟩
    have hroom' := hroom.to (d := { c with frame := Frame.ofBits e.toNat, asked := 0 }) hrings rfl rfl
    exact (State.fail_completed _ _ stOpcodePath hroom').since hrings List.suffix_rfl

end Sys2Proof.Machine

namespace Sys2Proof.Machine

/-! ## Ring heads and the coalescing timer (R90, R92, R94) -/

theorem headOk_above {size head tail v : Nat} (h : size ≤ v) : headOk size head tail v = false := by
  unfold headOk
  rw [decide_eq_false (Nat.not_lt.mpr h), Bool.false_and]

namespace State

variable {s : State} {r : Nat}

/-- A ring that holds no completion back has none to post. -/
theorem drainHeld_none (h : s.heldCount r = 0) (n : Nat) : drainHeld n r s = s := by
  have hf : s.sq.held.find? (fun c => c.ring = r) = none := List.find?_eq_none.mpr (List.countP_eq_zero.mp h)
  cases n with
  | zero => rfl
  | succ n =>
    unfold drainHeld
    rw [hf]
    exact ite_self s

end State

section
variable {s : State} {port : Bool} {ring : BitVec 6} {v : Word} (hb : s.barsUp port = true) (hr : s.host.readyOnce = true)
include hb hr

theorem exec_crHeadDoorbell_valid (ho : s.ringOpen port ring.toNat = true)
    (hok : headOk (s.ringSize ring.toNat) (s.rdi F.SQ_CR_STATE_HEAD ring.toNat) (s.rdi F.SQ_CR_STATE_TAIL ring.toNat)
      v.toNat = true)
    (hheld : s.heldCount ring.toNat = 0) (hw : ∀ c ∈ s.sq.cmds, s.settleable c = false) :
    exec (.crHeadDoorbell port ring v) s = .next (s.wri F.SQ_CR_STATE_HEAD ring.toNat v.toNat) := by
  have hdrain : ∀ n, State.drainHeld n ring.toNat (s.wri F.SQ_CR_STATE_HEAD ring.toNat v.toNat) =
      s.wri F.SQ_CR_STATE_HEAD ring.toNat v.toNat := State.drainHeld_none hheld
  have hsettle : ∀ n, State.settle n (s.wri F.SQ_CR_STATE_HEAD ring.toNat v.toNat) =
      s.wri F.SQ_CR_STATE_HEAD ring.toNat v.toNat := State.settle_none hw
  change execCrHeadDoorbell port ring v s = _
  unfold execCrHeadDoorbell
  simp only [hb, hr, ho, hok, hdrain, hsettle, Bool.not_true, Bool.and_self, Bool.false_eq_true, if_false, if_true]

theorem exec_crHeadDoorbell_invalid (h : (s.ringOpen port ring.toNat && headOk (s.ringSize ring.toNat)
      (s.rdi F.SQ_CR_STATE_HEAD ring.toNat) (s.rdi F.SQ_CR_STATE_TAIL ring.toNat) v.toNat) = false) :
    exec (.crHeadDoorbell port ring v) s = .next (s.sqErr F.SQ_ERR_STATUS_HEAD_INVALID 2 ring.toNat) := by
  change execCrHeadDoorbell port ring v s = _
  unfold execCrHeadDoorbell
  simp only [hb, hr, h, Bool.not_true, Bool.false_eq_true, if_false]

end

/-- The count of entries since the last vector of a ring begins anew (R94). -/
def State.clearCoal (s : State) (r : Nat) : State := { s with sq := { s.sq with coal := Store.put 0 s.sq.coal r 0 } }

theorem exec_coalTimerExpiry {s : State} {ring : BitVec 6} (ht : s.rdi F.SQ_CR_COAL_TIME ring.toNat ≠ 0)
    (hc : Store.get 0 s.sq.coal ring.toNat ≠ 0) : exec (.coalTimerExpiry ring) s =
      .next ((s.clearCoal ring.toNat).signal (s.boundPort (s.rdi F.SQ_CR_CFG_PORT ring.toNat)) ring.toNat) := by
  change execCoalTimerExpiry ring s = _
  unfold execCoalTimerExpiry
  simp only [ht, hc, decide_false, Bool.or_self, Bool.false_eq_true, if_false]
  rfl

/-! ## Dispatch slots (R84, R85) -/

namespace State

variable {s : State} {n : Nat}

/-- What makes a command eligible does not read the urgent credit. -/
theorem eligible_credit (s : State) (n : Nat) (c : Cmd) : (s.wr F.SQ_ARB_URGENT_CREDIT n).eligible c = s.eligible c := by
  have hother : ∀ f : Field, f.place ≠ F.SQ_ARB_URGENT_CREDIT.place → (s.wr F.SQ_ARB_URGENT_CREDIT n).rd f = s.rd f :=
    fun f hf => rd_wr_other s hf n
  unfold eligible meterOk on
  rw [hother F.HIF_ING_LEVEL_HIGH_STATE (by decide), hother F.SQ_THROTTLE_STATE (by decide),
    hother F.SQ_ADMIT_LIMIT_UNITS (by decide)]
  rfl

theorem firstOf_none (h : ∀ c ∈ s.sq.cmds, s.eligible c = false) (k : Cls) : s.firstOf k = none :=
  List.find?_eq_none.mpr fun c hc => by simp [h c hc]

section
variable (hn : n = Nat.min (s.rd F.SQ_ARB_URGENT_CREDIT + s.rd F.SQ_ARB_URGENT_CAP) (s.rd F.SQ_ARB_URGENT_BURST * 100))
include hn

/-- With 100 of credit the first eligible urgent command is admitted for 100. -/
theorem dispatchSlot_urgent {c : Cmd} (h100 : 100 ≤ n) (h : s.firstOf .urgent = some c) :
    s.dispatchSlot = (s.wr F.SQ_ARB_URGENT_CREDIT (n - 100)).admitCmd c := by
  unfold dispatchSlot
  simp only [← hn, ge_iff_le, h100, if_true, h]

/-- With no eligible command of any class, the slot leaves the credit it has gained and nothing else. -/
theorem dispatchSlot_idle (h : ∀ c ∈ s.sq.cmds, s.eligible c = false) :
    s.dispatchSlot = s.wr F.SQ_ARB_URGENT_CREDIT n := by
  have hafter : ∀ k, (s.wr F.SQ_ARB_URGENT_CREDIT n).firstOf k = none :=
    firstOf_none fun c hc => (s.eligible_credit n c).trans (h c hc)
  unfold dispatchSlot
  simp only [← hn, firstOf_none h, ite_self, hafter, Option.isSome_none, List.filter_false]
  rfl

end

end State

theorem exec_arbDispatchSlot_brace {s : State} (h : s.rd F.PWR_STATUS_BRACE ≠ 0) : exec .arbDispatchSlot s = .next s :=
  congrArg Host.Outcome.next (if_pos (bne_iff_ne.mpr h))

theorem exec_arbDispatchSlot {s : State} (h : s.rd F.PWR_STATUS_BRACE = 0) :
    exec .arbDispatchSlot s = .next s.dispatchSlot :=
  congrArg Host.Outcome.next (if_neg (by simp [State.on, h]))

/-! ## The log's copy on the medium (R127, R150) -/

namespace State

/-- Units stored one after the other, their ids listed behind those of `a`. -/
def storeUnits (a : State × List Nat) (us : List UnitRec) : State × List Nat :=
  us.foldl (fun a u => ((a.1.addUnit u).1, a.2 ++ [(a.1.addUnit u).2])) a

theorem addUnits_eq (s : State) (us : List UnitRec) : s.addUnits us = storeUnits (s, []) us := rfl

theorem storeUnits_spec (us : List UnitRec) (a : State × List Nat) :
    (∃ o, (storeUnits a us).1 = { a.1 with obj := o }) ∧ (storeUnits a us).2.length = a.2.length + us.length := by
  induction us generalizing a with
  | nil => exact ⟨⟨a.1.obj, rfl⟩, rfl⟩
  | cons u us ih =>
    obtain ⟨⟨o, ho⟩, hl⟩ := ih ((a.1.addUnit u).1, a.2 ++ [(a.1.addUnit u).2])
    refine ⟨⟨o, ho⟩, hl.trans ?_⟩
    rw [List.length_append, List.length_singleton, List.length_cons]
    omega

/-- Units stored change the objects' part alone, and each has an id. -/
theorem addUnits_spec (s : State) (us : List UnitRec) :
    (∃ o, (s.addUnits us).1 = { s with obj := o }) ∧ (s.addUnits us).2.length = us.length := by
  obtain ⟨ho, hl⟩ := storeUnits_spec us (s, [])
  exact ⟨ho, hl.trans (Nat.zero_add _)⟩

/-- The staged entries stand among the medium's (R127). -/
def logMoved (s : State) : State :=
  { s with life := { s.life with medium := newestLog (s.life.medium ++ s.life.staging), staging := [] } }

theorem logMoved_medium (s : State) : s.logMoved.life.medium = newestLog (s.life.medium ++ s.life.staging) := by
  rw [logMoved]

/-- Units that Tansy releases take places of the gather buffer (R150). -/
def gatherTaken (s : State) (n : Nat) : State := { s with obj := { s.obj with gatherFree := s.obj.gatherFree - n } }

end State

theorem exec_logCopy_kept {s : State} (hm : s.medium.state = mReady) (h : s.tMode = false ∨ s.tape.protect = true) :
    exec .logCopy s = .next s.logMoved := by
  have hoff : (!s.logMoved.tMode || s.logMoved.tape.protect) = true := by
    rcases h with h | h
    · rw [show s.logMoved.tMode = false from h]
      rfl
    · rw [show s.logMoved.tape.protect = true from h, Bool.or_true]
  change execLogCopy s = _
  unfold execLogCopy
  rw [if_pos hm]
  exact if_pos hoff

/-- On a writable tape the staged entries become units for the data sets. -/
theorem exec_logCopy_tape {s : State} (hm : s.medium.state = mReady) (ht : s.tMode = true) (hp : s.tape.protect = false) :
    exec .logCopy s = .next (State.tapeTake
      ((s.logMoved.addUnits (logUnits s.life.staging)).1.gatherTaken
        (s.logMoved.addUnits (logUnits s.life.staging)).2.length)
      (s.logMoved.addUnits (logUnits s.life.staging)).2) := by
  have hon : ¬ (!s.logMoved.tMode || s.logMoved.tape.protect) = true := by
    rw [show s.logMoved.tMode = true from ht, show s.logMoved.tape.protect = false from hp]
    decide
  change execLogCopy s = _
  unfold execLogCopy
  rw [if_pos hm]
  exact if_neg hon

/-- Settles O22: each row is one operation of the queues on the state as it stands, and the log's copy moves the staged
entries and hands the tape their units. -/
theorem ringsArbiterAndWindows : Obligations.RingsArbiterAndWindows := by
  intro s port ring v
  have hid : ring.toNat < 2 ^ 20 := by omega
  refine ⟨fun hb hr ho => ⟨fun hok hheld hw hv => ?_, fun hv => ?_⟩, fun ht hc => ?_, exec_arbDispatchSlot_brace,
    fun hbr n hn => ⟨fun he hlt => ?_, fun c h100 hc => ?_⟩, ⟨_, rfl, rfl, rfl, rfl, rfl, rfl⟩, fun hm h => ?_,
    fun hm ht hp => ?_⟩
  · have hnone : ∀ c ∈ s.sq.cmds, s.settleable c = false := by simpa using hw
    exact ⟨_, exec_crHeadDoorbell_valid hb hr ho hok hheld hnone,
      (s.fget_fset_same F.SQ_CR_STATE_HEAD _ 0 _).trans (Nat.mod_eq_of_lt hv), s.fget_wri _ _ _ 0 (by decide), rfl, rfl⟩
  · have hbad := exec_crHeadDoorbell_invalid (port := port) (v := v) hb hr
      (by rw [headOk_above hv, Bool.and_false])
    exact ⟨_, hbad, s.rd_sqErr_bit rfl (by decide), s.rd_sqErr_id (by decide) hid, s.rd_sqErr_kind (by decide),
      s.fget_sqErr 2 _ _ 0 (by decide) (by decide), rfl⟩
  · exact ⟨_, exec_coalTimerExpiry ht hc, Store.get_put_same 0 s.sq.coal _ 0,
      fun k hk => Store.get_put_other 0 0 s.sq.coal 0 hk, rfl, rfl, rfl, rfl⟩
  · have hcredit : (s.wr F.SQ_ARB_URGENT_CREDIT n).rd F.SQ_ARB_URGENT_CREDIT = n % 2 ^ 13 := s.rd_wr_same (by decide) n
    rw [exec_arbDispatchSlot hbr, State.dispatchSlot_idle hn he]
    exact ⟨_, rfl, hcredit.trans (Nat.mod_eq_of_lt hlt), rfl⟩
  · rw [exec_arbDispatchSlot hbr, State.dispatchSlot_urgent hn h100 hc]
  · exact ⟨_, exec_logCopy_kept hm h, rfl, s.logMoved_medium, rfl, rfl⟩
  · obtain ⟨⟨o, ho⟩, hlen⟩ := s.logMoved.addUnits_spec (logUnits s.life.staging)
    have hlife : (s.logMoved.addUnits (logUnits s.life.staging)).1.life = s.logMoved.life := by rw [ho]
    have htape : (s.logMoved.addUnits (logUnits s.life.staging)).1.tape = s.tape := by rw [ho]; rfl
    have hregs : (s.logMoved.addUnits (logUnits s.life.staging)).1.regs = s.regs := by rw [ho]; rfl
    exact ⟨_, _, exec_logCopy_tape hm ht hp, hlen, congrArg LifeSt.staging hlife,
      (congrArg LifeSt.medium hlife).trans s.logMoved_medium, htape, hregs⟩

end Sys2Proof.Machine

namespace Sys2Proof.Machine

/-! ## Verify decisions and what follows them (R160 to R168) -/

/-- The fields that a verify decision writes before anything follows from it. -/
def decisionFields : List Field := [F.FMT_T_ERR_STATUS_DEADLINE, F.LANE_SYNC_MISS_COUNT]

theorem decisionFields_mem : ∀ f ∈ decisionFields, f ∈ allFields := by decide +kernel

theorem decisionFields_block : ∀ f ∈ decisionFields, f.block = 16 ∨ f.block = 20 := by decide

theorem decisionFields_notEvent : ∀ f ∈ decisionFields, f.place ∉ eventPlaces := by decide

/-- No decision is taken between `s` and `t`: the tracks' histories and the cells are the same, and no copy begins to await
its decision, nor a codeword to wait. -/
structure Undecided (s t : State) : Prop where
  last16 : t.tape.last16 = s.tape.last16
  awaiting : t.tape.awaiting ⊆ s.tape.awaiting
  waiting : t.det.waiting ⊆ s.det.waiting
  cells : t.det.cells = s.det.cells
  fields : ∀ f ∈ decisionFields, ∀ i j, t.fget f i j = s.fget f i j

namespace Undecided

variable {s t u : State}

theorem refl (s : State) : Undecided s s := ⟨rfl, fun _ h => h, fun _ h => h, rfl, fun _ _ _ _ => rfl⟩

theorem trans (h : Undecided s t) (h' : Undecided t u) : Undecided s u where
  last16 := h'.last16.trans h.last16
  awaiting := fun _ hc => h.awaiting (h'.awaiting hc)
  waiting := fun _ hj => h.waiting (h'.waiting hj)
  cells := h'.cells.trans h.cells
  fields := fun f hf i j => (h'.fields f hf i j).trans (h.fields f hf i j)

/-- What touches neither the tape's nor the detectors' part, nor their registers, takes no decision. -/
theorem of_only {L : List Part} (h : Only L s t) (ht : Part.tape ∉ L) (hd : Part.det ∉ L) (h16 : Part.regs 16 ∉ L)
    (h20 : Part.regs 20 ∉ L) : Undecided s t := by
  have htape : t.tape = s.tape := h .tape ht
  have hdet : t.det = s.det := h .det hd
  refine ⟨by rw [htape], by rw [htape]; exact fun _ h => h, by rw [hdet]; exact fun _ h => h, by rw [hdet],
    fun f hf => h.fget (decisionFields_mem f hf) ?_⟩
  rcases decisionFields_block f hf with e | e <;> rwa [e]

/-- A state whose registers and detectors are another's, and whose tape takes no decision. -/
theorem of_parts (hr : t.regs = s.regs) (hl : t.tape.last16 = s.tape.last16) (ha : t.tape.awaiting ⊆ s.tape.awaiting)
    (hd : t.det = s.det) : Undecided s t :=
  ⟨hl, ha, by rw [hd]; exact fun _ h => h, by rw [hd], fun f _ i j => by unfold State.fget; rw [hr]⟩

theorem fset {f : Field} {i j v : Nat} (hf : ∀ g ∈ decisionFields, g.place ≠ f.place) (h : Undecided s t) :
    Undecided s (t.fset f i j v) :=
  h.trans ⟨rfl, fun _ h => h, fun _ h => h, rfl, fun g hg k l => t.fget_fset_other i j v k l (hf g hg)⟩

theorem wr {f : Field} {v : Nat} (hf : ∀ g ∈ decisionFields, g.place ≠ f.place) (h : Undecided s t) :
    Undecided s (t.wr f v) := h.fset hf

theorem inc {f : Field} (hf : ∀ g ∈ decisionFields, g.place ≠ f.place) (h : Undecided s t) : Undecided s (t.inc f) :=
  h.fset hf

theorem raise {a b c d : Nat} (h : Undecided s t) : Undecided s (t.raise a b c d) :=
  h.trans (of_only (L := partsOfEvent) (State.raise_only (by decide) (.refl t)) (by decide) (by decide) (by decide)
    (by decide))

theorem setTape {x : TapeSt} (hl : x.last16 = t.tape.last16) (ha : x.awaiting ⊆ t.tape.awaiting) (h : Undecided s t) :
    Undecided s (t.setTape x) := h.trans (of_parts rfl hl ha rfl)

theorem foldl {β : Type} {f : State → β → State} (l : List β) (h : Undecided s t)
    (hf : ∀ (t : State) (x : β), Undecided s t → Undecided s (f t x)) : Undecided s (l.foldl f t) := by
  induction l generalizing t with
  | nil => exact h
  | cons x l ih => exact ih (hf _ _ h)

end Undecided

namespace State

variable {s0 s : State}

theorem setRingLevel_undecided {lane n : Nat} (h : Undecided s0 s) : Undecided s0 (s.setRingLevel lane n) := by
  have hlane : ∀ (t : State) (k : Nat) (l : LaneSt), Undecided t (t.setLane k l) := fun t k l =>
    ⟨rfl, fun _ h => h, fun _ h => h, rfl, fun _ _ _ _ => rfl⟩
  unfold setRingLevel
  extract_lets v s1 w
  have h1 : Undecided s0 s1 := .fset (by decide) (h.trans (hlane _ _ _))
  split
  · exact h1
  · exact .fset (by decide) (h1.trans (hlane _ _ _))

theorem freeSamples_undecided {j : Job} (h : Undecided s0 s) : Undecided s0 (s.freeSamples j) := by
  unfold freeSamples
  split
  · exact h.trans ⟨rfl, fun _ h => h, fun _ h => h, rfl, fun _ _ _ _ => rfl⟩
  · exact setRingLevel_undecided h

theorem failSlots_undecided {d : Nat} (h : Undecided s0 s) : Undecided s0 (s.failSlots d) := by
  unfold failSlots
  refine Undecided.foldl _ (h.trans ?_) fun t j h => freeSamples_undecided h
  exact ⟨rfl, List.filter_sublist.subset, List.filter_sublist.subset, rfl, fun _ _ _ _ => rfl⟩

theorem fail_undecided {c : Cmd} {status : Nat} (h : Undecided s0 s) : Undecided s0 (s.fail c status) :=
  h.trans (.of_only (L := partsOfPost) (fail_only (by decide) (.refl s)) (by decide) (by decide) (by decide) (by decide))

theorem syncLevel_undecided (h : Undecided s0 s) : Undecided s0 s.syncLevel := h.wr (by decide)

theorem endTapeCmds_undecided {status : Nat} {early : Bool} (h : Undecided s0 s) :
    Undecided s0 (s.endTapeCmds status early) := by
  unfold endTapeCmds
  extract_lets bad cs t
  have ht : Undecided s0 t := .foldl _ h fun t c h => fail_undecided (h.trans (.of_parts rfl rfl (fun _ h => h) rfl))
  exact syncLevel_undecided (ht.setTape rfl (List.nil_subset _))

theorem failWriting_undecided {why : Nat} (h : Undecided s0 s) : Undecided s0 (s.failWriting why) := by
  unfold failWriting
  split
  · exact h
  · extract_lets s1 m w s2 s3
    have h1 : Undecided s0 s1 := .wr (by decide) (.wr (by decide) h)
    have h2 : Undecided s0 s2 := h1.trans (.of_parts rfl rfl (fun _ h => h) rfl)
    exact endTapeCmds_undecided h2.raise

theorem reissue_undecided {part n : Nat} {verify : Bool} (h : Undecided s0 s) :
    Undecided s0 (s.reissue part n verify) := by
  unfold reissue
  split
  · exact h
  · extract_lets d t s1 s2 s3
    have h1 : Undecided s0 s1 := h.setTape rfl (fun _ h => h)
    have h3 : Undecided s0 s3 := .wr (by decide) (h1.setTape rfl (fun _ h => h))
    split
    · exact h1
    · split
      · exact failWriting_undecided h1
      · split
        · exact h3.raise
        · exact h3

theorem haltWriting_undecided {d : Nat} {atEnd : Bool} (h : Undecided s0 s) : Undecided s0 (s.haltWriting d atEnd) := by
  unfold haltWriting
  extract_lets s1 begun t s2 m w s3 s4 s5 s6
  have h1 : Undecided s0 s1 := .wr (by decide) (failSlots_undecided h)
  have h2 : Undecided s0 s2 := h1.setTape rfl (fun _ h => h)
  have h3 : Undecided s0 s3 := h2.trans (.of_parts rfl rfl (fun _ h => h) rfl)
  have h4 : Undecided s0 s4 := by
    unfold s4
    split
    · exact h3
    · exact .wr (by decide) h3
  have h5 : Undecided s0 s5 := .inc (by decide) (.foldl _ h4 fun t d h => reissue_undecided h)
  have h6 : Undecided s0 s6 := .wr (by decide) h5
  have h7 : Only [.ctl, .pwr, .regs 32] s6 ((s6.tapeRamp 0).ask 2 0 2) :=
    ask_only (by decide) (tapeRamp_only (by decide) (.refl s6))
  exact h6.trans (.of_only h7 (by decide) (by decide) (by decide) (by decide))

theorem disturbAt_undecided {cause d : Nat} (h : Undecided s0 s) : Undecided s0 (s.disturbAt cause d) := by
  unfold disturbAt
  split
  · exact h
  · extract_lets first s1 t s2 s3
    have h1 : Undecided s0 s1 := .wr (by decide) (.inc (by decide) h)
    have h2 : Undecided s0 s2 := h1.setTape rfl (fun _ h => h)
    have h3 : Undecided s0 s3 := (haltWriting_undecided h2).raise
    split
    · exact failWriting_undecided h3
    · exact h3

/-- A copy that fails verify takes no decision on another (R164). -/
theorem verifyFail_undecided {c : Copy} (h : Undecided s0 s) : Undecided s0 (s.verifyFail c) := by
  unfold verifyFail
  extract_lets n t s1 s2
  have h1 : Undecided s0 s1 := h.setTape rfl (fun _ h => h)
  have h2 : Undecided s0 s2 := by
    unfold s2
    split
    · exact h1
    · extract_lets f s3
      have h3 : Undecided s0 s3 := h1.setTape rfl (fun _ h => h)
      split
      · exact reissue_undecided (h3.wr (by decide))
      · exact h3.setTape rfl (fun _ h => h)
  split
  · exact disturbAt_undecided h2
  · exact h2

theorem addSet_undecided {d : DataSet} (h : Undecided s0 s) : Undecided s0 (s.addSet d) :=
  syncLevel_undecided (h.setTape rfl (fun _ h => h))

theorem addIndex_undecided {d : DataSet} (h : Undecided s0 s) : Undecided s0 (s.addIndex d) := by
  unfold addIndex
  exact addSet_undecided (h.setTape rfl (fun _ h => h))

theorem setUnit_undecided {k : Nat} {u : UnitRec} (h : Undecided s0 s) : Undecided s0 (s.setUnit k u) :=
  h.trans (.of_only (L := [.obj]) (setUnit_only (by decide) (.refl s)) (by decide) (by decide) (by decide) (by decide))

theorem openSet_undecided (h : Undecided s0 s) : Undecided s0 s.openSet := by
  unfold openSet
  exact .wr (by decide) (h.setTape rfl (fun _ h => h))

theorem closeSet_undecided (h : Undecided s0 s) : Undecided s0 s.closeSet := by
  unfold closeSet
  split
  · exact h
  · split
    · exact h
    · exact syncLevel_undecided (h.trans (.of_parts rfl rfl (fun _ h => h) rfl))

theorem placeUnit_undecided {id : Nat} (h : Undecided s0 s) : Undecided s0 (s.placeUnit id).1 := by
  unfold placeUnit
  extract_lets s1 s2
  have h1 : Undecided s0 s1 := by
    unfold s1
    split
    · exact openSet_undecided h
    · split
      · exact h
      · exact closeSet_undecided h
  have h2 : Undecided s0 s2 := by
    unfold s2
    split
    · exact openSet_undecided h1
    · exact h1
  split
  · exact h2
  · split
    · exact h2
    · extract_lets s3
      have h3 : Undecided s0 s3 := h2.setTape rfl (fun _ h => h)
      dsimp only
      split
      · exact closeSet_undecided h3
      · exact h3

theorem pumpGather_undecided (n : Nat) (h : Undecided s0 s) : Undecided s0 (pumpGather n s) := by
  induction n generalizing s with
  | zero => exact h
  | succ n ih =>
    unfold pumpGather
    split
    · exact h
    · next id rest _ =>
      have hp : Undecided s0 (s.placeUnit id).1 := placeUnit_undecided h
      split
      · next s' he =>
        rw [he] at hp
        exact ih (hp.trans (.of_parts rfl rfl (fun _ h => h) rfl))
      · next s' he =>
        rw [he] at hp
        exact hp

theorem passFrontier_undecided (n : Nat) (h : Undecided s0 s) : Undecided s0 (passFrontier n s) := by
  induction n generalizing s with
  | zero => exact h
  | succ n ih =>
    unfold passFrontier
    split
    · exact h
    · next d rest _ =>
      split
      · exact h
      · extract_lets t s1 s2 s3 x s4
        have h1 : Undecided s0 s1 := h.setTape rfl (fun _ h => h)
        have h2 : Undecided s0 s2 := by
          refine .foldl _ h1 fun t i h => ?_
          dsimp only
          split
          · exact h
          · exact setUnit_undecided h
        have h3 : Undecided s0 s3 := .wr (by decide) h2
        have h4 : Undecided s0 s4 := by
          unfold s4
          split
          · exact addIndex_undecided (h3.setTape rfl (fun _ h => h))
          · split
            · exact h3.setTape rfl (fun _ h => h)
            · exact h3
        exact ih h4

/-- A copy that passes verify takes no decision on another (R162). -/
theorem verifyPass_undecided {c : Copy} (h : Undecided s0 s) : Undecided s0 (s.verifyPass c) := by
  unfold verifyPass
  extract_lets s1 s2
  have h1 : Undecided s0 s1 := h.setTape rfl (fun _ h => h)
  exact syncLevel_undecided (pumpGather_undecided _ (passFrontier_undecided _ h1))

variable (s : State)

/-- A track's history with one more outcome (R168). -/
def noted (t : Nat) (fail : Bool) : State :=
  s.setTape { s.tape with
    last16 := Store.put 0 s.tape.last16 t ((Store.get 0 s.tape.last16 t * 2 + b2n fail) % 65536) }

theorem markTrack_undecided (t : Nat) (fail : Bool) : Undecided (s.noted t fail) (s.markTrack t fail) := by
  unfold markTrack
  extract_lets h x s1 n b sus dead s2 s3
  change Undecided s1 _
  have hsus : ∀ g ∈ decisionFields, g.place ≠ sus.place := by unfold sus; split <;> decide
  have hdead : ∀ g ∈ decisionFields, g.place ≠ dead.place := by unfold dead; split <;> decide
  have h2 : Undecided s1 s2 := by
    unfold s2
    split
    · exact .raise (.wr hsus (.refl s1))
    · split
      · exact .wr hsus (.refl s1)
      · exact .refl s1
  have h3 : Undecided s1 s3 := .raise (.wr (by decide) (.wr hdead h2))
  split
  · split
    · exact failWriting_undecided h3
    · exact h3
  · exact h2

/-- A decision is taken on a copy: it awaits none any more, its track notes the outcome, and a late one is told (R163). -/
def decided (c : Copy) (pass late : Bool) : State :=
  let s := s.setTape { s.tape with awaiting := dropFirst (fun x => x = c) s.tape.awaiting }
  (if late then s.wr F.FMT_T_ERR_STATUS_DEADLINE 1 else s).noted c.track (!(pass && !late))

variable {s} in
/-- What follows from a decision is no other decision. -/
theorem verifyDecide_undecided {c : Copy} (h : c ∈ s.tape.awaiting) (pass late : Bool) :
    Undecided (s.decided c pass late) (s.verifyDecide c pass late) := by
  unfold verifyDecide
  rw [if_neg (by simpa using h)]
  extract_lets x s1 s2 ok s3
  have h3 : Undecided (s.decided c pass late) s3 := s2.markTrack_undecided _ _
  split
  · exact h3
  · split
    · exact verifyPass_undecided h3
    · exact verifyFail_undecided h3

theorem decided_last16 (c : Copy) (pass late : Bool) : Store.get 0 (s.decided c pass late).tape.last16 c.track =
    (Store.get 0 s.tape.last16 c.track * 2 + b2n (!(pass && !late))) % 65536 := by
  cases late <;> exact Store.get_put_same ..

theorem decided_awaiting (c : Copy) (pass late : Bool) :
    (s.decided c pass late).tape.awaiting = dropFirst (fun x => x = c) s.tape.awaiting := by
  cases late <;> rfl

theorem decided_deadline (c : Copy) (pass : Bool) : (s.decided c pass true).rd F.FMT_T_ERR_STATUS_DEADLINE = 1 :=
  fget_fset_same _ _ _ _ _

theorem decided_det (c : Copy) (pass late : Bool) : (s.decided c pass late).det = s.det := by cases late <;> rfl

variable {s} in
/-- After the decision on a copy its track holds one more outcome (R168). -/
theorem verifyDecide_last16 {c : Copy} (h : c ∈ s.tape.awaiting) (pass late : Bool) :
    Store.get 0 (s.verifyDecide c pass late).tape.last16 c.track =
      (Store.get 0 s.tape.last16 c.track * 2 + b2n (!(pass && !late))) % 65536 := by
  rw [(verifyDecide_undecided h pass late).last16, decided_last16]

end State

end Sys2Proof.Machine

namespace Sys2Proof.Machine

/-! ## Data sets closed, begun and re-issued (R151, R165 to R167) -/

namespace State

variable {s : State} {d : DataSet}

theorem openOne_eq_some {t : TapeSt} : t.openOne = some d ↔ t.sets.getLast? = some d ∧ d.closed = false := by
  unfold TapeSt.openOne
  split
  · next e he =>
    rw [he, Option.some.injEq]
    split
    · next hc =>
      refine ⟨fun h => (nomatch h), fun ⟨h, ho⟩ => ?_⟩
      rw [h, ho] at hc
      cases hc
    · next hc =>
      rw [Option.some.injEq]
      exact ⟨fun h => ⟨h, h ▸ Bool.eq_false_iff.mpr hc⟩, fun h => h.1⟩
  · next he =>
    rw [he]
    exact ⟨fun h => (nomatch h), fun h => (nomatch h.1)⟩

theorem closeSet_none (h : s.tape.openOne = none) : s.closeSet = s := by
  unfold closeSet
  rw [h]

/-- The open data set closed: it is sealed, and the period counts one more closed set (R151, R186). -/
def setClosed (s : State) (d : DataSet) : State :=
  (({ s with mot := { s.mot with stopClosed := s.mot.stopClosed + b2n s.mot.stopped } } : State).setTape
    { s.tape.mapSet d.part d.num s.sealSet with closedHist := bumpHead 1 s.tape.closedHist }).syncLevel

theorem closeSet_open (h : s.tape.openOne = some d) (hu : d.units ≠ []) (hr : s.tape.hasRoom = true) :
    s.closeSet = s.setClosed d := by
  unfold closeSet
  rw [h]
  exact if_neg (by simp [hu, hr])

theorem setClosed_sets (d : DataSet) : (s.setClosed d).tape.sets =
    s.tape.sets.map (fun e => if e.part = d.part && e.num = d.num then s.sealSet e else e) := rfl

theorem setClosed_only (d : DataSet) : Only [.tape, .mot, .regs 32] s (s.setClosed d) :=
  syncLevel_only (by decide) (setTape_only (by decide) (Only.updMot (by decide) (.refl s)))

theorem mem_setClosed (h : s.tape.openOne = some d) : s.sealSet d ∈ (s.setClosed d).tape.sets := by
  rw [setClosed_sets]
  exact List.mem_map.mpr ⟨d, List.mem_of_getLast? (openOne_eq_some.mp h).1, by simp⟩

theorem setClosed_openOne (h : s.tape.openOne = some d) : (s.setClosed d).tape.openOne = none := by
  unfold TapeSt.openOne
  rw [setClosed_sets, List.getLast?_map, (openOne_eq_some.mp h).1]
  simp [sealSet]

theorem rewriteLoop_nil (h : s.tape.rwq = []) (force : Bool) (n : Nat) : rewriteLoop force n s = s := by
  cases n with
  | zero => rfl
  | succ n => unfold rewriteLoop; rw [h]

theorem setBoundary_of (hf : s.medium.writeFailed = false) (hp : s.mot.repos = false) (hs : s.mot.stopped = false)
    (hr : s.mot.reading = false) (hq : s.tape.rwq = []) : s.setBoundary =
      if (s.mot.quiet.isSome || s.on F.FMT_TSTATUS_WRAP_END) || (s.writeReissues none).medium.writeFailed then
        s.writeReissues none
      else (s.writeReissues none).beginSet := by
  unfold setBoundary
  rw [hf, hp, hs, hr, if_neg (by decide)]
  simp only [rewriteLoop_nil hq, hf, Bool.false_eq_true, if_false]

theorem writeReissues_none (h : ∀ d ∈ s.tape.sets, d.reissueDue = false) : s.writeReissues none = s := by
  unfold writeReissues
  rw [List.filter_eq_nil_iff.mpr (fun d hd => by simp [h d hd])]
  rfl

/-- The one re-issue that is due is built at the next frame slot. -/
theorem writeReissues_one (h : s.tape.sets.filter (fun e => e.reissueDue) = [d]) :
    s.writeReissues none = (s.setTape (s.tape.mapSet d.part d.num (fun d => { d with reissueDue := false }))).addFrames
      (setFrames d.part d.num (reissueCopy d.reissues) 3 s.tape.slot d.fails) := by
  unfold writeReissues
  simp only [Bool.and_true, h, List.foldl_cons, List.foldl_nil]

theorem switchPart_same {p : Nat} (h : p = s.rd F.FMT_TSTATUS_PARTITION) : s.switchPart p = s := by
  unfold switchPart
  exact if_pos h.symm

/-- The tape's part once the oldest pending data set, of the partition that is written, has begun (R152, R165). -/
theorem beginSet_tape (h : s.tape.sets.find? (fun d => d.closed && !d.begun) = some d)
    (hp : d.part = s.rd F.FMT_TSTATUS_PARTITION) : s.beginSet.tape = { s.tape with
      sets := s.tape.sets.map (fun e => if e.part = d.part && e.num = d.num then
        { e with begun := true, slot := s.tape.slot, wrap := s.rd F.FMT_TSTATUS_WRAP, lpos := s.rd F.CTL_TM_LPOS_LPOS
                 pass := s.tape.writePass + b2n (!s.tape.session) } else e)
      onTape := s.tape.onTape.filter (fun e => !(e.part = d.part && e.num = d.num))
      frames := s.tape.frames ++ setFrames d.part d.num 0 0 s.tape.slot []
      slot := s.tape.slot + 3
      newHist := bumpHead 3 s.tape.newHist } := by
  unfold beginSet
  rw [h]
  dsimp only
  rw [switchPart_same hp]
  rfl

end State

/-! ## Frame slots (R154, R165, R266) -/

namespace State

variable {s : State} {f : List Copy} {rest : List (List Copy)}

/-- A copy of a frame goes to tape on its track. -/
def putCopy (slot wrap pass : Nat) (s : State) (c : Copy) : State :=
  s.emit (.tapeFrame slot c.track (s.skewOf c.track) (s.copyBits c wrap pass))

theorem putCopies_only (slot wrap pass : Nat) (f : List Copy) (s : State) :
    Only [.out] s (f.foldl (putCopy slot wrap pass) s) :=
  Only.foldl _ (.refl s) fun _ _ h => Only.updOut (by decide) h

theorem skewOf_squelch (s : State) (v k : Nat) : (s.wr F.WRA_STATUS_TAPE_SQUELCH v).skewOf k = s.skewOf k := by
  unfold skewOf
  dsimp only
  split <;> exact fget_wr _ _ _ _ (by decide)

theorem putCopies_out (slot wrap pass : Nat) (f : List Copy) (s : State) :
    s.out <:+ (f.foldl (putCopy slot wrap pass) s).out := by
  induction f generalizing s with
  | nil => exact List.suffix_refl _
  | cons e f ih => exact (List.suffix_cons _ _).trans (ih (putCopy slot wrap pass s e))

theorem putCopies_emitted (slot wrap pass : Nat) (f : List Copy) (s : State) {c : Copy} (hc : c ∈ f) :
    ∃ b, Emitted (.tapeFrame slot c.track (s.skewOf c.track) b) s (f.foldl (putCopy slot wrap pass) s) := by
  induction f generalizing s with
  | nil => exact nomatch hc
  | cons e f ih =>
    rcases List.mem_cons.mp hc with rfl | hc
    · exact ⟨_, (Emitted.emit _ s).suffix (putCopies_out slot wrap pass f (putCopy slot wrap pass s c))⟩
    · obtain ⟨b, hb⟩ := ih (putCopy slot wrap pass s e) hc
      exact ⟨b, hb.from (List.suffix_cons _ _)⟩

/-- The record of a frame in the slot that it is written to (R154, R174). -/
def slotRec (s : State) (f : List Copy) (slot : Nat) : SlotRec :=
  { part := s.rd F.FMT_TSTATUS_PARTITION, slot := slot, wrap := s.rd F.FMT_TSTATUS_WRAP, lpos := s.rd F.CTL_TM_LPOS_LPOS
    pass := s.tape.writePass, copies := f }

/-- The oldest frame built leaves the queue, and its copies await their decisions (R154, R179). -/
def takeFrame (s : State) (f : List Copy) (rest : List (List Copy)) : State :=
  s.setTape { s.tape with
    frames := rest, awaiting := s.tape.awaiting ++ f.filter (fun c => c.kind != 2), session := true
    writePass := s.tape.writePass + b2n (!s.tape.session), slotHist := bumpHead 1 s.tape.slotHist }

/-- A frame that was written is counted, and the device writes (R181). -/
def frameCounted (s : State) (f : List Copy) (live : Nat) : State :=
  (((s.countFrame f).wr F.FMT_TSTATUS_WSTATE 1).add64 F.FMT_CW_WRITTEN_LO_COUNT F.FMT_CW_WRITTEN_HI_COUNT live).lifeAdd 48
    (4480 * live)

theorem writeFrame_eq (h : s.tape.frames = f :: rest) : s.writeFrame =
    ((s.takeFrame f rest).recordSlot f (s.tape.slot - s.tape.frames.length)).frameCounted f
      (f.filter (fun c => c.kind != 2)).length := by
  unfold writeFrame
  rw [h]
  rfl

theorem recordSlot_tape (s : State) (f : List Copy) (n : Nat) : (s.recordSlot f n).tape = { s.tape with
    written := s.tape.written.filter (fun x => !(x.part = s.rd F.FMT_TSTATUS_PARTITION && x.slot = n)) ++ [s.slotRec f n] } :=
  putCopies_only n _ _ f _ .tape (by decide)

theorem recordSlot_emitted (s : State) (f : List Copy) (n : Nat) {c : Copy} (hc : c ∈ f) :
    ∃ b, Emitted (.tapeFrame n c.track (s.skewOf c.track) b) s (s.recordSlot f n) :=
  putCopies_emitted n _ _ f (s.setTape { s.tape with
    written := s.tape.written.filter (fun x => !(x.part = s.rd F.FMT_TSTATUS_PARTITION && x.slot = n)) ++ [s.slotRec f n] }) hc

theorem frameCounted_tape (s : State) (f : List Copy) (n : Nat) : (s.frameCounted f n).tape = s.tape :=
  lifeAdd_only (L := [.out, .host, .life, .trc, .regs 0, .regs 4, .regs 16, .regs 49]) (by decide)
    (add64_only (by decide) (wr_only (by decide) (countFrame_only (by decide) (.refl s)))) .tape (by decide)

theorem frameCounted_out (s : State) (f : List Copy) (n : Nat) : s.out <:+ (s.frameCounted f n).out :=
  (lifeAdd_keeps (add64_keeps (wr_keeps (countFrame_keeps (.refl s))))).out

theorem frameCounted_wstate (s : State) (f : List Copy) (n : Nat) : (s.frameCounted f n).rd F.FMT_TSTATUS_WSTATE = 1 := by
  have hlife := lifeAdd_only (L := partsOfEvent) (by decide) (.refl (((s.countFrame f).wr F.FMT_TSTATUS_WSTATE 1).add64
    F.FMT_CW_WRITTEN_LO_COUNT F.FMT_CW_WRITTEN_HI_COUNT n)) (x2 := 48) (x3 := 4480 * n)
  rw [frameCounted, rd, hlife.fget (by decide +kernel) (by decide), add64, fget_wr _ _ _ _ (by decide),
    fget_wr _ _ _ _ (by decide)]
  exact fget_fset_same _ _ _ _ _

/-- The oldest frame built goes to tape: what the tape's part holds then. -/
theorem writeFrame_tape (h : s.tape.frames = f :: rest) : s.writeFrame.tape = { s.tape with
    frames := rest, awaiting := s.tape.awaiting ++ f.filter (fun c => c.kind != 2), session := true
    writePass := s.tape.writePass + b2n (!s.tape.session), slotHist := bumpHead 1 s.tape.slotHist
    written := s.tape.written.filter (fun x => !(x.part = s.rd F.FMT_TSTATUS_PARTITION &&
      x.slot = s.tape.slot - s.tape.frames.length)) ++
        [(s.takeFrame f rest).slotRec f (s.tape.slot - s.tape.frames.length)] } := by
  rw [writeFrame_eq h, frameCounted_tape, recordSlot_tape]
  rfl

theorem writeFrame_wstate (h : s.tape.frames = f :: rest) : s.writeFrame.rd F.FMT_TSTATUS_WSTATE = 1 := by
  rw [writeFrame_eq h, frameCounted_wstate]

theorem writeFrame_emitted (h : s.tape.frames = f :: rest) {c : Copy} (hc : c ∈ f) :
    ∃ b, Emitted (.tapeFrame (s.tape.slot - s.tape.frames.length) c.track (s.skewOf c.track) b) s s.writeFrame := by
  obtain ⟨b, hb⟩ := (s.takeFrame f rest).recordSlot_emitted f (s.tape.slot - s.tape.frames.length) hc
  refine ⟨b, ?_⟩
  rw [writeFrame_eq h]
  exact hb.suffix (frameCounted_out _ _ _)

end State

/-! ## The rows of tape writing -/

section
variable {s : State}

theorem exec_frameSlotStart_squelch (h : s.wra.squelchDue = true) : exec .frameSlotStart s =
    .next ((s.setWra { s.wra with squelchDue := false }).wr F.WRA_STATUS_TAPE_SQUELCH 1) := if_pos h

theorem exec_frameSlotStart_frame (h : s.wra.squelchDue = false) (hm : s.mayWriteTape = true) (hf : s.tape.frames ≠ []) :
    exec .frameSlotStart s = .next (s.wr F.WRA_STATUS_TAPE_SQUELCH 0).writeFrame := by
  change execFrameSlotStart s = _
  unfold execFrameSlotStart
  rw [if_neg (by simp [h]), if_pos (by simp [hm, hf])]

theorem exec_frameSlotStart_fill (h : s.wra.squelchDue = false) (hm : s.mayWriteTape = true) (hw : s.tapeWriting = true)
    (hf : s.tape.frames = []) (hq : s.mot.quiet = none) :
    exec .frameSlotStart s = .next ((s.wr F.WRA_STATUS_TAPE_SQUELCH 0).fillSlot.writeFrame) := by
  change execFrameSlotStart s = _
  unfold execFrameSlotStart
  rw [if_neg (by simp [h]), if_neg (by simp [hf]), if_pos (by simp [hm, hw, hq])]

theorem exec_frameSlotStart_pass (h : s.wra.squelchDue = false) (hm : s.mayWriteTape = false) (ht : s.tMode = true)
    (hv : s.mot.moving = true) (hw : s.tapeWriting = true) : exec .frameSlotStart s = .next s.passSlot := by
  change execFrameSlotStart s = _
  unfold execFrameSlotStart
  rw [if_neg (by simp [h]), if_neg (by simp [hm]), if_neg (by simp [hm]), if_pos (by simp [ht, hv, hw])]

theorem dropFirst_append_cons {α : Type} {p : α → Bool} {l r : List α} {a : α} (hl : ∀ x ∈ l, p x = false) (ha : p a = true) :
    dropFirst p (l ++ a :: r) = l ++ r := by
  induction l with
  | nil => exact if_pos ha
  | cons x l ih =>
    have hx : ¬ p x = true := by simp [hl x List.mem_cons_self]
    exact (if_neg hx).trans (congrArg (x :: ·) (ih fun y hy => hl y (List.mem_cons_of_mem _ hy)))

/-- The codewords of a copy leave Sorrel before it has decided on them: their samples are released and their cells freed
(R163, R252). -/
def State.giveUp (s : State) (c : Copy) : State :=
  (List.range 26).foldl (fun s k =>
    match (s.cell k).job with
    | some j => if decide (j.target = Target.verify c) then (s.freeSamples j).cellDone k else s
    | none => s)
    ((s.det.waiting.filter (fun j => decide (j.target = Target.verify c)) ++
      s.det.restart.filter (fun j => decide (j.target = Target.verify c))).foldl State.freeSamples
      (s.setDet { s.det with
        waiting := s.det.waiting.filter (fun j => !decide (j.target = Target.verify c))
        restart := s.det.restart.filter (fun j => !decide (j.target = Target.verify c)) }))

theorem State.giveUp_tape (s : State) (c : Copy) : (s.giveUp c).tape = s.tape := by
  refine Only.foldl (L := [.det, .regs 20]) _ (.foldl _ (setDet_only (by decide) (.refl s)) fun s j h =>
    freeSamples_only (by decide) h) (fun s k h => ?_) .tape (by decide)
  split
  · split
    · exact cellDone_only (by decide) (freeSamples_only (by decide) h)
    · exact h
  · exact h

theorem exec_verifyDeadline_none {track : BitVec 6} {slot : BitVec 64}
    (h : ∀ c ∈ s.tape.awaiting, ¬ (c.track = track.toNat ∧ c.slot = slot.toNat)) :
    exec (.verifyDeadline track slot) s = .next s := by
  change execVerifyDeadline track slot s = _
  unfold execVerifyDeadline
  rw [List.find?_eq_none.mpr (fun c hc => by simpa using h c hc)]

theorem exec_verifyDeadline_some {track : BitVec 6} {slot : BitVec 64} {c : Copy}
    (h : s.tape.awaiting.find? (fun c => c.track = track.toNat && c.slot = slot.toNat) = some c) :
    exec (.verifyDeadline track slot) s = .next ((s.giveUp c).verifyDecide c false true) := by
  change execVerifyDeadline track slot s = _
  unfold execVerifyDeadline
  rw [h]
  rfl

end

end Sys2Proof.Machine

namespace Sys2Proof.Machine

/-! ## A stop of writing, exactly (R170, R171) -/

/-- Between `s` and `t` re-issues for no verify failure are scheduled: data sets are marked, rewrite entries go, and REISSUE
is set. -/
structure Marked (s t : State) : Prop where
  tape : t.tape = { s.tape with sets := t.tape.sets, rwq := t.tape.rwq }
  rwq : s.tape.rwq = [] → t.tape.rwq = []
  host : t.host = s.host
  mot : t.mot = s.mot
  fields : ∀ f : Field, f.place ≠ F.FMT_T_ERR_STATUS_REISSUE.place → ∀ i j, t.fget f i j = s.fget f i j

theorem Marked.refl (s : State) : Marked s s := ⟨rfl, id, rfl, rfl, fun _ _ _ _ => rfl⟩

theorem Marked.trans {s t u : State} (h : Marked s t) (h' : Marked t u) : Marked s u where
  tape := by rw [h'.tape, h.tape]
  rwq := fun e => h'.rwq (h.rwq e)
  host := h'.host.trans h.host
  mot := h'.mot.trans h.mot
  fields := fun f hf i j => (h'.fields f hf i j).trans (h.fields f hf i j)

namespace State

variable (s : State)

theorem reissue_marked (part n : Nat) : Marked s (s.reissue part n false) := by
  unfold reissue
  split
  · exact .refl s
  · extract_lets d t s1 s2 s3
    have h1 : Marked s s1 := ⟨rfl, fun e => by simp [s1, t, e], rfl, rfl, fun _ _ _ _ => rfl⟩
    split
    · exact h1
    · exact h1.trans ⟨rfl, id, rfl, rfl, fun f hf i j => fget_fset_other _ _ _ _ _ _ hf⟩

theorem foldl_reissue_marked (l : List DataSet) :
    Marked s (l.foldl (fun s d => s.reissue d.part d.num false) s) := by
  induction l generalizing s with
  | nil => exact .refl s
  | cons d l ih => exact (s.reissue_marked d.part d.num).trans (ih _)

/-- The squelch of a stop, before the data sets are marked. -/
def squelched (d : Nat) : State :=
  let s := (s.failSlots d).wr F.FMT_TSTATUS_WSTATE 2
  let t := s.tape
  let s := s.setTape { t with rwq := [], frames := [], slot := t.slot - t.frames.length + 8, slotFails := [] }
  let s : State := { s with
    mot := { s.mot with
      repos := true, moving := false, quiet := none, ramping := false, settled := 0, turning := false, phase := .stop }
    wra := { s.wra with squelchDue := false } }
  s.wr F.WRA_STATUS_TAPE_SQUELCH 1

theorem failSlots_tape (d : Nat) : (s.failSlots d).tape = { s.tape with
    sets := s.tape.sets.map (fun e => e.keepPasses (s.slotStands d))
    awaiting := s.tape.awaiting.filter (fun c => s.slotStands d c.slot) } := by
  unfold failSlots
  extract_lets ok gone x s1 y s2
  exact Only.foldl (L := [.det, .regs 20]) _ (.refl s2) (fun t j h => freeSamples_only (by decide) h) .tape (by decide)

theorem failSlots_host (d : Nat) : (s.failSlots d).host = s.host :=
  failSlots_only (L := [.tape, .det, .regs 20]) (by decide) (.refl s) .host (by decide)

theorem haltWriting_now (d : Nat) : ∃ u, Marked (s.squelched d) u ∧ s.haltWriting d false =
    (((u.inc F.CTL_TM_REPOS_COUNT).wr F.CTL_TM_STATUS_TARGET ((u.inc F.CTL_TM_REPOS_COUNT).rd F.CTL_TM_STATUS_STEP)).tapeRamp
      0).ask 2 0 2 :=
  ⟨_, foldl_reissue_marked _ _, rfl⟩

/-! ## Ramps of the tape loops (R189, R290) -/

/-- The places of the fields that set up a ramp. -/
def rampPlaces : List Nat :=
  [F.CTL_RAMP_CTL_MODE, F.CTL_RAMP_VMAX_LIMIT, F.CTL_RAMP_AMAX_LIMIT, F.CTL_RAMP_TGT_LO_TGT, F.CTL_RAMP_TGT_HI_TGT].map
    Field.place

section
variable {f : Field} (hf : f.place ∉ rampPlaces)
include hf

theorem fget_ramp {g : Field} (hg : g.place ∈ rampPlaces) (n v i j : Nat) : (s.wri g n v).fget f i j = s.fget f i j :=
  fget_wri _ _ _ _ _ fun e => hf (e ▸ hg)

theorem fget_setRampMode (n m i j : Nat) : (s.setRampMode n m).fget f i j = s.fget f i j := by
  unfold setRampMode
  split
  · rfl
  · exact s.fget_ramp hf (by decide) _ _ _ _

theorem fget_setRampTarget (n : Nat) (t : Int) (i j : Nat) : (s.setRampTarget n t).fget f i j = s.fget f i j :=
  (fget_ramp _ hf (by decide) _ _ _ _).trans (s.fget_ramp hf (by decide) _ _ _ _)

theorem fget_tapeRamp (v : Int) (i j : Nat) : (s.tapeRamp v).fget f i j = s.fget f i j := by
  have step : ∀ (t : State) (n : Nat), t.fget f i j = s.fget f i j →
      ((((if v = 0 then t.setRampMode n 1 else (t.setRampMode n 1).wri F.CTL_RAMP_VMAX_LIMIT n (v.natAbs * 65536)).wri
        F.CTL_RAMP_AMAX_LIMIT n (if v = 0 then t.setRampMode n 1 else
          (t.setRampMode n 1).wri F.CTL_RAMP_VMAX_LIMIT n (v.natAbs * 65536)).tapeAccel).setRampTarget n (v * 65536)).fget
            f i j) = s.fget f i j := by
    intro t n h
    rw [fget_setRampTarget _ hf, fget_ramp _ hf (by decide)]
    split
    · rw [fget_setRampMode _ hf, h]
    · rw [fget_ramp _ hf (by decide), fget_setRampMode _ hf, h]
  exact step _ 1 (step s 0 rfl)

end

/-! ## A stop of writing at once -/

section
variable {f : Field} {d : Nat}

/-- The fields that the reposition after a stop sets up. -/
def haltPlaces : List Nat :=
  [F.FMT_T_ERR_STATUS_REISSUE, F.CTL_TM_REPOS_COUNT, F.CTL_TM_STATUS_TARGET].map Field.place ++ rampPlaces

theorem fget_haltWriting_now (hf : f.place ∉ haltPlaces) (d i j : Nat) :
    (s.haltWriting d false).fget f i j = (s.squelched d).fget f i j := by
  simp only [haltPlaces, List.mem_append, List.map_cons, List.map_nil, List.mem_cons, List.not_mem_nil, not_or] at hf
  obtain ⟨⟨hr, hc, ht, -⟩, hramp⟩ := hf
  obtain ⟨u, hu, he⟩ := s.haltWriting_now d
  have hask : ∀ t : State, (t.ask 2 0 2).fget f i j = t.fget f i j := fun t => by unfold ask; split <;> rfl
  rw [he, hask, fget_tapeRamp _ hramp, fget_wr _ _ _ _ ht, fget_addi _ _ _ _ _ hc, hu.fields f hr]

theorem haltWriting_now_rest (d : Nat) : (s.haltWriting d false).host = s.host ∧
    (s.haltWriting d false).mot = (s.squelched d).mot ∧ (s.haltWriting d false).tape.rwq = [] ∧
    (s.haltWriting d false).tape = { (s.squelched d).tape with
      sets := (s.haltWriting d false).tape.sets, rwq := (s.haltWriting d false).tape.rwq } := by
  obtain ⟨u, hu, he⟩ := s.haltWriting_now d
  have ho : Only [.ctl, .pwr, .regs 32] u (s.haltWriting d false) := by
    rw [he]
    exact ask_only (by decide) (tapeRamp_only (by decide) (wr_only (by decide) (inc_only (by decide) (.refl u))))
  have htape : (s.haltWriting d false).tape = u.tape := ho .tape (by decide)
  rw [htape]
  exact ⟨(ho .host (by decide)).trans (hu.host.trans (s.failSlots_host d)), (ho .mot (by decide)).trans hu.mot,
    hu.rwq rfl, hu.tape⟩

theorem fget_squelched (h16 : f.block ≠ 20) (hm : f ∈ allFields) (hw : f.place ≠ F.FMT_TSTATUS_WSTATE.place)
    (hs : f.place ≠ F.WRA_STATUS_TAPE_SQUELCH.place) (d i j : Nat) : (s.squelched d).fget f i j = s.fget f i j := by
  have hfail := failSlots_only (L := [.tape, .det, .regs 20]) (by decide) (.refl s) (x2 := d)
  exact (fget_wr _ _ _ _ hs).trans ((fget_wr _ _ _ _ hw).trans (hfail.fget hm (by simp [h16]) i j))

theorem squelched_wstate (d : Nat) : (s.squelched d).rd F.FMT_TSTATUS_WSTATE = 2 :=
  (fget_wr _ _ _ _ (by decide)).trans (fget_fset_same ..)

theorem squelched_slot (d : Nat) : (s.squelched d).tape.slot = s.tape.slot - s.tape.frames.length + 8 ∧
    (s.squelched d).tape.frames = [] ∧ (s.squelched d).tape.disturbs = s.tape.disturbs := by
  unfold squelched
  simp only [wr, fset, setTape, s.failSlots_tape d, and_self]

end

end State

/-- What a disturbance reports before the outputs stop (R170, R172). -/
def State.disturbNoted (s : State) : State :=
  let t := (s.inc F.FMT_DISTURBS_COUNT).wr F.FMT_T_ERR_STATUS_DISTURB 1
  t.setTape { t.tape with disturbs := t.tape.disturbs ++ [s.firstOpenSet] }

theorem State.disturbNoted_disturbs (s : State) : s.disturbNoted.tape.disturbs = s.tape.disturbs ++ [s.firstOpenSet] := rfl

/-- A disturbance while the tape is written stops it and is told; the fourth in reach ends the writing (R170 to R172). -/
def State.disturbTold (s : State) (cause d : Nat) (atEnd : Bool) : State :=
  (s.disturbNoted.haltWriting d atEnd).raise 7 0 0x101 (cause + s.firstOpenSet * 2 ^ 8)

theorem State.disturbAt_writing {s : State} (hw : s.tapeWriting = true) (cause d : Nat) : s.disturbAt cause d =
    if fourWithin (s.disturbTold cause d (cause = 2)).tape.disturbs then (s.disturbTold cause d (cause = 2)).failWriting 3
    else s.disturbTold cause d (cause = 2) := by
  have hw1 : ¬ (s.rd F.FMT_TSTATUS_WSTATE != 1) = true := by simpa [tapeWriting] using hw
  unfold disturbAt
  rw [if_neg hw1]
  extract_lets first s1 x s2 s3
  have h3 : s3 = s.disturbTold cause d (cause = 2) := rfl
  rw [h3]

/-- A disturbance that is not the fourth in reach stops writing and is told (R171). -/
theorem State.disturb_first {s : State} (hw : s.tapeWriting = true)
    (h4 : fourWithin (s.tape.disturbs ++ [s.firstOpenSet]) = false) :
    s.disturb 1 = s.disturbTold 1 s.tape.lastSlot false := by
  have hd : (s.disturbTold 1 s.tape.lastSlot false).tape.disturbs = s.tape.disturbs ++ [s.firstOpenSet] := by
    obtain ⟨-, -, -, htape⟩ := s.disturbNoted.haltWriting_now_rest s.tape.lastSlot
    obtain ⟨-, -, hdist⟩ := s.disturbNoted.squelched_slot s.tape.lastSlot
    rw [disturbTold, raise, raiseFor_tape]
    exact (congrArg TapeSt.disturbs htape).trans hdist
  rw [disturb, disturbAt_writing hw, show decide (1 = 2) = false from rfl, hd, h4]
  exact if_neg Bool.false_ne_true

/-! ## Wraps (R177, R185) -/

namespace State

variable {s : State}

/-- The turn to the next wrap (R177, R185). -/
def turned (s : State) (w x : Nat) : State :=
  let s := (s.wr F.FMT_TSTATUS_WRAP (w + 1)).wr F.FMT_TSTATUS_WRAP_END 0
  let s := s.setMot { s.mot with reverse := (w + 1) % 2 = 1, settled := 0, turning := true }
  let s := s.setTape { s.tape with slot := s.tape.slot + s.turnSlots x }
  let s := ((s.setRampMode 3 2).setRampTarget 3 (wrapTarget (w + 1))).disableSlot 4
  (s.wr F.CTL_TM_STATUS_SETTLED 0).tapeRun x

/-- Nothing is left to write, to decide or to write again (R177). -/
def drained (s : State) : Bool :=
  s.tape.frames.isEmpty && s.tape.awaiting.isEmpty && s.tape.rwq.isEmpty && !s.tape.sets.any (fun d => d.reissueDue)

/-- What is built and not yet on tape is given up where the wrap's end does not wait for it. -/
def cleared (s : State) : State := if s.drained then s else s.unbuild

theorem cleared_tape : s.cleared.tape.frames = [] ∧ s.cleared.tape.slot = s.tape.slot - s.tape.frames.length := by
  unfold cleared
  split
  · next h =>
    simp only [drained, Bool.and_eq_true, List.isEmpty_iff] at h
    obtain ⟨⟨⟨hf, -⟩, -⟩, -⟩ := h
    rw [hf]
    exact ⟨rfl, rfl⟩
  · exact ⟨rfl, rfl⟩

theorem fget_cleared (f : Field) (i j : Nat) : s.cleared.fget f i j = s.fget f i j := by
  unfold cleared
  split <;> rfl

theorem cleared_mot : s.cleared.mot = s.mot := by
  unfold cleared
  split <;> rfl

theorem disableSlot_off (s : State) (n : Nat) : (s.disableSlot n).slotOn n = false := by
  have h : (s.disableSlot n).rdi F.CTL_SLOT_CFG_EN n = 0 := by
    rw [disableSlot, reportDrive]
    exact (fget_wri _ _ _ _ _ (by decide)).trans (fget_fset_same ..)
  rw [slotOn, h]
  rfl

/-- The wrap and the direction of the turn, with the tape's place past it. -/
def wrapTaken (s : State) (w x : Nat) : State :=
  let s := ((s.wr F.FMT_TSTATUS_WRAP (w + 1)).wr F.FMT_TSTATUS_WRAP_END 0).setMot
    { s.mot with reverse := (w + 1) % 2 = 1, settled := 0, turning := true }
  s.setTape { s.tape with slot := s.tape.slot + s.turnSlots x }

theorem turned_eq (w x : Nat) : s.turned w x =
    (((((s.wrapTaken w x).setRampMode 3 2).setRampTarget 3 (wrapTarget (w + 1))).disableSlot 4).wr
      F.CTL_TM_STATUS_SETTLED 0).tapeRun x := rfl

theorem turned_only (w x : Nat) : Only [.ctl, .pwr, .regs 32] (s.wrapTaken w x) (s.turned w x) :=
  tapeRun_only (by decide) (wr_only (by decide) (disableSlot_only (by decide) (setRampTarget_only (by decide)
    (setRampMode_only (by decide) (.refl _)))))

theorem turned_mot (w x : Nat) :
    (s.turned w x).mot = { s.mot with reverse := (w + 1) % 2 = 1, settled := 0, turning := true } :=
  turned_only w x .mot (by decide)

theorem turnSlots_congr {t : State} (h : t.rd F.CTL_TM_CFG_ACCEL = s.rd F.CTL_TM_CFG_ACCEL) (x : Nat) :
    t.turnSlots x = s.turnSlots x := by
  unfold turnSlots
  rw [h]

theorem turned_tape (w x : Nat) : (s.turned w x).tape = { s.tape with slot := s.tape.slot + s.turnSlots x } := by
  have hturn : (((s.wr F.FMT_TSTATUS_WRAP (w + 1)).wr F.FMT_TSTATUS_WRAP_END 0).setMot
      { s.mot with reverse := (w + 1) % 2 = 1, settled := 0, turning := true }).turnSlots x = s.turnSlots x :=
    turnSlots_congr ((fget_wr _ _ _ _ (by decide)).trans (fget_wr _ _ _ _ (by decide))) x
  rw [show (s.turned w x).tape = (s.wrapTaken w x).tape from turned_only w x .tape (by decide), ← hturn]
  rfl

theorem turned_wrap (w x : Nat) : (s.turned w x).rd F.FMT_TSTATUS_WRAP = (w + 1) % 512 ∧
    (s.turned w x).rd F.FMT_TSTATUS_WRAP_END = 0 := by
  have h : ∀ f ∈ [F.FMT_TSTATUS_WRAP, F.FMT_TSTATUS_WRAP_END], (s.turned w x).rd f = (s.wrapTaken w x).rd f := fun f hf =>
    (turned_only w x).fget ((by decide +kernel : ∀ f ∈ [F.FMT_TSTATUS_WRAP, F.FMT_TSTATUS_WRAP_END], f ∈ allFields) f hf)
      (by fin_cases hf <;> decide) 0 0
  rw [h _ (by decide), h _ (by decide)]
  exact ⟨(fget_wr _ _ _ _ (by decide)).trans (fget_fset_same ..), fget_fset_same ..⟩

theorem turned_settled (w x : Nat) : (s.turned w x).rd F.CTL_TM_STATUS_SETTLED = 0 := by
  rw [turned_eq, tapeRun, rd, fget_tapeRamp _ (by decide)]
  exact fget_fset_same ..

theorem turned_slotOff (w x : Nat) : (s.turned w x).slotOn 4 = false := by
  rw [turned_eq, slotOn, tapeRun, rdi, fget_tapeRamp _ (by decide), fget_wr _ _ _ _ (by decide)]
  exact disableSlot_off _ _

end State

section
variable {s : State} {endLimit : Bool}

theorem exec_wrapTurn_early (h : s.on F.FMT_TSTATUS_WRAP_END = false) : exec (.wrapTurn endLimit) s = .next s := by
  change execWrapTurn endLimit s = _
  unfold execWrapTurn
  exact if_neg (by simp [h])

theorem exec_wrapTurn {h : CartHeader} (hh : s.tape.header = some h) (he : s.on F.FMT_TSTATUS_WRAP_END = true)
    (hm : s.mot.moving = true)
    (hw : s.rd F.FMT_TSTATUS_WRAP < (if s.rd F.FMT_TSTATUS_PARTITION = 0 then 1 else h.wraps - 1))
    (hd : s.drained = true ∨ endLimit = true) : exec (.wrapTurn endLimit) s =
      .next (s.cleared.turned (s.rd F.FMT_TSTATUS_WRAP) (s.rd F.CTL_TM_STATUS_STEP)) := by
  have hgo : (s.on F.FMT_TSTATUS_WRAP_END && (s.drained || endLimit) && decide (s.rd F.FMT_TSTATUS_WRAP <
      (if s.rd F.FMT_TSTATUS_PARTITION = 0 then 1 else h.wraps - 1)) && s.mot.moving) = true := by
    simp only [he, hm, hw, decide_true, Bool.and_true, Bool.true_and, Bool.or_eq_true]
    exact hd
  change execWrapTurn endLimit s = _
  unfold execWrapTurn
  simp only [hh]
  exact if_pos hgo

end

end Sys2Proof.Machine

namespace Sys2Proof.Machine

/-! ## The statement on tape writing, part by part -/

section
variable {s : State}

theorem dataSetCloseTimeout_open {d : DataSet} (h : s.tape.openOne = some d) (hu : d.units ≠ [])
    (hr : s.tape.hasRoom = true) : ∃ t, exec .dataSetCloseTimeout s = .next t ∧ t.tape.frames = s.tape.frames ∧
      (∃ e ∈ t.tape.sets, e.part = d.part ∧ e.num = d.num ∧ e.closed = true ∧ e.units = d.units) ∧
      t.tape.openOne = none ∧ Only [.tape, .mot, .regs 32] s t :=
  ⟨s.setClosed d, congrArg Host.Outcome.next (State.closeSet_open h hu hr), rfl,
    ⟨_, State.mem_setClosed h, rfl, rfl, rfl, rfl⟩, State.setClosed_openOne h, State.setClosed_only d⟩

section
variable (hf : s.medium.writeFailed = false) (hp : s.mot.repos = false) (hs : s.mot.stopped = false)
  (hr : s.mot.reading = false) (hq : s.tape.rwq = [])
include hf hp hs hr hq

theorem dataSetBegin_held (hd : ∀ d ∈ s.tape.sets, d.reissueDue = false)
    (hh : s.mot.quiet.isSome = true ∨ s.on F.FMT_TSTATUS_WRAP_END = true) : exec .dataSetBegin s = .next s := by
  refine congrArg Host.Outcome.next ?_
  rw [State.setBoundary_of hf hp hs hr hq, State.writeReissues_none hd,
    if_pos (by rw [Bool.or_eq_true, Bool.or_eq_true]; exact .inl hh)]

theorem dataSetBegin_next {d : DataSet} (hd : ∀ d ∈ s.tape.sets, d.reissueDue = false) (hn : s.mot.quiet = none)
    (hw : s.on F.FMT_TSTATUS_WRAP_END = false)
    (hfind : s.tape.sets.find? (fun d => d.closed && !d.begun) = some d) (hpart : d.part = s.rd F.FMT_TSTATUS_PARTITION) :
    ∃ t, exec .dataSetBegin s = .next t ∧
      t.tape.frames = s.tape.frames ++ setFrames d.part d.num 0 0 s.tape.slot [] ∧ t.tape.slot = s.tape.slot + 3 ∧
      (∀ e ∈ t.tape.onTape, ¬ (e.part = d.part ∧ e.num = d.num)) ∧
      ∃ e ∈ t.tape.sets, e.part = d.part ∧ e.num = d.num ∧ e.begun = true ∧ e.slot = s.tape.slot := by
  have hset : s.setBoundary = s.beginSet := by
    rw [State.setBoundary_of hf hp hs hr hq, State.writeReissues_none hd, if_neg (by simp [hn, hw, hf])]
  refine ⟨_, congrArg Host.Outcome.next hset, ?_⟩
  rw [State.beginSet_tape hfind hpart]
  refine ⟨rfl, rfl, fun e he => ?_, _, List.mem_map.mpr ⟨d, List.mem_of_find?_eq_some hfind, if_pos (by simp)⟩, rfl, rfl,
    rfl, rfl⟩
  have hkept := (List.mem_filter.mp he).2
  exact fun ⟨h1, h2⟩ => by simp [h1, h2] at hkept

theorem dataSetBegin_reissue {d : DataSet} (hh : s.mot.quiet.isSome = true)
    (hd : s.tape.sets.filter (fun e => e.reissueDue) = [d]) : ∃ t, exec .dataSetBegin s = .next t ∧
      t.tape.slot = s.tape.slot + 3 ∧ t.tape.frames = s.tape.frames ++
        setFrames d.part d.num (reissueCopy d.reissues) 3 s.tape.slot d.fails := by
  have hset : s.setBoundary = s.writeReissues none := by
    rw [State.setBoundary_of hf hp hs hr hq, if_pos (by simp [hh])]
  refine ⟨_, congrArg Host.Outcome.next hset, ?_⟩
  rw [State.writeReissues_one hd]
  exact ⟨rfl, rfl⟩

end

theorem frameSlotStart_frame {f : List Copy} {rest : List (List Copy)} {n : Nat} (hs : s.wra.squelchDue = false)
    (hm : s.mayWriteTape = true) (hf : s.tape.frames = f :: rest) (hn : n = s.tape.slot - s.tape.frames.length) :
    ∃ t, exec .frameSlotStart s = .next t ∧ t.tape.frames = rest ∧
      t.tape.slot = s.tape.slot ∧ t.rd F.FMT_TSTATUS_WSTATE = 1 ∧ t.rd F.WRA_STATUS_TAPE_SQUELCH = 0 ∧
      t.tape.awaiting = s.tape.awaiting ++ f.filter (fun c => c.kind != 2) ∧
      (∃ r ∈ t.tape.written, r.slot = n ∧ r.copies = f ∧ r.pass = s.tape.writePass + b2n (!s.tape.session)) ∧
      ∀ c ∈ f, ∃ b, Emitted (.tapeFrame n c.track (s.skewOf c.track) b) s t := by
  subst hn
  have hf' : (s.wr F.WRA_STATUS_TAPE_SQUELCH 0).tape.frames = f :: rest := hf
  have hsq : (s.wr F.WRA_STATUS_TAPE_SQUELCH 0).writeFrame.rd F.WRA_STATUS_TAPE_SQUELCH = 0 := by
    rw [State.rd, (State.writeFrame_only (L := [.out, .host, .life, .tape, .trc, .regs 0, .regs 4, .regs 16, .regs 49])
      (by decide) (.refl _)).fget (by decide +kernel) (by decide)]
    exact State.fget_fset_same ..
  refine ⟨_, exec_frameSlotStart_frame hs hm (by simp [hf]), ?_⟩
  rw [State.writeFrame_tape hf']
  refine ⟨rfl, rfl, State.writeFrame_wstate hf', hsq, rfl,
    ⟨_, List.mem_append_right _ (List.mem_singleton.mpr rfl), rfl, rfl, rfl⟩, fun c hc => ?_⟩
  rw [← State.skewOf_squelch s 0 c.track]
  exact State.writeFrame_emitted hf' hc

theorem frameSlotStart_fill (hs : s.wra.squelchDue = false) (hm : s.mayWriteTape = true) (hw : s.tapeWriting = true)
    (hf : s.tape.frames = []) (hq : s.mot.quiet = none) : ∃ t,
      exec .frameSlotStart s = .next t ∧ t.tape.slot = s.tape.slot + 1 ∧ t.tape.awaiting = s.tape.awaiting ∧
      ∀ k < 64, ∃ b, Emitted (.tapeFrame s.tape.slot k (s.skewOf k) b) s t := by
  have hf' : (s.wr F.WRA_STATUS_TAPE_SQUELCH 0).fillSlot.tape.frames =
      (List.range 64).map (fun t => Copy.fill t s.tape.slot) :: [] := by
    change s.tape.frames ++ _ = _
    rw [hf]
    rfl
  refine ⟨_, exec_frameSlotStart_fill hs hm hw hf hq, ?_⟩
  rw [State.writeFrame_tape hf']
  refine ⟨rfl, ?_, fun k hk => ?_⟩
  · have hnone : ((List.range 64).map (fun t => Copy.fill t s.tape.slot)).filter (fun c => c.kind != 2) = [] :=
      List.filter_eq_nil_iff.mpr (by simp [Copy.fill])
    change s.tape.awaiting ++ _ = _
    rw [hnone, List.append_nil]
  · obtain ⟨b, hb⟩ := State.writeFrame_emitted hf' (c := Copy.fill k s.tape.slot)
      (List.mem_map.mpr ⟨k, List.mem_range.mpr hk, rfl⟩)
    rw [hf'] at hb
    refine ⟨b, ?_⟩
    rw [← State.skewOf_squelch s 0 k]
    exact hb

theorem verifyDeadline_late {track : BitVec 6} {slot : BitVec 64} {l r : List Copy} {c : Copy}
    (ha : s.tape.awaiting = l ++ c :: r) (ht : c.track = track.toNat) (hs : c.slot = slot.toNat)
    (hu : ∀ x ∈ l ++ r, ¬ (x.track = track.toNat ∧ x.slot = slot.toNat)) : ∃ t,
      exec (.verifyDeadline track slot) s = .next t ∧ t.rd F.FMT_T_ERR_STATUS_DEADLINE = 1 ∧ c ∉ t.tape.awaiting ∧
      Store.get 0 t.tape.last16 c.track = (Store.get 0 s.tape.last16 c.track * 2 + 1) % 65536 := by
  have hl : ∀ x ∈ l, ¬ (x.track = track.toNat ∧ x.slot = slot.toNat) := fun x hx => hu x (List.mem_append_left _ hx)
  have hfind : s.tape.awaiting.find? (fun c => c.track = track.toNat && c.slot = slot.toNat) = some c := by
    rw [ha, List.find?_append, List.find?_eq_none.mpr (fun x hx => by simpa using hl x hx)]
    simp [ht, hs]
  have hmem : c ∈ (s.giveUp c).tape.awaiting := by rw [State.giveUp_tape, ha]; simp
  have hund := State.verifyDecide_undecided hmem false true
  have hcl : ∀ x ∈ l ++ r, x ≠ c := fun x hx e => hu x hx (e ▸ ⟨ht, hs⟩)
  have hgone : ((s.giveUp c).decided c false true).tape.awaiting = l ++ r := by
    rw [State.decided_awaiting, State.giveUp_tape, ha]
    exact dropFirst_append_cons (fun x hx => by simpa using hcl x (List.mem_append_left _ hx)) (by simp)
  refine ⟨_, exec_verifyDeadline_some hfind, ?_, fun hc => ?_, ?_⟩
  · exact (hund.fields _ (by decide) 0 0).trans ((s.giveUp c).decided_deadline c false)
  · exact hcl c (hgone ▸ hund.awaiting hc) rfl
  · rw [State.verifyDecide_last16 hmem, State.giveUp_tape]
    rfl

theorem lateralWriteInhibit_writing (hw : s.tapeWriting = true)
    (h4 : fourWithin (s.tape.disturbs ++ [s.firstOpenSet]) = false) : ∃ t,
      exec .lateralWriteInhibit s = .next t ∧ t.rd F.FMT_TSTATUS_WSTATE = 2 ∧ t.rd F.CTL_TM_STATUS_WRITE_INHIBIT = 1 ∧
      t.rd F.WRA_STATUS_TAPE_SQUELCH = 1 ∧ t.mot.repos = true ∧ t.mot.moving = false ∧ t.tape.frames = [] ∧
      t.tape.rwq = [] ∧ t.tape.slot = s.tape.slot - s.tape.frames.length + 8 ∧
      t.rd F.FMT_DISTURBS_COUNT = Nat.min (s.rd F.FMT_DISTURBS_COUNT + 1) (2 ^ 32 - 1) ∧
      t.rd F.FMT_T_ERR_STATUS_DISTURB = 1 ∧ Raised 7 0 0x101 (1 + s.firstOpenSet * 2 ^ 8) s t := by
  have hopen : (s.wr F.CTL_TM_STATUS_WRITE_INHIBIT 1).firstOpenSet = s.firstOpenSet := by
    unfold State.firstOpenSet
    rw [State.rd_wr_other _ (by decide)]
    rfl
  have hdist := State.disturb_first (s := s.wr F.CTL_TM_STATUS_WRITE_INHIBIT 1)
    ((State.tapeWriting_wr 1 (by decide)).trans hw) (by rw [hopen]; exact h4)
  have hexec : exec .lateralWriteInhibit s = .next ((s.wr F.CTL_TM_STATUS_WRITE_INHIBIT 1).disturbTold 1 s.tape.lastSlot false) :=
    congrArg Host.Outcome.next ((if_pos hw).trans hdist)
  refine ⟨_, hexec, ?_⟩
  have hr : ∀ f : Field, f.place ∉ eventPlaces → f.place ∉ State.haltPlaces →
      ((s.wr F.CTL_TM_STATUS_WRITE_INHIBIT 1).disturbTold 1 s.tape.lastSlot false).rd f =
        ((s.wr F.CTL_TM_STATUS_WRITE_INHIBIT 1).disturbNoted.squelched s.tape.lastSlot).rd f := fun f he hp =>
    (State.fget_raiseFor _ _ _ _ _ _ _ _ _ he).trans (State.fget_haltWriting_now _ hp _ _ _)
  have hk : ∀ f : Field, f ∈ allFields → f.block ≠ 20 → f.place ≠ F.FMT_TSTATUS_WSTATE.place →
      f.place ≠ F.WRA_STATUS_TAPE_SQUELCH.place → f.place ∉ eventPlaces → f.place ∉ State.haltPlaces →
      ((s.wr F.CTL_TM_STATUS_WRITE_INHIBIT 1).disturbTold 1 s.tape.lastSlot false).rd f =
        (s.wr F.CTL_TM_STATUS_WRITE_INHIBIT 1).disturbNoted.rd f := fun f hm hb hw hs he hp =>
    (hr f he hp).trans (State.fget_squelched _ hb hm hw hs _ _ _)
  obtain ⟨hhost, hmot, hrwq, htape⟩ :=
    (s.wr F.CTL_TM_STATUS_WRITE_INHIBIT 1).disturbNoted.haltWriting_now_rest s.tape.lastSlot
  obtain ⟨hslot, hframes, -⟩ := (s.wr F.CTL_TM_STATUS_WRITE_INHIBIT 1).disturbNoted.squelched_slot s.tape.lastSlot
  have hraise := State.raised_raise (s := s) hhost 7 0 0x101 (1 + s.firstOpenSet * 2 ^ 8)
  rw [← hopen] at hraise ⊢
  refine ⟨?_, ?_, ?_, ?_, ?_, ?_, ?_, ?_, ?_, ?_, hraise⟩
  · rw [hr _ (by decide) (by decide), State.squelched_wstate]
  · rw [hk _ (by decide +kernel) (by decide) (by decide) (by decide) (by decide) (by decide)]
    exact (State.fget_wr _ _ _ _ (by decide)).trans ((State.fget_addi _ _ _ _ _ (by decide)).trans (State.fget_fset_same ..))
  · rw [hr _ (by decide) (by decide)]
    exact State.fget_fset_same ..
  · rw [State.disturbTold, State.raise, State.raiseFor_mot, hmot]
    rfl
  · rw [State.disturbTold, State.raise, State.raiseFor_mot, hmot]
    rfl
  · rw [State.disturbTold, State.raise, State.raiseFor_tape, htape]
    exact hframes
  · rw [State.disturbTold, State.raise, State.raiseFor_tape, hrwq]
  · rw [State.disturbTold, State.raise, State.raiseFor_tape, htape]
    exact hslot
  · rw [hk _ (by decide +kernel) (by decide) (by decide) (by decide) (by decide) (by decide)]
    refine (State.fget_wr _ _ _ _ (by decide)).trans ((State.rd_inc (by decide)).trans ?_)
    rw [State.rd_wr_other _ (by decide)]
    rfl
  · rw [hk _ (by decide +kernel) (by decide) (by decide) (by decide) (by decide) (by decide)]
    exact State.fget_fset_same ..

theorem writeResumeSettled_settled (hp : s.mot.repos = true) (hf : s.mot.phase = .forward) (ha : s.mot.reacq = false)
    (hs : s.on F.CTL_TM_STATUS_SETTLED = true) (hw : s.rd F.FMT_TSTATUS_WSTATE = 2)
    (hb : s.on F.PWR_STATUS_BRACE = false) : ∃ t, exec .writeResumeSettled s = .next t ∧
      t.mot.repos = false ∧ t.rd F.FMT_TSTATUS_WSTATE = 1 ∧ t.rd F.CTL_TM_STATUS_WRITE_INHIBIT = 0 ∧
      t.rd F.WRA_STATUS_TAPE_SQUELCH = 0 ∧ t.rd F.CTL_TM_STATUS_MODE = 3 ∧ t.wra.squelchDue = false ∧
      Only [.mot, .wra, .regs 16, .regs 28, .regs 32] s t := by
  refine ⟨_, (if_pos (by simp only [hp, hf, ha, hs, hw, hb]; rfl)), rfl, ?_, ?_, State.fget_fset_same .., ?_, rfl, ?_⟩
  · exact (State.fget_wr _ _ _ _ (by decide)).trans ((State.fget_wr _ _ _ _ (by decide)).trans (State.fget_fset_same ..))
  · exact (State.fget_wr _ _ _ _ (by decide)).trans (State.fget_fset_same ..)
  · exact (State.fget_wr _ _ _ _ (by decide)).trans ((State.fget_wr _ _ _ _ (by decide)).trans
      ((State.fget_wr _ _ _ _ (by decide)).trans (State.fget_fset_same ..)))
  · exact State.wr_only (by decide) (State.wr_only (by decide) (State.wr_only (by decide) (.updWra (by decide)
      (State.wr_only (by decide) (State.setMot_only (by decide) (.refl s))))))

theorem wrapTurn_turns {endLimit : Bool} {h : CartHeader} {w : Nat} (hh : s.tape.header = some h)
    (hw : w = s.rd F.FMT_TSTATUS_WRAP) (he : s.on F.FMT_TSTATUS_WRAP_END = true) (hm : s.mot.moving = true)
    (hlast : w < (if s.rd F.FMT_TSTATUS_PARTITION = 0 then 1 else h.wraps - 1))
    (hd : (s.tape.frames = [] ∧ s.tape.awaiting = [] ∧ s.tape.rwq = [] ∧ ∀ d ∈ s.tape.sets, d.reissueDue = false) ∨
      endLimit = true) : ∃ t, exec (.wrapTurn endLimit) s = .next t ∧ t.rd F.FMT_TSTATUS_WRAP = (w + 1) % 512 ∧
      t.rd F.FMT_TSTATUS_WRAP_END = 0 ∧ t.mot.turning = true ∧ t.mot.reverse = decide ((w + 1) % 2 = 1) ∧
      t.tape.frames = [] ∧ t.slotOn 4 = false ∧ t.rd F.CTL_TM_STATUS_SETTLED = 0 ∧
      t.tape.slot = s.tape.slot - s.tape.frames.length + s.turnSlots (s.rd F.CTL_TM_STATUS_STEP) := by
  subst hw
  have hdrained : s.drained = true ∨ endLimit = true := hd.imp_left fun ⟨hf, ha, hq, hs⟩ => by
    simpa [State.drained, hf, ha, hq] using hs
  refine ⟨_, exec_wrapTurn hh he hm hlast hdrained, (State.turned_wrap _ _).1, (State.turned_wrap _ _).2, ?_, ?_, ?_,
    State.turned_slotOff _ _, State.turned_settled _ _, ?_⟩
  · rw [State.turned_mot]
  · rw [State.turned_mot]
  · rw [State.turned_tape]
    exact State.cleared_tape.1
  · rw [State.turned_tape, ← State.cleared_tape.2, State.turnSlots_congr (State.fget_cleared F.CTL_TM_CFG_ACCEL 0 0)]

end

/-- Settles O54: each row is one operation of the formatter, whose effect on the tape's part and on the registers is known
case by case; what follows from a late decision or a disturbance leaves the facts of the statement as they are. -/
theorem tapeWriting : Obligations.TapeWriting := by
  intro s
  refine ⟨fun h => congrArg Host.Outcome.next (State.closeSet_none h), fun d => dataSetCloseTimeout_open,
    fun hf hp hs hr hq => ⟨fun hd => ⟨dataSetBegin_held hf hp hs hr hq hd,
      fun hn hw d => dataSetBegin_next hf hp hs hr hq hd hn hw⟩, fun hh d => dataSetBegin_reissue hf hp hs hr hq hh⟩,
    fun h => ⟨_, exec_frameSlotStart_squelch h, State.fget_fset_same ..,
      State.wr_only (by decide) (State.setWra_only (by decide) (.refl s))⟩,
    fun h => ⟨fun f rest n => frameSlotStart_frame h, frameSlotStart_fill h,
      fun hm ht hv hw => ⟨_, exec_frameSlotStart_pass h hm ht hv hw, rfl, rfl, State.setTape_only (by decide) (.refl s)⟩⟩,
    fun track slot => ⟨exec_verifyDeadline_none, fun l r c => verifyDeadline_late⟩,
    fun h => congrArg Host.Outcome.next (if_neg (by simp [h])), lateralWriteInhibit_writing, writeResumeSettled_settled,
    fun endLimit => ⟨exec_wrapTurn_early, fun h w => wrapTurn_turns⟩⟩

end Sys2Proof.Machine

namespace Sys2Proof.Machine

/-! ## Lanes, sample rings and the codewords that wait (R20, R236 to R246) -/

/-- The codewords of the detector pool, its cells and its ladders are the same; lanes and the overflow region may differ. -/
def JobsKept (s t : State) : Prop := ∃ m o, t.det = { s.det with lanes := m, overflow := o }

theorem JobsKept.refl (s : State) : JobsKept s s := ⟨_, _, rfl⟩

theorem JobsKept.trans {s t u : State} (h : JobsKept s t) (h' : JobsKept t u) : JobsKept s u := by
  obtain ⟨m, o, h⟩ := h
  obtain ⟨m', o', h'⟩ := h'
  exact ⟨m', o', by rw [h', h]⟩

theorem JobsKept.of_det {s t : State} (h : t.det = s.det) : JobsKept s t := ⟨_, _, h⟩

namespace JobsKept
variable {s t : State} (h : JobsKept s t)
include h

theorem waiting : t.det.waiting = s.det.waiting := by obtain ⟨m, o, h⟩ := h; rw [h]
theorem restart : t.det.restart = s.det.restart := by obtain ⟨m, o, h⟩ := h; rw [h]
theorem cells : t.det.cells = s.det.cells := by obtain ⟨m, o, h⟩ := h; rw [h]
theorem nextJob : t.det.nextJob = s.det.nextJob := by obtain ⟨m, o, h⟩ := h; rw [h]
theorem ladders : t.det.ladders = s.det.ladders := by obtain ⟨m, o, h⟩ := h; rw [h]

end JobsKept

namespace State

variable (s : State)

@[simp] theorem lane_setLane_same (n : Nat) (l : LaneSt) : (s.setLane n l).lane n = l := Store.get_put_same ..
theorem lane_setLane_other {n k : Nat} (l : LaneSt) (h : k ≠ n) : (s.setLane n l).lane k = s.lane k :=
  Store.get_put_other _ _ _ _ h
@[simp] theorem cell_setCell_same (c : Nat) (v : Cell) : (s.setCell c v).cell c = v := Store.get_put_same ..
theorem cell_setCell_other {c k : Nat} (v : Cell) (h : k ≠ c) : (s.setCell c v).cell k = s.cell k :=
  Store.get_put_other _ _ _ _ h
theorem lane_congr {t : State} (h : t.det = s.det) (n : Nat) : t.lane n = s.lane n := by unfold lane; rw [h]
theorem cell_congr {t : State} (h : t.det.cells = s.det.cells) (c : Nat) : t.cell c = s.cell c := by unfold cell; rw [h]

theorem setLane_jobs (n : Nat) (l : LaneSt) : JobsKept s (s.setLane n l) := ⟨_, _, rfl⟩

theorem setRingLevel_jobs (lane n : Nat) : JobsKept s (s.setRingLevel lane n) := by
  unfold setRingLevel
  dsimp only
  split <;> exact ⟨_, _, rfl⟩

theorem freeSamples_jobs (j : Job) : JobsKept s (s.freeSamples j) := by
  unfold freeSamples
  split
  · exact ⟨_, _, rfl⟩
  · exact s.setRingLevel_jobs _ _

variable {s} in
/-- Samples that fit in the ring enter it. -/
theorem ringIn_fits {n : Nat} (h : (s.lane n).ring + sampleBytes n ≤ ringBytes n) :
    s.ringIn n = (s.setRingLevel n ((s.lane n).ring + sampleBytes n), true) := if_pos h

/-! ## A lane runs over a codeword -/

/-- A lane has run over a codeword, and the marks that were not found are told. -/
def laneTold (n faster : Nat) (tape : Bool) (f : Framing) (marks : MarkScan) (run : LaneRun) : State :=
  let s := (s.runLane n faster run).1
  let s := s.addi F.LANE_SYNC_MISS_COUNT n (f.missing tape)
  let s := if !tape && s.fragMissed marks then s.inc F.FMT_FRAG_MISS_COUNT else s
  if f.replayFailed then s.wr F.LANE_ERR_STATUS_REPLAY_FAIL 1 else s

/-- The places of the fields that tell of a lane's run. -/
def lanePlaces : List Nat :=
  [F.LANE_STATUS_VGA, F.LANE_STATUS_FREQ_OFS, F.LANE_STATUS_LOCKED, F.FMT_FRAG_MISS_COUNT, F.LANE_ERR_STATUS_REPLAY_FAIL].map
    Field.place

variable {n faster : Nat} {tape : Bool} {f : Framing} {marks : MarkScan} {run : LaneRun}

theorem fget_runLane {g : Field} (hg : g.place ∉ lanePlaces) (i j : Nat) :
    (s.runLane n faster run).1.fget g i j = s.fget g i j := by
  simp only [lanePlaces, List.map_cons, List.map_nil, List.mem_cons, List.not_mem_nil, not_or] at hg
  obtain ⟨hv, hf, hl, -⟩ := hg
  exact (fget_wri _ _ _ _ _ hl).trans ((fget_wri _ _ _ _ _ hf).trans (fget_wri _ _ _ _ _ hv))

/-- After a lane's run its marks not found are counted, and of the other fields only those of its status change. -/
theorem fget_laneTold {g : Field} (hg : g.place ∉ lanePlaces) (i j : Nat) : (s.laneTold n faster tape f marks run).fget g i j =
    ((s.runLane n faster run).1.addi F.LANE_SYNC_MISS_COUNT n (f.missing tape)).fget g i j := by
  simp only [lanePlaces, List.map_cons, List.map_nil, List.mem_cons, List.not_mem_nil, not_or] at hg
  obtain ⟨-, -, -, hfrag, hrep, -⟩ := hg
  unfold laneTold
  extract_lets s1 s2 s3
  have h3 : s3.fget g i j = s2.fget g i j := by
    unfold s3
    split
    · exact fget_addi _ _ _ _ _ hfrag
    · rfl
  split
  · exact (fget_wr _ _ _ _ hrep).trans h3
  · exact h3

theorem laneTold_missed : (s.laneTold n faster tape f marks run).rdi F.LANE_SYNC_MISS_COUNT n =
    Nat.min (s.rdi F.LANE_SYNC_MISS_COUNT n + f.missing tape) (2 ^ 32 - 1) := by
  rw [rdi, fget_laneTold _ (by decide)]
  exact (rdi_addi _ (by decide) _ _).trans (by rw [rdi, fget_runLane _ (by decide)]; rfl)

theorem fget_laneTold_other {g : Field} (hg : g.place ∉ lanePlaces) (hm : g.place ≠ F.LANE_SYNC_MISS_COUNT.place)
    (i j : Nat) : (s.laneTold n faster tape f marks run).fget g i j = s.fget g i j :=
  (s.fget_laneTold hg i j).trans ((fget_addi _ _ _ _ _ hm).trans (s.fget_runLane hg i j))

theorem laneTold_only : Only [.det, .regs 16, .regs 20] s (s.laneTold n faster tape f marks run) := by
  unfold laneTold
  extract_lets s1 s2 s3
  have h2 : Only [.det, .regs 16, .regs 20] s s2 := addi_only (by decide) (runLane_only (by decide) (.refl s))
  have h3 : Only [.det, .regs 16, .regs 20] s s3 := .ite (inc_only (by decide) h2) h2
  exact .ite (wr_only (by decide) h3) h3

/-- The lane keeps the samples that its ring holds. -/
theorem laneTold_det : ∃ l, (s.laneTold n faster tape f marks run).det = (s.setLane n l).det ∧ l.ring = (s.lane n).ring := by
  have h1 : ∃ l, (s.runLane n faster run).1.det = (s.setLane n l).det ∧ l.ring = (s.lane n).ring := ⟨_, rfl, rfl⟩
  unfold laneTold
  extract_lets s1 s2 s3
  have h3 : s3.det = s1.det := by unfold s3; split <;> rfl
  split
  · exact (congrArg (fun d => ∃ l, d = (s.setLane n l).det ∧ l.ring = (s.lane n).ring) h3).mpr h1
  · exact (congrArg (fun d => ∃ l, d = (s.setLane n l).det ∧ l.ring = (s.lane n).ring) h3).mpr h1

theorem laneTold_ring (k : Nat) : ((s.laneTold n faster tape f marks run).lane k).ring = (s.lane k).ring := by
  obtain ⟨l, hd, hr⟩ := s.laneTold_det (n := n) (faster := faster) (tape := tape) (f := f) (marks := marks) (run := run)
  rw [lane_congr _ hd]
  by_cases hk : k = n
  · rw [hk, lane_setLane_same, hr]
  · rw [lane_setLane_other _ _ hk]

theorem laneTold_jobs : JobsKept s (s.laneTold n faster tape f marks run) := by
  obtain ⟨l, hd, -⟩ := s.laneTold_det (n := n) (faster := faster) (tape := tape) (f := f) (marks := marks) (run := run)
  exact (s.setLane_jobs n l).trans (.of_det hd)

/-! ## Codewords from the lanes (R242 to R246) -/

/-- The record of a codeword as it comes from a lane. -/
def newJob (n : Nat) (t : Target) (use : CwUse) (run : LaneRun) (asperity : Bool) (now : Nat) : Job :=
  { id := s.det.nextJob, lane := n, cls := classOf t use, target := t, since := now, spilled := false, delta := 0
    drop := ((s.readSelect n (s.targetHead t)).runLane n 0 run).2, asperity := asperity, step := 0, promoted := false
    cands := [], probing := false, weight := 128, average := 1, erase := false }

/-- The framing of a codeword by the marks of its lane. -/
def framingOf (n : Nat) (marks : MarkScan) : Framing := if decide (n < 64) then s.tapeMark marks else s.diskMarks 1 marks

theorem readSelect_det (n h : Nat) : (s.readSelect n h).det = s.det :=
  readSelect_only (L := [.out, .wra]) (by decide) (.refl s) .det (by decide)

/-- A lane has run over a codeword and the codeword has an identifier. -/
def codewordRead (n : Nat) (t : Target) (marks : MarkScan) (run : LaneRun) : State :=
  let u := (s.readSelect n (s.targetHead t)).laneTold n 0 (decide (n < 64)) (s.framingOf n marks) marks run
  u.setDet { u.det with nextJob := u.det.nextJob + 1 }

/-- A codeword waits for a cell. -/
def queued (j : Job) : State := s.setDet { s.det with waiting := s.det.waiting ++ [j] }

/-- Where a codeword goes that a lane has run over: it waits once its samples are in the ring, or is missed by its owner. -/
def codewordTo (j : Job) (noMark : Bool) (f : Framing) : State :=
  let p := s.ringIn j.lane
  match j.target with
  | .verify c =>
    if noMark then s.verifyDecide c false false else if p.2 then p.1.queued j else p.1.verifyDecide c false false
  | .tapeRead k ds cw => if noMark then s.tapeMissing k ds cw else if p.2 then p.1.queued j else p.1.tapeMissing k ds cw
  | _ => if p.2 then (if (f.frame 0).isNone then p.1.unframed j else p.1.takeJob j f) else p.1.dropped j

end State

section
variable {s : State} {lane : BitVec 7} {target : CwTarget} {use : CwUse} {marks : MarkScan} {run : LaneRun} {asperity : Bool}
  {now : BitVec 64} {t : Target}

theorem exec_codewordComplete_none (h : s.targetOf lane.toNat target = none) :
    exec (.codewordComplete lane target use marks run asperity now) s = .next s := by
  change execCodewordComplete lane target use marks run asperity now s = _
  unfold execCodewordComplete
  simp only [h]

theorem exec_codewordComplete_barred (h : s.targetOf lane.toNat target = some t) (hb : s.headBarred lane.toNat t = true) :
    exec (.codewordComplete lane target use marks run asperity now) s = .next s := by
  change execCodewordComplete lane target use marks run asperity now s = _
  unfold execCodewordComplete
  simp only [h]
  exact if_pos hb

/-- A codeword that a lane delivers goes the way of its target. -/
theorem exec_codewordComplete_read {n : Nat} (hn : n = lane.toNat) (h : s.targetOf n target = some t)
    (hb : s.headBarred n t = false) : exec (.codewordComplete lane target use marks run asperity now) s =
      .next ((s.codewordRead n t marks run).codewordTo (s.newJob n t use run asperity now.toNat)
        (decide (n < 64) && decide (s.framingOf n marks = .neither)) (s.framingOf n marks)) := by
  subst hn
  change execCodewordComplete lane target use marks run asperity now s = _
  unfold execCodewordComplete
  extract_lets n tape framing noMark
  rw [h]
  dsimp -zeta only
  rw [if_neg (by simp [n, hb])]
  extract_lets s2 s3 s4 j d s5
  have h5 : s5 = s.codewordRead n t marks run := rfl
  have h4 : s4.det.nextJob = s.det.nextJob := by
    exact ((JobsKept.of_det (s.readSelect_det n _)).trans (State.laneTold_jobs _)).nextJob
  have hj : j = s.newJob n t use run asperity now.toNat := by
    unfold j State.newJob
    rw [h4]
  have hm : (decide (n < 64) && decide (s.framingOf n marks = .neither)) = noMark := rfl
  have hf : s.framingOf n marks = framing := rfl
  rw [h5, hj, hm, hf]
  clear_value noMark framing
  unfold State.codewordTo
  have hl : (s.newJob n t use run asperity now.toNat).lane = n := rfl
  have ht : (s.newJob n t use run asperity now.toNat).target = t := rfl
  rw [hl, ht]
  rcases hr : (s.codewordRead n t marks run).ringIn n with ⟨u, b⟩
  cases t with
  | verify c | tapeRead k ds cw =>
    cases noMark
    · cases b <;> rfl
    · simp only [if_true]
      rfl
  | zone z pos | landing h pos =>
    cases b
    · rfl
    · cases hn : (framing.frame 0).isNone
      · rfl
      · simp only [if_true]
        rfl

end

end Sys2Proof.Machine

namespace Sys2Proof.Machine

/-- A target that is a disk sector. -/
def Target.sector : Target → Bool
  | .zone _ _ | .landing _ _ => true
  | _ => false

namespace State

variable (s : State)

theorem codewordRead_jobs (n : Nat) (t : Target) (marks : MarkScan) (run : LaneRun) :
    ∃ u, JobsKept s u ∧ s.codewordRead n t marks run = u.setDet { u.det with nextJob := u.det.nextJob + 1 } :=
  ⟨_, (JobsKept.of_det (s.readSelect_det n _)).trans (laneTold_jobs _), rfl⟩

theorem codewordRead_waiting (n : Nat) (t : Target) (marks : MarkScan) (run : LaneRun) :
    (s.codewordRead n t marks run).det.waiting = s.det.waiting := by
  obtain ⟨u, hu, h⟩ := s.codewordRead_jobs n t marks run
  rw [h]
  exact hu.waiting

theorem codewordRead_nextJob (n : Nat) (t : Target) (marks : MarkScan) (run : LaneRun) :
    (s.codewordRead n t marks run).det.nextJob = s.det.nextJob + 1 := by
  obtain ⟨u, hu, h⟩ := s.codewordRead_jobs n t marks run
  rw [h]
  exact congrArg (· + 1) hu.nextJob

theorem codewordRead_ladders (n : Nat) (t : Target) (marks : MarkScan) (run : LaneRun) :
    (s.codewordRead n t marks run).det.ladders = s.det.ladders := by
  obtain ⟨u, hu, h⟩ := s.codewordRead_jobs n t marks run
  rw [h]
  exact hu.ladders

theorem codewordRead_ring (n : Nat) (t : Target) (marks : MarkScan) (run : LaneRun) (k : Nat) :
    ((s.codewordRead n t marks run).lane k).ring = (s.lane k).ring :=
  (laneTold_ring (s.readSelect n (s.targetHead t)) k).trans
    (congrArg LaneSt.ring (s.lane_congr (s.readSelect_det n _) k))

theorem codewordRead_only (n : Nat) (t : Target) (marks : MarkScan) (run : LaneRun) :
    Only [.out, .wra, .det, .regs 16, .regs 20] s (s.codewordRead n t marks run) :=
  setDet_only (by decide) (.trans ((readSelect_only (L := [.out, .wra]) (by decide) (.refl s)).mono (by decide))
    ((laneTold_only _).mono (by decide)))

theorem fget_codewordRead (n : Nat) (t : Target) (marks : MarkScan) (run : LaneRun) {g : Field}
    (h : g ∈ allFields) (hg : g.place ∉ lanePlaces) (hm : g.place ≠ F.LANE_SYNC_MISS_COUNT.place) (i j : Nat) :
    (s.codewordRead n t marks run).fget g i j = s.fget g i j :=
  (fget_laneTold_other (s.readSelect n (s.targetHead t)) hg hm i j).trans
    ((readSelect_only (L := [.out, .wra]) (by decide) (.refl s)).fget h (by simp) i j)

theorem codewordRead_missed (n : Nat) (t : Target) (marks : MarkScan) (run : LaneRun) :
    (s.codewordRead n t marks run).rdi F.LANE_SYNC_MISS_COUNT n =
      Nat.min (s.rdi F.LANE_SYNC_MISS_COUNT n + (s.framingOf n marks).missing (decide (n < 64))) (2 ^ 32 - 1) :=
  (laneTold_missed (s.readSelect n (s.targetHead t))).trans (by
    rw [rdi, rdi, (readSelect_only (L := [.out, .wra]) (by decide) (.refl s)).fget
      (by decide +kernel : F.LANE_SYNC_MISS_COUNT ∈ allFields) (by simp)])

variable {s} {j : Job} {noMark : Bool} {f : Framing}

theorem takeJob_framed (h : f.frame j.step = some 0) : s.takeJob j f = s.queued j := by
  unfold takeJob
  rw [h]
  rfl

/-- A codeword with its mark found and room in its ring waits. -/
theorem codewordTo_queued (hm : noMark = false) (hf : j.target.sector = true → f.frame 0 = some 0) (hs : j.step = 0)
    (hr : (s.lane j.lane).ring + sampleBytes j.lane ≤ ringBytes j.lane) :
    s.codewordTo j noMark f = (s.setRingLevel j.lane ((s.lane j.lane).ring + sampleBytes j.lane)).queued j := by
  unfold codewordTo
  rw [hm, ringIn_fits hr]
  cases ht : j.target with
  | verify c => rfl
  | tapeRead k ds cw => rfl
  | zone z pos =>
    have h0 := hf (by rw [ht]; rfl)
    simp only [h0, Option.isNone_some, if_true, Bool.false_eq_true, if_false]
    exact takeJob_framed (hs ▸ h0)
  | landing h pos =>
    have h0 := hf (by rw [ht]; rfl)
    simp only [h0, Option.isNone_some, if_true, Bool.false_eq_true, if_false]
    exact takeJob_framed (hs ▸ h0)

variable {n : Nat} {ct : CwTarget} {t : Target}

theorem targetOf_sector (h : s.targetOf n ct = some t) (ht : t.sector = true) : 68 ≤ n := by
  unfold targetOf at h
  cases ct with
  | verify slot =>
    simp only at h
    split at h
    · cases h
    · obtain ⟨c, -, rfl⟩ := Option.map_eq_some_iff.mp h
      cases ht
  | tape p ds cw =>
    simp only [Option.ite_none_right_eq_some, Option.some.injEq] at h
    obtain ⟨-, rfl⟩ := h
    cases ht
  | zone z pos | landing h pos =>
    simp only [Option.ite_none_right_eq_some, Bool.and_eq_true, decide_eq_true_eq] at h
    exact h.1.1.2

theorem targetOf_tapeRead {k ds cw : Nat} (h : s.targetOf n ct = some (.tapeRead k ds cw)) : n < 64 := by
  unfold targetOf at h
  cases ct with
  | verify slot =>
    simp only at h
    split at h
    · cases h
    · obtain ⟨c, -, hc⟩ := Option.map_eq_some_iff.mp h
      cases hc
  | tape p ds cw =>
    simp only [Option.ite_none_right_eq_some, Bool.and_eq_true, decide_eq_true_eq] at h
    exact h.1.1.2
  | zone z pos | landing h pos => simp at h

theorem targetOf_verify {c : Copy} (h : s.targetOf n ct = some (.verify c)) : c ∈ s.tape.awaiting := by
  unfold targetOf at h
  cases ct with
  | verify slot =>
    simp only at h
    split at h
    · cases h
    · obtain ⟨c', hc', hc⟩ := Option.map_eq_some_iff.mp h
      cases hc
      exact List.mem_of_find?_eq_some hc'
  | tape p ds cw | zone z pos | landing h pos => simp at h

theorem headBarred_of_none_allowed (hn : 68 ≤ n) (h : s.readAllowance = 0) : s.headBarred n t = true := by
  simp [headBarred, hn, h]

theorem decided_fget (s : State) (c : Copy) (pass : Bool) (g : Field) (i j : Nat) :
    (s.decided c pass false).fget g i j = s.fget g i j := rfl

/-- A codeword waits for the re-read of its ladder step. -/
def onLadders (s : State) (j : Job) : State := s.setDet { s.det with ladders := s.det.ladders ++ [j] }

/-- What a re-read step sets up leaves the codewords of the pool as they are, but for the one that now waits for it. -/
theorem setUpReread_jobs (s : State) (j : Job) :
    ∃ u, JobsKept s u ∧ Only [.out, .wra, .det] s u ∧ s.setUpReread j = u.onLadders j := by
  unfold setUpReread
  extract_lets l1 s1 l2 s2 b s3 d
  have hlane : ∀ (t : State) (l : LaneSt), Only [.out, .wra, .det] t (t.setLane j.lane l) := fun t l =>
    setLane_only (by decide) (.refl t)
  have h1 : JobsKept s s1 ∧ Only [.out, .wra, .det] s s1 := by
    unfold s1
    split
    · exact ⟨s.setLane_jobs _ _, hlane _ _⟩
    · exact ⟨.refl s, .refl s⟩
  have h2 : JobsKept s s2 ∧ Only [.out, .wra, .det] s s2 := by
    unfold s2
    split
    · exact ⟨h1.1.trans (s1.setLane_jobs _ _), h1.2.trans (hlane _ _)⟩
    · split
      · exact ⟨h1.1.trans (s1.setLane_jobs _ _), h1.2.trans (hlane _ _)⟩
      · exact h1
  have h3 : JobsKept s s3 ∧ Only [.out, .wra, .det] s s3 := by
    unfold s3
    split
    · have hb : Only [.out, .wra] s2 ((s2.sendBias (s2.targetHead j.target) b).sendBias (s2.targetHead j.target) (-b)) :=
        sendBias_only (by decide) (sendBias_only (by decide) (.refl s2))
      exact ⟨h2.1.trans (.of_det (hb .det (by decide))), h2.2.trans (hb.mono (by decide))⟩
    · exact h2
  exact ⟨s3, h3.1, h3.2, rfl⟩

theorem setUpReread_ladders (s : State) (j : Job) : (s.setUpReread j).det.ladders = s.det.ladders ++ [j] := by
  obtain ⟨u, hu, -, h⟩ := s.setUpReread_jobs j
  rw [h, ← hu.ladders]
  rfl

/-- A sector that enters the ladder at a re-read step waits for that re-read. -/
theorem enterLadder_ladders {n : Nat} (hn : retainedStep n = false) (h : n ≤ s.rd F.LANE_RETRY_CFG_LAST_STEP) :
    (s.enterLadder j n).det.ladders =
      s.det.ladders ++ [{ j with cls := .retry, step := n, promoted := false, cands := [], probing := false }] := by
  have hl : Only [.out, .host, .life, .trc, .regs 0, .regs 4, .regs 49] s (s.lifeAdd 72 1) :=
    lifeAdd_only (by decide) (.refl s)
  have hc : (s.lifeAdd 72 1).rd F.LANE_RETRY_CFG_LAST_STEP = s.rd F.LANE_RETRY_CFG_LAST_STEP :=
    hl.fget (by decide +kernel) (by decide) 0 0
  unfold enterLadder ladderStep
  rw [hc, if_neg (by omega)]
  extract_lets i
  rw [hn, if_neg (by simp), setUpReread_ladders, (freeSamples_jobs _ i).ladders]
  exact congrArg (fun d : DetSt => d.ladders ++ [i]) (hl .det (by decide))

theorem fget_setRingLevel {g : Field} (h : g.place ≠ F.LANE_RING_LEVEL_KIB.place) (lane n i j : Nat) :
    (s.setRingLevel lane n).fget g i j = s.fget g i j := by
  unfold setRingLevel
  extract_lets v s1 w
  split
  · exact fget_wri _ _ _ _ _ h
  · exact (fget_wri _ _ _ _ _ h).trans (fget_wri _ _ _ _ _ h)

/-- A sector of the landing zone that fails framing enters the ladder. -/
theorem codewordTo_unframed {h pos : Nat} (ht : j.target = .landing h pos) (hf : f.frame 0 = none)
    (hr : (s.lane j.lane).ring + sampleBytes j.lane ≤ ringBytes j.lane) :
    s.codewordTo j noMark f =
      (s.setRingLevel j.lane ((s.lane j.lane).ring + sampleBytes j.lane)).enterLadder j 4 := by
  unfold codewordTo unframed
  rw [ringIn_fits hr, ht, hf]
  rfl

theorem codewordTo_unframed_ladders {h pos : Nat} (ht : j.target = .landing h pos) (hf : f.frame 0 = none)
    (hr : (s.lane j.lane).ring + sampleBytes j.lane ≤ ringBytes j.lane) (h4 : 4 ≤ s.rd F.LANE_RETRY_CFG_LAST_STEP) :
    (s.codewordTo j noMark f).det.ladders =
      s.det.ladders ++ [{ j with cls := .retry, step := 4, promoted := false, cands := [], probing := false }] := by
  have hc : ∀ m, (s.setRingLevel j.lane m).rd F.LANE_RETRY_CFG_LAST_STEP = s.rd F.LANE_RETRY_CFG_LAST_STEP := fun m =>
    fget_setRingLevel (by decide) _ _ 0 0
  rw [codewordTo_unframed ht hf hr, enterLadder_ladders (by decide) (h4.trans_eq (hc _).symm),
    (s.setRingLevel_jobs _ _).ladders]

end State

section
variable {s : State} {lane : BitVec 7} {target : CwTarget} {use : CwUse} {marks : MarkScan} {run : LaneRun} {asperity : Bool}
  {now : BitVec 64} {t : Target} {n : Nat}

theorem exec_codewordComplete_no_channel (hn : n = lane.toNat) (h68 : 68 ≤ n) (h0 : s.readAllowance = 0) :
    exec (.codewordComplete lane target use marks run asperity now) s = .next s := by
  subst hn
  cases h : s.targetOf lane.toNat target with
  | none => exact exec_codewordComplete_none h
  | some t => exact exec_codewordComplete_barred h (State.headBarred_of_none_allowed h68 h0)

/-- A codeword whose mark is found and whose ring has room joins the end of the waiting list. -/
theorem exec_codewordComplete_queued (hn : n = lane.toNat) (h : s.targetOf n target = some t) (hb : s.headBarred n t = false)
    (hr : (s.lane n).ring + sampleBytes n ≤ ringBytes n)
    (hf : if n < 64 then s.tapeMark marks ≠ .neither else (s.diskMarks 1 marks).frame 0 = some 0) : ∃ u,
      exec (.codewordComplete lane target use marks run asperity now) s = .next u ∧
      u.det.waiting = s.det.waiting ++ [s.newJob n t use run asperity now.toNat] ∧ u.det.nextJob = s.det.nextJob + 1 := by
  have hm : (decide (n < 64) && decide (s.framingOf n marks = .neither)) = false := by
    by_cases h64 : n < 64
    · rw [if_pos h64] at hf
      simpa [h64, State.framingOf] using hf
    · simp [h64]
  have hfr : t.sector = true → (s.framingOf n marks).frame 0 = some 0 := by
    intro hs
    have h64 : ¬ n < 64 := by have := State.targetOf_sector h hs; omega
    rw [if_neg h64] at hf
    simpa [State.framingOf, h64] using hf
  have hr' : ((s.codewordRead n t marks run).lane n).ring + sampleBytes n ≤ ringBytes n := by
    rwa [s.codewordRead_ring]
  have hk := (s.codewordRead n t marks run).setRingLevel_jobs n
    (((s.codewordRead n t marks run).lane n).ring + sampleBytes n)
  have hq : (s.codewordRead n t marks run).codewordTo (s.newJob n t use run asperity now.toNat) _ _ = _ :=
    State.codewordTo_queued hm hfr rfl hr'
  refine ⟨_, exec_codewordComplete_read hn h hb, ?_, ?_⟩
  · rw [hq]
    exact congrArg (· ++ [_]) (hk.waiting.trans (s.codewordRead_waiting n t marks run))
  · rw [hq]
    exact hk.nextJob.trans (s.codewordRead_nextJob n t marks run)

/-- A verify codeword without its mark fails. -/
theorem exec_codewordComplete_unmarked {c : Copy} (hn : n = lane.toNat) (h : s.targetOf n target = some (.verify c))
    (hb : s.headBarred n (.verify c) = false) (h64 : n < 64) (hm : s.tapeMark marks = .neither) :
    exec (.codewordComplete lane target use marks run asperity now) s =
      .next ((s.codewordRead n (.verify c) marks run).verifyDecide c false false) := by
  have hf : s.framingOf n marks = .neither := by simpa [State.framingOf, h64] using hm
  refine (exec_codewordComplete_read hn h hb).trans (congrArg _ ?_)
  have : (decide (n < 64) && decide (s.framingOf n marks = .neither)) = true := by simp [h64, hf]
  rw [this]
  rfl

/-- With the decision on an unmarked verify codeword nothing more waits, and the mark missed is counted. -/
theorem codewordRead_decided {c : Copy} (hc : c ∈ s.tape.awaiting) (h64 : n < 64) (hm : s.tapeMark marks = .neither) (u : State)
    (hu : u = (s.codewordRead n (.verify c) marks run).verifyDecide c false false) :
    (∀ j ∈ u.det.waiting, j ∈ s.det.waiting) ∧
    u.rdi F.LANE_SYNC_MISS_COUNT n = Nat.min (s.rdi F.LANE_SYNC_MISS_COUNT n + 1) (2 ^ 32 - 1) ∧
    Store.get 0 u.tape.last16 c.track = (Store.get 0 s.tape.last16 c.track * 2 + 1) % 65536 := by
  have htape : (s.codewordRead n (.verify c) marks run).tape = s.tape := s.codewordRead_only n _ marks run .tape (by decide)
  have hc' : c ∈ (s.codewordRead n (.verify c) marks run).tape.awaiting := by rwa [htape]
  have hk := State.verifyDecide_undecided hc' false false
  have hf : s.framingOf n marks = .neither := by simpa [State.framingOf, h64] using hm
  subst hu
  refine ⟨fun j hj => ?_, ?_, ?_⟩
  · have := hk.waiting hj
    rwa [State.decided_det, s.codewordRead_waiting] at this
  · rw [State.rdi, hk.fields F.LANE_SYNC_MISS_COUNT (by decide), State.decided_fget]
    refine (s.codewordRead_missed n _ marks run).trans ?_
    rw [hf]
    simp [h64, Framing.missing]
  · rw [State.verifyDecide_last16 hc', htape]
    rfl

/-- A sector of the landing zone that fails framing waits for its re-read at ladder step 4. -/
theorem exec_codewordComplete_unframed {h pos : Nat} (hn : n = lane.toNat) (ht : s.targetOf n target = some (.landing h pos))
    (hb : s.headBarred n (.landing h pos) = false) (hr : (s.lane n).ring + sampleBytes n ≤ ringBytes n)
    (hf : (s.diskMarks 1 marks).frame 0 = none) (h4 : 4 ≤ s.rd F.LANE_RETRY_CFG_LAST_STEP) : ∃ u j,
      exec (.codewordComplete lane target use marks run asperity now) s = .next u ∧
      u.det.ladders = s.det.ladders ++ [j] ∧ j.target = .landing h pos ∧ j.step = 4 ∧ j.cls = .retry := by
  have h68 : ¬ n < 64 := by have := State.targetOf_sector ht rfl; omega
  have hf' : (s.framingOf n marks).frame 0 = none := by simpa [State.framingOf, h68] using hf
  have hr' : ((s.codewordRead n (.landing h pos) marks run).lane n).ring + sampleBytes n ≤ ringBytes n := by
    rwa [s.codewordRead_ring]
  have h4' : 4 ≤ (s.codewordRead n (.landing h pos) marks run).rd F.LANE_RETRY_CFG_LAST_STEP :=
    h4.trans_eq (s.fget_codewordRead n _ marks run (by decide +kernel) (by decide) (by decide) 0 0).symm
  exact ⟨_, _, exec_codewordComplete_read hn ht hb, (State.codewordTo_unframed_ladders rfl hf' hr' h4').trans
    (congrArg (· ++ [_]) (s.codewordRead_ladders n _ marks run)), rfl, rfl, rfl⟩

end

end Sys2Proof.Machine

namespace Sys2Proof.Machine

/-! ## Re-reads of the retry ladder (R262) -/

namespace State

variable (s : State)

/-- A ladder no longer holds a codeword. -/
def offLadders (j : Job) : State := s.setDet { s.det with ladders := s.det.ladders.filter (fun k => k.id != j.id) }

theorem rereadOver_jobs (j : Job) : JobsKept (s.offLadders j) (s.rereadOver j) := by
  unfold rereadOver
  extract_lets d s1 l s2
  have h2 : JobsKept (s.offLadders j) s2 := by
    unfold s2
    split
    · exact s1.setLane_jobs _ _
    · exact .refl _
  split
  · exact h2.trans (.of_det (sendBias_only (L := [.out, .wra]) (by decide) (.refl s2) .det (by decide)))
  · exact h2

theorem rereadOver_ring (j : Job) (k : Nat) : ((s.rereadOver j).lane k).ring = (s.lane k).ring := by
  unfold rereadOver
  extract_lets d s1 l s2
  have h2 : (s2.lane k).ring = (s.lane k).ring := by
    unfold s2
    split
    · by_cases hk : k = j.lane
      · rw [hk, lane_setLane_same]
        rfl
      · rw [lane_setLane_other _ _ hk]
        rfl
    · rfl
  split
  · rw [lane_congr s2 (sendBias_only (L := [.out, .wra]) (by decide) (.refl s2) .det (by decide)), h2]
  · exact h2

/-- The framing of a re-read of a codeword's ladder step: step 14 searches windows 4 times as wide. -/
def rereadFraming (j : Job) (marks : MarkScan) : Framing := s.diskMarks (if j.step = 14 then 4 else 1) marks

/-- A lane has run over a sector again for a step of its ladder. -/
def reread (j : Job) (t : Target) (marks : MarkScan) (run : LaneRun) : State :=
  ((s.rereadOver j).readSelect j.lane (s.targetHead t)).laneTold j.lane (if j.step = 5 then 4 else 0) false
    (s.rereadFraming j marks) marks run

/-- The codeword of a re-read with the samples of its lane's run. -/
def rereadJob (j : Job) (t : Target) (run : LaneRun) (now : Nat) : Job :=
  { j with since := now, spilled := false
           drop := (((s.rereadOver j).readSelect j.lane (s.targetHead t)).runLane j.lane (if j.step = 5 then 4 else 0) run).2 }

theorem reread_jobs (j : Job) (t : Target) (marks : MarkScan) (run : LaneRun) :
    JobsKept (s.offLadders j) (s.reread j t marks run) :=
  (s.rereadOver_jobs j).trans ((JobsKept.of_det (readSelect_det _ _ _)).trans (laneTold_jobs _))

theorem reread_ring (j : Job) (t : Target) (marks : MarkScan) (run : LaneRun) (k : Nat) :
    ((s.reread j t marks run).lane k).ring = (s.lane k).ring :=
  (laneTold_ring ((s.rereadOver j).readSelect j.lane (s.targetHead t)) k).trans
    ((congrArg LaneSt.ring (lane_congr _ (readSelect_det _ _ _) k)).trans (s.rereadOver_ring j k))

end State

section
variable {s : State} {target : CwTarget} {run : LaneRun} {marks : MarkScan} {now : BitVec 64} {t : Target} {j : Job}

theorem exec_retryRereadDone_none (h : s.targetOf 68 target = none) :
    exec (.retryRereadDone target run marks now) s = .next s := by
  change execRetryRereadDone target run marks now s = _
  unfold execRetryRereadDone
  rw [h]

theorem exec_retryRereadDone_fits (h : s.targetOf 68 target = some t)
    (hj : s.det.ladders.find? (fun j => j.target = t) = some j)
    (hr : (s.lane j.lane).ring + sampleBytes j.lane ≤ ringBytes j.lane) :
    exec (.retryRereadDone target run marks now) s =
      .next (((s.reread j t marks run).setRingLevel j.lane ((s.lane j.lane).ring + sampleBytes j.lane)).takeJob
        (s.rereadJob j t run now.toNat) (s.rereadFraming j marks)) := by
  change execRetryRereadDone target run marks now s = _
  unfold execRetryRereadDone
  rw [h]
  dsimp -zeta only
  rw [hj]
  dsimp -zeta only
  extract_lets framing s1 s2 s3 s4 j'
  have h4 : s4 = s.reread j t marks run := rfl
  have hr' : ((s.reread j t marks run).lane j.lane).ring + sampleBytes j.lane ≤ ringBytes j.lane := by rwa [s.reread_ring]
  have hfit := State.ringIn_fits hr'
  rw [s.reread_ring] at hfit
  rw [h4, hfit]
  rfl

/-- A re-read that frames is queued again. -/
theorem exec_retryRereadDone_framed (h : s.targetOf 68 target = some t)
    (hj : s.det.ladders.find? (fun j => j.target = t) = some j)
    (hr : (s.lane j.lane).ring + sampleBytes j.lane ≤ ringBytes j.lane)
    (hf : (s.diskMarks (if j.step = 14 then 4 else 1) marks).frame j.step = some 0) : ∃ u d,
      exec (.retryRereadDone target run marks now) s = .next u ∧
      u.det.waiting = s.det.waiting ++ [{ j with since := now.toNat, spilled := false, drop := d }] ∧
      u.det.ladders = s.det.ladders.filter (fun k => k.id != j.id) := by
  have hk := (s.reread_jobs j t marks run).trans
    ((s.reread j t marks run).setRingLevel_jobs j.lane ((s.lane j.lane).ring + sampleBytes j.lane))
  have hq := State.takeJob_framed (s := (s.reread j t marks run).setRingLevel j.lane ((s.lane j.lane).ring + sampleBytes j.lane))
    (j := s.rereadJob j t run now.toNat) hf
  exact ⟨_, _, (exec_retryRereadDone_fits h hj hr).trans (congrArg _ hq),
    congrArg (· ++ [s.rereadJob j t run now.toNat]) hk.waiting, hk.ladders⟩

end

/-! ## Re-reads of a data set on tape (R174, R258) -/

namespace State

/-- The lost units of a data set are told their owners; the tape's part stays. -/
theorem tapeLost_tape (s : State) (part ds m : Nat) : ∃ u : State, s.tapeLost part ds m = u.readSet (ds + part * 2 ^ 32) ∧
    u.tape.rereads = s.tape.rereads.filter (fun r => r.1 != ds + part * 2 ^ 32) := by
  unfold tapeLost
  extract_lets k t s1 gone s2
  have h2 : Only [.out, .host, .obj, .life, .trc, .regs 0, .regs 4, .regs 49] s1 s2 := by
    unfold s2
    split
    · exact .foldl _ (.refl s1) fun s u h => setUnit_only (by decide) h
    · exact loseUnits_only (by decide) (.refl s1)
  have ht : s2.tape = s1.tape := h2 .tape (by decide)
  exact ⟨s2, rfl, congrArg TapeSt.rereads ht⟩

theorem stopTape_tape (s : State) : s.stopTape.tape = s.tape :=
  stopTape_only (L := [.mot, .ctl, .pwr, .regs 32]) (by decide) (.refl s) .tape (by decide)

/-- A data set whose reads are over is read ahead. -/
theorem readSet_readAhead (s : State) (k : Nat) : k ∈ (s.readSet k).tape.readAhead := by
  unfold readSet
  extract_lets t1 s1 t2 s2
  split
  · next h => exact List.contains_iff_mem.mp h
  · have h2 : k ∈ s2.tape.readAhead := List.mem_append_right _ (List.mem_singleton_self k)
    split
    · rwa [stopTape_tape]
    · exact h2

theorem readSet_rereads (s : State) (k : Nat) : (s.readSet k).tape.rereads = s.tape.rereads := by
  unfold readSet
  extract_lets t1 s1 t2 s2
  split
  · rfl
  · split
    · rw [stopTape_tape]
      rfl
    · rfl

/-- A re-read of a data set gave good codewords, and others stay missing. -/
def rereadNoted (s : State) (k tries left good : Nat) : State :=
  s.setTape { s.tape with
    rereads := s.tape.rereads.filter (fun e => e.1 != k) ++ [(k, tries, left)]
    readGood := Store.put 0 s.tape.readGood k (Nat.lor (Store.get 0 s.tape.readGood k) good) }

theorem rereadNoted_good (s : State) (k tries left good : Nat) :
    Store.get 0 (s.rereadNoted k tries left good).tape.readGood k = Nat.lor (Store.get 0 s.tape.readGood k) good :=
  Store.get_put_same ..

theorem rereadNoted_find (s : State) (k tries left good : Nat) :
    (s.rereadNoted k tries left good).tape.rereads.find? (fun r => r.1 = k) = some (k, tries, left) := by
  have hn : (s.tape.rereads.filter (fun e => e.1 != k)).find? (fun r => r.1 = k) = none := by
    simp only [List.find?_eq_none, List.mem_filter]
    rintro r ⟨-, hr⟩
    simpa using hr
  exact (List.find?_append ..).trans (by rw [hn]; simp)

variable {s : State} {part ds n m : Nat}

/-- While some codeword is neither good nor missing the reads of a data set go on. -/
theorem tapeSettle_unread (hf : s.tape.rereads.find? (fun r => r.1 = ds + part * 2 ^ 32) = some (ds + part * 2 ^ 32, n, m))
    (h : popCount 192 (Nat.lor m (Store.get 0 s.tape.readGood (ds + part * 2 ^ 32))) ≠ 192) : s.tapeSettle part ds = s := by
  unfold tapeSettle
  extract_lets k r
  have hr : r = (k, n, m) := congrArg (fun o => Option.getD o (k, 0, 0)) hf
  rw [hr]
  exact if_pos (bne_iff_ne.mpr h)

/-- The reads of a data set end once L2 can run or no re-read is left. -/
theorem tapeSettle_over (hf : s.tape.rereads.find? (fun r => r.1 = ds + part * 2 ^ 32) = some (ds + part * 2 ^ 32, n, m))
    (h : popCount 192 (Nat.lor m (Store.get 0 s.tape.readGood (ds + part * 2 ^ 32))) = 192)
    (hm : popCount 192 m ≤ 16 ∨ s.rd F.LANE_RETRY_CFG_TREAD ≤ n) : s.tapeSettle part ds = s.tapeLost part ds m := by
  unfold tapeSettle
  extract_lets k r
  have hr : r = (k, n, m) := congrArg (fun o => Option.getD o (k, 0, 0)) hf
  rw [hr]
  exact (if_neg (fun hn => bne_iff_ne.mp hn h)).trans (if_pos (by simpa using hm))

end State

section
variable {s : State} {part : Bool} {ds : BitVec 32} {good : BitVec 192} {k n m left : Nat}

theorem exec_tapeRereadDone_none (hk : k = ds.toNat + b2n part * 2 ^ 32) (h : ∀ r ∈ s.tape.rereads, r.1 ≠ k) :
    exec (.tapeRereadDone part ds good) s = .next s := by
  subst hk
  have hf : s.tape.rereads.find? (fun r => r.1 = ds.toNat + b2n part * 2 ^ 32) = none := by simpa using h
  change execTapeRereadDone part ds good s = _
  unfold execTapeRereadDone
  extract_lets p n k
  rw [hf]

/-- A re-read of a data set that lacks too much for L2 is noted, and the reads of the set go on or end. -/
theorem exec_tapeRereadDone_some (hk : k = ds.toNat + b2n part * 2 ^ 32)
    (hf : s.tape.rereads.find? (fun r => r.1 = k) = some (k, n, m)) (hm : 16 < popCount 192 m)
    (hl : left = (onesOf 192 m).foldl (fun a i => if bitAt good.toNat i then a else setBit a i) 0) :
    exec (.tapeRereadDone part ds good) s =
      .next ((s.rereadNoted k (n + 1) left good.toNat).tapeSettle (b2n part) ds.toNat) := by
  subst hk hl
  change execTapeRereadDone part ds good s = _
  unfold execTapeRereadDone
  extract_lets p d k
  rw [hf]
  exact if_neg (Nat.not_le.mpr hm)

/-- While a codeword of a data set is neither good nor missing, what a re-read gave is noted. -/
theorem exec_tapeRereadDone_unread (hk : k = ds.toNat + b2n part * 2 ^ 32)
    (hf : s.tape.rereads.find? (fun r => r.1 = k) = some (k, n, m)) (hm : 16 < popCount 192 m)
    (hl : left = (onesOf 192 m).foldl (fun a i => if bitAt good.toNat i then a else setBit a i) 0)
    (h : popCount 192 (Nat.lor left (Nat.lor (Store.get 0 s.tape.readGood k) good.toNat)) ≠ 192) :
    exec (.tapeRereadDone part ds good) s = .next (s.rereadNoted k (n + 1) left good.toNat) := by
  have he := exec_tapeRereadDone_some (good := good) hk hf hm hl
  subst hk
  exact he.trans (congrArg _ (State.tapeSettle_unread (s.rereadNoted_find _ (n + 1) left good.toNat)
    (by rw [State.rereadNoted_good]; exact h)))

/-- Once every codeword of a data set is good or missing and no re-read is due, its reads end. -/
theorem exec_tapeRereadDone_over (hk : k = ds.toNat + b2n part * 2 ^ 32)
    (hf : s.tape.rereads.find? (fun r => r.1 = k) = some (k, n, m)) (hm : 16 < popCount 192 m)
    (hl : left = (onesOf 192 m).foldl (fun a i => if bitAt good.toNat i then a else setBit a i) 0)
    (h : popCount 192 (Nat.lor left (Nat.lor (Store.get 0 s.tape.readGood k) good.toNat)) = 192)
    (ho : popCount 192 left ≤ 16 ∨ s.rd F.LANE_RETRY_CFG_TREAD ≤ n + 1) : ∃ u,
      exec (.tapeRereadDone part ds good) s = .next u ∧ (∀ r ∈ u.tape.rereads, r.1 ≠ k) ∧ k ∈ u.tape.readAhead := by
  have he := exec_tapeRereadDone_some (good := good) hk hf hm hl
  subst hk
  have hs := State.tapeSettle_over (s.rereadNoted_find _ (n + 1) left good.toNat)
    ((congrArg (fun g => popCount 192 (Nat.lor left g)) (s.rereadNoted_good ..)).trans h) ho
  obtain ⟨u, hu, hr⟩ :=
    (s.rereadNoted (ds.toNat + b2n part * 2 ^ 32) (n + 1) left good.toNat).tapeLost_tape (b2n part) ds.toNat left
  refine ⟨_, he.trans (congrArg _ (hs.trans hu)), fun r hr' => ?_, u.readSet_readAhead _⟩
  rw [u.readSet_rereads, hr] at hr'
  simpa using (List.mem_filter.mp hr').2

end

end Sys2Proof.Machine

namespace Sys2Proof.Machine

/-! ## A free cell takes its next work (R252 to R254, R259) -/

/-- The VERIFY codewords of a list. -/
def verifyJobs (l : List Job) : List Job := l.filter (fun j => j.cls = .verify)

theorem mem_verifyJobs {l : List Job} {j : Job} : j ∈ verifyJobs l ↔ j ∈ l ∧ j.cls = .verify := by
  simp [verifyJobs]

theorem earliest_congr {l m : List Job} (h : verifyJobs l = verifyJobs m) : earliest l = earliest m :=
  congrArg (List.foldl _ none) h

/-- The earliest VERIFY codeword of a list is one of its VERIFY codewords. -/
theorem earliest_mem {l : List Job} {j : Job} (h : earliest l = some j) : j ∈ verifyJobs l := by
  have step : ∀ (xs : List Job) (m : Option Job), (∀ k ∈ m, k ∈ verifyJobs l) → xs ⊆ verifyJobs l →
      xs.foldl (fun m j => match m with
        | none => some j
        | some k => if j.since < k.since || (j.since = k.since && j.lane < k.lane) then some j else some k) m = some j →
      j ∈ verifyJobs l := by
    intro xs
    induction xs with
    | nil => exact fun m hm _ h => hm j h
    | cons x xs ih =>
      intro m hm hx
      refine ih _ ?_ (fun y hy => hx (List.mem_cons_of_mem _ hy))
      have hxl := hx List.mem_cons_self
      cases m with
      | none => simpa using hxl
      | some k =>
        intro y hy
        dsimp only at hy
        split at hy <;> cases hy
        · exact hxl
        · exact hm _ rfl
  exact step _ none (by simp) (fun _ h => h) h

namespace State

variable (s : State)

/-- A codeword has waited so long that it moves to the tail of READ. -/
def aged (now : Nat) (j : Job) : Bool :=
  !j.promoted && (j.cls = .readback || j.cls = .retry || j.cls = .background) && s.rd F.DET_CFG_AGE_US ≤ now - j.since

theorem aged_verify {j : Job} (now : Nat) (h : j.cls = .verify) : s.aged now j = false := by simp [aged, h]

/-- The aged codewords of a class, promoted. -/
def promotedOf (now : Nat) (k : SClass) : List Job :=
  (s.det.waiting.filter (fun j => s.aged now j && j.cls = k)).map (fun j => { j with promoted := true })

/-- The waiting list after promotion by age (R253). -/
def promotedList (now : Nat) : List Job :=
  s.det.waiting.filter (fun j => !s.aged now j) ++ s.promotedOf now .readback ++ s.promotedOf now .retry ++
    s.promotedOf now .background

theorem promote_eq (now : Nat) : s.promote now = s.setDet { s.det with waiting := s.promotedList now } := rfl

theorem verifyJobs_promotedOf (now : Nat) {k : SClass} (h : k ≠ .verify) : verifyJobs (s.promotedOf now k) = [] := by
  simp only [verifyJobs, promotedOf, List.filter_eq_nil_iff, List.mem_map, List.mem_filter]
  rintro _ ⟨j, ⟨-, hj⟩, rfl⟩
  have hk : j.cls = k := by simpa using (Bool.and_eq_true_iff.mp hj).2
  simpa [hk] using h

/-- Promotion leaves VERIFY codewords where they are. -/
theorem verifyJobs_promotedList (now : Nat) : verifyJobs (s.promotedList now) = verifyJobs s.det.waiting := by
  have h0 : verifyJobs (s.det.waiting.filter (fun j => !s.aged now j)) = verifyJobs s.det.waiting := by
    unfold verifyJobs
    rw [List.filter_filter]
    refine List.filter_congr fun j _ => ?_
    by_cases h : j.cls = .verify <;> simp [h, s.aged_verify now]
  have happ : ∀ a b, verifyJobs (a ++ b) = verifyJobs a ++ verifyJobs b := fun a b => List.filter_append ..
  rw [promotedList, happ, happ, happ, h0, s.verifyJobs_promotedOf now (by decide), s.verifyJobs_promotedOf now (by decide),
    s.verifyJobs_promotedOf now (by decide)]
  simp

theorem promotedList_young {now : Nat} (h : ∀ j ∈ s.det.waiting, now - j.since < s.rd F.DET_CFG_AGE_US) :
    s.promotedList now = s.det.waiting := by
  have hy : ∀ j ∈ s.det.waiting, s.aged now j = false := fun j hj => by
    have := h j hj
    simp only [aged, Bool.and_eq_false_iff, decide_eq_false_iff_not]
    omega
  have hk : ∀ k, s.promotedOf now k = [] := fun k => by
    simp only [promotedOf, List.map_eq_nil_iff, List.filter_eq_nil_iff]
    intro j hj
    simp [hy j hj]
  have h0 : s.det.waiting.filter (fun j => !s.aged now j) = s.det.waiting :=
    List.filter_eq_self.mpr fun j hj => by simp [hy j hj]
  simp [promotedList, hk, h0]

/-- While no VERIFY codeword is past its deadline none is taken from the lists. -/
theorem expireVerify_none {now : Nat}
    (h : ∀ j ∈ s.det.restart ++ s.det.waiting, j.cls = .verify → now ≤ j.since + 400) : s.expireVerify now = s := by
  have hp : ∀ j ∈ s.det.restart ++ s.det.waiting, ¬ (decide (j.cls = .verify) && decide (j.since + 400 < now)) = true := by
    intro j hj hn
    have := h j hj (by simpa using (Bool.and_eq_true_iff.mp hn).1)
    have : j.since + 400 < now := by simpa using (Bool.and_eq_true_iff.mp hn).2
    omega
  unfold expireVerify
  extract_lets past l d s1
  have hl : l = [] := List.filter_eq_nil_iff.mpr hp
  have hp' : ∀ j ∈ s.det.restart ++ s.det.waiting, (!past j) = true := fun j hj => by
    have hq : past j = false := Bool.eq_false_iff.mpr (hp j hj)
    rw [hq]
    rfl
  have hw : s.det.waiting.filter (fun j => !past j) = s.det.waiting :=
    List.filter_eq_self.mpr fun j hj => hp' j (List.mem_append_right _ hj)
  have hr : s.det.restart.filter (fun j => !past j) = s.det.restart :=
    List.filter_eq_self.mpr fun j hj => hp' j (List.mem_append_left _ hj)
  have h1 : s1 = s := by
    unfold s1
    rw [hw, hr]
    rfl
  rw [hl, h1]
  rfl

/-- A codeword starts, or is refused with its poisoned samples. -/
def goOn (poison : Bool) (j : Job) : State := if poison && j.spilled then s.poisoned j else s.startJob j

/-- The work that a free cell takes. -/
def dispatch (c : Nat) (poison : Bool) : State :=
  if (s.cell c).katFirst then s.setCell c { s.cell c with kat := true }
  else
    match s.det.restart with
    | j :: _ => s.goOn poison j
    | [] =>
      match earliest s.det.waiting with
      | some j => s.goOn poison j
      | none =>
        if (s.cell c).katDue then s.setCell c { s.cell c with kat := true }
        else match s.nextOther with
          | some j => s.goOn poison j
          | none => s

variable {s} {c : Nat} {poison : Bool} {j : Job}

theorem dispatch_katFirst (h : (s.cell c).katFirst = true) : s.dispatch c poison = s.setCell c { s.cell c with kat := true } :=
  if_pos h

theorem dispatch_restart {rest : List Job} (h : (s.cell c).katFirst = false) (hr : s.det.restart = j :: rest) :
    s.dispatch c poison = s.goOn poison j := by
  unfold dispatch
  rw [h, hr]
  rfl

theorem dispatch_verify (h : (s.cell c).katFirst = false) (hr : s.det.restart = []) (he : earliest s.det.waiting = some j) :
    s.dispatch c poison = s.goOn poison j := by
  unfold dispatch
  rw [h, hr]
  dsimp only
  rw [he]
  rfl

theorem dispatch_katDue (h : (s.cell c).katFirst = false) (hr : s.det.restart = []) (he : earliest s.det.waiting = none)
    (hk : (s.cell c).katDue = true) : s.dispatch c poison = s.setCell c { s.cell c with kat := true } := by
  unfold dispatch
  rw [h, hr]
  dsimp only
  rw [he]
  exact if_pos hk

theorem dispatch_other (h : (s.cell c).katFirst = false) (hr : s.det.restart = []) (he : earliest s.det.waiting = none)
    (hk : (s.cell c).katDue = false) (hn : s.nextOther = some j) : s.dispatch c poison = s.goOn poison j := by
  unfold dispatch
  rw [h, hr]
  dsimp only
  rw [he]
  dsimp only
  rw [hk, hn]
  rfl

theorem goOn_sound (h : poison = false ∨ j.spilled = false) : s.goOn poison j = s.startJob j :=
  if_neg (by rcases h with h | h <;> simp [h])

/-- A codeword that starts is in the free cell with the lowest number and waits no more. -/
theorem startJob_cell {k : Nat} (hk : s.freeCell = some k) : ∃ i, ((s.startJob j).cell k).job = some i ∧ i.id = j.id ∧
    i.target = j.target ∧ (j.cls = .verify → ((s.startJob j).cell k).limit = 3) ∧
    ∀ x ∈ (s.startJob j).det.restart ++ (s.startJob j).det.waiting, x.id ≠ j.id := by
  unfold startJob
  rw [hk]
  dsimp -zeta only
  extract_lets d s1 i
  refine ⟨i, ?_, rfl, rfl, fun hv => ?_, fun x hx => ?_⟩
  · rw [cell_setCell_same]
  · rw [cell_setCell_same]
    have hi : i.cls = .verify := hv
    unfold iterLimit
    rw [hi]
  · rcases List.mem_append.mp hx with hx | hx <;> simpa using (List.mem_filter.mp hx).2

end State

section
variable {s : State} {cell : BitVec 5} {now : BitVec 64} {poison : Bool} {c k : Nat} {j : Job}

theorem exec_cellFreeDispatch_busy (hc : c = cell.toNat)
    (h : s.cellOn c = false ∨ (s.cell c).job.isSome = true ∨ (s.cell c).kat = true) :
    exec (.cellFreeDispatch cell now poison) s = .next s := by
  subst hc
  change execCellFreeDispatch cell now poison s = _
  unfold execCellFreeDispatch
  extract_lets c
  exact if_pos (by rcases h with h | h | h <;> simp [c, h])

/-- A cell that may take work, while no VERIFY codeword is past its deadline. -/
structure CellFree (s : State) (c now : Nat) : Prop where
  on : s.cellOn c = true
  job : (s.cell c).job = none
  kat : (s.cell c).kat = false
  due : ∀ j ∈ s.det.waiting ++ s.det.restart, j.cls = .verify → now ≤ j.since + 400

/-- A free cell takes its work from the lists as promotion by age leaves them. -/
theorem exec_cellFreeDispatch_free (hc : c = cell.toNat) (hf : CellFree s c now.toNat) :
    exec (.cellFreeDispatch cell now poison) s = .next ((s.promote now.toNat).dispatch c poison) := by
  subst hc
  obtain ⟨ho, hj, hk, hv⟩ := hf
  have he : (s.promote now.toNat).expireVerify now.toNat = s.promote now.toNat := by
    refine State.expireVerify_none _ fun j hj hcls => ?_
    rcases List.mem_append.mp hj with h | h
    · exact hv j (List.mem_append_right _ h) hcls
    · have hm : j ∈ verifyJobs s.det.waiting := by
        rw [← s.verifyJobs_promotedList now.toNat]
        exact mem_verifyJobs.mpr ⟨h, hcls⟩
      exact hv j (List.mem_append_left _ (mem_verifyJobs.mp hm).1) hcls
  change execCellFreeDispatch cell now poison s = _
  unfold execCellFreeDispatch
  generalize cell.toNat = c at *
  simp only [ho, hj, hk, he, Bool.not_true, Option.isSome_none, Bool.or_self, Bool.false_eq_true, if_false]
  generalize s.promote now.toNat = v
  unfold State.dispatch
  dsimp only
  cases hf : (v.cell c).katFirst
  · rcases hr : v.det.restart with _ | ⟨j, rest⟩
    · rcases he : earliest v.det.waiting with _ | j
      · cases hd : (v.cell c).katDue
        · rcases hn : v.nextOther with _ | j <;> rfl
        · rfl
      · rfl
    · rfl
  · rfl

/-- The cell runs its self-check that a miscorrection calls for. -/
theorem exec_cellFreeDispatch_katFirst (hc : c = cell.toNat) (hf : CellFree s c now.toNat) (h : (s.cell c).katFirst = true) :
    ∃ u, exec (.cellFreeDispatch cell now poison) s = .next u ∧ (u.cell c).kat = true ∧ (u.cell c).job = none ∧
      u.det.restart = s.det.restart := by
  refine ⟨_, (exec_cellFreeDispatch_free hc hf).trans (congrArg _ (State.dispatch_katFirst h)), ?_, ?_, rfl⟩
  · rw [State.cell_setCell_same]
  · rw [State.cell_setCell_same]
    exact hf.job

/-- With neither a codeword to restart nor one of VERIFY the cell runs its due self-check. -/
theorem exec_cellFreeDispatch_katDue (hc : c = cell.toNat) (hf : CellFree s c now.toNat) (h : (s.cell c).katFirst = false)
    (hr : s.det.restart = []) (he : earliest s.det.waiting = none) (hd : (s.cell c).katDue = true) :
    ∃ u, exec (.cellFreeDispatch cell now poison) s = .next u ∧ (u.cell c).kat = true ∧ (u.cell c).job = none := by
  have he' : earliest (s.promote now.toNat).det.waiting = none :=
    (earliest_congr (s.verifyJobs_promotedList now.toNat)).trans he
  refine ⟨_, (exec_cellFreeDispatch_free hc hf).trans (congrArg _ (State.dispatch_katDue h hr he' hd)), ?_, ?_⟩
  · rw [State.cell_setCell_same]
  · rw [State.cell_setCell_same]
    exact hf.job

/-- The codeword that a free cell goes on with starts on the lowest free cell. -/
theorem exec_cellFreeDispatch_starts (hc : c = cell.toNat) (hf : CellFree s c now.toNat) (hk : s.freeCell = some k)
    (hp : poison = false ∨ j.spilled = false)
    (hd : (s.promote now.toNat).dispatch c poison = (s.promote now.toNat).goOn poison j) :
    ∃ u i, exec (.cellFreeDispatch cell now poison) s = .next u ∧ (u.cell k).job = some i ∧ i.id = j.id ∧
      i.target = j.target ∧ (j.cls = .verify → (u.cell k).limit = 3) ∧ ∀ x ∈ u.det.restart ++ u.det.waiting, x.id ≠ j.id := by
  have hk' : (s.promote now.toNat).freeCell = some k := hk
  obtain ⟨i, hi⟩ := State.startJob_cell (j := j) hk'
  exact ⟨_, i, (exec_cellFreeDispatch_free hc hf).trans (congrArg _ (hd.trans (State.goOn_sound hp))), hi⟩

theorem exec_cellFreeDispatch_restart {rest : List Job} (hc : c = cell.toNat) (hf : CellFree s c now.toNat)
    (hk : s.freeCell = some k) (hp : poison = false ∨ j.spilled = false) (h : (s.cell c).katFirst = false)
    (hr : s.det.restart = j :: rest) :
    ∃ u i, exec (.cellFreeDispatch cell now poison) s = .next u ∧ (u.cell k).job = some i ∧ i.id = j.id ∧
      i.target = j.target ∧ ∀ x ∈ u.det.restart ++ u.det.waiting, x.id ≠ j.id := by
  obtain ⟨u, i, hu, hi, hid, ht, -, hx⟩ := exec_cellFreeDispatch_starts hc hf hk hp (State.dispatch_restart h hr)
  exact ⟨u, i, hu, hi, hid, ht, hx⟩

theorem exec_cellFreeDispatch_verify (hc : c = cell.toNat) (hf : CellFree s c now.toNat)
    (hk : s.freeCell = some k) (hp : poison = false ∨ j.spilled = false) (h : (s.cell c).katFirst = false)
    (hr : s.det.restart = []) (he : earliest s.det.waiting = some j) :
    ∃ u i, exec (.cellFreeDispatch cell now poison) s = .next u ∧ (u.cell k).job = some i ∧ i.id = j.id ∧
      i.target = j.target ∧ (u.cell k).limit = 3 ∧ ∀ x ∈ u.det.waiting, x.id ≠ j.id := by
  have he' : earliest (s.promote now.toNat).det.waiting = some j :=
    (earliest_congr (s.verifyJobs_promotedList now.toNat)).trans he
  obtain ⟨u, i, hu, hi, hid, ht, hl, hx⟩ := exec_cellFreeDispatch_starts hc hf hk hp (State.dispatch_verify h hr he')
  exact ⟨u, i, hu, hi, hid, ht, hl (mem_verifyJobs.mp (earliest_mem he)).2,
    fun x hm => hx x (List.mem_append_right _ hm)⟩

theorem exec_cellFreeDispatch_other (hc : c = cell.toNat) (hf : CellFree s c now.toNat)
    (hk : s.freeCell = some k) (hp : poison = false ∨ j.spilled = false) (h : (s.cell c).katFirst = false)
    (hr : s.det.restart = []) (he : earliest s.det.waiting = none) (hd : (s.cell c).katDue = false)
    (hy : ∀ x ∈ s.det.waiting, now.toNat - x.since < s.rd F.DET_CFG_AGE_US) (hn : s.nextOther = some j) :
    ∃ u i, exec (.cellFreeDispatch cell now poison) s = .next u ∧ (u.cell k).job = some i ∧ i.id = j.id ∧
      i.target = j.target ∧ ∀ x ∈ u.det.waiting, x.id ≠ j.id := by
  have hs : s.promote now.toNat = s := by
    rw [State.promote_eq, s.promotedList_young hy]
    rfl
  have hdis : (s.promote now.toNat).dispatch c poison = (s.promote now.toNat).goOn poison j := by
    rw [hs]
    exact State.dispatch_other h hr he hd hn
  obtain ⟨u, i, hu, hi, hid, ht, -, hx⟩ := exec_cellFreeDispatch_starts hc hf hk hp hdis
  exact ⟨u, i, hu, hi, hid, ht, fun x hm => hx x (List.mem_append_right _ hm)⟩

/-- The self-check interval of a cell in service has passed. -/
theorem exec_cellSelfCheckDue_on (hc : c = cell.toNat) (h : s.cellOn c = true) : ∃ u,
    exec (.cellSelfCheckDue cell) s = .next u ∧ (u.cell c).katDue = true ∧ (u.cell c).job = (s.cell c).job ∧
      Only [.det] s u := by
  subst hc
  refine ⟨_, congrArg Host.Outcome.next (if_pos h), ?_, ?_, State.setCell_only (by decide) (.refl s)⟩
  · rw [State.cell_setCell_same]
  · rw [State.cell_setCell_same]

theorem exec_cellSelfCheckDue_off (hc : c = cell.toNat) (h : s.cellOn c = false) :
    exec (.cellSelfCheckDue cell) s = .next s := by
  subst hc
  exact congrArg Host.Outcome.next (if_neg (by simp [h]))

end

end Sys2Proof.Machine

namespace Sys2Proof.Machine

/-! ## Cells that are retired, and the spares (R259 to R261) -/

namespace State

variable (s : State)

/-- A cell is out of service and recorded as retired. -/
def cellRetired (c cause : Nat) : State :=
  let s := s.setCell c Cell.init
  let s := (s.raiseBit F.DET_CELL_RETIRED_RETIRED c).wr F.DET_CELL_MAP_IN_SERVICE
    (clrBit (s.rd F.DET_CELL_MAP_IN_SERVICE) c)
  let s := s.setDet { s.det with retiredRec := setBit s.det.retiredRec c }
  (s.wr F.DET_ERR_STATUS_CELL_RETIRED 1).raise 4 c 0x001 cause

/-- A spare comes in with what a retired cell held. -/
def spareIn (sp : Nat) (old : Cell) : State :=
  let s := (s.raiseBit F.DET_CELL_MAP_IN_SERVICE sp).showCells
  let s := s.setCell sp { Cell.init with job := old.job, limit := old.limit }
  s.raise 4 sp 0x002 (sp + s.activeCells * 256)

/-- Without a spare the codeword of a retired cell is to be restarted. -/
def spareless (old : Cell) : State :=
  let s := s.showCells
  let s := s.setDet { s.det with restart := s.det.restart ++ old.job.toList }
  (s.wr F.DET_ERR_STATUS_SPARES_OUT 1).raise 4 0 0x003 s.activeCells

/-- With the last cell the medium faults. -/
def cellsOut : State :=
  if s.activeCells = 0 && s.medium.state != mEmpty && s.medium.state != mStopped then
    (if s.tMode then s.mediaFault false else s.diskFaulted)
  else s

theorem retireCell_eq (c cause : Nat) : s.retireCell c cause =
    match (s.cellRetired c cause).spareCells with
    | sp :: _ => (s.cellRetired c cause).spareIn sp (s.cell c)
    | [] => ((s.cellRetired c cause).spareless (s.cell c)).cellsOut := rfl

/-- The places of the fields that show how many cells there are. -/
def cellCountPlaces : List Nat :=
  [F.DET_STATUS_ACTIVE, F.DET_STATUS_SPARES, F.DET_STATUS_DEGRADED].map Field.place

theorem fget_showCells {g : Field} (hg : g.place ∉ cellCountPlaces) (i j : Nat) : s.showCells.fget g i j = s.fget g i j := by
  simp only [cellCountPlaces, List.map_cons, List.map_nil, List.mem_cons, List.not_mem_nil, not_or] at hg
  obtain ⟨ha, hs, hd, -⟩ := hg
  exact (fget_wr _ _ _ _ hd).trans ((fget_wr _ _ _ _ hs).trans (fget_wr _ _ _ _ ha))

theorem raise_pool (a b c d : Nat) : Only partsOfEvent s (s.raise a b c d) := raise_only (by decide) (.refl s)

variable {s} {c cause k : Nat}

theorem cellRetired_det : (s.cellRetired c cause).det =
    { (s.setCell c Cell.init).det with retiredRec := setBit s.det.retiredRec c } :=
  raise_pool _ _ _ _ _ .det (by decide)

theorem cellRetired_map (hk : k < 26) : (s.cellRetired c cause).cellOn k = (s.cellOn k && !decide (c = k)) := by
  unfold cellOn cellRetired
  extract_lets s1 s2 d s3
  rw [rd, (raise_pool _ _ _ _ _).fget (by decide +kernel) (by decide), fget_wr _ _ _ _ (by decide)]
  exact (bitAt_wr hk _).trans (bitAt_clrBit _ _ _)

theorem cellRetired_retired (hk : k < 26) : bitAt ((s.cellRetired c cause).rd F.DET_CELL_RETIRED_RETIRED) k =
    (bitAt (s.rd F.DET_CELL_RETIRED_RETIRED) k || decide (c = k)) := by
  unfold cellRetired
  extract_lets s1 s2 d s3
  rw [rd, (raise_pool _ _ _ _ _).fget (by decide +kernel) (by decide), fget_wr _ _ _ _ (by decide)]
  exact (congrArg (bitAt · k) (fget_wr _ _ _ _ (by decide))).trans (bitAt_raiseBit hk c)

/-- A cell in service that is retired was no spare and becomes none. -/
theorem spareCells_cellRetired (hc : s.cellOn c = true) : (s.cellRetired c cause).spareCells = s.spareCells := by
  refine List.filter_congr fun k hk => ?_
  have hk : k < 26 := List.mem_range.mp hk
  rw [cellRetired_map hk, cellRetired_retired hk]
  by_cases h : c = k
  · subst h
    simp [hc]
  · simp [h]

theorem spareCells_range (h : k ∈ s.spareCells) : k < 26 ∧ s.cellOn k = false := by
  obtain ⟨hr, hp⟩ := List.mem_filter.mp h
  exact ⟨List.mem_range.mp hr, by simpa using (Bool.and_eq_true_iff.mp hp).1⟩

theorem spareIn_map {sp : Nat} {old : Cell} (hk : k < 26) : (s.spareIn sp old).cellOn k = (s.cellOn k || decide (sp = k)) := by
  unfold cellOn spareIn
  extract_lets s1 s2
  rw [rd, (raise_pool _ _ _ _ _).fget (by decide +kernel) (by decide)]
  exact (congrArg (bitAt · k) (fget_showCells _ (by decide) _ _)).trans (bitAt_raiseBit hk sp)

theorem spareIn_retired {sp : Nat} {old : Cell} :
    (s.spareIn sp old).rd F.DET_CELL_RETIRED_RETIRED = s.rd F.DET_CELL_RETIRED_RETIRED := by
  unfold spareIn
  extract_lets s1 s2
  rw [rd, (raise_pool _ _ _ _ _).fget (by decide +kernel) (by decide)]
  exact (fget_showCells _ (by decide) _ _).trans (fget_wr _ _ _ _ (by decide))

theorem spareIn_det {sp : Nat} {old : Cell} : (s.spareIn sp old).det =
    (s.setCell sp { Cell.init with job := old.job, limit := old.limit }).det :=
  raise_pool _ _ _ _ _ .det (by decide)

theorem spareless_det {old : Cell} : (s.spareless old).det = { s.det with restart := s.det.restart ++ old.job.toList } :=
  raise_pool _ _ _ _ _ .det (by decide)

theorem fget_spareless {old : Cell} {g : Field} (hm : g ∈ allFields) (hb : Part.regs g.block ∉ partsOfEvent)
    (hg : g.place ∉ cellCountPlaces) (hs : g.place ≠ F.DET_ERR_STATUS_SPARES_OUT.place) :
    (s.spareless old).rd g = s.rd g := by
  unfold spareless
  extract_lets s1 d s2
  rw [rd, (raise_pool _ _ _ _ _).fget hm hb]
  exact (fget_wr _ _ _ _ hs).trans (fget_showCells _ hg _ _)

theorem spareless_out {old : Cell} : (s.spareless old).rd F.DET_ERR_STATUS_SPARES_OUT = 1 := by
  unfold spareless
  extract_lets s1 d s2
  rw [rd, (raise_pool _ _ _ _ _).fget (by decide +kernel) (by decide)]
  exact fget_fset_same _ _ _ _ _

/-- What may change when the medium faults with the last cell. -/
def partsOfCellsOut : List Part := [.out, .host, .sq, .obj, .life, .tape, .mot, .disk, .medium, .trc, .grp, .red, .regs 0,
  .regs 4, .regs 8, .regs 16, .regs 32, .regs 49]

theorem cellsOut_only : Only partsOfCellsOut s s.cellsOut :=
  .ite (.ite (mediaFault_only (by decide) (.refl s)) (diskFaulted_only (by decide) (.refl s))) (.refl s)

/-- A cell in service that is retired is in no service any more, and is recorded as retired. -/
theorem retireCell_gone (hc : c < 26) (ho : s.cellOn c = true) : (s.retireCell c cause).cellOn c = false ∧
    bitAt ((s.retireCell c cause).rd F.DET_CELL_RETIRED_RETIRED) c = true ∧
    bitAt (s.retireCell c cause).det.retiredRec c = true := by
  have hmap : (s.cellRetired c cause).cellOn c = false := by simp [cellRetired_map hc]
  have hret : bitAt ((s.cellRetired c cause).rd F.DET_CELL_RETIRED_RETIRED) c = true := by simp [cellRetired_retired hc]
  have hrec : bitAt (s.cellRetired c cause).det.retiredRec c = true := by simp [cellRetired_det, bitAt_setBit]
  rw [retireCell_eq, spareCells_cellRetired ho]
  rcases hsp : s.spareCells with _ | ⟨sp, l⟩
  · have hon := (cellsOut_only (s := (s.cellRetired c cause).spareless (s.cell c)))
    refine ⟨?_, ?_, ?_⟩
    · unfold cellOn
      rw [rd, hon.fget (by decide +kernel) (by decide)]
      exact (congrArg (bitAt · c) (fget_spareless (by decide +kernel) (by decide) (by decide) (by decide))).trans hmap
    · rw [rd, hon.fget (by decide +kernel) (by decide)]
      exact (congrArg (bitAt · c) (fget_spareless (by decide +kernel) (by decide) (by decide) (by decide))).trans hret
    · rw [(hon .det (by decide) : _ = _), spareless_det]
      exact hrec
  · have hne : sp ≠ c := by
      rintro rfl
      rw [(spareCells_range (hsp ▸ List.mem_cons_self)).2] at ho
      cases ho
    refine ⟨?_, ?_, ?_⟩
    · simp [spareIn_map hc, hmap, hne]
    · rw [spareIn_retired]
      exact hret
    · rw [spareIn_det]
      exact hrec

/-- The lowest spare takes the codeword of a retired cell. -/
theorem retireCell_spare {sp : Nat} {l : List Nat} (ho : s.cellOn c = true) (hsp : s.spareCells = sp :: l) :
    (s.retireCell c cause).cellOn sp = true ∧ ((s.retireCell c cause).cell sp).job = (s.cell c).job := by
  have hr := spareCells_range (hsp ▸ List.mem_cons_self)
  rw [retireCell_eq, spareCells_cellRetired ho, hsp]
  refine ⟨by simp [spareIn_map hr.1], ?_⟩
  rw [cell_congr _ (congrArg DetSt.cells spareIn_det), cell_setCell_same]

/-- Without a spare the codeword of a retired cell is to be restarted, and the spares are out. -/
theorem retireCell_spareless (ho : s.cellOn c = true) (hsp : s.spareCells = []) :
    (s.retireCell c cause).det.restart = s.det.restart ++ (s.cell c).job.toList ∧
    (s.retireCell c cause).rd F.DET_ERR_STATUS_SPARES_OUT = 1 := by
  have hon := (cellsOut_only (s := (s.cellRetired c cause).spareless (s.cell c)))
  rw [retireCell_eq, spareCells_cellRetired ho, hsp]
  refine ⟨?_, ?_⟩
  · rw [(hon .det (by decide) : _ = _), spareless_det, cellRetired_det]
    rfl
  · rw [rd, hon.fget (by decide +kernel) (by decide)]
    exact spareless_out

end State

end Sys2Proof.Machine

namespace Sys2Proof.Machine

/-! ## A codeword leaves its cell (R255, R256) -/

/-- The cells and the registers of the detector pool are the same. -/
structure PoolKept (s t : State) : Prop where
  cells : t.det.cells = s.det.cells
  regs : (Part.regs 24).same s t

namespace PoolKept

variable {s t u : State}

theorem refl (s : State) : PoolKept s s := ⟨rfl, fun _ _ _ _ _ => rfl⟩

theorem trans (h : PoolKept s t) (h' : PoolKept t u) : PoolKept s u :=
  ⟨h'.cells.trans h.cells, fun f hf hb i j => (h'.regs f hf hb i j).trans (h.regs f hf hb i j)⟩

theorem of_only {L : List Part} (h : Only L s t) (hd : Part.det ∉ L) (hr : Part.regs 24 ∉ L) : PoolKept s t :=
  ⟨congrArg DetSt.cells (h .det hd), h (.regs 24) hr⟩

theorem of_jobs {L : List Part} (h : JobsKept s t) (ho : Only L s t) (hr : Part.regs 24 ∉ L) : PoolKept s t :=
  ⟨h.cells, ho (.regs 24) hr⟩

theorem fget (h : PoolKept s t) {f : Field} (hf : f ∈ allFields) (hb : f.block = 24) (i j : Nat) :
    t.fget f i j = s.fget f i j := h.regs f hf hb i j

theorem ite {c : Prop} [Decidable c] (h : PoolKept s t) (h' : PoolKept s u) : PoolKept s (if c then t else u) := by
  split <;> assumption

end PoolKept

namespace State

variable {s : State}

theorem freeSamples_pool (j : Job) : PoolKept s (s.freeSamples j) :=
  .of_jobs (s.freeSamples_jobs j) (freeSamples_only (L := [.det, .regs 20]) (by decide) (.refl s)) (by decide)

theorem queued_pool (j : Job) : PoolKept s (s.queued j) := ⟨rfl, fun _ _ _ _ _ => rfl⟩

/-- What may change with a verify decision. -/
def partsOfDecision : List Part := [.out, .host, .sq, .obj, .life, .tape, .mot, .disk, .det, .medium, .wra, .ctl, .trc, .grp,
  .red, .pwr, .regs 0, .regs 4, .regs 8, .regs 16, .regs 20, .regs 28, .regs 32, .regs 49]

theorem verifyDecide_pool (c : Copy) (pass late : Bool) : PoolKept s (s.verifyDecide c pass late) := by
  refine ⟨?_, (verifyDecide_only (L := partsOfDecision) (by decide) (.refl s)) (.regs 24) (by decide)⟩
  by_cases h : c ∈ s.tape.awaiting
  · exact (verifyDecide_undecided h pass late).cells.trans (congrArg DetSt.cells (s.decided_det c pass late))
  · unfold verifyDecide
    rw [if_pos (by simpa using h)]

/-- What may change with the end of a read, for its owner. -/
def partsOfOwner : List Part := [.out, .host, .sq, .obj, .life, .tape, .mot, .disk, .ctl, .trc, .grp, .red, .pwr,
  .regs 0, .regs 4, .regs 8, .regs 16, .regs 32, .regs 49]

theorem owner_pool {t : State} (h : Only partsOfOwner s t) : PoolKept s t := .of_only h (by decide) (by decide)

theorem tapeMissing_pool (k ds cw : Nat) : PoolKept s (s.tapeMissing k ds cw) :=
  owner_pool (tapeMissing_only (by decide) (.refl s))

theorem tapeGood_pool (k ds cw : Nat) : PoolKept s (s.tapeGood k ds cw) := owner_pool (tapeGood_only (by decide) (.refl s))

theorem sectorEnd_pool (t : Target) (step : Nat) (r : Bool) : PoolKept s (s.sectorEnd t step r) :=
  owner_pool (sectorEnd_only (by decide) (.refl s))

theorem passReadBack_pool (z pos : Nat) : PoolKept s (s.passReadBack z pos) :=
  owner_pool (passReadBack_only (by decide) (.refl s))

theorem failReadBack_pool (z pos : Nat) : PoolKept s (s.failReadBack z pos) :=
  owner_pool (failReadBack_only (by decide) (.refl s))

theorem setUpReread_pool (j : Job) : PoolKept s (s.setUpReread j) := by
  obtain ⟨u, hj, ho, h⟩ := s.setUpReread_jobs j
  rw [h]
  exact (PoolKept.of_jobs hj ho (by decide)).trans ⟨rfl, fun _ _ _ _ _ => rfl⟩

theorem ladderStep_pool (j : Job) (n : Nat) : PoolKept s (s.ladderStep j n) := by
  unfold ladderStep
  refine .ite ((freeSamples_pool j).trans (sectorEnd_pool _ _ _)) ?_
  exact .ite ⟨rfl, fun _ _ _ _ _ => rfl⟩ ((freeSamples_pool _).trans (setUpReread_pool _))

theorem enterLadder_pool (j : Job) (n : Nat) : PoolKept s (s.enterLadder j n) :=
  (owner_pool (lifeAdd_only (by decide) (.refl s))).trans (ladderStep_pool j n)

theorem sectorFailed_pool (j : Job) (first : Nat) : PoolKept s (s.sectorFailed j first) := by
  unfold sectorFailed
  extract_lets go
  have hgo : PoolKept s (go s) := .ite (enterLadder_pool _ _) (ladderStep_pool _ _)
  split
  · exact .ite ((freeSamples_pool j).trans (failReadBack_pool _ _)) hgo
  · exact hgo

/-- A codeword that left as failed is counted; its owner leaves the pool as it is. -/
theorem cwFailed_pool (j : Job) (late : Bool) : PoolKept (s.inc F.DET_CW_FAIL_COUNT) (s.cwFailed j late) := by
  unfold cwFailed
  extract_lets s1
  split
  · exact (freeSamples_pool j).trans (verifyDecide_pool _ _ _)
  · exact .ite (queued_pool _) ((freeSamples_pool j).trans (tapeMissing_pool _ _ _))
  · split
    · exact queued_pool _
    · exact sectorFailed_pool _ _
    · exact sectorFailed_pool _ _

/-- A codeword that left as good is counted; its owner leaves the pool as it is. -/
theorem cwGood_pool (j : Job) (identity : Bool) (w0 : Nat) (late : Bool) :
    PoolKept (s.add64 F.DET_CW_GOOD_LO_COUNT F.DET_CW_GOOD_HI_COUNT 1) (s.cwGood j identity w0 late) := by
  unfold cwGood
  extract_lets s1
  split
  · exact (freeSamples_pool j).trans (verifyDecide_pool _ _ _)
  · exact .ite ((freeSamples_pool j).trans (tapeGood_pool _ _ _)) ((freeSamples_pool j).trans (tapeMissing_pool _ _ _))
  · refine .ite (.ite ?_ ?_) (.ite ?_ (sectorFailed_pool _ _))
    · exact (freeSamples_pool j).trans (passReadBack_pool _ _)
    · exact (freeSamples_pool j).trans (failReadBack_pool _ _)
    · exact (freeSamples_pool j).trans (sectorEnd_pool _ _ _)
  · exact .ite ((freeSamples_pool j).trans (sectorEnd_pool _ _ _)) (sectorFailed_pool _ _)

/-- A field apart from the two words of a 64-bit count stays. -/
theorem fget_add64 {lo hi g : Field} (hl : g.place ≠ lo.place) (hh : g.place ≠ hi.place) (n i j : Nat) :
    (s.add64 lo hi n).fget g i j = s.fget g i j :=
  (fget_wr _ _ _ _ hh).trans (fget_wr _ _ _ _ hl)

theorem rd_add64_lo {lo hi : Field} (hw : Nat.min lo.w 32 = 32) (h : lo.place ≠ hi.place) (n : Nat) :
    (s.add64 lo hi n).rd lo = (s.rd lo + n) % 2 ^ 32 := by
  refine (fget_wr _ _ _ _ h).trans ((fget_fset_same _ _ _ _ _).trans ?_)
  rw [hw]
  omega

/-- The iterations of a decode are counted. -/
def iterated (s : State) (c iters : Nat) : State :=
  s.add64 F.DET_ITER_LO_COUNT F.DET_ITER_HI_COUNT (Nat.min (s.cell c).limit iters)

/-- The places of the counter of iterations. -/
def iterPlaces : List Nat := [F.DET_ITER_LO_COUNT, F.DET_ITER_HI_COUNT].map Field.place

theorem fget_iterated {g : Field} (hg : g.place ∉ iterPlaces) (c iters i j : Nat) :
    (s.iterated c iters).fget g i j = s.fget g i j := by
  simp only [iterPlaces, List.map_cons, List.map_nil, List.mem_cons, List.not_mem_nil, not_or] at hg
  exact fget_add64 hg.1 hg.2.1 _ _ _

theorem fget_setCell (s : State) (c : Nat) (v : Cell) (g : Field) (i j : Nat) : (s.setCell c v).fget g i j = s.fget g i j := rfl

/-- A codeword has run on a cell, and its iterations are counted. -/
def decodeEnded (s : State) (c iters : Nat) : State := (s.iterated c iters).cellDone c

theorem decodeEnded_job (c iters : Nat) : ((s.decodeEnded c iters).cell c).job = none := by
  unfold decodeEnded cellDone
  extract_lets v n
  rw [cell_setCell_same]

theorem fget_decodeEnded {g : Field} (hg : g.place ∉ iterPlaces) (c iters i j : Nat) :
    (s.decodeEnded c iters).fget g i j = s.fget g i j := by
  unfold decodeEnded cellDone
  extract_lets v n
  rw [fget_setCell, fget_iterated hg]

theorem spareCells_iterated (c iters : Nat) : (s.iterated c iters).spareCells = s.spareCells := by
  unfold spareCells cellOn
  rw [rd, rd, fget_iterated (by decide), fget_iterated (by decide)]

theorem cellOn_iterated (c iters k : Nat) : (s.iterated c iters).cellOn k = s.cellOn k := by
  unfold cellOn
  rw [rd, fget_iterated (by decide)]

/-- Whether a codeword shows the copy that awaits its decision depends on the tape alone. -/
theorem identityOk_verify_congr {t : State} (ht : t.tape = s.tape)
    (hp : t.rd F.FMT_TSTATUS_PARTITION = s.rd F.FMT_TSTATUS_PARTITION) (c : Copy) (id : CwIdent) :
    t.identityOk (.verify c) id = s.identityOk (.verify c) id := by
  cases id with
  | cwid a b =>
    simp only [identityOk, cwidOf, copyPayload, ht, hp] <;> rfl
  | header h => rfl

/-- The decision on a verify codeword that left as good. -/
theorem cwGood_verify {j : Job} {k : Copy} (h : j.target = .verify k) (identity : Bool) (w0 : Nat) (late : Bool) :
    s.cwGood j identity w0 late =
      ((s.add64 F.DET_CW_GOOD_LO_COUNT F.DET_CW_GOOD_HI_COUNT 1).freeSamples j).verifyDecide k
        (identity && decide (s.rd F.FMT_RWW_MARGIN_THRESHOLD ≤ marginOf w0)) late := by
  unfold cwGood
  extract_lets s1
  rw [h]
  dsimp -zeta only
  rw [show s1.rd F.FMT_RWW_MARGIN_THRESHOLD = s.rd F.FMT_RWW_MARGIN_THRESHOLD from
    fget_add64 (by decide) (by decide) _ _ _]

theorem tape_freeSamples (s : State) (j : Job) : (s.freeSamples j).tape = s.tape :=
  freeSamples_only (L := [.det, .regs 20]) (by decide) (.refl s) .tape (by decide)

theorem cwGood_last16 {j : Job} {k : Copy} (h : j.target = .verify k) (hk : k ∈ s.tape.awaiting) (identity : Bool) (w0 : Nat)
    (late : Bool) : Store.get 0 (s.cwGood j identity w0 late).tape.last16 k.track =
      (Store.get 0 s.tape.last16 k.track * 2 +
        b2n (!(identity && decide (s.rd F.FMT_RWW_MARGIN_THRESHOLD ≤ marginOf w0) && !late))) % 65536 := by
  have ht : ((s.add64 F.DET_CW_GOOD_LO_COUNT F.DET_CW_GOOD_HI_COUNT 1).freeSamples j).tape = s.tape :=
    (tape_freeSamples _ j).trans (add64_tape s _ _ _)
  rw [cwGood_verify h, verifyDecide_last16 (by rwa [ht]), ht]

end State

end Sys2Proof.Machine

namespace Sys2Proof.Machine

namespace State

variable (s : State)

/-- A miscorrection is told, and its cell is to check itself before it takes another codeword (R256). -/
def miscorrected (c what : Nat) : State :=
  let s := ((s.inc F.DET_MISCORR_COUNT).wr F.DET_ERR_STATUS_MISCORRECT 1).raise 4 c 0x004 what
  s.setCell c { s.cell c with katDue := true, katFirst := true }

variable {s} {c what : Nat}

theorem miscorrected_cell : ((s.miscorrected c what).cell c).job = (s.cell c).job ∧
    ((s.miscorrected c what).cell c).katFirst = true := by
  unfold miscorrected
  extract_lets s1 v
  have h1 : s1.cell c = s.cell c := cell_congr _ (congrArg DetSt.cells (raise_pool _ _ _ _ _ .det (by decide))) c
  have hjob : v.job = (s.cell c).job := congrArg Cell.job h1
  rw [cell_setCell_same]
  exact ⟨hjob, rfl⟩

theorem miscorrected_count :
    (s.miscorrected c what).rd F.DET_MISCORR_COUNT = Nat.min (s.rd F.DET_MISCORR_COUNT + 1) (2 ^ 32 - 1) := by
  unfold miscorrected
  extract_lets s1 v
  rw [rd, fget_setCell, (raise_pool _ _ _ _ _).fget (by decide +kernel) (by decide), fget_wr _ _ _ _ (by decide)]
  exact rdi_addi _ (by decide) _ _

theorem miscorrected_status : (s.miscorrected c what).rd F.DET_ERR_STATUS_MISCORRECT = 1 := by
  unfold miscorrected
  extract_lets s1 v
  rw [rd, fget_setCell, (raise_pool _ _ _ _ _).fget (by decide +kernel) (by decide)]
  exact fget_fset_same _ _ _ _ _

theorem miscorrected_fails : (s.miscorrected c what).rd F.DET_CW_FAIL_COUNT = s.rd F.DET_CW_FAIL_COUNT := by
  unfold miscorrected
  extract_lets s1 v
  rw [rd, fget_setCell, (raise_pool _ _ _ _ _).fget (by decide +kernel) (by decide), fget_wr _ _ _ _ (by decide)]
  exact fget_addi _ _ _ _ _ (by decide)

/-- A failed codeword is counted. -/
theorem cwFailed_count (j : Job) (late : Bool) :
    (s.cwFailed j late).rd F.DET_CW_FAIL_COUNT = Nat.min (s.rd F.DET_CW_FAIL_COUNT + 1) (2 ^ 32 - 1) := by
  rw [rd, (cwFailed_pool j late).fget (by decide +kernel) (by decide)]
  exact rdi_addi s (by decide) 0 1

theorem cwFailed_other {g : Field} (hg : g ∈ allFields) (hb : g.block = 24) (hp : g.place ≠ F.DET_CW_FAIL_COUNT.place)
    (j : Job) (late : Bool) : (s.cwFailed j late).rd g = s.rd g :=
  ((cwFailed_pool j late).fget hg hb 0 0).trans (fget_addi _ _ _ _ _ hp)

theorem cwFailed_cell (j : Job) (late : Bool) (c : Nat) : (s.cwFailed j late).cell c = s.cell c :=
  cell_congr _ (cwFailed_pool j late).cells c

theorem cwGood_cell (j : Job) (identity : Bool) (w0 : Nat) (late : Bool) (c : Nat) :
    (s.cwGood j identity w0 late).cell c = s.cell c :=
  cell_congr _ ((cwGood_pool j identity w0 late).cells.trans (congrArg DetSt.cells (add64_det s _ _ _))) c

/-- A good codeword is counted. -/
theorem cwGood_count (j : Job) (identity : Bool) (w0 : Nat) (late : Bool) :
    (s.cwGood j identity w0 late).rd F.DET_CW_GOOD_LO_COUNT = (s.rd F.DET_CW_GOOD_LO_COUNT + 1) % 2 ^ 32 :=
  ((cwGood_pool j identity w0 late).fget (by decide +kernel) (by decide) 0 0).trans
    (rd_add64_lo (by decide) (by decide) 1)

/-- A cell that held a codeword is retired, and the lowest spare takes the codeword, or it is to be restarted (R260). -/
structure RetiredTo (s : State) (c : Nat) (j : Job) (u : State) : Prop where
  off : u.cellOn c = false
  shown : bitAt (u.rd F.DET_CELL_RETIRED_RETIRED) c = true
  recorded : bitAt u.det.retiredRec c = true
  spare : ∀ (sp : Nat) (l : List Nat), s.spareCells = sp :: l → u.cellOn sp = true ∧ (u.cell sp).job = some j
  spareless : s.spareCells = [] → u.det.restart = s.det.restart ++ [j] ∧ u.rd F.DET_ERR_STATUS_SPARES_OUT = 1

theorem retireCell_retiredTo {v : State} {j : Job} {cause : Nat} (hc : c < 26) (ho : v.cellOn c = true) (hd : v.det = s.det)
    (hs : v.spareCells = s.spareCells) (hj : (s.cell c).job = some j) : RetiredTo s c j (v.retireCell c cause) := by
  have hv : (v.cell c).job = some j := by rw [cell_congr s (congrArg DetSt.cells hd), hj]
  obtain ⟨hoff, hshown, hrec⟩ := retireCell_gone (cause := cause) hc ho
  refine ⟨hoff, hshown, hrec, fun sp l h => ?_, fun h => ?_⟩
  · obtain ⟨hon, hjob⟩ := retireCell_spare (cause := cause) ho (hs.trans h)
    exact ⟨hon, hjob.trans hv⟩
  · obtain ⟨hr, hout⟩ := retireCell_spareless (cause := cause) ho (hs.trans h)
    exact ⟨by rw [hr, hd, hv]; rfl, hout⟩

theorem iterated_det (c iters : Nat) : (s.iterated c iters).det = s.det := add64_det s _ _ _

theorem decodeEnded_tape (c iters : Nat) : (s.decodeEnded c iters).tape = s.tape := by
  unfold decodeEnded
  exact (cellDone_only (L := [.det]) (by decide) (.refl _) .tape (by decide) : _ = _).trans (add64_tape s _ _ _)

end State

section
variable {s : State} {cell : BitVec 5} {now : BitVec 64} {res : CellRes} {c : Nat} {j : Job} {conv syn tag : Bool}
  {ident : CwIdent} {w0 : BitVec 12} {iters : BitVec 6}

theorem exec_cellCodewordEnd_checked (hc : c = cell.toNat) (hj : (s.cell c).job = none) (hk : (s.cell c).kat = true) : ∃ u,
    exec (.cellCodewordEnd cell now (.selfCheck true)) s = .next u ∧ (u.cell c).kat = false ∧ (u.cell c).katDue = false ∧
      (u.cell c).sinceKat = 0 ∧ Only [.det] s u := by
  subst hc
  have he : exec (.cellCodewordEnd cell now (.selfCheck true)) s = .next (s.setCell cell.toNat
      { s.cell cell.toNat with kat := false, katDue := false, katFirst := false, sinceKat := 0 }) := by
    change execCellCodewordEnd cell now (.selfCheck true) s = _
    unfold execCellCodewordEnd
    extract_lets c
    rw [hj]
    exact if_neg (by simp [c, hk])
  refine ⟨_, he, ?_, ?_, ?_, State.setCell_only (by decide) (.refl s)⟩ <;> rw [State.cell_setCell_same]

theorem exec_cellCodewordEnd_parity (hc : c = cell.toNat) (hj : (s.cell c).job = some j) :
    exec (.cellCodewordEnd cell now .parity) s = .next (s.retireCell c 1) := by
  subst hc
  change execCellCodewordEnd cell now .parity s = _
  unfold execCellCodewordEnd
  extract_lets c
  rw [hj]

theorem exec_cellCodewordEnd_probed {w : List (BitVec 12)} (hc : c = cell.toNat) (hj : (s.cell c).job = some j)
    (hp : j.probing = true) : ∃ u, exec (.cellCodewordEnd cell now (.probes w)) s = .next u ∧ (u.cell c).job = none ∧
      u.det.waiting = s.det.waiting ++ [{ j with
        cands := rankCands (s.rd F.LANE_RETRY_CFG_LADDER_DECODES) (w.map (fun x => x.toNat)) j.cands
        probing := false, promoted := false }] := by
  subst hc
  change ∃ u, execCellCodewordEnd cell now (.probes w) s = .next u ∧ _
  unfold execCellCodewordEnd
  extract_lets c
  rw [hj]
  dsimp -zeta only
  rw [if_pos hp]
  extract_lets cs
  exact ⟨_, rfl, congrArg Cell.job (s.cell_setCell_same c _), rfl⟩

/-- What the end of a decode leads to, by the exit checks (R255, R256). -/
theorem exec_cellCodewordEnd_decode (hc : c = cell.toNat) (hj : (s.cell c).job = some j) (hp : j.probing = false) :
    exec (.cellCodewordEnd cell now (.decode conv syn tag ident w0 iters)) s = .next (
      let late := decide (j.cls = .verify) && decide (j.since + 400 < now.toNat)
      if conv && !syn then (s.iterated c iters.toNat).retireCell c 3
      else if conv && syn && tag then (s.decodeEnded c iters.toNat).cwGood j
        ((s.decodeEnded c iters.toNat).identityOk j.target ident) w0.toNat late
      else if conv && syn then
        ((s.decodeEnded c iters.toNat).miscorrected c (j.lane + w0.toNat * 256)).cwFailed j late
      else (s.decodeEnded c iters.toNat).cwFailed j late) := by
  subst hc
  change execCellCodewordEnd cell now (.decode conv syn tag ident w0 iters) s = _
  unfold execCellCodewordEnd
  extract_lets c
  rw [hj]
  dsimp -zeta only
  rw [if_neg (by simp [hp])]
  extract_lets
  rw [apply_ite Host.Outcome.next, apply_ite Host.Outcome.next, apply_ite Host.Outcome.next]
  rfl

/-- A cell whose parity fails, or whose exit checks disagree, is retired. -/
theorem exec_cellCodewordEnd_retired (hc : c = cell.toNat) (hj : (s.cell c).job = some j) (hp : j.probing = false)
    (h26 : c < 26) (ho : s.cellOn c = true)
    (hres : res = .parity ∨ ∃ tag ident w0 iters, res = .decode true false tag ident w0 iters) : ∃ u,
      exec (.cellCodewordEnd cell now res) s = .next u ∧ State.RetiredTo s c j u := by
  rcases hres with rfl | ⟨tag, ident, w0, iters, rfl⟩
  · exact ⟨_, exec_cellCodewordEnd_parity hc hj, State.retireCell_retiredTo h26 ho rfl rfl hj⟩
  · exact ⟨_, exec_cellCodewordEnd_decode hc hj hp, State.retireCell_retiredTo h26
      ((State.cellOn_iterated _ _ _).trans ho) (State.iterated_det _ _) (State.spareCells_iterated _ _) hj⟩

/-- A good codeword frees its cell and is counted; a verify codeword is decided by identity, margin and time. -/
theorem exec_cellCodewordEnd_good (hc : c = cell.toNat) (hj : (s.cell c).job = some j) (hp : j.probing = false) : ∃ u,
    exec (.cellCodewordEnd cell now (.decode true true true ident w0 iters)) s = .next u ∧ (u.cell c).job = none ∧
      u.rd F.DET_CW_GOOD_LO_COUNT = (s.rd F.DET_CW_GOOD_LO_COUNT + 1) % 2 ^ 32 ∧
      ∀ k : Copy, j.target = .verify k → j.cls = .verify → k ∈ s.tape.awaiting →
        Store.get 0 u.tape.last16 k.track = (Store.get 0 s.tape.last16 k.track * 2 +
          b2n (!(s.identityOk (.verify k) ident && decide (s.rd F.FMT_RWW_MARGIN_THRESHOLD ≤ marginOf w0.toNat) &&
            decide (now.toNat ≤ j.since + 400)))) % 65536 := by
  refine ⟨_, exec_cellCodewordEnd_decode hc hj hp, ?_, ?_, fun k ht hv hk => ?_⟩
  · exact (congrArg Cell.job (State.cwGood_cell _ _ _ _ c)).trans (State.decodeEnded_job c _)
  · refine (State.cwGood_count _ _ _ _).trans ?_
    rw [State.rd, State.fget_decodeEnded (by decide)]
  · have htape := s.decodeEnded_tape c iters.toNat
    have hid : (s.decodeEnded c iters.toNat).identityOk j.target ident = s.identityOk (.verify k) ident := by
      rw [ht]
      exact State.identityOk_verify_congr htape (State.fget_decodeEnded (by decide) _ _ _ _) k ident
    have hm : (s.decodeEnded c iters.toNat).rd F.FMT_RWW_MARGIN_THRESHOLD = s.rd F.FMT_RWW_MARGIN_THRESHOLD :=
      State.fget_decodeEnded (by decide) _ _ _ _
    have hlate : (!(decide (j.cls = .verify) && decide (j.since + 400 < now.toNat))) = decide (now.toNat ≤ j.since + 400) := by
      rw [Bool.eq_iff_iff]
      simp [hv]
    refine (State.cwGood_last16 ht (by rwa [htape]) _ _ _).trans ?_
    rw [hid, hm, hlate, htape]

/-- A failed codeword frees its cell and is counted; a miscorrected one is told, and its cell is to check itself first. -/
theorem exec_cellCodewordEnd_failed (hc : c = cell.toNat) (hj : (s.cell c).job = some j) (hp : j.probing = false)
    (hcs : conv = true → syn = true) (hf : (conv && tag) = false) : ∃ u,
    exec (.cellCodewordEnd cell now (.decode conv syn tag ident w0 iters)) s = .next u ∧ (u.cell c).job = none ∧
      u.rd F.DET_CW_FAIL_COUNT = Nat.min (s.rd F.DET_CW_FAIL_COUNT + 1) (2 ^ 32 - 1) ∧
      (conv = true → u.rd F.DET_MISCORR_COUNT = Nat.min (s.rd F.DET_MISCORR_COUNT + 1) (2 ^ 32 - 1) ∧
        u.rd F.DET_ERR_STATUS_MISCORRECT = 1 ∧ (u.cell c).katFirst = true) := by
  have hfail : (s.decodeEnded c iters.toNat).rd F.DET_CW_FAIL_COUNT = s.rd F.DET_CW_FAIL_COUNT :=
    State.fget_decodeEnded (by decide) _ _ _ _
  cases conv
  · refine ⟨_, exec_cellCodewordEnd_decode hc hj hp, ?_, ?_, nofun⟩
    · exact (congrArg Cell.job (State.cwFailed_cell _ _ c)).trans (State.decodeEnded_job c _)
    · exact (State.cwFailed_count _ _).trans (by rw [hfail])
  · obtain rfl := hcs rfl
    obtain rfl : tag = false := hf
    have hmis : (s.decodeEnded c iters.toNat).rd F.DET_MISCORR_COUNT = s.rd F.DET_MISCORR_COUNT :=
      State.fget_decodeEnded (by decide) _ _ _ _
    obtain ⟨hjob, hkat⟩ :=
      State.miscorrected_cell (s := s.decodeEnded c iters.toNat) (c := c) (what := j.lane + w0.toNat * 256)
    refine ⟨_, exec_cellCodewordEnd_decode hc hj hp, ?_, ?_, fun _ => ⟨?_, ?_, ?_⟩⟩
    · exact (congrArg Cell.job (State.cwFailed_cell _ _ c)).trans (hjob.trans (State.decodeEnded_job c _))
    · exact (State.cwFailed_count _ _).trans (by rw [State.miscorrected_fails, hfail])
    · exact (State.cwFailed_other (by decide +kernel) (by decide) (by decide) _ _).trans
        (State.miscorrected_count.trans (by rw [hmis]))
    · exact (State.cwFailed_other (by decide +kernel) (by decide) (by decide) _ _).trans State.miscorrected_status
    · exact (congrArg Cell.katFirst (State.cwFailed_cell _ _ c)).trans hkat

end

end Sys2Proof.Machine

namespace Sys2Proof.Machine

/-! ## Wedges of the servo heads (R247, R295, R296) -/

/-- What a wedge leaves of an actuator's state for its slots: track, position error, run of VALID wedges and record. -/
def ActSt.wedge (v : ActSt) : Int × Int × Nat × Option WedgeRec := (v.track, v.pes, v.validRun, v.wrec)

theorem servoLane_lt {n a : Nat} (h : servoLane n = some a) : a < 2 := by
  unfold servoLane at h
  split at h
  · next hn =>
    simp only [Bool.and_eq_true, decide_eq_true_eq] at hn
    cases h
    omega
  · cases h

namespace State

variable {s : State} {a : Nat}

theorem act_setAct_same (s : State) (a : Nat) (v : ActSt) : (s.setAct a v).act a = v := Store.get_put_same ..

theorem act_congr {t : State} (h : t.ctl.acts = s.ctl.acts) (a : Nat) : t.act a = s.act a := by unfold act; rw [h]

theorem setRampMode_acts (s : State) (n m : Nat) : (s.setRampMode n m).ctl.acts = s.ctl.acts := by
  unfold setRampMode
  split <;> rfl

/-- The slot of an actuator whose servo is acquired starts from its track; the actuator's own state stays. -/
theorem acquired_acts (s : State) (a : Nat) : (s.acquired a).ctl.acts = s.ctl.acts := by
  unfold acquired
  extract_lets n x v s1
  have h2 : ((s1.setRampMode n 2).setRampTarget n x).ctl.acts = (s1.setRampMode n 2).ctl.acts := rfl
  rw [h2, setRampMode_acts]
  rfl

/-- What a head on which servo is acquired may change. -/
def partsOfAcquiring : List Part := [.out, .host, .sq, .obj, .life, .tape, .disk, .trc, .grp, .red, .regs 0, .regs 4,
  .regs 8, .regs 16, .regs 49]

/-- What may follow from a wedge. -/
def partsOfWedge : List Part := [.out, .host, .sq, .obj, .life, .tape, .disk, .ctl, .trc, .grp, .red, .wra, .regs 0, .regs 4,
  .regs 8, .regs 16, .regs 28, .regs 32, .regs 49]

/-- What a reload's success changes leaves the wedge. -/
theorem reloadDone_wedge (s : State) (a : Nat) : ((s.reloadDone a).act a).wedge = (s.act a).wedge := by
  unfold reloadDone
  extract_lets v s1
  split
  · have hd : (s1.headAcquire (s1.servoHead a) true).ctl = s1.ctl :=
      headAcquire_only (L := partsOfAcquiring) (by decide) (.refl s1) .ctl (by decide)
    have hr : ∀ (t : State) (p q x y : Nat), (t.raise p q x y).ctl = t.ctl := fun t p q x y =>
      raise_only (L := partsOfEvent) (by decide) (.refl t) .ctl (by decide)
    rw [act_congr (s := s1) (by rw [acquired_acts, hr, hd]), act_setAct_same]
    rfl
  · rfl

theorem act_dkBit (s : State) (f : Field) (b : Nat) (v : Bool) (a : Nat) : (s.dkBit f b v).act a = s.act a := rfl

theorem settleWedge_wedge (s : State) (a : Nat) : ((s.settleWedge a).act a).wedge = (s.act a).wedge := by
  unfold settleWedge
  extract_lets v there
  split
  · rw [act_dkBit, act_setAct_same]
    rfl
  · rfl

theorem writePermit_act (s : State) (a : Nat) (valid : Bool) : (s.writePermit a valid).act a = s.act a :=
  act_congr (congrArg CtlSt.acts (writePermit_only (L := [.wra, .regs 28, .regs 32]) (by decide) (.refl s) .ctl (by decide))) a

/-- Without a VALID wedge the write permit is withdrawn (R296). -/
theorem writePermit_invalid (s : State) (ha : a < 2) : bitAt ((s.writePermit a false).rd F.CTL_DK_STATUS_PERMIT) a = false := by
  have hd : bitAt ((s.dkBit F.CTL_DK_STATUS_PERMIT a false).rd F.CTL_DK_STATUS_PERMIT) a = false := by
    unfold dkBit putBit
    rw [bitAt_wr (by simpa [F.CTL_DK_STATUS_PERMIT] using ha), if_neg (by simp), bitAt_clrBit]
    simp
  unfold writePermit
  extract_lets v normal second ok s1
  have hok : ok = false := by simp [ok]
  have h1 : s1 = s.dkBit F.CTL_DK_STATUS_PERMIT a false := by
    unfold s1
    rw [hok]
  split
  · rw [rd, fget_stopWrites' a 0 0 (by decide), h1]
    exact hd
  · rw [h1]
    exact hd

/-- A lane delivers a wedge: its servo state, and whether it shows a VALID wedge. -/
def wedgeLane (s : State) (n st index track : Nat) (found : Bool) (sums : List Nat) : State :=
  let l := s.lane n
  let s := s.setLane n { l with
    lastSums := if found then sums else l.lastSums, lastTrack := if st = 0 then track else l.lastTrack
    lastIndex := if st = 1 then (l.lastIndex + 1) % wedgesPerTurn else index }
  let s := s.wri F.LANE_STATUS_SERVO_VALID n (b2n (st = 0))
  if st = 0 then s else s.inci F.LANE_WEDGE_BAD_COUNT n

/-- The state of an actuator with a wedge of a status. -/
def wedgeAct (s : State) (a st track : Nat) (p : Int) (sam now : Nat) : ActSt :=
  let v := s.act a
  { v with
    track := if st = 0 then (track : Int) else v.track, pes := if st = 0 then p else v.pes
    validRun := if st = 0 then v.validRun + 1 else 0
    inLimit := if st = 0 && s.inWriteLimit p then v.inLimit + 1 else 0
    wrec := some { status := st, track := track, pes := p, sam := sam, time := now, taken := 0 } }

theorem wedgeLane_only (s : State) (n st index track : Nat) (found : Bool) (sums : List Nat) :
    Only [.det, .regs 20] s (s.wedgeLane n st index track found sums) := by
  unfold wedgeLane
  extract_lets l s1 s2
  have h2 : Only [.det, .regs 20] s s2 := wri_only (by decide) (setLane_only (by decide) (.refl s))
  exact .ite h2 (addi_only (by decide) h2)

theorem wedgeLane_valid (s : State) (n st index track : Nat) (found : Bool) (sums : List Nat) :
    (s.wedgeLane n st index track found sums).rdi F.LANE_STATUS_SERVO_VALID n = b2n (st = 0) := by
  unfold wedgeLane
  extract_lets l s1 s2
  have h2 : s2.rdi F.LANE_STATUS_SERVO_VALID n = b2n (st = 0) := by
    refine (fget_fset_same _ _ _ _ _).trans ?_
    by_cases h : st = 0 <;> simp [h, b2n, F.LANE_STATUS_SERVO_VALID]
  split
  · exact h2
  · exact (fget_addi _ _ _ _ _ (by decide)).trans h2

end State

section
variable {s : State} {lane : BitVec 7} {found half vga : Bool} {sums : List (BitVec 16)} {nominal : BitVec 18}
  {index : BitVec 10} {track : BitVec 24} {pes : BitVec 16} {sam : Word} {now : BitVec 64} {a st : Nat}

theorem exec_wedgeRecord_none (h : servoLane lane.toNat = none) :
    exec (.wedgeRecord lane found half vga sums nominal index track pes sam now) s = .next s := by
  change execWedgeRecord lane found half vga sums nominal index track pes sam now s = _
  unfold execWedgeRecord
  rw [h]

/-- A wedge with its record on the actuator, before a reload, the settling and the permit follow from it. -/
def State.wedged (s : State) (n a st : Nat) (found : Bool) (sums : List Nat) (index track : Nat) (p : Int) (sam now : Nat) :
    State :=
  let t := s.wedgeLane n st index track found sums
  t.setAct a (t.wedgeAct a st track p sam now)

theorem exec_wedgeRecord_taken (ha : servoLane lane.toNat = some a) (hd : s.dMode = true)
    (hr : bitAt (s.rd F.CTL_DK_STATUS_RETRACTED) a = false)
    (hst : st = s.wedgeStatus (s.lane lane.toNat) a found half vga ((sums.take 4).map BitVec.toNat) nominal.toNat
      index.toNat track.toNat) :
    exec (.wedgeRecord lane found half vga sums nominal index track pes sam now) s = .next
      ((((s.wedged lane.toNat a st found ((sums.take 4).map BitVec.toNat) index.toNat track.toNat (toSigned 16 pes.toNat)
        sam.toNat now.toNat).reloadDone a).settleWedge a).writePermit a (st = 0)) := by
  subst hst
  change execWedgeRecord lane found half vga sums nominal index track pes sam now s = _
  unfold execWedgeRecord
  rw [ha]
  dsimp -zeta only
  rw [if_neg (by simp [hd, hr])]
  rfl

theorem State.wedged_act (s : State) (n a st : Nat) (found : Bool) (sums : List Nat) (index track : Nat) (p : Int)
    (sam now : Nat) : ((s.wedged n a st found sums index track p sam now).act a).wedge =
      (if st = 0 then (track : Int) else (s.act a).track, if st = 0 then p else (s.act a).pes,
        if st = 0 then (s.act a).validRun + 1 else 0,
        some { status := st, track := track, pes := p, sam := sam, time := now, taken := 0 }) := by
  have hctl : (s.wedgeLane n st index track found sums).ctl = s.ctl :=
    s.wedgeLane_only n st index track found sums .ctl (by decide)
  have hact : (s.wedgeLane n st index track found sums).act a = s.act a := State.act_congr (congrArg CtlSt.acts hctl) a
  unfold State.wedged
  extract_lets t
  rw [State.act_setAct_same]
  unfold State.wedgeAct
  rw [hact]
  rfl

/-- A wedge of the servo head sets SERVO_VALID and leaves its record for the slots. -/
theorem exec_wedgeRecord_record (ha : servoLane lane.toNat = some a) (hd : s.dMode = true)
    (hr : bitAt (s.rd F.CTL_DK_STATUS_RETRACTED) a = false)
    (hst : st = s.wedgeStatus (s.lane lane.toNat) a found half vga ((sums.take 4).map BitVec.toNat) nominal.toNat
      index.toNat track.toNat) : ∃ u,
    exec (.wedgeRecord lane found half vga sums nominal index track pes sam now) s = .next u ∧
      u.rdi F.LANE_STATUS_SERVO_VALID lane.toNat = b2n (st = 0) ∧
      (u.act a).validRun = (if st = 0 then (s.act a).validRun + 1 else 0) ∧
      (st = 0 → (u.act a).track = track.toNat ∧ (u.act a).pes = toSigned 16 pes.toNat) ∧
      (st ≠ 0 → bitAt (u.rd F.CTL_DK_STATUS_PERMIT) a = false) ∧
      (u.act a).wrec = some { status := st, track := track.toNat, pes := toSigned 16 pes.toNat, sam := sam.toNat,
                              time := now.toNat, taken := 0 } := by
  have he := exec_wedgeRecord_taken (pes := pes) (sam := sam) (now := now) ha hd hr hst
  clear hst
  generalize (sums.take 4).map BitVec.toNat = b at he
  have hw := s.wedged_act lane.toNat a st found b index.toNat track.toNat (toSigned 16 pes.toNat) sam.toNat now.toNat
  have hv : (s.wedged lane.toNat a st found b index.toNat track.toNat (toSigned 16 pes.toNat) sam.toNat now.toNat).rdi
      F.LANE_STATUS_SERVO_VALID lane.toNat = b2n (st = 0) := s.wedgeLane_valid _ _ _ _ _ _
  generalize s.wedged lane.toNat a st found b index.toNat track.toNat (toSigned 16 pes.toNat) sam.toNat now.toNat = t at he hw hv
  have hwedge : ((((t.reloadDone a).settleWedge a).writePermit a (st = 0)).act a).wedge = (t.act a).wedge := by
    rw [State.writePermit_act, State.settleWedge_wedge, State.reloadDone_wedge]
  have hfield : Only State.partsOfWedge t
      (((t.reloadDone a).settleWedge a).writePermit a (st = 0)) :=
    State.writePermit_only (by decide) (State.settleWedge_only (by decide) (State.reloadDone_only (by decide) (.refl t)))
  have hp : st ≠ 0 →
      bitAt ((((t.reloadDone a).settleWedge a).writePermit a (st = 0)).rd F.CTL_DK_STATUS_PERMIT) a = false := by
    intro h0
    rw [decide_eq_false h0]
    exact State.writePermit_invalid _ (servoLane_lt ha)
  generalize ((t.reloadDone a).settleWedge a).writePermit a (st = 0) = u at he hwedge hfield hp
  rw [hw] at hwedge
  simp only [ActSt.wedge, Prod.mk.injEq] at hwedge
  obtain ⟨htrack, hpes, hrun, hrec⟩ := hwedge
  refine ⟨u, he, ?_, hrun, fun h0 => ?_, hp, hrec⟩
  · rw [State.rdi, hfield.fget (by decide +kernel) (by decide)]
    exact hv
  · rw [htrack, hpes, if_pos h0, if_pos h0]
    exact ⟨rfl, rfl⟩

end

end Sys2Proof.Machine

namespace Sys2Proof.Machine

/-! ## Codewords from the lanes to the cells of Sorrel and out again -/

/-- Settles O58: each lane, re-read, cell and wedge command by what it does to the lists of codewords, the cells and the
counters. -/
theorem codewords : Obligations.Codewords := by
  unfold Obligations.Codewords
  intro s
  refine ⟨fun lane target use marks run asperity now n hn => ?_, fun target run marks now => ?_,
    fun part ds good k hk => ?_, fun cell c hc => ?_, fun lane found half vga sums nominal index track pes sam now => ?_⟩
  · refine ⟨fun h => ?_, fun t h hb => ?_, exec_codewordComplete_no_channel hn, fun t h hb hr hf => ?_,
      fun c h hb h64 hm => ?_, fun h pos ht hb hr hf h4 => exec_codewordComplete_unframed hn ht hb hr hf h4⟩
    · subst hn
      exact exec_codewordComplete_none h
    · subst hn
      exact exec_codewordComplete_barred h hb
    · obtain ⟨u, hu, hw, hj⟩ := exec_codewordComplete_queued hn h hb hr hf
      exact ⟨u, _, hu, hw, rfl, rfl, rfl, rfl, rfl, rfl, hj⟩
    · exact ⟨_, exec_codewordComplete_unmarked hn h hb h64 hm,
        codewordRead_decided (State.targetOf_verify h) h64 hm _ rfl⟩
  · exact ⟨exec_retryRereadDone_none, fun t j h hj hr hf => exec_retryRereadDone_framed h hj hr hf⟩
  · refine ⟨exec_tapeRereadDone_none hk, fun n m g hf hm hg left hl => ⟨fun h => ?_, fun h ho => ?_⟩⟩
    · subst hg
      exact ⟨_, exec_tapeRereadDone_unread hk hf hm hl h, rfl, s.rereadNoted_good ..⟩
    · subst hg
      exact exec_tapeRereadDone_over hk hf hm hl h ho
  · refine ⟨fun now poison => ⟨exec_cellFreeDispatch_busy hc, fun ho hj hk hv => ?_⟩, exec_cellSelfCheckDue_on hc,
      exec_cellSelfCheckDue_off hc, fun now => ?_⟩
    · have hf : CellFree s c now.toNat := ⟨ho, hj, hk, hv⟩
      exact ⟨exec_cellFreeDispatch_katFirst hc hf, fun h k hk => ⟨fun j rest hr hp =>
        exec_cellFreeDispatch_restart hc hf hk hp h hr, fun j hr he hp => exec_cellFreeDispatch_verify hc hf hk hp h hr he,
        exec_cellFreeDispatch_katDue hc hf h,
        fun j hr he hd hy hn hp => exec_cellFreeDispatch_other hc hf hk hp h hr he hd hy hn⟩⟩
    · refine ⟨exec_cellCodewordEnd_checked hc, fun j res hj hp h26 ho hres => ?_, fun j w cs hj hp hcs => ?_,
        fun j conv syn tag ident w0 iters hj hp hcs => ?_⟩
      · obtain ⟨u, hu, hr⟩ := exec_cellCodewordEnd_retired (now := now) hc hj hp h26 ho hres
        exact ⟨u, hu, hr.off, hr.shown, hr.recorded, hr.spare, hr.spareless⟩
      · subst hcs
        exact exec_cellCodewordEnd_probed hc hj hp
      · cases hg : conv && tag
        · obtain ⟨u, hu, hjob, hfail, hmis⟩ :=
            exec_cellCodewordEnd_failed (now := now) (ident := ident) (w0 := w0) (iters := iters) hc hj hp hcs hg
          exact ⟨u, hu, hjob, nofun, fun _ => ⟨hfail, hmis⟩⟩
        · obtain ⟨rfl, rfl⟩ := Bool.and_eq_true_iff.mp hg
          obtain rfl := hcs rfl
          obtain ⟨u, hu, hjob, hgood, hver⟩ :=
            exec_cellCodewordEnd_good (now := now) (ident := ident) (w0 := w0) (iters := iters) hc hj hp
          exact ⟨u, hu, hjob, fun _ => ⟨hgood, hver⟩, nofun⟩
  · exact ⟨exec_wedgeRecord_none, fun a st ha hd hr hst => exec_wedgeRecord_record ha hd hr hst⟩

end Sys2Proof.Machine
